-- ==== Sys2Proof/Word.lean ====
section
/-! DEFINITION. The byte and the plainest arithmetic on numbers that stand for register contents: modulo a width,
two's complement, the comparison of wrapping counts. -/

namespace Sys2Proof

/-- One byte of a packet, a frame, a table or a memory. -/
abbrev Byte := BitVec 8

/-- A number kept to `w` bits. -/
def trunc (w n : Nat) : Nat := n % 2 ^ w

/-- The signed number that `w` bits spell in two's complement (05 R109). -/
def toSigned (w n : Nat) : Int :=
  if trunc w n < 2 ^ (w - 1) then (trunc w n : Int) else (trunc w n : Int) - (2 ^ w : Nat)

/-- The `w` bits that spell a signed number in two's complement. -/
def ofSigned (w : Nat) (i : Int) : Nat := (i % (2 ^ w : Nat)).toNat

/-- Bits `hi` down to `lo` of a number. -/
def bits (n hi lo : Nat) : Nat := (n / 2 ^ lo) % 2 ^ (hi + 1 - lo)

/-- Bit `i` of a number. -/
def bit (n i : Nat) : Bool := n.testBit i

/-- The signed distance from `y` to `x` on a 32-bit circle (09 R202). -/
def dist32 (x y : Nat) : Int := toSigned 32 (2 ^ 32 + x - y % 2 ^ 32)

/-- `1` for true and `0` for false, as a BOOL object reads. -/
def flag (b : Bool) : Nat := if b then 1 else 0

end Sys2Proof
end

