-- ==== Sys2Proof/Syntax.lean ====
section
/-! DEFINITION. The commands of the block: one constructor per row of spec/opcode_table.json, with the operands that the
row's step takes from outside. The table gives no operand bits; each operand is what the spec's text says the step
samples, receives or is told. -/

namespace Sys2Proof

/-- Where a datagram comes from: IPv4 address and UDP port (05 R97). -/
structure Src where
  ip : Nat
  port : Nat
  deriving DecidableEq, Repr

/-- The header fields of an Igrel request whose magic, version, reserved bytes, length and MAC are good (05 R98). -/
structure Hdr where
  src : Src
  sess : Nat
  seq : Nat
  tag : Nat
  deriving DecidableEq, Repr

/-- The supplies whose brown-out resets the device (03 R60, R79 sub-codes). -/
inductive Supply where
  | vddFab | vddClk | vddLane | vddIo
  deriving DecidableEq, Repr

/-- A UDP datagram as it arrives (05 R97): where from and where to, whether IPv4 has cut it, and its payload. -/
structure Datagram where
  src : Src
  ip : Nat
  port : Nat
  fragment : Bool
  bytes : List Byte
  deriving DecidableEq, Repr

/-- The outcome of a group line's request for leave (18 R389). -/
inductive WickOut where
  | grant | demote | skip
  deriving DecidableEq, Repr

/-- Motor phase A or B (20 R427). -/
inductive Phase where
  | a | b
  deriving DecidableEq, Repr

/-- The source that an uncorrectable error is found for (17 R374). -/
inductive DramSource where
  | stripRead | auxRead | scan | scrub | readback | serviceCore | twinResync
  deriving DecidableEq, Repr

/-- Who asks the Wick for leave, other than a line (18 R393, 01 Wick pools). -/
inductive Requester where
  | dramSet0
  | laneRetrain (m : Nat)
  | ledBurst (c : Nat)
  | dramTraining
  | dramSet1
  | purgeSpit
  | maintPattern
  | stepper (axis : Nat)
  deriving DecidableEq, Repr

/-- A request to the Wick: its energy in pJ from each pool it names and its peak (18 R388, R393). -/
structure WickReq where
  who : Requester
  core : Option Nat
  head : Option Nat
  mach : Option Nat
  /-- The energy of one strobe line of a maintenance pattern, pJ (R388). -/
  peak : Nat
  deriving DecidableEq, Repr

/-- What a sweep of the delay finds at one Vref code: bit `k` of `passes` is whether step `k` of the 128 passes (17 R376). -/
structure VrefSweep where
  code : Nat
  passes : Nat
  deriving DecidableEq, Repr

/-- One training sweep of a byte lane over the Vref codes, in both runs (17 R376). -/
structure Sweep where
  set : Nat
  lane : Nat
  write : Bool
  run1 : List VrefSweep
  run2 : List VrefSweep
  deriving DecidableEq, Repr

/-- What the reset controller sees of the clocks of a pended block (03 R72). -/
structure ClockView where
  /-- Frequency of REF measured against AON, in kHz. -/
  refKhz : Nat
  /-- The PLL of the block's domain indicates lock. -/
  pllLock : Bool
  /-- Lanes of the block whose CDR is not locked: module numbers of HEAD_LINK, lanes 0 and 1 of TWIN_LINK; of RASTER, receive lanes that the
  board has. -/
  unlocked : List Nat
  /-- PCLK of ports A and B in kHz; 0: absent. -/
  pclkKhz : List Nat
  /-- Every handshake request of the unit is low. -/
  quiet : Bool
  /-- Cycles for which each domain of the block has been stable, each in its own clock, in the order of the settle table. -/
  settled : List Nat
  deriving DecidableEq, Repr

/-- A camera line as the port samples it (13 R309, R310). -/
structure CamLine where
  /-- D[15:0] at each PCLK edge at which FVAL and LVAL are both high. -/
  words : List Nat
  /-- PCLK cycles for which LVAL stayed low before it rose for this line, and FVAL before its latest rise. -/
  lvalLow : Nat
  fvalLow : Nat
  /-- FVAL was high when LVAL rose. -/
  fvalHigh : Bool
  deriving DecidableEq, Repr

/-- The readings of one run of the LED short test: all 24 pins as inputs, and again with each pin in turn driven high (14 R338). -/
structure LedReads where
  idle : Nat
  driven : List Nat
  deriving DecidableEq, Repr

/-- A character of an 8b/10b lane: data, or one of the control characters (11 R252, R255). -/
inductive Sym where
  | d (b : Byte)
  | k (b : Byte)
  deriving DecidableEq, Repr

/-- The links whose lanes train (06, 11, 12). -/
inductive Link where
  | head | raster | twin
  deriving DecidableEq, Repr

/-- The commands. -/
inductive Instr where
  /-- POWER_ON_RESET (R60). -/
  | powerOnReset
  /-- PIN_RESET (R60). -/
  | pinReset
  /-- WATCHDOG_EXPIRY (R60). -/
  | watchdogExpiry
  /-- SNUFF_ESC_RESET (R60). -/
  | snuffEscReset (padHigh : Bool)
  /-- SUPPLY_BROWNOUT (R60). -/
  | supplyBrownout (supply : Supply)
  /-- REF_CLK_LOSS (R67). -/
  | refClkLoss
  /-- IGREL_RESET (R60). -/
  | igrelReset
  /-- RESET_RELEASE (R63). -/
  | resetRelease (roles : List Nat) (testEn : Bool)
  /-- PLL_LOCK (R72). -/
  | pllLock
  /-- SERVICE_CORE_RELEASE (R72). -/
  | serviceCoreRelease
  /-- BOOT_ROM_VERIFY (R75). -/
  | bootRomVerify (readsValid : Bool)
  /-- BOOT_RETRY (R78). -/
  | bootRetry
  /-- CONFIG_LOAD (R494). -/
  | configLoad
  /-- BLOCK_RESET_WRITE (R69). -/
  | blockResetWrite (h : Hdr) (v : Nat)
  /-- BLOCK_RELEASE (R71). -/
  | blockRelease (b : Fin 17) (clocks : ClockView)
  /-- RELEASE_PENDED (R73). -/
  | releasePended (b : Fin 17)
  /-- FIRMWARE_TICK (R242). -/
  | firmwareTick
  /-- FSI_SAMPLE (R18). -/
  | fsiSample (sites : List Nat)
  /-- DIE_TEMP_SAMPLE (R490). -/
  | dieTempSample (sensor : Fin 4) (t : Int)
  /-- CDC_STALL (R27). -/
  | cdcStall (crossing : Nat) (firingPath : Bool)
  /-- MODE_REQUEST_KINDLE (R46). -/
  | modeRequestKindle (h : Hdr)
  /-- MODE_REQUEST_PILOT (R41). -/
  | modeRequestPilot (h : Hdr)
  /-- MODE_REQUEST_TRIM (R41). -/
  | modeRequestTrim (h : Hdr)
  /-- MODE_REQUEST_LIT (R47). -/
  | modeRequestLit (h : Hdr)
  /-- MODE_REQUEST_SNUFF (R118). -/
  | modeRequestSnuff (h : Hdr)
  /-- LIT_STOP_COMPLETE (R44). -/
  | litStopComplete
  /-- STOP_SUPPRESS_TIMEOUT (R240). -/
  | stopSuppressTimeout (g : Fin 8)
  /-- SNUFF_ENTRY (R53). -/
  | snuffEntry
  /-- SAFE_STOP_ASSERT (R54). -/
  | safeStopAssert
  /-- SAFE_STOP_RELEASE (R54). -/
  | safeStopRelease
  /-- SNUFF_CAUSE_CLEAR (R7). -/
  | snuffCauseClear (h : Hdr) (v : Nat)
  /-- HEAD_PWR_DROP (R53). -/
  | headPwrDrop
  /-- HEAD_SETTLE_EXPIRY (R47). -/
  | headSettleExpiry
  /-- RESET_CAUSE_CLEAR (R63). -/
  | resetCauseClear (h : Hdr) (v : Nat)
  /-- RESET_REQUEST (R60). -/
  | resetRequest (h : Hdr) (v : Nat)
  /-- FUSE_PAD_PROGRAM (R87). -/
  | fusePadProgram (h : Hdr) (v : Nat) (vppOk : Bool)
  /-- FUSE_PROGRAM_COMPLETE (R92). -/
  | fuseProgramComplete (blown : Nat)
  /-- FUSE_PAD_CODE_READ (R86). -/
  | fusePadCodeRead (h : Hdr)
  /-- FUSE_LOCK (R90). -/
  | fuseLock (h : Hdr) (v : Nat) (vppOk : Bool)
  /-- JTAG_EXTEST (R96). -/
  | jtagExtest
  /-- JTAG_CLAMP (R96). -/
  | jtagClamp
  /-- JTAG_IDCODE (R96). -/
  | jtagIdcode
  /-- JTAG_SAMPLE_PRELOAD (R96). -/
  | jtagSamplePreload (cells : List Bool)
  /-- JTAG_HIGHZ (R96). -/
  | jtagHighz
  /-- JTAG_BYPASS (R96). -/
  | jtagBypass (code : Nat)
  /-- IGREL_DROP (R99). -/
  | igrelDrop (d : Datagram)
  /-- HELLO (R101). -/
  | hello (src : Src) (tag level : Nat) (nonce : List Byte)
  /-- PROOF (R100). -/
  | proof (src : Src) (tag sess : Nat) (bytes : List Byte)
  /-- RESERVATION_LAPSE (R101). -/
  | reservationLapse (sess : Nat)
  /-- AUTH_LOCKOUT_EXPIRY (R101). -/
  | authLockoutExpiry (ip : Nat)
  /-- CLOSE (R103). -/
  | close (h : Hdr) (payload : List Byte)
  /-- SESSION_IDLE_TIMEOUT (R103). -/
  | sessionIdleTimeout (sess : Nat)
  /-- READ (R105). -/
  | read (h : Hdr) (payload : List Byte) (vppOk : Bool)
  /-- WRITE (R106). -/
  | write (h : Hdr) (payload : List Byte) (vppOk forwarded : Bool)
  /-- DESCRIBE (R493). -/
  | describe (h : Hdr) (payload : List Byte)
  /-- BLOCK_START (R111). -/
  | blockStart (h : Hdr) (payload : List Byte)
  /-- BLOCK_SEGMENT (R111). -/
  | blockSegment (h : Hdr) (payload : List Byte)
  /-- BLOCK_ACK (R111). -/
  | blockAck (h : Hdr) (payload : List Byte)
  /-- BLOCK_END (R112). -/
  | blockEnd (h : Hdr) (payload : List Byte)
  /-- BLOCK_TIMEOUT (R112). -/
  | blockTimeout (sess tag : Nat)
  /-- SUBSCRIBE (R119). -/
  | subscribe (h : Hdr) (payload : List Byte)
  /-- TELEMETRY_SEND (R119). -/
  | telemetrySend (sess : Nat) (canSend : Bool)
  /-- CONFIG_SAVE (R494). -/
  | configSave (h : Hdr) (v : Nat)
  /-- FW_SLOT_WRITE (R122). -/
  | fwSlotWrite (h : Hdr)
  /-- FSI_MIN_CLEAR (R22). -/
  | fsiMinClear (h : Hdr) (v : Nat)
  /-- W1C_CLEAR (R9). -/
  | w1cClear (h : Hdr) (key v : Nat)
  /-- RASTER_LINK_UP (R131). -/
  | rasterLinkUp (trained : List Bool) (reversed : Bool)
  /-- RASTER_LANE_LOSS (R127). -/
  | rasterLaneLoss (lane : Fin 8) (lol : Bool) (errors : Nat)
  /-- RASTER_PACKET_DROP (R129). -/
  | rasterPacketDrop (errors : List Nat) (lanes : List (List Sym))
  /-- BLOCK (R132). -/
  | block (stream : Nat) (wax : List Byte)
  /-- COMMIT (R136). -/
  | commit (payload : List Byte)
  /-- CREDIT_PERIOD_EXPIRY (R131). -/
  | creditPeriodExpiry
  /-- STORE_FLUSH (R143). -/
  | storeFlush (h : Hdr) (v : Nat)
  /-- RING_MAP_WRITE (R142). -/
  | ringMapWrite (h : Hdr)
  /-- TAPER_LINE_REQUEST (R229). -/
  | taperLineRequest (g : Fin 8)
  /-- DECODE_LINE (R28). -/
  | decodeLine (e : Fin 8)
  /-- CONTEXT_REWIND (R165). -/
  | contextRewind (k : Fin 160)
  /-- CONTEXT_IMAGE_WRITE (R167). -/
  | contextImageWrite (h : Hdr)
  /-- STRIP_CORRECT (R171). -/
  | stripCorrect (st : Fin 128)
  /-- WICK_LINE_DECISION (R389). -/
  | wickLineDecision
  /-- LINE_FRAME_SEND (R260). -/
  | lineFrameSend (st : Fin 128)
  /-- HEALTH_EDIT (R186). -/
  | healthEdit (h : Hdr)
  /-- HEALTH_SWAP (R188). -/
  | healthSwap
  /-- HEALTH_OVERWRITE_DONE (R188). -/
  | healthOverwriteDone
  /-- PLACEMENT_TRIM_WRITE (R195). -/
  | placementTrimWrite (h : Hdr)
  /-- ENCODER_EDGE (R198). -/
  | encoderEdge (ch : Fin 2) (pins : List (Bool × Bool))
  /-- INDEX_EDGE (R215). -/
  | indexEdge (ch : Fin 2) (pins : List Bool)
  /-- STANDSTILL_TIMEOUT (R207). -/
  | standstillTimeout (ch : Fin 2)
  /-- ENCODER_BLOCK_EXPIRY (R224). -/
  | encoderBlockExpiry
  /-- ENCODER_ENABLE (R201). -/
  | encoderEnable (h : Hdr) (ch : Fin 2) (v : Nat)
  /-- ARMING_START (R228). -/
  | armingStart
  /-- LINE_ARM (R231). -/
  | lineArm (g : Fin 8)
  /-- STROBE_EDGE (R236). -/
  | strobeEdge (g : Fin 8)
  /-- STROBE_END (R236). -/
  | strobeEnd (g : Fin 8)
  /-- STROBE_CUT (R247). -/
  | strobeCut (g : Fin 8)
  /-- SNUFFER_ESCALATE (R248). -/
  | snufferEscalate (g : Fin 8) (padStillHigh : Bool)
  /-- MAINT_START (R250). -/
  | maintStart (h : Hdr) (v : Nat)
  /-- MAINT_LINE (R250). -/
  | maintLine
  /-- HEAD_TRAIN_REPLY (R277). -/
  | headTrainReply (m : Fin 32) (slot : Nat) (inverted : Bool)
  /-- HEAD_LANE_TIMEOUT (R277). -/
  | headLaneTimeout (m : Fin 32)
  /-- STATUS (R275). -/
  | status (m : Fin 32) (errors : Nat) (chars : List Sym)
  /-- STATUS_TIMEOUT (R278). -/
  | statusTimeout (m : Fin 32)
  /-- HEAD_LANE_LOSS (R278). -/
  | headLaneLoss (m : Fin 32) (lol : Bool) (errors : Nat)
  /-- CTRL_RESEND_TIMEOUT (R265). -/
  | ctrlResendTimeout (m : Fin 32)
  /-- HEAD_LANE_RETRAIN (R280). -/
  | headLaneRetrain (m : Fin 32)
  /-- RECOVER_TIME_EXPIRY (R280). -/
  | recoverTimeExpiry (m : Fin 32)
  /-- TIME_FRAME_SEND (R263). -/
  | timeFrameSend
  /-- TWIN_LANE_LOSS (R290). -/
  | twinLaneLoss (l : Fin 2) (errors : Nat)
  /-- HEARTBEAT_SEND (R291). -/
  | heartbeatSend
  /-- HEARTBEAT (R291). -/
  | heartbeat (payload : List Byte)
  /-- HEARTBEAT_TIMEOUT (R291). -/
  | heartbeatTimeout
  /-- ROLE_DECISION_TIMEOUT (R287). -/
  | roleDecisionTimeout
  /-- DECISION (R293). -/
  | decision (seq : Nat) (g : Fin 8) (outcome : WickOut)
  /-- LINE_STATE_SEND (R292). -/
  | lineStateSend
  /-- LINE_STATE (R295). -/
  | lineState (payload : List Byte)
  /-- LINE_STATE_TIMEOUT (R296). -/
  | lineStateTimeout (g : Fin 8)
  /-- TWIN_ALIVE_LOW (R296). -/
  | twinAliveLow
  /-- PUBLISH (R293). -/
  | publish (gen line : Nat) (recs : List Nat)
  /-- FINDING_MESSAGE (R326). -/
  | findingMessage (recs : List Nat)
  /-- MODE_MESSAGE (R57). -/
  | modeMessage (mode line : Nat)
  /-- SNUFF_ALL (R297). -/
  | snuffAll (causes : Nat)
  /-- SWAP_REQUEST (R301). -/
  | swapRequest (h : Hdr) (v : Nat)
  /-- SWAP_MESSAGE (R301). -/
  | swapMessage (line page : Nat)
  /-- ROLE_SWAP_COMPLETE (R301). -/
  | roleSwapComplete
  /-- PROMOTED (R300). -/
  | promoted (lines : List Nat)
  /-- TWIN_RESET_REQUEST (R64). -/
  | twinResetRequest
  /-- JOIN_REQ (R1). -/
  | joinReq (rev fw digest : Nat)
  /-- JOIN_PLAN (R303). -/
  | joinPlan (snapshot line : Nat)
  /-- JOIN_SNAPSHOT (R303). -/
  | joinSnapshot
  /-- JOIN_IMAGE (R303). -/
  | joinImage (images : List (Nat × List Byte)) (gen : Nat) (map : List (Nat × Nat))
  /-- JOIN_READY (R303). -/
  | joinReady
  /-- JOIN_COUNTERS (R303). -/
  | joinCounters (counters : List (Nat × Nat))
  /-- JOIN_RETRY (R303). -/
  | joinRetry
  /-- JOIN_ENTER_LIT (R303). -/
  | joinEnterLit
  /-- CAMERA_FRAME_START (R311). -/
  | cameraFrameStart (p : Fin 2)
  /-- CAMERA_TRIGGER (R311). -/
  | cameraTrigger (p : Fin 2)
  /-- CAMERA_LINE (R320). -/
  | cameraLine (p : Fin 2) (line : CamLine)
  /-- CAMERA_FRAME_END (R311). -/
  | cameraFrameEnd (p : Fin 2)
  /-- CAMERA_FRAME_TIMEOUT (R311). -/
  | cameraFrameTimeout (p : Fin 2) (fvalRose : Bool)
  /-- CAMERA_COMMIT (R314). -/
  | cameraCommit (h : Hdr) (c : Fin 8) (v : Nat)
  /-- UART_TX (R319). -/
  | uartTx (h : Hdr)
  /-- UART_TRANSFER (R319). -/
  | uartTransfer (p : Fin 2)
  /-- UART_RX_DONE (R319). -/
  | uartRxDone (p : Fin 2) (bytes : List Byte)
  /-- TAP_SELECT (R321). -/
  | tapSelect (h : Hdr) (v : Nat)
  /-- LED_SHORT_TEST (R338). -/
  | ledShortTest (run1 run2 : LedReads)
  /-- FLUSH_TIME_EXPIRY (R342). -/
  | flushTimeExpiry (ch : Fin 4)
  /-- CHUNK_COMPRESS (R344). -/
  | chunkCompress (ch : Fin 4)
  /-- UPLOAD_PACKET_SEND (R350). -/
  | uploadPacketSend
  /-- UPLOAD_CREDIT_GRANT (R349). -/
  | uploadCreditGrant (ch v : Nat)
  /-- UPLOAD_RESEND (R350). -/
  | uploadResend (ch v : Nat)
  /-- UPLOAD_ACK (R349). -/
  | uploadAck (ch v : Nat)
  /-- UPLOAD_ENTRY_DROPPED (R349). -/
  | uploadEntryDropped (ch v : Nat)
  /-- ACK_TIMEOUT_EXPIRY (R350). -/
  | ackTimeoutExpiry (ch : Fin 4)
  /-- UPLOAD_REQUEST (R354). -/
  | uploadRequest (h : Hdr)
  /-- SCAN_REQUEST (R361). -/
  | scanRequest (h : Hdr)
  /-- SCAN_COMPLETE (R363). -/
  | scanComplete
  /-- RUNNING_WRITE (R360). -/
  | runningWrite (h : Hdr) (u : Fin 16) (v : Nat)
  /-- SCRUB_BLOCK (R364). -/
  | scrubBlock (asRead : List Byte)
  /-- DRAM_CE (R373). -/
  | dramCe (addr word : Nat) (check : Byte) (overwritten : Bool)
  /-- DRAM_UE (R374). -/
  | dramUe (addr : Nat) (source : DramSource) (stream block word : Nat) (check : Byte)
  /-- RT_PANIC_RAISE (R380). -/
  | rtPanicRaise (st : Fin 128) (held : Nat)
  /-- RT_PANIC_CLEAR (R380). -/
  | rtPanicClear (held : List Nat)
  /-- MR4_POLL (R382). -/
  | mr4Poll (code : Nat) (faster : Bool)
  /-- DRAM_REFRESH (R382). -/
  | dramRefresh (channel : Fin 4) (bank : Nat)
  /-- FREQ_SELECT (R383). -/
  | freqSelect (h : Hdr) (v : Nat)
  /-- DRAM_FREQ_CHANGE (R384). -/
  | dramFreqChange
  /-- DRAM_FREQ_CHANGE_DONE (R384). -/
  | dramFreqChangeDone
  /-- WICK_REQUEST (R394). -/
  | wickRequest (r : WickReq)
  /-- WICK_DEFERRED_GRANT (R394). -/
  | wickDeferredGrant
  /-- WICK_DEFER_TIMEOUT (R394). -/
  | wickDeferTimeout (id : Nat)
  /-- HEADROOM_PUBLISH (R398). -/
  | headroomPublish
  /-- LOOP_SAMPLE (R402). -/
  | loopSample (i : Fin 48)
  /-- SPI_SENSE_DONE (R407). -/
  | spiSenseDone (p : Fin 4) (bits : Nat)
  /-- SPI_ACTUATOR_WRITE (R408). -/
  | spiActuatorWrite (p : Fin 4)
  /-- LOOP_FOLLOW_TIMEOUT (R419). -/
  | loopFollowTimeout (i : Fin 48)
  /-- BANK_SWAP (R417). -/
  | bankSwap (h : Hdr) (i : Fin 48) (v : Nat)
  /-- LOOP_SETPOINT (R419). -/
  | loopSetpoint (h : Hdr) (i : Fin 48) (v : Nat)
  /-- LOOP_ENABLE (R419). -/
  | loopEnable (h : Hdr) (i : Fin 48) (v : Nat)
  /-- TARGET (R434). -/
  | target (h : Hdr) (axis : Fin 4) (v : Nat)
  /-- MOVE_START (R434). -/
  | moveStart (axis : Fin 4)
  /-- MOTION_TICK (R435). -/
  | motionTick
  /-- HOME (R438). -/
  | home (h : Hdr) (axis : Fin 4) (v : Nat)
  /-- AXIS_STOP (R440). -/
  | axisStop (h : Hdr) (axis : Fin 4) (v : Nat)
  /-- STOP_ALL (R440). -/
  | stopAll (h : Hdr) (v : Nat)
  /-- CHOPPER_TRIP (R431). -/
  | chopperTrip (axis : Fin 4) (ph : Phase) (driveNs : Nat)
  /-- CHOPPER_TOFF_EXPIRY (R431). -/
  | chopperToffExpiry (axis : Fin 4) (ph : Phase)
  /-- CHOPPER_BLANK_EXPIRY (R431). -/
  | chopperBlankExpiry (axis : Fin 4) (ph : Phase) (high : Bool)
  /-- PHASE_OPEN_TIMEOUT (R433). -/
  | phaseOpenTimeout (axis : Fin 4) (ph : Phase)
  /-- TIME_SET (R447). -/
  | timeSet (h : Hdr) (v : Nat)
  /-- TIME_STEP (R447). -/
  | timeStep (h : Hdr) (v : Nat)
  /-- RATE_TRIM (R445). -/
  | rateTrim (h : Hdr) (v : Nat)
  /-- PTP_SYNC_SEND (R458). -/
  | ptpSyncSend
  /-- PTP_FOLLOW_UP (R458). -/
  | ptpFollowUp
  /-- PTP_ANNOUNCE_SEND (R455). -/
  | ptpAnnounceSend
  /-- PTP_DELAY_REQ (R456). -/
  | ptpDelayReq (domain identity seq : Nat)
  /-- PTP_FOREIGN_ANNOUNCE (R454). -/
  | ptpForeignAnnounce (identity : Nat)
  /-- PTP_TIMESTAMP_VECTOR (R457). -/
  | ptpTimestampVector (tx : Bool) (msg : Nat)
  /-- CAL_TEMPERATURE (R462). -/
  | calTemperature (run1 run2 : List Int)
  /-- CAL_FSI (R462). -/
  | calFsi (run1 run2 : List Nat)
  /-- CAL_TERMINATION (R462). -/
  | calTermination (codes : List (Nat × Nat × Nat))
  /-- CAL_EQUALISER (R462). -/
  | calEqualiser (unit s1 s2 : Nat)
  /-- CAL_CHOPPER (R432). -/
  | calChopper (run1 run2 : List Nat)
  /-- DRAM_TRAINING (R376). -/
  | dramTraining (sweeps : List Sweep)
  /-- ECC_FILL (R372). -/
  | eccFill
  /-- KINDLE_END (R497). -/
  | kindleEnd
  /-- FREEZE_NOW (R472). -/
  | freezeNow (h : Hdr) (v : Nat)
  /-- UNFREEZE (R475). -/
  | unfreeze (h : Hdr) (v : Nat)
  /-- TWIN_LINK_UP (R290): the lanes that have come up, and whether their order is reversed. -/
  | twinLinkUp (lane0 lane1 reversed : Bool)
  /-- TWIN_FRAME_DROP (R291). -/
  | twinFrameDrop (errors : List Nat)
  /-- TWIN_ALIVE_HIGH (R296). -/
  | twinAliveHigh
  /-- SUPPLY_MONITOR_TRIP (R52). -/
  | supplyMonitorTrip
  /-- JTAG_TAP_RESET (R65). -/
  | jtagTapReset
  /-- ARP_REQUEST (R97). -/
  | arpRequest (mac ip target : Nat)
  /-- ICMP_ECHO_REQUEST (R97). -/
  | icmpEchoRequest (src : Nat) (data : List Byte)
  deriving DecidableEq, Repr

end Sys2Proof
end

