-- ==== Sys2Proof/Decode.lean ====
section
/-! DEFINITION. The opcode table gives no row any bits (the device has no instruction words), so a word spells no command. -/

namespace Sys2Proof

/-- The command that a word spells by the bits of spec/opcode_table.json: none, for every word. -/
def decodeTableWord (_nbits _w : Nat) : Option Instr := none

end Sys2Proof
end

