-- ==== Sys2Proof/Machine/Bf24.lean ====
section
/-! DEFINITION. BF24, the block floating format of the loop engine (05 R109, R110; 19 R415). A value is kept as its 32-bit
word, mantissa in [23:0] and exponent in [31:24], always normalised. -/

namespace Sys2Proof.Machine.Bf24

/-- The signed mantissa of a word. -/
def man (w : Nat) : Int := toSigned 24 w

/-- The signed exponent of a word. -/
def exp (w : Nat) : Int := toSigned 8 (w / 2 ^ 24)

/-- The word of a mantissa and an exponent. -/
def mk (m e : Int) : Nat := ofSigned 24 m + 2 ^ 24 * ofSigned 8 e

/-- Bits of a number's magnitude. -/
def bitLen (n : Nat) : Nat := if n = 0 then 0 else Nat.log2 n + 1

/-- A magnitude shifted right, rounded to nearest with ties to even. -/
def roundShift (n k : Nat) : Nat :=
  let q := n / 2 ^ k
  let r := n % 2 ^ k
  if k = 0 then n
  else if r * 2 < 2 ^ k then q
  else if r * 2 = 2 ^ k then q + q % 2
  else q + 1

/-- The word of the exact value `m × 2^e`, normalised, rounded to 24 bits to nearest with ties to even; an exponent above 127
saturates to the largest value of the sign, and one below −128 gives 0 (R415). -/
def ofExact (m : Int) (e : Int) : Nat :=
  let a := m.natAbs
  if a = 0 then 0
  else
    let n := bitLen a
    let q0 := if n ≤ 23 then a * 2 ^ (23 - n) else roundShift a (n - 23)
    let carry := decide (q0 = 2 ^ 23)
    let q := if carry then 2 ^ 22 else q0
    let ex : Int := e + n + (if carry then 1 else 0)
    if ex > 127 then (if m < 0 then mk (-(2 ^ 23 - 1)) 127 else mk (2 ^ 23 - 1) 127)
    else if ex < -128 then 0
    else mk (if m < 0 then -(q : Int) else q) ex

/-- A written value, normalised; none where the exponent would leave −128 to 127 (R110). -/
def normalise (w : Nat) : Option Nat :=
  let m := man w
  if m = 0 then some 0
  else
    let n := bitLen m.natAbs
    let e := exp w + n - 23
    let q := if n ≤ 23 then m * (2 ^ (23 - n) : Nat) else m / 2
    if -128 ≤ e ∧ e ≤ 127 then some (mk q e) else none

/-- The value as a mantissa over a common scale: `m × 2^(e − 23)` is `num × 2^(−151)`. -/
def num (w : Nat) : Int := man w * (2 ^ (exp w + 128).toNat : Nat)

/-- The word of a value given over that scale. -/
def ofNum (n : Int) : Nat := ofExact n (-151)

/-- Sum, rounded (R415). -/
def add (a b : Nat) : Nat := ofNum (num a + num b)

/-- Negation, exact. -/
def neg (a : Nat) : Nat := ofNum (-(num a))

/-- Difference. -/
def sub (a b : Nat) : Nat := ofNum (num a - num b)

/-- Product, rounded (R415). -/
def mul (a b : Nat) : Nat := ofExact (man a * man b) (exp a + exp b - 46)

/-- Magnitude, exact. -/
def abs (a : Nat) : Nat := ofNum (num a).natAbs

/-- Comparison, exact. -/
def lt (a b : Nat) : Bool := decide (num a < num b)

/-- The lower of two values. -/
def min (a b : Nat) : Nat := if lt b a then b else a

/-- The higher of two values. -/
def max (a b : Nat) : Nat := if lt a b then b else a

/-- A value held between two bounds. -/
def clamp (x lo hi : Nat) : Nat := max lo (min x hi)

/-- An integer, rounded only above 24 significant bits (R415). -/
def ofInt (i : Int) : Nat := ofExact i 0

/-- `round(x)`: the nearest integer (ties to even), from the exact value. -/
def round (w : Nat) : Int :=
  let n := num w
  let q := roundShift n.natAbs 151
  if n < 0 then -(q : Int) else q

/-- The quotient of two exact values, rounded once to 24 bits (log entry 19). -/
def div (a b : Nat) : Nat :=
  let na := num a
  let nb := num b
  if nb = 0 then 0
  else
    let s : Nat := 2 ^ 600
    let q := na.natAbs * s / nb.natAbs
    let sticky := if na.natAbs * s % nb.natAbs = 0 then 0 else 1
    let m : Int := (2 * q + sticky : Nat)
    ofExact (if decide (na < 0) = decide (nb < 0) then m else -m) (-601)

end Sys2Proof.Machine.Bf24
end

