-- ==== Sys2Proof/Machine/Bytes.lean ====
section
/-! DEFINITION. Bytes on the wire and in memory: little- and big-endian numbers, cutting a layout into fields, and the
two check values (07 R154, 16 R359). -/

namespace Sys2Proof.Machine

/-- The `n` bytes of a number, least significant first (00, conventions). -/
def le : Nat → Nat → List Byte
  | 0, _ => []
  | n + 1, v => BitVec.ofNat 8 v :: le n (v / 256)

/-- The number that bytes spell, least significant first. -/
def fromLe : List Byte → Nat
  | [] => 0
  | b :: t => b.toNat + 256 * fromLe t

/-- The `n` bytes of a number, most significant first. -/
def be (n v : Nat) : List Byte := (le n v).reverse

/-- The number that bytes spell, most significant first. -/
def fromBe (l : List Byte) : Nat := fromLe l.reverse

/-- The `n`-byte little-endian field at an offset. -/
def field (l : List Byte) (off n : Nat) : Nat := fromLe ((l.drop off).take n)

/-- `n` zero bytes. -/
def zeros (n : Nat) : List Byte := List.replicate n 0

/-- Bytes padded with zeros, or cut, to `n` bytes. -/
def padTo (n : Nat) (l : List Byte) : List Byte := l.take n ++ zeros (n - l.length)

/-- The sum of a list of numbers. -/
def sumList : List Nat → Nat
  | [] => 0
  | a :: t => a + sumList t

/-- A list cut into `k` pieces of `n` elements. -/
def chunks {α : Type} (n : Nat) : Nat → List α → List (List α)
  | 0, _ => []
  | k + 1, l => l.take n :: chunks n k (l.drop n)

/-- The reflected polynomials: CRC-32C 0x1EDC_6F41 and CRC-32/IEEE 0x04C1_1DB7 (07 R154). -/
def crcPoly (ieee : Bool) : Nat := if ieee then 0xEDB88320 else 0x82F63B78

/-- One bit of a reflected CRC register. -/
def crcBit (poly c : Nat) : Nat := if c % 2 = 1 then (c / 2) ^^^ poly else c / 2

/-- `n` bits of a reflected CRC register. -/
def crcBits (poly : Nat) : Nat → Nat → Nat
  | 0, c => c
  | n + 1, c => crcBits poly n (crcBit poly c)

/-- Fold bytes into the 32-bit register (16 R359). -/
def crcFold (ieee : Bool) : Nat → List Byte → Nat
  | c, [] => c
  | c, b :: t => crcFold ieee (crcBits (crcPoly ieee) 8 (c ^^^ b.toNat)) t

/-- The register after INIT, before any prefix. -/
def crcInit : Nat := 0xFFFFFFFF

/-- The final XOR. -/
def crcFinal (c : Nat) : Nat := c ^^^ 0xFFFFFFFF

/-- The CRC-32C of bytes, with no prefix. -/
def crc32c (l : List Byte) : Nat := crcFinal (crcFold false crcInit l)

/-- The CRC-32/IEEE of bytes. -/
def crc32 (l : List Byte) : Nat := crcFinal (crcFold true crcInit l)

/-- The 8-byte identity prefix (07 R154, 11 R259): a U16, two zero bytes, a U32. -/
def crcPrefix (ident seq : Nat) : List Byte := le 2 ident ++ zeros 2 ++ le 4 seq

/-- The CRC-32C with the identity prefix. -/
def crcIdent (ident seq : Nat) (l : List Byte) : Nat := crc32c (crcPrefix ident seq ++ l)

end Sys2Proof.Machine
end

