-- ==== Sys2Proof/Config.lean ====
section
/-! DEFINITION. What the spec leaves open: opaque constants with no body, so that nothing can be proved about
their values. Each is named in a row of notes/assumptions. -/

namespace Sys2Proof.Config

/-- The stream of free values: `State.freeCtr` picks the next one (log entry 5). -/
opaque free : Nat → Nat

/-- Whether a quotient that is no whole number is read one higher than its floor, where the spec gives a register no
rounding; the arguments name the place, the numerator and the denominator (log entry 12). -/
opaque roundsUp : Nat → Int → Nat → Bool

/-- SERIAL of this device, from fuses (05, 0x1000:04; log entry 13). -/
opaque serial : Nat

/-- MAC_ADDR of this device, from fuses (05, 0x1010:04; log entry 13). -/
opaque macAddr : Nat

/-- The fuse hashes of the four key slots and whether each is revoked (03 R75; log entry 13). -/
opaque keyHash : Nat → List Byte
opaque keyRevoked : Nat → Bool

/-- The bytes that CONFIG_DIGEST's CRC runs over, as a function of the stored settings (12 R286; log entry 14). -/
opaque digestBytes : List (Nat × Nat) → List (Nat × List Byte) → List Byte

/-- The offset inside its ring at which byte `i` of block `seq` of a stream is stored (06 R132; log entry 11). -/
opaque ringPlace : Nat → Nat → Nat → Nat

/-- The Wax block body that a compressor emits for a chunk, from the channel, the chunk sequence, the history, the
last output byte, and the chunk (15 R343; log entry 15). -/
opaque waxTokens : Nat → Nat → List Byte → Byte → List Byte → List Byte

/-- The number of 10 µs ticks of a move's plan to a position, or of the ramp to a speed, and the sign of its jerk (−1, 0 or 1) with a
number of ticks to go; from position, velocity, acceleration and where it leads, and from V_MAX, A_MAX and J_MAX (20 R435, R436, R438; log
entry 16). -/
opaque planTicks : Int → Int → Int → Int → Nat × Nat × Nat → Nat
opaque planJerk : Int → Int → Int → Int → Nat × Nat × Nat → Nat → Int

/-- The number of ticks in which an axis brakes to rest from a velocity and an acceleration under A_MAX and J_MAX, and the sign of the jerk
with a number of ticks to go (20 R436; log entry 16). -/
opaque brakeTicks : Int → Int → Nat × Nat → Nat
opaque brakeJerk : Int → Int → Nat × Nat → Nat → Int

/-- Which of a list of equally long runs of passing steps a training sweep records (17 R376; log entry 106). -/
opaque equalRun : List (Nat × Nat) → Nat

/-- What RUNNING and RESULT of a bound check-value unit read: by object, by the number of outputs so far and by REF cycle (16 R358; log entry
107). -/
opaque boundUnit : Nat → Nat → Nat → Nat

/-- The estimate, in ms, of when a request slot will be free (05 R117; log entry 5). -/
opaque retryHint : Nat → Nat

/-- The energies in µJ that the firmware asks the Wick for: by requester (18 R393; log entry 17). -/
opaque firmwareEnergy : Nat → Nat

/-- The result of a counter of the given object that is stepped past the largest value of its type
(log entry 5). -/
opaque counterPastEnd : Nat → Nat → Nat

end Sys2Proof.Config
end

