-- ==== Sys2Proof/Machine/Dict.lean ====
section
/-! DEFINITION. The Igrel object dictionary (05 R109, R121 to R124, R493 and every chapter's object table): one row per
object of the tables, with its type, access, minimum write level, modes in which it may be written, default and the
values a write may carry. A key is index × 256 + subindex. -/

namespace Sys2Proof.Machine.Dict

/-- Type codes (05 R109). -/
inductive Ty where
  | bool | u8 | u16 | u32 | u64 | i8 | i16 | i32 | i64 | f32 | bf24 | time80 | domain
  deriving DecidableEq, Repr

/-- Access rights, numbered as a DESCRIBE reply numbers them (05). -/
inductive Acc where
  | ro | rw | wo | const
  deriving DecidableEq, Repr

/-- The values a write may carry, beside the type's own (R8, R109). -/
inductive Chk where
  | any
  | range (lo hi : Int)
  | rangeOr (lo hi other : Int)
  | oneOf (l : List Nat)
  /-- Bits outside the mask are reserved (R7). -/
  | mask (m : Nat)
  deriving DecidableEq, Repr

/-- A row of an object table: `idxN` indexes from `idx`, and `subN` subindices `stride` apart from `sub`. `modes` has bit n
set where mode n (0x1100:01) may write the object. -/
structure ObjRow where
  idx : Nat
  idxN : Nat
  sub : Nat
  stride : Nat
  subN : Nat
  ty : Ty
  acc : Acc
  level : Nat
  modes : Nat
  dflt : Nat → Nat → Nat
  chk : Chk

/-- Bytes of a value on the wire (R109); a DOMAIN has none. -/
def Ty.bytes : Ty → Nat
  | .bool | .u8 | .i8 => 1
  | .u16 | .i16 => 2
  | .u32 | .i32 | .f32 | .bf24 => 4
  | .u64 | .i64 => 8
  | .time80 => 10
  | .domain => 0

/-- The type code of R109. -/
def Ty.code : Ty → Nat
  | .bool => 1 | .u8 => 2 | .u16 => 3 | .u32 => 4 | .u64 => 5
  | .i8 => 6 | .i16 => 7 | .i32 => 8 | .i64 => 9 | .f32 => 10
  | .bf24 => 11 | .time80 => 12 | .domain => 15

/-- Whether a value of the type is two's complement. -/
def Ty.signed : Ty → Bool
  | .i8 | .i16 | .i32 | .i64 => true
  | _ => false

/-- The access code of a DESCRIBE reply. -/
def Acc.code : Acc → Nat
  | .ro => 0 | .rw => 1 | .wo => 2 | .const => 3

/-- A BF24 word from its signed mantissa and exponent, as R109 sends it. -/
def bf24Raw (m e : Int) : Nat := ofSigned 24 m + 2 ^ 24 * ofSigned 8 e

/-- Bytes of a stream's ring in the default map (06 R142): 48 MiB for a strip stream, 16 MiB for an auxiliary one. -/
def ringDefaultSize (k : Nat) : Nat := if k < 128 then 48 * 2 ^ 20 else 16 * 2 ^ 20

/-- The loop objects whose default R425 gives by slot. -/
inductive LoopObj where
  | lpClass | lpSource | sourceArg | actuator | actuatorArg | lpPeriod | lpPhase | scale | snuffMode | readyBand | followMax | followTime | plausMin | plausMax | slewMax | spiCfg | cnvTimes | actWord | kiTs | outMin | outMax | rateMax
  deriving DecidableEq, Repr

/-- 19 R425 for slots 0–31, 32–39 and 40–47; an item the table marks with a dash is 0 (log entry 6). -/
def loopDefault (o : LoopObj) (i _ : Nat) : Nat :=
  let pick (a b c : Nat) : Nat := if i < 32 then a else if i < 40 then b else c
  match o with
  | .lpClass => pick 1 2 0
  | .lpSource => pick 1 2 0
  | .sourceArg => pick (i + 128) ((i - 32) / 2) 0
  | .actuator => pick 1 2 0
  | .actuatorArg => pick i ((i - 32) / 2) 0
  | .lpPeriod => pick 100000 1000 1000
  | .lpPhase => pick (3000 * i) (if i % 2 = 0 then 0 else 500) 0
  | .scale => pick (bf24Raw 0x400000 (-5)) (bf24Raw 0x400000 1) (bf24Raw 0x400000 1)
  | .snuffMode => pick 1 0 1
  | .readyBand => pick (bf24Raw 0x400000 1) (bf24Raw 0x400000 0) (bf24Raw 0x400000 1)
  | .followMax => pick (bf24Raw 0x500000 3) (bf24Raw 0x400000 2) (bf24Raw 0x500000 4)
  | .followTime => pick 600000 5000 10000
  | .plausMin => pick 0 (bf24Raw (-0x640000) 7) (bf24Raw (-0x7A1200) 20)
  | .plausMax => pick (bf24Raw 0x5A0000 7) (bf24Raw 0x640000 7) (bf24Raw 0x7A1200 20)
  | .slewMax => pick (bf24Raw 0x400000 2) (bf24Raw 0x500000 4) (bf24Raw 0x7A1200 20)
  | .spiCfg => pick 0 0x42004 0x42004
  | .cnvTimes => pick 0 (40 + 1000 * 65536) (40 + 1000 * 65536)
  | .actWord => pick 0 ((0x3000 + 0x100 * (i % 2)) * 65536) 0
  | .kiTs => pick (bf24Raw 0x400000 (-6)) (bf24Raw 0x400000 (-4)) 0
  | .outMin => 0
  | .outMax => bf24Raw 0x400000 1
  | .rateMax => pick 0 (bf24Raw 6710886 (-4)) 0

/-- Object rows of index 0x1000. -/
def rows1000 : List ObjRow := [
  ⟨0x1000, 1, 0x1, 0, 1, .u32, .const, 1, 0, fun _ _ => 0x50421120, .any⟩,
  ⟨0x1000, 1, 0x2, 0, 1, .u16, .const, 1, 0, fun _ _ => 0xa1, .any⟩,
  ⟨0x1000, 1, 0x3, 0, 1, .u32, .ro, 1, 0, fun _ _ => 0, .any⟩,
  ⟨0x1000, 1, 0x4, 0, 1, .u64, .const, 1, 0, fun _ _ => trunc 64 Config.serial, .any⟩,
  ⟨0x1000, 1, 0x5, 0, 1, .u32, .ro, 1, 0, fun _ _ => 0, .any⟩,
  ⟨0x1000, 1, 0x6, 0, 1, .time80, .ro, 1, 0, fun _ _ => 0, .any⟩,
  ⟨0x1000, 1, 0x7, 0, 1, .u32, .ro, 1, 0, fun _ _ => 0, .any⟩]

/-- Object rows of index 0x2E01. -/
def rows2E01 : List ObjRow := [
  ⟨0x2e01, 1, 0x1, 0, 1, .u16, .ro, 1, 0, fun _ _ => 0, .any⟩,
  ⟨0x2e01, 1, 0x2, 0, 1, .u16, .ro, 1, 0, fun _ _ => 0, .any⟩,
  ⟨0x2e01, 1, 0x3, 0, 1, .u16, .ro, 1, 0, fun _ _ => 0, .any⟩,
  ⟨0x2e01, 1, 0x4, 0, 1, .u16, .rw, 1, 12, fun _ _ => 760, .range 512 1536⟩,
  ⟨0x2e01, 1, 0x5, 0, 1, .u8, .ro, 1, 0, fun _ _ => 0, .any⟩,
  ⟨0x2e01, 1, 0x6, 0, 1, .bool, .wo, 1, 28, fun _ _ => 0, .any⟩]

/-- Object rows of index 0x1100. -/
def rows1100 : List ObjRow := [
  ⟨0x1100, 1, 0x1, 0, 1, .u8, .ro, 1, 0, fun _ _ => 0, .any⟩,
  ⟨0x1100, 1, 0x2, 0, 1, .u8, .wo, 1, 61, fun _ _ => 0, .range 1 5⟩,
  ⟨0x1100, 1, 0x3, 0, 1, .bool, .rw, 1, 1, fun _ _ => 0, .any⟩,
  ⟨0x1100, 1, 0x4, 0, 1, .u32, .ro, 1, 0, fun _ _ => 0, .any⟩,
  ⟨0x1100, 1, 0x5, 0, 1, .u32, .wo, 1, 32, fun _ _ => 0, .any⟩,
  ⟨0x1100, 1, 0x6, 0, 1, .u16, .ro, 1, 0, fun _ _ => 0, .any⟩,
  ⟨0x1100, 1, 0x7, 0, 1, .u8, .ro, 1, 0, fun _ _ => 0, .any⟩,
  ⟨0x1100, 1, 0x8, 0, 1, .time80, .ro, 1, 0, fun _ _ => 0, .any⟩,
  ⟨0x1100, 1, 0x9, 0, 1, .u32, .ro, 1, 0, fun _ _ => 0, .any⟩,
  ⟨0x1100, 1, 0xa, 0, 1, .u16, .rw, 1, 12, fun _ _ => 100, .range 0 10000⟩,
  ⟨0x1100, 1, 0xb, 0, 1, .u32, .ro, 1, 0, fun _ _ => 0, .any⟩,
  ⟨0x1100, 1, 0xc, 0, 1, .u16, .rw, 1, 12, fun _ _ => 500, .range 0 10000⟩,
  ⟨0x1100, 1, 0xd, 0, 1, .u8, .ro, 1, 0, fun _ _ => 0, .any⟩,
  ⟨0x1100, 1, 0x10, 1, 8, .u32, .ro, 1, 0, fun _ _ => 0, .any⟩]

/-- Object rows of index 0x1200. -/
def rows1200 : List ObjRow := [
  ⟨0x1200, 1, 0x1, 0, 1, .u16, .ro, 1, 0, fun _ _ => 1, .any⟩,
  ⟨0x1200, 1, 0x2, 0, 1, .u16, .wo, 1, 61, fun _ _ => 0, .any⟩,
  ⟨0x1200, 1, 0x3, 0, 1, .u32, .ro, 1, 0, fun _ _ => 0, .any⟩,
  ⟨0x1200, 1, 0x4, 0, 1, .u16, .ro, 1, 0, fun _ _ => 0, .any⟩,
  ⟨0x1200, 1, 0x5, 0, 1, .u8, .wo, 2, 45, fun _ _ => 0, .oneOf [0x5A]⟩,
  ⟨0x1200, 1, 0x6, 0, 1, .u16, .rw, 1, 13, fun _ _ => 100, .range 10 10000⟩,
  ⟨0x1200, 1, 0x7, 0, 1, .bool, .rw, 1, 1, fun _ _ => 0, .any⟩,
  ⟨0x1200, 1, 0x8, 0, 1, .u32, .rw, 1, 61, fun _ _ => 0x1ffff, .mask 0x1FFFF⟩,
  ⟨0x1200, 1, 0x9, 0, 1, .u32, .ro, 1, 0, fun _ _ => 0, .any⟩,
  ⟨0x1200, 1, 0xa, 0, 1, .u16, .ro, 1, 0, fun _ _ => 0, .any⟩,
  ⟨0x1200, 1, 0xb, 0, 1, .u16, .rw, 1, 1, fun _ _ => 0, .any⟩,
  ⟨0x1200, 1, 0xc, 0, 1, .u8, .ro, 1, 0, fun _ _ => 0, .any⟩,
  ⟨0x1200, 1, 0xd, 0, 1, .u8, .wo, 2, 1, fun _ _ => 0, .range 0 3⟩,
  ⟨0x1200, 1, 0xe, 0, 1, .u16, .ro, 1, 0, fun _ _ => 0, .any⟩,
  ⟨0x1200, 1, 0xf, 0, 1, .bool, .wo, 2, 1, fun _ _ => 0, .any⟩]

/-- Object rows of index 0x1010. -/
def rows1010 : List ObjRow := [
  ⟨0x1010, 1, 0x1, 0, 1, .u32, .rw, 2, 1, fun _ _ => 0xc0a8e732, .any⟩,
  ⟨0x1010, 1, 0x2, 0, 1, .u32, .rw, 2, 1, fun _ _ => 0xffffff00, .any⟩,
  ⟨0x1010, 1, 0x3, 0, 1, .u32, .rw, 2, 1, fun _ _ => 0, .any⟩,
  ⟨0x1010, 1, 0x4, 0, 1, .u64, .const, 1, 0, fun _ _ => trunc 48 Config.macAddr, .any⟩,
  ⟨0x1010, 1, 0x5, 0, 1, .domain, .wo, 2, 5, fun _ _ => 0, .any⟩,
  ⟨0x1010, 1, 0x6, 0, 1, .domain, .wo, 2, 5, fun _ _ => 0, .any⟩,
  ⟨0x1010, 1, 0x7, 0, 1, .domain, .wo, 2, 5, fun _ _ => 0, .any⟩,
  ⟨0x1010, 1, 0x8, 0, 1, .u16, .rw, 2, 13, fun _ _ => 30, .range 5 600⟩,
  ⟨0x1010, 1, 0x9, 0, 1, .u32, .ro, 1, 0, fun _ _ => 0, .any⟩,
  ⟨0x1010, 1, 0xa, 0, 1, .u32, .ro, 1, 0, fun _ _ => 0, .any⟩,
  ⟨0x1010, 1, 0xb, 0, 1, .u32, .ro, 1, 0, fun _ _ => 0, .any⟩,
  ⟨0x1010, 1, 0xc, 0, 1, .u8, .ro, 1, 0, fun _ _ => 0, .any⟩,
  ⟨0x1010, 1, 0xd, 0, 1, .u8, .wo, 2, 13, fun _ _ => 0, .oneOf [0x5A]⟩]

/-- Object rows of index 0x3FF0. -/
def rows3FF0 : List ObjRow := [
  ⟨0x3ff0, 1, 0x1, 0, 1, .domain, .rw, 2, 13, fun _ _ => 0, .any⟩,
  ⟨0x3ff0, 1, 0x2, 0, 1, .domain, .rw, 2, 13, fun _ _ => 0, .any⟩]

/-- Object rows of index 0x2000. -/
def rows2000 : List ObjRow := [
  ⟨0x2000, 1, 0x1, 0, 1, .u8, .ro, 1, 0, fun _ _ => 0, .any⟩,
  ⟨0x2000, 1, 0x2, 0, 1, .u8, .rw, 1, 1, fun _ _ => 8, .oneOf [4, 8]⟩,
  ⟨0x2000, 1, 0x3, 0, 1, .u32, .ro, 1, 0, fun _ _ => 0, .any⟩,
  ⟨0x2000, 1, 0x4, 0, 1, .u8, .ro, 1, 0, fun _ _ => 0, .any⟩,
  ⟨0x2000, 1, 0x5, 0, 1, .u16, .rw, 1, 12, fun _ _ => 2048, .range 64 65535⟩,
  ⟨0x2000, 1, 0x6, 0, 1, .u16, .rw, 1, 12, fun _ _ => 10, .range 2 1000⟩,
  ⟨0x2000, 1, 0x7, 0, 1, .u32, .ro, 1, 0, fun _ _ => 0, .any⟩,
  ⟨0x2000, 1, 0x8, 0, 1, .u32, .ro, 1, 0, fun _ _ => 0, .any⟩,
  ⟨0x2000, 1, 0x9, 0, 1, .u64, .ro, 1, 0, fun _ _ => 0, .any⟩,
  ⟨0x2000, 1, 0xa, 0, 1, .u32, .ro, 1, 0, fun _ _ => 0, .any⟩,
  ⟨0x2000, 1, 0xb, 0, 1, .u8, .wo, 1, 44, fun _ _ => 0, .oneOf [0x5A]⟩,
  ⟨0x2000, 1, 0xc, 0, 1, .domain, .rw, 2, 1, fun _ _ => 0, .any⟩]

/-- Object rows of index 0x2100. -/
def rows2100 : List ObjRow := [
  ⟨0x2100, 160, 0x1, 0, 1, .u32, .ro, 1, 0, fun _ _ => 0, .any⟩,
  ⟨0x2100, 160, 0x2, 0, 1, .u32, .ro, 1, 0, fun _ _ => 0, .any⟩,
  ⟨0x2100, 160, 0x3, 0, 1, .u32, .ro, 1, 0, fun k _ => ringDefaultSize k / 64, .any⟩,
  ⟨0x2100, 160, 0x4, 0, 1, .u32, .ro, 1, 0, fun _ _ => 0, .any⟩,
  ⟨0x2100, 160, 0x5, 0, 1, .u32, .ro, 1, 0, fun _ _ => 0, .any⟩,
  ⟨0x2100, 160, 0x6, 0, 1, .u32, .ro, 1, 0, fun _ _ => 0, .any⟩,
  ⟨0x2100, 160, 0x7, 0, 1, .u32, .ro, 1, 0, fun _ _ => 0, .any⟩,
  ⟨0x2100, 160, 0x10, 0, 1, .u8, .ro, 1, 0, fun _ _ => 0, .any⟩,
  ⟨0x2100, 160, 0x11, 0, 1, .u32, .ro, 1, 0, fun _ _ => 0, .any⟩,
  ⟨0x2100, 160, 0x12, 0, 1, .u32, .ro, 1, 0, fun _ _ => 0, .any⟩,
  ⟨0x2100, 160, 0x13, 0, 1, .u64, .ro, 1, 0, fun _ _ => 0, .any⟩,
  ⟨0x2100, 160, 0x14, 0, 1, .u32, .ro, 1, 0, fun _ _ => 0, .any⟩,
  ⟨0x2100, 160, 0x15, 0, 1, .u32, .ro, 1, 0, fun _ _ => 0, .any⟩,
  ⟨0x2100, 160, 0x16, 0, 1, .u64, .ro, 1, 0, fun _ _ => 0, .any⟩,
  ⟨0x2100, 160, 0x17, 0, 1, .domain, .rw, 2, 4, fun _ _ => 0, .any⟩]

/-- Object rows of index 0x2200. -/
def rows2200 : List ObjRow := [
  ⟨0x2200, 128, 0x1, 0, 1, .u8, .ro, 1, 0, fun _ _ => 0, .any⟩,
  ⟨0x2200, 128, 0x2, 0, 1, .u32, .ro, 1, 0, fun _ _ => 0, .any⟩,
  ⟨0x2200, 128, 0x3, 0, 1, .u8, .ro, 1, 0, fun _ _ => 0, .any⟩,
  ⟨0x2200, 128, 0x4, 0, 1, .u64, .ro, 1, 0, fun _ _ => 0, .any⟩,
  ⟨0x2200, 128, 0x5, 0, 1, .u64, .ro, 1, 0, fun _ _ => 0, .any⟩,
  ⟨0x2200, 128, 0x6, 0, 1, .u64, .ro, 1, 0, fun _ _ => 0, .any⟩,
  ⟨0x2200, 128, 0x7, 0, 1, .u64, .ro, 1, 0, fun _ _ => 0, .any⟩,
  ⟨0x2200, 128, 0x8, 0, 1, .u64, .ro, 1, 0, fun _ _ => 0, .any⟩,
  ⟨0x2200, 128, 0x9, 0, 1, .u64, .ro, 1, 0, fun _ _ => 0, .any⟩,
  ⟨0x2200, 128, 0xa, 0, 1, .u64, .ro, 1, 0, fun _ _ => 0, .any⟩,
  ⟨0x2200, 128, 0xb, 0, 1, .u64, .ro, 1, 0, fun _ _ => 0, .any⟩,
  ⟨0x2200, 128, 0xc, 0, 1, .u16, .ro, 1, 0, fun _ _ => 0, .any⟩,
  ⟨0x2200, 128, 0xd, 0, 1, .u8, .rw, 1, 12, fun _ _ => 0xe4, .any⟩,
  ⟨0x2200, 128, 0xe, 0, 1, .u8, .rw, 1, 12, fun _ _ => 1, .range 0 2⟩,
  ⟨0x2200, 128, 0xf, 0, 1, .u8, .rw, 1, 12, fun _ _ => 0, .range 0 2⟩]

/-- Object rows of index 0x3000. -/
def rows3000 : List ObjRow := [
  ⟨0x3000, 1, 0x1, 0, 1, .domain, .ro, 1, 0, fun _ _ => 0, .any⟩,
  ⟨0x3000, 1, 0x2, 0, 1, .domain, .ro, 1, 0, fun _ _ => 0, .any⟩,
  ⟨0x3000, 1, 0x3, 0, 1, .domain, .wo, 1, 28, fun _ _ => 0, .any⟩,
  ⟨0x3000, 1, 0x4, 0, 1, .u32, .ro, 1, 0, fun _ _ => 0, .any⟩,
  ⟨0x3000, 1, 0x5, 0, 1, .u32, .ro, 1, 0, fun _ _ => 0, .any⟩,
  ⟨0x3000, 1, 0x6, 0, 1, .u8, .rw, 1, 12, fun _ _ => 12, .range 4 32⟩,
  ⟨0x3000, 1, 0x7, 0, 1, .u32, .ro, 1, 0, fun _ _ => 0, .any⟩]

/-- Object rows of index 0x3010. -/
def rows3010 : List ObjRow := [
  ⟨0x3010, 1, 0x1, 0, 1, .domain, .rw, 1, 12, fun _ _ => 0, .any⟩]

/-- Object rows of index 0x3020. -/
def rows3020 : List ObjRow := [
  ⟨0x3020, 1, 0x1, 0, 1, .domain, .rw, 1, 12, fun _ _ => 0, .any⟩]

/-- Object rows of index 0x3030. -/
def rows3030 : List ObjRow := [
  ⟨0x3030, 1, 0x1, 0, 1, .domain, .rw, 2, 12, fun _ _ => 0, .any⟩]

/-- Object rows of index 0x2300, part 1. -/
def rows2300a : List ObjRow := [
  ⟨0x2300, 1, 0x1, 32, 2, .bool, .rw, 1, 12, fun _ _ => 0, .any⟩,
  ⟨0x2300, 1, 0x2, 32, 2, .u8, .rw, 1, 12, fun _ _ => 3, .range 1 15⟩,
  ⟨0x2300, 1, 0x3, 32, 2, .u8, .rw, 1, 12, fun _ _ => 0, .range 0 1⟩,
  ⟨0x2300, 1, 0x4, 32, 2, .u8, .rw, 1, 12, fun _ _ => 4, .range 1 15⟩,
  ⟨0x2300, 1, 0x5, 32, 2, .u16, .rw, 1, 12, fun _ _ => 10, .range 1 1000⟩,
  ⟨0x2300, 1, 0x6, 32, 2, .u8, .rw, 1, 12, fun _ _ => 16, .range 2 64⟩,
  ⟨0x2300, 1, 0x7, 32, 2, .u32, .rw, 1, 12, fun _ _ => 0, .rangeOr 16 16777216 0⟩,
  ⟨0x2300, 1, 0x8, 32, 2, .u8, .rw, 1, 12, fun _ _ => 2, .range 0 15⟩,
  ⟨0x2300, 1, 0x9, 32, 2, .u8, .rw, 1, 12, fun _ _ => 0, .range 0 2⟩,
  ⟨0x2300, 1, 0xa, 32, 2, .u32, .ro, 1, 0, fun _ _ => 0, .any⟩,
  ⟨0x2300, 1, 0xb, 32, 2, .u32, .ro, 1, 0, fun _ _ => 0, .any⟩,
  ⟨0x2300, 1, 0xc, 32, 2, .u8, .ro, 1, 0, fun _ _ => 0, .any⟩,
  ⟨0x2300, 1, 0xd, 32, 2, .i32, .ro, 1, 0, fun _ _ => 0, .any⟩,
  ⟨0x2300, 1, 0xe, 32, 2, .u8, .ro, 1, 0, fun _ _ => 0, .any⟩,
  ⟨0x2300, 1, 0xf, 32, 2, .u8, .ro, 1, 0, fun _ _ => 0, .any⟩,
  ⟨0x2300, 1, 0x10, 32, 2, .u32, .ro, 1, 0, fun _ _ => 0, .any⟩,
  ⟨0x2300, 1, 0x11, 32, 2, .time80, .ro, 1, 0, fun _ _ => 0, .any⟩,
  ⟨0x2300, 1, 0x12, 32, 2, .u32, .ro, 1, 0, fun _ _ => 0, .any⟩,
  ⟨0x2300, 1, 0x13, 32, 2, .time80, .ro, 1, 0, fun _ _ => 0, .any⟩,
  ⟨0x2300, 1, 0x14, 32, 2, .u32, .ro, 1, 0, fun _ _ => 0, .any⟩,
  ⟨0x2300, 1, 0x15, 32, 2, .u32, .ro, 1, 0, fun _ _ => 0, .any⟩,
  ⟨0x2300, 1, 0x16, 32, 2, .u32, .ro, 1, 0, fun _ _ => 0, .any⟩,
  ⟨0x2300, 1, 0x17, 32, 2, .u32, .ro, 1, 0, fun _ _ => 0, .any⟩,
  ⟨0x2300, 1, 0x18, 32, 2, .u8, .rw, 1, 60, fun _ _ => 0, .any⟩,
  ⟨0x2300, 1, 0x41, 0, 1, .u8, .rw, 1, 12, fun _ _ => 0, .range 0 1⟩,
  ⟨0x2300, 1, 0x42, 0, 1, .bool, .rw, 1, 12, fun _ _ => 0, .any⟩,
  ⟨0x2300, 1, 0x43, 0, 1, .u32, .rw, 1, 12, fun _ _ => 0x10000, .range 1 0xFFFFFFFF⟩,
  ⟨0x2300, 1, 0x44, 0, 1, .u16, .rw, 1, 12, fun _ _ => 64, .range 1 32768⟩,
  ⟨0x2300, 1, 0x45, 0, 1, .u32, .ro, 1, 0, fun _ _ => 0, .any⟩,
  ⟨0x2300, 1, 0x50, 0, 1, .u64, .rw, 1, 12, fun _ _ => 0x88000, .range 0x15556 0x4000000⟩,
  ⟨0x2300, 1, 0x51, 0, 1, .u8, .rw, 1, 12, fun _ _ => 4, .range 1 255⟩,
  ⟨0x2300, 1, 0x52, 0, 1, .u8, .rw, 1, 12, fun _ _ => 32, .range 8 64⟩,
  ⟨0x2300, 1, 0x53, 0, 1, .u8, .rw, 1, 12, fun _ _ => 8, .range 1 31⟩,
  ⟨0x2300, 1, 0x54, 0, 1, .u8, .rw, 1, 12, fun _ _ => 0, .range 0 1⟩,
  ⟨0x2300, 1, 0x55, 0, 1, .u8, .rw, 1, 12, fun _ _ => 0, .range 0 1⟩,
  ⟨0x2300, 1, 0x56, 0, 1, .u16, .rw, 1, 12, fun _ _ => 64, .range 0 65535⟩,
  ⟨0x2300, 1, 0x57, 0, 1, .u32, .rw, 1, 12, fun _ _ => 0, .any⟩,
  ⟨0x2300, 1, 0x58, 0, 1, .u32, .rw, 1, 12, fun _ _ => 0, .any⟩,
  ⟨0x2300, 1, 0x60, 1, 8, .u64, .rw, 1, 12, fun _ _ => 0, .mask 0xFFFFFFFFFFFF⟩,
  ⟨0x2300, 1, 0x68, 1, 8, .i32, .rw, 1, 12, fun _ _ => 0, .any⟩]

/-- Object rows of index 0x2300, part 2. -/
def rows2300b : List ObjRow := [
  ⟨0x2300, 1, 0x70, 0, 1, .u32, .rw, 2, 12, fun _ _ => 3333334, .range 1000000 100000000⟩,
  ⟨0x2300, 1, 0x71, 0, 1, .u16, .rw, 1, 12, fun _ _ => 500, .range 20 1950⟩,
  ⟨0x2300, 1, 0x72, 0, 1, .u16, .rw, 2, 12, fun _ _ => 1000, .range 100 2000⟩,
  ⟨0x2300, 1, 0x73, 0, 1, .u8, .rw, 2, 12, fun _ _ => 1, .range 1 255⟩,
  ⟨0x2300, 1, 0x74, 0, 1, .u16, .rw, 1, 12, fun _ _ => 16, .range 1 65535⟩,
  ⟨0x2300, 1, 0x75, 0, 1, .u8, .rw, 1, 12, fun _ _ => 1, .range 0 1⟩,
  ⟨0x2300, 1, 0x76, 0, 1, .bool, .ro, 1, 0, fun _ _ => 0, .any⟩,
  ⟨0x2300, 1, 0x77, 0, 1, .u32, .rw, 1, 8, fun _ _ => 100000, .range 3334 10000000⟩,
  ⟨0x2300, 1, 0x78, 0, 1, .u32, .wo, 1, 8, fun _ _ => 0, .any⟩,
  ⟨0x2300, 1, 0x79, 0, 1, .u32, .ro, 1, 0, fun _ _ => 0, .any⟩,
  ⟨0x2300, 1, 0x80, 1, 8, .u8, .ro, 1, 0, fun _ _ => 0, .any⟩,
  ⟨0x2300, 1, 0x88, 1, 8, .u32, .ro, 1, 0, fun _ _ => 0, .any⟩,
  ⟨0x2300, 1, 0x90, 0, 1, .u64, .ro, 1, 0, fun _ _ => 0, .any⟩,
  ⟨0x2300, 1, 0x91, 0, 1, .u32, .ro, 1, 0, fun _ _ => 0, .any⟩,
  ⟨0x2300, 1, 0x92, 0, 1, .u32, .ro, 1, 0, fun _ _ => 0, .any⟩,
  ⟨0x2300, 1, 0x93, 0, 1, .u32, .ro, 1, 0, fun _ _ => 0, .any⟩,
  ⟨0x2300, 1, 0x94, 0, 1, .u32, .ro, 1, 0, fun _ _ => 0, .any⟩,
  ⟨0x2300, 1, 0x95, 0, 1, .u32, .ro, 1, 0, fun _ _ => 0, .any⟩,
  ⟨0x2300, 1, 0x96, 0, 1, .u64, .ro, 1, 0, fun _ _ => 0, .any⟩,
  ⟨0x2300, 1, 0x97, 0, 1, .u32, .ro, 1, 0, fun _ _ => 0, .any⟩,
  ⟨0x2300, 1, 0x98, 0, 1, .domain, .ro, 1, 0, fun _ _ => 0, .any⟩]

/-- Object rows of index 0x2300. -/
def rows2300 : List ObjRow := rows2300a ++ rows2300b

/-- Object rows of index 0x2400. -/
def rows2400 : List ObjRow := [
  ⟨0x2400, 34, 0x1, 0, 1, .u8, .ro, 1, 0, fun _ _ => 0, .any⟩,
  ⟨0x2400, 34, 0x2, 0, 1, .bool, .ro, 1, 0, fun _ _ => 0, .any⟩,
  ⟨0x2400, 34, 0x3, 0, 1, .u32, .ro, 1, 0, fun _ _ => 0, .any⟩,
  ⟨0x2400, 34, 0x4, 0, 1, .u32, .ro, 1, 0, fun _ _ => 0, .any⟩,
  ⟨0x2400, 34, 0x5, 0, 1, .u32, .ro, 1, 0, fun _ _ => 0, .any⟩,
  ⟨0x2400, 34, 0x6, 0, 1, .u8, .ro, 1, 0, fun _ _ => 0, .any⟩,
  ⟨0x2400, 34, 0x7, 0, 1, .u64, .ro, 1, 0, fun _ _ => 0, .any⟩,
  ⟨0x2400, 34, 0x8, 0, 1, .u32, .ro, 1, 0, fun _ _ => 0, .any⟩,
  ⟨0x2400, 34, 0x9, 0, 1, .u32, .ro, 1, 0, fun _ _ => 0, .any⟩,
  ⟨0x2400, 34, 0xa, 0, 1, .u8, .rw, 2, 1, fun _ _ => 1, .range 0 2⟩,
  ⟨0x2400, 34, 0xb, 0, 1, .u8, .rw, 1, 61, fun _ _ => 0, .any⟩,
  ⟨0x2400, 32, 0x10, 0, 1, .bool, .rw, 2, 1, fun _ _ => 0, .any⟩,
  ⟨0x2400, 32, 0x11, 0, 1, .u8, .ro, 1, 0, fun _ _ => 0xff, .any⟩,
  ⟨0x2400, 32, 0x12, 0, 1, .u8, .ro, 1, 0, fun _ _ => 0, .any⟩,
  ⟨0x2400, 32, 0x13, 0, 1, .u16, .rw, 1, 12, fun _ _ => 20, .range 5 50⟩,
  ⟨0x2400, 32, 0x14, 0, 1, .u16, .rw, 1, 12, fun _ _ => 10, .range 1 1000⟩,
  ⟨0x2400, 32, 0x15, 0, 1, .u32, .ro, 1, 0, fun _ _ => 0, .any⟩,
  ⟨0x2400, 32, 0x16, 0, 1, .u32, .ro, 1, 0, fun _ _ => 0, .any⟩,
  ⟨0x2400, 32, 0x17, 0, 1, .u32, .ro, 1, 0, fun _ _ => 0, .any⟩,
  ⟨0x2400, 32, 0x18, 0, 1, .u32, .ro, 1, 0, fun _ _ => 0, .any⟩,
  ⟨0x2400, 32, 0x19, 0, 1, .u32, .ro, 1, 0, fun _ _ => 0, .any⟩,
  ⟨0x2400, 32, 0x1a, 0, 1, .u32, .ro, 1, 0, fun _ _ => 0, .any⟩,
  ⟨0x2400, 32, 0x1b, 0, 1, .domain, .ro, 1, 0, fun _ _ => 0, .any⟩]

/-- Object rows of index 0x2422. -/
def rows2422 : List ObjRow := [
  ⟨0x2422, 1, 0x1, 16, 8, .u8, .ro, 1, 0, fun _ _ => 0, .any⟩,
  ⟨0x2422, 1, 0x2, 16, 8, .bool, .ro, 1, 0, fun _ _ => 0, .any⟩,
  ⟨0x2422, 1, 0x3, 16, 8, .u32, .ro, 1, 0, fun _ _ => 0, .any⟩,
  ⟨0x2422, 1, 0x4, 16, 8, .u32, .ro, 1, 0, fun _ _ => 0, .any⟩,
  ⟨0x2422, 1, 0x5, 16, 8, .u32, .ro, 1, 0, fun _ _ => 0, .any⟩,
  ⟨0x2422, 1, 0x6, 16, 8, .u8, .ro, 1, 0, fun _ _ => 0, .any⟩,
  ⟨0x2422, 1, 0x7, 16, 8, .u64, .ro, 1, 0, fun _ _ => 0, .any⟩,
  ⟨0x2422, 1, 0x8, 16, 8, .u32, .ro, 1, 0, fun _ _ => 0, .any⟩,
  ⟨0x2422, 1, 0x9, 16, 8, .u32, .ro, 1, 0, fun _ _ => 0, .any⟩,
  ⟨0x2422, 1, 0xa, 16, 8, .u8, .rw, 2, 1, fun _ _ => 1, .range 0 2⟩,
  ⟨0x2422, 1, 0xb, 16, 8, .u8, .rw, 1, 61, fun _ _ => 0, .any⟩]

/-- Object rows of index 0x2423. -/
def rows2423 : List ObjRow := [
  ⟨0x2423, 1, 0x1, 16, 2, .u8, .ro, 1, 0, fun _ _ => 0, .any⟩,
  ⟨0x2423, 1, 0x2, 16, 2, .bool, .ro, 1, 0, fun _ _ => 0, .any⟩,
  ⟨0x2423, 1, 0x3, 16, 2, .u32, .ro, 1, 0, fun _ _ => 0, .any⟩,
  ⟨0x2423, 1, 0x4, 16, 2, .u32, .ro, 1, 0, fun _ _ => 0, .any⟩,
  ⟨0x2423, 1, 0x5, 16, 2, .u32, .ro, 1, 0, fun _ _ => 0, .any⟩,
  ⟨0x2423, 1, 0x6, 16, 2, .u8, .ro, 1, 0, fun _ _ => 0, .any⟩,
  ⟨0x2423, 1, 0x7, 16, 2, .u64, .ro, 1, 0, fun _ _ => 0, .any⟩,
  ⟨0x2423, 1, 0x8, 16, 2, .u32, .ro, 1, 0, fun _ _ => 0, .any⟩,
  ⟨0x2423, 1, 0x9, 16, 2, .u32, .ro, 1, 0, fun _ _ => 0, .any⟩,
  ⟨0x2423, 1, 0xa, 16, 2, .u8, .rw, 2, 1, fun _ _ => 1, .range 0 2⟩,
  ⟨0x2423, 1, 0xb, 16, 2, .u8, .rw, 1, 61, fun _ _ => 0, .any⟩]

/-- Object rows of index 0x2500. -/
def rows2500 : List ObjRow := [
  ⟨0x2500, 1, 0x1, 0, 1, .u16, .ro, 1, 0, fun _ _ => 0, .any⟩,
  ⟨0x2500, 1, 0x2, 0, 1, .u8, .ro, 1, 0, fun _ _ => 0, .any⟩,
  ⟨0x2500, 1, 0x3, 0, 1, .u32, .ro, 1, 0, fun _ _ => 0, .any⟩,
  ⟨0x2500, 1, 0x4, 0, 1, .u16, .rw, 2, 12, fun _ _ => 100, .range 20 1000⟩,
  ⟨0x2500, 1, 0x5, 0, 1, .u32, .rw, 1, 12, fun _ _ => 65536, .range 4096 16777216⟩,
  ⟨0x2500, 1, 0x6, 0, 1, .bool, .wo, 1, 16, fun _ _ => 0, .any⟩,
  ⟨0x2500, 1, 0x7, 0, 1, .u32, .ro, 1, 0, fun _ _ => 0, .any⟩,
  ⟨0x2500, 1, 0x8, 0, 1, .u8, .ro, 1, 0, fun _ _ => 0, .any⟩,
  ⟨0x2500, 1, 0x9, 0, 1, .u8, .ro, 1, 0, fun _ _ => 0, .any⟩,
  ⟨0x2500, 1, 0xa, 0, 1, .u32, .ro, 1, 0, fun _ _ => 0, .any⟩,
  ⟨0x2500, 1, 0xb, 0, 1, .domain, .ro, 1, 0, fun _ _ => 0, .any⟩,
  ⟨0x2500, 1, 0xc, 0, 1, .time80, .ro, 1, 0, fun _ _ => 0, .any⟩,
  ⟨0x2500, 1, 0xd, 0, 1, .u32, .ro, 1, 0, fun _ _ => 0, .any⟩,
  ⟨0x2500, 1, 0xe, 0, 1, .u32, .ro, 1, 0, fun _ _ => 0, .any⟩,
  ⟨0x2500, 1, 0xf, 0, 1, .u8, .rw, 1, 61, fun _ _ => 0, .any⟩]

/-- Object rows of index 0x2600. -/
def rows2600 : List ObjRow := [
  ⟨0x2600, 1, 0x1, 0, 1, .u8, .rw, 1, 12, fun _ _ => 0, .mask 3⟩,
  ⟨0x2600, 1, 0x2, 0, 1, .u8, .rw, 1, 12, fun _ _ => 0, .mask 3⟩,
  ⟨0x2600, 1, 0x3, 0, 1, .u16, .rw, 1, 12, fun _ _ => 2000, .range 100 50000⟩,
  ⟨0x2600, 1, 0x4, 0, 1, .u16, .rw, 1, 12, fun _ _ => 0, .any⟩,
  ⟨0x2600, 1, 0x5, 0, 1, .u32, .rw, 1, 12, fun _ _ => 115200, .range 9600 921600⟩,
  ⟨0x2600, 1, 0x6, 0, 1, .u8, .rw, 1, 12, fun _ _ => 0, .range 0 7⟩,
  ⟨0x2600, 1, 0x7, 0, 1, .domain, .wo, 2, 12, fun _ _ => 0, .any⟩,
  ⟨0x2600, 1, 0x8, 0, 1, .domain, .ro, 1, 0, fun _ _ => 0, .any⟩,
  ⟨0x2600, 1, 0x9, 0, 1, .u16, .rw, 1, 12, fun _ _ => 20, .range 1 1000⟩,
  ⟨0x2600, 1, 0xa, 0, 1, .u8, .rw, 1, 60, fun _ _ => 0, .any⟩,
  ⟨0x2600, 1, 0xb, 0, 1, .u16, .rw, 1, 28, fun _ _ => 0, .mask 0x11F⟩,
  ⟨0x2600, 1, 0xc, 0, 1, .u16, .rw, 1, 28, fun _ _ => 1, .range 1 65535⟩,
  ⟨0x2600, 1, 0xd, 0, 1, .u32, .ro, 1, 0, fun _ _ => 0, .any⟩,
  ⟨0x2600, 1, 0x10, 16, 8, .bool, .rw, 1, 12, fun _ _ => 0, .any⟩,
  ⟨0x2600, 1, 0x11, 16, 8, .u32, .rw, 1, 28, fun _ _ => 4000, .range 200 1000000⟩,
  ⟨0x2600, 1, 0x12, 16, 8, .u32, .rw, 1, 28, fun _ _ => 10000, .range 1000 10000000⟩,
  ⟨0x2600, 1, 0x13, 16, 8, .u16, .rw, 1, 28, fun _ _ => 64, .range 1 4096⟩,
  ⟨0x2600, 1, 0x14, 16, 8, .u16, .rw, 1, 12, fun _ _ => 8192, .range 256 16384⟩,
  ⟨0x2600, 1, 0x15, 16, 8, .bool, .wo, 1, 28, fun _ _ => 0, .any⟩,
  ⟨0x2600, 1, 0x16, 16, 8, .u32, .ro, 1, 0, fun _ _ => 0, .any⟩,
  ⟨0x2600, 1, 0x17, 16, 8, .u32, .ro, 1, 0, fun _ _ => 0, .any⟩,
  ⟨0x2600, 1, 0x18, 16, 8, .u8, .rw, 1, 12, fun _ c => 128 + c, .rangeOr 128 159 255⟩,
  ⟨0x2600, 1, 0x19, 16, 8, .u64, .rw, 1, 12, fun _ _ => 0, .mask 0xFFFFFFFFFFFF⟩,
  ⟨0x2600, 1, 0x1a, 16, 8, .u32, .ro, 1, 0, fun _ _ => 0, .any⟩,
  ⟨0x2600, 1, 0x1b, 16, 8, .u32, .ro, 1, 0, fun _ _ => 0, .any⟩,
  ⟨0x2600, 1, 0x1c, 16, 8, .domain, .ro, 1, 0, fun _ _ => 0, .any⟩,
  ⟨0x2600, 1, 0x1d, 16, 8, .u32, .ro, 1, 0, fun _ _ => 0, .any⟩,
  ⟨0x2600, 1, 0x90, 1, 8, .domain, .rw, 1, 12, fun _ _ => 0, .any⟩,
  ⟨0x2600, 1, 0x98, 1, 8, .domain, .rw, 1, 12, fun _ _ => 0, .any⟩,
  ⟨0x2600, 1, 0xa0, 1, 8, .domain, .rw, 1, 12, fun _ _ => 0, .any⟩,
  ⟨0x2600, 1, 0xa8, 1, 8, .domain, .rw, 1, 12, fun _ _ => 0, .any⟩,
  ⟨0x2600, 1, 0xb0, 0, 1, .bool, .rw, 1, 12, fun _ _ => 0, .any⟩,
  ⟨0x2600, 1, 0xb1, 0, 1, .u16, .rw, 1, 12, fun _ _ => 1638, .any⟩,
  ⟨0x2600, 1, 0xb2, 0, 1, .u16, .rw, 1, 12, fun _ _ => 3072, .range 0 4095⟩,
  ⟨0x2600, 1, 0xb3, 0, 1, .u8, .rw, 1, 12, fun _ _ => 2, .range 1 8⟩,
  ⟨0x2600, 1, 0xb4, 0, 1, .u8, .rw, 1, 12, fun _ _ => 4, .range 1 64⟩,
  ⟨0x2600, 1, 0xb5, 0, 1, .u16, .rw, 1, 12, fun _ _ => 1024, .range 1 4095⟩]

/-- Object rows of index 0x2700. -/
def rows2700 : List ObjRow := [
  ⟨0x2700, 1, 0x1, 0, 1, .u16, .rw, 1, 12, fun _ _ => 100, .range 20 1000⟩,
  ⟨0x2700, 1, 0x2, 0, 1, .domain, .rw, 2, 12, fun _ _ => 0, .any⟩,
  ⟨0x2700, 1, 0x3, 0, 1, .u8, .rw, 1, 12, fun _ _ => 0xff, .rangeOr 0 47 255⟩,
  ⟨0x2700, 1, 0x4, 0, 1, .i8, .rw, 1, 12, fun _ _ => 60, .any⟩,
  ⟨0x2700, 1, 0x5, 0, 1, .u8, .rw, 1, 12, fun _ _ => 8, .range 0 64⟩,
  ⟨0x2700, 1, 0x6, 0, 1, .u16, .rw, 1, 12, fun _ _ => 64, .range 1 256⟩,
  ⟨0x2700, 1, 0x7, 0, 1, .i8, .rw, 2, 12, fun _ _ => 85, .any⟩,
  ⟨0x2700, 1, 0x8, 0, 1, .u16, .rw, 1, 12, fun _ _ => 500, .any⟩,
  ⟨0x2700, 1, 0x9, 0, 1, .u16, .ro, 1, 0, fun _ _ => 256, .any⟩,
  ⟨0x2700, 1, 0xa, 0, 1, .u32, .ro, 1, 0, fun _ _ => 0, .any⟩,
  ⟨0x2700, 1, 0xb, 0, 1, .u8, .rw, 1, 60, fun _ _ => 0, .any⟩,
  ⟨0x2700, 1, 0xc, 0, 1, .u8, .ro, 1, 0, fun _ _ => 0, .any⟩,
  ⟨0x2700, 1, 0xd, 0, 1, .u64, .ro, 1, 0, fun _ _ => 0, .any⟩,
  ⟨0x2700, 1, 0x10, 16, 8, .u64, .rw, 1, 28, fun _ _ => 2 ^ 64 - 1, .any⟩,
  ⟨0x2700, 1, 0x11, 16, 8, .u64, .rw, 1, 28, fun _ _ => 2 ^ 64 - 1, .any⟩,
  ⟨0x2700, 1, 0x12, 16, 8, .u16, .rw, 1, 28, fun _ _ => 32768, .any⟩]

/-- Object rows of index 0x2800. -/
def rows2800 : List ObjRow := [
  ⟨0x2800, 1, 0x1, 0, 1, .u16, .rw, 1, 12, fun _ _ => 16352, .range 1024 16352⟩,
  ⟨0x2800, 1, 0x2, 0, 1, .u16, .rw, 1, 12, fun _ _ => 500, .range 50 1000⟩,
  ⟨0x2800, 1, 0x3, 0, 1, .u16, .rw, 1, 12, fun _ _ => 10, .range 1 1000⟩,
  ⟨0x2800, 1, 0x4, 0, 1, .domain, .wo, 2, 60, fun _ _ => 0, .any⟩,
  ⟨0x2800, 1, 0x5, 0, 1, .domain, .ro, 1, 0, fun _ _ => 0, .any⟩,
  ⟨0x2800, 1, 0x10, 16, 4, .u8, .rw, 1, 12, fun _ _ => 0, .range 0 1⟩,
  ⟨0x2800, 1, 0x11, 16, 2, .u64, .rw, 1, 12, fun _ _ => 0, .any⟩,
  ⟨0x2800, 1, 0x12, 16, 2, .u32, .rw, 1, 12, fun _ _ => 65536, .range 16384 1048576⟩,
  ⟨0x2800, 1, 0x13, 16, 2, .u8, .rw, 1, 12, fun _ _ => 8, .range 2 64⟩,
  ⟨0x2800, 1, 0x14, 16, 4, .u32, .ro, 1, 0, fun _ _ => 0, .any⟩,
  ⟨0x2800, 1, 0x15, 16, 4, .u64, .ro, 1, 0, fun _ _ => 0, .any⟩,
  ⟨0x2800, 1, 0x16, 16, 4, .u64, .ro, 1, 0, fun _ _ => 0, .any⟩,
  ⟨0x2800, 1, 0x17, 16, 4, .u32, .ro, 1, 0, fun _ _ => 0, .any⟩,
  ⟨0x2800, 1, 0x18, 16, 4, .u32, .ro, 1, 0, fun _ _ => 0, .any⟩,
  ⟨0x2800, 1, 0x19, 16, 4, .u32, .ro, 1, 0, fun _ _ => 0, .any⟩,
  ⟨0x2800, 1, 0x1a, 16, 4, .u32, .ro, 1, 0, fun _ _ => 0, .any⟩,
  ⟨0x2800, 1, 0x1b, 16, 2, .domain, .ro, 1, 0, fun _ _ => 0, .any⟩]

/-- Object rows of index 0x2900. -/
def rows2900 : List ObjRow := [
  ⟨0x2900, 1, 0x1, 0, 1, .domain, .wo, 2, 60, fun _ _ => 0, .any⟩,
  ⟨0x2900, 1, 0x2, 0, 1, .u8, .ro, 1, 0, fun _ _ => 0, .any⟩,
  ⟨0x2900, 1, 0x3, 0, 1, .bool, .rw, 1, 12, fun _ _ => 1, .any⟩,
  ⟨0x2900, 1, 0x4, 0, 1, .u16, .rw, 1, 12, fun _ _ => 256, .range 16 2048⟩,
  ⟨0x2900, 1, 0x5, 0, 1, .u32, .ro, 1, 0, fun _ _ => 0, .any⟩,
  ⟨0x2900, 1, 0x6, 0, 1, .u32, .ro, 1, 0, fun _ _ => 0, .any⟩,
  ⟨0x2900, 1, 0x7, 0, 1, .u8, .rw, 1, 60, fun _ _ => 0, .any⟩,
  ⟨0x2900, 1, 0x10, 8, 16, .u8, .rw, 1, 12, fun _ _ => 0, .range 0 1⟩,
  ⟨0x2900, 1, 0x11, 8, 16, .u8, .rw, 1, 12, fun _ _ => 0, .range 0 2⟩,
  ⟨0x2900, 1, 0x12, 8, 16, .u64, .rw, 1, 12, fun _ _ => 0, .mask 0xFFFFFFFF0000FFFF⟩,
  ⟨0x2900, 1, 0x13, 8, 16, .u32, .rw, 1, 60, fun _ _ => 0xffffffff, .any⟩,
  ⟨0x2900, 1, 0x14, 8, 16, .u32, .ro, 1, 0, fun _ _ => 0, .any⟩,
  ⟨0x2900, 1, 0x15, 8, 16, .u32, .rw, 1, 60, fun _ _ => 0, .any⟩,
  ⟨0x2900, 1, 0x16, 8, 16, .u8, .ro, 1, 0, fun _ _ => 0, .any⟩,
  ⟨0x2900, 1, 0x17, 8, 16, .u8, .ro, 1, 0, fun _ u => if u < 6 then 1 else if u = 6 then 2 else 0, .any⟩]

/-- Object rows of index 0x2A00. -/
def rows2A00 : List ObjRow := [
  ⟨0x2a00, 1, 0x1, 0, 1, .u8, .rw, 2, 1, fun _ _ => 3, .range 1 4⟩,
  ⟨0x2a00, 1, 0x2, 0, 1, .u8, .rw, 2, 1, fun _ _ => 1, .range 1 2⟩,
  ⟨0x2a00, 1, 0x3, 0, 1, .u16, .rw, 1, 1, fun _ _ => 6400, .oneOf [6400, 3200, 1600]⟩,
  ⟨0x2a00, 1, 0x4, 0, 1, .u16, .rw, 1, 1, fun _ _ => 1600, .oneOf [6400, 3200, 1600]⟩,
  ⟨0x2a00, 1, 0x5, 0, 1, .u8, .rw, 1, 12, fun _ _ => 0, .range 0 1⟩,
  ⟨0x2a00, 1, 0x6, 0, 1, .u16, .ro, 1, 0, fun _ _ => 6400, .any⟩,
  ⟨0x2a00, 1, 0x7, 0, 1, .u32, .ro, 1, 0, fun _ _ => 0, .any⟩,
  ⟨0x2a00, 1, 0x8, 0, 1, .u16, .rw, 1, 12, fun _ _ => 20, .range 1 10000⟩,
  ⟨0x2a00, 1, 0x9, 0, 1, .u16, .rw, 1, 12, fun _ _ => 50, .range 1 10000⟩,
  ⟨0x2a00, 1, 0xa, 0, 1, .u16, .rw, 1, 12, fun _ _ => 200, .range 1 10000⟩,
  ⟨0x2a00, 1, 0xb, 0, 1, .u16, .rw, 1, 12, fun _ _ => 2048, .range 512 6144⟩,
  ⟨0x2a00, 1, 0xc, 0, 1, .u32, .ro, 1, 0, fun _ _ => 0, .any⟩,
  ⟨0x2a00, 1, 0xd, 0, 1, .u64, .ro, 1, 0, fun _ _ => 0, .any⟩,
  ⟨0x2a00, 1, 0xe, 0, 1, .u32, .ro, 1, 0, fun _ _ => 0, .any⟩,
  ⟨0x2a00, 1, 0xf, 0, 1, .u32, .ro, 1, 0, fun _ _ => 0, .any⟩,
  ⟨0x2a00, 1, 0x10, 0, 1, .u64, .ro, 1, 0, fun _ _ => 0, .any⟩,
  ⟨0x2a00, 1, 0x11, 0, 1, .u8, .rw, 2, 12, fun _ _ => 4, .range 1 255⟩,
  ⟨0x2a00, 1, 0x12, 0, 1, .u8, .rw, 1, 60, fun _ _ => 0, .any⟩,
  ⟨0x2a00, 1, 0x13, 0, 1, .domain, .ro, 1, 0, fun _ _ => 0, .any⟩,
  ⟨0x2a00, 1, 0x14, 0, 1, .u8, .ro, 1, 0, fun _ _ => 0, .any⟩]

/-- Object rows of index 0x1400. -/
def rows1400 : List ObjRow := [
  ⟨0x1400, 1, 0x1, 0, 1, .u8, .rw, 1, 12, fun _ _ => 0, .range 0 1⟩,
  ⟨0x1400, 1, 0x2, 0, 1, .u32, .rw, 1, 12, fun _ _ => 200, .any⟩,
  ⟨0x1400, 1, 0x3, 0, 1, .u32, .rw, 1, 12, fun _ _ => 20000, .range 0 1000000⟩,
  ⟨0x1400, 1, 0x4, 0, 1, .u32, .rw, 1, 12, fun _ _ => 35000, .any⟩,
  ⟨0x1400, 1, 0x5, 0, 1, .u32, .rw, 1, 12, fun _ _ => 55000, .any⟩,
  ⟨0x1400, 1, 0x6, 0, 1, .u64, .ro, 1, 0, fun _ _ => 0, .any⟩,
  ⟨0x1400, 1, 0x7, 0, 1, .u64, .ro, 1, 0, fun _ _ => 0, .any⟩,
  ⟨0x1400, 1, 0x8, 0, 1, .u16, .rw, 1, 12, fun _ _ => 100, .range 1 10000⟩,
  ⟨0x1400, 1, 0x9, 0, 1, .u8, .rw, 1, 60, fun _ _ => 0, .any⟩,
  ⟨0x1400, 1, 0x10, 16, 3, .u32, .rw, 2, 12, fun _ p => [4000, 1200000, 600000].getD p 0, .range 1 4000000⟩,
  ⟨0x1400, 1, 0x11, 16, 3, .u16, .rw, 2, 12, fun _ p => [1000, 10, 100].getD p 0, .range 1 1000⟩,
  ⟨0x1400, 1, 0x12, 16, 3, .u32, .rw, 2, 12, fun _ p => [3000000, 1500, 20000000].getD p 0, .any⟩,
  ⟨0x1400, 1, 0x13, 16, 3, .i64, .ro, 1, 0, fun _ _ => 0, .any⟩,
  ⟨0x1400, 1, 0x14, 16, 3, .f32, .ro, 1, 0, fun _ _ => 0, .any⟩,
  ⟨0x1400, 1, 0x15, 16, 3, .u32, .ro, 1, 0, fun _ _ => 0, .any⟩,
  ⟨0x1400, 1, 0x16, 16, 3, .u32, .ro, 1, 0, fun _ _ => 0, .any⟩,
  ⟨0x1400, 1, 0x17, 16, 3, .u32, .ro, 1, 0, fun _ _ => 0, .any⟩,
  ⟨0x1400, 1, 0x18, 16, 3, .u8, .ro, 1, 0, fun _ _ => 0, .any⟩]

/-- Object rows of index 0x2B00, part 1. -/
def rows2B00a : List ObjRow := [
  ⟨0x2b00, 48, 0x1, 0, 1, .bool, .rw, 1, 28, fun _ _ => 0, .any⟩,
  ⟨0x2b00, 48, 0x2, 0, 1, .u8, .rw, 1, 12, loopDefault .lpClass, .range 0 2⟩,
  ⟨0x2b00, 48, 0x3, 0, 1, .u8, .rw, 1, 12, loopDefault .lpSource, .range 0 4⟩,
  ⟨0x2b00, 48, 0x4, 0, 1, .u16, .rw, 1, 12, loopDefault .sourceArg, .any⟩,
  ⟨0x2b00, 48, 0x5, 0, 1, .u8, .rw, 1, 12, loopDefault .actuator, .range 0 2⟩,
  ⟨0x2b00, 48, 0x6, 0, 1, .u16, .rw, 1, 12, loopDefault .actuatorArg, .any⟩,
  ⟨0x2b00, 48, 0x7, 0, 1, .u32, .rw, 1, 12, loopDefault .lpPeriod, .range 10 1000000⟩,
  ⟨0x2b00, 48, 0x8, 0, 1, .u32, .rw, 1, 12, loopDefault .lpPhase, .any⟩,
  ⟨0x2b00, 48, 0x9, 0, 1, .bf24, .rw, 1, 12, loopDefault .scale, .any⟩,
  ⟨0x2b00, 48, 0xa, 0, 1, .bf24, .rw, 1, 12, fun _ _ => 0, .any⟩,
  ⟨0x2b00, 48, 0xb, 0, 1, .u8, .rw, 1, 12, fun _ _ => 0, .range 0 1⟩,
  ⟨0x2b00, 48, 0xc, 0, 1, .bf24, .rw, 1, 28, fun _ _ => 0, .any⟩,
  ⟨0x2b00, 48, 0xd, 0, 1, .u8, .rw, 1, 12, fun _ _ => 0xff, .rangeOr 0 47 255⟩,
  ⟨0x2b00, 48, 0xe, 0, 1, .u8, .rw, 1, 12, fun _ _ => 0, .any⟩,
  ⟨0x2b00, 48, 0xf, 0, 1, .u8, .rw, 2, 12, loopDefault .snuffMode, .range 0 1⟩,
  ⟨0x2b00, 48, 0x10, 0, 1, .bf24, .rw, 2, 12, fun _ _ => 0, .any⟩,
  ⟨0x2b00, 48, 0x11, 0, 1, .bf24, .rw, 1, 12, loopDefault .readyBand, .any⟩,
  ⟨0x2b00, 48, 0x12, 0, 1, .u8, .rw, 2, 12, fun _ _ => 1, .range 0 1⟩,
  ⟨0x2b00, 48, 0x13, 0, 1, .bf24, .rw, 1, 12, loopDefault .followMax, .any⟩,
  ⟨0x2b00, 48, 0x14, 0, 1, .u32, .rw, 1, 12, loopDefault .followTime, .range 1 3600000⟩,
  ⟨0x2b00, 48, 0x15, 0, 1, .bf24, .rw, 1, 12, loopDefault .plausMin, .any⟩,
  ⟨0x2b00, 48, 0x16, 0, 1, .bf24, .rw, 1, 12, loopDefault .plausMax, .any⟩,
  ⟨0x2b00, 48, 0x17, 0, 1, .bf24, .rw, 1, 12, loopDefault .slewMax, .any⟩,
  ⟨0x2b00, 48, 0x18, 0, 1, .bf24, .rw, 1, 12, fun _ _ => bf24Raw 0x400000 1, .any⟩,
  ⟨0x2b00, 48, 0x19, 0, 1, .u8, .rw, 1, 12, fun _ _ => 3, .range 1 255⟩,
  ⟨0x2b00, 48, 0x1a, 0, 1, .u32, .rw, 2, 12, fun _ _ => 0, .any⟩,
  ⟨0x2b00, 48, 0x1b, 0, 1, .u8, .rw, 2, 12, fun _ _ => 2, .range 0 2⟩,
  ⟨0x2b00, 48, 0x1c, 0, 1, .u32, .rw, 1, 12, loopDefault .spiCfg, .any⟩,
  ⟨0x2b00, 48, 0x1d, 0, 1, .u32, .rw, 1, 12, loopDefault .cnvTimes, .any⟩,
  ⟨0x2b00, 48, 0x1e, 0, 1, .u32, .rw, 1, 12, fun _ _ => 0, .any⟩,
  ⟨0x2b00, 48, 0x1f, 0, 1, .u32, .rw, 1, 12, loopDefault .actWord, .any⟩,
  ⟨0x2b00, 48, 0x20, 0, 1, .bf24, .rw, 1, 12, fun _ _ => bf24Raw 0x7FFF80 16, .any⟩,
  ⟨0x2b00, 48, 0x21, 0, 1, .bool, .wo, 1, 28, fun _ _ => 0, .any⟩,
  ⟨0x2b00, 48, 0x22, 0, 1, .u8, .ro, 1, 0, fun _ _ => 0, .any⟩,
  ⟨0x2b00, 48, 0x23, 0, 1, .bf24, .ro, 1, 0, fun _ _ => 0, .any⟩,
  ⟨0x2b00, 48, 0x24, 0, 1, .bf24, .ro, 1, 0, fun _ _ => 0, .any⟩,
  ⟨0x2b00, 48, 0x25, 0, 1, .bf24, .ro, 1, 0, fun _ _ => 0, .any⟩,
  ⟨0x2b00, 48, 0x26, 0, 1, .bf24, .ro, 1, 0, fun _ _ => 0, .any⟩,
  ⟨0x2b00, 48, 0x27, 0, 1, .bool, .ro, 1, 0, fun _ _ => 1, .any⟩,
  ⟨0x2b00, 48, 0x28, 0, 1, .u32, .ro, 1, 0, fun _ _ => 0, .any⟩]

/-- Object rows of index 0x2B00, part 2. -/
def rows2B00b : List ObjRow := [
  ⟨0x2b00, 48, 0x29, 0, 1, .u32, .ro, 1, 0, fun _ _ => 0, .any⟩,
  ⟨0x2b00, 48, 0x2a, 0, 1, .u32, .ro, 1, 0, fun _ _ => 0, .any⟩,
  ⟨0x2b00, 48, 0x2b, 0, 1, .u8, .rw, 1, 60, fun _ _ => 0, .any⟩,
  ⟨0x2b00, 48, 0x40, 8, 2, .domain, .rw, 1, 28, fun _ _ => 0, .any⟩,
  ⟨0x2b00, 48, 0x41, 8, 2, .bf24, .rw, 1, 28, loopDefault .kiTs, .any⟩,
  ⟨0x2b00, 48, 0x42, 8, 2, .bf24, .rw, 1, 28, fun _ _ => 0, .any⟩,
  ⟨0x2b00, 48, 0x43, 8, 2, .domain, .rw, 1, 28, fun _ _ => 0, .any⟩,
  ⟨0x2b00, 48, 0x44, 8, 2, .bf24, .rw, 1, 28, loopDefault .outMin, .any⟩,
  ⟨0x2b00, 48, 0x45, 8, 2, .bf24, .rw, 1, 28, loopDefault .outMax, .any⟩,
  ⟨0x2b00, 48, 0x46, 8, 2, .bf24, .rw, 1, 28, loopDefault .rateMax, .any⟩,
  ⟨0x2b00, 48, 0x47, 8, 2, .domain, .rw, 1, 28, fun _ _ => 0, .any⟩]

/-- Object rows of index 0x2B00. -/
def rows2B00 : List ObjRow := rows2B00a ++ rows2B00b

/-- Object rows of index 0x2C00. -/
def rows2C00 : List ObjRow := [
  ⟨0x2c00, 1, 0x1, 0, 1, .bool, .rw, 2, 12, fun _ _ => 1, .any⟩,
  ⟨0x2c00, 1, 0x2, 0, 1, .bool, .wo, 1, 60, fun _ _ => 0, .any⟩,
  ⟨0x2c00, 1, 0x3, 0, 1, .u32, .ro, 1, 0, fun _ _ => 0, .any⟩,
  ⟨0x2c00, 1, 0x20, 32, 4, .u8, .ro, 1, 0, fun _ _ => 1, .any⟩,
  ⟨0x2c00, 1, 0x21, 32, 4, .i32, .ro, 1, 0, fun _ _ => 0, .any⟩,
  ⟨0x2c00, 1, 0x22, 32, 4, .i32, .rw, 1, 8, fun _ _ => 0, .any⟩,
  ⟨0x2c00, 1, 0x23, 32, 4, .i32, .ro, 1, 0, fun _ _ => 0, .any⟩,
  ⟨0x2c00, 1, 0x24, 32, 4, .u32, .rw, 1, 12, fun _ _ => 256000, .range 1 2000000⟩,
  ⟨0x2c00, 1, 0x25, 32, 4, .u32, .rw, 1, 12, fun _ _ => 2560000, .range 1 100000000⟩,
  ⟨0x2c00, 1, 0x26, 32, 4, .u32, .rw, 1, 12, fun _ _ => 51200000, .range 1 4000000000⟩,
  ⟨0x2c00, 1, 0x27, 32, 4, .u16, .rw, 2, 12, fun _ _ => 1000, .any⟩,
  ⟨0x2c00, 1, 0x28, 32, 4, .u16, .rw, 1, 12, fun _ _ => 300, .any⟩,
  ⟨0x2c00, 1, 0x29, 32, 4, .u16, .rw, 2, 1, fun _ _ => 100, .range 10 10000⟩,
  ⟨0x2c00, 1, 0x2a, 32, 4, .u16, .rw, 1, 12, fun _ _ => 10000, .range 1000 50000⟩,
  ⟨0x2c00, 1, 0x2b, 32, 4, .u16, .rw, 1, 12, fun _ _ => 1000, .range 100 5000⟩,
  ⟨0x2c00, 1, 0x2c, 32, 4, .u16, .rw, 2, 1, fun _ _ => 200, .range 40 2000⟩,
  ⟨0x2c00, 1, 0x2d, 32, 4, .u16, .ro, 1, 0, fun _ _ => 0, .any⟩,
  ⟨0x2c00, 1, 0x2e, 32, 4, .u32, .ro, 1, 0, fun _ _ => 0, .any⟩,
  ⟨0x2c00, 1, 0x2f, 32, 4, .u8, .rw, 1, 12, fun _ _ => 1, .range 0 1⟩,
  ⟨0x2c00, 1, 0x30, 32, 4, .u32, .rw, 1, 12, fun _ _ => 25600, .any⟩,
  ⟨0x2c00, 1, 0x31, 32, 4, .u16, .rw, 1, 12, fun _ _ => 400, .any⟩,
  ⟨0x2c00, 1, 0x32, 32, 4, .u32, .rw, 1, 12, fun _ _ => 2560000, .any⟩,
  ⟨0x2c00, 1, 0x33, 32, 4, .i32, .rw, 1, 12, fun _ _ => 0, .any⟩,
  ⟨0x2c00, 1, 0x34, 32, 4, .u32, .rw, 1, 12, fun _ _ => 2560, .any⟩,
  ⟨0x2c00, 1, 0x35, 32, 4, .u8, .rw, 1, 12, fun _ _ => 160, .range 16 250⟩,
  ⟨0x2c00, 1, 0x36, 32, 4, .u8, .rw, 1, 12, fun _ _ => 2, .range 1 16⟩,
  ⟨0x2c00, 1, 0x37, 32, 4, .u16, .ro, 1, 0, fun _ _ => 0, .any⟩,
  ⟨0x2c00, 1, 0x38, 32, 4, .bool, .wo, 1, 8, fun _ _ => 0, .any⟩,
  ⟨0x2c00, 1, 0x39, 32, 4, .bool, .wo, 1, 60, fun _ _ => 0, .any⟩,
  ⟨0x2c00, 1, 0x3a, 32, 4, .u32, .rw, 2, 12, fun _ _ => 20000, .any⟩,
  ⟨0x2c00, 1, 0x3b, 32, 4, .i32, .rw, 1, 12, fun _ _ => 0, .any⟩,
  ⟨0x2c00, 1, 0x3c, 32, 4, .u8, .rw, 1, 60, fun _ _ => 0, .any⟩,
  ⟨0x2c00, 1, 0x3d, 32, 4, .u32, .ro, 1, 0, fun _ _ => 0, .any⟩]

/-- Object rows of index 0x2D00. -/
def rows2D00 : List ObjRow := [
  ⟨0x2d00, 1, 0x1, 0, 1, .time80, .ro, 1, 0, fun _ _ => 0, .any⟩,
  ⟨0x2d00, 1, 0x2, 0, 1, .time80, .wo, 2, 44, fun _ _ => 0, .any⟩,
  ⟨0x2d00, 1, 0x3, 0, 1, .i64, .wo, 2, 44, fun _ _ => 0, .range (-86400000000000) 86400000000000⟩,
  ⟨0x2d00, 1, 0x4, 0, 1, .i16, .rw, 1, 60, fun _ _ => 0, .any⟩,
  ⟨0x2d00, 1, 0x5, 0, 1, .bool, .ro, 1, 0, fun _ _ => 0, .any⟩,
  ⟨0x2d00, 1, 0x6, 0, 1, .u32, .ro, 1, 0, fun _ _ => 0, .any⟩,
  ⟨0x2d00, 1, 0x7, 0, 1, .bool, .rw, 1, 12, fun _ _ => 0, .any⟩,
  ⟨0x2d00, 1, 0x8, 0, 1, .u8, .rw, 1, 12, fun _ _ => 0, .range 0 127⟩,
  ⟨0x2d00, 1, 0x9, 0, 1, .i8, .rw, 1, 12, fun _ _ => 0, .range (-3) 1⟩,
  ⟨0x2d00, 1, 0xa, 0, 1, .i8, .rw, 1, 12, fun _ _ => 1, .range 0 3⟩,
  ⟨0x2d00, 1, 0xb, 0, 1, .i8, .rw, 1, 12, fun _ _ => 0, .range 0 5⟩,
  ⟨0x2d00, 1, 0xc, 0, 1, .u8, .rw, 1, 12, fun _ _ => 128, .any⟩,
  ⟨0x2d00, 1, 0xd, 0, 1, .u8, .rw, 1, 12, fun _ _ => 128, .any⟩,
  ⟨0x2d00, 1, 0xe, 0, 1, .u8, .rw, 2, 12, fun _ _ => 248, .range 6 255⟩,
  ⟨0x2d00, 1, 0xf, 0, 1, .i16, .rw, 1, 12, fun _ _ => 37, .any⟩,
  ⟨0x2d00, 1, 0x10, 0, 1, .bool, .rw, 1, 12, fun _ _ => 0, .any⟩,
  ⟨0x2d00, 1, 0x11, 0, 1, .u16, .rw, 2, 1, fun _ _ => 0, .range 0 2000⟩,
  ⟨0x2d00, 1, 0x12, 0, 1, .u16, .rw, 2, 1, fun _ _ => 0, .range 0 2000⟩,
  ⟨0x2d00, 1, 0x13, 0, 1, .u8, .ro, 1, 0, fun _ _ => 0, .any⟩,
  ⟨0x2d00, 1, 0x14, 0, 1, .u32, .ro, 1, 0, fun _ _ => 0, .any⟩,
  ⟨0x2d00, 1, 0x15, 0, 1, .u32, .ro, 1, 0, fun _ _ => 0, .any⟩,
  ⟨0x2d00, 1, 0x16, 0, 1, .u32, .ro, 1, 0, fun _ _ => 0, .any⟩,
  ⟨0x2d00, 1, 0x17, 0, 1, .u32, .ro, 1, 0, fun _ _ => 0, .any⟩,
  ⟨0x2d00, 1, 0x18, 0, 1, .i32, .ro, 1, 0, fun _ _ => 0, .any⟩,
  ⟨0x2d00, 1, 0x19, 0, 1, .time80, .ro, 1, 0, fun _ _ => 0, .any⟩,
  ⟨0x2d00, 1, 0x1a, 0, 1, .time80, .ro, 1, 0, fun _ _ => 0, .any⟩,
  ⟨0x2d00, 1, 0x1b, 0, 1, .u8, .rw, 1, 60, fun _ _ => 0, .any⟩,
  ⟨0x2d00, 1, 0x20, 1, 8, .time80, .ro, 1, 0, fun _ _ => 0, .any⟩]

/-- Object rows of index 0x2E00. -/
def rows2E00 : List ObjRow := [
  ⟨0x2e00, 1, 0x1, 0, 1, .u16, .ro, 1, 0, fun _ _ => 0, .any⟩,
  ⟨0x2e00, 1, 0x2, 0, 1, .u64, .ro, 1, 0, fun _ _ => 0, .any⟩,
  ⟨0x2e00, 1, 0x3, 0, 1, .bool, .ro, 1, 0, fun _ _ => 0, .any⟩,
  ⟨0x2e00, 1, 0x4, 0, 1, .domain, .ro, 1, 0, fun _ _ => 0, .any⟩,
  ⟨0x2e00, 1, 0x10, 0, 1, .u8, .rw, 2, 1, fun _ _ => 16, .range 4 48⟩,
  ⟨0x2e00, 1, 0x11, 0, 1, .u8, .rw, 2, 1, fun _ _ => 12, .range 2 40⟩,
  ⟨0x2e00, 1, 0x12, 0, 1, .u8, .rw, 2, 1, fun _ _ => 1, .range 0 3⟩,
  ⟨0x2e00, 1, 0x13, 0, 1, .u8, .rw, 2, 1, fun _ _ => 2, .range 0 4⟩,
  ⟨0x2e00, 1, 0x14, 0, 1, .u8, .rw, 2, 1, fun _ _ => 4, .range 1 12⟩,
  ⟨0x2e00, 1, 0x15, 0, 1, .u8, .rw, 2, 1, fun _ _ => 2, .range 0 8⟩]

/-- Object rows of index 0x1300. -/
def rows1300 : List ObjRow := [
  ⟨0x1300, 1, 0x1, 0, 1, .u32, .ro, 1, 0, fun _ _ => 0, .any⟩,
  ⟨0x1300, 1, 0x2, 0, 1, .u8, .ro, 1, 0, fun _ _ => 0, .any⟩,
  ⟨0x1300, 1, 0x3, 0, 1, .u32, .rw, 2, 13, fun _ _ => 0xf, .mask 0x3F⟩,
  ⟨0x1300, 1, 0x4, 0, 1, .u16, .rw, 1, 13, fun _ _ => 256, .range 0 2048⟩,
  ⟨0x1300, 1, 0x5, 0, 1, .u32, .ro, 1, 0, fun _ _ => 0, .any⟩,
  ⟨0x1300, 1, 0x6, 0, 1, .u32, .ro, 1, 0, fun _ _ => 0, .any⟩,
  ⟨0x1300, 1, 0x7, 0, 1, .bool, .wo, 1, 60, fun _ _ => 0, .any⟩,
  ⟨0x1300, 1, 0x8, 0, 1, .u8, .wo, 2, 44, fun _ _ => 0, .oneOf [0x5A]⟩,
  ⟨0x1300, 1, 0x9, 0, 1, .domain, .ro, 1, 0, fun _ _ => 0, .any⟩]

/-- The rows that an index may be found in (05, index map). -/
def rowsAt (idx : Nat) : List ObjRow :=
  if idx = 0x1000 then rows1000
  else if idx = 0x2E01 then rows2E01
  else if idx = 0x1100 then rows1100
  else if idx = 0x1200 then rows1200
  else if idx = 0x1010 then rows1010
  else if idx = 0x3FF0 then rows3FF0
  else if idx = 0x2000 then rows2000
  else if 0x2100 ≤ idx ∧ idx < 0x2100 + 160 then rows2100
  else if 0x2200 ≤ idx ∧ idx < 0x2200 + 128 then rows2200
  else if idx = 0x3000 then rows3000
  else if idx = 0x3010 then rows3010
  else if idx = 0x3020 then rows3020
  else if idx = 0x3030 then rows3030
  else if idx = 0x2300 then rows2300
  else if 0x2400 ≤ idx ∧ idx < 0x2400 + 34 then rows2400
  else if idx = 0x2422 then rows2422
  else if idx = 0x2423 then rows2423
  else if idx = 0x2500 then rows2500
  else if idx = 0x2600 then rows2600
  else if idx = 0x2700 then rows2700
  else if idx = 0x2800 then rows2800
  else if idx = 0x2900 then rows2900
  else if idx = 0x2A00 then rows2A00
  else if idx = 0x1400 then rows1400
  else if 0x2B00 ≤ idx ∧ idx < 0x2B00 + 48 then rows2B00
  else if idx = 0x2C00 then rows2C00
  else if idx = 0x2D00 then rows2D00
  else if idx = 0x2E00 then rows2E00
  else if idx = 0x1300 then rows1300
  else []

/-- Whether a row describes a key. -/
def ObjRow.has (r : ObjRow) (key : Nat) : Bool :=
  let idx := key / 256
  let sub := key % 256
  decide (r.idx ≤ idx) && decide (idx < r.idx + r.idxN) && decide (r.sub ≤ sub) &&
    (if r.subN = 1 then decide (sub = r.sub)
     else decide (sub < r.sub + r.stride * r.subN) && decide ((sub - r.sub) % r.stride = 0))

/-- The row of an object, by its key. -/
def row (key : Nat) : Option ObjRow := (rowsAt (key / 256)).find? (fun r => r.has key)

/-- Whether a chapter defines an index (R124). -/
def indexExists (idx : Nat) : Bool := !(rowsAt idx).isEmpty

/-- The default of an object's value, as the raw bits of its type (a key no row describes: 0). -/
def default (key : Nat) : Nat :=
  match row key with
  | some r => r.dflt (key / 256 - r.idx) (if r.subN = 1 then 0 else (key % 256 - r.sub) / r.stride)
  | none => 0

/-- Bits of an object's value. -/
def width (key : Nat) : Nat :=
  match row key with
  | some r => 8 * r.ty.bytes
  | none => 0

end Sys2Proof.Machine.Dict

namespace Sys2Proof.Machine.Obj

/-- DEVICE_ID, 0x1000:01. -/
abbrev deviceId : Nat := 0x100001
/-- SILICON_REV, 0x1000:02. -/
abbrev siliconRev : Nat := 0x100002
/-- FW_VERSION, 0x1000:03. -/
abbrev fwVersion : Nat := 0x100003
/-- FSI_NOW, 0x2E01:01. -/
abbrev fsiNow : Nat := 0x2e0101
/-- FSI_MIN, 0x2E01:02. -/
abbrev fsiMin : Nat := 0x2e0102
/-- FSI_KINDLE, 0x2E01:03. -/
abbrev fsiKindle : Nat := 0x2e0103
/-- FSI_FLOOR, 0x2E01:04. -/
abbrev fsiFloor : Nat := 0x2e0104
/-- FSI_SITE, 0x2E01:05. -/
abbrev fsiSite : Nat := 0x2e0105
/-- FSI_MIN_CLEAR, 0x2E01:06. -/
abbrev fsiMinClear : Nat := 0x2e0106
/-- MODE_NOW, 0x1100:01. -/
abbrev modeNow : Nat := 0x110001
/-- MODE_REQUEST, 0x1100:02. -/
abbrev modeRequest : Nat := 0x110002
/-- BOOT_HOLD, 0x1100:03. -/
abbrev bootHold : Nat := 0x110003
/-- SNUFF_CAUSE, 0x1100:04. -/
abbrev snuffCause : Nat := 0x110004
/-- SNUFF_CAUSE_CLEAR, 0x1100:05. -/
abbrev snuffCauseClear : Nat := 0x110005
/-- LIT_BLOCKERS, 0x1100:06. -/
abbrev litBlockers : Nat := 0x110006
/-- TWIN_ROLE, 0x1100:07. -/
abbrev twinRole : Nat := 0x110007
/-- MODE_ENTRY_TIME, 0x1100:08. -/
abbrev modeEntryTime : Nat := 0x110008
/-- STOP_SEQ, 0x1100:09. -/
abbrev stopSeq : Nat := 0x110009
/-- HEAD_PWR_HOLD, 0x1100:0A. -/
abbrev headPwrHold : Nat := 0x11000a
/-- CONFLICT_COUNT, 0x1100:0B. -/
abbrev conflictCount : Nat := 0x11000b
/-- HEAD_SETTLE, 0x1100:0C. -/
abbrev headSettle : Nat := 0x11000c
/-- STRAPPED_ROLE, 0x1100:0D. -/
abbrev strappedRole : Nat := 0x11000d
/-- STOP_SEQ_GROUP, 0x1100:10+g. -/
abbrev stopSeqGroup (j : Nat) : Nat := 0x110010 + j
/-- RESET_CAUSE, 0x1200:01. -/
abbrev resetCause : Nat := 0x120001
/-- RESET_CAUSE_CLEAR, 0x1200:02. -/
abbrev resetCauseClear : Nat := 0x120002
/-- RESET_COUNT, 0x1200:03. -/
abbrev resetCount : Nat := 0x120003
/-- RESET_DETAIL, 0x1200:04. -/
abbrev resetDetail : Nat := 0x120004
/-- RESET_REQUEST, 0x1200:05. -/
abbrev resetRequest : Nat := 0x120005
/-- WDOG_TIMEOUT, 0x1200:06. -/
abbrev wdogTimeout : Nat := 0x120006
/-- TWIN_RESET_ACCEPT, 0x1200:07. -/
abbrev twinResetAccept : Nat := 0x120007
/-- BLOCK_RESET, 0x1200:08. -/
abbrev blockReset : Nat := 0x120008
/-- BLOCK_PENDED, 0x1200:09. -/
abbrev blockPended : Nat := 0x120009
/-- BOOT_STATUS, 0x1200:0A. -/
abbrev bootStatus : Nat := 0x12000a
/-- FUSE_PAD_INDEX, 0x1200:0B. -/
abbrev fusePadIndex : Nat := 0x12000b
/-- FUSE_PAD_CODE, 0x1200:0C. -/
abbrev fusePadCode : Nat := 0x12000c
/-- FUSE_PAD_PROGRAM, 0x1200:0D. -/
abbrev fusePadProgram : Nat := 0x12000d
/-- FUSE_STATUS, 0x1200:0E. -/
abbrev fuseStatus : Nat := 0x12000e
/-- FUSE_LOCK, 0x1200:0F. -/
abbrev fuseLock : Nat := 0x12000f
/-- SERIAL, 0x1000:04. -/
abbrev serial : Nat := 0x100004
/-- KINDLE_COUNT, 0x1000:05. -/
abbrev kindleCount : Nat := 0x100005
/-- KINDLE_LAST, 0x1000:06. -/
abbrev kindleLast : Nat := 0x100006
/-- KINDLE_FAILS, 0x1000:07. -/
abbrev kindleFails : Nat := 0x100007
/-- IP_ADDR, 0x1010:01. -/
abbrev ipAddr : Nat := 0x101001
/-- NETMASK, 0x1010:02. -/
abbrev netmask : Nat := 0x101002
/-- GATEWAY, 0x1010:03. -/
abbrev gateway : Nat := 0x101003
/-- MAC_ADDR, 0x1010:04. -/
abbrev macAddr : Nat := 0x101004
/-- KEY_OBSERVER, 0x1010:05. -/
abbrev keyObserver : Nat := 0x101005
/-- KEY_OPERATOR, 0x1010:06. -/
abbrev keyOperator : Nat := 0x101006
/-- KEY_SERVICE, 0x1010:07. -/
abbrev keyService : Nat := 0x101007
/-- IDLE_TIMEOUT, 0x1010:08. -/
abbrev idleTimeout : Nat := 0x101008
/-- BUSY_COUNT, 0x1010:09. -/
abbrev busyCount : Nat := 0x101009
/-- DROP_COUNT, 0x1010:0A. -/
abbrev dropCount : Nat := 0x10100a
/-- AUTH_FAIL_COUNT, 0x1010:0B. -/
abbrev authFailCount : Nat := 0x10100b
/-- SESSIONS_OPEN, 0x1010:0C. -/
abbrev sessionsOpen : Nat := 0x10100c
/-- CONFIG_SAVE, 0x1010:0D. -/
abbrev configSave : Nat := 0x10100d
/-- FW_SLOT0, 0x3FF0:01. -/
abbrev fwSlot0 : Nat := 0x3ff001
/-- FW_SLOT1, 0x3FF0:02. -/
abbrev fwSlot1 : Nat := 0x3ff002
/-- LINK_STATE, 0x2000:01. -/
abbrev linkState : Nat := 0x200001
/-- LINK_WIDTH_MIN, 0x2000:02. -/
abbrev linkWidthMin : Nat := 0x200002
/-- LAST_PAGE_ID, 0x2000:03. -/
abbrev lastPageId : Nat := 0x200003
/-- PAGES_OPEN, 0x2000:04. -/
abbrev pagesOpen : Nat := 0x200004
/-- COMMIT_WARN, 0x2000:05. -/
abbrev commitWarn : Nat := 0x200005
/-- CREDIT_PERIOD, 0x2000:06. -/
abbrev creditPeriod : Nat := 0x200006
/-- PKT_CRC_ERRORS, 0x2000:07. -/
abbrev pktCrcErrors : Nat := 0x200007
/-- BLOCK_REJECTS, 0x2000:08. -/
abbrev blockRejects : Nat := 0x200008
/-- BYTES_IN, 0x2000:09. -/
abbrev rasBytesIn : Nat := 0x200009
/-- LATE_LINES, 0x2000:0A. -/
abbrev lateLines : Nat := 0x20000a
/-- STORE_FLUSH, 0x2000:0B. -/
abbrev storeFlush : Nat := 0x20000b
/-- RING_MAP, 0x2000:0C. -/
abbrev ringMap : Nat := 0x20000c
/-- NEXT_BLOCK_SEQ, 0x2100+k:01. -/
abbrev nextBlockSeq (i : Nat) : Nat := 0x210001 + 256 * i
/-- RING_USED, 0x2100+k:02. -/
abbrev ringUsed (i : Nat) : Nat := 0x210002 + 256 * i
/-- CREDITS_GRANTED, 0x2100+k:03. -/
abbrev creditsGranted (i : Nat) : Nat := 0x210003 + 256 * i
/-- BLOCKS_STORED, 0x2100+k:04. -/
abbrev blocksStored (i : Nat) : Nat := 0x210004 + 256 * i
/-- CRC_FAILS, 0x2100+k:05. -/
abbrev crcFails (i : Nat) : Nat := 0x210005 + 256 * i
/-- RESENDS, 0x2100+k:06. -/
abbrev stResends (i : Nat) : Nat := 0x210006 + 256 * i
/-- LAST_COMMITTED_SEQ, 0x2100+k:07. -/
abbrev lastCommittedSeq (i : Nat) : Nat := 0x210007 + 256 * i
/-- CTX_STATE, 0x2100+k:10. -/
abbrev ctxState (i : Nat) : Nat := 0x210010 + 256 * i
/-- CHECKPOINT_LINE, 0x2100+k:11. -/
abbrev checkpointLine (i : Nat) : Nat := 0x210011 + 256 * i
/-- WORK_LINE, 0x2100+k:12. -/
abbrev workLine (i : Nat) : Nat := 0x210012 + 256 * i
/-- LINES_DECODED, 0x2100+k:13. -/
abbrev linesDecoded (i : Nat) : Nat := 0x210013 + 256 * i
/-- REWINDS, 0x2100+k:14. -/
abbrev rewinds (i : Nat) : Nat := 0x210014 + 256 * i
/-- DECODE_ERRORS, 0x2100+k:15. -/
abbrev decodeErrors (i : Nat) : Nat := 0x210015 + 256 * i
/-- LAST_ERROR, 0x2100+k:16. -/
abbrev lastError (i : Nat) : Nat := 0x210016 + 256 * i
/-- CONTEXT_IMAGE, 0x2100+k:17. -/
abbrev contextImage (i : Nat) : Nat := 0x210017 + 256 * i
/-- STRIP_STATE, 0x2200+s:01. -/
abbrev stripState (i : Nat) : Nat := 0x220001 + 256 * i
/-- NEWEST_CONFIRMED, 0x2200+s:02. -/
abbrev newestConfirmed (i : Nat) : Nat := 0x220002 + 256 * i
/-- TENTATIVE_HELD, 0x2200+s:03. -/
abbrev tentativeHeld (i : Nat) : Nat := 0x220003 + 256 * i
/-- LINES_FIRED, 0x2200+s:04. -/
abbrev linesFired (i : Nat) : Nat := 0x220004 + 256 * i
/-- LINES_SKIPPED, 0x2200+s:05. -/
abbrev spLinesSkipped (i : Nat) : Nat := 0x220005 + 256 * i
/-- DROPS_SMALL, 0x2200+s:06. -/
abbrev dropsSmall (i : Nat) : Nat := 0x220006 + 256 * i
/-- DROPS_MEDIUM, 0x2200+s:07. -/
abbrev dropsMedium (i : Nat) : Nat := 0x220007 + 256 * i
/-- DROPS_LARGE, 0x2200+s:08. -/
abbrev dropsLarge (i : Nat) : Nat := 0x220008 + 256 * i
/-- COMP_DROPS, 0x2200+s:09. -/
abbrev compDrops (i : Nat) : Nat := 0x220009 + 256 * i
/-- LOST_DROPS, 0x2200+s:0A. -/
abbrev lostDrops (i : Nat) : Nat := 0x22000a + 256 * i
/-- DEMOTED_DROPS, 0x2200+s:0B. -/
abbrev demotedDrops (i : Nat) : Nat := 0x22000b + 256 * i
/-- OUT_NOZZLES, 0x2200+s:0C. -/
abbrev outNozzles (i : Nat) : Nat := 0x22000c + 256 * i
/-- DROP_REMAP, 0x2200+s:0D. -/
abbrev dropRemap (i : Nat) : Nat := 0x22000d + 256 * i
/-- COMP_MODE, 0x2200+s:0E. -/
abbrev compMode (i : Nat) : Nat := 0x22000e + 256 * i
/-- STITCH_MODE, 0x2200+s:0F. -/
abbrev stitchMode (i : Nat) : Nat := 0x22000f + 256 * i
/-- HEALTH_ACTIVE, 0x3000:01. -/
abbrev healthActive : Nat := 0x300001
/-- HEALTH_PENDING, 0x3000:02. -/
abbrev healthPending : Nat := 0x300002
/-- HEALTH_EDIT, 0x3000:03. -/
abbrev healthEdit : Nat := 0x300003
/-- HEALTH_GEN, 0x3000:04. -/
abbrev healthGen : Nat := 0x300004
/-- SWAP_LINE, 0x3000:05. -/
abbrev htSwapLine : Nat := 0x300005
/-- SWAP_HORIZON, 0x3000:06. -/
abbrev swapHorizon : Nat := 0x300006
/-- PUBLISHES, 0x3000:07. -/
abbrev publishes : Nat := 0x300007
/-- DENSITY_TRIM, 0x3010:01. -/
abbrev densityTrim : Nat := 0x301001
/-- PLACEMENT_TRIM, 0x3020:01. -/
abbrev placementTrim : Nat := 0x302001
/-- BLEND_PATTERN, 0x3030:01. -/
abbrev blendPattern : Nat := 0x303001
/-- ENABLE, 0x2300:01, :21. -/
abbrev encEnable (j : Nat) : Nat := 0x230001 + 32 * j
/-- FILTER_N, 0x2300:02, :22. -/
abbrev filterN (j : Nat) : Nat := 0x230002 + 32 * j
/-- DIR_SENSE, 0x2300:03, :23. -/
abbrev dirSense (j : Nat) : Nat := 0x230003 + 32 * j
/-- JITTER_WINDOW, 0x2300:04, :24. -/
abbrev jitterWindow (j : Nat) : Nat := 0x230004 + 32 * j
/-- STANDSTILL_TIMEOUT, 0x2300:05, :25. -/
abbrev standstillTimeout (j : Nat) : Nat := 0x230005 + 32 * j
/-- SPEED_EDGES, 0x2300:06, :26. -/
abbrev speedEdges (j : Nat) : Nat := 0x230006 + 32 * j
/-- COUNTS_PER_REV, 0x2300:07, :27. -/
abbrev countsPerRev (j : Nat) : Nat := 0x230007 + 32 * j
/-- INDEX_TOL, 0x2300:08, :28. -/
abbrev indexTol (j : Nat) : Nat := 0x230008 + 32 * j
/-- INDEX_POLICY, 0x2300:09, :29. -/
abbrev indexPolicy (j : Nat) : Nat := 0x230009 + 32 * j
/-- COUNT, 0x2300:0A, :2A. -/
abbrev encCount (j : Nat) : Nat := 0x23000a + 32 * j
/-- TRAVEL_MARK, 0x2300:0B, :2B. -/
abbrev travelMark (j : Nat) : Nat := 0x23000b + 32 * j
/-- TRAVEL_DIR, 0x2300:0C, :2C. -/
abbrev travelDir (j : Nat) : Nat := 0x23000c + 32 * j
/-- SPEED, 0x2300:0D, :2D. -/
abbrev speed (j : Nat) : Nat := 0x23000d + 32 * j
/-- SPEED_STATE, 0x2300:0E, :2E. -/
abbrev speedState (j : Nat) : Nat := 0x23000e + 32 * j
/-- EDGE_DIR, 0x2300:0F, :2F. -/
abbrev edgeDir (j : Nat) : Nat := 0x23000f + 32 * j
/-- LAST_EDGE_COUNT, 0x2300:10, :30. -/
abbrev lastEdgeCount (j : Nat) : Nat := 0x230010 + 32 * j
/-- LAST_EDGE_TIME, 0x2300:11, :31. -/
abbrev lastEdgeTime (j : Nat) : Nat := 0x230011 + 32 * j
/-- LAST_INDEX_COUNT, 0x2300:12, :32. -/
abbrev lastIndexCount (j : Nat) : Nat := 0x230012 + 32 * j
/-- LAST_INDEX_TIME, 0x2300:13, :33. -/
abbrev lastIndexTime (j : Nat) : Nat := 0x230013 + 32 * j
/-- INDEX_ERRORS, 0x2300:14, :34. -/
abbrev indexErrors (j : Nat) : Nat := 0x230014 + 32 * j
/-- ILLEGAL_COUNT, 0x2300:15, :35. -/
abbrev illegalCount (j : Nat) : Nat := 0x230015 + 32 * j
/-- RATE_ERRORS, 0x2300:16, :36. -/
abbrev rateErrors (j : Nat) : Nat := 0x230016 + 32 * j
/-- REVERSALS, 0x2300:17, :37. -/
abbrev reversals (j : Nat) : Nat := 0x230017 + 32 * j
/-- STATUS, 0x2300:18, :38. -/
abbrev encStatus (j : Nat) : Nat := 0x230018 + 32 * j
/-- FIRING_CHANNEL, 0x2300:41. -/
abbrev firingChannel : Nat := 0x230041
/-- MONITOR_ENABLE, 0x2300:42. -/
abbrev monitorEnable : Nat := 0x230042
/-- MONITOR_RATIO, 0x2300:43. -/
abbrev monitorRatio : Nat := 0x230043
/-- CROSS_TOL, 0x2300:44. -/
abbrev crossTol : Nat := 0x230044
/-- CROSS_ERRORS, 0x2300:45. -/
abbrev crossErrors : Nat := 0x230045
/-- LINE_PITCH, 0x2300:50. -/
abbrev linePitch : Nat := 0x230050
/-- ARM_LEAD, 0x2300:51. -/
abbrev armLead : Nat := 0x230051
/-- LEAD_TARGET, 0x2300:52. -/
abbrev leadTarget : Nat := 0x230052
/-- LEAD_LOW_MARK, 0x2300:53. -/
abbrev leadLowMark : Nat := 0x230053
/-- FIRE_DIR, 0x2300:54. -/
abbrev fireDir : Nat := 0x230054
/-- ORIGIN_MODE, 0x2300:55. -/
abbrev originMode : Nat := 0x230055
/-- START_DISTANCE, 0x2300:56. -/
abbrev startDistance : Nat := 0x230056
/-- ORIGIN_COUNT, 0x2300:57. -/
abbrev originCount : Nat := 0x230057
/-- ORIGIN_SEQ, 0x2300:58. -/
abbrev originSeq : Nat := 0x230058
/-- GROUP_OFFSET, 0x2300:60+g. -/
abbrev groupOffset (j : Nat) : Nat := 0x230060 + j
/-- DIR_ALIGN, 0x2300:68+g. -/
abbrev dirAlign (j : Nat) : Nat := 0x230068 + j
/-- HEAD_MIN_PERIOD, 0x2300:70. -/
abbrev headMinPeriod : Nat := 0x230070
/-- STROBE_WIDTH, 0x2300:71. -/
abbrev strobeWidth : Nat := 0x230071
/-- SNUFF_MAX, 0x2300:72. -/
abbrev snuffMax : Nat := 0x230072
/-- SNUFF_ESC_COUNT, 0x2300:73. -/
abbrev snuffEscCount : Nat := 0x230073
/-- SKIP_LIMIT, 0x2300:74. -/
abbrev skipLimit : Nat := 0x230074
/-- SKIP_POLICY, 0x2300:75. -/
abbrev skipPolicy : Nat := 0x230075
/-- SPEED_LIMIT_STATE, 0x2300:76. -/
abbrev speedLimitState : Nat := 0x230076
/-- MAINT_PERIOD, 0x2300:77. -/
abbrev maintPeriod : Nat := 0x230077
/-- MAINT_START, 0x2300:78. -/
abbrev maintStart : Nat := 0x230078
/-- MAINT_ABORTS, 0x2300:79. -/
abbrev maintAborts : Nat := 0x230079
/-- LEAD_NOW, 0x2300:80+g. -/
abbrev leadNow (j : Nat) : Nat := 0x230080 + j
/-- NEXT_ARM_SEQ, 0x2300:88+g. -/
abbrev nextArmSeq (j : Nat) : Nat := 0x230088 + j
/-- LINES_CONFIRMED, 0x2300:90. -/
abbrev linesConfirmed : Nat := 0x230090
/-- LATE_FIRES, 0x2300:91. -/
abbrev lateFires : Nat := 0x230091
/-- LATE_ARMS, 0x2300:92. -/
abbrev lateArms : Nat := 0x230092
/-- COUNT_LOCKED_LINES, 0x2300:93. -/
abbrev countLockedLines : Nat := 0x230093
/-- CANCELS, 0x2300:94. -/
abbrev cancels : Nat := 0x230094
/-- SNUFF_CUTS, 0x2300:95. -/
abbrev snuffCuts : Nat := 0x230095
/-- SKIPS_TOTAL, 0x2300:96. -/
abbrev skipsTotal : Nat := 0x230096
/-- LEDGER_OVERWRITTEN, 0x2300:97. -/
abbrev ledgerOverwritten : Nat := 0x230097
/-- SKIP_LEDGER, 0x2300:98. -/
abbrev skipLedger : Nat := 0x230098
/-- LANE_STATE, 0x24xx:01. -/
abbrev laneState (i : Nat) : Nat := 0x240001 + 256 * i
/-- RX_INVERTED, 0x24xx:02. -/
abbrev rxInverted (i : Nat) : Nat := 0x240002 + 256 * i
/-- LOS_COUNT, 0x24xx:03. -/
abbrev losCount (i : Nat) : Nat := 0x240003 + 256 * i
/-- LOL_COUNT, 0x24xx:04. -/
abbrev lolCount (i : Nat) : Nat := 0x240004 + 256 * i
/-- CODE_ERRORS, 0x24xx:05. -/
abbrev codeErrors (i : Nat) : Nat := 0x240005 + 256 * i
/-- CTLE_CODE, 0x24xx:06. -/
abbrev ctleCode (i : Nat) : Nat := 0x240006 + 256 * i
/-- DFE_TAPS, 0x24xx:07. -/
abbrev dfeTaps (i : Nat) : Nat := 0x240007 + 256 * i
/-- RETRAINS, 0x24xx:08. -/
abbrev retrains (i : Nat) : Nat := 0x240008 + 256 * i
/-- FRAME_ERRORS, 0x24xx:09. -/
abbrev frameErrors (i : Nat) : Nat := 0x240009 + 256 * i
/-- TX_DEEMPH, 0x24xx:0A. -/
abbrev txDeemph (i : Nat) : Nat := 0x24000a + 256 * i
/-- LANE_STATUS, 0x24xx:0B. -/
abbrev laneStatus (i : Nat) : Nat := 0x24000b + 256 * i
/-- POPULATED, 0x2400+m:10. -/
abbrev populated (i : Nat) : Nat := 0x240010 + 256 * i
/-- SLOT_ID_SEEN, 0x2400+m:11. -/
abbrev slotIdSeen (i : Nat) : Nat := 0x240011 + 256 * i
/-- HEAD_STATE, 0x2400+m:12. -/
abbrev headState (i : Nat) : Nat := 0x240012 + 256 * i
/-- STATUS_PERIOD, 0x2400+m:13. -/
abbrev statusPeriod (i : Nat) : Nat := 0x240013 + 256 * i
/-- RECOVER_TIME, 0x2400+m:14. -/
abbrev recoverTime (i : Nat) : Nat := 0x240014 + 256 * i
/-- HEAD_MISSING, 0x2400+m:15. -/
abbrev headMissing (i : Nat) : Nat := 0x240015 + 256 * i
/-- HEAD_DUPLICATES, 0x2400+m:16. -/
abbrev headDuplicates (i : Nat) : Nat := 0x240016 + 256 * i
/-- HEAD_CRC_ERRORS, 0x2400+m:17. -/
abbrev headCrcErrors (i : Nat) : Nat := 0x240017 + 256 * i
/-- MATE_FIRES, 0x2400+m:18. -/
abbrev mateFires (i : Nat) : Nat := 0x240018 + 256 * i
/-- CTRL_RESENDS, 0x2400+m:19. -/
abbrev ctrlResends (i : Nat) : Nat := 0x240019 + 256 * i
/-- TRIM_ACKED, 0x2400+m:1A. -/
abbrev trimAcked (i : Nat) : Nat := 0x24001a + 256 * i
/-- LAST_STATUS, 0x2400+m:1B. -/
abbrev lastStatus (i : Nat) : Nat := 0x24001b + 256 * i
/-- TWIN_STATUS, 0x2500:01. -/
abbrev twinStatus : Nat := 0x250001
/-- PARTNER_MODE, 0x2500:02. -/
abbrev partnerMode : Nat := 0x250002
/-- CONFIG_DIGEST, 0x2500:03. -/
abbrev configDigest : Nat := 0x250003
/-- MATE_LAG, 0x2500:04. -/
abbrev mateLag : Nat := 0x250004
/-- JOIN_LEAD, 0x2500:05. -/
abbrev joinLead : Nat := 0x250005
/-- SWAP_REQUEST, 0x2500:06. -/
abbrev swapRequest : Nat := 0x250006
/-- SWAP_LINE, 0x2500:07. -/
abbrev twSwapLine : Nat := 0x250007
/-- JOIN_STATE, 0x2500:08. -/
abbrev joinState : Nat := 0x250008
/-- JOIN_RETRIES, 0x2500:09. -/
abbrev joinRetries : Nat := 0x250009
/-- FAILOVERS, 0x2500:0A. -/
abbrev failovers : Nat := 0x25000a
/-- PROMOTION_LINES, 0x2500:0B. -/
abbrev promotionLines : Nat := 0x25000b
/-- FAILOVER_TIME, 0x2500:0C. -/
abbrev failoverTime : Nat := 0x25000c
/-- MATE_SKIPS, 0x2500:0D. -/
abbrev mateSkips : Nat := 0x25000d
/-- OPEN_RESOLVED, 0x2500:0E. -/
abbrev openResolved : Nat := 0x25000e
/-- TWIN_EVENTS, 0x2500:0F. -/
abbrev twinEvents : Nat := 0x25000f
/-- PORT_ENABLE, 0x2600:01. -/
abbrev portEnable : Nat := 0x260001
/-- PIXEL_MODE, 0x2600:02. -/
abbrev pixelMode : Nat := 0x260002
/-- SEL_SETTLE, 0x2600:03. -/
abbrev selSettle : Nat := 0x260003
/-- PAD_VALUE, 0x2600:04. -/
abbrev padValue : Nat := 0x260004
/-- UART_BAUD, 0x2600:05. -/
abbrev uartBaud : Nat := 0x260005
/-- UART_CONTEXT, 0x2600:06. -/
abbrev uartContext : Nat := 0x260006
/-- UART_TX, 0x2600:07. -/
abbrev uartTx : Nat := 0x260007
/-- UART_RX, 0x2600:08. -/
abbrev uartRx : Nat := 0x260008
/-- UART_TIMEOUT, 0x2600:09. -/
abbrev uartTimeout : Nat := 0x260009
/-- LANTERN_STATUS, 0x2600:0A. -/
abbrev lanternStatus : Nat := 0x26000a
/-- TAP_SELECT, 0x2600:0B. -/
abbrev tapSelect : Nat := 0x26000b
/-- TAP_FRAMES, 0x2600:0C. -/
abbrev tapFrames : Nat := 0x26000c
/-- REF_LATE, 0x2600:0D. -/
abbrev refLate : Nat := 0x26000d
/-- CTX_ENABLE, 0x2600:10+16c. -/
abbrev ctxEnable (j : Nat) : Nat := 0x260010 + 16 * j
/-- EXPOSURE, 0x2600:11+16c. -/
abbrev exposure (j : Nat) : Nat := 0x260011 + 16 * j
/-- LINE_PERIOD, 0x2600:12+16c. -/
abbrev linePeriod (j : Nat) : Nat := 0x260012 + 16 * j
/-- LINES_PER_FRAME, 0x2600:13+16c. -/
abbrev linesPerFrame (j : Nat) : Nat := 0x260013 + 16 * j
/-- PIXELS_PER_LINE, 0x2600:14+16c. -/
abbrev pixelsPerLine (j : Nat) : Nat := 0x260014 + 16 * j
/-- COMMIT, 0x2600:15+16c. -/
abbrev camCommit (j : Nat) : Nat := 0x260015 + 16 * j
/-- GENERATION, 0x2600:16+16c. -/
abbrev generation (j : Nat) : Nat := 0x260016 + 16 * j
/-- GEN_IN_USE, 0x2600:17+16c. -/
abbrev genInUse (j : Nat) : Nat := 0x260017 + 16 * j
/-- REF_STREAM, 0x2600:18+16c. -/
abbrev refStream (j : Nat) : Nat := 0x260018 + 16 * j
/-- CAM_DISTANCE, 0x2600:19+16c. -/
abbrev camDistance (j : Nat) : Nat := 0x260019 + 16 * j
/-- FRAMES, 0x2600:1A+16c. -/
abbrev frames (j : Nat) : Nat := 0x26001a + 16 * j
/-- FRAME_FAULTS, 0x2600:1B+16c. -/
abbrev frameFaults (j : Nat) : Nat := 0x26001b + 16 * j
/-- LAST_RECORD, 0x2600:1C+16c. -/
abbrev lastRecord (j : Nat) : Nat := 0x26001c + 16 * j
/-- FINDINGS, 0x2600:1D+16c. -/
abbrev findings (j : Nat) : Nat := 0x26001d + 16 * j
/-- OFFSET_TABLE, 0x2600:90+c. -/
abbrev offsetTable (j : Nat) : Nat := 0x260090 + j
/-- FLAT_TABLE, 0x2600:98+c. -/
abbrev flatTable (j : Nat) : Nat := 0x260098 + j
/-- DEFECT_LIST, 0x2600:A0+c. -/
abbrev defectList (j : Nat) : Nat := 0x2600a0 + j
/-- GEOMETRY, 0x2600:A8+c. -/
abbrev geometry (j : Nat) : Nat := 0x2600a8 + j
/-- DETECT_ENABLE, 0x2600:B0. -/
abbrev detectEnable : Nat := 0x2600b0
/-- OUT_LEVEL, 0x2600:B1. -/
abbrev outLevel : Nat := 0x2600b1
/-- WEAK_LEVEL, 0x2600:B2. -/
abbrev weakLevel : Nat := 0x2600b2
/-- CONFIRM_RUNGS, 0x2600:B3. -/
abbrev confirmRungs : Nat := 0x2600b3
/-- MIN_RUNG_LINES, 0x2600:B4. -/
abbrev minRungLines : Nat := 0x2600b4
/-- MARK_FLOOR, 0x2600:B5. -/
abbrev markFloor : Nat := 0x2600b5
/-- BLANK, 0x2700:01. -/
abbrev ledBlank : Nat := 0x270001
/-- CAL_CODES, 0x2700:02. -/
abbrev calCodes : Nat := 0x270002
/-- LED_TEMP_SLOT, 0x2700:03. -/
abbrev ledTempSlot : Nat := 0x270003
/-- KNEE_TEMP, 0x2700:04. -/
abbrev kneeTemp : Nat := 0x270004
/-- DERATE_SLOPE, 0x2700:05. -/
abbrev derateSlope : Nat := 0x270005
/-- DERATE_MIN, 0x2700:06. -/
abbrev derateMin : Nat := 0x270006
/-- LED_TEMP_MAX, 0x2700:07. -/
abbrev ledTempMax : Nat := 0x270007
/-- LED_SEG_POWER, 0x2700:08. -/
abbrev ledSegPower : Nat := 0x270008
/-- DERATE_NOW, 0x2700:09. -/
abbrev derateNow : Nat := 0x270009
/-- DARK_FRAMES, 0x2700:0A. -/
abbrev darkFrames : Nat := 0x27000a
/-- LED_STATUS, 0x2700:0B. -/
abbrev ledStatus : Nat := 0x27000b
/-- LED_TEST, 0x2700:0C. -/
abbrev ledTest : Nat := 0x27000c
/-- SHORT_MAP, 0x2700:0D. -/
abbrev shortMap : Nat := 0x27000d
/-- LED_SEG_MASK_LO, 0x2700:10+16c. -/
abbrev ledSegMaskLo (j : Nat) : Nat := 0x270010 + 16 * j
/-- LED_SEG_MASK_HI, 0x2700:11+16c. -/
abbrev ledSegMaskHi (j : Nat) : Nat := 0x270011 + 16 * j
/-- LED_LEVEL, 0x2700:12+16c. -/
abbrev ledLevel (j : Nat) : Nat := 0x270012 + 16 * j
/-- CHUNK_SIZE, 0x2800:01. -/
abbrev chunkSize : Nat := 0x280001
/-- FLUSH_TIME, 0x2800:02. -/
abbrev flushTime : Nat := 0x280002
/-- ACK_TIMEOUT, 0x2800:03. -/
abbrev ackTimeout : Nat := 0x280003
/-- UPLOAD_REQUEST, 0x2800:04. -/
abbrev uploadRequest : Nat := 0x280004
/-- UPLOAD_RESULT, 0x2800:05. -/
abbrev uploadResult : Nat := 0x280005
/-- CHECK_MODE, 0x2800:10+16c. -/
abbrev checkMode (j : Nat) : Nat := 0x280010 + 16 * j
/-- OUT_BASE, 0x2800:11+16c. -/
abbrev outBase (j : Nat) : Nat := 0x280011 + 16 * j
/-- OUT_BUF_SIZE, 0x2800:12+16c. -/
abbrev outBufSize (j : Nat) : Nat := 0x280012 + 16 * j
/-- OUT_BUF_COUNT, 0x2800:13+16c. -/
abbrev outBufCount (j : Nat) : Nat := 0x280013 + 16 * j
/-- NEXT_CHUNK_SEQ, 0x2800:14+16c. -/
abbrev nextChunkSeq (j : Nat) : Nat := 0x280014 + 16 * j
/-- BYTES_IN, 0x2800:15+16c. -/
abbrev upBytesIn (j : Nat) : Nat := 0x280015 + 16 * j
/-- BYTES_OUT, 0x2800:16+16c. -/
abbrev bytesOut (j : Nat) : Nat := 0x280016 + 16 * j
/-- NO_SHRINK, 0x2800:17+16c. -/
abbrev noShrink (j : Nat) : Nat := 0x280017 + 16 * j
/-- VERIFY_FAILS, 0x2800:18+16c. -/
abbrev verifyFails (j : Nat) : Nat := 0x280018 + 16 * j
/-- RESENDS, 0x2800:19+16c. -/
abbrev upResends (j : Nat) : Nat := 0x280019 + 16 * j
/-- DROPS, 0x2800:1A+16c. -/
abbrev drops (j : Nat) : Nat := 0x28001a + 16 * j
/-- LAST_RESULT, 0x2800:1B+16c. -/
abbrev lastResult (j : Nat) : Nat := 0x28001b + 16 * j
/-- SCAN_REQUEST, 0x2900:01. -/
abbrev scanRequest : Nat := 0x290001
/-- SCAN_QUEUED, 0x2900:02. -/
abbrev scanQueued : Nat := 0x290002
/-- SCRUB_ENABLE, 0x2900:03. -/
abbrev scrubEnable : Nat := 0x290003
/-- SCRUB_RATE, 0x2900:04. -/
abbrev scrubRate : Nat := 0x290004
/-- SCRUB_PASSES, 0x2900:05. -/
abbrev scrubPasses : Nat := 0x290005
/-- SCRUB_MISMATCHES, 0x2900:06. -/
abbrev scrubMismatches : Nat := 0x290006
/-- CHECK_STATUS, 0x2900:07. -/
abbrev checkStatus : Nat := 0x290007
/-- POLY, 0x2900:10+8u. -/
abbrev poly (j : Nat) : Nat := 0x290010 + 8 * j
/-- PREFIX_MODE, 0x2900:11+8u. -/
abbrev prefixMode (j : Nat) : Nat := 0x290011 + 8 * j
/-- PREFIX_ID, 0x2900:12+8u. -/
abbrev prefixId (j : Nat) : Nat := 0x290012 + 8 * j
/-- RUNNING, 0x2900:13+8u. -/
abbrev running (j : Nat) : Nat := 0x290013 + 8 * j
/-- RESULT, 0x2900:14+8u. -/
abbrev result (j : Nat) : Nat := 0x290014 + 8 * j
/-- EXPECTED, 0x2900:15+8u. -/
abbrev expected (j : Nat) : Nat := 0x290015 + 8 * j
/-- UNIT_STATE, 0x2900:16+8u. -/
abbrev unitState (j : Nat) : Nat := 0x290016 + 8 * j
/-- OWNER, 0x2900:17+8u. -/
abbrev owner (j : Nat) : Nat := 0x290017 + 8 * j
/-- DRAM_SIZE, 0x2A00:01. -/
abbrev dramSize : Nat := 0x2a0001
/-- DRAM_RANKS, 0x2A00:02. -/
abbrev dramRanks : Nat := 0x2a0002
/-- DRAM_FREQ, 0x2A00:03. -/
abbrev dramFreq : Nat := 0x2a0003
/-- DRAM_ALT_FREQ, 0x2A00:04. -/
abbrev dramAltFreq : Nat := 0x2a0004
/-- FREQ_SELECT, 0x2A00:05. -/
abbrev freqSelect : Nat := 0x2a0005
/-- FREQ_NOW, 0x2A00:06. -/
abbrev freqNow : Nat := 0x2a0006
/-- FREQ_CHANGES, 0x2A00:07. -/
abbrev freqChanges : Nat := 0x2a0007
/-- AGE_LIMIT_INSPECT, 0x2A00:08. -/
abbrev ageLimitInspect : Nat := 0x2a0008
/-- AGE_LIMIT_HOST, 0x2A00:09. -/
abbrev ageLimitHost : Nat := 0x2a0009
/-- AGE_LIMIT_BULK, 0x2A00:0A. -/
abbrev ageLimitBulk : Nat := 0x2a000a
/-- PANIC_MARK, 0x2A00:0B. -/
abbrev panicMark : Nat := 0x2a000b
/-- PANIC_COUNT, 0x2A00:0C. -/
abbrev panicCount : Nat := 0x2a000c
/-- PANIC_TIME, 0x2A00:0D. -/
abbrev panicTime : Nat := 0x2a000d
/-- CE_COUNT, 0x2A00:0E. -/
abbrev ceCount : Nat := 0x2a000e
/-- UE_COUNT, 0x2A00:0F. -/
abbrev ueCount : Nat := 0x2a000f
/-- LAST_ERROR_ADDR, 0x2A00:10. -/
abbrev lastErrorAddr : Nat := 0x2a0010
/-- UE_LIMIT, 0x2A00:11. -/
abbrev ueLimit : Nat := 0x2a0011
/-- DRAM_STATUS, 0x2A00:12. -/
abbrev dramStatus : Nat := 0x2a0012
/-- TRAIN_RESULT, 0x2A00:13. -/
abbrev trainResult : Nat := 0x2a0013
/-- MR4_RATE, 0x2A00:14. -/
abbrev mr4Rate : Nat := 0x2a0014
/-- LINE_POLICY, 0x1400:01. -/
abbrev linePolicy : Nat := 0x140001
/-- LIGHT_THRESHOLD, 0x1400:02. -/
abbrev lightThreshold : Nat := 0x140002
/-- E_SMALL, 0x1400:03. -/
abbrev eSmall : Nat := 0x140003
/-- E_MEDIUM, 0x1400:04. -/
abbrev eMedium : Nat := 0x140004
/-- E_LARGE, 0x1400:05. -/
abbrev eLarge : Nat := 0x140005
/-- LINES_DEMOTED, 0x1400:06. -/
abbrev linesDemoted : Nat := 0x140006
/-- LINES_SKIPPED, 0x1400:07. -/
abbrev wkLinesSkipped : Nat := 0x140007
/-- DEFER_MAX, 0x1400:08. -/
abbrev deferMax : Nat := 0x140008
/-- WICK_STATUS, 0x1400:09. -/
abbrev wickStatus : Nat := 0x140009
/-- LIMIT, 0x1400:10+16p. -/
abbrev limit (j : Nat) : Nat := 0x140010 + 16 * j
/-- WINDOW, 0x1400:11+16p. -/
abbrev window (j : Nat) : Nat := 0x140011 + 16 * j
/-- PEAK, 0x1400:12+16p. -/
abbrev peak (j : Nat) : Nat := 0x140012 + 16 * j
/-- LEVEL, 0x1400:13+16p. -/
abbrev level (j : Nat) : Nat := 0x140013 + 16 * j
/-- HEADROOM, 0x1400:14+16p. -/
abbrev headroom (j : Nat) : Nat := 0x140014 + 16 * j
/-- GRANTS, 0x1400:15+16p. -/
abbrev grants (j : Nat) : Nat := 0x140015 + 16 * j
/-- DEFERS, 0x1400:16+16p. -/
abbrev defers (j : Nat) : Nat := 0x140016 + 16 * j
/-- REFUSALS, 0x1400:17+16p. -/
abbrev refusals (j : Nat) : Nat := 0x140017 + 16 * j
/-- QUEUED, 0x1400:18+16p. -/
abbrev queued (j : Nat) : Nat := 0x140018 + 16 * j
/-- ENABLE, 0x2B00+i:01. -/
abbrev lpEnable (i : Nat) : Nat := 0x2b0001 + 256 * i
/-- CLASS, 0x2B00+i:02. -/
abbrev lpClass (i : Nat) : Nat := 0x2b0002 + 256 * i
/-- SOURCE, 0x2B00+i:03. -/
abbrev lpSource (i : Nat) : Nat := 0x2b0003 + 256 * i
/-- SOURCE_ARG, 0x2B00+i:04. -/
abbrev sourceArg (i : Nat) : Nat := 0x2b0004 + 256 * i
/-- ACTUATOR, 0x2B00+i:05. -/
abbrev actuator (i : Nat) : Nat := 0x2b0005 + 256 * i
/-- ACTUATOR_ARG, 0x2B00+i:06. -/
abbrev actuatorArg (i : Nat) : Nat := 0x2b0006 + 256 * i
/-- PERIOD, 0x2B00+i:07. -/
abbrev lpPeriod (i : Nat) : Nat := 0x2b0007 + 256 * i
/-- PHASE, 0x2B00+i:08. -/
abbrev lpPhase (i : Nat) : Nat := 0x2b0008 + 256 * i
/-- SCALE, 0x2B00+i:09. -/
abbrev scale (i : Nat) : Nat := 0x2b0009 + 256 * i
/-- OFFSET, 0x2B00+i:0A. -/
abbrev offset (i : Nat) : Nat := 0x2b000a + 256 * i
/-- ACTION, 0x2B00+i:0B. -/
abbrev action (i : Nat) : Nat := 0x2b000b + 256 * i
/-- SETPOINT, 0x2B00+i:0C. -/
abbrev setpoint (i : Nat) : Nat := 0x2b000c + 256 * i
/-- LIMITER, 0x2B00+i:0D. -/
abbrev limiter (i : Nat) : Nat := 0x2b000d + 256 * i
/-- FF_SOURCE, 0x2B00+i:0E. -/
abbrev ffSource (i : Nat) : Nat := 0x2b000e + 256 * i
/-- SNUFF_MODE, 0x2B00+i:0F. -/
abbrev snuffMode (i : Nat) : Nat := 0x2b000f + 256 * i
/-- SAFE_OUT, 0x2B00+i:10. -/
abbrev safeOut (i : Nat) : Nat := 0x2b0010 + 256 * i
/-- READY_BAND, 0x2B00+i:11. -/
abbrev readyBand (i : Nat) : Nat := 0x2b0011 + 256 * i
/-- SUP_ACTION, 0x2B00+i:12. -/
abbrev supAction (i : Nat) : Nat := 0x2b0012 + 256 * i
/-- FOLLOW_MAX, 0x2B00+i:13. -/
abbrev followMax (i : Nat) : Nat := 0x2b0013 + 256 * i
/-- FOLLOW_TIME, 0x2B00+i:14. -/
abbrev followTime (i : Nat) : Nat := 0x2b0014 + 256 * i
/-- PLAUS_MIN, 0x2B00+i:15. -/
abbrev plausMin (i : Nat) : Nat := 0x2b0015 + 256 * i
/-- PLAUS_MAX, 0x2B00+i:16. -/
abbrev plausMax (i : Nat) : Nat := 0x2b0016 + 256 * i
/-- SLEW_MAX, 0x2B00+i:17. -/
abbrev slewMax (i : Nat) : Nat := 0x2b0017 + 256 * i
/-- RESID_MAX, 0x2B00+i:18. -/
abbrev residMax (i : Nat) : Nat := 0x2b0018 + 256 * i
/-- RESID_COUNT, 0x2B00+i:19. -/
abbrev residCount (i : Nat) : Nat := 0x2b0019 + 256 * i
/-- FS_POWER, 0x2B00+i:1A. -/
abbrev fsPower (i : Nat) : Nat := 0x2b001a + 256 * i
/-- POOL, 0x2B00+i:1B. -/
abbrev pool (i : Nat) : Nat := 0x2b001b + 256 * i
/-- SPI_CFG, 0x2B00+i:1C. -/
abbrev spiCfg (i : Nat) : Nat := 0x2b001c + 256 * i
/-- CNV_TIMES, 0x2B00+i:1D. -/
abbrev cnvTimes (i : Nat) : Nat := 0x2b001d + 256 * i
/-- ADC_CMD, 0x2B00+i:1E. -/
abbrev adcCmd (i : Nat) : Nat := 0x2b001e + 256 * i
/-- ACT_WORD, 0x2B00+i:1F. -/
abbrev actWord (i : Nat) : Nat := 0x2b001f + 256 * i
/-- ACT_SCALE, 0x2B00+i:20. -/
abbrev actScale (i : Nat) : Nat := 0x2b0020 + 256 * i
/-- BANK_SWAP, 0x2B00+i:21. -/
abbrev bankSwap (i : Nat) : Nat := 0x2b0021 + 256 * i
/-- BANK_ACTIVE, 0x2B00+i:22. -/
abbrev bankActive (i : Nat) : Nat := 0x2b0022 + 256 * i
/-- MEASURED, 0x2B00+i:23. -/
abbrev measured (i : Nat) : Nat := 0x2b0023 + 256 * i
/-- ERROR, 0x2B00+i:24. -/
abbrev lpError (i : Nat) : Nat := 0x2b0024 + 256 * i
/-- OUTPUT, 0x2B00+i:25. -/
abbrev lpOutput (i : Nat) : Nat := 0x2b0025 + 256 * i
/-- INTEGRATOR, 0x2B00+i:26. -/
abbrev integrator (i : Nat) : Nat := 0x2b0026 + 256 * i
/-- WON, 0x2B00+i:27. -/
abbrev won (i : Nat) : Nat := 0x2b0027 + 256 * i
/-- SAMPLES, 0x2B00+i:28. -/
abbrev samples (i : Nat) : Nat := 0x2b0028 + 256 * i
/-- STALE, 0x2B00+i:29. -/
abbrev stale (i : Nat) : Nat := 0x2b0029 + 256 * i
/-- OVERRUNS, 0x2B00+i:2A. -/
abbrev overruns (i : Nat) : Nat := 0x2b002a + 256 * i
/-- SLOT_STATUS, 0x2B00+i:2B. -/
abbrev slotStatus (i : Nat) : Nat := 0x2b002b + 256 * i
/-- GAIN_TABLE, 0x2B00+i:40+8b. -/
abbrev gainTable (i : Nat) (j : Nat) : Nat := 0x2b0040 + 256 * i + 8 * j
/-- KI_TS, 0x2B00+i:41+8b. -/
abbrev kiTs (i : Nat) (j : Nat) : Nat := 0x2b0041 + 256 * i + 8 * j
/-- KFF, 0x2B00+i:42+8b. -/
abbrev kff (i : Nat) (j : Nat) : Nat := 0x2b0042 + 256 * i + 8 * j
/-- NOTCH, 0x2B00+i:43+8b. -/
abbrev notch (i : Nat) (j : Nat) : Nat := 0x2b0043 + 256 * i + 8 * j
/-- OUT_MIN, 0x2B00+i:44+8b. -/
abbrev outMin (i : Nat) (j : Nat) : Nat := 0x2b0044 + 256 * i + 8 * j
/-- OUT_MAX, 0x2B00+i:45+8b. -/
abbrev outMax (i : Nat) (j : Nat) : Nat := 0x2b0045 + 256 * i + 8 * j
/-- RATE_MAX, 0x2B00+i:46+8b. -/
abbrev rateMax (i : Nat) (j : Nat) : Nat := 0x2b0046 + 256 * i + 8 * j
/-- MODEL, 0x2B00+i:47+8b. -/
abbrev model (i : Nat) (j : Nat) : Nat := 0x2b0047 + 256 * i + 8 * j
/-- GANTRY_LINK, 0x2C00:01. -/
abbrev gantryLink : Nat := 0x2c0001
/-- STOP_ALL, 0x2C00:02. -/
abbrev stopAll : Nat := 0x2c0002
/-- MOVE_REFUSED, 0x2C00:03. -/
abbrev moveRefused : Nat := 0x2c0003
/-- AXIS_STATE, +0x00. -/
abbrev axisState (j : Nat) : Nat := 0x2c0020 + 32 * j
/-- POSITION, +0x01. -/
abbrev axPosition (j : Nat) : Nat := 0x2c0021 + 32 * j
/-- TARGET, +0x02. -/
abbrev axTarget (j : Nat) : Nat := 0x2c0022 + 32 * j
/-- VELOCITY, +0x03. -/
abbrev axVelocity (j : Nat) : Nat := 0x2c0023 + 32 * j
/-- V_MAX, +0x04. -/
abbrev vMax (j : Nat) : Nat := 0x2c0024 + 32 * j
/-- A_MAX, +0x05. -/
abbrev aMax (j : Nat) : Nat := 0x2c0025 + 32 * j
/-- J_MAX, +0x06. -/
abbrev jMax (j : Nat) : Nat := 0x2c0026 + 32 * j
/-- RUN_CURRENT, +0x07. -/
abbrev runCurrent (j : Nat) : Nat := 0x2c0027 + 32 * j
/-- HOLD_CURRENT, +0x08. -/
abbrev holdCurrent (j : Nat) : Nat := 0x2c0028 + 32 * j
/-- SHUNT, +0x09. -/
abbrev shunt (j : Nat) : Nat := 0x2c0029 + 32 * j
/-- T_OFF, +0x0A. -/
abbrev tOff (j : Nat) : Nat := 0x2c002a + 32 * j
/-- BLANK, +0x0B. -/
abbrev axBlank (j : Nat) : Nat := 0x2c002b + 32 * j
/-- DEAD_TIME, +0x0C. -/
abbrev deadTime (j : Nat) : Nat := 0x2c002c + 32 * j
/-- OFFSET_NOW, +0x0D. -/
abbrev offsetNow (j : Nat) : Nat := 0x2c002d + 32 * j
/-- CMP_CAL, +0x0E. -/
abbrev cmpCal (j : Nat) : Nat := 0x2c002e + 32 * j
/-- HOME_DIR, +0x0F. -/
abbrev homeDir (j : Nat) : Nat := 0x2c002f + 32 * j
/-- HOME_SPEED, +0x10. -/
abbrev homeSpeed (j : Nat) : Nat := 0x2c0030 + 32 * j
/-- HOME_CURRENT, +0x11. -/
abbrev homeCurrent (j : Nat) : Nat := 0x2c0031 + 32 * j
/-- HOME_MAX_TRAVEL, +0x12. -/
abbrev homeMaxTravel (j : Nat) : Nat := 0x2c0032 + 32 * j
/-- HOME_OFFSET, +0x13. -/
abbrev homeOffset (j : Nat) : Nat := 0x2c0033 + 32 * j
/-- BACKOFF, +0x14. -/
abbrev backoff (j : Nat) : Nat := 0x2c0034 + 32 * j
/-- STALL_RATIO, +0x15. -/
abbrev stallRatio (j : Nat) : Nat := 0x2c0035 + 32 * j
/-- STALL_STEPS, +0x16. -/
abbrev stallSteps (j : Nat) : Nat := 0x2c0036 + 32 * j
/-- STALL_TON, +0x17. -/
abbrev stallTon (j : Nat) : Nat := 0x2c0037 + 32 * j
/-- HOME, +0x18. -/
abbrev axHome (j : Nat) : Nat := 0x2c0038 + 32 * j
/-- STOP, +0x19. -/
abbrev axStop (j : Nat) : Nat := 0x2c0039 + 32 * j
/-- MOVE_POWER, +0x1A. -/
abbrev movePower (j : Nat) : Nat := 0x2c003a + 32 * j
/-- OPEN_POS, +0x1B. -/
abbrev openPos (j : Nat) : Nat := 0x2c003b + 32 * j
/-- AXIS_STATUS, +0x1C. -/
abbrev axisStatus (j : Nat) : Nat := 0x2c003c + 32 * j
/-- MOVES, +0x1D. -/
abbrev moves (j : Nat) : Nat := 0x2c003d + 32 * j
/-- TIME_NOW, 0x2D00:01. -/
abbrev timeNow : Nat := 0x2d0001
/-- TIME_SET, 0x2D00:02. -/
abbrev timeSet : Nat := 0x2d0002
/-- TIME_STEP, 0x2D00:03. -/
abbrev timeStep : Nat := 0x2d0003
/-- RATE_TRIM, 0x2D00:04. -/
abbrev rateTrim : Nat := 0x2d0004
/-- TIME_VALID, 0x2D00:05. -/
abbrev timeValid : Nat := 0x2d0005
/-- STEPS, 0x2D00:06. -/
abbrev steps : Nat := 0x2d0006
/-- PTP_ENABLE, 0x2D00:07. -/
abbrev ptpEnable : Nat := 0x2d0007
/-- PTP_DOMAIN, 0x2D00:08. -/
abbrev ptpDomain : Nat := 0x2d0008
/-- LOG_SYNC_INTERVAL, 0x2D00:09. -/
abbrev logSyncInterval : Nat := 0x2d0009
/-- LOG_ANNOUNCE_INTERVAL, 0x2D00:0A. -/
abbrev logAnnounceInterval : Nat := 0x2d000a
/-- LOG_MIN_DELAY_REQ, 0x2D00:0B. -/
abbrev logMinDelayReq : Nat := 0x2d000b
/-- PRIORITY1, 0x2D00:0C. -/
abbrev priority1 : Nat := 0x2d000c
/-- PRIORITY2, 0x2D00:0D. -/
abbrev priority2 : Nat := 0x2d000d
/-- CLOCK_CLASS, 0x2D00:0E. -/
abbrev clockClass : Nat := 0x2d000e
/-- UTC_OFFSET, 0x2D00:0F. -/
abbrev utcOffset : Nat := 0x2d000f
/-- UTC_OFFSET_VALID, 0x2D00:10. -/
abbrev utcOffsetValid : Nat := 0x2d0010
/-- PHY_TX_LATENCY, 0x2D00:11. -/
abbrev phyTxLatency : Nat := 0x2d0011
/-- PHY_RX_LATENCY, 0x2D00:12. -/
abbrev phyRxLatency : Nat := 0x2d0012
/-- PTP_STATE, 0x2D00:13. -/
abbrev ptpState : Nat := 0x2d0013
/-- SYNC_SENT, 0x2D00:14. -/
abbrev syncSent : Nat := 0x2d0014
/-- DELAY_RESP_SENT, 0x2D00:15. -/
abbrev delayRespSent : Nat := 0x2d0015
/-- DELAY_REQ_DROPPED, 0x2D00:16. -/
abbrev delayReqDropped : Nat := 0x2d0016
/-- FOREIGN_ANNOUNCE, 0x2D00:17. -/
abbrev foreignAnnounce : Nat := 0x2d0017
/-- TWIN_TIME_OFFSET, 0x2D00:18. -/
abbrev twinTimeOffset : Nat := 0x2d0018
/-- LAST_SYNC_TX, 0x2D00:19. -/
abbrev lastSyncTx : Nat := 0x2d0019
/-- SAFE_STOP_TIME, 0x2D00:1A. -/
abbrev safeStopTime : Nat := 0x2d001a
/-- PTP_STATUS, 0x2D00:1B. -/
abbrev ptpStatus : Nat := 0x2d001b
/-- STROBE_TIME, 0x2D00:20+g. -/
abbrev strobeTime (j : Nat) : Nat := 0x2d0020 + j
/-- CAL_RESULT, 0x2E00:01. -/
abbrev calResult : Nat := 0x2e0001
/-- CAL_FAIL_DETAIL, 0x2E00:02. -/
abbrev calFailDetail : Nat := 0x2e0002
/-- KINDLE_LAST_VALID, 0x2E00:03. -/
abbrev kindleLastValid : Nat := 0x2e0003
/-- TEMP_KINDLE, 0x2E00:04. -/
abbrev tempKindle : Nat := 0x2e0004
/-- TEMP_TOL, 0x2E00:10. -/
abbrev tempTol : Nat := 0x2e0010
/-- FSI_TOL, 0x2E00:11. -/
abbrev fsiTol : Nat := 0x2e0011
/-- TERM_TOL, 0x2E00:12. -/
abbrev termTol : Nat := 0x2e0012
/-- CTLE_TOL, 0x2E00:13. -/
abbrev ctleTol : Nat := 0x2e0013
/-- DRAM_TOL, 0x2E00:14. -/
abbrev dramTol : Nat := 0x2e0014
/-- CMP_TOL, 0x2E00:15. -/
abbrev cmpTol : Nat := 0x2e0015
/-- YLOG_NEXT, 0x1300:01. -/
abbrev ylogNext : Nat := 0x130001
/-- YLOG_STATE, 0x1300:02. -/
abbrev ylogState : Nat := 0x130002
/-- FREEZE_MASK, 0x1300:03. -/
abbrev freezeMask : Nat := 0x130003
/-- POST_TRIGGER, 0x1300:04. -/
abbrev postTrigger : Nat := 0x130004
/-- FREEZE_ENTRY, 0x1300:05. -/
abbrev freezeEntry : Nat := 0x130005
/-- MISSED, 0x1300:06. -/
abbrev missed : Nat := 0x130006
/-- FREEZE_NOW, 0x1300:07. -/
abbrev freezeNow : Nat := 0x130007
/-- UNFREEZE, 0x1300:08. -/
abbrev unfreeze : Nat := 0x130008
/-- YLOG_IMAGE, 0x1300:09. -/
abbrev ylogImage : Nat := 0x130009

end Sys2Proof.Machine.Obj
end

