-- ==== Sys2Proof/Machine/Table.lean ====
section
/-! DEFINITION. A sparse table: pairs of key and value in one canonical form (keys strictly rising, no value equal
to what an unlisted key reads as). It holds the object dictionary, the per-nozzle tables, the DRAM contents and the
instances of the units. -/

namespace Sys2Proof.Machine

/-- A sparse table from numbers to values; what an unlisted key reads as is given at each read and write. -/
abbrev Table (α : Type) := List (Nat × α)

/-- The listed value of a key. -/
def Table.find {α : Type} : Table α → Nat → Option α
  | [], _ => none
  | (k, v) :: t, x => if x = k then some v else Table.find t x

/-- The value of a key; an unlisted key reads as `d`. -/
def Table.get {α : Type} (d : α) (t : Table α) (x : Nat) : α := (Table.find t x).getD d

/-- List a key with a value, in its place. -/
def Table.insert {α : Type} : Table α → Nat → α → Table α
  | [], x, v => [(x, v)]
  | (k, w) :: t, x, v =>
    if x = k then (x, v) :: t
    else if x < k then (x, v) :: (k, w) :: t
    else (k, w) :: Table.insert t x v

/-- Unlist a key. -/
def Table.erase {α : Type} : Table α → Nat → Table α
  | [], _ => []
  | (k, w) :: t, x => if x = k then Table.erase t x else (k, w) :: Table.erase t x

/-- Give a key a value; the value an unlisted key reads as removes the entry. -/
def Table.put {α : Type} [DecidableEq α] (d : α) (t : Table α) (x : Nat) (v : α) : Table α :=
  if v = d then Table.erase t x else Table.insert t x v

/-- Every listed key lies above `lo`, keys rise strictly, and no value is the unlisted one. -/
def Table.wfAbove {α : Type} [DecidableEq α] (d : α) : Option Nat → Table α → Bool
  | _, [] => true
  | none, (k, v) :: t => decide (v ≠ d) && Table.wfAbove d (some k) t
  | some lo, (k, v) :: t => decide (lo < k) && decide (v ≠ d) && Table.wfAbove d (some k) t

/-- Every listed key lies above `lo`, and keys rise strictly. -/
def Table.rises {α : Type} : Option Nat → Table α → Bool
  | _, [] => true
  | none, (k, _) :: t => Table.rises (some k) t
  | some lo, (k, _) :: t => decide (lo < k) && Table.rises (some k) t

/-- The canonical form of a table whose unlisted keys read as a value of each key's own. -/
def Table.wfBy {α : Type} [DecidableEq α] (d : Nat → α) (t : Table α) : Bool :=
  Table.rises none t && t.all (fun x => decide (x.2 ≠ d x.1))

/-- The canonical form. -/
def Table.wf {α : Type} [DecidableEq α] (d : α) (t : Table α) : Bool := Table.wfAbove d none t

end Sys2Proof.Machine
end

