-- ==== Sys2Proof/Machine/State.lean ====
section
/-! DEFINITION. The state of the PB-1120 as plain data: the object dictionary, what the spec gives the machine beside
it, the queue of waiting commands, and what has been sent. -/

namespace Sys2Proof.Machine

/-- The six operating modes (02 R40). -/
inductive Mode where
  | dark | kindle | pilot | trim | lit | snuff
  deriving DecidableEq, Repr

/-- TWIN_ROLE and STRAPPED_ROLE; `invalid` is a strap that did not read one level (04 R94). -/
inductive Role where
  | solo | primary | mate | invalid
  deriving DecidableEq, Repr

/-- How far the release order has come (03, release table; R77 recovery). -/
inductive BootStage where
  | inReset | released | plls | rom | retryWait | recovery | firmware | configured
  deriving DecidableEq, Repr

/-- The level of an output pad: at its fuse state until configured, then driven (02 R48, 04 R86). -/
inductive Level where
  | fuse | low | high | hiz
  deriving DecidableEq, Repr

/-- Beacon: seconds (48 bits), nanoseconds, 24-bit fraction of a nanosecond (21 R443). -/
structure Beacon where
  sec : Nat := 0
  ns : Nat := 0
  frac : Nat := 0
  deriving DecidableEq, Repr

/-- The REF clock: present or lost, the cycles passed (the model's own, log entry 2), and Beacon. -/
structure Clock where
  refOn : Bool := true
  cycles : Nat := 0
  beacon : Beacon := {}
  deriving DecidableEq, Repr

/-- The reset controller and the boot (03 R60 to R78). -/
structure ResetSt where
  asserted : Bool := false
  /-- Cause bit numbers of the sources still active (R63). -/
  active : List Nat := []
  stage : BootStage := .released
  retried : Bool := false
  /-- The device holds in DARK as if BOOT_HOLD were 1 (R78, R94, R95). -/
  held : Bool := false
  testEn : Bool := false
  /-- The firmware has reported its SNUFF sequence complete (R60 SNUFF_ESC). -/
  snuffDone : Bool := true
  /-- An accepted RESET_REQUEST whose reset is due (R60 IGREL). -/
  igrelDue : Bool := false
  /-- Blocks whose RELEASE_PENDED has been logged for the present pend (R73). -/
  pendLogged : List Nat := []
  /-- An accepted mode request that waits for a request not yet answered (02 R51). -/
  modeDue : Option Nat := none
  deriving DecidableEq, Repr

/-- A fuse programming write in progress (04 R92). -/
structure FuseJob where
  h : Hdr
  pad : Nat
  code : Nat
  deriving DecidableEq, Repr

/-- The fuse map (04 R86 to R92): blown bits of each pad, the codes latched at the latest sensing, the lock. -/
structure Fuses where
  blown : Table Nat := []
  latched : Table Nat := []
  locked : Bool := false
  vppOk : Bool := false
  verifyFail : Bool := false
  job : Option FuseJob := none
  deriving DecidableEq, Repr

/-- Named pins. Outputs hold a level; the two inputs are the filtered levels. -/
structure Pins where
  fireEn : Level := .fuse
  headPwr : Level := .fuse
  faultN : Level := .fuse
  speedLimit : Level := .fuse
  aliveOut : Level := .fuse
  /-- Levels of STB0 to STB7: groups whose output is high (10 R236). -/
  strobesHigh : List Nat := []
  /-- Configured output levels are driven (03 step 8). -/
  driven : Bool := false
  safeStopLow : Bool := false
  aliveIn : Bool := false
  /-- HEAD_PWR_EN has been high for HEAD_SETTLE (02 R47 bit 9). -/
  settled : Bool := false
  deriving DecidableEq, Repr

/-- What the JTAG TAP has selected (04 JTAG, R96). -/
inductive JtagSel where
  | idcode | boundary | bypass
  deriving DecidableEq, Repr

/-- The JTAG TAP. -/
structure Jtag where
  ir : Nat := 1
  sel : JtagSel := .idcode
  /-- EXTEST or CLAMP has control of the fused pads. -/
  control : Bool := false
  /-- HIGHZ holds the chain's outputs at high impedance. -/
  float : Bool := false
  captured : List Bool := []
  deriving DecidableEq, Repr

/-- A reply of the device to a request (05). -/
inductive Reply where
  | ok (payload : List Byte)
  | abort (code hint idx sub : Nat)
  deriving DecidableEq, Repr

/-- A kept reply (05 R108): the tag, the message type and payload it answered, the reply. -/
structure Kept where
  tag : Nat
  ty : Nat
  payload : List Byte
  reply : Reply
  deriving DecidableEq, Repr

/-- A telemetry subscription (05 R119). -/
structure Subscription where
  period : Nat
  keys : List Nat
  missed : Nat
  deriving DecidableEq, Repr

/-- A session or a reservation (05 R100 to R103, R108, R119). -/
structure Session where
  id : Nat
  src : Src
  level : Nat
  reserved : Bool
  nc : List Byte
  nd : List Byte
  key : List Byte
  /-- Highest sequence number seen, and those seen of the 31 below it (R102). -/
  rxHigh : Nat
  rxSeen : List Nat
  txNext : Nat
  kept : List Kept
  sub : Option Subscription
  deriving DecidableEq, Repr

/-- An open block transfer (05 R111 to R114). -/
structure Transfer where
  /-- Source of its latest packet: where an ABORT that no request asked for goes. -/
  src : Src
  sess : Nat
  tag : Nat
  key : Nat
  reading : Bool
  total : Nat
  crc : Nat
  /-- Received content of a write, or the whole content of a read. -/
  data : List Byte
  /-- Next segment expected (write) or next to send (read). -/
  next : Nat
  /-- First segment of the present window (the latest BLOCK_ACK). -/
  base : Nat
  /-- ABORT 0x0504_0003 has been sent in this window. -/
  oow : Bool
  deriving DecidableEq, Repr

/-- A request whose reply is not yet sent (04 R92, 08 R196). -/
structure Deferred where
  h : Hdr
  ty : Nat
  payload : List Byte
  deriving DecidableEq, Repr

/-- Igrel (05). -/
structure Igrel where
  sessions : List Session := []
  transfers : List Transfer := []
  deferred : List Deferred := []
  /-- Failed proofs: address and REF cycle (R101). -/
  fails : List (Nat × Nat) := []
  lockouts : List Nat := []
  overloadAt : Option Nat := none
  /-- The IPv4 address in force: IP_ADDR as the configuration image held it at the boot. -/
  ip : Nat := 0xC0A8E732
  deriving DecidableEq, Repr

/-- The QSPI NOR (03 R61, R75, 05 R494). -/
structure Flash where
  slot0 : List Byte := []
  slot1 : List Byte := []
  /-- The stored settings; none: no image that passes its CRC-32C. -/
  regs : Option (Table Nat) := none
  doms : Table (List Byte) := []
  kindleCount : Nat := 0
  kindleLast : Nat := 0
  kindleFails : Nat := 0
  deriving DecidableEq, Repr

/-- A stored block (06 R132): its lines counted from the flush. -/
structure Blk where
  seq : Nat
  bytes : List Byte
  lines : Nat
  /-- Lines of the stream before this block since the flush. -/
  before : Nat
  /-- Marked bad: its unconfirmed lines are skipped with cause DRAM (16 R365, 17 R374). -/
  bad : Bool
  /-- An uncorrectable error stands in it: it cannot be decoded (17 R374). -/
  unread : Bool
  deriving DecidableEq, Repr

/-- An open committed page (06 R135). -/
structure Page where
  id : Nat
  first : Nat
  count : Nat
  /-- Stream and the sequence of its last block in the page. -/
  last : List (Nat × Nat)
  fired : Nat
  skipped : Nat
  deriving DecidableEq, Repr

/-- The raster link and the stream store (06). -/
structure Raster where
  reversed : Bool := false
  rings : Table (List Blk) := []
  /-- Lines of the blocks stored since the flush, by stream. -/
  linesIn : Table Nat := []
  pages : List Page := []
  /-- First line of the first page committed since the flush. -/
  flushFirst : Option Nat := none
  /-- First line after the latest accepted page. -/
  nextFirst : Nat := 0
  /-- Credits freed and not yet granted, by stream. -/
  freed : Table Nat := []
  /-- Streams to which a RESEND has gone in this credit period, and those due one at its end (R134). -/
  resent : List Nat := []
  resendDue : List Nat := []
  /-- First line for which PAGE_LATE has been raised (R139). -/
  lateFor : Option Nat := none
  deriving DecidableEq, Repr

/-- The state of a context that a checkpoint holds (07 R162). -/
structure CtxState where
  next : Nat := 0
  blockSeq : Nat := 0
  offset : Nat := 12
  done : Nat := 0
  reps : Nat := 0
  poisoned : Bool := false
  /-- The error code that poisoned it (R156), 0 for an unreadable block (17 R374); none in a state that an image gave. -/
  fault : Option Nat := none
  /-- The four lines above, newest first; a missing line reads as 512 zeros (R153). -/
  hist : List (List Byte) := []
  deriving DecidableEq, Repr

/-- A rewind that has been ordered (07 R165): by a CANCEL, or by a swap at line S. -/
structure Rewind where
  cancel : Bool
  line : Nat
  deriving DecidableEq, Repr

/-- A stream context (07 R163). -/
structure Ctx where
  work : CtxState := {}
  ckpt : CtxState := {}
  /-- The states after the lines from the checkpoint's to the working state's, oldest first: a checkpoint that takes a line takes
  the token position that followed it (R163). -/
  trail : List CtxState := []
  rewind : Option Rewind := none
  /-- Blocks for which WAX_ERROR has been raised (R157). -/
  raised : List Nat := []
  deriving DecidableEq, Repr

/-- A line an engine works, or that waits for one (01 R28, R29). -/
structure Job where
  stream : Nat
  line : Nat
  /-- Distance of the arming count from the bar datum in FIRE_DIR, 32.16. -/
  due : Int
  /-- The output is to be discarded: a rewind met it (R39). -/
  drop : Bool
  deriving DecidableEq, Repr

/-- Contexts and engines. -/
structure Decomp where
  ctxs : Table Ctx := []
  engines : Table Job := []
  waiting : List Job := []
  deriving DecidableEq, Repr

/-- Drop counts of a corrected strip line (08 R183, R185). -/
structure Counts where
  small : Nat := 0
  medium : Nat := 0
  large : Nat := 0
  comp : Nat := 0
  lost : Nat := 0
  deriving DecidableEq, Repr

/-- The state of a line slot (08 R191). -/
inductive SlotSt where
  | decoded | sent | confirmed | fired | skipped
  deriving DecidableEq, Repr

/-- A slot of a strip line buffer: the line as decoded and its tag (08 R191). -/
structure Slot where
  seq : Nat
  line : List Byte
  /-- Health generation the line is prepared under. -/
  gen : Nat
  /-- Prepared under the pending copy of the health map (R187). -/
  pend : Bool
  counts : Option Counts
  outcome : Option WickOut
  st : SlotSt
  deriving DecidableEq, Repr

/-- The health map (08 R178, R186 to R189) and the Lantern's run lengths (13 R325). -/
structure Health where
  active : Table Nat := []
  pending : Table Nat := []
  swap : Option Nat := none
  overwriting : Bool := false
  /-- Publishes held until the overwrite ends (R188): records (g, writer × 16 + entry), and the writer's deferred
  reply. -/
  held : List (List (Nat × Nat) × Option Deferred) := []
  /-- Latest candidate (0 GOOD, 1 WEAK, 2 OUT) × 16 + run length, by nozzle. -/
  runs : Table Nat := []
  /-- Swap lines passed, newest first, with the map that governed the lines before each (13 R324). -/
  past : List (Nat × Table Nat) := []
  deriving DecidableEq, Repr

/-- A confirmed line that has not fired (10 R233). -/
structure Conf where
  seq : Nat
  page : Nat
  /-- Placed edge without the mate's lag, Beacon time in ps; none while a count-locked line waits for its count (R237). -/
  edge : Option Nat
  /-- The lag that the edge keeps, ps (12 R294, R298). -/
  lag : Nat
  locked : Bool
  late : Bool
  /-- Placed at the set-up of 400 ns (R234). -/
  lateArm : Bool
  /-- Beacon time of the confirmation, ps. -/
  at_ : Nat
  demoted : Bool
  gen : Nat
  deriving DecidableEq, Repr

/-- What a standstill changed, kept for the REF cycle in which it was entered: an edge in it prevents the standstill (R207, R223). -/
structure Still where
  cycle : Nat
  stamps : List Nat
  lastDir : Option Bool
  state : Nat
  monTravel : Nat
  monStart : Nat
  /-- The confirmed lines of the groups. -/
  confs : List (Nat × Conf)
  deriving DecidableEq, Repr

/-- One encoder channel (09). -/
structure EncCh where
  /-- The filtered levels of A, B and Z (R197). -/
  a : Bool := false
  b : Bool := false
  z : Bool := false
  /-- Direction of the latest edge: forward or not. -/
  lastDir : Option Bool := none
  /-- Stamps in ns of the edges that ran in one direction, newest first (R205). -/
  stamps : List Nat := []
  /-- Stamp and COUNT of the counted edges, newest first (R204; 13 R322). -/
  trace : List (Nat × Nat) := []
  /-- REF cycle of the latest filtered edge, and of the latest counted one. -/
  lastCycle : Option Nat := none
  edgeAt : Option Nat := none
  rateAt : Option Nat := none
  /-- REF cycle of the latest illegal transition or rate error (R224). -/
  faultAt : Option Nat := none
  /-- Count of the index reference, its travel direction, and whether no reversal has come since (R216). -/
  idxRef : Option (Nat × Bool) := none
  idxTaken : Option Nat := none
  /-- REF cycle of the latest rising edge of Z (R223). -/
  zAt : Option Nat := none
  still : Option Still := none
  deriving DecidableEq, Repr

/-- Both channels and the monitor comparison (R221). -/
structure Encoder where
  ch0 : EncCh := {}
  ch1 : EncCh := {}
  monTravel : Nat := 0
  monStart : Nat := 0
  deriving DecidableEq, Repr

/-- Why a line's firing is not yet settled: a lane went down (11 R279), a bar-wide SNUFF suppressed its edge (12 R297), or a
promotion found it open (12 R299). -/
inductive Doubt where
  | lane | barSnuff | promotion
  deriving DecidableEq, Repr

/-- What one module has to say about a line whose firing is not yet settled. -/
structure Unsettled where
  why : Doubt
  g : Nat
  lane : Nat
  seq : Nat
  page : Nat
  /-- The cause it enters the ledger with if it did not fire. -/
  cause : Nat
  /-- Whether the module has been found to have fired it; none: its STATUS has not come. -/
  found : Option Bool
  /-- The strobe edge has passed, or will not come. -/
  edged : Bool
  conf : Option Conf
  deriving DecidableEq, Repr

/-- One strobe group of the Taper (10). -/
structure Group where
  /-- First line to print (R226) and next line to request. -/
  first : Nat := 0
  nextReq : Nat := 0
  conf : Option Conf := none
  /-- The group's previous edge, ps. -/
  lastEdge : Option Nat := none
  skips : Nat := 0
  burst : Bool := false
  leadLow : Option Nat := none
  wickDemote : Option Nat := none
  wickSkip : Option Nat := none
  /-- The Taper drives the output high; the Snuffer forces it low (R247). -/
  pulse : Bool := false
  forced : Bool := false
  /-- The Snuffer has cut the output, and the check 100 ns after the cut is to come (R248). -/
  cut : Bool := false
  deriving DecidableEq, Repr

/-- A Wick outcome held for a group line, with the energy charged in pJ (18 R389, R391). -/
structure GLine where
  g : Nat
  seq : Nat
  out : WickOut
  charge : Nat
  deriving DecidableEq, Repr

/-- An entry of the skip ledger (10 R245). -/
structure Entry where
  seq : Nat
  page : Nat
  group : Nat
  cause : Nat
  strip : Nat
  confirmed : Bool
  time : Nat
  deriving DecidableEq, Repr

/-- A maintenance pattern (10 R250). -/
structure Maint where
  stream : Nat
  left : Nat
  running : Bool
  deriving DecidableEq, Repr

/-- The Taper (10). -/
structure Taper where
  groups : Table Group := []
  priming : Bool := false
  stopping : Bool := false
  /-- LINES_PRINTED records of pages whose last line's pulse is still up, by group (03 R81). -/
  printed : List (Nat × List Byte) := []
  /-- LIT has been left for SNUFF and the values of R44 are not yet recorded, because lines are not yet settled. -/
  stopDue : Bool := false
  /-- Index hold under SNUFF_PAGE_END: no line of a page after this one (09 R218). -/
  holdPage : Option Nat := none
  /-- Newest line confirmed since LIT was entered (01 R37). -/
  newest : Option Nat := none
  /-- The newest 4,096 entries, newest first. -/
  ledger : List Entry := []
  decided : List GLine := []
  unsettled : List Unsettled := []
  maint : Option Maint := none
  /-- REF cycles of Snuffer cuts (R248). -/
  cuts : List Nat := []
  deriving DecidableEq, Repr

/-- A CTRL frame not yet acknowledged (11 R265). -/
structure Ctrl where
  seq : Nat
  op : Nat
  args : List Byte
  resends : Nat
  deriving DecidableEq, Repr

/-- One head lane (11). LANE_STATE and the counters are objects. -/
structure HeadLane where
  /-- TRAIN_REPLY has named the right slot in this bring-up (R277). -/
  slotOk : Bool := false
  /-- LANE_ID has been raised in this bring-up. -/
  idRaised : Bool := false
  /-- Sequence number of the next CTRL frame. -/
  ctrlNext : Nat := 1
  /-- Frame counter of TIME on this lane (R258). -/
  timeNext : Nat := 0
  unacked : List Ctrl := []
  ready : Bool := false
  /-- TRIM_ACK is at the present generation. -/
  trimOk : Bool := false
  alarm : Bool := false
  /-- RECOVER_TIME is running (R280). -/
  recovering : Bool := false
  /-- MISSING, DUPLICATES, CRC_ERRORS, MATE_FIRES of the latest STATUS. -/
  seen : List Nat := [0, 0, 0, 0]
  /-- REF cycle of the latest STATUS, and LAST_STATUS as it stood before that cycle (19 R426). -/
  heardAt : Option Nat := none
  before : List Byte := []
  deriving DecidableEq, Repr

/-- A LINE_STATE copy waiting to be sent (12 R292). -/
structure LineSt where
  seq : Nat
  page : Nat
  group : Nat
  outcome : Nat
  cause : Nat
  strip : Nat
  time : Nat
  wick : Nat
  flags : Nat
  gen : Nat
  total : Nat
  deriving DecidableEq, Repr

/-- A join in progress (12, Rejoining as mate). -/
structure Join where
  snapshot : Nat
  line : Nat
  /-- This chip is the joining one. -/
  joining : Bool
  /-- JOIN_READY has come, or gone. -/
  ready : Bool := false
  /-- IMAGE and MAP have gone. -/
  sent : Bool := false
  /-- Moves of the join line in this join (R303). -/
  retries : Nat := 0
  /-- Images, by stream: on the primary the checkpoints for the line before the snapshot; on the joining chip those not yet
  written. -/
  images : Table (List Byte) := []
  deriving DecidableEq, Repr

/-- A group line that the mate has passed, by its own edge or unconfirmed, and whose LINE_STATE has not come (12 R296, R299). -/
structure Own where
  g : Nat
  seq : Nat
  page : Nat
  /-- The mate's own edge in ps; none where it did not confirm the line. -/
  edge : Option Nat
  /-- The cause for which the mate did not fire the line itself. -/
  cause : Option Nat
  conf : Option Conf
  deriving DecidableEq, Repr

/-- The twin link and the partner (12). -/
structure Twin where
  lane0 : Bool := false
  lane1 : Bool := false
  hbAt : Option Nat := none
  dropAt : Option Nat := none
  /-- Payload of the partner's latest HEARTBEAT. -/
  partner : List Byte := []
  healthyAtHb : Bool := false
  digestOk : Bool := false
  roleDecided : Bool := false
  decisions : List GLine := []
  sendQueue : List LineSt := []
  /-- Group lines that the mate has passed and whose LINE_STATE has not come. -/
  own : List Own := []
  /-- Group lines entered from a LINE_STATE before this mate has passed them. -/
  early : List (Nat × Nat) := []
  swap : Option (Nat × Nat) := none
  heldPublishes : List (List (Nat × Nat) × Option Deferred) := []
  join : Option Join := none
  /-- The mode of a MODE message and its effective line, while that lies ahead (12 R293). -/
  modeAt : Option (Nat × Nat) := none
  /-- Publishes handed to the new primary at a role swap, with the replies that wait for them (R301; 08 R196). -/
  awaited : List (List (Nat × Nat) × Option Deferred) := []
  /-- PAGE_DONE records that this mate has not reported: page ID and body, newest first (R306). -/
  pagesDone : List (Nat × List Byte) := []
  /-- The physical order of the lanes is reversed (R290). -/
  reversed : Bool := false
  /-- The digests, this chip's and its partner's, under which a JOIN_REQ has gone. -/
  asked : Option (Nat × Nat) := none
  /-- Offsets of the primary's edges from this chip's own since LIT was entered, ns, newest first (21 R459). -/
  offsets : List Int := []
  deriving DecidableEq, Repr

/-- The committed settings of a camera context (13 R314, 14 R333). -/
structure CamSet where
  exposure : Nat := 4000
  period : Nat := 10000
  lines : Nat := 64
  maskLo : Nat := 2 ^ 64 - 1
  maskHi : Nat := 2 ^ 64 - 1
  level : Nat := 32768
  deriving DecidableEq, Repr

/-- An accepted commit (13 R314, R315): the set, its generation, and the REF cycle in which it was accepted. -/
structure Commit where
  set : CamSet := {}
  gen : Nat := 0
  at_ : Option Nat := none
  deriving DecidableEq, Repr

/-- A camera frame in progress, with its statistics (13 R311, R321). -/
structure Frame where
  ctx : Nat
  gen : Nat
  set : CamSet
  sof : Nat
  lit : Bool
  derate : Nat
  /-- Beacon times in ns of the rising edges of its triggers, oldest first. -/
  trigs : List Nat := []
  lines : Nat := 0
  flags : Nat := 0
  /-- A limit of R310 has been broken in it. -/
  breached : Bool := false
  minV : Nat := 65535
  maxV : Nat := 0
  sumV : Nat := 0
  numV : Nat := 0
  sat : Nat := 0
  padded : Nat := 0
  rungs : Nat := 0
  outs : Nat := 0
  weaks : Nat := 0
  finds : Nat := 0
  c0 : Nat := 0
  c1 : Nat := 0
  deriving DecidableEq, Repr

/-- A ladder rung being seen by a context (13 R323, R324). -/
structure Rung where
  row : Nat
  phase : Nat
  pitch : Nat
  first : Nat
  last : Nat
  lines : Nat
  /-- Sum of the darkness, and number of lines with a value, at each position. -/
  sums : Table Nat
  nums : Table Nat
  /-- A reference line of it was late: it gives no verdict (R323). -/
  late : Bool := false
  /-- Generation of the frame that its latest camera line came from (R316). -/
  gen : Nat := 0
  deriving DecidableEq, Repr

/-- The camera UART of a port (13 R319). -/
inductive Uart where
  | idle
  | queued (bytes : List Byte)
  | waiting
  deriving DecidableEq, Repr

/-- A raw tap (13 R321). -/
structure Tap where
  tap : Nat
  ctx : Nat
  left : Nat
  active : Bool
  deriving DecidableEq, Repr

/-- Lantern (13). -/
structure Lantern where
  frames : Table Frame := []
  nextCtx : Table Nat := []
  uarts : Table Uart := []
  /-- Levels of SEL0 and SEL1 of each port, as a number. -/
  sel : Table Nat := []
  /-- The latest accepted commit of each context, and the latest accepted in an earlier REF cycle than that one. -/
  committed : Table Commit := []
  earlier : Table Commit := []
  rungs : Table Rung := []
  /-- By context, the newest reference line that was late (R323). -/
  lateTo : Table (Option Nat) := []
  /-- Ports that ignore data until FVAL falls (R310). -/
  deaf : List Nat := []
  tap : Option Tap := none
  nextTap : Option Tap := none
  deriving DecidableEq, Repr

/-- An exposure window (14 R331): when TRIG rose in ps, the slot and BLANK in ps, and the on-times of the 128 segments. -/
structure Window where
  ctx : Nat
  start : Nat
  slot : Nat
  blank : Nat
  ons : List Nat
  deriving DecidableEq, Repr

/-- The LED driver (14). -/
structure Led where
  /-- The latest exposure window that lights the bar; none after the outputs were driven low. -/
  window : Option Window := none
  /-- At or above LED_TEMP_MAX and not yet 5 °C below it (R335). -/
  hot : Bool := false
  /-- A short was found in KINDLE: the block stays held (R339). -/
  faulty : Bool := false
  deriving DecidableEq, Repr

/-- A running privileged request, or the summary of a run of a normal channel (15 R354, R355). -/
structure UReq where
  tag : Nat := 0
  src : Nat := 0
  len : Nat := 0
  base : Nat := 0
  size : Nat := 0
  taken : Nat := 0
  consumed : Nat := 0
  produced : Nat := 0
  firstQ : Option Nat := none
  lastQ : Nat := 0
  raw345 : Nat := 0
  raw344 : Nat := 0
  txFirst : Nat := 0
  txLast : Nat := 0
  /-- Status once it has ended and waits for its packets to be acknowledged. -/
  ended : Option Nat := none
  deriving DecidableEq, Repr

/-- An UPLOAD packet in a channel's output buffer (15 R348, R350). -/
structure Pkt where
  q : Nat
  payload : List Byte
  /-- Its offset in the ring of output buffers (normal channels). -/
  place : Nat
  sent : Bool
  resend : Bool
  /-- The first packet of its request, tap run or ledger chunk. -/
  opens : Bool
  /-- The summary of the tap run or ledger chunk that it ends. -/
  closes : Option UReq
  deriving DecidableEq, Repr

/-- One upload channel (15). -/
structure Chan where
  input : List Byte := []
  /-- FLUSH_TIME has passed for the chunk in hand (R342). -/
  flush : Bool := false
  /-- Where in the input each ended tap run ends. -/
  ends : List Nat := []
  hist : List Byte := []
  last : Byte := 0
  sync : Bool := true
  first : Bool := true
  credits : Nat := 0
  pkts : List Pkt := []
  /-- Next byte of the ring of output buffers (normal channels). -/
  place : Nat := 0
  /-- LEDGER: records in hand that DROPS has counted. TAP: the ring is full and frames are discarded (R352). -/
  held : Nat := 0
  dropping : Bool := false
  /-- The present tap run (normal channels), and the TX times of its first packet and of the latest. -/
  run : UReq := {}
  txFirst : Nat := 0
  txLast : Nat := 0
  req : Option UReq := none
  deriving DecidableEq, Repr

/-- A memory scan (16 R361). -/
structure Scan where
  unit : Nat
  flags : Nat
  len : Nat
  start : Nat
  expected : Nat
  deriving DecidableEq, Repr

/-- The check-value units' engine and the scrubber (16). -/
structure Check where
  queue : List Scan := []
  /-- Stream and sequence of the block that the scrubber checked last in this pass. -/
  scrub : Option (Nat × Nat) := none
  /-- Stream and sequence of the block that the scrubber has in hand. -/
  hand : Option (Nat × Nat) := none
  /-- The scrubber has ended its block in SNUFF and takes no other there (R364, R366). -/
  rests : Bool := false
  /-- The scan at the head has met an uncorrectable error (R362). -/
  ecc : Bool := false
  deriving DecidableEq, Repr

/-- A source of DRAM requests (01, DRAM ports; R31). -/
inductive MemUser where
  | context (k : Nat)
  | intake
  | scan
  | scrub
  | upload (ch : Nat)
  /-- The controller's own write of a corrected line (17 R373). -/
  | correction
  deriving DecidableEq, Repr

/-- The service class of a request (01, DRAM ports). -/
inductive MemClass where
  | rt | inspect | host | bulk
  deriving DecidableEq, Repr

/-- A request that waits at the controller: its bursts still to issue, and the REF cycle in which it came (17 R378, R379). -/
structure MemReq where
  who : MemUser
  write : Bool
  bursts : Nat
  at_ : Nat
  deriving DecidableEq, Repr

/-- The DRAM controller (17). -/
structure Dram where
  mem : List Host.Cell := []
  /-- The check bytes, by their place in the ECC lines (R371). -/
  ecc : List Host.Cell := []
  /-- RT requests and the requests promoted behind them, in their order (R378, R379). -/
  urgent : List MemReq := []
  /-- The other requests, oldest first. -/
  waiting : List MemReq := []
  filled : Bool := false
  /-- The memory has been trained since the reset: the controller drives its pads (04 R84). -/
  trained : Bool := false
  panic : Bool := false
  /-- The REF cycle in which panic last cleared (01 R39). -/
  clearAt : Option Nat := none
  /-- A change of timing set: the target, and whether the channels are in self-refresh. -/
  change : Option (Nat × Bool) := none
  /-- A set selected while a change was in progress. -/
  want : Option Nat := none
  /-- An accepted LIT request that waits for the change to set 0 (R385). -/
  litDue : Bool := false
  setNow : Nat := 0
  ueAt : List Nat := []
  fast : Bool := false
  refreshes : Nat := 0
  deriving DecidableEq, Repr

/-- A deferred request (18 R394). -/
structure WickWait where
  id : Nat
  req : WickReq
  deriving DecidableEq, Repr

/-- The Wick's pools in pJ and its deferred requests (18). -/
structure Wick where
  core : Int := 4000000000000
  head : Int := 12000000000000
  mach : Int := 60000000000000
  queue : List WickWait := []
  nextId : Nat := 0
  /-- Requesters with leave that have not yet started. -/
  leave : List Requester := []
  /-- Requests granted in the present REF cycle: a SNUFF entry in it withdraws them (R401). -/
  fresh : List WickReq := []
  deriving DecidableEq, Repr

/-- What a loop slot keeps from sample to sample (19 R411, R419); BF24 words as R109 sends them. -/
structure LoopDyn where
  u1 : Nat := 0
  u2 : Nat := 0
  v1 : Nat := 0
  v2 : Nat := 0
  oPrev : Nat := 0
  yPrev : Option Nat := none
  ym : Option Nat := none
  armed : Bool := false
  /-- |e| has stayed above FOLLOW_MAX since the last sample that did not (R419). -/
  overFollow : Bool := false
  resid : Nat := 0
  invalid : Nat := 0
  busy : Bool := false
  /-- REF cycles in which bank swaps not yet applied were accepted (R418). -/
  swaps : List Nat := []
  setpoint : Nat := 0
  /-- REF cycle of the latest sample, and whether it came ahead of the slot's own command, in the order of R410. -/
  sampledAt : Option Nat := none
  ahead : Bool := false
  deriving DecidableEq, Repr

/-- A transaction due on an SPI port (19 R407 to R409): the slot, and the code of an actuator write. -/
structure SpiJob where
  slot : Nat
  code : Option Nat
  /-- REF cycle in which it became due (R409). -/
  at_ : Nat
  deriving DecidableEq, Repr

/-- What an SPI transaction takes from the slot it serves (19 R407, R408): the SPI mode, SCK_DIV, the SCK cycles, CNV_HIGH and CONV_WAIT in
ns where CNV is pulsed, and the word on MOSI, most significant bit first. -/
structure SpiFrame where
  mode : Nat
  sckDiv : Nat
  cycles : Nat
  cnv : Option (Nat × Nat)
  mosi : Nat
  deriving DecidableEq, Repr

/-- One phase of a chopper (20 R431, R433). -/
structure Chop where
  driving : Bool := false
  delta : Nat := 8
  shorts : Nat := 0
  deriving DecidableEq, Repr

/-- What an axis is doing (20 R434, R438). -/
inductive AxisDo where
  | rest | asking | moving | seeking | pushing | waiting | backing
  deriving DecidableEq, Repr

/-- One stepper axis (20). Position in 10⁻¹⁵, velocity in 10⁻¹⁰, acceleration in 10⁻⁵ microsteps and their
derivatives per second, so that a 10 µs tick is exact. -/
structure Axis where
  act : AxisDo := .rest
  pos : Int := 0
  vel : Int := 0
  acc : Int := 0
  goal : Int := 0
  /-- Ticks left of the plan, or of the ramp to HOME_SPEED, and of them the ticks of braking that come first (R436). -/
  left : Nat := 0
  brake : Nat := 0
  /-- A stop has been asked for since the last tick: a TARGET written beside it is discarded (R442). -/
  halted : Bool := false
  lost : Bool := true
  /-- LIFT_B under LIFT_A's plan (R437). -/
  follows : Bool := false
  chA : Chop := {}
  chB : Chop := {}
  /-- Distance homed, and where its present full step began, in 10⁻¹⁵ microsteps. -/
  travel : Nat := 0
  stepAt : Nat := 0
  /-- Sum and number of the drive times of the present full step, or of the learning steps, in ns. -/
  driveSum : Nat := 0
  driveNum : Nat := 0
  learnSteps : Nat := 0
  lowSteps : Nat := 0
  /-- Energy asked of P_MACH for the move, pJ. -/
  charge : Nat := 0
  deriving DecidableEq, Repr

/-- A PTP event-message stamp not yet sent (21 R457). -/
structure Stamp where
  tx : Bool
  msg : Nat
  time : Nat
  deriving DecidableEq, Repr

/-- The PTP grandmaster (21). -/
structure Ptp where
  stamps : List Stamp := []
  syncSeq : Nat := 0
  syncOut : Option Nat := none
  announceSeq : Nat := 0
  reqTimes : List Nat := []
  foreignAt : Option Nat := none
  /-- REF cycle of the latest step of Beacon: a stamp taken in it counts as taken before it (21 R460). -/
  stepAt : Option Nat := none
  deriving DecidableEq, Repr

/-- A PTP message (21 R453 to R455): its type, domain and sequence number; the address and UDP port it goes to; twoStepFlag; correctionField;
the logarithm of its interval; and its content. -/
structure PtpMsg where
  msg : Nat
  domain : Nat
  seq : Nat
  dst : Nat
  port : Nat
  twoStep : Bool
  correction : Nat
  interval : Nat
  body : List Byte
  deriving DecidableEq, Repr

/-- KINDLE in progress (22 R461). -/
structure Cal where
  running : Bool := false
  failed : Bool := false
  eccDone : Bool := false
  /-- Lanes, numbered as units (R464), whose equaliser samples have agreed. -/
  equalised : List Nat := []
  deriving DecidableEq, Repr

/-- An entry of the Yilloger (22 R468). -/
structure YEntry where
  code : Nat
  mode : Nat
  flags : Nat
  index : Nat
  time : Nat
  resets : Nat
  detail : List Byte
  deriving DecidableEq, Repr

/-- An event as it is logged, before it has its place among those of its REF cycle (22 R469). -/
structure YEvent where
  code : Nat
  mode : Nat
  time : Nat
  resets : Nat
  detail : List Byte
  deriving DecidableEq, Repr

/-- The Yilloger as it stood before the events of a REF cycle: its entries, and YLOG_NEXT, YLOG_STATE, the entries left to write,
FREEZE_ENTRY and MISSED. -/
structure YBase where
  entries : List YEntry
  next : Nat
  state : Nat
  post : Nat
  freezeEntry : Nat
  missed : Nat
  deriving DecidableEq, Repr

/-- The Yilloger (22): the newest 4,096 entries, newest first; entries left to write after a trigger. -/
structure Ylog where
  entries : List YEntry := []
  post : Nat := 0
  /-- The events logged in the present REF cycle, in rising event code, and the log as it stood before them (R469). -/
  batch : List YEvent := []
  base : Option YBase := none
  deriving DecidableEq, Repr

/-- Die sensors (23 R490): readings in 1/64 °C and whether the 115 °C condition holds. -/
structure Die where
  temps : List Int := [0, 0, 0, 0]
  hot : Bool := false
  fsiLow : Bool := false
  deriving DecidableEq, Repr

/-- What the device sends, drives as a pulse, or raises. Frames and packets are their bytes. -/
inductive Out where
  /-- An Igrel packet (05 R98): where to, type, session, tag, sequence number, payload, and the key its MAC is made with
  (none: the MAC is zero). -/
  | igrel (dst : Src) (ty sess tag seq : Nat) (payload : List Byte) (key : Option (List Byte))
  | arpReply (mac ip : Nat)
  | echoReply (ip : Nat) (data : List Byte)
  /-- A packet on the transmit lanes of the raster link, by logical lane (06 R125, R128). -/
  | raster (lanes : List (List Sym))
  /-- A frame on a head lane, with its delimiters (11 R255, R258). -/
  | head (lane : Nat) (chars : List Sym)
  /-- A lane sends its TRAIN set, without end (11 R255; 06, link bring-up). -/
  | train (link : Link) (lane : Nat) (set : List Sym)
  /-- A frame on the twin lanes that are up (12 R290). -/
  | twin (lanes : List (Nat × List Sym))
  | forward (ty key : Nat) (value : List Byte)
  | strobe (g time : Nat)
  | strobeEnd (g : Nat)
  | camSel (port sel : Nat)
  | camTrig (port width : Nat)
  | led (ctx : Nat) (slotPs blankPs : Nat) (onPs : List Nat)
  | ledsOff
  /-- The short test drives a pin high for 2 µs (14 R338). -/
  | ledPin (pin : Nat)
  | uart (port baud : Nat) (bytes : List Byte)
  | spiSense (port slot : Nat) (f : SpiFrame)
  | spiWrite (port : Nat) (f : SpiFrame)
  | step (axis : Nat) (pos : Int)
  /-- A phase drives, or decays: the gates that switch on do so DEAD_TIME in ns after the others have switched off (20 R429). -/
  | gates (axis : Nat) (ph : Phase) (drive : Bool) (deadNs : Nat)
  /-- The reference code of a phase's comparator (20 R428, R431). -/
  | comparator (axis : Nat) (ph : Phase) (code : Int)
  | gatesLow (axis : Nat)
  | ptp (m : PtpMsg)
  | dramRefresh (channel bank : Nat)
  /-- A burst is issued for a request (17 R378). -/
  | dramBurst (who : MemUser) (write : Bool)
  /-- A 4 KiB sector erase of the QSPI NOR, and bytes programmed into it (05 R122). -/
  | norErase (addr : Nat)
  | norProgram (addr : Nat) (bytes : List Byte)
  | headroom (pool value : Nat)
  deriving DecidableEq, Repr

/-- The whole state. -/
structure State where
  pending : List Instr := []
  regs : Table Nat := []
  doms : Table (List Byte) := []
  mode : Mode := .dark
  role : Role := .solo
  strapped : Role := .solo
  clock : Clock := {}
  rst : ResetSt := {}
  fuses : Fuses := {}
  pins : Pins := {}
  jtag : Jtag := {}
  igrel : Igrel := {}
  flash : Flash := {}
  raster : Raster := {}
  decomp : Decomp := {}
  slots : Table (List Slot) := []
  health : Health := {}
  trimGen : Nat := 0
  enc : Encoder := {}
  taper : Taper := {}
  heads : Table HeadLane := []
  twin : Twin := {}
  lantern : Lantern := {}
  led : Led := {}
  chans : Table Chan := []
  check : Check := {}
  dram : Dram := {}
  wick : Wick := {}
  loops : Table LoopDyn := []
  spi : Table (List SpiJob) := []
  axes : Table Axis := []
  ptp : Ptp := {}
  cal : Cal := {}
  ylog : Ylog := {}
  die : Die := {}
  out : List Out := []
  /-- Flag bits that have been set in the present REF cycle, by object: a clear in the same cycle leaves them (00 R10). -/
  flagged : Table Nat := []
  freeCtr : Nat := 0
  deriving DecidableEq, Repr

/-- A command reaches an address, or an instance, that the spec says does not exist. -/
inductive Fault where
  /-- An access to a LPDDR5 address at or above U (17 R369), raised by DRAM_CE and DRAM_UE; safe: the machine stops. -/
  | noSuchAddress (addr : Nat)
  deriving DecidableEq, Repr

/-- Why a command is given no meaning. -/
inductive Refusal where
  /-- The command has no meaning in the model yet; raised by exec's own arms only; safe. -/
  | notModelled (mnemonic : String)
  deriving DecidableEq, Repr

/-- The machine right after a power-on reset, the reset released and the service core not yet started (03 release
order, step 4): every object at its default, every output at its fuse state, no command waiting. -/
def State.reset : State := {}

end Sys2Proof.Machine
end

