-- ==== Sys2Proof/Machine/Ops.lean ====
section
/-! DEFINITION. The operations the meanings share: registers, counters, free values, time, output, the Yilloger, SNUFF causes
and changes of mode. -/

namespace Sys2Proof.Machine

/-! ### Registers -/

/-- The default ring map (06 R142): rings one after another from address 0, in stream order (log entry 20). -/
def ringMapDefault : List Byte :=
  (List.range 160).flatMap (fun k =>
    let base := if k < 128 then 48 * 2 ^ 20 * k else 128 * (48 * 2 ^ 20) + 16 * 2 ^ 20 * (k - 128)
    le 8 base ++ le 4 (Dict.ringDefaultSize k) ++ zeros 4)

/-- The order of `n` bits reversed. -/
def revBits : Nat → Nat → Nat
  | 0, _ => 0
  | n + 1, v => (v % 2) * 2 ^ n + revBits n (v / 2)

/-- The default blend pattern (08 R177). -/
def blendDefault : List Byte :=
  (List.range 64).flatMap (fun q =>
    le 4 (sumList ((List.range 32).map (fun j => if 2 * j + 1 ≤ revBits 6 q then 2 ^ j else 0))))

/-- Bytes of a DOMAIN object whose default is all zeros; such a content is kept as nothing. -/
def zeroDefaultSize (key : Nat) : Nat :=
  if key = Obj.densityTrim ∨ key = Obj.placementTrim then 262144 else 0

/-- The content a DOMAIN object holds until it is written (05 R104; 06 R142; 08, 13, 19 R425). -/
def domDefault (key : Nat) : List Byte :=
  if key = Obj.keyObserver ∨ key = Obj.keyOperator ∨ key = Obj.keyService then zeros 32
  else if 0x2B00 ≤ key / 256 ∧ key / 256 < 0x2B30 then
    let i := key / 256 - 0x2B00
    let k : Nat := if i < 32 then Bf24.mk 0x400000 (-3) else if i < 40 then Bf24.mk 0x400000 0 else 0
    if key % 256 = 0x40 ∨ key % 256 = 0x48 then (List.range 8).flatMap (fun _ => le 4 0 ++ le 4 k)
    else if key % 256 = 0x43 ∨ key % 256 = 0x4B then le 4 (Bf24.mk 0x400000 1) ++ zeros 16
    else zeros 12
  else if key = Obj.ringMap then ringMapDefault
  else if key = Obj.blendPattern then blendDefault
  else []

/-- The value of an object (raw bits of its type). -/
def State.reg (s : State) (key : Nat) : Nat := Table.get (Dict.default key) s.regs key

/-- Give an object a value. -/
def State.setReg (s : State) (key v : Nat) : State := { s with regs := Table.put (Dict.default key) s.regs key v }

/-- Give several objects values. -/
def State.setRegs (s : State) : List (Nat × Nat) → State
  | [] => s
  | (k, v) :: t => (s.setReg k v).setRegs t

/-- The signed value of an object. -/
def State.sreg (s : State) (key : Nat) : Int := toSigned (Dict.width key) (s.reg key)

/-- Give an object a signed value. -/
def State.setSreg (s : State) (key : Nat) (v : Int) : State := s.setReg key (ofSigned (Dict.width key) v)

/-- Whether a BOOL object reads 1. -/
def State.isSet (s : State) (key : Nat) : Bool := decide (s.reg key = 1)

/-- The content of a DOMAIN object. -/
def State.dom (s : State) (key : Nat) : List Byte := Table.get (domDefault key) s.doms key

/-- The bytes of a DOMAIN object as a block read gives them. -/
def State.domBytes (s : State) (key : Nat) : List Byte :=
  if s.dom key = [] then zeros (zeroDefaultSize key) else s.dom key

/-- Give a DOMAIN object a content. -/
def State.setDom (s : State) (key : Nat) (c : List Byte) : State :=
  let c' := if c = zeros (zeroDefaultSize key) then [] else c
  { s with doms := Table.put (domDefault key) s.doms key c' }

/-- The value of a counter `n` steps after `v`; past the largest value of its type the spec gives none (log entry 5). -/
def countValue (key v n : Nat) : Nat :=
  if v + n < 2 ^ Dict.width key then v + n else Config.counterPastEnd key (v + n) % 2 ^ Dict.width key

/-- Advance a counter. -/
def State.count (s : State) (key n : Nat) : State := s.setReg key (countValue key (s.reg key) n)

/-- Advance a counter by 1. -/
def State.bump (s : State) (key : Nat) : State := s.count key 1

/-- Note that bits of a flag object have been set in this REF cycle (R10). -/
def State.noteFlags (s : State) (key m : Nat) : State :=
  { s with flagged := Table.put 0 s.flagged key (Table.get 0 s.flagged key ||| m) }

/-- Set bits of a flag object. -/
def State.setBits (s : State) (key m : Nat) : State := (s.setReg key (s.reg key ||| m)).noteFlags key m

/-- A number with the bits of a mask cleared. -/
def clearMask (v m : Nat) : Nat := v - (v &&& m)

/-- Clear bits of a flag object. -/
def State.clearBits (s : State) (key m : Nat) : State := s.setReg key (clearMask (s.reg key) m)

/-- Software clears bits of a flag object: one that was set in the same REF cycle stays set (00 R10). -/
def State.clearFlag (s : State) (key m : Nat) : State := s.clearBits key (clearMask m (Table.get 0 s.flagged key))

/-- The next free value, below `2 ^ w`, and the state that has used it (log entry 5). -/
def State.fresh (s : State) (w : Nat) : Nat × State :=
  (Config.free s.freeCtr % 2 ^ w, { s with freeCtr := s.freeCtr + 1 })

/-- A quotient where the spec gives no rounding: the floor or the next number above, unless it is exact (log entry 12). -/
def quot (place : Nat) (n : Int) (d : Nat) : Int :=
  if n % d = 0 then n / d else n / d + (if Config.roundsUp place n d then 1 else 0)

/-! ### Instances -/

/-- A stream's ring. -/
def State.ring (s : State) (k : Nat) : List Blk := Table.get [] s.raster.rings k

/-- Give a stream's ring a content. -/
def State.setRing (s : State) (k : Nat) (l : List Blk) : State :=
  { s with raster := { s.raster with rings := Table.put [] s.raster.rings k l } }

/-- A stream context. -/
def State.ctx (s : State) (k : Nat) : Ctx := Table.get {} s.decomp.ctxs k

/-- Give a stream context a value. -/
def State.setCtx (s : State) (k : Nat) (c : Ctx) : State :=
  { s with decomp := { s.decomp with ctxs := Table.put {} s.decomp.ctxs k c } }

/-- A strip's line buffer. -/
def State.slotsOf (s : State) (st : Nat) : List Slot := Table.get [] s.slots st

/-- Give a strip's line buffer a content. -/
def State.setSlots (s : State) (st : Nat) (l : List Slot) : State := { s with slots := Table.put [] s.slots st l }

/-- A strobe group. -/
def State.group (s : State) (g : Nat) : Group := Table.get {} s.taper.groups g

/-- Give a strobe group a value. -/
def State.setGroup (s : State) (g : Nat) (x : Group) : State :=
  { s with taper := { s.taper with groups := Table.put {} s.taper.groups g x } }

/-- A head lane. -/
def State.head (s : State) (m : Nat) : HeadLane := Table.get {} s.heads m

/-- Give a head lane a value. -/
def State.setHead (s : State) (m : Nat) (x : HeadLane) : State := { s with heads := Table.put {} s.heads m x }

/-- The latest STATUS of a module that came in an earlier REF cycle than this one (19 R426). -/
def State.statusBefore (s : State) (m : Nat) : List Byte :=
  if (s.head m).heardAt = some s.clock.cycles then (s.head m).before else s.dom (Obj.lastStatus m)

/-- An upload channel. -/
def State.chan (s : State) (c : Nat) : Chan := Table.get {} s.chans c

/-- Give an upload channel a value. -/
def State.setChan (s : State) (c : Nat) (x : Chan) : State := { s with chans := Table.put {} s.chans c x }

/-- A loop slot. -/
def State.loop (s : State) (i : Nat) : LoopDyn := Table.get {} s.loops i

/-- Give a loop slot a value. -/
def State.setLoop (s : State) (i : Nat) (x : LoopDyn) : State := { s with loops := Table.put {} s.loops i x }

/-- An axis. -/
def State.axis (s : State) (a : Nat) : Axis := Table.get {} s.axes a

/-- Give an axis a value. -/
def State.setAxis (s : State) (a : Nat) (x : Axis) : State := { s with axes := Table.put {} s.axes a x }

/-- An encoder channel. -/
def State.encCh (s : State) (ch : Nat) : EncCh := if ch = 0 then s.enc.ch0 else s.enc.ch1

/-- Give an encoder channel a value. -/
def State.setEncCh (s : State) (ch : Nat) (x : EncCh) : State :=
  { s with enc := if ch = 0 then { s.enc with ch0 := x } else { s.enc with ch1 := x } }

/-! Bits of BLOCK_RESET (03 R69). -/

namespace Block
def raster : Nat := 0
def decomp : Nat := 1
def strip : Nat := 2
def taper : Nat := 3
def encoder : Nat := 4
def headLink : Nat := 5
def twinLink : Nat := 6
def lantern : Nat := 7
def led : Nat := 8
def upload : Nat := 9
def check : Nat := 10
def dram : Nat := 11
def wick : Nat := 12
def loop : Nat := 13
def motion : Nat := 14
def beacon : Nat := 15
def ethMac : Nat := 16
end Block

/-- Whether a block is out of reset: its BLOCK_RESET and BLOCK_PENDED bits are 0 (03 R69, R71). -/
def State.blockUp (s : State) (b : Nat) : Bool :=
  !(s.reg Obj.blockReset).testBit b && !(s.reg Obj.blockPended).testBit b

/-! ### Time -/

/-- A TIME80 as raw bits: seconds in [47:0], nanoseconds in [79:48] (05 R109). -/
def time80 (sec ns : Nat) : Nat := sec % 2 ^ 48 + 2 ^ 48 * ns

/-- Beacon time now, as a TIME80. -/
def State.now (s : State) : Nat := time80 s.clock.beacon.sec s.clock.beacon.ns

/-- The TIME80 of a time in ns. -/
def time80OfNs (ns : Nat) : Nat := time80 (ns / 1000000000) (ns % 1000000000)

/-- Beacon time in ps. -/
def State.nowPs (s : State) : Nat :=
  1000 * (1000000000 * s.clock.beacon.sec + s.clock.beacon.ns) + 1000 * s.clock.beacon.frac / 2 ^ 24

/-- Beacon time in ns. -/
def State.nowNs (s : State) : Nat := 1000000000 * s.clock.beacon.sec + s.clock.beacon.ns

/-- REF cycles in a second, a millisecond and a microsecond (01 R24, domain 1). -/
def cyclesPerSec : Nat := 200000000
def cyclesPerMs : Nat := 200000
def cyclesPerUs : Nat := 200

/-- One REF cycle of Beacon (21 R443). -/
def Beacon.tick (b : Beacon) (trim : Int) : Beacon :=
  let t : Int := (b.ns : Int) * 2 ^ 24 + b.frac + 5 * 2 ^ 24 + trim
  let ns := (t / 2 ^ 24).toNat
  let frac := (t % 2 ^ 24).toNat
  if 1000000000 ≤ ns then { sec := (b.sec + 1) % 2 ^ 48, ns := ns - 1000000000, frac := frac }
  else { sec := b.sec, ns := ns, frac := frac }

/-! ### Output and sessions -/

/-- Send something. -/
def State.emit (s : State) (o : Out) : State := { s with out := o :: s.out }

/-- Send several things, in order. -/
def State.emitAll (s : State) : List Out → State
  | [] => s
  | o :: t => (s.emit o).emitAll t

/-- The sessions with one changed. -/
def Igrel.modify (g : Igrel) (id : Nat) (f : Session → Session) : Igrel :=
  { g with sessions := g.sessions.map (fun x => if x.id = id then f x else x) }

/-- An open session (no reservation). -/
def State.session (s : State) (id : Nat) : Option Session :=
  s.igrel.sessions.find? (fun x => x.id = id && !x.reserved)

/-- Send a packet in a session, with the device's next sequence number (R102). -/
def State.sendIn (s : State) (dst : Src) (sess ty tag : Nat) (payload : List Byte) : State :=
  match s.session sess with
  | none => s
  | some x =>
    { s.emit (.igrel dst ty sess tag x.txNext payload (some x.key)) with
      igrel := s.igrel.modify sess (fun y => { y with txNext := (y.txNext + 1) % 2 ^ 32 }) }

/-- Send a packet to each of a list of sessions. -/
def State.sendEach (s : State) (ty tag : Nat) (payload : List Byte) : List Session → State
  | [] => s
  | x :: t => (s.sendIn x.src x.id ty tag payload).sendEach ty tag payload t

/-! ### Replies (05) -/

/-- The payload of an ABORT. -/
def abortBytes (code hint idx sub : Nat) : List Byte := le 4 code ++ le 2 hint ++ zeros 2 ++ le 2 idx ++ le 1 sub ++ zeros 1

/-- BUSY (R121). -/
def busyCode : Nat := 0x08000040

/-- Send a reply to the source of its request (R97); in the recovery session with no MAC (R123). -/
def State.respond (s : State) (h : Hdr) (r : Reply) : State :=
  let (ty, body) : Nat × List Byte := match r with
    | .ok p => (0x20, p)
    | .abort code hint idx sub => (0x21, abortBytes code hint idx sub)
  if h.sess = 0 then s.emit (.igrel h.src ty 0 h.tag 0 body none) else s.sendIn h.src h.sess ty h.tag body

/-- Keep a reply for a resend of its request (R108): the newest 16, by tag. BUSY is kept for none, since its request was not executed. -/
def State.keep (s : State) (h : Hdr) (ty : Nat) (payload : List Byte) (r : Reply) : State :=
  let busy := match r with
    | .abort code _ _ _ => decide (code = busyCode)
    | .ok _ => false
  if busy then s
  else
    let k : Kept := { tag := h.tag, ty := ty, payload := payload, reply := r }
    { s with igrel := s.igrel.modify h.sess (fun x => { x with kept := (k :: x.kept.filter (fun y => y.tag ≠ h.tag)).take 16 }) }

/-- Answer a request: the reply is sent and kept. -/
def State.answer (s : State) (h : Hdr) (ty : Nat) (payload : List Byte) (r : Reply) : State :=
  (s.respond h r).keep h ty payload r

/-- Answer a request whose reply was held back, if its session is still open. -/
def State.finish (s : State) (d : Deferred) (r : Reply) : State :=
  if s.igrel.deferred.contains d then
    ({ s with igrel := { s.igrel with deferred := s.igrel.deferred.erase d } }).answer d.h d.ty d.payload r
  else s

/-- The write is done that a held reply waited for. -/
def State.finished (s : State) : Option Deferred → State
  | none => s
  | some d => s.finish d (.ok [])

/-! ### The Yilloger (22) -/

/-! Event codes (22 R471). -/

namespace Ev
def configApplied : Nat := 0x0100
def modeChange : Nat := 0x0101
def resetSeen : Nat := 0x0102
def stateConflict : Nat := 0x0103
def releasePended : Nat := 0x0104
def cdcStall : Nat := 0x0105
def linesPrinted : Nat := 0x0106
def twinResetIgnored : Nat := 0x0107
def calResult : Nat := 0x0200
def fsiLow : Nat := 0x0201
def leadLow : Nat := 0x0202
def waxError : Nat := 0x0300
def pageLate : Nat := 0x0301
def healthSwap : Nat := 0x0302
def finding : Nat := 0x0303
def encIllegal : Nat := 0x0400
def encRate : Nat := 0x0401
def encReversal : Nat := 0x0402
def encIndex : Nat := 0x0403
def encDisagree : Nat := 0x0404
def skipBurst : Nat := 0x0405
def strobeCut : Nat := 0x0406
def laneId : Nat := 0x0500
def laneDown : Nat := 0x0501
def failover : Nat := 0x0502
def mateLost : Nat := 0x0503
def roleConflict : Nat := 0x0504
def dramUe : Nat := 0x0600
def dramHot : Nat := 0x0601
def checkMismatch : Nat := 0x0602
def scrubBad : Nat := 0x0603
def wickDemote : Nat := 0x0700
def wickSkip : Nat := 0x0701
def loopTrip : Nat := 0x0702
def axisFault : Nat := 0x0703
def uploadVerify : Nat := 0x0800
def overtemp : Nat := 0x0801
def beaconStep : Nat := 0x0900
def beaconUnaligned : Nat := 0x0901
def ptpForeign : Nat := 0x0902
def igrelOverload : Nat := 0x0A00
def authFail : Nat := 0x0A01
end Ev

/-- Whether the device's own logic logs an event (22 R471, last column). -/
def loggedByHardware (code : Nat) : Bool :=
  decide (code = Ev.cdcStall) || decide (code = Ev.fsiLow) || decide (code = Ev.leadLow) ||
    decide (code / 256 = 3) || decide (code / 256 = 4) || (decide (code / 256 = 5) && decide (code ≤ Ev.failover)) ||
    decide (code / 256 = 6) || decide (code / 256 = 7) || decide (code / 256 = 8)

/-- The FREEZE_MASK bit an event comes under (22, FREEZE_MASK). -/
def freezeBit (code : Nat) (detail : List Byte) : Option Nat :=
  if code = Ev.modeChange ∧ detail.getD 1 0 = 5 then some 0
  else if code = Ev.dramUe then some 2
  else if code = Ev.failover then some 3
  else if code = Ev.loopTrip then some 4
  else if code = Ev.waxError then some 5
  else none

/-- The mode as MODE_NOW reads it (02 R40). -/
def Mode.code : Mode → Nat
  | .dark => 0 | .kindle => 1 | .pilot => 2 | .trim => 3 | .lit => 4 | .snuff => 5

/-- The role as TWIN_ROLE reads it (02). -/
def Role.code : Role → Nat
  | .solo => 0 | .primary => 1 | .mate => 2 | .invalid => 3

/-- A trigger of the Yilloger has come in this REF cycle (22 R475): noted as bit 0 of YLOG_STATE, or bit 1 where it finds the log frozen. -/
def State.noteTrigger (s : State) : State := s.noteFlags Obj.ylogState (if s.reg Obj.ylogState = 2 then 2 else 1)

/-- Write the next entry, or count it in MISSED while frozen (22 R468, R472, R473). -/
def State.ylogPut (s : State) (v : YEvent) : State :=
  let trig := match freezeBit v.code v.detail with
    | some b => (s.reg Obj.freezeMask).testBit b
    | none => false
  let s := if trig then s.noteTrigger else s
  if s.reg Obj.ylogState = 2 then s.bump Obj.missed
  else
    let idx := s.reg Obj.ylogNext
    let after := decide (s.reg Obj.ylogState = 1)
    let e : YEntry :=
      { code := v.code, mode := v.mode,
        flags := flag (loggedByHardware v.code) + 2 * flag trig + 4 * flag after,
        index := idx, time := v.time, resets := v.resets, detail := v.detail }
    let post := s.reg Obj.postTrigger
    let s := { s with ylog := { s.ylog with entries := (e :: s.ylog.entries).take 4096 } }
    let s := s.bump Obj.ylogNext
    if after then
      let s := { s with ylog := { s.ylog with post := s.ylog.post - 1 } }
      if s.ylog.post = 0 then s.setReg Obj.ylogState 2 else s
    else if trig then
      let s := { (s.setReg Obj.freezeEntry idx) with ylog := { s.ylog with post := post } }
      s.setReg Obj.ylogState (if post = 0 then 2 else 1)
    else s

/-- Write each of a list of events. -/
def State.ylogPuts (s : State) : List YEvent → State
  | [] => s
  | v :: t => (s.ylogPut v).ylogPuts t

/-- An event among those of its REF cycle: in rising event code, behind the earlier ones of its own code (22 R469). -/
def placeEvent (v : YEvent) : List YEvent → List YEvent
  | [] => [v]
  | x :: t => if v.code < x.code then v :: x :: t else x :: placeEvent v t

/-- The Yilloger as it stands. -/
def State.ylogBase (s : State) : YBase :=
  { entries := s.ylog.entries, next := s.reg Obj.ylogNext, state := s.reg Obj.ylogState, post := s.ylog.post,
    freezeEntry := s.reg Obj.freezeEntry, missed := s.reg Obj.missed }

/-- The Yilloger as it stood. -/
def State.ylogBack (s : State) (b : YBase) : State :=
  let s := ((s.setReg Obj.ylogNext b.next).setReg Obj.ylogState b.state).setReg Obj.freezeEntry b.freezeEntry
  { s.setReg Obj.missed b.missed with ylog := { s.ylog with entries := b.entries, post := b.post } }

/-- What is logged from now on comes after what has been logged in this REF cycle: a freeze, an unfreeze. -/
def State.ylogClose (s : State) : State := { s with ylog := { s.ylog with batch := [], base := none } }

/-- Log an event in the Yilloger. Those of one REF cycle are written in rising event code (22 R469): one with a lower code than an entry of
its cycle goes before it. -/
def State.ylogWrite (s : State) (code : Nat) (detail : List Byte) : State :=
  let v : YEvent :=
    { code := code, mode := s.mode.code, time := s.now, resets := s.reg Obj.resetCount % 2 ^ 16, detail := padTo 12 detail }
  let base := s.ylog.base.getD s.ylogBase
  let batch := placeEvent v s.ylog.batch
  let s := if s.ylog.batch.all (fun x => decide (x.code ≤ code)) then s.ylogPut v else (s.ylogBack base).ylogPuts batch
  { s with ylog := { s.ylog with batch := batch, base := some base } }

/-- Log an event and send it to every open session as an EVENT (05 R120: code, Beacon time, 8 detail bytes). -/
def State.logEvent (s : State) (code : Nat) (detail : List Byte) : State :=
  let s := s.ylogWrite code detail
  s.sendEach 0x32 0 (le 2 code ++ le 10 s.now ++ (padTo 12 detail).take 8)
    (s.igrel.sessions.filter (fun x => !x.reserved))

/-- What a trigger that marks no entry does to a running log: FREEZE_NOW (22 R472). -/
def State.startFreeze (s : State) : State :=
  let s := s.ylogClose
  let post := s.reg Obj.postTrigger
  let s := s.setReg Obj.freezeEntry (s.reg Obj.ylogNext)
  { (s.setReg Obj.ylogState (if post = 0 then 2 else 1)) with ylog := { s.ylog with post := post } }

/-- FREEZE_NOW (22 R472). -/
def State.freezeTrigger (s : State) : State :=
  let s := s.noteTrigger
  if s.reg Obj.ylogState ≠ 0 then s else s.startFreeze

/-- A freezing reset: frozen from that moment (22 R472). -/
def State.freezeAtReset (s : State) : State :=
  let s := if s.reg Obj.ylogState = 0 then s.setReg Obj.freezeEntry (s.reg Obj.ylogNext) else s
  { (s.setReg Obj.ylogState 2) with ylog := { s.ylog with post := 0, batch := [], base := none } }

/-! ### Causes and modes (02) -/

/-! Bits of SNUFF_CAUSE (02 R52). -/

namespace Cause
def safeStop : Nat := 0
def request : Nat := 1
def snuffer : Nat := 2
def skipPolicy : Nat := 3
def encIndex : Nat := 4
def cdcStall : Nat := 5
def lane : Nat := 6
def dram : Nat := 7
def therm : Nat := 8
def supply : Nat := 9
def loop : Nat := 10
def twin : Nat := 11
def cal : Nat := 12
end Cause

/-- Whether the firmware has reached the first configured state since the last reset (03 step 8). -/
def State.configured (s : State) : Bool := decide (s.rst.stage = .configured) && !s.rst.asserted

/-- Set a cause bit of SNUFF; causes are evaluated from the first configured state on (02 R497). -/
def State.setCause (s : State) (b : Nat) : State :=
  if s.configured then s.setBits Obj.snuffCause (2 ^ b) else s

/-- Whether any cause bit is set. -/
def State.hasCause (s : State) : Bool := decide (s.reg Obj.snuffCause ≠ 0)

/-- Change the mode: MODE_ENTRY_TIME and the MODE_CHANGE record (02, 22 R470). -/
def State.toMode (s : State) (m : Mode) : State :=
  let old := s.mode
  let s := { (s.setReg Obj.modeEntryTime s.now) with mode := m }
  s.logEvent Ev.modeChange (le 1 old.code ++ le 1 m.code ++ zeros 2 ++ le 4 (s.reg Obj.snuffCause))

/-- Count and log a state conflict (02 R49). -/
def State.conflict (s : State) (key : Nat) : State :=
  (s.bump Obj.conflictCount).logEvent Ev.stateConflict (le 2 (key / 256) ++ le 1 (key % 256) ++ le 1 s.mode.code)

/-- Whether the firing channels, loops, motion and the like run: PILOT, TRIM or LIT. -/
def Mode.working : Mode → Bool
  | .pilot | .trim | .lit => true
  | _ => false

/-- An event that repeats no more often than once per `n` lines is raised again (01 R499). -/
def lineApart (n line : Nat) (last : Option Nat) : Bool :=
  match last with
  | none => true
  | some l => decide ((n : Int) ≤ dist32 line l)

/-- Whether a module is populated (11, POPULATED). -/
def State.populated (s : State) (m : Nat) : Bool := s.isSet (Obj.populated m)

/-- The next outcome. -/
def ok (s : State) : Host.Outcome State Fault Refusal := .next s

end Sys2Proof.Machine
end

