-- ==== Sys2Proof/Machine/Wire.lean ====
section
/-! DEFINITION. Characters on the lanes: ordered sets, frames and packets with their delimiters, and the dealing of characters over bonded
lanes (06 R125 to R129; 11 R255, R256, R258, R259; 12 R290). -/

namespace Sys2Proof.Machine

/-! ### Characters and ordered sets -/

/-- /Kx.y/ as a character: the byte x + 32 y. -/
def kxy (x y : Nat) : Sym := .k (BitVec.ofNat 8 (x + 32 * y))

/-- The comma, /K28.5/, which also fills the rest of a packet's last round (06 R125). -/
def comma : Sym := kxy 28 5

/-- ALIGN, /K28.3/. -/
def alignSet : Sym := kxy 28 3

/-- TRAIN of a head lane: the comma and the lane number (11 R255). -/
def headTrain (m : Nat) : List Sym := [comma, .d (BitVec.ofNat 8 (0xA0 + m))]

/-- TRAIN of a bonded link: the comma and the lane's logical number (06, link bring-up; 12 R290). -/
def linkTrain (l : Nat) : List Sym := [comma, .d (BitVec.ofNat 8 l)]

/-- IDLE of a head lane: /K28.5/ /D16.2/. -/
def idleSet : List Sym := [comma, .d 0x50]

/-- Bytes as data characters. -/
def dataChars (l : List Byte) : List Sym := l.map Sym.d

/-- A normal frame or a packet between /K27.7/ and /K29.7/. -/
def delimited (l : List Byte) : List Sym := kxy 27 7 :: dataChars l ++ [kxy 29 7]

/-- A priority frame between /K28.2/ and /K28.4/. -/
def priority (l : List Byte) : List Sym := kxy 28 2 :: dataChars l ++ [kxy 28 4]

/-- The bytes of data characters; none where a control character stands among them. -/
def charBytes : List Sym → Option (List Byte)
  | [] => some []
  | .d b :: t => (charBytes t).map (fun l => b :: l)
  | .k _ :: _ => none

/-- The bytes of a frame between its delimiters; none where it is not delimited so. -/
def undelimited (l : List Sym) : Option (List Byte) :=
  match l with
  | [] => none
  | a :: t => if a = kxy 27 7 ∧ t.getLast? = some (kxy 29 7) then charBytes t.dropLast else none

/-- Control characters that no set or delimiter of R255 holds: each is a code error. -/
def strayControls (l : List Sym) : Nat :=
  (l.filter (fun c => match c with
    | .d _ => false
    | .k _ => !([kxy 28 5, kxy 27 7, kxy 29 7, kxy 28 2, kxy 28 4].contains c))).length

/-! ### Bonded lanes (06 R125) -/

/-- Every `w`-th element of a list, from its first. -/
def everyNth (w : Nat) (l : List Sym) : List Sym := (List.range ((l.length + w - 1) / w)).map (fun i => l.getD (i * w) comma)

/-- Characters dealt round-robin over `w` lanes from logical lane 0, with the last round filled with commas. -/
def deal (w : Nat) (l : List Sym) : List (List Sym) :=
  (List.range w).map (fun i => everyNth w ((l ++ List.replicate ((w - l.length % w) % w) comma).drop i))

/-- Characters gathered round by round from lanes in their logical order. -/
def gather (lanes : List (List Sym)) : List Sym :=
  (List.range ((lanes.map List.length).foldl max 0)).flatMap (fun i => lanes.map (fun l => l.getD i comma))

/-- The lanes without their skew: each from its own first ALIGN on, where the arrivals of ALIGN lie at most 32 character times apart; none
where they do not, or a lane has none. -/
def deskew (lanes : List (List Sym)) : Option (List (List Sym)) :=
  let at_ := lanes.map (fun l => l.findIdx (· = alignSet))
  if lanes.all (fun l => l.contains alignSet) && decide (at_.foldl max 0 ≤ at_.foldl min (at_.headD 0) + 32) then
    some (lanes.map (fun l => l.drop (l.findIdx (· = alignSet) + 1)))
  else none

/-- The physical lanes of a link in logical order: as sent, or reversed (06 R126). -/
def logicalOrder (reversed : Bool) (lanes : List (List Sym)) : List (List Sym) := if reversed then lanes.reverse else lanes

/-- The characters of a packet as they come on the active physical lanes, of which every packet begins on logical lane 0: without the ALIGN
sets and the commas that fill the last round. -/
def received (reversed : Bool) (lanes : List (List Sym)) : List Sym :=
  (gather (logicalOrder reversed lanes)).filter (fun c => c ≠ comma && c ≠ alignSet)

/-! ### Raster packets (06 R128, R129) -/

/-- A packet: header, payload and plain CRC-32C. -/
def rasterPacket (ty flags stream : Nat) (payload : List Byte) : List Byte :=
  let body := le 1 ty ++ le 1 flags ++ le 2 stream ++ le 2 payload.length ++ zeros 2 ++ payload
  body ++ le 4 (crc32c body)

/-- Whether the header of a packet from the host is right: its type, its stream, its length, and its zeros (R128, R129). -/
def packetHeaderOk (p : List Byte) : Bool :=
  let ty := field p 0 1
  let stream := field p 2 2
  decide (12 ≤ p.length) && decide (field p 4 2 = p.length - 12) && decide (field p 4 2 ≤ 16384) && decide (field p 6 2 = 0) &&
    decide (field p 1 1 = 0) && ((decide (ty = 1) && decide (stream < 160)) || ((decide (ty = 2) || decide (ty = 3)) && decide (stream = 0xFFFF)))

/-- Whether a packet's CRC is right. -/
def packetCrcOk (p : List Byte) : Bool := decide (field p (p.length - 4) 4 = crc32c (p.take (p.length - 4)))

/-- What is wrong with a packet that has come: none where it is right. A wrong one is known by its type and stream as far as they came. -/
def wrongPacket (chars : List Sym) : Option (Nat × Nat) :=
  match undelimited chars with
  | some p => if packetHeaderOk p && packetCrcOk p then none else some (field p 0 1, field p 2 2)
  | none =>
    let p := (chars.drop 1).filterMap (fun c => match c with
      | .d b => some b
      | .k _ => none)
    some (if chars.head? = some (kxy 27 7) ∧ 4 ≤ p.length then (field p 0 1, field p 2 2) else (0, 0xFFFF))

/-- A packet leaves on the two transmit lanes. -/
def rasterOut (ty stream : Nat) (payload : List Byte) : Out := .raster (deal 2 (delimited (rasterPacket ty 0 stream payload)))

/-- An entry of a CREDIT packet (R130): stream or channel, flags, value. -/
def creditEntry (e : Nat × Nat × Nat) : List Byte := le 2 e.1 ++ le 1 e.2.1 ++ zeros 1 ++ le 4 e.2.2

/-- CREDIT packets of entries in their order, 64 to a packet at most (log entry 104). -/
def creditPackets (l : List (Nat × Nat × Nat)) : List Out :=
  (chunks 64 ((l.length + 63) / 64) l).map (fun c => rasterOut 3 0xFFFF (c.flatMap creditEntry))

/-- Send CREDIT entries. -/
def State.sendCredits (s : State) (l : List (Nat × Nat × Nat)) : State := s.emitAll (creditPackets l)

/-- A COMMIT reply (R137). -/
def commitReply (page status detail : Nat) : Out := rasterOut 2 0xFFFF (le 4 page ++ le 1 status ++ zeros 3 ++ le 4 detail)

/-! ### Twin frames (12 R290) -/

/-- The twin lanes that are up. -/
def Twin.active (t : Twin) : List Nat := (if t.lane0 then [0] else []) ++ (if t.lane1 then [1] else [])

/-- A twin frame as its lanes carry it: framed as a raster packet with stream ID 0xFFFF, dealt over the lanes that are up. -/
def Twin.frame (t : Twin) (ty : Nat) (payload : List Byte) : Out :=
  let lanes := t.active
  .twin (List.zip lanes (deal lanes.length (delimited (rasterPacket ty 0 0xFFFF payload))))

/-! ### Back-channel frames (11 R256, R258, R259) -/

/-- A frame on a head lane with its delimiters: CONFIRM, CANCEL and TIME are priority frames. -/
def headChars (frame : List Byte) : List Sym := if field frame 0 1 / 16 = 1 then priority frame else delimited frame

/-- The payload of a STATUS frame on a lane; none where its delimiters, type, length or check value are wrong. -/
def statusPayload (m : Nat) (chars : List Sym) : Option (List Byte) :=
  match undelimited chars with
  | none => none
  | some f =>
    if f.length = 84 ∧ field f 0 1 = 0x81 ∧ field f 80 4 = crcIdent m (field f 4 4) (f.take 80) then some ((f.drop 8).take 72) else none

end Sys2Proof.Machine
end

