-- ==== Sys2Proof/Machine/Memory.lean ====
section
/-! DEFINITION. The LPDDR5 memory: its bytes, the SECDED code and the ECC lines (17 R371), and the requests that the controller
arbitrates (17 R378, R379; 01 R31, R32). -/

namespace Sys2Proof.Machine

/-! ### The SECDED code (R371; log entry 96) -/

/-- The place of each data bit of a word: the places from 3 on that are no power of two. -/
def secdedPlaces : List Nat := (List.range 72).filter (fun p => decide (2 < p) && decide (p &&& (p - 1) ≠ 0))

/-- The places of the bits set in a word, folded together. -/
def secdedSyndrome (w : Nat) : Nat :=
  (List.zip secdedPlaces (List.range 64)).foldl (fun a x => if w.testBit x.2 then a ^^^ x.1 else a) 0

/-- Whether an odd number of the low `n` bits of a word is set. -/
def oddBits (n w : Nat) : Bool := (List.range n).foldl (fun a i => xor a (w.testBit i)) false

/-- The check byte of a 64-bit word: seven folded places, and the parity of all. -/
def secdedByte (w : Nat) : Byte :=
  let c := secdedSyndrome w
  BitVec.ofNat 8 (c + 128 * flag (xor (oddBits 64 w) (oddBits 7 c)))

/-- What a word read with its check byte gives: the word, or the word with its one wrong bit put right, or none where two bits are wrong
(R373, R374). -/
def secdedRead (w : Nat) (check : Byte) : Option Nat :=
  let c := check.toNat
  let syn := secdedSyndrome w ^^^ (c % 128)
  let odd := xor (oddBits 64 w) (oddBits 8 c)
  if syn = 0 ∧ odd = false then some w
  else if odd = false then none
  else match (List.zip secdedPlaces (List.range 64)).find? (fun x => x.1 = syn) with
    | some x => some (w ^^^ 2 ^ x.2)
    | none => if syn &&& (syn - 1) = 0 then some w else none

/-- Whether a word read with its check byte has one wrong bit, in the word or in the check byte (R373). -/
def oneWrong (w : Nat) (check : Byte) : Bool := (secdedRead w check).isSome && decide (check ≠ secdedByte w)

/-! ### Bytes and ECC lines -/

/-- The byte at an LPDDR5 address; one that nothing has written reads 0 (17 R372). -/
def State.memByte (s : State) (a : Nat) : Byte := Table.get 0 s.dram.mem a

/-- The bytes from an LPDDR5 address on. -/
def State.memBytes (s : State) (a n : Nat) : List Byte := (List.range n).map (fun i => s.memByte (a + i))

/-- The channel of an address, and its line among the data lines of that channel (R369). -/
def memChannel (a : Nat) : Nat := a / 256 % 4
def memLine (a : Nat) : Nat := 4 * (a / 1024) + a / 64 % 4

/-- Where the check byte of an address's word stands, as 4 × a byte of the channel + the channel: the ECC line of 8 consecutive data lines
comes directly after them (R371). -/
def eccPlace (a : Nat) : Nat :=
  4 * (64 * (9 * (memLine a / 8) + 8) + 8 * (memLine a % 8) + a / 8 % 8) + memChannel a

/-- The 64-bit word of memory that holds an address. -/
def memWord (mem : List Host.Cell) (a : Nat) : Nat := fromLe ((List.range 8).map (fun i => Table.get 0 mem (8 * (a / 8) + i)))

/-- Write bytes to LPDDR5, one address each. -/
def writeCells (mem : List Host.Cell) : List (Nat × Byte) → List Host.Cell
  | [] => mem
  | (a, b) :: t => writeCells (Table.put 0 mem a b) t

/-- The check bytes of the words that hold written addresses. -/
def checkCells (mem : List Host.Cell) (cells : List (Nat × Byte)) : List (Nat × Byte) :=
  cells.map (fun x => (eccPlace x.1, secdedByte (memWord mem x.1)))

/-- The data lines that a write touches, and those of them that it does not cover whole. -/
def linesOf (cells : List (Nat × Byte)) : List Nat := (cells.map (fun x => x.1 / 64)).eraseDups
def partialLines (cells : List (Nat × Byte)) : List Nat :=
  (linesOf cells).filter (fun l => !(List.range 64).all (fun i => cells.any (fun x => x.1 = 64 * l + i)))

/-! ### Requests (R378, R379; 01 R31, R32) -/

/-- The class of a source (01, DRAM ports). -/
def MemUser.class : MemUser → MemClass
  | .context k => if k < 128 then .rt else .inspect
  | .intake => .host
  | .scan | .scrub | .upload _ | .correction => .bulk

/-- Panic, which the RT port raises in LIT only (R380; log entry 108). -/
def State.panics (s : State) : Bool := s.dram.panic && decide (s.mode = .lit)

/-- Put a request to the controller: an RT request in group 1, another behind its own class. -/
def State.askMem (s : State) (who : MemUser) (write : Bool) (bursts : Nat) : State :=
  if bursts = 0 then s
  else
    let r : MemReq := { who := who, write := write, bursts := bursts, at_ := s.clock.cycles }
    if who.class = .rt then { s with dram := { s.dram with urgent := s.dram.urgent ++ [r] } }
    else { s with dram := { s.dram with waiting := s.dram.waiting ++ [r] } }

/-- Whether a request of a source waits. -/
def State.memWaits (s : State) (who : MemUser) : Bool :=
  s.dram.urgent.any (fun r => r.who = who) || s.dram.waiting.any (fun r => r.who = who)

/-- The requests of a source go. -/
def State.dropMem (s : State) (who : MemUser) : State :=
  { s with dram := { s.dram with urgent := s.dram.urgent.filter (fun r => r.who ≠ who),
                                 waiting := s.dram.waiting.filter (fun r => r.who ≠ who) } }

/-- AGE_LIMIT of a class, in REF cycles (R379). -/
def State.ageLimit (s : State) (c : MemClass) : Nat :=
  cyclesPerUs * s.reg (match c with
    | .inspect => Obj.ageLimitInspect
    | .host => Obj.ageLimitHost
    | _ => Obj.ageLimitBulk)

/-- Whether a request has waited longer than its class's limit. -/
def State.overdue (s : State) (r : MemReq) : Bool := decide (s.ageLimit r.who.class < s.clock.cycles - r.at_)

/-- Promote the requests that have waited too long, behind the requests of group 1 that wait; none while panic holds (R379, 01 R32). -/
def State.promoteAged (s : State) : State :=
  if s.panics then s
  else { s with dram := { s.dram with urgent := s.dram.urgent ++ s.dram.waiting.filter s.overdue,
                                      waiting := s.dram.waiting.filter (fun r => !s.overdue r) } }

/-- The request that the next command slot takes (R378): group 1, INSPECT, HOST, BULK, the oldest first in each. In panic only RT requests
issue (01 R32). -/
def Dram.next (d : Dram) (panics : Bool) : Option MemReq :=
  let first (l : List MemReq) (c : MemClass) : Option MemReq := l.find? (fun r => r.who.class = c)
  if panics then first d.urgent .rt
  else match d.urgent with
    | r :: _ => some r
    | [] => (first d.waiting .inspect).or ((first d.waiting .host).or (first d.waiting .bulk))

/-- A list of requests after a burst of one of them. -/
def issueFrom (r : MemReq) : List MemReq → List MemReq
  | [] => []
  | x :: t => if x = r then (if x.bursts ≤ 1 then t else { x with bursts := x.bursts - 1 } :: t) else x :: issueFrom r t

/-- Whether the channels are in self-refresh: requests are held at the ports (R384). -/
def State.selfRefresh (s : State) : Bool :=
  match s.dram.change with
  | some (_, b) => b
  | none => false

/-- A command slot: one burst issues (R378; log entry 97: one slot in each REF cycle). -/
def State.memSlot (s : State) : State :=
  if s.blockUp Block.dram = false ∨ s.selfRefresh = true then s
  else
    let s := s.promoteAged
    match s.dram.next s.panics with
    | none => s
    | some r =>
      let s := { s with dram := { s.dram with urgent := issueFrom r s.dram.urgent, waiting := issueFrom r s.dram.waiting } }
      s.emit (.dramBurst r.who r.write)

/-- Write consecutive bytes of LPDDR5 for a source, with the check bytes of their words; a line not covered whole is read first (R371). The
bytes stand from the moment the write is in the controller's queue (R381). -/
def State.writeMem (s : State) (who : MemUser) (cells : List (Nat × Byte)) : State :=
  let mem := writeCells s.dram.mem cells
  let s := (s.askMem who false (partialLines cells).length).askMem who true (linesOf cells).length
  { s with dram := { s.dram with mem := mem, ecc := writeCells s.dram.ecc (checkCells mem cells) } }

end Sys2Proof.Machine
end

