-- ==== Sys2Proof/Machine/Wax.lean ====
section
/-! DEFINITION. The Wax format (07): the line decoder of the engines and the byte-mode decoder. -/

namespace Sys2Proof.Machine.Wax

/-- The line `d` above, from a history kept newest first; all 512 zeros where none is kept (R153). -/
def above (hist : List (List Byte)) (d : Nat) : List Byte := hist.getD (d - 1) (zeros 512)

/-- What a token sequence gives for one strip-mode line. -/
inductive TokRes where
  /-- The line, the token data left, the offset after it, the repetitions left, the history the line was decoded from. -/
  | line (l : List Byte) (off reps : Nat) (hist : List (List Byte))
  /-- A decode error (R156): code, and offset of the failing token. -/
  | error (code off : Nat)
  deriving DecidableEq, Repr

/-- The length of a token of the kinds LIT, RUN, VCOPY and VSHIFT from its first byte, or from EXT (R148, R151); none where
EXT meets a length field that is not 0. -/
def tokenLen (b : Nat) (ext : Option Nat) : Option Nat :=
  let fieldBits := if b < 0x80 then b % 64 else if b < 0xC0 then b % 16 else b % 8
  match ext with
  | some n => if fieldBits = 0 then some n else none
  | none => some (if b < 0x40 then b % 64 + 1 else if b < 0x80 then b % 64 + 2
                  else if b < 0xC0 then (b % 16 + 1) * 8 else (b % 8 + 1) * 16)

/-- Decode tokens until the line ends (R148 to R153). `left` is how many lines of the block are still to come, `rest` the token
data from offset `off` to the byte before the trailer. -/
def tokens (left : Nat) : Nat → List Byte → Nat → List (List Byte) → List Byte → Byte → Option Nat → TokRes
  | 0, _, off, _, _, _, _ => .error 9 off
  | fuel + 1, rest, off, hist, out, last, ext =>
    let col := out.length
    match rest with
    | [] => .error 9 off
    | b0 :: t =>
      let b := b0.toNat
      if b < 0xE0 then
        match tokenLen b ext with
        | none => .error 6 off
        | some n =>
          let operands := if b < 0x40 then n else if b < 0xC0 then 0 else 1
          if t.length < operands then .error 9 off
          else if col + n > 512 then .error 4 off
          else
            let h := toSigned 8 (t.headD 0).toNat
            if 0xC0 ≤ b ∧ ((col : Int) + h < 0 ∨ (col : Int) + h + n > 512) then .error 5 off
            else
              let new :=
                if b < 0x40 then t.take n
                else if b < 0x80 then List.replicate n last
                else if b < 0xC0 then ((above hist (b / 16 % 4 + 1)).drop col).take n
                else ((above hist (b / 8 % 4 + 1)).drop ((col : Int) + h).toNat).take n
              let out' := out ++ new
              let last' := new.getLastD last
              if out'.length = 512 then .line out' (off + 1 + operands) 0 hist
              else tokens left fuel (t.drop operands) (off + 1 + operands) hist out' last' none
      else if ext.isSome then .error 6 off
      else if b = 0xE0 then
        if t.length < 2 then .error 9 off
        else if fromLe (t.take 2) = 0 then .error 6 off
        else tokens left fuel (t.drop 2) (off + 3) hist out last (some (fromLe (t.take 2)))
      else if b = 0xE1 then .line (out ++ zeros (512 - col)) (off + 1) 0 hist
      else if b = 0xE3 then .line (out ++ (above hist 1).drop col) (off + 1) 0 hist
      else if b = 0xE2 ∨ b = 0xE4 ∨ b = 0xFF then
        if col ≠ 0 then .error 7 off
        else if b = 0xFF then .error 8 off
        else if b = 0xE4 then tokens left fuel t (off + 1) [] out last none
        else
          match t with
          | [] => .error 9 off
          | c :: _ => if c.toNat + 1 > left then .error 8 off else .line (above hist 1) (off + 2) c.toNat hist
      else .error 3 off

/-- The header checks of a block read by an engine (R144, R145, R156, R160): the code and offset of the first failing field. -/
def headerError (k : Nat) (d : List Byte) : Option (Nat × Nat) :=
  if field d 0 2 ≠ 0x5857 then some (1, 0)
  else if field d 2 1 ≠ 1 then some (1, 2)
  else if field d 3 1 ≠ 0 ∧ field d 3 1 ≠ 2 then some (2, 3)
  else if field d 4 2 ≠ k then some (1, 4)
  else if field d 10 2 > 4096 then some (8, 10)
  else none

/-- Whether a block has SYNC_START set (R145). -/
def syncStart (d : List Byte) : Bool := (field d 3 1).testBit 1

/-- What decoding the next line of a context gives. -/
inductive LineRes where
  | line (l : List Byte) (c : CtxState)
  /-- A decode error in a block, or a block with an uncorrectable error (code 0; 17 R374). -/
  | error (code seq off : Nat)
  /-- The block of the next token is not stored. -/
  | absent
  deriving DecidableEq, Repr

/-- The stored block of a sequence number. -/
def blockOf (ring : List Blk) (seq : Nat) : Option Blk := ring.find? (fun b => b.seq = seq)

/-- Decode the next line of stream `k` from a working state (R147 to R153), crossing block ends and empty blocks. -/
def nextLine (k : Nat) (ring : List Blk) : Nat → CtxState → LineRes
  | 0, _ => .absent
  | fuel + 1, c =>
    match blockOf ring c.blockSeq with
    | none => .absent
    | some blk =>
      let d := blk.bytes
      let start := c.offset = 12 ∧ c.done = 0 ∧ c.reps = 0
      let count := field d 10 2
      if blk.unread then .error 0 c.blockSeq c.offset
      else
        match (if start then headerError k d else none) with
        | some (code, off) => .error code c.blockSeq off
        | none =>
          let hist := if start ∧ syncStart d then [] else c.hist
          let toks := (d.take (d.length - 4)).drop c.offset
          if c.reps > 0 then
            let l := above hist 1
            .line l { c with next := (c.next + 1) % 2 ^ 32, done := c.done + 1, reps := c.reps - 1,
                             hist := (l :: hist).take 4 }
          else if c.done < count then
            match tokens (count - c.done) (toks.length + 1) toks c.offset hist [] 0 none with
            | .error code off => .error code c.blockSeq off
            | .line l off reps hist' =>
              .line l { c with next := (c.next + 1) % 2 ^ 32, offset := off, done := c.done + 1, reps := reps,
                               hist := (l :: hist').take 4 }
          else
            match toks with
            | [] => .error 9 c.blockSeq c.offset
            | b :: _ =>
              if b = 0xFF then
                nextLine k ring fuel
                  { c with blockSeq := (c.blockSeq + 1) % 2 ^ 32, offset := 12, done := 0, reps := 0, hist := hist }
              else .error 8 c.blockSeq c.offset

/-- The offset of the first byte of each token of a block's token data, END-OF-BLOCK included (R167). -/
def tokenStarts : Nat → List Byte → Nat → Option Nat → List Nat
  | 0, _, _, _ => []
  | fuel + 1, rest, off, ext =>
    match rest with
    | [] => []
    | b0 :: t =>
      let b := b0.toNat
      let ops := if b < 0x40 then (ext.getD (b + 1)) else if b < 0xC0 then 0 else if b < 0xE0 then 1
                 else if b = 0xE0 then 2 else if b = 0xE2 then 1 else 0
      let ext' := if b = 0xE0 then some (fromLe (t.take 2)) else none
      if b = 0xFF then [off] else off :: tokenStarts fuel (t.drop ops) (off + 1 + ops) ext'

/-- The token offsets of a block (R167). -/
def tokenOffsets (d : List Byte) : List Nat :=
  let toks := (d.take (d.length - 4)).drop 12
  tokenStarts (toks.length + 1) toks 12 none

/-- The byte `back` bytes before the end of what has been decoded: `new` holds the new output newest first, `hist` the
history before it, newest first (R155). -/
def backByte (hist new : List Byte) (back : Nat) : Byte :=
  if back ≤ new.length then new.getD (back - 1) 0 else hist.getD (back - 1 - new.length) 0

/-- Copy `n` bytes from `back` bytes back, byte by byte in rising order. -/
def copyBack (hist : List Byte) (back : Nat) : Nat → List Byte → List Byte
  | 0, new => new
  | n + 1, new => copyBack hist back n (backByte hist new back :: new)

/-- Decode byte-mode tokens to a decoded length (R155): the new output, newest first, or none on a decode error. The history
is given newest first. -/
def byteTokens (len : Nat) : Nat → List Byte → List Byte → List Byte → Byte → Option Nat → Option (List Byte)
  | 0, _, _, _, _, _ => none
  | fuel + 1, rest, hist, new, last, ext =>
    match rest with
    | [] => none
    | b0 :: t =>
      let b := b0.toNat
      if b < 0xE0 then
        match tokenLen b ext with
        | none => none
        | some n =>
          let operands := if b < 0x40 then n else if b < 0xC0 then 0 else 1
          let h := toSigned 8 (t.headD 0).toNat
          let back : Int := if b < 0xC0 then (512 * (b / 16 % 4 + 1) : Nat) else (512 * (b / 8 % 4 + 1) : Nat) - h
          if t.length < operands ∨ new.length + n > len ∨ (0x80 ≤ b ∧ back > 2048) then none
          else
            let new' :=
              if b < 0x40 then (t.take n).reverse ++ new
              else if b < 0x80 then List.replicate n last ++ new
              else copyBack hist back.toNat n new
            byteTokens len fuel (t.drop operands) hist new' (new'.headD last) none
      else if ext.isSome then none
      else if b = 0xE0 then
        if t.length < 2 ∨ fromLe (t.take 2) = 0 then none
        else byteTokens len fuel (t.drop 2) hist new last (some (fromLe (t.take 2)))
      else if b = 0xE4 then
        (byteTokens (len - new.length) fuel t (zeros 2048) [] 0 none).map (fun later => later ++ new)
      else if b = 0xFF then (if new.length = len ∧ t = [] then some new else none)
      else none

/-- The decoded bytes, oldest first, of a byte-mode body (tokens with END-OF-BLOCK) from a history given oldest first. -/
def decodeBytes (len : Nat) (hist : List Byte) (last : Byte) (body : List Byte) : Option (List Byte) :=
  (byteTokens len (body.length + 1) body hist.reverse [] last none).map List.reverse

end Sys2Proof.Machine.Wax
end

