-- ==== Sys2Proof/Machine/Store.lean ====
section
/-! DEFINITION. The raster link and the stream store (06): rings, credits, committed pages; and which lines of a strobe group
have passed (01 R498). -/

namespace Sys2Proof.Machine

/-! ### Strips and groups (01 R12, R498; 08 R168) -/

/-- The strobe group of a strip (01 R12). -/
def groupOf (st : Nat) : Nat := 2 * (st % 4) + (st / 4) % 2

/-- The modules of a strobe group, rising. -/
def modulesOf (g : Nat) : List Nat := (List.range 16).map (fun i => 2 * i + g % 2)

/-- The populated modules of a strobe group. -/
def State.liveModules (s : State) (g : Nat) : List Nat := (modulesOf g).filter s.populated

/-- The strips of a strobe group whose module is populated. -/
def State.liveStrips (s : State) (g : Nat) : List Nat := (s.liveModules g).map (fun m => 4 * m + g / 2)

/-- The strobe groups that are not empty (R498). -/
def State.liveGroups (s : State) : List Nat := (List.range 8).filter (fun g => !(s.liveModules g).isEmpty)

/-- The first line of a group that has neither fired nor been entered in the skip ledger. -/
def State.passedTo (s : State) (g : Nat) : Nat :=
  let grp := s.group g
  let arm := s.reg (Obj.nextArmSeq g)
  let low (a b : Nat) : Nat := if dist32 b a < 0 then b else a
  let a := match grp.conf with
    | some c => low arm c.seq
    | none => arm
  (s.taper.unsettled.filter (fun u => u.g = g)).foldl (fun x u => low x u.seq) a

/-- The lower of two sequence numbers as R202 compares them. -/
def lowSeq (a b : Nat) : Nat := if dist32 b a < 0 then b else a

/-- The higher of two sequence numbers. -/
def highSeq (a b : Nat) : Nat := if dist32 b a > 0 then b else a

/-- The lowest first line not passed over the non-empty groups; none where every group is empty. -/
def State.floorSeq (s : State) : Option Nat :=
  match s.liveGroups with
  | [] => none
  | g :: t => some (t.foldl (fun a x => lowSeq a (s.passedTo x)) (s.passedTo g))

/-- The highest first line not passed over the non-empty groups. -/
def State.ceilSeq (s : State) : Option Nat :=
  match s.liveGroups with
  | [] => none
  | g :: t => some (t.foldl (fun a x => highSeq a (s.passedTo x)) (s.passedTo g))

/-- The lowest line of the non-empty groups that has not been confirmed or entered; 0 where every group is empty. -/
def State.firstUnarmed (s : State) : Nat :=
  match s.liveGroups with
  | [] => 0
  | g :: t => t.foldl (fun a x => lowSeq a (s.reg (Obj.nextArmSeq x))) (s.reg (Obj.nextArmSeq g))

/-! ### Pages -/

/-- The open committed page that holds a line. -/
def State.pageOf (s : State) (n : Nat) : Option Page :=
  s.raster.pages.find? (fun p => decide (0 ≤ dist32 n p.first) && decide (dist32 n p.first < p.count))

/-- The open page of an identifier. -/
def State.pageById (s : State) (id : Nat) : Option Page := s.raster.pages.find? (fun p => p.id = id)

/-- Change an open page. -/
def State.modPage (s : State) (id : Nat) (f : Page → Page) : State :=
  { s with raster := { s.raster with pages := s.raster.pages.map (fun p => if p.id = id then f p else p) } }

/-- Whether every line of a page has fired or been skipped in every non-empty group (12 R306). -/
def State.pageDone (s : State) (p : Page) : Bool := decide (p.count * s.liveGroups.length ≤ p.fired + p.skipped)

/-! ### Rings and credits (06 R131 to R134) -/

/-- Credits that a number of bytes uses. -/
def creditsOf (n : Nat) : Nat := (n + 63) / 64

/-- A stream's ring: base address and size in bytes. -/
def State.ringBase (s : State) (k : Nat) : Nat := field (s.dom Obj.ringMap) (16 * k) 8
def State.ringSize (s : State) (k : Nat) : Nat := field (s.dom Obj.ringMap) (16 * k + 8) 4

/-- The line that follows the last line of a block. -/
def State.blkEnd (s : State) (b : Blk) : Nat := ((s.raster.flushFirst.getD 0) + b.before + b.lines) % 2 ^ 32

/-- The first line of a block. -/
def State.blkFirst (s : State) (b : Blk) : Nat := ((s.raster.flushFirst.getD 0) + b.before) % 2 ^ 32

/-- Whether a stored block's space is free (R133): the stream's checkpoint lies beyond its last line, and the
lines have passed in every non-empty group; a strip of an unpopulated module passes lines with its group (01 R498). The checkpoint just
after a block's last line still names that block (07 R167). An auxiliary stream's block is free once its last line has been consumed. -/
def State.blkFree (s : State) (k : Nat) (b : Blk) : Bool :=
  let d := dist32 (s.ctx k).ckpt.next (s.blkEnd b)
  let beyond := if k < 128 then !s.populated (k / 4) || decide (0 < d) else decide (0 ≤ d)
  let passed := if k < 128 then
      match s.floorSeq with
      | some f => decide (0 ≤ dist32 f (s.blkEnd b))
      | none => false
    else true
  s.raster.flushFirst.isSome && beyond && passed

/-- Free the space of a stream's blocks that R133 lets go, and hold their credits for the next grant. -/
def State.freeRing (s : State) (k : Nat) : State :=
  let gone := (s.ring k).takeWhile (s.blkFree k)
  if gone = [] then s
  else
    let bytes := sumList (gone.map (fun b => b.bytes.length))
    let creds := sumList (gone.map (fun b => creditsOf b.bytes.length))
    let s' := s.setRing k ((s.ring k).drop gone.length)
    let s' := s'.setReg (Obj.ringUsed k) (s'.reg (Obj.ringUsed k) - bytes)
    { s' with raster := { s'.raster with freed := Table.put 0 s'.raster.freed k (Table.get 0 s'.raster.freed k + creds) } }

/-- Free ring space in each of a list of streams. -/
def State.freeRings (s : State) : List Nat → State
  | [] => s
  | k :: t => (s.freeRing k).freeRings t

/-- Whether the raster link is up. -/
def State.rasterUp (s : State) : Bool := decide (2 ≤ s.reg Obj.linkState)

/-- A block of a stream has been dropped: RESEND now, or when the credit period ends (R134). -/
def State.resend (s : State) (k : Nat) : State :=
  if s.raster.resent.contains k then
    if s.raster.resendDue.contains k then s
    else { s with raster := { s.raster with resendDue := s.raster.resendDue ++ [k] } }
  else
    let s := (s.sendCredits [(k, 1, s.reg (Obj.nextBlockSeq k))]).bump (Obj.stResends k)
    { s with raster := { s.raster with resent := s.raster.resent ++ [k] } }

/-- The free ring space of a stream in credits. -/
def State.freeCredits (s : State) (k : Nat) : Nat := s.ringSize k / 64 - sumList ((s.ring k).map (fun b => creditsOf b.bytes.length))

/-- A stream is granted its free ring space (R131); the RESEND beside it is the stream's of the credit period (R134). -/
def State.grantFull (s : State) (k : Nat) : State :=
  let full := s.freeCredits k
  let s := s.setReg (Obj.creditsGranted k) full
  let s := { s with raster := { s.raster with
    freed := Table.put 0 s.raster.freed k 0, resent := k :: s.raster.resent.filter (· ≠ k),
    resendDue := s.raster.resendDue.filter (· ≠ k) } }
  s.bump (Obj.stResends k)

/-- Each of a list of streams is granted its free ring space. -/
def State.grantEach (s : State) : List Nat → State
  | [] => s
  | k :: t => (s.grantFull k).grantEach t

/-- FULL and then RESEND for each of a list of streams (R131). -/
def State.grantAll (s : State) (l : List Nat) : State :=
  (s.grantEach l).sendCredits (l.flatMap (fun k => [(k, 2, s.freeCredits k), (k, 1, s.reg (Obj.nextBlockSeq k))]))

/-- The cells a block takes in its ring (log entry 11). -/
def State.blockCells (s : State) (k seq : Nat) (bytes : List Byte) : List (Nat × Byte) :=
  (List.range bytes.length).map (fun i =>
    (s.ringBase k + Config.ringPlace k seq i % s.ringSize k, bytes.getD i 0))

/-- Store a block that has passed every check (R132). -/
def State.storeBlock (s : State) (k : Nat) (wax : List Byte) : State :=
  let seq := s.reg (Obj.nextBlockSeq k)
  let lines := if (field wax 3 1).testBit 0 then 0 else field wax 10 2
  let before := Table.get 0 s.raster.linesIn k
  let blk : Blk := { seq := seq, bytes := wax, lines := lines, before := before, bad := false, unread := false }
  let s := s.writeMem .intake (s.blockCells k seq wax)
  let s := s.setRing k (s.ring k ++ [blk])
  let s := { s with raster := { s.raster with linesIn := Table.put 0 s.raster.linesIn k (before + lines) } }
  let s := s.setReg (Obj.nextBlockSeq k) ((seq + 1) % 2 ^ 32)
  let s := s.setReg (Obj.ringUsed k) (s.reg (Obj.ringUsed k) + wax.length)
  let s := s.setReg (Obj.creditsGranted k) (s.reg (Obj.creditsGranted k) - creditsOf wax.length)
  (s.bump (Obj.blocksStored k)).count Obj.rasBytesIn wax.length

/-- Whether a block passes checks 1 to 3 of R132. -/
def State.blockHeaderOk (s : State) (k : Nat) (wax : List Byte) : Bool :=
  decide (field wax 0 2 = 0x5857) && decide (field wax 2 1 = 1) && decide (field wax 4 2 = k) &&
    decide (field wax 6 4 = s.reg (Obj.nextBlockSeq k))

/-- Whether a block passes check 4 of R132: its trailer as CRC-32C with the identity prefix. -/
def blockTrailerOk (k seq : Nat) (wax : List Byte) : Bool :=
  let body := wax.take (wax.length - 4)
  decide (field wax (wax.length - 4) 4 = crcIdent k seq body)

/-- BLOCK (R131, R132, R134): the intake of one Wax block. -/
def State.intake (s : State) (k : Nat) (wax : List Byte) : State :=
  if creditsOf wax.length > s.reg (Obj.creditsGranted k) ∨ s.blockHeaderOk k wax = false then
    (s.bump Obj.blockRejects).resend k
  else if blockTrailerOk k (s.reg (Obj.nextBlockSeq k)) wax = false then
    ((s.bump Obj.blockRejects).bump (Obj.crcFails k)).resend k
  else s.storeBlock k wax

/-! ### COMMIT (06 R135 to R137) -/

/-- The streams named in a mask. -/
def maskStreams (mask : Nat) : List Nat := (List.range 160).filter (fun k => mask.testBit k)

/-- A COMMIT payload that matches R135: page, first line, line count and the named streams with their last blocks. -/
structure CommitReq where
  page : Nat
  first : Nat
  count : Nat
  last : List (Nat × Nat)
  deriving DecidableEq, Repr

/-- Read a COMMIT payload; none where it does not match R135 (status FORMAT). -/
def parseCommit (p : List Byte) : Option CommitReq :=
  let mask := field p 12 20
  let streams := maskStreams mask
  let count := field p 8 4
  if 32 ≤ p.length ∧ p.length = 32 + 4 * streams.length ∧ 1 ≤ count ∧ count ≤ 2 ^ 24 ∧
      (List.range 128).all (fun k => mask.testBit k) = true then
    some { page := field p 0 4, first := field p 4 4, count := count,
           last := (List.zip streams (List.range streams.length)).map (fun x => (x.1, field p (32 + 4 * x.2) 4)) }
  else none

/-- Whether every block of a stream up to and including a sequence is stored (R136, 3). -/
def State.hasBlocksTo (s : State) (k seq : Nat) : Bool :=
  let d := dist32 (s.reg (Obj.nextBlockSeq k)) seq
  decide (1 ≤ d) && decide (d ≤ s.reg (Obj.blocksStored k))

/-- Whether a joining chip has no committed page yet. -/
def State.joinsFresh (s : State) : Bool :=
  match s.twin.join with
  | none => false
  | some j => j.joining && s.raster.flushFirst.isNone

/-- Lines of a stream's blocks that a COMMIT adds (R136, 4). -/
def State.pageLines (s : State) (k seq : Nat) : Nat :=
  let prev := s.reg (Obj.lastCommittedSeq k)
  sumList (((s.ring k).filter (fun b =>
    decide (dist32 b.seq seq ≤ 0) && (s.raster.flushFirst.isNone || decide (0 < dist32 b.seq prev)))).map Blk.lines)

/-- Whether a stream's blocks have the page's lines (R136, 4). At a joining chip's first COMMIT the stream begins inside the page, at
the image's block: its lines reach the page's end (12, Rejoining as mate). -/
def State.pageFits (s : State) (c : CommitReq) (k seq : Nat) : Bool :=
  if s.joinsFresh then
    (s.ring k).any (fun b => decide (b.seq = seq) && decide (s.blkEnd b = (c.first + c.count) % 2 ^ 32))
  else decide (s.pageLines k seq = c.count)

/-- The status and detail that a COMMIT is answered with (R136, R137). -/
def State.commitStatus (s : State) (c : CommitReq) : Nat × Nat :=
  let expected := (s.reg Obj.lastPageId + 1) % 2 ^ 32
  if s.mode = .kindle then (5, 0)
  else if s.raster.flushFirst.isSome ∧ (c.page ≠ expected ∨ c.first ≠ s.raster.nextFirst) then (3, expected)
  else
    match c.last.find? (fun x => !s.hasBlocksTo x.1 x.2) with
    | some x => (1, x.1)
    | none =>
      match c.last.find? (fun x => decide (x.1 < 128) && !s.pageFits c x.1 x.2) with
      | some x => (2, x.1)
      | none => if 32 ≤ s.raster.pages.length then (4, 0) else (0, 0)

/-- Lines of a page that a group has passed before the page was committed (R140). -/
def State.passedLines (s : State) (first count g : Nat) : Nat :=
  let d := dist32 (s.passedTo g) first
  if d ≤ 0 then 0 else if (count : Int) ≤ d then count else d.toNat

/-- Give each of a list of streams its last committed block. -/
def State.setCommitted (s : State) : List (Nat × Nat) → State
  | [] => s
  | (k, q) :: t => (s.setReg (Obj.lastCommittedSeq k) q).setCommitted t

/-- The contexts and groups at the first COMMIT after a flush: they start at its first line (10 R226, 06 R135). -/
def State.startAt (s : State) (first : Nat) : State :=
  let c0 : CtxState := { next := first }
  let ctxs := (List.range 160).foldl
    (fun t k => Table.put ({} : Ctx) t k { work := c0, ckpt := c0, rewind := none, raised := [] }) []
  let s := { s with decomp := { s.decomp with ctxs := ctxs } }
  (List.range 8).foldl (fun s g =>
    (s.setGroup g { s.group g with first := first, nextReq := first }).setReg (Obj.nextArmSeq g) first) s

/-- The groups of a joining chip start at the join line, and its auxiliary contexts at the first line committed; its strip contexts
keep their images. -/
def State.startJoin (s : State) (first line : Nat) : State :=
  let c0 : CtxState := { next := first }
  let ctxs := (List.range 160).foldl
    (fun t k => if k < 128 then t else Table.put ({} : Ctx) t k { work := c0, ckpt := c0, rewind := none, raised := [] })
    s.decomp.ctxs
  let back (n : Nat) : Nat := (2 ^ 32 + n - first % 2 ^ 32) % 2 ^ 32
  let rings := s.raster.rings.map (fun (x : Nat × List Blk) =>
    if x.1 < 128 then (x.1, x.2.map (fun b => { b with before := back b.before })) else x)
  let linesIn := (List.range 128).foldl (fun t k => Table.put 0 t k (back (Table.get 0 s.raster.linesIn k))) s.raster.linesIn
  let s := { s with decomp := { s.decomp with ctxs := ctxs }, raster := { s.raster with rings := rings, linesIn := linesIn } }
  (List.range 8).foldl (fun s g =>
    (s.setGroup g { s.group g with first := line, nextReq := line }).setReg (Obj.nextArmSeq g) line) s

/-- The first COMMIT after a flush. -/
def State.startPages (s : State) (first : Nat) : State :=
  match s.twin.join with
  | some j => if j.joining then s.startJoin first j.line else s.startAt first
  | none => s.startAt first

/-- Whether a page lies wholly before the line at which this chip joins: it is only decoded, and not kept open. -/
def State.beforeJoin (s : State) (c : CommitReq) : Bool :=
  match s.twin.join with
  | none => false
  | some j => j.joining && decide (0 ≤ dist32 j.line ((c.first + c.count) % 2 ^ 32))

/-- Accept a COMMIT. -/
def State.acceptCommit (s : State) (c : CommitReq) : State :=
  let fresh := s.raster.flushFirst.isNone
  let s := s.setCommitted c.last
  let s := if fresh then s.startPages c.first else s
  let skipped := sumList (s.liveGroups.map (s.passedLines c.first c.count))
  let p : Page := { id := c.page, first := c.first, count := c.count, last := c.last, fired := 0, skipped := skipped }
  let s := s.setReg Obj.lastPageId c.page
  { s with raster := { s.raster with
      pages := if s.beforeJoin c then s.raster.pages else s.raster.pages ++ [p],
      flushFirst := if fresh then some c.first else s.raster.flushFirst,
      nextFirst := (c.first + c.count) % 2 ^ 32 } }

end Sys2Proof.Machine
end

