-- ==== Sys2Proof/Machine/Decomp.lean ====
section
/-! DEFINITION. Stream contexts, decompression engines, checkpoints and rewinds (01 R28 to R30, 07 R157 to R167). -/

namespace Sys2Proof.Machine

/-- A decode error: its code (0: an unreadable block), the block's sequence and the offset of the failing token (R156). -/
abbrev WaxErr := Nat × Nat × Nat

/-- What decoding the next line of a context gives, poison and resumption included (07 R157, 17 R374), with the errors met on the
way. -/
inductive StepRes where
  /-- The line, and the state after it. -/
  | line (l : List Byte) (c : CtxState) (errs : List WaxErr)
  /-- No line is prepared: the state after passing it. -/
  | failed (c : CtxState) (errs : List WaxErr)
  /-- The block of the line is not stored, or its page not committed. -/
  | absent
  deriving DecidableEq, Repr

/-- The block at which a poisoned context resumes with line `n` (R157): the next block of the stream, after block `after`, that
has SYNC_START, where its first line is `n`. -/
def State.resumeAt (s : State) (k after n : Nat) : Option Blk :=
  match (s.ring k).find? (fun b => decide (0 < dist32 b.seq after) && Wax.syncStart b.bytes) with
  | none => none
  | some b => if decide (0 < dist32 (s.blkFirst b) n) then none else some b

/-- The state at the start of a block. -/
def CtxState.atBlock (c : CtxState) (seq : Nat) : CtxState :=
  { c with blockSeq := seq, offset := 12, done := 0, reps := 0, hist := [], poisoned := false, fault := none }

/-- Whether a block holds a line. -/
def State.blkHolds (s : State) (b : Blk) (n : Nat) : Bool :=
  decide (0 ≤ dist32 n (s.blkFirst b)) && decide (dist32 n (s.blkEnd b) < 0)

/-- The state after a line that is not prepared: it names the block that holds the line, at its first token, so that a reported image names a
stored block (R167; log entry 98). `blk` is the failing block. -/
def State.passFrom (s : State) (k : Nat) (c : CtxState) (blk : Nat) (fault : Option Nat) : CtxState :=
  let at_ := match (s.ring k).find? (fun b => s.blkHolds b c.next) with
    | some b => b.seq
    | none => blk
  { c with next := (c.next + 1) % 2 ^ 32, blockSeq := at_, offset := 12, done := 0, reps := 0, poisoned := true, fault := fault }

/-- The state after the next line of a poisoned context, where no SYNC_START block begins with it. -/
def State.passPoisoned (s : State) (k : Nat) (c : CtxState) : Option CtxState :=
  if c.poisoned && (s.resumeAt k c.blockSeq c.next).isNone then some (s.passFrom k c c.blockSeq c.fault) else none

/-- Decode the next line of a context from a state. An error with no line of its block left poisons nothing beyond it where a SYNC_START
block comes next (R157). -/
def State.decodeFrom (s : State) (k : Nat) (c : CtxState) : StepRes :=
  let ring := s.ring k
  let from_ (c : CtxState) (errs : List WaxErr) : StepRes :=
    match Wax.nextLine k ring (ring.length + 1) c with
    | .line l c' => .line l c' errs
    | .absent => .absent
    | .error code seq off => .failed (s.passFrom k c seq (some code)) (errs ++ [(code, seq, off)])
  if c.poisoned then
    match s.resumeAt k c.blockSeq c.next with
    | none => .failed (s.passFrom k c c.blockSeq c.fault) []
    | some b => from_ (c.atBlock b.seq) []
  else
    match Wax.nextLine k ring (ring.length + 1) c with
    | .error code seq off =>
      match s.resumeAt k seq c.next with
      | none => .failed (s.passFrom k c seq (some code)) [(code, seq, off)]
      | some b => from_ (c.atBlock b.seq) [(code, seq, off)]
    | .line l c' => .line l c' []
    | .absent => .absent

/-- Whether a line may be read: lines are read from committed pages only (R135, R140). -/
def State.lineCommitted (s : State) (n : Nat) : Bool :=
  match s.raster.flushFirst with
  | none => false
  | some _ => decide (dist32 n s.raster.nextFirst < 0)

/-- Record a decode error (R156, R157): counted each time it is met, raised once per block. -/
def State.waxError (s : State) (k : Nat) (err : WaxErr) : State :=
  let (code, seq, off) := err
  if code = 0 then s
  else
    let s := s.bump (Obj.decodeErrors k)
    let s := s.setReg (Obj.lastError k) (code + 256 * (off % 2 ^ 16) + 2 ^ 32 * seq)
    let c := s.ctx k
    if c.raised.contains seq then s
    else (s.setCtx k { c with raised := seq :: c.raised }).logEvent Ev.waxError (le 2 k ++ le 1 code ++ le 4 seq ++ le 2 off)

/-- Record the errors that decoding has met. -/
def State.noteErrs (s : State) (k : Nat) : List WaxErr → State
  | [] => s
  | e :: t => (s.waxError k e).noteErrs k t

/-- The slot of a line in a strip's buffer. -/
def State.slotAt (s : State) (k n : Nat) : Option Slot := (s.slotsOf k).find? (fun x => x.seq = n)

/-- The CONTEXT_IMAGE bytes of a state (07, CONTEXT_IMAGE). -/
def CtxState.image (c : CtxState) : List Byte :=
  le 4 c.next ++ le 4 c.blockSeq ++ le 2 c.offset ++ le 2 c.done ++ le 1 c.reps ++ le 1 (flag c.poisoned) ++ zeros 2 ++
    padTo 512 (c.hist.getD 3 []) ++ padTo 512 (c.hist.getD 2 []) ++ padTo 512 (c.hist.getD 1 []) ++ padTo 512 (c.hist.getD 0 [])

/-- A primary keeps the checkpoint for the line before a join's snapshot line (12, Rejoining as mate). -/
def State.noteImage (s : State) (k : Nat) (c : CtxState) : State :=
  match s.twin.join with
  | none => s
  | some j =>
    if j.joining = false ∧ k < 128 ∧ c.next = j.snapshot then
      { s with twin := { s.twin with join := some { j with images := Table.put [] j.images k c.image } } }
    else s

/-- Leave out of a list the waiting lines of a context that its working state has passed. -/
def State.withoutStale (s : State) (k next : Nat) : State :=
  { s with decomp := { s.decomp with waiting := s.decomp.waiting.filter (fun j => !(j.stream = k && decide (dist32 j.line next < 0))) } }

/-- The working state moves over a line, decoded or passed poisoned. -/
def State.advance (s : State) (k : Nat) (st : CtxState) : State :=
  let c := s.ctx k
  let s := s.setCtx k { c with work := st, trail := c.trail ++ [st] }
  (s.setReg (Obj.workLine k) st.next).withoutStale k st.next

/-- A poisoned context with nothing decoded ahead passes its next committed line (R157, R164). -/
def State.passAhead (s : State) (k : Nat) : State :=
  match (s.ctx k).trail, s.lineCommitted (s.ctx k).work.next, s.passPoisoned k (s.ctx k).work with
  | [], true, some st => s.advance k st
  | _, _, _ => s

/-- Move a checkpoint over one line (R163, R164): one that has been decoded, or one that a poisoned context passes. A line not yet
decoded keeps it. -/
def State.ckptStep (s : State) (k : Nat) : Option State :=
  let s := s.passAhead k
  let c := s.ctx k
  match c.trail with
  | [] => none
  | st :: t =>
    some (((s.setCtx k { c with ckpt := st, trail := t }).setReg (Obj.checkpointLine k) ((2 ^ 32 - 1 + st.next) % 2 ^ 32)).noteImage k st)

/-- Move a checkpoint up to and including line `n`, as far as its lines have been decoded. -/
def State.ckptTo (s : State) (k n : Nat) : Nat → State
  | 0 => s
  | fuel + 1 =>
    if dist32 n (s.ctx k).ckpt.next < 0 then s
    else match s.ckptStep k with
      | none => s
      | some s' => s'.ckptTo k n fuel

/-- Lines a checkpoint lies behind line `n`. -/
def State.ckptGap (s : State) (k n : Nat) : Nat := (dist32 n (s.ctx k).ckpt.next + 1).toNat

/-- Move the checkpoints of a list of strips up to line `n`, and free the ring space that this lets go (06 R133). -/
def State.ckptAll (s : State) (n : Nat) : List Nat → State
  | [] => s
  | k :: t => ((s.ckptTo k n (s.ckptGap k n)).freeRing k).ckptAll n t

/-- The ledger cause of a line that a fault keeps from being prepared: 8 DRAM, 3 DECODE_ERROR (R157, 17 R374). -/
def faultCause (fault : Option Nat) : Nat := if fault = some 0 then 8 else 3

/-- Whether a line lies in a block marked bad (16 R365, 17 R374). -/
def State.inBad (s : State) (k n : Nat) : Bool := (s.ring k).any (fun b => b.bad && s.blkHolds b n)

/-- Why a strip does not prepare line `n` (R231 conditions 2 and 3). -/
def State.lineFault (s : State) (k n : Nat) : Option Nat :=
  let c := s.ctx k
  if s.inBad k n then some 8
  else match c.trail.find? (fun st => st.next = (n + 1) % 2 ^ 32) with
    | some st => if st.poisoned then some (faultCause st.fault) else none
    | none =>
      if c.work.poisoned && decide (0 ≤ dist32 n c.work.next) && (s.resumeAt k c.work.blockSeq n).isNone then
        some (faultCause c.work.fault)
      else none

/-! ### Engines (01 R28 to R30) -/

/-- Whether an engine works a line of a stream. -/
def State.engineBusy (s : State) (k : Nat) : Bool := s.decomp.engines.any (fun e => e.2.stream = k)

/-- Whether a strip line that waits is needed within the low mark (01 R21, R30). -/
def State.lowWaits (s : State) : Bool :=
  s.decomp.waiting.any (fun w => decide (w.stream < 128) &&
    decide (dist32 w.line (s.reg (Obj.nextArmSeq (groupOf w.stream))) < s.reg Obj.leadLowMark))

/-- Whether a waiting line may be taken now: it is the next of its context, which is free and not restoring; an auxiliary line only while
no engine works one and no strip line is needed within the low mark (R28, R30, 07 R165). -/
def State.jobReady (s : State) (j : Job) : Bool :=
  let c := s.ctx j.stream
  !s.engineBusy j.stream && c.rewind.isNone && decide (c.work.next = j.line) &&
    (decide (j.stream < 128) || (!s.decomp.engines.any (fun e => decide (128 ≤ e.2.stream)) && !s.lowWaits))

/-- Whether one waiting line goes before another (R29): the earliest arming count, then the lower context, then the lower line. An
auxiliary line that may be taken goes first, since one engine at most serves it (R30; log entry 99). -/
def Job.before (a b : Job) : Bool :=
  if decide (128 ≤ a.stream) ≠ decide (128 ≤ b.stream) then decide (128 ≤ a.stream)
  else decide (a.due < b.due) || (decide (a.due = b.due) && (decide (a.stream < b.stream) ||
    (decide (a.stream = b.stream) && decide (dist32 a.line b.line < 0))))

/-- The waiting line that a free engine takes. -/
def State.nextJob (s : State) : Option Job :=
  (s.decomp.waiting.filter s.jobReady).foldl (fun best j =>
    match best with
    | none => some j
    | some b => if j.before b then some j else some b) none

/-- A free engine takes the waiting line with the earliest arming count, and its context reads (R161). -/
def State.takeJob (s : State) (e : Nat) : State :=
  if (Table.find s.decomp.engines e).isSome then s
  else match s.nextJob with
    | none => s
    | some j => ({ s with decomp := { s.decomp with
        engines := Table.insert s.decomp.engines e j, waiting := s.decomp.waiting.erase j } }).askMem (.context j.stream) false 1

/-- The auxiliary streams that have a consumer: reference streams (13 R323), and a maintenance pattern's (10 R250). -/
def State.auxWanted (s : State) : List Nat :=
  let refs := ((List.range 8).map (fun c => s.reg (Obj.refStream c))).filter (fun k => decide (128 ≤ k) && decide (k < 160))
  (match s.taper.maint with
   | some m => m.stream :: refs
   | none => refs).eraseDups

/-- Decoded lines that an auxiliary context holds for its consumer (log entry 99). -/
def auxAhead : Nat := 4

/-- The next line of an auxiliary context to decode ahead of its consumer. -/
def State.auxJob (s : State) (k : Nat) : Option Job :=
  let c := s.ctx k
  let queued := s.decomp.waiting.any (fun j => j.stream = k) || s.engineBusy k
  if decide (c.trail.length < auxAhead) && s.lineCommitted c.work.next && !queued && c.rewind.isNone then
    some { stream := k, line := c.work.next, due := 0, drop := false }
  else none

/-- Every free engine takes a line, while there is one; auxiliary contexts ask for theirs. -/
def State.takeJobs (s : State) : State :=
  let aux := s.auxWanted.filterMap s.auxJob
  let s := { s with decomp := { s.decomp with waiting := s.decomp.waiting ++ aux } }
  (List.range 8).foldl State.takeJob s

/-- Add lines to decode. -/
def State.addJobs (s : State) (js : List Job) : State :=
  ({ s with decomp := { s.decomp with waiting := s.decomp.waiting ++ js } }).takeJobs

/-- The health generation a line is prepared under, and whether under the pending copy (08 R187). -/
def State.genFor (s : State) (n : Nat) : Nat × Bool :=
  match s.health.swap with
  | some sw => if 0 ≤ dist32 n sw then ((s.reg Obj.healthGen + 1) % 2 ^ 32, true) else (s.reg Obj.healthGen, false)
  | none => (s.reg Obj.healthGen, false)

/-- Slots of a strip that hold tentative lines (08 R191). -/
def Slot.tentative (x : Slot) : Bool :=
  match x.st with
  | .decoded | .sent => true
  | _ => false

/-- Write TENTATIVE_HELD of a strip. -/
def State.noteHeld (s : State) (k : Nat) : State :=
  if k < 128 then s.setReg (Obj.tentativeHeld k) ((s.slotsOf k).filter Slot.tentative).length else s

/-- Whether a decoded line goes to its stream's buffer: an auxiliary line, a strip line not yet armed, or one whose LINE_STATE a mate
awaits; the output of another goes to history only (R164; 12 R295). -/
def State.keepsLine (s : State) (k n : Nat) : Bool :=
  decide (128 ≤ k) || decide (0 ≤ dist32 n (s.reg (Obj.nextArmSeq (groupOf k)))) ||
    s.twin.own.any (fun o => o.g = groupOf k && o.seq = n)

/-- Put a decoded line into a stream's buffer (08 R191). -/
def State.putLine (s : State) (k n : Nat) (l : List Byte) : State :=
  if (s.slotAt k n).isSome ∨ s.keepsLine k n = false then s
  else
    let (g, p) := s.genFor n
    let armed := decide (k < 128) && decide (dist32 n (s.reg (Obj.nextArmSeq (groupOf k))) < 0)
    (s.setSlots k (s.slotsOf k ++ [{ seq := n, line := l, gen := g, pend := p, counts := none, outcome := none,
                                     st := if armed then .skipped else .decoded }])).noteHeld k

/-- The checkpoint of a strip follows the lines that its group has passed (R163, R164). -/
def State.ckptUp (s : State) (k : Nat) : State :=
  if k < 128 then s.ckptAll ((2 ^ 32 - 1 + s.reg (Obj.nextArmSeq (groupOf k))) % 2 ^ 32) [k] else s

/-- An engine completes a line (01 R28, 07 R157): the output goes to the line buffer, or is discarded where a rewind met it (R39,
R166). -/
def State.completeJob (s : State) (j : Job) : State :=
  let c := s.ctx j.stream
  if c.work.next ≠ j.line then s
  else match s.decodeFrom j.stream c.work with
    | .absent => s
    | .line l st errs =>
      let s := (s.noteErrs j.stream errs).bump (Obj.linesDecoded j.stream)
      if j.drop then s else ((s.advance j.stream st).putLine j.stream j.line l).ckptUp j.stream
    | .failed st errs =>
      let s := s.noteErrs j.stream errs
      if j.drop then s else (s.advance j.stream st).ckptUp j.stream

/-- Decode the lines of a context up to and including line `n`, as far as its blocks allow (12 R295: a mate corrects lines that it did
not confirm). -/
def State.decodeTo (s : State) (k n : Nat) : Nat → State
  | 0 => s
  | fuel + 1 =>
    let w := (s.ctx k).work.next
    if dist32 n w < 0 ∨ s.lineCommitted w = false then s
    else (s.completeJob { stream := k, line := w, due := 0, drop := false }).decodeTo k n fuel

/-- Decode the lines of each of a list of contexts up to line `n`. -/
def State.decodeAll (s : State) (n : Nat) : List Nat → State
  | [] => s
  | k :: t => (s.decodeTo k n (dist32 n (s.ctx k).work.next + 1).toNat).decodeAll n t

/-! ### Rewind (07 R165, R166) -/

/-- Order a rewind of a context: of two, a CANCEL governs (R166). Jobs that wait are withdrawn, and an engine at work discards its
output (R39). -/
def State.orderRewind (s : State) (cancel : Bool) (line k : Nat) : State :=
  let c := s.ctx k
  let r : Rewind := match c.rewind with
    | none => { cancel := cancel, line := line }
    | some old => { cancel := cancel || old.cancel, line := if cancel then line else old.line }
  let s := s.setCtx k { c with rewind := some r }
  { s with decomp := { s.decomp with
      waiting := s.decomp.waiting.filter (fun j => j.stream ≠ k),
      engines := s.decomp.engines.map (fun e => if e.2.stream = k then (e.1, { e.2 with drop := true }) else e) } }

/-- A history with its oldest lines left out while they are all zeros (a missing line reads as zeros, R153). -/
def trimHist : List (List Byte) → List (List Byte)
  | [] => []
  | l :: t =>
    let r := trimHist t
    if r = [] ∧ l = zeros 512 then [] else l :: r

/-- The state that a CONTEXT_IMAGE spells. -/
def CtxState.ofImage (b : List Byte) : CtxState :=
  { next := field b 0 4, blockSeq := field b 4 4, offset := field b 8 2, done := field b 10 2, reps := field b 12 1,
    poisoned := (field b 13 1).testBit 0,
    hist := trimHist [(b.drop 1552).take 512, (b.drop 1040).take 512, (b.drop 528).take 512, (b.drop 16).take 512] }

/-- Whether a CONTEXT_IMAGE may be written (07 R167). -/
def State.imageOk (s : State) (k : Nat) (b : List Byte) : Bool :=
  decide (b.length = 2064) && decide (field b 13 1 < 2) && decide (field b 14 2 = 0) &&
    match Wax.blockOf (s.ring k) (field b 4 4) with
    | none => false
    | some blk => (Wax.tokenOffsets blk.bytes).contains (field b 8 2)

/-- Take a CONTEXT_IMAGE: both the checkpoint and the working state. -/
def State.takeImage (s : State) (k : Nat) (b : List Byte) : State :=
  let c := CtxState.ofImage b
  let s := s.setCtx k { (s.ctx k) with work := c, ckpt := c, trail := [] }
  (s.setReg (Obj.workLine k) c.next).setReg (Obj.checkpointLine k) ((2 ^ 32 - 1 + c.next) % 2 ^ 32)

end Sys2Proof.Machine
end

