-- ==== Sys2Proof/Machine/Wick.lean ====
section
/-! DEFINITION. The Wick (18): levels in pJ, requests, line decisions, charges and refunds. -/

namespace Sys2Proof

/-- The pools a request names, with the energy from each. -/
def WickReq.pools (r : WickReq) : List (Nat × Nat) :=
  (r.core.toList.map (fun e => (0, e))) ++ (r.head.toList.map (fun e => (1, e))) ++ (r.mach.toList.map (fun e => (2, e)))

/-- The priority class of a requester (R393). -/
def Requester.cls : Requester → Nat
  | .dramSet0 => 1
  | .laneRetrain _ => 2
  | .ledBurst _ => 3
  | .dramTraining => 4
  | .dramSet1 => 4
  | .purgeSpit => 5
  | .maintPattern => 5
  | .stepper _ => 6

/-- Whether a requester waits when its request is deferred (R393). -/
def Requester.waits : Requester → Bool
  | .dramSet0 => false
  | .ledBurst _ => false
  | _ => true

/-- Whether two requests name a pool in common. -/
def WickReq.meets (a b : WickReq) : Bool := a.pools.any (fun x => b.pools.any (fun y => y.1 = x.1))

/-- Whether a request names P_HEAD or P_MACH. -/
def WickReq.widePools (r : WickReq) : Bool := r.pools.any (fun x => decide (x.1 ≠ 0))

end Sys2Proof

namespace Sys2Proof.Machine

/-- The capacity C_p of a pool in pJ: LIMIT × WINDOW (R387). -/
def State.poolCap (s : State) (p : Nat) : Int := (1000000 * (s.reg (Obj.limit p) * s.reg (Obj.window p)) : Nat)

/-- The level of a pool in pJ. -/
def State.poolLevel (s : State) (p : Nat) : Int := if p = 0 then s.wick.core else if p = 1 then s.wick.head else s.wick.mach

/-- Set the level of a pool, held between −C_p and C_p; reaching −C_p sets FLOOR (R387, WICK_STATUS). -/
def State.setLevel (s : State) (p : Nat) (v : Int) : State :=
  let c := s.poolCap p
  let v' := if v < -c then -c else if c < v then c else v
  let s := if v' = -c ∧ v' < s.poolLevel p then s.setBits Obj.wickStatus 8 else s
  { s with wick := if p = 0 then { s.wick with core := v' } else if p = 1 then { s.wick with head := v' }
                   else { s.wick with mach := v' } }

/-- Charge a pool. -/
def State.chargePool (s : State) (p e : Nat) : State := s.setLevel p (s.poolLevel p - e)

/-- Refund a pool. -/
def State.refundPool (s : State) (p e : Nat) : State := if e = 0 then s else s.setLevel p (s.poolLevel p + e)

/-- One REF cycle of refill (R387): LIMIT × 5 ns in each pool, never above C_p. -/
def State.refill (s : State) : State :=
  let r (p : Nat) : Int := s.poolLevel p + (s.reg (Obj.limit p) * 5 : Nat)
  ((s.setLevel 0 (r 0)).setLevel 1 (r 1)).setLevel 2 (r 2)

/-- The answer to a request. -/
inductive WickAnswer where
  | granted | deferred | refused
  deriving DecidableEq, Repr

/-- Advance an object of each pool that a request names. -/
def State.countPools (s : State) (f : Nat → Nat) : List (Nat × Nat) → State
  | [] => s
  | (p, _) :: t => (s.bump (f p)).countPools f t

/-- Charge each pool that a request names. -/
def State.chargeAll (s : State) : List (Nat × Nat) → State
  | [] => s
  | (p, e) :: t => (s.chargePool p e).chargeAll t

/-- Write QUEUED of each pool. -/
def State.noteQueued (s : State) : State :=
  let n (p : Nat) : Nat := (s.wick.queue.filter (fun w => w.req.pools.any (fun x => x.1 = p))).length
  ((s.setReg (Obj.queued 0) (n 0)).setReg (Obj.queued 1) (n 1)).setReg (Obj.queued 2) (n 2)

/-- Whether the mode lets the Wick answer for a pool (R396). -/
def State.poolOpen (s : State) (p : Nat) : Bool :=
  match s.mode with
  | .dark => false
  | .kindle => decide (p = 0)
  | .snuff => decide (p = 0)
  | _ => true

/-- Whether one deferred request goes before another (R394): by class, and oldest first. -/
def WickWait.ahead (a : WickWait) (cls id : Nat) : Bool :=
  decide (a.req.who.cls < cls) || (decide (a.req.who.cls = cls) && decide (a.id < id))

/-- Whether every named level covers a request, and no deferred request ahead of it names one of its pools. -/
def State.coverable (s : State) (r : WickReq) (id : Nat) : Bool :=
  r.pools.all (fun x => decide ((x.2 : Int) ≤ s.poolLevel x.1)) &&
    !s.wick.queue.any (fun w => w.ahead r.who.cls id && decide (w.id ≠ id) && w.req.meets r)

/-- Give leave: charge and count the grant. -/
def State.giveLeave (s : State) (r : WickReq) : State :=
  let s := (s.chargeAll r.pools).countPools Obj.grants r.pools
  { s with wick := { s.wick with leave := s.wick.leave ++ [r.who], fresh := s.wick.fresh ++ [r] } }

/-- Refuse: count, and set REFUSED. -/
def State.refuseLeave (s : State) (r : WickReq) : State := (s.countPools Obj.refusals r.pools).setBits Obj.wickStatus 4

/-- The largest energy of a request in one event, of the energy `e` it asks a pool for: one strobe line of a maintenance pattern, and the whole
of any other (R388). -/
def reqPeak (r : Sys2Proof.WickReq) (e : Nat) : Nat := if r.who = .maintPattern then r.peak else e

/-- The answer to a request, and the state after it (R394 to R396). -/
def State.ask (s : State) (r : WickReq) : WickAnswer × State :=
  if r.who = .dramSet0 then
    if s.mode = .dark ∨ s.blockUp Block.wick = false then
      (.granted, { s with wick := { s.wick with leave := s.wick.leave ++ [r.who] } })
    else (.granted, s.giveLeave r)
  else if s.mode = .dark ∨ s.blockUp Block.wick = false then (.refused, s)
  else if r.pools.any (fun x => !s.poolOpen x.1) ∨
      r.pools.any (fun x => decide (s.poolCap x.1 < x.2) || decide (1000000 * s.reg (Obj.peak x.1) < reqPeak r x.2)) then
    (.refused, s.refuseLeave r)
  else if s.coverable r s.wick.nextId then (.granted, s.giveLeave r)
  else
    let s := s.countPools Obj.defers r.pools
    if r.who.waits then
      let w : WickWait := { id := s.wick.nextId, req := r }
      (.deferred, ({ s with wick := { s.wick with queue := s.wick.queue ++ [w], nextId := s.wick.nextId + 1 } }).noteQueued)
    else (.deferred, s)

/-- The deferred request that is granted first: the first in order among those that every named level covers. -/
def State.nextGrant (s : State) : Option WickWait :=
  s.wick.queue.foldl (fun best w =>
    if s.coverable w.req w.id then
      match best with
      | none => some w
      | some b => if w.ahead b.req.who.cls b.id then some w else some b
    else best) none

/-- Take a deferred request off the queue. -/
def State.unqueue (s : State) (id : Nat) : State :=
  ({ s with wick := { s.wick with queue := s.wick.queue.filter (fun w => w.id ≠ id) } }).noteQueued

/-- Whether a requester has leave that it has not yet used. -/
def State.hasLeave (s : State) (r : Requester) : Bool := s.wick.leave.contains r

/-- Use leave. -/
def State.useLeave (s : State) (r : Requester) : State :=
  { s with wick := { s.wick with leave := s.wick.leave.erase r } }

/-- Whether a purge and spit waits for leave or has it (02 R43). -/
def State.purging (s : State) : Bool := s.hasLeave .purgeSpit || s.wick.queue.any (fun w => decide (w.req.who = .purgeSpit))

/-- A purge and spit ends, or its request is withdrawn: at STOP_ALL and at SNUFF (log entry 95). -/
def State.endPurge (s : State) : State :=
  ({ s with wick := { s.wick with leave := s.wick.leave.filter (fun r => r ≠ Requester.purgeSpit),
                                  queue := s.wick.queue.filter (fun w => w.req.who ≠ Requester.purgeSpit) } }).noteQueued

/-- Refuse each of a list of deferred requests. -/
def State.refuseEach (s : State) : List WickWait → State
  | [] => s
  | w :: t => ((s.unqueue w.id).refuseLeave w.req).refuseEach t

/-- Withdraw each of a list of grants, and refund it (R401). -/
def State.withdrawEach (s : State) : List WickReq → State
  | [] => s
  | r :: t => ((r.pools.foldl (fun s x => s.refundPool x.1 x.2) s).useLeave r.who).withdrawEach t

/-- SNUFF entry at the Wick (R396, R401): every deferred request that names P_HEAD or P_MACH is refused, and a grant of the same REF cycle is
withdrawn. -/
def State.wickSnuff (s : State) : State :=
  let s := s.refuseEach (s.wick.queue.filter (fun w => w.req.widePools))
  (s.withdrawEach (s.wick.fresh.filter WickReq.widePools)).endPurge

/-! ### Lines (R389 to R392) -/

/-- The energy of drop counts in pJ (R389). -/
def State.lineEnergy (s : State) (c : Counts) : Nat :=
  c.small * s.reg Obj.eSmall + c.medium * s.reg Obj.eMedium + c.large * s.reg Obj.eLarge

/-- The outcome of a line request, and its charge in pJ (R389). -/
def State.lineOutcome (s : State) (c : Counts) : WickOut × Nat :=
  let light := 1000000 * s.reg Obj.lightThreshold
  let peak := 1000000 * s.reg (Obj.peak 1)
  let fits (e : Nat) : Bool := decide (e ≤ light) || (decide (e ≤ peak) && decide ((e : Int) ≤ s.wick.head))
  let e := s.lineEnergy c
  if fits e then (.grant, e)
  else if s.reg Obj.linePolicy = 0 then
    let ed := e - c.large * (s.reg Obj.eLarge - s.reg Obj.eMedium)
    if fits ed then (.demote, ed) else (.skip, 0)
  else (.skip, 0)

/-- The decision held for a group line. -/
def State.decidedFor (s : State) (g n : Nat) : Option GLine := s.taper.decided.find? (fun d => d.g = g && d.seq = n)

/-- Give each strip of a group the outcome of a line (08 R191). -/
def State.tagOutcome (s : State) (n : Nat) (o : WickOut) : List Nat → State
  | [] => s
  | k :: t =>
    (s.setSlots k ((s.slotsOf k).map (fun x => if x.seq = n then { x with outcome := some o } else x))).tagOutcome n o t

/-- Hold a decision for a group line. -/
def State.holdDecision (s : State) (g n : Nat) (o : WickOut) (charge : Nat) : State :=
  let d : GLine := { g := g, seq := n, out := o, charge := charge }
  let s' := { s with taper := { s.taper with decided := s.taper.decided ++ [d] } }
  s'.tagOutcome n o (s.liveStrips g)

/-- Count and raise a demotion or a Wick skip (R390). -/
def State.noteOutcome (s : State) (g n : Nat) (o : WickOut) : State :=
  let grp := s.group g
  match o with
  | .grant => s
  | .demote =>
    let s := (s.bump Obj.linesDemoted).setBits Obj.wickStatus 1
    if lineApart 1000 n grp.wickDemote then
      (s.setGroup g { grp with wickDemote := some n }).logEvent Ev.wickDemote []
    else s
  | .skip =>
    if lineApart 1000 n grp.wickSkip then
      (s.setGroup g { grp with wickSkip := some n }).logEvent Ev.wickSkip []
    else s

/-- Forget the decision for a group line, and refund its charge to P_HEAD (R391). -/
def State.refundLine (s : State) (g n : Nat) : State :=
  match s.decidedFor g n with
  | none => s
  | some d =>
    let s := { s with taper := { s.taper with decided := s.taper.decided.filter (fun x => !(x.g = g && x.seq = n)) } }
    s.refundPool 1 d.charge

/-- Forget the decision for a line that has fired. -/
def State.dropDecision (s : State) (g n : Nat) : State :=
  { s with taper := { s.taper with decided := s.taper.decided.filter (fun x => !(x.g = g && x.seq = n)) } }

/-- Refund each decision of a group for a line at or after `n`. -/
def State.refundFrom (s : State) (g n : Nat) : State :=
  (s.taper.decided.filter (fun d => d.g = g && decide (0 ≤ dist32 d.seq n))).foldl (fun x d => x.refundLine g d.seq) s

end Sys2Proof.Machine
end

