-- ==== Sys2Proof/Machine/Head.lean ====
section
/-! DEFINITION. The head link (11): frames, CTRL commands, the state a module is told, and the lanes. -/

namespace Sys2Proof.Machine

/-- Frame types (R256). -/
def frLine : Nat := 0x01
def frTrim : Nat := 0x02
def frCtrl : Nat := 0x03
def frConfirm : Nat := 0x10
def frCancel : Nat := 0x11
def frTime : Nat := 0x12

/-- The role field of a frame that concerns line `n`: from the swap line of a role swap on, the roles are exchanged (R288, R301). -/
def State.roleFor (s : State) (n : Nat) : Role :=
  match s.twin.swap with
  | none => s.role
  | some (f, _) =>
    if 0 ≤ dist32 n f then
      match s.role with
      | .primary => .mate
      | .mate => .primary
      | r => r
    else s.role

/-- A frame: header, payload and check value (R258, R259). -/
def headFrame (ty : Nat) (role : Role) (m row seq : Nat) (payload : List Byte) : List Byte :=
  let body := le 1 ty ++ le 1 role.code ++ le 1 m ++ le 1 row ++ le 4 seq ++ payload
  body ++ le 4 (crcIdent m seq body)

/-- Send a frame on a head lane. -/
def State.sendHead (s : State) (ty : Nat) (role : Role) (m row seq : Nat) (payload : List Byte) : State :=
  s.emit (.head m (headChars (headFrame ty role m row seq payload)))

/-- Whether a head lane is up. -/
def State.laneUp (s : State) (m : Nat) : Bool := decide (s.reg (Obj.laneState m) = 2)

/-- The populated head lanes that are up. -/
def State.upLanes (s : State) : List Nat := (List.range 32).filter (fun m => s.populated m && s.laneUp m)

/-- Send a CTRL frame to a module: its sequence counts from 1 after each bring-up, and it is kept until acknowledged (R265). -/
def State.sendCtrl (s : State) (m op : Nat) (args : List Byte) : State :=
  let h := s.head m
  let c : Ctrl := { seq := h.ctrlNext, op := op, args := padTo 12 args, resends := 0 }
  let s := s.setHead m { h with ctrlNext := (h.ctrlNext + 1) % 2 ^ 32, unacked := h.unacked ++ [c] }
  s.sendHead frCtrl s.role m 0 c.seq (le 1 op ++ zeros 3 ++ c.args)

/-- Send a CTRL frame to each of a list of modules. -/
def State.ctrlAll (s : State) (op : Nat) (args : List Byte) : List Nat → State
  | [] => s
  | m :: t => (s.sendCtrl m op args).ctrlAll op args t

/-- The state a module is told in a mode (11, bring-up step 6): STANDBY, READY or MAINTENANCE. -/
def Mode.headState : Mode → Nat
  | .pilot | .lit => 1
  | .trim => 2
  | _ => 0

/-- CTRL STATE for the present mode to every lane that is up: sent at every mode change. -/
def State.tellState (s : State) : State := s.ctrlAll 0x01 (le 1 s.mode.headState) s.upLanes

/-- FIRE_RESET to every lane that is up: by a chip that is not MATE (R265, R289). -/
def State.fireReset (s : State) : State := if s.role = .mate then s else s.ctrlAll 0x06 [] s.upLanes

/-- The 16 TRIM frames of the present table generation to a module (R264). -/
def State.sendTrim (s : State) (m : Nat) : State :=
  let tbl := s.domBytes Obj.placementTrim
  (List.range 16).foldl (fun s i =>
    let row := i / 4
    let seg := i % 4
    let at_ := 2048 * (4 * m + row) + 512 * seg
    s.sendHead frTrim s.role m row s.trimGen (le 1 seg ++ zeros 3 ++ padTo 512 ((tbl.drop at_).take 512))) s

/-- TRIM frames to each of a list of modules. -/
def State.sendTrims (s : State) (l : List Nat) : State := l.foldl State.sendTrim s

/-- A TIME frame on a lane: the Beacon time at which it leaves (R263). -/
def State.sendTime (s : State) (m : Nat) : State :=
  let h := s.head m
  (s.setHead m { h with timeNext := (h.timeNext + 1) % 2 ^ 32 }).sendHead frTime s.role m 0 h.timeNext (le 10 s.now ++ zeros 2)

/-- TIME frames on each of a list of lanes. -/
def State.sendTimes (s : State) : List Nat → State
  | [] => s
  | m :: t => (s.sendTime m).sendTimes t

/-- Set flags of a lane's LANE_STATUS. -/
def State.laneFlag (s : State) (m mask : Nat) : State := s.setBits (Obj.laneStatus m) mask

end Sys2Proof.Machine
end

