-- ==== Sys2Proof/Machine/Strip.lean ====
section
/-! DEFINITION. The strip engines (08): stitch, compensation, remap, density trim, counts, LINE payloads; and the writers of the
health map. -/

namespace Sys2Proof.Machine

/-! ### Codes and health entries -/

/-- Drop code of nozzle `p` in a strip line (R169). -/
def codeAt (l : List Byte) (p : Nat) : Nat := (l.getD (p / 4) 0).toNat / 4 ^ (p % 4) % 4

/-- The 2,048 codes of a strip line. -/
def codesOf (l : List Byte) : List Nat :=
  (padTo 512 l).flatMap (fun b => [b.toNat % 4, b.toNat / 4 % 4, b.toNat / 16 % 4, b.toNat / 64 % 4])

/-- The strip line that codes spell. -/
def lineOf : List Nat → List Byte
  | a :: b :: c :: d :: t => BitVec.ofNat 8 (a % 4 + 4 * (b % 4) + 16 * (c % 4) + 64 * (d % 4)) :: lineOf t
  | _ => []

/-- STATE of a health entry (R178): 0 GOOD, 1 WEAK, 2 OUT, 3 MASKED. -/
def healthState (e : Nat) : Nat := e % 4

/-- Whether an entry is pinned. -/
def healthPin (e : Nat) : Bool := e.testBit 3

/-- The copy of the health map that governs lines at or after a pending swap line, or those below it. -/
def State.mapFor (s : State) (pend : Bool) : Table Nat := if pend then s.health.pending else s.health.active

/-- The 131,072 bytes of a copy of the health map (R178). -/
def healthBytes (t : Table Nat) : List Byte :=
  (List.range 131072).map (fun i => BitVec.ofNat 8 (Table.get 0 t (2 * i) % 16 + 16 * (Table.get 0 t (2 * i + 1) % 16)))

/-! ### Stitch (R170, R174) -/

/-- Whether the lower module owns overlap position `j` between strip `lo` and the strip above it in the same row, on line `n`, when both
modules are populated (R174 cases 2 and 3). -/
def State.lowerOwns (s : State) (map : Table Nat) (lo j n : Nat) : Bool :=
  let live (g : Nat) : Bool := decide (healthState (Table.get 0 map g) < 2)
  let a := live (2048 * lo + 2016 + j)
  let b := live (2048 * (lo + 4) + j)
  if a && !b then true
  else if b && !a then false
  else
    match s.reg (Obj.stitchMode lo) with
    | 0 => (field (s.dom Obj.blendPattern) (4 * (n % 64)) 4).testBit j
    | 1 => decide (j < 16)
    | _ => true

/-- Whether strip `st` owns the position of its nozzle `p` on line `n` (R174). -/
def State.owns (s : State) (map : Table Nat) (st p n : Nat) : Bool :=
  let m := st / 4
  if 2016 ≤ p ∧ m < 31 ∧ s.populated (m + 1) = true then s.lowerOwns map st (p - 2016) n
  else if p < 32 ∧ 0 < m ∧ s.populated (m - 1) = true then !s.lowerOwns map (st - 4) p n
  else true

/-! ### Steps 1 to 5 of R171 -/

/-- Codes while compensation runs, with the drops received and lost. -/
structure Comp where
  codes : List Nat
  comp : Nat
  lost : Nat
  deriving DecidableEq, Repr

/-- Whether a neighbour is usable (R180). -/
def usable (health : Nat → Nat) (own : Nat → Bool) (q : Int) : Bool :=
  decide (0 ≤ q) && decide (q ≤ 2047) && decide (healthState (health q.toNat) = 0) && own q.toNat

/-- Give a drop to a neighbour. -/
def Comp.give (c : Comp) (q : Nat) (f : Nat → Nat) : Comp :=
  { c with codes := c.codes.set q (f (c.codes.getD q 0)), comp := c.comp + 1 }

/-- Give out the drop `v` of the OUT nozzle `p` (R180). -/
def Comp.out (c : Comp) (mode n p v : Nat) (health : Nat → Nat) (own : Nat → Bool) : Comp :=
  let left : Int := (p : Int) - 1
  let right : Int := (p : Int) + 1
  let alone : Comp := { c with lost := c.lost + 1 }
  match mode with
  | 0 => alone
  | 1 =>
    let a := if n % 2 = 0 then left else right
    let b := if n % 2 = 0 then right else left
    let take (q : Int) : Comp := c.give q.toNat (fun x => if x = 0 then v else min 3 (max x v + 1))
    if usable health own a then take a else if usable health own b then take b else alone
  | _ =>
    let f := fun x => max x v
    let l := usable health own left
    let r := usable health own right
    let c1 := if l then c.give left.toNat f else c
    let c2 := if r then c1.give right.toNat f else c1
    if !l && !r then alone else c2

/-- The remapped code (R181). -/
def remap (r c : Nat) : Nat := r / 4 ^ c % 4

/-- The code after density trim `t` (R182). -/
def density (c : Nat) (t : Int) (n p : Nat) : Nat :=
  let theta := revBits 8 ((n + 37 * p) % 256)
  if t < 0 ∧ 0 < c ∧ theta < 2 * t.natAbs then c - 1
  else if 0 < t ∧ (c = 1 ∨ c = 2) ∧ (theta : Int) < 2 * t then c + 1
  else c

/-- The corrected codes of line `n` of strip `st`, with the compensation counts (R171 steps 1 to 4, R172). -/
def State.correct (s : State) (map : Table Nat) (st n : Nat) (line : List Byte) : Comp :=
  let d := codesOf line
  let health (p : Nat) : Nat := Table.get 0 map (2048 * st + p)
  let own (p : Nat) : Bool := s.owns map st p n
  let ps := List.zip (List.range 2048) d
  let c1 := ps.map (fun x => if own x.1 && decide (healthState (health x.1) < 2) then x.2 else 0)
  let start : Comp := { codes := c1, comp := 0, lost := 0 }
  let c2 := (ps.filter (fun x => decide (healthState (health x.1) = 2) && own x.1 && decide (0 < x.2))).foldl
    (fun c x => c.out (s.reg (Obj.compMode st)) n x.1 x.2 health own) start
  let r := s.reg (Obj.dropRemap st)
  let trims := ((s.domBytes Obj.densityTrim).drop (2048 * st)).take 2048
  let c4 := (List.zip (List.range 2048) (List.zip c2.codes trims)).map
    (fun x => density (remap r x.2.1) (toSigned 8 x.2.2.toNat) n x.1)
  { c2 with codes := c4 }

/-- The drop counts of corrected codes (R171 step 5). -/
def Comp.counts (c : Comp) : Counts :=
  { small := c.codes.count 1, medium := c.codes.count 2, large := c.codes.count 3, comp := c.comp, lost := c.lost }

/-- Codes after the Wick outcome (R183). -/
def demoteCodes (o : WickOut) (c : List Nat) : List Nat :=
  match o with
  | .demote => c.map (fun x => if x = 3 then 2 else x)
  | _ => c

/-- The LINE payload of a slot: the corrected line after the Wick outcome (R184, R193). -/
def State.linePayload (s : State) (st : Nat) (x : Slot) : List Byte :=
  lineOf (demoteCodes (x.outcome.getD .grant) (s.correct (s.mapFor x.pend) st x.seq x.line).codes)

/-- The counts of a slot: as given to the Wick, or corrected now. -/
def State.slotCounts (s : State) (st : Nat) (x : Slot) : Counts :=
  match x.counts with
  | some c => c
  | none => (s.correct (s.mapFor x.pend) st x.seq x.line).counts

/-! ### Slots (R191, R192) -/

/-- Change the slot of a line. -/
def State.modSlot (s : State) (st n : Nat) (f : Slot → Slot) : State :=
  s.setSlots st ((s.slotsOf st).map (fun x => if x.seq = n then f x else x))

/-- Whether a slot is freed: its line has fired or been skipped, and four newer lines have been confirmed or skipped (R192), whether they hold
a slot or not. `next` is the first line of the strip not yet confirmed or skipped. -/
def slotFree (next : Nat) (x : Slot) : Bool :=
  (decide (x.st = .fired) || decide (x.st = .skipped)) && decide (5 ≤ dist32 next x.seq)

/-- Free the slots of a strip that R192 lets go; a mate keeps what it counts for a LINE_STATE still to come (12 R295). -/
def State.trimSlots (s : State) (st : Nat) : State :=
  let next := s.reg (Obj.nextArmSeq (groupOf st))
  (s.setSlots st ((s.slotsOf st).filter (fun x => !slotFree next x || s.twin.own.any (fun o => o.g = groupOf st && o.seq = x.seq)))).noteHeld st

/-- Put the slot of a line in each of a list of strips into a state. -/
def State.slotState (s : State) (n : Nat) (x : SlotSt) : List Nat → State
  | [] => s
  | k :: t => ((s.modSlot k n (fun y => { y with st := x })).trimSlots k).slotState n x t

/-- Lines of a group sent tentative ahead of the next line due for confirmation (01, lead): consecutive lines whose frames every strip
of the group has sent. -/
def State.leadOf (s : State) (g : Nat) : Nat :=
  let strips := s.liveStrips g
  let n := s.reg (Obj.nextArmSeq g)
  let sent (i : Nat) : Bool := strips.all (fun k =>
    match s.slotAt k ((n + i) % 2 ^ 32) with
    | some x => decide (x.st = .sent)
    | none => false)
  if strips = [] then 0 else ((List.range 64).takeWhile sent).length

/-! ### Writers of the health map (R178, R179) -/

/-- Writers, as a publish record carries them: record code = writer × 16 + entry. -/
def byHost : Nat := 0
def byLantern : Nat := 1
def byHead : Nat := 2

/-- The entry that a record makes of an old entry (R179, R35, R36). -/
def editEntry (old code : Nat) : Nat :=
  let e := code % 16
  if code / 16 = byHost then clearMask e 4
  else if healthPin old || decide (2 ≤ healthState old) then old
  else if code / 16 = byLantern then (if e % 4 = 3 then old else e % 4)
  else 6

/-- Apply records to a copy of the map; a later record of a nozzle stands over an earlier one. -/
def applyRecs (t : Table Nat) : List (Nat × Nat) → Table Nat
  | [] => t
  | (g, c) :: r => applyRecs (Table.put 0 t g (editEntry (Table.get 0 t g) c)) r

/-- HEALTH_EDIT records as they lie in a block (08, HEALTH_EDIT): none where the write is to be refused. -/
def parseEdit (content : List Byte) : Option (List (Nat × Nat)) :=
  let n := content.length / 4
  if content.length % 4 ≠ 0 ∨ n < 1 ∨ 16384 < n then none
  else
    let recs := (chunks 4 n content).map fromLe
    if recs.any (fun r => decide (2 ^ 21 ≤ r)) then none
    else some (recs.map (fun r => (r % 2 ^ 18, bits r 19 18 + 8 * bits r 20 20)))

/-- A record in the HEALTH_EDIT layout, from a nozzle and its entry. -/
def editWord (g e : Nat) : Nat := g % 2 ^ 18 + 2 ^ 18 * healthState e + 2 ^ 20 * flag (healthPin e)

/-- OUT_NOZZLES of a strip: nozzles OUT or MASKED in the active copy. -/
def State.outNozzles (s : State) (st : Nat) : Nat :=
  (s.health.active.filter (fun x => decide (x.1 / 2048 = st) && decide (2 ≤ healthState x.2))).length

end Sys2Proof.Machine
end

