-- ==== Sys2Proof/Machine/Lines.lean ====
section
/-! DEFINITION. What becomes of lines: the ledger and the counters of fired and skipped lines (01 R14; 10 R243 to R246; 12 R292, R295,
R306), CANCEL (10 R244), and publishes of the health map (08 R186 to R189). -/

namespace Sys2Proof.Machine

/-! ### The ledger channel (12 R306) -/

/-- A ledger record: kind, index, body. -/
def ledgerRecord (kind index : Nat) (body : List Byte) : List Byte := le 1 kind ++ zeros 3 ++ le 4 index ++ padTo 24 body

/-- A ledger entry (10 R245). -/
def Entry.bytes (e : Entry) : List Byte :=
  le 4 e.seq ++ le 4 e.page ++ le 1 e.group ++ le 1 e.cause ++ le 1 e.strip ++ le 1 (flag e.confirmed) ++ le 10 e.time ++ zeros 2

/-- Whole records at the end of the ledger channel's input, without those whose ledger entry has been overwritten (15 R352). -/
def keepRecords (total : Nat) (input : List Byte) : List Byte :=
  let part := input.length % 32
  input.take part ++ ((chunks 32 (input.length / 32) (input.drop part)).filter
    (fun r => !(field r 0 1 = 1 && decide (4096 < (2 ^ 32 + total - field r 4 4) % 2 ^ 32)))).flatten

/-- Report a record to the host: by the chip that is SOLO or PRIMARY. A MATE keeps its PAGE_DONE records for a promotion. -/
def State.report (s : State) (kind index : Nat) (body : List Byte) : State :=
  if s.role = .mate then
    (if kind = 2 then { s with twin := { s.twin with pagesDone := (index, body) :: s.twin.pagesDone } } else s)
  else
    let c := s.chan 0
    s.setChan 0 { c with input := keepRecords (s.reg Obj.skipsTotal % 2 ^ 32) c.input ++ ledgerRecord kind index body }

/-- SKIP_LEDGER as it reads (10 R246): entry i at byte 24 × (i mod 4,096). -/
def State.ledgerImage (s : State) : List Byte :=
  let total := s.reg Obj.skipsTotal
  (List.range 4096).flatMap (fun i =>
    match s.taper.ledger[(4095 + total - i) % 4096]? with
    | some e => e.bytes
    | none => zeros 24)

/-! ### Books of a line -/

/-- The copy of the health map of a generation: the pending one, the active one, or one that it has replaced. -/
def State.mapOfGen (s : State) (gen : Nat) : Table Nat :=
  match (2 ^ 32 + s.reg Obj.healthGen - gen) % 2 ^ 32 with
  | 0 => s.health.active
  | d + 1 => if d + 2 = 2 ^ 32 then s.health.pending else (s.health.past[d]?.map Prod.snd).getD s.health.active

/-- Counters of one strip for a fired line (08 R185), corrected under the generation `gen`. -/
def State.stripFired (s : State) (n gen : Nat) (o : WickOut) (k : Nat) : State :=
  let s := s.bump (Obj.linesFired k)
  match s.slotAt k n with
  | none => s
  | some x =>
    let c := match x.counts with
      | some c => if x.gen = gen then c else (s.correct (s.mapOfGen gen) k n x.line).counts
      | none => (s.correct (s.mapOfGen gen) k n x.line).counts
    let dem := if o = .demote then c.large else 0
    let s := (s.count (Obj.dropsSmall k) c.small).count (Obj.dropsMedium k) (c.medium + dem)
    let s := (s.count (Obj.dropsLarge k) (c.large - dem)).count (Obj.compDrops k) c.comp
    (s.count (Obj.lostDrops k) c.lost).count (Obj.demotedDrops k) dem

/-- Counters of each of a list of strips for a fired line. -/
def State.stripsFired (s : State) (n gen : Nat) (o : WickOut) : List Nat → State
  | [] => s
  | k :: t => (s.stripFired n gen o k).stripsFired n gen o t

/-- Advance a counter of each of a list of strips. -/
def State.bumpEach (s : State) (f : Nat → Nat) : List Nat → State
  | [] => s
  | k :: t => (s.bump (f k)).bumpEach f t

/-- Counters of a confirmed line (R233, R234, R237, R241). -/
def State.confirmBooks (s : State) (flags : Nat) (lateArm : Bool) : State :=
  if flags.testBit 0 then
    let s := s.bump Obj.linesConfirmed
    let s := if flags.testBit 1 then s.bump Obj.lateFires else s
    let s := if flags.testBit 2 then s.bump Obj.countLockedLines else s
    if lateArm then s.bump Obj.lateArms else s
  else s

/-- Count a skipped line of a group towards a burst (R243). -/
def State.burst (s : State) (g cause seq : Nat) : State :=
  if cause = 6 then s
  else
    let grp := s.group g
    let n := grp.skips + 1
    let reached := decide (s.reg Obj.skipLimit ≤ n) && !grp.burst
    let s := s.setGroup g { grp with skips := n, burst := grp.burst || reached }
    if reached then
      let s := if s.reg Obj.skipPolicy = 1 then s.setCause Cause.skipPolicy else s
      s.logEvent Ev.skipBurst (le 1 g ++ le 1 cause ++ le 4 seq)
    else s

/-- SKIPS_TOTAL after an entry: the primary's index as a LINE_STATE carries it, or the next one. -/
def State.nextTotal (s : State) (total : Option Nat) : Nat :=
  let own := countValue Obj.skipsTotal (s.reg Obj.skipsTotal) 1
  match total with
  | none => own
  | some t => if own % 2 ^ 32 = t then own else 2 ^ 32 * (own / 2 ^ 32) + t

/-- Enter a line in the skip ledger (R245, R246). -/
def State.ledgerEntry (s : State) (e : Entry) (total : Option Nat) : State :=
  let t := s.nextTotal total
  let s := if 4096 ≤ s.taper.ledger.length then s.bump Obj.ledgerOverwritten else s
  let s := s.setReg Obj.skipsTotal t
  let s := { s with taper := { s.taper with ledger := (e :: s.taper.ledger).take 4096 } }
  s.report 1 ((2 ^ 64 - 1 + t) % 2 ^ 32) e.bytes

/-- The books of a skipped line. -/
def State.skipBooks (s : State) (x : LineSt) (total : Option Nat) : State :=
  let strips := s.liveStrips x.group
  let s := s.ledgerEntry { seq := x.seq, page := x.page, group := x.group, cause := x.cause, strip := x.strip,
                           confirmed := x.flags.testBit 0, time := x.time } total
  let s := s.bumpEach Obj.spLinesSkipped strips
  let s := if x.cause = 2 then s.bump Obj.lateLines else s
  let s := if x.cause = 4 then (s.bump Obj.wkLinesSkipped).setBits Obj.wickStatus 2 else s
  let s := s.refundLine x.group x.seq
  let s := s.slotState x.seq .skipped strips
  s.burst x.group x.cause x.seq

/-- The books of a fired line. -/
def State.fireBooks (s : State) (x : LineSt) : State :=
  let strips := s.liveStrips x.group
  let s := s.stripsFired x.seq x.gen (if x.wick = 1 then .demote else .grant) strips
  let s := s.slotState x.seq .fired strips
  let s := s.setGroup x.group { s.group x.group with skips := 0, burst := false }
  s.dropDecision x.group x.seq

/-- Count a line in its page. -/
def State.pageCount (s : State) (n : Nat) (fired : Bool) : State :=
  match s.pageOf n with
  | none => s
  | some p => s.modPage p.id (fun q => if fired then { q with fired := q.fired + 1 } else { q with skipped := q.skipped + 1 })

/-- Log LINES_PRINTED, but while the pulse of the page's last line is up: a reset that cuts the pulse leaves no record of it (03 R81). -/
def State.logPrinted (s : State) (g : Option Nat) (detail : List Byte) : State :=
  match g with
  | some g =>
    if (s.group g).pulse then { s with taper := { s.taper with printed := s.taper.printed ++ [(g, detail)] } }
    else s.logEvent Ev.linesPrinted detail
  | none => s.logEvent Ev.linesPrinted detail

/-- Close each of a list of done pages: LINES_PRINTED, PAGE_DONE, and the end of an index hold (R218, R306). `g` is the group of the line
that ends them. -/
def State.closeEach (s : State) (g : Option Nat) (time : Nat) : List Page → State
  | [] => s
  | p :: t =>
    let s := { s with raster := { s.raster with pages := s.raster.pages.filter (fun q => q.id ≠ p.id) } }
    let s := s.logPrinted g (le 4 p.id ++ le 4 p.fired ++ le 4 p.skipped)
    let s := s.report 2 p.id (le 4 p.fired ++ le 4 p.skipped ++ le 10 time)
    let s := if s.taper.holdPage = some p.id then s.setCause Cause.encIndex else s
    s.closeEach g time t

/-- Close every page that is done. -/
def State.closePages (s : State) (g : Option Nat) (time : Nat) : State := s.closeEach g time (s.raster.pages.filter s.pageDone)

/-- Free ring space in every stream. -/
def State.freeAll (s : State) : State := s.freeRings (s.raster.rings.map Prod.fst)

/-- Enter a fired or skipped group line in the books (R14). -/
def State.settle (s : State) (x : LineSt) (lateArm : Bool) (total : Option Nat) : State :=
  let s := s.confirmBooks x.flags lateArm
  let s := if x.outcome = 0 then s.fireBooks x else s.skipBooks x total
  let s := s.pageCount x.seq (decide (x.outcome = 0))
  (s.freeAll).closePages (some x.group) x.time

/-- A mate has passed a line: it waits for the primary's LINE_STATE, unless that has come already. -/
def State.holdOwn (s : State) (own : Own) : State :=
  if s.twin.early.contains (own.g, own.seq) then
    { s with twin := { s.twin with early := s.twin.early.erase (own.g, own.seq) } }
  else { s with twin := { s.twin with own := s.twin.own ++ [own] } }

/-- A group line has fired or been skipped on this chip: it enters the books at once, and a PRIMARY copies it to the mate (R292);
a MATE waits for the primary's LINE_STATE (R295). A line whose LINE_STATE had come before a promotion is in the books already. -/
def State.passLine (s : State) (x : LineSt) (lateArm : Bool) (own : Own) : State :=
  if s.twin.early.contains (own.g, own.seq) then s.holdOwn own
  else match s.roleFor x.seq with
  | .mate => s.holdOwn own
  | r =>
    let s := s.settle x lateArm none
    if r = .primary then
      let y := { x with total := s.reg Obj.skipsTotal % 2 ^ 32 }
      { s with twin := { s.twin with sendQueue := s.twin.sendQueue ++ [y] } }
    else s

/-- The Wick outcome held for a group line, as a LINE_STATE carries it. -/
def State.wickOf (s : State) (g n : Nat) : Nat :=
  let d := if s.roleFor n = .mate then s.twin.decisions.find? (fun d => d.g = g && d.seq = n) else s.decidedFor g n
  match d with
  | some d => flag (decide (d.out = .demote))
  | none => 0

/-- The line state of a confirmed line; a fired one carries the time of its edge (12 R292). -/
def State.confLine (s : State) (g : Nat) (c : Conf) (outcome cause strip : Nat) : LineSt :=
  let time := match c.edge with
    | some e => if outcome = 0 then time80OfNs ((e + c.lag) / 1000) else s.now
    | none => s.now
  { seq := c.seq, page := c.page, group := g, outcome := outcome, cause := cause, strip := strip, time := time,
    wick := s.wickOf g c.seq, flags := 1 + 2 * flag c.late + 4 * flag c.locked, gen := c.gen, total := 0 }

/-- A confirmed line has fired. -/
def State.fireConf (s : State) (g : Nat) (c : Conf) : State :=
  s.passLine (s.confLine g c 0 0 255) c.lateArm
    { g := g, seq := c.seq, page := c.page, edge := c.edge, cause := none, conf := some c }

/-- A confirmed line has not fired. -/
def State.skipConf (s : State) (g : Nat) (c : Conf) (cause strip : Nat) : State :=
  s.passLine (s.confLine g c 1 cause strip) c.lateArm
    { g := g, seq := c.seq, page := c.page, edge := none, cause := some cause, conf := some c }

/-- The page of a line, and a free value for a line of no committed page (log entry 5). -/
def State.pageIdOf (s : State) (n : Nat) : Nat × State :=
  match s.pageOf n with
  | some p => (p.id, s)
  | none => s.fresh 32

/-- A line that has armed and is not confirmed. -/
def State.skipLine (s : State) (g n cause strip : Nat) : State :=
  let (page, s) := s.pageIdOf n
  let x : LineSt := { seq := n, page := page, group := g, outcome := 1, cause := cause, strip := strip, time := s.now,
                      wick := 0, flags := 0, gen := (s.genFor n).1, total := 0 }
  let s := s.slotState n .skipped (s.liveStrips g)
  s.passLine x false { g := g, seq := n, page := page, edge := none, cause := some cause, conf := none }

/-! ### The lead (01 R21) -/

/-- Write LEAD_NOW of a group, and raise LEAD_LOW when it falls below the low mark. -/
def State.noteLead (s : State) (raise : Bool) (g : Nat) : State :=
  let old := s.reg (Obj.leadNow g)
  let new := s.leadOf g
  let mark := s.reg Obj.leadLowMark
  let n := s.reg (Obj.nextArmSeq g)
  let s := s.setReg (Obj.leadNow g) new
  if raise && decide (mark ≤ old) && decide (new < mark) && lineApart 1000 n (s.group g).leadLow then
    (s.setGroup g { s.group g with leadLow := some n }).logEvent Ev.leadLow (le 1 g ++ le 2 (s.reg Obj.fsiNow))
  else s

/-- Note the lead of each of a list of groups. -/
def State.noteLeads (s : State) (raise : Bool) : List Nat → State
  | [] => s
  | g :: t => (s.noteLead raise g).noteLeads raise t

/-! ### CANCEL (10 R244) -/

/-- Order a rewind of each of a list of contexts. -/
def State.orderRewinds (s : State) (cancel : Bool) (line : Nat) : List Nat → State
  | [] => s
  | k :: t => (s.orderRewind cancel line k).orderRewinds cancel line t

/-- Drop the tentative lines of a strip at or after `f`. -/
def State.dropTentative (s : State) (f k : Nat) : State :=
  (s.setSlots k ((s.slotsOf k).filter (fun x => !(x.tentative && decide (0 ≤ dist32 x.seq f))))).noteHeld k

/-- Drop the tentative lines of each of a list of strips. -/
def State.dropTentatives (s : State) (f : Nat) : List Nat → State
  | [] => s
  | k :: t => (s.dropTentative f k).dropTentatives f t

/-- Cancel the lines of a group that have been asked for at or after `f`: charges are refunded (18 R391), slots return, contexts rewind.
`swap` names the swap line where the occasion is a publish. -/
def State.cancelGroup (s : State) (swap : Option Nat) (g f : Nat) : State :=
  let strips := s.liveStrips g
  let asked := (s.group g).nextReq
  let s := s.refundFrom g f
  let kept := s.twin.decisions.filter (fun d => !(d.g = g && decide (0 ≤ dist32 d.seq f)))
  let s := { s with twin := { s.twin with decisions := kept } }
  let s := s.dropTentatives f strips
  let s := s.setGroup g { s.group g with nextReq := lowSeq asked f }
  match swap with
  | none => s.orderRewinds true f strips
  | some line => s.orderRewinds false line strips

/-- Cancel in each of a list of groups with first lines. -/
def State.cancelGroups (s : State) (swap : Option Nat) : List (Nat × Nat) → State
  | [] => s
  | (g, f) :: t => (s.cancelGroup swap g f).cancelGroups swap t

/-- The CANCEL frames of one module: one for each first line, with its rows in the mask (11 R262). -/
def State.cancelModule (s : State) (fs : List (Nat × Nat)) (m : Nat) : State :=
  let rows := (List.range 4).filterMap (fun r => (fs.find? (fun x => x.1 = 2 * r + m % 2)).map (fun x => (r, x.2)))
  let firsts := (rows.map Prod.snd).eraseDups
  s.emitAll (firsts.map (fun f =>
    let mask := sumList ((rows.filter (fun x => x.2 = f)).map (fun x => 2 ^ x.1))
    .head m (headChars (headFrame frCancel (s.roleFor f) m mask f []))))

/-- The CANCEL frames of each of a list of modules. -/
def State.cancelModules (s : State) (fs : List (Nat × Nat)) : List Nat → State
  | [] => s
  | m :: t => (s.cancelModule fs m).cancelModules fs t

/-- An occasion of CANCEL, for groups with their first cancelled lines; with no line to cancel nothing is sent or counted. -/
def State.cancel (s : State) (swap : Option Nat) (raise : Bool) (firsts : List (Nat × Nat)) : State :=
  let fs := firsts.filter (fun x => decide (0 < dist32 (s.group x.1).nextReq x.2))
  if fs = [] then s
  else
    let s := s.cancelGroups swap fs
    let s := s.cancelModules fs s.upLanes
    (s.bump Obj.cancels).noteLeads raise (fs.map Prod.fst)

/-- Every tentative line of every group: its first line not yet armed. -/
def State.allTentative (s : State) : List (Nat × Nat) := s.liveGroups.map (fun g => (g, s.reg (Obj.nextArmSeq g)))

/-- Every tentative line at or after `f`. -/
def State.tentativeFrom (s : State) (f : Nat) : List (Nat × Nat) :=
  s.liveGroups.map (fun g => (g, highSeq (s.reg (Obj.nextArmSeq g)) f))

/-! ### Publishes (01 R37, R39; 08 R186 to R189) -/

/-- The swap line of a publish in LIT (R37). -/
def State.swapLineLit (s : State) : Nat :=
  let h := s.reg Obj.swapHorizon
  match s.taper.newest with
  | some n => (n + h) % 2 ^ 32
  | none =>
    match s.liveGroups with
    | [] => h
    | g :: t => (t.foldl (fun a x => highSeq a (s.group x).first) (s.group g).first + h + (2 ^ 32 - 1)) % 2 ^ 32

/-- A reversal or a stop with a swap pending: the swap line is computed again (R39). -/
def State.moveSwap (s : State) : State :=
  match s.health.swap with
  | none => s
  | some _ =>
    let line := s.swapLineLit
    { (s.setReg Obj.htSwapLine line) with health := { s.health with swap := some line } }

/-- A slot whose copy has become the active one. -/
def Slot.current (x : Slot) : Slot := { x with pend := false }

/-- The copies exchange their places: the pending copy becomes active (R37, R188). -/
def State.swapNow (s : State) : State :=
  let gen := (s.reg Obj.healthGen + 1) % 2 ^ 32
  let line := s.reg Obj.htSwapLine
  let past := (line, s.health.active) :: s.health.past
  let s := { s with
    health := { s.health with
      active := s.health.pending, pending := s.health.active, swap := none, overwriting := true, past := past },
    slots := s.slots.map (fun (x : Nat × List Slot) => (x.1, x.2.map Slot.current)) }
  (s.setReg Obj.healthGen gen).logEvent Ev.healthSwap (le 4 gen ++ le 4 line)

/-- Apply records at swap line `line`: they go to the pending copy, and in LIT the tentative lines at or after the line are prepared
again (R37, R187). -/
def State.applyPublish (s : State) (recs : List (Nat × Nat)) (line : Nat) (now : Bool) : State :=
  let s := { s with health := { s.health with pending := applyRecs s.health.pending recs, swap := some line } }
  let s := (s.bump Obj.publishes).setReg Obj.htSwapLine line
  let s := if s.mode = .lit then s.cancel (some line) true (s.tentativeFrom line) else s
  if now then s.swapNow else s

/-- The swap line of a publish, and whether it takes effect at once (R37, R39, R187, R189). -/
def State.publishLine (s : State) : Nat × Bool :=
  match s.health.swap with
  | some line => (line, false)
  | none =>
    if s.mode = .lit then (s.swapLineLit, false)
    else if s.raster.flushFirst.isNone then (0, true)
    else match s.ceilSeq with
      | none => (0, true)
      | some f => (f, s.liveGroups.all (fun g => s.passedTo g = f))

/-- The records of the entries that all the records together change in a copy of the map (R186). -/
def changingRecs (t : Table Nat) (recs : List (Nat × Nat)) : List (Nat × Nat) :=
  let new := applyRecs t recs
  recs.filter (fun r => decide (Table.get 0 new r.1 ≠ Table.get 0 t r.1))

/-- PUBLISH messages to the mate (12, PUBLISH): the new generation, the swap line, and the changed entries. -/
def State.sendPublish (s : State) (line : Nat) (words : List Nat) : State :=
  let gen := (s.reg Obj.healthGen + 1) % 2 ^ 32
  let parts := chunks 4093 ((4092 + words.length) / 4093) words
  s.emitAll (parts.map (fun p => s.twin.frame 0x04 (le 4 gen ++ le 4 line ++ le 4 p.length ++ p.flatMap (le 4))))

/-- Whether a publish is held: while a former active copy is being overwritten (R188), or a role swap is in progress (R301). -/
def State.publishHeld (s : State) : Bool := s.health.overwriting || s.twin.swap.isSome

/-- Whether a pending swap's line has been confirmed or entered in the skip ledger in every strip (R187, R188). -/
def State.swapPassed (s : State) : Bool :=
  match s.health.swap with
  | none => false
  | some line => s.liveGroups.all (fun g => decide (0 < dist32 (s.reg (Obj.nextArmSeq g)) line))

/-- The copies exchange their places once the swap line has been passed. -/
def State.swapDue (s : State) : State := if s.swapPassed then s.swapNow else s

/-- A publish: records that change an entry (R186). A held one waits, with its writer's reply. -/
def State.publish (s : State) (recs : List (Nat × Nat)) (reply : Option Deferred) : State :=
  let s := s.swapDue
  let changed := changingRecs s.health.pending recs
  if s.health.overwriting then
    { s with health := { s.health with held := s.health.held ++ [(recs, reply)] } }
  else if changed = [] then s.finished reply
  else if s.twin.swap.isSome then
    { s with twin := { s.twin with heldPublishes := s.twin.heldPublishes ++ [(recs, reply)] } }
  else
    let (line, now) := s.publishLine
    let new := applyRecs s.health.pending changed
    let s := if s.role = .primary then s.sendPublish line (changed.map (fun r => editWord r.1 (Table.get 0 new r.1))) else s
    (s.applyPublish changed line now).finished reply

end Sys2Proof.Machine
end

