-- ==== Sys2Proof/Machine/Taper.lean ====
section
/-! DEFINITION. The Taper (10): positions, the lead, arming, confirmation and the placing of edges; and the speed it reads (09). -/

namespace Sys2Proof.Machine

/-! ### Speed (09 R205 to R210) -/

/-- Nanoseconds of a TIME80. -/
def ns80 (v : Nat) : Nat := 1000000000 * (v % 2 ^ 48) + v / 2 ^ 48

/-- The magnitude of SPEED as a quotient (R205, R206): the estimate, or the bound that an overdue edge gives. -/
def State.speedRat (s : State) (ch : Nat) : Nat × Nat :=
  let kept := (s.encCh ch).stamps.take (s.reg (Obj.speedEdges ch))
  match kept, kept.getLast? with
  | newest :: _, some oldest =>
    let est : Nat × Nat := (1000000000 * (kept.length - 1), max 1 (newest - oldest))
    let due := s.nowNs - newest
    if due = 0 ∨ est.1 * due ≤ 1000000000 * est.2 then est else (1000000000, due)
  | _, _ => (0, 1)

/-- SPEED as it reads (R206): 0 unless SPEED_STATE is KNOWN. -/
def State.speed (s : State) (ch : Nat) : Int :=
  if s.reg (Obj.speedState ch) = 1 then
    let r := s.speedRat ch
    let v := quot 1 r.1 r.2
    if (s.encCh ch).lastDir = some false then -v else v
  else 0

/-- The channel that the Taper uses (R220). -/
def State.fireCh (s : State) : Nat := s.reg Obj.firingChannel

/-- An illegal transition or a rate error of a channel lies within the last 1 s (R224). -/
def State.encFault (s : State) (ch : Nat) : Bool :=
  (s.encCh ch).faultAt.any (fun t => decide (s.clock.cycles - t < cyclesPerSec))

/-- Whether speed is known to the Taper (R210). -/
def State.speedKnown (s : State) : Bool :=
  let v := s.speed s.fireCh
  decide (s.reg (Obj.speedState s.fireCh) = 1) &&
    (if s.reg (Obj.travelDir s.fireCh) = 0 then decide (0 < v) else decide (v < 0))

/-! ### Positions (R225, R230) -/

/-- The signed distance from `y` to `x` on the 32.16 circle. -/
def dist48 (x y : Nat) : Int := toSigned 48 (2 ^ 48 + x - y % 2 ^ 48)

/-- The position of line `n` in group `g`, 32.16 (R225). -/
def State.position (s : State) (g n : Nat) : Nat :=
  let lines : Int := dist32 n (s.reg Obj.originSeq) * (s.reg Obj.linePitch % 2 ^ 48 : Nat)
  let origin : Int := (65536 * s.reg Obj.originCount : Nat)
  let off : Int := (s.reg (Obj.groupOffset g) % 2 ^ 48 : Nat)
  let p := if s.reg Obj.fireDir = 0 then origin + lines + off else origin - lines + off + s.sreg (Obj.dirAlign g)
  ofSigned 48 p

/-- The arming count of line `n` in group `g` (R230). -/
def State.armCount (s : State) (g n : Nat) : Nat :=
  let lead := 65536 * s.reg Obj.armLead
  if s.reg Obj.fireDir = 0 then (2 ^ 48 + s.position g n - lead) % 2 ^ 48 else (s.position g n + lead) % 2 ^ 48

/-- How far a position lies ahead of the firing channel's mark in FIRE_DIR. -/
def State.ahead (s : State) (x : Nat) : Int :=
  let d := dist48 x (65536 * s.reg (Obj.travelMark s.fireCh))
  if s.reg Obj.fireDir = 0 then d else -d

/-- The whole count at which a count-locked line fires (R237). -/
def State.lockCount (s : State) (g n : Nat) : Nat :=
  let p := s.position g n
  if s.reg Obj.fireDir = 0 then 65536 * ((65535 + p) / 65536) % 2 ^ 48 else 65536 * (p / 65536)

/-- How far the arming count of a line lies from the bar datum, in FIRE_DIR (01 R29). -/
def State.dueOf (s : State) (g n : Nat) : Int :=
  let d := dist48 (s.armCount g n) (65536 * s.reg Obj.originCount)
  if s.reg Obj.fireDir = 0 then d else -d

/-- Whether the web runs in FIRE_DIR (R227). -/
def State.webForward (s : State) : Bool := decide (s.reg (Obj.travelDir s.fireCh) = s.reg Obj.fireDir)

/-! ### The line period and predicted times (R234, R235, R241) -/

/-- A quotient to the nearest whole number; a tie is free (log entry 12). -/
def nearest (place : Nat) (n : Int) (d : Nat) : Int :=
  let q := n / d
  let r := n % d
  if 2 * r < d then q else if (d : Int) < 2 * r then q + 1 else quot place n d

/-- The present line period in ps as a quotient (R241). -/
def State.periodRat (s : State) : Nat × Nat :=
  if s.speedKnown then (1000000000000 * (s.reg Obj.linePitch % 2 ^ 48), 65536 * (s.speed s.fireCh).natAbs)
  else (s.reg Obj.headMinPeriod, 1)

/-- PERIOD of a CONFIRM (11 R261). -/
def State.confirmPeriod (s : State) : Nat :=
  let r := s.periodRat
  min (quot 2 r.1 r.2).toNat 0xFFFFFFFF

/-- The predicted time of line `n` of group `g` in ps, on the 0.625 ns grid (R234). -/
def State.predict (s : State) (g n : Nat) : Nat :=
  let ch := s.fireCh
  let v := s.speed ch
  let dx := dist48 (s.position g n) (65536 * s.reg (Obj.lastEdgeCount ch))
  let den := 65536 * v.natAbs
  let run : Int := if v < 0 then -dx else dx
  let t : Int := (1000 * (ns80 (s.reg (Obj.lastEdgeTime ch)) * den) : Nat) + run * 1000000000000
  (625 * nearest 3 t (625 * den)).toNat

/-- The earliest time of a group's next edge after its previous one (R236). -/
def State.notBefore (s : State) (g t : Nat) : Nat :=
  match (s.group g).lastEdge with
  | none => t
  | some l => max t (l + s.reg Obj.headMinPeriod)

/-- The confirm set-up, ps (R234), and the delay of a count-locked edge (R237). -/
def setupPs : Nat := 400000
def lockPs : Nat := 40000

/-- Whether a delay is more than a quarter of a period given as a quotient. -/
def moreThanQuarter (delay : Nat) (period : Nat × Nat) : Bool := decide (period.1 < 4 * delay * period.2)

/-! ### Requests (R229) -/

/-- Whether an index hold keeps a line back (09 R218). -/
def State.heldBack (s : State) (n : Nat) : Bool :=
  match s.taper.holdPage with
  | none => false
  | some id =>
    match s.pageById id with
    | some p => decide (0 ≤ dist32 n ((p.first + p.count) % 2 ^ 32))
    | none => true

/-- The next line of a group to ask for. -/
def State.nextAsk (s : State) (g : Nat) : Nat := highSeq (s.group g).nextReq (s.reg (Obj.nextArmSeq g))

/-- Whether the Taper asks for the next line of a group now (R229). -/
def State.mayAsk (s : State) (g : Nat) : Bool :=
  let n := s.nextAsk g
  decide (s.mode = .lit) && !s.hasCause && !s.taper.stopping && !s.heldBack n && s.lineCommitted n &&
    decide (dist32 n (s.reg (Obj.nextArmSeq g)) < min 64 (s.reg Obj.leadTarget)) &&
    !(s.liveStrips g).isEmpty && (s.liveStrips g).all (fun k => (s.ctx k).rewind.isNone)

/-- Ask the pool for the next line of a group. -/
def State.askLine (s : State) (g : Nat) : State :=
  let n := s.nextAsk g
  let s := s.setGroup g { s.group g with nextReq := (n + 1) % 2 ^ 32 }
  let due := s.dueOf g n
  s.addJobs ((s.liveStrips g).map (fun k => { stream := k, line := n, due := due, drop := false }))

/-- PAGE_LATE (06 R139): once per page. -/
def State.pageLate (s : State) : State :=
  let first := s.raster.nextFirst
  let asked := s.liveGroups.map s.nextAsk
  match asked with
  | [] => s
  | a :: t =>
    let top := t.foldl highSeq a
    if s.mode = .lit ∧ s.raster.flushFirst.isSome = true ∧ s.raster.lateFor ≠ some first ∧
        dist32 first top ≤ s.reg Obj.commitWarn then
      ({ s with raster := { s.raster with lateFor := some first } }).logEvent Ev.pageLate
        (le 4 ((s.reg Obj.lastPageId + 1) % 2 ^ 32) ++ le 4 first)
    else s

/-! ### Confirmation (R231 to R234, R237) -/

/-- Whether a head lane counts as up for condition 5 (11 R281). -/
def State.laneReady (s : State) (m : Nat) : Bool := s.laneUp m && (s.head m).ready && (s.head m).trimOk

/-- Whether every strip of a group has sent its frame of a line (condition 6). -/
def State.unsent (s : State) (g n : Nat) : Bool :=
  (s.liveStrips g).any (fun k =>
    match s.slotAt k n with
    | some x => decide (x.st ≠ .sent)
    | none => true)

/-- The first strip of a list for which a line has a fault of a cause. -/
def State.faultOf (s : State) (n cause : Nat) (strips : List Nat) : Option Nat :=
  strips.find? (fun k => s.lineFault k n = some cause)

/-- The Wick outcome of a line that is about to arm: held here, or the primary's DECISION. -/
def State.outcomeFor (s : State) (g n : Nat) : Option WickOut :=
  if s.roleFor n = .mate then (s.twin.decisions.find? (fun d => d.g = g && d.seq = n)).map GLine.out
  else (s.decidedFor g n).map GLine.out

/-- The cause and strip of the first of conditions 1 to 6 that fails (R231, R232). -/
def State.armFault (s : State) (g n : Nat) : Option (Nat × Nat) :=
  let strips := s.liveStrips g
  if s.lineCommitted n = false then some (2, 255)
  else match s.faultOf n 8 strips with
    | some k => some (8, k)
    | none =>
      match s.faultOf n 3 strips with
      | some k => some (3, k)
      | none =>
        if s.outcomeFor g n = some .skip then some (4, 255)
        else match (s.liveModules g).find? (fun m => !s.laneReady m) with
          | some m => some (7, 4 * m + g / 2)
          | none => if s.unsent g n then some (1, 255) else none

/-- CONFIRM on each of a list of lanes (11 R261). -/
def State.sendConfirms (s : State) (n row period : Nat) : List Nat → State
  | [] => s
  | m :: t => (s.sendHead frConfirm (s.roleFor n) m row n (le 4 period)).sendConfirms n row period t

/-- NEWEST_CONFIRMED of each of a list of strips. -/
def State.setNewest (s : State) (n : Nat) : List Nat → State
  | [] => s
  | k :: t => (s.setReg (Obj.newestConfirmed k) n).setNewest n t

/-- The lag of a line's edge on this chip, ps (12 R294). -/
def State.lagFor (s : State) (n : Nat) : Nat := if s.roleFor n = .mate then 1000 * s.reg Obj.mateLag else 0

/-- Confirm a line (R233): CONFIRM on every populated lane of the group, the checkpoint, and the placed edge. -/
def State.confirmLine (s : State) (g n : Nat) (edge : Option Nat) (late lateArm : Bool) : State :=
  let strips := s.liveStrips g
  let c : Conf := { seq := n, page := (s.pageIdOf n).1, edge := edge, lag := s.lagFor n, locked := edge.isNone, late := late,
                    lateArm := lateArm, at_ := s.nowPs, demoted := decide (s.outcomeFor g n = some .demote),
                    gen := (s.genFor n).1 }
  let s := s.sendConfirms n (g / 2) s.confirmPeriod (s.liveModules g)
  let s := s.setReg (Obj.nextArmSeq g) ((n + 1) % 2 ^ 32)
  let s := s.setGroup g { s.group g with conf := some c }
  let newest := match s.taper.newest with
    | some m => highSeq m n
    | none => n
  let s := { s with taper := { s.taper with newest := some newest } }
  let s := (s.ckptAll n strips).setNewest n strips
  s.slotState n .confirmed strips

/-- The lines of a context that its group has passed, that have still to be decoded for history, and that no engine has been asked for
(07 R164): each with its own deadline (01 R29). -/
def State.missedJobs (s : State) (k : Nat) : List Job :=
  let c := s.ctx k
  let g := groupOf k
  if c.rewind.isSome then []
  else (List.range (dist32 (s.reg (Obj.nextArmSeq g)) c.work.next).toNat).filterMap (fun i =>
    let n := (c.work.next + i) % 2 ^ 32
    let here (j : Job) : Bool := decide (j.stream = k) && decide (j.line = n)
    let poisoned := c.work.poisoned && (s.resumeAt k c.work.blockSeq n).isNone
    if s.lineCommitted n && !s.decomp.waiting.any here && !s.decomp.engines.any (fun e => here e.2) && !poisoned then
      some { stream := k, line := n, due := s.dueOf g n, drop := false }
    else none)

/-- The checkpoints of a group's strips follow up to line `n`, and lines not yet decoded are decoded for history (07 R163, R164). -/
def State.passStrips (s : State) (g n : Nat) : State :=
  let strips := s.liveStrips g
  let s := s.ckptAll n strips
  s.addJobs (strips.flatMap s.missedJobs)

/-- Move the checkpoints of every populated strip over the lines its group has passed, after a COMMIT (07 R164). -/
def State.catchUp (s : State) : State :=
  s.liveGroups.foldl (fun s g => s.passStrips g ((2 ^ 32 - 1 + s.reg (Obj.nextArmSeq g)) % 2 ^ 32)) s

/-- A line arms and is not confirmed: it is entered, and the checkpoint passes it (R232; 07 R164). -/
def State.refuseLine (s : State) (g n cause strip : Nat) : State :=
  let s := s.setReg (Obj.nextArmSeq g) ((n + 1) % 2 ^ 32)
  (s.skipLine g n cause strip).passStrips g n

/-- A mate has no DECISION for a line that arms (12 R293): not confirmed, and MATE_SKIPS. -/
def State.mateSkip (s : State) (g n : Nat) : State :=
  let s := s.setReg (Obj.nextArmSeq g) ((n + 1) % 2 ^ 32)
  let s := (s.bump Obj.mateSkips).slotState n .skipped (s.liveStrips g)
  let (page, s) := s.pageIdOf n
  (s.holdOwn { g := g, seq := n, page := page, edge := none, cause := none, conf := none }).passStrips g n

/-- Whether a mate's stop at an effective line keeps a line back (12 R293). -/
def State.beyondStop (s : State) (n : Nat) : Bool :=
  match s.twin.modeAt with
  | some (2, line) => decide (0 ≤ dist32 n line)
  | _ => false

/-- Whether the next line of a group arms now: in LIT after priming, with the web in FIRE_DIR, the mark at the arming count, no cause,
stop or hold pending, and the line before it settled (R227, R228, R230, R231 condition 9). -/
def State.arms (s : State) (g : Nat) : Bool :=
  let n := s.reg (Obj.nextArmSeq g)
  decide (s.mode = .lit) && !s.taper.priming && !s.hasCause && !s.taper.stopping && s.webForward &&
    s.isSet (Obj.encEnable s.fireCh) && !(s.liveModules g).isEmpty && (s.group g).conf.isNone && !s.heldBack n &&
    !s.beyondStop n && decide (s.ahead (s.armCount g n) ≤ 0)

/-- Try to place the edge of a confirmed count-locked line (R237, R238): once the mark is at its whole count. -/
def State.tryLocked (s : State) (g : Nat) : State :=
  match (s.group g).conf with
  | none => s
  | some c =>
    if c.edge.isSome || !s.webForward || decide (0 < s.ahead (s.lockCount g c.seq)) then s
    else
      let t := max (s.nowPs + lockPs) (c.at_ + setupPs)
      let e := s.notBefore g t
      if moreThanQuarter (e - t) (s.reg Obj.headMinPeriod, 1) then
        (s.setGroup g { s.group g with conf := none }).skipConf g c 5 255
      else s.setGroup g { s.group g with conf := some { c with edge := some e, late := decide (t < e) } }

/-- A promoted chip passes a line that its old primary has fired or entered (12 R295, R305). -/
def State.passEntered (s : State) (g n : Nat) : State :=
  let s := s.setReg (Obj.nextArmSeq g) ((n + 1) % 2 ^ 32)
  ({ s with twin := { s.twin with early := s.twin.early.erase (g, n) } }).passStrips g n

/-- The line of a group arms: it is confirmed, or entered (R231 to R234, R237, R241). -/
def State.armLine (s : State) (g : Nat) : State :=
  let n := s.reg (Obj.nextArmSeq g)
  let s := s.ckptAll ((2 ^ 32 - 1 + n) % 2 ^ 32) (s.liveStrips g)
  let s := if s.roleFor n ≠ .mate ∧ s.twin.early.contains (g, n) = true then s.passEntered g n
    else if s.roleFor n = .mate ∧ s.outcomeFor g n = none then s.mateSkip g n
    else match s.armFault g n with
      | some (cause, strip) => s.refuseLine g n cause strip
      | none =>
        if s.speedKnown then
          let t0 := s.predict g n
          let t := max t0 (s.nowPs + setupPs)
          let e := s.notBefore g t
          if moreThanQuarter (e - t) s.periodRat then s.refuseLine g n 5 255
          else s.confirmLine g n (some e) (decide (t < e)) (decide (t0 < s.nowPs + setupPs))
        else (s.confirmLine g n none false false).tryLocked g
  s.noteLead (decide (s.mode = .lit)) g

/-! ### Later edges (R235, R239) -/

/-- The time at which a placed edge rises on this chip. -/
def Conf.rises (c : Conf) : Option Nat := c.edge.map (fun e => e + c.lag)

/-- A counted edge of the firing channel, or a loss of speed: the placed edge is predicted again, or withdrawn (R235, R239). A mate does so by the
edge without its lag, as its primary does (12 R294). -/
def State.rePredict (s : State) (g : Nat) : State :=
  match (s.group g).conf with
  | none => s
  | some c =>
    match c.edge with
    | none => s
    | some e =>
      if c.locked || decide (e ≤ s.nowPs + setupPs) then s
      else if s.speedKnown then
        let t := max (s.predict g c.seq) (s.nowPs + setupPs)
        let e := s.notBefore g t
        s.setGroup g { s.group g with conf := some { c with edge := some e, late := decide (t < e) } }
      else (s.setGroup g { s.group g with conf := some { c with edge := none, locked := true, late := false } }).tryLocked g

/-- Each group's placed edge is predicted again, or withdrawn. -/
def State.rePredictAll (s : State) : State := (List.range 8).foldl State.rePredict s

/-- The mark has moved: count-locked lines may have come to their count. -/
def State.markMoved (s : State) : State := (List.range 8).foldl State.tryLocked s

/-- Lines of a group whose position the mark has passed when arming begins (R228). -/
def State.passedBefore (s : State) (g : Nat) : Nat :=
  let d := s.ahead (s.position g (s.reg (Obj.nextArmSeq g)))
  if 0 ≤ d then 0 else ((-d - 1) / (max 1 (s.reg Obj.linePitch % 2 ^ 48) : Nat)).toNat + 1

/-- Enter a number of lines of a group as FABRIC_LAG. -/
def State.lagLines (s : State) (g n : Nat) : State :=
  (List.range n).foldl (fun s _ => s.refuseLine g (s.reg (Obj.nextArmSeq g)) 1 255) s

/-- Enter, in each of a list of groups, the lines that the mark has passed. -/
def State.lagGroups (s : State) : List Nat → State
  | [] => s
  | g :: t => ((s.lagLines g (s.passedBefore g)).noteLead true g).lagGroups t

/-! ### Reversal and index hold (09 R213, R218) -/

/-- A reversal declared on the firing channel: rungs in progress give no verdict (13 R329); in LIT every tentative line is cancelled
and a pending swap line computed again (R39, R244). -/
def State.reverse (s : State) : State :=
  let s := { s with lantern := { s.lantern with rungs := [] } }
  if s.mode = .lit then (s.cancel none true s.allTentative).moveSwap else s

/-- An index error on the firing channel in LIT (R218). -/
def State.indexPolicy (s : State) (ch : Nat) : State :=
  if s.mode = .lit ∧ ch = s.fireCh then
    match s.reg (Obj.indexPolicy ch) with
    | 0 => s
    | 1 =>
      if s.taper.holdPage.isSome then s
      else
        match s.taper.newest.bind s.pageOf with
        | none => s.setCause Cause.encIndex
        | some p =>
          let s := { s with taper := { s.taper with holdPage := some p.id } }
          s.cancel none true (s.tentativeFrom ((p.first + p.count) % 2 ^ 32))
    | _ => s.setCause Cause.encIndex
  else s

/-- Declare an index error (R218): detail 1 WRONG_COUNT, 2 MISSING. -/
def State.indexError (s : State) (ch detail : Nat) (distance : Int) : State :=
  let s := (s.bump (Obj.indexErrors ch)).setBits (Obj.encStatus ch) 4
  let s := s.indexPolicy ch
  s.logEvent Ev.encIndex (le 1 ch ++ le 1 detail ++ le 4 (ofSigned 32 distance))

end Sys2Proof.Machine
end

