-- ==== Sys2Proof/Machine/Suspend.lean ====
section
/-! DEFINITION. Lines whose firing is not yet settled (11 R279; 12 R297, R299), the strobe edge, and what a stop or SNUFF leaves (02
R44, R53). -/

namespace Sys2Proof.Machine

/-! ### Lines in doubt -/

/-- The module has fired a line at or before its FIRED_SEQ of the row (R279). -/
def Unsettled.hear (u : Unsettled) (m : Nat) (valid : Bool) (fired : Nat → Nat) : Unsettled :=
  if u.lane = m ∧ u.found = none then
    { u with found := some (valid && decide (dist32 u.seq (fired (u.g / 2)) ≤ 0)) }
  else u

/-- The strip named where a module has not fired the line. -/
def Unsettled.strip (u : Unsettled) : Nat := if u.cause = 7 then 4 * u.lane + u.g / 2 else 255

/-- What modules have to say about one line. -/
def State.doubts (s : State) (g n : Nat) : List Unsettled := s.taper.unsettled.filter (fun u => u.g = g && u.seq = n)

/-- Whether a line in doubt can be settled: a module has not fired it, or every one has. -/
def doubtReady (us : List Unsettled) : Bool :=
  us.any (fun u => u.found = some false) || us.all (fun u => u.found.isSome && u.edged)

/-- The lowest strip of the modules that have not fired a line. -/
def doubtStrip (us : List Unsettled) : Nat :=
  ((us.filter (fun u => u.found = some false)).map Unsettled.strip).foldl min 255

/-- The line state with which a line in doubt is settled. -/
def State.doubtLine (s : State) (us : List Unsettled) (u : Unsettled) : LineSt :=
  let fired := us.all (fun x => x.found = some true)
  let strip := doubtStrip us
  match u.conf with
  | some c => s.confLine u.g c (if fired then 0 else 1) (if fired then 0 else u.cause) (if fired then 255 else strip)
  | none =>
    { seq := u.seq, page := u.page, group := u.g, outcome := if fired then 0 else 1, cause := if fired then 0 else u.cause,
      strip := if fired then 255 else strip, time := s.now, wick := s.wickOf u.g u.seq, flags := if fired then 1 else 0,
      gen := (s.genFor u.seq).1, total := 0 }

/-- Settle a line in doubt: it leaves the list, an edge still to come is withdrawn, and it enters the books. -/
def State.settleDoubt (s : State) (us : List Unsettled) (u : Unsettled) : State :=
  let x := s.doubtLine us u
  let rest := s.taper.unsettled.filter (fun y => !(y.g = u.g && y.seq = u.seq))
  let s := { s with taper := { s.taper with unsettled := rest } }
  let s : State := match (s.group u.g).conf with
    | some c => if c.seq = u.seq then s.setGroup u.g { s.group u.g with conf := none } else s
    | none => s
  let lateArm := match u.conf with
    | some c => c.lateArm
    | none => false
  let s := if u.why = .promotion then s.bump Obj.openResolved else s
  if u.why = .barSnuff ∧ s.roleFor u.seq = .mate then s.settle x lateArm none
  else s.passLine x lateArm { g := u.g, seq := u.seq, page := u.page, edge := none, cause := some u.cause, conf := u.conf }

/-- Settle the lines in doubt that can be, in rising group and sequence; lines of a bar-wide SNUFF or a promotion wait for the ones
before them (R297). -/
def State.settleLines (s : State) (blocked : Bool) : List (Nat × Nat) → State
  | [] => s
  | (g, n) :: t =>
    let us := s.doubts g n
    match us with
    | [] => s.settleLines blocked t
    | u :: _ =>
      let waits := decide (u.why ≠ .lane)
      if doubtReady us && !(waits && blocked) then (s.settleDoubt us u).settleLines blocked t
      else s.settleLines (blocked || waits) t

/-- The lines in doubt, in rising group and sequence. -/
def State.doubtOrder (s : State) : List (Nat × Nat) :=
  (List.range 8).flatMap (fun g => ((s.taper.unsettled.filter (fun u => u.g = g)).map (fun u => (g, u.seq))).eraseDups)

/-- The values of R44: for each group the first line that has neither fired nor been entered, and the lowest of them. -/
def State.recordGroups (s : State) : List Nat → State
  | [] => s
  | g :: t =>
    if (s.liveModules g).isEmpty then (s.setReg (Obj.stopSeqGroup g) 0).recordGroups t
    else
      let n := s.passedTo g
      let s := s.setGroup g { s.group g with first := n, nextReq := n }
      ((s.setReg (Obj.nextArmSeq g) n).setReg (Obj.stopSeqGroup g) n).recordGroups t

/-- Record STOP_SEQ and STOP_SEQ_GROUP (R44). -/
def State.recordStop (s : State) : State :=
  let low := s.floorSeq.getD 0
  (s.recordGroups (List.range 8)).setReg Obj.stopSeq low

/-- Record the values of R44 after SNUFF, once every line has been settled. -/
def State.recordDue (s : State) : State :=
  if s.taper.stopDue && s.taper.unsettled.isEmpty then
    ({ s with taper := { s.taper with stopDue := false } }).recordStop
  else s

/-- Settle what can be settled. -/
def State.settleAll (s : State) : State := (s.settleLines false s.doubtOrder).recordDue

/-- A module's STATUS says what it has fired. -/
def State.hearStatus (s : State) (m : Nat) (valid : Bool) (fired : Nat → Nat) : State :=
  let us := s.taper.unsettled.map (fun u => u.hear m valid fired)
  ({ s with taper := { s.taper with unsettled := us } }).settleAll

/-- FIRED_VALID and FIRED_SEQ of a STATUS payload (11 R275). -/
def statusValid (p : List Byte) : Bool := (field p 1 1).testBit 0
def statusFired (p : List Byte) (r : Nat) : Nat := field p (4 + 4 * r) 4

/-- Add what a module will have to say about a line. -/
def State.addDoubt (s : State) (u : Unsettled) : State :=
  if s.taper.unsettled.any (fun x => x.lane = u.lane && x.g = u.g && x.seq = u.seq) then s
  else { s with taper := { s.taper with unsettled := s.taper.unsettled ++ [u] } }

/-- Add each of a list. -/
def State.addDoubts (s : State) : List Unsettled → State
  | [] => s
  | u :: t => (s.addDoubt u).addDoubts t

/-- What a module has to say about a confirmed line of group `g`. -/
def confDoubt (why : Doubt) (g lane cause : Nat) (edged : Bool) (c : Conf) : Unsettled :=
  { why := why, g := g, lane := lane, seq := c.seq, page := c.page, cause := cause, found := none, edged := edged, conf := some c }

/-- A lane has gone down: the lines confirmed to its module and not fired are held in suspense (R279). -/
def State.suspend (s : State) (m : Nat) : State :=
  s.addDoubts ((List.range 4).filterMap (fun r =>
    let g := 2 * r + m % 2
    (s.group g).conf.map (confDoubt .lane g m 7 false)))

/-! ### The strobe edge (10 R236) -/

/-- The pad of an output goes high, but where the Snuffer forces it low (R247). -/
def State.raiseStrobe (s : State) (g rise : Nat) : State :=
  if (s.group g).forced then s
  else ({ s with pins := { s.pins with strobesHigh := g :: s.pins.strobesHigh.filter (· ≠ g) } }).emit (.strobe g rise)

/-- The edge of a confirmed line rises on STBg: the line fires, unless a module's lane is down or has been (R279). -/
def State.strobe (s : State) (g : Nat) (c : Conf) (rise : Nat) : State :=
  let last := if s.roleFor c.seq = .mate then rise - c.lag else rise
  let s := s.setGroup g { s.group g with conf := none, lastEdge := some last, pulse := true }
  let s := (s.raiseStrobe g rise).setReg (Obj.strobeTime g) (time80OfNs (rise / 1000))
  let down := (s.liveModules g).filter (fun m => !s.laneUp m)
  let s := s.addDoubts (down.map (fun m => confDoubt .lane g m 7 true c))
  if s.doubts g c.seq = [] then s.fireConf g c
  else
    let us := s.taper.unsettled.map (fun u => if u.g = g ∧ u.seq = c.seq then { u with edged := true, conf := some c } else u)
    ({ s with taper := { s.taper with unsettled := us } }).settleAll

/-- The records that waited for the end of a group's pulse are logged (03 R81). -/
def State.logHeld (s : State) (g : Nat) : State :=
  let due := s.taper.printed.filter (fun x => x.1 = g)
  let s := { s with taper := { s.taper with printed := s.taper.printed.filter (fun x => x.1 ≠ g) } }
  due.foldl (fun s x => s.logEvent Ev.linesPrinted x.2) s

/-- The pulse of a strobe output ends: the Taper drives it low, which also ends a force of the Snuffer (R236, R247). -/
def State.dropStrobe (s : State) (g : Nat) : State :=
  let s := s.setGroup g { s.group g with pulse := false, forced := false }
  ({ s with pins := { s.pins with strobesHigh := s.pins.strobesHigh.filter (· ≠ g) } }).logHeld g

/-! ### The stop (02 R44) -/

/-- A stop in LIT (R44): no further line is confirmed, every tentative line is cancelled, a pending swap line is computed again. -/
def State.stopLit (s : State) : State :=
  if s.taper.stopping then s
  else
    let s := { s with taper := { s.taper with stopping := true, holdPage := none } }
    (s.cancel none true s.allTentative).moveSwap

/-- A mate's stop begins once every group has come to the effective line of the MODE message (R57; 12 R293). -/
def State.stopAtLine (s : State) : State :=
  match s.twin.modeAt with
  | some (2, line) =>
    if s.mode = .lit ∧ s.liveGroups.all (fun g => decide (0 ≤ dist32 (s.reg (Obj.nextArmSeq g)) line)) = true then
      ({ s with twin := { s.twin with modeAt := none } }).stopLit
    else s
  | _ => s

/-! ### SNUFF entry at the Taper (02 R53; 12 R297) -/

/-- Resolve the lines in suspense on lanes that are down, from the last STATUS (R279). -/
def State.resolveDown (s : State) : List Nat → State
  | [] => s
  | m :: t =>
    if s.laneUp m then s.resolveDown t
    else
      let p := s.dom (Obj.lastStatus m)
      let us := s.taper.unsettled.map (fun u => if u.why = .lane then
        (u.hear m (statusValid p) (statusFired p)) else u)
      ({ s with taper := { s.taper with unsettled := us } }).resolveDown t

/-- An edge that will not come. -/
def Unsettled.end_ (u : Unsettled) : Unsettled := { u with edged := true }

/-- Enter the confirmed line of each of a list of groups as SUPPRESSED, or hold it open after a bar-wide SNUFF of a TWIN bar. -/
def State.suppressConfs (s : State) (hold : Bool) : List Nat → State
  | [] => s
  | g :: t =>
    match (s.group g).conf with
    | none => s.suppressConfs hold t
    | some c =>
      let s := s.setGroup g { s.group g with conf := none }
      if hold then
        (s.addDoubts ((s.liveModules g).map (fun m => confDoubt .barSnuff g m 6 true c))).suppressConfs hold t
      else (s.skipConf g c 6 255).suppressConfs hold t

/-- The Taper at SNUFF entry: tentative lines are cancelled, suspended lines resolved, confirmed lines entered or held open, and the
values of R44 recorded once every line is settled. -/
def State.taperSnuff (s : State) (barWide : Bool) : State :=
  let s := s.cancel none false s.allTentative
  let s := s.resolveDown (List.range 32)
  let s := { s with taper := { s.taper with unsettled := s.taper.unsettled.map Unsettled.end_ } }
  let s := s.settleLines false s.doubtOrder
  let s := s.suppressConfs (barWide && decide (s.role ≠ .solo)) s.liveGroups
  ({ s with taper := { s.taper with stopDue := true, stopping := false, holdPage := none, priming := false } }).settleAll

end Sys2Proof.Machine
end

