-- ==== Sys2Proof/Machine/Pool.lean ====
section
/-! DEFINITION. The meanings of the commands that prepare lines: requests, decoding, rewinds, correction, the Wick's decision and the
LINE frame (01, 07, 08, 10, 11, 18). -/

namespace Sys2Proof.Machine

/-- TAPER_LINE_REQUEST (10 R229): the next line of a group, and PAGE_LATE (06 R139). -/
def execTaperLineRequest (g : Fin 8) (s : State) : Host.Outcome State Fault Refusal :=
  let s := if s.mayAsk g && s.blockUp Block.taper then s.askLine g else s
  ok s.pageLate

/-- The lines that a rewound context decodes again, for history and its line buffer: up to the line before `upTo` (R165), and those that
its group has passed (R164). -/
def State.quietJobs (s : State) (k upTo : Nat) : List Job :=
  let n := (s.ctx k).ckpt.next
  let g := groupOf k
  let last := highSeq upTo (s.reg (Obj.nextArmSeq g))
  (List.range (dist32 last n).toNat).filterMap (fun i =>
    let line := (n + i) % 2 ^ 32
    if s.lineCommitted line then some { stream := k, line := line, due := s.dueOf g line, drop := false } else none)

/-- CONTEXT_REWIND (07 R165): the checkpoint is restored into the working state, once no engine works a line of the context (01 R39,
R166). -/
def execContextRewind (k : Fin 160) (s : State) : Host.Outcome State Fault Refusal :=
  let c := s.ctx k
  match c.rewind with
  | none => ok s
  | some r =>
    if s.engineBusy k then ok s
    else
      let s := (s.setCtx k { c with work := c.ckpt, trail := [], rewind := none }).bump (Obj.rewinds k)
      let s := s.setReg (Obj.workLine k) c.ckpt.next
      ok (s.addJobs (s.quietJobs k r.line))

/-- STRIP_CORRECT (08 R171): the oldest line that has no counts is corrected. -/
def execStripCorrect (st : Fin 128) (s : State) : Host.Outcome State Fault Refusal :=
  match (s.slotsOf st).find? (fun x => decide (x.st = .decoded) && x.counts.isNone) with
  | none => ok s
  | some x =>
    if s.blockUp Block.strip then
      let c := (s.correct (s.mapFor x.pend) st x.seq x.line).counts
      ok (s.modSlot st x.seq (fun y => { y with counts := some c }))
    else ok s

/-- The lines of a group that wait for the Wick: every strip of the group has given its counts (18 R389). -/
def State.undecided (s : State) (g : Nat) : List Nat :=
  match s.liveStrips g with
  | [] => []
  | k :: _ =>
    ((s.slotsOf k).map Slot.seq).filter (fun n =>
      decide (s.roleFor n ≠ .mate) && (s.decidedFor g n).isNone && (s.liveStrips g).all (fun j =>
        match s.slotAt j n with
        | some x => x.tentative && x.counts.isSome
        | none => false))

/-- The counts of a line summed over the strips of its group. -/
def State.groupCounts (s : State) (g n : Nat) : Counts :=
  (s.liveStrips g).foldl (fun a k =>
    match (s.slotAt k n).bind Slot.counts with
    | none => a
    | some c => { small := a.small + c.small, medium := a.medium + c.medium, large := a.large + c.large, comp := 0, lost := 0 }) {}

/-- The line decided first: the earliest arming count, then the lower group (18 R392). -/
def State.nextDecision (s : State) : Option (Nat × Nat) :=
  let all := s.liveGroups.flatMap (fun g => (s.undecided g).map (fun n => (g, n)))
  all.foldl (fun best x =>
    match best with
    | none => some x
    | some b => if s.dueOf x.1 x.2 < s.dueOf b.1 b.2 then some x else some b) none

/-- The number of an outcome in a DECISION (12 R291). -/
def WickOut.code : Sys2Proof.WickOut → Nat
  | .grant => 0 | .demote => 1 | .skip => 2

/-- The decision of a line: the outcome and the charge, and a PRIMARY's DECISION to its mate (R389 to R391). -/
def State.decideLine (s : State) (g n : Nat) : State :=
  let (o, e) := s.lineOutcome (s.groupCounts g n)
  let s := if e = 0 then s else s.chargePool 1 e
  let s := (s.holdDecision g n o e).noteOutcome g n o
  if s.roleFor n = .primary then s.emit (s.twin.frame 0x02 (le 4 n ++ le 1 g ++ le 1 (WickOut.code o) ++ zeros 2)) else s

/-- Decide the ready lines, at most `k` of them, in the order of R392. -/
def State.decideReady (s : State) : Nat → State
  | 0 => s
  | k + 1 =>
    match s.nextDecision with
    | none => s
    | some (g, n) => (s.decideLine g n).decideReady k

/-- Every line request that is ready is decided before any other request (R34, R392): 64 tentative lines in each of 8 groups. -/
def State.linesFirst (s : State) : State := if s.mode = .lit ∧ s.blockUp Block.wick = true then s.decideReady 512 else s

/-- WICK_LINE_DECISION (18 R389 to R392). -/
def execWickLineDecision (s : State) : Host.Outcome State Fault Refusal :=
  if s.mode ≠ .lit then ok s
  else match s.nextDecision with
    | none => ok s
    | some (g, n) => ok (s.decideLine g n)

/-- A line whose outcome is known and that may be sent: GRANT or DEMOTE (08 R191, 11 R260). -/
def State.toSend (s : State) (st : Nat) : Option Slot :=
  (s.slotsOf st).find? (fun x => decide (x.st = .decoded) && x.counts.isSome &&
    (match s.outcomeFor (groupOf st) x.seq with
     | some .skip => false
     | some _ => true
     | none => false))

/-- A LINE frame of a slot (11 R260). -/
def State.sendLine (s : State) (st : Nat) (x : Slot) : State :=
  s.sendHead frLine (s.roleFor x.seq) (st / 4) (st % 4) x.seq (s.linePayload st x)

/-- LINE_FRAME_SEND (11 R260): the oldest line ready to go is sent whole on its lane, and becomes SENT. -/
def execLineFrameSend (st : Fin 128) (s : State) : Host.Outcome State Fault Refusal :=
  match s.toSend st with
  | none => ok s
  | some x =>
    if s.laneUp (st / 4) && s.blockUp Block.headLink then
      let x := { x with outcome := s.outcomeFor (groupOf st) x.seq }
      let s := s.modSlot st x.seq (fun y => { y with outcome := x.outcome, st := .sent })
      ok ((s.sendLine st x).noteLead false (groupOf st))
    else ok s

end Sys2Proof.Machine
end

