-- ==== Sys2Proof/Machine/Fire.lean ====
section
/-! DEFINITION. The meanings of the commands that arm and fire lines, of the Snuffer, and of maintenance patterns (10). -/

namespace Sys2Proof.Machine

/-- ARMING_START (R228): priming ends, and the lines that the mark has passed are entered as FABRIC_LAG. After an accepted stop arming
does not begin (02 R44). -/
def execArmingStart (s : State) : Host.Outcome State Fault Refusal :=
  if s.mode = .lit ∧ s.taper.priming = true ∧ s.taper.stopping = false ∧ s.hasCause = false then
    let s := { s with taper := { s.taper with priming := false } }
    ok (s.lagGroups s.liveGroups)
  else ok s

/-- LINE_ARM (R230 to R234): the group's next line arms, where its count has been reached. -/
def execLineArm (g : Fin 8) (s : State) : Host.Outcome State Fault Refusal :=
  if s.arms g && s.blockUp Block.taper then ok (s.armLine g).stopAtLine else ok s

/-- STROBE_EDGE (R236): the placed edge of the group rises. -/
def execStrobeEdge (g : Fin 8) (s : State) : Host.Outcome State Fault Refusal :=
  match (s.group g).conf with
  | none => ok s
  | some c =>
    match c.rises with
    | none => ok s
    | some rise => ok (s.strobe g c rise)

/-! ### Maintenance patterns (R250) -/

/-- A pattern is done: BAR_FIRE_EN falls after the last pulse (R250). -/
def State.endMaint (s : State) : State :=
  { s with taper := { s.taper with maint := none }, pins := { s.pins with fireEn := .low } }

/-- The pattern ends once it has no line left and every output is low. -/
def State.maintOver (s : State) : State :=
  match s.taper.maint with
  | none => s
  | some m => if m.running && decide (m.left = 0) && s.pins.strobesHigh.isEmpty then s.endMaint else s

/-- A pattern that has leave begins, in TRIM: FIRE_RESET goes out (11 R265), and BAR_FIRE_EN rises before the first edge. With TAPER
held its pads stay idle (03 R69), and the pattern ends. -/
def State.beginMaint (s : State) : State :=
  match s.taper.maint with
  | none => s
  | some m =>
    if m.running = true ∨ s.mode ≠ .trim then s
    else if s.blockUp Block.taper = false then (s.bump Obj.maintAborts).endMaint
    else
      let s := { s with taper := { s.taper with maint := some { m with running := true } },
                        pins := { s.pins with fireEn := .high } }
      s.fireReset.maintOver

/-- What the consumer of an auxiliary context gets when it takes its next line (07 R159, R163; 17 R374). -/
inductive AuxRes where
  | line (n : Nat) (l : List Byte)
  /-- The line is passed without content: the error code of the context, 0 for DRAM. -/
  | failed (n code : Nat)
  /-- The line has not been decoded. -/
  | absent
  deriving DecidableEq, Repr

/-- A consumer takes the next line of an auxiliary context (07 R163): the checkpoint advances, and the engines decode ahead again. A line of a
block marked bad is not given (16 R365). -/
def State.takeAux (s : State) (k : Nat) : AuxRes × State :=
  let n := (s.ctx k).ckpt.next
  let line := (s.slotAt k n).map Slot.line
  let bad := s.inBad k n
  match s.ckptStep k with
  | none => (.absent, s)
  | some s =>
    let code := (s.ctx k).ckpt.fault.getD 0
    let s := ((s.setSlots k ((s.slotsOf k).filter (fun y => y.seq ≠ n))).freeRing k).takeJobs
    match line with
    | none => (.failed n code, s)
    | some l => if bad then (.failed n 0, s) else (.line n l, s)

/-- The LINE frames of a maintenance line: each strip's correction of the pattern's line, on each populated lane. -/
def State.maintFrames (s : State) (n : Nat) (line : List Byte) : List Nat → State
  | [] => s
  | st :: t =>
    (s.sendHead frLine s.role (st / 4) (st % 4) n (lineOf (s.correct s.health.active st n line).codes)).maintFrames n line t

/-- CONFIRM of a maintenance line on each row of each of a list of lanes. -/
def State.maintConfirms (s : State) (n period : Nat) : List Nat → State
  | [] => s
  | st :: t => (s.sendHead frConfirm s.role (st / 4) (st % 4) n (le 4 period)).maintConfirms n period t

/-- A maintenance edge on each of a list of outputs. -/
def State.maintEdges (s : State) (rise : Nat) : List Nat → State
  | [] => s
  | g :: t =>
    let s := s.setGroup g { s.group g with lastEdge := some rise, pulse := true }
    (((s.raiseStrobe g rise).setReg (Obj.strobeTime g) (time80OfNs (rise / 1000))).maintEdges rise t)

/-- The strips of populated modules. -/
def State.allStrips (s : State) : List Nat := (List.range 128).filter (fun st => s.populated (st / 4))

/-- The edge of a maintenance line: the set-up of R234 from now, and HEAD_MIN_PERIOD after each output's previous edge (R236). -/
def State.maintRise (s : State) : Nat := (List.range 8).foldl (fun t g => s.notBefore g t) (s.nowPs + setupPs)

/-- MAINT_LINE (R250): at MAINT_PERIOD the next line of the pattern is confirmed and fires on all 8 outputs but those of empty groups,
which stay low (01 R498), or the pattern ends. -/
def execMaintLine (s : State) : Host.Outcome State Fault Refusal :=
  match s.taper.maint with
  | none => ok s
  | some m =>
    if m.running = false ∨ m.left = 0 ∨ s.mode ≠ .trim then ok s
    else if ([Block.decomp, Block.strip, Block.taper, Block.headLink].any (fun b => !s.blockUp b) ||
        (List.range 32).any (fun i => s.populated i && !s.laneUp i)) then ok (s.bump Obj.maintAborts).endMaint
    else match s.takeAux m.stream with
      | (.absent, s) => ok (s.bump Obj.maintAborts).endMaint
      | (.failed _ _, s) => ok (s.bump Obj.maintAborts).endMaint
      | (.line n line, s) =>
        let s := { s with taper := { s.taper with maint := some { m with left := m.left - 1 } } }
        let s := s.maintFrames n line s.allStrips
        let s := s.maintConfirms n (min (1000 * s.reg Obj.maintPeriod) 0xFFFFFFFF) s.allStrips
        ok (s.maintEdges s.maintRise s.liveGroups)

/-- STROBE_END (R236): STROBE_WIDTH after the edge the Taper drives the output low. -/
def execStrobeEnd (g : Fin 8) (s : State) : Host.Outcome State Fault Refusal :=
  if (s.group g).pulse then ok ((s.dropStrobe g).emit (.strobeEnd g)).maintOver else ok s

/-! ### The Snuffer (R247, R248) -/

/-- Cuts within 1 s. -/
def State.recentCuts (s : State) : List Nat := s.taper.cuts.filter (fun c => decide (s.clock.cycles - c ≤ cyclesPerSec))

/-- SNUFF_ESC_COUNT cuts within 1 s set the SNUFFER cause. -/
def State.escalate (s : State) : State :=
  if s.reg Obj.snuffEscCount ≤ s.recentCuts.length then s.setCause Cause.snuffer else s

/-- STROBE_CUT (R247): the pad readback of an output has been high for SNUFF_MAX, whatever the Taper drives; the pad is forced low, until
the Taper has driven the output low. -/
def execStrobeCut (g : Fin 8) (s : State) : Host.Outcome State Fault Refusal :=
  let s := s.setGroup g { s.group g with forced := (s.group g).pulse, cut := true }
  let s := { s with pins := { s.pins with strobesHigh := s.pins.strobesHigh.filter (· ≠ (g : Nat)) } }
  let s := { s with taper := { s.taper with cuts := s.clock.cycles :: s.recentCuts } }
  let s := ((s.bump Obj.snuffCuts).emit (.strobeEnd g)).escalate
  ok (s.logEvent Ev.strobeCut (le 1 g)).maintOver

/-- SNUFFER_ESCALATE (R248): the check 100 ns after a cut of an output, of its pad and of how often cuts have come. -/
def execSnufferEscalate (g : Fin 8) (padStillHigh : Bool) (s : State) : Host.Outcome State Fault Refusal :=
  let after := (s.group g).cut
  let s := s.setGroup g { s.group g with cut := false }
  if padStillHigh && after then ok (s.setCause Cause.snuffer) else ok s.escalate

/-- STOP_SUPPRESS_TIMEOUT (R240): a confirmed line that has not fired within 100 ms of an accepted stop. One that a lane loss holds in
suspense gives up its edge and is settled by STATUS (11 R279). -/
def execStopSuppressTimeout (g : Fin 8) (s : State) : Host.Outcome State Fault Refusal :=
  if s.taper.stopping then
    match (s.group g).conf with
    | none => ok s
    | some c =>
      let s := s.setGroup g { s.group g with conf := none }
      if s.doubts g c.seq = [] then ok (s.skipConf g c 6 255)
      else
        let us := s.taper.unsettled.map (fun u => if u.g = (g : Nat) ∧ u.seq = c.seq then u.end_ else u)
        ok ({ s with taper := { s.taper with unsettled := us } }).settleAll
  else ok s

end Sys2Proof.Machine
end

