-- ==== Sys2Proof/Machine/Clock.lean ====
section
/-! DEFINITION. One REF cycle, Beacon and its steps, TIME frames, and the PTP grandmaster (21); the causes that set again in every
cycle (02 R54, 23 R490). -/

namespace Sys2Proof.Machine

/-! ### One REF cycle -/

/-- Whether a thermal condition holds: a die sensor, or a head's TEMP_ALARM (23 R490). -/
def State.thermal (s : State) : Bool := s.die.hot || s.heads.any (fun x => x.2.alarm)

/-- The causes that set again in every REF cycle while their condition holds (02 R54, 23 R490). -/
def State.standing (s : State) : State :=
  let s := if s.pins.safeStopLow then s.setCause Cause.safeStop else s
  if s.thermal then s.setCause Cause.therm else s

/-- One REF cycle passes: Beacon counts, the Wick's levels refill, time in panic adds up, the memory controller issues a burst, standing
causes set again. -/
def State.cycle (s : State) : State :=
  if s.clock.refOn then
    let b := if s.blockUp Block.beacon then s.clock.beacon.tick (s.sreg Obj.rateTrim) else s.clock.beacon
    let s := { s with clock := { s.clock with cycles := s.clock.cycles + 1, beacon := b }, flagged := [],
                      wick := { s.wick with fresh := [] } }
    let s := s.ylogClose
    let s := if s.blockUp Block.wick then s.refill else s
    let s := if s.panics then s.count Obj.panicTime 5 else s
    s.memSlot.standing
  else s

/-! ### Steps (R447 to R449) -/

/-- A time moved by a step, in its own unit. -/
def movedBy (d : Int) (t : Nat) : Nat := ((t : Int) + d).toNat

/-- The stored times of a confirmed line moved by `d` ps. -/
def Conf.moved (d : Int) (c : Conf) : Conf := { c with edge := c.edge.map (movedBy d), at_ := movedBy d c.at_ }

/-- The stored edges of a group moved by `d` ps. -/
def Group.moved (d : Int) (x : Group) : Group :=
  { x with conf := x.conf.map (Conf.moved d), lastEdge := x.lastEdge.map (movedBy d) }

/-- A line in doubt with its stored edge moved. -/
def Unsettled.moved (d : Int) (u : Unsettled) : Unsettled := { u with conf := u.conf.map (Conf.moved d) }

/-- A mate's own line with its stored edge moved. -/
def Own.moved (d : Int) (o : Own) : Own := { o with edge := o.edge.map (movedBy d), conf := o.conf.map (Conf.moved d) }

/-- The SOF time of a frame in progress and its trigger compares moved by `d` ns. -/
def Frame.moved (d : Int) (f : Frame) : Frame := { f with sof := movedBy d f.sof, trigs := f.trigs.map (movedBy d) }

/-- An exposure window, whose edges are compares, moved by `d` ps. -/
def Window.moved (d : Int) (w : Window) : Window := { w with start := movedBy d w.start }

/-- The stamps of an encoder channel moved by `d` ns. -/
def EncCh.moved (d : Int) (c : EncCh) : EncCh :=
  { c with stamps := c.stamps.map (movedBy d), trace := c.trace.map (fun x => (movedBy d x.1, x.2)),
           still := c.still.map (fun x => { x with stamps := x.stamps.map (movedBy d), confs := x.confs.map (fun y => (y.1, y.2.moved (d * 1000))) }) }

/-- LAST_EDGE_TIME moves while the estimator holds the edge. -/
def State.moveLastEdge (s : State) (d : Int) (ch : Nat) : State :=
  if (s.encCh ch).stamps = [] then s
  else s.setReg (Obj.lastEdgeTime ch) (time80OfNs (movedBy d (ns80 (s.reg (Obj.lastEdgeTime ch)))))

/-- Every stored time still in use moved by `d` ns (R447). -/
def State.moveTimes (s : State) (d : Int) : State :=
  let ps := d * 1000
  let s := (s.moveLastEdge d 0).moveLastEdge d 1
  let groups := s.taper.groups.map (fun (x : Nat × Group) => (x.1, x.2.moved ps))
  let frames := s.lantern.frames.map (fun (x : Nat × Frame) => (x.1, x.2.moved d))
  let enc := { s.enc with ch0 := s.enc.ch0.moved d, ch1 := s.enc.ch1.moved d }
  let taper := { s.taper with groups := groups, unsettled := s.taper.unsettled.map (Unsettled.moved ps) }
  let twin := { s.twin with own := s.twin.own.map (Own.moved ps) }
  { s with enc := enc, taper := taper, twin := twin, lantern := { s.lantern with frames := frames },
           led := { s.led with window := s.led.window.map (Window.moved ps) } }

/-- Beacon moved by `d` ns; the seconds wrap at 2^48. -/
def Beacon.moved (d : Int) (b : Beacon) : Beacon :=
  let t := ((1000000000 * b.sec + b.ns : Nat) : Int) + d
  let u := (t % ((2 ^ 48 * 1000000000 : Nat) : Int)).toNat
  { sec := u / 1000000000, ns := u % 1000000000, frac := b.frac }

/-- A step of `d` ns (R447, R449). -/
def State.stepBeacon (s : State) (d : Int) : State :=
  let s := s.moveTimes d
  let s := { s with clock := { s.clock with beacon := s.clock.beacon.moved d } }
  let s := { s with ptp := { s.ptp with stamps := [], syncOut := none, stepAt := some s.clock.cycles } }
  let s := (s.bump Obj.steps).setBits Obj.ptpStatus 4
  let s := if s.mode.working then s.sendTimes s.upLanes else s
  s.logEvent Ev.beaconStep (le 8 (ofSigned 64 d))

/-- TIME_FRAME_SEND (11 R263): TIME on every lane that is up, in PILOT, TRIM and LIT. -/
def execTimeFrameSend (s : State) : Host.Outcome State Fault Refusal :=
  if s.mode.working then ok (s.sendTimes s.upLanes) else ok s

/-! ### The PTP grandmaster (R453 to R458) -/

/-- PTP_STATE as it reads (R454). -/
def State.ptpState (s : State) : Nat :=
  if s.isSet Obj.ptpEnable = false then 0
  else if s.role ≠ .solo ∧ s.role ≠ .primary then 3
  else if s.isSet Obj.timeValid = false then 1
  else 2

/-- Whether the device sends PTP now (R454). -/
def State.ptpMaster (s : State) : Bool :=
  decide (s.ptpState = 2) && (s.mode.working || decide (s.mode = .snuff)) && s.blockUp Block.ethMac && s.blockUp Block.beacon

/-- clockIdentity (R455). -/
def ptpIdentity : Nat :=
  let mac := trunc 48 Config.macAddr
  2 ^ 40 * bits mac 47 24 + 0xFFFE * 2 ^ 24 + bits mac 23 0

/-- A time in a PTP message: seconds and nanoseconds, most significant byte first. -/
def ptpTime (ns : Nat) : List Byte := be 6 (ns / 1000000000) ++ be 4 (ns % 1000000000)

/-- The stamp at the network side of the PHY: the reading and the PHY latency, exact to ±150 ns (R457); the error is free (log
entry 5). -/
def State.netStamp (s : State) (reading latency : Nat) : Nat × State :=
  let (f, s) := s.fresh 32
  (reading + latency + f % 301 - 150, s)

/-- PTP message types: Sync, Delay_Req, Follow_Up, Delay_Resp, Announce. -/
def ptpSync : Nat := 0
def ptpFollow : Nat := 8
def ptpResp : Nat := 9
def ptpAnnounce : Nat := 11

/-- Whether a message is an event message, which goes to port 319 (R453); the others go to 320. -/
def ptpEvent (msg : Nat) : Bool := decide (msg = ptpSync)

/-- The interval that a message carries: that of the Announce, of the Delay_Req that the master asks for, or of the Sync. -/
def State.ptpInterval (s : State) (msg : Nat) : Nat :=
  s.reg (if msg = ptpAnnounce then Obj.logAnnounceInterval else if msg = ptpResp then Obj.logMinDelayReq else Obj.logSyncInterval)

/-- Send a PTP message to 224.0.1.129 (R453): two-step, with correctionField 0. -/
def State.sendPtp (s : State) (msg seq : Nat) (body : List Byte) : State :=
  s.emit (.ptp { msg := msg, domain := s.reg Obj.ptpDomain, seq := seq, dst := 0xE0000181, port := if ptpEvent msg then 319 else 320,
                 twoStep := ptpEvent msg, correction := 0, interval := s.ptpInterval msg, body := body })

/-- PTP_SYNC_SEND (R453): a two-step Sync. -/
def execPtpSyncSend (s : State) : Host.Outcome State Fault Refusal :=
  if s.ptpMaster then
    let n := s.ptp.syncSeq
    let s := (s.sendPtp ptpSync n []).bump Obj.syncSent
    ok { s with ptp := { s.ptp with syncSeq := (n + 1) % 2 ^ 16, syncOut := some n } }
  else ok s

/-- PTP_TIMESTAMP_VECTOR (R457): Beacon is read and queued with the message; a stamp of the REF cycle of a step is discarded, with the
Follow_Up that needs it (R449, R460). -/
def execPtpTimestampVector (tx : Bool) (msg : Nat) (s : State) : Host.Outcome State Fault Refusal :=
  if s.blockUp Block.ethMac && s.blockUp Block.beacon && s.configured then
    if s.ptp.stepAt = some s.clock.cycles then
      ok (if tx ∧ s.ptp.syncOut = some msg then { s with ptp := { s.ptp with syncOut := none } } else s)
    else ok { s with ptp := { s.ptp with stamps := s.ptp.stamps ++ [{ tx := tx, msg := msg, time := s.nowNs }] } }
  else ok s

/-- Take the queued stamp of a message. -/
def State.takeStamp (s : State) (tx : Bool) (msg : Nat) : Option (Nat × State) :=
  match s.ptp.stamps.find? (fun x => x.tx = tx && x.msg = msg) with
  | none => none
  | some x => some (x.time, { s with ptp := { s.ptp with stamps := s.ptp.stamps.erase x } })

/-- PTP_FOLLOW_UP (R458): the transmit stamp of the Sync returns, and the Follow_Up carries it. -/
def execPtpFollowUp (s : State) : Host.Outcome State Fault Refusal :=
  match s.ptp.syncOut with
  | none => ok s
  | some n =>
    match s.takeStamp true n with
    | none => ok s
    | some (t, s) =>
      let (v, s) := s.netStamp t (s.reg Obj.phyTxLatency)
      let s := (s.setReg Obj.lastSyncTx (time80OfNs v)).sendPtp ptpFollow n (ptpTime v)
      ok { s with ptp := { s.ptp with syncOut := none } }

/-- The fields of an Announce that R455 gives: currentUtcOffset, flags (ptpTimescale [3], currentUtcOffsetValid [2]), priority1, class,
accuracy, variance, priority2, clockIdentity, stepsRemoved, timeSource. -/
def State.announceBody (s : State) : List Byte :=
  be 2 (s.reg Obj.utcOffset) ++ be 1 (8 + 4 * s.reg Obj.utcOffsetValid) ++ be 1 (s.reg Obj.priority1) ++
    be 1 (s.reg Obj.clockClass) ++ be 1 0xFE ++ be 2 0xFFFF ++ be 1 (s.reg Obj.priority2) ++ be 8 ptpIdentity ++ be 2 0 ++ be 1 0xA0

/-- PTP_ANNOUNCE_SEND (R455). -/
def execPtpAnnounceSend (s : State) : Host.Outcome State Fault Refusal :=
  if s.ptpMaster then
    let n := s.ptp.announceSeq
    let s := s.sendPtp ptpAnnounce n s.announceBody
    ok { s with ptp := { s.ptp with announceSeq := (n + 1) % 2 ^ 16 } }
  else ok s

/-- PTP_DELAY_REQ (R456, R458). -/
def execPtpDelayReq (domain identity seq : Nat) (s : State) : Host.Outcome State Fault Refusal :=
  if s.ptpMaster = false ∨ domain ≠ s.reg Obj.ptpDomain then ok s
  else
    let recent := s.ptp.reqTimes.filter (fun t => decide (s.clock.cycles - t < cyclesPerSec))
    if 512 ≤ recent.length then ok ((s.bump Obj.delayReqDropped).setBits Obj.ptpStatus 2)
    else
      let s := { s with ptp := { s.ptp with reqTimes := s.clock.cycles :: recent } }
      match s.takeStamp false seq with
      | none => ok s
      | some (t, s) =>
        let (v, s) := s.netStamp t (s.reg Obj.phyRxLatency)
        ok ((s.sendPtp ptpResp seq (ptpTime v ++ be 10 identity)).bump Obj.delayRespSent)

/-- PTP_FOREIGN_ANNOUNCE (R454). -/
def execPtpForeignAnnounce (identity : Nat) (s : State) : Host.Outcome State Fault Refusal :=
  if s.blockUp Block.ethMac = false ∨ s.configured = false ∨ identity = ptpIdentity then ok s
  else
    let s := (s.bump Obj.foreignAnnounce).setBits Obj.ptpStatus 1
    let raise := match s.ptp.foreignAt with
      | none => true
      | some t => decide (10 * cyclesPerSec ≤ s.clock.cycles - t)
    if raise then ok (({ s with ptp := { s.ptp with foreignAt := some s.clock.cycles } }).logEvent Ev.ptpForeign [])
    else ok s

end Sys2Proof.Machine
end

