-- ==== Sys2Proof/Machine/Motion.lean ====
section
/-! DEFINITION. The stepper axes (20): moves, homing, stops and the choppers. -/

namespace Sys2Proof.Machine

/-! ### Positions -/

/-- One microstep in the unit of an axis's position, and one microstep per second in that of its velocity. -/
def microstep : Int := 1000000000000000
def perSecond : Int := 10000000000

/-- The axes that a stop, a fault or POSITION_LOST of an axis applies to (R437). -/
def State.pair (s : State) (a : Nat) : List Nat := if s.isSet Obj.gantryLink && decide (a < 2) then [0, 1] else [a]

/-- Whether an axis is moving or homing. -/
def AxisDo.going : AxisDo → Bool
  | .moving | .seeking | .pushing | .waiting | .backing => true
  | _ => false

/-- Whether an axis homes (AXIS_STATE 4). -/
def AxisDo.homing : AxisDo → Bool
  | .seeking | .pushing | .waiting | .backing => true
  | _ => false

/-- FAULT of an axis, as AXIS_STATUS holds it (R433). -/
def State.axFault (s : State) (a : Nat) : Bool := (s.reg (Obj.axisStatus a)).testBit 2

/-- POSITION_LOST of an axis: of either lift axis where they are linked (R437). -/
def State.axLost (s : State) (a : Nat) : Bool := (s.pair a).any (fun b => (s.axis b).lost)

/-- AXIS_STATE as it reads. -/
def State.axisState (s : State) (a : Nat) : Nat :=
  let x := s.axis a
  if s.blockUp Block.motion = false then 0
  else if s.axFault a then 5
  else if x.act.homing then 4
  else if x.act = .moving then 3
  else if s.axLost a then 1 else 2

/-- VELOCITY as it reads. -/
def State.axisVelocity (s : State) (a : Nat) : Int := quot 4 (s.axis a).vel perSecond.toNat

/-- OFFSET_NOW as it reads (R431). -/
def State.offsetNow (s : State) (a : Nat) : Nat := (s.axis a).chA.delta + 256 * (s.axis a).chB.delta

/-- POSITION follows the whole microsteps passed; a step on the motor for them. -/
def State.placeSteps (s : State) (a : Nat) : State :=
  let old := s.sreg (Obj.axPosition a)
  let p := (s.axis a).pos
  let new := if (old + 1) * microstep ≤ p then p / microstep else if p ≤ (old - 1) * microstep then -((-p) / microstep) else old
  if new = old then s else (s.setSreg (Obj.axPosition a) new).emit (.step a new)

/-! ### Stops (R440) -/

/-- The Wick's leave for a move that has not started is given back: a waiting request is withdrawn, a grant refunded (R442). -/
def State.withdrawMove (s : State) (a : Nat) : State :=
  let who := Requester.stepper a
  let s := if s.hasLeave who then (s.useLeave who).refundPool 2 (s.axis a).charge else s
  ({ s with wick := { s.wick with queue := s.wick.queue.filter (fun w => w.req.who ≠ who) } }).noteQueued

/-- The generator of an axis stops at once; `lost` is set where it was going, or a fault says so. -/
def State.stopAxis (s : State) (lost : Bool) (a : Nat) : State :=
  let x := s.axis a
  let s := if x.act = .asking then s.withdrawMove a else s
  s.setAxis a { x with act := .rest, vel := 0, acc := 0, left := 0, brake := 0, follows := false, charge := 0, lost := x.lost || lost }

/-- Stop each of a list of axes. -/
def State.stopEach (s : State) (lost : Bool) : List Nat → State
  | [] => s
  | a :: t => (s.stopAxis lost a).stopEach lost t

/-- Stop an axis, and with a gantry link the other lift axis: those that were going lose their position. -/
def State.stopPair (s : State) (a : Nat) : State :=
  let l := s.pair a
  s.stopEach (l.any (fun b => (s.axis b).act.going)) l

/-- A stop has been asked for: a TARGET written to one of the axes before the next tick is discarded (R442). -/
def State.halt (s : State) : List Nat → State
  | [] => s
  | a :: t => (s.setAxis a { s.axis a with halted := true }).halt t

/-- Stop every axis: STOP_ALL, SNUFF entry, BLOCK_RESET. -/
def State.stopAxes (s : State) : State := [0, 1, 2, 3].foldl State.stopPair s

/-- A phase fault (R433): the motor coasts, POSITION_LOST, FAULT and AXIS_FAULT. -/
def State.faultAxis (s : State) (a code : Nat) (ph : Phase) : State :=
  let s := s.stopEach true (s.pair a)
  let phase := if ph = .b then 32 else 0
  let s := s.setReg (Obj.axisStatus a) (s.reg (Obj.axisStatus a) % 8)
  let s := s.setBits (Obj.axisStatus a) (4 + 8 * code + phase)
  let x := s.axis a
  let s := s.setAxis a { x with chA := { x.chA with driving := false, shorts := 0 }, chB := { x.chB with driving := false, shorts := 0 } }
  (s.emit (.gatesLow a)).logEvent Ev.axisFault (le 1 a ++ le 1 code)

/-! ### Moves (R434 to R437) -/

/-- Ticks of the plan of an axis to a target, or to a speed, under its limits. -/
def State.planOf (s : State) (a : Nat) (goal : Int) : Nat :=
  let x := s.axis a
  Config.planTicks x.pos x.vel x.acc goal (s.reg (Obj.vMax a), s.reg (Obj.aMax a), s.reg (Obj.jMax a))

/-- Whether a motion at speed `v` and acceleration `acc`, both along it, comes to rest within `dist` under a jerk of `j` and an acceleration
of `a` (R436), in units of one tick: six j² times the stopping distance is 6 j v acc + 2 acc³ + 3 r √(r/2), or with the ramps cut at `a`
6 j v acc + 2 acc³ + 3 r a/2 + 3 r²/(4 a), where r = 2 j v + acc² (log entry 16). -/
def stopsWithin (v acc dist j a : Int) : Bool :=
  let r := 2 * j * v + acc * acc
  let m := 6 * j * j * dist - 6 * j * v * acc - 2 * acc * acc * acc
  if a < acc ∨ (acc < 0 ∧ 2 * j * v < acc * acc) then false
  else if r ≤ 2 * a * a then decide (0 ≤ m) && decide (9 * r * r * r ≤ 2 * m * m)
  else decide (6 * r * a * a + 3 * r * r ≤ 4 * a * m)

/-- Whether an axis can stop at or short of a target without exceeding A_MAX or J_MAX (R436). -/
def State.stopsShort (s : State) (a : Nat) (goal : Int) : Bool :=
  let x := s.axis a
  let dist := goal * microstep - x.pos
  let back := decide (x.vel < 0) || (decide (x.vel = 0) && (decide (x.acc < 0) || (decide (x.acc = 0) && decide (dist < 0))))
  let along (i : Int) : Int := if back then -i else i
  stopsWithin (along x.vel) (along x.acc) (along dist) (s.reg (Obj.jMax a)) ((s.reg (Obj.aMax a) : Int) * 100000)

/-- Ticks of the braking that comes before the approach (R436); none where the approach is direct. -/
def State.brakeOf (s : State) (a : Nat) (goal : Int) : Nat :=
  if s.stopsShort a goal then 0
  else max 1 (Config.brakeTicks (s.axis a).vel (s.axis a).acc (s.reg (Obj.aMax a), s.reg (Obj.jMax a)))

/-- The axes that a TARGET of an axis moves (R437). -/
def State.movers (s : State) (a : Nat) : List Nat := if s.isSet Obj.gantryLink && decide (a = 0) then [0, 1] else [a]

/-- pJ for a number of ticks of the axes that move: MOVE_POWER in mW for 10 µs each. -/
def State.moveEnergy (s : State) (l : List Nat) (ticks : Nat) : Nat :=
  10000 * (sumList (l.map (fun b => s.reg (Obj.movePower b))) * ticks)

/-- Whether a TARGET may be written to an axis now (R434, R437, R442). -/
def State.mayMove (s : State) (a : Nat) : Bool :=
  decide (s.mode = .trim) && s.blockUp Block.motion && !(s.isSet Obj.gantryLink && decide (a = 1)) &&
    (s.pair a).all (fun b => !(s.axis b).lost && !s.axFault b && !(s.axis b).act.homing)

/-- Whether homing may be started (R438). -/
def State.mayHome (s : State) (a : Nat) : Bool :=
  decide (s.mode = .trim) && s.blockUp Block.motion &&
    (s.pair a).all (fun b => !s.axFault b && !(s.axis b).act.going && decide ((s.axis b).act ≠ .asking))

/-- A replan of a move: extra ticks are charged unconditionally (R436). -/
def State.replan (s : State) (a : Nat) (goal : Int) : State :=
  let x := s.axis a
  let brake := s.brakeOf a goal
  let n := brake + s.planOf a goal
  let s := if x.left < n then s.chargePool 2 (s.moveEnergy (s.movers a) (n - x.left)) else s
  s.setAxis a { x with goal := goal, left := n, brake := brake }

/-- A write of TARGET that has been accepted (R434, R436); one beside a stop is discarded (R442). -/
def State.moveTo (s : State) (a : Nat) (goal : Int) : State :=
  if (s.axis a).halted then s
  else
    let s := s.setSreg (Obj.axTarget a) goal
    let x := s.axis a
    if x.act = .moving then s.replan a goal
    else
      let s := s.withdrawMove a
      let n := s.planOf a goal
      let e := s.moveEnergy (s.movers a) n
      let s := s.setAxis a { x with act := .asking, goal := goal, left := n, charge := e }
      match s.linesFirst.ask { who := .stepper a, core := none, head := none, mach := some e, peak := e } with
      | (.refused, s) => (s.setAxis a { x with act := .rest, charge := 0 }).bump Obj.moveRefused
      | (_, s) => s

/-- A deferred move has been refused. -/
def State.moveRefused (s : State) (a : Nat) : State :=
  let x := s.axis a
  if x.act = .asking then (s.setAxis a { x with act := .rest, charge := 0, left := 0 }).bump Obj.moveRefused else s

/-- MOVE_START (R434, R437): the leave is used and the plan begins, under the limits as they now stand (R436). -/
def execMoveStart (axis : Fin 4) (s : State) : Host.Outcome State Fault Refusal :=
  let x := s.axis axis
  if x.act = .asking ∧ s.hasLeave (.stepper axis) = true then
    let linked := s.isSet Obj.gantryLink && decide ((axis : Nat) = 0)
    let s := ((s.useLeave (.stepper axis)).setAxis axis { x with act := .moving, charge := 0 }).replan axis x.goal
    let y := s.axis 1
    let step := x.goal * microstep - x.pos
    ok (if linked then s.setAxis 1 { y with act := .moving, follows := true, goal := (y.pos + step) / microstep } else s)
  else ok s

/-! ### Homing (R438, R439) -/

/-- HOME_DIR as a sign. -/
def State.homeSign (s : State) (a : Nat) : Int := if s.reg (Obj.homeDir a) = 0 then 1 else -1

/-- Homing of an axis begins. -/
def State.startHome (s : State) (a : Nat) : State :=
  let x := s.axis a
  let v := s.homeSign a * (s.reg (Obj.homeSpeed a) : Int) * perSecond
  s.setAxis a { x with act := .seeking, goal := v, left := s.planOf a v, travel := 0, stepAt := 0,
                       driveSum := 0, driveNum := 0, learnSteps := 0, lowSteps := 0 }

/-- Homing of each of a list of axes begins. -/
def State.startHomes (s : State) : List Nat → State
  | [] => s
  | a :: t => (s.startHome a).startHomes t

/-- An axis backs off from its stop. -/
def State.backOff (s : State) (a : Nat) : State :=
  let x := s.axis a
  let goal := s.sreg (Obj.homeOffset a) - s.homeSign a * (s.reg (Obj.backoff a) : Int)
  s.setAxis a { x with act := .backing, goal := goal, left := s.planOf a goal }

/-- An axis has stalled: POSITION becomes HOME_OFFSET; a linked lift axis waits for the other (R439). -/
def State.stalled (s : State) (a : Nat) : State :=
  let off := s.sreg (Obj.homeOffset a)
  let s := s.setSreg (Obj.axPosition a) off
  let x := s.axis a
  let s := s.setAxis a { x with act := .waiting, pos := off * microstep, vel := 0, acc := 0, left := 0 }
  let l := s.pair a
  if l.all (fun b => (s.axis b).act = .waiting) then l.foldl State.backOff s else s

/-- Homing has travelled HOME_MAX_TRAVEL without a stall (R439). -/
def State.homeFail (s : State) (a : Nat) : State := (s.stopPair a).setBits (Obj.axisStatus a) 2

/-- A full step at HOME_SPEED has been made: learning, or the test for a stall (R438). -/
def State.fullStep (s : State) (a : Nat) : State :=
  let x := s.axis a
  let y : Axis := { x with stepAt := x.stepAt + 256 * microstep.toNat }
  if x.act = .seeking then
    if x.learnSteps + 1 < 16 then s.setAxis a { y with learnSteps := x.learnSteps + 1 }
    else
      let (mean, s) := if x.driveNum = 0 then s.fresh 16 else ((quot 5 x.driveSum x.driveNum).toNat % 2 ^ 16, s)
      (s.setReg (Obj.stallTon a) mean).setAxis a { y with act := .pushing, learnSteps := 16, driveSum := 0, driveNum := 0 }
  else
    let low := decide (0 < x.driveNum) &&
      decide (256 * x.driveSum < s.reg (Obj.stallTon a) * s.reg (Obj.stallRatio a) * x.driveNum)
    let n := if low then x.lowSteps + 1 else 0
    let s := s.setAxis a { y with lowSteps := n, driveSum := 0, driveNum := 0 }
    if s.reg (Obj.stallSteps a) ≤ n then s.stalled a else s

/-! ### The tick (R435) -/

/-- A signed number held within ±m. -/
def within (m x : Int) : Int := if x < -m then -m else if m < x then m else x

/-- One tick of a plan: jerk, acceleration, velocity, position. Neither magnitude grows past its limit; one that stands above a limit
written since comes down by the jerk (R436). -/
def Axis.advance (x : Axis) (j aMax vMax : Int) : Axis :=
  let acc := within (max aMax x.acc.natAbs) (x.acc + j)
  let vel := within (max vMax x.vel.natAbs) (x.vel + acc)
  { x with acc := acc, vel := vel, pos := x.pos + vel }

/-- The jerk of an axis's plan in this tick: +J_MAX, 0 or −J_MAX. -/
def State.jerkNow (s : State) (a : Nat) : Int :=
  let x := s.axis a
  let v := s.reg (Obj.vMax a)
  let aMax := s.reg (Obj.aMax a)
  let j := s.reg (Obj.jMax a)
  let sign := if x.brake = 0 then Config.planJerk x.pos x.vel x.acc x.goal (v, aMax, j) x.left
    else Config.brakeJerk x.vel x.acc (aMax, j) x.brake
  within 1 sign * (j : Int)

/-- An axis after one tick under its limits. -/
def State.advanced (s : State) (a : Nat) : Axis :=
  (s.axis a).advance (s.jerkNow a) ((s.reg (Obj.aMax a) : Int) * 100000) ((s.reg (Obj.vMax a) : Int) * perSecond)

/-- An axis at rest on its target. -/
def Axis.arrived (x : Axis) : Axis := { x with pos := x.goal * microstep, vel := 0, acc := 0, left := 0, brake := 0 }

/-- The end of a tick of braking: the last leaves the axis at zero velocity and zero acceleration (R436). -/
def Axis.braked (x : Axis) : Axis := if x.brake = 1 then { x with vel := 0, acc := 0, brake := 0 } else { x with brake := x.brake - 1 }

/-- One tick of a move, or of a back-off; it ends at rest exactly on the target. -/
def State.tickMove (s : State) (a : Nat) : State :=
  let x := s.axis a
  if x.left ≤ 1 then
    let s := (s.setAxis a { x.arrived with act := .rest, follows := false }).placeSteps a
    if x.act = .backing then (s.setAxis a { s.axis a with lost := false }).setBits (Obj.axisStatus a) 1
    else s.bump (Obj.moves a)
  else (s.setAxis a { (s.advanced a).braked with left := x.left - 1 }).placeSteps a

/-- One tick of LIFT_B under LIFT_A's plan. -/
def State.tickFollow (s : State) (old : Axis) : State :=
  let lead := s.axis 0
  let y := s.axis 1
  if lead.act = .moving then
    (s.setAxis 1 { y with pos := y.pos + (lead.pos - old.pos), vel := lead.vel, acc := lead.acc, left := lead.left }).placeSteps 1
  else
    let y := { y with pos := y.pos + (lead.pos - old.pos), vel := 0, acc := 0, left := 0, act := .rest, follows := false }
    ((s.setAxis 1 y).placeSteps 1).bump (Obj.moves 1)

/-- One tick towards the stop. -/
def State.tickHome (s : State) (a : Nat) : State :=
  let x := s.axis a
  let y : Axis :=
    if x.left = 0 then { x with pos := x.pos + x.vel }
    else if x.left = 1 then { x with vel := x.goal, acc := 0, left := 0, pos := x.pos + x.goal }
    else { s.advanced a with left := x.left - 1 }
  let moved := (y.pos - x.pos).natAbs
  let y := { y with travel := x.travel + moved, stepAt := if x.left = 0 then x.stepAt else x.travel + moved }
  let s := (s.setAxis a y).placeSteps a
  let s := if 256 * microstep ≤ ((y.travel : Int) - y.stepAt) then s.fullStep a else s
  if ((s.axis a).act = .seeking ∨ (s.axis a).act = .pushing) ∧
      (s.reg (Obj.homeMaxTravel a) : Int) * microstep ≤ ((s.axis a).travel : Int) then s.homeFail a
  else s

/-- One tick of an axis. -/
def State.tickAxis (s : State) (a : Nat) : State :=
  let x := s.axis a
  match x.act with
  | .moving => if x.follows then s else s.tickMove a
  | .backing => s.tickMove a
  | .seeking | .pushing => s.tickHome a
  | _ => s

/-- A tick has come since the latest stop. -/
def State.unhalt (s : State) : State :=
  { s with axes := s.axes.map (fun (x : Nat × Axis) => (x.1, { x.2 with halted := false })) }

/-- MOTION_TICK (R435): every 10 µs. -/
def execMotionTick (s : State) : Host.Outcome State Fault Refusal :=
  if s.blockUp Block.motion then
    let s := s.unhalt
    let old := s.axis 0
    let s := s.tickAxis 0
    let s := if (s.axis 1).act = .moving ∧ (s.axis 1).follows = true then s.tickFollow old else s.tickAxis 1
    ok ((s.tickAxis 2).tickAxis 3)
  else ok s

/-! ### The choppers (R430 to R433) -/

/-- 2^64 × cos(2π m ÷ 1,024) for m from 0 to 256, by its series. -/
def cosQ (m : Nat) : Int :=
  let one : Int := 2 ^ 64
  let x : Int := (m : Int) * 6283185307179586476925286766559 / (1024 * 10 ^ 30 / 2 ^ 64 : Int)
  let x2 := x * x / one
  let term (p : Int × Int) (k : Nat) : Int × Int :=
    let t := -(p.2 * x2 / one) / ((2 * k + 1) * (2 * k + 2) : Nat)
    (p.1 + t, t)
  ((List.range 14).foldl term (one, one)).1

/-- 2^64 × |cos| of a microstep index. -/
def cosMag (mu : Nat) : Nat :=
  let m := mu % 1024
  let q := if m ≤ 256 then m else if m ≤ 512 then 512 - m else if m ≤ 768 then m - 512 else 1024 - m
  (cosQ q).toNat

/-- The current of an axis in mA (R430). -/
def State.coilCurrent (s : State) (a : Nat) : Nat :=
  match (s.axis a).act with
  | .moving | .seeking | .backing | .waiting => s.reg (Obj.runCurrent a)
  | .pushing => s.reg (Obj.homeCurrent a)
  | _ => s.reg (Obj.holdCurrent a)

/-- The target of a phase in mA, times 2^64 (R430). -/
def State.phaseTarget (s : State) (a : Nat) (ph : Phase) : Nat :=
  let mu := s.reg (Obj.axPosition a) % 1024
  s.coilCurrent a * cosMag (match ph with | .a => mu | .b => (mu + 768) % 1024)

/-- The code of a phase's target current, with the offset of its comparator (R428, R432). -/
def State.targetCode (s : State) (a : Nat) (ph : Phase) : Int :=
  let cal := s.reg (Obj.cmpCal a)
  nearest 13 (100 * (s.phaseTarget a ph * s.reg (Obj.shunt a)) : Nat) (48828 * 2 ^ 64) +
    (match ph with | .a => bits cal 9 0 | .b => bits cal 25 16 : Nat)

/-- DEAD_TIME in ns, rounded up to whole MOTION cycles of 20 ns (R429). -/
def State.deadNs (s : State) (a : Nat) : Nat := 20 * ((s.reg (Obj.deadTime a) + 19) / 20)

/-- A chopper of an axis, and the axis with another. -/
def Axis.chop (x : Axis) : Phase → Chop
  | .a => x.chA
  | .b => x.chB

def Axis.setChop (x : Axis) (ph : Phase) (c : Chop) : Axis :=
  match ph with
  | .a => { x with chA := c }
  | .b => { x with chB := c }

/-- Whether the choppers of an axis run: MOTION out of reset, no fault, in PILOT, TRIM, LIT or SNUFF (02 R48). -/
def State.chopping (s : State) (a : Nat) : Bool :=
  s.blockUp Block.motion && !s.axFault a && (s.mode.working || decide (s.mode = .snuff))

/-- CHOPPER_TRIP (R431): the drive ends after `driveNs`, and decay begins; a trip inside BLANK is ignored. -/
def execChopperTrip (axis : Fin 4) (ph : Phase) (driveNs : Nat) (s : State) : Host.Outcome State Fault Refusal :=
  let x := s.axis axis
  let c := x.chop ph
  if s.chopping axis && c.driving && decide (s.reg (Obj.axBlank axis) ≤ driveNs) then
    let x := x.setChop ph { c with driving := false }
    let x := if (x.act = .seeking ∧ x.left = 0) ∨ x.act = .pushing then
        { x with driveSum := x.driveSum + driveNs, driveNum := x.driveNum + 1 } else x
    ok ((s.setAxis axis x).emit (.gates axis ph false (s.deadNs axis)))
  else ok s

/-- CHOPPER_TOFF_EXPIRY (R431): the phase drives again, with the reference at target − Δ for the sample at the end of BLANK. -/
def execChopperToffExpiry (axis : Fin 4) (ph : Phase) (s : State) : Host.Outcome State Fault Refusal :=
  let x := s.axis axis
  if s.chopping axis && !(x.chop ph).driving then
    ok ((s.setAxis axis (x.setChop ph { x.chop ph with driving := true })).emitAll
      [.gates axis ph true (s.deadNs axis), .comparator axis ph (s.targetCode axis ph - (x.chop ph).delta)])
  else ok s

/-- CHOPPER_BLANK_EXPIRY (R431, R433): one sample against target − Δ; from then on the reference is at target + Δ. -/
def execChopperBlankExpiry (axis : Fin 4) (ph : Phase) (high : Bool) (s : State) : Host.Outcome State Fault Refusal :=
  let x := s.axis axis
  let c := x.chop ph
  if s.chopping axis && c.driving then
    let low := decide (2 * s.phaseTarget axis ph < 2 ^ 64 * s.reg (Obj.runCurrent axis))
    let shorts := if high && low then c.shorts + 1 else 0
    let delta := if high then c.delta - 1 else min 63 (c.delta + 1)
    let s := s.setAxis axis (x.setChop ph { c with delta := delta, shorts := shorts })
    ok (if 3 ≤ shorts then s.faultAxis axis 1 ph else s.emit (.comparator axis ph (s.targetCode axis ph + delta)))
  else ok s

/-- PHASE_OPEN_TIMEOUT (R433): a drive has lasted 200 µs without a trip. -/
def execPhaseOpenTimeout (axis : Fin 4) (ph : Phase) (s : State) : Host.Outcome State Fault Refusal :=
  if s.chopping axis && ((s.axis axis).chop ph).driving &&
      decide (2 ^ 64 * s.reg (Obj.runCurrent axis) ≤ 4 * s.phaseTarget axis ph) then ok (s.faultAxis axis 2 ph)
  else ok s

end Sys2Proof.Machine
end

