-- ==== Sys2Proof/Machine/Led.lean ====
section
/-! DEFINITION. The illumination driver (14): on-times, derating, the temperature limit, leave for light. -/

namespace Sys2Proof.Machine

/-- Length of a row slot in ps, from the exposure in ns (R331). -/
def slotPs (exposure : Nat) : Nat := 5000 * (exposure / 40)

/-- CAL_CODES of a segment. -/
def State.calCode (s : State) (k : Nat) : Nat :=
  match (s.dom Obj.calCodes)[k]? with
  | some b => b.toNat
  | none => 255

/-- The on-time of segment `k` in ps (R332). -/
def State.onTime (s : State) (set : CamSet) (derate k : Nat) : Nat :=
  let lit := slotPs set.exposure - 1000 * s.reg Obj.ledBlank
  lit * set.level * (s.calCode k + 1) * derate / (65536 * 256 * 256) / 625 * 625

/-- Whether a segment is in a context's mask. -/
def CamSet.masked (set : CamSet) (k : Nat) : Bool := if k < 64 then set.maskLo.testBit k else set.maskHi.testBit (k - 64)

/-- The on-times of the 128 segments: 0 for one not in the mask (R331). -/
def State.onTimes (s : State) (set : CamSet) (derate : Nat) : List Nat :=
  (List.range 128).map (fun k => if set.masked k then s.onTime set derate k else 0)

/-- Whether slot − BLANK is at least 50 ns (R333). -/
def windowOk (exposure blank : Nat) : Bool := decide (50000 + 1000 * blank ≤ slotPs exposure)

/-- The smallest whole number not below a BF24 value. -/
def bf24Ceil (w : Nat) : Int := -((-(Bf24.num w)) / (2 ^ 151 : Nat))

/-- The derate factor that a frame takes (R334). KNEE_TEMP is a whole number, so ⌈θ − KNEE_TEMP⌉ = ⌈θ⌉ − KNEE_TEMP. -/
def State.derate (s : State) : Nat :=
  let slot := s.reg Obj.ledTempSlot
  if 48 ≤ slot then 256
  else
    let over_ := bf24Ceil (s.reg (Obj.measured slot)) - s.sreg Obj.kneeTemp
    if over_ ≤ 0 then 256 else max (s.reg Obj.derateMin) (256 - (s.reg Obj.derateSlope : Int) * over_).toNat

/-! ### The matrix (R330, R331) -/

/-- Segment `k` is row k ÷ 16 and column k mod 16. -/
def segmentAt (r c : Nat) : Nat := 16 * r + c

/-- When the part of row slot `r` after BLANK begins and when the slot ends, in ps. -/
def Window.opens (w : Window) (r : Nat) : Nat := w.start + r * w.slot + w.blank
def Window.ends (w : Window) (r : Nat) : Nat := w.start + (r + 1) * w.slot

/-- Whether LED_ROWr is high at a time in ps. -/
def Window.row (w : Window) (t r : Nat) : Bool := decide (r < 8) && decide (w.opens r ≤ t) && decide (t < w.ends r)

/-- Whether LED_COLc is high at a time: in the slot of a row, from BLANK for the on-time of the segment. -/
def Window.col (w : Window) (t c : Nat) : Bool :=
  (List.range 8).any (fun r => w.row t r && decide (t < w.opens r + w.ons.getD (segmentAt r c) 0))

/-- The levels of the LED outputs at a time; outside an exposure window each is low. -/
def Led.row (l : Led) (t r : Nat) : Bool := l.window.any (fun w => w.row t r)
def Led.col (l : Led) (t c : Nat) : Bool := l.window.any (fun w => w.col t c)

/-- Whether an exposure window is open. -/
def State.windowOpen (s : State) : Bool := s.led.window.any (fun w => decide (s.nowPs < w.ends 7))

/-- Every LED output goes low (R335, R337). -/
def State.ledsLow (s : State) : State := ({ s with led := { s.led with window := none } }).emit .ledsOff

/-- A TRIG pulse opens an exposure window (R331). While another port's window is open the pulse lights nothing: no two rows are ever high at
once (R330; log entry 101). -/
def State.openWindow (s : State) (c exposure : Nat) (ons : List Nat) : State :=
  if s.windowOpen then s
  else
    let w : Window := { ctx := c, start := s.nowPs, slot := slotPs exposure, blank := 1000 * s.reg Obj.ledBlank, ons := ons }
    ({ s with led := { s.led with window := some w } }).emit (.led c w.slot w.blank ons)

/-- Frames in progress run dark from now on. -/
def State.darken (s : State) : State :=
  let frames := s.lantern.frames.map (fun (x : Nat × Frame) => (x.1, { x.2 with lit := false }))
  { s with lantern := { s.lantern with frames := frames } }

/-- A sample of a loop slot at the LED driver (R335): at LED_TEMP_MAX every output goes low and OVERTEMP sets. -/
def State.ledSample (s : State) (slot y : Nat) : State :=
  if slot ≠ s.reg Obj.ledTempSlot then s
  else
    let top := s.sreg Obj.ledTempMax
    if !Bf24.lt y (Bf24.ofInt top) then
      let s := (s.darken.ledsLow).setBits Obj.ledStatus 1
      if s.led.hot then s else ({ s with led := { s.led with hot := true } }).logEvent Ev.overtemp []
    else if Bf24.lt y (Bf24.ofInt (top - 5)) then { s with led := { s.led with hot := false } }
    else s

/-- The energy of a lit frame in pJ (R336). -/
def State.lightEnergy (s : State) (set : CamSet) (derate : Nat) : Nat :=
  (quot 9 (sumList (s.onTimes set derate) * set.lines * s.reg Obj.ledSegPower : Nat) 1000).toNat

/-- Leave for the light of a frame (R336): a grant lights it; a deferral or a refusal is a dark frame. -/
def State.askLight (s : State) (c : Nat) (set : CamSet) (derate : Nat) : Bool × State :=
  if s.led.hot ∨ s.blockUp Block.led = false then (false, s)
  else
    let e := s.lightEnergy set derate
    match s.linesFirst.ask { who := .ledBurst c, core := none, head := none, mach := some e, peak := e } with
    | (.granted, s) => (true, s.useLeave (.ledBurst c))
    | (_, s) => (false, s.bump Obj.darkFrames)

end Sys2Proof.Machine
end

