-- ==== Sys2Proof/Machine/Loop.lean ====
section
/-! DEFINITION. The loop engine (19): measured values, the computation of a sample, supervision, actuation and the SPI ports. -/

namespace Sys2Proof.Machine

/-! ### Numbers -/

/-- The BF24 word of a quotient, rounded once. -/
def bf24OfRat (n : Int) (d : Nat) : Nat :=
  let q := 2 ^ 128 * n.natAbs / d
  let sticky := if 2 ^ 128 * n.natAbs % d = 0 then 0 else 1
  let m : Int := (2 * q + sticky : Nat)
  Bf24.ofExact (if n < 0 then -m else m) (-129)

/-- The BF24 word of an F32 word (R403, R415). -/
def bf24OfF32 (w : Nat) : Nat :=
  let e := bits w 30 23
  let f := bits w 22 0
  let m : Int := (if e = 0 then f else 2 ^ 23 + f : Nat)
  Bf24.ofExact (if w.testBit 31 then -m else m) ((max 1 e : Nat) - 150)

/-- The F32 word of a quotient, to the nearest (a tie is free, log entry 12). -/
def f32OfRat (n : Int) (d : Nat) : Nat :=
  let a := n.natAbs
  if a = 0 then 0
  else
    let k : Int := Bf24.bitLen a - Bf24.bitLen d
    let scaled (e : Int) : Int := if 0 ≤ e then nearest 6 a (d * 2 ^ e.toNat) else nearest 6 (a * 2 ^ (-e).toNat) d
    let e0 := k - 24
    let e1 := if 2 ^ 24 ≤ scaled e0 then e0 + 1 else e0
    let m := (scaled e1).toNat
    let m' := if 2 ^ 24 ≤ m then 2 ^ 23 else m
    let e2 := if 2 ^ 24 ≤ m then e1 + 1 else e1
    (if n < 0 then 2 ^ 31 else 0) + 2 ^ 23 * (e2 + 150).toNat + (m' - 2 ^ 23)

/-! ### Coefficients (R412, R416) -/

/-- The bank in force. -/
def State.bank (s : State) (i : Nat) : Nat := s.reg (Obj.bankActive i)

/-- Entry `j` of a DOMAIN of BF24 words. -/
def bfAt (l : List Byte) (j : Nat) : Nat := field l (4 * j) 4

/-- The gain at |e| from a table of 8 points (R412). -/
def gainOf (l : List Byte) (e : Nat) : Nat :=
  let pt (j : Nat) : Nat := bfAt l (2 * j)
  let kj (j : Nat) : Nat := bfAt l (2 * j + 1)
  match ((List.range 8).filter (fun j => !Bf24.lt e (pt j))).getLast? with
  | none => kj 0
  | some 7 => kj 7
  | some j =>
    let t := Bf24.div (Bf24.sub e (pt j)) (Bf24.sub (pt (j + 1)) (pt j))
    Bf24.add (kj j) (Bf24.mul t (Bf24.sub (kj (j + 1)) (kj j)))

/-! ### Measured values (R403, R404) -/

/-- The raw value of a STATUS source: none where the sample is invalid. -/
def State.statusRaw (s : State) (arg : Nat) : Option Nat :=
  let m := arg % 32
  let p := s.statusBefore m
  let age := s.nowNs - ns80 (field p 28 10)
  let temp (r : Nat) : Int := toSigned 16 (field p (40 + 2 * r) 2)
  let row := bits arg 7 5
  if p = [] ∨ s.laneUp m = false ∨ 3000 * s.reg (Obj.statusPeriod m) < age then none
  else if row < 4 then some (Bf24.ofInt (temp row))
  else if row = 4 then some (Bf24.ofInt (max (max (temp 0) (temp 1)) (max (temp 2) (temp 3))))
  else if row = 5 then some (Bf24.ofExact (temp 0 + temp 1 + temp 2 + temp 3) (-2))
  else none

/-- The raw value of an ADC result (R407, SPI_CFG): the first ADC_BITS of the FRAME_BITS that came on MISO, most significant bit first. Bits
that a shorter frame does not bring are free (log entry 5). -/
def State.adcRaw (s : State) (i miso : Nat) : Nat × State :=
  let cfg := s.reg (Obj.spiCfg i)
  let frame := bits cfg 13 8
  let w := bits cfg 18 14
  let (low, s) : Nat × State := if w ≤ frame then (0, s) else s.fresh (w - frame)
  let v := if w ≤ frame then trunc frame miso / 2 ^ (frame - w) else trunc frame miso * 2 ^ (w - frame) + low
  (if cfg.testBit 19 then Bf24.ofInt (toSigned w v) else Bf24.ofInt (v : Nat), s)

/-- y from a raw value (R404). -/
def State.scaled (s : State) (i raw : Nat) : Nat := Bf24.add (Bf24.mul raw (s.reg (Obj.scale i))) (s.reg (Obj.offset i))

/-- The feed-forward input (R413). -/
def State.ffInput (s : State) (i : Nat) : Nat :=
  let f := s.reg (Obj.ffSource i)
  if f = 1 then (s.loop i).setpoint
  else if f = 2 then
    if s.mode = .lit ∧ s.reg (Obj.speedState s.fireCh) = 1 then
      bf24OfRat (65536 * (s.speed s.fireCh).natAbs : Nat) (s.reg Obj.linePitch % 2 ^ 48)
    else 0
  else if 0x40 ≤ f ∧ f < 0x40 + 48 then s.reg (Obj.measured (f - 0x40))
  else 0

/-! ### Actuation (R408, R422) -/

/-- The sense transaction of a slot (R407). -/
def State.senseFrame (s : State) (i : Nat) : SpiFrame :=
  let cfg := s.reg (Obj.spiCfg i)
  let cnv := s.reg (Obj.cnvTimes i)
  { mode := bits cfg 0 0 * 3, sckDiv := bits cfg 7 1, cycles := bits cfg 13 8, cnv := some (bits cnv 15 0, bits cnv 31 16),
    mosi := s.reg (Obj.adcCmd i) }

/-- The actuator write of a slot (R408): 32 SCK cycles, ACT_WORD [31:16] and the code. -/
def State.writeFrame (s : State) (i c : Nat) : SpiFrame :=
  let cfg := s.reg (Obj.spiCfg i)
  { mode := bits cfg 0 0 * 3, sckDiv := bits cfg 7 1, cycles := 32, cnv := none,
    mosi := 2 ^ 16 * bits (s.reg (Obj.actWord i)) 31 16 + c }

/-- A transaction joins those that wait behind the one in progress: in the order in which they become due, the sense transactions of one
instant in rising slot number (R409). -/
def queueJob (j : SpiJob) : List SpiJob → List SpiJob
  | [] => [j]
  | x :: t =>
    if j.code.isNone ∧ x.code.isNone ∧ x.at_ = j.at_ ∧ j.slot < x.slot then j :: x :: t else x :: queueJob j t

/-- A transaction becomes due; on a free port it starts (R409). -/
def State.spiAdd (s : State) (p slot : Nat) (code : Option Nat) : State :=
  let j : SpiJob := { slot := slot, code := code, at_ := s.clock.cycles }
  match Table.get [] s.spi p with
  | [] =>
    let s := { s with spi := Table.put [] s.spi p [j] }
    if code.isNone then s.emit (.spiSense p slot (s.senseFrame slot)) else s
  | h :: t => { s with spi := Table.put [] s.spi p (h :: queueJob j t) }

/-- The transaction in progress ends, and the next starts. -/
def State.spiPop (s : State) (p : Nat) : State :=
  let q := (Table.get [] s.spi p).drop 1
  let s := { s with spi := Table.put [] s.spi p q }
  match q with
  | j :: _ => if j.code.isNone then s.emit (.spiSense p j.slot (s.senseFrame j.slot)) else s
  | [] => s

/-- A value to a whole number held between 0 and 65,535. -/
def code16 (w : Nat) : Nat := min 65535 (Bf24.round w).toNat

/-- HEATER duty of an output (R422, 11 R265). -/
def heaterDuty (o : Nat) : Nat := code16 (Bf24.mul o (Bf24.ofInt 65535))

/-- The 3 × PERIOD of a HEATER frame, in ms. -/
def State.heaterTimeout (s : State) (i : Nat) : Nat := min 65535 (quot 7 (3 * s.reg (Obj.lpPeriod i) : Nat) 1000).toNat

/-- Send a slot's output to its actuator. -/
def State.actuate (s : State) (i : Nat) : State :=
  let o := s.reg (Obj.lpOutput i)
  let arg := s.reg (Obj.actuatorArg i)
  match s.reg (Obj.actuator i) with
  | 1 =>
    if s.populated arg && s.laneUp arg then
      s.sendCtrl arg 0x02 (le 2 (heaterDuty o) ++ le 2 (heaterDuty (s.reg (Obj.safeOut i))) ++ le 2 (s.heaterTimeout i))
    else s
  | 2 => s.spiAdd arg i (some (code16 (Bf24.mul o (s.reg (Obj.actScale i)))))
  | _ => s

/-- The unconditional charge of a sample (18 R397, R414), in pJ. -/
def State.chargeSample (s : State) (i : Nat) : State :=
  let fs := s.reg (Obj.fsPower i)
  if fs = 0 then s
  else
    let top := Bf24.num (s.reg (Obj.outMax i (s.bank i)))
    let out := Bf24.num (s.reg (Obj.lpOutput i)) * (1000 * (fs * s.reg (Obj.lpPeriod i)) : Nat)
    if top = 0 then
      let (e, s) := s.fresh 32
      s.chargePool (s.reg (Obj.pool i)) e
    else s.chargePool (s.reg (Obj.pool i)) (quot 8 (if top < 0 then -out else out) top.natAbs).toNat

/-! ### Supervision (R419, R420) -/

/-- TRIPPED of a slot. -/
def State.tripped (s : State) (i : Nat) : Bool := (s.reg (Obj.slotStatus i)).testBit 0

/-- A supervisor trips (R420): 1 plausibility, 2 slew, 3 stale, 4 following, 5 model. -/
def State.trip (s : State) (i test : Nat) : State :=
  if s.tripped i then s
  else
    let s := s.setReg (Obj.slotStatus i) (clearMask (s.reg (Obj.slotStatus i)) 15)
    let s := s.setBits (Obj.slotStatus i) (1 + 2 * test)
    let s := s.setLoop i { s.loop i with invalid := 0 }
    let s := if s.reg (Obj.supAction i) = 1 then s.setCause Cause.loop else s
    s.logEvent Ev.loopTrip (le 1 i ++ le 1 test)

/-- The output becomes SAFE_OUT at once, and is actuated. -/
def State.goSafe (s : State) (i : Nat) : State :=
  let o := s.reg (Obj.safeOut i)
  ((s.setReg (Obj.lpOutput i) o).setLoop i { s.loop i with oPrev := o }).actuate i

/-- The test that trips on a valid sample, if any; `ym` is the model's output for the sample. -/
def State.tripTest (s : State) (i y ym : Nat) (x : LoopDyn) : Option Nat :=
  let slew := match x.yPrev with
    | some p => Bf24.lt (s.reg (Obj.slewMax i)) (Bf24.abs (Bf24.sub y p))
    | none => false
  let alpha := bfAt (s.dom (Obj.model i (s.bank i))) 0
  let off := Bf24.lt (s.reg (Obj.residMax i)) (Bf24.abs (Bf24.sub y ym))
  if Bf24.lt y (s.reg (Obj.plausMin i)) || Bf24.lt (s.reg (Obj.plausMax i)) y then some 1
  else if slew then some 2
  else if alpha ≠ 0 ∧ off = true ∧ s.reg (Obj.residCount i) ≤ x.resid + 1 then some 5
  else none

/-- The model's output for a sample (R419). -/
def State.modelOut (s : State) (i y : Nat) (x : LoopDyn) : Nat :=
  match x.ym with
  | none => y
  | some m =>
    let d := s.dom (Obj.model i (s.bank i))
    Bf24.add m (Bf24.mul (bfAt d 0) (Bf24.sub (Bf24.add (Bf24.mul (bfAt d 1) x.oPrev) (bfAt d 2)) m))

/-! ### The computation (R411) -/

/-- What the arithmetic of a sample gives. -/
structure LoopOut where
  e : Nat
  integ : Nat
  u : Nat
  v : Nat
  o : Nat
  won : Bool
  deriving DecidableEq, Repr

/-- The arithmetic of a sample, from y. -/
def State.computeLoop (s : State) (i y : Nat) : LoopOut :=
  let x := s.loop i
  let b := s.bank i
  let lo := s.reg (Obj.outMin i b)
  let hi := s.reg (Obj.outMax i b)
  let e := if s.reg (Obj.action i) = 0 then Bf24.sub x.setpoint y else Bf24.sub y x.setpoint
  let k := gainOf (s.dom (Obj.gainTable i b)) (Bf24.abs e)
  let p := Bf24.mul k e
  let i1 := Bf24.clamp (Bf24.add (s.reg (Obj.integrator i)) (Bf24.mul (s.reg (Obj.kiTs i b)) e)) lo hi
  let f := Bf24.mul (s.reg (Obj.kff i b)) (s.ffInput i)
  let u := Bf24.add (Bf24.add p i1) f
  let n := s.dom (Obj.notch i b)
  let v1 := Bf24.add (Bf24.add (Bf24.mul (bfAt n 0) u) (Bf24.mul (bfAt n 1) x.u1)) (Bf24.mul (bfAt n 2) x.u2)
  let v := Bf24.sub (Bf24.sub v1 (Bf24.mul (bfAt n 3) x.v1)) (Bf24.mul (bfAt n 4) x.v2)
  let lim := s.reg (Obj.limiter i)
  let w := if lim < 48 then Bf24.min v (s.reg (Obj.lpOutput lim)) else v
  let o1 := Bf24.clamp w lo hi
  let rate := s.reg (Obj.rateMax i b)
  let o := if rate = 0 then o1 else Bf24.clamp o1 (Bf24.sub x.oPrev rate) (Bf24.add x.oPrev rate)
  { e := e, integ := Bf24.clamp (Bf24.add i1 (Bf24.sub o v)) lo hi, u := u, v := v, o := o, won := decide (w = v) }

/-- The supervisor of a valid sample: its memory, and a trip. -/
def State.supervise (s : State) (i y : Nat) (r : LoopOut) : State :=
  let x := s.loop i
  let ym := s.modelOut i y x
  let test := s.tripTest i y ym x
  let big := decide (bfAt (s.dom (Obj.model i (s.bank i))) 0 ≠ 0) && Bf24.lt (s.reg (Obj.residMax i)) (Bf24.abs (Bf24.sub y ym))
  let inBand := !Bf24.lt (s.reg (Obj.readyBand i)) (Bf24.abs r.e)
  let above := Bf24.lt (s.reg (Obj.followMax i)) (Bf24.abs r.e)
  let s := s.setLoop i { x with yPrev := some y, ym := some ym, resid := if big then x.resid + 1 else 0, invalid := 0,
                                armed := x.armed || inBand, overFollow := above }
  match test with
  | some t => s.trip i t
  | none => s

/-- A valid sample of slot `i` from its raw value: compute, supervise, actuate, charge (R411). -/
def State.sampleLoop (s : State) (i raw : Nat) : State :=
  let y := s.scaled i raw
  let r := s.computeLoop i y
  let s := s.supervise i y r
  let hold := s.tripped i || (decide (s.mode = .snuff) && decide (s.reg (Obj.snuffMode i) = 1))
  let o := if hold then s.reg (Obj.safeOut i) else r.o
  let x := s.loop i
  let s := s.setLoop i { x with u1 := r.u, u2 := x.u1, v1 := r.v, v2 := x.v1, oPrev := o, busy := false }
  let s := ((s.setReg (Obj.measured i) y).setReg (Obj.lpError i) r.e).setReg (Obj.lpOutput i) o
  let s := ((s.setReg (Obj.integrator i) r.integ).setReg (Obj.won i) (flag r.won)).bump (Obj.samples i)
  ((s.actuate i).chargeSample i).ledSample i y

/-- An invalid sample (R405). -/
def State.staleLoop (s : State) (i : Nat) : State :=
  let x := s.loop i
  let s := (s.setLoop i { x with invalid := x.invalid + 1, busy := false }).bump (Obj.stale i)
  if 3 ≤ x.invalid + 1 ∧ s.tripped i = false then (s.trip i 3).goSafe i else s

/-- Whether a slot samples now (R403, R422, R423). -/
def State.loopRuns (s : State) (i : Nat) : Bool :=
  s.isSet (Obj.lpEnable i) && decide (s.reg (Obj.lpSource i) ≠ 0) && s.blockUp Block.loop && decide (s.role ≠ .mate) &&
    (s.mode.working || (decide (s.mode = .snuff) && decide (s.reg (Obj.snuffMode i) = 0)))

/-- A sample starts: the bank swaps accepted in earlier REF cycles take effect, of which two cancel each other, and the setpoint is taken
(R411, R418). -/
def State.startSample (s : State) (i : Nat) : State :=
  let x := s.loop i
  let due := x.swaps.filter (fun t => decide (t ≠ s.clock.cycles))
  let s := if due.length % 2 = 1 then s.setReg (Obj.bankActive i) (1 - s.bank i) else s
  s.setLoop i { x with swaps := x.swaps.filter (fun t => decide (t = s.clock.cycles)), setpoint := s.reg (Obj.setpoint i) }

/-- A sample of a slot that is not under way: its measured value is taken, or an SPI sense starts (R403). -/
def State.takeSample (s : State) (i : Nat) : State :=
  let s := s.startSample i
  let arg := s.reg (Obj.sourceArg i)
  match s.reg (Obj.lpSource i) with
  | 1 =>
    match s.statusRaw arg with
    | some raw => s.sampleLoop i raw
    | none => s.staleLoop i
  | 2 => (s.setLoop i { s.loop i with busy := true }).spiAdd (arg % 4) i none
  | 3 => s.sampleLoop i (bf24OfF32 (s.reg (Obj.headroom arg)))
  | _ => s.sampleLoop i (s.reg (Obj.lpOutput arg))

/-- The sample of a slot at its instant; where the one before it is not complete, it is not taken (R406). -/
def State.sampleSlot (s : State) (ahead : Bool) (i : Nat) : State :=
  let s := s.setLoop i { s.loop i with sampledAt := some s.clock.cycles, ahead := ahead }
  if (s.loop i).busy then s.bump (Obj.overruns i) else s.takeSample i

/-- The order of the samples of one instant (R410): the slots that another names as its LIMITER, and then the others, each in rising
number. -/
def State.sampleOrder (s : State) : List Nat :=
  let named (i : Nat) : Bool := (List.range 48).any (fun j => s.reg (Obj.limiter j) = i)
  (List.range 48).filter named ++ (List.range 48).filter (fun i => !named i)

/-- Whether an instant of a slot lies in this REF cycle (R402; 21 R450): Beacon has passed it since the cycle before. -/
def State.instantNow (s : State) (i : Nat) : Bool :=
  let unit : Int := 1000 * 2 ^ 24
  let period : Int := s.reg (Obj.lpPeriod i)
  let t : Int := (s.clock.beacon.ns : Int) * 2 ^ 24 + s.clock.beacon.frac
  decide ((t - s.reg (Obj.lpPhase i) * unit) % (period * unit) < 5 * 2 ^ 24 + s.sreg Obj.rateTrim)

/-- The slots whose samples of this instant come before that of slot `i` and have not been taken (R410). -/
def State.earlierSlots (s : State) (i : Nat) : List Nat :=
  (s.sampleOrder.takeWhile (fun j => decide (j ≠ i))).filter (fun j =>
    s.loopRuns j && s.instantNow j && decide ((s.loop j).sampledAt ≠ some s.clock.cycles))

/-- LOOP_SAMPLE (R402 to R406, R410): the samples of this instant that come before it, and its own, unless it has been taken ahead. -/
def execLoopSample (i : Fin 48) (s : State) : Host.Outcome State Fault Refusal :=
  if s.loopRuns i = false then ok s
  else if (s.loop i).ahead = true ∧ (s.loop i).sampledAt = some s.clock.cycles then ok (s.setLoop i { s.loop i with ahead := false })
  else ok (((s.earlierSlots i).foldl (fun s j => s.sampleSlot true j) s).sampleSlot false i)

/-- SPI_SENSE_DONE (R407): the sense transaction in progress on a port ends, with the bits that came on MISO. -/
def execSpiSenseDone (p : Fin 4) (bits : Nat) (s : State) : Host.Outcome State Fault Refusal :=
  match Table.get [] s.spi p with
  | { slot := i, code := none, at_ := _ } :: _ =>
    if (s.loop i).busy then
      let (raw, s) := s.adcRaw i bits
      ok ((s.sampleLoop i raw).spiPop p)
    else ok (s.spiPop p)
  | _ => ok s

/-- SPI_ACTUATOR_WRITE (R408): the write in progress on a port completes. -/
def execSpiActuatorWrite (p : Fin 4) (s : State) : Host.Outcome State Fault Refusal :=
  match Table.get [] s.spi p with
  | { slot := i, code := some c, at_ := _ } :: _ => ok ((s.emit (.spiWrite p (s.writeFrame i c))).spiPop p)
  | _ => ok s

/-- LOOP_FOLLOW_TIMEOUT (R419): |e| has stayed above FOLLOW_MAX for FOLLOW_TIME. -/
def execLoopFollowTimeout (i : Fin 48) (s : State) : Host.Outcome State Fault Refusal :=
  let x := s.loop i
  if s.loopRuns i && x.armed && x.overFollow && !s.tripped i then ok ((s.trip i 4).goSafe i) else ok s

/-! ### SNUFF and promotion -/

/-- SNUFF entry: slots with SNUFF_MODE 1 hold SAFE_OUT (R422, 02 R53). -/
def State.loopSnuff (s : State) : State :=
  if s.role = .mate ∨ s.blockUp Block.loop = false then s
  else (List.range 48).foldl (fun s i =>
    if s.isSet (Obj.lpEnable i) && decide (s.reg (Obj.snuffMode i) = 1) then s.goSafe i else s) s

/-- The loop record of a HEARTBEAT (R424). -/
def State.loopRecord (s : State) : List Byte :=
  (List.range 48).flatMap (fun i => le 4 (s.reg (Obj.lpOutput i)) ++ le 4 (s.reg (Obj.integrator i)))

/-- At promotion each slot starts from the outputs and integrators of the primary's last HEARTBEAT (R424). -/
def State.takeLoops (s : State) (record : List Byte) : State :=
  (List.range 48).foldl (fun s i =>
    let o := field record (8 * i) 4
    let s := (s.setReg (Obj.lpOutput i) o).setReg (Obj.integrator i) (field record (8 * i + 4) 4)
    s.setLoop i { s.loop i with oPrev := o, ym := none, u1 := 0, u2 := 0, v1 := 0, v2 := 0 }) s

end Sys2Proof.Machine
end

