-- ==== Sys2Proof/Machine/Upload.lean ====
section
/-! DEFINITION. Upload compression (15): chunks, the compressor and its check, packets and credit, output buffers, requests. -/

namespace Sys2Proof.Machine

/-! ### Results (R355) -/

/-- The 48-byte write-back. -/
def UReq.bytes (r : UReq) (ch status : Nat) : List Byte :=
  le 4 r.tag ++ le 1 ch ++ le 1 status ++ zeros 2 ++ le 4 r.consumed ++ le 4 r.produced ++ le 4 (r.firstQ.getD 0) ++ le 4 r.lastQ ++
    le 10 (time80OfNs r.txFirst) ++ le 10 (time80OfNs r.txLast) ++ le 2 r.raw345 ++ le 2 r.raw344

/-- A request that has ended writes back once no packet of it waits for an acknowledgement. -/
def State.writeBack (s : State) (ch : Nat) : State :=
  let c := s.chan ch
  match c.req with
  | none => s
  | some r =>
    match r.ended with
    | none => s
    | some status =>
      if c.pkts = [] then (s.setChan ch { c with req := none }).setDom Obj.uploadResult (r.bytes ch status) else s

/-- End a privileged request. -/
def State.endRequest (s : State) (ch status : Nat) : State :=
  let c := s.chan ch
  match c.req with
  | none => s
  | some r => if r.ended.isSome then s else (s.setChan ch { c with req := some { r with ended := some status } }).writeBack ch

/-! ### Output buffers (R351 to R353) -/

/-- Bytes that a packet takes in a buffer: from a 64-byte boundary. -/
def alignedLen (n : Nat) : Nat := (n + 63) / 64 * 64

/-- Where a packet of `n` bytes goes in a normal channel's ring; none where the ring is full (R352): in the rest of the present buffer, or at the
start of the next, which must hold no unacknowledged packet. -/
def State.ringSpot (s : State) (ch n : Nat) : Option Nat :=
  let c := s.chan ch
  let size := s.reg (Obj.outBufSize ch)
  let off := c.place % size
  if off ≠ 0 ∧ off + n ≤ size then some c.place
  else
    let next := (if off = 0 then c.place / size else c.place / size + 1) % s.reg (Obj.outBufCount ch)
    if c.pkts.any (fun p => decide (p.place / size = next)) then none else some (next * size)

/-- Whether a normal channel's ring has no room for a packet of a whole chunk. -/
def State.ringFull (s : State) (ch : Nat) : Bool := (s.ringSpot ch (alignedLen (s.reg Obj.chunkSize + 12))).isNone

/-! ### The compressor (R343 to R347) -/

/-- The bytes of a Wax block around a body that ends with END-OF-BLOCK. -/
def uploadBlock (ch q len : Nat) (sync legacy : Bool) (body : List Byte) : List Byte :=
  let head := le 2 0x5857 ++ le 1 1 ++ le 1 (1 + 2 * flag sync + 4 * flag legacy) ++ le 2 (0xFF00 + ch) ++ le 4 q ++ le 2 len
  let b := head ++ body
  b ++ le 4 (if legacy then crc32 b else crcIdent (0xFF00 + ch) q b)

/-- How a chunk is sent. -/
inductive Coded where
  | wax (block : List Byte)
  | raw345
  | raw344
  deriving DecidableEq, Repr

/-- Whether a body holds only the tokens that a compressor emits: LIT, RUN, VCOPY, VSHIFT and EXT, and END-OF-BLOCK (R343). -/
def emitsOnly (body : List Byte) : Bool :=
  (Wax.tokenStarts (body.length + 1) body 0 none).all (fun o =>
    let b := (body.getD o 0).toNat
    decide (b ≤ 0xE0) || decide (b = 0xFF))

/-- The outcome of coding and checking a chunk (R343 to R345; log entry 15). -/
def State.code (s : State) (ch : Nat) (chunk : List Byte) : Coded :=
  let c := s.chan ch
  let q := s.reg (Obj.nextChunkSeq ch)
  let hist := if c.sync then zeros 2048 else padTo 2048 c.hist
  let last := if c.sync then 0 else c.last
  let body := Config.waxTokens ch q hist last chunk
  let block := uploadBlock ch q chunk.length c.sync (s.isSet (Obj.checkMode ch)) body
  if emitsOnly body = false ∨ Wax.decodeBytes chunk.length hist last body ≠ some chunk then .raw344
  else if chunk.length ≤ block.length then .raw345
  else .wax block

/-- The history after a chunk sent as Wax. -/
def Chan.remember (c : Chan) (chunk : List Byte) : Chan :=
  let all := (if c.sync then zeros 2048 else padTo 2048 c.hist) ++ chunk
  { c with hist := all.drop (all.length - 2048), last := (chunk.getLast?).getD c.last, sync := false }

/-- The payload of an UPLOAD packet (R348). -/
def uploadPayload (ch q tag : Nat) (opens ends : Bool) (k : Coded) (chunk : List Byte) : List Byte :=
  let fmt := match k with
    | .wax _ => 0
    | _ => 1
  le 1 ch ++ le 1 fmt ++ le 1 (flag opens + 2 * flag ends) ++ zeros 1 ++ le 4 q ++ le 4 tag ++
    (match k with
     | .wax b => b
     | _ => chunk)

/-- Count what the compressor found. -/
def State.noteCoded (s : State) (ch : Nat) : Coded → State
  | .wax _ => s
  | .raw345 => s.bump (Obj.noShrink ch)
  | .raw344 => (s.bump (Obj.verifyFails ch)).logEvent Ev.uploadVerify []

/-- A request or run with one more chunk. -/
def UReq.grow (r : UReq) (q bytes stored : Nat) (k : Coded) : UReq :=
  { r with consumed := r.consumed + bytes, produced := r.produced + stored, firstQ := some (r.firstQ.getD q), lastQ := q,
           raw345 := r.raw345 + flag (decide (k = .raw345)), raw344 := r.raw344 + flag (decide (k = .raw344)) }

/-- Store a packet: its bytes in DRAM, the next chunk sequence, the history. -/
def State.storePacket (s : State) (ch addr : Nat) (p : Pkt) (k : Coded) (chunk : List Byte) : State :=
  let s := s.writeMem (.upload ch) ((List.range p.payload.length).map (fun i => (addr + i, p.payload.getD i 0)))
  let s := s.setReg (Obj.nextChunkSeq ch) ((p.q + 1) % 2 ^ 32)
  let s := s.count (Obj.upBytesIn ch) chunk.length
  let c := s.chan ch
  let c := match k with
    | .wax _ => c.remember chunk
    | _ => { c with sync := true }
  s.setChan ch { c with pkts := c.pkts ++ [p] }

/-! ### Normal channels -/

/-- The chunk in hand of a normal channel: its length, and whether it ends a tap run (R342). A whole chunk of the TAP waits until more comes
or its run ends, since the last chunk of a run is marked (R348). -/
def State.chunkInHand (s : State) (ch : Nat) : Option (Nat × Bool) :=
  let c := s.chan ch
  let size := s.reg Obj.chunkSize
  match c.ends with
  | e :: _ => some (min size e, decide (e ≤ size))
  | [] =>
    if size + (if ch = 1 then 1 else 0) ≤ c.input.length then some (size, false)
    else if c.flush ∧ c.input ≠ [] then some (min size c.input.length, false)
    else none

/-- The last packet of the present tap run, where it has not yet been sent. -/
def Chan.openLast (c : Chan) : Option Pkt :=
  match c.run.firstQ, c.pkts.getLast? with
  | some _, some p => if p.sent = false ∧ p.q = c.run.lastQ then some p else none
  | _, _ => none

/-- A packet marked as its run's last, with the run's summary. -/
def Pkt.closing (p : Pkt) (r : UReq) : Pkt :=
  { p with payload := p.payload.set 2 (p.payload.getD 2 0 ||| 2), closes := some r }

/-- LAST_RESULT of a tap run whose packets have all been sent. Of a run that has sent none, the chunk sequences and the TX times are free (log
entry 5). -/
def State.runResult (s : State) : State :=
  let c := s.chan 1
  match c.run.firstQ with
  | some _ => s.setDom (Obj.lastResult 1) ({ c.run with txFirst := c.txFirst, txLast := c.txLast }.bytes 1 0)
  | none =>
    let (a, s) := s.fresh 32
    let (b, s) := s.fresh 32
    let (t, s) := s.fresh 48
    let (u, s) := s.fresh 48
    s.setDom (Obj.lastResult 1) ({ c.run with firstQ := some a, lastQ := b, txFirst := t, txLast := u }.bytes 1 0)

/-- A tap run is over with no chunk of it left to code (R342, R348, R355): its last packet is marked, or, where that has gone, LAST_RESULT is
written. The next run begins with SYNC_START (R343). -/
def State.closeRun (s : State) : State :=
  let c := s.chan 1
  let s := match c.openLast with
    | some p => s.setChan 1 { c with pkts := c.pkts.map (fun (x : Pkt) => if x.q = p.q then x.closing c.run else x) }
    | none => s.runResult
  s.setChan 1 { s.chan 1 with first := true, sync := true, run := {}, dropping := false }

/-- A tap run has ended (R342): its last chunk is closed, or, with nothing left to code, the run is over. -/
def State.endRun (s : State) : State :=
  let c := s.chan 1
  let done := c.ends.foldl max 0
  if done < c.input.length then s.setChan 1 { c with ends := c.ends ++ [c.input.length] } else s.closeRun

/-- The ring of a normal channel is full (R352): LEDGER holds its records and counts them; TAP discards the rest of the frame, and a run that ends
with it is over. -/
def State.holdChunk (s : State) (ch : Nat) : State :=
  let c := s.chan ch
  if ch = 0 then
    let n := c.input.length / 32
    (s.count (Obj.drops 0) (n - c.held)).setChan 0 { c with held := max n c.held }
  else
    let s := s.bump (Obj.drops 1)
    match c.ends with
    | [] => s.setChan 1 { c with input := [], flush := false, dropping := true }
    | e :: t => (s.setChan 1 { c with input := c.input.drop e, ends := t.map (fun x => x - e), flush := false }).closeRun

/-- A normal channel codes the chunk in hand. What the check finds is counted, unless the chunk stays held in the skip ledger (R344, R345,
R352). -/
def State.compressNormal (s : State) (ch n : Nat) (ends : Bool) : State :=
  let c := s.chan ch
  let chunk := c.input.take n
  let k := s.code ch chunk
  let q := s.reg (Obj.nextChunkSeq ch)
  let tap := decide (ch = 1)
  let payload := uploadPayload ch q 0 (tap && c.first) (tap && ends) k chunk
  let len := alignedLen payload.length
  match s.ringSpot ch len with
  | none => (if tap then s.noteCoded ch k else s).holdChunk ch
  | some place =>
    let s := s.noteCoded ch k
    let run := (if tap then c.run else {}).grow q chunk.length len k
    let done := ends || !tap
    let p : Pkt := { q := q, payload := payload, place := place, sent := false, resend := false, opens := c.first || !tap,
                     closes := if done then some run else none }
    let s := s.storePacket ch (s.reg (Obj.outBase ch) + place) p k chunk
    let c := s.chan ch
    let left := c.ends.map (fun e => e - n)
    s.setChan ch { c with
      input := c.input.drop n, ends := if ends then left.drop 1 else left, flush := false, place := place + len,
      held := c.held - n / 32, first := ends, sync := c.sync || ends, run := if done then {} else run }

/-! ### Privileged channels (R353) -/

/-- The source bytes of a request. -/
def State.sourceBytes (s : State) (ch from_ n : Nat) (image : List Byte) : List Byte :=
  if ch = 2 then (image.drop from_).take n else s.memBytes from_ n

/-- Length of the next chunk of a request. -/
def State.nextChunk (s : State) (r : UReq) : Nat := min (s.reg Obj.chunkSize) (r.len - r.taken)

/-- READBACK reads the next chunk of its request from memory. -/
def State.readChunk (s : State) (ch : Nat) (r : UReq) : State :=
  if ch = 3 then s.askMem (.upload 3) false (creditsOf (s.nextChunk r)) else s

/-- A privileged channel codes the next chunk of its request, once its reads have been served (01 R32). -/
def State.compressRequest (s : State) (ch : Nat) (r : UReq) (image : List Byte) : State :=
  let n := s.nextChunk r
  if r.ended.isSome ∨ n = 0 ∨ (ch = 3 ∧ s.memWaits (.upload 3) = true) then s
  else
    let chunk := s.sourceBytes ch (r.src + r.taken) n image
    let k := s.code ch chunk
    let q := s.reg (Obj.nextChunkSeq ch)
    let ends := decide (r.taken + n = r.len)
    let first := decide (r.taken = 0)
    let payload := uploadPayload ch q r.tag first ends k chunk
    let len := alignedLen payload.length
    let s := s.noteCoded ch k
    if r.size < r.produced + len then s.endRequest ch 1
    else
      let p : Pkt := { q := q, payload := payload, place := r.produced, sent := false, resend := false, opens := first, closes := none }
      let s := s.storePacket ch (r.base + r.produced) p k chunk
      let c := s.chan ch
      let r := { r.grow q n len k with taken := r.taken + n }
      let s := s.setChan ch { c with req := some r }
      if ends then s.endRequest ch 0 else s.readChunk ch r

/-! ### Credit, sending, acknowledgement (R349, R350) -/

/-- The packet of a channel that goes next. -/
def Chan.nextPkt (c : Chan) : Option Pkt := c.pkts.find? (fun p => !p.sent || p.resend)

/-- Credits of a packet. -/
def Pkt.cost (p : Pkt) : Nat := (p.payload.length + 63) / 64

/-- The channel whose packet is sent next (R341): LEDGER, YILLOGER, READBACK, TAP. -/
def State.nextSender (s : State) : Option (Nat × Pkt) :=
  [0, 2, 3, 1].findSome? (fun ch =>
    match (s.chan ch).nextPkt with
    | some p => if p.cost ≤ (s.chan ch).credits then some (ch, p) else none
    | none => none)

/-- The TX time of a packet, exact to ±150 ns (R356); the error is free (log entry 5). -/
def State.txTime (s : State) : Nat × State :=
  let (f, s) := s.fresh 32
  (s.nowNs + f % 301 - 150, s)

/-- The first sending of a packet: BYTES_OUT, TX times, and the result of a run that it ends (R355, R356). -/
def State.firstSend (s : State) (ch : Nat) (p : Pkt) : State :=
  let (t, s) := s.txTime
  let s := s.count (Obj.bytesOut ch) p.payload.length
  let c := s.chan ch
  let c := { (if p.opens then { c with txFirst := t } else c) with txLast := t }
  let req := c.req.map (fun r => { r with txFirst := c.txFirst, txLast := t })
  let s := s.setChan ch { c with req := req }
  match p.closes with
  | none => s
  | some r => s.setDom (Obj.lastResult ch) ({ r with txFirst := c.txFirst, txLast := t }.bytes ch 0)

/-- Send a packet. -/
def State.sendPacket (s : State) (ch : Nat) (p : Pkt) : State :=
  let s := s.emit (rasterOut 4 0xFFFF p.payload)
  let s := if p.sent then s else s.firstSend ch p
  let c := s.chan ch
  let pkts := c.pkts.map (fun x => if x.q = p.q then { x with sent := true, resend := false } else x)
  s.setChan ch { c with credits := c.credits - p.cost, pkts := pkts }

/-- Send again from a chunk sequence: every packet sent already from there on (R350). -/
def State.resendFrom (s : State) (ch q : Nat) : State :=
  let c := s.chan ch
  let pkts := c.pkts.map (fun x => if x.sent && decide (0 ≤ dist32 x.q q) then { x with resend := true } else x)
  (s.setChan ch { c with pkts := pkts }).bump (Obj.upResends ch)

/-- ACK: every packet sent before a chunk sequence is freed. -/
def State.ackTo (s : State) (ch v : Nat) : State :=
  let c := s.chan ch
  (s.setChan ch { c with pkts := c.pkts.filter (fun x => !(x.sent && decide (dist32 x.q v < 0))) }).writeBack ch

/-- Whether uploads run. -/
def State.uploadUp (s : State) : Bool := s.blockUp Block.upload

/-- FLUSH_TIME_EXPIRY (R342). -/
def execFlushTimeExpiry (ch : Fin 4) (s : State) : Host.Outcome State Fault Refusal :=
  let c := s.chan ch
  if s.uploadUp && decide ((ch : Nat) < 2) && decide (c.input ≠ []) then ok (s.setChan ch { c with flush := true }) else ok s

/-- UPLOAD_PACKET_SEND (R350). -/
def execUploadPacketSend (s : State) : Host.Outcome State Fault Refusal :=
  if s.uploadUp && s.rasterUp then
    match s.nextSender with
    | some (ch, p) => ok (s.sendPacket ch p)
    | none => ok s
  else ok s

/-- UPLOAD_CREDIT_GRANT (R349). -/
def execUploadCreditGrant (ch v : Nat) (s : State) : Host.Outcome State Fault Refusal :=
  if s.uploadUp && s.rasterUp && decide (ch < 4) then
    let c := s.chan ch
    ok (s.setChan ch { c with credits := c.credits + v % 2 ^ 32 })
  else ok s

/-- UPLOAD_RESEND (R350): ignored for a chunk already acknowledged. -/
def execUploadResend (ch v : Nat) (s : State) : Host.Outcome State Fault Refusal :=
  if s.uploadUp && s.rasterUp && decide (ch < 4) && (s.chan ch).pkts.any (fun p => p.sent && decide (p.q = v)) then
    ok (s.resendFrom ch v)
  else ok s

/-- UPLOAD_ACK (R349). -/
def execUploadAck (ch v : Nat) (s : State) : Host.Outcome State Fault Refusal :=
  if s.uploadUp && s.rasterUp && decide (ch < 4) then ok (s.ackTo ch v) else ok s

/-- UPLOAD_ENTRY_DROPPED (R349): an entry with flags 0b11 has no effect. -/
def execUploadEntryDropped (_ch _v : Nat) (s : State) : Host.Outcome State Fault Refusal := ok s

/-- ACK_TIMEOUT_EXPIRY (R350): the oldest unacknowledged packet is sent again, and those after it. -/
def execAckTimeoutExpiry (ch : Fin 4) (s : State) : Host.Outcome State Fault Refusal :=
  match (s.chan ch).pkts with
  | p :: _ => if p.sent && s.uploadUp && s.rasterUp then ok (s.resendFrom ch p.q) else ok s
  | [] => ok s

/-! ### Requests (R354) -/

/-- A request of a privileged upload as it lies in UPLOAD_REQUEST. -/
structure UAsk where
  tag : Nat
  ch : Nat
  src : Nat
  len : Nat
  base : Nat
  size : Nat
  deriving DecidableEq, Repr

/-- Read an UPLOAD_REQUEST; none where it is to be refused with 0x0609_0030. `usable` is U (17 R369). -/
def parseUpload (b : List Byte) (usable : Nat) : Option UAsk :=
  let r : UAsk := { tag := field b 0 4, ch := field b 4 1, src := field b 8 8, len := field b 16 4, base := field b 24 8,
                    size := field b 32 4 }
  let limit := if r.ch = 2 then 131072 else usable - 512 * 2 ^ 20
  if b.length = 40 ∧ (r.ch = 2 ∨ r.ch = 3) ∧ field b 5 3 = 0 ∧ field b 20 4 = 0 ∧ field b 36 4 = 0 ∧ 1 ≤ r.len ∧
      r.src + r.len ≤ limit ∧ r.base % 64 = 0 ∧ usable - 256 * 2 ^ 20 ≤ r.base ∧ r.base + r.size ≤ usable ∧
      16384 ≤ r.size ∧ r.size ≤ 16 * 2 ^ 20 then some r else none

/-- Start a privileged upload. -/
def State.startUpload (s : State) (r : UAsk) : State :=
  let c := s.chan r.ch
  let q : UReq := { tag := r.tag, src := r.src, len := r.len, base := r.base, size := r.size }
  (s.setChan r.ch { c with sync := true, req := some q }).readChunk r.ch q

/-- The UPLOAD block goes into reset (R357): running requests end ABORTED, and unacknowledged packets are lost. -/
def State.uploadReset (s : State) : State :=
  let s := (s.endRequest 2 2).endRequest 3 2
  [0, 1, 2, 3].foldl (fun s ch =>
    let c := s.chan ch
    let s := (s.setChan ch { c with pkts := [] }).writeBack ch
    let kept : List Byte := if ch = 0 then c.input else []
    let fresh : Chan := {}
    s.setChan ch { fresh with input := kept }) s

/-- The UPLOAD block is released (R342): chunk sequences count from 0. -/
def State.uploadRelease (s : State) : State := [0, 1, 2, 3].foldl (fun s ch => s.setReg (Obj.nextChunkSeq ch) 0) s

end Sys2Proof.Machine
end

