-- ==== Sys2Proof/Machine/Lantern.lean ====
section
/-! DEFINITION. Lantern (13): frames, camera lines and their stages, detection, findings, taps and the camera UARTs. -/

namespace Sys2Proof.Machine

/-! ### Tables -/

/-- Entry `i` of a table of U16s, and a default beyond its end. -/
def u16At (l : List Byte) (d i : Nat) : Nat := if 2 * i + 2 ≤ l.length then field l (2 * i) 2 else d

/-- Entry `i` of GEOMETRY. -/
def u32At (l : List Byte) (i : Nat) : Nat := if 4 * i + 4 ≤ l.length then field l (4 * i) 4 else 0

/-- Pixels listed in DEFECT_LIST. -/
def State.defects (s : State) (c : Nat) : List Nat :=
  let l := s.dom (Obj.defectList c)
  (chunks 2 (l.length / 2) l).map fromLe

/-! ### Frames -/

/-- The frame in progress on a port. -/
def State.frame (s : State) (p : Nat) : Option Frame := Table.find s.lantern.frames p

/-- Give a port a frame in progress. -/
def State.setFrame (s : State) (p : Nat) (f : Frame) : State :=
  { s with lantern := { s.lantern with frames := Table.insert s.lantern.frames p f } }

/-- Send tapped bytes to the TAP channel, unless it discards the frame (R321, 15 R352). -/
def State.tapOut (s : State) (b : List Byte) : State :=
  let c := s.chan 1
  if c.dropping then s else s.setChan 1 { c with input := c.input ++ b }

/-- The latest accepted commit of a context. -/
def State.lastCommit (s : State) (c : Nat) : Commit := Table.get {} s.lantern.committed c

/-- The committed settings of a context. -/
def State.camSet (s : State) (c : Nat) : CamSet := (s.lastCommit c).set

/-- The commit that a frame takes whose SOF is now: the latest accepted in an earlier REF cycle (R315). -/
def State.commitNow (s : State) (c : Nat) : Commit :=
  if (s.lastCommit c).at_ = some s.clock.cycles then Table.get {} s.lantern.earlier c else s.lastCommit c

/-- The context whose frame comes next on a port: the enabled contexts in turn, in rising order (R311). -/
def State.nextCam (s : State) (p : Nat) : Option Nat :=
  let from_ := Table.get 0 s.lantern.nextCtx p
  ((List.range 4).map (fun i => 4 * p + (from_ + i) % 4)).find? (fun c => s.isSet (Obj.ctxEnable c))

/-- Whether a port's UART is free. -/
def State.uartIdle (s : State) (p : Nat) : Bool := decide (Table.get Uart.idle s.lantern.uarts p = .idle)

/-- A tap waiting for its context starts at its SOF; a tap whose channel was full restarts once space is free, and counts the frame in
DROPS otherwise (R321, R329, 15 R352). -/
def State.startTap (s : State) (c : Nat) : State :=
  match s.lantern.tap, s.lantern.nextTap with
  | none, some t =>
    if t.ctx = c then { s with lantern := { s.lantern with tap := some { t with active := true }, nextTap := none } } else s
  | some t, _ =>
    let ch := s.chan 1
    if t.ctx = c ∧ ch.dropping = true then
      if s.ringFull 1 then s.bump (Obj.drops 1) else s.setChan 1 { ch with dropping := false }
    else s
  | _, _ => s

/-- SEL0 and SEL1 of a port name a camera. -/
def State.select (s : State) (p c : Nat) : State :=
  ({ s with lantern := { s.lantern with sel := Table.put 0 s.lantern.sel p (c % 4) } }).emit (.camSel p (c % 4))

/-- CAMERA_FRAME_START (R311, R315, 14 R334, R336): SOF of the next enabled context of a port. -/
def execCameraFrameStart (p : Fin 2) (s : State) : Host.Outcome State Fault Refusal :=
  if s.blockUp Block.lantern = false ∨ s.mode.working = false ∨ (s.reg Obj.portEnable).testBit p = false ∨
      (s.frame p).isSome = true ∨ s.uartIdle p = false then ok s
  else match s.nextCam p with
    | none => ok s
    | some c =>
      let set := (s.commitNow c).set
      let d := s.derate
      let gen := (s.commitNow c).gen
      let s := (s.takeJobs.setReg (Obj.genInUse c) gen).setReg Obj.derateNow d
      let (lit, s) := s.askLight c set d
      let s := s.setFrame p { ctx := c, gen := gen, set := set, sof := s.nowNs, lit := lit, derate := d }
      let s := { s with lantern := { s.lantern with nextCtx := Table.put 0 s.lantern.nextCtx p ((c % 4 + 1) % 4) } }
      ok ((s.select p c).startTap c)

/-- CAMERA_TRIGGER (R311, R312, 14 R331): a TRIG pulse, with the row slots of its exposure window. -/
def execCameraTrigger (p : Fin 2) (s : State) : Host.Outcome State Fault Refusal :=
  match s.frame p with
  | none => ok s
  | some f =>
    if f.trigs.length < f.set.lines then
      let s := (s.setFrame p { f with trigs := f.trigs ++ [s.nowNs] }).emit (.camTrig p f.set.exposure)
      ok (if f.lit && s.blockUp Block.led then s.openWindow f.ctx f.set.exposure (s.onTimes f.set f.derate) else s)
    else ok s

/-! ### The stages (R320) -/

/-- Offset and flat-field of a pixel. -/
def State.pixelA (s : State) (c i raw : Nat) : Nat := raw - u16At (s.dom (Obj.offsetTable c)) 0 i
def State.pixelV (s : State) (c i a : Nat) : Nat := min 4095 (a * u16At (s.dom (Obj.flatTable c)) 0x1000 i / 4096)

/-- The nearest unlisted pixel to the left of `i`, and to the right of it. -/
def leftOf (bad : List Nat) (v : List Nat) : Nat → Option Nat
  | 0 => none
  | i + 1 => if bad.contains i then leftOf bad v i else v[i]?

def rightOf (bad : List Nat) (v : List Nat) (i : Nat) : Nat → Option Nat
  | 0 => none
  | k + 1 => if bad.contains (i + 1) then rightOf bad v (i + 1) k else v[i + 1]?

/-- The defect stage of the received pixels of a line: padded ones are neighbours of none (R318). -/
def defectStage (bad : List Nat) (v : List Nat) : List Nat :=
  (List.zip (List.range v.length) v).map (fun x =>
    if bad.contains x.1 then
      match leftOf bad v x.1, rightOf bad v x.1 v.length with
      | some a, some b => (quot 10 (a + b : Nat) 2).toNat
      | some a, none => a
      | none, some b => b
      | none, none => x.2
    else x.2)

/-- The position that a pixel maps to; none where it is not valid. -/
def State.positionOf (s : State) (c i : Nat) : Option Nat :=
  let g := u32At (s.dom (Obj.geometry c)) i
  if g.testBit 24 then some ((g % 2 ^ 24 + 8) / 16) else none

/-- Sum and number of the values at each position. -/
def addTo (t : Table Nat) (x v : Nat) : Table Nat := Table.insert t x (Table.get 0 t x + v)

/-- The column image of a line: its mean at each position with a value. -/
def State.columns (s : State) (c : Nat) (v : List Nat) : Table Nat :=
  let mapped := (List.zip (List.range v.length) v).filterMap (fun x => (s.positionOf c x.1).map (fun q => (q, x.2)))
  let sums := mapped.foldl (fun t x => addTo t x.1 x.2) []
  let nums := mapped.foldl (fun t x => addTo t x.1 1) []
  sums.map (fun (x : Nat × Nat) => (x.1, (quot 11 x.2 (Table.get 1 nums x.1)).toNat))

/-- The cross-web positions of a colour row (08 R170). -/
def rowWidth : Nat := 2016 * 31 + 2048

/-- Send a tap of a line: T0 to T2 pixels, T3 every position in rising order (R321). -/
def State.tapLine (s : State) (c : Nat) (a v d : List Nat) : State :=
  match s.lantern.tap with
  | none => s
  | some t =>
    if t.active = false ∨ t.ctx ≠ c then s
    else match t.tap with
      | 0 => s.tapOut (a.flatMap (le 2))
      | 1 => s.tapOut (v.flatMap (le 2))
      | 2 => s.tapOut (d.flatMap (le 2))
      | _ =>
        let cols := s.columns c d
        s.tapOut ((List.range rowWidth).flatMap (fun x => le 2 (Table.get 0xFFFF cols x)))

/-! ### Detection (R322 to R327) -/

/-- The line sequence number under the camera at a count of the firing channel, 32.16 (R322). -/
def State.lineUnder (s : State) (c count : Nat) : Nat :=
  let dist : Nat := s.reg (Obj.camDistance c) % 2 ^ 48
  let fromOrigin := dist48 count (65536 * s.reg Obj.originCount)
  let d : Int := if s.reg Obj.fireDir = 0 then fromOrigin - dist else -fromOrigin + dist
  let pitch : Nat := max 1 (s.reg Obj.linePitch % 2 ^ 48)
  ofSigned 32 ((s.reg Obj.originSeq : Int) + d / (pitch : Int))

/-- The count of the firing channel at a Beacon time in ns, 32.16: interpolated between the counted edges on either side (R322). Past the newest
edge the fraction is free, and before the oldest kept one the count is (log entry 5). -/
def State.countAt (s : State) (t : Nat) : Nat × State :=
  let trace := (s.encCh s.fireCh).trace
  let later := trace.takeWhile (fun x => decide (t < x.1))
  match later.getLast?, (trace.drop later.length).head? with
  | some (t1, n1), some (t0, n0) =>
    (ofSigned 48 ((65536 * n0 : Nat) + quot 24 (65536 * dist32 n1 n0 * ((t - t0 : Nat) : Int)) (t1 - t0)), s)
  | none, some (_, n0) =>
    let (f, s) := s.fresh 16
    (65536 * n0 + f, s)
  | _, none => s.fresh 48

/-- The counts at the rise, at mid-exposure and at the fall of a frame's trigger (R322). -/
def State.lineCounts (s : State) (f : Frame) (rise : Nat) : (Nat × Nat × Nat) × State :=
  let (a, s) := s.countAt rise
  let (m, s) := s.countAt (rise + f.set.exposure / 2)
  let (b, s) := s.countAt (rise + f.set.exposure)
  ((a, m, b), s)

/-- The copy of the health map that governed line `n`. -/
def mapBefore (n : Nat) : Table Nat → List (Nat × Table Nat) → Table Nat
  | m, [] => m
  | m, (line, old) :: t => if 0 ≤ dist32 n line then m else mapBefore n old t

/-- The copy of the health map that governs line `n`, pending swap included. -/
def State.mapAt (s : State) (n : Nat) : Table Nat :=
  match s.health.swap with
  | some line => if 0 ≤ dist32 n line then s.health.pending else mapBefore n s.health.active s.health.past
  | none => mapBefore n s.health.active s.health.past

/-- The nozzle that owns position `x` of row `r` on line `n`, if its module is populated (R170, R174). -/
def State.ownerOf (s : State) (r x n : Nat) : Option Nat :=
  let m := x / 2016
  let p := x % 2016
  let map := s.mapAt n
  let low := 4 * (m - 1) + r
  if p < 32 ∧ 0 < m ∧ m ≤ 32 ∧ s.populated (m - 1) = true ∧ s.owns map low (2016 + p) n = true then
    some (2048 * low + 2016 + p)
  else if m < 32 ∧ s.populated m = true then some (2048 * (4 * m + r) + p)
  else none

/-- The lines of a rung. -/
def Rung.span (r : Rung) : List Nat := (List.range ((dist32 r.last r.first).toNat + 1)).map (fun i => (r.first + i) % 2 ^ 32)

/-- Whether an expected position of a rung is usable (R324). -/
def State.usableAt (s : State) (r : Rung) (x : Nat) : Bool :=
  r.span.all (fun n =>
    match s.ownerOf r.row x n with
    | some g => decide (healthState (Table.get 0 (s.mapAt n) g) < 2)
    | none => false)

/-- A number among quotients by the order of their values. -/
def ratLe (a b : Nat × Nat) : Bool := decide (a.1 * b.2 ≤ b.1 * a.2)

/-- Put a quotient in its place. -/
def ratInsert (a : Nat × Nat) : List (Nat × Nat) → List (Nat × Nat)
  | [] => [a]
  | b :: t => if ratLe a b then a :: b :: t else b :: ratInsert a t

/-- The median: the middle value, or the mean of the two middle ones. -/
def median (l : List (Nat × Nat)) : Nat × Nat :=
  let sorted := l.foldr ratInsert []
  let n := sorted.length
  let b := sorted.getD (n / 2) (0, 1)
  if n % 2 = 1 then b
  else
    let a := sorted.getD (n / 2 - 1) (0, 1)
    (a.1 * b.2 + b.1 * a.2, 2 * a.2 * b.2)

/-- The usable positions of a rung with their mean darkness. -/
def State.rungMarks (s : State) (r : Rung) : List (Nat × Nat × Nat) :=
  (r.nums.filter (fun x => decide (x.1 % (max 1 r.pitch) = r.phase) && s.usableAt r x.1)).map
    (fun x => (x.1, Table.get 0 r.sums x.1, x.2))

/-- A nozzle's candidate: 2 OUT, 1 WEAK, 0 GOOD, from m ÷ R (R324). -/
def State.candidate (s : State) (m med : Nat × Nat) : Nat :=
  let below (level : Nat) : Bool := decide (4096 * (m.1 * med.2) < level * med.1 * m.2)
  if below (s.reg Obj.outLevel) then 2 else if below (s.reg Obj.weakLevel) then 1 else 0

/-- q × 4,096 of a nozzle, as a FINDING entry carries it. -/
def qOf (m med : Nat × Nat) : Nat :=
  if med.1 * m.2 = 0 then 0 else min 65535 (quot 12 (4096 * (m.1 * med.2) : Nat) (med.1 * m.2)).toNat

/-- A verdict on a nozzle: run length, and whether it is a finding (R325). -/
def State.verdict (s : State) (g cand : Nat) : Bool × State :=
  let old := Table.get 0 s.health.runs g
  let run := if old ≠ 0 ∧ old / 16 = cand then min 15 (old % 16 + 1) else 1
  let s := { s with health := { s.health with runs := Table.put 0 s.health.runs g (16 * cand + run) } }
  let e := Table.get 0 s.health.pending g
  (decide (s.reg Obj.confirmRungs ≤ run) && decide (cand ≠ healthState e) && decide (healthState e < 2) && !healthPin e, s)

/-- The verdicts of a rung: the findings with their q, and the state with run lengths and candidates counted. -/
def State.verdicts (s : State) (p : Nat) (r : Rung) (med : Nat × Nat) : List (Nat × Nat × Nat) → List (Nat × Nat × Nat) × State
  | [] => ([], s)
  | (x, m) :: t =>
    match s.ownerOf r.row x r.last with
    | none => s.verdicts p r med t
    | some g =>
      let cand := s.candidate m med
      let (found, s) := s.verdict g cand
      let s : State := match s.frame p with
        | some f => s.setFrame p { f with outs := f.outs + flag (decide (cand = 2)), weaks := f.weaks + flag (decide (cand = 1)),
                                          finds := f.finds + flag found }
        | none => s
      let (rest, s) := s.verdicts p r med t
      (if found then (g, cand, qOf m med) :: rest else rest, s)

/-- Log each finding (R325, 22 R470). -/
def State.logFindings (s : State) (gen : Nat) : List (Nat × Nat × Nat) → State
  | [] => s
  | (g, cand, q) :: t =>
    (s.logEvent Ev.finding (le 4 (editWord g cand) ++ le 2 q ++ le 2 gen ++ le 4 (s.reg Obj.healthGen))).logFindings gen t

/-- Publish findings, or send them to the primary (R325, R326). -/
def State.writeFindings (s : State) (c gen : Nat) (l : List (Nat × Nat × Nat)) : State :=
  if l = [] then s
  else
    let s := (s.count (Obj.findings c) l.length).logFindings gen l
    if s.role = .mate then s.emit (s.twin.frame 0x05 (l.flatMap (fun x => le 4 (editWord x.1 x.2.1))))
    else s.publish (l.map (fun x => (x.1, 16 * byLantern + x.2.1))) none

/-- A rung has ended: it is evaluated, or gives no verdict (R324). -/
def State.evaluateRung (s : State) (p c : Nat) (r : Rung) : State :=
  let s := { s with lantern := { s.lantern with rungs := Table.erase s.lantern.rungs c } }
  let marks := s.rungMarks r
  let med := median (marks.map Prod.snd)
  if r.late = true ∨ r.lines < s.reg Obj.minRungLines ∨ marks.length < 64 ∨ med.1 < s.reg Obj.markFloor * med.2 then s
  else
    let s : State := match s.frame p with
      | some f => s.setFrame p { f with rungs := f.rungs + 1 }
      | none => s
    let (found, s) := s.verdicts p r med marks
    s.writeFindings c r.gen found

/-- Whether the line before `n` was late in a context: a rung that begins with `n` may have begun with it. -/
def State.afterLate (s : State) (c n : Nat) : Bool :=
  (Table.get none s.lantern.lateTo c).any (fun l => decide (dist32 ((2 ^ 32 - 1 + n) % 2 ^ 32) l ≤ 0))

/-- Give a context a rung in progress. -/
def State.setRung (s : State) (c : Nat) (r : Rung) : State :=
  { s with lantern := { s.lantern with rungs := Table.insert s.lantern.rungs c r } }

/-- Take one reference line (R323): the rung in progress grows, or ends and another may begin. -/
def State.takeRef (s : State) (p c n : Nat) (line : List Byte) : State :=
  let row := field line 1 1
  let phase := field line 2 2
  let pitch := field line 4 2
  let isRung := decide (field line 0 1 = 1)
  let fresh : Rung := { row := row, phase := phase, pitch := pitch, first := n, last := n, lines := 0, sums := [], nums := [],
                        late := s.afterLate c n }
  match Table.find s.lantern.rungs c with
  | some r =>
    if isRung && decide (r.row = row) && decide (r.phase = phase) && decide (r.pitch = pitch) && decide ((r.last + 1) % 2 ^ 32 = n) then
      s.setRung c { r with last := n }
    else
      let s := s.evaluateRung p c r
      if isRung then s.setRung c fresh else s
  | none => if isRung then s.setRung c fresh else s

/-- A rung in progress that a late line may belong to gives no verdict, and goes on past it. -/
def State.spoilRung (s : State) (c n : Nat) : State :=
  match Table.find s.lantern.rungs c with
  | some r => s.setRung c { r with last := n, late := true }
  | none => s

/-- The reference lines up to line `n` that are needed and not there (R323): each counts once in REF_LATE and gives no verdict. `next` is the first
line not yet taken. -/
def State.refLate (s : State) (c next n : Nat) : State :=
  let from_ := match Table.get none s.lantern.lateTo c with
    | some l => highSeq next ((l + 1) % 2 ^ 32)
    | none => next
  let late := (dist32 n from_ + 1).toNat
  if late = 0 then s
  else
    let s := { s with lantern := { s.lantern with lateTo := Table.put none s.lantern.lateTo c (some n) } }
    (s.count Obj.refLate late).setBits Obj.lanternStatus 4

/-- Whether a line has been counted as late in a context. -/
def State.wasLate (s : State) (c n : Nat) : Bool := (Table.get none s.lantern.lateTo c).any (fun l => decide (dist32 n l ≤ 0))

/-- Take the reference lines up to line `n` (R323). One that was late, or that the decoder reports as failed, is passed. -/
def State.takeRefs (s : State) (p c k n : Nat) : Nat → State
  | 0 => s
  | fuel + 1 =>
    let next := (s.ctx k).ckpt.next
    if dist32 n next < 0 then s
    else match s.takeAux k with
      | (.absent, s) => (s.spoilRung c n).refLate c next n
      | (.failed m _, s) => ((s.refLate c m m).spoilRung c m).takeRefs p c k n fuel
      | (.line m line, s) =>
        (if s.wasLate c m then s.spoilRung c m else s.takeRef p c m line).takeRefs p c k n fuel

/-- Add a camera line inside a rung to its darkness (R324). -/
def Rung.add (r : Rung) (gen : Nat) (cols : Table Nat) : Rung :=
  { r with lines := r.lines + 1, gen := gen,
           sums := cols.foldl (fun t x => addTo t x.1 (4095 - x.2)) r.sums,
           nums := cols.foldl (fun t x => addTo t x.1 1) r.nums }

/-- A column image joins the rung it lies on whole (R324). -/
def State.noteRung (s : State) (c gen lo hi : Nat) (cols : Table Nat) : State :=
  match Table.find s.lantern.rungs c with
  | none => s
  | some r => if 0 ≤ dist32 lo r.first ∧ dist32 hi r.last ≤ 0 then s.setRung c (r.add gen cols) else s

/-- Whether detection runs for a context (R322). -/
def State.detects (s : State) (c : Nat) : Bool :=
  let k := s.reg (Obj.refStream c)
  decide (s.mode = .lit) && s.isSet Obj.detectEnable && decide (128 ≤ k) && decide (k < 160) && decide (s.reg (Obj.speedState s.fireCh) = 1)

/-- Detection on a camera line (R322 to R327): `cols` is the column image of its received pixels. A line of a dark frame gives no verdict (14
R336, R339). -/
def State.detect (s : State) (p : Nat) (f : Frame) (cols : Table Nat) (cRise cMid cFall : Nat) : State :=
  let c := f.ctx
  if s.detects c then
    let k := s.reg (Obj.refStream c)
    let a := s.lineUnder c cRise
    let b := s.lineUnder c cFall
    let lo := lowSeq a b
    let hi := highSeq a b
    let n := highSeq (s.lineUnder c cMid) hi
    let s := s.takeRefs p c k n (dist32 n (s.ctx k).ckpt.next + 1).toNat
    if f.lit then s.noteRung c f.gen lo hi cols else s
  else s

/-! ### Camera lines -/

/-- The statistics of a frame with a line's received pixels added. -/
def Frame.note (f : Frame) (real : List Nat) (pad count : Nat) (flags : Nat) : Frame :=
  { f with lines := f.lines + 1, flags := f.flags ||| flags,
           minV := real.foldl min f.minV, maxV := real.foldl max f.maxV, sumV := f.sumV + sumList real, numV := f.numV + real.length,
           sat := f.sat + real.count 4095, padded := f.padded + pad,
           c0 := if f.lines = 0 then count / 65536 else f.c0, c1 := count / 65536 }

/-- The pixels that the words of a line deliver (R309): one a word, or two with PIXEL_MODE set. -/
def State.pixelsOf (s : State) (p : Nat) (words : List Nat) : List Nat :=
  if (s.reg Obj.pixelMode).testBit p then words.flatMap (fun w => [w % 2 ^ 8, w / 2 ^ 8 % 2 ^ 8]) else words.map (fun w => w % 2 ^ 16)

/-- Whether a line breaks a limit of R310. -/
def State.breaches (s : State) (p : Nat) (x : Sys2Proof.CamLine) : Bool :=
  !x.fvalHigh || decide (x.lvalLow < 8) || decide (x.fvalLow < 16) || decide (16384 < (s.pixelsOf p x.words).length)

/-- A limit of R310 is broken: PROTOCOL, and the port ignores data until FVAL falls; a frame in progress is closed as short. -/
def State.breach (s : State) (p : Nat) : State :=
  let s := s.setBits Obj.lanternStatus (2 ^ p)
  let s := { s with lantern := { s.lantern with deaf := p :: s.lantern.deaf.filter (· ≠ p) } }
  match s.frame p with
  | some f => s.setFrame p { f with breached := true }
  | none => s

/-- A line of a frame passes the stages (R317, R318, R320). -/
def State.frameLine (s : State) (p : Nat) (f : Frame) (pixels : List Nat) : State :=
  let c := f.ctx
  let len := s.reg (Obj.pixelsPerLine c)
  let raw := pixels.take len
  let real := raw.length
  let pad := List.replicate (len - real) (s.reg Obj.padValue)
  let flags := if pixels.length < len then 1 else if len < pixels.length then 2 else 0
  let a := (List.zip (List.range real) raw).map (fun x => s.pixelA c x.1 x.2)
  let v := (List.zip (List.range real) a).map (fun x => s.pixelV c x.1 x.2)
  let d := defectStage (s.defects c) v
  let s := s.tapLine c (a ++ pad) (v ++ pad) (d ++ pad)
  match f.trigs[f.lines]? with
  | none =>
    let (count, s) := s.fresh 48
    s.setFrame p (f.note d pad.length count flags)
  | some rise =>
    let ((cRise, cMid, cFall), s) := s.lineCounts f rise
    (s.setFrame p (f.note d pad.length cMid flags)).detect p f (s.columns c d) cRise cMid cFall

/-- CAMERA_LINE (R309, R310, R317, R318, R320): a line of a port's camera. -/
def execCameraLine (p : Fin 2) (line : Sys2Proof.CamLine) (s : State) : Host.Outcome State Fault Refusal :=
  if s.blockUp Block.lantern = false ∨ (s.reg Obj.portEnable).testBit p = false ∨ s.lantern.deaf.contains (p : Nat) = true then ok s
  else if s.breaches p line then ok (s.breach p)
  else match s.frame p with
    | none => ok s
    | some f =>
      if f.set.lines ≤ f.lines then ok (s.setFrame p { f with flags := f.flags ||| 8 })
      else ok (s.frameLine p f (s.pixelsOf p line.words))

/-! ### The end of a frame -/

/-- The 64-byte record of a frame (R321); the minimum, maximum and mean of a frame without a received pixel are free (log entry 5). -/
def State.frameRecord (s : State) (f : Frame) : List Byte × State :=
  let (lo, hi, mean, s) :=
    if f.numV = 0 then
      let (a, s) := s.fresh 16
      let (b, s) := s.fresh 16
      let (c, s) := s.fresh 32
      (a, b, c, s)
    else (f.minV, f.maxV, (quot 13 (f.sumV * 16 : Nat) f.numV).toNat, s)
  (le 4 (s.reg (Obj.frames f.ctx)) ++ le 1 f.ctx ++ le 1 f.flags ++ le 2 f.lines ++ le 4 f.gen ++ le 10 (time80OfNs f.sof) ++
    le 2 (s.reg (Obj.pixelsPerLine f.ctx)) ++ le 2 lo ++ le 2 hi ++ le 4 mean ++ le 4 f.sat ++ le 4 f.padded ++ le 2 f.rungs ++
    le 2 f.outs ++ le 2 f.weaks ++ le 2 f.finds ++ le 4 f.c0 ++ le 4 f.c1 ++ zeros 8, s)

/-- A tap whose frame has ended: it goes on, or stops and its last chunk is closed (R321, R329, 15 R342). -/
def State.endTap (s : State) (c : Nat) : State :=
  match s.lantern.tap with
  | none => s
  | some t =>
    if t.active = false ∨ t.ctx ≠ c then s
    else if t.left ≤ 1 ∨ s.lantern.nextTap.isSome = true then
      let s := { s with lantern := { s.lantern with tap := none } }
      s.endRun
    else { s with lantern := { s.lantern with tap := some { t with left := t.left - 1 } } }

/-- A frame ends: the missing lines are padded, the record is written (R317, R321). -/
def State.endFrame (s : State) (p : Nat) (extra : Nat) (pad : Bool) : State :=
  match s.frame p with
  | none => s
  | some f =>
    let missing := if pad then f.set.lines - f.lines else 0
    let len := s.reg (Obj.pixelsPerLine f.ctx)
    let flags := f.flags ||| extra ||| (if pad && (decide (0 < missing) || f.breached) then 4 else 0)
    let f := { f with flags := flags, padded := f.padded + missing * len }
    let line := List.replicate len (s.reg Obj.padValue)
    let s := (List.range missing).foldl (fun s _ => s.tapLine f.ctx line line line) s
    let (rec, s) := s.frameRecord f
    let s := s.setDom (Obj.lastRecord f.ctx) rec
    let faults := ((List.range 5).filter (fun b => flags.testBit b)).length
    let s := (s.bump (Obj.frames f.ctx)).count (Obj.frameFaults f.ctx) faults
    let s := { s with lantern := { s.lantern with frames := Table.erase s.lantern.frames p } }
    s.endTap f.ctx

/-- CAMERA_FRAME_END (R311): FVAL falls, and a port that ignored data takes it again (R310). -/
def execCameraFrameEnd (p : Fin 2) (s : State) : Host.Outcome State Fault Refusal :=
  let s := s.endFrame p 0 true
  ok { s with lantern := { s.lantern with deaf := s.lantern.deaf.filter (· ≠ (p : Nat)) } }

/-- CAMERA_FRAME_TIMEOUT (R311, R317): FVAL has not fallen 2 × LINE_PERIOD after the last trigger. A frame in which it never rose is MISSING. -/
def execCameraFrameTimeout (p : Fin 2) (fvalRose : Bool) (s : State) : Host.Outcome State Fault Refusal :=
  match s.frame p with
  | none => ok s
  | some f =>
    if f.trigs.length < f.set.lines then ok s
    else if fvalRose then ok (s.endFrame p 0 true)
    else ok (s.endFrame p 16 false)

/-- The tap in progress ends with its frame, or now where none of its context is in progress (R313, R321, R329). -/
def State.stopTap (s : State) : State :=
  match s.lantern.tap with
  | none => s
  | some t =>
    if s.lantern.frames.any (fun (x : Nat × Frame) => x.2.ctx = t.ctx) then
      { s with lantern := { s.lantern with tap := some { t with left := 1 } } }
    else ({ s with lantern := { s.lantern with tap := none } }).endRun

/-- SNUFF entry at Lantern (R313, 14 R337, 15 R357): frames in progress stop, flagged ABORTED, and a tap with them; every LED output goes
low. -/
def State.lanternSnuff (s : State) : State :=
  let s := (s.stopTap.endFrame 0 32 false).endFrame 1 32 false
  ({ s with lantern := { s.lantern with rungs := [] } }).ledsLow

/-! ### Commit, taps, UARTs -/

/-- The shadow set of a context. -/
def State.shadow (s : State) (c : Nat) : CamSet :=
  { exposure := s.reg (Obj.exposure c), period := s.reg (Obj.linePeriod c), lines := s.reg (Obj.linesPerFrame c),
    maskLo := s.reg (Obj.ledSegMaskLo c), maskHi := s.reg (Obj.ledSegMaskHi c), level := s.reg (Obj.ledLevel c) }

/-- Whether a shadow set may be committed (R312, R314, 14 R333). -/
def State.shadowOk (s : State) (c : Nat) : Bool :=
  let x := s.shadow c
  decide (x.exposure + 100 ≤ x.period) && windowOk x.exposure (s.reg Obj.ledBlank)

/-- A commit (R314): one accepted in the REF cycle of another takes its place (R315). -/
def State.commitCam (s : State) (c : Nat) : State :=
  let old := s.lastCommit c
  let gen := (s.reg (Obj.generation c) + 1) % 2 ^ 32
  let new : Commit := { set := s.shadow c, gen := gen, at_ := some s.clock.cycles }
  let earlier := if old.at_ = some s.clock.cycles then s.lantern.earlier else Table.put {} s.lantern.earlier c old
  let s := { s with lantern := { s.lantern with committed := Table.put {} s.lantern.committed c new, earlier := earlier } }
  s.setReg (Obj.generation c) gen

/-- A write of TAP_SELECT (R321, R329). -/
def State.selectTap (s : State) (v : Nat) : State :=
  let s := (s.setReg Obj.tapSelect v).stopTap
  let new : Option Tap := if v.testBit 8 then
      some { tap := bits v 1 0, ctx := bits v 4 2, left := s.reg Obj.tapFrames, active := false } else none
  { s with lantern := { s.lantern with nextTap := new } }

/-- UART_TX (R319): the bytes wait for the port. -/
def State.queueUart (s : State) (b : List Byte) : State :=
  let p := s.reg Obj.uartContext / 4
  { s with lantern := { s.lantern with uarts := Table.put Uart.idle s.lantern.uarts p (.queued b) } }

/-- UART_TRANSFER (R319): with no frame in progress, SEL is driven and the bytes are sent. -/
def execUartTransfer (p : Fin 2) (s : State) : Host.Outcome State Fault Refusal :=
  match Table.get Uart.idle s.lantern.uarts p with
  | .queued b =>
    if (s.frame p).isSome = true ∨ s.blockUp Block.lantern = false then ok s
    else
      let s := (s.select p (s.reg Obj.uartContext)).emit (.uart p (s.reg Obj.uartBaud) b)
      ok { s with lantern := { s.lantern with uarts := Table.put Uart.idle s.lantern.uarts p .waiting } }
  | _ => ok s

/-- UART_RX_DONE (R319): the received bytes, at most 256. -/
def execUartRxDone (p : Fin 2) (bytes : List Byte) (s : State) : Host.Outcome State Fault Refusal :=
  match Table.get Uart.idle s.lantern.uarts p with
  | .waiting =>
    let s := s.setDom Obj.uartRx (bytes.take 256)
    ok { s with lantern := { s.lantern with uarts := Table.put Uart.idle s.lantern.uarts p .idle } }
  | _ => ok s

end Sys2Proof.Machine
end

