-- ==== Sys2Proof/Machine/Power.lean ====
section
/-! DEFINITION. The requests to the Wick other than lines, and its publication of headroom (18 R393 to R401). -/

namespace Sys2Proof.Machine

/-- A grant that its requester acts on at once: a maintenance pattern begins (10 R250). Every other requester uses its leave with its
own next step. -/
def State.onGrant (s : State) (who : Requester) : State :=
  match who with
  | .maintPattern =>
    match s.taper.maint with
    | some m => if m.running then s else (s.useLeave who).beginMaint
    | none => s
  | _ => s

/-- What a refusal does to its requester (10 R250, 17 R383, 20 R434): the pattern, the change of set or the move does not start. -/
def State.onRefusal (s : State) (who : Requester) : State :=
  match who with
  | .maintPattern =>
    match s.taper.maint with
    | some m => if m.running then s else { s with taper := { s.taper with maint := none } }
    | none => s
  | .stepper a => s.moveRefused a
  | .dramSet1 =>
    if s.dram.change = some (1, false) then { s with dram := { s.dram with change := none } } else s
  | _ => s

/-- A request, with what its requester does at once on the answer (R394). Lines that are ready are decided first (R34). -/
def State.request (s : State) (r : WickReq) : State :=
  match s.linesFirst.ask r with
  | (.granted, s) => s.onGrant r.who
  | (.deferred, s) => s
  | (.refused, s) => s.onRefusal r.who

/-- WICK_REQUEST (R394). -/
def execWickRequest (r : WickReq) (s : State) : Host.Outcome State Fault Refusal := ok (s.request r)

/-- Grant a deferred request. -/
def State.grantWait (s : State) (w : WickWait) : State := ((s.giveLeave w.req).unqueue w.id).onGrant w.req.who

/-- Refuse a deferred request. -/
def State.refuseWait (s : State) (w : WickWait) : State := ((s.refuseLeave w.req).unqueue w.id).onRefusal w.req.who

/-- WICK_DEFERRED_GRANT (R394): the first in order of the deferred requests that the levels cover. -/
def execWickDeferredGrant (s : State) : Host.Outcome State Fault Refusal :=
  if s.mode = .dark ∨ s.blockUp Block.wick = false then ok s
  else
    let s := s.linesFirst
    match s.nextGrant with
    | none => ok s
    | some w => ok (s.grantWait w)

/-- WICK_DEFER_TIMEOUT (R394, R401): refused, unless the levels cover it in the same cycle. -/
def execWickDeferTimeout (id : Nat) (s : State) : Host.Outcome State Fault Refusal :=
  match s.wick.queue.find? (fun w => w.id = id) with
  | none => ok s
  | some w =>
    let s := s.linesFirst
    ok (if s.coverable w.req w.id then s.grantWait w else s.refuseWait w)

/-- SNUFF entry (R396, R401): deferred requests for P_HEAD or P_MACH, and grants of the same REF cycle, are refused. -/
def State.snuffWick (s : State) : State :=
  let out := (s.wick.queue.map WickWait.req ++ s.wick.fresh).filter WickReq.widePools
  out.foldl (fun s r => s.onRefusal r.who) s.wickSnuff

/-- The WICK block goes into reset (R396): what waits is refused and counted in no pool. -/
def State.wickReset (s : State) : State :=
  let out := s.wick.queue
  let s := ({ s with wick := { s.wick with queue := [] } }).noteQueued
  out.foldl (fun s w => s.onRefusal w.req.who) s

/-- The WICK block is released: every level is C_p (R387). -/
def State.wickRelease (s : State) : State :=
  { s with wick := { s.wick with core := s.poolCap 0, head := s.poolCap 1, mach := s.poolCap 2 } }

/-- HEADROOM of a pool as an F32 word: the level over the window, in W (R398). -/
def State.headroomNow (s : State) (p : Nat) : Nat := f32OfRat (s.poolLevel p) (1000000000 * s.reg (Obj.window p))

/-- Publish HEADROOM of each of a list of pools. -/
def State.publishHeadroom (s : State) : List Nat → State
  | [] => s
  | p :: t =>
    let v := s.headroomNow p
    ((s.setReg (Obj.headroom p) v).emit (.headroom p v)).publishHeadroom t

/-- HEADROOM_PUBLISH (R398): every 10 µs. -/
def execHeadroomPublish (s : State) : Host.Outcome State Fault Refusal :=
  if s.mode = .dark ∨ s.blockUp Block.wick = false then ok s else ok (s.publishHeadroom [0, 1, 2])

end Sys2Proof.Machine
end

