-- ==== Sys2Proof/Machine/Dram.lean ====
section
/-! DEFINITION. The LPDDR5 controller (17): errors, panic, refresh, the change between timing sets. -/

namespace Sys2Proof.Machine

/-- The usable space U in bytes (R369). -/
def State.usable (s : State) : Nat := 1879048192 * 2 ^ (s.reg Obj.dramSize - 1)

/-- Whether the memory controller runs. -/
def State.dramUp (s : State) : Bool := s.blockUp Block.dram

/-- The bytes of the line of an address, with the word at the address as given. -/
def State.lineWith (s : State) (addr w : Nat) : List (Nat × Byte) :=
  (List.range 64).map (fun i =>
    let a := 64 * (addr / 64) + i
    (a, if a / 8 = addr / 8 then (le 8 w).getD (a % 8) 0 else s.memByte a))

/-- A correctable error counts (R373): the line is written back, with its word as corrected, unless a source has written it in the meantime
(R386). -/
def State.corrected (s : State) (addr w : Nat) (overwritten : Bool) : State :=
  let s := ((s.bump Obj.ceCount).setReg Obj.lastErrorAddr addr).setBits Obj.dramStatus 1
  if overwritten then s else s.writeMem .correction (s.lineWith addr w)

/-- DRAM_CE (R373): a word read with its check byte has one wrong bit. -/
def execDramCe (addr word : Nat) (check : Byte) (overwritten : Bool) (s : State) : Host.Outcome State Fault Refusal :=
  if s.usable ≤ addr then .fault (.noSuchAddress addr)
  else if s.dramUp && oneWrong word check then ok (s.corrected addr ((secdedRead word check).getD 0) overwritten)
  else ok s

/-- Mark a block of a stream. -/
def State.markBlock (s : State) (k seq : Nat) (bad unread : Bool) : State :=
  s.setRing k ((s.ring k).map (fun b => if b.seq = seq then { b with bad := b.bad || bad, unread := b.unread || unread } else b))

/-- The scrubber treats a block as bad (16 R365). -/
def State.scrubBad (s : State) (k seq : Nat) (unread : Bool) : State :=
  let s := s.markBlock k seq true unread
  ((s.bump Obj.scrubMismatches).setBits Obj.checkStatus 2).logEvent Ev.scrubBad (le 2 k ++ le 4 seq)

/-- The number of a DRAM_UE source (R374). -/
def sourceCode : DramSource → Nat
  | .stripRead => 0 | .auxRead => 1 | .scan => 2 | .scrub => 3 | .readback => 4 | .serviceCore => 5 | .twinResync => 6

/-- The stream that a source serves, or 0xFFFF (R374). -/
def sourceStream (x : DramSource) (stream : Nat) : Nat :=
  match x with
  | .stripRead | .auxRead | .scrub => stream
  | _ => 0xFFFF

/-- What the source does with a poisoned line (R374). A scan is noted, and ends with its own next step. -/
def State.poisoned (s : State) (x : DramSource) (stream block : Nat) : State :=
  match x with
  | .stripRead => s.markBlock stream block true true
  | .auxRead => s.markBlock stream block false true
  | .scan => { s with check := { s.check with ecc := !s.check.queue.isEmpty } }
  | .scrub => s.scrubBad stream block true
  | .readback => s.endRequest 3 2
  | .serviceCore | .twinResync => s.setCause Cause.dram

/-- DRAM_UE (R374, R375): the retry of a double-bit error, `word` and `check` as it reads them. One that reads correctly or correctably counts
as a correctable error, a write between the two reads included (R386). -/
def execDramUe (addr : Nat) (source : DramSource) (stream block word : Nat) (check : Byte) (s : State) : Host.Outcome State Fault Refusal :=
  if s.usable ≤ addr then .fault (.noSuchAddress addr)
  else if s.dramUp = false then ok s
  else match secdedRead word check with
  | some w => ok (s.corrected addr w false)
  | none =>
    let recent := s.clock.cycles :: s.dram.ueAt.filter (fun t => decide (s.clock.cycles - t < cyclesPerSec))
    let s := ((s.bump Obj.ueCount).setReg Obj.lastErrorAddr addr).setBits Obj.dramStatus 2
    let s := { s with dram := { s.dram with ueAt := recent } }
    let s := s.logEvent Ev.dramUe (le 8 addr ++ le 1 (sourceCode source) ++ le 2 (sourceStream source stream))
    let s := if s.reg Obj.ueLimit < recent.length then s.setCause Cause.dram else s
    ok (s.poisoned source stream block)

/-- The bytes of a stream's committed blocks beyond its context's read position. -/
def State.unreadBytes (s : State) (k : Nat) : Nat :=
  let c := (s.ctx k).work
  sumList ((s.ring k).map (fun b =>
    if s.lineCommitted (s.blkFirst b) = false ∨ dist32 b.seq c.blockSeq < 0 then 0
    else if b.seq = c.blockSeq then b.bytes.length - c.offset else b.bytes.length))

/-- Whether a strip's prefetch buffer with `held` bytes is short of a mark, with more of its committed blocks left to read (R380). -/
def State.buffersShort (s : State) (mark k held : Nat) : Bool := decide (held < mark) && decide (held < s.unreadBytes k)

/-- RT_PANIC_RAISE (R380): in LIT a strip's prefetch buffer holds `held` bytes, fewer than PANIC_MARK. -/
def execRtPanicRaise (st : Fin 128) (held : Nat) (s : State) : Host.Outcome State Fault Refusal :=
  if s.mode = .lit ∧ s.dramUp = true ∧ s.dram.panic = false ∧ s.buffersShort (s.reg Obj.panicMark) st held = true then
    ok { (s.bump Obj.panicCount).setBits Obj.dramStatus 4 with dram := { s.dram with panic := true } }
  else ok s

/-- RT_PANIC_CLEAR (R380): the bytes that the 128 buffers hold; panic clears when none is short of PANIC_MARK + 2,048. -/
def execRtPanicClear (held : List Nat) (s : State) : Host.Outcome State Fault Refusal :=
  if s.dram.panic && (List.range 128).all (fun k => !s.buffersShort (s.reg Obj.panicMark + 2048) k (held.getD k 0)) then
    ok { s with dram := { s.dram with panic := false, clearAt := some s.clock.cycles } }
  else ok s

/-- MR4_POLL (R382): `code` is the highest rate code over the channels, `faster` that it is faster than nominal; each change of a faster rate
is raised once. -/
def execMr4Poll (code : Nat) (faster : Bool) (s : State) : Host.Outcome State Fault Refusal :=
  if s.dramUp then
    let raise := faster && (!s.dram.fast || decide (s.reg Obj.mr4Rate ≠ code % 256))
    let s := { s.setReg Obj.mr4Rate (code % 256) with dram := { s.dram with fast := faster } }
    let s := if faster then s.setBits Obj.dramStatus 8 else s
    ok (if raise then s.logEvent Ev.dramHot [] else s)
  else ok s

/-- DRAM_REFRESH (R382): a per-bank refresh is issued, panic or not. -/
def execDramRefresh (channel : Fin 4) (bank : Nat) (s : State) : Host.Outcome State Fault Refusal :=
  if s.dramUp then
    ok ({ s with dram := { s.dram with refreshes := s.dram.refreshes + 1 } }.emit (.dramRefresh channel bank))
  else ok s

/-! ### The change between timing sets (R383 to R386) -/

/-- MT/s of a timing set. -/
def State.rateOf (s : State) (set : Nat) : Nat := s.reg (if set = 0 then Obj.dramFreq else Obj.dramAltFreq)

/-- The requester of a change to a set. -/
def setRequester (set : Nat) : Requester := if set = 0 then .dramSet0 else .dramSet1

/-- Ask the Wick for leave to change to a set (R383; 18 R393: the firmware sets the energy). -/
def State.askSet (s : State) (set : Nat) : State :=
  let e := 1000000 * Config.firmwareEnergy (if set = 0 then 1 else 4)
  ({ s with dram := { s.dram with change := some (set, false) } }).request
    { who := setRequester set, core := some e, head := none, mach := none, peak := e }

/-- Withdraw a change that has not begun: a request that waits goes, and a grant not used is refunded. -/
def State.dropSet (s : State) (set : Nat) : State :=
  let who := setRequester set
  let s := if s.hasLeave who then (s.useLeave who).refundPool 0 (1000000 * Config.firmwareEnergy (if set = 0 then 1 else 4)) else s
  let s := ({ s with wick := { s.wick with queue := s.wick.queue.filter (fun w => w.req.who ≠ who) } }).noteQueued
  { s with dram := { s.dram with change := none } }

/-- Select a timing set: a change is asked for unless the set is in use or on its way. -/
def State.selectSet (s : State) (set : Nat) : State :=
  match s.dram.change with
  | some (_, true) => { s with dram := { s.dram with want := some set } }
  | some (t, false) =>
    if t = set then s
    else
      let s := s.dropSet t
      if s.dram.setNow = set then s else s.askSet set
  | none => if s.dram.setNow = set then s else s.askSet set

/-- Whether panic holds, or has been clear for less than 10 µs (01 R39). -/
def State.panicNear (s : State) : Bool :=
  s.panics || (match s.dram.clearAt with
    | some t => decide (s.clock.cycles < t + 10 * cyclesPerUs)
    | none => false)

/-- DRAM_FREQ_CHANGE (R384, 01 R39): with leave, and with panic clear for 10 µs, the channels enter self-refresh. -/
def execDramFreqChange (s : State) : Host.Outcome State Fault Refusal :=
  match s.dram.change with
  | some (t, false) =>
    if s.hasLeave (setRequester t) && !s.panicNear && s.dramUp then
      let s := s.useLeave (setRequester t)
      ok { s with dram := { s.dram with change := some (t, true) } }
    else ok s
  | _ => ok s

/-- The change is complete: FREQ_NOW and FREQ_CHANGES (R384), and then a set selected meanwhile, or set 0 for LIT (R385). -/
def State.setChanged (s : State) (t : Nat) : State :=
  let s := (s.setReg Obj.freqNow (s.rateOf t)).bump Obj.freqChanges
  let want := if s.dram.litDue then some 0 else s.dram.want
  let s := { s with dram := { s.dram with change := none, want := none, setNow := t } }
  match want with
  | some w => s.selectSet w
  | none => s

end Sys2Proof.Machine
end

