-- ==== Sys2Proof/Machine/Check.lean ====
section
/-! DEFINITION. The check-value units (16): scans and the scrubber. -/

namespace Sys2Proof.Machine

/-- The 8-byte prefix that PREFIX_MODE names (R359). -/
def State.unitPrefix (s : State) (u start : Nat) : List Byte :=
  let id := s.reg (Obj.prefixId u)
  match s.reg (Obj.prefixMode u) with
  | 1 => crcPrefix (bits id 15 0) (bits id 63 32)
  | 2 => le 8 start
  | _ => []

/-- OWNER of a unit (R358). -/
def State.ownerNow (s : State) (u : Nat) : Nat :=
  if u < 6 then 1 else if u = 6 ∧ (s.isSet Obj.scrubEnable = true ∨ s.check.hand.isSome = true) then 2 else 0

/-- Whether the CHECK block runs. -/
def State.checkUp (s : State) : Bool := s.blockUp Block.check

/-- The scan at the head of the queue starts: its unit reads as running, and it reads memory. -/
def State.startScan (s : State) : State :=
  match s.check.queue with
  | x :: _ => (s.setReg (Obj.unitState x.unit) 1).askMem .scan false (creditsOf x.len)
  | [] => s

/-- SCAN_QUEUED follows the queue. -/
def State.noteScans (s : State) : State := s.setReg Obj.scanQueued s.check.queue.length

/-- Read a SCAN_REQUEST; none where it is to be refused with 0x0609_0030 (R361). -/
def State.parseScan (s : State) (b : List Byte) : Option Scan :=
  let x : Scan := { unit := field b 0 1, flags := field b 1 1, len := field b 4 4, start := field b 8 8, expected := field b 16 4 }
  if b.length = 24 ∧ 6 ≤ x.unit ∧ x.unit ≤ 15 ∧ s.ownerNow x.unit = 0 ∧ x.flags < 4 ∧ field b 2 2 = 0 ∧ field b 20 4 = 0 ∧
      1 ≤ x.len ∧ x.start + x.len ≤ s.usable then some x else none

/-- Queue a scan. -/
def State.queueScan (s : State) (x : Scan) : State :=
  let first := s.check.queue.isEmpty
  let s := { s with check := { s.check with queue := s.check.queue ++ [x] } }
  let s := if x.flags.testBit 1 then s.setReg (Obj.expected x.unit) x.expected else s
  let s := s.noteScans
  if first then s.startScan else s

/-- The register of a unit after a scan: INIT and its prefix, or the register as it stands, and then the bytes (R359, R360). -/
def State.scanRegister (s : State) (x : Scan) : Nat :=
  let ieee := decide (s.reg (Obj.poly x.unit) = 1)
  let c := if x.flags.testBit 0 then crcFold ieee crcInit (s.unitPrefix x.unit x.start) else s.reg (Obj.running x.unit)
  crcFold ieee c (s.memBytes x.start x.len)

/-- The status of a scan that has met no error: 2 DONE, 3 MATCH, 4 MISMATCH (R363). -/
def scanStatus (x : Scan) (result : Nat) : Nat :=
  if x.flags.testBit 1 then (if result = x.expected then 3 else 4) else 2

/-- A scan ends with a result. -/
def State.endScan (s : State) (x : Scan) : State :=
  let c := s.scanRegister x
  let r := crcFinal c
  let st := scanStatus x r
  let s := ((s.setReg (Obj.running x.unit) c).setReg (Obj.result x.unit) r).setReg (Obj.unitState x.unit) st
  if st = 4 then
    (s.setBits Obj.checkStatus 1).logEvent Ev.checkMismatch (le 1 x.unit ++ zeros 3 ++ le 4 r ++ le 4 x.expected)
  else s

/-- A scan ends with status ECC (R362): its register, part way through, is free (log entry 5). -/
def State.eccScan (s : State) (x : Scan) : State :=
  let (c, s) := s.fresh 32
  (s.setReg (Obj.running x.unit) c).setReg (Obj.unitState x.unit) 5

/-- SCAN_COMPLETE (R362, R363): the scan at the head ends, and the next starts. It does not end while its reads wait, as panic makes them (01
R32). -/
def execScanComplete (s : State) : Host.Outcome State Fault Refusal :=
  match s.check.queue with
  | [] => ok s
  | x :: t =>
    if s.memWaits .scan then ok s
    else
    let s := if s.check.ecc then s.eccScan x else s.endScan x
    ok ({ s with check := { s.check with queue := t, ecc := false } }).noteScans.startScan

/-! ### The scrubber (R364, R365) -/

/-- Whether a stored block belongs to a committed page not yet done. -/
def State.underPage (s : State) (k : Nat) (b : Blk) : Bool :=
  s.raster.pages.any (fun p =>
    p.last.any (fun x => decide (x.1 = k) && decide (dist32 b.seq x.2 ≤ 0)) &&
      (decide (128 ≤ k) || decide (0 < dist32 (s.blkEnd b) p.first)))

/-- The blocks that the scrubber walks: stream by stream, block by block. -/
def State.scrubWalk (s : State) : List (Nat × Blk) :=
  s.raster.rings.flatMap (fun (x : Nat × List Blk) => (x.2.filter (s.underPage x.1)).map (fun b => (x.1, b)))

/-- The blocks of the walk that come after the one checked last. -/
def State.scrubLeft (s : State) : List (Nat × Blk) :=
  match s.check.scrub with
  | none => s.scrubWalk
  | some (k, q) => s.scrubWalk.filter (fun x => decide (k < x.1) || (decide (x.1 = k) && decide (0 < dist32 x.2.seq q)))

/-- Whether the scrubber takes blocks in hand. -/
def State.scrubs (s : State) : Bool := s.isSet Obj.scrubEnable && s.mode.working && s.checkUp

/-- The block in hand: the one taken, or, with none taken, the next of the walk; in SNUFF the one that its entry met (R366). -/
def State.handBlock (s : State) : Option (Nat × Nat) :=
  if s.checkUp = false then none
  else match s.check.hand with
    | some x => some x
    | none =>
      if s.scrubs || (s.isSet Obj.scrubEnable && decide (s.mode = .snuff) && !s.check.rests) then
        (s.scrubLeft.head?).map (fun x => (x.1, x.2.seq))
      else none

/-- The walk is complete: the pass counts, and the next begins (R364). -/
def State.endWalk (s : State) : State :=
  if s.check.scrub.isSome && s.scrubLeft.isEmpty then { s.bump Obj.scrubPasses with check := { s.check with scrub := none } } else s

/-- The scrubber goes on to its next block, and asks for it. -/
def State.nextScrub (s : State) : State :=
  let s := { s.endWalk with check := { s.endWalk.check with hand := none, rests := decide (s.mode = .snuff) } }
  if s.scrubs && s.check.scrub.isSome then
    match s.scrubLeft with
    | [] => s
    | (k, b) :: _ => ({ s with check := { s.check with hand := some (k, b.seq) } }).askMem .scrub false (creditsOf b.bytes.length)
  else s

/-- The block in hand, as read from memory, is checked (R364, R365). -/
def State.checkBlock (s : State) (k seq : Nat) (asRead : List Byte) : State :=
  let c := crcFold false crcInit (crcPrefix k seq ++ asRead.take (asRead.length - 4))
  let s := (s.setReg (Obj.running 6) c).setReg (Obj.result 6) (crcFinal c)
  let s := if field asRead (asRead.length - 4) 4 = crcFinal c then s else s.scrubBad k seq false
  { s with check := { s.check with scrub := some (k, seq) } }

/-- SCRUB_BLOCK (R364 to R366): the block in hand is checked, or its result discarded where it has been freed or flushed. The scrubber reads
nothing in panic (01 R32). -/
def execScrubBlock (asRead : List Byte) (s : State) : Host.Outcome State Fault Refusal :=
  let s := if s.scrubs then s.endWalk else s
  match s.handBlock with
  | none => ok s
  | some (k, seq) =>
    if s.panics ∨ s.memWaits .scrub = true then ok s
    else
      let s := if s.scrubWalk.any (fun x => decide (x.1 = k) && decide (x.2.seq = seq)) then s.checkBlock k seq asRead else s
      ok s.nextScrub

/-- The CHECK block goes into reset (R366): scans end ABORTED, and every register reads 0xFFFF_FFFF. -/
def State.checkReset (s : State) : State :=
  let units := s.check.queue.map Scan.unit
  let s := ({ s with check := {} } : State).dropMem .scan
  let s := s.setRegs ((List.range 16).map (fun u => (Obj.running u, 0xFFFFFFFF)))
  (s.setRegs (units.map (fun u => (Obj.unitState u, 6)))).noteScans

end Sys2Proof.Machine
end

