-- ==== Sys2Proof/Machine/Flags.lean ====
section
/-! DEFINITION. Flags that are computed from the state: write-1-to-clear objects (00 R9), the stored settings and their digest (05 R494,
12 R286), the twin link's health (12 R291), LIT_BLOCKERS (02 R47) and TWIN_STATUS. -/

namespace Sys2Proof.Machine

/-- The write-1-to-clear objects (R9). -/
def isW1c (key : Nat) : Bool :=
  let idx := key / 256
  let sub := key % 256
  decide (key = Obj.encStatus 0) || decide (key = Obj.encStatus 1) || decide (key = Obj.lanternStatus) ||
    decide (key = Obj.ledStatus) || decide (key = Obj.checkStatus) || decide (key = Obj.dramStatus) ||
    decide (key = Obj.wickStatus) || decide (key = Obj.ptpStatus) || decide (key = Obj.twinEvents) ||
    (decide (0x2400 ≤ idx) && decide (idx < 0x2422) && decide (sub = 0x0B)) ||
    (decide (idx = 0x2422) && decide (sub % 16 = 0x0B)) || (decide (idx = 0x2423) && decide (sub % 16 = 0x0B)) ||
    (decide (0x2B00 ≤ idx) && decide (idx < 0x2B30) && decide (sub = 0x2B)) ||
    (decide (idx = 0x2C00) && decide (0x20 ≤ sub) && decide (sub % 32 = 0x1C))

/-- The stored settings (05 R494): with the settings of a loop slot goes the number of its bank in force. -/
def isStored (key : Nat) : Bool :=
  let keys := [Obj.keyObserver, Obj.keyOperator, Obj.keyService]
  let except := [Obj.blockReset, Obj.fusePadIndex, Obj.originCount, Obj.originSeq, Obj.fwSlot0, Obj.fwSlot1]
  let isBank := decide (0x2B00 ≤ key / 256) && decide (key / 256 < 0x2B30) && decide (key % 256 = 0x22)
  let image := decide (0x2100 ≤ key / 256) && decide (key / 256 < 0x21A0) && decide (key % 256 = 0x17)
  match Dict.row key with
  | none => false
  | some r => keys.contains key || isBank || (decide (r.acc = .rw) && !except.contains key && !image && !isW1c key)

/-- The objects whose writes R285 does not forward: those of MOTION, LANTERN and LED, the network and key objects, 0x1200, and
MODE_REQUEST, SNUFF_CAUSE_CLEAR and BOOT_HOLD; SWAP_REQUEST reaches the partner as SWAP (R301). -/
def isLocal (key : Nat) : Bool :=
  let idx := key / 256
  decide (idx = 0x2600) || decide (idx = 0x2700) || decide (idx = 0x2C00) || decide (idx = 0x1010) || decide (idx = 0x1200) ||
    decide (key = Obj.modeRequest) || decide (key = Obj.snuffCauseClear) || decide (key = Obj.bootHold) || decide (key = Obj.swapRequest)

/-- CONFIG_DIGEST (12 R286; log entry 14). -/
def State.digest (s : State) : Nat :=
  crc32c (Config.digestBytes (s.regs.filter (fun (x : Nat × Nat) => isStored x.1 && !isLocal x.1))
    (s.doms.filter (fun (x : Nat × List Byte) => isStored x.1 && !isLocal x.1)))

/-! ### The partner (12) -/

/-- The cycles of 100 ms. -/
def dropCycles : Nat := 20000000

/-- Whether the twin link is healthy (R291). -/
def State.twinHealthy (s : State) : Bool :=
  s.twin.lane0 && s.twin.lane1 && s.twin.hbAt.isSome &&
    (match s.twin.dropAt with
     | none => true
     | some t => decide (dropCycles ≤ s.clock.cycles - t))

/-- Whether the twin link is up, on one lane or both. -/
def State.twinUp (s : State) : Bool := s.twin.lane0 || s.twin.lane1

/-- Fields of the partner's latest HEARTBEAT. -/
def State.heard (s : State) : Bool := !s.twin.partner.isEmpty
def State.partnerRole (s : State) : Nat := field s.twin.partner 0 1
def State.partnerMode (s : State) : Nat := field s.twin.partner 1 1
def State.partnerFlags (s : State) : Nat := field s.twin.partner 2 2

/-- Whether the partner's digest is this chip's. -/
def State.digestMatch (s : State) : Bool := s.heard && decide (field s.twin.partner 4 4 = s.digest)

/-- Whether the partner's revision and firmware are this chip's (00 R1). -/
def State.versionMatch (s : State) : Bool :=
  s.heard && decide (field s.twin.partner 8 2 = s.reg Obj.siliconRev) && decide (field s.twin.partner 12 4 = s.reg Obj.fwVersion)

/-- Whether the partner is heard to carry another revision or firmware: this chip then takes no MATE's part, and stays in PILOT (00 R1). -/
def State.mismatched (s : State) : Bool := s.heard && !s.versionMatch

/-- Whether the partner is heard to be in LIT: by a HEARTBEAT that has not been missed, with its alive line high. -/
def State.partnerLit (s : State) : Bool := s.heard && s.twin.hbAt.isSome && s.pins.aliveIn && decide (s.partnerMode = 4)

/-- Both chips claim PRIMARY in PILOT (R307). -/
def State.roleConflict (s : State) : Bool :=
  decide (s.role = .primary) && decide (s.mode = .pilot) && s.heard && decide (s.partnerRole = 1) && decide (s.partnerMode = 2)

/-- TWIN_STATUS as it reads. -/
def State.twinStatus (s : State) : Nat :=
  flag s.twinHealthy + 2 * flag s.pins.aliveIn + 4 * flag s.partnerLit + 8 * flag s.digestMatch +
    16 * flag s.versionMatch + 32 * flag s.roleConflict

/-- The twin conditions of a LIT request (02 R57, 12 R286). -/
def State.twinReady (s : State) : Bool :=
  decide (s.role ≠ .primary) ||
    (s.heard && decide (s.partnerRole = 2) && decide (s.partnerMode = 2) && s.versionMatch && s.digestMatch && s.twinHealthy &&
      !s.roleConflict)

/-! ### LIT_BLOCKERS (02 R47) -/

/-- Whether an enabled loop slot of a class is out of its ready band or tripped (19 R421). -/
def State.loopsOut (s : State) (cls : Nat) : Bool :=
  (List.range 48).any (fun i =>
    s.isSet (Obj.lpEnable i) && decide (s.reg (Obj.lpClass i) = cls) &&
      (s.tripped i || Bf24.lt (s.reg (Obj.readyBand i)) (Bf24.abs (s.reg (Obj.lpError i)))))

/-- Whether an axis moves, homes or has lost its position (20 R441). -/
def State.axisOut (s : State) (a : Nat) : Bool := (s.axis a).act.going || s.axLost a

/-- HEAD_PWR_EN has not been high for HEAD_SETTLE. -/
def State.headUnsettled (s : State) : Bool :=
  decide (s.pins.headPwr ≠ .high) || (decide (s.reg Obj.headSettle ≠ 0) && !s.pins.settled)

/-- The populated modules. -/
def State.fitted (s : State) : List Nat := (List.range 32).filter s.populated

/-- LIT_BLOCKERS as it reads. -/
def State.litBlockers (s : State) : Nat :=
  match s.mode with
  | .dark | .kindle => 0
  | _ =>
    flag (s.fitted.any (fun m => !s.laneUp m)) + 2 * flag (s.fitted.any (fun m => !((s.head m).ready && (s.head m).trimOk))) +
      4 * flag (s.loopsOut 1) + 8 * flag (s.loopsOut 2) +
      16 * flag (s.axisOut 2 || decide (s.sreg (Obj.axPosition 2) ≠ s.sreg (Obj.openPos 2))) +
      32 * flag (s.axisOut 0 || s.axisOut 1) +
      64 * flag (!s.isSet (Obj.encEnable s.fireCh) || s.encFault s.fireCh) +
      128 * flag (decide (s.reg Obj.fsiNow < s.reg Obj.fsiFloor)) + 256 * flag (!s.twinReady) + 512 * flag s.headUnsettled

end Sys2Proof.Machine
end

