-- ==== Sys2Proof/Machine/Modes.lean ====
section
/-! DEFINITION. Entering PILOT, TRIM, LIT and SNUFF, and the stop (02, 10 R226, R228, R244, 12 R297); the pins that go with them. -/

namespace Sys2Proof.Machine

/-! ### Twin messages -/

/-- Send a twin message, where there is a twin link to send it on. -/
def State.twinSend (s : State) (ty : Nat) (payload : List Byte) : State :=
  if s.strapped ≠ .solo ∧ s.twinUp = true then s.emit (s.twin.frame ty payload) else s

/-- Raise a twin event: its bit of TWIN_EVENTS, and its log entry where it has one. -/
def State.twinEvent (s : State) (bit : Nat) (code : Option Nat) (detail : List Byte) : State :=
  let s := s.setBits Obj.twinEvents (2 ^ bit)
  match code with
  | some c => s.logEvent c detail
  | none => s

/-- A PRIMARY forwards a mode change to its mate, with the effective line (02 R57): the lowest line not yet confirmed, so that the mate
confirms none that this chip has not (log entry 102). -/
def State.sendMode (s : State) (m : Mode) (line : Nat) : State :=
  if s.role = .primary then s.twinSend 0x06 (le 1 m.code ++ zeros 3 ++ le 4 line) else s

/-! ### Leaving LIT -/

/-- Publishes held by a role swap are made (12 R301). -/
def State.makeHeld (s : State) : State :=
  let held := s.twin.heldPublishes
  let s := { s with twin := { s.twin with heldPublishes := [] } }
  held.foldl (fun s p => s.publish p.1 p.2) s

/-- A role swap that LIT's end overtakes is abandoned; what it held is published where the chip is primary. -/
def State.abandonSwap (s : State) : State :=
  match s.twin.swap with
  | none => s
  | some _ => ({ s with twin := { s.twin with swap := none } }).makeHeld

/-- Publishes handed to the other chip at a role swap that has not made them: this chip makes them itself (08 R188, R196). -/
def State.makeAwaited (s : State) : State :=
  let l := s.twin.awaited
  let s := { s with twin := { s.twin with awaited := [] } }
  l.foldl (fun s p => s.publish p.1 p.2) s

/-- A join that LIT's end overtakes has failed. -/
def State.abandonJoin (s : State) : State :=
  match s.twin.join with
  | none => { s with twin := { s.twin with modeAt := none } }
  | some _ => ({ s with twin := { s.twin with join := none, modeAt := none } }).setReg Obj.joinState 4

/-! ### PILOT and TRIM -/

/-- HEAD_PWR_EN rises, and its settle time starts. -/
def State.raiseHeadPwr (s : State) : State :=
  if s.pins.headPwr = .high then s else { s with pins := { s.pins with headPwr := .high, settled := false } }

/-- TWIN_ALIVE_OUT (12 R296). -/
def State.drivenAlive (s : State) : State :=
  let up := (decide (s.role = .primary) || decide (s.role = .mate)) && s.mode.working
  { s with pins := { s.pins with aliveOut := if up then .high else .low } }

/-- A chip that comes to PILOT and knows of a role conflict raises it (12 R307). -/
def State.raiseConflict (s : State) : State := if s.roleConflict then s.twinEvent 4 (some Ev.roleConflict) [] else s

/-- A chip that leaves SNUFF may ask to join again (12 R300). -/
def State.freshJoin (s : State) : State :=
  if s.mode = .snuff ∧ s.reg Obj.joinState = 4 then s.setReg Obj.joinState 0 else s

/-- PILOT is entered (R48, R55). A maintenance pattern ends with TRIM (log entry 62). -/
def State.enterPilot (s : State) : State :=
  let s := ((s.freshJoin).toMode .pilot).raiseHeadPwr
  let s := { s with taper := { s.taper with maint := none }, pins := { s.pins with fireEn := .low, faultN := .high } }
  ((s.drivenAlive).tellState).raiseConflict

/-- TRIM is entered. -/
def State.enterTrim (s : State) : State := ((s.toMode .trim).drivenAlive).tellState

/-- A stop is complete (R44): the values are recorded, and PILOT is entered. -/
def State.endStop (s : State) : State :=
  let s := { s with taper := { s.taper with stopping := false } }
  ((s.recordStop.abandonSwap).abandonJoin).enterPilot

/-- Whether no request waits for its answer: a mode change of the firmware waits until then (R51). -/
def State.answered (s : State) : Bool := s.igrel.deferred.isEmpty

/-- LIT_STOP_COMPLETE (R44, R51): the last confirmed line has fired or been entered, and no request waits for its answer. -/
def execLitStopComplete (s : State) : Host.Outcome State Fault Refusal :=
  if s.mode = .lit ∧ s.taper.stopping = true ∧ s.answered = true ∧ s.taper.unsettled = [] ∧
      (List.range 8).all (fun g => (s.group g).conf.isNone) = true then ok s.endStop
  else ok s

/-! ### LIT -/

/-- The origin at LIT entry (10 R226). -/
def State.setOrigin (s : State) : State :=
  if s.reg Obj.originMode = 0 then
    let mark := s.reg (Obj.travelMark s.fireCh)
    let d := s.reg Obj.startDistance
    let c := if s.reg Obj.fireDir = 0 then (mark + d) % 2 ^ 32 else (2 ^ 32 + mark - d) % 2 ^ 32
    (s.setReg Obj.originCount c).setReg Obj.originSeq (s.floorSeq.getD 0)
  else s

/-- Each group begins again at its first line to print; its count of consecutive skips stands (10 R243). -/
def State.startGroups (s : State) : List Nat → State
  | [] => s
  | g :: t =>
    let n := s.reg (Obj.nextArmSeq g)
    let x := { s.group g with first := n, nextReq := n, conf := none }
    (s.setGroup g x).startGroups t

/-- What a mate keeps of the primary's lines begins again, but for a joining chip (12). -/
def State.freshTwin (s : State) : State :=
  let t := { s.twin with offsets := [], modeAt := none, pagesDone := [] }
  if s.twin.join.isSome then { s with twin := t }
  else { s with twin := { t with decisions := [], own := [], early := [] } }

/-- BAR_FIRE_EN in LIT: high, but for a held TAPER, whose pads are idle (R48, 03 R69). -/
def State.driveFireEn (s : State) : State :=
  { s with pins := { s.pins with fireEn := if s.blockUp Block.taper then .high else .low } }

/-- LIT is entered (10 R226, R228): the origin, FIRE_RESET, the state told to the heads, BAR_FIRE_EN, and priming. -/
def State.enterLit (s : State) : State :=
  let s := ((s.freshTwin).setOrigin).startGroups (List.range 8)
  let s := { s with taper := { s.taper with priming := true, stopping := false, stopDue := false, holdPage := none, newest := none },
                    lantern := { s.lantern with rungs := [] }, dram := { s.dram with litDue := false, panic := false } }
  let s := ((s.toMode .lit).drivenAlive).tellState
  (s.fireReset).driveFireEn

/-- A LIT request has been accepted (R47, 17 R385): LIT is entered once timing set 0 is in use. -/
def State.acceptLit (s : State) : State :=
  let s := s.selectSet 0
  if s.dram.setNow = 0 ∧ s.dram.change = none then s.enterLit
  else { s with dram := { s.dram with litDue := true } }

/-- DRAM_FREQ_CHANGE_DONE (17 R384, R385). -/
def execDramFreqChangeDone (s : State) : Host.Outcome State Fault Refusal :=
  match s.dram.change with
  | some (t, true) =>
    let s := s.setChanged t
    ok (if s.dram.litDue ∧ s.dram.setNow = 0 ∧ s.dram.change = none then
      (if s.mode = .pilot then s.enterLit else { s with dram := { s.dram with litDue := false } }) else s)
  | _ => ok s

/-! ### SNUFF (02 R52 to R55) -/

/-- The bar-wide causes (12 R297): SAFE_STOP, REQUEST, SKIP_POLICY and ENC_INDEX. -/
def barCauses : Nat := 0x1B

/-- Whether this entry is bar-wide: for a MATE, a REQUEST of its own is not (R59). -/
def State.barWide (s : State) : Bool :=
  match s.role with
  | .primary => decide (s.reg Obj.snuffCause &&& barCauses ≠ 0)
  | .mate => decide (s.reg Obj.snuffCause &&& 0x19 ≠ 0)
  | _ => false

/-- Every strobe output is driven low. -/
def State.dropStrobes (s : State) : List Nat → State
  | [] => s
  | g :: t =>
    let up := s.pins.strobesHigh.contains g
    let s := s.dropStrobe g
    (if up then s.emit (.strobeEnd g) else s).dropStrobes t

/-- HEAD_PWR_EN drops. -/
def State.dropHeadPwr (s : State) : State := { s with pins := { s.pins with headPwr := .low, settled := false } }

/-- BAR_FIRE_EN, FAULT_OUT_N and TWIN_ALIVE_OUT fall, and with no hold HEAD_PWR_EN. -/
def State.lowPins (s : State) : State :=
  let s' := { s with pins := { s.pins with fireEn := .low, faultN := .low, aliveOut := .low } }
  if s.reg Obj.headPwrHold = 0 then s'.dropHeadPwr else s'

/-- The outputs that SNUFF drives (R53). -/
def State.snuffPins (s : State) : State := (s.dropStrobes (List.range 8)).lowPins

/-- What SNUFF stops beside the firing path: maintenance, moves, requests, LEDs. -/
def State.snuffUnits (s : State) : State :=
  let s := { s with taper := { s.taper with maint := none }, dram := { s.dram with litDue := false },
                    rst := { s.rst with snuffDone := false, modeDue := none } }
  ((s.snuffWick).stopAxes).lanternSnuff

/-- SNUFF is entered (R53, R297). SNUFF_ALL goes ahead of any other twin frame. -/
def State.enterSnuff (s : State) (bar : Bool) : State :=
  let s := if bar ∧ s.role = .primary then s.twinSend 0x07 (le 4 (s.reg Obj.snuffCause)) else s
  let s := if s.mode = .lit then s.taperSnuff bar else s
  let s := s.snuffUnits.snuffPins
  let s := (s.toMode .snuff).loopSnuff
  (((s.tellState).abandonSwap).makeAwaited).abandonJoin

/-- The causes that R52 marks hw: SAFE_STOP, SNUFFER, SKIP_POLICY, ENC_INDEX and CDC_STALL. -/
def hardwareCauses : Nat := 0x3D

/-- SNUFF_ENTRY (R51 to R53): a set cause bit takes the device to SNUFF, a hardware cause also while a request is unanswered. -/
def execSnuffEntry (s : State) : Host.Outcome State Fault Refusal :=
  if s.mode.working && s.hasCause && (s.answered || decide (s.reg Obj.snuffCause &&& hardwareCauses ≠ 0)) then ok (s.enterSnuff s.barWide)
  else ok s

/-- SAFE_STOP_ASSERT (R54, 21 R451). -/
def execSafeStopAssert (s : State) : Host.Outcome State Fault Refusal :=
  if s.pins.safeStopLow then ok s
  else
    let s := { s with pins := { s.pins with safeStopLow := true } }
    ok ((s.setReg Obj.safeStopTime s.now).setCause Cause.safeStop)

/-- SAFE_STOP_RELEASE (R54). -/
def execSafeStopRelease (s : State) : Host.Outcome State Fault Refusal :=
  ok { s with pins := { s.pins with safeStopLow := false } }

/-- HEAD_PWR_DROP (R53): HEAD_PWR_HOLD after SNUFF entry. -/
def execHeadPwrDrop (s : State) : Host.Outcome State Fault Refusal := if s.mode = .snuff then ok s.dropHeadPwr else ok s

/-- HEAD_SETTLE_EXPIRY (R47). -/
def execHeadSettleExpiry (s : State) : Host.Outcome State Fault Refusal :=
  if s.pins.headPwr = .high then ok { s with pins := { s.pins with settled := true } } else ok s

/-- SUPPLY_MONITOR_TRIP (R52). -/
def execSupplyMonitorTrip (s : State) : Host.Outcome State Fault Refusal := ok (s.setCause Cause.supply)

end Sys2Proof.Machine
end

