-- ==== Sys2Proof/Machine/Lanes.lean ====
section
/-! DEFINITION. The head lanes (11): bring-up, STATUS, loss and recovery; and the end of KINDLE at a failure (22 R464). -/

namespace Sys2Proof.Machine

/-! ### The end of KINDLE (22 R464, R465) -/

/-- Every end of KINDLE: its count and its time, kept in the NOR, and FSI_MIN (01). -/
def State.countKindle (s : State) : State :=
  let s := s.setReg Obj.fsiMin (s.reg Obj.fsiKindle)
  { s with flash := { s.flash with kindleCount := countValue Obj.kindleCount s.flash.kindleCount 1, kindleLast := s.now },
           cal := { s.cal with running := false } }

/-- A KINDLE that ended in SNUFF (05, KINDLE_FAILS). -/
def State.countKindleFail (s : State) : State :=
  { s with flash := { s.flash with kindleFails := countValue Obj.kindleFails s.flash.kindleFails 1 } }

/-- The field of an item in CAL_RESULT: 0 not run, 1 passed, 2 failed, 3 skipped. -/
def State.calItem (s : State) (k : Nat) : Nat := bits (s.reg Obj.calResult) (2 * k + 1) (2 * k)

/-- Record how an item ended. -/
def State.setItem (s : State) (k v : Nat) : State :=
  let old := s.reg Obj.calResult
  s.setReg Obj.calResult (clearMask old (3 * 4 ^ k) + v * 4 ^ k)

/-- The first failure of a KINDLE (R464): item, unit and the two run values. -/
def State.calFail (s : State) (item unit r1 r2 : Nat) : State :=
  if s.cal.running then
    let detail := item + 2 ^ 8 * unit + 2 ^ 16 * (r1 % 2 ^ 24) + 2 ^ 40 * (r2 % 2 ^ 24)
    let s := (s.setItem item 2).setReg Obj.calFailDetail detail
    let s := { s with cal := { s.cal with failed := true } }
    let s := s.countKindle.countKindleFail
    let s := s.logEvent Ev.calResult (le 2 (s.reg Obj.calResult) ++ zeros 2 ++ le 8 detail)
    (s.setCause Cause.cal).enterSnuff false
  else s

/-! ### Bring-up (11, R277) -/

/-- Whether the logic of the head lanes runs: HEAD_LINK has been released. TRAIN goes out while its release waits for the locks (03 R71,
R72). -/
def State.headLinkUp (s : State) : Bool := s.blockUp Block.headLink

/-- Step 1: TRAIN goes out, and what the lane held of its module is forgotten. -/
def State.startTraining (s : State) (m : Nat) : State :=
  let h := s.head m
  let s := s.setHead m { h with slotOk := false, idRaised := false, ctrlNext := 1, unacked := [], ready := false, trimOk := false }
  (s.setReg (Obj.laneState m) 1).emit (.train .head m (headTrain m))

/-- Training of each of a list of lanes. -/
def State.trainAll (s : State) : List Nat → State
  | [] => s
  | m :: t => (s.startTraining m).trainAll t

/-- The receiver has locked: its equaliser settings as they adapt are free (log entry 5). -/
def State.adapt (s : State) (m : Nat) : State :=
  let (c, s) := s.fresh 4
  let (d, s) := s.fresh 40
  (s.setReg (Obj.ctleCode m) c).setReg (Obj.dfeTaps m) d

/-- HEAD_TRAIN_REPLY (R277): the slot ID is read and compared with the lane number. -/
def execHeadTrainReply (m : Fin 32) (slot : Nat) (inverted : Bool) (s : State) : Host.Outcome State Fault Refusal :=
  if s.reg (Obj.laneState m) = 1 ∧ s.headLinkUp = true then
    let s := (s.setReg (Obj.rxInverted m) (flag inverted)).setReg (Obj.slotIdSeen m) (slot % 256)
    let s := s.adapt m
    let h := s.head m
    if slot = m then ok (s.setHead m { h with slotOk := true })
    else
      let s := (s.setHead m { h with slotOk := false, idRaised := true }).laneFlag m 4
      ok (if h.idRaised then s else s.logEvent Ev.laneId [])
  else ok s

/-! ### Loss and recovery (R278 to R280) -/

/-- The device asks for leave to retrain a lane (R280; 18 R393: the firmware sets the energy). -/
def State.askRetrain (s : State) (m : Nat) : State :=
  let e := 1000000 * Config.firmwareEnergy 2
  s.request { who := .laneRetrain m, core := some e, head := none, mach := none, peak := e }

/-- An up lane is taken down (R278). -/
def State.takeDown (s : State) (m mask : Nat) : State :=
  let s := ((s.setReg (Obj.laneState m) 3).laneFlag m (8 ||| mask)).bump (Obj.retrains m)
  let s := s.setHead m { s.head m with slotOk := false, ready := false, trimOk := false, recovering := true }
  let s := (s.suspend m).logEvent Ev.laneDown []
  s.askRetrain m

/-- HEAD_LANE_TIMEOUT (R277): a lane is not up within 10 ms; in KINDLE that fails the equaliser item. -/
def execHeadLaneTimeout (m : Fin 32) (s : State) : Host.Outcome State Fault Refusal :=
  if s.reg (Obj.laneState m) = 1 ∧ s.populated m = true ∧ s.twin.roleDecided = true then
    let s := s.setReg (Obj.laneState m) 3
    if s.mode = .kindle then ok (s.calFail 3 m 0xFFFFFF 0xFFFFFF) else ok (s.askRetrain m)
  else ok s

/-- STATUS_TIMEOUT (R278). -/
def execStatusTimeout (m : Fin 32) (s : State) : Host.Outcome State Fault Refusal :=
  if s.laneUp m then ok (s.takeDown m 16) else ok s

/-- HEAD_LANE_LOSS (R254, R278): LOS, or LOL, with the code errors that the lane has met. -/
def execHeadLaneLoss (m : Fin 32) (lol : Bool) (errors : Nat) (s : State) : Host.Outcome State Fault Refusal :=
  if s.populated m = false ∨ s.headLinkUp = false then ok s
  else
    let s := (s.bump (if lol then Obj.lolCount m else Obj.losCount m)).count (Obj.codeErrors m) errors
    let mask := if lol then 2 else 1
    ok (if s.laneUp m then s.takeDown m mask else s.laneFlag m mask)

/-- Resend each unacknowledged CTRL frame of a lane. -/
def State.resendCtrl (s : State) (m : Nat) : List Ctrl → State
  | [] => s
  | c :: t => ((s.sendHead frCtrl s.role m 0 c.seq (le 1 c.op ++ zeros 3 ++ c.args)).bump (Obj.ctrlResends m)).resendCtrl m t

/-- CTRL_RESEND_TIMEOUT (R265): after 8 resends of one frame the lane is taken down. -/
def execCtrlResendTimeout (m : Fin 32) (s : State) : Host.Outcome State Fault Refusal :=
  let h := s.head m
  if s.laneUp m = false ∨ h.unacked = [] then ok s
  else if h.unacked.any (fun c => decide (8 ≤ c.resends)) then ok (s.takeDown m 0)
  else
    let s := s.setHead m { h with unacked := h.unacked.map (fun c => { c with resends := c.resends + 1 }) }
    ok (s.resendCtrl m h.unacked)

/-- HEAD_LANE_RETRAIN (R280): with leave, a lane that is down trains again. -/
def execHeadLaneRetrain (m : Fin 32) (s : State) : Host.Outcome State Fault Refusal :=
  if s.reg (Obj.laneState m) = 3 ∧ s.hasLeave (.laneRetrain m) = true ∧ s.headLinkUp = true then
    ok ((s.useLeave (.laneRetrain m)).startTraining m)
  else ok s

/-- RECOVER_TIME_EXPIRY (R280). -/
def execRecoverTimeExpiry (m : Fin 32) (s : State) : Host.Outcome State Fault Refusal :=
  let h := s.head m
  if h.recovering && !s.laneUp m then ok ((s.setHead m { h with recovering := false }).setCause Cause.lane) else ok s

/-! ### STATUS (R275, R276, R279 to R281) -/

/-- What a wrapping 16-bit count of a module has advanced by. -/
def advanced16 (new old : Nat) : Nat := (2 ^ 16 + new - old) % 2 ^ 16

/-- The counters of a STATUS: MISSING, DUPLICATES, CRC_ERRORS, MATE_FIRES. -/
def statusCounts (p : List Byte) : List Nat := [field p 60 2, field p 58 2, field p 56 2, field p 66 2]

/-- Add the advance of each of a module's counters. -/
def State.headCounters (s : State) (m : Nat) (p : List Byte) : State :=
  let old := (s.head m).seen
  let new := statusCounts p
  let d (i : Nat) : Nat := advanced16 (new.getD i 0) (old.getD i 0)
  let s := (s.count (Obj.headMissing m) (d 0)).count (Obj.headDuplicates m) (d 1)
  let s := (s.count (Obj.headCrcErrors m) (d 2)).count (Obj.mateFires m) (d 3)
  s.setHead m { s.head m with seen := new }

/-- The nozzles that a STATUS reports (R276), as records of a head's report. -/
def statusReports (m : Nat) (p : List Byte) : List (Nat × Nat) :=
  (List.range (min 4 (field p 3 1))).map (fun i =>
    let r := field p (48 + 2 * i) 2
    (2048 * (4 * m + bits r 12 11) + bits r 10 0, 16 * byHead + 2))

/-- A module's reports are published, except on a MATE (12 R293). -/
def State.takeReports (s : State) (m : Nat) (p : List Byte) : State :=
  match statusReports m p with
  | [] => s
  | recs => if s.role = .mate then s else s.publish recs none

/-- CTRL_ACK frees every frame up to it (R265). -/
def State.takeAck (s : State) (m ack : Nat) : State :=
  let h := s.head m
  s.setHead m { h with unacked := h.unacked.filter (fun c => decide (0 < dist32 c.seq ack)) }

/-- Resend the tentative lines that a strip has sent, in rising order (R280). -/
def State.resendStrip (s : State) (st : Nat) : State :=
  ((s.slotsOf st).filter (fun x => decide (x.st = .sent))).foldl (fun s x => s.sendLine st x) s

/-- Steps 5 and 6 of bring-up: the lane is up; STATUS_PERIOD, the TRIM table where it is not current, STATE, and the tentative lines. -/
def State.laneComesUp (s : State) (m : Nat) (p : List Byte) : State :=
  let s := s.setReg (Obj.laneState m) 2
  let s := s.setHead m { s.head m with recovering := false }
  let s := s.sendCtrl m 0x03 (le 2 (s.reg (Obj.statusPeriod m)))
  let s := if field p 24 4 = s.trimGen then s else s.sendTrim m
  let s := s.sendCtrl m 0x01 (le 1 s.mode.headState)
  (List.range 4).foldl (fun s r => s.resendStrip (4 * m + r)) s

/-- What every STATUS says (R275): its fields, counters, acknowledgements, reports, and the lines fired. -/
def State.takeStatus (s : State) (m : Nat) (p : List Byte) : State :=
  let s := s.setHead m { s.head m with heardAt := some s.clock.cycles, before := s.statusBefore m }
  let s := (s.setDom (Obj.lastStatus m) p).setReg (Obj.headState m) (field p 0 1)
  let s := s.setReg (Obj.trimAcked m) (field p 24 4)
  let alarm := (field p 1 1).testBit 4
  let s := s.setHead m { s.head m with ready := decide (field p 0 1 = 2), trimOk := decide (field p 24 4 = s.trimGen), alarm := alarm }
  let s := (s.headCounters m p).takeAck m (field p 20 4)
  let s := if alarm then s.setCause Cause.therm else s
  (s.takeReports m p).hearStatus m (statusValid p) (statusFired p)

/-- Whether a STATUS reports FWD_FAULT or BUF_OVF. -/
def statusBad (p : List Byte) : Bool := (field p 1 1).testBit 1 || (field p 1 1).testBit 2

/-- STATUS (R255, R256, R259, R275 to R281): a frame as it has come on the back-channel, and the code errors met since the last one. One
whose delimiters, type, length or check value are wrong is dropped as a frame error. -/
def execStatus (m : Fin 32) (errors : Nat) (chars : List Sym) (s : State) : Host.Outcome State Fault Refusal :=
  if s.headLinkUp = false ∨ s.populated m = false then ok s
  else
  let s := s.count (Obj.codeErrors m) (errors + strayControls chars)
  match statusPayload m chars with
  | none => ok (s.bump (Obj.frameErrors m))
  | some payload =>
  if s.laneUp m then
    let s := s.takeStatus m payload
    ok (if statusBad payload then s.takeDown m 0 else s)
  else if s.reg (Obj.laneState m) = 1 ∧ (s.head m).slotOk = true ∧ s.twin.roleDecided = true then
    ok ((s.takeStatus m payload).laneComesUp m payload)
  else ok s

/-! ### The block -/

/-- HEAD_LINK goes into reset: every lane is in electrical idle, and those that were up go down (R278). -/
def State.headReset (s : State) : State :=
  (List.range 32).foldl (fun s m =>
    let s := if s.laneUp m then s.suspend m else s
    let h := s.head m
    let s := s.setHead m { h with slotOk := false, ready := false, trimOk := false, unacked := [], recovering := false }
    s.setReg (Obj.laneState m) 0) s

/-- HEAD_LINK is no longer held: populated lanes train, and the others read NOT POPULATED. -/
def State.headRelease (s : State) : State :=
  let s := ((List.range 32).filter (fun m => !s.populated m)).foldl (fun s m => s.setReg (Obj.laneState m) 4) s
  s.trainAll s.fitted

end Sys2Proof.Machine
end

