-- ==== Sys2Proof/Machine/Cal.lean ====
section
/-! DEFINITION. KINDLE (22): its entry, its items, its end. -/

namespace Sys2Proof.Machine

/-! ### The ring map (06 R142) -/

/-- Base and size of each entry of a ring map. -/
def ringEntries (b : List Byte) : List (Nat × Nat) :=
  (List.range 160).map (fun k => (field b (16 * k) 8, field b (16 * k + 8) 4))

/-- Whether an entry overlaps no entry after it. -/
def apart : List (Nat × Nat) → Bool
  | [] => true
  | e :: t => t.all (fun f => decide (e.1 + e.2 ≤ f.1) || decide (f.1 + f.2 ≤ e.1)) && apart t

/-- Whether a ring map may stand with `limit` bytes of stream store. -/
def ringMapOk (limit : Nat) (b : List Byte) : Bool :=
  decide (b.length = 2560) &&
    (List.range 160).all (fun k => decide (field b (16 * k + 12) 4 = 0)) &&
    (ringEntries b).all (fun e =>
      decide (e.1 % 65536 = 0) && decide (e.2 % 65536 = 0) && decide (2 ^ 20 ≤ e.2) && decide (e.1 + e.2 ≤ limit)) &&
    apart (ringEntries b)

/-- The end of the stream-store region (17 R370). -/
def State.storeLimit (s : State) : Nat := s.usable - 512 * 2 ^ 20

/-- Before the first bring-up every stream has the credits of its whole ring (06, CREDITS_GRANTED). -/
def State.ringCredits (s : State) : List Nat → State
  | [] => s
  | k :: t => (s.setReg (Obj.creditsGranted k) (s.ringSize k / 64)).ringCredits t

/-! ### Entry (R461; 03, release step 9) -/

/-- The BLOCK_RESET bits that a chip strapped MATE keeps held (12 R284). -/
def State.mateHolds (s : State) : Nat :=
  if s.strapped = .mate then 2 ^ Block.motion + 2 ^ Block.lantern + 2 ^ Block.led else 0

/-- Objects of raster lane `u`: 0 to 7 receive, 8 and 9 transmit, at LANE_STATE's subindex plus `sub`. -/
def rasterLane (u sub : Nat) : Nat := if u < 8 then 0x242200 + 16 * u + sub else 0x242300 + 16 * (u - 8) + sub

/-- LANE_STATE of each of a list of raster lanes. -/
def State.rasterLanes (s : State) (v : Nat) : List Nat → State
  | [] => s
  | u :: t => (s.setReg (rasterLane u 1) v).rasterLanes v t

/-- Step 1 of the raster link's bring-up (06): every lane trains, and TRAIN goes out on RLTX0 and RLTX1. -/
def State.trainRaster (s : State) : State :=
  ((s.rasterLanes 1 (List.range 10)).setReg Obj.linkState 1).emitAll [.train .raster 0 (linkTrain 0), .train .raster 1 (linkTrain 1)]

/-- The twin lanes train, as those of the raster link do (12 R290). -/
def State.trainTwin (s : State) : State :=
  ((s.setReg (Obj.laneState 32) 1).setReg (Obj.laneState 33) 1).emitAll [.train .twin 0 (linkTrain 0), .train .twin 1 (linkTrain 1)]

/-- The lanes of each link that is no longer held begin bring-up (03 R72). -/
def State.beginLinks (s : State) (freed : Nat) : State :=
  let s := if freed.testBit Block.headLink then s.headRelease else s
  let s := if freed.testBit Block.twinLink && decide (s.strapped ≠ .solo) then s.trainTwin else s
  if freed.testBit Block.raster then s.trainRaster else s

/-- The named blocks are no longer held: each is pended until its clock is stable (03 R71). -/
def State.pendBlocks (s : State) (mask : Nat) : State :=
  let held := s.reg Obj.blockReset
  let freed := held &&& mask
  (s.setReg Obj.blockReset (clearMask held freed)).setReg Obj.blockPended (s.reg Obj.blockPended ||| freed)

/-- KINDLE is entered. -/
def State.enterKindle (s : State) : State :=
  let s := s.toMode .kindle
  let decided := decide (s.strapped ≠ Role.primary)
  let s := { s with cal := { running := true }, led := { s.led with faulty := false },
                    twin := { s.twin with roleDecided := decided } }
  let s := ((s.setReg Obj.calResult (4 ^ 7)).setReg Obj.calFailDetail 0).setReg Obj.ledTest 0
  let s := s.pendBlocks (clearMask 0x1FFFF s.mateHolds)
  if ringMapOk s.storeLimit (s.dom Obj.ringMap) then s else s.calFail 7 0 0 0

/-! ### Items that compare two runs (R462, R463) -/

/-- The first unit whose value breaks a limit. -/
def firstBad (bad : Int → Bool) (l : List (Nat × Int × Int)) : Option (Nat × Int × Int) := l.find? (fun x => bad x.2.1)

/-- The first unit whose second value breaks the limit, or lies further than the tolerance from the first. -/
def firstApart (bad : Int → Bool) (tol : Nat) (l : List (Nat × Int × Int)) : Option (Nat × Int × Int) :=
  l.find? (fun x => bad x.2.2 || decide (tol < (x.2.1 - x.2.2).natAbs))

/-- Both runs of an item: a run that breaks the limit fails when it ends, and its second value is then free (log entry 5); a
disagreement fails when the second run ends. -/
def State.twoRuns (s : State) (item tol : Nat) (bad : Int → Bool) (l : List (Nat × Int × Int)) (passed : State → State) : State :=
  match firstBad bad l with
  | some x =>
    let (v, s) := s.fresh 24
    s.calFail item x.1 (ofSigned 24 x.2.1) v
  | none =>
    match firstApart bad tol l with
    | some x => s.calFail item x.1 (ofSigned 24 x.2.1) (ofSigned 24 x.2.2)
    | none => passed (s.setItem item 1)

/-- Whether an item may end now: KINDLE runs, the item has not ended, and those before it have. -/
def State.itemDue (s : State) (item : Nat) (before : List Nat) : Bool :=
  s.cal.running && decide (s.calItem item = 0) && before.all (fun k => decide (s.calItem k ≠ 0))

/-- Two lists of runs by unit. -/
def pairRuns (a b : List Int) : List (Nat × Int × Int) := List.zip (List.range a.length) (List.zip a b)

/-- CAL_TEMPERATURE (R462): four sensors, in 1/64 °C; −40 to 125 °C. -/
def execCalTemperature (run1 run2 : List Int) (s : State) : Host.Outcome State Fault Refusal :=
  if s.itemDue 0 [] && decide (run1.length = 4) && decide (run2.length = 4) then
    ok (s.twoRuns 0 (4 * s.reg Obj.tempTol) (fun v => decide (v < -2560) || decide (8000 < v)) (pairRuns run1 run2)
      (fun s => s.setDom Obj.tempKindle (run2.flatMap (fun v => le 2 (ofSigned 16 v)))))
  else ok s

/-- The items that a chip strapped MATE skips (R462). -/
def State.skipItems (s : State) : State :=
  if s.strapped = .mate then ((s.setItem 5 3).setItem 6 3).setReg Obj.ledTest 3 else s

/-- The lowest of a list of readings. -/
def lowest : List Nat → Nat
  | [] => 0
  | [a] => a
  | a :: t => min a (lowest t)

/-- CAL_FSI (R462, R463): four sites; at least 256; FSI_KINDLE takes the lower reported value. -/
def execCalFsi (run1 run2 : List Nat) (s : State) : Host.Outcome State Fault Refusal :=
  if s.itemDue 1 [0] && decide (run1.length = 4) && decide (run2.length = 4) then
    ok (s.twoRuns 1 (s.reg Obj.fsiTol) (fun v => decide (v < 256))
      (pairRuns (run1.map Int.ofNat) (run2.map Int.ofNat))
      (fun s => (s.setReg Obj.fsiKindle (min (lowest run1) (lowest run2) % 2 ^ 16)).skipItems))
  else ok s

/-- Whether a lane, numbered as R464 numbers units, is populated. -/
def State.unitFitted (s : State) (u : Nat) : Bool :=
  if u < 32 then s.populated u else if u < 34 then decide (s.strapped ≠ .solo) else true

/-- CAL_TERMINATION (R461, R462): TX and RX codes of the populated lanes; neither 0 nor 63; then TRAIN begins on the links not held. -/
def execCalTermination (codes : List (Nat × Nat × Nat)) (s : State) : Host.Outcome State Fault Refusal :=
  if s.itemDue 2 [] then
    let l := (codes.filter (fun x => s.unitFitted x.1)).map (fun x => (x.1, (x.2.1 : Int), (x.2.2 : Int)))
    ok (s.twoRuns 2 (s.reg Obj.termTol) (fun v => decide (v ≤ 0) || decide (63 ≤ v)) l
      (fun s => s.beginLinks (clearMask 0x1FFFF (s.reg Obj.blockReset))))
  else ok s

/-- The CTLE_CODE object of a unit; none where the unit has no receiver. -/
def ctleObj (u : Nat) : Option Nat :=
  if u < 34 then some (Obj.ctleCode u) else if u < 42 then some (0x242206 + 16 * (u - 34)) else none

/-- CAL_EQUALISER (R461, R462): the two CTLE samples of a lane after its lock. -/
def execCalEqualiser (unit s1 s2 : Nat) (s : State) : Host.Outcome State Fault Refusal :=
  match ctleObj unit with
  | none => ok s
  | some key =>
    if s.cal.running && s.unitFitted unit && decide (s.calItem 3 = 0) then
      let s := s.setReg key (s2 % 256)
      if s.reg Obj.ctleTol < ((s1 : Int) - s2).natAbs then ok (s.calFail 3 unit s1 s2)
      else ok { s with cal := { s.cal with equalised := unit :: s.cal.equalised.filter (· ≠ unit) } }
    else ok s

/-- CAL_CHOPPER (R462; 20 R432): eight comparators, axis by axis, phase A before B; at most 64 codes. -/
def execCalChopper (run1 run2 : List Nat) (s : State) : Host.Outcome State Fault Refusal :=
  if s.itemDue 5 [1] && decide (run1.length = 8) && decide (run2.length = 8) then
    ok (s.twoRuns 5 (s.reg Obj.cmpTol) (fun v => decide (64 < v)) (pairRuns (run1.map Int.ofNat) (run2.map Int.ofNat))
      (fun s => s.setRegs ((List.range 4).map (fun a =>
        (Obj.cmpCal a, run2.getD (2 * a) 0 + 2 ^ 16 * run2.getD (2 * a + 1) 0)))))
  else ok s

/-- The LED block stays held after a fault (14 R339). -/
def State.ledFault (s : State) : State :=
  let s := { (s.setBits Obj.ledStatus 2).setReg Obj.ledTest 2 with led := { s.led with faulty := true } }
  let bit := 2 ^ Block.led
  (s.setBits Obj.blockReset bit).clearBits Obj.blockPended bit

/-- The 24 LED pins: rows 0 to 7, then columns 0 to 15. -/
def ledPins : List Nat := List.range 24

/-- SHORT_MAP of a run (14 R338): pins shorted to one another in [23:0], pins stuck high or low in [47:24]. -/
def shortMap (x : Sys2Proof.LedReads) : Nat :=
  let high (i j : Nat) : Bool := (x.driven.getD i 0).testBit j
  let short (i : Nat) : Bool := ledPins.any (fun j => decide (j ≠ i) && (high i j || high j i))
  let stuck (i : Nat) : Bool := x.idle.testBit i || !high i i
  sumList (ledPins.map (fun i => 2 ^ i * flag (short i) + 2 ^ (24 + i) * flag (stuck i)))

/-- LED_SHORT_TEST (14 R338, R339): each of the two runs drives each pin in turn; SHORT_MAP of both. -/
def execLedShortTest (run1 run2 : Sys2Proof.LedReads) (s : State) : Host.Outcome State Fault Refusal :=
  if s.itemDue 6 [5] then
    let s := s.emitAll ((ledPins ++ ledPins).map Out.ledPin)
    let a := shortMap run1
    let b := shortMap run2
    if a ≠ b then ok (s.calFail 6 0 a b)
    else
      let s := (s.setItem 6 1).setReg Obj.shortMap b
      ok (if b = 0 then s.setReg Obj.ledTest 1 else s.ledFault)
  else ok s

/-! ### DRAM (17 R376, R377, R372) -/

/-- Whether the sweeps cover both sets, all eight byte lanes, and both directions. -/
def sweepsComplete (l : List Sweep) : Bool :=
  [0, 1].all (fun set => (List.range 8).all (fun lane => [false, true].all (fun w =>
    l.any (fun x => decide (x.set = set) && decide (x.lane = lane) && decide (x.write = w)))))

/-- The contiguous runs of passing steps, first step and length, over the `n` steps from `k`. -/
def passRuns (passes : Nat) (k : Nat) : Nat → List (Nat × Nat)
  | 0 => []
  | n + 1 =>
    if !passes.testBit k then passRuns passes (k + 1) n
    else match passRuns passes (k + 1) n with
      | (a, m) :: t => if a = k + 1 then (k, m + 1) :: t else (k, 1) :: (a, m) :: t
      | [] => [(k, 1)]

/-- The length of the longest of a list of runs. -/
def longest (l : List (Nat × Nat)) : Nat := l.foldl (fun m r => max m r.2) 0

/-- What a sweep gives: the delay, the eye width and the Vref code (17 R377). -/
structure Eye where
  delay : Nat
  width : Nat
  vref : Nat
  deriving DecidableEq, Repr

/-- The eye at one Vref code: the longest run and its middle step, rounding down; which of two as long is not stated. -/
def eyeAt (v : Sys2Proof.VrefSweep) : Eye :=
  let runs := passRuns v.passes 0 128
  let r := match runs.filter (fun r => decide (r.2 = longest runs)) with
    | [r] => r
    | best => best.getD (Config.equalRun best % best.length) (0, 0)
  { delay := r.1 + (r.2 - 1) / 2, width := r.2, vref := v.code }

/-- The wider of two eyes, or that of the lower Vref code. -/
def betterEye (a b : Eye) : Eye :=
  if a.width < b.width ∨ (a.width = b.width ∧ b.vref < a.vref) then b else a

/-- The eye of a run (17 R377). -/
def runEye (l : List Sys2Proof.VrefSweep) : Eye :=
  match l.map eyeAt with
  | [] => { delay := 0, width := 0, vref := 0 }
  | e :: t => t.foldl betterEye e

/-- What is wrong with a sweep's second run: the two values of the result that fails. -/
def sweepFault (tol : Nat) (x : Sweep) : Option (Nat × Nat) :=
  let a := runEye x.run1
  let b := runEye x.run2
  if b.width < 24 then some (a.width, b.width)
  else if tol < ((a.delay : Int) - b.delay).natAbs then some (a.delay, b.delay)
  else if 1 < ((a.vref : Int) - b.vref).natAbs then some (a.vref, b.vref)
  else none

/-- The first sweep that fails when the first run of its set ends: its byte lane and its eye. -/
def firstNarrow (l : List Sweep) : Option (Nat × Nat) :=
  (l.find? (fun x => decide ((runEye x.run1).width < 24))).map (fun x => (x.lane, (runEye x.run1).width))

/-- The first sweep that fails when the second run of its set ends: its byte lane and the two values. -/
def firstFault (tol : Nat) : List Sweep → Option (Nat × Nat × Nat)
  | [] => none
  | x :: t =>
    match sweepFault tol x with
    | some (a, b) => some (x.lane, a, b)
    | none => firstFault tol t

/-- What fails a timing set's two runs (R461, R462): the byte lane and the two values; a first run with an eye too narrow fails when it ends,
and gives no second value. -/
def setFault (tol : Nat) (l : List Sweep) : Option (Nat × Nat × Option Nat) :=
  match firstNarrow l with
  | some (lane, a) => some (lane, a, none)
  | none => (firstFault tol l).map (fun x => (x.1, x.2.1, some x.2.2))

/-- What fails the training: of set 0, and then of set 1. -/
def trainFault (tol : Nat) (l : List Sweep) : Option (Nat × Nat × Option Nat) :=
  (setFault tol (l.filter (fun x => decide (x.set = 0)))).or (setFault tol (l.filter (fun x => decide (x.set = 1))))

/-- Delay, eye and Vref code of a sweep's second run. -/
def sweepBytes (l : List Sweep) (set lane : Nat) (w : Bool) : List Byte :=
  match l.find? (fun x => decide (x.set = set) && decide (x.lane = lane) && decide (x.write = w)) with
  | some x =>
    let e := runEye x.run2
    le 1 e.delay ++ le 1 e.width ++ le 1 e.vref
  | none => zeros 3

/-- TRAIN_RESULT. -/
def trainBytes (l : List Sweep) : List Byte :=
  [0, 1].flatMap (fun set => (List.range 8).flatMap (fun lane =>
    sweepBytes l set lane false ++ sweepBytes l set lane true ++ zeros 2))

/-- DRAM_TRAINING (R376, R377): with leave in P_CORE, both sets trained twice. The second value of a first run that fails is free (log entry 5). -/
def execDramTraining (sweeps : List Sweep) (s : State) : Host.Outcome State Fault Refusal :=
  if s.itemDue 4 [6] && s.hasLeave .dramTraining && sweepsComplete sweeps then
    let s := s.useLeave .dramTraining
    match trainFault (s.reg Obj.dramTol) sweeps with
    | some (lane, a, some b) => ok (s.calFail 4 lane a b)
    | some (lane, a, none) =>
      let (v, s) := s.fresh 24
      ok (s.calFail 4 lane a v)
    | none =>
      let s := (s.setItem 4 1).setDom Obj.trainResult (trainBytes sweeps)
      ok { s.setReg Obj.freqNow (s.rateOf 0) with dram := { s.dram with setNow := 0, trained := true } }
  else ok s

/-- ECC_FILL (17 R372): every line of the fitted memory is written with zeros. -/
def execEccFill (s : State) : Host.Outcome State Fault Refusal :=
  if s.cal.running && decide (s.calItem 4 = 1) then
    ok { s with dram := { s.dram with mem := [], ecc := [], filled := true }, cal := { s.cal with eccDone := true } }
  else ok s

/-! ### The end (R465, 02 R497) -/

/-- Whether every item has ended well, every populated head lane is up and equalised, and the role is decided. -/
def State.kindleDone (s : State) : Bool :=
  s.cal.running && s.cal.eccDone && [0, 1, 2, 4, 5, 6, 7].all (fun k => decide (s.calItem k = 1) || decide (s.calItem k = 3)) &&
    s.fitted.all (fun m => s.laneUp m && s.cal.equalised.contains m) && s.twin.roleDecided

/-- KINDLE_END (02 R497; 22 R465; 01, FSI_MIN): PILOT, or SNUFF where a cause bit is set. -/
def execKindleEnd (s : State) : Host.Outcome State Fault Refusal :=
  if s.kindleDone then
    let s := (s.setItem 3 1).countKindle
    ok (if s.hasCause then s.countKindleFail.enterSnuff false else s.enterPilot)
  else ok s

end Sys2Proof.Machine
end

