-- ==== Sys2Proof/Machine/Crypto.lean ====
section
/-! DEFINITION. SHA-256, HMAC-SHA-256 and ECDSA P-256 verification, which 03 R75 and 05 R98 to R100 name (PRESUMED: FIPS
180-4, FIPS 198-1 and FIPS 186-5; log entry 18). -/

namespace Sys2Proof.Machine

/-- The greatest `r` below `2 ^ n` added to `r` whose `k`th power is at most `x`, one binary digit after another. -/
def rootFrom (k x : Nat) : Nat → Nat → Nat
  | 0, r => r
  | n + 1, r => rootFrom k x n (if (r + 2 ^ n) ^ k ≤ x then r + 2 ^ n else r)

/-- The first 32 bits of the fraction of the `k`th root of a number below 2^12. -/
def rootFraction (k x : Nat) : Nat := trunc 32 (rootFrom k (x * 2 ^ (32 * k)) 38 0)

/-- The primes below 312: the numbers that no prime below √312 divides, but for those primes. -/
def smallPrimes : List Nat :=
  let below := [2, 3, 5, 7, 11, 13, 17]
  ((List.range 312).drop 2).filter (fun n => below.contains n || below.all (fun d => n % d != 0))

/-- The round constants of SHA-256, from the cube roots of the first 64 primes, one a round (FIPS 180-4). -/
def shaK : List Nat := smallPrimes.map (rootFraction 3)

/-- The initial hash value, from the square roots of the first eight. -/
def shaInit : List Nat := (smallPrimes.take 8).map (rootFraction 2)

/-- Rotate a 32-bit word right. -/
def rotr (x n : Nat) : Nat := trunc 32 (x * 2 ^ (32 - n)) + x / 2 ^ n

/-- The exclusive or of a word's rotations by each of some distances. -/
def spread (x : Nat) (dists : List Nat) : Nat := dists.foldl (fun y n => y ^^^ rotr x n) 0

/-- The message schedule after the block's own words: the last sixteen words, oldest first, give the next. -/
def shaSchedule : Nat → List Nat → List Nat
  | 0, _ => []
  | n + 1, last =>
    let old := last.getD 1 0
    let new := last.getD 14 0
    let mixed := (spread old [7, 18] ^^^ (old / 2 ^ 3)) + (spread new [17, 19] ^^^ (new / 2 ^ 10))
    let next := trunc 32 (last.headD 0 + last.getD 9 0 + mixed)
    next :: shaSchedule n (last.tail ++ [next])

/-- The working variables, as the two chains of four that a round shifts: a, b, c, d and e, f, g, h. -/
structure ShaVars where
  upper : List Nat
  lower : List Nat
  deriving DecidableEq, Repr

/-- One round with the sum of its constant and its schedule word: each chain takes a new head and drops its last word. -/
def shaRound (v : ShaVars) (kw : Nat) : ShaVars :=
  let (a, b, c) := (v.upper.getD 0 0, v.upper.getD 1 0, v.upper.getD 2 0)
  let (e, f, g) := (v.lower.getD 0 0, v.lower.getD 1 0, v.lower.getD 2 0)
  let choice := g ^^^ (e &&& (f ^^^ g))
  let most := (a &&& (b ||| c)) ||| (b &&& c)
  let into := v.lower.getD 3 0 + spread e [6, 11, 25] + choice + kw
  ⟨trunc 32 (into + spread a [2, 13, 22] + most) :: v.upper.take 3, trunc 32 (v.upper.getD 3 0 + into) :: v.lower.take 3⟩

/-- One block of 64 bytes. -/
def shaBlock (h : List Nat) (blk : List Byte) : List Nat :=
  let own := (chunks 4 16 blk).map fromBe
  let sums := List.zipWith (· + ·) shaK (own ++ shaSchedule 48 own)
  let v := sums.foldl shaRound ⟨h.take 4, h.drop 4⟩
  List.zipWith (fun x y => trunc 32 (x + y)) h (v.upper ++ v.lower)

/-- SHA-256. -/
def sha256 (m : List Byte) : List Byte :=
  let pad := (119 - m.length % 64) % 64
  let full := m ++ [0x80] ++ zeros pad ++ be 8 (8 * m.length)
  let h := (chunks 64 (full.length / 64) full).foldl shaBlock shaInit
  h.flatMap (be 4)

/-- HMAC-SHA-256. -/
def hmac (key m : List Byte) : List Byte :=
  let k := padTo 64 (if key.length ≤ 64 then key else sha256 key)
  let x (c : Byte) := k.map (fun b => b ^^^ c)
  sha256 (x 0x5C ++ sha256 (x 0x36 ++ m))

/-- The field prime of P-256. -/
def p256P : Nat := 2 ^ 256 - 2 ^ 224 + 2 ^ 192 + 2 ^ 96 - 1

/-- The group order of P-256. -/
def p256N : Nat := 0xffffffff00000000ffffffffffffffffbce6faada7179e84f3b9cac2fc632551

/-- The coefficient b of P-256 (a is −3). -/
def p256B : Nat := 0x5ac635d8aa3a93e7b3ebbd55769886bc651d06b0cc53b0f63bce3c3e27d2604b

/-- A point in affine coordinates; none: the point at infinity. -/
abbrev Point := Option (Nat × Nat)

/-- The base point. -/
def p256G : Point := some
  (0x6b17d1f2e12c4247f8bce6e563a440f277037d812deb33a0f4a13945d898c296,
   0x4fe342e2fe1a7f9b8ee7eb4a7c0f9e162bce33576b315ececbb6406837bf51f5)

/-- `b ^ e` modulo `m`, over the lowest `n` bits of `e`. -/
def powMod (m : Nat) : Nat → Nat → Nat → Nat
  | 0, _, _ => 1 % m
  | n + 1, b, e => (if e % 2 = 1 then b else 1) * powMod m n (b * b % m) (e / 2) % m

/-- The inverse modulo a prime. -/
def invMod (m x : Nat) : Nat := powMod m 256 (x % m) (m - 2)

/-- The point addition of the curve. -/
def pointAdd (p q : Point) : Point :=
  match p, q with
  | none, q => q
  | p, none => p
  | some (x1, y1), some (x2, y2) =>
    if x1 = x2 ∧ (y1 + y2) % p256P = 0 then none
    else
      let l :=
        if x1 = x2 then (3 * x1 * x1 + (p256P - 3)) * invMod p256P (2 * y1) % p256P
        else (y2 + p256P - y1) * invMod p256P (x2 + p256P - x1) % p256P
      let x3 := (l * l + 2 * p256P - x1 - x2) % p256P
      some (x3, (l * (x1 + p256P - x3) + p256P - y1) % p256P)

/-- The scalar multiple, over the lowest `n` bits of the scalar. -/
def pointMul : Nat → Nat → Point → Point
  | 0, _, _ => none
  | n + 1, k, p => pointAdd (if k % 2 = 1 then p else none) (pointMul n (k / 2) (pointAdd p p))

/-- Whether a pair of coordinates is a point of the curve. -/
def onCurve (x y : Nat) : Bool :=
  decide (x < p256P) && decide (y < p256P) &&
    decide (y * y % p256P = (x * x * x + (p256P - 3) * x + p256B) % p256P)

/-- ECDSA P-256 verification of a signature r ‖ s over a message, under a public key X ‖ Y. -/
def ecdsaVerify (pub sig m : List Byte) : Bool :=
  let qx := fromBe (pub.take 32)
  let qy := fromBe ((pub.drop 32).take 32)
  let r := fromBe (sig.take 32)
  let t := fromBe ((sig.drop 32).take 32)
  if onCurve qx qy && decide (0 < r) && decide (r < p256N) && decide (0 < t) && decide (t < p256N) then
    let w := invMod p256N t
    let u1 := fromBe (sha256 m) * w % p256N
    let u2 := r * w % p256N
    match pointAdd (pointMul 256 u1 p256G) (pointMul 256 u2 (some (qx, qy))) with
    | none => false
    | some (x, _) => decide (x % p256N = r)
  else false

end Sys2Proof.Machine
end

