-- ==== Sys2Proof/Machine/Encoder.lean ====
section
/-! DEFINITION. The encoder channels (09): decoding, the speed estimator, the travel mark, the index, the second channel; and the
meanings of their events. -/

namespace Sys2Proof.Machine

/-- Beacon time in ns of the REF cycle `n` cycles ago (R204). -/
def State.stampAgo (s : State) (n : Nat) : Nat :=
  let b := s.clock.beacon
  let t : Int := (2 ^ 24 * (1000000000 * b.sec + b.ns) + b.frac : Nat)
  ((t - n * (5 * 2 ^ 24 + s.sreg Obj.rateTrim)) / 2 ^ 24).toNat

/-- Whether a channel counts: enabled, out of reset, in PILOT, TRIM, LIT or SNUFF (R201). -/
def State.counting (s : State) (ch : Nat) : Bool :=
  s.isSet (Obj.encEnable ch) && s.blockUp Block.encoder && (s.mode.working || decide (s.mode = .snuff))

/-- The level filter (R197): `pins` are the levels of an input at the REF samples up to now, newest first. The newest two are still in the
synchroniser; a level takes the filter's output once the `n` samples before them all show it. -/
def filterLevel (n : Nat) (old : Bool) (pins : List Bool) : Bool :=
  let w := (pins.drop 2).take n
  if w.length = n ∧ w.all (fun x => x) = true then true
  else if w.length = n ∧ w.all (fun x => !x) = true then false
  else old

/-- Counted edges that a channel keeps with their counts (log entry 100). -/
def traceLen : Nat := 1024

/-- Place in the forward sequence of R198. -/
def quadrature (a b : Bool) : Nat := if a then (if b then 2 else 1) else (if b then 3 else 0)

/-- The monitor comparison starts again (R221). -/
def State.monRestart (s : State) : State :=
  { s with enc := { s.enc with monTravel := 0, monStart := s.reg (Obj.encCount (1 - s.fireCh)) } }

/-- The speed estimator of a channel starts again with SPEED_STATE at a value (R205, R208). -/
def State.restartSpeed (s : State) (ch state : Nat) : State :=
  let s := s.setEncCh ch { s.encCh ch with stamps := [], lastDir := none }
  (s.setReg (Obj.speedState ch) state).monRestart

/-- A channel starts at ENABLE or at the release of the block (R201, R211). -/
def State.startChannel (s : State) (ch : Nat) : State :=
  let s := ((s.setReg (Obj.encCount ch) 0).setReg (Obj.travelMark ch) 0).setReg (Obj.travelDir ch) 0
  let s := s.setEncCh ch { s.encCh ch with idxRef := none, idxTaken := none, lastCycle := none, edgeAt := none, trace := [],
                                              still := none, zAt := none }
  s.restartSpeed ch 0

/-- A counted edge in the speed estimator (R205, R208, R209). -/
def State.estimate (s : State) (ch : Nat) (fwd : Bool) (stamp : Nat) : State :=
  let c := s.encCh ch
  if c.lastDir = some (!fwd) then
    let s := s.setEncCh ch { c with stamps := [stamp], lastDir := some fwd }
    (s.setReg (Obj.speedState ch) 0).monRestart
  else
    let stamps := (stamp :: c.stamps).take 64
    let s := s.setEncCh ch { c with stamps := stamps, lastDir := some fwd }
    if 2 ≤ stamps.length then (s.setReg (Obj.speedState ch) 1).setReg (Obj.edgeDir ch) (flag (!fwd))
    else s.setReg (Obj.speedState ch) 0

/-- A filtered edge of A or B, counted or not: an interval below the rated minimum is a rate error (R200), ENC_RATE at most once per 1 ms. -/
def State.rateCheck (s : State) (ch : Nat) : State :=
  let c := s.encCh ch
  let now := s.clock.cycles
  let short := match c.lastCycle with
    | some l => decide (now - l < max 8 (s.reg (Obj.filterN ch) + 1))
    | none => false
  let s := s.setEncCh ch { c with lastCycle := some now }
  if short then
    let s := (s.bump (Obj.rateErrors ch)).setBits (Obj.encStatus ch) 2
    let raise := match c.rateAt with
      | some r => decide (cyclesPerMs ≤ now - r)
      | none => true
    let s := s.setEncCh ch { s.encCh ch with faultAt := some now, rateAt := if raise then some now else c.rateAt }
    if raise then s.logEvent Ev.encRate [] else s
  else s

/-- The distance from `y` to `x` in a channel's travel direction. -/
def State.along (s : State) (ch x y : Nat) : Int := if s.reg (Obj.travelDir ch) = 0 then dist32 x y else dist32 y x

/-- A missing index (R217): the mark lies too far beyond the last index taken. -/
def State.missingIndex (s : State) (ch : Nat) : State :=
  let cpr := s.reg (Obj.countsPerRev ch)
  let mark := s.reg (Obj.travelMark ch)
  match (s.encCh ch).idxRef with
  | none => s
  | some (c, fwd) =>
    let d := s.along ch mark c
    if cpr ≠ 0 ∧ fwd = decide (s.reg (Obj.travelDir ch) = 0) ∧ ((cpr + s.reg (Obj.indexTol ch) : Nat) : Int) < d then
      (s.setEncCh ch { s.encCh ch with idxRef := some (mark, fwd) }).indexError ch 2 d
    else s

/-- The monitor comparison at each 65,536 counts of forward advance of the firing channel (R221). -/
def State.monitor (s : State) (ch : Nat) : State :=
  if ch ≠ s.fireCh ∨ s.isSet Obj.monitorEnable = false ∨ s.reg (Obj.travelDir ch) ≠ 0 then s
  else if s.enc.monTravel + 1 < 65536 then { s with enc := { s.enc with monTravel := s.enc.monTravel + 1 } }
  else
    let seen := dist32 (s.reg (Obj.encCount (1 - ch))) s.enc.monStart
    let off := seen - s.reg Obj.monitorRatio
    let s := s.monRestart
    if (s.reg Obj.crossTol : Int) < off.natAbs then (s.bump Obj.crossErrors).logEvent Ev.encDisagree [] else s

/-- A rising edge of filtered Z is tested (R215, R216): taken where COUNT is at the mark and far enough from the last index taken. -/
def State.testIndex (s : State) (ch : Nat) : State :=
  let count := s.reg (Obj.encCount ch)
  let c := s.encCh ch
  let near := match c.idxTaken with
    | some t => decide ((dist32 count t).natAbs ≤ s.reg (Obj.jitterWindow ch))
    | none => false
  if decide (count ≠ s.reg (Obj.travelMark ch)) || near then s
  else
    let fwd := decide (s.reg (Obj.travelDir ch) = 0)
    let stamp := s.stampAgo (s.reg (Obj.filterN ch))
    let s := (s.setReg (Obj.lastIndexCount ch) count).setReg (Obj.lastIndexTime ch) (time80OfNs stamp)
    let s := s.setEncCh ch { c with idxRef := some (count, fwd), idxTaken := some count }
    let cpr := s.reg (Obj.countsPerRev ch)
    match c.idxRef with
    | none => s
    | some (p, d) =>
      let gap := s.along ch count p
      if cpr ≠ 0 ∧ d = fwd ∧ s.reg (Obj.indexTol ch) < (gap - cpr).natAbs then s.indexError ch 1 gap else s

/-- After a reversal: a Z edge of the same REF cycle is tested against the new mark (R223). -/
def State.retestIndex (s : State) (ch : Nat) : State :=
  if (s.encCh ch).zAt = some s.clock.cycles then s.testIndex ch else s

/-- The travel mark after a change of COUNT (R211 to R214): it advances, or a reversal is declared. -/
def State.moveMark (s : State) (ch stamp : Nat) : State :=
  let count := s.reg (Obj.encCount ch)
  let mark := s.reg (Obj.travelMark ch)
  let d := s.along ch count mark
  if 0 < d then
    let s := s.setReg (Obj.travelMark ch) count
    let s := (s.monitor ch).missingIndex ch
    if ch = s.fireCh then s.markMoved else s
  else if ((s.reg (Obj.jitterWindow ch) + 1 : Nat) : Int) ≤ -d then
    let s := s.setReg (Obj.travelDir ch) (1 - s.reg (Obj.travelDir ch))
    let s := (s.setReg (Obj.travelMark ch) count).setEncCh ch { s.encCh ch with idxRef := none }
    let s := (s.bump (Obj.reversals ch)).setBits (Obj.encStatus ch) 8
    let s := if ch = s.fireCh then (s.monRestart).reverse else s
    let s := (s.logEvent Ev.encReversal (le 4 count ++ le 4 (stamp % 1000000000))).retestIndex ch
    if ch = s.fireCh then s.markMoved else s
  else s

/-- An illegal transition (R199). In the REF cycle of a standstill SPEED_STATE stays at STANDSTILL (R223). -/
def State.illegal (s : State) (ch : Nat) : State :=
  let s := (s.bump (Obj.illegalCount ch)).setBits (Obj.encStatus ch) 1
  let s := s.rateCheck ch
  let s := s.setEncCh ch { s.encCh ch with faultAt := some s.clock.cycles }
  let stilled := (s.encCh ch).still.any (fun x => x.cycle = s.clock.cycles)
  let s := s.restartSpeed ch (if stilled then 2 else 0)
  let s := s.logEvent Ev.encIllegal (le 1 ch ++ le 4 (s.reg (Obj.encCount ch)))
  if ch = s.fireCh then s.rePredictAll else s

/-- Give a group back the confirmed line that a standstill changed. -/
def State.unstillGroup (s : State) (x : Nat × Conf) : State :=
  match (s.group x.1).conf with
  | some c => if c.seq = x.2.seq then s.setGroup x.1 { s.group x.1 with conf := some x.2 } else s
  | none => s

/-- An edge arrives in the REF cycle of a standstill: the standstill is not entered (R207, R223). -/
def State.unstill (s : State) (ch : Nat) : State :=
  match (s.encCh ch).still with
  | none => s
  | some x =>
    let s := s.setEncCh ch { s.encCh ch with still := none }
    if x.cycle ≠ s.clock.cycles then s
    else
      let s := s.setEncCh ch { s.encCh ch with stamps := x.stamps, lastDir := x.lastDir }
      let s := { s with enc := { s.enc with monTravel := x.monTravel, monStart := x.monStart } }
      x.confs.foldl State.unstillGroup (s.setReg (Obj.speedState ch) x.state)

/-- A counted edge. -/
def State.countEdge (s : State) (ch : Nat) (fwd : Bool) : State :=
  let stamp := s.stampAgo (s.reg (Obj.filterN ch))
  let s := s.unstill ch
  let count := s.reg (Obj.encCount ch)
  let new := if fwd then (count + 1) % 2 ^ 32 else (2 ^ 32 - 1 + count) % 2 ^ 32
  let s := ((s.setReg (Obj.encCount ch) new).setReg (Obj.lastEdgeCount ch) new).setReg (Obj.lastEdgeTime ch) (time80OfNs stamp)
  let c := s.encCh ch
  let s := s.setEncCh ch { c with trace := ((stamp, new) :: c.trace).take traceLen, edgeAt := some s.clock.cycles }
  let s := s.rateCheck ch
  let s := s.estimate ch fwd stamp
  let s := s.moveMark ch stamp
  if ch = s.fireCh then s.rePredictAll else s

/-- ENCODER_EDGE (R197 to R199): the inputs A and B have been sampled, and a change of their filtered levels is decoded. -/
def execEncoderEdge (ch : Fin 2) (pins : List (Bool × Bool)) (s : State) : Host.Outcome State Fault Refusal :=
  let c := s.encCh ch
  let n := s.reg (Obj.filterN ch)
  let a := filterLevel n c.a (pins.map Prod.fst)
  let b := filterLevel n c.b (pins.map Prod.snd)
  let on := s.counting ch
  let s := s.setEncCh ch { c with a := a, b := b }
  if !on || (a == c.a && b == c.b) then ok s
  else if a ≠ c.a ∧ b ≠ c.b then ok (s.illegal ch)
  else
    let step := (quadrature a b + 4 - quadrature c.a c.b) % 4
    let fwd := decide (step = 1)
    ok (s.countEdge ch (if s.reg (Obj.dirSense ch) = 0 then fwd else !fwd))

/-- INDEX_EDGE (R197, R215): the input Z has been sampled, and a rising edge of its filtered level is tested. -/
def execIndexEdge (ch : Fin 2) (pins : List Bool) (s : State) : Host.Outcome State Fault Refusal :=
  let c := s.encCh ch
  let z := filterLevel (s.reg (Obj.filterN ch)) c.z pins
  let rises := z && !c.z && s.counting ch
  let s := s.setEncCh ch { c with z := z, zAt := if rises then some s.clock.cycles else c.zAt }
  ok (if rises then s.testIndex ch else s)

/-- Enter standstill, keeping what an edge of the same REF cycle gives back. -/
def State.enterStill (s : State) (ch : Nat) : State :=
  let c := s.encCh ch
  let x : Still := { cycle := s.clock.cycles, stamps := c.stamps, lastDir := c.lastDir, state := s.reg (Obj.speedState ch),
                     monTravel := s.enc.monTravel, monStart := s.enc.monStart,
                     confs := (List.range 8).filterMap (fun g => (s.group g).conf.map (fun f => (g, f))) }
  (s.setEncCh ch { c with still := some x }).restartSpeed ch 2

/-- STANDSTILL_TIMEOUT (R207): not in the REF cycle of a counted edge. -/
def execStandstillTimeout (ch : Fin 2) (s : State) : Host.Outcome State Fault Refusal :=
  if !s.counting ch || decide ((s.encCh ch).edgeAt = some s.clock.cycles) then ok s
  else
    let s := s.enterStill ch
    ok (if (ch : Nat) = s.fireCh then s.rePredictAll else s)

/-- ENCODER_BLOCK_EXPIRY (R224): 1 s has passed since the last illegal transition or rate error of the firing channel. -/
def execEncoderBlockExpiry (s : State) : Host.Outcome State Fault Refusal :=
  let ch := s.fireCh
  ok (s.setEncCh ch { s.encCh ch with faultAt := none })

end Sys2Proof.Machine
end

