-- ==== Sys2Proof/Machine/Raster.lean ====
section
/-! DEFINITION. The raster link (06): bring-up and loss, packets, credits, COMMIT, and the flush of the stream store. -/

namespace Sys2Proof.Machine

/-! ### Lanes -/

/-- What a receiver finds at its lock is from outside, and the spec gives no value: polarity, CTLE and DFE (log entry 5). -/
def State.lockAt (s : State) (inv ctle dfe : Nat) : State :=
  let (p, s) := s.fresh 1
  let (c, s) := s.fresh 4
  let (d, s) := s.fresh 40
  ((s.setReg inv p).setReg ctle c).setReg dfe d

/-- The receive lanes that have locked. -/
def State.lockRaster (s : State) : List Nat → State
  | [] => s
  | u :: t => ((s.setReg (rasterLane u 1) 2).lockAt (rasterLane u 2) (rasterLane u 6) (rasterLane u 7)).lockRaster t

/-- The width of the receive side by its logical lanes (R127): 0 where the link is down. -/
def rasterWidth (trained : List Bool) (least : Nat) : Nat :=
  let good (l : List Nat) : Bool := l.all (fun i => trained.getD i false)
  let w := if good (List.range 8) then 8 else if good (List.range 4) then 4 else 0
  if w < least then 0 else w

/-- Physical lane of a logical lane (R126). -/
def physicalLane (reversed : Bool) (l : Nat) : Nat := if reversed then 7 - l else l

/-- RASTER_LINK_UP (R125 to R127, R131): steps 2 to 5 of bring-up. `trained` says of each logical lane whether it has trained. -/
def execRasterLinkUp (trained : List Bool) (reversed : Bool) (s : State) : Host.Outcome State Fault Refusal :=
  if s.blockUp Block.raster = false ∨ 2 ≤ s.reg Obj.linkState then ok s
  else
    let w := rasterWidth trained (s.reg Obj.linkWidthMin)
    let lanes := ((List.range 8).filter (fun l => trained.getD l false)).map (physicalLane reversed)
    let s := (s.rasterLanes 3 ((List.range 8).filter (fun u => !lanes.contains u))).lockRaster lanes
    let s := { s with raster := { s.raster with reversed := reversed } }
    if w = 0 then ok (s.setReg Obj.linkState 0)
    else ok (((s.rasterLanes 2 [8, 9]).setReg Obj.linkState (if w = 8 then 3 else 2)).grantAll (List.range 160))

/-- Count, as retrains, the lanes of a link that goes down. -/
def State.dropRaster (s : State) : List Nat → State
  | [] => s
  | u :: t => (if s.reg (rasterLane u 1) = 2 then s.bump (rasterLane u 8) else s).dropRaster t

/-- RASTER_LANE_LOSS (06, link bring-up): a receive lane, by its ball number, loses signal or lock, with the code errors that it has met
(11 R254); the link goes down and back through steps 1 to 5. -/
def execRasterLaneLoss (lane : Fin 8) (lol : Bool) (errors : Nat) (s : State) : Host.Outcome State Fault Refusal :=
  if s.blockUp Block.raster = false then ok s
  else
    let s := (s.bump (rasterLane lane (if lol then 4 else 3))).count (rasterLane lane 5) errors
    let s := s.setBits (rasterLane lane 0x0B) (if lol then 2 else 1)
    if s.rasterUp then ok (s.dropRaster (List.range 10)).trainRaster else ok s

/-! ### Packets -/

/-- Count the code errors of each of the receive lanes. -/
def State.rasterErrors (s : State) : List (Nat × Nat) → State
  | [] => s
  | (u, n) :: t => (s.count (rasterLane u 5) n).rasterErrors t

/-- RASTER_PACKET_DROP (R125, R128, R129): a packet as it has come on the active physical lanes, whose framing, header, type or CRC is
wrong, is counted; a BLOCK of a valid stream is asked for again. -/
def execRasterPacketDrop (errors : List Nat) (lanes : List (List Sym)) (s : State) : Host.Outcome State Fault Refusal :=
  if s.rasterUp then
    let s := s.rasterErrors (List.zip (List.range 8) errors)
    match wrongPacket (received s.raster.reversed lanes) with
    | none => ok s
    | some (ty, stream) =>
      let s := s.bump Obj.pktCrcErrors
      ok (if ty = 1 ∧ stream < 160 then s.resend stream else s)
  else ok s

/-- A joining chip writes the image of a stream once its block is stored (12, Rejoining as mate; 07 R167). -/
def State.takeJoinImage (s : State) (k : Nat) : State :=
  match s.twin.join with
  | none => s
  | some j =>
    match Table.find j.images k with
    | none => s
    | some b =>
      if j.joining && s.imageOk k b then
        ({ s with twin := { s.twin with join := some { j with images := Table.erase j.images k } } }).takeImage k b
      else s

/-- BLOCK (R130 to R132, R134): one Wax block of 17 to 16,384 bytes for a stream. Another length, or another stream, is a wrong header
(R128, R129). -/
def execBlock (stream : Nat) (wax : List Byte) (s : State) : Host.Outcome State Fault Refusal :=
  if s.rasterUp = false then ok s
  else if 160 ≤ stream then ok (s.bump Obj.pktCrcErrors)
  else if wax.length < 17 ∨ 16384 < wax.length then ok ((s.bump Obj.pktCrcErrors).resend stream)
  else ok ((s.intake stream wax).takeJoinImage stream)

/-- A joining chip whose strips have caught up with the join line says so (12, Rejoining as mate, step 7). -/
def State.tellReady (s : State) : State :=
  match s.twin.join with
  | none => s
  | some j =>
    let caught := s.liveGroups.all (fun g => (s.liveStrips g).all (fun k => decide ((s.ctx k).ckpt.next = j.line)))
    if j.joining && !j.ready && j.images.isEmpty && s.raster.flushFirst.isSome && caught then
      ({ s with twin := { s.twin with join := some { j with ready := true } } }).twinSend 0x15 []
    else s

/-- DECODE_LINE (01 R28, R29): engine `e` completes its line, and takes another. An auxiliary line waits for its reads, which panic
holds back (01 R32); strip lines come from their prefetch buffers (17 R380). -/
def execDecodeLine (e : Fin 8) (s : State) : Host.Outcome State Fault Refusal :=
  match Table.find s.decomp.engines e with
  | none => ok s
  | some j =>
    if s.blockUp Block.decomp = false ∨ (128 ≤ j.stream ∧ s.memWaits (.context j.stream) = true) then ok s
    else
      let s := s.completeJob j
      ok ({ s with decomp := { s.decomp with engines := Table.erase s.decomp.engines e } }).takeJobs.tellReady

/-- COMMIT (R135 to R137). -/
def execCommit (payload : List Byte) (s : State) : Host.Outcome State Fault Refusal :=
  if s.rasterUp = false then ok s
  else match parseCommit payload with
    | none => ok (s.emit (commitReply (field payload 0 4) 6 0))
    | some c =>
      let (status, detail) := s.commitStatus c
      let s := s.emit (commitReply c.page status detail)
      if status = 0 then ok (((((s.acceptCommit c).catchUp.takeJobs).freeAll).closePages none s.now).tellReady) else ok s

/-! ### Credits -/

/-- Increments for the streams whose space has been freed (R131). -/
def State.grantFreed (s : State) : List (Nat × Nat) → State
  | [] => s
  | (k, n) :: t => (s.setReg (Obj.creditsGranted k) (s.reg (Obj.creditsGranted k) + n)).grantFreed t

/-- Count the RESEND entries that a period has kept back (R134). -/
def State.resendEach (s : State) : List Nat → State
  | [] => s
  | k :: t => (s.bump (Obj.stResends k)).resendEach t

/-- CREDIT_PERIOD_EXPIRY (R131, R134): the increments, and then the RESEND entries kept back. -/
def execCreditPeriodExpiry (s : State) : Host.Outcome State Fault Refusal :=
  if s.rasterUp then
    let due := s.raster.resendDue
    let s := s.sendCredits (s.raster.freed.map (fun x => (x.1, 0, x.2)) ++ due.map (fun k => (k, 1, s.reg (Obj.nextBlockSeq k))))
    let s := s.grantFreed s.raster.freed
    let s := { s with raster := { s.raster with freed := [], resent := due, resendDue := [] } }
    ok (s.resendEach due)
  else ok s

/-! ### STORE_FLUSH (R131, R143; 08 R187) -/

/-- Objects of a stream after a flush: every NEXT_BLOCK_SEQ is 0, and the ring is empty. -/
def State.flushStreams (s : State) : List Nat → State
  | [] => s
  | k :: t =>
    let s := ((s.setReg (Obj.nextBlockSeq k) 0).setReg (Obj.ringUsed k) 0).setReg (Obj.blocksStored k) 0
    (s.setReg (Obj.creditsGranted k) (s.ringSize k / 64)).flushStreams t

/-- What the store held, and what was prepared from it, is gone. -/
def State.dropStore (s : State) : State :=
  let raster := { s.raster with rings := [], linesIn := [], pages := [], flushFirst := none, nextFirst := 0, freed := [],
                                lateFor := none }
  let decomp := { s.decomp with engines := [], waiting := [] }
  { s with raster := raster, decomp := decomp, slots := [], health := { s.health with past := [] } }

/-- Discard every block and page; a pending swap completes at once. -/
def State.flushStore (s : State) : State :=
  let s := if s.health.swap.isSome then s.swapNow else s
  (s.dropStore).flushStreams (List.range 160)

/-- Grant every stream its full ring (R131), where the link is up; a later bring-up does it otherwise. -/
def State.regrant (s : State) : State := if s.rasterUp then s.grantAll (List.range 160) else s

end Sys2Proof.Machine
end

