-- ==== Sys2Proof/Machine/Twin.lean ====
section
/-! DEFINITION. The twin link (12): health, roles, the line-end state copy, fail-over, the role swap, and joining. -/

namespace Sys2Proof.Machine

/-! ### The link (R290, R291) -/

/-- Whether the logic of the twin link runs: not on a chip strapped SOLO, nor before TWIN_LINK has been released (03 R71). -/
def State.twinRuns (s : State) : Bool := decide (s.strapped ≠ .solo) && s.blockUp Block.twinLink

/-- The mate is lost: it is in SNUFF, or its link has failed. -/
def State.mateLost (s : State) : State := s.twinEvent 1 (some Ev.mateLost) []

/-- The link was healthy and is so no longer (R300): the mate of a living primary enters SNUFF, and the primary has lost its mate. -/
def State.afterLink (was : Bool) (s : State) : State :=
  if was = false ∨ s.twinHealthy = true ∨ s.mode.working = false then s
  else if s.role = .mate ∧ s.pins.aliveIn = true then s.setCause Cause.twin
  else if s.role = .primary then s.mateLost
  else s

/-- One twin lane as bring-up leaves it. -/
def State.twinLane (s : State) (l : Nat) (up : Bool) : State :=
  if up then (s.setReg (Obj.laneState (32 + l)) 2).lockAt (Obj.rxInverted (32 + l)) (Obj.ctleCode (32 + l)) (Obj.dfeTaps (32 + l))
  else s.setReg (Obj.laneState (32 + l)) 3

/-- TWIN_LINK_UP (R290): which lanes have come up, and whether their physical order is the reverse. -/
def execTwinLinkUp (lane0 lane1 reversed : Bool) (s : State) : Host.Outcome State Fault Refusal :=
  if s.twinRuns then
    let was := s.twinHealthy
    let s := (s.twinLane 0 lane0).twinLane 1 lane1
    let s := { s with twin := { s.twin with lane0 := lane0, lane1 := lane1, reversed := reversed } }
    ok (((if lane0 ≠ lane1 then s.twinEvent 2 none [] else s)).afterLink was)
  else ok s

/-- TWIN_LANE_LOSS (R290, R254): the lane trains again. -/
def execTwinLaneLoss (l : Fin 2) (errors : Nat) (s : State) : Host.Outcome State Fault Refusal :=
  let up := if l = 0 then s.twin.lane0 else s.twin.lane1
  if up then
    let was := s.twinHealthy
    let twin := if l = 0 then { s.twin with lane0 := false } else { s.twin with lane1 := false }
    let s := ({ s with twin := twin }).setReg (Obj.laneState (32 + l)) 1
    let s := ((s.bump (Obj.losCount (32 + l))).bump (Obj.retrains (32 + l))).setBits (Obj.laneStatus (32 + l)) 1
    let s := (s.count (Obj.codeErrors (32 + l)) errors).emit (.train .twin l (linkTrain l))
    ok (((if s.twinUp then s.twinEvent 2 none [] else s)).afterLink was)
  else ok s

/-- A frame is dropped: counted on the first of the bonded lanes. -/
def State.dropTwinFrame (s : State) : State :=
  if s.twinUp then
    let was := s.twinHealthy
    let s := { s with twin := { s.twin with dropAt := some s.clock.cycles } }
    (s.bump (Obj.frameErrors 32)).afterLink was
  else s

/-- TWIN_FRAME_DROP (R291), with the code errors that each lane has met. -/
def execTwinFrameDrop (errors : List Nat) (s : State) : Host.Outcome State Fault Refusal :=
  if s.twinUp then
    ok ((s.count (Obj.codeErrors 32) (errors.getD 0 0)).count (Obj.codeErrors 33) (errors.getD 1 0)).dropTwinFrame
  else ok s

/-- The newest confirmed line of a group. -/
def State.newestOf (s : State) (g : Nat) : Nat :=
  match s.liveStrips g with
  | [] => 0
  | k :: _ => s.reg (Obj.newestConfirmed k)

/-- The payload of a HEARTBEAT (R291; 19 R424). -/
def State.heartbeatBytes (s : State) : List Byte :=
  let alive := decide (s.pins.aliveOut = .high)
  let confined := decide (s.mode = .snuff) && s.hasCause && !s.barWide
  le 1 s.role.code ++ le 1 s.mode.code ++ le 2 (flag alive + 2 * flag s.twinHealthy + 4 * flag confined) ++ le 4 s.digest ++
    le 2 (s.reg Obj.siliconRev) ++ zeros 2 ++ le 4 (s.reg Obj.fwVersion) ++ le 4 (s.reg Obj.healthGen) ++
    (List.range 8).flatMap (fun g => le 4 (s.newestOf g)) ++ le 2 s.litBlockers ++ zeros 2 ++
    (if s.role = .primary then s.loopRecord else [])

/-- HEARTBEAT_SEND (R291). -/
def execHeartbeatSend (s : State) : Host.Outcome State Fault Refusal :=
  if s.twinRuns && s.twinUp && s.configured then ok (s.twinSend 0x01 s.heartbeatBytes) else ok s

/-! ### Fail-over (R296 to R300) -/

/-- The groups' confirmed edges that lie more than 400 ns ahead lose the mate's lag (R298). -/
def State.dropLag (s : State) (g : Nat) : State :=
  match (s.group g).conf with
  | none => s
  | some c =>
    match c.rises with
    | none => s.setGroup g { s.group g with conf := some { c with lag := 0 } }
    | some r => if s.nowPs + setupPs < r then s.setGroup g { s.group g with conf := some { c with lag := 0 } } else s

/-- An open line, by each module of its group (R299). -/
def State.openDoubts (s : State) (o : Own) : List Unsettled :=
  (s.liveModules o.g).map (fun m =>
    { why := .promotion, g := o.g, lane := m, seq := o.seq, page := o.page, cause := o.cause.getD 6, found := none, edged := true,
      conf := o.conf })

/-- The first line from `n` on whose LINE_STATE has not come: at most as many lines are passed over as have come. -/
def State.notEntered (s : State) (g n : Nat) : Nat → Nat
  | 0 => n
  | k + 1 => if s.twin.early.contains (g, n) then s.notEntered g ((n + 1) % 2 ^ 32) k else n

/-- The promotion line of a group: its first line that fires, or may, after the promotion. One whose LINE_STATE has come is no such line:
the old primary has fired or entered it. -/
def State.promotionLine (s : State) (g : Nat) : Nat :=
  let n := match (s.group g).conf with
    | some c => c.seq
    | none => s.reg (Obj.nextArmSeq g)
  s.notEntered g n s.twin.early.length

/-- The duties of the primary: the Wick's decisions held for lines to come, P_HEAD at 0 (18 R400), the loops, and the ledger. -/
def State.takeDuties (s : State) : State :=
  let decided := s.taper.decided ++ s.twin.decisions
  let s := { s with taper := { s.taper with decided := decided }, twin := { s.twin with decisions := [] } }
  (s.setLevel 1 0).takeLoops (s.twin.partner.drop 56)

/-- Report a list of ledger entries again, with the index of the first. -/
def State.reportAgain (s : State) (i : Nat) : List Entry → State
  | [] => s
  | e :: t => (s.report 1 (i % 2 ^ 32) e.bytes).reportAgain (i + 1) t

/-- The PAGE_DONE records that this chip has kept are sent. -/
def State.reportPages (s : State) : State :=
  let l := s.twin.pagesDone.reverse
  l.foldl (fun s p => s.report 2 p.1 p.2) { s with twin := { s.twin with pagesDone := [] } }

/-- The records of a promotion, and the ledger entries and pages done again, which this chip cannot show the old primary to have sent
(R306). -/
def State.reportPromotion (s : State) (time : Nat) (lines : List Nat) : State :=
  let n := s.reg Obj.failovers
  let words := lines.flatMap (le 4)
  let s := s.report 3 n (le 10 time ++ zeros 2 ++ words.take 12)
  let s := s.report 4 n (words.drop 12 ++ zeros 4)
  (s.reportAgain (s.reg Obj.skipsTotal - s.taper.ledger.length) s.taper.ledger.reverse).reportPages

/-- The Beacon step at promotion (21 R459). -/
def State.alignBeacon (s : State) : State :=
  if s.twin.offsets.length < 16 then s.logEvent Ev.beaconUnaligned [] else s.stepBeacon (s.sreg Obj.twinTimeOffset)

/-- Promotion (R298, R299). -/
def State.promote (s : State) : State :=
  let time := s.now
  let lines := (List.range 8).map s.promotionLine
  let s := { s with role := .primary }
  let s := s.twinSend 0x09 (lines.flatMap (le 4))
  let s := (List.range 8).foldl State.dropLag s
  let own := s.twin.own
  let s := ({ s with twin := { s.twin with own := [] } }).takeDuties
  let s := s.addDoubts (own.flatMap s.openDoubts)
  let s := ((s.bump Obj.failovers).setReg Obj.failoverTime time).setDom Obj.promotionLines (lines.flatMap (le 4))
  let s := s.twinEvent 0 (some Ev.failover) (lines.flatMap (le 4))
  (((s.reportPromotion time lines).abandonSwap).makeAwaited).alignBeacon

/-- The mate declares the primary lost (R296, R298, R307). -/
def State.primaryLost (s : State) : State :=
  if s.role ≠ .mate ∨ s.mode.working = false then s
  else if s.mode = .lit ∧ s.hasCause = false ∧ s.twin.healthyAtHb = true ∧ s.twin.digestOk = true then s.promote
  else if s.mode = .pilot ∧ s.twin.join.isSome = true then s.abandonJoin
  else s.setCause Cause.twin

/-- TWIN_ALIVE_LOW (R296). -/
def execTwinAliveLow (s : State) : Host.Outcome State Fault Refusal :=
  if s.strapped = .solo then ok s
  else ok ({ s with pins := { s.pins with aliveIn := false } }).primaryLost

/-- TWIN_ALIVE_HIGH (R296). -/
def execTwinAliveHigh (s : State) : Host.Outcome State Fault Refusal :=
  if s.strapped = .solo then ok s else ok { s with pins := { s.pins with aliveIn := true } }

/-- LINE_STATE_TIMEOUT (R296): a line period after the mate's own edge, with TWIN_ALIVE_IN high. -/
def execLineStateTimeout (g : Fin 8) (s : State) : Host.Outcome State Fault Refusal :=
  if s.mode = .lit ∧ s.pins.aliveIn = true ∧ s.twin.own.any (fun o => decide (o.g = g) && o.edge.isSome) = true then
    ok s.primaryLost
  else ok s

/-- PROMOTED (R300). -/
def execPromoted (lines : List Nat) (s : State) : Host.Outcome State Fault Refusal :=
  if s.twinUp && decide (s.role = .primary) && decide (lines.length = 8) then ok (s.setCause Cause.twin) else ok s

/-- SNUFF_ALL (R297): the mate enters SNUFF with the same cause. -/
def execSnuffAll (causes : Nat) (s : State) : Host.Outcome State Fault Refusal :=
  if s.twinUp && decide (s.role = .mate) && s.mode.working then
    ok ((s.setBits Obj.snuffCause (causes % 2 ^ 13)).enterSnuff true)
  else ok s

/-! ### HEARTBEAT (R287, R291, R300, R307) -/

/-- The role decision in KINDLE, on the partner's first HEARTBEAT (R287, R1). -/
def State.decideRole (s : State) : State :=
  if s.mode = .kindle ∧ s.twin.roleDecided = false then
    let mate := decide (s.partnerRole = 1) && [2, 3, 4].contains s.partnerMode && s.versionMatch
    { s with twin := { s.twin with roleDecided := true }, role := if mate then .mate else s.role }
  else s

/-- A digest that differs (R286). -/
def State.checkDigest (s : State) : State :=
  if s.digestMatch then s
  else
    let s := s.setBits Obj.twinEvents 8
    if s.role = .mate ∧ s.mode = .lit ∧ s.partnerMode = 4 then s.setCause Cause.twin else s

/-- A mate in PILOT asks to join a primary in LIT (12, Rejoining as mate, step 2): once, and again when a digest has changed. -/
def State.askJoin (s : State) : State :=
  let key := (s.digest, field s.twin.partner 4 4)
  if s.mode ≠ .pilot then { s with twin := { s.twin with asked := none } }
  else if s.role = .mate ∧ s.partnerRole = 1 ∧ s.partnerMode = 4 ∧ s.twin.join = none ∧ s.reg Obj.joinState ≠ 4 ∧
      s.twin.asked ≠ some key then
    ({ s with twin := { s.twin with asked := some key } }).twinSend 0x10
      (le 2 (s.reg Obj.siliconRev) ++ zeros 2 ++ le 4 (s.reg Obj.fwVersion) ++ le 4 s.digest)
  else s

/-- What a HEARTBEAT says of the partner. -/
def State.hearPartner (s : State) (payload : List Byte) : State :=
  let wasSnuff := s.heard && decide (s.partnerMode = 5)
  let wasConflict := s.roleConflict
  let s := { s with twin := { s.twin with hbAt := some s.clock.cycles, partner := payload } }
  let healthy := s.twinHealthy
  let same := s.digestMatch
  let s := { s with twin := { s.twin with healthyAtHb := healthy, digestOk := same } }
  let s := s.decideRole.checkDigest
  let s := if s.role = .primary ∧ s.mode.working = true ∧ s.partnerMode = 5 ∧ wasSnuff = false then s.mateLost else s
  if s.roleConflict && !wasConflict then s.twinEvent 4 (some Ev.roleConflict) [] else s

/-- HEARTBEAT (R291): one of another length is a frame error. -/
def execHeartbeat (payload : List Byte) (s : State) : Host.Outcome State Fault Refusal :=
  if (s.twinRuns && s.twinUp) = false then ok s
  else if payload.length ≠ 56 ∧ payload.length ≠ 440 then ok s.dropTwinFrame
  else
    let s := s.hearPartner payload
    ok (if s.partnerFlags.testBit 2 then s.primaryLost else s.askJoin)

/-- HEARTBEAT_TIMEOUT (R291, R300). -/
def execHeartbeatTimeout (s : State) : Host.Outcome State Fault Refusal :=
  let was := s.twinHealthy
  ok (({ s with twin := { s.twin with hbAt := none } }).afterLink was)

/-- ROLE_DECISION_TIMEOUT (R287). -/
def execRoleDecisionTimeout (s : State) : Host.Outcome State Fault Refusal :=
  if s.mode = .kindle ∧ s.twin.roleDecided = false ∧ s.twinUp = false then
    let role := if s.pins.aliveIn then Role.mate else s.role
    ok { s with twin := { s.twin with roleDecided := true }, role := role }
  else ok s

/-! ### What the mate takes from the primary (R57, R293) -/

/-- DECISION (R293): the outcome of a group line that this mate has not yet passed. -/
def execDecision (seq : Nat) (g : Fin 8) (outcome : WickOut) (s : State) : Host.Outcome State Fault Refusal :=
  let held := s.twin.decisions.any (fun d => decide (d.g = g) && decide (d.seq = seq))
  if s.twinUp && decide (s.roleFor seq = .mate) && decide (0 ≤ dist32 seq (s.reg (Obj.nextArmSeq g))) && !held then
    let d : GLine := { g := g, seq := seq, out := outcome, charge := 0 }
    ok (({ s with twin := { s.twin with decisions := s.twin.decisions ++ [d] } }).noteOutcome g seq outcome)
  else ok s

/-- A HEALTH_EDIT record as a publish record of a writer. -/
def recordOf (writer r : Nat) : Nat × Nat := (r % 2 ^ 18, 16 * writer + bits r 19 18 + 8 * bits r 20 20)

/-- The overwriting of a former active copy is at its end (08 R188). -/
def State.endOverwrite (s : State) : State :=
  { s with health := { s.health with pending := s.health.active, overwriting := false } }

/-- Whether a publish at a line takes effect at once (08 R189). -/
def State.atOnce (s : State) (line : Nat) : Bool :=
  decide (s.mode ≠ .lit) && (s.raster.flushFirst.isNone || s.liveGroups.all (fun g => decide (s.passedTo g = line)))

/-- The replies that waited for records now in the pending copy (08 R196). -/
def State.answerAwaited (s : State) : State :=
  let done := s.twin.awaited.filter (fun p => decide (changingRecs s.health.pending p.1 = []))
  let kept := s.twin.awaited.filter (fun p => decide (changingRecs s.health.pending p.1 ≠ []))
  done.foldl (fun s p => s.finished p.2) { s with twin := { s.twin with awaited := kept } }

/-- PUBLISH (R293): applied at its S; too late for a mate that has confirmed line S. -/
def execPublish (_gen line : Nat) (recs : List Nat) (s : State) : Host.Outcome State Fault Refusal :=
  if s.twinUp = false ∨ s.role ≠ .mate ∨ recs = [] then ok s
  else
    let late := decide (s.mode = .lit) && (match s.taper.newest with
      | some n => decide (0 ≤ dist32 n line)
      | none => false)
    if late then ok (s.setCause Cause.twin)
    else
      let s := if s.health.overwriting then s.endOverwrite else s
      ok (s.applyPublish (recs.map (recordOf byHost)) line (s.atOnce line)).answerAwaited

/-- FINDING_MESSAGE (13 R326). -/
def execFindingMessage (recs : List Nat) (s : State) : Host.Outcome State Fault Refusal :=
  if s.twinUp && decide (s.role = .primary) && !recs.isEmpty then ok (s.publish (recs.map (recordOf byLantern)) none) else ok s

/-- MODE_MESSAGE (02 R57; R293): the mate changes mode with its primary. In PILOT and TRIM no line is passing; a stop is made at the
effective line, and a joining chip waits for its join line. One whose revision or firmware differs stays in PILOT (00 R1). -/
def execModeMessage (mode line : Nat) (s : State) : Host.Outcome State Fault Refusal :=
  if s.twinUp = false ∨ s.role ≠ .mate ∨ s.hasCause = true ∨ (s.mode = .pilot ∧ s.mismatched = true) then ok s
  else match s.mode, mode with
    | .pilot, 3 => ok s.enterTrim
    | .pilot, 4 => if s.twin.join.isSome then ok { s with twin := { s.twin with modeAt := some (4, line) } } else ok s.acceptLit
    | .trim, 2 => ok s.enterPilot
    | .lit, 2 => ok ({ s with twin := { s.twin with modeAt := some (2, line) } }).stopAtLine
    | _, _ => ok s

/-! ### The line-end state copy (R292, R295) -/

/-- The bytes of a LINE_STATE. -/
def LineSt.bytes (x : LineSt) : List Byte :=
  le 4 x.seq ++ le 4 x.page ++ le 1 x.group ++ le 1 x.outcome ++ le 1 x.cause ++ le 1 x.strip ++ le 10 x.time ++
    le 1 x.wick ++ le 1 x.flags ++ le 4 x.gen ++ le 4 x.total

/-- The line state that bytes spell; none where they are no LINE_STATE. -/
def parseLineState (p : List Byte) : Option LineSt :=
  if p.length = 32 ∧ field p 8 1 < 8 ∧ field p 9 1 < 2 ∧ field p 22 1 < 2 then
    some { seq := field p 0 4, page := field p 4 4, group := field p 8 1, outcome := field p 9 1, cause := field p 10 1,
           strip := field p 11 1, time := field p 12 10, wick := field p 22 1, flags := field p 23 1, gen := field p 24 4,
           total := field p 28 4 }
  else none

/-- The counters that a joining chip takes from the primary: those that follow a line's entry (R295). -/
def joinKeys : List Nat :=
  (List.range 128).flatMap (fun k => [Obj.linesFired k, Obj.spLinesSkipped k, Obj.dropsSmall k, Obj.dropsMedium k, Obj.dropsLarge k,
    Obj.compDrops k, Obj.lostDrops k, Obj.demotedDrops k]) ++
  [Obj.linesConfirmed, Obj.lateFires, Obj.countLockedLines, Obj.lateArms, Obj.skipsTotal, Obj.ledgerOverwritten, Obj.lateLines,
    Obj.wkLinesSkipped, Obj.linesDemoted]

/-- A join that is ready is made once the line before J has passed in every group and its copy has gone (12, Rejoining as mate, step 7):
COUNTERS, and then MODE LIT effective at J. -/
def State.joinMade (s : State) : State :=
  match s.twin.join with
  | none => s
  | some j =>
    let passed := s.liveGroups.all (fun g => decide (0 ≤ dist32 (s.passedTo g) j.line))
    if !j.joining && j.ready && passed && s.twin.sendQueue.isEmpty then
      let s := s.twinSend 0x14 (joinKeys.flatMap (fun k => le 4 k ++ le 8 (s.reg k)))
      let s := s.sendMode .lit j.line
      ({ s with twin := { s.twin with join := none } }).setReg Obj.joinState 3
    else s

/-- LINE_STATE_SEND (R292): the oldest copy waiting leaves. -/
def execLineStateSend (s : State) : Host.Outcome State Fault Refusal :=
  match s.twin.sendQueue with
  | [] => ok s
  | x :: t => ok ((({ s with twin := { s.twin with sendQueue := t } }).twinSend 0x03 x.bytes).joinMade)

/-- The offset of the primary's edge from this mate's own (21 R459). -/
def State.noteOffset (s : State) (x : LineSt) (edge : Option Nat) : State :=
  match edge with
  | none => s
  | some e =>
    if s.mode = .lit ∧ x.outcome = 0 ∧ bits x.flags 2 1 = 0 then
      let off : Int := (ns80 x.time : Int) - (e / 1000 : Nat)
      let l := (off :: s.twin.offsets).take 64
      let s := { s with twin := { s.twin with offsets := l } }
      s.setSreg Obj.twinTimeOffset (quot 21 (l.foldl (· + ·) 0) l.length)
    else s

/-- Enter a copy in the books, with what this mate found of the line when it armed. -/
def State.enterCopy (s : State) (x : LineSt) (conf : Option Conf) : State :=
  let s := s.settle x ((conf.map Conf.lateArm).getD false) (some x.total)
  let kept := s.twin.decisions.filter (fun d => !(decide (d.g = x.group) && decide (d.seq = x.seq)))
  { s with twin := { s.twin with decisions := kept } }

/-- A copy arrives: for a line that this mate has passed, one it holds open, or one it has yet to pass (R295). The mate corrects a line
that it did not confirm, so it decodes it first. -/
def State.takeCopy (s : State) (x : LineSt) : State :=
  let s := if s.mode = .lit then s.decodeAll x.seq (s.liveStrips x.group) else s
  match s.twin.own.find? (fun o => decide (o.g = x.group) && decide (o.seq = x.seq)) with
  | some o =>
    let s := ({ s with twin := { s.twin with own := s.twin.own.erase o } }).noteOffset x o.edge
    s.enterCopy x o.conf
  | none =>
    match s.doubts x.group x.seq with
    | u :: _ =>
      let rest := s.taper.unsettled.filter (fun y => !(decide (y.g = x.group) && decide (y.seq = x.seq)))
      (({ s with taper := { s.taper with unsettled := rest } }).enterCopy x u.conf).settleAll
    | [] =>
      let conf := (s.group x.group).conf.filter (fun c => decide (c.seq = x.seq))
      if conf.isSome || decide (0 ≤ dist32 x.seq (s.reg (Obj.nextArmSeq x.group))) then
        let s := { s with twin := { s.twin with early := s.twin.early ++ [(x.group, x.seq)] } }
        if s.mode = .lit then s.enterCopy x conf else s
      else s

/-- Whether a LINE_STATE is for this chip: it is the line's mate, or was when it passed the line (R301). -/
def State.copyDue (s : State) (x : LineSt) : Bool :=
  decide (s.roleFor x.seq = .mate) || s.twin.own.any (fun o => decide (o.g = x.group) && decide (o.seq = x.seq))

/-- LINE_STATE (R295). A joining chip enters none: COUNTERS bring it the counts (R303). -/
def execLineState (payload : List Byte) (s : State) : Host.Outcome State Fault Refusal :=
  if s.twinUp = false then ok s
  else match parseLineState payload with
    | none => ok s.dropTwinFrame
    | some x => if s.copyDue x = true ∧ (s.mode = .lit ∨ s.mode = .snuff ∨ s.twin.join.isSome = true) then ok (s.takeCopy x) else ok s

/-! ### The role swap (R301, R302) -/

/-- Whether a promotion's open lines are not yet resolved. -/
def State.failingOver (s : State) : Bool := s.taper.unsettled.any (fun u => decide (u.why = .promotion))

/-- The newest confirmed line of every group, or the line before the first to print. -/
def State.newestAll (s : State) : Nat :=
  match s.taper.newest with
  | some n => n
  | none => (2 ^ 32 - 1 + s.floorSeq.getD 0) % 2 ^ 32

/-- The first committed page that begins at or beyond a line. -/
def State.pageFrom (s : State) (n : Nat) : Option Page := s.raster.pages.find? (fun p => decide (0 ≤ dist32 p.first n))

/-- The page of a swap line, where a swap may be made now. -/
def State.swapPage (s : State) : Option Page :=
  if s.mode = .lit ∧ s.role = .primary ∧ s.twin.swap = none ∧ s.twin.join = none ∧ s.failingOver = false ∧ s.twinHealthy = true ∧
      s.partnerRole = 2 ∧ s.partnerMode = 4 ∧ s.taper.stopping = false ∧ s.hasCause = false then
    s.pageFrom ((1024 + s.newestAll) % 2 ^ 32)
  else none

/-- A swap at the first line of a page. -/
def State.startSwap (s : State) (p : Page) : State :=
  let s := ({ s with twin := { s.twin with swap := some (p.first, p.id) } }).setReg Obj.twSwapLine p.first
  s.twinSend 0x08 (le 4 p.first ++ le 4 p.id)

/-- SWAP_MESSAGE (R301). -/
def execSwapMessage (line page : Nat) (s : State) : Host.Outcome State Fault Refusal :=
  if s.twinUp && decide (s.role = .mate) && decide (s.mode = .lit) && s.twin.swap.isNone then
    ok (({ s with twin := { s.twin with swap := some (line, page) } }).setReg Obj.twSwapLine line)
  else ok s

/-- A publish held on the old primary goes to the new one to be made (R301): a host's HEALTH_EDIT as a forwarded write, which keeps its
pins, and another writer's as FINDING (log entry 103). -/
def State.passPublish (s : State) (recs : List (Nat × Nat)) : State :=
  let words := recs.flatMap (fun r => le 4 (editWord r.1 (r.2 % 16)))
  if recs.all (fun r => decide (r.2 / 16 = byHost)) then
    (if s.twinUp then s.emit (.forward Dict.Ty.domain.code Obj.healthEdit words) else s)
  else s.twinSend 0x05 words

/-- Publishes held on the old primary go to the new one; a reply waits until the new primary's PUBLISH has come (08 R196). -/
def State.passHeld (s : State) : State :=
  let held := s.twin.heldPublishes
  let s := { s with twin := { s.twin with heldPublishes := [], awaited := s.twin.awaited ++ held } }
  held.foldl (fun s p => s.passPublish p.1) s

/-- The roles change (R301; 18 R400). -/
def State.swapRole (s : State) : State :=
  let s := { s with twin := { s.twin with swap := none } }
  match s.role with
  | .primary =>
    let s := { s with role := .mate }
    s.passHeld
  | .mate =>
    let s := { s with role := .primary }
    (s.setLevel 1 0).makeHeld
  | _ => s

/-- ROLE_SWAP_COMPLETE (R301): line F has been confirmed or skipped in every group. -/
def execRoleSwapComplete (s : State) : Host.Outcome State Fault Refusal :=
  match s.twin.swap with
  | none => ok s
  | some (f, _) =>
    if s.liveGroups.all (fun g => decide (0 < dist32 (s.reg (Obj.nextArmSeq g)) f)) then ok s.swapRole else ok s

/-! ### Joining (R303) -/

/-- JOIN_REQ (R1, R286, R303): JOIN_PLAN, or a refusal. -/
def execJoinReq (rev fw digest : Nat) (s : State) : Host.Outcome State Fault Refusal :=
  let same := decide (rev = s.reg Obj.siliconRev) && decide (fw = s.reg Obj.fwVersion) && decide (digest = s.digest)
  if s.twinUp && decide (s.role = .primary) && decide (s.mode = .lit) && same && s.twin.join.isNone && s.twin.swap.isNone &&
      !s.taper.stopping then
    let b := (1024 + s.newestAll) % 2 ^ 32
    match s.pageFrom ((b + s.reg Obj.joinLead) % 2 ^ 32) with
    | none => ok s
    | some p =>
      let s := { s with twin := { s.twin with join := some { snapshot := b, line := p.first, joining := false } } }
      ok ((s.setReg Obj.joinState 1).twinSend 0x11 (le 4 b ++ le 4 p.first))
  else ok s

/-- The groups of a joining chip that has pages start at a new join line. -/
def State.moveJoin (s : State) (line : Nat) : State :=
  if s.raster.flushFirst.isNone then s
  else (List.range 8).foldl (fun s g =>
    (s.setGroup g { s.group g with first := line, nextReq := line }).setReg (Obj.nextArmSeq g) line) s

/-- JOIN_PLAN (R303): a first plan, or one that moves the join line. A chip that differs in revision or firmware does not join (00 R1). -/
def execJoinPlan (snapshot line : Nat) (s : State) : Host.Outcome State Fault Refusal :=
  if s.twinUp = false ∨ s.role ≠ .mate ∨ s.mode ≠ .pilot ∨ s.mismatched = true then ok s
  else match s.twin.join with
    | none =>
      let s := { s with twin := { s.twin with join := some { snapshot := snapshot, line := line, joining := true }, modeAt := none } }
      ok (s.setReg Obj.joinState 1)
    | some j =>
      let s := { s with twin := { s.twin with join := some { j with line := line, ready := false, retries := j.retries + 1 } } }
      ok ((((s.bump Obj.joinRetries).moveJoin line).catchUp).tellReady)

/-- JOIN_SNAPSHOT (12, Rejoining as mate, step 4): the line before the snapshot line has passed in every group, and
every strip's checkpoint for it is kept. -/
def execJoinSnapshot (s : State) : Host.Outcome State Fault Refusal :=
  match s.twin.join with
  | none => ok s
  | some j =>
    let kept := s.liveGroups.all (fun g => (s.liveStrips g).all (fun k => (Table.find j.images k).isSome))
    if !j.joining && !j.sent && kept && s.liveGroups.all (fun g => decide (0 ≤ dist32 (s.passedTo g) j.snapshot)) then
      let s := { s with twin := { s.twin with join := some { j with sent := true } } }
      let s := j.images.foldl (fun s x => s.twinSend 0x12 (le 4 x.1 ++ x.2)) s
      ok ((s.twinSend 0x13 (le 4 (s.reg Obj.healthGen) ++ healthBytes s.health.active)).setReg Obj.joinState 2)
    else ok s

/-- The first line of the block that an image names. -/
def imageFirst (b : List Byte) : Nat := (2 ^ 32 + field b 0 4 - field b 10 2) % 2 ^ 32

/-- The strip streams begin at the blocks of their images. -/
def State.startAtImages (s : State) : List (Nat × List Byte) → State
  | [] => s
  | (k, b) :: t =>
    let s := s.setReg (Obj.nextBlockSeq k) (field b 4 4)
    ({ s with raster := { s.raster with linesIn := Table.put 0 s.raster.linesIn k (imageFirst b) } }).startAtImages t

/-- JOIN_IMAGE (12, Rejoining as mate, steps 4 and 5): the images and the health map; the store is flushed and the blocks asked for. -/
def execJoinImage (images : List (Nat × List Byte)) (gen : Nat) (map : List (Nat × Nat)) (s : State) :
    Host.Outcome State Fault Refusal :=
  match s.twin.join with
  | none => ok s
  | some j =>
    if j.joining && decide (s.mode = .pilot) then
      let l := images.filter (fun x => decide (x.1 < 128))
      let table := l.foldl (fun t x => Table.put [] t x.1 x.2) []
      let m := map.foldl (fun t x => Table.put 0 t (x.1 % 2 ^ 18) (x.2 % 16)) []
      let s := (s.flushStore).startAtImages l
      let s := { s with twin := { s.twin with join := some { j with images := table, ready := false } } }
      let s := { s with health := { s.health with active := m, pending := m, swap := none, overwriting := false } }
      ok (((s.setReg Obj.healthGen gen).setReg Obj.joinState 2).regrant)
    else ok s

/-- JOIN_READY (12, Rejoining as mate, step 7). -/
def execJoinReady (s : State) : Host.Outcome State Fault Refusal :=
  match s.twin.join with
  | none => ok s
  | some j =>
    if j.joining then ok s
    else ok (({ s with twin := { s.twin with join := some { j with ready := true } } }).joinMade)

/-- Take counters from the primary. -/
def State.takeCounters (s : State) : List (Nat × Nat) → State
  | [] => s
  | (k, v) :: t => (if joinKeys.contains k then s.setReg k (v % 2 ^ Dict.width k) else s).takeCounters t

/-- JOIN_COUNTERS (R303). -/
def execJoinCounters (counters : List (Nat × Nat)) (s : State) : Host.Outcome State Fault Refusal :=
  match s.twin.join with
  | none => ok s
  | some j => if j.joining then ok (s.takeCounters counters) else ok s

/-- The join has failed. -/
def State.failJoin (s : State) : State :=
  ({ s with twin := { s.twin with join := none, modeAt := none } }).setReg Obj.joinState 4

/-- JOIN_RETRY (R303): the line J − LEAD_TARGET is prepared, and no JOIN_READY has come. -/
def execJoinRetry (s : State) : Host.Outcome State Fault Refusal :=
  match s.twin.join with
  | none => ok s
  | some j =>
    if j.ready then ok s
    else if 4 ≤ j.retries then ok s.failJoin
    else if j.joining then ok s
    else
      let line := match s.pageFrom ((j.line + 1) % 2 ^ 32) with
        | some p => p.first
        | none => s.raster.nextFirst
      let s := { s with twin := { s.twin with join := some { j with line := line, retries := j.retries + 1 } } }
      ok ((s.bump Obj.joinRetries).twinSend 0x11 (le 4 j.snapshot ++ le 4 line))

/-- JOIN_ENTER_LIT (R303): at line J the joining chip enters LIT as MATE. -/
def execJoinEnterLit (s : State) : Host.Outcome State Fault Refusal :=
  match s.twin.join, s.twin.modeAt with
  | some j, some (4, line) =>
    if j.joining && decide (s.mode = .pilot) && decide (line = j.line) && !s.hasCause then
      let s := s.enterLit
      ok (({ s with twin := { s.twin with join := none, modeAt := none } }).setReg Obj.joinState 3)
    else ok s
  | _, _ => ok s

end Sys2Proof.Machine
end

