-- ==== Sys2Proof/Machine/Reset.lean ====
section
/-! DEFINITION. Resets and the boot (03), the reset of single blocks (03 R69 to R74), and the die's sensors (01, 23). -/

namespace Sys2Proof.Machine

/-! ### Taking a reset (R60 to R66) -/

/-! Bits of RESET_CAUSE. -/

namespace Src_
def por : Nat := 0
def pin : Nat := 1
def wdog : Nat := 2
def snuffEsc : Nat := 3
def twin : Nat := 4
def igrel : Nat := 5
def therm : Nat := 6
def supply : Nat := 7
end Src_

/-- Whether a source's reset freezes the Yilloger (22, FREEZE_MASK bit 1). -/
def freezes (b : Nat) : Bool := [2, 3, 4, 6, 7].contains b

/-- The objects of the retained set (R61; 22 R474). -/
def retainedKeys : List Nat :=
  [Obj.resetCause, Obj.resetCount, Obj.resetDetail, Obj.failovers, Obj.ylogNext, Obj.ylogState, Obj.freezeEntry, Obj.missed]

/-- Carry a list of objects over from another state. -/
def State.carry (s old : State) : List Nat → State
  | [] => s
  | k :: t => (s.setReg k (old.reg k)).carry old t

/-- A reset in the middle of a fuse write leaves the pad at whatever is then sensed (04 R92): the bits to be blown may have been blown, or
not (log entry 5). -/
def State.cutFuse (s : State) : State :=
  match s.fuses.job with
  | none => s
  | some j =>
    let (f, s) := s.fresh 2
    let old := Table.get 0 s.fuses.blown j.pad
    { s with fuses := { s.fuses with blown := Table.put 0 s.fuses.blown j.pad (old ||| (j.code &&& f)), job := none } }

/-- A reset in an open LED window drives every LED output low (14 R337). -/
def State.closeWindow (s : State) : State := if s.led.window.isSome then s.ledsLow else s

/-- The state of a device in reset: DARK, every object at its default, every pad at its fuse state; inputs, fuses, NOR, the Yilloger,
sensors and the TAP are not the reset's (R60, R61, R66). -/
def State.resetBase (s : State) : State :=
  { pending := s.pending, clock := { refOn := s.clock.refOn, cycles := s.clock.cycles }, rst := { asserted := true, stage := .inReset },
    fuses := { s.fuses with verifyFail := false, vppOk := false },
    pins := { safeStopLow := s.pins.safeStopLow, aliveIn := s.pins.aliveIn },
    jtag := s.jtag, flash := s.flash, ylog := s.ylogClose.ylog, die := { temps := s.die.temps }, out := s.out, freeCtr := s.freeCtr }

/-- What a reset leaves: the device in reset, with the retained set of objects (R61). -/
def State.afterReset (s : State) : State :=
  let s := s.cutFuse.closeWindow
  s.resetBase.carry s retainedKeys

/-- The cause bit of a source, and RESET_DETAIL (R63). -/
def State.markSource (s : State) (b sub : Nat) : State :=
  let s := { s with rst := { s.rst with active := if s.rst.active.contains b then s.rst.active else b :: s.rst.active } }
  (s.setBits Obj.resetCause (2 ^ b)).setReg Obj.resetDetail (b + 256 * sub)

/-- A power-on reset clears the retained set (R61, R63; 22 R474), and the pads are HIZ until the fuses are sensed (release order, step 1). A
source that is still active keeps holding the reset. -/
def State.powerOn (s : State) : State :=
  let s := s.setRegs (retainedKeys.map (fun k => (k, 0)))
  { s with ylog := {}, fuses := { s.fuses with latched := [] } }

/-- A reset source other than POR (R60, R63): it asserts reset, or joins one that is asserted. -/
def State.takeReset (s : State) (b sub : Nat) : State :=
  if s.rst.asserted then s.markSource b sub
  else
    let s := if freezes b && (s.reg Obj.freezeMask).testBit 1 then s.freezeAtReset else s
    ((s.afterReset).bump Obj.resetCount).markSource b sub

/-- POWER_ON_RESET (R60, R63). -/
def execPowerOnReset (s : State) : Host.Outcome State Fault Refusal :=
  let s := if s.rst.asserted then s else s.afterReset
  ok ((s.powerOn).markSource Src_.por 0)

/-- PIN_RESET (R60). -/
def execPinReset (s : State) : Host.Outcome State Fault Refusal := ok (s.takeReset Src_.pin 0)

/-- Whether the service core runs. -/
def State.coreRuns (s : State) : Bool :=
  !s.rst.asserted &&
    (match s.rst.stage with
     | .inReset | .released | .plls => false
     | _ => true)

/-- WATCHDOG_EXPIRY (R60). -/
def execWatchdogExpiry (s : State) : Host.Outcome State Fault Refusal :=
  if s.coreRuns then ok (s.takeReset Src_.wdog 0) else ok s

/-- SNUFF_ESC_RESET (R60): 10 ms after SNUFF entry a pad readback of STB0 to STB7 or BAR_FIRE_EN is still high (`padHigh`), or the firmware
has not reported. -/
def execSnuffEscReset (padHigh : Bool) (s : State) : Host.Outcome State Fault Refusal :=
  if s.mode = .snuff ∧ (padHigh = true ∨ s.rst.snuffDone = false) then
    ok (s.takeReset Src_.snuffEsc 0)
  else ok s

/-- The sub-code of a supply (RESET_DETAIL). -/
def supplySub : Supply → Nat
  | .vddFab => 1
  | .vddClk => 2
  | .vddLane => 3
  | .vddIo => 4

/-- SUPPLY_BROWNOUT (R60). -/
def execSupplyBrownout (supply : Supply) (s : State) : Host.Outcome State Fault Refusal :=
  ok (s.takeReset Src_.supply (supplySub supply))

/-- REF_CLK_LOSS (R67, R68): a SUPPLY reset with sub-code 5. -/
def execRefClkLoss (s : State) : Host.Outcome State Fault Refusal :=
  if s.clock.refOn then ok (({ s with clock := { s.clock with refOn := false } }).takeReset Src_.supply 5) else ok s

/-- IGREL_RESET (R60): the reply to an accepted RESET_REQUEST has left. -/
def execIgrelReset (s : State) : Host.Outcome State Fault Refusal :=
  if s.rst.igrelDue then ok (s.takeReset Src_.igrel 0) else ok s

/-- Whether a maintenance pattern fires. -/
def State.patternRuns (s : State) : Bool := s.taper.maint.any (fun m => m.running)

/-- Whether this chip fires as the sole source (R64): in LIT with a partner that is not heard to be in LIT, or with a maintenance pattern,
which the partner does not fire (log entry 91). -/
def State.soleSource (s : State) : Bool := (decide (s.mode = .lit) && !s.partnerLit) || s.patternRuns

/-- TWIN_RESET_REQUEST (R64): the sole firing source, and a chip that does not accept, log the request. -/
def execTwinResetRequest (s : State) : Host.Outcome State Fault Refusal :=
  if s.twinUp = false then ok s
  else
    if s.isSet Obj.twinResetAccept && !s.soleSource then ok (s.takeReset Src_.twin 0)
    else ok (s.logEvent Ev.twinResetIgnored [])

/-! ### Release (03, release order; 04 R86, R94, R95) -/

/-- The role that the straps give: the same level in all of the 16 samples (R94). -/
def strapRole (samples : List Nat) : Role :=
  if samples = List.replicate 16 0 then .solo
  else if samples = List.replicate 16 1 then .primary
  else if samples = List.replicate 16 2 then .mate
  else .invalid

/-- EXTEST, CLAMP and HIGHZ end where TEST_EN is found low: the TAP then executes them as BYPASS (04 R96). -/
def Jtag.sampled (j : Jtag) (testEn : Bool) : Jtag :=
  if testEn then j
  else { j with control := false, float := false, sel := if j.control then .bypass else j.sel }

/-- RESET_RELEASE (R63, release order steps 3 and 4): the fuses are sensed, the straps and TEST_EN sampled. The command says that supplies,
REF_CLK and RESET_N are good again; the sensors' own condition stands here. -/
def execResetRelease (roles : List Nat) (testEn : Bool) (s : State) : Host.Outcome State Fault Refusal :=
  if s.rst.asserted = false ∨ (s.rst.active.contains Src_.therm = true ∧ s.die.temps.any (fun t => decide (7040 ≤ t)) = true) then ok s
  else
    let role := strapRole roles
    let s := { s with fuses := { s.fuses with latched := s.fuses.blown }, role := role, strapped := role }
    let s := { s with clock := { s.clock with refOn := true }, jtag := s.jtag.sampled testEn }
    ok { s with rst := { stage := .released, testEn := testEn, held := testEn || decide (role = Role.invalid) } }

/-- PLL_LOCK (release order step 5). -/
def execPllLock (s : State) : Host.Outcome State Fault Refusal :=
  if s.rst.asserted = false ∧ s.rst.stage = .released then ok { s with rst := { s.rst with stage := .plls } } else ok s

/-- SERVICE_CORE_RELEASE (release order step 6). -/
def execServiceCoreRelease (s : State) : Host.Outcome State Fault Refusal :=
  if s.rst.asserted = false ∧ s.rst.stage = .plls then ok { s with rst := { s.rst with stage := .rom } } else ok s

/-! ### The firmware (R75 to R77) -/

/-- The payload that a header names: bytes past the end of the slot's content are erased. -/
def slotPayload (img : List Byte) : List Byte :=
  let n := field img 4 4
  let body := (img.drop 256).take n
  body ++ List.replicate (n - body.length) 0xFF

/-- Whether every byte of a header that R76 does not list is 0. -/
def headerClear (img : List Byte) : Bool :=
  ((img.drop 20).take 12).all (fun b => decide (b = 0)) && ((img.drop 160).take 96).all (fun b => decide (b = 0))

/-- The number of the first check of R75 that a slot fails, or 0. A reserved header byte that is not 0, or a payload length above 0x1F_0000,
fails check 1: the model's choice (log entry 92). -/
def slotFault (img : List Byte) : Nat :=
  let hdr := img.take 256
  if img.length < 256 ∨ field img 0 2 ≠ 0x4256 ∨ field img 2 1 ≠ 1 ∨ 0x1F0000 < field img 4 4 ∨ headerClear hdr = false then 1
  else if 4 ≤ field img 3 1 ∨ Config.keyRevoked (field img 3 1) = true ∨
      sha256 ((hdr.drop 96).take 64) ≠ Config.keyHash (field img 3 1) then 2
  else if crc32c (slotPayload img) ≠ field img 16 4 then 3
  else if ecdsaVerify ((hdr.drop 96).take 64) ((hdr.drop 32).take 64) (hdr.take 32 ++ slotPayload img) then 0
  else 4

/-- Start the firmware of a slot. -/
def State.startFirmware (s : State) (slot status : Nat) (img : List Byte) : State :=
  let s := (s.setReg Obj.bootStatus (slot + status)).setReg Obj.fwVersion (field img 12 4)
  { s with rst := { s.rst with stage := .firmware } }

/-- No slot has passed (R77, R78 erratum A1): the whole boot is tried again once, and then the recovery session is all there is. Until the
retry FAULT_OUT_N is not driven and no session is answered, and TEST_EN keeps FAULT_OUT_N at its fuse state: the model's choices (log entry
92). -/
def State.noFirmware (s : State) (status : Nat) : State :=
  let s := s.setReg Obj.bootStatus (3 + status)
  if s.rst.retried then
    let ip : Nat := match s.flash.regs with
      | some r => Table.get (Dict.default Obj.ipAddr) r Obj.ipAddr
      | none => Dict.default Obj.ipAddr
    { s with rst := { s.rst with stage := .recovery }, igrel := { s.igrel with ip := ip }, pins := { s.pins with faultN := if s.rst.testEn then s.pins.faultN else .low } }
  else { s with rst := { s.rst with stage := .retryWait } }

/-- BOOT_ROM_VERIFY (R75, R77): `readsValid` is false where the NOR was erasing or programming, and A1 reads invalid data from both slots,
which fails check 1: the model's choice (log entry 92). -/
def execBootRomVerify (readsValid : Bool) (s : State) : Host.Outcome State Fault Refusal :=
  if s.rst.asserted = true ∨ s.rst.stage ≠ .rom then ok s
  else
    let f0 := if readsValid then slotFault s.flash.slot0 else 1
    let f1 := if readsValid then slotFault s.flash.slot1 else 1
    let status := 4 * flag (decide (f0 ≠ 0)) + 8 * flag (decide (f1 ≠ 0)) + 32 * f1
    if f0 ≠ 0 ∧ f1 ≠ 0 then ok (s.noFirmware status)
    else if f0 = 0 ∧ (f1 ≠ 0 ∨ field s.flash.slot1 8 4 ≤ field s.flash.slot0 8 4) then ok (s.startFirmware 0 status s.flash.slot0)
    else ok (s.startFirmware 1 status s.flash.slot1)

/-- BOOT_RETRY (A1 erratum at R78): 80 ms after a double failure. -/
def execBootRetry (s : State) : Host.Outcome State Fault Refusal :=
  if s.rst.asserted = false ∧ s.rst.stage = .retryWait then ok { s with rst := { s.rst with stage := .rom, retried := true } }
  else ok s

/-! ### The configuration (05 R494; release order steps 8 and 9) -/

/-- Give objects the stored values. -/
def mergeRegs (t : Table Nat) : List (Nat × Nat) → Table Nat
  | [] => t
  | (k, v) :: r => mergeRegs (Table.put (Dict.default k) t k v) r

/-- Give DOMAIN objects the stored contents. -/
def mergeDoms (t : Table (List Byte)) : List (Nat × List Byte) → Table (List Byte)
  | [] => t
  | (k, v) :: r => mergeDoms (Table.put (domDefault k) t k v) r

/-- The stored settings take the values of an image. -/
def State.takeSettings (s : State) (regs : Table Nat) (doms : Table (List Byte)) : State :=
  let r := s.regs.filter (fun (x : Nat × Nat) => !isStored x.1)
  let d := s.doms.filter (fun (x : Nat × List Byte) => !isStored x.1)
  { s with regs := mergeRegs r (regs.filter (fun (x : Nat × Nat) => isStored x.1)),
           doms := mergeDoms d (doms.filter (fun (x : Nat × List Byte) => isStored x.1)) }

/-- Loaded shadow objects are in force from the first frame, with GENERATION at 0. -/
def State.takeShadows (s : State) : List Nat → State
  | [] => s
  | c :: t =>
    ({ s with lantern := { s.lantern with
        committed := Table.put {} s.lantern.committed c { set := s.shadow c, gen := 0, at_ := none } } }).takeShadows t

/-- The configured output levels (02 R48): not while TEST_EN holds the pads at their fuse states (04 R95). -/
def State.drivePads (s : State) : State :=
  if s.rst.testEn then s
  else { s with pins := { s.pins with fireEn := .low, headPwr := .low, faultN := .low, speedLimit := .low, aliveOut := .low, driven := true } }

/-- The first configured state: BEACON, ETH_MAC and LOOP run, the pads are driven, and the boot is logged. -/
def State.firstConfigured (s : State) : State :=
  let s := s.clearBits Obj.blockReset (2 ^ Block.beacon + 2 ^ Block.ethMac + 2 ^ Block.loop)
  let s := { s with rst := { s.rst with stage := .configured }, igrel := { s.igrel with ip := s.reg Obj.ipAddr } }
  let s := (s.drivePads).logEvent Ev.configApplied []
  s.logEvent Ev.resetSeen (le 2 (s.reg Obj.resetCause) ++ le 2 (s.reg Obj.resetDetail) ++ le 4 (s.reg Obj.resetCount))

/-- CONFIG_LOAD (R494, R78, R41): the configuration, BEACON, ETH_MAC and LOOP, and then KINDLE or the hold in DARK. -/
def execConfigLoad (s : State) : Host.Outcome State Fault Refusal :=
  if s.rst.asserted = true ∨ s.rst.stage ≠ .firmware ∨ s.mode ≠ .dark then ok s
  else
    let s : State := match s.flash.regs with
      | some r => s.takeSettings r s.flash.doms
      | none => { s.setBits Obj.bootStatus 16 with rst := { s.rst with held := true } }
    let s := ((s.ringCredits (List.range 160)).takeShadows (List.range 8)).firstConfigured
    if s.rst.held = true ∨ s.isSet Obj.bootHold = true then ok s else ok s.enterKindle

/-! ### Blocks (R69 to R74) -/

/-- LANTERN goes into reset: frames end, what is queued is gone, and the last chunk of a running tap is closed (15 R342). -/
def State.lanternReset (s : State) : State :=
  let s := if s.lantern.tap.isSome then s.endRun else s
  let old := s.lantern
  { s with lantern := { committed := old.committed, earlier := old.earlier, nextCtx := old.nextCtx } }

/-- TWIN_LINK goes into reset. -/
def State.twinReset (s : State) : State :=
  let was := s.twinHealthy
  let s := { s with twin := { s.twin with lane0 := false, lane1 := false, hbAt := none } }
  ((s.setReg (Obj.laneState 32) 0).setReg (Obj.laneState 33) 0).afterLink was

/-- RASTER goes into reset: the link is down and its lanes idle. -/
def State.rasterReset (s : State) : State :=
  let s := { s with raster := { s.raster with resent := [], resendDue := [] } }
  (s.rasterLanes 0 (List.range 10)).setReg Obj.linkState 0

/-- TAPER goes into reset: strobe outputs low, no pattern. -/
def State.taperReset (s : State) : State :=
  let s := s.dropStrobes (List.range 8)
  match s.taper.maint with
  | none => s
  | some _ => s.endMaint

/-- MOTION goes into reset: axes stop, and every gate goes low. -/
def State.motionReset (s : State) : State := s.stopAxes.emitAll ((List.range 4).map Out.gatesLow)

/-- A block goes into reset. Only what a rule names changes; its settings stand (log entry 44). -/
def State.holdBlock (s : State) (b : Nat) : State :=
  match b with
  | 0 => s.rasterReset
  | 1 => { s with decomp := { s.decomp with engines := [], waiting := [] } }
  | 3 => s.taperReset
  | 5 => s.headReset
  | 6 => s.twinReset
  | 7 => s.lanternReset
  | 8 => s.darken.ledsLow
  | 9 => s.uploadReset
  | 10 => s.checkReset
  | 11 => { s with dram := { s.dram with urgent := [], waiting := [] } }
  | 12 => s.wickReset
  | 14 => s.motionReset
  | _ => s

/-- Hold each of a list of blocks. -/
def State.holdBlocks (s : State) : List Nat → State
  | [] => s
  | b :: t => (s.holdBlock b).holdBlocks t

/-- The objects of loop slot `i` with a default under R425. -/
def loopKeys (i : Nat) : List Nat := (List.range 0x60).map (fun sub => 256 * (0x2B00 + i) + sub)

/-- LOOP is released: every slot holds its defaults (19 R425). -/
def State.loopRelease (s : State) : State :=
  let keys := (List.range 48).flatMap loopKeys
  { s with regs := s.regs.filter (fun (x : Nat × Nat) => !keys.contains x.1),
           doms := s.doms.filter (fun (x : Nat × List Byte) => !keys.contains x.1), loops := [], spi := [] }

/-- BEACON is released: its time starts again at 0 and is not valid (21). -/
def State.beaconRelease (s : State) : State :=
  ({ s with clock := { s.clock with beacon := {} } }).setReg Obj.timeValid 0

/-- A pended block is released (R71). -/
def State.releaseBlock (s : State) (b : Nat) : State :=
  match b with
  | 3 => if s.mode = .lit then s.driveFireEn else s
  | 4 => (s.startChannel 0).startChannel 1
  | 9 => s.uploadRelease
  | 12 => s.wickRelease
  | 13 => s.loopRelease
  | 14 => (List.range 4).foldl (fun s a =>
      let x := s.axis a
      s.setAxis a { x with chA := {}, chB := {} }) s
  | 15 => s.beaconRelease
  | _ => s

/-- The bits of BLOCK_RESET that a LIT write may not change from 0 to 1 (R70). -/
def litHolds : Nat := 0x187F

/-- Whether a write of BLOCK_RESET is refused in the present mode (R70). -/
def State.blockConflict (s : State) (v : Nat) : Bool :=
  decide (s.mode = .lit) && decide (clearMask (v &&& litHolds) (s.reg Obj.blockReset) ≠ 0)

/-- The bits that stay held whatever is written: those of a chip strapped MATE (12 R284), and the LED block after a short (14 R339). -/
def State.keptHeld (s : State) : Nat := s.mateHolds ||| (if s.led.faulty then 2 ^ Block.led else 0)

/-- A write of BLOCK_RESET that has been accepted (R69 to R71, R74). -/
def State.writeBlockReset (s : State) (v : Nat) : State :=
  let old := s.reg Obj.blockReset
  let v := v ||| (s.keptHeld &&& old)
  let held := clearMask v old
  let s := (s.setReg Obj.blockReset (old ||| v)).clearBits Obj.blockPended held
  let s := { s with rst := { s.rst with pendLogged := s.rst.pendLogged.filter (fun b => !held.testBit b) } }
  let s := s.holdBlocks ((List.range 17).filter held.testBit)
  (s.pendBlocks (clearMask old v)).beginLinks (clearMask old v)

/-- The clock domains that a block waits for (01 R11, 03 R72). -/
inductive Domain where
  | ref | pll | motion | rasterRx | headRx | twinRx | camera | fabric
  deriving DecidableEq, Repr

/-- The domains of a block, in the order of the settle table of R72. -/
def blockDomains (b : Nat) : List Domain :=
  match b with
  | 0 => [.pll, .rasterRx]
  | 3 | 4 | 8 | 12 | 15 => [.ref]
  | 5 => [.pll, .headRx]
  | 6 => [.pll, .twinRx]
  | 7 => [.camera, .fabric]
  | 11 | 16 => [.pll]
  | 13 => [.ref, .fabric]
  | 14 => [.motion]
  | _ => [.fabric]

/-- The settle count of a domain in its own cycles (R72). -/
def Domain.settle : Domain → Nat
  | .ref | .motion | .fabric => 256
  | .pll => 4096
  | .rasterRx | .headRx | .twinRx | .camera => 1024

/-- REF within ±2% of 200 MHz. -/
def refSteady (v : Sys2Proof.ClockView) : Bool := decide (196000 ≤ v.refKhz) && decide (v.refKhz ≤ 204000)

/-- Whether a camera port that is enabled has its PCLK between 10 and 200 MHz. -/
def State.portClocked (s : State) (v : Sys2Proof.ClockView) (p : Nat) : Bool :=
  let f := v.pclkKhz.getD p 0
  !(s.reg Obj.portEnable).testBit p || (decide (10000 ≤ f) && decide (f ≤ 200000))

/-- Whether a domain of a block is stable as it is seen (R72). -/
def State.domainStable (s : State) (v : Sys2Proof.ClockView) (d : Domain) : Bool :=
  match d with
  | .ref | .motion => refSteady v
  | .pll => v.pllLock
  | .rasterRx => v.unlocked.isEmpty
  | .headRx => s.fitted.all (fun m => !v.unlocked.contains m)
  | .twinRx => decide (s.strapped = .solo) || !(v.unlocked.contains 0 && v.unlocked.contains 1)
  | .camera => s.portClocked v 0 && s.portClocked v 1
  | .fabric => refSteady v && v.quiet

/-- Whether a domain counts as settled: stable for its count. A TWIN_RX without lanes, and camera ports that are not enabled, count at once. -/
def State.domainSettled (s : State) (v : Sys2Proof.ClockView) (d : Domain) (cycles : Nat) : Bool :=
  let none_ := (decide (d = .twinRx) && decide (s.strapped = .solo)) || (decide (d = .camera) && decide (s.reg Obj.portEnable % 4 = 0))
  s.domainStable v d && (none_ || decide (d.settle ≤ cycles))

/-- Whether a pended block may be released (R71, R72). -/
def State.mayRelease (s : State) (b : Nat) (v : Sys2Proof.ClockView) : Bool :=
  let ds := blockDomains b
  (List.range ds.length).all (fun i => s.domainSettled v (ds.getD i .ref) (v.settled.getD i 0))

/-- BLOCK_RELEASE (R71, R72): the clocks of a pended block have been stable for their settle counts. -/
def execBlockRelease (b : Fin 17) (clocks : Sys2Proof.ClockView) (s : State) : Host.Outcome State Fault Refusal :=
  if (s.reg Obj.blockPended).testBit b && s.mayRelease b clocks then
    let s := { s with rst := { s.rst with pendLogged := s.rst.pendLogged.filter (· ≠ (b : Nat)) } }
    ok ((s.clearBits Obj.blockPended (2 ^ (b : Nat))).releaseBlock b)
  else ok s

/-- RELEASE_PENDED (R73): still pended after 100 ms; logged once per pend. -/
def execReleasePended (b : Fin 17) (s : State) : Host.Outcome State Fault Refusal :=
  if (s.reg Obj.blockPended).testBit b && !s.rst.pendLogged.contains (b : Nat) then
    let s := { s with rst := { s.rst with pendLogged := (b : Nat) :: s.rst.pendLogged } }
    ok (s.logEvent Ev.releasePended (le 1 b))
  else ok s

/-! ### Sensors (01 R18, R27; 23 R490) -/

/-- The lowest site and its reading. -/
def lowestSite (sites : List Nat) : Nat × Nat :=
  (List.zip (List.range sites.length) sites).foldl (fun best x => if x.2 < best.2 then x else best) (0, sites.getD 0 0)

/-- FSI_SAMPLE (01 R18, FSI_MIN, FSI_FLOOR): every 1 ms in every mode after KINDLE. -/
def execFsiSample (sites : List Nat) (s : State) : Host.Outcome State Fault Refusal :=
  if s.mode = .dark ∨ s.mode = .kindle ∨ sites.length ≠ 4 then ok s
  else
    let (site, v) := lowestSite (sites.map (· % 2 ^ 16))
    let s := (s.setReg Obj.fsiNow v).setReg Obj.fsiSite site
    let s := if v < s.reg Obj.fsiMin then s.setReg Obj.fsiMin v else s
    let low := decide (v < s.reg Obj.fsiFloor)
    let raise := low && !s.die.fsiLow
    let s := { s with die := { s.die with fsiLow := low } }
    ok (if raise then s.logEvent Ev.fsiLow (le 2 v ++ le 1 site) else s)

/-- DIE_TEMP_SAMPLE (23 R490, 03 R60), in 1/64 °C: 125 °C resets; 115 °C holds the THERM condition until every sensor is below 105 °C. -/
def execDieTempSample (sensor : Fin 4) (t : Int) (s : State) : Host.Outcome State Fault Refusal :=
  let temps := s.die.temps.set sensor t
  let hot := temps.any (fun x => decide (7360 ≤ x)) || (s.die.hot && temps.any (fun x => decide (6720 ≤ x)))
  let s := { s with die := { s.die with temps := temps, hot := hot } }
  if 8000 ≤ t ∧ s.rst.active.contains Src_.therm = false then ok (s.takeReset Src_.therm (sensor + 1)) else ok s.standing

/-- CDC_STALL (01 R27): a crossing has not completed within 10 µs; one into the firing path takes the device to SNUFF. The crossing's number is
logged as one byte: the model's choice (log entry 94). -/
def execCdcStall (crossing : Nat) (firingPath : Bool) (s : State) : Host.Outcome State Fault Refusal :=
  if s.rst.asserted then ok s
  else
    let s := if firingPath then s.setCause Cause.cdcStall else s
    ok (s.logEvent Ev.cdcStall (le 1 crossing))

end Sys2Proof.Machine
end

