-- ==== Sys2Proof/Machine/Pads.lean ====
section
/-! DEFINITION. What the device drives each pad with, before and after configuration (04 R84 to R89, R95, R96; 03 R66, R69). -/

namespace Sys2Proof.Machine

/-! ### The fused pads of the IO band -/

/-- The number of the first of the IO band rows in each run of pads, and the codes that the IO band table lists for them: entries
(first index, number of pads, codes). A pad is 16 × row + column − 6 (R89). -/
def fusedPads : List (Nat × Nat × List Nat) := [
  (0, 10, [0, 1, 3]),
  (16, 7, [0, 1]), (23, 1, [0, 1, 3]), (24, 1, [0, 1, 2, 3]), (25, 1, [0, 1]), (26, 1, [0, 1, 3]),
  (32, 16, [0, 1]), (48, 3, [0, 1]), (51, 4, [0, 1, 2, 3]), (55, 1, [0, 1]),
  (64, 16, [0, 1]), (80, 3, [0, 1]), (83, 4, [0, 1, 2, 3]), (87, 1, [0, 1])] ++ [
  (96, 8, [0, 1, 3]), (112, 16, [0, 1, 3]), (128, 16, [0, 1, 3]), (144, 16, [0, 1, 3]), (160, 8, [0, 1]),
  (176, 2, [0, 1, 2, 3]), (178, 1, [0, 1]), (179, 4, [0, 1, 2, 3]), (183, 1, [0, 1]), (184, 2, [0, 1, 2, 3]),
  (192, 6, [0, 1, 2, 3]), (198, 6, [0, 1]), (204, 3, [0, 1, 2, 3]), (207, 1, [0, 1]),
  (208, 2, [0, 1, 2, 3]), (210, 1, [0, 1]), (211, 4, [0, 1, 2, 3]), (215, 1, [0, 1]), (216, 2, [0, 1, 2, 3])]

/-- The codes that the IO band table lists for a pad; none where the index names no fused pad. -/
def padCodes (pad : Nat) : List Nat :=
  match fusedPads.find? (fun x => decide (x.1 ≤ pad) && decide (pad < x.1 + x.2.1)) with
  | some x => x.2.2
  | none => []

/-- The pads of the boundary-scan chain: one cell for each fused pad. -/
def chainPads : List Nat := fusedPads.flatMap (fun x => (List.range x.2.1).map (fun i => x.1 + i))

/-- The number of cells in the boundary-scan chain. -/
def chainLength : Nat := sumList (fusedPads.map (fun x => x.2.1))

/-- Whether a fused pad is an input (R85): those that accept no code but HIZ and WEAK_PD. -/
def padIsInput (pad : Nat) : Bool := decide (padCodes pad = [0, 1])

/-- What the device does to a pad. -/
inductive PadDrive where
  /-- Nothing. -/
  | hiz
  /-- The pull-down of WEAK_PD, and the pull-up of QSPI_CS_N. -/
  | pullDown | pullUp
  | low | high
  /-- The block of the pad is held in reset, and the pad is at the block's idle level (03 R69). -/
  | idle
  /-- The block of the pad drives it bit by bit. -/
  | unit
  /-- The boundary-scan chain drives it (R96). -/
  | chain
  deriving DecidableEq, Repr

/-- The level of a pad that the device drives so, and of its net otherwise. -/
def PadDrive.level (d : PadDrive) (net : Bool) : Bool :=
  match d with
  | .low => false
  | .high => true
  | _ => net

/-- What a fuse code drives (R86, R88). -/
def fuseDrive (code : Nat) : PadDrive :=
  match code with
  | 1 => .pullDown
  | 2 => .high
  | 3 => .low
  | _ => .hiz

/-- A driven level. -/
def levelDrive (up : Bool) : PadDrive := if up then .high else .low

/-- A named output: at its fuse code until it is driven. -/
def Level.drive (l : Level) (code : Nat) : PadDrive :=
  match l with
  | .fuse => fuseDrive code
  | .hiz => .hiz
  | .low => .low
  | .high => .high

/-! ### Levels that blocks drive -/

/-- Whether the target current of a phase is positive (20 R430). -/
def positivePhase (ph : Phase) (mu : Nat) : Bool :=
  match ph with
  | .a => decide (mu ≤ 256) || decide (768 ≤ mu)
  | .b => decide (mu ≤ 512)

/-- Level of a gate of a phase, H1, L1, H2 and L2 in turn (20 R429, R431): low unless the chopper runs; while it drives, H1 and L2 for a
positive current and H2 and L1 for a negative one; in decay both low sides. -/
def State.gateHigh (s : State) (a : Nat) (ph : Phase) (gate : Nat) : Bool :=
  let on := if ((s.axis a).chop ph).driving then (if positivePhase ph (s.reg (Obj.axPosition a) % 1024) then [0, 3] else [2, 1]) else [1, 3]
  s.chopping a && on.contains gate

/-- The block of an output pad, where one holds it (03 R69). -/
def padBlock (pad : Nat) : Option Nat :=
  if pad < 9 then some Block.taper
  else if 51 ≤ pad ∧ pad < 88 then some Block.lantern
  else if 96 ≤ pad ∧ pad < 128 then some Block.led
  else if 128 ≤ pad ∧ pad < 160 then some Block.motion
  else if (176 ≤ pad ∧ pad < 186) ∨ (208 ≤ pad ∧ pad < 218) then some Block.loop
  else if 192 ≤ pad ∧ pad < 206 then some Block.ethMac
  else none

/-- Whether the block of a pad is held. -/
def State.padHeld (s : State) (pad : Nat) : Bool :=
  match padBlock pad with
  | some b => !s.blockUp b
  | none => false

/-- The place of an SPI pad in its port: SCK, MOSI, MISO, CS_N, CNV. -/
def spiPlace (pad : Nat) : Option Nat :=
  if 176 ≤ pad ∧ pad < 186 then some ((pad - 176) % 5) else if 208 ≤ pad ∧ pad < 218 then some ((pad - 208) % 5) else none

/-- An SPI output (19 R422, R423): HIZ on a MATE; in DARK and KINDLE CS_N high and the others low; else by its transactions. -/
def State.spiDrive (s : State) (place : Nat) : PadDrive :=
  if s.role = .mate then .hiz
  else if s.mode = .dark ∨ s.mode = .kindle then levelDrive (decide (place = 3))
  else .unit

/-- What an output of the IO band is driven with once the configured levels are applied (R85): the strobes, the LED matrix, the gates and
the camera selects by their levels, and the others by their blocks. -/
def State.unitDrive (s : State) (pad : Nat) : PadDrive :=
  if pad < 8 then levelDrive (s.pins.strobesHigh.contains pad)
  else if 96 ≤ pad ∧ pad < 104 then levelDrive (s.led.row s.nowPs (pad - 96))
  else if 112 ≤ pad ∧ pad < 128 then levelDrive (s.led.col s.nowPs (pad - 112))
  else if 128 ≤ pad ∧ pad < 160 then
    levelDrive (s.gateHigh ((pad - 128) / 8) (if (pad - 128) % 8 < 4 then .a else .b) ((pad - 128) % 4))
  else if s.padHeld pad then .idle
  else if pad = 51 ∨ pad = 52 then levelDrive ((Table.get 0 s.lantern.sel 0).testBit (pad - 51))
  else if pad = 83 ∨ pad = 84 then levelDrive ((Table.get 0 s.lantern.sel 1).testBit (pad - 83))
  else match spiPlace pad with
    | some place => s.spiDrive place
    | none => .unit

/-! ### Pads -/

/-- The code that a fused pad holds: as latched at the latest sensing. -/
def State.heldCode (s : State) (pad : Nat) : Nat := Table.get 0 s.fuses.latched pad

/-- A fused output: at its code until the configuration drives it (R86). -/
def State.outDrive (s : State) (pad : Nat) : PadDrive :=
  let code := s.heldCode pad
  match pad with
  | 8 => s.pins.fireEn.drive code
  | 9 => s.pins.headPwr.drive code
  | 23 => s.pins.faultN.drive code
  | 24 => s.pins.speedLimit.drive code
  | 26 => s.pins.aliveOut.drive code
  | _ => if s.pins.driven then s.unitDrive pad else fuseDrive code

/-- What the device does to a fused pad: EXTEST and CLAMP drive it from the chain, and HIGHZ floats it (R96). -/
def State.padDrive (s : State) (pad : Nat) : PadDrive :=
  if padIsInput pad then fuseDrive (s.heldCode pad)
  else if s.jtag.control then .chain
  else if s.jtag.float then .hiz
  else s.outDrive pad

/-- Whether the pull-down of WEAK_PD is connected (R88): on an input it stays, on an output until the pad is first driven. -/
def State.pulledDown (s : State) (pad : Nat) : Bool := decide (s.padDrive pad = .pullDown)

/-- The pads without a fuse (R85). -/
inductive FixedPad where
  | qspiSck | qspiCsN | qspiIo | tdo
  deriving DecidableEq, Repr

/-- What the device does to a pad without a fuse: QSPI_CS_N has its pull-up from power-on and is driven high from step 4, QSPI_SCK is driven
low, and TDO is HIZ unless the TAP is shifting. The NOR is read and written through its controller, whose bits the model does not follow. -/
def State.fixedDrive (s : State) (p : FixedPad) (shifting : Bool) : PadDrive :=
  match p with
  | .qspiSck => .low
  | .qspiCsN => if s.rst.asserted then .pullUp else .high
  | .qspiIo => .hiz
  | .tdo => if shifting then .unit else .hiz

/-- The pads of an LPDDR5 channel (R84). -/
inductive DramPad where
  | resetN | cs (i : Nat) | ckT | other
  deriving DecidableEq, Repr

/-- What the device does to a DRAM pad: from reset until training DRAM_RESET_N, CS0, CS1 and CK_T are low, and the others HIZ. -/
def State.dramPad (s : State) (p : DramPad) : PadDrive :=
  if s.dram.trained then .unit
  else match p with
    | .other => .hiz
    | _ => .low

end Sys2Proof.Machine
end

