-- ==== Sys2Proof/Machine/Fuse.lean ====
section
/-! DEFINITION. The fuse map (04 R86 to R92) and the JTAG TAP (04, JTAG; R96). -/

namespace Sys2Proof.Machine

/-! ### The fuse map -/

/-- Whether a code may be blown into a pad whose present code is `old` (R87): HIZ to any code, WEAK_PD or HIGH to LOW. -/
def codeReachable (old new : Nat) : Bool := decide (old = 0) || (decide (old = 1 ∨ old = 2) && decide (new = 3))

/-- The code of a pad, sensed now. -/
def State.padCode (s : State) (pad : Nat) : Nat := Table.get 0 s.fuses.blown pad

/-- FUSE_STATUS as it reads. -/
def State.fuseStatusNow (s : State) : Nat :=
  flag s.fuses.vppOk + 2 * flag s.fuses.locked + 4 * flag s.fuses.verifyFail + 8 * flag s.fuses.job.isSome

/-- Whether fuses may be programmed now (R90): in DARK, with BOOT_HOLD at 1 and VPP_FUSE good. -/
def State.fusesOpen (s : State) : Bool := decide (s.mode = .dark) && s.isSet Obj.bootHold && s.fuses.vppOk

/-- A write of FUSE_PAD_PROGRAM that has been accepted: the fuse bits are being blown, and its reply waits. -/
def State.startFuse (s : State) (h : Hdr) (payload : List Byte) (code : Nat) : State :=
  let job : FuseJob := { h := h, pad := s.reg Obj.fusePadIndex, code := code }
  { s with fuses := { s.fuses with job := some job },
           igrel := { s.igrel with deferred := { h := h, ty := 0x11, payload := payload } :: s.igrel.deferred } }

/-- Answer the write that waits for the fuses. -/
def State.answerFuse (s : State) (h : Hdr) (r : Reply) : State :=
  match s.igrel.deferred.find? (fun d => decide (d.h = h) && decide (d.ty = 0x11)) with
  | some d => s.finish d r
  | none => s

/-- FUSE_PROGRAM_COMPLETE (R92): the pad is sensed again. `blown` has the bits that blew. -/
def execFuseProgramComplete (blown : Nat) (s : State) : Host.Outcome State Fault Refusal :=
  match s.fuses.job with
  | none => ok s
  | some j =>
    let now := s.padCode j.pad ||| (blown % 4)
    let bad := decide (now ≠ j.code)
    let fuses := { s.fuses with blown := Table.put 0 s.fuses.blown j.pad now, verifyFail := bad, job := none }
    let r : Reply := if bad then .abort 0x06090030 0 0x1200 0x0D else .ok []
    ok (({ s with fuses := fuses }).answerFuse j.h r)

/-! ### The TAP (04 JTAG) -/

/-- An instruction of the TAP is in force. -/
def State.tap (s : State) (ir : Nat) (sel : JtagSel) (control float : Bool) : State :=
  { s with jtag := { s.jtag with ir := ir, sel := sel, control := control, float := float } }

/-- Where the TEST_EN pin reads high, EXTEST and CLAMP take control of the pads; elsewhere they are BYPASS (R96). -/
def State.tapControl (s : State) (ir : Nat) (sel : JtagSel) : State :=
  if s.rst.testEn then s.tap ir sel true false else s.tap ir .bypass false false

/-- JTAG_EXTEST (R96): the boundary register drives the pads. -/
def execJtagExtest (s : State) : Host.Outcome State Fault Refusal := ok (s.tapControl 0x00 .boundary)

/-- JTAG_CLAMP (R96): the pads are held, and the bypass register is selected. -/
def execJtagClamp (s : State) : Host.Outcome State Fault Refusal := ok (s.tapControl 0x04 .bypass)

/-- JTAG_IDCODE. -/
def execJtagIdcode (s : State) : Host.Outcome State Fault Refusal := ok (s.tap 0x01 .idcode false false)

/-- The value that IDCODE shifts out on A1. -/
def idcode : Nat := 0x011201A5

/-- JTAG_SAMPLE_PRELOAD: the levels of the pads are captured in the boundary register; the pads are only observed. An output that the device
drives to a level is captured at it, and `cells` has the levels of the nets of the others. -/
def execJtagSamplePreload (cells : List Bool) (s : State) : Host.Outcome State Fault Refusal :=
  let s := s.tap 0x02 .boundary false false
  ok { s with jtag := { s.jtag with captured := (List.zip chainPads cells).map (fun x => (s.padDrive x.1).level x.2) } }

/-- JTAG_HIGHZ: the chain's outputs float where boundary scan may drive pads at all; elsewhere it observes only (R96). -/
def execJtagHighz (s : State) : Host.Outcome State Fault Refusal := ok (s.tap 0x05 .bypass false s.rst.testEn)

/-- JTAG_BYPASS: 0x3F and every code that the table does not list. -/
def execJtagBypass (code : Nat) (s : State) : Host.Outcome State Fault Refusal :=
  if [0x00, 0x01, 0x02, 0x04, 0x05].contains (code % 64) then ok s else ok (s.tap (code % 64) .bypass false false)

/-- JTAG_TAP_RESET (03 R65): IDCODE is selected. -/
def execJtagTapReset (s : State) : Host.Outcome State Fault Refusal := ok (s.tap 0x01 .idcode false false)

end Sys2Proof.Machine
end

