-- ==== Sys2Proof/Machine/Operands.lean ====
section
/-! DEFINITION. The operand forms of Igrel (05): abort codes, values on the wire and the values a type admits, entries of a reply, the
payload of each request type. -/

namespace Sys2Proof.Machine

/-! ### Abort codes (R121) -/

namespace Abort
def blockTimeout : Nat := 0x05040000
def blockWindow : Nat := 0x05040003
def blockSum : Nat := 0x05040004
def writeOnly : Nat := 0x06010001
def readOnly : Nat := 0x06010002
def noIndex : Nat := 0x06020000
def badType : Nat := 0x06070010
def noSub : Nat := 0x06090011
def range : Nat := 0x06090030
def lowLevel : Nat := 0x08000021
def conflict : Nat := 0x08000022
def noSession : Nat := 0x08000023
def authFail : Nat := 0x08000025
end Abort

/-! ### Values (R109, R110) -/

/-- Whether a binary32 word is a NaN. -/
def isNan (w : Nat) : Bool := decide (bits w 30 23 = 255) && decide (bits w 22 0 ≠ 0)

/-- Whether the raw bits are a value of the type (R109, R110). -/
def typeOk (ty : Dict.Ty) (v : Nat) : Bool :=
  match ty with
  | .bool => decide (v < 2)
  | .f32 => !isNan v
  | .bf24 => (Bf24.normalise v).isSome
  | .time80 => decide (v / 2 ^ 48 < 1000000000)
  | _ => true

/-- The raw bits that the device stores for a value: BF24 normalised (R110). -/
def storedBits (ty : Dict.Ty) (v : Nat) : Nat :=
  match ty with
  | .bf24 => (Bf24.normalise v).getD 0
  | _ => v

/-- The number that raw bits spell. -/
def numberOf (ty : Dict.Ty) (v : Nat) : Int := if ty.signed then toSigned (8 * ty.bytes) v else v

/-- Whether a row's own range admits a value (R7, R8). -/
def chkOk (c : Dict.Chk) (ty : Dict.Ty) (v : Nat) : Bool :=
  match c with
  | .any => true
  | .range lo hi => decide (lo ≤ numberOf ty v) && decide (numberOf ty v ≤ hi)
  | .rangeOr lo hi other => (decide (lo ≤ numberOf ty v) && decide (numberOf ty v ≤ hi)) || decide (numberOf ty v = other)
  | .oneOf l => l.contains v
  | .mask m => decide (clearMask v m = 0)

/-- An object's row, or the abort of R106. -/
def findObj (key : Nat) : Except Nat Dict.ObjRow :=
  if Dict.indexExists (key / 256) then
    match Dict.row key with
    | some r => .ok r
    | none => .error Abort.noSub
  else .error Abort.noIndex

/-! ### Entries of a REPLY to READ (R105) -/

/-- Bytes padded with zeros to a multiple of 4. -/
def pad4 (l : List Byte) : List Byte := l ++ zeros ((4 - l.length % 4) % 4)

/-- The entry of an object that was read. -/
def goodEntry (ty : Dict.Ty) (v : Nat) : List Byte := zeros 4 ++ le 1 ty.code ++ le 1 ty.bytes ++ zeros 2 ++ pad4 (le ty.bytes v)

/-- The entry of an object that was not read: the status and no value. -/
def badEntry (code : Nat) : List Byte := le 4 code ++ zeros 4

/-! ### Payloads (05, message types; R495) -/

/-- The object that 4 bytes name: index U16, subindex U8, one reserved byte; none where that byte is not 0. -/
def keyAt (p : List Byte) (off : Nat) : Option Nat :=
  if field p (off + 3) 1 = 0 then some (256 * field p off 2 + field p (off + 2) 1) else none

/-- A list of objects, 4 bytes each. -/
def keysAt (p : List Byte) (off : Nat) : Nat → Option (List Nat)
  | 0 => some []
  | n + 1 => do
    let k ← keyAt p off
    let t ← keysAt p (off + 4) n
    some (k :: t)

/-- READ: count, 3 reserved bytes, the objects. -/
def parseRead (p : List Byte) : Option (List Nat) :=
  let n := field p 0 1
  if 1 ≤ n ∧ n ≤ 32 ∧ p.length = 4 + 4 * n ∧ field p 1 3 = 0 then keysAt p 4 n else none

/-- A WRITE: the object, the type code, and the value's bytes. -/
structure WriteReq where
  key : Nat
  ty : Nat
  value : List Byte
  deriving DecidableEq, Repr

/-- WRITE: index, subindex, type code, length, 2 reserved bytes, the value. -/
def parseWrite (p : List Byte) : Option WriteReq :=
  if 8 ≤ p.length ∧ field p 4 2 = p.length - 8 ∧ field p 6 2 = 0 then
    some { key := 256 * field p 0 2 + field p 2 1, ty := field p 3 1, value := p.drop 8 }
  else none

/-- The payload of a WRITE of a value to an object, with the object's own type. -/
def writePayload (key v : Nat) : List Byte :=
  match Dict.row key with
  | none => le 2 (key / 256) ++ le 1 (key % 256) ++ zeros 5
  | some r => le 2 (key / 256) ++ le 1 (key % 256) ++ le 1 r.ty.code ++ le 2 r.ty.bytes ++ zeros 2 ++ le r.ty.bytes v

/-- DESCRIBE: one object. -/
def parseDescribe (p : List Byte) : Option Nat := if p.length = 4 then keyAt p 0 else none

/-- A BLOCK_START. -/
structure BlockReq where
  key : Nat
  reading : Bool
  total : Nat
  crc : Nat
  deriving DecidableEq, Repr

/-- BLOCK_START: object, direction, total length, CRC-32C; the last two are 0 for a read. -/
def parseBlock (p : List Byte) : Option BlockReq :=
  let r : BlockReq := { key := 256 * field p 0 2 + field p 2 1, reading := decide (field p 3 1 = 1), total := field p 4 4, crc := field p 8 4 }
  if p.length = 12 ∧ field p 3 1 < 2 ∧ (r.reading = false ∨ (r.total = 0 ∧ r.crc = 0)) then some r else none

/-- BLOCK_SEGMENT: number and 1 to 1,024 data bytes. -/
def parseSegment (p : List Byte) : Option (Nat × List Byte) :=
  if 5 ≤ p.length ∧ p.length ≤ 1028 then some (field p 0 4, p.drop 4) else none

/-- BLOCK_ACK: the next segment expected. -/
def parseAck (p : List Byte) : Option Nat := if p.length = 4 then some (field p 0 4) else none

/-- SUBSCRIBE: period, count, one reserved byte, the objects. -/
def parseSubscribe (p : List Byte) : Option (Nat × List Nat) :=
  let n := field p 2 1
  if n ≤ 16 ∧ p.length = 4 + 4 * n ∧ field p 3 1 = 0 then (keysAt p 4 n).map (fun l => (field p 0 2, l)) else none

end Sys2Proof.Machine
end

