-- ==== Sys2Proof/Machine/Reads.lean ====
section
/-! DEFINITION. What a read of an object gives: the stored value, or what the object reports of the state at the moment of the
read. -/

namespace Sys2Proof.Machine

/-! ### Objects that report the state -/

/-- STRIP_STATE of a strip (08, objects). -/
def State.stripState (s : State) (st : Nat) : Nat :=
  if s.blockUp Block.strip = false then 0
  else if s.populated (st / 4) = false then 1
  else if s.mode = .lit ∨ s.taper.maint.any (fun m => m.running) = true then 3
  else 2

/-- CTX_STATE of a context (07, objects). -/
def State.ctxState (s : State) (k : Nat) : Nat :=
  let c := s.ctx k
  if c.rewind.isSome then 2 else if c.work.poisoned then 3 else if s.engineBusy k then 1 else 0

/-- The objects of single indexes that are computed when they are read. -/
def State.computedReg (s : State) (key : Nat) : Option Nat :=
  match key with
  | 0x110001 => some s.mode.code
  | 0x110006 => some s.litBlockers
  | 0x110007 => some s.role.code
  | 0x11000D => some s.strapped.code
  | 0x12000C => some (s.padCode (s.reg Obj.fusePadIndex))
  | 0x12000E => some s.fuseStatusNow
  | 0x100005 => some s.flash.kindleCount
  | 0x100006 => some s.flash.kindleLast
  | 0x100007 => some s.flash.kindleFails
  | 0x10100C => some s.igrel.sessions.length
  | 0x200004 => some s.raster.pages.length
  | 0x250001 => some s.twinStatus
  | 0x250002 => some s.partnerMode
  | 0x250003 => some s.digest
  | 0x2D0001 => some s.now
  | 0x2D0013 => some s.ptpState
  | _ => none

/-- The objects of repeated indexes and subindices that are computed when they are read. -/
def State.computedUnit (s : State) (key : Nat) : Option Nat :=
  let idx := key / 256
  let sub := key % 256
  if 0x2100 ≤ idx ∧ idx < 0x21A0 ∧ sub = 0x10 then some (s.ctxState (idx - 0x2100))
  else if 0x2200 ≤ idx ∧ idx < 0x2280 ∧ sub = 0x01 then some (s.stripState (idx - 0x2200))
  else if 0x2200 ≤ idx ∧ idx < 0x2280 ∧ sub = 0x0C then some (s.outNozzles (idx - 0x2200))
  else if key = Obj.speed 0 then some (ofSigned 32 (s.speed 0))
  else if key = Obj.speed 1 then some (ofSigned 32 (s.speed 1))
  else if idx = 0x2900 ∧ 0x10 ≤ sub ∧ sub < 0x90 ∧ sub % 8 = 7 then some (s.ownerNow ((sub - 0x10) / 8))
  else if idx = 0x2900 ∧ 0x10 ≤ sub ∧ sub < 0x40 ∧ (sub % 8 = 3 ∨ sub % 8 = 4) ∧ s.blockUp Block.check = true then
    some (Config.boundUnit key s.out.length s.clock.cycles % 2 ^ 32)
  else if idx = 0x1400 ∧ 0x10 ≤ sub ∧ sub < 0x40 ∧ sub % 16 = 3 then
    some (ofSigned 64 (quot 22 (s.poolLevel ((sub - 0x10) / 16)) 1000))
  else if idx = 0x2C00 ∧ 0x20 ≤ sub ∧ sub < 0xA0 then
    let a := (sub - 0x20) / 32
    match (sub - 0x20) % 32 with
    | 0x00 => some (s.axisState a)
    | 0x03 => some (ofSigned 32 (s.axisVelocity a))
    | 0x0D => some (s.offsetNow a)
    | _ => none
  else none

/-- The value of an object that is not a DOMAIN, as a read gives it. -/
def State.readReg (s : State) (key : Nat) : Nat :=
  match s.computedReg key with
  | some v => v
  | none =>
    match s.computedUnit key with
    | some v => v
    | none => s.reg key

/-- Whether an object is RUNNING or RESULT of a bound unit (16 R358): what it reads as the spec does not say (log entry 5). -/
def boundReading (key : Nat) : Bool :=
  let sub := key % 256
  decide (key / 256 = 0x2900) && decide (0x10 ≤ sub) && decide (sub < 0x10 + 48) && (decide (sub % 8 = 3) || decide (sub % 8 = 4))

/-- Read an object that is not a DOMAIN. -/
def State.readObj (s : State) (key : Nat) : Nat × State := if boundReading key then s.fresh 32 else (s.readReg key, s)

/-! ### DOMAIN objects -/

/-- An entry of the Yilloger in its 32 bytes (22 R468). -/
def YEntry.bytes (e : YEntry) : List Byte :=
  le 2 e.code ++ le 1 e.mode ++ le 1 e.flags ++ le 4 e.index ++ le 10 e.time ++ le 2 e.resets ++ padTo 12 e.detail

/-- YLOG_IMAGE (22 R469): entry i at byte 32 × (i mod 4,096). -/
def State.ylogBytes (s : State) : List Byte :=
  let next := s.reg Obj.ylogNext
  (List.range 4096).flatMap (fun i =>
    match s.ylog.entries[(next + 4095 - i) % 4096]? with
    | some e => e.bytes
    | none => zeros 32)

/-- `n` entries of `w` bytes. -/
def fill (n w v : Nat) : List Byte := (List.range n).flatMap (fun _ => le w v)

/-- The bytes of a report that nothing has been written into (log entry 6). -/
def emptyReport (key : Nat) : List Byte :=
  let idx := key / 256
  let sub := key % 256
  if 0x2400 ≤ idx ∧ idx < 0x2420 ∧ sub = 0x1B then zeros 72
  else if key = Obj.promotionLines then zeros 32
  else if idx = 0x2600 ∧ sub % 16 = 0x0C ∧ 0x1C ≤ sub ∧ sub < 0x90 then zeros 64
  else if key = Obj.uploadResult ∨ key = Obj.lastResult 0 ∨ key = Obj.lastResult 1 then zeros 48
  else if key = Obj.trainResult then zeros 128
  else if key = Obj.tempKindle then zeros 8
  else []

/-- A table of a camera context or of the LEDs at its default (13, 14). -/
def State.defaultTable (s : State) (key : Nat) : List Byte :=
  let sub := key % 256
  if key = Obj.calCodes then fill 128 1 255
  else if key / 256 = 0x2600 ∧ 0x90 ≤ sub ∧ sub < 0x98 then fill (s.reg (Obj.pixelsPerLine (sub - 0x90))) 2 0
  else if key / 256 = 0x2600 ∧ 0x98 ≤ sub ∧ sub < 0xA0 then fill (s.reg (Obj.pixelsPerLine (sub - 0x98))) 2 0x1000
  else if key / 256 = 0x2600 ∧ 0xA8 ≤ sub ∧ sub < 0xB0 then fill (s.reg (Obj.pixelsPerLine (sub - 0xA8))) 4 0
  else emptyReport key

/-- The content of a DOMAIN object, as a block read gives it. -/
def State.readDom (s : State) (key : Nat) : List Byte :=
  if key = Obj.healthActive then healthBytes s.health.active
  else if key = Obj.healthPending then healthBytes s.health.pending
  else if key = Obj.skipLedger then s.ledgerImage
  else if key = Obj.ylogImage then s.ylogBytes
  else if key = Obj.fwSlot0 then s.flash.slot0
  else if key = Obj.fwSlot1 then s.flash.slot1
  else if 0x2100 ≤ key / 256 ∧ key / 256 < 0x21A0 then (s.ctx (key / 256 - 0x2100)).ckpt.image
  else if s.domBytes key = [] then s.defaultTable key
  else s.domBytes key

/-! ### A read as a request makes it -/

/-- Whether Igrel answers an object in DARK (02 R46). -/
def darkObject (key : Nat) (r : Dict.ObjRow) : Bool :=
  [0x1000, 0x1010, 0x1100, 0x1200].contains (key / 256) || r.modes.testBit 0

/-- Whether an object is held back in the present mode (02 R46). -/
def State.heldBackObj (s : State) (key : Nat) (r : Dict.ObjRow) : Bool := decide (s.mode = .dark) && !darkObject key r

/-- The entry of one object of a READ (R105), and the state after it: a state conflict of a request is counted (02 R49); telemetry
is no request. A key, which is both write-only and a DOMAIN, reads with 0x0601_0001: the model's choice (log entry 93). -/
def State.readEntry (s : State) (counted : Bool) (key : Nat) : List Byte × State :=
  match findObj key with
  | .error c => (badEntry c, s)
  | .ok r =>
    if r.acc = .wo then (badEntry Abort.writeOnly, s)
    else if r.ty = .domain then (badEntry Abort.badType, s)
    else if s.heldBackObj key r then (badEntry Abort.conflict, if counted then s.conflict key else s)
    else
      let (v, s) := s.readObj key
      (goodEntry r.ty v, s)

/-- The entries of the objects of a READ, in the order requested. -/
def State.readEntries (s : State) (counted : Bool) : List Nat → List Byte × State
  | [] => ([], s)
  | k :: t =>
    let (e, s) := s.readEntry counted k
    let (rest, s) := s.readEntries counted t
    (e ++ rest, s)

/-- The values of a list of objects in the layout of a READ reply. -/
def State.readReply (s : State) (counted : Bool) (keys : List Nat) : List Byte × State :=
  let (e, s) := s.readEntries counted keys
  (le 1 keys.length ++ zeros 3 ++ e, s)

end Sys2Proof.Machine
end

