-- ==== Sys2Proof/Machine/Writes.lean ====
section
/-! DEFINITION. The checks that a write of a single object passes (02 R46 to R58, 05 R106, R493, and the bounds of each chapter's objects), in
the order of R50. -/

namespace Sys2Proof.Machine

/-- A check has failed: the abort code, and whether it counts as a state conflict (02 R49). -/
structure Bad where
  code : Nat
  counted : Bool
  deriving DecidableEq, Repr

/-- The checks in their order: the first that fails. -/
def firstFail : List (Bool × Bad) → Option Bad
  | [] => none
  | (fails, b) :: t => if fails then some b else firstFail t

/-! ### Where an object belongs -/

/-- Slot of a loop object, and its subindex. -/
def loopOf (key : Nat) : Option (Nat × Nat) :=
  if 0x2B00 ≤ key / 256 ∧ key / 256 < 0x2B30 then some (key / 256 - 0x2B00, key % 256) else none

/-- Axis of an object of 0x2C00, and its place among the axis's objects. -/
def axisOf (key : Nat) : Option (Nat × Nat) :=
  if key / 256 = 0x2C00 ∧ 0x20 ≤ key % 256 ∧ key % 256 < 0xA0 then some ((key % 256 - 0x20) / 32, key % 32) else none

/-- Context of a camera object, and its place. -/
def cameraOf (key : Nat) : Option (Nat × Nat) :=
  if key / 256 = 0x2600 ∧ 0x10 ≤ key % 256 ∧ key % 256 < 0x90 then some (key % 256 / 16 - 1, key % 16) else none

/-- Check-value unit of an object, and its place. -/
def unitOf (key : Nat) : Option (Nat × Nat) :=
  if key / 256 = 0x2900 ∧ 0x10 ≤ key % 256 ∧ key % 256 < 0x90 then some ((key % 256 - 0x10) / 8, key % 8) else none

/-! ### Read-only and locked objects (04 R90, 16 R358) -/

/-- Whether an object that its table calls writable is locked. -/
def State.lockedObj (s : State) (key : Nat) : Bool :=
  (decide (key = Obj.fusePadProgram) && s.fuses.locked) ||
    match unitOf key with
    | some (u, _) => decide (u < 6)
    | none => false

/-- Whether a row refuses every write. -/
def rowReadOnly (r : Dict.ObjRow) : Bool := decide (r.acc = .ro) || decide (r.acc = .const)

/-! ### State conflicts (02 R49) -/

/-- Whether a maintenance operation is active (02 R43): a move that has been asked for, a purge and spit that waits for leave or has it, or a
pattern. -/
def State.maintaining (s : State) : Bool :=
  s.taper.maint.isSome || s.purging || [0, 1, 2, 3].any (fun a => (s.axis a).act.going || decide ((s.axis a).act = .asking))

/-- Whether MODE_REQUEST refuses a value in the present mode (R40 to R47, R55, R58, 04 R94, R95). Value 0 names no transition from any mode;
in DARK it names the present mode, and is refused as a reserved encoding. -/
def State.modeConflict (s : State) (v : Nat) : Bool :=
  if v = 0 then decide (s.mode ≠ .dark)
  else match s.mode with
    | .dark => decide (v ≠ 1) || decide (s.strapped = .invalid) || s.rst.testEn || !s.configured
    | .kindle => true
    | .snuff => !(decide (v = 5) || (decide (v = 2) && !s.hasCause && !s.pins.safeStopLow))
    | .pilot =>
      if v = 5 then false
      else if s.role = .mate then true
      else !(decide (v = 2) || (decide (v = 3) && !s.dram.litDue) || (decide (v = 4) && decide (s.litBlockers = 0)))
    | .trim =>
      if v = 5 then false
      else if s.role = .mate then true
      else !(decide (v = 3) || (decide (v = 2) && !s.maintaining))
    | .lit =>
      if v = 5 then false
      else if s.role = .mate then true
      else !(decide (v = 2) || decide (v = 4))

/-- The strip settings that stand still while a maintenance pattern fires (08 R190, R195). -/
def stripSetting (key : Nat) : Bool :=
  decide (key = Obj.densityTrim) || decide (key = Obj.placementTrim) || decide (key = Obj.blendPattern) ||
    (decide (0x2200 ≤ key / 256) && decide (key / 256 < 0x2280) && decide (0x0D ≤ key % 256))

/-- Whether an object belongs to the bank in force of its slot (19 R416). -/
def State.bankInForce (s : State) (key : Nat) : Bool :=
  match loopOf key with
  | some (i, sub) => decide (0x40 ≤ sub) && decide (sub < 0x50) && decide ((sub - 0x40) / 8 = s.bank i)
  | none => false

/-- Whether an axis refuses a command (20 R434, R437, R438). -/
def State.axisConflict (s : State) (key v : Nat) : Bool :=
  match axisOf key with
  | some (a, 0x02) => !s.mayMove a
  | some (a, 0x18) => decide (v = 1) && !s.mayHome a
  | _ => false

/-- Whether any camera context is enabled. -/
def State.anyCamera (s : State) : Bool := (List.range 8).any (fun c => s.isSet (Obj.ctxEnable c))

/-- What conflicts with the state beside the mode, object by object. `v` is the value to be written; a DOMAIN object has none. -/
def State.objConflict (s : State) (key v : Nat) : Bool :=
  if key = Obj.modeRequest then s.modeConflict v
  else if key = Obj.blockReset then s.blockConflict v
  else if key = Obj.fusePadProgram ∨ key = Obj.fuseLock then !s.fusesOpen
  else if key = Obj.maintStart then s.taper.maint.isSome
  else if key = Obj.swapRequest then decide (v = 1) && s.swapPage.isNone
  else if key = Obj.calCodes then s.anyCamera
  else if key = Obj.fwSlot0 then s.coreRuns && decide (s.reg Obj.bootStatus % 4 = 0)
  else if key = Obj.fwSlot1 then s.coreRuns && decide (s.reg Obj.bootStatus % 4 = 1)
  else if stripSetting key then s.patternRuns
  else s.bankInForce key || s.axisConflict key v

/-- A mate leaves to its primary the writes that R285 forwards. -/
def State.mateConflict (s : State) (key : Nat) : Bool :=
  decide (s.role = .mate) && s.twinHealthy && decide (s.partnerRole = 1) && !isLocal key

/-- Whether a write of an object conflicts with the state. -/
def State.writeConflict (s : State) (r : Dict.ObjRow) (key v : Nat) : Bool :=
  !r.modes.testBit s.mode.code || s.mateConflict key || s.objConflict key v

/-! ### Values (00 R7, R8; 05 R109, R110; the bounds of the chapters) -/

/-- Objects in which a reserved bit is ignored (R7). -/
def ignoresReserved (key : Nat) : Bool := isW1c key || decide (key = Obj.snuffCauseClear) || decide (key = Obj.resetCauseClear)

/-- The code of a current in mA on an axis (20 R428): a tie is free (log entry 12). -/
def State.currentCode (s : State) (a i : Nat) : Nat := (nearest 23 (100 * (i * s.reg (Obj.shunt a)) : Nat) 48828).toNat

/-- RUN_CURRENT against the reference's 10 bits. -/
def State.runCurrentOk (s : State) (a i : Nat) : Bool :=
  let c := s.reg (Obj.cmpCal a)
  decide (s.currentCode a i + Nat.max (c % 1024) (c / 2 ^ 16 % 1024) + 63 ≤ 1023)

/-- The bounds of an axis's objects (20). -/
def State.axisValueOk (s : State) (a place v : Nat) : Bool :=
  match place with
  | 0x04 => decide (s.reg (Obj.homeSpeed a) ≤ v)
  | 0x07 => s.runCurrentOk a v && decide (s.reg (Obj.holdCurrent a) ≤ v) && decide (s.reg (Obj.homeCurrent a) ≤ v)
  | 0x08 => decide (v ≤ s.reg (Obj.runCurrent a))
  | 0x10 => decide (v ≤ s.reg (Obj.vMax a))
  | 0x11 => decide (v ≤ s.reg (Obj.runCurrent a))
  | _ => true

/-- Whether SOURCE_ARG fits a SOURCE (19 R403). -/
def sourceArgOk (source arg : Nat) : Bool :=
  match source with
  | 1 => decide (arg < 256) && decide (arg / 32 ≤ 5)
  | 2 => decide (arg < 4)
  | 3 => decide (arg < 3)
  | 4 => decide (arg < 48)
  | _ => true

/-- Whether ACTUATOR_ARG fits an ACTUATOR. -/
def actuatorArgOk (act arg : Nat) : Bool := if act = 2 then decide (arg < 4) else decide (arg < 32)

/-- SPI_CFG (19). -/
def spiCfgOk (v : Nat) : Bool :=
  decide (2 ≤ bits v 7 1) && decide (bits v 7 1 ≤ 100) && decide (8 ≤ bits v 13 8) && decide (bits v 13 8 ≤ 32) &&
    decide (8 ≤ bits v 18 14) && decide (bits v 18 14 ≤ 24) && decide (v < 2 ^ 20)

/-- FF_SOURCE (19 R413). -/
def ffSourceOk (v : Nat) : Bool := decide (v ≤ 2) || (decide (0x40 ≤ v) && decide (v < 0x40 + 48))

/-- R410: a slot that names a limiter is named by none, and its limiter has ACTUATOR 0. -/
def State.limitersOk (s : State) : Bool :=
  (List.range 48).all (fun i =>
    let l := s.reg (Obj.limiter i)
    decide (l = 255) || (decide (s.reg (Obj.actuator l) = 0) && decide (s.reg (Obj.limiter l) = 255)))

/-- The inactive bank may come into force (19 R412, R417). -/
def gainRises (b : List Byte) : Bool :=
  (List.range 7).all (fun j => !Bf24.lt (field b (8 * (j + 1)) 4) (field b (8 * j) 4))

def State.bankOk (s : State) (i : Nat) : Bool :=
  let b := 1 - s.bank i
  gainRises (s.dom (Obj.gainTable i b)) && Bf24.lt (s.reg (Obj.outMin i b)) (s.reg (Obj.outMax i b))

/-- The bounds of a loop slot's objects (19). -/
def State.loopValueOk (s : State) (i sub v : Nat) : Bool :=
  match sub with
  | 0x03 => true
  | 0x04 => sourceArgOk (s.reg (Obj.lpSource i)) v
  | 0x05 => actuatorArgOk v (s.reg (Obj.actuatorArg i)) && (s.setReg (Obj.actuator i) v).limitersOk
  | 0x06 => actuatorArgOk (s.reg (Obj.actuator i)) v
  | 0x07 => decide (1000000 % v = 0) && decide (s.reg (Obj.lpPhase i) < v)
  | 0x08 => decide (v < s.reg (Obj.lpPeriod i))
  | 0x0D => (s.setReg (Obj.limiter i) v).limitersOk
  | 0x0E => ffSourceOk v
  | 0x15 => Bf24.lt v (s.reg (Obj.plausMax i))
  | 0x16 => Bf24.lt (s.reg (Obj.plausMin i)) v
  | 0x1C => spiCfgOk v
  | 0x1D => decide (10 ≤ v % 2 ^ 16) && decide (10 ≤ v / 2 ^ 16)
  | 0x1F => decide (v % 2 ^ 16 = 0)
  | 0x21 => decide (v = 0) || s.bankOk i
  | _ => true

/-- A page of the encoder and Taper objects that bound one another (09 R221, 10 R230, R247, 06 R38). -/
def State.taperValueOk (s : State) (key v : Nat) : Bool :=
  if key = Obj.leadLowMark then decide (v < s.reg Obj.swapHorizon)
  else if key = Obj.armLead then decide (262144 * v ≤ 3 * s.reg Obj.linePitch)
  else if key = Obj.linePitch then decide (262144 * s.reg Obj.armLead ≤ 3 * v)
  else if key = Obj.strobeWidth then decide (v + 50 ≤ s.reg Obj.snuffMax)
  else if key = Obj.snuffMax then decide (s.reg Obj.strobeWidth + 50 ≤ v)
  else if key = Obj.monitorEnable then decide (v = 0) || (s.isSet (Obj.encEnable 0) && s.isSet (Obj.encEnable 1))
  else if key = Obj.maintStart then decide (128 ≤ v % 256) && decide (v % 256 < 160)
  else true

/-- The bounds of the Wick's objects (18). -/
def State.wickValueOk (s : State) (key v : Nat) : Bool :=
  if key = Obj.lightThreshold then decide (v ≤ s.reg (Obj.peak 1))
  else if key = Obj.peak 1 then decide (s.reg Obj.lightThreshold ≤ v)
  else if key = Obj.eSmall then decide (v ≤ s.reg Obj.eMedium)
  else if key = Obj.eMedium then decide (s.reg Obj.eSmall ≤ v) && decide (v ≤ s.reg Obj.eLarge)
  else if key = Obj.eLarge then decide (s.reg Obj.eMedium ≤ v)
  else true

/-- The bounds of Lantern's and the LEDs' objects (13 R314, 14 R333). -/
def State.cameraValueOk (s : State) (key v : Nat) : Bool :=
  if key = Obj.outLevel then decide (v < s.reg Obj.weakLevel)
  else if key = Obj.weakLevel then decide (s.reg Obj.outLevel < v)
  else if key = Obj.ledBlank then
    (List.range 8).all (fun c => !s.isSet (Obj.ctxEnable c) || windowOk (s.camSet c).exposure v)
  else
    match cameraOf key with
    | some (c, 5) => decide (v = 0) || s.shadowOk c
    | _ => true

/-- The bounds of the upload's objects (15): OUT_BASE lies in the upload region. -/
def State.uploadValueOk (s : State) (key v : Nat) : Bool :=
  if key / 256 = 0x2800 ∧ key % 16 = 1 ∧ 0x10 ≤ key % 256 then
    decide (v % 65536 = 0) && decide (s.usable - 256 * 2 ^ 20 ≤ v) && decide (v < s.usable)
  else if key / 256 = 0x2800 ∧ key % 16 = 2 ∧ 0x10 ≤ key % 256 then decide (v % 64 = 0)
  else true

/-- The bounds that a value meets beside its own range. -/
def State.boundOk (s : State) (key v : Nat) : Bool :=
  let idx := key / 256
  if idx = 0x2300 then s.taperValueOk key v
  else if key = Obj.swapHorizon then decide (s.reg Obj.leadLowMark < v)
  else if key = Obj.fusePadIndex then !(padCodes v).isEmpty
  else if key = Obj.fusePadProgram then
    (padCodes (s.reg Obj.fusePadIndex)).contains v && codeReachable (s.padCode (s.reg Obj.fusePadIndex)) v
  else if idx = 0x1400 then s.wickValueOk key v
  else if idx = 0x2600 ∨ idx = 0x2700 then s.cameraValueOk key v
  else if idx = 0x2800 then s.uploadValueOk key v
  else if key = Obj.dramFreq then decide (v ≠ s.reg Obj.dramAltFreq)
  else if key = Obj.dramAltFreq then decide (v ≠ s.reg Obj.dramFreq)
  else if 0x2200 ≤ idx ∧ idx < 0x2280 ∧ key % 256 = 0x0D then decide (v % 4 = 0)
  else
    match loopOf key, axisOf key with
    | some (i, sub), _ => s.loopValueOk i sub v
    | _, some (a, place) => s.axisValueOk a place v
    | _, _ => true

/-- Whether raw bits may be written to an object. -/
def State.valueOk (s : State) (r : Dict.ObjRow) (key v : Nat) : Bool :=
  typeOk r.ty v && (ignoresReserved key || (chkOk r.chk r.ty v && s.boundOk key (storedBits r.ty v)))

/-! ### BUSY -/

/-- Whether a write that passes every other check meets a unit at work (16 R366). A FUSE_PAD_PROGRAM during another is answered as one: the
model's choice (log entry 93). -/
def State.writeBusy (s : State) (key : Nat) : Bool :=
  (decide (key = Obj.fusePadProgram) && s.fuses.job.isSome) ||
    match unitOf key with
    | some (u, 3) => decide (s.reg (Obj.unitState u) = 1)
    | some (u, 5) => decide (s.reg (Obj.unitState u) = 1)
    | _ => false

/-! ### The checks in order -/

/-- Why a WRITE of raw bits to an object is refused (R50, R106); none where it is accepted. -/
def State.writeFault (s : State) (level : Nat) (r : Dict.ObjRow) (w : WriteReq) : Option Bad :=
  let v := fromLe w.value
  firstFail [
    (decide (w.ty ≠ r.ty.code) || decide (w.value.length ≠ r.ty.bytes) || decide (r.ty = .domain), ⟨Abort.badType, false⟩),
    (rowReadOnly r || s.lockedObj w.key, ⟨Abort.readOnly, false⟩),
    (decide (level < r.level), ⟨Abort.lowLevel, false⟩),
    (s.writeConflict r w.key (storedBits r.ty v), ⟨Abort.conflict, true⟩),
    (!s.valueOk r w.key v, ⟨Abort.range, false⟩),
    (s.writeBusy w.key, ⟨busyCode, false⟩)]

end Sys2Proof.Machine
end

