-- ==== Sys2Proof/Machine/Effects.lean ====
section
/-! DEFINITION. What an accepted write of a single object does, chapter by chapter. -/

namespace Sys2Proof.Machine

/-! ### Modes, resets, fuses (02, 03, 04) -/

/-- The mode change that an accepted MODE_REQUEST names (R41 to R47, R55); a PRIMARY forwards it to its mate with the effective line (R57).
Value 5 sets the cause REQUEST, and SNUFF reaches the mate as SNUFF_ALL (12 R297). -/
def State.changeMode (s : State) (v : Nat) : State :=
  let line := s.floorSeq.getD 0
  let unarmed := s.firstUnarmed
  match s.mode, v with
  | .dark, 1 => s.enterKindle
  | .snuff, 2 => s.enterPilot.sendMode .pilot line
  | .snuff, _ => s
  | .pilot, 3 => s.enterTrim.sendMode .trim line
  | .pilot, 4 => s.acceptLit.sendMode .lit line
  | .trim, 2 => s.enterPilot.sendMode .pilot line
  | .lit, 2 => s.stopLit.sendMode .pilot unarmed
  | .dark, _ => s
  | .kindle, _ => s
  | _, 5 => s.setCause Cause.request
  | _, _ => s

/-- Whether a MODE_REQUEST only begins what it asks for, so that it need not wait: a stop (R44), and a SNUFF cause. -/
def State.beginsOnly (s : State) (v : Nat) : Bool := decide (v = 5) || decide (s.mode = .lit)

/-- An accepted MODE_REQUEST: the change is made once every request before it has been answered (R51). -/
def State.takeModeRequest (s : State) (v : Nat) : State :=
  if s.answered || s.beginsOnly v then s.changeMode v else { s with rst := { s.rst with modeDue := some v } }

/-- A mode change that waited for an answer is made, where the mode still admits it (R51; log entry 90). -/
def State.makeDue (s : State) : State :=
  match s.rst.modeDue with
  | none => s
  | some v =>
    if s.answered then
      let s := { s with rst := { s.rst with modeDue := none } }
      if s.modeConflict v then s else s.changeMode v
    else s

/-- Writes of 0x1100. -/
def State.writeMode (s : State) (key v : Nat) : State :=
  if key = Obj.modeRequest then s.takeModeRequest v
  else if key = Obj.snuffCauseClear then (s.clearFlag Obj.snuffCause (v &&& 0xFFF)).standing
  else s.setReg key v

/-- Writes of 0x1200. FUSE_PAD_PROGRAM is answered later (04 R92). -/
def State.writeReset (s : State) (key v : Nat) : State :=
  if key = Obj.resetCauseClear then s.clearFlag Obj.resetCause v
  else if key = Obj.resetRequest then { s with rst := { s.rst with igrelDue := true } }
  else if key = Obj.blockReset then s.writeBlockReset v
  else if key = Obj.fuseLock then (if v = 1 then { s with fuses := { s.fuses with locked := true } } else s)
  else s.setReg key v

/-- CONFIG_SAVE (05 R494). -/
def State.saveConfig (s : State) : State :=
  { s with flash := { s.flash with
      regs := some (s.regs.filter (fun (x : Nat × Nat) => isStored x.1)),
      doms := s.doms.filter (fun (x : Nat × List Byte) => isStored x.1) } }

/-- FSI_MIN_CLEAR (01). -/
def State.clearFsiMin (s : State) (v : Nat) : State := if v = 1 then s.setReg Obj.fsiMin (s.reg Obj.fsiNow) else s

/-- STORE_FLUSH (06 R131, R143, 16 R366): the scrub pass starts again. -/
def State.takeFlush (s : State) : State :=
  let s := s.flushStore
  ({ s with check := { s.check with scrub := none } }).regrant

/-! ### The firmware's tick (10 R242) -/

/-- SPEED_LIMIT follows |SPEED| ÷ LINE_PITCH × HEAD_MIN_PERIOD: high from 0.95, low below 0.92. HEAD_MIN_PERIOD is in ps. -/
def State.speedLimit (s : State) : State :=
  let v := 6553600 * ((s.speed s.fireCh).natAbs * s.reg Obj.headMinPeriod)
  let unit := 1000000000000 * (s.reg Obj.linePitch % 2 ^ 48)
  let drive (s : State) (hi : Bool) : State :=
    { s.setReg Obj.speedLimitState (flag hi) with pins := { s.pins with speedLimit := if hi then .high else .low } }
  if s.reg (Obj.speedState s.fireCh) ≠ 1 then s
  else if 95 * unit ≤ v then drive s true
  else if v < 92 * unit then drive s false
  else s

/-- FIRMWARE_TICK (R242, 03 R60, 02 R51): the SNUFF sequence is reported complete, a mode change that waited is made, and SPEED_LIMIT
follows the speed. -/
def execFirmwareTick (s : State) : Host.Outcome State Fault Refusal :=
  if s.configured then
    let s := ({ s with rst := { s.rst with snuffDone := true } }).makeDue
    ok (if s.mode.working || decide (s.mode = .snuff) then s.speedLimit else s)
  else ok s

/-! ### Encoder and Taper (09, 10) -/

/-- A new energy for a maintenance pattern: one strobe line, in pJ (log entry 17). -/
def maintEnergy : Nat := 1000000 * Config.firmwareEnergy 5

/-- MAINT_START (R250): the pattern asks leave of the Wick for all its lines. A mate fires none of its own. -/
def State.startMaint (s : State) (v : Nat) : State :=
  if s.role = .mate ∨ s.patternRuns = true then s
  else
    let n := v / 256
    let s := { s with taper := { s.taper with maint := some { stream := v % 256, left := n, running := false } } }
    s.request { who := .maintPattern, core := none, head := some (maintEnergy * n), mach := some (maintEnergy * n),
                peak := maintEnergy }

/-- ENABLE of an encoder channel (R201). -/
def State.enableChannel (s : State) (ch v : Nat) : State :=
  let was := s.isSet (Obj.encEnable ch)
  let s := s.setReg (Obj.encEnable ch) v
  if v = 1 ∧ was = false then s.startChannel ch else s

/-- Writes of 0x2300. -/
def State.writeTaper (s : State) (key v : Nat) : State :=
  if key = Obj.encEnable 0 then s.enableChannel 0 v
  else if key = Obj.encEnable 1 then s.enableChannel 1 v
  else if key = Obj.firingChannel ∨ key = Obj.monitorEnable then (s.setReg key v).monRestart
  else if key = Obj.maintStart then s.startMaint v
  else s.setReg key v

/-! ### Head link and twin (11, 12) -/

/-- STATUS_PERIOD: a module whose lane is up is told of it (11 R265; log entry 61). -/
def State.writeLane (s : State) (key v : Nat) : State :=
  let s := s.setReg key v
  let m := key / 256 - 0x2400
  if key % 256 = 0x13 ∧ s.laneUp m = true then s.sendCtrl m 0x03 (le 2 v) else s

/-- SWAP_REQUEST (12 R301). -/
def State.requestSwap (s : State) (v : Nat) : State :=
  if v = 1 then
    match s.swapPage with
    | some p => s.startSwap p
    | none => s
  else s

/-! ### Lantern (13) -/

/-- Writes of 0x2600. -/
def State.writeCamera (s : State) (key v : Nat) : State :=
  if key = Obj.tapSelect then s.selectTap v
  else match cameraOf key with
    | some (c, 5) => if v = 1 then s.commitCam c else s
    | _ => s.setReg key v

/-! ### Check-value units, DRAM, Wick (16, 17, 18) -/

/-- SCRUB_ENABLE (16 R366): the block in hand completes. -/
def State.enableScrub (s : State) (v : Nat) : State :=
  let was := s.isSet Obj.scrubEnable
  let hand := s.handBlock
  let s := s.setReg Obj.scrubEnable v
  if v = 0 ∧ was = true then { s with check := { s.check with hand := hand } } else s

/-- FREQ_SELECT (17 R383). -/
def State.selectFreq (s : State) (v : Nat) : State := (s.setReg Obj.freqSelect v).selectSet v

/-! ### Loops (19) -/

/-- ENABLE of a slot (R419): the model and the following test begin again. -/
def State.enableLoop (s : State) (i v : Nat) : State :=
  let was := s.isSet (Obj.lpEnable i)
  let s := s.setReg (Obj.lpEnable i) v
  if v = 1 ∧ was = false then s.setLoop i { s.loop i with ym := none, armed := false, overFollow := false } else s

/-- SETPOINT (R419): the following test disarms. -/
def State.writeSetpoint (s : State) (i v : Nat) : State :=
  (s.setReg (Obj.setpoint i) v).setLoop i { s.loop i with armed := false, overFollow := false }

/-- BANK_SWAP (R417, R418): accepted in this REF cycle. -/
def State.swapBank (s : State) (i v : Nat) : State :=
  if v = 1 then s.setLoop i { s.loop i with swaps := s.clock.cycles :: (s.loop i).swaps } else s

/-- Writes of a loop slot. -/
def State.writeLoop (s : State) (i key v : Nat) : State :=
  if key = Obj.lpEnable i then s.enableLoop i v
  else if key = Obj.setpoint i then s.writeSetpoint i v
  else if key = Obj.bankSwap i then s.swapBank i v
  else s.setReg key v

/-! ### Axes (20) -/

/-- HOME (R438, R439). -/
def State.takeHome (s : State) (a v : Nat) : State := if v = 1 then s.startHomes (s.pair a) else s

/-- STOP of an axis (R440). -/
def State.takeStop (s : State) (a v : Nat) : State := if v = 1 then (s.stopPair a).halt (s.pair a) else s

/-- STOP_ALL (R440; 02 R43). -/
def State.takeStopAll (s : State) (v : Nat) : State := if v = 1 then (s.stopAxes.halt [0, 1, 2, 3]).endPurge else s

/-- A limit written while the axis moves is taken at the next tick (R436). -/
def State.writeLimit (s : State) (a key v : Nat) : State :=
  let s := s.setReg key v
  let lead := if s.isSet Obj.gantryLink ∧ a = 1 then 0 else a
  let x := s.axis lead
  if x.act = .moving then s.replan lead x.goal else s

/-- Writes of an axis. -/
def State.writeAxis (s : State) (a place key v : Nat) : State :=
  match place with
  | 0x02 => s.moveTo a (toSigned 32 v)
  | 0x04 => s.writeLimit a key v
  | 0x05 => s.writeLimit a key v
  | 0x06 => s.writeLimit a key v
  | 0x18 => s.takeHome a v
  | 0x19 => s.takeStop a v
  | _ => s.setReg key v

/-- Writes of 0x2C00. -/
def State.writeMotion (s : State) (key v : Nat) : State :=
  if key = Obj.stopAll then s.takeStopAll v
  else match axisOf key with
    | some (a, place) => s.writeAxis a place key v
    | none => s.setReg key v

/-! ### Beacon and the Yilloger (21, 22) -/

/-- The first step after a reset moves KINDLE_LAST (22 R466). -/
def State.moveKindleLast (s : State) (d : Int) : State :=
  if s.isSet Obj.kindleLastValid then s
  else
    let t := time80OfNs (movedBy d (ns80 s.flash.kindleLast))
    ({ s with flash := { s.flash with kindleLast := t } }).setReg Obj.kindleLastValid 1

/-- A step of `d` ns, written (R447). -/
def State.takeStep (s : State) (d : Int) : State := (s.moveKindleLast d).stepBeacon d

/-- TIME_SET (R444, R447). -/
def State.setTime (s : State) (v : Nat) : State :=
  (s.takeStep ((ns80 v : Int) - s.nowNs)).setReg Obj.timeValid 1

/-- Writes of 0x2D00. -/
def State.writeClock (s : State) (key v : Nat) : State :=
  if key = Obj.timeSet then s.setTime v
  else if key = Obj.timeStep then s.takeStep (toSigned 64 v)
  else s.setReg key v

/-- UNFREEZE (22 R475). A trigger of the same REF cycle stays in force: one that found the log running stands as it is, and one that found
it frozen acts now (log entry 89). -/
def State.unfreezeLog (s : State) : State :=
  let s := s.ylogClose.setReg Obj.missed 0
  let noted := Table.get 0 s.flagged Obj.ylogState
  if noted.testBit 0 then s
  else if noted.testBit 1 then s.startFreeze
  else s.setReg Obj.ylogState 0

/-- Writes of 0x1300. -/
def State.writeLog (s : State) (key v : Nat) : State :=
  if key = Obj.freezeNow then (if v = 1 then s.freezeTrigger else s)
  else if key = Obj.unfreeze then s.unfreezeLog
  else s.setReg key v

/-! ### Write 1 to clear (00 R9) -/

/-- The bits written 1 are cleared; once TRIPPED is cleared, a slot's model begins again (19 R419, R420). -/
def State.clearFlags (s : State) (key v : Nat) : State :=
  let s' := s.clearFlag key v
  match loopOf key with
  | some (i, _) =>
    if s.tripped i && v.testBit 0 then s'.setLoop i { s'.loop i with ym := none, overFollow := false } else s'
  | none => s'

/-! ### Every object -/

/-- An accepted write of a value to an object. -/
def State.writeEffect (s : State) (key v : Nat) : State :=
  let idx := key / 256
  if isW1c key then s.clearFlags key v
  else if idx = 0x1100 then s.writeMode key v
  else if idx = 0x1200 then s.writeReset key v
  else if key = Obj.configSave then s.saveConfig
  else if key = Obj.fsiMinClear then s.clearFsiMin v
  else if key = Obj.storeFlush then s.takeFlush
  else if idx = 0x2300 then s.writeTaper key v
  else if 0x2400 ≤ idx ∧ idx < 0x2420 then s.writeLane key v
  else if key = Obj.swapRequest then s.requestSwap v
  else if idx = 0x2600 then s.writeCamera key v
  else if key = Obj.scrubEnable then s.enableScrub v
  else if key = Obj.freqSelect then s.selectFreq v
  else if idx = 0x2C00 then s.writeMotion key v
  else if idx = 0x2D00 then s.writeClock key v
  else if idx = 0x1300 then s.writeLog key v
  else match loopOf key with
    | some (i, _) => s.writeLoop i key v
    | none => s.setReg key v

/-- A PRIMARY forwards an accepted write to its partner before it replies (12 R285). HEALTH_EDIT reaches it as PUBLISH. -/
def State.forwardWrite (s : State) (key : Nat) (value : List Byte) : State :=
  if s.role = .primary ∧ s.twinUp = true ∧ isLocal key = false ∧ key ≠ Obj.healthEdit then
    match Dict.row key with
    | some r => s.emit (.forward r.ty.code key value)
    | none => s
  else s

/-- A write that has passed every check, and its reply; FUSE_PAD_PROGRAM is answered once the pad has been sensed (04 R92). -/
def State.acceptWrite (s : State) (h : Hdr) (payload : List Byte) (r : Dict.ObjRow) (w : WriteReq) : State :=
  let v := storedBits r.ty (fromLe w.value)
  if w.key = Obj.fusePadProgram then s.startFuse h payload v
  else ((s.writeEffect w.key v).forwardWrite w.key (le r.ty.bytes v)).answer h 0x11 payload (.ok [])

/-- A request is refused about an object; a state conflict is counted and logged (02 R49). -/
def State.refuse (s : State) (h : Hdr) (ty : Nat) (payload : List Byte) (key : Nat) (b : Bad) : State :=
  let s := if b.counted then s.conflict key else s
  let (hint, s) : Nat × State := if b.code = busyCode then (Config.retryHint s.freeCtr % 1000 + 1, { s with freeCtr := s.freeCtr + 1 })
    else (0, s)
  s.answer h ty payload (.abort b.code hint (key / 256) (key % 256))

/-- A WRITE that is executed (R50, R106). -/
def State.runWrite (s : State) (h : Hdr) (level : Nat) (payload : List Byte) (w : WriteReq) : State :=
  match findObj w.key with
  | .error c => s.refuse h 0x11 payload w.key ⟨c, false⟩
  | .ok r =>
    match s.writeFault level r w with
    | some b => s.refuse h 0x11 payload w.key b
    | none => s.acceptWrite h payload r w

end Sys2Proof.Machine
end

