-- ==== Sys2Proof/Machine/Blocks.lean ====
section
/-! DEFINITION. DOMAIN objects: the content that a block write may carry (05 R112 and the objects' own layouts), and what a taken content
does. -/

namespace Sys2Proof.Machine

/-! ### Layouts -/

/-- The BF24 words of a content, normalised (05 R110); none where one cannot be normalised, or the length is wrong. -/
def bf24Words (n : Nat) (b : List Byte) : Option (List Nat) :=
  if b.length = 4 * n then ((chunks 4 n b).map fromLe).mapM Bf24.normalise else none

/-- BF24 words as bytes. -/
def bf24Bytes (l : List Nat) : List Byte := l.flatMap (le 4)

/-- Words of the three kinds of loop table: GAIN_TABLE, NOTCH, MODEL. -/
def loopWords (place : Nat) : Option Nat :=
  match place with
  | 0 => some 16
  | 3 => some 5
  | 7 => some 3
  | _ => none

/-- A content of a loop table as it is stored; GAIN_TABLE has its |e| rising (19 R412). -/
def loopTable (place : Nat) (b : List Byte) : Option (List Byte) :=
  match loopWords place with
  | none => none
  | some n =>
    match bf24Words n b with
    | none => none
    | some l => if place = 0 ∧ gainRises (bf24Bytes l) = false then none else some (bf24Bytes l)

/-- Whether the tables of a camera context have their lengths; GEOMETRY keeps bits [31:25] at 0 (13 R320). -/
def State.cameraTableOk (s : State) (sub : Nat) (b : List Byte) : Bool :=
  let n := s.reg (Obj.pixelsPerLine (sub % 8))
  if sub < 0xA0 then decide (b.length = 2 * n)
  else if sub < 0xA8 then decide (b.length % 2 = 0) && decide (b.length ≤ 512)
  else decide (b.length = 4 * n) && ((chunks 4 n b).map fromLe).all (fun w => decide (w < 2 ^ 25))

/-- A firmware slot's content: a header and a payload of at most 0x1F_0000 bytes (03 R76). -/
def slotContentOk (b : List Byte) : Bool := decide (256 ≤ b.length) && decide (b.length ≤ 256 + 0x1F0000) && headerClear b

/-- Whether a content has the length and layout of its object (R112). -/
def State.contentOk (s : State) (key : Nat) (b : List Byte) : Bool :=
  let idx := key / 256
  if key = Obj.keyObserver ∨ key = Obj.keyOperator ∨ key = Obj.keyService then decide (b.length = 32)
  else if key = Obj.ringMap then ringMapOk s.storeLimit b
  else if key = Obj.fwSlot0 ∨ key = Obj.fwSlot1 then slotContentOk b
  else if 0x2100 ≤ idx ∧ idx < 0x21A0 then s.imageOk (idx - 0x2100) b
  else if key = Obj.healthEdit then (parseEdit b).isSome
  else if key = Obj.densityTrim then decide (b.length = 262144)
  else if key = Obj.placementTrim then decide (b.length = 262144) && b.all (fun x => decide (x.toNat < 64))
  else if key = Obj.blendPattern then decide (b.length = 256)
  else if key = Obj.calCodes then decide (b.length = 128)
  else if key = Obj.uartTx then decide (1 ≤ b.length) && decide (b.length ≤ 256)
  else if idx = 0x2600 then s.cameraTableOk (key % 256) b
  else if key = Obj.uploadRequest then (parseUpload b s.usable).isSome
  else if key = Obj.scanRequest then (s.parseScan b).isSome
  else match loopOf key with
    | some (_, sub) => (loopTable (sub % 8) b).isSome
    | none => false

/-- Whether a content that passes meets a unit at work: a full queue of scans, a running upload, a UART in use (13 R319, 15 R354, 16
R361). -/
def State.blockBusy (s : State) (key : Nat) (b : List Byte) : Bool :=
  if key = Obj.uartTx then !s.uartIdle (s.reg Obj.uartContext / 4)
  else if key = Obj.scanRequest then decide (4 ≤ s.check.queue.length)
  else if key = Obj.uploadRequest then
    match parseUpload b s.usable with
    | some r => (s.chan r.ch).req.isSome
    | none => false
  else false

/-! ### Effects -/

/-- RING_MAP (06 R142): the credits of the whole rings stand until the first bring-up. -/
def State.takeRingMap (s : State) (b : List Byte) : State := (s.setDom Obj.ringMap b).ringCredits (List.range 160)

/-- PLACEMENT_TRIM (08 R195, 11 R264, R281): a new table generation goes to every populated module; one whose lane is down gets it when the
lane comes up. -/
def State.takeTrim (s : State) (b : List Byte) : State :=
  let s := s.setDom Obj.placementTrim b
  let s := { s with trimGen := (s.trimGen + 1) % 2 ^ 32 }
  let s := s.fitted.foldl (fun s m => s.setHead m { s.head m with trimOk := false }) s
  s.sendTrims s.upLanes

/-- UPLOAD_REQUEST (15 R354). -/
def State.takeUpload (s : State) (b : List Byte) : State :=
  match parseUpload b s.usable with
  | some r => s.startUpload r
  | none => s

/-- SCAN_REQUEST (16 R361). -/
def State.takeScan (s : State) (b : List Byte) : State :=
  match s.parseScan b with
  | some x => s.queueScan x
  | none => s

/-- The records of a HEALTH_EDIT (08 R186). -/
def editRecords (b : List Byte) : List (Nat × Nat) := ((parseEdit b).getD []).map (fun r => (r.1, 16 * byHost + r.2))

/-- The NOR operations of a firmware slot's write (05 R122): 4 KiB sector erases only, the payload, and the 256-byte header last. -/
def State.programSlot (s : State) (base : Nat) (b : List Byte) : State :=
  let s := s.emitAll ((List.range ((b.length + 4095) / 4096)).map (fun i => .norErase (base + 4096 * i)))
  (s.emit (.norProgram (base + 256) (b.drop 256))).emit (.norProgram base (b.take 256))

/-- A content that has passed is taken whole (R112). HEALTH_EDIT is not here: its reply waits (08 R196). -/
def State.takeContent (s : State) (key : Nat) (b : List Byte) : State :=
  let idx := key / 256
  if key = Obj.ringMap then s.takeRingMap b
  else if key = Obj.fwSlot0 then { s.programSlot 0 b with flash := { s.flash with slot0 := b } }
  else if key = Obj.fwSlot1 then { s.programSlot 0x400000 b with flash := { s.flash with slot1 := b } }
  else if 0x2100 ≤ idx ∧ idx < 0x21A0 then s.takeImage (idx - 0x2100) b
  else if key = Obj.placementTrim then s.takeTrim b
  else if key = Obj.uartTx then s.queueUart b
  else if key = Obj.uploadRequest then s.takeUpload b
  else if key = Obj.scanRequest then s.takeScan b
  else match loopOf key with
    | some (_, sub) => s.setDom key ((loopTable (sub % 8) b).getD b)
    | none => s.setDom key b

end Sys2Proof.Machine
end

