-- ==== Sys2Proof/Machine/Igrel.lean ====
section
/-! DEFINITION. The protocol (05): dropped packets, sessions, sequence numbers, kept replies, request slots, requests, block transfers,
telemetry, and the recovery session. -/

namespace Sys2Proof.Machine

/-! ### Whether Igrel runs -/

/-- The firmware answers Igrel: from the first configured state on, while ETH_MAC is out of reset. -/
def State.igrelRuns (s : State) : Bool := s.configured && s.blockUp Block.ethMac

/-- The boot ROM answers the recovery session (R123). -/
def State.recovering (s : State) : Bool := !s.rst.asserted && decide (s.rst.stage = .recovery)

/-- A packet is dropped under R99, and counted. -/
def State.dropPacket (s : State) : State := if s.igrelRuns then s.bump Obj.dropCount else s

/-- What VPP_FUSE reads now (04 R90, R92). -/
def State.seeVpp (s : State) (vppOk : Bool) : State := { s with fuses := { s.fuses with vppOk := vppOk } }

/-! ### Packets (R97, R98) -/

/-- The UDP port of Igrel, of requests and of replies. -/
def igrelPort : Nat := 23150

/-- The 16-byte header of a packet. -/
def packetHeader (ty sess tag seq n : Nat) : List Byte :=
  [0x49, 0x47, 0x01] ++ le 1 ty ++ le 1 sess ++ [0] ++ le 2 tag ++ le 4 seq ++ le 2 n ++ zeros 2

/-- The MAC over header and payload; all zero where there is no key. -/
def packetMac (key : Option (List Byte)) (m : List Byte) : List Byte :=
  match key with
  | some k => (hmac k m).take 16
  | none => zeros 16

/-- A packet as its bytes. -/
def packetBytes (ty sess tag seq : Nat) (payload : List Byte) (key : Option (List Byte)) : List Byte :=
  let m := packetHeader ty sess tag seq payload.length ++ payload
  m ++ packetMac key m

/-- The datagram that the device sends for a packet: from its own address and Igrel's port. -/
def State.datagramOf (s : State) : Out → Option (Src × Datagram)
  | .igrel dst ty sess tag seq payload key =>
    some (dst, { src := { ip := s.igrel.ip, port := igrelPort }, ip := dst.ip, port := dst.port, fragment := false,
                 bytes := packetBytes ty sess tag seq payload key })
  | _ => none

/-- Whether a datagram reaches Igrel at all (R97). -/
def State.reaches (s : State) (d : Datagram) : Bool :=
  !d.fragment && decide (d.ip = s.igrel.ip) && decide (d.port = igrelPort) && decide (32 ≤ d.bytes.length) && decide (d.bytes.length ≤ 1472)

/-- Whether magic, version, reserved bytes and length match R98. -/
def headerOk (p : List Byte) : Bool :=
  decide (field p 0 2 = 0x4749) && decide (field p 2 1 = 1) && decide (field p 5 1 = 0) && decide (field p 14 2 = 0) &&
    decide (field p 12 2 + 32 = p.length)

/-- The payload of a packet. -/
def packetPayload (p : List Byte) : List Byte := (p.drop 16).take (p.length - 32)

/-- Whether the MAC of a packet verifies under its session's key (R98, R99); in the recovery session there is none. -/
def State.macOk (s : State) (p : List Byte) : Bool :=
  s.recovering ||
    (match s.session (field p 4 1) with
     | none => false
     | some x => decide (p.drop (p.length - 16) = packetMac (some x.key) (p.take (p.length - 16))))

/-- The header fields that the requests carry. -/
def packetHdr (d : Datagram) : Hdr :=
  { src := d.src, sess := field d.bytes 4 1, seq := field d.bytes 8 4, tag := field d.bytes 6 2 }

/-! ### Sequence numbers (R102) -/

/-- Whether a sequence number is new to a session. -/
def Session.newSeq (x : Session) (seq : Nat) : Bool :=
  decide (x.rxHigh < seq) || (decide (x.rxHigh ≤ seq + 31) && !x.rxSeen.contains seq)

/-- A session that has seen a sequence number. -/
def Session.seen (x : Session) (seq : Nat) : Session :=
  let high := Nat.max x.rxHigh seq
  { x with rxHigh := high, rxSeen := (seq :: x.rxSeen).filter (fun n => decide (high ≤ n + 31)) }

/-! ### Request slots (R117) -/

/-- Slots in use, and those of one session. -/
def State.slotsUsed (s : State) : Nat := s.igrel.transfers.length + s.igrel.deferred.length

def State.slotsOfSession (s : State) (id : Nat) : Nat :=
  (s.igrel.transfers.filter (fun t => decide (t.sess = id))).length + (s.igrel.deferred.filter (fun d => decide (d.h.sess = id))).length

/-- Whether a request finds no slot. -/
def State.noSlot (s : State) (id : Nat) : Bool := decide (16 ≤ s.slotsUsed) || decide (4 ≤ s.slotsOfSession id)

/-- IGREL_OVERLOAD, at most once per second. -/
def State.noteOverload (s : State) : State :=
  let due := match s.igrel.overloadAt with
    | none => true
    | some t => decide (cyclesPerSec ≤ s.clock.cycles - t)
  if due then ({ s with igrel := { s.igrel with overloadAt := some s.clock.cycles } }).logEvent Ev.igrelOverload [] else s

/-- A request that finds no slot is answered BUSY, and is not executed. -/
def State.answerBusy (s : State) (h : Hdr) : State :=
  let hint := Config.retryHint s.freeCtr % 1000 + 1
  let s := ({ s with freeCtr := s.freeCtr + 1 }).bump Obj.busyCount
  (s.respond h (.abort busyCode hint 0 0)).noteOverload

/-! ### Reception -/

/-- A payload that does not match the layout of its type (R495). -/
def State.badLayout (s : State) (h : Hdr) (ty : Nat) (payload : List Byte) : State :=
  s.answer h ty payload (.abort Abort.badType 0 0 0)

/-- The kept reply that a request is answered with again: the same tag and the same payload (R108). -/
def Session.keptReply (x : Session) (tag : Nat) (payload : List Byte) : Option Reply :=
  (x.kept.find? (fun k => decide (k.tag = tag) && decide (k.payload = payload))).map Kept.reply

/-- A packet that is no request of a slot (CLOSE, BLOCK_SEGMENT, BLOCK_ACK): it must be of an open session and no replay. -/
def State.inSession (s : State) (h : Hdr) (run : Session → State → State) : State :=
  match s.session h.sess with
  | none => s.dropPacket
  | some x =>
    if x.newSeq h.seq then run x { s with igrel := s.igrel.modify x.id (fun y => y.seen h.seq) } else s.dropPacket

/-- A request: answered again where it is a resend, turned away where it finds no slot, and executed otherwise (R107, R108, R117).
`noWait` is a request that takes no slot of the sixteen (R118), or ends a transfer that holds one. -/
def State.inSlot (s : State) (h : Hdr) (payload : List Byte) (noWait : Session → Bool) (run : Session → State → State) : State :=
  s.inSession h (fun x s =>
    match x.keptReply h.tag payload with
    | some r => s.respond h r
    | none => if s.noSlot x.id && !noWait x then s.answerBusy h else run x s)

/-! ### Single objects -/

/-- A READ (R105). -/
def State.runRead (s : State) (h : Hdr) (payload : List Byte) : State :=
  match parseRead payload with
  | none => s.badLayout h 0x10 payload
  | some keys =>
    let (b, s) := s.readReply true keys
    s.answer h 0x10 payload (.ok b)

/-- A WRITE (R106). -/
def State.runWriteOf (s : State) (h : Hdr) (level : Nat) (payload : List Byte) : State :=
  match parseWrite payload with
  | none => s.badLayout h 0x11 payload
  | some w => s.runWrite h level payload w

/-- Whether a payload is a WRITE of 5 to MODE_REQUEST (R118). -/
def asksSnuff (payload : List Byte) : Bool :=
  match parseWrite payload with
  | some w => decide (w.key = Obj.modeRequest) && decide (fromLe w.value = 5)
  | none => false

/-- The reply to a DESCRIBE (05; R493). -/
def describeReply (key : Nat) (r : Dict.ObjRow) : List Byte :=
  le 1 r.ty.code ++ le 1 r.acc.code ++ le 1 r.level ++ le 1 r.modes ++
    (if r.ty = .domain then badEntry Abort.badType else goodEntry r.ty (Dict.default key))

/-- A DESCRIBE. -/
def State.runDescribe (s : State) (h : Hdr) (payload : List Byte) : State :=
  match parseDescribe payload with
  | none => s.badLayout h 0x12 payload
  | some key =>
    match findObj key with
    | .error c => s.refuse h 0x12 payload key ⟨c, false⟩
    | .ok r =>
      if s.heldBackObj key r then s.refuse h 0x12 payload key ⟨Abort.conflict, true⟩
      else s.answer h 0x12 payload (.ok (describeReply key r))

/-! ### Block transfers (R111 to R114) -/

/-- The open transfers with one changed. -/
def State.modTransfer (s : State) (sess tag : Nat) (f : Transfer → Transfer) : State :=
  { s with igrel := { s.igrel with
      transfers := s.igrel.transfers.map (fun t => if t.sess = sess ∧ t.tag = tag then f t else t) } }

/-- Close a transfer. -/
def State.dropTransfer (s : State) (sess tag : Nat) : State :=
  { s with igrel := { s.igrel with transfers := s.igrel.transfers.filter (fun t => !(decide (t.sess = sess) && decide (t.tag = tag))) } }

/-- The open transfer of a session and a tag. -/
def State.transfer (s : State) (sess tag : Nat) : Option Transfer :=
  s.igrel.transfers.find? (fun t => decide (t.sess = sess) && decide (t.tag = tag))

/-- Send a packet that is no reply: a segment or an acknowledgement. -/
def State.sendBlock (s : State) (h : Hdr) (ty : Nat) (payload : List Byte) : State :=
  if h.sess = 0 then s.emit (.igrel h.src ty 0 h.tag 0 payload none) else s.sendIn h.src h.sess ty h.tag payload

/-- Segments of a content. -/
def segments (n : Nat) : Nat := (1023 + n) / 1024

/-- Send `n` segments of a read from segment `i`. -/
def State.sendSegments (s : State) (h : Hdr) (data : List Byte) : Nat → Nat → State
  | _, 0 => s
  | i, n + 1 => (s.sendBlock h 0x19 (le 4 i ++ (data.drop (1024 * i)).take 1024)).sendSegments h data (i + 1) n

/-- Send the window of a read that begins at segment `i`. -/
def State.sendWindow (s : State) (h : Hdr) (t : Transfer) (i : Nat) : State :=
  let n := Nat.min 16 (segments t.total - i)
  (s.modTransfer h.sess h.tag (fun x => { x with base := i, next := i + n })).sendSegments h t.data i n

/-- R114: four open transfers, one per object. -/
def State.transferLimit (s : State) (key : Nat) : Bool :=
  decide (4 ≤ s.igrel.transfers.length) || s.igrel.transfers.any (fun t => decide (t.key = key))

/-- Why a BLOCK_START is refused (R111, R114). -/
def State.startFault (s : State) (level : Nat) (r : Dict.ObjRow) (b : BlockReq) : Option Bad :=
  if b.reading then firstFail [
    (decide (r.ty ≠ .domain), ⟨Abort.badType, false⟩), (decide (r.acc = .wo), ⟨Abort.writeOnly, false⟩),
    (s.heldBackObj b.key r, ⟨Abort.conflict, true⟩), (s.transferLimit b.key, ⟨busyCode, false⟩)]
  else firstFail [
    (decide (r.ty ≠ .domain), ⟨Abort.badType, false⟩), (rowReadOnly r, ⟨Abort.readOnly, false⟩),
    (decide (level < r.level), ⟨Abort.lowLevel, false⟩), (s.writeConflict r b.key 0, ⟨Abort.conflict, true⟩),
    (s.transferLimit b.key, ⟨busyCode, false⟩)]

/-- Open a transfer; an earlier one under the same tag is abandoned. -/
def State.openTransfer (s : State) (h : Hdr) (payload : List Byte) (b : BlockReq) : State :=
  let s := s.dropTransfer h.sess h.tag
  let data := if b.reading then s.readDom b.key else []
  let total := if b.reading then data.length else b.total
  let t : Transfer := { src := h.src, sess := h.sess, tag := h.tag, key := b.key, reading := b.reading, total := total, crc := b.crc,
                        data := data, next := 0, base := 0, oow := false }
  let reply : List Byte := if b.reading then le 4 total ++ le 4 (crc32c data) else []
  let s := s.answer h 0x18 payload (.ok reply)
  if b.reading && data.isEmpty then s
  else
    let s := { s with igrel := { s.igrel with transfers := s.igrel.transfers ++ [t] } }
    if b.reading then s.sendWindow h t 0 else s

/-- A BLOCK_START. -/
def State.runBlockStart (s : State) (h : Hdr) (level : Nat) (payload : List Byte) : State :=
  match parseBlock payload with
  | none => s.badLayout h 0x18 payload
  | some b =>
    match findObj b.key with
    | .error c => s.refuse h 0x18 payload b.key ⟨c, false⟩
    | .ok r =>
      match s.startFault level r b with
      | some e => s.refuse h 0x18 payload b.key e
      | none => s.openTransfer h payload b

/-- A segment outside the window is answered once per window. -/
def State.outOfWindow (s : State) (h : Hdr) (t : Transfer) : State :=
  if t.oow then s
  else (s.modTransfer h.sess h.tag (fun x => { x with oow := true })).respond h (.abort Abort.blockWindow 0 (t.key / 256) (t.key % 256))

/-- A BLOCK_SEGMENT of a write: the next one is taken, another of the window is dropped and comes again with the window. One that is not the
last and carries fewer than 1,024 bytes is taken as it is: the model's choice (log entry 93). -/
def State.runSegment (s : State) (h : Hdr) (payload : List Byte) : State :=
  match parseSegment payload with
  | none => s.respond h (.abort Abort.badType 0 0 0)
  | some (n, data) =>
    match s.transfer h.sess h.tag with
    | none => s.respond h (.abort Abort.blockWindow 0 0 0)
    | some t =>
      if t.reading then s.respond h (.abort Abort.blockWindow 0 (t.key / 256) (t.key % 256))
      else if n < t.base ∨ t.base + 16 ≤ n then s.outOfWindow h t
      else if n ≠ t.next then s
      else
        let all := t.data ++ data
        let acked := decide ((n + 1) % 16 = 0) || decide (t.total ≤ all.length)
        let s := s.modTransfer h.sess h.tag (fun x =>
          { x with src := h.src, data := all, next := n + 1, base := if acked then n + 1 else x.base, oow := if acked then false else x.oow })
        if acked then s.sendBlock h 0x1A (le 4 (n + 1)) else s

/-- A BLOCK_ACK of a read: the next window goes, or the transfer ends; that the last acknowledgement ends it is the model's choice (log entry
93). -/
def State.runAck (s : State) (h : Hdr) (payload : List Byte) : State :=
  match parseAck payload with
  | none => s.respond h (.abort Abort.badType 0 0 0)
  | some n =>
    match s.transfer h.sess h.tag with
    | none => s
    | some t =>
      if t.reading = false ∨ n < t.base ∨ t.next < n then s
      else if segments t.total ≤ n then s.dropTransfer h.sess h.tag
      else (s.modTransfer h.sess h.tag (fun x => { x with src := h.src })).sendWindow h t n

/-- Why the content of a block write is refused at BLOCK_END (R112). -/
def State.endFault (s : State) (t : Transfer) : Option Bad :=
  match Dict.row t.key with
  | none => some ⟨Abort.noSub, false⟩
  | some r => firstFail [
      (decide (t.data.length ≠ t.total) || decide (crc32c t.data ≠ t.crc), ⟨Abort.blockSum, false⟩),
      (s.writeConflict r t.key 0, ⟨Abort.conflict, true⟩),
      (!s.contentOk t.key t.data, ⟨Abort.range, false⟩),
      (s.blockBusy t.key t.data, ⟨busyCode, false⟩)]

/-- A block write that passes every check: it is taken whole. The reply to HEALTH_EDIT waits until its records are in the pending copy (08
R196). -/
def State.acceptBlock (s : State) (h : Hdr) (payload : List Byte) (t : Transfer) : State :=
  if t.key = Obj.healthEdit then
    let d : Deferred := { h := h, ty := 0x1B, payload := payload }
    ({ s with igrel := { s.igrel with deferred := d :: s.igrel.deferred } }).publish (editRecords t.data) (some d)
  else ((s.takeContent t.key t.data).forwardWrite t.key t.data).answer h 0x1B payload (.ok [])

/-- A BLOCK_END with the checks of R112. That of a read still open is answered with an empty REPLY, and that of no open transfer with
0x0504_0004 and index 0, and neither needs a slot: the model's choices (log entry 93). -/
def State.runBlockEnd (s : State) (h : Hdr) (payload : List Byte) : State :=
  if payload ≠ [] then s.badLayout h 0x1B payload
  else
    match s.transfer h.sess h.tag with
    | none => s.answer h 0x1B payload (.abort Abort.blockSum 0 0 0)
    | some t =>
      let s := s.dropTransfer h.sess h.tag
      if t.reading then s.answer h 0x1B payload (.ok [])
      else
        match s.endFault t with
        | some e => s.refuse h 0x1B payload t.key e
        | none => s.acceptBlock h payload t

/-! ### Telemetry (R119) -/

/-- A SUBSCRIBE. -/
def State.runSubscribe (s : State) (h : Hdr) (payload : List Byte) : State :=
  match parseSubscribe payload with
  | none => s.badLayout h 0x30 payload
  | some (period, keys) =>
    if keys ≠ [] ∧ (period = 0 ∨ 60000 < period) then s.answer h 0x30 payload (.abort Abort.range 0 0 0)
    else
      let sub : Option Subscription := if keys = [] then none else some { period := period, keys := keys, missed := 0 }
      let s := { s with igrel := s.igrel.modify h.sess (fun x => { x with sub := sub }) }
      s.answer h 0x30 payload (.ok [])

/-- The number of missed periods as a message carries it; past a U16 the spec gives none (log entry 5). -/
def missedField (n : Nat) : Nat := if n < 2 ^ 16 then n else Config.counterPastEnd 0 n % 2 ^ 16

/-- A period of a subscription: a message, or one period more that is missed. -/
def State.telemetry (s : State) (x : Session) (u : Subscription) (canSend : Bool) : State :=
  let put (s : State) (n : Nat) : State :=
    { s with igrel := s.igrel.modify x.id (fun y => { y with sub := some { u with missed := n } }) }
  if canSend then
    let now := s.now
    let (b, s) := s.readReply false u.keys
    (put s 0).sendIn x.src x.id 0x31 0 (le 10 now ++ le 2 (missedField u.missed) ++ b)
  else put s (u.missed + 1)

/-! ### Sessions (R100 to R103) -/

/-- Close a session, its transfers and the replies it waits for. -/
def State.closeSession (s : State) (id : Nat) : State :=
  { s with igrel := { s.igrel with
      sessions := s.igrel.sessions.filter (fun x => decide (x.id ≠ id)),
      transfers := s.igrel.transfers.filter (fun t => decide (t.sess ≠ id)),
      deferred := s.igrel.deferred.filter (fun d => decide (d.h.sess ≠ id)) } }

/-- The lowest session ID that is free. -/
def State.freeId (s : State) : Option Nat :=
  (List.range 8).map (· + 1) |>.find? (fun i => !s.igrel.sessions.any (fun x => decide (x.id = i)))

/-- The key of a level. -/
def State.levelKey (s : State) (level : Nat) : List Byte :=
  s.domBytes (if level = 0 then Obj.keyObserver else if level = 1 then Obj.keyOperator else Obj.keyService)

/-- An answer before a session is open: no MAC, sequence number 0. -/
def State.answerPlain (s : State) (dst : Src) (ty sess tag : Nat) (payload : List Byte) : State :=
  s.emit (.igrel dst ty sess tag 0 payload none)

/-- A HELLO (R100, R101): a reservation and its CHALLENGE. A level code above 2 is dropped and counted as a layout that does not match: the
model's choice (log entry 93). -/
def State.reserve (s : State) (src : Src) (tag level : Nat) (nonce : List Byte) : State :=
  if s.igrel.lockouts.contains src.ip then s
  else if 2 < level ∨ nonce.length ≠ 16 then s.dropPacket
  else match s.freeId with
    | none => s.answerPlain src 0x21 0 tag (abortBytes Abort.noSession 0 0 0)
    | some id =>
      let (v, s) := s.fresh 128
      let nd := le 16 v
      let x : Session := { id := id, src := src, level := level, reserved := true, nc := nonce, nd := nd, key := [], rxHigh := 0,
                           rxSeen := [0], txNext := 1, kept := [], sub := none }
      let s := { s with igrel := { s.igrel with sessions := s.igrel.sessions ++ [x] } }
      s.answerPlain src 0x02 0 tag (le 1 id ++ le 1 level ++ zeros 2 ++ nd)

/-- Whether a failed proof is less than 10 s old. -/
def State.recentFail (s : State) (f : Nat × Nat) : Bool := decide (s.clock.cycles - f.2 < 10 * cyclesPerSec)

/-- A proof that fails (R101). -/
def State.failProof (s : State) (src : Src) (tag id : Nat) : State :=
  let s := s.closeSession id
  let fails := (src.ip, s.clock.cycles) :: s.igrel.fails.filter s.recentFail
  let bad := (fails.filter (fun f => decide (f.1 = src.ip))).length
  let locks := if 3 ≤ bad ∧ s.igrel.lockouts.contains src.ip = false then src.ip :: s.igrel.lockouts else s.igrel.lockouts
  let s := { s with igrel := { s.igrel with fails := fails, lockouts := locks } }
  ((s.bump Obj.authFailCount).logEvent Ev.authFail []).answerPlain src 0x21 id tag (abortBytes Abort.authFail 0 0 0)

/-- The proof that a reservation asks for. -/
def State.proofOf (s : State) (x : Session) : List Byte :=
  hmac (s.levelKey x.level) ([0x49, 0x47, 0x52, 0x4C] ++ x.nd ++ x.nc ++ le 1 x.id ++ le 1 x.level)

/-- A session opens: WELCOME under its key. -/
def State.openSession (s : State) (x : Session) (tag : Nat) : State :=
  let key := hmac (s.levelKey x.level) ([0x53, 0x45, 0x53, 0x53] ++ x.nc ++ x.nd ++ le 1 x.id)
  let s := { s with igrel := s.igrel.modify x.id (fun y => { y with reserved := false, key := key }) }
  s.emit (.igrel x.src 0x04 x.id tag 0 (le 2 (s.reg Obj.idleTimeout) ++ zeros 2) (some key))

/-- A PROOF. -/
def State.prove (s : State) (src : Src) (tag id : Nat) (proof : List Byte) : State :=
  if proof.length ≠ 32 then s.dropPacket
  else match s.igrel.sessions.find? (fun x => decide (x.id = id) && x.reserved && decide (x.src = src)) with
    | none => s.dropPacket
    | some x => if proof = s.proofOf x then s.openSession x tag else s.failProof src tag id

/-! ### The recovery session (R123) -/

/-- Refuse in the recovery session. -/
def State.recoverRefuse (s : State) (h : Hdr) (key : Nat) : State := s.respond h (.abort Abort.noIndex 0 (key / 256) (key % 256))

/-- A request is in progress: an open block write. -/
def State.recoverBusy (s : State) (h : Hdr) : State :=
  let hint := Config.retryHint s.freeCtr % 1000 + 1
  ({ s with freeCtr := s.freeCtr + 1 }).respond h (.abort busyCode hint 0 0)

/-- A HELLO or a PROOF in the recovery session: refused, or BUSY while a block write is open. -/
def State.refusePlain (s : State) (src : Src) (tag : Nat) : State :=
  let h : Hdr := { src := src, sess := 0, seq := 0, tag := tag }
  if s.igrel.transfers = [] then s.recoverRefuse h 0 else s.recoverBusy h

/-- Objects that the recovery session reads. -/
def recoveryReads (key : Nat) : Bool :=
  decide (key / 256 = 0x1000) || decide (key = Obj.resetCause) || decide (key = Obj.bootStatus)

/-- The entries of a READ in the recovery session. -/
def State.recoverEntries (s : State) : List Nat → List Byte × State
  | [] => ([], s)
  | k :: t =>
    let (e, s) := if recoveryReads k then s.readEntry true k else (badEntry Abort.noIndex, s)
    let (rest, s) := s.recoverEntries t
    (e ++ rest, s)

/-- A READ. -/
def State.recoverRead (s : State) (h : Hdr) (payload : List Byte) : State :=
  match parseRead payload with
  | none => s.recoverRefuse h 0
  | some keys =>
    let (b, s) := s.recoverEntries keys
    s.respond h (.ok (le 1 keys.length ++ zeros 3 ++ b))

/-- A WRITE of 0x5A to RESET_REQUEST; no other. -/
def State.recoverWrite (s : State) (h : Hdr) (payload : List Byte) : State :=
  match parseWrite payload with
  | none => s.recoverRefuse h 0
  | some w =>
    if w.key = Obj.resetRequest ∧ w.ty = 2 ∧ w.value = [0x5A] then
      ({ s with rst := { s.rst with igrelDue := true } }).respond h (.ok [])
    else s.recoverRefuse h w.key

/-- A BLOCK_START of a write of a firmware slot. -/
def State.recoverStart (s : State) (h : Hdr) (payload : List Byte) : State :=
  match parseBlock payload with
  | none => s.recoverRefuse h 0
  | some b =>
    if b.reading = false ∧ (b.key = Obj.fwSlot0 ∨ b.key = Obj.fwSlot1) then s.openTransfer h payload b else s.recoverRefuse h b.key

/-- A request of the recovery session, by its type: one at a time. -/
def State.recover (s : State) (h : Hdr) (ty : Nat) (payload : List Byte) : State :=
  if h.sess ≠ 0 then s
  else match ty with
    | 0x19 => if s.igrel.transfers = [] then s.recoverRefuse h 0 else s.runSegment h payload
    | 0x1B => if s.igrel.transfers = [] then s.recoverRefuse h 0 else s.runBlockEnd h payload
    | _ =>
      if s.igrel.transfers ≠ [] then s.recoverBusy h
      else match ty with
        | 0x10 => s.recoverRead h payload
        | 0x11 => s.recoverWrite h payload
        | 0x18 => s.recoverStart h payload
        | _ => s.recoverRefuse h 0

/-! ### Requests by type -/

/-- No request waives its slot. -/
def needsSlot (_ : Session) : Bool := false

/-- A packet that carries a MAC, by its type (R98): executed by the firmware, or by the boot ROM. -/
def State.receive (s : State) (h : Hdr) (ty : Nat) (payload : List Byte) : State :=
  if s.recovering then s.recover h ty payload
  else if s.igrelRuns = false then s
  else match ty with
    | 0x05 => s.inSession h (fun x s => if payload = [] then s.closeSession x.id else s.badLayout h ty payload)
    | 0x10 => s.inSlot h payload needsSlot (fun _ s => s.runRead h payload)
    | 0x11 => s.inSlot h payload (fun x => asksSnuff payload && decide (1 ≤ x.level)) (fun x s => s.runWriteOf h x.level payload)
    | 0x12 => s.inSlot h payload needsSlot (fun _ s => s.runDescribe h payload)
    | 0x18 => s.inSlot h payload needsSlot (fun x s => s.runBlockStart h x.level payload)
    | 0x19 => s.inSession h (fun _ s => s.runSegment h payload)
    | 0x1A => s.inSession h (fun _ s => s.runAck h payload)
    | 0x1B => s.inSlot h payload (fun _ => true) (fun _ s => s.runBlockEnd h payload)
    | 0x30 => s.inSlot h payload needsSlot (fun _ s => s.runSubscribe h payload)
    | _ => s.dropPacket

/-- A HELLO; the boot ROM refuses it, as it refuses every request beside those of its session (R123). -/
def State.takeHello (s : State) (src : Src) (tag level : Nat) (nonce : List Byte) : State :=
  if s.recovering then s.refusePlain src tag
  else if s.igrelRuns then s.reserve src tag level nonce
  else s

/-- A PROOF. -/
def State.takeProof (s : State) (src : Src) (tag sess : Nat) (bytes : List Byte) : State :=
  if s.recovering then s.refusePlain src tag
  else if s.igrelRuns then s.prove src tag sess bytes
  else s

/-- A datagram as it arrives (R97 to R99): one that does not reach Igrel is dropped uncounted; a packet that breaks R98, whose type the
device does not take, or whose MAC does not verify, is dropped and counted; any other is the packet that its bytes spell. -/
def State.takeDatagram (s : State) (d : Datagram) : State :=
  let p := d.bytes
  let ty := field p 3 1
  let body := packetPayload p
  if s.reaches d = false then s
  else if headerOk p = false then s.dropPacket
  else if ty = 0x01 then
    if body.length = 20 ∧ field body 1 3 = 0 ∧ field p 4 1 = 0 ∧ field p 8 4 = 0 then
      s.takeHello d.src (field p 6 2) (field body 0 1) (body.drop 4)
    else s.dropPacket
  else if ty = 0x03 then (if field p 8 4 = 0 then s.takeProof d.src (field p 6 2) (field p 4 1) body else s.dropPacket)
  else if s.macOk p = false then s.dropPacket
  else s.receive (packetHdr d) ty body

end Sys2Proof.Machine
end

