-- ==== Sys2Proof/Machine/Requests.lean ====
section
/-! DEFINITION. The commands of Igrel itself (05): packets, sessions, requests and transfers, the network's own requests. -/

namespace Sys2Proof.Machine

/-- IGREL_DROP (R97 to R99): a datagram as it arrives. What R97 and R99 drop is dropped; another is the packet that it spells. -/
def execIgrelDrop (d : Datagram) (s : State) : Host.Outcome State Fault Refusal := ok (s.takeDatagram d)

/-- HELLO (R100, R101, R123). -/
def execHello (src : Src) (tag level : Nat) (nonce : List Byte) (s : State) : Host.Outcome State Fault Refusal :=
  ok (s.takeHello src tag level nonce)

/-- PROOF (R100, R101, R123). -/
def execProof (src : Src) (tag sess : Nat) (bytes : List Byte) (s : State) : Host.Outcome State Fault Refusal :=
  ok (s.takeProof src tag sess bytes)

/-- RESERVATION_LAPSE (05, sessions): 2 s after CHALLENGE. -/
def execReservationLapse (sess : Nat) (s : State) : Host.Outcome State Fault Refusal :=
  if s.igrel.sessions.any (fun x => decide (x.id = sess) && x.reserved) then ok (s.closeSession sess) else ok s

/-- AUTH_LOCKOUT_EXPIRY (R101). -/
def execAuthLockoutExpiry (ip : Nat) (s : State) : Host.Outcome State Fault Refusal :=
  ok { s with igrel := { s.igrel with lockouts := s.igrel.lockouts.filter (fun a => decide (a ≠ ip)) } }

/-- CLOSE (R103). -/
def execClose (h : Hdr) (payload : List Byte) (s : State) : Host.Outcome State Fault Refusal := ok (s.receive h 0x05 payload)

/-- SESSION_IDLE_TIMEOUT (R103). -/
def execSessionIdleTimeout (sess : Nat) (s : State) : Host.Outcome State Fault Refusal :=
  if (s.session sess).isSome then ok (s.closeSession sess) else ok s

/-- READ (R105): `vppOk` is whether VPP_FUSE is within the programming range, which FUSE_STATUS shows (04 R92). -/
def execRead (h : Hdr) (payload : List Byte) (vppOk : Bool) (s : State) : Host.Outcome State Fault Refusal :=
  ok ((s.seeVpp vppOk).receive h 0x10 payload)

/-- A write that the primary has accepted and forwarded, applied on its mate (12 R285): index U16, subindex U8 and type U8, then the value.
HEALTH_EDIT comes so from the old primary of a role swap (12 R301; log entry 103). -/
def State.takeForward (s : State) (p : List Byte) : State :=
  let key := 256 * field p 0 2 + field p 2 1
  let value := p.drop 4
  match Dict.row key with
  | none => s
  | some r =>
    if s.twinUp = false ∨ isLocal key = true then s
    else if key = Obj.healthEdit then
      (if s.role = .primary ∨ s.twin.swap.isSome = true then s.publish (editRecords value) none else s)
    else if s.role ≠ .mate then s
    else if r.ty = .domain then s.takeContent key value
    else s.writeEffect key (storedBits r.ty (fromLe value))

/-- WRITE (R106): `vppOk` as for a READ; writes of the fuse objects ask for it (04 R90). One that is `forwarded` comes over the twin link
from the primary, in no session, and is not answered (12 R285). -/
def execWrite (h : Hdr) (payload : List Byte) (vppOk forwarded : Bool) (s : State) : Host.Outcome State Fault Refusal :=
  ok (if forwarded then (s.seeVpp vppOk).takeForward payload else (s.seeVpp vppOk).receive h 0x11 payload)

/-- DESCRIBE (R493). -/
def execDescribe (h : Hdr) (payload : List Byte) (s : State) : Host.Outcome State Fault Refusal := ok (s.receive h 0x12 payload)

/-- BLOCK_START (R111, R114). -/
def execBlockStart (h : Hdr) (payload : List Byte) (s : State) : Host.Outcome State Fault Refusal := ok (s.receive h 0x18 payload)

/-- BLOCK_SEGMENT (R111). -/
def execBlockSegment (h : Hdr) (payload : List Byte) (s : State) : Host.Outcome State Fault Refusal := ok (s.receive h 0x19 payload)

/-- BLOCK_ACK (R111). -/
def execBlockAck (h : Hdr) (payload : List Byte) (s : State) : Host.Outcome State Fault Refusal := ok (s.receive h 0x1A payload)

/-- BLOCK_END (R112). -/
def execBlockEnd (h : Hdr) (payload : List Byte) (s : State) : Host.Outcome State Fault Refusal := ok (s.receive h 0x1B payload)

/-- BLOCK_TIMEOUT (R112): 2 s with no segment or acknowledgement. -/
def execBlockTimeout (sess tag : Nat) (s : State) : Host.Outcome State Fault Refusal :=
  match s.transfer sess tag with
  | none => ok s
  | some t =>
    let h : Hdr := { src := t.src, sess := sess, seq := 0, tag := tag }
    ok ((s.dropTransfer sess tag).respond h (.abort Abort.blockTimeout 0 (t.key / 256) (t.key % 256)))

/-- SUBSCRIBE (R119). -/
def execSubscribe (h : Hdr) (payload : List Byte) (s : State) : Host.Outcome State Fault Refusal := ok (s.receive h 0x30 payload)

/-- TELEMETRY_SEND (R119): a period of a session's subscription has passed. -/
def execTelemetrySend (sess : Nat) (canSend : Bool) (s : State) : Host.Outcome State Fault Refusal :=
  match s.session sess with
  | some x =>
    match x.sub with
    | some u => if s.igrelRuns then ok (s.telemetry x u canSend) else ok s
    | none => ok s
  | none => ok s

/-- Whether the device answers on the network. -/
def State.onNetwork (s : State) : Bool := s.igrelRuns || s.recovering

/-- ARP_REQUEST (05): answered for the address in force. -/
def execArpRequest (mac ip target : Nat) (s : State) : Host.Outcome State Fault Refusal :=
  if s.onNetwork && decide (target = s.igrel.ip) then ok (s.emit (.arpReply mac ip)) else ok s

/-- ICMP_ECHO_REQUEST (05): the boot ROM answers its recovery session and nothing else (03 R77). -/
def execIcmpEchoRequest (src : Nat) (data : List Byte) (s : State) : Host.Outcome State Fault Refusal :=
  if s.igrelRuns then ok (s.emit (.echoReply src data)) else ok s

end Sys2Proof.Machine
end

