-- ==== Sys2Proof/Machine/Commands.lean ====
section
/-! DEFINITION. The commands that are a WRITE of one object, a READ of one, or the BLOCK_END of one's content; and the events of the health
map's swap and of the compressor. Each goes through Igrel as its request does. -/

namespace Sys2Proof.Machine

/-- A WRITE of a value to an object, with the object's own type. -/
def State.send (s : State) (h : Hdr) (key v : Nat) : State := s.receive h 0x11 (writePayload key v)

/-- A BLOCK_END of the open write of an object; no effect where the header names no such transfer. -/
def State.sendEnd (s : State) (h : Hdr) (mine : Nat → Bool) : State :=
  match s.transfer h.sess h.tag with
  | some t => if !t.reading && mine t.key then s.receive h 0x1B [] else s
  | none => s

/-- BLOCK_RESET_WRITE (03 R69). -/
def execBlockResetWrite (h : Hdr) (v : Nat) (s : State) : Host.Outcome State Fault Refusal := ok (s.send h Obj.blockReset v)

/-- MODE_REQUEST_KINDLE (02 R46). -/
def execModeRequestKindle (h : Hdr) (s : State) : Host.Outcome State Fault Refusal := ok (s.send h Obj.modeRequest 1)

/-- MODE_REQUEST_PILOT (02 R41, R44, R55). -/
def execModeRequestPilot (h : Hdr) (s : State) : Host.Outcome State Fault Refusal := ok (s.send h Obj.modeRequest 2)

/-- MODE_REQUEST_TRIM (02 R41). -/
def execModeRequestTrim (h : Hdr) (s : State) : Host.Outcome State Fault Refusal := ok (s.send h Obj.modeRequest 3)

/-- MODE_REQUEST_LIT (02 R47). -/
def execModeRequestLit (h : Hdr) (s : State) : Host.Outcome State Fault Refusal := ok (s.send h Obj.modeRequest 4)

/-- MODE_REQUEST_SNUFF (02 R52; 05 R118). -/
def execModeRequestSnuff (h : Hdr) (s : State) : Host.Outcome State Fault Refusal := ok (s.send h Obj.modeRequest 5)

/-- SNUFF_CAUSE_CLEAR (00 R7; 02 R54). -/
def execSnuffCauseClear (h : Hdr) (v : Nat) (s : State) : Host.Outcome State Fault Refusal := ok (s.send h Obj.snuffCauseClear v)

/-- RESET_CAUSE_CLEAR (03 R63). -/
def execResetCauseClear (h : Hdr) (v : Nat) (s : State) : Host.Outcome State Fault Refusal := ok (s.send h Obj.resetCauseClear v)

/-- RESET_REQUEST (03 R60). -/
def execResetRequest (h : Hdr) (v : Nat) (s : State) : Host.Outcome State Fault Refusal := ok (s.send h Obj.resetRequest v)

/-- FUSE_PAD_PROGRAM (04 R87, R90, R92): `vppOk` is whether VPP_FUSE is within the programming range. -/
def execFusePadProgram (h : Hdr) (v : Nat) (vppOk : Bool) (s : State) : Host.Outcome State Fault Refusal :=
  ok ((s.seeVpp vppOk).send h Obj.fusePadProgram v)

/-- FUSE_PAD_CODE_READ (04 R86). -/
def execFusePadCodeRead (h : Hdr) (s : State) : Host.Outcome State Fault Refusal :=
  ok (s.receive h 0x10 (le 1 1 ++ zeros 3 ++ le 2 (Obj.fusePadCode / 256) ++ le 1 (Obj.fusePadCode % 256) ++ zeros 1))

/-- FUSE_LOCK (04 R90). -/
def execFuseLock (h : Hdr) (v : Nat) (vppOk : Bool) (s : State) : Host.Outcome State Fault Refusal :=
  ok ((s.seeVpp vppOk).send h Obj.fuseLock v)

/-- CONFIG_SAVE (05 R494). -/
def execConfigSave (h : Hdr) (v : Nat) (s : State) : Host.Outcome State Fault Refusal := ok (s.send h Obj.configSave v)

/-- FW_SLOT_WRITE (05 R122). -/
def execFwSlotWrite (h : Hdr) (s : State) : Host.Outcome State Fault Refusal :=
  ok (s.sendEnd h (fun k => decide (k = Obj.fwSlot0) || decide (k = Obj.fwSlot1)))

/-- FSI_MIN_CLEAR (01). -/
def execFsiMinClear (h : Hdr) (v : Nat) (s : State) : Host.Outcome State Fault Refusal := ok (s.send h Obj.fsiMinClear v)

/-- W1C_CLEAR (00 R9). -/
def execW1cClear (h : Hdr) (key v : Nat) (s : State) : Host.Outcome State Fault Refusal :=
  if isW1c key then ok (s.send h key v) else ok s

/-- STORE_FLUSH (06 R143). -/
def execStoreFlush (h : Hdr) (v : Nat) (s : State) : Host.Outcome State Fault Refusal := ok (s.send h Obj.storeFlush v)

/-- RING_MAP_WRITE (06 R142). -/
def execRingMapWrite (h : Hdr) (s : State) : Host.Outcome State Fault Refusal :=
  ok (s.sendEnd h (fun k => decide (k = Obj.ringMap)))

/-- CONTEXT_IMAGE_WRITE (07 R167). -/
def execContextImageWrite (h : Hdr) (s : State) : Host.Outcome State Fault Refusal :=
  ok (s.sendEnd h (fun k => decide (0x2100 ≤ k / 256) && decide (k / 256 < 0x21A0)))

/-- HEALTH_EDIT (08 R186). -/
def execHealthEdit (h : Hdr) (s : State) : Host.Outcome State Fault Refusal :=
  ok (s.sendEnd h (fun k => decide (k = Obj.healthEdit)))

/-- HEALTH_SWAP (08 R188): line S has been passed in every strip. -/
def execHealthSwap (s : State) : Host.Outcome State Fault Refusal := ok s.swapDue

/-- Publish again what an overwrite has held (08 R188). -/
def State.publishEach (s : State) : List (List (Nat × Nat) × Option Deferred) → State
  | [] => s
  | (recs, d) :: t => (s.publish recs d).publishEach t

/-- HEALTH_OVERWRITE_DONE (08 R188). -/
def execHealthOverwriteDone (s : State) : Host.Outcome State Fault Refusal :=
  if s.health.overwriting then
    let held := s.health.held
    let s := { s with health := { s.health with held := [] } }
    ok (s.endOverwrite.publishEach held)
  else ok s

/-- PLACEMENT_TRIM_WRITE (08 R195). -/
def execPlacementTrimWrite (h : Hdr) (s : State) : Host.Outcome State Fault Refusal :=
  ok (s.sendEnd h (fun k => decide (k = Obj.placementTrim)))

/-- ENCODER_ENABLE (09 R201). -/
def execEncoderEnable (h : Hdr) (ch : Fin 2) (v : Nat) (s : State) : Host.Outcome State Fault Refusal :=
  ok (s.send h (Obj.encEnable ch) v)

/-- MAINT_START (10 R250). -/
def execMaintStart (h : Hdr) (v : Nat) (s : State) : Host.Outcome State Fault Refusal := ok (s.send h Obj.maintStart v)

/-- SWAP_REQUEST (12 R301). -/
def execSwapRequest (h : Hdr) (v : Nat) (s : State) : Host.Outcome State Fault Refusal := ok (s.send h Obj.swapRequest v)

/-- CAMERA_COMMIT (13 R314). -/
def execCameraCommit (h : Hdr) (c : Fin 8) (v : Nat) (s : State) : Host.Outcome State Fault Refusal := ok (s.send h (Obj.camCommit c) v)

/-- UART_TX (13 R319). -/
def execUartTx (h : Hdr) (s : State) : Host.Outcome State Fault Refusal := ok (s.sendEnd h (fun k => decide (k = Obj.uartTx)))

/-- TAP_SELECT (13 R321). -/
def execTapSelect (h : Hdr) (v : Nat) (s : State) : Host.Outcome State Fault Refusal := ok (s.send h Obj.tapSelect v)

/-- CHUNK_COMPRESS (15 R342, R344, R345): the chunk in hand of a normal channel, or the next one of a running request. -/
def execChunkCompress (ch : Fin 4) (s : State) : Host.Outcome State Fault Refusal :=
  if s.uploadUp = false then ok s
  else if (ch : Nat) < 2 then
    match s.chunkInHand ch with
    | some (n, ends) => ok (s.compressNormal ch n ends)
    | none => ok s
  else
    match (s.chan ch).req with
    | some r => ok (s.compressRequest ch r s.ylogBytes)
    | none => ok s

/-- UPLOAD_REQUEST (15 R354). -/
def execUploadRequest (h : Hdr) (s : State) : Host.Outcome State Fault Refusal :=
  ok (s.sendEnd h (fun k => decide (k = Obj.uploadRequest)))

/-- SCAN_REQUEST (16 R361). -/
def execScanRequest (h : Hdr) (s : State) : Host.Outcome State Fault Refusal :=
  ok (s.sendEnd h (fun k => decide (k = Obj.scanRequest)))

/-- RUNNING_WRITE (16 R360). -/
def execRunningWrite (h : Hdr) (u : Fin 16) (v : Nat) (s : State) : Host.Outcome State Fault Refusal := ok (s.send h (Obj.running u) v)

/-- FREQ_SELECT (17 R383). -/
def execFreqSelect (h : Hdr) (v : Nat) (s : State) : Host.Outcome State Fault Refusal := ok (s.send h Obj.freqSelect v)

/-- BANK_SWAP (19 R417). -/
def execBankSwap (h : Hdr) (i : Fin 48) (v : Nat) (s : State) : Host.Outcome State Fault Refusal := ok (s.send h (Obj.bankSwap i) v)

/-- LOOP_SETPOINT (19 R419). -/
def execLoopSetpoint (h : Hdr) (i : Fin 48) (v : Nat) (s : State) : Host.Outcome State Fault Refusal := ok (s.send h (Obj.setpoint i) v)

/-- LOOP_ENABLE (19 R419). -/
def execLoopEnable (h : Hdr) (i : Fin 48) (v : Nat) (s : State) : Host.Outcome State Fault Refusal := ok (s.send h (Obj.lpEnable i) v)

/-- TARGET (20 R434, R436). -/
def execTarget (h : Hdr) (axis : Fin 4) (v : Nat) (s : State) : Host.Outcome State Fault Refusal := ok (s.send h (Obj.axTarget axis) v)

/-- HOME (20 R438). -/
def execHome (h : Hdr) (axis : Fin 4) (v : Nat) (s : State) : Host.Outcome State Fault Refusal := ok (s.send h (Obj.axHome axis) v)

/-- AXIS_STOP (20 R440). -/
def execAxisStop (h : Hdr) (axis : Fin 4) (v : Nat) (s : State) : Host.Outcome State Fault Refusal := ok (s.send h (Obj.axStop axis) v)

/-- STOP_ALL (20 R440). -/
def execStopAll (h : Hdr) (v : Nat) (s : State) : Host.Outcome State Fault Refusal := ok (s.send h Obj.stopAll v)

/-- TIME_SET (21 R447). -/
def execTimeSet (h : Hdr) (v : Nat) (s : State) : Host.Outcome State Fault Refusal := ok (s.send h Obj.timeSet v)

/-- TIME_STEP (21 R447). -/
def execTimeStep (h : Hdr) (v : Nat) (s : State) : Host.Outcome State Fault Refusal := ok (s.send h Obj.timeStep v)

/-- RATE_TRIM (21 R445). -/
def execRateTrim (h : Hdr) (v : Nat) (s : State) : Host.Outcome State Fault Refusal := ok (s.send h Obj.rateTrim v)

/-- FREEZE_NOW (22 R472). -/
def execFreezeNow (h : Hdr) (v : Nat) (s : State) : Host.Outcome State Fault Refusal := ok (s.send h Obj.freezeNow v)

/-- UNFREEZE (22 R475). -/
def execUnfreeze (h : Hdr) (v : Nat) (s : State) : Host.Outcome State Fault Refusal := ok (s.send h Obj.unfreeze v)

end Sys2Proof.Machine
end

