-- ==== Sys2Proof/Machine/Dispatch.lean ====
section
/-! DEFINITION. One arm for each command: a direct call of its meaning, or rejected by name. -/

namespace Sys2Proof.Machine

/-- The effect of a command on everything but the queue. -/
def exec (i : Instr) (s : State) : Host.Outcome State Fault Refusal :=
  match i with
  | .powerOnReset => Sys2Proof.Machine.execPowerOnReset s
  | .pinReset => Sys2Proof.Machine.execPinReset s
  | .watchdogExpiry => Sys2Proof.Machine.execWatchdogExpiry s
  | .snuffEscReset padHigh => Sys2Proof.Machine.execSnuffEscReset padHigh s
  | .supplyBrownout supply => Sys2Proof.Machine.execSupplyBrownout supply s
  | .refClkLoss => Sys2Proof.Machine.execRefClkLoss s
  | .igrelReset => Sys2Proof.Machine.execIgrelReset s
  | .resetRelease roles testEn => Sys2Proof.Machine.execResetRelease roles testEn s
  | .pllLock => Sys2Proof.Machine.execPllLock s
  | .serviceCoreRelease => Sys2Proof.Machine.execServiceCoreRelease s
  | .bootRomVerify readsValid => Sys2Proof.Machine.execBootRomVerify readsValid s
  | .bootRetry => Sys2Proof.Machine.execBootRetry s
  | .configLoad => Sys2Proof.Machine.execConfigLoad s
  | .blockResetWrite h v => Sys2Proof.Machine.execBlockResetWrite h v s
  | .blockRelease b clocks => Sys2Proof.Machine.execBlockRelease b clocks s
  | .releasePended b => Sys2Proof.Machine.execReleasePended b s
  | .firmwareTick => Sys2Proof.Machine.execFirmwareTick s
  | .fsiSample sites => Sys2Proof.Machine.execFsiSample sites s
  | .dieTempSample sensor t => Sys2Proof.Machine.execDieTempSample sensor t s
  | .cdcStall crossing firingPath => Sys2Proof.Machine.execCdcStall crossing firingPath s
  | .modeRequestKindle h => Sys2Proof.Machine.execModeRequestKindle h s
  | .modeRequestPilot h => Sys2Proof.Machine.execModeRequestPilot h s
  | .modeRequestTrim h => Sys2Proof.Machine.execModeRequestTrim h s
  | .modeRequestLit h => Sys2Proof.Machine.execModeRequestLit h s
  | .modeRequestSnuff h => Sys2Proof.Machine.execModeRequestSnuff h s
  | .litStopComplete => Sys2Proof.Machine.execLitStopComplete s
  | .stopSuppressTimeout g => Sys2Proof.Machine.execStopSuppressTimeout g s
  | .snuffEntry => Sys2Proof.Machine.execSnuffEntry s
  | .safeStopAssert => Sys2Proof.Machine.execSafeStopAssert s
  | .safeStopRelease => Sys2Proof.Machine.execSafeStopRelease s
  | .snuffCauseClear h v => Sys2Proof.Machine.execSnuffCauseClear h v s
  | .headPwrDrop => Sys2Proof.Machine.execHeadPwrDrop s
  | .headSettleExpiry => Sys2Proof.Machine.execHeadSettleExpiry s
  | .resetCauseClear h v => Sys2Proof.Machine.execResetCauseClear h v s
  | .resetRequest h v => Sys2Proof.Machine.execResetRequest h v s
  | .fusePadProgram h v vppOk => Sys2Proof.Machine.execFusePadProgram h v vppOk s
  | .fuseProgramComplete blown => Sys2Proof.Machine.execFuseProgramComplete blown s
  | .fusePadCodeRead h => Sys2Proof.Machine.execFusePadCodeRead h s
  | .fuseLock h v vppOk => Sys2Proof.Machine.execFuseLock h v vppOk s
  | .jtagExtest => Sys2Proof.Machine.execJtagExtest s
  | .jtagClamp => Sys2Proof.Machine.execJtagClamp s
  | .jtagIdcode => Sys2Proof.Machine.execJtagIdcode s
  | .jtagSamplePreload cells => Sys2Proof.Machine.execJtagSamplePreload cells s
  | .jtagHighz => Sys2Proof.Machine.execJtagHighz s
  | .jtagBypass code => Sys2Proof.Machine.execJtagBypass code s
  | .igrelDrop d => Sys2Proof.Machine.execIgrelDrop d s
  | .hello src tag level nonce => Sys2Proof.Machine.execHello src tag level nonce s
  | .proof src tag sess bytes => Sys2Proof.Machine.execProof src tag sess bytes s
  | .reservationLapse sess => Sys2Proof.Machine.execReservationLapse sess s
  | .authLockoutExpiry ip => Sys2Proof.Machine.execAuthLockoutExpiry ip s
  | .close h payload => Sys2Proof.Machine.execClose h payload s
  | .sessionIdleTimeout sess => Sys2Proof.Machine.execSessionIdleTimeout sess s
  | .read h payload vppOk => Sys2Proof.Machine.execRead h payload vppOk s
  | .write h payload vppOk forwarded => Sys2Proof.Machine.execWrite h payload vppOk forwarded s
  | .describe h payload => Sys2Proof.Machine.execDescribe h payload s
  | .blockStart h payload => Sys2Proof.Machine.execBlockStart h payload s
  | .blockSegment h payload => Sys2Proof.Machine.execBlockSegment h payload s
  | .blockAck h payload => Sys2Proof.Machine.execBlockAck h payload s
  | .blockEnd h payload => Sys2Proof.Machine.execBlockEnd h payload s
  | .blockTimeout sess tag => Sys2Proof.Machine.execBlockTimeout sess tag s
  | .subscribe h payload => Sys2Proof.Machine.execSubscribe h payload s
  | .telemetrySend sess canSend => Sys2Proof.Machine.execTelemetrySend sess canSend s
  | .configSave h v => Sys2Proof.Machine.execConfigSave h v s
  | .fwSlotWrite h => Sys2Proof.Machine.execFwSlotWrite h s
  | .fsiMinClear h v => Sys2Proof.Machine.execFsiMinClear h v s
  | .w1cClear h key v => Sys2Proof.Machine.execW1cClear h key v s
  | .rasterLinkUp trained reversed => Sys2Proof.Machine.execRasterLinkUp trained reversed s
  | .rasterLaneLoss lane lol errors => Sys2Proof.Machine.execRasterLaneLoss lane lol errors s
  | .rasterPacketDrop errors lanes => Sys2Proof.Machine.execRasterPacketDrop errors lanes s
  | .block stream wax => Sys2Proof.Machine.execBlock stream wax s
  | .commit payload => Sys2Proof.Machine.execCommit payload s
  | .creditPeriodExpiry => Sys2Proof.Machine.execCreditPeriodExpiry s
  | .storeFlush h v => Sys2Proof.Machine.execStoreFlush h v s
  | .ringMapWrite h => Sys2Proof.Machine.execRingMapWrite h s
  | .taperLineRequest g => Sys2Proof.Machine.execTaperLineRequest g s
  | .decodeLine e => Sys2Proof.Machine.execDecodeLine e s
  | .contextRewind k => Sys2Proof.Machine.execContextRewind k s
  | .contextImageWrite h => Sys2Proof.Machine.execContextImageWrite h s
  | .stripCorrect st => Sys2Proof.Machine.execStripCorrect st s
  | .wickLineDecision => Sys2Proof.Machine.execWickLineDecision s
  | .lineFrameSend st => Sys2Proof.Machine.execLineFrameSend st s
  | .healthEdit h => Sys2Proof.Machine.execHealthEdit h s
  | .healthSwap => Sys2Proof.Machine.execHealthSwap s
  | .healthOverwriteDone => Sys2Proof.Machine.execHealthOverwriteDone s
  | .placementTrimWrite h => Sys2Proof.Machine.execPlacementTrimWrite h s
  | .encoderEdge ch pins => Sys2Proof.Machine.execEncoderEdge ch pins s
  | .indexEdge ch pins => Sys2Proof.Machine.execIndexEdge ch pins s
  | .standstillTimeout ch => Sys2Proof.Machine.execStandstillTimeout ch s
  | .encoderBlockExpiry => Sys2Proof.Machine.execEncoderBlockExpiry s
  | .encoderEnable h ch v => Sys2Proof.Machine.execEncoderEnable h ch v s
  | .armingStart => Sys2Proof.Machine.execArmingStart s
  | .lineArm g => Sys2Proof.Machine.execLineArm g s
  | .strobeEdge g => Sys2Proof.Machine.execStrobeEdge g s
  | .strobeEnd g => Sys2Proof.Machine.execStrobeEnd g s
  | .strobeCut g => Sys2Proof.Machine.execStrobeCut g s
  | .snufferEscalate g padStillHigh => Sys2Proof.Machine.execSnufferEscalate g padStillHigh s
  | .maintStart h v => Sys2Proof.Machine.execMaintStart h v s
  | .maintLine => Sys2Proof.Machine.execMaintLine s
  | .headTrainReply m slot inverted => Sys2Proof.Machine.execHeadTrainReply m slot inverted s
  | .headLaneTimeout m => Sys2Proof.Machine.execHeadLaneTimeout m s
  | .status m errors chars => Sys2Proof.Machine.execStatus m errors chars s
  | .statusTimeout m => Sys2Proof.Machine.execStatusTimeout m s
  | .headLaneLoss m lol errors => Sys2Proof.Machine.execHeadLaneLoss m lol errors s
  | .ctrlResendTimeout m => Sys2Proof.Machine.execCtrlResendTimeout m s
  | .headLaneRetrain m => Sys2Proof.Machine.execHeadLaneRetrain m s
  | .recoverTimeExpiry m => Sys2Proof.Machine.execRecoverTimeExpiry m s
  | .timeFrameSend => Sys2Proof.Machine.execTimeFrameSend s
  | .twinLaneLoss l errors => Sys2Proof.Machine.execTwinLaneLoss l errors s
  | .heartbeatSend => Sys2Proof.Machine.execHeartbeatSend s
  | .heartbeat payload => Sys2Proof.Machine.execHeartbeat payload s
  | .heartbeatTimeout => Sys2Proof.Machine.execHeartbeatTimeout s
  | .roleDecisionTimeout => Sys2Proof.Machine.execRoleDecisionTimeout s
  | .decision seq g outcome => Sys2Proof.Machine.execDecision seq g outcome s
  | .lineStateSend => Sys2Proof.Machine.execLineStateSend s
  | .lineState payload => Sys2Proof.Machine.execLineState payload s
  | .lineStateTimeout g => Sys2Proof.Machine.execLineStateTimeout g s
  | .twinAliveLow => Sys2Proof.Machine.execTwinAliveLow s
  | .publish gen line recs => Sys2Proof.Machine.execPublish gen line recs s
  | .findingMessage recs => Sys2Proof.Machine.execFindingMessage recs s
  | .modeMessage mode line => Sys2Proof.Machine.execModeMessage mode line s
  | .snuffAll causes => Sys2Proof.Machine.execSnuffAll causes s
  | .swapRequest h v => Sys2Proof.Machine.execSwapRequest h v s
  | .swapMessage line page => Sys2Proof.Machine.execSwapMessage line page s
  | .roleSwapComplete => Sys2Proof.Machine.execRoleSwapComplete s
  | .promoted lines => Sys2Proof.Machine.execPromoted lines s
  | .twinResetRequest => Sys2Proof.Machine.execTwinResetRequest s
  | .joinReq rev fw digest => Sys2Proof.Machine.execJoinReq rev fw digest s
  | .joinPlan snapshot line => Sys2Proof.Machine.execJoinPlan snapshot line s
  | .joinSnapshot => Sys2Proof.Machine.execJoinSnapshot s
  | .joinImage images gen map => Sys2Proof.Machine.execJoinImage images gen map s
  | .joinReady => Sys2Proof.Machine.execJoinReady s
  | .joinCounters counters => Sys2Proof.Machine.execJoinCounters counters s
  | .joinRetry => Sys2Proof.Machine.execJoinRetry s
  | .joinEnterLit => Sys2Proof.Machine.execJoinEnterLit s
  | .cameraFrameStart p => Sys2Proof.Machine.execCameraFrameStart p s
  | .cameraTrigger p => Sys2Proof.Machine.execCameraTrigger p s
  | .cameraLine p line => Sys2Proof.Machine.execCameraLine p line s
  | .cameraFrameEnd p => Sys2Proof.Machine.execCameraFrameEnd p s
  | .cameraFrameTimeout p fvalRose => Sys2Proof.Machine.execCameraFrameTimeout p fvalRose s
  | .cameraCommit h c v => Sys2Proof.Machine.execCameraCommit h c v s
  | .uartTx h => Sys2Proof.Machine.execUartTx h s
  | .uartTransfer p => Sys2Proof.Machine.execUartTransfer p s
  | .uartRxDone p bytes => Sys2Proof.Machine.execUartRxDone p bytes s
  | .tapSelect h v => Sys2Proof.Machine.execTapSelect h v s
  | .ledShortTest run1 run2 => Sys2Proof.Machine.execLedShortTest run1 run2 s
  | .flushTimeExpiry ch => Sys2Proof.Machine.execFlushTimeExpiry ch s
  | .chunkCompress ch => Sys2Proof.Machine.execChunkCompress ch s
  | .uploadPacketSend => Sys2Proof.Machine.execUploadPacketSend s
  | .uploadCreditGrant ch v => Sys2Proof.Machine.execUploadCreditGrant ch v s
  | .uploadResend ch v => Sys2Proof.Machine.execUploadResend ch v s
  | .uploadAck ch v => Sys2Proof.Machine.execUploadAck ch v s
  | .uploadEntryDropped ch v => Sys2Proof.Machine.execUploadEntryDropped ch v s
  | .ackTimeoutExpiry ch => Sys2Proof.Machine.execAckTimeoutExpiry ch s
  | .uploadRequest h => Sys2Proof.Machine.execUploadRequest h s
  | .scanRequest h => Sys2Proof.Machine.execScanRequest h s
  | .scanComplete => Sys2Proof.Machine.execScanComplete s
  | .runningWrite h u v => Sys2Proof.Machine.execRunningWrite h u v s
  | .scrubBlock asRead => Sys2Proof.Machine.execScrubBlock asRead s
  | .dramCe addr word check overwritten => Sys2Proof.Machine.execDramCe addr word check overwritten s
  | .dramUe addr source stream block word check => Sys2Proof.Machine.execDramUe addr source stream block word check s
  | .rtPanicRaise st held => Sys2Proof.Machine.execRtPanicRaise st held s
  | .rtPanicClear held => Sys2Proof.Machine.execRtPanicClear held s
  | .mr4Poll code faster => Sys2Proof.Machine.execMr4Poll code faster s
  | .dramRefresh channel bank => Sys2Proof.Machine.execDramRefresh channel bank s
  | .freqSelect h v => Sys2Proof.Machine.execFreqSelect h v s
  | .dramFreqChange => Sys2Proof.Machine.execDramFreqChange s
  | .dramFreqChangeDone => Sys2Proof.Machine.execDramFreqChangeDone s
  | .wickRequest r => Sys2Proof.Machine.execWickRequest r s
  | .wickDeferredGrant => Sys2Proof.Machine.execWickDeferredGrant s
  | .wickDeferTimeout id => Sys2Proof.Machine.execWickDeferTimeout id s
  | .headroomPublish => Sys2Proof.Machine.execHeadroomPublish s
  | .loopSample j => Sys2Proof.Machine.execLoopSample j s
  | .spiSenseDone p bits => Sys2Proof.Machine.execSpiSenseDone p bits s
  | .spiActuatorWrite p => Sys2Proof.Machine.execSpiActuatorWrite p s
  | .loopFollowTimeout j => Sys2Proof.Machine.execLoopFollowTimeout j s
  | .bankSwap h j v => Sys2Proof.Machine.execBankSwap h j v s
  | .loopSetpoint h j v => Sys2Proof.Machine.execLoopSetpoint h j v s
  | .loopEnable h j v => Sys2Proof.Machine.execLoopEnable h j v s
  | .target h axis v => Sys2Proof.Machine.execTarget h axis v s
  | .moveStart axis => Sys2Proof.Machine.execMoveStart axis s
  | .motionTick => Sys2Proof.Machine.execMotionTick s
  | .home h axis v => Sys2Proof.Machine.execHome h axis v s
  | .axisStop h axis v => Sys2Proof.Machine.execAxisStop h axis v s
  | .stopAll h v => Sys2Proof.Machine.execStopAll h v s
  | .chopperTrip axis ph driveNs => Sys2Proof.Machine.execChopperTrip axis ph driveNs s
  | .chopperToffExpiry axis ph => Sys2Proof.Machine.execChopperToffExpiry axis ph s
  | .chopperBlankExpiry axis ph high => Sys2Proof.Machine.execChopperBlankExpiry axis ph high s
  | .phaseOpenTimeout axis ph => Sys2Proof.Machine.execPhaseOpenTimeout axis ph s
  | .timeSet h v => Sys2Proof.Machine.execTimeSet h v s
  | .timeStep h v => Sys2Proof.Machine.execTimeStep h v s
  | .rateTrim h v => Sys2Proof.Machine.execRateTrim h v s
  | .ptpSyncSend => Sys2Proof.Machine.execPtpSyncSend s
  | .ptpFollowUp => Sys2Proof.Machine.execPtpFollowUp s
  | .ptpAnnounceSend => Sys2Proof.Machine.execPtpAnnounceSend s
  | .ptpDelayReq domain identity seq => Sys2Proof.Machine.execPtpDelayReq domain identity seq s
  | .ptpForeignAnnounce identity => Sys2Proof.Machine.execPtpForeignAnnounce identity s
  | .ptpTimestampVector tx msg => Sys2Proof.Machine.execPtpTimestampVector tx msg s
  | .calTemperature run1 run2 => Sys2Proof.Machine.execCalTemperature run1 run2 s
  | .calFsi run1 run2 => Sys2Proof.Machine.execCalFsi run1 run2 s
  | .calTermination codes => Sys2Proof.Machine.execCalTermination codes s
  | .calEqualiser unit s1 s2 => Sys2Proof.Machine.execCalEqualiser unit s1 s2 s
  | .calChopper run1 run2 => Sys2Proof.Machine.execCalChopper run1 run2 s
  | .dramTraining sweeps => Sys2Proof.Machine.execDramTraining sweeps s
  | .eccFill => Sys2Proof.Machine.execEccFill s
  | .kindleEnd => Sys2Proof.Machine.execKindleEnd s
  | .freezeNow h v => Sys2Proof.Machine.execFreezeNow h v s
  | .unfreeze h v => Sys2Proof.Machine.execUnfreeze h v s
  | .twinLinkUp lane0 lane1 reversed => Sys2Proof.Machine.execTwinLinkUp lane0 lane1 reversed s
  | .twinFrameDrop errors => Sys2Proof.Machine.execTwinFrameDrop errors s
  | .twinAliveHigh => Sys2Proof.Machine.execTwinAliveHigh s
  | .supplyMonitorTrip => Sys2Proof.Machine.execSupplyMonitorTrip s
  | .jtagTapReset => Sys2Proof.Machine.execJtagTapReset s
  | .arpRequest mac ip target => Sys2Proof.Machine.execArpRequest mac ip target s
  | .icmpEchoRequest src data => Sys2Proof.Machine.execIcmpEchoRequest src data s

end Sys2Proof.Machine
end

