-- ==== Sys2Proof/Safety.lean ====
section
/-! DEFINITION. What holds of every state that the spec allows, in the terms that the statements use. -/

namespace Sys2Proof.Machine

/-- LPDDR5 is in its canonical form: addresses strictly rising, and no entry equal to the 0 that an unlisted byte reads (17 R372; log entry
10). -/
def Memory.wf (m : List Host.Cell) : Bool := Table.wf (0 : Byte) m

/-- The bytes of LPDDR5 and the check bytes beside them (17 R371) are both in their canonical form. -/
def Dram.wf (d : Dram) : Bool := Memory.wf d.mem && Memory.wf d.ecc

/-- The tables of registers, of DOMAIN contents and of LPDDR5 are in their canonical form. -/
def State.canonical (s : State) : Bool := Table.wfBy Dict.default s.regs && Table.wfBy domDefault s.doms && s.dram.wf

/-- Beacon's fields lie in their ranges: seconds below 2^48, nanoseconds below 10^9, the fraction below 2^24 (21 R443). -/
def Beacon.normal (b : Beacon) : Bool := decide (b.sec < 2 ^ 48) && decide (b.ns < 10 ^ 9) && decide (b.frac < 2 ^ 24)

/-- BAR_FIRE_EN is high only in LIT, or in TRIM while a maintenance pattern runs (02 R48, 10 R250). -/
def State.firingGuarded (s : State) : Bool :=
  decide (s.pins.fireEn ≠ .high) || decide (s.mode = .lit) || (decide (s.mode = .trim) && s.patternRuns)

/-- KINDLE's items run only in KINDLE (22 R461, R464), and BAR_FIRE_EN is guarded. -/
def State.modeSafe (s : State) : Bool := (!s.cal.running || decide (s.mode = .kindle)) && s.firingGuarded

/-- The mode changes of 02 R40 and R41, and a reset to DARK from any mode. A KINDLE whose ring map is rejected ends in SNUFF within the
step that entered it, so DARK may be followed by SNUFF. -/
def Mode.mayBecome : Mode → Mode → Bool
  | .dark, .kindle | .dark, .snuff => true
  | .kindle, .pilot | .kindle, .snuff => true
  | .pilot, .trim | .pilot, .lit | .pilot, .snuff => true
  | .trim, .pilot | .trim, .snuff => true
  | .lit, .pilot | .lit, .snuff => true
  | .snuff, .pilot => true
  | m, n => decide (n = .dark) || decide (n = m)

/-- Igrel keeps its bounds: 8 sessions, 4 transfers, 16 kept replies (05 R101, R108, R114). -/
def State.igrelBounded (s : State) : Bool :=
  decide (s.igrel.sessions.length ≤ 8) && decide (s.igrel.transfers.length ≤ 4) &&
    s.igrel.sessions.all (fun x => decide (x.kept.length ≤ 16))

/-- The Yilloger holds at most 4,096 entries, now and before the events of the present REF cycle (22 R469). -/
def Ylog.bounded (y : Ylog) : Bool :=
  decide (y.entries.length ≤ 4096) && y.base.all (fun b => decide (b.entries.length ≤ 4096))

/-- The skip ledger and the Yilloger hold at most 4,096 entries (10 R245, 22 R469). -/
def State.logsBounded (s : State) : Bool := decide (s.taper.ledger.length ≤ 4096) && s.ylog.bounded

/-- The queue of scans holds at most 4 (16 R361). -/
def State.scansBounded (s : State) : Bool := decide (s.check.queue.length ≤ 4)

/-- The command answers a next state, of which `P` holds. -/
def Completes (c : Instr) (s : State) (P : State → Prop) : Prop := ∃ t, exec c s = .next t ∧ P t

/-- Every object but those listed reads as before. -/
def State.regsBut (s t : State) (l : List Nat) : Prop := ∀ k, k ∉ l → t.reg k = s.reg k

/-- The objects that logging an event may write: the Yilloger's index, state, freeze entry and count of missed events (22 R468 to R472). -/
def yilloggerObjects : List Nat := [Obj.ylogNext, Obj.missed, Obj.ylogState, Obj.freezeEntry]

/-- The Yilloger's entries and registers are those of another state. -/
def State.sameLog (t u : State) : Prop :=
  t.ylog.entries = u.ylog.entries ∧ ∀ k ∈ yilloggerObjects, t.reg k = u.reg k

/-- An event has been logged: one entry of its code and detail more, or, while the Yilloger is frozen, one more in MISSED (22 R468, R473). Where
an event of a higher code has come in the same REF cycle, the events of the cycle stand in rising code (22 R469). -/
def State.logs (s t : State) (code : Nat) (detail : List Byte) : Prop :=
  if s.ylog.batch.any (fun x => decide (code < x.code)) then
    ∃ v : YEvent, v.code = code ∧ v.detail = padTo 12 detail ∧ v.time = s.now ∧
      t.sameLog ((s.ylogBack (s.ylog.base.getD s.ylogBase)).ylogPuts (placeEvent v s.ylog.batch))
  else if s.reg Obj.ylogState = 2 then t.ylog.entries = s.ylog.entries ∧ t.reg Obj.missed = countValue Obj.missed (s.reg Obj.missed) 1
  else t.reg Obj.ylogNext = countValue Obj.ylogNext (s.reg Obj.ylogNext) 1 ∧
    ∃ e, t.ylog.entries = (e :: s.ylog.entries).take 4096 ∧ e.code = code ∧ e.detail = padTo 12 detail ∧ e.time = s.now

/-- A reset has been taken from a running device (03 R60, R61, R63, R66): DARK, every unit empty, the cause and its detail, one reset more,
and every object but the retained ones at its default. -/
def State.wasReset (s t : State) (b sub : Nat) : Prop :=
  t.mode = .dark ∧ t.rst.asserted = true ∧ t.reg Obj.resetCause = s.reg Obj.resetCause ||| 2 ^ b ∧ t.reg Obj.resetDetail = b + 256 * sub ∧
    t.reg Obj.resetCount = countValue Obj.resetCount (s.reg Obj.resetCount) 1 ∧ (∀ k, k ∉ retainedKeys → t.reg k = Dict.default k) ∧
    t.doms = [] ∧ t.igrel.sessions = [] ∧ t.raster.pages = [] ∧ t.slots = [] ∧ t.taper.ledger = [] ∧ t.taper.maint = none ∧
    t.pins.fireEn ≠ .high ∧ t.pins.strobesHigh = [] ∧ t.dram.mem = [] ∧ t.dram.ecc = [] ∧ t.flash = s.flash ∧ t.ylog.entries = s.ylog.entries ∧
    t.pending = s.pending

/-! ### Requests -/

/-- The state in which a packet of a session is executed: the session has seen its number (05 R102). -/
def State.sawPacket (s : State) (h : Hdr) : State := { s with igrel := s.igrel.modify h.sess (fun y => y.seen h.seq) }

/-- A packet that is executed: the firmware runs Igrel, the packet is of an open session, its number is new, it resends no request whose
reply is kept, and a request slot is free (05 R99, R102, R108, R117). -/
def State.hears (s : State) (h : Hdr) (payload : List Byte) (x : Session) : Prop :=
  h.sess ≠ 0 ∧ s.recovering = false ∧ s.igrelRuns = true ∧ s.session h.sess = some x ∧ x.newSeq h.seq = true ∧
    x.keptReply h.tag payload = none ∧ (s.sawPacket h).noSlot h.sess = false

/-- The type and the payload of the packet that carries a reply (05 R105, R106). -/
def Reply.packet : Reply → Nat × List Byte
  | .ok p => (0x20, p)
  | .abort code hint idx sub => (0x21, abortBytes code hint idx sub)

/-- A request has been answered: its reply has gone to its source, as the session's next packet, and is kept for a resend (05 R97, R102,
R108). -/
def State.replied (s t : State) (h : Hdr) (x : Session) (payload : List Byte) (r : Reply) : Prop :=
  t.out = .igrel h.src r.packet.1 h.sess h.tag x.txNext r.packet.2 (some x.key) :: s.out ∧
    (t.session h.sess).bind (fun y => y.keptReply h.tag payload) = some r

/-- The entry of an object in a READ (05 R105, R106; 02 R46). -/
def State.entryOf (s : State) (key : Nat) : List Byte :=
  match findObj key with
  | .error c => badEntry c
  | .ok r =>
    if r.acc = .wo then badEntry Abort.writeOnly
    else if r.ty = .domain then badEntry Abort.badType
    else if s.heldBackObj key r then badEntry Abort.conflict
    else goodEntry r.ty (s.readReg key)

/-- The entries of a list of objects after their count, as READ and telemetry give them. -/
def State.valuesOf (s : State) (keys : List Nat) : List Byte := le 1 keys.length ++ zeros 3 ++ keys.flatMap s.entryOf

/-- Whether a READ of an object is a state conflict (02 R46, R49). -/
def State.conflicting (s : State) (key : Nat) : Bool :=
  match findObj key with
  | .error _ => false
  | .ok r => decide (r.acc ≠ .wo) && decide (r.ty ≠ .domain) && s.heldBackObj key r

/-- The payload of a request that names one object: DESCRIBE, and after its count a READ (05 R105, R493). -/
def objectPayload (key : Nat) : List Byte := le 2 (key / 256) ++ le 1 (key % 256) ++ zeros 1

/-- The payload of a READ of one object (05 R105). -/
def readPayload (key : Nat) : List Byte := le 1 1 ++ zeros 3 ++ objectPayload key

/-- The bytes that a forwarded write comes in: index, subindex and type, then the value (12 R285; log entry 103). -/
def forwardPayload (ty : Dict.Ty) (key v : Nat) : List Byte := le 2 (key / 256) ++ le 1 (key % 256) ++ le 1 ty.code ++ le ty.bytes v

/-- A BLOCK_END of an open block write that is executed: its packet is heard, and it resends none that was answered (05 R102, R108,
R112). -/
def State.ends (s : State) (h : Hdr) (x : Session) (tr : Transfer) : Prop :=
  h.sess ≠ 0 ∧ s.recovering = false ∧ s.igrelRuns = true ∧ s.session h.sess = some x ∧ x.newSeq h.seq = true ∧
    x.keptReply h.tag [] = none ∧ s.transfer h.sess h.tag = some tr ∧ tr.reading = false

/-- A WRITE of a value to an object that passes every check (05 R106; 02 R50). -/
def State.admits (s : State) (h : Hdr) (key v : Nat) : Prop :=
  ∃ x r, s.hears h (writePayload key v) x ∧ findObj key = .ok r ∧ v < 2 ^ (8 * r.ty.bytes) ∧
    (s.sawPacket h).writeFault x.level r { key := key, ty := r.ty.code, value := le r.ty.bytes v } = none

end Sys2Proof.Machine
end

