-- ==== Sys2Proof/Certificates/Slice0/Obligations.lean ====
section
/-! DEFINITION. The statements for the provers. -/

open Sys2Proof Sys2Proof.Machine

/-- With a command at the front of the queue, a step is exec of that command on the state with the queue's rest. The queue is the model's
own (log entry 1). -/
def Obligations.StepRunsFrontCommand : Prop :=
  ∀ (c : Instr) (rest : List Instr) (s : State), step { s with pending := c :: rest } = exec c { s with pending := rest }

/-- On an empty queue with REF_CLK running, a step answers a next state in which one REF cycle has passed: Beacon, where it is out of reset,
has ticked by 5 ns and its trim, and the mode, the role, memory and its check bytes, every DOMAIN content, the Taper with its skip
ledger and the pins are as before; with no memory request waiting, so are the memory controller and the outputs; with one in group 1, no
panic and the controller at work, its first request issues one burst. That the empty queue stands for a REF cycle, and one command slot
in each, are the model's choices (log entries 2 and 97). -/
def Obligations.IdleStepIsOneRefCycle : Prop :=
  ∀ s : State, s.pending = [] → s.clock.refOn = true →
    ∃ t, step s = .next t ∧ t.clock.cycles = s.clock.cycles + 1 ∧ t.pending = [] ∧
      (s.blockUp Block.beacon = true → t.clock.beacon = s.clock.beacon.tick (s.sreg Obj.rateTrim)) ∧
      (s.blockUp Block.beacon = false → t.clock.beacon = s.clock.beacon) ∧
      t.mode = s.mode ∧ t.role = s.role ∧ t.dram.mem = s.dram.mem ∧ t.dram.ecc = s.dram.ecc ∧ t.taper = s.taper ∧ t.pins = s.pins ∧ t.doms = s.doms ∧
      (s.dram.urgent = [] → s.dram.waiting = [] → t.dram = s.dram ∧ t.out = s.out) ∧
      (∀ (r : MemReq) (rest : List MemReq), s.dram.urgent = r :: rest → s.panics = false → s.blockUp Block.dram = true → s.selfRefresh = false →
        t.out = .dramBurst r.who r.write :: s.out)

/-- Whatever a command does, the queue behind it is as it was. -/
def Obligations.CommandsLeaveTheQueue : Prop :=
  ∀ (c : Instr) (s t : State), exec c s = .next t → t.pending = s.pending

/-- Every command of the table, with every operand and in every state, answers a next state, but for DRAM_CE and DRAM_UE at an address
outside the usable memory, which stop with noSuchAddress. -/
def Obligations.OnlyDramErrorsStop : Prop :=
  ∀ (c : Instr) (s : State), (∃ t, exec c s = .next t) ∨
    ∃ addr, s.usable ≤ addr ∧ exec c s = .fault (.noSuchAddress addr) ∧
      ((∃ w check ow, c = .dramCe addr w check ow) ∨ ∃ src stream block w check, c = .dramUe addr src stream block w check)

/-- After reset nothing waits, the device is in DARK with every block held in reset, no cause of SNUFF is set, no line is prepared or
confirmed, no session is open, memory, its check bytes, the memory controller's queues, the skip ledger and the Yilloger are empty, and
the Wick's pools are full. That the first state is one in which the power-on reset has been released is the model's choice (log entry
7). -/
def Obligations.ResetState : Prop :=
  State.reset.pending = [] ∧ State.reset.mode = .dark ∧ State.reset.reg Obj.blockReset = 0x1FFFF ∧ State.reset.reg Obj.snuffCause = 0 ∧
    State.reset.slots = [] ∧ State.reset.taper = {} ∧ State.reset.igrel.sessions = [] ∧ State.reset.dram = {} ∧
    State.reset.ylog.entries = [] ∧ State.reset.wick.core = 4000000000000 ∧ State.reset.wick.head = 12000000000000 ∧
    State.reset.wick.mach = 60000000000000 ∧ State.reset.clock.beacon = {} ∧ State.reset.flash.regs = none

/-- From every state whose tables of objects, of DOMAIN contents, of memory bytes and of their check bytes are in canonical form (addresses
strictly rising, no entry equal to what an unlisted one reads as), a step leads to such a state. The form is the model's own
representation. -/
def Obligations.StepKeepsTablesCanonical : Prop :=
  ∀ s t : State, s.canonical = true → step s = .next t → t.canonical = true

/-- From every state in which KINDLE's items run only in KINDLE and BAR_FIRE_EN is guarded, a step keeps that, and changes the mode only as
the mode table gives: DARK to KINDLE (or on to SNUFF, where the ring map is rejected at once), KINDLE to PILOT or SNUFF, PILOT to TRIM,
LIT or SNUFF, TRIM to PILOT or SNUFF, LIT to PILOT or SNUFF, SNUFF to PILOT, and any mode to DARK. -/
def Obligations.ModeChangesOnlyAsTheTableGives : Prop :=
  ∀ s t : State, s.modeSafe = true → step s = .next t → t.modeSafe = true ∧ s.mode.mayBecome t.mode = true

/-- From every safe state a step leads to a state in which BAR_FIRE_EN, where it is high, is high in LIT or in TRIM with a maintenance
pattern running. That leaving TRIM ends a pattern is the model's choice (log entry 62). -/
def Obligations.FireEnableOnlyInLitOrPattern : Prop :=
  ∀ s t : State, s.modeSafe = true → step s = .next t → t.pins.fireEn = .high →
    t.mode = .lit ∨ (t.mode = .trim ∧ ∃ m, t.taper.maint = some m ∧ m.running = true)

/-- Whatever a step does, resets included, every bit of every pad code that was blown is still blown after it. -/
def Obligations.BlownFusesStayBlown : Prop :=
  ∀ (s t : State) (pad bit : Nat), step s = .next t → (Table.get 0 s.fuses.blown pad).testBit bit = true →
    (Table.get 0 t.fuses.blown pad).testBit bit = true

/-- From every state in which Beacon's seconds lie below 2^48, its nanoseconds below 10^9 and its fraction below 2^24, a step leads to such
a state. -/
def Obligations.BeaconStaysInRange : Prop :=
  ∀ s t : State, s.clock.beacon.normal = true → step s = .next t → t.clock.beacon.normal = true

/-- From every state in which the skip ledger and the Yilloger hold at most 4,096 entries each, a step leads to such a state. -/
def Obligations.LogsStayBounded : Prop :=
  ∀ s t : State, s.logsBounded = true → step s = .next t → t.logsBounded = true

/-- The state after reset has its tables in canonical form, is safe, has Beacon in range and its logs bounded. -/
def Obligations.ResetMeetsTheInvariants : Prop :=
  State.reset.canonical = true ∧ State.reset.modeSafe = true ∧ State.reset.clock.beacon.normal = true ∧ State.reset.logsBounded = true ∧
    State.reset.igrelBounded = true ∧ State.reset.scansBounded = true

/-- On a device that is not in reset, each source of reset, where its condition holds, takes it to DARK with its own cause bit and detail,
one reset more, every object but the retained set at its default and every unit empty; a power-on reset clears the retained set too.
That a source without its condition has no effect is the model's choice (log entry 3). -/
def Obligations.EveryResetEntersDark : Prop :=
  ∀ s : State, s.rst.asserted = false →
    Completes .pinReset s (fun t => s.wasReset t 1 0) ∧
    (s.coreRuns = true → Completes .watchdogExpiry s (fun t => s.wasReset t 2 0)) ∧
    (∀ pad : Bool, s.mode = .snuff → pad = true ∨ s.rst.snuffDone = false →
      Completes (.snuffEscReset pad) s (fun t => s.wasReset t 3 0)) ∧
    (∀ x : Supply, Completes (.supplyBrownout x) s (fun t => s.wasReset t 7 (supplySub x))) ∧
    (s.clock.refOn = true → Completes .refClkLoss s (fun t => s.wasReset t 7 5 ∧ t.clock.refOn = false)) ∧
    (s.rst.igrelDue = true → Completes .igrelReset s (fun t => s.wasReset t 5 0)) ∧
    (s.twinUp = true → s.isSet Obj.twinResetAccept = true → s.soleSource = false → Completes .twinResetRequest s (fun t => s.wasReset t 4 0)) ∧
    (∀ (i : Fin 4) (v : Int), 8000 ≤ v → s.rst.active.contains 6 = false →
      Completes (.dieTempSample i v) s (fun t => s.wasReset t 6 (i + 1))) ∧
    Completes .powerOnReset s (fun t => t.mode = .dark ∧ t.rst.asserted = true ∧ t.reg Obj.resetCause = 1 ∧ t.ylog.entries = [] ∧
      ∀ k, k ≠ Obj.resetCause → t.reg k = if k ∈ retainedKeys then 0 else Dict.default k)

/-- While reset is asserted, another source sets its cause bit and RESET_DETAIL, does not count again, and changes no other object and no
unit. The sole firing source, and a chip that does not accept one, log and ignore a TWIN request; that a maintenance pattern makes its
chip a sole source is the model's choice (log entry 91). -/
def Obligations.ResetSourcesJoinWhileAsserted : Prop :=
  ∀ s : State,
    (s.rst.asserted = true → Completes .pinReset s (fun t => t = { s with regs := t.regs, rst := t.rst, flagged := t.flagged } ∧ t.rst.asserted = true ∧
      t.reg Obj.resetCause = s.reg Obj.resetCause ||| 2 ∧ t.reg Obj.resetDetail = 1 ∧ s.regsBut t [Obj.resetCause, Obj.resetDetail])) ∧
    (s.twinUp = true → s.isSet Obj.twinResetAccept = false ∨ s.soleSource = true → Completes .twinResetRequest s (fun t =>
      t.mode = s.mode ∧ t.rst = s.rst ∧ s.logs t Ev.twinResetIgnored [] ∧ s.regsBut t yilloggerObjects))

/-- RESET_RELEASE ends the reset, latches the fuses and takes the role that the straps give; PLL_LOCK, SERVICE_CORE_RELEASE and BOOT_RETRY
pass to the next stage; BOOT_ROM_VERIFY starts the slot that passes every check and has the higher version (slot 0 where they are
equal), and with none retries once and then recovers; CONFIG_LOAD reaches the configured state with BEACON, ETH_MAC and LOOP out of
reset, and then holds in DARK or runs KINDLE. -/
def Obligations.BootSequence : Prop :=
  ∀ s : State,
    (∀ (roles : List Nat) (testEn : Bool), s.rst.asserted = true → s.rst.active.contains 6 = false →
      Completes (.resetRelease roles testEn) s (fun t => t.rst.asserted = false ∧ t.rst.stage = .released ∧ t.clock.refOn = true ∧
        t.fuses.latched = s.fuses.blown ∧ t.role = strapRole roles ∧ t.strapped = strapRole roles ∧
        t.rst.held = (testEn || decide (strapRole roles = .invalid)) ∧ t.mode = s.mode ∧ t.regs = s.regs)) ∧
    (s.rst.asserted = false → s.rst.stage = .released → Completes .pllLock s (fun t => t = { s with rst := { s.rst with stage := .plls } })) ∧
    (s.rst.asserted = false → s.rst.stage = .plls → Completes .serviceCoreRelease s (fun t => t = { s with rst := { s.rst with stage := .rom } })) ∧
    (s.rst.asserted = false → s.rst.stage = .retryWait → Completes .bootRetry s (fun t =>
      t = { s with rst := { s.rst with stage := .rom, retried := true } })) ∧
    (s.rst.asserted = false → s.rst.stage = .rom → Completes (.bootRomVerify true) s (fun t =>
      s.regsBut t [Obj.bootStatus, Obj.fwVersion] ∧
      (slotFault s.flash.slot0 = 0 → slotFault s.flash.slot1 ≠ 0 ∨ field s.flash.slot1 8 4 ≤ field s.flash.slot0 8 4 →
        t.rst.stage = .firmware ∧ t.reg Obj.bootStatus % 4 = 0 ∧ t.reg Obj.fwVersion = field s.flash.slot0 12 4) ∧
      (slotFault s.flash.slot1 = 0 → slotFault s.flash.slot0 ≠ 0 ∨ field s.flash.slot0 8 4 < field s.flash.slot1 8 4 →
        t.rst.stage = .firmware ∧ t.reg Obj.bootStatus % 4 = 1 ∧ t.reg Obj.fwVersion = field s.flash.slot1 12 4) ∧
      (slotFault s.flash.slot0 ≠ 0 → slotFault s.flash.slot1 ≠ 0 → t.rst.stage = (if s.rst.retried then .recovery else .retryWait) ∧
        t.reg Obj.bootStatus % 4 = 3 ∧ t.reg Obj.fwVersion = s.reg Obj.fwVersion))) ∧
    (s.rst.asserted = false → s.rst.stage = .firmware → s.mode = .dark →
      Completes .configLoad s (fun t => t.rst.stage = .configured ∧ (t.mode ≠ .snuff → t.igrel.ip = t.reg Obj.ipAddr ∧
        ∀ b ∈ [Block.beacon, Block.ethMac, Block.loop], (t.reg Obj.blockReset).testBit b = false) ∧
        (s.flash.regs = none → t.mode = .dark ∧ (t.reg Obj.bootStatus).testBit 4 = true) ∧ (s.rst.held = true → t.mode = .dark) ∧
        (s.flash.regs ≠ none → s.rst.held = false → t.isSet Obj.bootHold = false → t.mode = .kindle ∨ t.mode = .snuff)))

/-- BLOCK_RELEASE of a pended block whose clocks have settled clears its pended bit and no other; a block pended for 100 ms is logged once;
a firmware tick of a configured device with no mode change waiting reports the SNUFF sequence and drives SPEED_LIMIT high from 0.95 of
the least period, and low below 0.92. -/
def Obligations.BlocksAreReleasedAndWatched : Prop :=
  ∀ s : State,
    (∀ (b : Fin 17) (v : ClockView), (s.reg Obj.blockPended).testBit b = true → s.mayRelease b v = true → Completes (.blockRelease b v) s (fun t => t.mode = s.mode ∧
      ∀ j : Nat, (t.reg Obj.blockPended).testBit j = ((s.reg Obj.blockPended).testBit j && decide (j ≠ b)))) ∧
    (∀ b : Fin 17, (s.reg Obj.blockPended).testBit b = true → s.rst.pendLogged.contains (b : Nat) = false →
      Completes (.releasePended b) s (fun t => t.rst.pendLogged = (b : Nat) :: s.rst.pendLogged ∧ s.logs t Ev.releasePended (le 1 b) ∧
        s.regsBut t yilloggerObjects)) ∧
    (s.configured = true → s.rst.modeDue = none → Completes .firmwareTick s (fun t =>
      t = { s with rst := { s.rst with snuffDone := true }, regs := t.regs, pins := { s.pins with speedLimit := t.pins.speedLimit } } ∧
      s.regsBut t [Obj.speedLimitState] ∧
      (s.mode.working = true → s.reg (Obj.speedState s.fireCh) = 1 →
        let v := 6553600 * ((s.speed s.fireCh).natAbs * s.reg Obj.headMinPeriod)
        let unit := 1000000000000 * (s.reg Obj.linePitch % 2 ^ 48)
        (95 * unit ≤ v → t.pins.speedLimit = .high ∧ t.reg Obj.speedLimitState = 1) ∧
          (v < 92 * unit → 0 < unit → t.pins.speedLimit = .low ∧ t.reg Obj.speedLimitState = 0))))

/-- An FSI sample of four sites after KINDLE writes the lowest reading and its site, and lowers FSI_MIN to it where it is lower; a die
temperature below the reset's level is kept, and one at 115 degrees sets the THERM cause; a stalled crossing is logged (with its number
as one byte: the model's choice, log entry 94), and one into the firing path sets the CDC_STALL cause. -/
def Obligations.SensorsAndStalls : Prop :=
  ∀ s : State,
    (∀ a b c d : Nat, a < 2 ^ 16 → b < 2 ^ 16 → c < 2 ^ 16 → d < 2 ^ 16 → s.mode ≠ .dark → s.mode ≠ .kindle →
      Completes (.fsiSample [a, b, c, d]) s (fun t => t.mode = s.mode ∧ t.reg Obj.fsiNow = min (min a b) (min c d) ∧
        [a, b, c, d][t.reg Obj.fsiSite]? = some (t.reg Obj.fsiNow) ∧ t.reg Obj.fsiMin = min (s.reg Obj.fsiMin) (t.reg Obj.fsiNow) ∧
        s.regsBut t (Obj.fsiNow :: Obj.fsiSite :: Obj.fsiMin :: yilloggerObjects))) ∧
    (∀ (i : Fin 4) (v : Int), v < 8000 → i < s.die.temps.length → Completes (.dieTempSample i v) s (fun t => t.mode = s.mode ∧
      t.die.temps = s.die.temps.set i v ∧ (7360 ≤ v → s.configured = true → (t.reg Obj.snuffCause).testBit Cause.therm = true) ∧
      s.regsBut t [Obj.snuffCause])) ∧
    (∀ (x : Nat) (f : Bool), s.rst.asserted = false → Completes (.cdcStall x f) s (fun t => t.mode = s.mode ∧ s.logs t Ev.cdcStall (le 1 x) ∧
      s.regsBut t (Obj.snuffCause :: yilloggerObjects) ∧
      (t.reg Obj.snuffCause = if f && s.configured then s.reg Obj.snuffCause ||| 32 else s.reg Obj.snuffCause)))

/-- With a cause bit set in PILOT, TRIM or LIT, and no request waiting for its answer or a hardware cause among them, SNUFF_ENTRY takes the
device to SNUFF with BAR_FIRE_EN, FAULT_OUT_N, TWIN_ALIVE_OUT and every strobe output low, HEAD_PWR_EN low where HEAD_PWR_HOLD is 0, no
maintenance pattern and every axis at rest; SNUFF_ALL does the same on a mate. -/
def Obligations.SnuffEntryMakesTheDeviceSafe : Prop :=
  ∀ s : State, s.mode.working = true →
    let safe (t : State) : Prop := t.mode = .snuff ∧ t.pins.fireEn = .low ∧ t.pins.faultN = .low ∧ t.pins.aliveOut = .low ∧
      (∀ g, g < 8 → g ∉ t.pins.strobesHigh) ∧ (s.reg Obj.headPwrHold = 0 → t.pins.headPwr = .low) ∧ t.taper.maint = none ∧
      (∀ a, a < 4 → (t.axis a).act = .rest ∧ (t.axis a).vel = 0) ∧ t.fuses = s.fuses ∧ t.flash = s.flash
    (s.hasCause = true → s.answered = true ∨ s.reg Obj.snuffCause &&& hardwareCauses ≠ 0 → Completes .snuffEntry s safe) ∧
    (∀ causes : Nat, s.twinUp = true → s.role = .mate → Completes (.snuffAll causes) s safe)

/-- Once a stop in LIT leaves no line confirmed or in doubt, with no role swap in progress and no request waiting for its answer,
LIT_STOP_COMPLETE enters PILOT with BAR_FIRE_EN low and records for each group with a module its first line that has neither fired nor
been entered; a confirmed line still unfired 100 ms after the stop is entered as SUPPRESSED; KINDLE_END notes its time and enters PILOT
with FSI_MIN restarted at FSI_KINDLE, or SNUFF where a cause bit is set. -/
def Obligations.StopsEndInPilot : Prop :=
  ∀ s : State,
    (s.mode = .lit → s.taper.stopping = true → s.taper.unsettled = [] → (∀ g, g < 8 → (s.group g).conf = none) →
      s.twin.swap = none → s.answered = true → Completes .litStopComplete s (fun t => t.mode = .pilot ∧ t.pins.fireEn = .low ∧ t.taper.stopping = false ∧
        t.reg Obj.stopSeq = s.floorSeq.getD 0 ∧
        ∀ g, g < 8 → t.reg (Obj.stopSeqGroup g) = if s.liveModules g = [] then 0 else s.reg (Obj.nextArmSeq g))) ∧
    (∀ (g : Fin 8) (c : Conf), s.taper.stopping = true → (s.group g).conf = some c → s.taper.unsettled = [] → s.role = .solo → s.twin.swap = none → s.twin.early = [] →
      Completes (.stopSuppressTimeout g) s (fun t => (t.group g).conf = none ∧ t.taper.ledger.head? = some
        { seq := c.seq, page := c.page, group := g, cause := 6, strip := 255, confirmed := true, time := s.now })) ∧
    (s.kindleDone = true → Completes .kindleEnd s (fun t => t.mode = (if s.hasCause then .snuff else .pilot) ∧ t.pins.fireEn = .low ∧
      t.flash.kindleLast = s.now ∧ (s.hasCause = false → t.reg Obj.fsiMin = s.reg Obj.fsiKindle)))

/-- SAFE_STOP_ASSERT notes the time and, from the first configured state on, sets the SAFE_STOP cause; releasing it clears nothing; the
supply monitor sets the SUPPLY cause; HEAD_PWR_HOLD after SNUFF entry HEAD_PWR_EN drops; HEAD_SETTLE after it rose the heads count as
settled. -/
def Obligations.PinsAndCauses : Prop :=
  ∀ s : State,
    (s.pins.safeStopLow = false → Completes .safeStopAssert s (fun t =>
      t = { s with regs := t.regs, pins := { s.pins with safeStopLow := true }, flagged := t.flagged } ∧ t.reg Obj.safeStopTime = s.now ∧
      s.regsBut t [Obj.safeStopTime, Obj.snuffCause] ∧
      t.reg Obj.snuffCause = if s.configured then s.reg Obj.snuffCause ||| 1 else s.reg Obj.snuffCause)) ∧
    Completes .safeStopRelease s (fun t => t = { s with pins := { s.pins with safeStopLow := false } }) ∧
    Completes .supplyMonitorTrip s (fun t => t = { s with regs := t.regs, flagged := t.flagged } ∧ s.regsBut t [Obj.snuffCause] ∧
      t.reg Obj.snuffCause = if s.configured then s.reg Obj.snuffCause ||| 512 else s.reg Obj.snuffCause) ∧
    (s.mode = .snuff → Completes .headPwrDrop s (fun t => t = { s with pins := { s.pins with headPwr := .low, settled := false } })) ∧
    (s.pins.headPwr = .high → Completes .headSettleExpiry s (fun t => t = { s with pins := { s.pins with settled := true } }))

/-- A WRITE of a value to an object that passes every check (its session open, its number new, no kept reply, a slot free, and none of the
refusals of R50) answers a next state: the object's effect, the primary's forwarding of it, and then the empty REPLY, which is kept.
FUSE_PAD_PROGRAM, answered later, has its own statement. A write that a mate's primary forwards to it has the object's effect on the
mate and no reply; the bytes it comes in are the model's choice (log entry 103). -/
def Obligations.AcceptedWriteIsExecutedAndAnswered : Prop :=
  ∀ (s : State) (h : Hdr) (key v : Nat) (r : Dict.ObjRow) (vpp : Bool), findObj key = .ok r →
    ((s.seeVpp vpp).admits h key v → key ≠ Obj.fusePadProgram →
      Completes (.write h (writePayload key v) vpp false) s (fun t =>
        t = ((((s.seeVpp vpp).sawPacket h).writeEffect key (storedBits r.ty v)).forwardWrite key (le r.ty.bytes (storedBits r.ty v))).answer h 0x11
          (writePayload key v) (.ok []))) ∧
    (s.twinUp = true → s.role = .mate → isLocal key = false → r.ty ≠ .domain → v < 2 ^ (8 * r.ty.bytes) →
      Completes (.write h (forwardPayload r.ty key v) vpp true) s (fun t => t = (s.seeVpp vpp).writeEffect key (storedBits r.ty v)))

/-- A WRITE that is executed and fails a check leaves the mode, every unit, memory and every object as they were, but for CONFLICT_COUNT and
what logging a conflict writes, and for the level of VPP_FUSE that the write has seen; and CONFLICT_COUNT counts exactly the state
conflicts. -/
def Obligations.RefusedWriteChangesNoSetting : Prop :=
  ∀ (s : State) (h : Hdr) (key v : Nat) (x : Session) (r : Dict.ObjRow) (b : Bad) (vpp : Bool),
    s.hears h (writePayload key v) x → findObj key = .ok r → v < 2 ^ (8 * r.ty.bytes) →
    ((s.seeVpp vpp).sawPacket h).writeFault x.level r { key := key, ty := r.ty.code, value := le r.ty.bytes v } = some b →
    Completes (.write h (writePayload key v) vpp false) s (fun t =>
      t = { s.seeVpp vpp with regs := t.regs, igrel := t.igrel, ylog := t.ylog, out := t.out, freeCtr := t.freeCtr, flagged := t.flagged } ∧
      s.regsBut t (Obj.conflictCount :: yilloggerObjects) ∧
      t.reg Obj.conflictCount =
        if b.counted then countValue Obj.conflictCount (s.reg Obj.conflictCount) 1 else s.reg Obj.conflictCount)

/-- With every request before it answered, an accepted MODE_REQUEST of 1 in DARK enters KINDLE, where the ring map is well formed; of 2 in
SNUFF and TRIM enters PILOT with BAR_FIRE_EN low and FAULT_OUT_N high; of 3 in PILOT enters TRIM; of 4 in PILOT, with timing set 0 in
use, enters LIT with BAR_FIRE_EN high (where TAPER is out of reset) and priming begun. While a request waits for its answer, such a
change waits too. In any case, 2 in LIT begins a stop, and 5 in PILOT, TRIM and LIT sets the REQUEST cause and leaves the mode; a
request for the present mode leaves mode and pins as they are. Where the waiting change is kept is the model's own (log entry 90). -/
def Obligations.ModeRequestsTurnTheMode : Prop :=
  ∀ (s : State) (h : Hdr),
    (s.admits h Obj.modeRequest 1 → s.mode = .dark → s.answered = true → ringMapOk s.storeLimit (s.dom Obj.ringMap) = true →
      Completes (.modeRequestKindle h) s (fun t => t.mode = .kindle ∧ t.cal.running = true)) ∧
    (s.admits h Obj.modeRequest 2 → s.mode = .snuff ∨ s.mode = .trim → s.answered = true →
      Completes (.modeRequestPilot h) s (fun t => t.mode = .pilot ∧ t.pins.fireEn = .low ∧ t.pins.faultN = .high ∧ t.pins.headPwr = .high)) ∧
    (s.admits h Obj.modeRequest 2 → s.mode = .lit →
      Completes (.modeRequestPilot h) s (fun t => t.mode = .lit ∧ t.taper.stopping = true)) ∧
    (s.admits h Obj.modeRequest 3 → s.mode = .pilot → s.answered = true → Completes (.modeRequestTrim h) s (fun t => t.mode = .trim ∧ t.pins.fireEn = s.pins.fireEn)) ∧
    (s.admits h Obj.modeRequest 4 → s.mode = .pilot → s.answered = true → s.dram.setNow = 0 → s.dram.change = none →
      Completes (.modeRequestLit h) s (fun t => t.mode = .lit ∧ t.pins.fireEn = (if s.blockUp Block.taper then .high else .low) ∧
        t.taper.priming = true ∧ t.taper.newest = none)) ∧
    (s.answered = false → s.mode ≠ .lit →
      let waits (c : Instr) (v : Nat) : Prop := s.admits h Obj.modeRequest v → Completes c s (fun t =>
        t.mode = s.mode ∧ t.pins = s.pins ∧ t.rst.modeDue = some v)
      waits (.modeRequestKindle h) 1 ∧ waits (.modeRequestPilot h) 2 ∧ waits (.modeRequestTrim h) 3 ∧ waits (.modeRequestLit h) 4) ∧
    (s.admits h Obj.modeRequest 5 → s.mode.working = true →
      Completes (.modeRequestSnuff h) s (fun t => t.mode = s.mode ∧ (t.reg Obj.snuffCause).testBit Cause.request = true)) ∧
    (s.admits h Obj.modeRequest 2 → s.mode = .pilot → Completes (.modeRequestPilot h) s (fun t => t.mode = .pilot ∧ t.pins = s.pins)) ∧
    (s.admits h Obj.modeRequest 3 → s.mode = .trim → Completes (.modeRequestTrim h) s (fun t => t.mode = .trim ∧ t.pins = s.pins)) ∧
    (s.admits h Obj.modeRequest 4 → s.mode = .lit → Completes (.modeRequestLit h) s (fun t => t.mode = .lit ∧ t.pins = s.pins)) ∧
    (s.admits h Obj.modeRequest 5 → s.mode = .snuff → Completes (.modeRequestSnuff h) s (fun t => t.mode = .snuff ∧ t.pins = s.pins))

/-- A write of SNUFF_CAUSE_CLEAR clears the bits written but for a condition that stands and for CAL; RESET_CAUSE_CLEAR clears the bits
written; a write-1-to-clear object loses exactly the bits written; a bit that has been set in the same REF cycle stays set against all
three; RESET_REQUEST asks for a reset that follows its reply; BLOCK_RESET holds the blocks written 1 and pends those written 0 that were
held and may be released, and changes neither mode nor RESET_CAUSE. -/
def Obligations.ClearingAndResetWrites : Prop :=
  ∀ (s : State) (h : Hdr) (v : Nat),
    let fresh (key b : Nat) : Bool := (Table.get 0 s.flagged key).testBit b
    (s.admits h Obj.snuffCauseClear v →
      Completes (.snuffCauseClear h v) s (fun t => t.mode = s.mode ∧ ∀ b : Nat, (t.reg Obj.snuffCause).testBit b =
        (((s.reg Obj.snuffCause).testBit b && !(decide (b < 12) && v.testBit b && !fresh Obj.snuffCause b)) ||
          (s.configured && decide (b = Cause.safeStop) && s.pins.safeStopLow) || (s.configured && decide (b = Cause.therm) && s.thermal)))) ∧
    (s.admits h Obj.resetCauseClear v →
      Completes (.resetCauseClear h v) s (fun t => ∀ b, (t.reg Obj.resetCause).testBit b =
        ((s.reg Obj.resetCause).testBit b && !(v.testBit b && !fresh Obj.resetCause b)))) ∧
    (∀ key, isW1c key = true → s.admits h key v →
      Completes (.w1cClear h key v) s (fun t => (∀ b, (t.reg key).testBit b =
        ((s.reg key).testBit b && !(v.testBit b && !fresh key b))) ∧ s.regsBut t [key])) ∧
    (s.admits h Obj.resetRequest v → Completes (.resetRequest h v) s (fun t => t.rst.igrelDue = true ∧ t.mode = s.mode ∧ t.regs = s.regs)) ∧
    (s.admits h Obj.blockReset v →
      Completes (.blockResetWrite h v) s (fun t => t.mode = s.mode ∧ t.reg Obj.resetCause = s.reg Obj.resetCause ∧
        ∀ b : Nat, (v.testBit b = true → (t.reg Obj.blockReset).testBit b = true) ∧
          (v.testBit b = false → s.keptHeld.testBit b = false → (t.reg Obj.blockReset).testBit b = false ∧
            ((s.reg Obj.blockReset).testBit b = true → (t.reg Obj.blockPended).testBit b = true))))

/-- An accepted FUSE_PAD_PROGRAM starts blowing the code into the pad of FUSE_PAD_INDEX, and neither the fuses nor the codes latched change
until it ends; FUSE_LOCK written 1 locks the fuses; a read of FUSE_PAD_CODE is executed as any READ, and changes neither fuses nor
objects. -/
def Obligations.FuseWrites : Prop :=
  ∀ (s : State) (h : Hdr) (v : Nat) (vpp : Bool),
    ((s.seeVpp vpp).admits h Obj.fusePadProgram v →
      Completes (.fusePadProgram h v vpp) s (fun t => t.fuses = { s.fuses with vppOk := vpp, job := some { h := h, pad := s.reg Obj.fusePadIndex, code := v } } ∧
        t.regs = s.regs ∧ t.pins = s.pins)) ∧
    ((s.seeVpp vpp).admits h Obj.fuseLock 1 → Completes (.fuseLock h 1 vpp) s (fun t =>
      t.fuses = { s.fuses with vppOk := vpp, locked := true } ∧ t.regs = s.regs)) ∧
    (∀ x, s.hears h (le 1 1 ++ zeros 3 ++ le 2 (Obj.fusePadCode / 256) ++ le 1 (Obj.fusePadCode % 256) ++ zeros 1) x →
      Completes (.fusePadCodeRead h) s (fun t => t.fuses = s.fuses ∧ t.regs = s.regs ∧ t.out.head? =
        some (.igrel h.src 0x20 h.sess h.tag x.txNext (le 1 1 ++ zeros 3 ++ goodEntry .u8 ((s.sawPacket h).readReg Obj.fusePadCode)) (some x.key))))

/-- CONFIG_SAVE stores every stored object as it stands, and changes no object; FSI_MIN_CLEAR written 1 restarts FSI_MIN at FSI_NOW;
STORE_FLUSH drops every stored block, page and prepared line, and starts every stream's block numbers at 0 again. -/
def Obligations.StoredSettingsWrites : Prop :=
  ∀ (s : State) (h : Hdr) (v : Nat),
    (s.admits h Obj.configSave v → Completes (.configSave h v) s (fun t => t.regs = s.regs ∧ t.doms = s.doms ∧
      ∃ r, t.flash.regs = some r ∧ (∀ k, isStored k = true → Table.get (Dict.default k) r k = s.reg k) ∧
        ∀ k, isStored k = true → Table.get (domDefault k) t.flash.doms k = s.dom k)) ∧
    (s.admits h Obj.fsiMinClear 1 → Completes (.fsiMinClear h 1) s (fun t => t.reg Obj.fsiMin = s.reg Obj.fsiNow ∧ s.regsBut t [Obj.fsiMin])) ∧
    (s.admits h Obj.storeFlush v → Completes (.storeFlush h v) s (fun t => t.raster.rings = [] ∧ t.raster.pages = [] ∧ t.slots = [] ∧
      t.raster.flushFirst = none ∧ t.check.scrub = none ∧ ∀ k, k < 160 → t.reg (Obj.nextBlockSeq k) = 0 ∧ t.reg (Obj.ringUsed k) = 0))

/-- ENABLE of an encoder channel takes its value, and a channel that it enables counts from 0 with its mark at 0 and its speed unknown;
MAINT_START on a chip that is no mate asks the Wick for all its lines: refused, there is no pattern; granted with TAPER out of reset, it
runs with BAR_FIRE_EN high; else it waits. SWAP_REQUEST written 1 sets the swap line to the first line of the page found and tells the
mate; COMMIT written 1 takes a context's shadow settings under a GENERATION one higher; TAP_SELECT with its bit 8 set holds the tap and
context it names for the next frame, and clear holds none. MAINT_START on a mate, and a 0 written to SWAP_REQUEST or COMMIT, change no
object. The energy of a pattern's line is the model's (log entry 17). -/
def Obligations.FiringPathWrites : Prop :=
  ∀ (s : State) (h : Hdr) (v : Nat),
    (∀ ch : Fin 2, s.admits h (Obj.encEnable ch) v → Completes (.encoderEnable h ch v) s (fun t => t.reg (Obj.encEnable ch) = v ∧
      (v = 1 → s.isSet (Obj.encEnable ch) = false → t.reg (Obj.encCount ch) = 0 ∧ t.reg (Obj.travelMark ch) = 0 ∧
        t.reg (Obj.travelDir ch) = 0 ∧ t.reg (Obj.speedState ch) = 0) ∧ (v = 0 → s.regsBut t [Obj.encEnable ch]))) ∧
    (s.admits h Obj.maintStart v → s.role ≠ .mate → Completes (.maintStart h v) s (fun t => t.mode = s.mode ∧
      let ask : WickReq := { who := .maintPattern, core := none, head := some (maintEnergy * (v / 256)), mach := some (maintEnergy * (v / 256)),
                             peak := maintEnergy }
      let never : Prop := s.blockUp Block.wick = false ∨ ∃ p, (p = 1 ∨ p = 2) ∧
        (s.poolCap p < (maintEnergy * (v / 256) : Nat) ∨ 1000000 * s.reg (Obj.peak p) < maintEnergy)
      (never → t.taper.maint = none ∧ t.pins = s.pins) ∧
      (¬ never → s.coverable ask s.wick.nextId = true → 1 ≤ v / 256 → s.blockUp Block.taper = true →
        t.taper.maint = some { stream := v % 256, left := v / 256, running := true } ∧ t.pins.fireEn = .high) ∧
      (¬ never → s.coverable ask s.wick.nextId = false →
        t.taper.maint = some { stream := v % 256, left := v / 256, running := false } ∧ t.pins = s.pins))) ∧
    (s.admits h Obj.maintStart v → s.role = .mate → Completes (.maintStart h v) s (fun t => t.taper = s.taper ∧ t.regs = s.regs)) ∧
    (∀ p, s.admits h Obj.swapRequest 1 → s.swapPage = some p → Completes (.swapRequest h 1) s (fun t =>
      t.twin.swap = some (p.first, p.id) ∧ t.reg Obj.twSwapLine = p.first ∧ t.role = s.role ∧ s.regsBut t [Obj.twSwapLine] ∧
      (s.strapped ≠ .solo → s.twinUp = true → s.twin.frame 0x08 (le 4 p.first ++ le 4 p.id) ∈ t.out))) ∧
    (s.admits h Obj.swapRequest 0 → Completes (.swapRequest h 0) s (fun t => t.twin = s.twin ∧ t.regs = s.regs)) ∧
    (∀ c : Fin 8, s.admits h (Obj.camCommit c) 1 → Completes (.cameraCommit h c 1) s (fun t =>
      (Table.get {} t.lantern.committed c).set = s.shadow c ∧ (Table.get {} t.lantern.committed c).gen = (s.reg (Obj.generation c) + 1) % 2 ^ 32 ∧
      t.reg (Obj.generation c) = (s.reg (Obj.generation c) + 1) % 2 ^ 32 ∧ s.regsBut t [Obj.generation c])) ∧
    (∀ c : Fin 8, s.admits h (Obj.camCommit c) 0 → Completes (.cameraCommit h c 0) s (fun t => t.lantern = s.lantern ∧ t.regs = s.regs)) ∧
    (s.admits h Obj.tapSelect v → Completes (.tapSelect h v) s (fun t => t.reg Obj.tapSelect = v ∧ t.lantern.nextTap =
      if v.testBit 8 then some { tap := bits v 1 0, ctx := bits v 4 2, left := s.reg Obj.tapFrames, active := false } else none))

/-- RUNNING takes its value; FREQ_SELECT takes its value; BANK_SWAP written 1 is noted with its REF cycle, for the slot's next sample in a
later one; SETPOINT takes its value and disarms the following test; ENABLE of a slot takes its value; TARGET takes its value, and is
discarded where a stop has come since the last tick; HOME written 1 begins the search for the stop; STOP and STOP_ALL written 1 leave
the axes at rest. -/
def Obligations.UnitWrites : Prop :=
  ∀ (s : State) (h : Hdr) (v : Nat),
    (∀ u : Fin 16, s.admits h (Obj.running u) v → Completes (.runningWrite h u v) s (fun t => t.reg (Obj.running u) = v ∧ s.regsBut t [Obj.running u])) ∧
    (s.admits h Obj.freqSelect v → Completes (.freqSelect h v) s (fun t => t.reg Obj.freqSelect = v)) ∧
    (∀ i : Fin 48, s.admits h (Obj.bankSwap i) 1 → Completes (.bankSwap h i 1) s (fun t => (t.loop i).swaps = s.clock.cycles :: (s.loop i).swaps)) ∧
    (∀ (i : Fin 48) (w : Nat), s.admits h (Obj.setpoint i) v → Bf24.normalise v = some w → Completes (.loopSetpoint h i v) s (fun t =>
      t.reg (Obj.setpoint i) = w ∧ (t.loop i).armed = false ∧ s.regsBut t [Obj.setpoint i])) ∧
    (∀ i : Fin 48, s.admits h (Obj.lpEnable i) v → Completes (.loopEnable h i v) s (fun t => t.reg (Obj.lpEnable i) = v ∧ s.regsBut t [Obj.lpEnable i])) ∧
    (∀ a : Fin 4, s.admits h (Obj.axTarget a) v →
      ((s.axis a).halted = false → Completes (.target h a v) s (fun t => t.sreg (Obj.axTarget a) = toSigned 32 v)) ∧
      ((s.axis a).halted = true → Completes (.target h a v) s (fun t => t.axes = s.axes ∧ t.wick = s.wick ∧ t.regs = s.regs))) ∧
    (∀ a : Fin 4, s.admits h (Obj.axHome a) 1 → Completes (.home h a 1) s (fun t => ∀ b ∈ s.pair a, (t.axis b).act = .seeking)) ∧
    (∀ a : Fin 4, s.admits h (Obj.axStop a) 1 → Completes (.axisStop h a 1) s (fun t => ∀ b ∈ s.pair a, (t.axis b).act = .rest ∧ (t.axis b).vel = 0)) ∧
    (s.admits h Obj.stopAll 1 → Completes (.stopAll h 1) s (fun t => ∀ b, b < 4 → (t.axis b).act = .rest ∧ (t.axis b).vel = 0))

/-- TIME_SET moves Beacon to the time written, keeps its fraction and makes it valid; TIME_STEP moves Beacon by the step written, modulo
2^48 seconds; RATE_TRIM takes its value and moves no time; FREEZE_NOW written 1 on a running Yilloger marks the next entry's number and
freezes it, at once where POST_TRIGGER is 0; UNFREEZE sets it running with MISSED 0, where no trigger has come in the same REF cycle. -/
def Obligations.TimeAndLogWrites : Prop :=
  ∀ (s : State) (h : Hdr) (v : Nat),
    (s.admits h Obj.timeSet v → v / 2 ^ 48 < 10 ^ 9 → Completes (.timeSet h v) s (fun t =>
      t.clock.beacon.sec = v % 2 ^ 48 ∧ t.clock.beacon.ns = v / 2 ^ 48 ∧ t.clock.beacon.frac = s.clock.beacon.frac ∧ t.reg Obj.timeValid = 1)) ∧
    (s.admits h Obj.timeStep v → Completes (.timeStep h v) s (fun t => t.clock.beacon.frac = s.clock.beacon.frac ∧
      (t.nowNs : Int) = ((s.nowNs : Int) + toSigned 64 v) % (2 ^ 48 * 10 ^ 9) ∧
      t.reg Obj.steps = countValue Obj.steps (s.reg Obj.steps) 1)) ∧
    (s.admits h Obj.rateTrim v → Completes (.rateTrim h v) s (fun t => t.reg Obj.rateTrim = v ∧ t.clock = s.clock ∧ s.regsBut t [Obj.rateTrim])) ∧
    (s.admits h Obj.freezeNow 1 → s.reg Obj.ylogState = 0 → Completes (.freezeNow h 1) s (fun t =>
      t.reg Obj.freezeEntry = s.reg Obj.ylogNext ∧ t.reg Obj.ylogState = (if s.reg Obj.postTrigger = 0 then 2 else 1) ∧
      t.ylog.entries = s.ylog.entries)) ∧
    (s.admits h Obj.unfreeze v → Table.get 0 s.flagged Obj.ylogState = 0 → Completes (.unfreeze h v) s (fun t => t.reg Obj.ylogState = 0 ∧ t.reg Obj.missed = 0 ∧ t.ylog.entries = s.ylog.entries))

/-- FUSE_PROGRAM_COMPLETE adds the bits that blew to the pad, reports a verify failure exactly where the pad then reads another code than
was asked for, and is no longer busy; each TAP instruction selects its register, EXTEST and CLAMP control the pads and HIGHZ floats them
only where TEST_EN is high, and a TAP reset selects IDCODE. SAMPLE/PRELOAD captures an output that the device drives to a level at that
level, and the nets of the other pads. -/
def Obligations.FusesAndTheTap : Prop :=
  ∀ s : State,
    (∀ (blown : Nat) (j : FuseJob), s.fuses.job = some j → Completes (.fuseProgramComplete blown) s (fun t =>
      t.fuses.job = none ∧ Table.get 0 t.fuses.blown j.pad = (Table.get 0 s.fuses.blown j.pad ||| blown % 4) ∧
      (∀ p, p ≠ j.pad → Table.get 0 t.fuses.blown p = Table.get 0 s.fuses.blown p) ∧ t.regs = s.regs ∧ t.fuses.latched = s.fuses.latched ∧
      t.fuses.verifyFail = decide (Table.get 0 t.fuses.blown j.pad ≠ j.code))) ∧
    (let tapped (c : Instr) (ir : Nat) (sel : JtagSel) (control float : Bool) : Prop := Completes c s (fun t =>
      t = { s with jtag := { s.jtag with ir := ir, sel := sel, control := control, float := float } })
     (s.rst.testEn = true → tapped .jtagExtest 0 .boundary true false ∧ tapped .jtagClamp 4 .bypass true false ∧ tapped .jtagHighz 5 .bypass false true) ∧
     (s.rst.testEn = false → tapped .jtagExtest 0 .bypass false false ∧ tapped .jtagClamp 4 .bypass false false ∧ tapped .jtagHighz 5 .bypass false false) ∧
     tapped .jtagIdcode 1 .idcode false false ∧ tapped .jtagTapReset 1 .idcode false false ∧ tapped (.jtagBypass 0x3F) 0x3F .bypass false false ∧
     (∀ code : Nat, code < 64 → code ∉ [0, 1, 2, 4, 5] → tapped (.jtagBypass code) code .bypass false false)) ∧
    (∀ cells : List Bool, Completes (.jtagSamplePreload cells) s (fun t =>
      t = { s with jtag := { ir := 2, sel := .boundary, control := false, float := false, captured :=
        (List.zip chainPads cells).map (fun x =>
          (if padIsInput x.1 then fuseDrive (s.heldCode x.1) else s.outDrive x.1).level x.2) } }))

/-- A HELLO that finds a free session ID reserves it and is challenged; with none it is refused; the right PROOF from the reservation's own
source opens the session under a key made of the level's key, both nonces and the ID; a wrong one ends the reservation and is counted; a
lapsed reservation, CLOSE and an idle timeout leave no session of that number; the lockout of an address ends. A CLOSE with a payload is
answered as one of no layout and closes nothing. A datagram that is a fragment, goes elsewhere or has no packet's size is dropped
uncounted; one whose header, length or MAC is wrong is dropped and counted; and any other that carries a MAC is the packet that its
bytes spell. -/
def Obligations.SessionsOpenAndClose : Prop :=
  ∀ s : State, s.recovering = false → s.igrelRuns = true →
    (∀ (src : Src) (tag level id : Nat) (nonce : List Byte), s.igrel.lockouts.contains src.ip = false → level ≤ 2 → nonce.length = 16 →
      s.freeId = some id → Completes (.hello src tag level nonce) s (fun t => t.regs = s.regs ∧ ∃ nd x,
        t.igrel.sessions = s.igrel.sessions ++ [x] ∧ x.id = id ∧ x.src = src ∧ x.level = level ∧ x.reserved = true ∧ x.nc = nonce ∧
        x.nd = nd ∧ nd.length = 16 ∧ t.out = .igrel src 0x02 0 tag 0 (le 1 id ++ le 1 level ++ zeros 2 ++ nd) none :: s.out)) ∧
    (∀ (src : Src) (tag level : Nat) (nonce : List Byte), s.igrel.lockouts.contains src.ip = false → level ≤ 2 → nonce.length = 16 →
      s.freeId = none → Completes (.hello src tag level nonce) s (fun t =>
        t = { s with out := .igrel src 0x21 0 tag 0 (abortBytes 0x08000023 0 0 0) none :: s.out })) ∧
    (∀ (src : Src) (tag : Nat) (x : Session), s.igrel.sessions.find? (fun y => decide (y.id = x.id) && y.reserved && decide (y.src = src)) = some x →
      Completes (.proof src tag x.id (s.proofOf x)) s (fun t => t.regs = s.regs ∧ ∃ y, y ∈ t.igrel.sessions ∧ y.id = x.id ∧ y.reserved = false ∧
        y.key = hmac (s.levelKey x.level) ([0x53, 0x45, 0x53, 0x53] ++ x.nc ++ x.nd ++ le 1 x.id))) ∧
    (∀ (src : Src) (tag : Nat) (x : Session) (bytes : List Byte),
      s.igrel.sessions.find? (fun y => decide (y.id = x.id) && y.reserved && decide (y.src = src)) = some x → bytes.length = 32 →
      bytes ≠ s.proofOf x → Completes (.proof src tag x.id bytes) s (fun t => (∀ y ∈ t.igrel.sessions, y.id ≠ x.id) ∧
        t.reg Obj.authFailCount = countValue Obj.authFailCount (s.reg Obj.authFailCount) 1 ∧ s.logs t Ev.authFail [])) ∧
    (∀ x ∈ s.igrel.sessions, x.reserved = true → Completes (.reservationLapse x.id) s (fun t => t.regs = s.regs ∧ ∀ y ∈ t.igrel.sessions, y.id ≠ x.id)) ∧
    (∀ (h : Hdr) (x : Session), h.sess ≠ 0 → s.session h.sess = some x → x.newSeq h.seq = true →
      Completes (.close h []) s (fun t => t.regs = s.regs ∧ ∀ y ∈ t.igrel.sessions, y.id ≠ h.sess) ∧
      ∀ p : List Byte, p ≠ [] → Completes (.close h p) s (fun t => t = { s with igrel := t.igrel, out := t.out } ∧
        (t.session h.sess).isSome = true ∧ s.replied t h x p (.abort Abort.badType 0 0 0))) ∧
    (∀ (id : Nat) (x : Session), s.session id = some x → Completes (.sessionIdleTimeout id) s (fun t => t.regs = s.regs ∧
      ∀ y ∈ t.igrel.sessions, y.id ≠ id)) ∧
    (∀ ip : Nat, Completes (.authLockoutExpiry ip) s (fun t => t.regs = s.regs ∧ ip ∉ t.igrel.lockouts)) ∧
    (∀ d : Datagram, s.reaches d = false → Completes (.igrelDrop d) s (fun t => t = s)) ∧
    (∀ d : Datagram, s.reaches d = true → headerOk d.bytes = false ∨ (field d.bytes 3 1 ∉ [1, 3] ∧ s.macOk d.bytes = false) →
      Completes (.igrelDrop d) s (fun t => t = { s with regs := t.regs } ∧
        t.reg Obj.dropCount = countValue Obj.dropCount (s.reg Obj.dropCount) 1 ∧ s.regsBut t [Obj.dropCount])) ∧
    (∀ d : Datagram, s.reaches d = true → headerOk d.bytes = true → field d.bytes 3 1 ∉ [1, 3] → s.macOk d.bytes = true →
      Completes (.igrelDrop d) s (fun t => t = s.receive (packetHdr d) (field d.bytes 3 1) (packetPayload d.bytes)))

/-- A READ of any objects (but those whose value the spec does not say: log entry 5) is answered with an entry for each, in order: its
value, or the status of an object that has none to read; a DESCRIBE with the object's description, or an ABORT where there is no such
object; a SUBSCRIBE with an empty REPLY, and the session has the list asked for, or none for a count of 0, and a period out of range is
refused; and a payload of another layout with ABORT 0x0607_0010. None of these changes an object, but that an object held back in DARK
gets the conflict status, counted. At each period a subscribed session is sent the periods missed and its values at that time, or a
period more is missed. ARP and echo requests to the device are answered. -/
def Obligations.ReadsAnswerWithoutChange : Prop :=
  ∀ s : State,
    (∀ (h : Hdr) (p : List Byte) (x : Session) (keys : List Nat) (vpp : Bool), s.hears h p x → parseRead p = some keys →
      (∀ k ∈ keys, boundReading k = false) → (∀ k ∈ keys, s.conflicting k = false) →
      Completes (.read h p vpp) s (fun t => t = { s.seeVpp vpp with igrel := t.igrel, out := t.out } ∧
        s.replied t h x p (.ok (((s.seeVpp vpp).sawPacket h).valuesOf keys)))) ∧
    (∀ (h : Hdr) (p : List Byte) (x : Session) (key : Nat) (vpp : Bool), s.hears h p x → parseRead p = some [key] → s.conflicting key = true →
      Completes (.read h p vpp) s (fun t => t.mode = s.mode ∧ s.regsBut t (Obj.conflictCount :: yilloggerObjects) ∧
        t.reg Obj.conflictCount = countValue Obj.conflictCount (s.reg Obj.conflictCount) 1 ∧
        (t.session h.sess).bind (fun y => y.keptReply h.tag p) = some (.ok (le 1 1 ++ zeros 3 ++ badEntry Abort.conflict)))) ∧
    (∀ (h : Hdr) (p : List Byte) (x : Session) (key : Nat), s.hears h p x → parseDescribe p = some key →
      (∀ r, findObj key = .ok r → (s.sawPacket h).heldBackObj key r = false →
        Completes (.describe h p) s (fun t => t = { s with igrel := t.igrel, out := t.out } ∧ s.replied t h x p (.ok (describeReply key r)))) ∧
      (∀ c, findObj key = .error c → Completes (.describe h p) s (fun t => t = { s with igrel := t.igrel, out := t.out } ∧
        s.replied t h x p (.abort c 0 (key / 256) (key % 256)))) ∧
      (∀ r, findObj key = .ok r → (s.sawPacket h).heldBackObj key r = true → Completes (.describe h p) s (fun t => t.mode = s.mode ∧
        s.regsBut t (Obj.conflictCount :: yilloggerObjects) ∧ t.reg Obj.conflictCount = countValue Obj.conflictCount (s.reg Obj.conflictCount) 1 ∧
        (t.session h.sess).bind (fun y => y.keptReply h.tag p) = some (.abort Abort.conflict 0 (key / 256) (key % 256))))) ∧
    (∀ (h : Hdr) (p : List Byte) (x : Session) (period : Nat) (keys : List Nat), s.hears h p x → parseSubscribe p = some (period, keys) →
      Completes (.subscribe h p) s (fun t => t = { s with igrel := t.igrel, out := t.out } ∧
        (keys ≠ [] → period = 0 ∨ 60000 < period → s.replied t h x p (.abort Abort.range 0 0 0) ∧
          (t.session h.sess).map Session.sub = some x.sub) ∧
        (keys = [] ∨ (1 ≤ period ∧ period ≤ 60000) → s.replied t h x p (.ok []) ∧ (t.session h.sess).map Session.sub =
          some (if keys = [] then none else some { period := period, keys := keys, missed := 0 })))) ∧
    (∀ (h : Hdr) (p : List Byte) (x : Session) (vpp : Bool), s.hears h p x →
      let refused (c : Instr) : Prop := Completes c s (fun t => t = { s with fuses := t.fuses, igrel := t.igrel, out := t.out } ∧
        s.replied t h x p (.abort Abort.badType 0 0 0))
      (parseRead p = none → refused (.read h p vpp)) ∧ (parseDescribe p = none → refused (.describe h p)) ∧
        (parseSubscribe p = none → refused (.subscribe h p))) ∧
    (∀ (id : Nat) (x : Session) (u : Subscription), s.igrelRuns = true → s.session id = some x → x.sub = some u →
      Completes (.telemetrySend id false) s (fun t => t = { s with igrel := t.igrel } ∧
        (t.session id).map Session.sub = some (some { u with missed := u.missed + 1 })) ∧
      Completes (.telemetrySend id true) s (fun t => t = { s with igrel := t.igrel, out := t.out, freeCtr := t.freeCtr } ∧
        (t.session id).map Session.sub = some (some { u with missed := 0 }) ∧ ∃ body, t.out = .igrel x.src 0x31 id 0 x.txNext body (some x.key) :: s.out ∧
        ((∀ k ∈ u.keys, boundReading k = false) → u.missed < 2 ^ 16 → body = le 10 s.now ++ le 2 u.missed ++ s.valuesOf u.keys))) ∧
    (∀ mac ip : Nat, s.onNetwork = true → Completes (.arpRequest mac ip s.igrel.ip) s (fun t => t = { s with out := .arpReply mac ip :: s.out })) ∧
    (∀ (src : Nat) (data : List Byte), s.igrelRuns = true →
      Completes (.icmpEchoRequest src data) s (fun t => t = { s with out := .echoReply src data :: s.out }))

/-- A BLOCK_START of a write that passes its checks opens an empty transfer; the next segment of the window is appended, and any other of
the window is dropped; the acknowledgement past the last segment of a read closes it; a transfer that times out is gone, and the content
it was for is as it was. -/
def Obligations.BlockTransfersMoveContent : Prop :=
  ∀ s : State,
    (∀ (h : Hdr) (p : List Byte) (b : BlockReq) (x : Session) (r : Dict.ObjRow), s.hears h p x → parseBlock p = some b → b.reading = false →
      findObj b.key = .ok r → (s.sawPacket h).startFault x.level r b = none →
      Completes (.blockStart h p) s (fun t => t = { s with igrel := t.igrel, out := t.out } ∧ t.transfer h.sess h.tag = some
        { src := h.src, sess := h.sess, tag := h.tag, key := b.key, reading := false, total := b.total, crc := b.crc, data := [], next := 0,
          base := 0, oow := false })) ∧
    (∀ (h : Hdr) (n : Nat) (data : List Byte) (x : Session) (tr : Transfer), n < 2 ^ 32 → 1 ≤ data.length → data.length ≤ 1024 → h.sess ≠ 0 →
      s.recovering = false → s.igrelRuns = true → s.session h.sess = some x → x.newSeq h.seq = true → s.transfer h.sess h.tag = some tr →
      tr.reading = false → tr.base ≤ n → n < tr.base + 16 →
      Completes (.blockSegment h (le 4 n ++ data)) s (fun t => t = { s with igrel := t.igrel, out := t.out } ∧
        (t.transfer h.sess h.tag).map Transfer.data = some (if n = tr.next then tr.data ++ data else tr.data) ∧
        (t.transfer h.sess h.tag).map Transfer.next = some (if n = tr.next then n + 1 else tr.next))) ∧
    (∀ (h : Hdr) (x : Session) (tr : Transfer), h.sess ≠ 0 → s.recovering = false → s.igrelRuns = true → s.session h.sess = some x →
      x.newSeq h.seq = true → s.transfer h.sess h.tag = some tr → tr.reading = true → tr.base ≤ segments tr.total → tr.next = segments tr.total →
      segments tr.total < 2 ^ 32 → Completes (.blockAck h (le 4 (segments tr.total))) s (fun t => t = { s with igrel := t.igrel } ∧
        t.transfer h.sess h.tag = none)) ∧
    (∀ (sess tag : Nat) (tr : Transfer), s.transfer sess tag = some tr → Completes (.blockTimeout sess tag) s (fun t =>
      t = { s with igrel := t.igrel, out := t.out } ∧ t.transfer sess tag = none))

/-- A BLOCK_END that passes every check closes the transfer, is answered with an empty REPLY, and takes the content whole, whichever of the
two commands it comes as: a firmware slot, with its sectors erased and its header programmed; the ring map, with each stream's whole
ring as its credits; a stream's context (both its states); the placement trims under a new generation that every populated module has to
acknowledge; the bytes for a camera's UART; an upload request; a scan; a loop table, normalised; and any other DOMAIN object by its own
content. One that fails a check closes the transfer and takes nothing. HEALTH_EDIT, answered later, has its own statement. -/
def Obligations.BlockEndsTakeTheirContent : Prop :=
  ∀ (s : State) (h : Hdr) (x : Session) (tr : Transfer), s.ends h x tr →
    let done (t : State) : Prop := t.transfer h.sess h.tag = none ∧ t.mode = s.mode ∧
      t.out.head? = some (.igrel h.src 0x20 h.sess h.tag x.txNext [] (some x.key))
    let both (c : Instr) (P : State → Prop) : Prop := Completes c s (fun t => done t ∧ P t) ∧ Completes (.blockEnd h []) s (fun t => done t ∧ P t)
    (∀ e : Bad, ((s.sawPacket h).dropTransfer h.sess h.tag).endFault tr = some e → Completes (.blockEnd h []) s (fun t =>
      t = { s with regs := t.regs, igrel := t.igrel, ylog := t.ylog, out := t.out, freeCtr := t.freeCtr, flagged := t.flagged } ∧
      t.transfer h.sess h.tag = none ∧ s.regsBut t (Obj.conflictCount :: yilloggerObjects))) ∧
    (((s.sawPacket h).dropTransfer h.sess h.tag).endFault tr = none →
      (∀ base : Nat, (tr.key = Obj.fwSlot0 ∧ base = 0) ∨ (tr.key = Obj.fwSlot1 ∧ base = 0x400000) → both (.fwSlotWrite h) (fun t =>
        t.regs = s.regs ∧ t.flash = (if tr.key = Obj.fwSlot0 then { s.flash with slot0 := tr.data } else { s.flash with slot1 := tr.data }) ∧
        .norProgram base (tr.data.take 256) ∈ t.out ∧ ∀ i, 4096 * i < tr.data.length → .norErase (base + 4096 * i) ∈ t.out)) ∧
      (tr.key = Obj.ringMap → both (.ringMapWrite h) (fun t => t.dom Obj.ringMap = tr.data ∧
        ∀ k, k < 160 → t.reg (Obj.creditsGranted k) = t.ringSize k / 64)) ∧
      (∀ k : Nat, k < 160 → tr.key = 256 * (0x2100 + k) + 0x17 → both (.contextImageWrite h) (fun t =>
        (t.ctx k).work = CtxState.ofImage tr.data ∧ (t.ctx k).ckpt = CtxState.ofImage tr.data ∧ (t.ctx k).trail = [])) ∧
      (tr.key = Obj.placementTrim → both (.placementTrimWrite h) (fun t => t.domBytes Obj.placementTrim = tr.data ∧
        t.trimGen = (s.trimGen + 1) % 2 ^ 32 ∧ t.regs = s.regs ∧ ∀ m, m < 32 → s.populated m = true → (t.head m).trimOk = false)) ∧
      (tr.key = Obj.uartTx → both (.uartTx h) (fun t => t.regs = s.regs ∧
        Table.get Uart.idle t.lantern.uarts (s.reg Obj.uartContext / 4) = .queued tr.data)) ∧
      (∀ r : UAsk, tr.key = Obj.uploadRequest → parseUpload tr.data s.usable = some r → both (.uploadRequest h) (fun t => t.regs = s.regs ∧
        (t.chan r.ch).req = some { tag := r.tag, src := r.src, len := r.len, base := r.base, size := r.size })) ∧
      (∀ y : Scan, tr.key = Obj.scanRequest → s.parseScan tr.data = some y → both (.scanRequest h) (fun t =>
        t.check.queue = s.check.queue ++ [y] ∧ t.reg Obj.scanQueued = s.check.queue.length + 1)) ∧
      (∀ (i : Nat × Nat) (b : List Byte), loopOf tr.key = some i → loopTable (i.2 % 8) tr.data = some b → Completes (.blockEnd h []) s (fun t =>
        done t ∧ t.dom tr.key = b ∧ t.regs = s.regs ∧ ∀ k, k ≠ tr.key → t.dom k = s.dom k)) ∧
      (tr.key ∉ [Obj.ringMap, Obj.fwSlot0, Obj.fwSlot1, Obj.placementTrim, Obj.uartTx, Obj.uploadRequest, Obj.scanRequest, Obj.healthEdit] →
        (tr.key / 256 < 0x2100 ∨ 0x21A0 ≤ tr.key / 256) → loopOf tr.key = none → Completes (.blockEnd h []) s (fun t =>
          done t ∧ t.domBytes tr.key = tr.data ∧ t.regs = s.regs ∧ ∀ k, k ≠ tr.key → t.dom k = s.dom k)))

/-- A link that trains enough lanes is up at its width and grants every stream its free ring space; with too few it is down; a lane that is
lost takes an up link to training, with TRAIN sent, and is counted; a packet that comes wrong is counted, and a wrong BLOCK of a stream
is asked for again; a good block is stored behind the others and uses its credits, and one with a bad header or trailer is counted, not
stored and asked for again; at the end of a credit period nothing freed or owed is left. -/
def Obligations.RasterLinkAndCredits : Prop :=
  ∀ s : State,
    (∀ (trained : List Bool) (reversed : Bool), s.blockUp Block.raster = true → s.reg Obj.linkState < 2 →
      Completes (.rasterLinkUp trained reversed) s (fun t => t.mode = s.mode ∧ t.raster.rings = s.raster.rings ∧
        let w := rasterWidth trained (s.reg Obj.linkWidthMin)
        (w = 0 → t.reg Obj.linkState = 0) ∧ (w ≠ 0 → t.reg Obj.linkState = (if w = 8 then 3 else 2) ∧ ∀ k, k < 160 →
          t.reg (Obj.creditsGranted k) = s.ringSize k / 64 - sumList ((s.ring k).map (fun b => creditsOf b.bytes.length))))) ∧
    (∀ (lane : Fin 8) (n : Nat), s.blockUp Block.raster = true → s.rasterUp = true →
      Completes (.rasterLaneLoss lane false n) s (fun t => t = { s with regs := t.regs, flagged := t.flagged, out := t.out } ∧
        t.reg Obj.linkState = 1 ∧ t.out = .train .raster 1 (linkTrain 1) :: .train .raster 0 (linkTrain 0) :: s.out ∧
        t.reg (rasterLane lane 3) = countValue (rasterLane lane 3) (s.reg (rasterLane lane 3)) 1 ∧
        t.reg (rasterLane lane 5) = countValue (rasterLane lane 5) (s.reg (rasterLane lane 5)) n)) ∧
    (s.rasterUp = true →
      (∀ (lanes : List (List Sym)) (ty stream : Nat), wrongPacket (received s.raster.reversed lanes) = some (ty, stream) →
        Completes (.rasterPacketDrop [] lanes) s (fun t => t.raster.rings = s.raster.rings ∧ t.dram = s.dram ∧
          t.reg Obj.pktCrcErrors = countValue Obj.pktCrcErrors (s.reg Obj.pktCrcErrors) 1 ∧
          (ty = 1 → stream < 160 → stream ∈ t.raster.resent ∨ stream ∈ t.raster.resendDue) ∧
          (ty ≠ 1 ∨ 160 ≤ stream → t = { s with regs := t.regs } ∧ s.regsBut t [Obj.pktCrcErrors]))) ∧
      (∀ lanes : List (List Sym), wrongPacket (received s.raster.reversed lanes) = none → Completes (.rasterPacketDrop [] lanes) s (fun t => t = s)) ∧
      (∀ (k : Nat) (wax : List Byte), k < 160 → 17 ≤ wax.length → wax.length ≤ 16384 →
        let good := creditsOf wax.length ≤ s.reg (Obj.creditsGranted k) ∧ s.blockHeaderOk k wax = true
        (good → blockTrailerOk k (s.reg (Obj.nextBlockSeq k)) wax = true → s.twin.join = none →
          Completes (.block k wax) s (fun t => ∃ b, t.ring k = s.ring k ++ [b] ∧ b.seq = s.reg (Obj.nextBlockSeq k) ∧ b.bytes = wax ∧ b.bad = false ∧
            (∀ j, j ≠ k → t.ring j = s.ring j) ∧ t.reg (Obj.nextBlockSeq k) = (s.reg (Obj.nextBlockSeq k) + 1) % 2 ^ 32 ∧
            t.reg (Obj.creditsGranted k) = s.reg (Obj.creditsGranted k) - creditsOf wax.length)) ∧
        (¬ good ∨ blockTrailerOk k (s.reg (Obj.nextBlockSeq k)) wax = false → s.twin.join = none →
          Completes (.block k wax) s (fun t => t.raster.rings = s.raster.rings ∧ t.dram = s.dram ∧
            t.reg Obj.blockRejects = countValue Obj.blockRejects (s.reg Obj.blockRejects) 1 ∧
            (k ∈ t.raster.resent ∨ k ∈ t.raster.resendDue)))) ∧
      Completes .creditPeriodExpiry s (fun t => t.raster.freed = [] ∧ t.raster.resendDue = [] ∧ t.raster.resent = s.raster.resendDue ∧
        t.raster.rings = s.raster.rings ∧ t.mode = s.mode))

/-- With the link up, a COMMIT that does not match its layout is answered FORMAT, one that fails a check is answered its status, and neither
changes anything else; after an accepted one the next page is due to begin at the line after its last. -/
def Obligations.CommitsArePagesInOrder : Prop :=
  ∀ s : State, s.rasterUp = true → ∀ p : List Byte,
    (parseCommit p = none → Completes (.commit p) s (fun t => t = { s with out := commitReply (field p 0 4) 6 0 :: s.out })) ∧
    (∀ c : CommitReq, parseCommit p = some c →
      ((s.commitStatus c).1 ≠ 0 → Completes (.commit p) s (fun t =>
        t = { s with out := commitReply c.page (s.commitStatus c).1 (s.commitStatus c).2 :: s.out })) ∧
      ((s.commitStatus c).1 = 0 → Completes (.commit p) s (fun t => t.raster.nextFirst = (c.first + c.count) % 2 ^ 32 ∧ t.raster.flushFirst.isSome = true)))

/-- A line request asks for the group's next line; an engine that completes a line advances its context's working state and puts a line that
its group has not passed into the buffer, while the checkpoint waits; a rewind restores the checkpoint and is counted, but waits while
an engine works a line of the context; the oldest uncorrected line gets its drop counts. -/
def Obligations.LinesAreDecodedAndCorrected : Prop :=
  ∀ s : State,
    (∀ g : Fin 8, s.mayAsk g = true → s.blockUp Block.taper = true → Completes (.taperLineRequest g) s (fun t => t.mode = s.mode ∧
      (t.group g).nextReq = (s.nextAsk g + 1) % 2 ^ 32 ∧ (t.group g).conf = (s.group g).conf ∧ s.regsBut t yilloggerObjects)) ∧
    (∀ (e : Fin 8) (j : Job) (l : List Byte) (c : CtxState) (errs : List WaxErr), Table.find s.decomp.engines e = some j →
      s.blockUp Block.decomp = true → (128 ≤ j.stream → s.memWaits (.context j.stream) = false) →
      j.drop = false → (s.ctx j.stream).work.next = j.line → s.decodeFrom j.stream (s.ctx j.stream).work = .line l c errs →
      Completes (.decodeLine e) s (fun t => (t.ctx j.stream).work = c ∧
        (128 ≤ j.stream ∨ dist32 ((2 ^ 32 - 1 + s.reg (Obj.nextArmSeq (groupOf j.stream))) % 2 ^ 32) (s.ctx j.stream).ckpt.next < 0 →
          (t.ctx j.stream).ckpt = (s.ctx j.stream).ckpt ∧ (t.ctx j.stream).trail = (s.ctx j.stream).trail ++ [c]) ∧
        t.reg (Obj.workLine j.stream) = c.next ∧
        t.reg (Obj.linesDecoded j.stream) = countValue (Obj.linesDecoded j.stream) (s.reg (Obj.linesDecoded j.stream)) 1 ∧
        (s.keepsLine j.stream j.line = true → s.slotAt j.stream j.line = none →
          (t.slotAt j.stream j.line).map Slot.line = some l))) ∧
    (∀ (k : Fin 160) (r : Rewind), (s.ctx k).rewind = some r → s.engineBusy k = true → Completes (.contextRewind k) s (fun t => t = s)) ∧
    (∀ (k : Fin 160) (r : Rewind), (s.ctx k).rewind = some r → s.engineBusy k = false → Completes (.contextRewind k) s (fun t =>
      (t.ctx k).work = (s.ctx k).ckpt ∧ (t.ctx k).ckpt = (s.ctx k).ckpt ∧ (t.ctx k).trail = [] ∧ (t.ctx k).rewind = none ∧
      t.reg (Obj.workLine k) = (s.ctx k).ckpt.next ∧ t.reg (Obj.rewinds k) = countValue (Obj.rewinds k) (s.reg (Obj.rewinds k)) 1 ∧
      s.regsBut t [Obj.workLine k, Obj.rewinds k])) ∧
    (∀ (st : Fin 128) (x : Slot), (s.slotsOf st).find? (fun x => decide (x.st = .decoded) && x.counts.isNone) = some x →
      s.blockUp Block.strip = true → Completes (.stripCorrect st) s (fun t => t = { s with slots := t.slots } ∧
        (t.slotAt st x.seq).bind Slot.counts = some (s.correct (s.mapFor x.pend) st x.seq x.line).counts))

/-- An accepted HEALTH_EDIT that changes an entry, with no overwriting, no role swap in progress and no swap line passed, is published: its
records stand in the pending copy under a swap line, or already in the active one; once every group has confirmed or entered the swap
line the copies change places and the generation advances; the end of the overwriting makes the pending copy equal to the active one. -/
def Obligations.HealthMapChangesBySwap : Prop :=
  ∀ s : State,
    (∀ (h : Hdr) (x : Session) (tr : Transfer), s.ends h x tr → ((s.sawPacket h).dropTransfer h.sess h.tag).endFault tr = none →
      tr.key = Obj.healthEdit → s.health.overwriting = false → s.twin.swap = none → s.swapPassed = false →
      changingRecs s.health.pending (editRecords tr.data) ≠ [] →
      Completes (.healthEdit h) s (fun t => t.transfer h.sess h.tag = none ∧
        let new := applyRecs s.health.pending (changingRecs s.health.pending (editRecords tr.data))
        ((t.health.swap.isSome = true ∧ t.health.pending = new ∧ t.health.active = s.health.active) ∨
          (t.health.swap = none ∧ t.health.active = new ∧ t.health.overwriting = true)))) ∧
    (∀ line : Nat, s.health.swap = some line → (∀ g ∈ s.liveGroups, 0 < dist32 (s.reg (Obj.nextArmSeq g)) line) →
      Completes .healthSwap s (fun t => t.health.active = s.health.pending ∧ t.health.pending = s.health.active ∧ t.health.swap = none ∧
        t.health.overwriting = true ∧ t.reg Obj.healthGen = (s.reg Obj.healthGen + 1) % 2 ^ 32 ∧
        s.regsBut t (Obj.healthGen :: yilloggerObjects))) ∧
    (s.health.overwriting = true → s.health.held = [] → Completes .healthOverwriteDone s (fun t =>
      t = { s with health := { s.health with pending := s.health.active, overwriting := false } }))

/-- In LIT the Wick's decision for the earliest waiting line is held with its charge, which P_HEAD pays; a line whose decision is not SKIP
is sent as one LINE frame of its corrected codes on its lane, and its slot is SENT. -/
def Obligations.LinesAreDecidedAndSent : Prop :=
  ∀ s : State,
    (∀ g n : Nat, s.mode = .lit → s.nextDecision = some (g, n) →
      let o := s.lineOutcome (s.groupCounts g n)
      Completes .wickLineDecision s (fun t => t.decidedFor g n = some { g := g, seq := n, out := o.1, charge := o.2 } ∧ t.mode = .lit ∧
        t.wick.core = s.wick.core ∧ t.wick.mach = s.wick.mach ∧
        (-(s.poolCap 1) ≤ s.wick.head - o.2 → s.wick.head - o.2 ≤ s.poolCap 1 → t.wick.head = s.wick.head - o.2))) ∧
    (∀ (st : Fin 128) (x : Slot), s.toSend st = some x → s.laneUp ((st : Nat) / 4) = true → s.blockUp Block.headLink = true →
      Completes (.lineFrameSend st) s (fun t => (t.slotAt st x.seq).map Slot.st = some .sent ∧ s.regsBut t [Obj.leadNow (groupOf st)] ∧
        t.out = .head ((st : Nat) / 4) (headChars (headFrame frLine (s.roleFor x.seq) ((st : Nat) / 4) ((st : Nat) % 4) x.seq
          (s.linePayload st { x with outcome := s.outcomeFor (groupOf st) x.seq }))) :: s.out))

/-- The filtered levels of A and B follow their samples. A legal edge of a channel that counts is taken in the sense of DIR_SENSE and moves
its count by one; an illegal one is counted and moves no count (the counts stated for the other channel, and for the firing channel
outside LIT with no line confirmed); a rise of the filtered index at the travel mark is taken; standstill is declared, but not in the
REF cycle of a counted edge; the firing channel's fault is over 1 s after the last one; a channel that does not count, and one whose
levels stay, only follow their levels. -/
def Obligations.EncoderCountsEdges : Prop :=
  ∀ (s : State) (ch : Fin 2),
    let calm : Prop := (ch : Nat) ≠ s.fireCh ∨ (s.mode ≠ .lit ∧ ∀ g, g < 8 → (s.group g).conf = none)
    let c := s.encCh ch
    (∀ pins : List (Bool × Bool),
      let a := filterLevel (s.reg (Obj.filterN ch)) c.a (pins.map Prod.fst)
      let b := filterLevel (s.reg (Obj.filterN ch)) c.b (pins.map Prod.snd)
      (s.counting ch = true → (a ≠ c.a ∧ b = c.b) ∨ (a = c.a ∧ b ≠ c.b) →
        let fwd := decide (decide (quadrature a b = (quadrature c.a c.b + 1) % 4) = decide (s.reg (Obj.dirSense ch) = 0))
        Completes (.encoderEdge ch pins) s (fun t => t.mode = s.mode ∧ (t.encCh ch).a = a ∧ (t.encCh ch).b = b ∧
          (t.encCh ch).lastDir = some fwd ∧ (calm → t.reg (Obj.lastEdgeCount ch) = t.reg (Obj.encCount ch) ∧ t.reg (Obj.encCount ch) =
            if fwd then (s.reg (Obj.encCount ch) + 1) % 2 ^ 32 else (s.reg (Obj.encCount ch) + 2 ^ 32 - 1) % 2 ^ 32))) ∧
      (s.counting ch = true → a ≠ c.a → b ≠ c.b → Completes (.encoderEdge ch pins) s (fun t => t.mode = s.mode ∧ (t.encCh ch).a = a ∧
        (t.encCh ch).b = b ∧ (t.encCh ch).stamps = [] ∧ (t.encCh ch).faultAt = some s.clock.cycles ∧
        (calm → t.reg (Obj.encCount ch) = s.reg (Obj.encCount ch) ∧
          t.reg (Obj.speedState ch) = (if c.still.any (fun x => decide (x.cycle = s.clock.cycles)) then 2 else 0) ∧
          t.reg (Obj.illegalCount ch) = countValue (Obj.illegalCount ch) (s.reg (Obj.illegalCount ch)) 1 ∧
          (t.reg (Obj.encStatus ch)).testBit 0 = true))) ∧
      (s.counting ch = false ∨ (a = c.a ∧ b = c.b) → Completes (.encoderEdge ch pins) s (fun t => t = { s with enc := t.enc } ∧
        t.encCh ch = { c with a := a, b := b }))) ∧
    (∀ pins : List Bool,
      let z := filterLevel (s.reg (Obj.filterN ch)) c.z pins
      (s.counting ch = true → z = true → c.z = false → s.reg (Obj.encCount ch) = s.reg (Obj.travelMark ch) → c.idxTaken = none →
        Completes (.indexEdge ch pins) s (fun t => t.mode = s.mode ∧ (t.encCh ch).idxTaken = some (s.reg (Obj.encCount ch)) ∧
          (calm → t.reg (Obj.lastIndexCount ch) = s.reg (Obj.encCount ch) ∧ t.reg (Obj.encCount ch) = s.reg (Obj.encCount ch)))) ∧
      (s.counting ch = false ∨ z = false ∨ c.z = true → Completes (.indexEdge ch pins) s (fun t => t = { s with enc := t.enc } ∧
        t.encCh ch = { c with z := z }))) ∧
    (s.counting ch = true → c.edgeAt ≠ some s.clock.cycles → Completes (.standstillTimeout ch) s (fun t => t.mode = s.mode ∧
      (t.encCh ch).stamps = [] ∧ (calm → t.reg (Obj.speedState ch) = 2 ∧ t.reg (Obj.encCount ch) = s.reg (Obj.encCount ch)))) ∧
    (c.edgeAt = some s.clock.cycles → Completes (.standstillTimeout ch) s (fun t => t = s)) ∧
    Completes .encoderBlockExpiry s (fun t => t = { s with enc := t.enc } ∧ (t.encCh s.fireCh).faultAt = none)

/-- ARMING_START ends priming where no stop has been accepted; a line that arms on a SOLO chip with every condition met, on a group that has
fired none before, is confirmed; one with a condition not met is entered in the skip ledger with that condition's cause and strip; the
placed edge of a confirmed line raises its strobe, but where the Snuffer forces it low, and the line fires; its end lowers the strobe. -/
def Obligations.LinesArmAndFire : Prop :=
  ∀ s : State,
    (s.mode = .lit → s.taper.priming = true → s.taper.stopping = false → s.hasCause = false → Completes .armingStart s (fun t => t.mode = .lit ∧ t.taper.priming = false ∧
      (t.pins.fireEn = s.pins.fireEn))) ∧
    (∀ g : Fin 8, s.arms g = true → s.blockUp Block.taper = true → s.role = .solo → s.twin.swap = none → s.twin.early = [] → s.twin.modeAt = none →
      let n := s.reg (Obj.nextArmSeq g)
      let s1 := s.ckptAll ((2 ^ 32 - 1 + n) % 2 ^ 32) (s.liveStrips g)
      (s1.armFault g n = none → (s.group g).lastEdge = none → Completes (.lineArm g) s (fun t => t.mode = s.mode ∧ t.taper.ledger = s.taper.ledger ∧ t.taper.newest.isSome = true ∧
        (t.group g).conf.map Conf.seq = some n)) ∧
      (∀ cause strip : Nat, s1.armFault g n = some (cause, strip) → Completes (.lineArm g) s (fun t => t.mode = s.mode ∧ (t.group g).conf = none ∧ ∃ page, t.taper.ledger.head? = some
          { seq := n, page := page, group := g, cause := cause, strip := strip, confirmed := false, time := s.now }))) ∧
    (∀ (g : Fin 8) (c : Conf) (rise : Nat), (s.group g).conf = some c → c.rises = some rise → s.role = .solo → s.twin.swap = none → s.twin.early = [] →
      s.doubts g c.seq = [] → (∀ m ∈ s.liveModules g, s.laneUp m = true) →
      Completes (.strobeEdge g) s (fun t => t.mode = s.mode ∧ (t.group g).conf = none ∧ (t.group g).pulse = true ∧
        ((s.group g).forced = false → (g : Nat) ∈ t.pins.strobesHigh) ∧
        (t.group g).lastEdge = some rise ∧ t.taper.ledger = s.taper.ledger)) ∧
    (∀ g : Fin 8, (s.group g).pulse = true → Completes (.strobeEnd g) s (fun t => t.mode = s.mode ∧ (t.group g).pulse = false ∧
      (t.group g).forced = false ∧ (g : Nat) ∉ t.pins.strobesHigh ∧ s.regsBut t yilloggerObjects ∧
      ((∀ x ∈ s.taper.printed, x.1 ≠ (g : Nat)) → t.out = .strobeEnd g :: s.out ∧ t.regs = s.regs)))

/-- A pad that has been high too long is cut, whatever the Taper drives: it is low, held low while the Taper's pulse lasts, and the cut is
counted and logged; a pad still high after a cut, or cuts that come too often, set the SNUFFER cause; a line of a running maintenance
pattern, with its blocks out of reset, every lane up and its stream's next line at hand, fires on all 8 outputs but those of groups with
no module, and is one less to come. -/
def Obligations.SnufferAndMaintenanceLines : Prop :=
  ∀ s : State,
    (∀ g : Fin 8, Completes (.strobeCut g) s (fun t => t.mode = s.mode ∧ (t.group g).forced = (s.group g).pulse ∧ (t.group g).cut = true ∧
      (g : Nat) ∉ t.pins.strobesHigh ∧ t.reg Obj.snuffCuts = countValue Obj.snuffCuts (s.reg Obj.snuffCuts) 1 ∧ s.logs t Ev.strobeCut (le 1 g) ∧
      s.regsBut t (Obj.snuffCuts :: Obj.snuffCause :: yilloggerObjects))) ∧
    (∀ (g : Fin 8) (pad : Bool), Completes (.snufferEscalate g pad) s (fun t =>
      t = { s with regs := t.regs, flagged := t.flagged, taper := t.taper } ∧ (t.group g).cut = false ∧ t.taper.cuts = s.taper.cuts ∧
      s.regsBut t [Obj.snuffCause] ∧ t.reg Obj.snuffCause =
        if ((pad && (s.group g).cut) || decide (s.reg Obj.snuffEscCount ≤ s.recentCuts.length)) && s.configured then s.reg Obj.snuffCause ||| 4
        else s.reg Obj.snuffCause)) ∧
    (∀ (m : Maint) (n : Nat) (line : List Byte), s.taper.maint = some m → m.running = true → m.left ≠ 0 → s.mode = .trim →
      (∀ b ∈ [Block.decomp, Block.strip, Block.taper, Block.headLink], s.blockUp b = true) →
      (∀ i, i < 32 → s.populated i = true → s.laneUp i = true) → (s.takeAux m.stream).1 = .line n line →
      Completes .maintLine s (fun t => t.mode = .trim ∧ t.taper.maint = some { m with left := m.left - 1 } ∧
        (∀ g ∈ s.liveGroups, (t.group g).pulse = true ∧ ((s.group g).forced = false → g ∈ t.pins.strobesHigh)) ∧
        ∀ g, g < 8 → g ∉ s.liveGroups → t.group g = s.group g ∧ (g ∈ t.pins.strobesHigh ↔ g ∈ s.pins.strobesHigh)))

/-- A training lane records the slot ID of its module, and is good only where it is its own number; a STATUS frame that is whole brings it
up, and on an up lane that reports no fault is heard, and with no line in doubt and no nozzle reported is kept as the last one; one
whose delimiters, type, length or check value are wrong is a frame error; code errors are counted; a lane that does not come up, is
silent, loses its signal or acknowledges nothing for eight resends is down; with leave it trains again; one that has not recovered in
time sets the LANE cause. -/
def Obligations.HeadLanesComeUpAndGoDown : Prop :=
  ∀ (s : State) (m : Fin 32),
    (∀ (slot : Nat) (inv : Bool), s.reg (Obj.laneState m) = 1 → s.headLinkUp = true → slot < 256 →
      Completes (.headTrainReply m slot inv) s (fun t => t.mode = s.mode ∧ t.reg (Obj.slotIdSeen m) = slot ∧
        t.reg (Obj.rxInverted m) = flag inv ∧ (t.head m).slotOk = decide (slot = m) ∧
        (slot ≠ m → (t.reg (Obj.laneStatus m)).testBit 2 = true))) ∧
    (s.reg (Obj.laneState m) = 1 → s.populated m = true → s.twin.roleDecided = true → s.mode ≠ .kindle →
      Completes (.headLaneTimeout m) s (fun t => t.mode = s.mode ∧ t.reg (Obj.laneState m) = 3)) ∧
    (∀ (n : Nat) (chars : List Sym), s.headLinkUp = true → s.populated m = true →
      (statusPayload m chars = none → Completes (.status m n chars) s (fun t => t = { s with regs := t.regs } ∧
        s.regsBut t [Obj.frameErrors m, Obj.codeErrors m] ∧
        t.reg (Obj.codeErrors m) = countValue (Obj.codeErrors m) (s.reg (Obj.codeErrors m)) (n + strayControls chars) ∧
        t.reg (Obj.frameErrors m) = countValue (Obj.frameErrors m) (s.reg (Obj.frameErrors m)) 1)) ∧
      (∀ p, statusPayload m chars = some p → s.laneUp m = true → statusBad p = false → Completes (.status m n chars) s (fun t => t.mode = s.mode ∧
        (t.head m).ready = decide (field p 0 1 = 2) ∧ (t.head m).trimOk = decide (field p 24 4 = s.trimGen) ∧
        (t.head m).alarm = (field p 1 1).testBit 4 ∧ (s.taper.unsettled = [] → field p 3 1 = 0 → t.dom (Obj.lastStatus m) = p ∧
          t.reg (Obj.headState m) = field p 0 1 ∧ t.reg (Obj.trimAcked m) = field p 24 4 ∧ t.laneUp m = true))) ∧
      (∀ p, statusPayload m chars = some p → s.reg (Obj.laneState m) = 1 → (s.head m).slotOk = true → s.twin.roleDecided = true →
        Completes (.status m n chars) s (fun t => t.mode = s.mode ∧ t.laneUp m = true))) ∧
    (s.laneUp m = true → Completes (.statusTimeout m) s (fun t => t.mode = s.mode ∧ t.reg (Obj.laneState m) = 3 ∧ (t.head m).recovering = true ∧
      t.reg (Obj.retrains m) = countValue (Obj.retrains m) (s.reg (Obj.retrains m)) 1)) ∧
    (∀ (lol : Bool) (n : Nat), s.populated m = true → s.headLinkUp = true → Completes (.headLaneLoss m lol n) s (fun t => t.mode = s.mode ∧
      t.reg (Obj.codeErrors m) = countValue (Obj.codeErrors m) (s.reg (Obj.codeErrors m)) n ∧
      (s.laneUp m = true → t.reg (Obj.laneState m) = 3) ∧
      let k := if lol then Obj.lolCount m else Obj.losCount m
      t.reg k = countValue k (s.reg k) 1)) ∧
    (s.laneUp m = true → (s.head m).unacked ≠ [] →
      ((∀ c ∈ (s.head m).unacked, c.resends < 8) → Completes (.ctrlResendTimeout m) s (fun t => t.laneUp m = true ∧
        (t.head m).unacked = (s.head m).unacked.map (fun c => { c with resends := c.resends + 1 }) ∧ s.regsBut t [Obj.ctrlResends m])) ∧
      ((∃ c ∈ (s.head m).unacked, 8 ≤ c.resends) → Completes (.ctrlResendTimeout m) s (fun t => t.reg (Obj.laneState m) = 3))) ∧
    (s.reg (Obj.laneState m) = 3 → s.hasLeave (.laneRetrain m) = true → s.headLinkUp = true →
      Completes (.headLaneRetrain m) s (fun t => t.reg (Obj.laneState m) = 1 ∧ t.out = .train .head m (headTrain m) :: s.out ∧ s.regsBut t [Obj.laneState m] ∧
        (t.head m).unacked = [] ∧ (t.head m).slotOk = false)) ∧
    ((s.head m).recovering = true → s.laneUp m = false → Completes (.recoverTimeExpiry m) s (fun t => t = { s with regs := t.regs, heads := t.heads, flagged := t.flagged } ∧
      (t.head m).recovering = false ∧ s.regsBut t [Obj.snuffCause] ∧
      t.reg Obj.snuffCause = if s.configured then s.reg Obj.snuffCause ||| 64 else s.reg Obj.snuffCause)) ∧
    (s.mode.working = true → Completes .timeFrameSend s (fun t => t = { s with heads := t.heads, out := t.out } ∧
      t.out.length = s.out.length + s.upLanes.length))

/-- Bring-up sets both lanes as they came up, with their order; a lost lane is counted and trains again; a dropped frame is counted, and the
lanes' code errors with it; a HEARTBEAT leaves a configured chip with a link; one of another length is a dropped frame; one received is
kept with its time, and in KINDLE the first decides the role; a healthy link that falls silent sets the TWIN cause on the mate of a
living primary and the mate-lost event on the primary; with no link, TWIN_ALIVE_IN decides the role. -/
def Obligations.TwinLinkAndHeartbeats : Prop :=
  ∀ s : State,
    let dropped (c : Instr) : Prop := Completes c s (fun t => t.twin = { s.twin with dropAt := some s.clock.cycles } ∧ t.mode = s.mode ∧
      t.reg (Obj.frameErrors 32) = countValue (Obj.frameErrors 32) (s.reg (Obj.frameErrors 32)) 1)
    (∀ a b r : Bool, s.twinRuns = true → s.twinHealthy = false → Completes (.twinLinkUp a b r) s (fun t => t.mode = s.mode ∧
      t.twin = { s.twin with lane0 := a, lane1 := b, reversed := r } ∧ t.reg (Obj.laneState 32) = (if a then 2 else 3) ∧ t.reg (Obj.laneState 33) = (if b then 2 else 3) ∧
      (a ≠ b → (t.reg Obj.twinEvents).testBit 2 = true))) ∧
    (∀ n : Nat, s.twin.lane0 = true → Completes (.twinLaneLoss 0 n) s (fun t => t.twin = { s.twin with lane0 := false } ∧ t.mode = s.mode ∧
      t.reg (Obj.laneState 32) = 1 ∧ .train .twin 0 (linkTrain 0) ∈ t.out ∧
      t.reg (Obj.codeErrors 32) = countValue (Obj.codeErrors 32) (s.reg (Obj.codeErrors 32)) n ∧ t.reg (Obj.retrains 32) = countValue (Obj.retrains 32) (s.reg (Obj.retrains 32)) 1)) ∧
    (∀ n : Nat, s.twin.lane1 = true → Completes (.twinLaneLoss 1 n) s (fun t => t.twin = { s.twin with lane1 := false } ∧ t.mode = s.mode ∧
      t.reg (Obj.laneState 33) = 1 ∧ .train .twin 1 (linkTrain 1) ∈ t.out ∧
      t.reg (Obj.codeErrors 33) = countValue (Obj.codeErrors 33) (s.reg (Obj.codeErrors 33)) n ∧ t.reg (Obj.retrains 33) = countValue (Obj.retrains 33) (s.reg (Obj.retrains 33)) 1)) ∧
    (∀ errors : List Nat, s.twinUp = true → dropped (.twinFrameDrop errors) ∧ Completes (.twinFrameDrop errors) s (fun t =>
      t.reg (Obj.codeErrors 32) = countValue (Obj.codeErrors 32) (s.reg (Obj.codeErrors 32)) (errors.getD 0 0) ∧
      t.reg (Obj.codeErrors 33) = countValue (Obj.codeErrors 33) (s.reg (Obj.codeErrors 33)) (errors.getD 1 0))) ∧
    (s.twinRuns = true → s.twinUp = true → s.configured = true → Completes .heartbeatSend s (fun t =>
      t = { s with out := s.twin.frame 0x01 s.heartbeatBytes :: s.out })) ∧
    (∀ p : List Byte, s.twinRuns = true → s.twinUp = true → p.length ≠ 56 → p.length ≠ 440 → dropped (.heartbeat p)) ∧
    (∀ p : List Byte, s.twinRuns = true → s.twinUp = true → p.length = 56 ∨ p.length = 440 → (field p 2 2).testBit 2 = false →
      Completes (.heartbeat p) s (fun t => t.mode = s.mode ∧ t.pins = s.pins ∧ t.twin.hbAt = some s.clock.cycles ∧ t.twin.partner = p ∧
        (s.mode ≠ .kindle ∨ s.twin.roleDecided = true → t.role = s.role) ∧
        (s.mode = .kindle → s.twin.roleDecided = false → t.twin.roleDecided = true ∧ t.role =
          if field p 0 1 = 1 ∧ field p 1 1 ∈ [2, 3, 4] ∧ field p 8 2 = s.reg Obj.siliconRev ∧ field p 12 4 = s.reg Obj.fwVersion then Role.mate
          else s.role))) ∧
    (Completes .heartbeatTimeout s (fun t => t.twin = { s.twin with hbAt := none } ∧ t.mode = s.mode ∧ t.role = s.role ∧
      (s.twinHealthy = true → s.mode.working = true → s.role = .mate → s.pins.aliveIn = true → s.configured = true →
        t.reg Obj.snuffCause = s.reg Obj.snuffCause ||| 2 ^ Cause.twin) ∧
      (s.twinHealthy = true → s.mode.working = true → s.role = .primary → (t.reg Obj.twinEvents).testBit 1 = true ∧ s.logs t Ev.mateLost []))) ∧
    (s.mode = .kindle → s.twin.roleDecided = false → s.twinUp = false → Completes .roleDecisionTimeout s (fun t =>
      t = { s with twin := { s.twin with roleDecided := true }, role := if s.pins.aliveIn then .mate else s.role }))

/-- TWIN_ALIVE_IN follows its pin. A mate that sees it fall, or a line period pass with no LINE_STATE, becomes PRIMARY in LIT where the link
was healthy at the last HEARTBEAT, the digests agreed and it has no cause; a joining chip abandons its join; any other working mate sets
the TWIN cause. A primary that hears PROMOTED sets the TWIN cause. -/
def Obligations.FailOverPromotesTheMate : Prop :=
  ∀ s : State,
    (s.strapped ≠ .solo → Completes .twinAliveHigh s (fun t => t = { s with pins := { s.pins with aliveIn := true } })) ∧
    (s.strapped ≠ .solo → s.role ≠ .mate → Completes .twinAliveLow s (fun t => t = { s with pins := { s.pins with aliveIn := false } })) ∧
    (∀ c : Instr, (c = .twinAliveLow ∧ s.strapped ≠ .solo) ∨
        (∃ g : Fin 8, c = .lineStateTimeout g ∧ s.mode = .lit ∧ s.pins.aliveIn = true ∧ ∃ o ∈ s.twin.own, o.g = g ∧ o.edge.isSome = true) →
      s.role = .mate → s.mode.working = true → Completes c s (fun t => t.mode = s.mode ∧ t.pins.fireEn = s.pins.fireEn ∧
        (s.mode = .lit → s.hasCause = false → s.twin.healthyAtHb = true → s.twin.digestOk = true → t.role = .primary) ∧
        (s.mode = .pilot → s.twin.join.isSome = true → t.role = .mate ∧ t.twin.join = none ∧ t.reg Obj.joinState = 4 ∧
          s.regsBut t [Obj.joinState]) ∧
        ((s.mode ≠ .lit ∨ s.hasCause = true ∨ s.twin.healthyAtHb = false ∨ s.twin.digestOk = false) →
          (s.mode ≠ .pilot ∨ s.twin.join = none) → s.configured = true →
            t.role = .mate ∧ t.reg Obj.snuffCause = s.reg Obj.snuffCause ||| 2 ^ Cause.twin ∧ s.regsBut t [Obj.snuffCause]))) ∧
    (∀ l : List Nat, s.twinUp = true → s.role = .primary → l.length = 8 → s.configured = true → Completes (.promoted l) s (fun t =>
      t = { s with regs := t.regs, flagged := t.flagged } ∧ t.reg Obj.snuffCause = s.reg Obj.snuffCause ||| 2 ^ Cause.twin ∧
      s.regsBut t [Obj.snuffCause]))

/-- A DECISION for a line to come is held once; a LINE_STATE of a line that the mate has passed closes it, and enters a skipped line in the
ledger; the oldest copy waiting is sent; PILOT, TRIM and LIT follow the primary's MODE, a stop once every group has come to its
effective line, and not on a chip in PILOT that differs in revision or firmware; a PUBLISH that comes after line S is confirmed sets the
TWIN cause; a SWAP gives the swap line, and once every group has passed it the roles change. -/
def Obligations.MateFollowsThePrimary : Prop :=
  ∀ s : State, s.twinUp = true →
    (∀ (n : Nat) (g : Fin 8) (o : WickOut), s.roleFor n = .mate → 0 ≤ dist32 n (s.reg (Obj.nextArmSeq g)) →
      (∀ d ∈ s.twin.decisions, ¬(d.g = g ∧ d.seq = n)) → Completes (.decision n g o) s (fun t => t.mode = s.mode ∧ t.pins = s.pins ∧
        t.twin = { s.twin with decisions := s.twin.decisions ++ [{ g := g, seq := n, out := o, charge := 0 }] })) ∧
    (∀ (n : Nat) (g : Fin 8) (o : WickOut) (d : GLine), d ∈ s.twin.decisions → d.g = g → d.seq = n → Completes (.decision n g o) s (fun t => t = s)) ∧
    (∀ (p : List Byte) (x : LineSt) (o : Own), parseLineState p = some x → s.roleFor x.seq = .mate → s.mode = .lit ∨ s.mode = .snuff →
      s.twin.own.find? (fun o => decide (o.g = x.group) && decide (o.seq = x.seq)) = some o → Completes (.lineState p) s (fun t =>
        t.mode = s.mode ∧ t.pins = s.pins ∧ t.twin.own = s.twin.own.erase o ∧ (x.outcome = 1 → t.taper.ledger.head? = some
          { seq := x.seq, page := x.page, group := x.group, cause := x.cause, strip := x.strip, confirmed := x.flags.testBit 0, time := x.time }))) ∧
    (∀ p : List Byte, parseLineState p = none → Completes (.lineState p) s (fun t => t.mode = s.mode ∧
      t.twin = { s.twin with dropAt := some s.clock.cycles } ∧
      t.reg (Obj.frameErrors 32) = countValue (Obj.frameErrors 32) (s.reg (Obj.frameErrors 32)) 1)) ∧
    (∀ (x : LineSt) (rest : List LineSt), s.twin.sendQueue = x :: rest → s.twin.join = none → s.strapped ≠ .solo →
      Completes .lineStateSend s (fun t => t = { s with twin := { s.twin with sendQueue := rest }, out := s.twin.frame 0x03 x.bytes :: s.out })) ∧
    (s.role = .mate → s.hasCause = false →
      (∀ mode line, s.mode = .pilot → s.mismatched = true → Completes (.modeMessage mode line) s (fun t => t = s)) ∧
      (∀ line, s.mode = .pilot → s.mismatched = false → Completes (.modeMessage 3 line) s (fun t => t.mode = .trim ∧ t.pins.fireEn = s.pins.fireEn)) ∧
      (∀ line, s.mode = .pilot → s.mismatched = false → s.twin.join = none → s.dram.setNow = 0 → s.dram.change = none →
        Completes (.modeMessage 4 line) s (fun t => t.mode = .lit ∧ t.pins.fireEn = (if s.blockUp Block.taper then .high else .low) ∧
          t.taper.priming = true)) ∧
      (∀ line, s.mode = .pilot → s.mismatched = false → s.twin.join.isSome = true →
        Completes (.modeMessage 4 line) s (fun t => t = { s with twin := { s.twin with modeAt := some (4, line) } })) ∧
      (∀ line, s.mode = .trim → Completes (.modeMessage 2 line) s (fun t => t.mode = .pilot ∧ t.pins.fireEn = .low)) ∧
      (∀ line, s.mode = .lit → (∀ g ∈ s.liveGroups, 0 ≤ dist32 (s.reg (Obj.nextArmSeq g)) line) →
        Completes (.modeMessage 2 line) s (fun t => t.mode = .lit ∧ t.taper.stopping = true ∧ t.pins = s.pins)) ∧
      (∀ line, s.mode = .lit → (∃ g ∈ s.liveGroups, dist32 (s.reg (Obj.nextArmSeq g)) line < 0) →
        Completes (.modeMessage 2 line) s (fun t => t = { s with twin := { s.twin with modeAt := some (2, line) } }))) ∧
    (∀ (gen line n : Nat) (recs : List Nat), s.role = .mate → recs ≠ [] → s.mode = .lit → s.taper.newest = some n → 0 ≤ dist32 n line →
      s.configured = true → Completes (.publish gen line recs) s (fun t => t = { s with regs := t.regs, flagged := t.flagged } ∧
        t.reg Obj.snuffCause = s.reg Obj.snuffCause ||| 2 ^ Cause.twin ∧ s.regsBut t [Obj.snuffCause])) ∧
    (∀ (gen line : Nat) (recs : List Nat), s.role = .mate → recs ≠ [] → s.mode ≠ .lit → s.health.overwriting = false → s.atOnce line = false → s.twin.awaited = [] →
      Completes (.publish gen line recs) s (fun t => t = { s with regs := t.regs, health := t.health } ∧
        t.health = { s.health with pending := applyRecs s.health.pending (recs.map (recordOf byHost)), swap := some line } ∧
        t.reg Obj.htSwapLine = line ∧ s.regsBut t [Obj.publishes, Obj.htSwapLine])) ∧
    (∀ recs : List Nat, s.role = .primary → recs ≠ [] → s.health.overwriting = true → s.swapPassed = false → Completes (.findingMessage recs) s (fun t =>
      t = { s with health := { s.health with held := s.health.held ++ [(recs.map (recordOf byLantern), none)] } })) ∧
    (∀ recs : List Nat, s.role = .primary → recs ≠ [] → s.mode ≠ .lit → s.health.overwriting = false → s.twin.swap = none →
      (∃ line, s.health.swap = some line) → s.swapPassed = false → changingRecs s.health.pending (recs.map (recordOf byLantern)) ≠ [] →
      Completes (.findingMessage recs) s (fun t => t.mode = s.mode ∧ t.health = { s.health with
        pending := applyRecs s.health.pending (changingRecs s.health.pending (recs.map (recordOf byLantern))) })) ∧
    (∀ line page : Nat, s.role = .mate → s.mode = .lit → s.twin.swap = none → Completes (.swapMessage line page) s (fun t =>
      t = { s with regs := t.regs, twin := { s.twin with swap := some (line, page) } } ∧ t.reg Obj.twSwapLine = line ∧ s.regsBut t [Obj.twSwapLine])) ∧
    (∀ f page : Nat, s.twin.swap = some (f, page) → (∀ g ∈ s.liveGroups, 0 < dist32 (s.reg (Obj.nextArmSeq g)) f) →
      Completes .roleSwapComplete s (fun t => t.mode = s.mode ∧ t.pins = s.pins ∧ (s.role = .primary → t.role = .mate) ∧ (s.role = .mate → t.role = .primary)))

/-- A JOIN_REQ of the same versions and digest makes a plan at a committed page; the plan and its moves set the join line, but not on a chip
that differs; at the snapshot line, with every strip's checkpoint at hand, the images and the map are sent, and taken they give the
joining chip its map, generation and an empty store; COUNTERS set exactly the counters that follow a line's entry; a join that is ready
ends with MODE LIT; a fifth retry fails it; at line J the joining chip enters LIT. -/
def Obligations.AChipJoinsAsMate : Prop :=
  ∀ s : State,
    (∀ p : Page, s.twinUp = true → s.strapped ≠ .solo → s.role = .primary → s.mode = .lit → s.twin.join = none → s.twin.swap = none →
      s.taper.stopping = false → s.pageFrom (((1024 + s.newestAll) % 2 ^ 32 + s.reg Obj.joinLead) % 2 ^ 32) = some p →
      Completes (.joinReq (s.reg Obj.siliconRev) (s.reg Obj.fwVersion) s.digest) s (fun t => t = { s with
          regs := t.regs, twin := { s.twin with join := some { snapshot := (1024 + s.newestAll) % 2 ^ 32, line := p.first, joining := false } },
          out := s.twin.frame 0x11 (le 4 ((1024 + s.newestAll) % 2 ^ 32) ++ le 4 p.first) :: s.out } ∧
        t.reg Obj.joinState = 1 ∧ s.regsBut t [Obj.joinState])) ∧
    (∀ snap line : Nat, s.twinUp = true → s.role = .mate → s.mode = .pilot → s.mismatched = true →
      Completes (.joinPlan snap line) s (fun t => t = s)) ∧
    (∀ snap line : Nat, s.twinUp = true → s.role = .mate → s.mode = .pilot → s.mismatched = false → s.twin.join = none → Completes (.joinPlan snap line) s (fun t =>
      t = { s with regs := t.regs, twin := { s.twin with join := some { snapshot := snap, line := line, joining := true }, modeAt := none } } ∧
        t.reg Obj.joinState = 1 ∧ s.regsBut t [Obj.joinState])) ∧
    (∀ (snap line : Nat) (j : Join), s.twinUp = true → s.role = .mate → s.mode = .pilot → s.mismatched = false → s.twin.join = some j →
      Completes (.joinPlan snap line) s (fun t => t.mode = .pilot ∧ t.role = .mate ∧ t.pins = s.pins ∧
        ∃ x, t.twin.join = some x ∧ x.line = line ∧ x.snapshot = j.snapshot ∧ x.retries = j.retries + 1)) ∧
    (∀ j : Join, s.twin.join = some j → j.joining = false → j.sent = false → (∀ g ∈ s.liveGroups, 0 ≤ dist32 (s.passedTo g) j.snapshot) →
      (∀ g ∈ s.liveGroups, ∀ k ∈ s.liveStrips g, (Table.find j.images k).isSome = true) → Completes .joinSnapshot s (fun t => t = { s with regs := t.regs, twin := { s.twin with join := some { j with sent := true } }, out := t.out } ∧
        t.reg Obj.joinState = 2 ∧ s.regsBut t [Obj.joinState] ∧ (s.twinUp = true → s.strapped ≠ .solo →
          s.twin.frame 0x13 (le 4 (s.reg Obj.healthGen) ++ healthBytes s.health.active) ∈ t.out ∧ ∀ x ∈ j.images, s.twin.frame 0x12 (le 4 x.1 ++ x.2) ∈ t.out))) ∧
    (∀ (j : Join) (images : List (Nat × List Byte)) (gen : Nat) (map : List (Nat × Nat)), s.twin.join = some j → j.joining = true → s.mode = .pilot →
      Completes (.joinImage images gen map) s (fun t => t.mode = .pilot ∧ t.raster.pages = [] ∧ t.slots = [] ∧ t.reg Obj.healthGen = gen ∧
        t.reg Obj.joinState = 2 ∧ t.health.active = t.health.pending ∧ t.health.swap = none ∧
        t.health.active = map.foldl (fun t x => Table.put 0 t (x.1 % 2 ^ 18) (x.2 % 16)) [] ∧ ∃ x, t.twin.join = some x ∧ x.line = j.line ∧ x.ready = false)) ∧
    (∀ (j : Join) (l : List (Nat × Nat)), s.twin.join = some j → j.joining = true → (l.map Prod.fst).Nodup → Completes (.joinCounters l) s (fun t =>
      t = { s with regs := t.regs } ∧ (∀ k v, (k, v) ∈ l → k ∈ joinKeys → t.reg k = v % 2 ^ Dict.width k) ∧ s.regsBut t joinKeys)) ∧
    (∀ j : Join, s.twin.join = some j → j.joining = false → (∃ g ∈ s.liveGroups, dist32 (s.passedTo g) j.line < 0) →
      Completes .joinReady s (fun t => t = { s with twin := { s.twin with join := some { j with ready := true } } })) ∧
    (∀ j : Join, s.twin.join = some j → j.joining = false → (∀ g ∈ s.liveGroups, 0 ≤ dist32 (s.passedTo g) j.line) → s.twin.sendQueue = [] →
      Completes .joinReady s (fun t => t = { s with regs := t.regs, twin := { s.twin with join := none }, out := t.out } ∧ t.reg Obj.joinState = 3 ∧
        (s.twinUp = true → s.strapped ≠ .solo → s.role = .primary → t.out.head? = some (s.twin.frame 0x06 (le 1 4 ++ zeros 3 ++ le 4 j.line))))) ∧
    (∀ j : Join, s.twin.join = some j → j.ready = false → 4 ≤ j.retries → Completes .joinRetry s (fun t =>
      t = { s with regs := t.regs, twin := { s.twin with join := none, modeAt := none } } ∧ t.reg Obj.joinState = 4)) ∧
    (∀ (j : Join) (p : Page), s.twin.join = some j → j.ready = false → j.retries < 4 → j.joining = false → s.pageFrom ((j.line + 1) % 2 ^ 32) = some p →
      Completes .joinRetry s (fun t => t = { s with
          regs := t.regs, twin := { s.twin with join := some { j with line := p.first, retries := j.retries + 1 } }, out := t.out } ∧ t.reg Obj.joinRetries = countValue Obj.joinRetries (s.reg Obj.joinRetries) 1)) ∧
    (∀ j : Join, s.twin.join = some j → j.joining = true → s.twin.modeAt = some (4, j.line) → s.mode = .pilot → s.hasCause = false →
      Completes .joinEnterLit s (fun t => t.mode = .lit ∧ t.role = s.role ∧
        t.pins.fireEn = (if s.blockUp Block.taper then .high else .low) ∧ t.twin.join = none ∧ t.reg Obj.joinState = 3))

/-- A frame of the next enabled context begins with the settings committed before this REF cycle; each trigger is one TRIG pulse, with an
exposure window where the frame is lit and no window is open; a line's words become pixels by PIXEL_MODE and the line is taken with its
length made right and flagged, one beyond the frame's lines is flagged, and one that breaks a limit raises PROTOCOL and makes the port
ignore data until FVAL falls; at its end a frame is counted, with one fault for each of its five fault flags, and missing lines or a
breach make it short; at the timeout a frame whose FVAL never rose is counted as missing and one whose FVAL rose as short; a UART names
its camera, sends between frames and takes at most 256 bytes. -/
def Obligations.CameraFramesAndLines : Prop :=
  ∀ (s : State) (p : Fin 2),
    (∀ c : Nat, s.blockUp Block.lantern = true → s.mode.working = true → (s.reg Obj.portEnable).testBit p = true → s.frame p = none →
      s.uartIdle p = true → s.nextCam p = some c → Completes (.cameraFrameStart p) s (fun t => t.mode = s.mode ∧ t.out.head? = some (.camSel p (c % 4)) ∧
        ∃ f, t.frame p = some f ∧ f.ctx = c ∧ f.set = (s.commitNow c).set ∧ f.gen = (s.commitNow c).gen ∧ f.sof = s.nowNs ∧ f.derate = s.derate ∧
          f.trigs = [] ∧ f.lines = 0 ∧ t.reg (Obj.genInUse c) = (s.commitNow c).gen ∧ (s.led.hot = true ∨ s.blockUp Block.led = false → f.lit = false))) ∧
    (∀ f : Frame, s.frame p = some f → f.trigs.length < f.set.lines → Completes (.cameraTrigger p) s (fun t => t = { s with lantern := t.lantern, out := t.out, led := t.led } ∧
        t.frame p = some { f with trigs := f.trigs ++ [s.nowNs] } ∧
        if f.lit = true ∧ s.blockUp Block.led = true ∧ s.windowOpen = false then
          t.out = .led f.ctx (slotPs f.set.exposure) (1000 * s.reg Obj.ledBlank) (s.onTimes f.set f.derate) :: .camTrig p f.set.exposure :: s.out ∧
          ∃ w, t.led = { s.led with window := some w } ∧ w.ctx = f.ctx ∧ w.start = s.nowPs ∧ w.slot = slotPs f.set.exposure ∧
            w.blank = 1000 * s.reg Obj.ledBlank ∧ w.ons = s.onTimes f.set f.derate
        else t.out = .camTrig p f.set.exposure :: s.out ∧ t.led = s.led)) ∧
    (∀ line : CamLine, s.blockUp Block.lantern = true → (s.reg Obj.portEnable).testBit p = true → (p : Nat) ∉ s.lantern.deaf →
      (s.breaches p line = true → Completes (.cameraLine p line) s (fun t =>
        t = { s with regs := t.regs, lantern := t.lantern, flagged := t.flagged } ∧ (p : Nat) ∈ t.lantern.deaf ∧
        t.frame p = (s.frame p).map (fun f => { f with breached := true }) ∧
        t.reg Obj.lanternStatus = s.reg Obj.lanternStatus ||| 2 ^ (p : Nat) ∧ s.regsBut t [Obj.lanternStatus])) ∧
      (∀ f : Frame, s.breaches p line = false → s.frame p = some f → f.set.lines ≤ f.lines →
        Completes (.cameraLine p line) s (fun t => t = { s with lantern := t.lantern } ∧ t.frame p = some { f with flags := f.flags ||| 8 })) ∧
      (∀ f : Frame, s.breaches p line = false → s.frame p = some f → f.lines < f.set.lines →
        let len := s.reg (Obj.pixelsPerLine f.ctx)
        let px := s.pixelsOf p line.words
        Completes (.cameraLine p line) s (fun t => t.mode = s.mode ∧ t.pins = s.pins ∧ ∃ x, t.frame p = some x ∧ x.lines = f.lines + 1 ∧
          x.numV = f.numV + min px.length len ∧ x.padded = f.padded + (len - px.length) ∧
          x.flags = f.flags ||| (if px.length < len then 1 else if len < px.length then 2 else 0)))) ∧
    (∀ f : Frame, s.frame p = some f →
      let short := if f.lines < f.set.lines ∨ f.breached = true then 4 else 0
      let faults (flags : Nat) := ((List.range 5).filter (fun b => flags.testBit b)).length
      let counted (t : State) (flags : Nat) := t.mode = s.mode ∧ t.frame p = none ∧
        t.reg (Obj.frames f.ctx) = countValue (Obj.frames f.ctx) (s.reg (Obj.frames f.ctx)) 1 ∧
        t.reg (Obj.frameFaults f.ctx) = countValue (Obj.frameFaults f.ctx) (s.reg (Obj.frameFaults f.ctx)) (faults flags)
      Completes (.cameraFrameEnd p) s (fun t => counted t (f.flags ||| short) ∧ (p : Nat) ∉ t.lantern.deaf) ∧
      (f.set.lines ≤ f.trigs.length →
        Completes (.cameraFrameTimeout p false) s (fun t => counted t (f.flags ||| 16)) ∧
        Completes (.cameraFrameTimeout p true) s (fun t => counted t (f.flags ||| short)))) ∧
    (∀ b : List Byte, Table.get Uart.idle s.lantern.uarts p = .queued b → s.frame p = none → s.blockUp Block.lantern = true →
      Completes (.uartTransfer p) s (fun t => t = { s with lantern := t.lantern, out := .uart p (s.reg Obj.uartBaud) b :: .camSel p (s.reg Obj.uartContext % 4) :: s.out } ∧
        Table.get Uart.idle t.lantern.uarts p = .waiting ∧ Table.get 0 t.lantern.sel p = s.reg Obj.uartContext % 4)) ∧
    (∀ b : List Byte, Table.get Uart.idle s.lantern.uarts p = .waiting → Completes (.uartRxDone p b) s (fun t =>
      t = { s with lantern := t.lantern, doms := t.doms } ∧ t.dom Obj.uartRx = b.take 256 ∧ t.uartIdle p = true))

/-- A flush time makes a short chunk due; a chunk in hand that has room is coded, and stored as the channel's newest packet under the next
chunk number; with no room LEDGER keeps its records and counts the ones not yet counted, and TAP drops the rest of its frame and counts
it; a chunk that fails its check or does not shrink is counted, kept or not, but for one that LEDGER keeps; a chunk of a request whose
reads are served is stored in the buffer it named, and one that does not fit ends the request OUT_OF_SPACE. The next packet with credit
leaves once, for its credits; a grant adds credits; RESEND of a packet that was sent marks it and every later one sent to go again, and
so does the acknowledgement timeout for the oldest; ACK frees the packets sent before it; an entry with flags 0b11 has no effect. -/
def Obligations.UploadChannelsCodeAndSend : Prop :=
  (∀ (s : State) (ch : Fin 4), s.uploadUp = true →
    let c := s.chan ch
    let noted (t : State) (k : Coded) := (k = .raw345 → t.reg (Obj.noShrink ch) = countValue (Obj.noShrink ch) (s.reg (Obj.noShrink ch)) 1) ∧
      (k = .raw344 → t.reg (Obj.verifyFails ch) = countValue (Obj.verifyFails ch) (s.reg (Obj.verifyFails ch)) 1)
    (c.input ≠ [] → (ch : Nat) < 2 → Completes (.flushTimeExpiry ch) s (fun t => t = { s with chans := t.chans } ∧ t.chan ch = { c with flush := true })) ∧
    (∀ (n : Nat) (ends : Bool) (place : Nat), (ch : Nat) < 2 → s.chunkInHand ch = some (n, ends) →
      let k := s.code ch (c.input.take n)
      let tap := decide ((ch : Nat) = 1)
      let payload := uploadPayload ch (s.reg (Obj.nextChunkSeq ch)) 0 (tap && c.first) (tap && ends) k (c.input.take n)
      s.ringSpot ch (alignedLen payload.length) = some place →
      Completes (.chunkCompress ch) s (fun t => t.mode = s.mode ∧ (t.chan ch).input = c.input.drop n ∧
        t.reg (Obj.nextChunkSeq ch) = (s.reg (Obj.nextChunkSeq ch) + 1) % 2 ^ 32 ∧ noted t k ∧
        ∃ p, (t.chan ch).pkts = c.pkts ++ [p] ∧ p.q = s.reg (Obj.nextChunkSeq ch) ∧ p.payload = payload ∧ p.place = place ∧ p.sent = false)) ∧
    (∀ (n : Nat) (ends : Bool), (ch : Nat) < 2 → s.chunkInHand ch = some (n, ends) →
      let k := s.code ch (c.input.take n)
      let tap := decide ((ch : Nat) = 1)
      let payload := uploadPayload ch (s.reg (Obj.nextChunkSeq ch)) 0 (tap && c.first) (tap && ends) k (c.input.take n)
      s.ringSpot ch (alignedLen payload.length) = none →
      Completes (.chunkCompress ch) s (fun t => t.mode = s.mode ∧ t.dram = s.dram ∧ t.reg (Obj.nextChunkSeq ch) = s.reg (Obj.nextChunkSeq ch) ∧
        ((ch : Nat) = 0 → t = { s with regs := t.regs, chans := t.chans } ∧ s.regsBut t [Obj.drops ch] ∧
          t.chan ch = { c with held := max (c.input.length / 32) c.held } ∧
          t.reg (Obj.drops ch) = countValue (Obj.drops ch) (s.reg (Obj.drops ch)) (c.input.length / 32 - c.held)) ∧
        ((ch : Nat) = 1 → noted t k ∧ t.reg (Obj.drops ch) = countValue (Obj.drops ch) (s.reg (Obj.drops ch)) 1 ∧
          (c.ends = [] → t.chan ch = { c with input := [], flush := false, dropping := true }) ∧
          (∀ (e : Nat) (rest : List Nat), c.ends = e :: rest → (t.chan ch).input = c.input.drop e ∧ (t.chan ch).ends = rest.map (fun x => x - e) ∧
            (t.chan ch).dropping = false ∧ (t.chan ch).first = true ∧ (t.chan ch).sync = true)))) ∧
    (∀ r : UReq, 2 ≤ (ch : Nat) → c.req = some r → r.ended = none → r.taken < r.len → 1 ≤ s.reg Obj.chunkSize →
      ((ch : Nat) = 3 → s.memWaits (.upload 3) = false) →
      let n := min (s.reg Obj.chunkSize) (r.len - r.taken)
      let chunk := s.sourceBytes ch (r.src + r.taken) n s.ylogBytes
      let payload := uploadPayload ch (s.reg (Obj.nextChunkSeq ch)) r.tag (decide (r.taken = 0)) (decide (r.taken + n = r.len)) (s.code ch chunk) chunk
      (r.produced + alignedLen payload.length ≤ r.size → Completes (.chunkCompress ch) s (fun t => t.mode = s.mode ∧
        t.reg (Obj.nextChunkSeq ch) = (s.reg (Obj.nextChunkSeq ch) + 1) % 2 ^ 32 ∧ noted t (s.code ch chunk) ∧
        (∃ p, (t.chan ch).pkts = c.pkts ++ [p] ∧ p.q = s.reg (Obj.nextChunkSeq ch) ∧ p.payload = payload ∧ p.place = r.produced ∧ p.sent = false) ∧
        ∃ q, (t.chan ch).req = some q ∧ q.taken = r.taken + n ∧ q.tag = r.tag ∧ q.ended = (if r.taken + n = r.len then some 0 else none))) ∧
      (r.size < r.produced + alignedLen payload.length → c.pkts = [] → Completes (.chunkCompress ch) s (fun t =>
        t = { s with chans := t.chans, doms := t.doms, regs := t.regs, ylog := t.ylog, out := t.out, igrel := t.igrel, flagged := t.flagged } ∧
          noted t (s.code ch chunk) ∧ (t.chan ch).req = none ∧ t.dom Obj.uploadResult = r.bytes ch 1)))) ∧
  (∀ s : State,
    (∀ ch v : Nat, Completes (.uploadEntryDropped ch v) s (fun t => t = s)) ∧
    (s.uploadUp = true → s.rasterUp = true →
      (∀ (ch : Nat) (p : Pkt), s.nextSender = some (ch, p) → Completes .uploadPacketSend s (fun t => t.mode = s.mode ∧ t.out = rasterOut 4 0xFFFF p.payload :: s.out ∧
        (t.chan ch).credits = (s.chan ch).credits - p.cost ∧
        (t.chan ch).pkts = (s.chan ch).pkts.map (fun x => if x.q = p.q then { x with sent := true, resend := false } else x))) ∧
      (∀ ch v : Nat, ch < 4 → Completes (.uploadCreditGrant ch v) s (fun t => t = { s with chans := t.chans } ∧
        t.chan ch = { s.chan ch with credits := (s.chan ch).credits + v % 2 ^ 32 })) ∧
      (∀ ch v : Nat, ch < 4 → (∃ p ∈ (s.chan ch).pkts, p.sent = true ∧ p.q = v) → Completes (.uploadResend ch v) s (fun t =>
        t = { s with regs := t.regs, chans := t.chans } ∧ t.reg (Obj.upResends ch) = countValue (Obj.upResends ch) (s.reg (Obj.upResends ch)) 1 ∧
        s.regsBut t [Obj.upResends ch] ∧
        (t.chan ch).pkts = (s.chan ch).pkts.map (fun x => if x.sent && decide (0 ≤ dist32 x.q v) then { x with resend := true } else x))) ∧
      (∀ ch v : Nat, ch < 4 → Completes (.uploadAck ch v) s (fun t => t = { s with chans := t.chans, doms := t.doms } ∧
        (t.chan ch).pkts = (s.chan ch).pkts.filter (fun x => !(x.sent && decide (dist32 x.q v < 0))) ∧ (t.chan ch).credits = (s.chan ch).credits)) ∧
      (∀ (ch : Fin 4) (p : Pkt) (rest : List Pkt), (s.chan ch).pkts = p :: rest → p.sent = true → Completes (.ackTimeoutExpiry ch) s (fun t =>
        t = { s with regs := t.regs, chans := t.chans } ∧ t.reg (Obj.upResends ch) = countValue (Obj.upResends ch) (s.reg (Obj.upResends ch)) 1 ∧
        (t.chan ch).pkts = (p :: rest).map (fun x => if x.sent && decide (0 ≤ dist32 x.q p.q) then { x with resend := true } else x)))))

/-- A scan that completes leaves the register folded over its bytes, the result, and DONE, MATCH or MISMATCH, the last raised and logged;
one that has met an uncorrectable error leaves state 5; either way the next scan starts and asks for its reads, and no scan ends while
its reads wait. The scrubber's block that checks changes only unit 6, the place in the walk, the block in hand with its request, and at
the end of the walk the passes; one that fails is marked bad, counted, raised and logged; of one that has been freed or flushed the
result is discarded; in panic the scrubber checks nothing. -/
def Obligations.ScansAndTheScrubber : Prop :=
  ∀ s : State,
    (∀ (x : Scan) (rest : List Scan), s.check.queue = x :: rest → s.memWaits .scan = true → Completes .scanComplete s (fun t => t = s)) ∧
    (∀ (x : Scan) (rest : List Scan), s.check.queue = x :: rest → s.memWaits .scan = false → x.unit < 16 → (∀ y ∈ rest.head?, y.unit ≠ x.unit ∧ y.unit < 16) →
      let r := crcFinal (s.scanRegister x)
      (s.check.ecc = false → Completes .scanComplete s (fun t => t.mode = s.mode ∧ t.check = { s.check with queue := rest } ∧ t.reg Obj.scanQueued = rest.length ∧
        t.reg (Obj.running x.unit) = s.scanRegister x ∧ t.reg (Obj.result x.unit) = r ∧ t.reg (Obj.unitState x.unit) =
          (if x.flags.testBit 1 then (if r = x.expected then 3 else 4) else 2) ∧ (∀ y ∈ rest.head?, t.reg (Obj.unitState y.unit) = 1 ∧ t.dram = (s.askMem .scan false (creditsOf y.len)).dram) ∧ (rest = [] → t.dram = s.dram) ∧
        (x.flags.testBit 1 = true → r ≠ x.expected → (t.reg Obj.checkStatus).testBit 0 = true ∧
          s.logs t Ev.checkMismatch (le 1 x.unit ++ zeros 3 ++ le 4 r ++ le 4 x.expected)))) ∧
      (s.check.ecc = true → Completes .scanComplete s (fun t =>
        t = { s with regs := t.regs, check := { s.check with queue := rest, ecc := false }, freeCtr := t.freeCtr, dram := t.dram } ∧
        t.reg (Obj.unitState x.unit) = 5 ∧ t.reg Obj.scanQueued = rest.length ∧ ∀ y ∈ rest.head?, t.reg (Obj.unitState y.unit) = 1 ∧ t.dram = (s.askMem .scan false (creditsOf y.len)).dram))) ∧
    (∀ (k : Nat) (b : Blk) (left : List (Nat × Blk)) (asRead : List Byte), s.scrubs = true → s.scrubLeft = (k, b) :: left →
      s.check.hand = none ∨ s.check.hand = some (k, b.seq) →
      (s.panics = true → Completes (.scrubBlock asRead) s (fun t => t = s)) ∧
      (s.panics = false → s.memWaits .scrub = false →
      let c := crcFold false crcInit (crcPrefix k b.seq ++ asRead.take (asRead.length - 4))
      let u : State := { s with check := { s.check with scrub := some (k, b.seq) } }
      (field asRead (asRead.length - 4) 4 = crcFinal c → Completes (.scrubBlock asRead) s (fun t =>
        (u.scrubLeft = [] → t = { s with regs := t.regs, check := { s.check with scrub := none, hand := none, rests := false } } ∧
          t.reg Obj.scrubPasses = countValue Obj.scrubPasses (s.reg Obj.scrubPasses) 1) ∧
        (∀ y ∈ u.scrubLeft.head?, t = { s with
            regs := t.regs, check := { s.check with scrub := some (k, b.seq), hand := some (y.1, y.2.seq), rests := false },
            dram := (s.askMem .scrub false (creditsOf y.2.bytes.length)).dram } ∧ t.reg Obj.scrubPasses = s.reg Obj.scrubPasses) ∧
        t.reg (Obj.result 6) = crcFinal c ∧ s.regsBut t [Obj.running 6, Obj.result 6, Obj.scrubPasses])) ∧
      (field asRead (asRead.length - 4) 4 ≠ crcFinal c → Completes (.scrubBlock asRead) s (fun t => t.mode = s.mode ∧
        t.ring k = (s.ring k).map (fun x => if x.seq = b.seq then { x with bad := true } else x) ∧ (t.reg Obj.checkStatus).testBit 1 = true ∧
        t.reg Obj.scrubMismatches = countValue Obj.scrubMismatches (s.reg Obj.scrubMismatches) 1 ∧ s.logs t Ev.scrubBad (le 2 k ++ le 4 b.seq))))) ∧
    (∀ (k q : Nat) (asRead : List Byte), s.check.hand = some (k, q) → s.checkUp = true → s.panics = false → s.memWaits .scrub = false →
      (∀ x ∈ s.scrubWalk, x.1 = k → x.2.seq ≠ q) → Completes (.scrubBlock asRead) s (fun t =>
        t = { s with regs := t.regs, check := t.check, dram := t.dram } ∧ s.regsBut t [Obj.scrubPasses] ∧ t.check.hand ≠ some (k, q)))

/-- A correctable error, in a read or in a retry, is counted with its address and its line written back as corrected, unless overwritten,
and no more changes; an uncorrectable one is counted, logged, and taken at its source: a strip's block is bad, and more errors in a
second than UE_LIMIT, or one of the service core's, set the DRAM cause; an address outside the usable memory stops; panic rises with a
buffer short of PANIC_MARK and clears with none short of PANIC_MARK + 2,048; a refresh is issued; a change of set begins with leave and
panic clear for 10 µs, and at its end the new set is in use; a command slot issues a burst of the request that is next, in panic of an
RT request only, and else of the promoted and RT requests before all others; a request that has waited longer than its limit is
promoted, and none is in panic. The SECDED code itself is the model's choice (log entry 96). -/
def Obligations.DramErrorsPanicAndRefresh : Prop :=
  ∀ s : State, s.dramUp = true →
    (∀ (addr w : Nat) (check : Byte) (ow : Bool), addr < s.usable →
      let x := (secdedRead w check).getD 0
      (oneWrong w check = true → Completes (.dramCe addr w check ow) s (fun t => t = { s with
          regs := t.regs, flagged := t.flagged, dram := if ow then s.dram else (s.writeMem .correction (s.lineWith addr x)).dram } ∧
        t.reg Obj.ceCount = countValue Obj.ceCount (s.reg Obj.ceCount) 1 ∧ t.reg Obj.lastErrorAddr = addr ∧ (t.reg Obj.dramStatus).testBit 0 = true ∧
        s.regsBut t [Obj.ceCount, Obj.lastErrorAddr, Obj.dramStatus])) ∧
      (oneWrong w check = false → Completes (.dramCe addr w check ow) s (fun t => t = s))) ∧
    (∀ (addr w : Nat) (check : Byte) (ow : Bool), s.usable ≤ addr → exec (.dramCe addr w check ow) s = .fault (.noSuchAddress addr)) ∧
    (∀ (addr : Nat) (src : DramSource) (k b w : Nat) (check : Byte), s.usable ≤ addr → exec (.dramUe addr src k b w check) s = .fault (.noSuchAddress addr)) ∧
    (∀ (addr : Nat) (src : DramSource) (k b w x : Nat) (check : Byte), addr < s.usable → secdedRead w check = some x →
      Completes (.dramUe addr src k b w check) s (fun t => t = { s with
          regs := t.regs, flagged := t.flagged, dram := (s.writeMem .correction (s.lineWith addr x)).dram } ∧
        t.reg Obj.ceCount = countValue Obj.ceCount (s.reg Obj.ceCount) 1 ∧ t.reg Obj.lastErrorAddr = addr ∧ (t.reg Obj.dramStatus).testBit 0 = true)) ∧
    (∀ (addr : Nat) (src : DramSource) (k b w : Nat) (check : Byte), addr < s.usable → secdedRead w check = none →
      let recent := s.clock.cycles :: s.dram.ueAt.filter (fun t => decide (s.clock.cycles - t < cyclesPerSec))
      Completes (.dramUe addr src k b w check) s (fun t => t.mode = s.mode ∧ t.dram = { s.dram with ueAt := recent } ∧
        t.reg Obj.ueCount = countValue Obj.ueCount (s.reg Obj.ueCount) 1 ∧ t.reg Obj.lastErrorAddr = addr ∧ (t.reg Obj.dramStatus).testBit 1 = true ∧
        (src ≠ .scrub → s.logs t Ev.dramUe (le 8 addr ++ le 1 (sourceCode src) ++ le 2 (sourceStream src k))) ∧
        (src = .stripRead → t.ring k = (s.ring k).map (fun x => if x.seq = b then { x with bad := true, unread := true } else x)) ∧
        (src = .scan → t.check = { s.check with ecc := !s.check.queue.isEmpty }) ∧
        (s.configured = true → s.reg Obj.ueLimit < recent.length ∨ src = .serviceCore ∨ src = .twinResync →
          (t.reg Obj.snuffCause).testBit Cause.dram = true))) ∧
    (∀ (st : Fin 128) (held : Nat), s.mode = .lit → s.dram.panic = false → s.buffersShort (s.reg Obj.panicMark) st held = true →
      Completes (.rtPanicRaise st held) s (fun t =>
        t = { s with regs := t.regs, dram := { s.dram with panic := true }, flagged := t.flagged } ∧ t.reg Obj.panicCount = countValue Obj.panicCount (s.reg Obj.panicCount) 1 ∧
        (t.reg Obj.dramStatus).testBit 2 = true ∧ s.regsBut t [Obj.panicCount, Obj.dramStatus])) ∧
    (∀ held : List Nat, s.dram.panic = true →
      let short : Prop := ∃ k, k < 128 ∧ s.buffersShort (s.reg Obj.panicMark + 2048) k (held.getD k 0) = true
      (¬short → Completes (.rtPanicClear held) s (fun t => t = { s with dram := { s.dram with panic := false, clearAt := some s.clock.cycles } })) ∧
      (short → Completes (.rtPanicClear held) s (fun t => t = s))) ∧
    (∀ (code : Nat) (faster : Bool), Completes (.mr4Poll code faster) s (fun t => t.mode = s.mode ∧ t.dram = { s.dram with fast := faster } ∧
      t.reg Obj.mr4Rate = code % 256 ∧ (faster = true → (t.reg Obj.dramStatus).testBit 3 = true) ∧
      (faster = true → s.dram.fast = false ∨ s.reg Obj.mr4Rate ≠ code % 256 → s.logs t Ev.dramHot []) ∧
      (faster = false ∨ s.dram.fast = true ∧ s.reg Obj.mr4Rate = code % 256 → t.ylog = s.ylog))) ∧
    (∀ (c : Fin 4) (bank : Nat), Completes (.dramRefresh c bank) s (fun t =>
      t = { s with dram := { s.dram with refreshes := s.dram.refreshes + 1 }, out := .dramRefresh c bank :: s.out })) ∧
    (∀ x : Nat, s.dram.change = some (x, false) → s.hasLeave (setRequester x) = true → s.panics = false →
      (∀ at_, s.dram.clearAt = some at_ → at_ + 2000 ≤ s.clock.cycles) → Completes .dramFreqChange s (fun t =>
      t = { s with dram := { s.dram with change := some (x, true) }, wick := { s.wick with leave := s.wick.leave.erase (setRequester x) } })) ∧
    (∀ x : Nat, s.dram.change = some (x, true) → s.dram.litDue = false → s.dram.want = none → Completes .dramFreqChangeDone s (fun t =>
      t = { s with regs := t.regs, dram := { s.dram with change := none, setNow := x } } ∧ t.reg Obj.freqNow = s.rateOf x ∧
      t.reg Obj.freqChanges = countValue Obj.freqChanges (s.reg Obj.freqChanges) 1 ∧ s.regsBut t [Obj.freqNow, Obj.freqChanges])) ∧
    (s.dram.change = some (0, true) → s.dram.litDue = true → s.mode = .pilot → s.blockUp Block.taper = true → Completes .dramFreqChangeDone s (fun t =>
      t.mode = .lit ∧ t.pins.fireEn = .high ∧ t.dram.setNow = 0 ∧ t.dram.litDue = false)) ∧
    (∀ r : MemReq, s.selfRefresh = false → s.promoteAged.dram.next s.panics = some r → s.memSlot.out = .dramBurst r.who r.write :: s.out) ∧
    (∀ (r : MemReq) (panics : Bool), s.dram.next panics = some r → (panics = true → r.who.class = .rt ∧ r ∈ s.dram.urgent) ∧
      (panics = false → s.dram.urgent.head? = some r ∨ s.dram.urgent = [] ∧ r ∈ s.dram.waiting ∧
        ∀ x ∈ s.dram.waiting, (x.who.class = .inspect → r.who.class = .inspect) ∧
          (x.who.class = .host → r.who.class = .inspect ∨ r.who.class = .host))) ∧
    (∀ r ∈ s.dram.waiting, s.ageLimit r.who.class < s.clock.cycles - r.at_ →
      (s.panics = false → r ∈ s.promoteAged.dram.urgent ∧ r ∉ s.promoteAged.dram.waiting) ∧ (s.panics = true → s.promoteAged = s))

/-- A request whose pools are open, whose energies fit the pools and their peaks, and which every level covers with no waiting request
ahead, is granted: each pool named is charged and counts a grant, and the others keep their level. One not covered waits, or is deferred
where its requester does not wait; one that cannot fit, or names a closed pool, is refused and changes no level; set 0's is never
refused. Before each answer the lines that are ready are decided, in LIT. The first of the waiting requests is granted; one that waits
too long is refused unless it is covered; HEADROOM is each level over its window. -/
def Obligations.TheWickGivesLeave : Prop :=
  ∀ s : State, s.mode ≠ .dark → s.blockUp Block.wick = true →
    let u := s.linesFirst
    (s.mode ≠ .lit ∨ s.nextDecision = none → u = s) ∧
    (∀ r : WickReq,
      let fits : Prop := ∀ x ∈ r.pools, u.poolOpen x.1 = true ∧ (x.2 : Int) ≤ u.poolCap x.1 ∧ reqPeak r x.2 ≤ 1000000 * u.reg (Obj.peak x.1)
      (r.who ≠ .dramSet0 → r.who ≠ .maintPattern → fits → u.coverable r u.wick.nextId = true → Completes (.wickRequest r) s (fun t =>
        t = { u with regs := t.regs, wick := t.wick, flagged := t.flagged } ∧ t.wick.leave = u.wick.leave ++ [r.who] ∧ t.wick.queue = u.wick.queue ∧
        (∀ p e, (p, e) ∈ r.pools → t.poolLevel p = min (u.poolCap p) (u.poolLevel p - e) ∧
          t.reg (Obj.grants p) = countValue (Obj.grants p) (u.reg (Obj.grants p)) 1) ∧
        (∀ p, p < 3 → (∀ x ∈ r.pools, x.1 ≠ p) → t.poolLevel p = u.poolLevel p ∧ t.reg (Obj.grants p) = u.reg (Obj.grants p)))) ∧
      (r.who ≠ .dramSet0 → fits → u.coverable r u.wick.nextId = false → Completes (.wickRequest r) s (fun t =>
        t = { u with regs := t.regs, wick := t.wick } ∧ t.wick.leave = u.wick.leave ∧ (∀ p, t.poolLevel p = u.poolLevel p) ∧
        t.wick.queue = (if r.who.waits then u.wick.queue ++ [{ id := u.wick.nextId, req := r }] else u.wick.queue) ∧
        (∀ x ∈ r.pools, t.reg (Obj.defers x.1) = countValue (Obj.defers x.1) (u.reg (Obj.defers x.1)) 1))) ∧
      (r.who ≠ .dramSet0 → ¬fits → Completes (.wickRequest r) s (fun t => t.mode = s.mode ∧ t.wick = u.wick ∧
        (t.reg Obj.wickStatus).testBit 2 = true ∧
        (∀ x ∈ r.pools, t.reg (Obj.refusals x.1) = countValue (Obj.refusals x.1) (u.reg (Obj.refusals x.1)) 1))) ∧
      (r.who = .dramSet0 → Completes (.wickRequest r) s (fun t => t = { u with regs := t.regs, wick := t.wick, flagged := t.flagged } ∧
        t.wick.leave = u.wick.leave ++ [.dramSet0] ∧ t.wick.queue = u.wick.queue))) ∧
    (∀ w : WickWait, u.nextGrant = some w → w.req.who ≠ .maintPattern → Completes .wickDeferredGrant s (fun t =>
      t = { u with regs := t.regs, wick := t.wick, flagged := t.flagged } ∧ t.wick.leave = u.wick.leave ++ [w.req.who] ∧
      t.wick.queue = u.wick.queue.filter (fun x => decide (x.id ≠ w.id)))) ∧
    (∀ w : WickWait, s.wick.queue.find? (fun x => decide (x.id = w.id)) = some w →
      (u.coverable w.req w.id = true → w.req.who ≠ .maintPattern → Completes (.wickDeferTimeout w.id) s (fun t =>
        t = { u with regs := t.regs, wick := t.wick, flagged := t.flagged } ∧ t.wick.leave = u.wick.leave ++ [w.req.who] ∧
        t.wick.queue = u.wick.queue.filter (fun x => decide (x.id ≠ w.id)))) ∧
      (u.coverable w.req w.id = false → Completes (.wickDeferTimeout w.id) s (fun t => t.mode = s.mode ∧ t.wick.leave = u.wick.leave ∧
        t.wick.queue = u.wick.queue.filter (fun x => decide (x.id ≠ w.id)) ∧ (t.reg Obj.wickStatus).testBit 2 = true ∧
        (∀ x ∈ w.req.pools, t.reg (Obj.refusals x.1) = countValue (Obj.refusals x.1) (u.reg (Obj.refusals x.1)) 1)))) ∧
    Completes .headroomPublish s (fun t => t = { s with
        regs := t.regs, out := .headroom 2 (s.headroomNow 2) :: .headroom 1 (s.headroomNow 1) :: .headroom 0 (s.headroomNow 0) :: s.out } ∧
      t.reg (Obj.headroom 0) = s.headroomNow 0 ∧ t.reg (Obj.headroom 1) = s.headroomNow 1 ∧ t.reg (Obj.headroom 2) = s.headroomNow 2)

/-- After the samples of the same instant that come before it, a sample of a status, the headroom or another slot's output measures,
computes and counts, and its output is the computed one, or SAFE_OUT while the slot is tripped; a missing status is a stale sample, and
the third in a row trips the slot; an SPI source asks its port, where it takes its place behind the transaction in progress, and its
result is sampled as it arrives; a write that completes leaves its port with the slot's frame; an error too large for too long trips the
slot. The place of samples of one instant before one another is settled by Beacon's reading (log entry 109). -/
def Obligations.LoopsSampleAndAreSupervised : Prop :=
  ∀ s : State,
    (∀ i : Fin 48, s.loopRuns i = true → (s.loop i).ahead = false →
      let s0 := (s.earlierSlots i).foldl (fun s j => s.sampleSlot true j) s
      let sm := s0.setLoop i { s0.loop i with sampledAt := some s0.clock.cycles, ahead := false }
      let s1 := sm.startSample i
      let arg := s1.reg (Obj.sourceArg i)
      (s.earlierSlots i = [] → s0 = s) ∧
      (∀ raw : Nat, (s0.loop i).busy = false →
        (s1.reg (Obj.lpSource i) = 1 ∧ s1.statusRaw arg = some raw) ∨ (s1.reg (Obj.lpSource i) = 3 ∧ raw = bf24OfF32 (s1.reg (Obj.headroom arg))) ∨
          (s1.reg (Obj.lpSource i) = 4 ∧ raw = s1.reg (Obj.lpOutput arg)) →
        let y := s1.scaled i raw
        let r := s1.computeLoop i y
        Completes (.loopSample i) s (fun t => t.mode = s.mode ∧ t.reg (Obj.measured i) = y ∧ t.reg (Obj.lpError i) = r.e ∧ t.reg (Obj.integrator i) = r.integ ∧
          t.reg (Obj.lpOutput i) = (if t.tripped i ∨ s.mode = .snuff ∧ s1.reg (Obj.snuffMode i) = 1 then s1.reg (Obj.safeOut i) else r.o) ∧
          (t.loop i).busy = false ∧ (t.loop i).swaps = (s0.loop i).swaps.filter (fun c => decide (c = s0.clock.cycles)) ∧
          t.reg (Obj.samples i) = countValue (Obj.samples i) (s1.reg (Obj.samples i)) 1)) ∧
      ((s0.loop i).busy = false → s1.reg (Obj.lpSource i) = 1 → s1.statusRaw arg = none →
        ((s0.loop i).invalid < 2 → Completes (.loopSample i) s (fun t => t.mode = s.mode ∧ (t.loop i).invalid = (s0.loop i).invalid + 1 ∧
          t.reg (Obj.stale i) = countValue (Obj.stale i) (s1.reg (Obj.stale i)) 1 ∧ t.reg (Obj.lpOutput i) = s1.reg (Obj.lpOutput i))) ∧
        (2 ≤ (s0.loop i).invalid → s1.tripped i = false → Completes (.loopSample i) s (fun t => t.mode = s.mode ∧ t.tripped i = true ∧
          t.reg (Obj.lpOutput i) = s1.reg (Obj.safeOut i) ∧ s1.logs t Ev.loopTrip (le 1 i ++ le 1 3)))) ∧
      ((s0.loop i).busy = false → s1.reg (Obj.lpSource i) = 2 →
        let job : SpiJob := { slot := i, code := none, at_ := s1.clock.cycles }
        Completes (.loopSample i) s (fun t => t.mode = s.mode ∧ (t.loop i).busy = true ∧ t.reg (Obj.lpOutput i) = s1.reg (Obj.lpOutput i) ∧
          (Table.get [] s1.spi (arg % 4) = [] → Table.get [] t.spi (arg % 4) = [job] ∧ .spiSense (arg % 4) i (s1.senseFrame i) ∈ t.out) ∧
          (∀ h rest, Table.get [] s1.spi (arg % 4) = h :: rest → Table.get [] t.spi (arg % 4) = h :: queueJob job rest)))) ∧
    (∀ (p : Fin 4) (b at_ : Nat) (i : Fin 48) (rest : List SpiJob), Table.get [] s.spi p = { slot := i, code := none, at_ := at_ } :: rest → (s.loop i).busy = true →
      Completes (.spiSenseDone p b) s (fun t => t.mode = s.mode ∧ t.reg (Obj.measured i) = s.scaled i (s.adcRaw i b).1 ∧ (t.loop i).busy = false ∧
        t.reg (Obj.samples i) = countValue (Obj.samples i) (s.reg (Obj.samples i)) 1 ∧ ∀ j ∈ rest, j ∈ Table.get [] t.spi p)) ∧
    (∀ (p : Fin 4) (i c at_ : Nat) (rest : List SpiJob), Table.get [] s.spi p = { slot := i, code := some c, at_ := at_ } :: rest →
      Completes (.spiActuatorWrite p) s (fun t => t = { s with spi := t.spi, out := t.out } ∧ Table.get [] t.spi p = rest ∧
        .spiWrite p {
          mode := 3 * bits (s.reg (Obj.spiCfg i)) 0 0, sckDiv := bits (s.reg (Obj.spiCfg i)) 7 1, cycles := 32, cnv := none,
          mosi := 2 ^ 16 * bits (s.reg (Obj.actWord i)) 31 16 + c } ∈ t.out)) ∧
    (∀ i : Fin 48, s.loopRuns i = true → (s.loop i).armed = true → (s.loop i).overFollow = true → s.tripped i = false →
      Completes (.loopFollowTimeout i) s (fun t => t.mode = s.mode ∧ t.tripped i = true ∧ t.reg (Obj.lpOutput i) = s.reg (Obj.safeOut i) ∧
        s.logs t Ev.loopTrip (le 1 i ++ le 1 4) ∧
        (s.reg (Obj.supAction i) = 1 → s.configured = true → (t.reg Obj.snuffCause).testBit Cause.loop = true)))

/-- With leave a move begins, with its plan under the limits as they stand and any longer time charged; each tick of a move follows its
plan, and the last leaves the axis at rest exactly on its target, counted; a back-off ends homed; a tick of homing at speed moves by the
speed; an axis at rest stays. A trip ends a drive, one inside BLANK does not, and the off-time begins the next, with the comparator's
reference set for the sample; a sample at the end of blanking moves delta by one and the reference with it; three shorts in a row, and a
drive too long near full current, are faults that leave the axis at rest with its position lost. Stated for an axis with no gantry link
to it. -/
def Obligations.AxesMoveAndTheirChoppersRun : Prop :=
  ∀ (s : State) (a : Fin 4),
    let x := s.axis a
    (x.act = .asking → s.hasLeave (.stepper a) = true → Completes (.moveStart a) s (fun t =>
      let brake := s.brakeOf a x.goal
      let n := brake + s.planOf a x.goal
      let u : State := { s with wick := { s.wick with leave := s.wick.leave.erase (.stepper a) } }
      let v := if x.left < n then u.chargePool 2 (s.moveEnergy (s.movers a) (n - x.left)) else u
      t = { v with axes := t.axes } ∧ t.axis a = { x with act := .moving, charge := 0, left := n, brake := brake })) ∧
    (s.blockUp Block.motion = true → 2 ≤ (a : Nat) ∨ s.isSet Obj.gantryLink = false → x.follows = false →
      (x.act = .rest → Completes .motionTick s (fun t => t.mode = s.mode ∧ t.pins = s.pins ∧ t.axis a = { x with halted := false })) ∧
      (x.act = .moving → 1 < x.left → Completes .motionTick s (fun t => t.mode = s.mode ∧ t.pins = s.pins ∧
        t.axis a = { (s.advanced a).braked with left := x.left - 1, halted := false })) ∧
      (x.act = .moving → x.left ≤ 1 → -(2 ^ 31) ≤ x.goal → x.goal < 2 ^ 31 → Completes .motionTick s (fun t => t.mode = s.mode ∧ t.pins = s.pins ∧
        t.axis a = { x with pos := x.goal * microstep, vel := 0, acc := 0, left := 0, brake := 0, act := .rest, halted := false } ∧ t.sreg (Obj.axPosition a) = x.goal ∧
        t.reg (Obj.moves a) = countValue (Obj.moves a) (s.reg (Obj.moves a)) 1)) ∧
      (x.act = .backing → x.left ≤ 1 → Completes .motionTick s (fun t => t.mode = s.mode ∧ (t.axis a).act = .rest ∧ (t.axis a).lost = false ∧
        (t.axis a).pos = x.goal * microstep ∧ (t.reg (Obj.axisStatus a)).testBit 0 = true)) ∧
      (x.act = .seeking → x.left = 0 → ((x.travel + x.vel.natAbs : Nat) : Int) - x.stepAt < 256 * microstep →
        ((x.travel + x.vel.natAbs : Nat) : Int) < (s.reg (Obj.homeMaxTravel a) : Int) * microstep →
        Completes .motionTick s (fun t => t.mode = s.mode ∧ t.axis a = { x with pos := x.pos + x.vel, travel := x.travel + x.vel.natAbs, halted := false }))) ∧
    (∀ ph : Phase, s.chopping a = true → (x.chop ph).driving = true →
      (∀ ns : Nat, s.reg (Obj.axBlank a) ≤ ns → Completes (.chopperTrip a ph ns) s (fun t => t = { s with axes := t.axes, out := .gates a ph false (s.deadNs a) :: s.out } ∧
        ((t.axis a).chop ph) = { x.chop ph with driving := false } ∧ (t.axis a).act = x.act ∧ (t.axis a).pos = x.pos)) ∧
      (∀ ns : Nat, ns < s.reg (Obj.axBlank a) → Completes (.chopperTrip a ph ns) s (fun t => t = s)) ∧
      (∀ d : Nat, d = min 63 ((x.chop ph).delta + 1) →
        Completes (.chopperBlankExpiry a ph false) s (fun t => t = { s with axes := t.axes, out := .comparator a ph (s.targetCode a ph + d) :: s.out } ∧
          ((t.axis a).chop ph) = { x.chop ph with delta := d, shorts := 0 })) ∧
      (∀ d : Nat, d = (x.chop ph).delta - 1 →
        2 ^ 64 * s.reg (Obj.runCurrent a) ≤ 2 * s.phaseTarget a ph → Completes (.chopperBlankExpiry a ph true) s (fun t =>
          t = { s with axes := t.axes, out := .comparator a ph (s.targetCode a ph + d) :: s.out } ∧ ((t.axis a).chop ph) = { x.chop ph with delta := d, shorts := 0 })) ∧
      (2 * s.phaseTarget a ph < 2 ^ 64 * s.reg (Obj.runCurrent a) → 2 ≤ (x.chop ph).shorts → Completes (.chopperBlankExpiry a ph true) s (fun t =>
        t.mode = s.mode ∧ t.axFault a = true ∧ (t.axis a).act = .rest ∧ (t.axis a).lost = true ∧ s.logs t Ev.axisFault (le 1 a ++ le 1 1))) ∧
      (2 ^ 64 * s.reg (Obj.runCurrent a) ≤ 4 * s.phaseTarget a ph → Completes (.phaseOpenTimeout a ph) s (fun t =>
        t.mode = s.mode ∧ t.axFault a = true ∧ (t.axis a).act = .rest ∧ (t.axis a).lost = true ∧ s.logs t Ev.axisFault (le 1 a ++ le 1 2)))) ∧
    (∀ ph : Phase, s.chopping a = true → (x.chop ph).driving = false → Completes (.chopperToffExpiry a ph) s (fun t =>
      t = { s with axes := t.axes, out := .comparator a ph (s.targetCode a ph - (x.chop ph).delta) :: .gates a ph true (s.deadNs a) :: s.out } ∧ ((t.axis a).chop ph) = { x.chop ph with driving := true }))

/-- The grandmaster sends numbered Syncs and Announces to the group, events to port 319 and the rest to 320; a stamp is Beacon's reading,
and one of the REF cycle of a step is discarded with the Follow_Up that needs it; Follow_Up and Delay_Resp carry a stamp moved by the
PHY latency, to within 150 ns; more than 512 requests in a second are dropped and counted; a foreign Announce is counted, and logged
unless one was in the 10 s before. -/
def Obligations.TheGrandmasterServesTime : Prop :=
  ∀ s : State,
    (s.ptpMaster = true → Completes .ptpSyncSend s (fun t => t = { s with
        regs := t.regs, ptp := { s.ptp with syncSeq := (s.ptp.syncSeq + 1) % 2 ^ 16, syncOut := some s.ptp.syncSeq },
        out := .ptp {
          msg := 0, domain := s.reg Obj.ptpDomain, seq := s.ptp.syncSeq, dst := 0xE0000181, port := 319, twoStep := true, correction := 0,
          interval := s.reg Obj.logSyncInterval, body := [] } :: s.out } ∧
      t.reg Obj.syncSent = countValue Obj.syncSent (s.reg Obj.syncSent) 1 ∧ s.regsBut t [Obj.syncSent])) ∧
    (∀ (tx : Bool) (msg : Nat), s.blockUp Block.ethMac = true → s.blockUp Block.beacon = true → s.configured = true →
      (s.ptp.stepAt ≠ some s.clock.cycles → Completes (.ptpTimestampVector tx msg) s (fun t =>
        t = { s with ptp := { s.ptp with stamps := s.ptp.stamps ++ [{ tx := tx, msg := msg, time := s.nowNs }] } })) ∧
      (s.ptp.stepAt = some s.clock.cycles → Completes (.ptpTimestampVector tx msg) s (fun t => t = { s with ptp := { s.ptp with syncOut := t.ptp.syncOut } } ∧
        t.ptp.syncOut = if tx = true ∧ s.ptp.syncOut = some msg then none else s.ptp.syncOut))) ∧
    (∀ (n : Nat) (x : Stamp), s.ptp.syncOut = some n → s.ptp.stamps.find? (fun x => x.tx = true && x.msg = n) = some x →
      Completes .ptpFollowUp s (fun t => t.ptp = { s.ptp with stamps := s.ptp.stamps.erase x, syncOut := none } ∧ ∃ v : Nat,
        ((v : Int) - (x.time + s.reg Obj.phyTxLatency)).natAbs ≤ 150 ∧ t.reg Obj.lastSyncTx = time80OfNs v ∧
        t = { s with
        regs := t.regs, ptp := t.ptp, freeCtr := t.freeCtr,
        out := .ptp {
          msg := 8, domain := s.reg Obj.ptpDomain, seq := n, dst := 0xE0000181, port := 320, twoStep := false, correction := 0,
          interval := s.reg Obj.logSyncInterval, body := ptpTime v } :: s.out })) ∧
    (s.ptpMaster = true → Completes .ptpAnnounceSend s (fun t => t = { s with
      ptp := { s.ptp with announceSeq := (s.ptp.announceSeq + 1) % 2 ^ 16 },
        out := .ptp {
          msg := 11, domain := s.reg Obj.ptpDomain, seq := s.ptp.announceSeq, dst := 0xE0000181, port := 320, twoStep := false, correction := 0,
          interval := s.reg Obj.logAnnounceInterval, body := s.announceBody } :: s.out })) ∧
    (∀ (identity seq : Nat), s.ptpMaster = true →
      let recent := s.ptp.reqTimes.filter (fun t => decide (s.clock.cycles - t < cyclesPerSec))
      (512 ≤ recent.length → Completes (.ptpDelayReq (s.reg Obj.ptpDomain) identity seq) s (fun t => t = { s with regs := t.regs, flagged := t.flagged } ∧
        t.reg Obj.delayReqDropped = countValue Obj.delayReqDropped (s.reg Obj.delayReqDropped) 1 ∧ (t.reg Obj.ptpStatus).testBit 1 = true)) ∧
      (∀ x : Stamp, recent.length < 512 → s.ptp.stamps.find? (fun x => x.tx = false && x.msg = seq) = some x →
        Completes (.ptpDelayReq (s.reg Obj.ptpDomain) identity seq) s (fun t => ∃ v : Nat,
          ((v : Int) - (x.time + s.reg Obj.phyRxLatency)).natAbs ≤ 150 ∧
          t.reg Obj.delayRespSent = countValue Obj.delayRespSent (s.reg Obj.delayRespSent) 1 ∧ t = { s with
            regs := t.regs, ptp := { s.ptp with reqTimes := s.clock.cycles :: recent, stamps := s.ptp.stamps.erase x }, freeCtr := t.freeCtr,
            out := .ptp {
          msg := 9, domain := s.reg Obj.ptpDomain, seq := seq, dst := 0xE0000181, port := 320, twoStep := false, correction := 0,
          interval := s.reg Obj.logMinDelayReq, body := ptpTime v ++ be 10 identity } :: s.out }))) ∧
    (∀ identity : Nat, s.blockUp Block.ethMac = true → s.configured = true → identity ≠ ptpIdentity → Completes (.ptpForeignAnnounce identity) s (fun t =>
      t.mode = s.mode ∧ t.reg Obj.foreignAnnounce = countValue Obj.foreignAnnounce (s.reg Obj.foreignAnnounce) 1 ∧
      (t.reg Obj.ptpStatus).testBit 0 = true ∧
      (s.ptp.foreignAt = none → t.ptp = { s.ptp with foreignAt := some s.clock.cycles } ∧ s.logs t Ev.ptpForeign []) ∧
      (∀ at_, s.ptp.foreignAt = some at_ → s.clock.cycles - at_ < 10 * cyclesPerSec → t.ptp = s.ptp ∧ t.ylog = s.ylog)))

/-- With both runs within the limits and the tolerance, the temperature, FSI, termination and chopper items pass and leave their values, and
after the termination the links that are not held train; a run of the temperature item outside them ends KINDLE in SNUFF; an equaliser
that agrees is recorded for its unit; the LED test drives each pin in turn in both runs, passes where no pin is short or stuck, leaves
the LED block held where one is, and ends KINDLE where its two maps differ; DRAM training passes with set 0 in use; the ECC fill leaves
memory all zeros. -/
def Obligations.KindleItemsPassOrFail : Prop :=
  ∀ s : State,
    (∀ a b : List Int, s.itemDue 0 [] = true → a.length = 4 → b.length = 4 →
      let good := (∀ v ∈ a ++ b, -2560 ≤ v ∧ v ≤ 8000) ∧ ∀ x ∈ List.zip a b, (x.1 - x.2).natAbs ≤ 4 * s.reg Obj.tempTol
      (good → Completes (.calTemperature a b) s (fun t => t = { s with regs := t.regs, doms := t.doms } ∧ t.calItem 0 = 1 ∧
        t.dom Obj.tempKindle = b.flatMap (fun v => le 2 (ofSigned 16 v)) ∧ s.regsBut t [Obj.calResult])) ∧
      (¬good → Completes (.calTemperature a b) s (fun t => t.mode = .snuff ∧ t.pins.fireEn ≠ .high ∧ t.fuses = s.fuses))) ∧
    (∀ a b : List Nat, s.itemDue 1 [0] = true → a.length = 4 → b.length = 4 → (∀ v ∈ a ++ b, 256 ≤ v) →
      (∀ x ∈ List.zip a b, ((x.1 : Int) - x.2).natAbs ≤ s.reg Obj.fsiTol) → Completes (.calFsi a b) s (fun t => t = { s with regs := t.regs } ∧
        t.calItem 1 = 1 ∧ t.reg Obj.fsiKindle = min (lowest a) (lowest b) % 2 ^ 16 ∧ (s.strapped = .mate → t.calItem 5 = 3 ∧ t.calItem 6 = 3))) ∧
    (∀ l : List (Nat × Nat × Nat), s.itemDue 2 [] = true → (∀ x ∈ l, s.unitFitted x.1 = true → 0 < x.2.1 ∧ x.2.1 < 63 ∧ 0 < x.2.2 ∧ x.2.2 < 63 ∧
        ((x.2.1 : Int) - x.2.2).natAbs ≤ s.reg Obj.termTol) → Completes (.calTermination l) s (fun t =>
          t = { s with regs := t.regs, heads := t.heads, out := t.out } ∧ t.calItem 2 = 1 ∧
          (clearMask 0x1FFFF (s.reg Obj.blockReset) = 0 → s.regsBut t [Obj.calResult] ∧ t.heads = s.heads ∧ t.out = s.out) ∧
          ((s.reg Obj.blockReset).testBit Block.raster = false → t.reg Obj.linkState = 1 ∧ .train .raster 0 (linkTrain 0) ∈ t.out ∧
            .train .raster 1 (linkTrain 1) ∈ t.out))) ∧
    (∀ unit key s1 s2 : Nat, ctleObj unit = some key → s.cal.running = true → s.unitFitted unit = true → s.calItem 3 = 0 →
      ((s1 : Int) - s2).natAbs ≤ s.reg Obj.ctleTol → Completes (.calEqualiser unit s1 s2) s (fun t => t = { s with regs := t.regs, cal := t.cal } ∧
        t.reg key = s2 % 256 ∧ s.regsBut t [key] ∧ unit ∈ t.cal.equalised)) ∧
    (∀ a b : List Nat, s.itemDue 5 [1] = true → a.length = 8 → b.length = 8 → (∀ v ∈ a ++ b, v ≤ 64) →
      (∀ x ∈ List.zip a b, ((x.1 : Int) - x.2).natAbs ≤ s.reg Obj.cmpTol) → Completes (.calChopper a b) s (fun t => t = { s with regs := t.regs } ∧
        t.calItem 5 = 1 ∧ ∀ k, k < 4 → t.reg (Obj.cmpCal k) = b.getD (2 * k) 0 + 2 ^ 16 * b.getD (2 * k + 1) 0)) ∧
    (∀ a b : LedReads, s.itemDue 6 [5] = true →
      let m := shortMap b
      (shortMap a = m → m = 0 → Completes (.ledShortTest a b) s (fun t => t = { s with
        regs := t.regs, out := ((ledPins ++ ledPins).map Out.ledPin).reverse ++ s.out } ∧ t.calItem 6 = 1 ∧ t.reg Obj.shortMap = 0 ∧ t.reg Obj.ledTest = 1)) ∧
      (shortMap a = m → m ≠ 0 → Completes (.ledShortTest a b) s (fun t => t.mode = s.mode ∧ t.calItem 6 = 1 ∧
        t.reg Obj.shortMap = m ∧ t.reg Obj.ledTest = 2 ∧ t.led.faulty = true ∧ (t.reg Obj.blockReset).testBit Block.led = true)) ∧
      (shortMap a ≠ m → Completes (.ledShortTest a b) s (fun t => t.mode = .snuff ∧ t.pins.fireEn ≠ .high))) ∧
    (∀ l : List Sweep, s.itemDue 4 [6] = true → s.hasLeave .dramTraining = true → sweepsComplete l = true → trainFault (s.reg Obj.dramTol) l = none →
      Completes (.dramTraining l) s (fun t => t.mode = s.mode ∧ t.calItem 4 = 1 ∧ t.dram = { s.dram with setNow := 0, trained := true } ∧ t.reg Obj.freqNow = s.rateOf 0 ∧
        t.dom Obj.trainResult = trainBytes l ∧ t.wick = { s.wick with leave := s.wick.leave.erase .dramTraining })) ∧
    (s.cal.running = true → s.calItem 4 = 1 → Completes .eccFill s (fun t =>
      t = { s with dram := { s.dram with mem := [], ecc := [], filled := true }, cal := { s.cal with eccDone := true } }))

/-- At a sample instant of a slot that samples, with its previous sample not yet complete, no sample is taken: OVERRUNS counts one, and
beyond what the samples of the same instant before it do, nothing else changes but the note of the instant. -/
def Obligations.OverrunTakesNoSample : Prop :=
  ∀ (s : State) (i : Fin 48), s.loopRuns i = true → (s.loop i).ahead = false →
    let u := (s.earlierSlots i).foldl (fun s j => s.sampleSlot true j) s
    (s.earlierSlots i = [] → u = s) ∧
    ((u.loop i).busy = true → Completes (.loopSample i) s (fun t =>
      t = { u with regs := t.regs, loops := t.loops } ∧ t.reg (Obj.overruns i) = countValue (Obj.overruns i) (u.reg (Obj.overruns i)) 1 ∧
      u.regsBut t [Obj.overruns i] ∧ t.loop i = { u.loop i with sampledAt := some u.clock.cycles, ahead := false } ∧
      ∀ j, j ≠ i → t.loop j = u.loop j))

/-- While the Yilloger is frozen, an event that would be logged, with no event of a higher code before it in its REF cycle (one with such an
event goes before it, R469), leaves its entries and its index as they are and counts one in MISSED, and every open session is still sent
the event as an EVENT message. -/
def Obligations.FrozenYilloggerStoresNothing : Prop :=
  ∀ (s : State) (code : Nat) (detail : List Byte), s.reg Obj.ylogState = 2 → (∀ x ∈ s.ylog.batch, x.code ≤ code) →
    let t := s.logEvent code detail
    t.ylog.entries = s.ylog.entries ∧ t.ylog.post = s.ylog.post ∧ t.reg Obj.ylogState = 2 ∧ t.reg Obj.ylogNext = s.reg Obj.ylogNext ∧ t.reg Obj.missed = countValue Obj.missed (s.reg Obj.missed) 1 ∧ s.regsBut t [Obj.missed] ∧
    ∀ x ∈ s.igrel.sessions, x.reserved = false → s.session x.id = some x →
      ∃ n, .igrel x.src 0x32 x.id 0 n (le 2 code ++ le 10 s.now ++ (padTo 12 detail).take 8) (some x.key) ∈ t.out

/-- With Beacon in its ranges and released, and REF_CLK running, one REF cycle leaves Beacon in its ranges, at the time before plus 5 ns
plus RATE_TRIM × 2^-24 ns, modulo 2^48 seconds; where the nanoseconds reach 10^9 they lose 10^9 and the seconds gain one, modulo 2^48. -/
def Obligations.BeaconCountsEveryRefCycle : Prop :=
  ∀ s : State, s.clock.refOn = true → s.blockUp Block.beacon = true → s.clock.beacon.normal = true → -(2 ^ 15) ≤ s.sreg Obj.rateTrim →
    s.sreg Obj.rateTrim < 2 ^ 15 →
    let b := s.clock.beacon
    let c := s.cycle.clock.beacon
    let sum : Int := (b.ns : Int) * 2 ^ 24 + b.frac + 5 * 2 ^ 24 + s.sreg Obj.rateTrim
    c.normal = true ∧
      (((c.sec * 10 ^ 9 + c.ns) * 2 ^ 24 + c.frac : Nat) : Int) =
        ((((b.sec * 10 ^ 9 + b.ns) * 2 ^ 24 + b.frac : Nat) : Int) + 5 * 2 ^ 24 + s.sreg Obj.rateTrim) % (2 ^ 48 * 10 ^ 9 * 2 ^ 24) ∧
      (sum < 10 ^ 9 * 2 ^ 24 → c.sec = b.sec ∧ ((c.ns * 2 ^ 24 + c.frac : Nat) : Int) = sum) ∧
      (10 ^ 9 * 2 ^ 24 ≤ sum → c.sec = (b.sec + 1) % 2 ^ 48 ∧ ((c.ns * 2 ^ 24 + c.frac : Nat) : Int) = sum - 10 ^ 9 * 2 ^ 24)

/-- Whatever they do, the commands of one unit leave every other unit's state as it was: mode, role, straps, fuses, non-volatile memory,
reset state and every field not named here. -/
def Obligations.UnitCommandsKeepToTheirUnits : Prop :=
  ∀ s : State,
    (∀ (n : Nat) (lb : List Byte) (q : Bool) (lq : List Bool) (e : List Nat) (ch : List (List Sym)), ∀ c ∈ ([
        .block n lb, .creditPeriodExpiry, .rasterPacketDrop e ch, .rasterLinkUp lq q] : List Instr), ∀ t, exec c s = .next t →
      t = { s with
        regs := t.regs, raster := t.raster, decomp := t.decomp, twin := t.twin, dram := t.dram, out := t.out, freeCtr := t.freeCtr }) ∧
    (∀ (f8 : Fin 8) (f160 : Fin 160), ∀ c ∈ ([
        .decodeLine f8, .contextRewind f160] : List Instr), ∀ t, exec c s = .next t →
      t = { s with
        regs := t.regs, igrel := t.igrel, raster := t.raster, decomp := t.decomp, slots := t.slots, twin := t.twin, dram := t.dram,
        ylog := t.ylog, out := t.out, flagged := t.flagged }) ∧
    (∀ (f128 : Fin 128), ∀ c ∈ ([
        .stripCorrect f128, .wickLineDecision, .lineFrameSend f128, .healthSwap] : List Instr), ∀ t, exec c s = .next t →
      t = { s with
        regs := t.regs, igrel := t.igrel, slots := t.slots, health := t.health, taper := t.taper, wick := t.wick, ylog := t.ylog,
        out := t.out, flagged := t.flagged }) ∧
    (∀ (f8 : Fin 8), ∀ c ∈ ([
        .armingStart, .lineArm f8, .strobeEdge f8] : List Instr), ∀ t, exec c s = .next t →
      t = { s with
        regs := t.regs, pins := t.pins, igrel := t.igrel, raster := t.raster, decomp := t.decomp, slots := t.slots,
        health := t.health, taper := t.taper, twin := t.twin, chans := t.chans, dram := t.dram, wick := t.wick, ylog := t.ylog,
        out := t.out, flagged := t.flagged, freeCtr := t.freeCtr }) ∧
    (∀ (f8 : Fin 8) (q : Bool), ∀ c ∈ ([
        .strobeEnd f8, .strobeCut f8, .snufferEscalate f8 q] : List Instr), ∀ t, exec c s = .next t →
      t = { s with
        regs := t.regs, pins := t.pins, igrel := t.igrel, taper := t.taper, ylog := t.ylog, out := t.out, flagged := t.flagged }) ∧
    (∀ (f32 : Fin 32) (n : Nat) (q : Bool), ∀ c ∈ ([
        .headTrainReply f32 n q, .headLaneRetrain f32, .recoverTimeExpiry f32, .timeFrameSend] : List Instr), ∀ t, exec c s = .next t →
      t = { s with
        regs := t.regs, igrel := t.igrel, heads := t.heads, wick := t.wick, ylog := t.ylog, out := t.out, flagged := t.flagged,
        freeCtr := t.freeCtr }) ∧
    (∀ (q q1 q2 : Bool) (f2 : Fin 2) (n n1 n2 : Nat) (f8 : Fin 8) (o : WickOut) (ln : List Nat) (lnxn : List (Nat × Nat)), ∀ c ∈ ([
        .twinLinkUp q q1 q2, .twinLaneLoss f2 n, .twinFrameDrop ln, .heartbeatSend, .heartbeatTimeout, .decision n f8 o,
        .lineStateSend, .swapMessage n n1, .promoted ln, .joinReq n n1 n2, .joinSnapshot, .joinReady, .joinCounters lnxn,
        .joinRetry] : List Instr), ∀ t, exec c s = .next t →
      t = { s with
        regs := t.regs, igrel := t.igrel, taper := t.taper, twin := t.twin, ylog := t.ylog, out := t.out, flagged := t.flagged,
        freeCtr := t.freeCtr }) ∧
    (∀ (f2 : Fin 2), ∀ c ∈ ([
        .cameraFrameStart f2, .cameraTrigger f2] : List Instr), ∀ t, exec c s = .next t →
      t = { s with
        regs := t.regs, igrel := t.igrel, decomp := t.decomp, slots := t.slots, taper := t.taper, lantern := t.lantern, led := t.led,
        chans := t.chans, dram := t.dram, wick := t.wick, ylog := t.ylog, out := t.out, flagged := t.flagged }) ∧
    (∀ (f2 : Fin 2) (q : Bool) (lb : List Byte), ∀ c ∈ ([
        .cameraFrameEnd f2, .cameraFrameTimeout f2 q, .uartTransfer f2, .uartRxDone f2 lb] : List Instr), ∀ t, exec c s = .next t →
      t = { s with
        regs := t.regs, doms := t.doms, lantern := t.lantern, chans := t.chans, out := t.out, freeCtr := t.freeCtr }) ∧
    (∀ (f4 : Fin 4) (n n1 : Nat), ∀ c ∈ ([
        .flushTimeExpiry f4, .chunkCompress f4, .uploadPacketSend, .uploadCreditGrant n n1, .uploadResend n n1, .uploadAck n n1,
        .ackTimeoutExpiry f4] : List Instr), ∀ t, exec c s = .next t →
      t = { s with
        regs := t.regs, doms := t.doms, igrel := t.igrel, chans := t.chans, dram := t.dram, ylog := t.ylog, out := t.out,
        flagged := t.flagged, freeCtr := t.freeCtr }) ∧
    (∀ lb : List Byte, ∀ c ∈ ([
        .scanComplete, .scrubBlock lb] : List Instr), ∀ t, exec c s = .next t →
      t = { s with
        regs := t.regs, igrel := t.igrel, raster := t.raster, check := t.check, dram := t.dram, ylog := t.ylog, out := t.out,
        flagged := t.flagged, freeCtr := t.freeCtr }) ∧
    (∀ (n n1 n2 n3 : Nat) (b : Byte) (q : Bool) (d : DramSource) (f128 : Fin 128) (ln : List Nat) (f4 : Fin 4), ∀ c ∈ ([
        .dramCe n n1 b q, .dramUe n d n1 n2 n3 b, .rtPanicRaise f128 n, .rtPanicClear ln, .mr4Poll n q, .dramRefresh f4 n,
        .dramFreqChange] : List Instr), ∀ t, exec c s = .next t →
      t = { s with
        regs := t.regs, doms := t.doms, igrel := t.igrel, raster := t.raster, chans := t.chans, check := t.check, dram := t.dram, wick := t.wick,
        ylog := t.ylog, out := t.out, flagged := t.flagged }) ∧
    (∀ (r : WickReq) (n : Nat), ∀ c ∈ ([
        .wickRequest r, .wickDeferredGrant, .wickDeferTimeout n, .headroomPublish] : List Instr), ∀ t, exec c s = .next t →
      t = { s with
        regs := t.regs, pins := t.pins, igrel := t.igrel, slots := t.slots, taper := t.taper, heads := t.heads, dram := t.dram,
        wick := t.wick, axes := t.axes, ylog := t.ylog, out := t.out, flagged := t.flagged }) ∧
    (∀ (f48 : Fin 48) (f4 : Fin 4) (n : Nat), ∀ c ∈ ([
        .loopSample f48, .spiSenseDone f4 n, .spiActuatorWrite f4, .loopFollowTimeout f48] : List Instr), ∀ t, exec c s = .next t →
      t = { s with
        regs := t.regs, igrel := t.igrel, heads := t.heads, lantern := t.lantern, led := t.led, wick := t.wick, loops := t.loops,
        spi := t.spi, ylog := t.ylog, out := t.out, flagged := t.flagged, freeCtr := t.freeCtr }) ∧
    (∀ (f4 : Fin 4) (ph : Phase) (n : Nat) (q : Bool), ∀ c ∈ ([
        .moveStart f4, .motionTick, .chopperTrip f4 ph n, .chopperToffExpiry f4 ph, .chopperBlankExpiry f4 ph q,
        .phaseOpenTimeout f4 ph] : List Instr), ∀ t, exec c s = .next t →
      t = { s with
        regs := t.regs, igrel := t.igrel, wick := t.wick, axes := t.axes, ylog := t.ylog, out := t.out, flagged := t.flagged,
        freeCtr := t.freeCtr }) ∧
    (∀ (n n1 n2 : Nat) (q : Bool), ∀ c ∈ ([
        .ptpSyncSend, .ptpFollowUp, .ptpAnnounceSend, .ptpDelayReq n n1 n2, .ptpForeignAnnounce n, .ptpTimestampVector q n] : List Instr), ∀ t, exec c s = .next t →
      t = { s with
        regs := t.regs, igrel := t.igrel, ptp := t.ptp, ylog := t.ylog, out := t.out, flagged := t.flagged, freeCtr := t.freeCtr }) ∧
    (∀ (n : Nat) (lq : List Bool), ∀ c ∈ ([
        .jtagExtest, .jtagClamp, .jtagIdcode, .jtagHighz, .jtagBypass n, .jtagSamplePreload lq, .jtagTapReset] : List Instr), ∀ t, exec c s = .next t →
      t = { s with
        jtag := t.jtag })
end

