-- ==== Sys2Proof/Laws/Frames.lean ====
section
/-! SUPPORT. Frames: which fields of the state an operation can change, said once for each shared operation. -/

namespace Sys2Proof.Machine

/-- The fields of the state, by name. -/
inductive Fld where
  | pending | regs | doms | mode | role | strapped | clock | rst | fuses | pins | jtag | igrel | flash | raster | decomp | slots | health | trimGen | enc | taper | heads | twin | lantern | led | chans | check | dram | wick | loops | spi | axes | ptp | cal | ylog | die | out | flagged | freeCtr
  deriving DecidableEq, Repr

/-- Two states agree in a field. -/
def State.agree (s t : State) : Fld → Prop
  | .pending => t.pending = s.pending
  | .regs => t.regs = s.regs
  | .doms => t.doms = s.doms
  | .mode => t.mode = s.mode
  | .role => t.role = s.role
  | .strapped => t.strapped = s.strapped
  | .clock => t.clock = s.clock
  | .rst => t.rst = s.rst
  | .fuses => t.fuses = s.fuses
  | .pins => t.pins = s.pins
  | .jtag => t.jtag = s.jtag
  | .igrel => t.igrel = s.igrel
  | .flash => t.flash = s.flash
  | .raster => t.raster = s.raster
  | .decomp => t.decomp = s.decomp
  | .slots => t.slots = s.slots
  | .health => t.health = s.health
  | .trimGen => t.trimGen = s.trimGen
  | .enc => t.enc = s.enc
  | .taper => t.taper = s.taper
  | .heads => t.heads = s.heads
  | .twin => t.twin = s.twin
  | .lantern => t.lantern = s.lantern
  | .led => t.led = s.led
  | .chans => t.chans = s.chans
  | .check => t.check = s.check
  | .dram => t.dram = s.dram
  | .wick => t.wick = s.wick
  | .loops => t.loops = s.loops
  | .spi => t.spi = s.spi
  | .axes => t.axes = s.axes
  | .ptp => t.ptp = s.ptp
  | .cal => t.cal = s.cal
  | .ylog => t.ylog = s.ylog
  | .die => t.die = s.die
  | .out => t.out = s.out
  | .flagged => t.flagged = s.flagged
  | .freeCtr => t.freeCtr = s.freeCtr

/-- A set of fields as the bits of a number, so that inclusion is arithmetic. -/
def mask : List Fld → Nat
  | [] => 0
  | f :: t => 2 ^ f.ctorIdx ||| mask t

/-- The second state is the first, but for the fields listed. -/
structure Only (d : List Fld) (s t : State) : Prop where
  agree : ∀ f, f ∉ d → s.agree t f

/-- Every next state of an outcome is the given state, but for the fields listed. -/
structure OnlyNext (d : List Fld) (s : State) (o : Host.Outcome State Fault Refusal) : Prop where
  only : ∀ t, o = .next t → Only d s t

theorem Fld.idx_inj (f g : Fld) (h : f.ctorIdx = g.ctorIdx) : f = g := by
  cases f <;> cases g <;> first | rfl | (exact absurd h (by decide))

theorem mask_testBit (d : List Fld) (f : Fld) : (mask d).testBit f.ctorIdx = decide (f ∈ d) := by
  induction d with
  | nil => simp [mask]
  | cons g t ih =>
    simp only [mask, Nat.testBit_or, ih, Nat.testBit_two_pow, List.mem_cons, Bool.decide_or]
    congr 1
    by_cases h : f = g
    · simp [h]
    · have : ¬ g.ctorIdx = f.ctorIdx := fun e => h (Fld.idx_inj _ _ e.symm)
      simp [h, this]

/-- Inclusion of field sets, by their masks. -/
theorem mem_of_mask {d d' : List Fld} (h : mask d' ||| mask d = mask d) {f : Fld} (hf : f ∈ d') : f ∈ d := by
  have : (mask d).testBit f.ctorIdx = true := by
    rw [← h, Nat.testBit_or, mask_testBit, mask_testBit]; simp [hf]
  simpa [mask_testBit] using this

theorem mask_trans {a b d : List Fld} (h : mask a ||| mask b = mask b) (k : mask b ||| mask d = mask d) : mask a ||| mask d = mask d := by
  rw [← k, ← Nat.or_assoc, h]

theorem State.agree_rfl (s : State) (f : Fld) : s.agree s f := by cases f <;> rfl

theorem State.agree_trans {s t u : State} {f : Fld} (h : s.agree t f) (k : t.agree u f) : s.agree u f := by
  cases f <;> exact Eq.trans k h

theorem Only.refl {d : List Fld} {s : State} : Only d s s := ⟨fun f _ => s.agree_rfl f⟩

/-- One operation more. -/
theorem Only.step {d d' : List Fld} {s t u : State} (h : Only d' t u) (sub : mask d' ||| mask d = mask d) (k : Only d s t) :
    Only d s u :=
  ⟨fun f hf => State.agree_trans (k.agree f hf) (h.agree f (fun hm => hf (mem_of_mask sub hm)))⟩

theorem Only.trans {d : List Fld} {s t u : State} (h : Only d t u) (k : Only d s t) : Only d s u :=
  ⟨fun f hf => State.agree_trans (k.agree f hf) (h.agree f hf)⟩

theorem Only.mono {d d' : List Fld} {s t : State} (h : Only d' s t) (sub : mask d' ||| mask d = mask d) : Only d s t := h.step sub .refl

theorem Only.of_snd {α : Type} {d : List Fld} {s t : State} {p : α × State} {v : α} (h : p = (v, t)) (k : Only d s p.2) : Only d s t := by
  rw [h] at k
  exact k

theorem Only.foldl {α : Type} {d : List Fld} {s u : State} {g : State → α → State} {l : List α} (hg : ∀ t x, Only d t (g t x))
    (k : Only d s u) : Only d s (l.foldl g u) := by
  induction l generalizing u with
  | nil => exact k
  | cons x t ih => exact ih (Only.trans (hg u x) k)

theorem OnlyNext.next {d : List Fld} {s t : State} (h : Only d s t) : OnlyNext d s (ok t) := by
  refine ⟨fun u hu => ?_⟩
  cases hu
  exact h

theorem Only.ite {c : Prop} [Decidable c] {d : List Fld} {s t u : State} (h : c → Only d s t) (k : ¬c → Only d s u) :
    Only d s (if c then t else u) := by
  by_cases x : c
  · rw [if_pos x]; exact h x
  · rw [if_neg x]; exact k x

theorem OnlyNext.ite {c : Prop} [Decidable c] {d : List Fld} {s : State} {t u : Host.Outcome State Fault Refusal}
    (h : c → OnlyNext d s t) (k : ¬c → OnlyNext d s u) : OnlyNext d s (if c then t else u) := by
  by_cases x : c
  · rw [if_pos x]; exact h x
  · rw [if_neg x]; exact k x

theorem OnlyNext.stop {d : List Fld} {s : State} {r : Fault} : OnlyNext d s (.fault r) := by
  refine ⟨fun u hu => ?_⟩
  cases hu

theorem OnlyNext.mono {d d' : List Fld} {s : State} {o : Host.Outcome State Fault Refusal} (h : OnlyNext d' s o)
    (sub : mask d' ||| mask d = mask d) : OnlyNext d s o :=
  ⟨fun t ht => (h.only t ht).mono sub⟩

/-! Record updates. -/

theorem Only.with_pending {d : List Fld} {s u : State} {x0 : List Instr}
    (sub : mask [.pending] ||| mask d = mask d) (k : Only d s u) : Only d s { u with pending := x0 } := by
  refine Only.step (d' := [.pending]) ⟨fun f hf => ?_⟩ sub k
  cases f <;> first | rfl | exact absurd (by decide) hf

theorem Only.with_regs {d : List Fld} {s u : State} {x0 : Table Nat}
    (sub : mask [.regs] ||| mask d = mask d) (k : Only d s u) : Only d s { u with regs := x0 } := by
  refine Only.step (d' := [.regs]) ⟨fun f hf => ?_⟩ sub k
  cases f <;> first | rfl | exact absurd (by decide) hf

theorem Only.with_doms {d : List Fld} {s u : State} {x0 : Table (List Byte)}
    (sub : mask [.doms] ||| mask d = mask d) (k : Only d s u) : Only d s { u with doms := x0 } := by
  refine Only.step (d' := [.doms]) ⟨fun f hf => ?_⟩ sub k
  cases f <;> first | rfl | exact absurd (by decide) hf

theorem Only.with_mode {d : List Fld} {s u : State} {x0 : Mode}
    (sub : mask [.mode] ||| mask d = mask d) (k : Only d s u) : Only d s { u with mode := x0 } := by
  refine Only.step (d' := [.mode]) ⟨fun f hf => ?_⟩ sub k
  cases f <;> first | rfl | exact absurd (by decide) hf

theorem Only.with_role {d : List Fld} {s u : State} {x0 : Role}
    (sub : mask [.role] ||| mask d = mask d) (k : Only d s u) : Only d s { u with role := x0 } := by
  refine Only.step (d' := [.role]) ⟨fun f hf => ?_⟩ sub k
  cases f <;> first | rfl | exact absurd (by decide) hf

theorem Only.with_strapped {d : List Fld} {s u : State} {x0 : Role}
    (sub : mask [.strapped] ||| mask d = mask d) (k : Only d s u) : Only d s { u with strapped := x0 } := by
  refine Only.step (d' := [.strapped]) ⟨fun f hf => ?_⟩ sub k
  cases f <;> first | rfl | exact absurd (by decide) hf

theorem Only.with_clock {d : List Fld} {s u : State} {x0 : Clock}
    (sub : mask [.clock] ||| mask d = mask d) (k : Only d s u) : Only d s { u with clock := x0 } := by
  refine Only.step (d' := [.clock]) ⟨fun f hf => ?_⟩ sub k
  cases f <;> first | rfl | exact absurd (by decide) hf

theorem Only.with_rst {d : List Fld} {s u : State} {x0 : ResetSt}
    (sub : mask [.rst] ||| mask d = mask d) (k : Only d s u) : Only d s { u with rst := x0 } := by
  refine Only.step (d' := [.rst]) ⟨fun f hf => ?_⟩ sub k
  cases f <;> first | rfl | exact absurd (by decide) hf

theorem Only.with_fuses {d : List Fld} {s u : State} {x0 : Fuses}
    (sub : mask [.fuses] ||| mask d = mask d) (k : Only d s u) : Only d s { u with fuses := x0 } := by
  refine Only.step (d' := [.fuses]) ⟨fun f hf => ?_⟩ sub k
  cases f <;> first | rfl | exact absurd (by decide) hf

theorem Only.with_pins {d : List Fld} {s u : State} {x0 : Pins}
    (sub : mask [.pins] ||| mask d = mask d) (k : Only d s u) : Only d s { u with pins := x0 } := by
  refine Only.step (d' := [.pins]) ⟨fun f hf => ?_⟩ sub k
  cases f <;> first | rfl | exact absurd (by decide) hf

theorem Only.with_jtag {d : List Fld} {s u : State} {x0 : Jtag}
    (sub : mask [.jtag] ||| mask d = mask d) (k : Only d s u) : Only d s { u with jtag := x0 } := by
  refine Only.step (d' := [.jtag]) ⟨fun f hf => ?_⟩ sub k
  cases f <;> first | rfl | exact absurd (by decide) hf

theorem Only.with_igrel {d : List Fld} {s u : State} {x0 : Igrel}
    (sub : mask [.igrel] ||| mask d = mask d) (k : Only d s u) : Only d s { u with igrel := x0 } := by
  refine Only.step (d' := [.igrel]) ⟨fun f hf => ?_⟩ sub k
  cases f <;> first | rfl | exact absurd (by decide) hf

theorem Only.with_flash {d : List Fld} {s u : State} {x0 : Flash}
    (sub : mask [.flash] ||| mask d = mask d) (k : Only d s u) : Only d s { u with flash := x0 } := by
  refine Only.step (d' := [.flash]) ⟨fun f hf => ?_⟩ sub k
  cases f <;> first | rfl | exact absurd (by decide) hf

theorem Only.with_raster {d : List Fld} {s u : State} {x0 : Raster}
    (sub : mask [.raster] ||| mask d = mask d) (k : Only d s u) : Only d s { u with raster := x0 } := by
  refine Only.step (d' := [.raster]) ⟨fun f hf => ?_⟩ sub k
  cases f <;> first | rfl | exact absurd (by decide) hf

theorem Only.with_decomp {d : List Fld} {s u : State} {x0 : Decomp}
    (sub : mask [.decomp] ||| mask d = mask d) (k : Only d s u) : Only d s { u with decomp := x0 } := by
  refine Only.step (d' := [.decomp]) ⟨fun f hf => ?_⟩ sub k
  cases f <;> first | rfl | exact absurd (by decide) hf

theorem Only.with_slots {d : List Fld} {s u : State} {x0 : Table (List Slot)}
    (sub : mask [.slots] ||| mask d = mask d) (k : Only d s u) : Only d s { u with slots := x0 } := by
  refine Only.step (d' := [.slots]) ⟨fun f hf => ?_⟩ sub k
  cases f <;> first | rfl | exact absurd (by decide) hf

theorem Only.with_health {d : List Fld} {s u : State} {x0 : Health}
    (sub : mask [.health] ||| mask d = mask d) (k : Only d s u) : Only d s { u with health := x0 } := by
  refine Only.step (d' := [.health]) ⟨fun f hf => ?_⟩ sub k
  cases f <;> first | rfl | exact absurd (by decide) hf

theorem Only.with_trimGen {d : List Fld} {s u : State} {x0 : Nat}
    (sub : mask [.trimGen] ||| mask d = mask d) (k : Only d s u) : Only d s { u with trimGen := x0 } := by
  refine Only.step (d' := [.trimGen]) ⟨fun f hf => ?_⟩ sub k
  cases f <;> first | rfl | exact absurd (by decide) hf

theorem Only.with_enc {d : List Fld} {s u : State} {x0 : Encoder}
    (sub : mask [.enc] ||| mask d = mask d) (k : Only d s u) : Only d s { u with enc := x0 } := by
  refine Only.step (d' := [.enc]) ⟨fun f hf => ?_⟩ sub k
  cases f <;> first | rfl | exact absurd (by decide) hf

theorem Only.with_taper {d : List Fld} {s u : State} {x0 : Taper}
    (sub : mask [.taper] ||| mask d = mask d) (k : Only d s u) : Only d s { u with taper := x0 } := by
  refine Only.step (d' := [.taper]) ⟨fun f hf => ?_⟩ sub k
  cases f <;> first | rfl | exact absurd (by decide) hf

theorem Only.with_heads {d : List Fld} {s u : State} {x0 : Table HeadLane}
    (sub : mask [.heads] ||| mask d = mask d) (k : Only d s u) : Only d s { u with heads := x0 } := by
  refine Only.step (d' := [.heads]) ⟨fun f hf => ?_⟩ sub k
  cases f <;> first | rfl | exact absurd (by decide) hf

theorem Only.with_twin {d : List Fld} {s u : State} {x0 : Twin}
    (sub : mask [.twin] ||| mask d = mask d) (k : Only d s u) : Only d s { u with twin := x0 } := by
  refine Only.step (d' := [.twin]) ⟨fun f hf => ?_⟩ sub k
  cases f <;> first | rfl | exact absurd (by decide) hf

theorem Only.with_lantern {d : List Fld} {s u : State} {x0 : Lantern}
    (sub : mask [.lantern] ||| mask d = mask d) (k : Only d s u) : Only d s { u with lantern := x0 } := by
  refine Only.step (d' := [.lantern]) ⟨fun f hf => ?_⟩ sub k
  cases f <;> first | rfl | exact absurd (by decide) hf

theorem Only.with_led {d : List Fld} {s u : State} {x0 : Led}
    (sub : mask [.led] ||| mask d = mask d) (k : Only d s u) : Only d s { u with led := x0 } := by
  refine Only.step (d' := [.led]) ⟨fun f hf => ?_⟩ sub k
  cases f <;> first | rfl | exact absurd (by decide) hf

theorem Only.with_chans {d : List Fld} {s u : State} {x0 : Table Chan}
    (sub : mask [.chans] ||| mask d = mask d) (k : Only d s u) : Only d s { u with chans := x0 } := by
  refine Only.step (d' := [.chans]) ⟨fun f hf => ?_⟩ sub k
  cases f <;> first | rfl | exact absurd (by decide) hf

theorem Only.with_check {d : List Fld} {s u : State} {x0 : Check}
    (sub : mask [.check] ||| mask d = mask d) (k : Only d s u) : Only d s { u with check := x0 } := by
  refine Only.step (d' := [.check]) ⟨fun f hf => ?_⟩ sub k
  cases f <;> first | rfl | exact absurd (by decide) hf

theorem Only.with_dram {d : List Fld} {s u : State} {x0 : Dram}
    (sub : mask [.dram] ||| mask d = mask d) (k : Only d s u) : Only d s { u with dram := x0 } := by
  refine Only.step (d' := [.dram]) ⟨fun f hf => ?_⟩ sub k
  cases f <;> first | rfl | exact absurd (by decide) hf

theorem Only.with_wick {d : List Fld} {s u : State} {x0 : Wick}
    (sub : mask [.wick] ||| mask d = mask d) (k : Only d s u) : Only d s { u with wick := x0 } := by
  refine Only.step (d' := [.wick]) ⟨fun f hf => ?_⟩ sub k
  cases f <;> first | rfl | exact absurd (by decide) hf

theorem Only.with_loops {d : List Fld} {s u : State} {x0 : Table LoopDyn}
    (sub : mask [.loops] ||| mask d = mask d) (k : Only d s u) : Only d s { u with loops := x0 } := by
  refine Only.step (d' := [.loops]) ⟨fun f hf => ?_⟩ sub k
  cases f <;> first | rfl | exact absurd (by decide) hf

theorem Only.with_spi {d : List Fld} {s u : State} {x0 : Table (List SpiJob)}
    (sub : mask [.spi] ||| mask d = mask d) (k : Only d s u) : Only d s { u with spi := x0 } := by
  refine Only.step (d' := [.spi]) ⟨fun f hf => ?_⟩ sub k
  cases f <;> first | rfl | exact absurd (by decide) hf

theorem Only.with_axes {d : List Fld} {s u : State} {x0 : Table Axis}
    (sub : mask [.axes] ||| mask d = mask d) (k : Only d s u) : Only d s { u with axes := x0 } := by
  refine Only.step (d' := [.axes]) ⟨fun f hf => ?_⟩ sub k
  cases f <;> first | rfl | exact absurd (by decide) hf

theorem Only.with_ptp {d : List Fld} {s u : State} {x0 : Ptp}
    (sub : mask [.ptp] ||| mask d = mask d) (k : Only d s u) : Only d s { u with ptp := x0 } := by
  refine Only.step (d' := [.ptp]) ⟨fun f hf => ?_⟩ sub k
  cases f <;> first | rfl | exact absurd (by decide) hf

theorem Only.with_cal {d : List Fld} {s u : State} {x0 : Cal}
    (sub : mask [.cal] ||| mask d = mask d) (k : Only d s u) : Only d s { u with cal := x0 } := by
  refine Only.step (d' := [.cal]) ⟨fun f hf => ?_⟩ sub k
  cases f <;> first | rfl | exact absurd (by decide) hf

theorem Only.with_ylog {d : List Fld} {s u : State} {x0 : Ylog}
    (sub : mask [.ylog] ||| mask d = mask d) (k : Only d s u) : Only d s { u with ylog := x0 } := by
  refine Only.step (d' := [.ylog]) ⟨fun f hf => ?_⟩ sub k
  cases f <;> first | rfl | exact absurd (by decide) hf

theorem Only.with_die {d : List Fld} {s u : State} {x0 : Die}
    (sub : mask [.die] ||| mask d = mask d) (k : Only d s u) : Only d s { u with die := x0 } := by
  refine Only.step (d' := [.die]) ⟨fun f hf => ?_⟩ sub k
  cases f <;> first | rfl | exact absurd (by decide) hf

theorem Only.with_out {d : List Fld} {s u : State} {x0 : List Out}
    (sub : mask [.out] ||| mask d = mask d) (k : Only d s u) : Only d s { u with out := x0 } := by
  refine Only.step (d' := [.out]) ⟨fun f hf => ?_⟩ sub k
  cases f <;> first | rfl | exact absurd (by decide) hf

theorem Only.with_flagged {d : List Fld} {s u : State} {x0 : Table Nat}
    (sub : mask [.flagged] ||| mask d = mask d) (k : Only d s u) : Only d s { u with flagged := x0 } := by
  refine Only.step (d' := [.flagged]) ⟨fun f hf => ?_⟩ sub k
  cases f <;> first | rfl | exact absurd (by decide) hf

theorem Only.with_freeCtr {d : List Fld} {s u : State} {x0 : Nat}
    (sub : mask [.freeCtr] ||| mask d = mask d) (k : Only d s u) : Only d s { u with freeCtr := x0 } := by
  refine Only.step (d' := [.freeCtr]) ⟨fun f hf => ?_⟩ sub k
  cases f <;> first | rfl | exact absurd (by decide) hf

theorem Only.with_clock_ptp {d : List Fld} {s u : State} {x0 : Clock} {x1 : Ptp}
    (sub : mask [.clock, .ptp] ||| mask d = mask d) (k : Only d s u) : Only d s { u with clock := x0, ptp := x1 } := by
  refine Only.step (d' := [.clock, .ptp]) ⟨fun f hf => ?_⟩ sub k
  cases f <;> first | rfl | exact absurd (by decide) hf

theorem Only.with_clock_wick_flagged {d : List Fld} {s u : State} {x0 : Clock} {x1 : Wick} {x2 : Table Nat}
    (sub : mask [.clock, .wick, .flagged] ||| mask d = mask d) (k : Only d s u) : Only d s { u with clock := x0, wick := x1, flagged := x2 } := by
  refine Only.step (d' := [.clock, .wick, .flagged]) ⟨fun f hf => ?_⟩ sub k
  cases f <;> first | rfl | exact absurd (by decide) hf

theorem Only.with_dram_cal {d : List Fld} {s u : State} {x0 : Dram} {x1 : Cal}
    (sub : mask [.dram, .cal] ||| mask d = mask d) (k : Only d s u) : Only d s { u with dram := x0, cal := x1 } := by
  refine Only.step (d' := [.dram, .cal]) ⟨fun f hf => ?_⟩ sub k
  cases f <;> first | rfl | exact absurd (by decide) hf

theorem Only.with_enc_taper_twin_lantern {d : List Fld} {s u : State} {x0 : Encoder} {x1 : Taper} {x2 : Twin} {x3 : Lantern}
    (sub : mask [.enc, .taper, .twin, .lantern] ||| mask d = mask d) (k : Only d s u) : Only d s { u with enc := x0, taper := x1, twin := x2, lantern := x3 } := by
  refine Only.step (d' := [.enc, .taper, .twin, .lantern]) ⟨fun f hf => ?_⟩ sub k
  cases f <;> first | rfl | exact absurd (by decide) hf

theorem Only.with_enc_taper_twin_lantern_led {d : List Fld} {s u : State} {x0 : Encoder} {x1 : Taper} {x2 : Twin} {x3 : Lantern} {x4 : Led}
    (sub : mask [.enc, .taper, .twin, .lantern, .led] ||| mask d = mask d) (k : Only d s u) : Only d s { u with enc := x0, taper := x1, twin := x2, lantern := x3, led := x4 } := by
  refine Only.step (d' := [.enc, .taper, .twin, .lantern, .led]) ⟨fun f hf => ?_⟩ sub k
  cases f <;> first | rfl | exact absurd (by decide) hf

theorem Only.with_flash_cal {d : List Fld} {s u : State} {x0 : Flash} {x1 : Cal}
    (sub : mask [.flash, .cal] ||| mask d = mask d) (k : Only d s u) : Only d s { u with flash := x0, cal := x1 } := by
  refine Only.step (d' := [.flash, .cal]) ⟨fun f hf => ?_⟩ sub k
  cases f <;> first | rfl | exact absurd (by decide) hf

theorem Only.with_fuses_igrel {d : List Fld} {s u : State} {x0 : Fuses} {x1 : Igrel}
    (sub : mask [.fuses, .igrel] ||| mask d = mask d) (k : Only d s u) : Only d s { u with fuses := x0, igrel := x1 } := by
  refine Only.step (d' := [.fuses, .igrel]) ⟨fun f hf => ?_⟩ sub k
  cases f <;> first | rfl | exact absurd (by decide) hf

theorem Only.with_fuses_ylog {d : List Fld} {s u : State} {x0 : Fuses} {x1 : Ylog}
    (sub : mask [.fuses, .ylog] ||| mask d = mask d) (k : Only d s u) : Only d s { u with fuses := x0, ylog := x1 } := by
  refine Only.step (d' := [.fuses, .ylog]) ⟨fun f hf => ?_⟩ sub k
  cases f <;> first | rfl | exact absurd (by decide) hf

theorem Only.with_health_twin {d : List Fld} {s u : State} {x0 : Health} {x1 : Twin}
    (sub : mask [.health, .twin] ||| mask d = mask d) (k : Only d s u) : Only d s { u with health := x0, twin := x1 } := by
  refine Only.step (d' := [.health, .twin]) ⟨fun f hf => ?_⟩ sub k
  cases f <;> first | rfl | exact absurd (by decide) hf

theorem Only.with_pins_taper {d : List Fld} {s u : State} {x0 : Pins} {x1 : Taper}
    (sub : mask [.pins, .taper] ||| mask d = mask d) (k : Only d s u) : Only d s { u with pins := x0, taper := x1 } := by
  refine Only.step (d' := [.pins, .taper]) ⟨fun f hf => ?_⟩ sub k
  cases f <;> first | rfl | exact absurd (by decide) hf

theorem Only.with_raster_decomp {d : List Fld} {s u : State} {x0 : Raster} {x1 : Decomp}
    (sub : mask [.raster, .decomp] ||| mask d = mask d) (k : Only d s u) : Only d s { u with raster := x0, decomp := x1 } := by
  refine Only.step (d' := [.raster, .decomp]) ⟨fun f hf => ?_⟩ sub k
  cases f <;> first | rfl | exact absurd (by decide) hf

theorem Only.with_raster_decomp_slots_health {d : List Fld} {s u : State} {x0 : Raster} {x1 : Decomp} {x2 : Table (List Slot)} {x3 : Health}
    (sub : mask [.raster, .decomp, .slots, .health] ||| mask d = mask d) (k : Only d s u) : Only d s { u with raster := x0, decomp := x1, slots := x2, health := x3 } := by
  refine Only.step (d' := [.raster, .decomp, .slots, .health]) ⟨fun f hf => ?_⟩ sub k
  cases f <;> first | rfl | exact absurd (by decide) hf

theorem Only.with_regs_doms {d : List Fld} {s u : State} {x0 : Table Nat} {x1 : Table (List Byte)}
    (sub : mask [.regs, .doms] ||| mask d = mask d) (k : Only d s u) : Only d s { u with regs := x0, doms := x1 } := by
  refine Only.step (d' := [.regs, .doms]) ⟨fun f hf => ?_⟩ sub k
  cases f <;> first | rfl | exact absurd (by decide) hf

theorem Only.with_regs_doms_loops_spi {d : List Fld} {s u : State} {x0 : Table Nat} {x1 : Table (List Byte)} {x2 : Table LoopDyn} {x3 : Table (List SpiJob)}
    (sub : mask [.regs, .doms, .loops, .spi] ||| mask d = mask d) (k : Only d s u) : Only d s { u with regs := x0, doms := x1, loops := x2, spi := x3 } := by
  refine Only.step (d' := [.regs, .doms, .loops, .spi]) ⟨fun f hf => ?_⟩ sub k
  cases f <;> first | rfl | exact absurd (by decide) hf

theorem Only.with_role_strapped_clock_rst_fuses {d : List Fld} {s u : State} {x0 : Role} {x1 : Role} {x2 : Clock} {x3 : ResetSt} {x4 : Fuses}
    (sub : mask [.role, .strapped, .clock, .rst, .fuses] ||| mask d = mask d) (k : Only d s u) : Only d s { u with role := x0, strapped := x1, clock := x2, rst := x3, fuses := x4 } := by
  refine Only.step (d' := [.role, .strapped, .clock, .rst, .fuses]) ⟨fun f hf => ?_⟩ sub k
  cases f <;> first | rfl | exact absurd (by decide) hf

theorem Only.with_role_strapped_clock_rst_fuses_jtag {d : List Fld} {s u : State} {x0 : Role} {x1 : Role} {x2 : Clock} {x3 : ResetSt} {x4 : Fuses} {x5 : Jtag}
    (sub : mask [.role, .strapped, .clock, .rst, .fuses, .jtag] ||| mask d = mask d) (k : Only d s u) : Only d s { u with role := x0, strapped := x1, clock := x2, rst := x3, fuses := x4, jtag := x5 } := by
  refine Only.step (d' := [.role, .strapped, .clock, .rst, .fuses, .jtag]) ⟨fun f hf => ?_⟩ sub k
  cases f <;> first | rfl | exact absurd (by decide) hf

theorem Only.with_role_twin {d : List Fld} {s u : State} {x0 : Role} {x1 : Twin}
    (sub : mask [.role, .twin] ||| mask d = mask d) (k : Only d s u) : Only d s { u with role := x0, twin := x1 } := by
  refine Only.step (d' := [.role, .twin]) ⟨fun f hf => ?_⟩ sub k
  cases f <;> first | rfl | exact absurd (by decide) hf

theorem Only.with_rst_igrel {d : List Fld} {s u : State} {x0 : ResetSt} {x1 : Igrel}
    (sub : mask [.rst, .igrel] ||| mask d = mask d) (k : Only d s u) : Only d s { u with rst := x0, igrel := x1 } := by
  refine Only.step (d' := [.rst, .igrel]) ⟨fun f hf => ?_⟩ sub k
  cases f <;> first | rfl | exact absurd (by decide) hf

theorem Only.with_rst_pins_igrel {d : List Fld} {s u : State} {x0 : ResetSt} {x1 : Pins} {x2 : Igrel}
    (sub : mask [.rst, .pins, .igrel] ||| mask d = mask d) (k : Only d s u) : Only d s { u with rst := x0, pins := x1, igrel := x2 } := by
  refine Only.step (d' := [.rst, .pins, .igrel]) ⟨fun f hf => ?_⟩ sub k
  cases f <;> first | rfl | exact absurd (by decide) hf

theorem Only.with_rst_taper_dram {d : List Fld} {s u : State} {x0 : ResetSt} {x1 : Taper} {x2 : Dram}
    (sub : mask [.rst, .taper, .dram] ||| mask d = mask d) (k : Only d s u) : Only d s { u with rst := x0, taper := x1, dram := x2 } := by
  refine Only.step (d' := [.rst, .taper, .dram]) ⟨fun f hf => ?_⟩ sub k
  cases f <;> first | rfl | exact absurd (by decide) hf

theorem Only.with_rst_ylog {d : List Fld} {s u : State} {x0 : ResetSt} {x1 : Ylog}
    (sub : mask [.rst, .ylog] ||| mask d = mask d) (k : Only d s u) : Only d s { u with rst := x0, ylog := x1 } := by
  refine Only.step (d' := [.rst, .ylog]) ⟨fun f hf => ?_⟩ sub k
  cases f <;> first | rfl | exact absurd (by decide) hf

theorem Only.with_slots_health {d : List Fld} {s u : State} {x0 : Table (List Slot)} {x1 : Health}
    (sub : mask [.slots, .health] ||| mask d = mask d) (k : Only d s u) : Only d s { u with slots := x0, health := x1 } := by
  refine Only.step (d' := [.slots, .health]) ⟨fun f hf => ?_⟩ sub k
  cases f <;> first | rfl | exact absurd (by decide) hf

theorem Only.with_taper_lantern_dram {d : List Fld} {s u : State} {x0 : Taper} {x1 : Lantern} {x2 : Dram}
    (sub : mask [.taper, .lantern, .dram] ||| mask d = mask d) (k : Only d s u) : Only d s { u with taper := x0, lantern := x1, dram := x2 } := by
  refine Only.step (d' := [.taper, .lantern, .dram]) ⟨fun f hf => ?_⟩ sub k
  cases f <;> first | rfl | exact absurd (by decide) hf

theorem Only.with_taper_twin {d : List Fld} {s u : State} {x0 : Taper} {x1 : Twin}
    (sub : mask [.taper, .twin] ||| mask d = mask d) (k : Only d s u) : Only d s { u with taper := x0, twin := x1 } := by
  refine Only.step (d' := [.taper, .twin]) ⟨fun f hf => ?_⟩ sub k
  cases f <;> first | rfl | exact absurd (by decide) hf

theorem Only.with_twin_led_cal {d : List Fld} {s u : State} {x0 : Twin} {x1 : Led} {x2 : Cal}
    (sub : mask [.twin, .led, .cal] ||| mask d = mask d) (k : Only d s u) : Only d s { u with twin := x0, led := x1, cal := x2 } := by
  refine Only.step (d' := [.twin, .led, .cal]) ⟨fun f hf => ?_⟩ sub k
  cases f <;> first | rfl | exact absurd (by decide) hf

end Sys2Proof.Machine
end

