-- ==== Sys2Proof/Laws/FramesOpsToLines.lean ====
section
/-! SUPPORT. The frame of every operation and meaning of Machine/Ops.lean, Wire.lean, Memory.lean, Store.lean, Decomp.lean, Wick.lean, Head.lean, Strip.lean, Lines.lean: the only fields of the state that
it can change. -/

namespace Sys2Proof.Machine

/-! ### Ops -/

theorem State.setReg_only (s : State) (key : ℕ) (v : ℕ) : Only [.regs] s (State.setReg s key v) := by
  unfold State.setReg
  refine Only.with_regs (by decide) ?_
  exact .refl

theorem State.setRegs_only (s : State) (x1 : List (ℕ × ℕ)) : Only [.regs] s (State.setRegs s x1) := by
  induction x1 generalizing s with | nil => ?_ | cons y l ih => ?_
  · simp only [State.setRegs]
    exact .refl
  · simp only [State.setRegs]
    refine Only.trans (ih ..) ?_
    refine Only.step (State.setReg_only ..) (by decide) ?_
    exact .refl

theorem State.setSreg_only (s : State) (key : ℕ) (v : ℤ) : Only [.regs] s (State.setSreg s key v) := by
  unfold State.setSreg
  refine Only.step (State.setReg_only ..) (by decide) ?_
  exact .refl

theorem State.setDom_only (s : State) (key : ℕ) (c : List Byte) : Only [.doms] s (State.setDom s key c) := by
  unfold State.setDom
  dsimp only
  refine Only.with_doms (by decide) ?_
  exact .refl

theorem State.count_only (s : State) (key : ℕ) (n : ℕ) : Only [.regs] s (State.count s key n) := by
  unfold State.count
  refine Only.step (State.setReg_only ..) (by decide) ?_
  exact .refl

theorem State.bump_only (s : State) (key : ℕ) : Only [.regs] s (State.bump s key) := by
  unfold State.bump
  refine Only.step (State.count_only ..) (by decide) ?_
  exact .refl

theorem State.noteFlags_only (s : State) (key : ℕ) (m : ℕ) : Only [.flagged] s (State.noteFlags s key m) := by
  unfold State.noteFlags
  refine Only.with_flagged (by decide) ?_
  exact .refl

theorem State.setBits_only (s : State) (key : ℕ) (m : ℕ) : Only [.regs, .flagged] s (State.setBits s key m) := by
  unfold State.setBits
  refine Only.step (State.noteFlags_only ..) (by decide) ?_
  refine Only.step (State.setReg_only ..) (by decide) ?_
  exact .refl

theorem State.clearBits_only (s : State) (key : ℕ) (m : ℕ) : Only [.regs] s (State.clearBits s key m) := by
  unfold State.clearBits
  refine Only.step (State.setReg_only ..) (by decide) ?_
  exact .refl

theorem State.clearFlag_only (s : State) (key : ℕ) (m : ℕ) : Only [.regs] s (State.clearFlag s key m) := by
  unfold State.clearFlag
  refine Only.step (State.clearBits_only ..) (by decide) ?_
  exact .refl

theorem State.fresh_only (s : State) (w : ℕ) : Only [.freeCtr] s (State.fresh s w).2 := by
  unfold State.fresh
  dsimp only
  refine Only.with_freeCtr (by decide) ?_
  exact .refl

theorem State.setRing_only (s : State) (k : ℕ) (l : List Blk) : Only [.raster] s (State.setRing s k l) := by
  unfold State.setRing
  refine Only.with_raster (by decide) ?_
  exact .refl

theorem State.setCtx_only (s : State) (k : ℕ) (c : Ctx) : Only [.decomp] s (State.setCtx s k c) := by
  unfold State.setCtx
  refine Only.with_decomp (by decide) ?_
  exact .refl

theorem State.setSlots_only (s : State) (st : ℕ) (l : List Slot) : Only [.slots] s (State.setSlots s st l) := by
  unfold State.setSlots
  refine Only.with_slots (by decide) ?_
  exact .refl

theorem State.setGroup_only (s : State) (g : ℕ) (x : Group) : Only [.taper] s (State.setGroup s g x) := by
  unfold State.setGroup
  refine Only.with_taper (by decide) ?_
  exact .refl

theorem State.setHead_only (s : State) (m : ℕ) (x : HeadLane) : Only [.heads] s (State.setHead s m x) := by
  unfold State.setHead
  refine Only.with_heads (by decide) ?_
  exact .refl

theorem State.setChan_only (s : State) (c : ℕ) (x : Chan) : Only [.chans] s (State.setChan s c x) := by
  unfold State.setChan
  refine Only.with_chans (by decide) ?_
  exact .refl

theorem State.setLoop_only (s : State) (i : ℕ) (x : LoopDyn) : Only [.loops] s (State.setLoop s i x) := by
  unfold State.setLoop
  refine Only.with_loops (by decide) ?_
  exact .refl

theorem State.setAxis_only (s : State) (a : ℕ) (x : Axis) : Only [.axes] s (State.setAxis s a x) := by
  unfold State.setAxis
  refine Only.with_axes (by decide) ?_
  exact .refl

theorem State.setEncCh_only (s : State) (ch : ℕ) (x : EncCh) : Only [.enc] s (State.setEncCh s ch x) := by
  unfold State.setEncCh
  refine Only.with_enc (by decide) ?_
  exact .refl

theorem State.emit_only (s : State) (o : Out) : Only [.out] s (State.emit s o) := by
  unfold State.emit
  refine Only.with_out (by decide) ?_
  exact .refl

theorem State.emitAll_only (s : State) (x1 : List Out) : Only [.out] s (State.emitAll s x1) := by
  induction x1 generalizing s with | nil => ?_ | cons y l ih => ?_
  · simp only [State.emitAll]
    exact .refl
  · simp only [State.emitAll]
    refine Only.trans (ih ..) ?_
    refine Only.step (State.emit_only ..) (by decide) ?_
    exact .refl

theorem State.sendIn_only (s : State) (dst : Src) (sess : ℕ) (ty : ℕ) (tag : ℕ) (payload : List Byte) :
    Only [.igrel, .out] s (State.sendIn s dst sess ty tag payload) := by
  unfold State.sendIn
  split
  · exact .refl
  · dsimp only
    refine Only.with_igrel (by decide) ?_
    refine Only.step (State.emit_only ..) (by decide) ?_
    exact .refl

theorem State.sendEach_only (s : State) (ty : ℕ) (tag : ℕ) (payload : List Byte) (x4 : List Session) :
    Only [.igrel, .out] s (State.sendEach s ty tag payload x4) := by
  induction x4 generalizing s ty tag payload with | nil => ?_ | cons y l ih => ?_
  · simp only [State.sendEach]
    exact .refl
  · simp only [State.sendEach]
    refine Only.trans (ih ..) ?_
    refine Only.step (State.sendIn_only ..) (by decide) ?_
    exact .refl

theorem State.respond_only (s : State) (h : Hdr) (r : Reply) : Only [.igrel, .out] s (State.respond s h r) := by
  unfold State.respond
  split
  refine Only.ite (fun _ => ?_) (fun _ => ?_)
  · refine Only.step (State.emit_only ..) (by decide) ?_
    exact .refl
  · refine Only.step (State.sendIn_only ..) (by decide) ?_
    exact .refl

theorem State.keep_only (s : State) (h : Hdr) (ty : ℕ) (payload : List Byte) (r : Reply) :
    Only [.igrel] s (State.keep s h ty payload r) := by
  unfold State.keep
  dsimp only
  refine Only.ite (fun _ => ?_) (fun _ => ?_)
  · exact .refl
  · refine Only.with_igrel (by decide) ?_
    exact .refl

theorem State.answer_only (s : State) (h : Hdr) (ty : ℕ) (payload : List Byte) (r : Reply) :
    Only [.igrel, .out] s (State.answer s h ty payload r) := by
  unfold State.answer
  refine Only.step (State.keep_only ..) (by decide) ?_
  refine Only.step (State.respond_only ..) (by decide) ?_
  exact .refl

theorem State.finish_only (s : State) (d : Deferred) (r : Reply) : Only [.igrel, .out] s (State.finish s d r) := by
  unfold State.finish
  refine Only.ite (fun _ => ?_) (fun _ => ?_)
  · refine Only.step (State.answer_only ..) (by decide) ?_
    refine Only.with_igrel (by decide) ?_
    exact .refl
  · exact .refl

theorem State.finished_only (s : State) (x1 : Option Deferred) : Only [.igrel, .out] s (State.finished s x1) := by
  unfold State.finished
  split
  · exact .refl
  · refine Only.step (State.finish_only ..) (by decide) ?_
    exact .refl

theorem State.noteTrigger_only (s : State) : Only [.flagged] s (State.noteTrigger s) := by
  unfold State.noteTrigger
  refine Only.step (State.noteFlags_only ..) (by decide) ?_
  exact .refl

theorem State.ylogPut_only (s : State) (v : YEvent) : Only [.regs, .ylog, .flagged] s (State.ylogPut s v) := by
  unfold State.ylogPut
  dsimp only
  refine Only.ite (fun _ => ?_) (fun _ => ?_)
  · refine Only.step (State.bump_only ..) (by decide) ?_
    refine Only.ite (fun _ => ?_) (fun _ => ?_)
    · refine Only.step (State.noteTrigger_only ..) (by decide) ?_
      exact .refl
    · exact .refl
  · refine Only.ite (fun _ => ?_) (fun _ => ?_)
    · refine Only.ite (fun _ => ?_) (fun _ => ?_)
      · refine Only.step (State.setReg_only ..) (by decide) ?_
        refine Only.with_ylog (by decide) ?_
        refine Only.step (State.bump_only ..) (by decide) ?_
        refine Only.with_ylog (by decide) ?_
        refine Only.ite (fun _ => ?_) (fun _ => ?_)
        · refine Only.step (State.noteTrigger_only ..) (by decide) ?_
          exact .refl
        · exact .refl
      · refine Only.with_ylog (by decide) ?_
        refine Only.step (State.bump_only ..) (by decide) ?_
        refine Only.with_ylog (by decide) ?_
        refine Only.ite (fun _ => ?_) (fun _ => ?_)
        · refine Only.step (State.noteTrigger_only ..) (by decide) ?_
          exact .refl
        · exact .refl
    · refine Only.ite (fun _ => ?_) (fun _ => ?_)
      · refine Only.step (State.setReg_only ..) (by decide) ?_
        refine Only.with_ylog (by decide) ?_
        refine Only.step (State.setReg_only ..) (by decide) ?_
        refine Only.step (State.bump_only ..) (by decide) ?_
        refine Only.with_ylog (by decide) ?_
        refine Only.ite (fun _ => ?_) (fun _ => ?_)
        · refine Only.step (State.noteTrigger_only ..) (by decide) ?_
          exact .refl
        · exact .refl
      · refine Only.step (State.bump_only ..) (by decide) ?_
        refine Only.with_ylog (by decide) ?_
        refine Only.ite (fun _ => ?_) (fun _ => ?_)
        · refine Only.step (State.noteTrigger_only ..) (by decide) ?_
          exact .refl
        · exact .refl

theorem State.ylogPuts_only (s : State) (x1 : List YEvent) : Only [.regs, .ylog, .flagged] s (State.ylogPuts s x1) := by
  induction x1 generalizing s with | nil => ?_ | cons y l ih => ?_
  · simp only [State.ylogPuts]
    exact .refl
  · simp only [State.ylogPuts]
    refine Only.trans (ih ..) ?_
    refine Only.step (State.ylogPut_only ..) (by decide) ?_
    exact .refl

theorem State.ylogBack_only (s : State) (b : YBase) : Only [.regs, .ylog] s (State.ylogBack s b) := by
  unfold State.ylogBack
  dsimp only
  refine Only.with_ylog (by decide) ?_
  refine Only.step (State.setReg_only ..) (by decide) ?_
  refine Only.step (State.setReg_only ..) (by decide) ?_
  refine Only.step (State.setReg_only ..) (by decide) ?_
  refine Only.step (State.setReg_only ..) (by decide) ?_
  exact .refl

theorem State.ylogClose_only (s : State) : Only [.ylog] s (State.ylogClose s) := by
  unfold State.ylogClose
  refine Only.with_ylog (by decide) ?_
  exact .refl

theorem State.ylogWrite_only (s : State) (code : ℕ) (detail : List Byte) :
    Only [.regs, .ylog, .flagged] s (State.ylogWrite s code detail) := by
  unfold State.ylogWrite
  dsimp only
  refine Only.with_ylog (by decide) ?_
  refine Only.ite (fun _ => ?_) (fun _ => ?_)
  · refine Only.step (State.ylogPut_only ..) (by decide) ?_
    exact .refl
  · refine Only.step (State.ylogPuts_only ..) (by decide) ?_
    refine Only.step (State.ylogBack_only ..) (by decide) ?_
    exact .refl

theorem State.logEvent_only (s : State) (code : ℕ) (detail : List Byte) :
    Only [.regs, .igrel, .ylog, .out, .flagged] s (State.logEvent s code detail) := by
  unfold State.logEvent
  dsimp only
  refine Only.step (State.sendEach_only ..) (by decide) ?_
  refine Only.step (State.ylogWrite_only ..) (by decide) ?_
  exact .refl

theorem State.startFreeze_only (s : State) : Only [.regs, .ylog] s (State.startFreeze s) := by
  unfold State.startFreeze
  dsimp only
  refine Only.with_ylog (by decide) ?_
  refine Only.step (State.setReg_only ..) (by decide) ?_
  refine Only.step (State.setReg_only ..) (by decide) ?_
  refine Only.step (State.ylogClose_only ..) (by decide) ?_
  exact .refl

theorem State.freezeTrigger_only (s : State) : Only [.regs, .ylog, .flagged] s (State.freezeTrigger s) := by
  unfold State.freezeTrigger
  dsimp only
  refine Only.ite (fun _ => ?_) (fun _ => ?_)
  · refine Only.step (State.noteTrigger_only ..) (by decide) ?_
    exact .refl
  · refine Only.step (State.startFreeze_only ..) (by decide) ?_
    refine Only.step (State.noteTrigger_only ..) (by decide) ?_
    exact .refl

theorem State.freezeAtReset_only (s : State) : Only [.regs, .ylog] s (State.freezeAtReset s) := by
  unfold State.freezeAtReset
  dsimp only
  refine Only.with_ylog (by decide) ?_
  refine Only.step (State.setReg_only ..) (by decide) ?_
  refine Only.ite (fun _ => ?_) (fun _ => ?_)
  · refine Only.step (State.setReg_only ..) (by decide) ?_
    exact .refl
  · exact .refl

theorem State.setCause_only (s : State) (b : ℕ) : Only [.regs, .flagged] s (State.setCause s b) := by
  unfold State.setCause
  refine Only.ite (fun _ => ?_) (fun _ => ?_)
  · refine Only.step (State.setBits_only ..) (by decide) ?_
    exact .refl
  · exact .refl

theorem State.toMode_only (s : State) (m : Mode) : Only [.regs, .mode, .igrel, .ylog, .out, .flagged] s (State.toMode s m) := by
  unfold State.toMode
  dsimp only
  refine Only.step (State.logEvent_only ..) (by decide) ?_
  refine Only.with_mode (by decide) ?_
  refine Only.step (State.setReg_only ..) (by decide) ?_
  exact .refl

theorem State.conflict_only (s : State) (key : ℕ) : Only [.regs, .igrel, .ylog, .out, .flagged] s (State.conflict s key) := by
  unfold State.conflict
  refine Only.step (State.logEvent_only ..) (by decide) ?_
  refine Only.step (State.bump_only ..) (by decide) ?_
  exact .refl

/-! ### Wire -/

theorem State.sendCredits_only (s : State) (l : List (ℕ × ℕ × ℕ)) : Only [.out] s (State.sendCredits s l) := by
  unfold State.sendCredits
  refine Only.step (State.emitAll_only ..) (by decide) ?_
  exact .refl

/-! ### Memory -/

theorem State.askMem_only (s : State) (who : MemUser) (write : Bool) (bursts : ℕ) : Only [.dram] s (State.askMem s who write bursts) := by
  unfold State.askMem
  refine Only.ite (fun _ => ?_) (fun _ => ?_)
  · exact .refl
  · dsimp only
    refine Only.ite (fun _ => ?_) (fun _ => ?_)
    · refine Only.with_dram (by decide) ?_
      exact .refl
    · refine Only.with_dram (by decide) ?_
      exact .refl

theorem State.dropMem_only (s : State) (who : MemUser) : Only [.dram] s (State.dropMem s who) := by
  unfold State.dropMem
  refine Only.with_dram (by decide) ?_
  exact .refl

theorem State.promoteAged_only (s : State) : Only [.dram] s (State.promoteAged s) := by
  unfold State.promoteAged
  refine Only.ite (fun _ => ?_) (fun _ => ?_)
  · exact .refl
  · refine Only.with_dram (by decide) ?_
    exact .refl

theorem State.memSlot_only (s : State) : Only [.dram, .out] s (State.memSlot s) := by
  unfold State.memSlot
  refine Only.ite (fun _ => ?_) (fun _ => ?_)
  · exact .refl
  · dsimp only
    split
    · refine Only.step (State.promoteAged_only ..) (by decide) ?_
      exact .refl
    · refine Only.step (State.emit_only ..) (by decide) ?_
      refine Only.with_dram (by decide) ?_
      refine Only.step (State.promoteAged_only ..) (by decide) ?_
      exact .refl

theorem State.writeMem_only (s : State) (who : MemUser) (cells : List (ℕ × Byte)) : Only [.dram] s (State.writeMem s who cells) := by
  unfold State.writeMem
  dsimp only
  refine Only.with_dram (by decide) ?_
  refine Only.step (State.askMem_only ..) (by decide) ?_
  refine Only.step (State.askMem_only ..) (by decide) ?_
  exact .refl

/-! ### Store -/

theorem State.modPage_only (s : State) (id : ℕ) (f : Page → Page) : Only [.raster] s (State.modPage s id f) := by
  unfold State.modPage
  refine Only.with_raster (by decide) ?_
  exact .refl

theorem State.freeRing_only (s : State) (k : ℕ) : Only [.regs, .raster] s (State.freeRing s k) := by
  unfold State.freeRing
  dsimp only
  refine Only.ite (fun _ => ?_) (fun _ => ?_)
  · exact .refl
  · refine Only.with_raster (by decide) ?_
    refine Only.step (State.setReg_only ..) (by decide) ?_
    refine Only.step (State.setRing_only ..) (by decide) ?_
    exact .refl

theorem State.freeRings_only (s : State) (x1 : List ℕ) : Only [.regs, .raster] s (State.freeRings s x1) := by
  induction x1 generalizing s with | nil => ?_ | cons y l ih => ?_
  · simp only [State.freeRings]
    exact .refl
  · simp only [State.freeRings]
    refine Only.trans (ih ..) ?_
    refine Only.step (State.freeRing_only ..) (by decide) ?_
    exact .refl

theorem State.resend_only (s : State) (k : ℕ) : Only [.regs, .raster, .out] s (State.resend s k) := by
  unfold State.resend
  refine Only.ite (fun _ => ?_) (fun _ => ?_)
  · refine Only.ite (fun _ => ?_) (fun _ => ?_)
    · exact .refl
    · refine Only.with_raster (by decide) ?_
      exact .refl
  · dsimp only
    refine Only.with_raster (by decide) ?_
    refine Only.step (State.bump_only ..) (by decide) ?_
    refine Only.step (State.sendCredits_only ..) (by decide) ?_
    exact .refl

theorem State.grantFull_only (s : State) (k : ℕ) : Only [.regs, .raster] s (State.grantFull s k) := by
  unfold State.grantFull
  dsimp only
  refine Only.step (State.bump_only ..) (by decide) ?_
  refine Only.with_raster (by decide) ?_
  refine Only.step (State.setReg_only ..) (by decide) ?_
  exact .refl

theorem State.grantEach_only (s : State) (x1 : List ℕ) : Only [.regs, .raster] s (State.grantEach s x1) := by
  induction x1 generalizing s with | nil => ?_ | cons y l ih => ?_
  · simp only [State.grantEach]
    exact .refl
  · simp only [State.grantEach]
    refine Only.trans (ih ..) ?_
    refine Only.step (State.grantFull_only ..) (by decide) ?_
    exact .refl

theorem State.grantAll_only (s : State) (l : List ℕ) : Only [.regs, .raster, .out] s (State.grantAll s l) := by
  unfold State.grantAll
  refine Only.step (State.sendCredits_only ..) (by decide) ?_
  refine Only.step (State.grantEach_only ..) (by decide) ?_
  exact .refl

theorem State.storeBlock_only (s : State) (k : ℕ) (wax : List Byte) : Only [.regs, .raster, .dram] s (State.storeBlock s k wax) := by
  unfold State.storeBlock
  dsimp only
  refine Only.step (State.count_only ..) (by decide) ?_
  refine Only.step (State.bump_only ..) (by decide) ?_
  refine Only.step (State.setReg_only ..) (by decide) ?_
  refine Only.step (State.setReg_only ..) (by decide) ?_
  refine Only.step (State.setReg_only ..) (by decide) ?_
  refine Only.with_raster (by decide) ?_
  refine Only.step (State.setRing_only ..) (by decide) ?_
  refine Only.step (State.writeMem_only ..) (by decide) ?_
  exact .refl

theorem State.intake_only (s : State) (k : ℕ) (wax : List Byte) : Only [.regs, .raster, .dram, .out] s (State.intake s k wax) := by
  unfold State.intake
  refine Only.ite (fun _ => ?_) (fun _ => ?_)
  · refine Only.step (State.resend_only ..) (by decide) ?_
    refine Only.step (State.bump_only ..) (by decide) ?_
    exact .refl
  · refine Only.ite (fun _ => ?_) (fun _ => ?_)
    · refine Only.step (State.resend_only ..) (by decide) ?_
      refine Only.step (State.bump_only ..) (by decide) ?_
      refine Only.step (State.bump_only ..) (by decide) ?_
      exact .refl
    · refine Only.step (State.storeBlock_only ..) (by decide) ?_
      exact .refl

theorem State.setCommitted_only (s : State) (x1 : List (ℕ × ℕ)) : Only [.regs] s (State.setCommitted s x1) := by
  induction x1 generalizing s with | nil => ?_ | cons y l ih => ?_
  · simp only [State.setCommitted]
    exact .refl
  · simp only [State.setCommitted]
    refine Only.trans (ih ..) ?_
    refine Only.step (State.setReg_only ..) (by decide) ?_
    exact .refl

theorem State.startAt_only (s : State) (first : ℕ) : Only [.regs, .decomp, .taper] s (State.startAt s first) := by
  unfold State.startAt
  dsimp only
  refine Only.foldl (fun t x => ?_) ?_
  · refine Only.step (State.setReg_only ..) (by decide) ?_
    refine Only.step (State.setGroup_only ..) (by decide) ?_
    exact .refl
  · refine Only.with_decomp (by decide) ?_
    exact .refl

theorem State.startJoin_only (s : State) (first : ℕ) (line : ℕ) :
    Only [.regs, .raster, .decomp, .taper] s (State.startJoin s first line) := by
  unfold State.startJoin
  dsimp only
  refine Only.foldl (fun t x => ?_) ?_
  · refine Only.step (State.setReg_only ..) (by decide) ?_
    refine Only.step (State.setGroup_only ..) (by decide) ?_
    exact .refl
  · refine Only.with_raster_decomp (by decide) ?_
    exact .refl

theorem State.startPages_only (s : State) (first : ℕ) : Only [.regs, .raster, .decomp, .taper] s (State.startPages s first) := by
  unfold State.startPages
  split
  · refine Only.ite (fun _ => ?_) (fun _ => ?_)
    · refine Only.step (State.startJoin_only ..) (by decide) ?_
      exact .refl
    · refine Only.step (State.startAt_only ..) (by decide) ?_
      exact .refl
  · refine Only.step (State.startAt_only ..) (by decide) ?_
    exact .refl

theorem State.acceptCommit_only (s : State) (c : CommitReq) : Only [.regs, .raster, .decomp, .taper] s (State.acceptCommit s c) := by
  unfold State.acceptCommit
  dsimp only
  refine Only.with_raster (by decide) ?_
  refine Only.step (State.setReg_only ..) (by decide) ?_
  refine Only.ite (fun _ => ?_) (fun _ => ?_)
  · refine Only.step (State.startPages_only ..) (by decide) ?_
    refine Only.step (State.setCommitted_only ..) (by decide) ?_
    exact .refl
  · refine Only.step (State.setCommitted_only ..) (by decide) ?_
    exact .refl

/-! ### Decomp -/

theorem State.waxError_only (s : State) (k : ℕ) (err : WaxErr) :
    Only [.regs, .igrel, .decomp, .ylog, .out, .flagged] s (State.waxError s k err) := by
  unfold State.waxError
  split
  refine Only.ite (fun _ => ?_) (fun _ => ?_)
  · exact .refl
  · dsimp only
    refine Only.ite (fun _ => ?_) (fun _ => ?_)
    · refine Only.step (State.setReg_only ..) (by decide) ?_
      refine Only.step (State.bump_only ..) (by decide) ?_
      exact .refl
    · refine Only.step (State.logEvent_only ..) (by decide) ?_
      refine Only.step (State.setCtx_only ..) (by decide) ?_
      refine Only.step (State.setReg_only ..) (by decide) ?_
      refine Only.step (State.bump_only ..) (by decide) ?_
      exact .refl

theorem State.noteErrs_only (s : State) (k : ℕ) (x2 : List WaxErr) :
    Only [.regs, .igrel, .decomp, .ylog, .out, .flagged] s (State.noteErrs s k x2) := by
  induction x2 generalizing s k with | nil => ?_ | cons y l ih => ?_
  · simp only [State.noteErrs]
    exact .refl
  · simp only [State.noteErrs]
    refine Only.trans (ih ..) ?_
    refine Only.step (State.waxError_only ..) (by decide) ?_
    exact .refl

theorem State.noteImage_only (s : State) (k : ℕ) (c : CtxState) : Only [.twin] s (State.noteImage s k c) := by
  unfold State.noteImage
  split
  · exact .refl
  · refine Only.ite (fun _ => ?_) (fun _ => ?_)
    · refine Only.with_twin (by decide) ?_
      exact .refl
    · exact .refl

theorem State.withoutStale_only (s : State) (k : ℕ) (next : ℕ) : Only [.decomp] s (State.withoutStale s k next) := by
  unfold State.withoutStale
  refine Only.with_decomp (by decide) ?_
  exact .refl

theorem State.advance_only (s : State) (k : ℕ) (st : CtxState) : Only [.regs, .decomp] s (State.advance s k st) := by
  unfold State.advance
  dsimp only
  refine Only.step (State.withoutStale_only ..) (by decide) ?_
  refine Only.step (State.setReg_only ..) (by decide) ?_
  refine Only.step (State.setCtx_only ..) (by decide) ?_
  exact .refl

theorem State.passAhead_only (s : State) (k : ℕ) : Only [.regs, .decomp] s (State.passAhead s k) := by
  unfold State.passAhead
  split
  · refine Only.step (State.advance_only ..) (by decide) ?_
    exact .refl
  · exact .refl

theorem State.ckptStep_only {s : State} {k : Nat} {u : State} (h : s.ckptStep k = some u) : Only [.regs, .decomp, .twin] s u := by
  unfold State.ckptStep at h
  dsimp only at h
  split at h
  · cases h
  · cases h
    refine Only.step (State.noteImage_only ..) (by decide) ?_
    refine Only.step (State.setReg_only ..) (by decide) ?_
    refine Only.step (State.setCtx_only ..) (by decide) ?_
    exact Only.mono (State.passAhead_only ..) (by decide)

theorem State.ckptTo_only (s : State) (k : ℕ) (n : ℕ) (x3 : ℕ) : Only [.regs, .decomp, .twin] s (State.ckptTo s k n x3) := by
  induction x3 generalizing s k n with | zero => ?_ | succ k ih => ?_
  · simp only [State.ckptTo]
    exact .refl
  · simp only [State.ckptTo]
    refine Only.ite (fun _ => ?_) (fun _ => ?_)
    · exact .refl
    · split
      · exact .refl
      · refine Only.trans (ih ..) ?_
        refine Only.step (State.ckptStep_only (by assumption)) (by decide) ?_
        exact .refl

theorem State.ckptAll_only (s : State) (n : ℕ) (x2 : List ℕ) : Only [.regs, .raster, .decomp, .twin] s (State.ckptAll s n x2) := by
  induction x2 generalizing s n with | nil => ?_ | cons y l ih => ?_
  · simp only [State.ckptAll]
    exact .refl
  · simp only [State.ckptAll]
    refine Only.trans (ih ..) ?_
    refine Only.step (State.freeRing_only ..) (by decide) ?_
    refine Only.step (State.ckptTo_only ..) (by decide) ?_
    exact .refl

theorem State.takeJob_only (s : State) (e : ℕ) : Only [.decomp, .dram] s (State.takeJob s e) := by
  unfold State.takeJob
  refine Only.ite (fun _ => ?_) (fun _ => ?_)
  · exact .refl
  · split
    · exact .refl
    · refine Only.step (State.askMem_only ..) (by decide) ?_
      refine Only.with_decomp (by decide) ?_
      exact .refl

theorem State.takeJobs_only (s : State) : Only [.decomp, .dram] s (State.takeJobs s) := by
  unfold State.takeJobs
  dsimp only
  refine Only.foldl (fun t x => ?_) ?_
  · refine Only.step (State.takeJob_only ..) (by decide) ?_
    exact .refl
  · refine Only.with_decomp (by decide) ?_
    exact .refl

theorem State.addJobs_only (s : State) (js : List Job) : Only [.decomp, .dram] s (State.addJobs s js) := by
  unfold State.addJobs
  refine Only.step (State.takeJobs_only ..) (by decide) ?_
  refine Only.with_decomp (by decide) ?_
  exact .refl

theorem State.noteHeld_only (s : State) (k : ℕ) : Only [.regs] s (State.noteHeld s k) := by
  unfold State.noteHeld
  refine Only.ite (fun _ => ?_) (fun _ => ?_)
  · refine Only.step (State.setReg_only ..) (by decide) ?_
    exact .refl
  · exact .refl

theorem State.putLine_only (s : State) (k : ℕ) (n : ℕ) (l : List Byte) : Only [.regs, .slots] s (State.putLine s k n l) := by
  unfold State.putLine
  refine Only.ite (fun _ => ?_) (fun _ => ?_)
  · exact .refl
  · split
    dsimp only
    refine Only.step (State.noteHeld_only ..) (by decide) ?_
    refine Only.step (State.setSlots_only ..) (by decide) ?_
    exact .refl

theorem State.ckptUp_only (s : State) (k : ℕ) : Only [.regs, .raster, .decomp, .twin] s (State.ckptUp s k) := by
  unfold State.ckptUp
  refine Only.ite (fun _ => ?_) (fun _ => ?_)
  · refine Only.step (State.ckptAll_only ..) (by decide) ?_
    exact .refl
  · exact .refl

theorem State.completeJob_only (s : State) (j : Job) :
    Only [.regs, .igrel, .raster, .decomp, .slots, .twin, .ylog, .out, .flagged] s (State.completeJob s j) := by
  unfold State.completeJob
  dsimp only
  refine Only.ite (fun _ => ?_) (fun _ => ?_)
  · exact .refl
  · split
    · exact .refl
    · refine Only.ite (fun _ => ?_) (fun _ => ?_)
      · refine Only.step (State.bump_only ..) (by decide) ?_
        refine Only.step (State.noteErrs_only ..) (by decide) ?_
        exact .refl
      · refine Only.step (State.ckptUp_only ..) (by decide) ?_
        refine Only.step (State.putLine_only ..) (by decide) ?_
        refine Only.step (State.advance_only ..) (by decide) ?_
        refine Only.step (State.bump_only ..) (by decide) ?_
        refine Only.step (State.noteErrs_only ..) (by decide) ?_
        exact .refl
    · refine Only.ite (fun _ => ?_) (fun _ => ?_)
      · refine Only.step (State.noteErrs_only ..) (by decide) ?_
        exact .refl
      · refine Only.step (State.ckptUp_only ..) (by decide) ?_
        refine Only.step (State.advance_only ..) (by decide) ?_
        refine Only.step (State.noteErrs_only ..) (by decide) ?_
        exact .refl

theorem State.decodeTo_only (s : State) (k : ℕ) (n : ℕ) (x3 : ℕ) :
    Only [.regs, .igrel, .raster, .decomp, .slots, .twin, .ylog, .out, .flagged] s (State.decodeTo s k n x3) := by
  induction x3 generalizing s k n with | zero => ?_ | succ k ih => ?_
  · simp only [State.decodeTo]
    exact .refl
  · simp only [State.decodeTo]
    refine Only.ite (fun _ => ?_) (fun _ => ?_)
    · exact .refl
    · refine Only.trans (ih ..) ?_
      refine Only.step (State.completeJob_only ..) (by decide) ?_
      exact .refl

theorem State.decodeAll_only (s : State) (n : ℕ) (x2 : List ℕ) :
    Only [.regs, .igrel, .raster, .decomp, .slots, .twin, .ylog, .out, .flagged] s (State.decodeAll s n x2) := by
  induction x2 generalizing s n with | nil => ?_ | cons y l ih => ?_
  · simp only [State.decodeAll]
    exact .refl
  · simp only [State.decodeAll]
    refine Only.trans (ih ..) ?_
    refine Only.step (State.decodeTo_only ..) (by decide) ?_
    exact .refl

theorem State.orderRewind_only (s : State) (cancel : Bool) (line : ℕ) (k : ℕ) : Only [.decomp] s (State.orderRewind s cancel line k) := by
  unfold State.orderRewind
  dsimp only
  refine Only.with_decomp (by decide) ?_
  refine Only.step (State.setCtx_only ..) (by decide) ?_
  exact .refl

theorem State.takeImage_only (s : State) (k : ℕ) (b : List Byte) : Only [.regs, .decomp] s (State.takeImage s k b) := by
  unfold State.takeImage
  dsimp only
  refine Only.step (State.setReg_only ..) (by decide) ?_
  refine Only.step (State.setReg_only ..) (by decide) ?_
  refine Only.step (State.setCtx_only ..) (by decide) ?_
  exact .refl

/-! ### Wick -/

theorem State.setLevel_only (s : State) (p : ℕ) (v : ℤ) : Only [.regs, .wick, .flagged] s (State.setLevel s p v) := by
  unfold State.setLevel
  dsimp only
  refine Only.with_wick (by decide) ?_
  refine Only.ite (fun _ => ?_) (fun _ => ?_)
  · refine Only.step (State.setBits_only ..) (by decide) ?_
    exact .refl
  · exact .refl

theorem State.chargePool_only (s : State) (p : ℕ) (e : ℕ) : Only [.regs, .wick, .flagged] s (State.chargePool s p e) := by
  unfold State.chargePool
  refine Only.step (State.setLevel_only ..) (by decide) ?_
  exact .refl

theorem State.refundPool_only (s : State) (p : ℕ) (e : ℕ) : Only [.regs, .wick, .flagged] s (State.refundPool s p e) := by
  unfold State.refundPool
  refine Only.ite (fun _ => ?_) (fun _ => ?_)
  · exact .refl
  · refine Only.step (State.setLevel_only ..) (by decide) ?_
    exact .refl

theorem State.refill_only (s : State) : Only [.regs, .wick, .flagged] s (State.refill s) := by
  unfold State.refill
  dsimp only
  refine Only.step (State.setLevel_only ..) (by decide) ?_
  refine Only.step (State.setLevel_only ..) (by decide) ?_
  refine Only.step (State.setLevel_only ..) (by decide) ?_
  exact .refl

theorem State.countPools_only (s : State) (f : ℕ → ℕ) (x2 : List (ℕ × ℕ)) : Only [.regs] s (State.countPools s f x2) := by
  induction x2 generalizing s f with | nil => ?_ | cons y l ih => ?_
  · simp only [State.countPools]
    exact .refl
  · simp only [State.countPools]
    refine Only.trans (ih ..) ?_
    refine Only.step (State.bump_only ..) (by decide) ?_
    exact .refl

theorem State.chargeAll_only (s : State) (x1 : List (ℕ × ℕ)) : Only [.regs, .wick, .flagged] s (State.chargeAll s x1) := by
  induction x1 generalizing s with | nil => ?_ | cons y l ih => ?_
  · simp only [State.chargeAll]
    exact .refl
  · simp only [State.chargeAll]
    refine Only.trans (ih ..) ?_
    refine Only.step (State.chargePool_only ..) (by decide) ?_
    exact .refl

theorem State.noteQueued_only (s : State) : Only [.regs] s (State.noteQueued s) := by
  unfold State.noteQueued
  dsimp only
  refine Only.step (State.setReg_only ..) (by decide) ?_
  refine Only.step (State.setReg_only ..) (by decide) ?_
  refine Only.step (State.setReg_only ..) (by decide) ?_
  exact .refl

theorem State.giveLeave_only (s : State) (r : WickReq) : Only [.regs, .wick, .flagged] s (State.giveLeave s r) := by
  unfold State.giveLeave
  dsimp only
  refine Only.with_wick (by decide) ?_
  refine Only.step (State.countPools_only ..) (by decide) ?_
  refine Only.step (State.chargeAll_only ..) (by decide) ?_
  exact .refl

theorem State.refuseLeave_only (s : State) (r : WickReq) : Only [.regs, .flagged] s (State.refuseLeave s r) := by
  unfold State.refuseLeave
  refine Only.step (State.setBits_only ..) (by decide) ?_
  refine Only.step (State.countPools_only ..) (by decide) ?_
  exact .refl

theorem State.ask_only (s : State) (r : WickReq) : Only [.regs, .wick, .flagged] s (State.ask s r).2 := by
  unfold State.ask
  split
  · split
    · dsimp only
      refine Only.with_wick (by decide) ?_
      exact .refl
    · dsimp only
      refine Only.step (State.giveLeave_only ..) (by decide) ?_
      exact .refl
  · split
    · dsimp only
      exact .refl
    · split
      · dsimp only
        refine Only.step (State.refuseLeave_only ..) (by decide) ?_
        exact .refl
      · split
        · dsimp only
          refine Only.step (State.giveLeave_only ..) (by decide) ?_
          exact .refl
        · dsimp only
          split
          · dsimp only
            refine Only.step (State.noteQueued_only ..) (by decide) ?_
            refine Only.with_wick (by decide) ?_
            refine Only.step (State.countPools_only ..) (by decide) ?_
            exact .refl
          · dsimp only
            refine Only.step (State.countPools_only ..) (by decide) ?_
            exact .refl

theorem State.unqueue_only (s : State) (id : ℕ) : Only [.regs, .wick] s (State.unqueue s id) := by
  unfold State.unqueue
  refine Only.step (State.noteQueued_only ..) (by decide) ?_
  refine Only.with_wick (by decide) ?_
  exact .refl

theorem State.useLeave_only (s : State) (r : Requester) : Only [.wick] s (State.useLeave s r) := by
  unfold State.useLeave
  refine Only.with_wick (by decide) ?_
  exact .refl

theorem State.endPurge_only (s : State) : Only [.regs, .wick] s (State.endPurge s) := by
  unfold State.endPurge
  refine Only.step (State.noteQueued_only ..) (by decide) ?_
  refine Only.with_wick (by decide) ?_
  exact .refl

theorem State.refuseEach_only (s : State) (x1 : List WickWait) : Only [.regs, .wick, .flagged] s (State.refuseEach s x1) := by
  induction x1 generalizing s with | nil => ?_ | cons y l ih => ?_
  · simp only [State.refuseEach]
    exact .refl
  · simp only [State.refuseEach]
    refine Only.trans (ih ..) ?_
    refine Only.step (State.refuseLeave_only ..) (by decide) ?_
    refine Only.step (State.unqueue_only ..) (by decide) ?_
    exact .refl

theorem State.withdrawEach_only (s : State) (x1 : List WickReq) : Only [.regs, .wick, .flagged] s (State.withdrawEach s x1) := by
  induction x1 generalizing s with | nil => ?_ | cons y l ih => ?_
  · simp only [State.withdrawEach]
    exact .refl
  · simp only [State.withdrawEach]
    refine Only.trans (ih ..) ?_
    refine Only.step (State.useLeave_only ..) (by decide) ?_
    refine Only.foldl (fun t x => ?_) ?_
    · refine Only.step (State.refundPool_only ..) (by decide) ?_
      exact .refl
    · exact .refl

theorem State.wickSnuff_only (s : State) : Only [.regs, .wick, .flagged] s (State.wickSnuff s) := by
  unfold State.wickSnuff
  dsimp only
  refine Only.step (State.endPurge_only ..) (by decide) ?_
  refine Only.step (State.withdrawEach_only ..) (by decide) ?_
  refine Only.step (State.refuseEach_only ..) (by decide) ?_
  exact .refl

theorem State.tagOutcome_only (s : State) (n : ℕ) (o : WickOut) (x3 : List ℕ) : Only [.slots] s (State.tagOutcome s n o x3) := by
  induction x3 generalizing s n o with | nil => ?_ | cons y l ih => ?_
  · simp only [State.tagOutcome]
    exact .refl
  · simp only [State.tagOutcome]
    refine Only.trans (ih ..) ?_
    refine Only.step (State.setSlots_only ..) (by decide) ?_
    exact .refl

theorem State.holdDecision_only (s : State) (g : ℕ) (n : ℕ) (o : WickOut) (charge : ℕ) :
    Only [.slots, .taper] s (State.holdDecision s g n o charge) := by
  unfold State.holdDecision
  dsimp only
  refine Only.step (State.tagOutcome_only ..) (by decide) ?_
  refine Only.with_taper (by decide) ?_
  exact .refl

theorem State.noteOutcome_only (s : State) (g : ℕ) (n : ℕ) (o : WickOut) :
    Only [.regs, .igrel, .taper, .ylog, .out, .flagged] s (State.noteOutcome s g n o) := by
  unfold State.noteOutcome
  dsimp only
  split
  · exact .refl
  · refine Only.ite (fun _ => ?_) (fun _ => ?_)
    · refine Only.step (State.logEvent_only ..) (by decide) ?_
      refine Only.step (State.setGroup_only ..) (by decide) ?_
      refine Only.step (State.setBits_only ..) (by decide) ?_
      refine Only.step (State.bump_only ..) (by decide) ?_
      exact .refl
    · refine Only.step (State.setBits_only ..) (by decide) ?_
      refine Only.step (State.bump_only ..) (by decide) ?_
      exact .refl
  · refine Only.ite (fun _ => ?_) (fun _ => ?_)
    · refine Only.step (State.logEvent_only ..) (by decide) ?_
      refine Only.step (State.setGroup_only ..) (by decide) ?_
      exact .refl
    · exact .refl

theorem State.refundLine_only (s : State) (g : ℕ) (n : ℕ) : Only [.regs, .taper, .wick, .flagged] s (State.refundLine s g n) := by
  unfold State.refundLine
  split
  · exact .refl
  · dsimp only
    refine Only.step (State.refundPool_only ..) (by decide) ?_
    refine Only.with_taper (by decide) ?_
    exact .refl

theorem State.dropDecision_only (s : State) (g : ℕ) (n : ℕ) : Only [.taper] s (State.dropDecision s g n) := by
  unfold State.dropDecision
  refine Only.with_taper (by decide) ?_
  exact .refl

theorem State.refundFrom_only (s : State) (g : ℕ) (n : ℕ) : Only [.regs, .taper, .wick, .flagged] s (State.refundFrom s g n) := by
  unfold State.refundFrom
  refine Only.foldl (fun t x => ?_) ?_
  · refine Only.step (State.refundLine_only ..) (by decide) ?_
    exact .refl
  · exact .refl

/-! ### Head -/

theorem State.sendHead_only (s : State) (ty : ℕ) (role : Role) (m : ℕ) (row : ℕ) (seq : ℕ) (payload : List Byte) :
    Only [.out] s (State.sendHead s ty role m row seq payload) := by
  unfold State.sendHead
  refine Only.step (State.emit_only ..) (by decide) ?_
  exact .refl

theorem State.sendCtrl_only (s : State) (m : ℕ) (op : ℕ) (args : List Byte) : Only [.heads, .out] s (State.sendCtrl s m op args) := by
  unfold State.sendCtrl
  dsimp only
  refine Only.step (State.sendHead_only ..) (by decide) ?_
  refine Only.step (State.setHead_only ..) (by decide) ?_
  exact .refl

theorem State.ctrlAll_only (s : State) (op : ℕ) (args : List Byte) (x3 : List ℕ) : Only [.heads, .out] s (State.ctrlAll s op args x3) := by
  induction x3 generalizing s op args with | nil => ?_ | cons y l ih => ?_
  · simp only [State.ctrlAll]
    exact .refl
  · simp only [State.ctrlAll]
    refine Only.trans (ih ..) ?_
    refine Only.step (State.sendCtrl_only ..) (by decide) ?_
    exact .refl

theorem State.tellState_only (s : State) : Only [.heads, .out] s (State.tellState s) := by
  unfold State.tellState
  refine Only.step (State.ctrlAll_only ..) (by decide) ?_
  exact .refl

theorem State.fireReset_only (s : State) : Only [.heads, .out] s (State.fireReset s) := by
  unfold State.fireReset
  refine Only.ite (fun _ => ?_) (fun _ => ?_)
  · exact .refl
  · refine Only.step (State.ctrlAll_only ..) (by decide) ?_
    exact .refl

theorem State.sendTrim_only (s : State) (m : ℕ) : Only [.out] s (State.sendTrim s m) := by
  unfold State.sendTrim
  dsimp only
  refine Only.foldl (fun t x => ?_) ?_
  · refine Only.step (State.sendHead_only ..) (by decide) ?_
    exact .refl
  · exact .refl

theorem State.sendTrims_only (s : State) (l : List ℕ) : Only [.out] s (State.sendTrims s l) := by
  unfold State.sendTrims
  refine Only.foldl (fun t x => ?_) ?_
  · refine Only.step (State.sendTrim_only ..) (by decide) ?_
    exact .refl
  · exact .refl

theorem State.sendTime_only (s : State) (m : ℕ) : Only [.heads, .out] s (State.sendTime s m) := by
  unfold State.sendTime
  dsimp only
  refine Only.step (State.sendHead_only ..) (by decide) ?_
  refine Only.step (State.setHead_only ..) (by decide) ?_
  exact .refl

theorem State.sendTimes_only (s : State) (x1 : List ℕ) : Only [.heads, .out] s (State.sendTimes s x1) := by
  induction x1 generalizing s with | nil => ?_ | cons y l ih => ?_
  · simp only [State.sendTimes]
    exact .refl
  · simp only [State.sendTimes]
    refine Only.trans (ih ..) ?_
    refine Only.step (State.sendTime_only ..) (by decide) ?_
    exact .refl

theorem State.laneFlag_only (s : State) (m : ℕ) (mask : ℕ) : Only [.regs, .flagged] s (State.laneFlag s m mask) := by
  unfold State.laneFlag
  refine Only.step (State.setBits_only ..) (by decide) ?_
  exact .refl

/-! ### Strip -/

theorem State.modSlot_only (s : State) (st : ℕ) (n : ℕ) (f : Slot → Slot) : Only [.slots] s (State.modSlot s st n f) := by
  unfold State.modSlot
  refine Only.step (State.setSlots_only ..) (by decide) ?_
  exact .refl

theorem State.trimSlots_only (s : State) (st : ℕ) : Only [.regs, .slots] s (State.trimSlots s st) := by
  unfold State.trimSlots
  dsimp only
  refine Only.step (State.noteHeld_only ..) (by decide) ?_
  refine Only.step (State.setSlots_only ..) (by decide) ?_
  exact .refl

theorem State.slotState_only (s : State) (n : ℕ) (x : SlotSt) (x3 : List ℕ) : Only [.regs, .slots] s (State.slotState s n x x3) := by
  induction x3 generalizing s n x with | nil => ?_ | cons y l ih => ?_
  · simp only [State.slotState]
    exact .refl
  · simp only [State.slotState]
    refine Only.trans (ih ..) ?_
    refine Only.step (State.trimSlots_only ..) (by decide) ?_
    refine Only.step (State.modSlot_only ..) (by decide) ?_
    exact .refl

/-! ### Lines -/

theorem State.report_only (s : State) (kind : ℕ) (index : ℕ) (body : List Byte) :
    Only [.twin, .chans] s (State.report s kind index body) := by
  unfold State.report
  refine Only.ite (fun _ => ?_) (fun _ => ?_)
  · refine Only.ite (fun _ => ?_) (fun _ => ?_)
    · refine Only.with_twin (by decide) ?_
      exact .refl
    · exact .refl
  · dsimp only
    refine Only.step (State.setChan_only ..) (by decide) ?_
    exact .refl

theorem State.stripFired_only (s : State) (n : ℕ) (gen : ℕ) (o : WickOut) (k : ℕ) : Only [.regs] s (State.stripFired s n gen o k) := by
  unfold State.stripFired
  dsimp only
  split
  · refine Only.step (State.bump_only ..) (by decide) ?_
    exact .refl
  · refine Only.step (State.count_only ..) (by decide) ?_
    refine Only.step (State.count_only ..) (by decide) ?_
    refine Only.step (State.count_only ..) (by decide) ?_
    refine Only.step (State.count_only ..) (by decide) ?_
    refine Only.step (State.count_only ..) (by decide) ?_
    refine Only.step (State.count_only ..) (by decide) ?_
    refine Only.step (State.bump_only ..) (by decide) ?_
    exact .refl

theorem State.stripsFired_only (s : State) (n : ℕ) (gen : ℕ) (o : WickOut) (x4 : List ℕ) :
    Only [.regs] s (State.stripsFired s n gen o x4) := by
  induction x4 generalizing s n gen o with | nil => ?_ | cons y l ih => ?_
  · simp only [State.stripsFired]
    exact .refl
  · simp only [State.stripsFired]
    refine Only.trans (ih ..) ?_
    refine Only.step (State.stripFired_only ..) (by decide) ?_
    exact .refl

theorem State.bumpEach_only (s : State) (f : ℕ → ℕ) (x2 : List ℕ) : Only [.regs] s (State.bumpEach s f x2) := by
  induction x2 generalizing s f with | nil => ?_ | cons y l ih => ?_
  · simp only [State.bumpEach]
    exact .refl
  · simp only [State.bumpEach]
    refine Only.trans (ih ..) ?_
    refine Only.step (State.bump_only ..) (by decide) ?_
    exact .refl

theorem State.confirmBooks_only (s : State) (flags : ℕ) (lateArm : Bool) : Only [.regs] s (State.confirmBooks s flags lateArm) := by
  unfold State.confirmBooks
  refine Only.ite (fun _ => ?_) (fun _ => ?_)
  · dsimp only
    refine Only.ite (fun _ => ?_) (fun _ => ?_)
    · refine Only.step (State.bump_only ..) (by decide) ?_
      refine Only.ite (fun _ => ?_) (fun _ => ?_)
      · refine Only.step (State.bump_only ..) (by decide) ?_
        refine Only.ite (fun _ => ?_) (fun _ => ?_)
        · refine Only.step (State.bump_only ..) (by decide) ?_
          refine Only.step (State.bump_only ..) (by decide) ?_
          exact .refl
        · refine Only.step (State.bump_only ..) (by decide) ?_
          exact .refl
      · refine Only.ite (fun _ => ?_) (fun _ => ?_)
        · refine Only.step (State.bump_only ..) (by decide) ?_
          refine Only.step (State.bump_only ..) (by decide) ?_
          exact .refl
        · refine Only.step (State.bump_only ..) (by decide) ?_
          exact .refl
    · refine Only.ite (fun _ => ?_) (fun _ => ?_)
      · refine Only.step (State.bump_only ..) (by decide) ?_
        refine Only.ite (fun _ => ?_) (fun _ => ?_)
        · refine Only.step (State.bump_only ..) (by decide) ?_
          refine Only.step (State.bump_only ..) (by decide) ?_
          exact .refl
        · refine Only.step (State.bump_only ..) (by decide) ?_
          exact .refl
      · refine Only.ite (fun _ => ?_) (fun _ => ?_)
        · refine Only.step (State.bump_only ..) (by decide) ?_
          refine Only.step (State.bump_only ..) (by decide) ?_
          exact .refl
        · refine Only.step (State.bump_only ..) (by decide) ?_
          exact .refl
  · exact .refl

theorem State.burst_only (s : State) (g : ℕ) (cause : ℕ) (seq : ℕ) :
    Only [.regs, .igrel, .taper, .ylog, .out, .flagged] s (State.burst s g cause seq) := by
  unfold State.burst
  refine Only.ite (fun _ => ?_) (fun _ => ?_)
  · exact .refl
  · dsimp only
    refine Only.ite (fun _ => ?_) (fun _ => ?_)
    · refine Only.step (State.logEvent_only ..) (by decide) ?_
      refine Only.ite (fun _ => ?_) (fun _ => ?_)
      · refine Only.step (State.setCause_only ..) (by decide) ?_
        refine Only.step (State.setGroup_only ..) (by decide) ?_
        exact .refl
      · refine Only.step (State.setGroup_only ..) (by decide) ?_
        exact .refl
    · refine Only.step (State.setGroup_only ..) (by decide) ?_
      exact .refl

theorem State.ledgerEntry_only (s : State) (e : Entry) (total : Option ℕ) :
    Only [.regs, .taper, .twin, .chans] s (State.ledgerEntry s e total) := by
  unfold State.ledgerEntry
  dsimp only
  refine Only.step (State.report_only ..) (by decide) ?_
  refine Only.with_taper (by decide) ?_
  refine Only.step (State.setReg_only ..) (by decide) ?_
  refine Only.ite (fun _ => ?_) (fun _ => ?_)
  · refine Only.step (State.bump_only ..) (by decide) ?_
    exact .refl
  · exact .refl

theorem State.skipBooks_only (s : State) (x : LineSt) (total : Option ℕ) :
    Only [.regs, .igrel, .slots, .taper, .twin, .chans, .wick, .ylog, .out, .flagged] s (State.skipBooks s x total) := by
  unfold State.skipBooks
  dsimp only
  refine Only.step (State.burst_only ..) (by decide) ?_
  refine Only.step (State.slotState_only ..) (by decide) ?_
  refine Only.step (State.refundLine_only ..) (by decide) ?_
  refine Only.ite (fun _ => ?_) (fun _ => ?_)
  · refine Only.step (State.setBits_only ..) (by decide) ?_
    refine Only.step (State.bump_only ..) (by decide) ?_
    refine Only.ite (fun _ => ?_) (fun _ => ?_)
    · refine Only.step (State.bump_only ..) (by decide) ?_
      refine Only.step (State.bumpEach_only ..) (by decide) ?_
      refine Only.step (State.ledgerEntry_only ..) (by decide) ?_
      exact .refl
    · refine Only.step (State.bumpEach_only ..) (by decide) ?_
      refine Only.step (State.ledgerEntry_only ..) (by decide) ?_
      exact .refl
  · refine Only.ite (fun _ => ?_) (fun _ => ?_)
    · refine Only.step (State.bump_only ..) (by decide) ?_
      refine Only.step (State.bumpEach_only ..) (by decide) ?_
      refine Only.step (State.ledgerEntry_only ..) (by decide) ?_
      exact .refl
    · refine Only.step (State.bumpEach_only ..) (by decide) ?_
      refine Only.step (State.ledgerEntry_only ..) (by decide) ?_
      exact .refl

theorem State.fireBooks_only (s : State) (x : LineSt) : Only [.regs, .slots, .taper] s (State.fireBooks s x) := by
  unfold State.fireBooks
  dsimp only
  refine Only.step (State.dropDecision_only ..) (by decide) ?_
  refine Only.step (State.setGroup_only ..) (by decide) ?_
  refine Only.step (State.slotState_only ..) (by decide) ?_
  refine Only.step (State.stripsFired_only ..) (by decide) ?_
  exact .refl

theorem State.pageCount_only (s : State) (n : ℕ) (fired : Bool) : Only [.raster] s (State.pageCount s n fired) := by
  unfold State.pageCount
  split
  · exact .refl
  · refine Only.step (State.modPage_only ..) (by decide) ?_
    exact .refl

theorem State.logPrinted_only (s : State) (g : Option ℕ) (detail : List Byte) :
    Only [.regs, .igrel, .taper, .ylog, .out, .flagged] s (State.logPrinted s g detail) := by
  unfold State.logPrinted
  split
  · refine Only.ite (fun _ => ?_) (fun _ => ?_)
    · refine Only.with_taper (by decide) ?_
      exact .refl
    · refine Only.step (State.logEvent_only ..) (by decide) ?_
      exact .refl
  · refine Only.step (State.logEvent_only ..) (by decide) ?_
    exact .refl

theorem State.closeEach_only (s : State) (g : Option ℕ) (time : ℕ) (x3 : List Page) :
    Only [.regs, .igrel, .raster, .taper, .twin, .chans, .ylog, .out, .flagged] s (State.closeEach s g time x3) := by
  induction x3 generalizing s g time with | nil => ?_ | cons y l ih => ?_
  · simp only [State.closeEach]
    exact .refl
  · simp only [State.closeEach]
    refine Only.trans (ih ..) ?_
    refine Only.ite (fun _ => ?_) (fun _ => ?_)
    · refine Only.step (State.setCause_only ..) (by decide) ?_
      refine Only.step (State.report_only ..) (by decide) ?_
      refine Only.step (State.logPrinted_only ..) (by decide) ?_
      refine Only.with_raster (by decide) ?_
      exact .refl
    · refine Only.step (State.report_only ..) (by decide) ?_
      refine Only.step (State.logPrinted_only ..) (by decide) ?_
      refine Only.with_raster (by decide) ?_
      exact .refl

theorem State.closePages_only (s : State) (g : Option ℕ) (time : ℕ) :
    Only [.regs, .igrel, .raster, .taper, .twin, .chans, .ylog, .out, .flagged] s (State.closePages s g time) := by
  unfold State.closePages
  refine Only.step (State.closeEach_only ..) (by decide) ?_
  exact .refl

theorem State.freeAll_only (s : State) : Only [.regs, .raster] s (State.freeAll s) := by
  unfold State.freeAll
  refine Only.step (State.freeRings_only ..) (by decide) ?_
  exact .refl

theorem State.settle_only (s : State) (x : LineSt) (lateArm : Bool) (total : Option ℕ) :
    Only [.regs, .igrel, .raster, .slots, .taper, .twin, .chans, .wick, .ylog, .out, .flagged] s (State.settle s x lateArm total) := by
  unfold State.settle
  dsimp only
  refine Only.step (State.closePages_only ..) (by decide) ?_
  refine Only.step (State.freeAll_only ..) (by decide) ?_
  refine Only.step (State.pageCount_only ..) (by decide) ?_
  refine Only.ite (fun _ => ?_) (fun _ => ?_)
  · refine Only.step (State.fireBooks_only ..) (by decide) ?_
    refine Only.step (State.confirmBooks_only ..) (by decide) ?_
    exact .refl
  · refine Only.step (State.skipBooks_only ..) (by decide) ?_
    refine Only.step (State.confirmBooks_only ..) (by decide) ?_
    exact .refl

theorem State.holdOwn_only (s : State) (own : Own) : Only [.twin] s (State.holdOwn s own) := by
  unfold State.holdOwn
  refine Only.ite (fun _ => ?_) (fun _ => ?_)
  · refine Only.with_twin (by decide) ?_
    exact .refl
  · refine Only.with_twin (by decide) ?_
    exact .refl

theorem State.passLine_only (s : State) (x : LineSt) (lateArm : Bool) (own : Own) :
    Only [.regs, .igrel, .raster, .slots, .taper, .twin, .chans, .wick, .ylog, .out, .flagged] s (State.passLine s x lateArm own) := by
  unfold State.passLine
  refine Only.ite (fun _ => ?_) (fun _ => ?_)
  · refine Only.step (State.holdOwn_only ..) (by decide) ?_
    exact .refl
  · split
    · refine Only.step (State.holdOwn_only ..) (by decide) ?_
      exact .refl
    · dsimp only
      refine Only.ite (fun _ => ?_) (fun _ => ?_)
      · refine Only.with_twin (by decide) ?_
        refine Only.step (State.settle_only ..) (by decide) ?_
        exact .refl
      · refine Only.step (State.settle_only ..) (by decide) ?_
        exact .refl

theorem State.fireConf_only (s : State) (g : ℕ) (c : Conf) :
    Only [.regs, .igrel, .raster, .slots, .taper, .twin, .chans, .wick, .ylog, .out, .flagged] s (State.fireConf s g c) := by
  unfold State.fireConf
  refine Only.step (State.passLine_only ..) (by decide) ?_
  exact .refl

theorem State.skipConf_only (s : State) (g : ℕ) (c : Conf) (cause : ℕ) (strip : ℕ) :
    Only [.regs, .igrel, .raster, .slots, .taper, .twin, .chans, .wick, .ylog, .out, .flagged] s (State.skipConf s g c cause strip) := by
  unfold State.skipConf
  refine Only.step (State.passLine_only ..) (by decide) ?_
  exact .refl

theorem State.pageIdOf_only (s : State) (n : ℕ) : Only [.freeCtr] s (State.pageIdOf s n).2 := by
  unfold State.pageIdOf
  split
  · dsimp only
    exact .refl
  · refine Only.step (State.fresh_only ..) (by decide) ?_
    exact .refl

theorem State.skipLine_only (s : State) (g : ℕ) (n : ℕ) (cause : ℕ) (strip : ℕ) :
    Only [.regs, .igrel, .raster, .slots, .taper, .twin, .chans, .wick, .ylog, .out, .flagged, .freeCtr] s (State.skipLine s g n cause
      strip) := by
  unfold State.skipLine
  split
  dsimp only
  refine Only.step (State.passLine_only ..) (by decide) ?_
  refine Only.step (State.slotState_only ..) (by decide) ?_
  refine Only.of_snd (by assumption) ?_
  refine Only.step (State.pageIdOf_only ..) (by decide) ?_
  exact .refl

theorem State.noteLead_only (s : State) (raise : Bool) (g : ℕ) :
    Only [.regs, .igrel, .taper, .ylog, .out, .flagged] s (State.noteLead s raise g) := by
  unfold State.noteLead
  dsimp only
  refine Only.ite (fun _ => ?_) (fun _ => ?_)
  · refine Only.step (State.logEvent_only ..) (by decide) ?_
    refine Only.step (State.setGroup_only ..) (by decide) ?_
    refine Only.step (State.setReg_only ..) (by decide) ?_
    exact .refl
  · refine Only.step (State.setReg_only ..) (by decide) ?_
    exact .refl

theorem State.noteLeads_only (s : State) (raise : Bool) (x2 : List ℕ) :
    Only [.regs, .igrel, .taper, .ylog, .out, .flagged] s (State.noteLeads s raise x2) := by
  induction x2 generalizing s raise with | nil => ?_ | cons y l ih => ?_
  · simp only [State.noteLeads]
    exact .refl
  · simp only [State.noteLeads]
    refine Only.trans (ih ..) ?_
    refine Only.step (State.noteLead_only ..) (by decide) ?_
    exact .refl

theorem State.orderRewinds_only (s : State) (cancel : Bool) (line : ℕ) (x3 : List ℕ) :
    Only [.decomp] s (State.orderRewinds s cancel line x3) := by
  induction x3 generalizing s cancel line with | nil => ?_ | cons y l ih => ?_
  · simp only [State.orderRewinds]
    exact .refl
  · simp only [State.orderRewinds]
    refine Only.trans (ih ..) ?_
    refine Only.step (State.orderRewind_only ..) (by decide) ?_
    exact .refl

theorem State.dropTentative_only (s : State) (f : ℕ) (k : ℕ) : Only [.regs, .slots] s (State.dropTentative s f k) := by
  unfold State.dropTentative
  refine Only.step (State.noteHeld_only ..) (by decide) ?_
  refine Only.step (State.setSlots_only ..) (by decide) ?_
  exact .refl

theorem State.dropTentatives_only (s : State) (f : ℕ) (x2 : List ℕ) : Only [.regs, .slots] s (State.dropTentatives s f x2) := by
  induction x2 generalizing s f with | nil => ?_ | cons y l ih => ?_
  · simp only [State.dropTentatives]
    exact .refl
  · simp only [State.dropTentatives]
    refine Only.trans (ih ..) ?_
    refine Only.step (State.dropTentative_only ..) (by decide) ?_
    exact .refl

theorem State.cancelGroup_only (s : State) (swap : Option ℕ) (g : ℕ) (f : ℕ) :
    Only [.regs, .decomp, .slots, .taper, .twin, .wick, .flagged] s (State.cancelGroup s swap g f) := by
  unfold State.cancelGroup
  dsimp only
  split
  · refine Only.step (State.orderRewinds_only ..) (by decide) ?_
    refine Only.step (State.setGroup_only ..) (by decide) ?_
    refine Only.step (State.dropTentatives_only ..) (by decide) ?_
    refine Only.with_twin (by decide) ?_
    refine Only.step (State.refundFrom_only ..) (by decide) ?_
    exact .refl
  · refine Only.step (State.orderRewinds_only ..) (by decide) ?_
    refine Only.step (State.setGroup_only ..) (by decide) ?_
    refine Only.step (State.dropTentatives_only ..) (by decide) ?_
    refine Only.with_twin (by decide) ?_
    refine Only.step (State.refundFrom_only ..) (by decide) ?_
    exact .refl

theorem State.cancelGroups_only (s : State) (swap : Option ℕ) (x2 : List (ℕ × ℕ)) :
    Only [.regs, .decomp, .slots, .taper, .twin, .wick, .flagged] s (State.cancelGroups s swap x2) := by
  induction x2 generalizing s swap with | nil => ?_ | cons y l ih => ?_
  · simp only [State.cancelGroups]
    exact .refl
  · simp only [State.cancelGroups]
    refine Only.trans (ih ..) ?_
    refine Only.step (State.cancelGroup_only ..) (by decide) ?_
    exact .refl

theorem State.cancelModule_only (s : State) (fs : List (ℕ × ℕ)) (m : ℕ) : Only [.out] s (State.cancelModule s fs m) := by
  unfold State.cancelModule
  dsimp only
  refine Only.step (State.emitAll_only ..) (by decide) ?_
  exact .refl

theorem State.cancelModules_only (s : State) (fs : List (ℕ × ℕ)) (x2 : List ℕ) : Only [.out] s (State.cancelModules s fs x2) := by
  induction x2 generalizing s fs with | nil => ?_ | cons y l ih => ?_
  · simp only [State.cancelModules]
    exact .refl
  · simp only [State.cancelModules]
    refine Only.trans (ih ..) ?_
    refine Only.step (State.cancelModule_only ..) (by decide) ?_
    exact .refl

theorem State.cancel_only (s : State) (swap : Option ℕ) (raise : Bool) (firsts : List (ℕ × ℕ)) :
    Only [.regs, .igrel, .decomp, .slots, .taper, .twin, .wick, .ylog, .out, .flagged] s (State.cancel s swap raise firsts) := by
  unfold State.cancel
  dsimp only
  refine Only.ite (fun _ => ?_) (fun _ => ?_)
  · exact .refl
  · refine Only.step (State.noteLeads_only ..) (by decide) ?_
    refine Only.step (State.bump_only ..) (by decide) ?_
    refine Only.step (State.cancelModules_only ..) (by decide) ?_
    refine Only.step (State.cancelGroups_only ..) (by decide) ?_
    exact .refl

theorem State.moveSwap_only (s : State) : Only [.regs, .health] s (State.moveSwap s) := by
  unfold State.moveSwap
  split
  · exact .refl
  · dsimp only
    refine Only.with_health (by decide) ?_
    refine Only.step (State.setReg_only ..) (by decide) ?_
    exact .refl

theorem State.swapNow_only (s : State) : Only [.regs, .igrel, .slots, .health, .ylog, .out, .flagged] s (State.swapNow s) := by
  unfold State.swapNow
  dsimp only
  refine Only.step (State.logEvent_only ..) (by decide) ?_
  refine Only.step (State.setReg_only ..) (by decide) ?_
  refine Only.with_slots_health (by decide) ?_
  exact .refl

theorem State.applyPublish_only (s : State) (recs : List (ℕ × ℕ)) (line : ℕ) (now : Bool) :
    Only [.regs, .igrel, .decomp, .slots, .health, .taper, .twin, .wick, .ylog, .out, .flagged] s (State.applyPublish s recs line now) := by
  unfold State.applyPublish
  dsimp only
  refine Only.ite (fun _ => ?_) (fun _ => ?_)
  · refine Only.step (State.swapNow_only ..) (by decide) ?_
    refine Only.ite (fun _ => ?_) (fun _ => ?_)
    · refine Only.step (State.cancel_only ..) (by decide) ?_
      refine Only.step (State.setReg_only ..) (by decide) ?_
      refine Only.step (State.bump_only ..) (by decide) ?_
      refine Only.with_health (by decide) ?_
      exact .refl
    · refine Only.step (State.setReg_only ..) (by decide) ?_
      refine Only.step (State.bump_only ..) (by decide) ?_
      refine Only.with_health (by decide) ?_
      exact .refl
  · refine Only.ite (fun _ => ?_) (fun _ => ?_)
    · refine Only.step (State.cancel_only ..) (by decide) ?_
      refine Only.step (State.setReg_only ..) (by decide) ?_
      refine Only.step (State.bump_only ..) (by decide) ?_
      refine Only.with_health (by decide) ?_
      exact .refl
    · refine Only.step (State.setReg_only ..) (by decide) ?_
      refine Only.step (State.bump_only ..) (by decide) ?_
      refine Only.with_health (by decide) ?_
      exact .refl

theorem State.sendPublish_only (s : State) (line : ℕ) (words : List ℕ) : Only [.out] s (State.sendPublish s line words) := by
  unfold State.sendPublish
  dsimp only
  refine Only.step (State.emitAll_only ..) (by decide) ?_
  exact .refl

theorem State.swapDue_only (s : State) : Only [.regs, .igrel, .slots, .health, .ylog, .out, .flagged] s (State.swapDue s) := by
  unfold State.swapDue
  refine Only.ite (fun _ => ?_) (fun _ => ?_)
  · refine Only.step (State.swapNow_only ..) (by decide) ?_
    exact .refl
  · exact .refl

theorem State.publish_only (s : State) (recs : List (ℕ × ℕ)) (reply : Option Deferred) :
    Only [.regs, .igrel, .decomp, .slots, .health, .taper, .twin, .wick, .ylog, .out, .flagged] s (State.publish s recs reply) := by
  unfold State.publish
  dsimp only
  refine Only.ite (fun _ => ?_) (fun _ => ?_)
  · refine Only.with_health (by decide) ?_
    refine Only.step (State.swapDue_only ..) (by decide) ?_
    exact .refl
  · refine Only.ite (fun _ => ?_) (fun _ => ?_)
    · refine Only.step (State.finished_only ..) (by decide) ?_
      refine Only.step (State.swapDue_only ..) (by decide) ?_
      exact .refl
    · refine Only.ite (fun _ => ?_) (fun _ => ?_)
      · refine Only.with_twin (by decide) ?_
        refine Only.step (State.swapDue_only ..) (by decide) ?_
        exact .refl
      · refine Only.step (State.finished_only ..) (by decide) ?_
        refine Only.step (State.applyPublish_only ..) (by decide) ?_
        refine Only.ite (fun _ => ?_) (fun _ => ?_)
        · refine Only.step (State.sendPublish_only ..) (by decide) ?_
          refine Only.step (State.swapDue_only ..) (by decide) ?_
          exact .refl
        · refine Only.step (State.swapDue_only ..) (by decide) ?_
          exact .refl

end Sys2Proof.Machine
end

