-- ==== Sys2Proof/Laws/FramesTaperToMotion.lean ====
section
/-! SUPPORT. The frame of every operation and meaning of Machine/Taper.lean, Suspend.lean, Pool.lean, Fire.lean, Clock.lean, Motion.lean: the only fields of the state that
it can change. -/

namespace Sys2Proof.Machine

/-! ### Taper -/

theorem State.askLine_only (s : State) (g : ℕ) : Only [.decomp, .taper, .dram] s (State.askLine s g) := by
  unfold State.askLine
  dsimp only
  refine Only.step (State.addJobs_only ..) (by decide) ?_
  refine Only.step (State.setGroup_only ..) (by decide) ?_
  exact .refl

theorem State.pageLate_only (s : State) : Only [.regs, .igrel, .raster, .ylog, .out, .flagged] s (State.pageLate s) := by
  unfold State.pageLate
  dsimp only
  split
  · exact .refl
  · refine Only.ite (fun _ => ?_) (fun _ => ?_)
    · refine Only.step (State.logEvent_only ..) (by decide) ?_
      refine Only.with_raster (by decide) ?_
      exact .refl
    · exact .refl

theorem State.sendConfirms_only (s : State) (n : ℕ) (row : ℕ) (period : ℕ) (x4 : List ℕ) :
    Only [.out] s (State.sendConfirms s n row period x4) := by
  induction x4 generalizing s n row period with | nil => ?_ | cons y l ih => ?_
  · simp only [State.sendConfirms]
    exact .refl
  · simp only [State.sendConfirms]
    refine Only.trans (ih ..) ?_
    refine Only.step (State.sendHead_only ..) (by decide) ?_
    exact .refl

theorem State.setNewest_only (s : State) (n : ℕ) (x2 : List ℕ) : Only [.regs] s (State.setNewest s n x2) := by
  induction x2 generalizing s n with | nil => ?_ | cons y l ih => ?_
  · simp only [State.setNewest]
    exact .refl
  · simp only [State.setNewest]
    refine Only.trans (ih ..) ?_
    refine Only.step (State.setReg_only ..) (by decide) ?_
    exact .refl

theorem State.confirmLine_only (s : State) (g : ℕ) (n : ℕ) (edge : Option ℕ) (late : Bool) (lateArm : Bool) :
    Only [.regs, .raster, .decomp, .slots, .taper, .twin, .out, .freeCtr] s (State.confirmLine s g n edge late lateArm) := by
  unfold State.confirmLine
  dsimp only
  refine Only.step (State.slotState_only ..) (by decide) ?_
  refine Only.step (State.setNewest_only ..) (by decide) ?_
  refine Only.step (State.ckptAll_only ..) (by decide) ?_
  refine Only.with_taper (by decide) ?_
  refine Only.step (State.setGroup_only ..) (by decide) ?_
  refine Only.step (State.setReg_only ..) (by decide) ?_
  refine Only.step (State.sendConfirms_only ..) (by decide) ?_
  exact .refl

theorem State.passStrips_only (s : State) (g : ℕ) (n : ℕ) : Only [.regs, .raster, .decomp, .twin, .dram] s (State.passStrips s g n) := by
  unfold State.passStrips
  dsimp only
  refine Only.step (State.addJobs_only ..) (by decide) ?_
  refine Only.step (State.ckptAll_only ..) (by decide) ?_
  exact .refl

theorem State.catchUp_only (s : State) : Only [.regs, .raster, .decomp, .twin, .dram] s (State.catchUp s) := by
  unfold State.catchUp
  refine Only.foldl (fun t x => ?_) ?_
  · refine Only.step (State.passStrips_only ..) (by decide) ?_
    exact .refl
  · exact .refl

theorem State.refuseLine_only (s : State) (g : ℕ) (n : ℕ) (cause : ℕ) (strip : ℕ) :
    Only [.regs, .igrel, .raster, .decomp, .slots, .taper, .twin, .chans, .dram, .wick, .ylog, .out, .flagged, .freeCtr] s
      (State.refuseLine s g n cause strip) := by
  unfold State.refuseLine
  dsimp only
  refine Only.step (State.passStrips_only ..) (by decide) ?_
  refine Only.step (State.skipLine_only ..) (by decide) ?_
  refine Only.step (State.setReg_only ..) (by decide) ?_
  exact .refl

theorem State.mateSkip_only (s : State) (g : ℕ) (n : ℕ) :
    Only [.regs, .raster, .decomp, .slots, .twin, .dram, .freeCtr] s (State.mateSkip s g n) := by
  unfold State.mateSkip
  dsimp only
  refine Only.step (State.passStrips_only ..) (by decide) ?_
  refine Only.step (State.holdOwn_only ..) (by decide) ?_
  refine Only.step (State.pageIdOf_only ..) (by decide) ?_
  refine Only.step (State.slotState_only ..) (by decide) ?_
  refine Only.step (State.bump_only ..) (by decide) ?_
  refine Only.step (State.setReg_only ..) (by decide) ?_
  exact .refl

theorem State.tryLocked_only (s : State) (g : ℕ) :
    Only [.regs, .igrel, .raster, .slots, .taper, .twin, .chans, .wick, .ylog, .out, .flagged] s (State.tryLocked s g) := by
  unfold State.tryLocked
  split
  · exact .refl
  · refine Only.ite (fun _ => ?_) (fun _ => ?_)
    · exact .refl
    · dsimp only
      refine Only.ite (fun _ => ?_) (fun _ => ?_)
      · refine Only.step (State.skipConf_only ..) (by decide) ?_
        refine Only.step (State.setGroup_only ..) (by decide) ?_
        exact .refl
      · refine Only.step (State.setGroup_only ..) (by decide) ?_
        exact .refl

theorem State.passEntered_only (s : State) (g : ℕ) (n : ℕ) : Only [.regs, .raster, .decomp, .twin, .dram] s (State.passEntered s g n) := by
  unfold State.passEntered
  dsimp only
  refine Only.step (State.passStrips_only ..) (by decide) ?_
  refine Only.with_twin (by decide) ?_
  refine Only.step (State.setReg_only ..) (by decide) ?_
  exact .refl

theorem State.armLine_only (s : State) (g : ℕ) :
    Only [.regs, .igrel, .raster, .decomp, .slots, .taper, .twin, .chans, .dram, .wick, .ylog, .out, .flagged, .freeCtr] s
      (State.armLine s g) := by
  unfold State.armLine
  dsimp only
  refine Only.step (State.noteLead_only ..) (by decide) ?_
  refine Only.ite (fun _ => ?_) (fun _ => ?_)
  · refine Only.step (State.passEntered_only ..) (by decide) ?_
    refine Only.step (State.ckptAll_only ..) (by decide) ?_
    exact .refl
  · refine Only.ite (fun _ => ?_) (fun _ => ?_)
    · refine Only.step (State.mateSkip_only ..) (by decide) ?_
      refine Only.step (State.ckptAll_only ..) (by decide) ?_
      exact .refl
    · split
      · refine Only.step (State.refuseLine_only ..) (by decide) ?_
        refine Only.step (State.ckptAll_only ..) (by decide) ?_
        exact .refl
      · refine Only.ite (fun _ => ?_) (fun _ => ?_)
        · refine Only.ite (fun _ => ?_) (fun _ => ?_)
          · refine Only.step (State.refuseLine_only ..) (by decide) ?_
            refine Only.step (State.ckptAll_only ..) (by decide) ?_
            exact .refl
          · refine Only.step (State.confirmLine_only ..) (by decide) ?_
            refine Only.step (State.ckptAll_only ..) (by decide) ?_
            exact .refl
        · refine Only.step (State.tryLocked_only ..) (by decide) ?_
          refine Only.step (State.confirmLine_only ..) (by decide) ?_
          refine Only.step (State.ckptAll_only ..) (by decide) ?_
          exact .refl

theorem State.rePredict_only (s : State) (g : ℕ) :
    Only [.regs, .igrel, .raster, .slots, .taper, .twin, .chans, .wick, .ylog, .out, .flagged] s (State.rePredict s g) := by
  unfold State.rePredict
  split
  · exact .refl
  · split
    · exact .refl
    · refine Only.ite (fun _ => ?_) (fun _ => ?_)
      · exact .refl
      · refine Only.ite (fun _ => ?_) (fun _ => ?_)
        · dsimp only
          refine Only.step (State.setGroup_only ..) (by decide) ?_
          exact .refl
        · refine Only.step (State.tryLocked_only ..) (by decide) ?_
          refine Only.step (State.setGroup_only ..) (by decide) ?_
          exact .refl

theorem State.rePredictAll_only (s : State) :
    Only [.regs, .igrel, .raster, .slots, .taper, .twin, .chans, .wick, .ylog, .out, .flagged] s (State.rePredictAll s) := by
  unfold State.rePredictAll
  refine Only.foldl (fun t x => ?_) ?_
  · refine Only.step (State.rePredict_only ..) (by decide) ?_
    exact .refl
  · exact .refl

theorem State.markMoved_only (s : State) :
    Only [.regs, .igrel, .raster, .slots, .taper, .twin, .chans, .wick, .ylog, .out, .flagged] s (State.markMoved s) := by
  unfold State.markMoved
  refine Only.foldl (fun t x => ?_) ?_
  · refine Only.step (State.tryLocked_only ..) (by decide) ?_
    exact .refl
  · exact .refl

theorem State.lagLines_only (s : State) (g : ℕ) (n : ℕ) :
    Only [.regs, .igrel, .raster, .decomp, .slots, .taper, .twin, .chans, .dram, .wick, .ylog, .out, .flagged, .freeCtr] s
      (State.lagLines s g n) := by
  unfold State.lagLines
  refine Only.foldl (fun t x => ?_) ?_
  · refine Only.step (State.refuseLine_only ..) (by decide) ?_
    exact .refl
  · exact .refl

theorem State.lagGroups_only (s : State) (x1 : List ℕ) :
    Only [.regs, .igrel, .raster, .decomp, .slots, .taper, .twin, .chans, .dram, .wick, .ylog, .out, .flagged, .freeCtr] s
      (State.lagGroups s x1) := by
  induction x1 generalizing s with | nil => ?_ | cons y l ih => ?_
  · simp only [State.lagGroups]
    exact .refl
  · simp only [State.lagGroups]
    refine Only.trans (ih ..) ?_
    refine Only.step (State.noteLead_only ..) (by decide) ?_
    refine Only.step (State.lagLines_only ..) (by decide) ?_
    exact .refl

theorem State.reverse_only (s : State) :
    Only [.regs, .igrel, .decomp, .slots, .health, .taper, .twin, .lantern, .wick, .ylog, .out, .flagged] s (State.reverse s) := by
  unfold State.reverse
  dsimp only
  refine Only.ite (fun _ => ?_) (fun _ => ?_)
  · refine Only.step (State.moveSwap_only ..) (by decide) ?_
    refine Only.step (State.cancel_only ..) (by decide) ?_
    refine Only.with_lantern (by decide) ?_
    exact .refl
  · refine Only.with_lantern (by decide) ?_
    exact .refl

theorem State.indexPolicy_only (s : State) (ch : ℕ) :
    Only [.regs, .igrel, .decomp, .slots, .taper, .twin, .wick, .ylog, .out, .flagged] s (State.indexPolicy s ch) := by
  unfold State.indexPolicy
  refine Only.ite (fun _ => ?_) (fun _ => ?_)
  · split
    · exact .refl
    · refine Only.ite (fun _ => ?_) (fun _ => ?_)
      · exact .refl
      · split
        · refine Only.step (State.setCause_only ..) (by decide) ?_
          exact .refl
        · dsimp only
          refine Only.step (State.cancel_only ..) (by decide) ?_
          refine Only.with_taper (by decide) ?_
          exact .refl
    · refine Only.step (State.setCause_only ..) (by decide) ?_
      exact .refl
  · exact .refl

theorem State.indexError_only (s : State) (ch : ℕ) (detail : ℕ) (distance : ℤ) :
    Only [.regs, .igrel, .decomp, .slots, .taper, .twin, .wick, .ylog, .out, .flagged] s (State.indexError s ch detail distance) := by
  unfold State.indexError
  dsimp only
  refine Only.step (State.logEvent_only ..) (by decide) ?_
  refine Only.step (State.indexPolicy_only ..) (by decide) ?_
  refine Only.step (State.setBits_only ..) (by decide) ?_
  refine Only.step (State.bump_only ..) (by decide) ?_
  exact .refl

/-! ### Suspend -/

theorem State.settleDoubt_only (s : State) (us : List Unsettled) (u : Unsettled) :
    Only [.regs, .igrel, .raster, .slots, .taper, .twin, .chans, .wick, .ylog, .out, .flagged] s (State.settleDoubt s us u) := by
  unfold State.settleDoubt
  dsimp only
  refine Only.ite (fun _ => ?_) (fun _ => ?_)
  · refine Only.step (State.settle_only ..) (by decide) ?_
    refine Only.ite (fun _ => ?_) (fun _ => ?_)
    · refine Only.step (State.bump_only ..) (by decide) ?_
      split
      · refine Only.ite (fun _ => ?_) (fun _ => ?_)
        · refine Only.step (State.setGroup_only ..) (by decide) ?_
          refine Only.with_taper (by decide) ?_
          exact .refl
        · refine Only.with_taper (by decide) ?_
          exact .refl
      · refine Only.with_taper (by decide) ?_
        exact .refl
    · split
      · refine Only.ite (fun _ => ?_) (fun _ => ?_)
        · refine Only.step (State.setGroup_only ..) (by decide) ?_
          refine Only.with_taper (by decide) ?_
          exact .refl
        · refine Only.with_taper (by decide) ?_
          exact .refl
      · refine Only.with_taper (by decide) ?_
        exact .refl
  · refine Only.step (State.passLine_only ..) (by decide) ?_
    refine Only.ite (fun _ => ?_) (fun _ => ?_)
    · refine Only.step (State.bump_only ..) (by decide) ?_
      split
      · refine Only.ite (fun _ => ?_) (fun _ => ?_)
        · refine Only.step (State.setGroup_only ..) (by decide) ?_
          refine Only.with_taper (by decide) ?_
          exact .refl
        · refine Only.with_taper (by decide) ?_
          exact .refl
      · refine Only.with_taper (by decide) ?_
        exact .refl
    · split
      · refine Only.ite (fun _ => ?_) (fun _ => ?_)
        · refine Only.step (State.setGroup_only ..) (by decide) ?_
          refine Only.with_taper (by decide) ?_
          exact .refl
        · refine Only.with_taper (by decide) ?_
          exact .refl
      · refine Only.with_taper (by decide) ?_
        exact .refl

theorem State.settleLines_only (s : State) (blocked : Bool) (x2 : List (ℕ × ℕ)) :
    Only [.regs, .igrel, .raster, .slots, .taper, .twin, .chans, .wick, .ylog, .out, .flagged] s (State.settleLines s blocked x2) := by
  induction x2 generalizing s blocked with | nil => ?_ | cons y l ih => ?_
  · simp only [State.settleLines]
    exact .refl
  · simp only [State.settleLines]
    split
    · refine Only.trans (ih ..) ?_
      exact .refl
    · refine Only.ite (fun _ => ?_) (fun _ => ?_)
      · refine Only.trans (ih ..) ?_
        refine Only.step (State.settleDoubt_only ..) (by decide) ?_
        exact .refl
      · refine Only.trans (ih ..) ?_
        exact .refl

theorem State.recordGroups_only (s : State) (x1 : List ℕ) : Only [.regs, .taper] s (State.recordGroups s x1) := by
  induction x1 generalizing s with | nil => ?_ | cons y l ih => ?_
  · simp only [State.recordGroups]
    exact .refl
  · simp only [State.recordGroups]
    refine Only.ite (fun _ => ?_) (fun _ => ?_)
    · refine Only.trans (ih ..) ?_
      refine Only.step (State.setReg_only ..) (by decide) ?_
      exact .refl
    · refine Only.trans (ih ..) ?_
      refine Only.step (State.setReg_only ..) (by decide) ?_
      refine Only.step (State.setReg_only ..) (by decide) ?_
      refine Only.step (State.setGroup_only ..) (by decide) ?_
      exact .refl

theorem State.recordStop_only (s : State) : Only [.regs, .taper] s (State.recordStop s) := by
  unfold State.recordStop
  dsimp only
  refine Only.step (State.setReg_only ..) (by decide) ?_
  refine Only.step (State.recordGroups_only ..) (by decide) ?_
  exact .refl

theorem State.recordDue_only (s : State) : Only [.regs, .taper] s (State.recordDue s) := by
  unfold State.recordDue
  refine Only.ite (fun _ => ?_) (fun _ => ?_)
  · refine Only.step (State.recordStop_only ..) (by decide) ?_
    refine Only.with_taper (by decide) ?_
    exact .refl
  · exact .refl

theorem State.settleAll_only (s : State) :
    Only [.regs, .igrel, .raster, .slots, .taper, .twin, .chans, .wick, .ylog, .out, .flagged] s (State.settleAll s) := by
  unfold State.settleAll
  refine Only.step (State.recordDue_only ..) (by decide) ?_
  refine Only.step (State.settleLines_only ..) (by decide) ?_
  exact .refl

theorem State.hearStatus_only (s : State) (m : ℕ) (valid : Bool) (fired : ℕ → ℕ) :
    Only [.regs, .igrel, .raster, .slots, .taper, .twin, .chans, .wick, .ylog, .out, .flagged] s (State.hearStatus s m valid fired) := by
  unfold State.hearStatus
  dsimp only
  refine Only.step (State.settleAll_only ..) (by decide) ?_
  refine Only.with_taper (by decide) ?_
  exact .refl

theorem State.addDoubt_only (s : State) (u : Unsettled) : Only [.taper] s (State.addDoubt s u) := by
  unfold State.addDoubt
  refine Only.ite (fun _ => ?_) (fun _ => ?_)
  · exact .refl
  · refine Only.with_taper (by decide) ?_
    exact .refl

theorem State.addDoubts_only (s : State) (x1 : List Unsettled) : Only [.taper] s (State.addDoubts s x1) := by
  induction x1 generalizing s with | nil => ?_ | cons y l ih => ?_
  · simp only [State.addDoubts]
    exact .refl
  · simp only [State.addDoubts]
    refine Only.trans (ih ..) ?_
    refine Only.step (State.addDoubt_only ..) (by decide) ?_
    exact .refl

theorem State.suspend_only (s : State) (m : ℕ) : Only [.taper] s (State.suspend s m) := by
  unfold State.suspend
  refine Only.step (State.addDoubts_only ..) (by decide) ?_
  exact .refl

theorem State.raiseStrobe_only (s : State) (g : ℕ) (rise : ℕ) : Only [.pins, .out] s (State.raiseStrobe s g rise) := by
  unfold State.raiseStrobe
  refine Only.ite (fun _ => ?_) (fun _ => ?_)
  · exact .refl
  · refine Only.step (State.emit_only ..) (by decide) ?_
    refine Only.with_pins (by decide) ?_
    exact .refl

theorem State.strobe_only (s : State) (g : ℕ) (c : Conf) (rise : ℕ) :
    Only [.regs, .pins, .igrel, .raster, .slots, .taper, .twin, .chans, .wick, .ylog, .out, .flagged] s (State.strobe s g c rise) := by
  unfold State.strobe
  dsimp only
  refine Only.ite (fun _ => ?_) (fun _ => ?_)
  · refine Only.step (State.fireConf_only ..) (by decide) ?_
    refine Only.step (State.addDoubts_only ..) (by decide) ?_
    refine Only.step (State.setReg_only ..) (by decide) ?_
    refine Only.step (State.raiseStrobe_only ..) (by decide) ?_
    refine Only.step (State.setGroup_only ..) (by decide) ?_
    exact .refl
  · refine Only.step (State.settleAll_only ..) (by decide) ?_
    refine Only.with_taper (by decide) ?_
    refine Only.step (State.addDoubts_only ..) (by decide) ?_
    refine Only.step (State.setReg_only ..) (by decide) ?_
    refine Only.step (State.raiseStrobe_only ..) (by decide) ?_
    refine Only.step (State.setGroup_only ..) (by decide) ?_
    exact .refl

theorem State.logHeld_only (s : State) (g : ℕ) : Only [.regs, .igrel, .taper, .ylog, .out, .flagged] s (State.logHeld s g) := by
  unfold State.logHeld
  dsimp only
  refine Only.foldl (fun t x => ?_) ?_
  · refine Only.step (State.logEvent_only ..) (by decide) ?_
    exact .refl
  · refine Only.with_taper (by decide) ?_
    exact .refl

theorem State.dropStrobe_only (s : State) (g : ℕ) :
    Only [.regs, .pins, .igrel, .taper, .ylog, .out, .flagged] s (State.dropStrobe s g) := by
  unfold State.dropStrobe
  dsimp only
  refine Only.step (State.logHeld_only ..) (by decide) ?_
  refine Only.with_pins (by decide) ?_
  refine Only.step (State.setGroup_only ..) (by decide) ?_
  exact .refl

theorem State.stopLit_only (s : State) :
    Only [.regs, .igrel, .decomp, .slots, .health, .taper, .twin, .wick, .ylog, .out, .flagged] s (State.stopLit s) := by
  unfold State.stopLit
  refine Only.ite (fun _ => ?_) (fun _ => ?_)
  · exact .refl
  · dsimp only
    refine Only.step (State.moveSwap_only ..) (by decide) ?_
    refine Only.step (State.cancel_only ..) (by decide) ?_
    refine Only.with_taper (by decide) ?_
    exact .refl

theorem State.stopAtLine_only (s : State) :
    Only [.regs, .igrel, .decomp, .slots, .health, .taper, .twin, .wick, .ylog, .out, .flagged] s (State.stopAtLine s) := by
  unfold State.stopAtLine
  split
  · refine Only.ite (fun _ => ?_) (fun _ => ?_)
    · refine Only.step (State.stopLit_only ..) (by decide) ?_
      refine Only.with_twin (by decide) ?_
      exact .refl
    · exact .refl
  · exact .refl

theorem State.resolveDown_only (s : State) (x1 : List ℕ) : Only [.taper] s (State.resolveDown s x1) := by
  induction x1 generalizing s with | nil => ?_ | cons y l ih => ?_
  · simp only [State.resolveDown]
    exact .refl
  · simp only [State.resolveDown]
    refine Only.ite (fun _ => ?_) (fun _ => ?_)
    · refine Only.trans (ih ..) ?_
      exact .refl
    · refine Only.trans (ih ..) ?_
      refine Only.with_taper (by decide) ?_
      exact .refl

theorem State.suppressConfs_only (s : State) (hold : Bool) (x2 : List ℕ) :
    Only [.regs, .igrel, .raster, .slots, .taper, .twin, .chans, .wick, .ylog, .out, .flagged] s (State.suppressConfs s hold x2) := by
  induction x2 generalizing s hold with | nil => ?_ | cons y l ih => ?_
  · simp only [State.suppressConfs]
    exact .refl
  · simp only [State.suppressConfs]
    split
    · refine Only.trans (ih ..) ?_
      exact .refl
    · refine Only.ite (fun _ => ?_) (fun _ => ?_)
      · refine Only.trans (ih ..) ?_
        refine Only.step (State.addDoubts_only ..) (by decide) ?_
        refine Only.step (State.setGroup_only ..) (by decide) ?_
        exact .refl
      · refine Only.trans (ih ..) ?_
        refine Only.step (State.skipConf_only ..) (by decide) ?_
        refine Only.step (State.setGroup_only ..) (by decide) ?_
        exact .refl

theorem State.taperSnuff_only (s : State) (barWide : Bool) :
    Only [.regs, .igrel, .raster, .decomp, .slots, .taper, .twin, .chans, .wick, .ylog, .out, .flagged] s (State.taperSnuff s barWide) := by
  unfold State.taperSnuff
  dsimp only
  refine Only.step (State.settleAll_only ..) (by decide) ?_
  refine Only.with_taper (by decide) ?_
  refine Only.step (State.suppressConfs_only ..) (by decide) ?_
  refine Only.step (State.settleLines_only ..) (by decide) ?_
  refine Only.with_taper (by decide) ?_
  refine Only.step (State.resolveDown_only ..) (by decide) ?_
  refine Only.step (State.cancel_only ..) (by decide) ?_
  exact .refl

/-! ### Pool -/

theorem execTaperLineRequest_only (g : Fin 8) (s : State) :
    OnlyNext [.regs, .igrel, .raster, .decomp, .taper, .dram, .ylog, .out, .flagged] s (execTaperLineRequest g s) := by
  unfold execTaperLineRequest
  dsimp only
  refine OnlyNext.next ?_
  refine Only.step (State.pageLate_only ..) (by decide) ?_
  refine Only.ite (fun _ => ?_) (fun _ => ?_)
  · refine Only.step (State.askLine_only ..) (by decide) ?_
    exact .refl
  · exact .refl

theorem execContextRewind_only (k : Fin 160) (s : State) : OnlyNext [.regs, .decomp, .dram] s (execContextRewind k s) := by
  unfold execContextRewind
  dsimp only
  split
  · refine OnlyNext.next ?_
    exact .refl
  · refine OnlyNext.ite (fun _ => ?_) (fun _ => ?_)
    · refine OnlyNext.next ?_
      exact .refl
    · refine OnlyNext.next ?_
      refine Only.step (State.addJobs_only ..) (by decide) ?_
      refine Only.step (State.setReg_only ..) (by decide) ?_
      refine Only.step (State.bump_only ..) (by decide) ?_
      refine Only.step (State.setCtx_only ..) (by decide) ?_
      exact .refl

theorem execStripCorrect_only (st : Fin 128) (s : State) : OnlyNext [.slots] s (execStripCorrect st s) := by
  unfold execStripCorrect
  split
  · refine OnlyNext.next ?_
    exact .refl
  · refine OnlyNext.ite (fun _ => ?_) (fun _ => ?_)
    · dsimp only
      refine OnlyNext.next ?_
      refine Only.step (State.modSlot_only ..) (by decide) ?_
      exact .refl
    · refine OnlyNext.next ?_
      exact .refl

theorem State.decideLine_only (s : State) (g : ℕ) (n : ℕ) :
    Only [.regs, .igrel, .slots, .taper, .wick, .ylog, .out, .flagged] s (State.decideLine s g n) := by
  unfold State.decideLine
  split
  dsimp only
  refine Only.ite (fun _ => ?_) (fun _ => ?_)
  · refine Only.step (State.emit_only ..) (by decide) ?_
    refine Only.step (State.noteOutcome_only ..) (by decide) ?_
    refine Only.step (State.holdDecision_only ..) (by decide) ?_
    refine Only.ite (fun _ => ?_) (fun _ => ?_)
    · exact .refl
    · refine Only.step (State.chargePool_only ..) (by decide) ?_
      exact .refl
  · refine Only.step (State.noteOutcome_only ..) (by decide) ?_
    refine Only.step (State.holdDecision_only ..) (by decide) ?_
    refine Only.ite (fun _ => ?_) (fun _ => ?_)
    · exact .refl
    · refine Only.step (State.chargePool_only ..) (by decide) ?_
      exact .refl

theorem State.decideReady_only (s : State) (x1 : ℕ) :
    Only [.regs, .igrel, .slots, .taper, .wick, .ylog, .out, .flagged] s (State.decideReady s x1) := by
  induction x1 generalizing s with | zero => ?_ | succ k ih => ?_
  · simp only [State.decideReady]
    exact .refl
  · simp only [State.decideReady]
    split
    · exact .refl
    · refine Only.trans (ih ..) ?_
      refine Only.step (State.decideLine_only ..) (by decide) ?_
      exact .refl

theorem State.linesFirst_only (s : State) : Only [.regs, .igrel, .slots, .taper, .wick, .ylog, .out, .flagged] s (State.linesFirst s) := by
  unfold State.linesFirst
  refine Only.ite (fun _ => ?_) (fun _ => ?_)
  · refine Only.step (State.decideReady_only ..) (by decide) ?_
    exact .refl
  · exact .refl

theorem execWickLineDecision_only (s : State) :
    OnlyNext [.regs, .igrel, .slots, .taper, .wick, .ylog, .out, .flagged] s (execWickLineDecision s) := by
  unfold execWickLineDecision
  refine OnlyNext.ite (fun _ => ?_) (fun _ => ?_)
  · refine OnlyNext.next ?_
    exact .refl
  · split
    · refine OnlyNext.next ?_
      exact .refl
    · refine OnlyNext.next ?_
      refine Only.step (State.decideLine_only ..) (by decide) ?_
      exact .refl

theorem State.sendLine_only (s : State) (st : ℕ) (x : Slot) : Only [.out] s (State.sendLine s st x) := by
  unfold State.sendLine
  refine Only.step (State.sendHead_only ..) (by decide) ?_
  exact .refl

theorem execLineFrameSend_only (st : Fin 128) (s : State) :
    OnlyNext [.regs, .igrel, .slots, .taper, .ylog, .out, .flagged] s (execLineFrameSend st s) := by
  unfold execLineFrameSend
  split
  · refine OnlyNext.next ?_
    exact .refl
  · refine OnlyNext.ite (fun _ => ?_) (fun _ => ?_)
    · dsimp only
      refine OnlyNext.next ?_
      refine Only.step (State.noteLead_only ..) (by decide) ?_
      refine Only.step (State.sendLine_only ..) (by decide) ?_
      refine Only.step (State.modSlot_only ..) (by decide) ?_
      exact .refl
    · refine OnlyNext.next ?_
      exact .refl

/-! ### Fire -/

theorem execArmingStart_only (s : State) :
    OnlyNext [.regs, .igrel, .raster, .decomp, .slots, .taper, .twin, .chans, .dram, .wick, .ylog, .out, .flagged, .freeCtr] s
      (execArmingStart s) := by
  unfold execArmingStart
  refine OnlyNext.ite (fun _ => ?_) (fun _ => ?_)
  · dsimp only
    refine OnlyNext.next ?_
    refine Only.step (State.lagGroups_only ..) (by decide) ?_
    refine Only.with_taper (by decide) ?_
    exact .refl
  · refine OnlyNext.next ?_
    exact .refl

theorem execLineArm_only (g : Fin 8) (s : State) :
    OnlyNext [.regs, .igrel, .raster, .decomp, .slots, .health, .taper, .twin, .chans, .dram, .wick, .ylog, .out, .flagged, .freeCtr] s
      (execLineArm g s) := by
  unfold execLineArm
  refine OnlyNext.ite (fun _ => ?_) (fun _ => ?_)
  · refine OnlyNext.next ?_
    refine Only.step (State.stopAtLine_only ..) (by decide) ?_
    refine Only.step (State.armLine_only ..) (by decide) ?_
    exact .refl
  · refine OnlyNext.next ?_
    exact .refl

theorem execStrobeEdge_only (g : Fin 8) (s : State) :
    OnlyNext [.regs, .pins, .igrel, .raster, .slots, .taper, .twin, .chans, .wick, .ylog, .out, .flagged] s (execStrobeEdge g s) := by
  unfold execStrobeEdge
  split
  · refine OnlyNext.next ?_
    exact .refl
  · split
    · refine OnlyNext.next ?_
      exact .refl
    · refine OnlyNext.next ?_
      refine Only.step (State.strobe_only ..) (by decide) ?_
      exact .refl

theorem State.endMaint_only (s : State) : Only [.pins, .taper] s (State.endMaint s) := by
  unfold State.endMaint
  refine Only.with_pins_taper (by decide) ?_
  exact .refl

theorem State.maintOver_only (s : State) : Only [.pins, .taper] s (State.maintOver s) := by
  unfold State.maintOver
  split
  · exact .refl
  · refine Only.ite (fun _ => ?_) (fun _ => ?_)
    · refine Only.step (State.endMaint_only ..) (by decide) ?_
      exact .refl
    · exact .refl

theorem State.beginMaint_only (s : State) : Only [.regs, .pins, .taper, .heads, .out] s (State.beginMaint s) := by
  unfold State.beginMaint
  split
  · exact .refl
  · refine Only.ite (fun _ => ?_) (fun _ => ?_)
    · exact .refl
    · refine Only.ite (fun _ => ?_) (fun _ => ?_)
      · refine Only.step (State.endMaint_only ..) (by decide) ?_
        refine Only.step (State.bump_only ..) (by decide) ?_
        exact .refl
      · dsimp only
        refine Only.step (State.maintOver_only ..) (by decide) ?_
        refine Only.step (State.fireReset_only ..) (by decide) ?_
        refine Only.with_pins_taper (by decide) ?_
        exact .refl

theorem State.takeAux_only (s : State) (k : ℕ) : Only [.regs, .raster, .decomp, .slots, .twin, .dram] s (State.takeAux s k).2 := by
  unfold State.takeAux
  dsimp only
  split
  · dsimp only
    exact .refl
  · split
    · dsimp only
      refine Only.step (State.takeJobs_only ..) (by decide) ?_
      refine Only.step (State.freeRing_only ..) (by decide) ?_
      refine Only.step (State.setSlots_only ..) (by decide) ?_
      refine Only.step (State.ckptStep_only (by assumption)) (by decide) ?_
      exact .refl
    · split
      · dsimp only
        refine Only.step (State.takeJobs_only ..) (by decide) ?_
        refine Only.step (State.freeRing_only ..) (by decide) ?_
        refine Only.step (State.setSlots_only ..) (by decide) ?_
        refine Only.step (State.ckptStep_only (by assumption)) (by decide) ?_
        exact .refl
      · dsimp only
        refine Only.step (State.takeJobs_only ..) (by decide) ?_
        refine Only.step (State.freeRing_only ..) (by decide) ?_
        refine Only.step (State.setSlots_only ..) (by decide) ?_
        refine Only.step (State.ckptStep_only (by assumption)) (by decide) ?_
        exact .refl

theorem State.maintFrames_only (s : State) (n : ℕ) (line : List Byte) (x3 : List ℕ) : Only [.out] s (State.maintFrames s n line x3) := by
  induction x3 generalizing s n line with | nil => ?_ | cons y l ih => ?_
  · simp only [State.maintFrames]
    exact .refl
  · simp only [State.maintFrames]
    refine Only.trans (ih ..) ?_
    refine Only.step (State.sendHead_only ..) (by decide) ?_
    exact .refl

theorem State.maintConfirms_only (s : State) (n : ℕ) (period : ℕ) (x3 : List ℕ) : Only [.out] s (State.maintConfirms s n period x3) := by
  induction x3 generalizing s n period with | nil => ?_ | cons y l ih => ?_
  · simp only [State.maintConfirms]
    exact .refl
  · simp only [State.maintConfirms]
    refine Only.trans (ih ..) ?_
    refine Only.step (State.sendHead_only ..) (by decide) ?_
    exact .refl

theorem State.maintEdges_only (s : State) (rise : ℕ) (x2 : List ℕ) : Only [.regs, .pins, .taper, .out] s (State.maintEdges s rise x2) := by
  induction x2 generalizing s rise with | nil => ?_ | cons y l ih => ?_
  · simp only [State.maintEdges]
    exact .refl
  · simp only [State.maintEdges]
    refine Only.trans (ih ..) ?_
    refine Only.step (State.setReg_only ..) (by decide) ?_
    refine Only.step (State.raiseStrobe_only ..) (by decide) ?_
    refine Only.step (State.setGroup_only ..) (by decide) ?_
    exact .refl

theorem execMaintLine_only (s : State) :
    OnlyNext [.regs, .pins, .raster, .decomp, .slots, .taper, .twin, .dram, .out] s (execMaintLine s) := by
  unfold execMaintLine
  split
  · refine OnlyNext.next ?_
    exact .refl
  · refine OnlyNext.ite (fun _ => ?_) (fun _ => ?_)
    · refine OnlyNext.next ?_
      exact .refl
    · refine OnlyNext.ite (fun _ => ?_) (fun _ => ?_)
      · refine OnlyNext.next ?_
        refine Only.step (State.endMaint_only ..) (by decide) ?_
        refine Only.step (State.bump_only ..) (by decide) ?_
        exact .refl
      · split
        · refine OnlyNext.next ?_
          refine Only.step (State.endMaint_only ..) (by decide) ?_
          refine Only.step (State.bump_only ..) (by decide) ?_
          refine Only.of_snd (by assumption) ?_
          refine Only.step (State.takeAux_only ..) (by decide) ?_
          exact .refl
        · refine OnlyNext.next ?_
          refine Only.step (State.endMaint_only ..) (by decide) ?_
          refine Only.step (State.bump_only ..) (by decide) ?_
          refine Only.of_snd (by assumption) ?_
          refine Only.step (State.takeAux_only ..) (by decide) ?_
          exact .refl
        · dsimp only
          refine OnlyNext.next ?_
          refine Only.step (State.maintEdges_only ..) (by decide) ?_
          refine Only.step (State.maintConfirms_only ..) (by decide) ?_
          refine Only.step (State.maintFrames_only ..) (by decide) ?_
          refine Only.with_taper (by decide) ?_
          refine Only.of_snd (by assumption) ?_
          refine Only.step (State.takeAux_only ..) (by decide) ?_
          exact .refl

theorem execStrobeEnd_only (g : Fin 8) (s : State) :
    OnlyNext [.regs, .pins, .igrel, .taper, .ylog, .out, .flagged] s (execStrobeEnd g s) := by
  unfold execStrobeEnd
  refine OnlyNext.ite (fun _ => ?_) (fun _ => ?_)
  · refine OnlyNext.next ?_
    refine Only.step (State.maintOver_only ..) (by decide) ?_
    refine Only.step (State.emit_only ..) (by decide) ?_
    refine Only.step (State.dropStrobe_only ..) (by decide) ?_
    exact .refl
  · refine OnlyNext.next ?_
    exact .refl

theorem State.escalate_only (s : State) : Only [.regs, .flagged] s (State.escalate s) := by
  unfold State.escalate
  refine Only.ite (fun _ => ?_) (fun _ => ?_)
  · refine Only.step (State.setCause_only ..) (by decide) ?_
    exact .refl
  · exact .refl

theorem execStrobeCut_only (g : Fin 8) (s : State) :
    OnlyNext [.regs, .pins, .igrel, .taper, .ylog, .out, .flagged] s (execStrobeCut g s) := by
  unfold execStrobeCut
  dsimp only
  refine OnlyNext.next ?_
  refine Only.step (State.maintOver_only ..) (by decide) ?_
  refine Only.step (State.logEvent_only ..) (by decide) ?_
  refine Only.step (State.escalate_only ..) (by decide) ?_
  refine Only.step (State.emit_only ..) (by decide) ?_
  refine Only.step (State.bump_only ..) (by decide) ?_
  refine Only.with_pins_taper (by decide) ?_
  refine Only.step (State.setGroup_only ..) (by decide) ?_
  exact .refl

theorem execSnufferEscalate_only (g : Fin 8) (padStillHigh : Bool) (s : State) :
    OnlyNext [.regs, .taper, .flagged] s (execSnufferEscalate g padStillHigh s) := by
  unfold execSnufferEscalate
  dsimp only
  refine OnlyNext.ite (fun _ => ?_) (fun _ => ?_)
  · refine OnlyNext.next ?_
    refine Only.step (State.setCause_only ..) (by decide) ?_
    refine Only.step (State.setGroup_only ..) (by decide) ?_
    exact .refl
  · refine OnlyNext.next ?_
    refine Only.step (State.escalate_only ..) (by decide) ?_
    refine Only.step (State.setGroup_only ..) (by decide) ?_
    exact .refl

theorem execStopSuppressTimeout_only (g : Fin 8) (s : State) :
    OnlyNext [.regs, .igrel, .raster, .slots, .taper, .twin, .chans, .wick, .ylog, .out, .flagged] s (execStopSuppressTimeout g s) := by
  unfold execStopSuppressTimeout
  refine OnlyNext.ite (fun _ => ?_) (fun _ => ?_)
  · split
    · refine OnlyNext.next ?_
      exact .refl
    · dsimp only
      refine OnlyNext.ite (fun _ => ?_) (fun _ => ?_)
      · refine OnlyNext.next ?_
        refine Only.step (State.skipConf_only ..) (by decide) ?_
        refine Only.step (State.setGroup_only ..) (by decide) ?_
        exact .refl
      · refine OnlyNext.next ?_
        refine Only.step (State.settleAll_only ..) (by decide) ?_
        refine Only.with_taper (by decide) ?_
        refine Only.step (State.setGroup_only ..) (by decide) ?_
        exact .refl
  · refine OnlyNext.next ?_
    exact .refl

/-! ### Clock -/

theorem State.standing_only (s : State) : Only [.regs, .flagged] s (State.standing s) := by
  unfold State.standing
  dsimp only
  refine Only.ite (fun _ => ?_) (fun _ => ?_)
  · refine Only.step (State.setCause_only ..) (by decide) ?_
    refine Only.ite (fun _ => ?_) (fun _ => ?_)
    · refine Only.step (State.setCause_only ..) (by decide) ?_
      exact .refl
    · exact .refl
  · refine Only.ite (fun _ => ?_) (fun _ => ?_)
    · refine Only.step (State.setCause_only ..) (by decide) ?_
      exact .refl
    · exact .refl

theorem State.cycle_only (s : State) : Only [.regs, .clock, .dram, .wick, .ylog, .out, .flagged] s (State.cycle s) := by
  unfold State.cycle
  refine Only.ite (fun _ => ?_) (fun _ => ?_)
  · dsimp only
    refine Only.step (State.standing_only ..) (by decide) ?_
    refine Only.step (State.memSlot_only ..) (by decide) ?_
    refine Only.ite (fun _ => ?_) (fun _ => ?_)
    · refine Only.step (State.count_only ..) (by decide) ?_
      refine Only.ite (fun _ => ?_) (fun _ => ?_)
      · refine Only.step (State.refill_only ..) (by decide) ?_
        refine Only.step (State.ylogClose_only ..) (by decide) ?_
        refine Only.with_clock_wick_flagged (by decide) ?_
        exact .refl
      · refine Only.step (State.ylogClose_only ..) (by decide) ?_
        refine Only.with_clock_wick_flagged (by decide) ?_
        exact .refl
    · refine Only.ite (fun _ => ?_) (fun _ => ?_)
      · refine Only.step (State.refill_only ..) (by decide) ?_
        refine Only.step (State.ylogClose_only ..) (by decide) ?_
        refine Only.with_clock_wick_flagged (by decide) ?_
        exact .refl
      · refine Only.step (State.ylogClose_only ..) (by decide) ?_
        refine Only.with_clock_wick_flagged (by decide) ?_
        exact .refl
  · exact .refl

theorem State.moveLastEdge_only (s : State) (d : ℤ) (ch : ℕ) : Only [.regs] s (State.moveLastEdge s d ch) := by
  unfold State.moveLastEdge
  refine Only.ite (fun _ => ?_) (fun _ => ?_)
  · exact .refl
  · refine Only.step (State.setReg_only ..) (by decide) ?_
    exact .refl

theorem State.moveTimes_only (s : State) (d : ℤ) : Only [.regs, .enc, .taper, .twin, .lantern, .led] s (State.moveTimes s d) := by
  unfold State.moveTimes
  dsimp only
  refine Only.with_enc_taper_twin_lantern_led (by decide) ?_
  refine Only.step (State.moveLastEdge_only ..) (by decide) ?_
  refine Only.step (State.moveLastEdge_only ..) (by decide) ?_
  exact .refl

theorem State.stepBeacon_only (s : State) (d : ℤ) :
    Only [.regs, .clock, .igrel, .enc, .taper, .heads, .twin, .lantern, .led, .ptp, .ylog, .out, .flagged] s (State.stepBeacon s d) := by
  unfold State.stepBeacon
  dsimp only
  refine Only.step (State.logEvent_only ..) (by decide) ?_
  refine Only.ite (fun _ => ?_) (fun _ => ?_)
  · refine Only.step (State.sendTimes_only ..) (by decide) ?_
    refine Only.step (State.setBits_only ..) (by decide) ?_
    refine Only.step (State.bump_only ..) (by decide) ?_
    refine Only.with_clock_ptp (by decide) ?_
    refine Only.step (State.moveTimes_only ..) (by decide) ?_
    exact .refl
  · refine Only.step (State.setBits_only ..) (by decide) ?_
    refine Only.step (State.bump_only ..) (by decide) ?_
    refine Only.with_clock_ptp (by decide) ?_
    refine Only.step (State.moveTimes_only ..) (by decide) ?_
    exact .refl

theorem execTimeFrameSend_only (s : State) : OnlyNext [.heads, .out] s (execTimeFrameSend s) := by
  unfold execTimeFrameSend
  refine OnlyNext.ite (fun _ => ?_) (fun _ => ?_)
  · refine OnlyNext.next ?_
    refine Only.step (State.sendTimes_only ..) (by decide) ?_
    exact .refl
  · refine OnlyNext.next ?_
    exact .refl

theorem State.netStamp_only (s : State) (reading : ℕ) (latency : ℕ) : Only [.freeCtr] s (State.netStamp s reading latency).2 := by
  unfold State.netStamp
  split
  dsimp only
  refine Only.of_snd (by assumption) ?_
  refine Only.step (State.fresh_only ..) (by decide) ?_
  exact .refl

theorem State.sendPtp_only (s : State) (msg : ℕ) (seq : ℕ) (body : List Byte) : Only [.out] s (State.sendPtp s msg seq body) := by
  unfold State.sendPtp
  refine Only.step (State.emit_only ..) (by decide) ?_
  exact .refl

theorem execPtpSyncSend_only (s : State) : OnlyNext [.regs, .ptp, .out] s (execPtpSyncSend s) := by
  unfold execPtpSyncSend
  refine OnlyNext.ite (fun _ => ?_) (fun _ => ?_)
  · dsimp only
    refine OnlyNext.next ?_
    refine Only.with_ptp (by decide) ?_
    refine Only.step (State.bump_only ..) (by decide) ?_
    refine Only.step (State.sendPtp_only ..) (by decide) ?_
    exact .refl
  · refine OnlyNext.next ?_
    exact .refl

theorem execPtpTimestampVector_only (tx : Bool) (msg : ℕ) (s : State) : OnlyNext [.ptp] s (execPtpTimestampVector tx msg s) := by
  unfold execPtpTimestampVector
  refine OnlyNext.ite (fun _ => ?_) (fun _ => ?_)
  · refine OnlyNext.ite (fun _ => ?_) (fun _ => ?_)
    · refine OnlyNext.next ?_
      refine Only.ite (fun _ => ?_) (fun _ => ?_)
      · refine Only.with_ptp (by decide) ?_
        exact .refl
      · exact .refl
    · refine OnlyNext.next ?_
      refine Only.with_ptp (by decide) ?_
      exact .refl
  · refine OnlyNext.next ?_
    exact .refl

theorem State.takeStamp_only {s : State} {tx : Bool} {msg : Nat} {v : Nat} {u : State} (h : s.takeStamp tx msg = some (v, u)) :
    Only [.ptp] s u := by
  unfold State.takeStamp at h
  split at h
  · cases h
  · cases h
    exact Only.with_ptp (by decide) .refl

theorem execPtpFollowUp_only (s : State) : OnlyNext [.regs, .ptp, .out, .freeCtr] s (execPtpFollowUp s) := by
  unfold execPtpFollowUp
  split
  · refine OnlyNext.next ?_
    exact .refl
  · split
    · refine OnlyNext.next ?_
      exact .refl
    · split
      dsimp only
      refine OnlyNext.next ?_
      refine Only.with_ptp (by decide) ?_
      refine Only.step (State.sendPtp_only ..) (by decide) ?_
      refine Only.step (State.setReg_only ..) (by decide) ?_
      refine Only.of_snd (by assumption) ?_
      refine Only.step (State.netStamp_only ..) (by decide) ?_
      refine Only.step (State.takeStamp_only (by assumption)) (by decide) ?_
      exact .refl

theorem execPtpAnnounceSend_only (s : State) : OnlyNext [.ptp, .out] s (execPtpAnnounceSend s) := by
  unfold execPtpAnnounceSend
  refine OnlyNext.ite (fun _ => ?_) (fun _ => ?_)
  · dsimp only
    refine OnlyNext.next ?_
    refine Only.with_ptp (by decide) ?_
    refine Only.step (State.sendPtp_only ..) (by decide) ?_
    exact .refl
  · refine OnlyNext.next ?_
    exact .refl

theorem execPtpDelayReq_only (domain : ℕ) (identity : ℕ) (seq : ℕ) (s : State) :
    OnlyNext [.regs, .ptp, .out, .flagged, .freeCtr] s (execPtpDelayReq domain identity seq s) := by
  unfold execPtpDelayReq
  refine OnlyNext.ite (fun _ => ?_) (fun _ => ?_)
  · refine OnlyNext.next ?_
    exact .refl
  · dsimp only
    refine OnlyNext.ite (fun _ => ?_) (fun _ => ?_)
    · refine OnlyNext.next ?_
      refine Only.step (State.setBits_only ..) (by decide) ?_
      refine Only.step (State.bump_only ..) (by decide) ?_
      exact .refl
    · split
      · refine OnlyNext.next ?_
        refine Only.with_ptp (by decide) ?_
        exact .refl
      · refine OnlyNext.next ?_
        refine Only.step (State.bump_only ..) (by decide) ?_
        refine Only.step (State.sendPtp_only ..) (by decide) ?_
        refine Only.step (State.netStamp_only ..) (by decide) ?_
        refine Only.step (State.takeStamp_only (by assumption)) (by decide) ?_
        refine Only.with_ptp (by decide) ?_
        exact .refl

theorem execPtpForeignAnnounce_only (identity : ℕ) (s : State) :
    OnlyNext [.regs, .igrel, .ptp, .ylog, .out, .flagged] s (execPtpForeignAnnounce identity s) := by
  unfold execPtpForeignAnnounce
  refine OnlyNext.ite (fun _ => ?_) (fun _ => ?_)
  · refine OnlyNext.next ?_
    exact .refl
  · dsimp only
    refine OnlyNext.ite (fun _ => ?_) (fun _ => ?_)
    · refine OnlyNext.next ?_
      refine Only.step (State.logEvent_only ..) (by decide) ?_
      refine Only.with_ptp (by decide) ?_
      refine Only.step (State.setBits_only ..) (by decide) ?_
      refine Only.step (State.bump_only ..) (by decide) ?_
      exact .refl
    · refine OnlyNext.next ?_
      refine Only.step (State.setBits_only ..) (by decide) ?_
      refine Only.step (State.bump_only ..) (by decide) ?_
      exact .refl

/-! ### Motion -/

theorem State.placeSteps_only (s : State) (a : ℕ) : Only [.regs, .out] s (State.placeSteps s a) := by
  unfold State.placeSteps
  dsimp only
  refine Only.ite (fun _ => ?_) (fun _ => ?_)
  · exact .refl
  · refine Only.step (State.emit_only ..) (by decide) ?_
    refine Only.step (State.setSreg_only ..) (by decide) ?_
    exact .refl

theorem State.withdrawMove_only (s : State) (a : ℕ) : Only [.regs, .wick, .flagged] s (State.withdrawMove s a) := by
  unfold State.withdrawMove
  dsimp only
  refine Only.step (State.noteQueued_only ..) (by decide) ?_
  refine Only.with_wick (by decide) ?_
  refine Only.ite (fun _ => ?_) (fun _ => ?_)
  · refine Only.step (State.refundPool_only ..) (by decide) ?_
    refine Only.step (State.useLeave_only ..) (by decide) ?_
    exact .refl
  · exact .refl

theorem State.stopAxis_only (s : State) (lost : Bool) (a : ℕ) : Only [.regs, .wick, .axes, .flagged] s (State.stopAxis s lost a) := by
  unfold State.stopAxis
  dsimp only
  refine Only.step (State.setAxis_only ..) (by decide) ?_
  refine Only.ite (fun _ => ?_) (fun _ => ?_)
  · refine Only.step (State.withdrawMove_only ..) (by decide) ?_
    exact .refl
  · exact .refl

theorem State.stopEach_only (s : State) (lost : Bool) (x2 : List ℕ) :
    Only [.regs, .wick, .axes, .flagged] s (State.stopEach s lost x2) := by
  induction x2 generalizing s lost with | nil => ?_ | cons y l ih => ?_
  · simp only [State.stopEach]
    exact .refl
  · simp only [State.stopEach]
    refine Only.trans (ih ..) ?_
    refine Only.step (State.stopAxis_only ..) (by decide) ?_
    exact .refl

theorem State.stopPair_only (s : State) (a : ℕ) : Only [.regs, .wick, .axes, .flagged] s (State.stopPair s a) := by
  unfold State.stopPair
  dsimp only
  refine Only.step (State.stopEach_only ..) (by decide) ?_
  exact .refl

theorem State.halt_only (s : State) (x1 : List ℕ) : Only [.axes] s (State.halt s x1) := by
  induction x1 generalizing s with | nil => ?_ | cons y l ih => ?_
  · simp only [State.halt]
    exact .refl
  · simp only [State.halt]
    refine Only.trans (ih ..) ?_
    refine Only.step (State.setAxis_only ..) (by decide) ?_
    exact .refl

theorem State.stopAxes_only (s : State) : Only [.regs, .wick, .axes, .flagged] s (State.stopAxes s) := by
  unfold State.stopAxes
  refine Only.foldl (fun t x => ?_) ?_
  · refine Only.step (State.stopPair_only ..) (by decide) ?_
    exact .refl
  · exact .refl

theorem State.faultAxis_only (s : State) (a : ℕ) (code : ℕ) (ph : Phase) :
    Only [.regs, .igrel, .wick, .axes, .ylog, .out, .flagged] s (State.faultAxis s a code ph) := by
  unfold State.faultAxis
  dsimp only
  refine Only.step (State.logEvent_only ..) (by decide) ?_
  refine Only.step (State.emit_only ..) (by decide) ?_
  refine Only.step (State.setAxis_only ..) (by decide) ?_
  refine Only.step (State.setBits_only ..) (by decide) ?_
  refine Only.step (State.setReg_only ..) (by decide) ?_
  refine Only.step (State.stopEach_only ..) (by decide) ?_
  exact .refl

theorem State.replan_only (s : State) (a : ℕ) (goal : ℤ) : Only [.regs, .wick, .axes, .flagged] s (State.replan s a goal) := by
  unfold State.replan
  dsimp only
  refine Only.step (State.setAxis_only ..) (by decide) ?_
  refine Only.ite (fun _ => ?_) (fun _ => ?_)
  · refine Only.step (State.chargePool_only ..) (by decide) ?_
    exact .refl
  · exact .refl

theorem State.moveTo_only (s : State) (a : ℕ) (goal : ℤ) :
    Only [.regs, .igrel, .slots, .taper, .wick, .axes, .ylog, .out, .flagged] s (State.moveTo s a goal) := by
  unfold State.moveTo
  refine Only.ite (fun _ => ?_) (fun _ => ?_)
  · exact .refl
  · dsimp only
    refine Only.ite (fun _ => ?_) (fun _ => ?_)
    · refine Only.step (State.replan_only ..) (by decide) ?_
      refine Only.step (State.setSreg_only ..) (by decide) ?_
      exact .refl
    · split
      · refine Only.step (State.bump_only ..) (by decide) ?_
        refine Only.step (State.setAxis_only ..) (by decide) ?_
        refine Only.of_snd (by assumption) ?_
        refine Only.step (State.ask_only ..) (by decide) ?_
        refine Only.step (State.linesFirst_only ..) (by decide) ?_
        refine Only.step (State.setAxis_only ..) (by decide) ?_
        refine Only.step (State.withdrawMove_only ..) (by decide) ?_
        refine Only.step (State.setSreg_only ..) (by decide) ?_
        exact .refl
      · refine Only.of_snd (by assumption) ?_
        refine Only.step (State.ask_only ..) (by decide) ?_
        refine Only.step (State.linesFirst_only ..) (by decide) ?_
        refine Only.step (State.setAxis_only ..) (by decide) ?_
        refine Only.step (State.withdrawMove_only ..) (by decide) ?_
        refine Only.step (State.setSreg_only ..) (by decide) ?_
        exact .refl

theorem State.moveRefused_only (s : State) (a : ℕ) : Only [.regs, .axes] s (State.moveRefused s a) := by
  unfold State.moveRefused
  dsimp only
  refine Only.ite (fun _ => ?_) (fun _ => ?_)
  · refine Only.step (State.bump_only ..) (by decide) ?_
    refine Only.step (State.setAxis_only ..) (by decide) ?_
    exact .refl
  · exact .refl

theorem execMoveStart_only (axis : Fin 4) (s : State) : OnlyNext [.regs, .wick, .axes, .flagged] s (execMoveStart axis s) := by
  unfold execMoveStart
  dsimp only
  refine OnlyNext.ite (fun _ => ?_) (fun _ => ?_)
  · refine OnlyNext.next ?_
    refine Only.ite (fun _ => ?_) (fun _ => ?_)
    · refine Only.step (State.setAxis_only ..) (by decide) ?_
      refine Only.step (State.replan_only ..) (by decide) ?_
      refine Only.step (State.setAxis_only ..) (by decide) ?_
      refine Only.step (State.useLeave_only ..) (by decide) ?_
      exact .refl
    · refine Only.step (State.replan_only ..) (by decide) ?_
      refine Only.step (State.setAxis_only ..) (by decide) ?_
      refine Only.step (State.useLeave_only ..) (by decide) ?_
      exact .refl
  · refine OnlyNext.next ?_
    exact .refl

theorem State.startHome_only (s : State) (a : ℕ) : Only [.axes] s (State.startHome s a) := by
  unfold State.startHome
  dsimp only
  refine Only.step (State.setAxis_only ..) (by decide) ?_
  exact .refl

theorem State.startHomes_only (s : State) (x1 : List ℕ) : Only [.axes] s (State.startHomes s x1) := by
  induction x1 generalizing s with | nil => ?_ | cons y l ih => ?_
  · simp only [State.startHomes]
    exact .refl
  · simp only [State.startHomes]
    refine Only.trans (ih ..) ?_
    refine Only.step (State.startHome_only ..) (by decide) ?_
    exact .refl

theorem State.backOff_only (s : State) (a : ℕ) : Only [.axes] s (State.backOff s a) := by
  unfold State.backOff
  dsimp only
  refine Only.step (State.setAxis_only ..) (by decide) ?_
  exact .refl

theorem State.stalled_only (s : State) (a : ℕ) : Only [.regs, .axes] s (State.stalled s a) := by
  unfold State.stalled
  dsimp only
  refine Only.ite (fun _ => ?_) (fun _ => ?_)
  · refine Only.foldl (fun t x => ?_) ?_
    · refine Only.step (State.backOff_only ..) (by decide) ?_
      exact .refl
    · refine Only.step (State.setAxis_only ..) (by decide) ?_
      refine Only.step (State.setSreg_only ..) (by decide) ?_
      exact .refl
  · refine Only.step (State.setAxis_only ..) (by decide) ?_
    refine Only.step (State.setSreg_only ..) (by decide) ?_
    exact .refl

theorem State.homeFail_only (s : State) (a : ℕ) : Only [.regs, .wick, .axes, .flagged] s (State.homeFail s a) := by
  unfold State.homeFail
  refine Only.step (State.setBits_only ..) (by decide) ?_
  refine Only.step (State.stopPair_only ..) (by decide) ?_
  exact .refl

theorem State.fullStep_only (s : State) (a : ℕ) : Only [.regs, .axes, .freeCtr] s (State.fullStep s a) := by
  unfold State.fullStep
  dsimp only
  refine Only.ite (fun _ => ?_) (fun _ => ?_)
  · refine Only.ite (fun _ => ?_) (fun _ => ?_)
    · refine Only.step (State.setAxis_only ..) (by decide) ?_
      exact .refl
    · refine Only.step (State.setAxis_only ..) (by decide) ?_
      refine Only.step (State.setReg_only ..) (by decide) ?_
      split
      · refine Only.step (State.fresh_only ..) (by decide) ?_
        exact .refl
      · dsimp only
        exact .refl
  · refine Only.ite (fun _ => ?_) (fun _ => ?_)
    · refine Only.step (State.stalled_only ..) (by decide) ?_
      refine Only.step (State.setAxis_only ..) (by decide) ?_
      exact .refl
    · refine Only.step (State.setAxis_only ..) (by decide) ?_
      exact .refl

theorem State.tickMove_only (s : State) (a : ℕ) : Only [.regs, .axes, .out, .flagged] s (State.tickMove s a) := by
  unfold State.tickMove
  dsimp only
  refine Only.ite (fun _ => ?_) (fun _ => ?_)
  · refine Only.ite (fun _ => ?_) (fun _ => ?_)
    · refine Only.step (State.setBits_only ..) (by decide) ?_
      refine Only.step (State.setAxis_only ..) (by decide) ?_
      refine Only.step (State.placeSteps_only ..) (by decide) ?_
      refine Only.step (State.setAxis_only ..) (by decide) ?_
      exact .refl
    · refine Only.step (State.bump_only ..) (by decide) ?_
      refine Only.step (State.placeSteps_only ..) (by decide) ?_
      refine Only.step (State.setAxis_only ..) (by decide) ?_
      exact .refl
  · refine Only.step (State.placeSteps_only ..) (by decide) ?_
    refine Only.step (State.setAxis_only ..) (by decide) ?_
    exact .refl

theorem State.tickFollow_only (s : State) (old : Axis) : Only [.regs, .axes, .out] s (State.tickFollow s old) := by
  unfold State.tickFollow
  dsimp only
  refine Only.ite (fun _ => ?_) (fun _ => ?_)
  · refine Only.step (State.placeSteps_only ..) (by decide) ?_
    refine Only.step (State.setAxis_only ..) (by decide) ?_
    exact .refl
  · refine Only.step (State.bump_only ..) (by decide) ?_
    refine Only.step (State.placeSteps_only ..) (by decide) ?_
    refine Only.step (State.setAxis_only ..) (by decide) ?_
    exact .refl

theorem State.tickHome_only (s : State) (a : ℕ) : Only [.regs, .wick, .axes, .out, .flagged, .freeCtr] s (State.tickHome s a) := by
  unfold State.tickHome
  dsimp only
  refine Only.ite (fun _ => ?_) (fun _ => ?_)
  · refine Only.step (State.homeFail_only ..) (by decide) ?_
    refine Only.ite (fun _ => ?_) (fun _ => ?_)
    · refine Only.step (State.fullStep_only ..) (by decide) ?_
      refine Only.step (State.placeSteps_only ..) (by decide) ?_
      refine Only.step (State.setAxis_only ..) (by decide) ?_
      exact .refl
    · refine Only.step (State.placeSteps_only ..) (by decide) ?_
      refine Only.step (State.setAxis_only ..) (by decide) ?_
      exact .refl
  · refine Only.ite (fun _ => ?_) (fun _ => ?_)
    · refine Only.step (State.fullStep_only ..) (by decide) ?_
      refine Only.step (State.placeSteps_only ..) (by decide) ?_
      refine Only.step (State.setAxis_only ..) (by decide) ?_
      exact .refl
    · refine Only.step (State.placeSteps_only ..) (by decide) ?_
      refine Only.step (State.setAxis_only ..) (by decide) ?_
      exact .refl

theorem State.tickAxis_only (s : State) (a : ℕ) : Only [.regs, .wick, .axes, .out, .flagged, .freeCtr] s (State.tickAxis s a) := by
  unfold State.tickAxis
  dsimp only
  split
  · refine Only.ite (fun _ => ?_) (fun _ => ?_)
    · exact .refl
    · refine Only.step (State.tickMove_only ..) (by decide) ?_
      exact .refl
  · refine Only.step (State.tickMove_only ..) (by decide) ?_
    exact .refl
  · refine Only.step (State.tickHome_only ..) (by decide) ?_
    exact .refl
  · refine Only.step (State.tickHome_only ..) (by decide) ?_
    exact .refl
  · exact .refl

theorem State.unhalt_only (s : State) : Only [.axes] s (State.unhalt s) := by
  unfold State.unhalt
  refine Only.with_axes (by decide) ?_
  exact .refl

theorem execMotionTick_only (s : State) : OnlyNext [.regs, .wick, .axes, .out, .flagged, .freeCtr] s (execMotionTick s) := by
  unfold execMotionTick
  refine OnlyNext.ite (fun _ => ?_) (fun _ => ?_)
  · dsimp only
    refine OnlyNext.next ?_
    refine Only.step (State.tickAxis_only ..) (by decide) ?_
    refine Only.step (State.tickAxis_only ..) (by decide) ?_
    refine Only.ite (fun _ => ?_) (fun _ => ?_)
    · refine Only.step (State.tickFollow_only ..) (by decide) ?_
      refine Only.step (State.tickAxis_only ..) (by decide) ?_
      refine Only.step (State.unhalt_only ..) (by decide) ?_
      exact .refl
    · refine Only.step (State.tickAxis_only ..) (by decide) ?_
      refine Only.step (State.tickAxis_only ..) (by decide) ?_
      refine Only.step (State.unhalt_only ..) (by decide) ?_
      exact .refl
  · refine OnlyNext.next ?_
    exact .refl

theorem execChopperTrip_only (axis : Fin 4) (ph : Phase) (driveNs : ℕ) (s : State) :
    OnlyNext [.axes, .out] s (execChopperTrip axis ph driveNs s) := by
  unfold execChopperTrip
  dsimp only
  refine OnlyNext.ite (fun _ => ?_) (fun _ => ?_)
  · refine OnlyNext.next ?_
    refine Only.step (State.emit_only ..) (by decide) ?_
    refine Only.step (State.setAxis_only ..) (by decide) ?_
    exact .refl
  · refine OnlyNext.next ?_
    exact .refl

theorem execChopperToffExpiry_only (axis : Fin 4) (ph : Phase) (s : State) :
    OnlyNext [.axes, .out] s (execChopperToffExpiry axis ph s) := by
  unfold execChopperToffExpiry
  dsimp only
  refine OnlyNext.ite (fun _ => ?_) (fun _ => ?_)
  · refine OnlyNext.next ?_
    refine Only.step (State.emitAll_only ..) (by decide) ?_
    refine Only.step (State.setAxis_only ..) (by decide) ?_
    exact .refl
  · refine OnlyNext.next ?_
    exact .refl

theorem execChopperBlankExpiry_only (axis : Fin 4) (ph : Phase) (high : Bool) (s : State) :
    OnlyNext [.regs, .igrel, .wick, .axes, .ylog, .out, .flagged] s (execChopperBlankExpiry axis ph high s) := by
  unfold execChopperBlankExpiry
  dsimp only
  refine OnlyNext.ite (fun _ => ?_) (fun _ => ?_)
  · refine OnlyNext.next ?_
    refine Only.ite (fun _ => ?_) (fun _ => ?_)
    · refine Only.step (State.faultAxis_only ..) (by decide) ?_
      refine Only.step (State.setAxis_only ..) (by decide) ?_
      exact .refl
    · refine Only.step (State.emit_only ..) (by decide) ?_
      refine Only.step (State.setAxis_only ..) (by decide) ?_
      exact .refl
  · refine OnlyNext.next ?_
    exact .refl

theorem execPhaseOpenTimeout_only (axis : Fin 4) (ph : Phase) (s : State) :
    OnlyNext [.regs, .igrel, .wick, .axes, .ylog, .out, .flagged] s (execPhaseOpenTimeout axis ph s) := by
  unfold execPhaseOpenTimeout
  refine OnlyNext.ite (fun _ => ?_) (fun _ => ?_)
  · refine OnlyNext.next ?_
    refine Only.step (State.faultAxis_only ..) (by decide) ?_
    exact .refl
  · refine OnlyNext.next ?_
    exact .refl

end Sys2Proof.Machine
end

