-- ==== Sys2Proof/Laws/FramesLedToPower.lean ====
section
/-! SUPPORT. The frame of every operation and meaning of Machine/Led.lean, Loop.lean, Upload.lean, Lantern.lean, Power.lean: the only fields of the state that
it can change. -/

namespace Sys2Proof.Machine

/-! ### Led -/

theorem State.ledsLow_only (s : State) : Only [.led, .out] s (State.ledsLow s) := by
  unfold State.ledsLow
  refine Only.step (State.emit_only ..) (by decide) ?_
  refine Only.with_led (by decide) ?_
  exact .refl

theorem State.openWindow_only (s : State) (c : ℕ) (exposure : ℕ) (ons : List ℕ) :
    Only [.led, .out] s (State.openWindow s c exposure ons) := by
  unfold State.openWindow
  refine Only.ite (fun _ => ?_) (fun _ => ?_)
  · exact .refl
  · dsimp only
    refine Only.step (State.emit_only ..) (by decide) ?_
    refine Only.with_led (by decide) ?_
    exact .refl

theorem State.darken_only (s : State) : Only [.lantern] s (State.darken s) := by
  unfold State.darken
  dsimp only
  refine Only.with_lantern (by decide) ?_
  exact .refl

theorem State.ledSample_only (s : State) (slot : ℕ) (y : ℕ) :
    Only [.regs, .igrel, .lantern, .led, .ylog, .out, .flagged] s (State.ledSample s slot y) := by
  unfold State.ledSample
  refine Only.ite (fun _ => ?_) (fun _ => ?_)
  · exact .refl
  · dsimp only
    refine Only.ite (fun _ => ?_) (fun _ => ?_)
    · refine Only.ite (fun _ => ?_) (fun _ => ?_)
      · refine Only.step (State.setBits_only ..) (by decide) ?_
        refine Only.step (State.ledsLow_only ..) (by decide) ?_
        refine Only.step (State.darken_only ..) (by decide) ?_
        exact .refl
      · refine Only.step (State.logEvent_only ..) (by decide) ?_
        refine Only.with_led (by decide) ?_
        refine Only.step (State.setBits_only ..) (by decide) ?_
        refine Only.step (State.ledsLow_only ..) (by decide) ?_
        refine Only.step (State.darken_only ..) (by decide) ?_
        exact .refl
    · refine Only.ite (fun _ => ?_) (fun _ => ?_)
      · refine Only.with_led (by decide) ?_
        exact .refl
      · exact .refl

theorem State.askLight_only (s : State) (c : ℕ) (set : CamSet) (derate : ℕ) :
    Only [.regs, .igrel, .slots, .taper, .wick, .ylog, .out, .flagged] s (State.askLight s c set derate).2 := by
  unfold State.askLight
  split
  · dsimp only
    exact .refl
  · dsimp only
    split
    · dsimp only
      refine Only.step (State.useLeave_only ..) (by decide) ?_
      refine Only.of_snd (by assumption) ?_
      refine Only.step (State.ask_only ..) (by decide) ?_
      refine Only.step (State.linesFirst_only ..) (by decide) ?_
      exact .refl
    · dsimp only
      refine Only.step (State.bump_only ..) (by decide) ?_
      refine Only.of_snd (by assumption) ?_
      refine Only.step (State.ask_only ..) (by decide) ?_
      refine Only.step (State.linesFirst_only ..) (by decide) ?_
      exact .refl

/-! ### Loop -/

theorem State.adcRaw_only (s : State) (i : ℕ) (miso : ℕ) : Only [.freeCtr] s (State.adcRaw s i miso).2 := by
  unfold State.adcRaw
  dsimp only
  split
  · dsimp only
    exact .refl
  · refine Only.step (State.fresh_only ..) (by decide) ?_
    exact .refl

theorem State.spiAdd_only (s : State) (p : ℕ) (slot : ℕ) (code : Option ℕ) : Only [.spi, .out] s (State.spiAdd s p slot code) := by
  unfold State.spiAdd
  dsimp only
  split
  · refine Only.ite (fun _ => ?_) (fun _ => ?_)
    · refine Only.step (State.emit_only ..) (by decide) ?_
      refine Only.with_spi (by decide) ?_
      exact .refl
    · refine Only.with_spi (by decide) ?_
      exact .refl
  · refine Only.with_spi (by decide) ?_
    exact .refl

theorem State.spiPop_only (s : State) (p : ℕ) : Only [.spi, .out] s (State.spiPop s p) := by
  unfold State.spiPop
  dsimp only
  split
  · refine Only.ite (fun _ => ?_) (fun _ => ?_)
    · refine Only.step (State.emit_only ..) (by decide) ?_
      refine Only.with_spi (by decide) ?_
      exact .refl
    · refine Only.with_spi (by decide) ?_
      exact .refl
  · refine Only.with_spi (by decide) ?_
    exact .refl

theorem State.actuate_only (s : State) (i : ℕ) : Only [.heads, .spi, .out] s (State.actuate s i) := by
  unfold State.actuate
  dsimp only
  split
  · refine Only.ite (fun _ => ?_) (fun _ => ?_)
    · refine Only.step (State.sendCtrl_only ..) (by decide) ?_
      exact .refl
    · exact .refl
  · refine Only.step (State.spiAdd_only ..) (by decide) ?_
    exact .refl
  · exact .refl

theorem State.chargeSample_only (s : State) (i : ℕ) : Only [.regs, .wick, .flagged, .freeCtr] s (State.chargeSample s i) := by
  unfold State.chargeSample
  dsimp only
  refine Only.ite (fun _ => ?_) (fun _ => ?_)
  · exact .refl
  · refine Only.ite (fun _ => ?_) (fun _ => ?_)
    · refine Only.step (State.chargePool_only ..) (by decide) ?_
      refine Only.step (State.fresh_only ..) (by decide) ?_
      exact .refl
    · refine Only.step (State.chargePool_only ..) (by decide) ?_
      exact .refl

theorem State.trip_only (s : State) (i : ℕ) (test : ℕ) : Only [.regs, .igrel, .loops, .ylog, .out, .flagged] s (State.trip s i test) := by
  unfold State.trip
  refine Only.ite (fun _ => ?_) (fun _ => ?_)
  · exact .refl
  · dsimp only
    refine Only.step (State.logEvent_only ..) (by decide) ?_
    refine Only.ite (fun _ => ?_) (fun _ => ?_)
    · refine Only.step (State.setCause_only ..) (by decide) ?_
      refine Only.step (State.setLoop_only ..) (by decide) ?_
      refine Only.step (State.setBits_only ..) (by decide) ?_
      refine Only.step (State.setReg_only ..) (by decide) ?_
      exact .refl
    · refine Only.step (State.setLoop_only ..) (by decide) ?_
      refine Only.step (State.setBits_only ..) (by decide) ?_
      refine Only.step (State.setReg_only ..) (by decide) ?_
      exact .refl

theorem State.goSafe_only (s : State) (i : ℕ) : Only [.regs, .heads, .loops, .spi, .out] s (State.goSafe s i) := by
  unfold State.goSafe
  dsimp only
  refine Only.step (State.actuate_only ..) (by decide) ?_
  refine Only.step (State.setLoop_only ..) (by decide) ?_
  refine Only.step (State.setReg_only ..) (by decide) ?_
  exact .refl

theorem State.supervise_only (s : State) (i : ℕ) (y : ℕ) (r : LoopOut) :
    Only [.regs, .igrel, .loops, .ylog, .out, .flagged] s (State.supervise s i y r) := by
  unfold State.supervise
  dsimp only
  split
  · refine Only.step (State.trip_only ..) (by decide) ?_
    refine Only.step (State.setLoop_only ..) (by decide) ?_
    exact .refl
  · refine Only.step (State.setLoop_only ..) (by decide) ?_
    exact .refl

theorem State.sampleLoop_only (s : State) (i : ℕ) (raw : ℕ) :
    Only [.regs, .igrel, .heads, .lantern, .led, .wick, .loops, .spi, .ylog, .out, .flagged, .freeCtr] s (State.sampleLoop s i raw) := by
  unfold State.sampleLoop
  dsimp only
  refine Only.step (State.ledSample_only ..) (by decide) ?_
  refine Only.step (State.chargeSample_only ..) (by decide) ?_
  refine Only.step (State.actuate_only ..) (by decide) ?_
  refine Only.step (State.bump_only ..) (by decide) ?_
  refine Only.step (State.setReg_only ..) (by decide) ?_
  refine Only.step (State.setReg_only ..) (by decide) ?_
  refine Only.step (State.setReg_only ..) (by decide) ?_
  refine Only.step (State.setReg_only ..) (by decide) ?_
  refine Only.step (State.setReg_only ..) (by decide) ?_
  refine Only.step (State.setLoop_only ..) (by decide) ?_
  refine Only.step (State.supervise_only ..) (by decide) ?_
  exact .refl

theorem State.staleLoop_only (s : State) (i : ℕ) :
    Only [.regs, .igrel, .heads, .loops, .spi, .ylog, .out, .flagged] s (State.staleLoop s i) := by
  unfold State.staleLoop
  dsimp only
  refine Only.ite (fun _ => ?_) (fun _ => ?_)
  · refine Only.step (State.goSafe_only ..) (by decide) ?_
    refine Only.step (State.trip_only ..) (by decide) ?_
    refine Only.step (State.bump_only ..) (by decide) ?_
    refine Only.step (State.setLoop_only ..) (by decide) ?_
    exact .refl
  · refine Only.step (State.bump_only ..) (by decide) ?_
    refine Only.step (State.setLoop_only ..) (by decide) ?_
    exact .refl

theorem State.startSample_only (s : State) (i : ℕ) : Only [.regs, .loops] s (State.startSample s i) := by
  unfold State.startSample
  dsimp only
  refine Only.step (State.setLoop_only ..) (by decide) ?_
  refine Only.ite (fun _ => ?_) (fun _ => ?_)
  · refine Only.step (State.setReg_only ..) (by decide) ?_
    exact .refl
  · exact .refl

theorem State.takeSample_only (s : State) (i : ℕ) :
    Only [.regs, .igrel, .heads, .lantern, .led, .wick, .loops, .spi, .ylog, .out, .flagged, .freeCtr] s (State.takeSample s i) := by
  unfold State.takeSample
  dsimp only
  split
  · split
    · refine Only.step (State.sampleLoop_only ..) (by decide) ?_
      refine Only.step (State.startSample_only ..) (by decide) ?_
      exact .refl
    · refine Only.step (State.staleLoop_only ..) (by decide) ?_
      refine Only.step (State.startSample_only ..) (by decide) ?_
      exact .refl
  · refine Only.step (State.spiAdd_only ..) (by decide) ?_
    refine Only.step (State.setLoop_only ..) (by decide) ?_
    refine Only.step (State.startSample_only ..) (by decide) ?_
    exact .refl
  · refine Only.step (State.sampleLoop_only ..) (by decide) ?_
    refine Only.step (State.startSample_only ..) (by decide) ?_
    exact .refl
  · refine Only.step (State.sampleLoop_only ..) (by decide) ?_
    refine Only.step (State.startSample_only ..) (by decide) ?_
    exact .refl

theorem State.sampleSlot_only (s : State) (ahead : Bool) (i : ℕ) :
    Only [.regs, .igrel, .heads, .lantern, .led, .wick, .loops, .spi, .ylog, .out, .flagged, .freeCtr] s (State.sampleSlot s ahead i) := by
  unfold State.sampleSlot
  dsimp only
  refine Only.ite (fun _ => ?_) (fun _ => ?_)
  · refine Only.step (State.bump_only ..) (by decide) ?_
    refine Only.step (State.setLoop_only ..) (by decide) ?_
    exact .refl
  · refine Only.step (State.takeSample_only ..) (by decide) ?_
    refine Only.step (State.setLoop_only ..) (by decide) ?_
    exact .refl

theorem execLoopSample_only (i : Fin 48) (s : State) :
    OnlyNext [.regs, .igrel, .heads, .lantern, .led, .wick, .loops, .spi, .ylog, .out, .flagged, .freeCtr] s (execLoopSample i s) := by
  unfold execLoopSample
  refine OnlyNext.ite (fun _ => ?_) (fun _ => ?_)
  · refine OnlyNext.next ?_
    exact .refl
  · refine OnlyNext.ite (fun _ => ?_) (fun _ => ?_)
    · refine OnlyNext.next ?_
      refine Only.step (State.setLoop_only ..) (by decide) ?_
      exact .refl
    · refine OnlyNext.next ?_
      refine Only.step (State.sampleSlot_only ..) (by decide) ?_
      refine Only.foldl (fun t x => ?_) ?_
      · refine Only.step (State.sampleSlot_only ..) (by decide) ?_
        exact .refl
      · exact .refl

theorem execSpiSenseDone_only (p : Fin 4) (bits : ℕ) (s : State) :
    OnlyNext [.regs, .igrel, .heads, .lantern, .led, .wick, .loops, .spi, .ylog, .out, .flagged, .freeCtr] s (execSpiSenseDone p bits
      s) := by
  unfold execSpiSenseDone
  split
  · refine OnlyNext.ite (fun _ => ?_) (fun _ => ?_)
    · split
      refine OnlyNext.next ?_
      refine Only.step (State.spiPop_only ..) (by decide) ?_
      refine Only.step (State.sampleLoop_only ..) (by decide) ?_
      refine Only.of_snd (by assumption) ?_
      refine Only.step (State.adcRaw_only ..) (by decide) ?_
      exact .refl
    · refine OnlyNext.next ?_
      refine Only.step (State.spiPop_only ..) (by decide) ?_
      exact .refl
  · refine OnlyNext.next ?_
    exact .refl

theorem execSpiActuatorWrite_only (p : Fin 4) (s : State) : OnlyNext [.spi, .out] s (execSpiActuatorWrite p s) := by
  unfold execSpiActuatorWrite
  split
  · refine OnlyNext.next ?_
    refine Only.step (State.spiPop_only ..) (by decide) ?_
    refine Only.step (State.emit_only ..) (by decide) ?_
    exact .refl
  · refine OnlyNext.next ?_
    exact .refl

theorem execLoopFollowTimeout_only (i : Fin 48) (s : State) :
    OnlyNext [.regs, .igrel, .heads, .loops, .spi, .ylog, .out, .flagged] s (execLoopFollowTimeout i s) := by
  unfold execLoopFollowTimeout
  dsimp only
  refine OnlyNext.ite (fun _ => ?_) (fun _ => ?_)
  · refine OnlyNext.next ?_
    refine Only.step (State.goSafe_only ..) (by decide) ?_
    refine Only.step (State.trip_only ..) (by decide) ?_
    exact .refl
  · refine OnlyNext.next ?_
    exact .refl

theorem State.loopSnuff_only (s : State) : Only [.regs, .heads, .loops, .spi, .out] s (State.loopSnuff s) := by
  unfold State.loopSnuff
  refine Only.ite (fun _ => ?_) (fun _ => ?_)
  · exact .refl
  · refine Only.foldl (fun t x => ?_) ?_
    · refine Only.ite (fun _ => ?_) (fun _ => ?_)
      · refine Only.step (State.goSafe_only ..) (by decide) ?_
        exact .refl
      · exact .refl
    · exact .refl

theorem State.takeLoops_only (s : State) (record : List Byte) : Only [.regs, .loops] s (State.takeLoops s record) := by
  unfold State.takeLoops
  refine Only.foldl (fun t x => ?_) ?_
  · dsimp only
    refine Only.step (State.setLoop_only ..) (by decide) ?_
    refine Only.step (State.setReg_only ..) (by decide) ?_
    refine Only.step (State.setReg_only ..) (by decide) ?_
    exact .refl
  · exact .refl

/-! ### Upload -/

theorem State.writeBack_only (s : State) (ch : ℕ) : Only [.doms, .chans] s (State.writeBack s ch) := by
  unfold State.writeBack
  dsimp only
  split
  · exact .refl
  · split
    · exact .refl
    · refine Only.ite (fun _ => ?_) (fun _ => ?_)
      · refine Only.step (State.setDom_only ..) (by decide) ?_
        refine Only.step (State.setChan_only ..) (by decide) ?_
        exact .refl
      · exact .refl

theorem State.endRequest_only (s : State) (ch : ℕ) (status : ℕ) : Only [.doms, .chans] s (State.endRequest s ch status) := by
  unfold State.endRequest
  dsimp only
  split
  · exact .refl
  · refine Only.ite (fun _ => ?_) (fun _ => ?_)
    · exact .refl
    · refine Only.step (State.writeBack_only ..) (by decide) ?_
      refine Only.step (State.setChan_only ..) (by decide) ?_
      exact .refl

theorem State.noteCoded_only (s : State) (ch : ℕ) (x2 : Coded) :
    Only [.regs, .igrel, .ylog, .out, .flagged] s (State.noteCoded s ch x2) := by
  unfold State.noteCoded
  split
  · exact .refl
  · refine Only.step (State.bump_only ..) (by decide) ?_
    exact .refl
  · refine Only.step (State.logEvent_only ..) (by decide) ?_
    refine Only.step (State.bump_only ..) (by decide) ?_
    exact .refl

theorem State.storePacket_only (s : State) (ch : ℕ) (addr : ℕ) (p : Pkt) (k : Coded) (chunk : List Byte) :
    Only [.regs, .chans, .dram] s (State.storePacket s ch addr p k chunk) := by
  unfold State.storePacket
  dsimp only
  refine Only.step (State.setChan_only ..) (by decide) ?_
  refine Only.step (State.count_only ..) (by decide) ?_
  refine Only.step (State.setReg_only ..) (by decide) ?_
  refine Only.step (State.writeMem_only ..) (by decide) ?_
  exact .refl

theorem State.runResult_only (s : State) : Only [.doms, .freeCtr] s (State.runResult s) := by
  unfold State.runResult
  dsimp only
  split
  · refine Only.step (State.setDom_only ..) (by decide) ?_
    exact .refl
  · refine Only.step (State.setDom_only ..) (by decide) ?_
    refine Only.step (State.fresh_only ..) (by decide) ?_
    refine Only.step (State.fresh_only ..) (by decide) ?_
    refine Only.step (State.fresh_only ..) (by decide) ?_
    refine Only.step (State.fresh_only ..) (by decide) ?_
    exact .refl

theorem State.closeRun_only (s : State) : Only [.doms, .chans, .freeCtr] s (State.closeRun s) := by
  unfold State.closeRun
  dsimp only
  refine Only.step (State.setChan_only ..) (by decide) ?_
  split
  · refine Only.step (State.setChan_only ..) (by decide) ?_
    exact .refl
  · refine Only.step (State.runResult_only ..) (by decide) ?_
    exact .refl

theorem State.endRun_only (s : State) : Only [.doms, .chans, .freeCtr] s (State.endRun s) := by
  unfold State.endRun
  dsimp only
  refine Only.ite (fun _ => ?_) (fun _ => ?_)
  · refine Only.step (State.setChan_only ..) (by decide) ?_
    exact .refl
  · refine Only.step (State.closeRun_only ..) (by decide) ?_
    exact .refl

theorem State.holdChunk_only (s : State) (ch : ℕ) : Only [.regs, .doms, .chans, .freeCtr] s (State.holdChunk s ch) := by
  unfold State.holdChunk
  dsimp only
  refine Only.ite (fun _ => ?_) (fun _ => ?_)
  · refine Only.step (State.setChan_only ..) (by decide) ?_
    refine Only.step (State.count_only ..) (by decide) ?_
    exact .refl
  · split
    · refine Only.step (State.setChan_only ..) (by decide) ?_
      refine Only.step (State.bump_only ..) (by decide) ?_
      exact .refl
    · refine Only.step (State.closeRun_only ..) (by decide) ?_
      refine Only.step (State.setChan_only ..) (by decide) ?_
      refine Only.step (State.bump_only ..) (by decide) ?_
      exact .refl

theorem State.compressNormal_only (s : State) (ch : ℕ) (n : ℕ) (ends : Bool) :
    Only [.regs, .doms, .igrel, .chans, .dram, .ylog, .out, .flagged, .freeCtr] s (State.compressNormal s ch n ends) := by
  unfold State.compressNormal
  dsimp only
  split
  · refine Only.step (State.holdChunk_only ..) (by decide) ?_
    refine Only.ite (fun _ => ?_) (fun _ => ?_)
    · refine Only.step (State.noteCoded_only ..) (by decide) ?_
      exact .refl
    · exact .refl
  · refine Only.step (State.setChan_only ..) (by decide) ?_
    refine Only.step (State.storePacket_only ..) (by decide) ?_
    refine Only.step (State.noteCoded_only ..) (by decide) ?_
    exact .refl

theorem State.readChunk_only (s : State) (ch : ℕ) (r : UReq) : Only [.dram] s (State.readChunk s ch r) := by
  unfold State.readChunk
  refine Only.ite (fun _ => ?_) (fun _ => ?_)
  · refine Only.step (State.askMem_only ..) (by decide) ?_
    exact .refl
  · exact .refl

theorem State.compressRequest_only (s : State) (ch : ℕ) (r : UReq) (image : List Byte) :
    Only [.regs, .doms, .igrel, .chans, .dram, .ylog, .out, .flagged] s (State.compressRequest s ch r image) := by
  unfold State.compressRequest
  dsimp only
  refine Only.ite (fun _ => ?_) (fun _ => ?_)
  · exact .refl
  · refine Only.ite (fun _ => ?_) (fun _ => ?_)
    · refine Only.step (State.endRequest_only ..) (by decide) ?_
      refine Only.step (State.noteCoded_only ..) (by decide) ?_
      exact .refl
    · refine Only.ite (fun _ => ?_) (fun _ => ?_)
      · refine Only.step (State.endRequest_only ..) (by decide) ?_
        refine Only.step (State.setChan_only ..) (by decide) ?_
        refine Only.step (State.storePacket_only ..) (by decide) ?_
        refine Only.step (State.noteCoded_only ..) (by decide) ?_
        exact .refl
      · refine Only.step (State.readChunk_only ..) (by decide) ?_
        refine Only.step (State.setChan_only ..) (by decide) ?_
        refine Only.step (State.storePacket_only ..) (by decide) ?_
        refine Only.step (State.noteCoded_only ..) (by decide) ?_
        exact .refl

theorem State.txTime_only (s : State) : Only [.freeCtr] s (State.txTime s).2 := by
  unfold State.txTime
  split
  dsimp only
  refine Only.of_snd (by assumption) ?_
  refine Only.step (State.fresh_only ..) (by decide) ?_
  exact .refl

theorem State.firstSend_only (s : State) (ch : ℕ) (p : Pkt) : Only [.regs, .doms, .chans, .freeCtr] s (State.firstSend s ch p) := by
  unfold State.firstSend
  split
  dsimp only
  split
  · refine Only.step (State.setChan_only ..) (by decide) ?_
    refine Only.step (State.count_only ..) (by decide) ?_
    refine Only.of_snd (by assumption) ?_
    refine Only.step (State.txTime_only ..) (by decide) ?_
    exact .refl
  · refine Only.step (State.setDom_only ..) (by decide) ?_
    refine Only.step (State.setChan_only ..) (by decide) ?_
    refine Only.step (State.count_only ..) (by decide) ?_
    refine Only.of_snd (by assumption) ?_
    refine Only.step (State.txTime_only ..) (by decide) ?_
    exact .refl

theorem State.sendPacket_only (s : State) (ch : ℕ) (p : Pkt) : Only [.regs, .doms, .chans, .out, .freeCtr] s (State.sendPacket s ch p) := by
  unfold State.sendPacket
  dsimp only
  refine Only.step (State.setChan_only ..) (by decide) ?_
  refine Only.ite (fun _ => ?_) (fun _ => ?_)
  · refine Only.step (State.emit_only ..) (by decide) ?_
    exact .refl
  · refine Only.step (State.firstSend_only ..) (by decide) ?_
    refine Only.step (State.emit_only ..) (by decide) ?_
    exact .refl

theorem State.resendFrom_only (s : State) (ch : ℕ) (q : ℕ) : Only [.regs, .chans] s (State.resendFrom s ch q) := by
  unfold State.resendFrom
  dsimp only
  refine Only.step (State.bump_only ..) (by decide) ?_
  refine Only.step (State.setChan_only ..) (by decide) ?_
  exact .refl

theorem State.ackTo_only (s : State) (ch : ℕ) (v : ℕ) : Only [.doms, .chans] s (State.ackTo s ch v) := by
  unfold State.ackTo
  dsimp only
  refine Only.step (State.writeBack_only ..) (by decide) ?_
  refine Only.step (State.setChan_only ..) (by decide) ?_
  exact .refl

theorem execFlushTimeExpiry_only (ch : Fin 4) (s : State) : OnlyNext [.chans] s (execFlushTimeExpiry ch s) := by
  unfold execFlushTimeExpiry
  dsimp only
  refine OnlyNext.ite (fun _ => ?_) (fun _ => ?_)
  · refine OnlyNext.next ?_
    refine Only.step (State.setChan_only ..) (by decide) ?_
    exact .refl
  · refine OnlyNext.next ?_
    exact .refl

theorem execUploadPacketSend_only (s : State) : OnlyNext [.regs, .doms, .chans, .out, .freeCtr] s (execUploadPacketSend s) := by
  unfold execUploadPacketSend
  refine OnlyNext.ite (fun _ => ?_) (fun _ => ?_)
  · split
    · refine OnlyNext.next ?_
      refine Only.step (State.sendPacket_only ..) (by decide) ?_
      exact .refl
    · refine OnlyNext.next ?_
      exact .refl
  · refine OnlyNext.next ?_
    exact .refl

theorem execUploadCreditGrant_only (ch : ℕ) (v : ℕ) (s : State) : OnlyNext [.chans] s (execUploadCreditGrant ch v s) := by
  unfold execUploadCreditGrant
  refine OnlyNext.ite (fun _ => ?_) (fun _ => ?_)
  · dsimp only
    refine OnlyNext.next ?_
    refine Only.step (State.setChan_only ..) (by decide) ?_
    exact .refl
  · refine OnlyNext.next ?_
    exact .refl

theorem execUploadResend_only (ch : ℕ) (v : ℕ) (s : State) : OnlyNext [.regs, .chans] s (execUploadResend ch v s) := by
  unfold execUploadResend
  refine OnlyNext.ite (fun _ => ?_) (fun _ => ?_)
  · refine OnlyNext.next ?_
    refine Only.step (State.resendFrom_only ..) (by decide) ?_
    exact .refl
  · refine OnlyNext.next ?_
    exact .refl

theorem execUploadAck_only (ch : ℕ) (v : ℕ) (s : State) : OnlyNext [.doms, .chans] s (execUploadAck ch v s) := by
  unfold execUploadAck
  refine OnlyNext.ite (fun _ => ?_) (fun _ => ?_)
  · refine OnlyNext.next ?_
    refine Only.step (State.ackTo_only ..) (by decide) ?_
    exact .refl
  · refine OnlyNext.next ?_
    exact .refl

theorem execUploadEntryDropped_only (x0 : ℕ) (x1 : ℕ) (s : State) : OnlyNext [] s (execUploadEntryDropped x0 x1 s) := by
  unfold execUploadEntryDropped
  refine OnlyNext.next ?_
  exact .refl

theorem execAckTimeoutExpiry_only (ch : Fin 4) (s : State) : OnlyNext [.regs, .chans] s (execAckTimeoutExpiry ch s) := by
  unfold execAckTimeoutExpiry
  split
  · refine OnlyNext.ite (fun _ => ?_) (fun _ => ?_)
    · refine OnlyNext.next ?_
      refine Only.step (State.resendFrom_only ..) (by decide) ?_
      exact .refl
    · refine OnlyNext.next ?_
      exact .refl
  · refine OnlyNext.next ?_
    exact .refl

theorem State.startUpload_only (s : State) (r : UAsk) : Only [.chans, .dram] s (State.startUpload s r) := by
  unfold State.startUpload
  dsimp only
  refine Only.step (State.readChunk_only ..) (by decide) ?_
  refine Only.step (State.setChan_only ..) (by decide) ?_
  exact .refl

theorem State.uploadReset_only (s : State) : Only [.doms, .chans] s (State.uploadReset s) := by
  unfold State.uploadReset
  dsimp only
  refine Only.foldl (fun t x => ?_) ?_
  · refine Only.step (State.setChan_only ..) (by decide) ?_
    refine Only.step (State.writeBack_only ..) (by decide) ?_
    refine Only.step (State.setChan_only ..) (by decide) ?_
    exact .refl
  · refine Only.step (State.endRequest_only ..) (by decide) ?_
    refine Only.step (State.endRequest_only ..) (by decide) ?_
    exact .refl

theorem State.uploadRelease_only (s : State) : Only [.regs] s (State.uploadRelease s) := by
  unfold State.uploadRelease
  refine Only.foldl (fun t x => ?_) ?_
  · refine Only.step (State.setReg_only ..) (by decide) ?_
    exact .refl
  · exact .refl

/-! ### Lantern -/

theorem State.setFrame_only (s : State) (p : ℕ) (f : Frame) : Only [.lantern] s (State.setFrame s p f) := by
  unfold State.setFrame
  refine Only.with_lantern (by decide) ?_
  exact .refl

theorem State.tapOut_only (s : State) (b : List Byte) : Only [.chans] s (State.tapOut s b) := by
  unfold State.tapOut
  dsimp only
  refine Only.ite (fun _ => ?_) (fun _ => ?_)
  · exact .refl
  · refine Only.step (State.setChan_only ..) (by decide) ?_
    exact .refl

theorem State.startTap_only (s : State) (c : ℕ) : Only [.regs, .lantern, .chans] s (State.startTap s c) := by
  unfold State.startTap
  split
  · refine Only.ite (fun _ => ?_) (fun _ => ?_)
    · refine Only.with_lantern (by decide) ?_
      exact .refl
    · exact .refl
  · dsimp only
    refine Only.ite (fun _ => ?_) (fun _ => ?_)
    · refine Only.ite (fun _ => ?_) (fun _ => ?_)
      · refine Only.step (State.bump_only ..) (by decide) ?_
        exact .refl
      · refine Only.step (State.setChan_only ..) (by decide) ?_
        exact .refl
    · exact .refl
  · exact .refl

theorem State.select_only (s : State) (p : ℕ) (c : ℕ) : Only [.lantern, .out] s (State.select s p c) := by
  unfold State.select
  refine Only.step (State.emit_only ..) (by decide) ?_
  refine Only.with_lantern (by decide) ?_
  exact .refl

theorem execCameraFrameStart_only (p : Fin 2) (s : State) :
    OnlyNext [.regs, .igrel, .decomp, .slots, .taper, .lantern, .chans, .dram, .wick, .ylog, .out, .flagged] s (execCameraFrameStart p
      s) := by
  unfold execCameraFrameStart
  refine OnlyNext.ite (fun _ => ?_) (fun _ => ?_)
  · refine OnlyNext.next ?_
    exact .refl
  · split
    · refine OnlyNext.next ?_
      exact .refl
    · dsimp only
      refine OnlyNext.next ?_
      refine Only.step (State.startTap_only ..) (by decide) ?_
      refine Only.step (State.select_only ..) (by decide) ?_
      refine Only.with_lantern (by decide) ?_
      refine Only.step (State.setFrame_only ..) (by decide) ?_
      refine Only.step (State.askLight_only ..) (by decide) ?_
      refine Only.step (State.setReg_only ..) (by decide) ?_
      refine Only.step (State.setReg_only ..) (by decide) ?_
      refine Only.step (State.takeJobs_only ..) (by decide) ?_
      exact .refl

theorem execCameraTrigger_only (p : Fin 2) (s : State) : OnlyNext [.lantern, .led, .out] s (execCameraTrigger p s) := by
  unfold execCameraTrigger
  split
  · refine OnlyNext.next ?_
    exact .refl
  · refine OnlyNext.ite (fun _ => ?_) (fun _ => ?_)
    · dsimp only
      refine OnlyNext.next ?_
      refine Only.ite (fun _ => ?_) (fun _ => ?_)
      · refine Only.step (State.openWindow_only ..) (by decide) ?_
        refine Only.step (State.emit_only ..) (by decide) ?_
        refine Only.step (State.setFrame_only ..) (by decide) ?_
        exact .refl
      · refine Only.step (State.emit_only ..) (by decide) ?_
        refine Only.step (State.setFrame_only ..) (by decide) ?_
        exact .refl
    · refine OnlyNext.next ?_
      exact .refl

theorem State.tapLine_only (s : State) (c : ℕ) (a : List ℕ) (v : List ℕ) (d : List ℕ) : Only [.chans] s (State.tapLine s c a v d) := by
  unfold State.tapLine
  split
  · exact .refl
  · refine Only.ite (fun _ => ?_) (fun _ => ?_)
    · exact .refl
    · split
      · refine Only.step (State.tapOut_only ..) (by decide) ?_
        exact .refl
      · refine Only.step (State.tapOut_only ..) (by decide) ?_
        exact .refl
      · refine Only.step (State.tapOut_only ..) (by decide) ?_
        exact .refl
      · dsimp only
        refine Only.step (State.tapOut_only ..) (by decide) ?_
        exact .refl

theorem State.countAt_only (s : State) (t : ℕ) : Only [.freeCtr] s (State.countAt s t).2 := by
  unfold State.countAt
  dsimp only
  split
  · dsimp only
    exact .refl
  · dsimp only
    refine Only.step (State.fresh_only ..) (by decide) ?_
    exact .refl
  · refine Only.step (State.fresh_only ..) (by decide) ?_
    exact .refl

theorem State.lineCounts_only (s : State) (f : Frame) (rise : ℕ) : Only [.freeCtr] s (State.lineCounts s f rise).2 := by
  unfold State.lineCounts
  split
  split
  split
  dsimp only
  refine Only.of_snd (by assumption) ?_
  refine Only.step (State.countAt_only ..) (by decide) ?_
  refine Only.of_snd (by assumption) ?_
  refine Only.step (State.countAt_only ..) (by decide) ?_
  refine Only.of_snd (by assumption) ?_
  refine Only.step (State.countAt_only ..) (by decide) ?_
  exact .refl

theorem State.verdict_only (s : State) (g : ℕ) (cand : ℕ) : Only [.health] s (State.verdict s g cand).2 := by
  unfold State.verdict
  dsimp only
  refine Only.with_health (by decide) ?_
  exact .refl

theorem State.verdicts_only (s : State) (p : ℕ) (r : Rung) (med : ℕ × ℕ) (x4 : List (ℕ × ℕ × ℕ)) :
    Only [.health, .lantern] s (State.verdicts s p r med x4).2 := by
  induction x4 generalizing s p r med with | nil => ?_ | cons y l ih => ?_
  · simp only [State.verdicts]
    exact .refl
  · simp only [State.verdicts]
    split
    · refine Only.trans (ih ..) ?_
      exact .refl
    · dsimp only
      refine Only.trans (ih ..) ?_
      split
      · refine Only.step (State.setFrame_only ..) (by decide) ?_
        refine Only.step (State.verdict_only ..) (by decide) ?_
        exact .refl
      · refine Only.step (State.verdict_only ..) (by decide) ?_
        exact .refl

theorem State.logFindings_only (s : State) (gen : ℕ) (x2 : List (ℕ × ℕ × ℕ)) :
    Only [.regs, .igrel, .ylog, .out, .flagged] s (State.logFindings s gen x2) := by
  induction x2 generalizing s gen with | nil => ?_ | cons y l ih => ?_
  · simp only [State.logFindings]
    exact .refl
  · simp only [State.logFindings]
    refine Only.trans (ih ..) ?_
    refine Only.step (State.logEvent_only ..) (by decide) ?_
    exact .refl

theorem State.writeFindings_only (s : State) (c : ℕ) (gen : ℕ) (l : List (ℕ × ℕ × ℕ)) :
    Only [.regs, .igrel, .decomp, .slots, .health, .taper, .twin, .wick, .ylog, .out, .flagged] s (State.writeFindings s c gen l) := by
  unfold State.writeFindings
  refine Only.ite (fun _ => ?_) (fun _ => ?_)
  · exact .refl
  · dsimp only
    refine Only.ite (fun _ => ?_) (fun _ => ?_)
    · refine Only.step (State.emit_only ..) (by decide) ?_
      refine Only.step (State.logFindings_only ..) (by decide) ?_
      refine Only.step (State.count_only ..) (by decide) ?_
      exact .refl
    · refine Only.step (State.publish_only ..) (by decide) ?_
      refine Only.step (State.logFindings_only ..) (by decide) ?_
      refine Only.step (State.count_only ..) (by decide) ?_
      exact .refl

theorem State.evaluateRung_only (s : State) (p : ℕ) (c : ℕ) (r : Rung) :
    Only [.regs, .igrel, .decomp, .slots, .health, .taper, .twin, .lantern, .wick, .ylog, .out, .flagged] s (State.evaluateRung s p c
      r) := by
  unfold State.evaluateRung
  dsimp only
  refine Only.ite (fun _ => ?_) (fun _ => ?_)
  · refine Only.with_lantern (by decide) ?_
    exact .refl
  · refine Only.step (State.writeFindings_only ..) (by decide) ?_
    refine Only.step (State.verdicts_only ..) (by decide) ?_
    split
    · refine Only.step (State.setFrame_only ..) (by decide) ?_
      refine Only.with_lantern (by decide) ?_
      exact .refl
    · refine Only.with_lantern (by decide) ?_
      exact .refl

theorem State.setRung_only (s : State) (c : ℕ) (r : Rung) : Only [.lantern] s (State.setRung s c r) := by
  unfold State.setRung
  refine Only.with_lantern (by decide) ?_
  exact .refl

theorem State.takeRef_only (s : State) (p : ℕ) (c : ℕ) (n : ℕ) (line : List Byte) :
    Only [.regs, .igrel, .decomp, .slots, .health, .taper, .twin, .lantern, .wick, .ylog, .out, .flagged] s (State.takeRef s p c n
      line) := by
  unfold State.takeRef
  dsimp only
  split
  · refine Only.ite (fun _ => ?_) (fun _ => ?_)
    · refine Only.step (State.setRung_only ..) (by decide) ?_
      exact .refl
    · refine Only.ite (fun _ => ?_) (fun _ => ?_)
      · refine Only.step (State.setRung_only ..) (by decide) ?_
        refine Only.step (State.evaluateRung_only ..) (by decide) ?_
        exact .refl
      · refine Only.step (State.evaluateRung_only ..) (by decide) ?_
        exact .refl
  · refine Only.ite (fun _ => ?_) (fun _ => ?_)
    · refine Only.step (State.setRung_only ..) (by decide) ?_
      exact .refl
    · exact .refl

theorem State.spoilRung_only (s : State) (c : ℕ) (n : ℕ) : Only [.lantern] s (State.spoilRung s c n) := by
  unfold State.spoilRung
  split
  · refine Only.step (State.setRung_only ..) (by decide) ?_
    exact .refl
  · exact .refl

theorem State.refLate_only (s : State) (c : ℕ) (next : ℕ) (n : ℕ) : Only [.regs, .lantern, .flagged] s (State.refLate s c next n) := by
  unfold State.refLate
  dsimp only
  refine Only.ite (fun _ => ?_) (fun _ => ?_)
  · exact .refl
  · refine Only.step (State.setBits_only ..) (by decide) ?_
    refine Only.step (State.count_only ..) (by decide) ?_
    refine Only.with_lantern (by decide) ?_
    exact .refl

theorem State.takeRefs_only (s : State) (p : ℕ) (c : ℕ) (k : ℕ) (n : ℕ) (x5 : ℕ) :
    Only [.regs, .igrel, .raster, .decomp, .slots, .health, .taper, .twin, .lantern, .dram, .wick, .ylog, .out, .flagged] s
      (State.takeRefs s p c k n x5) := by
  induction x5 generalizing s p c k n with | zero => ?_ | succ k ih => ?_
  · simp only [State.takeRefs]
    exact .refl
  · simp only [State.takeRefs]
    refine Only.ite (fun _ => ?_) (fun _ => ?_)
    · exact .refl
    · split
      · refine Only.step (State.refLate_only ..) (by decide) ?_
        refine Only.step (State.spoilRung_only ..) (by decide) ?_
        refine Only.of_snd (by assumption) ?_
        refine Only.step (State.takeAux_only ..) (by decide) ?_
        exact .refl
      · refine Only.trans (ih ..) ?_
        refine Only.step (State.spoilRung_only ..) (by decide) ?_
        refine Only.step (State.refLate_only ..) (by decide) ?_
        refine Only.of_snd (by assumption) ?_
        refine Only.step (State.takeAux_only ..) (by decide) ?_
        exact .refl
      · refine Only.trans (ih ..) ?_
        refine Only.ite (fun _ => ?_) (fun _ => ?_)
        · refine Only.step (State.spoilRung_only ..) (by decide) ?_
          refine Only.of_snd (by assumption) ?_
          refine Only.step (State.takeAux_only ..) (by decide) ?_
          exact .refl
        · refine Only.step (State.takeRef_only ..) (by decide) ?_
          refine Only.of_snd (by assumption) ?_
          refine Only.step (State.takeAux_only ..) (by decide) ?_
          exact .refl

theorem State.noteRung_only (s : State) (c : ℕ) (gen : ℕ) (lo : ℕ) (hi : ℕ) (cols : Table ℕ) :
    Only [.lantern] s (State.noteRung s c gen lo hi cols) := by
  unfold State.noteRung
  split
  · exact .refl
  · refine Only.ite (fun _ => ?_) (fun _ => ?_)
    · refine Only.step (State.setRung_only ..) (by decide) ?_
      exact .refl
    · exact .refl

theorem State.detect_only (s : State) (p : ℕ) (f : Frame) (cols : Table ℕ) (cRise : ℕ) (cMid : ℕ) (cFall : ℕ) :
    Only [.regs, .igrel, .raster, .decomp, .slots, .health, .taper, .twin, .lantern, .dram, .wick, .ylog, .out, .flagged] s
      (State.detect s p f cols cRise cMid cFall) := by
  unfold State.detect
  dsimp only
  refine Only.ite (fun _ => ?_) (fun _ => ?_)
  · refine Only.ite (fun _ => ?_) (fun _ => ?_)
    · refine Only.step (State.noteRung_only ..) (by decide) ?_
      refine Only.step (State.takeRefs_only ..) (by decide) ?_
      exact .refl
    · refine Only.step (State.takeRefs_only ..) (by decide) ?_
      exact .refl
  · exact .refl

theorem State.breach_only (s : State) (p : ℕ) : Only [.regs, .lantern, .flagged] s (State.breach s p) := by
  unfold State.breach
  dsimp only
  split
  · refine Only.step (State.setFrame_only ..) (by decide) ?_
    refine Only.with_lantern (by decide) ?_
    refine Only.step (State.setBits_only ..) (by decide) ?_
    exact .refl
  · refine Only.with_lantern (by decide) ?_
    refine Only.step (State.setBits_only ..) (by decide) ?_
    exact .refl

theorem State.frameLine_only (s : State) (p : ℕ) (f : Frame) (pixels : List ℕ) :
    Only [.regs, .igrel, .raster, .decomp, .slots, .health, .taper, .twin, .lantern, .chans, .dram, .wick, .ylog, .out, .flagged,
      .freeCtr] s (State.frameLine s p f pixels) := by
  unfold State.frameLine
  dsimp only
  split
  · refine Only.step (State.setFrame_only ..) (by decide) ?_
    refine Only.step (State.fresh_only ..) (by decide) ?_
    refine Only.step (State.tapLine_only ..) (by decide) ?_
    exact .refl
  · refine Only.step (State.detect_only ..) (by decide) ?_
    refine Only.step (State.setFrame_only ..) (by decide) ?_
    refine Only.step (State.lineCounts_only ..) (by decide) ?_
    refine Only.step (State.tapLine_only ..) (by decide) ?_
    exact .refl

theorem execCameraLine_only (p : Fin 2) (line : CamLine) (s : State) :
    OnlyNext [.regs, .igrel, .raster, .decomp, .slots, .health, .taper, .twin, .lantern, .chans, .dram, .wick, .ylog, .out, .flagged,
      .freeCtr] s (execCameraLine p line s) := by
  unfold execCameraLine
  refine OnlyNext.ite (fun _ => ?_) (fun _ => ?_)
  · refine OnlyNext.next ?_
    exact .refl
  · refine OnlyNext.ite (fun _ => ?_) (fun _ => ?_)
    · refine OnlyNext.next ?_
      refine Only.step (State.breach_only ..) (by decide) ?_
      exact .refl
    · split
      · refine OnlyNext.next ?_
        exact .refl
      · refine OnlyNext.ite (fun _ => ?_) (fun _ => ?_)
        · refine OnlyNext.next ?_
          refine Only.step (State.setFrame_only ..) (by decide) ?_
          exact .refl
        · refine OnlyNext.next ?_
          refine Only.step (State.frameLine_only ..) (by decide) ?_
          exact .refl

theorem State.frameRecord_only (s : State) (f : Sys2Proof.Machine.Frame) : Only [.freeCtr] s (s.frameRecord f).2 := by
  unfold State.frameRecord
  dsimp only
  split
  · dsimp only
    refine Only.step (State.fresh_only ..) (by decide) ?_
    refine Only.step (State.fresh_only ..) (by decide) ?_
    refine Only.step (State.fresh_only ..) (by decide) ?_
    exact .refl
  · exact .refl

theorem State.endTap_only (s : State) (c : ℕ) : Only [.doms, .lantern, .chans, .freeCtr] s (State.endTap s c) := by
  unfold State.endTap
  split
  · exact .refl
  · refine Only.ite (fun _ => ?_) (fun _ => ?_)
    · exact .refl
    · refine Only.ite (fun _ => ?_) (fun _ => ?_)
      · dsimp only
        refine Only.step (State.endRun_only ..) (by decide) ?_
        refine Only.with_lantern (by decide) ?_
        exact .refl
      · refine Only.with_lantern (by decide) ?_
        exact .refl

theorem State.endFrame_only (s : State) (p : ℕ) (extra : ℕ) (pad : Bool) :
    Only [.regs, .doms, .lantern, .chans, .freeCtr] s (State.endFrame s p extra pad) := by
  unfold State.endFrame
  split
  · exact .refl
  · dsimp only
    refine Only.step (State.endTap_only ..) (by decide) ?_
    refine Only.with_lantern (by decide) ?_
    refine Only.step (State.count_only ..) (by decide) ?_
    refine Only.step (State.bump_only ..) (by decide) ?_
    refine Only.step (State.setDom_only ..) (by decide) ?_
    refine Only.step (State.frameRecord_only ..) (by decide) ?_
    refine Only.foldl (fun t x => ?_) ?_
    · refine Only.step (State.tapLine_only ..) (by decide) ?_
      exact .refl
    · exact .refl

theorem execCameraFrameEnd_only (p : Fin 2) (s : State) :
    OnlyNext [.regs, .doms, .lantern, .chans, .freeCtr] s (execCameraFrameEnd p s) := by
  unfold execCameraFrameEnd
  dsimp only
  refine OnlyNext.next ?_
  refine Only.with_lantern (by decide) ?_
  refine Only.step (State.endFrame_only ..) (by decide) ?_
  exact .refl

theorem execCameraFrameTimeout_only (p : Fin 2) (fvalRose : Bool) (s : State) :
    OnlyNext [.regs, .doms, .lantern, .chans, .freeCtr] s (execCameraFrameTimeout p fvalRose s) := by
  unfold execCameraFrameTimeout
  split
  · refine OnlyNext.next ?_
    exact .refl
  · refine OnlyNext.ite (fun _ => ?_) (fun _ => ?_)
    · refine OnlyNext.next ?_
      exact .refl
    · refine OnlyNext.ite (fun _ => ?_) (fun _ => ?_)
      · refine OnlyNext.next ?_
        refine Only.step (State.endFrame_only ..) (by decide) ?_
        exact .refl
      · refine OnlyNext.next ?_
        refine Only.step (State.endFrame_only ..) (by decide) ?_
        exact .refl

theorem State.stopTap_only (s : State) : Only [.doms, .lantern, .chans, .freeCtr] s (State.stopTap s) := by
  unfold State.stopTap
  split
  · exact .refl
  · refine Only.ite (fun _ => ?_) (fun _ => ?_)
    · refine Only.with_lantern (by decide) ?_
      exact .refl
    · refine Only.step (State.endRun_only ..) (by decide) ?_
      refine Only.with_lantern (by decide) ?_
      exact .refl

theorem State.lanternSnuff_only (s : State) : Only [.regs, .doms, .lantern, .led, .chans, .out, .freeCtr] s (State.lanternSnuff s) := by
  unfold State.lanternSnuff
  dsimp only
  refine Only.step (State.ledsLow_only ..) (by decide) ?_
  refine Only.with_lantern (by decide) ?_
  refine Only.step (State.endFrame_only ..) (by decide) ?_
  refine Only.step (State.endFrame_only ..) (by decide) ?_
  refine Only.step (State.stopTap_only ..) (by decide) ?_
  exact .refl

theorem State.commitCam_only (s : State) (c : ℕ) : Only [.regs, .lantern] s (State.commitCam s c) := by
  unfold State.commitCam
  dsimp only
  refine Only.step (State.setReg_only ..) (by decide) ?_
  refine Only.with_lantern (by decide) ?_
  exact .refl

theorem State.selectTap_only (s : State) (v : ℕ) : Only [.regs, .doms, .lantern, .chans, .freeCtr] s (State.selectTap s v) := by
  unfold State.selectTap
  dsimp only
  refine Only.with_lantern (by decide) ?_
  refine Only.step (State.stopTap_only ..) (by decide) ?_
  refine Only.step (State.setReg_only ..) (by decide) ?_
  exact .refl

theorem State.queueUart_only (s : State) (b : List Byte) : Only [.lantern] s (State.queueUart s b) := by
  unfold State.queueUart
  dsimp only
  refine Only.with_lantern (by decide) ?_
  exact .refl

theorem execUartTransfer_only (p : Fin 2) (s : State) : OnlyNext [.lantern, .out] s (execUartTransfer p s) := by
  unfold execUartTransfer
  split
  · refine OnlyNext.ite (fun _ => ?_) (fun _ => ?_)
    · refine OnlyNext.next ?_
      exact .refl
    · dsimp only
      refine OnlyNext.next ?_
      refine Only.with_lantern (by decide) ?_
      refine Only.step (State.emit_only ..) (by decide) ?_
      refine Only.step (State.select_only ..) (by decide) ?_
      exact .refl
  · refine OnlyNext.next ?_
    exact .refl

theorem execUartRxDone_only (p : Fin 2) (bytes : List Byte) (s : State) : OnlyNext [.doms, .lantern] s (execUartRxDone p bytes s) := by
  unfold execUartRxDone
  split
  · dsimp only
    refine OnlyNext.next ?_
    refine Only.with_lantern (by decide) ?_
    refine Only.step (State.setDom_only ..) (by decide) ?_
    exact .refl
  · refine OnlyNext.next ?_
    exact .refl

/-! ### Power -/

theorem State.onGrant_only (s : State) (who : Requester) : Only [.regs, .pins, .taper, .heads, .wick, .out] s (State.onGrant s who) := by
  unfold State.onGrant
  split
  · split
    · refine Only.ite (fun _ => ?_) (fun _ => ?_)
      · exact .refl
      · refine Only.step (State.beginMaint_only ..) (by decide) ?_
        refine Only.step (State.useLeave_only ..) (by decide) ?_
        exact .refl
    · exact .refl
  · exact .refl

theorem State.onRefusal_only (s : State) (who : Requester) : Only [.regs, .taper, .dram, .axes] s (State.onRefusal s who) := by
  unfold State.onRefusal
  split
  · split
    · refine Only.ite (fun _ => ?_) (fun _ => ?_)
      · exact .refl
      · refine Only.with_taper (by decide) ?_
        exact .refl
    · exact .refl
  · refine Only.step (State.moveRefused_only ..) (by decide) ?_
    exact .refl
  · refine Only.ite (fun _ => ?_) (fun _ => ?_)
    · refine Only.with_dram (by decide) ?_
      exact .refl
    · exact .refl
  · exact .refl

theorem State.request_only (s : State) (r : WickReq) :
    Only [.regs, .pins, .igrel, .slots, .taper, .heads, .dram, .wick, .axes, .ylog, .out, .flagged] s (State.request s r) := by
  unfold State.request
  split
  · refine Only.step (State.onGrant_only ..) (by decide) ?_
    refine Only.of_snd (by assumption) ?_
    refine Only.step (State.ask_only ..) (by decide) ?_
    refine Only.step (State.linesFirst_only ..) (by decide) ?_
    exact .refl
  · refine Only.of_snd (by assumption) ?_
    refine Only.step (State.ask_only ..) (by decide) ?_
    refine Only.step (State.linesFirst_only ..) (by decide) ?_
    exact .refl
  · refine Only.step (State.onRefusal_only ..) (by decide) ?_
    refine Only.of_snd (by assumption) ?_
    refine Only.step (State.ask_only ..) (by decide) ?_
    refine Only.step (State.linesFirst_only ..) (by decide) ?_
    exact .refl

theorem execWickRequest_only (r : WickReq) (s : State) :
    OnlyNext [.regs, .pins, .igrel, .slots, .taper, .heads, .dram, .wick, .axes, .ylog, .out, .flagged] s (execWickRequest r s) := by
  unfold execWickRequest
  refine OnlyNext.next ?_
  refine Only.step (State.request_only ..) (by decide) ?_
  exact .refl

theorem State.grantWait_only (s : State) (w : WickWait) :
    Only [.regs, .pins, .taper, .heads, .wick, .out, .flagged] s (State.grantWait s w) := by
  unfold State.grantWait
  refine Only.step (State.onGrant_only ..) (by decide) ?_
  refine Only.step (State.unqueue_only ..) (by decide) ?_
  refine Only.step (State.giveLeave_only ..) (by decide) ?_
  exact .refl

theorem State.refuseWait_only (s : State) (w : WickWait) :
    Only [.regs, .taper, .dram, .wick, .axes, .flagged] s (State.refuseWait s w) := by
  unfold State.refuseWait
  refine Only.step (State.onRefusal_only ..) (by decide) ?_
  refine Only.step (State.unqueue_only ..) (by decide) ?_
  refine Only.step (State.refuseLeave_only ..) (by decide) ?_
  exact .refl

theorem execWickDeferredGrant_only (s : State) :
    OnlyNext [.regs, .pins, .igrel, .slots, .taper, .heads, .wick, .ylog, .out, .flagged] s (execWickDeferredGrant s) := by
  unfold execWickDeferredGrant
  refine OnlyNext.ite (fun _ => ?_) (fun _ => ?_)
  · refine OnlyNext.next ?_
    exact .refl
  · dsimp only
    split
    · refine OnlyNext.next ?_
      refine Only.step (State.linesFirst_only ..) (by decide) ?_
      exact .refl
    · refine OnlyNext.next ?_
      refine Only.step (State.grantWait_only ..) (by decide) ?_
      refine Only.step (State.linesFirst_only ..) (by decide) ?_
      exact .refl

theorem execWickDeferTimeout_only (id : ℕ) (s : State) :
    OnlyNext [.regs, .pins, .igrel, .slots, .taper, .heads, .dram, .wick, .axes, .ylog, .out, .flagged] s (execWickDeferTimeout id s) := by
  unfold execWickDeferTimeout
  split
  · refine OnlyNext.next ?_
    exact .refl
  · dsimp only
    refine OnlyNext.next ?_
    refine Only.ite (fun _ => ?_) (fun _ => ?_)
    · refine Only.step (State.grantWait_only ..) (by decide) ?_
      refine Only.step (State.linesFirst_only ..) (by decide) ?_
      exact .refl
    · refine Only.step (State.refuseWait_only ..) (by decide) ?_
      refine Only.step (State.linesFirst_only ..) (by decide) ?_
      exact .refl

theorem State.snuffWick_only (s : State) : Only [.regs, .taper, .dram, .wick, .axes, .flagged] s (State.snuffWick s) := by
  unfold State.snuffWick
  dsimp only
  refine Only.foldl (fun t x => ?_) ?_
  · refine Only.step (State.onRefusal_only ..) (by decide) ?_
    exact .refl
  · refine Only.step (State.wickSnuff_only ..) (by decide) ?_
    exact .refl

theorem State.wickReset_only (s : State) : Only [.regs, .taper, .dram, .wick, .axes] s (State.wickReset s) := by
  unfold State.wickReset
  dsimp only
  refine Only.foldl (fun t x => ?_) ?_
  · refine Only.step (State.onRefusal_only ..) (by decide) ?_
    exact .refl
  · refine Only.step (State.noteQueued_only ..) (by decide) ?_
    refine Only.with_wick (by decide) ?_
    exact .refl

theorem State.wickRelease_only (s : State) : Only [.wick] s (State.wickRelease s) := by
  unfold State.wickRelease
  refine Only.with_wick (by decide) ?_
  exact .refl

theorem State.publishHeadroom_only (s : State) (x1 : List ℕ) : Only [.regs, .out] s (State.publishHeadroom s x1) := by
  induction x1 generalizing s with | nil => ?_ | cons y l ih => ?_
  · simp only [State.publishHeadroom]
    exact .refl
  · simp only [State.publishHeadroom]
    refine Only.trans (ih ..) ?_
    refine Only.step (State.emit_only ..) (by decide) ?_
    refine Only.step (State.setReg_only ..) (by decide) ?_
    exact .refl

theorem execHeadroomPublish_only (s : State) : OnlyNext [.regs, .out] s (execHeadroomPublish s) := by
  unfold execHeadroomPublish
  refine OnlyNext.ite (fun _ => ?_) (fun _ => ?_)
  · refine OnlyNext.next ?_
    exact .refl
  · refine OnlyNext.next ?_
    refine Only.step (State.publishHeadroom_only ..) (by decide) ?_
    exact .refl

end Sys2Proof.Machine
end

