-- ==== Sys2Proof/Laws/FramesDramToCal.lean ====
section
/-! SUPPORT. The frame of every operation and meaning of Machine/Dram.lean, Check.lean, Modes.lean, Lanes.lean, Cal.lean: the only fields of the state that
it can change. -/

namespace Sys2Proof.Machine

/-! ### Dram -/

theorem State.corrected_only (s : State) (addr : ℕ) (w : ℕ) (overwritten : Bool) :
    Only [.regs, .dram, .flagged] s (State.corrected s addr w overwritten) := by
  unfold State.corrected
  dsimp only
  refine Only.ite (fun _ => ?_) (fun _ => ?_)
  · refine Only.step (State.setBits_only ..) (by decide) ?_
    refine Only.step (State.setReg_only ..) (by decide) ?_
    refine Only.step (State.bump_only ..) (by decide) ?_
    exact .refl
  · refine Only.step (State.writeMem_only ..) (by decide) ?_
    refine Only.step (State.setBits_only ..) (by decide) ?_
    refine Only.step (State.setReg_only ..) (by decide) ?_
    refine Only.step (State.bump_only ..) (by decide) ?_
    exact .refl

theorem execDramCe_only (addr : ℕ) (word : ℕ) (check : Byte) (overwritten : Bool) (s : State) :
    OnlyNext [.regs, .dram, .flagged] s (execDramCe addr word check overwritten s) := by
  unfold execDramCe
  refine OnlyNext.ite (fun _ => ?_) (fun _ => ?_)
  · exact OnlyNext.stop
  · refine OnlyNext.ite (fun _ => ?_) (fun _ => ?_)
    · refine OnlyNext.next ?_
      refine Only.step (State.corrected_only ..) (by decide) ?_
      exact .refl
    · refine OnlyNext.next ?_
      exact .refl

theorem State.markBlock_only (s : State) (k : ℕ) (seq : ℕ) (bad : Bool) (unread : Bool) :
    Only [.raster] s (State.markBlock s k seq bad unread) := by
  unfold State.markBlock
  refine Only.step (State.setRing_only ..) (by decide) ?_
  exact .refl

theorem State.scrubBad_only (s : State) (k : ℕ) (seq : ℕ) (unread : Bool) :
    Only [.regs, .igrel, .raster, .ylog, .out, .flagged] s (State.scrubBad s k seq unread) := by
  unfold State.scrubBad
  dsimp only
  refine Only.step (State.logEvent_only ..) (by decide) ?_
  refine Only.step (State.setBits_only ..) (by decide) ?_
  refine Only.step (State.bump_only ..) (by decide) ?_
  refine Only.step (State.markBlock_only ..) (by decide) ?_
  exact .refl

theorem State.poisoned_only (s : State) (x : DramSource) (stream : ℕ) (block : ℕ) :
    Only [.regs, .doms, .igrel, .raster, .chans, .check, .ylog, .out, .flagged] s (State.poisoned s x stream block) := by
  unfold State.poisoned
  split
  · refine Only.step (State.markBlock_only ..) (by decide) ?_
    exact .refl
  · refine Only.step (State.markBlock_only ..) (by decide) ?_
    exact .refl
  · refine Only.with_check (by decide) ?_
    exact .refl
  · refine Only.step (State.scrubBad_only ..) (by decide) ?_
    exact .refl
  · refine Only.step (State.endRequest_only ..) (by decide) ?_
    exact .refl
  · refine Only.step (State.setCause_only ..) (by decide) ?_
    exact .refl
  · refine Only.step (State.setCause_only ..) (by decide) ?_
    exact .refl

theorem execDramUe_only (addr : ℕ) (source : DramSource) (stream : ℕ) (block : ℕ) (word : ℕ) (check : Byte) (s : State) :
    OnlyNext [.regs, .doms, .igrel, .raster, .chans, .check, .dram, .ylog, .out, .flagged] s (execDramUe addr source stream block word
      check s) := by
  unfold execDramUe
  refine OnlyNext.ite (fun _ => ?_) (fun _ => ?_)
  · exact OnlyNext.stop
  · refine OnlyNext.ite (fun _ => ?_) (fun _ => ?_)
    · refine OnlyNext.next ?_
      exact .refl
    · split
      · refine OnlyNext.next ?_
        refine Only.step (State.corrected_only ..) (by decide) ?_
        exact .refl
      · dsimp only
        refine OnlyNext.next ?_
        refine Only.step (State.poisoned_only ..) (by decide) ?_
        refine Only.ite (fun _ => ?_) (fun _ => ?_)
        · refine Only.step (State.setCause_only ..) (by decide) ?_
          refine Only.step (State.logEvent_only ..) (by decide) ?_
          refine Only.with_dram (by decide) ?_
          refine Only.step (State.setBits_only ..) (by decide) ?_
          refine Only.step (State.setReg_only ..) (by decide) ?_
          refine Only.step (State.bump_only ..) (by decide) ?_
          exact .refl
        · refine Only.step (State.logEvent_only ..) (by decide) ?_
          refine Only.with_dram (by decide) ?_
          refine Only.step (State.setBits_only ..) (by decide) ?_
          refine Only.step (State.setReg_only ..) (by decide) ?_
          refine Only.step (State.bump_only ..) (by decide) ?_
          exact .refl

theorem execRtPanicRaise_only (st : Fin 128) (held : ℕ) (s : State) : OnlyNext [.regs, .dram, .flagged] s (execRtPanicRaise st held s) := by
  unfold execRtPanicRaise
  refine OnlyNext.ite (fun _ => ?_) (fun _ => ?_)
  · refine OnlyNext.next ?_
    dsimp only
    refine Only.with_dram (by decide) ?_
    refine Only.step (State.setBits_only ..) (by decide) ?_
    refine Only.step (State.bump_only ..) (by decide) ?_
    exact .refl
  · refine OnlyNext.next ?_
    exact .refl

theorem execRtPanicClear_only (held : List ℕ) (s : State) : OnlyNext [.dram] s (execRtPanicClear held s) := by
  unfold execRtPanicClear
  refine OnlyNext.ite (fun _ => ?_) (fun _ => ?_)
  · refine OnlyNext.next ?_
    refine Only.with_dram (by decide) ?_
    exact .refl
  · refine OnlyNext.next ?_
    exact .refl

theorem execMr4Poll_only (code : ℕ) (faster : Bool) (s : State) :
    OnlyNext [.regs, .igrel, .dram, .ylog, .out, .flagged] s (execMr4Poll code faster s) := by
  unfold execMr4Poll
  refine OnlyNext.ite (fun _ => ?_) (fun _ => ?_)
  · dsimp only
    refine OnlyNext.next ?_
    refine Only.ite (fun _ => ?_) (fun _ => ?_)
    · refine Only.step (State.logEvent_only ..) (by decide) ?_
      refine Only.ite (fun _ => ?_) (fun _ => ?_)
      · refine Only.step (State.setBits_only ..) (by decide) ?_
        refine Only.with_dram (by decide) ?_
        refine Only.step (State.setReg_only ..) (by decide) ?_
        exact .refl
      · refine Only.with_dram (by decide) ?_
        refine Only.step (State.setReg_only ..) (by decide) ?_
        exact .refl
    · refine Only.ite (fun _ => ?_) (fun _ => ?_)
      · refine Only.step (State.setBits_only ..) (by decide) ?_
        refine Only.with_dram (by decide) ?_
        refine Only.step (State.setReg_only ..) (by decide) ?_
        exact .refl
      · refine Only.with_dram (by decide) ?_
        refine Only.step (State.setReg_only ..) (by decide) ?_
        exact .refl
  · refine OnlyNext.next ?_
    exact .refl

theorem execDramRefresh_only (channel : Fin 4) (bank : ℕ) (s : State) : OnlyNext [.dram, .out] s (execDramRefresh channel bank s) := by
  unfold execDramRefresh
  refine OnlyNext.ite (fun _ => ?_) (fun _ => ?_)
  · refine OnlyNext.next ?_
    refine Only.step (State.emit_only ..) (by decide) ?_
    refine Only.with_dram (by decide) ?_
    exact .refl
  · refine OnlyNext.next ?_
    exact .refl

theorem State.askSet_only (s : State) (set : ℕ) :
    Only [.regs, .pins, .igrel, .slots, .taper, .heads, .dram, .wick, .axes, .ylog, .out, .flagged] s (State.askSet s set) := by
  unfold State.askSet
  dsimp only
  refine Only.step (State.request_only ..) (by decide) ?_
  refine Only.with_dram (by decide) ?_
  exact .refl

theorem State.dropSet_only (s : State) (set : ℕ) : Only [.regs, .dram, .wick, .flagged] s (State.dropSet s set) := by
  unfold State.dropSet
  dsimp only
  refine Only.with_dram (by decide) ?_
  refine Only.step (State.noteQueued_only ..) (by decide) ?_
  refine Only.with_wick (by decide) ?_
  refine Only.ite (fun _ => ?_) (fun _ => ?_)
  · refine Only.step (State.refundPool_only ..) (by decide) ?_
    refine Only.step (State.useLeave_only ..) (by decide) ?_
    exact .refl
  · exact .refl

theorem State.selectSet_only (s : State) (set : ℕ) :
    Only [.regs, .pins, .igrel, .slots, .taper, .heads, .dram, .wick, .axes, .ylog, .out, .flagged] s (State.selectSet s set) := by
  unfold State.selectSet
  split
  · refine Only.with_dram (by decide) ?_
    exact .refl
  · refine Only.ite (fun _ => ?_) (fun _ => ?_)
    · exact .refl
    · dsimp only
      refine Only.ite (fun _ => ?_) (fun _ => ?_)
      · refine Only.step (State.dropSet_only ..) (by decide) ?_
        exact .refl
      · refine Only.step (State.askSet_only ..) (by decide) ?_
        refine Only.step (State.dropSet_only ..) (by decide) ?_
        exact .refl
  · refine Only.ite (fun _ => ?_) (fun _ => ?_)
    · exact .refl
    · refine Only.step (State.askSet_only ..) (by decide) ?_
      exact .refl

theorem execDramFreqChange_only (s : State) : OnlyNext [.dram, .wick] s (execDramFreqChange s) := by
  unfold execDramFreqChange
  split
  · refine OnlyNext.ite (fun _ => ?_) (fun _ => ?_)
    · dsimp only
      refine OnlyNext.next ?_
      refine Only.with_dram (by decide) ?_
      refine Only.step (State.useLeave_only ..) (by decide) ?_
      exact .refl
    · refine OnlyNext.next ?_
      exact .refl
  · refine OnlyNext.next ?_
    exact .refl

theorem State.setChanged_only (s : State) (t : ℕ) :
    Only [.regs, .pins, .igrel, .slots, .taper, .heads, .dram, .wick, .axes, .ylog, .out, .flagged] s (State.setChanged s t) := by
  unfold State.setChanged
  dsimp only
  split
  · refine Only.step (State.selectSet_only ..) (by decide) ?_
    refine Only.with_dram (by decide) ?_
    refine Only.step (State.bump_only ..) (by decide) ?_
    refine Only.step (State.setReg_only ..) (by decide) ?_
    exact .refl
  · refine Only.with_dram (by decide) ?_
    refine Only.step (State.bump_only ..) (by decide) ?_
    refine Only.step (State.setReg_only ..) (by decide) ?_
    exact .refl

/-! ### Check -/

theorem State.startScan_only (s : State) : Only [.regs, .dram] s (State.startScan s) := by
  unfold State.startScan
  split
  · refine Only.step (State.askMem_only ..) (by decide) ?_
    refine Only.step (State.setReg_only ..) (by decide) ?_
    exact .refl
  · exact .refl

theorem State.noteScans_only (s : State) : Only [.regs] s (State.noteScans s) := by
  unfold State.noteScans
  refine Only.step (State.setReg_only ..) (by decide) ?_
  exact .refl

theorem State.queueScan_only (s : State) (x : Scan) : Only [.regs, .check, .dram] s (State.queueScan s x) := by
  unfold State.queueScan
  dsimp only
  refine Only.ite (fun _ => ?_) (fun _ => ?_)
  · refine Only.step (State.startScan_only ..) (by decide) ?_
    refine Only.step (State.noteScans_only ..) (by decide) ?_
    refine Only.ite (fun _ => ?_) (fun _ => ?_)
    · refine Only.step (State.setReg_only ..) (by decide) ?_
      refine Only.with_check (by decide) ?_
      exact .refl
    · refine Only.with_check (by decide) ?_
      exact .refl
  · refine Only.step (State.noteScans_only ..) (by decide) ?_
    refine Only.ite (fun _ => ?_) (fun _ => ?_)
    · refine Only.step (State.setReg_only ..) (by decide) ?_
      refine Only.with_check (by decide) ?_
      exact .refl
    · refine Only.with_check (by decide) ?_
      exact .refl

theorem State.endScan_only (s : State) (x : Scan) : Only [.regs, .igrel, .ylog, .out, .flagged] s (State.endScan s x) := by
  unfold State.endScan
  dsimp only
  refine Only.ite (fun _ => ?_) (fun _ => ?_)
  · refine Only.step (State.logEvent_only ..) (by decide) ?_
    refine Only.step (State.setBits_only ..) (by decide) ?_
    refine Only.step (State.setReg_only ..) (by decide) ?_
    refine Only.step (State.setReg_only ..) (by decide) ?_
    refine Only.step (State.setReg_only ..) (by decide) ?_
    exact .refl
  · refine Only.step (State.setReg_only ..) (by decide) ?_
    refine Only.step (State.setReg_only ..) (by decide) ?_
    refine Only.step (State.setReg_only ..) (by decide) ?_
    exact .refl

theorem State.eccScan_only (s : State) (x : Scan) : Only [.regs, .freeCtr] s (State.eccScan s x) := by
  unfold State.eccScan
  split
  refine Only.step (State.setReg_only ..) (by decide) ?_
  refine Only.step (State.setReg_only ..) (by decide) ?_
  refine Only.of_snd (by assumption) ?_
  refine Only.step (State.fresh_only ..) (by decide) ?_
  exact .refl

theorem execScanComplete_only (s : State) :
    OnlyNext [.regs, .igrel, .check, .dram, .ylog, .out, .flagged, .freeCtr] s (execScanComplete s) := by
  unfold execScanComplete
  split
  · refine OnlyNext.next ?_
    exact .refl
  · refine OnlyNext.ite (fun _ => ?_) (fun _ => ?_)
    · refine OnlyNext.next ?_
      exact .refl
    · dsimp only
      refine OnlyNext.next ?_
      refine Only.step (State.startScan_only ..) (by decide) ?_
      refine Only.step (State.noteScans_only ..) (by decide) ?_
      refine Only.with_check (by decide) ?_
      refine Only.ite (fun _ => ?_) (fun _ => ?_)
      · refine Only.step (State.eccScan_only ..) (by decide) ?_
        exact .refl
      · refine Only.step (State.endScan_only ..) (by decide) ?_
        exact .refl

theorem State.endWalk_only (s : State) : Only [.regs, .check] s (State.endWalk s) := by
  unfold State.endWalk
  refine Only.ite (fun _ => ?_) (fun _ => ?_)
  · dsimp only
    refine Only.with_check (by decide) ?_
    refine Only.step (State.bump_only ..) (by decide) ?_
    exact .refl
  · exact .refl

theorem State.nextScrub_only (s : State) : Only [.regs, .check, .dram] s (State.nextScrub s) := by
  unfold State.nextScrub
  dsimp only
  refine Only.ite (fun _ => ?_) (fun _ => ?_)
  · split
    · refine Only.with_check (by decide) ?_
      refine Only.step (State.endWalk_only ..) (by decide) ?_
      exact .refl
    · refine Only.step (State.askMem_only ..) (by decide) ?_
      refine Only.with_check (by decide) ?_
      refine Only.step (State.endWalk_only ..) (by decide) ?_
      exact .refl
  · refine Only.with_check (by decide) ?_
    refine Only.step (State.endWalk_only ..) (by decide) ?_
    exact .refl

theorem State.checkBlock_only (s : State) (k : ℕ) (seq : ℕ) (asRead : List Byte) :
    Only [.regs, .igrel, .raster, .check, .ylog, .out, .flagged] s (State.checkBlock s k seq asRead) := by
  unfold State.checkBlock
  dsimp only
  refine Only.with_check (by decide) ?_
  refine Only.ite (fun _ => ?_) (fun _ => ?_)
  · refine Only.step (State.setReg_only ..) (by decide) ?_
    refine Only.step (State.setReg_only ..) (by decide) ?_
    exact .refl
  · refine Only.step (State.scrubBad_only ..) (by decide) ?_
    refine Only.step (State.setReg_only ..) (by decide) ?_
    refine Only.step (State.setReg_only ..) (by decide) ?_
    exact .refl

theorem execScrubBlock_only (asRead : List Byte) (s : State) :
    OnlyNext [.regs, .igrel, .raster, .check, .dram, .ylog, .out, .flagged] s (execScrubBlock asRead s) := by
  unfold execScrubBlock
  dsimp only
  split
  · refine OnlyNext.next ?_
    refine Only.ite (fun _ => ?_) (fun _ => ?_)
    · refine Only.step (State.endWalk_only ..) (by decide) ?_
      exact .refl
    · exact .refl
  · refine OnlyNext.ite (fun _ => ?_) (fun _ => ?_)
    · refine OnlyNext.next ?_
      refine Only.ite (fun _ => ?_) (fun _ => ?_)
      · refine Only.step (State.endWalk_only ..) (by decide) ?_
        exact .refl
      · exact .refl
    · refine OnlyNext.next ?_
      refine Only.step (State.nextScrub_only ..) (by decide) ?_
      refine Only.ite (fun _ => ?_) (fun _ => ?_)
      · refine Only.step (State.checkBlock_only ..) (by decide) ?_
        refine Only.ite (fun _ => ?_) (fun _ => ?_)
        · refine Only.step (State.endWalk_only ..) (by decide) ?_
          exact .refl
        · exact .refl
      · refine Only.ite (fun _ => ?_) (fun _ => ?_)
        · refine Only.step (State.endWalk_only ..) (by decide) ?_
          exact .refl
        · exact .refl

theorem State.checkReset_only (s : State) : Only [.regs, .check, .dram] s (State.checkReset s) := by
  unfold State.checkReset
  dsimp only
  refine Only.step (State.noteScans_only ..) (by decide) ?_
  refine Only.step (State.setRegs_only ..) (by decide) ?_
  refine Only.step (State.setRegs_only ..) (by decide) ?_
  refine Only.step (State.dropMem_only ..) (by decide) ?_
  refine Only.with_check (by decide) ?_
  exact .refl

/-! ### Modes -/

theorem State.twinSend_only (s : State) (ty : ℕ) (payload : List Byte) : Only [.out] s (State.twinSend s ty payload) := by
  unfold State.twinSend
  refine Only.ite (fun _ => ?_) (fun _ => ?_)
  · refine Only.step (State.emit_only ..) (by decide) ?_
    exact .refl
  · exact .refl

theorem State.twinEvent_only (s : State) (bit : ℕ) (code : Option ℕ) (detail : List Byte) :
    Only [.regs, .igrel, .ylog, .out, .flagged] s (State.twinEvent s bit code detail) := by
  unfold State.twinEvent
  dsimp only
  split
  · refine Only.step (State.logEvent_only ..) (by decide) ?_
    refine Only.step (State.setBits_only ..) (by decide) ?_
    exact .refl
  · refine Only.step (State.setBits_only ..) (by decide) ?_
    exact .refl

theorem State.sendMode_only (s : State) (m : Mode) (line : ℕ) : Only [.out] s (State.sendMode s m line) := by
  unfold State.sendMode
  refine Only.ite (fun _ => ?_) (fun _ => ?_)
  · refine Only.step (State.twinSend_only ..) (by decide) ?_
    exact .refl
  · exact .refl

theorem State.makeHeld_only (s : State) :
    Only [.regs, .igrel, .decomp, .slots, .health, .taper, .twin, .wick, .ylog, .out, .flagged] s (State.makeHeld s) := by
  unfold State.makeHeld
  dsimp only
  refine Only.foldl (fun t x => ?_) ?_
  · refine Only.step (State.publish_only ..) (by decide) ?_
    exact .refl
  · refine Only.with_twin (by decide) ?_
    exact .refl

theorem State.abandonSwap_only (s : State) :
    Only [.regs, .igrel, .decomp, .slots, .health, .taper, .twin, .wick, .ylog, .out, .flagged] s (State.abandonSwap s) := by
  unfold State.abandonSwap
  split
  · exact .refl
  · refine Only.step (State.makeHeld_only ..) (by decide) ?_
    refine Only.with_twin (by decide) ?_
    exact .refl

theorem State.makeAwaited_only (s : State) :
    Only [.regs, .igrel, .decomp, .slots, .health, .taper, .twin, .wick, .ylog, .out, .flagged] s (State.makeAwaited s) := by
  unfold State.makeAwaited
  dsimp only
  refine Only.foldl (fun t x => ?_) ?_
  · refine Only.step (State.publish_only ..) (by decide) ?_
    exact .refl
  · refine Only.with_twin (by decide) ?_
    exact .refl

theorem State.abandonJoin_only (s : State) : Only [.regs, .twin] s (State.abandonJoin s) := by
  unfold State.abandonJoin
  split
  · refine Only.with_twin (by decide) ?_
    exact .refl
  · refine Only.step (State.setReg_only ..) (by decide) ?_
    refine Only.with_twin (by decide) ?_
    exact .refl

theorem State.raiseHeadPwr_only (s : State) : Only [.pins] s (State.raiseHeadPwr s) := by
  unfold State.raiseHeadPwr
  refine Only.ite (fun _ => ?_) (fun _ => ?_)
  · exact .refl
  · refine Only.with_pins (by decide) ?_
    exact .refl

theorem State.drivenAlive_only (s : State) : Only [.pins] s (State.drivenAlive s) := by
  unfold State.drivenAlive
  dsimp only
  refine Only.with_pins (by decide) ?_
  exact .refl

theorem State.raiseConflict_only (s : State) : Only [.regs, .igrel, .ylog, .out, .flagged] s (State.raiseConflict s) := by
  unfold State.raiseConflict
  refine Only.ite (fun _ => ?_) (fun _ => ?_)
  · refine Only.step (State.twinEvent_only ..) (by decide) ?_
    exact .refl
  · exact .refl

theorem State.freshJoin_only (s : State) : Only [.regs] s (State.freshJoin s) := by
  unfold State.freshJoin
  refine Only.ite (fun _ => ?_) (fun _ => ?_)
  · refine Only.step (State.setReg_only ..) (by decide) ?_
    exact .refl
  · exact .refl

theorem State.enterPilot_only (s : State) :
    Only [.regs, .mode, .pins, .igrel, .taper, .heads, .ylog, .out, .flagged] s (State.enterPilot s) := by
  unfold State.enterPilot
  dsimp only
  refine Only.step (State.raiseConflict_only ..) (by decide) ?_
  refine Only.step (State.tellState_only ..) (by decide) ?_
  refine Only.step (State.drivenAlive_only ..) (by decide) ?_
  refine Only.with_pins_taper (by decide) ?_
  refine Only.step (State.raiseHeadPwr_only ..) (by decide) ?_
  refine Only.step (State.toMode_only ..) (by decide) ?_
  refine Only.step (State.freshJoin_only ..) (by decide) ?_
  exact .refl

theorem State.enterTrim_only (s : State) : Only [.regs, .mode, .pins, .igrel, .heads, .ylog, .out, .flagged] s (State.enterTrim s) := by
  unfold State.enterTrim
  refine Only.step (State.tellState_only ..) (by decide) ?_
  refine Only.step (State.drivenAlive_only ..) (by decide) ?_
  refine Only.step (State.toMode_only ..) (by decide) ?_
  exact .refl

theorem State.endStop_only (s : State) :
    Only [.regs, .mode, .pins, .igrel, .decomp, .slots, .health, .taper, .heads, .twin, .wick, .ylog, .out, .flagged] s (State.endStop
      s) := by
  unfold State.endStop
  dsimp only
  refine Only.step (State.enterPilot_only ..) (by decide) ?_
  refine Only.step (State.abandonJoin_only ..) (by decide) ?_
  refine Only.step (State.abandonSwap_only ..) (by decide) ?_
  refine Only.step (State.recordStop_only ..) (by decide) ?_
  refine Only.with_taper (by decide) ?_
  exact .refl

theorem execLitStopComplete_only (s : State) :
    OnlyNext [.regs, .mode, .pins, .igrel, .decomp, .slots, .health, .taper, .heads, .twin, .wick, .ylog, .out, .flagged] s
      (execLitStopComplete s) := by
  unfold execLitStopComplete
  refine OnlyNext.ite (fun _ => ?_) (fun _ => ?_)
  · refine OnlyNext.next ?_
    refine Only.step (State.endStop_only ..) (by decide) ?_
    exact .refl
  · refine OnlyNext.next ?_
    exact .refl

theorem State.setOrigin_only (s : State) : Only [.regs] s (State.setOrigin s) := by
  unfold State.setOrigin
  refine Only.ite (fun _ => ?_) (fun _ => ?_)
  · dsimp only
    refine Only.step (State.setReg_only ..) (by decide) ?_
    refine Only.step (State.setReg_only ..) (by decide) ?_
    exact .refl
  · exact .refl

theorem State.startGroups_only (s : State) (x1 : List ℕ) : Only [.taper] s (State.startGroups s x1) := by
  induction x1 generalizing s with | nil => ?_ | cons y l ih => ?_
  · simp only [State.startGroups]
    exact .refl
  · simp only [State.startGroups]
    refine Only.trans (ih ..) ?_
    refine Only.step (State.setGroup_only ..) (by decide) ?_
    exact .refl

theorem State.freshTwin_only (s : State) : Only [.twin] s (State.freshTwin s) := by
  unfold State.freshTwin
  dsimp only
  refine Only.ite (fun _ => ?_) (fun _ => ?_)
  · refine Only.with_twin (by decide) ?_
    exact .refl
  · refine Only.with_twin (by decide) ?_
    exact .refl

theorem State.driveFireEn_only (s : State) : Only [.pins] s (State.driveFireEn s) := by
  unfold State.driveFireEn
  refine Only.with_pins (by decide) ?_
  exact .refl

theorem State.enterLit_only (s : State) :
    Only [.regs, .mode, .pins, .igrel, .taper, .heads, .twin, .lantern, .dram, .ylog, .out, .flagged] s (State.enterLit s) := by
  unfold State.enterLit
  dsimp only
  refine Only.step (State.driveFireEn_only ..) (by decide) ?_
  refine Only.step (State.fireReset_only ..) (by decide) ?_
  refine Only.step (State.tellState_only ..) (by decide) ?_
  refine Only.step (State.drivenAlive_only ..) (by decide) ?_
  refine Only.step (State.toMode_only ..) (by decide) ?_
  refine Only.with_taper_lantern_dram (by decide) ?_
  refine Only.step (State.startGroups_only ..) (by decide) ?_
  refine Only.step (State.setOrigin_only ..) (by decide) ?_
  refine Only.step (State.freshTwin_only ..) (by decide) ?_
  exact .refl

theorem State.acceptLit_only (s : State) :
    Only [.regs, .mode, .pins, .igrel, .slots, .taper, .heads, .twin, .lantern, .dram, .wick, .axes, .ylog, .out, .flagged] s
      (State.acceptLit s) := by
  unfold State.acceptLit
  dsimp only
  refine Only.ite (fun _ => ?_) (fun _ => ?_)
  · refine Only.step (State.enterLit_only ..) (by decide) ?_
    refine Only.step (State.selectSet_only ..) (by decide) ?_
    exact .refl
  · refine Only.with_dram (by decide) ?_
    refine Only.step (State.selectSet_only ..) (by decide) ?_
    exact .refl

theorem execDramFreqChangeDone_only (s : State) :
    OnlyNext [.regs, .mode, .pins, .igrel, .slots, .taper, .heads, .twin, .lantern, .dram, .wick, .axes, .ylog, .out, .flagged] s
      (execDramFreqChangeDone s) := by
  unfold execDramFreqChangeDone
  split
  · dsimp only
    refine OnlyNext.next ?_
    refine Only.ite (fun _ => ?_) (fun _ => ?_)
    · refine Only.ite (fun _ => ?_) (fun _ => ?_)
      · refine Only.step (State.enterLit_only ..) (by decide) ?_
        refine Only.step (State.setChanged_only ..) (by decide) ?_
        exact .refl
      · refine Only.with_dram (by decide) ?_
        refine Only.step (State.setChanged_only ..) (by decide) ?_
        exact .refl
    · refine Only.step (State.setChanged_only ..) (by decide) ?_
      exact .refl
  · refine OnlyNext.next ?_
    exact .refl

theorem State.dropStrobes_only (s : State) (x1 : List ℕ) :
    Only [.regs, .pins, .igrel, .taper, .ylog, .out, .flagged] s (State.dropStrobes s x1) := by
  induction x1 generalizing s with | nil => ?_ | cons y l ih => ?_
  · simp only [State.dropStrobes]
    exact .refl
  · simp only [State.dropStrobes]
    refine Only.trans (ih ..) ?_
    refine Only.ite (fun _ => ?_) (fun _ => ?_)
    · refine Only.step (State.emit_only ..) (by decide) ?_
      refine Only.step (State.dropStrobe_only ..) (by decide) ?_
      exact .refl
    · refine Only.step (State.dropStrobe_only ..) (by decide) ?_
      exact .refl

theorem State.dropHeadPwr_only (s : State) : Only [.pins] s (State.dropHeadPwr s) := by
  unfold State.dropHeadPwr
  refine Only.with_pins (by decide) ?_
  exact .refl

theorem State.lowPins_only (s : State) : Only [.pins] s (State.lowPins s) := by
  unfold State.lowPins
  dsimp only
  refine Only.ite (fun _ => ?_) (fun _ => ?_)
  · refine Only.step (State.dropHeadPwr_only ..) (by decide) ?_
    refine Only.with_pins (by decide) ?_
    exact .refl
  · refine Only.with_pins (by decide) ?_
    exact .refl

theorem State.snuffPins_only (s : State) : Only [.regs, .pins, .igrel, .taper, .ylog, .out, .flagged] s (State.snuffPins s) := by
  unfold State.snuffPins
  refine Only.step (State.lowPins_only ..) (by decide) ?_
  refine Only.step (State.dropStrobes_only ..) (by decide) ?_
  exact .refl

theorem State.snuffUnits_only (s : State) :
    Only [.regs, .doms, .rst, .taper, .lantern, .led, .chans, .dram, .wick, .axes, .out, .flagged, .freeCtr] s (State.snuffUnits s) := by
  unfold State.snuffUnits
  dsimp only
  refine Only.step (State.lanternSnuff_only ..) (by decide) ?_
  refine Only.step (State.stopAxes_only ..) (by decide) ?_
  refine Only.step (State.snuffWick_only ..) (by decide) ?_
  refine Only.with_rst_taper_dram (by decide) ?_
  exact .refl

theorem State.enterSnuff_only (s : State) (bar : Bool) :
    Only [.regs, .doms, .mode, .rst, .pins, .igrel, .raster, .decomp, .slots, .health, .taper, .heads, .twin, .lantern, .led, .chans,
      .dram, .wick, .loops, .spi, .axes, .ylog, .out, .flagged, .freeCtr] s (State.enterSnuff s bar) := by
  unfold State.enterSnuff
  dsimp only
  refine Only.step (State.abandonJoin_only ..) (by decide) ?_
  refine Only.step (State.makeAwaited_only ..) (by decide) ?_
  refine Only.step (State.abandonSwap_only ..) (by decide) ?_
  refine Only.step (State.tellState_only ..) (by decide) ?_
  refine Only.step (State.loopSnuff_only ..) (by decide) ?_
  refine Only.step (State.toMode_only ..) (by decide) ?_
  refine Only.step (State.snuffPins_only ..) (by decide) ?_
  refine Only.step (State.snuffUnits_only ..) (by decide) ?_
  refine Only.ite (fun _ => ?_) (fun _ => ?_)
  · refine Only.step (State.taperSnuff_only ..) (by decide) ?_
    refine Only.ite (fun _ => ?_) (fun _ => ?_)
    · refine Only.step (State.twinSend_only ..) (by decide) ?_
      exact .refl
    · exact .refl
  · refine Only.ite (fun _ => ?_) (fun _ => ?_)
    · refine Only.step (State.twinSend_only ..) (by decide) ?_
      exact .refl
    · exact .refl

theorem execSnuffEntry_only (s : State) :
    OnlyNext [.regs, .doms, .mode, .rst, .pins, .igrel, .raster, .decomp, .slots, .health, .taper, .heads, .twin, .lantern, .led,
      .chans, .dram, .wick, .loops, .spi, .axes, .ylog, .out, .flagged, .freeCtr] s (execSnuffEntry s) := by
  unfold execSnuffEntry
  refine OnlyNext.ite (fun _ => ?_) (fun _ => ?_)
  · refine OnlyNext.next ?_
    refine Only.step (State.enterSnuff_only ..) (by decide) ?_
    exact .refl
  · refine OnlyNext.next ?_
    exact .refl

theorem execSafeStopAssert_only (s : State) : OnlyNext [.regs, .pins, .flagged] s (execSafeStopAssert s) := by
  unfold execSafeStopAssert
  refine OnlyNext.ite (fun _ => ?_) (fun _ => ?_)
  · refine OnlyNext.next ?_
    exact .refl
  · dsimp only
    refine OnlyNext.next ?_
    refine Only.step (State.setCause_only ..) (by decide) ?_
    refine Only.step (State.setReg_only ..) (by decide) ?_
    refine Only.with_pins (by decide) ?_
    exact .refl

theorem execSafeStopRelease_only (s : State) : OnlyNext [.pins] s (execSafeStopRelease s) := by
  unfold execSafeStopRelease
  refine OnlyNext.next ?_
  refine Only.with_pins (by decide) ?_
  exact .refl

theorem execHeadPwrDrop_only (s : State) : OnlyNext [.pins] s (execHeadPwrDrop s) := by
  unfold execHeadPwrDrop
  refine OnlyNext.ite (fun _ => ?_) (fun _ => ?_)
  · refine OnlyNext.next ?_
    refine Only.step (State.dropHeadPwr_only ..) (by decide) ?_
    exact .refl
  · refine OnlyNext.next ?_
    exact .refl

theorem execHeadSettleExpiry_only (s : State) : OnlyNext [.pins] s (execHeadSettleExpiry s) := by
  unfold execHeadSettleExpiry
  refine OnlyNext.ite (fun _ => ?_) (fun _ => ?_)
  · refine OnlyNext.next ?_
    refine Only.with_pins (by decide) ?_
    exact .refl
  · refine OnlyNext.next ?_
    exact .refl

theorem execSupplyMonitorTrip_only (s : State) : OnlyNext [.regs, .flagged] s (execSupplyMonitorTrip s) := by
  unfold execSupplyMonitorTrip
  refine OnlyNext.next ?_
  refine Only.step (State.setCause_only ..) (by decide) ?_
  exact .refl

/-! ### Lanes -/

theorem State.countKindle_only (s : State) : Only [.regs, .flash, .cal] s (State.countKindle s) := by
  unfold State.countKindle
  dsimp only
  refine Only.with_flash_cal (by decide) ?_
  refine Only.step (State.setReg_only ..) (by decide) ?_
  exact .refl

theorem State.countKindleFail_only (s : State) : Only [.flash] s (State.countKindleFail s) := by
  unfold State.countKindleFail
  refine Only.with_flash (by decide) ?_
  exact .refl

theorem State.setItem_only (s : State) (k : ℕ) (v : ℕ) : Only [.regs] s (State.setItem s k v) := by
  unfold State.setItem
  dsimp only
  refine Only.step (State.setReg_only ..) (by decide) ?_
  exact .refl

theorem State.calFail_only (s : State) (item : ℕ) (unit : ℕ) (r1 : ℕ) (r2 : ℕ) :
    Only [.regs, .doms, .mode, .rst, .pins, .igrel, .flash, .raster, .decomp, .slots, .health, .taper, .heads, .twin, .lantern, .led,
      .chans, .dram, .wick, .loops, .spi, .axes, .cal, .ylog, .out, .flagged, .freeCtr] s (State.calFail s item unit r1 r2) := by
  unfold State.calFail
  refine Only.ite (fun _ => ?_) (fun _ => ?_)
  · dsimp only
    refine Only.step (State.enterSnuff_only ..) (by decide) ?_
    refine Only.step (State.setCause_only ..) (by decide) ?_
    refine Only.step (State.logEvent_only ..) (by decide) ?_
    refine Only.step (State.countKindleFail_only ..) (by decide) ?_
    refine Only.step (State.countKindle_only ..) (by decide) ?_
    refine Only.with_cal (by decide) ?_
    refine Only.step (State.setReg_only ..) (by decide) ?_
    refine Only.step (State.setItem_only ..) (by decide) ?_
    exact .refl
  · exact .refl

theorem State.startTraining_only (s : State) (m : ℕ) : Only [.regs, .heads, .out] s (State.startTraining s m) := by
  unfold State.startTraining
  dsimp only
  refine Only.step (State.emit_only ..) (by decide) ?_
  refine Only.step (State.setReg_only ..) (by decide) ?_
  refine Only.step (State.setHead_only ..) (by decide) ?_
  exact .refl

theorem State.trainAll_only (s : State) (x1 : List ℕ) : Only [.regs, .heads, .out] s (State.trainAll s x1) := by
  induction x1 generalizing s with | nil => ?_ | cons y l ih => ?_
  · simp only [State.trainAll]
    exact .refl
  · simp only [State.trainAll]
    refine Only.trans (ih ..) ?_
    refine Only.step (State.startTraining_only ..) (by decide) ?_
    exact .refl

theorem State.adapt_only (s : State) (m : ℕ) : Only [.regs, .freeCtr] s (State.adapt s m) := by
  unfold State.adapt
  split
  split
  refine Only.step (State.setReg_only ..) (by decide) ?_
  refine Only.step (State.setReg_only ..) (by decide) ?_
  refine Only.of_snd (by assumption) ?_
  refine Only.step (State.fresh_only ..) (by decide) ?_
  refine Only.of_snd (by assumption) ?_
  refine Only.step (State.fresh_only ..) (by decide) ?_
  exact .refl

theorem execHeadTrainReply_only (m : Fin 32) (slot : ℕ) (inverted : Bool) (s : State) :
    OnlyNext [.regs, .igrel, .heads, .ylog, .out, .flagged, .freeCtr] s (execHeadTrainReply m slot inverted s) := by
  unfold execHeadTrainReply
  refine OnlyNext.ite (fun _ => ?_) (fun _ => ?_)
  · dsimp only
    refine OnlyNext.ite (fun _ => ?_) (fun _ => ?_)
    · refine OnlyNext.next ?_
      refine Only.step (State.setHead_only ..) (by decide) ?_
      refine Only.step (State.adapt_only ..) (by decide) ?_
      refine Only.step (State.setReg_only ..) (by decide) ?_
      refine Only.step (State.setReg_only ..) (by decide) ?_
      exact .refl
    · refine OnlyNext.next ?_
      refine Only.ite (fun _ => ?_) (fun _ => ?_)
      · refine Only.step (State.laneFlag_only ..) (by decide) ?_
        refine Only.step (State.setHead_only ..) (by decide) ?_
        refine Only.step (State.adapt_only ..) (by decide) ?_
        refine Only.step (State.setReg_only ..) (by decide) ?_
        refine Only.step (State.setReg_only ..) (by decide) ?_
        exact .refl
      · refine Only.step (State.logEvent_only ..) (by decide) ?_
        refine Only.step (State.laneFlag_only ..) (by decide) ?_
        refine Only.step (State.setHead_only ..) (by decide) ?_
        refine Only.step (State.adapt_only ..) (by decide) ?_
        refine Only.step (State.setReg_only ..) (by decide) ?_
        refine Only.step (State.setReg_only ..) (by decide) ?_
        exact .refl
  · refine OnlyNext.next ?_
    exact .refl

theorem State.askRetrain_only (s : State) (m : ℕ) :
    Only [.regs, .pins, .igrel, .slots, .taper, .heads, .dram, .wick, .axes, .ylog, .out, .flagged] s (State.askRetrain s m) := by
  unfold State.askRetrain
  dsimp only
  refine Only.step (State.request_only ..) (by decide) ?_
  exact .refl

theorem State.takeDown_only (s : State) (m : ℕ) (mask : ℕ) :
    Only [.regs, .pins, .igrel, .slots, .taper, .heads, .dram, .wick, .axes, .ylog, .out, .flagged] s (State.takeDown s m mask) := by
  unfold State.takeDown
  dsimp only
  refine Only.step (State.askRetrain_only ..) (by decide) ?_
  refine Only.step (State.logEvent_only ..) (by decide) ?_
  refine Only.step (State.suspend_only ..) (by decide) ?_
  refine Only.step (State.setHead_only ..) (by decide) ?_
  refine Only.step (State.bump_only ..) (by decide) ?_
  refine Only.step (State.laneFlag_only ..) (by decide) ?_
  refine Only.step (State.setReg_only ..) (by decide) ?_
  exact .refl

theorem execHeadLaneTimeout_only (m : Fin 32) (s : State) :
    OnlyNext [.regs, .doms, .mode, .rst, .pins, .igrel, .flash, .raster, .decomp, .slots, .health, .taper, .heads, .twin, .lantern,
      .led, .chans, .dram, .wick, .loops, .spi, .axes, .cal, .ylog, .out, .flagged, .freeCtr] s (execHeadLaneTimeout m s) := by
  unfold execHeadLaneTimeout
  refine OnlyNext.ite (fun _ => ?_) (fun _ => ?_)
  · dsimp only
    refine OnlyNext.ite (fun _ => ?_) (fun _ => ?_)
    · refine OnlyNext.next ?_
      refine Only.step (State.calFail_only ..) (by decide) ?_
      refine Only.step (State.setReg_only ..) (by decide) ?_
      exact .refl
    · refine OnlyNext.next ?_
      refine Only.step (State.askRetrain_only ..) (by decide) ?_
      refine Only.step (State.setReg_only ..) (by decide) ?_
      exact .refl
  · refine OnlyNext.next ?_
    exact .refl

theorem execStatusTimeout_only (m : Fin 32) (s : State) :
    OnlyNext [.regs, .pins, .igrel, .slots, .taper, .heads, .dram, .wick, .axes, .ylog, .out, .flagged] s (execStatusTimeout m s) := by
  unfold execStatusTimeout
  refine OnlyNext.ite (fun _ => ?_) (fun _ => ?_)
  · refine OnlyNext.next ?_
    refine Only.step (State.takeDown_only ..) (by decide) ?_
    exact .refl
  · refine OnlyNext.next ?_
    exact .refl

theorem execHeadLaneLoss_only (m : Fin 32) (lol : Bool) (errors : ℕ) (s : State) :
    OnlyNext [.regs, .pins, .igrel, .slots, .taper, .heads, .dram, .wick, .axes, .ylog, .out, .flagged] s (execHeadLaneLoss m lol
      errors s) := by
  unfold execHeadLaneLoss
  refine OnlyNext.ite (fun _ => ?_) (fun _ => ?_)
  · refine OnlyNext.next ?_
    exact .refl
  · dsimp only
    refine OnlyNext.next ?_
    refine Only.ite (fun _ => ?_) (fun _ => ?_)
    · refine Only.step (State.takeDown_only ..) (by decide) ?_
      refine Only.step (State.count_only ..) (by decide) ?_
      refine Only.step (State.bump_only ..) (by decide) ?_
      exact .refl
    · refine Only.step (State.laneFlag_only ..) (by decide) ?_
      refine Only.step (State.count_only ..) (by decide) ?_
      refine Only.step (State.bump_only ..) (by decide) ?_
      exact .refl

theorem State.resendCtrl_only (s : State) (m : ℕ) (x2 : List Ctrl) : Only [.regs, .out] s (State.resendCtrl s m x2) := by
  induction x2 generalizing s m with | nil => ?_ | cons y l ih => ?_
  · simp only [State.resendCtrl]
    exact .refl
  · simp only [State.resendCtrl]
    refine Only.trans (ih ..) ?_
    refine Only.step (State.bump_only ..) (by decide) ?_
    refine Only.step (State.sendHead_only ..) (by decide) ?_
    exact .refl

theorem execCtrlResendTimeout_only (m : Fin 32) (s : State) :
    OnlyNext [.regs, .pins, .igrel, .slots, .taper, .heads, .dram, .wick, .axes, .ylog, .out, .flagged] s (execCtrlResendTimeout m s) := by
  unfold execCtrlResendTimeout
  dsimp only
  refine OnlyNext.ite (fun _ => ?_) (fun _ => ?_)
  · refine OnlyNext.next ?_
    exact .refl
  · refine OnlyNext.ite (fun _ => ?_) (fun _ => ?_)
    · refine OnlyNext.next ?_
      refine Only.step (State.takeDown_only ..) (by decide) ?_
      exact .refl
    · refine OnlyNext.next ?_
      refine Only.step (State.resendCtrl_only ..) (by decide) ?_
      refine Only.step (State.setHead_only ..) (by decide) ?_
      exact .refl

theorem execHeadLaneRetrain_only (m : Fin 32) (s : State) : OnlyNext [.regs, .heads, .wick, .out] s (execHeadLaneRetrain m s) := by
  unfold execHeadLaneRetrain
  refine OnlyNext.ite (fun _ => ?_) (fun _ => ?_)
  · refine OnlyNext.next ?_
    refine Only.step (State.startTraining_only ..) (by decide) ?_
    refine Only.step (State.useLeave_only ..) (by decide) ?_
    exact .refl
  · refine OnlyNext.next ?_
    exact .refl

theorem execRecoverTimeExpiry_only (m : Fin 32) (s : State) : OnlyNext [.regs, .heads, .flagged] s (execRecoverTimeExpiry m s) := by
  unfold execRecoverTimeExpiry
  dsimp only
  refine OnlyNext.ite (fun _ => ?_) (fun _ => ?_)
  · refine OnlyNext.next ?_
    refine Only.step (State.setCause_only ..) (by decide) ?_
    refine Only.step (State.setHead_only ..) (by decide) ?_
    exact .refl
  · refine OnlyNext.next ?_
    exact .refl

theorem State.headCounters_only (s : State) (m : ℕ) (p : List Byte) : Only [.regs, .heads] s (State.headCounters s m p) := by
  unfold State.headCounters
  dsimp only
  refine Only.step (State.setHead_only ..) (by decide) ?_
  refine Only.step (State.count_only ..) (by decide) ?_
  refine Only.step (State.count_only ..) (by decide) ?_
  refine Only.step (State.count_only ..) (by decide) ?_
  refine Only.step (State.count_only ..) (by decide) ?_
  exact .refl

theorem State.takeReports_only (s : State) (m : ℕ) (p : List Byte) :
    Only [.regs, .igrel, .decomp, .slots, .health, .taper, .twin, .wick, .ylog, .out, .flagged] s (State.takeReports s m p) := by
  unfold State.takeReports
  split
  · exact .refl
  · refine Only.ite (fun _ => ?_) (fun _ => ?_)
    · exact .refl
    · refine Only.step (State.publish_only ..) (by decide) ?_
      exact .refl

theorem State.takeAck_only (s : State) (m : ℕ) (ack : ℕ) : Only [.heads] s (State.takeAck s m ack) := by
  unfold State.takeAck
  dsimp only
  refine Only.step (State.setHead_only ..) (by decide) ?_
  exact .refl

theorem State.resendStrip_only (s : State) (st : ℕ) : Only [.out] s (State.resendStrip s st) := by
  unfold State.resendStrip
  refine Only.foldl (fun t x => ?_) ?_
  · refine Only.step (State.sendLine_only ..) (by decide) ?_
    exact .refl
  · exact .refl

theorem State.laneComesUp_only (s : State) (m : ℕ) (p : List Byte) : Only [.regs, .heads, .out] s (State.laneComesUp s m p) := by
  unfold State.laneComesUp
  dsimp only
  refine Only.foldl (fun t x => ?_) ?_
  · refine Only.step (State.resendStrip_only ..) (by decide) ?_
    exact .refl
  · refine Only.step (State.sendCtrl_only ..) (by decide) ?_
    refine Only.ite (fun _ => ?_) (fun _ => ?_)
    · refine Only.step (State.sendCtrl_only ..) (by decide) ?_
      refine Only.step (State.setHead_only ..) (by decide) ?_
      refine Only.step (State.setReg_only ..) (by decide) ?_
      exact .refl
    · refine Only.step (State.sendTrim_only ..) (by decide) ?_
      refine Only.step (State.sendCtrl_only ..) (by decide) ?_
      refine Only.step (State.setHead_only ..) (by decide) ?_
      refine Only.step (State.setReg_only ..) (by decide) ?_
      exact .refl

theorem State.takeStatus_only (s : State) (m : ℕ) (p : List Byte) :
    Only [.regs, .doms, .igrel, .raster, .decomp, .slots, .health, .taper, .heads, .twin, .chans, .wick, .ylog, .out, .flagged] s
      (State.takeStatus s m p) := by
  unfold State.takeStatus
  dsimp only
  refine Only.step (State.hearStatus_only ..) (by decide) ?_
  refine Only.step (State.takeReports_only ..) (by decide) ?_
  refine Only.ite (fun _ => ?_) (fun _ => ?_)
  · refine Only.step (State.setCause_only ..) (by decide) ?_
    refine Only.step (State.takeAck_only ..) (by decide) ?_
    refine Only.step (State.headCounters_only ..) (by decide) ?_
    refine Only.step (State.setHead_only ..) (by decide) ?_
    refine Only.step (State.setReg_only ..) (by decide) ?_
    refine Only.step (State.setReg_only ..) (by decide) ?_
    refine Only.step (State.setDom_only ..) (by decide) ?_
    refine Only.step (State.setHead_only ..) (by decide) ?_
    exact .refl
  · refine Only.step (State.takeAck_only ..) (by decide) ?_
    refine Only.step (State.headCounters_only ..) (by decide) ?_
    refine Only.step (State.setHead_only ..) (by decide) ?_
    refine Only.step (State.setReg_only ..) (by decide) ?_
    refine Only.step (State.setReg_only ..) (by decide) ?_
    refine Only.step (State.setDom_only ..) (by decide) ?_
    refine Only.step (State.setHead_only ..) (by decide) ?_
    exact .refl

theorem execStatus_only (m : Fin 32) (errors : ℕ) (chars : List Sym) (s : State) :
    OnlyNext [.regs, .doms, .pins, .igrel, .raster, .decomp, .slots, .health, .taper, .heads, .twin, .chans, .dram, .wick, .axes,
      .ylog, .out, .flagged] s (execStatus m errors chars s) := by
  unfold execStatus
  refine OnlyNext.ite (fun _ => ?_) (fun _ => ?_)
  · refine OnlyNext.next ?_
    exact .refl
  · dsimp only
    split
    · refine OnlyNext.next ?_
      refine Only.step (State.bump_only ..) (by decide) ?_
      refine Only.step (State.count_only ..) (by decide) ?_
      exact .refl
    · refine OnlyNext.ite (fun _ => ?_) (fun _ => ?_)
      · refine OnlyNext.next ?_
        refine Only.ite (fun _ => ?_) (fun _ => ?_)
        · refine Only.step (State.takeDown_only ..) (by decide) ?_
          refine Only.step (State.takeStatus_only ..) (by decide) ?_
          refine Only.step (State.count_only ..) (by decide) ?_
          exact .refl
        · refine Only.step (State.takeStatus_only ..) (by decide) ?_
          refine Only.step (State.count_only ..) (by decide) ?_
          exact .refl
      · refine OnlyNext.ite (fun _ => ?_) (fun _ => ?_)
        · refine OnlyNext.next ?_
          refine Only.step (State.laneComesUp_only ..) (by decide) ?_
          refine Only.step (State.takeStatus_only ..) (by decide) ?_
          refine Only.step (State.count_only ..) (by decide) ?_
          exact .refl
        · refine OnlyNext.next ?_
          refine Only.step (State.count_only ..) (by decide) ?_
          exact .refl

theorem State.headReset_only (s : State) : Only [.regs, .taper, .heads] s (State.headReset s) := by
  unfold State.headReset
  refine Only.foldl (fun t x => ?_) ?_
  · dsimp only
    refine Only.step (State.setReg_only ..) (by decide) ?_
    refine Only.step (State.setHead_only ..) (by decide) ?_
    refine Only.ite (fun _ => ?_) (fun _ => ?_)
    · refine Only.step (State.suspend_only ..) (by decide) ?_
      exact .refl
    · exact .refl
  · exact .refl

theorem State.headRelease_only (s : State) : Only [.regs, .heads, .out] s (State.headRelease s) := by
  unfold State.headRelease
  dsimp only
  refine Only.step (State.trainAll_only ..) (by decide) ?_
  refine Only.foldl (fun t x => ?_) ?_
  · refine Only.step (State.setReg_only ..) (by decide) ?_
    exact .refl
  · exact .refl

/-! ### Cal -/

theorem State.ringCredits_only (s : State) (x1 : List ℕ) : Only [.regs] s (State.ringCredits s x1) := by
  induction x1 generalizing s with | nil => ?_ | cons y l ih => ?_
  · simp only [State.ringCredits]
    exact .refl
  · simp only [State.ringCredits]
    refine Only.trans (ih ..) ?_
    refine Only.step (State.setReg_only ..) (by decide) ?_
    exact .refl

theorem State.rasterLanes_only (s : State) (v : ℕ) (x2 : List ℕ) : Only [.regs] s (State.rasterLanes s v x2) := by
  induction x2 generalizing s v with | nil => ?_ | cons y l ih => ?_
  · simp only [State.rasterLanes]
    exact .refl
  · simp only [State.rasterLanes]
    refine Only.trans (ih ..) ?_
    refine Only.step (State.setReg_only ..) (by decide) ?_
    exact .refl

theorem State.trainRaster_only (s : State) : Only [.regs, .out] s (State.trainRaster s) := by
  unfold State.trainRaster
  refine Only.step (State.emitAll_only ..) (by decide) ?_
  refine Only.step (State.setReg_only ..) (by decide) ?_
  refine Only.step (State.rasterLanes_only ..) (by decide) ?_
  exact .refl

theorem State.trainTwin_only (s : State) : Only [.regs, .out] s (State.trainTwin s) := by
  unfold State.trainTwin
  refine Only.step (State.emitAll_only ..) (by decide) ?_
  refine Only.step (State.setReg_only ..) (by decide) ?_
  refine Only.step (State.setReg_only ..) (by decide) ?_
  exact .refl

theorem State.beginLinks_only (s : State) (freed : ℕ) : Only [.regs, .heads, .out] s (State.beginLinks s freed) := by
  unfold State.beginLinks
  dsimp only
  refine Only.ite (fun _ => ?_) (fun _ => ?_)
  · refine Only.step (State.trainRaster_only ..) (by decide) ?_
    refine Only.ite (fun _ => ?_) (fun _ => ?_)
    · refine Only.step (State.trainTwin_only ..) (by decide) ?_
      refine Only.ite (fun _ => ?_) (fun _ => ?_)
      · refine Only.step (State.headRelease_only ..) (by decide) ?_
        exact .refl
      · exact .refl
    · refine Only.ite (fun _ => ?_) (fun _ => ?_)
      · refine Only.step (State.headRelease_only ..) (by decide) ?_
        exact .refl
      · exact .refl
  · refine Only.ite (fun _ => ?_) (fun _ => ?_)
    · refine Only.step (State.trainTwin_only ..) (by decide) ?_
      refine Only.ite (fun _ => ?_) (fun _ => ?_)
      · refine Only.step (State.headRelease_only ..) (by decide) ?_
        exact .refl
      · exact .refl
    · refine Only.ite (fun _ => ?_) (fun _ => ?_)
      · refine Only.step (State.headRelease_only ..) (by decide) ?_
        exact .refl
      · exact .refl

theorem State.pendBlocks_only (s : State) (mask : ℕ) : Only [.regs] s (State.pendBlocks s mask) := by
  unfold State.pendBlocks
  dsimp only
  refine Only.step (State.setReg_only ..) (by decide) ?_
  refine Only.step (State.setReg_only ..) (by decide) ?_
  exact .refl

theorem State.enterKindle_only (s : State) :
    Only [.regs, .doms, .mode, .rst, .pins, .igrel, .flash, .raster, .decomp, .slots, .health, .taper, .heads, .twin, .lantern, .led,
      .chans, .dram, .wick, .loops, .spi, .axes, .cal, .ylog, .out, .flagged, .freeCtr] s (State.enterKindle s) := by
  unfold State.enterKindle
  dsimp only
  refine Only.ite (fun _ => ?_) (fun _ => ?_)
  · refine Only.step (State.pendBlocks_only ..) (by decide) ?_
    refine Only.step (State.setReg_only ..) (by decide) ?_
    refine Only.step (State.setReg_only ..) (by decide) ?_
    refine Only.step (State.setReg_only ..) (by decide) ?_
    refine Only.with_twin_led_cal (by decide) ?_
    refine Only.step (State.toMode_only ..) (by decide) ?_
    exact .refl
  · refine Only.step (State.calFail_only ..) (by decide) ?_
    refine Only.step (State.pendBlocks_only ..) (by decide) ?_
    refine Only.step (State.setReg_only ..) (by decide) ?_
    refine Only.step (State.setReg_only ..) (by decide) ?_
    refine Only.step (State.setReg_only ..) (by decide) ?_
    refine Only.with_twin_led_cal (by decide) ?_
    refine Only.step (State.toMode_only ..) (by decide) ?_
    exact .refl

theorem State.twoRuns_only (s : State) (item tol : Nat) (bad : Int → Bool) (l : List (Nat × Int × Int)) (passed : State → State)
    (hp : ∀ t, Only [.regs, .doms, .mode, .rst, .pins, .igrel, .flash, .raster, .decomp, .slots, .health, .taper, .heads, .twin, .lantern, .led, .chans, .dram, .wick, .loops, .spi, .axes, .cal, .ylog, .out, .flagged, .freeCtr] t (passed t)) : Only [.regs, .doms, .mode, .rst, .pins, .igrel, .flash, .raster, .decomp, .slots, .health, .taper, .heads, .twin, .lantern, .led, .chans, .dram, .wick, .loops, .spi, .axes, .cal, .ylog, .out, .flagged, .freeCtr] s (s.twoRuns item tol bad l passed) := by
  unfold State.twoRuns
  split
  · dsimp only
    refine Only.step (State.calFail_only ..) (by decide) ?_
    refine Only.step (State.fresh_only ..) (by decide) ?_
    exact .refl
  · split
    · refine Only.step (State.calFail_only ..) (by decide) ?_
      exact .refl
    · refine Only.step (hp ..) (by decide) ?_
      refine Only.step (State.setItem_only ..) (by decide) ?_
      exact .refl

theorem execCalTemperature_only (run1 run2 : List Int) (s : State) :
    OnlyNext [.regs, .doms, .mode, .rst, .pins, .igrel, .flash, .raster, .decomp, .slots, .health, .taper, .heads, .twin, .lantern,
      .led, .chans, .dram, .wick, .loops, .spi, .axes, .cal, .ylog, .out, .flagged, .freeCtr] s (execCalTemperature run1 run2 s) := by
  unfold execCalTemperature
  split
  · exact OnlyNext.next (Only.mono (State.twoRuns_only _ _ _ _ _ _ (fun t => Only.mono (State.setDom_only ..) (by decide))) (by decide))
  · exact OnlyNext.next .refl

theorem State.skipItems_only (s : State) : Only [.regs] s (State.skipItems s) := by
  unfold State.skipItems
  refine Only.ite (fun _ => ?_) (fun _ => ?_)
  · refine Only.step (State.setReg_only ..) (by decide) ?_
    refine Only.step (State.setItem_only ..) (by decide) ?_
    refine Only.step (State.setItem_only ..) (by decide) ?_
    exact .refl
  · exact .refl

theorem execCalFsi_only (run1 run2 : List Nat) (s : State) :
    OnlyNext [.regs, .doms, .mode, .rst, .pins, .igrel, .flash, .raster, .decomp, .slots, .health, .taper, .heads, .twin, .lantern,
      .led, .chans, .dram, .wick, .loops, .spi, .axes, .cal, .ylog, .out, .flagged, .freeCtr] s (execCalFsi run1 run2 s) := by
  unfold execCalFsi
  split
  · refine OnlyNext.next (Only.mono (State.twoRuns_only _ _ _ _ _ _ (fun t => ?_)) (by decide))
    exact Only.step (State.skipItems_only ..) (by decide) (Only.mono (State.setReg_only ..) (by decide))
  · exact OnlyNext.next .refl

theorem execCalTermination_only (codes : List (Nat × Nat × Nat)) (s : State) :
    OnlyNext [.regs, .doms, .mode, .rst, .pins, .igrel, .flash, .raster, .decomp, .slots, .health, .taper, .heads, .twin, .lantern,
      .led, .chans, .dram, .wick, .loops, .spi, .axes, .cal, .ylog, .out, .flagged, .freeCtr] s (execCalTermination codes s) := by
  unfold execCalTermination
  split
  · exact OnlyNext.next (Only.mono (State.twoRuns_only _ _ _ _ _ _ (fun t => Only.mono (State.beginLinks_only ..) (by decide))) (by decide))
  · exact OnlyNext.next .refl

theorem execCalEqualiser_only (unit : ℕ) (s1 : ℕ) (s2 : ℕ) (s : State) :
    OnlyNext [.regs, .doms, .mode, .rst, .pins, .igrel, .flash, .raster, .decomp, .slots, .health, .taper, .heads, .twin, .lantern,
      .led, .chans, .dram, .wick, .loops, .spi, .axes, .cal, .ylog, .out, .flagged, .freeCtr] s (execCalEqualiser unit s1 s2 s) := by
  unfold execCalEqualiser
  split
  · refine OnlyNext.next ?_
    exact .refl
  · refine OnlyNext.ite (fun _ => ?_) (fun _ => ?_)
    · dsimp only
      refine OnlyNext.ite (fun _ => ?_) (fun _ => ?_)
      · refine OnlyNext.next ?_
        refine Only.step (State.calFail_only ..) (by decide) ?_
        refine Only.step (State.setReg_only ..) (by decide) ?_
        exact .refl
      · refine OnlyNext.next ?_
        refine Only.with_cal (by decide) ?_
        refine Only.step (State.setReg_only ..) (by decide) ?_
        exact .refl
    · refine OnlyNext.next ?_
      exact .refl

theorem execCalChopper_only (run1 run2 : List Nat) (s : State) :
    OnlyNext [.regs, .doms, .mode, .rst, .pins, .igrel, .flash, .raster, .decomp, .slots, .health, .taper, .heads, .twin, .lantern,
      .led, .chans, .dram, .wick, .loops, .spi, .axes, .cal, .ylog, .out, .flagged, .freeCtr] s (execCalChopper run1 run2 s) := by
  unfold execCalChopper
  split
  · exact OnlyNext.next (Only.mono (State.twoRuns_only _ _ _ _ _ _ (fun t => Only.mono (State.setRegs_only ..) (by decide))) (by decide))
  · exact OnlyNext.next .refl

theorem State.ledFault_only (s : State) : Only [.regs, .led, .flagged] s (State.ledFault s) := by
  unfold State.ledFault
  dsimp only
  refine Only.step (State.clearBits_only ..) (by decide) ?_
  refine Only.step (State.setBits_only ..) (by decide) ?_
  refine Only.with_led (by decide) ?_
  refine Only.step (State.setReg_only ..) (by decide) ?_
  refine Only.step (State.setBits_only ..) (by decide) ?_
  exact .refl

theorem execLedShortTest_only (run1 : LedReads) (run2 : LedReads) (s : State) :
    OnlyNext [.regs, .doms, .mode, .rst, .pins, .igrel, .flash, .raster, .decomp, .slots, .health, .taper, .heads, .twin, .lantern,
      .led, .chans, .dram, .wick, .loops, .spi, .axes, .cal, .ylog, .out, .flagged, .freeCtr] s (execLedShortTest run1 run2 s) := by
  unfold execLedShortTest
  refine OnlyNext.ite (fun _ => ?_) (fun _ => ?_)
  · dsimp only
    refine OnlyNext.ite (fun _ => ?_) (fun _ => ?_)
    · refine OnlyNext.next ?_
      refine Only.step (State.calFail_only ..) (by decide) ?_
      refine Only.step (State.emitAll_only ..) (by decide) ?_
      exact .refl
    · refine OnlyNext.next ?_
      refine Only.ite (fun _ => ?_) (fun _ => ?_)
      · refine Only.step (State.setReg_only ..) (by decide) ?_
        refine Only.step (State.setReg_only ..) (by decide) ?_
        refine Only.step (State.setItem_only ..) (by decide) ?_
        refine Only.step (State.emitAll_only ..) (by decide) ?_
        exact .refl
      · refine Only.step (State.ledFault_only ..) (by decide) ?_
        refine Only.step (State.setReg_only ..) (by decide) ?_
        refine Only.step (State.setItem_only ..) (by decide) ?_
        refine Only.step (State.emitAll_only ..) (by decide) ?_
        exact .refl
  · refine OnlyNext.next ?_
    exact .refl

theorem execDramTraining_only (sweeps : List Sweep) (s : State) :
    OnlyNext [.regs, .doms, .mode, .rst, .pins, .igrel, .flash, .raster, .decomp, .slots, .health, .taper, .heads, .twin, .lantern,
      .led, .chans, .dram, .wick, .loops, .spi, .axes, .cal, .ylog, .out, .flagged, .freeCtr] s (execDramTraining sweeps s) := by
  unfold execDramTraining
  refine OnlyNext.ite (fun _ => ?_) (fun _ => ?_)
  · dsimp only
    split
    · refine OnlyNext.next ?_
      refine Only.step (State.calFail_only ..) (by decide) ?_
      refine Only.step (State.useLeave_only ..) (by decide) ?_
      exact .refl
    · refine OnlyNext.next ?_
      refine Only.step (State.calFail_only ..) (by decide) ?_
      refine Only.step (State.fresh_only ..) (by decide) ?_
      refine Only.step (State.useLeave_only ..) (by decide) ?_
      exact .refl
    · refine OnlyNext.next ?_
      refine Only.with_dram (by decide) ?_
      refine Only.step (State.setReg_only ..) (by decide) ?_
      refine Only.step (State.setDom_only ..) (by decide) ?_
      refine Only.step (State.setItem_only ..) (by decide) ?_
      refine Only.step (State.useLeave_only ..) (by decide) ?_
      exact .refl
  · refine OnlyNext.next ?_
    exact .refl

theorem execEccFill_only (s : State) : OnlyNext [.dram, .cal] s (execEccFill s) := by
  unfold execEccFill
  refine OnlyNext.ite (fun _ => ?_) (fun _ => ?_)
  · refine OnlyNext.next ?_
    refine Only.with_dram_cal (by decide) ?_
    exact .refl
  · refine OnlyNext.next ?_
    exact .refl

theorem execKindleEnd_only (s : State) :
    OnlyNext [.regs, .doms, .mode, .rst, .pins, .igrel, .flash, .raster, .decomp, .slots, .health, .taper, .heads, .twin, .lantern,
      .led, .chans, .dram, .wick, .loops, .spi, .axes, .cal, .ylog, .out, .flagged, .freeCtr] s (execKindleEnd s) := by
  unfold execKindleEnd
  refine OnlyNext.ite (fun _ => ?_) (fun _ => ?_)
  · dsimp only
    refine OnlyNext.next ?_
    refine Only.ite (fun _ => ?_) (fun _ => ?_)
    · refine Only.step (State.enterSnuff_only ..) (by decide) ?_
      refine Only.step (State.countKindleFail_only ..) (by decide) ?_
      refine Only.step (State.countKindle_only ..) (by decide) ?_
      refine Only.step (State.setItem_only ..) (by decide) ?_
      exact .refl
    · refine Only.step (State.enterPilot_only ..) (by decide) ?_
      refine Only.step (State.countKindle_only ..) (by decide) ?_
      refine Only.step (State.setItem_only ..) (by decide) ?_
      exact .refl
  · refine OnlyNext.next ?_
    exact .refl

end Sys2Proof.Machine
end

