-- ==== Sys2Proof/Laws/FramesEncoderToTwin.lean ====
section
/-! SUPPORT. The frame of every operation and meaning of Machine/Encoder.lean, Raster.lean, Twin.lean: the only fields of the state that
it can change. -/

namespace Sys2Proof.Machine

/-! ### Encoder -/

theorem State.monRestart_only (s : State) : Only [.enc] s (State.monRestart s) := by
  unfold State.monRestart
  refine Only.with_enc (by decide) ?_
  exact .refl

theorem State.restartSpeed_only (s : State) (ch : ℕ) (state : ℕ) : Only [.regs, .enc] s (State.restartSpeed s ch state) := by
  unfold State.restartSpeed
  dsimp only
  refine Only.step (State.monRestart_only ..) (by decide) ?_
  refine Only.step (State.setReg_only ..) (by decide) ?_
  refine Only.step (State.setEncCh_only ..) (by decide) ?_
  exact .refl

theorem State.startChannel_only (s : State) (ch : ℕ) : Only [.regs, .enc] s (State.startChannel s ch) := by
  unfold State.startChannel
  dsimp only
  refine Only.step (State.restartSpeed_only ..) (by decide) ?_
  refine Only.step (State.setEncCh_only ..) (by decide) ?_
  refine Only.step (State.setReg_only ..) (by decide) ?_
  refine Only.step (State.setReg_only ..) (by decide) ?_
  refine Only.step (State.setReg_only ..) (by decide) ?_
  exact .refl

theorem State.estimate_only (s : State) (ch : ℕ) (fwd : Bool) (stamp : ℕ) : Only [.regs, .enc] s (State.estimate s ch fwd stamp) := by
  unfold State.estimate
  dsimp only
  refine Only.ite (fun _ => ?_) (fun _ => ?_)
  · refine Only.step (State.monRestart_only ..) (by decide) ?_
    refine Only.step (State.setReg_only ..) (by decide) ?_
    refine Only.step (State.setEncCh_only ..) (by decide) ?_
    exact .refl
  · refine Only.ite (fun _ => ?_) (fun _ => ?_)
    · refine Only.step (State.setReg_only ..) (by decide) ?_
      refine Only.step (State.setReg_only ..) (by decide) ?_
      refine Only.step (State.setEncCh_only ..) (by decide) ?_
      exact .refl
    · refine Only.step (State.setReg_only ..) (by decide) ?_
      refine Only.step (State.setEncCh_only ..) (by decide) ?_
      exact .refl

theorem State.rateCheck_only (s : State) (ch : ℕ) : Only [.regs, .igrel, .enc, .ylog, .out, .flagged] s (State.rateCheck s ch) := by
  unfold State.rateCheck
  dsimp only
  refine Only.ite (fun _ => ?_) (fun _ => ?_)
  · refine Only.ite (fun _ => ?_) (fun _ => ?_)
    · refine Only.step (State.logEvent_only ..) (by decide) ?_
      refine Only.step (State.setEncCh_only ..) (by decide) ?_
      refine Only.step (State.setBits_only ..) (by decide) ?_
      refine Only.step (State.bump_only ..) (by decide) ?_
      refine Only.step (State.setEncCh_only ..) (by decide) ?_
      exact .refl
    · refine Only.step (State.setEncCh_only ..) (by decide) ?_
      refine Only.step (State.setBits_only ..) (by decide) ?_
      refine Only.step (State.bump_only ..) (by decide) ?_
      refine Only.step (State.setEncCh_only ..) (by decide) ?_
      exact .refl
  · refine Only.step (State.setEncCh_only ..) (by decide) ?_
    exact .refl

theorem State.missingIndex_only (s : State) (ch : ℕ) :
    Only [.regs, .igrel, .decomp, .slots, .enc, .taper, .twin, .wick, .ylog, .out, .flagged] s (State.missingIndex s ch) := by
  unfold State.missingIndex
  dsimp only
  split
  · exact .refl
  · refine Only.ite (fun _ => ?_) (fun _ => ?_)
    · refine Only.step (State.indexError_only ..) (by decide) ?_
      refine Only.step (State.setEncCh_only ..) (by decide) ?_
      exact .refl
    · exact .refl

theorem State.monitor_only (s : State) (ch : ℕ) : Only [.regs, .igrel, .enc, .ylog, .out, .flagged] s (State.monitor s ch) := by
  unfold State.monitor
  refine Only.ite (fun _ => ?_) (fun _ => ?_)
  · exact .refl
  · refine Only.ite (fun _ => ?_) (fun _ => ?_)
    · refine Only.with_enc (by decide) ?_
      exact .refl
    · dsimp only
      refine Only.ite (fun _ => ?_) (fun _ => ?_)
      · refine Only.step (State.logEvent_only ..) (by decide) ?_
        refine Only.step (State.bump_only ..) (by decide) ?_
        refine Only.step (State.monRestart_only ..) (by decide) ?_
        exact .refl
      · refine Only.step (State.monRestart_only ..) (by decide) ?_
        exact .refl

theorem State.testIndex_only (s : State) (ch : ℕ) :
    Only [.regs, .igrel, .decomp, .slots, .enc, .taper, .twin, .wick, .ylog, .out, .flagged] s (State.testIndex s ch) := by
  unfold State.testIndex
  dsimp only
  refine Only.ite (fun _ => ?_) (fun _ => ?_)
  · exact .refl
  · split
    · refine Only.step (State.setEncCh_only ..) (by decide) ?_
      refine Only.step (State.setReg_only ..) (by decide) ?_
      refine Only.step (State.setReg_only ..) (by decide) ?_
      exact .refl
    · refine Only.ite (fun _ => ?_) (fun _ => ?_)
      · refine Only.step (State.indexError_only ..) (by decide) ?_
        refine Only.step (State.setEncCh_only ..) (by decide) ?_
        refine Only.step (State.setReg_only ..) (by decide) ?_
        refine Only.step (State.setReg_only ..) (by decide) ?_
        exact .refl
      · refine Only.step (State.setEncCh_only ..) (by decide) ?_
        refine Only.step (State.setReg_only ..) (by decide) ?_
        refine Only.step (State.setReg_only ..) (by decide) ?_
        exact .refl

theorem State.retestIndex_only (s : State) (ch : ℕ) :
    Only [.regs, .igrel, .decomp, .slots, .enc, .taper, .twin, .wick, .ylog, .out, .flagged] s (State.retestIndex s ch) := by
  unfold State.retestIndex
  refine Only.ite (fun _ => ?_) (fun _ => ?_)
  · refine Only.step (State.testIndex_only ..) (by decide) ?_
    exact .refl
  · exact .refl

theorem State.moveMark_only (s : State) (ch : ℕ) (stamp : ℕ) :
    Only [.regs, .igrel, .raster, .decomp, .slots, .health, .enc, .taper, .twin, .lantern, .chans, .wick, .ylog, .out, .flagged] s
      (State.moveMark s ch stamp) := by
  unfold State.moveMark
  dsimp only
  refine Only.ite (fun _ => ?_) (fun _ => ?_)
  · refine Only.ite (fun _ => ?_) (fun _ => ?_)
    · refine Only.step (State.markMoved_only ..) (by decide) ?_
      refine Only.step (State.missingIndex_only ..) (by decide) ?_
      refine Only.step (State.monitor_only ..) (by decide) ?_
      refine Only.step (State.setReg_only ..) (by decide) ?_
      exact .refl
    · refine Only.step (State.missingIndex_only ..) (by decide) ?_
      refine Only.step (State.monitor_only ..) (by decide) ?_
      refine Only.step (State.setReg_only ..) (by decide) ?_
      exact .refl
  · refine Only.ite (fun _ => ?_) (fun _ => ?_)
    · refine Only.ite (fun _ => ?_) (fun _ => ?_)
      · refine Only.step (State.markMoved_only ..) (by decide) ?_
        refine Only.step (State.retestIndex_only ..) (by decide) ?_
        refine Only.step (State.logEvent_only ..) (by decide) ?_
        refine Only.ite (fun _ => ?_) (fun _ => ?_)
        · refine Only.step (State.reverse_only ..) (by decide) ?_
          refine Only.step (State.monRestart_only ..) (by decide) ?_
          refine Only.step (State.setBits_only ..) (by decide) ?_
          refine Only.step (State.bump_only ..) (by decide) ?_
          refine Only.step (State.setEncCh_only ..) (by decide) ?_
          refine Only.step (State.setReg_only ..) (by decide) ?_
          refine Only.step (State.setReg_only ..) (by decide) ?_
          exact .refl
        · refine Only.step (State.setBits_only ..) (by decide) ?_
          refine Only.step (State.bump_only ..) (by decide) ?_
          refine Only.step (State.setEncCh_only ..) (by decide) ?_
          refine Only.step (State.setReg_only ..) (by decide) ?_
          refine Only.step (State.setReg_only ..) (by decide) ?_
          exact .refl
      · refine Only.step (State.retestIndex_only ..) (by decide) ?_
        refine Only.step (State.logEvent_only ..) (by decide) ?_
        refine Only.ite (fun _ => ?_) (fun _ => ?_)
        · refine Only.step (State.reverse_only ..) (by decide) ?_
          refine Only.step (State.monRestart_only ..) (by decide) ?_
          refine Only.step (State.setBits_only ..) (by decide) ?_
          refine Only.step (State.bump_only ..) (by decide) ?_
          refine Only.step (State.setEncCh_only ..) (by decide) ?_
          refine Only.step (State.setReg_only ..) (by decide) ?_
          refine Only.step (State.setReg_only ..) (by decide) ?_
          exact .refl
        · refine Only.step (State.setBits_only ..) (by decide) ?_
          refine Only.step (State.bump_only ..) (by decide) ?_
          refine Only.step (State.setEncCh_only ..) (by decide) ?_
          refine Only.step (State.setReg_only ..) (by decide) ?_
          refine Only.step (State.setReg_only ..) (by decide) ?_
          exact .refl
    · exact .refl

theorem State.illegal_only (s : State) (ch : ℕ) :
    Only [.regs, .igrel, .raster, .slots, .enc, .taper, .twin, .chans, .wick, .ylog, .out, .flagged] s (State.illegal s ch) := by
  unfold State.illegal
  dsimp only
  refine Only.ite (fun _ => ?_) (fun _ => ?_)
  · refine Only.step (State.rePredictAll_only ..) (by decide) ?_
    refine Only.step (State.logEvent_only ..) (by decide) ?_
    refine Only.step (State.restartSpeed_only ..) (by decide) ?_
    refine Only.step (State.setEncCh_only ..) (by decide) ?_
    refine Only.step (State.rateCheck_only ..) (by decide) ?_
    refine Only.step (State.setBits_only ..) (by decide) ?_
    refine Only.step (State.bump_only ..) (by decide) ?_
    exact .refl
  · refine Only.step (State.logEvent_only ..) (by decide) ?_
    refine Only.step (State.restartSpeed_only ..) (by decide) ?_
    refine Only.step (State.setEncCh_only ..) (by decide) ?_
    refine Only.step (State.rateCheck_only ..) (by decide) ?_
    refine Only.step (State.setBits_only ..) (by decide) ?_
    refine Only.step (State.bump_only ..) (by decide) ?_
    exact .refl

theorem State.unstillGroup_only (s : State) (x : ℕ × Conf) : Only [.taper] s (State.unstillGroup s x) := by
  unfold State.unstillGroup
  split
  · refine Only.ite (fun _ => ?_) (fun _ => ?_)
    · refine Only.step (State.setGroup_only ..) (by decide) ?_
      exact .refl
    · exact .refl
  · exact .refl

theorem State.unstill_only (s : State) (ch : ℕ) : Only [.regs, .enc, .taper] s (State.unstill s ch) := by
  unfold State.unstill
  split
  · exact .refl
  · dsimp only
    refine Only.ite (fun _ => ?_) (fun _ => ?_)
    · refine Only.step (State.setEncCh_only ..) (by decide) ?_
      exact .refl
    · refine Only.foldl (fun t x => ?_) ?_
      · refine Only.step (State.unstillGroup_only ..) (by decide) ?_
        exact .refl
      · refine Only.step (State.setReg_only ..) (by decide) ?_
        refine Only.with_enc (by decide) ?_
        refine Only.step (State.setEncCh_only ..) (by decide) ?_
        refine Only.step (State.setEncCh_only ..) (by decide) ?_
        exact .refl

theorem State.countEdge_only (s : State) (ch : ℕ) (fwd : Bool) :
    Only [.regs, .igrel, .raster, .decomp, .slots, .health, .enc, .taper, .twin, .lantern, .chans, .wick, .ylog, .out, .flagged] s
      (State.countEdge s ch fwd) := by
  unfold State.countEdge
  dsimp only
  refine Only.ite (fun _ => ?_) (fun _ => ?_)
  · refine Only.step (State.rePredictAll_only ..) (by decide) ?_
    refine Only.step (State.moveMark_only ..) (by decide) ?_
    refine Only.step (State.estimate_only ..) (by decide) ?_
    refine Only.step (State.rateCheck_only ..) (by decide) ?_
    refine Only.step (State.setEncCh_only ..) (by decide) ?_
    refine Only.step (State.setReg_only ..) (by decide) ?_
    refine Only.step (State.setReg_only ..) (by decide) ?_
    refine Only.step (State.setReg_only ..) (by decide) ?_
    refine Only.step (State.unstill_only ..) (by decide) ?_
    exact .refl
  · refine Only.step (State.moveMark_only ..) (by decide) ?_
    refine Only.step (State.estimate_only ..) (by decide) ?_
    refine Only.step (State.rateCheck_only ..) (by decide) ?_
    refine Only.step (State.setEncCh_only ..) (by decide) ?_
    refine Only.step (State.setReg_only ..) (by decide) ?_
    refine Only.step (State.setReg_only ..) (by decide) ?_
    refine Only.step (State.setReg_only ..) (by decide) ?_
    refine Only.step (State.unstill_only ..) (by decide) ?_
    exact .refl

theorem execEncoderEdge_only (ch : Fin 2) (pins : List (Bool × Bool)) (s : State) :
    OnlyNext [.regs, .igrel, .raster, .decomp, .slots, .health, .enc, .taper, .twin, .lantern, .chans, .wick, .ylog, .out, .flagged] s
      (execEncoderEdge ch pins s) := by
  unfold execEncoderEdge
  dsimp only
  refine OnlyNext.ite (fun _ => ?_) (fun _ => ?_)
  · refine OnlyNext.next ?_
    refine Only.step (State.setEncCh_only ..) (by decide) ?_
    exact .refl
  · refine OnlyNext.ite (fun _ => ?_) (fun _ => ?_)
    · refine OnlyNext.next ?_
      refine Only.step (State.illegal_only ..) (by decide) ?_
      refine Only.step (State.setEncCh_only ..) (by decide) ?_
      exact .refl
    · refine OnlyNext.next ?_
      refine Only.step (State.countEdge_only ..) (by decide) ?_
      refine Only.step (State.setEncCh_only ..) (by decide) ?_
      exact .refl

theorem execIndexEdge_only (ch : Fin 2) (pins : List Bool) (s : State) :
    OnlyNext [.regs, .igrel, .decomp, .slots, .enc, .taper, .twin, .wick, .ylog, .out, .flagged] s (execIndexEdge ch pins s) := by
  unfold execIndexEdge
  dsimp only
  refine OnlyNext.next ?_
  refine Only.ite (fun _ => ?_) (fun _ => ?_)
  · refine Only.step (State.testIndex_only ..) (by decide) ?_
    refine Only.step (State.setEncCh_only ..) (by decide) ?_
    exact .refl
  · refine Only.step (State.setEncCh_only ..) (by decide) ?_
    exact .refl

theorem State.enterStill_only (s : State) (ch : ℕ) : Only [.regs, .enc] s (State.enterStill s ch) := by
  unfold State.enterStill
  dsimp only
  refine Only.step (State.restartSpeed_only ..) (by decide) ?_
  refine Only.step (State.setEncCh_only ..) (by decide) ?_
  exact .refl

theorem execStandstillTimeout_only (ch : Fin 2) (s : State) :
    OnlyNext [.regs, .igrel, .raster, .slots, .enc, .taper, .twin, .chans, .wick, .ylog, .out, .flagged] s (execStandstillTimeout ch s)
      := by
  unfold execStandstillTimeout
  refine OnlyNext.ite (fun _ => ?_) (fun _ => ?_)
  · refine OnlyNext.next ?_
    exact .refl
  · dsimp only
    refine OnlyNext.next ?_
    refine Only.ite (fun _ => ?_) (fun _ => ?_)
    · refine Only.step (State.rePredictAll_only ..) (by decide) ?_
      refine Only.step (State.enterStill_only ..) (by decide) ?_
      exact .refl
    · refine Only.step (State.enterStill_only ..) (by decide) ?_
      exact .refl

theorem execEncoderBlockExpiry_only (s : State) : OnlyNext [.enc] s (execEncoderBlockExpiry s) := by
  unfold execEncoderBlockExpiry
  dsimp only
  refine OnlyNext.next ?_
  refine Only.step (State.setEncCh_only ..) (by decide) ?_
  exact .refl

/-! ### Raster -/

theorem State.lockAt_only (s : State) (inv : ℕ) (ctle : ℕ) (dfe : ℕ) : Only [.regs, .freeCtr] s (State.lockAt s inv ctle dfe) := by
  unfold State.lockAt
  split
  split
  split
  refine Only.step (State.setReg_only ..) (by decide) ?_
  refine Only.step (State.setReg_only ..) (by decide) ?_
  refine Only.step (State.setReg_only ..) (by decide) ?_
  refine Only.of_snd (by assumption) ?_
  refine Only.step (State.fresh_only ..) (by decide) ?_
  refine Only.of_snd (by assumption) ?_
  refine Only.step (State.fresh_only ..) (by decide) ?_
  refine Only.of_snd (by assumption) ?_
  refine Only.step (State.fresh_only ..) (by decide) ?_
  exact .refl

theorem State.lockRaster_only (s : State) (x1 : List ℕ) : Only [.regs, .freeCtr] s (State.lockRaster s x1) := by
  induction x1 generalizing s with | nil => ?_ | cons y l ih => ?_
  · simp only [State.lockRaster]
    exact .refl
  · simp only [State.lockRaster]
    refine Only.trans (ih ..) ?_
    refine Only.step (State.lockAt_only ..) (by decide) ?_
    refine Only.step (State.setReg_only ..) (by decide) ?_
    exact .refl

theorem execRasterLinkUp_only (trained : List Bool) (reversed : Bool) (s : State) :
    OnlyNext [.regs, .raster, .out, .freeCtr] s (execRasterLinkUp trained reversed s) := by
  unfold execRasterLinkUp
  refine OnlyNext.ite (fun _ => ?_) (fun _ => ?_)
  · refine OnlyNext.next ?_
    exact .refl
  · dsimp only
    refine OnlyNext.ite (fun _ => ?_) (fun _ => ?_)
    · refine OnlyNext.next ?_
      refine Only.step (State.setReg_only ..) (by decide) ?_
      refine Only.with_raster (by decide) ?_
      refine Only.step (State.lockRaster_only ..) (by decide) ?_
      refine Only.step (State.rasterLanes_only ..) (by decide) ?_
      exact .refl
    · refine OnlyNext.next ?_
      refine Only.step (State.grantAll_only ..) (by decide) ?_
      refine Only.step (State.setReg_only ..) (by decide) ?_
      refine Only.step (State.rasterLanes_only ..) (by decide) ?_
      refine Only.with_raster (by decide) ?_
      refine Only.step (State.lockRaster_only ..) (by decide) ?_
      refine Only.step (State.rasterLanes_only ..) (by decide) ?_
      exact .refl

theorem State.dropRaster_only (s : State) (x1 : List ℕ) : Only [.regs] s (State.dropRaster s x1) := by
  induction x1 generalizing s with | nil => ?_ | cons y l ih => ?_
  · simp only [State.dropRaster]
    exact .refl
  · simp only [State.dropRaster]
    refine Only.trans (ih ..) ?_
    refine Only.ite (fun _ => ?_) (fun _ => ?_)
    · refine Only.step (State.bump_only ..) (by decide) ?_
      exact .refl
    · exact .refl

theorem execRasterLaneLoss_only (lane : Fin 8) (lol : Bool) (errors : ℕ) (s : State) :
    OnlyNext [.regs, .out, .flagged] s (execRasterLaneLoss lane lol errors s) := by
  unfold execRasterLaneLoss
  refine OnlyNext.ite (fun _ => ?_) (fun _ => ?_)
  · refine OnlyNext.next ?_
    exact .refl
  · dsimp only
    refine OnlyNext.ite (fun _ => ?_) (fun _ => ?_)
    · refine OnlyNext.next ?_
      refine Only.step (State.trainRaster_only ..) (by decide) ?_
      refine Only.step (State.dropRaster_only ..) (by decide) ?_
      refine Only.step (State.setBits_only ..) (by decide) ?_
      refine Only.step (State.count_only ..) (by decide) ?_
      refine Only.step (State.bump_only ..) (by decide) ?_
      exact .refl
    · refine OnlyNext.next ?_
      refine Only.step (State.setBits_only ..) (by decide) ?_
      refine Only.step (State.count_only ..) (by decide) ?_
      refine Only.step (State.bump_only ..) (by decide) ?_
      exact .refl

theorem State.rasterErrors_only (s : State) (x1 : List (ℕ × ℕ)) : Only [.regs] s (State.rasterErrors s x1) := by
  induction x1 generalizing s with | nil => ?_ | cons y l ih => ?_
  · simp only [State.rasterErrors]
    exact .refl
  · simp only [State.rasterErrors]
    refine Only.trans (ih ..) ?_
    refine Only.step (State.count_only ..) (by decide) ?_
    exact .refl

theorem execRasterPacketDrop_only (errors : List ℕ) (lanes : List (List Sym)) (s : State) :
    OnlyNext [.regs, .raster, .out] s (execRasterPacketDrop errors lanes s) := by
  unfold execRasterPacketDrop
  refine OnlyNext.ite (fun _ => ?_) (fun _ => ?_)
  · dsimp only
    split
    · refine OnlyNext.next ?_
      refine Only.step (State.rasterErrors_only ..) (by decide) ?_
      exact .refl
    · refine OnlyNext.next ?_
      refine Only.ite (fun _ => ?_) (fun _ => ?_)
      · refine Only.step (State.resend_only ..) (by decide) ?_
        refine Only.step (State.bump_only ..) (by decide) ?_
        refine Only.step (State.rasterErrors_only ..) (by decide) ?_
        exact .refl
      · refine Only.step (State.bump_only ..) (by decide) ?_
        refine Only.step (State.rasterErrors_only ..) (by decide) ?_
        exact .refl
  · refine OnlyNext.next ?_
    exact .refl

theorem State.takeJoinImage_only (s : State) (k : ℕ) : Only [.regs, .decomp, .twin] s (State.takeJoinImage s k) := by
  unfold State.takeJoinImage
  split
  · exact .refl
  · split
    · exact .refl
    · refine Only.ite (fun _ => ?_) (fun _ => ?_)
      · refine Only.step (State.takeImage_only ..) (by decide) ?_
        refine Only.with_twin (by decide) ?_
        exact .refl
      · exact .refl

theorem execBlock_only (stream : ℕ) (wax : List Byte) (s : State) :
    OnlyNext [.regs, .raster, .decomp, .twin, .dram, .out] s (execBlock stream wax s) := by
  unfold execBlock
  refine OnlyNext.ite (fun _ => ?_) (fun _ => ?_)
  · refine OnlyNext.next ?_
    exact .refl
  · refine OnlyNext.ite (fun _ => ?_) (fun _ => ?_)
    · refine OnlyNext.next ?_
      refine Only.step (State.bump_only ..) (by decide) ?_
      exact .refl
    · refine OnlyNext.ite (fun _ => ?_) (fun _ => ?_)
      · refine OnlyNext.next ?_
        refine Only.step (State.resend_only ..) (by decide) ?_
        refine Only.step (State.bump_only ..) (by decide) ?_
        exact .refl
      · refine OnlyNext.next ?_
        refine Only.step (State.takeJoinImage_only ..) (by decide) ?_
        refine Only.step (State.intake_only ..) (by decide) ?_
        exact .refl

theorem State.tellReady_only (s : State) : Only [.twin, .out] s (State.tellReady s) := by
  unfold State.tellReady
  split
  · exact .refl
  · dsimp only
    refine Only.ite (fun _ => ?_) (fun _ => ?_)
    · refine Only.step (State.twinSend_only ..) (by decide) ?_
      refine Only.with_twin (by decide) ?_
      exact .refl
    · exact .refl

theorem execDecodeLine_only (e : Fin 8) (s : State) :
    OnlyNext [.regs, .igrel, .raster, .decomp, .slots, .twin, .dram, .ylog, .out, .flagged] s (execDecodeLine e s) := by
  unfold execDecodeLine
  split
  · refine OnlyNext.next ?_
    exact .refl
  · refine OnlyNext.ite (fun _ => ?_) (fun _ => ?_)
    · refine OnlyNext.next ?_
      exact .refl
    · dsimp only
      refine OnlyNext.next ?_
      refine Only.step (State.tellReady_only ..) (by decide) ?_
      refine Only.step (State.takeJobs_only ..) (by decide) ?_
      refine Only.with_decomp (by decide) ?_
      refine Only.step (State.completeJob_only ..) (by decide) ?_
      exact .refl

theorem execCommit_only (payload : List Byte) (s : State) :
    OnlyNext [.regs, .igrel, .raster, .decomp, .taper, .twin, .chans, .dram, .ylog, .out, .flagged] s (execCommit payload s) := by
  unfold execCommit
  refine OnlyNext.ite (fun _ => ?_) (fun _ => ?_)
  · refine OnlyNext.next ?_
    exact .refl
  · split
    · refine OnlyNext.next ?_
      refine Only.step (State.emit_only ..) (by decide) ?_
      exact .refl
    · split
      dsimp only
      refine OnlyNext.ite (fun _ => ?_) (fun _ => ?_)
      · refine OnlyNext.next ?_
        refine Only.step (State.tellReady_only ..) (by decide) ?_
        refine Only.step (State.closePages_only ..) (by decide) ?_
        refine Only.step (State.freeAll_only ..) (by decide) ?_
        refine Only.step (State.takeJobs_only ..) (by decide) ?_
        refine Only.step (State.catchUp_only ..) (by decide) ?_
        refine Only.step (State.acceptCommit_only ..) (by decide) ?_
        refine Only.step (State.emit_only ..) (by decide) ?_
        exact .refl
      · refine OnlyNext.next ?_
        refine Only.step (State.emit_only ..) (by decide) ?_
        exact .refl

theorem State.grantFreed_only (s : State) (x1 : List (ℕ × ℕ)) : Only [.regs] s (State.grantFreed s x1) := by
  induction x1 generalizing s with | nil => ?_ | cons y l ih => ?_
  · simp only [State.grantFreed]
    exact .refl
  · simp only [State.grantFreed]
    refine Only.trans (ih ..) ?_
    refine Only.step (State.setReg_only ..) (by decide) ?_
    exact .refl

theorem State.resendEach_only (s : State) (x1 : List ℕ) : Only [.regs] s (State.resendEach s x1) := by
  induction x1 generalizing s with | nil => ?_ | cons y l ih => ?_
  · simp only [State.resendEach]
    exact .refl
  · simp only [State.resendEach]
    refine Only.trans (ih ..) ?_
    refine Only.step (State.bump_only ..) (by decide) ?_
    exact .refl

theorem execCreditPeriodExpiry_only (s : State) : OnlyNext [.regs, .raster, .out] s (execCreditPeriodExpiry s) := by
  unfold execCreditPeriodExpiry
  refine OnlyNext.ite (fun _ => ?_) (fun _ => ?_)
  · dsimp only
    refine OnlyNext.next ?_
    refine Only.step (State.resendEach_only ..) (by decide) ?_
    refine Only.with_raster (by decide) ?_
    refine Only.step (State.grantFreed_only ..) (by decide) ?_
    refine Only.step (State.sendCredits_only ..) (by decide) ?_
    exact .refl
  · refine OnlyNext.next ?_
    exact .refl

theorem State.flushStreams_only (s : State) (x1 : List ℕ) : Only [.regs] s (State.flushStreams s x1) := by
  induction x1 generalizing s with | nil => ?_ | cons y l ih => ?_
  · simp only [State.flushStreams]
    exact .refl
  · simp only [State.flushStreams]
    refine Only.trans (ih ..) ?_
    refine Only.step (State.setReg_only ..) (by decide) ?_
    refine Only.step (State.setReg_only ..) (by decide) ?_
    refine Only.step (State.setReg_only ..) (by decide) ?_
    refine Only.step (State.setReg_only ..) (by decide) ?_
    exact .refl

theorem State.dropStore_only (s : State) : Only [.raster, .decomp, .slots, .health] s (State.dropStore s) := by
  unfold State.dropStore
  dsimp only
  refine Only.with_raster_decomp_slots_health (by decide) ?_
  exact .refl

theorem State.flushStore_only (s : State) :
    Only [.regs, .igrel, .raster, .decomp, .slots, .health, .ylog, .out, .flagged] s (State.flushStore s) := by
  unfold State.flushStore
  dsimp only
  refine Only.step (State.flushStreams_only ..) (by decide) ?_
  refine Only.step (State.dropStore_only ..) (by decide) ?_
  refine Only.ite (fun _ => ?_) (fun _ => ?_)
  · refine Only.step (State.swapNow_only ..) (by decide) ?_
    exact .refl
  · exact .refl

theorem State.regrant_only (s : State) : Only [.regs, .raster, .out] s (State.regrant s) := by
  unfold State.regrant
  refine Only.ite (fun _ => ?_) (fun _ => ?_)
  · refine Only.step (State.grantAll_only ..) (by decide) ?_
    exact .refl
  · exact .refl

/-! ### Twin -/

theorem State.mateLost_only (s : State) : Only [.regs, .igrel, .ylog, .out, .flagged] s (State.mateLost s) := by
  unfold State.mateLost
  refine Only.step (State.twinEvent_only ..) (by decide) ?_
  exact .refl

theorem State.afterLink_only (was : Bool) (s : State) : Only [.regs, .igrel, .ylog, .out, .flagged] s (State.afterLink was s) := by
  unfold State.afterLink
  refine Only.ite (fun _ => ?_) (fun _ => ?_)
  · exact .refl
  · refine Only.ite (fun _ => ?_) (fun _ => ?_)
    · refine Only.step (State.setCause_only ..) (by decide) ?_
      exact .refl
    · refine Only.ite (fun _ => ?_) (fun _ => ?_)
      · refine Only.step (State.mateLost_only ..) (by decide) ?_
        exact .refl
      · exact .refl

theorem State.twinLane_only (s : State) (l : ℕ) (up : Bool) : Only [.regs, .freeCtr] s (State.twinLane s l up) := by
  unfold State.twinLane
  refine Only.ite (fun _ => ?_) (fun _ => ?_)
  · refine Only.step (State.lockAt_only ..) (by decide) ?_
    refine Only.step (State.setReg_only ..) (by decide) ?_
    exact .refl
  · refine Only.step (State.setReg_only ..) (by decide) ?_
    exact .refl

theorem execTwinLinkUp_only (lane0 : Bool) (lane1 : Bool) (reversed : Bool) (s : State) :
    OnlyNext [.regs, .igrel, .twin, .ylog, .out, .flagged, .freeCtr] s (execTwinLinkUp lane0 lane1 reversed s) := by
  unfold execTwinLinkUp
  refine OnlyNext.ite (fun _ => ?_) (fun _ => ?_)
  · dsimp only
    refine OnlyNext.next ?_
    refine Only.step (State.afterLink_only ..) (by decide) ?_
    refine Only.ite (fun _ => ?_) (fun _ => ?_)
    · refine Only.step (State.twinEvent_only ..) (by decide) ?_
      refine Only.with_twin (by decide) ?_
      refine Only.step (State.twinLane_only ..) (by decide) ?_
      refine Only.step (State.twinLane_only ..) (by decide) ?_
      exact .refl
    · refine Only.with_twin (by decide) ?_
      refine Only.step (State.twinLane_only ..) (by decide) ?_
      refine Only.step (State.twinLane_only ..) (by decide) ?_
      exact .refl
  · refine OnlyNext.next ?_
    exact .refl

theorem execTwinLaneLoss_only (l : Fin 2) (errors : ℕ) (s : State) :
    OnlyNext [.regs, .igrel, .twin, .ylog, .out, .flagged] s (execTwinLaneLoss l errors s) := by
  unfold execTwinLaneLoss
  dsimp only
  refine OnlyNext.ite (fun _ => ?_) (fun _ => ?_)
  · refine OnlyNext.next ?_
    refine Only.step (State.afterLink_only ..) (by decide) ?_
    refine Only.ite (fun _ => ?_) (fun _ => ?_)
    · refine Only.step (State.twinEvent_only ..) (by decide) ?_
      refine Only.step (State.emit_only ..) (by decide) ?_
      refine Only.step (State.count_only ..) (by decide) ?_
      refine Only.step (State.setBits_only ..) (by decide) ?_
      refine Only.step (State.bump_only ..) (by decide) ?_
      refine Only.step (State.bump_only ..) (by decide) ?_
      refine Only.step (State.setReg_only ..) (by decide) ?_
      refine Only.with_twin (by decide) ?_
      exact .refl
    · refine Only.step (State.emit_only ..) (by decide) ?_
      refine Only.step (State.count_only ..) (by decide) ?_
      refine Only.step (State.setBits_only ..) (by decide) ?_
      refine Only.step (State.bump_only ..) (by decide) ?_
      refine Only.step (State.bump_only ..) (by decide) ?_
      refine Only.step (State.setReg_only ..) (by decide) ?_
      refine Only.with_twin (by decide) ?_
      exact .refl
  · refine OnlyNext.next ?_
    exact .refl

theorem State.dropTwinFrame_only (s : State) : Only [.regs, .igrel, .twin, .ylog, .out, .flagged] s (State.dropTwinFrame s) := by
  unfold State.dropTwinFrame
  refine Only.ite (fun _ => ?_) (fun _ => ?_)
  · dsimp only
    refine Only.step (State.afterLink_only ..) (by decide) ?_
    refine Only.step (State.bump_only ..) (by decide) ?_
    refine Only.with_twin (by decide) ?_
    exact .refl
  · exact .refl

theorem execTwinFrameDrop_only (errors : List ℕ) (s : State) :
    OnlyNext [.regs, .igrel, .twin, .ylog, .out, .flagged] s (execTwinFrameDrop errors s) := by
  unfold execTwinFrameDrop
  refine OnlyNext.ite (fun _ => ?_) (fun _ => ?_)
  · refine OnlyNext.next ?_
    refine Only.step (State.dropTwinFrame_only ..) (by decide) ?_
    refine Only.step (State.count_only ..) (by decide) ?_
    refine Only.step (State.count_only ..) (by decide) ?_
    exact .refl
  · refine OnlyNext.next ?_
    exact .refl

theorem execHeartbeatSend_only (s : State) : OnlyNext [.out] s (execHeartbeatSend s) := by
  unfold execHeartbeatSend
  refine OnlyNext.ite (fun _ => ?_) (fun _ => ?_)
  · refine OnlyNext.next ?_
    refine Only.step (State.twinSend_only ..) (by decide) ?_
    exact .refl
  · refine OnlyNext.next ?_
    exact .refl

theorem State.dropLag_only (s : State) (g : ℕ) : Only [.taper] s (State.dropLag s g) := by
  unfold State.dropLag
  split
  · exact .refl
  · split
    · refine Only.step (State.setGroup_only ..) (by decide) ?_
      exact .refl
    · refine Only.ite (fun _ => ?_) (fun _ => ?_)
      · refine Only.step (State.setGroup_only ..) (by decide) ?_
        exact .refl
      · exact .refl

theorem State.takeDuties_only (s : State) : Only [.regs, .taper, .twin, .wick, .loops, .flagged] s (State.takeDuties s) := by
  unfold State.takeDuties
  dsimp only
  refine Only.step (State.takeLoops_only ..) (by decide) ?_
  refine Only.step (State.setLevel_only ..) (by decide) ?_
  refine Only.with_taper_twin (by decide) ?_
  exact .refl

theorem State.reportAgain_only (s : State) (i : ℕ) (x2 : List Entry) : Only [.twin, .chans] s (State.reportAgain s i x2) := by
  induction x2 generalizing s i with | nil => ?_ | cons y l ih => ?_
  · simp only [State.reportAgain]
    exact .refl
  · simp only [State.reportAgain]
    refine Only.trans (ih ..) ?_
    refine Only.step (State.report_only ..) (by decide) ?_
    exact .refl

theorem State.reportPages_only (s : State) : Only [.twin, .chans] s (State.reportPages s) := by
  unfold State.reportPages
  dsimp only
  refine Only.foldl (fun t x => ?_) ?_
  · refine Only.step (State.report_only ..) (by decide) ?_
    exact .refl
  · refine Only.with_twin (by decide) ?_
    exact .refl

theorem State.reportPromotion_only (s : State) (time : ℕ) (lines : List ℕ) :
    Only [.twin, .chans] s (State.reportPromotion s time lines) := by
  unfold State.reportPromotion
  dsimp only
  refine Only.step (State.reportPages_only ..) (by decide) ?_
  refine Only.step (State.reportAgain_only ..) (by decide) ?_
  refine Only.step (State.report_only ..) (by decide) ?_
  refine Only.step (State.report_only ..) (by decide) ?_
  exact .refl

theorem State.alignBeacon_only (s : State) :
    Only [.regs, .clock, .igrel, .enc, .taper, .heads, .twin, .lantern, .led, .ptp, .ylog, .out, .flagged] s (State.alignBeacon s) := by
  unfold State.alignBeacon
  refine Only.ite (fun _ => ?_) (fun _ => ?_)
  · refine Only.step (State.logEvent_only ..) (by decide) ?_
    exact .refl
  · refine Only.step (State.stepBeacon_only ..) (by decide) ?_
    exact .refl

theorem State.promote_only (s : State) :
    Only [.regs, .doms, .role, .clock, .igrel, .decomp, .slots, .health, .enc, .taper, .heads, .twin, .lantern, .led, .chans, .wick,
      .loops, .ptp, .ylog, .out, .flagged] s (State.promote s) := by
  unfold State.promote
  dsimp only
  refine Only.step (State.alignBeacon_only ..) (by decide) ?_
  refine Only.step (State.makeAwaited_only ..) (by decide) ?_
  refine Only.step (State.abandonSwap_only ..) (by decide) ?_
  refine Only.step (State.reportPromotion_only ..) (by decide) ?_
  refine Only.step (State.twinEvent_only ..) (by decide) ?_
  refine Only.step (State.setDom_only ..) (by decide) ?_
  refine Only.step (State.setReg_only ..) (by decide) ?_
  refine Only.step (State.bump_only ..) (by decide) ?_
  refine Only.step (State.addDoubts_only ..) (by decide) ?_
  refine Only.step (State.takeDuties_only ..) (by decide) ?_
  refine Only.with_twin (by decide) ?_
  refine Only.foldl (fun t x => ?_) ?_
  · refine Only.step (State.dropLag_only ..) (by decide) ?_
    exact .refl
  · refine Only.step (State.twinSend_only ..) (by decide) ?_
    refine Only.with_role (by decide) ?_
    exact .refl

theorem State.primaryLost_only (s : State) :
    Only [.regs, .doms, .role, .clock, .igrel, .decomp, .slots, .health, .enc, .taper, .heads, .twin, .lantern, .led, .chans, .wick,
      .loops, .ptp, .ylog, .out, .flagged] s (State.primaryLost s) := by
  unfold State.primaryLost
  refine Only.ite (fun _ => ?_) (fun _ => ?_)
  · exact .refl
  · refine Only.ite (fun _ => ?_) (fun _ => ?_)
    · refine Only.step (State.promote_only ..) (by decide) ?_
      exact .refl
    · refine Only.ite (fun _ => ?_) (fun _ => ?_)
      · refine Only.step (State.abandonJoin_only ..) (by decide) ?_
        exact .refl
      · refine Only.step (State.setCause_only ..) (by decide) ?_
        exact .refl

theorem execTwinAliveLow_only (s : State) :
    OnlyNext [.regs, .doms, .role, .clock, .pins, .igrel, .decomp, .slots, .health, .enc, .taper, .heads, .twin, .lantern, .led,
      .chans, .wick, .loops, .ptp, .ylog, .out, .flagged] s (execTwinAliveLow s) := by
  unfold execTwinAliveLow
  refine OnlyNext.ite (fun _ => ?_) (fun _ => ?_)
  · refine OnlyNext.next ?_
    exact .refl
  · refine OnlyNext.next ?_
    refine Only.step (State.primaryLost_only ..) (by decide) ?_
    refine Only.with_pins (by decide) ?_
    exact .refl

theorem execTwinAliveHigh_only (s : State) : OnlyNext [.pins] s (execTwinAliveHigh s) := by
  unfold execTwinAliveHigh
  refine OnlyNext.ite (fun _ => ?_) (fun _ => ?_)
  · refine OnlyNext.next ?_
    exact .refl
  · refine OnlyNext.next ?_
    refine Only.with_pins (by decide) ?_
    exact .refl

theorem execLineStateTimeout_only (g : Fin 8) (s : State) :
    OnlyNext [.regs, .doms, .role, .clock, .igrel, .decomp, .slots, .health, .enc, .taper, .heads, .twin, .lantern, .led, .chans,
      .wick, .loops, .ptp, .ylog, .out, .flagged] s (execLineStateTimeout g s) := by
  unfold execLineStateTimeout
  refine OnlyNext.ite (fun _ => ?_) (fun _ => ?_)
  · refine OnlyNext.next ?_
    refine Only.step (State.primaryLost_only ..) (by decide) ?_
    exact .refl
  · refine OnlyNext.next ?_
    exact .refl

theorem execPromoted_only (lines : List ℕ) (s : State) : OnlyNext [.regs, .flagged] s (execPromoted lines s) := by
  unfold execPromoted
  refine OnlyNext.ite (fun _ => ?_) (fun _ => ?_)
  · refine OnlyNext.next ?_
    refine Only.step (State.setCause_only ..) (by decide) ?_
    exact .refl
  · refine OnlyNext.next ?_
    exact .refl

theorem execSnuffAll_only (causes : ℕ) (s : State) :
    OnlyNext [.regs, .doms, .mode, .rst, .pins, .igrel, .raster, .decomp, .slots, .health, .taper, .heads, .twin, .lantern, .led,
      .chans, .dram, .wick, .loops, .spi, .axes, .ylog, .out, .flagged, .freeCtr] s (execSnuffAll causes s) := by
  unfold execSnuffAll
  refine OnlyNext.ite (fun _ => ?_) (fun _ => ?_)
  · refine OnlyNext.next ?_
    refine Only.step (State.enterSnuff_only ..) (by decide) ?_
    refine Only.step (State.setBits_only ..) (by decide) ?_
    exact .refl
  · refine OnlyNext.next ?_
    exact .refl

theorem State.decideRole_only (s : State) : Only [.role, .twin] s (State.decideRole s) := by
  unfold State.decideRole
  refine Only.ite (fun _ => ?_) (fun _ => ?_)
  · dsimp only
    refine Only.with_role_twin (by decide) ?_
    exact .refl
  · exact .refl

theorem State.checkDigest_only (s : State) : Only [.regs, .flagged] s (State.checkDigest s) := by
  unfold State.checkDigest
  refine Only.ite (fun _ => ?_) (fun _ => ?_)
  · exact .refl
  · dsimp only
    refine Only.ite (fun _ => ?_) (fun _ => ?_)
    · refine Only.step (State.setCause_only ..) (by decide) ?_
      refine Only.step (State.setBits_only ..) (by decide) ?_
      exact .refl
    · refine Only.step (State.setBits_only ..) (by decide) ?_
      exact .refl

theorem State.askJoin_only (s : State) : Only [.twin, .out] s (State.askJoin s) := by
  unfold State.askJoin
  dsimp only
  refine Only.ite (fun _ => ?_) (fun _ => ?_)
  · refine Only.with_twin (by decide) ?_
    exact .refl
  · refine Only.ite (fun _ => ?_) (fun _ => ?_)
    · refine Only.step (State.twinSend_only ..) (by decide) ?_
      refine Only.with_twin (by decide) ?_
      exact .refl
    · exact .refl

theorem State.hearPartner_only (s : State) (payload : List Byte) :
    Only [.regs, .role, .igrel, .twin, .ylog, .out, .flagged] s (State.hearPartner s payload) := by
  unfold State.hearPartner
  dsimp only
  refine Only.ite (fun _ => ?_) (fun _ => ?_)
  · refine Only.step (State.twinEvent_only ..) (by decide) ?_
    refine Only.ite (fun _ => ?_) (fun _ => ?_)
    · refine Only.step (State.mateLost_only ..) (by decide) ?_
      refine Only.step (State.checkDigest_only ..) (by decide) ?_
      refine Only.step (State.decideRole_only ..) (by decide) ?_
      refine Only.with_twin (by decide) ?_
      exact .refl
    · refine Only.step (State.checkDigest_only ..) (by decide) ?_
      refine Only.step (State.decideRole_only ..) (by decide) ?_
      refine Only.with_twin (by decide) ?_
      exact .refl
  · refine Only.ite (fun _ => ?_) (fun _ => ?_)
    · refine Only.step (State.mateLost_only ..) (by decide) ?_
      refine Only.step (State.checkDigest_only ..) (by decide) ?_
      refine Only.step (State.decideRole_only ..) (by decide) ?_
      refine Only.with_twin (by decide) ?_
      exact .refl
    · refine Only.step (State.checkDigest_only ..) (by decide) ?_
      refine Only.step (State.decideRole_only ..) (by decide) ?_
      refine Only.with_twin (by decide) ?_
      exact .refl

theorem execHeartbeat_only (payload : List Byte) (s : State) :
    OnlyNext [.regs, .doms, .role, .clock, .igrel, .decomp, .slots, .health, .enc, .taper, .heads, .twin, .lantern, .led, .chans,
      .wick, .loops, .ptp, .ylog, .out, .flagged] s (execHeartbeat payload s) := by
  unfold execHeartbeat
  refine OnlyNext.ite (fun _ => ?_) (fun _ => ?_)
  · refine OnlyNext.next ?_
    exact .refl
  · refine OnlyNext.ite (fun _ => ?_) (fun _ => ?_)
    · refine OnlyNext.next ?_
      refine Only.step (State.dropTwinFrame_only ..) (by decide) ?_
      exact .refl
    · dsimp only
      refine OnlyNext.next ?_
      refine Only.ite (fun _ => ?_) (fun _ => ?_)
      · refine Only.step (State.primaryLost_only ..) (by decide) ?_
        refine Only.step (State.hearPartner_only ..) (by decide) ?_
        exact .refl
      · refine Only.step (State.askJoin_only ..) (by decide) ?_
        refine Only.step (State.hearPartner_only ..) (by decide) ?_
        exact .refl

theorem execHeartbeatTimeout_only (s : State) : OnlyNext [.regs, .igrel, .twin, .ylog, .out, .flagged] s (execHeartbeatTimeout s) := by
  unfold execHeartbeatTimeout
  dsimp only
  refine OnlyNext.next ?_
  refine Only.step (State.afterLink_only ..) (by decide) ?_
  refine Only.with_twin (by decide) ?_
  exact .refl

theorem execRoleDecisionTimeout_only (s : State) : OnlyNext [.role, .twin] s (execRoleDecisionTimeout s) := by
  unfold execRoleDecisionTimeout
  refine OnlyNext.ite (fun _ => ?_) (fun _ => ?_)
  · dsimp only
    refine OnlyNext.next ?_
    refine Only.with_role_twin (by decide) ?_
    exact .refl
  · refine OnlyNext.next ?_
    exact .refl

theorem execDecision_only (seq : ℕ) (g : Fin 8) (outcome : WickOut) (s : State) :
    OnlyNext [.regs, .igrel, .taper, .twin, .ylog, .out, .flagged] s (execDecision seq g outcome s) := by
  unfold execDecision
  dsimp only
  refine OnlyNext.ite (fun _ => ?_) (fun _ => ?_)
  · refine OnlyNext.next ?_
    refine Only.step (State.noteOutcome_only ..) (by decide) ?_
    refine Only.with_twin (by decide) ?_
    exact .refl
  · refine OnlyNext.next ?_
    exact .refl

theorem State.endOverwrite_only (s : State) : Only [.health] s (State.endOverwrite s) := by
  unfold State.endOverwrite
  refine Only.with_health (by decide) ?_
  exact .refl

theorem State.answerAwaited_only (s : State) : Only [.igrel, .twin, .out] s (State.answerAwaited s) := by
  unfold State.answerAwaited
  dsimp only
  refine Only.foldl (fun t x => ?_) ?_
  · refine Only.step (State.finished_only ..) (by decide) ?_
    exact .refl
  · refine Only.with_twin (by decide) ?_
    exact .refl

theorem execPublish_only (x0 : ℕ) (line : ℕ) (recs : List ℕ) (s : State) :
    OnlyNext [.regs, .igrel, .decomp, .slots, .health, .taper, .twin, .wick, .ylog, .out, .flagged] s (execPublish x0 line recs s) := by
  unfold execPublish
  refine OnlyNext.ite (fun _ => ?_) (fun _ => ?_)
  · refine OnlyNext.next ?_
    exact .refl
  · dsimp only
    refine OnlyNext.ite (fun _ => ?_) (fun _ => ?_)
    · refine OnlyNext.next ?_
      refine Only.step (State.setCause_only ..) (by decide) ?_
      exact .refl
    · refine OnlyNext.next ?_
      refine Only.step (State.answerAwaited_only ..) (by decide) ?_
      refine Only.step (State.applyPublish_only ..) (by decide) ?_
      refine Only.ite (fun _ => ?_) (fun _ => ?_)
      · refine Only.step (State.endOverwrite_only ..) (by decide) ?_
        exact .refl
      · exact .refl

theorem execFindingMessage_only (recs : List ℕ) (s : State) :
    OnlyNext [.regs, .igrel, .decomp, .slots, .health, .taper, .twin, .wick, .ylog, .out, .flagged] s (execFindingMessage recs s) := by
  unfold execFindingMessage
  refine OnlyNext.ite (fun _ => ?_) (fun _ => ?_)
  · refine OnlyNext.next ?_
    refine Only.step (State.publish_only ..) (by decide) ?_
    exact .refl
  · refine OnlyNext.next ?_
    exact .refl

theorem execModeMessage_only (mode : ℕ) (line : ℕ) (s : State) :
    OnlyNext [.regs, .mode, .pins, .igrel, .decomp, .slots, .health, .taper, .heads, .twin, .lantern, .dram, .wick, .axes, .ylog, .out,
      .flagged] s (execModeMessage mode line s) := by
  unfold execModeMessage
  refine OnlyNext.ite (fun _ => ?_) (fun _ => ?_)
  · refine OnlyNext.next ?_
    exact .refl
  · split
    · refine OnlyNext.next ?_
      refine Only.step (State.enterTrim_only ..) (by decide) ?_
      exact .refl
    · refine OnlyNext.ite (fun _ => ?_) (fun _ => ?_)
      · refine OnlyNext.next ?_
        refine Only.with_twin (by decide) ?_
        exact .refl
      · refine OnlyNext.next ?_
        refine Only.step (State.acceptLit_only ..) (by decide) ?_
        exact .refl
    · refine OnlyNext.next ?_
      refine Only.step (State.enterPilot_only ..) (by decide) ?_
      exact .refl
    · refine OnlyNext.next ?_
      refine Only.step (State.stopAtLine_only ..) (by decide) ?_
      refine Only.with_twin (by decide) ?_
      exact .refl
    · refine OnlyNext.next ?_
      exact .refl

theorem State.joinMade_only (s : State) : Only [.regs, .twin, .out] s (State.joinMade s) := by
  unfold State.joinMade
  split
  · exact .refl
  · dsimp only
    refine Only.ite (fun _ => ?_) (fun _ => ?_)
    · refine Only.step (State.setReg_only ..) (by decide) ?_
      refine Only.with_twin (by decide) ?_
      refine Only.step (State.sendMode_only ..) (by decide) ?_
      refine Only.step (State.twinSend_only ..) (by decide) ?_
      exact .refl
    · exact .refl

theorem execLineStateSend_only (s : State) : OnlyNext [.regs, .twin, .out] s (execLineStateSend s) := by
  unfold execLineStateSend
  split
  · refine OnlyNext.next ?_
    exact .refl
  · refine OnlyNext.next ?_
    refine Only.step (State.joinMade_only ..) (by decide) ?_
    refine Only.step (State.twinSend_only ..) (by decide) ?_
    refine Only.with_twin (by decide) ?_
    exact .refl

theorem State.noteOffset_only (s : State) (x : LineSt) (edge : Option ℕ) : Only [.regs, .twin] s (State.noteOffset s x edge) := by
  unfold State.noteOffset
  split
  · exact .refl
  · refine Only.ite (fun _ => ?_) (fun _ => ?_)
    · dsimp only
      refine Only.step (State.setSreg_only ..) (by decide) ?_
      refine Only.with_twin (by decide) ?_
      exact .refl
    · exact .refl

theorem State.enterCopy_only (s : State) (x : LineSt) (conf : Option Conf) :
    Only [.regs, .igrel, .raster, .slots, .taper, .twin, .chans, .wick, .ylog, .out, .flagged] s (State.enterCopy s x conf) := by
  unfold State.enterCopy
  dsimp only
  refine Only.with_twin (by decide) ?_
  refine Only.step (State.settle_only ..) (by decide) ?_
  exact .refl

theorem State.takeCopy_only (s : State) (x : LineSt) :
    Only [.regs, .igrel, .raster, .decomp, .slots, .taper, .twin, .chans, .wick, .ylog, .out, .flagged] s (State.takeCopy s x) := by
  unfold State.takeCopy
  dsimp only
  split
  · refine Only.step (State.enterCopy_only ..) (by decide) ?_
    refine Only.step (State.noteOffset_only ..) (by decide) ?_
    refine Only.with_twin (by decide) ?_
    refine Only.ite (fun _ => ?_) (fun _ => ?_)
    · refine Only.step (State.decodeAll_only ..) (by decide) ?_
      exact .refl
    · exact .refl
  · split
    · refine Only.step (State.settleAll_only ..) (by decide) ?_
      refine Only.step (State.enterCopy_only ..) (by decide) ?_
      refine Only.with_taper (by decide) ?_
      refine Only.ite (fun _ => ?_) (fun _ => ?_)
      · refine Only.step (State.decodeAll_only ..) (by decide) ?_
        exact .refl
      · exact .refl
    · refine Only.ite (fun _ => ?_) (fun _ => ?_)
      · refine Only.ite (fun _ => ?_) (fun _ => ?_)
        · refine Only.step (State.enterCopy_only ..) (by decide) ?_
          refine Only.with_twin (by decide) ?_
          refine Only.ite (fun _ => ?_) (fun _ => ?_)
          · refine Only.step (State.decodeAll_only ..) (by decide) ?_
            exact .refl
          · exact .refl
        · refine Only.with_twin (by decide) ?_
          refine Only.ite (fun _ => ?_) (fun _ => ?_)
          · refine Only.step (State.decodeAll_only ..) (by decide) ?_
            exact .refl
          · exact .refl
      · refine Only.ite (fun _ => ?_) (fun _ => ?_)
        · refine Only.step (State.decodeAll_only ..) (by decide) ?_
          exact .refl
        · exact .refl

theorem execLineState_only (payload : List Byte) (s : State) :
    OnlyNext [.regs, .igrel, .raster, .decomp, .slots, .taper, .twin, .chans, .wick, .ylog, .out, .flagged] s (execLineState payload s)
      := by
  unfold execLineState
  refine OnlyNext.ite (fun _ => ?_) (fun _ => ?_)
  · refine OnlyNext.next ?_
    exact .refl
  · split
    · refine OnlyNext.next ?_
      refine Only.step (State.dropTwinFrame_only ..) (by decide) ?_
      exact .refl
    · refine OnlyNext.ite (fun _ => ?_) (fun _ => ?_)
      · refine OnlyNext.next ?_
        refine Only.step (State.takeCopy_only ..) (by decide) ?_
        exact .refl
      · refine OnlyNext.next ?_
        exact .refl

theorem State.startSwap_only (s : State) (p : Page) : Only [.regs, .twin, .out] s (State.startSwap s p) := by
  unfold State.startSwap
  dsimp only
  refine Only.step (State.twinSend_only ..) (by decide) ?_
  refine Only.step (State.setReg_only ..) (by decide) ?_
  refine Only.with_twin (by decide) ?_
  exact .refl

theorem execSwapMessage_only (line : ℕ) (page : ℕ) (s : State) : OnlyNext [.regs, .twin] s (execSwapMessage line page s) := by
  unfold execSwapMessage
  refine OnlyNext.ite (fun _ => ?_) (fun _ => ?_)
  · refine OnlyNext.next ?_
    refine Only.step (State.setReg_only ..) (by decide) ?_
    refine Only.with_twin (by decide) ?_
    exact .refl
  · refine OnlyNext.next ?_
    exact .refl

theorem State.passPublish_only (s : State) (recs : List (ℕ × ℕ)) : Only [.out] s (State.passPublish s recs) := by
  unfold State.passPublish
  dsimp only
  refine Only.ite (fun _ => ?_) (fun _ => ?_)
  · refine Only.ite (fun _ => ?_) (fun _ => ?_)
    · refine Only.step (State.emit_only ..) (by decide) ?_
      exact .refl
    · exact .refl
  · refine Only.step (State.twinSend_only ..) (by decide) ?_
    exact .refl

theorem State.passHeld_only (s : State) : Only [.twin, .out] s (State.passHeld s) := by
  unfold State.passHeld
  dsimp only
  refine Only.foldl (fun t x => ?_) ?_
  · refine Only.step (State.passPublish_only ..) (by decide) ?_
    exact .refl
  · refine Only.with_twin (by decide) ?_
    exact .refl

theorem State.swapRole_only (s : State) :
    Only [.regs, .role, .igrel, .decomp, .slots, .health, .taper, .twin, .wick, .ylog, .out, .flagged] s (State.swapRole s) := by
  unfold State.swapRole
  dsimp only
  split
  · refine Only.step (State.passHeld_only ..) (by decide) ?_
    refine Only.with_role_twin (by decide) ?_
    exact .refl
  · refine Only.step (State.makeHeld_only ..) (by decide) ?_
    refine Only.step (State.setLevel_only ..) (by decide) ?_
    refine Only.with_role_twin (by decide) ?_
    exact .refl
  · refine Only.with_twin (by decide) ?_
    exact .refl

theorem execRoleSwapComplete_only (s : State) :
    OnlyNext [.regs, .role, .igrel, .decomp, .slots, .health, .taper, .twin, .wick, .ylog, .out, .flagged] s (execRoleSwapComplete s) := by
  unfold execRoleSwapComplete
  split
  · refine OnlyNext.next ?_
    exact .refl
  · refine OnlyNext.ite (fun _ => ?_) (fun _ => ?_)
    · refine OnlyNext.next ?_
      refine Only.step (State.swapRole_only ..) (by decide) ?_
      exact .refl
    · refine OnlyNext.next ?_
      exact .refl

theorem execJoinReq_only (rev : ℕ) (fw : ℕ) (digest : ℕ) (s : State) : OnlyNext [.regs, .twin, .out] s (execJoinReq rev fw digest s) := by
  unfold execJoinReq
  dsimp only
  refine OnlyNext.ite (fun _ => ?_) (fun _ => ?_)
  · split
    · refine OnlyNext.next ?_
      exact .refl
    · refine OnlyNext.next ?_
      refine Only.step (State.twinSend_only ..) (by decide) ?_
      refine Only.step (State.setReg_only ..) (by decide) ?_
      refine Only.with_twin (by decide) ?_
      exact .refl
  · refine OnlyNext.next ?_
    exact .refl

theorem State.moveJoin_only (s : State) (line : ℕ) : Only [.regs, .taper] s (State.moveJoin s line) := by
  unfold State.moveJoin
  refine Only.ite (fun _ => ?_) (fun _ => ?_)
  · exact .refl
  · refine Only.foldl (fun t x => ?_) ?_
    · refine Only.step (State.setReg_only ..) (by decide) ?_
      refine Only.step (State.setGroup_only ..) (by decide) ?_
      exact .refl
    · exact .refl

theorem execJoinPlan_only (snapshot : ℕ) (line : ℕ) (s : State) :
    OnlyNext [.regs, .raster, .decomp, .taper, .twin, .dram, .out] s (execJoinPlan snapshot line s) := by
  unfold execJoinPlan
  refine OnlyNext.ite (fun _ => ?_) (fun _ => ?_)
  · refine OnlyNext.next ?_
    exact .refl
  · split
    · dsimp only
      refine OnlyNext.next ?_
      refine Only.step (State.setReg_only ..) (by decide) ?_
      refine Only.with_twin (by decide) ?_
      exact .refl
    · dsimp only
      refine OnlyNext.next ?_
      refine Only.step (State.tellReady_only ..) (by decide) ?_
      refine Only.step (State.catchUp_only ..) (by decide) ?_
      refine Only.step (State.moveJoin_only ..) (by decide) ?_
      refine Only.step (State.bump_only ..) (by decide) ?_
      refine Only.with_twin (by decide) ?_
      exact .refl

theorem execJoinSnapshot_only (s : State) : OnlyNext [.regs, .twin, .out] s (execJoinSnapshot s) := by
  unfold execJoinSnapshot
  split
  · refine OnlyNext.next ?_
    exact .refl
  · dsimp only
    refine OnlyNext.ite (fun _ => ?_) (fun _ => ?_)
    · refine OnlyNext.next ?_
      refine Only.step (State.setReg_only ..) (by decide) ?_
      refine Only.step (State.twinSend_only ..) (by decide) ?_
      refine Only.foldl (fun t x => ?_) ?_
      · refine Only.step (State.twinSend_only ..) (by decide) ?_
        exact .refl
      · refine Only.with_twin (by decide) ?_
        exact .refl
    · refine OnlyNext.next ?_
      exact .refl

theorem State.startAtImages_only (s : State) (x1 : List (ℕ × List Byte)) : Only [.regs, .raster] s (State.startAtImages s x1) := by
  induction x1 generalizing s with | nil => ?_ | cons y l ih => ?_
  · simp only [State.startAtImages]
    exact .refl
  · simp only [State.startAtImages]
    refine Only.trans (ih ..) ?_
    refine Only.with_raster (by decide) ?_
    refine Only.step (State.setReg_only ..) (by decide) ?_
    exact .refl

theorem execJoinImage_only (images : List (ℕ × List Byte)) (gen : ℕ) (map : List (ℕ × ℕ)) (s : State) :
    OnlyNext [.regs, .igrel, .raster, .decomp, .slots, .health, .twin, .ylog, .out, .flagged] s (execJoinImage images gen map s) := by
  unfold execJoinImage
  split
  · refine OnlyNext.next ?_
    exact .refl
  · refine OnlyNext.ite (fun _ => ?_) (fun _ => ?_)
    · dsimp only
      refine OnlyNext.next ?_
      refine Only.step (State.regrant_only ..) (by decide) ?_
      refine Only.step (State.setReg_only ..) (by decide) ?_
      refine Only.step (State.setReg_only ..) (by decide) ?_
      refine Only.with_health_twin (by decide) ?_
      refine Only.step (State.startAtImages_only ..) (by decide) ?_
      refine Only.step (State.flushStore_only ..) (by decide) ?_
      exact .refl
    · refine OnlyNext.next ?_
      exact .refl

theorem execJoinReady_only (s : State) : OnlyNext [.regs, .twin, .out] s (execJoinReady s) := by
  unfold execJoinReady
  split
  · refine OnlyNext.next ?_
    exact .refl
  · refine OnlyNext.ite (fun _ => ?_) (fun _ => ?_)
    · refine OnlyNext.next ?_
      exact .refl
    · refine OnlyNext.next ?_
      refine Only.step (State.joinMade_only ..) (by decide) ?_
      refine Only.with_twin (by decide) ?_
      exact .refl

theorem State.takeCounters_only (s : State) (x1 : List (ℕ × ℕ)) : Only [.regs] s (State.takeCounters s x1) := by
  induction x1 generalizing s with | nil => ?_ | cons y l ih => ?_
  · simp only [State.takeCounters]
    exact .refl
  · simp only [State.takeCounters]
    refine Only.trans (ih ..) ?_
    refine Only.ite (fun _ => ?_) (fun _ => ?_)
    · refine Only.step (State.setReg_only ..) (by decide) ?_
      exact .refl
    · exact .refl

theorem execJoinCounters_only (counters : List (ℕ × ℕ)) (s : State) : OnlyNext [.regs] s (execJoinCounters counters s) := by
  unfold execJoinCounters
  split
  · refine OnlyNext.next ?_
    exact .refl
  · refine OnlyNext.ite (fun _ => ?_) (fun _ => ?_)
    · refine OnlyNext.next ?_
      refine Only.step (State.takeCounters_only ..) (by decide) ?_
      exact .refl
    · refine OnlyNext.next ?_
      exact .refl

theorem State.failJoin_only (s : State) : Only [.regs, .twin] s (State.failJoin s) := by
  unfold State.failJoin
  refine Only.step (State.setReg_only ..) (by decide) ?_
  refine Only.with_twin (by decide) ?_
  exact .refl

theorem execJoinRetry_only (s : State) : OnlyNext [.regs, .twin, .out] s (execJoinRetry s) := by
  unfold execJoinRetry
  split
  · refine OnlyNext.next ?_
    exact .refl
  · refine OnlyNext.ite (fun _ => ?_) (fun _ => ?_)
    · refine OnlyNext.next ?_
      exact .refl
    · refine OnlyNext.ite (fun _ => ?_) (fun _ => ?_)
      · refine OnlyNext.next ?_
        refine Only.step (State.failJoin_only ..) (by decide) ?_
        exact .refl
      · refine OnlyNext.ite (fun _ => ?_) (fun _ => ?_)
        · refine OnlyNext.next ?_
          exact .refl
        · dsimp only
          refine OnlyNext.next ?_
          refine Only.step (State.twinSend_only ..) (by decide) ?_
          refine Only.step (State.bump_only ..) (by decide) ?_
          refine Only.with_twin (by decide) ?_
          exact .refl

theorem execJoinEnterLit_only (s : State) :
    OnlyNext [.regs, .mode, .pins, .igrel, .taper, .heads, .twin, .lantern, .dram, .ylog, .out, .flagged] s (execJoinEnterLit s) := by
  unfold execJoinEnterLit
  split
  · refine OnlyNext.ite (fun _ => ?_) (fun _ => ?_)
    · dsimp only
      refine OnlyNext.next ?_
      refine Only.step (State.setReg_only ..) (by decide) ?_
      refine Only.with_twin (by decide) ?_
      refine Only.step (State.enterLit_only ..) (by decide) ?_
      exact .refl
    · refine OnlyNext.next ?_
      exact .refl
  · refine OnlyNext.next ?_
    exact .refl

end Sys2Proof.Machine
end

