-- ==== Sys2Proof/Laws/FramesResetToEffects.lean ====
section
/-! SUPPORT. The frame of every operation and meaning of Machine/Reset.lean, Fuse.lean, Reads.lean, Effects.lean: the only fields of the state that
it can change. -/

namespace Sys2Proof.Machine

/-! ### Reset -/

theorem State.carry_only (s : State) (old : State) (x2 : List ℕ) : Only [.regs] s (State.carry s old x2) := by
  induction x2 generalizing s old with | nil => ?_ | cons y l ih => ?_
  · simp only [State.carry]
    exact .refl
  · simp only [State.carry]
    refine Only.trans (ih ..) ?_
    refine Only.step (State.setReg_only ..) (by decide) ?_
    exact .refl

theorem State.cutFuse_only (s : State) : Only [.fuses, .freeCtr] s (State.cutFuse s) := by
  unfold State.cutFuse
  split
  · exact .refl
  · split
    dsimp only
    refine Only.with_fuses (by decide) ?_
    refine Only.of_snd (by assumption) ?_
    refine Only.step (State.fresh_only ..) (by decide) ?_
    exact .refl

theorem State.closeWindow_only (s : State) : Only [.led, .out] s (State.closeWindow s) := by
  unfold State.closeWindow
  refine Only.ite (fun _ => ?_) (fun _ => ?_)
  · refine Only.step (State.ledsLow_only ..) (by decide) ?_
    exact .refl
  · exact .refl

theorem State.resetBase_only (s : State) :
    Only [.regs, .doms, .mode, .role, .strapped, .clock, .rst, .fuses, .pins, .igrel, .raster, .decomp, .slots, .health, .trimGen,
      .enc, .taper, .heads, .twin, .lantern, .led, .chans, .check, .dram, .wick, .loops, .spi, .axes, .ptp, .cal, .ylog, .die,
      .flagged] s s.resetBase := by
  unfold State.resetBase
  refine ⟨fun f hf => ?_⟩
  cases f <;> first | rfl | exact absurd (by decide) hf

theorem State.afterReset_only (s : State) :
    Only [.regs, .doms, .mode, .role, .strapped, .clock, .rst, .fuses, .pins, .igrel, .raster, .decomp, .slots, .health, .trimGen,
      .enc, .taper, .heads, .twin, .lantern, .led, .chans, .check, .dram, .wick, .loops, .spi, .axes, .ptp, .cal, .ylog, .die, .out,
      .flagged, .freeCtr] s (State.afterReset s) := by
  unfold State.afterReset
  dsimp only
  refine Only.step (State.carry_only ..) (by decide) ?_
  refine Only.step (State.resetBase_only ..) (by decide) ?_
  refine Only.step (State.closeWindow_only ..) (by decide) ?_
  refine Only.step (State.cutFuse_only ..) (by decide) ?_
  exact .refl

theorem State.markSource_only (s : State) (b : ℕ) (sub : ℕ) : Only [.regs, .rst, .flagged] s (State.markSource s b sub) := by
  unfold State.markSource
  dsimp only
  refine Only.step (State.setReg_only ..) (by decide) ?_
  refine Only.step (State.setBits_only ..) (by decide) ?_
  refine Only.with_rst (by decide) ?_
  exact .refl

theorem State.powerOn_only (s : State) : Only [.regs, .fuses, .ylog] s (State.powerOn s) := by
  unfold State.powerOn
  dsimp only
  refine Only.with_fuses_ylog (by decide) ?_
  refine Only.step (State.setRegs_only ..) (by decide) ?_
  exact .refl

theorem State.takeReset_only (s : State) (b : ℕ) (sub : ℕ) :
    Only [.regs, .doms, .mode, .role, .strapped, .clock, .rst, .fuses, .pins, .igrel, .raster, .decomp, .slots, .health, .trimGen,
      .enc, .taper, .heads, .twin, .lantern, .led, .chans, .check, .dram, .wick, .loops, .spi, .axes, .ptp, .cal, .ylog, .die, .out,
      .flagged, .freeCtr] s (State.takeReset s b sub) := by
  unfold State.takeReset
  refine Only.ite (fun _ => ?_) (fun _ => ?_)
  · refine Only.step (State.markSource_only ..) (by decide) ?_
    exact .refl
  · dsimp only
    refine Only.step (State.markSource_only ..) (by decide) ?_
    refine Only.step (State.bump_only ..) (by decide) ?_
    refine Only.step (State.afterReset_only ..) (by decide) ?_
    refine Only.ite (fun _ => ?_) (fun _ => ?_)
    · refine Only.step (State.freezeAtReset_only ..) (by decide) ?_
      exact .refl
    · exact .refl

theorem execPowerOnReset_only (s : State) :
    OnlyNext [.regs, .doms, .mode, .role, .strapped, .clock, .rst, .fuses, .pins, .igrel, .raster, .decomp, .slots, .health, .trimGen,
      .enc, .taper, .heads, .twin, .lantern, .led, .chans, .check, .dram, .wick, .loops, .spi, .axes, .ptp, .cal, .ylog, .die, .out,
      .flagged, .freeCtr] s (execPowerOnReset s) := by
  unfold execPowerOnReset
  dsimp only
  refine OnlyNext.next ?_
  refine Only.step (State.markSource_only ..) (by decide) ?_
  refine Only.step (State.powerOn_only ..) (by decide) ?_
  refine Only.ite (fun _ => ?_) (fun _ => ?_)
  · exact .refl
  · refine Only.step (State.afterReset_only ..) (by decide) ?_
    exact .refl

theorem execPinReset_only (s : State) :
    OnlyNext [.regs, .doms, .mode, .role, .strapped, .clock, .rst, .fuses, .pins, .igrel, .raster, .decomp, .slots, .health, .trimGen,
      .enc, .taper, .heads, .twin, .lantern, .led, .chans, .check, .dram, .wick, .loops, .spi, .axes, .ptp, .cal, .ylog, .die, .out,
      .flagged, .freeCtr] s (execPinReset s) := by
  unfold execPinReset
  refine OnlyNext.next ?_
  refine Only.step (State.takeReset_only ..) (by decide) ?_
  exact .refl

theorem execWatchdogExpiry_only (s : State) :
    OnlyNext [.regs, .doms, .mode, .role, .strapped, .clock, .rst, .fuses, .pins, .igrel, .raster, .decomp, .slots, .health, .trimGen,
      .enc, .taper, .heads, .twin, .lantern, .led, .chans, .check, .dram, .wick, .loops, .spi, .axes, .ptp, .cal, .ylog, .die, .out,
      .flagged, .freeCtr] s (execWatchdogExpiry s) := by
  unfold execWatchdogExpiry
  refine OnlyNext.ite (fun _ => ?_) (fun _ => ?_)
  · refine OnlyNext.next ?_
    refine Only.step (State.takeReset_only ..) (by decide) ?_
    exact .refl
  · refine OnlyNext.next ?_
    exact .refl

theorem execSnuffEscReset_only (padHigh : Bool) (s : State) :
    OnlyNext [.regs, .doms, .mode, .role, .strapped, .clock, .rst, .fuses, .pins, .igrel, .raster, .decomp, .slots, .health, .trimGen,
      .enc, .taper, .heads, .twin, .lantern, .led, .chans, .check, .dram, .wick, .loops, .spi, .axes, .ptp, .cal, .ylog, .die, .out,
      .flagged, .freeCtr] s (execSnuffEscReset padHigh s) := by
  unfold execSnuffEscReset
  refine OnlyNext.ite (fun _ => ?_) (fun _ => ?_)
  · refine OnlyNext.next ?_
    refine Only.step (State.takeReset_only ..) (by decide) ?_
    exact .refl
  · refine OnlyNext.next ?_
    exact .refl

theorem execSupplyBrownout_only (supply : Supply) (s : State) :
    OnlyNext [.regs, .doms, .mode, .role, .strapped, .clock, .rst, .fuses, .pins, .igrel, .raster, .decomp, .slots, .health, .trimGen,
      .enc, .taper, .heads, .twin, .lantern, .led, .chans, .check, .dram, .wick, .loops, .spi, .axes, .ptp, .cal, .ylog, .die, .out,
      .flagged, .freeCtr] s (execSupplyBrownout supply s) := by
  unfold execSupplyBrownout
  refine OnlyNext.next ?_
  refine Only.step (State.takeReset_only ..) (by decide) ?_
  exact .refl

theorem execRefClkLoss_only (s : State) :
    OnlyNext [.regs, .doms, .mode, .role, .strapped, .clock, .rst, .fuses, .pins, .igrel, .raster, .decomp, .slots, .health, .trimGen,
      .enc, .taper, .heads, .twin, .lantern, .led, .chans, .check, .dram, .wick, .loops, .spi, .axes, .ptp, .cal, .ylog, .die, .out,
      .flagged, .freeCtr] s (execRefClkLoss s) := by
  unfold execRefClkLoss
  refine OnlyNext.ite (fun _ => ?_) (fun _ => ?_)
  · refine OnlyNext.next ?_
    refine Only.step (State.takeReset_only ..) (by decide) ?_
    refine Only.with_clock (by decide) ?_
    exact .refl
  · refine OnlyNext.next ?_
    exact .refl

theorem execIgrelReset_only (s : State) :
    OnlyNext [.regs, .doms, .mode, .role, .strapped, .clock, .rst, .fuses, .pins, .igrel, .raster, .decomp, .slots, .health, .trimGen,
      .enc, .taper, .heads, .twin, .lantern, .led, .chans, .check, .dram, .wick, .loops, .spi, .axes, .ptp, .cal, .ylog, .die, .out,
      .flagged, .freeCtr] s (execIgrelReset s) := by
  unfold execIgrelReset
  refine OnlyNext.ite (fun _ => ?_) (fun _ => ?_)
  · refine OnlyNext.next ?_
    refine Only.step (State.takeReset_only ..) (by decide) ?_
    exact .refl
  · refine OnlyNext.next ?_
    exact .refl

theorem execTwinResetRequest_only (s : State) :
    OnlyNext [.regs, .doms, .mode, .role, .strapped, .clock, .rst, .fuses, .pins, .igrel, .raster, .decomp, .slots, .health, .trimGen,
      .enc, .taper, .heads, .twin, .lantern, .led, .chans, .check, .dram, .wick, .loops, .spi, .axes, .ptp, .cal, .ylog, .die, .out,
      .flagged, .freeCtr] s (execTwinResetRequest s) := by
  unfold execTwinResetRequest
  refine OnlyNext.ite (fun _ => ?_) (fun _ => ?_)
  · refine OnlyNext.next ?_
    exact .refl
  · refine OnlyNext.ite (fun _ => ?_) (fun _ => ?_)
    · refine OnlyNext.next ?_
      refine Only.step (State.takeReset_only ..) (by decide) ?_
      exact .refl
    · refine OnlyNext.next ?_
      refine Only.step (State.logEvent_only ..) (by decide) ?_
      exact .refl

theorem execResetRelease_only (roles : List ℕ) (testEn : Bool) (s : State) :
    OnlyNext [.role, .strapped, .clock, .rst, .fuses, .jtag] s (execResetRelease roles testEn s) := by
  unfold execResetRelease
  refine OnlyNext.ite (fun _ => ?_) (fun _ => ?_)
  · refine OnlyNext.next ?_
    exact .refl
  · dsimp only
    refine OnlyNext.next ?_
    refine Only.with_role_strapped_clock_rst_fuses_jtag (by decide) ?_
    exact .refl

theorem execPllLock_only (s : State) : OnlyNext [.rst] s (execPllLock s) := by
  unfold execPllLock
  refine OnlyNext.ite (fun _ => ?_) (fun _ => ?_)
  · refine OnlyNext.next ?_
    refine Only.with_rst (by decide) ?_
    exact .refl
  · refine OnlyNext.next ?_
    exact .refl

theorem execServiceCoreRelease_only (s : State) : OnlyNext [.rst] s (execServiceCoreRelease s) := by
  unfold execServiceCoreRelease
  refine OnlyNext.ite (fun _ => ?_) (fun _ => ?_)
  · refine OnlyNext.next ?_
    refine Only.with_rst (by decide) ?_
    exact .refl
  · refine OnlyNext.next ?_
    exact .refl

theorem State.startFirmware_only (s : State) (slot : ℕ) (status : ℕ) (img : List Byte) :
    Only [.regs, .rst] s (State.startFirmware s slot status img) := by
  unfold State.startFirmware
  dsimp only
  refine Only.with_rst (by decide) ?_
  refine Only.step (State.setReg_only ..) (by decide) ?_
  refine Only.step (State.setReg_only ..) (by decide) ?_
  exact .refl

theorem State.noFirmware_only (s : State) (status : ℕ) : Only [.regs, .rst, .pins, .igrel] s (State.noFirmware s status) := by
  unfold State.noFirmware
  dsimp only
  refine Only.ite (fun _ => ?_) (fun _ => ?_)
  · refine Only.with_rst_pins_igrel (by decide) ?_
    refine Only.step (State.setReg_only ..) (by decide) ?_
    exact .refl
  · refine Only.with_rst (by decide) ?_
    refine Only.step (State.setReg_only ..) (by decide) ?_
    exact .refl

theorem execBootRomVerify_only (readsValid : Bool) (s : State) :
    OnlyNext [.regs, .rst, .pins, .igrel] s (execBootRomVerify readsValid s) := by
  unfold execBootRomVerify
  refine OnlyNext.ite (fun _ => ?_) (fun _ => ?_)
  · refine OnlyNext.next ?_
    exact .refl
  · dsimp only
    refine OnlyNext.ite (fun _ => ?_) (fun _ => ?_)
    · refine OnlyNext.next ?_
      refine Only.step (State.noFirmware_only ..) (by decide) ?_
      exact .refl
    · refine OnlyNext.ite (fun _ => ?_) (fun _ => ?_)
      · refine OnlyNext.next ?_
        refine Only.step (State.startFirmware_only ..) (by decide) ?_
        exact .refl
      · refine OnlyNext.next ?_
        refine Only.step (State.startFirmware_only ..) (by decide) ?_
        exact .refl

theorem execBootRetry_only (s : State) : OnlyNext [.rst] s (execBootRetry s) := by
  unfold execBootRetry
  refine OnlyNext.ite (fun _ => ?_) (fun _ => ?_)
  · refine OnlyNext.next ?_
    refine Only.with_rst (by decide) ?_
    exact .refl
  · refine OnlyNext.next ?_
    exact .refl

theorem State.takeSettings_only (s : State) (regs : Table ℕ) (doms : Table (List Byte)) :
    Only [.regs, .doms] s (State.takeSettings s regs doms) := by
  unfold State.takeSettings
  dsimp only
  refine Only.with_regs_doms (by decide) ?_
  exact .refl

theorem State.takeShadows_only (s : State) (x1 : List ℕ) : Only [.lantern] s (State.takeShadows s x1) := by
  induction x1 generalizing s with | nil => ?_ | cons y l ih => ?_
  · simp only [State.takeShadows]
    exact .refl
  · simp only [State.takeShadows]
    refine Only.trans (ih ..) ?_
    refine Only.with_lantern (by decide) ?_
    exact .refl

theorem State.drivePads_only (s : State) : Only [.pins] s (State.drivePads s) := by
  unfold State.drivePads
  refine Only.ite (fun _ => ?_) (fun _ => ?_)
  · exact .refl
  · refine Only.with_pins (by decide) ?_
    exact .refl

theorem State.firstConfigured_only (s : State) : Only [.regs, .rst, .pins, .igrel, .ylog, .out, .flagged] s s.firstConfigured := by
  unfold State.firstConfigured
  extract_lets s1 s2 s3
  refine Only.step (State.logEvent_only ..) (by decide) ?_
  refine Only.step (State.logEvent_only ..) (by decide) ?_
  refine Only.step (State.drivePads_only ..) (by decide) ?_
  exact Only.with_rst_igrel (by decide) (Only.mono (State.clearBits_only ..) (by decide))

theorem execConfigLoad_only (s : State) :
    OnlyNext [.regs, .doms, .mode, .rst, .pins, .igrel, .flash, .raster, .decomp, .slots, .health, .taper, .heads, .twin, .lantern,
      .led, .chans, .dram, .wick, .loops, .spi, .axes, .cal, .ylog, .out, .flagged, .freeCtr] s (execConfigLoad s) := by
  unfold execConfigLoad
  refine OnlyNext.ite (fun _ => OnlyNext.next .refl) (fun _ => ?_)
  extract_lets y z s1 s2
  have h1 : Only [.regs, .doms, .mode, .rst, .pins, .igrel, .flash, .raster, .decomp, .slots, .health, .taper, .heads, .twin, .lantern, .led, .chans, .dram, .wick, .loops, .spi, .axes, .cal, .ylog, .out, .flagged, .freeCtr] s s1 := by
    simp only [s1]
    split
    · exact Only.mono (State.takeSettings_only ..) (by decide)
    · exact Only.with_rst (by decide) (Only.mono (State.setBits_only ..) (by decide))
  have h2 : Only [.regs, .doms, .mode, .rst, .pins, .igrel, .flash, .raster, .decomp, .slots, .health, .taper, .heads, .twin, .lantern, .led, .chans, .dram, .wick, .loops, .spi, .axes, .cal, .ylog, .out, .flagged, .freeCtr] s s2 :=
    Only.step (State.firstConfigured_only ..) (by decide)
      (Only.step (State.takeShadows_only ..) (by decide) (Only.step (State.ringCredits_only ..) (by decide) h1))
  exact OnlyNext.ite (fun _ => OnlyNext.next h2) (fun _ => OnlyNext.next (Only.step (State.enterKindle_only ..) (by decide) h2))

theorem State.lanternReset_only (s : State) : Only [.doms, .lantern, .chans, .freeCtr] s (State.lanternReset s) := by
  unfold State.lanternReset
  dsimp only
  refine Only.with_lantern (by decide) ?_
  refine Only.ite (fun _ => ?_) (fun _ => ?_)
  · refine Only.step (State.endRun_only ..) (by decide) ?_
    exact .refl
  · exact .refl

theorem State.twinReset_only (s : State) : Only [.regs, .igrel, .twin, .ylog, .out, .flagged] s (State.twinReset s) := by
  unfold State.twinReset
  dsimp only
  refine Only.step (State.afterLink_only ..) (by decide) ?_
  refine Only.step (State.setReg_only ..) (by decide) ?_
  refine Only.step (State.setReg_only ..) (by decide) ?_
  refine Only.with_twin (by decide) ?_
  exact .refl

theorem State.rasterReset_only (s : State) : Only [.regs, .raster] s (State.rasterReset s) := by
  unfold State.rasterReset
  dsimp only
  refine Only.step (State.setReg_only ..) (by decide) ?_
  refine Only.step (State.rasterLanes_only ..) (by decide) ?_
  refine Only.with_raster (by decide) ?_
  exact .refl

theorem State.taperReset_only (s : State) : Only [.regs, .pins, .igrel, .taper, .ylog, .out, .flagged] s (State.taperReset s) := by
  unfold State.taperReset
  dsimp only
  split
  · refine Only.step (State.dropStrobes_only ..) (by decide) ?_
    exact .refl
  · refine Only.step (State.endMaint_only ..) (by decide) ?_
    refine Only.step (State.dropStrobes_only ..) (by decide) ?_
    exact .refl

theorem State.motionReset_only (s : State) : Only [.regs, .wick, .axes, .out, .flagged] s (State.motionReset s) := by
  unfold State.motionReset
  refine Only.step (State.emitAll_only ..) (by decide) ?_
  refine Only.step (State.stopAxes_only ..) (by decide) ?_
  exact .refl

theorem State.holdBlock_only (s : State) (b : ℕ) :
    Only [.regs, .doms, .pins, .igrel, .raster, .decomp, .taper, .heads, .twin, .lantern, .led, .chans, .check, .dram, .wick, .axes,
      .ylog, .out, .flagged, .freeCtr] s (State.holdBlock s b) := by
  unfold State.holdBlock
  split
  · refine Only.step (State.rasterReset_only ..) (by decide) ?_
    exact .refl
  · refine Only.with_decomp (by decide) ?_
    exact .refl
  · refine Only.step (State.taperReset_only ..) (by decide) ?_
    exact .refl
  · refine Only.step (State.headReset_only ..) (by decide) ?_
    exact .refl
  · refine Only.step (State.twinReset_only ..) (by decide) ?_
    exact .refl
  · refine Only.step (State.lanternReset_only ..) (by decide) ?_
    exact .refl
  · refine Only.step (State.ledsLow_only ..) (by decide) ?_
    refine Only.step (State.darken_only ..) (by decide) ?_
    exact .refl
  · refine Only.step (State.uploadReset_only ..) (by decide) ?_
    exact .refl
  · refine Only.step (State.checkReset_only ..) (by decide) ?_
    exact .refl
  · refine Only.with_dram (by decide) ?_
    exact .refl
  · refine Only.step (State.wickReset_only ..) (by decide) ?_
    exact .refl
  · refine Only.step (State.motionReset_only ..) (by decide) ?_
    exact .refl
  · exact .refl

theorem State.holdBlocks_only (s : State) (x1 : List ℕ) :
    Only [.regs, .doms, .pins, .igrel, .raster, .decomp, .taper, .heads, .twin, .lantern, .led, .chans, .check, .dram, .wick, .axes,
      .ylog, .out, .flagged, .freeCtr] s (State.holdBlocks s x1) := by
  induction x1 generalizing s with | nil => ?_ | cons y l ih => ?_
  · simp only [State.holdBlocks]
    exact .refl
  · simp only [State.holdBlocks]
    refine Only.trans (ih ..) ?_
    refine Only.step (State.holdBlock_only ..) (by decide) ?_
    exact .refl

theorem State.loopRelease_only (s : State) : Only [.regs, .doms, .loops, .spi] s (State.loopRelease s) := by
  unfold State.loopRelease
  dsimp only
  refine Only.with_regs_doms_loops_spi (by decide) ?_
  exact .refl

theorem State.beaconRelease_only (s : State) : Only [.regs, .clock] s (State.beaconRelease s) := by
  unfold State.beaconRelease
  refine Only.step (State.setReg_only ..) (by decide) ?_
  refine Only.with_clock (by decide) ?_
  exact .refl

theorem State.releaseBlock_only (s : State) (b : ℕ) :
    Only [.regs, .doms, .clock, .pins, .enc, .wick, .loops, .spi, .axes] s (State.releaseBlock s b) := by
  unfold State.releaseBlock
  split
  · refine Only.ite (fun _ => ?_) (fun _ => ?_)
    · refine Only.step (State.driveFireEn_only ..) (by decide) ?_
      exact .refl
    · exact .refl
  · refine Only.step (State.startChannel_only ..) (by decide) ?_
    refine Only.step (State.startChannel_only ..) (by decide) ?_
    exact .refl
  · refine Only.step (State.uploadRelease_only ..) (by decide) ?_
    exact .refl
  · refine Only.step (State.wickRelease_only ..) (by decide) ?_
    exact .refl
  · refine Only.step (State.loopRelease_only ..) (by decide) ?_
    exact .refl
  · refine Only.foldl (fun t x => ?_) ?_
    · dsimp only
      refine Only.step (State.setAxis_only ..) (by decide) ?_
      exact .refl
    · exact .refl
  · refine Only.step (State.beaconRelease_only ..) (by decide) ?_
    exact .refl
  · exact .refl

theorem State.writeBlockReset_only (s : State) (v : ℕ) :
    Only [.regs, .doms, .rst, .pins, .igrel, .raster, .decomp, .taper, .heads, .twin, .lantern, .led, .chans, .check, .dram, .wick,
      .axes, .ylog, .out, .flagged, .freeCtr] s (State.writeBlockReset s v) := by
  unfold State.writeBlockReset
  dsimp only
  refine Only.step (State.beginLinks_only ..) (by decide) ?_
  refine Only.step (State.pendBlocks_only ..) (by decide) ?_
  refine Only.step (State.holdBlocks_only ..) (by decide) ?_
  refine Only.with_rst (by decide) ?_
  refine Only.step (State.clearBits_only ..) (by decide) ?_
  refine Only.step (State.setReg_only ..) (by decide) ?_
  exact .refl

theorem execBlockRelease_only (b : Fin 17) (clocks : ClockView) (s : State) :
    OnlyNext [.regs, .doms, .clock, .rst, .pins, .enc, .wick, .loops, .spi, .axes] s (execBlockRelease b clocks s) := by
  unfold execBlockRelease
  refine OnlyNext.ite (fun _ => ?_) (fun _ => ?_)
  · dsimp only
    refine OnlyNext.next ?_
    refine Only.step (State.releaseBlock_only ..) (by decide) ?_
    refine Only.step (State.clearBits_only ..) (by decide) ?_
    refine Only.with_rst (by decide) ?_
    exact .refl
  · refine OnlyNext.next ?_
    exact .refl

theorem execReleasePended_only (b : Fin 17) (s : State) :
    OnlyNext [.regs, .rst, .igrel, .ylog, .out, .flagged] s (execReleasePended b s) := by
  unfold execReleasePended
  refine OnlyNext.ite (fun _ => ?_) (fun _ => ?_)
  · dsimp only
    refine OnlyNext.next ?_
    refine Only.step (State.logEvent_only ..) (by decide) ?_
    refine Only.with_rst (by decide) ?_
    exact .refl
  · refine OnlyNext.next ?_
    exact .refl

theorem execFsiSample_only (sites : List ℕ) (s : State) :
    OnlyNext [.regs, .igrel, .ylog, .die, .out, .flagged] s (execFsiSample sites s) := by
  unfold execFsiSample
  refine OnlyNext.ite (fun _ => ?_) (fun _ => ?_)
  · refine OnlyNext.next ?_
    exact .refl
  · split
    dsimp only
    refine OnlyNext.next ?_
    refine Only.ite (fun _ => ?_) (fun _ => ?_)
    · refine Only.step (State.logEvent_only ..) (by decide) ?_
      refine Only.with_die (by decide) ?_
      refine Only.ite (fun _ => ?_) (fun _ => ?_)
      · refine Only.step (State.setReg_only ..) (by decide) ?_
        refine Only.step (State.setReg_only ..) (by decide) ?_
        refine Only.step (State.setReg_only ..) (by decide) ?_
        exact .refl
      · refine Only.step (State.setReg_only ..) (by decide) ?_
        refine Only.step (State.setReg_only ..) (by decide) ?_
        exact .refl
    · refine Only.with_die (by decide) ?_
      refine Only.ite (fun _ => ?_) (fun _ => ?_)
      · refine Only.step (State.setReg_only ..) (by decide) ?_
        refine Only.step (State.setReg_only ..) (by decide) ?_
        refine Only.step (State.setReg_only ..) (by decide) ?_
        exact .refl
      · refine Only.step (State.setReg_only ..) (by decide) ?_
        refine Only.step (State.setReg_only ..) (by decide) ?_
        exact .refl

theorem execDieTempSample_only (sensor : Fin 4) (t : ℤ) (s : State) :
    OnlyNext [.regs, .doms, .mode, .role, .strapped, .clock, .rst, .fuses, .pins, .igrel, .raster, .decomp, .slots, .health, .trimGen,
      .enc, .taper, .heads, .twin, .lantern, .led, .chans, .check, .dram, .wick, .loops, .spi, .axes, .ptp, .cal, .ylog, .die, .out,
      .flagged, .freeCtr] s (execDieTempSample sensor t s) := by
  unfold execDieTempSample
  dsimp only
  refine OnlyNext.ite (fun _ => ?_) (fun _ => ?_)
  · refine OnlyNext.next ?_
    refine Only.step (State.takeReset_only ..) (by decide) ?_
    refine Only.with_die (by decide) ?_
    exact .refl
  · refine OnlyNext.next ?_
    refine Only.step (State.standing_only ..) (by decide) ?_
    refine Only.with_die (by decide) ?_
    exact .refl

theorem execCdcStall_only (crossing : ℕ) (firingPath : Bool) (s : State) :
    OnlyNext [.regs, .igrel, .ylog, .out, .flagged] s (execCdcStall crossing firingPath s) := by
  unfold execCdcStall
  refine OnlyNext.ite (fun _ => ?_) (fun _ => ?_)
  · refine OnlyNext.next ?_
    exact .refl
  · dsimp only
    refine OnlyNext.next ?_
    refine Only.step (State.logEvent_only ..) (by decide) ?_
    refine Only.ite (fun _ => ?_) (fun _ => ?_)
    · refine Only.step (State.setCause_only ..) (by decide) ?_
      exact .refl
    · exact .refl

/-! ### Fuse -/

theorem State.startFuse_only (s : State) (h : Hdr) (payload : List Byte) (code : ℕ) :
    Only [.fuses, .igrel] s (State.startFuse s h payload code) := by
  unfold State.startFuse
  dsimp only
  refine Only.with_fuses_igrel (by decide) ?_
  exact .refl

theorem State.answerFuse_only (s : State) (h : Hdr) (r : Reply) : Only [.igrel, .out] s (State.answerFuse s h r) := by
  unfold State.answerFuse
  split
  · refine Only.step (State.finish_only ..) (by decide) ?_
    exact .refl
  · exact .refl

theorem execFuseProgramComplete_only (blown : ℕ) (s : State) : OnlyNext [.fuses, .igrel, .out] s (execFuseProgramComplete blown s) := by
  unfold execFuseProgramComplete
  split
  · refine OnlyNext.next ?_
    exact .refl
  · dsimp only
    refine OnlyNext.next ?_
    refine Only.step (State.answerFuse_only ..) (by decide) ?_
    refine Only.with_fuses (by decide) ?_
    exact .refl

theorem State.tap_only (s : State) (ir : ℕ) (sel : JtagSel) (control : Bool) (float : Bool) :
    Only [.jtag] s (State.tap s ir sel control float) := by
  unfold State.tap
  refine Only.with_jtag (by decide) ?_
  exact .refl

theorem State.tapControl_only (s : State) (ir : ℕ) (sel : JtagSel) : Only [.jtag] s (State.tapControl s ir sel) := by
  unfold State.tapControl
  refine Only.ite (fun _ => ?_) (fun _ => ?_)
  · refine Only.step (State.tap_only ..) (by decide) ?_
    exact .refl
  · refine Only.step (State.tap_only ..) (by decide) ?_
    exact .refl

theorem execJtagExtest_only (s : State) : OnlyNext [.jtag] s (execJtagExtest s) := by
  unfold execJtagExtest
  refine OnlyNext.next ?_
  refine Only.step (State.tapControl_only ..) (by decide) ?_
  exact .refl

theorem execJtagClamp_only (s : State) : OnlyNext [.jtag] s (execJtagClamp s) := by
  unfold execJtagClamp
  refine OnlyNext.next ?_
  refine Only.step (State.tapControl_only ..) (by decide) ?_
  exact .refl

theorem execJtagIdcode_only (s : State) : OnlyNext [.jtag] s (execJtagIdcode s) := by
  unfold execJtagIdcode
  refine OnlyNext.next ?_
  refine Only.step (State.tap_only ..) (by decide) ?_
  exact .refl

theorem execJtagSamplePreload_only (cells : List Bool) (s : State) : OnlyNext [.jtag] s (execJtagSamplePreload cells s) := by
  unfold execJtagSamplePreload
  dsimp only
  refine OnlyNext.next ?_
  refine Only.with_jtag (by decide) ?_
  refine Only.step (State.tap_only ..) (by decide) ?_
  exact .refl

theorem execJtagHighz_only (s : State) : OnlyNext [.jtag] s (execJtagHighz s) := by
  unfold execJtagHighz
  refine OnlyNext.next ?_
  refine Only.step (State.tap_only ..) (by decide) ?_
  exact .refl

theorem execJtagBypass_only (code : ℕ) (s : State) : OnlyNext [.jtag] s (execJtagBypass code s) := by
  unfold execJtagBypass
  refine OnlyNext.ite (fun _ => ?_) (fun _ => ?_)
  · refine OnlyNext.next ?_
    exact .refl
  · refine OnlyNext.next ?_
    refine Only.step (State.tap_only ..) (by decide) ?_
    exact .refl

theorem execJtagTapReset_only (s : State) : OnlyNext [.jtag] s (execJtagTapReset s) := by
  unfold execJtagTapReset
  refine OnlyNext.next ?_
  refine Only.step (State.tap_only ..) (by decide) ?_
  exact .refl

/-! ### Reads -/

theorem State.readObj_only (s : State) (key : ℕ) : Only [.freeCtr] s (State.readObj s key).2 := by
  unfold State.readObj
  split
  · refine Only.step (State.fresh_only ..) (by decide) ?_
    exact .refl
  · dsimp only
    exact .refl

theorem State.readEntry_only (s : State) (counted : Bool) (key : ℕ) :
    Only [.regs, .igrel, .ylog, .out, .flagged, .freeCtr] s (State.readEntry s counted key).2 := by
  unfold State.readEntry
  split
  · dsimp only
    exact .refl
  · split
    · dsimp only
      exact .refl
    · split
      · dsimp only
        exact .refl
      · split
        · dsimp only
          refine Only.ite (fun _ => ?_) (fun _ => ?_)
          · refine Only.step (State.conflict_only ..) (by decide) ?_
            exact .refl
          · exact .refl
        · split
          dsimp only
          refine Only.of_snd (by assumption) ?_
          refine Only.step (State.readObj_only ..) (by decide) ?_
          exact .refl

theorem State.readEntries_only (s : State) (counted : Bool) (x2 : List ℕ) :
    Only [.regs, .igrel, .ylog, .out, .flagged, .freeCtr] s (State.readEntries s counted x2).2 := by
  induction x2 generalizing s counted with | nil => ?_ | cons y l ih => ?_
  · simp only [State.readEntries]
    exact .refl
  · simp only [State.readEntries]
    refine Only.trans (ih ..) ?_
    refine Only.step (State.readEntry_only ..) (by decide) ?_
    exact .refl

theorem State.readReply_only (s : State) (counted : Bool) (keys : List ℕ) :
    Only [.regs, .igrel, .ylog, .out, .flagged, .freeCtr] s (State.readReply s counted keys).2 := by
  unfold State.readReply
  split
  dsimp only
  refine Only.of_snd (by assumption) ?_
  refine Only.step (State.readEntries_only ..) (by decide) ?_
  exact .refl

/-! ### Effects -/

theorem State.changeMode_only (s : State) (v : ℕ) :
    Only [.regs, .doms, .mode, .rst, .pins, .igrel, .flash, .raster, .decomp, .slots, .health, .taper, .heads, .twin, .lantern, .led,
      .chans, .dram, .wick, .loops, .spi, .axes, .cal, .ylog, .out, .flagged, .freeCtr] s (State.changeMode s v) := by
  unfold State.changeMode
  dsimp only
  split
  · refine Only.step (State.enterKindle_only ..) (by decide) ?_
    exact .refl
  · refine Only.step (State.sendMode_only ..) (by decide) ?_
    refine Only.step (State.enterPilot_only ..) (by decide) ?_
    exact .refl
  · exact .refl
  · refine Only.step (State.sendMode_only ..) (by decide) ?_
    refine Only.step (State.enterTrim_only ..) (by decide) ?_
    exact .refl
  · refine Only.step (State.sendMode_only ..) (by decide) ?_
    refine Only.step (State.acceptLit_only ..) (by decide) ?_
    exact .refl
  · refine Only.step (State.sendMode_only ..) (by decide) ?_
    refine Only.step (State.enterPilot_only ..) (by decide) ?_
    exact .refl
  · refine Only.step (State.sendMode_only ..) (by decide) ?_
    refine Only.step (State.stopLit_only ..) (by decide) ?_
    exact .refl
  · exact .refl
  · exact .refl
  · refine Only.step (State.setCause_only ..) (by decide) ?_
    exact .refl
  · exact .refl

theorem State.takeModeRequest_only (s : State) (v : ℕ) :
    Only [.regs, .doms, .mode, .rst, .pins, .igrel, .flash, .raster, .decomp, .slots, .health, .taper, .heads, .twin, .lantern, .led,
      .chans, .dram, .wick, .loops, .spi, .axes, .cal, .ylog, .out, .flagged, .freeCtr] s (State.takeModeRequest s v) := by
  unfold State.takeModeRequest
  refine Only.ite (fun _ => ?_) (fun _ => ?_)
  · refine Only.step (State.changeMode_only ..) (by decide) ?_
    exact .refl
  · refine Only.with_rst (by decide) ?_
    exact .refl

theorem State.makeDue_only (s : State) :
    Only [.regs, .doms, .mode, .rst, .pins, .igrel, .flash, .raster, .decomp, .slots, .health, .taper, .heads, .twin, .lantern, .led,
      .chans, .dram, .wick, .loops, .spi, .axes, .cal, .ylog, .out, .flagged, .freeCtr] s (State.makeDue s) := by
  unfold State.makeDue
  split
  · exact .refl
  · refine Only.ite (fun _ => ?_) (fun _ => ?_)
    · dsimp only
      refine Only.ite (fun _ => ?_) (fun _ => ?_)
      · refine Only.with_rst (by decide) ?_
        exact .refl
      · refine Only.step (State.changeMode_only ..) (by decide) ?_
        refine Only.with_rst (by decide) ?_
        exact .refl
    · exact .refl

theorem State.writeMode_only (s : State) (key : ℕ) (v : ℕ) :
    Only [.regs, .doms, .mode, .rst, .pins, .igrel, .flash, .raster, .decomp, .slots, .health, .taper, .heads, .twin, .lantern, .led,
      .chans, .dram, .wick, .loops, .spi, .axes, .cal, .ylog, .out, .flagged, .freeCtr] s (State.writeMode s key v) := by
  unfold State.writeMode
  refine Only.ite (fun _ => ?_) (fun _ => ?_)
  · refine Only.step (State.takeModeRequest_only ..) (by decide) ?_
    exact .refl
  · refine Only.ite (fun _ => ?_) (fun _ => ?_)
    · refine Only.step (State.standing_only ..) (by decide) ?_
      refine Only.step (State.clearFlag_only ..) (by decide) ?_
      exact .refl
    · refine Only.step (State.setReg_only ..) (by decide) ?_
      exact .refl

theorem State.writeReset_only (s : State) (key : ℕ) (v : ℕ) :
    Only [.regs, .doms, .rst, .fuses, .pins, .igrel, .raster, .decomp, .taper, .heads, .twin, .lantern, .led, .chans, .check, .dram,
      .wick, .axes, .ylog, .out, .flagged, .freeCtr] s (State.writeReset s key v) := by
  unfold State.writeReset
  refine Only.ite (fun _ => ?_) (fun _ => ?_)
  · refine Only.step (State.clearFlag_only ..) (by decide) ?_
    exact .refl
  · refine Only.ite (fun _ => ?_) (fun _ => ?_)
    · refine Only.with_rst (by decide) ?_
      exact .refl
    · refine Only.ite (fun _ => ?_) (fun _ => ?_)
      · refine Only.step (State.writeBlockReset_only ..) (by decide) ?_
        exact .refl
      · refine Only.ite (fun _ => ?_) (fun _ => ?_)
        · refine Only.ite (fun _ => ?_) (fun _ => ?_)
          · refine Only.with_fuses (by decide) ?_
            exact .refl
          · exact .refl
        · refine Only.step (State.setReg_only ..) (by decide) ?_
          exact .refl

theorem State.saveConfig_only (s : State) : Only [.flash] s (State.saveConfig s) := by
  unfold State.saveConfig
  refine Only.with_flash (by decide) ?_
  exact .refl

theorem State.clearFsiMin_only (s : State) (v : ℕ) : Only [.regs] s (State.clearFsiMin s v) := by
  unfold State.clearFsiMin
  refine Only.ite (fun _ => ?_) (fun _ => ?_)
  · refine Only.step (State.setReg_only ..) (by decide) ?_
    exact .refl
  · exact .refl

theorem State.takeFlush_only (s : State) :
    Only [.regs, .igrel, .raster, .decomp, .slots, .health, .check, .ylog, .out, .flagged] s (State.takeFlush s) := by
  unfold State.takeFlush
  dsimp only
  refine Only.step (State.regrant_only ..) (by decide) ?_
  refine Only.with_check (by decide) ?_
  refine Only.step (State.flushStore_only ..) (by decide) ?_
  exact .refl

theorem State.speedLimit_only (s : State) : Only [.regs, .pins] s (State.speedLimit s) := by
  unfold State.speedLimit
  dsimp only
  refine Only.ite (fun _ => ?_) (fun _ => ?_)
  · exact .refl
  · refine Only.ite (fun _ => ?_) (fun _ => ?_)
    · refine Only.with_pins (by decide) ?_
      refine Only.step (State.setReg_only ..) (by decide) ?_
      exact .refl
    · refine Only.ite (fun _ => ?_) (fun _ => ?_)
      · refine Only.with_pins (by decide) ?_
        refine Only.step (State.setReg_only ..) (by decide) ?_
        exact .refl
      · exact .refl

theorem execFirmwareTick_only (s : State) :
    OnlyNext [.regs, .doms, .mode, .rst, .pins, .igrel, .flash, .raster, .decomp, .slots, .health, .taper, .heads, .twin, .lantern,
      .led, .chans, .dram, .wick, .loops, .spi, .axes, .cal, .ylog, .out, .flagged, .freeCtr] s (execFirmwareTick s) := by
  unfold execFirmwareTick
  refine OnlyNext.ite (fun _ => ?_) (fun _ => ?_)
  · dsimp only
    refine OnlyNext.next ?_
    refine Only.ite (fun _ => ?_) (fun _ => ?_)
    · refine Only.step (State.speedLimit_only ..) (by decide) ?_
      refine Only.step (State.makeDue_only ..) (by decide) ?_
      refine Only.with_rst (by decide) ?_
      exact .refl
    · refine Only.step (State.makeDue_only ..) (by decide) ?_
      refine Only.with_rst (by decide) ?_
      exact .refl
  · refine OnlyNext.next ?_
    exact .refl

theorem State.startMaint_only (s : State) (v : ℕ) :
    Only [.regs, .pins, .igrel, .slots, .taper, .heads, .dram, .wick, .axes, .ylog, .out, .flagged] s (State.startMaint s v) := by
  unfold State.startMaint
  refine Only.ite (fun _ => ?_) (fun _ => ?_)
  · exact .refl
  · dsimp only
    refine Only.step (State.request_only ..) (by decide) ?_
    refine Only.with_taper (by decide) ?_
    exact .refl

theorem State.enableChannel_only (s : State) (ch : ℕ) (v : ℕ) : Only [.regs, .enc] s (State.enableChannel s ch v) := by
  unfold State.enableChannel
  dsimp only
  refine Only.ite (fun _ => ?_) (fun _ => ?_)
  · refine Only.step (State.startChannel_only ..) (by decide) ?_
    refine Only.step (State.setReg_only ..) (by decide) ?_
    exact .refl
  · refine Only.step (State.setReg_only ..) (by decide) ?_
    exact .refl

theorem State.writeTaper_only (s : State) (key : ℕ) (v : ℕ) :
    Only [.regs, .pins, .igrel, .slots, .enc, .taper, .heads, .dram, .wick, .axes, .ylog, .out, .flagged] s (State.writeTaper s key v) := by
  unfold State.writeTaper
  refine Only.ite (fun _ => ?_) (fun _ => ?_)
  · refine Only.step (State.enableChannel_only ..) (by decide) ?_
    exact .refl
  · refine Only.ite (fun _ => ?_) (fun _ => ?_)
    · refine Only.step (State.enableChannel_only ..) (by decide) ?_
      exact .refl
    · refine Only.ite (fun _ => ?_) (fun _ => ?_)
      · refine Only.step (State.monRestart_only ..) (by decide) ?_
        refine Only.step (State.setReg_only ..) (by decide) ?_
        exact .refl
      · refine Only.ite (fun _ => ?_) (fun _ => ?_)
        · refine Only.step (State.startMaint_only ..) (by decide) ?_
          exact .refl
        · refine Only.step (State.setReg_only ..) (by decide) ?_
          exact .refl

theorem State.writeLane_only (s : State) (key : ℕ) (v : ℕ) : Only [.regs, .heads, .out] s (State.writeLane s key v) := by
  unfold State.writeLane
  dsimp only
  refine Only.ite (fun _ => ?_) (fun _ => ?_)
  · refine Only.step (State.sendCtrl_only ..) (by decide) ?_
    refine Only.step (State.setReg_only ..) (by decide) ?_
    exact .refl
  · refine Only.step (State.setReg_only ..) (by decide) ?_
    exact .refl

theorem State.requestSwap_only (s : State) (v : ℕ) : Only [.regs, .twin, .out] s (State.requestSwap s v) := by
  unfold State.requestSwap
  refine Only.ite (fun _ => ?_) (fun _ => ?_)
  · split
    · refine Only.step (State.startSwap_only ..) (by decide) ?_
      exact .refl
    · exact .refl
  · exact .refl

theorem State.writeCamera_only (s : State) (key : ℕ) (v : ℕ) :
    Only [.regs, .doms, .lantern, .chans, .freeCtr] s (State.writeCamera s key v) := by
  unfold State.writeCamera
  refine Only.ite (fun _ => ?_) (fun _ => ?_)
  · refine Only.step (State.selectTap_only ..) (by decide) ?_
    exact .refl
  · split
    · refine Only.ite (fun _ => ?_) (fun _ => ?_)
      · refine Only.step (State.commitCam_only ..) (by decide) ?_
        exact .refl
      · exact .refl
    · refine Only.step (State.setReg_only ..) (by decide) ?_
      exact .refl

theorem State.enableScrub_only (s : State) (v : ℕ) : Only [.regs, .check] s (State.enableScrub s v) := by
  unfold State.enableScrub
  dsimp only
  refine Only.ite (fun _ => ?_) (fun _ => ?_)
  · refine Only.with_check (by decide) ?_
    refine Only.step (State.setReg_only ..) (by decide) ?_
    exact .refl
  · refine Only.step (State.setReg_only ..) (by decide) ?_
    exact .refl

theorem State.selectFreq_only (s : State) (v : ℕ) :
    Only [.regs, .pins, .igrel, .slots, .taper, .heads, .dram, .wick, .axes, .ylog, .out, .flagged] s (State.selectFreq s v) := by
  unfold State.selectFreq
  refine Only.step (State.selectSet_only ..) (by decide) ?_
  refine Only.step (State.setReg_only ..) (by decide) ?_
  exact .refl

theorem State.enableLoop_only (s : State) (i : ℕ) (v : ℕ) : Only [.regs, .loops] s (State.enableLoop s i v) := by
  unfold State.enableLoop
  dsimp only
  refine Only.ite (fun _ => ?_) (fun _ => ?_)
  · refine Only.step (State.setLoop_only ..) (by decide) ?_
    refine Only.step (State.setReg_only ..) (by decide) ?_
    exact .refl
  · refine Only.step (State.setReg_only ..) (by decide) ?_
    exact .refl

theorem State.writeSetpoint_only (s : State) (i : ℕ) (v : ℕ) : Only [.regs, .loops] s (State.writeSetpoint s i v) := by
  unfold State.writeSetpoint
  refine Only.step (State.setLoop_only ..) (by decide) ?_
  refine Only.step (State.setReg_only ..) (by decide) ?_
  exact .refl

theorem State.swapBank_only (s : State) (i : ℕ) (v : ℕ) : Only [.loops] s (State.swapBank s i v) := by
  unfold State.swapBank
  refine Only.ite (fun _ => ?_) (fun _ => ?_)
  · refine Only.step (State.setLoop_only ..) (by decide) ?_
    exact .refl
  · exact .refl

theorem State.writeLoop_only (s : State) (i : ℕ) (key : ℕ) (v : ℕ) : Only [.regs, .loops] s (State.writeLoop s i key v) := by
  unfold State.writeLoop
  refine Only.ite (fun _ => ?_) (fun _ => ?_)
  · refine Only.step (State.enableLoop_only ..) (by decide) ?_
    exact .refl
  · refine Only.ite (fun _ => ?_) (fun _ => ?_)
    · refine Only.step (State.writeSetpoint_only ..) (by decide) ?_
      exact .refl
    · refine Only.ite (fun _ => ?_) (fun _ => ?_)
      · refine Only.step (State.swapBank_only ..) (by decide) ?_
        exact .refl
      · refine Only.step (State.setReg_only ..) (by decide) ?_
        exact .refl

theorem State.takeHome_only (s : State) (a : ℕ) (v : ℕ) : Only [.axes] s (State.takeHome s a v) := by
  unfold State.takeHome
  refine Only.ite (fun _ => ?_) (fun _ => ?_)
  · refine Only.step (State.startHomes_only ..) (by decide) ?_
    exact .refl
  · exact .refl

theorem State.takeStop_only (s : State) (a : ℕ) (v : ℕ) : Only [.regs, .wick, .axes, .flagged] s (State.takeStop s a v) := by
  unfold State.takeStop
  refine Only.ite (fun _ => ?_) (fun _ => ?_)
  · refine Only.step (State.halt_only ..) (by decide) ?_
    refine Only.step (State.stopPair_only ..) (by decide) ?_
    exact .refl
  · exact .refl

theorem State.takeStopAll_only (s : State) (v : ℕ) : Only [.regs, .wick, .axes, .flagged] s (State.takeStopAll s v) := by
  unfold State.takeStopAll
  refine Only.ite (fun _ => ?_) (fun _ => ?_)
  · refine Only.step (State.endPurge_only ..) (by decide) ?_
    refine Only.step (State.halt_only ..) (by decide) ?_
    refine Only.step (State.stopAxes_only ..) (by decide) ?_
    exact .refl
  · exact .refl

theorem State.writeLimit_only (s : State) (a : ℕ) (key : ℕ) (v : ℕ) :
    Only [.regs, .wick, .axes, .flagged] s (State.writeLimit s a key v) := by
  unfold State.writeLimit
  dsimp only
  refine Only.ite (fun _ => ?_) (fun _ => ?_)
  · refine Only.step (State.replan_only ..) (by decide) ?_
    refine Only.step (State.setReg_only ..) (by decide) ?_
    exact .refl
  · refine Only.step (State.setReg_only ..) (by decide) ?_
    exact .refl

theorem State.writeAxis_only (s : State) (a : ℕ) (place : ℕ) (key : ℕ) (v : ℕ) :
    Only [.regs, .igrel, .slots, .taper, .wick, .axes, .ylog, .out, .flagged] s (State.writeAxis s a place key v) := by
  unfold State.writeAxis
  split
  · refine Only.step (State.moveTo_only ..) (by decide) ?_
    exact .refl
  · refine Only.step (State.writeLimit_only ..) (by decide) ?_
    exact .refl
  · refine Only.step (State.writeLimit_only ..) (by decide) ?_
    exact .refl
  · refine Only.step (State.writeLimit_only ..) (by decide) ?_
    exact .refl
  · refine Only.step (State.takeHome_only ..) (by decide) ?_
    exact .refl
  · refine Only.step (State.takeStop_only ..) (by decide) ?_
    exact .refl
  · refine Only.step (State.setReg_only ..) (by decide) ?_
    exact .refl

theorem State.writeMotion_only (s : State) (key : ℕ) (v : ℕ) :
    Only [.regs, .igrel, .slots, .taper, .wick, .axes, .ylog, .out, .flagged] s (State.writeMotion s key v) := by
  unfold State.writeMotion
  refine Only.ite (fun _ => ?_) (fun _ => ?_)
  · refine Only.step (State.takeStopAll_only ..) (by decide) ?_
    exact .refl
  · split
    · refine Only.step (State.writeAxis_only ..) (by decide) ?_
      exact .refl
    · refine Only.step (State.setReg_only ..) (by decide) ?_
      exact .refl

theorem State.moveKindleLast_only (s : State) (d : ℤ) : Only [.regs, .flash] s (State.moveKindleLast s d) := by
  unfold State.moveKindleLast
  refine Only.ite (fun _ => ?_) (fun _ => ?_)
  · exact .refl
  · dsimp only
    refine Only.step (State.setReg_only ..) (by decide) ?_
    refine Only.with_flash (by decide) ?_
    exact .refl

theorem State.takeStep_only (s : State) (d : ℤ) :
    Only [.regs, .clock, .igrel, .flash, .enc, .taper, .heads, .twin, .lantern, .led, .ptp, .ylog, .out, .flagged] s (State.takeStep s
      d) := by
  unfold State.takeStep
  refine Only.step (State.stepBeacon_only ..) (by decide) ?_
  refine Only.step (State.moveKindleLast_only ..) (by decide) ?_
  exact .refl

theorem State.setTime_only (s : State) (v : ℕ) :
    Only [.regs, .clock, .igrel, .flash, .enc, .taper, .heads, .twin, .lantern, .led, .ptp, .ylog, .out, .flagged] s (State.setTime s
      v) := by
  unfold State.setTime
  refine Only.step (State.setReg_only ..) (by decide) ?_
  refine Only.step (State.takeStep_only ..) (by decide) ?_
  exact .refl

theorem State.writeClock_only (s : State) (key : ℕ) (v : ℕ) :
    Only [.regs, .clock, .igrel, .flash, .enc, .taper, .heads, .twin, .lantern, .led, .ptp, .ylog, .out, .flagged] s (State.writeClock
      s key v) := by
  unfold State.writeClock
  refine Only.ite (fun _ => ?_) (fun _ => ?_)
  · refine Only.step (State.setTime_only ..) (by decide) ?_
    exact .refl
  · refine Only.ite (fun _ => ?_) (fun _ => ?_)
    · refine Only.step (State.takeStep_only ..) (by decide) ?_
      exact .refl
    · refine Only.step (State.setReg_only ..) (by decide) ?_
      exact .refl

theorem State.unfreezeLog_only (s : State) : Only [.regs, .ylog] s (State.unfreezeLog s) := by
  unfold State.unfreezeLog
  dsimp only
  refine Only.ite (fun _ => ?_) (fun _ => ?_)
  · refine Only.step (State.setReg_only ..) (by decide) ?_
    refine Only.step (State.ylogClose_only ..) (by decide) ?_
    exact .refl
  · refine Only.ite (fun _ => ?_) (fun _ => ?_)
    · refine Only.step (State.startFreeze_only ..) (by decide) ?_
      refine Only.step (State.setReg_only ..) (by decide) ?_
      refine Only.step (State.ylogClose_only ..) (by decide) ?_
      exact .refl
    · refine Only.step (State.setReg_only ..) (by decide) ?_
      refine Only.step (State.setReg_only ..) (by decide) ?_
      refine Only.step (State.ylogClose_only ..) (by decide) ?_
      exact .refl

theorem State.writeLog_only (s : State) (key : ℕ) (v : ℕ) : Only [.regs, .ylog, .flagged] s (State.writeLog s key v) := by
  unfold State.writeLog
  refine Only.ite (fun _ => ?_) (fun _ => ?_)
  · refine Only.ite (fun _ => ?_) (fun _ => ?_)
    · refine Only.step (State.freezeTrigger_only ..) (by decide) ?_
      exact .refl
    · exact .refl
  · refine Only.ite (fun _ => ?_) (fun _ => ?_)
    · refine Only.step (State.unfreezeLog_only ..) (by decide) ?_
      exact .refl
    · refine Only.step (State.setReg_only ..) (by decide) ?_
      exact .refl

theorem State.clearFlags_only (s : State) (key : ℕ) (v : ℕ) : Only [.regs, .loops] s (State.clearFlags s key v) := by
  unfold State.clearFlags
  dsimp only
  split
  · refine Only.ite (fun _ => ?_) (fun _ => ?_)
    · refine Only.step (State.setLoop_only ..) (by decide) ?_
      refine Only.step (State.clearFlag_only ..) (by decide) ?_
      exact .refl
    · refine Only.step (State.clearFlag_only ..) (by decide) ?_
      exact .refl
  · refine Only.step (State.clearFlag_only ..) (by decide) ?_
    exact .refl

theorem State.writeEffect_only (s : State) (key : ℕ) (v : ℕ) :
    Only [.regs, .doms, .mode, .clock, .rst, .fuses, .pins, .igrel, .flash, .raster, .decomp, .slots, .health, .enc, .taper, .heads,
      .twin, .lantern, .led, .chans, .check, .dram, .wick, .loops, .spi, .axes, .ptp, .cal, .ylog, .out, .flagged, .freeCtr] s
      (State.writeEffect s key v) := by
  unfold State.writeEffect
  dsimp only
  refine Only.ite (fun _ => ?_) (fun _ => ?_)
  · refine Only.step (State.clearFlags_only ..) (by decide) ?_
    exact .refl
  · refine Only.ite (fun _ => ?_) (fun _ => ?_)
    · refine Only.step (State.writeMode_only ..) (by decide) ?_
      exact .refl
    · refine Only.ite (fun _ => ?_) (fun _ => ?_)
      · refine Only.step (State.writeReset_only ..) (by decide) ?_
        exact .refl
      · refine Only.ite (fun _ => ?_) (fun _ => ?_)
        · refine Only.step (State.saveConfig_only ..) (by decide) ?_
          exact .refl
        · refine Only.ite (fun _ => ?_) (fun _ => ?_)
          · refine Only.step (State.clearFsiMin_only ..) (by decide) ?_
            exact .refl
          · refine Only.ite (fun _ => ?_) (fun _ => ?_)
            · refine Only.step (State.takeFlush_only ..) (by decide) ?_
              exact .refl
            · refine Only.ite (fun _ => ?_) (fun _ => ?_)
              · refine Only.step (State.writeTaper_only ..) (by decide) ?_
                exact .refl
              · refine Only.ite (fun _ => ?_) (fun _ => ?_)
                · refine Only.step (State.writeLane_only ..) (by decide) ?_
                  exact .refl
                · refine Only.ite (fun _ => ?_) (fun _ => ?_)
                  · refine Only.step (State.requestSwap_only ..) (by decide) ?_
                    exact .refl
                  · refine Only.ite (fun _ => ?_) (fun _ => ?_)
                    · refine Only.step (State.writeCamera_only ..) (by decide) ?_
                      exact .refl
                    · refine Only.ite (fun _ => ?_) (fun _ => ?_)
                      · refine Only.step (State.enableScrub_only ..) (by decide) ?_
                        exact .refl
                      · refine Only.ite (fun _ => ?_) (fun _ => ?_)
                        · refine Only.step (State.selectFreq_only ..) (by decide) ?_
                          exact .refl
                        · refine Only.ite (fun _ => ?_) (fun _ => ?_)
                          · refine Only.step (State.writeMotion_only ..) (by decide) ?_
                            exact .refl
                          · refine Only.ite (fun _ => ?_) (fun _ => ?_)
                            · refine Only.step (State.writeClock_only ..) (by decide) ?_
                              exact .refl
                            · refine Only.ite (fun _ => ?_) (fun _ => ?_)
                              · refine Only.step (State.writeLog_only ..) (by decide) ?_
                                exact .refl
                              · split
                                · refine Only.step (State.writeLoop_only ..) (by decide) ?_
                                  exact .refl
                                · refine Only.step (State.setReg_only ..) (by decide) ?_
                                  exact .refl

theorem State.forwardWrite_only (s : State) (key : ℕ) (value : List Byte) : Only [.out] s (State.forwardWrite s key value) := by
  unfold State.forwardWrite
  refine Only.ite (fun _ => ?_) (fun _ => ?_)
  · split
    · refine Only.step (State.emit_only ..) (by decide) ?_
      exact .refl
    · exact .refl
  · exact .refl

theorem State.acceptWrite_only (s : State) (h : Hdr) (payload : List Byte) (r : Dict.ObjRow) (w : WriteReq) :
    Only [.regs, .doms, .mode, .clock, .rst, .fuses, .pins, .igrel, .flash, .raster, .decomp, .slots, .health, .enc, .taper, .heads,
      .twin, .lantern, .led, .chans, .check, .dram, .wick, .loops, .spi, .axes, .ptp, .cal, .ylog, .out, .flagged, .freeCtr] s
      (State.acceptWrite s h payload r w) := by
  unfold State.acceptWrite
  dsimp only
  refine Only.ite (fun _ => ?_) (fun _ => ?_)
  · refine Only.step (State.startFuse_only ..) (by decide) ?_
    exact .refl
  · refine Only.step (State.answer_only ..) (by decide) ?_
    refine Only.step (State.forwardWrite_only ..) (by decide) ?_
    refine Only.step (State.writeEffect_only ..) (by decide) ?_
    exact .refl

theorem State.refuse_only (s : State) (h : Hdr) (ty : ℕ) (payload : List Byte) (key : ℕ) (b : Bad) :
    Only [.regs, .igrel, .ylog, .out, .flagged, .freeCtr] s (State.refuse s h ty payload key b) := by
  unfold State.refuse
  dsimp only
  refine Only.step (State.answer_only ..) (by decide) ?_
  split
  · dsimp only
    refine Only.with_freeCtr (by decide) ?_
    refine Only.ite (fun _ => ?_) (fun _ => ?_)
    · refine Only.step (State.conflict_only ..) (by decide) ?_
      exact .refl
    · exact .refl
  · dsimp only
    refine Only.ite (fun _ => ?_) (fun _ => ?_)
    · refine Only.step (State.conflict_only ..) (by decide) ?_
      exact .refl
    · exact .refl

theorem State.runWrite_only (s : State) (h : Hdr) (level : ℕ) (payload : List Byte) (w : WriteReq) :
    Only [.regs, .doms, .mode, .clock, .rst, .fuses, .pins, .igrel, .flash, .raster, .decomp, .slots, .health, .enc, .taper, .heads,
      .twin, .lantern, .led, .chans, .check, .dram, .wick, .loops, .spi, .axes, .ptp, .cal, .ylog, .out, .flagged, .freeCtr] s
      (State.runWrite s h level payload w) := by
  unfold State.runWrite
  split
  · refine Only.step (State.refuse_only ..) (by decide) ?_
    exact .refl
  · split
    · refine Only.step (State.refuse_only ..) (by decide) ?_
      exact .refl
    · refine Only.step (State.acceptWrite_only ..) (by decide) ?_
      exact .refl

end Sys2Proof.Machine
end

