-- ==== Sys2Proof/Laws/FramesBlocksToCommands.lean ====
section
/-! SUPPORT. The frame of every operation and meaning of Machine/Blocks.lean, Igrel.lean, Requests.lean, Commands.lean: the only fields of the state that
it can change. -/

namespace Sys2Proof.Machine

/-! ### Blocks -/

theorem State.takeRingMap_only (s : State) (b : List Byte) : Only [.regs, .doms] s (State.takeRingMap s b) := by
  unfold State.takeRingMap
  refine Only.step (State.ringCredits_only ..) (by decide) ?_
  refine Only.step (State.setDom_only ..) (by decide) ?_
  exact .refl

theorem State.takeTrim_only (s : State) (b : List Byte) : Only [.doms, .trimGen, .heads, .out] s (State.takeTrim s b) := by
  unfold State.takeTrim
  dsimp only
  refine Only.step (State.sendTrims_only ..) (by decide) ?_
  refine Only.foldl (fun t x => ?_) ?_
  · refine Only.step (State.setHead_only ..) (by decide) ?_
    exact .refl
  · refine Only.with_trimGen (by decide) ?_
    refine Only.step (State.setDom_only ..) (by decide) ?_
    exact .refl

theorem State.takeUpload_only (s : State) (b : List Byte) : Only [.chans, .dram] s (State.takeUpload s b) := by
  unfold State.takeUpload
  split
  · refine Only.step (State.startUpload_only ..) (by decide) ?_
    exact .refl
  · exact .refl

theorem State.takeScan_only (s : State) (b : List Byte) : Only [.regs, .check, .dram] s (State.takeScan s b) := by
  unfold State.takeScan
  split
  · refine Only.step (State.queueScan_only ..) (by decide) ?_
    exact .refl
  · exact .refl

theorem State.programSlot_only (s : State) (base : ℕ) (b : List Byte) : Only [.out] s (State.programSlot s base b) := by
  unfold State.programSlot
  dsimp only
  refine Only.step (State.emit_only ..) (by decide) ?_
  refine Only.step (State.emit_only ..) (by decide) ?_
  refine Only.step (State.emitAll_only ..) (by decide) ?_
  exact .refl

theorem State.takeContent_only (s : State) (key : ℕ) (b : List Byte) :
    Only [.regs, .doms, .flash, .decomp, .trimGen, .heads, .lantern, .chans, .check, .dram, .out] s (State.takeContent s key b) := by
  unfold State.takeContent
  dsimp only
  refine Only.ite (fun _ => ?_) (fun _ => ?_)
  · refine Only.step (State.takeRingMap_only ..) (by decide) ?_
    exact .refl
  · refine Only.ite (fun _ => ?_) (fun _ => ?_)
    · refine Only.with_flash (by decide) ?_
      refine Only.step (State.programSlot_only ..) (by decide) ?_
      exact .refl
    · refine Only.ite (fun _ => ?_) (fun _ => ?_)
      · refine Only.with_flash (by decide) ?_
        refine Only.step (State.programSlot_only ..) (by decide) ?_
        exact .refl
      · refine Only.ite (fun _ => ?_) (fun _ => ?_)
        · refine Only.step (State.takeImage_only ..) (by decide) ?_
          exact .refl
        · refine Only.ite (fun _ => ?_) (fun _ => ?_)
          · refine Only.step (State.takeTrim_only ..) (by decide) ?_
            exact .refl
          · refine Only.ite (fun _ => ?_) (fun _ => ?_)
            · refine Only.step (State.queueUart_only ..) (by decide) ?_
              exact .refl
            · refine Only.ite (fun _ => ?_) (fun _ => ?_)
              · refine Only.step (State.takeUpload_only ..) (by decide) ?_
                exact .refl
              · refine Only.ite (fun _ => ?_) (fun _ => ?_)
                · refine Only.step (State.takeScan_only ..) (by decide) ?_
                  exact .refl
                · split
                  · refine Only.step (State.setDom_only ..) (by decide) ?_
                    exact .refl
                  · refine Only.step (State.setDom_only ..) (by decide) ?_
                    exact .refl

/-! ### Igrel -/

theorem State.dropPacket_only (s : State) : Only [.regs] s (State.dropPacket s) := by
  unfold State.dropPacket
  refine Only.ite (fun _ => ?_) (fun _ => ?_)
  · refine Only.step (State.bump_only ..) (by decide) ?_
    exact .refl
  · exact .refl

theorem State.seeVpp_only (s : State) (vppOk : Bool) : Only [.fuses] s (State.seeVpp s vppOk) := by
  unfold State.seeVpp
  refine Only.with_fuses (by decide) ?_
  exact .refl

theorem State.noteOverload_only (s : State) : Only [.regs, .igrel, .ylog, .out, .flagged] s (State.noteOverload s) := by
  unfold State.noteOverload
  dsimp only
  refine Only.ite (fun _ => ?_) (fun _ => ?_)
  · refine Only.step (State.logEvent_only ..) (by decide) ?_
    refine Only.with_igrel (by decide) ?_
    exact .refl
  · exact .refl

theorem State.answerBusy_only (s : State) (h : Hdr) : Only [.regs, .igrel, .ylog, .out, .flagged, .freeCtr] s (State.answerBusy s h) := by
  unfold State.answerBusy
  dsimp only
  refine Only.step (State.noteOverload_only ..) (by decide) ?_
  refine Only.step (State.respond_only ..) (by decide) ?_
  refine Only.step (State.bump_only ..) (by decide) ?_
  refine Only.with_freeCtr (by decide) ?_
  exact .refl

theorem State.badLayout_only (s : State) (h : Hdr) (ty : ℕ) (payload : List Byte) :
    Only [.igrel, .out] s (State.badLayout s h ty payload) := by
  unfold State.badLayout
  refine Only.step (State.answer_only ..) (by decide) ?_
  exact .refl

theorem State.inSession_only {d : List Fld} (hd : mask [.igrel, .regs] ||| mask d = mask d) (s : State) (h : Hdr)
    (run : Session → State → State) (hr : ∀ x t, Only d t (run x t)) : Only d s (s.inSession h run) := by
  unfold State.inSession
  split
  · exact Only.mono (State.dropPacket_only ..) (mask_trans (by decide) hd)
  · split
    · refine Only.trans (hr ..) ?_
      exact Only.mono (Only.with_igrel (d := [.igrel, .regs]) (by decide) .refl) hd
    · exact Only.mono (State.dropPacket_only ..) (mask_trans (by decide) hd)

theorem State.inSlot_only {d : List Fld} (hd : mask [.regs, .igrel, .ylog, .out, .flagged, .freeCtr] ||| mask d = mask d) (s : State)
      (h : Hdr) (payload : List Byte)
    (noWait : Session → Bool) (run : Session → State → State) (hr : ∀ x t, Only d t (run x t)) :
    Only d s (s.inSlot h payload noWait run) := by
  unfold State.inSlot
  refine State.inSession_only (mask_trans (by decide) hd) _ _ _ (fun x t => ?_)
  split
  · exact Only.mono (State.respond_only ..) (mask_trans (by decide) hd)
  · split
    · exact Only.mono (State.answerBusy_only ..) hd
    · exact hr ..

theorem State.runRead_only (s : State) (h : Hdr) (payload : List Byte) :
    Only [.regs, .igrel, .ylog, .out, .flagged, .freeCtr] s (State.runRead s h payload) := by
  unfold State.runRead
  split
  · refine Only.step (State.badLayout_only ..) (by decide) ?_
    exact .refl
  · split
    refine Only.step (State.answer_only ..) (by decide) ?_
    refine Only.of_snd (by assumption) ?_
    refine Only.step (State.readReply_only ..) (by decide) ?_
    exact .refl

theorem State.runWriteOf_only (s : State) (h : Hdr) (level : ℕ) (payload : List Byte) :
    Only [.regs, .doms, .mode, .clock, .rst, .fuses, .pins, .igrel, .flash, .raster, .decomp, .slots, .health, .enc, .taper, .heads,
      .twin, .lantern, .led, .chans, .check, .dram, .wick, .loops, .spi, .axes, .ptp, .cal, .ylog, .out, .flagged, .freeCtr] s
      (State.runWriteOf s h level payload) := by
  unfold State.runWriteOf
  split
  · refine Only.step (State.badLayout_only ..) (by decide) ?_
    exact .refl
  · refine Only.step (State.runWrite_only ..) (by decide) ?_
    exact .refl

theorem State.runDescribe_only (s : State) (h : Hdr) (payload : List Byte) :
    Only [.regs, .igrel, .ylog, .out, .flagged, .freeCtr] s (State.runDescribe s h payload) := by
  unfold State.runDescribe
  split
  · refine Only.step (State.badLayout_only ..) (by decide) ?_
    exact .refl
  · split
    · refine Only.step (State.refuse_only ..) (by decide) ?_
      exact .refl
    · refine Only.ite (fun _ => ?_) (fun _ => ?_)
      · refine Only.step (State.refuse_only ..) (by decide) ?_
        exact .refl
      · refine Only.step (State.answer_only ..) (by decide) ?_
        exact .refl

theorem State.modTransfer_only (s : State) (sess : ℕ) (tag : ℕ) (f : Transfer → Transfer) :
    Only [.igrel] s (State.modTransfer s sess tag f) := by
  unfold State.modTransfer
  refine Only.with_igrel (by decide) ?_
  exact .refl

theorem State.dropTransfer_only (s : State) (sess : ℕ) (tag : ℕ) : Only [.igrel] s (State.dropTransfer s sess tag) := by
  unfold State.dropTransfer
  refine Only.with_igrel (by decide) ?_
  exact .refl

theorem State.sendBlock_only (s : State) (h : Hdr) (ty : ℕ) (payload : List Byte) :
    Only [.igrel, .out] s (State.sendBlock s h ty payload) := by
  unfold State.sendBlock
  refine Only.ite (fun _ => ?_) (fun _ => ?_)
  · refine Only.step (State.emit_only ..) (by decide) ?_
    exact .refl
  · refine Only.step (State.sendIn_only ..) (by decide) ?_
    exact .refl

theorem State.sendSegments_only (s : State) (h : Hdr) (data : List Byte) (x3 : ℕ) (x4 : ℕ) :
    Only [.igrel, .out] s (State.sendSegments s h data x3 x4) := by
  induction x4 generalizing s h data x3 with | zero => ?_ | succ k ih => ?_
  · simp only [State.sendSegments]
    exact .refl
  · simp only [State.sendSegments]
    refine Only.trans (ih ..) ?_
    refine Only.step (State.sendBlock_only ..) (by decide) ?_
    exact .refl

theorem State.sendWindow_only (s : State) (h : Hdr) (t : Transfer) (i : ℕ) : Only [.igrel, .out] s (State.sendWindow s h t i) := by
  unfold State.sendWindow
  dsimp only
  refine Only.step (State.sendSegments_only ..) (by decide) ?_
  refine Only.step (State.modTransfer_only ..) (by decide) ?_
  exact .refl

theorem State.openTransfer_only (s : State) (h : Hdr) (payload : List Byte) (b : BlockReq) :
    Only [.igrel, .out] s (State.openTransfer s h payload b) := by
  unfold State.openTransfer
  dsimp only
  refine Only.ite (fun _ => ?_) (fun _ => ?_)
  · refine Only.step (State.answer_only ..) (by decide) ?_
    refine Only.step (State.dropTransfer_only ..) (by decide) ?_
    exact .refl
  · refine Only.ite (fun _ => ?_) (fun _ => ?_)
    · refine Only.step (State.sendWindow_only ..) (by decide) ?_
      refine Only.with_igrel (by decide) ?_
      refine Only.step (State.answer_only ..) (by decide) ?_
      refine Only.step (State.dropTransfer_only ..) (by decide) ?_
      exact .refl
    · refine Only.with_igrel (by decide) ?_
      refine Only.step (State.answer_only ..) (by decide) ?_
      refine Only.step (State.dropTransfer_only ..) (by decide) ?_
      exact .refl

theorem State.runBlockStart_only (s : State) (h : Hdr) (level : ℕ) (payload : List Byte) :
    Only [.regs, .igrel, .ylog, .out, .flagged, .freeCtr] s (State.runBlockStart s h level payload) := by
  unfold State.runBlockStart
  split
  · refine Only.step (State.badLayout_only ..) (by decide) ?_
    exact .refl
  · split
    · refine Only.step (State.refuse_only ..) (by decide) ?_
      exact .refl
    · split
      · refine Only.step (State.refuse_only ..) (by decide) ?_
        exact .refl
      · refine Only.step (State.openTransfer_only ..) (by decide) ?_
        exact .refl

theorem State.outOfWindow_only (s : State) (h : Hdr) (t : Transfer) : Only [.igrel, .out] s (State.outOfWindow s h t) := by
  unfold State.outOfWindow
  refine Only.ite (fun _ => ?_) (fun _ => ?_)
  · exact .refl
  · refine Only.step (State.respond_only ..) (by decide) ?_
    refine Only.step (State.modTransfer_only ..) (by decide) ?_
    exact .refl

theorem State.runSegment_only (s : State) (h : Hdr) (payload : List Byte) : Only [.igrel, .out] s (State.runSegment s h payload) := by
  unfold State.runSegment
  split
  · refine Only.step (State.respond_only ..) (by decide) ?_
    exact .refl
  · split
    · refine Only.step (State.respond_only ..) (by decide) ?_
      exact .refl
    · refine Only.ite (fun _ => ?_) (fun _ => ?_)
      · refine Only.step (State.respond_only ..) (by decide) ?_
        exact .refl
      · refine Only.ite (fun _ => ?_) (fun _ => ?_)
        · refine Only.step (State.outOfWindow_only ..) (by decide) ?_
          exact .refl
        · refine Only.ite (fun _ => ?_) (fun _ => ?_)
          · exact .refl
          · dsimp only
            refine Only.ite (fun _ => ?_) (fun _ => ?_)
            · refine Only.step (State.sendBlock_only ..) (by decide) ?_
              refine Only.step (State.modTransfer_only ..) (by decide) ?_
              exact .refl
            · refine Only.step (State.modTransfer_only ..) (by decide) ?_
              exact .refl

theorem State.runAck_only (s : State) (h : Hdr) (payload : List Byte) : Only [.igrel, .out] s (State.runAck s h payload) := by
  unfold State.runAck
  split
  · refine Only.step (State.respond_only ..) (by decide) ?_
    exact .refl
  · split
    · exact .refl
    · refine Only.ite (fun _ => ?_) (fun _ => ?_)
      · exact .refl
      · refine Only.ite (fun _ => ?_) (fun _ => ?_)
        · refine Only.step (State.dropTransfer_only ..) (by decide) ?_
          exact .refl
        · refine Only.step (State.sendWindow_only ..) (by decide) ?_
          refine Only.step (State.modTransfer_only ..) (by decide) ?_
          exact .refl

theorem State.acceptBlock_only (s : State) (h : Hdr) (payload : List Byte) (t : Transfer) :
    Only [.regs, .doms, .igrel, .flash, .decomp, .slots, .health, .trimGen, .taper, .heads, .twin, .lantern, .chans, .check, .dram,
      .wick, .ylog, .out, .flagged] s (State.acceptBlock s h payload t) := by
  unfold State.acceptBlock
  refine Only.ite (fun _ => ?_) (fun _ => ?_)
  · dsimp only
    refine Only.step (State.publish_only ..) (by decide) ?_
    refine Only.with_igrel (by decide) ?_
    exact .refl
  · refine Only.step (State.answer_only ..) (by decide) ?_
    refine Only.step (State.forwardWrite_only ..) (by decide) ?_
    refine Only.step (State.takeContent_only ..) (by decide) ?_
    exact .refl

theorem State.runBlockEnd_only (s : State) (h : Hdr) (payload : List Byte) :
    Only [.regs, .doms, .igrel, .flash, .decomp, .slots, .health, .trimGen, .taper, .heads, .twin, .lantern, .chans, .check, .dram,
      .wick, .ylog, .out, .flagged, .freeCtr] s (State.runBlockEnd s h payload) := by
  unfold State.runBlockEnd
  refine Only.ite (fun _ => ?_) (fun _ => ?_)
  · refine Only.step (State.badLayout_only ..) (by decide) ?_
    exact .refl
  · split
    · refine Only.step (State.answer_only ..) (by decide) ?_
      exact .refl
    · dsimp only
      refine Only.ite (fun _ => ?_) (fun _ => ?_)
      · refine Only.step (State.answer_only ..) (by decide) ?_
        refine Only.step (State.dropTransfer_only ..) (by decide) ?_
        exact .refl
      · split
        · refine Only.step (State.refuse_only ..) (by decide) ?_
          refine Only.step (State.dropTransfer_only ..) (by decide) ?_
          exact .refl
        · refine Only.step (State.acceptBlock_only ..) (by decide) ?_
          refine Only.step (State.dropTransfer_only ..) (by decide) ?_
          exact .refl

theorem State.runSubscribe_only (s : State) (h : Hdr) (payload : List Byte) : Only [.igrel, .out] s (State.runSubscribe s h payload) := by
  unfold State.runSubscribe
  split
  · refine Only.step (State.badLayout_only ..) (by decide) ?_
    exact .refl
  · refine Only.ite (fun _ => ?_) (fun _ => ?_)
    · refine Only.step (State.answer_only ..) (by decide) ?_
      exact .refl
    · dsimp only
      refine Only.step (State.answer_only ..) (by decide) ?_
      refine Only.with_igrel (by decide) ?_
      exact .refl

theorem State.telemetry_only (s : State) (x : Session) (u : Subscription) (canSend : Bool) :
    Only [.regs, .igrel, .ylog, .out, .flagged, .freeCtr] s (State.telemetry s x u canSend) := by
  unfold State.telemetry
  dsimp only
  refine Only.ite (fun _ => ?_) (fun _ => ?_)
  · refine Only.step (State.sendIn_only ..) (by decide) ?_
    refine Only.with_igrel (by decide) ?_
    refine Only.step (State.readReply_only ..) (by decide) ?_
    exact .refl
  · refine Only.with_igrel (by decide) ?_
    exact .refl

theorem State.closeSession_only (s : State) (id : ℕ) : Only [.igrel] s (State.closeSession s id) := by
  unfold State.closeSession
  refine Only.with_igrel (by decide) ?_
  exact .refl

theorem State.answerPlain_only (s : State) (dst : Src) (ty : ℕ) (sess : ℕ) (tag : ℕ) (payload : List Byte) :
    Only [.out] s (State.answerPlain s dst ty sess tag payload) := by
  unfold State.answerPlain
  refine Only.step (State.emit_only ..) (by decide) ?_
  exact .refl

theorem State.reserve_only (s : State) (src : Src) (tag : ℕ) (level : ℕ) (nonce : List Byte) :
    Only [.regs, .igrel, .out, .freeCtr] s (State.reserve s src tag level nonce) := by
  unfold State.reserve
  refine Only.ite (fun _ => ?_) (fun _ => ?_)
  · exact .refl
  · refine Only.ite (fun _ => ?_) (fun _ => ?_)
    · refine Only.step (State.dropPacket_only ..) (by decide) ?_
      exact .refl
    · split
      · refine Only.step (State.answerPlain_only ..) (by decide) ?_
        exact .refl
      · split
        dsimp only
        refine Only.step (State.answerPlain_only ..) (by decide) ?_
        refine Only.with_igrel (by decide) ?_
        refine Only.of_snd (by assumption) ?_
        refine Only.step (State.fresh_only ..) (by decide) ?_
        exact .refl

theorem State.failProof_only (s : State) (src : Src) (tag : ℕ) (id : ℕ) :
    Only [.regs, .igrel, .ylog, .out, .flagged] s (State.failProof s src tag id) := by
  unfold State.failProof
  dsimp only
  refine Only.step (State.answerPlain_only ..) (by decide) ?_
  refine Only.step (State.logEvent_only ..) (by decide) ?_
  refine Only.step (State.bump_only ..) (by decide) ?_
  refine Only.with_igrel (by decide) ?_
  refine Only.step (State.closeSession_only ..) (by decide) ?_
  exact .refl

theorem State.openSession_only (s : State) (x : Session) (tag : ℕ) : Only [.igrel, .out] s (State.openSession s x tag) := by
  unfold State.openSession
  dsimp only
  refine Only.step (State.emit_only ..) (by decide) ?_
  refine Only.with_igrel (by decide) ?_
  exact .refl

theorem State.prove_only (s : State) (src : Src) (tag : ℕ) (id : ℕ) (proof : List Byte) :
    Only [.regs, .igrel, .ylog, .out, .flagged] s (State.prove s src tag id proof) := by
  unfold State.prove
  refine Only.ite (fun _ => ?_) (fun _ => ?_)
  · refine Only.step (State.dropPacket_only ..) (by decide) ?_
    exact .refl
  · split
    · refine Only.step (State.dropPacket_only ..) (by decide) ?_
      exact .refl
    · refine Only.ite (fun _ => ?_) (fun _ => ?_)
      · refine Only.step (State.openSession_only ..) (by decide) ?_
        exact .refl
      · refine Only.step (State.failProof_only ..) (by decide) ?_
        exact .refl

theorem State.recoverRefuse_only (s : State) (h : Hdr) (key : ℕ) : Only [.igrel, .out] s (State.recoverRefuse s h key) := by
  unfold State.recoverRefuse
  refine Only.step (State.respond_only ..) (by decide) ?_
  exact .refl

theorem State.recoverBusy_only (s : State) (h : Hdr) : Only [.igrel, .out, .freeCtr] s (State.recoverBusy s h) := by
  unfold State.recoverBusy
  dsimp only
  refine Only.step (State.respond_only ..) (by decide) ?_
  refine Only.with_freeCtr (by decide) ?_
  exact .refl

theorem State.refusePlain_only (s : State) (src : Src) (tag : ℕ) : Only [.igrel, .out, .freeCtr] s (State.refusePlain s src tag) := by
  unfold State.refusePlain
  dsimp only
  refine Only.ite (fun _ => ?_) (fun _ => ?_)
  · refine Only.step (State.recoverRefuse_only ..) (by decide) ?_
    exact .refl
  · refine Only.step (State.recoverBusy_only ..) (by decide) ?_
    exact .refl

theorem State.recoverEntries_only (s : State) (x1 : List ℕ) :
    Only [.regs, .igrel, .ylog, .out, .flagged, .freeCtr] s (State.recoverEntries s x1).2 := by
  induction x1 generalizing s with | nil => ?_ | cons y l ih => ?_
  · simp only [State.recoverEntries]
    exact .refl
  · simp only [State.recoverEntries]
    refine Only.trans (ih ..) ?_
    split
    · refine Only.step (State.readEntry_only ..) (by decide) ?_
      exact .refl
    · dsimp only
      exact .refl

theorem State.recoverRead_only (s : State) (h : Hdr) (payload : List Byte) :
    Only [.regs, .igrel, .ylog, .out, .flagged, .freeCtr] s (State.recoverRead s h payload) := by
  unfold State.recoverRead
  split
  · refine Only.step (State.recoverRefuse_only ..) (by decide) ?_
    exact .refl
  · split
    refine Only.step (State.respond_only ..) (by decide) ?_
    refine Only.of_snd (by assumption) ?_
    refine Only.step (State.recoverEntries_only ..) (by decide) ?_
    exact .refl

theorem State.recoverWrite_only (s : State) (h : Hdr) (payload : List Byte) :
    Only [.rst, .igrel, .out] s (State.recoverWrite s h payload) := by
  unfold State.recoverWrite
  split
  · refine Only.step (State.recoverRefuse_only ..) (by decide) ?_
    exact .refl
  · refine Only.ite (fun _ => ?_) (fun _ => ?_)
    · refine Only.step (State.respond_only ..) (by decide) ?_
      refine Only.with_rst (by decide) ?_
      exact .refl
    · refine Only.step (State.recoverRefuse_only ..) (by decide) ?_
      exact .refl

theorem State.recoverStart_only (s : State) (h : Hdr) (payload : List Byte) : Only [.igrel, .out] s (State.recoverStart s h payload) := by
  unfold State.recoverStart
  split
  · refine Only.step (State.recoverRefuse_only ..) (by decide) ?_
    exact .refl
  · refine Only.ite (fun _ => ?_) (fun _ => ?_)
    · refine Only.step (State.openTransfer_only ..) (by decide) ?_
      exact .refl
    · refine Only.step (State.recoverRefuse_only ..) (by decide) ?_
      exact .refl

theorem State.recover_only (s : State) (h : Hdr) (ty : ℕ) (payload : List Byte) :
    Only [.regs, .doms, .rst, .igrel, .flash, .decomp, .slots, .health, .trimGen, .taper, .heads, .twin, .lantern, .chans, .check,
      .dram, .wick, .ylog, .out, .flagged, .freeCtr] s (State.recover s h ty payload) := by
  unfold State.recover
  refine Only.ite (fun _ => ?_) (fun _ => ?_)
  · exact .refl
  · split
    · refine Only.ite (fun _ => ?_) (fun _ => ?_)
      · refine Only.step (State.recoverRefuse_only ..) (by decide) ?_
        exact .refl
      · refine Only.step (State.runSegment_only ..) (by decide) ?_
        exact .refl
    · refine Only.ite (fun _ => ?_) (fun _ => ?_)
      · refine Only.step (State.recoverRefuse_only ..) (by decide) ?_
        exact .refl
      · refine Only.step (State.runBlockEnd_only ..) (by decide) ?_
        exact .refl
    · refine Only.ite (fun _ => ?_) (fun _ => ?_)
      · refine Only.step (State.recoverBusy_only ..) (by decide) ?_
        exact .refl
      · split
        · refine Only.step (State.recoverRead_only ..) (by decide) ?_
          exact .refl
        · refine Only.step (State.recoverWrite_only ..) (by decide) ?_
          exact .refl
        · refine Only.step (State.recoverStart_only ..) (by decide) ?_
          exact .refl
        · refine Only.step (State.recoverRefuse_only ..) (by decide) ?_
          exact .refl

theorem State.receive_only (s : State) (h : Hdr) (ty : Nat) (payload : List Byte) :
    Only [.regs, .doms, .mode, .clock, .rst, .fuses, .pins, .igrel, .flash, .raster, .decomp, .slots, .health, .trimGen, .enc, .taper,
      .heads, .twin, .lantern, .led, .chans, .check, .dram, .wick, .loops, .spi, .axes, .ptp, .cal, .ylog, .out, .flagged, .freeCtr] s
      (s.receive h ty payload) := by
  unfold State.receive
  split
  · exact Only.mono (State.recover_only ..) (by decide)
  · split
    · exact .refl
    · split
      · exact State.inSession_only (by decide) _ _ _ (fun x t => Only.ite (fun _ => Only.mono (State.closeSession_only ..) (by decide)) (fun _ => Only.mono (State.badLayout_only ..) (by decide)))
      · exact State.inSlot_only (by decide) _ _ _ _ _ (fun x t => Only.mono (State.runRead_only ..) (by decide))
      · exact State.inSlot_only (by decide) _ _ _ _ _ (fun x t => Only.mono (State.runWriteOf_only ..) (by decide))
      · exact State.inSlot_only (by decide) _ _ _ _ _ (fun x t => Only.mono (State.runDescribe_only ..) (by decide))
      · exact State.inSlot_only (by decide) _ _ _ _ _ (fun x t => Only.mono (State.runBlockStart_only ..) (by decide))
      · exact State.inSession_only (by decide) _ _ _ (fun x t => Only.mono (State.runSegment_only ..) (by decide))
      · exact State.inSession_only (by decide) _ _ _ (fun x t => Only.mono (State.runAck_only ..) (by decide))
      · exact State.inSlot_only (by decide) _ _ _ _ _ (fun x t => Only.mono (State.runBlockEnd_only ..) (by decide))
      · exact State.inSlot_only (by decide) _ _ _ _ _ (fun x t => Only.mono (State.runSubscribe_only ..) (by decide))
      · exact Only.mono (State.dropPacket_only ..) (by decide)

theorem State.takeHello_only (s : State) (src : Src) (tag : ℕ) (level : ℕ) (nonce : List Byte) :
    Only [.regs, .igrel, .out, .freeCtr] s (State.takeHello s src tag level nonce) := by
  unfold State.takeHello
  refine Only.ite (fun _ => ?_) (fun _ => ?_)
  · refine Only.step (State.refusePlain_only ..) (by decide) ?_
    exact .refl
  · refine Only.ite (fun _ => ?_) (fun _ => ?_)
    · refine Only.step (State.reserve_only ..) (by decide) ?_
      exact .refl
    · exact .refl

theorem State.takeProof_only (s : State) (src : Src) (tag : ℕ) (sess : ℕ) (bytes : List Byte) :
    Only [.regs, .igrel, .ylog, .out, .flagged, .freeCtr] s (State.takeProof s src tag sess bytes) := by
  unfold State.takeProof
  refine Only.ite (fun _ => ?_) (fun _ => ?_)
  · refine Only.step (State.refusePlain_only ..) (by decide) ?_
    exact .refl
  · refine Only.ite (fun _ => ?_) (fun _ => ?_)
    · refine Only.step (State.prove_only ..) (by decide) ?_
      exact .refl
    · exact .refl

theorem State.takeDatagram_only (s : State) (d : Datagram) :
    Only [.regs, .doms, .mode, .clock, .rst, .fuses, .pins, .igrel, .flash, .raster, .decomp, .slots, .health, .trimGen, .enc, .taper,
      .heads, .twin, .lantern, .led, .chans, .check, .dram, .wick, .loops, .spi, .axes, .ptp, .cal, .ylog, .out, .flagged, .freeCtr] s
      (State.takeDatagram s d) := by
  unfold State.takeDatagram
  dsimp only
  refine Only.ite (fun _ => ?_) (fun _ => ?_)
  · exact .refl
  · refine Only.ite (fun _ => ?_) (fun _ => ?_)
    · refine Only.step (State.dropPacket_only ..) (by decide) ?_
      exact .refl
    · refine Only.ite (fun _ => ?_) (fun _ => ?_)
      · refine Only.ite (fun _ => ?_) (fun _ => ?_)
        · refine Only.step (State.takeHello_only ..) (by decide) ?_
          exact .refl
        · refine Only.step (State.dropPacket_only ..) (by decide) ?_
          exact .refl
      · refine Only.ite (fun _ => ?_) (fun _ => ?_)
        · refine Only.ite (fun _ => ?_) (fun _ => ?_)
          · refine Only.step (State.takeProof_only ..) (by decide) ?_
            exact .refl
          · refine Only.step (State.dropPacket_only ..) (by decide) ?_
            exact .refl
        · refine Only.ite (fun _ => ?_) (fun _ => ?_)
          · refine Only.step (State.dropPacket_only ..) (by decide) ?_
            exact .refl
          · refine Only.step (State.receive_only ..) (by decide) ?_
            exact .refl

/-! ### Requests -/

theorem execIgrelDrop_only (d : Datagram) (s : State) :
    OnlyNext [.regs, .doms, .mode, .clock, .rst, .fuses, .pins, .igrel, .flash, .raster, .decomp, .slots, .health, .trimGen, .enc,
      .taper, .heads, .twin, .lantern, .led, .chans, .check, .dram, .wick, .loops, .spi, .axes, .ptp, .cal, .ylog, .out, .flagged,
      .freeCtr] s (execIgrelDrop d s) := by
  unfold execIgrelDrop
  refine OnlyNext.next ?_
  refine Only.step (State.takeDatagram_only ..) (by decide) ?_
  exact .refl

theorem execHello_only (src : Src) (tag : ℕ) (level : ℕ) (nonce : List Byte) (s : State) :
    OnlyNext [.regs, .igrel, .out, .freeCtr] s (execHello src tag level nonce s) := by
  unfold execHello
  refine OnlyNext.next ?_
  refine Only.step (State.takeHello_only ..) (by decide) ?_
  exact .refl

theorem execProof_only (src : Src) (tag : ℕ) (sess : ℕ) (bytes : List Byte) (s : State) :
    OnlyNext [.regs, .igrel, .ylog, .out, .flagged, .freeCtr] s (execProof src tag sess bytes s) := by
  unfold execProof
  refine OnlyNext.next ?_
  refine Only.step (State.takeProof_only ..) (by decide) ?_
  exact .refl

theorem execReservationLapse_only (sess : ℕ) (s : State) : OnlyNext [.igrel] s (execReservationLapse sess s) := by
  unfold execReservationLapse
  refine OnlyNext.ite (fun _ => ?_) (fun _ => ?_)
  · refine OnlyNext.next ?_
    refine Only.step (State.closeSession_only ..) (by decide) ?_
    exact .refl
  · refine OnlyNext.next ?_
    exact .refl

theorem execAuthLockoutExpiry_only (ip : ℕ) (s : State) : OnlyNext [.igrel] s (execAuthLockoutExpiry ip s) := by
  unfold execAuthLockoutExpiry
  refine OnlyNext.next ?_
  refine Only.with_igrel (by decide) ?_
  exact .refl

theorem execClose_only (h : Hdr) (payload : List Byte) (s : State) :
    OnlyNext [.regs, .doms, .mode, .clock, .rst, .fuses, .pins, .igrel, .flash, .raster, .decomp, .slots, .health, .trimGen, .enc,
      .taper, .heads, .twin, .lantern, .led, .chans, .check, .dram, .wick, .loops, .spi, .axes, .ptp, .cal, .ylog, .out, .flagged,
      .freeCtr] s (execClose h payload s) := by
  unfold execClose
  refine OnlyNext.next ?_
  refine Only.step (State.receive_only ..) (by decide) ?_
  exact .refl

theorem execSessionIdleTimeout_only (sess : ℕ) (s : State) : OnlyNext [.igrel] s (execSessionIdleTimeout sess s) := by
  unfold execSessionIdleTimeout
  refine OnlyNext.ite (fun _ => ?_) (fun _ => ?_)
  · refine OnlyNext.next ?_
    refine Only.step (State.closeSession_only ..) (by decide) ?_
    exact .refl
  · refine OnlyNext.next ?_
    exact .refl

theorem execRead_only (h : Hdr) (payload : List Byte) (vppOk : Bool) (s : State) :
    OnlyNext [.regs, .doms, .mode, .clock, .rst, .fuses, .pins, .igrel, .flash, .raster, .decomp, .slots, .health, .trimGen, .enc,
      .taper, .heads, .twin, .lantern, .led, .chans, .check, .dram, .wick, .loops, .spi, .axes, .ptp, .cal, .ylog, .out, .flagged,
      .freeCtr] s (execRead h payload vppOk s) := by
  unfold execRead
  refine OnlyNext.next ?_
  refine Only.step (State.receive_only ..) (by decide) ?_
  refine Only.step (State.seeVpp_only ..) (by decide) ?_
  exact .refl

theorem State.takeForward_only (s : State) (p : List Byte) :
    Only [.regs, .doms, .mode, .clock, .rst, .fuses, .pins, .igrel, .flash, .raster, .decomp, .slots, .health, .trimGen, .enc, .taper,
      .heads, .twin, .lantern, .led, .chans, .check, .dram, .wick, .loops, .spi, .axes, .ptp, .cal, .ylog, .out, .flagged, .freeCtr] s
      (State.takeForward s p) := by
  unfold State.takeForward
  dsimp only
  split
  · exact .refl
  · refine Only.ite (fun _ => ?_) (fun _ => ?_)
    · exact .refl
    · refine Only.ite (fun _ => ?_) (fun _ => ?_)
      · refine Only.ite (fun _ => ?_) (fun _ => ?_)
        · refine Only.step (State.publish_only ..) (by decide) ?_
          exact .refl
        · exact .refl
      · refine Only.ite (fun _ => ?_) (fun _ => ?_)
        · exact .refl
        · refine Only.ite (fun _ => ?_) (fun _ => ?_)
          · refine Only.step (State.takeContent_only ..) (by decide) ?_
            exact .refl
          · refine Only.step (State.writeEffect_only ..) (by decide) ?_
            exact .refl

theorem execWrite_only (h : Hdr) (payload : List Byte) (vppOk : Bool) (forwarded : Bool) (s : State) :
    OnlyNext [.regs, .doms, .mode, .clock, .rst, .fuses, .pins, .igrel, .flash, .raster, .decomp, .slots, .health, .trimGen, .enc,
      .taper, .heads, .twin, .lantern, .led, .chans, .check, .dram, .wick, .loops, .spi, .axes, .ptp, .cal, .ylog, .out, .flagged,
      .freeCtr] s (execWrite h payload vppOk forwarded s) := by
  unfold execWrite
  refine OnlyNext.next ?_
  refine Only.ite (fun _ => ?_) (fun _ => ?_)
  · refine Only.step (State.takeForward_only ..) (by decide) ?_
    refine Only.step (State.seeVpp_only ..) (by decide) ?_
    exact .refl
  · refine Only.step (State.receive_only ..) (by decide) ?_
    refine Only.step (State.seeVpp_only ..) (by decide) ?_
    exact .refl

theorem execDescribe_only (h : Hdr) (payload : List Byte) (s : State) :
    OnlyNext [.regs, .doms, .mode, .clock, .rst, .fuses, .pins, .igrel, .flash, .raster, .decomp, .slots, .health, .trimGen, .enc,
      .taper, .heads, .twin, .lantern, .led, .chans, .check, .dram, .wick, .loops, .spi, .axes, .ptp, .cal, .ylog, .out, .flagged,
      .freeCtr] s (execDescribe h payload s) := by
  unfold execDescribe
  refine OnlyNext.next ?_
  refine Only.step (State.receive_only ..) (by decide) ?_
  exact .refl

theorem execBlockStart_only (h : Hdr) (payload : List Byte) (s : State) :
    OnlyNext [.regs, .doms, .mode, .clock, .rst, .fuses, .pins, .igrel, .flash, .raster, .decomp, .slots, .health, .trimGen, .enc,
      .taper, .heads, .twin, .lantern, .led, .chans, .check, .dram, .wick, .loops, .spi, .axes, .ptp, .cal, .ylog, .out, .flagged,
      .freeCtr] s (execBlockStart h payload s) := by
  unfold execBlockStart
  refine OnlyNext.next ?_
  refine Only.step (State.receive_only ..) (by decide) ?_
  exact .refl

theorem execBlockSegment_only (h : Hdr) (payload : List Byte) (s : State) :
    OnlyNext [.regs, .doms, .mode, .clock, .rst, .fuses, .pins, .igrel, .flash, .raster, .decomp, .slots, .health, .trimGen, .enc,
      .taper, .heads, .twin, .lantern, .led, .chans, .check, .dram, .wick, .loops, .spi, .axes, .ptp, .cal, .ylog, .out, .flagged,
      .freeCtr] s (execBlockSegment h payload s) := by
  unfold execBlockSegment
  refine OnlyNext.next ?_
  refine Only.step (State.receive_only ..) (by decide) ?_
  exact .refl

theorem execBlockAck_only (h : Hdr) (payload : List Byte) (s : State) :
    OnlyNext [.regs, .doms, .mode, .clock, .rst, .fuses, .pins, .igrel, .flash, .raster, .decomp, .slots, .health, .trimGen, .enc,
      .taper, .heads, .twin, .lantern, .led, .chans, .check, .dram, .wick, .loops, .spi, .axes, .ptp, .cal, .ylog, .out, .flagged,
      .freeCtr] s (execBlockAck h payload s) := by
  unfold execBlockAck
  refine OnlyNext.next ?_
  refine Only.step (State.receive_only ..) (by decide) ?_
  exact .refl

theorem execBlockEnd_only (h : Hdr) (payload : List Byte) (s : State) :
    OnlyNext [.regs, .doms, .mode, .clock, .rst, .fuses, .pins, .igrel, .flash, .raster, .decomp, .slots, .health, .trimGen, .enc,
      .taper, .heads, .twin, .lantern, .led, .chans, .check, .dram, .wick, .loops, .spi, .axes, .ptp, .cal, .ylog, .out, .flagged,
      .freeCtr] s (execBlockEnd h payload s) := by
  unfold execBlockEnd
  refine OnlyNext.next ?_
  refine Only.step (State.receive_only ..) (by decide) ?_
  exact .refl

theorem execBlockTimeout_only (sess : ℕ) (tag : ℕ) (s : State) : OnlyNext [.igrel, .out] s (execBlockTimeout sess tag s) := by
  unfold execBlockTimeout
  split
  · refine OnlyNext.next ?_
    exact .refl
  · dsimp only
    refine OnlyNext.next ?_
    refine Only.step (State.respond_only ..) (by decide) ?_
    refine Only.step (State.dropTransfer_only ..) (by decide) ?_
    exact .refl

theorem execSubscribe_only (h : Hdr) (payload : List Byte) (s : State) :
    OnlyNext [.regs, .doms, .mode, .clock, .rst, .fuses, .pins, .igrel, .flash, .raster, .decomp, .slots, .health, .trimGen, .enc,
      .taper, .heads, .twin, .lantern, .led, .chans, .check, .dram, .wick, .loops, .spi, .axes, .ptp, .cal, .ylog, .out, .flagged,
      .freeCtr] s (execSubscribe h payload s) := by
  unfold execSubscribe
  refine OnlyNext.next ?_
  refine Only.step (State.receive_only ..) (by decide) ?_
  exact .refl

theorem execTelemetrySend_only (sess : ℕ) (canSend : Bool) (s : State) :
    OnlyNext [.regs, .igrel, .ylog, .out, .flagged, .freeCtr] s (execTelemetrySend sess canSend s) := by
  unfold execTelemetrySend
  split
  · split
    · refine OnlyNext.ite (fun _ => ?_) (fun _ => ?_)
      · refine OnlyNext.next ?_
        refine Only.step (State.telemetry_only ..) (by decide) ?_
        exact .refl
      · refine OnlyNext.next ?_
        exact .refl
    · refine OnlyNext.next ?_
      exact .refl
  · refine OnlyNext.next ?_
    exact .refl

theorem execArpRequest_only (mac : ℕ) (ip : ℕ) (target : ℕ) (s : State) : OnlyNext [.out] s (execArpRequest mac ip target s) := by
  unfold execArpRequest
  refine OnlyNext.ite (fun _ => ?_) (fun _ => ?_)
  · refine OnlyNext.next ?_
    refine Only.step (State.emit_only ..) (by decide) ?_
    exact .refl
  · refine OnlyNext.next ?_
    exact .refl

theorem execIcmpEchoRequest_only (src : ℕ) (data : List Byte) (s : State) : OnlyNext [.out] s (execIcmpEchoRequest src data s) := by
  unfold execIcmpEchoRequest
  refine OnlyNext.ite (fun _ => ?_) (fun _ => ?_)
  · refine OnlyNext.next ?_
    refine Only.step (State.emit_only ..) (by decide) ?_
    exact .refl
  · refine OnlyNext.next ?_
    exact .refl

/-! ### Commands -/

theorem State.send_only (s : State) (h : Hdr) (key : ℕ) (v : ℕ) :
    Only [.regs, .doms, .mode, .clock, .rst, .fuses, .pins, .igrel, .flash, .raster, .decomp, .slots, .health, .trimGen, .enc, .taper,
      .heads, .twin, .lantern, .led, .chans, .check, .dram, .wick, .loops, .spi, .axes, .ptp, .cal, .ylog, .out, .flagged, .freeCtr] s
      (State.send s h key v) := by
  unfold State.send
  refine Only.step (State.receive_only ..) (by decide) ?_
  exact .refl

theorem State.sendEnd_only (s : State) (h : Hdr) (mine : ℕ → Bool) :
    Only [.regs, .doms, .mode, .clock, .rst, .fuses, .pins, .igrel, .flash, .raster, .decomp, .slots, .health, .trimGen, .enc, .taper,
      .heads, .twin, .lantern, .led, .chans, .check, .dram, .wick, .loops, .spi, .axes, .ptp, .cal, .ylog, .out, .flagged, .freeCtr] s
      (State.sendEnd s h mine) := by
  unfold State.sendEnd
  split
  · refine Only.ite (fun _ => ?_) (fun _ => ?_)
    · refine Only.step (State.receive_only ..) (by decide) ?_
      exact .refl
    · exact .refl
  · exact .refl

theorem execBlockResetWrite_only (h : Hdr) (v : ℕ) (s : State) :
    OnlyNext [.regs, .doms, .mode, .clock, .rst, .fuses, .pins, .igrel, .flash, .raster, .decomp, .slots, .health, .trimGen, .enc,
      .taper, .heads, .twin, .lantern, .led, .chans, .check, .dram, .wick, .loops, .spi, .axes, .ptp, .cal, .ylog, .out, .flagged,
      .freeCtr] s (execBlockResetWrite h v s) := by
  unfold execBlockResetWrite
  refine OnlyNext.next ?_
  refine Only.step (State.send_only ..) (by decide) ?_
  exact .refl

theorem execModeRequestKindle_only (h : Hdr) (s : State) :
    OnlyNext [.regs, .doms, .mode, .clock, .rst, .fuses, .pins, .igrel, .flash, .raster, .decomp, .slots, .health, .trimGen, .enc,
      .taper, .heads, .twin, .lantern, .led, .chans, .check, .dram, .wick, .loops, .spi, .axes, .ptp, .cal, .ylog, .out, .flagged,
      .freeCtr] s (execModeRequestKindle h s) := by
  unfold execModeRequestKindle
  refine OnlyNext.next ?_
  refine Only.step (State.send_only ..) (by decide) ?_
  exact .refl

theorem execModeRequestPilot_only (h : Hdr) (s : State) :
    OnlyNext [.regs, .doms, .mode, .clock, .rst, .fuses, .pins, .igrel, .flash, .raster, .decomp, .slots, .health, .trimGen, .enc,
      .taper, .heads, .twin, .lantern, .led, .chans, .check, .dram, .wick, .loops, .spi, .axes, .ptp, .cal, .ylog, .out, .flagged,
      .freeCtr] s (execModeRequestPilot h s) := by
  unfold execModeRequestPilot
  refine OnlyNext.next ?_
  refine Only.step (State.send_only ..) (by decide) ?_
  exact .refl

theorem execModeRequestTrim_only (h : Hdr) (s : State) :
    OnlyNext [.regs, .doms, .mode, .clock, .rst, .fuses, .pins, .igrel, .flash, .raster, .decomp, .slots, .health, .trimGen, .enc,
      .taper, .heads, .twin, .lantern, .led, .chans, .check, .dram, .wick, .loops, .spi, .axes, .ptp, .cal, .ylog, .out, .flagged,
      .freeCtr] s (execModeRequestTrim h s) := by
  unfold execModeRequestTrim
  refine OnlyNext.next ?_
  refine Only.step (State.send_only ..) (by decide) ?_
  exact .refl

theorem execModeRequestLit_only (h : Hdr) (s : State) :
    OnlyNext [.regs, .doms, .mode, .clock, .rst, .fuses, .pins, .igrel, .flash, .raster, .decomp, .slots, .health, .trimGen, .enc,
      .taper, .heads, .twin, .lantern, .led, .chans, .check, .dram, .wick, .loops, .spi, .axes, .ptp, .cal, .ylog, .out, .flagged,
      .freeCtr] s (execModeRequestLit h s) := by
  unfold execModeRequestLit
  refine OnlyNext.next ?_
  refine Only.step (State.send_only ..) (by decide) ?_
  exact .refl

theorem execModeRequestSnuff_only (h : Hdr) (s : State) :
    OnlyNext [.regs, .doms, .mode, .clock, .rst, .fuses, .pins, .igrel, .flash, .raster, .decomp, .slots, .health, .trimGen, .enc,
      .taper, .heads, .twin, .lantern, .led, .chans, .check, .dram, .wick, .loops, .spi, .axes, .ptp, .cal, .ylog, .out, .flagged,
      .freeCtr] s (execModeRequestSnuff h s) := by
  unfold execModeRequestSnuff
  refine OnlyNext.next ?_
  refine Only.step (State.send_only ..) (by decide) ?_
  exact .refl

theorem execSnuffCauseClear_only (h : Hdr) (v : ℕ) (s : State) :
    OnlyNext [.regs, .doms, .mode, .clock, .rst, .fuses, .pins, .igrel, .flash, .raster, .decomp, .slots, .health, .trimGen, .enc,
      .taper, .heads, .twin, .lantern, .led, .chans, .check, .dram, .wick, .loops, .spi, .axes, .ptp, .cal, .ylog, .out, .flagged,
      .freeCtr] s (execSnuffCauseClear h v s) := by
  unfold execSnuffCauseClear
  refine OnlyNext.next ?_
  refine Only.step (State.send_only ..) (by decide) ?_
  exact .refl

theorem execResetCauseClear_only (h : Hdr) (v : ℕ) (s : State) :
    OnlyNext [.regs, .doms, .mode, .clock, .rst, .fuses, .pins, .igrel, .flash, .raster, .decomp, .slots, .health, .trimGen, .enc,
      .taper, .heads, .twin, .lantern, .led, .chans, .check, .dram, .wick, .loops, .spi, .axes, .ptp, .cal, .ylog, .out, .flagged,
      .freeCtr] s (execResetCauseClear h v s) := by
  unfold execResetCauseClear
  refine OnlyNext.next ?_
  refine Only.step (State.send_only ..) (by decide) ?_
  exact .refl

theorem execResetRequest_only (h : Hdr) (v : ℕ) (s : State) :
    OnlyNext [.regs, .doms, .mode, .clock, .rst, .fuses, .pins, .igrel, .flash, .raster, .decomp, .slots, .health, .trimGen, .enc,
      .taper, .heads, .twin, .lantern, .led, .chans, .check, .dram, .wick, .loops, .spi, .axes, .ptp, .cal, .ylog, .out, .flagged,
      .freeCtr] s (execResetRequest h v s) := by
  unfold execResetRequest
  refine OnlyNext.next ?_
  refine Only.step (State.send_only ..) (by decide) ?_
  exact .refl

theorem execFusePadProgram_only (h : Hdr) (v : ℕ) (vppOk : Bool) (s : State) :
    OnlyNext [.regs, .doms, .mode, .clock, .rst, .fuses, .pins, .igrel, .flash, .raster, .decomp, .slots, .health, .trimGen, .enc,
      .taper, .heads, .twin, .lantern, .led, .chans, .check, .dram, .wick, .loops, .spi, .axes, .ptp, .cal, .ylog, .out, .flagged,
      .freeCtr] s (execFusePadProgram h v vppOk s) := by
  unfold execFusePadProgram
  refine OnlyNext.next ?_
  refine Only.step (State.send_only ..) (by decide) ?_
  refine Only.step (State.seeVpp_only ..) (by decide) ?_
  exact .refl

theorem execFusePadCodeRead_only (h : Hdr) (s : State) :
    OnlyNext [.regs, .doms, .mode, .clock, .rst, .fuses, .pins, .igrel, .flash, .raster, .decomp, .slots, .health, .trimGen, .enc,
      .taper, .heads, .twin, .lantern, .led, .chans, .check, .dram, .wick, .loops, .spi, .axes, .ptp, .cal, .ylog, .out, .flagged,
      .freeCtr] s (execFusePadCodeRead h s) := by
  unfold execFusePadCodeRead
  refine OnlyNext.next ?_
  refine Only.step (State.receive_only ..) (by decide) ?_
  exact .refl

theorem execFuseLock_only (h : Hdr) (v : ℕ) (vppOk : Bool) (s : State) :
    OnlyNext [.regs, .doms, .mode, .clock, .rst, .fuses, .pins, .igrel, .flash, .raster, .decomp, .slots, .health, .trimGen, .enc,
      .taper, .heads, .twin, .lantern, .led, .chans, .check, .dram, .wick, .loops, .spi, .axes, .ptp, .cal, .ylog, .out, .flagged,
      .freeCtr] s (execFuseLock h v vppOk s) := by
  unfold execFuseLock
  refine OnlyNext.next ?_
  refine Only.step (State.send_only ..) (by decide) ?_
  refine Only.step (State.seeVpp_only ..) (by decide) ?_
  exact .refl

theorem execConfigSave_only (h : Hdr) (v : ℕ) (s : State) :
    OnlyNext [.regs, .doms, .mode, .clock, .rst, .fuses, .pins, .igrel, .flash, .raster, .decomp, .slots, .health, .trimGen, .enc,
      .taper, .heads, .twin, .lantern, .led, .chans, .check, .dram, .wick, .loops, .spi, .axes, .ptp, .cal, .ylog, .out, .flagged,
      .freeCtr] s (execConfigSave h v s) := by
  unfold execConfigSave
  refine OnlyNext.next ?_
  refine Only.step (State.send_only ..) (by decide) ?_
  exact .refl

theorem execFwSlotWrite_only (h : Hdr) (s : State) :
    OnlyNext [.regs, .doms, .mode, .clock, .rst, .fuses, .pins, .igrel, .flash, .raster, .decomp, .slots, .health, .trimGen, .enc,
      .taper, .heads, .twin, .lantern, .led, .chans, .check, .dram, .wick, .loops, .spi, .axes, .ptp, .cal, .ylog, .out, .flagged,
      .freeCtr] s (execFwSlotWrite h s) := by
  unfold execFwSlotWrite
  refine OnlyNext.next ?_
  refine Only.step (State.sendEnd_only ..) (by decide) ?_
  exact .refl

theorem execFsiMinClear_only (h : Hdr) (v : ℕ) (s : State) :
    OnlyNext [.regs, .doms, .mode, .clock, .rst, .fuses, .pins, .igrel, .flash, .raster, .decomp, .slots, .health, .trimGen, .enc,
      .taper, .heads, .twin, .lantern, .led, .chans, .check, .dram, .wick, .loops, .spi, .axes, .ptp, .cal, .ylog, .out, .flagged,
      .freeCtr] s (execFsiMinClear h v s) := by
  unfold execFsiMinClear
  refine OnlyNext.next ?_
  refine Only.step (State.send_only ..) (by decide) ?_
  exact .refl

theorem execW1cClear_only (h : Hdr) (key : ℕ) (v : ℕ) (s : State) :
    OnlyNext [.regs, .doms, .mode, .clock, .rst, .fuses, .pins, .igrel, .flash, .raster, .decomp, .slots, .health, .trimGen, .enc,
      .taper, .heads, .twin, .lantern, .led, .chans, .check, .dram, .wick, .loops, .spi, .axes, .ptp, .cal, .ylog, .out, .flagged,
      .freeCtr] s (execW1cClear h key v s) := by
  unfold execW1cClear
  refine OnlyNext.ite (fun _ => ?_) (fun _ => ?_)
  · refine OnlyNext.next ?_
    refine Only.step (State.send_only ..) (by decide) ?_
    exact .refl
  · refine OnlyNext.next ?_
    exact .refl

theorem execStoreFlush_only (h : Hdr) (v : ℕ) (s : State) :
    OnlyNext [.regs, .doms, .mode, .clock, .rst, .fuses, .pins, .igrel, .flash, .raster, .decomp, .slots, .health, .trimGen, .enc,
      .taper, .heads, .twin, .lantern, .led, .chans, .check, .dram, .wick, .loops, .spi, .axes, .ptp, .cal, .ylog, .out, .flagged,
      .freeCtr] s (execStoreFlush h v s) := by
  unfold execStoreFlush
  refine OnlyNext.next ?_
  refine Only.step (State.send_only ..) (by decide) ?_
  exact .refl

theorem execRingMapWrite_only (h : Hdr) (s : State) :
    OnlyNext [.regs, .doms, .mode, .clock, .rst, .fuses, .pins, .igrel, .flash, .raster, .decomp, .slots, .health, .trimGen, .enc,
      .taper, .heads, .twin, .lantern, .led, .chans, .check, .dram, .wick, .loops, .spi, .axes, .ptp, .cal, .ylog, .out, .flagged,
      .freeCtr] s (execRingMapWrite h s) := by
  unfold execRingMapWrite
  refine OnlyNext.next ?_
  refine Only.step (State.sendEnd_only ..) (by decide) ?_
  exact .refl

theorem execContextImageWrite_only (h : Hdr) (s : State) :
    OnlyNext [.regs, .doms, .mode, .clock, .rst, .fuses, .pins, .igrel, .flash, .raster, .decomp, .slots, .health, .trimGen, .enc,
      .taper, .heads, .twin, .lantern, .led, .chans, .check, .dram, .wick, .loops, .spi, .axes, .ptp, .cal, .ylog, .out, .flagged,
      .freeCtr] s (execContextImageWrite h s) := by
  unfold execContextImageWrite
  refine OnlyNext.next ?_
  refine Only.step (State.sendEnd_only ..) (by decide) ?_
  exact .refl

theorem execHealthEdit_only (h : Hdr) (s : State) :
    OnlyNext [.regs, .doms, .mode, .clock, .rst, .fuses, .pins, .igrel, .flash, .raster, .decomp, .slots, .health, .trimGen, .enc,
      .taper, .heads, .twin, .lantern, .led, .chans, .check, .dram, .wick, .loops, .spi, .axes, .ptp, .cal, .ylog, .out, .flagged,
      .freeCtr] s (execHealthEdit h s) := by
  unfold execHealthEdit
  refine OnlyNext.next ?_
  refine Only.step (State.sendEnd_only ..) (by decide) ?_
  exact .refl

theorem execHealthSwap_only (s : State) : OnlyNext [.regs, .igrel, .slots, .health, .ylog, .out, .flagged] s (execHealthSwap s) := by
  unfold execHealthSwap
  refine OnlyNext.next ?_
  refine Only.step (State.swapDue_only ..) (by decide) ?_
  exact .refl

theorem State.publishEach_only (s : State) (x1 : List (List (ℕ × ℕ) × Option Deferred)) :
    Only [.regs, .igrel, .decomp, .slots, .health, .taper, .twin, .wick, .ylog, .out, .flagged] s (State.publishEach s x1) := by
  induction x1 generalizing s with | nil => ?_ | cons y l ih => ?_
  · simp only [State.publishEach]
    exact .refl
  · simp only [State.publishEach]
    refine Only.trans (ih ..) ?_
    refine Only.step (State.publish_only ..) (by decide) ?_
    exact .refl

theorem execHealthOverwriteDone_only (s : State) :
    OnlyNext [.regs, .igrel, .decomp, .slots, .health, .taper, .twin, .wick, .ylog, .out, .flagged] s (execHealthOverwriteDone s) := by
  unfold execHealthOverwriteDone
  refine OnlyNext.ite (fun _ => ?_) (fun _ => ?_)
  · dsimp only
    refine OnlyNext.next ?_
    refine Only.step (State.publishEach_only ..) (by decide) ?_
    refine Only.step (State.endOverwrite_only ..) (by decide) ?_
    refine Only.with_health (by decide) ?_
    exact .refl
  · refine OnlyNext.next ?_
    exact .refl

theorem execPlacementTrimWrite_only (h : Hdr) (s : State) :
    OnlyNext [.regs, .doms, .mode, .clock, .rst, .fuses, .pins, .igrel, .flash, .raster, .decomp, .slots, .health, .trimGen, .enc,
      .taper, .heads, .twin, .lantern, .led, .chans, .check, .dram, .wick, .loops, .spi, .axes, .ptp, .cal, .ylog, .out, .flagged,
      .freeCtr] s (execPlacementTrimWrite h s) := by
  unfold execPlacementTrimWrite
  refine OnlyNext.next ?_
  refine Only.step (State.sendEnd_only ..) (by decide) ?_
  exact .refl

theorem execEncoderEnable_only (h : Hdr) (ch : Fin 2) (v : ℕ) (s : State) :
    OnlyNext [.regs, .doms, .mode, .clock, .rst, .fuses, .pins, .igrel, .flash, .raster, .decomp, .slots, .health, .trimGen, .enc,
      .taper, .heads, .twin, .lantern, .led, .chans, .check, .dram, .wick, .loops, .spi, .axes, .ptp, .cal, .ylog, .out, .flagged,
      .freeCtr] s (execEncoderEnable h ch v s) := by
  unfold execEncoderEnable
  refine OnlyNext.next ?_
  refine Only.step (State.send_only ..) (by decide) ?_
  exact .refl

theorem execMaintStart_only (h : Hdr) (v : ℕ) (s : State) :
    OnlyNext [.regs, .doms, .mode, .clock, .rst, .fuses, .pins, .igrel, .flash, .raster, .decomp, .slots, .health, .trimGen, .enc,
      .taper, .heads, .twin, .lantern, .led, .chans, .check, .dram, .wick, .loops, .spi, .axes, .ptp, .cal, .ylog, .out, .flagged,
      .freeCtr] s (execMaintStart h v s) := by
  unfold execMaintStart
  refine OnlyNext.next ?_
  refine Only.step (State.send_only ..) (by decide) ?_
  exact .refl

theorem execSwapRequest_only (h : Hdr) (v : ℕ) (s : State) :
    OnlyNext [.regs, .doms, .mode, .clock, .rst, .fuses, .pins, .igrel, .flash, .raster, .decomp, .slots, .health, .trimGen, .enc,
      .taper, .heads, .twin, .lantern, .led, .chans, .check, .dram, .wick, .loops, .spi, .axes, .ptp, .cal, .ylog, .out, .flagged,
      .freeCtr] s (execSwapRequest h v s) := by
  unfold execSwapRequest
  refine OnlyNext.next ?_
  refine Only.step (State.send_only ..) (by decide) ?_
  exact .refl

theorem execCameraCommit_only (h : Hdr) (c : Fin 8) (v : ℕ) (s : State) :
    OnlyNext [.regs, .doms, .mode, .clock, .rst, .fuses, .pins, .igrel, .flash, .raster, .decomp, .slots, .health, .trimGen, .enc,
      .taper, .heads, .twin, .lantern, .led, .chans, .check, .dram, .wick, .loops, .spi, .axes, .ptp, .cal, .ylog, .out, .flagged,
      .freeCtr] s (execCameraCommit h c v s) := by
  unfold execCameraCommit
  refine OnlyNext.next ?_
  refine Only.step (State.send_only ..) (by decide) ?_
  exact .refl

theorem execUartTx_only (h : Hdr) (s : State) :
    OnlyNext [.regs, .doms, .mode, .clock, .rst, .fuses, .pins, .igrel, .flash, .raster, .decomp, .slots, .health, .trimGen, .enc,
      .taper, .heads, .twin, .lantern, .led, .chans, .check, .dram, .wick, .loops, .spi, .axes, .ptp, .cal, .ylog, .out, .flagged,
      .freeCtr] s (execUartTx h s) := by
  unfold execUartTx
  refine OnlyNext.next ?_
  refine Only.step (State.sendEnd_only ..) (by decide) ?_
  exact .refl

theorem execTapSelect_only (h : Hdr) (v : ℕ) (s : State) :
    OnlyNext [.regs, .doms, .mode, .clock, .rst, .fuses, .pins, .igrel, .flash, .raster, .decomp, .slots, .health, .trimGen, .enc,
      .taper, .heads, .twin, .lantern, .led, .chans, .check, .dram, .wick, .loops, .spi, .axes, .ptp, .cal, .ylog, .out, .flagged,
      .freeCtr] s (execTapSelect h v s) := by
  unfold execTapSelect
  refine OnlyNext.next ?_
  refine Only.step (State.send_only ..) (by decide) ?_
  exact .refl

theorem execChunkCompress_only (ch : Fin 4) (s : State) :
    OnlyNext [.regs, .doms, .igrel, .chans, .dram, .ylog, .out, .flagged, .freeCtr] s (execChunkCompress ch s) := by
  unfold execChunkCompress
  refine OnlyNext.ite (fun _ => ?_) (fun _ => ?_)
  · refine OnlyNext.next ?_
    exact .refl
  · refine OnlyNext.ite (fun _ => ?_) (fun _ => ?_)
    · split
      · refine OnlyNext.next ?_
        refine Only.step (State.compressNormal_only ..) (by decide) ?_
        exact .refl
      · refine OnlyNext.next ?_
        exact .refl
    · split
      · refine OnlyNext.next ?_
        refine Only.step (State.compressRequest_only ..) (by decide) ?_
        exact .refl
      · refine OnlyNext.next ?_
        exact .refl

theorem execUploadRequest_only (h : Hdr) (s : State) :
    OnlyNext [.regs, .doms, .mode, .clock, .rst, .fuses, .pins, .igrel, .flash, .raster, .decomp, .slots, .health, .trimGen, .enc,
      .taper, .heads, .twin, .lantern, .led, .chans, .check, .dram, .wick, .loops, .spi, .axes, .ptp, .cal, .ylog, .out, .flagged,
      .freeCtr] s (execUploadRequest h s) := by
  unfold execUploadRequest
  refine OnlyNext.next ?_
  refine Only.step (State.sendEnd_only ..) (by decide) ?_
  exact .refl

theorem execScanRequest_only (h : Hdr) (s : State) :
    OnlyNext [.regs, .doms, .mode, .clock, .rst, .fuses, .pins, .igrel, .flash, .raster, .decomp, .slots, .health, .trimGen, .enc,
      .taper, .heads, .twin, .lantern, .led, .chans, .check, .dram, .wick, .loops, .spi, .axes, .ptp, .cal, .ylog, .out, .flagged,
      .freeCtr] s (execScanRequest h s) := by
  unfold execScanRequest
  refine OnlyNext.next ?_
  refine Only.step (State.sendEnd_only ..) (by decide) ?_
  exact .refl

theorem execRunningWrite_only (h : Hdr) (u : Fin 16) (v : ℕ) (s : State) :
    OnlyNext [.regs, .doms, .mode, .clock, .rst, .fuses, .pins, .igrel, .flash, .raster, .decomp, .slots, .health, .trimGen, .enc,
      .taper, .heads, .twin, .lantern, .led, .chans, .check, .dram, .wick, .loops, .spi, .axes, .ptp, .cal, .ylog, .out, .flagged,
      .freeCtr] s (execRunningWrite h u v s) := by
  unfold execRunningWrite
  refine OnlyNext.next ?_
  refine Only.step (State.send_only ..) (by decide) ?_
  exact .refl

theorem execFreqSelect_only (h : Hdr) (v : ℕ) (s : State) :
    OnlyNext [.regs, .doms, .mode, .clock, .rst, .fuses, .pins, .igrel, .flash, .raster, .decomp, .slots, .health, .trimGen, .enc,
      .taper, .heads, .twin, .lantern, .led, .chans, .check, .dram, .wick, .loops, .spi, .axes, .ptp, .cal, .ylog, .out, .flagged,
      .freeCtr] s (execFreqSelect h v s) := by
  unfold execFreqSelect
  refine OnlyNext.next ?_
  refine Only.step (State.send_only ..) (by decide) ?_
  exact .refl

theorem execBankSwap_only (h : Hdr) (i : Fin 48) (v : ℕ) (s : State) :
    OnlyNext [.regs, .doms, .mode, .clock, .rst, .fuses, .pins, .igrel, .flash, .raster, .decomp, .slots, .health, .trimGen, .enc,
      .taper, .heads, .twin, .lantern, .led, .chans, .check, .dram, .wick, .loops, .spi, .axes, .ptp, .cal, .ylog, .out, .flagged,
      .freeCtr] s (execBankSwap h i v s) := by
  unfold execBankSwap
  refine OnlyNext.next ?_
  refine Only.step (State.send_only ..) (by decide) ?_
  exact .refl

theorem execLoopSetpoint_only (h : Hdr) (i : Fin 48) (v : ℕ) (s : State) :
    OnlyNext [.regs, .doms, .mode, .clock, .rst, .fuses, .pins, .igrel, .flash, .raster, .decomp, .slots, .health, .trimGen, .enc,
      .taper, .heads, .twin, .lantern, .led, .chans, .check, .dram, .wick, .loops, .spi, .axes, .ptp, .cal, .ylog, .out, .flagged,
      .freeCtr] s (execLoopSetpoint h i v s) := by
  unfold execLoopSetpoint
  refine OnlyNext.next ?_
  refine Only.step (State.send_only ..) (by decide) ?_
  exact .refl

theorem execLoopEnable_only (h : Hdr) (i : Fin 48) (v : ℕ) (s : State) :
    OnlyNext [.regs, .doms, .mode, .clock, .rst, .fuses, .pins, .igrel, .flash, .raster, .decomp, .slots, .health, .trimGen, .enc,
      .taper, .heads, .twin, .lantern, .led, .chans, .check, .dram, .wick, .loops, .spi, .axes, .ptp, .cal, .ylog, .out, .flagged,
      .freeCtr] s (execLoopEnable h i v s) := by
  unfold execLoopEnable
  refine OnlyNext.next ?_
  refine Only.step (State.send_only ..) (by decide) ?_
  exact .refl

theorem execTarget_only (h : Hdr) (axis : Fin 4) (v : ℕ) (s : State) :
    OnlyNext [.regs, .doms, .mode, .clock, .rst, .fuses, .pins, .igrel, .flash, .raster, .decomp, .slots, .health, .trimGen, .enc,
      .taper, .heads, .twin, .lantern, .led, .chans, .check, .dram, .wick, .loops, .spi, .axes, .ptp, .cal, .ylog, .out, .flagged,
      .freeCtr] s (execTarget h axis v s) := by
  unfold execTarget
  refine OnlyNext.next ?_
  refine Only.step (State.send_only ..) (by decide) ?_
  exact .refl

theorem execHome_only (h : Hdr) (axis : Fin 4) (v : ℕ) (s : State) :
    OnlyNext [.regs, .doms, .mode, .clock, .rst, .fuses, .pins, .igrel, .flash, .raster, .decomp, .slots, .health, .trimGen, .enc,
      .taper, .heads, .twin, .lantern, .led, .chans, .check, .dram, .wick, .loops, .spi, .axes, .ptp, .cal, .ylog, .out, .flagged,
      .freeCtr] s (execHome h axis v s) := by
  unfold execHome
  refine OnlyNext.next ?_
  refine Only.step (State.send_only ..) (by decide) ?_
  exact .refl

theorem execAxisStop_only (h : Hdr) (axis : Fin 4) (v : ℕ) (s : State) :
    OnlyNext [.regs, .doms, .mode, .clock, .rst, .fuses, .pins, .igrel, .flash, .raster, .decomp, .slots, .health, .trimGen, .enc,
      .taper, .heads, .twin, .lantern, .led, .chans, .check, .dram, .wick, .loops, .spi, .axes, .ptp, .cal, .ylog, .out, .flagged,
      .freeCtr] s (execAxisStop h axis v s) := by
  unfold execAxisStop
  refine OnlyNext.next ?_
  refine Only.step (State.send_only ..) (by decide) ?_
  exact .refl

theorem execStopAll_only (h : Hdr) (v : ℕ) (s : State) :
    OnlyNext [.regs, .doms, .mode, .clock, .rst, .fuses, .pins, .igrel, .flash, .raster, .decomp, .slots, .health, .trimGen, .enc,
      .taper, .heads, .twin, .lantern, .led, .chans, .check, .dram, .wick, .loops, .spi, .axes, .ptp, .cal, .ylog, .out, .flagged,
      .freeCtr] s (execStopAll h v s) := by
  unfold execStopAll
  refine OnlyNext.next ?_
  refine Only.step (State.send_only ..) (by decide) ?_
  exact .refl

theorem execTimeSet_only (h : Hdr) (v : ℕ) (s : State) :
    OnlyNext [.regs, .doms, .mode, .clock, .rst, .fuses, .pins, .igrel, .flash, .raster, .decomp, .slots, .health, .trimGen, .enc,
      .taper, .heads, .twin, .lantern, .led, .chans, .check, .dram, .wick, .loops, .spi, .axes, .ptp, .cal, .ylog, .out, .flagged,
      .freeCtr] s (execTimeSet h v s) := by
  unfold execTimeSet
  refine OnlyNext.next ?_
  refine Only.step (State.send_only ..) (by decide) ?_
  exact .refl

theorem execTimeStep_only (h : Hdr) (v : ℕ) (s : State) :
    OnlyNext [.regs, .doms, .mode, .clock, .rst, .fuses, .pins, .igrel, .flash, .raster, .decomp, .slots, .health, .trimGen, .enc,
      .taper, .heads, .twin, .lantern, .led, .chans, .check, .dram, .wick, .loops, .spi, .axes, .ptp, .cal, .ylog, .out, .flagged,
      .freeCtr] s (execTimeStep h v s) := by
  unfold execTimeStep
  refine OnlyNext.next ?_
  refine Only.step (State.send_only ..) (by decide) ?_
  exact .refl

theorem execRateTrim_only (h : Hdr) (v : ℕ) (s : State) :
    OnlyNext [.regs, .doms, .mode, .clock, .rst, .fuses, .pins, .igrel, .flash, .raster, .decomp, .slots, .health, .trimGen, .enc,
      .taper, .heads, .twin, .lantern, .led, .chans, .check, .dram, .wick, .loops, .spi, .axes, .ptp, .cal, .ylog, .out, .flagged,
      .freeCtr] s (execRateTrim h v s) := by
  unfold execRateTrim
  refine OnlyNext.next ?_
  refine Only.step (State.send_only ..) (by decide) ?_
  exact .refl

theorem execFreezeNow_only (h : Hdr) (v : ℕ) (s : State) :
    OnlyNext [.regs, .doms, .mode, .clock, .rst, .fuses, .pins, .igrel, .flash, .raster, .decomp, .slots, .health, .trimGen, .enc,
      .taper, .heads, .twin, .lantern, .led, .chans, .check, .dram, .wick, .loops, .spi, .axes, .ptp, .cal, .ylog, .out, .flagged,
      .freeCtr] s (execFreezeNow h v s) := by
  unfold execFreezeNow
  refine OnlyNext.next ?_
  refine Only.step (State.send_only ..) (by decide) ?_
  exact .refl

theorem execUnfreeze_only (h : Hdr) (v : ℕ) (s : State) :
    OnlyNext [.regs, .doms, .mode, .clock, .rst, .fuses, .pins, .igrel, .flash, .raster, .decomp, .slots, .health, .trimGen, .enc,
      .taper, .heads, .twin, .lantern, .led, .chans, .check, .dram, .wick, .loops, .spi, .axes, .ptp, .cal, .ylog, .out, .flagged,
      .freeCtr] s (execUnfreeze h v s) := by
  unfold execUnfreeze
  refine OnlyNext.next ?_
  refine Only.step (State.send_only ..) (by decide) ?_
  exact .refl

end Sys2Proof.Machine
end

