-- ==== Sys2Proof/Laws/FramesStep.lean ====
section
/-! SUPPORT. The frame of every operation and meaning of Machine/Step.lean: the only fields of the state that
it can change. -/

namespace Sys2Proof.Machine

/-! ### Step -/

theorem State.withFetchWord_only (s : State) (nbits : ℕ) (w : ℕ) : Only [.pending] s (State.withFetchWord s nbits w) := by
  unfold State.withFetchWord
  split
  · refine Only.with_pending (by decide) ?_
    exact .refl
  · exact .refl

end Sys2Proof.Machine
end

