-- ==== Sys2Proof/Laws/Table.lean ====
section
/-! SUPPORT. Sparse tables: reading after writing, and the canonical form. -/

namespace Sys2Proof.Machine

variable {α : Type}

theorem Table.find_insert (t : Table α) (x y : Nat) (v : α) :
    Table.find (Table.insert t x v) y = if y = x then some v else Table.find t y := by
  induction t with
  | nil => simp [Table.insert, Table.find]
  | cons p t ih =>
    obtain ⟨k, w⟩ := p
    simp only [Table.insert]
    split
    · subst k; simp only [Table.find]; split <;> rfl
    · split
      · simp only [Table.find]
      · simp only [Table.find, ih]
        split
        · rename_i h; subst h; split
          · rename_i h; exact absurd h.symm (by assumption)
          · rfl
        · rfl

theorem Table.find_erase (t : Table α) (x y : Nat) :
    Table.find (Table.erase t x) y = if y = x then none else Table.find t y := by
  induction t with
  | nil => simp [Table.erase, Table.find]
  | cons p t ih =>
    obtain ⟨k, w⟩ := p
    simp only [Table.erase]
    split
    · subst k; rw [ih]; simp only [Table.find]; split <;> rfl
    · simp only [Table.find, ih]
      split
      · rename_i h; subst h; split
        · rename_i h; exact absurd h.symm (by assumption)
        · rfl
      · rfl

variable [DecidableEq α]

/-- Reading a key after giving a key a value. -/
theorem Table.get_put (d : α) (t : Table α) (x y : Nat) (v : α) :
    Table.get d (Table.put d t x v) y = if y = x then v else Table.get d t y := by
  unfold Table.get Table.put
  split
  · subst v; rw [Table.find_erase]; split <;> rfl
  · rw [Table.find_insert]; split <;> rfl

theorem Table.get_put_same (d : α) (t : Table α) (x : Nat) (v : α) : Table.get d (Table.put d t x v) x = v := by
  rw [Table.get_put, if_pos rfl]

theorem Table.get_put_other (d : α) (t : Table α) {x y : Nat} (v : α) (h : y ≠ x) :
    Table.get d (Table.put d t x v) y = Table.get d t y := by
  rw [Table.get_put, if_neg h]

theorem Table.wfAbove_insert (d : α) (lo : Option Nat) (t : Table α) (x : Nat) (v : α) (h : Table.wfAbove d lo t = true)
    (hx : ∀ l, lo = some l → l < x) (hv : v ≠ d) : Table.wfAbove d lo (Table.insert t x v) = true := by
  induction t generalizing lo with
  | nil => cases lo <;> simp [Table.insert, Table.wfAbove, hv, hx]
  | cons p t ih =>
    obtain ⟨k, w⟩ := p
    have hk : decide (w ≠ d) = true ∧ Table.wfAbove d (some k) t = true ∧ ∀ l, lo = some l → l < k := by
      cases lo <;> simp_all [Table.wfAbove]
    simp only [Table.insert]
    split
    · subst k
      cases lo <;> simp_all [Table.wfAbove]
    · split
      · rename_i h1 h2
        cases lo <;> simp_all [Table.wfAbove]
      · rename_i h1 h2
        have := ih (some k) hk.2.1 (fun l hl => by cases hl; omega)
        cases lo <;> simp_all [Table.wfAbove]

theorem Table.wfAbove_mono (d : α) {lo hi : Nat} (t : Table α) (h : Table.wfAbove d (some hi) t = true) (hl : lo ≤ hi) :
    Table.wfAbove d (some lo) t = true := by
  cases t with
  | nil => rfl
  | cons p t =>
    simp only [Table.wfAbove, Bool.and_eq_true, decide_eq_true_eq] at h ⊢
    exact ⟨⟨by omega, h.1.2⟩, h.2⟩

theorem Table.wfAbove_none (d : α) {hi : Nat} (t : Table α) (h : Table.wfAbove d (some hi) t = true) :
    Table.wfAbove d none t = true := by
  cases t with
  | nil => rfl
  | cons p t =>
    simp only [Table.wfAbove, Bool.and_eq_true, decide_eq_true_eq] at h ⊢
    exact ⟨h.1.2, h.2⟩

theorem Table.wfAbove_erase (d : α) (lo : Option Nat) (t : Table α) (x : Nat) (h : Table.wfAbove d lo t = true) :
    Table.wfAbove d lo (Table.erase t x) = true := by
  induction t generalizing lo with
  | nil => exact h
  | cons p t ih =>
    obtain ⟨k, w⟩ := p
    simp only [Table.erase]
    split
    · cases lo with
      | none =>
        simp only [Table.wfAbove, Bool.and_eq_true] at h
        exact ih none (Table.wfAbove_none d t h.2)
      | some l =>
        simp only [Table.wfAbove, Bool.and_eq_true, decide_eq_true_eq] at h
        exact ih (some l) (Table.wfAbove_mono d t h.2 (by omega))
    · cases lo with
      | none =>
        simp only [Table.wfAbove, Bool.and_eq_true] at h ⊢
        exact ⟨h.1, ih (some k) h.2⟩
      | some l =>
        simp only [Table.wfAbove, Bool.and_eq_true, decide_eq_true_eq] at h ⊢
        exact ⟨h.1, ih (some k) h.2⟩

/-- Giving a key a value keeps the canonical form. -/
theorem Table.put_wf (d : α) (t : Table α) (x : Nat) (v : α) (h : Table.wf d t = true) : Table.wf d (Table.put d t x v) = true := by
  unfold Table.wf Table.put at *
  split
  · exact Table.wfAbove_erase d none t x h
  · rename_i hv
    exact Table.wfAbove_insert d none t x v h (fun l hl => by cases hl) hv

end Sys2Proof.Machine
end

