-- ==== Sys2Proof/Laws/Keeps.lean ====
section
/-! SUPPORT. What every operation keeps: the canonical form of the tables, the lengths of the logs, Beacon's ranges, and every fuse bit that has
been blown. It is a preorder on states, so that the lemma of an operation follows from those of the operations it calls. -/

namespace Sys2Proof.Machine

/-- What the second of two states keeps of the first. -/
structure Keeps (s t : State) : Prop where
  regs : Table.wfBy Dict.default s.regs = true → Table.wfBy Dict.default t.regs = true
  doms : Table.wfBy domDefault s.doms = true → Table.wfBy domDefault t.doms = true
  mem : s.dram.wf = true → t.dram.wf = true
  log : s.ylog.bounded = true → t.ylog.bounded = true
  ledger : s.taper.ledger.length ≤ 4096 → t.taper.ledger.length ≤ 4096
  beacon : s.clock.beacon.normal = true → t.clock.beacon.normal = true
  fuses : ∀ pad, Table.get 0 s.fuses.blown pad ||| Table.get 0 t.fuses.blown pad = Table.get 0 t.fuses.blown pad

theorem Keeps.refl {s : State} : Keeps s s := ⟨id, id, id, id, id, id, fun _ => Nat.or_self _⟩

/-- One operation more. -/
theorem Keeps.step {s t u : State} (h : Keeps t u) (k : Keeps s t) : Keeps s u where
  regs := h.regs ∘ k.regs
  doms := h.doms ∘ k.doms
  mem := h.mem ∘ k.mem
  log := h.log ∘ k.log
  ledger := h.ledger ∘ k.ledger
  beacon := h.beacon ∘ k.beacon
  fuses := fun p => by rw [← h.fuses p, ← Nat.or_assoc, k.fuses p]

/-- The fields that a lemma of this kind speaks about. -/
def tracked : List Fld := [.regs, .doms, .dram, .ylog, .taper, .clock, .fuses]

/-- An operation that touches none of them keeps all. -/
theorem Only.keeps {d : List Fld} {s t : State} (h : Only d s t) (hd : mask d &&& mask tracked = 0) : Keeps s t := by
  have no : ∀ f, f ∈ tracked → f ∉ d := by
    intro f hf hm
    have h1 : (mask d).testBit f.ctorIdx = true := by simp [mask_testBit, hm]
    have h2 : (mask tracked).testBit f.ctorIdx = true := by simp [mask_testBit, hf]
    have h3 : (mask d &&& mask tracked).testBit f.ctorIdx = true := by rw [Nat.testBit_and, h1, h2]; rfl
    rw [hd] at h3
    simp at h3
  have a1 := h.agree .regs (no _ (by decide))
  have a2 := h.agree .doms (no _ (by decide))
  have a3 := h.agree .dram (no _ (by decide))
  have a4 := h.agree .ylog (no _ (by decide))
  have a5 := h.agree .taper (no _ (by decide))
  have a6 := h.agree .clock (no _ (by decide))
  have a7 := h.agree .fuses (no _ (by decide))
  simp only [State.agree] at a1 a2 a3 a4 a5 a6 a7
  exact ⟨by rw [a1]; exact id, by rw [a2]; exact id, by rw [a3]; exact id, by rw [a4]; exact id, by rw [a5]; exact id, by rw [a6]; exact id,
    fun p => by rw [a7]; exact Nat.or_self _⟩

theorem Keeps.foldl {α : Type} {s u : State} {g : State → α → State} {l : List α} (hg : ∀ t x, Keeps t (g t x)) (k : Keeps s u) :
    Keeps s (l.foldl g u) := by
  induction l generalizing u with
  | nil => exact k
  | cons x t ih => exact ih (Keeps.step (hg u x) k)

theorem Keeps.ite {c : Prop} [Decidable c] {s t u : State} (h : c → Keeps s t) (k : ¬c → Keeps s u) : Keeps s (if c then t else u) := by
  by_cases x : c
  · rw [if_pos x]; exact h x
  · rw [if_neg x]; exact k x

theorem Keeps.of_snd {α : Type} {s t : State} {p : α × State} {v : α} (h : p = (v, t)) (k : Keeps s p.2) : Keeps s t := by
  rw [h] at k
  exact k

/-- What a command keeps, where it answers a next state. -/
structure KeepsNext (s : State) (o : Host.Outcome State Fault Refusal) : Prop where
  keeps : ∀ t, o = .next t → Keeps s t

theorem KeepsNext.next {s t : State} (h : Keeps s t) : KeepsNext s (ok t) := by
  refine ⟨fun u hu => ?_⟩
  cases hu
  exact h

theorem KeepsNext.stop {s : State} {r : Fault} : KeepsNext s (.fault r) := by
  refine ⟨fun u hu => ?_⟩
  cases hu

theorem KeepsNext.ite {c : Prop} [Decidable c] {s : State} {t u : Host.Outcome State Fault Refusal}
    (h : c → KeepsNext s t) (k : ¬c → KeepsNext s u) : KeepsNext s (if c then t else u) := by
  by_cases x : c
  · rw [if_pos x]; exact h x
  · rw [if_neg x]; exact k x

/-! ### Tables -/

theorem Table.rises_insert {α : Type} (lo : Option Nat) (t : Table α) (x : Nat) (v : α) (h : Table.rises lo t = true)
    (hx : ∀ l, lo = some l → l < x) : Table.rises lo (Table.insert t x v) = true := by
  induction t generalizing lo with
  | nil => cases lo <;> simp [Table.insert, Table.rises, hx]
  | cons p t ih =>
    obtain ⟨k, w⟩ := p
    have hk : Table.rises (some k) t = true ∧ ∀ l, lo = some l → l < k := by
      cases lo <;> simp_all [Table.rises]
    simp only [Table.insert]
    split
    · subst k
      cases lo <;> simp_all [Table.rises]
    · split
      · cases lo <;> simp_all [Table.rises]
      · have := ih (some k) hk.1 (fun l hl => by cases hl; omega)
        cases lo <;> simp_all [Table.rises]

theorem Table.rises_lower {α : Type} {lo hi : Nat} (t : Table α) (h : Table.rises (some hi) t = true) (hl : lo ≤ hi) :
    Table.rises (some lo) t = true := by
  cases t with
  | nil => rfl
  | cons p t =>
    simp only [Table.rises, Bool.and_eq_true, decide_eq_true_eq] at h ⊢
    exact ⟨by omega, h.2⟩

theorem Table.rises_none {α : Type} {hi : Nat} (t : Table α) (h : Table.rises (some hi) t = true) : Table.rises none t = true := by
  cases t with
  | nil => rfl
  | cons p t =>
    simp only [Table.rises, Bool.and_eq_true, decide_eq_true_eq] at h ⊢
    exact h.2

theorem Table.rises_filter {α : Type} (lo : Option Nat) (t : Table α) (p : Nat × α → Bool) (h : Table.rises lo t = true) :
    Table.rises lo (t.filter p) = true := by
  induction t generalizing lo with
  | nil => exact h
  | cons x t ih =>
    obtain ⟨k, w⟩ := x
    rw [List.filter_cons]
    split
    · cases lo with
      | none => exact ih (some k) h
      | some l =>
        simp only [Table.rises, Bool.and_eq_true] at h ⊢
        exact ⟨h.1, ih (some k) h.2⟩
    · cases lo with
      | none => exact ih none (Table.rises_none t h)
      | some l =>
        simp only [Table.rises, Bool.and_eq_true, decide_eq_true_eq] at h
        exact ih (some l) (Table.rises_lower t h.2 (by omega))

theorem Table.erase_eq_filter {α : Type} (t : Table α) (x : Nat) : Table.erase t x = t.filter (fun p => decide (p.1 ≠ x)) := by
  induction t with
  | nil => rfl
  | cons p t ih =>
    obtain ⟨k, w⟩ := p
    simp only [Table.erase, List.filter_cons]
    by_cases h : x = k
    · subst h
      simp [ih]
    · have : k ≠ x := fun e => h e.symm
      simp [h, this, ih]

theorem Table.mem_insert {α : Type} (t : Table α) (x : Nat) (v : α) (p : Nat × α) (h : p ∈ Table.insert t x v) : p = (x, v) ∨ p ∈ t := by
  induction t with
  | nil => simpa [Table.insert] using h
  | cons q t ih =>
    obtain ⟨k, w⟩ := q
    simp only [Table.insert] at h
    split at h
    · simp only [List.mem_cons] at h ⊢; tauto
    · split at h
      · simp only [List.mem_cons] at h ⊢; tauto
      · simp only [List.mem_cons] at h ⊢
        rcases h with h | h
        · exact .inr (.inl h)
        · rcases ih h with h | h
          · exact .inl h
          · exact .inr (.inr h)

theorem Table.wfBy_filter {α : Type} [DecidableEq α] (d : Nat → α) (t : Table α) (p : Nat × α → Bool) (h : Table.wfBy d t = true) :
    Table.wfBy d (t.filter p) = true := by
  simp only [Table.wfBy, Bool.and_eq_true, List.all_eq_true] at h ⊢
  exact ⟨Table.rises_filter none t p h.1, fun x hx => h.2 x (List.mem_filter.mp hx).1⟩

theorem Table.wfBy_put {α : Type} [DecidableEq α] (d : Nat → α) (t : Table α) (x : Nat) (v : α) (h : Table.wfBy d t = true) :
    Table.wfBy d (Table.put (d x) t x v) = true := by
  unfold Table.put
  split
  · rw [Table.erase_eq_filter]; exact Table.wfBy_filter d t _ h
  · rename_i hv
    simp only [Table.wfBy, Bool.and_eq_true, List.all_eq_true] at h ⊢
    refine ⟨Table.rises_insert none t x v h.1 (fun l hl => by cases hl), fun p hp => ?_⟩
    rcases Table.mem_insert t x v p hp with rfl | hp
    · simpa using hv
    · exact h.2 p hp

theorem mergeRegs_wf (l : List (Nat × Nat)) (t : Table Nat) (h : Table.wfBy Dict.default t = true) :
    Table.wfBy Dict.default (mergeRegs t l) = true := by
  induction l generalizing t with
  | nil => exact h
  | cons p l ih => exact ih _ (Table.wfBy_put Dict.default t p.1 p.2 h)

theorem mergeDoms_wf (l : List (Nat × List Byte)) (t : Table (List Byte)) (h : Table.wfBy domDefault t = true) :
    Table.wfBy domDefault (mergeDoms t l) = true := by
  induction l generalizing t with
  | nil => exact h
  | cons p l ih => exact ih _ (Table.wfBy_put domDefault t p.1 p.2 h)

theorem writeCells_wf (l : List (Nat × Byte)) (t : List Host.Cell) (h : Table.wf (0 : Byte) t = true) :
    Table.wf (0 : Byte) (writeCells t l) = true := by
  induction l generalizing t with
  | nil => exact h
  | cons p l ih => exact ih _ (Table.put_wf 0 t p.1 p.2 h)

/-! ### Beacon -/

theorem Beacon.tick_normal (b : Beacon) (trim : Int) (h : b.normal = true) (h1 : -(2 ^ 15) ≤ trim) (h2 : trim < 2 ^ 15) :
    (b.tick trim).normal = true := by
  simp only [Beacon.normal, Bool.and_eq_true, decide_eq_true_eq] at h ⊢
  unfold Beacon.tick
  dsimp only
  split
  · refine ⟨⟨Nat.mod_lt _ (by norm_num), ?_⟩, ?_⟩ <;> dsimp only <;> omega
  · refine ⟨⟨h.1.1, ?_⟩, ?_⟩ <;> dsimp only <;> omega

theorem Beacon.moved_normal (d : Int) (b : Beacon) (h : b.frac < 2 ^ 24) : (b.moved d).normal = true := by
  simp only [Beacon.normal, Bool.and_eq_true, decide_eq_true_eq]
  unfold Beacon.moved
  dsimp only
  refine ⟨⟨?_, ?_⟩, h⟩
  · omega
  · omega

theorem toSigned_range (w n : Nat) (h : 0 < w) : -(2 ^ (w - 1) : Nat) ≤ toSigned w n ∧ toSigned w n < (2 ^ (w - 1) : Nat) := by
  have hw : 2 ^ w = 2 ^ (w - 1) + 2 ^ (w - 1) := by
    obtain ⟨k, rfl⟩ : ∃ k, w = k + 1 := ⟨w - 1, by omega⟩
    simp [pow_succ]; omega
  have ht : trunc w n < 2 ^ w := Nat.mod_lt _ (by positivity)
  unfold toSigned
  split <;> omega

theorem or_put (t : Table Nat) (pad new : Nat) (h : Table.get 0 t pad ||| new = new) (p : Nat) :
    Table.get 0 t p ||| Table.get 0 (Table.put 0 t pad new) p = Table.get 0 (Table.put 0 t pad new) p := by
  by_cases hp : p = pad
  · subst hp
    rw [Table.get_put_same]; exact h
  · rw [Table.get_put_other _ _ _ hp]; exact Nat.or_self _

/-! ### Record updates -/

theorem Keeps.with_dram {s u : State} {x0 : Dram} (h0 : x0.wf = u.dram.wf) (k : Keeps s u) :
    Keeps s { u with dram := x0 } :=
  Keeps.step (t := u) ⟨id, id, fun h => by rw [h0]; exact h, id, id, id, fun _ => Nat.or_self _⟩ k

theorem Keeps.with_ylog {s u : State} {x0 : Ylog} (h0 : x0.bounded = u.ylog.bounded) (k : Keeps s u) :
    Keeps s { u with ylog := x0 } :=
  Keeps.step (t := u) ⟨id, id, id, fun h => by rw [h0]; exact h, id, id, fun _ => Nat.or_self _⟩ k

theorem Keeps.with_taper {s u : State} {x0 : Taper} (h0 : x0.ledger = u.taper.ledger) (k : Keeps s u) :
    Keeps s { u with taper := x0 } :=
  Keeps.step (t := u) ⟨id, id, id, id, fun h => by rw [h0]; exact h, id, fun _ => Nat.or_self _⟩ k

theorem Keeps.with_clock {s u : State} {x0 : Clock} (h0 : x0.beacon = u.clock.beacon) (k : Keeps s u) :
    Keeps s { u with clock := x0 } :=
  Keeps.step (t := u) ⟨id, id, id, id, id, fun h => by rw [h0]; exact h, fun _ => Nat.or_self _⟩ k

theorem Keeps.with_fuses {s u : State} {x0 : Fuses} (h0 : x0.blown = u.fuses.blown) (k : Keeps s u) :
    Keeps s { u with fuses := x0 } :=
  Keeps.step (t := u) ⟨id, id, id, id, id, id, fun p => by simp only [h0]; exact Nat.or_self _⟩ k

theorem Keeps.with_rst_taper_dram {s u : State} {x0 : ResetSt} {x1 : Taper} {x2 : Dram} (h1 : x1.ledger = u.taper.ledger) (h2 : x2.wf = u.dram.wf) (k : Keeps s u) :
    Keeps s { u with rst := x0, taper := x1, dram := x2 } :=
  Keeps.step (t := u) ⟨id, id, fun h => by rw [h2]; exact h, id, fun h => by rw [h1]; exact h, id, fun _ => Nat.or_self _⟩ k

theorem Keeps.with_role_strapped_clock_rst_fuses {s u : State} {x0 : Role} {x1 : Role} {x2 : Clock} {x3 : ResetSt} {x4 : Fuses} (h2 : x2.beacon = u.clock.beacon) (h4 : x4.blown = u.fuses.blown) (k : Keeps s u) :
    Keeps s { u with role := x0, strapped := x1, clock := x2, rst := x3, fuses := x4 } :=
  Keeps.step (t := u) ⟨id, id, id, id, id, fun h => by rw [h2]; exact h, fun p => by simp only [h4]; exact Nat.or_self _⟩ k

theorem Keeps.with_fuses_igrel {s u : State} {x0 : Fuses} {x1 : Igrel} (h0 : x0.blown = u.fuses.blown) (k : Keeps s u) :
    Keeps s { u with fuses := x0, igrel := x1 } :=
  Keeps.step (t := u) ⟨id, id, id, id, id, id, fun p => by simp only [h0]; exact Nat.or_self _⟩ k

theorem Keeps.with_pins_taper {s u : State} {x0 : Pins} {x1 : Taper} (h1 : x1.ledger = u.taper.ledger) (k : Keeps s u) :
    Keeps s { u with pins := x0, taper := x1 } :=
  Keeps.step (t := u) ⟨id, id, id, id, fun h => by rw [h1]; exact h, id, fun _ => Nat.or_self _⟩ k

theorem Keeps.with_taper_twin {s u : State} {x0 : Taper} {x1 : Twin} (h0 : x0.ledger = u.taper.ledger) (k : Keeps s u) :
    Keeps s { u with taper := x0, twin := x1 } :=
  Keeps.step (t := u) ⟨id, id, id, id, fun h => by rw [h0]; exact h, id, fun _ => Nat.or_self _⟩ k

theorem Keeps.with_enc_taper_twin_lantern {s u : State} {x0 : Encoder} {x1 : Taper} {x2 : Twin} {x3 : Lantern} (h1 : x1.ledger = u.taper.ledger) (k : Keeps s u) :
    Keeps s { u with enc := x0, taper := x1, twin := x2, lantern := x3 } :=
  Keeps.step (t := u) ⟨id, id, id, id, fun h => by rw [h1]; exact h, id, fun _ => Nat.or_self _⟩ k

theorem Keeps.with_taper_lantern_dram {s u : State} {x0 : Taper} {x1 : Lantern} {x2 : Dram} (h0 : x0.ledger = u.taper.ledger) (h2 : x2.wf = u.dram.wf) (k : Keeps s u) :
    Keeps s { u with taper := x0, lantern := x1, dram := x2 } :=
  Keeps.step (t := u) ⟨id, id, fun h => by rw [h2]; exact h, id, fun h => by rw [h0]; exact h, id, fun _ => Nat.or_self _⟩ k

theorem Keeps.with_clock_wick_flagged {s u : State} {x0 : Clock} {x1 : Wick} {x2 : Table Nat} (h0 : x0.beacon = u.clock.beacon) (k : Keeps s u) :
    Keeps s { u with clock := x0, wick := x1, flagged := x2 } :=
  Keeps.step (t := u) ⟨id, id, id, id, id, fun h => by rw [h0]; exact h, fun _ => Nat.or_self _⟩ k

theorem Keeps.with_fuses_ylog {s u : State} {x0 : Fuses} {x1 : Ylog} (h0 : x0.blown = u.fuses.blown) (h1 : x1.bounded = u.ylog.bounded) (k : Keeps s u) :
    Keeps s { u with fuses := x0, ylog := x1 } :=
  Keeps.step (t := u) ⟨id, id, id, fun h => by rw [h1]; exact h, id, id, fun p => by simp only [h0]; exact Nat.or_self _⟩ k

theorem Keeps.with_role_strapped_clock_rst_fuses_jtag {s u : State} {x0 : Role} {x1 : Role} {x2 : Clock} {x3 : ResetSt} {x4 : Fuses} {x5 : Jtag} (h2 : x2.beacon = u.clock.beacon) (h4 : x4.blown = u.fuses.blown) (k : Keeps s u) :
    Keeps s { u with role := x0, strapped := x1, clock := x2, rst := x3, fuses := x4, jtag := x5 } :=
  Keeps.step (t := u) ⟨id, id, id, id, id, fun h => by rw [h2]; exact h, fun p => by simp only [h4]; exact Nat.or_self _⟩ k

theorem Keeps.with_enc_taper_twin_lantern_led {s u : State} {x0 : Encoder} {x1 : Taper} {x2 : Twin} {x3 : Lantern} {x4 : Led} (h1 : x1.ledger = u.taper.ledger) (k : Keeps s u) :
    Keeps s { u with enc := x0, taper := x1, twin := x2, lantern := x3, led := x4 } :=
  Keeps.step (t := u) ⟨id, id, id, id, fun h => by rw [h1]; exact h, id, fun _ => Nat.or_self _⟩ k

end Sys2Proof.Machine
end

