-- ==== Sys2Proof/Laws/KeepsOpsToSuspend.lean ====
section
/-! SUPPORT. What every operation and meaning of Machine/Ops.lean to Machine/Suspend.lean keeps (see Keeps). -/

namespace Sys2Proof.Machine

/-! ### Ops -/

theorem State.setReg_keeps (s : State) (key v : Nat) : Keeps s (s.setReg key v) :=
  ⟨Table.wfBy_put Dict.default s.regs key v, id, id, id, id, id, fun _ => Nat.or_self _⟩

theorem State.setRegs_keeps (s : State) (x1 : List (Nat × Nat)) : Keeps s (State.setRegs s x1) := by
  induction x1 generalizing s with | nil => ?_ | cons y l ih => ?_
  · simp only [State.setRegs]
    exact .refl
  · simp only [State.setRegs]
    refine Keeps.step (ih ..) ?_
    refine Keeps.step (State.setReg_keeps ..) ?_
    exact .refl

theorem State.setSreg_keeps (s : State) (key : Nat) (v : Int) : Keeps s (State.setSreg s key v) := by
  unfold State.setSreg
  refine Keeps.step (State.setReg_keeps ..) ?_
  exact .refl

theorem State.setDom_keeps (s : State) (key : Nat) (c : List Byte) : Keeps s (s.setDom key c) :=
  ⟨id, Table.wfBy_put domDefault s.doms key _, id, id, id, id, fun _ => Nat.or_self _⟩

theorem State.count_keeps (s : State) (key : Nat) (n : Nat) : Keeps s (State.count s key n) := by
  unfold State.count
  refine Keeps.step (State.setReg_keeps ..) ?_
  exact .refl

theorem State.bump_keeps (s : State) (key : Nat) : Keeps s (State.bump s key) := by
  unfold State.bump
  refine Keeps.step (State.count_keeps ..) ?_
  exact .refl

theorem State.setBits_keeps (s : State) (key : Nat) (m : Nat) : Keeps s (State.setBits s key m) := by
  unfold State.setBits
  refine Keeps.step ((State.noteFlags_only ..).keeps (by decide)) ?_
  refine Keeps.step (State.setReg_keeps ..) ?_
  exact .refl

theorem State.clearBits_keeps (s : State) (key : Nat) (m : Nat) : Keeps s (State.clearBits s key m) := by
  unfold State.clearBits
  refine Keeps.step (State.setReg_keeps ..) ?_
  exact .refl

theorem State.clearFlag_keeps (s : State) (key : Nat) (m : Nat) : Keeps s (State.clearFlag s key m) := by
  unfold State.clearFlag
  refine Keeps.step (State.clearBits_keeps ..) ?_
  exact .refl

theorem State.setGroup_keeps (s : State) (g : Nat) (x : Group) : Keeps s (State.setGroup s g x) := by
  unfold State.setGroup
  refine Keeps.with_taper rfl ?_
  exact .refl

theorem State.ylogPut_keeps (s : State) (v : YEvent) : Keeps s (s.ylogPut v) := by
  unfold State.ylogPut
  extract_lets trig s0 idx after e post y1 s1 s2 y2 s3 y3 s4
  have h0 : Keeps s s0 := Keeps.ite (fun _ => (State.noteTrigger_only ..).keeps (by decide)) (fun _ => .refl)
  have h1 : Keeps s s1 := Keeps.step (t := s0) ⟨id, id, id, fun h => Bool.and_eq_true_iff.mpr
    ⟨decide_eq_true (List.length_take_le 4096 _), (Bool.and_eq_true_iff.mp h).2⟩, id, id, fun _ => Nat.or_self _⟩ h0
  refine Keeps.ite (fun _ => Keeps.step (State.bump_keeps ..) h0) (fun _ => ?_)
  refine Keeps.ite (fun _ => ?_) (fun _ => Keeps.ite (fun _ => ?_) (fun _ => ?_))
  · have h3 : Keeps s s3 := Keeps.with_ylog rfl (Keeps.step (State.bump_keeps ..) h1)
    exact Keeps.ite (fun _ => Keeps.step (State.setReg_keeps ..) h3) (fun _ => h3)
  · have h4 : Keeps s s4 := Keeps.with_ylog rfl (Keeps.step (State.setReg_keeps ..) (Keeps.step (State.bump_keeps ..) h1))
    exact Keeps.step (State.setReg_keeps ..) h4
  · exact Keeps.step (State.bump_keeps ..) h1

theorem State.ylogPuts_keeps (s : State) (l : List YEvent) : Keeps s (s.ylogPuts l) := by
  induction l generalizing s with
  | nil => exact .refl
  | cons v t ih => exact Keeps.step (ih _) (State.ylogPut_keeps ..)

theorem State.ylogClose_keeps (s : State) : Keeps s s.ylogClose := by
  refine ⟨id, id, id, fun h => ?_, id, id, fun _ => Nat.or_self _⟩
  exact Bool.and_eq_true_iff.mpr ⟨(Bool.and_eq_true_iff.mp h).1, rfl⟩

theorem State.ylogWrite_keeps (s : State) (code : Nat) (detail : List Byte) : Keeps s (s.ylogWrite code detail) := by
  unfold State.ylogWrite
  extract_lets v base batch s1 y
  have hb : s.ylog.bounded = true → base.entries.length ≤ 4096 := by
    intro h
    have h := Bool.and_eq_true_iff.mp h
    show (s.ylog.base.getD s.ylogBase).entries.length ≤ 4096
    cases hx : s.ylog.base with
    | none => exact of_decide_eq_true h.1
    | some b => rw [hx] at h; exact of_decide_eq_true h.2
  have back : Keeps s (s.ylogBack base) := by
    unfold State.ylogBack
    extract_lets u z
    have hu : Keeps s u := Keeps.step (State.setReg_keeps ..) (Keeps.step (State.setReg_keeps ..) (State.setReg_keeps ..))
    have hz : Keeps s (u.setReg Obj.missed base.missed) := Keeps.step (State.setReg_keeps ..) hu
    exact ⟨hz.regs, hz.doms, hz.mem, fun h => Bool.and_eq_true_iff.mpr ⟨decide_eq_true (hb h), (Bool.and_eq_true_iff.mp h).2⟩,
      hz.ledger, hz.beacon, hz.fuses⟩
  have h1 : Keeps s s1 := Keeps.ite (fun _ => State.ylogPut_keeps ..) (fun _ => Keeps.step (State.ylogPuts_keeps ..) back)
  exact ⟨h1.regs, h1.doms, h1.mem, fun h => Bool.and_eq_true_iff.mpr
    ⟨(Bool.and_eq_true_iff.mp (h1.log h)).1, decide_eq_true (hb h)⟩, h1.ledger, h1.beacon, h1.fuses⟩

theorem State.logEvent_keeps (s : State) (code : Nat) (detail : List Byte) : Keeps s (State.logEvent s code detail) := by
  unfold State.logEvent
  dsimp only
  refine Keeps.step ((State.sendEach_only ..).keeps (by decide)) ?_
  refine Keeps.step (State.ylogWrite_keeps ..) ?_
  exact .refl

theorem State.startFreeze_keeps (s : State) : Keeps s (State.startFreeze s) := by
  unfold State.startFreeze
  dsimp only
  refine Keeps.with_ylog rfl ?_
  refine Keeps.step (State.setReg_keeps ..) ?_
  refine Keeps.step (State.setReg_keeps ..) ?_
  refine Keeps.step (State.ylogClose_keeps ..) ?_
  exact .refl

theorem State.freezeTrigger_keeps (s : State) : Keeps s (State.freezeTrigger s) := by
  unfold State.freezeTrigger
  dsimp only
  refine Keeps.ite (fun _ => ?_) (fun _ => ?_)
  · refine Keeps.step ((State.noteTrigger_only ..).keeps (by decide)) ?_
    exact .refl
  · refine Keeps.step (State.startFreeze_keeps ..) ?_
    refine Keeps.step ((State.noteTrigger_only ..).keeps (by decide)) ?_
    exact .refl

theorem State.freezeAtReset_keeps (s : State) : Keeps s s.freezeAtReset := by
  unfold State.freezeAtReset
  extract_lets s1 y
  have h1 : Keeps s s1 := Keeps.ite (fun _ => State.setReg_keeps ..) (fun _ => .refl)
  refine Keeps.step (t := s1.setReg Obj.ylogState 2) ?_ (Keeps.step (State.setReg_keeps ..) h1)
  exact ⟨id, id, id, fun h => Bool.and_eq_true_iff.mpr ⟨(Bool.and_eq_true_iff.mp h).1, rfl⟩, id, id, fun _ => Nat.or_self _⟩

theorem State.setCause_keeps (s : State) (b : Nat) : Keeps s (State.setCause s b) := by
  unfold State.setCause
  refine Keeps.ite (fun _ => ?_) (fun _ => ?_)
  · refine Keeps.step (State.setBits_keeps ..) ?_
    exact .refl
  · exact .refl

theorem State.toMode_keeps (s : State) (m : Mode) : Keeps s (State.toMode s m) := by
  unfold State.toMode
  dsimp only
  refine Keeps.step (State.logEvent_keeps ..) ?_
  refine Keeps.step (Only.keeps (Only.with_mode (d := [.mode]) (by decide) .refl) (by decide)) ?_
  refine Keeps.step (State.setReg_keeps ..) ?_
  exact .refl

theorem State.conflict_keeps (s : State) (key : Nat) : Keeps s (State.conflict s key) := by
  unfold State.conflict
  refine Keeps.step (State.logEvent_keeps ..) ?_
  refine Keeps.step (State.bump_keeps ..) ?_
  exact .refl

/-! ### Memory -/

theorem State.askMem_keeps (s : State) (who : MemUser) (write : Bool) (bursts : Nat) : Keeps s (State.askMem s who write bursts) := by
  unfold State.askMem
  refine Keeps.ite (fun _ => ?_) (fun _ => ?_)
  · exact .refl
  · dsimp only
    refine Keeps.ite (fun _ => ?_) (fun _ => ?_)
    · refine Keeps.with_dram rfl ?_
      exact .refl
    · refine Keeps.with_dram rfl ?_
      exact .refl

theorem State.dropMem_keeps (s : State) (who : MemUser) : Keeps s (State.dropMem s who) := by
  unfold State.dropMem
  refine Keeps.with_dram rfl ?_
  exact .refl

theorem State.promoteAged_keeps (s : State) : Keeps s (State.promoteAged s) := by
  unfold State.promoteAged
  refine Keeps.ite (fun _ => ?_) (fun _ => ?_)
  · exact .refl
  · refine Keeps.with_dram rfl ?_
    exact .refl

theorem State.memSlot_keeps (s : State) : Keeps s (State.memSlot s) := by
  unfold State.memSlot
  refine Keeps.ite (fun _ => ?_) (fun _ => ?_)
  · exact .refl
  · dsimp only
    split
    · refine Keeps.step (State.promoteAged_keeps ..) ?_
      exact .refl
    · refine Keeps.step ((State.emit_only ..).keeps (by decide)) ?_
      refine Keeps.with_dram rfl ?_
      refine Keeps.step (State.promoteAged_keeps ..) ?_
      exact .refl

theorem State.writeMem_keeps (s : State) (who : MemUser) (cells : List (Nat × Byte)) : Keeps s (s.writeMem who cells) := by
  unfold State.writeMem
  extract_lets mem s2
  have h : Keeps s s2 := Keeps.step (State.askMem_keeps ..) (State.askMem_keeps ..)
  refine ⟨h.regs, h.doms, fun x => ?_, h.log, h.ledger, h.beacon, h.fuses⟩
  have y := h.mem x
  simp only [Dram.wf, Memory.wf, Bool.and_eq_true] at x y ⊢
  exact ⟨writeCells_wf _ _ x.1, writeCells_wf _ _ y.2⟩

/-! ### Store -/

theorem State.freeRing_keeps (s : State) (k : Nat) : Keeps s (State.freeRing s k) := by
  unfold State.freeRing
  dsimp only
  refine Keeps.ite (fun _ => ?_) (fun _ => ?_)
  · exact .refl
  · refine Keeps.step (Only.keeps (Only.with_raster (d := [.raster]) (by decide) .refl) (by decide)) ?_
    refine Keeps.step (State.setReg_keeps ..) ?_
    refine Keeps.step ((State.setRing_only ..).keeps (by decide)) ?_
    exact .refl

theorem State.freeRings_keeps (s : State) (x1 : List Nat) : Keeps s (State.freeRings s x1) := by
  induction x1 generalizing s with | nil => ?_ | cons y l ih => ?_
  · simp only [State.freeRings]
    exact .refl
  · simp only [State.freeRings]
    refine Keeps.step (ih ..) ?_
    refine Keeps.step (State.freeRing_keeps ..) ?_
    exact .refl

theorem State.resend_keeps (s : State) (k : Nat) : Keeps s (State.resend s k) := by
  unfold State.resend
  refine Keeps.ite (fun _ => ?_) (fun _ => ?_)
  · refine Keeps.ite (fun _ => ?_) (fun _ => ?_)
    · exact .refl
    · refine Keeps.step (Only.keeps (Only.with_raster (d := [.raster]) (by decide) .refl) (by decide)) ?_
      exact .refl
  · dsimp only
    refine Keeps.step (Only.keeps (Only.with_raster (d := [.raster]) (by decide) .refl) (by decide)) ?_
    refine Keeps.step (State.bump_keeps ..) ?_
    refine Keeps.step ((State.sendCredits_only ..).keeps (by decide)) ?_
    exact .refl

theorem State.grantFull_keeps (s : State) (k : Nat) : Keeps s (State.grantFull s k) := by
  unfold State.grantFull
  dsimp only
  refine Keeps.step (State.bump_keeps ..) ?_
  refine Keeps.step (Only.keeps (Only.with_raster (d := [.raster]) (by decide) .refl) (by decide)) ?_
  refine Keeps.step (State.setReg_keeps ..) ?_
  exact .refl

theorem State.grantEach_keeps (s : State) (x1 : List Nat) : Keeps s (State.grantEach s x1) := by
  induction x1 generalizing s with | nil => ?_ | cons y l ih => ?_
  · simp only [State.grantEach]
    exact .refl
  · simp only [State.grantEach]
    refine Keeps.step (ih ..) ?_
    refine Keeps.step (State.grantFull_keeps ..) ?_
    exact .refl

theorem State.grantAll_keeps (s : State) (l : List Nat) : Keeps s (State.grantAll s l) := by
  unfold State.grantAll
  refine Keeps.step ((State.sendCredits_only ..).keeps (by decide)) ?_
  refine Keeps.step (State.grantEach_keeps ..) ?_
  exact .refl

theorem State.storeBlock_keeps (s : State) (k : Nat) (wax : List Byte) : Keeps s (State.storeBlock s k wax) := by
  unfold State.storeBlock
  dsimp only
  refine Keeps.step (State.count_keeps ..) ?_
  refine Keeps.step (State.bump_keeps ..) ?_
  refine Keeps.step (State.setReg_keeps ..) ?_
  refine Keeps.step (State.setReg_keeps ..) ?_
  refine Keeps.step (State.setReg_keeps ..) ?_
  refine Keeps.step (Only.keeps (Only.with_raster (d := [.raster]) (by decide) .refl) (by decide)) ?_
  refine Keeps.step ((State.setRing_only ..).keeps (by decide)) ?_
  refine Keeps.step (State.writeMem_keeps ..) ?_
  exact .refl

theorem State.intake_keeps (s : State) (k : Nat) (wax : List Byte) : Keeps s (State.intake s k wax) := by
  unfold State.intake
  refine Keeps.ite (fun _ => ?_) (fun _ => ?_)
  · refine Keeps.step (State.resend_keeps ..) ?_
    refine Keeps.step (State.bump_keeps ..) ?_
    exact .refl
  · refine Keeps.ite (fun _ => ?_) (fun _ => ?_)
    · refine Keeps.step (State.resend_keeps ..) ?_
      refine Keeps.step (State.bump_keeps ..) ?_
      refine Keeps.step (State.bump_keeps ..) ?_
      exact .refl
    · refine Keeps.step (State.storeBlock_keeps ..) ?_
      exact .refl

theorem State.setCommitted_keeps (s : State) (x1 : List (Nat × Nat)) : Keeps s (State.setCommitted s x1) := by
  induction x1 generalizing s with | nil => ?_ | cons y l ih => ?_
  · simp only [State.setCommitted]
    exact .refl
  · simp only [State.setCommitted]
    refine Keeps.step (ih ..) ?_
    refine Keeps.step (State.setReg_keeps ..) ?_
    exact .refl

theorem State.startAt_keeps (s : State) (first : Nat) : Keeps s (State.startAt s first) := by
  unfold State.startAt
  dsimp only
  refine Keeps.foldl (fun t x => ?_) ?_
  · refine Keeps.step (State.setReg_keeps ..) ?_
    refine Keeps.step (State.setGroup_keeps ..) ?_
    exact .refl
  · refine Keeps.step (Only.keeps (Only.with_decomp (d := [.decomp]) (by decide) .refl) (by decide)) ?_
    exact .refl

theorem State.startJoin_keeps (s : State) (first : Nat) (line : Nat) : Keeps s (State.startJoin s first line) := by
  unfold State.startJoin
  dsimp only
  refine Keeps.foldl (fun t x => ?_) ?_
  · refine Keeps.step (State.setReg_keeps ..) ?_
    refine Keeps.step (State.setGroup_keeps ..) ?_
    exact .refl
  · refine Keeps.step (Only.keeps (Only.with_raster_decomp (d := [.raster, .decomp]) (by decide) .refl) (by decide)) ?_
    exact .refl

theorem State.startPages_keeps (s : State) (first : Nat) : Keeps s (State.startPages s first) := by
  unfold State.startPages
  split
  · refine Keeps.ite (fun _ => ?_) (fun _ => ?_)
    · refine Keeps.step (State.startJoin_keeps ..) ?_
      exact .refl
    · refine Keeps.step (State.startAt_keeps ..) ?_
      exact .refl
  · refine Keeps.step (State.startAt_keeps ..) ?_
    exact .refl

theorem State.acceptCommit_keeps (s : State) (c : CommitReq) : Keeps s (State.acceptCommit s c) := by
  unfold State.acceptCommit
  dsimp only
  refine Keeps.step (Only.keeps (Only.with_raster (d := [.raster]) (by decide) .refl) (by decide)) ?_
  refine Keeps.step (State.setReg_keeps ..) ?_
  refine Keeps.ite (fun _ => ?_) (fun _ => ?_)
  · refine Keeps.step (State.startPages_keeps ..) ?_
    refine Keeps.step (State.setCommitted_keeps ..) ?_
    exact .refl
  · refine Keeps.step (State.setCommitted_keeps ..) ?_
    exact .refl

/-! ### Decomp -/

theorem State.waxError_keeps (s : State) (k : Nat) (err : WaxErr) : Keeps s (State.waxError s k err) := by
  unfold State.waxError
  split
  refine Keeps.ite (fun _ => ?_) (fun _ => ?_)
  · exact .refl
  · dsimp only
    refine Keeps.ite (fun _ => ?_) (fun _ => ?_)
    · refine Keeps.step (State.setReg_keeps ..) ?_
      refine Keeps.step (State.bump_keeps ..) ?_
      exact .refl
    · refine Keeps.step (State.logEvent_keeps ..) ?_
      refine Keeps.step ((State.setCtx_only ..).keeps (by decide)) ?_
      refine Keeps.step (State.setReg_keeps ..) ?_
      refine Keeps.step (State.bump_keeps ..) ?_
      exact .refl

theorem State.noteErrs_keeps (s : State) (k : Nat) (x2 : List WaxErr) : Keeps s (State.noteErrs s k x2) := by
  induction x2 generalizing s k with | nil => ?_ | cons y l ih => ?_
  · simp only [State.noteErrs]
    exact .refl
  · simp only [State.noteErrs]
    refine Keeps.step (ih ..) ?_
    refine Keeps.step (State.waxError_keeps ..) ?_
    exact .refl

theorem State.advance_keeps (s : State) (k : Nat) (st : CtxState) : Keeps s (State.advance s k st) := by
  unfold State.advance
  dsimp only
  refine Keeps.step ((State.withoutStale_only ..).keeps (by decide)) ?_
  refine Keeps.step (State.setReg_keeps ..) ?_
  refine Keeps.step ((State.setCtx_only ..).keeps (by decide)) ?_
  exact .refl

theorem State.passAhead_keeps (s : State) (k : Nat) : Keeps s (State.passAhead s k) := by
  unfold State.passAhead
  split
  · refine Keeps.step (State.advance_keeps ..) ?_
    exact .refl
  · exact .refl

theorem State.ckptStep_keeps {s : State} {k : Nat} {u : State} (h : s.ckptStep k = some u) : Keeps s u := by
  unfold State.ckptStep at h
  dsimp only at h
  split at h
  · cases h
  · cases h
    refine Keeps.step ((State.noteImage_only ..).keeps (by decide)) ?_
    refine Keeps.step (State.setReg_keeps ..) ?_
    refine Keeps.step ((State.setCtx_only ..).keeps (by decide)) ?_
    exact State.passAhead_keeps ..

theorem State.ckptTo_keeps (s : State) (k : Nat) (n : Nat) (x3 : Nat) : Keeps s (State.ckptTo s k n x3) := by
  induction x3 generalizing s k n with | zero => ?_ | succ k ih => ?_
  · simp only [State.ckptTo]
    exact .refl
  · simp only [State.ckptTo]
    refine Keeps.ite (fun _ => ?_) (fun _ => ?_)
    · exact .refl
    · split
      · exact .refl
      · refine Keeps.step (ih ..) ?_
        refine Keeps.step (State.ckptStep_keeps (by assumption)) ?_
        exact .refl

theorem State.ckptAll_keeps (s : State) (n : Nat) (x2 : List Nat) : Keeps s (State.ckptAll s n x2) := by
  induction x2 generalizing s n with | nil => ?_ | cons y l ih => ?_
  · simp only [State.ckptAll]
    exact .refl
  · simp only [State.ckptAll]
    refine Keeps.step (ih ..) ?_
    refine Keeps.step (State.freeRing_keeps ..) ?_
    refine Keeps.step (State.ckptTo_keeps ..) ?_
    exact .refl

theorem State.takeJob_keeps (s : State) (e : Nat) : Keeps s (State.takeJob s e) := by
  unfold State.takeJob
  refine Keeps.ite (fun _ => ?_) (fun _ => ?_)
  · exact .refl
  · split
    · exact .refl
    · refine Keeps.step (State.askMem_keeps ..) ?_
      refine Keeps.step (Only.keeps (Only.with_decomp (d := [.decomp]) (by decide) .refl) (by decide)) ?_
      exact .refl

theorem State.takeJobs_keeps (s : State) : Keeps s (State.takeJobs s) := by
  unfold State.takeJobs
  dsimp only
  refine Keeps.foldl (fun t x => ?_) ?_
  · refine Keeps.step (State.takeJob_keeps ..) ?_
    exact .refl
  · refine Keeps.step (Only.keeps (Only.with_decomp (d := [.decomp]) (by decide) .refl) (by decide)) ?_
    exact .refl

theorem State.addJobs_keeps (s : State) (js : List Job) : Keeps s (State.addJobs s js) := by
  unfold State.addJobs
  refine Keeps.step (State.takeJobs_keeps ..) ?_
  refine Keeps.step (Only.keeps (Only.with_decomp (d := [.decomp]) (by decide) .refl) (by decide)) ?_
  exact .refl

theorem State.noteHeld_keeps (s : State) (k : Nat) : Keeps s (State.noteHeld s k) := by
  unfold State.noteHeld
  refine Keeps.ite (fun _ => ?_) (fun _ => ?_)
  · refine Keeps.step (State.setReg_keeps ..) ?_
    exact .refl
  · exact .refl

theorem State.putLine_keeps (s : State) (k : Nat) (n : Nat) (l : List Byte) : Keeps s (State.putLine s k n l) := by
  unfold State.putLine
  refine Keeps.ite (fun _ => ?_) (fun _ => ?_)
  · exact .refl
  · split
    dsimp only
    refine Keeps.step (State.noteHeld_keeps ..) ?_
    refine Keeps.step ((State.setSlots_only ..).keeps (by decide)) ?_
    exact .refl

theorem State.ckptUp_keeps (s : State) (k : Nat) : Keeps s (State.ckptUp s k) := by
  unfold State.ckptUp
  refine Keeps.ite (fun _ => ?_) (fun _ => ?_)
  · refine Keeps.step (State.ckptAll_keeps ..) ?_
    exact .refl
  · exact .refl

theorem State.completeJob_keeps (s : State) (j : Job) : Keeps s (State.completeJob s j) := by
  unfold State.completeJob
  dsimp only
  refine Keeps.ite (fun _ => ?_) (fun _ => ?_)
  · exact .refl
  · split
    · exact .refl
    · refine Keeps.ite (fun _ => ?_) (fun _ => ?_)
      · refine Keeps.step (State.bump_keeps ..) ?_
        refine Keeps.step (State.noteErrs_keeps ..) ?_
        exact .refl
      · refine Keeps.step (State.ckptUp_keeps ..) ?_
        refine Keeps.step (State.putLine_keeps ..) ?_
        refine Keeps.step (State.advance_keeps ..) ?_
        refine Keeps.step (State.bump_keeps ..) ?_
        refine Keeps.step (State.noteErrs_keeps ..) ?_
        exact .refl
    · refine Keeps.ite (fun _ => ?_) (fun _ => ?_)
      · refine Keeps.step (State.noteErrs_keeps ..) ?_
        exact .refl
      · refine Keeps.step (State.ckptUp_keeps ..) ?_
        refine Keeps.step (State.advance_keeps ..) ?_
        refine Keeps.step (State.noteErrs_keeps ..) ?_
        exact .refl

theorem State.decodeTo_keeps (s : State) (k : Nat) (n : Nat) (x3 : Nat) : Keeps s (State.decodeTo s k n x3) := by
  induction x3 generalizing s k n with | zero => ?_ | succ k ih => ?_
  · simp only [State.decodeTo]
    exact .refl
  · simp only [State.decodeTo]
    refine Keeps.ite (fun _ => ?_) (fun _ => ?_)
    · exact .refl
    · refine Keeps.step (ih ..) ?_
      refine Keeps.step (State.completeJob_keeps ..) ?_
      exact .refl

theorem State.decodeAll_keeps (s : State) (n : Nat) (x2 : List Nat) : Keeps s (State.decodeAll s n x2) := by
  induction x2 generalizing s n with | nil => ?_ | cons y l ih => ?_
  · simp only [State.decodeAll]
    exact .refl
  · simp only [State.decodeAll]
    refine Keeps.step (ih ..) ?_
    refine Keeps.step (State.decodeTo_keeps ..) ?_
    exact .refl

theorem State.takeImage_keeps (s : State) (k : Nat) (b : List Byte) : Keeps s (State.takeImage s k b) := by
  unfold State.takeImage
  dsimp only
  refine Keeps.step (State.setReg_keeps ..) ?_
  refine Keeps.step (State.setReg_keeps ..) ?_
  refine Keeps.step ((State.setCtx_only ..).keeps (by decide)) ?_
  exact .refl

/-! ### Wick -/

theorem State.setLevel_keeps (s : State) (p : Nat) (v : Int) : Keeps s (State.setLevel s p v) := by
  unfold State.setLevel
  dsimp only
  refine Keeps.step (Only.keeps (Only.with_wick (d := [.wick]) (by decide) .refl) (by decide)) ?_
  refine Keeps.ite (fun _ => ?_) (fun _ => ?_)
  · refine Keeps.step (State.setBits_keeps ..) ?_
    exact .refl
  · exact .refl

theorem State.chargePool_keeps (s : State) (p : Nat) (e : Nat) : Keeps s (State.chargePool s p e) := by
  unfold State.chargePool
  refine Keeps.step (State.setLevel_keeps ..) ?_
  exact .refl

theorem State.refundPool_keeps (s : State) (p : Nat) (e : Nat) : Keeps s (State.refundPool s p e) := by
  unfold State.refundPool
  refine Keeps.ite (fun _ => ?_) (fun _ => ?_)
  · exact .refl
  · refine Keeps.step (State.setLevel_keeps ..) ?_
    exact .refl

theorem State.refill_keeps (s : State) : Keeps s (State.refill s) := by
  unfold State.refill
  dsimp only
  refine Keeps.step (State.setLevel_keeps ..) ?_
  refine Keeps.step (State.setLevel_keeps ..) ?_
  refine Keeps.step (State.setLevel_keeps ..) ?_
  exact .refl

theorem State.countPools_keeps (s : State) (f : Nat → Nat) (x2 : List (Nat × Nat)) : Keeps s (State.countPools s f x2) := by
  induction x2 generalizing s f with | nil => ?_ | cons y l ih => ?_
  · simp only [State.countPools]
    exact .refl
  · simp only [State.countPools]
    refine Keeps.step (ih ..) ?_
    refine Keeps.step (State.bump_keeps ..) ?_
    exact .refl

theorem State.chargeAll_keeps (s : State) (x1 : List (Nat × Nat)) : Keeps s (State.chargeAll s x1) := by
  induction x1 generalizing s with | nil => ?_ | cons y l ih => ?_
  · simp only [State.chargeAll]
    exact .refl
  · simp only [State.chargeAll]
    refine Keeps.step (ih ..) ?_
    refine Keeps.step (State.chargePool_keeps ..) ?_
    exact .refl

theorem State.noteQueued_keeps (s : State) : Keeps s (State.noteQueued s) := by
  unfold State.noteQueued
  dsimp only
  refine Keeps.step (State.setReg_keeps ..) ?_
  refine Keeps.step (State.setReg_keeps ..) ?_
  refine Keeps.step (State.setReg_keeps ..) ?_
  exact .refl

theorem State.giveLeave_keeps (s : State) (r : WickReq) : Keeps s (State.giveLeave s r) := by
  unfold State.giveLeave
  dsimp only
  refine Keeps.step (Only.keeps (Only.with_wick (d := [.wick]) (by decide) .refl) (by decide)) ?_
  refine Keeps.step (State.countPools_keeps ..) ?_
  refine Keeps.step (State.chargeAll_keeps ..) ?_
  exact .refl

theorem State.refuseLeave_keeps (s : State) (r : WickReq) : Keeps s (State.refuseLeave s r) := by
  unfold State.refuseLeave
  refine Keeps.step (State.setBits_keeps ..) ?_
  refine Keeps.step (State.countPools_keeps ..) ?_
  exact .refl

theorem State.ask_keeps (s : State) (r : WickReq) : Keeps s (State.ask s r).2 := by
  unfold State.ask
  split
  · split
    · dsimp only
      refine Keeps.step (Only.keeps (Only.with_wick (d := [.wick]) (by decide) .refl) (by decide)) ?_
      exact .refl
    · dsimp only
      refine Keeps.step (State.giveLeave_keeps ..) ?_
      exact .refl
  · split
    · dsimp only
      exact .refl
    · split
      · dsimp only
        refine Keeps.step (State.refuseLeave_keeps ..) ?_
        exact .refl
      · split
        · dsimp only
          refine Keeps.step (State.giveLeave_keeps ..) ?_
          exact .refl
        · dsimp only
          split
          · dsimp only
            refine Keeps.step (State.noteQueued_keeps ..) ?_
            refine Keeps.step (Only.keeps (Only.with_wick (d := [.wick]) (by decide) .refl) (by decide)) ?_
            refine Keeps.step (State.countPools_keeps ..) ?_
            exact .refl
          · dsimp only
            refine Keeps.step (State.countPools_keeps ..) ?_
            exact .refl

theorem State.unqueue_keeps (s : State) (id : Nat) : Keeps s (State.unqueue s id) := by
  unfold State.unqueue
  refine Keeps.step (State.noteQueued_keeps ..) ?_
  refine Keeps.step (Only.keeps (Only.with_wick (d := [.wick]) (by decide) .refl) (by decide)) ?_
  exact .refl

theorem State.endPurge_keeps (s : State) : Keeps s (State.endPurge s) := by
  unfold State.endPurge
  refine Keeps.step (State.noteQueued_keeps ..) ?_
  refine Keeps.step (Only.keeps (Only.with_wick (d := [.wick]) (by decide) .refl) (by decide)) ?_
  exact .refl

theorem State.refuseEach_keeps (s : State) (x1 : List WickWait) : Keeps s (State.refuseEach s x1) := by
  induction x1 generalizing s with | nil => ?_ | cons y l ih => ?_
  · simp only [State.refuseEach]
    exact .refl
  · simp only [State.refuseEach]
    refine Keeps.step (ih ..) ?_
    refine Keeps.step (State.refuseLeave_keeps ..) ?_
    refine Keeps.step (State.unqueue_keeps ..) ?_
    exact .refl

theorem State.withdrawEach_keeps (s : State) (x1 : List WickReq) : Keeps s (State.withdrawEach s x1) := by
  induction x1 generalizing s with | nil => ?_ | cons y l ih => ?_
  · simp only [State.withdrawEach]
    exact .refl
  · simp only [State.withdrawEach]
    refine Keeps.step (ih ..) ?_
    refine Keeps.step ((State.useLeave_only ..).keeps (by decide)) ?_
    refine Keeps.foldl (fun t x => ?_) ?_
    · refine Keeps.step (State.refundPool_keeps ..) ?_
      exact .refl
    · exact .refl

theorem State.wickSnuff_keeps (s : State) : Keeps s (State.wickSnuff s) := by
  unfold State.wickSnuff
  dsimp only
  refine Keeps.step (State.endPurge_keeps ..) ?_
  refine Keeps.step (State.withdrawEach_keeps ..) ?_
  refine Keeps.step (State.refuseEach_keeps ..) ?_
  exact .refl

theorem State.holdDecision_keeps (s : State) (g : Nat) (n : Nat) (o : WickOut) (charge : Nat) : Keeps s (State.holdDecision s g n o charge) := by
  unfold State.holdDecision
  dsimp only
  refine Keeps.step ((State.tagOutcome_only ..).keeps (by decide)) ?_
  refine Keeps.with_taper rfl ?_
  exact .refl

theorem State.noteOutcome_keeps (s : State) (g : Nat) (n : Nat) (o : WickOut) : Keeps s (State.noteOutcome s g n o) := by
  unfold State.noteOutcome
  dsimp only
  split
  · exact .refl
  · refine Keeps.ite (fun _ => ?_) (fun _ => ?_)
    · refine Keeps.step (State.logEvent_keeps ..) ?_
      refine Keeps.step (State.setGroup_keeps ..) ?_
      refine Keeps.step (State.setBits_keeps ..) ?_
      refine Keeps.step (State.bump_keeps ..) ?_
      exact .refl
    · refine Keeps.step (State.setBits_keeps ..) ?_
      refine Keeps.step (State.bump_keeps ..) ?_
      exact .refl
  · refine Keeps.ite (fun _ => ?_) (fun _ => ?_)
    · refine Keeps.step (State.logEvent_keeps ..) ?_
      refine Keeps.step (State.setGroup_keeps ..) ?_
      exact .refl
    · exact .refl

theorem State.refundLine_keeps (s : State) (g : Nat) (n : Nat) : Keeps s (State.refundLine s g n) := by
  unfold State.refundLine
  split
  · exact .refl
  · dsimp only
    refine Keeps.step (State.refundPool_keeps ..) ?_
    refine Keeps.with_taper rfl ?_
    exact .refl

theorem State.dropDecision_keeps (s : State) (g : Nat) (n : Nat) : Keeps s (State.dropDecision s g n) := by
  unfold State.dropDecision
  refine Keeps.with_taper rfl ?_
  exact .refl

theorem State.refundFrom_keeps (s : State) (g : Nat) (n : Nat) : Keeps s (State.refundFrom s g n) := by
  unfold State.refundFrom
  refine Keeps.foldl (fun t x => ?_) ?_
  · refine Keeps.step (State.refundLine_keeps ..) ?_
    exact .refl
  · exact .refl

/-! ### Head -/

theorem State.laneFlag_keeps (s : State) (m : Nat) (mask : Nat) : Keeps s (State.laneFlag s m mask) := by
  unfold State.laneFlag
  refine Keeps.step (State.setBits_keeps ..) ?_
  exact .refl

/-! ### Strip -/

theorem State.trimSlots_keeps (s : State) (st : Nat) : Keeps s (State.trimSlots s st) := by
  unfold State.trimSlots
  dsimp only
  refine Keeps.step (State.noteHeld_keeps ..) ?_
  refine Keeps.step ((State.setSlots_only ..).keeps (by decide)) ?_
  exact .refl

theorem State.slotState_keeps (s : State) (n : Nat) (x : SlotSt) (x3 : List Nat) : Keeps s (State.slotState s n x x3) := by
  induction x3 generalizing s n x with | nil => ?_ | cons y l ih => ?_
  · simp only [State.slotState]
    exact .refl
  · simp only [State.slotState]
    refine Keeps.step (ih ..) ?_
    refine Keeps.step (State.trimSlots_keeps ..) ?_
    refine Keeps.step ((State.modSlot_only ..).keeps (by decide)) ?_
    exact .refl

/-! ### Lines -/

theorem State.stripFired_keeps (s : State) (n : Nat) (gen : Nat) (o : WickOut) (k : Nat) : Keeps s (State.stripFired s n gen o k) := by
  unfold State.stripFired
  dsimp only
  split
  · refine Keeps.step (State.bump_keeps ..) ?_
    exact .refl
  · refine Keeps.step (State.count_keeps ..) ?_
    refine Keeps.step (State.count_keeps ..) ?_
    refine Keeps.step (State.count_keeps ..) ?_
    refine Keeps.step (State.count_keeps ..) ?_
    refine Keeps.step (State.count_keeps ..) ?_
    refine Keeps.step (State.count_keeps ..) ?_
    refine Keeps.step (State.bump_keeps ..) ?_
    exact .refl

theorem State.stripsFired_keeps (s : State) (n : Nat) (gen : Nat) (o : WickOut) (x4 : List Nat) : Keeps s (State.stripsFired s n gen o x4) := by
  induction x4 generalizing s n gen o with | nil => ?_ | cons y l ih => ?_
  · simp only [State.stripsFired]
    exact .refl
  · simp only [State.stripsFired]
    refine Keeps.step (ih ..) ?_
    refine Keeps.step (State.stripFired_keeps ..) ?_
    exact .refl

theorem State.bumpEach_keeps (s : State) (f : Nat → Nat) (x2 : List Nat) : Keeps s (State.bumpEach s f x2) := by
  induction x2 generalizing s f with | nil => ?_ | cons y l ih => ?_
  · simp only [State.bumpEach]
    exact .refl
  · simp only [State.bumpEach]
    refine Keeps.step (ih ..) ?_
    refine Keeps.step (State.bump_keeps ..) ?_
    exact .refl

theorem State.confirmBooks_keeps (s : State) (flags : Nat) (lateArm : Bool) : Keeps s (State.confirmBooks s flags lateArm) := by
  unfold State.confirmBooks
  refine Keeps.ite (fun _ => ?_) (fun _ => ?_)
  · dsimp only
    refine Keeps.ite (fun _ => ?_) (fun _ => ?_)
    · refine Keeps.step (State.bump_keeps ..) ?_
      refine Keeps.ite (fun _ => ?_) (fun _ => ?_)
      · refine Keeps.step (State.bump_keeps ..) ?_
        refine Keeps.ite (fun _ => ?_) (fun _ => ?_)
        · refine Keeps.step (State.bump_keeps ..) ?_
          refine Keeps.step (State.bump_keeps ..) ?_
          exact .refl
        · refine Keeps.step (State.bump_keeps ..) ?_
          exact .refl
      · refine Keeps.ite (fun _ => ?_) (fun _ => ?_)
        · refine Keeps.step (State.bump_keeps ..) ?_
          refine Keeps.step (State.bump_keeps ..) ?_
          exact .refl
        · refine Keeps.step (State.bump_keeps ..) ?_
          exact .refl
    · refine Keeps.ite (fun _ => ?_) (fun _ => ?_)
      · refine Keeps.step (State.bump_keeps ..) ?_
        refine Keeps.ite (fun _ => ?_) (fun _ => ?_)
        · refine Keeps.step (State.bump_keeps ..) ?_
          refine Keeps.step (State.bump_keeps ..) ?_
          exact .refl
        · refine Keeps.step (State.bump_keeps ..) ?_
          exact .refl
      · refine Keeps.ite (fun _ => ?_) (fun _ => ?_)
        · refine Keeps.step (State.bump_keeps ..) ?_
          refine Keeps.step (State.bump_keeps ..) ?_
          exact .refl
        · refine Keeps.step (State.bump_keeps ..) ?_
          exact .refl
  · exact .refl

theorem State.burst_keeps (s : State) (g : Nat) (cause : Nat) (seq : Nat) : Keeps s (State.burst s g cause seq) := by
  unfold State.burst
  refine Keeps.ite (fun _ => ?_) (fun _ => ?_)
  · exact .refl
  · dsimp only
    refine Keeps.ite (fun _ => ?_) (fun _ => ?_)
    · refine Keeps.step (State.logEvent_keeps ..) ?_
      refine Keeps.ite (fun _ => ?_) (fun _ => ?_)
      · refine Keeps.step (State.setCause_keeps ..) ?_
        refine Keeps.step (State.setGroup_keeps ..) ?_
        exact .refl
      · refine Keeps.step (State.setGroup_keeps ..) ?_
        exact .refl
    · refine Keeps.step (State.setGroup_keeps ..) ?_
      exact .refl

theorem State.ledgerEntry_keeps (s : State) (e : Entry) (total : Option Nat) : Keeps s (s.ledgerEntry e total) := by
  unfold State.ledgerEntry
  extract_lets t s1 s2 y s3
  have h1 : Keeps s s1 := Keeps.ite (fun _ => State.bump_keeps ..) (fun _ => .refl)
  have h3 : Keeps s2 s3 := ⟨id, id, id, id, fun _ => (List.length_take_le 4096 _), id, fun _ => Nat.or_self _⟩
  exact Keeps.step ((State.report_only ..).keeps (by decide)) (Keeps.step h3 (Keeps.step (State.setReg_keeps ..) h1))

theorem State.skipBooks_keeps (s : State) (x : LineSt) (total : Option Nat) : Keeps s (State.skipBooks s x total) := by
  unfold State.skipBooks
  dsimp only
  refine Keeps.step (State.burst_keeps ..) ?_
  refine Keeps.step (State.slotState_keeps ..) ?_
  refine Keeps.step (State.refundLine_keeps ..) ?_
  refine Keeps.ite (fun _ => ?_) (fun _ => ?_)
  · refine Keeps.step (State.setBits_keeps ..) ?_
    refine Keeps.step (State.bump_keeps ..) ?_
    refine Keeps.ite (fun _ => ?_) (fun _ => ?_)
    · refine Keeps.step (State.bump_keeps ..) ?_
      refine Keeps.step (State.bumpEach_keeps ..) ?_
      refine Keeps.step (State.ledgerEntry_keeps ..) ?_
      exact .refl
    · refine Keeps.step (State.bumpEach_keeps ..) ?_
      refine Keeps.step (State.ledgerEntry_keeps ..) ?_
      exact .refl
  · refine Keeps.ite (fun _ => ?_) (fun _ => ?_)
    · refine Keeps.step (State.bump_keeps ..) ?_
      refine Keeps.step (State.bumpEach_keeps ..) ?_
      refine Keeps.step (State.ledgerEntry_keeps ..) ?_
      exact .refl
    · refine Keeps.step (State.bumpEach_keeps ..) ?_
      refine Keeps.step (State.ledgerEntry_keeps ..) ?_
      exact .refl

theorem State.fireBooks_keeps (s : State) (x : LineSt) : Keeps s (State.fireBooks s x) := by
  unfold State.fireBooks
  dsimp only
  refine Keeps.step (State.dropDecision_keeps ..) ?_
  refine Keeps.step (State.setGroup_keeps ..) ?_
  refine Keeps.step (State.slotState_keeps ..) ?_
  refine Keeps.step (State.stripsFired_keeps ..) ?_
  exact .refl

theorem State.logPrinted_keeps (s : State) (g : Option Nat) (detail : List Byte) : Keeps s (State.logPrinted s g detail) := by
  unfold State.logPrinted
  split
  · refine Keeps.ite (fun _ => ?_) (fun _ => ?_)
    · refine Keeps.with_taper rfl ?_
      exact .refl
    · refine Keeps.step (State.logEvent_keeps ..) ?_
      exact .refl
  · refine Keeps.step (State.logEvent_keeps ..) ?_
    exact .refl

theorem State.closeEach_keeps (s : State) (g : Option Nat) (time : Nat) (x3 : List Page) : Keeps s (State.closeEach s g time x3) := by
  induction x3 generalizing s g time with | nil => ?_ | cons y l ih => ?_
  · simp only [State.closeEach]
    exact .refl
  · simp only [State.closeEach]
    refine Keeps.step (ih ..) ?_
    refine Keeps.ite (fun _ => ?_) (fun _ => ?_)
    · refine Keeps.step (State.setCause_keeps ..) ?_
      refine Keeps.step ((State.report_only ..).keeps (by decide)) ?_
      refine Keeps.step (State.logPrinted_keeps ..) ?_
      refine Keeps.step (Only.keeps (Only.with_raster (d := [.raster]) (by decide) .refl) (by decide)) ?_
      exact .refl
    · refine Keeps.step ((State.report_only ..).keeps (by decide)) ?_
      refine Keeps.step (State.logPrinted_keeps ..) ?_
      refine Keeps.step (Only.keeps (Only.with_raster (d := [.raster]) (by decide) .refl) (by decide)) ?_
      exact .refl

theorem State.closePages_keeps (s : State) (g : Option Nat) (time : Nat) : Keeps s (State.closePages s g time) := by
  unfold State.closePages
  refine Keeps.step (State.closeEach_keeps ..) ?_
  exact .refl

theorem State.freeAll_keeps (s : State) : Keeps s (State.freeAll s) := by
  unfold State.freeAll
  refine Keeps.step (State.freeRings_keeps ..) ?_
  exact .refl

theorem State.settle_keeps (s : State) (x : LineSt) (lateArm : Bool) (total : Option Nat) : Keeps s (State.settle s x lateArm total) := by
  unfold State.settle
  dsimp only
  refine Keeps.step (State.closePages_keeps ..) ?_
  refine Keeps.step (State.freeAll_keeps ..) ?_
  refine Keeps.step ((State.pageCount_only ..).keeps (by decide)) ?_
  refine Keeps.ite (fun _ => ?_) (fun _ => ?_)
  · refine Keeps.step (State.fireBooks_keeps ..) ?_
    refine Keeps.step (State.confirmBooks_keeps ..) ?_
    exact .refl
  · refine Keeps.step (State.skipBooks_keeps ..) ?_
    refine Keeps.step (State.confirmBooks_keeps ..) ?_
    exact .refl

theorem State.passLine_keeps (s : State) (x : LineSt) (lateArm : Bool) (own : Own) : Keeps s (State.passLine s x lateArm own) := by
  unfold State.passLine
  refine Keeps.ite (fun _ => ?_) (fun _ => ?_)
  · refine Keeps.step ((State.holdOwn_only ..).keeps (by decide)) ?_
    exact .refl
  · split
    · refine Keeps.step ((State.holdOwn_only ..).keeps (by decide)) ?_
      exact .refl
    · dsimp only
      refine Keeps.ite (fun _ => ?_) (fun _ => ?_)
      · refine Keeps.step (Only.keeps (Only.with_twin (d := [.twin]) (by decide) .refl) (by decide)) ?_
        refine Keeps.step (State.settle_keeps ..) ?_
        exact .refl
      · refine Keeps.step (State.settle_keeps ..) ?_
        exact .refl

theorem State.fireConf_keeps (s : State) (g : Nat) (c : Conf) : Keeps s (State.fireConf s g c) := by
  unfold State.fireConf
  refine Keeps.step (State.passLine_keeps ..) ?_
  exact .refl

theorem State.skipConf_keeps (s : State) (g : Nat) (c : Conf) (cause : Nat) (strip : Nat) : Keeps s (State.skipConf s g c cause strip) := by
  unfold State.skipConf
  refine Keeps.step (State.passLine_keeps ..) ?_
  exact .refl

theorem State.skipLine_keeps (s : State) (g : Nat) (n : Nat) (cause : Nat) (strip : Nat) : Keeps s (State.skipLine s g n cause strip) := by
  unfold State.skipLine
  split
  dsimp only
  refine Keeps.step (State.passLine_keeps ..) ?_
  refine Keeps.step (State.slotState_keeps ..) ?_
  refine Keeps.of_snd (by assumption) ?_
  refine Keeps.step ((State.pageIdOf_only ..).keeps (by decide)) ?_
  exact .refl

theorem State.noteLead_keeps (s : State) (raise : Bool) (g : Nat) : Keeps s (State.noteLead s raise g) := by
  unfold State.noteLead
  dsimp only
  refine Keeps.ite (fun _ => ?_) (fun _ => ?_)
  · refine Keeps.step (State.logEvent_keeps ..) ?_
    refine Keeps.step (State.setGroup_keeps ..) ?_
    refine Keeps.step (State.setReg_keeps ..) ?_
    exact .refl
  · refine Keeps.step (State.setReg_keeps ..) ?_
    exact .refl

theorem State.noteLeads_keeps (s : State) (raise : Bool) (x2 : List Nat) : Keeps s (State.noteLeads s raise x2) := by
  induction x2 generalizing s raise with | nil => ?_ | cons y l ih => ?_
  · simp only [State.noteLeads]
    exact .refl
  · simp only [State.noteLeads]
    refine Keeps.step (ih ..) ?_
    refine Keeps.step (State.noteLead_keeps ..) ?_
    exact .refl

theorem State.dropTentative_keeps (s : State) (f : Nat) (k : Nat) : Keeps s (State.dropTentative s f k) := by
  unfold State.dropTentative
  refine Keeps.step (State.noteHeld_keeps ..) ?_
  refine Keeps.step ((State.setSlots_only ..).keeps (by decide)) ?_
  exact .refl

theorem State.dropTentatives_keeps (s : State) (f : Nat) (x2 : List Nat) : Keeps s (State.dropTentatives s f x2) := by
  induction x2 generalizing s f with | nil => ?_ | cons y l ih => ?_
  · simp only [State.dropTentatives]
    exact .refl
  · simp only [State.dropTentatives]
    refine Keeps.step (ih ..) ?_
    refine Keeps.step (State.dropTentative_keeps ..) ?_
    exact .refl

theorem State.cancelGroup_keeps (s : State) (swap : Option Nat) (g : Nat) (f : Nat) : Keeps s (State.cancelGroup s swap g f) := by
  unfold State.cancelGroup
  dsimp only
  split
  · refine Keeps.step ((State.orderRewinds_only ..).keeps (by decide)) ?_
    refine Keeps.step (State.setGroup_keeps ..) ?_
    refine Keeps.step (State.dropTentatives_keeps ..) ?_
    refine Keeps.step (Only.keeps (Only.with_twin (d := [.twin]) (by decide) .refl) (by decide)) ?_
    refine Keeps.step (State.refundFrom_keeps ..) ?_
    exact .refl
  · refine Keeps.step ((State.orderRewinds_only ..).keeps (by decide)) ?_
    refine Keeps.step (State.setGroup_keeps ..) ?_
    refine Keeps.step (State.dropTentatives_keeps ..) ?_
    refine Keeps.step (Only.keeps (Only.with_twin (d := [.twin]) (by decide) .refl) (by decide)) ?_
    refine Keeps.step (State.refundFrom_keeps ..) ?_
    exact .refl

theorem State.cancelGroups_keeps (s : State) (swap : Option Nat) (x2 : List (Nat × Nat)) : Keeps s (State.cancelGroups s swap x2) := by
  induction x2 generalizing s swap with | nil => ?_ | cons y l ih => ?_
  · simp only [State.cancelGroups]
    exact .refl
  · simp only [State.cancelGroups]
    refine Keeps.step (ih ..) ?_
    refine Keeps.step (State.cancelGroup_keeps ..) ?_
    exact .refl

theorem State.cancel_keeps (s : State) (swap : Option Nat) (raise : Bool) (firsts : List (Nat × Nat)) :
    Keeps s (State.cancel s swap raise firsts) := by
  unfold State.cancel
  dsimp only
  refine Keeps.ite (fun _ => ?_) (fun _ => ?_)
  · exact .refl
  · refine Keeps.step (State.noteLeads_keeps ..) ?_
    refine Keeps.step (State.bump_keeps ..) ?_
    refine Keeps.step ((State.cancelModules_only ..).keeps (by decide)) ?_
    refine Keeps.step (State.cancelGroups_keeps ..) ?_
    exact .refl

theorem State.moveSwap_keeps (s : State) : Keeps s (State.moveSwap s) := by
  unfold State.moveSwap
  split
  · exact .refl
  · dsimp only
    refine Keeps.step (Only.keeps (Only.with_health (d := [.health]) (by decide) .refl) (by decide)) ?_
    refine Keeps.step (State.setReg_keeps ..) ?_
    exact .refl

theorem State.swapNow_keeps (s : State) : Keeps s (State.swapNow s) := by
  unfold State.swapNow
  dsimp only
  refine Keeps.step (State.logEvent_keeps ..) ?_
  refine Keeps.step (State.setReg_keeps ..) ?_
  refine Keeps.step (Only.keeps (Only.with_slots_health (d := [.slots, .health]) (by decide) .refl) (by decide)) ?_
  exact .refl

theorem State.applyPublish_keeps (s : State) (recs : List (Nat × Nat)) (line : Nat) (now : Bool) :
    Keeps s (State.applyPublish s recs line now) := by
  unfold State.applyPublish
  dsimp only
  refine Keeps.ite (fun _ => ?_) (fun _ => ?_)
  · refine Keeps.step (State.swapNow_keeps ..) ?_
    refine Keeps.ite (fun _ => ?_) (fun _ => ?_)
    · refine Keeps.step (State.cancel_keeps ..) ?_
      refine Keeps.step (State.setReg_keeps ..) ?_
      refine Keeps.step (State.bump_keeps ..) ?_
      refine Keeps.step (Only.keeps (Only.with_health (d := [.health]) (by decide) .refl) (by decide)) ?_
      exact .refl
    · refine Keeps.step (State.setReg_keeps ..) ?_
      refine Keeps.step (State.bump_keeps ..) ?_
      refine Keeps.step (Only.keeps (Only.with_health (d := [.health]) (by decide) .refl) (by decide)) ?_
      exact .refl
  · refine Keeps.ite (fun _ => ?_) (fun _ => ?_)
    · refine Keeps.step (State.cancel_keeps ..) ?_
      refine Keeps.step (State.setReg_keeps ..) ?_
      refine Keeps.step (State.bump_keeps ..) ?_
      refine Keeps.step (Only.keeps (Only.with_health (d := [.health]) (by decide) .refl) (by decide)) ?_
      exact .refl
    · refine Keeps.step (State.setReg_keeps ..) ?_
      refine Keeps.step (State.bump_keeps ..) ?_
      refine Keeps.step (Only.keeps (Only.with_health (d := [.health]) (by decide) .refl) (by decide)) ?_
      exact .refl

theorem State.swapDue_keeps (s : State) : Keeps s (State.swapDue s) := by
  unfold State.swapDue
  refine Keeps.ite (fun _ => ?_) (fun _ => ?_)
  · refine Keeps.step (State.swapNow_keeps ..) ?_
    exact .refl
  · exact .refl

theorem State.publish_keeps (s : State) (recs : List (Nat × Nat)) (reply : Option Deferred) : Keeps s (State.publish s recs reply) := by
  unfold State.publish
  dsimp only
  refine Keeps.ite (fun _ => ?_) (fun _ => ?_)
  · refine Keeps.step (Only.keeps (Only.with_health (d := [.health]) (by decide) .refl) (by decide)) ?_
    refine Keeps.step (State.swapDue_keeps ..) ?_
    exact .refl
  · refine Keeps.ite (fun _ => ?_) (fun _ => ?_)
    · refine Keeps.step ((State.finished_only ..).keeps (by decide)) ?_
      refine Keeps.step (State.swapDue_keeps ..) ?_
      exact .refl
    · refine Keeps.ite (fun _ => ?_) (fun _ => ?_)
      · refine Keeps.step (Only.keeps (Only.with_twin (d := [.twin]) (by decide) .refl) (by decide)) ?_
        refine Keeps.step (State.swapDue_keeps ..) ?_
        exact .refl
      · refine Keeps.step ((State.finished_only ..).keeps (by decide)) ?_
        refine Keeps.step (State.applyPublish_keeps ..) ?_
        refine Keeps.ite (fun _ => ?_) (fun _ => ?_)
        · refine Keeps.step ((State.sendPublish_only ..).keeps (by decide)) ?_
          refine Keeps.step (State.swapDue_keeps ..) ?_
          exact .refl
        · refine Keeps.step (State.swapDue_keeps ..) ?_
          exact .refl

/-! ### Taper -/

theorem State.askLine_keeps (s : State) (g : Nat) : Keeps s (State.askLine s g) := by
  unfold State.askLine
  dsimp only
  refine Keeps.step (State.addJobs_keeps ..) ?_
  refine Keeps.step (State.setGroup_keeps ..) ?_
  exact .refl

theorem State.pageLate_keeps (s : State) : Keeps s (State.pageLate s) := by
  unfold State.pageLate
  dsimp only
  split
  · exact .refl
  · refine Keeps.ite (fun _ => ?_) (fun _ => ?_)
    · refine Keeps.step (State.logEvent_keeps ..) ?_
      refine Keeps.step (Only.keeps (Only.with_raster (d := [.raster]) (by decide) .refl) (by decide)) ?_
      exact .refl
    · exact .refl

theorem State.setNewest_keeps (s : State) (n : Nat) (x2 : List Nat) : Keeps s (State.setNewest s n x2) := by
  induction x2 generalizing s n with | nil => ?_ | cons y l ih => ?_
  · simp only [State.setNewest]
    exact .refl
  · simp only [State.setNewest]
    refine Keeps.step (ih ..) ?_
    refine Keeps.step (State.setReg_keeps ..) ?_
    exact .refl

theorem State.confirmLine_keeps (s : State) (g : Nat) (n : Nat) (edge : Option Nat) (late : Bool) (lateArm : Bool) :
    Keeps s (State.confirmLine s g n edge late lateArm) := by
  unfold State.confirmLine
  dsimp only
  refine Keeps.step (State.slotState_keeps ..) ?_
  refine Keeps.step (State.setNewest_keeps ..) ?_
  refine Keeps.step (State.ckptAll_keeps ..) ?_
  refine Keeps.with_taper rfl ?_
  refine Keeps.step (State.setGroup_keeps ..) ?_
  refine Keeps.step (State.setReg_keeps ..) ?_
  refine Keeps.step ((State.sendConfirms_only ..).keeps (by decide)) ?_
  exact .refl

theorem State.passStrips_keeps (s : State) (g : Nat) (n : Nat) : Keeps s (State.passStrips s g n) := by
  unfold State.passStrips
  dsimp only
  refine Keeps.step (State.addJobs_keeps ..) ?_
  refine Keeps.step (State.ckptAll_keeps ..) ?_
  exact .refl

theorem State.catchUp_keeps (s : State) : Keeps s (State.catchUp s) := by
  unfold State.catchUp
  refine Keeps.foldl (fun t x => ?_) ?_
  · refine Keeps.step (State.passStrips_keeps ..) ?_
    exact .refl
  · exact .refl

theorem State.refuseLine_keeps (s : State) (g : Nat) (n : Nat) (cause : Nat) (strip : Nat) : Keeps s (State.refuseLine s g n cause strip) := by
  unfold State.refuseLine
  dsimp only
  refine Keeps.step (State.passStrips_keeps ..) ?_
  refine Keeps.step (State.skipLine_keeps ..) ?_
  refine Keeps.step (State.setReg_keeps ..) ?_
  exact .refl

theorem State.mateSkip_keeps (s : State) (g : Nat) (n : Nat) : Keeps s (State.mateSkip s g n) := by
  unfold State.mateSkip
  dsimp only
  refine Keeps.step (State.passStrips_keeps ..) ?_
  refine Keeps.step ((State.holdOwn_only ..).keeps (by decide)) ?_
  refine Keeps.step ((State.pageIdOf_only ..).keeps (by decide)) ?_
  refine Keeps.step (State.slotState_keeps ..) ?_
  refine Keeps.step (State.bump_keeps ..) ?_
  refine Keeps.step (State.setReg_keeps ..) ?_
  exact .refl

theorem State.tryLocked_keeps (s : State) (g : Nat) : Keeps s (State.tryLocked s g) := by
  unfold State.tryLocked
  split
  · exact .refl
  · refine Keeps.ite (fun _ => ?_) (fun _ => ?_)
    · exact .refl
    · dsimp only
      refine Keeps.ite (fun _ => ?_) (fun _ => ?_)
      · refine Keeps.step (State.skipConf_keeps ..) ?_
        refine Keeps.step (State.setGroup_keeps ..) ?_
        exact .refl
      · refine Keeps.step (State.setGroup_keeps ..) ?_
        exact .refl

theorem State.passEntered_keeps (s : State) (g : Nat) (n : Nat) : Keeps s (State.passEntered s g n) := by
  unfold State.passEntered
  dsimp only
  refine Keeps.step (State.passStrips_keeps ..) ?_
  refine Keeps.step (Only.keeps (Only.with_twin (d := [.twin]) (by decide) .refl) (by decide)) ?_
  refine Keeps.step (State.setReg_keeps ..) ?_
  exact .refl

theorem State.armLine_keeps (s : State) (g : Nat) : Keeps s (State.armLine s g) := by
  unfold State.armLine
  dsimp only
  refine Keeps.step (State.noteLead_keeps ..) ?_
  refine Keeps.ite (fun _ => ?_) (fun _ => ?_)
  · refine Keeps.step (State.passEntered_keeps ..) ?_
    refine Keeps.step (State.ckptAll_keeps ..) ?_
    exact .refl
  · refine Keeps.ite (fun _ => ?_) (fun _ => ?_)
    · refine Keeps.step (State.mateSkip_keeps ..) ?_
      refine Keeps.step (State.ckptAll_keeps ..) ?_
      exact .refl
    · split
      · refine Keeps.step (State.refuseLine_keeps ..) ?_
        refine Keeps.step (State.ckptAll_keeps ..) ?_
        exact .refl
      · refine Keeps.ite (fun _ => ?_) (fun _ => ?_)
        · refine Keeps.ite (fun _ => ?_) (fun _ => ?_)
          · refine Keeps.step (State.refuseLine_keeps ..) ?_
            refine Keeps.step (State.ckptAll_keeps ..) ?_
            exact .refl
          · refine Keeps.step (State.confirmLine_keeps ..) ?_
            refine Keeps.step (State.ckptAll_keeps ..) ?_
            exact .refl
        · refine Keeps.step (State.tryLocked_keeps ..) ?_
          refine Keeps.step (State.confirmLine_keeps ..) ?_
          refine Keeps.step (State.ckptAll_keeps ..) ?_
          exact .refl

theorem State.rePredict_keeps (s : State) (g : Nat) : Keeps s (State.rePredict s g) := by
  unfold State.rePredict
  split
  · exact .refl
  · split
    · exact .refl
    · refine Keeps.ite (fun _ => ?_) (fun _ => ?_)
      · exact .refl
      · refine Keeps.ite (fun _ => ?_) (fun _ => ?_)
        · dsimp only
          refine Keeps.step (State.setGroup_keeps ..) ?_
          exact .refl
        · refine Keeps.step (State.tryLocked_keeps ..) ?_
          refine Keeps.step (State.setGroup_keeps ..) ?_
          exact .refl

theorem State.rePredictAll_keeps (s : State) : Keeps s (State.rePredictAll s) := by
  unfold State.rePredictAll
  refine Keeps.foldl (fun t x => ?_) ?_
  · refine Keeps.step (State.rePredict_keeps ..) ?_
    exact .refl
  · exact .refl

theorem State.markMoved_keeps (s : State) : Keeps s (State.markMoved s) := by
  unfold State.markMoved
  refine Keeps.foldl (fun t x => ?_) ?_
  · refine Keeps.step (State.tryLocked_keeps ..) ?_
    exact .refl
  · exact .refl

theorem State.lagLines_keeps (s : State) (g : Nat) (n : Nat) : Keeps s (State.lagLines s g n) := by
  unfold State.lagLines
  refine Keeps.foldl (fun t x => ?_) ?_
  · refine Keeps.step (State.refuseLine_keeps ..) ?_
    exact .refl
  · exact .refl

theorem State.lagGroups_keeps (s : State) (x1 : List Nat) : Keeps s (State.lagGroups s x1) := by
  induction x1 generalizing s with | nil => ?_ | cons y l ih => ?_
  · simp only [State.lagGroups]
    exact .refl
  · simp only [State.lagGroups]
    refine Keeps.step (ih ..) ?_
    refine Keeps.step (State.noteLead_keeps ..) ?_
    refine Keeps.step (State.lagLines_keeps ..) ?_
    exact .refl

theorem State.reverse_keeps (s : State) : Keeps s (State.reverse s) := by
  unfold State.reverse
  dsimp only
  refine Keeps.ite (fun _ => ?_) (fun _ => ?_)
  · refine Keeps.step (State.moveSwap_keeps ..) ?_
    refine Keeps.step (State.cancel_keeps ..) ?_
    refine Keeps.step (Only.keeps (Only.with_lantern (d := [.lantern]) (by decide) .refl) (by decide)) ?_
    exact .refl
  · refine Keeps.step (Only.keeps (Only.with_lantern (d := [.lantern]) (by decide) .refl) (by decide)) ?_
    exact .refl

theorem State.indexPolicy_keeps (s : State) (ch : Nat) : Keeps s (State.indexPolicy s ch) := by
  unfold State.indexPolicy
  refine Keeps.ite (fun _ => ?_) (fun _ => ?_)
  · split
    · exact .refl
    · refine Keeps.ite (fun _ => ?_) (fun _ => ?_)
      · exact .refl
      · split
        · refine Keeps.step (State.setCause_keeps ..) ?_
          exact .refl
        · dsimp only
          refine Keeps.step (State.cancel_keeps ..) ?_
          refine Keeps.with_taper rfl ?_
          exact .refl
    · refine Keeps.step (State.setCause_keeps ..) ?_
      exact .refl
  · exact .refl

theorem State.indexError_keeps (s : State) (ch : Nat) (detail : Nat) (distance : Int) : Keeps s (State.indexError s ch detail distance) := by
  unfold State.indexError
  dsimp only
  refine Keeps.step (State.logEvent_keeps ..) ?_
  refine Keeps.step (State.indexPolicy_keeps ..) ?_
  refine Keeps.step (State.setBits_keeps ..) ?_
  refine Keeps.step (State.bump_keeps ..) ?_
  exact .refl

/-! ### Suspend -/

theorem State.settleDoubt_keeps (s : State) (us : List Unsettled) (u : Unsettled) : Keeps s (State.settleDoubt s us u) := by
  unfold State.settleDoubt
  dsimp only
  refine Keeps.ite (fun _ => ?_) (fun _ => ?_)
  · refine Keeps.step (State.settle_keeps ..) ?_
    refine Keeps.ite (fun _ => ?_) (fun _ => ?_)
    · refine Keeps.step (State.bump_keeps ..) ?_
      split
      · refine Keeps.ite (fun _ => ?_) (fun _ => ?_)
        · refine Keeps.step (State.setGroup_keeps ..) ?_
          refine Keeps.with_taper rfl ?_
          exact .refl
        · refine Keeps.with_taper rfl ?_
          exact .refl
      · refine Keeps.with_taper rfl ?_
        exact .refl
    · split
      · refine Keeps.ite (fun _ => ?_) (fun _ => ?_)
        · refine Keeps.step (State.setGroup_keeps ..) ?_
          refine Keeps.with_taper rfl ?_
          exact .refl
        · refine Keeps.with_taper rfl ?_
          exact .refl
      · refine Keeps.with_taper rfl ?_
        exact .refl
  · refine Keeps.step (State.passLine_keeps ..) ?_
    refine Keeps.ite (fun _ => ?_) (fun _ => ?_)
    · refine Keeps.step (State.bump_keeps ..) ?_
      split
      · refine Keeps.ite (fun _ => ?_) (fun _ => ?_)
        · refine Keeps.step (State.setGroup_keeps ..) ?_
          refine Keeps.with_taper rfl ?_
          exact .refl
        · refine Keeps.with_taper rfl ?_
          exact .refl
      · refine Keeps.with_taper rfl ?_
        exact .refl
    · split
      · refine Keeps.ite (fun _ => ?_) (fun _ => ?_)
        · refine Keeps.step (State.setGroup_keeps ..) ?_
          refine Keeps.with_taper rfl ?_
          exact .refl
        · refine Keeps.with_taper rfl ?_
          exact .refl
      · refine Keeps.with_taper rfl ?_
        exact .refl

theorem State.settleLines_keeps (s : State) (blocked : Bool) (x2 : List (Nat × Nat)) : Keeps s (State.settleLines s blocked x2) := by
  induction x2 generalizing s blocked with | nil => ?_ | cons y l ih => ?_
  · simp only [State.settleLines]
    exact .refl
  · simp only [State.settleLines]
    split
    · refine Keeps.step (ih ..) ?_
      exact .refl
    · refine Keeps.ite (fun _ => ?_) (fun _ => ?_)
      · refine Keeps.step (ih ..) ?_
        refine Keeps.step (State.settleDoubt_keeps ..) ?_
        exact .refl
      · refine Keeps.step (ih ..) ?_
        exact .refl

theorem State.recordGroups_keeps (s : State) (x1 : List Nat) : Keeps s (State.recordGroups s x1) := by
  induction x1 generalizing s with | nil => ?_ | cons y l ih => ?_
  · simp only [State.recordGroups]
    exact .refl
  · simp only [State.recordGroups]
    refine Keeps.ite (fun _ => ?_) (fun _ => ?_)
    · refine Keeps.step (ih ..) ?_
      refine Keeps.step (State.setReg_keeps ..) ?_
      exact .refl
    · refine Keeps.step (ih ..) ?_
      refine Keeps.step (State.setReg_keeps ..) ?_
      refine Keeps.step (State.setReg_keeps ..) ?_
      refine Keeps.step (State.setGroup_keeps ..) ?_
      exact .refl

theorem State.recordStop_keeps (s : State) : Keeps s (State.recordStop s) := by
  unfold State.recordStop
  dsimp only
  refine Keeps.step (State.setReg_keeps ..) ?_
  refine Keeps.step (State.recordGroups_keeps ..) ?_
  exact .refl

theorem State.recordDue_keeps (s : State) : Keeps s (State.recordDue s) := by
  unfold State.recordDue
  refine Keeps.ite (fun _ => ?_) (fun _ => ?_)
  · refine Keeps.step (State.recordStop_keeps ..) ?_
    refine Keeps.with_taper rfl ?_
    exact .refl
  · exact .refl

theorem State.settleAll_keeps (s : State) : Keeps s (State.settleAll s) := by
  unfold State.settleAll
  refine Keeps.step (State.recordDue_keeps ..) ?_
  refine Keeps.step (State.settleLines_keeps ..) ?_
  exact .refl

theorem State.hearStatus_keeps (s : State) (m : Nat) (valid : Bool) (fired : Nat → Nat) : Keeps s (State.hearStatus s m valid fired) := by
  unfold State.hearStatus
  dsimp only
  refine Keeps.step (State.settleAll_keeps ..) ?_
  refine Keeps.with_taper rfl ?_
  exact .refl

theorem State.addDoubt_keeps (s : State) (u : Unsettled) : Keeps s (State.addDoubt s u) := by
  unfold State.addDoubt
  refine Keeps.ite (fun _ => ?_) (fun _ => ?_)
  · exact .refl
  · refine Keeps.with_taper rfl ?_
    exact .refl

theorem State.addDoubts_keeps (s : State) (x1 : List Unsettled) : Keeps s (State.addDoubts s x1) := by
  induction x1 generalizing s with | nil => ?_ | cons y l ih => ?_
  · simp only [State.addDoubts]
    exact .refl
  · simp only [State.addDoubts]
    refine Keeps.step (ih ..) ?_
    refine Keeps.step (State.addDoubt_keeps ..) ?_
    exact .refl

theorem State.suspend_keeps (s : State) (m : Nat) : Keeps s (State.suspend s m) := by
  unfold State.suspend
  refine Keeps.step (State.addDoubts_keeps ..) ?_
  exact .refl

theorem State.strobe_keeps (s : State) (g : Nat) (c : Conf) (rise : Nat) : Keeps s (State.strobe s g c rise) := by
  unfold State.strobe
  dsimp only
  refine Keeps.ite (fun _ => ?_) (fun _ => ?_)
  · refine Keeps.step (State.fireConf_keeps ..) ?_
    refine Keeps.step (State.addDoubts_keeps ..) ?_
    refine Keeps.step (State.setReg_keeps ..) ?_
    refine Keeps.step ((State.raiseStrobe_only ..).keeps (by decide)) ?_
    refine Keeps.step (State.setGroup_keeps ..) ?_
    exact .refl
  · refine Keeps.step (State.settleAll_keeps ..) ?_
    refine Keeps.with_taper rfl ?_
    refine Keeps.step (State.addDoubts_keeps ..) ?_
    refine Keeps.step (State.setReg_keeps ..) ?_
    refine Keeps.step ((State.raiseStrobe_only ..).keeps (by decide)) ?_
    refine Keeps.step (State.setGroup_keeps ..) ?_
    exact .refl

theorem State.logHeld_keeps (s : State) (g : Nat) : Keeps s (State.logHeld s g) := by
  unfold State.logHeld
  dsimp only
  refine Keeps.foldl (fun t x => ?_) ?_
  · refine Keeps.step (State.logEvent_keeps ..) ?_
    exact .refl
  · refine Keeps.with_taper rfl ?_
    exact .refl

theorem State.dropStrobe_keeps (s : State) (g : Nat) : Keeps s (State.dropStrobe s g) := by
  unfold State.dropStrobe
  dsimp only
  refine Keeps.step (State.logHeld_keeps ..) ?_
  refine Keeps.step (Only.keeps (Only.with_pins (d := [.pins]) (by decide) .refl) (by decide)) ?_
  refine Keeps.step (State.setGroup_keeps ..) ?_
  exact .refl

theorem State.stopLit_keeps (s : State) : Keeps s (State.stopLit s) := by
  unfold State.stopLit
  refine Keeps.ite (fun _ => ?_) (fun _ => ?_)
  · exact .refl
  · dsimp only
    refine Keeps.step (State.moveSwap_keeps ..) ?_
    refine Keeps.step (State.cancel_keeps ..) ?_
    refine Keeps.with_taper rfl ?_
    exact .refl

theorem State.stopAtLine_keeps (s : State) : Keeps s (State.stopAtLine s) := by
  unfold State.stopAtLine
  split
  · refine Keeps.ite (fun _ => ?_) (fun _ => ?_)
    · refine Keeps.step (State.stopLit_keeps ..) ?_
      refine Keeps.step (Only.keeps (Only.with_twin (d := [.twin]) (by decide) .refl) (by decide)) ?_
      exact .refl
    · exact .refl
  · exact .refl

theorem State.resolveDown_keeps (s : State) (x1 : List Nat) : Keeps s (State.resolveDown s x1) := by
  induction x1 generalizing s with | nil => ?_ | cons y l ih => ?_
  · simp only [State.resolveDown]
    exact .refl
  · simp only [State.resolveDown]
    refine Keeps.ite (fun _ => ?_) (fun _ => ?_)
    · refine Keeps.step (ih ..) ?_
      exact .refl
    · refine Keeps.step (ih ..) ?_
      refine Keeps.with_taper rfl ?_
      exact .refl

theorem State.suppressConfs_keeps (s : State) (hold : Bool) (l : List Nat) : Keeps s (s.suppressConfs hold l) := by
  induction l generalizing s with
  | nil => exact .refl
  | cons g t ih =>
    unfold State.suppressConfs
    split
    · exact ih s
    · exact Keeps.ite (fun _ => Keeps.step (ih _) (Keeps.step (State.addDoubts_keeps ..) (State.setGroup_keeps ..)))
        (fun _ => Keeps.step (ih _) (Keeps.step (State.skipConf_keeps ..) (State.setGroup_keeps ..)))

theorem State.taperSnuff_keeps (s : State) (barWide : Bool) : Keeps s (s.taperSnuff barWide) := by
  have stop : ∀ u : State,
      Keeps u { u with taper := { u.taper with stopDue := true, stopping := false, holdPage := none, priming := false } } :=
    fun _ => Keeps.with_taper rfl .refl
  unfold State.taperSnuff
  extract_lets s1 s2 y s3 s4 s5
  have h2 : Keeps s s2 := Keeps.step (State.resolveDown_keeps ..) (State.cancel_keeps ..)
  have h3 : Keeps s2 s3 := Keeps.with_taper rfl .refl
  have h5 : Keeps s3 s5 := Keeps.step (State.suppressConfs_keeps ..) (State.settleLines_keeps ..)
  exact Keeps.step (State.settleAll_keeps ..) (Keeps.step (stop s5) (Keeps.step h5 (Keeps.step h3 h2)))

end Sys2Proof.Machine
end

