-- ==== Sys2Proof/Laws/KeepsPoolToLantern.lean ====
section
/-! SUPPORT. What every operation and meaning of Machine/Pool.lean to Machine/Lantern.lean keeps (see Keeps). -/

namespace Sys2Proof.Machine

/-! ### Pool -/

theorem execTaperLineRequest_keeps (g : Fin 8) (s : State) : KeepsNext s (execTaperLineRequest g s) := by
  unfold execTaperLineRequest
  dsimp only
  refine KeepsNext.next ?_
  refine Keeps.step (State.pageLate_keeps ..) ?_
  refine Keeps.ite (fun _ => ?_) (fun _ => ?_)
  · refine Keeps.step (State.askLine_keeps ..) ?_
    exact .refl
  · exact .refl

theorem execContextRewind_keeps (k : Fin 160) (s : State) : KeepsNext s (execContextRewind k s) := by
  unfold execContextRewind
  dsimp only
  split
  · refine KeepsNext.next ?_
    exact .refl
  · refine KeepsNext.ite (fun _ => ?_) (fun _ => ?_)
    · refine KeepsNext.next ?_
      exact .refl
    · refine KeepsNext.next ?_
      refine Keeps.step (State.addJobs_keeps ..) ?_
      refine Keeps.step (State.setReg_keeps ..) ?_
      refine Keeps.step (State.bump_keeps ..) ?_
      refine Keeps.step ((State.setCtx_only ..).keeps (by decide)) ?_
      exact .refl

theorem execStripCorrect_keeps (st : Fin 128) (s : State) : KeepsNext s (execStripCorrect st s) :=
  ⟨fun t ht => ((execStripCorrect_only ..).only t ht).keeps (by decide)⟩

theorem State.decideLine_keeps (s : State) (g : Nat) (n : Nat) : Keeps s (State.decideLine s g n) := by
  unfold State.decideLine
  split
  dsimp only
  refine Keeps.ite (fun _ => ?_) (fun _ => ?_)
  · refine Keeps.step ((State.emit_only ..).keeps (by decide)) ?_
    refine Keeps.step (State.noteOutcome_keeps ..) ?_
    refine Keeps.step (State.holdDecision_keeps ..) ?_
    refine Keeps.ite (fun _ => ?_) (fun _ => ?_)
    · exact .refl
    · refine Keeps.step (State.chargePool_keeps ..) ?_
      exact .refl
  · refine Keeps.step (State.noteOutcome_keeps ..) ?_
    refine Keeps.step (State.holdDecision_keeps ..) ?_
    refine Keeps.ite (fun _ => ?_) (fun _ => ?_)
    · exact .refl
    · refine Keeps.step (State.chargePool_keeps ..) ?_
      exact .refl

theorem State.decideReady_keeps (s : State) (x1 : Nat) : Keeps s (State.decideReady s x1) := by
  induction x1 generalizing s with | zero => ?_ | succ k ih => ?_
  · simp only [State.decideReady]
    exact .refl
  · simp only [State.decideReady]
    split
    · exact .refl
    · refine Keeps.step (ih ..) ?_
      refine Keeps.step (State.decideLine_keeps ..) ?_
      exact .refl

theorem State.linesFirst_keeps (s : State) : Keeps s (State.linesFirst s) := by
  unfold State.linesFirst
  refine Keeps.ite (fun _ => ?_) (fun _ => ?_)
  · refine Keeps.step (State.decideReady_keeps ..) ?_
    exact .refl
  · exact .refl

theorem execWickLineDecision_keeps (s : State) : KeepsNext s (execWickLineDecision s) := by
  unfold execWickLineDecision
  refine KeepsNext.ite (fun _ => ?_) (fun _ => ?_)
  · refine KeepsNext.next ?_
    exact .refl
  · split
    · refine KeepsNext.next ?_
      exact .refl
    · refine KeepsNext.next ?_
      refine Keeps.step (State.decideLine_keeps ..) ?_
      exact .refl

theorem execLineFrameSend_keeps (st : Fin 128) (s : State) : KeepsNext s (execLineFrameSend st s) := by
  unfold execLineFrameSend
  split
  · refine KeepsNext.next ?_
    exact .refl
  · refine KeepsNext.ite (fun _ => ?_) (fun _ => ?_)
    · dsimp only
      refine KeepsNext.next ?_
      refine Keeps.step (State.noteLead_keeps ..) ?_
      refine Keeps.step ((State.sendLine_only ..).keeps (by decide)) ?_
      refine Keeps.step ((State.modSlot_only ..).keeps (by decide)) ?_
      exact .refl
    · refine KeepsNext.next ?_
      exact .refl

/-! ### Fire -/

theorem execArmingStart_keeps (s : State) : KeepsNext s (execArmingStart s) := by
  unfold execArmingStart
  refine KeepsNext.ite (fun _ => ?_) (fun _ => ?_)
  · dsimp only
    refine KeepsNext.next ?_
    refine Keeps.step (State.lagGroups_keeps ..) ?_
    refine Keeps.with_taper rfl ?_
    exact .refl
  · refine KeepsNext.next ?_
    exact .refl

theorem execLineArm_keeps (g : Fin 8) (s : State) : KeepsNext s (execLineArm g s) := by
  unfold execLineArm
  refine KeepsNext.ite (fun _ => ?_) (fun _ => ?_)
  · refine KeepsNext.next ?_
    refine Keeps.step (State.stopAtLine_keeps ..) ?_
    refine Keeps.step (State.armLine_keeps ..) ?_
    exact .refl
  · refine KeepsNext.next ?_
    exact .refl

theorem execStrobeEdge_keeps (g : Fin 8) (s : State) : KeepsNext s (execStrobeEdge g s) := by
  unfold execStrobeEdge
  split
  · refine KeepsNext.next ?_
    exact .refl
  · split
    · refine KeepsNext.next ?_
      exact .refl
    · refine KeepsNext.next ?_
      refine Keeps.step (State.strobe_keeps ..) ?_
      exact .refl

theorem State.endMaint_keeps (s : State) : Keeps s (State.endMaint s) := by
  unfold State.endMaint
  refine Keeps.with_pins_taper rfl ?_
  exact .refl

theorem State.maintOver_keeps (s : State) : Keeps s (State.maintOver s) := by
  unfold State.maintOver
  split
  · exact .refl
  · refine Keeps.ite (fun _ => ?_) (fun _ => ?_)
    · refine Keeps.step (State.endMaint_keeps ..) ?_
      exact .refl
    · exact .refl

theorem State.beginMaint_keeps (s : State) : Keeps s (State.beginMaint s) := by
  unfold State.beginMaint
  split
  · exact .refl
  · refine Keeps.ite (fun _ => ?_) (fun _ => ?_)
    · exact .refl
    · refine Keeps.ite (fun _ => ?_) (fun _ => ?_)
      · refine Keeps.step (State.endMaint_keeps ..) ?_
        refine Keeps.step (State.bump_keeps ..) ?_
        exact .refl
      · dsimp only
        refine Keeps.step (State.maintOver_keeps ..) ?_
        refine Keeps.step ((State.fireReset_only ..).keeps (by decide)) ?_
        refine Keeps.with_pins_taper rfl ?_
        exact .refl

theorem State.takeAux_keeps (s : State) (k : Nat) : Keeps s (State.takeAux s k).2 := by
  unfold State.takeAux
  dsimp only
  split
  · dsimp only
    exact .refl
  · split
    · dsimp only
      refine Keeps.step (State.takeJobs_keeps ..) ?_
      refine Keeps.step (State.freeRing_keeps ..) ?_
      refine Keeps.step ((State.setSlots_only ..).keeps (by decide)) ?_
      refine Keeps.step (State.ckptStep_keeps (by assumption)) ?_
      exact .refl
    · split
      · dsimp only
        refine Keeps.step (State.takeJobs_keeps ..) ?_
        refine Keeps.step (State.freeRing_keeps ..) ?_
        refine Keeps.step ((State.setSlots_only ..).keeps (by decide)) ?_
        refine Keeps.step (State.ckptStep_keeps (by assumption)) ?_
        exact .refl
      · dsimp only
        refine Keeps.step (State.takeJobs_keeps ..) ?_
        refine Keeps.step (State.freeRing_keeps ..) ?_
        refine Keeps.step ((State.setSlots_only ..).keeps (by decide)) ?_
        refine Keeps.step (State.ckptStep_keeps (by assumption)) ?_
        exact .refl

theorem State.maintEdges_keeps (s : State) (rise : Nat) (x2 : List Nat) : Keeps s (State.maintEdges s rise x2) := by
  induction x2 generalizing s rise with | nil => ?_ | cons y l ih => ?_
  · simp only [State.maintEdges]
    exact .refl
  · simp only [State.maintEdges]
    refine Keeps.step (ih ..) ?_
    refine Keeps.step (State.setReg_keeps ..) ?_
    refine Keeps.step ((State.raiseStrobe_only ..).keeps (by decide)) ?_
    refine Keeps.step (State.setGroup_keeps ..) ?_
    exact .refl

theorem execMaintLine_keeps (s : State) : KeepsNext s (execMaintLine s) := by
  unfold execMaintLine
  split
  · refine KeepsNext.next ?_
    exact .refl
  · refine KeepsNext.ite (fun _ => ?_) (fun _ => ?_)
    · refine KeepsNext.next ?_
      exact .refl
    · refine KeepsNext.ite (fun _ => ?_) (fun _ => ?_)
      · refine KeepsNext.next ?_
        refine Keeps.step (State.endMaint_keeps ..) ?_
        refine Keeps.step (State.bump_keeps ..) ?_
        exact .refl
      · split
        · refine KeepsNext.next ?_
          refine Keeps.step (State.endMaint_keeps ..) ?_
          refine Keeps.step (State.bump_keeps ..) ?_
          refine Keeps.of_snd (by assumption) ?_
          refine Keeps.step (State.takeAux_keeps ..) ?_
          exact .refl
        · refine KeepsNext.next ?_
          refine Keeps.step (State.endMaint_keeps ..) ?_
          refine Keeps.step (State.bump_keeps ..) ?_
          refine Keeps.of_snd (by assumption) ?_
          refine Keeps.step (State.takeAux_keeps ..) ?_
          exact .refl
        · dsimp only
          refine KeepsNext.next ?_
          refine Keeps.step (State.maintEdges_keeps ..) ?_
          refine Keeps.step ((State.maintConfirms_only ..).keeps (by decide)) ?_
          refine Keeps.step ((State.maintFrames_only ..).keeps (by decide)) ?_
          refine Keeps.with_taper rfl ?_
          refine Keeps.of_snd (by assumption) ?_
          refine Keeps.step (State.takeAux_keeps ..) ?_
          exact .refl

theorem execStrobeEnd_keeps (g : Fin 8) (s : State) : KeepsNext s (execStrobeEnd g s) := by
  unfold execStrobeEnd
  refine KeepsNext.ite (fun _ => ?_) (fun _ => ?_)
  · refine KeepsNext.next ?_
    refine Keeps.step (State.maintOver_keeps ..) ?_
    refine Keeps.step ((State.emit_only ..).keeps (by decide)) ?_
    refine Keeps.step (State.dropStrobe_keeps ..) ?_
    exact .refl
  · refine KeepsNext.next ?_
    exact .refl

theorem State.escalate_keeps (s : State) : Keeps s (State.escalate s) := by
  unfold State.escalate
  refine Keeps.ite (fun _ => ?_) (fun _ => ?_)
  · refine Keeps.step (State.setCause_keeps ..) ?_
    exact .refl
  · exact .refl

theorem execStrobeCut_keeps (g : Fin 8) (s : State) : KeepsNext s (execStrobeCut g s) := by
  unfold execStrobeCut
  dsimp only
  refine KeepsNext.next ?_
  refine Keeps.step (State.maintOver_keeps ..) ?_
  refine Keeps.step (State.logEvent_keeps ..) ?_
  refine Keeps.step (State.escalate_keeps ..) ?_
  refine Keeps.step ((State.emit_only ..).keeps (by decide)) ?_
  refine Keeps.step (State.bump_keeps ..) ?_
  refine Keeps.with_pins_taper rfl ?_
  refine Keeps.step (State.setGroup_keeps ..) ?_
  exact .refl

theorem execSnufferEscalate_keeps (g : Fin 8) (padStillHigh : Bool) (s : State) : KeepsNext s (execSnufferEscalate g padStillHigh s) := by
  unfold execSnufferEscalate
  dsimp only
  refine KeepsNext.ite (fun _ => ?_) (fun _ => ?_)
  · refine KeepsNext.next ?_
    refine Keeps.step (State.setCause_keeps ..) ?_
    refine Keeps.step (State.setGroup_keeps ..) ?_
    exact .refl
  · refine KeepsNext.next ?_
    refine Keeps.step (State.escalate_keeps ..) ?_
    refine Keeps.step (State.setGroup_keeps ..) ?_
    exact .refl

theorem execStopSuppressTimeout_keeps (g : Fin 8) (s : State) : KeepsNext s (execStopSuppressTimeout g s) := by
  unfold execStopSuppressTimeout
  refine KeepsNext.ite (fun _ => ?_) (fun _ => ?_)
  · split
    · refine KeepsNext.next ?_
      exact .refl
    · dsimp only
      refine KeepsNext.ite (fun _ => ?_) (fun _ => ?_)
      · refine KeepsNext.next ?_
        refine Keeps.step (State.skipConf_keeps ..) ?_
        refine Keeps.step (State.setGroup_keeps ..) ?_
        exact .refl
      · refine KeepsNext.next ?_
        refine Keeps.step (State.settleAll_keeps ..) ?_
        refine Keeps.with_taper rfl ?_
        refine Keeps.step (State.setGroup_keeps ..) ?_
        exact .refl
  · refine KeepsNext.next ?_
    exact .refl

/-! ### Clock -/

theorem State.standing_keeps (s : State) : Keeps s (State.standing s) := by
  unfold State.standing
  dsimp only
  refine Keeps.ite (fun _ => ?_) (fun _ => ?_)
  · refine Keeps.step (State.setCause_keeps ..) ?_
    refine Keeps.ite (fun _ => ?_) (fun _ => ?_)
    · refine Keeps.step (State.setCause_keeps ..) ?_
      exact .refl
    · exact .refl
  · refine Keeps.ite (fun _ => ?_) (fun _ => ?_)
    · refine Keeps.step (State.setCause_keeps ..) ?_
      exact .refl
    · exact .refl

theorem State.cycle_keeps (s : State) : Keeps s s.cycle := by
  unfold State.cycle
  refine Keeps.ite (fun _ => ?_) (fun _ => .refl)
  extract_lets b y z s1 c1 s2 s3
  have h1 : Keeps s s1 := by
    refine ⟨id, id, id, id, id, fun h => ?_, fun _ => Nat.or_self _⟩
    show b.normal = true
    have hw : Dict.width Obj.rateTrim = 16 := by decide
    have hr := toSigned_range 16 (s.reg Obj.rateTrim) (by decide)
    simp only [b]
    split
    · exact Beacon.tick_normal _ _ h (by unfold State.sreg; rw [hw]; exact hr.1) (by unfold State.sreg; rw [hw]; exact hr.2)
    · exact h
  have h1 : Keeps s c1 := Keeps.step (State.ylogClose_keeps ..) h1
  have h2 : Keeps s s2 := Keeps.ite (fun _ => Keeps.step (State.refill_keeps ..) h1) (fun _ => h1)
  have h3 : Keeps s s3 := Keeps.ite (fun _ => Keeps.step (State.count_keeps ..) h2) (fun _ => h2)
  exact Keeps.step (State.standing_keeps ..) (Keeps.step (State.memSlot_keeps ..) h3)

theorem State.moveLastEdge_keeps (s : State) (d : Int) (ch : Nat) : Keeps s (State.moveLastEdge s d ch) := by
  unfold State.moveLastEdge
  refine Keeps.ite (fun _ => ?_) (fun _ => ?_)
  · exact .refl
  · refine Keeps.step (State.setReg_keeps ..) ?_
    exact .refl

theorem State.moveTimes_keeps (s : State) (d : Int) : Keeps s (State.moveTimes s d) := by
  unfold State.moveTimes
  dsimp only
  refine Keeps.with_enc_taper_twin_lantern_led rfl ?_
  refine Keeps.step (State.moveLastEdge_keeps ..) ?_
  refine Keeps.step (State.moveLastEdge_keeps ..) ?_
  exact .refl

theorem State.stepBeacon_keeps (s : State) (d : Int) : Keeps s (s.stepBeacon d) := by
  unfold State.stepBeacon
  extract_lets s1 y s2 z s3 s4 s5
  have h1 : Keeps s s1 := State.moveTimes_keeps ..
  have h2 : Keeps s1 s2 := by
    refine ⟨id, id, id, id, id, fun h => ?_, fun _ => Nat.or_self _⟩
    exact Beacon.moved_normal d _ (of_decide_eq_true ((Bool.and_eq_true _ _).mp h).2)
  have h4 : Keeps s s4 := by
    refine Keeps.step (State.setBits_keeps ..) (Keeps.step (State.bump_keeps ..) ?_)
    exact Keeps.step (Only.keeps (Only.with_ptp (d := [.ptp]) (by decide) .refl) (by decide)) (Keeps.step h2 h1)
  have h5 : Keeps s s5 := Keeps.ite (fun _ => Keeps.step ((State.sendTimes_only ..).keeps (by decide)) h4) (fun _ => h4)
  exact Keeps.step (State.logEvent_keeps ..) h5

theorem execTimeFrameSend_keeps (s : State) : KeepsNext s (execTimeFrameSend s) :=
  ⟨fun t ht => ((execTimeFrameSend_only ..).only t ht).keeps (by decide)⟩

theorem execPtpSyncSend_keeps (s : State) : KeepsNext s (execPtpSyncSend s) := by
  unfold execPtpSyncSend
  refine KeepsNext.ite (fun _ => ?_) (fun _ => ?_)
  · dsimp only
    refine KeepsNext.next ?_
    refine Keeps.step (Only.keeps (Only.with_ptp (d := [.ptp]) (by decide) .refl) (by decide)) ?_
    refine Keeps.step (State.bump_keeps ..) ?_
    refine Keeps.step ((State.sendPtp_only ..).keeps (by decide)) ?_
    exact .refl
  · refine KeepsNext.next ?_
    exact .refl

theorem execPtpTimestampVector_keeps (tx : Bool) (msg : Nat) (s : State) : KeepsNext s (execPtpTimestampVector tx msg s) :=
  ⟨fun t ht => ((execPtpTimestampVector_only ..).only t ht).keeps (by decide)⟩

theorem State.takeStamp_keeps {s : State} {tx : Bool} {msg : Nat} {v : Nat} {u : State} (h : s.takeStamp tx msg = some (v, u)) :
    Keeps s u := (State.takeStamp_only h).keeps (by decide)

theorem execPtpFollowUp_keeps (s : State) : KeepsNext s (execPtpFollowUp s) := by
  unfold execPtpFollowUp
  split
  · refine KeepsNext.next ?_
    exact .refl
  · split
    · refine KeepsNext.next ?_
      exact .refl
    · split
      dsimp only
      refine KeepsNext.next ?_
      refine Keeps.step (Only.keeps (Only.with_ptp (d := [.ptp]) (by decide) .refl) (by decide)) ?_
      refine Keeps.step ((State.sendPtp_only ..).keeps (by decide)) ?_
      refine Keeps.step (State.setReg_keeps ..) ?_
      refine Keeps.of_snd (by assumption) ?_
      refine Keeps.step ((State.netStamp_only ..).keeps (by decide)) ?_
      refine Keeps.step (State.takeStamp_keeps (by assumption)) ?_
      exact .refl

theorem execPtpAnnounceSend_keeps (s : State) : KeepsNext s (execPtpAnnounceSend s) :=
  ⟨fun t ht => ((execPtpAnnounceSend_only ..).only t ht).keeps (by decide)⟩

theorem execPtpDelayReq_keeps (domain : Nat) (identity : Nat) (seq : Nat) (s : State) : KeepsNext s (execPtpDelayReq domain identity seq s) := by
  unfold execPtpDelayReq
  refine KeepsNext.ite (fun _ => ?_) (fun _ => ?_)
  · refine KeepsNext.next ?_
    exact .refl
  · dsimp only
    refine KeepsNext.ite (fun _ => ?_) (fun _ => ?_)
    · refine KeepsNext.next ?_
      refine Keeps.step (State.setBits_keeps ..) ?_
      refine Keeps.step (State.bump_keeps ..) ?_
      exact .refl
    · split
      · refine KeepsNext.next ?_
        refine Keeps.step (Only.keeps (Only.with_ptp (d := [.ptp]) (by decide) .refl) (by decide)) ?_
        exact .refl
      · refine KeepsNext.next ?_
        refine Keeps.step (State.bump_keeps ..) ?_
        refine Keeps.step ((State.sendPtp_only ..).keeps (by decide)) ?_
        refine Keeps.step ((State.netStamp_only ..).keeps (by decide)) ?_
        refine Keeps.step (State.takeStamp_keeps (by assumption)) ?_
        refine Keeps.step (Only.keeps (Only.with_ptp (d := [.ptp]) (by decide) .refl) (by decide)) ?_
        exact .refl

theorem execPtpForeignAnnounce_keeps (identity : Nat) (s : State) : KeepsNext s (execPtpForeignAnnounce identity s) := by
  unfold execPtpForeignAnnounce
  refine KeepsNext.ite (fun _ => ?_) (fun _ => ?_)
  · refine KeepsNext.next ?_
    exact .refl
  · dsimp only
    refine KeepsNext.ite (fun _ => ?_) (fun _ => ?_)
    · refine KeepsNext.next ?_
      refine Keeps.step (State.logEvent_keeps ..) ?_
      refine Keeps.step (Only.keeps (Only.with_ptp (d := [.ptp]) (by decide) .refl) (by decide)) ?_
      refine Keeps.step (State.setBits_keeps ..) ?_
      refine Keeps.step (State.bump_keeps ..) ?_
      exact .refl
    · refine KeepsNext.next ?_
      refine Keeps.step (State.setBits_keeps ..) ?_
      refine Keeps.step (State.bump_keeps ..) ?_
      exact .refl

/-! ### Motion -/

theorem State.placeSteps_keeps (s : State) (a : Nat) : Keeps s (State.placeSteps s a) := by
  unfold State.placeSteps
  dsimp only
  refine Keeps.ite (fun _ => ?_) (fun _ => ?_)
  · exact .refl
  · refine Keeps.step ((State.emit_only ..).keeps (by decide)) ?_
    refine Keeps.step (State.setSreg_keeps ..) ?_
    exact .refl

theorem State.withdrawMove_keeps (s : State) (a : Nat) : Keeps s (State.withdrawMove s a) := by
  unfold State.withdrawMove
  dsimp only
  refine Keeps.step (State.noteQueued_keeps ..) ?_
  refine Keeps.step (Only.keeps (Only.with_wick (d := [.wick]) (by decide) .refl) (by decide)) ?_
  refine Keeps.ite (fun _ => ?_) (fun _ => ?_)
  · refine Keeps.step (State.refundPool_keeps ..) ?_
    refine Keeps.step ((State.useLeave_only ..).keeps (by decide)) ?_
    exact .refl
  · exact .refl

theorem State.stopAxis_keeps (s : State) (lost : Bool) (a : Nat) : Keeps s (State.stopAxis s lost a) := by
  unfold State.stopAxis
  dsimp only
  refine Keeps.step ((State.setAxis_only ..).keeps (by decide)) ?_
  refine Keeps.ite (fun _ => ?_) (fun _ => ?_)
  · refine Keeps.step (State.withdrawMove_keeps ..) ?_
    exact .refl
  · exact .refl

theorem State.stopEach_keeps (s : State) (lost : Bool) (x2 : List Nat) : Keeps s (State.stopEach s lost x2) := by
  induction x2 generalizing s lost with | nil => ?_ | cons y l ih => ?_
  · simp only [State.stopEach]
    exact .refl
  · simp only [State.stopEach]
    refine Keeps.step (ih ..) ?_
    refine Keeps.step (State.stopAxis_keeps ..) ?_
    exact .refl

theorem State.stopPair_keeps (s : State) (a : Nat) : Keeps s (State.stopPair s a) := by
  unfold State.stopPair
  dsimp only
  refine Keeps.step (State.stopEach_keeps ..) ?_
  exact .refl

theorem State.stopAxes_keeps (s : State) : Keeps s (State.stopAxes s) := by
  unfold State.stopAxes
  refine Keeps.foldl (fun t x => ?_) ?_
  · refine Keeps.step (State.stopPair_keeps ..) ?_
    exact .refl
  · exact .refl

theorem State.faultAxis_keeps (s : State) (a : Nat) (code : Nat) (ph : Phase) : Keeps s (State.faultAxis s a code ph) := by
  unfold State.faultAxis
  dsimp only
  refine Keeps.step (State.logEvent_keeps ..) ?_
  refine Keeps.step ((State.emit_only ..).keeps (by decide)) ?_
  refine Keeps.step ((State.setAxis_only ..).keeps (by decide)) ?_
  refine Keeps.step (State.setBits_keeps ..) ?_
  refine Keeps.step (State.setReg_keeps ..) ?_
  refine Keeps.step (State.stopEach_keeps ..) ?_
  exact .refl

theorem State.replan_keeps (s : State) (a : Nat) (goal : Int) : Keeps s (State.replan s a goal) := by
  unfold State.replan
  dsimp only
  refine Keeps.step ((State.setAxis_only ..).keeps (by decide)) ?_
  refine Keeps.ite (fun _ => ?_) (fun _ => ?_)
  · refine Keeps.step (State.chargePool_keeps ..) ?_
    exact .refl
  · exact .refl

theorem State.moveTo_keeps (s : State) (a : Nat) (goal : Int) : Keeps s (State.moveTo s a goal) := by
  unfold State.moveTo
  refine Keeps.ite (fun _ => ?_) (fun _ => ?_)
  · exact .refl
  · dsimp only
    refine Keeps.ite (fun _ => ?_) (fun _ => ?_)
    · refine Keeps.step (State.replan_keeps ..) ?_
      refine Keeps.step (State.setSreg_keeps ..) ?_
      exact .refl
    · split
      · refine Keeps.step (State.bump_keeps ..) ?_
        refine Keeps.step ((State.setAxis_only ..).keeps (by decide)) ?_
        refine Keeps.of_snd (by assumption) ?_
        refine Keeps.step (State.ask_keeps ..) ?_
        refine Keeps.step (State.linesFirst_keeps ..) ?_
        refine Keeps.step ((State.setAxis_only ..).keeps (by decide)) ?_
        refine Keeps.step (State.withdrawMove_keeps ..) ?_
        refine Keeps.step (State.setSreg_keeps ..) ?_
        exact .refl
      · refine Keeps.of_snd (by assumption) ?_
        refine Keeps.step (State.ask_keeps ..) ?_
        refine Keeps.step (State.linesFirst_keeps ..) ?_
        refine Keeps.step ((State.setAxis_only ..).keeps (by decide)) ?_
        refine Keeps.step (State.withdrawMove_keeps ..) ?_
        refine Keeps.step (State.setSreg_keeps ..) ?_
        exact .refl

theorem State.moveRefused_keeps (s : State) (a : Nat) : Keeps s (State.moveRefused s a) := by
  unfold State.moveRefused
  dsimp only
  refine Keeps.ite (fun _ => ?_) (fun _ => ?_)
  · refine Keeps.step (State.bump_keeps ..) ?_
    refine Keeps.step ((State.setAxis_only ..).keeps (by decide)) ?_
    exact .refl
  · exact .refl

theorem execMoveStart_keeps (axis : Fin 4) (s : State) : KeepsNext s (execMoveStart axis s) := by
  unfold execMoveStart
  dsimp only
  refine KeepsNext.ite (fun _ => ?_) (fun _ => ?_)
  · refine KeepsNext.next ?_
    refine Keeps.ite (fun _ => ?_) (fun _ => ?_)
    · refine Keeps.step ((State.setAxis_only ..).keeps (by decide)) ?_
      refine Keeps.step (State.replan_keeps ..) ?_
      refine Keeps.step ((State.setAxis_only ..).keeps (by decide)) ?_
      refine Keeps.step ((State.useLeave_only ..).keeps (by decide)) ?_
      exact .refl
    · refine Keeps.step (State.replan_keeps ..) ?_
      refine Keeps.step ((State.setAxis_only ..).keeps (by decide)) ?_
      refine Keeps.step ((State.useLeave_only ..).keeps (by decide)) ?_
      exact .refl
  · refine KeepsNext.next ?_
    exact .refl

theorem State.stalled_keeps (s : State) (a : Nat) : Keeps s (State.stalled s a) := by
  unfold State.stalled
  dsimp only
  refine Keeps.ite (fun _ => ?_) (fun _ => ?_)
  · refine Keeps.foldl (fun t x => ?_) ?_
    · refine Keeps.step ((State.backOff_only ..).keeps (by decide)) ?_
      exact .refl
    · refine Keeps.step ((State.setAxis_only ..).keeps (by decide)) ?_
      refine Keeps.step (State.setSreg_keeps ..) ?_
      exact .refl
  · refine Keeps.step ((State.setAxis_only ..).keeps (by decide)) ?_
    refine Keeps.step (State.setSreg_keeps ..) ?_
    exact .refl

theorem State.homeFail_keeps (s : State) (a : Nat) : Keeps s (State.homeFail s a) := by
  unfold State.homeFail
  refine Keeps.step (State.setBits_keeps ..) ?_
  refine Keeps.step (State.stopPair_keeps ..) ?_
  exact .refl

theorem State.fullStep_keeps (s : State) (a : Nat) : Keeps s (State.fullStep s a) := by
  unfold State.fullStep
  dsimp only
  refine Keeps.ite (fun _ => ?_) (fun _ => ?_)
  · refine Keeps.ite (fun _ => ?_) (fun _ => ?_)
    · refine Keeps.step ((State.setAxis_only ..).keeps (by decide)) ?_
      exact .refl
    · refine Keeps.step ((State.setAxis_only ..).keeps (by decide)) ?_
      refine Keeps.step (State.setReg_keeps ..) ?_
      split
      · refine Keeps.step ((State.fresh_only ..).keeps (by decide)) ?_
        exact .refl
      · dsimp only
        exact .refl
  · refine Keeps.ite (fun _ => ?_) (fun _ => ?_)
    · refine Keeps.step (State.stalled_keeps ..) ?_
      refine Keeps.step ((State.setAxis_only ..).keeps (by decide)) ?_
      exact .refl
    · refine Keeps.step ((State.setAxis_only ..).keeps (by decide)) ?_
      exact .refl

theorem State.tickMove_keeps (s : State) (a : Nat) : Keeps s (State.tickMove s a) := by
  unfold State.tickMove
  dsimp only
  refine Keeps.ite (fun _ => ?_) (fun _ => ?_)
  · refine Keeps.ite (fun _ => ?_) (fun _ => ?_)
    · refine Keeps.step (State.setBits_keeps ..) ?_
      refine Keeps.step ((State.setAxis_only ..).keeps (by decide)) ?_
      refine Keeps.step (State.placeSteps_keeps ..) ?_
      refine Keeps.step ((State.setAxis_only ..).keeps (by decide)) ?_
      exact .refl
    · refine Keeps.step (State.bump_keeps ..) ?_
      refine Keeps.step (State.placeSteps_keeps ..) ?_
      refine Keeps.step ((State.setAxis_only ..).keeps (by decide)) ?_
      exact .refl
  · refine Keeps.step (State.placeSteps_keeps ..) ?_
    refine Keeps.step ((State.setAxis_only ..).keeps (by decide)) ?_
    exact .refl

theorem State.tickFollow_keeps (s : State) (old : Axis) : Keeps s (State.tickFollow s old) := by
  unfold State.tickFollow
  dsimp only
  refine Keeps.ite (fun _ => ?_) (fun _ => ?_)
  · refine Keeps.step (State.placeSteps_keeps ..) ?_
    refine Keeps.step ((State.setAxis_only ..).keeps (by decide)) ?_
    exact .refl
  · refine Keeps.step (State.bump_keeps ..) ?_
    refine Keeps.step (State.placeSteps_keeps ..) ?_
    refine Keeps.step ((State.setAxis_only ..).keeps (by decide)) ?_
    exact .refl

theorem State.tickHome_keeps (s : State) (a : Nat) : Keeps s (State.tickHome s a) := by
  unfold State.tickHome
  dsimp only
  refine Keeps.ite (fun _ => ?_) (fun _ => ?_)
  · refine Keeps.step (State.homeFail_keeps ..) ?_
    refine Keeps.ite (fun _ => ?_) (fun _ => ?_)
    · refine Keeps.step (State.fullStep_keeps ..) ?_
      refine Keeps.step (State.placeSteps_keeps ..) ?_
      refine Keeps.step ((State.setAxis_only ..).keeps (by decide)) ?_
      exact .refl
    · refine Keeps.step (State.placeSteps_keeps ..) ?_
      refine Keeps.step ((State.setAxis_only ..).keeps (by decide)) ?_
      exact .refl
  · refine Keeps.ite (fun _ => ?_) (fun _ => ?_)
    · refine Keeps.step (State.fullStep_keeps ..) ?_
      refine Keeps.step (State.placeSteps_keeps ..) ?_
      refine Keeps.step ((State.setAxis_only ..).keeps (by decide)) ?_
      exact .refl
    · refine Keeps.step (State.placeSteps_keeps ..) ?_
      refine Keeps.step ((State.setAxis_only ..).keeps (by decide)) ?_
      exact .refl

theorem State.tickAxis_keeps (s : State) (a : Nat) : Keeps s (State.tickAxis s a) := by
  unfold State.tickAxis
  dsimp only
  split
  · refine Keeps.ite (fun _ => ?_) (fun _ => ?_)
    · exact .refl
    · refine Keeps.step (State.tickMove_keeps ..) ?_
      exact .refl
  · refine Keeps.step (State.tickMove_keeps ..) ?_
    exact .refl
  · refine Keeps.step (State.tickHome_keeps ..) ?_
    exact .refl
  · refine Keeps.step (State.tickHome_keeps ..) ?_
    exact .refl
  · exact .refl

theorem execMotionTick_keeps (s : State) : KeepsNext s (execMotionTick s) := by
  unfold execMotionTick
  refine KeepsNext.ite (fun _ => ?_) (fun _ => ?_)
  · dsimp only
    refine KeepsNext.next ?_
    refine Keeps.step (State.tickAxis_keeps ..) ?_
    refine Keeps.step (State.tickAxis_keeps ..) ?_
    refine Keeps.ite (fun _ => ?_) (fun _ => ?_)
    · refine Keeps.step (State.tickFollow_keeps ..) ?_
      refine Keeps.step (State.tickAxis_keeps ..) ?_
      refine Keeps.step ((State.unhalt_only ..).keeps (by decide)) ?_
      exact .refl
    · refine Keeps.step (State.tickAxis_keeps ..) ?_
      refine Keeps.step (State.tickAxis_keeps ..) ?_
      refine Keeps.step ((State.unhalt_only ..).keeps (by decide)) ?_
      exact .refl
  · refine KeepsNext.next ?_
    exact .refl

theorem execChopperTrip_keeps (axis : Fin 4) (ph : Phase) (driveNs : Nat) (s : State) : KeepsNext s (execChopperTrip axis ph driveNs s) :=
  ⟨fun t ht => ((execChopperTrip_only ..).only t ht).keeps (by decide)⟩

theorem execChopperToffExpiry_keeps (axis : Fin 4) (ph : Phase) (s : State) : KeepsNext s (execChopperToffExpiry axis ph s) :=
  ⟨fun t ht => ((execChopperToffExpiry_only ..).only t ht).keeps (by decide)⟩

theorem execChopperBlankExpiry_keeps (axis : Fin 4) (ph : Phase) (high : Bool) (s : State) :
    KeepsNext s (execChopperBlankExpiry axis ph high s) := by
  unfold execChopperBlankExpiry
  dsimp only
  refine KeepsNext.ite (fun _ => ?_) (fun _ => ?_)
  · refine KeepsNext.next ?_
    refine Keeps.ite (fun _ => ?_) (fun _ => ?_)
    · refine Keeps.step (State.faultAxis_keeps ..) ?_
      refine Keeps.step ((State.setAxis_only ..).keeps (by decide)) ?_
      exact .refl
    · refine Keeps.step ((State.emit_only ..).keeps (by decide)) ?_
      refine Keeps.step ((State.setAxis_only ..).keeps (by decide)) ?_
      exact .refl
  · refine KeepsNext.next ?_
    exact .refl

theorem execPhaseOpenTimeout_keeps (axis : Fin 4) (ph : Phase) (s : State) : KeepsNext s (execPhaseOpenTimeout axis ph s) := by
  unfold execPhaseOpenTimeout
  refine KeepsNext.ite (fun _ => ?_) (fun _ => ?_)
  · refine KeepsNext.next ?_
    refine Keeps.step (State.faultAxis_keeps ..) ?_
    exact .refl
  · refine KeepsNext.next ?_
    exact .refl

/-! ### Led -/

theorem State.ledSample_keeps (s : State) (slot : Nat) (y : Nat) : Keeps s (State.ledSample s slot y) := by
  unfold State.ledSample
  refine Keeps.ite (fun _ => ?_) (fun _ => ?_)
  · exact .refl
  · dsimp only
    refine Keeps.ite (fun _ => ?_) (fun _ => ?_)
    · refine Keeps.ite (fun _ => ?_) (fun _ => ?_)
      · refine Keeps.step (State.setBits_keeps ..) ?_
        refine Keeps.step ((State.ledsLow_only ..).keeps (by decide)) ?_
        refine Keeps.step ((State.darken_only ..).keeps (by decide)) ?_
        exact .refl
      · refine Keeps.step (State.logEvent_keeps ..) ?_
        refine Keeps.step (Only.keeps (Only.with_led (d := [.led]) (by decide) .refl) (by decide)) ?_
        refine Keeps.step (State.setBits_keeps ..) ?_
        refine Keeps.step ((State.ledsLow_only ..).keeps (by decide)) ?_
        refine Keeps.step ((State.darken_only ..).keeps (by decide)) ?_
        exact .refl
    · refine Keeps.ite (fun _ => ?_) (fun _ => ?_)
      · refine Keeps.step (Only.keeps (Only.with_led (d := [.led]) (by decide) .refl) (by decide)) ?_
        exact .refl
      · exact .refl

theorem State.askLight_keeps (s : State) (c : Nat) (set : CamSet) (derate : Nat) : Keeps s (State.askLight s c set derate).2 := by
  unfold State.askLight
  split
  · dsimp only
    exact .refl
  · dsimp only
    split
    · dsimp only
      refine Keeps.step ((State.useLeave_only ..).keeps (by decide)) ?_
      refine Keeps.of_snd (by assumption) ?_
      refine Keeps.step (State.ask_keeps ..) ?_
      refine Keeps.step (State.linesFirst_keeps ..) ?_
      exact .refl
    · dsimp only
      refine Keeps.step (State.bump_keeps ..) ?_
      refine Keeps.of_snd (by assumption) ?_
      refine Keeps.step (State.ask_keeps ..) ?_
      refine Keeps.step (State.linesFirst_keeps ..) ?_
      exact .refl

/-! ### Loop -/

theorem State.chargeSample_keeps (s : State) (i : Nat) : Keeps s (State.chargeSample s i) := by
  unfold State.chargeSample
  dsimp only
  refine Keeps.ite (fun _ => ?_) (fun _ => ?_)
  · exact .refl
  · refine Keeps.ite (fun _ => ?_) (fun _ => ?_)
    · refine Keeps.step (State.chargePool_keeps ..) ?_
      refine Keeps.step ((State.fresh_only ..).keeps (by decide)) ?_
      exact .refl
    · refine Keeps.step (State.chargePool_keeps ..) ?_
      exact .refl

theorem State.trip_keeps (s : State) (i : Nat) (test : Nat) : Keeps s (State.trip s i test) := by
  unfold State.trip
  refine Keeps.ite (fun _ => ?_) (fun _ => ?_)
  · exact .refl
  · dsimp only
    refine Keeps.step (State.logEvent_keeps ..) ?_
    refine Keeps.ite (fun _ => ?_) (fun _ => ?_)
    · refine Keeps.step (State.setCause_keeps ..) ?_
      refine Keeps.step ((State.setLoop_only ..).keeps (by decide)) ?_
      refine Keeps.step (State.setBits_keeps ..) ?_
      refine Keeps.step (State.setReg_keeps ..) ?_
      exact .refl
    · refine Keeps.step ((State.setLoop_only ..).keeps (by decide)) ?_
      refine Keeps.step (State.setBits_keeps ..) ?_
      refine Keeps.step (State.setReg_keeps ..) ?_
      exact .refl

theorem State.goSafe_keeps (s : State) (i : Nat) : Keeps s (State.goSafe s i) := by
  unfold State.goSafe
  dsimp only
  refine Keeps.step ((State.actuate_only ..).keeps (by decide)) ?_
  refine Keeps.step ((State.setLoop_only ..).keeps (by decide)) ?_
  refine Keeps.step (State.setReg_keeps ..) ?_
  exact .refl

theorem State.supervise_keeps (s : State) (i : Nat) (y : Nat) (r : LoopOut) : Keeps s (State.supervise s i y r) := by
  unfold State.supervise
  dsimp only
  split
  · refine Keeps.step (State.trip_keeps ..) ?_
    refine Keeps.step ((State.setLoop_only ..).keeps (by decide)) ?_
    exact .refl
  · refine Keeps.step ((State.setLoop_only ..).keeps (by decide)) ?_
    exact .refl

theorem State.sampleLoop_keeps (s : State) (i : Nat) (raw : Nat) : Keeps s (State.sampleLoop s i raw) := by
  unfold State.sampleLoop
  dsimp only
  refine Keeps.step (State.ledSample_keeps ..) ?_
  refine Keeps.step (State.chargeSample_keeps ..) ?_
  refine Keeps.step ((State.actuate_only ..).keeps (by decide)) ?_
  refine Keeps.step (State.bump_keeps ..) ?_
  refine Keeps.step (State.setReg_keeps ..) ?_
  refine Keeps.step (State.setReg_keeps ..) ?_
  refine Keeps.step (State.setReg_keeps ..) ?_
  refine Keeps.step (State.setReg_keeps ..) ?_
  refine Keeps.step (State.setReg_keeps ..) ?_
  refine Keeps.step ((State.setLoop_only ..).keeps (by decide)) ?_
  refine Keeps.step (State.supervise_keeps ..) ?_
  exact .refl

theorem State.staleLoop_keeps (s : State) (i : Nat) : Keeps s (State.staleLoop s i) := by
  unfold State.staleLoop
  dsimp only
  refine Keeps.ite (fun _ => ?_) (fun _ => ?_)
  · refine Keeps.step (State.goSafe_keeps ..) ?_
    refine Keeps.step (State.trip_keeps ..) ?_
    refine Keeps.step (State.bump_keeps ..) ?_
    refine Keeps.step ((State.setLoop_only ..).keeps (by decide)) ?_
    exact .refl
  · refine Keeps.step (State.bump_keeps ..) ?_
    refine Keeps.step ((State.setLoop_only ..).keeps (by decide)) ?_
    exact .refl

theorem State.startSample_keeps (s : State) (i : Nat) : Keeps s (State.startSample s i) := by
  unfold State.startSample
  dsimp only
  refine Keeps.step ((State.setLoop_only ..).keeps (by decide)) ?_
  refine Keeps.ite (fun _ => ?_) (fun _ => ?_)
  · refine Keeps.step (State.setReg_keeps ..) ?_
    exact .refl
  · exact .refl

theorem State.takeSample_keeps (s : State) (i : Nat) : Keeps s (State.takeSample s i) := by
  unfold State.takeSample
  dsimp only
  split
  · split
    · refine Keeps.step (State.sampleLoop_keeps ..) ?_
      refine Keeps.step (State.startSample_keeps ..) ?_
      exact .refl
    · refine Keeps.step (State.staleLoop_keeps ..) ?_
      refine Keeps.step (State.startSample_keeps ..) ?_
      exact .refl
  · refine Keeps.step ((State.spiAdd_only ..).keeps (by decide)) ?_
    refine Keeps.step ((State.setLoop_only ..).keeps (by decide)) ?_
    refine Keeps.step (State.startSample_keeps ..) ?_
    exact .refl
  · refine Keeps.step (State.sampleLoop_keeps ..) ?_
    refine Keeps.step (State.startSample_keeps ..) ?_
    exact .refl
  · refine Keeps.step (State.sampleLoop_keeps ..) ?_
    refine Keeps.step (State.startSample_keeps ..) ?_
    exact .refl

theorem State.sampleSlot_keeps (s : State) (ahead : Bool) (i : Nat) : Keeps s (State.sampleSlot s ahead i) := by
  unfold State.sampleSlot
  dsimp only
  refine Keeps.ite (fun _ => ?_) (fun _ => ?_)
  · refine Keeps.step (State.bump_keeps ..) ?_
    refine Keeps.step ((State.setLoop_only ..).keeps (by decide)) ?_
    exact .refl
  · refine Keeps.step (State.takeSample_keeps ..) ?_
    refine Keeps.step ((State.setLoop_only ..).keeps (by decide)) ?_
    exact .refl

theorem execLoopSample_keeps (i : Fin 48) (s : State) : KeepsNext s (execLoopSample i s) := by
  unfold execLoopSample
  refine KeepsNext.ite (fun _ => ?_) (fun _ => ?_)
  · refine KeepsNext.next ?_
    exact .refl
  · refine KeepsNext.ite (fun _ => ?_) (fun _ => ?_)
    · refine KeepsNext.next ?_
      refine Keeps.step ((State.setLoop_only ..).keeps (by decide)) ?_
      exact .refl
    · refine KeepsNext.next ?_
      refine Keeps.step (State.sampleSlot_keeps ..) ?_
      refine Keeps.foldl (fun t x => ?_) ?_
      · refine Keeps.step (State.sampleSlot_keeps ..) ?_
        exact .refl
      · exact .refl

theorem execSpiSenseDone_keeps (p : Fin 4) (bits : Nat) (s : State) : KeepsNext s (execSpiSenseDone p bits s) := by
  unfold execSpiSenseDone
  split
  · refine KeepsNext.ite (fun _ => ?_) (fun _ => ?_)
    · split
      refine KeepsNext.next ?_
      refine Keeps.step ((State.spiPop_only ..).keeps (by decide)) ?_
      refine Keeps.step (State.sampleLoop_keeps ..) ?_
      refine Keeps.of_snd (by assumption) ?_
      refine Keeps.step ((State.adcRaw_only ..).keeps (by decide)) ?_
      exact .refl
    · refine KeepsNext.next ?_
      refine Keeps.step ((State.spiPop_only ..).keeps (by decide)) ?_
      exact .refl
  · refine KeepsNext.next ?_
    exact .refl

theorem execSpiActuatorWrite_keeps (p : Fin 4) (s : State) : KeepsNext s (execSpiActuatorWrite p s) :=
  ⟨fun t ht => ((execSpiActuatorWrite_only ..).only t ht).keeps (by decide)⟩

theorem execLoopFollowTimeout_keeps (i : Fin 48) (s : State) : KeepsNext s (execLoopFollowTimeout i s) := by
  unfold execLoopFollowTimeout
  dsimp only
  refine KeepsNext.ite (fun _ => ?_) (fun _ => ?_)
  · refine KeepsNext.next ?_
    refine Keeps.step (State.goSafe_keeps ..) ?_
    refine Keeps.step (State.trip_keeps ..) ?_
    exact .refl
  · refine KeepsNext.next ?_
    exact .refl

theorem State.loopSnuff_keeps (s : State) : Keeps s (State.loopSnuff s) := by
  unfold State.loopSnuff
  refine Keeps.ite (fun _ => ?_) (fun _ => ?_)
  · exact .refl
  · refine Keeps.foldl (fun t x => ?_) ?_
    · refine Keeps.ite (fun _ => ?_) (fun _ => ?_)
      · refine Keeps.step (State.goSafe_keeps ..) ?_
        exact .refl
      · exact .refl
    · exact .refl

theorem State.takeLoops_keeps (s : State) (record : List Byte) : Keeps s (State.takeLoops s record) := by
  unfold State.takeLoops
  refine Keeps.foldl (fun t x => ?_) ?_
  · dsimp only
    refine Keeps.step ((State.setLoop_only ..).keeps (by decide)) ?_
    refine Keeps.step (State.setReg_keeps ..) ?_
    refine Keeps.step (State.setReg_keeps ..) ?_
    exact .refl
  · exact .refl

/-! ### Upload -/

theorem State.writeBack_keeps (s : State) (ch : Nat) : Keeps s (State.writeBack s ch) := by
  unfold State.writeBack
  dsimp only
  split
  · exact .refl
  · split
    · exact .refl
    · refine Keeps.ite (fun _ => ?_) (fun _ => ?_)
      · refine Keeps.step (State.setDom_keeps ..) ?_
        refine Keeps.step ((State.setChan_only ..).keeps (by decide)) ?_
        exact .refl
      · exact .refl

theorem State.endRequest_keeps (s : State) (ch : Nat) (status : Nat) : Keeps s (State.endRequest s ch status) := by
  unfold State.endRequest
  dsimp only
  split
  · exact .refl
  · refine Keeps.ite (fun _ => ?_) (fun _ => ?_)
    · exact .refl
    · refine Keeps.step (State.writeBack_keeps ..) ?_
      refine Keeps.step ((State.setChan_only ..).keeps (by decide)) ?_
      exact .refl

theorem State.noteCoded_keeps (s : State) (ch : Nat) (x2 : Coded) : Keeps s (State.noteCoded s ch x2) := by
  unfold State.noteCoded
  split
  · exact .refl
  · refine Keeps.step (State.bump_keeps ..) ?_
    exact .refl
  · refine Keeps.step (State.logEvent_keeps ..) ?_
    refine Keeps.step (State.bump_keeps ..) ?_
    exact .refl

theorem State.storePacket_keeps (s : State) (ch : Nat) (addr : Nat) (p : Pkt) (k : Coded) (chunk : List Byte) :
    Keeps s (State.storePacket s ch addr p k chunk) := by
  unfold State.storePacket
  dsimp only
  refine Keeps.step ((State.setChan_only ..).keeps (by decide)) ?_
  refine Keeps.step (State.count_keeps ..) ?_
  refine Keeps.step (State.setReg_keeps ..) ?_
  refine Keeps.step (State.writeMem_keeps ..) ?_
  exact .refl

theorem State.runResult_keeps (s : State) : Keeps s (State.runResult s) := by
  unfold State.runResult
  dsimp only
  split
  · refine Keeps.step (State.setDom_keeps ..) ?_
    exact .refl
  · refine Keeps.step (State.setDom_keeps ..) ?_
    refine Keeps.step ((State.fresh_only ..).keeps (by decide)) ?_
    refine Keeps.step ((State.fresh_only ..).keeps (by decide)) ?_
    refine Keeps.step ((State.fresh_only ..).keeps (by decide)) ?_
    refine Keeps.step ((State.fresh_only ..).keeps (by decide)) ?_
    exact .refl

theorem State.closeRun_keeps (s : State) : Keeps s (State.closeRun s) := by
  unfold State.closeRun
  dsimp only
  refine Keeps.step ((State.setChan_only ..).keeps (by decide)) ?_
  split
  · refine Keeps.step ((State.setChan_only ..).keeps (by decide)) ?_
    exact .refl
  · refine Keeps.step (State.runResult_keeps ..) ?_
    exact .refl

theorem State.endRun_keeps (s : State) : Keeps s (State.endRun s) := by
  unfold State.endRun
  dsimp only
  refine Keeps.ite (fun _ => ?_) (fun _ => ?_)
  · refine Keeps.step ((State.setChan_only ..).keeps (by decide)) ?_
    exact .refl
  · refine Keeps.step (State.closeRun_keeps ..) ?_
    exact .refl

theorem State.holdChunk_keeps (s : State) (ch : Nat) : Keeps s (State.holdChunk s ch) := by
  unfold State.holdChunk
  dsimp only
  refine Keeps.ite (fun _ => ?_) (fun _ => ?_)
  · refine Keeps.step ((State.setChan_only ..).keeps (by decide)) ?_
    refine Keeps.step (State.count_keeps ..) ?_
    exact .refl
  · split
    · refine Keeps.step ((State.setChan_only ..).keeps (by decide)) ?_
      refine Keeps.step (State.bump_keeps ..) ?_
      exact .refl
    · refine Keeps.step (State.closeRun_keeps ..) ?_
      refine Keeps.step ((State.setChan_only ..).keeps (by decide)) ?_
      refine Keeps.step (State.bump_keeps ..) ?_
      exact .refl

theorem State.compressNormal_keeps (s : State) (ch : Nat) (n : Nat) (ends : Bool) : Keeps s (State.compressNormal s ch n ends) := by
  unfold State.compressNormal
  dsimp only
  split
  · refine Keeps.step (State.holdChunk_keeps ..) ?_
    refine Keeps.ite (fun _ => ?_) (fun _ => ?_)
    · refine Keeps.step (State.noteCoded_keeps ..) ?_
      exact .refl
    · exact .refl
  · refine Keeps.step ((State.setChan_only ..).keeps (by decide)) ?_
    refine Keeps.step (State.storePacket_keeps ..) ?_
    refine Keeps.step (State.noteCoded_keeps ..) ?_
    exact .refl

theorem State.readChunk_keeps (s : State) (ch : Nat) (r : UReq) : Keeps s (State.readChunk s ch r) := by
  unfold State.readChunk
  refine Keeps.ite (fun _ => ?_) (fun _ => ?_)
  · refine Keeps.step (State.askMem_keeps ..) ?_
    exact .refl
  · exact .refl

theorem State.compressRequest_keeps (s : State) (ch : Nat) (r : UReq) (image : List Byte) : Keeps s (State.compressRequest s ch r image) := by
  unfold State.compressRequest
  dsimp only
  refine Keeps.ite (fun _ => ?_) (fun _ => ?_)
  · exact .refl
  · refine Keeps.ite (fun _ => ?_) (fun _ => ?_)
    · refine Keeps.step (State.endRequest_keeps ..) ?_
      refine Keeps.step (State.noteCoded_keeps ..) ?_
      exact .refl
    · refine Keeps.ite (fun _ => ?_) (fun _ => ?_)
      · refine Keeps.step (State.endRequest_keeps ..) ?_
        refine Keeps.step ((State.setChan_only ..).keeps (by decide)) ?_
        refine Keeps.step (State.storePacket_keeps ..) ?_
        refine Keeps.step (State.noteCoded_keeps ..) ?_
        exact .refl
      · refine Keeps.step (State.readChunk_keeps ..) ?_
        refine Keeps.step ((State.setChan_only ..).keeps (by decide)) ?_
        refine Keeps.step (State.storePacket_keeps ..) ?_
        refine Keeps.step (State.noteCoded_keeps ..) ?_
        exact .refl

theorem State.firstSend_keeps (s : State) (ch : Nat) (p : Pkt) : Keeps s (State.firstSend s ch p) := by
  unfold State.firstSend
  split
  dsimp only
  split
  · refine Keeps.step ((State.setChan_only ..).keeps (by decide)) ?_
    refine Keeps.step (State.count_keeps ..) ?_
    refine Keeps.of_snd (by assumption) ?_
    refine Keeps.step ((State.txTime_only ..).keeps (by decide)) ?_
    exact .refl
  · refine Keeps.step (State.setDom_keeps ..) ?_
    refine Keeps.step ((State.setChan_only ..).keeps (by decide)) ?_
    refine Keeps.step (State.count_keeps ..) ?_
    refine Keeps.of_snd (by assumption) ?_
    refine Keeps.step ((State.txTime_only ..).keeps (by decide)) ?_
    exact .refl

theorem State.sendPacket_keeps (s : State) (ch : Nat) (p : Pkt) : Keeps s (State.sendPacket s ch p) := by
  unfold State.sendPacket
  dsimp only
  refine Keeps.step ((State.setChan_only ..).keeps (by decide)) ?_
  refine Keeps.ite (fun _ => ?_) (fun _ => ?_)
  · refine Keeps.step ((State.emit_only ..).keeps (by decide)) ?_
    exact .refl
  · refine Keeps.step (State.firstSend_keeps ..) ?_
    refine Keeps.step ((State.emit_only ..).keeps (by decide)) ?_
    exact .refl

theorem State.resendFrom_keeps (s : State) (ch : Nat) (q : Nat) : Keeps s (State.resendFrom s ch q) := by
  unfold State.resendFrom
  dsimp only
  refine Keeps.step (State.bump_keeps ..) ?_
  refine Keeps.step ((State.setChan_only ..).keeps (by decide)) ?_
  exact .refl

theorem State.ackTo_keeps (s : State) (ch : Nat) (v : Nat) : Keeps s (State.ackTo s ch v) := by
  unfold State.ackTo
  dsimp only
  refine Keeps.step (State.writeBack_keeps ..) ?_
  refine Keeps.step ((State.setChan_only ..).keeps (by decide)) ?_
  exact .refl

theorem execFlushTimeExpiry_keeps (ch : Fin 4) (s : State) : KeepsNext s (execFlushTimeExpiry ch s) :=
  ⟨fun t ht => ((execFlushTimeExpiry_only ..).only t ht).keeps (by decide)⟩

theorem execUploadPacketSend_keeps (s : State) : KeepsNext s (execUploadPacketSend s) := by
  unfold execUploadPacketSend
  refine KeepsNext.ite (fun _ => ?_) (fun _ => ?_)
  · split
    · refine KeepsNext.next ?_
      refine Keeps.step (State.sendPacket_keeps ..) ?_
      exact .refl
    · refine KeepsNext.next ?_
      exact .refl
  · refine KeepsNext.next ?_
    exact .refl

theorem execUploadCreditGrant_keeps (ch : Nat) (v : Nat) (s : State) : KeepsNext s (execUploadCreditGrant ch v s) :=
  ⟨fun t ht => ((execUploadCreditGrant_only ..).only t ht).keeps (by decide)⟩

theorem execUploadResend_keeps (ch : Nat) (v : Nat) (s : State) : KeepsNext s (execUploadResend ch v s) := by
  unfold execUploadResend
  refine KeepsNext.ite (fun _ => ?_) (fun _ => ?_)
  · refine KeepsNext.next ?_
    refine Keeps.step (State.resendFrom_keeps ..) ?_
    exact .refl
  · refine KeepsNext.next ?_
    exact .refl

theorem execUploadAck_keeps (ch : Nat) (v : Nat) (s : State) : KeepsNext s (execUploadAck ch v s) := by
  unfold execUploadAck
  refine KeepsNext.ite (fun _ => ?_) (fun _ => ?_)
  · refine KeepsNext.next ?_
    refine Keeps.step (State.ackTo_keeps ..) ?_
    exact .refl
  · refine KeepsNext.next ?_
    exact .refl

theorem execUploadEntryDropped_keeps (x0 : Nat) (x1 : Nat) (s : State) : KeepsNext s (execUploadEntryDropped x0 x1 s) :=
  ⟨fun t ht => ((execUploadEntryDropped_only ..).only t ht).keeps (by decide)⟩

theorem execAckTimeoutExpiry_keeps (ch : Fin 4) (s : State) : KeepsNext s (execAckTimeoutExpiry ch s) := by
  unfold execAckTimeoutExpiry
  split
  · refine KeepsNext.ite (fun _ => ?_) (fun _ => ?_)
    · refine KeepsNext.next ?_
      refine Keeps.step (State.resendFrom_keeps ..) ?_
      exact .refl
    · refine KeepsNext.next ?_
      exact .refl
  · refine KeepsNext.next ?_
    exact .refl

theorem State.startUpload_keeps (s : State) (r : UAsk) : Keeps s (State.startUpload s r) := by
  unfold State.startUpload
  dsimp only
  refine Keeps.step (State.readChunk_keeps ..) ?_
  refine Keeps.step ((State.setChan_only ..).keeps (by decide)) ?_
  exact .refl

theorem State.uploadReset_keeps (s : State) : Keeps s (State.uploadReset s) := by
  unfold State.uploadReset
  dsimp only
  refine Keeps.foldl (fun t x => ?_) ?_
  · refine Keeps.step ((State.setChan_only ..).keeps (by decide)) ?_
    refine Keeps.step (State.writeBack_keeps ..) ?_
    refine Keeps.step ((State.setChan_only ..).keeps (by decide)) ?_
    exact .refl
  · refine Keeps.step (State.endRequest_keeps ..) ?_
    refine Keeps.step (State.endRequest_keeps ..) ?_
    exact .refl

theorem State.uploadRelease_keeps (s : State) : Keeps s (State.uploadRelease s) := by
  unfold State.uploadRelease
  refine Keeps.foldl (fun t x => ?_) ?_
  · refine Keeps.step (State.setReg_keeps ..) ?_
    exact .refl
  · exact .refl

/-! ### Lantern -/

theorem State.startTap_keeps (s : State) (c : Nat) : Keeps s (State.startTap s c) := by
  unfold State.startTap
  split
  · refine Keeps.ite (fun _ => ?_) (fun _ => ?_)
    · refine Keeps.step (Only.keeps (Only.with_lantern (d := [.lantern]) (by decide) .refl) (by decide)) ?_
      exact .refl
    · exact .refl
  · dsimp only
    refine Keeps.ite (fun _ => ?_) (fun _ => ?_)
    · refine Keeps.ite (fun _ => ?_) (fun _ => ?_)
      · refine Keeps.step (State.bump_keeps ..) ?_
        exact .refl
      · refine Keeps.step ((State.setChan_only ..).keeps (by decide)) ?_
        exact .refl
    · exact .refl
  · exact .refl

theorem execCameraFrameStart_keeps (p : Fin 2) (s : State) : KeepsNext s (execCameraFrameStart p s) := by
  unfold execCameraFrameStart
  refine KeepsNext.ite (fun _ => ?_) (fun _ => ?_)
  · refine KeepsNext.next ?_
    exact .refl
  · split
    · refine KeepsNext.next ?_
      exact .refl
    · dsimp only
      refine KeepsNext.next ?_
      refine Keeps.step (State.startTap_keeps ..) ?_
      refine Keeps.step ((State.select_only ..).keeps (by decide)) ?_
      refine Keeps.step (Only.keeps (Only.with_lantern (d := [.lantern]) (by decide) .refl) (by decide)) ?_
      refine Keeps.step ((State.setFrame_only ..).keeps (by decide)) ?_
      refine Keeps.step (State.askLight_keeps ..) ?_
      refine Keeps.step (State.setReg_keeps ..) ?_
      refine Keeps.step (State.setReg_keeps ..) ?_
      refine Keeps.step (State.takeJobs_keeps ..) ?_
      exact .refl

theorem execCameraTrigger_keeps (p : Fin 2) (s : State) : KeepsNext s (execCameraTrigger p s) :=
  ⟨fun t ht => ((execCameraTrigger_only ..).only t ht).keeps (by decide)⟩

theorem State.logFindings_keeps (s : State) (gen : Nat) (x2 : List (Nat × Nat × Nat)) : Keeps s (State.logFindings s gen x2) := by
  induction x2 generalizing s gen with | nil => ?_ | cons y l ih => ?_
  · simp only [State.logFindings]
    exact .refl
  · simp only [State.logFindings]
    refine Keeps.step (ih ..) ?_
    refine Keeps.step (State.logEvent_keeps ..) ?_
    exact .refl

theorem State.writeFindings_keeps (s : State) (c : Nat) (gen : Nat) (l : List (Nat × Nat × Nat)) : Keeps s (State.writeFindings s c gen l) := by
  unfold State.writeFindings
  refine Keeps.ite (fun _ => ?_) (fun _ => ?_)
  · exact .refl
  · dsimp only
    refine Keeps.ite (fun _ => ?_) (fun _ => ?_)
    · refine Keeps.step ((State.emit_only ..).keeps (by decide)) ?_
      refine Keeps.step (State.logFindings_keeps ..) ?_
      refine Keeps.step (State.count_keeps ..) ?_
      exact .refl
    · refine Keeps.step (State.publish_keeps ..) ?_
      refine Keeps.step (State.logFindings_keeps ..) ?_
      refine Keeps.step (State.count_keeps ..) ?_
      exact .refl

theorem State.evaluateRung_keeps (s : State) (p : Nat) (c : Nat) (r : Rung) : Keeps s (State.evaluateRung s p c r) := by
  unfold State.evaluateRung
  dsimp only
  refine Keeps.ite (fun _ => ?_) (fun _ => ?_)
  · refine Keeps.step (Only.keeps (Only.with_lantern (d := [.lantern]) (by decide) .refl) (by decide)) ?_
    exact .refl
  · refine Keeps.step (State.writeFindings_keeps ..) ?_
    refine Keeps.step ((State.verdicts_only ..).keeps (by decide)) ?_
    split
    · refine Keeps.step ((State.setFrame_only ..).keeps (by decide)) ?_
      refine Keeps.step (Only.keeps (Only.with_lantern (d := [.lantern]) (by decide) .refl) (by decide)) ?_
      exact .refl
    · refine Keeps.step (Only.keeps (Only.with_lantern (d := [.lantern]) (by decide) .refl) (by decide)) ?_
      exact .refl

theorem State.takeRef_keeps (s : State) (p : Nat) (c : Nat) (n : Nat) (line : List Byte) : Keeps s (State.takeRef s p c n line) := by
  unfold State.takeRef
  dsimp only
  split
  · refine Keeps.ite (fun _ => ?_) (fun _ => ?_)
    · refine Keeps.step ((State.setRung_only ..).keeps (by decide)) ?_
      exact .refl
    · refine Keeps.ite (fun _ => ?_) (fun _ => ?_)
      · refine Keeps.step ((State.setRung_only ..).keeps (by decide)) ?_
        refine Keeps.step (State.evaluateRung_keeps ..) ?_
        exact .refl
      · refine Keeps.step (State.evaluateRung_keeps ..) ?_
        exact .refl
  · refine Keeps.ite (fun _ => ?_) (fun _ => ?_)
    · refine Keeps.step ((State.setRung_only ..).keeps (by decide)) ?_
      exact .refl
    · exact .refl

theorem State.refLate_keeps (s : State) (c : Nat) (next : Nat) (n : Nat) : Keeps s (State.refLate s c next n) := by
  unfold State.refLate
  dsimp only
  refine Keeps.ite (fun _ => ?_) (fun _ => ?_)
  · exact .refl
  · refine Keeps.step (State.setBits_keeps ..) ?_
    refine Keeps.step (State.count_keeps ..) ?_
    refine Keeps.step (Only.keeps (Only.with_lantern (d := [.lantern]) (by decide) .refl) (by decide)) ?_
    exact .refl

theorem State.takeRefs_keeps (s : State) (p : Nat) (c : Nat) (k : Nat) (n : Nat) (x5 : Nat) : Keeps s (State.takeRefs s p c k n x5) := by
  induction x5 generalizing s p c k n with | zero => ?_ | succ k ih => ?_
  · simp only [State.takeRefs]
    exact .refl
  · simp only [State.takeRefs]
    refine Keeps.ite (fun _ => ?_) (fun _ => ?_)
    · exact .refl
    · split
      · refine Keeps.step (State.refLate_keeps ..) ?_
        refine Keeps.step ((State.spoilRung_only ..).keeps (by decide)) ?_
        refine Keeps.of_snd (by assumption) ?_
        refine Keeps.step (State.takeAux_keeps ..) ?_
        exact .refl
      · refine Keeps.step (ih ..) ?_
        refine Keeps.step ((State.spoilRung_only ..).keeps (by decide)) ?_
        refine Keeps.step (State.refLate_keeps ..) ?_
        refine Keeps.of_snd (by assumption) ?_
        refine Keeps.step (State.takeAux_keeps ..) ?_
        exact .refl
      · refine Keeps.step (ih ..) ?_
        refine Keeps.ite (fun _ => ?_) (fun _ => ?_)
        · refine Keeps.step ((State.spoilRung_only ..).keeps (by decide)) ?_
          refine Keeps.of_snd (by assumption) ?_
          refine Keeps.step (State.takeAux_keeps ..) ?_
          exact .refl
        · refine Keeps.step (State.takeRef_keeps ..) ?_
          refine Keeps.of_snd (by assumption) ?_
          refine Keeps.step (State.takeAux_keeps ..) ?_
          exact .refl

theorem State.detect_keeps (s : State) (p : Nat) (f : Frame) (cols : Table Nat) (cRise : Nat) (cMid : Nat) (cFall : Nat) :
    Keeps s (State.detect s p f cols cRise cMid cFall) := by
  unfold State.detect
  dsimp only
  refine Keeps.ite (fun _ => ?_) (fun _ => ?_)
  · refine Keeps.ite (fun _ => ?_) (fun _ => ?_)
    · refine Keeps.step ((State.noteRung_only ..).keeps (by decide)) ?_
      refine Keeps.step (State.takeRefs_keeps ..) ?_
      exact .refl
    · refine Keeps.step (State.takeRefs_keeps ..) ?_
      exact .refl
  · exact .refl

theorem State.breach_keeps (s : State) (p : Nat) : Keeps s (State.breach s p) := by
  unfold State.breach
  dsimp only
  split
  · refine Keeps.step ((State.setFrame_only ..).keeps (by decide)) ?_
    refine Keeps.step (Only.keeps (Only.with_lantern (d := [.lantern]) (by decide) .refl) (by decide)) ?_
    refine Keeps.step (State.setBits_keeps ..) ?_
    exact .refl
  · refine Keeps.step (Only.keeps (Only.with_lantern (d := [.lantern]) (by decide) .refl) (by decide)) ?_
    refine Keeps.step (State.setBits_keeps ..) ?_
    exact .refl

theorem State.frameLine_keeps (s : State) (p : Nat) (f : Frame) (pixels : List Nat) : Keeps s (State.frameLine s p f pixels) := by
  unfold State.frameLine
  dsimp only
  split
  · refine Keeps.step ((State.setFrame_only ..).keeps (by decide)) ?_
    refine Keeps.step ((State.fresh_only ..).keeps (by decide)) ?_
    refine Keeps.step ((State.tapLine_only ..).keeps (by decide)) ?_
    exact .refl
  · refine Keeps.step (State.detect_keeps ..) ?_
    refine Keeps.step ((State.setFrame_only ..).keeps (by decide)) ?_
    refine Keeps.step ((State.lineCounts_only ..).keeps (by decide)) ?_
    refine Keeps.step ((State.tapLine_only ..).keeps (by decide)) ?_
    exact .refl

theorem execCameraLine_keeps (p : Fin 2) (line : CamLine) (s : State) : KeepsNext s (execCameraLine p line s) := by
  unfold execCameraLine
  refine KeepsNext.ite (fun _ => ?_) (fun _ => ?_)
  · refine KeepsNext.next ?_
    exact .refl
  · refine KeepsNext.ite (fun _ => ?_) (fun _ => ?_)
    · refine KeepsNext.next ?_
      refine Keeps.step (State.breach_keeps ..) ?_
      exact .refl
    · split
      · refine KeepsNext.next ?_
        exact .refl
      · refine KeepsNext.ite (fun _ => ?_) (fun _ => ?_)
        · refine KeepsNext.next ?_
          refine Keeps.step ((State.setFrame_only ..).keeps (by decide)) ?_
          exact .refl
        · refine KeepsNext.next ?_
          refine Keeps.step (State.frameLine_keeps ..) ?_
          exact .refl

theorem State.endTap_keeps (s : State) (c : Nat) : Keeps s (State.endTap s c) := by
  unfold State.endTap
  split
  · exact .refl
  · refine Keeps.ite (fun _ => ?_) (fun _ => ?_)
    · exact .refl
    · refine Keeps.ite (fun _ => ?_) (fun _ => ?_)
      · dsimp only
        refine Keeps.step (State.endRun_keeps ..) ?_
        refine Keeps.step (Only.keeps (Only.with_lantern (d := [.lantern]) (by decide) .refl) (by decide)) ?_
        exact .refl
      · refine Keeps.step (Only.keeps (Only.with_lantern (d := [.lantern]) (by decide) .refl) (by decide)) ?_
        exact .refl

theorem State.endFrame_keeps (s : State) (p : Nat) (extra : Nat) (pad : Bool) : Keeps s (State.endFrame s p extra pad) := by
  unfold State.endFrame
  split
  · exact .refl
  · dsimp only
    refine Keeps.step (State.endTap_keeps ..) ?_
    refine Keeps.step (Only.keeps (Only.with_lantern (d := [.lantern]) (by decide) .refl) (by decide)) ?_
    refine Keeps.step (State.count_keeps ..) ?_
    refine Keeps.step (State.bump_keeps ..) ?_
    refine Keeps.step (State.setDom_keeps ..) ?_
    refine Keeps.step ((State.frameRecord_only ..).keeps (by decide)) ?_
    refine Keeps.foldl (fun t x => ?_) ?_
    · refine Keeps.step ((State.tapLine_only ..).keeps (by decide)) ?_
      exact .refl
    · exact .refl

theorem execCameraFrameEnd_keeps (p : Fin 2) (s : State) : KeepsNext s (execCameraFrameEnd p s) := by
  unfold execCameraFrameEnd
  dsimp only
  refine KeepsNext.next ?_
  refine Keeps.step (Only.keeps (Only.with_lantern (d := [.lantern]) (by decide) .refl) (by decide)) ?_
  refine Keeps.step (State.endFrame_keeps ..) ?_
  exact .refl

theorem execCameraFrameTimeout_keeps (p : Fin 2) (fvalRose : Bool) (s : State) : KeepsNext s (execCameraFrameTimeout p fvalRose s) := by
  unfold execCameraFrameTimeout
  split
  · refine KeepsNext.next ?_
    exact .refl
  · refine KeepsNext.ite (fun _ => ?_) (fun _ => ?_)
    · refine KeepsNext.next ?_
      exact .refl
    · refine KeepsNext.ite (fun _ => ?_) (fun _ => ?_)
      · refine KeepsNext.next ?_
        refine Keeps.step (State.endFrame_keeps ..) ?_
        exact .refl
      · refine KeepsNext.next ?_
        refine Keeps.step (State.endFrame_keeps ..) ?_
        exact .refl

theorem State.stopTap_keeps (s : State) : Keeps s (State.stopTap s) := by
  unfold State.stopTap
  split
  · exact .refl
  · refine Keeps.ite (fun _ => ?_) (fun _ => ?_)
    · refine Keeps.step (Only.keeps (Only.with_lantern (d := [.lantern]) (by decide) .refl) (by decide)) ?_
      exact .refl
    · refine Keeps.step (State.endRun_keeps ..) ?_
      refine Keeps.step (Only.keeps (Only.with_lantern (d := [.lantern]) (by decide) .refl) (by decide)) ?_
      exact .refl

theorem State.lanternSnuff_keeps (s : State) : Keeps s (State.lanternSnuff s) := by
  unfold State.lanternSnuff
  dsimp only
  refine Keeps.step ((State.ledsLow_only ..).keeps (by decide)) ?_
  refine Keeps.step (Only.keeps (Only.with_lantern (d := [.lantern]) (by decide) .refl) (by decide)) ?_
  refine Keeps.step (State.endFrame_keeps ..) ?_
  refine Keeps.step (State.endFrame_keeps ..) ?_
  refine Keeps.step (State.stopTap_keeps ..) ?_
  exact .refl

theorem State.commitCam_keeps (s : State) (c : Nat) : Keeps s (State.commitCam s c) := by
  unfold State.commitCam
  dsimp only
  refine Keeps.step (State.setReg_keeps ..) ?_
  refine Keeps.step (Only.keeps (Only.with_lantern (d := [.lantern]) (by decide) .refl) (by decide)) ?_
  exact .refl

theorem State.selectTap_keeps (s : State) (v : Nat) : Keeps s (State.selectTap s v) := by
  unfold State.selectTap
  dsimp only
  refine Keeps.step (Only.keeps (Only.with_lantern (d := [.lantern]) (by decide) .refl) (by decide)) ?_
  refine Keeps.step (State.stopTap_keeps ..) ?_
  refine Keeps.step (State.setReg_keeps ..) ?_
  exact .refl

theorem execUartTransfer_keeps (p : Fin 2) (s : State) : KeepsNext s (execUartTransfer p s) :=
  ⟨fun t ht => ((execUartTransfer_only ..).only t ht).keeps (by decide)⟩

theorem execUartRxDone_keeps (p : Fin 2) (bytes : List Byte) (s : State) : KeepsNext s (execUartRxDone p bytes s) := by
  unfold execUartRxDone
  split
  · dsimp only
    refine KeepsNext.next ?_
    refine Keeps.step (Only.keeps (Only.with_lantern (d := [.lantern]) (by decide) .refl) (by decide)) ?_
    refine Keeps.step (State.setDom_keeps ..) ?_
    exact .refl
  · refine KeepsNext.next ?_
    exact .refl

end Sys2Proof.Machine
end

