-- ==== Sys2Proof/Laws/KeepsPowerToEncoder.lean ====
section
/-! SUPPORT. What every operation and meaning of Machine/Power.lean to Machine/Encoder.lean keeps (see Keeps). -/

namespace Sys2Proof.Machine

/-! ### Power -/

theorem State.onGrant_keeps (s : State) (who : Requester) : Keeps s (State.onGrant s who) := by
  unfold State.onGrant
  split
  · split
    · refine Keeps.ite (fun _ => ?_) (fun _ => ?_)
      · exact .refl
      · refine Keeps.step (State.beginMaint_keeps ..) ?_
        refine Keeps.step ((State.useLeave_only ..).keeps (by decide)) ?_
        exact .refl
    · exact .refl
  · exact .refl

theorem State.onRefusal_keeps (s : State) (who : Requester) : Keeps s (State.onRefusal s who) := by
  unfold State.onRefusal
  split
  · split
    · refine Keeps.ite (fun _ => ?_) (fun _ => ?_)
      · exact .refl
      · refine Keeps.with_taper rfl ?_
        exact .refl
    · exact .refl
  · refine Keeps.step (State.moveRefused_keeps ..) ?_
    exact .refl
  · refine Keeps.ite (fun _ => ?_) (fun _ => ?_)
    · refine Keeps.with_dram rfl ?_
      exact .refl
    · exact .refl
  · exact .refl

theorem State.request_keeps (s : State) (r : WickReq) : Keeps s (State.request s r) := by
  unfold State.request
  split
  · refine Keeps.step (State.onGrant_keeps ..) ?_
    refine Keeps.of_snd (by assumption) ?_
    refine Keeps.step (State.ask_keeps ..) ?_
    refine Keeps.step (State.linesFirst_keeps ..) ?_
    exact .refl
  · refine Keeps.of_snd (by assumption) ?_
    refine Keeps.step (State.ask_keeps ..) ?_
    refine Keeps.step (State.linesFirst_keeps ..) ?_
    exact .refl
  · refine Keeps.step (State.onRefusal_keeps ..) ?_
    refine Keeps.of_snd (by assumption) ?_
    refine Keeps.step (State.ask_keeps ..) ?_
    refine Keeps.step (State.linesFirst_keeps ..) ?_
    exact .refl

theorem execWickRequest_keeps (r : WickReq) (s : State) : KeepsNext s (execWickRequest r s) := by
  unfold execWickRequest
  refine KeepsNext.next ?_
  refine Keeps.step (State.request_keeps ..) ?_
  exact .refl

theorem State.grantWait_keeps (s : State) (w : WickWait) : Keeps s (State.grantWait s w) := by
  unfold State.grantWait
  refine Keeps.step (State.onGrant_keeps ..) ?_
  refine Keeps.step (State.unqueue_keeps ..) ?_
  refine Keeps.step (State.giveLeave_keeps ..) ?_
  exact .refl

theorem State.refuseWait_keeps (s : State) (w : WickWait) : Keeps s (State.refuseWait s w) := by
  unfold State.refuseWait
  refine Keeps.step (State.onRefusal_keeps ..) ?_
  refine Keeps.step (State.unqueue_keeps ..) ?_
  refine Keeps.step (State.refuseLeave_keeps ..) ?_
  exact .refl

theorem execWickDeferredGrant_keeps (s : State) : KeepsNext s (execWickDeferredGrant s) := by
  unfold execWickDeferredGrant
  refine KeepsNext.ite (fun _ => ?_) (fun _ => ?_)
  · refine KeepsNext.next ?_
    exact .refl
  · dsimp only
    split
    · refine KeepsNext.next ?_
      refine Keeps.step (State.linesFirst_keeps ..) ?_
      exact .refl
    · refine KeepsNext.next ?_
      refine Keeps.step (State.grantWait_keeps ..) ?_
      refine Keeps.step (State.linesFirst_keeps ..) ?_
      exact .refl

theorem execWickDeferTimeout_keeps (id : Nat) (s : State) : KeepsNext s (execWickDeferTimeout id s) := by
  unfold execWickDeferTimeout
  split
  · refine KeepsNext.next ?_
    exact .refl
  · dsimp only
    refine KeepsNext.next ?_
    refine Keeps.ite (fun _ => ?_) (fun _ => ?_)
    · refine Keeps.step (State.grantWait_keeps ..) ?_
      refine Keeps.step (State.linesFirst_keeps ..) ?_
      exact .refl
    · refine Keeps.step (State.refuseWait_keeps ..) ?_
      refine Keeps.step (State.linesFirst_keeps ..) ?_
      exact .refl

theorem State.snuffWick_keeps (s : State) : Keeps s (State.snuffWick s) := by
  unfold State.snuffWick
  dsimp only
  refine Keeps.foldl (fun t x => ?_) ?_
  · refine Keeps.step (State.onRefusal_keeps ..) ?_
    exact .refl
  · refine Keeps.step (State.wickSnuff_keeps ..) ?_
    exact .refl

theorem State.wickReset_keeps (s : State) : Keeps s (State.wickReset s) := by
  unfold State.wickReset
  dsimp only
  refine Keeps.foldl (fun t x => ?_) ?_
  · refine Keeps.step (State.onRefusal_keeps ..) ?_
    exact .refl
  · refine Keeps.step (State.noteQueued_keeps ..) ?_
    refine Keeps.step (Only.keeps (Only.with_wick (d := [.wick]) (by decide) .refl) (by decide)) ?_
    exact .refl

theorem State.publishHeadroom_keeps (s : State) (x1 : List Nat) : Keeps s (State.publishHeadroom s x1) := by
  induction x1 generalizing s with | nil => ?_ | cons y l ih => ?_
  · simp only [State.publishHeadroom]
    exact .refl
  · simp only [State.publishHeadroom]
    refine Keeps.step (ih ..) ?_
    refine Keeps.step ((State.emit_only ..).keeps (by decide)) ?_
    refine Keeps.step (State.setReg_keeps ..) ?_
    exact .refl

theorem execHeadroomPublish_keeps (s : State) : KeepsNext s (execHeadroomPublish s) := by
  unfold execHeadroomPublish
  refine KeepsNext.ite (fun _ => ?_) (fun _ => ?_)
  · refine KeepsNext.next ?_
    exact .refl
  · refine KeepsNext.next ?_
    refine Keeps.step (State.publishHeadroom_keeps ..) ?_
    exact .refl

/-! ### Dram -/

theorem State.corrected_keeps (s : State) (addr : Nat) (w : Nat) (overwritten : Bool) : Keeps s (State.corrected s addr w overwritten) := by
  unfold State.corrected
  dsimp only
  refine Keeps.ite (fun _ => ?_) (fun _ => ?_)
  · refine Keeps.step (State.setBits_keeps ..) ?_
    refine Keeps.step (State.setReg_keeps ..) ?_
    refine Keeps.step (State.bump_keeps ..) ?_
    exact .refl
  · refine Keeps.step (State.writeMem_keeps ..) ?_
    refine Keeps.step (State.setBits_keeps ..) ?_
    refine Keeps.step (State.setReg_keeps ..) ?_
    refine Keeps.step (State.bump_keeps ..) ?_
    exact .refl

theorem execDramCe_keeps (addr : Nat) (word : Nat) (check : Byte) (overwritten : Bool) (s : State) :
    KeepsNext s (execDramCe addr word check overwritten s) := by
  unfold execDramCe
  refine KeepsNext.ite (fun _ => ?_) (fun _ => ?_)
  · exact KeepsNext.stop
  · refine KeepsNext.ite (fun _ => ?_) (fun _ => ?_)
    · refine KeepsNext.next ?_
      refine Keeps.step (State.corrected_keeps ..) ?_
      exact .refl
    · refine KeepsNext.next ?_
      exact .refl

theorem State.scrubBad_keeps (s : State) (k : Nat) (seq : Nat) (unread : Bool) : Keeps s (State.scrubBad s k seq unread) := by
  unfold State.scrubBad
  dsimp only
  refine Keeps.step (State.logEvent_keeps ..) ?_
  refine Keeps.step (State.setBits_keeps ..) ?_
  refine Keeps.step (State.bump_keeps ..) ?_
  refine Keeps.step ((State.markBlock_only ..).keeps (by decide)) ?_
  exact .refl

theorem State.poisoned_keeps (s : State) (x : DramSource) (stream : Nat) (block : Nat) : Keeps s (State.poisoned s x stream block) := by
  unfold State.poisoned
  split
  · refine Keeps.step ((State.markBlock_only ..).keeps (by decide)) ?_
    exact .refl
  · refine Keeps.step ((State.markBlock_only ..).keeps (by decide)) ?_
    exact .refl
  · refine Keeps.step (Only.keeps (Only.with_check (d := [.check]) (by decide) .refl) (by decide)) ?_
    exact .refl
  · refine Keeps.step (State.scrubBad_keeps ..) ?_
    exact .refl
  · refine Keeps.step (State.endRequest_keeps ..) ?_
    exact .refl
  · refine Keeps.step (State.setCause_keeps ..) ?_
    exact .refl
  · refine Keeps.step (State.setCause_keeps ..) ?_
    exact .refl

theorem execDramUe_keeps (addr : Nat) (source : DramSource) (stream : Nat) (block : Nat) (word : Nat) (check : Byte) (s : State) :
    KeepsNext s (execDramUe addr source stream block word check s) := by
  unfold execDramUe
  refine KeepsNext.ite (fun _ => ?_) (fun _ => ?_)
  · exact KeepsNext.stop
  · refine KeepsNext.ite (fun _ => ?_) (fun _ => ?_)
    · refine KeepsNext.next ?_
      exact .refl
    · split
      · refine KeepsNext.next ?_
        refine Keeps.step (State.corrected_keeps ..) ?_
        exact .refl
      · dsimp only
        refine KeepsNext.next ?_
        refine Keeps.step (State.poisoned_keeps ..) ?_
        refine Keeps.ite (fun _ => ?_) (fun _ => ?_)
        · refine Keeps.step (State.setCause_keeps ..) ?_
          refine Keeps.step (State.logEvent_keeps ..) ?_
          refine Keeps.with_dram rfl ?_
          refine Keeps.step (State.setBits_keeps ..) ?_
          refine Keeps.step (State.setReg_keeps ..) ?_
          refine Keeps.step (State.bump_keeps ..) ?_
          exact .refl
        · refine Keeps.step (State.logEvent_keeps ..) ?_
          refine Keeps.with_dram rfl ?_
          refine Keeps.step (State.setBits_keeps ..) ?_
          refine Keeps.step (State.setReg_keeps ..) ?_
          refine Keeps.step (State.bump_keeps ..) ?_
          exact .refl

theorem execRtPanicRaise_keeps (st : Fin 128) (held : Nat) (s : State) : KeepsNext s (execRtPanicRaise st held s) := by
  unfold execRtPanicRaise
  refine KeepsNext.ite (fun _ => ?_) (fun _ => ?_)
  · refine KeepsNext.next ?_
    dsimp only
    refine Keeps.with_dram rfl ?_
    refine Keeps.step (State.setBits_keeps ..) ?_
    refine Keeps.step (State.bump_keeps ..) ?_
    exact .refl
  · refine KeepsNext.next ?_
    exact .refl

theorem execRtPanicClear_keeps (held : List Nat) (s : State) : KeepsNext s (execRtPanicClear held s) := by
  unfold execRtPanicClear
  refine KeepsNext.ite (fun _ => ?_) (fun _ => ?_)
  · refine KeepsNext.next ?_
    refine Keeps.with_dram rfl ?_
    exact .refl
  · refine KeepsNext.next ?_
    exact .refl

theorem execMr4Poll_keeps (code : Nat) (faster : Bool) (s : State) : KeepsNext s (execMr4Poll code faster s) := by
  unfold execMr4Poll
  refine KeepsNext.ite (fun _ => ?_) (fun _ => ?_)
  · dsimp only
    refine KeepsNext.next ?_
    refine Keeps.ite (fun _ => ?_) (fun _ => ?_)
    · refine Keeps.step (State.logEvent_keeps ..) ?_
      refine Keeps.ite (fun _ => ?_) (fun _ => ?_)
      · refine Keeps.step (State.setBits_keeps ..) ?_
        refine Keeps.with_dram rfl ?_
        refine Keeps.step (State.setReg_keeps ..) ?_
        exact .refl
      · refine Keeps.with_dram rfl ?_
        refine Keeps.step (State.setReg_keeps ..) ?_
        exact .refl
    · refine Keeps.ite (fun _ => ?_) (fun _ => ?_)
      · refine Keeps.step (State.setBits_keeps ..) ?_
        refine Keeps.with_dram rfl ?_
        refine Keeps.step (State.setReg_keeps ..) ?_
        exact .refl
      · refine Keeps.with_dram rfl ?_
        refine Keeps.step (State.setReg_keeps ..) ?_
        exact .refl
  · refine KeepsNext.next ?_
    exact .refl

theorem execDramRefresh_keeps (channel : Fin 4) (bank : Nat) (s : State) : KeepsNext s (execDramRefresh channel bank s) := by
  unfold execDramRefresh
  refine KeepsNext.ite (fun _ => ?_) (fun _ => ?_)
  · refine KeepsNext.next ?_
    refine Keeps.step ((State.emit_only ..).keeps (by decide)) ?_
    refine Keeps.with_dram rfl ?_
    exact .refl
  · refine KeepsNext.next ?_
    exact .refl

theorem State.askSet_keeps (s : State) (set : Nat) : Keeps s (State.askSet s set) := by
  unfold State.askSet
  dsimp only
  refine Keeps.step (State.request_keeps ..) ?_
  refine Keeps.with_dram rfl ?_
  exact .refl

theorem State.dropSet_keeps (s : State) (set : Nat) : Keeps s (State.dropSet s set) := by
  unfold State.dropSet
  dsimp only
  refine Keeps.with_dram rfl ?_
  refine Keeps.step (State.noteQueued_keeps ..) ?_
  refine Keeps.step (Only.keeps (Only.with_wick (d := [.wick]) (by decide) .refl) (by decide)) ?_
  refine Keeps.ite (fun _ => ?_) (fun _ => ?_)
  · refine Keeps.step (State.refundPool_keeps ..) ?_
    refine Keeps.step ((State.useLeave_only ..).keeps (by decide)) ?_
    exact .refl
  · exact .refl

theorem State.selectSet_keeps (s : State) (set : Nat) : Keeps s (State.selectSet s set) := by
  unfold State.selectSet
  split
  · refine Keeps.with_dram rfl ?_
    exact .refl
  · refine Keeps.ite (fun _ => ?_) (fun _ => ?_)
    · exact .refl
    · dsimp only
      refine Keeps.ite (fun _ => ?_) (fun _ => ?_)
      · refine Keeps.step (State.dropSet_keeps ..) ?_
        exact .refl
      · refine Keeps.step (State.askSet_keeps ..) ?_
        refine Keeps.step (State.dropSet_keeps ..) ?_
        exact .refl
  · refine Keeps.ite (fun _ => ?_) (fun _ => ?_)
    · exact .refl
    · refine Keeps.step (State.askSet_keeps ..) ?_
      exact .refl

theorem execDramFreqChange_keeps (s : State) : KeepsNext s (execDramFreqChange s) := by
  unfold execDramFreqChange
  split
  · refine KeepsNext.ite (fun _ => ?_) (fun _ => ?_)
    · dsimp only
      refine KeepsNext.next ?_
      refine Keeps.with_dram rfl ?_
      refine Keeps.step ((State.useLeave_only ..).keeps (by decide)) ?_
      exact .refl
    · refine KeepsNext.next ?_
      exact .refl
  · refine KeepsNext.next ?_
    exact .refl

theorem State.setChanged_keeps (s : State) (t : Nat) : Keeps s (State.setChanged s t) := by
  unfold State.setChanged
  dsimp only
  split
  · refine Keeps.step (State.selectSet_keeps ..) ?_
    refine Keeps.with_dram rfl ?_
    refine Keeps.step (State.bump_keeps ..) ?_
    refine Keeps.step (State.setReg_keeps ..) ?_
    exact .refl
  · refine Keeps.with_dram rfl ?_
    refine Keeps.step (State.bump_keeps ..) ?_
    refine Keeps.step (State.setReg_keeps ..) ?_
    exact .refl

/-! ### Check -/

theorem State.startScan_keeps (s : State) : Keeps s (State.startScan s) := by
  unfold State.startScan
  split
  · refine Keeps.step (State.askMem_keeps ..) ?_
    refine Keeps.step (State.setReg_keeps ..) ?_
    exact .refl
  · exact .refl

theorem State.noteScans_keeps (s : State) : Keeps s (State.noteScans s) := by
  unfold State.noteScans
  refine Keeps.step (State.setReg_keeps ..) ?_
  exact .refl

theorem State.queueScan_keeps (s : State) (x : Scan) : Keeps s (State.queueScan s x) := by
  unfold State.queueScan
  dsimp only
  refine Keeps.ite (fun _ => ?_) (fun _ => ?_)
  · refine Keeps.step (State.startScan_keeps ..) ?_
    refine Keeps.step (State.noteScans_keeps ..) ?_
    refine Keeps.ite (fun _ => ?_) (fun _ => ?_)
    · refine Keeps.step (State.setReg_keeps ..) ?_
      refine Keeps.step (Only.keeps (Only.with_check (d := [.check]) (by decide) .refl) (by decide)) ?_
      exact .refl
    · refine Keeps.step (Only.keeps (Only.with_check (d := [.check]) (by decide) .refl) (by decide)) ?_
      exact .refl
  · refine Keeps.step (State.noteScans_keeps ..) ?_
    refine Keeps.ite (fun _ => ?_) (fun _ => ?_)
    · refine Keeps.step (State.setReg_keeps ..) ?_
      refine Keeps.step (Only.keeps (Only.with_check (d := [.check]) (by decide) .refl) (by decide)) ?_
      exact .refl
    · refine Keeps.step (Only.keeps (Only.with_check (d := [.check]) (by decide) .refl) (by decide)) ?_
      exact .refl

theorem State.endScan_keeps (s : State) (x : Scan) : Keeps s (State.endScan s x) := by
  unfold State.endScan
  dsimp only
  refine Keeps.ite (fun _ => ?_) (fun _ => ?_)
  · refine Keeps.step (State.logEvent_keeps ..) ?_
    refine Keeps.step (State.setBits_keeps ..) ?_
    refine Keeps.step (State.setReg_keeps ..) ?_
    refine Keeps.step (State.setReg_keeps ..) ?_
    refine Keeps.step (State.setReg_keeps ..) ?_
    exact .refl
  · refine Keeps.step (State.setReg_keeps ..) ?_
    refine Keeps.step (State.setReg_keeps ..) ?_
    refine Keeps.step (State.setReg_keeps ..) ?_
    exact .refl

theorem State.eccScan_keeps (s : State) (x : Scan) : Keeps s (State.eccScan s x) := by
  unfold State.eccScan
  split
  refine Keeps.step (State.setReg_keeps ..) ?_
  refine Keeps.step (State.setReg_keeps ..) ?_
  refine Keeps.of_snd (by assumption) ?_
  refine Keeps.step ((State.fresh_only ..).keeps (by decide)) ?_
  exact .refl

theorem execScanComplete_keeps (s : State) : KeepsNext s (execScanComplete s) := by
  unfold execScanComplete
  split
  · refine KeepsNext.next ?_
    exact .refl
  · refine KeepsNext.ite (fun _ => ?_) (fun _ => ?_)
    · refine KeepsNext.next ?_
      exact .refl
    · dsimp only
      refine KeepsNext.next ?_
      refine Keeps.step (State.startScan_keeps ..) ?_
      refine Keeps.step (State.noteScans_keeps ..) ?_
      refine Keeps.step (Only.keeps (Only.with_check (d := [.check]) (by decide) .refl) (by decide)) ?_
      refine Keeps.ite (fun _ => ?_) (fun _ => ?_)
      · refine Keeps.step (State.eccScan_keeps ..) ?_
        exact .refl
      · refine Keeps.step (State.endScan_keeps ..) ?_
        exact .refl

theorem State.endWalk_keeps (s : State) : Keeps s (State.endWalk s) := by
  unfold State.endWalk
  refine Keeps.ite (fun _ => ?_) (fun _ => ?_)
  · dsimp only
    refine Keeps.step (Only.keeps (Only.with_check (d := [.check]) (by decide) .refl) (by decide)) ?_
    refine Keeps.step (State.bump_keeps ..) ?_
    exact .refl
  · exact .refl

theorem State.nextScrub_keeps (s : State) : Keeps s (State.nextScrub s) := by
  unfold State.nextScrub
  dsimp only
  refine Keeps.ite (fun _ => ?_) (fun _ => ?_)
  · split
    · refine Keeps.step (Only.keeps (Only.with_check (d := [.check]) (by decide) .refl) (by decide)) ?_
      refine Keeps.step (State.endWalk_keeps ..) ?_
      exact .refl
    · refine Keeps.step (State.askMem_keeps ..) ?_
      refine Keeps.step (Only.keeps (Only.with_check (d := [.check]) (by decide) .refl) (by decide)) ?_
      refine Keeps.step (State.endWalk_keeps ..) ?_
      exact .refl
  · refine Keeps.step (Only.keeps (Only.with_check (d := [.check]) (by decide) .refl) (by decide)) ?_
    refine Keeps.step (State.endWalk_keeps ..) ?_
    exact .refl

theorem State.checkBlock_keeps (s : State) (k : Nat) (seq : Nat) (asRead : List Byte) : Keeps s (State.checkBlock s k seq asRead) := by
  unfold State.checkBlock
  dsimp only
  refine Keeps.step (Only.keeps (Only.with_check (d := [.check]) (by decide) .refl) (by decide)) ?_
  refine Keeps.ite (fun _ => ?_) (fun _ => ?_)
  · refine Keeps.step (State.setReg_keeps ..) ?_
    refine Keeps.step (State.setReg_keeps ..) ?_
    exact .refl
  · refine Keeps.step (State.scrubBad_keeps ..) ?_
    refine Keeps.step (State.setReg_keeps ..) ?_
    refine Keeps.step (State.setReg_keeps ..) ?_
    exact .refl

theorem execScrubBlock_keeps (asRead : List Byte) (s : State) : KeepsNext s (execScrubBlock asRead s) := by
  unfold execScrubBlock
  dsimp only
  split
  · refine KeepsNext.next ?_
    refine Keeps.ite (fun _ => ?_) (fun _ => ?_)
    · refine Keeps.step (State.endWalk_keeps ..) ?_
      exact .refl
    · exact .refl
  · refine KeepsNext.ite (fun _ => ?_) (fun _ => ?_)
    · refine KeepsNext.next ?_
      refine Keeps.ite (fun _ => ?_) (fun _ => ?_)
      · refine Keeps.step (State.endWalk_keeps ..) ?_
        exact .refl
      · exact .refl
    · refine KeepsNext.next ?_
      refine Keeps.step (State.nextScrub_keeps ..) ?_
      refine Keeps.ite (fun _ => ?_) (fun _ => ?_)
      · refine Keeps.step (State.checkBlock_keeps ..) ?_
        refine Keeps.ite (fun _ => ?_) (fun _ => ?_)
        · refine Keeps.step (State.endWalk_keeps ..) ?_
          exact .refl
        · exact .refl
      · refine Keeps.ite (fun _ => ?_) (fun _ => ?_)
        · refine Keeps.step (State.endWalk_keeps ..) ?_
          exact .refl
        · exact .refl

theorem State.checkReset_keeps (s : State) : Keeps s (State.checkReset s) := by
  unfold State.checkReset
  dsimp only
  refine Keeps.step (State.noteScans_keeps ..) ?_
  refine Keeps.step (State.setRegs_keeps ..) ?_
  refine Keeps.step (State.setRegs_keeps ..) ?_
  refine Keeps.step (State.dropMem_keeps ..) ?_
  refine Keeps.step (Only.keeps (Only.with_check (d := [.check]) (by decide) .refl) (by decide)) ?_
  exact .refl

/-! ### Modes -/

theorem State.twinEvent_keeps (s : State) (bit : Nat) (code : Option Nat) (detail : List Byte) :
    Keeps s (State.twinEvent s bit code detail) := by
  unfold State.twinEvent
  dsimp only
  split
  · refine Keeps.step (State.logEvent_keeps ..) ?_
    refine Keeps.step (State.setBits_keeps ..) ?_
    exact .refl
  · refine Keeps.step (State.setBits_keeps ..) ?_
    exact .refl

theorem State.makeHeld_keeps (s : State) : Keeps s (State.makeHeld s) := by
  unfold State.makeHeld
  dsimp only
  refine Keeps.foldl (fun t x => ?_) ?_
  · refine Keeps.step (State.publish_keeps ..) ?_
    exact .refl
  · refine Keeps.step (Only.keeps (Only.with_twin (d := [.twin]) (by decide) .refl) (by decide)) ?_
    exact .refl

theorem State.abandonSwap_keeps (s : State) : Keeps s (State.abandonSwap s) := by
  unfold State.abandonSwap
  split
  · exact .refl
  · refine Keeps.step (State.makeHeld_keeps ..) ?_
    refine Keeps.step (Only.keeps (Only.with_twin (d := [.twin]) (by decide) .refl) (by decide)) ?_
    exact .refl

theorem State.makeAwaited_keeps (s : State) : Keeps s (State.makeAwaited s) := by
  unfold State.makeAwaited
  dsimp only
  refine Keeps.foldl (fun t x => ?_) ?_
  · refine Keeps.step (State.publish_keeps ..) ?_
    exact .refl
  · refine Keeps.step (Only.keeps (Only.with_twin (d := [.twin]) (by decide) .refl) (by decide)) ?_
    exact .refl

theorem State.abandonJoin_keeps (s : State) : Keeps s (State.abandonJoin s) := by
  unfold State.abandonJoin
  split
  · refine Keeps.step (Only.keeps (Only.with_twin (d := [.twin]) (by decide) .refl) (by decide)) ?_
    exact .refl
  · refine Keeps.step (State.setReg_keeps ..) ?_
    refine Keeps.step (Only.keeps (Only.with_twin (d := [.twin]) (by decide) .refl) (by decide)) ?_
    exact .refl

theorem State.raiseConflict_keeps (s : State) : Keeps s (State.raiseConflict s) := by
  unfold State.raiseConflict
  refine Keeps.ite (fun _ => ?_) (fun _ => ?_)
  · refine Keeps.step (State.twinEvent_keeps ..) ?_
    exact .refl
  · exact .refl

theorem State.freshJoin_keeps (s : State) : Keeps s (State.freshJoin s) := by
  unfold State.freshJoin
  refine Keeps.ite (fun _ => ?_) (fun _ => ?_)
  · refine Keeps.step (State.setReg_keeps ..) ?_
    exact .refl
  · exact .refl

theorem State.enterPilot_keeps (s : State) : Keeps s (State.enterPilot s) := by
  unfold State.enterPilot
  dsimp only
  refine Keeps.step (State.raiseConflict_keeps ..) ?_
  refine Keeps.step ((State.tellState_only ..).keeps (by decide)) ?_
  refine Keeps.step ((State.drivenAlive_only ..).keeps (by decide)) ?_
  refine Keeps.with_pins_taper rfl ?_
  refine Keeps.step ((State.raiseHeadPwr_only ..).keeps (by decide)) ?_
  refine Keeps.step (State.toMode_keeps ..) ?_
  refine Keeps.step (State.freshJoin_keeps ..) ?_
  exact .refl

theorem State.enterTrim_keeps (s : State) : Keeps s (State.enterTrim s) := by
  unfold State.enterTrim
  refine Keeps.step ((State.tellState_only ..).keeps (by decide)) ?_
  refine Keeps.step ((State.drivenAlive_only ..).keeps (by decide)) ?_
  refine Keeps.step (State.toMode_keeps ..) ?_
  exact .refl

theorem State.endStop_keeps (s : State) : Keeps s (State.endStop s) := by
  unfold State.endStop
  dsimp only
  refine Keeps.step (State.enterPilot_keeps ..) ?_
  refine Keeps.step (State.abandonJoin_keeps ..) ?_
  refine Keeps.step (State.abandonSwap_keeps ..) ?_
  refine Keeps.step (State.recordStop_keeps ..) ?_
  refine Keeps.with_taper rfl ?_
  exact .refl

theorem execLitStopComplete_keeps (s : State) : KeepsNext s (execLitStopComplete s) := by
  unfold execLitStopComplete
  refine KeepsNext.ite (fun _ => ?_) (fun _ => ?_)
  · refine KeepsNext.next ?_
    refine Keeps.step (State.endStop_keeps ..) ?_
    exact .refl
  · refine KeepsNext.next ?_
    exact .refl

theorem State.setOrigin_keeps (s : State) : Keeps s (State.setOrigin s) := by
  unfold State.setOrigin
  refine Keeps.ite (fun _ => ?_) (fun _ => ?_)
  · dsimp only
    refine Keeps.step (State.setReg_keeps ..) ?_
    refine Keeps.step (State.setReg_keeps ..) ?_
    exact .refl
  · exact .refl

theorem State.startGroups_keeps (s : State) (x1 : List Nat) : Keeps s (State.startGroups s x1) := by
  induction x1 generalizing s with | nil => ?_ | cons y l ih => ?_
  · simp only [State.startGroups]
    exact .refl
  · simp only [State.startGroups]
    refine Keeps.step (ih ..) ?_
    refine Keeps.step (State.setGroup_keeps ..) ?_
    exact .refl

theorem State.enterLit_keeps (s : State) : Keeps s (State.enterLit s) := by
  unfold State.enterLit
  dsimp only
  refine Keeps.step ((State.driveFireEn_only ..).keeps (by decide)) ?_
  refine Keeps.step ((State.fireReset_only ..).keeps (by decide)) ?_
  refine Keeps.step ((State.tellState_only ..).keeps (by decide)) ?_
  refine Keeps.step ((State.drivenAlive_only ..).keeps (by decide)) ?_
  refine Keeps.step (State.toMode_keeps ..) ?_
  refine Keeps.with_taper_lantern_dram rfl rfl ?_
  refine Keeps.step (State.startGroups_keeps ..) ?_
  refine Keeps.step (State.setOrigin_keeps ..) ?_
  refine Keeps.step ((State.freshTwin_only ..).keeps (by decide)) ?_
  exact .refl

theorem State.acceptLit_keeps (s : State) : Keeps s (State.acceptLit s) := by
  unfold State.acceptLit
  dsimp only
  refine Keeps.ite (fun _ => ?_) (fun _ => ?_)
  · refine Keeps.step (State.enterLit_keeps ..) ?_
    refine Keeps.step (State.selectSet_keeps ..) ?_
    exact .refl
  · refine Keeps.with_dram rfl ?_
    refine Keeps.step (State.selectSet_keeps ..) ?_
    exact .refl

theorem execDramFreqChangeDone_keeps (s : State) : KeepsNext s (execDramFreqChangeDone s) := by
  unfold execDramFreqChangeDone
  split
  · dsimp only
    refine KeepsNext.next ?_
    refine Keeps.ite (fun _ => ?_) (fun _ => ?_)
    · refine Keeps.ite (fun _ => ?_) (fun _ => ?_)
      · refine Keeps.step (State.enterLit_keeps ..) ?_
        refine Keeps.step (State.setChanged_keeps ..) ?_
        exact .refl
      · refine Keeps.with_dram rfl ?_
        refine Keeps.step (State.setChanged_keeps ..) ?_
        exact .refl
    · refine Keeps.step (State.setChanged_keeps ..) ?_
      exact .refl
  · refine KeepsNext.next ?_
    exact .refl

theorem State.dropStrobes_keeps (s : State) (x1 : List Nat) : Keeps s (State.dropStrobes s x1) := by
  induction x1 generalizing s with | nil => ?_ | cons y l ih => ?_
  · simp only [State.dropStrobes]
    exact .refl
  · simp only [State.dropStrobes]
    refine Keeps.step (ih ..) ?_
    refine Keeps.ite (fun _ => ?_) (fun _ => ?_)
    · refine Keeps.step ((State.emit_only ..).keeps (by decide)) ?_
      refine Keeps.step (State.dropStrobe_keeps ..) ?_
      exact .refl
    · refine Keeps.step (State.dropStrobe_keeps ..) ?_
      exact .refl

theorem State.snuffPins_keeps (s : State) : Keeps s (State.snuffPins s) := by
  unfold State.snuffPins
  refine Keeps.step ((State.lowPins_only ..).keeps (by decide)) ?_
  refine Keeps.step (State.dropStrobes_keeps ..) ?_
  exact .refl

theorem State.snuffUnits_keeps (s : State) : Keeps s (State.snuffUnits s) := by
  unfold State.snuffUnits
  dsimp only
  refine Keeps.step (State.lanternSnuff_keeps ..) ?_
  refine Keeps.step (State.stopAxes_keeps ..) ?_
  refine Keeps.step (State.snuffWick_keeps ..) ?_
  refine Keeps.with_rst_taper_dram rfl rfl ?_
  exact .refl

theorem State.enterSnuff_keeps (s : State) (bar : Bool) : Keeps s (State.enterSnuff s bar) := by
  unfold State.enterSnuff
  dsimp only
  refine Keeps.step (State.abandonJoin_keeps ..) ?_
  refine Keeps.step (State.makeAwaited_keeps ..) ?_
  refine Keeps.step (State.abandonSwap_keeps ..) ?_
  refine Keeps.step ((State.tellState_only ..).keeps (by decide)) ?_
  refine Keeps.step (State.loopSnuff_keeps ..) ?_
  refine Keeps.step (State.toMode_keeps ..) ?_
  refine Keeps.step (State.snuffPins_keeps ..) ?_
  refine Keeps.step (State.snuffUnits_keeps ..) ?_
  refine Keeps.ite (fun _ => ?_) (fun _ => ?_)
  · refine Keeps.step (State.taperSnuff_keeps ..) ?_
    refine Keeps.ite (fun _ => ?_) (fun _ => ?_)
    · refine Keeps.step ((State.twinSend_only ..).keeps (by decide)) ?_
      exact .refl
    · exact .refl
  · refine Keeps.ite (fun _ => ?_) (fun _ => ?_)
    · refine Keeps.step ((State.twinSend_only ..).keeps (by decide)) ?_
      exact .refl
    · exact .refl

theorem execSnuffEntry_keeps (s : State) : KeepsNext s (execSnuffEntry s) := by
  unfold execSnuffEntry
  refine KeepsNext.ite (fun _ => ?_) (fun _ => ?_)
  · refine KeepsNext.next ?_
    refine Keeps.step (State.enterSnuff_keeps ..) ?_
    exact .refl
  · refine KeepsNext.next ?_
    exact .refl

theorem execSafeStopAssert_keeps (s : State) : KeepsNext s (execSafeStopAssert s) := by
  unfold execSafeStopAssert
  refine KeepsNext.ite (fun _ => ?_) (fun _ => ?_)
  · refine KeepsNext.next ?_
    exact .refl
  · dsimp only
    refine KeepsNext.next ?_
    refine Keeps.step (State.setCause_keeps ..) ?_
    refine Keeps.step (State.setReg_keeps ..) ?_
    refine Keeps.step (Only.keeps (Only.with_pins (d := [.pins]) (by decide) .refl) (by decide)) ?_
    exact .refl

theorem execSafeStopRelease_keeps (s : State) : KeepsNext s (execSafeStopRelease s) :=
  ⟨fun t ht => ((execSafeStopRelease_only ..).only t ht).keeps (by decide)⟩

theorem execHeadPwrDrop_keeps (s : State) : KeepsNext s (execHeadPwrDrop s) :=
  ⟨fun t ht => ((execHeadPwrDrop_only ..).only t ht).keeps (by decide)⟩

theorem execHeadSettleExpiry_keeps (s : State) : KeepsNext s (execHeadSettleExpiry s) :=
  ⟨fun t ht => ((execHeadSettleExpiry_only ..).only t ht).keeps (by decide)⟩

theorem execSupplyMonitorTrip_keeps (s : State) : KeepsNext s (execSupplyMonitorTrip s) := by
  unfold execSupplyMonitorTrip
  refine KeepsNext.next ?_
  refine Keeps.step (State.setCause_keeps ..) ?_
  exact .refl

/-! ### Lanes -/

theorem State.countKindle_keeps (s : State) : Keeps s (State.countKindle s) := by
  unfold State.countKindle
  dsimp only
  refine Keeps.step (Only.keeps (Only.with_flash_cal (d := [.flash, .cal]) (by decide) .refl) (by decide)) ?_
  refine Keeps.step (State.setReg_keeps ..) ?_
  exact .refl

theorem State.setItem_keeps (s : State) (k : Nat) (v : Nat) : Keeps s (State.setItem s k v) := by
  unfold State.setItem
  dsimp only
  refine Keeps.step (State.setReg_keeps ..) ?_
  exact .refl

theorem State.calFail_keeps (s : State) (item : Nat) (unit : Nat) (r1 : Nat) (r2 : Nat) : Keeps s (State.calFail s item unit r1 r2) := by
  unfold State.calFail
  refine Keeps.ite (fun _ => ?_) (fun _ => ?_)
  · dsimp only
    refine Keeps.step (State.enterSnuff_keeps ..) ?_
    refine Keeps.step (State.setCause_keeps ..) ?_
    refine Keeps.step (State.logEvent_keeps ..) ?_
    refine Keeps.step ((State.countKindleFail_only ..).keeps (by decide)) ?_
    refine Keeps.step (State.countKindle_keeps ..) ?_
    refine Keeps.step (Only.keeps (Only.with_cal (d := [.cal]) (by decide) .refl) (by decide)) ?_
    refine Keeps.step (State.setReg_keeps ..) ?_
    refine Keeps.step (State.setItem_keeps ..) ?_
    exact .refl
  · exact .refl

theorem State.startTraining_keeps (s : State) (m : Nat) : Keeps s (State.startTraining s m) := by
  unfold State.startTraining
  dsimp only
  refine Keeps.step ((State.emit_only ..).keeps (by decide)) ?_
  refine Keeps.step (State.setReg_keeps ..) ?_
  refine Keeps.step ((State.setHead_only ..).keeps (by decide)) ?_
  exact .refl

theorem State.trainAll_keeps (s : State) (x1 : List Nat) : Keeps s (State.trainAll s x1) := by
  induction x1 generalizing s with | nil => ?_ | cons y l ih => ?_
  · simp only [State.trainAll]
    exact .refl
  · simp only [State.trainAll]
    refine Keeps.step (ih ..) ?_
    refine Keeps.step (State.startTraining_keeps ..) ?_
    exact .refl

theorem State.adapt_keeps (s : State) (m : Nat) : Keeps s (State.adapt s m) := by
  unfold State.adapt
  split
  split
  refine Keeps.step (State.setReg_keeps ..) ?_
  refine Keeps.step (State.setReg_keeps ..) ?_
  refine Keeps.of_snd (by assumption) ?_
  refine Keeps.step ((State.fresh_only ..).keeps (by decide)) ?_
  refine Keeps.of_snd (by assumption) ?_
  refine Keeps.step ((State.fresh_only ..).keeps (by decide)) ?_
  exact .refl

theorem execHeadTrainReply_keeps (m : Fin 32) (slot : Nat) (inverted : Bool) (s : State) :
    KeepsNext s (execHeadTrainReply m slot inverted s) := by
  unfold execHeadTrainReply
  refine KeepsNext.ite (fun _ => ?_) (fun _ => ?_)
  · dsimp only
    refine KeepsNext.ite (fun _ => ?_) (fun _ => ?_)
    · refine KeepsNext.next ?_
      refine Keeps.step ((State.setHead_only ..).keeps (by decide)) ?_
      refine Keeps.step (State.adapt_keeps ..) ?_
      refine Keeps.step (State.setReg_keeps ..) ?_
      refine Keeps.step (State.setReg_keeps ..) ?_
      exact .refl
    · refine KeepsNext.next ?_
      refine Keeps.ite (fun _ => ?_) (fun _ => ?_)
      · refine Keeps.step (State.laneFlag_keeps ..) ?_
        refine Keeps.step ((State.setHead_only ..).keeps (by decide)) ?_
        refine Keeps.step (State.adapt_keeps ..) ?_
        refine Keeps.step (State.setReg_keeps ..) ?_
        refine Keeps.step (State.setReg_keeps ..) ?_
        exact .refl
      · refine Keeps.step (State.logEvent_keeps ..) ?_
        refine Keeps.step (State.laneFlag_keeps ..) ?_
        refine Keeps.step ((State.setHead_only ..).keeps (by decide)) ?_
        refine Keeps.step (State.adapt_keeps ..) ?_
        refine Keeps.step (State.setReg_keeps ..) ?_
        refine Keeps.step (State.setReg_keeps ..) ?_
        exact .refl
  · refine KeepsNext.next ?_
    exact .refl

theorem State.askRetrain_keeps (s : State) (m : Nat) : Keeps s (State.askRetrain s m) := by
  unfold State.askRetrain
  dsimp only
  refine Keeps.step (State.request_keeps ..) ?_
  exact .refl

theorem State.takeDown_keeps (s : State) (m : Nat) (mask : Nat) : Keeps s (State.takeDown s m mask) := by
  unfold State.takeDown
  dsimp only
  refine Keeps.step (State.askRetrain_keeps ..) ?_
  refine Keeps.step (State.logEvent_keeps ..) ?_
  refine Keeps.step (State.suspend_keeps ..) ?_
  refine Keeps.step ((State.setHead_only ..).keeps (by decide)) ?_
  refine Keeps.step (State.bump_keeps ..) ?_
  refine Keeps.step (State.laneFlag_keeps ..) ?_
  refine Keeps.step (State.setReg_keeps ..) ?_
  exact .refl

theorem execHeadLaneTimeout_keeps (m : Fin 32) (s : State) : KeepsNext s (execHeadLaneTimeout m s) := by
  unfold execHeadLaneTimeout
  refine KeepsNext.ite (fun _ => ?_) (fun _ => ?_)
  · dsimp only
    refine KeepsNext.ite (fun _ => ?_) (fun _ => ?_)
    · refine KeepsNext.next ?_
      refine Keeps.step (State.calFail_keeps ..) ?_
      refine Keeps.step (State.setReg_keeps ..) ?_
      exact .refl
    · refine KeepsNext.next ?_
      refine Keeps.step (State.askRetrain_keeps ..) ?_
      refine Keeps.step (State.setReg_keeps ..) ?_
      exact .refl
  · refine KeepsNext.next ?_
    exact .refl

theorem execStatusTimeout_keeps (m : Fin 32) (s : State) : KeepsNext s (execStatusTimeout m s) := by
  unfold execStatusTimeout
  refine KeepsNext.ite (fun _ => ?_) (fun _ => ?_)
  · refine KeepsNext.next ?_
    refine Keeps.step (State.takeDown_keeps ..) ?_
    exact .refl
  · refine KeepsNext.next ?_
    exact .refl

theorem execHeadLaneLoss_keeps (m : Fin 32) (lol : Bool) (errors : Nat) (s : State) : KeepsNext s (execHeadLaneLoss m lol errors s) := by
  unfold execHeadLaneLoss
  refine KeepsNext.ite (fun _ => ?_) (fun _ => ?_)
  · refine KeepsNext.next ?_
    exact .refl
  · dsimp only
    refine KeepsNext.next ?_
    refine Keeps.ite (fun _ => ?_) (fun _ => ?_)
    · refine Keeps.step (State.takeDown_keeps ..) ?_
      refine Keeps.step (State.count_keeps ..) ?_
      refine Keeps.step (State.bump_keeps ..) ?_
      exact .refl
    · refine Keeps.step (State.laneFlag_keeps ..) ?_
      refine Keeps.step (State.count_keeps ..) ?_
      refine Keeps.step (State.bump_keeps ..) ?_
      exact .refl

theorem State.resendCtrl_keeps (s : State) (m : Nat) (x2 : List Ctrl) : Keeps s (State.resendCtrl s m x2) := by
  induction x2 generalizing s m with | nil => ?_ | cons y l ih => ?_
  · simp only [State.resendCtrl]
    exact .refl
  · simp only [State.resendCtrl]
    refine Keeps.step (ih ..) ?_
    refine Keeps.step (State.bump_keeps ..) ?_
    refine Keeps.step ((State.sendHead_only ..).keeps (by decide)) ?_
    exact .refl

theorem execCtrlResendTimeout_keeps (m : Fin 32) (s : State) : KeepsNext s (execCtrlResendTimeout m s) := by
  unfold execCtrlResendTimeout
  dsimp only
  refine KeepsNext.ite (fun _ => ?_) (fun _ => ?_)
  · refine KeepsNext.next ?_
    exact .refl
  · refine KeepsNext.ite (fun _ => ?_) (fun _ => ?_)
    · refine KeepsNext.next ?_
      refine Keeps.step (State.takeDown_keeps ..) ?_
      exact .refl
    · refine KeepsNext.next ?_
      refine Keeps.step (State.resendCtrl_keeps ..) ?_
      refine Keeps.step ((State.setHead_only ..).keeps (by decide)) ?_
      exact .refl

theorem execHeadLaneRetrain_keeps (m : Fin 32) (s : State) : KeepsNext s (execHeadLaneRetrain m s) := by
  unfold execHeadLaneRetrain
  refine KeepsNext.ite (fun _ => ?_) (fun _ => ?_)
  · refine KeepsNext.next ?_
    refine Keeps.step (State.startTraining_keeps ..) ?_
    refine Keeps.step ((State.useLeave_only ..).keeps (by decide)) ?_
    exact .refl
  · refine KeepsNext.next ?_
    exact .refl

theorem execRecoverTimeExpiry_keeps (m : Fin 32) (s : State) : KeepsNext s (execRecoverTimeExpiry m s) := by
  unfold execRecoverTimeExpiry
  dsimp only
  refine KeepsNext.ite (fun _ => ?_) (fun _ => ?_)
  · refine KeepsNext.next ?_
    refine Keeps.step (State.setCause_keeps ..) ?_
    refine Keeps.step ((State.setHead_only ..).keeps (by decide)) ?_
    exact .refl
  · refine KeepsNext.next ?_
    exact .refl

theorem State.headCounters_keeps (s : State) (m : Nat) (p : List Byte) : Keeps s (State.headCounters s m p) := by
  unfold State.headCounters
  dsimp only
  refine Keeps.step ((State.setHead_only ..).keeps (by decide)) ?_
  refine Keeps.step (State.count_keeps ..) ?_
  refine Keeps.step (State.count_keeps ..) ?_
  refine Keeps.step (State.count_keeps ..) ?_
  refine Keeps.step (State.count_keeps ..) ?_
  exact .refl

theorem State.takeReports_keeps (s : State) (m : Nat) (p : List Byte) : Keeps s (State.takeReports s m p) := by
  unfold State.takeReports
  split
  · exact .refl
  · refine Keeps.ite (fun _ => ?_) (fun _ => ?_)
    · exact .refl
    · refine Keeps.step (State.publish_keeps ..) ?_
      exact .refl

theorem State.laneComesUp_keeps (s : State) (m : Nat) (p : List Byte) : Keeps s (State.laneComesUp s m p) := by
  unfold State.laneComesUp
  dsimp only
  refine Keeps.foldl (fun t x => ?_) ?_
  · refine Keeps.step ((State.resendStrip_only ..).keeps (by decide)) ?_
    exact .refl
  · refine Keeps.step ((State.sendCtrl_only ..).keeps (by decide)) ?_
    refine Keeps.ite (fun _ => ?_) (fun _ => ?_)
    · refine Keeps.step ((State.sendCtrl_only ..).keeps (by decide)) ?_
      refine Keeps.step ((State.setHead_only ..).keeps (by decide)) ?_
      refine Keeps.step (State.setReg_keeps ..) ?_
      exact .refl
    · refine Keeps.step ((State.sendTrim_only ..).keeps (by decide)) ?_
      refine Keeps.step ((State.sendCtrl_only ..).keeps (by decide)) ?_
      refine Keeps.step ((State.setHead_only ..).keeps (by decide)) ?_
      refine Keeps.step (State.setReg_keeps ..) ?_
      exact .refl

theorem State.takeStatus_keeps (s : State) (m : Nat) (p : List Byte) : Keeps s (State.takeStatus s m p) := by
  unfold State.takeStatus
  dsimp only
  refine Keeps.step (State.hearStatus_keeps ..) ?_
  refine Keeps.step (State.takeReports_keeps ..) ?_
  refine Keeps.ite (fun _ => ?_) (fun _ => ?_)
  · refine Keeps.step (State.setCause_keeps ..) ?_
    refine Keeps.step ((State.takeAck_only ..).keeps (by decide)) ?_
    refine Keeps.step (State.headCounters_keeps ..) ?_
    refine Keeps.step ((State.setHead_only ..).keeps (by decide)) ?_
    refine Keeps.step (State.setReg_keeps ..) ?_
    refine Keeps.step (State.setReg_keeps ..) ?_
    refine Keeps.step (State.setDom_keeps ..) ?_
    refine Keeps.step ((State.setHead_only ..).keeps (by decide)) ?_
    exact .refl
  · refine Keeps.step ((State.takeAck_only ..).keeps (by decide)) ?_
    refine Keeps.step (State.headCounters_keeps ..) ?_
    refine Keeps.step ((State.setHead_only ..).keeps (by decide)) ?_
    refine Keeps.step (State.setReg_keeps ..) ?_
    refine Keeps.step (State.setReg_keeps ..) ?_
    refine Keeps.step (State.setDom_keeps ..) ?_
    refine Keeps.step ((State.setHead_only ..).keeps (by decide)) ?_
    exact .refl

theorem execStatus_keeps (m : Fin 32) (errors : Nat) (chars : List Sym) (s : State) : KeepsNext s (execStatus m errors chars s) := by
  unfold execStatus
  refine KeepsNext.ite (fun _ => ?_) (fun _ => ?_)
  · refine KeepsNext.next ?_
    exact .refl
  · dsimp only
    split
    · refine KeepsNext.next ?_
      refine Keeps.step (State.bump_keeps ..) ?_
      refine Keeps.step (State.count_keeps ..) ?_
      exact .refl
    · refine KeepsNext.ite (fun _ => ?_) (fun _ => ?_)
      · refine KeepsNext.next ?_
        refine Keeps.ite (fun _ => ?_) (fun _ => ?_)
        · refine Keeps.step (State.takeDown_keeps ..) ?_
          refine Keeps.step (State.takeStatus_keeps ..) ?_
          refine Keeps.step (State.count_keeps ..) ?_
          exact .refl
        · refine Keeps.step (State.takeStatus_keeps ..) ?_
          refine Keeps.step (State.count_keeps ..) ?_
          exact .refl
      · refine KeepsNext.ite (fun _ => ?_) (fun _ => ?_)
        · refine KeepsNext.next ?_
          refine Keeps.step (State.laneComesUp_keeps ..) ?_
          refine Keeps.step (State.takeStatus_keeps ..) ?_
          refine Keeps.step (State.count_keeps ..) ?_
          exact .refl
        · refine KeepsNext.next ?_
          refine Keeps.step (State.count_keeps ..) ?_
          exact .refl

theorem State.headReset_keeps (s : State) : Keeps s (State.headReset s) := by
  unfold State.headReset
  refine Keeps.foldl (fun t x => ?_) ?_
  · dsimp only
    refine Keeps.step (State.setReg_keeps ..) ?_
    refine Keeps.step ((State.setHead_only ..).keeps (by decide)) ?_
    refine Keeps.ite (fun _ => ?_) (fun _ => ?_)
    · refine Keeps.step (State.suspend_keeps ..) ?_
      exact .refl
    · exact .refl
  · exact .refl

theorem State.headRelease_keeps (s : State) : Keeps s (State.headRelease s) := by
  unfold State.headRelease
  dsimp only
  refine Keeps.step (State.trainAll_keeps ..) ?_
  refine Keeps.foldl (fun t x => ?_) ?_
  · refine Keeps.step (State.setReg_keeps ..) ?_
    exact .refl
  · exact .refl

/-! ### Cal -/

theorem State.ringCredits_keeps (s : State) (x1 : List Nat) : Keeps s (State.ringCredits s x1) := by
  induction x1 generalizing s with | nil => ?_ | cons y l ih => ?_
  · simp only [State.ringCredits]
    exact .refl
  · simp only [State.ringCredits]
    refine Keeps.step (ih ..) ?_
    refine Keeps.step (State.setReg_keeps ..) ?_
    exact .refl

theorem State.rasterLanes_keeps (s : State) (v : Nat) (x2 : List Nat) : Keeps s (State.rasterLanes s v x2) := by
  induction x2 generalizing s v with | nil => ?_ | cons y l ih => ?_
  · simp only [State.rasterLanes]
    exact .refl
  · simp only [State.rasterLanes]
    refine Keeps.step (ih ..) ?_
    refine Keeps.step (State.setReg_keeps ..) ?_
    exact .refl

theorem State.trainRaster_keeps (s : State) : Keeps s (State.trainRaster s) := by
  unfold State.trainRaster
  refine Keeps.step ((State.emitAll_only ..).keeps (by decide)) ?_
  refine Keeps.step (State.setReg_keeps ..) ?_
  refine Keeps.step (State.rasterLanes_keeps ..) ?_
  exact .refl

theorem State.trainTwin_keeps (s : State) : Keeps s (State.trainTwin s) := by
  unfold State.trainTwin
  refine Keeps.step ((State.emitAll_only ..).keeps (by decide)) ?_
  refine Keeps.step (State.setReg_keeps ..) ?_
  refine Keeps.step (State.setReg_keeps ..) ?_
  exact .refl

theorem State.beginLinks_keeps (s : State) (freed : Nat) : Keeps s (State.beginLinks s freed) := by
  unfold State.beginLinks
  dsimp only
  refine Keeps.ite (fun _ => ?_) (fun _ => ?_)
  · refine Keeps.step (State.trainRaster_keeps ..) ?_
    refine Keeps.ite (fun _ => ?_) (fun _ => ?_)
    · refine Keeps.step (State.trainTwin_keeps ..) ?_
      refine Keeps.ite (fun _ => ?_) (fun _ => ?_)
      · refine Keeps.step (State.headRelease_keeps ..) ?_
        exact .refl
      · exact .refl
    · refine Keeps.ite (fun _ => ?_) (fun _ => ?_)
      · refine Keeps.step (State.headRelease_keeps ..) ?_
        exact .refl
      · exact .refl
  · refine Keeps.ite (fun _ => ?_) (fun _ => ?_)
    · refine Keeps.step (State.trainTwin_keeps ..) ?_
      refine Keeps.ite (fun _ => ?_) (fun _ => ?_)
      · refine Keeps.step (State.headRelease_keeps ..) ?_
        exact .refl
      · exact .refl
    · refine Keeps.ite (fun _ => ?_) (fun _ => ?_)
      · refine Keeps.step (State.headRelease_keeps ..) ?_
        exact .refl
      · exact .refl

theorem State.pendBlocks_keeps (s : State) (mask : Nat) : Keeps s (State.pendBlocks s mask) := by
  unfold State.pendBlocks
  dsimp only
  refine Keeps.step (State.setReg_keeps ..) ?_
  refine Keeps.step (State.setReg_keeps ..) ?_
  exact .refl

theorem State.enterKindle_keeps (s : State) : Keeps s (State.enterKindle s) := by
  unfold State.enterKindle
  dsimp only
  refine Keeps.ite (fun _ => ?_) (fun _ => ?_)
  · refine Keeps.step (State.pendBlocks_keeps ..) ?_
    refine Keeps.step (State.setReg_keeps ..) ?_
    refine Keeps.step (State.setReg_keeps ..) ?_
    refine Keeps.step (State.setReg_keeps ..) ?_
    refine Keeps.step (Only.keeps (Only.with_twin_led_cal (d := [.twin, .led, .cal]) (by decide) .refl) (by decide)) ?_
    refine Keeps.step (State.toMode_keeps ..) ?_
    exact .refl
  · refine Keeps.step (State.calFail_keeps ..) ?_
    refine Keeps.step (State.pendBlocks_keeps ..) ?_
    refine Keeps.step (State.setReg_keeps ..) ?_
    refine Keeps.step (State.setReg_keeps ..) ?_
    refine Keeps.step (State.setReg_keeps ..) ?_
    refine Keeps.step (Only.keeps (Only.with_twin_led_cal (d := [.twin, .led, .cal]) (by decide) .refl) (by decide)) ?_
    refine Keeps.step (State.toMode_keeps ..) ?_
    exact .refl

theorem State.twoRuns_keeps (s : State) (item tol : Nat) (bad : Int → Bool) (l : List (Nat × Int × Int)) (passed : State → State)
    (hp : ∀ t, Keeps t (passed t)) : Keeps s (s.twoRuns item tol bad l passed) := by
  unfold State.twoRuns
  split
  · dsimp only
    exact Keeps.step (State.calFail_keeps ..) ((State.fresh_only ..).keeps (by decide))
  · split
    · exact State.calFail_keeps ..
    · exact Keeps.step (hp ..) (State.setItem_keeps ..)

theorem execCalTemperature_keeps (run1 run2 : List Int) (s : State) : KeepsNext s (execCalTemperature run1 run2 s) := by
  unfold execCalTemperature
  split
  · exact KeepsNext.next (State.twoRuns_keeps _ _ _ _ _ _ (fun t => State.setDom_keeps ..))
  · exact KeepsNext.next .refl

theorem State.skipItems_keeps (s : State) : Keeps s (State.skipItems s) := by
  unfold State.skipItems
  refine Keeps.ite (fun _ => ?_) (fun _ => ?_)
  · refine Keeps.step (State.setReg_keeps ..) ?_
    refine Keeps.step (State.setItem_keeps ..) ?_
    refine Keeps.step (State.setItem_keeps ..) ?_
    exact .refl
  · exact .refl

theorem execCalFsi_keeps (run1 run2 : List Nat) (s : State) : KeepsNext s (execCalFsi run1 run2 s) := by
  unfold execCalFsi
  split
  · refine KeepsNext.next (State.twoRuns_keeps _ _ _ _ _ _ (fun t => ?_))
    exact Keeps.step (State.skipItems_keeps ..) (State.setReg_keeps ..)
  · exact KeepsNext.next .refl

theorem execCalTermination_keeps (codes : List (Nat × Nat × Nat)) (s : State) : KeepsNext s (execCalTermination codes s) := by
  unfold execCalTermination
  split
  · exact KeepsNext.next (State.twoRuns_keeps _ _ _ _ _ _ (fun t => State.beginLinks_keeps _ _))
  · exact KeepsNext.next .refl

theorem execCalEqualiser_keeps (unit : Nat) (s1 : Nat) (s2 : Nat) (s : State) : KeepsNext s (execCalEqualiser unit s1 s2 s) := by
  unfold execCalEqualiser
  split
  · refine KeepsNext.next ?_
    exact .refl
  · refine KeepsNext.ite (fun _ => ?_) (fun _ => ?_)
    · dsimp only
      refine KeepsNext.ite (fun _ => ?_) (fun _ => ?_)
      · refine KeepsNext.next ?_
        refine Keeps.step (State.calFail_keeps ..) ?_
        refine Keeps.step (State.setReg_keeps ..) ?_
        exact .refl
      · refine KeepsNext.next ?_
        refine Keeps.step (Only.keeps (Only.with_cal (d := [.cal]) (by decide) .refl) (by decide)) ?_
        refine Keeps.step (State.setReg_keeps ..) ?_
        exact .refl
    · refine KeepsNext.next ?_
      exact .refl

theorem execCalChopper_keeps (run1 run2 : List Nat) (s : State) : KeepsNext s (execCalChopper run1 run2 s) := by
  unfold execCalChopper
  split
  · exact KeepsNext.next (State.twoRuns_keeps _ _ _ _ _ _ (fun t => State.setRegs_keeps ..))
  · exact KeepsNext.next .refl

theorem State.ledFault_keeps (s : State) : Keeps s (State.ledFault s) := by
  unfold State.ledFault
  dsimp only
  refine Keeps.step (State.clearBits_keeps ..) ?_
  refine Keeps.step (State.setBits_keeps ..) ?_
  refine Keeps.step (Only.keeps (Only.with_led (d := [.led]) (by decide) .refl) (by decide)) ?_
  refine Keeps.step (State.setReg_keeps ..) ?_
  refine Keeps.step (State.setBits_keeps ..) ?_
  exact .refl

theorem execLedShortTest_keeps (run1 : LedReads) (run2 : LedReads) (s : State) : KeepsNext s (execLedShortTest run1 run2 s) := by
  unfold execLedShortTest
  refine KeepsNext.ite (fun _ => ?_) (fun _ => ?_)
  · dsimp only
    refine KeepsNext.ite (fun _ => ?_) (fun _ => ?_)
    · refine KeepsNext.next ?_
      refine Keeps.step (State.calFail_keeps ..) ?_
      refine Keeps.step ((State.emitAll_only ..).keeps (by decide)) ?_
      exact .refl
    · refine KeepsNext.next ?_
      refine Keeps.ite (fun _ => ?_) (fun _ => ?_)
      · refine Keeps.step (State.setReg_keeps ..) ?_
        refine Keeps.step (State.setReg_keeps ..) ?_
        refine Keeps.step (State.setItem_keeps ..) ?_
        refine Keeps.step ((State.emitAll_only ..).keeps (by decide)) ?_
        exact .refl
      · refine Keeps.step (State.ledFault_keeps ..) ?_
        refine Keeps.step (State.setReg_keeps ..) ?_
        refine Keeps.step (State.setItem_keeps ..) ?_
        refine Keeps.step ((State.emitAll_only ..).keeps (by decide)) ?_
        exact .refl
  · refine KeepsNext.next ?_
    exact .refl

theorem execDramTraining_keeps (sweeps : List Sweep) (s : State) : KeepsNext s (execDramTraining sweeps s) := by
  unfold execDramTraining
  refine KeepsNext.ite (fun _ => ?_) (fun _ => ?_)
  · dsimp only
    split
    · refine KeepsNext.next ?_
      refine Keeps.step (State.calFail_keeps ..) ?_
      refine Keeps.step ((State.useLeave_only ..).keeps (by decide)) ?_
      exact .refl
    · refine KeepsNext.next ?_
      refine Keeps.step (State.calFail_keeps ..) ?_
      refine Keeps.step ((State.fresh_only ..).keeps (by decide)) ?_
      refine Keeps.step ((State.useLeave_only ..).keeps (by decide)) ?_
      exact .refl
    · refine KeepsNext.next ?_
      refine Keeps.with_dram rfl ?_
      refine Keeps.step (State.setReg_keeps ..) ?_
      refine Keeps.step (State.setDom_keeps ..) ?_
      refine Keeps.step (State.setItem_keeps ..) ?_
      refine Keeps.step ((State.useLeave_only ..).keeps (by decide)) ?_
      exact .refl
  · refine KeepsNext.next ?_
    exact .refl

theorem execEccFill_keeps (s : State) : KeepsNext s (execEccFill s) := by
  unfold execEccFill
  refine KeepsNext.ite (fun _ => KeepsNext.next ?_) (fun _ => KeepsNext.next .refl)
  exact ⟨id, id, fun _ => rfl, id, id, id, fun _ => Nat.or_self _⟩

theorem execKindleEnd_keeps (s : State) : KeepsNext s (execKindleEnd s) := by
  unfold execKindleEnd
  refine KeepsNext.ite (fun _ => ?_) (fun _ => ?_)
  · dsimp only
    refine KeepsNext.next ?_
    refine Keeps.ite (fun _ => ?_) (fun _ => ?_)
    · refine Keeps.step (State.enterSnuff_keeps ..) ?_
      refine Keeps.step ((State.countKindleFail_only ..).keeps (by decide)) ?_
      refine Keeps.step (State.countKindle_keeps ..) ?_
      refine Keeps.step (State.setItem_keeps ..) ?_
      exact .refl
    · refine Keeps.step (State.enterPilot_keeps ..) ?_
      refine Keeps.step (State.countKindle_keeps ..) ?_
      refine Keeps.step (State.setItem_keeps ..) ?_
      exact .refl
  · refine KeepsNext.next ?_
    exact .refl

/-! ### Encoder -/

theorem State.restartSpeed_keeps (s : State) (ch : Nat) (state : Nat) : Keeps s (State.restartSpeed s ch state) := by
  unfold State.restartSpeed
  dsimp only
  refine Keeps.step ((State.monRestart_only ..).keeps (by decide)) ?_
  refine Keeps.step (State.setReg_keeps ..) ?_
  refine Keeps.step ((State.setEncCh_only ..).keeps (by decide)) ?_
  exact .refl

theorem State.startChannel_keeps (s : State) (ch : Nat) : Keeps s (State.startChannel s ch) := by
  unfold State.startChannel
  dsimp only
  refine Keeps.step (State.restartSpeed_keeps ..) ?_
  refine Keeps.step ((State.setEncCh_only ..).keeps (by decide)) ?_
  refine Keeps.step (State.setReg_keeps ..) ?_
  refine Keeps.step (State.setReg_keeps ..) ?_
  refine Keeps.step (State.setReg_keeps ..) ?_
  exact .refl

theorem State.estimate_keeps (s : State) (ch : Nat) (fwd : Bool) (stamp : Nat) : Keeps s (State.estimate s ch fwd stamp) := by
  unfold State.estimate
  dsimp only
  refine Keeps.ite (fun _ => ?_) (fun _ => ?_)
  · refine Keeps.step ((State.monRestart_only ..).keeps (by decide)) ?_
    refine Keeps.step (State.setReg_keeps ..) ?_
    refine Keeps.step ((State.setEncCh_only ..).keeps (by decide)) ?_
    exact .refl
  · refine Keeps.ite (fun _ => ?_) (fun _ => ?_)
    · refine Keeps.step (State.setReg_keeps ..) ?_
      refine Keeps.step (State.setReg_keeps ..) ?_
      refine Keeps.step ((State.setEncCh_only ..).keeps (by decide)) ?_
      exact .refl
    · refine Keeps.step (State.setReg_keeps ..) ?_
      refine Keeps.step ((State.setEncCh_only ..).keeps (by decide)) ?_
      exact .refl

theorem State.rateCheck_keeps (s : State) (ch : Nat) : Keeps s (State.rateCheck s ch) := by
  unfold State.rateCheck
  dsimp only
  refine Keeps.ite (fun _ => ?_) (fun _ => ?_)
  · refine Keeps.ite (fun _ => ?_) (fun _ => ?_)
    · refine Keeps.step (State.logEvent_keeps ..) ?_
      refine Keeps.step ((State.setEncCh_only ..).keeps (by decide)) ?_
      refine Keeps.step (State.setBits_keeps ..) ?_
      refine Keeps.step (State.bump_keeps ..) ?_
      refine Keeps.step ((State.setEncCh_only ..).keeps (by decide)) ?_
      exact .refl
    · refine Keeps.step ((State.setEncCh_only ..).keeps (by decide)) ?_
      refine Keeps.step (State.setBits_keeps ..) ?_
      refine Keeps.step (State.bump_keeps ..) ?_
      refine Keeps.step ((State.setEncCh_only ..).keeps (by decide)) ?_
      exact .refl
  · refine Keeps.step ((State.setEncCh_only ..).keeps (by decide)) ?_
    exact .refl

theorem State.missingIndex_keeps (s : State) (ch : Nat) : Keeps s (State.missingIndex s ch) := by
  unfold State.missingIndex
  dsimp only
  split
  · exact .refl
  · refine Keeps.ite (fun _ => ?_) (fun _ => ?_)
    · refine Keeps.step (State.indexError_keeps ..) ?_
      refine Keeps.step ((State.setEncCh_only ..).keeps (by decide)) ?_
      exact .refl
    · exact .refl

theorem State.monitor_keeps (s : State) (ch : Nat) : Keeps s (State.monitor s ch) := by
  unfold State.monitor
  refine Keeps.ite (fun _ => ?_) (fun _ => ?_)
  · exact .refl
  · refine Keeps.ite (fun _ => ?_) (fun _ => ?_)
    · refine Keeps.step (Only.keeps (Only.with_enc (d := [.enc]) (by decide) .refl) (by decide)) ?_
      exact .refl
    · dsimp only
      refine Keeps.ite (fun _ => ?_) (fun _ => ?_)
      · refine Keeps.step (State.logEvent_keeps ..) ?_
        refine Keeps.step (State.bump_keeps ..) ?_
        refine Keeps.step ((State.monRestart_only ..).keeps (by decide)) ?_
        exact .refl
      · refine Keeps.step ((State.monRestart_only ..).keeps (by decide)) ?_
        exact .refl

theorem State.testIndex_keeps (s : State) (ch : Nat) : Keeps s (State.testIndex s ch) := by
  unfold State.testIndex
  dsimp only
  refine Keeps.ite (fun _ => ?_) (fun _ => ?_)
  · exact .refl
  · split
    · refine Keeps.step ((State.setEncCh_only ..).keeps (by decide)) ?_
      refine Keeps.step (State.setReg_keeps ..) ?_
      refine Keeps.step (State.setReg_keeps ..) ?_
      exact .refl
    · refine Keeps.ite (fun _ => ?_) (fun _ => ?_)
      · refine Keeps.step (State.indexError_keeps ..) ?_
        refine Keeps.step ((State.setEncCh_only ..).keeps (by decide)) ?_
        refine Keeps.step (State.setReg_keeps ..) ?_
        refine Keeps.step (State.setReg_keeps ..) ?_
        exact .refl
      · refine Keeps.step ((State.setEncCh_only ..).keeps (by decide)) ?_
        refine Keeps.step (State.setReg_keeps ..) ?_
        refine Keeps.step (State.setReg_keeps ..) ?_
        exact .refl

theorem State.retestIndex_keeps (s : State) (ch : Nat) : Keeps s (State.retestIndex s ch) := by
  unfold State.retestIndex
  refine Keeps.ite (fun _ => ?_) (fun _ => ?_)
  · refine Keeps.step (State.testIndex_keeps ..) ?_
    exact .refl
  · exact .refl

theorem State.moveMark_keeps (s : State) (ch : Nat) (stamp : Nat) : Keeps s (State.moveMark s ch stamp) := by
  unfold State.moveMark
  dsimp only
  refine Keeps.ite (fun _ => ?_) (fun _ => ?_)
  · refine Keeps.ite (fun _ => ?_) (fun _ => ?_)
    · refine Keeps.step (State.markMoved_keeps ..) ?_
      refine Keeps.step (State.missingIndex_keeps ..) ?_
      refine Keeps.step (State.monitor_keeps ..) ?_
      refine Keeps.step (State.setReg_keeps ..) ?_
      exact .refl
    · refine Keeps.step (State.missingIndex_keeps ..) ?_
      refine Keeps.step (State.monitor_keeps ..) ?_
      refine Keeps.step (State.setReg_keeps ..) ?_
      exact .refl
  · refine Keeps.ite (fun _ => ?_) (fun _ => ?_)
    · refine Keeps.ite (fun _ => ?_) (fun _ => ?_)
      · refine Keeps.step (State.markMoved_keeps ..) ?_
        refine Keeps.step (State.retestIndex_keeps ..) ?_
        refine Keeps.step (State.logEvent_keeps ..) ?_
        refine Keeps.ite (fun _ => ?_) (fun _ => ?_)
        · refine Keeps.step (State.reverse_keeps ..) ?_
          refine Keeps.step ((State.monRestart_only ..).keeps (by decide)) ?_
          refine Keeps.step (State.setBits_keeps ..) ?_
          refine Keeps.step (State.bump_keeps ..) ?_
          refine Keeps.step ((State.setEncCh_only ..).keeps (by decide)) ?_
          refine Keeps.step (State.setReg_keeps ..) ?_
          refine Keeps.step (State.setReg_keeps ..) ?_
          exact .refl
        · refine Keeps.step (State.setBits_keeps ..) ?_
          refine Keeps.step (State.bump_keeps ..) ?_
          refine Keeps.step ((State.setEncCh_only ..).keeps (by decide)) ?_
          refine Keeps.step (State.setReg_keeps ..) ?_
          refine Keeps.step (State.setReg_keeps ..) ?_
          exact .refl
      · refine Keeps.step (State.retestIndex_keeps ..) ?_
        refine Keeps.step (State.logEvent_keeps ..) ?_
        refine Keeps.ite (fun _ => ?_) (fun _ => ?_)
        · refine Keeps.step (State.reverse_keeps ..) ?_
          refine Keeps.step ((State.monRestart_only ..).keeps (by decide)) ?_
          refine Keeps.step (State.setBits_keeps ..) ?_
          refine Keeps.step (State.bump_keeps ..) ?_
          refine Keeps.step ((State.setEncCh_only ..).keeps (by decide)) ?_
          refine Keeps.step (State.setReg_keeps ..) ?_
          refine Keeps.step (State.setReg_keeps ..) ?_
          exact .refl
        · refine Keeps.step (State.setBits_keeps ..) ?_
          refine Keeps.step (State.bump_keeps ..) ?_
          refine Keeps.step ((State.setEncCh_only ..).keeps (by decide)) ?_
          refine Keeps.step (State.setReg_keeps ..) ?_
          refine Keeps.step (State.setReg_keeps ..) ?_
          exact .refl
    · exact .refl

theorem State.illegal_keeps (s : State) (ch : Nat) : Keeps s (State.illegal s ch) := by
  unfold State.illegal
  dsimp only
  refine Keeps.ite (fun _ => ?_) (fun _ => ?_)
  · refine Keeps.step (State.rePredictAll_keeps ..) ?_
    refine Keeps.step (State.logEvent_keeps ..) ?_
    refine Keeps.step (State.restartSpeed_keeps ..) ?_
    refine Keeps.step ((State.setEncCh_only ..).keeps (by decide)) ?_
    refine Keeps.step (State.rateCheck_keeps ..) ?_
    refine Keeps.step (State.setBits_keeps ..) ?_
    refine Keeps.step (State.bump_keeps ..) ?_
    exact .refl
  · refine Keeps.step (State.logEvent_keeps ..) ?_
    refine Keeps.step (State.restartSpeed_keeps ..) ?_
    refine Keeps.step ((State.setEncCh_only ..).keeps (by decide)) ?_
    refine Keeps.step (State.rateCheck_keeps ..) ?_
    refine Keeps.step (State.setBits_keeps ..) ?_
    refine Keeps.step (State.bump_keeps ..) ?_
    exact .refl

theorem State.unstillGroup_keeps (s : State) (x : Nat × Conf) : Keeps s (State.unstillGroup s x) := by
  unfold State.unstillGroup
  split
  · refine Keeps.ite (fun _ => ?_) (fun _ => ?_)
    · refine Keeps.step (State.setGroup_keeps ..) ?_
      exact .refl
    · exact .refl
  · exact .refl

theorem State.unstill_keeps (s : State) (ch : Nat) : Keeps s (State.unstill s ch) := by
  unfold State.unstill
  split
  · exact .refl
  · dsimp only
    refine Keeps.ite (fun _ => ?_) (fun _ => ?_)
    · refine Keeps.step ((State.setEncCh_only ..).keeps (by decide)) ?_
      exact .refl
    · refine Keeps.foldl (fun t x => ?_) ?_
      · refine Keeps.step (State.unstillGroup_keeps ..) ?_
        exact .refl
      · refine Keeps.step (State.setReg_keeps ..) ?_
        refine Keeps.step (Only.keeps (Only.with_enc (d := [.enc]) (by decide) .refl) (by decide)) ?_
        refine Keeps.step ((State.setEncCh_only ..).keeps (by decide)) ?_
        refine Keeps.step ((State.setEncCh_only ..).keeps (by decide)) ?_
        exact .refl

theorem State.countEdge_keeps (s : State) (ch : Nat) (fwd : Bool) : Keeps s (State.countEdge s ch fwd) := by
  unfold State.countEdge
  dsimp only
  refine Keeps.ite (fun _ => ?_) (fun _ => ?_)
  · refine Keeps.step (State.rePredictAll_keeps ..) ?_
    refine Keeps.step (State.moveMark_keeps ..) ?_
    refine Keeps.step (State.estimate_keeps ..) ?_
    refine Keeps.step (State.rateCheck_keeps ..) ?_
    refine Keeps.step ((State.setEncCh_only ..).keeps (by decide)) ?_
    refine Keeps.step (State.setReg_keeps ..) ?_
    refine Keeps.step (State.setReg_keeps ..) ?_
    refine Keeps.step (State.setReg_keeps ..) ?_
    refine Keeps.step (State.unstill_keeps ..) ?_
    exact .refl
  · refine Keeps.step (State.moveMark_keeps ..) ?_
    refine Keeps.step (State.estimate_keeps ..) ?_
    refine Keeps.step (State.rateCheck_keeps ..) ?_
    refine Keeps.step ((State.setEncCh_only ..).keeps (by decide)) ?_
    refine Keeps.step (State.setReg_keeps ..) ?_
    refine Keeps.step (State.setReg_keeps ..) ?_
    refine Keeps.step (State.setReg_keeps ..) ?_
    refine Keeps.step (State.unstill_keeps ..) ?_
    exact .refl

theorem execEncoderEdge_keeps (ch : Fin 2) (pins : List (Bool × Bool)) (s : State) : KeepsNext s (execEncoderEdge ch pins s) := by
  unfold execEncoderEdge
  dsimp only
  refine KeepsNext.ite (fun _ => ?_) (fun _ => ?_)
  · refine KeepsNext.next ?_
    refine Keeps.step ((State.setEncCh_only ..).keeps (by decide)) ?_
    exact .refl
  · refine KeepsNext.ite (fun _ => ?_) (fun _ => ?_)
    · refine KeepsNext.next ?_
      refine Keeps.step (State.illegal_keeps ..) ?_
      refine Keeps.step ((State.setEncCh_only ..).keeps (by decide)) ?_
      exact .refl
    · refine KeepsNext.next ?_
      refine Keeps.step (State.countEdge_keeps ..) ?_
      refine Keeps.step ((State.setEncCh_only ..).keeps (by decide)) ?_
      exact .refl

theorem execIndexEdge_keeps (ch : Fin 2) (pins : List Bool) (s : State) : KeepsNext s (execIndexEdge ch pins s) := by
  unfold execIndexEdge
  dsimp only
  refine KeepsNext.next ?_
  refine Keeps.ite (fun _ => ?_) (fun _ => ?_)
  · refine Keeps.step (State.testIndex_keeps ..) ?_
    refine Keeps.step ((State.setEncCh_only ..).keeps (by decide)) ?_
    exact .refl
  · refine Keeps.step ((State.setEncCh_only ..).keeps (by decide)) ?_
    exact .refl

theorem State.enterStill_keeps (s : State) (ch : Nat) : Keeps s (State.enterStill s ch) := by
  unfold State.enterStill
  dsimp only
  refine Keeps.step (State.restartSpeed_keeps ..) ?_
  refine Keeps.step ((State.setEncCh_only ..).keeps (by decide)) ?_
  exact .refl

theorem execStandstillTimeout_keeps (ch : Fin 2) (s : State) : KeepsNext s (execStandstillTimeout ch s) := by
  unfold execStandstillTimeout
  refine KeepsNext.ite (fun _ => ?_) (fun _ => ?_)
  · refine KeepsNext.next ?_
    exact .refl
  · dsimp only
    refine KeepsNext.next ?_
    refine Keeps.ite (fun _ => ?_) (fun _ => ?_)
    · refine Keeps.step (State.rePredictAll_keeps ..) ?_
      refine Keeps.step (State.enterStill_keeps ..) ?_
      exact .refl
    · refine Keeps.step (State.enterStill_keeps ..) ?_
      exact .refl

theorem execEncoderBlockExpiry_keeps (s : State) : KeepsNext s (execEncoderBlockExpiry s) :=
  ⟨fun t ht => ((execEncoderBlockExpiry_only ..).only t ht).keeps (by decide)⟩

end Sys2Proof.Machine
end

