-- ==== Sys2Proof/Laws/KeepsRasterToEffects.lean ====
section
/-! SUPPORT. What every operation and meaning of Machine/Raster.lean to Machine/Effects.lean keeps (see Keeps). -/

namespace Sys2Proof.Machine

/-! ### Raster -/

theorem State.lockAt_keeps (s : State) (inv : Nat) (ctle : Nat) (dfe : Nat) : Keeps s (State.lockAt s inv ctle dfe) := by
  unfold State.lockAt
  split
  split
  split
  refine Keeps.step (State.setReg_keeps ..) ?_
  refine Keeps.step (State.setReg_keeps ..) ?_
  refine Keeps.step (State.setReg_keeps ..) ?_
  refine Keeps.of_snd (by assumption) ?_
  refine Keeps.step ((State.fresh_only ..).keeps (by decide)) ?_
  refine Keeps.of_snd (by assumption) ?_
  refine Keeps.step ((State.fresh_only ..).keeps (by decide)) ?_
  refine Keeps.of_snd (by assumption) ?_
  refine Keeps.step ((State.fresh_only ..).keeps (by decide)) ?_
  exact .refl

theorem State.lockRaster_keeps (s : State) (x1 : List Nat) : Keeps s (State.lockRaster s x1) := by
  induction x1 generalizing s with | nil => ?_ | cons y l ih => ?_
  · simp only [State.lockRaster]
    exact .refl
  · simp only [State.lockRaster]
    refine Keeps.step (ih ..) ?_
    refine Keeps.step (State.lockAt_keeps ..) ?_
    refine Keeps.step (State.setReg_keeps ..) ?_
    exact .refl

theorem execRasterLinkUp_keeps (trained : List Bool) (reversed : Bool) (s : State) : KeepsNext s (execRasterLinkUp trained reversed s) := by
  unfold execRasterLinkUp
  refine KeepsNext.ite (fun _ => ?_) (fun _ => ?_)
  · refine KeepsNext.next ?_
    exact .refl
  · dsimp only
    refine KeepsNext.ite (fun _ => ?_) (fun _ => ?_)
    · refine KeepsNext.next ?_
      refine Keeps.step (State.setReg_keeps ..) ?_
      refine Keeps.step (Only.keeps (Only.with_raster (d := [.raster]) (by decide) .refl) (by decide)) ?_
      refine Keeps.step (State.lockRaster_keeps ..) ?_
      refine Keeps.step (State.rasterLanes_keeps ..) ?_
      exact .refl
    · refine KeepsNext.next ?_
      refine Keeps.step (State.grantAll_keeps ..) ?_
      refine Keeps.step (State.setReg_keeps ..) ?_
      refine Keeps.step (State.rasterLanes_keeps ..) ?_
      refine Keeps.step (Only.keeps (Only.with_raster (d := [.raster]) (by decide) .refl) (by decide)) ?_
      refine Keeps.step (State.lockRaster_keeps ..) ?_
      refine Keeps.step (State.rasterLanes_keeps ..) ?_
      exact .refl

theorem State.dropRaster_keeps (s : State) (x1 : List Nat) : Keeps s (State.dropRaster s x1) := by
  induction x1 generalizing s with | nil => ?_ | cons y l ih => ?_
  · simp only [State.dropRaster]
    exact .refl
  · simp only [State.dropRaster]
    refine Keeps.step (ih ..) ?_
    refine Keeps.ite (fun _ => ?_) (fun _ => ?_)
    · refine Keeps.step (State.bump_keeps ..) ?_
      exact .refl
    · exact .refl

theorem execRasterLaneLoss_keeps (lane : Fin 8) (lol : Bool) (errors : Nat) (s : State) :
    KeepsNext s (execRasterLaneLoss lane lol errors s) := by
  unfold execRasterLaneLoss
  refine KeepsNext.ite (fun _ => ?_) (fun _ => ?_)
  · refine KeepsNext.next ?_
    exact .refl
  · dsimp only
    refine KeepsNext.ite (fun _ => ?_) (fun _ => ?_)
    · refine KeepsNext.next ?_
      refine Keeps.step (State.trainRaster_keeps ..) ?_
      refine Keeps.step (State.dropRaster_keeps ..) ?_
      refine Keeps.step (State.setBits_keeps ..) ?_
      refine Keeps.step (State.count_keeps ..) ?_
      refine Keeps.step (State.bump_keeps ..) ?_
      exact .refl
    · refine KeepsNext.next ?_
      refine Keeps.step (State.setBits_keeps ..) ?_
      refine Keeps.step (State.count_keeps ..) ?_
      refine Keeps.step (State.bump_keeps ..) ?_
      exact .refl

theorem State.rasterErrors_keeps (s : State) (x1 : List (Nat × Nat)) : Keeps s (State.rasterErrors s x1) := by
  induction x1 generalizing s with | nil => ?_ | cons y l ih => ?_
  · simp only [State.rasterErrors]
    exact .refl
  · simp only [State.rasterErrors]
    refine Keeps.step (ih ..) ?_
    refine Keeps.step (State.count_keeps ..) ?_
    exact .refl

theorem execRasterPacketDrop_keeps (errors : List Nat) (lanes : List (List Sym)) (s : State) :
    KeepsNext s (execRasterPacketDrop errors lanes s) := by
  unfold execRasterPacketDrop
  refine KeepsNext.ite (fun _ => ?_) (fun _ => ?_)
  · dsimp only
    split
    · refine KeepsNext.next ?_
      refine Keeps.step (State.rasterErrors_keeps ..) ?_
      exact .refl
    · refine KeepsNext.next ?_
      refine Keeps.ite (fun _ => ?_) (fun _ => ?_)
      · refine Keeps.step (State.resend_keeps ..) ?_
        refine Keeps.step (State.bump_keeps ..) ?_
        refine Keeps.step (State.rasterErrors_keeps ..) ?_
        exact .refl
      · refine Keeps.step (State.bump_keeps ..) ?_
        refine Keeps.step (State.rasterErrors_keeps ..) ?_
        exact .refl
  · refine KeepsNext.next ?_
    exact .refl

theorem State.takeJoinImage_keeps (s : State) (k : Nat) : Keeps s (State.takeJoinImage s k) := by
  unfold State.takeJoinImage
  split
  · exact .refl
  · split
    · exact .refl
    · refine Keeps.ite (fun _ => ?_) (fun _ => ?_)
      · refine Keeps.step (State.takeImage_keeps ..) ?_
        refine Keeps.step (Only.keeps (Only.with_twin (d := [.twin]) (by decide) .refl) (by decide)) ?_
        exact .refl
      · exact .refl

theorem execBlock_keeps (stream : Nat) (wax : List Byte) (s : State) : KeepsNext s (execBlock stream wax s) := by
  unfold execBlock
  refine KeepsNext.ite (fun _ => ?_) (fun _ => ?_)
  · refine KeepsNext.next ?_
    exact .refl
  · refine KeepsNext.ite (fun _ => ?_) (fun _ => ?_)
    · refine KeepsNext.next ?_
      refine Keeps.step (State.bump_keeps ..) ?_
      exact .refl
    · refine KeepsNext.ite (fun _ => ?_) (fun _ => ?_)
      · refine KeepsNext.next ?_
        refine Keeps.step (State.resend_keeps ..) ?_
        refine Keeps.step (State.bump_keeps ..) ?_
        exact .refl
      · refine KeepsNext.next ?_
        refine Keeps.step (State.takeJoinImage_keeps ..) ?_
        refine Keeps.step (State.intake_keeps ..) ?_
        exact .refl

theorem execDecodeLine_keeps (e : Fin 8) (s : State) : KeepsNext s (execDecodeLine e s) := by
  unfold execDecodeLine
  split
  · refine KeepsNext.next ?_
    exact .refl
  · refine KeepsNext.ite (fun _ => ?_) (fun _ => ?_)
    · refine KeepsNext.next ?_
      exact .refl
    · dsimp only
      refine KeepsNext.next ?_
      refine Keeps.step ((State.tellReady_only ..).keeps (by decide)) ?_
      refine Keeps.step (State.takeJobs_keeps ..) ?_
      refine Keeps.step (Only.keeps (Only.with_decomp (d := [.decomp]) (by decide) .refl) (by decide)) ?_
      refine Keeps.step (State.completeJob_keeps ..) ?_
      exact .refl

theorem execCommit_keeps (payload : List Byte) (s : State) : KeepsNext s (execCommit payload s) := by
  unfold execCommit
  refine KeepsNext.ite (fun _ => ?_) (fun _ => ?_)
  · refine KeepsNext.next ?_
    exact .refl
  · split
    · refine KeepsNext.next ?_
      refine Keeps.step ((State.emit_only ..).keeps (by decide)) ?_
      exact .refl
    · split
      dsimp only
      refine KeepsNext.ite (fun _ => ?_) (fun _ => ?_)
      · refine KeepsNext.next ?_
        refine Keeps.step ((State.tellReady_only ..).keeps (by decide)) ?_
        refine Keeps.step (State.closePages_keeps ..) ?_
        refine Keeps.step (State.freeAll_keeps ..) ?_
        refine Keeps.step (State.takeJobs_keeps ..) ?_
        refine Keeps.step (State.catchUp_keeps ..) ?_
        refine Keeps.step (State.acceptCommit_keeps ..) ?_
        refine Keeps.step ((State.emit_only ..).keeps (by decide)) ?_
        exact .refl
      · refine KeepsNext.next ?_
        refine Keeps.step ((State.emit_only ..).keeps (by decide)) ?_
        exact .refl

theorem State.grantFreed_keeps (s : State) (x1 : List (Nat × Nat)) : Keeps s (State.grantFreed s x1) := by
  induction x1 generalizing s with | nil => ?_ | cons y l ih => ?_
  · simp only [State.grantFreed]
    exact .refl
  · simp only [State.grantFreed]
    refine Keeps.step (ih ..) ?_
    refine Keeps.step (State.setReg_keeps ..) ?_
    exact .refl

theorem State.resendEach_keeps (s : State) (x1 : List Nat) : Keeps s (State.resendEach s x1) := by
  induction x1 generalizing s with | nil => ?_ | cons y l ih => ?_
  · simp only [State.resendEach]
    exact .refl
  · simp only [State.resendEach]
    refine Keeps.step (ih ..) ?_
    refine Keeps.step (State.bump_keeps ..) ?_
    exact .refl

theorem execCreditPeriodExpiry_keeps (s : State) : KeepsNext s (execCreditPeriodExpiry s) := by
  unfold execCreditPeriodExpiry
  refine KeepsNext.ite (fun _ => ?_) (fun _ => ?_)
  · dsimp only
    refine KeepsNext.next ?_
    refine Keeps.step (State.resendEach_keeps ..) ?_
    refine Keeps.step (Only.keeps (Only.with_raster (d := [.raster]) (by decide) .refl) (by decide)) ?_
    refine Keeps.step (State.grantFreed_keeps ..) ?_
    refine Keeps.step ((State.sendCredits_only ..).keeps (by decide)) ?_
    exact .refl
  · refine KeepsNext.next ?_
    exact .refl

theorem State.flushStreams_keeps (s : State) (x1 : List Nat) : Keeps s (State.flushStreams s x1) := by
  induction x1 generalizing s with | nil => ?_ | cons y l ih => ?_
  · simp only [State.flushStreams]
    exact .refl
  · simp only [State.flushStreams]
    refine Keeps.step (ih ..) ?_
    refine Keeps.step (State.setReg_keeps ..) ?_
    refine Keeps.step (State.setReg_keeps ..) ?_
    refine Keeps.step (State.setReg_keeps ..) ?_
    refine Keeps.step (State.setReg_keeps ..) ?_
    exact .refl

theorem State.flushStore_keeps (s : State) : Keeps s (State.flushStore s) := by
  unfold State.flushStore
  dsimp only
  refine Keeps.step (State.flushStreams_keeps ..) ?_
  refine Keeps.step ((State.dropStore_only ..).keeps (by decide)) ?_
  refine Keeps.ite (fun _ => ?_) (fun _ => ?_)
  · refine Keeps.step (State.swapNow_keeps ..) ?_
    exact .refl
  · exact .refl

theorem State.regrant_keeps (s : State) : Keeps s (State.regrant s) := by
  unfold State.regrant
  refine Keeps.ite (fun _ => ?_) (fun _ => ?_)
  · refine Keeps.step (State.grantAll_keeps ..) ?_
    exact .refl
  · exact .refl

/-! ### Twin -/

theorem State.mateLost_keeps (s : State) : Keeps s (State.mateLost s) := by
  unfold State.mateLost
  refine Keeps.step (State.twinEvent_keeps ..) ?_
  exact .refl

theorem State.afterLink_keeps (was : Bool) (s : State) : Keeps s (State.afterLink was s) := by
  unfold State.afterLink
  refine Keeps.ite (fun _ => ?_) (fun _ => ?_)
  · exact .refl
  · refine Keeps.ite (fun _ => ?_) (fun _ => ?_)
    · refine Keeps.step (State.setCause_keeps ..) ?_
      exact .refl
    · refine Keeps.ite (fun _ => ?_) (fun _ => ?_)
      · refine Keeps.step (State.mateLost_keeps ..) ?_
        exact .refl
      · exact .refl

theorem State.twinLane_keeps (s : State) (l : Nat) (up : Bool) : Keeps s (State.twinLane s l up) := by
  unfold State.twinLane
  refine Keeps.ite (fun _ => ?_) (fun _ => ?_)
  · refine Keeps.step (State.lockAt_keeps ..) ?_
    refine Keeps.step (State.setReg_keeps ..) ?_
    exact .refl
  · refine Keeps.step (State.setReg_keeps ..) ?_
    exact .refl

theorem execTwinLinkUp_keeps (lane0 : Bool) (lane1 : Bool) (reversed : Bool) (s : State) :
    KeepsNext s (execTwinLinkUp lane0 lane1 reversed s) := by
  unfold execTwinLinkUp
  refine KeepsNext.ite (fun _ => ?_) (fun _ => ?_)
  · dsimp only
    refine KeepsNext.next ?_
    refine Keeps.step (State.afterLink_keeps ..) ?_
    refine Keeps.ite (fun _ => ?_) (fun _ => ?_)
    · refine Keeps.step (State.twinEvent_keeps ..) ?_
      refine Keeps.step (Only.keeps (Only.with_twin (d := [.twin]) (by decide) .refl) (by decide)) ?_
      refine Keeps.step (State.twinLane_keeps ..) ?_
      refine Keeps.step (State.twinLane_keeps ..) ?_
      exact .refl
    · refine Keeps.step (Only.keeps (Only.with_twin (d := [.twin]) (by decide) .refl) (by decide)) ?_
      refine Keeps.step (State.twinLane_keeps ..) ?_
      refine Keeps.step (State.twinLane_keeps ..) ?_
      exact .refl
  · refine KeepsNext.next ?_
    exact .refl

theorem execTwinLaneLoss_keeps (l : Fin 2) (errors : Nat) (s : State) : KeepsNext s (execTwinLaneLoss l errors s) := by
  unfold execTwinLaneLoss
  dsimp only
  refine KeepsNext.ite (fun _ => ?_) (fun _ => ?_)
  · refine KeepsNext.next ?_
    refine Keeps.step (State.afterLink_keeps ..) ?_
    refine Keeps.ite (fun _ => ?_) (fun _ => ?_)
    · refine Keeps.step (State.twinEvent_keeps ..) ?_
      refine Keeps.step ((State.emit_only ..).keeps (by decide)) ?_
      refine Keeps.step (State.count_keeps ..) ?_
      refine Keeps.step (State.setBits_keeps ..) ?_
      refine Keeps.step (State.bump_keeps ..) ?_
      refine Keeps.step (State.bump_keeps ..) ?_
      refine Keeps.step (State.setReg_keeps ..) ?_
      refine Keeps.step (Only.keeps (Only.with_twin (d := [.twin]) (by decide) .refl) (by decide)) ?_
      exact .refl
    · refine Keeps.step ((State.emit_only ..).keeps (by decide)) ?_
      refine Keeps.step (State.count_keeps ..) ?_
      refine Keeps.step (State.setBits_keeps ..) ?_
      refine Keeps.step (State.bump_keeps ..) ?_
      refine Keeps.step (State.bump_keeps ..) ?_
      refine Keeps.step (State.setReg_keeps ..) ?_
      refine Keeps.step (Only.keeps (Only.with_twin (d := [.twin]) (by decide) .refl) (by decide)) ?_
      exact .refl
  · refine KeepsNext.next ?_
    exact .refl

theorem State.dropTwinFrame_keeps (s : State) : Keeps s (State.dropTwinFrame s) := by
  unfold State.dropTwinFrame
  refine Keeps.ite (fun _ => ?_) (fun _ => ?_)
  · dsimp only
    refine Keeps.step (State.afterLink_keeps ..) ?_
    refine Keeps.step (State.bump_keeps ..) ?_
    refine Keeps.step (Only.keeps (Only.with_twin (d := [.twin]) (by decide) .refl) (by decide)) ?_
    exact .refl
  · exact .refl

theorem execTwinFrameDrop_keeps (errors : List Nat) (s : State) : KeepsNext s (execTwinFrameDrop errors s) := by
  unfold execTwinFrameDrop
  refine KeepsNext.ite (fun _ => ?_) (fun _ => ?_)
  · refine KeepsNext.next ?_
    refine Keeps.step (State.dropTwinFrame_keeps ..) ?_
    refine Keeps.step (State.count_keeps ..) ?_
    refine Keeps.step (State.count_keeps ..) ?_
    exact .refl
  · refine KeepsNext.next ?_
    exact .refl

theorem execHeartbeatSend_keeps (s : State) : KeepsNext s (execHeartbeatSend s) :=
  ⟨fun t ht => ((execHeartbeatSend_only ..).only t ht).keeps (by decide)⟩

theorem State.dropLag_keeps (s : State) (g : Nat) : Keeps s (State.dropLag s g) := by
  unfold State.dropLag
  split
  · exact .refl
  · split
    · refine Keeps.step (State.setGroup_keeps ..) ?_
      exact .refl
    · refine Keeps.ite (fun _ => ?_) (fun _ => ?_)
      · refine Keeps.step (State.setGroup_keeps ..) ?_
        exact .refl
      · exact .refl

theorem State.takeDuties_keeps (s : State) : Keeps s (State.takeDuties s) := by
  unfold State.takeDuties
  dsimp only
  refine Keeps.step (State.takeLoops_keeps ..) ?_
  refine Keeps.step (State.setLevel_keeps ..) ?_
  refine Keeps.with_taper_twin rfl ?_
  exact .refl

theorem State.alignBeacon_keeps (s : State) : Keeps s (State.alignBeacon s) := by
  unfold State.alignBeacon
  refine Keeps.ite (fun _ => ?_) (fun _ => ?_)
  · refine Keeps.step (State.logEvent_keeps ..) ?_
    exact .refl
  · refine Keeps.step (State.stepBeacon_keeps ..) ?_
    exact .refl

theorem State.promote_keeps (s : State) : Keeps s (State.promote s) := by
  unfold State.promote
  dsimp only
  refine Keeps.step (State.alignBeacon_keeps ..) ?_
  refine Keeps.step (State.makeAwaited_keeps ..) ?_
  refine Keeps.step (State.abandonSwap_keeps ..) ?_
  refine Keeps.step ((State.reportPromotion_only ..).keeps (by decide)) ?_
  refine Keeps.step (State.twinEvent_keeps ..) ?_
  refine Keeps.step (State.setDom_keeps ..) ?_
  refine Keeps.step (State.setReg_keeps ..) ?_
  refine Keeps.step (State.bump_keeps ..) ?_
  refine Keeps.step (State.addDoubts_keeps ..) ?_
  refine Keeps.step (State.takeDuties_keeps ..) ?_
  refine Keeps.step (Only.keeps (Only.with_twin (d := [.twin]) (by decide) .refl) (by decide)) ?_
  refine Keeps.foldl (fun t x => ?_) ?_
  · refine Keeps.step (State.dropLag_keeps ..) ?_
    exact .refl
  · refine Keeps.step ((State.twinSend_only ..).keeps (by decide)) ?_
    refine Keeps.step (Only.keeps (Only.with_role (d := [.role]) (by decide) .refl) (by decide)) ?_
    exact .refl

theorem State.primaryLost_keeps (s : State) : Keeps s (State.primaryLost s) := by
  unfold State.primaryLost
  refine Keeps.ite (fun _ => ?_) (fun _ => ?_)
  · exact .refl
  · refine Keeps.ite (fun _ => ?_) (fun _ => ?_)
    · refine Keeps.step (State.promote_keeps ..) ?_
      exact .refl
    · refine Keeps.ite (fun _ => ?_) (fun _ => ?_)
      · refine Keeps.step (State.abandonJoin_keeps ..) ?_
        exact .refl
      · refine Keeps.step (State.setCause_keeps ..) ?_
        exact .refl

theorem execTwinAliveLow_keeps (s : State) : KeepsNext s (execTwinAliveLow s) := by
  unfold execTwinAliveLow
  refine KeepsNext.ite (fun _ => ?_) (fun _ => ?_)
  · refine KeepsNext.next ?_
    exact .refl
  · refine KeepsNext.next ?_
    refine Keeps.step (State.primaryLost_keeps ..) ?_
    refine Keeps.step (Only.keeps (Only.with_pins (d := [.pins]) (by decide) .refl) (by decide)) ?_
    exact .refl

theorem execTwinAliveHigh_keeps (s : State) : KeepsNext s (execTwinAliveHigh s) :=
  ⟨fun t ht => ((execTwinAliveHigh_only ..).only t ht).keeps (by decide)⟩

theorem execLineStateTimeout_keeps (g : Fin 8) (s : State) : KeepsNext s (execLineStateTimeout g s) := by
  unfold execLineStateTimeout
  refine KeepsNext.ite (fun _ => ?_) (fun _ => ?_)
  · refine KeepsNext.next ?_
    refine Keeps.step (State.primaryLost_keeps ..) ?_
    exact .refl
  · refine KeepsNext.next ?_
    exact .refl

theorem execPromoted_keeps (lines : List Nat) (s : State) : KeepsNext s (execPromoted lines s) := by
  unfold execPromoted
  refine KeepsNext.ite (fun _ => ?_) (fun _ => ?_)
  · refine KeepsNext.next ?_
    refine Keeps.step (State.setCause_keeps ..) ?_
    exact .refl
  · refine KeepsNext.next ?_
    exact .refl

theorem execSnuffAll_keeps (causes : Nat) (s : State) : KeepsNext s (execSnuffAll causes s) := by
  unfold execSnuffAll
  refine KeepsNext.ite (fun _ => ?_) (fun _ => ?_)
  · refine KeepsNext.next ?_
    refine Keeps.step (State.enterSnuff_keeps ..) ?_
    refine Keeps.step (State.setBits_keeps ..) ?_
    exact .refl
  · refine KeepsNext.next ?_
    exact .refl

theorem State.checkDigest_keeps (s : State) : Keeps s (State.checkDigest s) := by
  unfold State.checkDigest
  refine Keeps.ite (fun _ => ?_) (fun _ => ?_)
  · exact .refl
  · dsimp only
    refine Keeps.ite (fun _ => ?_) (fun _ => ?_)
    · refine Keeps.step (State.setCause_keeps ..) ?_
      refine Keeps.step (State.setBits_keeps ..) ?_
      exact .refl
    · refine Keeps.step (State.setBits_keeps ..) ?_
      exact .refl

theorem State.hearPartner_keeps (s : State) (payload : List Byte) : Keeps s (State.hearPartner s payload) := by
  unfold State.hearPartner
  dsimp only
  refine Keeps.ite (fun _ => ?_) (fun _ => ?_)
  · refine Keeps.step (State.twinEvent_keeps ..) ?_
    refine Keeps.ite (fun _ => ?_) (fun _ => ?_)
    · refine Keeps.step (State.mateLost_keeps ..) ?_
      refine Keeps.step (State.checkDigest_keeps ..) ?_
      refine Keeps.step ((State.decideRole_only ..).keeps (by decide)) ?_
      refine Keeps.step (Only.keeps (Only.with_twin (d := [.twin]) (by decide) .refl) (by decide)) ?_
      exact .refl
    · refine Keeps.step (State.checkDigest_keeps ..) ?_
      refine Keeps.step ((State.decideRole_only ..).keeps (by decide)) ?_
      refine Keeps.step (Only.keeps (Only.with_twin (d := [.twin]) (by decide) .refl) (by decide)) ?_
      exact .refl
  · refine Keeps.ite (fun _ => ?_) (fun _ => ?_)
    · refine Keeps.step (State.mateLost_keeps ..) ?_
      refine Keeps.step (State.checkDigest_keeps ..) ?_
      refine Keeps.step ((State.decideRole_only ..).keeps (by decide)) ?_
      refine Keeps.step (Only.keeps (Only.with_twin (d := [.twin]) (by decide) .refl) (by decide)) ?_
      exact .refl
    · refine Keeps.step (State.checkDigest_keeps ..) ?_
      refine Keeps.step ((State.decideRole_only ..).keeps (by decide)) ?_
      refine Keeps.step (Only.keeps (Only.with_twin (d := [.twin]) (by decide) .refl) (by decide)) ?_
      exact .refl

theorem execHeartbeat_keeps (payload : List Byte) (s : State) : KeepsNext s (execHeartbeat payload s) := by
  unfold execHeartbeat
  refine KeepsNext.ite (fun _ => ?_) (fun _ => ?_)
  · refine KeepsNext.next ?_
    exact .refl
  · refine KeepsNext.ite (fun _ => ?_) (fun _ => ?_)
    · refine KeepsNext.next ?_
      refine Keeps.step (State.dropTwinFrame_keeps ..) ?_
      exact .refl
    · dsimp only
      refine KeepsNext.next ?_
      refine Keeps.ite (fun _ => ?_) (fun _ => ?_)
      · refine Keeps.step (State.primaryLost_keeps ..) ?_
        refine Keeps.step (State.hearPartner_keeps ..) ?_
        exact .refl
      · refine Keeps.step ((State.askJoin_only ..).keeps (by decide)) ?_
        refine Keeps.step (State.hearPartner_keeps ..) ?_
        exact .refl

theorem execHeartbeatTimeout_keeps (s : State) : KeepsNext s (execHeartbeatTimeout s) := by
  unfold execHeartbeatTimeout
  dsimp only
  refine KeepsNext.next ?_
  refine Keeps.step (State.afterLink_keeps ..) ?_
  refine Keeps.step (Only.keeps (Only.with_twin (d := [.twin]) (by decide) .refl) (by decide)) ?_
  exact .refl

theorem execRoleDecisionTimeout_keeps (s : State) : KeepsNext s (execRoleDecisionTimeout s) :=
  ⟨fun t ht => ((execRoleDecisionTimeout_only ..).only t ht).keeps (by decide)⟩

theorem execDecision_keeps (seq : Nat) (g : Fin 8) (outcome : WickOut) (s : State) : KeepsNext s (execDecision seq g outcome s) := by
  unfold execDecision
  dsimp only
  refine KeepsNext.ite (fun _ => ?_) (fun _ => ?_)
  · refine KeepsNext.next ?_
    refine Keeps.step (State.noteOutcome_keeps ..) ?_
    refine Keeps.step (Only.keeps (Only.with_twin (d := [.twin]) (by decide) .refl) (by decide)) ?_
    exact .refl
  · refine KeepsNext.next ?_
    exact .refl

theorem execPublish_keeps (x0 : Nat) (line : Nat) (recs : List Nat) (s : State) : KeepsNext s (execPublish x0 line recs s) := by
  unfold execPublish
  refine KeepsNext.ite (fun _ => ?_) (fun _ => ?_)
  · refine KeepsNext.next ?_
    exact .refl
  · dsimp only
    refine KeepsNext.ite (fun _ => ?_) (fun _ => ?_)
    · refine KeepsNext.next ?_
      refine Keeps.step (State.setCause_keeps ..) ?_
      exact .refl
    · refine KeepsNext.next ?_
      refine Keeps.step ((State.answerAwaited_only ..).keeps (by decide)) ?_
      refine Keeps.step (State.applyPublish_keeps ..) ?_
      refine Keeps.ite (fun _ => ?_) (fun _ => ?_)
      · refine Keeps.step ((State.endOverwrite_only ..).keeps (by decide)) ?_
        exact .refl
      · exact .refl

theorem execFindingMessage_keeps (recs : List Nat) (s : State) : KeepsNext s (execFindingMessage recs s) := by
  unfold execFindingMessage
  refine KeepsNext.ite (fun _ => ?_) (fun _ => ?_)
  · refine KeepsNext.next ?_
    refine Keeps.step (State.publish_keeps ..) ?_
    exact .refl
  · refine KeepsNext.next ?_
    exact .refl

theorem execModeMessage_keeps (mode : Nat) (line : Nat) (s : State) : KeepsNext s (execModeMessage mode line s) := by
  unfold execModeMessage
  refine KeepsNext.ite (fun _ => ?_) (fun _ => ?_)
  · refine KeepsNext.next ?_
    exact .refl
  · split
    · refine KeepsNext.next ?_
      refine Keeps.step (State.enterTrim_keeps ..) ?_
      exact .refl
    · refine KeepsNext.ite (fun _ => ?_) (fun _ => ?_)
      · refine KeepsNext.next ?_
        refine Keeps.step (Only.keeps (Only.with_twin (d := [.twin]) (by decide) .refl) (by decide)) ?_
        exact .refl
      · refine KeepsNext.next ?_
        refine Keeps.step (State.acceptLit_keeps ..) ?_
        exact .refl
    · refine KeepsNext.next ?_
      refine Keeps.step (State.enterPilot_keeps ..) ?_
      exact .refl
    · refine KeepsNext.next ?_
      refine Keeps.step (State.stopAtLine_keeps ..) ?_
      refine Keeps.step (Only.keeps (Only.with_twin (d := [.twin]) (by decide) .refl) (by decide)) ?_
      exact .refl
    · refine KeepsNext.next ?_
      exact .refl

theorem State.joinMade_keeps (s : State) : Keeps s (State.joinMade s) := by
  unfold State.joinMade
  split
  · exact .refl
  · dsimp only
    refine Keeps.ite (fun _ => ?_) (fun _ => ?_)
    · refine Keeps.step (State.setReg_keeps ..) ?_
      refine Keeps.step (Only.keeps (Only.with_twin (d := [.twin]) (by decide) .refl) (by decide)) ?_
      refine Keeps.step ((State.sendMode_only ..).keeps (by decide)) ?_
      refine Keeps.step ((State.twinSend_only ..).keeps (by decide)) ?_
      exact .refl
    · exact .refl

theorem execLineStateSend_keeps (s : State) : KeepsNext s (execLineStateSend s) := by
  unfold execLineStateSend
  split
  · refine KeepsNext.next ?_
    exact .refl
  · refine KeepsNext.next ?_
    refine Keeps.step (State.joinMade_keeps ..) ?_
    refine Keeps.step ((State.twinSend_only ..).keeps (by decide)) ?_
    refine Keeps.step (Only.keeps (Only.with_twin (d := [.twin]) (by decide) .refl) (by decide)) ?_
    exact .refl

theorem State.noteOffset_keeps (s : State) (x : LineSt) (edge : Option Nat) : Keeps s (State.noteOffset s x edge) := by
  unfold State.noteOffset
  split
  · exact .refl
  · refine Keeps.ite (fun _ => ?_) (fun _ => ?_)
    · dsimp only
      refine Keeps.step (State.setSreg_keeps ..) ?_
      refine Keeps.step (Only.keeps (Only.with_twin (d := [.twin]) (by decide) .refl) (by decide)) ?_
      exact .refl
    · exact .refl

theorem State.enterCopy_keeps (s : State) (x : LineSt) (conf : Option Conf) : Keeps s (State.enterCopy s x conf) := by
  unfold State.enterCopy
  dsimp only
  refine Keeps.step (Only.keeps (Only.with_twin (d := [.twin]) (by decide) .refl) (by decide)) ?_
  refine Keeps.step (State.settle_keeps ..) ?_
  exact .refl

theorem State.takeCopy_keeps (s : State) (x : LineSt) : Keeps s (State.takeCopy s x) := by
  unfold State.takeCopy
  dsimp only
  split
  · refine Keeps.step (State.enterCopy_keeps ..) ?_
    refine Keeps.step (State.noteOffset_keeps ..) ?_
    refine Keeps.step (Only.keeps (Only.with_twin (d := [.twin]) (by decide) .refl) (by decide)) ?_
    refine Keeps.ite (fun _ => ?_) (fun _ => ?_)
    · refine Keeps.step (State.decodeAll_keeps ..) ?_
      exact .refl
    · exact .refl
  · split
    · refine Keeps.step (State.settleAll_keeps ..) ?_
      refine Keeps.step (State.enterCopy_keeps ..) ?_
      refine Keeps.with_taper rfl ?_
      refine Keeps.ite (fun _ => ?_) (fun _ => ?_)
      · refine Keeps.step (State.decodeAll_keeps ..) ?_
        exact .refl
      · exact .refl
    · refine Keeps.ite (fun _ => ?_) (fun _ => ?_)
      · refine Keeps.ite (fun _ => ?_) (fun _ => ?_)
        · refine Keeps.step (State.enterCopy_keeps ..) ?_
          refine Keeps.step (Only.keeps (Only.with_twin (d := [.twin]) (by decide) .refl) (by decide)) ?_
          refine Keeps.ite (fun _ => ?_) (fun _ => ?_)
          · refine Keeps.step (State.decodeAll_keeps ..) ?_
            exact .refl
          · exact .refl
        · refine Keeps.step (Only.keeps (Only.with_twin (d := [.twin]) (by decide) .refl) (by decide)) ?_
          refine Keeps.ite (fun _ => ?_) (fun _ => ?_)
          · refine Keeps.step (State.decodeAll_keeps ..) ?_
            exact .refl
          · exact .refl
      · refine Keeps.ite (fun _ => ?_) (fun _ => ?_)
        · refine Keeps.step (State.decodeAll_keeps ..) ?_
          exact .refl
        · exact .refl

theorem execLineState_keeps (payload : List Byte) (s : State) : KeepsNext s (execLineState payload s) := by
  unfold execLineState
  refine KeepsNext.ite (fun _ => ?_) (fun _ => ?_)
  · refine KeepsNext.next ?_
    exact .refl
  · split
    · refine KeepsNext.next ?_
      refine Keeps.step (State.dropTwinFrame_keeps ..) ?_
      exact .refl
    · refine KeepsNext.ite (fun _ => ?_) (fun _ => ?_)
      · refine KeepsNext.next ?_
        refine Keeps.step (State.takeCopy_keeps ..) ?_
        exact .refl
      · refine KeepsNext.next ?_
        exact .refl

theorem State.startSwap_keeps (s : State) (p : Page) : Keeps s (State.startSwap s p) := by
  unfold State.startSwap
  dsimp only
  refine Keeps.step ((State.twinSend_only ..).keeps (by decide)) ?_
  refine Keeps.step (State.setReg_keeps ..) ?_
  refine Keeps.step (Only.keeps (Only.with_twin (d := [.twin]) (by decide) .refl) (by decide)) ?_
  exact .refl

theorem execSwapMessage_keeps (line : Nat) (page : Nat) (s : State) : KeepsNext s (execSwapMessage line page s) := by
  unfold execSwapMessage
  refine KeepsNext.ite (fun _ => ?_) (fun _ => ?_)
  · refine KeepsNext.next ?_
    refine Keeps.step (State.setReg_keeps ..) ?_
    refine Keeps.step (Only.keeps (Only.with_twin (d := [.twin]) (by decide) .refl) (by decide)) ?_
    exact .refl
  · refine KeepsNext.next ?_
    exact .refl

theorem State.swapRole_keeps (s : State) : Keeps s (State.swapRole s) := by
  unfold State.swapRole
  dsimp only
  split
  · refine Keeps.step ((State.passHeld_only ..).keeps (by decide)) ?_
    refine Keeps.step (Only.keeps (Only.with_role_twin (d := [.role, .twin]) (by decide) .refl) (by decide)) ?_
    exact .refl
  · refine Keeps.step (State.makeHeld_keeps ..) ?_
    refine Keeps.step (State.setLevel_keeps ..) ?_
    refine Keeps.step (Only.keeps (Only.with_role_twin (d := [.role, .twin]) (by decide) .refl) (by decide)) ?_
    exact .refl
  · refine Keeps.step (Only.keeps (Only.with_twin (d := [.twin]) (by decide) .refl) (by decide)) ?_
    exact .refl

theorem execRoleSwapComplete_keeps (s : State) : KeepsNext s (execRoleSwapComplete s) := by
  unfold execRoleSwapComplete
  split
  · refine KeepsNext.next ?_
    exact .refl
  · refine KeepsNext.ite (fun _ => ?_) (fun _ => ?_)
    · refine KeepsNext.next ?_
      refine Keeps.step (State.swapRole_keeps ..) ?_
      exact .refl
    · refine KeepsNext.next ?_
      exact .refl

theorem execJoinReq_keeps (rev : Nat) (fw : Nat) (digest : Nat) (s : State) : KeepsNext s (execJoinReq rev fw digest s) := by
  unfold execJoinReq
  dsimp only
  refine KeepsNext.ite (fun _ => ?_) (fun _ => ?_)
  · split
    · refine KeepsNext.next ?_
      exact .refl
    · refine KeepsNext.next ?_
      refine Keeps.step ((State.twinSend_only ..).keeps (by decide)) ?_
      refine Keeps.step (State.setReg_keeps ..) ?_
      refine Keeps.step (Only.keeps (Only.with_twin (d := [.twin]) (by decide) .refl) (by decide)) ?_
      exact .refl
  · refine KeepsNext.next ?_
    exact .refl

theorem State.moveJoin_keeps (s : State) (line : Nat) : Keeps s (State.moveJoin s line) := by
  unfold State.moveJoin
  refine Keeps.ite (fun _ => ?_) (fun _ => ?_)
  · exact .refl
  · refine Keeps.foldl (fun t x => ?_) ?_
    · refine Keeps.step (State.setReg_keeps ..) ?_
      refine Keeps.step (State.setGroup_keeps ..) ?_
      exact .refl
    · exact .refl

theorem execJoinPlan_keeps (snapshot : Nat) (line : Nat) (s : State) : KeepsNext s (execJoinPlan snapshot line s) := by
  unfold execJoinPlan
  refine KeepsNext.ite (fun _ => ?_) (fun _ => ?_)
  · refine KeepsNext.next ?_
    exact .refl
  · split
    · dsimp only
      refine KeepsNext.next ?_
      refine Keeps.step (State.setReg_keeps ..) ?_
      refine Keeps.step (Only.keeps (Only.with_twin (d := [.twin]) (by decide) .refl) (by decide)) ?_
      exact .refl
    · dsimp only
      refine KeepsNext.next ?_
      refine Keeps.step ((State.tellReady_only ..).keeps (by decide)) ?_
      refine Keeps.step (State.catchUp_keeps ..) ?_
      refine Keeps.step (State.moveJoin_keeps ..) ?_
      refine Keeps.step (State.bump_keeps ..) ?_
      refine Keeps.step (Only.keeps (Only.with_twin (d := [.twin]) (by decide) .refl) (by decide)) ?_
      exact .refl

theorem execJoinSnapshot_keeps (s : State) : KeepsNext s (execJoinSnapshot s) := by
  unfold execJoinSnapshot
  split
  · refine KeepsNext.next ?_
    exact .refl
  · dsimp only
    refine KeepsNext.ite (fun _ => ?_) (fun _ => ?_)
    · refine KeepsNext.next ?_
      refine Keeps.step (State.setReg_keeps ..) ?_
      refine Keeps.step ((State.twinSend_only ..).keeps (by decide)) ?_
      refine Keeps.foldl (fun t x => ?_) ?_
      · refine Keeps.step ((State.twinSend_only ..).keeps (by decide)) ?_
        exact .refl
      · refine Keeps.step (Only.keeps (Only.with_twin (d := [.twin]) (by decide) .refl) (by decide)) ?_
        exact .refl
    · refine KeepsNext.next ?_
      exact .refl

theorem State.startAtImages_keeps (s : State) (x1 : List (Nat × List Byte)) : Keeps s (State.startAtImages s x1) := by
  induction x1 generalizing s with | nil => ?_ | cons y l ih => ?_
  · simp only [State.startAtImages]
    exact .refl
  · simp only [State.startAtImages]
    refine Keeps.step (ih ..) ?_
    refine Keeps.step (Only.keeps (Only.with_raster (d := [.raster]) (by decide) .refl) (by decide)) ?_
    refine Keeps.step (State.setReg_keeps ..) ?_
    exact .refl

theorem execJoinImage_keeps (images : List (Nat × List Byte)) (gen : Nat) (map : List (Nat × Nat)) (s : State) :
    KeepsNext s (execJoinImage images gen map s) := by
  unfold execJoinImage
  split
  · refine KeepsNext.next ?_
    exact .refl
  · refine KeepsNext.ite (fun _ => ?_) (fun _ => ?_)
    · dsimp only
      refine KeepsNext.next ?_
      refine Keeps.step (State.regrant_keeps ..) ?_
      refine Keeps.step (State.setReg_keeps ..) ?_
      refine Keeps.step (State.setReg_keeps ..) ?_
      refine Keeps.step (Only.keeps (Only.with_health_twin (d := [.health, .twin]) (by decide) .refl) (by decide)) ?_
      refine Keeps.step (State.startAtImages_keeps ..) ?_
      refine Keeps.step (State.flushStore_keeps ..) ?_
      exact .refl
    · refine KeepsNext.next ?_
      exact .refl

theorem execJoinReady_keeps (s : State) : KeepsNext s (execJoinReady s) := by
  unfold execJoinReady
  split
  · refine KeepsNext.next ?_
    exact .refl
  · refine KeepsNext.ite (fun _ => ?_) (fun _ => ?_)
    · refine KeepsNext.next ?_
      exact .refl
    · refine KeepsNext.next ?_
      refine Keeps.step (State.joinMade_keeps ..) ?_
      refine Keeps.step (Only.keeps (Only.with_twin (d := [.twin]) (by decide) .refl) (by decide)) ?_
      exact .refl

theorem State.takeCounters_keeps (s : State) (x1 : List (Nat × Nat)) : Keeps s (State.takeCounters s x1) := by
  induction x1 generalizing s with | nil => ?_ | cons y l ih => ?_
  · simp only [State.takeCounters]
    exact .refl
  · simp only [State.takeCounters]
    refine Keeps.step (ih ..) ?_
    refine Keeps.ite (fun _ => ?_) (fun _ => ?_)
    · refine Keeps.step (State.setReg_keeps ..) ?_
      exact .refl
    · exact .refl

theorem execJoinCounters_keeps (counters : List (Nat × Nat)) (s : State) : KeepsNext s (execJoinCounters counters s) := by
  unfold execJoinCounters
  split
  · refine KeepsNext.next ?_
    exact .refl
  · refine KeepsNext.ite (fun _ => ?_) (fun _ => ?_)
    · refine KeepsNext.next ?_
      refine Keeps.step (State.takeCounters_keeps ..) ?_
      exact .refl
    · refine KeepsNext.next ?_
      exact .refl

theorem State.failJoin_keeps (s : State) : Keeps s (State.failJoin s) := by
  unfold State.failJoin
  refine Keeps.step (State.setReg_keeps ..) ?_
  refine Keeps.step (Only.keeps (Only.with_twin (d := [.twin]) (by decide) .refl) (by decide)) ?_
  exact .refl

theorem execJoinRetry_keeps (s : State) : KeepsNext s (execJoinRetry s) := by
  unfold execJoinRetry
  split
  · refine KeepsNext.next ?_
    exact .refl
  · refine KeepsNext.ite (fun _ => ?_) (fun _ => ?_)
    · refine KeepsNext.next ?_
      exact .refl
    · refine KeepsNext.ite (fun _ => ?_) (fun _ => ?_)
      · refine KeepsNext.next ?_
        refine Keeps.step (State.failJoin_keeps ..) ?_
        exact .refl
      · refine KeepsNext.ite (fun _ => ?_) (fun _ => ?_)
        · refine KeepsNext.next ?_
          exact .refl
        · dsimp only
          refine KeepsNext.next ?_
          refine Keeps.step ((State.twinSend_only ..).keeps (by decide)) ?_
          refine Keeps.step (State.bump_keeps ..) ?_
          refine Keeps.step (Only.keeps (Only.with_twin (d := [.twin]) (by decide) .refl) (by decide)) ?_
          exact .refl

theorem execJoinEnterLit_keeps (s : State) : KeepsNext s (execJoinEnterLit s) := by
  unfold execJoinEnterLit
  split
  · refine KeepsNext.ite (fun _ => ?_) (fun _ => ?_)
    · dsimp only
      refine KeepsNext.next ?_
      refine Keeps.step (State.setReg_keeps ..) ?_
      refine Keeps.step (Only.keeps (Only.with_twin (d := [.twin]) (by decide) .refl) (by decide)) ?_
      refine Keeps.step (State.enterLit_keeps ..) ?_
      exact .refl
    · refine KeepsNext.next ?_
      exact .refl
  · refine KeepsNext.next ?_
    exact .refl

/-! ### Reset -/

theorem State.carry_keeps (s : State) (old : State) (x2 : List Nat) : Keeps s (State.carry s old x2) := by
  induction x2 generalizing s old with | nil => ?_ | cons y l ih => ?_
  · simp only [State.carry]
    exact .refl
  · simp only [State.carry]
    refine Keeps.step (ih ..) ?_
    refine Keeps.step (State.setReg_keeps ..) ?_
    exact .refl

theorem State.cutFuse_keeps (s : State) : Keeps s s.cutFuse := by
  unfold State.cutFuse
  split
  · exact .refl
  · refine ⟨id, id, id, id, id, id, fun p => ?_⟩
    refine or_put _ _ _ ?_ p
    show Table.get 0 s.fuses.blown _ ||| (Table.get 0 s.fuses.blown _ ||| _) = Table.get 0 s.fuses.blown _ ||| _
    rw [← Nat.or_assoc, Nat.or_self]

theorem State.resetBase_keeps (s : State) : Keeps s s.resetBase :=
  ⟨fun _ => rfl, fun _ => rfl, fun _ => rfl, (State.ylogClose_keeps s).log, fun _ => Nat.zero_le _, fun _ => rfl, fun _ => Nat.or_self _⟩

theorem State.afterReset_keeps (s : State) : Keeps s (State.afterReset s) := by
  unfold State.afterReset
  dsimp only
  refine Keeps.step (State.carry_keeps ..) ?_
  refine Keeps.step (State.resetBase_keeps ..) ?_
  refine Keeps.step ((State.closeWindow_only ..).keeps (by decide)) ?_
  refine Keeps.step (State.cutFuse_keeps ..) ?_
  exact .refl

theorem State.markSource_keeps (s : State) (b : Nat) (sub : Nat) : Keeps s (State.markSource s b sub) := by
  unfold State.markSource
  dsimp only
  refine Keeps.step (State.setReg_keeps ..) ?_
  refine Keeps.step (State.setBits_keeps ..) ?_
  refine Keeps.step (Only.keeps (Only.with_rst (d := [.rst]) (by decide) .refl) (by decide)) ?_
  exact .refl

theorem State.powerOn_keeps (s : State) : Keeps s s.powerOn := by
  unfold State.powerOn
  refine Keeps.step ?_ (State.setRegs_keeps s (retainedKeys.map (fun k => (k, 0))))
  exact ⟨id, id, id, fun _ => rfl, id, id, fun _ => Nat.or_self _⟩

theorem State.takeReset_keeps (s : State) (b : Nat) (sub : Nat) : Keeps s (State.takeReset s b sub) := by
  unfold State.takeReset
  refine Keeps.ite (fun _ => ?_) (fun _ => ?_)
  · refine Keeps.step (State.markSource_keeps ..) ?_
    exact .refl
  · dsimp only
    refine Keeps.step (State.markSource_keeps ..) ?_
    refine Keeps.step (State.bump_keeps ..) ?_
    refine Keeps.step (State.afterReset_keeps ..) ?_
    refine Keeps.ite (fun _ => ?_) (fun _ => ?_)
    · refine Keeps.step (State.freezeAtReset_keeps ..) ?_
      exact .refl
    · exact .refl

theorem execPowerOnReset_keeps (s : State) : KeepsNext s (execPowerOnReset s) := by
  unfold execPowerOnReset
  dsimp only
  refine KeepsNext.next ?_
  refine Keeps.step (State.markSource_keeps ..) ?_
  refine Keeps.step (State.powerOn_keeps ..) ?_
  refine Keeps.ite (fun _ => ?_) (fun _ => ?_)
  · exact .refl
  · refine Keeps.step (State.afterReset_keeps ..) ?_
    exact .refl

theorem execPinReset_keeps (s : State) : KeepsNext s (execPinReset s) := by
  unfold execPinReset
  refine KeepsNext.next ?_
  refine Keeps.step (State.takeReset_keeps ..) ?_
  exact .refl

theorem execWatchdogExpiry_keeps (s : State) : KeepsNext s (execWatchdogExpiry s) := by
  unfold execWatchdogExpiry
  refine KeepsNext.ite (fun _ => ?_) (fun _ => ?_)
  · refine KeepsNext.next ?_
    refine Keeps.step (State.takeReset_keeps ..) ?_
    exact .refl
  · refine KeepsNext.next ?_
    exact .refl

theorem execSnuffEscReset_keeps (padHigh : Bool) (s : State) : KeepsNext s (execSnuffEscReset padHigh s) := by
  unfold execSnuffEscReset
  refine KeepsNext.ite (fun _ => ?_) (fun _ => ?_)
  · refine KeepsNext.next ?_
    refine Keeps.step (State.takeReset_keeps ..) ?_
    exact .refl
  · refine KeepsNext.next ?_
    exact .refl

theorem execSupplyBrownout_keeps (supply : Supply) (s : State) : KeepsNext s (execSupplyBrownout supply s) := by
  unfold execSupplyBrownout
  refine KeepsNext.next ?_
  refine Keeps.step (State.takeReset_keeps ..) ?_
  exact .refl

theorem execRefClkLoss_keeps (s : State) : KeepsNext s (execRefClkLoss s) := by
  unfold execRefClkLoss
  refine KeepsNext.ite (fun _ => ?_) (fun _ => ?_)
  · refine KeepsNext.next ?_
    refine Keeps.step (State.takeReset_keeps ..) ?_
    refine Keeps.with_clock rfl ?_
    exact .refl
  · refine KeepsNext.next ?_
    exact .refl

theorem execIgrelReset_keeps (s : State) : KeepsNext s (execIgrelReset s) := by
  unfold execIgrelReset
  refine KeepsNext.ite (fun _ => ?_) (fun _ => ?_)
  · refine KeepsNext.next ?_
    refine Keeps.step (State.takeReset_keeps ..) ?_
    exact .refl
  · refine KeepsNext.next ?_
    exact .refl

theorem execTwinResetRequest_keeps (s : State) : KeepsNext s (execTwinResetRequest s) := by
  unfold execTwinResetRequest
  refine KeepsNext.ite (fun _ => ?_) (fun _ => ?_)
  · refine KeepsNext.next ?_
    exact .refl
  · refine KeepsNext.ite (fun _ => ?_) (fun _ => ?_)
    · refine KeepsNext.next ?_
      refine Keeps.step (State.takeReset_keeps ..) ?_
      exact .refl
    · refine KeepsNext.next ?_
      refine Keeps.step (State.logEvent_keeps ..) ?_
      exact .refl

theorem execResetRelease_keeps (roles : List Nat) (testEn : Bool) (s : State) : KeepsNext s (execResetRelease roles testEn s) := by
  unfold execResetRelease
  refine KeepsNext.ite (fun _ => ?_) (fun _ => ?_)
  · refine KeepsNext.next ?_
    exact .refl
  · dsimp only
    refine KeepsNext.next ?_
    refine Keeps.with_role_strapped_clock_rst_fuses_jtag rfl rfl ?_
    exact .refl

theorem execPllLock_keeps (s : State) : KeepsNext s (execPllLock s) :=
  ⟨fun t ht => ((execPllLock_only ..).only t ht).keeps (by decide)⟩

theorem execServiceCoreRelease_keeps (s : State) : KeepsNext s (execServiceCoreRelease s) :=
  ⟨fun t ht => ((execServiceCoreRelease_only ..).only t ht).keeps (by decide)⟩

theorem State.startFirmware_keeps (s : State) (slot : Nat) (status : Nat) (img : List Byte) :
    Keeps s (State.startFirmware s slot status img) := by
  unfold State.startFirmware
  dsimp only
  refine Keeps.step (Only.keeps (Only.with_rst (d := [.rst]) (by decide) .refl) (by decide)) ?_
  refine Keeps.step (State.setReg_keeps ..) ?_
  refine Keeps.step (State.setReg_keeps ..) ?_
  exact .refl

theorem State.noFirmware_keeps (s : State) (status : Nat) : Keeps s (State.noFirmware s status) := by
  unfold State.noFirmware
  dsimp only
  refine Keeps.ite (fun _ => ?_) (fun _ => ?_)
  · refine Keeps.step (Only.keeps (Only.with_rst_pins_igrel (d := [.rst, .pins, .igrel]) (by decide) .refl) (by decide)) ?_
    refine Keeps.step (State.setReg_keeps ..) ?_
    exact .refl
  · refine Keeps.step (Only.keeps (Only.with_rst (d := [.rst]) (by decide) .refl) (by decide)) ?_
    refine Keeps.step (State.setReg_keeps ..) ?_
    exact .refl

theorem execBootRomVerify_keeps (readsValid : Bool) (s : State) : KeepsNext s (execBootRomVerify readsValid s) := by
  unfold execBootRomVerify
  refine KeepsNext.ite (fun _ => ?_) (fun _ => ?_)
  · refine KeepsNext.next ?_
    exact .refl
  · dsimp only
    refine KeepsNext.ite (fun _ => ?_) (fun _ => ?_)
    · refine KeepsNext.next ?_
      refine Keeps.step (State.noFirmware_keeps ..) ?_
      exact .refl
    · refine KeepsNext.ite (fun _ => ?_) (fun _ => ?_)
      · refine KeepsNext.next ?_
        refine Keeps.step (State.startFirmware_keeps ..) ?_
        exact .refl
      · refine KeepsNext.next ?_
        refine Keeps.step (State.startFirmware_keeps ..) ?_
        exact .refl

theorem execBootRetry_keeps (s : State) : KeepsNext s (execBootRetry s) :=
  ⟨fun t ht => ((execBootRetry_only ..).only t ht).keeps (by decide)⟩

theorem State.takeSettings_keeps (s : State) (regs : Table Nat) (doms : Table (List Byte)) : Keeps s (s.takeSettings regs doms) :=
  ⟨fun h => mergeRegs_wf _ _ (Table.wfBy_filter _ _ _ h), fun h => mergeDoms_wf _ _ (Table.wfBy_filter _ _ _ h), id, id, id, id,
    fun _ => Nat.or_self _⟩

theorem State.firstConfigured_keeps (s : State) : Keeps s s.firstConfigured := by
  unfold State.firstConfigured
  extract_lets s1 y z s2 s3
  have h2 : Keeps s1 s2 := Only.keeps (Only.with_rst_igrel (d := [.rst, .igrel]) (by decide) .refl) (by decide)
  have h3 : Keeps s2 s3 := Keeps.step (State.logEvent_keeps ..) ((State.drivePads_only ..).keeps (by decide))
  exact Keeps.step (State.logEvent_keeps ..) (Keeps.step h3 (Keeps.step h2 (State.clearBits_keeps ..)))

theorem execConfigLoad_keeps (s : State) : KeepsNext s (execConfigLoad s) := by
  unfold execConfigLoad
  refine KeepsNext.ite (fun _ => KeepsNext.next .refl) (fun _ => ?_)
  extract_lets y z s1 s2
  have h1 : Keeps s s1 := by
    simp only [s1]
    split
    · exact State.takeSettings_keeps ..
    · exact Keeps.step (Only.keeps (Only.with_rst (d := [.rst]) (by decide) .refl) (by decide)) (State.setBits_keeps ..)
  have h2 : Keeps s s2 := Keeps.step (State.firstConfigured_keeps ..)
    (Keeps.step ((State.takeShadows_only ..).keeps (by decide)) (Keeps.step (State.ringCredits_keeps ..) h1))
  exact KeepsNext.ite (fun _ => KeepsNext.next h2) (fun _ => KeepsNext.next (Keeps.step (State.enterKindle_keeps ..) h2))

theorem State.lanternReset_keeps (s : State) : Keeps s (State.lanternReset s) := by
  unfold State.lanternReset
  dsimp only
  refine Keeps.step (Only.keeps (Only.with_lantern (d := [.lantern]) (by decide) .refl) (by decide)) ?_
  refine Keeps.ite (fun _ => ?_) (fun _ => ?_)
  · refine Keeps.step (State.endRun_keeps ..) ?_
    exact .refl
  · exact .refl

theorem State.twinReset_keeps (s : State) : Keeps s s.twinReset := by
  unfold State.twinReset
  extract_lets was y s1
  have h1 : Keeps s s1 := Only.keeps (Only.with_twin (d := [.twin]) (by decide) .refl) (by decide)
  exact Keeps.step (State.afterLink_keeps ..) (Keeps.step (State.setReg_keeps ..) (Keeps.step (State.setReg_keeps ..) h1))

theorem State.rasterReset_keeps (s : State) : Keeps s (State.rasterReset s) := by
  unfold State.rasterReset
  dsimp only
  refine Keeps.step (State.setReg_keeps ..) ?_
  refine Keeps.step (State.rasterLanes_keeps ..) ?_
  refine Keeps.step (Only.keeps (Only.with_raster (d := [.raster]) (by decide) .refl) (by decide)) ?_
  exact .refl

theorem State.taperReset_keeps (s : State) : Keeps s (State.taperReset s) := by
  unfold State.taperReset
  dsimp only
  split
  · refine Keeps.step (State.dropStrobes_keeps ..) ?_
    exact .refl
  · refine Keeps.step (State.endMaint_keeps ..) ?_
    refine Keeps.step (State.dropStrobes_keeps ..) ?_
    exact .refl

theorem State.motionReset_keeps (s : State) : Keeps s (State.motionReset s) := by
  unfold State.motionReset
  refine Keeps.step ((State.emitAll_only ..).keeps (by decide)) ?_
  refine Keeps.step (State.stopAxes_keeps ..) ?_
  exact .refl

theorem State.holdBlock_keeps (s : State) (b : Nat) : Keeps s (State.holdBlock s b) := by
  unfold State.holdBlock
  split
  · refine Keeps.step (State.rasterReset_keeps ..) ?_
    exact .refl
  · refine Keeps.step (Only.keeps (Only.with_decomp (d := [.decomp]) (by decide) .refl) (by decide)) ?_
    exact .refl
  · refine Keeps.step (State.taperReset_keeps ..) ?_
    exact .refl
  · refine Keeps.step (State.headReset_keeps ..) ?_
    exact .refl
  · refine Keeps.step (State.twinReset_keeps ..) ?_
    exact .refl
  · refine Keeps.step (State.lanternReset_keeps ..) ?_
    exact .refl
  · refine Keeps.step ((State.ledsLow_only ..).keeps (by decide)) ?_
    refine Keeps.step ((State.darken_only ..).keeps (by decide)) ?_
    exact .refl
  · refine Keeps.step (State.uploadReset_keeps ..) ?_
    exact .refl
  · refine Keeps.step (State.checkReset_keeps ..) ?_
    exact .refl
  · refine Keeps.with_dram rfl ?_
    exact .refl
  · refine Keeps.step (State.wickReset_keeps ..) ?_
    exact .refl
  · refine Keeps.step (State.motionReset_keeps ..) ?_
    exact .refl
  · exact .refl

theorem State.holdBlocks_keeps (s : State) (x1 : List Nat) : Keeps s (State.holdBlocks s x1) := by
  induction x1 generalizing s with | nil => ?_ | cons y l ih => ?_
  · simp only [State.holdBlocks]
    exact .refl
  · simp only [State.holdBlocks]
    refine Keeps.step (ih ..) ?_
    refine Keeps.step (State.holdBlock_keeps ..) ?_
    exact .refl

theorem State.loopRelease_keeps (s : State) : Keeps s s.loopRelease :=
  ⟨Table.wfBy_filter _ _ _, Table.wfBy_filter _ _ _, id, id, id, id, fun _ => Nat.or_self _⟩

theorem State.beaconRelease_keeps (s : State) : Keeps s s.beaconRelease := by
  refine Keeps.step (State.setReg_keeps ..) ?_
  exact ⟨id, id, id, id, id, fun _ => rfl, fun _ => Nat.or_self _⟩

theorem State.releaseBlock_keeps (s : State) (b : Nat) : Keeps s (State.releaseBlock s b) := by
  unfold State.releaseBlock
  split
  · refine Keeps.ite (fun _ => ?_) (fun _ => ?_)
    · refine Keeps.step ((State.driveFireEn_only ..).keeps (by decide)) ?_
      exact .refl
    · exact .refl
  · refine Keeps.step (State.startChannel_keeps ..) ?_
    refine Keeps.step (State.startChannel_keeps ..) ?_
    exact .refl
  · refine Keeps.step (State.uploadRelease_keeps ..) ?_
    exact .refl
  · refine Keeps.step ((State.wickRelease_only ..).keeps (by decide)) ?_
    exact .refl
  · refine Keeps.step (State.loopRelease_keeps ..) ?_
    exact .refl
  · refine Keeps.foldl (fun t x => ?_) ?_
    · dsimp only
      refine Keeps.step ((State.setAxis_only ..).keeps (by decide)) ?_
      exact .refl
    · exact .refl
  · refine Keeps.step (State.beaconRelease_keeps ..) ?_
    exact .refl
  · exact .refl

theorem State.writeBlockReset_keeps (s : State) (v : Nat) : Keeps s (State.writeBlockReset s v) := by
  unfold State.writeBlockReset
  dsimp only
  refine Keeps.step (State.beginLinks_keeps ..) ?_
  refine Keeps.step (State.pendBlocks_keeps ..) ?_
  refine Keeps.step (State.holdBlocks_keeps ..) ?_
  refine Keeps.step (Only.keeps (Only.with_rst (d := [.rst]) (by decide) .refl) (by decide)) ?_
  refine Keeps.step (State.clearBits_keeps ..) ?_
  refine Keeps.step (State.setReg_keeps ..) ?_
  exact .refl

theorem execBlockRelease_keeps (b : Fin 17) (clocks : ClockView) (s : State) : KeepsNext s (execBlockRelease b clocks s) := by
  unfold execBlockRelease
  refine KeepsNext.ite (fun _ => ?_) (fun _ => ?_)
  · dsimp only
    refine KeepsNext.next ?_
    refine Keeps.step (State.releaseBlock_keeps ..) ?_
    refine Keeps.step (State.clearBits_keeps ..) ?_
    refine Keeps.step (Only.keeps (Only.with_rst (d := [.rst]) (by decide) .refl) (by decide)) ?_
    exact .refl
  · refine KeepsNext.next ?_
    exact .refl

theorem execReleasePended_keeps (b : Fin 17) (s : State) : KeepsNext s (execReleasePended b s) := by
  unfold execReleasePended
  refine KeepsNext.ite (fun _ => ?_) (fun _ => ?_)
  · dsimp only
    refine KeepsNext.next ?_
    refine Keeps.step (State.logEvent_keeps ..) ?_
    refine Keeps.step (Only.keeps (Only.with_rst (d := [.rst]) (by decide) .refl) (by decide)) ?_
    exact .refl
  · refine KeepsNext.next ?_
    exact .refl

theorem execFsiSample_keeps (sites : List Nat) (s : State) : KeepsNext s (execFsiSample sites s) := by
  unfold execFsiSample
  refine KeepsNext.ite (fun _ => ?_) (fun _ => ?_)
  · refine KeepsNext.next ?_
    exact .refl
  · split
    dsimp only
    refine KeepsNext.next ?_
    refine Keeps.ite (fun _ => ?_) (fun _ => ?_)
    · refine Keeps.step (State.logEvent_keeps ..) ?_
      refine Keeps.step (Only.keeps (Only.with_die (d := [.die]) (by decide) .refl) (by decide)) ?_
      refine Keeps.ite (fun _ => ?_) (fun _ => ?_)
      · refine Keeps.step (State.setReg_keeps ..) ?_
        refine Keeps.step (State.setReg_keeps ..) ?_
        refine Keeps.step (State.setReg_keeps ..) ?_
        exact .refl
      · refine Keeps.step (State.setReg_keeps ..) ?_
        refine Keeps.step (State.setReg_keeps ..) ?_
        exact .refl
    · refine Keeps.step (Only.keeps (Only.with_die (d := [.die]) (by decide) .refl) (by decide)) ?_
      refine Keeps.ite (fun _ => ?_) (fun _ => ?_)
      · refine Keeps.step (State.setReg_keeps ..) ?_
        refine Keeps.step (State.setReg_keeps ..) ?_
        refine Keeps.step (State.setReg_keeps ..) ?_
        exact .refl
      · refine Keeps.step (State.setReg_keeps ..) ?_
        refine Keeps.step (State.setReg_keeps ..) ?_
        exact .refl

theorem execDieTempSample_keeps (sensor : Fin 4) (t : Int) (s : State) : KeepsNext s (execDieTempSample sensor t s) := by
  unfold execDieTempSample
  dsimp only
  refine KeepsNext.ite (fun _ => ?_) (fun _ => ?_)
  · refine KeepsNext.next ?_
    refine Keeps.step (State.takeReset_keeps ..) ?_
    refine Keeps.step (Only.keeps (Only.with_die (d := [.die]) (by decide) .refl) (by decide)) ?_
    exact .refl
  · refine KeepsNext.next ?_
    refine Keeps.step (State.standing_keeps ..) ?_
    refine Keeps.step (Only.keeps (Only.with_die (d := [.die]) (by decide) .refl) (by decide)) ?_
    exact .refl

theorem execCdcStall_keeps (crossing : Nat) (firingPath : Bool) (s : State) : KeepsNext s (execCdcStall crossing firingPath s) := by
  unfold execCdcStall
  refine KeepsNext.ite (fun _ => ?_) (fun _ => ?_)
  · refine KeepsNext.next ?_
    exact .refl
  · dsimp only
    refine KeepsNext.next ?_
    refine Keeps.step (State.logEvent_keeps ..) ?_
    refine Keeps.ite (fun _ => ?_) (fun _ => ?_)
    · refine Keeps.step (State.setCause_keeps ..) ?_
      exact .refl
    · exact .refl

/-! ### Fuse -/

theorem State.startFuse_keeps (s : State) (h : Hdr) (payload : List Byte) (code : Nat) : Keeps s (State.startFuse s h payload code) := by
  unfold State.startFuse
  dsimp only
  refine Keeps.with_fuses_igrel rfl ?_
  exact .refl

theorem execFuseProgramComplete_keeps (blown : Nat) (s : State) : KeepsNext s (execFuseProgramComplete blown s) := by
  unfold execFuseProgramComplete
  split
  · exact KeepsNext.next .refl
  · refine KeepsNext.next ?_
    refine Keeps.step ((State.answerFuse_only ..).keeps (by decide)) ?_
    refine ⟨id, id, id, id, id, id, fun p => ?_⟩
    refine or_put _ _ _ ?_ p
    show Table.get 0 s.fuses.blown _ ||| (Table.get 0 s.fuses.blown _ ||| _) = _
    rw [← Nat.or_assoc, Nat.or_self]
    rfl

theorem execJtagExtest_keeps (s : State) : KeepsNext s (execJtagExtest s) :=
  ⟨fun t ht => ((execJtagExtest_only ..).only t ht).keeps (by decide)⟩

theorem execJtagClamp_keeps (s : State) : KeepsNext s (execJtagClamp s) :=
  ⟨fun t ht => ((execJtagClamp_only ..).only t ht).keeps (by decide)⟩

theorem execJtagIdcode_keeps (s : State) : KeepsNext s (execJtagIdcode s) :=
  ⟨fun t ht => ((execJtagIdcode_only ..).only t ht).keeps (by decide)⟩

theorem execJtagSamplePreload_keeps (cells : List Bool) (s : State) : KeepsNext s (execJtagSamplePreload cells s) :=
  ⟨fun t ht => ((execJtagSamplePreload_only ..).only t ht).keeps (by decide)⟩

theorem execJtagHighz_keeps (s : State) : KeepsNext s (execJtagHighz s) :=
  ⟨fun t ht => ((execJtagHighz_only ..).only t ht).keeps (by decide)⟩

theorem execJtagBypass_keeps (code : Nat) (s : State) : KeepsNext s (execJtagBypass code s) :=
  ⟨fun t ht => ((execJtagBypass_only ..).only t ht).keeps (by decide)⟩

theorem execJtagTapReset_keeps (s : State) : KeepsNext s (execJtagTapReset s) :=
  ⟨fun t ht => ((execJtagTapReset_only ..).only t ht).keeps (by decide)⟩

/-! ### Reads -/

theorem State.readEntry_keeps (s : State) (counted : Bool) (key : Nat) : Keeps s (State.readEntry s counted key).2 := by
  unfold State.readEntry
  split
  · dsimp only
    exact .refl
  · split
    · dsimp only
      exact .refl
    · split
      · dsimp only
        exact .refl
      · split
        · dsimp only
          refine Keeps.ite (fun _ => ?_) (fun _ => ?_)
          · refine Keeps.step (State.conflict_keeps ..) ?_
            exact .refl
          · exact .refl
        · split
          dsimp only
          refine Keeps.of_snd (by assumption) ?_
          refine Keeps.step ((State.readObj_only ..).keeps (by decide)) ?_
          exact .refl

theorem State.readEntries_keeps (s : State) (counted : Bool) (x2 : List Nat) : Keeps s (State.readEntries s counted x2).2 := by
  induction x2 generalizing s counted with | nil => ?_ | cons y l ih => ?_
  · simp only [State.readEntries]
    exact .refl
  · simp only [State.readEntries]
    refine Keeps.step (ih ..) ?_
    refine Keeps.step (State.readEntry_keeps ..) ?_
    exact .refl

theorem State.readReply_keeps (s : State) (counted : Bool) (keys : List Nat) : Keeps s (State.readReply s counted keys).2 := by
  unfold State.readReply
  split
  dsimp only
  refine Keeps.of_snd (by assumption) ?_
  refine Keeps.step (State.readEntries_keeps ..) ?_
  exact .refl

/-! ### Effects -/

theorem State.changeMode_keeps (s : State) (v : Nat) : Keeps s (State.changeMode s v) := by
  unfold State.changeMode
  dsimp only
  split
  · refine Keeps.step (State.enterKindle_keeps ..) ?_
    exact .refl
  · refine Keeps.step ((State.sendMode_only ..).keeps (by decide)) ?_
    refine Keeps.step (State.enterPilot_keeps ..) ?_
    exact .refl
  · exact .refl
  · refine Keeps.step ((State.sendMode_only ..).keeps (by decide)) ?_
    refine Keeps.step (State.enterTrim_keeps ..) ?_
    exact .refl
  · refine Keeps.step ((State.sendMode_only ..).keeps (by decide)) ?_
    refine Keeps.step (State.acceptLit_keeps ..) ?_
    exact .refl
  · refine Keeps.step ((State.sendMode_only ..).keeps (by decide)) ?_
    refine Keeps.step (State.enterPilot_keeps ..) ?_
    exact .refl
  · refine Keeps.step ((State.sendMode_only ..).keeps (by decide)) ?_
    refine Keeps.step (State.stopLit_keeps ..) ?_
    exact .refl
  · exact .refl
  · exact .refl
  · refine Keeps.step (State.setCause_keeps ..) ?_
    exact .refl
  · exact .refl

theorem State.takeModeRequest_keeps (s : State) (v : Nat) : Keeps s (State.takeModeRequest s v) := by
  unfold State.takeModeRequest
  refine Keeps.ite (fun _ => ?_) (fun _ => ?_)
  · refine Keeps.step (State.changeMode_keeps ..) ?_
    exact .refl
  · refine Keeps.step (Only.keeps (Only.with_rst (d := [.rst]) (by decide) .refl) (by decide)) ?_
    exact .refl

theorem State.makeDue_keeps (s : State) : Keeps s (State.makeDue s) := by
  unfold State.makeDue
  split
  · exact .refl
  · refine Keeps.ite (fun _ => ?_) (fun _ => ?_)
    · dsimp only
      refine Keeps.ite (fun _ => ?_) (fun _ => ?_)
      · refine Keeps.step (Only.keeps (Only.with_rst (d := [.rst]) (by decide) .refl) (by decide)) ?_
        exact .refl
      · refine Keeps.step (State.changeMode_keeps ..) ?_
        refine Keeps.step (Only.keeps (Only.with_rst (d := [.rst]) (by decide) .refl) (by decide)) ?_
        exact .refl
    · exact .refl

theorem State.writeMode_keeps (s : State) (key : Nat) (v : Nat) : Keeps s (State.writeMode s key v) := by
  unfold State.writeMode
  refine Keeps.ite (fun _ => ?_) (fun _ => ?_)
  · refine Keeps.step (State.takeModeRequest_keeps ..) ?_
    exact .refl
  · refine Keeps.ite (fun _ => ?_) (fun _ => ?_)
    · refine Keeps.step (State.standing_keeps ..) ?_
      refine Keeps.step (State.clearFlag_keeps ..) ?_
      exact .refl
    · refine Keeps.step (State.setReg_keeps ..) ?_
      exact .refl

theorem State.writeReset_keeps (s : State) (key : Nat) (v : Nat) : Keeps s (State.writeReset s key v) := by
  unfold State.writeReset
  refine Keeps.ite (fun _ => ?_) (fun _ => ?_)
  · refine Keeps.step (State.clearFlag_keeps ..) ?_
    exact .refl
  · refine Keeps.ite (fun _ => ?_) (fun _ => ?_)
    · refine Keeps.step (Only.keeps (Only.with_rst (d := [.rst]) (by decide) .refl) (by decide)) ?_
      exact .refl
    · refine Keeps.ite (fun _ => ?_) (fun _ => ?_)
      · refine Keeps.step (State.writeBlockReset_keeps ..) ?_
        exact .refl
      · refine Keeps.ite (fun _ => ?_) (fun _ => ?_)
        · refine Keeps.ite (fun _ => ?_) (fun _ => ?_)
          · refine Keeps.with_fuses rfl ?_
            exact .refl
          · exact .refl
        · refine Keeps.step (State.setReg_keeps ..) ?_
          exact .refl

theorem State.clearFsiMin_keeps (s : State) (v : Nat) : Keeps s (State.clearFsiMin s v) := by
  unfold State.clearFsiMin
  refine Keeps.ite (fun _ => ?_) (fun _ => ?_)
  · refine Keeps.step (State.setReg_keeps ..) ?_
    exact .refl
  · exact .refl

theorem State.takeFlush_keeps (s : State) : Keeps s (State.takeFlush s) := by
  unfold State.takeFlush
  dsimp only
  refine Keeps.step (State.regrant_keeps ..) ?_
  refine Keeps.step (Only.keeps (Only.with_check (d := [.check]) (by decide) .refl) (by decide)) ?_
  refine Keeps.step (State.flushStore_keeps ..) ?_
  exact .refl

theorem State.speedLimit_keeps (s : State) : Keeps s (State.speedLimit s) := by
  unfold State.speedLimit
  dsimp only
  refine Keeps.ite (fun _ => ?_) (fun _ => ?_)
  · exact .refl
  · refine Keeps.ite (fun _ => ?_) (fun _ => ?_)
    · refine Keeps.step (Only.keeps (Only.with_pins (d := [.pins]) (by decide) .refl) (by decide)) ?_
      refine Keeps.step (State.setReg_keeps ..) ?_
      exact .refl
    · refine Keeps.ite (fun _ => ?_) (fun _ => ?_)
      · refine Keeps.step (Only.keeps (Only.with_pins (d := [.pins]) (by decide) .refl) (by decide)) ?_
        refine Keeps.step (State.setReg_keeps ..) ?_
        exact .refl
      · exact .refl

theorem execFirmwareTick_keeps (s : State) : KeepsNext s (execFirmwareTick s) := by
  unfold execFirmwareTick
  refine KeepsNext.ite (fun _ => ?_) (fun _ => ?_)
  · dsimp only
    refine KeepsNext.next ?_
    refine Keeps.ite (fun _ => ?_) (fun _ => ?_)
    · refine Keeps.step (State.speedLimit_keeps ..) ?_
      refine Keeps.step (State.makeDue_keeps ..) ?_
      refine Keeps.step (Only.keeps (Only.with_rst (d := [.rst]) (by decide) .refl) (by decide)) ?_
      exact .refl
    · refine Keeps.step (State.makeDue_keeps ..) ?_
      refine Keeps.step (Only.keeps (Only.with_rst (d := [.rst]) (by decide) .refl) (by decide)) ?_
      exact .refl
  · refine KeepsNext.next ?_
    exact .refl

theorem State.startMaint_keeps (s : State) (v : Nat) : Keeps s (State.startMaint s v) := by
  unfold State.startMaint
  refine Keeps.ite (fun _ => ?_) (fun _ => ?_)
  · exact .refl
  · dsimp only
    refine Keeps.step (State.request_keeps ..) ?_
    refine Keeps.with_taper rfl ?_
    exact .refl

theorem State.enableChannel_keeps (s : State) (ch : Nat) (v : Nat) : Keeps s (State.enableChannel s ch v) := by
  unfold State.enableChannel
  dsimp only
  refine Keeps.ite (fun _ => ?_) (fun _ => ?_)
  · refine Keeps.step (State.startChannel_keeps ..) ?_
    refine Keeps.step (State.setReg_keeps ..) ?_
    exact .refl
  · refine Keeps.step (State.setReg_keeps ..) ?_
    exact .refl

theorem State.writeTaper_keeps (s : State) (key : Nat) (v : Nat) : Keeps s (State.writeTaper s key v) := by
  unfold State.writeTaper
  refine Keeps.ite (fun _ => ?_) (fun _ => ?_)
  · refine Keeps.step (State.enableChannel_keeps ..) ?_
    exact .refl
  · refine Keeps.ite (fun _ => ?_) (fun _ => ?_)
    · refine Keeps.step (State.enableChannel_keeps ..) ?_
      exact .refl
    · refine Keeps.ite (fun _ => ?_) (fun _ => ?_)
      · refine Keeps.step ((State.monRestart_only ..).keeps (by decide)) ?_
        refine Keeps.step (State.setReg_keeps ..) ?_
        exact .refl
      · refine Keeps.ite (fun _ => ?_) (fun _ => ?_)
        · refine Keeps.step (State.startMaint_keeps ..) ?_
          exact .refl
        · refine Keeps.step (State.setReg_keeps ..) ?_
          exact .refl

theorem State.writeLane_keeps (s : State) (key : Nat) (v : Nat) : Keeps s (State.writeLane s key v) := by
  unfold State.writeLane
  dsimp only
  refine Keeps.ite (fun _ => ?_) (fun _ => ?_)
  · refine Keeps.step ((State.sendCtrl_only ..).keeps (by decide)) ?_
    refine Keeps.step (State.setReg_keeps ..) ?_
    exact .refl
  · refine Keeps.step (State.setReg_keeps ..) ?_
    exact .refl

theorem State.requestSwap_keeps (s : State) (v : Nat) : Keeps s (State.requestSwap s v) := by
  unfold State.requestSwap
  refine Keeps.ite (fun _ => ?_) (fun _ => ?_)
  · split
    · refine Keeps.step (State.startSwap_keeps ..) ?_
      exact .refl
    · exact .refl
  · exact .refl

theorem State.writeCamera_keeps (s : State) (key : Nat) (v : Nat) : Keeps s (State.writeCamera s key v) := by
  unfold State.writeCamera
  refine Keeps.ite (fun _ => ?_) (fun _ => ?_)
  · refine Keeps.step (State.selectTap_keeps ..) ?_
    exact .refl
  · split
    · refine Keeps.ite (fun _ => ?_) (fun _ => ?_)
      · refine Keeps.step (State.commitCam_keeps ..) ?_
        exact .refl
      · exact .refl
    · refine Keeps.step (State.setReg_keeps ..) ?_
      exact .refl

theorem State.enableScrub_keeps (s : State) (v : Nat) : Keeps s (State.enableScrub s v) := by
  unfold State.enableScrub
  dsimp only
  refine Keeps.ite (fun _ => ?_) (fun _ => ?_)
  · refine Keeps.step (Only.keeps (Only.with_check (d := [.check]) (by decide) .refl) (by decide)) ?_
    refine Keeps.step (State.setReg_keeps ..) ?_
    exact .refl
  · refine Keeps.step (State.setReg_keeps ..) ?_
    exact .refl

theorem State.selectFreq_keeps (s : State) (v : Nat) : Keeps s (State.selectFreq s v) := by
  unfold State.selectFreq
  refine Keeps.step (State.selectSet_keeps ..) ?_
  refine Keeps.step (State.setReg_keeps ..) ?_
  exact .refl

theorem State.enableLoop_keeps (s : State) (i : Nat) (v : Nat) : Keeps s (State.enableLoop s i v) := by
  unfold State.enableLoop
  dsimp only
  refine Keeps.ite (fun _ => ?_) (fun _ => ?_)
  · refine Keeps.step ((State.setLoop_only ..).keeps (by decide)) ?_
    refine Keeps.step (State.setReg_keeps ..) ?_
    exact .refl
  · refine Keeps.step (State.setReg_keeps ..) ?_
    exact .refl

theorem State.writeSetpoint_keeps (s : State) (i : Nat) (v : Nat) : Keeps s (State.writeSetpoint s i v) := by
  unfold State.writeSetpoint
  refine Keeps.step ((State.setLoop_only ..).keeps (by decide)) ?_
  refine Keeps.step (State.setReg_keeps ..) ?_
  exact .refl

theorem State.writeLoop_keeps (s : State) (i : Nat) (key : Nat) (v : Nat) : Keeps s (State.writeLoop s i key v) := by
  unfold State.writeLoop
  refine Keeps.ite (fun _ => ?_) (fun _ => ?_)
  · refine Keeps.step (State.enableLoop_keeps ..) ?_
    exact .refl
  · refine Keeps.ite (fun _ => ?_) (fun _ => ?_)
    · refine Keeps.step (State.writeSetpoint_keeps ..) ?_
      exact .refl
    · refine Keeps.ite (fun _ => ?_) (fun _ => ?_)
      · refine Keeps.step ((State.swapBank_only ..).keeps (by decide)) ?_
        exact .refl
      · refine Keeps.step (State.setReg_keeps ..) ?_
        exact .refl

theorem State.takeStop_keeps (s : State) (a : Nat) (v : Nat) : Keeps s (State.takeStop s a v) := by
  unfold State.takeStop
  refine Keeps.ite (fun _ => ?_) (fun _ => ?_)
  · refine Keeps.step ((State.halt_only ..).keeps (by decide)) ?_
    refine Keeps.step (State.stopPair_keeps ..) ?_
    exact .refl
  · exact .refl

theorem State.takeStopAll_keeps (s : State) (v : Nat) : Keeps s (State.takeStopAll s v) := by
  unfold State.takeStopAll
  refine Keeps.ite (fun _ => ?_) (fun _ => ?_)
  · refine Keeps.step (State.endPurge_keeps ..) ?_
    refine Keeps.step ((State.halt_only ..).keeps (by decide)) ?_
    refine Keeps.step (State.stopAxes_keeps ..) ?_
    exact .refl
  · exact .refl

theorem State.writeLimit_keeps (s : State) (a : Nat) (key : Nat) (v : Nat) : Keeps s (State.writeLimit s a key v) := by
  unfold State.writeLimit
  dsimp only
  refine Keeps.ite (fun _ => ?_) (fun _ => ?_)
  · refine Keeps.step (State.replan_keeps ..) ?_
    refine Keeps.step (State.setReg_keeps ..) ?_
    exact .refl
  · refine Keeps.step (State.setReg_keeps ..) ?_
    exact .refl

theorem State.writeAxis_keeps (s : State) (a : Nat) (place : Nat) (key : Nat) (v : Nat) : Keeps s (State.writeAxis s a place key v) := by
  unfold State.writeAxis
  split
  · refine Keeps.step (State.moveTo_keeps ..) ?_
    exact .refl
  · refine Keeps.step (State.writeLimit_keeps ..) ?_
    exact .refl
  · refine Keeps.step (State.writeLimit_keeps ..) ?_
    exact .refl
  · refine Keeps.step (State.writeLimit_keeps ..) ?_
    exact .refl
  · refine Keeps.step ((State.takeHome_only ..).keeps (by decide)) ?_
    exact .refl
  · refine Keeps.step (State.takeStop_keeps ..) ?_
    exact .refl
  · refine Keeps.step (State.setReg_keeps ..) ?_
    exact .refl

theorem State.writeMotion_keeps (s : State) (key : Nat) (v : Nat) : Keeps s (State.writeMotion s key v) := by
  unfold State.writeMotion
  refine Keeps.ite (fun _ => ?_) (fun _ => ?_)
  · refine Keeps.step (State.takeStopAll_keeps ..) ?_
    exact .refl
  · split
    · refine Keeps.step (State.writeAxis_keeps ..) ?_
      exact .refl
    · refine Keeps.step (State.setReg_keeps ..) ?_
      exact .refl

theorem State.moveKindleLast_keeps (s : State) (d : Int) : Keeps s (State.moveKindleLast s d) := by
  unfold State.moveKindleLast
  refine Keeps.ite (fun _ => ?_) (fun _ => ?_)
  · exact .refl
  · dsimp only
    refine Keeps.step (State.setReg_keeps ..) ?_
    refine Keeps.step (Only.keeps (Only.with_flash (d := [.flash]) (by decide) .refl) (by decide)) ?_
    exact .refl

theorem State.takeStep_keeps (s : State) (d : Int) : Keeps s (State.takeStep s d) := by
  unfold State.takeStep
  refine Keeps.step (State.stepBeacon_keeps ..) ?_
  refine Keeps.step (State.moveKindleLast_keeps ..) ?_
  exact .refl

theorem State.setTime_keeps (s : State) (v : Nat) : Keeps s (State.setTime s v) := by
  unfold State.setTime
  refine Keeps.step (State.setReg_keeps ..) ?_
  refine Keeps.step (State.takeStep_keeps ..) ?_
  exact .refl

theorem State.writeClock_keeps (s : State) (key : Nat) (v : Nat) : Keeps s (State.writeClock s key v) := by
  unfold State.writeClock
  refine Keeps.ite (fun _ => ?_) (fun _ => ?_)
  · refine Keeps.step (State.setTime_keeps ..) ?_
    exact .refl
  · refine Keeps.ite (fun _ => ?_) (fun _ => ?_)
    · refine Keeps.step (State.takeStep_keeps ..) ?_
      exact .refl
    · refine Keeps.step (State.setReg_keeps ..) ?_
      exact .refl

theorem State.unfreezeLog_keeps (s : State) : Keeps s (State.unfreezeLog s) := by
  unfold State.unfreezeLog
  dsimp only
  refine Keeps.ite (fun _ => ?_) (fun _ => ?_)
  · refine Keeps.step (State.setReg_keeps ..) ?_
    refine Keeps.step (State.ylogClose_keeps ..) ?_
    exact .refl
  · refine Keeps.ite (fun _ => ?_) (fun _ => ?_)
    · refine Keeps.step (State.startFreeze_keeps ..) ?_
      refine Keeps.step (State.setReg_keeps ..) ?_
      refine Keeps.step (State.ylogClose_keeps ..) ?_
      exact .refl
    · refine Keeps.step (State.setReg_keeps ..) ?_
      refine Keeps.step (State.setReg_keeps ..) ?_
      refine Keeps.step (State.ylogClose_keeps ..) ?_
      exact .refl

theorem State.writeLog_keeps (s : State) (key : Nat) (v : Nat) : Keeps s (State.writeLog s key v) := by
  unfold State.writeLog
  refine Keeps.ite (fun _ => ?_) (fun _ => ?_)
  · refine Keeps.ite (fun _ => ?_) (fun _ => ?_)
    · refine Keeps.step (State.freezeTrigger_keeps ..) ?_
      exact .refl
    · exact .refl
  · refine Keeps.ite (fun _ => ?_) (fun _ => ?_)
    · refine Keeps.step (State.unfreezeLog_keeps ..) ?_
      exact .refl
    · refine Keeps.step (State.setReg_keeps ..) ?_
      exact .refl

theorem State.clearFlags_keeps (s : State) (key : Nat) (v : Nat) : Keeps s (State.clearFlags s key v) := by
  unfold State.clearFlags
  dsimp only
  split
  · refine Keeps.ite (fun _ => ?_) (fun _ => ?_)
    · refine Keeps.step ((State.setLoop_only ..).keeps (by decide)) ?_
      refine Keeps.step (State.clearFlag_keeps ..) ?_
      exact .refl
    · refine Keeps.step (State.clearFlag_keeps ..) ?_
      exact .refl
  · refine Keeps.step (State.clearFlag_keeps ..) ?_
    exact .refl

theorem State.writeEffect_keeps (s : State) (key : Nat) (v : Nat) : Keeps s (State.writeEffect s key v) := by
  unfold State.writeEffect
  dsimp only
  refine Keeps.ite (fun _ => ?_) (fun _ => ?_)
  · refine Keeps.step (State.clearFlags_keeps ..) ?_
    exact .refl
  · refine Keeps.ite (fun _ => ?_) (fun _ => ?_)
    · refine Keeps.step (State.writeMode_keeps ..) ?_
      exact .refl
    · refine Keeps.ite (fun _ => ?_) (fun _ => ?_)
      · refine Keeps.step (State.writeReset_keeps ..) ?_
        exact .refl
      · refine Keeps.ite (fun _ => ?_) (fun _ => ?_)
        · refine Keeps.step ((State.saveConfig_only ..).keeps (by decide)) ?_
          exact .refl
        · refine Keeps.ite (fun _ => ?_) (fun _ => ?_)
          · refine Keeps.step (State.clearFsiMin_keeps ..) ?_
            exact .refl
          · refine Keeps.ite (fun _ => ?_) (fun _ => ?_)
            · refine Keeps.step (State.takeFlush_keeps ..) ?_
              exact .refl
            · refine Keeps.ite (fun _ => ?_) (fun _ => ?_)
              · refine Keeps.step (State.writeTaper_keeps ..) ?_
                exact .refl
              · refine Keeps.ite (fun _ => ?_) (fun _ => ?_)
                · refine Keeps.step (State.writeLane_keeps ..) ?_
                  exact .refl
                · refine Keeps.ite (fun _ => ?_) (fun _ => ?_)
                  · refine Keeps.step (State.requestSwap_keeps ..) ?_
                    exact .refl
                  · refine Keeps.ite (fun _ => ?_) (fun _ => ?_)
                    · refine Keeps.step (State.writeCamera_keeps ..) ?_
                      exact .refl
                    · refine Keeps.ite (fun _ => ?_) (fun _ => ?_)
                      · refine Keeps.step (State.enableScrub_keeps ..) ?_
                        exact .refl
                      · refine Keeps.ite (fun _ => ?_) (fun _ => ?_)
                        · refine Keeps.step (State.selectFreq_keeps ..) ?_
                          exact .refl
                        · refine Keeps.ite (fun _ => ?_) (fun _ => ?_)
                          · refine Keeps.step (State.writeMotion_keeps ..) ?_
                            exact .refl
                          · refine Keeps.ite (fun _ => ?_) (fun _ => ?_)
                            · refine Keeps.step (State.writeClock_keeps ..) ?_
                              exact .refl
                            · refine Keeps.ite (fun _ => ?_) (fun _ => ?_)
                              · refine Keeps.step (State.writeLog_keeps ..) ?_
                                exact .refl
                              · split
                                · refine Keeps.step (State.writeLoop_keeps ..) ?_
                                  exact .refl
                                · refine Keeps.step (State.setReg_keeps ..) ?_
                                  exact .refl

theorem State.acceptWrite_keeps (s : State) (h : Hdr) (payload : List Byte) (r : Dict.ObjRow) (w : WriteReq) :
    Keeps s (State.acceptWrite s h payload r w) := by
  unfold State.acceptWrite
  dsimp only
  refine Keeps.ite (fun _ => ?_) (fun _ => ?_)
  · refine Keeps.step (State.startFuse_keeps ..) ?_
    exact .refl
  · refine Keeps.step ((State.answer_only ..).keeps (by decide)) ?_
    refine Keeps.step ((State.forwardWrite_only ..).keeps (by decide)) ?_
    refine Keeps.step (State.writeEffect_keeps ..) ?_
    exact .refl

theorem State.refuse_keeps (s : State) (h : Hdr) (ty : Nat) (payload : List Byte) (key : Nat) (b : Bad) :
    Keeps s (State.refuse s h ty payload key b) := by
  unfold State.refuse
  dsimp only
  refine Keeps.step ((State.answer_only ..).keeps (by decide)) ?_
  split
  · dsimp only
    refine Keeps.step (Only.keeps (Only.with_freeCtr (d := [.freeCtr]) (by decide) .refl) (by decide)) ?_
    refine Keeps.ite (fun _ => ?_) (fun _ => ?_)
    · refine Keeps.step (State.conflict_keeps ..) ?_
      exact .refl
    · exact .refl
  · dsimp only
    refine Keeps.ite (fun _ => ?_) (fun _ => ?_)
    · refine Keeps.step (State.conflict_keeps ..) ?_
      exact .refl
    · exact .refl

theorem State.runWrite_keeps (s : State) (h : Hdr) (level : Nat) (payload : List Byte) (w : WriteReq) :
    Keeps s (State.runWrite s h level payload w) := by
  unfold State.runWrite
  split
  · refine Keeps.step (State.refuse_keeps ..) ?_
    exact .refl
  · split
    · refine Keeps.step (State.refuse_keeps ..) ?_
      exact .refl
    · refine Keeps.step (State.acceptWrite_keeps ..) ?_
      exact .refl

end Sys2Proof.Machine
end

