-- ==== Sys2Proof/Laws/KeepsBlocksToCommands.lean ====
section
/-! SUPPORT. What every operation and meaning of Machine/Blocks.lean to Machine/Commands.lean keeps (see Keeps). -/

namespace Sys2Proof.Machine

/-! ### Blocks -/

theorem State.takeRingMap_keeps (s : State) (b : List Byte) : Keeps s (State.takeRingMap s b) := by
  unfold State.takeRingMap
  refine Keeps.step (State.ringCredits_keeps ..) ?_
  refine Keeps.step (State.setDom_keeps ..) ?_
  exact .refl

theorem State.takeTrim_keeps (s : State) (b : List Byte) : Keeps s (State.takeTrim s b) := by
  unfold State.takeTrim
  dsimp only
  refine Keeps.step ((State.sendTrims_only ..).keeps (by decide)) ?_
  refine Keeps.foldl (fun t x => ?_) ?_
  · refine Keeps.step ((State.setHead_only ..).keeps (by decide)) ?_
    exact .refl
  · refine Keeps.step (Only.keeps (Only.with_trimGen (d := [.trimGen]) (by decide) .refl) (by decide)) ?_
    refine Keeps.step (State.setDom_keeps ..) ?_
    exact .refl

theorem State.takeUpload_keeps (s : State) (b : List Byte) : Keeps s (State.takeUpload s b) := by
  unfold State.takeUpload
  split
  · refine Keeps.step (State.startUpload_keeps ..) ?_
    exact .refl
  · exact .refl

theorem State.takeScan_keeps (s : State) (b : List Byte) : Keeps s (State.takeScan s b) := by
  unfold State.takeScan
  split
  · refine Keeps.step (State.queueScan_keeps ..) ?_
    exact .refl
  · exact .refl

theorem State.takeContent_keeps (s : State) (key : Nat) (b : List Byte) : Keeps s (State.takeContent s key b) := by
  unfold State.takeContent
  dsimp only
  refine Keeps.ite (fun _ => ?_) (fun _ => ?_)
  · refine Keeps.step (State.takeRingMap_keeps ..) ?_
    exact .refl
  · refine Keeps.ite (fun _ => ?_) (fun _ => ?_)
    · refine Keeps.step (Only.keeps (Only.with_flash (d := [.flash]) (by decide) .refl) (by decide)) ?_
      refine Keeps.step ((State.programSlot_only ..).keeps (by decide)) ?_
      exact .refl
    · refine Keeps.ite (fun _ => ?_) (fun _ => ?_)
      · refine Keeps.step (Only.keeps (Only.with_flash (d := [.flash]) (by decide) .refl) (by decide)) ?_
        refine Keeps.step ((State.programSlot_only ..).keeps (by decide)) ?_
        exact .refl
      · refine Keeps.ite (fun _ => ?_) (fun _ => ?_)
        · refine Keeps.step (State.takeImage_keeps ..) ?_
          exact .refl
        · refine Keeps.ite (fun _ => ?_) (fun _ => ?_)
          · refine Keeps.step (State.takeTrim_keeps ..) ?_
            exact .refl
          · refine Keeps.ite (fun _ => ?_) (fun _ => ?_)
            · refine Keeps.step ((State.queueUart_only ..).keeps (by decide)) ?_
              exact .refl
            · refine Keeps.ite (fun _ => ?_) (fun _ => ?_)
              · refine Keeps.step (State.takeUpload_keeps ..) ?_
                exact .refl
              · refine Keeps.ite (fun _ => ?_) (fun _ => ?_)
                · refine Keeps.step (State.takeScan_keeps ..) ?_
                  exact .refl
                · split
                  · refine Keeps.step (State.setDom_keeps ..) ?_
                    exact .refl
                  · refine Keeps.step (State.setDom_keeps ..) ?_
                    exact .refl

/-! ### Igrel -/

theorem State.dropPacket_keeps (s : State) : Keeps s (State.dropPacket s) := by
  unfold State.dropPacket
  refine Keeps.ite (fun _ => ?_) (fun _ => ?_)
  · refine Keeps.step (State.bump_keeps ..) ?_
    exact .refl
  · exact .refl

theorem State.seeVpp_keeps (s : State) (vppOk : Bool) : Keeps s (State.seeVpp s vppOk) := by
  unfold State.seeVpp
  refine Keeps.with_fuses rfl ?_
  exact .refl

theorem State.noteOverload_keeps (s : State) : Keeps s (State.noteOverload s) := by
  unfold State.noteOverload
  dsimp only
  refine Keeps.ite (fun _ => ?_) (fun _ => ?_)
  · refine Keeps.step (State.logEvent_keeps ..) ?_
    refine Keeps.step (Only.keeps (Only.with_igrel (d := [.igrel]) (by decide) .refl) (by decide)) ?_
    exact .refl
  · exact .refl

theorem State.answerBusy_keeps (s : State) (h : Hdr) : Keeps s (State.answerBusy s h) := by
  unfold State.answerBusy
  dsimp only
  refine Keeps.step (State.noteOverload_keeps ..) ?_
  refine Keeps.step ((State.respond_only ..).keeps (by decide)) ?_
  refine Keeps.step (State.bump_keeps ..) ?_
  refine Keeps.step (Only.keeps (Only.with_freeCtr (d := [.freeCtr]) (by decide) .refl) (by decide)) ?_
  exact .refl

theorem State.inSession_keeps (s : State) (h : Hdr)
    (run : Session → State → State) (hr : ∀ x t, Keeps t (run x t)) : Keeps s (s.inSession h run) := by
  unfold State.inSession
  split
  · exact State.dropPacket_keeps ..
  · refine Keeps.ite (fun _ => ?_) (fun _ => State.dropPacket_keeps ..)
    exact Keeps.step (hr ..) (Only.keeps (Only.with_igrel (d := [.igrel]) (by decide) .refl) (by decide))

theorem State.inSlot_keeps (s : State) (h : Hdr) (payload : List Byte)
    (noWait : Session → Bool) (run : Session → State → State) (hr : ∀ x t, Keeps t (run x t)) :
    Keeps s (s.inSlot h payload noWait run) := by
  unfold State.inSlot
  refine State.inSession_keeps _ _ _ (fun x t => ?_)
  split
  · exact (State.respond_only ..).keeps (by decide)
  · split
    · exact State.answerBusy_keeps ..
    · exact hr ..

theorem State.runRead_keeps (s : State) (h : Hdr) (payload : List Byte) : Keeps s (State.runRead s h payload) := by
  unfold State.runRead
  split
  · refine Keeps.step ((State.badLayout_only ..).keeps (by decide)) ?_
    exact .refl
  · split
    refine Keeps.step ((State.answer_only ..).keeps (by decide)) ?_
    refine Keeps.of_snd (by assumption) ?_
    refine Keeps.step (State.readReply_keeps ..) ?_
    exact .refl

theorem State.runWriteOf_keeps (s : State) (h : Hdr) (level : Nat) (payload : List Byte) : Keeps s (State.runWriteOf s h level payload) := by
  unfold State.runWriteOf
  split
  · refine Keeps.step ((State.badLayout_only ..).keeps (by decide)) ?_
    exact .refl
  · refine Keeps.step (State.runWrite_keeps ..) ?_
    exact .refl

theorem State.runDescribe_keeps (s : State) (h : Hdr) (payload : List Byte) : Keeps s (State.runDescribe s h payload) := by
  unfold State.runDescribe
  split
  · refine Keeps.step ((State.badLayout_only ..).keeps (by decide)) ?_
    exact .refl
  · split
    · refine Keeps.step (State.refuse_keeps ..) ?_
      exact .refl
    · refine Keeps.ite (fun _ => ?_) (fun _ => ?_)
      · refine Keeps.step (State.refuse_keeps ..) ?_
        exact .refl
      · refine Keeps.step ((State.answer_only ..).keeps (by decide)) ?_
        exact .refl

theorem State.runBlockStart_keeps (s : State) (h : Hdr) (level : Nat) (payload : List Byte) :
    Keeps s (State.runBlockStart s h level payload) := by
  unfold State.runBlockStart
  split
  · refine Keeps.step ((State.badLayout_only ..).keeps (by decide)) ?_
    exact .refl
  · split
    · refine Keeps.step (State.refuse_keeps ..) ?_
      exact .refl
    · split
      · refine Keeps.step (State.refuse_keeps ..) ?_
        exact .refl
      · refine Keeps.step ((State.openTransfer_only ..).keeps (by decide)) ?_
        exact .refl

theorem State.acceptBlock_keeps (s : State) (h : Hdr) (payload : List Byte) (t : Transfer) : Keeps s (State.acceptBlock s h payload t) := by
  unfold State.acceptBlock
  refine Keeps.ite (fun _ => ?_) (fun _ => ?_)
  · dsimp only
    refine Keeps.step (State.publish_keeps ..) ?_
    refine Keeps.step (Only.keeps (Only.with_igrel (d := [.igrel]) (by decide) .refl) (by decide)) ?_
    exact .refl
  · refine Keeps.step ((State.answer_only ..).keeps (by decide)) ?_
    refine Keeps.step ((State.forwardWrite_only ..).keeps (by decide)) ?_
    refine Keeps.step (State.takeContent_keeps ..) ?_
    exact .refl

theorem State.runBlockEnd_keeps (s : State) (h : Hdr) (payload : List Byte) : Keeps s (State.runBlockEnd s h payload) := by
  unfold State.runBlockEnd
  refine Keeps.ite (fun _ => ?_) (fun _ => ?_)
  · refine Keeps.step ((State.badLayout_only ..).keeps (by decide)) ?_
    exact .refl
  · split
    · refine Keeps.step ((State.answer_only ..).keeps (by decide)) ?_
      exact .refl
    · dsimp only
      refine Keeps.ite (fun _ => ?_) (fun _ => ?_)
      · refine Keeps.step ((State.answer_only ..).keeps (by decide)) ?_
        refine Keeps.step ((State.dropTransfer_only ..).keeps (by decide)) ?_
        exact .refl
      · split
        · refine Keeps.step (State.refuse_keeps ..) ?_
          refine Keeps.step ((State.dropTransfer_only ..).keeps (by decide)) ?_
          exact .refl
        · refine Keeps.step (State.acceptBlock_keeps ..) ?_
          refine Keeps.step ((State.dropTransfer_only ..).keeps (by decide)) ?_
          exact .refl

theorem State.telemetry_keeps (s : State) (x : Session) (u : Subscription) (canSend : Bool) : Keeps s (State.telemetry s x u canSend) := by
  unfold State.telemetry
  dsimp only
  refine Keeps.ite (fun _ => ?_) (fun _ => ?_)
  · refine Keeps.step ((State.sendIn_only ..).keeps (by decide)) ?_
    refine Keeps.step (Only.keeps (Only.with_igrel (d := [.igrel]) (by decide) .refl) (by decide)) ?_
    refine Keeps.step (State.readReply_keeps ..) ?_
    exact .refl
  · refine Keeps.step (Only.keeps (Only.with_igrel (d := [.igrel]) (by decide) .refl) (by decide)) ?_
    exact .refl

theorem State.reserve_keeps (s : State) (src : Src) (tag : Nat) (level : Nat) (nonce : List Byte) :
    Keeps s (State.reserve s src tag level nonce) := by
  unfold State.reserve
  refine Keeps.ite (fun _ => ?_) (fun _ => ?_)
  · exact .refl
  · refine Keeps.ite (fun _ => ?_) (fun _ => ?_)
    · refine Keeps.step (State.dropPacket_keeps ..) ?_
      exact .refl
    · split
      · refine Keeps.step ((State.answerPlain_only ..).keeps (by decide)) ?_
        exact .refl
      · split
        dsimp only
        refine Keeps.step ((State.answerPlain_only ..).keeps (by decide)) ?_
        refine Keeps.step (Only.keeps (Only.with_igrel (d := [.igrel]) (by decide) .refl) (by decide)) ?_
        refine Keeps.of_snd (by assumption) ?_
        refine Keeps.step ((State.fresh_only ..).keeps (by decide)) ?_
        exact .refl

theorem State.failProof_keeps (s : State) (src : Src) (tag : Nat) (id : Nat) : Keeps s (State.failProof s src tag id) := by
  unfold State.failProof
  dsimp only
  refine Keeps.step ((State.answerPlain_only ..).keeps (by decide)) ?_
  refine Keeps.step (State.logEvent_keeps ..) ?_
  refine Keeps.step (State.bump_keeps ..) ?_
  refine Keeps.step (Only.keeps (Only.with_igrel (d := [.igrel]) (by decide) .refl) (by decide)) ?_
  refine Keeps.step ((State.closeSession_only ..).keeps (by decide)) ?_
  exact .refl

theorem State.prove_keeps (s : State) (src : Src) (tag : Nat) (id : Nat) (proof : List Byte) : Keeps s (State.prove s src tag id proof) := by
  unfold State.prove
  refine Keeps.ite (fun _ => ?_) (fun _ => ?_)
  · refine Keeps.step (State.dropPacket_keeps ..) ?_
    exact .refl
  · split
    · refine Keeps.step (State.dropPacket_keeps ..) ?_
      exact .refl
    · refine Keeps.ite (fun _ => ?_) (fun _ => ?_)
      · refine Keeps.step ((State.openSession_only ..).keeps (by decide)) ?_
        exact .refl
      · refine Keeps.step (State.failProof_keeps ..) ?_
        exact .refl

theorem State.recoverEntries_keeps (s : State) (x1 : List Nat) : Keeps s (State.recoverEntries s x1).2 := by
  induction x1 generalizing s with | nil => ?_ | cons y l ih => ?_
  · simp only [State.recoverEntries]
    exact .refl
  · simp only [State.recoverEntries]
    refine Keeps.step (ih ..) ?_
    split
    · refine Keeps.step (State.readEntry_keeps ..) ?_
      exact .refl
    · dsimp only
      exact .refl

theorem State.recoverRead_keeps (s : State) (h : Hdr) (payload : List Byte) : Keeps s (State.recoverRead s h payload) := by
  unfold State.recoverRead
  split
  · refine Keeps.step ((State.recoverRefuse_only ..).keeps (by decide)) ?_
    exact .refl
  · split
    refine Keeps.step ((State.respond_only ..).keeps (by decide)) ?_
    refine Keeps.of_snd (by assumption) ?_
    refine Keeps.step (State.recoverEntries_keeps ..) ?_
    exact .refl

theorem State.recover_keeps (s : State) (h : Hdr) (ty : Nat) (payload : List Byte) : Keeps s (State.recover s h ty payload) := by
  unfold State.recover
  refine Keeps.ite (fun _ => ?_) (fun _ => ?_)
  · exact .refl
  · split
    · refine Keeps.ite (fun _ => ?_) (fun _ => ?_)
      · refine Keeps.step ((State.recoverRefuse_only ..).keeps (by decide)) ?_
        exact .refl
      · refine Keeps.step ((State.runSegment_only ..).keeps (by decide)) ?_
        exact .refl
    · refine Keeps.ite (fun _ => ?_) (fun _ => ?_)
      · refine Keeps.step ((State.recoverRefuse_only ..).keeps (by decide)) ?_
        exact .refl
      · refine Keeps.step (State.runBlockEnd_keeps ..) ?_
        exact .refl
    · refine Keeps.ite (fun _ => ?_) (fun _ => ?_)
      · refine Keeps.step ((State.recoverBusy_only ..).keeps (by decide)) ?_
        exact .refl
      · split
        · refine Keeps.step (State.recoverRead_keeps ..) ?_
          exact .refl
        · refine Keeps.step ((State.recoverWrite_only ..).keeps (by decide)) ?_
          exact .refl
        · refine Keeps.step ((State.recoverStart_only ..).keeps (by decide)) ?_
          exact .refl
        · refine Keeps.step ((State.recoverRefuse_only ..).keeps (by decide)) ?_
          exact .refl

theorem State.receive_keeps (s : State) (h : Hdr) (ty : Nat) (payload : List Byte) : Keeps s (s.receive h ty payload) := by
  unfold State.receive
  split
  · exact State.recover_keeps ..
  · split
    · exact .refl
    · split
      · exact State.inSession_keeps _ _ _ (fun x t => Keeps.ite (fun _ => (State.closeSession_only ..).keeps (by decide)) (fun _ => (State.badLayout_only ..).keeps (by decide)))
      · exact State.inSlot_keeps _ _ _ _ _ (fun x t => State.runRead_keeps ..)
      · exact State.inSlot_keeps _ _ _ _ _ (fun x t => State.runWriteOf_keeps ..)
      · exact State.inSlot_keeps _ _ _ _ _ (fun x t => State.runDescribe_keeps ..)
      · exact State.inSlot_keeps _ _ _ _ _ (fun x t => State.runBlockStart_keeps ..)
      · exact State.inSession_keeps _ _ _ (fun x t => (State.runSegment_only ..).keeps (by decide))
      · exact State.inSession_keeps _ _ _ (fun x t => (State.runAck_only ..).keeps (by decide))
      · exact State.inSlot_keeps _ _ _ _ _ (fun x t => State.runBlockEnd_keeps ..)
      · exact State.inSlot_keeps _ _ _ _ _ (fun x t => (State.runSubscribe_only ..).keeps (by decide))
      · exact State.dropPacket_keeps ..

theorem State.takeHello_keeps (s : State) (src : Src) (tag : Nat) (level : Nat) (nonce : List Byte) :
    Keeps s (State.takeHello s src tag level nonce) := by
  unfold State.takeHello
  refine Keeps.ite (fun _ => ?_) (fun _ => ?_)
  · refine Keeps.step ((State.refusePlain_only ..).keeps (by decide)) ?_
    exact .refl
  · refine Keeps.ite (fun _ => ?_) (fun _ => ?_)
    · refine Keeps.step (State.reserve_keeps ..) ?_
      exact .refl
    · exact .refl

theorem State.takeProof_keeps (s : State) (src : Src) (tag : Nat) (sess : Nat) (bytes : List Byte) :
    Keeps s (State.takeProof s src tag sess bytes) := by
  unfold State.takeProof
  refine Keeps.ite (fun _ => ?_) (fun _ => ?_)
  · refine Keeps.step ((State.refusePlain_only ..).keeps (by decide)) ?_
    exact .refl
  · refine Keeps.ite (fun _ => ?_) (fun _ => ?_)
    · refine Keeps.step (State.prove_keeps ..) ?_
      exact .refl
    · exact .refl

theorem State.takeDatagram_keeps (s : State) (d : Datagram) : Keeps s (State.takeDatagram s d) := by
  unfold State.takeDatagram
  dsimp only
  refine Keeps.ite (fun _ => ?_) (fun _ => ?_)
  · exact .refl
  · refine Keeps.ite (fun _ => ?_) (fun _ => ?_)
    · refine Keeps.step (State.dropPacket_keeps ..) ?_
      exact .refl
    · refine Keeps.ite (fun _ => ?_) (fun _ => ?_)
      · refine Keeps.ite (fun _ => ?_) (fun _ => ?_)
        · refine Keeps.step (State.takeHello_keeps ..) ?_
          exact .refl
        · refine Keeps.step (State.dropPacket_keeps ..) ?_
          exact .refl
      · refine Keeps.ite (fun _ => ?_) (fun _ => ?_)
        · refine Keeps.ite (fun _ => ?_) (fun _ => ?_)
          · refine Keeps.step (State.takeProof_keeps ..) ?_
            exact .refl
          · refine Keeps.step (State.dropPacket_keeps ..) ?_
            exact .refl
        · refine Keeps.ite (fun _ => ?_) (fun _ => ?_)
          · refine Keeps.step (State.dropPacket_keeps ..) ?_
            exact .refl
          · refine Keeps.step (State.receive_keeps ..) ?_
            exact .refl

/-! ### Requests -/

theorem execIgrelDrop_keeps (d : Datagram) (s : State) : KeepsNext s (execIgrelDrop d s) := by
  unfold execIgrelDrop
  refine KeepsNext.next ?_
  refine Keeps.step (State.takeDatagram_keeps ..) ?_
  exact .refl

theorem execHello_keeps (src : Src) (tag : Nat) (level : Nat) (nonce : List Byte) (s : State) :
    KeepsNext s (execHello src tag level nonce s) := by
  unfold execHello
  refine KeepsNext.next ?_
  refine Keeps.step (State.takeHello_keeps ..) ?_
  exact .refl

theorem execProof_keeps (src : Src) (tag : Nat) (sess : Nat) (bytes : List Byte) (s : State) :
    KeepsNext s (execProof src tag sess bytes s) := by
  unfold execProof
  refine KeepsNext.next ?_
  refine Keeps.step (State.takeProof_keeps ..) ?_
  exact .refl

theorem execReservationLapse_keeps (sess : Nat) (s : State) : KeepsNext s (execReservationLapse sess s) :=
  ⟨fun t ht => ((execReservationLapse_only ..).only t ht).keeps (by decide)⟩

theorem execAuthLockoutExpiry_keeps (ip : Nat) (s : State) : KeepsNext s (execAuthLockoutExpiry ip s) :=
  ⟨fun t ht => ((execAuthLockoutExpiry_only ..).only t ht).keeps (by decide)⟩

theorem execClose_keeps (h : Hdr) (payload : List Byte) (s : State) : KeepsNext s (execClose h payload s) := by
  unfold execClose
  refine KeepsNext.next ?_
  refine Keeps.step (State.receive_keeps ..) ?_
  exact .refl

theorem execSessionIdleTimeout_keeps (sess : Nat) (s : State) : KeepsNext s (execSessionIdleTimeout sess s) :=
  ⟨fun t ht => ((execSessionIdleTimeout_only ..).only t ht).keeps (by decide)⟩

theorem execRead_keeps (h : Hdr) (payload : List Byte) (vppOk : Bool) (s : State) : KeepsNext s (execRead h payload vppOk s) := by
  unfold execRead
  refine KeepsNext.next ?_
  refine Keeps.step (State.receive_keeps ..) ?_
  refine Keeps.step (State.seeVpp_keeps ..) ?_
  exact .refl

theorem State.takeForward_keeps (s : State) (p : List Byte) : Keeps s (State.takeForward s p) := by
  unfold State.takeForward
  dsimp only
  split
  · exact .refl
  · refine Keeps.ite (fun _ => ?_) (fun _ => ?_)
    · exact .refl
    · refine Keeps.ite (fun _ => ?_) (fun _ => ?_)
      · refine Keeps.ite (fun _ => ?_) (fun _ => ?_)
        · refine Keeps.step (State.publish_keeps ..) ?_
          exact .refl
        · exact .refl
      · refine Keeps.ite (fun _ => ?_) (fun _ => ?_)
        · exact .refl
        · refine Keeps.ite (fun _ => ?_) (fun _ => ?_)
          · refine Keeps.step (State.takeContent_keeps ..) ?_
            exact .refl
          · refine Keeps.step (State.writeEffect_keeps ..) ?_
            exact .refl

theorem execWrite_keeps (h : Hdr) (payload : List Byte) (vppOk : Bool) (forwarded : Bool) (s : State) :
    KeepsNext s (execWrite h payload vppOk forwarded s) := by
  unfold execWrite
  refine KeepsNext.next ?_
  refine Keeps.ite (fun _ => ?_) (fun _ => ?_)
  · refine Keeps.step (State.takeForward_keeps ..) ?_
    refine Keeps.step (State.seeVpp_keeps ..) ?_
    exact .refl
  · refine Keeps.step (State.receive_keeps ..) ?_
    refine Keeps.step (State.seeVpp_keeps ..) ?_
    exact .refl

theorem execDescribe_keeps (h : Hdr) (payload : List Byte) (s : State) : KeepsNext s (execDescribe h payload s) := by
  unfold execDescribe
  refine KeepsNext.next ?_
  refine Keeps.step (State.receive_keeps ..) ?_
  exact .refl

theorem execBlockStart_keeps (h : Hdr) (payload : List Byte) (s : State) : KeepsNext s (execBlockStart h payload s) := by
  unfold execBlockStart
  refine KeepsNext.next ?_
  refine Keeps.step (State.receive_keeps ..) ?_
  exact .refl

theorem execBlockSegment_keeps (h : Hdr) (payload : List Byte) (s : State) : KeepsNext s (execBlockSegment h payload s) := by
  unfold execBlockSegment
  refine KeepsNext.next ?_
  refine Keeps.step (State.receive_keeps ..) ?_
  exact .refl

theorem execBlockAck_keeps (h : Hdr) (payload : List Byte) (s : State) : KeepsNext s (execBlockAck h payload s) := by
  unfold execBlockAck
  refine KeepsNext.next ?_
  refine Keeps.step (State.receive_keeps ..) ?_
  exact .refl

theorem execBlockEnd_keeps (h : Hdr) (payload : List Byte) (s : State) : KeepsNext s (execBlockEnd h payload s) := by
  unfold execBlockEnd
  refine KeepsNext.next ?_
  refine Keeps.step (State.receive_keeps ..) ?_
  exact .refl

theorem execBlockTimeout_keeps (sess : Nat) (tag : Nat) (s : State) : KeepsNext s (execBlockTimeout sess tag s) :=
  ⟨fun t ht => ((execBlockTimeout_only ..).only t ht).keeps (by decide)⟩

theorem execSubscribe_keeps (h : Hdr) (payload : List Byte) (s : State) : KeepsNext s (execSubscribe h payload s) := by
  unfold execSubscribe
  refine KeepsNext.next ?_
  refine Keeps.step (State.receive_keeps ..) ?_
  exact .refl

theorem execTelemetrySend_keeps (sess : Nat) (canSend : Bool) (s : State) : KeepsNext s (execTelemetrySend sess canSend s) := by
  unfold execTelemetrySend
  split
  · split
    · refine KeepsNext.ite (fun _ => ?_) (fun _ => ?_)
      · refine KeepsNext.next ?_
        refine Keeps.step (State.telemetry_keeps ..) ?_
        exact .refl
      · refine KeepsNext.next ?_
        exact .refl
    · refine KeepsNext.next ?_
      exact .refl
  · refine KeepsNext.next ?_
    exact .refl

theorem execArpRequest_keeps (mac : Nat) (ip : Nat) (target : Nat) (s : State) : KeepsNext s (execArpRequest mac ip target s) :=
  ⟨fun t ht => ((execArpRequest_only ..).only t ht).keeps (by decide)⟩

theorem execIcmpEchoRequest_keeps (src : Nat) (data : List Byte) (s : State) : KeepsNext s (execIcmpEchoRequest src data s) :=
  ⟨fun t ht => ((execIcmpEchoRequest_only ..).only t ht).keeps (by decide)⟩

/-! ### Commands -/

theorem State.send_keeps (s : State) (h : Hdr) (key : Nat) (v : Nat) : Keeps s (State.send s h key v) := by
  unfold State.send
  refine Keeps.step (State.receive_keeps ..) ?_
  exact .refl

theorem State.sendEnd_keeps (s : State) (h : Hdr) (mine : Nat → Bool) : Keeps s (State.sendEnd s h mine) := by
  unfold State.sendEnd
  split
  · refine Keeps.ite (fun _ => ?_) (fun _ => ?_)
    · refine Keeps.step (State.receive_keeps ..) ?_
      exact .refl
    · exact .refl
  · exact .refl

theorem execBlockResetWrite_keeps (h : Hdr) (v : Nat) (s : State) : KeepsNext s (execBlockResetWrite h v s) := by
  unfold execBlockResetWrite
  refine KeepsNext.next ?_
  refine Keeps.step (State.send_keeps ..) ?_
  exact .refl

theorem execModeRequestKindle_keeps (h : Hdr) (s : State) : KeepsNext s (execModeRequestKindle h s) := by
  unfold execModeRequestKindle
  refine KeepsNext.next ?_
  refine Keeps.step (State.send_keeps ..) ?_
  exact .refl

theorem execModeRequestPilot_keeps (h : Hdr) (s : State) : KeepsNext s (execModeRequestPilot h s) := by
  unfold execModeRequestPilot
  refine KeepsNext.next ?_
  refine Keeps.step (State.send_keeps ..) ?_
  exact .refl

theorem execModeRequestTrim_keeps (h : Hdr) (s : State) : KeepsNext s (execModeRequestTrim h s) := by
  unfold execModeRequestTrim
  refine KeepsNext.next ?_
  refine Keeps.step (State.send_keeps ..) ?_
  exact .refl

theorem execModeRequestLit_keeps (h : Hdr) (s : State) : KeepsNext s (execModeRequestLit h s) := by
  unfold execModeRequestLit
  refine KeepsNext.next ?_
  refine Keeps.step (State.send_keeps ..) ?_
  exact .refl

theorem execModeRequestSnuff_keeps (h : Hdr) (s : State) : KeepsNext s (execModeRequestSnuff h s) := by
  unfold execModeRequestSnuff
  refine KeepsNext.next ?_
  refine Keeps.step (State.send_keeps ..) ?_
  exact .refl

theorem execSnuffCauseClear_keeps (h : Hdr) (v : Nat) (s : State) : KeepsNext s (execSnuffCauseClear h v s) := by
  unfold execSnuffCauseClear
  refine KeepsNext.next ?_
  refine Keeps.step (State.send_keeps ..) ?_
  exact .refl

theorem execResetCauseClear_keeps (h : Hdr) (v : Nat) (s : State) : KeepsNext s (execResetCauseClear h v s) := by
  unfold execResetCauseClear
  refine KeepsNext.next ?_
  refine Keeps.step (State.send_keeps ..) ?_
  exact .refl

theorem execResetRequest_keeps (h : Hdr) (v : Nat) (s : State) : KeepsNext s (execResetRequest h v s) := by
  unfold execResetRequest
  refine KeepsNext.next ?_
  refine Keeps.step (State.send_keeps ..) ?_
  exact .refl

theorem execFusePadProgram_keeps (h : Hdr) (v : Nat) (vppOk : Bool) (s : State) : KeepsNext s (execFusePadProgram h v vppOk s) := by
  unfold execFusePadProgram
  refine KeepsNext.next ?_
  refine Keeps.step (State.send_keeps ..) ?_
  refine Keeps.step (State.seeVpp_keeps ..) ?_
  exact .refl

theorem execFusePadCodeRead_keeps (h : Hdr) (s : State) : KeepsNext s (execFusePadCodeRead h s) := by
  unfold execFusePadCodeRead
  refine KeepsNext.next ?_
  refine Keeps.step (State.receive_keeps ..) ?_
  exact .refl

theorem execFuseLock_keeps (h : Hdr) (v : Nat) (vppOk : Bool) (s : State) : KeepsNext s (execFuseLock h v vppOk s) := by
  unfold execFuseLock
  refine KeepsNext.next ?_
  refine Keeps.step (State.send_keeps ..) ?_
  refine Keeps.step (State.seeVpp_keeps ..) ?_
  exact .refl

theorem execConfigSave_keeps (h : Hdr) (v : Nat) (s : State) : KeepsNext s (execConfigSave h v s) := by
  unfold execConfigSave
  refine KeepsNext.next ?_
  refine Keeps.step (State.send_keeps ..) ?_
  exact .refl

theorem execFwSlotWrite_keeps (h : Hdr) (s : State) : KeepsNext s (execFwSlotWrite h s) := by
  unfold execFwSlotWrite
  refine KeepsNext.next ?_
  refine Keeps.step (State.sendEnd_keeps ..) ?_
  exact .refl

theorem execFsiMinClear_keeps (h : Hdr) (v : Nat) (s : State) : KeepsNext s (execFsiMinClear h v s) := by
  unfold execFsiMinClear
  refine KeepsNext.next ?_
  refine Keeps.step (State.send_keeps ..) ?_
  exact .refl

theorem execW1cClear_keeps (h : Hdr) (key : Nat) (v : Nat) (s : State) : KeepsNext s (execW1cClear h key v s) := by
  unfold execW1cClear
  refine KeepsNext.ite (fun _ => ?_) (fun _ => ?_)
  · refine KeepsNext.next ?_
    refine Keeps.step (State.send_keeps ..) ?_
    exact .refl
  · refine KeepsNext.next ?_
    exact .refl

theorem execStoreFlush_keeps (h : Hdr) (v : Nat) (s : State) : KeepsNext s (execStoreFlush h v s) := by
  unfold execStoreFlush
  refine KeepsNext.next ?_
  refine Keeps.step (State.send_keeps ..) ?_
  exact .refl

theorem execRingMapWrite_keeps (h : Hdr) (s : State) : KeepsNext s (execRingMapWrite h s) := by
  unfold execRingMapWrite
  refine KeepsNext.next ?_
  refine Keeps.step (State.sendEnd_keeps ..) ?_
  exact .refl

theorem execContextImageWrite_keeps (h : Hdr) (s : State) : KeepsNext s (execContextImageWrite h s) := by
  unfold execContextImageWrite
  refine KeepsNext.next ?_
  refine Keeps.step (State.sendEnd_keeps ..) ?_
  exact .refl

theorem execHealthEdit_keeps (h : Hdr) (s : State) : KeepsNext s (execHealthEdit h s) := by
  unfold execHealthEdit
  refine KeepsNext.next ?_
  refine Keeps.step (State.sendEnd_keeps ..) ?_
  exact .refl

theorem execHealthSwap_keeps (s : State) : KeepsNext s (execHealthSwap s) := by
  unfold execHealthSwap
  refine KeepsNext.next ?_
  refine Keeps.step (State.swapDue_keeps ..) ?_
  exact .refl

theorem State.publishEach_keeps (s : State) (x1 : List (List (Nat × Nat) × Option Deferred)) : Keeps s (State.publishEach s x1) := by
  induction x1 generalizing s with | nil => ?_ | cons y l ih => ?_
  · simp only [State.publishEach]
    exact .refl
  · simp only [State.publishEach]
    refine Keeps.step (ih ..) ?_
    refine Keeps.step (State.publish_keeps ..) ?_
    exact .refl

theorem execHealthOverwriteDone_keeps (s : State) : KeepsNext s (execHealthOverwriteDone s) := by
  unfold execHealthOverwriteDone
  refine KeepsNext.ite (fun _ => ?_) (fun _ => ?_)
  · dsimp only
    refine KeepsNext.next ?_
    refine Keeps.step (State.publishEach_keeps ..) ?_
    refine Keeps.step ((State.endOverwrite_only ..).keeps (by decide)) ?_
    refine Keeps.step (Only.keeps (Only.with_health (d := [.health]) (by decide) .refl) (by decide)) ?_
    exact .refl
  · refine KeepsNext.next ?_
    exact .refl

theorem execPlacementTrimWrite_keeps (h : Hdr) (s : State) : KeepsNext s (execPlacementTrimWrite h s) := by
  unfold execPlacementTrimWrite
  refine KeepsNext.next ?_
  refine Keeps.step (State.sendEnd_keeps ..) ?_
  exact .refl

theorem execEncoderEnable_keeps (h : Hdr) (ch : Fin 2) (v : Nat) (s : State) : KeepsNext s (execEncoderEnable h ch v s) := by
  unfold execEncoderEnable
  refine KeepsNext.next ?_
  refine Keeps.step (State.send_keeps ..) ?_
  exact .refl

theorem execMaintStart_keeps (h : Hdr) (v : Nat) (s : State) : KeepsNext s (execMaintStart h v s) := by
  unfold execMaintStart
  refine KeepsNext.next ?_
  refine Keeps.step (State.send_keeps ..) ?_
  exact .refl

theorem execSwapRequest_keeps (h : Hdr) (v : Nat) (s : State) : KeepsNext s (execSwapRequest h v s) := by
  unfold execSwapRequest
  refine KeepsNext.next ?_
  refine Keeps.step (State.send_keeps ..) ?_
  exact .refl

theorem execCameraCommit_keeps (h : Hdr) (c : Fin 8) (v : Nat) (s : State) : KeepsNext s (execCameraCommit h c v s) := by
  unfold execCameraCommit
  refine KeepsNext.next ?_
  refine Keeps.step (State.send_keeps ..) ?_
  exact .refl

theorem execUartTx_keeps (h : Hdr) (s : State) : KeepsNext s (execUartTx h s) := by
  unfold execUartTx
  refine KeepsNext.next ?_
  refine Keeps.step (State.sendEnd_keeps ..) ?_
  exact .refl

theorem execTapSelect_keeps (h : Hdr) (v : Nat) (s : State) : KeepsNext s (execTapSelect h v s) := by
  unfold execTapSelect
  refine KeepsNext.next ?_
  refine Keeps.step (State.send_keeps ..) ?_
  exact .refl

theorem execChunkCompress_keeps (ch : Fin 4) (s : State) : KeepsNext s (execChunkCompress ch s) := by
  unfold execChunkCompress
  refine KeepsNext.ite (fun _ => ?_) (fun _ => ?_)
  · refine KeepsNext.next ?_
    exact .refl
  · refine KeepsNext.ite (fun _ => ?_) (fun _ => ?_)
    · split
      · refine KeepsNext.next ?_
        refine Keeps.step (State.compressNormal_keeps ..) ?_
        exact .refl
      · refine KeepsNext.next ?_
        exact .refl
    · split
      · refine KeepsNext.next ?_
        refine Keeps.step (State.compressRequest_keeps ..) ?_
        exact .refl
      · refine KeepsNext.next ?_
        exact .refl

theorem execUploadRequest_keeps (h : Hdr) (s : State) : KeepsNext s (execUploadRequest h s) := by
  unfold execUploadRequest
  refine KeepsNext.next ?_
  refine Keeps.step (State.sendEnd_keeps ..) ?_
  exact .refl

theorem execScanRequest_keeps (h : Hdr) (s : State) : KeepsNext s (execScanRequest h s) := by
  unfold execScanRequest
  refine KeepsNext.next ?_
  refine Keeps.step (State.sendEnd_keeps ..) ?_
  exact .refl

theorem execRunningWrite_keeps (h : Hdr) (u : Fin 16) (v : Nat) (s : State) : KeepsNext s (execRunningWrite h u v s) := by
  unfold execRunningWrite
  refine KeepsNext.next ?_
  refine Keeps.step (State.send_keeps ..) ?_
  exact .refl

theorem execFreqSelect_keeps (h : Hdr) (v : Nat) (s : State) : KeepsNext s (execFreqSelect h v s) := by
  unfold execFreqSelect
  refine KeepsNext.next ?_
  refine Keeps.step (State.send_keeps ..) ?_
  exact .refl

theorem execBankSwap_keeps (h : Hdr) (i : Fin 48) (v : Nat) (s : State) : KeepsNext s (execBankSwap h i v s) := by
  unfold execBankSwap
  refine KeepsNext.next ?_
  refine Keeps.step (State.send_keeps ..) ?_
  exact .refl

theorem execLoopSetpoint_keeps (h : Hdr) (i : Fin 48) (v : Nat) (s : State) : KeepsNext s (execLoopSetpoint h i v s) := by
  unfold execLoopSetpoint
  refine KeepsNext.next ?_
  refine Keeps.step (State.send_keeps ..) ?_
  exact .refl

theorem execLoopEnable_keeps (h : Hdr) (i : Fin 48) (v : Nat) (s : State) : KeepsNext s (execLoopEnable h i v s) := by
  unfold execLoopEnable
  refine KeepsNext.next ?_
  refine Keeps.step (State.send_keeps ..) ?_
  exact .refl

theorem execTarget_keeps (h : Hdr) (axis : Fin 4) (v : Nat) (s : State) : KeepsNext s (execTarget h axis v s) := by
  unfold execTarget
  refine KeepsNext.next ?_
  refine Keeps.step (State.send_keeps ..) ?_
  exact .refl

theorem execHome_keeps (h : Hdr) (axis : Fin 4) (v : Nat) (s : State) : KeepsNext s (execHome h axis v s) := by
  unfold execHome
  refine KeepsNext.next ?_
  refine Keeps.step (State.send_keeps ..) ?_
  exact .refl

theorem execAxisStop_keeps (h : Hdr) (axis : Fin 4) (v : Nat) (s : State) : KeepsNext s (execAxisStop h axis v s) := by
  unfold execAxisStop
  refine KeepsNext.next ?_
  refine Keeps.step (State.send_keeps ..) ?_
  exact .refl

theorem execStopAll_keeps (h : Hdr) (v : Nat) (s : State) : KeepsNext s (execStopAll h v s) := by
  unfold execStopAll
  refine KeepsNext.next ?_
  refine Keeps.step (State.send_keeps ..) ?_
  exact .refl

theorem execTimeSet_keeps (h : Hdr) (v : Nat) (s : State) : KeepsNext s (execTimeSet h v s) := by
  unfold execTimeSet
  refine KeepsNext.next ?_
  refine Keeps.step (State.send_keeps ..) ?_
  exact .refl

theorem execTimeStep_keeps (h : Hdr) (v : Nat) (s : State) : KeepsNext s (execTimeStep h v s) := by
  unfold execTimeStep
  refine KeepsNext.next ?_
  refine Keeps.step (State.send_keeps ..) ?_
  exact .refl

theorem execRateTrim_keeps (h : Hdr) (v : Nat) (s : State) : KeepsNext s (execRateTrim h v s) := by
  unfold execRateTrim
  refine KeepsNext.next ?_
  refine Keeps.step (State.send_keeps ..) ?_
  exact .refl

theorem execFreezeNow_keeps (h : Hdr) (v : Nat) (s : State) : KeepsNext s (execFreezeNow h v s) := by
  unfold execFreezeNow
  refine KeepsNext.next ?_
  refine Keeps.step (State.send_keeps ..) ?_
  exact .refl

theorem execUnfreeze_keeps (h : Hdr) (v : Nat) (s : State) : KeepsNext s (execUnfreeze h v s) := by
  unfold execUnfreeze
  refine KeepsNext.next ?_
  refine Keeps.step (State.send_keeps ..) ?_
  exact .refl

end Sys2Proof.Machine
end

