-- ==== Sys2Proof/Laws/Memory.lean ====
section
/-! SUPPORT. The laws of LPDDR5: its canonical form is kept, and a byte reads as it was written last. -/

namespace Sys2Proof.Machine

theorem Memory.wf_reset : Memory.wf State.reset.dram.mem = true := rfl

theorem Memory.wf_put (m : List Host.Cell) (a : Nat) (b : Byte) (h : Memory.wf m = true) : Memory.wf (Table.put 0 m a b) = true :=
  Table.put_wf 0 m a b h

theorem Memory.wf_writeCells (l : List (Nat × Byte)) (m : List Host.Cell) (h : Memory.wf m = true) : Memory.wf (writeCells m l) = true :=
  writeCells_wf l m h

@[simp] theorem State.askMem_mem (s : State) (who : MemUser) (write : Bool) (n : Nat) : (s.askMem who write n).dram.mem = s.dram.mem := by
  unfold State.askMem
  split
  · rfl
  · dsimp only
    split <;> rfl

@[simp] theorem State.askMem_ecc (s : State) (who : MemUser) (write : Bool) (n : Nat) : (s.askMem who write n).dram.ecc = s.dram.ecc := by
  unfold State.askMem
  split
  · rfl
  · dsimp only
    split <;> rfl

/-- A write keeps the canonical form of the bytes and of the check bytes. -/
theorem State.dram_wf_writeMem (s : State) (who : MemUser) (l : List (Nat × Byte)) (h : s.dram.wf = true) : (s.writeMem who l).dram.wf = true :=
  (State.writeMem_keeps s who l).mem h

@[simp] theorem State.writeMem_mem (s : State) (who : MemUser) (l : List (Nat × Byte)) :
    (s.writeMem who l).dram.mem = writeCells s.dram.mem l := rfl

@[simp] theorem State.writeMem_ecc (s : State) (who : MemUser) (l : List (Nat × Byte)) :
    (s.writeMem who l).dram.ecc = writeCells s.dram.ecc (checkCells (writeCells s.dram.mem l) l) := by
  simp only [State.writeMem, State.askMem_ecc]

/-- A byte that no cell of a write names reads as before. -/
theorem get_writeCells_other (l : List (Nat × Byte)) (a : Nat) : ∀ (m : List Host.Cell), (∀ c ∈ l, c.1 ≠ a) →
    Table.get (0 : Byte) (writeCells m l) a = Table.get (0 : Byte) m a := by
  induction l with
  | nil => intro m _; rfl
  | cons c t ih =>
    intro m h
    rw [writeCells, ih _ (fun d hd => h d (List.mem_cons_of_mem _ hd))]
    exact Table.get_put_other 0 m c.2 (Ne.symm (h c List.mem_cons_self))

theorem memByte_writeMem_other (s : State) (who : MemUser) (l : List (Nat × Byte)) (a : Nat) (h : ∀ c ∈ l, c.1 ≠ a) :
    (s.writeMem who l).memByte a = s.memByte a :=
  get_writeCells_other l a s.dram.mem h

/-- A byte written alone reads as it was written. -/
theorem memByte_writeMem_same (s : State) (who : MemUser) (a : Nat) (b : Byte) : (s.writeMem who [(a, b)]).memByte a = b :=
  Table.get_put_same 0 s.dram.mem a b

end Sys2Proof.Machine
end

