-- ==== Sys2Proof/Laws/State.lean ====
section
/-! SUPPORT. What each update of one part of the state leaves alone: one lemma for each field, each true by rfl. -/

namespace Sys2Proof.Machine

/-! ### setReg -/

@[simp] theorem State.setReg_pending (s : State) (key v : Nat) : (s.setReg key v).pending = s.pending := rfl
@[simp] theorem State.setReg_doms (s : State) (key v : Nat) : (s.setReg key v).doms = s.doms := rfl
@[simp] theorem State.setReg_mode (s : State) (key v : Nat) : (s.setReg key v).mode = s.mode := rfl
@[simp] theorem State.setReg_role (s : State) (key v : Nat) : (s.setReg key v).role = s.role := rfl
@[simp] theorem State.setReg_strapped (s : State) (key v : Nat) : (s.setReg key v).strapped = s.strapped := rfl
@[simp] theorem State.setReg_clock (s : State) (key v : Nat) : (s.setReg key v).clock = s.clock := rfl
@[simp] theorem State.setReg_rst (s : State) (key v : Nat) : (s.setReg key v).rst = s.rst := rfl
@[simp] theorem State.setReg_fuses (s : State) (key v : Nat) : (s.setReg key v).fuses = s.fuses := rfl
@[simp] theorem State.setReg_pins (s : State) (key v : Nat) : (s.setReg key v).pins = s.pins := rfl
@[simp] theorem State.setReg_jtag (s : State) (key v : Nat) : (s.setReg key v).jtag = s.jtag := rfl
@[simp] theorem State.setReg_igrel (s : State) (key v : Nat) : (s.setReg key v).igrel = s.igrel := rfl
@[simp] theorem State.setReg_flash (s : State) (key v : Nat) : (s.setReg key v).flash = s.flash := rfl
@[simp] theorem State.setReg_raster (s : State) (key v : Nat) : (s.setReg key v).raster = s.raster := rfl
@[simp] theorem State.setReg_decomp (s : State) (key v : Nat) : (s.setReg key v).decomp = s.decomp := rfl
@[simp] theorem State.setReg_slots (s : State) (key v : Nat) : (s.setReg key v).slots = s.slots := rfl
@[simp] theorem State.setReg_health (s : State) (key v : Nat) : (s.setReg key v).health = s.health := rfl
@[simp] theorem State.setReg_trimGen (s : State) (key v : Nat) : (s.setReg key v).trimGen = s.trimGen := rfl
@[simp] theorem State.setReg_enc (s : State) (key v : Nat) : (s.setReg key v).enc = s.enc := rfl
@[simp] theorem State.setReg_taper (s : State) (key v : Nat) : (s.setReg key v).taper = s.taper := rfl
@[simp] theorem State.setReg_heads (s : State) (key v : Nat) : (s.setReg key v).heads = s.heads := rfl
@[simp] theorem State.setReg_twin (s : State) (key v : Nat) : (s.setReg key v).twin = s.twin := rfl
@[simp] theorem State.setReg_lantern (s : State) (key v : Nat) : (s.setReg key v).lantern = s.lantern := rfl
@[simp] theorem State.setReg_led (s : State) (key v : Nat) : (s.setReg key v).led = s.led := rfl
@[simp] theorem State.setReg_chans (s : State) (key v : Nat) : (s.setReg key v).chans = s.chans := rfl
@[simp] theorem State.setReg_check (s : State) (key v : Nat) : (s.setReg key v).check = s.check := rfl
@[simp] theorem State.setReg_dram (s : State) (key v : Nat) : (s.setReg key v).dram = s.dram := rfl
@[simp] theorem State.setReg_wick (s : State) (key v : Nat) : (s.setReg key v).wick = s.wick := rfl
@[simp] theorem State.setReg_loops (s : State) (key v : Nat) : (s.setReg key v).loops = s.loops := rfl
@[simp] theorem State.setReg_spi (s : State) (key v : Nat) : (s.setReg key v).spi = s.spi := rfl
@[simp] theorem State.setReg_axes (s : State) (key v : Nat) : (s.setReg key v).axes = s.axes := rfl
@[simp] theorem State.setReg_ptp (s : State) (key v : Nat) : (s.setReg key v).ptp = s.ptp := rfl
@[simp] theorem State.setReg_cal (s : State) (key v : Nat) : (s.setReg key v).cal = s.cal := rfl
@[simp] theorem State.setReg_ylog (s : State) (key v : Nat) : (s.setReg key v).ylog = s.ylog := rfl
@[simp] theorem State.setReg_die (s : State) (key v : Nat) : (s.setReg key v).die = s.die := rfl
@[simp] theorem State.setReg_out (s : State) (key v : Nat) : (s.setReg key v).out = s.out := rfl
@[simp] theorem State.setReg_flagged (s : State) (key v : Nat) : (s.setReg key v).flagged = s.flagged := rfl
@[simp] theorem State.setReg_freeCtr (s : State) (key v : Nat) : (s.setReg key v).freeCtr = s.freeCtr := rfl

/-! ### setDom -/

@[simp] theorem State.setDom_pending (s : State) (key : Nat) (c : List Byte) : (s.setDom key c).pending = s.pending := rfl
@[simp] theorem State.setDom_regs (s : State) (key : Nat) (c : List Byte) : (s.setDom key c).regs = s.regs := rfl
@[simp] theorem State.setDom_mode (s : State) (key : Nat) (c : List Byte) : (s.setDom key c).mode = s.mode := rfl
@[simp] theorem State.setDom_role (s : State) (key : Nat) (c : List Byte) : (s.setDom key c).role = s.role := rfl
@[simp] theorem State.setDom_strapped (s : State) (key : Nat) (c : List Byte) : (s.setDom key c).strapped = s.strapped := rfl
@[simp] theorem State.setDom_clock (s : State) (key : Nat) (c : List Byte) : (s.setDom key c).clock = s.clock := rfl
@[simp] theorem State.setDom_rst (s : State) (key : Nat) (c : List Byte) : (s.setDom key c).rst = s.rst := rfl
@[simp] theorem State.setDom_fuses (s : State) (key : Nat) (c : List Byte) : (s.setDom key c).fuses = s.fuses := rfl
@[simp] theorem State.setDom_pins (s : State) (key : Nat) (c : List Byte) : (s.setDom key c).pins = s.pins := rfl
@[simp] theorem State.setDom_jtag (s : State) (key : Nat) (c : List Byte) : (s.setDom key c).jtag = s.jtag := rfl
@[simp] theorem State.setDom_igrel (s : State) (key : Nat) (c : List Byte) : (s.setDom key c).igrel = s.igrel := rfl
@[simp] theorem State.setDom_flash (s : State) (key : Nat) (c : List Byte) : (s.setDom key c).flash = s.flash := rfl
@[simp] theorem State.setDom_raster (s : State) (key : Nat) (c : List Byte) : (s.setDom key c).raster = s.raster := rfl
@[simp] theorem State.setDom_decomp (s : State) (key : Nat) (c : List Byte) : (s.setDom key c).decomp = s.decomp := rfl
@[simp] theorem State.setDom_slots (s : State) (key : Nat) (c : List Byte) : (s.setDom key c).slots = s.slots := rfl
@[simp] theorem State.setDom_health (s : State) (key : Nat) (c : List Byte) : (s.setDom key c).health = s.health := rfl
@[simp] theorem State.setDom_trimGen (s : State) (key : Nat) (c : List Byte) : (s.setDom key c).trimGen = s.trimGen := rfl
@[simp] theorem State.setDom_enc (s : State) (key : Nat) (c : List Byte) : (s.setDom key c).enc = s.enc := rfl
@[simp] theorem State.setDom_taper (s : State) (key : Nat) (c : List Byte) : (s.setDom key c).taper = s.taper := rfl
@[simp] theorem State.setDom_heads (s : State) (key : Nat) (c : List Byte) : (s.setDom key c).heads = s.heads := rfl
@[simp] theorem State.setDom_twin (s : State) (key : Nat) (c : List Byte) : (s.setDom key c).twin = s.twin := rfl
@[simp] theorem State.setDom_lantern (s : State) (key : Nat) (c : List Byte) : (s.setDom key c).lantern = s.lantern := rfl
@[simp] theorem State.setDom_led (s : State) (key : Nat) (c : List Byte) : (s.setDom key c).led = s.led := rfl
@[simp] theorem State.setDom_chans (s : State) (key : Nat) (c : List Byte) : (s.setDom key c).chans = s.chans := rfl
@[simp] theorem State.setDom_check (s : State) (key : Nat) (c : List Byte) : (s.setDom key c).check = s.check := rfl
@[simp] theorem State.setDom_dram (s : State) (key : Nat) (c : List Byte) : (s.setDom key c).dram = s.dram := rfl
@[simp] theorem State.setDom_wick (s : State) (key : Nat) (c : List Byte) : (s.setDom key c).wick = s.wick := rfl
@[simp] theorem State.setDom_loops (s : State) (key : Nat) (c : List Byte) : (s.setDom key c).loops = s.loops := rfl
@[simp] theorem State.setDom_spi (s : State) (key : Nat) (c : List Byte) : (s.setDom key c).spi = s.spi := rfl
@[simp] theorem State.setDom_axes (s : State) (key : Nat) (c : List Byte) : (s.setDom key c).axes = s.axes := rfl
@[simp] theorem State.setDom_ptp (s : State) (key : Nat) (c : List Byte) : (s.setDom key c).ptp = s.ptp := rfl
@[simp] theorem State.setDom_cal (s : State) (key : Nat) (c : List Byte) : (s.setDom key c).cal = s.cal := rfl
@[simp] theorem State.setDom_ylog (s : State) (key : Nat) (c : List Byte) : (s.setDom key c).ylog = s.ylog := rfl
@[simp] theorem State.setDom_die (s : State) (key : Nat) (c : List Byte) : (s.setDom key c).die = s.die := rfl
@[simp] theorem State.setDom_out (s : State) (key : Nat) (c : List Byte) : (s.setDom key c).out = s.out := rfl
@[simp] theorem State.setDom_flagged (s : State) (key : Nat) (c : List Byte) : (s.setDom key c).flagged = s.flagged := rfl
@[simp] theorem State.setDom_freeCtr (s : State) (key : Nat) (c : List Byte) : (s.setDom key c).freeCtr = s.freeCtr := rfl

/-! ### setRing -/

@[simp] theorem State.setRing_pending (s : State) (k : Nat) (l : List Blk) : (s.setRing k l).pending = s.pending := rfl
@[simp] theorem State.setRing_regs (s : State) (k : Nat) (l : List Blk) : (s.setRing k l).regs = s.regs := rfl
@[simp] theorem State.setRing_doms (s : State) (k : Nat) (l : List Blk) : (s.setRing k l).doms = s.doms := rfl
@[simp] theorem State.setRing_mode (s : State) (k : Nat) (l : List Blk) : (s.setRing k l).mode = s.mode := rfl
@[simp] theorem State.setRing_role (s : State) (k : Nat) (l : List Blk) : (s.setRing k l).role = s.role := rfl
@[simp] theorem State.setRing_strapped (s : State) (k : Nat) (l : List Blk) : (s.setRing k l).strapped = s.strapped := rfl
@[simp] theorem State.setRing_clock (s : State) (k : Nat) (l : List Blk) : (s.setRing k l).clock = s.clock := rfl
@[simp] theorem State.setRing_rst (s : State) (k : Nat) (l : List Blk) : (s.setRing k l).rst = s.rst := rfl
@[simp] theorem State.setRing_fuses (s : State) (k : Nat) (l : List Blk) : (s.setRing k l).fuses = s.fuses := rfl
@[simp] theorem State.setRing_pins (s : State) (k : Nat) (l : List Blk) : (s.setRing k l).pins = s.pins := rfl
@[simp] theorem State.setRing_jtag (s : State) (k : Nat) (l : List Blk) : (s.setRing k l).jtag = s.jtag := rfl
@[simp] theorem State.setRing_igrel (s : State) (k : Nat) (l : List Blk) : (s.setRing k l).igrel = s.igrel := rfl
@[simp] theorem State.setRing_flash (s : State) (k : Nat) (l : List Blk) : (s.setRing k l).flash = s.flash := rfl
@[simp] theorem State.setRing_decomp (s : State) (k : Nat) (l : List Blk) : (s.setRing k l).decomp = s.decomp := rfl
@[simp] theorem State.setRing_slots (s : State) (k : Nat) (l : List Blk) : (s.setRing k l).slots = s.slots := rfl
@[simp] theorem State.setRing_health (s : State) (k : Nat) (l : List Blk) : (s.setRing k l).health = s.health := rfl
@[simp] theorem State.setRing_trimGen (s : State) (k : Nat) (l : List Blk) : (s.setRing k l).trimGen = s.trimGen := rfl
@[simp] theorem State.setRing_enc (s : State) (k : Nat) (l : List Blk) : (s.setRing k l).enc = s.enc := rfl
@[simp] theorem State.setRing_taper (s : State) (k : Nat) (l : List Blk) : (s.setRing k l).taper = s.taper := rfl
@[simp] theorem State.setRing_heads (s : State) (k : Nat) (l : List Blk) : (s.setRing k l).heads = s.heads := rfl
@[simp] theorem State.setRing_twin (s : State) (k : Nat) (l : List Blk) : (s.setRing k l).twin = s.twin := rfl
@[simp] theorem State.setRing_lantern (s : State) (k : Nat) (l : List Blk) : (s.setRing k l).lantern = s.lantern := rfl
@[simp] theorem State.setRing_led (s : State) (k : Nat) (l : List Blk) : (s.setRing k l).led = s.led := rfl
@[simp] theorem State.setRing_chans (s : State) (k : Nat) (l : List Blk) : (s.setRing k l).chans = s.chans := rfl
@[simp] theorem State.setRing_check (s : State) (k : Nat) (l : List Blk) : (s.setRing k l).check = s.check := rfl
@[simp] theorem State.setRing_dram (s : State) (k : Nat) (l : List Blk) : (s.setRing k l).dram = s.dram := rfl
@[simp] theorem State.setRing_wick (s : State) (k : Nat) (l : List Blk) : (s.setRing k l).wick = s.wick := rfl
@[simp] theorem State.setRing_loops (s : State) (k : Nat) (l : List Blk) : (s.setRing k l).loops = s.loops := rfl
@[simp] theorem State.setRing_spi (s : State) (k : Nat) (l : List Blk) : (s.setRing k l).spi = s.spi := rfl
@[simp] theorem State.setRing_axes (s : State) (k : Nat) (l : List Blk) : (s.setRing k l).axes = s.axes := rfl
@[simp] theorem State.setRing_ptp (s : State) (k : Nat) (l : List Blk) : (s.setRing k l).ptp = s.ptp := rfl
@[simp] theorem State.setRing_cal (s : State) (k : Nat) (l : List Blk) : (s.setRing k l).cal = s.cal := rfl
@[simp] theorem State.setRing_ylog (s : State) (k : Nat) (l : List Blk) : (s.setRing k l).ylog = s.ylog := rfl
@[simp] theorem State.setRing_die (s : State) (k : Nat) (l : List Blk) : (s.setRing k l).die = s.die := rfl
@[simp] theorem State.setRing_out (s : State) (k : Nat) (l : List Blk) : (s.setRing k l).out = s.out := rfl
@[simp] theorem State.setRing_flagged (s : State) (k : Nat) (l : List Blk) : (s.setRing k l).flagged = s.flagged := rfl
@[simp] theorem State.setRing_freeCtr (s : State) (k : Nat) (l : List Blk) : (s.setRing k l).freeCtr = s.freeCtr := rfl

/-! ### setCtx -/

@[simp] theorem State.setCtx_pending (s : State) (k : Nat) (c : Ctx) : (s.setCtx k c).pending = s.pending := rfl
@[simp] theorem State.setCtx_regs (s : State) (k : Nat) (c : Ctx) : (s.setCtx k c).regs = s.regs := rfl
@[simp] theorem State.setCtx_doms (s : State) (k : Nat) (c : Ctx) : (s.setCtx k c).doms = s.doms := rfl
@[simp] theorem State.setCtx_mode (s : State) (k : Nat) (c : Ctx) : (s.setCtx k c).mode = s.mode := rfl
@[simp] theorem State.setCtx_role (s : State) (k : Nat) (c : Ctx) : (s.setCtx k c).role = s.role := rfl
@[simp] theorem State.setCtx_strapped (s : State) (k : Nat) (c : Ctx) : (s.setCtx k c).strapped = s.strapped := rfl
@[simp] theorem State.setCtx_clock (s : State) (k : Nat) (c : Ctx) : (s.setCtx k c).clock = s.clock := rfl
@[simp] theorem State.setCtx_rst (s : State) (k : Nat) (c : Ctx) : (s.setCtx k c).rst = s.rst := rfl
@[simp] theorem State.setCtx_fuses (s : State) (k : Nat) (c : Ctx) : (s.setCtx k c).fuses = s.fuses := rfl
@[simp] theorem State.setCtx_pins (s : State) (k : Nat) (c : Ctx) : (s.setCtx k c).pins = s.pins := rfl
@[simp] theorem State.setCtx_jtag (s : State) (k : Nat) (c : Ctx) : (s.setCtx k c).jtag = s.jtag := rfl
@[simp] theorem State.setCtx_igrel (s : State) (k : Nat) (c : Ctx) : (s.setCtx k c).igrel = s.igrel := rfl
@[simp] theorem State.setCtx_flash (s : State) (k : Nat) (c : Ctx) : (s.setCtx k c).flash = s.flash := rfl
@[simp] theorem State.setCtx_raster (s : State) (k : Nat) (c : Ctx) : (s.setCtx k c).raster = s.raster := rfl
@[simp] theorem State.setCtx_slots (s : State) (k : Nat) (c : Ctx) : (s.setCtx k c).slots = s.slots := rfl
@[simp] theorem State.setCtx_health (s : State) (k : Nat) (c : Ctx) : (s.setCtx k c).health = s.health := rfl
@[simp] theorem State.setCtx_trimGen (s : State) (k : Nat) (c : Ctx) : (s.setCtx k c).trimGen = s.trimGen := rfl
@[simp] theorem State.setCtx_enc (s : State) (k : Nat) (c : Ctx) : (s.setCtx k c).enc = s.enc := rfl
@[simp] theorem State.setCtx_taper (s : State) (k : Nat) (c : Ctx) : (s.setCtx k c).taper = s.taper := rfl
@[simp] theorem State.setCtx_heads (s : State) (k : Nat) (c : Ctx) : (s.setCtx k c).heads = s.heads := rfl
@[simp] theorem State.setCtx_twin (s : State) (k : Nat) (c : Ctx) : (s.setCtx k c).twin = s.twin := rfl
@[simp] theorem State.setCtx_lantern (s : State) (k : Nat) (c : Ctx) : (s.setCtx k c).lantern = s.lantern := rfl
@[simp] theorem State.setCtx_led (s : State) (k : Nat) (c : Ctx) : (s.setCtx k c).led = s.led := rfl
@[simp] theorem State.setCtx_chans (s : State) (k : Nat) (c : Ctx) : (s.setCtx k c).chans = s.chans := rfl
@[simp] theorem State.setCtx_check (s : State) (k : Nat) (c : Ctx) : (s.setCtx k c).check = s.check := rfl
@[simp] theorem State.setCtx_dram (s : State) (k : Nat) (c : Ctx) : (s.setCtx k c).dram = s.dram := rfl
@[simp] theorem State.setCtx_wick (s : State) (k : Nat) (c : Ctx) : (s.setCtx k c).wick = s.wick := rfl
@[simp] theorem State.setCtx_loops (s : State) (k : Nat) (c : Ctx) : (s.setCtx k c).loops = s.loops := rfl
@[simp] theorem State.setCtx_spi (s : State) (k : Nat) (c : Ctx) : (s.setCtx k c).spi = s.spi := rfl
@[simp] theorem State.setCtx_axes (s : State) (k : Nat) (c : Ctx) : (s.setCtx k c).axes = s.axes := rfl
@[simp] theorem State.setCtx_ptp (s : State) (k : Nat) (c : Ctx) : (s.setCtx k c).ptp = s.ptp := rfl
@[simp] theorem State.setCtx_cal (s : State) (k : Nat) (c : Ctx) : (s.setCtx k c).cal = s.cal := rfl
@[simp] theorem State.setCtx_ylog (s : State) (k : Nat) (c : Ctx) : (s.setCtx k c).ylog = s.ylog := rfl
@[simp] theorem State.setCtx_die (s : State) (k : Nat) (c : Ctx) : (s.setCtx k c).die = s.die := rfl
@[simp] theorem State.setCtx_out (s : State) (k : Nat) (c : Ctx) : (s.setCtx k c).out = s.out := rfl
@[simp] theorem State.setCtx_flagged (s : State) (k : Nat) (c : Ctx) : (s.setCtx k c).flagged = s.flagged := rfl
@[simp] theorem State.setCtx_freeCtr (s : State) (k : Nat) (c : Ctx) : (s.setCtx k c).freeCtr = s.freeCtr := rfl

/-! ### setSlots -/

@[simp] theorem State.setSlots_pending (s : State) (st : Nat) (l : List Slot) : (s.setSlots st l).pending = s.pending := rfl
@[simp] theorem State.setSlots_regs (s : State) (st : Nat) (l : List Slot) : (s.setSlots st l).regs = s.regs := rfl
@[simp] theorem State.setSlots_doms (s : State) (st : Nat) (l : List Slot) : (s.setSlots st l).doms = s.doms := rfl
@[simp] theorem State.setSlots_mode (s : State) (st : Nat) (l : List Slot) : (s.setSlots st l).mode = s.mode := rfl
@[simp] theorem State.setSlots_role (s : State) (st : Nat) (l : List Slot) : (s.setSlots st l).role = s.role := rfl
@[simp] theorem State.setSlots_strapped (s : State) (st : Nat) (l : List Slot) : (s.setSlots st l).strapped = s.strapped := rfl
@[simp] theorem State.setSlots_clock (s : State) (st : Nat) (l : List Slot) : (s.setSlots st l).clock = s.clock := rfl
@[simp] theorem State.setSlots_rst (s : State) (st : Nat) (l : List Slot) : (s.setSlots st l).rst = s.rst := rfl
@[simp] theorem State.setSlots_fuses (s : State) (st : Nat) (l : List Slot) : (s.setSlots st l).fuses = s.fuses := rfl
@[simp] theorem State.setSlots_pins (s : State) (st : Nat) (l : List Slot) : (s.setSlots st l).pins = s.pins := rfl
@[simp] theorem State.setSlots_jtag (s : State) (st : Nat) (l : List Slot) : (s.setSlots st l).jtag = s.jtag := rfl
@[simp] theorem State.setSlots_igrel (s : State) (st : Nat) (l : List Slot) : (s.setSlots st l).igrel = s.igrel := rfl
@[simp] theorem State.setSlots_flash (s : State) (st : Nat) (l : List Slot) : (s.setSlots st l).flash = s.flash := rfl
@[simp] theorem State.setSlots_raster (s : State) (st : Nat) (l : List Slot) : (s.setSlots st l).raster = s.raster := rfl
@[simp] theorem State.setSlots_decomp (s : State) (st : Nat) (l : List Slot) : (s.setSlots st l).decomp = s.decomp := rfl
@[simp] theorem State.setSlots_health (s : State) (st : Nat) (l : List Slot) : (s.setSlots st l).health = s.health := rfl
@[simp] theorem State.setSlots_trimGen (s : State) (st : Nat) (l : List Slot) : (s.setSlots st l).trimGen = s.trimGen := rfl
@[simp] theorem State.setSlots_enc (s : State) (st : Nat) (l : List Slot) : (s.setSlots st l).enc = s.enc := rfl
@[simp] theorem State.setSlots_taper (s : State) (st : Nat) (l : List Slot) : (s.setSlots st l).taper = s.taper := rfl
@[simp] theorem State.setSlots_heads (s : State) (st : Nat) (l : List Slot) : (s.setSlots st l).heads = s.heads := rfl
@[simp] theorem State.setSlots_twin (s : State) (st : Nat) (l : List Slot) : (s.setSlots st l).twin = s.twin := rfl
@[simp] theorem State.setSlots_lantern (s : State) (st : Nat) (l : List Slot) : (s.setSlots st l).lantern = s.lantern := rfl
@[simp] theorem State.setSlots_led (s : State) (st : Nat) (l : List Slot) : (s.setSlots st l).led = s.led := rfl
@[simp] theorem State.setSlots_chans (s : State) (st : Nat) (l : List Slot) : (s.setSlots st l).chans = s.chans := rfl
@[simp] theorem State.setSlots_check (s : State) (st : Nat) (l : List Slot) : (s.setSlots st l).check = s.check := rfl
@[simp] theorem State.setSlots_dram (s : State) (st : Nat) (l : List Slot) : (s.setSlots st l).dram = s.dram := rfl
@[simp] theorem State.setSlots_wick (s : State) (st : Nat) (l : List Slot) : (s.setSlots st l).wick = s.wick := rfl
@[simp] theorem State.setSlots_loops (s : State) (st : Nat) (l : List Slot) : (s.setSlots st l).loops = s.loops := rfl
@[simp] theorem State.setSlots_spi (s : State) (st : Nat) (l : List Slot) : (s.setSlots st l).spi = s.spi := rfl
@[simp] theorem State.setSlots_axes (s : State) (st : Nat) (l : List Slot) : (s.setSlots st l).axes = s.axes := rfl
@[simp] theorem State.setSlots_ptp (s : State) (st : Nat) (l : List Slot) : (s.setSlots st l).ptp = s.ptp := rfl
@[simp] theorem State.setSlots_cal (s : State) (st : Nat) (l : List Slot) : (s.setSlots st l).cal = s.cal := rfl
@[simp] theorem State.setSlots_ylog (s : State) (st : Nat) (l : List Slot) : (s.setSlots st l).ylog = s.ylog := rfl
@[simp] theorem State.setSlots_die (s : State) (st : Nat) (l : List Slot) : (s.setSlots st l).die = s.die := rfl
@[simp] theorem State.setSlots_out (s : State) (st : Nat) (l : List Slot) : (s.setSlots st l).out = s.out := rfl
@[simp] theorem State.setSlots_flagged (s : State) (st : Nat) (l : List Slot) : (s.setSlots st l).flagged = s.flagged := rfl
@[simp] theorem State.setSlots_freeCtr (s : State) (st : Nat) (l : List Slot) : (s.setSlots st l).freeCtr = s.freeCtr := rfl

/-! ### setGroup -/

@[simp] theorem State.setGroup_pending (s : State) (g : Nat) (x : Group) : (s.setGroup g x).pending = s.pending := rfl
@[simp] theorem State.setGroup_regs (s : State) (g : Nat) (x : Group) : (s.setGroup g x).regs = s.regs := rfl
@[simp] theorem State.setGroup_doms (s : State) (g : Nat) (x : Group) : (s.setGroup g x).doms = s.doms := rfl
@[simp] theorem State.setGroup_mode (s : State) (g : Nat) (x : Group) : (s.setGroup g x).mode = s.mode := rfl
@[simp] theorem State.setGroup_role (s : State) (g : Nat) (x : Group) : (s.setGroup g x).role = s.role := rfl
@[simp] theorem State.setGroup_strapped (s : State) (g : Nat) (x : Group) : (s.setGroup g x).strapped = s.strapped := rfl
@[simp] theorem State.setGroup_clock (s : State) (g : Nat) (x : Group) : (s.setGroup g x).clock = s.clock := rfl
@[simp] theorem State.setGroup_rst (s : State) (g : Nat) (x : Group) : (s.setGroup g x).rst = s.rst := rfl
@[simp] theorem State.setGroup_fuses (s : State) (g : Nat) (x : Group) : (s.setGroup g x).fuses = s.fuses := rfl
@[simp] theorem State.setGroup_pins (s : State) (g : Nat) (x : Group) : (s.setGroup g x).pins = s.pins := rfl
@[simp] theorem State.setGroup_jtag (s : State) (g : Nat) (x : Group) : (s.setGroup g x).jtag = s.jtag := rfl
@[simp] theorem State.setGroup_igrel (s : State) (g : Nat) (x : Group) : (s.setGroup g x).igrel = s.igrel := rfl
@[simp] theorem State.setGroup_flash (s : State) (g : Nat) (x : Group) : (s.setGroup g x).flash = s.flash := rfl
@[simp] theorem State.setGroup_raster (s : State) (g : Nat) (x : Group) : (s.setGroup g x).raster = s.raster := rfl
@[simp] theorem State.setGroup_decomp (s : State) (g : Nat) (x : Group) : (s.setGroup g x).decomp = s.decomp := rfl
@[simp] theorem State.setGroup_slots (s : State) (g : Nat) (x : Group) : (s.setGroup g x).slots = s.slots := rfl
@[simp] theorem State.setGroup_health (s : State) (g : Nat) (x : Group) : (s.setGroup g x).health = s.health := rfl
@[simp] theorem State.setGroup_trimGen (s : State) (g : Nat) (x : Group) : (s.setGroup g x).trimGen = s.trimGen := rfl
@[simp] theorem State.setGroup_enc (s : State) (g : Nat) (x : Group) : (s.setGroup g x).enc = s.enc := rfl
@[simp] theorem State.setGroup_heads (s : State) (g : Nat) (x : Group) : (s.setGroup g x).heads = s.heads := rfl
@[simp] theorem State.setGroup_twin (s : State) (g : Nat) (x : Group) : (s.setGroup g x).twin = s.twin := rfl
@[simp] theorem State.setGroup_lantern (s : State) (g : Nat) (x : Group) : (s.setGroup g x).lantern = s.lantern := rfl
@[simp] theorem State.setGroup_led (s : State) (g : Nat) (x : Group) : (s.setGroup g x).led = s.led := rfl
@[simp] theorem State.setGroup_chans (s : State) (g : Nat) (x : Group) : (s.setGroup g x).chans = s.chans := rfl
@[simp] theorem State.setGroup_check (s : State) (g : Nat) (x : Group) : (s.setGroup g x).check = s.check := rfl
@[simp] theorem State.setGroup_dram (s : State) (g : Nat) (x : Group) : (s.setGroup g x).dram = s.dram := rfl
@[simp] theorem State.setGroup_wick (s : State) (g : Nat) (x : Group) : (s.setGroup g x).wick = s.wick := rfl
@[simp] theorem State.setGroup_loops (s : State) (g : Nat) (x : Group) : (s.setGroup g x).loops = s.loops := rfl
@[simp] theorem State.setGroup_spi (s : State) (g : Nat) (x : Group) : (s.setGroup g x).spi = s.spi := rfl
@[simp] theorem State.setGroup_axes (s : State) (g : Nat) (x : Group) : (s.setGroup g x).axes = s.axes := rfl
@[simp] theorem State.setGroup_ptp (s : State) (g : Nat) (x : Group) : (s.setGroup g x).ptp = s.ptp := rfl
@[simp] theorem State.setGroup_cal (s : State) (g : Nat) (x : Group) : (s.setGroup g x).cal = s.cal := rfl
@[simp] theorem State.setGroup_ylog (s : State) (g : Nat) (x : Group) : (s.setGroup g x).ylog = s.ylog := rfl
@[simp] theorem State.setGroup_die (s : State) (g : Nat) (x : Group) : (s.setGroup g x).die = s.die := rfl
@[simp] theorem State.setGroup_out (s : State) (g : Nat) (x : Group) : (s.setGroup g x).out = s.out := rfl
@[simp] theorem State.setGroup_flagged (s : State) (g : Nat) (x : Group) : (s.setGroup g x).flagged = s.flagged := rfl
@[simp] theorem State.setGroup_freeCtr (s : State) (g : Nat) (x : Group) : (s.setGroup g x).freeCtr = s.freeCtr := rfl

/-! ### setHead -/

@[simp] theorem State.setHead_pending (s : State) (m : Nat) (x : HeadLane) : (s.setHead m x).pending = s.pending := rfl
@[simp] theorem State.setHead_regs (s : State) (m : Nat) (x : HeadLane) : (s.setHead m x).regs = s.regs := rfl
@[simp] theorem State.setHead_doms (s : State) (m : Nat) (x : HeadLane) : (s.setHead m x).doms = s.doms := rfl
@[simp] theorem State.setHead_mode (s : State) (m : Nat) (x : HeadLane) : (s.setHead m x).mode = s.mode := rfl
@[simp] theorem State.setHead_role (s : State) (m : Nat) (x : HeadLane) : (s.setHead m x).role = s.role := rfl
@[simp] theorem State.setHead_strapped (s : State) (m : Nat) (x : HeadLane) : (s.setHead m x).strapped = s.strapped := rfl
@[simp] theorem State.setHead_clock (s : State) (m : Nat) (x : HeadLane) : (s.setHead m x).clock = s.clock := rfl
@[simp] theorem State.setHead_rst (s : State) (m : Nat) (x : HeadLane) : (s.setHead m x).rst = s.rst := rfl
@[simp] theorem State.setHead_fuses (s : State) (m : Nat) (x : HeadLane) : (s.setHead m x).fuses = s.fuses := rfl
@[simp] theorem State.setHead_pins (s : State) (m : Nat) (x : HeadLane) : (s.setHead m x).pins = s.pins := rfl
@[simp] theorem State.setHead_jtag (s : State) (m : Nat) (x : HeadLane) : (s.setHead m x).jtag = s.jtag := rfl
@[simp] theorem State.setHead_igrel (s : State) (m : Nat) (x : HeadLane) : (s.setHead m x).igrel = s.igrel := rfl
@[simp] theorem State.setHead_flash (s : State) (m : Nat) (x : HeadLane) : (s.setHead m x).flash = s.flash := rfl
@[simp] theorem State.setHead_raster (s : State) (m : Nat) (x : HeadLane) : (s.setHead m x).raster = s.raster := rfl
@[simp] theorem State.setHead_decomp (s : State) (m : Nat) (x : HeadLane) : (s.setHead m x).decomp = s.decomp := rfl
@[simp] theorem State.setHead_slots (s : State) (m : Nat) (x : HeadLane) : (s.setHead m x).slots = s.slots := rfl
@[simp] theorem State.setHead_health (s : State) (m : Nat) (x : HeadLane) : (s.setHead m x).health = s.health := rfl
@[simp] theorem State.setHead_trimGen (s : State) (m : Nat) (x : HeadLane) : (s.setHead m x).trimGen = s.trimGen := rfl
@[simp] theorem State.setHead_enc (s : State) (m : Nat) (x : HeadLane) : (s.setHead m x).enc = s.enc := rfl
@[simp] theorem State.setHead_taper (s : State) (m : Nat) (x : HeadLane) : (s.setHead m x).taper = s.taper := rfl
@[simp] theorem State.setHead_twin (s : State) (m : Nat) (x : HeadLane) : (s.setHead m x).twin = s.twin := rfl
@[simp] theorem State.setHead_lantern (s : State) (m : Nat) (x : HeadLane) : (s.setHead m x).lantern = s.lantern := rfl
@[simp] theorem State.setHead_led (s : State) (m : Nat) (x : HeadLane) : (s.setHead m x).led = s.led := rfl
@[simp] theorem State.setHead_chans (s : State) (m : Nat) (x : HeadLane) : (s.setHead m x).chans = s.chans := rfl
@[simp] theorem State.setHead_check (s : State) (m : Nat) (x : HeadLane) : (s.setHead m x).check = s.check := rfl
@[simp] theorem State.setHead_dram (s : State) (m : Nat) (x : HeadLane) : (s.setHead m x).dram = s.dram := rfl
@[simp] theorem State.setHead_wick (s : State) (m : Nat) (x : HeadLane) : (s.setHead m x).wick = s.wick := rfl
@[simp] theorem State.setHead_loops (s : State) (m : Nat) (x : HeadLane) : (s.setHead m x).loops = s.loops := rfl
@[simp] theorem State.setHead_spi (s : State) (m : Nat) (x : HeadLane) : (s.setHead m x).spi = s.spi := rfl
@[simp] theorem State.setHead_axes (s : State) (m : Nat) (x : HeadLane) : (s.setHead m x).axes = s.axes := rfl
@[simp] theorem State.setHead_ptp (s : State) (m : Nat) (x : HeadLane) : (s.setHead m x).ptp = s.ptp := rfl
@[simp] theorem State.setHead_cal (s : State) (m : Nat) (x : HeadLane) : (s.setHead m x).cal = s.cal := rfl
@[simp] theorem State.setHead_ylog (s : State) (m : Nat) (x : HeadLane) : (s.setHead m x).ylog = s.ylog := rfl
@[simp] theorem State.setHead_die (s : State) (m : Nat) (x : HeadLane) : (s.setHead m x).die = s.die := rfl
@[simp] theorem State.setHead_out (s : State) (m : Nat) (x : HeadLane) : (s.setHead m x).out = s.out := rfl
@[simp] theorem State.setHead_flagged (s : State) (m : Nat) (x : HeadLane) : (s.setHead m x).flagged = s.flagged := rfl
@[simp] theorem State.setHead_freeCtr (s : State) (m : Nat) (x : HeadLane) : (s.setHead m x).freeCtr = s.freeCtr := rfl

/-! ### setChan -/

@[simp] theorem State.setChan_pending (s : State) (c : Nat) (x : Chan) : (s.setChan c x).pending = s.pending := rfl
@[simp] theorem State.setChan_regs (s : State) (c : Nat) (x : Chan) : (s.setChan c x).regs = s.regs := rfl
@[simp] theorem State.setChan_doms (s : State) (c : Nat) (x : Chan) : (s.setChan c x).doms = s.doms := rfl
@[simp] theorem State.setChan_mode (s : State) (c : Nat) (x : Chan) : (s.setChan c x).mode = s.mode := rfl
@[simp] theorem State.setChan_role (s : State) (c : Nat) (x : Chan) : (s.setChan c x).role = s.role := rfl
@[simp] theorem State.setChan_strapped (s : State) (c : Nat) (x : Chan) : (s.setChan c x).strapped = s.strapped := rfl
@[simp] theorem State.setChan_clock (s : State) (c : Nat) (x : Chan) : (s.setChan c x).clock = s.clock := rfl
@[simp] theorem State.setChan_rst (s : State) (c : Nat) (x : Chan) : (s.setChan c x).rst = s.rst := rfl
@[simp] theorem State.setChan_fuses (s : State) (c : Nat) (x : Chan) : (s.setChan c x).fuses = s.fuses := rfl
@[simp] theorem State.setChan_pins (s : State) (c : Nat) (x : Chan) : (s.setChan c x).pins = s.pins := rfl
@[simp] theorem State.setChan_jtag (s : State) (c : Nat) (x : Chan) : (s.setChan c x).jtag = s.jtag := rfl
@[simp] theorem State.setChan_igrel (s : State) (c : Nat) (x : Chan) : (s.setChan c x).igrel = s.igrel := rfl
@[simp] theorem State.setChan_flash (s : State) (c : Nat) (x : Chan) : (s.setChan c x).flash = s.flash := rfl
@[simp] theorem State.setChan_raster (s : State) (c : Nat) (x : Chan) : (s.setChan c x).raster = s.raster := rfl
@[simp] theorem State.setChan_decomp (s : State) (c : Nat) (x : Chan) : (s.setChan c x).decomp = s.decomp := rfl
@[simp] theorem State.setChan_slots (s : State) (c : Nat) (x : Chan) : (s.setChan c x).slots = s.slots := rfl
@[simp] theorem State.setChan_health (s : State) (c : Nat) (x : Chan) : (s.setChan c x).health = s.health := rfl
@[simp] theorem State.setChan_trimGen (s : State) (c : Nat) (x : Chan) : (s.setChan c x).trimGen = s.trimGen := rfl
@[simp] theorem State.setChan_enc (s : State) (c : Nat) (x : Chan) : (s.setChan c x).enc = s.enc := rfl
@[simp] theorem State.setChan_taper (s : State) (c : Nat) (x : Chan) : (s.setChan c x).taper = s.taper := rfl
@[simp] theorem State.setChan_heads (s : State) (c : Nat) (x : Chan) : (s.setChan c x).heads = s.heads := rfl
@[simp] theorem State.setChan_twin (s : State) (c : Nat) (x : Chan) : (s.setChan c x).twin = s.twin := rfl
@[simp] theorem State.setChan_lantern (s : State) (c : Nat) (x : Chan) : (s.setChan c x).lantern = s.lantern := rfl
@[simp] theorem State.setChan_led (s : State) (c : Nat) (x : Chan) : (s.setChan c x).led = s.led := rfl
@[simp] theorem State.setChan_check (s : State) (c : Nat) (x : Chan) : (s.setChan c x).check = s.check := rfl
@[simp] theorem State.setChan_dram (s : State) (c : Nat) (x : Chan) : (s.setChan c x).dram = s.dram := rfl
@[simp] theorem State.setChan_wick (s : State) (c : Nat) (x : Chan) : (s.setChan c x).wick = s.wick := rfl
@[simp] theorem State.setChan_loops (s : State) (c : Nat) (x : Chan) : (s.setChan c x).loops = s.loops := rfl
@[simp] theorem State.setChan_spi (s : State) (c : Nat) (x : Chan) : (s.setChan c x).spi = s.spi := rfl
@[simp] theorem State.setChan_axes (s : State) (c : Nat) (x : Chan) : (s.setChan c x).axes = s.axes := rfl
@[simp] theorem State.setChan_ptp (s : State) (c : Nat) (x : Chan) : (s.setChan c x).ptp = s.ptp := rfl
@[simp] theorem State.setChan_cal (s : State) (c : Nat) (x : Chan) : (s.setChan c x).cal = s.cal := rfl
@[simp] theorem State.setChan_ylog (s : State) (c : Nat) (x : Chan) : (s.setChan c x).ylog = s.ylog := rfl
@[simp] theorem State.setChan_die (s : State) (c : Nat) (x : Chan) : (s.setChan c x).die = s.die := rfl
@[simp] theorem State.setChan_out (s : State) (c : Nat) (x : Chan) : (s.setChan c x).out = s.out := rfl
@[simp] theorem State.setChan_flagged (s : State) (c : Nat) (x : Chan) : (s.setChan c x).flagged = s.flagged := rfl
@[simp] theorem State.setChan_freeCtr (s : State) (c : Nat) (x : Chan) : (s.setChan c x).freeCtr = s.freeCtr := rfl

/-! ### setLoop -/

@[simp] theorem State.setLoop_pending (s : State) (i : Nat) (x : LoopDyn) : (s.setLoop i x).pending = s.pending := rfl
@[simp] theorem State.setLoop_regs (s : State) (i : Nat) (x : LoopDyn) : (s.setLoop i x).regs = s.regs := rfl
@[simp] theorem State.setLoop_doms (s : State) (i : Nat) (x : LoopDyn) : (s.setLoop i x).doms = s.doms := rfl
@[simp] theorem State.setLoop_mode (s : State) (i : Nat) (x : LoopDyn) : (s.setLoop i x).mode = s.mode := rfl
@[simp] theorem State.setLoop_role (s : State) (i : Nat) (x : LoopDyn) : (s.setLoop i x).role = s.role := rfl
@[simp] theorem State.setLoop_strapped (s : State) (i : Nat) (x : LoopDyn) : (s.setLoop i x).strapped = s.strapped := rfl
@[simp] theorem State.setLoop_clock (s : State) (i : Nat) (x : LoopDyn) : (s.setLoop i x).clock = s.clock := rfl
@[simp] theorem State.setLoop_rst (s : State) (i : Nat) (x : LoopDyn) : (s.setLoop i x).rst = s.rst := rfl
@[simp] theorem State.setLoop_fuses (s : State) (i : Nat) (x : LoopDyn) : (s.setLoop i x).fuses = s.fuses := rfl
@[simp] theorem State.setLoop_pins (s : State) (i : Nat) (x : LoopDyn) : (s.setLoop i x).pins = s.pins := rfl
@[simp] theorem State.setLoop_jtag (s : State) (i : Nat) (x : LoopDyn) : (s.setLoop i x).jtag = s.jtag := rfl
@[simp] theorem State.setLoop_igrel (s : State) (i : Nat) (x : LoopDyn) : (s.setLoop i x).igrel = s.igrel := rfl
@[simp] theorem State.setLoop_flash (s : State) (i : Nat) (x : LoopDyn) : (s.setLoop i x).flash = s.flash := rfl
@[simp] theorem State.setLoop_raster (s : State) (i : Nat) (x : LoopDyn) : (s.setLoop i x).raster = s.raster := rfl
@[simp] theorem State.setLoop_decomp (s : State) (i : Nat) (x : LoopDyn) : (s.setLoop i x).decomp = s.decomp := rfl
@[simp] theorem State.setLoop_slots (s : State) (i : Nat) (x : LoopDyn) : (s.setLoop i x).slots = s.slots := rfl
@[simp] theorem State.setLoop_health (s : State) (i : Nat) (x : LoopDyn) : (s.setLoop i x).health = s.health := rfl
@[simp] theorem State.setLoop_trimGen (s : State) (i : Nat) (x : LoopDyn) : (s.setLoop i x).trimGen = s.trimGen := rfl
@[simp] theorem State.setLoop_enc (s : State) (i : Nat) (x : LoopDyn) : (s.setLoop i x).enc = s.enc := rfl
@[simp] theorem State.setLoop_taper (s : State) (i : Nat) (x : LoopDyn) : (s.setLoop i x).taper = s.taper := rfl
@[simp] theorem State.setLoop_heads (s : State) (i : Nat) (x : LoopDyn) : (s.setLoop i x).heads = s.heads := rfl
@[simp] theorem State.setLoop_twin (s : State) (i : Nat) (x : LoopDyn) : (s.setLoop i x).twin = s.twin := rfl
@[simp] theorem State.setLoop_lantern (s : State) (i : Nat) (x : LoopDyn) : (s.setLoop i x).lantern = s.lantern := rfl
@[simp] theorem State.setLoop_led (s : State) (i : Nat) (x : LoopDyn) : (s.setLoop i x).led = s.led := rfl
@[simp] theorem State.setLoop_chans (s : State) (i : Nat) (x : LoopDyn) : (s.setLoop i x).chans = s.chans := rfl
@[simp] theorem State.setLoop_check (s : State) (i : Nat) (x : LoopDyn) : (s.setLoop i x).check = s.check := rfl
@[simp] theorem State.setLoop_dram (s : State) (i : Nat) (x : LoopDyn) : (s.setLoop i x).dram = s.dram := rfl
@[simp] theorem State.setLoop_wick (s : State) (i : Nat) (x : LoopDyn) : (s.setLoop i x).wick = s.wick := rfl
@[simp] theorem State.setLoop_spi (s : State) (i : Nat) (x : LoopDyn) : (s.setLoop i x).spi = s.spi := rfl
@[simp] theorem State.setLoop_axes (s : State) (i : Nat) (x : LoopDyn) : (s.setLoop i x).axes = s.axes := rfl
@[simp] theorem State.setLoop_ptp (s : State) (i : Nat) (x : LoopDyn) : (s.setLoop i x).ptp = s.ptp := rfl
@[simp] theorem State.setLoop_cal (s : State) (i : Nat) (x : LoopDyn) : (s.setLoop i x).cal = s.cal := rfl
@[simp] theorem State.setLoop_ylog (s : State) (i : Nat) (x : LoopDyn) : (s.setLoop i x).ylog = s.ylog := rfl
@[simp] theorem State.setLoop_die (s : State) (i : Nat) (x : LoopDyn) : (s.setLoop i x).die = s.die := rfl
@[simp] theorem State.setLoop_out (s : State) (i : Nat) (x : LoopDyn) : (s.setLoop i x).out = s.out := rfl
@[simp] theorem State.setLoop_flagged (s : State) (i : Nat) (x : LoopDyn) : (s.setLoop i x).flagged = s.flagged := rfl
@[simp] theorem State.setLoop_freeCtr (s : State) (i : Nat) (x : LoopDyn) : (s.setLoop i x).freeCtr = s.freeCtr := rfl

/-! ### setAxis -/

@[simp] theorem State.setAxis_pending (s : State) (a : Nat) (x : Axis) : (s.setAxis a x).pending = s.pending := rfl
@[simp] theorem State.setAxis_regs (s : State) (a : Nat) (x : Axis) : (s.setAxis a x).regs = s.regs := rfl
@[simp] theorem State.setAxis_doms (s : State) (a : Nat) (x : Axis) : (s.setAxis a x).doms = s.doms := rfl
@[simp] theorem State.setAxis_mode (s : State) (a : Nat) (x : Axis) : (s.setAxis a x).mode = s.mode := rfl
@[simp] theorem State.setAxis_role (s : State) (a : Nat) (x : Axis) : (s.setAxis a x).role = s.role := rfl
@[simp] theorem State.setAxis_strapped (s : State) (a : Nat) (x : Axis) : (s.setAxis a x).strapped = s.strapped := rfl
@[simp] theorem State.setAxis_clock (s : State) (a : Nat) (x : Axis) : (s.setAxis a x).clock = s.clock := rfl
@[simp] theorem State.setAxis_rst (s : State) (a : Nat) (x : Axis) : (s.setAxis a x).rst = s.rst := rfl
@[simp] theorem State.setAxis_fuses (s : State) (a : Nat) (x : Axis) : (s.setAxis a x).fuses = s.fuses := rfl
@[simp] theorem State.setAxis_pins (s : State) (a : Nat) (x : Axis) : (s.setAxis a x).pins = s.pins := rfl
@[simp] theorem State.setAxis_jtag (s : State) (a : Nat) (x : Axis) : (s.setAxis a x).jtag = s.jtag := rfl
@[simp] theorem State.setAxis_igrel (s : State) (a : Nat) (x : Axis) : (s.setAxis a x).igrel = s.igrel := rfl
@[simp] theorem State.setAxis_flash (s : State) (a : Nat) (x : Axis) : (s.setAxis a x).flash = s.flash := rfl
@[simp] theorem State.setAxis_raster (s : State) (a : Nat) (x : Axis) : (s.setAxis a x).raster = s.raster := rfl
@[simp] theorem State.setAxis_decomp (s : State) (a : Nat) (x : Axis) : (s.setAxis a x).decomp = s.decomp := rfl
@[simp] theorem State.setAxis_slots (s : State) (a : Nat) (x : Axis) : (s.setAxis a x).slots = s.slots := rfl
@[simp] theorem State.setAxis_health (s : State) (a : Nat) (x : Axis) : (s.setAxis a x).health = s.health := rfl
@[simp] theorem State.setAxis_trimGen (s : State) (a : Nat) (x : Axis) : (s.setAxis a x).trimGen = s.trimGen := rfl
@[simp] theorem State.setAxis_enc (s : State) (a : Nat) (x : Axis) : (s.setAxis a x).enc = s.enc := rfl
@[simp] theorem State.setAxis_taper (s : State) (a : Nat) (x : Axis) : (s.setAxis a x).taper = s.taper := rfl
@[simp] theorem State.setAxis_heads (s : State) (a : Nat) (x : Axis) : (s.setAxis a x).heads = s.heads := rfl
@[simp] theorem State.setAxis_twin (s : State) (a : Nat) (x : Axis) : (s.setAxis a x).twin = s.twin := rfl
@[simp] theorem State.setAxis_lantern (s : State) (a : Nat) (x : Axis) : (s.setAxis a x).lantern = s.lantern := rfl
@[simp] theorem State.setAxis_led (s : State) (a : Nat) (x : Axis) : (s.setAxis a x).led = s.led := rfl
@[simp] theorem State.setAxis_chans (s : State) (a : Nat) (x : Axis) : (s.setAxis a x).chans = s.chans := rfl
@[simp] theorem State.setAxis_check (s : State) (a : Nat) (x : Axis) : (s.setAxis a x).check = s.check := rfl
@[simp] theorem State.setAxis_dram (s : State) (a : Nat) (x : Axis) : (s.setAxis a x).dram = s.dram := rfl
@[simp] theorem State.setAxis_wick (s : State) (a : Nat) (x : Axis) : (s.setAxis a x).wick = s.wick := rfl
@[simp] theorem State.setAxis_loops (s : State) (a : Nat) (x : Axis) : (s.setAxis a x).loops = s.loops := rfl
@[simp] theorem State.setAxis_spi (s : State) (a : Nat) (x : Axis) : (s.setAxis a x).spi = s.spi := rfl
@[simp] theorem State.setAxis_ptp (s : State) (a : Nat) (x : Axis) : (s.setAxis a x).ptp = s.ptp := rfl
@[simp] theorem State.setAxis_cal (s : State) (a : Nat) (x : Axis) : (s.setAxis a x).cal = s.cal := rfl
@[simp] theorem State.setAxis_ylog (s : State) (a : Nat) (x : Axis) : (s.setAxis a x).ylog = s.ylog := rfl
@[simp] theorem State.setAxis_die (s : State) (a : Nat) (x : Axis) : (s.setAxis a x).die = s.die := rfl
@[simp] theorem State.setAxis_out (s : State) (a : Nat) (x : Axis) : (s.setAxis a x).out = s.out := rfl
@[simp] theorem State.setAxis_flagged (s : State) (a : Nat) (x : Axis) : (s.setAxis a x).flagged = s.flagged := rfl
@[simp] theorem State.setAxis_freeCtr (s : State) (a : Nat) (x : Axis) : (s.setAxis a x).freeCtr = s.freeCtr := rfl

/-! ### setEncCh -/

@[simp] theorem State.setEncCh_pending (s : State) (ch : Nat) (x : EncCh) : (s.setEncCh ch x).pending = s.pending := rfl
@[simp] theorem State.setEncCh_regs (s : State) (ch : Nat) (x : EncCh) : (s.setEncCh ch x).regs = s.regs := rfl
@[simp] theorem State.setEncCh_doms (s : State) (ch : Nat) (x : EncCh) : (s.setEncCh ch x).doms = s.doms := rfl
@[simp] theorem State.setEncCh_mode (s : State) (ch : Nat) (x : EncCh) : (s.setEncCh ch x).mode = s.mode := rfl
@[simp] theorem State.setEncCh_role (s : State) (ch : Nat) (x : EncCh) : (s.setEncCh ch x).role = s.role := rfl
@[simp] theorem State.setEncCh_strapped (s : State) (ch : Nat) (x : EncCh) : (s.setEncCh ch x).strapped = s.strapped := rfl
@[simp] theorem State.setEncCh_clock (s : State) (ch : Nat) (x : EncCh) : (s.setEncCh ch x).clock = s.clock := rfl
@[simp] theorem State.setEncCh_rst (s : State) (ch : Nat) (x : EncCh) : (s.setEncCh ch x).rst = s.rst := rfl
@[simp] theorem State.setEncCh_fuses (s : State) (ch : Nat) (x : EncCh) : (s.setEncCh ch x).fuses = s.fuses := rfl
@[simp] theorem State.setEncCh_pins (s : State) (ch : Nat) (x : EncCh) : (s.setEncCh ch x).pins = s.pins := rfl
@[simp] theorem State.setEncCh_jtag (s : State) (ch : Nat) (x : EncCh) : (s.setEncCh ch x).jtag = s.jtag := rfl
@[simp] theorem State.setEncCh_igrel (s : State) (ch : Nat) (x : EncCh) : (s.setEncCh ch x).igrel = s.igrel := rfl
@[simp] theorem State.setEncCh_flash (s : State) (ch : Nat) (x : EncCh) : (s.setEncCh ch x).flash = s.flash := rfl
@[simp] theorem State.setEncCh_raster (s : State) (ch : Nat) (x : EncCh) : (s.setEncCh ch x).raster = s.raster := rfl
@[simp] theorem State.setEncCh_decomp (s : State) (ch : Nat) (x : EncCh) : (s.setEncCh ch x).decomp = s.decomp := rfl
@[simp] theorem State.setEncCh_slots (s : State) (ch : Nat) (x : EncCh) : (s.setEncCh ch x).slots = s.slots := rfl
@[simp] theorem State.setEncCh_health (s : State) (ch : Nat) (x : EncCh) : (s.setEncCh ch x).health = s.health := rfl
@[simp] theorem State.setEncCh_trimGen (s : State) (ch : Nat) (x : EncCh) : (s.setEncCh ch x).trimGen = s.trimGen := rfl
@[simp] theorem State.setEncCh_taper (s : State) (ch : Nat) (x : EncCh) : (s.setEncCh ch x).taper = s.taper := rfl
@[simp] theorem State.setEncCh_heads (s : State) (ch : Nat) (x : EncCh) : (s.setEncCh ch x).heads = s.heads := rfl
@[simp] theorem State.setEncCh_twin (s : State) (ch : Nat) (x : EncCh) : (s.setEncCh ch x).twin = s.twin := rfl
@[simp] theorem State.setEncCh_lantern (s : State) (ch : Nat) (x : EncCh) : (s.setEncCh ch x).lantern = s.lantern := rfl
@[simp] theorem State.setEncCh_led (s : State) (ch : Nat) (x : EncCh) : (s.setEncCh ch x).led = s.led := rfl
@[simp] theorem State.setEncCh_chans (s : State) (ch : Nat) (x : EncCh) : (s.setEncCh ch x).chans = s.chans := rfl
@[simp] theorem State.setEncCh_check (s : State) (ch : Nat) (x : EncCh) : (s.setEncCh ch x).check = s.check := rfl
@[simp] theorem State.setEncCh_dram (s : State) (ch : Nat) (x : EncCh) : (s.setEncCh ch x).dram = s.dram := rfl
@[simp] theorem State.setEncCh_wick (s : State) (ch : Nat) (x : EncCh) : (s.setEncCh ch x).wick = s.wick := rfl
@[simp] theorem State.setEncCh_loops (s : State) (ch : Nat) (x : EncCh) : (s.setEncCh ch x).loops = s.loops := rfl
@[simp] theorem State.setEncCh_spi (s : State) (ch : Nat) (x : EncCh) : (s.setEncCh ch x).spi = s.spi := rfl
@[simp] theorem State.setEncCh_axes (s : State) (ch : Nat) (x : EncCh) : (s.setEncCh ch x).axes = s.axes := rfl
@[simp] theorem State.setEncCh_ptp (s : State) (ch : Nat) (x : EncCh) : (s.setEncCh ch x).ptp = s.ptp := rfl
@[simp] theorem State.setEncCh_cal (s : State) (ch : Nat) (x : EncCh) : (s.setEncCh ch x).cal = s.cal := rfl
@[simp] theorem State.setEncCh_ylog (s : State) (ch : Nat) (x : EncCh) : (s.setEncCh ch x).ylog = s.ylog := rfl
@[simp] theorem State.setEncCh_die (s : State) (ch : Nat) (x : EncCh) : (s.setEncCh ch x).die = s.die := rfl
@[simp] theorem State.setEncCh_out (s : State) (ch : Nat) (x : EncCh) : (s.setEncCh ch x).out = s.out := rfl
@[simp] theorem State.setEncCh_flagged (s : State) (ch : Nat) (x : EncCh) : (s.setEncCh ch x).flagged = s.flagged := rfl
@[simp] theorem State.setEncCh_freeCtr (s : State) (ch : Nat) (x : EncCh) : (s.setEncCh ch x).freeCtr = s.freeCtr := rfl

/-! ### emit -/

@[simp] theorem State.emit_pending (s : State) (o : Out) : (s.emit o).pending = s.pending := rfl
@[simp] theorem State.emit_regs (s : State) (o : Out) : (s.emit o).regs = s.regs := rfl
@[simp] theorem State.emit_doms (s : State) (o : Out) : (s.emit o).doms = s.doms := rfl
@[simp] theorem State.emit_mode (s : State) (o : Out) : (s.emit o).mode = s.mode := rfl
@[simp] theorem State.emit_role (s : State) (o : Out) : (s.emit o).role = s.role := rfl
@[simp] theorem State.emit_strapped (s : State) (o : Out) : (s.emit o).strapped = s.strapped := rfl
@[simp] theorem State.emit_clock (s : State) (o : Out) : (s.emit o).clock = s.clock := rfl
@[simp] theorem State.emit_rst (s : State) (o : Out) : (s.emit o).rst = s.rst := rfl
@[simp] theorem State.emit_fuses (s : State) (o : Out) : (s.emit o).fuses = s.fuses := rfl
@[simp] theorem State.emit_pins (s : State) (o : Out) : (s.emit o).pins = s.pins := rfl
@[simp] theorem State.emit_jtag (s : State) (o : Out) : (s.emit o).jtag = s.jtag := rfl
@[simp] theorem State.emit_igrel (s : State) (o : Out) : (s.emit o).igrel = s.igrel := rfl
@[simp] theorem State.emit_flash (s : State) (o : Out) : (s.emit o).flash = s.flash := rfl
@[simp] theorem State.emit_raster (s : State) (o : Out) : (s.emit o).raster = s.raster := rfl
@[simp] theorem State.emit_decomp (s : State) (o : Out) : (s.emit o).decomp = s.decomp := rfl
@[simp] theorem State.emit_slots (s : State) (o : Out) : (s.emit o).slots = s.slots := rfl
@[simp] theorem State.emit_health (s : State) (o : Out) : (s.emit o).health = s.health := rfl
@[simp] theorem State.emit_trimGen (s : State) (o : Out) : (s.emit o).trimGen = s.trimGen := rfl
@[simp] theorem State.emit_enc (s : State) (o : Out) : (s.emit o).enc = s.enc := rfl
@[simp] theorem State.emit_taper (s : State) (o : Out) : (s.emit o).taper = s.taper := rfl
@[simp] theorem State.emit_heads (s : State) (o : Out) : (s.emit o).heads = s.heads := rfl
@[simp] theorem State.emit_twin (s : State) (o : Out) : (s.emit o).twin = s.twin := rfl
@[simp] theorem State.emit_lantern (s : State) (o : Out) : (s.emit o).lantern = s.lantern := rfl
@[simp] theorem State.emit_led (s : State) (o : Out) : (s.emit o).led = s.led := rfl
@[simp] theorem State.emit_chans (s : State) (o : Out) : (s.emit o).chans = s.chans := rfl
@[simp] theorem State.emit_check (s : State) (o : Out) : (s.emit o).check = s.check := rfl
@[simp] theorem State.emit_dram (s : State) (o : Out) : (s.emit o).dram = s.dram := rfl
@[simp] theorem State.emit_wick (s : State) (o : Out) : (s.emit o).wick = s.wick := rfl
@[simp] theorem State.emit_loops (s : State) (o : Out) : (s.emit o).loops = s.loops := rfl
@[simp] theorem State.emit_spi (s : State) (o : Out) : (s.emit o).spi = s.spi := rfl
@[simp] theorem State.emit_axes (s : State) (o : Out) : (s.emit o).axes = s.axes := rfl
@[simp] theorem State.emit_ptp (s : State) (o : Out) : (s.emit o).ptp = s.ptp := rfl
@[simp] theorem State.emit_cal (s : State) (o : Out) : (s.emit o).cal = s.cal := rfl
@[simp] theorem State.emit_ylog (s : State) (o : Out) : (s.emit o).ylog = s.ylog := rfl
@[simp] theorem State.emit_die (s : State) (o : Out) : (s.emit o).die = s.die := rfl
@[simp] theorem State.emit_flagged (s : State) (o : Out) : (s.emit o).flagged = s.flagged := rfl
@[simp] theorem State.emit_freeCtr (s : State) (o : Out) : (s.emit o).freeCtr = s.freeCtr := rfl

/-! ### count -/

@[simp] theorem State.count_pending (s : State) (key n : Nat) : (s.count key n).pending = s.pending := rfl
@[simp] theorem State.count_doms (s : State) (key n : Nat) : (s.count key n).doms = s.doms := rfl
@[simp] theorem State.count_mode (s : State) (key n : Nat) : (s.count key n).mode = s.mode := rfl
@[simp] theorem State.count_role (s : State) (key n : Nat) : (s.count key n).role = s.role := rfl
@[simp] theorem State.count_strapped (s : State) (key n : Nat) : (s.count key n).strapped = s.strapped := rfl
@[simp] theorem State.count_clock (s : State) (key n : Nat) : (s.count key n).clock = s.clock := rfl
@[simp] theorem State.count_rst (s : State) (key n : Nat) : (s.count key n).rst = s.rst := rfl
@[simp] theorem State.count_fuses (s : State) (key n : Nat) : (s.count key n).fuses = s.fuses := rfl
@[simp] theorem State.count_pins (s : State) (key n : Nat) : (s.count key n).pins = s.pins := rfl
@[simp] theorem State.count_jtag (s : State) (key n : Nat) : (s.count key n).jtag = s.jtag := rfl
@[simp] theorem State.count_igrel (s : State) (key n : Nat) : (s.count key n).igrel = s.igrel := rfl
@[simp] theorem State.count_flash (s : State) (key n : Nat) : (s.count key n).flash = s.flash := rfl
@[simp] theorem State.count_raster (s : State) (key n : Nat) : (s.count key n).raster = s.raster := rfl
@[simp] theorem State.count_decomp (s : State) (key n : Nat) : (s.count key n).decomp = s.decomp := rfl
@[simp] theorem State.count_slots (s : State) (key n : Nat) : (s.count key n).slots = s.slots := rfl
@[simp] theorem State.count_health (s : State) (key n : Nat) : (s.count key n).health = s.health := rfl
@[simp] theorem State.count_trimGen (s : State) (key n : Nat) : (s.count key n).trimGen = s.trimGen := rfl
@[simp] theorem State.count_enc (s : State) (key n : Nat) : (s.count key n).enc = s.enc := rfl
@[simp] theorem State.count_taper (s : State) (key n : Nat) : (s.count key n).taper = s.taper := rfl
@[simp] theorem State.count_heads (s : State) (key n : Nat) : (s.count key n).heads = s.heads := rfl
@[simp] theorem State.count_twin (s : State) (key n : Nat) : (s.count key n).twin = s.twin := rfl
@[simp] theorem State.count_lantern (s : State) (key n : Nat) : (s.count key n).lantern = s.lantern := rfl
@[simp] theorem State.count_led (s : State) (key n : Nat) : (s.count key n).led = s.led := rfl
@[simp] theorem State.count_chans (s : State) (key n : Nat) : (s.count key n).chans = s.chans := rfl
@[simp] theorem State.count_check (s : State) (key n : Nat) : (s.count key n).check = s.check := rfl
@[simp] theorem State.count_dram (s : State) (key n : Nat) : (s.count key n).dram = s.dram := rfl
@[simp] theorem State.count_wick (s : State) (key n : Nat) : (s.count key n).wick = s.wick := rfl
@[simp] theorem State.count_loops (s : State) (key n : Nat) : (s.count key n).loops = s.loops := rfl
@[simp] theorem State.count_spi (s : State) (key n : Nat) : (s.count key n).spi = s.spi := rfl
@[simp] theorem State.count_axes (s : State) (key n : Nat) : (s.count key n).axes = s.axes := rfl
@[simp] theorem State.count_ptp (s : State) (key n : Nat) : (s.count key n).ptp = s.ptp := rfl
@[simp] theorem State.count_cal (s : State) (key n : Nat) : (s.count key n).cal = s.cal := rfl
@[simp] theorem State.count_ylog (s : State) (key n : Nat) : (s.count key n).ylog = s.ylog := rfl
@[simp] theorem State.count_die (s : State) (key n : Nat) : (s.count key n).die = s.die := rfl
@[simp] theorem State.count_out (s : State) (key n : Nat) : (s.count key n).out = s.out := rfl
@[simp] theorem State.count_flagged (s : State) (key n : Nat) : (s.count key n).flagged = s.flagged := rfl
@[simp] theorem State.count_freeCtr (s : State) (key n : Nat) : (s.count key n).freeCtr = s.freeCtr := rfl

/-! ### bump -/

@[simp] theorem State.bump_pending (s : State) (key : Nat) : (s.bump key).pending = s.pending := rfl
@[simp] theorem State.bump_doms (s : State) (key : Nat) : (s.bump key).doms = s.doms := rfl
@[simp] theorem State.bump_mode (s : State) (key : Nat) : (s.bump key).mode = s.mode := rfl
@[simp] theorem State.bump_role (s : State) (key : Nat) : (s.bump key).role = s.role := rfl
@[simp] theorem State.bump_strapped (s : State) (key : Nat) : (s.bump key).strapped = s.strapped := rfl
@[simp] theorem State.bump_clock (s : State) (key : Nat) : (s.bump key).clock = s.clock := rfl
@[simp] theorem State.bump_rst (s : State) (key : Nat) : (s.bump key).rst = s.rst := rfl
@[simp] theorem State.bump_fuses (s : State) (key : Nat) : (s.bump key).fuses = s.fuses := rfl
@[simp] theorem State.bump_pins (s : State) (key : Nat) : (s.bump key).pins = s.pins := rfl
@[simp] theorem State.bump_jtag (s : State) (key : Nat) : (s.bump key).jtag = s.jtag := rfl
@[simp] theorem State.bump_igrel (s : State) (key : Nat) : (s.bump key).igrel = s.igrel := rfl
@[simp] theorem State.bump_flash (s : State) (key : Nat) : (s.bump key).flash = s.flash := rfl
@[simp] theorem State.bump_raster (s : State) (key : Nat) : (s.bump key).raster = s.raster := rfl
@[simp] theorem State.bump_decomp (s : State) (key : Nat) : (s.bump key).decomp = s.decomp := rfl
@[simp] theorem State.bump_slots (s : State) (key : Nat) : (s.bump key).slots = s.slots := rfl
@[simp] theorem State.bump_health (s : State) (key : Nat) : (s.bump key).health = s.health := rfl
@[simp] theorem State.bump_trimGen (s : State) (key : Nat) : (s.bump key).trimGen = s.trimGen := rfl
@[simp] theorem State.bump_enc (s : State) (key : Nat) : (s.bump key).enc = s.enc := rfl
@[simp] theorem State.bump_taper (s : State) (key : Nat) : (s.bump key).taper = s.taper := rfl
@[simp] theorem State.bump_heads (s : State) (key : Nat) : (s.bump key).heads = s.heads := rfl
@[simp] theorem State.bump_twin (s : State) (key : Nat) : (s.bump key).twin = s.twin := rfl
@[simp] theorem State.bump_lantern (s : State) (key : Nat) : (s.bump key).lantern = s.lantern := rfl
@[simp] theorem State.bump_led (s : State) (key : Nat) : (s.bump key).led = s.led := rfl
@[simp] theorem State.bump_chans (s : State) (key : Nat) : (s.bump key).chans = s.chans := rfl
@[simp] theorem State.bump_check (s : State) (key : Nat) : (s.bump key).check = s.check := rfl
@[simp] theorem State.bump_dram (s : State) (key : Nat) : (s.bump key).dram = s.dram := rfl
@[simp] theorem State.bump_wick (s : State) (key : Nat) : (s.bump key).wick = s.wick := rfl
@[simp] theorem State.bump_loops (s : State) (key : Nat) : (s.bump key).loops = s.loops := rfl
@[simp] theorem State.bump_spi (s : State) (key : Nat) : (s.bump key).spi = s.spi := rfl
@[simp] theorem State.bump_axes (s : State) (key : Nat) : (s.bump key).axes = s.axes := rfl
@[simp] theorem State.bump_ptp (s : State) (key : Nat) : (s.bump key).ptp = s.ptp := rfl
@[simp] theorem State.bump_cal (s : State) (key : Nat) : (s.bump key).cal = s.cal := rfl
@[simp] theorem State.bump_ylog (s : State) (key : Nat) : (s.bump key).ylog = s.ylog := rfl
@[simp] theorem State.bump_die (s : State) (key : Nat) : (s.bump key).die = s.die := rfl
@[simp] theorem State.bump_out (s : State) (key : Nat) : (s.bump key).out = s.out := rfl
@[simp] theorem State.bump_flagged (s : State) (key : Nat) : (s.bump key).flagged = s.flagged := rfl
@[simp] theorem State.bump_freeCtr (s : State) (key : Nat) : (s.bump key).freeCtr = s.freeCtr := rfl

/-! ### noteFlags -/

@[simp] theorem State.noteFlags_pending (s : State) (key m : Nat) : (s.noteFlags key m).pending = s.pending := rfl
@[simp] theorem State.noteFlags_regs (s : State) (key m : Nat) : (s.noteFlags key m).regs = s.regs := rfl
@[simp] theorem State.noteFlags_doms (s : State) (key m : Nat) : (s.noteFlags key m).doms = s.doms := rfl
@[simp] theorem State.noteFlags_mode (s : State) (key m : Nat) : (s.noteFlags key m).mode = s.mode := rfl
@[simp] theorem State.noteFlags_role (s : State) (key m : Nat) : (s.noteFlags key m).role = s.role := rfl
@[simp] theorem State.noteFlags_strapped (s : State) (key m : Nat) : (s.noteFlags key m).strapped = s.strapped := rfl
@[simp] theorem State.noteFlags_clock (s : State) (key m : Nat) : (s.noteFlags key m).clock = s.clock := rfl
@[simp] theorem State.noteFlags_rst (s : State) (key m : Nat) : (s.noteFlags key m).rst = s.rst := rfl
@[simp] theorem State.noteFlags_fuses (s : State) (key m : Nat) : (s.noteFlags key m).fuses = s.fuses := rfl
@[simp] theorem State.noteFlags_pins (s : State) (key m : Nat) : (s.noteFlags key m).pins = s.pins := rfl
@[simp] theorem State.noteFlags_jtag (s : State) (key m : Nat) : (s.noteFlags key m).jtag = s.jtag := rfl
@[simp] theorem State.noteFlags_igrel (s : State) (key m : Nat) : (s.noteFlags key m).igrel = s.igrel := rfl
@[simp] theorem State.noteFlags_flash (s : State) (key m : Nat) : (s.noteFlags key m).flash = s.flash := rfl
@[simp] theorem State.noteFlags_raster (s : State) (key m : Nat) : (s.noteFlags key m).raster = s.raster := rfl
@[simp] theorem State.noteFlags_decomp (s : State) (key m : Nat) : (s.noteFlags key m).decomp = s.decomp := rfl
@[simp] theorem State.noteFlags_slots (s : State) (key m : Nat) : (s.noteFlags key m).slots = s.slots := rfl
@[simp] theorem State.noteFlags_health (s : State) (key m : Nat) : (s.noteFlags key m).health = s.health := rfl
@[simp] theorem State.noteFlags_trimGen (s : State) (key m : Nat) : (s.noteFlags key m).trimGen = s.trimGen := rfl
@[simp] theorem State.noteFlags_enc (s : State) (key m : Nat) : (s.noteFlags key m).enc = s.enc := rfl
@[simp] theorem State.noteFlags_taper (s : State) (key m : Nat) : (s.noteFlags key m).taper = s.taper := rfl
@[simp] theorem State.noteFlags_heads (s : State) (key m : Nat) : (s.noteFlags key m).heads = s.heads := rfl
@[simp] theorem State.noteFlags_twin (s : State) (key m : Nat) : (s.noteFlags key m).twin = s.twin := rfl
@[simp] theorem State.noteFlags_lantern (s : State) (key m : Nat) : (s.noteFlags key m).lantern = s.lantern := rfl
@[simp] theorem State.noteFlags_led (s : State) (key m : Nat) : (s.noteFlags key m).led = s.led := rfl
@[simp] theorem State.noteFlags_chans (s : State) (key m : Nat) : (s.noteFlags key m).chans = s.chans := rfl
@[simp] theorem State.noteFlags_check (s : State) (key m : Nat) : (s.noteFlags key m).check = s.check := rfl
@[simp] theorem State.noteFlags_dram (s : State) (key m : Nat) : (s.noteFlags key m).dram = s.dram := rfl
@[simp] theorem State.noteFlags_wick (s : State) (key m : Nat) : (s.noteFlags key m).wick = s.wick := rfl
@[simp] theorem State.noteFlags_loops (s : State) (key m : Nat) : (s.noteFlags key m).loops = s.loops := rfl
@[simp] theorem State.noteFlags_spi (s : State) (key m : Nat) : (s.noteFlags key m).spi = s.spi := rfl
@[simp] theorem State.noteFlags_axes (s : State) (key m : Nat) : (s.noteFlags key m).axes = s.axes := rfl
@[simp] theorem State.noteFlags_ptp (s : State) (key m : Nat) : (s.noteFlags key m).ptp = s.ptp := rfl
@[simp] theorem State.noteFlags_cal (s : State) (key m : Nat) : (s.noteFlags key m).cal = s.cal := rfl
@[simp] theorem State.noteFlags_ylog (s : State) (key m : Nat) : (s.noteFlags key m).ylog = s.ylog := rfl
@[simp] theorem State.noteFlags_die (s : State) (key m : Nat) : (s.noteFlags key m).die = s.die := rfl
@[simp] theorem State.noteFlags_out (s : State) (key m : Nat) : (s.noteFlags key m).out = s.out := rfl
@[simp] theorem State.noteFlags_freeCtr (s : State) (key m : Nat) : (s.noteFlags key m).freeCtr = s.freeCtr := rfl

/-! ### setBits -/

@[simp] theorem State.setBits_pending (s : State) (key m : Nat) : (s.setBits key m).pending = s.pending := rfl
@[simp] theorem State.setBits_doms (s : State) (key m : Nat) : (s.setBits key m).doms = s.doms := rfl
@[simp] theorem State.setBits_mode (s : State) (key m : Nat) : (s.setBits key m).mode = s.mode := rfl
@[simp] theorem State.setBits_role (s : State) (key m : Nat) : (s.setBits key m).role = s.role := rfl
@[simp] theorem State.setBits_strapped (s : State) (key m : Nat) : (s.setBits key m).strapped = s.strapped := rfl
@[simp] theorem State.setBits_clock (s : State) (key m : Nat) : (s.setBits key m).clock = s.clock := rfl
@[simp] theorem State.setBits_rst (s : State) (key m : Nat) : (s.setBits key m).rst = s.rst := rfl
@[simp] theorem State.setBits_fuses (s : State) (key m : Nat) : (s.setBits key m).fuses = s.fuses := rfl
@[simp] theorem State.setBits_pins (s : State) (key m : Nat) : (s.setBits key m).pins = s.pins := rfl
@[simp] theorem State.setBits_jtag (s : State) (key m : Nat) : (s.setBits key m).jtag = s.jtag := rfl
@[simp] theorem State.setBits_igrel (s : State) (key m : Nat) : (s.setBits key m).igrel = s.igrel := rfl
@[simp] theorem State.setBits_flash (s : State) (key m : Nat) : (s.setBits key m).flash = s.flash := rfl
@[simp] theorem State.setBits_raster (s : State) (key m : Nat) : (s.setBits key m).raster = s.raster := rfl
@[simp] theorem State.setBits_decomp (s : State) (key m : Nat) : (s.setBits key m).decomp = s.decomp := rfl
@[simp] theorem State.setBits_slots (s : State) (key m : Nat) : (s.setBits key m).slots = s.slots := rfl
@[simp] theorem State.setBits_health (s : State) (key m : Nat) : (s.setBits key m).health = s.health := rfl
@[simp] theorem State.setBits_trimGen (s : State) (key m : Nat) : (s.setBits key m).trimGen = s.trimGen := rfl
@[simp] theorem State.setBits_enc (s : State) (key m : Nat) : (s.setBits key m).enc = s.enc := rfl
@[simp] theorem State.setBits_taper (s : State) (key m : Nat) : (s.setBits key m).taper = s.taper := rfl
@[simp] theorem State.setBits_heads (s : State) (key m : Nat) : (s.setBits key m).heads = s.heads := rfl
@[simp] theorem State.setBits_twin (s : State) (key m : Nat) : (s.setBits key m).twin = s.twin := rfl
@[simp] theorem State.setBits_lantern (s : State) (key m : Nat) : (s.setBits key m).lantern = s.lantern := rfl
@[simp] theorem State.setBits_led (s : State) (key m : Nat) : (s.setBits key m).led = s.led := rfl
@[simp] theorem State.setBits_chans (s : State) (key m : Nat) : (s.setBits key m).chans = s.chans := rfl
@[simp] theorem State.setBits_check (s : State) (key m : Nat) : (s.setBits key m).check = s.check := rfl
@[simp] theorem State.setBits_dram (s : State) (key m : Nat) : (s.setBits key m).dram = s.dram := rfl
@[simp] theorem State.setBits_wick (s : State) (key m : Nat) : (s.setBits key m).wick = s.wick := rfl
@[simp] theorem State.setBits_loops (s : State) (key m : Nat) : (s.setBits key m).loops = s.loops := rfl
@[simp] theorem State.setBits_spi (s : State) (key m : Nat) : (s.setBits key m).spi = s.spi := rfl
@[simp] theorem State.setBits_axes (s : State) (key m : Nat) : (s.setBits key m).axes = s.axes := rfl
@[simp] theorem State.setBits_ptp (s : State) (key m : Nat) : (s.setBits key m).ptp = s.ptp := rfl
@[simp] theorem State.setBits_cal (s : State) (key m : Nat) : (s.setBits key m).cal = s.cal := rfl
@[simp] theorem State.setBits_ylog (s : State) (key m : Nat) : (s.setBits key m).ylog = s.ylog := rfl
@[simp] theorem State.setBits_die (s : State) (key m : Nat) : (s.setBits key m).die = s.die := rfl
@[simp] theorem State.setBits_out (s : State) (key m : Nat) : (s.setBits key m).out = s.out := rfl
@[simp] theorem State.setBits_freeCtr (s : State) (key m : Nat) : (s.setBits key m).freeCtr = s.freeCtr := rfl

/-! ### clearBits -/

@[simp] theorem State.clearBits_pending (s : State) (key m : Nat) : (s.clearBits key m).pending = s.pending := rfl
@[simp] theorem State.clearBits_doms (s : State) (key m : Nat) : (s.clearBits key m).doms = s.doms := rfl
@[simp] theorem State.clearBits_mode (s : State) (key m : Nat) : (s.clearBits key m).mode = s.mode := rfl
@[simp] theorem State.clearBits_role (s : State) (key m : Nat) : (s.clearBits key m).role = s.role := rfl
@[simp] theorem State.clearBits_strapped (s : State) (key m : Nat) : (s.clearBits key m).strapped = s.strapped := rfl
@[simp] theorem State.clearBits_clock (s : State) (key m : Nat) : (s.clearBits key m).clock = s.clock := rfl
@[simp] theorem State.clearBits_rst (s : State) (key m : Nat) : (s.clearBits key m).rst = s.rst := rfl
@[simp] theorem State.clearBits_fuses (s : State) (key m : Nat) : (s.clearBits key m).fuses = s.fuses := rfl
@[simp] theorem State.clearBits_pins (s : State) (key m : Nat) : (s.clearBits key m).pins = s.pins := rfl
@[simp] theorem State.clearBits_jtag (s : State) (key m : Nat) : (s.clearBits key m).jtag = s.jtag := rfl
@[simp] theorem State.clearBits_igrel (s : State) (key m : Nat) : (s.clearBits key m).igrel = s.igrel := rfl
@[simp] theorem State.clearBits_flash (s : State) (key m : Nat) : (s.clearBits key m).flash = s.flash := rfl
@[simp] theorem State.clearBits_raster (s : State) (key m : Nat) : (s.clearBits key m).raster = s.raster := rfl
@[simp] theorem State.clearBits_decomp (s : State) (key m : Nat) : (s.clearBits key m).decomp = s.decomp := rfl
@[simp] theorem State.clearBits_slots (s : State) (key m : Nat) : (s.clearBits key m).slots = s.slots := rfl
@[simp] theorem State.clearBits_health (s : State) (key m : Nat) : (s.clearBits key m).health = s.health := rfl
@[simp] theorem State.clearBits_trimGen (s : State) (key m : Nat) : (s.clearBits key m).trimGen = s.trimGen := rfl
@[simp] theorem State.clearBits_enc (s : State) (key m : Nat) : (s.clearBits key m).enc = s.enc := rfl
@[simp] theorem State.clearBits_taper (s : State) (key m : Nat) : (s.clearBits key m).taper = s.taper := rfl
@[simp] theorem State.clearBits_heads (s : State) (key m : Nat) : (s.clearBits key m).heads = s.heads := rfl
@[simp] theorem State.clearBits_twin (s : State) (key m : Nat) : (s.clearBits key m).twin = s.twin := rfl
@[simp] theorem State.clearBits_lantern (s : State) (key m : Nat) : (s.clearBits key m).lantern = s.lantern := rfl
@[simp] theorem State.clearBits_led (s : State) (key m : Nat) : (s.clearBits key m).led = s.led := rfl
@[simp] theorem State.clearBits_chans (s : State) (key m : Nat) : (s.clearBits key m).chans = s.chans := rfl
@[simp] theorem State.clearBits_check (s : State) (key m : Nat) : (s.clearBits key m).check = s.check := rfl
@[simp] theorem State.clearBits_dram (s : State) (key m : Nat) : (s.clearBits key m).dram = s.dram := rfl
@[simp] theorem State.clearBits_wick (s : State) (key m : Nat) : (s.clearBits key m).wick = s.wick := rfl
@[simp] theorem State.clearBits_loops (s : State) (key m : Nat) : (s.clearBits key m).loops = s.loops := rfl
@[simp] theorem State.clearBits_spi (s : State) (key m : Nat) : (s.clearBits key m).spi = s.spi := rfl
@[simp] theorem State.clearBits_axes (s : State) (key m : Nat) : (s.clearBits key m).axes = s.axes := rfl
@[simp] theorem State.clearBits_ptp (s : State) (key m : Nat) : (s.clearBits key m).ptp = s.ptp := rfl
@[simp] theorem State.clearBits_cal (s : State) (key m : Nat) : (s.clearBits key m).cal = s.cal := rfl
@[simp] theorem State.clearBits_ylog (s : State) (key m : Nat) : (s.clearBits key m).ylog = s.ylog := rfl
@[simp] theorem State.clearBits_die (s : State) (key m : Nat) : (s.clearBits key m).die = s.die := rfl
@[simp] theorem State.clearBits_out (s : State) (key m : Nat) : (s.clearBits key m).out = s.out := rfl
@[simp] theorem State.clearBits_flagged (s : State) (key m : Nat) : (s.clearBits key m).flagged = s.flagged := rfl
@[simp] theorem State.clearBits_freeCtr (s : State) (key m : Nat) : (s.clearBits key m).freeCtr = s.freeCtr := rfl

end Sys2Proof.Machine
end

