-- ==== Sys2Proof/Laws/Regs.lean ====
section
/-! SUPPORT. Reading a register, a content or an instance after each shared operation that writes one; what logging, a cause and a
change of mode do to registers. -/

namespace Sys2Proof.Machine

/-! ### Registers -/

/-- The registers as a table, after one is given a value. -/
theorem get_put_key (t : Table Nat) (j k v : Nat) :
    Table.get (Dict.default j) (Table.put (Dict.default k) t k v) j = if j = k then v else Table.get (Dict.default j) t j := by
  by_cases h : j = k
  · subst h; simp [Table.get_put_same]
  · simp only [Table.get, Table.put, h, if_false]
    split
    · rw [Table.find_erase, if_neg h]
    · rw [Table.find_insert, if_neg h]

theorem State.reg_setReg (s : State) (k j v : Nat) : (s.setReg k v).reg j = if j = k then v else s.reg j := by
  exact get_put_key s.regs j k v

@[simp] theorem State.reg_setReg_same (s : State) (k v : Nat) : (s.setReg k v).reg k = v := by rw [State.reg_setReg, if_pos rfl]

theorem State.reg_setReg_other (s : State) {k j : Nat} (v : Nat) (h : j ≠ k) : (s.setReg k v).reg j = s.reg j := by
  rw [State.reg_setReg, if_neg h]

@[simp] theorem State.reg_count_same (s : State) (k n : Nat) : (s.count k n).reg k = countValue k (s.reg k) n := s.reg_setReg_same _ _

theorem State.reg_count_other (s : State) {k j : Nat} (n : Nat) (h : j ≠ k) : (s.count k n).reg j = s.reg j :=
  s.reg_setReg_other _ h

@[simp] theorem State.reg_bump_same (s : State) (k : Nat) : (s.bump k).reg k = countValue k (s.reg k) 1 := s.reg_setReg_same _ _

theorem State.reg_bump_other (s : State) {k j : Nat} (h : j ≠ k) : (s.bump k).reg j = s.reg j := s.reg_setReg_other _ h

@[simp] theorem State.reg_setBits_same (s : State) (k m : Nat) : (s.setBits k m).reg k = s.reg k ||| m := s.reg_setReg_same _ _

theorem State.reg_setBits_other (s : State) {k j : Nat} (m : Nat) (h : j ≠ k) : (s.setBits k m).reg j = s.reg j :=
  s.reg_setReg_other _ h

@[simp] theorem State.reg_clearBits_same (s : State) (k m : Nat) : (s.clearBits k m).reg k = clearMask (s.reg k) m := s.reg_setReg_same _ _

theorem State.reg_clearBits_other (s : State) {k j : Nat} (m : Nat) (h : j ≠ k) : (s.clearBits k m).reg j = s.reg j :=
  s.reg_setReg_other _ h

/-- A register reads the same in a state with the same registers. -/
theorem State.reg_congr {s t : State} (h : t.regs = s.regs) (k : Nat) : t.reg k = s.reg k := by unfold State.reg; rw [h]

/-- An operation that does not touch the registers changes none. -/
theorem Only.reg {d : List Fld} {s t : State} (h : Only d s t) (hd : Fld.regs ∉ d) (k : Nat) : t.reg k = s.reg k :=
  State.reg_congr (h.agree .regs hd) k

/-! ### Instances -/

@[simp] theorem State.dom_setDom_same (s : State) (k : Nat) (c : List Byte) :
    (s.setDom k c).dom k = if c = zeros (zeroDefaultSize k) then [] else c := by
  unfold State.dom State.setDom
  simp only [Table.get_put_same]

@[simp] theorem State.group_setGroup_same (s : State) (g : Nat) (x : Group) : (s.setGroup g x).group g = x := by
  simp only [State.group, State.setGroup, Table.get_put_same]

theorem State.group_setGroup_other (s : State) {g k : Nat} (x : Group) (h : k ≠ g) : (s.setGroup g x).group k = s.group k := by
  simp only [State.group, State.setGroup, Table.get_put_other _ _ _ h]

@[simp] theorem State.head_setHead_same (s : State) (m : Nat) (x : HeadLane) : (s.setHead m x).head m = x := by
  simp only [State.head, State.setHead, Table.get_put_same]

@[simp] theorem State.chan_setChan_same (s : State) (c : Nat) (x : Chan) : (s.setChan c x).chan c = x := by
  simp only [State.chan, State.setChan, Table.get_put_same]

@[simp] theorem State.loop_setLoop_same (s : State) (i : Nat) (x : LoopDyn) : (s.setLoop i x).loop i = x := by
  simp only [State.loop, State.setLoop, Table.get_put_same]

@[simp] theorem State.axis_setAxis_same (s : State) (a : Nat) (x : Axis) : (s.setAxis a x).axis a = x := by
  simp only [State.axis, State.setAxis, Table.get_put_same]

@[simp] theorem State.ctx_setCtx_same (s : State) (k : Nat) (c : Ctx) : (s.setCtx k c).ctx k = c := by
  simp only [State.ctx, State.setCtx, Table.get_put_same]

@[simp] theorem State.ring_setRing_same (s : State) (k : Nat) (l : List Blk) : (s.setRing k l).ring k = l := by
  simp only [State.ring, State.setRing, Table.get_put_same]

@[simp] theorem State.slotsOf_setSlots_same (s : State) (st : Nat) (l : List Slot) : (s.setSlots st l).slotsOf st = l := by
  simp only [State.slotsOf, State.setSlots, Table.get_put_same]

/-! ### The Yilloger -/

theorem State.ylogPut_reg (s : State) (v : YEvent) {k : Nat} (h : k ∉ yilloggerObjects) : (s.ylogPut v).reg k = s.reg k := by
  have h1 : k ≠ Obj.ylogNext := fun e => h (by simp [yilloggerObjects, e])
  have h2 : k ≠ Obj.missed := fun e => h (by simp [yilloggerObjects, e])
  have h3 : k ≠ Obj.ylogState := fun e => h (by simp [yilloggerObjects, e])
  have h4 : k ≠ Obj.freezeEntry := fun e => h (by simp [yilloggerObjects, e])
  simp only [State.ylogPut]
  repeat' split
  all_goals simp only [State.reg, State.setReg, State.bump, State.count, State.noteTrigger, State.noteFlags, get_put_key, h1, h2, h3, h4, if_false]

theorem State.ylogPuts_reg (s : State) (l : List YEvent) {k : Nat} (h : k ∉ yilloggerObjects) : (s.ylogPuts l).reg k = s.reg k := by
  induction l generalizing s with
  | nil => rfl
  | cons v t ih => rw [State.ylogPuts, ih, s.ylogPut_reg v h]

theorem State.ylogBack_reg (s : State) (b : YBase) {k : Nat} (h : k ∉ yilloggerObjects) : (s.ylogBack b).reg k = s.reg k := by
  have h1 : k ≠ Obj.ylogNext := fun e => h (by simp [yilloggerObjects, e])
  have h2 : k ≠ Obj.missed := fun e => h (by simp [yilloggerObjects, e])
  have h3 : k ≠ Obj.ylogState := fun e => h (by simp [yilloggerObjects, e])
  have h4 : k ≠ Obj.freezeEntry := fun e => h (by simp [yilloggerObjects, e])
  simp only [State.ylogBack, State.reg, State.setReg, get_put_key, h1, h2, h3, h4, if_false]

theorem State.ylogWrite_reg (s : State) (code : Nat) (detail : List Byte) {k : Nat} (h : k ∉ yilloggerObjects) :
    (s.ylogWrite code detail).reg k = s.reg k := by
  unfold State.ylogWrite
  dsimp only
  split
  · exact s.ylogPut_reg _ h
  · exact (State.ylogPuts_reg _ _ h).trans (s.ylogBack_reg _ h)

theorem State.logEvent_reg (s : State) (code : Nat) (detail : List Byte) {k : Nat} (h : k ∉ yilloggerObjects) :
    (s.logEvent code detail).reg k = s.reg k := by
  unfold State.logEvent
  rw [(State.sendEach_only ..).reg (by decide)]
  exact s.ylogWrite_reg code detail h

/-! ### Modes and causes -/

@[simp] theorem State.toMode_mode (s : State) (m : Mode) : (s.toMode m).mode = m := by
  unfold State.toMode
  rw [(State.logEvent_only ..).agree .mode (by decide)]

theorem State.toMode_reg (s : State) (m : Mode) {k : Nat} (h : k ∉ yilloggerObjects) (hk : k ≠ Obj.modeEntryTime) : (s.toMode m).reg k = s.reg k := by
  unfold State.toMode
  rw [State.logEvent_reg _ _ _ h]
  exact s.reg_setReg_other _ hk

theorem State.toMode_entryTime (s : State) (m : Mode) : (s.toMode m).reg Obj.modeEntryTime = s.now := by
  unfold State.toMode
  rw [State.logEvent_reg _ _ _ (by decide)]
  exact s.reg_setReg_same _ _

theorem State.setCause_reg (s : State) (b : Nat) {k : Nat} (h : k ≠ Obj.snuffCause) : (s.setCause b).reg k = s.reg k := by
  unfold State.setCause
  split
  · exact s.reg_setBits_other _ h
  · rfl

theorem State.setCause_sets (s : State) (b : Nat) (h : s.configured = true) : (s.setCause b).reg Obj.snuffCause = s.reg Obj.snuffCause ||| 2 ^ b := by
  unfold State.setCause
  rw [if_pos h]
  exact s.reg_setBits_same _ _

end Sys2Proof.Machine
end

