-- ==== Sys2Proof/Laws/Rings.lean ====
section
/-! SUPPORT. The default ring map is well formed (06 R142), shown entry by entry. -/

namespace Sys2Proof.Machine

/-- Each entry ends before the next begins. -/
def rising : List (Nat × Nat) → Bool
  | e :: f :: t => decide (e.1 + e.2 ≤ f.1) && rising (f :: t)
  | _ => true

theorem rising_before (l : List (Nat × Nat)) : ∀ e, rising (e :: l) = true → ∀ f ∈ l, e.1 + e.2 ≤ f.1 := by
  induction l with
  | nil => simp
  | cons g t ih =>
    intro e h f hf
    simp only [rising, Bool.and_eq_true, decide_eq_true_eq] at h
    rcases List.mem_cons.1 hf with rfl | hf
    · exact h.1
    · have := ih g h.2 f hf
      omega

theorem apart_of_rising (l : List (Nat × Nat)) : rising l = true → apart l = true := by
  induction l with
  | nil => simp [apart]
  | cons e t ih =>
    intro h
    have hb := rising_before t e h
    have ht : rising t = true := by
      cases t with
      | nil => rfl
      | cons g t => simp only [rising, Bool.and_eq_true] at h; exact h.2
    simp only [apart, Bool.and_eq_true, List.all_eq_true, Bool.or_eq_true, decide_eq_true_eq]
    exact ⟨fun f hf => .inl (hb f hf), ih ht⟩

theorem length_rows (f : Nat → List Byte) (hf : ∀ k, (f k).length = 16) (l : List Nat) : (l.flatMap f).length = 16 * l.length := by
  induction l with
  | nil => simp
  | cons a t ih => simp [List.flatMap_cons, hf, ih]; omega

theorem field_rows (f : Nat → List Byte) (hf : ∀ k, (f k).length = 16) (o n : Nat) (hon : o + n ≤ 16) (l : List Nat) :
    ∀ k (h : k < l.length), field (l.flatMap f) (16 * k + o) n = field (f l[k]) o n := by
  induction l with
  | nil => intro k h; simp at h
  | cons a t ih =>
    intro k h
    rw [List.flatMap_cons]
    cases k with
    | zero =>
      simp only [field, Nat.mul_zero, Nat.zero_add, List.getElem_cons_zero]
      rw [List.drop_append_of_le_length (by rw [hf]; omega), List.take_append_of_le_length (by rw [List.length_drop, hf]; omega)]
    | succ k =>
      have e : 16 * (k + 1) + o = (f a).length + (16 * k + o) := by rw [hf]; omega
      have := ih k (by simpa using h)
      simp only [field, List.getElem_cons_succ] at this ⊢
      rw [e, List.drop_append, List.drop_eq_nil_of_le (by omega), Nat.add_sub_cancel_left, List.nil_append]
      exact this

/-- The 16 bytes of an entry of the default ring map. -/
def ringRow (k : Nat) : List Byte :=
  le 8 (if k < 128 then 48 * 2 ^ 20 * k else 128 * (48 * 2 ^ 20) + 16 * 2 ^ 20 * (k - 128)) ++ le 4 (Dict.ringDefaultSize k) ++ zeros 4

theorem ringMapDefault_rows : ringMapDefault = (List.range 160).flatMap ringRow := rfl

theorem ringRow_length (k : Nat) : (ringRow k).length = 16 := rfl

theorem ringMapDefault_field (o n : Nat) (h : o + n ≤ 16) (k : Nat) (hk : k < 160) :
    field ringMapDefault (16 * k + o) n = field (ringRow k) o n := by
  rw [ringMapDefault_rows, field_rows ringRow ringRow_length o n h (List.range 160) k (by simpa using hk), List.getElem_range]

/-- Base and size of the default entries. -/
def ringRows : List (Nat × Nat) := (List.range 160).map (fun k => (field (ringRow k) 0 8, field (ringRow k) 8 4))

theorem ringEntries_default : ringEntries ringMapDefault = ringRows := by
  unfold ringEntries ringRows
  refine List.map_congr_left (fun k hk => ?_)
  have hk : k < 160 := List.mem_range.1 hk
  have h0 := ringMapDefault_field 0 8 (by omega) k hk
  rw [Nat.add_zero] at h0
  rw [h0, ringMapDefault_field 8 4 (by omega) k hk]

theorem ringRows_rising : rising ringRows = true := by decide +kernel

theorem ringRows_fit : ringRows.all (fun e =>
    decide (e.1 % 65536 = 0) && decide (e.2 % 65536 = 0) && decide (2 ^ 20 ≤ e.2) && decide (e.1 + e.2 ≤ 6979321856)) = true := by decide +kernel

/-- The default ring map stands wherever the stream store reaches its last ring. -/
theorem ringMapOk_default (limit : Nat) (h : 6979321856 ≤ limit) : ringMapOk limit ringMapDefault = true := by
  have hl : ringMapDefault.length = 2560 := by rw [ringMapDefault_rows, length_rows ringRow ringRow_length, List.length_range]
  have hz : (List.range 160).all (fun k => decide (field ringMapDefault (16 * k + 12) 4 = 0)) = true := by
    rw [List.all_eq_true]
    intro k hk
    rw [ringMapDefault_field 12 4 (by omega) k (List.mem_range.1 hk)]
    rfl
  have hf := ringRows_fit
  rw [List.all_eq_true] at hf
  simp only [ringMapOk, hl, hz, ringEntries_default, apart_of_rising _ ringRows_rising, Bool.and_true, decide_true, Bool.true_and, List.all_eq_true]
  intro e he
  have := hf e he
  simp only [Bool.and_eq_true, decide_eq_true_eq] at this ⊢
  omega

end Sys2Proof.Machine
end

