-- ==== Sys2Proof/Laws/Settles.lean ====
section
/-! SUPPORT. The operations under which the mode, KINDLE, BAR_FIRE_EN and the maintenance pattern stand as they stood. -/

namespace Sys2Proof.Machine

/-- The second of two states has the mode of the first, and KINDLE, BAR_FIRE_EN and the maintenance pattern stand as they stood. -/
structure Stays (s t : State) : Prop where
  mode : t.mode = s.mode
  kindle : t.cal.running = s.cal.running
  fire : t.pins.fireEn = s.pins.fireEn
  pattern : t.patternRuns = s.patternRuns

theorem Stays.refl {s : State} : Stays s s := ⟨rfl, rfl, rfl, rfl⟩

/-- One operation more. -/
theorem Stays.step {s t u : State} (h : Stays t u) (k : Stays s t) : Stays s u :=
  ⟨h.mode.trans k.mode, h.kindle.trans k.kindle, h.fire.trans k.fire, h.pattern.trans k.pattern⟩

/-- The fields that a lemma of this kind speaks about. -/
def stayFields : List Fld := [.mode, .cal, .pins, .taper]

/-- An operation that touches none of them. -/
theorem Only.stays {d : List Fld} {s t : State} (h : Only d s t) (hd : mask d &&& mask stayFields = 0) : Stays s t := by
  have no : ∀ f, f ∈ stayFields → f ∉ d := by
    intro f hf hm
    have h1 : (mask d).testBit f.ctorIdx = true := by simp [mask_testBit, hm]
    have h2 : (mask stayFields).testBit f.ctorIdx = true := by simp [mask_testBit, hf]
    have h3 : (mask d &&& mask stayFields).testBit f.ctorIdx = true := by rw [Nat.testBit_and, h1, h2]; rfl
    rw [hd] at h3
    simp at h3
  have a1 := h.agree .mode (no _ (by decide))
  have a2 := h.agree .cal (no _ (by decide))
  have a3 := h.agree .pins (no _ (by decide))
  have a4 := h.agree .taper (no _ (by decide))
  simp only [State.agree] at a1 a2 a3 a4
  exact ⟨a1, by rw [a2], by rw [a3], by unfold State.patternRuns; rw [a4]⟩

/-- What an operation that enters no other mode than SNUFF or DARK does to the mode: from a safe state it leads to a safe state, in the
same mode, in DARK, or in SNUFF from another mode than DARK. -/
structure Settles (s t : State) : Prop where
  safe : s.modeSafe = true → t.modeSafe = true ∧ (t.mode = s.mode ∨ t.mode = .dark ∨ (t.mode = .snuff ∧ s.mode ≠ .dark))

theorem Settles.refl {s : State} : Settles s s := ⟨fun h => ⟨h, .inl rfl⟩⟩

/-- One operation more. -/
theorem Settles.step {s t u : State} (h : Settles t u) (k : Settles s t) : Settles s u := by
  refine ⟨fun hs => ?_⟩
  obtain ⟨ht, kt⟩ := k.safe hs
  obtain ⟨hu, ku⟩ := h.safe ht
  refine ⟨hu, ?_⟩
  rcases kt with kt | kt | ⟨kt, ks⟩ <;> rcases ku with ku | ku | ⟨ku, kk⟩ <;> simp_all

theorem Stays.modeSafe {s t : State} (h : Stays s t) : t.modeSafe = s.modeSafe := by
  simp only [State.modeSafe, State.firingGuarded, h.mode, h.kindle, h.fire, h.pattern]

theorem Stays.settles {s t : State} (h : Stays s t) : Settles s t := ⟨fun hs => ⟨by rw [h.modeSafe]; exact hs, .inl h.mode⟩⟩

theorem Only.settles {d : List Fld} {s t : State} (h : Only d s t) (hd : mask d &&& mask stayFields = 0) : Settles s t :=
  (h.stays hd).settles

/-- A state with BAR_FIRE_EN low, in the same mode and with KINDLE running no more than before. -/
theorem Settles.of_low {s t : State} (hm : t.mode = s.mode) (hc : t.cal.running = true → s.cal.running = true) (hf : t.pins.fireEn ≠ .high) :
    Settles s t := by
  refine ⟨fun hs => ⟨?_, .inl hm⟩⟩
  simp only [State.modeSafe, State.firingGuarded, Bool.and_eq_true, Bool.or_eq_true, decide_eq_true_eq, Bool.not_eq_true'] at hs ⊢
  refine ⟨?_, .inl (.inl hf)⟩
  rw [hm]
  rcases hs.1 with h | h
  · left
    cases hr : t.cal.running
    · rfl
    · rw [hc hr] at h; exact absurd h (by decide)
  · exact .inr h

theorem Settles.foldl {α : Type} {s u : State} {g : State → α → State} {l : List α} (hg : ∀ t x, Settles t (g t x)) (k : Settles s u) :
    Settles s (l.foldl g u) := by
  induction l generalizing u with
  | nil => exact k
  | cons x t ih => exact ih (Settles.step (hg u x) k)

theorem Settles.ite {c : Prop} [Decidable c] {s t u : State} (h : c → Settles s t) (k : ¬c → Settles s u) : Settles s (if c then t else u) := by
  by_cases x : c
  · rw [if_pos x]; exact h x
  · rw [if_neg x]; exact k x

theorem Settles.of_snd {α : Type} {s t : State} {p : α × State} {v : α} (h : p = (v, t)) (k : Settles s p.2) : Settles s t := by
  rw [h] at k
  exact k

/-- What a command settles, where it answers a next state. -/
structure SettlesNext (s : State) (o : Host.Outcome State Fault Refusal) : Prop where
  settles : ∀ t, o = .next t → Settles s t

theorem SettlesNext.next {s t : State} (h : Settles s t) : SettlesNext s (ok t) := by
  refine ⟨fun u hu => ?_⟩
  cases hu
  exact h

theorem SettlesNext.stop {s : State} {r : Fault} : SettlesNext s (.fault r) := by
  refine ⟨fun u hu => ?_⟩
  cases hu

theorem SettlesNext.ite {c : Prop} [Decidable c] {s : State} {t u : Host.Outcome State Fault Refusal}
    (h : c → SettlesNext s t) (k : ¬c → SettlesNext s u) : SettlesNext s (if c then t else u) := by
  by_cases x : c
  · rw [if_pos x]; exact h x
  · rw [if_neg x]; exact k x

theorem State.lowPins_fireEn (s : State) : s.lowPins.pins.fireEn = .low := by
  unfold State.lowPins
  dsimp only
  split <;> rfl

theorem State.toMode_snuff_settles (s : State) (h : s.mode ≠ .dark) (hc : s.cal.running = false) (hf : s.pins.fireEn ≠ .high) :
    Settles s (s.toMode .snuff) := by
  refine ⟨fun hs => ⟨?_, .inr (.inr ⟨?_, h⟩)⟩⟩
  · have a := ((State.toMode_only s .snuff).agree .cal (by decide))
    have b := ((State.toMode_only s .snuff).agree .pins (by decide))
    simp only [State.agree] at a b
    simp only [State.modeSafe, State.firingGuarded, a, b, hc, Bool.and_eq_true, Bool.or_eq_true, decide_eq_true_eq]
    exact ⟨.inl rfl, .inl (.inl hf)⟩
  · exact State.toMode_mode ..

theorem State.working_ne_dark {s : State} (h : s.mode.working = true) : s.mode ≠ .dark := by
  intro e
  rw [e] at h
  exact absurd h (by decide)

theorem State.working_idle {s : State} (hs : s.modeSafe = true) (h : s.mode.working = true) : s.cal.running = false := by
  simp only [State.modeSafe, Bool.and_eq_true, Bool.or_eq_true, decide_eq_true_eq, Bool.not_eq_true'] at hs
  rcases hs.1 with a | a
  · exact a
  · rw [a] at h
    exact absurd h (by decide)

/-! ### Record updates -/

theorem Settles.with_cal {s u : State} {x0 : Cal} (h0 : x0.running = u.cal.running) (k : Settles s u) :
    Settles s { u with cal := x0 } :=
  Settles.step (Stays.settles (s := u) ⟨rfl, h0, rfl, rfl⟩) k

theorem Settles.with_pins {s u : State} {x0 : Pins} (h0 : x0.fireEn = u.pins.fireEn) (k : Settles s u) :
    Settles s { u with pins := x0 } :=
  Settles.step (Stays.settles (s := u) ⟨rfl, rfl, h0, rfl⟩) k

theorem Settles.with_taper {s u : State} {x0 : Taper} (h0 : x0.maint = u.taper.maint) (k : Settles s u) :
    Settles s { u with taper := x0 } :=
  Settles.step (Stays.settles (s := u) ⟨rfl, rfl, rfl, congrArg (fun m => m.any (fun m => m.running)) h0⟩) k

theorem Settles.with_pins_taper {s u : State} {x0 : Pins} {x1 : Taper} (h0 : x0.fireEn = u.pins.fireEn) (h1 : x1.maint = u.taper.maint) (k : Settles s u) :
    Settles s { u with pins := x0, taper := x1 } :=
  Settles.step (Stays.settles (s := u) ⟨rfl, rfl, h0, congrArg (fun m => m.any (fun m => m.running)) h1⟩) k

theorem Settles.with_taper_twin {s u : State} {x0 : Taper} {x1 : Twin} (h0 : x0.maint = u.taper.maint) (k : Settles s u) :
    Settles s { u with taper := x0, twin := x1 } :=
  Settles.step (Stays.settles (s := u) ⟨rfl, rfl, rfl, congrArg (fun m => m.any (fun m => m.running)) h0⟩) k

theorem Settles.with_enc_taper_twin_lantern {s u : State} {x0 : Encoder} {x1 : Taper} {x2 : Twin} {x3 : Lantern} (h1 : x1.maint = u.taper.maint) (k : Settles s u) :
    Settles s { u with enc := x0, taper := x1, twin := x2, lantern := x3 } :=
  Settles.step (Stays.settles (s := u) ⟨rfl, rfl, rfl, congrArg (fun m => m.any (fun m => m.running)) h1⟩) k

theorem Settles.with_rst_taper_dram {s u : State} {x0 : ResetSt} {x1 : Taper} {x2 : Dram} (h1 : x1.maint = u.taper.maint) (k : Settles s u) :
    Settles s { u with rst := x0, taper := x1, dram := x2 } :=
  Settles.step (Stays.settles (s := u) ⟨rfl, rfl, rfl, congrArg (fun m => m.any (fun m => m.running)) h1⟩) k

theorem Settles.with_dram_cal {s u : State} {x0 : Dram} {x1 : Cal} (h1 : x1.running = u.cal.running) (k : Settles s u) :
    Settles s { u with dram := x0, cal := x1 } :=
  Settles.step (Stays.settles (s := u) ⟨rfl, h1, rfl, rfl⟩) k

theorem Settles.with_taper_lantern_dram {s u : State} {x0 : Taper} {x1 : Lantern} {x2 : Dram} (h0 : x0.maint = u.taper.maint) (k : Settles s u) :
    Settles s { u with taper := x0, lantern := x1, dram := x2 } :=
  Settles.step (Stays.settles (s := u) ⟨rfl, rfl, rfl, congrArg (fun m => m.any (fun m => m.running)) h0⟩) k

theorem Settles.with_enc_taper_twin_lantern_led {s u : State} {x0 : Encoder} {x1 : Taper} {x2 : Twin} {x3 : Lantern} {x4 : Led} (h1 : x1.maint = u.taper.maint) (k : Settles s u) :
    Settles s { u with enc := x0, taper := x1, twin := x2, lantern := x3, led := x4 } :=
  Settles.step (Stays.settles (s := u) ⟨rfl, rfl, rfl, congrArg (fun m => m.any (fun m => m.running)) h1⟩) k

end Sys2Proof.Machine
end

