-- ==== Sys2Proof/Laws/SettlesOpsToPower.lean ====
section
/-! SUPPORT. What the operations and meanings of Machine/Ops.lean to Machine/Power.lean do to the mode (see Settles). -/

namespace Sys2Proof.Machine

/-! ### Ops -/

theorem State.setGroup_settles (s : State) (g : Nat) (x : Group) : Settles s (State.setGroup s g x) := by
  unfold State.setGroup
  refine Settles.with_taper rfl ?_
  exact .refl

/-! ### Store -/

theorem State.startAt_settles (s : State) (first : Nat) : Settles s (State.startAt s first) := by
  unfold State.startAt
  dsimp only
  refine Settles.foldl (fun t x => ?_) ?_
  · refine Settles.step ((State.setReg_only ..).settles (by decide)) ?_
    refine Settles.step (State.setGroup_settles ..) ?_
    exact .refl
  · refine Settles.step (Only.settles (Only.with_decomp (d := [.decomp]) (by decide) .refl) (by decide)) ?_
    exact .refl

theorem State.startJoin_settles (s : State) (first : Nat) (line : Nat) : Settles s (State.startJoin s first line) := by
  unfold State.startJoin
  dsimp only
  refine Settles.foldl (fun t x => ?_) ?_
  · refine Settles.step ((State.setReg_only ..).settles (by decide)) ?_
    refine Settles.step (State.setGroup_settles ..) ?_
    exact .refl
  · refine Settles.step (Only.settles (Only.with_raster_decomp (d := [.raster, .decomp]) (by decide) .refl) (by decide)) ?_
    exact .refl

theorem State.startPages_settles (s : State) (first : Nat) : Settles s (State.startPages s first) := by
  unfold State.startPages
  split
  · refine Settles.ite (fun _ => ?_) (fun _ => ?_)
    · refine Settles.step (State.startJoin_settles ..) ?_
      exact .refl
    · refine Settles.step (State.startAt_settles ..) ?_
      exact .refl
  · refine Settles.step (State.startAt_settles ..) ?_
    exact .refl

theorem State.acceptCommit_settles (s : State) (c : CommitReq) : Settles s (State.acceptCommit s c) := by
  unfold State.acceptCommit
  dsimp only
  refine Settles.step (Only.settles (Only.with_raster (d := [.raster]) (by decide) .refl) (by decide)) ?_
  refine Settles.step ((State.setReg_only ..).settles (by decide)) ?_
  refine Settles.ite (fun _ => ?_) (fun _ => ?_)
  · refine Settles.step (State.startPages_settles ..) ?_
    refine Settles.step ((State.setCommitted_only ..).settles (by decide)) ?_
    exact .refl
  · refine Settles.step ((State.setCommitted_only ..).settles (by decide)) ?_
    exact .refl

/-! ### Wick -/

theorem State.holdDecision_settles (s : State) (g : Nat) (n : Nat) (o : WickOut) (charge : Nat) :
    Settles s (State.holdDecision s g n o charge) := by
  unfold State.holdDecision
  dsimp only
  refine Settles.step ((State.tagOutcome_only ..).settles (by decide)) ?_
  refine Settles.with_taper rfl ?_
  exact .refl

theorem State.noteOutcome_settles (s : State) (g : Nat) (n : Nat) (o : WickOut) : Settles s (State.noteOutcome s g n o) := by
  unfold State.noteOutcome
  dsimp only
  split
  · exact .refl
  · refine Settles.ite (fun _ => ?_) (fun _ => ?_)
    · refine Settles.step ((State.logEvent_only ..).settles (by decide)) ?_
      refine Settles.step (State.setGroup_settles ..) ?_
      refine Settles.step ((State.setBits_only ..).settles (by decide)) ?_
      refine Settles.step ((State.bump_only ..).settles (by decide)) ?_
      exact .refl
    · refine Settles.step ((State.setBits_only ..).settles (by decide)) ?_
      refine Settles.step ((State.bump_only ..).settles (by decide)) ?_
      exact .refl
  · refine Settles.ite (fun _ => ?_) (fun _ => ?_)
    · refine Settles.step ((State.logEvent_only ..).settles (by decide)) ?_
      refine Settles.step (State.setGroup_settles ..) ?_
      exact .refl
    · exact .refl

theorem State.refundLine_settles (s : State) (g : Nat) (n : Nat) : Settles s (State.refundLine s g n) := by
  unfold State.refundLine
  split
  · exact .refl
  · dsimp only
    refine Settles.step ((State.refundPool_only ..).settles (by decide)) ?_
    refine Settles.with_taper rfl ?_
    exact .refl

theorem State.dropDecision_settles (s : State) (g : Nat) (n : Nat) : Settles s (State.dropDecision s g n) := by
  unfold State.dropDecision
  refine Settles.with_taper rfl ?_
  exact .refl

theorem State.refundFrom_settles (s : State) (g : Nat) (n : Nat) : Settles s (State.refundFrom s g n) := by
  unfold State.refundFrom
  refine Settles.foldl (fun t x => ?_) ?_
  · refine Settles.step (State.refundLine_settles ..) ?_
    exact .refl
  · exact .refl

/-! ### Lines -/

theorem State.burst_settles (s : State) (g : Nat) (cause : Nat) (seq : Nat) : Settles s (State.burst s g cause seq) := by
  unfold State.burst
  refine Settles.ite (fun _ => ?_) (fun _ => ?_)
  · exact .refl
  · dsimp only
    refine Settles.ite (fun _ => ?_) (fun _ => ?_)
    · refine Settles.step ((State.logEvent_only ..).settles (by decide)) ?_
      refine Settles.ite (fun _ => ?_) (fun _ => ?_)
      · refine Settles.step ((State.setCause_only ..).settles (by decide)) ?_
        refine Settles.step (State.setGroup_settles ..) ?_
        exact .refl
      · refine Settles.step (State.setGroup_settles ..) ?_
        exact .refl
    · refine Settles.step (State.setGroup_settles ..) ?_
      exact .refl

theorem State.ledgerEntry_settles (s : State) (e : Entry) (total : Option Nat) : Settles s (State.ledgerEntry s e total) := by
  unfold State.ledgerEntry
  dsimp only
  refine Settles.step ((State.report_only ..).settles (by decide)) ?_
  refine Settles.with_taper rfl ?_
  refine Settles.step ((State.setReg_only ..).settles (by decide)) ?_
  refine Settles.ite (fun _ => ?_) (fun _ => ?_)
  · refine Settles.step ((State.bump_only ..).settles (by decide)) ?_
    exact .refl
  · exact .refl

theorem State.skipBooks_settles (s : State) (x : LineSt) (total : Option Nat) : Settles s (State.skipBooks s x total) := by
  unfold State.skipBooks
  dsimp only
  refine Settles.step (State.burst_settles ..) ?_
  refine Settles.step ((State.slotState_only ..).settles (by decide)) ?_
  refine Settles.step (State.refundLine_settles ..) ?_
  refine Settles.ite (fun _ => ?_) (fun _ => ?_)
  · refine Settles.step ((State.setBits_only ..).settles (by decide)) ?_
    refine Settles.step ((State.bump_only ..).settles (by decide)) ?_
    refine Settles.ite (fun _ => ?_) (fun _ => ?_)
    · refine Settles.step ((State.bump_only ..).settles (by decide)) ?_
      refine Settles.step ((State.bumpEach_only ..).settles (by decide)) ?_
      refine Settles.step (State.ledgerEntry_settles ..) ?_
      exact .refl
    · refine Settles.step ((State.bumpEach_only ..).settles (by decide)) ?_
      refine Settles.step (State.ledgerEntry_settles ..) ?_
      exact .refl
  · refine Settles.ite (fun _ => ?_) (fun _ => ?_)
    · refine Settles.step ((State.bump_only ..).settles (by decide)) ?_
      refine Settles.step ((State.bumpEach_only ..).settles (by decide)) ?_
      refine Settles.step (State.ledgerEntry_settles ..) ?_
      exact .refl
    · refine Settles.step ((State.bumpEach_only ..).settles (by decide)) ?_
      refine Settles.step (State.ledgerEntry_settles ..) ?_
      exact .refl

theorem State.fireBooks_settles (s : State) (x : LineSt) : Settles s (State.fireBooks s x) := by
  unfold State.fireBooks
  dsimp only
  refine Settles.step (State.dropDecision_settles ..) ?_
  refine Settles.step (State.setGroup_settles ..) ?_
  refine Settles.step ((State.slotState_only ..).settles (by decide)) ?_
  refine Settles.step ((State.stripsFired_only ..).settles (by decide)) ?_
  exact .refl

theorem State.logPrinted_settles (s : State) (g : Option Nat) (detail : List Byte) : Settles s (State.logPrinted s g detail) := by
  unfold State.logPrinted
  split
  · refine Settles.ite (fun _ => ?_) (fun _ => ?_)
    · refine Settles.with_taper rfl ?_
      exact .refl
    · refine Settles.step ((State.logEvent_only ..).settles (by decide)) ?_
      exact .refl
  · refine Settles.step ((State.logEvent_only ..).settles (by decide)) ?_
    exact .refl

theorem State.closeEach_settles (s : State) (g : Option Nat) (time : Nat) (x3 : List Page) : Settles s (State.closeEach s g time x3) := by
  induction x3 generalizing s g time with | nil => ?_ | cons y l ih => ?_
  · simp only [State.closeEach]
    exact .refl
  · simp only [State.closeEach]
    refine Settles.step (ih ..) ?_
    refine Settles.ite (fun _ => ?_) (fun _ => ?_)
    · refine Settles.step ((State.setCause_only ..).settles (by decide)) ?_
      refine Settles.step ((State.report_only ..).settles (by decide)) ?_
      refine Settles.step (State.logPrinted_settles ..) ?_
      refine Settles.step (Only.settles (Only.with_raster (d := [.raster]) (by decide) .refl) (by decide)) ?_
      exact .refl
    · refine Settles.step ((State.report_only ..).settles (by decide)) ?_
      refine Settles.step (State.logPrinted_settles ..) ?_
      refine Settles.step (Only.settles (Only.with_raster (d := [.raster]) (by decide) .refl) (by decide)) ?_
      exact .refl

theorem State.closePages_settles (s : State) (g : Option Nat) (time : Nat) : Settles s (State.closePages s g time) := by
  unfold State.closePages
  refine Settles.step (State.closeEach_settles ..) ?_
  exact .refl

theorem State.settle_settles (s : State) (x : LineSt) (lateArm : Bool) (total : Option Nat) : Settles s (State.settle s x lateArm total) := by
  unfold State.settle
  dsimp only
  refine Settles.step (State.closePages_settles ..) ?_
  refine Settles.step ((State.freeAll_only ..).settles (by decide)) ?_
  refine Settles.step ((State.pageCount_only ..).settles (by decide)) ?_
  refine Settles.ite (fun _ => ?_) (fun _ => ?_)
  · refine Settles.step (State.fireBooks_settles ..) ?_
    refine Settles.step ((State.confirmBooks_only ..).settles (by decide)) ?_
    exact .refl
  · refine Settles.step (State.skipBooks_settles ..) ?_
    refine Settles.step ((State.confirmBooks_only ..).settles (by decide)) ?_
    exact .refl

theorem State.passLine_settles (s : State) (x : LineSt) (lateArm : Bool) (own : Own) : Settles s (State.passLine s x lateArm own) := by
  unfold State.passLine
  refine Settles.ite (fun _ => ?_) (fun _ => ?_)
  · refine Settles.step ((State.holdOwn_only ..).settles (by decide)) ?_
    exact .refl
  · split
    · refine Settles.step ((State.holdOwn_only ..).settles (by decide)) ?_
      exact .refl
    · dsimp only
      refine Settles.ite (fun _ => ?_) (fun _ => ?_)
      · refine Settles.step (Only.settles (Only.with_twin (d := [.twin]) (by decide) .refl) (by decide)) ?_
        refine Settles.step (State.settle_settles ..) ?_
        exact .refl
      · refine Settles.step (State.settle_settles ..) ?_
        exact .refl

theorem State.fireConf_settles (s : State) (g : Nat) (c : Conf) : Settles s (State.fireConf s g c) := by
  unfold State.fireConf
  refine Settles.step (State.passLine_settles ..) ?_
  exact .refl

theorem State.skipConf_settles (s : State) (g : Nat) (c : Conf) (cause : Nat) (strip : Nat) : Settles s (State.skipConf s g c cause strip) := by
  unfold State.skipConf
  refine Settles.step (State.passLine_settles ..) ?_
  exact .refl

theorem State.skipLine_settles (s : State) (g : Nat) (n : Nat) (cause : Nat) (strip : Nat) : Settles s (State.skipLine s g n cause strip) := by
  unfold State.skipLine
  split
  dsimp only
  refine Settles.step (State.passLine_settles ..) ?_
  refine Settles.step ((State.slotState_only ..).settles (by decide)) ?_
  refine Settles.of_snd (by assumption) ?_
  refine Settles.step ((State.pageIdOf_only ..).settles (by decide)) ?_
  exact .refl

theorem State.noteLead_settles (s : State) (raise : Bool) (g : Nat) : Settles s (State.noteLead s raise g) := by
  unfold State.noteLead
  dsimp only
  refine Settles.ite (fun _ => ?_) (fun _ => ?_)
  · refine Settles.step ((State.logEvent_only ..).settles (by decide)) ?_
    refine Settles.step (State.setGroup_settles ..) ?_
    refine Settles.step ((State.setReg_only ..).settles (by decide)) ?_
    exact .refl
  · refine Settles.step ((State.setReg_only ..).settles (by decide)) ?_
    exact .refl

theorem State.noteLeads_settles (s : State) (raise : Bool) (x2 : List Nat) : Settles s (State.noteLeads s raise x2) := by
  induction x2 generalizing s raise with | nil => ?_ | cons y l ih => ?_
  · simp only [State.noteLeads]
    exact .refl
  · simp only [State.noteLeads]
    refine Settles.step (ih ..) ?_
    refine Settles.step (State.noteLead_settles ..) ?_
    exact .refl

theorem State.cancelGroup_settles (s : State) (swap : Option Nat) (g : Nat) (f : Nat) : Settles s (State.cancelGroup s swap g f) := by
  unfold State.cancelGroup
  dsimp only
  split
  · refine Settles.step ((State.orderRewinds_only ..).settles (by decide)) ?_
    refine Settles.step (State.setGroup_settles ..) ?_
    refine Settles.step ((State.dropTentatives_only ..).settles (by decide)) ?_
    refine Settles.step (Only.settles (Only.with_twin (d := [.twin]) (by decide) .refl) (by decide)) ?_
    refine Settles.step (State.refundFrom_settles ..) ?_
    exact .refl
  · refine Settles.step ((State.orderRewinds_only ..).settles (by decide)) ?_
    refine Settles.step (State.setGroup_settles ..) ?_
    refine Settles.step ((State.dropTentatives_only ..).settles (by decide)) ?_
    refine Settles.step (Only.settles (Only.with_twin (d := [.twin]) (by decide) .refl) (by decide)) ?_
    refine Settles.step (State.refundFrom_settles ..) ?_
    exact .refl

theorem State.cancelGroups_settles (s : State) (swap : Option Nat) (x2 : List (Nat × Nat)) : Settles s (State.cancelGroups s swap x2) := by
  induction x2 generalizing s swap with | nil => ?_ | cons y l ih => ?_
  · simp only [State.cancelGroups]
    exact .refl
  · simp only [State.cancelGroups]
    refine Settles.step (ih ..) ?_
    refine Settles.step (State.cancelGroup_settles ..) ?_
    exact .refl

theorem State.cancel_settles (s : State) (swap : Option Nat) (raise : Bool) (firsts : List (Nat × Nat)) :
    Settles s (State.cancel s swap raise firsts) := by
  unfold State.cancel
  dsimp only
  refine Settles.ite (fun _ => ?_) (fun _ => ?_)
  · exact .refl
  · refine Settles.step (State.noteLeads_settles ..) ?_
    refine Settles.step ((State.bump_only ..).settles (by decide)) ?_
    refine Settles.step ((State.cancelModules_only ..).settles (by decide)) ?_
    refine Settles.step (State.cancelGroups_settles ..) ?_
    exact .refl

theorem State.applyPublish_settles (s : State) (recs : List (Nat × Nat)) (line : Nat) (now : Bool) :
    Settles s (State.applyPublish s recs line now) := by
  unfold State.applyPublish
  dsimp only
  refine Settles.ite (fun _ => ?_) (fun _ => ?_)
  · refine Settles.step ((State.swapNow_only ..).settles (by decide)) ?_
    refine Settles.ite (fun _ => ?_) (fun _ => ?_)
    · refine Settles.step (State.cancel_settles ..) ?_
      refine Settles.step ((State.setReg_only ..).settles (by decide)) ?_
      refine Settles.step ((State.bump_only ..).settles (by decide)) ?_
      refine Settles.step (Only.settles (Only.with_health (d := [.health]) (by decide) .refl) (by decide)) ?_
      exact .refl
    · refine Settles.step ((State.setReg_only ..).settles (by decide)) ?_
      refine Settles.step ((State.bump_only ..).settles (by decide)) ?_
      refine Settles.step (Only.settles (Only.with_health (d := [.health]) (by decide) .refl) (by decide)) ?_
      exact .refl
  · refine Settles.ite (fun _ => ?_) (fun _ => ?_)
    · refine Settles.step (State.cancel_settles ..) ?_
      refine Settles.step ((State.setReg_only ..).settles (by decide)) ?_
      refine Settles.step ((State.bump_only ..).settles (by decide)) ?_
      refine Settles.step (Only.settles (Only.with_health (d := [.health]) (by decide) .refl) (by decide)) ?_
      exact .refl
    · refine Settles.step ((State.setReg_only ..).settles (by decide)) ?_
      refine Settles.step ((State.bump_only ..).settles (by decide)) ?_
      refine Settles.step (Only.settles (Only.with_health (d := [.health]) (by decide) .refl) (by decide)) ?_
      exact .refl

theorem State.publish_settles (s : State) (recs : List (Nat × Nat)) (reply : Option Deferred) : Settles s (State.publish s recs reply) := by
  unfold State.publish
  dsimp only
  refine Settles.ite (fun _ => ?_) (fun _ => ?_)
  · refine Settles.step (Only.settles (Only.with_health (d := [.health]) (by decide) .refl) (by decide)) ?_
    refine Settles.step ((State.swapDue_only ..).settles (by decide)) ?_
    exact .refl
  · refine Settles.ite (fun _ => ?_) (fun _ => ?_)
    · refine Settles.step ((State.finished_only ..).settles (by decide)) ?_
      refine Settles.step ((State.swapDue_only ..).settles (by decide)) ?_
      exact .refl
    · refine Settles.ite (fun _ => ?_) (fun _ => ?_)
      · refine Settles.step (Only.settles (Only.with_twin (d := [.twin]) (by decide) .refl) (by decide)) ?_
        refine Settles.step ((State.swapDue_only ..).settles (by decide)) ?_
        exact .refl
      · refine Settles.step ((State.finished_only ..).settles (by decide)) ?_
        refine Settles.step (State.applyPublish_settles ..) ?_
        refine Settles.ite (fun _ => ?_) (fun _ => ?_)
        · refine Settles.step ((State.sendPublish_only ..).settles (by decide)) ?_
          refine Settles.step ((State.swapDue_only ..).settles (by decide)) ?_
          exact .refl
        · refine Settles.step ((State.swapDue_only ..).settles (by decide)) ?_
          exact .refl

/-! ### Taper -/

theorem State.askLine_settles (s : State) (g : Nat) : Settles s (State.askLine s g) := by
  unfold State.askLine
  dsimp only
  refine Settles.step ((State.addJobs_only ..).settles (by decide)) ?_
  refine Settles.step (State.setGroup_settles ..) ?_
  exact .refl

theorem State.confirmLine_settles (s : State) (g : Nat) (n : Nat) (edge : Option Nat) (late : Bool) (lateArm : Bool) :
    Settles s (State.confirmLine s g n edge late lateArm) := by
  unfold State.confirmLine
  dsimp only
  refine Settles.step ((State.slotState_only ..).settles (by decide)) ?_
  refine Settles.step ((State.setNewest_only ..).settles (by decide)) ?_
  refine Settles.step ((State.ckptAll_only ..).settles (by decide)) ?_
  refine Settles.with_taper rfl ?_
  refine Settles.step (State.setGroup_settles ..) ?_
  refine Settles.step ((State.setReg_only ..).settles (by decide)) ?_
  refine Settles.step ((State.sendConfirms_only ..).settles (by decide)) ?_
  exact .refl

theorem State.refuseLine_settles (s : State) (g : Nat) (n : Nat) (cause : Nat) (strip : Nat) : Settles s (State.refuseLine s g n cause strip) := by
  unfold State.refuseLine
  dsimp only
  refine Settles.step ((State.passStrips_only ..).settles (by decide)) ?_
  refine Settles.step (State.skipLine_settles ..) ?_
  refine Settles.step ((State.setReg_only ..).settles (by decide)) ?_
  exact .refl

theorem State.tryLocked_settles (s : State) (g : Nat) : Settles s (State.tryLocked s g) := by
  unfold State.tryLocked
  split
  · exact .refl
  · refine Settles.ite (fun _ => ?_) (fun _ => ?_)
    · exact .refl
    · dsimp only
      refine Settles.ite (fun _ => ?_) (fun _ => ?_)
      · refine Settles.step (State.skipConf_settles ..) ?_
        refine Settles.step (State.setGroup_settles ..) ?_
        exact .refl
      · refine Settles.step (State.setGroup_settles ..) ?_
        exact .refl

theorem State.armLine_settles (s : State) (g : Nat) : Settles s (State.armLine s g) := by
  unfold State.armLine
  dsimp only
  refine Settles.step (State.noteLead_settles ..) ?_
  refine Settles.ite (fun _ => ?_) (fun _ => ?_)
  · refine Settles.step ((State.passEntered_only ..).settles (by decide)) ?_
    refine Settles.step ((State.ckptAll_only ..).settles (by decide)) ?_
    exact .refl
  · refine Settles.ite (fun _ => ?_) (fun _ => ?_)
    · refine Settles.step ((State.mateSkip_only ..).settles (by decide)) ?_
      refine Settles.step ((State.ckptAll_only ..).settles (by decide)) ?_
      exact .refl
    · split
      · refine Settles.step (State.refuseLine_settles ..) ?_
        refine Settles.step ((State.ckptAll_only ..).settles (by decide)) ?_
        exact .refl
      · refine Settles.ite (fun _ => ?_) (fun _ => ?_)
        · refine Settles.ite (fun _ => ?_) (fun _ => ?_)
          · refine Settles.step (State.refuseLine_settles ..) ?_
            refine Settles.step ((State.ckptAll_only ..).settles (by decide)) ?_
            exact .refl
          · refine Settles.step (State.confirmLine_settles ..) ?_
            refine Settles.step ((State.ckptAll_only ..).settles (by decide)) ?_
            exact .refl
        · refine Settles.step (State.tryLocked_settles ..) ?_
          refine Settles.step (State.confirmLine_settles ..) ?_
          refine Settles.step ((State.ckptAll_only ..).settles (by decide)) ?_
          exact .refl

theorem State.rePredict_settles (s : State) (g : Nat) : Settles s (State.rePredict s g) := by
  unfold State.rePredict
  split
  · exact .refl
  · split
    · exact .refl
    · refine Settles.ite (fun _ => ?_) (fun _ => ?_)
      · exact .refl
      · refine Settles.ite (fun _ => ?_) (fun _ => ?_)
        · dsimp only
          refine Settles.step (State.setGroup_settles ..) ?_
          exact .refl
        · refine Settles.step (State.tryLocked_settles ..) ?_
          refine Settles.step (State.setGroup_settles ..) ?_
          exact .refl

theorem State.rePredictAll_settles (s : State) : Settles s (State.rePredictAll s) := by
  unfold State.rePredictAll
  refine Settles.foldl (fun t x => ?_) ?_
  · refine Settles.step (State.rePredict_settles ..) ?_
    exact .refl
  · exact .refl

theorem State.markMoved_settles (s : State) : Settles s (State.markMoved s) := by
  unfold State.markMoved
  refine Settles.foldl (fun t x => ?_) ?_
  · refine Settles.step (State.tryLocked_settles ..) ?_
    exact .refl
  · exact .refl

theorem State.lagLines_settles (s : State) (g : Nat) (n : Nat) : Settles s (State.lagLines s g n) := by
  unfold State.lagLines
  refine Settles.foldl (fun t x => ?_) ?_
  · refine Settles.step (State.refuseLine_settles ..) ?_
    exact .refl
  · exact .refl

theorem State.lagGroups_settles (s : State) (x1 : List Nat) : Settles s (State.lagGroups s x1) := by
  induction x1 generalizing s with | nil => ?_ | cons y l ih => ?_
  · simp only [State.lagGroups]
    exact .refl
  · simp only [State.lagGroups]
    refine Settles.step (ih ..) ?_
    refine Settles.step (State.noteLead_settles ..) ?_
    refine Settles.step (State.lagLines_settles ..) ?_
    exact .refl

theorem State.reverse_settles (s : State) : Settles s (State.reverse s) := by
  unfold State.reverse
  dsimp only
  refine Settles.ite (fun _ => ?_) (fun _ => ?_)
  · refine Settles.step ((State.moveSwap_only ..).settles (by decide)) ?_
    refine Settles.step (State.cancel_settles ..) ?_
    refine Settles.step (Only.settles (Only.with_lantern (d := [.lantern]) (by decide) .refl) (by decide)) ?_
    exact .refl
  · refine Settles.step (Only.settles (Only.with_lantern (d := [.lantern]) (by decide) .refl) (by decide)) ?_
    exact .refl

theorem State.indexPolicy_settles (s : State) (ch : Nat) : Settles s (State.indexPolicy s ch) := by
  unfold State.indexPolicy
  refine Settles.ite (fun _ => ?_) (fun _ => ?_)
  · split
    · exact .refl
    · refine Settles.ite (fun _ => ?_) (fun _ => ?_)
      · exact .refl
      · split
        · refine Settles.step ((State.setCause_only ..).settles (by decide)) ?_
          exact .refl
        · dsimp only
          refine Settles.step (State.cancel_settles ..) ?_
          refine Settles.with_taper rfl ?_
          exact .refl
    · refine Settles.step ((State.setCause_only ..).settles (by decide)) ?_
      exact .refl
  · exact .refl

theorem State.indexError_settles (s : State) (ch : Nat) (detail : Nat) (distance : Int) : Settles s (State.indexError s ch detail distance) := by
  unfold State.indexError
  dsimp only
  refine Settles.step ((State.logEvent_only ..).settles (by decide)) ?_
  refine Settles.step (State.indexPolicy_settles ..) ?_
  refine Settles.step ((State.setBits_only ..).settles (by decide)) ?_
  refine Settles.step ((State.bump_only ..).settles (by decide)) ?_
  exact .refl

/-! ### Suspend -/

theorem State.settleDoubt_settles (s : State) (us : List Unsettled) (u : Unsettled) : Settles s (State.settleDoubt s us u) := by
  unfold State.settleDoubt
  dsimp only
  refine Settles.ite (fun _ => ?_) (fun _ => ?_)
  · refine Settles.step (State.settle_settles ..) ?_
    refine Settles.ite (fun _ => ?_) (fun _ => ?_)
    · refine Settles.step ((State.bump_only ..).settles (by decide)) ?_
      split
      · refine Settles.ite (fun _ => ?_) (fun _ => ?_)
        · refine Settles.step (State.setGroup_settles ..) ?_
          refine Settles.with_taper rfl ?_
          exact .refl
        · refine Settles.with_taper rfl ?_
          exact .refl
      · refine Settles.with_taper rfl ?_
        exact .refl
    · split
      · refine Settles.ite (fun _ => ?_) (fun _ => ?_)
        · refine Settles.step (State.setGroup_settles ..) ?_
          refine Settles.with_taper rfl ?_
          exact .refl
        · refine Settles.with_taper rfl ?_
          exact .refl
      · refine Settles.with_taper rfl ?_
        exact .refl
  · refine Settles.step (State.passLine_settles ..) ?_
    refine Settles.ite (fun _ => ?_) (fun _ => ?_)
    · refine Settles.step ((State.bump_only ..).settles (by decide)) ?_
      split
      · refine Settles.ite (fun _ => ?_) (fun _ => ?_)
        · refine Settles.step (State.setGroup_settles ..) ?_
          refine Settles.with_taper rfl ?_
          exact .refl
        · refine Settles.with_taper rfl ?_
          exact .refl
      · refine Settles.with_taper rfl ?_
        exact .refl
    · split
      · refine Settles.ite (fun _ => ?_) (fun _ => ?_)
        · refine Settles.step (State.setGroup_settles ..) ?_
          refine Settles.with_taper rfl ?_
          exact .refl
        · refine Settles.with_taper rfl ?_
          exact .refl
      · refine Settles.with_taper rfl ?_
        exact .refl

theorem State.settleLines_settles (s : State) (blocked : Bool) (x2 : List (Nat × Nat)) : Settles s (State.settleLines s blocked x2) := by
  induction x2 generalizing s blocked with | nil => ?_ | cons y l ih => ?_
  · simp only [State.settleLines]
    exact .refl
  · simp only [State.settleLines]
    split
    · refine Settles.step (ih ..) ?_
      exact .refl
    · refine Settles.ite (fun _ => ?_) (fun _ => ?_)
      · refine Settles.step (ih ..) ?_
        refine Settles.step (State.settleDoubt_settles ..) ?_
        exact .refl
      · refine Settles.step (ih ..) ?_
        exact .refl

theorem State.recordGroups_settles (s : State) (x1 : List Nat) : Settles s (State.recordGroups s x1) := by
  induction x1 generalizing s with | nil => ?_ | cons y l ih => ?_
  · simp only [State.recordGroups]
    exact .refl
  · simp only [State.recordGroups]
    refine Settles.ite (fun _ => ?_) (fun _ => ?_)
    · refine Settles.step (ih ..) ?_
      refine Settles.step ((State.setReg_only ..).settles (by decide)) ?_
      exact .refl
    · refine Settles.step (ih ..) ?_
      refine Settles.step ((State.setReg_only ..).settles (by decide)) ?_
      refine Settles.step ((State.setReg_only ..).settles (by decide)) ?_
      refine Settles.step (State.setGroup_settles ..) ?_
      exact .refl

theorem State.recordStop_settles (s : State) : Settles s (State.recordStop s) := by
  unfold State.recordStop
  dsimp only
  refine Settles.step ((State.setReg_only ..).settles (by decide)) ?_
  refine Settles.step (State.recordGroups_settles ..) ?_
  exact .refl

theorem State.recordDue_settles (s : State) : Settles s (State.recordDue s) := by
  unfold State.recordDue
  refine Settles.ite (fun _ => ?_) (fun _ => ?_)
  · refine Settles.step (State.recordStop_settles ..) ?_
    refine Settles.with_taper rfl ?_
    exact .refl
  · exact .refl

theorem State.settleAll_settles (s : State) : Settles s (State.settleAll s) := by
  unfold State.settleAll
  refine Settles.step (State.recordDue_settles ..) ?_
  refine Settles.step (State.settleLines_settles ..) ?_
  exact .refl

theorem State.hearStatus_settles (s : State) (m : Nat) (valid : Bool) (fired : Nat → Nat) : Settles s (State.hearStatus s m valid fired) := by
  unfold State.hearStatus
  dsimp only
  refine Settles.step (State.settleAll_settles ..) ?_
  refine Settles.with_taper rfl ?_
  exact .refl

theorem State.addDoubt_settles (s : State) (u : Unsettled) : Settles s (State.addDoubt s u) := by
  unfold State.addDoubt
  refine Settles.ite (fun _ => ?_) (fun _ => ?_)
  · exact .refl
  · refine Settles.with_taper rfl ?_
    exact .refl

theorem State.addDoubts_settles (s : State) (x1 : List Unsettled) : Settles s (State.addDoubts s x1) := by
  induction x1 generalizing s with | nil => ?_ | cons y l ih => ?_
  · simp only [State.addDoubts]
    exact .refl
  · simp only [State.addDoubts]
    refine Settles.step (ih ..) ?_
    refine Settles.step (State.addDoubt_settles ..) ?_
    exact .refl

theorem State.suspend_settles (s : State) (m : Nat) : Settles s (State.suspend s m) := by
  unfold State.suspend
  refine Settles.step (State.addDoubts_settles ..) ?_
  exact .refl

theorem State.raiseStrobe_settles (s : State) (g : Nat) (rise : Nat) : Settles s (State.raiseStrobe s g rise) := by
  unfold State.raiseStrobe
  refine Settles.ite (fun _ => ?_) (fun _ => ?_)
  · exact .refl
  · refine Settles.step ((State.emit_only ..).settles (by decide)) ?_
    refine Settles.with_pins rfl ?_
    exact .refl

theorem State.strobe_settles (s : State) (g : Nat) (c : Conf) (rise : Nat) : Settles s (State.strobe s g c rise) := by
  unfold State.strobe
  dsimp only
  refine Settles.ite (fun _ => ?_) (fun _ => ?_)
  · refine Settles.step (State.fireConf_settles ..) ?_
    refine Settles.step (State.addDoubts_settles ..) ?_
    refine Settles.step ((State.setReg_only ..).settles (by decide)) ?_
    refine Settles.step (State.raiseStrobe_settles ..) ?_
    refine Settles.step (State.setGroup_settles ..) ?_
    exact .refl
  · refine Settles.step (State.settleAll_settles ..) ?_
    refine Settles.with_taper rfl ?_
    refine Settles.step (State.addDoubts_settles ..) ?_
    refine Settles.step ((State.setReg_only ..).settles (by decide)) ?_
    refine Settles.step (State.raiseStrobe_settles ..) ?_
    refine Settles.step (State.setGroup_settles ..) ?_
    exact .refl

theorem State.logHeld_settles (s : State) (g : Nat) : Settles s (State.logHeld s g) := by
  unfold State.logHeld
  dsimp only
  refine Settles.foldl (fun t x => ?_) ?_
  · refine Settles.step ((State.logEvent_only ..).settles (by decide)) ?_
    exact .refl
  · refine Settles.with_taper rfl ?_
    exact .refl

theorem State.dropStrobe_settles (s : State) (g : Nat) : Settles s (State.dropStrobe s g) := by
  unfold State.dropStrobe
  dsimp only
  refine Settles.step (State.logHeld_settles ..) ?_
  refine Settles.with_pins rfl ?_
  refine Settles.step (State.setGroup_settles ..) ?_
  exact .refl

theorem State.stopLit_settles (s : State) : Settles s (State.stopLit s) := by
  unfold State.stopLit
  refine Settles.ite (fun _ => ?_) (fun _ => ?_)
  · exact .refl
  · dsimp only
    refine Settles.step ((State.moveSwap_only ..).settles (by decide)) ?_
    refine Settles.step (State.cancel_settles ..) ?_
    refine Settles.with_taper rfl ?_
    exact .refl

theorem State.stopAtLine_settles (s : State) : Settles s (State.stopAtLine s) := by
  unfold State.stopAtLine
  split
  · refine Settles.ite (fun _ => ?_) (fun _ => ?_)
    · refine Settles.step (State.stopLit_settles ..) ?_
      refine Settles.step (Only.settles (Only.with_twin (d := [.twin]) (by decide) .refl) (by decide)) ?_
      exact .refl
    · exact .refl
  · exact .refl

theorem State.resolveDown_settles (s : State) (x1 : List Nat) : Settles s (State.resolveDown s x1) := by
  induction x1 generalizing s with | nil => ?_ | cons y l ih => ?_
  · simp only [State.resolveDown]
    exact .refl
  · simp only [State.resolveDown]
    refine Settles.ite (fun _ => ?_) (fun _ => ?_)
    · refine Settles.step (ih ..) ?_
      exact .refl
    · refine Settles.step (ih ..) ?_
      refine Settles.with_taper rfl ?_
      exact .refl

theorem State.suppressConfs_settles (s : State) (hold : Bool) (x2 : List Nat) : Settles s (State.suppressConfs s hold x2) := by
  induction x2 generalizing s hold with | nil => ?_ | cons y l ih => ?_
  · simp only [State.suppressConfs]
    exact .refl
  · simp only [State.suppressConfs]
    split
    · refine Settles.step (ih ..) ?_
      exact .refl
    · refine Settles.ite (fun _ => ?_) (fun _ => ?_)
      · refine Settles.step (ih ..) ?_
        refine Settles.step (State.addDoubts_settles ..) ?_
        refine Settles.step (State.setGroup_settles ..) ?_
        exact .refl
      · refine Settles.step (ih ..) ?_
        refine Settles.step (State.skipConf_settles ..) ?_
        refine Settles.step (State.setGroup_settles ..) ?_
        exact .refl

theorem State.taperSnuff_settles (s : State) (barWide : Bool) : Settles s (s.taperSnuff barWide) := by
  have stop : ∀ u : State,
      Settles u { u with taper := { u.taper with stopDue := true, stopping := false, holdPage := none, priming := false } } :=
    fun _ => Settles.with_taper rfl .refl
  unfold State.taperSnuff
  extract_lets s1 s2 y s3 s4 s5
  have h2 : Settles s s2 := Settles.step (State.resolveDown_settles ..) (State.cancel_settles ..)
  have h3 : Settles s2 s3 := Settles.with_taper rfl .refl
  have h5 : Settles s3 s5 := Settles.step (State.suppressConfs_settles ..) (State.settleLines_settles ..)
  exact Settles.step (State.settleAll_settles ..) (Settles.step (stop s5) (Settles.step h5 (Settles.step h3 h2)))

/-! ### Pool -/

theorem execTaperLineRequest_settles (g : Fin 8) (s : State) : SettlesNext s (execTaperLineRequest g s) := by
  unfold execTaperLineRequest
  dsimp only
  refine SettlesNext.next ?_
  refine Settles.step ((State.pageLate_only ..).settles (by decide)) ?_
  refine Settles.ite (fun _ => ?_) (fun _ => ?_)
  · refine Settles.step (State.askLine_settles ..) ?_
    exact .refl
  · exact .refl

theorem execContextRewind_settles (k : Fin 160) (s : State) : SettlesNext s (execContextRewind k s) :=
  ⟨fun t ht => ((execContextRewind_only ..).only t ht).settles (by decide)⟩

theorem execStripCorrect_settles (st : Fin 128) (s : State) : SettlesNext s (execStripCorrect st s) :=
  ⟨fun t ht => ((execStripCorrect_only ..).only t ht).settles (by decide)⟩

theorem State.decideLine_settles (s : State) (g : Nat) (n : Nat) : Settles s (State.decideLine s g n) := by
  unfold State.decideLine
  split
  dsimp only
  refine Settles.ite (fun _ => ?_) (fun _ => ?_)
  · refine Settles.step ((State.emit_only ..).settles (by decide)) ?_
    refine Settles.step (State.noteOutcome_settles ..) ?_
    refine Settles.step (State.holdDecision_settles ..) ?_
    refine Settles.ite (fun _ => ?_) (fun _ => ?_)
    · exact .refl
    · refine Settles.step ((State.chargePool_only ..).settles (by decide)) ?_
      exact .refl
  · refine Settles.step (State.noteOutcome_settles ..) ?_
    refine Settles.step (State.holdDecision_settles ..) ?_
    refine Settles.ite (fun _ => ?_) (fun _ => ?_)
    · exact .refl
    · refine Settles.step ((State.chargePool_only ..).settles (by decide)) ?_
      exact .refl

theorem State.decideReady_settles (s : State) (x1 : Nat) : Settles s (State.decideReady s x1) := by
  induction x1 generalizing s with | zero => ?_ | succ k ih => ?_
  · simp only [State.decideReady]
    exact .refl
  · simp only [State.decideReady]
    split
    · exact .refl
    · refine Settles.step (ih ..) ?_
      refine Settles.step (State.decideLine_settles ..) ?_
      exact .refl

theorem State.linesFirst_settles (s : State) : Settles s (State.linesFirst s) := by
  unfold State.linesFirst
  refine Settles.ite (fun _ => ?_) (fun _ => ?_)
  · refine Settles.step (State.decideReady_settles ..) ?_
    exact .refl
  · exact .refl

theorem execWickLineDecision_settles (s : State) : SettlesNext s (execWickLineDecision s) := by
  unfold execWickLineDecision
  refine SettlesNext.ite (fun _ => ?_) (fun _ => ?_)
  · refine SettlesNext.next ?_
    exact .refl
  · split
    · refine SettlesNext.next ?_
      exact .refl
    · refine SettlesNext.next ?_
      refine Settles.step (State.decideLine_settles ..) ?_
      exact .refl

theorem execLineFrameSend_settles (st : Fin 128) (s : State) : SettlesNext s (execLineFrameSend st s) := by
  unfold execLineFrameSend
  split
  · refine SettlesNext.next ?_
    exact .refl
  · refine SettlesNext.ite (fun _ => ?_) (fun _ => ?_)
    · dsimp only
      refine SettlesNext.next ?_
      refine Settles.step (State.noteLead_settles ..) ?_
      refine Settles.step ((State.sendLine_only ..).settles (by decide)) ?_
      refine Settles.step ((State.modSlot_only ..).settles (by decide)) ?_
      exact .refl
    · refine SettlesNext.next ?_
      exact .refl

/-! ### Fire -/

theorem execArmingStart_settles (s : State) : SettlesNext s (execArmingStart s) := by
  unfold execArmingStart
  refine SettlesNext.ite (fun _ => ?_) (fun _ => ?_)
  · dsimp only
    refine SettlesNext.next ?_
    refine Settles.step (State.lagGroups_settles ..) ?_
    refine Settles.with_taper rfl ?_
    exact .refl
  · refine SettlesNext.next ?_
    exact .refl

theorem execLineArm_settles (g : Fin 8) (s : State) : SettlesNext s (execLineArm g s) := by
  unfold execLineArm
  refine SettlesNext.ite (fun _ => ?_) (fun _ => ?_)
  · refine SettlesNext.next ?_
    refine Settles.step (State.stopAtLine_settles ..) ?_
    refine Settles.step (State.armLine_settles ..) ?_
    exact .refl
  · refine SettlesNext.next ?_
    exact .refl

theorem execStrobeEdge_settles (g : Fin 8) (s : State) : SettlesNext s (execStrobeEdge g s) := by
  unfold execStrobeEdge
  split
  · refine SettlesNext.next ?_
    exact .refl
  · split
    · refine SettlesNext.next ?_
      exact .refl
    · refine SettlesNext.next ?_
      refine Settles.step (State.strobe_settles ..) ?_
      exact .refl

theorem State.endMaint_settles (s : State) : Settles s s.endMaint := Settles.of_low rfl id (fun h => Level.noConfusion h)

theorem State.maintOver_settles (s : State) : Settles s (State.maintOver s) := by
  unfold State.maintOver
  split
  · exact .refl
  · refine Settles.ite (fun _ => ?_) (fun _ => ?_)
    · refine Settles.step (State.endMaint_settles ..) ?_
      exact .refl
    · exact .refl

theorem State.beginMaint_settles (s : State) : Settles s s.beginMaint := by
  unfold State.beginMaint
  split
  · exact .refl
  · refine Settles.ite (fun _ => .refl) (fun h => Settles.ite (fun _ => ?_) (fun _ => ?_))
    · exact Settles.step (State.endMaint_settles ..) ((State.bump_only ..).settles (by decide))
    refine Settles.step (State.maintOver_settles ..) (Settles.step ((State.fireReset_only ..).settles (by decide)) ?_)
    have hm : s.mode = .trim := by
      by_contra hm
      exact h (.inr hm)
    refine ⟨fun hs => ⟨?_, .inl rfl⟩⟩
    simp only [State.modeSafe, State.firingGuarded, State.patternRuns, Bool.and_eq_true] at hs ⊢
    exact ⟨hs.1, by simp [hm]⟩

theorem State.maintEdges_settles (s : State) (rise : Nat) (x2 : List Nat) : Settles s (State.maintEdges s rise x2) := by
  induction x2 generalizing s rise with | nil => ?_ | cons y l ih => ?_
  · simp only [State.maintEdges]
    exact .refl
  · simp only [State.maintEdges]
    refine Settles.step (ih ..) ?_
    refine Settles.step ((State.setReg_only ..).settles (by decide)) ?_
    refine Settles.step (State.raiseStrobe_settles ..) ?_
    refine Settles.step (State.setGroup_settles ..) ?_
    exact .refl

theorem execMaintLine_settles (s : State) : SettlesNext s (execMaintLine s) := by
  unfold execMaintLine
  split
  · exact SettlesNext.next .refl
  · rename_i m hm
    refine SettlesNext.ite (fun _ => SettlesNext.next .refl) (fun hr => ?_)
    have aborts : ∀ t : State, Settles t (t.bump Obj.maintAborts).endMaint :=
      fun t => Settles.step (State.endMaint_settles ..) ((State.bump_only ..).settles (by decide))
    refine SettlesNext.ite (fun _ => SettlesNext.next (aborts s)) (fun _ => ?_)
    have a := State.takeAux_only s m.stream
    split
    · rename_i u hu
      rw [hu] at a
      exact SettlesNext.next (Settles.step (aborts u) (a.settles (by decide)))
    · rename_i u hu
      rw [hu] at a
      exact SettlesNext.next (Settles.step (aborts u) (a.settles (by decide)))
    · rename_i n line u hu
      rw [hu] at a
      extract_lets y u1 u2 u3
      have h1 : Settles u u1 := by
        refine Stays.settles ⟨rfl, rfl, rfl, ?_⟩
        have : u.taper.maint = some m := (congrArg Taper.maint (a.agree .taper (by decide))).trans hm
        simp [State.patternRuns, u1, this]
      have h2 : Settles u1 u2 := (State.maintFrames_only ..).settles (by decide)
      have h3 : Settles u2 u3 := (State.maintConfirms_only ..).settles (by decide)
      exact SettlesNext.next (Settles.step (State.maintEdges_settles ..) (Settles.step h3 (Settles.step h2 (Settles.step h1
        (a.settles (by decide))))))

theorem execStrobeEnd_settles (g : Fin 8) (s : State) : SettlesNext s (execStrobeEnd g s) := by
  unfold execStrobeEnd
  refine SettlesNext.ite (fun _ => ?_) (fun _ => ?_)
  · refine SettlesNext.next ?_
    refine Settles.step (State.maintOver_settles ..) ?_
    refine Settles.step ((State.emit_only ..).settles (by decide)) ?_
    refine Settles.step (State.dropStrobe_settles ..) ?_
    exact .refl
  · refine SettlesNext.next ?_
    exact .refl

theorem execStrobeCut_settles (g : Fin 8) (s : State) : SettlesNext s (execStrobeCut g s) := by
  unfold execStrobeCut
  dsimp only
  refine SettlesNext.next ?_
  refine Settles.step (State.maintOver_settles ..) ?_
  refine Settles.step ((State.logEvent_only ..).settles (by decide)) ?_
  refine Settles.step ((State.escalate_only ..).settles (by decide)) ?_
  refine Settles.step ((State.emit_only ..).settles (by decide)) ?_
  refine Settles.step ((State.bump_only ..).settles (by decide)) ?_
  refine Settles.with_pins_taper rfl rfl ?_
  refine Settles.step (State.setGroup_settles ..) ?_
  exact .refl

theorem execSnufferEscalate_settles (g : Fin 8) (padStillHigh : Bool) (s : State) :
    SettlesNext s (execSnufferEscalate g padStillHigh s) := by
  unfold execSnufferEscalate
  dsimp only
  refine SettlesNext.ite (fun _ => ?_) (fun _ => ?_)
  · refine SettlesNext.next ?_
    refine Settles.step ((State.setCause_only ..).settles (by decide)) ?_
    refine Settles.step (State.setGroup_settles ..) ?_
    exact .refl
  · refine SettlesNext.next ?_
    refine Settles.step ((State.escalate_only ..).settles (by decide)) ?_
    refine Settles.step (State.setGroup_settles ..) ?_
    exact .refl

theorem execStopSuppressTimeout_settles (g : Fin 8) (s : State) : SettlesNext s (execStopSuppressTimeout g s) := by
  unfold execStopSuppressTimeout
  refine SettlesNext.ite (fun _ => ?_) (fun _ => ?_)
  · split
    · refine SettlesNext.next ?_
      exact .refl
    · dsimp only
      refine SettlesNext.ite (fun _ => ?_) (fun _ => ?_)
      · refine SettlesNext.next ?_
        refine Settles.step (State.skipConf_settles ..) ?_
        refine Settles.step (State.setGroup_settles ..) ?_
        exact .refl
      · refine SettlesNext.next ?_
        refine Settles.step (State.settleAll_settles ..) ?_
        refine Settles.with_taper rfl ?_
        refine Settles.step (State.setGroup_settles ..) ?_
        exact .refl
  · refine SettlesNext.next ?_
    exact .refl

/-! ### Clock -/

theorem State.moveTimes_settles (s : State) (d : Int) : Settles s (State.moveTimes s d) := by
  unfold State.moveTimes
  dsimp only
  refine Settles.with_enc_taper_twin_lantern_led rfl ?_
  refine Settles.step ((State.moveLastEdge_only ..).settles (by decide)) ?_
  refine Settles.step ((State.moveLastEdge_only ..).settles (by decide)) ?_
  exact .refl

theorem State.stepBeacon_settles (s : State) (d : Int) : Settles s (State.stepBeacon s d) := by
  unfold State.stepBeacon
  dsimp only
  refine Settles.step ((State.logEvent_only ..).settles (by decide)) ?_
  refine Settles.ite (fun _ => ?_) (fun _ => ?_)
  · refine Settles.step ((State.sendTimes_only ..).settles (by decide)) ?_
    refine Settles.step ((State.setBits_only ..).settles (by decide)) ?_
    refine Settles.step ((State.bump_only ..).settles (by decide)) ?_
    refine Settles.step (Only.settles (Only.with_clock_ptp (d := [.clock, .ptp]) (by decide) .refl) (by decide)) ?_
    refine Settles.step (State.moveTimes_settles ..) ?_
    exact .refl
  · refine Settles.step ((State.setBits_only ..).settles (by decide)) ?_
    refine Settles.step ((State.bump_only ..).settles (by decide)) ?_
    refine Settles.step (Only.settles (Only.with_clock_ptp (d := [.clock, .ptp]) (by decide) .refl) (by decide)) ?_
    refine Settles.step (State.moveTimes_settles ..) ?_
    exact .refl

theorem execTimeFrameSend_settles (s : State) : SettlesNext s (execTimeFrameSend s) :=
  ⟨fun t ht => ((execTimeFrameSend_only ..).only t ht).settles (by decide)⟩

theorem execPtpSyncSend_settles (s : State) : SettlesNext s (execPtpSyncSend s) :=
  ⟨fun t ht => ((execPtpSyncSend_only ..).only t ht).settles (by decide)⟩

theorem execPtpTimestampVector_settles (tx : Bool) (msg : Nat) (s : State) : SettlesNext s (execPtpTimestampVector tx msg s) :=
  ⟨fun t ht => ((execPtpTimestampVector_only ..).only t ht).settles (by decide)⟩

theorem execPtpFollowUp_settles (s : State) : SettlesNext s (execPtpFollowUp s) :=
  ⟨fun t ht => ((execPtpFollowUp_only ..).only t ht).settles (by decide)⟩

theorem execPtpAnnounceSend_settles (s : State) : SettlesNext s (execPtpAnnounceSend s) :=
  ⟨fun t ht => ((execPtpAnnounceSend_only ..).only t ht).settles (by decide)⟩

theorem execPtpDelayReq_settles (domain : Nat) (identity : Nat) (seq : Nat) (s : State) : SettlesNext s (execPtpDelayReq domain identity seq s) :=
  ⟨fun t ht => ((execPtpDelayReq_only ..).only t ht).settles (by decide)⟩

theorem execPtpForeignAnnounce_settles (identity : Nat) (s : State) : SettlesNext s (execPtpForeignAnnounce identity s) :=
  ⟨fun t ht => ((execPtpForeignAnnounce_only ..).only t ht).settles (by decide)⟩

/-! ### Motion -/

theorem State.moveTo_settles (s : State) (a : Nat) (goal : Int) : Settles s (State.moveTo s a goal) := by
  unfold State.moveTo
  refine Settles.ite (fun _ => ?_) (fun _ => ?_)
  · exact .refl
  · dsimp only
    refine Settles.ite (fun _ => ?_) (fun _ => ?_)
    · refine Settles.step ((State.replan_only ..).settles (by decide)) ?_
      refine Settles.step ((State.setSreg_only ..).settles (by decide)) ?_
      exact .refl
    · split
      · refine Settles.step ((State.bump_only ..).settles (by decide)) ?_
        refine Settles.step ((State.setAxis_only ..).settles (by decide)) ?_
        refine Settles.of_snd (by assumption) ?_
        refine Settles.step ((State.ask_only ..).settles (by decide)) ?_
        refine Settles.step (State.linesFirst_settles ..) ?_
        refine Settles.step ((State.setAxis_only ..).settles (by decide)) ?_
        refine Settles.step ((State.withdrawMove_only ..).settles (by decide)) ?_
        refine Settles.step ((State.setSreg_only ..).settles (by decide)) ?_
        exact .refl
      · refine Settles.of_snd (by assumption) ?_
        refine Settles.step ((State.ask_only ..).settles (by decide)) ?_
        refine Settles.step (State.linesFirst_settles ..) ?_
        refine Settles.step ((State.setAxis_only ..).settles (by decide)) ?_
        refine Settles.step ((State.withdrawMove_only ..).settles (by decide)) ?_
        refine Settles.step ((State.setSreg_only ..).settles (by decide)) ?_
        exact .refl

theorem execMoveStart_settles (axis : Fin 4) (s : State) : SettlesNext s (execMoveStart axis s) :=
  ⟨fun t ht => ((execMoveStart_only ..).only t ht).settles (by decide)⟩

theorem execMotionTick_settles (s : State) : SettlesNext s (execMotionTick s) :=
  ⟨fun t ht => ((execMotionTick_only ..).only t ht).settles (by decide)⟩

theorem execChopperTrip_settles (axis : Fin 4) (ph : Phase) (driveNs : Nat) (s : State) : SettlesNext s (execChopperTrip axis ph driveNs s) :=
  ⟨fun t ht => ((execChopperTrip_only ..).only t ht).settles (by decide)⟩

theorem execChopperToffExpiry_settles (axis : Fin 4) (ph : Phase) (s : State) : SettlesNext s (execChopperToffExpiry axis ph s) :=
  ⟨fun t ht => ((execChopperToffExpiry_only ..).only t ht).settles (by decide)⟩

theorem execChopperBlankExpiry_settles (axis : Fin 4) (ph : Phase) (high : Bool) (s : State) :
    SettlesNext s (execChopperBlankExpiry axis ph high s) :=
  ⟨fun t ht => ((execChopperBlankExpiry_only ..).only t ht).settles (by decide)⟩

theorem execPhaseOpenTimeout_settles (axis : Fin 4) (ph : Phase) (s : State) : SettlesNext s (execPhaseOpenTimeout axis ph s) :=
  ⟨fun t ht => ((execPhaseOpenTimeout_only ..).only t ht).settles (by decide)⟩

/-! ### Led -/

theorem State.askLight_settles (s : State) (c : Nat) (set : CamSet) (derate : Nat) : Settles s (State.askLight s c set derate).2 := by
  unfold State.askLight
  split
  · dsimp only
    exact .refl
  · dsimp only
    split
    · dsimp only
      refine Settles.step ((State.useLeave_only ..).settles (by decide)) ?_
      refine Settles.of_snd (by assumption) ?_
      refine Settles.step ((State.ask_only ..).settles (by decide)) ?_
      refine Settles.step (State.linesFirst_settles ..) ?_
      exact .refl
    · dsimp only
      refine Settles.step ((State.bump_only ..).settles (by decide)) ?_
      refine Settles.of_snd (by assumption) ?_
      refine Settles.step ((State.ask_only ..).settles (by decide)) ?_
      refine Settles.step (State.linesFirst_settles ..) ?_
      exact .refl

/-! ### Loop -/

theorem execLoopSample_settles (i : Fin 48) (s : State) : SettlesNext s (execLoopSample i s) :=
  ⟨fun t ht => ((execLoopSample_only ..).only t ht).settles (by decide)⟩

theorem execSpiSenseDone_settles (p : Fin 4) (bits : Nat) (s : State) : SettlesNext s (execSpiSenseDone p bits s) :=
  ⟨fun t ht => ((execSpiSenseDone_only ..).only t ht).settles (by decide)⟩

theorem execSpiActuatorWrite_settles (p : Fin 4) (s : State) : SettlesNext s (execSpiActuatorWrite p s) :=
  ⟨fun t ht => ((execSpiActuatorWrite_only ..).only t ht).settles (by decide)⟩

theorem execLoopFollowTimeout_settles (i : Fin 48) (s : State) : SettlesNext s (execLoopFollowTimeout i s) :=
  ⟨fun t ht => ((execLoopFollowTimeout_only ..).only t ht).settles (by decide)⟩

/-! ### Upload -/

theorem execFlushTimeExpiry_settles (ch : Fin 4) (s : State) : SettlesNext s (execFlushTimeExpiry ch s) :=
  ⟨fun t ht => ((execFlushTimeExpiry_only ..).only t ht).settles (by decide)⟩

theorem execUploadPacketSend_settles (s : State) : SettlesNext s (execUploadPacketSend s) :=
  ⟨fun t ht => ((execUploadPacketSend_only ..).only t ht).settles (by decide)⟩

theorem execUploadCreditGrant_settles (ch : Nat) (v : Nat) (s : State) : SettlesNext s (execUploadCreditGrant ch v s) :=
  ⟨fun t ht => ((execUploadCreditGrant_only ..).only t ht).settles (by decide)⟩

theorem execUploadResend_settles (ch : Nat) (v : Nat) (s : State) : SettlesNext s (execUploadResend ch v s) :=
  ⟨fun t ht => ((execUploadResend_only ..).only t ht).settles (by decide)⟩

theorem execUploadAck_settles (ch : Nat) (v : Nat) (s : State) : SettlesNext s (execUploadAck ch v s) :=
  ⟨fun t ht => ((execUploadAck_only ..).only t ht).settles (by decide)⟩

theorem execUploadEntryDropped_settles (x0 : Nat) (x1 : Nat) (s : State) : SettlesNext s (execUploadEntryDropped x0 x1 s) :=
  ⟨fun t ht => ((execUploadEntryDropped_only ..).only t ht).settles (by decide)⟩

theorem execAckTimeoutExpiry_settles (ch : Fin 4) (s : State) : SettlesNext s (execAckTimeoutExpiry ch s) :=
  ⟨fun t ht => ((execAckTimeoutExpiry_only ..).only t ht).settles (by decide)⟩

/-! ### Lantern -/

theorem execCameraFrameStart_settles (p : Fin 2) (s : State) : SettlesNext s (execCameraFrameStart p s) := by
  unfold execCameraFrameStart
  refine SettlesNext.ite (fun _ => ?_) (fun _ => ?_)
  · refine SettlesNext.next ?_
    exact .refl
  · split
    · refine SettlesNext.next ?_
      exact .refl
    · dsimp only
      refine SettlesNext.next ?_
      refine Settles.step ((State.startTap_only ..).settles (by decide)) ?_
      refine Settles.step ((State.select_only ..).settles (by decide)) ?_
      refine Settles.step (Only.settles (Only.with_lantern (d := [.lantern]) (by decide) .refl) (by decide)) ?_
      refine Settles.step ((State.setFrame_only ..).settles (by decide)) ?_
      refine Settles.step (State.askLight_settles ..) ?_
      refine Settles.step ((State.setReg_only ..).settles (by decide)) ?_
      refine Settles.step ((State.setReg_only ..).settles (by decide)) ?_
      refine Settles.step ((State.takeJobs_only ..).settles (by decide)) ?_
      exact .refl

theorem execCameraTrigger_settles (p : Fin 2) (s : State) : SettlesNext s (execCameraTrigger p s) :=
  ⟨fun t ht => ((execCameraTrigger_only ..).only t ht).settles (by decide)⟩

theorem State.writeFindings_settles (s : State) (c : Nat) (gen : Nat) (l : List (Nat × Nat × Nat)) : Settles s (State.writeFindings s c gen l) := by
  unfold State.writeFindings
  refine Settles.ite (fun _ => ?_) (fun _ => ?_)
  · exact .refl
  · dsimp only
    refine Settles.ite (fun _ => ?_) (fun _ => ?_)
    · refine Settles.step ((State.emit_only ..).settles (by decide)) ?_
      refine Settles.step ((State.logFindings_only ..).settles (by decide)) ?_
      refine Settles.step ((State.count_only ..).settles (by decide)) ?_
      exact .refl
    · refine Settles.step (State.publish_settles ..) ?_
      refine Settles.step ((State.logFindings_only ..).settles (by decide)) ?_
      refine Settles.step ((State.count_only ..).settles (by decide)) ?_
      exact .refl

theorem State.evaluateRung_settles (s : State) (p : Nat) (c : Nat) (r : Rung) : Settles s (State.evaluateRung s p c r) := by
  unfold State.evaluateRung
  dsimp only
  refine Settles.ite (fun _ => ?_) (fun _ => ?_)
  · refine Settles.step (Only.settles (Only.with_lantern (d := [.lantern]) (by decide) .refl) (by decide)) ?_
    exact .refl
  · refine Settles.step (State.writeFindings_settles ..) ?_
    refine Settles.step ((State.verdicts_only ..).settles (by decide)) ?_
    split
    · refine Settles.step ((State.setFrame_only ..).settles (by decide)) ?_
      refine Settles.step (Only.settles (Only.with_lantern (d := [.lantern]) (by decide) .refl) (by decide)) ?_
      exact .refl
    · refine Settles.step (Only.settles (Only.with_lantern (d := [.lantern]) (by decide) .refl) (by decide)) ?_
      exact .refl

theorem State.takeRef_settles (s : State) (p : Nat) (c : Nat) (n : Nat) (line : List Byte) : Settles s (State.takeRef s p c n line) := by
  unfold State.takeRef
  dsimp only
  split
  · refine Settles.ite (fun _ => ?_) (fun _ => ?_)
    · refine Settles.step ((State.setRung_only ..).settles (by decide)) ?_
      exact .refl
    · refine Settles.ite (fun _ => ?_) (fun _ => ?_)
      · refine Settles.step ((State.setRung_only ..).settles (by decide)) ?_
        refine Settles.step (State.evaluateRung_settles ..) ?_
        exact .refl
      · refine Settles.step (State.evaluateRung_settles ..) ?_
        exact .refl
  · refine Settles.ite (fun _ => ?_) (fun _ => ?_)
    · refine Settles.step ((State.setRung_only ..).settles (by decide)) ?_
      exact .refl
    · exact .refl

theorem State.takeRefs_settles (s : State) (p : Nat) (c : Nat) (k : Nat) (n : Nat) (x5 : Nat) : Settles s (State.takeRefs s p c k n x5) := by
  induction x5 generalizing s p c k n with | zero => ?_ | succ k ih => ?_
  · simp only [State.takeRefs]
    exact .refl
  · simp only [State.takeRefs]
    refine Settles.ite (fun _ => ?_) (fun _ => ?_)
    · exact .refl
    · split
      · refine Settles.step ((State.refLate_only ..).settles (by decide)) ?_
        refine Settles.step ((State.spoilRung_only ..).settles (by decide)) ?_
        refine Settles.of_snd (by assumption) ?_
        refine Settles.step ((State.takeAux_only ..).settles (by decide)) ?_
        exact .refl
      · refine Settles.step (ih ..) ?_
        refine Settles.step ((State.spoilRung_only ..).settles (by decide)) ?_
        refine Settles.step ((State.refLate_only ..).settles (by decide)) ?_
        refine Settles.of_snd (by assumption) ?_
        refine Settles.step ((State.takeAux_only ..).settles (by decide)) ?_
        exact .refl
      · refine Settles.step (ih ..) ?_
        refine Settles.ite (fun _ => ?_) (fun _ => ?_)
        · refine Settles.step ((State.spoilRung_only ..).settles (by decide)) ?_
          refine Settles.of_snd (by assumption) ?_
          refine Settles.step ((State.takeAux_only ..).settles (by decide)) ?_
          exact .refl
        · refine Settles.step (State.takeRef_settles ..) ?_
          refine Settles.of_snd (by assumption) ?_
          refine Settles.step ((State.takeAux_only ..).settles (by decide)) ?_
          exact .refl

theorem State.detect_settles (s : State) (p : Nat) (f : Frame) (cols : Table Nat) (cRise : Nat) (cMid : Nat) (cFall : Nat) :
    Settles s (State.detect s p f cols cRise cMid cFall) := by
  unfold State.detect
  dsimp only
  refine Settles.ite (fun _ => ?_) (fun _ => ?_)
  · refine Settles.ite (fun _ => ?_) (fun _ => ?_)
    · refine Settles.step ((State.noteRung_only ..).settles (by decide)) ?_
      refine Settles.step (State.takeRefs_settles ..) ?_
      exact .refl
    · refine Settles.step (State.takeRefs_settles ..) ?_
      exact .refl
  · exact .refl

theorem State.frameLine_settles (s : State) (p : Nat) (f : Frame) (pixels : List Nat) : Settles s (State.frameLine s p f pixels) := by
  unfold State.frameLine
  dsimp only
  split
  · refine Settles.step ((State.setFrame_only ..).settles (by decide)) ?_
    refine Settles.step ((State.fresh_only ..).settles (by decide)) ?_
    refine Settles.step ((State.tapLine_only ..).settles (by decide)) ?_
    exact .refl
  · refine Settles.step (State.detect_settles ..) ?_
    refine Settles.step ((State.setFrame_only ..).settles (by decide)) ?_
    refine Settles.step ((State.lineCounts_only ..).settles (by decide)) ?_
    refine Settles.step ((State.tapLine_only ..).settles (by decide)) ?_
    exact .refl

theorem execCameraLine_settles (p : Fin 2) (line : CamLine) (s : State) : SettlesNext s (execCameraLine p line s) := by
  unfold execCameraLine
  refine SettlesNext.ite (fun _ => ?_) (fun _ => ?_)
  · refine SettlesNext.next ?_
    exact .refl
  · refine SettlesNext.ite (fun _ => ?_) (fun _ => ?_)
    · refine SettlesNext.next ?_
      refine Settles.step ((State.breach_only ..).settles (by decide)) ?_
      exact .refl
    · split
      · refine SettlesNext.next ?_
        exact .refl
      · refine SettlesNext.ite (fun _ => ?_) (fun _ => ?_)
        · refine SettlesNext.next ?_
          refine Settles.step ((State.setFrame_only ..).settles (by decide)) ?_
          exact .refl
        · refine SettlesNext.next ?_
          refine Settles.step (State.frameLine_settles ..) ?_
          exact .refl

theorem execCameraFrameEnd_settles (p : Fin 2) (s : State) : SettlesNext s (execCameraFrameEnd p s) :=
  ⟨fun t ht => ((execCameraFrameEnd_only ..).only t ht).settles (by decide)⟩

theorem execCameraFrameTimeout_settles (p : Fin 2) (fvalRose : Bool) (s : State) : SettlesNext s (execCameraFrameTimeout p fvalRose s) :=
  ⟨fun t ht => ((execCameraFrameTimeout_only ..).only t ht).settles (by decide)⟩

theorem execUartTransfer_settles (p : Fin 2) (s : State) : SettlesNext s (execUartTransfer p s) :=
  ⟨fun t ht => ((execUartTransfer_only ..).only t ht).settles (by decide)⟩

theorem execUartRxDone_settles (p : Fin 2) (bytes : List Byte) (s : State) : SettlesNext s (execUartRxDone p bytes s) :=
  ⟨fun t ht => ((execUartRxDone_only ..).only t ht).settles (by decide)⟩

/-! ### Power -/

theorem State.onGrant_settles (s : State) (who : Requester) : Settles s (State.onGrant s who) := by
  unfold State.onGrant
  split
  · split
    · refine Settles.ite (fun _ => ?_) (fun _ => ?_)
      · exact .refl
      · refine Settles.step (State.beginMaint_settles ..) ?_
        refine Settles.step ((State.useLeave_only ..).settles (by decide)) ?_
        exact .refl
    · exact .refl
  · exact .refl

theorem State.onRefusal_settles (s : State) (who : Requester) : Settles s (s.onRefusal who) := by
  unfold State.onRefusal
  split
  · split
    · rename_i m hm
      refine Settles.ite (fun _ => .refl) (fun h => ?_)
      refine Stays.settles ⟨rfl, rfl, rfl, ?_⟩
      simp [State.patternRuns, hm, h]
    · exact .refl
  · exact (State.moveRefused_only ..).settles (by decide)
  · refine Settles.ite (fun _ => ?_) (fun _ => .refl)
    exact Only.settles (Only.with_dram (d := [.dram]) (by decide) .refl) (by decide)
  · exact .refl

theorem State.request_settles (s : State) (r : WickReq) : Settles s (State.request s r) := by
  unfold State.request
  split
  · refine Settles.step (State.onGrant_settles ..) ?_
    refine Settles.of_snd (by assumption) ?_
    refine Settles.step ((State.ask_only ..).settles (by decide)) ?_
    refine Settles.step (State.linesFirst_settles ..) ?_
    exact .refl
  · refine Settles.of_snd (by assumption) ?_
    refine Settles.step ((State.ask_only ..).settles (by decide)) ?_
    refine Settles.step (State.linesFirst_settles ..) ?_
    exact .refl
  · refine Settles.step (State.onRefusal_settles ..) ?_
    refine Settles.of_snd (by assumption) ?_
    refine Settles.step ((State.ask_only ..).settles (by decide)) ?_
    refine Settles.step (State.linesFirst_settles ..) ?_
    exact .refl

theorem execWickRequest_settles (r : WickReq) (s : State) : SettlesNext s (execWickRequest r s) := by
  unfold execWickRequest
  refine SettlesNext.next ?_
  refine Settles.step (State.request_settles ..) ?_
  exact .refl

theorem State.grantWait_settles (s : State) (w : WickWait) : Settles s (State.grantWait s w) := by
  unfold State.grantWait
  refine Settles.step (State.onGrant_settles ..) ?_
  refine Settles.step ((State.unqueue_only ..).settles (by decide)) ?_
  refine Settles.step ((State.giveLeave_only ..).settles (by decide)) ?_
  exact .refl

theorem State.refuseWait_settles (s : State) (w : WickWait) : Settles s (State.refuseWait s w) := by
  unfold State.refuseWait
  refine Settles.step (State.onRefusal_settles ..) ?_
  refine Settles.step ((State.unqueue_only ..).settles (by decide)) ?_
  refine Settles.step ((State.refuseLeave_only ..).settles (by decide)) ?_
  exact .refl

theorem execWickDeferredGrant_settles (s : State) : SettlesNext s (execWickDeferredGrant s) := by
  unfold execWickDeferredGrant
  refine SettlesNext.ite (fun _ => ?_) (fun _ => ?_)
  · refine SettlesNext.next ?_
    exact .refl
  · dsimp only
    split
    · refine SettlesNext.next ?_
      refine Settles.step (State.linesFirst_settles ..) ?_
      exact .refl
    · refine SettlesNext.next ?_
      refine Settles.step (State.grantWait_settles ..) ?_
      refine Settles.step (State.linesFirst_settles ..) ?_
      exact .refl

theorem execWickDeferTimeout_settles (id : Nat) (s : State) : SettlesNext s (execWickDeferTimeout id s) := by
  unfold execWickDeferTimeout
  split
  · refine SettlesNext.next ?_
    exact .refl
  · dsimp only
    refine SettlesNext.next ?_
    refine Settles.ite (fun _ => ?_) (fun _ => ?_)
    · refine Settles.step (State.grantWait_settles ..) ?_
      refine Settles.step (State.linesFirst_settles ..) ?_
      exact .refl
    · refine Settles.step (State.refuseWait_settles ..) ?_
      refine Settles.step (State.linesFirst_settles ..) ?_
      exact .refl

theorem State.snuffWick_settles (s : State) : Settles s (State.snuffWick s) := by
  unfold State.snuffWick
  dsimp only
  refine Settles.foldl (fun t x => ?_) ?_
  · refine Settles.step (State.onRefusal_settles ..) ?_
    exact .refl
  · refine Settles.step ((State.wickSnuff_only ..).settles (by decide)) ?_
    exact .refl

theorem State.wickReset_settles (s : State) : Settles s (State.wickReset s) := by
  unfold State.wickReset
  dsimp only
  refine Settles.foldl (fun t x => ?_) ?_
  · refine Settles.step (State.onRefusal_settles ..) ?_
    exact .refl
  · refine Settles.step ((State.noteQueued_only ..).settles (by decide)) ?_
    refine Settles.step (Only.settles (Only.with_wick (d := [.wick]) (by decide) .refl) (by decide)) ?_
    exact .refl

theorem execHeadroomPublish_settles (s : State) : SettlesNext s (execHeadroomPublish s) :=
  ⟨fun t ht => ((execHeadroomPublish_only ..).only t ht).settles (by decide)⟩

end Sys2Proof.Machine
end

