-- ==== Sys2Proof/Laws/SettlesDramToReset.lean ====
section
/-! SUPPORT. What the operations and meanings of Machine/Dram.lean to Machine/Reset.lean do to the mode (see Settles). -/

namespace Sys2Proof.Machine

/-! ### Dram -/

theorem execDramCe_settles (addr : Nat) (word : Nat) (check : Byte) (overwritten : Bool) (s : State) :
    SettlesNext s (execDramCe addr word check overwritten s) :=
  ⟨fun t ht => ((execDramCe_only ..).only t ht).settles (by decide)⟩

theorem execDramUe_settles (addr : Nat) (source : DramSource) (stream : Nat) (block : Nat) (word : Nat) (check : Byte) (s : State) :
    SettlesNext s (execDramUe addr source stream block word check s) :=
  ⟨fun t ht => ((execDramUe_only ..).only t ht).settles (by decide)⟩

theorem execRtPanicRaise_settles (st : Fin 128) (held : Nat) (s : State) : SettlesNext s (execRtPanicRaise st held s) :=
  ⟨fun t ht => ((execRtPanicRaise_only ..).only t ht).settles (by decide)⟩

theorem execRtPanicClear_settles (held : List Nat) (s : State) : SettlesNext s (execRtPanicClear held s) :=
  ⟨fun t ht => ((execRtPanicClear_only ..).only t ht).settles (by decide)⟩

theorem execMr4Poll_settles (code : Nat) (faster : Bool) (s : State) : SettlesNext s (execMr4Poll code faster s) :=
  ⟨fun t ht => ((execMr4Poll_only ..).only t ht).settles (by decide)⟩

theorem execDramRefresh_settles (channel : Fin 4) (bank : Nat) (s : State) : SettlesNext s (execDramRefresh channel bank s) :=
  ⟨fun t ht => ((execDramRefresh_only ..).only t ht).settles (by decide)⟩

theorem State.askSet_settles (s : State) (set : Nat) : Settles s (State.askSet s set) := by
  unfold State.askSet
  dsimp only
  refine Settles.step (State.request_settles ..) ?_
  refine Settles.step (Only.settles (Only.with_dram (d := [.dram]) (by decide) .refl) (by decide)) ?_
  exact .refl

theorem State.selectSet_settles (s : State) (set : Nat) : Settles s (State.selectSet s set) := by
  unfold State.selectSet
  split
  · refine Settles.step (Only.settles (Only.with_dram (d := [.dram]) (by decide) .refl) (by decide)) ?_
    exact .refl
  · refine Settles.ite (fun _ => ?_) (fun _ => ?_)
    · exact .refl
    · dsimp only
      refine Settles.ite (fun _ => ?_) (fun _ => ?_)
      · refine Settles.step ((State.dropSet_only ..).settles (by decide)) ?_
        exact .refl
      · refine Settles.step (State.askSet_settles ..) ?_
        refine Settles.step ((State.dropSet_only ..).settles (by decide)) ?_
        exact .refl
  · refine Settles.ite (fun _ => ?_) (fun _ => ?_)
    · exact .refl
    · refine Settles.step (State.askSet_settles ..) ?_
      exact .refl

theorem execDramFreqChange_settles (s : State) : SettlesNext s (execDramFreqChange s) :=
  ⟨fun t ht => ((execDramFreqChange_only ..).only t ht).settles (by decide)⟩

theorem State.setChanged_settles (s : State) (t : Nat) : Settles s (State.setChanged s t) := by
  unfold State.setChanged
  dsimp only
  split
  · refine Settles.step (State.selectSet_settles ..) ?_
    refine Settles.step (Only.settles (Only.with_dram (d := [.dram]) (by decide) .refl) (by decide)) ?_
    refine Settles.step ((State.bump_only ..).settles (by decide)) ?_
    refine Settles.step ((State.setReg_only ..).settles (by decide)) ?_
    exact .refl
  · refine Settles.step (Only.settles (Only.with_dram (d := [.dram]) (by decide) .refl) (by decide)) ?_
    refine Settles.step ((State.bump_only ..).settles (by decide)) ?_
    refine Settles.step ((State.setReg_only ..).settles (by decide)) ?_
    exact .refl

/-! ### Check -/

theorem execScanComplete_settles (s : State) : SettlesNext s (execScanComplete s) :=
  ⟨fun t ht => ((execScanComplete_only ..).only t ht).settles (by decide)⟩

theorem execScrubBlock_settles (asRead : List Byte) (s : State) : SettlesNext s (execScrubBlock asRead s) :=
  ⟨fun t ht => ((execScrubBlock_only ..).only t ht).settles (by decide)⟩

/-! ### Modes -/

theorem State.makeHeld_settles (s : State) : Settles s (State.makeHeld s) := by
  unfold State.makeHeld
  dsimp only
  refine Settles.foldl (fun t x => ?_) ?_
  · refine Settles.step (State.publish_settles ..) ?_
    exact .refl
  · refine Settles.step (Only.settles (Only.with_twin (d := [.twin]) (by decide) .refl) (by decide)) ?_
    exact .refl

theorem State.abandonSwap_settles (s : State) : Settles s (State.abandonSwap s) := by
  unfold State.abandonSwap
  split
  · exact .refl
  · refine Settles.step (State.makeHeld_settles ..) ?_
    refine Settles.step (Only.settles (Only.with_twin (d := [.twin]) (by decide) .refl) (by decide)) ?_
    exact .refl

theorem State.makeAwaited_settles (s : State) : Settles s (State.makeAwaited s) := by
  unfold State.makeAwaited
  dsimp only
  refine Settles.foldl (fun t x => ?_) ?_
  · refine Settles.step (State.publish_settles ..) ?_
    exact .refl
  · refine Settles.step (Only.settles (Only.with_twin (d := [.twin]) (by decide) .refl) (by decide)) ?_
    exact .refl

theorem State.raiseHeadPwr_settles (s : State) : Settles s (State.raiseHeadPwr s) := by
  unfold State.raiseHeadPwr
  refine Settles.ite (fun _ => ?_) (fun _ => ?_)
  · exact .refl
  · refine Settles.with_pins rfl ?_
    exact .refl

theorem State.drivenAlive_settles (s : State) : Settles s (State.drivenAlive s) := by
  unfold State.drivenAlive
  dsimp only
  refine Settles.with_pins rfl ?_
  exact .refl

theorem State.startGroups_settles (s : State) (x1 : List Nat) : Settles s (State.startGroups s x1) := by
  induction x1 generalizing s with | nil => ?_ | cons y l ih => ?_
  · simp only [State.startGroups]
    exact .refl
  · simp only [State.startGroups]
    refine Settles.step (ih ..) ?_
    refine Settles.step (State.setGroup_settles ..) ?_
    exact .refl

theorem State.dropStrobes_settles (s : State) (x1 : List Nat) : Settles s (State.dropStrobes s x1) := by
  induction x1 generalizing s with | nil => ?_ | cons y l ih => ?_
  · simp only [State.dropStrobes]
    exact .refl
  · simp only [State.dropStrobes]
    refine Settles.step (ih ..) ?_
    refine Settles.ite (fun _ => ?_) (fun _ => ?_)
    · refine Settles.step ((State.emit_only ..).settles (by decide)) ?_
      refine Settles.step (State.dropStrobe_settles ..) ?_
      exact .refl
    · refine Settles.step (State.dropStrobe_settles ..) ?_
      exact .refl

theorem State.dropHeadPwr_settles (s : State) : Settles s (State.dropHeadPwr s) := by
  unfold State.dropHeadPwr
  refine Settles.with_pins rfl ?_
  exact .refl

theorem State.enterSnuff_settles (s : State) (bar : Bool) (h : s.mode ≠ .dark) (hc : s.cal.running = false) :
    Settles s (s.enterSnuff bar) := by
  unfold State.enterSnuff
  extract_lets s1 s2 s3 s4
  have h1 : Only [.pending, .regs, .doms, .role, .strapped, .clock, .rst, .fuses, .pins, .jtag, .igrel, .flash, .raster, .decomp, .slots, .health, .trimGen, .enc, .taper, .heads, .twin, .lantern, .led, .chans, .check, .dram, .wick, .loops, .spi, .axes, .ptp, .ylog, .die, .out, .flagged, .freeCtr] s s1 :=
    Only.ite (fun _ => Only.mono (State.twinSend_only ..) (by decide)) (fun _ => .refl)
  have h2 : Only [.pending, .regs, .doms, .role, .strapped, .clock, .rst, .fuses, .pins, .jtag, .igrel, .flash, .raster, .decomp, .slots, .health, .trimGen, .enc, .taper, .heads, .twin, .lantern, .led, .chans, .check, .dram, .wick, .loops, .spi, .axes, .ptp, .ylog, .die, .out, .flagged, .freeCtr] s s2 :=
    Only.ite (fun _ => Only.step (State.taperSnuff_only ..) (by decide) h1) (fun _ => h1)
  have h3 : Only [.pending, .regs, .doms, .role, .strapped, .clock, .rst, .fuses, .pins, .jtag, .igrel, .flash, .raster, .decomp, .slots, .health, .trimGen, .enc, .taper, .heads, .twin, .lantern, .led, .chans, .check, .dram, .wick, .loops, .spi, .axes, .ptp, .ylog, .die, .out, .flagged, .freeCtr] s s3 := Only.step (State.snuffPins_only ..) (by decide) (Only.step (State.snuffUnits_only ..) (by decide) h2)
  have hm : s3.mode = s.mode := h3.agree .mode (by decide)
  have hk : s3.cal = s.cal := h3.agree .cal (by decide)
  have hf : s3.pins.fireEn = .low := by
    simp only [s3, State.snuffPins]
    exact State.lowPins_fireEn _
  have a : Settles s s3 := Settles.of_low hm (by rw [hk]; exact id) (by rw [hf]; decide)
  have b : Settles s3 (s3.toMode .snuff) :=
    State.toMode_snuff_settles s3 (by rw [hm]; exact h) (by rw [hk]; exact hc) (by rw [hf]; decide)
  have c : Settles s s4 := Settles.step ((State.loopSnuff_only ..).settles (by decide)) (Settles.step b a)
  exact Settles.step ((State.abandonJoin_only ..).settles (by decide)) (Settles.step (State.makeAwaited_settles ..) (Settles.step (State.abandonSwap_settles ..)
    (Settles.step ((State.tellState_only ..).settles (by decide)) c)))

theorem execSnuffEntry_settles (s : State) : SettlesNext s (execSnuffEntry s) := by
  by_cases hs : s.modeSafe = true
  · unfold execSnuffEntry
    refine SettlesNext.ite (fun h => SettlesNext.next ?_) (fun _ => SettlesNext.next .refl)
    have hw : s.mode.working = true := by
      simp only [Bool.and_eq_true] at h
      exact h.1.1
    exact State.enterSnuff_settles _ _ (State.working_ne_dark hw) (State.working_idle hs hw)
  · exact ⟨fun _ _ => ⟨fun h => absurd h hs⟩⟩

theorem execSafeStopAssert_settles (s : State) : SettlesNext s (execSafeStopAssert s) := by
  unfold execSafeStopAssert
  refine SettlesNext.ite (fun _ => ?_) (fun _ => ?_)
  · refine SettlesNext.next ?_
    exact .refl
  · dsimp only
    refine SettlesNext.next ?_
    refine Settles.step ((State.setCause_only ..).settles (by decide)) ?_
    refine Settles.step ((State.setReg_only ..).settles (by decide)) ?_
    refine Settles.with_pins rfl ?_
    exact .refl

theorem execSafeStopRelease_settles (s : State) : SettlesNext s (execSafeStopRelease s) := by
  unfold execSafeStopRelease
  refine SettlesNext.next ?_
  refine Settles.with_pins rfl ?_
  exact .refl

theorem execHeadPwrDrop_settles (s : State) : SettlesNext s (execHeadPwrDrop s) := by
  unfold execHeadPwrDrop
  refine SettlesNext.ite (fun _ => ?_) (fun _ => ?_)
  · refine SettlesNext.next ?_
    refine Settles.step (State.dropHeadPwr_settles ..) ?_
    exact .refl
  · refine SettlesNext.next ?_
    exact .refl

theorem execHeadSettleExpiry_settles (s : State) : SettlesNext s (execHeadSettleExpiry s) := by
  unfold execHeadSettleExpiry
  refine SettlesNext.ite (fun _ => ?_) (fun _ => ?_)
  · refine SettlesNext.next ?_
    refine Settles.with_pins rfl ?_
    exact .refl
  · refine SettlesNext.next ?_
    exact .refl

theorem execSupplyMonitorTrip_settles (s : State) : SettlesNext s (execSupplyMonitorTrip s) :=
  ⟨fun t ht => ((execSupplyMonitorTrip_only ..).only t ht).settles (by decide)⟩

/-! ### Lanes -/

theorem State.countKindle_settles (s : State) : Settles s s.countKindle := by
  unfold State.countKindle
  refine ⟨fun hs => ⟨?_, .inl rfl⟩⟩
  simp only [State.modeSafe, State.firingGuarded, State.patternRuns, Bool.and_eq_true] at hs ⊢
  exact ⟨rfl, hs.2⟩

theorem State.calFail_settles (s : State) (item unit r1 r2 : Nat) : Settles s (s.calFail item unit r1 r2) := by
  by_cases hs : s.modeSafe = true
  · unfold State.calFail
    refine Settles.ite (fun h => ?_) (fun _ => .refl)
    have hm : s.mode = .kindle := by
      simp only [State.modeSafe, Bool.and_eq_true, Bool.or_eq_true, decide_eq_true_eq, h] at hs
      simpa using hs.1
    extract_lets detail s1 y s2 s3 s4
    have h1 : Only [.regs] s s1 := Only.step (State.setReg_only ..) (by decide) (Only.mono (State.setItem_only ..) (by decide))
    have h2 : Settles s s2 := Settles.step (Stays.settles (s := s1) ⟨rfl, rfl, rfl, rfl⟩) (h1.settles (by decide))
    have hm2 : s2.mode = .kindle := (h1.agree .mode (by decide)).trans hm
    have h3 : Settles s s3 := Settles.step ((State.countKindleFail_only ..).settles (by decide)) (Settles.step (State.countKindle_settles ..) h2)
    have hc3 : s3.cal.running = false := rfl
    have hm3 : s3.mode = .kindle := hm2
    have h4 : Only [.regs, .igrel, .ylog, .out, .flagged, .freeCtr, .twin] s3 (s4.setCause Cause.cal) :=
      Only.step (State.setCause_only ..) (by decide) (Only.mono (State.logEvent_only ..) (by decide))
    refine Settles.step (State.enterSnuff_settles _ _ ?_ ?_) (Settles.step (h4.settles (by decide)) h3)
    · rw [h4.agree .mode (by decide), hm3]; decide
    · rw [h4.agree .cal (by decide)]; exact hc3
  · exact ⟨fun h => absurd h hs⟩

theorem execHeadTrainReply_settles (m : Fin 32) (slot : Nat) (inverted : Bool) (s : State) :
    SettlesNext s (execHeadTrainReply m slot inverted s) :=
  ⟨fun t ht => ((execHeadTrainReply_only ..).only t ht).settles (by decide)⟩

theorem State.askRetrain_settles (s : State) (m : Nat) : Settles s (State.askRetrain s m) := by
  unfold State.askRetrain
  dsimp only
  refine Settles.step (State.request_settles ..) ?_
  exact .refl

theorem State.takeDown_settles (s : State) (m : Nat) (mask : Nat) : Settles s (State.takeDown s m mask) := by
  unfold State.takeDown
  dsimp only
  refine Settles.step (State.askRetrain_settles ..) ?_
  refine Settles.step ((State.logEvent_only ..).settles (by decide)) ?_
  refine Settles.step (State.suspend_settles ..) ?_
  refine Settles.step ((State.setHead_only ..).settles (by decide)) ?_
  refine Settles.step ((State.bump_only ..).settles (by decide)) ?_
  refine Settles.step ((State.laneFlag_only ..).settles (by decide)) ?_
  refine Settles.step ((State.setReg_only ..).settles (by decide)) ?_
  exact .refl

theorem execHeadLaneTimeout_settles (m : Fin 32) (s : State) : SettlesNext s (execHeadLaneTimeout m s) := by
  unfold execHeadLaneTimeout
  refine SettlesNext.ite (fun _ => ?_) (fun _ => ?_)
  · dsimp only
    refine SettlesNext.ite (fun _ => ?_) (fun _ => ?_)
    · refine SettlesNext.next ?_
      refine Settles.step (State.calFail_settles ..) ?_
      refine Settles.step ((State.setReg_only ..).settles (by decide)) ?_
      exact .refl
    · refine SettlesNext.next ?_
      refine Settles.step (State.askRetrain_settles ..) ?_
      refine Settles.step ((State.setReg_only ..).settles (by decide)) ?_
      exact .refl
  · refine SettlesNext.next ?_
    exact .refl

theorem execStatusTimeout_settles (m : Fin 32) (s : State) : SettlesNext s (execStatusTimeout m s) := by
  unfold execStatusTimeout
  refine SettlesNext.ite (fun _ => ?_) (fun _ => ?_)
  · refine SettlesNext.next ?_
    refine Settles.step (State.takeDown_settles ..) ?_
    exact .refl
  · refine SettlesNext.next ?_
    exact .refl

theorem execHeadLaneLoss_settles (m : Fin 32) (lol : Bool) (errors : Nat) (s : State) : SettlesNext s (execHeadLaneLoss m lol errors s) := by
  unfold execHeadLaneLoss
  refine SettlesNext.ite (fun _ => ?_) (fun _ => ?_)
  · refine SettlesNext.next ?_
    exact .refl
  · dsimp only
    refine SettlesNext.next ?_
    refine Settles.ite (fun _ => ?_) (fun _ => ?_)
    · refine Settles.step (State.takeDown_settles ..) ?_
      refine Settles.step ((State.count_only ..).settles (by decide)) ?_
      refine Settles.step ((State.bump_only ..).settles (by decide)) ?_
      exact .refl
    · refine Settles.step ((State.laneFlag_only ..).settles (by decide)) ?_
      refine Settles.step ((State.count_only ..).settles (by decide)) ?_
      refine Settles.step ((State.bump_only ..).settles (by decide)) ?_
      exact .refl

theorem execCtrlResendTimeout_settles (m : Fin 32) (s : State) : SettlesNext s (execCtrlResendTimeout m s) := by
  unfold execCtrlResendTimeout
  dsimp only
  refine SettlesNext.ite (fun _ => ?_) (fun _ => ?_)
  · refine SettlesNext.next ?_
    exact .refl
  · refine SettlesNext.ite (fun _ => ?_) (fun _ => ?_)
    · refine SettlesNext.next ?_
      refine Settles.step (State.takeDown_settles ..) ?_
      exact .refl
    · refine SettlesNext.next ?_
      refine Settles.step ((State.resendCtrl_only ..).settles (by decide)) ?_
      refine Settles.step ((State.setHead_only ..).settles (by decide)) ?_
      exact .refl

theorem execHeadLaneRetrain_settles (m : Fin 32) (s : State) : SettlesNext s (execHeadLaneRetrain m s) :=
  ⟨fun t ht => ((execHeadLaneRetrain_only ..).only t ht).settles (by decide)⟩

theorem execRecoverTimeExpiry_settles (m : Fin 32) (s : State) : SettlesNext s (execRecoverTimeExpiry m s) :=
  ⟨fun t ht => ((execRecoverTimeExpiry_only ..).only t ht).settles (by decide)⟩

theorem State.takeReports_settles (s : State) (m : Nat) (p : List Byte) : Settles s (State.takeReports s m p) := by
  unfold State.takeReports
  split
  · exact .refl
  · refine Settles.ite (fun _ => ?_) (fun _ => ?_)
    · exact .refl
    · refine Settles.step (State.publish_settles ..) ?_
      exact .refl

theorem State.takeStatus_settles (s : State) (m : Nat) (p : List Byte) : Settles s (State.takeStatus s m p) := by
  unfold State.takeStatus
  dsimp only
  refine Settles.step (State.hearStatus_settles ..) ?_
  refine Settles.step (State.takeReports_settles ..) ?_
  refine Settles.ite (fun _ => ?_) (fun _ => ?_)
  · refine Settles.step ((State.setCause_only ..).settles (by decide)) ?_
    refine Settles.step ((State.takeAck_only ..).settles (by decide)) ?_
    refine Settles.step ((State.headCounters_only ..).settles (by decide)) ?_
    refine Settles.step ((State.setHead_only ..).settles (by decide)) ?_
    refine Settles.step ((State.setReg_only ..).settles (by decide)) ?_
    refine Settles.step ((State.setReg_only ..).settles (by decide)) ?_
    refine Settles.step ((State.setDom_only ..).settles (by decide)) ?_
    refine Settles.step ((State.setHead_only ..).settles (by decide)) ?_
    exact .refl
  · refine Settles.step ((State.takeAck_only ..).settles (by decide)) ?_
    refine Settles.step ((State.headCounters_only ..).settles (by decide)) ?_
    refine Settles.step ((State.setHead_only ..).settles (by decide)) ?_
    refine Settles.step ((State.setReg_only ..).settles (by decide)) ?_
    refine Settles.step ((State.setReg_only ..).settles (by decide)) ?_
    refine Settles.step ((State.setDom_only ..).settles (by decide)) ?_
    refine Settles.step ((State.setHead_only ..).settles (by decide)) ?_
    exact .refl

theorem execStatus_settles (m : Fin 32) (errors : Nat) (chars : List Sym) (s : State) : SettlesNext s (execStatus m errors chars s) := by
  unfold execStatus
  refine SettlesNext.ite (fun _ => ?_) (fun _ => ?_)
  · refine SettlesNext.next ?_
    exact .refl
  · dsimp only
    split
    · refine SettlesNext.next ?_
      refine Settles.step ((State.bump_only ..).settles (by decide)) ?_
      refine Settles.step ((State.count_only ..).settles (by decide)) ?_
      exact .refl
    · refine SettlesNext.ite (fun _ => ?_) (fun _ => ?_)
      · refine SettlesNext.next ?_
        refine Settles.ite (fun _ => ?_) (fun _ => ?_)
        · refine Settles.step (State.takeDown_settles ..) ?_
          refine Settles.step (State.takeStatus_settles ..) ?_
          refine Settles.step ((State.count_only ..).settles (by decide)) ?_
          exact .refl
        · refine Settles.step (State.takeStatus_settles ..) ?_
          refine Settles.step ((State.count_only ..).settles (by decide)) ?_
          exact .refl
      · refine SettlesNext.ite (fun _ => ?_) (fun _ => ?_)
        · refine SettlesNext.next ?_
          refine Settles.step ((State.laneComesUp_only ..).settles (by decide)) ?_
          refine Settles.step (State.takeStatus_settles ..) ?_
          refine Settles.step ((State.count_only ..).settles (by decide)) ?_
          exact .refl
        · refine SettlesNext.next ?_
          refine Settles.step ((State.count_only ..).settles (by decide)) ?_
          exact .refl

theorem State.headReset_settles (s : State) : Settles s (State.headReset s) := by
  unfold State.headReset
  refine Settles.foldl (fun t x => ?_) ?_
  · dsimp only
    refine Settles.step ((State.setReg_only ..).settles (by decide)) ?_
    refine Settles.step ((State.setHead_only ..).settles (by decide)) ?_
    refine Settles.ite (fun _ => ?_) (fun _ => ?_)
    · refine Settles.step (State.suspend_settles ..) ?_
      exact .refl
    · exact .refl
  · exact .refl

/-! ### Cal -/

theorem State.twoRuns_settles (s : State) (item tol : Nat) (bad : Int → Bool) (l : List (Nat × Int × Int)) (passed : State → State)
    (hp : ∀ t, Settles t (passed t)) : Settles s (s.twoRuns item tol bad l passed) := by
  unfold State.twoRuns
  split
  · dsimp only
    exact Settles.step (State.calFail_settles ..) ((State.fresh_only ..).settles (by decide))
  · split
    · exact State.calFail_settles ..
    · exact Settles.step (hp ..) ((State.setItem_only ..).settles (by decide))

theorem execCalTemperature_settles (run1 run2 : List Int) (s : State) : SettlesNext s (execCalTemperature run1 run2 s) := by
  unfold execCalTemperature
  split
  · exact SettlesNext.next (State.twoRuns_settles _ _ _ _ _ _ (fun t => (State.setDom_only ..).settles (by decide)))
  · exact SettlesNext.next .refl

theorem execCalFsi_settles (run1 run2 : List Nat) (s : State) : SettlesNext s (execCalFsi run1 run2 s) := by
  unfold execCalFsi
  split
  · refine SettlesNext.next (State.twoRuns_settles _ _ _ _ _ _ (fun t => ?_))
    exact Settles.step ((State.skipItems_only ..).settles (by decide)) ((State.setReg_only ..).settles (by decide))
  · exact SettlesNext.next .refl

theorem execCalTermination_settles (codes : List (Nat × Nat × Nat)) (s : State) : SettlesNext s (execCalTermination codes s) := by
  unfold execCalTermination
  split
  · exact SettlesNext.next (State.twoRuns_settles _ _ _ _ _ _ (fun t => (State.beginLinks_only ..).settles (by decide)))
  · exact SettlesNext.next .refl

theorem execCalEqualiser_settles (unit : Nat) (s1 : Nat) (s2 : Nat) (s : State) : SettlesNext s (execCalEqualiser unit s1 s2 s) := by
  unfold execCalEqualiser
  split
  · refine SettlesNext.next ?_
    exact .refl
  · refine SettlesNext.ite (fun _ => ?_) (fun _ => ?_)
    · dsimp only
      refine SettlesNext.ite (fun _ => ?_) (fun _ => ?_)
      · refine SettlesNext.next ?_
        refine Settles.step (State.calFail_settles ..) ?_
        refine Settles.step ((State.setReg_only ..).settles (by decide)) ?_
        exact .refl
      · refine SettlesNext.next ?_
        refine Settles.with_cal rfl ?_
        refine Settles.step ((State.setReg_only ..).settles (by decide)) ?_
        exact .refl
    · refine SettlesNext.next ?_
      exact .refl

theorem execCalChopper_settles (run1 run2 : List Nat) (s : State) : SettlesNext s (execCalChopper run1 run2 s) := by
  unfold execCalChopper
  split
  · exact SettlesNext.next (State.twoRuns_settles _ _ _ _ _ _ (fun t => (State.setRegs_only ..).settles (by decide)))
  · exact SettlesNext.next .refl

theorem execLedShortTest_settles (run1 : LedReads) (run2 : LedReads) (s : State) : SettlesNext s (execLedShortTest run1 run2 s) := by
  unfold execLedShortTest
  refine SettlesNext.ite (fun _ => ?_) (fun _ => ?_)
  · dsimp only
    refine SettlesNext.ite (fun _ => ?_) (fun _ => ?_)
    · refine SettlesNext.next ?_
      refine Settles.step (State.calFail_settles ..) ?_
      refine Settles.step ((State.emitAll_only ..).settles (by decide)) ?_
      exact .refl
    · refine SettlesNext.next ?_
      refine Settles.ite (fun _ => ?_) (fun _ => ?_)
      · refine Settles.step ((State.setReg_only ..).settles (by decide)) ?_
        refine Settles.step ((State.setReg_only ..).settles (by decide)) ?_
        refine Settles.step ((State.setItem_only ..).settles (by decide)) ?_
        refine Settles.step ((State.emitAll_only ..).settles (by decide)) ?_
        exact .refl
      · refine Settles.step ((State.ledFault_only ..).settles (by decide)) ?_
        refine Settles.step ((State.setReg_only ..).settles (by decide)) ?_
        refine Settles.step ((State.setItem_only ..).settles (by decide)) ?_
        refine Settles.step ((State.emitAll_only ..).settles (by decide)) ?_
        exact .refl
  · refine SettlesNext.next ?_
    exact .refl

theorem execDramTraining_settles (sweeps : List Sweep) (s : State) : SettlesNext s (execDramTraining sweeps s) := by
  unfold execDramTraining
  refine SettlesNext.ite (fun _ => ?_) (fun _ => ?_)
  · dsimp only
    split
    · refine SettlesNext.next ?_
      refine Settles.step (State.calFail_settles ..) ?_
      refine Settles.step ((State.useLeave_only ..).settles (by decide)) ?_
      exact .refl
    · refine SettlesNext.next ?_
      refine Settles.step (State.calFail_settles ..) ?_
      refine Settles.step ((State.fresh_only ..).settles (by decide)) ?_
      refine Settles.step ((State.useLeave_only ..).settles (by decide)) ?_
      exact .refl
    · refine SettlesNext.next ?_
      refine Settles.step (Only.settles (Only.with_dram (d := [.dram]) (by decide) .refl) (by decide)) ?_
      refine Settles.step ((State.setReg_only ..).settles (by decide)) ?_
      refine Settles.step ((State.setDom_only ..).settles (by decide)) ?_
      refine Settles.step ((State.setItem_only ..).settles (by decide)) ?_
      refine Settles.step ((State.useLeave_only ..).settles (by decide)) ?_
      exact .refl
  · refine SettlesNext.next ?_
    exact .refl

theorem execEccFill_settles (s : State) : SettlesNext s (execEccFill s) := by
  unfold execEccFill
  refine SettlesNext.ite (fun _ => ?_) (fun _ => ?_)
  · refine SettlesNext.next ?_
    refine Settles.with_dram_cal rfl ?_
    exact .refl
  · refine SettlesNext.next ?_
    exact .refl

/-! ### Encoder -/

theorem State.missingIndex_settles (s : State) (ch : Nat) : Settles s (State.missingIndex s ch) := by
  unfold State.missingIndex
  dsimp only
  split
  · exact .refl
  · refine Settles.ite (fun _ => ?_) (fun _ => ?_)
    · refine Settles.step (State.indexError_settles ..) ?_
      refine Settles.step ((State.setEncCh_only ..).settles (by decide)) ?_
      exact .refl
    · exact .refl

theorem State.testIndex_settles (s : State) (ch : Nat) : Settles s (State.testIndex s ch) := by
  unfold State.testIndex
  dsimp only
  refine Settles.ite (fun _ => ?_) (fun _ => ?_)
  · exact .refl
  · split
    · refine Settles.step ((State.setEncCh_only ..).settles (by decide)) ?_
      refine Settles.step ((State.setReg_only ..).settles (by decide)) ?_
      refine Settles.step ((State.setReg_only ..).settles (by decide)) ?_
      exact .refl
    · refine Settles.ite (fun _ => ?_) (fun _ => ?_)
      · refine Settles.step (State.indexError_settles ..) ?_
        refine Settles.step ((State.setEncCh_only ..).settles (by decide)) ?_
        refine Settles.step ((State.setReg_only ..).settles (by decide)) ?_
        refine Settles.step ((State.setReg_only ..).settles (by decide)) ?_
        exact .refl
      · refine Settles.step ((State.setEncCh_only ..).settles (by decide)) ?_
        refine Settles.step ((State.setReg_only ..).settles (by decide)) ?_
        refine Settles.step ((State.setReg_only ..).settles (by decide)) ?_
        exact .refl

theorem State.retestIndex_settles (s : State) (ch : Nat) : Settles s (State.retestIndex s ch) := by
  unfold State.retestIndex
  refine Settles.ite (fun _ => ?_) (fun _ => ?_)
  · refine Settles.step (State.testIndex_settles ..) ?_
    exact .refl
  · exact .refl

theorem State.moveMark_settles (s : State) (ch : Nat) (stamp : Nat) : Settles s (State.moveMark s ch stamp) := by
  unfold State.moveMark
  dsimp only
  refine Settles.ite (fun _ => ?_) (fun _ => ?_)
  · refine Settles.ite (fun _ => ?_) (fun _ => ?_)
    · refine Settles.step (State.markMoved_settles ..) ?_
      refine Settles.step (State.missingIndex_settles ..) ?_
      refine Settles.step ((State.monitor_only ..).settles (by decide)) ?_
      refine Settles.step ((State.setReg_only ..).settles (by decide)) ?_
      exact .refl
    · refine Settles.step (State.missingIndex_settles ..) ?_
      refine Settles.step ((State.monitor_only ..).settles (by decide)) ?_
      refine Settles.step ((State.setReg_only ..).settles (by decide)) ?_
      exact .refl
  · refine Settles.ite (fun _ => ?_) (fun _ => ?_)
    · refine Settles.ite (fun _ => ?_) (fun _ => ?_)
      · refine Settles.step (State.markMoved_settles ..) ?_
        refine Settles.step (State.retestIndex_settles ..) ?_
        refine Settles.step ((State.logEvent_only ..).settles (by decide)) ?_
        refine Settles.ite (fun _ => ?_) (fun _ => ?_)
        · refine Settles.step (State.reverse_settles ..) ?_
          refine Settles.step ((State.monRestart_only ..).settles (by decide)) ?_
          refine Settles.step ((State.setBits_only ..).settles (by decide)) ?_
          refine Settles.step ((State.bump_only ..).settles (by decide)) ?_
          refine Settles.step ((State.setEncCh_only ..).settles (by decide)) ?_
          refine Settles.step ((State.setReg_only ..).settles (by decide)) ?_
          refine Settles.step ((State.setReg_only ..).settles (by decide)) ?_
          exact .refl
        · refine Settles.step ((State.setBits_only ..).settles (by decide)) ?_
          refine Settles.step ((State.bump_only ..).settles (by decide)) ?_
          refine Settles.step ((State.setEncCh_only ..).settles (by decide)) ?_
          refine Settles.step ((State.setReg_only ..).settles (by decide)) ?_
          refine Settles.step ((State.setReg_only ..).settles (by decide)) ?_
          exact .refl
      · refine Settles.step (State.retestIndex_settles ..) ?_
        refine Settles.step ((State.logEvent_only ..).settles (by decide)) ?_
        refine Settles.ite (fun _ => ?_) (fun _ => ?_)
        · refine Settles.step (State.reverse_settles ..) ?_
          refine Settles.step ((State.monRestart_only ..).settles (by decide)) ?_
          refine Settles.step ((State.setBits_only ..).settles (by decide)) ?_
          refine Settles.step ((State.bump_only ..).settles (by decide)) ?_
          refine Settles.step ((State.setEncCh_only ..).settles (by decide)) ?_
          refine Settles.step ((State.setReg_only ..).settles (by decide)) ?_
          refine Settles.step ((State.setReg_only ..).settles (by decide)) ?_
          exact .refl
        · refine Settles.step ((State.setBits_only ..).settles (by decide)) ?_
          refine Settles.step ((State.bump_only ..).settles (by decide)) ?_
          refine Settles.step ((State.setEncCh_only ..).settles (by decide)) ?_
          refine Settles.step ((State.setReg_only ..).settles (by decide)) ?_
          refine Settles.step ((State.setReg_only ..).settles (by decide)) ?_
          exact .refl
    · exact .refl

theorem State.illegal_settles (s : State) (ch : Nat) : Settles s (State.illegal s ch) := by
  unfold State.illegal
  dsimp only
  refine Settles.ite (fun _ => ?_) (fun _ => ?_)
  · refine Settles.step (State.rePredictAll_settles ..) ?_
    refine Settles.step ((State.logEvent_only ..).settles (by decide)) ?_
    refine Settles.step ((State.restartSpeed_only ..).settles (by decide)) ?_
    refine Settles.step ((State.setEncCh_only ..).settles (by decide)) ?_
    refine Settles.step ((State.rateCheck_only ..).settles (by decide)) ?_
    refine Settles.step ((State.setBits_only ..).settles (by decide)) ?_
    refine Settles.step ((State.bump_only ..).settles (by decide)) ?_
    exact .refl
  · refine Settles.step ((State.logEvent_only ..).settles (by decide)) ?_
    refine Settles.step ((State.restartSpeed_only ..).settles (by decide)) ?_
    refine Settles.step ((State.setEncCh_only ..).settles (by decide)) ?_
    refine Settles.step ((State.rateCheck_only ..).settles (by decide)) ?_
    refine Settles.step ((State.setBits_only ..).settles (by decide)) ?_
    refine Settles.step ((State.bump_only ..).settles (by decide)) ?_
    exact .refl

theorem State.unstillGroup_settles (s : State) (x : Nat × Conf) : Settles s (State.unstillGroup s x) := by
  unfold State.unstillGroup
  split
  · refine Settles.ite (fun _ => ?_) (fun _ => ?_)
    · refine Settles.step (State.setGroup_settles ..) ?_
      exact .refl
    · exact .refl
  · exact .refl

theorem State.unstill_settles (s : State) (ch : Nat) : Settles s (State.unstill s ch) := by
  unfold State.unstill
  split
  · exact .refl
  · dsimp only
    refine Settles.ite (fun _ => ?_) (fun _ => ?_)
    · refine Settles.step ((State.setEncCh_only ..).settles (by decide)) ?_
      exact .refl
    · refine Settles.foldl (fun t x => ?_) ?_
      · refine Settles.step (State.unstillGroup_settles ..) ?_
        exact .refl
      · refine Settles.step ((State.setReg_only ..).settles (by decide)) ?_
        refine Settles.step (Only.settles (Only.with_enc (d := [.enc]) (by decide) .refl) (by decide)) ?_
        refine Settles.step ((State.setEncCh_only ..).settles (by decide)) ?_
        refine Settles.step ((State.setEncCh_only ..).settles (by decide)) ?_
        exact .refl

theorem State.countEdge_settles (s : State) (ch : Nat) (fwd : Bool) : Settles s (State.countEdge s ch fwd) := by
  unfold State.countEdge
  dsimp only
  refine Settles.ite (fun _ => ?_) (fun _ => ?_)
  · refine Settles.step (State.rePredictAll_settles ..) ?_
    refine Settles.step (State.moveMark_settles ..) ?_
    refine Settles.step ((State.estimate_only ..).settles (by decide)) ?_
    refine Settles.step ((State.rateCheck_only ..).settles (by decide)) ?_
    refine Settles.step ((State.setEncCh_only ..).settles (by decide)) ?_
    refine Settles.step ((State.setReg_only ..).settles (by decide)) ?_
    refine Settles.step ((State.setReg_only ..).settles (by decide)) ?_
    refine Settles.step ((State.setReg_only ..).settles (by decide)) ?_
    refine Settles.step (State.unstill_settles ..) ?_
    exact .refl
  · refine Settles.step (State.moveMark_settles ..) ?_
    refine Settles.step ((State.estimate_only ..).settles (by decide)) ?_
    refine Settles.step ((State.rateCheck_only ..).settles (by decide)) ?_
    refine Settles.step ((State.setEncCh_only ..).settles (by decide)) ?_
    refine Settles.step ((State.setReg_only ..).settles (by decide)) ?_
    refine Settles.step ((State.setReg_only ..).settles (by decide)) ?_
    refine Settles.step ((State.setReg_only ..).settles (by decide)) ?_
    refine Settles.step (State.unstill_settles ..) ?_
    exact .refl

theorem execEncoderEdge_settles (ch : Fin 2) (pins : List (Bool × Bool)) (s : State) : SettlesNext s (execEncoderEdge ch pins s) := by
  unfold execEncoderEdge
  dsimp only
  refine SettlesNext.ite (fun _ => ?_) (fun _ => ?_)
  · refine SettlesNext.next ?_
    refine Settles.step ((State.setEncCh_only ..).settles (by decide)) ?_
    exact .refl
  · refine SettlesNext.ite (fun _ => ?_) (fun _ => ?_)
    · refine SettlesNext.next ?_
      refine Settles.step (State.illegal_settles ..) ?_
      refine Settles.step ((State.setEncCh_only ..).settles (by decide)) ?_
      exact .refl
    · refine SettlesNext.next ?_
      refine Settles.step (State.countEdge_settles ..) ?_
      refine Settles.step ((State.setEncCh_only ..).settles (by decide)) ?_
      exact .refl

theorem execIndexEdge_settles (ch : Fin 2) (pins : List Bool) (s : State) : SettlesNext s (execIndexEdge ch pins s) := by
  unfold execIndexEdge
  dsimp only
  refine SettlesNext.next ?_
  refine Settles.ite (fun _ => ?_) (fun _ => ?_)
  · refine Settles.step (State.testIndex_settles ..) ?_
    refine Settles.step ((State.setEncCh_only ..).settles (by decide)) ?_
    exact .refl
  · refine Settles.step ((State.setEncCh_only ..).settles (by decide)) ?_
    exact .refl

theorem execStandstillTimeout_settles (ch : Fin 2) (s : State) : SettlesNext s (execStandstillTimeout ch s) := by
  unfold execStandstillTimeout
  refine SettlesNext.ite (fun _ => ?_) (fun _ => ?_)
  · refine SettlesNext.next ?_
    exact .refl
  · dsimp only
    refine SettlesNext.next ?_
    refine Settles.ite (fun _ => ?_) (fun _ => ?_)
    · refine Settles.step (State.rePredictAll_settles ..) ?_
      refine Settles.step ((State.enterStill_only ..).settles (by decide)) ?_
      exact .refl
    · refine Settles.step ((State.enterStill_only ..).settles (by decide)) ?_
      exact .refl

theorem execEncoderBlockExpiry_settles (s : State) : SettlesNext s (execEncoderBlockExpiry s) :=
  ⟨fun t ht => ((execEncoderBlockExpiry_only ..).only t ht).settles (by decide)⟩

/-! ### Raster -/

theorem execRasterLinkUp_settles (trained : List Bool) (reversed : Bool) (s : State) :
    SettlesNext s (execRasterLinkUp trained reversed s) :=
  ⟨fun t ht => ((execRasterLinkUp_only ..).only t ht).settles (by decide)⟩

theorem execRasterLaneLoss_settles (lane : Fin 8) (lol : Bool) (errors : Nat) (s : State) :
    SettlesNext s (execRasterLaneLoss lane lol errors s) :=
  ⟨fun t ht => ((execRasterLaneLoss_only ..).only t ht).settles (by decide)⟩

theorem execRasterPacketDrop_settles (errors : List Nat) (lanes : List (List Sym)) (s : State) :
    SettlesNext s (execRasterPacketDrop errors lanes s) :=
  ⟨fun t ht => ((execRasterPacketDrop_only ..).only t ht).settles (by decide)⟩

theorem execBlock_settles (stream : Nat) (wax : List Byte) (s : State) : SettlesNext s (execBlock stream wax s) :=
  ⟨fun t ht => ((execBlock_only ..).only t ht).settles (by decide)⟩

theorem execDecodeLine_settles (e : Fin 8) (s : State) : SettlesNext s (execDecodeLine e s) :=
  ⟨fun t ht => ((execDecodeLine_only ..).only t ht).settles (by decide)⟩

theorem execCommit_settles (payload : List Byte) (s : State) : SettlesNext s (execCommit payload s) := by
  unfold execCommit
  refine SettlesNext.ite (fun _ => ?_) (fun _ => ?_)
  · refine SettlesNext.next ?_
    exact .refl
  · split
    · refine SettlesNext.next ?_
      refine Settles.step ((State.emit_only ..).settles (by decide)) ?_
      exact .refl
    · split
      dsimp only
      refine SettlesNext.ite (fun _ => ?_) (fun _ => ?_)
      · refine SettlesNext.next ?_
        refine Settles.step ((State.tellReady_only ..).settles (by decide)) ?_
        refine Settles.step (State.closePages_settles ..) ?_
        refine Settles.step ((State.freeAll_only ..).settles (by decide)) ?_
        refine Settles.step ((State.takeJobs_only ..).settles (by decide)) ?_
        refine Settles.step ((State.catchUp_only ..).settles (by decide)) ?_
        refine Settles.step (State.acceptCommit_settles ..) ?_
        refine Settles.step ((State.emit_only ..).settles (by decide)) ?_
        exact .refl
      · refine SettlesNext.next ?_
        refine Settles.step ((State.emit_only ..).settles (by decide)) ?_
        exact .refl

theorem execCreditPeriodExpiry_settles (s : State) : SettlesNext s (execCreditPeriodExpiry s) :=
  ⟨fun t ht => ((execCreditPeriodExpiry_only ..).only t ht).settles (by decide)⟩

/-! ### Twin -/

theorem execTwinLinkUp_settles (lane0 : Bool) (lane1 : Bool) (reversed : Bool) (s : State) :
    SettlesNext s (execTwinLinkUp lane0 lane1 reversed s) :=
  ⟨fun t ht => ((execTwinLinkUp_only ..).only t ht).settles (by decide)⟩

theorem execTwinLaneLoss_settles (l : Fin 2) (errors : Nat) (s : State) : SettlesNext s (execTwinLaneLoss l errors s) :=
  ⟨fun t ht => ((execTwinLaneLoss_only ..).only t ht).settles (by decide)⟩

theorem execTwinFrameDrop_settles (errors : List Nat) (s : State) : SettlesNext s (execTwinFrameDrop errors s) :=
  ⟨fun t ht => ((execTwinFrameDrop_only ..).only t ht).settles (by decide)⟩

theorem execHeartbeatSend_settles (s : State) : SettlesNext s (execHeartbeatSend s) :=
  ⟨fun t ht => ((execHeartbeatSend_only ..).only t ht).settles (by decide)⟩

theorem State.dropLag_settles (s : State) (g : Nat) : Settles s (State.dropLag s g) := by
  unfold State.dropLag
  split
  · exact .refl
  · split
    · refine Settles.step (State.setGroup_settles ..) ?_
      exact .refl
    · refine Settles.ite (fun _ => ?_) (fun _ => ?_)
      · refine Settles.step (State.setGroup_settles ..) ?_
        exact .refl
      · exact .refl

theorem State.takeDuties_settles (s : State) : Settles s (State.takeDuties s) := by
  unfold State.takeDuties
  dsimp only
  refine Settles.step ((State.takeLoops_only ..).settles (by decide)) ?_
  refine Settles.step ((State.setLevel_only ..).settles (by decide)) ?_
  refine Settles.with_taper_twin rfl ?_
  exact .refl

theorem State.alignBeacon_settles (s : State) : Settles s (State.alignBeacon s) := by
  unfold State.alignBeacon
  refine Settles.ite (fun _ => ?_) (fun _ => ?_)
  · refine Settles.step ((State.logEvent_only ..).settles (by decide)) ?_
    exact .refl
  · refine Settles.step (State.stepBeacon_settles ..) ?_
    exact .refl

theorem State.promote_settles (s : State) : Settles s (State.promote s) := by
  unfold State.promote
  dsimp only
  refine Settles.step (State.alignBeacon_settles ..) ?_
  refine Settles.step (State.makeAwaited_settles ..) ?_
  refine Settles.step (State.abandonSwap_settles ..) ?_
  refine Settles.step ((State.reportPromotion_only ..).settles (by decide)) ?_
  refine Settles.step ((State.twinEvent_only ..).settles (by decide)) ?_
  refine Settles.step ((State.setDom_only ..).settles (by decide)) ?_
  refine Settles.step ((State.setReg_only ..).settles (by decide)) ?_
  refine Settles.step ((State.bump_only ..).settles (by decide)) ?_
  refine Settles.step (State.addDoubts_settles ..) ?_
  refine Settles.step (State.takeDuties_settles ..) ?_
  refine Settles.step (Only.settles (Only.with_twin (d := [.twin]) (by decide) .refl) (by decide)) ?_
  refine Settles.foldl (fun t x => ?_) ?_
  · refine Settles.step (State.dropLag_settles ..) ?_
    exact .refl
  · refine Settles.step ((State.twinSend_only ..).settles (by decide)) ?_
    refine Settles.step (Only.settles (Only.with_role (d := [.role]) (by decide) .refl) (by decide)) ?_
    exact .refl

theorem State.primaryLost_settles (s : State) : Settles s (State.primaryLost s) := by
  unfold State.primaryLost
  refine Settles.ite (fun _ => ?_) (fun _ => ?_)
  · exact .refl
  · refine Settles.ite (fun _ => ?_) (fun _ => ?_)
    · refine Settles.step (State.promote_settles ..) ?_
      exact .refl
    · refine Settles.ite (fun _ => ?_) (fun _ => ?_)
      · refine Settles.step ((State.abandonJoin_only ..).settles (by decide)) ?_
        exact .refl
      · refine Settles.step ((State.setCause_only ..).settles (by decide)) ?_
        exact .refl

theorem execTwinAliveLow_settles (s : State) : SettlesNext s (execTwinAliveLow s) := by
  unfold execTwinAliveLow
  refine SettlesNext.ite (fun _ => ?_) (fun _ => ?_)
  · refine SettlesNext.next ?_
    exact .refl
  · refine SettlesNext.next ?_
    refine Settles.step (State.primaryLost_settles ..) ?_
    refine Settles.with_pins rfl ?_
    exact .refl

theorem execTwinAliveHigh_settles (s : State) : SettlesNext s (execTwinAliveHigh s) := by
  unfold execTwinAliveHigh
  refine SettlesNext.ite (fun _ => ?_) (fun _ => ?_)
  · refine SettlesNext.next ?_
    exact .refl
  · refine SettlesNext.next ?_
    refine Settles.with_pins rfl ?_
    exact .refl

theorem execLineStateTimeout_settles (g : Fin 8) (s : State) : SettlesNext s (execLineStateTimeout g s) := by
  unfold execLineStateTimeout
  refine SettlesNext.ite (fun _ => ?_) (fun _ => ?_)
  · refine SettlesNext.next ?_
    refine Settles.step (State.primaryLost_settles ..) ?_
    exact .refl
  · refine SettlesNext.next ?_
    exact .refl

theorem execPromoted_settles (lines : List Nat) (s : State) : SettlesNext s (execPromoted lines s) :=
  ⟨fun t ht => ((execPromoted_only ..).only t ht).settles (by decide)⟩

theorem execSnuffAll_settles (causes : Nat) (s : State) : SettlesNext s (execSnuffAll causes s) := by
  by_cases hs : s.modeSafe = true
  · unfold execSnuffAll
    refine SettlesNext.ite (fun h => SettlesNext.next ?_) (fun _ => SettlesNext.next .refl)
    have hw : s.mode.working = true := (Bool.and_eq_true _ _ ▸ h).2
    have a : Only [.regs, .flagged] s (s.setBits Obj.snuffCause (causes % 2 ^ 13)) := State.setBits_only ..
    refine Settles.step (State.enterSnuff_settles _ _ ?_ ?_) (a.settles (by decide))
    · rw [a.agree .mode (by decide)]; exact State.working_ne_dark hw
    · rw [a.agree .cal (by decide)]; exact State.working_idle hs hw
  · exact ⟨fun _ _ => ⟨fun h => absurd h hs⟩⟩

theorem execHeartbeat_settles (payload : List Byte) (s : State) : SettlesNext s (execHeartbeat payload s) := by
  unfold execHeartbeat
  refine SettlesNext.ite (fun _ => ?_) (fun _ => ?_)
  · refine SettlesNext.next ?_
    exact .refl
  · refine SettlesNext.ite (fun _ => ?_) (fun _ => ?_)
    · refine SettlesNext.next ?_
      refine Settles.step ((State.dropTwinFrame_only ..).settles (by decide)) ?_
      exact .refl
    · dsimp only
      refine SettlesNext.next ?_
      refine Settles.ite (fun _ => ?_) (fun _ => ?_)
      · refine Settles.step (State.primaryLost_settles ..) ?_
        refine Settles.step ((State.hearPartner_only ..).settles (by decide)) ?_
        exact .refl
      · refine Settles.step ((State.askJoin_only ..).settles (by decide)) ?_
        refine Settles.step ((State.hearPartner_only ..).settles (by decide)) ?_
        exact .refl

theorem execHeartbeatTimeout_settles (s : State) : SettlesNext s (execHeartbeatTimeout s) :=
  ⟨fun t ht => ((execHeartbeatTimeout_only ..).only t ht).settles (by decide)⟩

theorem execRoleDecisionTimeout_settles (s : State) : SettlesNext s (execRoleDecisionTimeout s) :=
  ⟨fun t ht => ((execRoleDecisionTimeout_only ..).only t ht).settles (by decide)⟩

theorem execDecision_settles (seq : Nat) (g : Fin 8) (outcome : WickOut) (s : State) : SettlesNext s (execDecision seq g outcome s) := by
  unfold execDecision
  dsimp only
  refine SettlesNext.ite (fun _ => ?_) (fun _ => ?_)
  · refine SettlesNext.next ?_
    refine Settles.step (State.noteOutcome_settles ..) ?_
    refine Settles.step (Only.settles (Only.with_twin (d := [.twin]) (by decide) .refl) (by decide)) ?_
    exact .refl
  · refine SettlesNext.next ?_
    exact .refl

theorem execPublish_settles (x0 : Nat) (line : Nat) (recs : List Nat) (s : State) : SettlesNext s (execPublish x0 line recs s) := by
  unfold execPublish
  refine SettlesNext.ite (fun _ => ?_) (fun _ => ?_)
  · refine SettlesNext.next ?_
    exact .refl
  · dsimp only
    refine SettlesNext.ite (fun _ => ?_) (fun _ => ?_)
    · refine SettlesNext.next ?_
      refine Settles.step ((State.setCause_only ..).settles (by decide)) ?_
      exact .refl
    · refine SettlesNext.next ?_
      refine Settles.step ((State.answerAwaited_only ..).settles (by decide)) ?_
      refine Settles.step (State.applyPublish_settles ..) ?_
      refine Settles.ite (fun _ => ?_) (fun _ => ?_)
      · refine Settles.step ((State.endOverwrite_only ..).settles (by decide)) ?_
        exact .refl
      · exact .refl

theorem execFindingMessage_settles (recs : List Nat) (s : State) : SettlesNext s (execFindingMessage recs s) := by
  unfold execFindingMessage
  refine SettlesNext.ite (fun _ => ?_) (fun _ => ?_)
  · refine SettlesNext.next ?_
    refine Settles.step (State.publish_settles ..) ?_
    exact .refl
  · refine SettlesNext.next ?_
    exact .refl

theorem execLineStateSend_settles (s : State) : SettlesNext s (execLineStateSend s) :=
  ⟨fun t ht => ((execLineStateSend_only ..).only t ht).settles (by decide)⟩

theorem State.enterCopy_settles (s : State) (x : LineSt) (conf : Option Conf) : Settles s (State.enterCopy s x conf) := by
  unfold State.enterCopy
  dsimp only
  refine Settles.step (Only.settles (Only.with_twin (d := [.twin]) (by decide) .refl) (by decide)) ?_
  refine Settles.step (State.settle_settles ..) ?_
  exact .refl

theorem State.takeCopy_settles (s : State) (x : LineSt) : Settles s (State.takeCopy s x) := by
  unfold State.takeCopy
  dsimp only
  split
  · refine Settles.step (State.enterCopy_settles ..) ?_
    refine Settles.step ((State.noteOffset_only ..).settles (by decide)) ?_
    refine Settles.step (Only.settles (Only.with_twin (d := [.twin]) (by decide) .refl) (by decide)) ?_
    refine Settles.ite (fun _ => ?_) (fun _ => ?_)
    · refine Settles.step ((State.decodeAll_only ..).settles (by decide)) ?_
      exact .refl
    · exact .refl
  · split
    · refine Settles.step (State.settleAll_settles ..) ?_
      refine Settles.step (State.enterCopy_settles ..) ?_
      refine Settles.with_taper rfl ?_
      refine Settles.ite (fun _ => ?_) (fun _ => ?_)
      · refine Settles.step ((State.decodeAll_only ..).settles (by decide)) ?_
        exact .refl
      · exact .refl
    · refine Settles.ite (fun _ => ?_) (fun _ => ?_)
      · refine Settles.ite (fun _ => ?_) (fun _ => ?_)
        · refine Settles.step (State.enterCopy_settles ..) ?_
          refine Settles.step (Only.settles (Only.with_twin (d := [.twin]) (by decide) .refl) (by decide)) ?_
          refine Settles.ite (fun _ => ?_) (fun _ => ?_)
          · refine Settles.step ((State.decodeAll_only ..).settles (by decide)) ?_
            exact .refl
          · exact .refl
        · refine Settles.step (Only.settles (Only.with_twin (d := [.twin]) (by decide) .refl) (by decide)) ?_
          refine Settles.ite (fun _ => ?_) (fun _ => ?_)
          · refine Settles.step ((State.decodeAll_only ..).settles (by decide)) ?_
            exact .refl
          · exact .refl
      · refine Settles.ite (fun _ => ?_) (fun _ => ?_)
        · refine Settles.step ((State.decodeAll_only ..).settles (by decide)) ?_
          exact .refl
        · exact .refl

theorem execLineState_settles (payload : List Byte) (s : State) : SettlesNext s (execLineState payload s) := by
  unfold execLineState
  refine SettlesNext.ite (fun _ => ?_) (fun _ => ?_)
  · refine SettlesNext.next ?_
    exact .refl
  · split
    · refine SettlesNext.next ?_
      refine Settles.step ((State.dropTwinFrame_only ..).settles (by decide)) ?_
      exact .refl
    · refine SettlesNext.ite (fun _ => ?_) (fun _ => ?_)
      · refine SettlesNext.next ?_
        refine Settles.step (State.takeCopy_settles ..) ?_
        exact .refl
      · refine SettlesNext.next ?_
        exact .refl

theorem execSwapMessage_settles (line : Nat) (page : Nat) (s : State) : SettlesNext s (execSwapMessage line page s) :=
  ⟨fun t ht => ((execSwapMessage_only ..).only t ht).settles (by decide)⟩

theorem State.swapRole_settles (s : State) : Settles s (State.swapRole s) := by
  unfold State.swapRole
  dsimp only
  split
  · refine Settles.step ((State.passHeld_only ..).settles (by decide)) ?_
    refine Settles.step (Only.settles (Only.with_role_twin (d := [.role, .twin]) (by decide) .refl) (by decide)) ?_
    exact .refl
  · refine Settles.step (State.makeHeld_settles ..) ?_
    refine Settles.step ((State.setLevel_only ..).settles (by decide)) ?_
    refine Settles.step (Only.settles (Only.with_role_twin (d := [.role, .twin]) (by decide) .refl) (by decide)) ?_
    exact .refl
  · refine Settles.step (Only.settles (Only.with_twin (d := [.twin]) (by decide) .refl) (by decide)) ?_
    exact .refl

theorem execRoleSwapComplete_settles (s : State) : SettlesNext s (execRoleSwapComplete s) := by
  unfold execRoleSwapComplete
  split
  · refine SettlesNext.next ?_
    exact .refl
  · refine SettlesNext.ite (fun _ => ?_) (fun _ => ?_)
    · refine SettlesNext.next ?_
      refine Settles.step (State.swapRole_settles ..) ?_
      exact .refl
    · refine SettlesNext.next ?_
      exact .refl

theorem execJoinReq_settles (rev : Nat) (fw : Nat) (digest : Nat) (s : State) : SettlesNext s (execJoinReq rev fw digest s) :=
  ⟨fun t ht => ((execJoinReq_only ..).only t ht).settles (by decide)⟩

theorem State.moveJoin_settles (s : State) (line : Nat) : Settles s (State.moveJoin s line) := by
  unfold State.moveJoin
  refine Settles.ite (fun _ => ?_) (fun _ => ?_)
  · exact .refl
  · refine Settles.foldl (fun t x => ?_) ?_
    · refine Settles.step ((State.setReg_only ..).settles (by decide)) ?_
      refine Settles.step (State.setGroup_settles ..) ?_
      exact .refl
    · exact .refl

theorem execJoinPlan_settles (snapshot : Nat) (line : Nat) (s : State) : SettlesNext s (execJoinPlan snapshot line s) := by
  unfold execJoinPlan
  refine SettlesNext.ite (fun _ => ?_) (fun _ => ?_)
  · refine SettlesNext.next ?_
    exact .refl
  · split
    · dsimp only
      refine SettlesNext.next ?_
      refine Settles.step ((State.setReg_only ..).settles (by decide)) ?_
      refine Settles.step (Only.settles (Only.with_twin (d := [.twin]) (by decide) .refl) (by decide)) ?_
      exact .refl
    · dsimp only
      refine SettlesNext.next ?_
      refine Settles.step ((State.tellReady_only ..).settles (by decide)) ?_
      refine Settles.step ((State.catchUp_only ..).settles (by decide)) ?_
      refine Settles.step (State.moveJoin_settles ..) ?_
      refine Settles.step ((State.bump_only ..).settles (by decide)) ?_
      refine Settles.step (Only.settles (Only.with_twin (d := [.twin]) (by decide) .refl) (by decide)) ?_
      exact .refl

theorem execJoinSnapshot_settles (s : State) : SettlesNext s (execJoinSnapshot s) :=
  ⟨fun t ht => ((execJoinSnapshot_only ..).only t ht).settles (by decide)⟩

theorem execJoinImage_settles (images : List (Nat × List Byte)) (gen : Nat) (map : List (Nat × Nat)) (s : State) :
    SettlesNext s (execJoinImage images gen map s) :=
  ⟨fun t ht => ((execJoinImage_only ..).only t ht).settles (by decide)⟩

theorem execJoinReady_settles (s : State) : SettlesNext s (execJoinReady s) :=
  ⟨fun t ht => ((execJoinReady_only ..).only t ht).settles (by decide)⟩

theorem execJoinCounters_settles (counters : List (Nat × Nat)) (s : State) : SettlesNext s (execJoinCounters counters s) :=
  ⟨fun t ht => ((execJoinCounters_only ..).only t ht).settles (by decide)⟩

theorem execJoinRetry_settles (s : State) : SettlesNext s (execJoinRetry s) :=
  ⟨fun t ht => ((execJoinRetry_only ..).only t ht).settles (by decide)⟩

/-! ### Reset -/

theorem State.resetBase_settles (s : State) : Settles s s.resetBase := ⟨fun _ => ⟨rfl, .inr (.inl rfl)⟩⟩

theorem State.afterReset_settles (s : State) : Settles s (State.afterReset s) := by
  unfold State.afterReset
  dsimp only
  refine Settles.step ((State.carry_only ..).settles (by decide)) ?_
  refine Settles.step (State.resetBase_settles ..) ?_
  refine Settles.step ((State.closeWindow_only ..).settles (by decide)) ?_
  refine Settles.step ((State.cutFuse_only ..).settles (by decide)) ?_
  exact .refl

theorem State.takeReset_settles (s : State) (b : Nat) (sub : Nat) : Settles s (State.takeReset s b sub) := by
  unfold State.takeReset
  refine Settles.ite (fun _ => ?_) (fun _ => ?_)
  · refine Settles.step ((State.markSource_only ..).settles (by decide)) ?_
    exact .refl
  · dsimp only
    refine Settles.step ((State.markSource_only ..).settles (by decide)) ?_
    refine Settles.step ((State.bump_only ..).settles (by decide)) ?_
    refine Settles.step (State.afterReset_settles ..) ?_
    refine Settles.ite (fun _ => ?_) (fun _ => ?_)
    · refine Settles.step ((State.freezeAtReset_only ..).settles (by decide)) ?_
      exact .refl
    · exact .refl

theorem execPowerOnReset_settles (s : State) : SettlesNext s (execPowerOnReset s) := by
  unfold execPowerOnReset
  dsimp only
  refine SettlesNext.next ?_
  refine Settles.step ((State.markSource_only ..).settles (by decide)) ?_
  refine Settles.step ((State.powerOn_only ..).settles (by decide)) ?_
  refine Settles.ite (fun _ => ?_) (fun _ => ?_)
  · exact .refl
  · refine Settles.step (State.afterReset_settles ..) ?_
    exact .refl

theorem execPinReset_settles (s : State) : SettlesNext s (execPinReset s) := by
  unfold execPinReset
  refine SettlesNext.next ?_
  refine Settles.step (State.takeReset_settles ..) ?_
  exact .refl

theorem execWatchdogExpiry_settles (s : State) : SettlesNext s (execWatchdogExpiry s) := by
  unfold execWatchdogExpiry
  refine SettlesNext.ite (fun _ => ?_) (fun _ => ?_)
  · refine SettlesNext.next ?_
    refine Settles.step (State.takeReset_settles ..) ?_
    exact .refl
  · refine SettlesNext.next ?_
    exact .refl

theorem execSnuffEscReset_settles (padHigh : Bool) (s : State) : SettlesNext s (execSnuffEscReset padHigh s) := by
  unfold execSnuffEscReset
  refine SettlesNext.ite (fun _ => ?_) (fun _ => ?_)
  · refine SettlesNext.next ?_
    refine Settles.step (State.takeReset_settles ..) ?_
    exact .refl
  · refine SettlesNext.next ?_
    exact .refl

theorem execSupplyBrownout_settles (supply : Supply) (s : State) : SettlesNext s (execSupplyBrownout supply s) := by
  unfold execSupplyBrownout
  refine SettlesNext.next ?_
  refine Settles.step (State.takeReset_settles ..) ?_
  exact .refl

theorem execRefClkLoss_settles (s : State) : SettlesNext s (execRefClkLoss s) := by
  unfold execRefClkLoss
  refine SettlesNext.ite (fun _ => ?_) (fun _ => ?_)
  · refine SettlesNext.next ?_
    refine Settles.step (State.takeReset_settles ..) ?_
    refine Settles.step (Only.settles (Only.with_clock (d := [.clock]) (by decide) .refl) (by decide)) ?_
    exact .refl
  · refine SettlesNext.next ?_
    exact .refl

theorem execIgrelReset_settles (s : State) : SettlesNext s (execIgrelReset s) := by
  unfold execIgrelReset
  refine SettlesNext.ite (fun _ => ?_) (fun _ => ?_)
  · refine SettlesNext.next ?_
    refine Settles.step (State.takeReset_settles ..) ?_
    exact .refl
  · refine SettlesNext.next ?_
    exact .refl

theorem execTwinResetRequest_settles (s : State) : SettlesNext s (execTwinResetRequest s) := by
  unfold execTwinResetRequest
  refine SettlesNext.ite (fun _ => ?_) (fun _ => ?_)
  · refine SettlesNext.next ?_
    exact .refl
  · refine SettlesNext.ite (fun _ => ?_) (fun _ => ?_)
    · refine SettlesNext.next ?_
      refine Settles.step (State.takeReset_settles ..) ?_
      exact .refl
    · refine SettlesNext.next ?_
      refine Settles.step ((State.logEvent_only ..).settles (by decide)) ?_
      exact .refl

theorem execResetRelease_settles (roles : List Nat) (testEn : Bool) (s : State) : SettlesNext s (execResetRelease roles testEn s) :=
  ⟨fun t ht => ((execResetRelease_only ..).only t ht).settles (by decide)⟩

theorem execPllLock_settles (s : State) : SettlesNext s (execPllLock s) :=
  ⟨fun t ht => ((execPllLock_only ..).only t ht).settles (by decide)⟩

theorem execServiceCoreRelease_settles (s : State) : SettlesNext s (execServiceCoreRelease s) :=
  ⟨fun t ht => ((execServiceCoreRelease_only ..).only t ht).settles (by decide)⟩

theorem State.noFirmware_settles (s : State) (status : Nat) : Settles s (s.noFirmware status) := by
  unfold State.noFirmware
  extract_lets s1
  have h1 : Settles s s1 := (State.setReg_only ..).settles (by decide)
  refine Settles.ite (fun _ => ?_) (fun _ => ?_)
  · exact Settles.step (Stays.settles (s := s1) ⟨rfl, rfl, rfl, rfl⟩) h1
  · exact Settles.step (Only.settles (Only.with_rst (d := [.rst]) (by decide) .refl) (by decide)) h1

theorem execBootRomVerify_settles (readsValid : Bool) (s : State) : SettlesNext s (execBootRomVerify readsValid s) := by
  unfold execBootRomVerify
  refine SettlesNext.ite (fun _ => ?_) (fun _ => ?_)
  · refine SettlesNext.next ?_
    exact .refl
  · dsimp only
    refine SettlesNext.ite (fun _ => ?_) (fun _ => ?_)
    · refine SettlesNext.next ?_
      refine Settles.step (State.noFirmware_settles ..) ?_
      exact .refl
    · refine SettlesNext.ite (fun _ => ?_) (fun _ => ?_)
      · refine SettlesNext.next ?_
        refine Settles.step ((State.startFirmware_only ..).settles (by decide)) ?_
        exact .refl
      · refine SettlesNext.next ?_
        refine Settles.step ((State.startFirmware_only ..).settles (by decide)) ?_
        exact .refl

theorem execBootRetry_settles (s : State) : SettlesNext s (execBootRetry s) :=
  ⟨fun t ht => ((execBootRetry_only ..).only t ht).settles (by decide)⟩

theorem State.drivePads_settles (s : State) : Settles s s.drivePads := by
  unfold State.drivePads
  exact Settles.ite (fun _ => .refl) (fun _ => Settles.of_low rfl id (fun h => Level.noConfusion h))

theorem State.firstConfigured_settles (s : State) : Settles s (State.firstConfigured s) := by
  unfold State.firstConfigured
  dsimp only
  refine Settles.step ((State.logEvent_only ..).settles (by decide)) ?_
  refine Settles.step ((State.logEvent_only ..).settles (by decide)) ?_
  refine Settles.step (State.drivePads_settles ..) ?_
  refine Settles.step (Only.settles (Only.with_rst_igrel (d := [.rst, .igrel]) (by decide) .refl) (by decide)) ?_
  refine Settles.step ((State.clearBits_only ..).settles (by decide)) ?_
  exact .refl

theorem State.taperReset_settles (s : State) : Settles s (State.taperReset s) := by
  unfold State.taperReset
  dsimp only
  split
  · refine Settles.step (State.dropStrobes_settles ..) ?_
    exact .refl
  · refine Settles.step (State.endMaint_settles ..) ?_
    refine Settles.step (State.dropStrobes_settles ..) ?_
    exact .refl

theorem State.holdBlock_settles (s : State) (b : Nat) : Settles s (State.holdBlock s b) := by
  unfold State.holdBlock
  split
  · refine Settles.step ((State.rasterReset_only ..).settles (by decide)) ?_
    exact .refl
  · refine Settles.step (Only.settles (Only.with_decomp (d := [.decomp]) (by decide) .refl) (by decide)) ?_
    exact .refl
  · refine Settles.step (State.taperReset_settles ..) ?_
    exact .refl
  · refine Settles.step (State.headReset_settles ..) ?_
    exact .refl
  · refine Settles.step ((State.twinReset_only ..).settles (by decide)) ?_
    exact .refl
  · refine Settles.step ((State.lanternReset_only ..).settles (by decide)) ?_
    exact .refl
  · refine Settles.step ((State.ledsLow_only ..).settles (by decide)) ?_
    refine Settles.step ((State.darken_only ..).settles (by decide)) ?_
    exact .refl
  · refine Settles.step ((State.uploadReset_only ..).settles (by decide)) ?_
    exact .refl
  · refine Settles.step ((State.checkReset_only ..).settles (by decide)) ?_
    exact .refl
  · refine Settles.step (Only.settles (Only.with_dram (d := [.dram]) (by decide) .refl) (by decide)) ?_
    exact .refl
  · refine Settles.step (State.wickReset_settles ..) ?_
    exact .refl
  · refine Settles.step ((State.motionReset_only ..).settles (by decide)) ?_
    exact .refl
  · exact .refl

theorem State.holdBlocks_settles (s : State) (x1 : List Nat) : Settles s (State.holdBlocks s x1) := by
  induction x1 generalizing s with | nil => ?_ | cons y l ih => ?_
  · simp only [State.holdBlocks]
    exact .refl
  · simp only [State.holdBlocks]
    refine Settles.step (ih ..) ?_
    refine Settles.step (State.holdBlock_settles ..) ?_
    exact .refl

theorem State.releaseBlock_settles (s : State) (b : Nat) : Settles s (s.releaseBlock b) := by
  unfold State.releaseBlock
  split
  · refine Settles.ite (fun h => ⟨fun hs => ⟨?_, .inl rfl⟩⟩) (fun _ => .refl)
    simp only [State.modeSafe, State.firingGuarded, State.driveFireEn, State.patternRuns, Bool.and_eq_true] at hs ⊢
    exact ⟨hs.1, by simp [h]⟩
  · exact Settles.step ((State.startChannel_only ..).settles (by decide)) ((State.startChannel_only ..).settles (by decide))
  · exact (State.uploadRelease_only ..).settles (by decide)
  · exact (State.wickRelease_only ..).settles (by decide)
  · exact (State.loopRelease_only ..).settles (by decide)
  · exact Settles.foldl (fun t x => (State.setAxis_only ..).settles (by decide)) .refl
  · exact (State.beaconRelease_only ..).settles (by decide)
  · exact .refl

theorem State.writeBlockReset_settles (s : State) (v : Nat) : Settles s (State.writeBlockReset s v) := by
  unfold State.writeBlockReset
  dsimp only
  refine Settles.step ((State.beginLinks_only ..).settles (by decide)) ?_
  refine Settles.step ((State.pendBlocks_only ..).settles (by decide)) ?_
  refine Settles.step (State.holdBlocks_settles ..) ?_
  refine Settles.step (Only.settles (Only.with_rst (d := [.rst]) (by decide) .refl) (by decide)) ?_
  refine Settles.step ((State.clearBits_only ..).settles (by decide)) ?_
  refine Settles.step ((State.setReg_only ..).settles (by decide)) ?_
  exact .refl

theorem execBlockRelease_settles (b : Fin 17) (clocks : ClockView) (s : State) : SettlesNext s (execBlockRelease b clocks s) := by
  unfold execBlockRelease
  refine SettlesNext.ite (fun _ => ?_) (fun _ => ?_)
  · dsimp only
    refine SettlesNext.next ?_
    refine Settles.step (State.releaseBlock_settles ..) ?_
    refine Settles.step ((State.clearBits_only ..).settles (by decide)) ?_
    refine Settles.step (Only.settles (Only.with_rst (d := [.rst]) (by decide) .refl) (by decide)) ?_
    exact .refl
  · refine SettlesNext.next ?_
    exact .refl

theorem execReleasePended_settles (b : Fin 17) (s : State) : SettlesNext s (execReleasePended b s) :=
  ⟨fun t ht => ((execReleasePended_only ..).only t ht).settles (by decide)⟩

theorem execFsiSample_settles (sites : List Nat) (s : State) : SettlesNext s (execFsiSample sites s) :=
  ⟨fun t ht => ((execFsiSample_only ..).only t ht).settles (by decide)⟩

theorem execDieTempSample_settles (sensor : Fin 4) (t : Int) (s : State) : SettlesNext s (execDieTempSample sensor t s) := by
  unfold execDieTempSample
  dsimp only
  refine SettlesNext.ite (fun _ => ?_) (fun _ => ?_)
  · refine SettlesNext.next ?_
    refine Settles.step (State.takeReset_settles ..) ?_
    refine Settles.step (Only.settles (Only.with_die (d := [.die]) (by decide) .refl) (by decide)) ?_
    exact .refl
  · refine SettlesNext.next ?_
    refine Settles.step ((State.standing_only ..).settles (by decide)) ?_
    refine Settles.step (Only.settles (Only.with_die (d := [.die]) (by decide) .refl) (by decide)) ?_
    exact .refl

theorem execCdcStall_settles (crossing : Nat) (firingPath : Bool) (s : State) : SettlesNext s (execCdcStall crossing firingPath s) :=
  ⟨fun t ht => ((execCdcStall_only ..).only t ht).settles (by decide)⟩

end Sys2Proof.Machine
end

