-- ==== Sys2Proof/Laws/SettlesFuseToCommands.lean ====
section
/-! SUPPORT. What the operations and meanings of Machine/Fuse.lean to Machine/Commands.lean do to the mode (see Settles). -/

namespace Sys2Proof.Machine

/-! ### Fuse -/

theorem execFuseProgramComplete_settles (blown : Nat) (s : State) : SettlesNext s (execFuseProgramComplete blown s) :=
  ⟨fun t ht => ((execFuseProgramComplete_only ..).only t ht).settles (by decide)⟩

theorem execJtagExtest_settles (s : State) : SettlesNext s (execJtagExtest s) :=
  ⟨fun t ht => ((execJtagExtest_only ..).only t ht).settles (by decide)⟩

theorem execJtagClamp_settles (s : State) : SettlesNext s (execJtagClamp s) :=
  ⟨fun t ht => ((execJtagClamp_only ..).only t ht).settles (by decide)⟩

theorem execJtagIdcode_settles (s : State) : SettlesNext s (execJtagIdcode s) :=
  ⟨fun t ht => ((execJtagIdcode_only ..).only t ht).settles (by decide)⟩

theorem execJtagSamplePreload_settles (cells : List Bool) (s : State) : SettlesNext s (execJtagSamplePreload cells s) :=
  ⟨fun t ht => ((execJtagSamplePreload_only ..).only t ht).settles (by decide)⟩

theorem execJtagHighz_settles (s : State) : SettlesNext s (execJtagHighz s) :=
  ⟨fun t ht => ((execJtagHighz_only ..).only t ht).settles (by decide)⟩

theorem execJtagBypass_settles (code : Nat) (s : State) : SettlesNext s (execJtagBypass code s) :=
  ⟨fun t ht => ((execJtagBypass_only ..).only t ht).settles (by decide)⟩

theorem execJtagTapReset_settles (s : State) : SettlesNext s (execJtagTapReset s) :=
  ⟨fun t ht => ((execJtagTapReset_only ..).only t ht).settles (by decide)⟩

/-! ### Effects -/

theorem State.writeReset_settles (s : State) (key : Nat) (v : Nat) : Settles s (State.writeReset s key v) := by
  unfold State.writeReset
  refine Settles.ite (fun _ => ?_) (fun _ => ?_)
  · refine Settles.step ((State.clearFlag_only ..).settles (by decide)) ?_
    exact .refl
  · refine Settles.ite (fun _ => ?_) (fun _ => ?_)
    · refine Settles.step (Only.settles (Only.with_rst (d := [.rst]) (by decide) .refl) (by decide)) ?_
      exact .refl
    · refine Settles.ite (fun _ => ?_) (fun _ => ?_)
      · refine Settles.step (State.writeBlockReset_settles ..) ?_
        exact .refl
      · refine Settles.ite (fun _ => ?_) (fun _ => ?_)
        · refine Settles.ite (fun _ => ?_) (fun _ => ?_)
          · refine Settles.step (Only.settles (Only.with_fuses (d := [.fuses]) (by decide) .refl) (by decide)) ?_
            exact .refl
          · exact .refl
        · refine Settles.step ((State.setReg_only ..).settles (by decide)) ?_
          exact .refl

theorem State.speedLimit_settles (s : State) : Settles s (State.speedLimit s) := by
  unfold State.speedLimit
  dsimp only
  refine Settles.ite (fun _ => ?_) (fun _ => ?_)
  · exact .refl
  · refine Settles.ite (fun _ => ?_) (fun _ => ?_)
    · refine Settles.with_pins rfl ?_
      refine Settles.step ((State.setReg_only ..).settles (by decide)) ?_
      exact .refl
    · refine Settles.ite (fun _ => ?_) (fun _ => ?_)
      · refine Settles.with_pins rfl ?_
        refine Settles.step ((State.setReg_only ..).settles (by decide)) ?_
        exact .refl
      · exact .refl

theorem State.startMaint_settles (s : State) (v : Nat) : Settles s (s.startMaint v) := by
  unfold State.startMaint
  refine Settles.ite (fun _ => .refl) (fun h => ?_)
  extract_lets n y s1
  refine Settles.step (State.request_settles ..) (Stays.settles ⟨rfl, rfl, rfl, ?_⟩)
  have hp : s.patternRuns = false := by
    cases hr : s.patternRuns
    · rfl
    · exact absurd (.inr hr) h
  rw [hp]
  rfl

theorem State.writeTaper_settles (s : State) (key : Nat) (v : Nat) : Settles s (State.writeTaper s key v) := by
  unfold State.writeTaper
  refine Settles.ite (fun _ => ?_) (fun _ => ?_)
  · refine Settles.step ((State.enableChannel_only ..).settles (by decide)) ?_
    exact .refl
  · refine Settles.ite (fun _ => ?_) (fun _ => ?_)
    · refine Settles.step ((State.enableChannel_only ..).settles (by decide)) ?_
      exact .refl
    · refine Settles.ite (fun _ => ?_) (fun _ => ?_)
      · refine Settles.step ((State.monRestart_only ..).settles (by decide)) ?_
        refine Settles.step ((State.setReg_only ..).settles (by decide)) ?_
        exact .refl
      · refine Settles.ite (fun _ => ?_) (fun _ => ?_)
        · refine Settles.step (State.startMaint_settles ..) ?_
          exact .refl
        · refine Settles.step ((State.setReg_only ..).settles (by decide)) ?_
          exact .refl

theorem State.selectFreq_settles (s : State) (v : Nat) : Settles s (State.selectFreq s v) := by
  unfold State.selectFreq
  refine Settles.step (State.selectSet_settles ..) ?_
  refine Settles.step ((State.setReg_only ..).settles (by decide)) ?_
  exact .refl

theorem State.writeAxis_settles (s : State) (a : Nat) (place : Nat) (key : Nat) (v : Nat) : Settles s (State.writeAxis s a place key v) := by
  unfold State.writeAxis
  split
  · refine Settles.step (State.moveTo_settles ..) ?_
    exact .refl
  · refine Settles.step ((State.writeLimit_only ..).settles (by decide)) ?_
    exact .refl
  · refine Settles.step ((State.writeLimit_only ..).settles (by decide)) ?_
    exact .refl
  · refine Settles.step ((State.writeLimit_only ..).settles (by decide)) ?_
    exact .refl
  · refine Settles.step ((State.takeHome_only ..).settles (by decide)) ?_
    exact .refl
  · refine Settles.step ((State.takeStop_only ..).settles (by decide)) ?_
    exact .refl
  · refine Settles.step ((State.setReg_only ..).settles (by decide)) ?_
    exact .refl

theorem State.writeMotion_settles (s : State) (key : Nat) (v : Nat) : Settles s (State.writeMotion s key v) := by
  unfold State.writeMotion
  refine Settles.ite (fun _ => ?_) (fun _ => ?_)
  · refine Settles.step ((State.takeStopAll_only ..).settles (by decide)) ?_
    exact .refl
  · split
    · refine Settles.step (State.writeAxis_settles ..) ?_
      exact .refl
    · refine Settles.step ((State.setReg_only ..).settles (by decide)) ?_
      exact .refl

theorem State.takeStep_settles (s : State) (d : Int) : Settles s (State.takeStep s d) := by
  unfold State.takeStep
  refine Settles.step (State.stepBeacon_settles ..) ?_
  refine Settles.step ((State.moveKindleLast_only ..).settles (by decide)) ?_
  exact .refl

theorem State.setTime_settles (s : State) (v : Nat) : Settles s (State.setTime s v) := by
  unfold State.setTime
  refine Settles.step ((State.setReg_only ..).settles (by decide)) ?_
  refine Settles.step (State.takeStep_settles ..) ?_
  exact .refl

theorem State.writeClock_settles (s : State) (key : Nat) (v : Nat) : Settles s (State.writeClock s key v) := by
  unfold State.writeClock
  refine Settles.ite (fun _ => ?_) (fun _ => ?_)
  · refine Settles.step (State.setTime_settles ..) ?_
    exact .refl
  · refine Settles.ite (fun _ => ?_) (fun _ => ?_)
    · refine Settles.step (State.takeStep_settles ..) ?_
      exact .refl
    · refine Settles.step ((State.setReg_only ..).settles (by decide)) ?_
      exact .refl

/-! ### Igrel -/

theorem State.acceptBlock_settles (s : State) (h : Hdr) (payload : List Byte) (t : Transfer) :
    Settles s (State.acceptBlock s h payload t) := by
  unfold State.acceptBlock
  refine Settles.ite (fun _ => ?_) (fun _ => ?_)
  · dsimp only
    refine Settles.step (State.publish_settles ..) ?_
    refine Settles.step (Only.settles (Only.with_igrel (d := [.igrel]) (by decide) .refl) (by decide)) ?_
    exact .refl
  · refine Settles.step ((State.answer_only ..).settles (by decide)) ?_
    refine Settles.step ((State.forwardWrite_only ..).settles (by decide)) ?_
    refine Settles.step ((State.takeContent_only ..).settles (by decide)) ?_
    exact .refl

theorem State.runBlockEnd_settles (s : State) (h : Hdr) (payload : List Byte) : Settles s (State.runBlockEnd s h payload) := by
  unfold State.runBlockEnd
  refine Settles.ite (fun _ => ?_) (fun _ => ?_)
  · refine Settles.step ((State.badLayout_only ..).settles (by decide)) ?_
    exact .refl
  · split
    · refine Settles.step ((State.answer_only ..).settles (by decide)) ?_
      exact .refl
    · dsimp only
      refine Settles.ite (fun _ => ?_) (fun _ => ?_)
      · refine Settles.step ((State.answer_only ..).settles (by decide)) ?_
        refine Settles.step ((State.dropTransfer_only ..).settles (by decide)) ?_
        exact .refl
      · split
        · refine Settles.step ((State.refuse_only ..).settles (by decide)) ?_
          refine Settles.step ((State.dropTransfer_only ..).settles (by decide)) ?_
          exact .refl
        · refine Settles.step (State.acceptBlock_settles ..) ?_
          refine Settles.step ((State.dropTransfer_only ..).settles (by decide)) ?_
          exact .refl

theorem State.recover_settles (s : State) (h : Hdr) (ty : Nat) (payload : List Byte) : Settles s (State.recover s h ty payload) := by
  unfold State.recover
  refine Settles.ite (fun _ => ?_) (fun _ => ?_)
  · exact .refl
  · split
    · refine Settles.ite (fun _ => ?_) (fun _ => ?_)
      · refine Settles.step ((State.recoverRefuse_only ..).settles (by decide)) ?_
        exact .refl
      · refine Settles.step ((State.runSegment_only ..).settles (by decide)) ?_
        exact .refl
    · refine Settles.ite (fun _ => ?_) (fun _ => ?_)
      · refine Settles.step ((State.recoverRefuse_only ..).settles (by decide)) ?_
        exact .refl
      · refine Settles.step (State.runBlockEnd_settles ..) ?_
        exact .refl
    · refine Settles.ite (fun _ => ?_) (fun _ => ?_)
      · refine Settles.step ((State.recoverBusy_only ..).settles (by decide)) ?_
        exact .refl
      · split
        · refine Settles.step ((State.recoverRead_only ..).settles (by decide)) ?_
          exact .refl
        · refine Settles.step ((State.recoverWrite_only ..).settles (by decide)) ?_
          exact .refl
        · refine Settles.step ((State.recoverStart_only ..).settles (by decide)) ?_
          exact .refl
        · refine Settles.step ((State.recoverRefuse_only ..).settles (by decide)) ?_
          exact .refl

/-! ### Requests -/

theorem execHello_settles (src : Src) (tag : Nat) (level : Nat) (nonce : List Byte) (s : State) :
    SettlesNext s (execHello src tag level nonce s) :=
  ⟨fun t ht => ((execHello_only ..).only t ht).settles (by decide)⟩

theorem execProof_settles (src : Src) (tag : Nat) (sess : Nat) (bytes : List Byte) (s : State) :
    SettlesNext s (execProof src tag sess bytes s) :=
  ⟨fun t ht => ((execProof_only ..).only t ht).settles (by decide)⟩

theorem execReservationLapse_settles (sess : Nat) (s : State) : SettlesNext s (execReservationLapse sess s) :=
  ⟨fun t ht => ((execReservationLapse_only ..).only t ht).settles (by decide)⟩

theorem execAuthLockoutExpiry_settles (ip : Nat) (s : State) : SettlesNext s (execAuthLockoutExpiry ip s) :=
  ⟨fun t ht => ((execAuthLockoutExpiry_only ..).only t ht).settles (by decide)⟩

theorem execSessionIdleTimeout_settles (sess : Nat) (s : State) : SettlesNext s (execSessionIdleTimeout sess s) :=
  ⟨fun t ht => ((execSessionIdleTimeout_only ..).only t ht).settles (by decide)⟩

theorem execBlockTimeout_settles (sess : Nat) (tag : Nat) (s : State) : SettlesNext s (execBlockTimeout sess tag s) :=
  ⟨fun t ht => ((execBlockTimeout_only ..).only t ht).settles (by decide)⟩

theorem execTelemetrySend_settles (sess : Nat) (canSend : Bool) (s : State) : SettlesNext s (execTelemetrySend sess canSend s) :=
  ⟨fun t ht => ((execTelemetrySend_only ..).only t ht).settles (by decide)⟩

theorem execArpRequest_settles (mac : Nat) (ip : Nat) (target : Nat) (s : State) : SettlesNext s (execArpRequest mac ip target s) :=
  ⟨fun t ht => ((execArpRequest_only ..).only t ht).settles (by decide)⟩

theorem execIcmpEchoRequest_settles (src : Nat) (data : List Byte) (s : State) : SettlesNext s (execIcmpEchoRequest src data s) :=
  ⟨fun t ht => ((execIcmpEchoRequest_only ..).only t ht).settles (by decide)⟩

/-! ### Commands -/

theorem execHealthSwap_settles (s : State) : SettlesNext s (execHealthSwap s) :=
  ⟨fun t ht => ((execHealthSwap_only ..).only t ht).settles (by decide)⟩

theorem State.publishEach_settles (s : State) (x1 : List (List (Nat × Nat) × Option Deferred)) : Settles s (State.publishEach s x1) := by
  induction x1 generalizing s with | nil => ?_ | cons y l ih => ?_
  · simp only [State.publishEach]
    exact .refl
  · simp only [State.publishEach]
    refine Settles.step (ih ..) ?_
    refine Settles.step (State.publish_settles ..) ?_
    exact .refl

theorem execHealthOverwriteDone_settles (s : State) : SettlesNext s (execHealthOverwriteDone s) := by
  unfold execHealthOverwriteDone
  refine SettlesNext.ite (fun _ => ?_) (fun _ => ?_)
  · dsimp only
    refine SettlesNext.next ?_
    refine Settles.step (State.publishEach_settles ..) ?_
    refine Settles.step ((State.endOverwrite_only ..).settles (by decide)) ?_
    refine Settles.step (Only.settles (Only.with_health (d := [.health]) (by decide) .refl) (by decide)) ?_
    exact .refl
  · refine SettlesNext.next ?_
    exact .refl

theorem execChunkCompress_settles (ch : Fin 4) (s : State) : SettlesNext s (execChunkCompress ch s) :=
  ⟨fun t ht => ((execChunkCompress_only ..).only t ht).settles (by decide)⟩

end Sys2Proof.Machine
end

