-- ==== Sys2Proof/Laws/Turns.lean ====
section
/-! SUPPORT. The operations that enter KINDLE, PILOT, TRIM or LIT, and what calls them: from a safe state they lead to a safe state, by a
mode change of 02 R40 and R41. -/

namespace Sys2Proof.Machine

/-- From a safe state to a safe state, by a mode change that 02 R40 and R41 give, or none. -/
structure Turns (s t : State) : Prop where
  safe : s.modeSafe = true → t.modeSafe = true ∧ s.mode.mayBecome t.mode = true

theorem Settles.turns {s t : State} (h : Settles s t) : Turns s t := by
  refine ⟨fun hs => ⟨(h.safe hs).1, ?_⟩⟩
  rcases (h.safe hs).2 with k | k | ⟨k, hd⟩
  · rw [k]; cases s.mode <;> rfl
  · rw [k]; cases s.mode <;> rfl
  · rw [k]
    revert hd
    cases s.mode <;> simp [Mode.mayBecome]

/-- What settles may follow. -/
theorem Turns.then {s t u : State} (h : Settles t u) (k : Turns s t) : Turns s u := by
  refine ⟨fun hs => ?_⟩
  obtain ⟨ht, hm⟩ := k.safe hs
  obtain ⟨hu, hw⟩ := h.safe ht
  refine ⟨hu, ?_⟩
  rcases hw with e | e | ⟨e, hd⟩
  · rw [e]; exact hm
  · rw [e]; cases s.mode <;> rfl
  · rw [e]
    revert hm hd
    cases s.mode <;> cases t.mode <;> simp [Mode.mayBecome]

/-- What changes no mode may go before. -/
theorem Turns.after {s t u : State} (k : Settles s t) (hm : t.mode = s.mode) (h : Turns t u) : Turns s u := by
  refine ⟨fun hs => ?_⟩
  obtain ⟨hu, e⟩ := h.safe (k.safe hs).1
  exact ⟨hu, by rw [← hm]; exact e⟩

/-- What a command does to the mode, where it answers a next state. -/
structure TurnsNext (s : State) (o : Host.Outcome State Fault Refusal) : Prop where
  turns : ∀ t, o = .next t → Turns s t

theorem TurnsNext.next {s t : State} (h : Turns s t) : TurnsNext s (ok t) := by
  refine ⟨fun u hu => ?_⟩
  cases hu
  exact h

theorem SettlesNext.turns {s : State} {o : Host.Outcome State Fault Refusal} (h : SettlesNext s o) : TurnsNext s o :=
  ⟨fun t ht => (h.settles t ht).turns⟩

theorem Turns.ite {c : Prop} [Decidable c] {s t u : State} (h : c → Turns s t) (k : ¬c → Turns s u) : Turns s (if c then t else u) := by
  by_cases x : c
  · rw [if_pos x]; exact h x
  · rw [if_neg x]; exact k x

theorem Turns.refl {s : State} : Turns s s := Settles.turns .refl

/-- It is enough to look at safe states. -/
theorem Turns.of_safe {s t : State} (h : s.modeSafe = true → Turns s t) : Turns s t := ⟨fun hs => (h hs).safe hs⟩

theorem TurnsNext.of_safe {s : State} {o : Host.Outcome State Fault Refusal} (h : s.modeSafe = true → TurnsNext s o) : TurnsNext s o :=
  ⟨fun t ht => Turns.of_safe (fun hs => (h hs).turns t ht)⟩

theorem State.enterPilot_turns (s : State) (hr : s.cal.running = false) (hd : s.mode ≠ .dark) : Turns s s.enterPilot := by
  unfold State.enterPilot
  extract_lets s1 y z s2
  have h1 : Only [.pending, .regs, .doms, .role, .strapped, .clock, .rst, .fuses, .pins, .jtag, .igrel, .flash, .raster, .decomp, .slots,
      .health, .trimGen, .enc, .taper, .heads, .twin, .lantern, .led, .chans, .check, .dram, .wick, .loops, .spi, .axes, .ptp, .ylog,
      .die, .out, .flagged, .freeCtr] (s.freshJoin.toMode .pilot) s1 := Only.mono (State.raiseHeadPwr_only ..) (by decide)
  have h3 : Only [.pending, .regs, .doms, .role, .strapped, .clock, .rst, .fuses, .pins, .jtag, .igrel, .flash, .raster, .decomp, .slots,
      .health, .trimGen, .enc, .taper, .heads, .twin, .lantern, .led, .chans, .check, .dram, .wick, .loops, .spi, .axes, .ptp, .ylog,
      .die, .out, .flagged, .freeCtr] s2 ((s2.drivenAlive).tellState).raiseConflict :=
    Only.step (State.raiseConflict_only ..) (by decide) (Only.step (State.tellState_only ..) (by decide)
      (Only.mono (State.drivenAlive_only ..) (by decide)))
  have hp : (((s2.drivenAlive).tellState).raiseConflict).pins.fireEn = .low := by
    rw [(State.raiseConflict_only _).agree .pins (by decide), (State.tellState_only _).agree .pins (by decide)]
    rfl
  have h0 : s.freshJoin.cal = s.cal := (State.freshJoin_only s).agree .cal (by decide)
  refine ⟨fun _ => ⟨?_, ?_⟩⟩
  · have hc : (((s2.drivenAlive).tellState).raiseConflict).cal = s.cal :=
      (h3.agree .cal (by decide)).trans ((h1.agree .cal (by decide)).trans (((State.toMode_only s.freshJoin .pilot).agree .cal (by decide)).trans h0))
    simp [State.modeSafe, State.firingGuarded, hc, hr, hp]
  · have hm : (((s2.drivenAlive).tellState).raiseConflict).mode = .pilot :=
      (h3.agree .mode (by decide)).trans ((h1.agree .mode (by decide)).trans (State.toMode_mode ..))
    rw [hm]
    revert hd
    cases s.mode <;> simp [Mode.mayBecome]

theorem State.enterTrim_turns (s : State) (hm : s.mode = .pilot) : Turns s s.enterTrim := by
  refine Turns.of_safe (fun hs => ?_)
  have hw : s.cal.running = false := State.working_idle hs (by rw [hm]; rfl)
  have hf : s.pins.fireEn ≠ .high := by
    simp only [State.modeSafe, State.firingGuarded, hm, Bool.and_eq_true, Bool.or_eq_true, decide_eq_true_eq] at hs
    simpa using hs.2
  unfold State.enterTrim
  have a : Turns s (s.toMode .trim) := by
    refine ⟨fun _ => ⟨?_, ?_⟩⟩
    · have hc := (State.toMode_only s .trim).agree .cal (by decide)
      have hp := (State.toMode_only s .trim).agree .pins (by decide)
      simp only [State.agree] at hc hp
      simp [State.modeSafe, State.firingGuarded, hc, hp, hw, hf]
    · rw [State.toMode_mode, hm]; rfl
  exact Turns.then ((State.tellState_only ..).settles (by decide)) (Turns.then (State.drivenAlive_settles ..) a)

theorem State.enterLit_turns (s : State) (hm : s.mode = .pilot) : Turns s s.enterLit := by
  refine Turns.of_safe (fun hs => ?_)
  have hw : s.cal.running = false := State.working_idle hs (by rw [hm]; rfl)
  unfold State.enterLit
  extract_lets s1 x y z s2 s3
  generalize hs4 : s3.fireReset = s4
  have h1 : Only [.pending, .regs, .doms, .role, .strapped, .clock, .rst, .fuses, .pins, .jtag, .igrel, .flash, .raster, .decomp, .slots,
      .health, .trimGen, .enc, .taper, .heads, .twin, .lantern, .led, .chans, .check, .dram, .wick, .loops, .spi, .axes, .ptp, .ylog,
      .die, .out, .flagged, .freeCtr] s s1 := Only.step (State.startGroups_only ..) (by decide)
    (Only.step (State.setOrigin_only ..) (by decide) (Only.mono (State.freshTwin_only ..) (by decide)))
  have h2 : Only [.pending, .regs, .doms, .role, .strapped, .clock, .rst, .fuses, .pins, .jtag, .igrel, .flash, .raster, .decomp, .slots,
      .health, .trimGen, .enc, .taper, .heads, .twin, .lantern, .led, .chans, .check, .dram, .wick, .loops, .spi, .axes, .ptp, .ylog,
      .die, .out, .flagged, .freeCtr] s s2 := Only.with_taper_lantern_dram (by decide) h1
  have h3 : Only [.pending, .regs, .doms, .role, .strapped, .clock, .rst, .fuses, .pins, .jtag, .igrel, .flash, .raster, .decomp, .slots,
      .health, .trimGen, .enc, .taper, .heads, .twin, .lantern, .led, .chans, .check, .dram, .wick, .loops, .spi, .axes, .ptp, .ylog,
      .die, .out, .flagged, .freeCtr] (s2.toMode .lit) s3 :=
    Only.step (State.tellState_only ..) (by decide) (Only.mono (State.drivenAlive_only ..) (by decide))
  have h4 : Only [.pending, .regs, .doms, .role, .strapped, .clock, .rst, .fuses, .pins, .jtag, .igrel, .flash, .raster, .decomp, .slots,
      .health, .trimGen, .enc, .taper, .heads, .twin, .lantern, .led, .chans, .check, .dram, .wick, .loops, .spi, .axes, .ptp, .ylog,
      .die, .out, .flagged, .freeCtr] s3 s4 := hs4 ▸ Only.mono (State.fireReset_only ..) (by decide)
  have hm4 : s4.mode = .lit := (h4.agree .mode (by decide)).trans ((h3.agree .mode (by decide)).trans (State.toMode_mode ..))
  have hc4 : s4.cal = s.cal := (h4.agree .cal (by decide)).trans ((h3.agree .cal (by decide)).trans
    (((State.toMode_only s2 .lit).agree .cal (by decide)).trans (h2.agree .cal (by decide))))
  refine ⟨fun _ => ⟨?_, ?_⟩⟩
  · simp [State.driveFireEn, State.modeSafe, State.firingGuarded, hm4, hc4, hw]
  · show s.mode.mayBecome s4.mode = true
    rw [hm4, hm]; rfl

theorem State.acceptLit_turns (s : State) (hm : s.mode = .pilot) : Turns s s.acceptLit := by
  unfold State.acceptLit
  extract_lets s1
  have hk : s1.mode = s.mode := (State.selectSet_only s 0).agree .mode (by decide)
  refine Turns.after (State.selectSet_settles s 0) hk (Turns.ite (fun _ => ?_) (fun _ => ?_))
  · exact State.enterLit_turns s1 (hk.trans hm)
  · exact (Only.settles (Only.with_dram (d := [.dram]) (by decide) .refl) (by decide)).turns

theorem State.enterKindle_turns (s : State) (hm : s.mode = .dark) : Turns s s.enterKindle := by
  refine Turns.of_safe (fun hs => ?_)
  have hf : s.pins.fireEn ≠ .high := by
    simp only [State.modeSafe, State.firingGuarded, hm, Bool.and_eq_true, Bool.or_eq_true, decide_eq_true_eq] at hs
    simpa using hs.2
  unfold State.enterKindle
  extract_lets s1 decided y z s2 s3 s4
  have a : Turns s s2 := by
    have hp := (State.toMode_only s .kindle).agree .pins (by decide)
    simp only [State.agree] at hp
    refine ⟨fun _ => ⟨?_, ?_⟩⟩
    · have : s2.pins.fireEn ≠ .high := by
        show (s.toMode .kindle).pins.fireEn ≠ .high
        rw [hp]; exact hf
      have hm2 : s2.mode = .kindle := State.toMode_mode ..
      simp [State.modeSafe, State.firingGuarded, hm2, this]
    · show s.mode.mayBecome (s.toMode .kindle).mode = true
      rw [State.toMode_mode, hm]; rfl
  have b : Turns s s4 := by
    refine Turns.then ((State.pendBlocks_only ..).settles (by decide)) ?_
    refine Turns.then ((State.setReg_only ..).settles (by decide)) ?_
    refine Turns.then ((State.setReg_only ..).settles (by decide)) ?_
    exact Turns.then ((State.setReg_only ..).settles (by decide)) a
  exact Turns.ite (fun _ => b) (fun _ => Turns.then (State.calFail_settles ..) b)

theorem State.sendMode_settles (s : State) (m : Mode) (line : Nat) : Settles s (s.sendMode m line) :=
  (State.sendMode_only ..).settles (by decide)

theorem State.changeMode_turns (s : State) (v : Nat) : Turns s (s.changeMode v) := by
  refine Turns.of_safe (fun hs => ?_)
  have cause : Turns s (s.setCause Cause.request) := ((State.setCause_only ..).settles (by decide)).turns
  have idle : s.mode.working = true → s.cal.running = false := State.working_idle hs
  have snuffIdle : s.mode = .snuff → s.cal.running = false := by
    intro hm
    simp only [State.modeSafe, hm, Bool.and_eq_true, Bool.or_eq_true, decide_eq_true_eq] at hs
    simpa using hs.1
  unfold State.changeMode
  extract_lets line unarmed
  split
  · rename_i hm; exact State.enterKindle_turns s hm
  · rename_i hm; exact Turns.then (State.sendMode_settles ..) (State.enterPilot_turns s (snuffIdle hm) (by rw [hm]; decide))
  · exact .refl
  · rename_i hm; exact Turns.then (State.sendMode_settles ..) (State.enterTrim_turns s hm)
  · rename_i hm; exact Turns.then (State.sendMode_settles ..) (State.acceptLit_turns s hm)
  · rename_i hm
    exact Turns.then (State.sendMode_settles ..) (State.enterPilot_turns s (idle (by rw [hm]; rfl)) (by rw [hm]; decide))
  · exact Turns.then (State.sendMode_settles ..) (State.stopLit_settles ..).turns
  · exact .refl
  · exact .refl
  · exact cause
  · exact .refl

theorem State.takeModeRequest_turns (s : State) (v : Nat) : Turns s (s.takeModeRequest v) := by
  unfold State.takeModeRequest
  exact Turns.ite (fun _ => State.changeMode_turns ..)
    (fun _ => (Only.settles (Only.with_rst (d := [.rst]) (by decide) .refl) (by decide)).turns)

theorem State.makeDue_turns (s : State) : Turns s s.makeDue := by
  have clear : Settles s { s with rst := { s.rst with modeDue := none } } :=
    Only.settles (Only.with_rst (d := [.rst]) (by decide) .refl) (by decide)
  unfold State.makeDue
  split
  · exact .refl
  · refine Turns.ite (fun _ => Turns.after clear rfl (Turns.ite (fun _ => .refl) (fun _ => State.changeMode_turns ..))) (fun _ => .refl)

theorem execFirmwareTick_turns (s : State) : TurnsNext s (execFirmwareTick s) := by
  have due : Settles s { s with rst := { s.rst with snuffDone := true } } :=
    Only.settles (Only.with_rst (d := [.rst]) (by decide) .refl) (by decide)
  unfold execFirmwareTick
  split
  · refine TurnsNext.next (Turns.after due rfl ?_)
    exact Turns.ite (fun _ => Turns.then (State.speedLimit_settles ..) (State.makeDue_turns ..)) (fun _ => State.makeDue_turns ..)
  · exact TurnsNext.next .refl

theorem State.writeMode_turns (s : State) (key v : Nat) : Turns s (s.writeMode key v) := by
  unfold State.writeMode
  refine Turns.ite (fun _ => State.takeModeRequest_turns ..) (fun _ => Turns.ite (fun _ => ?_) (fun _ => ?_))
  · exact Turns.then ((State.standing_only ..).settles (by decide)) ((State.clearFlag_only ..).settles (by decide)).turns
  · exact ((State.setReg_only ..).settles (by decide)).turns

theorem State.writeEffect_turns (s : State) (key v : Nat) : Turns s (s.writeEffect key v) := by
  unfold State.writeEffect
  extract_lets idx
  refine Turns.ite (fun _ => ((State.clearFlags_only ..).settles (by decide)).turns) (fun _ => ?_)
  refine Turns.ite (fun _ => State.writeMode_turns ..) (fun _ => ?_)
  refine Turns.ite (fun _ => (State.writeReset_settles ..).turns) (fun _ => ?_)
  refine Turns.ite (fun _ => ((State.saveConfig_only ..).settles (by decide)).turns) (fun _ => ?_)
  refine Turns.ite (fun _ => ((State.clearFsiMin_only ..).settles (by decide)).turns) (fun _ => ?_)
  refine Turns.ite (fun _ => ((State.takeFlush_only ..).settles (by decide)).turns) (fun _ => ?_)
  refine Turns.ite (fun _ => (State.writeTaper_settles ..).turns) (fun _ => ?_)
  refine Turns.ite (fun _ => ((State.writeLane_only ..).settles (by decide)).turns) (fun _ => ?_)
  refine Turns.ite (fun _ => ((State.requestSwap_only ..).settles (by decide)).turns) (fun _ => ?_)
  refine Turns.ite (fun _ => ((State.writeCamera_only ..).settles (by decide)).turns) (fun _ => ?_)
  refine Turns.ite (fun _ => ((State.enableScrub_only ..).settles (by decide)).turns) (fun _ => ?_)
  refine Turns.ite (fun _ => (State.selectFreq_settles ..).turns) (fun _ => ?_)
  refine Turns.ite (fun _ => (State.writeMotion_settles ..).turns) (fun _ => ?_)
  refine Turns.ite (fun _ => (State.writeClock_settles ..).turns) (fun _ => ?_)
  refine Turns.ite (fun _ => ((State.writeLog_only ..).settles (by decide)).turns) (fun _ => ?_)
  split
  · exact ((State.writeLoop_only ..).settles (by decide)).turns
  · exact ((State.setReg_only ..).settles (by decide)).turns

theorem State.acceptWrite_turns (s : State) (h : Hdr) (payload : List Byte) (r : Dict.ObjRow) (w : WriteReq) :
    Turns s (s.acceptWrite h payload r w) := by
  unfold State.acceptWrite
  extract_lets v
  refine Turns.ite (fun _ => ((State.startFuse_only ..).settles (by decide)).turns) (fun _ => ?_)
  refine Turns.then ((State.answer_only ..).settles (by decide)) ?_
  exact Turns.then ((State.forwardWrite_only ..).settles (by decide)) (State.writeEffect_turns ..)

theorem State.runWriteOf_turns (s : State) (h : Hdr) (level : Nat) (payload : List Byte) : Turns s (s.runWriteOf h level payload) := by
  unfold State.runWriteOf
  split
  · exact ((State.badLayout_only ..).settles (by decide)).turns
  · unfold State.runWrite
    split
    · exact ((State.refuse_only ..).settles (by decide)).turns
    · split
      · exact ((State.refuse_only ..).settles (by decide)).turns
      · exact State.acceptWrite_turns ..

theorem State.inSession_turns (s : State) (h : Hdr) (run : Session → State → State) (hr : ∀ x t, Turns t (run x t)) :
    Turns s (s.inSession h run) := by
  unfold State.inSession
  split
  · exact ((State.dropPacket_only ..).settles (by decide)).turns
  · refine Turns.ite (fun _ => ?_) (fun _ => ((State.dropPacket_only ..).settles (by decide)).turns)
    refine Turns.after ?_ ?_ (hr _ _)
    · exact Only.settles (Only.with_igrel (d := [.igrel]) (by decide) .refl) (by decide)
    · rfl

theorem State.inSlot_turns (s : State) (h : Hdr) (payload : List Byte) (noWait : Session → Bool) (run : Session → State → State)
    (hr : ∀ x t, Turns t (run x t)) : Turns s (s.inSlot h payload noWait run) := by
  unfold State.inSlot
  refine State.inSession_turns _ _ _ (fun x t => ?_)
  split
  · exact ((State.respond_only ..).settles (by decide)).turns
  · split
    · exact ((State.answerBusy_only ..).settles (by decide)).turns
    · exact hr ..

theorem State.receive_turns (s : State) (h : Hdr) (ty : Nat) (payload : List Byte) : Turns s (s.receive h ty payload) := by
  unfold State.receive
  split
  · exact (State.recover_settles ..).turns
  · split
    · exact .refl
    · split
      · exact State.inSession_turns _ _ _ (fun x t => Turns.ite (fun _ => ((State.closeSession_only ..).settles (by decide)).turns)
          (fun _ => ((State.badLayout_only ..).settles (by decide)).turns))
      · exact State.inSlot_turns _ _ _ _ _ (fun x t => ((State.runRead_only ..).settles (by decide)).turns)
      · exact State.inSlot_turns _ _ _ _ _ (fun x t => State.runWriteOf_turns ..)
      · exact State.inSlot_turns _ _ _ _ _ (fun x t => ((State.runDescribe_only ..).settles (by decide)).turns)
      · exact State.inSlot_turns _ _ _ _ _ (fun x t => ((State.runBlockStart_only ..).settles (by decide)).turns)
      · exact State.inSession_turns _ _ _ (fun x t => ((State.runSegment_only ..).settles (by decide)).turns)
      · exact State.inSession_turns _ _ _ (fun x t => ((State.runAck_only ..).settles (by decide)).turns)
      · exact State.inSlot_turns _ _ _ _ _ (fun x t => (State.runBlockEnd_settles ..).turns)
      · exact State.inSlot_turns _ _ _ _ _ (fun x t => ((State.runSubscribe_only ..).settles (by decide)).turns)
      · exact ((State.dropPacket_only ..).settles (by decide)).turns

theorem State.send_turns (s : State) (h : Hdr) (key v : Nat) : Turns s (s.send h key v) := State.receive_turns ..

theorem State.sendEnd_turns (s : State) (h : Hdr) (mine : Nat → Bool) : Turns s (s.sendEnd h mine) := by
  unfold State.sendEnd
  split
  · split
    · exact State.receive_turns ..
    · exact .refl
  · exact .refl

theorem State.endStop_turns (s : State) (hm : s.mode = .lit) : Turns s s.endStop := by
  refine Turns.of_safe (fun hs => ?_)
  unfold State.endStop
  extract_lets y s1
  have h1 : Settles s s1 := Settles.with_taper rfl .refl
  have o2 : Only [.pending, .regs, .doms, .role, .strapped, .clock, .rst, .fuses, .pins, .jtag, .igrel, .flash, .raster, .decomp, .slots,
      .health, .trimGen, .enc, .taper, .heads, .twin, .lantern, .led, .chans, .check, .dram, .wick, .loops, .spi, .axes, .ptp, .ylog,
      .die, .out, .flagged, .freeCtr] s1 ((s1.recordStop.abandonSwap).abandonJoin) :=
    Only.step (State.abandonJoin_only ..) (by decide) (Only.step (State.abandonSwap_only ..) (by decide)
      (Only.mono (State.recordStop_only ..) (by decide)))
  have k : Settles s ((s1.recordStop.abandonSwap).abandonJoin) :=
    Settles.step ((State.abandonJoin_only ..).settles (by decide)) (Settles.step (State.abandonSwap_settles ..)
      (Settles.step (State.recordStop_settles ..) h1))
  have hk : ((s1.recordStop.abandonSwap).abandonJoin).mode = s.mode := o2.agree .mode (by decide)
  have hc : ((s1.recordStop.abandonSwap).abandonJoin).cal = s.cal := o2.agree .cal (by decide)
  refine Turns.after k hk (State.enterPilot_turns _ ?_ ?_)
  · rw [hc]; exact State.working_idle hs (by rw [hm]; rfl)
  · rw [hk, hm]; decide

theorem execLitStopComplete_turns (s : State) : TurnsNext s (execLitStopComplete s) := by
  unfold execLitStopComplete
  split
  · rename_i h
    exact TurnsNext.next (State.endStop_turns s h.1)
  · exact TurnsNext.next .refl

theorem execDramFreqChangeDone_turns (s : State) : TurnsNext s (execDramFreqChangeDone s) := by
  unfold execDramFreqChangeDone
  split
  · rename_i t _
    refine TurnsNext.next ?_
    have a : Settles s (s.setChanged t) := State.setChanged_settles ..
    have hk : (s.setChanged t).mode = s.mode := (State.setChanged_only s t).agree .mode (by decide)
    refine Turns.after a hk ?_
    refine Turns.ite (fun _ => Turns.ite (fun h => State.enterLit_turns _ h) (fun _ => ?_)) (fun _ => .refl)
    exact (Only.settles (Only.with_dram (d := [.dram]) (by decide) .refl) (by decide)).turns
  · exact TurnsNext.next .refl

theorem execKindleEnd_turns (s : State) : TurnsNext s (execKindleEnd s) := by
  refine TurnsNext.of_safe (fun hs => ?_)
  unfold execKindleEnd
  split
  · rename_i h
    have hm : s.mode = .kindle := by
      simp only [State.kindleDone, Bool.and_eq_true] at h
      simp only [State.modeSafe, h.1.1.1.1, Bool.and_eq_true] at hs
      simpa using hs.1
    extract_lets s2
    have h1 : Only [.regs] s (s.setItem 3 1) := State.setItem_only ..
    have h2 : Settles s s2 := Settles.step (State.countKindle_settles ..) (h1.settles (by decide))
    have hm2 : s2.mode = s.mode := h1.agree .mode (by decide)
    have hc2 : s2.cal.running = false := rfl
    clear_value s2
    refine TurnsNext.next (Turns.after h2 hm2 (Turns.ite (fun _ => ?_) (fun _ => ?_)))
    · have a : Settles s2 s2.countKindleFail := (State.countKindleFail_only ..).settles (by decide)
      exact (Settles.step (State.enterSnuff_settles _ _ (by rw [(State.countKindleFail_only s2).agree .mode (by decide), hm2, hm]; decide)
        (by rw [(State.countKindleFail_only s2).agree .cal (by decide)]; exact hc2)) a).turns
    · exact State.enterPilot_turns s2 hc2 (by rw [hm2, hm]; decide)
  · exact TurnsNext.next .refl

theorem execModeMessage_turns (mode line : Nat) (s : State) : TurnsNext s (execModeMessage mode line s) := by
  refine TurnsNext.of_safe (fun hs => ?_)
  unfold execModeMessage
  split
  · exact TurnsNext.next .refl
  · split
    · rename_i hm; exact TurnsNext.next (State.enterTrim_turns s hm)
    · rename_i hm
      split
      · exact TurnsNext.next (Only.settles (Only.with_twin (d := [.twin]) (by decide) .refl) (by decide)).turns
      · exact TurnsNext.next (State.acceptLit_turns s hm)
    · rename_i hm
      exact TurnsNext.next (State.enterPilot_turns s (State.working_idle hs (by rw [hm]; rfl)) (by rw [hm]; decide))
    · have h1 : Settles s { s with twin := { s.twin with modeAt := some (2, line) } } :=
        Only.settles (Only.with_twin (d := [.twin]) (by decide) .refl) (by decide)
      exact TurnsNext.next (Settles.step (State.stopAtLine_settles ..) h1).turns
    · exact TurnsNext.next .refl

theorem execJoinEnterLit_turns (s : State) : TurnsNext s (execJoinEnterLit s) := by
  unfold execJoinEnterLit
  split
  · split
    · rename_i h
      simp only [Bool.and_eq_true, decide_eq_true_eq] at h
      refine TurnsNext.next ?_
      refine Turns.then ((State.setReg_only ..).settles (by decide)) ?_
      refine Turns.then (Only.settles (Only.with_twin (d := [.twin]) (by decide) .refl) (by decide)) ?_
      exact State.enterLit_turns s h.1.1.2
    · exact TurnsNext.next .refl
  · exact TurnsNext.next .refl

theorem execConfigLoad_turns (s : State) : TurnsNext s (execConfigLoad s) := by
  unfold execConfigLoad
  split
  · exact TurnsNext.next .refl
  · rename_i hc
    extract_lets y z s1 s2
    have h1 : Only [.regs, .doms, .rst, .flagged] s s1 := by
      simp only [s1]
      split
      · exact Only.mono (State.takeSettings_only ..) (by decide)
      · exact Only.with_rst (by decide) (Only.mono (State.setBits_only ..) (by decide))
    have hst : s.mode = .dark := by
      by_contra hx
      exact hc (.inr (.inr hx))
    have o2 : Only [.regs, .doms, .rst, .lantern, .pins, .igrel, .ylog, .out, .flagged] s s2 :=
      Only.step (State.firstConfigured_only ..) (by decide)
        (Only.step (State.takeShadows_only ..) (by decide) (Only.step (State.ringCredits_only ..) (by decide) (h1.mono (by decide))))
    have h2 : Settles s s2 := Settles.step (State.firstConfigured_settles ..)
      (Settles.step ((State.takeShadows_only ..).settles (by decide))
        (Settles.step ((State.ringCredits_only ..).settles (by decide)) (h1.settles (by decide))))
    have hm2 : s2.mode = s.mode := o2.agree .mode (by decide)
    split
    · exact TurnsNext.next h2.turns
    · exact TurnsNext.next (Turns.after h2 hm2 (State.enterKindle_turns s2 (hm2.trans hst)))

theorem execClose_turns (h : Hdr) (payload : List Byte) (s : State) : TurnsNext s (execClose h payload s) :=
  TurnsNext.next (State.receive_turns ..)

/-- What sees VPP_FUSE first. -/
theorem State.seeVpp_turns (s : State) (vppOk : Bool) {u : State} (h : Turns (s.seeVpp vppOk) u) : Turns s u :=
  Turns.after ((State.seeVpp_only ..).settles (by decide)) ((State.seeVpp_only ..).agree .mode (by decide)) h

theorem execRead_turns (h : Hdr) (payload : List Byte) (vppOk : Bool) (s : State) : TurnsNext s (execRead h payload vppOk s) :=
  TurnsNext.next (State.seeVpp_turns s vppOk (State.receive_turns ..))

theorem State.takeForward_turns (s : State) (p : List Byte) : Turns s (s.takeForward p) := by
  unfold State.takeForward
  extract_lets key value
  split
  · exact .refl
  · refine Turns.ite (fun _ => .refl) (fun _ => Turns.ite (fun _ => Turns.ite (fun _ => (State.publish_settles ..).turns) (fun _ => .refl)) (fun _ => ?_))
    refine Turns.ite (fun _ => .refl) (fun _ => Turns.ite (fun _ => ((State.takeContent_only ..).settles (by decide)).turns) (fun _ => State.writeEffect_turns ..))

theorem execWrite_turns (h : Hdr) (payload : List Byte) (vppOk forwarded : Bool) (s : State) :
    TurnsNext s (execWrite h payload vppOk forwarded s) :=
  TurnsNext.next (Turns.ite (fun _ => State.seeVpp_turns s vppOk (State.takeForward_turns ..))
    (fun _ => State.seeVpp_turns s vppOk (State.receive_turns ..)))

theorem State.takeDatagram_turns (s : State) (d : Datagram) : Turns s (s.takeDatagram d) := by
  have drop : Turns s s.dropPacket := ((State.dropPacket_only ..).settles (by decide)).turns
  unfold State.takeDatagram
  extract_lets p ty body
  refine Turns.ite (fun _ => .refl) (fun _ => Turns.ite (fun _ => drop) (fun _ => ?_))
  refine Turns.ite (fun _ => Turns.ite (fun _ => ((State.takeHello_only ..).settles (by decide)).turns) (fun _ => drop)) (fun _ => ?_)
  refine Turns.ite (fun _ => Turns.ite (fun _ => ((State.takeProof_only ..).settles (by decide)).turns) (fun _ => drop)) (fun _ => ?_)
  exact Turns.ite (fun _ => drop) (fun _ => State.receive_turns ..)

theorem execIgrelDrop_turns (d : Datagram) (s : State) : TurnsNext s (execIgrelDrop d s) := TurnsNext.next (State.takeDatagram_turns ..)

theorem execDescribe_turns (h : Hdr) (payload : List Byte) (s : State) : TurnsNext s (execDescribe h payload s) :=
  TurnsNext.next (State.receive_turns ..)

theorem execBlockStart_turns (h : Hdr) (payload : List Byte) (s : State) : TurnsNext s (execBlockStart h payload s) :=
  TurnsNext.next (State.receive_turns ..)

theorem execBlockSegment_turns (h : Hdr) (payload : List Byte) (s : State) : TurnsNext s (execBlockSegment h payload s) :=
  TurnsNext.next (State.receive_turns ..)

theorem execBlockAck_turns (h : Hdr) (payload : List Byte) (s : State) : TurnsNext s (execBlockAck h payload s) :=
  TurnsNext.next (State.receive_turns ..)

theorem execBlockEnd_turns (h : Hdr) (payload : List Byte) (s : State) : TurnsNext s (execBlockEnd h payload s) :=
  TurnsNext.next (State.receive_turns ..)

theorem execSubscribe_turns (h : Hdr) (payload : List Byte) (s : State) : TurnsNext s (execSubscribe h payload s) :=
  TurnsNext.next (State.receive_turns ..)

theorem execBlockResetWrite_turns (h : Hdr) (v : Nat) (s : State) : TurnsNext s (execBlockResetWrite h v s) :=
  TurnsNext.next (State.send_turns ..)

theorem execModeRequestKindle_turns (h : Hdr) (s : State) : TurnsNext s (execModeRequestKindle h s) :=
  TurnsNext.next (State.send_turns ..)

theorem execModeRequestPilot_turns (h : Hdr) (s : State) : TurnsNext s (execModeRequestPilot h s) :=
  TurnsNext.next (State.send_turns ..)

theorem execModeRequestTrim_turns (h : Hdr) (s : State) : TurnsNext s (execModeRequestTrim h s) :=
  TurnsNext.next (State.send_turns ..)

theorem execModeRequestLit_turns (h : Hdr) (s : State) : TurnsNext s (execModeRequestLit h s) :=
  TurnsNext.next (State.send_turns ..)

theorem execModeRequestSnuff_turns (h : Hdr) (s : State) : TurnsNext s (execModeRequestSnuff h s) :=
  TurnsNext.next (State.send_turns ..)

theorem execSnuffCauseClear_turns (h : Hdr) (v : Nat) (s : State) : TurnsNext s (execSnuffCauseClear h v s) :=
  TurnsNext.next (State.send_turns ..)

theorem execResetCauseClear_turns (h : Hdr) (v : Nat) (s : State) : TurnsNext s (execResetCauseClear h v s) :=
  TurnsNext.next (State.send_turns ..)

theorem execResetRequest_turns (h : Hdr) (v : Nat) (s : State) : TurnsNext s (execResetRequest h v s) :=
  TurnsNext.next (State.send_turns ..)

theorem execFusePadProgram_turns (h : Hdr) (v : Nat) (vppOk : Bool) (s : State) : TurnsNext s (execFusePadProgram h v vppOk s) :=
  TurnsNext.next (State.seeVpp_turns s vppOk (State.send_turns ..))

theorem execFusePadCodeRead_turns (h : Hdr) (s : State) : TurnsNext s (execFusePadCodeRead h s) :=
  TurnsNext.next (State.receive_turns ..)

theorem execFuseLock_turns (h : Hdr) (v : Nat) (vppOk : Bool) (s : State) : TurnsNext s (execFuseLock h v vppOk s) :=
  TurnsNext.next (State.seeVpp_turns s vppOk (State.send_turns ..))

theorem execConfigSave_turns (h : Hdr) (v : Nat) (s : State) : TurnsNext s (execConfigSave h v s) :=
  TurnsNext.next (State.send_turns ..)

theorem execFwSlotWrite_turns (h : Hdr) (s : State) : TurnsNext s (execFwSlotWrite h s) :=
  TurnsNext.next (State.sendEnd_turns ..)

theorem execFsiMinClear_turns (h : Hdr) (v : Nat) (s : State) : TurnsNext s (execFsiMinClear h v s) :=
  TurnsNext.next (State.send_turns ..)

theorem execW1cClear_turns (h : Hdr) (key : Nat) (v : Nat) (s : State) : TurnsNext s (execW1cClear h key v s) := by
  unfold execW1cClear
  split
  · exact TurnsNext.next (State.send_turns ..)
  · exact TurnsNext.next .refl

theorem execStoreFlush_turns (h : Hdr) (v : Nat) (s : State) : TurnsNext s (execStoreFlush h v s) :=
  TurnsNext.next (State.send_turns ..)

theorem execRingMapWrite_turns (h : Hdr) (s : State) : TurnsNext s (execRingMapWrite h s) :=
  TurnsNext.next (State.sendEnd_turns ..)

theorem execContextImageWrite_turns (h : Hdr) (s : State) : TurnsNext s (execContextImageWrite h s) :=
  TurnsNext.next (State.sendEnd_turns ..)

theorem execHealthEdit_turns (h : Hdr) (s : State) : TurnsNext s (execHealthEdit h s) :=
  TurnsNext.next (State.sendEnd_turns ..)

theorem execPlacementTrimWrite_turns (h : Hdr) (s : State) : TurnsNext s (execPlacementTrimWrite h s) :=
  TurnsNext.next (State.sendEnd_turns ..)

theorem execEncoderEnable_turns (h : Hdr) (ch : Fin 2) (v : Nat) (s : State) : TurnsNext s (execEncoderEnable h ch v s) :=
  TurnsNext.next (State.send_turns ..)

theorem execMaintStart_turns (h : Hdr) (v : Nat) (s : State) : TurnsNext s (execMaintStart h v s) :=
  TurnsNext.next (State.send_turns ..)

theorem execSwapRequest_turns (h : Hdr) (v : Nat) (s : State) : TurnsNext s (execSwapRequest h v s) :=
  TurnsNext.next (State.send_turns ..)

theorem execCameraCommit_turns (h : Hdr) (c : Fin 8) (v : Nat) (s : State) : TurnsNext s (execCameraCommit h c v s) :=
  TurnsNext.next (State.send_turns ..)

theorem execUartTx_turns (h : Hdr) (s : State) : TurnsNext s (execUartTx h s) :=
  TurnsNext.next (State.sendEnd_turns ..)

theorem execTapSelect_turns (h : Hdr) (v : Nat) (s : State) : TurnsNext s (execTapSelect h v s) :=
  TurnsNext.next (State.send_turns ..)

theorem execUploadRequest_turns (h : Hdr) (s : State) : TurnsNext s (execUploadRequest h s) :=
  TurnsNext.next (State.sendEnd_turns ..)

theorem execScanRequest_turns (h : Hdr) (s : State) : TurnsNext s (execScanRequest h s) :=
  TurnsNext.next (State.sendEnd_turns ..)

theorem execRunningWrite_turns (h : Hdr) (u : Fin 16) (v : Nat) (s : State) : TurnsNext s (execRunningWrite h u v s) :=
  TurnsNext.next (State.send_turns ..)

theorem execFreqSelect_turns (h : Hdr) (v : Nat) (s : State) : TurnsNext s (execFreqSelect h v s) :=
  TurnsNext.next (State.send_turns ..)

theorem execBankSwap_turns (h : Hdr) (i : Fin 48) (v : Nat) (s : State) : TurnsNext s (execBankSwap h i v s) :=
  TurnsNext.next (State.send_turns ..)

theorem execLoopSetpoint_turns (h : Hdr) (i : Fin 48) (v : Nat) (s : State) : TurnsNext s (execLoopSetpoint h i v s) :=
  TurnsNext.next (State.send_turns ..)

theorem execLoopEnable_turns (h : Hdr) (i : Fin 48) (v : Nat) (s : State) : TurnsNext s (execLoopEnable h i v s) :=
  TurnsNext.next (State.send_turns ..)

theorem execTarget_turns (h : Hdr) (axis : Fin 4) (v : Nat) (s : State) : TurnsNext s (execTarget h axis v s) :=
  TurnsNext.next (State.send_turns ..)

theorem execHome_turns (h : Hdr) (axis : Fin 4) (v : Nat) (s : State) : TurnsNext s (execHome h axis v s) :=
  TurnsNext.next (State.send_turns ..)

theorem execAxisStop_turns (h : Hdr) (axis : Fin 4) (v : Nat) (s : State) : TurnsNext s (execAxisStop h axis v s) :=
  TurnsNext.next (State.send_turns ..)

theorem execStopAll_turns (h : Hdr) (v : Nat) (s : State) : TurnsNext s (execStopAll h v s) :=
  TurnsNext.next (State.send_turns ..)

theorem execTimeSet_turns (h : Hdr) (v : Nat) (s : State) : TurnsNext s (execTimeSet h v s) :=
  TurnsNext.next (State.send_turns ..)

theorem execTimeStep_turns (h : Hdr) (v : Nat) (s : State) : TurnsNext s (execTimeStep h v s) :=
  TurnsNext.next (State.send_turns ..)

theorem execRateTrim_turns (h : Hdr) (v : Nat) (s : State) : TurnsNext s (execRateTrim h v s) :=
  TurnsNext.next (State.send_turns ..)

theorem execFreezeNow_turns (h : Hdr) (v : Nat) (s : State) : TurnsNext s (execFreezeNow h v s) :=
  TurnsNext.next (State.send_turns ..)

theorem execUnfreeze_turns (h : Hdr) (v : Nat) (s : State) : TurnsNext s (execUnfreeze h v s) :=
  TurnsNext.next (State.send_turns ..)

end Sys2Proof.Machine
end

