-- ==== Sys2Proof/Laws/Writes.lean ====
section
/-! SUPPORT. A WRITE that passes every check: what the request becomes, said once for every object. -/

namespace Sys2Proof.Machine

theorem fromLe_le (n v : Nat) : fromLe (le n v) = v % 2 ^ (8 * n) := by
  induction n generalizing v with
  | zero => simp [le, fromLe, Nat.mod_one]
  | succ n ih =>
    have h : 2 ^ (8 * (n + 1)) = 256 * 2 ^ (8 * n) := by rw [Nat.mul_add, Nat.pow_add]; omega
    rw [le, fromLe, ih, h, Nat.mod_mul]
    simp [BitVec.toNat_ofNat]

@[simp] theorem le_length (n v : Nat) : (le n v).length = n := by
  induction n generalizing v with
  | zero => rfl
  | succ n ih => simp [le, ih]

theorem field_le (l r : List Byte) (n v : Nat) : field (l ++ (le n v ++ r)) l.length n = v % 2 ^ (8 * n) := by
  unfold field
  rw [List.drop_left, List.take_left' (le_length n v), fromLe_le]

theorem findObj_row {key : Nat} {r : Dict.ObjRow} (h : findObj key = .ok r) : Dict.indexExists (key / 256) = true ∧ Dict.row key = some r := by
  unfold findObj at h
  split at h
  · rename_i hi
    split at h
    · rename_i r' hr
      cases h
      exact ⟨hi, hr⟩
    · cases h
  · cases h

theorem indexExists_lt {i : Nat} (h : Dict.indexExists i = true) : i < 0x4000 := by
  by_contra hn
  have : Dict.rowsAt i = [] := by
    unfold Dict.rowsAt
    repeat rw [if_neg (by omega)]
  simp [Dict.indexExists, this] at h

theorem Ty_code_lt (ty : Dict.Ty) : ty.code < 256 := by cases ty <;> decide
theorem Ty_bytes_lt (ty : Dict.Ty) : ty.bytes < 65536 := by cases ty <;> decide

/-- The payload of a WRITE is read as it was written. -/
theorem parseWrite_writePayload {key v : Nat} {r : Dict.ObjRow} (h : findObj key = .ok r) :
    parseWrite (writePayload key v) = some { key := key, ty := r.ty.code, value := le r.ty.bytes v } := by
  obtain ⟨hi, hr⟩ := findObj_row h
  have hlt := indexExists_lt hi
  have hb := Ty_bytes_lt r.ty
  have hc := Ty_code_lt r.ty
  have hp : writePayload key v = le 2 (key / 256) ++ (le 1 (key % 256) ++ (le 1 r.ty.code ++ (le 2 r.ty.bytes ++ (zeros 2 ++ le r.ty.bytes v)))) := by
    simp [writePayload, hr]
  have hz : zeros 2 = le 2 0 := by decide
  have f0 : field (writePayload key v) 0 2 = key / 256 := by
    have := field_le [] (le 1 (key % 256) ++ (le 1 r.ty.code ++ (le 2 r.ty.bytes ++ (zeros 2 ++ le r.ty.bytes v)))) 2 (key / 256)
    rw [hp]
    exact this.trans (Nat.mod_eq_of_lt (show key / 256 < 2 ^ (8 * 2) by omega))
  have f2 : field (writePayload key v) 2 1 = key % 256 := by
    have := field_le (le 2 (key / 256)) (le 1 r.ty.code ++ (le 2 r.ty.bytes ++ (zeros 2 ++ le r.ty.bytes v))) 1 (key % 256)
    rw [hp]
    simpa using this
  have f3 : field (writePayload key v) 3 1 = r.ty.code := by
    have := field_le (le 2 (key / 256) ++ le 1 (key % 256)) (le 2 r.ty.bytes ++ (zeros 2 ++ le r.ty.bytes v)) 1 r.ty.code
    rw [hp]
    rw [Nat.mod_eq_of_lt (show r.ty.code < 2 ^ (8 * 1) by omega)] at this
    simpa using this
  have f4 : field (writePayload key v) 4 2 = r.ty.bytes := by
    have := field_le (le 2 (key / 256) ++ (le 1 (key % 256) ++ le 1 r.ty.code)) (zeros 2 ++ le r.ty.bytes v) 2 r.ty.bytes
    rw [hp]
    rw [Nat.mod_eq_of_lt (show r.ty.bytes < 2 ^ (8 * 2) by omega)] at this
    simpa using this
  have f6 : field (writePayload key v) 6 2 = 0 := by
    have := field_le (le 2 (key / 256) ++ (le 1 (key % 256) ++ (le 1 r.ty.code ++ le 2 r.ty.bytes))) (le r.ty.bytes v) 2 0
    rw [hp, hz]
    simpa using this
  have hl : (writePayload key v).length = 8 + r.ty.bytes := by
    rw [hp]
    simp [zeros]
    omega
  have hd : (writePayload key v).drop 8 = le r.ty.bytes v := by
    have e : writePayload key v =
        (le 2 (key / 256) ++ (le 1 (key % 256) ++ (le 1 r.ty.code ++ (le 2 r.ty.bytes ++ zeros 2)))) ++ le r.ty.bytes v := by
      rw [hp]; simp
    rw [e]
    exact List.drop_left' (by simp [zeros])
  unfold parseWrite
  rw [f0, f2, f3, f4, f6, hl, hd, if_pos ⟨by omega, by omega, rfl⟩]
  congr 2
  omega

/-- A WRITE that passes every check: its effect on the state that has seen its packet, the primary's forwarding of it, and its answer. -/
theorem State.send_admits {s : State} {h : Hdr} {key v : Nat} {r : Dict.ObjRow} (ha : s.admits h key v) (hr : findObj key = .ok r)
    (hk : key ≠ Obj.fusePadProgram) :
    s.send h key v = (((s.sawPacket h).writeEffect key (storedBits r.ty v)).forwardWrite key (le r.ty.bytes (storedBits r.ty v))).answer h
      0x11 (writePayload key v) (.ok []) := by
  obtain ⟨x, r', ⟨-, hrec, hrun, hs, hseq, hkept, hslot⟩, hr', hv, hf⟩ := ha
  rw [hr] at hr'
  cases hr'
  have hid : x.id = h.sess := by
    have := List.find?_some hs
    simp at this
    exact this.1
  unfold State.send State.receive
  simp only [hrec, hrun, Bool.false_eq_true, if_false, Bool.true_eq_false]
  unfold State.inSlot State.inSession
  rw [hs]
  simp only [hseq, if_true, hkept, hid]
  have hslot' : State.noSlot { s with igrel := s.igrel.modify h.sess (fun y => y.seen h.seq) } h.sess = false := hslot
  rw [hslot']
  simp only [Bool.false_and, Bool.false_eq_true, if_false]
  unfold State.runWriteOf
  rw [parseWrite_writePayload hr]
  simp only [State.runWrite, hr]
  have hf' : State.writeFault { s with igrel := s.igrel.modify h.sess (fun y => y.seen h.seq) } x.level r
    { key := key, ty := r.ty.code, value := le r.ty.bytes v } = none := hf
  rw [hf']
  simp only [State.acceptWrite, if_neg hk, fromLe_le, Nat.mod_eq_of_lt hv]
  rfl

/-- So the command answers a next state that differs from the write's effect in what is sent and in the session alone. -/
theorem State.send_effect {s : State} {h : Hdr} {key v : Nat} {r : Dict.ObjRow} (ha : s.admits h key v) (hr : findObj key = .ok r)
    (hk : key ≠ Obj.fusePadProgram) :
    ∃ e, e = (s.sawPacket h).writeEffect key (storedBits r.ty v) ∧ Only [.igrel, .out] e (s.send h key v) := by
  refine ⟨_, rfl, ?_⟩
  rw [State.send_admits ha hr hk]
  exact Only.step (State.answer_only ..) (by decide) ((State.forwardWrite_only ..).mono (by decide))

end Sys2Proof.Machine
end

