-- ==== Sys2Proof/WellFormed.lean ====
section
/-! DEFINITION. What can be sent: the commands whose operands fit the fields that carry them. -/

namespace Sys2Proof

/-- A source address: IPv4 address and UDP port. -/
def Src.wf (x : Src) : Bool := decide (x.ip < 2 ^ 32) && decide (x.port < 2 ^ 16)

/-- Header fields fit their widths; session IDs run from 0 to 8 (05 R98). -/
def Hdr.wf (h : Hdr) : Bool := h.src.wf && decide (h.sess ≤ 8) && decide (h.seq < 2 ^ 32) && decide (h.tag < 2 ^ 16)

/-- A value fits `w` bits. -/
def fits (w v : Nat) : Bool := decide (v < 2 ^ w)

/-- An Igrel payload (05 R98). -/
def payloadWf (p : List Byte) : Bool := decide (p.length ≤ 1440)

/-- A request to the Wick names a pool, and its peak is no more than it asks for. -/
def WickReq.wf (r : WickReq) : Bool :=
  (r.core.isSome || r.head.isSome || r.mach.isSome) &&
    [r.core, r.head, r.mach].all (fun e => match e with
      | none => true
      | some x => decide (r.peak ≤ x))

/-- A training sweep: its set and lane, and in each run 8 Vref codes of 128 steps each (17 R376). -/
def Sweep.wf (x : Sweep) : Bool :=
  fits 1 x.set && decide (x.lane < 8) &&
    [x.run1, x.run2].all (fun r => decide (r.length = 8) && r.all (fun v => fits 8 v.code && fits 128 v.passes))

/-- Whether a command is well formed. -/
def Instr.wf : Instr → Bool
  | .powerOnReset => true
  | .pinReset => true
  | .watchdogExpiry => true
  | .snuffEscReset _ => true
  | .supplyBrownout _ => true
  | .refClkLoss => true
  | .igrelReset => true
  | .resetRelease roles _ => decide (roles.length = 16) && roles.all (fits 2)
  | .pllLock => true
  | .serviceCoreRelease => true
  | .bootRomVerify _ => true
  | .bootRetry => true
  | .configLoad => true
  | .blockResetWrite h v => h.wf && fits 32 v
  | .blockRelease _ v => decide (v.pclkKhz.length = 2)
  | .releasePended _ => true
  | .firmwareTick => true
  | .fsiSample sites => decide (sites.length = 4) && sites.all (fits 16)
  | .dieTempSample _ t => decide (-32768 ≤ t) && decide (t ≤ 32767)
  | .cdcStall crossing _ => fits 8 crossing
  | .modeRequestKindle h => h.wf
  | .modeRequestPilot h => h.wf
  | .modeRequestTrim h => h.wf
  | .modeRequestLit h => h.wf
  | .modeRequestSnuff h => h.wf
  | .litStopComplete => true
  | .stopSuppressTimeout _ => true
  | .snuffEntry => true
  | .safeStopAssert => true
  | .safeStopRelease => true
  | .snuffCauseClear h v => h.wf && fits 32 v
  | .headPwrDrop => true
  | .headSettleExpiry => true
  | .resetCauseClear h v => h.wf && fits 16 v
  | .resetRequest h v => h.wf && fits 8 v
  | .fusePadProgram h v _ => h.wf && fits 8 v
  | .fuseProgramComplete blown => fits 2 blown
  | .fusePadCodeRead h => h.wf
  | .fuseLock h v _ => h.wf && fits 8 v
  | .jtagExtest => true
  | .jtagClamp => true
  | .jtagIdcode => true
  | .jtagSamplePreload _ => true
  | .jtagHighz => true
  | .jtagBypass code => fits 6 code
  | .jtagTapReset => true
  | .igrelDrop d => d.src.wf && fits 32 d.ip && fits 16 d.port
  | .hello src tag level _ => src.wf && fits 16 tag && fits 8 level
  | .proof src tag sess _ => src.wf && fits 16 tag && fits 8 sess
  | .reservationLapse sess => decide (1 ≤ sess) && decide (sess ≤ 8)
  | .authLockoutExpiry ip => fits 32 ip
  | .close h p => h.wf && payloadWf p
  | .sessionIdleTimeout sess => decide (1 ≤ sess) && decide (sess ≤ 8)
  | .read h p _ => h.wf && payloadWf p
  | .write h p _ _ => h.wf && payloadWf p
  | .describe h p => h.wf && payloadWf p
  | .blockStart h p => h.wf && payloadWf p
  | .blockSegment h p => h.wf && payloadWf p
  | .blockAck h p => h.wf && payloadWf p
  | .blockEnd h p => h.wf && payloadWf p
  | .blockTimeout sess tag => decide (sess ≤ 8) && fits 16 tag
  | .subscribe h p => h.wf && payloadWf p
  | .telemetrySend sess _ => decide (1 ≤ sess) && decide (sess ≤ 8)
  | .configSave h v => h.wf && fits 8 v
  | .fwSlotWrite h => h.wf
  | .fsiMinClear h v => h.wf && fits 8 v
  | .w1cClear h key v => h.wf && fits 24 key && fits 8 v
  | .arpRequest mac ip asked => fits 48 mac && fits 32 ip && fits 32 asked
  | .icmpEchoRequest src _ => fits 32 src
  | .rasterLinkUp trained _ => decide (trained.length = 8)
  | .rasterLaneLoss _ _ errors => fits 32 errors
  | .rasterPacketDrop errors lanes => errors.all (fits 32) && decide (lanes.length = 4 ∨ lanes.length = 8)
  | .block stream _ => fits 8 stream
  | .commit _ => true
  | .creditPeriodExpiry => true
  | .storeFlush h v => h.wf && fits 8 v
  | .ringMapWrite h => h.wf
  | .taperLineRequest _ => true
  | .decodeLine _ => true
  | .contextRewind _ => true
  | .contextImageWrite h => h.wf
  | .stripCorrect _ => true
  | .wickLineDecision => true
  | .lineFrameSend _ => true
  | .healthEdit h => h.wf
  | .healthSwap => true
  | .healthOverwriteDone => true
  | .placementTrimWrite h => h.wf
  | .encoderEdge _ pins => decide (pins.length ≤ 64)
  | .indexEdge _ pins => decide (pins.length ≤ 64)
  | .standstillTimeout _ => true
  | .encoderBlockExpiry => true
  | .encoderEnable h _ v => h.wf && fits 8 v
  | .armingStart => true
  | .lineArm _ => true
  | .strobeEdge _ => true
  | .strobeEnd _ => true
  | .strobeCut _ => true
  | .snufferEscalate _ _ => true
  | .maintStart h v => h.wf && fits 32 v
  | .maintLine => true
  | .headTrainReply _ slot _ => fits 8 slot
  | .headLaneTimeout _ => true
  | .status _ errors _ => fits 32 errors
  | .statusTimeout _ => true
  | .headLaneLoss _ _ errors => fits 32 errors
  | .ctrlResendTimeout _ => true
  | .headLaneRetrain _ => true
  | .recoverTimeExpiry _ => true
  | .timeFrameSend => true
  | .twinLinkUp _ _ _ => true
  | .twinLaneLoss _ errors => fits 32 errors
  | .twinFrameDrop errors => errors.all (fits 32)
  | .heartbeatSend => true
  | .heartbeat _ => true
  | .heartbeatTimeout => true
  | .roleDecisionTimeout => true
  | .decision seq _ _ => fits 32 seq
  | .lineStateSend => true
  | .lineState _ => true
  | .lineStateTimeout _ => true
  | .twinAliveLow => true
  | .twinAliveHigh => true
  | .publish gen line recs => fits 32 gen && fits 32 line && recs.all (fits 21)
  | .findingMessage recs => recs.all (fits 21)
  | .modeMessage mode line => fits 8 mode && fits 32 line
  | .snuffAll causes => fits 32 causes
  | .swapRequest h v => h.wf && fits 8 v
  | .swapMessage line page => fits 32 line && fits 32 page
  | .roleSwapComplete => true
  | .promoted lines => lines.all (fits 32)
  | .twinResetRequest => true
  | .joinReq rev fw digest => fits 16 rev && fits 32 fw && fits 32 digest
  | .joinPlan snapshot line => fits 32 snapshot && fits 32 line
  | .joinSnapshot => true
  | .joinImage images gen map =>
    images.all (fun x => decide (x.1 < 160) && decide (x.2.length = 2064)) && fits 32 gen &&
      map.all (fun x => decide (x.1 < 2 ^ 18) && fits 4 x.2)
  | .joinReady => true
  | .joinCounters counters => counters.all (fun x => fits 24 x.1 && fits 64 x.2)
  | .joinRetry => true
  | .joinEnterLit => true
  | .cameraFrameStart _ => true
  | .cameraTrigger _ => true
  | .cameraLine _ line => line.words.all (fits 16)
  | .cameraFrameEnd _ => true
  | .cameraFrameTimeout _ _ => true
  | .cameraCommit h _ v => h.wf && fits 8 v
  | .uartTx h => h.wf
  | .uartTransfer _ => true
  | .uartRxDone _ _ => true
  | .tapSelect h v => h.wf && fits 16 v
  | .ledShortTest run1 run2 => [run1, run2].all (fun r => fits 24 r.idle && decide (r.driven.length = 24) && r.driven.all (fits 24))
  | .flushTimeExpiry _ => true
  | .chunkCompress _ => true
  | .uploadPacketSend => true
  | .uploadCreditGrant ch v => fits 8 ch && fits 32 v
  | .uploadResend ch v => fits 8 ch && fits 32 v
  | .uploadAck ch v => fits 8 ch && fits 32 v
  | .uploadEntryDropped ch v => fits 8 ch && fits 32 v
  | .ackTimeoutExpiry _ => true
  | .uploadRequest h => h.wf
  | .scanRequest h => h.wf
  | .scanComplete => true
  | .runningWrite h _ v => h.wf && fits 32 v
  | .scrubBlock _ => true
  | .dramCe addr word _ _ => fits 64 addr && fits 64 word
  | .dramUe addr _ stream blk word _ => fits 64 addr && fits 8 stream && fits 32 blk && fits 64 word
  | .rtPanicRaise _ held => fits 32 held
  | .rtPanicClear held => decide (held.length = 128) && held.all (fits 32)
  | .mr4Poll code _ => fits 8 code
  | .dramRefresh _ bank => decide (bank < 16)
  | .freqSelect h v => h.wf && fits 8 v
  | .dramFreqChange => true
  | .dramFreqChangeDone => true
  | .wickRequest r => r.wf
  | .wickDeferredGrant => true
  | .wickDeferTimeout _ => true
  | .headroomPublish => true
  | .loopSample _ => true
  | .spiSenseDone _ b => fits 32 b
  | .spiActuatorWrite _ => true
  | .loopFollowTimeout _ => true
  | .bankSwap h _ v => h.wf && fits 8 v
  | .loopSetpoint h _ v => h.wf && fits 32 v
  | .loopEnable h _ v => h.wf && fits 8 v
  | .target h _ v => h.wf && fits 32 v
  | .moveStart _ => true
  | .motionTick => true
  | .home h _ v => h.wf && fits 8 v
  | .axisStop h _ v => h.wf && fits 8 v
  | .stopAll h v => h.wf && fits 8 v
  | .chopperTrip _ _ ns => fits 32 ns
  | .chopperToffExpiry _ _ => true
  | .chopperBlankExpiry _ _ _ => true
  | .phaseOpenTimeout _ _ => true
  | .timeSet h v => h.wf && fits 80 v
  | .timeStep h v => h.wf && fits 64 v
  | .rateTrim h v => h.wf && fits 16 v
  | .ptpSyncSend => true
  | .ptpFollowUp => true
  | .ptpAnnounceSend => true
  | .ptpDelayReq domain identity seq => fits 8 domain && fits 80 identity && fits 16 seq
  | .ptpForeignAnnounce identity => fits 64 identity
  | .ptpTimestampVector _ msg => fits 16 msg
  | .calTemperature run1 run2 => decide (run1.length = 4) && decide (run2.length = 4)
  | .calFsi run1 run2 => decide (run1.length = 4) && decide (run2.length = 4)
  | .calTermination codes => codes.all (fun x => fits 8 x.1 && fits 8 x.2.1 && fits 8 x.2.2)
  | .calEqualiser unit s1 s2 => fits 8 unit && fits 8 s1 && fits 8 s2
  | .calChopper run1 run2 => decide (run1.length = 8) && decide (run2.length = 8)
  | .dramTraining sweeps => sweeps.all Sweep.wf
  | .eccFill => true
  | .kindleEnd => true
  | .freezeNow h v => h.wf && fits 8 v
  | .unfreeze h v => h.wf && fits 8 v
  | .supplyMonitorTrip => true

end Sys2Proof
end

