-- ==== Sys2Proof/Tests/Slice0.lean ====
section
/-! SUPPORT. Tests: ill-formed commands are refused, small checks of single operations, and for each statement a state that meets its
hypotheses. Expected values come from the spec's own words. -/

open Sys2Proof Sys2Proof.Machine

namespace Sys2Proof.Tests

set_option Elab.async false

/-! ### States -/

/-- The sender of every test packet. -/
def src : Src := { ip := 0x0A000001, port := 5000 }

/-- An open session of the highest level. -/
def sess1 : Session :=
  { id := 1, src := src, level := 2, reserved := false, nc := zeros 16, nd := zeros 16, key := zeros 32, rxHigh := 0, rxSeen := [],
    txNext := 1, kept := [], sub := none }

/-- The session as it waits for its proof. -/
def sess2 : Session := { sess1 with id := 2, reserved := true }

/-- The header of the first packet of the session. -/
def hdr : Hdr := { src := src, sess := 1, seq := 1, tag := 1 }

/-- A configured device in a mode, every block released, with an open session. -/
def dev (m : Mode) : State :=
  { State.reset.setReg Obj.blockReset 0 with mode := m, rst := { stage := .configured }, igrel := { sessions := [sess1, sess2] } }

/-- A device with objects written. -/
def devR (m : Mode) (l : List (Nat × Nat)) : State := (dev m).setRegs l

/-- PILOT with nothing in the way of LIT. -/
def primed : State :=
  { devR .pilot [(Obj.encEnable 0, 1), (Obj.fsiNow, 0xFFFF)] with
    pins := { headPwr := .high, settled := true },
    axes := [(0, { lost := false }), (1, { lost := false }), (2, { lost := false })] }

/-- A mate or primary with a healthy link. -/
def twin (r : Role) (m : Mode) : State :=
  { dev m with
    role := r, strapped := r, twin := { lane0 := true, lane1 := true, hbAt := some 0, healthyAtHb := true, digestOk := true },
    pins := { aliveIn := true } }

/-- The command answers a next state. -/
def runs (c : Instr) (s : State) : Bool :=
  match exec c s with
  | .next _ => true
  | _ => false

/-- A step answers a next state. -/
def steps (s : State) : Bool :=
  match step s with
  | .next _ => true
  | _ => false

/-- A request of the session is executed (the test of `State.hears`). -/
def heard (s : State) (h : Hdr) (p : List Byte) : Bool :=
  match s.session h.sess with
  | none => false
  | some x =>
    decide (h.sess ≠ 0) && !s.recovering && s.igrelRuns && x.newSeq h.seq && (x.keptReply h.tag p).isNone && !(s.sawPacket h).noSlot h.sess

theorem hears_of_heard {s : State} {h : Hdr} {p : List Byte} (e : heard s h p = true) : ∃ x, s.hears h p x := by
  unfold heard at e
  split at e
  · exact absurd e (by decide)
  · rename_i x hx
    simp only [Bool.and_eq_true, decide_eq_true_eq, Bool.not_eq_true', Option.isNone_iff_eq_none] at e
    obtain ⟨⟨⟨⟨⟨h1, h2⟩, h3⟩, h4⟩, h5⟩, h6⟩ := e
    exact ⟨x, h1, h2, h3, hx, h4, h5, h6⟩

theorem hears_of {s : State} {h : Hdr} {p : List Byte} {x : Session} (e : heard s h p = true) (hx : s.session h.sess = some x) :
    s.hears h p x := by
  obtain ⟨y, hy⟩ := hears_of_heard e
  have : some y = some x := hy.2.2.2.1.symm.trans hx
  cases this
  exact hy

/-- A write passes every check (the test of `State.admits`). -/
def takes (s : State) (h : Hdr) (key v : Nat) : Bool :=
  heard s h (writePayload key v) &&
    (match s.session h.sess, findObj key with
     | some x, .ok r => decide (v < 2 ^ (8 * r.ty.bytes)) &&
       ((s.sawPacket h).writeFault x.level r { key := key, ty := r.ty.code, value := le r.ty.bytes v }).isNone
     | _, _ => false)

theorem admits_of_takes {s : State} {h : Hdr} {key v : Nat} (e : takes s h key v = true) : s.admits h key v := by
  unfold takes at e
  rw [Bool.and_eq_true] at e
  obtain ⟨e1, e2⟩ := e
  obtain ⟨x, hx⟩ := hears_of_heard e1
  rw [hx.2.2.2.1] at e2
  split at e2
  · rename_i y r hy hr
    cases hy
    simp only [Bool.and_eq_true, decide_eq_true_eq, Option.isNone_iff_eq_none] at e2
    exact ⟨_, r, hx, hr, e2.1, e2.2⟩
  · exact absurd e2 (by decide)

/-- A block write of a content, every segment of it come. -/
def wr (key : Nat) (data : List Byte) : Transfer :=
  { src := src, sess := 1, tag := 1, key := key, reading := false, total := data.length, crc := crc32c data, data := data, next := 0,
    base := 0, oow := false }

/-- The state with that transfer open. -/
def openW (s : State) (key : Nat) (data : List Byte) : State := { s with igrel := { s.igrel with transfers := [wr key data] } }

/-- What a BLOCK_END, and its content's checks, ask of the state alone. -/
def endable (s : State) (key : Nat) : Bool :=
  match s.session 1, Dict.row key with
  | some x, some r => !s.recovering && s.igrelRuns && x.newSeq 1 && (x.keptReply 1 []).isNone && !(s.sawPacket hdr).writeConflict r key 0
  | _, _ => false

theorem ends_wr {s : State} {key : Nat} {data : List Byte} (ht : s.igrel.transfers = []) (hc : endable s key = true)
    (hok : (s.sawPacket hdr).contentOk key data = true) (hb : (s.sawPacket hdr).blockBusy key data = false) :
    ∃ x, (openW s key data).ends hdr x (wr key data) ∧ (((openW s key data).sawPacket hdr).dropTransfer 1 1).endFault (wr key data) = none := by
  unfold endable at hc
  split at hc
  · rename_i x r hx hr
    simp only [Bool.and_eq_true, Bool.not_eq_true', Option.isNone_iff_eq_none] at hc
    obtain ⟨⟨⟨⟨h1, h2⟩, h3⟩, h4⟩, h5⟩ := hc
    have e : ((openW s key data).sawPacket hdr).dropTransfer 1 1 = s.sawPacket hdr := by
      have : s.sawPacket hdr = { s.sawPacket hdr with igrel := { (s.sawPacket hdr).igrel with transfers := [] } } := by
        simp [State.sawPacket, Igrel.modify, ← ht]
      rw [this]; rfl
    refine ⟨x, ⟨by decide, h1, h2, hx, h3, h4, rfl, rfl⟩, ?_⟩
    rw [e]
    simp [State.endFault, wr, hr, firstFail, h5, hok, hb]
  · exact absurd hc (by decide)
/-! ### Well-formedness: an ill-formed term for each check -/

/-- A datagram, the clocks all settled, and a short test that finds nothing. -/
def whole : Datagram := { src := src, ip := 0, port := igrelPort, fragment := false, bytes := [] }

def view : ClockView :=
  { refKhz := 200000, pllLock := true, unlocked := [], pclkKhz := [0, 0], quiet := true, settled := List.replicate 8 (10 ^ 6) }

def reads : LedReads := { idle := 0, driven := (List.range 24).map (fun i => 2 ^ i) }

/-- A header whose session number is out of range. -/
def badHdr : Hdr := { hdr with sess := 9 }

theorem test_wf_header : ([{ hdr with sess := 9 }, { hdr with seq := 2 ^ 32 }, { hdr with tag := 2 ^ 16 },
    { hdr with src := { src with ip := 2 ^ 32 } }, { hdr with src := { src with port := 2 ^ 16 } }] : List Hdr).all (fun h => !h.wf) = true := by decide

theorem test_wf_header_of_requests : ([.blockResetWrite badHdr 0, .modeRequestKindle badHdr, .modeRequestPilot badHdr, .modeRequestTrim badHdr,
    .modeRequestLit badHdr, .modeRequestSnuff badHdr, .snuffCauseClear badHdr 0, .resetCauseClear badHdr 0, .resetRequest badHdr 0,
    .fusePadProgram badHdr 0 true, .fusePadCodeRead badHdr, .fuseLock badHdr 0 true, .close badHdr [], .read badHdr [] true, .write badHdr [] true false,
    .describe badHdr [], .blockStart badHdr [], .blockSegment badHdr [], .blockAck badHdr [], .blockEnd badHdr [], .subscribe badHdr [],
    .configSave badHdr 0, .fwSlotWrite badHdr, .fsiMinClear badHdr 0, .w1cClear badHdr 0 0, .storeFlush badHdr 0, .ringMapWrite badHdr,
    .contextImageWrite badHdr, .healthEdit badHdr, .placementTrimWrite badHdr, .encoderEnable badHdr 0 0, .maintStart badHdr 0,
    .swapRequest badHdr 0, .cameraCommit badHdr 0 0, .uartTx badHdr, .tapSelect badHdr 0, .uploadRequest badHdr, .scanRequest badHdr,
    .runningWrite badHdr 0 0, .freqSelect badHdr 0, .bankSwap badHdr 0 0, .loopSetpoint badHdr 0 0, .loopEnable badHdr 0 0,
    .target badHdr 0 0, .home badHdr 0 0, .axisStop badHdr 0 0, .stopAll badHdr 0, .timeSet badHdr 0, .timeStep badHdr 0,
    .rateTrim badHdr 0, .freezeNow badHdr 0, .unfreeze badHdr 0] : List Instr).all (fun c => !c.wf) = true := by decide +kernel

theorem test_wf_values : ([.blockResetWrite hdr (2 ^ 32), .snuffCauseClear hdr (2 ^ 32), .resetCauseClear hdr (2 ^ 16), .resetRequest hdr 256,
    .fusePadProgram hdr 256 true, .fuseLock hdr 256 true, .configSave hdr 256, .fsiMinClear hdr 256, .w1cClear hdr (2 ^ 24) 0, .w1cClear hdr 0 256,
    .storeFlush hdr 256, .encoderEnable hdr 0 256, .maintStart hdr (2 ^ 32), .swapRequest hdr 256, .cameraCommit hdr 0 256,
    .tapSelect hdr (2 ^ 16), .runningWrite hdr 0 (2 ^ 32), .freqSelect hdr 256, .bankSwap hdr 0 256, .loopSetpoint hdr 0 (2 ^ 32),
    .loopEnable hdr 0 256, .target hdr 0 (2 ^ 32), .home hdr 0 256, .axisStop hdr 0 256, .stopAll hdr 256, .timeSet hdr (2 ^ 80),
    .timeStep hdr (2 ^ 64), .rateTrim hdr (2 ^ 16), .freezeNow hdr 256, .unfreeze hdr 256] : List Instr).all (fun c => !c.wf) = true := by
  decide +kernel

/-- A payload longer than a packet. -/
def longPayload : List Byte := zeros 1441

theorem test_wf_payloads : ([.close hdr longPayload, .read hdr longPayload true, .write hdr longPayload true false, .describe hdr longPayload, .blockStart hdr longPayload,
    .blockSegment hdr longPayload, .blockAck hdr longPayload, .blockEnd hdr longPayload, .subscribe hdr longPayload] : List Instr).all
    (fun c => !c.wf) = true := by decide +kernel

theorem test_wf_igrel : ([.hello { src with ip := 2 ^ 32 } 0 0 [], .hello src (2 ^ 16) 0 [], .hello src 0 256 [],
    .proof { src with port := 2 ^ 16 } 0 1 [], .proof src (2 ^ 16) 1 [], .proof src 0 256 [], .reservationLapse 0, .reservationLapse 9,
    .authLockoutExpiry (2 ^ 32), .sessionIdleTimeout 0, .sessionIdleTimeout 9, .blockTimeout 9 0, .blockTimeout 1 (2 ^ 16),
    .telemetrySend 0 true, .telemetrySend 9 true, .arpRequest (2 ^ 48) 0 0, .arpRequest 0 (2 ^ 32) 0, .arpRequest 0 0 (2 ^ 32),
    .icmpEchoRequest (2 ^ 32) [], .igrelDrop { whole with ip := 2 ^ 32 }, .igrelDrop { whole with port := 2 ^ 16 },
    .igrelDrop { whole with src := { src with port := 2 ^ 16 } }] : List Instr).all (fun c => !c.wf) = true := by decide +kernel

theorem test_wf_events : ([.resetRelease [0] false, .resetRelease (List.replicate 16 4) false, .blockRelease 0 { view with pclkKhz := [] }, .fsiSample [1, 2, 3], .fsiSample [1, 2, 3, 2 ^ 16],
    .dieTempSample 0 (-32769), .dieTempSample 0 32768, .cdcStall 256 false, .fuseProgramComplete 4, .jtagBypass 64,
    .rasterLinkUp [true] false, .rasterLaneLoss 0 false (2 ^ 32), .rasterPacketDrop [] [[]], .rasterPacketDrop [2 ^ 32] [[], [], [], []],
    .status 0 (2 ^ 32) [], .headLaneLoss 0 false (2 ^ 32), .twinLaneLoss 0 (2 ^ 32), .twinFrameDrop [2 ^ 32],
    .encoderEdge 0 (List.replicate 65 (true, true)), .indexEdge 0 (List.replicate 65 true), .block 256 [], .headTrainReply 0 256 false, .decision (2 ^ 32) 0 .grant,
    .publish (2 ^ 32) 0 [], .publish 0 (2 ^ 32) [], .publish 0 0 [2 ^ 21], .findingMessage [2 ^ 21], .modeMessage 256 0,
    .modeMessage 3 (2 ^ 32), .snuffAll (2 ^ 32), .swapMessage (2 ^ 32) 0, .swapMessage 0 (2 ^ 32), .promoted [2 ^ 32],
    .joinReq (2 ^ 16) 0 0, .joinReq 0 (2 ^ 32) 0, .joinReq 0 0 (2 ^ 32), .joinPlan (2 ^ 32) 0, .joinPlan 0 (2 ^ 32),
    .joinImage [(160, zeros 2064)] 0 [], .joinImage [(0, [])] 0 [], .joinImage [] (2 ^ 32) [], .joinImage [] 0 [(2 ^ 18, 0)],
    .joinImage [] 0 [(0, 16)], .joinCounters [(2 ^ 24, 0)], .joinCounters [(0, 2 ^ 64)]] : List Instr).all (fun c => !c.wf) = true := by
  decide +kernel

/-- A run of a sweep: at code 20 steps 20 to 59 pass, and at the codes around it fewer. -/
def eye : List VrefSweep := (List.range 8).map (fun k => { code := 16 + k, passes := if k = 4 then 2 ^ 60 - 2 ^ 20 else 2 ^ 50 - 2 ^ 20 })

theorem test_wf_units : ([.cameraLine 0 { words := [2 ^ 16], lvalLow := 8, fvalLow := 16, fvalHigh := true }, .ledShortTest { reads with idle := 2 ^ 24 } reads,
    .ledShortTest { reads with driven := [] } reads, .ledShortTest reads { reads with driven := List.replicate 24 (2 ^ 24) }, .uploadCreditGrant 256 0,
    .uploadCreditGrant 0 (2 ^ 32), .uploadResend 256 0, .uploadResend 0 (2 ^ 32), .uploadAck 256 0, .uploadAck 0 (2 ^ 32),
    .uploadEntryDropped 256 0, .uploadEntryDropped 0 (2 ^ 32), .dramCe (2 ^ 64) 0 0 false, .dramCe 0 (2 ^ 64) 0 false,
    .dramUe (2 ^ 64) .scan 0 0 0 0, .dramUe 0 .scan 256 0 0 0, .dramUe 0 .scan 0 (2 ^ 32) 0 0, .dramUe 0 .scan 0 0 (2 ^ 64) 0,
    .rtPanicRaise 0 (2 ^ 32), .rtPanicClear [], .rtPanicClear (List.replicate 128 (2 ^ 32)), .mr4Poll 256 false, .dramRefresh 0 16,
    .wickRequest { who := .purgeSpit, core := none, head := none, mach := none, peak := 0 },
    .wickRequest { who := .purgeSpit, core := none, head := some 5, mach := none, peak := 6 }, .spiSenseDone 0 (2 ^ 32),
    .chopperTrip 0 .a (2 ^ 32), .ptpDelayReq 256 0 0, .ptpDelayReq 0 (2 ^ 80) 0, .ptpDelayReq 0 0 (2 ^ 16), .ptpForeignAnnounce (2 ^ 64),
    .ptpTimestampVector true (2 ^ 16), .calTemperature [] [0, 0, 0, 0], .calTemperature [0, 0, 0, 0] [], .calFsi [] [1, 1, 1, 1],
    .calFsi [1, 1, 1, 1] [], .calTermination [(256, 1, 1)], .calTermination [(0, 256, 1)], .calTermination [(0, 1, 256)],
    .calEqualiser 256 0 0, .calEqualiser 0 256 0, .calEqualiser 0 0 256, .calChopper [] [], .calChopper [0, 0, 0, 0, 0, 0, 0, 0] [],
    .dramTraining [⟨2, 0, true, eye, eye⟩], .dramTraining [⟨0, 8, true, eye, eye⟩], .dramTraining [⟨0, 0, true, [], eye⟩],
    .dramTraining [⟨0, 0, true, eye, eye.map (fun v => { v with passes := 2 ^ 128 })⟩],
    .dramTraining [⟨0, 0, true, eye.map (fun v => { v with code := 256 }), eye⟩]] : List Instr).all (fun c => !c.wf) = true := by decide +kernel

theorem test_wf_accepts : ([.powerOnReset, .resetRelease (List.replicate 16 3) false, .hello src 0 2 [], .read hdr (readPayload Obj.fsiNow) true,
    .blockRelease 0 view, .igrelDrop whole, .rasterPacketDrop [0] [[], [], [], []], .ledShortTest reads reads,
    .wickRequest { who := .purgeSpit, core := none, head := some 5, mach := none, peak := 5 }, .block 159 []] : List Instr).all
    Instr.wf = true := by decide +kernel

/-! ### No word spells a command: the table gives no row any bits -/

theorem test_no_word : ([(0, 0), (16, 0xFFFF), (32, 1)] : List (Nat × Nat)).all (fun x => (decodeTableWord x.1 x.2).isNone) = true := by decide

/-! ### The hypotheses of the statements can be met -/

theorem witness_IdleStepIsOneRefCycle : ((dev .lit).pending = [] ∧ (dev .lit).clock.refOn = true ∧ (dev .lit).blockUp Block.beacon = true) ∧
    (State.reset.pending = [] ∧ State.reset.clock.refOn = true ∧ State.reset.blockUp Block.beacon = false) ∧
    (let r : MemReq := { who := .scan, write := false, bursts := 2, at_ := 0 }
     let s : State := { dev .lit with dram := { urgent := [r] } }
     s.dram.urgent = [r] ∧ s.panics = false ∧ s.blockUp Block.dram = true ∧ s.selfRefresh = false) := by decide +kernel

theorem witness_CommandsLeaveTheQueue : runs .pinReset { dev .lit with pending := [.pinReset] } = true := by decide +kernel

theorem witness_StepKeepsTablesCanonical : (dev .pilot).canonical = true ∧ steps (dev .pilot) = true := by decide +kernel

/-- In LIT with BAR_FIRE_EN high. -/
def firing : State := { dev .lit with pins := { fireEn := .high } }

theorem witness_ModeChangesOnlyAsTheTableGives : firing.modeSafe = true ∧ steps firing = true := by decide +kernel

/-- TRIM with a maintenance pattern running. -/
def pattern : State :=
  { dev .trim with pins := { fireEn := .high }, taper := { maint := some { stream := 128, left := 1, running := true } } }

theorem witness_FireEnableOnlyInLitOrPattern : firing.modeSafe = true ∧ pattern.modeSafe = true ∧
    (match step firing with | .next t => decide (t.pins.fireEn = .high) | _ => false) = true ∧
    (match step pattern with | .next t => decide (t.pins.fireEn = .high) | _ => false) = true := by decide +kernel

theorem witness_BlownFusesStayBlown : steps { dev .dark with fuses := { blown := [(3, 2)] } } = true ∧
    (Table.get 0 [(3, 2)] 3).testBit 1 = true := by decide +kernel

theorem witness_BeaconStaysInRange : ({ sec := 2 ^ 48 - 1, ns := 999999999, frac := 2 ^ 24 - 1 } : Beacon).normal = true ∧
    steps (dev .pilot) = true := by decide +kernel

theorem witness_LogsStayBounded : (dev .lit).logsBounded = true ∧ steps (dev .lit) = true := by decide +kernel

/-- A device with no die sensor or source active, as it is when no reset stands. -/
def up : State := dev .snuff

theorem witness_EveryResetEntersDark : up.rst.asserted = false ∧ up.coreRuns = true ∧
    ({ up with pins := { fireEn := .high } } : State).pins.fireEn = .high ∧ ({ up with pins := { strobesHigh := [7] } } : State).pins.strobesHigh ≠ [] ∧
    ({ up with rst := { up.rst with snuffDone := false } } : State).rst.snuffDone = false ∧ up.clock.refOn = true ∧
    ({ up with rst := { up.rst with igrelDue := true } } : State).rst.igrelDue = true ∧
    ((twin .mate .pilot).setReg Obj.twinResetAccept 1).twinUp = true ∧ ((twin .mate .pilot).setReg Obj.twinResetAccept 1).isSet Obj.twinResetAccept = true ∧
    ((twin .mate .pilot).setReg Obj.twinResetAccept 1).soleSource = false ∧ (up.mode = .snuff) ∧
    (8000 : Int) ≤ 8000 ∧ up.rst.active.contains 6 = false := by decide +kernel

theorem witness_ResetSourcesJoinWhileAsserted : ({ up with rst := { asserted := true } } : State).rst.asserted = true ∧
    (twin .mate .pilot).twinUp = true ∧ (twin .mate .pilot).isSet Obj.twinResetAccept = false ∧ (twin .primary .lit).soleSource = true := by decide +kernel

/-- A device at a stage of the boot. -/
def booting (x : BootStage) : State := { State.reset with rst := { stage := x } }

theorem witness_BootSequence : (let s : State := { State.reset with rst := { asserted := true, active := [] } }
     s.rst.asserted = true ∧ s.rst.active.contains 6 = false) ∧
    ((booting .released).rst.stage = .released ∧ (booting .plls).rst.stage = .plls ∧ (booting .retryWait).rst.stage = .retryWait ∧
      (booting .rom).rst.stage = .rom ∧ (booting .firmware).rst.stage = .firmware) ∧
    (booting .rom).rst.asserted = false ∧ (booting .firmware).mode = .dark ∧
    slotFault (booting .rom).flash.slot0 ≠ 0 ∧ slotFault (booting .rom).flash.slot1 ≠ 0 ∧ (booting .firmware).flash.regs = none ∧
    ({ booting .firmware with rst := { stage := .firmware, held := true } } : State).rst.held = true ∧
    ({ booting .firmware with flash := { regs := some [] } } : State).flash.regs ≠ none := by decide +kernel

theorem witness_BlocksAreReleasedAndWatched :
    ((dev .pilot).setReg Obj.blockPended (2 ^ 16)).reg Obj.blockPended = 65536 ∧ (List.range 17).all (fun b => (dev .pilot).mayRelease b view) = true ∧
    ((dev .pilot).setReg Obj.blockPended 1).rst.pendLogged.contains 0 = false ∧ (dev .pilot).configured = true ∧ (dev .pilot).rst.modeDue = none ∧
    (devR .pilot [(Obj.speedState 0, 1)]).reg (Obj.speedState (devR .pilot [(Obj.speedState 0, 1)]).fireCh) = 1 ∧
    (let s := devR .pilot [(Obj.speedState 0, 1)]
     let fast := { s with enc := { s.enc with ch0 := { s.enc.ch0 with stamps := [1, 0], lastDir := some true } } }
     let unit := 1000000000000 * (fast.reg Obj.linePitch % 2 ^ 48)
     95 * unit ≤ 6553600 * ((fast.speed 0).natAbs * fast.reg Obj.headMinPeriod) ∧ 0 < unit ∧
       6553600 * ((s.speed 0).natAbs * s.reg Obj.headMinPeriod) < 92 * unit) := by decide +kernel

theorem witness_SensorsAndStalls : (2 ^ 16 - 1 < 2 ^ 16 ∧ (dev .pilot).mode ≠ .dark ∧ (dev .pilot).mode ≠ .kindle) ∧
    ((7999 : Int) < 8000 ∧ 7360 ≤ (7999 : Int) ∧ 3 < (dev .pilot).die.temps.length ∧ (dev .pilot).configured = true) ∧
    (dev .pilot).rst.asserted = false := by decide +kernel

theorem witness_SnuffEntryMakesTheDeviceSafe : ((devR .lit [(Obj.snuffCause, 1)]).mode.working = true ∧ (devR .lit [(Obj.snuffCause, 1)]).hasCause = true ∧
      (devR .lit [(Obj.snuffCause, 1)]).answered = true ∧ 1 &&& hardwareCauses ≠ 0) ∧
    ((twin .mate .trim).mode.working = true ∧ (twin .mate .trim).twinUp = true ∧ (twin .mate .trim).role = .mate) ∧
    (devR .lit [(Obj.headPwrHold, 0)]).reg Obj.headPwrHold = 0 := by decide +kernel

/-- A confirmed line with its edge placed. -/
def conf0 : Conf :=
  { seq := 0, page := 1, edge := some 5000, lag := 0, locked := false, late := false, lateArm := false, at_ := 0, demoted := false, gen := 0 }

/-- LIT, stopping. -/
def stopping : State := { dev .lit with taper := { stopping := true } }

theorem witness_StopsEndInPilot :
    (stopping.mode = .lit ∧ stopping.taper.stopping = true ∧ stopping.taper.unsettled = [] ∧ (∀ g, g < 8 → (stopping.group g).conf = none) ∧
      stopping.twin.swap = none ∧ stopping.answered = true) ∧
    (let s := stopping.setGroup 7 { conf := some conf0 }
     s.taper.stopping = true ∧ (s.group 7).conf = some conf0 ∧ s.taper.unsettled = [] ∧ s.role = .solo ∧ s.twin.swap = none ∧ s.twin.early = []) ∧
    (let s : State := { devR .kindle [(Obj.calResult, 0x5515)] with cal := { running := true, eccDone := true }, twin := { roleDecided := true } }
     s.kindleDone = true ∧ s.hasCause = false) := by decide +kernel

theorem witness_PinsAndCauses : (dev .lit).pins.safeStopLow = false ∧ (dev .snuff).mode = .snuff ∧
    ({ dev .pilot with pins := { headPwr := .high } } : State).pins.headPwr = .high := by decide +kernel

/-! `takes` and `heard` hold of exactly such states as `admits_of_takes` and `hears_of` say. -/

theorem witness_AcceptedWriteIsExecutedAndAnswered :
    (takes ((dev .pilot).seeVpp true) hdr Obj.leadTarget 32 = true ∧ (findObj Obj.leadTarget).isOk = true ∧ Obj.leadTarget ≠ Obj.fusePadProgram) ∧
    ((twin .mate .pilot).twinUp = true ∧ (twin .mate .pilot).role = .mate ∧ isLocal Obj.leadTarget = false ∧
      (match findObj Obj.leadTarget with | .ok r => decide (r.ty ≠ .domain ∧ 32 < 2 ^ (8 * r.ty.bytes)) | _ => false) = true) := by decide +kernel

theorem witness_RefusedWriteChangesNoSetting : heard (dev .kindle) hdr (writePayload Obj.leadTarget 32) = true ∧
    (match findObj Obj.leadTarget with
     | .ok r => decide (32 < 2 ^ (8 * r.ty.bytes)) && ((((dev .kindle).seeVpp false).sawPacket hdr).writeFault 2 r
       { key := Obj.leadTarget, ty := r.ty.code, value := le r.ty.bytes 32 }).any (fun b => b.counted)
     | _ => false) = true := by decide +kernel

/-- The default ring map stands, so the first clause's premise holds of this state. -/
theorem witness_rings : (dev .dark).dom Obj.ringMap = ringMapDefault ∧ ringMapOk (dev .dark).storeLimit ringMapDefault = true :=
  ⟨rfl, ringMapOk_default _ (by decide +kernel)⟩

theorem witness_ModeRequestsTurnTheMode :
    (takes (dev .dark) hdr Obj.modeRequest 1 = true ∧ 6979321856 ≤ (dev .dark).storeLimit ∧ (dev .dark).doms = []) ∧
    takes (dev .snuff) hdr Obj.modeRequest 2 = true ∧ takes (dev .trim) hdr Obj.modeRequest 2 = true ∧
    takes (dev .lit) hdr Obj.modeRequest 2 = true ∧ takes (dev .pilot) hdr Obj.modeRequest 3 = true ∧
    takes (dev .pilot) hdr Obj.modeRequest 5 = true ∧ takes (dev .pilot) hdr Obj.modeRequest 2 = true ∧
    (takes primed hdr Obj.modeRequest 4 = true ∧ primed.mode = .pilot ∧ primed.dram.setNow = 0 ∧ primed.dram.change = none) ∧
    takes (dev .trim) hdr Obj.modeRequest 3 = true ∧ takes (dev .lit) hdr Obj.modeRequest 4 = true ∧
    takes (dev .snuff) hdr Obj.modeRequest 5 = true ∧ ((dev .dark).answered = true ∧ primed.answered = true) ∧
    (let wait (s : State) : State := { s with igrel := { s.igrel with deferred := [{ h := { hdr with tag := 9 }, ty := 0x1B, payload := [] }] } }
     (wait (dev .dark)).answered = false ∧ takes (wait (dev .dark)) hdr Obj.modeRequest 1 = true ∧ takes (wait (dev .trim)) hdr Obj.modeRequest 2 = true ∧
      takes (wait (dev .pilot)) hdr Obj.modeRequest 3 = true ∧ takes (wait primed) hdr Obj.modeRequest 4 = true) := by decide +kernel


/-- Twins in LIT, healthy, this chip the primary, with the page that a swap begins at. -/
def swapping : State :=
  let s := twin .primary .lit
  { s with twin := { s.twin with partner := [2, 4] }, raster := { s.raster with pages := [{ id := 9, first := 2000, count := 50, last := [], fired := 0, skipped := 0 }] } }

theorem witness_ClearingAndResetWrites :
    (takes (devR .snuff [(Obj.snuffCause, 0x8FF)]) hdr Obj.snuffCauseClear 0xFFF = true ∧
      takes (devR .snuff [(Obj.snuffCause, 0x8FF)]) hdr Obj.snuffCauseClear 0 = true) ∧
    takes (devR .pilot [(Obj.resetCause, 3)]) hdr Obj.resetCauseClear 1 = true ∧
    (isW1c (Obj.encStatus 1) = true ∧ takes (devR .pilot [(Obj.encStatus 1, 3)]) hdr (Obj.encStatus 1) 1 = true) ∧
    takes (dev .dark) hdr Obj.resetRequest 0x5A = true ∧
    (takes (dev .dark) hdr Obj.blockReset 0x1FFFE = true ∧ takes ((dev .dark).setReg Obj.blockReset (2 ^ Block.upload)) hdr Obj.blockReset 0 = true) := by
  decide +kernel

theorem witness_FuseWrites :
    takes ((devR .dark [(Obj.bootHold, 1), (Obj.fusePadIndex, 2)]).seeVpp true) hdr Obj.fusePadProgram 1 = true ∧
    takes ((devR .dark [(Obj.bootHold, 1)]).seeVpp true) hdr Obj.fuseLock 1 = true ∧
    heard (dev .pilot) hdr (le 1 1 ++ zeros 3 ++ le 2 (Obj.fusePadCode / 256) ++ le 1 (Obj.fusePadCode % 256) ++ zeros 1) = true := by
  decide +kernel

theorem witness_StoredSettingsWrites : takes (dev .dark) hdr Obj.configSave 0x5A = true ∧
    takes (dev .pilot) hdr Obj.fsiMinClear 1 = true ∧ takes (dev .pilot) hdr Obj.storeFlush 0x5A = true := by decide +kernel

/-- The request of a pattern of one line. -/
def maintAsk : WickReq := { who := .maintPattern, core := none, head := some maintEnergy, mach := some maintEnergy, peak := maintEnergy }

/-- TRIM with pools that can give it, whatever it is, and with these levels. -/
def pools (level : Int) : State :=
  { dev .trim with
    regs := (dev .trim).regs ++ [(Obj.limit 1, maintEnergy), (Obj.limit 2, maintEnergy), (Obj.peak 1, maintEnergy), (Obj.peak 2, maintEnergy)],
    wick := { head := level, mach := level } }

theorem pool_values (level : Int) : (pools level).reg (Obj.limit 1) = maintEnergy ∧ (pools level).reg (Obj.limit 2) = maintEnergy ∧
    (pools level).reg (Obj.peak 1) = maintEnergy ∧ (pools level).reg (Obj.peak 2) = maintEnergy ∧ 1 ≤ (pools level).reg (Obj.window 1) ∧
    1 ≤ (pools level).reg (Obj.window 2) := 
  ⟨rfl, rfl, rfl, rfl, (by decide +kernel : 1 ≤ (pools 0).reg (Obj.window 1)), (by decide +kernel : 1 ≤ (pools 0).reg (Obj.window 2))⟩

/-- The pools fit the pattern. -/
theorem witness_pools_fit (level : Int) (p : Nat) (hp : p = 1 ∨ p = 2) :
    ¬((pools level).poolCap p < (maintEnergy * ((128 + 256) / 256) : Nat) ∨ 1000000 * (pools level).reg (Obj.peak p) < maintEnergy) := by
  obtain ⟨l1, l2, p1, p2, w1, w2⟩ := pool_values level
  have h1 := Nat.le_mul_of_pos_right maintEnergy w1
  have h2 := Nat.le_mul_of_pos_right maintEnergy w2
  rcases hp with rfl | rfl <;> simp only [State.poolCap, l1, l2, p1, p2] <;> omega

/-- With their energy there the pattern is granted, and with none it waits. -/
theorem witness_pools_cover : (pools maintEnergy).coverable maintAsk 0 = true ∧ (pools (-1)).coverable maintAsk 0 = false := by
  constructor <;> simp [State.coverable, WickReq.pools, maintAsk, State.poolLevel, pools]
  omega

theorem witness_FiringPathWrites :
    (takes (dev .pilot) hdr (Obj.encEnable 0) 1 = true ∧ (dev .pilot).isSet (Obj.encEnable 0) = false ∧ takes (dev .pilot) hdr (Obj.encEnable 1) 1 = true) ∧
    (takes (dev .trim) hdr Obj.maintStart (128 + 256) = true ∧ (dev .trim).role ≠ .mate ∧ 1 ≤ (128 + 256) / 256 ∧
      (dev .trim).blockUp Block.taper = true ∧ (dev .trim).blockUp Block.wick = true ∧
      takes (pools maintEnergy) hdr Obj.maintStart (128 + 256) = true ∧ takes (pools (-1)) hdr Obj.maintStart (128 + 256) = true) ∧
    (let s := (dev .trim).setReg Obj.blockReset (2 ^ Block.wick)
     takes s hdr Obj.maintStart (128 + 256) = true ∧ s.blockUp Block.wick = false) ∧
    takes { dev .trim with role := .mate } hdr Obj.maintStart (128 + 256) = true ∧
    (takes swapping hdr Obj.swapRequest 1 = true ∧ swapping.swapPage.isSome = true ∧ swapping.strapped ≠ .solo ∧ swapping.twinUp = true) ∧
    takes swapping hdr Obj.swapRequest 0 = true ∧ takes (dev .pilot) hdr (Obj.camCommit 7) 0 = true ∧ takes (dev .pilot) hdr Obj.tapSelect 0x100 = true ∧
    (takes (dev .pilot) hdr (Obj.camCommit 7) 1 = true ∧ takes (dev .pilot) hdr (Obj.camCommit 0) 1 = true) ∧
    takes (dev .pilot) hdr Obj.tapSelect 0 = true := by decide +kernel

theorem witness_UnitWrites :
    takes (dev .pilot) hdr (Obj.running 6) (2 ^ 32 - 1) = true ∧ takes (dev .pilot) hdr Obj.freqSelect 1 = true ∧
    takes (devR .pilot [(Obj.lpEnable 47, 1)]) hdr (Obj.bankSwap 47) 1 = true ∧
    (takes (dev .pilot) hdr (Obj.setpoint 0) 0 = true ∧ Bf24.normalise 0 = some 0) ∧ takes (dev .pilot) hdr (Obj.lpEnable 40) 1 = true ∧
    takes { dev .trim with axes := [(3, { lost := false })] } hdr (Obj.axTarget 3) 0 = true ∧
    takes { dev .trim with axes := [(3, { lost := false, halted := true })] } hdr (Obj.axTarget 3) 0 = true ∧
    takes (dev .trim) hdr (Obj.axHome 3) 1 = true ∧ takes (dev .pilot) hdr (Obj.axStop 0) 1 = true ∧
    takes (dev .pilot) hdr Obj.stopAll 1 = true := by decide +kernel

theorem witness_TimeAndLogWrites :
    (takes (dev .pilot) hdr Obj.timeSet (999999999 * 2 ^ 48 + (2 ^ 48 - 1)) = true ∧ (999999999 * 2 ^ 48 + (2 ^ 48 - 1)) / 2 ^ 48 < 10 ^ 9) ∧
    takes (dev .pilot) hdr Obj.timeStep (2 ^ 64 - 1) = true ∧ takes (dev .pilot) hdr Obj.rateTrim 0 = true ∧
    (takes (dev .pilot) hdr Obj.freezeNow 1 = true ∧ (dev .pilot).reg Obj.ylogState = 0) ∧
    (takes (devR .pilot [(Obj.ylogState, 2)]) hdr Obj.unfreeze 0x5A = true ∧ Table.get 0 (devR .pilot [(Obj.ylogState, 2)]).flagged Obj.ylogState = 0) := by decide +kernel

theorem witness_FusesAndTheTap : ({ dev .dark with fuses := { job := some { h := hdr, pad := 2, code := 1 } } } : State).fuses.job =
      some { h := hdr, pad := 2, code := 1 } ∧
    ({ dev .dark with rst := { testEn := true } } : State).rst.testEn = true ∧ (dev .dark).rst.testEn = false ∧
    (63 < 64 ∧ 63 ∉ [0, 1, 2, 4, 5]) ∧ (3 < 64 ∧ 3 ∉ [0, 1, 2, 4, 5]) := by decide +kernel

/-- Every session ID taken. -/
def crowded : State :=
  { dev .pilot with igrel := { sessions := (List.range 8).map (fun i => { sess1 with id := i + 1 }) } }

/-- A CLOSE of session 1 as its datagram, one with a wrong version, and one with a wrong MAC. -/
def closeBytes : List Byte := le 2 0x4749 ++ le 1 1 ++ le 1 0x04 ++ le 1 1 ++ zeros 1 ++ le 2 7 ++ le 4 1 ++ zeros 4
def good : Datagram :=
  { src := src, ip := 0xC0A8E732, port := igrelPort, fragment := false, bytes := closeBytes ++ packetMac (some (zeros 32)) closeBytes }
def bad : Datagram := { good with bytes := zeros 32 }
def unsigned : Datagram := { good with bytes := closeBytes ++ zeros 16 }

theorem witness_SessionsOpenAndClose :
    ((dev .pilot).recovering = false ∧ (dev .pilot).igrelRuns = true ∧ (dev .pilot).igrel.lockouts.contains src.ip = false ∧
      (zeros 16).length = 16 ∧ (dev .pilot).freeId = some 3) ∧
    (crowded.recovering = false ∧ crowded.igrelRuns = true ∧ crowded.freeId = none) ∧
    (dev .pilot).igrel.sessions.find? (fun y => decide (y.id = sess2.id) && y.reserved && decide (y.src = src)) = some sess2 ∧
    (sess2 ∈ (dev .pilot).igrel.sessions ∧ sess2.reserved = true) ∧
    (hdr.sess ≠ 0 ∧ (dev .pilot).session hdr.sess = some sess1 ∧ sess1.newSeq hdr.seq = true) ∧
    ((dev .pilot).reaches { good with fragment := true } = false ∧ (dev .pilot).reaches bad = true ∧ headerOk bad.bytes = false) ∧
    ((dev .pilot).reaches unsigned = true ∧ field unsigned.bytes 3 1 ∉ [1, 3]) ∧
    ((dev .pilot).reaches good = true ∧ headerOk good.bytes = true ∧ field good.bytes 3 1 ∉ [1, 3] ∧ [1] ≠ ([] : List Byte)) := by decide +kernel

theorem witness_macs : (dev .pilot).macOk good.bytes = true ∧ (dev .pilot).macOk unsigned.bytes = false := by decide +kernel

/-- Of two proofs of 32 bytes one is wrong. -/
theorem witness_wrong_proof : ∃ b : List Byte, b.length = 32 ∧ b ≠ (dev .pilot).proofOf sess2 := by
  by_cases h : zeros 32 = (dev .pilot).proofOf sess2
  · exact ⟨List.replicate 32 1, rfl, fun h' => absurd (h.trans h'.symm) (by decide)⟩
  · exact ⟨zeros 32, rfl, h⟩

/-- The session has a subscription. -/
def subscribed : State :=
  { dev .pilot with igrel := { sessions := [{ sess1 with sub := some { period := 1, keys := [Obj.leadTarget], missed := 0 } }] } }

theorem witness_ReadsAnswerWithoutChange :
    (heard (dev .pilot) hdr (readPayload Obj.leadTarget) = true ∧ parseRead (readPayload Obj.leadTarget) = some [Obj.leadTarget] ∧
      (dev .pilot).conflicting Obj.leadTarget = false ∧
      (match findObj Obj.leadTarget with
       | .ok r => decide (r.acc ≠ .wo) && decide (r.ty ≠ .domain) && !((dev .pilot).sawPacket hdr).heldBackObj Obj.leadTarget r
       | _ => false) = true ∧ boundReading Obj.leadTarget = false) ∧
    (heard (dev .dark) hdr (readPayload Obj.leadTarget) = true ∧ (dev .dark).conflicting Obj.leadTarget = true) ∧
    (heard (dev .dark) hdr (objectPayload Obj.leadTarget) = true ∧ parseDescribe (objectPayload Obj.leadTarget) = some Obj.leadTarget ∧
      (match findObj Obj.leadTarget with | .ok r => ((dev .dark).sawPacket hdr).heldBackObj Obj.leadTarget r | _ => false) = true ∧
      (findObj 0xFFFFFF).isOk = false ∧ parseDescribe (objectPayload 0xFFFFFF) = some 0xFFFFFF) ∧
    (heard (dev .pilot) hdr (objectPayload Obj.ringMap) = true ∧ parseDescribe (objectPayload Obj.ringMap) = some Obj.ringMap ∧
      (match findObj Obj.ringMap with
       | .ok r => !((dev .pilot).sawPacket hdr).heldBackObj Obj.ringMap r
       | _ => false) = true) ∧
    (let p (period : Nat) : List Byte := le 2 period ++ le 1 1 ++ zeros 1 ++ objectPayload Obj.leadTarget
     heard (dev .pilot) hdr (p 60000) = true ∧ parseSubscribe (p 60000) = some (60000, [Obj.leadTarget]) ∧
      heard (dev .pilot) hdr (p 60001) = true ∧ parseSubscribe (p 60001) = some (60001, [Obj.leadTarget]) ∧
      parseSubscribe (zeros 4) = some (0, [])) ∧
    (heard (dev .pilot) hdr [1] = true ∧ parseRead [1] = none ∧ parseDescribe [1] = none ∧ parseSubscribe [1] = none) ∧
    (subscribed.igrelRuns = true ∧ (subscribed.session 1).any (fun x => decide (x.sub = some { period := 1, keys := [Obj.leadTarget], missed := 0 }))) ∧
    ((dev .pilot).onNetwork = true ∧ (dev .pilot).igrelRuns = true) := by decide +kernel

/-- A read whose last segment has gone. -/
def readDone : State :=
  { dev .pilot with igrel := { sessions := [sess1], transfers := [{ wr Obj.ringMap [] with reading := true, total := 2560, next := 3 }] } }

theorem witness_BlockTransfersMoveContent :
    (let p := le 2 (Obj.healthEdit / 256) ++ le 1 (Obj.healthEdit % 256) ++ zeros 1 ++ le 4 4 ++ le 4 7
     heard (dev .pilot) hdr p = true ∧
      (match parseBlock p, findObj Obj.healthEdit with
       | some b, .ok r => decide (b.reading = false) && decide (b.key = Obj.healthEdit) && (((dev .pilot).sawPacket hdr).startFault 2 r b).isNone
       | _, _ => false) = true) ∧
    ((openW (dev .pilot) Obj.healthEdit []).transfer 1 1).any (fun tr => decide (tr.reading = false ∧ tr.base ≤ 15 ∧ 15 < tr.base + 16 ∧ tr.next = 0)) ∧
    (readDone.transfer 1 1).any (fun tr => decide (tr.reading = true ∧ tr.base ≤ segments tr.total ∧ tr.next = segments tr.total)) := by
  decide +kernel

/-- A block with one line, in stream 0. -/
def blk5 : Blk := { seq := 5, bytes := zeros 18, lines := 1, before := 0, bad := false, unread := false }

/-- It is stored. -/
def storedBlock : State := { dev .pilot with raster := { rings := [(0, [blk5])] } }

/-- A checkpoint at the start of that block. -/
def image : List Byte := le 4 7 ++ le 4 5 ++ le 2 12 ++ zeros 2054

/-- An upload request, and a scan. -/
def ask : List Byte := le 4 1 ++ le 1 3 ++ zeros 3 ++ le 8 0 ++ le 4 1 ++ zeros 4 ++ le 8 ((dev .pilot).usable - 256 * 2 ^ 20) ++ le 4 16384 ++ zeros 4
def scan : List Byte := le 1 15 ++ le 1 0 ++ zeros 2 ++ le 4 1 ++ le 8 ((dev .pilot).usable - 1) ++ zeros 8

/-- A BLOCK_END whose content fails its check ends as well. -/
theorem witness_bad_content : ((dev .pilot).sawPacket hdr).contentOk Obj.uartTx (zeros 257) = false ∧ endable (dev .pilot) Obj.uartTx = true := by
  decide +kernel

/-- The contents of `witness_BlockEndsTakeTheirContent` meet every check; `ends_wr` makes of each a transfer that ends. -/
theorem witness_BlockEndsTakeTheirContent :
    (endable (dev .pilot) Obj.fwSlot1 = true ∧ ((dev .pilot).sawPacket hdr).contentOk Obj.fwSlot1 (zeros 256) = true ∧
      ((dev .pilot).sawPacket hdr).blockBusy Obj.fwSlot1 (zeros 256) = false) ∧
    (endable (dev .dark) Obj.ringMap = true ∧ ((dev .dark).sawPacket hdr).blockBusy Obj.ringMap [] = false) ∧
    (endable storedBlock (256 * 0x2100 + 0x17) = true ∧ (storedBlock.sawPacket hdr).contentOk (256 * 0x2100 + 0x17) image = true ∧
      (storedBlock.sawPacket hdr).blockBusy (256 * 0x2100 + 0x17) image = false) ∧
    endable (dev .pilot) Obj.placementTrim = true ∧
    (endable (dev .pilot) Obj.uartTx = true ∧ ((dev .pilot).sawPacket hdr).contentOk Obj.uartTx (zeros 256) = true ∧
      ((dev .pilot).sawPacket hdr).blockBusy Obj.uartTx (zeros 256) = false) ∧
    (endable (dev .pilot) Obj.uploadRequest = true ∧ ((dev .pilot).sawPacket hdr).contentOk Obj.uploadRequest ask = true ∧
      ((dev .pilot).sawPacket hdr).blockBusy Obj.uploadRequest ask = false ∧ (parseUpload ask (dev .pilot).usable).isSome = true) ∧
    (endable (dev .pilot) Obj.scanRequest = true ∧ ((dev .pilot).sawPacket hdr).contentOk Obj.scanRequest scan = true ∧
      ((dev .pilot).sawPacket hdr).blockBusy Obj.scanRequest scan = false ∧ ((dev .pilot).parseScan scan).isSome = true) ∧
    (endable (dev .pilot) Obj.blendPattern = true ∧ ((dev .pilot).sawPacket hdr).contentOk Obj.blendPattern (zeros 256) = true ∧
      ((dev .pilot).sawPacket hdr).blockBusy Obj.blendPattern [] = false) ∧
    (endable (dev .pilot) Obj.calCodes = true ∧ ((dev .pilot).sawPacket hdr).contentOk Obj.calCodes (zeros 128) = true ∧
      ((dev .pilot).sawPacket hdr).blockBusy Obj.calCodes [] = false) := by decide +kernel

theorem contentOk_trim (s : State) (b : List Byte) : s.contentOk Obj.placementTrim b =
    (decide (b.length = 262144) && b.all (fun x => decide (x.toNat < 64))) := rfl

theorem blockBusy_trim (s : State) (b : List Byte) : s.blockBusy Obj.placementTrim b = false := rfl

theorem trim_ok (n : Nat) (h : n = 262144) : (decide ((zeros n).length = 262144) && (zeros n).all (fun x => decide (x.toNat < 64))) = true := by
  rw [zeros, List.length_replicate, List.all_replicate, Bool.and_eq_true]
  exact ⟨decide_eq_true h, by split <;> rfl⟩

/-- PLACEMENT_TRIM of 262,144 zeros meets every check. -/
theorem witness_trim_ends (n : Nat) (h : n = 262144) : ∃ x, (openW (dev .pilot) Obj.placementTrim (zeros n)).ends hdr x (wr Obj.placementTrim (zeros n)) ∧
    (((openW (dev .pilot) Obj.placementTrim (zeros n)).sawPacket hdr).dropTransfer 1 1).endFault (wr Obj.placementTrim (zeros n)) = none :=
  ends_wr rfl (by decide +kernel) ((contentOk_trim _ _).trans (trim_ok n h)) (blockBusy_trim _ _)

theorem contentOk_rings (s : State) (b : List Byte) : s.contentOk Obj.ringMap b = ringMapOk s.storeLimit b := rfl

theorem blockBusy_rings (s : State) (b : List Byte) : s.blockBusy Obj.ringMap b = false := rfl

/-- So does the default ring map. -/
theorem witness_rings_end : ∃ x, (openW (dev .dark) Obj.ringMap ringMapDefault).ends hdr x (wr Obj.ringMap ringMapDefault) ∧
    (((openW (dev .dark) Obj.ringMap ringMapDefault).sawPacket hdr).dropTransfer 1 1).endFault (wr Obj.ringMap ringMapDefault) = none :=
  ends_wr rfl (by decide +kernel) ((contentOk_rings _ _).trans (ringMapOk_default _ (by decide +kernel))) (blockBusy_rings _ _)

/-- A good block of stream 0: one empty line. -/
def goodBlock : List Byte :=
  let body : List Byte := le 2 0x5857 ++ le 1 1 ++ le 1 2 ++ le 2 0 ++ le 4 0 ++ le 2 1 ++ [0xE1, 0xFF]
  body ++ le 4 (crcIdent 0 0 body)

/-- The raster link is up. -/
def linked : State := devR .pilot [(Obj.linkState, 2)]

theorem witness_RasterLinkAndCredits :
    ((dev .pilot).blockUp Block.raster = true ∧ (dev .pilot).reg Obj.linkState < 2 ∧
      rasterWidth [] ((dev .pilot).reg Obj.linkWidthMin) = 0 ∧ rasterWidth (List.replicate 8 true) ((dev .pilot).reg Obj.linkWidthMin) = 8) ∧
    (linked.blockUp Block.raster = true ∧ linked.rasterUp = true ∧ 17 ≤ goodBlock.length ∧ goodBlock.length ≤ 16384 ∧
      creditsOf goodBlock.length ≤ linked.reg (Obj.creditsGranted 0) ∧ linked.blockHeaderOk 0 goodBlock = true ∧
      blockTrailerOk 0 (linked.reg (Obj.nextBlockSeq 0)) goodBlock = true ∧ linked.twin.join = none) ∧
    (17 ≤ (zeros 17).length ∧ linked.blockHeaderOk 159 (zeros 17) = false) ∧
    (let torn (p : List Byte) : List (List Sym) := deal 4 (delimited p)
     wrongPacket (received linked.raster.reversed (torn (rasterPacket 1 0 159 goodBlock ++ [0]))) = some (1, 159) ∧
      wrongPacket (received linked.raster.reversed (torn (rasterPacket 9 0 0 []))) = some (9, 0) ∧
      wrongPacket (received linked.raster.reversed (torn (rasterPacket 1 0 159 goodBlock))) = none) := by decide +kernel

/-- A COMMIT of one line of the 128 strip streams, each with its block 0. -/
def commitOne : List Byte := le 4 1 ++ le 4 0 ++ le 4 1 ++ List.replicate 16 255 ++ zeros 4 ++ zeros 512

/-- The link is up, and the block of that line is stored in every strip stream. -/
def committable : State :=
  let l := List.range 128
  { linked with
    regs := linked.regs ++ l.flatMap (fun k => [(Obj.nextBlockSeq k, 1), (Obj.blocksStored k, 1)]),
    raster := { rings := l.map (fun k => (k, [{ seq := 0, bytes := [], lines := 1, before := 0, bad := false, unread := false }])) } }

/-- The COMMIT as it reads. -/
def commitReq1 : CommitReq := { page := 1, first := 0, count := 1, last := (List.range 128).map (fun k => (k, 0)) }

theorem witness_CommitsArePagesInOrder : linked.rasterUp = true ∧ parseCommit [] = none ∧ parseCommit commitOne = some commitReq1 ∧
    (linked.commitStatus commitReq1).1 = 1 := by decide +kernel

theorem witness_committable : committable.rasterUp = true ∧ (committable.commitStatus commitReq1).1 = 0 := by decide +kernel

/-- Module 0 in LIT, its lane up and ready, with 100 lines committed and line 0 of strip 0 to be decoded. -/
def printing : State :=
  { devR .lit [(Obj.populated 0, 1), (Obj.laneState 0, 2), (Obj.encEnable 0, 1), (Obj.travelMark 0, 1000000)] with
    heads := [(0, { ready := true, trimOk := true })],
    raster := { rings := [(0, [{ seq := 0, bytes := goodBlock, lines := 1, before := 0, bad := false, unread := false }])],
                pages := [{ id := 1, first := 0, count := 100, last := [], fired := 0, skipped := 0 }],
                flushFirst := some 0, nextFirst := 100 } }

/-- The line as an engine takes it. -/
def job0 : Job := { stream := 0, line := 0, due := 0, drop := false }

/-- A slot of line 0. -/
def slot0 (st : SlotSt) (c : Option Counts) : Slot :=
  { seq := 0, line := zeros 512, gen := 0, pend := false, counts := c, outcome := none, st := st }

/-- Strip 0 holds line 0. -/
def holding (st : SlotSt) (c : Option Counts) : State := { printing with slots := [(0, [slot0 st c])] }

/-- Its leave has been given. -/
def granted (st : SlotSt) : State :=
  { holding st (some {}) with taper := { decided := [{ g := 0, seq := 0, out := .grant, charge := 5 }] } }

/-- A rewind ordered in the last stream. -/
def rewinding : State :=
  { dev .pilot with decomp := { ctxs := [(159, { work := { next := 5 }, rewind := some { cancel := true, line := 3 } })] } }

theorem witness_LinesAreDecodedAndCorrected :
    (printing.mayAsk 0 = true ∧ printing.blockUp Block.taper = true) ∧
    (Table.find ({ printing with decomp := { engines := [(7, job0)] } } : State).decomp.engines 7 = some job0 ∧ printing.blockUp Block.decomp = true ∧
      job0.drop = false ∧ (printing.ctx 0).work.next = 0 ∧
      (match printing.decodeFrom 0 (printing.ctx 0).work with | .line l _ errs => decide (l = zeros 512 ∧ errs = []) | _ => false) = true ∧
      dist32 ((2 ^ 32 - 1 + printing.reg (Obj.nextArmSeq (groupOf 0))) % 2 ^ 32) (printing.ctx 0).ckpt.next < 0 ∧ printing.keepsLine 0 0 = true ∧
      printing.slotAt 0 0 = none ∧ printing.memWaits (.context 128) = false) ∧
    ((rewinding.ctx 159).rewind = some { cancel := true, line := 3 } ∧ rewinding.engineBusy 159 = false ∧
      ({ rewinding with decomp := { rewinding.decomp with engines := [(0, { job0 with stream := 159 })] } } : State).engineBusy 159 = true) ∧
    (((holding .decoded none).slotsOf 0).find? (fun x => decide (x.st = .decoded) && x.counts.isNone) = some (slot0 .decoded none) ∧
      printing.blockUp Block.strip = true) := by decide +kernel

/-- An edit of one entry. -/
def edit : List Byte := le 4 (2 ^ 18 + 7)

theorem witness_HealthMapChangesBySwap :
    (endable (dev .pilot) Obj.healthEdit = true ∧ ((dev .pilot).sawPacket hdr).contentOk Obj.healthEdit edit = true ∧
      ((dev .pilot).sawPacket hdr).blockBusy Obj.healthEdit edit = false ∧ (dev .pilot).health.overwriting = false ∧ (dev .pilot).twin.swap = none ∧ (dev .pilot).swapPassed = false ∧
      changingRecs (dev .pilot).health.pending (editRecords edit) ≠ []) ∧
    (let s : State := { printing.setReg (Obj.nextArmSeq 0) 51 with health := { swap := some 50 } }
     let s := ((s.setReg (Obj.nextArmSeq 2) 51).setReg (Obj.nextArmSeq 4) 51).setReg (Obj.nextArmSeq 6) 51
     s.health.swap = some 50 ∧ ∀ g ∈ s.liveGroups, 0 < dist32 (s.reg (Obj.nextArmSeq g)) 50) ∧
    (let s : State := { dev .pilot with health := { overwriting := true } }
     s.health.overwriting = true ∧ s.health.held = []) := by decide +kernel

theorem witness_LinesAreDecidedAndSent :
    ((holding .decoded (some {})).mode = .lit ∧ (holding .decoded (some {})).nextDecision = some (0, 0) ∧
      (let s := holding .decoded (some {})
       let o := s.lineOutcome (s.groupCounts 0 0)
       (-(s.poolCap 1)) ≤ s.wick.head - o.2 ∧ s.wick.head - o.2 ≤ s.poolCap 1)) ∧
    ((granted .decoded).toSend 0 = some (slot0 .decoded (some {})) ∧ (granted .decoded).laneUp 0 = true ∧
      (granted .decoded).blockUp Block.headLink = true) := by decide +kernel

theorem witness_EncoderCountsEdges :
    (let s := devR .pilot [(Obj.encEnable 1, 1)]
     let seen (a b : Bool) := List.replicate 20 (a, b)
     let level (l : List Bool) := filterLevel (s.reg (Obj.filterN 1)) false l
     (1 ≠ s.fireCh ∧ s.counting 1 = true ∧ s.counting 0 = false ∧ (s.encCh 1).a = false ∧ (s.encCh 1).b = false ∧ (s.encCh 1).z = false) ∧
      (level ((seen true false).map Prod.fst) = true ∧ level ((seen true false).map Prod.snd) = false) ∧ level [true] = false ∧
      (level ((seen true true).map Prod.fst) = true ∧ level ((seen true true).map Prod.snd) = true) ∧ (s.encCh 1).edgeAt ≠ some s.clock.cycles ∧
      s.reg (Obj.encCount 1) = s.reg (Obj.travelMark 1) ∧ (s.encCh 1).idxTaken = none) ∧
    (let s := devR .snuff [(Obj.encEnable 0, 1)]
     ({ s with enc := { ch0 := { edgeAt := some 0 } } } : State).enc.ch0.edgeAt = some s.clock.cycles ∧ s.counting 0 = true ∧ s.mode ≠ .lit ∧ (List.range 8).all (fun g => (s.group g).conf.isNone) = true) := by decide +kernel

/-- Line 0 sent, and its leave given: the line may arm. -/
def armable : State := granted .sent

/-- A confirmed line on a SOLO chip, its lane up. -/
def confirmed : State := printing.setGroup 0 { conf := some conf0 }

theorem witness_LinesArmAndFire :
    (let s : State := { dev .lit with taper := { priming := true } }
     s.mode = .lit ∧ s.taper.priming = true ∧ s.taper.stopping = false ∧ s.hasCause = false) ∧
    (armable.arms 0 = true ∧ armable.blockUp Block.taper = true ∧ armable.role = .solo ∧ armable.twin.swap = none ∧ armable.twin.early = [] ∧ armable.twin.modeAt = none ∧
      (armable.ckptAll (2 ^ 32 - 1) (armable.liveStrips 0)).armFault 0 0 = none ∧ (armable.group 0).lastEdge = none ∧
      armable.reg (Obj.nextArmSeq 0) = 0) ∧
    (printing.arms 6 = true ∧ (printing.ckptAll (2 ^ 32 - 1) (printing.liveStrips 6)).armFault 6 0 = some (1, 255)) ∧
    ((confirmed.group 0).conf = some conf0 ∧ conf0.rises = some 5000 ∧ confirmed.role = .solo ∧ confirmed.twin.swap = none ∧ confirmed.twin.early = [] ∧ (confirmed.group 0).forced = false ∧
      confirmed.doubts 0 conf0.seq = [] ∧ (∀ m ∈ confirmed.liveModules 0, confirmed.laneUp m = true)) ∧
    ((((dev .lit).setGroup 7 { pulse := true }).group 7).pulse = true ∧ (dev .lit).taper.printed = []) := by decide +kernel

/-- A maintenance line is stored in stream 128. -/
def maintained : State :=
  { dev .trim with
    taper := { maint := some { stream := 128, left := 1, running := true } },
    raster := { rings := [(128, [{ seq := 0, bytes := le 2 0x5857 ++ le 1 1 ++ le 1 2 ++ le 2 128 ++ le 4 0 ++ le 2 1 ++ [0xE1, 0xFF] ++ zeros 4, lines := 1,
                                    before := 0, bad := false, unread := false }])],
                flushFirst := some 0, nextFirst := 1 },
    decomp := { ctxs := [(128, { work := { next := 1, offset := 13, done := 1 }, trail := [{ next := 1, offset := 13, done := 1 }] })] },
    slots := [(128, [{ seq := 0, line := zeros 512, gen := 0, pend := false, counts := none, outcome := none, st := .decoded }])] }

theorem witness_SnufferAndMaintenanceLines :
    (dev .lit).configured = true ∧ (List.range 8).all (fun g => (maintained.group g).forced = false) = true ∧
    (maintained.taper.maint = some { stream := 128, left := 1, running := true } ∧ maintained.mode = .trim ∧
      (List.range 32).all (fun i => !maintained.populated i || maintained.laneUp i) = true ∧
      (maintained.takeAux 128).1 = .line 0 (zeros 512) ∧
      (∀ b ∈ [Block.decomp, Block.strip, Block.taper, Block.headLink], maintained.blockUp b = true)) := by decide +kernel

/-- The characters of a STATUS of a module. -/
def statusChars (m : Nat) (p : List Byte) : List Sym := delimited (headFrame 0x81 .solo m 0 5 p)

/-- Module 31 with its lane in a state. -/
def lane (v : Nat) : State :=
  { devR .pilot [(Obj.populated 31, 1), (Obj.laneState 31, v)] with
    twin := { roleDecided := true },
    heads := [(31, { slotOk := true, unacked := [{ seq := 0, op := 1, args := [], resends := 7 }] })] }

theorem witness_HeadLanesComeUpAndGoDown :
    ((lane 1).reg (Obj.laneState 31) = 1 ∧ (lane 1).headLinkUp = true ∧ 255 < 256 ∧ (lane 1).populated 31 = true ∧ (lane 1).twin.roleDecided = true ∧
      (lane 1).mode ≠ .kindle ∧ ((lane 1).head 31).slotOk = true ∧ statusPayload 31 [] = none ∧
      statusPayload 31 (statusChars 31 (zeros 72)) = some (zeros 72) ∧ statusPayload 30 (statusChars 31 (zeros 72)) = none) ∧
    ((lane 2).headLinkUp = true ∧ (lane 2).laneUp 31 = true ∧ statusBad (zeros 72) = false ∧ (lane 2).taper.unsettled = [] ∧ field (zeros 72) 3 1 = 0) ∧
    (((lane 2).head 31).unacked ≠ [] ∧ (∀ c ∈ ((lane 2).head 31).unacked, c.resends < 8)) ∧
    (let s := (lane 2).setHead 31 { unacked := [{ seq := 0, op := 1, args := [], resends := 8 }] }
     s.laneUp 31 = true ∧ (s.head 31).unacked ≠ [] ∧ ∃ c ∈ (s.head 31).unacked, 8 ≤ c.resends) ∧
    (let s : State := { lane 3 with wick := { leave := [.laneRetrain 31] } }
     s.reg (Obj.laneState 31) = 3 ∧ s.hasLeave (.laneRetrain 31) = true ∧ s.headLinkUp = true) ∧
    (let s := (lane 3).setHead 31 { recovering := true }
     (s.head 31).recovering = true ∧ s.laneUp 31 = false) ∧
    (lane 2).mode.working = true := by decide +kernel

/-- A mate or primary, its strap the role. -/
def cold (r : Role) (m : Mode) : State := { dev m with role := r, strapped := r, pins := { aliveIn := true } }

theorem witness_TwinLinkAndHeartbeats :
    ((cold .mate .pilot).twinRuns = true ∧ (cold .mate .pilot).twinHealthy = false) ∧
    ((twin .mate .pilot).twin.lane0 = true ∧ (twin .mate .pilot).twin.lane1 = true ∧ (twin .mate .pilot).twinUp = true ∧
      (twin .mate .pilot).twinRuns = true ∧ (twin .mate .pilot).configured = true ∧ (zeros 55).length ≠ 56 ∧ (zeros 55).length ≠ 440 ∧
      (zeros 440).length = 440 ∧ (field (zeros 440) 2 2).testBit 2 = false) ∧
    ((twin .mate .kindle).mode = .kindle ∧ (twin .mate .kindle).twin.roleDecided = false ∧ (twin .mate .kindle).twinUp = true) ∧
    ((twin .mate .lit).twinHealthy = true ∧ (twin .mate .lit).mode.working = true ∧ (twin .mate .lit).pins.aliveIn = true ∧
      (twin .mate .lit).configured = true) ∧
    ((twin .primary .lit).twinHealthy = true ∧ (twin .primary .lit).mode.working = true) ∧
    ((cold .mate .kindle).mode = .kindle ∧ (cold .mate .kindle).twin.roleDecided = false ∧ (cold .mate .kindle).twinUp = false) := by
  decide +kernel

/-- A join on the joining chip, and on the primary. -/
def joinOf (joining : Bool) : Join :=
  { snapshot := 1023, line := 3000, joining := joining, images := if joining then [] else (List.range 4).map (fun k => (k, [])) }

def joining : State :=
  let s := twin .mate .pilot
  { s with twin := { s.twin with join := some (joinOf true), modeAt := some (4, 3000) } }

def hosting : State :=
  let s := { printing with role := .primary, strapped := .primary }
  { s with
    twin := { lane0 := true, lane1 := true, hbAt := some 0, join := some (joinOf false) },
    raster := { s.raster with pages := [{ id := 2, first := 70000, count := 50, last := [], fired := 0, skipped := 0 }] } }

/-- A mate that has passed line 0 of group 7. -/
def passed : State :=
  let s := twin .mate .lit
  { s with twin := { s.twin with own := [{ g := 7, seq := 0, page := 1, edge := some 5, cause := none, conf := none }] } }

theorem witness_FailOverPromotesTheMate :
    ((cold .primary .pilot).strapped ≠ .solo ∧ (cold .primary .pilot).role ≠ .mate) ∧
    (passed.mode = .lit ∧ passed.pins.aliveIn = true ∧ (∃ o ∈ passed.twin.own, o.g = 7 ∧ o.edge.isSome = true) ∧ passed.role = .mate ∧
      passed.mode.working = true ∧ passed.hasCause = false ∧ passed.twin.healthyAtHb = true ∧ passed.twin.digestOk = true) ∧
    (joining.strapped ≠ .solo ∧ joining.role = .mate ∧ joining.mode = .pilot ∧ joining.twin.join.isSome = true) ∧
    ((cold .mate .lit).strapped ≠ .solo ∧ (cold .mate .lit).role = .mate ∧ (cold .mate .lit).mode.working = true ∧
      (cold .mate .lit).twin.healthyAtHb = false ∧ (cold .mate .lit).configured = true) ∧
    ((twin .primary .lit).twinUp = true ∧ (twin .primary .lit).role = .primary ∧ (List.replicate 8 0).length = 8 ∧ (twin .primary .lit).configured = true) := by
  decide +kernel

/-- A copy of the outcome of line 0 of group 7, skipped. -/
def copy0 : LineSt :=
  { seq := 0, page := 1, group := 7, outcome := 1, cause := 1, strip := 255, time := 0, wick := 0, flags := 0, gen := 0, total := 1 }

theorem witness_MateFollowsThePrimary :
    (passed.twinUp = true ∧ passed.roleFor 0 = .mate ∧ 0 ≤ dist32 0 (passed.reg (Obj.nextArmSeq 7)) ∧ passed.twin.decisions = []) ∧
    (let d : GLine := { g := 7, seq := 0, out := .skip, charge := 0 }
     d ∈ ({ passed with twin := { passed.twin with decisions := [d] } } : State).twin.decisions ∧ d.g = 7 ∧ d.seq = 0) ∧
    (parseLineState copy0.bytes = some copy0 ∧ passed.twin.own.find? (fun o => decide (o.g = copy0.group) && decide (o.seq = copy0.seq)) =
      some { g := 7, seq := 0, page := 1, edge := some 5, cause := none, conf := none } ∧ parseLineState [] = none) ∧
    (let s : State := { passed with twin := { passed.twin with sendQueue := [copy0] } }
     s.twin.sendQueue = [copy0] ∧ s.twin.join = none ∧ s.strapped ≠ .solo) := by decide +kernel

/-- Modes, publishes and swaps that a mate takes. -/
theorem witness_mate_takes :
    ((twin .mate .pilot).role = .mate ∧ (twin .mate .pilot).hasCause = false ∧ (twin .mate .pilot).mode = .pilot ∧
      (twin .mate .pilot).mismatched = false ∧
      ({ twin .mate .pilot with twin := { (twin .mate .pilot).twin with partner := zeros 56 } } : State).mismatched = true ∧
      (twin .mate .pilot).twin.join = none ∧ (twin .mate .pilot).dram.setNow = 0 ∧ (twin .mate .pilot).dram.change = none) ∧
    (joining.twinUp = true ∧ joining.role = .mate ∧ joining.hasCause = false ∧ joining.mode = .pilot ∧ joining.mismatched = false ∧
      joining.twin.join.isSome = true) ∧
    ((twin .mate .trim).twinUp = true ∧ (twin .mate .trim).hasCause = false ∧ (twin .mate .lit).hasCause = false) ∧
    (let s := (twin .mate .lit).setReg (Obj.populated 0) 1
     (∀ g ∈ s.liveGroups, 0 ≤ dist32 (s.reg (Obj.nextArmSeq g)) 0) ∧ ∃ g ∈ s.liveGroups, dist32 (s.reg (Obj.nextArmSeq g)) 1 < 0) := by decide +kernel

/-- Publishes, and swaps of the copies and of the roles. -/
theorem witness_mate_swaps :
    (let s : State := { passed with taper := { newest := some 9 } }
     s.role = .mate ∧ s.mode = .lit ∧ s.taper.newest = some 9 ∧ 0 ≤ dist32 9 9 ∧ s.configured = true ∧ s.twinUp = true) ∧
    (let s : State := { twin .mate .pilot with raster := { flushFirst := some 0 } }
     let s := s.setReg (Obj.populated 0) 1
     s.role = .mate ∧ s.mode ≠ .lit ∧ s.health.overwriting = false ∧ s.atOnce 2000 = false ∧ s.twin.awaited = [] ∧ s.twinUp = true) ∧
    (let s : State := { twin .primary .pilot with health := { overwriting := true } }
     s.role = .primary ∧ s.health.overwriting = true ∧ s.swapPassed = false ∧ s.twinUp = true) ∧
    (let s : State := { twin .primary .pilot with health := { swap := some 9 } }
     let s := s.setReg (Obj.populated 0) 1
     s.role = .primary ∧ s.mode ≠ .lit ∧ s.health.overwriting = false ∧ s.twin.swap = none ∧ s.health.swap = some 9 ∧ s.swapPassed = false ∧
      changingRecs s.health.pending ([2 ^ 18].map (recordOf byLantern)) ≠ []) ∧
    (passed.role = .mate ∧ passed.mode = .lit ∧ passed.twin.swap = none) ∧
    (let s : State := { passed with twin := { passed.twin with swap := some (7, 1) } }
     s.twin.swap = some (7, 1) ∧ s.liveGroups = [] ∧ s.twinUp = true) := by decide +kernel

theorem witness_AChipJoinsAsMate :
    (let s : State := { hosting with twin := { hosting.twin with join := none } }
     s.twinUp = true ∧ s.strapped ≠ .solo ∧ s.role = .primary ∧ s.mode = .lit ∧ s.twin.swap = none ∧ s.taper.stopping = false ∧
      (s.pageFrom (((1024 + s.newestAll) % 2 ^ 32 + s.reg Obj.joinLead) % 2 ^ 32)).isSome = true) ∧
    ((twin .mate .pilot).twinUp = true ∧ (twin .mate .pilot).role = .mate ∧ (twin .mate .pilot).mismatched = false ∧ (twin .mate .pilot).twin.join = none) ∧
    (joining.twinUp = true ∧ joining.role = .mate ∧ joining.mode = .pilot ∧ joining.mismatched = false ∧ joining.twin.join = some (joinOf true) ∧ (joinOf true).joining = true) ∧
    (let s := ((hosting.setReg (Obj.nextArmSeq 0) 1023).setReg (Obj.nextArmSeq 2) 1023).setRegs [(Obj.nextArmSeq 4, 1023), (Obj.nextArmSeq 6, 1023)]
     (∀ g ∈ s.liveGroups, ∀ k ∈ s.liveStrips g, (Table.find (joinOf false).images k).isSome = true) ∧
      s.twin.join = some (joinOf false) ∧ (joinOf false).sent = false ∧ s.liveGroups = [0, 2, 4, 6] ∧
      (∀ g ∈ s.liveGroups, 0 ≤ dist32 (s.passedTo g) (joinOf false).snapshot) ∧ ∃ g ∈ s.liveGroups, dist32 (s.passedTo g) (joinOf false).line < 0) ∧
    ([(Obj.linesConfirmed, 5)].map Prod.fst).Nodup ∧
    (let s := hosting.setRegs [(Obj.nextArmSeq 0, 3000), (Obj.nextArmSeq 2, 3000), (Obj.nextArmSeq 4, 3000), (Obj.nextArmSeq 6, 3000)]
     (∀ g ∈ s.liveGroups, 0 ≤ dist32 (s.passedTo g) (joinOf false).line) ∧ s.twin.sendQueue = []) ∧
    (let j : Join := { joinOf true with retries := 4 }
     j.ready = false ∧ 4 ≤ j.retries) ∧
    ((joinOf false).ready = false ∧ (joinOf false).retries < 4 ∧ (hosting.pageFrom (((joinOf false).line + 1) % 2 ^ 32)).isSome = true) ∧
    (joining.twin.modeAt = some (4, (joinOf true).line) ∧ joining.hasCause = false) := by decide +kernel

/-- Port 1 with a frame of context 7. -/
def frame7 : Machine.Frame := { ctx := 7, gen := 0, set := { lines := 1 }, sof := 0, lit := true, derate := 64 }

def framed (f : Machine.Frame) : State := { dev .pilot with lantern := { frames := [(1, f)] } }

theorem witness_CameraFramesAndLines :
    (let s := devR .pilot [(Obj.portEnable, 2), (Obj.ctxEnable 7, 1)]
     s.blockUp Block.lantern = true ∧ s.mode.working = true ∧ (s.reg Obj.portEnable).testBit 1 = true ∧ s.frame 1 = none ∧ s.uartIdle 1 = true ∧
      s.nextCam 1 = some 7) ∧
    ((framed frame7).frame 1 = some frame7 ∧ frame7.trigs.length < frame7.set.lines ∧ frame7.lines < frame7.set.lines ∧
      (framed frame7).windowOpen = false ∧ (framed frame7).blockUp Block.led = true) ∧
    (let s := (framed frame7).setReg Obj.portEnable 2
     s.blockUp Block.lantern = true ∧ (s.reg Obj.portEnable).testBit 1 = true ∧ 1 ∉ s.lantern.deaf ∧
      s.breaches 1 { words := [5], lvalLow := 8, fvalLow := 16, fvalHigh := true } = false ∧
      s.breaches 1 { words := [5], lvalLow := 7, fvalLow := 16, fvalHigh := true } = true) ∧
    (let f := { frame7 with trigs := [0] }
     (framed f).frame 1 = some f ∧ f.set.lines ≤ f.trigs.length) ∧
    (let f := { frame7 with lines := 1 }
     (framed f).frame 1 = some f ∧ f.set.lines ≤ f.lines) ∧
    (let s : State := { dev .pilot with lantern := { uarts := [(0, .queued [1])] } }
     Table.get Uart.idle s.lantern.uarts 0 = .queued [1] ∧ s.frame 0 = none ∧ s.blockUp Block.lantern = true) ∧
    (let s : State := { dev .pilot with lantern := { uarts := [(0, .waiting)] } }
     Table.get Uart.idle s.lantern.uarts 0 = .waiting) := by decide +kernel

theorem block_length (ch q len : Nat) (sync legacy : Bool) (body : List Byte) : 1 ≤ (uploadBlock ch q len sync legacy body).length := by
  simp only [uploadBlock, List.length_append, le_length]
  omega

/-- Whatever the compressor does, a chunk of one byte takes 64 bytes of a buffer. -/
theorem packet_one (s : State) (ch : Nat) (b : Byte) (q tag : Nat) (opens ends : Bool) :
    alignedLen (uploadPayload ch q tag opens ends (s.code ch [b]) [b]).length = 64 := by
  have h : s.code ch [b] = .raw344 ∨ s.code ch [b] = .raw345 := by
    simp only [State.code, List.length_singleton, block_length, if_true]
    split_ifs <;> simp
  unfold uploadPayload
  rcases h with h | h <;> rw [h] <;> simp [alignedLen, zeros]

/-- A packet that has been sent. -/
def pkt (q : Nat) (sent : Bool) : Pkt := { q := q, payload := [1], place := 0, sent := sent, resend := false, opens := true, closes := none }

/-- One channel as given. -/
def chanOf (ch : Nat) (c : Chan) : State := (devR .pilot [(Obj.linkState, 3)]).setChan ch c

/-- A chunk of one byte is in hand. -/
def inHand (ch : Nat) (pkts : List Pkt) : State := chanOf ch { input := [9], flush := true, ends := if ch = 1 then [1] else [], pkts := pkts }

theorem witness_UploadChannelsCodeAndSend :
    ((chanOf 1 { input := [9] }).uploadUp = true ∧ ((chanOf 1 { input := [9] }).chan 1).input ≠ []) ∧
    ((inHand 0 []).chunkInHand 0 = some (1, false) ∧ (inHand 1 []).chunkInHand 1 = some (1, true) ∧ (inHand 1 []).uploadUp = true) ∧
    ((chanOf 3 { req := some { len := 1, size := 64 } }).uploadUp = true ∧
      ((chanOf 3 { req := some { len := 1, size := 64 } }).chan 3).req = some { len := 1, size := 64 } ∧
      1 ≤ (chanOf 3 { req := some { len := 1, size := 64 } }).reg Obj.chunkSize ∧ (chanOf 3 {}).memWaits (.upload 3) = false ∧
      ((chanOf 3 { req := some { len := 1, size := 63 } }).chan 3).pkts = []) ∧
    (let s := chanOf 1 { pkts := [pkt 5 true, pkt 6 false], credits := 1 }
     s.uploadUp = true ∧ s.rasterUp = true ∧ s.nextSender = some (1, pkt 6 false) ∧ (∃ p ∈ (s.chan 1).pkts, p.sent = true ∧ p.q = 5) ∧
      (s.chan 1).pkts = pkt 5 true :: [pkt 6 false]) := by decide +kernel

/-- A packet of one byte finds room in an empty ring, and none in a full one of one buffer. -/
theorem witness_ring_room (b : Byte) (k tag : Nat) (opens ends : Bool) :
    (inHand 0 []).ringSpot 0 (alignedLen (uploadPayload k 0 tag opens ends ((inHand 0 []).code k [b]) [b]).length) = some 0 ∧
    (let s := (inHand 0 [pkt 0 true]).setRegs [(Obj.outBufSize 0, 64), (Obj.outBufCount 0, 1)]
     let s := s.setChan 0 { s.chan 0 with place := 64 }
     s.ringSpot 0 (alignedLen (uploadPayload k 0 tag opens ends (s.code k [b]) [b]).length) = none) := by
  simp only [packet_one]
  exact ⟨by decide +kernel, by decide +kernel⟩

/-- The chunk of a request of one byte fits 64 bytes, and not 63. -/
theorem witness_request_room (s : State) (b : Byte) (tag : Nat) (opens ends : Bool) :
    0 + alignedLen (uploadPayload 3 0 tag opens ends (s.code 3 [b]) [b]).length ≤ 64 ∧
    63 < 0 + alignedLen (uploadPayload 3 0 tag opens ends (s.code 3 [b]) [b]).length := by
  rw [packet_one]; decide

/-- Two scans wait. -/
def scan9 : Scan := { unit := 9, flags := 1, len := 1, start := 0, expected := 0 }

def scanning : State := { dev .pilot with check := { queue := [{ scan9 with unit := 15, flags := 3 }, scan9] } }

/-- A block that is read as nothing, under a committed page, to be scrubbed. -/
def blank : Blk := { blk5 with bytes := [] }

def page0 : Page := { id := 1, first := 0, count := 1, last := [(2, 5)], fired := 0, skipped := 0 }

def scrubbing : State :=
  { devR .pilot [(Obj.scrubEnable, 1)] with raster := { rings := [(2, [blank])], flushFirst := some 0, nextFirst := 1, pages := [page0] } }

theorem witness_ScansAndTheScrubber :
    (scanning.check.queue = { scan9 with unit := 15, flags := 3 } :: [scan9] ∧ 15 < 16 ∧ scanning.memWaits .scan = false ∧
      (scanning.askMem .scan false 1).memWaits .scan = true ∧
      (∀ y ∈ [scan9].head?, y.unit ≠ 15 ∧ y.unit < 16) ∧ (3 : Nat).testBit 1 = true) ∧
    (scanning.check.ecc = false ∧ ({ scanning with check := { scanning.check with ecc := true } } : State).check.ecc = true) ∧
    (scrubbing.panics = false ∧ scrubbing.check.hand = none ∧ scrubbing.check.rests = false ∧ scrubbing.memWaits .scrub = false ∧ scrubbing.scrubs = true ∧ scrubbing.scrubLeft = [(2, blank)] ∧
      (let good := le 4 (crcFinal (crcFold false crcInit (crcPrefix 2 5)))
       field good (good.length - 4) 4 = crcFinal (crcFold false crcInit (crcPrefix 2 5 ++ good.take (good.length - 4)))) ∧
      field (zeros 4) 0 4 ≠ crcFinal (crcFold false crcInit (crcPrefix 2 5 ++ (zeros 4).take 0))) ∧
    (let s : State := { scrubbing with check := { hand := some (2, 4) } }
     s.check.hand = some (2, 4) ∧ s.checkUp = true ∧ s.panics = false ∧ s.memWaits .scrub = false ∧ s.scrubWalk.all (fun x => x.2.seq ≠ 4) = true) := by
  decide +kernel

/-- A block in hand when SCRUB_ENABLE is written 0 is still checked, and then unit 6 is general (16 R366). -/
theorem test_scrub_hand :
    ((scrubbing.enableScrub 0).check.hand = some (2, 5) ∧ (scrubbing.enableScrub 0).ownerNow 6 = 2) ∧
    (match execScrubBlock (le 4 (crcFinal (crcFold false crcInit (crcPrefix 2 5)))) (scrubbing.enableScrub 0) with
      | .next t => t.check.hand.isNone && decide (t.ownerNow 6 = 0)
      | _ => false) = true := by decide +kernel

/-- One wrong bit of a word, or of its check byte, is put right; two are not (17 R373, R374). -/
theorem test_secded :
    let w := 0x8000000000000001
    secdedRead w (secdedByte w) = some w ∧ secdedRead (w ^^^ 2 ^ 17) (secdedByte w) = some w ∧ secdedRead w (secdedByte w ^^^ 64) = some w ∧
      secdedRead (w ^^^ 3) (secdedByte w) = none ∧ secdedRead (w ^^^ 1) (secdedByte w ^^^ 1) = none ∧
      oneWrong (w ^^^ 2 ^ 63) (secdedByte w) = true ∧ oneWrong w (secdedByte w) = false := by decide +kernel

theorem witness_DramErrorsPanicAndRefresh :
    ((dev .pilot).dramUp = true ∧ (dev .pilot).usable - 1 < (dev .pilot).usable ∧ (dev .pilot).usable ≤ (dev .pilot).usable ∧
      (dev .pilot).configured = true ∧ (devR .pilot [(Obj.ueLimit, 1)]).reg Obj.ueLimit < [0, 0].length) ∧
    (oneWrong 1 (secdedByte 0) = true ∧ oneWrong 0 (secdedByte 0) = false ∧ secdedRead 1 (secdedByte 0) = some 0 ∧ secdedRead 3 (secdedByte 0) = none) ∧
    (let s : State := { dev .lit with raster := { rings := [(2, [{ blk5 with bytes := List.replicate 600 0 }])], flushFirst := some 0, nextFirst := 1 } }
     s.mode = .lit ∧ s.dram.panic = false ∧ s.buffersShort (s.reg Obj.panicMark) 2 500 = true ∧ s.dram.fast = false ∧
      (∀ k, k < 128 → s.buffersShort (s.reg Obj.panicMark + 2048) k ((List.replicate 128 4096).getD k 0) = false) ∧
      s.buffersShort (s.reg Obj.panicMark + 2048) 2 0 = true ∧ s.reg Obj.mr4Rate ≠ 5 % 256) ∧
    (let s : State := { dev .pilot with dram := { change := some (1, false) }, wick := { leave := [.dramSet1] } }
     s.dram.change = some (1, false) ∧ s.hasLeave (setRequester 1) = true ∧ s.panics = false ∧ s.dram.clearAt = none) ∧
    (let s : State := { dev .pilot with dram := { change := some (1, true) } }
     s.dram.change = some (1, true) ∧ s.dram.litDue = false ∧ s.dram.want = none) ∧
    (let s : State := { dev .pilot with dram := { change := some (0, true), litDue := true } }
     s.dram.change = some (0, true) ∧ s.dram.litDue = true ∧ s.mode = .pilot ∧ s.dramUp = true ∧ s.blockUp Block.taper = true) ∧
    (let r (who : MemUser) : MemReq := { who := who, write := false, bursts := 1, at_ := 0 }
     let s (p : Bool) : State := { dev .lit with dram := { urgent := [r (.context 5)], waiting := [r .scan, r .intake, r (.context 130)], panic := p } }
     (s true).selfRefresh = false ∧ (s true).dram.next true = some (r (.context 5)) ∧ (s true).panics = true ∧ (s true).promoteAged.dram.next true = some (r (.context 5)) ∧
      (let s : State := { s false with dram := { (s false).dram with urgent := [] } }
       s.panics = false ∧ s.dram.next false = some (r (.context 130))) ∧
      (let s : State := { s false with clock := { cycles := 10 ^ 9 } }
       r .scan ∈ s.dram.waiting ∧ s.ageLimit (r .scan).who.class < s.clock.cycles - (r .scan).at_)) := by decide +kernel

/-- A request of an LED burst, and one of a move, for an energy of a pool. -/
def burst (e : Nat) : WickReq := { who := .ledBurst 3, core := none, head := none, mach := some e, peak := 0 }
def moveReq (e : Nat) : WickReq := { burst e with who := .stepper 3 }

/-- P_MACH is empty, and a request waits for it. -/
def drained (e : Nat) : State := { dev .pilot with wick := { mach := 0, queue := [{ id := 0, req := moveReq e }], nextId := 1 } }

theorem witness_TheWickGivesLeave :
    (printing.linesFirst = printing ∨ printing.nextDecision.isSome = true) ∧
    ((dev .pilot).mode ≠ .dark ∧ (dev .pilot).blockUp Block.wick = true ∧ (dev .pilot).mode ≠ .lit ∧ (burst 5).who ≠ .dramSet0 ∧ (burst 5).who ≠ .maintPattern ∧
      (∀ x ∈ (burst 5).pools, (dev .pilot).poolOpen x.1 = true ∧ (x.2 : Int) ≤ (dev .pilot).poolCap x.1 ∧
        reqPeak (burst 5) x.2 ≤ 1000000 * (dev .pilot).reg (Obj.peak x.1)) ∧ (dev .pilot).coverable (burst 5) (dev .pilot).wick.nextId = true) ∧
    (∀ x ∈ (moveReq 5).pools, (drained 5).poolOpen x.1 = true ∧ (x.2 : Int) ≤ (drained 5).poolCap x.1 ∧
        reqPeak (moveReq 5) x.2 ≤ 1000000 * (drained 5).reg (Obj.peak x.1)) ∧
    ((drained 5).coverable (burst 5) 1 = false ∧ (drained 5).coverable (moveReq 5) 1 = false ∧ (moveReq 5).who.waits = true) ∧
    (burst (10 ^ 15)).pools.any (fun x => !decide ((x.2 : Int) ≤ (dev .pilot).poolCap x.1)) = true ∧
    ((drained 0).nextGrant = some { id := 0, req := moveReq 0 } ∧
      (drained 0).wick.queue.find? (fun x => decide (x.id = 0)) = some { id := 0, req := moveReq 0 } ∧
      (drained 0).coverable (moveReq 0) 0 = true ∧ (moveReq 0).who ≠ .maintPattern ∧ (drained 5).coverable (moveReq 5) 0 = false) := by
  decide +kernel

/-- Slot 47 samples a source. -/
def looping (source : Nat) : State := devR .pilot [(Obj.lpEnable 47, 1), (Obj.lpSource 47, source)]

/-- A last STATUS of module 0, just now. -/
def heardStatus : State :=
  let s := (looping 1).setRegs [(Obj.populated 0, 1), (Obj.laneState 0, 2)]
  s.setDom (Obj.lastStatus 0) (zeros 72)

/-- Slot 47 as its sample starts, with no slot before it. -/
def started (s : State) : State := (s.setLoop 47 { s.loop 47 with sampledAt := some s.clock.cycles, ahead := false }).startSample 47

theorem witness_LoopsSampleAndAreSupervised :
    (heardStatus.loopRuns 47 = true ∧ (heardStatus.loop 47).ahead = false ∧ heardStatus.earlierSlots 47 = [] ∧ (heardStatus.loop 47).busy = false ∧
      (started heardStatus).reg (Obj.lpSource 47) = 1 ∧ ((started heardStatus).statusRaw ((started heardStatus).reg (Obj.sourceArg 47))).isSome = true) ∧
    ((looping 3).loopRuns 47 = true ∧ (started (looping 3)).reg (Obj.lpSource 47) = 3 ∧ (looping 4).loopRuns 47 = true ∧
      (started (looping 4)).reg (Obj.lpSource 47) = 4) ∧
    ((looping 1).loopRuns 47 = true ∧ (started (looping 1)).statusRaw ((started (looping 1)).reg (Obj.sourceArg 47)) = none ∧
      ((looping 1).loop 47).invalid < 2) ∧
    (let s := (looping 1).setLoop 47 { (looping 1).loop 47 with invalid := 2 }
     s.loopRuns 47 = true ∧ s.earlierSlots 47 = [] ∧ (s.loop 47).busy = false ∧ (started s).reg (Obj.lpSource 47) = 1 ∧
      (started s).statusRaw ((started s).reg (Obj.sourceArg 47)) = none ∧ 2 ≤ (s.loop 47).invalid ∧ (started s).tripped 47 = false) ∧
    ((looping 2).loopRuns 47 = true ∧ ((looping 2).loop 47).busy = false ∧ (started (looping 2)).reg (Obj.lpSource 47) = 2 ∧
      Table.get [] (started (looping 2)).spi 3 = []) ∧
    (let s : State := { looping 2 with spi := [(3, [{ slot := 47, code := none, at_ := 0 }])] }
     let s := s.setLoop 47 { s.loop 47 with busy := true }
     Table.get [] s.spi 3 = { slot := 47, code := none, at_ := 0 } :: [] ∧ (s.loop 47).busy = true ∧ s.loopRuns 47 = true) ∧
    (let s : State := { looping 2 with spi := [(3, [{ slot := 47, code := some 7, at_ := 0 }])] }
     Table.get [] s.spi 3 = { slot := 47, code := some 7, at_ := 0 } :: []) ∧
    (let s := (looping 2).setLoop 47 { (looping 2).loop 47 with armed := true, overFollow := true }
     s.loopRuns 47 = true ∧ (s.loop 47).armed = true ∧ (s.loop 47).overFollow = true ∧ s.tripped 47 = false ∧ s.configured = true) := by
  decide +kernel

/-- Of two slots due at one instant the lower samples first, whichever is commanded (19 R410). -/
theorem test_sample_order :
    (let s := (looping 4).setRegs [(Obj.lpEnable 3, 1), (Obj.lpSource 3, 4), (Obj.lpPhase 3, 0), (Obj.lpPhase 47, 0)]
     s.earlierSlots 47 = [3] ∧ s.earlierSlots 3 = [] ∧ (s.setReg (Obj.limiter 3) 47).earlierSlots 3 = [47]) := by decide +kernel

/-- Axis 3 as given. -/
def axis3 (x : Axis) : State := { dev .trim with axes := [(3, x)], wick := { leave := [.stepper 3] } }

theorem witness_AxesMoveAndTheirChoppersRun :
    (((axis3 { act := .asking }).axis 3).act = .asking ∧ (axis3 { act := .asking }).hasLeave (.stepper 3) = true) ∧
    ((axis3 {}).blockUp Block.motion = true ∧ 2 ≤ 3 ∧ ((axis3 { act := .moving, left := 2 }).axis 3).follows = false ∧
      1 < ((axis3 { act := .moving, left := 2 }).axis 3).left ∧ ((axis3 { act := .backing, left := 1 }).axis 3).left ≤ 1 ∧
      (-(2 ^ 31)) ≤ ((axis3 { act := .moving, left := 1, goal := 2 ^ 31 - 1 }).axis 3).goal ∧
      ((axis3 { act := .moving, left := 1, goal := 2 ^ 31 - 1 }).axis 3).goal < 2 ^ 31) ∧
    (let x := (axis3 { act := .seeking }).axis 3
     x.act = .seeking ∧ x.left = 0 ∧ ((x.travel + x.vel.natAbs : Nat) : Int) - x.stepAt < 256 * microstep ∧
      ((x.travel + x.vel.natAbs : Nat) : Int) < ((axis3 { act := .seeking }).reg (Obj.homeMaxTravel 3) : Int) * microstep) ∧
    ((axis3 { chA := { driving := true, shorts := 2 } }).chopping 3 = true ∧
      (((axis3 { chA := { driving := true, shorts := 2 } }).axis 3).chop .a).driving = true ∧
      2 ≤ (((axis3 { chA := { driving := true, shorts := 2 } }).axis 3).chop .a).shorts ∧
      (((axis3 {}).axis 3).chop .b).driving = false ∧ 0 < (axis3 {}).reg (Obj.axBlank 3)) ∧
    (2 * (axis3 {}).phaseTarget 3 .a < 2 ^ 64 * (axis3 {}).reg (Obj.runCurrent 3) ∨ 2 * (axis3 {}).phaseTarget 3 .b < 2 ^ 64 * (axis3 {}).reg (Obj.runCurrent 3)) ∧
    (let s := axis3 { act := .moving }
     2 ^ 64 * s.reg (Obj.runCurrent 3) ≤ 2 * s.phaseTarget 3 .a ∨ 2 ^ 64 * s.reg (Obj.runCurrent 3) ≤ 2 * s.phaseTarget 3 .b) := by
  decide +kernel

/-- The grandmaster, with a stamp of each kind. -/
def master : State :=
  let s := devR .pilot [(Obj.ptpEnable, 1), (Obj.timeValid, 1)]
  { s with ptp := { syncOut := some 0, stamps := [{ tx := true, msg := 0, time := 5 }, { tx := false, msg := 65535, time := 6 }] } }

theorem witness_TheGrandmasterServesTime :
    (master.ptpMaster = true ∧ master.blockUp Block.ethMac = true ∧ master.blockUp Block.beacon = true ∧ master.configured = true) ∧
    (master.ptp.syncOut = some 0 ∧ master.ptp.stamps.find? (fun x => x.tx = true && x.msg = 0) = some { tx := true, msg := 0, time := 5 }) ∧
    ((master.ptp.reqTimes.filter (fun t => decide (master.clock.cycles - t < cyclesPerSec))).length < 512 ∧
      master.ptp.stamps.find? (fun x => x.tx = false && x.msg = 65535) = some { tx := false, msg := 65535, time := 6 }) ∧
    (master.ptp.stepAt ≠ some master.clock.cycles ∧ ({ stepAt := some 0 } : Ptp).stepAt = some 0) ∧
    512 ≤ ((List.replicate 512 0).filter (fun t => decide (master.clock.cycles - t < cyclesPerSec))).length ∧
    master.ptp.foreignAt = none ∧
    (let s : State := { dev .pilot with ptp := { foreignAt := some 0 } }
     s.ptp.foreignAt = some 0 ∧ s.clock.cycles - 0 < 10 * cyclesPerSec) := by decide +kernel

/-- An address that is not the device's: whatever the device's is, 0 and 1 are not both it. -/
theorem witness_foreign : ∃ identity : Nat, identity ≠ ptpIdentity := ⟨ptpIdentity + 1, by omega⟩

/-- KINDLE with items passed. -/
def kindling (result : Nat) : State :=
  { devR .kindle [(Obj.calResult, result), (Obj.populated 0, 1)] with
    cal := { running := true }, twin := { roleDecided := true }, wick := { leave := [.dramTraining] } }

/-- 40 steps from step 20 on: the middle step is 39, rounding down (17 R377); of two codes as good the lower; a run of 23 fails. -/
theorem test_eye : runEye eye = { delay := 39, width := 40, vref := 20 } ∧
    runEye ([21, 19].map (fun c => { code := c, passes := 2 ^ 128 - 2 ^ 127 })) = { delay := 127, width := 1, vref := 19 } ∧
    sweepFault 3 { set := 0, lane := 0, write := false, run1 := eye, run2 := [{ code := 20, passes := 2 ^ 23 - 1 }] } = some (40, 23) := by
  decide +kernel

/-- The sweeps of both sets, with the same eye each time. -/
def sweeps : List Sweep :=
  [0, 1].flatMap (fun set => (List.range 8).flatMap (fun lane => [false, true].map (fun w =>
    { set := set, lane := lane, write := w, run1 := eye, run2 := eye })))

theorem witness_KindleItemsPassOrFail :
    ((kindling 0).itemDue 0 [] = true ∧ [(8000 : Int), -2560, 0, 0].length = 4 ∧
      (∀ v ∈ [(8000 : Int), -2560, 0, 0], -2560 ≤ v ∧ v ≤ 8000) ∧
      (∀ x ∈ List.zip [(8000 : Int), -2560, 0, 0] [(8000 : Int), -2560, 0, 0], (x.1 - x.2).natAbs ≤ 4 * (kindling 0).reg Obj.tempTol) ∧
      ¬(∀ v ∈ [(8001 : Int), 0, 0, 0], -2560 ≤ v ∧ v ≤ 8000)) ∧
    ((kindling 1).itemDue 1 [0] = true ∧ [256, 256, 256, 65535].length = 4 ∧ (∀ v ∈ [256, 256, 256, 65535], 256 ≤ v)) ∧
    ((kindling 0).itemDue 2 [] = true ∧ ∀ x ∈ [(0, 1, 1), (31, 0, 63)], (kindling 0).unitFitted x.1 = true → 0 < x.2.1 ∧ x.2.1 < 63 ∧ 0 < x.2.2 ∧ x.2.2 < 63 ∧
      ((x.2.1 : Int) - x.2.2).natAbs ≤ (kindling 0).reg Obj.termTol) ∧
    (ctleObj 41 = some (0x242206 + 16 * 7) ∧ (kindling 0).cal.running = true ∧ (kindling 0).unitFitted 41 = true ∧ (kindling 0).calItem 3 = 0) ∧
    ((kindling 5).itemDue 5 [1] = true ∧ (List.replicate 8 64).length = 8 ∧ (∀ v ∈ List.replicate 8 64, v ≤ 64)) ∧
    ((kindling (2 ^ 10)).itemDue 6 [5] = true ∧ shortMap reads = 0 ∧ shortMap { reads with idle := 1 } = 2 ^ 24) ∧
    ((kindling (2 ^ 12)).itemDue 4 [6] = true ∧ (kindling (2 ^ 12)).hasLeave .dramTraining = true ∧ sweepsComplete sweeps = true ∧
      trainFault ((kindling (2 ^ 12)).reg Obj.dramTol) sweeps = none ∧
      clearMask 0x1FFFF ((kindling 0).reg Obj.blockReset) = 0x1FFFF) ∧
    (kindling (2 ^ 8)).calItem 4 = 1 := by decide +kernel

/-- The same value in both runs is within any tolerance. -/
theorem witness_same_runs (n : Nat) (l : List Nat) : ∀ x ∈ List.zip l l, ((x.1 : Int) - x.2).natAbs ≤ n := by
  intro x hx
  have : x.1 = x.2 := by
    induction l with
    | nil => simp at hx
    | cons a t ih => rcases List.mem_cons.1 hx with rfl | h
                     · rfl
                     · exact ih h
  rw [this]; simp

theorem witness_OverrunTakesNoSample :
    (let s := (looping 2).setLoop 47 { (looping 2).loop 47 with busy := true }
     s.loopRuns 47 = true ∧ (s.loop 47).ahead = false ∧ s.earlierSlots 47 = [] ∧ (s.loop 47).busy = true) := by decide +kernel

theorem witness_FrozenYilloggerStoresNothing : (devR .pilot [(Obj.ylogState, 2)]).reg Obj.ylogState = 2 ∧
    (∀ x ∈ (devR .pilot [(Obj.ylogState, 2)]).ylog.batch, x.code ≤ 0) ∧
    (sess1 ∈ (dev .pilot).igrel.sessions ∧ sess1.reserved = false ∧ (dev .pilot).session sess1.id = some sess1) := by decide +kernel

theorem witness_BeaconCountsEveryRefCycle :
    (let s : State := { (dev .pilot).setReg Obj.rateTrim (2 ^ 16 - 2 ^ 15) with clock := { beacon := { sec := 2 ^ 48 - 1, ns := 10 ^ 9 - 1 } } }
     s.clock.refOn = true ∧ s.blockUp Block.beacon = true ∧ s.clock.beacon.normal = true ∧ -(2 ^ 15) ≤ s.sreg Obj.rateTrim ∧
      s.sreg Obj.rateTrim < 2 ^ 15 ∧
      10 ^ 9 * 2 ^ 24 ≤ (s.clock.beacon.ns : Int) * 2 ^ 24 + s.clock.beacon.frac + 5 * 2 ^ 24 + s.sreg Obj.rateTrim) ∧
    ((dev .pilot).clock.beacon.normal = true ∧ (dev .pilot).blockUp Block.beacon = true) := by decide +kernel

theorem witness_UnitCommandsKeepToTheirUnits :
    ([.rasterLinkUp [] false, .healthSwap, .armingStart, .strobeEnd 0, .timeFrameSend, .heartbeatSend, .cameraTrigger 0, .flushTimeExpiry 0,
      .scanComplete, .rtPanicClear [], .headroomPublish, .loopSample 0, .motionTick, .ptpAnnounceSend, .jtagExtest] : List Instr).all
        (fun c => runs c (dev .pilot)) = true := by decide +kernel

/-! ### The spec's own worked values -/

/-- 07: the check values of the two CRCs over "123456789". -/
theorem test_crc_check_values : crc32c [0x31, 0x32, 0x33, 0x34, 0x35, 0x36, 0x37, 0x38, 0x39] = 0xE3069283 ∧
    crc32 [0x31, 0x32, 0x33, 0x34, 0x35, 0x36, 0x37, 0x38, 0x39] = 0xCBF43926 := by decide +kernel

/-- 05 R110: 1.5 is sent as 00 00 60 01, and 0.1875 with exponent 3 reads back so. -/
theorem test_bf24_normalises : Bf24.normalise 0x03180000 = some (fromLe [0x00, 0x00, 0x60, 0x01]) := by decide +kernel

/-- 05 R105: the payload of a READ of SILICON_REV, and its reply. -/
theorem test_read_payloads : readPayload Obj.siliconRev = [0x01, 0, 0, 0, 0x00, 0x10, 0x02, 0x00] ∧
    (le 1 1 ++ zeros 3 ++ goodEntry .u16 ((dev .pilot).readReg Obj.siliconRev) : List Byte) =
      [0x01, 0, 0, 0, 0, 0, 0, 0, 0x03, 0x02, 0, 0, 0xA1, 0, 0, 0] := by decide +kernel

/-- 07: the block of the example, without its trailer. -/
def wax07 : List Byte :=
  [0x57, 0x58, 0x01, 0x02, 0x05, 0x00, 0x00, 0x03, 0x00, 0x00, 0x03, 0x00, 0xE0, 0x64, 0x00, 0x40, 0x00, 0xAA, 0x7D, 0xE1, 0x40,
   0xE0, 0xFE, 0x01, 0xC0, 0xFE, 0xE3, 0xFF]

/-- Its lines. -/
def line07 (from_ : Nat) : List Byte := zeros from_ ++ List.replicate 64 0xAA ++ zeros (448 - from_)

/-- What the next line of the example decodes to from a context. -/
def next07 (c : CtxState) : Wax.LineRes :=
  Wax.nextLine 5 [{ blk5 with seq := 0x300, bytes := wax07 ++ zeros 4, lines := 3 }] 2 c

/-- 07: line 1 is 0xAA in columns 100 to 163. -/
theorem test_wax_line1 : (match next07 { blockSeq := 0x300 } with
    | .line l c => decide (l = line07 100) && decide (c.offset = 20) && decide (c.next = 1)
    | _ => false) = true := by decide +kernel

/-- 07: line 2 is line 1 moved two columns up, and line 3 repeats it. -/
theorem test_wax_line2 : (match next07 { blockSeq := 0x300, offset := 20, done := 1, next := 1, hist := [line07 100] } with
    | .line l c => decide (l = line07 102) && (match next07 c with
      | .line l c => decide (l = line07 102) && decide (c.offset = 27)
      | _ => false)
    | _ => false) = true := by decide +kernel

/-- 08: nozzle 699's medium drop is lowered one step at line 70,001, and one with trim 0 is kept. -/
theorem test_density_dither : density 2 (-20) 70001 699 = 1 ∧ density 3 0 70001 701 = 3 := by decide +kernel

/-- 18: lines A to D of the example, with the levels of P_HEAD before them in pJ. -/
theorem test_wick_line_outcomes :
    (let at_ (uJ : Int) : State := { dev .lit with wick := { head := uJ * 1000000 } }
     (at_ 80).lineOutcome { medium := 4000 } = (.grant, 140000000) ∧
      (at_ 9000).lineOutcome { medium := 20000, large := 5000 } = (.grant, 975000000) ∧
      (at_ 9000).lineOutcome { large := 32768 } = (.demote, 1146880000) ∧
      (at_ 600).lineOutcome { medium := 20000, large := 5000 } = (.skip, 0)) := by decide +kernel

/-- 19: y, e, ki_ts × e and i of the example, as mantissa and exponent. -/
theorem test_loop_arithmetic :
    Bf24.mul (Bf24.ofInt 2768) (Bf24.mk 0x400000 (-5)) = Bf24.mk 0x568000 6 ∧
    Bf24.sub (Bf24.ofInt 45) (Bf24.mk 0x568000 6) = Bf24.mk 0x700000 1 ∧
    Bf24.mul (Bf24.mk 0x400000 (-6)) (Bf24.mk 0x700000 1) = Bf24.mk 0x700000 (-6) ∧
    Bf24.add (Bf24.mk 0x500000 (-1)) (Bf24.mk 0x700000 (-6)) = Bf24.mk 0x538000 (-1) ∧
    Bf24.add (Bf24.mk 0x620000 (-2)) (Bf24.mk 0x538000 (-1)) = Bf24.mk 0x424000 0 := by decide +kernel

/-- 14: segment 37 with code 191, level 49,152 and derate 176 is on for 154.375 ns, its context's slot 500 ns long. -/
theorem test_led_on_time : slotPs 4000 = 500000 ∧
    (let s : State := { (dev .pilot).setReg Obj.ledBlank 100 with doms := [(Obj.calCodes, List.replicate 128 191)] }
     s.onTime { exposure := 4000, level := 49152 } 176 37 = 154375) := by decide +kernel

/-- 09, step 3 of the example, at the levels A low, B high: a backward edge after forward ones takes COUNT back to 1,000, leaves the mark and
makes SPEED unknown. -/
theorem test_reversed_edge :
    (let s := devR .pilot [(Obj.encEnable 0, 1), (Obj.encCount 0, 1001), (Obj.travelMark 0, 1001), (Obj.speedState 0, 1)]
     let s : State := { s with
       enc := { ch0 := { b := true, lastDir := some true, stamps := [10000, 0], lastCycle := some 0 } }, clock := { cycles := 5000 } }
     match exec (.encoderEdge 0 (List.replicate 20 (true, true))) s with
     | .next t => decide (t.reg (Obj.encCount 0) = 1000 ∧ t.reg (Obj.travelMark 0) = 1001 ∧ t.reg (Obj.speedState 0) = 0)
     | _ => false) = true := by decide +kernel

/-- 04 R87: HIGH may become LOW, and LOW may become nothing else. -/
theorem test_fuse_codes : codeReachable 2 3 = true ∧ codeReachable 1 2 = false ∧ codeReachable 3 0 = false := by decide +kernel

end Sys2Proof.Tests
end

section
/-! SUPPORT. O24 (03 R63 and R69, 00 R10): the bits of a flag object, and what a register write can do. -/

namespace Sys2Proof.Machine

/-! ### Bits of a flag object -/

theorem clearMask_testBit (v m b : Nat) : (clearMask v m).testBit b = (v.testBit b && !m.testBit b) := by
  unfold clearMask
  induction b generalizing v m with
  | zero =>
    have h := Nat.testBit_and v m 0
    have hle : v &&& m ≤ v := Nat.and_le_left
    simp only [Nat.testBit_zero] at h ⊢
    grind
  | succ b ih =>
    have h := Nat.testBit_and v m 0
    have hle : v &&& m ≤ v := Nat.and_le_left
    have hhalf : (v - (v &&& m)) / 2 = v / 2 - (v / 2 &&& m / 2) := by
      rw [← Nat.and_div_two]
      simp only [Nat.testBit_zero] at h
      have : (v &&& m) % 2 ≤ v % 2 := by grind
      omega
    rw [Nat.testBit_succ, hhalf, ih, Nat.testBit_succ, Nat.testBit_succ]

/-- What software's clearing leaves of a flag object: a bit set in the same REF cycle stands (00 R10). -/
theorem State.clearFlag_testBit (s : State) (key m b : Nat) : ((s.clearFlag key m).reg key).testBit b =
    ((s.reg key).testBit b && !(m.testBit b && !(Table.get 0 s.flagged key).testBit b)) := by
  unfold State.clearFlag
  rw [State.reg_clearBits_same, clearMask_testBit, clearMask_testBit]

theorem State.clearFlag_reg_other (s : State) {key k : Nat} (m : Nat) (h : k ≠ key) : (s.clearFlag key m).reg k = s.reg k :=
  s.reg_clearBits_other _ h

theorem State.setCause_testBit (s : State) (c b : Nat) : ((s.setCause c).reg Obj.snuffCause).testBit b =
    ((s.reg Obj.snuffCause).testBit b || (s.configured && decide (b = c))) := by
  unfold State.setCause
  split
  · next h => rw [State.reg_setBits_same, Nat.testBit_or, Nat.testBit_two_pow, h, Bool.true_and, decide_eq_decide.mpr eq_comm]
  · next h => simp [Bool.eq_false_iff.mpr h]

/-- The causes of a condition that stands set again (02 R54, 23 R490). -/
theorem State.standing_testBit (s : State) (b : Nat) : (s.standing.reg Obj.snuffCause).testBit b =
    ((s.reg Obj.snuffCause).testBit b || (s.configured && decide (b = Cause.safeStop) && s.pins.safeStopLow) ||
      (s.configured && decide (b = Cause.therm) && s.thermal)) := by
  unfold State.standing
  extract_lets s1
  have frame : Only [.regs, .flagged] s s1 := .ite (fun _ => s.setCause_only _) (fun _ => .refl)
  have hbit : (s1.reg Obj.snuffCause).testBit b =
      ((s.reg Obj.snuffCause).testBit b || (s.configured && decide (b = Cause.safeStop) && s.pins.safeStopLow)) := by
    cases hp : s.pins.safeStopLow
    · simp [s1, hp]
    · simp [s1, hp, State.setCause_testBit]
  have hconf : s1.configured = s.configured := by unfold State.configured; rw [frame.agree .rst (by decide)]
  have hhot : s1.thermal = s.thermal := by
    unfold State.thermal
    rw [frame.agree .die (by decide), frame.agree .heads (by decide)]
  clear_value s1
  cases ht : s1.thermal
  · simp [← hhot, ht, hbit]
  · simp [← hhot, ht, State.setCause_testBit, hbit, hconf]

/-! ### The objects of 0x1200 -/

/-- The objects of chapter 03 (index 0x1200) read in the second state as in the first. -/
structure SameReset (s t : State) : Prop where
  reg : ∀ k, k / 256 = 0x1200 → t.reg k = s.reg k

theorem SameReset.refl {s : State} : SameReset s s := ⟨fun _ _ => rfl⟩

/-- One operation more. -/
theorem SameReset.step {s t u : State} (h : SameReset t u) (k : SameReset s t) : SameReset s u :=
  ⟨fun j hj => (h.reg j hj).trans (k.reg j hj)⟩

theorem SameReset.ite {c : Prop} [Decidable c] {s t u : State} (h : c → SameReset s t) (k : ¬c → SameReset s u) :
    SameReset s (if c then t else u) := by
  by_cases x : c
  · rw [if_pos x]; exact h x
  · rw [if_neg x]; exact k x

theorem SameReset.foldl {α : Type} {s u : State} {g : State → α → State} {l : List α} (hg : ∀ t x, SameReset t (g t x))
    (k : SameReset s u) : SameReset s (l.foldl g u) := by
  induction l generalizing u with
  | nil => exact k
  | cons x t ih => exact ih ((hg u x).step k)

/-- An operation that does not touch the registers. -/
theorem Only.sameReset {d : List Fld} {s t : State} (h : Only d s t) (hd : Fld.regs ∉ d) : SameReset s t :=
  ⟨fun k _ => h.reg hd k⟩

/-- A record update that leaves the registers. -/
theorem SameReset.of_regs {s t : State} (h : t.regs = s.regs) : SameReset s t := ⟨fun k _ => State.reg_congr h k⟩

/-- A register of another chapter. -/
theorem State.setReg_sameReset (s : State) {j : Nat} (v : Nat) (hj : j / 256 ≠ 0x1200) : SameReset s (s.setReg j v) :=
  ⟨fun k hk => s.reg_setReg_other v (by rintro rfl; exact hj hk)⟩

theorem State.setBits_sameReset (s : State) {j : Nat} (m : Nat) (hj : j / 256 ≠ 0x1200) : SameReset s (s.setBits j m) :=
  ⟨fun k hk => s.reg_setBits_other m (by rintro rfl; exact hj hk)⟩

theorem State.bump_sameReset (s : State) {j : Nat} (hj : j / 256 ≠ 0x1200) : SameReset s (s.bump j) :=
  ⟨fun k hk => s.reg_bump_other (by rintro rfl; exact hj hk)⟩

theorem State.setRegs_sameReset (s : State) {l : List (Nat × Nat)} (hl : ∀ x ∈ l, x.1 / 256 ≠ 0x1200) : SameReset s (s.setRegs l) := by
  induction l generalizing s with
  | nil => exact .refl
  | cons x t ih =>
    exact (ih (s.setReg x.1 x.2) (fun y hy => hl y (List.mem_cons_of_mem _ hy))).step (s.setReg_sameReset _ (hl x List.mem_cons_self))

theorem State.setCause_sameReset (s : State) (b : Nat) : SameReset s (s.setCause b) :=
  ⟨fun k hk => s.setCause_reg b (by rintro rfl; exact absurd hk (by decide))⟩

theorem State.logEvent_sameReset (s : State) (code : Nat) (detail : List Byte) : SameReset s (s.logEvent code detail) := by
  have away : ∀ k ∈ yilloggerObjects, k / 256 ≠ 0x1200 := by decide
  exact ⟨fun k hk => s.logEvent_reg code detail (fun h => away k h hk)⟩

theorem State.twinEvent_sameReset (s : State) (bit : Nat) (code : Option Nat) (detail : List Byte) :
    SameReset s (s.twinEvent bit code detail) := by
  have h : SameReset s (s.setBits Obj.twinEvents (2 ^ bit)) := s.setBits_sameReset _ (by decide)
  unfold State.twinEvent
  cases code with
  | some c => exact (State.logEvent_sameReset ..).step h
  | none => exact h

theorem State.afterLink_sameReset (was : Bool) (s : State) : SameReset s (s.afterLink was) :=
  .ite (fun _ => .refl) (fun _ => .ite (fun _ => s.setCause_sameReset _) (fun _ => .ite (fun _ => s.twinEvent_sameReset ..) (fun _ => .refl)))

/-! What the reset of a block does to them: nothing. -/

theorem State.noteQueued_sameReset (s : State) : SameReset s s.noteQueued :=
  (State.setReg_sameReset _ _ (by decide)).step ((State.setReg_sameReset _ _ (by decide)).step (State.setReg_sameReset _ _ (by decide)))

theorem State.onRefusal_sameReset (s : State) (who : Requester) : SameReset s (s.onRefusal who) := by
  have moved : ∀ a, SameReset s (s.moveRefused a) := fun a =>
    .ite (fun _ => (State.bump_sameReset _ (by decide)).step (.of_regs rfl)) (fun _ => .refl)
  unfold State.onRefusal
  split
  · split
    · exact .ite (fun _ => .refl) (fun _ => .of_regs rfl)
    · exact .refl
  · exact moved _
  · exact .ite (fun _ => .of_regs rfl) (fun _ => .refl)
  · exact .refl

theorem State.wickReset_sameReset (s : State) : SameReset s s.wickReset :=
  .foldl (fun t _ => t.onRefusal_sameReset _) ((State.noteQueued_sameReset _).step (.of_regs rfl))

theorem State.rasterReset_sameReset (s : State) : SameReset s s.rasterReset := by
  have lanes : ∀ (l : List Nat) (t : State), SameReset t (t.rasterLanes 0 l) := by
    intro l
    induction l with
    | nil => exact fun t => .refl
    | cons u l ih => 
      intro t
      refine (ih _).step (State.setReg_sameReset _ _ ?_)
      unfold rasterLane
      split <;> omega
  exact (State.setReg_sameReset _ _ (by decide)).step ((lanes _ _).step (.of_regs rfl))

theorem State.dropStrobes_sameReset (s : State) (l : List Nat) : SameReset s (s.dropStrobes l) := by
  have drop : ∀ (t : State) (g : Nat), SameReset t (t.dropStrobe g) := fun t g =>
    SameReset.foldl (fun u _ => u.logEvent_sameReset ..) (.of_regs rfl)
  induction l generalizing s with
  | nil => exact .refl
  | cons g l ih =>
    refine (ih _).step (.ite (fun _ => ?_) (fun _ => drop s g))
    exact SameReset.step (t := s.dropStrobe g) (.of_regs rfl) (drop s g)

theorem State.taperReset_sameReset (s : State) : SameReset s s.taperReset := by
  unfold State.taperReset
  extract_lets s1
  have h1 : SameReset s s1 := s.dropStrobes_sameReset _
  clear_value s1
  split
  · exact h1
  · exact SameReset.step (t := s1) (.of_regs rfl) h1

theorem State.headReset_sameReset (s : State) : SameReset s s.headReset := by
  refine .foldl (fun t m => ?_) .refl
  extract_lets t1 h t2
  have h1 : SameReset t t1 := .ite (fun _ => (State.suspend_only t m).sameReset (by decide)) (fun _ => .refl)
  exact (State.setReg_sameReset _ _ (by unfold Obj.laneState; omega)).step (SameReset.step (t := t1) (.of_regs rfl) h1)

theorem State.twinReset_sameReset (s : State) : SameReset s s.twinReset :=
  (State.afterLink_sameReset ..).step ((State.setReg_sameReset _ _ (by decide)).step ((State.setReg_sameReset _ _ (by decide)).step (.of_regs rfl)))

theorem State.checkReset_sameReset (s : State) : SameReset s s.checkReset := by
  refine (State.setReg_sameReset _ _ (by decide)).step ((State.setRegs_sameReset _ ?_).step ((State.setRegs_sameReset _ ?_).step (.of_regs rfl)))
  · intro x hx
    obtain ⟨u, -, rfl⟩ := List.mem_map.mp hx
    show Obj.unitState u / 256 ≠ 0x1200
    unfold Obj.unitState; omega
  · intro x hx
    obtain ⟨u, -, rfl⟩ := List.mem_map.mp hx
    show Obj.running u / 256 ≠ 0x1200
    unfold Obj.running; omega

theorem State.setLevel_sameReset (s : State) (p : Nat) (v : Int) : SameReset s (s.setLevel p v) := by
  unfold State.setLevel
  extract_lets c v' s1
  have h1 : SameReset s s1 := .ite (fun _ => s.setBits_sameReset _ (by decide)) (fun _ => .refl)
  exact SameReset.step (t := s1) (.of_regs rfl) h1

theorem State.withdrawMove_sameReset (s : State) (a : Nat) : SameReset s (s.withdrawMove a) := by
  unfold State.withdrawMove
  extract_lets who s1
  have refund : SameReset s ((s.useLeave who).refundPool 2 (s.axis a).charge) :=
    SameReset.step (t := s.useLeave who) (.ite (fun _ => .refl) (fun _ => State.setLevel_sameReset ..)) (.of_regs rfl)
  have h1 : SameReset s s1 := .ite (fun _ => refund) (fun _ => .refl)
  exact (State.noteQueued_sameReset _).step (SameReset.step (t := s1) (.of_regs rfl) h1)

theorem State.motionReset_sameReset (s : State) : SameReset s s.motionReset := by
  have axis : ∀ (t : State) (lost : Bool) (a : Nat), SameReset t (t.stopAxis lost a) := by
    intro t lost a
    unfold State.stopAxis
    extract_lets x t1
    have h1 : SameReset t t1 := .ite (fun _ => t.withdrawMove_sameReset a) (fun _ => .refl)
    exact SameReset.step (t := t1) (.of_regs rfl) h1
  have each : ∀ (l : List Nat) (t : State) (lost : Bool), SameReset t (t.stopEach lost l) := by
    intro l
    induction l with
    | nil => exact fun _ _ => .refl
    | cons a l ih => exact fun t lost => (ih _ _).step (axis t lost a)
  exact ((State.emitAll_only ..).sameReset (by decide)).step (.foldl (fun t a => each _ _ _) .refl)

theorem State.holdBlock_sameReset (s : State) (b : Nat) : SameReset s (s.holdBlock b) := by
  unfold State.holdBlock
  split
  · exact s.rasterReset_sameReset
  · exact .of_regs rfl
  · exact s.taperReset_sameReset
  · exact s.headReset_sameReset
  · exact s.twinReset_sameReset
  · exact (State.lanternReset_only s).sameReset (by decide)
  · exact .of_regs rfl
  · exact (State.uploadReset_only s).sameReset (by decide)
  · exact s.checkReset_sameReset
  · exact .of_regs rfl
  · exact s.wickReset_sameReset
  · exact s.motionReset_sameReset
  · exact .refl

theorem State.holdBlocks_sameReset (s : State) (l : List Nat) : SameReset s (s.holdBlocks l) := by
  induction l generalizing s with
  | nil => exact .refl
  | cons b l ih => exact (ih _).step (s.holdBlock_sameReset b)

end Sys2Proof.Machine
end

section
namespace Sys2Proof.Machine

/-! ### A write of BLOCK_RESET (03 R69 to R71) -/

theorem State.rasterLanes_sameReset (s : State) (v : Nat) (l : List Nat) : SameReset s (s.rasterLanes v l) := by
  induction l generalizing s with
  | nil => exact .refl
  | cons u l ih =>
    refine (ih _).step (State.setReg_sameReset _ _ ?_)
    unfold rasterLane
    split <;> omega

theorem State.headRelease_sameReset (s : State) : SameReset s s.headRelease := by
  have lane : ∀ (t : State) (m v : Nat), SameReset t (t.setReg (Obj.laneState m) v) := fun t m v =>
    t.setReg_sameReset v (by unfold Obj.laneState; omega)
  have train : ∀ (l : List Nat) (t : State), SameReset t (t.trainAll l) := by
    intro l
    induction l with
    | nil => exact fun _ => .refl
    | cons m l ih => exact fun t => (ih _).step (SameReset.step (t := t.setReg (Obj.laneState m) 1) (.of_regs rfl) (lane t m 1))
  exact (train _ _).step (.foldl (fun t m => lane t m 4) .refl)

theorem State.beginLinks_sameReset (s : State) (freed : Nat) : SameReset s (s.beginLinks freed) := by
  have sent : ∀ (t : State) (l : List Out), SameReset t (t.emitAll l) := fun t l => (t.emitAll_only l).sameReset (by decide)
  have twin : ∀ t : State, SameReset t t.trainTwin := fun t =>
    (sent _ _).step ((State.setReg_sameReset _ _ (by decide)).step (t.setReg_sameReset _ (by decide)))
  have raster : ∀ t : State, SameReset t t.trainRaster := fun t =>
    (sent _ _).step ((State.setReg_sameReset _ _ (by decide)).step (t.rasterLanes_sameReset _ _))
  unfold State.beginLinks
  extract_lets s1 s2
  have h1 : SameReset s s1 := .ite (fun _ => s.headRelease_sameReset) (fun _ => .refl)
  have h2 : SameReset s s2 := .ite (fun _ => (twin s1).step h1) (fun _ => h1)
  exact .ite (fun _ => (raster s2).step h2) (fun _ => h2)

theorem State.pendBlocks_blockReset (s : State) (m : Nat) :
    (s.pendBlocks m).reg Obj.blockReset = clearMask (s.reg Obj.blockReset) (s.reg Obj.blockReset &&& m) := by
  unfold State.pendBlocks
  rw [State.reg_setReg_other _ _ (by decide), State.reg_setReg_same]

theorem State.pendBlocks_blockPended (s : State) (m : Nat) :
    (s.pendBlocks m).reg Obj.blockPended = s.reg Obj.blockPended ||| (s.reg Obj.blockReset &&& m) :=
  State.reg_setReg_same ..

theorem State.pendBlocks_reg_other (s : State) (m : Nat) {k : Nat} (h1 : k ≠ Obj.blockReset) (h2 : k ≠ Obj.blockPended) :
    (s.pendBlocks m).reg k = s.reg k := by
  unfold State.pendBlocks
  rw [State.reg_setReg_other _ _ h2, State.reg_setReg_other _ _ h1]

theorem SameReset.pendBlocks {s t : State} (h : SameReset s t) (m : Nat) : SameReset (s.pendBlocks m) (t.pendBlocks m) := by
  refine ⟨fun k hk => ?_⟩
  have hr := h.reg Obj.blockReset (by decide)
  have hp := h.reg Obj.blockPended (by decide)
  by_cases h1 : k = Obj.blockReset
  · rw [h1, State.pendBlocks_blockReset, State.pendBlocks_blockReset, hr]
  by_cases h2 : k = Obj.blockPended
  · rw [h2, State.pendBlocks_blockPended, State.pendBlocks_blockPended, hr, hp]
  · rw [State.pendBlocks_reg_other _ _ h1 h2, State.pendBlocks_reg_other _ _ h1 h2, h.reg k hk]

/-- The blocks that a write of BLOCK_RESET holds: those written 1, and those held before that stay held whatever is written. -/
def State.heldBy (s : State) (v : Nat) : Nat := v ||| (s.keptHeld &&& s.reg Obj.blockReset)

/-- Of the objects of 0x1200 a write of BLOCK_RESET changes BLOCK_RESET and BLOCK_PENDED alone: the blocks' own resets change none. -/
theorem State.writeBlockReset_sameReset (s : State) (v : Nat) :
    let held := s.heldBy v
    let old := s.reg Obj.blockReset
    SameReset (((s.setReg Obj.blockReset (old ||| held)).clearBits Obj.blockPended (clearMask held old)).pendBlocks (clearMask old held))
      (s.writeBlockReset v) := by
  refine (State.beginLinks_sameReset ..).step (SameReset.pendBlocks ?_ _)
  exact (State.holdBlocks_sameReset ..).step (.of_regs rfl)

theorem State.writeBlockReset_blockReset (s : State) (v b : Nat) :
    ((s.writeBlockReset v).reg Obj.blockReset).testBit b = (s.heldBy v).testBit b := by
  rw [(s.writeBlockReset_sameReset v).reg _ (by decide), State.pendBlocks_blockReset, State.reg_clearBits_other _ _ (by decide),
    State.reg_setReg_same]
  simp only [clearMask_testBit, Nat.testBit_or, Nat.testBit_and]
  cases (s.reg Obj.blockReset).testBit b <;> cases (s.heldBy v).testBit b <;> rfl

/-- A block that it no longer holds is pended. -/
theorem State.writeBlockReset_pended (s : State) (v : Nat) {b : Nat} (ho : (s.reg Obj.blockReset).testBit b = true)
    (hn : (s.heldBy v).testBit b = false) : ((s.writeBlockReset v).reg Obj.blockPended).testBit b = true := by
  rw [(s.writeBlockReset_sameReset v).reg _ (by decide), State.pendBlocks_blockPended,
    State.reg_clearBits_other (j := Obj.blockReset) _ _ (by decide), State.reg_setReg_same]
  simp [clearMask_testBit, ho, hn]

theorem State.writeBlockReset_resetCause (s : State) (v : Nat) : (s.writeBlockReset v).reg Obj.resetCause = s.reg Obj.resetCause := by
  rw [(s.writeBlockReset_sameReset v).reg _ (by decide), State.pendBlocks_reg_other _ _ (by decide) (by decide),
    State.reg_clearBits_other _ _ (by decide), State.reg_setReg_other _ _ (by decide)]

/-! ### The stored bits of a write-1-to-clear object -/

theorem storedBits_of_ne {ty : Dict.Ty} (h : ty ≠ .bf24) (v : Nat) : storedBits ty v = v := by
  cases ty <;> first | rfl | exact absurd rfl h

/-- Whether a row holds a BF24 value only where a loop slot has one, beside its flags at subindex 0x2B (19 R419). -/
def bf24Apart (r : Dict.ObjRow) : Bool :=
  decide (r.ty ≠ .bf24) || (decide (r.idx = 0x2B00) && decide (r.idxN = 48) && !r.has (0x2B00 * 256 + 0x2B))

theorem rowsAt_bf24Apart (idx : Nat) : (Dict.rowsAt idx).all bf24Apart = true := by
  have either {c : Prop} [Decidable c] {l m : List Dict.ObjRow} (hl : l.all bf24Apart = true) (hm : m.all bf24Apart = true) :
      (if c then l else m).all bf24Apart = true := by
    split
    · exact hl
    · exact hm
  unfold Dict.rowsAt
  iterate 29 refine either (by decide +kernel) ?_
  rfl

/-- A write-1-to-clear object is no BF24 value. -/
theorem isW1c_ty {key : Nat} {r : Dict.ObjRow} (hk : isW1c key = true) (hr : findObj key = .ok r) : r.ty ≠ .bf24 := by
  intro ht
  obtain ⟨-, hrow⟩ := findObj_row hr
  unfold Dict.row at hrow
  have hhas : r.has key = true := by simpa using List.find?_some hrow
  have hrow := List.all_eq_true.mp (rowsAt_bf24Apart _) r (List.mem_of_find?_eq_some hrow)
  simp only [bf24Apart, ht, ne_eq, not_true, decide_false, Bool.false_or, Bool.and_eq_true, decide_eq_true_eq, Bool.not_eq_true'] at hrow
  obtain ⟨⟨hidx, hn⟩, hno⟩ := hrow
  have hlo : 0x2B00 ≤ key / 256 ∧ key / 256 < 0x2B30 := by
    simp only [Dict.ObjRow.has, hidx, hn, Bool.and_eq_true, decide_eq_true_eq] at hhas
    exact hhas.1.1
  have hsub : key % 256 = 0x2B := by
    simp [isW1c, Obj.encStatus, Obj.lanternStatus, Obj.ledStatus, Obj.checkStatus, Obj.dramStatus, Obj.wickStatus, Obj.ptpStatus,
      Obj.twinEvents] at hk
    omega
  simp [Dict.ObjRow.has, hidx, hn, hsub, hlo] at hhas hno
  grind

end Sys2Proof.Machine
end

section
namespace Sys2Proof.Machine

/-! ### What an accepted write leaves -/

/-- An accepted write of an object that holds no BF24 value has its effect on the value as written; beside it, only what is sent and the session
change. -/
theorem State.send_effect_raw {s : State} {h : Hdr} {key v : Nat} (ha : s.admits h key v) (hk : key ≠ Obj.fusePadProgram)
    (hty : ∀ r, findObj key = .ok r → r.ty ≠ .bf24) :
    Only [.igrel, .out] ((s.sawPacket h).writeEffect key v) (s.send h key v) := by
  obtain ⟨x, r, hh, hr, hv, hf⟩ := ha
  obtain ⟨e, rfl, he⟩ := State.send_effect ⟨x, r, hh, hr, hv, hf⟩ hr hk
  rwa [storedBits_of_ne (hty r hr)] at he

theorem findObj_ty_ne {key : Nat} (h : (findObj key).toOption.all (fun r => decide (r.ty ≠ .bf24)) = true) :
    ∀ r, findObj key = .ok r → r.ty ≠ .bf24 := by
  intro r hr
  simpa [hr, Except.toOption] using h

theorem State.writeEffect_snuffCauseClear (s : State) (v : Nat) :
    s.writeEffect Obj.snuffCauseClear v = (s.clearFlag Obj.snuffCause (v &&& 0xFFF)).standing := rfl

theorem State.writeEffect_resetCauseClear (s : State) (v : Nat) : s.writeEffect Obj.resetCauseClear v = s.clearFlag Obj.resetCause v := rfl

theorem State.writeEffect_resetRequest (s : State) (v : Nat) :
    s.writeEffect Obj.resetRequest v = { s with rst := { s.rst with igrelDue := true } } := rfl

theorem State.writeEffect_blockReset (s : State) (v : Nat) : s.writeEffect Obj.blockReset v = s.writeBlockReset v := rfl

theorem State.writeEffect_w1c (s : State) {key : Nat} (hk : isW1c key = true) (v : Nat) : s.writeEffect key v = s.clearFlags key v :=
  if_pos hk

theorem State.clearFlags_regs (s : State) (key v : Nat) : (s.clearFlags key v).regs = (s.clearFlag key v).regs := by
  unfold State.clearFlags
  dsimp only
  split
  · split <;> rfl
  · rfl

theorem mask_twelve_testBit (v b : Nat) : (v &&& 0xFFF).testBit b = (decide (b < 12) && v.testBit b) := by
  rw [Nat.testBit_and, show 0xFFF = 2 ^ 12 - 1 from rfl, Nat.testBit_two_pow_sub_one, Bool.and_comm]

/-! ### The five writes -/

theorem snuffCauseClear_effect {s : State} {h : Hdr} {v : Nat} (ha : s.admits h Obj.snuffCauseClear v) :
    Completes (.snuffCauseClear h v) s (fun t => t.mode = s.mode ∧ ∀ b : Nat, (t.reg Obj.snuffCause).testBit b =
      (((s.reg Obj.snuffCause).testBit b &&
          !(decide (b < 12) && v.testBit b && !(Table.get 0 s.flagged Obj.snuffCause).testBit b)) ||
        (s.configured && decide (b = Cause.safeStop) && s.pins.safeStopLow) || (s.configured && decide (b = Cause.therm) && s.thermal))) := by
  have he := State.send_effect_raw ha (by decide) (findObj_ty_ne (by decide +kernel))
  rw [State.writeEffect_snuffCauseClear] at he
  refine ⟨_, rfl, ?_, fun b => ?_⟩
  · exact (he.agree .mode (by decide)).trans ((State.standing_only _).agree .mode (by decide))
  · rw [he.reg (by decide), State.standing_testBit, State.clearFlag_testBit, mask_twelve_testBit]
    rfl

theorem resetCauseClear_effect {s : State} {h : Hdr} {v : Nat} (ha : s.admits h Obj.resetCauseClear v) :
    Completes (.resetCauseClear h v) s (fun t => ∀ b, (t.reg Obj.resetCause).testBit b =
      ((s.reg Obj.resetCause).testBit b && !(v.testBit b && !(Table.get 0 s.flagged Obj.resetCause).testBit b))) := by
  have he := State.send_effect_raw ha (by decide) (findObj_ty_ne (by decide +kernel))
  rw [State.writeEffect_resetCauseClear] at he
  refine ⟨_, rfl, fun b => ?_⟩
  rw [he.reg (by decide), State.clearFlag_testBit]
  rfl

theorem w1cClear_effect {s : State} {h : Hdr} {key v : Nat} (hk : isW1c key = true) (ha : s.admits h key v) :
    Completes (.w1cClear h key v) s (fun t => (∀ b, (t.reg key).testBit b =
      ((s.reg key).testBit b && !(v.testBit b && !(Table.get 0 s.flagged key).testBit b))) ∧ s.regsBut t [key]) := by
  have he := State.send_effect_raw ha (by rintro rfl; exact absurd hk (by decide)) (fun r => isW1c_ty hk)
  rw [State.writeEffect_w1c _ hk] at he
  have hreg : ∀ k, (s.send h key v).reg k = ((s.sawPacket h).clearFlag key v).reg k := fun k =>
    (he.reg (by decide) k).trans (State.reg_congr (State.clearFlags_regs ..) k)
  refine ⟨s.send h key v, (if_pos hk : execW1cClear h key v s = _), fun b => ?_, fun k hkey => ?_⟩
  · rw [hreg, State.clearFlag_testBit]
    rfl
  · rw [hreg, State.clearFlag_reg_other _ _ (by simpa using hkey)]
    rfl

theorem resetRequest_effect {s : State} {h : Hdr} {v : Nat} (ha : s.admits h Obj.resetRequest v) :
    Completes (.resetRequest h v) s (fun t => t.rst.igrelDue = true ∧ t.mode = s.mode ∧ t.regs = s.regs) := by
  have he := State.send_effect_raw ha (by decide) (findObj_ty_ne (by decide +kernel))
  rw [State.writeEffect_resetRequest] at he
  refine ⟨_, rfl, ?_, he.agree .mode (by decide), he.agree .regs (by decide)⟩
  rw [he.agree .rst (by decide)]

theorem blockResetWrite_effect {s : State} {h : Hdr} {v : Nat} (ha : s.admits h Obj.blockReset v) :
    Completes (.blockResetWrite h v) s (fun t => t.mode = s.mode ∧ t.reg Obj.resetCause = s.reg Obj.resetCause ∧
      ∀ b : Nat, (v.testBit b = true → (t.reg Obj.blockReset).testBit b = true) ∧
        (v.testBit b = false → s.keptHeld.testBit b = false → (t.reg Obj.blockReset).testBit b = false ∧
          ((s.reg Obj.blockReset).testBit b = true → (t.reg Obj.blockPended).testBit b = true))) := by
  have he := State.send_effect_raw ha (by decide) (findObj_ty_ne (by decide +kernel))
  rw [State.writeEffect_blockReset] at he
  have hheld : ∀ b, ((s.sawPacket h).heldBy v).testBit b =
      (v.testBit b || (s.keptHeld.testBit b && (s.reg Obj.blockReset).testBit b)) := by
    intro b
    unfold State.heldBy
    rw [Nat.testBit_or, Nat.testBit_and]
    rfl
  refine ⟨_, rfl, ?_, ?_, fun b => ⟨fun hv => ?_, fun hv hk => ⟨?_, fun ho => ?_⟩⟩⟩
  · exact (he.agree .mode (by decide)).trans ((State.writeBlockReset_only ..).agree .mode (by decide))
  · rw [he.reg (by decide), State.writeBlockReset_resetCause]
    rfl
  · rw [he.reg (by decide), State.writeBlockReset_blockReset, hheld, hv, Bool.true_or]
  · rw [he.reg (by decide), State.writeBlockReset_blockReset, hheld, hv, hk]
    rfl
  · rw [he.reg (by decide)]
    exact State.writeBlockReset_pended _ _ ho (by rw [hheld, hv, hk]; rfl)

/-- Settles O24: an accepted write is its effect (05 R106), and each of the five effects is a rule about the bits of one flag object. -/
theorem clearingAndResetWrites : Obligations.ClearingAndResetWrites := by
  unfold Obligations.ClearingAndResetWrites
  intro s h v
  exact ⟨snuffCauseClear_effect, resetCauseClear_effect, fun _ => w1cClear_effect, resetRequest_effect, blockResetWrite_effect⟩

end Sys2Proof.Machine
end

section
/-! SUPPORT. O46 (12, what a mate takes from its primary): what the operations of the twin link leave of the mode, the pins and the twin's own
state, and O46 itself, a lemma for each message. -/

namespace Sys2Proof.Machine

/-! ### Modes -/

theorem SameReset.blockUp {s t : State} (h : SameReset s t) (b : Nat) : t.blockUp b = s.blockUp b := by
  unfold State.blockUp
  rw [h.reg _ (by decide), h.reg _ (by decide)]

theorem State.toMode_sameReset (s : State) (m : Mode) : SameReset s (s.toMode m) := by
  have away : ∀ k ∈ Obj.modeEntryTime :: yilloggerObjects, k / 256 ≠ 0x1200 := by decide
  refine ⟨fun k hk => s.toMode_reg m (fun h => away k (.tail _ h) hk) ?_⟩
  rintro rfl
  exact away _ (.head _) hk

theorem State.setOrigin_sameReset (s : State) : SameReset s s.setOrigin :=
  .ite (fun _ => (State.setReg_sameReset _ _ (by decide)).step (s.setReg_sameReset _ (by decide))) (fun _ => .refl)

/-- LIT is entered with priming begun, and with BAR_FIRE_EN high where TAPER is out of reset (02 R48, 10 R228). -/
theorem State.enterLit_lit (s : State) : s.enterLit.mode = .lit ∧
    s.enterLit.pins.fireEn = (if s.blockUp Block.taper then .high else .low) ∧ s.enterLit.taper.priming = true := by
  unfold State.enterLit
  extract_lets s1 _ _ _ s2 s3
  have start : SameReset s s1 := ((State.startGroups_only ..).sameReset (by decide)).step
    ((State.setOrigin_sameReset _).step ((State.freshTwin_only s).sameReset (by decide)))
  clear_value s1
  have readied : SameReset s s2 := SameReset.step (t := s1) (.of_regs rfl) start
  have enter : SameReset s2 s3 := ((State.tellState_only _).sameReset (by decide)).step
    (((State.drivenAlive_only _).sameReset (by decide)).step (s2.toMode_sameReset _))
  have tell : Only [.pins, .heads, .out] (s2.toMode .lit) s3.fireReset := (State.fireReset_only _).step (by decide)
    ((State.tellState_only _).step (by decide) ((State.drivenAlive_only _).mono (by decide)))
  have up : s3.fireReset.blockUp Block.taper = s.blockUp Block.taper :=
    (((State.fireReset_only s3).sameReset (by decide)).step (enter.step readied)).blockUp _
  have lit : s3.fireReset.mode = .lit := by rw [tell.agree .mode (by decide), State.toMode_mode]
  have primes : s3.fireReset.taper.priming = true := by
    rw [tell.agree .taper (by decide), (State.toMode_only ..).agree .taper (by decide)]
  generalize s3.fireReset = s4 at up lit primes
  exact ⟨lit, congrArg (fun b => if b = true then Level.high else Level.low) up, primes⟩

theorem State.selectSet_same (s : State) {set : Nat} (hnow : s.dram.setNow = set) (hch : s.dram.change = none) : s.selectSet set = s := by
  unfold State.selectSet
  rw [hch]
  exact if_pos hnow

/-- With timing set 0 in use an accepted LIT request enters LIT at once (17 R385). -/
theorem State.acceptLit_enters (s : State) (hnow : s.dram.setNow = 0) (hch : s.dram.change = none) : s.acceptLit = s.enterLit := by
  unfold State.acceptLit
  rw [s.selectSet_same hnow hch]
  exact if_pos ⟨hnow, hch⟩

theorem State.enterPilot_pilot (s : State) : s.enterPilot.mode = .pilot ∧ s.enterPilot.pins.fireEn = .low := by
  have pilot : ((s.freshJoin.toMode .pilot).raiseHeadPwr).mode = .pilot := by
    rw [(State.raiseHeadPwr_only _).agree .mode (by decide), State.toMode_mode]
  unfold State.enterPilot
  extract_lets s1 _ _ s2
  have h1 : s1.mode = .pilot := pilot
  clear_value s1
  have after : Only [.regs, .heads, .igrel, .ylog, .out, .flagged] s2.drivenAlive (s2.drivenAlive.tellState).raiseConflict :=
    (State.raiseConflict_only _).step (by decide) ((State.tellState_only _).mono (by decide))
  constructor
  · rw [after.agree .mode (by decide)]
    exact h1
  · rw [after.agree .pins (by decide)]
    rfl

theorem State.enterTrim_trim (s : State) : s.enterTrim.mode = .trim ∧ s.enterTrim.pins.fireEn = s.pins.fireEn := by
  unfold State.enterTrim
  constructor
  · rw [(State.tellState_only _).agree .mode (by decide)]
    exact State.toMode_mode ..
  · rw [(State.tellState_only _).agree .pins (by decide)]
    show (s.toMode .trim).pins.fireEn = s.pins.fireEn
    rw [(State.toMode_only ..).agree .pins (by decide)]

/-! ### The lines' books -/

/-- The lines that a mate holds open, the skip ledger, and whether a stop has been asked for, stand as they stood. -/
structure SameBooks (s t : State) : Prop where
  own : t.twin.own = s.twin.own
  ledger : t.taper.ledger = s.taper.ledger
  stopping : t.taper.stopping = s.taper.stopping

theorem SameBooks.refl {s : State} : SameBooks s s := ⟨rfl, rfl, rfl⟩

/-- One operation more. -/
theorem SameBooks.step {s t u : State} (h : SameBooks t u) (k : SameBooks s t) : SameBooks s u :=
  ⟨h.own.trans k.own, h.ledger.trans k.ledger, h.stopping.trans k.stopping⟩

theorem SameBooks.ite {c : Prop} [Decidable c] {s t u : State} (h : c → SameBooks s t) (k : ¬c → SameBooks s u) :
    SameBooks s (if c then t else u) := by
  by_cases x : c
  · rw [if_pos x]; exact h x
  · rw [if_neg x]; exact k x

theorem SameBooks.foldl {α : Type} {s u : State} {g : State → α → State} {l : List α} (hg : ∀ t x, SameBooks t (g t x))
    (k : SameBooks s u) : SameBooks s (l.foldl g u) := by
  induction l generalizing u with
  | nil => exact k
  | cons x t ih => exact ih ((hg u x).step k)

/-- An operation that touches neither the Taper nor the twin link. -/
theorem Only.sameBooks {d : List Fld} {s t : State} (h : Only d s t) (ht : Fld.taper ∉ d) (hw : Fld.twin ∉ d) : SameBooks s t := by
  have a : t.taper = s.taper := h.agree .taper ht
  have b : t.twin = s.twin := h.agree .twin hw
  exact ⟨by rw [b], by rw [a], by rw [a]⟩

theorem State.refundLine_sameBooks (s : State) (g n : Nat) : SameBooks s (s.refundLine g n) := by
  unfold State.refundLine
  split
  · exact .refl
  · exact ((State.refundPool_only ..).sameBooks (by decide) (by decide)).step ⟨rfl, rfl, rfl⟩

theorem State.report_sameBooks (s : State) (kind index : Nat) (body : List Byte) : SameBooks s (s.report kind index body) :=
  .ite (fun _ => .ite (fun _ => ⟨rfl, rfl, rfl⟩) (fun _ => .refl)) (fun _ => ⟨rfl, rfl, rfl⟩)

theorem State.noteLead_sameBooks (s : State) (raise : Bool) (g : Nat) : SameBooks s (s.noteLead raise g) := by
  unfold State.noteLead
  extract_lets old new mark n s1
  exact .ite (fun _ => ((State.logEvent_only ..).sameBooks (by decide) (by decide)).step ⟨rfl, rfl, rfl⟩) (fun _ => ⟨rfl, rfl, rfl⟩)

theorem State.noteLeads_sameBooks (s : State) (raise : Bool) (l : List Nat) : SameBooks s (s.noteLeads raise l) := by
  induction l generalizing s with
  | nil => exact .refl
  | cons g l ih => exact (ih _).step (s.noteLead_sameBooks raise g)

theorem State.cancelGroup_sameBooks (s : State) (swap : Option Nat) (g f : Nat) : SameBooks s (s.cancelGroup swap g f) := by
  unfold State.cancelGroup
  extract_lets strips asked s1 kept _ s2 s3 _ s4
  have h1 : SameBooks s s1 := .foldl (fun t d => t.refundLine_sameBooks g d.seq) .refl
  have h2 : SameBooks s s2 := SameBooks.step (t := s1) ⟨rfl, rfl, rfl⟩ h1
  have h3 : SameBooks s s3 := ((State.dropTentatives_only ..).sameBooks (by decide) (by decide)).step h2
  have h4 : SameBooks s s4 := SameBooks.step (t := s3) ⟨rfl, rfl, rfl⟩ h3
  cases swap <;> exact ((State.orderRewinds_only ..).sameBooks (by decide) (by decide)).step h4

theorem State.cancel_sameBooks (s : State) (swap : Option Nat) (raise : Bool) (l : List (Nat × Nat)) : SameBooks s (s.cancel swap raise l) := by
  have groups : ∀ (l : List (Nat × Nat)) (t : State), SameBooks t (t.cancelGroups swap l) := by
    intro l
    induction l with
    | nil => exact fun _ => .refl
    | cons x l ih => exact fun t => (ih _).step (t.cancelGroup_sameBooks swap x.1 x.2)
  unfold State.cancel
  extract_lets fs s1 s2
  refine .ite (fun _ => .refl) (fun _ => (State.noteLeads_sameBooks ..).step ?_)
  have h2 : SameBooks s s2 := ((State.cancelModules_only ..).sameBooks (by decide) (by decide)).step (groups fs s)
  exact SameBooks.step (t := s2) ⟨rfl, rfl, rfl⟩ h2

/-- A stop has been asked for once it has been, whether it ran before or not (02 R44). -/
theorem State.stopLit_stopping (s : State) : s.stopLit.taper.stopping = true := by
  unfold State.stopLit
  split
  · next h => exact h
  · have h := (State.cancel_sameBooks { s with taper := { s.taper with stopping := true, holdPage := none } } none true
      (State.allTentative { s with taper := { s.taper with stopping := true, holdPage := none } })).stopping
    exact (congrArg Taper.stopping ((State.moveSwap_only _).agree .taper (by decide))).trans h

/-! ### A copy of the primary's line state (12 R295) -/

theorem State.burst_sameBooks (s : State) (g cause seq : Nat) : SameBooks s (s.burst g cause seq) := by
  unfold State.burst
  extract_lets grp n reached s1 s2
  have h1 : SameBooks s s1 := ⟨rfl, rfl, rfl⟩
  have h2 : SameBooks s s2 := .ite (fun _ => ((State.setCause_only ..).sameBooks (by decide) (by decide)).step h1) (fun _ => h1)
  exact .ite (fun _ => .refl) (fun _ => .ite (fun _ => ((State.logEvent_only ..).sameBooks (by decide) (by decide)).step h2) (fun _ => h1))

theorem State.closePages_sameBooks (s : State) (g : Option Nat) (time : Nat) : SameBooks s (s.closePages g time) := by
  have printed : ∀ (t : State) (x : List Byte), SameBooks t (t.logPrinted g x) := by
    intro t x
    have logged : SameBooks t (t.logEvent Ev.linesPrinted x) := (State.logEvent_only ..).sameBooks (by decide) (by decide)
    cases g with
    | none => exact logged
    | some g => exact .ite (fun _ => ⟨rfl, rfl, rfl⟩) (fun _ => logged)
  have each : ∀ (l : List Page) (t : State), SameBooks t (t.closeEach g time l) := by
    intro l
    induction l with
    | nil => exact fun _ => .refl
    | cons p l ih =>
      intro t
      unfold State.closeEach
      extract_lets _ t1 t2 t3 t4
      have h3 : SameBooks t t3 := (State.report_sameBooks ..).step ((printed t1 _).step ⟨rfl, rfl, rfl⟩)
      exact (ih t4).step (.ite (fun _ => ((State.setCause_only ..).sameBooks (by decide) (by decide)).step h3) (fun _ => h3))
  exact each _ _

/-- The books of a line's page, and of the blocks that it frees. -/
theorem State.closeLine_sameBooks (s : State) (x : LineSt) (fired : Bool) :
    SameBooks s (((s.pageCount x.seq fired).freeAll).closePages (some x.group) x.time) :=
  (State.closePages_sameBooks ..).step (((State.freeAll_only _).sameBooks (by decide) (by decide)).step
    ((State.pageCount_only ..).sameBooks (by decide) (by decide)))

/-- The entry that the copy of a skipped line makes in the ledger (10 R245). -/
def LineSt.entry (x : LineSt) : Entry :=
  { seq := x.seq, page := x.page, group := x.group, cause := x.cause, strip := x.strip, confirmed := x.flags.testBit 0, time := x.time }

theorem State.ledgerEntry_own (s : State) (e : Entry) (total : Option Nat) : (s.ledgerEntry e total).twin.own = s.twin.own := by
  unfold State.ledgerEntry
  extract_lets t s1 s2 s3
  have h1 : SameBooks s s1 := .ite (fun _ => ⟨rfl, rfl, rfl⟩) (fun _ => .refl)
  exact ((State.report_sameBooks ..).own).trans h1.own

theorem State.ledgerEntry_head (s : State) (e : Entry) (total : Option Nat) : (s.ledgerEntry e total).taper.ledger.head? = some e := by
  unfold State.ledgerEntry
  extract_lets t s1 s2 s3
  rw [(State.report_sameBooks ..).ledger]
  rfl

/-- After its entry in the ledger a skipped line's books leave the ledger and the open lines as they are. -/
theorem State.skipBooks_books (s : State) (x : LineSt) (total : Option Nat) : SameBooks (s.ledgerEntry x.entry total) (s.skipBooks x total) := by
  unfold State.skipBooks
  extract_lets strips s1 s2 s3 s4 s5 s6
  have h2 : SameBooks s1 s2 := (State.bumpEach_only ..).sameBooks (by decide) (by decide)
  have h3 : SameBooks s1 s3 := .ite (fun _ => SameBooks.step (t := s2) ⟨rfl, rfl, rfl⟩ h2) (fun _ => h2)
  have h4 : SameBooks s1 s4 := .ite (fun _ => SameBooks.step (t := s3) ⟨rfl, rfl, rfl⟩ h3) (fun _ => h3)
  have h6 : SameBooks s1 s6 := ((State.slotState_only ..).sameBooks (by decide) (by decide)).step ((s4.refundLine_sameBooks ..).step h4)
  exact (s6.burst_sameBooks ..).step h6

theorem State.settle_own (s : State) (x : LineSt) (lateArm : Bool) (total : Option Nat) :
    (s.settle x lateArm total).twin.own = s.twin.own := by
  unfold State.settle
  extract_lets s1 s2 s3
  have h1 : s1.twin = s.twin := (State.confirmBooks_only ..).agree .twin (by decide)
  have h2 : s2.twin.own = s1.twin.own := by
    simp only [s2]
    split
    · rw [(State.fireBooks_only ..).agree .twin (by decide)]
    · rw [(State.skipBooks_books ..).own, State.ledgerEntry_own]
  exact ((s2.closeLine_sameBooks x _).own).trans (h2.trans (congrArg Twin.own h1))

theorem State.settle_ledger (s : State) {x : LineSt} (hx : x.outcome = 1) (lateArm : Bool) (total : Option Nat) :
    (s.settle x lateArm total).taper.ledger.head? = some x.entry := by
  unfold State.settle
  extract_lets s1 s2 s3
  have h2 : s2.taper.ledger.head? = some x.entry := by
    simp only [s2, hx, one_ne_zero, if_false]
    rw [(State.skipBooks_books ..).ledger, State.ledgerEntry_head]
  rw [(s2.closeLine_sameBooks x _).ledger, h2]

end Sys2Proof.Machine
end

section
/-! SUPPORT. O46, the messages: decoding for a line that has closed, and a lemma for each clause. -/

namespace Sys2Proof.Machine

/-! ### Decoding and the twin link: the images of a join -/

/-- The twin link's part with other images of a join in progress. -/
def Twin.withImages (t : Twin) (l : Table (List Byte)) : Twin := { t with join := t.join.map (fun j => { j with images := l }) }

/-- Of the twin link's part only the images kept for a join have changed (12, Rejoining as mate, step 4). -/
structure ImagesOnly (s t : State) : Prop where
  images : ∃ l, t.twin = s.twin.withImages l

theorem ImagesOnly.of_twin {s t : State} (h : t.twin = s.twin) : ImagesOnly s t := by
  refine ⟨match s.twin.join with | none => [] | some j => j.images, ?_⟩
  rw [h]
  unfold Twin.withImages
  cases hj : s.twin.join <;> simp only [Option.map] <;> rw [← hj]

theorem ImagesOnly.refl {s : State} : ImagesOnly s s := .of_twin rfl

/-- One operation more. -/
theorem ImagesOnly.step {s t u : State} (h : ImagesOnly t u) (k : ImagesOnly s t) : ImagesOnly s u := by
  obtain ⟨l, hl⟩ := h.images
  obtain ⟨m, hm⟩ := k.images
  refine ⟨l, ?_⟩
  rw [hl, hm]
  simp [Twin.withImages, Function.comp_def]

theorem ImagesOnly.foldl {α : Type} {s u : State} {g : State → α → State} {l : List α} (hg : ∀ t x, ImagesOnly t (g t x))
    (k : ImagesOnly s u) : ImagesOnly s (l.foldl g u) := by
  induction l generalizing u with
  | nil => exact k
  | cons x t ih => exact ih ((hg u x).step k)

/-- An operation that does not touch the twin link. -/
theorem Only.imagesOnly {d : List Fld} {s t : State} (h : Only d s t) (hd : Fld.twin ∉ d) : ImagesOnly s t := .of_twin (h.agree .twin hd)

theorem ImagesOnly.own {s t : State} (h : ImagesOnly s t) : t.twin.own = s.twin.own := by
  obtain ⟨l, hl⟩ := h.images
  rw [hl]
  rfl

/-- A join in progress keeps its plan. -/
theorem ImagesOnly.join {s t : State} (h : ImagesOnly s t) {j : Join} (hj : s.twin.join = some j) :
    ∃ l, t.twin.join = some { j with images := l } := by
  obtain ⟨l, hl⟩ := h.images
  refine ⟨l, ?_⟩
  rw [hl]
  simp [Twin.withImages, hj]

theorem State.noteImage_images (s : State) (k : Nat) (c : CtxState) : ImagesOnly s (s.noteImage k c) := by
  unfold State.noteImage
  cases hj : s.twin.join with
  | none => exact .refl
  | some j =>
    dsimp only
    split
    · exact ⟨Table.put [] j.images k c.image, by simp [Twin.withImages, hj]⟩
    · exact .refl

theorem State.ckptStep_images {s u : State} {k : Nat} (h : s.ckptStep k = some u) : ImagesOnly s u := by
  unfold State.ckptStep at h
  dsimp only at h
  split at h
  · cases h
  · cases h
    refine (State.noteImage_images ..).step (ImagesOnly.step (t := s.passAhead k) (.of_twin rfl) ?_)
    exact (State.passAhead_only ..).imagesOnly (by decide)

theorem State.ckptTo_images (s : State) (k n fuel : Nat) : ImagesOnly s (s.ckptTo k n fuel) := by
  induction fuel generalizing s with
  | zero => exact .refl
  | succ fuel ih =>
    unfold State.ckptTo
    split
    · exact .refl
    · split
      · exact .refl
      · next u hu => exact (ih u).step (State.ckptStep_images hu)

theorem State.ckptAll_images (s : State) (n : Nat) (l : List Nat) : ImagesOnly s (s.ckptAll n l) := by
  induction l generalizing s with
  | nil => exact .refl
  | cons k l ih => exact (ih _).step (((State.freeRing_only ..).imagesOnly (by decide)).step (s.ckptTo_images ..))

theorem State.completeJob_images (s : State) (j : Job) : ImagesOnly s (s.completeJob j) := by
  have up : ∀ (t : State) (k : Nat), ImagesOnly t (t.ckptUp k) := by
    intro t k
    unfold State.ckptUp
    split
    · exact t.ckptAll_images _ _
    · exact .refl
  have errs : ∀ l, ImagesOnly s (s.noteErrs j.stream l) := fun l => (s.noteErrs_only _ l).imagesOnly (by decide)
  unfold State.completeJob
  extract_lets c
  split
  · exact .refl
  · split
    · exact .refl
    · next line st es _ =>
      extract_lets s1
      have h1 : ImagesOnly s s1 := ImagesOnly.step (t := s.noteErrs j.stream es) (.of_twin rfl) (errs es)
      split
      · exact h1
      · exact (up _ _).step (((State.putLine_only ..).imagesOnly (by decide)).step (((State.advance_only ..).imagesOnly (by decide)).step h1))
    · next st es _ =>
      extract_lets s1
      split
      · exact errs es
      · exact (up _ _).step (((State.advance_only ..).imagesOnly (by decide)).step (errs es))

theorem State.decodeAll_images (s : State) (n : Nat) (l : List Nat) : ImagesOnly s (s.decodeAll n l) := by
  have one : ∀ (fuel : Nat) (t : State) (k : Nat), ImagesOnly t (t.decodeTo k n fuel) := by
    intro fuel
    induction fuel with
    | zero => exact fun _ _ => .refl
    | succ fuel ih =>
      intro t k
      unfold State.decodeTo
      extract_lets w
      split
      · exact .refl
      · exact (ih _ _).step (t.completeJob_images _)
  induction l generalizing s with
  | nil => exact .refl
  | cons k l ih => exact (ih _).step (one _ _ _)

/-! ### Registers -/

theorem State.twinEvent_reg (s : State) (bit : Nat) (code : Option Nat) (detail : List Byte) {k : Nat} (h : k ∉ yilloggerObjects)
    (hk : k ≠ Obj.twinEvents) : (s.twinEvent bit code detail).reg k = s.reg k := by
  unfold State.twinEvent
  cases code with
  | none => exact s.reg_setBits_other _ hk
  | some c => exact (State.logEvent_reg _ _ _ h).trans (s.reg_setBits_other _ hk)

theorem State.afterLink_reg (was : Bool) (s : State) {k : Nat} (h : k ∉ yilloggerObjects) (hc : k ≠ Obj.snuffCause)
    (ht : k ≠ Obj.twinEvents) : (s.afterLink was).reg k = s.reg k := by
  unfold State.afterLink
  split
  · rfl
  · split
    · exact s.setCause_reg _ hc
    · split
      · exact s.twinEvent_reg _ _ _ h ht
      · rfl

/-! ### The messages that a mate takes (12 R292, R293, R295, R301) -/

theorem decision_held {s : State} (hup : s.twinUp = true) {n : Nat} {g : Fin 8} {o : WickOut} (hrole : s.roleFor n = .mate)
    (hline : 0 ≤ dist32 n (s.reg (Obj.nextArmSeq g))) (hnew : ∀ d ∈ s.twin.decisions, ¬(d.g = g ∧ d.seq = n)) :
    Completes (.decision n g o) s (fun t => t.mode = s.mode ∧ t.pins = s.pins ∧
      t.twin = { s.twin with decisions := s.twin.decisions ++ [{ g := g, seq := n, out := o, charge := 0 }] }) := by
  have hno : s.twin.decisions.any (fun d => decide (d.g = g) && decide (d.seq = n)) = false := by
    simpa using fun d hd hg hs => hnew d hd ⟨hg, hs⟩
  have hgo : execDecision n g o s = _ := if_pos (by simp [hup, hrole, hline, hno])
  refine ⟨_, hgo, ?_, ?_, ?_⟩
  · exact (State.noteOutcome_only ..).agree .mode (by decide)
  · exact (State.noteOutcome_only ..).agree .pins (by decide)
  · exact (State.noteOutcome_only ..).agree .twin (by decide)

theorem decision_again {s : State} {n : Nat} {g : Fin 8} {o : WickOut} {d : GLine} (hd : d ∈ s.twin.decisions) (hg : d.g = g)
    (hn : d.seq = n) : Completes (.decision n g o) s (fun t => t = s) := by
  have hheld : s.twin.decisions.any (fun d => decide (d.g = g) && decide (d.seq = n)) = true :=
    List.any_eq_true.mpr ⟨d, hd, by simp [hg, hn]⟩
  exact ⟨s, (if_neg (by simp [hheld]) : execDecision n g o s = _), rfl⟩

theorem State.noteOffset_sameBooks (s : State) (x : LineSt) (edge : Option Nat) : SameBooks s (s.noteOffset x edge) := by
  unfold State.noteOffset
  split
  · exact .refl
  · exact .ite (fun _ => ⟨rfl, rfl, rfl⟩) (fun _ => .refl)

theorem State.enterCopy_own (s : State) (x : LineSt) (conf : Option Conf) : (s.enterCopy x conf).twin.own = s.twin.own :=
  s.settle_own x _ _

theorem State.enterCopy_ledger (s : State) {x : LineSt} (hx : x.outcome = 1) (conf : Option Conf) :
    (s.enterCopy x conf).taper.ledger.head? = some x.entry :=
  s.settle_ledger hx _ _

/-- The copy of a line that a mate holds open closes it, and enters it in the ledger where it was skipped. -/
theorem State.takeCopy_own (s : State) {x : LineSt} {o : Own}
    (ho : s.twin.own.find? (fun o => decide (o.g = x.group) && decide (o.seq = x.seq)) = some o) :
    (s.takeCopy x).twin.own = s.twin.own.erase o ∧ (x.outcome = 1 → (s.takeCopy x).taper.ledger.head? = some x.entry) := by
  have decoded : ImagesOnly s (if s.mode = .lit then s.decodeAll x.seq (s.liveStrips x.group) else s) := by
    split
    · exact s.decodeAll_images _ _
    · exact .refl
  unfold State.takeCopy
  extract_lets s1
  rw [show s1.twin.own = s.twin.own from decoded.own, ho]
  refine ⟨?_, fun hx => State.enterCopy_ledger _ hx _⟩
  exact (State.enterCopy_own ..).trans (State.noteOffset_sameBooks ..).own

theorem lineState_closes {s : State} (hup : s.twinUp = true) {p : List Byte} {x : LineSt} {o : Own} (hp : parseLineState p = some x)
    (hrole : s.roleFor x.seq = .mate) (hmode : s.mode = .lit ∨ s.mode = .snuff)
    (ho : s.twin.own.find? (fun o => decide (o.g = x.group) && decide (o.seq = x.seq)) = some o) :
    Completes (.lineState p) s (fun t => t.mode = s.mode ∧ t.pins = s.pins ∧ t.twin.own = s.twin.own.erase o ∧
      (x.outcome = 1 → t.taper.ledger.head? = some x.entry)) := by
  have hdue : s.copyDue x = true ∧ (s.mode = .lit ∨ s.mode = .snuff ∨ s.twin.join.isSome = true) :=
    ⟨by simp [State.copyDue, hrole], hmode.imp_right .inl⟩
  have hgo : execLineState p s = ok (s.takeCopy x) := by simp [execLineState, hup, hp, hdue]
  exact ⟨_, hgo, (State.takeCopy_only ..).agree .mode (by decide), (State.takeCopy_only ..).agree .pins (by decide), s.takeCopy_own ho⟩

theorem lineState_dropped {s : State} (hup : s.twinUp = true) {p : List Byte} (hp : parseLineState p = none) :
    Completes (.lineState p) s (fun t => t.mode = s.mode ∧ t.twin = { s.twin with dropAt := some s.clock.cycles } ∧
      t.reg (Obj.frameErrors 32) = countValue (Obj.frameErrors 32) (s.reg (Obj.frameErrors 32)) 1) := by
  have hgo : execLineState p s = ok s.dropTwinFrame := by simp [execLineState, hup, hp]
  refine ⟨_, hgo, (State.dropTwinFrame_only _).agree .mode (by decide), ?_⟩
  unfold State.dropTwinFrame
  rw [if_pos hup]
  extract_lets was _ s1
  refine ⟨(State.afterLink_only ..).agree .twin (by decide), ?_⟩
  rw [State.afterLink_reg _ _ (by decide) (by decide) (by decide), State.reg_bump_same]
  rfl

theorem lineStateSend_sends {s : State} (hup : s.twinUp = true) {x : LineSt} {rest : List LineSt} (hq : s.twin.sendQueue = x :: rest)
    (hj : s.twin.join = none) (hs : s.strapped ≠ .solo) :
    Completes .lineStateSend s (fun t => t = { s with twin := { s.twin with sendQueue := rest }, out := s.twin.frame 0x03 x.bytes :: s.out }) := by
  refine ⟨_, ?_, rfl⟩
  have hsend : State.twinSend { s with twin := { s.twin with sendQueue := rest } } 0x03 x.bytes =
      { s with twin := { s.twin with sendQueue := rest }, out := s.twin.frame 0x03 x.bytes :: s.out } := if_pos ⟨hs, hup⟩
  show execLineStateSend s = _
  unfold execLineStateSend
  rw [hq]
  dsimp only
  rw [hsend]
  simp only [State.joinMade, hj]
  rfl

section
variable {s : State} (hup : s.twinUp = true) (hrole : s.role = .mate) (hcause : s.hasCause = false)
include hup hrole hcause

omit hup hrole hcause in
/-- A mate in PILOT that differs from its primary stays there (00 R1). -/
theorem modeMessage_mismatched (mode line : Nat) (hm : s.mode = .pilot) (hd : s.mismatched = true) :
    Completes (.modeMessage mode line) s (fun t => t = s) :=
  ⟨s, (if_pos (.inr (.inr (.inr ⟨hm, hd⟩))) : execModeMessage mode line s = _), rfl⟩

theorem modeMessage_trim (line : Nat) (hm : s.mode = .pilot) (hd : s.mismatched = false) :
    Completes (.modeMessage 3 line) s (fun t => t.mode = .trim ∧ t.pins.fireEn = s.pins.fireEn) := by
  have hgo : execModeMessage 3 line s = ok s.enterTrim := by simp [execModeMessage, hup, hrole, hcause, hm, hd]
  exact ⟨_, hgo, s.enterTrim_trim⟩

theorem modeMessage_lit (line : Nat) (hm : s.mode = .pilot) (hd : s.mismatched = false) (hj : s.twin.join = none)
    (hnow : s.dram.setNow = 0) (hch : s.dram.change = none) :
    Completes (.modeMessage 4 line) s (fun t => t.mode = .lit ∧ t.pins.fireEn = (if s.blockUp Block.taper then .high else .low) ∧
      t.taper.priming = true) := by
  have hgo : execModeMessage 4 line s = ok s.enterLit := by
    rw [← s.acceptLit_enters hnow hch]
    simp [execModeMessage, hup, hrole, hcause, hm, hd, hj]
  exact ⟨_, hgo, s.enterLit_lit⟩

theorem modeMessage_joining (line : Nat) (hm : s.mode = .pilot) (hd : s.mismatched = false) (hj : s.twin.join.isSome = true) :
    Completes (.modeMessage 4 line) s (fun t => t = { s with twin := { s.twin with modeAt := some (4, line) } }) := by
  have hgo : execModeMessage 4 line s = ok { s with twin := { s.twin with modeAt := some (4, line) } } := by
    simp [execModeMessage, hup, hrole, hcause, hm, hd, hj]
  exact ⟨_, hgo, rfl⟩

theorem modeMessage_pilot (line : Nat) (hm : s.mode = .trim) :
    Completes (.modeMessage 2 line) s (fun t => t.mode = .pilot ∧ t.pins.fireEn = .low) := by
  have hgo : execModeMessage 2 line s = ok s.enterPilot := by simp [execModeMessage, hup, hrole, hcause, hm]
  exact ⟨_, hgo, s.enterPilot_pilot⟩

/-- A stop in LIT is noted with its line, and begins once every group has come to it. -/
theorem execModeMessage_stop (line : Nat) (hm : s.mode = .lit) :
    execModeMessage 2 line s = ok (if ∀ g ∈ s.liveGroups, 0 ≤ dist32 (s.reg (Obj.nextArmSeq g)) line then
      ({ s with twin := { s.twin with modeAt := none } }).stopLit else { s with twin := { s.twin with modeAt := some (2, line) } }) := by
  have hgo : execModeMessage 2 line s = ok ({ s with twin := { s.twin with modeAt := some (2, line) } }).stopAtLine := by
    simp [execModeMessage, hup, hrole, hcause, hm]
  rw [hgo]
  congr 1
  unfold State.stopAtLine
  dsimp only
  refine if_congr ?_ rfl rfl
  simp only [hm, true_and, List.all_eq_true, decide_eq_true_eq]
  rfl

theorem modeMessage_stops (line : Nat) (hm : s.mode = .lit) (hall : ∀ g ∈ s.liveGroups, 0 ≤ dist32 (s.reg (Obj.nextArmSeq g)) line) :
    Completes (.modeMessage 2 line) s (fun t => t.mode = .lit ∧ t.taper.stopping = true ∧ t.pins = s.pins) := by
  have hgo := execModeMessage_stop hup hrole hcause line hm
  rw [if_pos hall] at hgo
  exact ⟨_, hgo, ((State.stopLit_only _).agree .mode (by decide)).trans hm, State.stopLit_stopping _,
    (State.stopLit_only _).agree .pins (by decide)⟩

theorem modeMessage_stop_waits (line : Nat) (hm : s.mode = .lit) (hne : ∃ g ∈ s.liveGroups, dist32 (s.reg (Obj.nextArmSeq g)) line < 0) :
    Completes (.modeMessage 2 line) s (fun t => t = { s with twin := { s.twin with modeAt := some (2, line) } }) := by
  have hgo := execModeMessage_stop hup hrole hcause line hm
  rw [if_neg (by simpa using hne)] at hgo
  exact ⟨_, hgo, rfl⟩

end

/-! ### Publishes and swaps (12 R293, R301; 13 R326) -/

theorem publish_late {s : State} (hup : s.twinUp = true) {gen line n : Nat} {recs : List Nat} (hrole : s.role = .mate) (hrecs : recs ≠ [])
    (hm : s.mode = .lit) (hn : s.taper.newest = some n) (hlate : 0 ≤ dist32 n line) (hconf : s.configured = true) :
    Completes (.publish gen line recs) s (fun t => t = { s with regs := t.regs, flagged := t.flagged } ∧
      t.reg Obj.snuffCause = s.reg Obj.snuffCause ||| 2 ^ Cause.twin ∧ s.regsBut t [Obj.snuffCause]) := by
  have hgo : execPublish gen line recs s = ok (s.setCause Cause.twin) := by simp [execPublish, hup, hrole, hrecs, hm, hn, hlate]
  refine ⟨_, hgo, ?_, s.setCause_sets _ hconf, fun k hk => s.setCause_reg _ (by simpa using hk)⟩
  unfold State.setCause
  rw [if_pos hconf]
  rfl

theorem State.answerAwaited_none (s : State) (h : s.twin.awaited = []) : s.answerAwaited = s := by
  have same : { s.twin with awaited := [] } = s.twin := by rw [← h]
  unfold State.answerAwaited
  rw [h]
  simp only [List.filter_nil, List.foldl_nil, same]

/-- A publish outside LIT that does not take effect at once waits for its line in the pending copy. -/
theorem State.applyPublish_waits (s : State) (recs : List (Nat × Nat)) (line : Nat) (hm : s.mode ≠ .lit) :
    s.applyPublish recs line false = (({ s with health := { s.health with
      pending := applyRecs s.health.pending recs, swap := some line } }).bump Obj.publishes).setReg Obj.htSwapLine line := by
  simp [State.applyPublish, hm]

theorem publish_waits {s : State} (hup : s.twinUp = true) {gen line : Nat} {recs : List Nat} (hrole : s.role = .mate) (hrecs : recs ≠ [])
    (hm : s.mode ≠ .lit) (hover : s.health.overwriting = false) (honce : s.atOnce line = false) (hwait : s.twin.awaited = []) :
    Completes (.publish gen line recs) s (fun t => t = { s with regs := t.regs, health := t.health } ∧
      t.health = { s.health with pending := applyRecs s.health.pending (recs.map (recordOf byHost)), swap := some line } ∧
      t.reg Obj.htSwapLine = line ∧ s.regsBut t [Obj.publishes, Obj.htSwapLine]) := by
  have hgo : execPublish gen line recs s = ok (s.applyPublish (recs.map (recordOf byHost)) line false).answerAwaited := by
    simp [execPublish, hup, hrole, hrecs, hm, hover, honce]
  have hawait : (s.applyPublish (recs.map (recordOf byHost)) line false).twin.awaited = [] := by
    rw [s.applyPublish_waits _ _ hm]
    exact hwait
  rw [State.answerAwaited_none _ hawait, s.applyPublish_waits _ _ hm] at hgo
  refine ⟨_, hgo, rfl, rfl, State.reg_setReg_same .., fun k hk => ?_⟩
  simp only [List.mem_cons, List.not_mem_nil, or_false, not_or] at hk
  exact (State.reg_setReg_other _ _ hk.2).trans (State.reg_bump_other _ hk.1)

theorem State.swapDue_none (s : State) (h : s.swapPassed = false) : s.swapDue = s := if_neg (by simp [h])

theorem execFindingMessage_made {s : State} (hup : s.twinUp = true) {recs : List Nat} (hrole : s.role = .primary) (hrecs : recs ≠ []) :
    execFindingMessage recs s = ok (s.publish (recs.map (recordOf byLantern)) none) :=
  if_pos (by simp [hup, hrole, hrecs])

theorem findingMessage_held {s : State} (hup : s.twinUp = true) {recs : List Nat} (hrole : s.role = .primary) (hrecs : recs ≠ [])
    (hover : s.health.overwriting = true) (hpass : s.swapPassed = false) : Completes (.findingMessage recs) s (fun t =>
      t = { s with health := { s.health with held := s.health.held ++ [(recs.map (recordOf byLantern), none)] } }) := by
  refine ⟨_, execFindingMessage_made hup hrole hrecs, ?_⟩
  unfold State.publish
  rw [s.swapDue_none hpass]
  exact if_pos hover

/-- A publish outside LIT, with a swap pending that has not been passed, adds the records that change an entry to the pending copy (08 R186). -/
theorem State.publish_pending (s : State) {recs : List (Nat × Nat)} {line : Nat} (hm : s.mode ≠ .lit) (hover : s.health.overwriting = false)
    (hswap : s.twin.swap = none) (hline : s.health.swap = some line) (hpass : s.swapPassed = false)
    (hch : changingRecs s.health.pending recs ≠ []) :
    (s.publish recs none).health = { s.health with pending := applyRecs s.health.pending (changingRecs s.health.pending recs) } := by
  have hpub : s.publishLine = (line, false) := by simp [State.publishLine, hline]
  unfold State.publish
  rw [s.swapDue_none hpass]
  dsimp only
  rw [if_neg (by simp [hover]), if_neg hch, if_neg (by simp [hswap]), hpub]
  dsimp only
  generalize hu : (if s.role = .primary then _ else s) = u
  have sent : Only [.out] s u := hu ▸ .ite (fun _ => s.sendPublish_only ..) (fun _ => .refl)
  rw [State.applyPublish_waits u _ _ (by rw [sent.agree .mode (by decide)]; exact hm)]
  show { u.health with pending := applyRecs u.health.pending (changingRecs s.health.pending recs), swap := some line } = _
  rw [sent.agree .health (by decide), ← hline]

theorem findingMessage_published {s : State} (hup : s.twinUp = true) {recs : List Nat} (hrole : s.role = .primary) (hrecs : recs ≠ [])
    (hm : s.mode ≠ .lit) (hover : s.health.overwriting = false) (hswap : s.twin.swap = none) (hline : ∃ line, s.health.swap = some line)
    (hpass : s.swapPassed = false) (hch : changingRecs s.health.pending (recs.map (recordOf byLantern)) ≠ []) :
    Completes (.findingMessage recs) s (fun t => t.mode = s.mode ∧ t.health = { s.health with
      pending := applyRecs s.health.pending (changingRecs s.health.pending (recs.map (recordOf byLantern))) }) := by
  obtain ⟨line, hline⟩ := hline
  exact ⟨_, execFindingMessage_made hup hrole hrecs, (State.publish_only ..).agree .mode (by decide),
    s.publish_pending hm hover hswap hline hpass hch⟩

theorem swapMessage_noted {s : State} (hup : s.twinUp = true) {line page : Nat} (hrole : s.role = .mate) (hm : s.mode = .lit)
    (hswap : s.twin.swap = none) : Completes (.swapMessage line page) s (fun t =>
      t = { s with regs := t.regs, twin := { s.twin with swap := some (line, page) } } ∧ t.reg Obj.twSwapLine = line ∧
        s.regsBut t [Obj.twSwapLine]) := by
  have hgo : execSwapMessage line page s = ok (({ s with twin := { s.twin with swap := some (line, page) } }).setReg Obj.twSwapLine line) :=
    if_pos (by simp [hup, hrole, hm, hswap])
  exact ⟨_, hgo, rfl, State.reg_setReg_same .., fun k hk => State.reg_setReg_other _ _ (by simpa using hk)⟩

theorem State.swapRole_role (s : State) : (s.role = .primary → s.swapRole.role = .mate) ∧ (s.role = .mate → s.swapRole.role = .primary) := by
  unfold State.swapRole
  extract_lets _ s1
  refine ⟨fun h => ?_, fun h => ?_⟩
  · rw [show s1.role = .primary from h]
    exact (State.passHeld_only _).agree .role (by decide)
  · rw [show s1.role = .mate from h]
    exact ((State.makeHeld_only _).agree .role (by decide)).trans ((State.setLevel_only ..).agree .role (by decide))

theorem roleSwapComplete_swaps {s : State} {f page : Nat} (hswap : s.twin.swap = some (f, page))
    (hall : ∀ g ∈ s.liveGroups, 0 < dist32 (s.reg (Obj.nextArmSeq g)) f) :
    Completes .roleSwapComplete s (fun t => t.mode = s.mode ∧ t.pins = s.pins ∧ (s.role = .primary → t.role = .mate) ∧
      (s.role = .mate → t.role = .primary)) := by
  have hgo : execRoleSwapComplete s = ok s.swapRole := by
    unfold execRoleSwapComplete
    rw [hswap]
    exact if_pos (by simpa using hall)
  exact ⟨_, hgo, (State.swapRole_only _).agree .mode (by decide), (State.swapRole_only _).agree .pins (by decide), s.swapRole_role⟩

/-- Settles O46, message by message. -/
theorem mateFollowsThePrimary : Obligations.MateFollowsThePrimary := by
  unfold Obligations.MateFollowsThePrimary
  intro s hup
  refine ⟨fun n g o => decision_held hup, fun n g o d => decision_again, fun p x o => lineState_closes hup, fun p => lineState_dropped hup,
    fun x rest => lineStateSend_sends hup, fun hrole hcause => ?_, fun gen line n recs => publish_late hup,
    fun gen line recs => publish_waits hup, fun recs => findingMessage_held hup, fun recs => findingMessage_published hup,
    fun line page => swapMessage_noted hup, fun f page => roleSwapComplete_swaps⟩
  exact ⟨modeMessage_mismatched, modeMessage_trim hup hrole hcause, modeMessage_lit hup hrole hcause,
    modeMessage_joining hup hrole hcause, modeMessage_pilot hup hrole hcause, modeMessage_stops hup hrole hcause,
    modeMessage_stop_waits hup hrole hcause⟩

end Sys2Proof.Machine
end

section
/-! SUPPORT. O47 (12 R303, Rejoining as mate): what a twin message sent changes, what the operations of a join leave of its plan and of the
empty store, and O47 itself, a lemma for each message. -/

namespace Sys2Proof.Machine

/-! ### Twin messages sent -/

/-- The frames with which a twin message goes out: one where there is a twin link that is up, and none elsewhere (12). -/
def State.sent (s : State) (ty : Nat) (payload : List Byte) : List Out :=
  if s.strapped ≠ .solo ∧ s.twinUp = true then [s.twin.frame ty payload] else []

theorem State.sent_up {s : State} (hs : s.strapped ≠ .solo) (hup : s.twinUp = true) (ty : Nat) (payload : List Byte) :
    s.sent ty payload = [s.twin.frame ty payload] := if_pos ⟨hs, hup⟩

/-- A twin message sent changes nothing but what has gone out. -/
theorem State.twinSend_sent (s : State) (ty : Nat) (payload : List Byte) :
    s.twinSend ty payload = { s with out := s.sent ty payload ++ s.out } := by
  unfold State.twinSend State.sent
  split <;> rfl

/-- The same of one message for each item of a list, the last on top. -/
theorem State.foldl_twinSend {α : Type} (s : State) (ty : Nat) (f : α → List Byte) (l : List α) :
    l.foldl (fun s x => s.twinSend ty (f x)) s = { s with out := l.reverse.flatMap (fun x => s.sent ty (f x)) ++ s.out } := by
  induction l generalizing s with
  | nil => rfl
  | cons x l ih =>
    rw [List.foldl_cons, ih, s.twinSend_sent]
    simp only [List.reverse_cons, List.flatMap_append, List.flatMap_cons, List.flatMap_nil, List.append_nil, List.append_assoc]
    rfl

theorem State.sendMode_sent (s : State) (m : Mode) (line : Nat) :
    s.sendMode m line = { s with out := (if s.role = .primary then s.sent 0x06 (le 1 m.code ++ zeros 3 ++ le 4 line) else []) ++ s.out } := by
  unfold State.sendMode
  split
  · exact s.twinSend_sent _ _
  · rfl

/-! ### The plan of a join (12 R303) -/

theorem joinReq_planned {s : State} {p : Page} (hup : s.twinUp = true) (hsolo : s.strapped ≠ .solo) (hrole : s.role = .primary)
    (hm : s.mode = .lit) (hj : s.twin.join = none) (hswap : s.twin.swap = none) (hstop : s.taper.stopping = false)
    (hpage : s.pageFrom (((1024 + s.newestAll) % 2 ^ 32 + s.reg Obj.joinLead) % 2 ^ 32) = some p) :
    Completes (.joinReq (s.reg Obj.siliconRev) (s.reg Obj.fwVersion) s.digest) s (fun t => t = { s with
        regs := t.regs, twin := { s.twin with join := some { snapshot := (1024 + s.newestAll) % 2 ^ 32, line := p.first, joining := false } },
        out := s.twin.frame 0x11 (le 4 ((1024 + s.newestAll) % 2 ^ 32) ++ le 4 p.first) :: s.out } ∧
      t.reg Obj.joinState = 1 ∧ s.regsBut t [Obj.joinState]) := by
  have hgo : execJoinReq (s.reg Obj.siliconRev) (s.reg Obj.fwVersion) s.digest s = ok (State.setReg { s with
      twin := { s.twin with join := some { snapshot := (1024 + s.newestAll) % 2 ^ 32, line := p.first, joining := false } },
      out := s.sent 0x11 (le 4 ((1024 + s.newestAll) % 2 ^ 32) ++ le 4 p.first) ++ s.out } Obj.joinState 1) := by
    refine (if_pos (by simp [hup, hrole, hm, hj, hswap, hstop])).trans ?_
    rw [hpage]
    exact congrArg ok (State.twinSend_sent ..)
  rw [State.sent_up hsolo hup] at hgo
  exact ⟨_, hgo, rfl, State.reg_setReg_same .., fun k hk => State.reg_setReg_other _ _ (by simpa using hk)⟩

theorem joinPlan_mismatched {s : State} (snap line : Nat) (hd : s.mismatched = true) : Completes (.joinPlan snap line) s (fun t => t = s) :=
  ⟨s, (if_pos (.inr (.inr (.inr hd))) : execJoinPlan snap line s = _), rfl⟩

theorem State.catchUp_images (s : State) : ImagesOnly s s.catchUp :=
  .foldl (fun t g => ((State.addJobs_only ..).imagesOnly (by decide)).step (t.ckptAll_images _ _)) .refl

/-- JOIN_READY changes no more of the join than that it has been sent. -/
theorem State.tellReady_join (s : State) {j : Join} (hj : s.twin.join = some j) :
    ∃ b, s.tellReady.twin.join = some { j with ready := b } := by
  unfold State.tellReady
  rw [hj]
  dsimp only
  split
  · refine ⟨true, ?_⟩
    rw [State.twinSend_sent]
  · exact ⟨j.ready, hj⟩

section
variable {s : State} (snap line : Nat) (hup : s.twinUp = true) (hrole : s.role = .mate) (hm : s.mode = .pilot) (hd : s.mismatched = false)
include hup hrole hm hd

theorem joinPlan_first (hj : s.twin.join = none) : Completes (.joinPlan snap line) s (fun t =>
    t = { s with regs := t.regs, twin := { s.twin with join := some { snapshot := snap, line := line, joining := true }, modeAt := none } } ∧
      t.reg Obj.joinState = 1 ∧ s.regsBut t [Obj.joinState]) := by
  have hgo : execJoinPlan snap line s = _ := if_neg (by simp [hup, hrole, hm, hd])
  rw [hj] at hgo
  exact ⟨_, hgo, rfl, State.reg_setReg_same .., fun k hk => State.reg_setReg_other _ _ (by simpa using hk)⟩

theorem joinPlan_moved {j : Join} (hj : s.twin.join = some j) : Completes (.joinPlan snap line) s (fun t => t.mode = .pilot ∧
    t.role = .mate ∧ t.pins = s.pins ∧ ∃ x, t.twin.join = some x ∧ x.line = line ∧ x.snapshot = j.snapshot ∧ x.retries = j.retries + 1) := by
  have hgo : execJoinPlan snap line s = _ := if_neg (by simp [hup, hrole, hm, hd])
  rw [hj] at hgo
  dsimp only at hgo
  generalize hs1 : ({ s with twin := { s.twin with join := some { j with line := line, ready := false, retries := j.retries + 1 } } } : State) =
    s1 at hgo
  have hj1 : s1.twin.join = some { j with line := line, ready := false, retries := j.retries + 1 } := by rw [← hs1]
  have moved : Only [.regs, .taper] s1 ((s1.bump Obj.joinRetries).moveJoin line) :=
    (State.moveJoin_only ..).step (by decide) ((State.bump_only ..).mono (by decide))
  have whole : Only [.regs, .raster, .decomp, .twin, .dram, .taper, .out] s1 (((s1.bump Obj.joinRetries).moveJoin line).catchUp).tellReady :=
    (State.tellReady_only _).step (by decide) ((State.catchUp_only _).step (by decide) (moved.mono (by decide)))
  obtain ⟨l, hl⟩ := ((State.catchUp_images _).step (moved.imagesOnly (by decide))).join hj1
  obtain ⟨b, hb⟩ := State.tellReady_join _ hl
  refine ⟨_, hgo, ?_, ?_, ?_, _, hb, rfl, rfl, rfl⟩
  · rw [whole.agree .mode (by decide), ← hs1]
    exact hm
  · rw [whole.agree .role (by decide), ← hs1]
    exact hrole
  · rw [whole.agree .pins (by decide), ← hs1]

end

/-! ### The images and the map (12, Rejoining as mate, steps 4 and 5) -/

theorem joinSnapshot_sends {s : State} {j : Join} (hj : s.twin.join = some j) (hjoin : j.joining = false) (hsent : j.sent = false)
    (hpassed : ∀ g ∈ s.liveGroups, 0 ≤ dist32 (s.passedTo g) j.snapshot)
    (hkept : ∀ g ∈ s.liveGroups, ∀ k ∈ s.liveStrips g, (Table.find j.images k).isSome = true) : Completes .joinSnapshot s (fun t =>
      t = { s with regs := t.regs, twin := { s.twin with join := some { j with sent := true } }, out := t.out } ∧
      t.reg Obj.joinState = 2 ∧ s.regsBut t [Obj.joinState] ∧ (s.twinUp = true → s.strapped ≠ .solo →
        s.twin.frame 0x13 (le 4 (s.reg Obj.healthGen) ++ healthBytes s.health.active) ∈ t.out ∧
        ∀ x ∈ j.images, s.twin.frame 0x12 (le 4 x.1 ++ x.2) ∈ t.out)) := by
  have hgo : execJoinSnapshot s = ok (State.setReg { s with
      twin := { s.twin with join := some { j with sent := true } },
      out := s.sent 0x13 (le 4 (s.reg Obj.healthGen) ++ healthBytes s.health.active) ++
        (j.images.reverse.flatMap (fun x => s.sent 0x12 (le 4 x.1 ++ x.2)) ++ s.out) } Obj.joinState 2) := by
    unfold execJoinSnapshot
    rw [hj]
    dsimp only
    rw [if_pos (by simpa [hjoin, hsent] using ⟨hkept, hpassed⟩), State.foldl_twinSend, State.twinSend_sent]
    rfl
  refine ⟨_, hgo, rfl, State.reg_setReg_same .., fun k hk => State.reg_setReg_other _ _ (by simpa using hk), fun hup hsolo => ?_⟩
  have map : s.twin.frame 0x13 (le 4 (s.reg Obj.healthGen) ++ healthBytes s.health.active) ∈
      s.sent 0x13 (le 4 (s.reg Obj.healthGen) ++ healthBytes s.health.active) := by simp [State.sent_up hsolo hup]
  refine ⟨List.mem_append_left _ map, fun x hx => List.mem_append_right _ (List.mem_append_left _ ?_)⟩
  have mine : s.twin.frame 0x12 (le 4 x.1 ++ x.2) ∈ s.sent 0x12 (le 4 x.1 ++ x.2) := by simp [State.sent_up hsolo hup]
  exact List.mem_flatMap.mpr ⟨x, List.mem_reverse.mpr hx, mine⟩

theorem State.flushStore_empty (s : State) : s.flushStore.raster.pages = [] ∧ s.flushStore.slots = [] := by
  unfold State.flushStore
  extract_lets s1
  constructor
  · rw [(State.flushStreams_only ..).agree .raster (by decide)]
    rfl
  · rw [(State.flushStreams_only ..).agree .slots (by decide)]
    rfl

theorem State.startAtImages_pages (s : State) (l : List (Nat × List Byte)) : (s.startAtImages l).raster.pages = s.raster.pages := by
  induction l generalizing s with
  | nil => rfl
  | cons x l ih => exact ih _

theorem State.grantFull_reg (s : State) (n : Nat) {k : Nat} (h3 : k % 256 ≠ 3) (h6 : k % 256 ≠ 6) : (s.grantFull n).reg k = s.reg k := by
  have hr : k ≠ Obj.stResends n := by unfold Obj.stResends; omega
  have hc : k ≠ Obj.creditsGranted n := by unfold Obj.creditsGranted; omega
  exact (State.reg_bump_other _ hr).trans (s.reg_setReg_other _ hc)

/-- What granting every stream its free ring space leaves of the pages and of a register that is no stream's. -/
theorem State.regrant_leaves (s : State) : s.regrant.raster.pages = s.raster.pages ∧
    ∀ k, k % 256 ≠ 3 → k % 256 ≠ 6 → s.regrant.reg k = s.reg k := by
  have each : ∀ (l : List Nat) (t : State), (t.grantEach l).raster.pages = t.raster.pages ∧
      ∀ k, k % 256 ≠ 3 → k % 256 ≠ 6 → (t.grantEach l).reg k = t.reg k := by
    intro l
    induction l with
    | nil => exact fun _ => ⟨rfl, fun _ _ _ => rfl⟩
    | cons n l ih => exact fun t => ⟨(ih _).1, fun k h3 h6 => ((ih _).2 k h3 h6).trans (t.grantFull_reg n h3 h6)⟩
  unfold State.regrant State.grantAll
  split
  · obtain ⟨pages, regs⟩ := each (List.range 160) s
    refine ⟨?_, fun k h3 h6 => ?_⟩
    · rw [(State.sendCredits_only ..).agree .raster (by decide)]
      exact pages
    · rw [Only.reg (State.sendCredits_only ..) (by decide)]
      exact regs k h3 h6
  · exact ⟨rfl, fun _ _ _ => rfl⟩

/-- A state with a join in progress and a health map of the primary's. -/
def State.withMap (s : State) (j : Join) (gen : Nat) (m : Table Nat) : State :=
  let s := { s with twin := { s.twin with join := some j } }
  let s := { s with health := { s.health with active := m, pending := m, swap := none, overwriting := false } }
  (s.setReg Obj.healthGen gen).setReg Obj.joinState 2

theorem State.withMap_only (s : State) (j : Join) (gen : Nat) (m : Table Nat) : Only [.regs, .twin, .health] s (s.withMap j gen m) := by
  refine (State.setReg_only ..).step (by decide) ((State.setReg_only ..).step (by decide) ?_)
  exact .with_twin (by decide) (.with_health (by decide) .refl)

theorem State.withMap_gen (s : State) (j : Join) (gen : Nat) (m : Table Nat) : (s.withMap j gen m).reg Obj.healthGen = gen :=
  (State.reg_setReg_other _ _ (by decide)).trans (State.reg_setReg_same ..)

/-- The images and the map are taken on an empty store, and the blocks are asked for. -/
theorem execJoinImage_takes {s : State} {j : Join} (images : List (Nat × List Byte)) (gen : Nat) (map : List (Nat × Nat))
    (hj : s.twin.join = some j) (hjoin : j.joining = true) (hm : s.mode = .pilot) :
    ∃ l table, execJoinImage images gen map s = ok (((s.flushStore.startAtImages l).withMap { j with images := table, ready := false } gen
      (map.foldl (fun t x => Table.put 0 t (x.1 % 2 ^ 18) (x.2 % 16)) [])).regrant) := by
  refine ⟨images.filter (fun x => decide (x.1 < 128)),
    (images.filter (fun x => decide (x.1 < 128))).foldl (fun t x => Table.put [] t x.1 x.2) [], ?_⟩
  unfold execJoinImage
  rw [hj]
  exact if_pos (by simp [hjoin, hm])

theorem joinImage_taken {s : State} {j : Join} (images : List (Nat × List Byte)) (gen : Nat) (map : List (Nat × Nat))
    (hj : s.twin.join = some j) (hjoin : j.joining = true) (hm : s.mode = .pilot) : Completes (.joinImage images gen map) s (fun t =>
      t.mode = .pilot ∧ t.raster.pages = [] ∧ t.slots = [] ∧ t.reg Obj.healthGen = gen ∧
      t.reg Obj.joinState = 2 ∧ t.health.active = t.health.pending ∧ t.health.swap = none ∧
      t.health.active = map.foldl (fun t x => Table.put 0 t (x.1 % 2 ^ 18) (x.2 % 16)) [] ∧
      ∃ x, t.twin.join = some x ∧ x.line = j.line ∧ x.ready = false) := by
  obtain ⟨l, table, hgo⟩ := execJoinImage_takes images gen map hj hjoin hm
  have started : Only [.regs, .raster] s.flushStore (s.flushStore.startAtImages l) := State.startAtImages_only ..
  have pages : (s.flushStore.startAtImages l).raster.pages = [] := (State.startAtImages_pages ..).trans s.flushStore_empty.1
  have slots : (s.flushStore.startAtImages l).slots = [] := (started.agree .slots (by decide)).trans s.flushStore_empty.2
  have mode : (s.flushStore.startAtImages l).mode = .pilot :=
    (started.agree .mode (by decide)).trans ((s.flushStore_only.agree .mode (by decide)).trans hm)
  generalize s.flushStore.startAtImages l = u at hgo pages slots mode
  generalize (map.foldl (fun t x => Table.put 0 t (x.1 % 2 ^ 18) (x.2 % 16)) []) = m at hgo ⊢
  have taken := u.withMap_only { j with images := table, ready := false } gen m
  have granted := (u.withMap { j with images := table, ready := false } gen m).regrant_only
  obtain ⟨keepsPages, keepsRegs⟩ := (u.withMap { j with images := table, ready := false } gen m).regrant_leaves
  refine ⟨_, hgo, ?_, ?_, ?_, ?_, ?_, ?_⟩
  · exact (granted.agree .mode (by decide)).trans ((taken.agree .mode (by decide)).trans mode)
  · rw [keepsPages, taken.agree .raster (by decide), pages]
  · exact (granted.agree .slots (by decide)).trans ((taken.agree .slots (by decide)).trans slots)
  · exact (keepsRegs _ (by decide) (by decide)).trans (State.withMap_gen ..)
  · exact (keepsRegs _ (by decide) (by decide)).trans (State.reg_setReg_same ..)
  · rw [granted.agree .health (by decide), granted.agree .twin (by decide)]
    exact ⟨rfl, rfl, rfl, _, rfl, rfl, rfl⟩

/-! ### Counters -/

theorem State.takeCounters_regs (s : State) (l : List (Nat × Nat)) : s.takeCounters l = { s with regs := (s.takeCounters l).regs } := by
  induction l generalizing s with
  | nil => rfl
  | cons x l ih =>
    obtain ⟨k, v⟩ := x
    unfold State.takeCounters
    split
    · exact ih _
    · exact ih _

theorem State.takeCounters_other (s : State) {l : List (Nat × Nat)} {k : Nat} (h : k ∈ joinKeys → k ∉ l.map Prod.fst) :
    (s.takeCounters l).reg k = s.reg k := by
  induction l generalizing s with
  | nil => rfl
  | cons x l ih =>
    obtain ⟨n, v⟩ := x
    unfold State.takeCounters
    rw [ih _ (fun hk => List.not_mem_of_not_mem_cons (h hk))]
    split
    next hn => exact s.reg_setReg_other _ (fun e => List.ne_of_not_mem_cons (h (by rw [e]; simpa using hn)) e)
    next => rfl

theorem State.takeCounters_same (s : State) {l : List (Nat × Nat)} {k v : Nat} (hl : (l.map Prod.fst).Nodup) (h : (k, v) ∈ l)
    (hk : k ∈ joinKeys) : (s.takeCounters l).reg k = v % 2 ^ Dict.width k := by
  induction l generalizing s with
  | nil => cases h
  | cons x l ih =>
    obtain ⟨hx, hl⟩ := List.nodup_cons.mp hl
    unfold State.takeCounters
    rcases List.mem_cons.mp h with rfl | h
    · rw [State.takeCounters_other _ (fun _ => hx), if_pos (by simpa using hk), State.reg_setReg_same]
    · exact ih _ hl h

theorem joinCounters_taken {s : State} {j : Join} {l : List (Nat × Nat)} (hj : s.twin.join = some j) (hjoin : j.joining = true)
    (hl : (l.map Prod.fst).Nodup) : Completes (.joinCounters l) s (fun t => t = { s with regs := t.regs } ∧
      (∀ k v, (k, v) ∈ l → k ∈ joinKeys → t.reg k = v % 2 ^ Dict.width k) ∧ s.regsBut t joinKeys) := by
  have hgo : execJoinCounters l s = ok (s.takeCounters l) := by simp [execJoinCounters, hj, hjoin]
  exact ⟨_, hgo, s.takeCounters_regs l, fun k v h hk => s.takeCounters_same hl h hk,
    fun k hk => s.takeCounters_other (fun h => absurd h hk)⟩

/-! ### The end of a join -/

theorem State.joinMade_waits (s : State) {j : Join} (hj : s.twin.join = some j) (h : ∃ g ∈ s.liveGroups, dist32 (s.passedTo g) j.line < 0) :
    s.joinMade = s := by
  unfold State.joinMade
  rw [hj]
  exact if_neg (by simpa using fun _ _ h' => absurd h (by simpa using h'))

theorem State.joinMade_made (s : State) {j : Join} (hj : s.twin.join = some j) (hjoin : j.joining = false) (hready : j.ready = true)
    (hpassed : ∀ g ∈ s.liveGroups, 0 ≤ dist32 (s.passedTo g) j.line) (hq : s.twin.sendQueue = []) :
    s.joinMade = State.setReg { s with
      twin := { s.twin with join := none },
      out := (if s.role = .primary then s.sent 0x06 (le 1 4 ++ zeros 3 ++ le 4 j.line) else []) ++
        (s.sent 0x14 (joinKeys.flatMap (fun k => le 4 k ++ le 8 (s.reg k))) ++ s.out) } Obj.joinState 3 := by
  unfold State.joinMade
  rw [hj]
  dsimp only
  rw [if_pos (by simpa [hjoin, hready, hq] using hpassed), State.sendMode_sent, State.twinSend_sent]
  rfl

theorem execJoinReady_noted {s : State} {j : Join} (hj : s.twin.join = some j) (hjoin : j.joining = false) :
    execJoinReady s = ok ({ s with twin := { s.twin with join := some { j with ready := true } } }).joinMade := by
  simp [execJoinReady, hj, hjoin]

theorem joinReady_waits {s : State} {j : Join} (hj : s.twin.join = some j) (hjoin : j.joining = false)
    (h : ∃ g ∈ s.liveGroups, dist32 (s.passedTo g) j.line < 0) :
    Completes .joinReady s (fun t => t = { s with twin := { s.twin with join := some { j with ready := true } } }) :=
  ⟨_, execJoinReady_noted hj hjoin, State.joinMade_waits _ rfl h⟩

theorem joinReady_made {s : State} {j : Join} (hj : s.twin.join = some j) (hjoin : j.joining = false)
    (hpassed : ∀ g ∈ s.liveGroups, 0 ≤ dist32 (s.passedTo g) j.line) (hq : s.twin.sendQueue = []) :
    Completes .joinReady s (fun t => t = { s with regs := t.regs, twin := { s.twin with join := none }, out := t.out } ∧
      t.reg Obj.joinState = 3 ∧ (s.twinUp = true → s.strapped ≠ .solo → s.role = .primary →
        t.out.head? = some (s.twin.frame 0x06 (le 1 4 ++ zeros 3 ++ le 4 j.line)))) := by
  refine ⟨_, (execJoinReady_noted hj hjoin).trans (congrArg ok (State.joinMade_made _ rfl hjoin rfl hpassed hq)), rfl,
    State.reg_setReg_same .., fun hup hsolo hrole => ?_⟩
  have mode : (if s.role = .primary then s.sent 0x06 (le 1 4 ++ zeros 3 ++ le 4 j.line) else []) =
      [s.twin.frame 0x06 (le 1 4 ++ zeros 3 ++ le 4 j.line)] := by rw [if_pos hrole, State.sent_up hsolo hup]
  exact (congrArg (fun l => (l ++ (s.sent 0x14 (joinKeys.flatMap (fun k => le 4 k ++ le 8 (s.reg k))) ++ s.out)).head?) mode).trans rfl

theorem joinRetry_fails {s : State} {j : Join} (hj : s.twin.join = some j) (hready : j.ready = false) (hmany : 4 ≤ j.retries) :
    Completes .joinRetry s (fun t => t = { s with regs := t.regs, twin := { s.twin with join := none, modeAt := none } } ∧
      t.reg Obj.joinState = 4) := by
  have hgo : execJoinRetry s = ok s.failJoin := by simp [execJoinRetry, hj, hready, hmany]
  exact ⟨_, hgo, rfl, State.reg_setReg_same ..⟩

theorem joinRetry_moves {s : State} {j : Join} {p : Page} (hj : s.twin.join = some j) (hready : j.ready = false) (hfew : j.retries < 4)
    (hjoin : j.joining = false) (hpage : s.pageFrom ((j.line + 1) % 2 ^ 32) = some p) : Completes .joinRetry s (fun t => t = { s with
      regs := t.regs, twin := { s.twin with join := some { j with line := p.first, retries := j.retries + 1 } }, out := t.out } ∧
      t.reg Obj.joinRetries = countValue Obj.joinRetries (s.reg Obj.joinRetries) 1) := by
  have hgo : execJoinRetry s = ok ((({ s with twin := { s.twin with join := some { j with line := p.first, retries := j.retries + 1 } } }).bump
      Obj.joinRetries).twinSend 0x11 (le 4 j.snapshot ++ le 4 p.first)) := by
    unfold execJoinRetry
    rw [hj]
    dsimp only
    rw [if_neg (by simp [hready]), if_neg (by omega), if_neg (by simp [hjoin]), hpage]
  rw [State.twinSend_sent] at hgo
  exact ⟨_, hgo, rfl, State.reg_bump_same ..⟩

theorem joinEnterLit_enters {s : State} {j : Join} (hj : s.twin.join = some j) (hjoin : j.joining = true)
    (hat : s.twin.modeAt = some (4, j.line)) (hm : s.mode = .pilot) (hcause : s.hasCause = false) : Completes .joinEnterLit s (fun t =>
      t.mode = .lit ∧ t.role = s.role ∧ t.pins.fireEn = (if s.blockUp Block.taper then .high else .low) ∧ t.twin.join = none ∧
      t.reg Obj.joinState = 3) := by
  obtain ⟨lit, fire, -⟩ := s.enterLit_lit
  have role : s.enterLit.role = s.role := s.enterLit_only.agree .role (by decide)
  have hgo : execJoinEnterLit s =
      ok (({ s.enterLit with twin := { s.enterLit.twin with join := none, modeAt := none } }).setReg Obj.joinState 3) := by
    unfold execJoinEnterLit
    rw [hj, hat]
    exact if_pos (by simp [hjoin, hm, hcause])
  generalize s.enterLit = u at lit fire role hgo
  exact ⟨_, hgo, lit, role, fire, rfl, State.reg_setReg_same ..⟩

/-- Settles O47, message by message. -/
theorem aChipJoinsAsMate : Obligations.AChipJoinsAsMate := by
  unfold Obligations.AChipJoinsAsMate
  intro s
  exact ⟨fun p => joinReq_planned, fun snap line _ _ _ => joinPlan_mismatched snap line, joinPlan_first,
    fun snap line j hup hrole hm hd => joinPlan_moved snap line hup hrole hm hd, fun j => joinSnapshot_sends,
    fun j images gen map => joinImage_taken images gen map, fun j l => joinCounters_taken, fun j => joinReady_waits,
    fun j => joinReady_made, fun j => joinRetry_fails, fun j p => joinRetry_moves, fun j => joinEnterLit_enters⟩

end Sys2Proof.Machine
end

section
/-! SUPPORT. What logging an event leaves in the Yilloger (22 R468 to R473), said once, and what it does not depend on. -/

namespace Sys2Proof.Machine

/-- The objects whose values decide what logging an event writes. -/
def logInputs : List Nat := Obj.freezeMask :: Obj.postTrigger :: yilloggerObjects

/-- Two states in which logging the same event makes the same entry: the Yilloger stands alike in both. -/
structure LogsAlike (s t : State) : Prop where
  ylog : t.ylog = s.ylog
  reg : ∀ k ∈ logInputs, t.reg k = s.reg k

namespace LogsAlike

theorem refl {s : State} : LogsAlike s s := ⟨rfl, fun _ _ => rfl⟩

/-- One operation more. -/
theorem step {s t u : State} (h : LogsAlike t u) (k : LogsAlike s t) : LogsAlike s u :=
  ⟨h.ylog.trans k.ylog, fun j hj => (h.reg j hj).trans (k.reg j hj)⟩

/-- A record update that leaves the registers and the Yilloger. -/
theorem of_eq {s t : State} (hy : t.ylog = s.ylog) (hr : t.regs = s.regs) : LogsAlike s t := ⟨hy, fun k _ => State.reg_congr hr k⟩

theorem ite {c c' : Prop} [Decidable c] [Decidable c'] {s t u v : State} (hc : c' ↔ c) (h : c → LogsAlike s u)
    (k : ¬c → LogsAlike t v) : LogsAlike (if c then s else t) (if c' then u else v) := by
  by_cases x : c
  · rw [if_pos x, if_pos (hc.mpr x)]; exact h x
  · rw [if_neg x, if_neg (mt hc.mp x)]; exact k x

/-- An operation that changes no object of the Yilloger. -/
theorem of_other {d : List Fld} {s t : State} (h : Only d s t) (hd : Fld.ylog ∉ d) (hr : ∀ k ∈ logInputs, t.reg k = s.reg k) :
    LogsAlike s t := ⟨h.agree .ylog hd, hr⟩

variable {s t : State}

theorem setReg (h : LogsAlike s t) (k v : Nat) : LogsAlike (s.setReg k v) (t.setReg k v) := by
  refine ⟨h.ylog, fun j hj => ?_⟩
  rw [State.reg_setReg, State.reg_setReg, h.reg j hj]

theorem bump (h : LogsAlike s t) {k : Nat} (hk : k ∈ logInputs) : LogsAlike (s.bump k) (t.bump k) := by
  unfold State.bump State.count
  rw [h.reg k hk]
  exact h.setReg k _

theorem with_ylog (h : LogsAlike s t) (y : Ylog) : LogsAlike { s with ylog := y } { t with ylog := y } := ⟨rfl, h.reg⟩

/-- Noting a trigger is no entry of the log. -/
theorem noted (s : State) (c : Prop) [Decidable c] : LogsAlike s (if c then s.noteTrigger else s) := by
  split
  · exact .of_eq rfl rfl
  · exact .refl

theorem noteTrigger (h : LogsAlike s t) (c : Prop) [Decidable c] :
    LogsAlike (if c then s.noteTrigger else s) (if c then t.noteTrigger else t) :=
  .ite .rfl (fun _ => .step (t := t) (.of_eq rfl rfl) (h.step (.of_eq rfl rfl))) (fun _ => h)

theorem ylogPut (h : LogsAlike s t) (v : YEvent) : LogsAlike (s.ylogPut v) (t.ylogPut v) := by
  unfold State.ylogPut
  rw [h.reg Obj.freezeMask (by decide)]
  extract_lets trig s1 next after e post y s3 s4 z s5 _ s6 t1 next' after' e' post' y' t3 t4 z' t5 _ t6
  have h1 : LogsAlike s1 t1 := h.noteTrigger _
  have hnext : next' = next := h1.reg _ (by decide)
  have hpost : post' = post := h1.reg _ (by decide)
  have hstate : t1.reg Obj.ylogState = s1.reg Obj.ylogState := h1.reg _ (by decide)
  have hafter : after' = after := congrArg (fun n => decide (n = 1)) hstate
  have hlog : t3.ylog = s3.ylog := by
    simp only [s3, t3, e, e', y, y', h1.ylog, hnext, hafter]
  have h4 : LogsAlike s4 t4 := LogsAlike.bump (s := s3) (t := t3) ⟨hlog, h1.reg⟩ (by decide)
  have h5 : LogsAlike s5 t5 := ⟨by simp only [s5, t5, z, z', h4.ylog], h4.reg⟩
  have h6 : LogsAlike s6 t6 := by
    have frozen : LogsAlike (s4.setReg Obj.freezeEntry next) (t4.setReg Obj.freezeEntry next') := by rw [hnext]; exact h4.setReg _ _
    exact ⟨by simp only [s6, t6, z, z', h4.ylog, hpost], frozen.reg⟩
  have hend : t5.ylog.post = 0 ↔ s5.ylog.post = 0 := by rw [h5.ylog]
  rw [hpost]
  exact .ite (by rw [hstate]) (fun _ => h1.bump (by decide)) (fun _ => .ite (by rw [hafter])
    (fun _ => .ite hend (fun _ => h5.setReg _ _) (fun _ => h5))
    (fun _ => .ite .rfl (fun _ => h6.setReg _ _) (fun _ => h4)))

theorem ylogPuts (h : LogsAlike s t) (l : List YEvent) : LogsAlike (s.ylogPuts l) (t.ylogPuts l) := by
  induction l generalizing s t with
  | nil => exact h
  | cons v l ih => exact ih (h.ylogPut v)

theorem ylogBack (h : LogsAlike s t) (b : YBase) : LogsAlike (s.ylogBack b) (t.ylogBack b) := by
  have regs := (((h.setReg Obj.ylogNext b.next).setReg Obj.ylogState b.state).setReg Obj.freezeEntry b.freezeEntry).setReg Obj.missed b.missed
  exact ⟨by simp only [State.ylogBack, State.setReg_ylog, h.ylog], regs.reg⟩

theorem ylogBase (h : LogsAlike s t) : t.ylogBase = s.ylogBase := by
  unfold State.ylogBase
  rw [h.ylog, h.reg Obj.ylogNext (by decide), h.reg Obj.ylogState (by decide), h.reg Obj.freezeEntry (by decide), h.reg Obj.missed (by decide)]

theorem sameLog (h : LogsAlike s t) : t.sameLog s := ⟨congrArg Ylog.entries h.ylog, fun k hk => h.reg k (.tail _ (.tail _ hk))⟩

end LogsAlike

theorem State.sameLog.trans {s t u : State} (h : u.sameLog t) (k : t.sameLog s) : u.sameLog s :=
  ⟨h.1.trans k.1, fun j hj => (h.2 j hj).trans (k.2 j hj)⟩

theorem State.sameLog.with_ylog (s : State) {y : Ylog} (h : y.entries = s.ylog.entries) : ({ s with ylog := y } : State).sameLog s :=
  ⟨h, fun _ _ => rfl⟩

/-! ### One entry -/

/-- While the Yilloger is frozen an event is counted in MISSED, and makes no entry (22 R473). -/
theorem State.ylogPut_frozen (s : State) (v : YEvent) (h : s.reg Obj.ylogState = 2) : (s.ylogPut v).ylog.entries = s.ylog.entries ∧
    (s.ylogPut v).reg Obj.missed = countValue Obj.missed (s.reg Obj.missed) 1 := by
  unfold State.ylogPut
  extract_lets trig s1
  have alike : LogsAlike s s1 := .noted s _
  rw [if_pos ((alike.reg _ (by decide)).trans h), State.reg_bump_same, alike.reg _ (by decide)]
  exact ⟨congrArg Ylog.entries alike.ylog, rfl⟩

/-- Otherwise it makes the next entry (22 R468). -/
theorem State.ylogPut_running (s : State) (v : YEvent) (h : s.reg Obj.ylogState ≠ 2) :
    (s.ylogPut v).reg Obj.ylogNext = countValue Obj.ylogNext (s.reg Obj.ylogNext) 1 ∧
    ∃ e, (s.ylogPut v).ylog.entries = (e :: s.ylog.entries).take 4096 ∧ e.code = v.code ∧ e.detail = v.detail ∧ e.time = v.time := by
  unfold State.ylogPut
  extract_lets trig s1 next after e post y s3 s4 z s5 _ s6
  have alike : LogsAlike s s1 := .noted s _
  have hnext : s4.reg Obj.ylogNext = countValue Obj.ylogNext (s.reg Obj.ylogNext) 1 := by
    rw [← alike.reg Obj.ylogNext (by decide)]
    exact State.reg_bump_same ..
  have hentries : s4.ylog.entries = (e :: s.ylog.entries).take 4096 := congrArg (fun l => (e :: l).take 4096) (congrArg Ylog.entries alike.ylog)
  have entered (u : State) (hr : u.reg Obj.ylogNext = s4.reg Obj.ylogNext) (hy : u.ylog.entries = s4.ylog.entries) :
      u.reg Obj.ylogNext = countValue Obj.ylogNext (s.reg Obj.ylogNext) 1 ∧
        ∃ e, u.ylog.entries = (e :: s.ylog.entries).take 4096 ∧ e.code = v.code ∧ e.detail = v.detail ∧ e.time = v.time :=
    ⟨hr.trans hnext, e, hy.trans hentries, rfl, rfl, rfl⟩
  rw [if_neg (by rwa [alike.reg _ (by decide)])]
  split
  · split
    · exact entered _ (s5.reg_setReg_other _ (by decide)) rfl
    · exact entered _ rfl rfl
  · split
    · exact entered _ ((s6.reg_setReg_other _ (by decide)).trans (s4.reg_setReg_other _ (by decide))) rfl
    · exact entered _ rfl rfl

/-! ### An event -/

theorem State.ylogWrite_sameLog (s : State) (code : Nat) (detail : List Byte) : ∃ v : YEvent, v.code = code ∧ v.detail = padTo 12 detail ∧
    v.time = s.now ∧ (s.ylogWrite code detail).sameLog (if s.ylog.batch.any (fun x => decide (code < x.code)) then
      (s.ylogBack (s.ylog.base.getD s.ylogBase)).ylogPuts (placeEvent v s.ylog.batch) else s.ylogPut v) := by
  refine ⟨{ code := code, mode := s.mode.code, time := s.now, resets := s.reg Obj.resetCount % 2 ^ 16, detail := padTo 12 detail },
    rfl, rfl, rfl, ?_⟩
  have order : (s.ylog.batch.all (fun x => decide (x.code ≤ code)) = true) ↔ ¬ s.ylog.batch.any (fun x => decide (code < x.code)) = true := by
    simp
  unfold State.ylogWrite
  extract_lets v base batch s1
  by_cases hany : s.ylog.batch.any (fun x => decide (code < x.code)) = true
  · have h1 : s1 = (s.ylogBack base).ylogPuts batch := if_neg (by rwa [order, not_not])
    rw [if_pos hany, ← h1]
    exact .with_ylog s1 rfl
  · have h1 : s1 = s.ylogPut v := if_pos (order.mpr hany)
    rw [if_neg hany, ← h1]
    exact .with_ylog s1 rfl

theorem State.logEvent_sameLog (s : State) (code : Nat) (detail : List Byte) : (s.logEvent code detail).sameLog (s.ylogWrite code detail) := by
  have sent := State.sendEach_only (s.ylogWrite code detail) 0x32 0 (le 2 code ++ le 10 (s.ylogWrite code detail).now ++ (padTo 12 detail).take 8)
    ((s.ylogWrite code detail).igrel.sessions.filter (fun x => !x.reserved))
  exact ⟨congrArg Ylog.entries (sent.agree .ylog (by decide)), fun k _ => sent.reg (by decide) k⟩

/-- An event that is logged after operations that leave the Yilloger and the clock alone is logged as at their start. -/
theorem State.logEvent_logs {s u : State} (h : LogsAlike s u) (hc : u.clock = s.clock) (code : Nat) (detail : List Byte) :
    s.logs (u.logEvent code detail) code detail := by
  obtain ⟨v, hcode, hdetail, htime, hsame⟩ := u.ylogWrite_sameLog code detail
  replace hsame := (u.logEvent_sameLog code detail).trans hsame
  rw [h.ylog, h.ylogBase] at hsame
  replace htime : v.time = s.now := by rw [htime, State.now, hc, State.now]
  generalize u.logEvent code detail = t at hsame ⊢
  unfold State.logs
  split at hsame
  next hany =>
    rw [if_pos hany]
    exact ⟨v, hcode, hdetail, htime, hsame.trans ((h.ylogBack _).ylogPuts _).sameLog⟩
  next hany =>
    obtain ⟨entries, regs⟩ := hsame.trans (h.ylogPut v).sameLog
    rw [if_neg hany, entries, regs Obj.missed (by decide), regs Obj.ylogNext (by decide)]
    split
    next hfrozen => exact s.ylogPut_frozen v hfrozen
    next hruns =>
      obtain ⟨hnext, e, he, hec, hed, het⟩ := s.ylogPut_running v hruns
      exact ⟨hnext, e, he, hec.trans hcode, hed.trans hdetail, het.trans htime⟩

/-- What comes after the event leaves it logged, where it leaves the Yilloger. -/
theorem State.logs_sameLog {s t u : State} {code : Nat} {detail : List Byte} (h : s.logs t code detail) (k : u.sameLog t) :
    s.logs u code detail := by
  unfold State.logs at h ⊢
  split
  next hany =>
    rw [if_pos hany] at h
    obtain ⟨v, hcode, hdetail, htime, hsame⟩ := h
    exact ⟨v, hcode, hdetail, htime, k.trans hsame⟩
  next hany =>
    rw [if_neg hany] at h
    obtain ⟨entries, regs⟩ := k
    rwa [entries, regs Obj.missed (by decide), regs Obj.ylogNext (by decide)]

/-- An operation that leaves the Yilloger and its objects. -/
theorem Only.sameLog {d : List Fld} {s t : State} (h : Only d s t) (hd : Fld.ylog ∉ d) (hr : ∀ k ∈ yilloggerObjects, t.reg k = s.reg k) :
    t.sameLog s := ⟨congrArg Ylog.entries (h.agree .ylog hd), hr⟩

end Sys2Proof.Machine
end

section
/-! SUPPORT. O17 (01 R18 and R27, 23 R490): FSI samples, die temperatures and stalled crossings. -/

namespace Sys2Proof.Machine

/-! ### The lowest site -/

/-- The step of the search for the lowest site. -/
def lowerSite (best x : Nat × Nat) : Nat × Nat := if x.2 < best.2 then x else best

/-- The search ends at one of the readings, and none is lower. -/
theorem foldl_lowerSite (l : List (Nat × Nat)) (best : Nat × Nat) :
    (l.foldl lowerSite best = best ∨ l.foldl lowerSite best ∈ l) ∧ ∀ x ∈ best :: l, (l.foldl lowerSite best).2 ≤ x.2 := by
  induction l generalizing best with
  | nil => simp
  | cons y l ih =>
    obtain ⟨found, least⟩ := ih (lowerSite best y)
    have hstep : (lowerSite best y = best ∨ lowerSite best y = y) ∧ (lowerSite best y).2 ≤ best.2 ∧ (lowerSite best y).2 ≤ y.2 := by
      unfold lowerSite
      split <;> simp <;> omega
    rw [List.foldl_cons]
    simp only [List.mem_cons, forall_eq_or_imp] at least ⊢
    grind

theorem lowestSite_four (a b c d : Nat) : (lowestSite [a, b, c, d]).2 = min (min a b) (min c d) ∧
    [a, b, c, d][(lowestSite [a, b, c, d]).1]? = some (lowestSite [a, b, c, d]).2 := by
  obtain ⟨found, least⟩ := foldl_lowerSite [(0, a), (1, b), (2, c), (3, d)] (0, a)
  change (lowestSite [a, b, c, d] = _ ∨ lowestSite [a, b, c, d] ∈ _) at found
  change ∀ x : Nat × Nat, x ∈ _ → (lowestSite [a, b, c, d]).2 ≤ x.2 at least
  simp only [List.mem_cons, List.not_mem_nil, or_false, forall_eq_or_imp, forall_eq] at found least
  generalize lowestSite [a, b, c, d] = r at found least
  rcases found with rfl | rfl | rfl | rfl | rfl <;> simp at least ⊢ <;> omega

/-! ### The three commands -/

/-- An event logged, or not, changes the Yilloger's objects alone. -/
theorem State.logEvent_ite_reg (s : State) (c : Prop) [Decidable c] (code : Nat) (detail : List Byte) {k : Nat} (h : k ∉ yilloggerObjects) :
    (if c then s.logEvent code detail else s).reg k = s.reg k := by
  split
  · exact s.logEvent_reg code detail h
  · rfl

/-- The registers after a sample whose lowest reading is `v` at a site, before the low event is logged. -/
def State.fsiTaken (s : State) (site v : Nat) : State :=
  let s := (s.setReg Obj.fsiNow v).setReg Obj.fsiSite site
  if v < s.reg Obj.fsiMin then s.setReg Obj.fsiMin v else s

theorem State.fsiTaken_only (s : State) (site v : Nat) : Only [.regs] s (s.fsiTaken site v) := by
  have h := (State.setReg_only (s.setReg Obj.fsiNow v) Obj.fsiSite site).step (by decide) (s.setReg_only Obj.fsiNow v)
  exact .ite (fun _ => (State.setReg_only ..).step (by decide) h) (fun _ => h)

theorem State.fsiTaken_reg (s : State) (site v k : Nat) : (s.fsiTaken site v).reg k =
    if k = Obj.fsiMin then min (s.reg Obj.fsiMin) v else if k = Obj.fsiSite then site else if k = Obj.fsiNow then v else s.reg k := by
  unfold State.fsiTaken
  simp only [apply_ite (State.reg · k), State.reg_setReg]
  grind

/-- A sample of four sites outside DARK and KINDLE: beside the registers of the lowest, it logs at most. -/
theorem execFsiSample_four {s : State} {a b c d : Nat} (ha : a < 2 ^ 16) (hb : b < 2 ^ 16) (hc : c < 2 ^ 16) (hd : d < 2 ^ 16)
    (hdark : s.mode ≠ .dark) (hkindle : s.mode ≠ .kindle) : ∃ t, execFsiSample [a, b, c, d] s = ok t ∧ t.mode = s.mode ∧
      ∀ k, k ∉ yilloggerObjects → t.reg k = (s.fsiTaken (lowestSite [a, b, c, d]).1 (lowestSite [a, b, c, d]).2).reg k := by
  have hmap : [a, b, c, d].map (· % 2 ^ 16) = [a, b, c, d] := by
    simp only [List.map_cons, List.map_nil, Nat.mod_eq_of_lt ha, Nat.mod_eq_of_lt hb, Nat.mod_eq_of_lt hc, Nat.mod_eq_of_lt hd]
  have hgo : execFsiSample [a, b, c, d] s = _ := if_neg (by simp [hdark, hkindle])
  rw [hmap] at hgo
  generalize lowestSite [a, b, c, d] = r at hgo ⊢
  refine ⟨_, hgo, ((execFsiSample_only ..).only _ hgo).agree .mode (by decide), fun k hk => ?_⟩
  exact State.logEvent_ite_reg _ _ _ _ hk

theorem fsiSample_taken {s : State} {a b c d : Nat} (ha : a < 2 ^ 16) (hb : b < 2 ^ 16) (hc : c < 2 ^ 16) (hd : d < 2 ^ 16)
    (hdark : s.mode ≠ .dark) (hkindle : s.mode ≠ .kindle) : Completes (.fsiSample [a, b, c, d]) s (fun t =>
      t.mode = s.mode ∧ t.reg Obj.fsiNow = min (min a b) (min c d) ∧ [a, b, c, d][t.reg Obj.fsiSite]? = some (t.reg Obj.fsiNow) ∧
      t.reg Obj.fsiMin = min (s.reg Obj.fsiMin) (t.reg Obj.fsiNow) ∧
      s.regsBut t (Obj.fsiNow :: Obj.fsiSite :: Obj.fsiMin :: yilloggerObjects)) := by
  obtain ⟨t, hgo, hmode, hreg⟩ := execFsiSample_four ha hb hc hd hdark hkindle
  obtain ⟨hlow, hsite⟩ := lowestSite_four a b c d
  have hnow : t.reg Obj.fsiNow = (lowestSite [a, b, c, d]).2 := (hreg _ (by decide)).trans (by rw [State.fsiTaken_reg]; rfl)
  refine ⟨t, hgo, hmode, hnow.trans hlow, ?_, ?_, fun k hk => ?_⟩
  · rw [hnow, ← hsite, hreg _ (by decide), State.fsiTaken_reg]
    rfl
  · rw [hnow, hreg _ (by decide), State.fsiTaken_reg]
    rfl
  · simp only [List.mem_cons, not_or] at hk
    obtain ⟨know, ksite, kmin, klog⟩ := hk
    rw [hreg k klog, State.fsiTaken_reg, if_neg kmin, if_neg ksite, if_neg know]

/-! Die temperatures -/

theorem State.standing_reg (s : State) {k : Nat} (h : k ≠ Obj.snuffCause) : s.standing.reg k = s.reg k := by
  unfold State.standing
  extract_lets s1
  have h1 : s1.reg k = s.reg k := by
    simp only [s1]
    split
    · exact s.setCause_reg _ h
    · rfl
  split
  · exact (s1.setCause_reg _ h).trans h1
  · exact h1

theorem State.standing_therm {s : State} (hc : s.configured = true) (ht : s.thermal = true) :
    (s.standing.reg Obj.snuffCause).testBit Cause.therm = true := by
  rw [State.standing_testBit, hc, ht]
  simp

theorem dieTempSample_kept {s : State} {i : Fin 4} {v : Int} (hv : v < 8000) (hi : i < s.die.temps.length) :
    Completes (.dieTempSample i v) s (fun t => t.mode = s.mode ∧ t.die.temps = s.die.temps.set i v ∧
      (7360 ≤ v → s.configured = true → (t.reg Obj.snuffCause).testBit Cause.therm = true) ∧ s.regsBut t [Obj.snuffCause]) := by
  have hgo : execDieTempSample i v s = _ := if_neg (by omega)
  refine ⟨_, hgo, (State.standing_only _).agree .mode (by decide), ?_, fun hhot hconf => State.standing_therm hconf ?_, fun k hk => ?_⟩
  · exact congrArg Die.temps ((State.standing_only _).agree .die (by decide))
  · have hot : (s.die.temps.set i v).any (fun x => decide (7360 ≤ x)) = true :=
      List.any_eq_true.mpr ⟨v, List.mem_set hi v, decide_eq_true hhot⟩
    simp [State.thermal, hot]
  · exact State.standing_reg _ (by simpa using hk)

/-! Stalled crossings -/

theorem State.setCause_snuffCause (s : State) (b : Nat) :
    (s.setCause b).reg Obj.snuffCause = if s.configured = true then s.reg Obj.snuffCause ||| 2 ^ b else s.reg Obj.snuffCause := by
  split
  next h => exact s.setCause_sets b h
  next h => unfold State.setCause; rw [if_neg h]

theorem State.setCause_logsAlike (s : State) (b : Nat) : LogsAlike s (s.setCause b) :=
  .of_other (s.setCause_only b) (by decide) (fun k hk => s.setCause_reg b (by rintro rfl; exact absurd hk (by decide)))

theorem cdcStall_logged {s : State} (x : Nat) (f : Bool) (h : s.rst.asserted = false) : Completes (.cdcStall x f) s (fun t =>
    t.mode = s.mode ∧ s.logs t Ev.cdcStall (le 1 x) ∧ s.regsBut t (Obj.snuffCause :: yilloggerObjects) ∧
      t.reg Obj.snuffCause = if f && s.configured then s.reg Obj.snuffCause ||| 32 else s.reg Obj.snuffCause) := by
  have hgo : execCdcStall x f s = ok ((if f = true then s.setCause Cause.cdcStall else s).logEvent Ev.cdcStall (le 1 x)) := if_neg (by simp [h])
  generalize hu : (if f = true then s.setCause Cause.cdcStall else s) = u at hgo
  have frame : Only [.regs, .flagged] s u := hu ▸ .ite (fun _ => s.setCause_only _) (fun _ => .refl)
  have alike : LogsAlike s u := by
    rw [← hu]
    split
    · exact s.setCause_logsAlike _
    · exact .refl
  have cause : u.reg Obj.snuffCause = if f && s.configured then s.reg Obj.snuffCause ||| 32 else s.reg Obj.snuffCause := by
    rw [← hu]
    cases f
    · rfl
    · exact s.setCause_snuffCause _
  have other : ∀ k, k ≠ Obj.snuffCause → u.reg k = s.reg k := by
    intro k hk
    rw [← hu]
    split
    · exact s.setCause_reg _ hk
    · rfl
  refine ⟨_, hgo, ?_, State.logEvent_logs alike (frame.agree .clock (by decide)) .., fun k hk => ?_, ?_⟩
  · exact ((State.logEvent_only ..).agree .mode (by decide)).trans (frame.agree .mode (by decide))
  · obtain ⟨hc, hl⟩ := not_or.mp (List.mem_cons.not.mp hk)
    exact (u.logEvent_reg _ _ hl).trans (other k hc)
  · exact (u.logEvent_reg _ _ (by decide)).trans cause

/-- Settles O17, sensor by sensor. -/
theorem sensorsAndStalls : Obligations.SensorsAndStalls := by
  unfold Obligations.SensorsAndStalls
  intro s
  exact ⟨fun a b c d ha hb hc hd hdark hkindle => fsiSample_taken ha hb hc hd hdark hkindle,
    fun i v hv hi => dieTempSample_kept hv hi, fun x f h => cdcStall_logged x f h⟩

end Sys2Proof.Machine
end

section
/-! SUPPORT. O37 (01 R28, R29; 07 R157, R163 to R166; 08 R171): what decoding a line, a rewind and a correction leave of the contexts, the
slots and the registers. -/

namespace Sys2Proof.Machine

/-! ### Registers left alone -/

theorem State.regsBut.refl {s : State} {l : List Nat} : s.regsBut s l := fun _ _ => rfl

theorem State.regsBut.step {s t u : State} {l m n : List Nat} (h : t.regsBut u m) (k : s.regsBut t l) (hm : m ⊆ n := by simp)
    (hl : l ⊆ n := by simp) : s.regsBut u n := fun j hj => (h j (fun hj' => hj (hm hj'))).trans (k j (fun hj' => hj (hl hj')))

theorem State.regsBut.mono {s t : State} {l n : List Nat} (k : s.regsBut t l) (hl : l ⊆ n := by simp) : s.regsBut t n :=
  fun j hj => k j (fun hj' => hj (hl hj'))

theorem Only.regsBut {d : List Fld} {s t : State} (h : Only d s t) (hd : Fld.regs ∉ d) (l : List Nat) : s.regsBut t l :=
  fun k _ => h.reg hd k

theorem State.setReg_regsBut (s : State) (k v : Nat) : s.regsBut (s.setReg k v) [k] :=
  fun _ hj => s.reg_setReg_other v (by simpa using hj)

theorem State.bump_regsBut (s : State) (k : Nat) : s.regsBut (s.bump k) [k] := fun _ hj => s.reg_bump_other (by simpa using hj)

theorem State.logEvent_regsBut (s : State) (code : Nat) (detail : List Byte) : s.regsBut (s.logEvent code detail) yilloggerObjects :=
  fun _ hj => s.logEvent_reg code detail hj

/-! ### Contexts -/

/-- Every stream context stands as it stood. -/
structure SameCtxs (s t : State) : Prop where
  ctxs : t.decomp.ctxs = s.decomp.ctxs

namespace SameCtxs

theorem refl {s : State} : SameCtxs s s := ⟨rfl⟩

/-- One operation more. -/
theorem step {s t u : State} (h : SameCtxs t u) (k : SameCtxs s t) : SameCtxs s u := ⟨h.ctxs.trans k.ctxs⟩

theorem foldl {α : Type} {s u : State} {g : State → α → State} {l : List α} (hg : ∀ t x, SameCtxs t (g t x)) (k : SameCtxs s u) :
    SameCtxs s (l.foldl g u) := by
  induction l generalizing u with
  | nil => exact k
  | cons x t ih => exact ih ((hg u x).step k)

theorem ctx {s t : State} (h : SameCtxs s t) (k : Nat) : t.ctx k = s.ctx k := by
  unfold State.ctx
  rw [h.ctxs]

end SameCtxs

/-- An operation that does not touch the contexts and engines. -/
theorem Only.sameCtxs {d : List Fld} {s t : State} (h : Only d s t) (hd : Fld.decomp ∉ d) : SameCtxs s t :=
  ⟨congrArg Decomp.ctxs (h.agree .decomp hd)⟩

theorem State.takeJob_sameCtxs (s : State) (e : Nat) : SameCtxs s (s.takeJob e) := by
  unfold State.takeJob
  split
  · exact .refl
  · split
    · exact .refl
    · exact ((State.askMem_only ..).sameCtxs (by decide)).step ⟨rfl⟩

theorem State.takeJobs_sameCtxs (s : State) : SameCtxs s s.takeJobs := .foldl (fun t e => t.takeJob_sameCtxs e) ⟨rfl⟩

theorem State.addJobs_sameCtxs (s : State) (js : List Job) : SameCtxs s (s.addJobs js) := (State.takeJobs_sameCtxs _).step ⟨rfl⟩

/-! ### Decode errors -/

/-- A decode error that is recorded leaves the context's states and its lines: only the blocks it has been raised for are noted. -/
structure SameStates (k : Nat) (s t : State) : Prop where
  work : (t.ctx k).work = (s.ctx k).work
  ckpt : (t.ctx k).ckpt = (s.ctx k).ckpt
  trail : (t.ctx k).trail = (s.ctx k).trail

namespace SameStates

theorem refl {k : Nat} {s : State} : SameStates k s s := ⟨rfl, rfl, rfl⟩

/-- One operation more. -/
theorem step {k : Nat} {s t u : State} (h : SameStates k t u) (j : SameStates k s t) : SameStates k s u :=
  ⟨h.work.trans j.work, h.ckpt.trans j.ckpt, h.trail.trans j.trail⟩

end SameStates

theorem SameCtxs.states {s t : State} (h : SameCtxs s t) (k : Nat) : SameStates k s t :=
  ⟨congrArg Ctx.work (h.ctx k), congrArg Ctx.ckpt (h.ctx k), congrArg Ctx.trail (h.ctx k)⟩

theorem State.setCtx_states (s : State) (k : Nat) (l : List Nat) : SameStates k s (s.setCtx k { s.ctx k with raised := l }) := by
  constructor <;> rw [State.ctx_setCtx_same]

theorem State.waxError_leaves (s : State) (k : Nat) (e : WaxErr) : SameStates k s (s.waxError k e) ∧
    s.regsBut (s.waxError k e) (Obj.decodeErrors k :: Obj.lastError k :: yilloggerObjects) := by
  obtain ⟨code, seq, off⟩ := e
  unfold State.waxError
  dsimp only
  split
  · exact ⟨.refl, .refl⟩
  · generalize hs2 : (s.bump (Obj.decodeErrors k)).setReg (Obj.lastError k) (code + 256 * (off % 2 ^ 16) + 2 ^ 32 * seq) = s2
    have ctxs : SameCtxs s s2 := hs2 ▸ ((State.setReg_only ..).sameCtxs (by decide)).step ((State.bump_only ..).sameCtxs (by decide))
    have regs : s.regsBut s2 (Obj.decodeErrors k :: Obj.lastError k :: yilloggerObjects) :=
      hs2 ▸ (State.setReg_regsBut _ _ _).step (s.bump_regsBut _)
    split
    · exact ⟨ctxs.states k, regs⟩
    · exact ⟨(((State.logEvent_only ..).sameCtxs (by decide)).states k).step ((s2.setCtx_states k _).step (ctxs.states k)),
        (State.logEvent_regsBut (s2.setCtx k _) _ _).step (t := s2.setCtx k _) regs⟩

theorem State.noteErrs_leaves (s : State) (k : Nat) (errs : List WaxErr) : SameStates k s (s.noteErrs k errs) ∧
    s.regsBut (s.noteErrs k errs) (Obj.decodeErrors k :: Obj.lastError k :: yilloggerObjects) := by
  induction errs generalizing s with
  | nil => exact ⟨.refl, .refl⟩
  | cons e errs ih =>
    obtain ⟨states, regs⟩ := s.waxError_leaves k e
    obtain ⟨states', regs'⟩ := ih (s.waxError k e)
    exact ⟨states'.step states, regs'.step regs⟩

end Sys2Proof.Machine
end

section
/-! SUPPORT. O37: a line that an engine completes, and O37 itself. -/

namespace Sys2Proof.Machine

/-! ### What decoding gives is not poisoned (07 R157) -/

theorem nextLine_poisoned {k : Nat} {ring : List Blk} {fuel : Nat} {c c' : CtxState} {l : List Byte}
    (h : Wax.nextLine k ring fuel c = .line l c') : c'.poisoned = c.poisoned := by
  induction fuel generalizing c with
  | zero => cases h
  | succ fuel ih =>
    unfold Wax.nextLine at h
    split at h
    · cases h
    · dsimp only at h
      split at h
      · cases h
      · generalize (if c.offset = 12 ∧ c.done = 0 ∧ c.reps = 0 then _ else _ : Option (Nat × Nat)) = header at h
        split at h
        · cases h
        · split at h
          · cases h; rfl
          · split at h
            · split at h
              · cases h
              · cases h; rfl
            · split at h
              · cases h
              · split at h
                · have crossed := ih h
                  exact crossed
                · cases h

theorem decodeFrom_unpoisoned {s : State} {k : Nat} {c c' : CtxState} {l : List Byte} {errs : List WaxErr}
    (h : s.decodeFrom k c = .line l c' errs) : c'.poisoned = false := by
  have start : ∀ {b : Blk} {e : List WaxErr}, (match Wax.nextLine k (s.ring k) ((s.ring k).length + 1) (c.atBlock b.seq) with
    | .line l c' => StepRes.line l c' e
    | .absent => .absent
    | .error code seq off => .failed (s.passFrom k (c.atBlock b.seq) seq (some code)) (e ++ [(code, seq, off)])) = .line l c' errs →
      c'.poisoned = false := by
    intro b e h
    split at h
    · next hn => cases h; exact nextLine_poisoned hn
    · cases h
    · cases h
  unfold State.decodeFrom at h
  dsimp only at h
  split at h
  · split at h
    · cases h
    · exact start h
  · next hp =>
    split at h
    · split at h
      · cases h
      · exact start h
    · next hn => cases h; rw [nextLine_poisoned hn]; simpa using hp
    · cases h

/-! ### The working state moves, and the line is put into the buffer -/

theorem State.advance_ctx (s : State) (k : Nat) (st : CtxState) :
    (s.advance k st).ctx k = { s.ctx k with work := st, trail := (s.ctx k).trail ++ [st] } := s.ctx_setCtx_same k _

theorem State.advance_workLine (s : State) (k : Nat) (st : CtxState) : (s.advance k st).reg (Obj.workLine k) = st.next :=
  State.reg_setReg_same (s.setCtx k _) _ _

theorem State.advance_regs (s : State) (k : Nat) (st : CtxState) : s.regsBut (s.advance k st) [Obj.workLine k] :=
  State.setReg_regsBut (s.setCtx k _) _ _

theorem State.noteHeld_regs (s : State) (k : Nat) : s.regsBut (s.noteHeld k) [Obj.tentativeHeld k] := by
  unfold State.noteHeld
  split
  · exact s.setReg_regsBut _ _
  · exact .refl

theorem State.putLine_regs (s : State) (k n : Nat) (l : List Byte) : s.regsBut (s.putLine k n l) [Obj.tentativeHeld k] := by
  unfold State.putLine
  split
  · exact .refl
  · exact State.noteHeld_regs (s.setSlots k _) k

theorem State.putLine_put {s : State} {k n : Nat} (l : List Byte) (hkeep : s.keepsLine k n = true) (hno : s.slotAt k n = none) :
    ((s.putLine k n l).slotAt k n).map Slot.line = some l := by
  unfold State.putLine
  rw [if_neg (by simp [hkeep, hno])]
  have held : ∀ u : State, (u.noteHeld k).slotAt k n = u.slotAt k n := fun u => by
    unfold State.slotAt State.slotsOf
    rw [(State.noteHeld_only u k).agree .slots (by decide)]
  dsimp only
  rw [held]
  unfold State.slotAt at hno ⊢
  rw [State.slotsOf_setSlots_same, List.find?_append, hno]
  simp

/-! ### The checkpoint follows -/

/-- A context that is not poisoned passes no line undecoded. -/
theorem State.passAhead_unpoisoned {s : State} {k : Nat} (h : (s.ctx k).work.poisoned = false) : s.passAhead k = s := by
  unfold State.passAhead State.passPoisoned
  rw [h]
  split
  · next hp => cases hp
  · rfl

/-- A checkpoint that follows an unpoisoned working state leaves it. -/
structure Follows (k : Nat) (s t : State) : Prop where
  work : (t.ctx k).work = (s.ctx k).work
  regs : s.regsBut t [Obj.checkpointLine k, Obj.ringUsed k]

theorem Follows.refl {k : Nat} {s : State} : Follows k s s := ⟨rfl, .refl⟩

theorem Follows.step {k : Nat} {s t u : State} (h : Follows k t u) (j : Follows k s t) : Follows k s u :=
  ⟨h.work.trans j.work, h.regs.step j.regs⟩

theorem State.ckptStep_follows {s t : State} {k : Nat} (hp : (s.ctx k).work.poisoned = false) (h : s.ckptStep k = some t) :
    Follows k s t := by
  unfold State.ckptStep at h
  rw [State.passAhead_unpoisoned hp] at h
  dsimp only at h
  split at h
  · cases h
  · next st rest _ =>
    cases h
    refine ⟨?_, fun j hj => ?_⟩
    · rw [((State.noteImage_only ..).sameCtxs (by decide)).ctx]
      exact (congrArg Ctx.work (State.ctx_setCtx_same s k { s.ctx k with ckpt := st, trail := rest })).trans rfl
    · rw [(State.noteImage_only ..).reg (by decide)]
      exact State.reg_setReg_other (s.setCtx k _) _ (fun e => hj (by simp [e]))

theorem State.ckptTo_follows {s : State} {k : Nat} (n fuel : Nat) (hp : (s.ctx k).work.poisoned = false) :
    Follows k s (s.ckptTo k n fuel) := by
  induction fuel generalizing s with
  | zero => exact .refl
  | succ fuel ih =>
    unfold State.ckptTo
    split
    · exact .refl
    · split
      · exact .refl
      · next t ht =>
        have first := State.ckptStep_follows hp ht
        exact (ih (by rw [first.work, hp])).step first

theorem State.freeRing_regs (s : State) (k : Nat) : s.regsBut (s.freeRing k) [Obj.ringUsed k] := by
  unfold State.freeRing
  dsimp only
  split
  · exact .refl
  · exact State.setReg_regsBut (s.setRing k _) _ _

theorem State.freeRing_follows (s : State) (k : Nat) : Follows k s (s.freeRing k) :=
  ⟨congrArg Ctx.work (((State.freeRing_only ..).sameCtxs (by decide)).ctx k), (s.freeRing_regs k).mono⟩

theorem State.ckptUp_follows {s : State} {k : Nat} (hp : (s.ctx k).work.poisoned = false) : Follows k s (s.ckptUp k) := by
  unfold State.ckptUp
  split
  · exact (State.freeRing_follows _ k).step (State.ckptTo_follows _ _ hp)
  · exact .refl

/-- Where its lines have not been passed, the checkpoint waits (07 R163). -/
theorem State.ckptUp_waits {s : State} {k : Nat}
    (h : 128 ≤ k ∨ dist32 ((2 ^ 32 - 1 + s.reg (Obj.nextArmSeq (groupOf k))) % 2 ^ 32) (s.ctx k).ckpt.next < 0) :
    SameStates k s (s.ckptUp k) := by
  unfold State.ckptUp
  split
  · next hk =>
    have behind := h.resolve_left (by omega)
    have stays : ∀ fuel, s.ckptTo k ((2 ^ 32 - 1 + s.reg (Obj.nextArmSeq (groupOf k))) % 2 ^ 32) fuel = s := by
      intro fuel
      cases fuel with
      | zero => rfl
      | succ fuel => exact if_pos behind
    unfold State.ckptAll
    rw [stays]
    exact ((State.freeRing_only ..).sameCtxs (by decide)).states k
  · exact .refl

/-! ### An engine completes a line (01 R28) -/

/-- The registers of a context that a decoded line changes, beside the working line's and the count of lines. -/
def decodeObjects (k : Nat) : List Nat :=
  Obj.checkpointLine k :: Obj.ringUsed k :: Obj.tentativeHeld k :: Obj.decodeErrors k :: Obj.lastError k :: yilloggerObjects

theorem errorObjects_subset (k : Nat) : Obj.decodeErrors k :: Obj.lastError k :: yilloggerObjects ⊆ decodeObjects k := by
  intro x hx
  exact .tail _ (.tail _ (.tail _ hx))

theorem workLine_notIn_decodeObjects (k : Nat) : Obj.workLine k ∉ decodeObjects k := by
  simp [decodeObjects, yilloggerObjects, Obj.workLine, Obj.checkpointLine, Obj.ringUsed, Obj.tentativeHeld, Obj.decodeErrors, Obj.lastError,
    Obj.ylogNext, Obj.missed, Obj.ylogState, Obj.freezeEntry]
  omega

theorem linesDecoded_notIn_decodeObjects (k : Nat) : Obj.linesDecoded k ∉ decodeObjects k := by
  simp [decodeObjects, yilloggerObjects, Obj.linesDecoded, Obj.checkpointLine, Obj.ringUsed, Obj.tentativeHeld, Obj.decodeErrors, Obj.lastError,
    Obj.ylogNext, Obj.missed, Obj.ylogState, Obj.freezeEntry]
  omega

/-- Decoding a line changes no group's first line. -/
theorem nextArmSeq_notIn_decodeObjects (k : Nat) :
    Obj.nextArmSeq (groupOf k) ∉ Obj.workLine k :: Obj.linesDecoded k :: decodeObjects k := by
  have hg : groupOf k < 8 := by unfold groupOf; omega
  simp [decodeObjects, yilloggerObjects, Obj.nextArmSeq, Obj.workLine, Obj.linesDecoded, Obj.checkpointLine, Obj.ringUsed, Obj.tentativeHeld,
    Obj.decodeErrors, Obj.lastError, Obj.ylogNext, Obj.missed, Obj.ylogState, Obj.freezeEntry]
  omega

section
variable {s : State} {j : Job} {l : List Byte} {c : CtxState} {errs : List WaxErr} (hdrop : j.drop = false)
  (hnext : (s.ctx j.stream).work.next = j.line) (hdec : s.decodeFrom j.stream (s.ctx j.stream).work = .line l c errs)

/-- The state in which the working state has moved over a decoded line. -/
def State.decoded (s : State) (k : Nat) (c : CtxState) (errs : List WaxErr) : State :=
  ((s.noteErrs k errs).bump (Obj.linesDecoded k)).advance k c

include hdrop hnext hdec in
theorem State.completeJob_line : s.completeJob j = ((s.decoded j.stream c errs).putLine j.stream j.line l).ckptUp j.stream := by
  unfold State.completeJob
  dsimp only
  rw [if_neg (by simpa using hnext), hdec]
  dsimp only
  rw [if_neg (by simp [hdrop])]
  rfl

theorem State.decoded_only (s : State) (k : Nat) (c : CtxState) (errs : List WaxErr) :
    Only [.regs, .igrel, .decomp, .ylog, .out, .flagged] s (s.decoded k c errs) :=
  (State.advance_only ..).step (by decide) ((State.bump_only ..).step (by decide) (s.noteErrs_only k errs))

theorem State.decoded_ctx (s : State) (k : Nat) (c : CtxState) (errs : List WaxErr) : ((s.decoded k c errs).ctx k).work = c ∧
    ((s.decoded k c errs).ctx k).ckpt = (s.ctx k).ckpt ∧ ((s.decoded k c errs).ctx k).trail = (s.ctx k).trail ++ [c] := by
  have noted := (s.noteErrs_leaves k errs).1
  unfold State.decoded
  rw [State.advance_ctx]
  exact ⟨rfl, noted.ckpt, congrArg (· ++ [c]) noted.trail⟩

theorem State.noteErrs_regs (s : State) (k : Nat) (errs : List WaxErr) : s.regsBut (s.noteErrs k errs) (decodeObjects k) :=
  (s.noteErrs_leaves k errs).2.mono (errorObjects_subset k)

theorem State.decoded_regs (s : State) (k : Nat) (c : CtxState) (errs : List WaxErr) :
    s.regsBut (s.decoded k c errs) (Obj.workLine k :: Obj.linesDecoded k :: decodeObjects k) :=
  (State.advance_regs _ k c).step ((State.bump_regsBut _ _).step (s.noteErrs_regs k errs) (n := Obj.linesDecoded k :: decodeObjects k))

theorem State.decoded_workLine (s : State) (k : Nat) (c : CtxState) (errs : List WaxErr) :
    (s.decoded k c errs).reg (Obj.workLine k) = c.next := State.advance_workLine ..

theorem State.decoded_linesDecoded (s : State) (k : Nat) (c : CtxState) (errs : List WaxErr) :
    (s.decoded k c errs).reg (Obj.linesDecoded k) = countValue (Obj.linesDecoded k) (s.reg (Obj.linesDecoded k)) 1 := by
  have noted : (s.noteErrs k errs).reg (Obj.linesDecoded k) = s.reg (Obj.linesDecoded k) :=
    s.noteErrs_regs k errs _ (linesDecoded_notIn_decodeObjects k)
  unfold State.decoded
  rw [State.advance_regs _ k c _ (by simp [Obj.linesDecoded, Obj.workLine]), State.reg_bump_same, noted]

theorem State.decoded_keepsLine (s : State) (k n : Nat) (c : CtxState) (errs : List WaxErr) :
    (s.decoded k c errs).keepsLine k n = s.keepsLine k n := by
  unfold State.keepsLine
  rw [(s.decoded_only k c errs).agree .twin (by decide)]
  rw [s.decoded_regs k c errs _ (nextArmSeq_notIn_decodeObjects k)]

include hdrop hnext hdec in
/-- The line's context, its registers and its slot once an engine has completed it. -/
theorem State.completeJob_decoded : ((s.completeJob j).ctx j.stream).work = c ∧
    (128 ≤ j.stream ∨ dist32 ((2 ^ 32 - 1 + s.reg (Obj.nextArmSeq (groupOf j.stream))) % 2 ^ 32) (s.ctx j.stream).ckpt.next < 0 →
      ((s.completeJob j).ctx j.stream).ckpt = (s.ctx j.stream).ckpt ∧
      ((s.completeJob j).ctx j.stream).trail = (s.ctx j.stream).trail ++ [c]) ∧
    (s.completeJob j).reg (Obj.workLine j.stream) = c.next ∧
    (s.completeJob j).reg (Obj.linesDecoded j.stream) = countValue (Obj.linesDecoded j.stream) (s.reg (Obj.linesDecoded j.stream)) 1 ∧
    (s.keepsLine j.stream j.line = true → s.slotAt j.stream j.line = none →
      ((s.completeJob j).slotAt j.stream j.line).map Slot.line = some l) := by
  rw [State.completeJob_line hdrop hnext hdec]
  generalize j.stream = k at *
  obtain ⟨work, ckpt, trail⟩ := s.decoded_ctx k c errs
  have keeps := s.decoded_keepsLine k j.line c errs
  have arm := s.decoded_regs k c errs _ (nextArmSeq_notIn_decodeObjects k)
  have line := s.decoded_workLine k c errs
  have count := s.decoded_linesDecoded k c errs
  have slots : (s.decoded k c errs).slotAt k j.line = s.slotAt k j.line := by
    unfold State.slotAt State.slotsOf
    rw [(s.decoded_only k c errs).agree .slots (by decide)]
  generalize s.decoded k c errs = u at *
  have put : SameStates k u (u.putLine k j.line l) := ((State.putLine_only ..).sameCtxs (by decide)).states k
  have putRegs := u.putLine_regs k j.line l
  have putAt : s.keepsLine k j.line = true → s.slotAt k j.line = none → ((u.putLine k j.line l).slotAt k j.line).map Slot.line = some l :=
    fun hk hn => State.putLine_put l (keeps.trans hk) (slots.trans hn)
  generalize u.putLine k j.line l = v at *
  have follows : Follows k v (v.ckptUp k) := State.ckptUp_follows (by rw [put.work, work]; exact decodeFrom_unpoisoned hdec)
  have regs : u.regsBut (v.ckptUp k) (decodeObjects k) :=
    (follows.regs.step putRegs (n := [Obj.checkpointLine k, Obj.ringUsed k, Obj.tentativeHeld k])).mono (by simp [decodeObjects])
  refine ⟨?_, fun hwait => ?_, ?_, ?_, fun hk hn => ?_⟩
  · rw [follows.work, put.work, work]
  · have held : Obj.nextArmSeq (groupOf k) ∉ [Obj.tentativeHeld k] := fun h =>
      nextArmSeq_notIn_decodeObjects k (.tail _ (.tail _ (.tail _ (.tail _ (List.mem_singleton.mp h ▸ .head _)))))
    have waits : SameStates k v (v.ckptUp k) := State.ckptUp_waits (by
      rwa [put.ckpt, ckpt, putRegs _ held, arm])
    rw [waits.ckpt, put.ckpt, ckpt, waits.trail, put.trail, trail]
    exact ⟨rfl, rfl⟩
  · rw [regs _ (workLine_notIn_decodeObjects k), line]
  · rw [regs _ (linesDecoded_notIn_decodeObjects k), count]
  · have after := putAt hk hn
    unfold State.slotAt State.slotsOf at after ⊢
    rwa [(State.ckptUp_only v k).agree .slots (by decide)]

end

/-! ### The five commands' clauses -/

/-- What is done once a line has been completed touches no register, slot or context: the engine is free, it takes another, and a join that is
ready says so. -/
theorem execDecodeLine_completes {s : State} {e : Fin 8} {j : Job} (hfind : Table.find s.decomp.engines e = some j)
    (hup : s.blockUp Block.decomp = true) (hreads : 128 ≤ j.stream → s.memWaits (.context j.stream) = false) :
    ∃ t, execDecodeLine e s = ok t ∧ SameCtxs (s.completeJob j) t ∧ t.regs = (s.completeJob j).regs ∧ t.slots = (s.completeJob j).slots := by
  have hgo : execDecodeLine e s = ok (({ s.completeJob j with decomp := { (s.completeJob j).decomp with
      engines := Table.erase (s.completeJob j).decomp.engines e } } : State).takeJobs).tellReady := by
    unfold execDecodeLine
    rw [hfind]
    exact if_neg (by simpa [hup] using hreads)
  refine ⟨_, hgo, ?_, ?_, ?_⟩
  · exact ((State.tellReady_only _).sameCtxs (by decide)).step ((State.takeJobs_sameCtxs _).step ⟨rfl⟩)
  · exact ((State.tellReady_only _).agree .regs (by decide)).trans ((State.takeJobs_only _).agree .regs (by decide))
  · exact ((State.tellReady_only _).agree .slots (by decide)).trans ((State.takeJobs_only _).agree .slots (by decide))

theorem decodeLine_decoded {s : State} {e : Fin 8} {j : Job} {l : List Byte} {c : CtxState} {errs : List WaxErr}
    (hfind : Table.find s.decomp.engines e = some j) (hup : s.blockUp Block.decomp = true)
    (hreads : 128 ≤ j.stream → s.memWaits (.context j.stream) = false) (hdrop : j.drop = false)
    (hnext : (s.ctx j.stream).work.next = j.line) (hdec : s.decodeFrom j.stream (s.ctx j.stream).work = .line l c errs) :
    Completes (.decodeLine e) s (fun t => (t.ctx j.stream).work = c ∧
      (128 ≤ j.stream ∨ dist32 ((2 ^ 32 - 1 + s.reg (Obj.nextArmSeq (groupOf j.stream))) % 2 ^ 32) (s.ctx j.stream).ckpt.next < 0 →
        (t.ctx j.stream).ckpt = (s.ctx j.stream).ckpt ∧ (t.ctx j.stream).trail = (s.ctx j.stream).trail ++ [c]) ∧
      t.reg (Obj.workLine j.stream) = c.next ∧
      t.reg (Obj.linesDecoded j.stream) = countValue (Obj.linesDecoded j.stream) (s.reg (Obj.linesDecoded j.stream)) 1 ∧
      (s.keepsLine j.stream j.line = true → s.slotAt j.stream j.line = none → (t.slotAt j.stream j.line).map Slot.line = some l)) := by
  obtain ⟨t, hgo, ctxs, regs, slots⟩ := execDecodeLine_completes hfind hup hreads
  refine ⟨t, hgo, ?_⟩
  have decoded := State.completeJob_decoded hdrop hnext hdec
  unfold State.slotAt State.slotsOf at decoded ⊢
  beta_reduce
  rwa [ctxs.ctx, State.reg_congr regs, State.reg_congr regs, slots]

theorem State.pageLate_regs (s : State) : s.regsBut s.pageLate yilloggerObjects := by
  unfold State.pageLate
  dsimp only
  split
  · exact .refl
  · split
    · exact fun k hk => State.logEvent_reg _ _ _ hk
    · exact .refl

theorem taperLineRequest_asks {s : State} {g : Fin 8} (hask : s.mayAsk g = true) (hup : s.blockUp Block.taper = true) :
    Completes (.taperLineRequest g) s (fun t => t.mode = s.mode ∧ (t.group g).nextReq = (s.nextAsk g + 1) % 2 ^ 32 ∧
      (t.group g).conf = (s.group g).conf ∧ s.regsBut t yilloggerObjects) := by
  have hgo : execTaperLineRequest g s = ok (s.askLine g).pageLate := by
    unfold execTaperLineRequest
    rw [hask, hup]
    rfl
  have group : ((s.askLine g).pageLate).group g = { s.group g with nextReq := (s.nextAsk g + 1) % 2 ^ 32 } := by
    have late : ((s.askLine g).pageLate).taper = (s.askLine g).taper := (State.pageLate_only _).agree .taper (by decide)
    have asked : (s.askLine g).taper = (s.setGroup g { s.group g with nextReq := (s.nextAsk g + 1) % 2 ^ 32 }).taper :=
      (State.addJobs_only ..).agree .taper (by decide)
    have same := s.group_setGroup_same g { s.group g with nextReq := (s.nextAsk g + 1) % 2 ^ 32 }
    unfold State.group at same ⊢
    rw [late, asked]
    exact same
  refine ⟨_, hgo, ?_, by rw [group], by rw [group], ?_⟩
  · exact ((State.pageLate_only _).agree .mode (by decide)).trans ((s.askLine_only g).agree .mode (by decide))
  · exact State.regsBut.step (t := s.askLine g) (m := yilloggerObjects) (State.pageLate_regs _)
      ((s.askLine_only g).regsBut (by decide) [])

theorem contextRewind_waits {s : State} {k : Fin 160} {r : Rewind} (hr : (s.ctx k).rewind = some r) (hbusy : s.engineBusy k = true) :
    Completes (.contextRewind k) s (fun t => t = s) := by
  refine ⟨s, ?_, rfl⟩
  show execContextRewind k s = ok s
  unfold execContextRewind
  dsimp only
  rw [hr]
  exact if_pos hbusy

/-- The state in which a context's checkpoint has been restored (07 R165). -/
def State.restored (s : State) (k : Nat) : State :=
  ((s.setCtx k { s.ctx k with work := (s.ctx k).ckpt, trail := [], rewind := none }).bump (Obj.rewinds k)).setReg (Obj.workLine k)
    (s.ctx k).ckpt.next

theorem State.restored_ctx (s : State) (k : Nat) :
    (s.restored k).ctx k = { s.ctx k with work := (s.ctx k).ckpt, trail := [], rewind := none } := s.ctx_setCtx_same k _

theorem contextRewind_restores {s : State} {k : Fin 160} {r : Rewind} (hr : (s.ctx k).rewind = some r) (hfree : s.engineBusy k = false) :
    Completes (.contextRewind k) s (fun t => (t.ctx k).work = (s.ctx k).ckpt ∧ (t.ctx k).ckpt = (s.ctx k).ckpt ∧ (t.ctx k).trail = [] ∧
      (t.ctx k).rewind = none ∧ t.reg (Obj.workLine k) = (s.ctx k).ckpt.next ∧
      t.reg (Obj.rewinds k) = countValue (Obj.rewinds k) (s.reg (Obj.rewinds k)) 1 ∧ s.regsBut t [Obj.workLine k, Obj.rewinds k]) := by
  have hgo : execContextRewind k s = ok ((s.restored k).addJobs ((s.restored k).quietJobs k r.line)) := by
    unfold execContextRewind
    dsimp only
    rw [hr]
    exact if_neg (by simp [hfree])
  generalize (s.restored k).quietJobs k r.line = jobs at hgo
  have ctx := (((s.restored k).addJobs_sameCtxs jobs).ctx k).trans (s.restored_ctx k)
  have reg (i : Nat) : ((s.restored k).addJobs jobs).reg i = (s.restored k).reg i := Only.reg (State.addJobs_only ..) (by decide) i
  refine ⟨_, hgo, by rw [ctx], by rw [ctx], by rw [ctx], by rw [ctx], ?_, ?_, fun i hi => ?_⟩
  · exact (reg _).trans (State.reg_setReg_same ..)
  · exact (reg _).trans ((State.reg_setReg_other _ _ (by simp [Obj.rewinds, Obj.workLine])).trans (State.reg_bump_same ..))
  · obtain ⟨hwork, hcount⟩ : i ≠ Obj.workLine k ∧ i ≠ Obj.rewinds k := by simpa using hi
    exact (reg i).trans ((State.reg_setReg_other _ _ hwork).trans (State.reg_bump_other (s.setCtx k _) hcount))

/-- Changing a line's slot is seen where the line is looked for. -/
theorem State.slotAt_modSlot {s : State} {k n : Nat} {f : Slot → Slot} (hf : ∀ x, (f x).seq = x.seq) :
    (s.modSlot k n f).slotAt k n = (s.slotAt k n).map f := by
  unfold State.slotAt State.modSlot
  rw [State.slotsOf_setSlots_same, List.find?_map]
  have same : ((fun x : Slot => decide (x.seq = n)) ∘ fun x => if x.seq = n then f x else x) = fun x => decide (x.seq = n) := by
    funext x
    by_cases hx : x.seq = n
    · simp [hx, hf]
    · simp [hx]
  rw [same]
  cases hfind : (s.slotsOf k).find? (fun x => decide (x.seq = n)) with
  | none => rfl
  | some x => simp [show x.seq = n by simpa using List.find?_some hfind]

theorem stripCorrect_counts {s : State} {st : Fin 128} {x : Slot}
    (hx : (s.slotsOf st).find? (fun x => decide (x.st = .decoded) && x.counts.isNone) = some x) (hup : s.blockUp Block.strip = true) :
    Completes (.stripCorrect st) s (fun t => t = { s with slots := t.slots } ∧
      (t.slotAt st x.seq).bind Slot.counts = some (s.correct (s.mapFor x.pend) st x.seq x.line).counts) := by
  have hgo : execStripCorrect st s =
      ok (s.modSlot st x.seq (fun y => { y with counts := some (s.correct (s.mapFor x.pend) st x.seq x.line).counts })) := by
    unfold execStripCorrect
    rw [hx]
    exact if_pos hup
  have found : (s.slotAt st x.seq).isSome = true := List.find?_isSome.mpr ⟨x, List.mem_of_find?_eq_some hx, by simp⟩
  obtain ⟨y, hy⟩ := Option.isSome_iff_exists.mp found
  refine ⟨_, hgo, rfl, ?_⟩
  rw [State.slotAt_modSlot, hy]
  · rfl
  · exact fun _ => rfl

/-- Settles O37, command by command. -/
theorem linesAreDecodedAndCorrected : Obligations.LinesAreDecodedAndCorrected := by
  unfold Obligations.LinesAreDecodedAndCorrected
  intro s
  exact ⟨fun g => taperLineRequest_asks, fun e j l c errs => decodeLine_decoded, fun k r => contextRewind_waits,
    fun k r => contextRewind_restores, fun st x => stripCorrect_counts⟩

end Sys2Proof.Machine
end

section
/-! SUPPORT. O38 (01 R37, R39; 08 R186 to R189): the change of the health map's copies, and the BLOCK_END that publishes. -/

namespace Sys2Proof.Machine

/-! ### Open transfers -/

/-- The open block transfers stand as they stood. -/
structure SameTransfers (s t : State) : Prop where
  transfers : t.igrel.transfers = s.igrel.transfers

namespace SameTransfers

theorem refl {s : State} : SameTransfers s s := ⟨rfl⟩

/-- One operation more. -/
theorem step {s t u : State} (h : SameTransfers t u) (k : SameTransfers s t) : SameTransfers s u := ⟨h.transfers.trans k.transfers⟩

theorem ite {c : Prop} [Decidable c] {s t u : State} (h : c → SameTransfers s t) (k : ¬c → SameTransfers s u) :
    SameTransfers s (if c then t else u) := by
  by_cases x : c
  · rw [if_pos x]; exact h x
  · rw [if_neg x]; exact k x

theorem transfer {s t : State} (h : SameTransfers s t) (sess tag : Nat) : t.transfer sess tag = s.transfer sess tag := by
  unfold State.transfer
  rw [h.transfers]

end SameTransfers

/-- An operation that does not touch Igrel. -/
theorem Only.sameTransfers {d : List Fld} {s t : State} (h : Only d s t) (hd : Fld.igrel ∉ d) : SameTransfers s t :=
  ⟨congrArg Igrel.transfers (h.agree .igrel hd)⟩

theorem State.sendIn_transfers (s : State) (dst : Src) (sess ty tag : Nat) (payload : List Byte) :
    SameTransfers s (s.sendIn dst sess ty tag payload) := by
  unfold State.sendIn
  split
  · exact .refl
  · exact ⟨rfl⟩

theorem State.sendEach_transfers (s : State) (ty tag : Nat) (payload : List Byte) (l : List Session) :
    SameTransfers s (s.sendEach ty tag payload l) := by
  induction l generalizing s with
  | nil => exact .refl
  | cons x l ih => exact (ih _).step (s.sendIn_transfers ..)

theorem State.logEvent_transfers (s : State) (code : Nat) (detail : List Byte) : SameTransfers s (s.logEvent code detail) :=
  (State.sendEach_transfers ..).step ((s.ylogWrite_only code detail).sameTransfers (by decide))

theorem State.respond_transfers (s : State) (h : Hdr) (r : Reply) : SameTransfers s (s.respond h r) :=
  .ite (fun _ => ⟨rfl⟩) (fun _ => State.sendIn_transfers ..)

theorem State.answer_transfers (s : State) (h : Hdr) (ty : Nat) (payload : List Byte) (r : Reply) :
    SameTransfers s (s.answer h ty payload r) := by
  have kept : ∀ t : State, SameTransfers t (t.keep h ty payload r) := fun t => .ite (fun _ => .refl) (fun _ => ⟨rfl⟩)
  exact (kept _).step (s.respond_transfers h r)

theorem State.finished_transfers (s : State) (d : Option Deferred) : SameTransfers s (s.finished d) := by
  cases d with
  | none => exact .refl
  | some d => exact .ite (fun _ => (State.answer_transfers ..).step ⟨rfl⟩) (fun _ => .refl)

theorem State.noteLeads_transfers (s : State) (raise : Bool) (l : List Nat) : SameTransfers s (s.noteLeads raise l) := by
  induction l generalizing s with
  | nil => exact .refl
  | cons g l ih => exact (ih _).step (.ite (fun _ => (State.logEvent_transfers ..).step ⟨rfl⟩) (fun _ => ⟨rfl⟩))

theorem State.cancel_transfers (s : State) (swap : Option Nat) (raise : Bool) (firsts : List (Nat × Nat)) :
    SameTransfers s (s.cancel swap raise firsts) := by
  refine .ite (fun _ => .refl) (fun _ => (State.noteLeads_transfers ..).step ?_)
  exact ((State.bump_only ..).sameTransfers (by decide)).step (((State.cancelModules_only ..).sameTransfers (by decide)).step
    ((State.cancelGroups_only ..).sameTransfers (by decide)))

theorem State.swapNow_transfers (s : State) : SameTransfers s s.swapNow := (State.logEvent_transfers ..).step ⟨rfl⟩

/-! ### The copies -/

/-- The copies change places, the generation advances, and the former active copy is to be overwritten (08 R188). -/
theorem State.swapNow_health (s : State) : s.swapNow.health.active = s.health.pending ∧ s.swapNow.health.pending = s.health.active ∧
    s.swapNow.health.swap = none ∧ s.swapNow.health.overwriting = true := by
  have same : s.swapNow.health = { s.health with
      active := s.health.pending, pending := s.health.active, swap := none, overwriting := true,
      past := (s.reg Obj.htSwapLine, s.health.active) :: s.health.past } := (State.logEvent_only ..).agree .health (by decide)
  rw [same]
  exact ⟨rfl, rfl, rfl, rfl⟩

theorem State.swapNow_gen (s : State) : s.swapNow.reg Obj.healthGen = (s.reg Obj.healthGen + 1) % 2 ^ 32 :=
  (State.logEvent_reg _ _ _ (by decide)).trans (State.reg_setReg_same ..)

theorem State.swapNow_regs (s : State) : s.regsBut s.swapNow (Obj.healthGen :: yilloggerObjects) := by
  intro k hk
  obtain ⟨hgen, hlog⟩ := not_or.mp (List.mem_cons.not.mp hk)
  exact (State.logEvent_reg _ _ _ hlog).trans (State.reg_setReg_other _ _ hgen)

theorem State.applyPublish_later (s : State) (recs : List (Nat × Nat)) (line : Nat) : (s.applyPublish recs line false).health =
    { s.health with pending := applyRecs s.health.pending recs, swap := some line } := by
  unfold State.applyPublish
  extract_lets _ s1 s2 s3
  have h : Only [.regs, .igrel, .decomp, .slots, .taper, .twin, .wick, .ylog, .out, .flagged] s2 s3 :=
    .ite (fun _ => s2.cancel_only ..) (fun _ => .refl)
  exact h.agree .health (by decide)

theorem State.applyPublish_now (s : State) (recs : List (Nat × Nat)) (line : Nat) :
    (s.applyPublish recs line true).health.swap = none ∧ (s.applyPublish recs line true).health.active = applyRecs s.health.pending recs ∧
      (s.applyPublish recs line true).health.overwriting = true := by
  have whole : s.applyPublish recs line true = (s.applyPublish recs line false).swapNow := rfl
  obtain ⟨active, -, swap, overwrites⟩ := (s.applyPublish recs line false).swapNow_health
  rw [whole, active, s.applyPublish_later recs line]
  exact ⟨swap, rfl, overwrites⟩

theorem State.applyPublish_transfers (s : State) (recs : List (Nat × Nat)) (line : Nat) (now : Bool) :
    SameTransfers s (s.applyPublish recs line now) := by
  unfold State.applyPublish
  extract_lets _ s1 s2 s3
  have h2 : SameTransfers s s2 := ⟨rfl⟩
  have h3 : SameTransfers s s3 := .ite (fun _ => (s2.cancel_transfers ..).step h2) (fun _ => h2)
  exact .ite (fun _ => s3.swapNow_transfers.step h3) (fun _ => h3)

/-! ### A publish -/

/-- The records that an accepted publish applies stand in the pending copy under a swap line, or in the active one (08 R187, R189). -/
def State.published (s t : State) (recs : List (Nat × Nat)) : Prop :=
  (t.health.swap.isSome = true ∧ t.health.pending = applyRecs s.health.pending recs ∧ t.health.active = s.health.active) ∨
    (t.health.swap = none ∧ t.health.active = applyRecs s.health.pending recs ∧ t.health.overwriting = true)

theorem State.applyPublish_published (s : State) (recs : List (Nat × Nat)) (line : Nat) (now : Bool) :
    s.published (s.applyPublish recs line now) recs := by
  cases now with
  | false =>
    left
    rw [s.applyPublish_later]
    exact ⟨rfl, rfl, rfl⟩
  | true => exact .inr (s.applyPublish_now recs line)

theorem State.publish_published {s : State} {recs : List (Nat × Nat)} (reply : Option Deferred) (hpassed : s.swapPassed = false)
    (hover : s.health.overwriting = false) (hswap : s.twin.swap = none) (hch : changingRecs s.health.pending recs ≠ []) :
    s.published (s.publish recs reply) (changingRecs s.health.pending recs) ∧ SameTransfers s (s.publish recs reply) := by
  have hdue : s.swapDue = s := if_neg (by simp [hpassed])
  unfold State.publish
  rw [hdue]
  dsimp only
  rw [if_neg (by simp [hover]), if_neg hch, if_neg (by simp [hswap])]
  generalize hu : (if s.role = .primary then _ else s : State) = u
  have sent : Only [.out] s u := hu ▸ .ite (fun _ => s.sendPublish_only ..) (fun _ => .refl)
  have applied := u.applyPublish_published (changingRecs s.health.pending recs) s.publishLine.1 s.publishLine.2
  have ended : ((u.applyPublish (changingRecs s.health.pending recs) s.publishLine.1 s.publishLine.2).finished reply).health =
      (u.applyPublish (changingRecs s.health.pending recs) s.publishLine.1 s.publishLine.2).health :=
    (State.finished_only ..).agree .health (by decide)
  refine ⟨?_, (State.finished_transfers ..).step ((u.applyPublish_transfers ..).step (sent.sameTransfers (by decide)))⟩
  unfold State.published at applied ⊢
  rw [show u.health = s.health from sent.agree .health (by decide)] at applied
  rwa [ended]

/-! ### A BLOCK_END that passes every check (05 R112) -/

theorem State.sendEnd_ends {s : State} {h : Hdr} {x : Session} {tr : Transfer} {mine : Nat → Bool} (he : s.ends h x tr)
    (hf : ((s.sawPacket h).dropTransfer h.sess h.tag).endFault tr = none) (hmine : mine tr.key = true) :
    s.sendEnd h mine = ((s.sawPacket h).dropTransfer h.sess h.tag).acceptBlock h [] tr := by
  obtain ⟨-, hrec, hrun, hs, hseq, hkept, htr, hread⟩ := he
  have hid : x.id = h.sess := by
    have := List.find?_some hs
    simp at this
    exact this.1
  have hend : (s.sawPacket h).runBlockEnd h [] = ((s.sawPacket h).dropTransfer h.sess h.tag).acceptBlock h [] tr := by
    unfold State.runBlockEnd
    rw [if_neg (by simp), show (s.sawPacket h).transfer h.sess h.tag = some tr from htr]
    dsimp only
    rw [if_neg (by simp [hread]), hf]
  unfold State.sendEnd
  rw [htr]
  dsimp only
  rw [if_pos (by simp [hread, hmine])]
  unfold State.receive
  simp only [hrec, hrun, Bool.false_eq_true, if_false, Bool.true_eq_false]
  unfold State.inSlot State.inSession
  rw [hs]
  simp only [hseq, if_true, hkept, hid, Bool.not_true, Bool.and_false, Bool.false_eq_true, if_false]
  exact hend

theorem State.transfer_dropTransfer (s : State) (sess tag : Nat) : (s.dropTransfer sess tag).transfer sess tag = none := by
  refine List.find?_eq_none.mpr fun t ht => ?_
  obtain ⟨-, hno⟩ := List.mem_filter.mp ht
  simpa [imp_iff_not_or] using hno

theorem healthEdit_published {s : State} {h : Hdr} {x : Session} {tr : Transfer} (he : s.ends h x tr)
    (hf : ((s.sawPacket h).dropTransfer h.sess h.tag).endFault tr = none) (hkey : tr.key = Obj.healthEdit)
    (hover : s.health.overwriting = false) (hswap : s.twin.swap = none) (hpassed : s.swapPassed = false)
    (hch : changingRecs s.health.pending (editRecords tr.data) ≠ []) : Completes (.healthEdit h) s (fun t =>
      t.transfer h.sess h.tag = none ∧ s.published t (changingRecs s.health.pending (editRecords tr.data))) := by
  have hgo : execHealthEdit h s = ok (((s.sawPacket h).dropTransfer h.sess h.tag).acceptBlock h [] tr) :=
    congrArg ok (State.sendEnd_ends he hf (by simp [hkey]))
  generalize hu : (s.sawPacket h).dropTransfer h.sess h.tag = u at hgo
  have dropped : u.transfer h.sess h.tag = none := hu ▸ State.transfer_dropTransfer ..
  let d : Deferred := { h := h, ty := 0x1B, payload := [] }
  let v : State := { u with igrel := { u.igrel with deferred := d :: u.igrel.deferred } }
  have hgo' : execHealthEdit h s = ok (v.publish (editRecords tr.data) (some d)) := hgo.trans (congrArg ok (if_pos hkey))
  have health : v.health = s.health := by subst hu; rfl
  have same : v.swapPassed = s.swapPassed := by subst hu; rfl
  have twin : v.twin = s.twin := by subst hu; rfl
  obtain ⟨published, transfers⟩ := State.publish_published (s := v) (recs := editRecords tr.data) (some d) (same.trans hpassed)
    (by rw [health]; exact hover) (by rw [twin]; exact hswap) (by rw [health]; exact hch)
  refine ⟨_, hgo', (transfers.transfer ..).trans dropped, ?_⟩
  unfold State.published at published ⊢
  rwa [health] at published

theorem healthSwap_swaps {s : State} {line : Nat} (hswap : s.health.swap = some line)
    (hpassed : ∀ g ∈ s.liveGroups, 0 < dist32 (s.reg (Obj.nextArmSeq g)) line) : Completes .healthSwap s (fun t =>
      t.health.active = s.health.pending ∧ t.health.pending = s.health.active ∧ t.health.swap = none ∧ t.health.overwriting = true ∧
      t.reg Obj.healthGen = (s.reg Obj.healthGen + 1) % 2 ^ 32 ∧ s.regsBut t (Obj.healthGen :: yilloggerObjects)) := by
  have passed : s.swapPassed = true := by
    unfold State.swapPassed
    rw [hswap]
    simpa using hpassed
  obtain ⟨active, pending, cleared, overwrites⟩ := s.swapNow_health
  exact ⟨s.swapNow, congrArg ok (if_pos passed), active, pending, cleared, overwrites, s.swapNow_gen, s.swapNow_regs⟩

theorem healthOverwriteDone_ends {s : State} (hover : s.health.overwriting = true) (hheld : s.health.held = []) :
    Completes .healthOverwriteDone s (fun t => t = { s with health := { s.health with pending := s.health.active, overwriting := false } }) := by
  have hgo : execHealthOverwriteDone s = ok (({ s with health := { s.health with held := [] } } : State).endOverwrite) := by
    unfold execHealthOverwriteDone
    rw [if_pos hover, hheld]
    rfl
  refine ⟨_, hgo, ?_⟩
  rw [← hheld]
  rfl

/-- Settles O38: the publish, the swap, and the end of the overwriting. -/
theorem healthMapChangesBySwap : Obligations.HealthMapChangesBySwap := by
  unfold Obligations.HealthMapChangesBySwap
  intro s
  exact ⟨fun h x tr he hf hkey hover hswap hpassed hch => healthEdit_published he hf hkey hover hswap hpassed hch,
    fun line => healthSwap_swaps, healthOverwriteDone_ends⟩

end Sys2Proof.Machine
end

section
/-! SUPPORT. O51 (17 R373 to R385; 01 R32): errors of the LPDDR5, panic, refresh, the change of timing set, and the command slot. -/

namespace Sys2Proof.Machine

/-! ### A write of a line -/

/-- A request put to the controller changes the controller's state alone. -/
theorem State.askMem_with (s : State) (who : MemUser) (write : Bool) (bursts : Nat) :
    s.askMem who write bursts = { s with dram := (s.askMem who write bursts).dram } := by
  unfold State.askMem
  split
  · rfl
  · split <;> rfl

theorem State.askMem_dram {s u : State} (hd : u.dram = s.dram) (hc : u.clock = s.clock) (who : MemUser) (write : Bool) (bursts : Nat) :
    (u.askMem who write bursts).dram = (s.askMem who write bursts).dram := by
  unfold State.askMem
  dsimp only
  rw [hd, hc]
  split
  · exact hd
  · split <;> rfl

theorem State.writeMem_with (s : State) (who : MemUser) (cells : List (Nat × Byte)) :
    s.writeMem who cells = { s with dram := (s.writeMem who cells).dram } := by
  unfold State.writeMem
  dsimp only
  rw [State.askMem_with (s.askMem who false _), s.askMem_with]

/-- The write depends on the controller and on the time alone. -/
theorem State.writeMem_dram {s u : State} (hd : u.dram = s.dram) (hc : u.clock = s.clock) (who : MemUser) (cells : List (Nat × Byte)) :
    (u.writeMem who cells).dram = (s.writeMem who cells).dram := by
  have clock : ∀ t : State, (t.askMem who false (partialLines cells).length).clock = t.clock := fun t =>
    (State.askMem_only ..).agree .clock (by decide)
  have asked := State.askMem_dram (State.askMem_dram hd hc who false (partialLines cells).length) (by rw [clock, clock, hc]) who true
    (linesOf cells).length
  unfold State.writeMem
  dsimp only
  rw [asked, hd]

/-! ### Correctable errors (17 R373) -/

/-- The registers and flags after a correctable error has been counted. -/
def State.ceNoted (s : State) (addr : Nat) : State := ((s.bump Obj.ceCount).setReg Obj.lastErrorAddr addr).setBits Obj.dramStatus 1

theorem State.ceNoted_regs (s : State) (addr : Nat) : (s.ceNoted addr).reg Obj.ceCount = countValue Obj.ceCount (s.reg Obj.ceCount) 1 ∧
    (s.ceNoted addr).reg Obj.lastErrorAddr = addr ∧ ((s.ceNoted addr).reg Obj.dramStatus).testBit 0 = true ∧
    s.regsBut (s.ceNoted addr) [Obj.ceCount, Obj.lastErrorAddr, Obj.dramStatus] := by
  unfold State.ceNoted
  refine ⟨?_, ?_, ?_, fun k hk => ?_⟩
  · rw [State.reg_setBits_other _ _ (by decide), State.reg_setReg_other _ _ (by decide), State.reg_bump_same]
  · rw [State.reg_setBits_other _ _ (by decide), State.reg_setReg_same]
  · rw [State.reg_setBits_same, Nat.testBit_or]
    simp
  · obtain ⟨hcount, haddr, hstatus⟩ : k ≠ Obj.ceCount ∧ k ≠ Obj.lastErrorAddr ∧ k ≠ Obj.dramStatus := by simpa using hk
    rw [State.reg_setBits_other _ _ hstatus, State.reg_setReg_other _ _ haddr, State.reg_bump_other _ hcount]

theorem State.corrected_with (s : State) (addr w : Nat) (ow : Bool) : s.corrected addr w ow = { s with
    regs := (s.ceNoted addr).regs, flagged := (s.ceNoted addr).flagged,
    dram := if ow then s.dram else (s.writeMem .correction (s.lineWith addr w)).dram } := by
  cases ow with
  | true => rfl
  | false =>
    have written := (s.ceNoted addr).writeMem_with .correction (s.lineWith addr w)
    rw [State.writeMem_dram (u := s.ceNoted addr) (s := s) rfl rfl] at written
    exact written

theorem corrected_leaves {s t : State} {addr w : Nat} {ow : Bool} (h : t = s.corrected addr w ow) : t = { s with
      regs := t.regs, flagged := t.flagged, dram := if ow then s.dram else (s.writeMem .correction (s.lineWith addr w)).dram } ∧
    t.reg Obj.ceCount = countValue Obj.ceCount (s.reg Obj.ceCount) 1 ∧ t.reg Obj.lastErrorAddr = addr ∧
    (t.reg Obj.dramStatus).testBit 0 = true ∧ s.regsBut t [Obj.ceCount, Obj.lastErrorAddr, Obj.dramStatus] := by
  rw [h, State.corrected_with]
  exact ⟨rfl, s.ceNoted_regs addr⟩

theorem dramCe_beyond {s : State} {addr w : Nat} {check : Byte} {ow : Bool} (h : s.usable ≤ addr) :
    exec (.dramCe addr w check ow) s = .fault (.noSuchAddress addr) := (if_pos h : execDramCe addr w check ow s = _)

theorem dramUe_beyond {s : State} {addr : Nat} {src : DramSource} {k b w : Nat} {check : Byte} (h : s.usable ≤ addr) :
    exec (.dramUe addr src k b w check) s = .fault (.noSuchAddress addr) := (if_pos h : execDramUe addr src k b w check s = _)

theorem dramCe_right {s : State} {addr w : Nat} {check : Byte} {ow : Bool} (ha : addr < s.usable) (hw : oneWrong w check = false) :
    Completes (.dramCe addr w check ow) s (fun t => t = s) :=
  ⟨s, ((if_neg (by omega)).trans (if_neg (by simp [hw])) : execDramCe addr w check ow s = _), rfl⟩

section
variable {s : State} (hup : s.dramUp = true)
include hup

theorem dramCe_corrects {addr w : Nat} {check : Byte} {ow : Bool} (ha : addr < s.usable) (hw : oneWrong w check = true) :
    Completes (.dramCe addr w check ow) s (fun t => t = { s with
        regs := t.regs, flagged := t.flagged,
        dram := if ow then s.dram else (s.writeMem .correction (s.lineWith addr ((secdedRead w check).getD 0))).dram } ∧
      t.reg Obj.ceCount = countValue Obj.ceCount (s.reg Obj.ceCount) 1 ∧ t.reg Obj.lastErrorAddr = addr ∧
      (t.reg Obj.dramStatus).testBit 0 = true ∧ s.regsBut t [Obj.ceCount, Obj.lastErrorAddr, Obj.dramStatus]) := by
  have hgo : execDramCe addr w check ow s = ok (s.corrected addr ((secdedRead w check).getD 0) ow) :=
    (if_neg (by omega)).trans (if_pos (by simp [hup, hw]))
  exact ⟨_, hgo, corrected_leaves rfl⟩

theorem dramUe_corrects {addr : Nat} {src : DramSource} {k b w x : Nat} {check : Byte} (ha : addr < s.usable)
    (hx : secdedRead w check = some x) : Completes (.dramUe addr src k b w check) s (fun t => t = { s with
        regs := t.regs, flagged := t.flagged, dram := (s.writeMem .correction (s.lineWith addr x)).dram } ∧
      t.reg Obj.ceCount = countValue Obj.ceCount (s.reg Obj.ceCount) 1 ∧ t.reg Obj.lastErrorAddr = addr ∧
      (t.reg Obj.dramStatus).testBit 0 = true) := by
  have hgo : execDramUe addr src k b w check s = ok (s.corrected addr x false) := by
    unfold execDramUe
    rw [if_neg (by omega), if_neg (by simp [hup]), hx]
  obtain ⟨whole, count, last, status, -⟩ := corrected_leaves (s := s) (addr := addr) (w := x) (ow := false) rfl
  exact ⟨_, hgo, whole, count, last, status⟩

end

end Sys2Proof.Machine
end

section
/-! SUPPORT. O51, uncorrectable errors (17 R374, R375). -/

namespace Sys2Proof.Machine

/-! ### What the source of an uncorrectable error does -/

theorem State.scrubBad_regs (s : State) (k seq : Nat) (unread : Bool) :
    s.regsBut (s.scrubBad k seq unread) (Obj.scrubMismatches :: Obj.checkStatus :: yilloggerObjects) := by
  intro i hi
  simp only [List.mem_cons, not_or] at hi
  obtain ⟨hcount, hstatus, hlog⟩ := hi
  exact (State.logEvent_reg _ _ _ hlog).trans ((State.reg_setBits_other _ _ hstatus).trans (State.reg_bump_other (s.markBlock ..) hcount))

/-- The objects that a source's part in an uncorrectable error may write. -/
def poisonObjects : List Nat := Obj.snuffCause :: Obj.scrubMismatches :: Obj.checkStatus :: yilloggerObjects

theorem State.setCause_regsBut (s : State) (b : Nat) : s.regsBut (s.setCause b) [Obj.snuffCause] :=
  fun _ hk => s.setCause_reg b (by simpa using hk)

theorem State.poisoned_regs (s : State) (x : DramSource) (k b : Nat) : s.regsBut (s.poisoned x k b) poisonObjects := by
  cases x with
  | stripRead => exact .refl
  | auxRead => exact .refl
  | scan => exact .refl
  | scrub => exact (s.scrubBad_regs k b true).mono (by simp [poisonObjects])
  | readback => exact (s.endRequest_only 3 2).regsBut (by decide) _
  | serviceCore => exact (s.setCause_regsBut _).mono (by simp [poisonObjects])
  | twinResync => exact (s.setCause_regsBut _).mono (by simp [poisonObjects])

theorem State.setCause_sameLog (s : State) (b : Nat) : (s.setCause b).sameLog s :=
  (s.setCause_only b).sameLog (by decide) (fun _ hk => s.setCause_reg b (by rintro rfl; exact absurd hk (by decide)))

/-- Only a scrubbed block is an event of its own. -/
theorem State.poisoned_sameLog (s : State) {x : DramSource} (hx : x ≠ .scrub) (k b : Nat) : (s.poisoned x k b).sameLog s := by
  cases x with
  | stripRead => exact ⟨rfl, fun _ _ => rfl⟩
  | auxRead => exact ⟨rfl, fun _ _ => rfl⟩
  | scan => exact ⟨rfl, fun _ _ => rfl⟩
  | scrub => exact absurd rfl hx
  | readback => exact (s.endRequest_only 3 2).sameLog (by decide) (fun _ _ => (s.endRequest_only 3 2).reg (by decide) _)
  | serviceCore => exact s.setCause_sameLog _
  | twinResync => exact s.setCause_sameLog _

/-- A cause that has been set stands. -/
theorem State.poisoned_cause (s : State) (x : DramSource) (k b : Nat) {c : Nat} (h : (s.reg Obj.snuffCause).testBit c = true) :
    ((s.poisoned x k b).reg Obj.snuffCause).testBit c = true := by
  have set : ((s.setCause Cause.dram).reg Obj.snuffCause).testBit c = true := by rw [State.setCause_testBit, h, Bool.true_or]
  cases x with
  | stripRead => exact h
  | auxRead => exact h
  | scan => exact h
  | scrub => rwa [show s.poisoned .scrub k b = s.scrubBad k b true from rfl, s.scrubBad_regs k b true _ (by decide)]
  | readback => rwa [show s.poisoned .readback k b = s.endRequest 3 2 from rfl, (s.endRequest_only 3 2).reg (by decide)]
  | serviceCore => exact set
  | twinResync => exact set

/-! ### The error itself -/

/-- An uncorrectable error counted, with the errors of the last second. -/
def State.ueNoted (s : State) (addr : Nat) (recent : List Nat) : State :=
  let s := ((s.bump Obj.ueCount).setReg Obj.lastErrorAddr addr).setBits Obj.dramStatus 2
  { s with dram := { s.dram with ueAt := recent } }

theorem State.ueNoted_only (s : State) (addr : Nat) (recent : List Nat) : Only [.regs, .flagged, .dram] s (s.ueNoted addr recent) :=
  .with_dram (by decide) ((State.setBits_only ..).step (by decide) ((State.setReg_only ..).step (by decide) ((s.bump_only _).mono (by decide))))

theorem State.ueNoted_counts (s : State) (addr : Nat) (recent : List Nat) :
    (s.ueNoted addr recent).reg Obj.ueCount = countValue Obj.ueCount (s.reg Obj.ueCount) 1 ∧
    (s.ueNoted addr recent).reg Obj.lastErrorAddr = addr ∧ ((s.ueNoted addr recent).reg Obj.dramStatus).testBit 1 = true := by
  have same : (s.ueNoted addr recent).reg = (((s.bump Obj.ueCount).setReg Obj.lastErrorAddr addr).setBits Obj.dramStatus 2).reg := rfl
  rw [same]
  refine ⟨?_, ?_, ?_⟩
  · rw [State.reg_setBits_other _ _ (by decide), State.reg_setReg_other _ _ (by decide), State.reg_bump_same]
  · rw [State.reg_setBits_other _ _ (by decide), State.reg_setReg_same]
  · rw [State.reg_setBits_same, Nat.testBit_or, show Nat.testBit 2 1 = true from rfl, Bool.or_true]

theorem State.ueNoted_regs (s : State) (addr : Nat) (recent : List Nat) :
    s.regsBut (s.ueNoted addr recent) [Obj.ueCount, Obj.lastErrorAddr, Obj.dramStatus] := by
  intro k hk
  obtain ⟨hcount, haddr, hstatus⟩ : k ≠ Obj.ueCount ∧ k ≠ Obj.lastErrorAddr ∧ k ≠ Obj.dramStatus := by simpa using hk
  exact (State.reg_setBits_other _ _ hstatus).trans ((State.reg_setReg_other _ _ haddr).trans (State.reg_bump_other _ hcount))

/-- The error has been logged, and more of them in a second than UE_LIMIT set the DRAM cause (R375). -/
def State.ueLogged (s : State) (addr : Nat) (recent : List Nat) (detail : List Byte) : State :=
  let s := (s.ueNoted addr recent).logEvent Ev.dramUe detail
  if s.reg Obj.ueLimit < recent.length then s.setCause Cause.dram else s

theorem State.ueLogged_only (s : State) (addr : Nat) (recent : List Nat) (detail : List Byte) :
    Only [.regs, .igrel, .dram, .ylog, .out, .flagged] s (s.ueLogged addr recent detail) := by
  have logged : Only [.regs, .igrel, .dram, .ylog, .out, .flagged] s ((s.ueNoted addr recent).logEvent Ev.dramUe detail) :=
    (State.logEvent_only ..).step (by decide) ((s.ueNoted_only addr recent).mono (by decide))
  exact .ite (fun _ => (State.setCause_only ..).step (by decide) logged) (fun _ => logged)

theorem State.ueLogged_dram (s : State) (addr : Nat) (recent : List Nat) (detail : List Byte) :
    (s.ueLogged addr recent detail).dram = { s.dram with ueAt := recent } := by
  have after : Only [.regs, .igrel, .ylog, .out, .flagged] (s.ueNoted addr recent) (s.ueLogged addr recent detail) :=
    .ite (fun _ => (State.setCause_only ..).step (by decide) (State.logEvent_only ..)) (fun _ => State.logEvent_only ..)
  exact after.agree .dram (by decide)

theorem State.ueLogged_regs (s : State) (addr : Nat) (recent : List Nat) (detail : List Byte) :
    (s.ueNoted addr recent).regsBut (s.ueLogged addr recent detail) (Obj.snuffCause :: yilloggerObjects) := by
  unfold State.ueLogged
  extract_lets s1
  have logged : (s.ueNoted addr recent).regsBut s1 yilloggerObjects := State.logEvent_regsBut _ _ _
  split
  · exact (s1.setCause_regsBut _).step logged
  · exact logged.mono

theorem State.ueLogged_logs (s : State) (addr : Nat) (recent : List Nat) (detail : List Byte) :
    s.logs (s.ueLogged addr recent detail) Ev.dramUe detail := by
  have noted := s.ueNoted_only addr recent
  have alike : LogsAlike s (s.ueNoted addr recent) := .of_other noted (by decide) (fun k hk =>
    s.ueNoted_regs addr recent k (fun h => by revert k; decide))
  have logged := State.logEvent_logs alike (noted.agree .clock (by decide)) Ev.dramUe detail
  unfold State.ueLogged
  extract_lets s1
  split
  · exact State.logs_sameLog logged (s1.setCause_sameLog _)
  · exact logged

theorem State.ueLogged_configured (s : State) (addr : Nat) (recent : List Nat) (detail : List Byte) :
    (s.ueLogged addr recent detail).configured = s.configured := by
  unfold State.configured
  rw [(s.ueLogged_only addr recent detail).agree .rst (by decide)]

theorem State.ueLogged_cause {s : State} (addr : Nat) {recent : List Nat} (detail : List Byte) (hc : s.configured = true)
    (hmany : s.reg Obj.ueLimit < recent.length) : ((s.ueLogged addr recent detail).reg Obj.snuffCause).testBit Cause.dram = true := by
  unfold State.ueLogged
  extract_lets s1
  have frame : Only [.regs, .igrel, .dram, .ylog, .out, .flagged] s s1 :=
    (State.logEvent_only ..).step (by decide) ((s.ueNoted_only addr recent).mono (by decide))
  have limit : s1.reg Obj.ueLimit = s.reg Obj.ueLimit :=
    (State.logEvent_reg _ _ _ (by decide)).trans (s.ueNoted_regs addr recent _ (by decide))
  have conf : s1.configured = true := by
    unfold State.configured at hc ⊢
    rwa [frame.agree .rst (by decide)]
  rw [if_pos (by rwa [limit]), State.setCause_testBit, conf]
  simp

theorem dramUe_taken {s : State} {addr : Nat} {src : DramSource} {k b w : Nat} {check : Byte} (hup : s.dramUp = true)
    (ha : addr < s.usable) (hx : secdedRead w check = none) :
    let recent := s.clock.cycles :: s.dram.ueAt.filter (fun t => decide (s.clock.cycles - t < cyclesPerSec))
    Completes (.dramUe addr src k b w check) s (fun t => t.mode = s.mode ∧ t.dram = { s.dram with ueAt := recent } ∧
      t.reg Obj.ueCount = countValue Obj.ueCount (s.reg Obj.ueCount) 1 ∧ t.reg Obj.lastErrorAddr = addr ∧
      (t.reg Obj.dramStatus).testBit 1 = true ∧
      (src ≠ .scrub → s.logs t Ev.dramUe (le 8 addr ++ le 1 (sourceCode src) ++ le 2 (sourceStream src k))) ∧
      (src = .stripRead → t.ring k = (s.ring k).map (fun x => if x.seq = b then { x with bad := true, unread := true } else x)) ∧
      (src = .scan → t.check = { s.check with ecc := !s.check.queue.isEmpty }) ∧
      (s.configured = true → s.reg Obj.ueLimit < recent.length ∨ src = .serviceCore ∨ src = .twinResync →
        (t.reg Obj.snuffCause).testBit Cause.dram = true)) := by
  intro recent
  have hgo : execDramUe addr src k b w check s =
      ok ((s.ueLogged addr recent (le 8 addr ++ le 1 (sourceCode src) ++ le 2 (sourceStream src k))).poisoned src k b) := by
    unfold execDramUe
    rw [if_neg (by omega), if_neg (by simp [hup]), hx]
    rfl
  generalize le 8 addr ++ le 1 (sourceCode src) ++ le 2 (sourceStream src k) = detail at hgo ⊢
  have frame := s.ueLogged_only addr recent detail
  have dram := s.ueLogged_dram addr recent detail
  have logs := s.ueLogged_logs addr recent detail
  have conf := s.ueLogged_configured addr recent detail
  have many := State.ueLogged_cause (s := s) addr (recent := recent) detail
  obtain ⟨count, last, status⟩ := s.ueNoted_counts addr recent
  have regs := s.ueLogged_regs addr recent detail
  generalize s.ueLogged addr recent detail = u at *
  have poisoned := u.poisoned_only src k b
  have kept (i : Nat) (hi : i ∉ poisonObjects) : (u.poisoned src k b).reg i = (s.ueNoted addr recent).reg i :=
    (u.poisoned_regs src k b i hi).trans (regs i (fun h => hi (by
      rcases List.mem_cons.mp h with rfl | h
      · exact .head _
      · exact .tail _ (.tail _ (.tail _ h)))))
  refine ⟨_, hgo, ?_, ?_, ?_, ?_, ?_, fun hsrc => ?_, ?_, ?_, fun hc hset => ?_⟩
  · exact (poisoned.agree .mode (by decide)).trans (frame.agree .mode (by decide))
  · exact (poisoned.agree .dram (by decide)).trans dram
  · rw [kept _ (by decide), count]
  · rw [kept _ (by decide), last]
  · rw [kept _ (by decide), status]
  · exact State.logs_sameLog logs (u.poisoned_sameLog hsrc k b)
  · rintro rfl
    have ring : u.ring k = s.ring k := by
      unfold State.ring
      rw [frame.agree .raster (by decide)]
    refine (State.ring_setRing_same u k _).trans ?_
    simp only [ring, Bool.or_true]
  · rintro rfl
    show ({ u.check with ecc := !u.check.queue.isEmpty } : Check) = _
    rw [frame.agree .check (by decide)]
  · rcases hset with hmany | rfl | rfl
    · exact u.poisoned_cause src k b (many hc hmany)
    · exact (u.setCause_testBit Cause.dram Cause.dram).trans (by rw [conf, hc]; simp)
    · exact (u.setCause_testBit Cause.dram Cause.dram).trans (by rw [conf, hc]; simp)

end Sys2Proof.Machine
end

section
/-! SUPPORT. O51, panic, refresh, the change of timing set and the command slot (17 R378 to R385), and O51 itself. -/

namespace Sys2Proof.Machine

/-! ### Panic (17 R380) -/

section
variable {s : State} (hup : s.dramUp = true)
include hup

theorem rtPanicRaise_raises {st : Fin 128} {held : Nat} (hm : s.mode = .lit) (hp : s.dram.panic = false)
    (hshort : s.buffersShort (s.reg Obj.panicMark) st held = true) : Completes (.rtPanicRaise st held) s (fun t =>
      t = { s with regs := t.regs, dram := { s.dram with panic := true }, flagged := t.flagged } ∧
      t.reg Obj.panicCount = countValue Obj.panicCount (s.reg Obj.panicCount) 1 ∧ (t.reg Obj.dramStatus).testBit 2 = true ∧
      s.regsBut t [Obj.panicCount, Obj.dramStatus]) := by
  have hgo : execRtPanicRaise st held s = ok { (s.bump Obj.panicCount).setBits Obj.dramStatus 4 with dram := { s.dram with panic := true } } :=
    if_pos ⟨hm, hup, hp, hshort⟩
  refine ⟨_, hgo, rfl, ?_, ?_, fun k hk => ?_⟩
  · exact (State.reg_setBits_other (s.bump Obj.panicCount) _ (by decide)).trans (State.reg_bump_same ..)
  · have bits := State.reg_setBits_same (s.bump Obj.panicCount) Obj.dramStatus 4
    exact (congrArg (Nat.testBit · 2) bits).trans (by rw [Nat.testBit_or, show Nat.testBit 4 2 = true from rfl, Bool.or_true])
  · obtain ⟨hcount, hstatus⟩ : k ≠ Obj.panicCount ∧ k ≠ Obj.dramStatus := by simpa using hk
    exact (State.reg_setBits_other _ _ hstatus).trans (State.reg_bump_other _ hcount)

/-! ### Refresh and its rate (17 R382) -/

theorem dramRefresh_issues (c : Fin 4) (bank : Nat) : Completes (.dramRefresh c bank) s (fun t =>
    t = { s with dram := { s.dram with refreshes := s.dram.refreshes + 1 }, out := .dramRefresh c bank :: s.out }) :=
  ⟨_, (if_pos hup : execDramRefresh c bank s = _), rfl⟩

end

/-- The rate and its flag as a poll gives them. -/
def State.mr4Noted (s : State) (code : Nat) (faster : Bool) : State :=
  let s := { s.setReg Obj.mr4Rate (code % 256) with dram := { s.dram with fast := faster } }
  if faster then s.setBits Obj.dramStatus 8 else s

theorem State.mr4Noted_only (s : State) (code : Nat) (faster : Bool) : Only [.regs, .dram, .flagged] s (s.mr4Noted code faster) := by
  have rate : Only [.regs, .dram, .flagged] s { s.setReg Obj.mr4Rate (code % 256) with dram := { s.dram with fast := faster } } :=
    .with_dram (by decide) ((s.setReg_only ..).mono (by decide))
  exact .ite (fun _ => (State.setBits_only ..).step (by decide) rate) (fun _ => rate)

theorem State.mr4Noted_dram (s : State) (code : Nat) (faster : Bool) : (s.mr4Noted code faster).dram = { s.dram with fast := faster } := by
  cases faster <;> rfl

theorem State.mr4Noted_rate (s : State) (code : Nat) (faster : Bool) : (s.mr4Noted code faster).reg Obj.mr4Rate = code % 256 := by
  have rate : (s.setReg Obj.mr4Rate (code % 256)).reg Obj.mr4Rate = code % 256 := State.reg_setReg_same ..
  cases faster with
  | false => exact rate
  | true => exact (State.reg_setBits_other _ _ (by decide)).trans rate

theorem State.mr4Noted_status (s : State) (code : Nat) : ((s.mr4Noted code true).reg Obj.dramStatus).testBit 3 = true := by
  have bits := State.reg_setBits_same { s.setReg Obj.mr4Rate (code % 256) with dram := { s.dram with fast := true } } Obj.dramStatus 8
  exact (congrArg (Nat.testBit · 3) bits).trans (by rw [Nat.testBit_or, show Nat.testBit 8 3 = true from rfl, Bool.or_true])

theorem State.mr4Noted_regs (s : State) (code : Nat) (faster : Bool) : s.regsBut (s.mr4Noted code faster) [Obj.mr4Rate, Obj.dramStatus] := by
  intro k hk
  obtain ⟨hrate, hstatus⟩ : k ≠ Obj.mr4Rate ∧ k ≠ Obj.dramStatus := by simpa using hk
  have rate : (s.setReg Obj.mr4Rate (code % 256)).reg k = s.reg k := s.reg_setReg_other _ hrate
  cases faster with
  | false => exact rate
  | true => exact (State.reg_setBits_other _ _ hstatus).trans rate

theorem mr4Poll_notes {s : State} (hup : s.dramUp = true) (code : Nat) (faster : Bool) : Completes (.mr4Poll code faster) s (fun t =>
    t.mode = s.mode ∧ t.dram = { s.dram with fast := faster } ∧ t.reg Obj.mr4Rate = code % 256 ∧
    (faster = true → (t.reg Obj.dramStatus).testBit 3 = true) ∧
    (faster = true → s.dram.fast = false ∨ s.reg Obj.mr4Rate ≠ code % 256 → s.logs t Ev.dramHot []) ∧
    (faster = false ∨ s.dram.fast = true ∧ s.reg Obj.mr4Rate = code % 256 → t.ylog = s.ylog)) := by
  have hgo : execMr4Poll code faster s =
      ok (if (faster && (!s.dram.fast || decide (s.reg Obj.mr4Rate ≠ code % 256))) = true then (s.mr4Noted code faster).logEvent Ev.dramHot []
        else s.mr4Noted code faster) := if_pos hup
  have noted := s.mr4Noted_only code faster
  have dram := s.mr4Noted_dram code faster
  have rate := s.mr4Noted_rate code faster
  have status : faster = true → ((s.mr4Noted code faster).reg Obj.dramStatus).testBit 3 = true := by
    rintro rfl
    exact s.mr4Noted_status code
  have alike : LogsAlike s (s.mr4Noted code faster) := .of_other noted (by decide) (fun k hk =>
    s.mr4Noted_regs code faster k (fun h => by revert k; decide))
  generalize s.mr4Noted code faster = u at *
  have logged := u.logEvent_only Ev.dramHot []
  split at hgo
  next hraise =>
    obtain ⟨rfl, hchange⟩ : faster = true ∧ (s.dram.fast = false ∨ s.reg Obj.mr4Rate ≠ code % 256) := by simpa using hraise
    refine ⟨_, hgo, ?_, ?_, ?_, fun h => ?_, fun _ _ => State.logEvent_logs alike (noted.agree .clock (by decide)) .., fun h => ?_⟩
    · exact (logged.agree .mode (by decide)).trans (noted.agree .mode (by decide))
    · exact (logged.agree .dram (by decide)).trans dram
    · rw [State.logEvent_reg _ _ _ (by decide), rate]
    · rw [State.logEvent_reg _ _ _ (by decide), status h]
    · simp at h
      simp [h] at hchange
  next hquiet =>
    refine ⟨_, hgo, noted.agree .mode (by decide), dram, rate, status, fun hfast hchange => ?_, fun _ => noted.agree .ylog (by decide)⟩
    exact absurd (by simpa [hfast] using hchange) hquiet

theorem rtPanicClear_clears {s : State} {held : List Nat} (hp : s.dram.panic = true)
    (h : ¬ ∃ k, k < 128 ∧ s.buffersShort (s.reg Obj.panicMark + 2048) k (held.getD k 0) = true) : Completes (.rtPanicClear held) s (fun t =>
      t = { s with dram := { s.dram with panic := false, clearAt := some s.clock.cycles } }) :=
  ⟨_, (if_pos (by simpa [hp] using h) : execRtPanicClear held s = _), rfl⟩

theorem rtPanicClear_stays {s : State} {held : List Nat}
    (h : ∃ k, k < 128 ∧ s.buffersShort (s.reg Obj.panicMark + 2048) k (held.getD k 0) = true) :
    Completes (.rtPanicClear held) s (fun t => t = s) :=
  ⟨s, (if_neg (by simpa using fun _ => h) : execRtPanicClear held s = _), rfl⟩

/-! ### The change of timing set (17 R384, R385) -/

theorem dramFreqChange_begins {s : State} {x : Nat} (hup : s.dramUp = true) (hch : s.dram.change = some (x, false))
    (hleave : s.hasLeave (setRequester x) = true) (hp : s.panics = false) (hclear : ∀ at_, s.dram.clearAt = some at_ → at_ + 2000 ≤ s.clock.cycles) :
    Completes .dramFreqChange s (fun t => t = { s with
      dram := { s.dram with change := some (x, true) }, wick := { s.wick with leave := s.wick.leave.erase (setRequester x) } }) := by
  have calm : s.panicNear = false := by
    unfold State.panicNear
    rw [hp]
    cases hat : s.dram.clearAt with
    | none => rfl
    | some at_ =>
      have late := hclear at_ hat
      exact decide_eq_false (by simp only [cyclesPerUs]; omega)
  refine ⟨_, ?_, rfl⟩
  show execDramFreqChange s = _
  unfold execDramFreqChange
  rw [hch]
  exact if_pos (by simp [hleave, calm, hup])

/-- The registers at the end of a change. -/
def State.freqNoted (s : State) (x : Nat) : State := (s.setReg Obj.freqNow (s.rateOf x)).bump Obj.freqChanges

theorem State.freqNoted_reg (s : State) (x : Nat) : (s.freqNoted x).reg Obj.freqNow = s.rateOf x ∧
    (s.freqNoted x).reg Obj.freqChanges = countValue Obj.freqChanges (s.reg Obj.freqChanges) 1 ∧
    s.regsBut (s.freqNoted x) [Obj.freqNow, Obj.freqChanges] := by
  unfold State.freqNoted
  refine ⟨?_, ?_, fun k hk => ?_⟩
  · rw [State.reg_bump_other _ (by decide), State.reg_setReg_same]
  · rw [State.reg_bump_same, State.reg_setReg_other _ _ (by decide)]
  · obtain ⟨hnow, hcount⟩ : k ≠ Obj.freqNow ∧ k ≠ Obj.freqChanges := by simpa using hk
    rw [State.reg_bump_other _ hcount, State.reg_setReg_other _ _ hnow]

/-- The state at the end of a change to set `x`. -/
def State.setInUse (s : State) (x : Nat) : State :=
  { s.freqNoted x with dram := { s.dram with change := none, want := none, setNow := x } }

theorem State.setChanged_calm {s : State} (hlit : s.dram.litDue = false) (hwant : s.dram.want = none) (x : Nat) :
    s.setChanged x = s.setInUse x := by
  unfold State.setChanged
  dsimp only
  have calm : ¬ ((s.setReg Obj.freqNow (s.rateOf x)).bump Obj.freqChanges).dram.litDue = true := ne_true_of_eq_false hlit
  rw [if_neg calm, show ((s.setReg Obj.freqNow (s.rateOf x)).bump Obj.freqChanges).dram.want = none from hwant]
  rfl

theorem State.setChanged_due {s : State} (hlit : s.dram.litDue = true) : s.setChanged 0 = s.setInUse 0 := by
  unfold State.setChanged
  dsimp only
  rw [if_pos (show ((s.setReg Obj.freqNow (s.rateOf 0)).bump Obj.freqChanges).dram.litDue = true from hlit)]
  exact (s.setInUse 0).selectSet_same rfl rfl

theorem dramFreqChangeDone_uses {s : State} {x : Nat} (hch : s.dram.change = some (x, true)) (hlit : s.dram.litDue = false)
    (hwant : s.dram.want = none) : Completes .dramFreqChangeDone s (fun t =>
      t = { s with regs := t.regs, dram := { s.dram with change := none, setNow := x } } ∧ t.reg Obj.freqNow = s.rateOf x ∧
      t.reg Obj.freqChanges = countValue Obj.freqChanges (s.reg Obj.freqChanges) 1 ∧ s.regsBut t [Obj.freqNow, Obj.freqChanges]) := by
  have hgo : execDramFreqChangeDone s = ok (s.setInUse x) := by
    unfold execDramFreqChangeDone
    rw [hch]
    dsimp only
    rw [State.setChanged_calm hlit hwant]
    exact congrArg ok (if_neg (by simp [State.setInUse, hlit]))
  refine ⟨_, hgo, ?_, s.freqNoted_reg x⟩
  unfold State.setInUse
  rw [← hwant]
  rfl

theorem State.enterLit_dram (s : State) : s.enterLit.dram = { s.dram with litDue := false, panic := false } := by
  unfold State.enterLit
  extract_lets s1 _ _ _ s2 s3
  have start : Only [.regs, .taper, .twin] s s1 := (State.startGroups_only ..).step (by decide)
    ((State.setOrigin_only _).step (by decide) ((State.freshTwin_only s).mono (by decide)))
  have same := start.agree .dram (by decide)
  clear_value s1
  have readied : s2.dram = { s1.dram with litDue := false, panic := false } := rfl
  clear_value s2
  have entered : Only [.regs, .mode, .igrel, .ylog, .out, .flagged, .pins, .heads] s2 s3 := (State.tellState_only _).step (by decide)
    ((State.drivenAlive_only _).step (by decide) ((s2.toMode_only .lit).mono (by decide)))
  have fired : Only [.regs, .mode, .igrel, .ylog, .out, .flagged, .pins, .heads] s2 s3.fireReset.driveFireEn :=
    (State.driveFireEn_only _).step (by decide) ((State.fireReset_only _).step (by decide) entered)
  exact (fired.agree .dram (by decide)).trans (readied.trans (by rw [same]))

theorem dramFreqChangeDone_enters {s : State} (hch : s.dram.change = some (0, true)) (hlit : s.dram.litDue = true) (hm : s.mode = .pilot)
    (hup : s.blockUp Block.taper = true) : Completes .dramFreqChangeDone s (fun t =>
      t.mode = .lit ∧ t.pins.fireEn = .high ∧ t.dram.setNow = 0 ∧ t.dram.litDue = false) := by
  have hgo : execDramFreqChangeDone s = ok (s.setInUse 0).enterLit := by
    unfold execDramFreqChangeDone
    rw [hch]
    dsimp only
    rw [State.setChanged_due hlit]
    exact congrArg ok ((if_pos ⟨hlit, rfl, rfl⟩).trans (if_pos hm))
  have noted : SameReset s (s.freqNoted 0) := (State.bump_sameReset _ (by decide)).step (s.setReg_sameReset _ (by decide))
  have up : (s.setInUse 0).blockUp Block.taper = true := (noted.blockUp _).trans hup
  have inUse : (s.setInUse 0).dram.setNow = 0 := rfl
  generalize s.setInUse 0 = u at *
  obtain ⟨lit, fire, -⟩ := u.enterLit_lit
  refine ⟨_, hgo, lit, ?_, ?_, ?_⟩
  · rw [fire, if_pos up]
  · rw [State.enterLit_dram, inUse]
  · rw [State.enterLit_dram]

/-! ### The command slot (17 R378, R379; 01 R32) -/

theorem State.promoteAged_with (s : State) : s.promoteAged = { s with dram := s.promoteAged.dram } ∧ s.promoteAged.panics = s.panics := by
  unfold State.promoteAged
  split <;> exact ⟨rfl, rfl⟩

theorem memSlot_issues {s : State} {r : MemReq} (hup : s.dramUp = true) (hself : s.selfRefresh = false)
    (hnext : s.promoteAged.dram.next s.panics = some r) : s.memSlot.out = .dramBurst r.who r.write :: s.out := by
  obtain ⟨whole, panics⟩ := s.promoteAged_with
  have out : s.promoteAged.out = s.out := by rw [whole]
  unfold State.memSlot
  rw [if_neg (by simp [hself, show s.blockUp Block.dram = true from hup])]
  dsimp only
  rw [panics, hnext]
  exact congrArg (Out.dramBurst r.who r.write :: ·) out

theorem Dram.next_panics {d : Dram} {r : MemReq} (h : d.next true = some r) : r.who.class = .rt ∧ r ∈ d.urgent := by
  have found : d.urgent.find? (fun r => r.who.class = .rt) = some r := h
  exact ⟨by simpa using List.find?_some found, List.mem_of_find?_eq_some found⟩

/-- Without panic: the first of the promoted and RT requests, and else one of the highest class that waits. -/
theorem Dram.next_calm {d : Dram} {r : MemReq} (h : d.next false = some r) : d.urgent.head? = some r ∨ d.urgent = [] ∧ r ∈ d.waiting ∧
    ∀ x ∈ d.waiting, (x.who.class = .inspect → r.who.class = .inspect) ∧
      (x.who.class = .host → r.who.class = .inspect ∨ r.who.class = .host) := by
  unfold Dram.next at h
  rw [if_neg (by simp)] at h
  split at h
  next y l hu =>
    left
    rw [hu]
    exact h
  next hu =>
    refine .inr ⟨hu, ?_⟩
    have none_of {c : MemClass} (hn : d.waiting.find? (fun r => r.who.class = c) = none) (x : MemReq) (hx : x ∈ d.waiting) : x.who.class ≠ c := by
      simpa using List.find?_eq_none.mp hn x hx
    rcases Option.or_eq_some_iff.mp h with hi | ⟨hi, h⟩
    · have class_ : r.who.class = .inspect := by simpa using List.find?_some hi
      exact ⟨List.mem_of_find?_eq_some hi, fun x _ => ⟨fun _ => class_, fun _ => .inl class_⟩⟩
    rcases Option.or_eq_some_iff.mp h with hh | ⟨hh, h⟩
    · have class_ : r.who.class = .host := by simpa using List.find?_some hh
      exact ⟨List.mem_of_find?_eq_some hh, fun x hx => ⟨fun hc => absurd hc (none_of hi x hx), fun _ => .inr class_⟩⟩
    · exact ⟨List.mem_of_find?_eq_some h, fun x hx => ⟨fun hc => absurd hc (none_of hi x hx), fun hc => absurd hc (none_of hh x hx)⟩⟩

theorem State.promoteAged_promotes {s : State} {r : MemReq} (hr : r ∈ s.dram.waiting) (hold : s.ageLimit r.who.class < s.clock.cycles - r.at_)
    (hp : s.panics = false) : r ∈ s.promoteAged.dram.urgent ∧ r ∉ s.promoteAged.dram.waiting := by
  have late : s.overdue r = true := decide_eq_true hold
  unfold State.promoteAged
  rw [if_neg (by simp [hp])]
  exact ⟨List.mem_append_right _ (List.mem_filter.mpr ⟨hr, late⟩), by simp [late]⟩

theorem State.promoteAged_panics {s : State} (hp : s.panics = true) : s.promoteAged = s := if_pos hp

/-- Settles O51, clause by clause. -/
theorem dramErrorsPanicAndRefresh : Obligations.DramErrorsPanicAndRefresh := by
  unfold Obligations.DramErrorsPanicAndRefresh
  intro s hup
  exact ⟨fun addr w check ow ha => ⟨dramCe_corrects hup ha, dramCe_right ha⟩, fun addr w check ow => dramCe_beyond,
    fun addr src k b w check => dramUe_beyond, fun addr src k b w x check => dramUe_corrects hup,
    fun addr src k b w check => dramUe_taken hup, fun st held => rtPanicRaise_raises hup,
    fun held hp => ⟨rtPanicClear_clears hp, rtPanicClear_stays⟩, mr4Poll_notes hup, dramRefresh_issues hup,
    fun x => dramFreqChange_begins hup, fun x => dramFreqChangeDone_uses, dramFreqChangeDone_enters, fun r => memSlot_issues hup,
    fun r panics h => ⟨fun hp => Dram.next_panics (hp ▸ h), fun hp => Dram.next_calm (hp ▸ h)⟩,
    fun r hr hold => ⟨State.promoteAged_promotes hr hold, State.promoteAged_panics⟩⟩

end Sys2Proof.Machine
end

section
/-! SUPPORT. O7 and O8 (02 R40, R41, R48): what every command, and so every step, does to the mode. -/

namespace Sys2Proof.Machine

/-- Every command leads from a safe state to a safe state, by a mode change that 02 R40 and R41 give, or none. -/
theorem exec_turns (s : State) : ∀ c : Instr, TurnsNext s (exec c s)
  | .powerOnReset => (execPowerOnReset_settles ..).turns
  | .pinReset => (execPinReset_settles ..).turns
  | .watchdogExpiry => (execWatchdogExpiry_settles ..).turns
  | .snuffEscReset .. => (execSnuffEscReset_settles ..).turns
  | .supplyBrownout .. => (execSupplyBrownout_settles ..).turns
  | .refClkLoss => (execRefClkLoss_settles ..).turns
  | .igrelReset => (execIgrelReset_settles ..).turns
  | .resetRelease .. => (execResetRelease_settles ..).turns
  | .pllLock => (execPllLock_settles ..).turns
  | .serviceCoreRelease => (execServiceCoreRelease_settles ..).turns
  | .bootRomVerify .. => (execBootRomVerify_settles ..).turns
  | .bootRetry => (execBootRetry_settles ..).turns
  | .configLoad => execConfigLoad_turns ..
  | .blockResetWrite .. => execBlockResetWrite_turns ..
  | .blockRelease .. => (execBlockRelease_settles ..).turns
  | .releasePended .. => (execReleasePended_settles ..).turns
  | .firmwareTick => execFirmwareTick_turns ..
  | .fsiSample .. => (execFsiSample_settles ..).turns
  | .dieTempSample .. => (execDieTempSample_settles ..).turns
  | .cdcStall .. => (execCdcStall_settles ..).turns
  | .modeRequestKindle .. => execModeRequestKindle_turns ..
  | .modeRequestPilot .. => execModeRequestPilot_turns ..
  | .modeRequestTrim .. => execModeRequestTrim_turns ..
  | .modeRequestLit .. => execModeRequestLit_turns ..
  | .modeRequestSnuff .. => execModeRequestSnuff_turns ..
  | .litStopComplete => execLitStopComplete_turns ..
  | .stopSuppressTimeout .. => (execStopSuppressTimeout_settles ..).turns
  | .snuffEntry => (execSnuffEntry_settles ..).turns
  | .safeStopAssert => (execSafeStopAssert_settles ..).turns
  | .safeStopRelease => (execSafeStopRelease_settles ..).turns
  | .snuffCauseClear .. => execSnuffCauseClear_turns ..
  | .headPwrDrop => (execHeadPwrDrop_settles ..).turns
  | .headSettleExpiry => (execHeadSettleExpiry_settles ..).turns
  | .resetCauseClear .. => execResetCauseClear_turns ..
  | .resetRequest .. => execResetRequest_turns ..
  | .fusePadProgram .. => execFusePadProgram_turns ..
  | .fuseProgramComplete .. => (execFuseProgramComplete_settles ..).turns
  | .fusePadCodeRead .. => execFusePadCodeRead_turns ..
  | .fuseLock .. => execFuseLock_turns ..
  | .jtagExtest => (execJtagExtest_settles ..).turns
  | .jtagClamp => (execJtagClamp_settles ..).turns
  | .jtagIdcode => (execJtagIdcode_settles ..).turns
  | .jtagSamplePreload .. => (execJtagSamplePreload_settles ..).turns
  | .jtagHighz => (execJtagHighz_settles ..).turns
  | .jtagBypass .. => (execJtagBypass_settles ..).turns
  | .igrelDrop .. => execIgrelDrop_turns ..
  | .hello .. => (execHello_settles ..).turns
  | .proof .. => (execProof_settles ..).turns
  | .reservationLapse .. => (execReservationLapse_settles ..).turns
  | .authLockoutExpiry .. => (execAuthLockoutExpiry_settles ..).turns
  | .close .. => execClose_turns ..
  | .sessionIdleTimeout .. => (execSessionIdleTimeout_settles ..).turns
  | .read .. => execRead_turns ..
  | .write .. => execWrite_turns ..
  | .describe .. => execDescribe_turns ..
  | .blockStart .. => execBlockStart_turns ..
  | .blockSegment .. => execBlockSegment_turns ..
  | .blockAck .. => execBlockAck_turns ..
  | .blockEnd .. => execBlockEnd_turns ..
  | .blockTimeout .. => (execBlockTimeout_settles ..).turns
  | .subscribe .. => execSubscribe_turns ..
  | .telemetrySend .. => (execTelemetrySend_settles ..).turns
  | .configSave .. => execConfigSave_turns ..
  | .fwSlotWrite .. => execFwSlotWrite_turns ..
  | .fsiMinClear .. => execFsiMinClear_turns ..
  | .w1cClear .. => execW1cClear_turns ..
  | .rasterLinkUp .. => (execRasterLinkUp_settles ..).turns
  | .rasterLaneLoss .. => (execRasterLaneLoss_settles ..).turns
  | .rasterPacketDrop .. => (execRasterPacketDrop_settles ..).turns
  | .block .. => (execBlock_settles ..).turns
  | .commit .. => (execCommit_settles ..).turns
  | .creditPeriodExpiry => (execCreditPeriodExpiry_settles ..).turns
  | .storeFlush .. => execStoreFlush_turns ..
  | .ringMapWrite .. => execRingMapWrite_turns ..
  | .taperLineRequest .. => (execTaperLineRequest_settles ..).turns
  | .decodeLine .. => (execDecodeLine_settles ..).turns
  | .contextRewind .. => (execContextRewind_settles ..).turns
  | .contextImageWrite .. => execContextImageWrite_turns ..
  | .stripCorrect .. => (execStripCorrect_settles ..).turns
  | .wickLineDecision => (execWickLineDecision_settles ..).turns
  | .lineFrameSend .. => (execLineFrameSend_settles ..).turns
  | .healthEdit .. => execHealthEdit_turns ..
  | .healthSwap => (execHealthSwap_settles ..).turns
  | .healthOverwriteDone => (execHealthOverwriteDone_settles ..).turns
  | .placementTrimWrite .. => execPlacementTrimWrite_turns ..
  | .encoderEdge .. => (execEncoderEdge_settles ..).turns
  | .indexEdge .. => (execIndexEdge_settles ..).turns
  | .standstillTimeout .. => (execStandstillTimeout_settles ..).turns
  | .encoderBlockExpiry => (execEncoderBlockExpiry_settles ..).turns
  | .encoderEnable .. => execEncoderEnable_turns ..
  | .armingStart => (execArmingStart_settles ..).turns
  | .lineArm .. => (execLineArm_settles ..).turns
  | .strobeEdge .. => (execStrobeEdge_settles ..).turns
  | .strobeEnd .. => (execStrobeEnd_settles ..).turns
  | .strobeCut .. => (execStrobeCut_settles ..).turns
  | .snufferEscalate .. => (execSnufferEscalate_settles ..).turns
  | .maintStart .. => execMaintStart_turns ..
  | .maintLine => (execMaintLine_settles ..).turns
  | .headTrainReply .. => (execHeadTrainReply_settles ..).turns
  | .headLaneTimeout .. => (execHeadLaneTimeout_settles ..).turns
  | .status .. => (execStatus_settles ..).turns
  | .statusTimeout .. => (execStatusTimeout_settles ..).turns
  | .headLaneLoss .. => (execHeadLaneLoss_settles ..).turns
  | .ctrlResendTimeout .. => (execCtrlResendTimeout_settles ..).turns
  | .headLaneRetrain .. => (execHeadLaneRetrain_settles ..).turns
  | .recoverTimeExpiry .. => (execRecoverTimeExpiry_settles ..).turns
  | .timeFrameSend => (execTimeFrameSend_settles ..).turns
  | .twinLaneLoss .. => (execTwinLaneLoss_settles ..).turns
  | .heartbeatSend => (execHeartbeatSend_settles ..).turns
  | .heartbeat .. => (execHeartbeat_settles ..).turns
  | .heartbeatTimeout => (execHeartbeatTimeout_settles ..).turns
  | .roleDecisionTimeout => (execRoleDecisionTimeout_settles ..).turns
  | .decision .. => (execDecision_settles ..).turns
  | .lineStateSend => (execLineStateSend_settles ..).turns
  | .lineState .. => (execLineState_settles ..).turns
  | .lineStateTimeout .. => (execLineStateTimeout_settles ..).turns
  | .twinAliveLow => (execTwinAliveLow_settles ..).turns
  | .publish gen line recs => (execPublish_settles gen line recs s).turns
  | .findingMessage .. => (execFindingMessage_settles ..).turns
  | .modeMessage .. => execModeMessage_turns ..
  | .snuffAll .. => (execSnuffAll_settles ..).turns
  | .swapRequest .. => execSwapRequest_turns ..
  | .swapMessage .. => (execSwapMessage_settles ..).turns
  | .roleSwapComplete => (execRoleSwapComplete_settles ..).turns
  | .promoted .. => (execPromoted_settles ..).turns
  | .twinResetRequest => (execTwinResetRequest_settles ..).turns
  | .joinReq .. => (execJoinReq_settles ..).turns
  | .joinPlan .. => (execJoinPlan_settles ..).turns
  | .joinSnapshot => (execJoinSnapshot_settles ..).turns
  | .joinImage .. => (execJoinImage_settles ..).turns
  | .joinReady => (execJoinReady_settles ..).turns
  | .joinCounters .. => (execJoinCounters_settles ..).turns
  | .joinRetry => (execJoinRetry_settles ..).turns
  | .joinEnterLit => execJoinEnterLit_turns ..
  | .cameraFrameStart .. => (execCameraFrameStart_settles ..).turns
  | .cameraTrigger .. => (execCameraTrigger_settles ..).turns
  | .cameraLine .. => (execCameraLine_settles ..).turns
  | .cameraFrameEnd .. => (execCameraFrameEnd_settles ..).turns
  | .cameraFrameTimeout .. => (execCameraFrameTimeout_settles ..).turns
  | .cameraCommit .. => execCameraCommit_turns ..
  | .uartTx .. => execUartTx_turns ..
  | .uartTransfer .. => (execUartTransfer_settles ..).turns
  | .uartRxDone .. => (execUartRxDone_settles ..).turns
  | .tapSelect .. => execTapSelect_turns ..
  | .ledShortTest .. => (execLedShortTest_settles ..).turns
  | .flushTimeExpiry .. => (execFlushTimeExpiry_settles ..).turns
  | .chunkCompress .. => (execChunkCompress_settles ..).turns
  | .uploadPacketSend => (execUploadPacketSend_settles ..).turns
  | .uploadCreditGrant .. => (execUploadCreditGrant_settles ..).turns
  | .uploadResend .. => (execUploadResend_settles ..).turns
  | .uploadAck .. => (execUploadAck_settles ..).turns
  | .uploadEntryDropped ch v => (execUploadEntryDropped_settles ch v s).turns
  | .ackTimeoutExpiry .. => (execAckTimeoutExpiry_settles ..).turns
  | .uploadRequest .. => execUploadRequest_turns ..
  | .scanRequest .. => execScanRequest_turns ..
  | .scanComplete => (execScanComplete_settles ..).turns
  | .runningWrite .. => execRunningWrite_turns ..
  | .scrubBlock .. => (execScrubBlock_settles ..).turns
  | .dramCe .. => (execDramCe_settles ..).turns
  | .dramUe .. => (execDramUe_settles ..).turns
  | .rtPanicRaise .. => (execRtPanicRaise_settles ..).turns
  | .rtPanicClear .. => (execRtPanicClear_settles ..).turns
  | .mr4Poll .. => (execMr4Poll_settles ..).turns
  | .dramRefresh .. => (execDramRefresh_settles ..).turns
  | .freqSelect .. => execFreqSelect_turns ..
  | .dramFreqChange => (execDramFreqChange_settles ..).turns
  | .dramFreqChangeDone => execDramFreqChangeDone_turns ..
  | .wickRequest .. => (execWickRequest_settles ..).turns
  | .wickDeferredGrant => (execWickDeferredGrant_settles ..).turns
  | .wickDeferTimeout .. => (execWickDeferTimeout_settles ..).turns
  | .headroomPublish => (execHeadroomPublish_settles ..).turns
  | .loopSample .. => (execLoopSample_settles ..).turns
  | .spiSenseDone .. => (execSpiSenseDone_settles ..).turns
  | .spiActuatorWrite .. => (execSpiActuatorWrite_settles ..).turns
  | .loopFollowTimeout .. => (execLoopFollowTimeout_settles ..).turns
  | .bankSwap .. => execBankSwap_turns ..
  | .loopSetpoint .. => execLoopSetpoint_turns ..
  | .loopEnable .. => execLoopEnable_turns ..
  | .target .. => execTarget_turns ..
  | .moveStart .. => (execMoveStart_settles ..).turns
  | .motionTick => (execMotionTick_settles ..).turns
  | .home .. => execHome_turns ..
  | .axisStop .. => execAxisStop_turns ..
  | .stopAll .. => execStopAll_turns ..
  | .chopperTrip .. => (execChopperTrip_settles ..).turns
  | .chopperToffExpiry .. => (execChopperToffExpiry_settles ..).turns
  | .chopperBlankExpiry .. => (execChopperBlankExpiry_settles ..).turns
  | .phaseOpenTimeout .. => (execPhaseOpenTimeout_settles ..).turns
  | .timeSet .. => execTimeSet_turns ..
  | .timeStep .. => execTimeStep_turns ..
  | .rateTrim .. => execRateTrim_turns ..
  | .ptpSyncSend => (execPtpSyncSend_settles ..).turns
  | .ptpFollowUp => (execPtpFollowUp_settles ..).turns
  | .ptpAnnounceSend => (execPtpAnnounceSend_settles ..).turns
  | .ptpDelayReq .. => (execPtpDelayReq_settles ..).turns
  | .ptpForeignAnnounce .. => (execPtpForeignAnnounce_settles ..).turns
  | .ptpTimestampVector .. => (execPtpTimestampVector_settles ..).turns
  | .calTemperature .. => (execCalTemperature_settles ..).turns
  | .calFsi .. => (execCalFsi_settles ..).turns
  | .calTermination .. => (execCalTermination_settles ..).turns
  | .calEqualiser .. => (execCalEqualiser_settles ..).turns
  | .calChopper .. => (execCalChopper_settles ..).turns
  | .dramTraining .. => (execDramTraining_settles ..).turns
  | .eccFill => (execEccFill_settles ..).turns
  | .kindleEnd => execKindleEnd_turns ..
  | .freezeNow .. => execFreezeNow_turns ..
  | .unfreeze .. => execUnfreeze_turns ..
  | .twinLinkUp .. => (execTwinLinkUp_settles ..).turns
  | .twinFrameDrop .. => (execTwinFrameDrop_settles ..).turns
  | .twinAliveHigh => (execTwinAliveHigh_settles ..).turns
  | .supplyMonitorTrip => (execSupplyMonitorTrip_settles ..).turns
  | .jtagTapReset => (execJtagTapReset_settles ..).turns
  | .arpRequest .. => (execArpRequest_settles ..).turns
  | .icmpEchoRequest .. => (execIcmpEchoRequest_settles ..).turns

theorem step_turns (s : State) : TurnsNext s (step s) := by
  unfold step
  split
  · exact .next ((State.cycle_only s).settles (by decide)).turns
  · next c rest _ =>
    have taken : Settles s { s with pending := rest } := (Only.with_pending (d := [.pending]) (by decide) .refl).settles (by decide)
    exact ⟨fun t ht => .after taken rfl ((exec_turns _ c).turns t ht)⟩

/-- Settles O7: each command turns the mode only along the table. -/
theorem modeChangesOnlyAsTheTableGives : Obligations.ModeChangesOnlyAsTheTableGives :=
  fun s t hs ht => ((step_turns s).turns t ht).safe hs

theorem State.fires_of_modeSafe {t : State} (h : t.modeSafe = true) (hf : t.pins.fireEn = .high) :
    t.mode = .lit ∨ (t.mode = .trim ∧ ∃ m, t.taper.maint = some m ∧ m.running = true) := by
  simp only [State.modeSafe, State.firingGuarded, State.patternRuns, hf, Bool.and_eq_true, Bool.or_eq_true, decide_eq_true_eq, ne_eq,
    not_true, false_or, Option.any_eq_true] at h
  exact h.2

/-- Settles O8: a safe state guards BAR_FIRE_EN, and every step keeps it safe. -/
theorem fireEnableOnlyInLitOrPattern : Obligations.FireEnableOnlyInLitOrPattern :=
  fun s t hs ht hf => State.fires_of_modeSafe (((step_turns s).turns t ht).safe hs).1 hf

end Sys2Proof.Machine
end

section
/-! SUPPORT. O5 and O12: the state after reset. -/

namespace Sys2Proof.Machine

/-- Settles O5: State.reset is written out field by field, and an object without an entry reads its default. -/
theorem resetState : Obligations.ResetState :=
  ⟨rfl, rfl, rfl, rfl, rfl, rfl, rfl, rfl, rfl, rfl, rfl, rfl, rfl, rfl⟩

/-- Settles O12: every table and every log of State.reset is empty, and BAR_FIRE_EN is not driven high. -/
theorem resetMeetsTheInvariants : Obligations.ResetMeetsTheInvariants :=
  ⟨rfl, rfl, rfl, rfl, rfl, rfl⟩

end Sys2Proof.Machine
end

section
/-! SUPPORT. Requests that are executed and answered (05 R97, R102, R105 to R108, R117): what runs, and what an answer leaves. -/

namespace Sys2Proof.Machine

/-! ### A frame as an equation -/

theorem State.eq_of_agree {s t : State} (h : ∀ f, s.agree t f) : t = s := by
  cases s
  cases t
  simp only [State.mk.injEq]
  exact ⟨h .pending, h .regs, h .doms, h .mode, h .role, h .strapped, h .clock, h .rst, h .fuses, h .pins, h .jtag, h .igrel, h .flash,
    h .raster, h .decomp, h .slots, h .health, h .trimGen, h .enc, h .taper, h .heads, h .twin, h .lantern, h .led, h .chans, h .check,
    h .dram, h .wick, h .loops, h .spi, h .axes, h .ptp, h .cal, h .ylog, h .die, h .out, h .flagged, h .freeCtr⟩

/-- The first state with the listed fields of the second. -/
def State.taking (s t : State) (d : List Fld) : State where
  pending := if .pending ∈ d then t.pending else s.pending
  regs := if .regs ∈ d then t.regs else s.regs
  doms := if .doms ∈ d then t.doms else s.doms
  mode := if .mode ∈ d then t.mode else s.mode
  role := if .role ∈ d then t.role else s.role
  strapped := if .strapped ∈ d then t.strapped else s.strapped
  clock := if .clock ∈ d then t.clock else s.clock
  rst := if .rst ∈ d then t.rst else s.rst
  fuses := if .fuses ∈ d then t.fuses else s.fuses
  pins := if .pins ∈ d then t.pins else s.pins
  jtag := if .jtag ∈ d then t.jtag else s.jtag
  igrel := if .igrel ∈ d then t.igrel else s.igrel
  flash := if .flash ∈ d then t.flash else s.flash
  raster := if .raster ∈ d then t.raster else s.raster
  decomp := if .decomp ∈ d then t.decomp else s.decomp
  slots := if .slots ∈ d then t.slots else s.slots
  health := if .health ∈ d then t.health else s.health
  trimGen := if .trimGen ∈ d then t.trimGen else s.trimGen
  enc := if .enc ∈ d then t.enc else s.enc
  taper := if .taper ∈ d then t.taper else s.taper
  heads := if .heads ∈ d then t.heads else s.heads
  twin := if .twin ∈ d then t.twin else s.twin
  lantern := if .lantern ∈ d then t.lantern else s.lantern
  led := if .led ∈ d then t.led else s.led
  chans := if .chans ∈ d then t.chans else s.chans
  check := if .check ∈ d then t.check else s.check
  dram := if .dram ∈ d then t.dram else s.dram
  wick := if .wick ∈ d then t.wick else s.wick
  loops := if .loops ∈ d then t.loops else s.loops
  spi := if .spi ∈ d then t.spi else s.spi
  axes := if .axes ∈ d then t.axes else s.axes
  ptp := if .ptp ∈ d then t.ptp else s.ptp
  cal := if .cal ∈ d then t.cal else s.cal
  ylog := if .ylog ∈ d then t.ylog else s.ylog
  die := if .die ∈ d then t.die else s.die
  out := if .out ∈ d then t.out else s.out
  flagged := if .flagged ∈ d then t.flagged else s.flagged
  freeCtr := if .freeCtr ∈ d then t.freeCtr else s.freeCtr

/-- A frame, as the equation that a statement writes: for the fields at hand the right side is a record update by computation. -/
theorem Only.eq_taking {d : List Fld} {s t : State} (h : Only d s t) : t = s.taking t d := by
  have pick {α : Type} (f : Fld) {a b : α} (e : f ∉ d → b = a) : b = if f ∈ d then b else a := by
    split
    · rfl
    · next hf => exact e hf
  exact State.eq_of_agree fun f => by cases f <;> exact pick _ (h.agree _)

/-! ### What runs -/

theorem State.session_id {s : State} {id : Nat} {x : Session} (h : s.session id = some x) : x.id = id := by
  have found := List.find?_some h
  simp only [Bool.and_eq_true, decide_eq_true_eq] at found
  exact found.1

section
variable {s : State} {h : Hdr} {p : List Byte} {x : Session} (hh : s.hears h p x)
include hh

theorem State.inSlot_hears (noWait : Session → Bool) (run : Session → State → State) : s.inSlot h p noWait run = run x (s.sawPacket h) := by
  obtain ⟨-, -, -, hs, hseq, hkept, hslot⟩ := hh
  have hid := State.session_id hs
  unfold State.sawPacket at hslot ⊢
  unfold State.inSlot State.inSession
  rw [hs]
  simp only [hseq, if_true, hkept, hid, hslot, Bool.false_and, Bool.false_eq_true, if_false]

theorem State.receive_hears {u v : State} : (if s.recovering = true then u else if s.igrelRuns = false then s else v) = v := by
  obtain ⟨-, hrec, hrun, -⟩ := hh
  rw [if_neg (by simp [hrec]), if_neg (by simp [hrun])]

theorem State.receive_read : s.receive h 0x10 p = (s.sawPacket h).runRead h p := (State.receive_hears hh).trans (State.inSlot_hears hh _ _)

theorem State.receive_write : s.receive h 0x11 p = (s.sawPacket h).runWriteOf h x.level p :=
  (State.receive_hears hh).trans (State.inSlot_hears hh _ _)

theorem State.receive_describe : s.receive h 0x12 p = (s.sawPacket h).runDescribe h p :=
  (State.receive_hears hh).trans (State.inSlot_hears hh _ _)

theorem State.receive_subscribe : s.receive h 0x30 p = (s.sawPacket h).runSubscribe h p :=
  (State.receive_hears hh).trans (State.inSlot_hears hh _ _)

end

/-! ### Sessions -/

theorem State.session_congr {s t : State} (h : t.igrel = s.igrel) (id : Nat) : t.session id = s.session id := by
  unfold State.session
  rw [h]

section
variable {s t : State} {id : Nat} {f : Session → Session} (ht : t.igrel = s.igrel.modify id f)
  (hf : ∀ x, (f x).id = x.id ∧ (f x).reserved = x.reserved)
include ht hf

/-- A change of a session that is neither of its ID nor of its reservation leaves every session where it was. -/
theorem State.session_modify (j : Nat) : t.session j = (s.session j).map (fun x => if x.id = id then f x else x) := by
  have same : ((fun x : Session => decide (x.id = j) && !x.reserved) ∘ fun x => if x.id = id then f x else x) =
      fun x => decide (x.id = j) && !x.reserved := by
    funext x
    dsimp only [Function.comp_apply]
    split
    · rw [(hf x).1, (hf x).2]
    · rfl
  unfold State.session
  rw [ht, Igrel.modify, List.find?_map, same]

theorem State.session_modify_same {x : Session} (hs : s.session id = some x) : t.session id = some (f x) := by
  rw [State.session_modify ht hf, hs, Option.map_some, if_pos (State.session_id hs)]

end

theorem State.sawPacket_session {s : State} {h : Hdr} {x : Session} (hs : s.session h.sess = some x) :
    (s.sawPacket h).session h.sess = some (x.seen h.seq) :=
  State.session_modify_same (s := s) (f := fun y => y.seen h.seq) rfl (fun _ => ⟨rfl, rfl⟩) hs

/-- A packet sent in an open session (05 R102). -/
theorem State.sendIn_open (s : State) (dst : Src) {sess : Nat} (ty tag : Nat) (p : List Byte) {x : Session} (hx : s.session sess = some x) :
    (s.sendIn dst sess ty tag p).out = .igrel dst ty sess tag x.txNext p (some x.key) :: s.out ∧
      (s.sendIn dst sess ty tag p).session sess = some { x with txNext := (x.txNext + 1) % 2 ^ 32 } := by
  unfold State.sendIn
  rw [hx]
  exact ⟨rfl, State.session_modify_same (s := s) (f := fun y => { y with txNext := (y.txNext + 1) % 2 ^ 32 }) rfl (fun _ => ⟨rfl, rfl⟩) hx⟩

/-- What is sent leaves every open session open. -/
theorem State.sendIn_stays (s : State) (dst : Src) (sess ty tag : Nat) (p : List Byte) {id : Nat} (h : (s.session id).isSome = true) :
    ((s.sendIn dst sess ty tag p).session id).isSome = true := by
  unfold State.sendIn
  split
  · exact h
  · rw [State.session_modify (s := s) (f := fun y => { y with txNext := (y.txNext + 1) % 2 ^ 32 }) rfl (fun _ => ⟨rfl, rfl⟩), Option.isSome_map]
    exact h

theorem State.logEvent_stays (s : State) (code : Nat) (detail : List Byte) {id : Nat} (h : (s.session id).isSome = true) :
    ((s.logEvent code detail).session id).isSome = true := by
  have each (ty tag : Nat) (p : List Byte) (l : List Session) (u : State) (hu : (u.session id).isSome = true) :
      ((u.sendEach ty tag p l).session id).isSome = true := by
    induction l generalizing u with
    | nil => exact hu
    | cons y l ih => exact ih _ (u.sendIn_stays _ _ _ _ _ hu)
  refine each _ _ _ _ _ ?_
  rwa [State.session_congr ((s.ylogWrite_only code detail).agree .igrel (by decide))]

/-! ### Answers -/

/-- A reply that is kept: any but BUSY (05 R108). -/
def Reply.isKept : Reply → Bool
  | .ok _ => true
  | .abort code _ _ _ => decide (code ≠ busyCode)

/-- A session that keeps one reply more (05 R108). -/
def Session.keeping (x : Session) (k : Kept) : Session := { x with kept := (k :: x.kept.filter (fun y => y.tag ≠ k.tag)).take 16 }

/-- A request of an open session is answered in it, and its reply is kept. -/
theorem State.answer_open {u : State} {h : Hdr} (h0 : h.sess ≠ 0) {y : Session} (hu : u.session h.sess = some y) (ty : Nat) (p : List Byte)
    {r : Reply} (hr : r.isKept = true) :
    (u.answer h ty p r).out = .igrel h.src r.packet.1 h.sess h.tag y.txNext r.packet.2 (some y.key) :: u.out ∧
      ∃ z, (u.answer h ty p r).session h.sess = some z ∧ z.keptReply h.tag p = some r ∧ z.sub = y.sub := by
  have sent : u.respond h r = u.sendIn h.src h.sess r.packet.1 h.tag r.packet.2 := by
    cases r <;> exact if_neg h0
  obtain ⟨out, opened⟩ := u.sendIn_open h.src r.packet.1 h.tag r.packet.2 hu
  rw [← sent] at out opened
  let k : Kept := { tag := h.tag, ty := ty, payload := p, reply := r }
  have kept : u.answer h ty p r = { u.respond h r with igrel := (u.respond h r).igrel.modify h.sess (fun x => x.keeping k) } := by
    cases r with
    | ok _ => rfl
    | abort code _ _ _ => exact if_neg (by simpa [Reply.isKept] using hr)
  rw [kept]
  refine ⟨out, _, State.session_modify_same (s := u.respond h r) (f := fun x => x.keeping k) rfl (fun _ => ⟨rfl, rfl⟩) opened, ?_, rfl⟩
  simp [Session.keptReply, Session.keeping, k]

/-- Answering a packet that is executed. -/
theorem State.hears.replied {s u : State} {h : Hdr} {p : List Byte} {x y : Session} (hh : s.hears h p x) (hu : u.session h.sess = some y)
    (hout : u.out = s.out) (htx : y.txNext = x.txNext) (hkey : y.key = x.key) (ty : Nat) {r : Reply} (hr : r.isKept = true) :
    s.replied (u.answer h ty p r) h x p r ∧ ((u.answer h ty p r).session h.sess).map Session.sub = some y.sub := by
  obtain ⟨out, z, hz, hkept, hsub⟩ := State.answer_open hh.1 hu ty p hr
  rw [hout, htx, hkey] at out
  exact ⟨⟨out, by rw [hz]; exact hkept⟩, by rw [hz]; exact congrArg some hsub⟩

/-- Answering it with nothing done before. -/
theorem State.hears.answered {s u : State} {h : Hdr} {p : List Byte} {x : Session} (hh : s.hears h p x)
    (hu : u.igrel = (s.sawPacket h).igrel) (hout : u.out = s.out) (ty : Nat) {r : Reply} (hr : r.isKept = true) :
    s.replied (u.answer h ty p r) h x p r ∧ ((u.answer h ty p r).session h.sess).map Session.sub = some x.sub := by
  obtain ⟨-, -, -, hs, -⟩ := id hh
  exact hh.replied ((State.session_congr hu _).trans (State.sawPacket_session hs)) hout rfl rfl ty hr

end Sys2Proof.Machine
end

section
/-! SUPPORT. O21 and O22 (02 R49, R50; 05 R106; 12 R285): a write that passes every check, and one that a check refuses. -/

namespace Sys2Proof.Machine

/-! ### A forwarded write -/

/-- A forwarded write is read as it was sent. -/
theorem forwardPayload_read {key v : Nat} {r : Dict.ObjRow} (hr : findObj key = .ok r) :
    256 * field (forwardPayload r.ty key v) 0 2 + field (forwardPayload r.ty key v) 2 1 = key ∧
      (forwardPayload r.ty key v).drop 4 = le r.ty.bytes v := by
  have hlt := indexExists_lt (findObj_row hr).1
  have hidx := field_le [] (le 1 (key % 256) ++ (le 1 r.ty.code ++ le r.ty.bytes v)) 2 (key / 256)
  have hsub := field_le (le 2 (key / 256)) (le 1 r.ty.code ++ le r.ty.bytes v) 1 (key % 256)
  have hval := List.drop_left' (l₁ := le 2 (key / 256) ++ le 1 (key % 256) ++ le 1 r.ty.code) (l₂ := le r.ty.bytes v) (i := 4) (by simp)
  simp only [List.nil_append, List.length_nil, le_length, List.append_assoc] at hidx hsub hval
  simp only [forwardPayload, List.append_assoc, hidx, hsub, hval, and_true]
  omega

theorem healthEdit_domain {r : Dict.ObjRow} (hr : findObj Obj.healthEdit = .ok r) : r.ty = .domain := by
  have h : (findObj Obj.healthEdit).toOption.all (fun r => decide (r.ty = .domain)) = true := by decide +kernel
  simpa [hr, Except.toOption] using h

/-- On a mate it has the object's effect. -/
theorem State.takeForward_effect {s : State} {key v : Nat} {r : Dict.ObjRow} (hr : findObj key = .ok r) (hup : s.twinUp = true)
    (hrole : s.role = .mate) (hlocal : isLocal key = false) (hty : r.ty ≠ .domain) (hv : v < 2 ^ (8 * r.ty.bytes)) :
    s.takeForward (forwardPayload r.ty key v) = s.writeEffect key (storedBits r.ty v) := by
  obtain ⟨hkey, hval⟩ := forwardPayload_read (v := v) hr
  have hedit : key ≠ Obj.healthEdit := fun e => hty (healthEdit_domain (e ▸ hr))
  unfold State.takeForward
  dsimp only
  rw [hkey, hval, (findObj_row hr).2]
  dsimp only
  rw [if_neg (by simp [hup, hlocal]), if_neg hedit, if_neg (by simp [hrole]), if_neg hty, fromLe_le, Nat.mod_eq_of_lt hv]

/-- Settles O21: the accepted request's equation, and the forwarded write's. -/
theorem acceptedWriteIsExecutedAndAnswered : Obligations.AcceptedWriteIsExecutedAndAnswered :=
  fun _ _ _ _ _ _ hr => ⟨fun ha hk => ⟨_, rfl, State.send_admits ha hr hk⟩,
    fun hup hrole hlocal hty hv => ⟨_, rfl, State.takeForward_effect hr hup hrole hlocal hty hv⟩⟩

/-! ### A refused request -/

theorem State.conflict_regs (s : State) (key : Nat) : s.regsBut (s.conflict key) (Obj.conflictCount :: yilloggerObjects) :=
  (State.logEvent_regsBut _ _ _).step (s.bump_regsBut _)

theorem State.conflict_count (s : State) (key : Nat) :
    (s.conflict key).reg Obj.conflictCount = countValue Obj.conflictCount (s.reg Obj.conflictCount) 1 := by
  unfold State.conflict
  rw [State.logEvent_reg _ _ _ (by decide), State.reg_bump_same]

/-- The registers after a refusal are those after its conflict, where it counts as one (02 R49). -/
theorem State.refuse_regs (s : State) (h : Hdr) (ty : Nat) (p : List Byte) (key : Nat) (b : Bad) :
    (s.refuse h ty p key b).regs = (if b.counted then s.conflict key else s).regs := by
  unfold State.refuse
  dsimp only
  split <;> exact (State.answer_only ..).agree .regs (by decide)

theorem State.refuse_leaves (s : State) (h : Hdr) (ty : Nat) (p : List Byte) (key : Nat) (b : Bad) :
    s.regsBut (s.refuse h ty p key b) (Obj.conflictCount :: yilloggerObjects) ∧ (s.refuse h ty p key b).reg Obj.conflictCount =
      if b.counted then countValue Obj.conflictCount (s.reg Obj.conflictCount) 1 else s.reg Obj.conflictCount := by
  have regs := State.reg_congr (s.refuse_regs h ty p key b)
  cases hb : b.counted with
  | true =>
    simp only [hb, if_true] at regs ⊢
    exact ⟨fun k hk => (regs k).trans (s.conflict_regs key k hk), (regs _).trans (s.conflict_count key)⟩
  | false =>
    simp only [hb, Bool.false_eq_true, if_false] at regs ⊢
    exact ⟨fun k _ => regs k, regs _⟩

/-- A write that a check refuses is that refusal. -/
theorem State.receive_refused {s : State} {h : Hdr} {key v : Nat} {x : Session} {r : Dict.ObjRow} {b : Bad}
    (hh : s.hears h (writePayload key v) x) (hr : findObj key = .ok r)
    (hf : (s.sawPacket h).writeFault x.level r { key := key, ty := r.ty.code, value := le r.ty.bytes v } = some b) :
    s.receive h 0x11 (writePayload key v) = (s.sawPacket h).refuse h 0x11 (writePayload key v) key b := by
  rw [State.receive_write hh, State.runWriteOf, parseWrite_writePayload hr]
  simp only [State.runWrite, hr, hf]

/-- Settles O22: a refused write is its refusal, which counts and logs a conflict and then answers. -/
theorem refusedWriteChangesNoSetting : Obligations.RefusedWriteChangesNoSetting := by
  intro s h key v x r b vpp hh hr _ hf
  have refused := State.receive_refused (s := s.seeVpp vpp) hh hr hf
  have frame : Only [.regs, .igrel, .ylog, .out, .freeCtr, .flagged] (s.seeVpp vpp) (((s.seeVpp vpp).sawPacket h).refuse h 0x11
      (writePayload key v) key b) := (State.refuse_only ..).step (by decide) (.with_igrel (by decide) .refl)
  obtain ⟨regs, count⟩ := ((s.seeVpp vpp).sawPacket h).refuse_leaves h 0x11 (writePayload key v) key b
  refine ⟨_, congrArg ok refused, frame.eq_taking, regs, count⟩

end Sys2Proof.Machine
end

section
/-! SUPPORT. O32 (02 R46, R49; 05 R105, R119, R493, R495): what READ, DESCRIBE, SUBSCRIBE and telemetry read and leave. -/

namespace Sys2Proof.Machine

/-! ### Entries -/

/-- An entry that is read, and that is no state conflict, is the object's entry, and nothing changes. -/
theorem State.readEntry_quiet {s : State} {counted : Bool} {k : Nat} (hb : boundReading k = false)
    (hc : counted = true → s.conflicting k = false) : s.readEntry counted k = (s.entryOf k, s) := by
  unfold State.readEntry State.entryOf
  cases hr : findObj k with
  | error c => rfl
  | ok r =>
    dsimp only
    split
    · rfl
    next hwo =>
      split
      · rfl
      next hdom =>
        split
        next hheld =>
          cases counted with
          | false => rfl
          | true => simp [State.conflicting, hr, hwo, hdom, hheld] at hc
        · rw [State.readObj, if_neg (by simp [hb])]

theorem State.readEntries_quiet {s : State} {counted : Bool} {keys : List Nat} (hb : ∀ k ∈ keys, boundReading k = false)
    (hc : counted = true → ∀ k ∈ keys, s.conflicting k = false) : s.readEntries counted keys = (keys.flatMap s.entryOf, s) := by
  induction keys with
  | nil => rfl
  | cons k keys ih =>
    have first := State.readEntry_quiet (hb k List.mem_cons_self) (fun h => hc h k List.mem_cons_self)
    have rest := ih (fun j hj => hb j (List.mem_cons_of_mem _ hj)) (fun h j hj => hc h j (List.mem_cons_of_mem _ hj))
    simp only [State.readEntries, first, rest, List.flatMap_cons]

theorem State.readReply_quiet {s : State} {counted : Bool} {keys : List Nat} (hb : ∀ k ∈ keys, boundReading k = false)
    (hc : counted = true → ∀ k ∈ keys, s.conflicting k = false) : s.readReply counted keys = (s.valuesOf keys, s) := by
  simp only [State.readReply, State.readEntries_quiet hb hc, State.valuesOf]

/-- An object that is held back in DARK is a state conflict, counted in a request (02 R49). -/
theorem State.readEntry_conflicting {s : State} {k : Nat} (hc : s.conflicting k = true) :
    s.readEntry true k = (badEntry Abort.conflict, s.conflict k) := by
  unfold State.conflicting at hc
  unfold State.readEntry
  cases hr : findObj k with
  | error c => simp [hr] at hc
  | ok r =>
    simp only [hr, Bool.and_eq_true, decide_eq_true_eq, ne_eq] at hc
    obtain ⟨⟨hwo, hdom⟩, hheld⟩ := hc
    simp [hwo, hdom, hheld]

/-- Telemetry reads with no other effect than a free value used (log entry 5). -/
theorem State.readReply_uncounted (s : State) (keys : List Nat) : Only [.freeCtr] s (s.readReply false keys).2 := by
  have read (t : State) (k : Nat) : Only [.freeCtr] t (t.readObj k).2 := by
    unfold State.readObj
    split
    · exact .with_freeCtr (by decide) .refl
    · exact .refl
  have entry (t : State) (k : Nat) : Only [.freeCtr] t (t.readEntry false k).2 := by
    unfold State.readEntry
    split
    · exact .refl
    · split
      · exact .refl
      · split
        · exact .refl
        · split
          · exact .refl
          · exact read t k
  have entries (keys : List Nat) : ∀ t : State, Only [.freeCtr] t (t.readEntries false keys).2 := by
    induction keys with
    | nil => exact fun _ => .refl
    | cons k keys ih => exact fun t => (ih _).trans (entry t k)
  exact entries keys s

/-! ### Requests -/

theorem findObj_error {key c : Nat} (h : findObj key = .error c) : c ≠ busyCode := by
  unfold findObj at h
  split at h
  · split at h <;> cases h
    decide
  · cases h
    decide

/-- A refusal other than BUSY: a conflict counted, and the ABORT. -/
theorem State.refuse_aborts (s : State) (h : Hdr) (ty : Nat) (p : List Byte) (key : Nat) {b : Bad} (hb : b.code ≠ busyCode) :
    s.refuse h ty p key b = (if b.counted then s.conflict key else s).answer h ty p (.abort b.code 0 (key / 256) (key % 256)) := by
  unfold State.refuse
  dsimp only
  rw [if_neg hb]

section
variable {s : State} {h : Hdr} {p : List Byte} {x : Session}

theorem State.hears.open (hh : s.hears h p x) : (s.sawPacket h).session h.sess = some (x.seen h.seq) := by
  obtain ⟨-, -, -, hs, -⟩ := hh
  exact State.sawPacket_session hs

theorem read_replied (hh : s.hears h p x) {keys : List Nat} (vpp : Bool) (hp : parseRead p = some keys)
    (hb : ∀ k ∈ keys, boundReading k = false) (hc : ∀ k ∈ keys, s.conflicting k = false) :
    Completes (.read h p vpp) s (fun t => t = { s.seeVpp vpp with igrel := t.igrel, out := t.out } ∧
      s.replied t h x p (.ok (((s.seeVpp vpp).sawPacket h).valuesOf keys))) := by
  generalize hu : (s.seeVpp vpp).sawPacket h = u
  have quiet : u.readReply true keys = (u.valuesOf keys, u) := State.readReply_quiet hb (fun _ k hk => by rw [← hu]; exact hc k hk)
  have ran : (s.seeVpp vpp).receive h 0x10 p = u.answer h 0x10 p (.ok (u.valuesOf keys)) := by
    rw [State.receive_read (s := s.seeVpp vpp) hh, hu, State.runRead, hp]
    dsimp only
    rw [quiet]
  have frame : Only [.igrel, .out] (s.seeVpp vpp) (u.answer h 0x10 p (.ok (u.valuesOf keys))) :=
    (State.answer_only ..).trans (hu ▸ .with_igrel (by decide) .refl)
  exact ⟨_, congrArg ok ran, frame.eq_taking, (hh.answered (by rw [← hu]; rfl) (by rw [← hu]; rfl) 0x10 rfl).1⟩

/-- A request that meets a state conflict: it is counted and logged, and the answer is kept. -/
theorem State.hears.conflicted (hh : s.hears h p x) {u : State} (hu : ∃ f, u = { (s.sawPacket h) with fuses := f }) (key ty : Nat) {r : Reply} (hr : r.isKept = true) :
    ((u.conflict key).answer h ty p r).mode = s.mode ∧
      s.regsBut ((u.conflict key).answer h ty p r) (Obj.conflictCount :: yilloggerObjects) ∧
      ((u.conflict key).answer h ty p r).reg Obj.conflictCount = countValue Obj.conflictCount (s.reg Obj.conflictCount) 1 ∧
      (((u.conflict key).answer h ty p r).session h.sess).bind (fun y => y.keptReply h.tag p) = some r := by
  obtain ⟨f, rfl⟩ := hu
  generalize hu : ({ (s.sawPacket h) with fuses := f } : State) = u
  have answered := State.answer_only (u.conflict key) h ty p r
  have opened : (u.session h.sess).isSome = true := by
    rw [State.session_congr (s := s.sawPacket h) (by rw [← hu]), hh.open]
    rfl
  obtain ⟨y, hy⟩ := Option.isSome_iff_exists.mp (State.logEvent_stays (u.bump Obj.conflictCount) Ev.stateConflict
    (le 2 (key / 256) ++ le 1 (key % 256) ++ le 1 u.mode.code) opened)
  obtain ⟨-, z, hz, hkept, -⟩ := State.answer_open hh.1 (u := u.conflict key) hy ty p hr
  refine ⟨?_, fun k hk => ?_, ?_, by rw [hz]; exact hkept⟩
  · rw [answered.agree .mode (by decide), (u.conflict_only key).agree .mode (by decide), ← hu]
    rfl
  · rw [answered.reg (by decide), u.conflict_regs key k hk, ← hu]
    rfl
  · rw [answered.reg (by decide), u.conflict_count key, ← hu]
    rfl

end

end Sys2Proof.Machine
end

section
/-! SUPPORT. O32, a lemma for each clause, and O32 itself. -/

namespace Sys2Proof.Machine

/-- A session's subscription is set (05 R119). -/
def State.subscribed (s : State) (id : Nat) (o : Option Subscription) : State :=
  { s with igrel := s.igrel.modify id (fun x => { x with sub := o }) }

theorem State.subscribed_only (s : State) (id : Nat) (o : Option Subscription) : Only [.igrel] s (s.subscribed id o) :=
  .with_igrel (by decide) .refl

theorem State.subscribed_session {s : State} {id : Nat} {x : Session} (h : s.session id = some x) (o : Option Subscription) :
    (s.subscribed id o).session id = some { x with sub := o } :=
  State.session_modify_same (s := s) (f := fun x => { x with sub := o }) rfl (fun _ => ⟨rfl, rfl⟩) h

section
variable {s : State} {h : Hdr} {p : List Byte} {x : Session}

theorem read_conflicting (hh : s.hears h p x) {key : Nat} (vpp : Bool) (hp : parseRead p = some [key]) (hc : s.conflicting key = true) :
    Completes (.read h p vpp) s (fun t => t.mode = s.mode ∧ s.regsBut t (Obj.conflictCount :: yilloggerObjects) ∧
      t.reg Obj.conflictCount = countValue Obj.conflictCount (s.reg Obj.conflictCount) 1 ∧
      (t.session h.sess).bind (fun y => y.keptReply h.tag p) = some (.ok (le 1 1 ++ zeros 3 ++ badEntry Abort.conflict))) := by
  generalize hu : (s.seeVpp vpp).sawPacket h = u
  have entry : u.readEntry true key = (badEntry Abort.conflict, u.conflict key) := State.readEntry_conflicting (by rw [← hu]; exact hc)
  have ran : (s.seeVpp vpp).receive h 0x10 p = (u.conflict key).answer h 0x10 p (.ok (le 1 1 ++ zeros 3 ++ badEntry Abort.conflict)) := by
    rw [State.receive_read (s := s.seeVpp vpp) hh, hu, State.runRead, hp]
    simp only [State.readReply, State.readEntries, entry, List.append_nil, List.length_singleton]
  exact ⟨_, congrArg ok ran, hh.conflicted ⟨_, hu.symm⟩ key 0x10 rfl⟩

/-! ### DESCRIBE (05 R493) -/

theorem describe_replied (hh : s.hears h p x) {key : Nat} {r : Dict.ObjRow} (hp : parseDescribe p = some key) (hr : findObj key = .ok r)
    (hheld : (s.sawPacket h).heldBackObj key r = false) : Completes (.describe h p) s (fun t =>
      t = { s with igrel := t.igrel, out := t.out } ∧ s.replied t h x p (.ok (describeReply key r))) := by
  have ran : s.receive h 0x12 p = (s.sawPacket h).answer h 0x12 p (.ok (describeReply key r)) := by
    rw [State.receive_describe hh, State.runDescribe, hp]
    simp only [hr, hheld, Bool.false_eq_true, if_false]
  have frame : Only [.igrel, .out] s ((s.sawPacket h).answer h 0x12 p (.ok (describeReply key r))) :=
    (State.answer_only ..).trans (.with_igrel (by decide) .refl)
  exact ⟨_, congrArg ok ran, frame.eq_taking, (hh.answered rfl rfl 0x12 rfl).1⟩

theorem describe_aborted (hh : s.hears h p x) {key c : Nat} (hp : parseDescribe p = some key) (hr : findObj key = .error c) :
    Completes (.describe h p) s (fun t => t = { s with igrel := t.igrel, out := t.out } ∧
      s.replied t h x p (.abort c 0 (key / 256) (key % 256))) := by
  have ran : s.receive h 0x12 p = (s.sawPacket h).answer h 0x12 p (.abort c 0 (key / 256) (key % 256)) := by
    rw [State.receive_describe hh, State.runDescribe, hp]
    simp only [hr]
    exact State.refuse_aborts _ _ _ _ _ (findObj_error hr)
  have frame : Only [.igrel, .out] s ((s.sawPacket h).answer h 0x12 p (.abort c 0 (key / 256) (key % 256))) :=
    (State.answer_only ..).trans (.with_igrel (by decide) .refl)
  have kept : (Reply.abort c 0 (key / 256) (key % 256)).isKept = true := decide_eq_true (findObj_error hr)
  exact ⟨_, congrArg ok ran, frame.eq_taking, (hh.answered rfl rfl 0x12 kept).1⟩

theorem describe_conflicting (hh : s.hears h p x) {key : Nat} {r : Dict.ObjRow} (hp : parseDescribe p = some key)
    (hr : findObj key = .ok r) (hheld : (s.sawPacket h).heldBackObj key r = true) : Completes (.describe h p) s (fun t => t.mode = s.mode ∧
      s.regsBut t (Obj.conflictCount :: yilloggerObjects) ∧
      t.reg Obj.conflictCount = countValue Obj.conflictCount (s.reg Obj.conflictCount) 1 ∧
      (t.session h.sess).bind (fun y => y.keptReply h.tag p) = some (.abort Abort.conflict 0 (key / 256) (key % 256))) := by
  have ran : s.receive h 0x12 p = ((s.sawPacket h).conflict key).answer h 0x12 p (.abort Abort.conflict 0 (key / 256) (key % 256)) := by
    rw [State.receive_describe hh, State.runDescribe, hp]
    simp only [hr, hheld, if_true]
    exact State.refuse_aborts _ _ _ _ _ (by decide)
  exact ⟨_, congrArg ok ran, hh.conflicted (u := s.sawPacket h) ⟨_, rfl⟩ key 0x12 (show decide (Abort.conflict ≠ busyCode) = true by decide)⟩

/-! ### SUBSCRIBE (05 R119) -/

theorem subscribe_answered (hh : s.hears h p x) {period : Nat} {keys : List Nat} (hp : parseSubscribe p = some (period, keys)) :
    Completes (.subscribe h p) s (fun t => t = { s with igrel := t.igrel, out := t.out } ∧
      (keys ≠ [] → period = 0 ∨ 60000 < period → s.replied t h x p (.abort Abort.range 0 0 0) ∧
        (t.session h.sess).map Session.sub = some x.sub) ∧
      (keys = [] ∨ (1 ≤ period ∧ period ≤ 60000) → s.replied t h x p (.ok []) ∧ (t.session h.sess).map Session.sub =
        some (if keys = [] then none else some { period := period, keys := keys, missed := 0 }))) := by
  have ran : s.receive h 0x30 p = (s.sawPacket h).runSubscribe h p := State.receive_subscribe hh
  unfold State.runSubscribe at ran
  rw [hp] at ran
  dsimp only at ran
  refine ⟨_, congrArg ok ran, ?_⟩
  have saw : Only [.igrel, .out] s (s.sawPacket h) := .with_igrel (by decide) .refl
  split
  next hbad =>
    obtain ⟨hk, hperiod⟩ := hbad
    refine ⟨(Only.trans (State.answer_only ..) saw).eq_taking, fun _ _ => hh.answered rfl rfl 0x30 (by decide), fun hgood => ?_⟩
    have := hgood.resolve_left hk
    omega
  next hgood =>
    refine ⟨(Only.trans (State.answer_only ..) (.with_igrel (by decide) saw)).eq_taking, fun hk hbad => absurd ⟨hk, hbad⟩ hgood, fun _ => ?_⟩
    exact hh.replied (u := (s.sawPacket h).subscribed h.sess _) (State.subscribed_session hh.open _) rfl rfl rfl 0x30 (r := .ok []) rfl

/-! ### Another layout (05 R495) -/

theorem badLayout_refuses (hh : s.hears h p x) (f : Fuses) {u : State} (hu : u = { s.sawPacket h with fuses := f }) (ty : Nat) :
    (fun t : State => t = { s with fuses := t.fuses, igrel := t.igrel, out := t.out } ∧ s.replied t h x p (.abort Abort.badType 0 0 0))
      (u.badLayout h ty p) := by
  have frame : Only [.fuses, .igrel, .out] s (u.badLayout h ty p) :=
    (State.answer_only ..).step (by decide) (hu ▸ .with_fuses (by decide) (.with_igrel (by decide) .refl))
  exact ⟨frame.eq_taking, (hh.answered (by rw [hu]) (by rw [hu]; rfl) ty (by decide)).1⟩

theorem badLayouts_refused (hh : s.hears h p x) (vpp : Bool) :
    let refused (c : Instr) : Prop := Completes c s (fun t => t = { s with fuses := t.fuses, igrel := t.igrel, out := t.out } ∧
      s.replied t h x p (.abort Abort.badType 0 0 0))
    (parseRead p = none → refused (.read h p vpp)) ∧ (parseDescribe p = none → refused (.describe h p)) ∧
      (parseSubscribe p = none → refused (.subscribe h p)) := by
  refine ⟨fun hp => ?_, fun hp => ?_, fun hp => ?_⟩
  · have ran : (s.seeVpp vpp).receive h 0x10 p = ((s.seeVpp vpp).sawPacket h).badLayout h 0x10 p := by
      rw [State.receive_read (s := s.seeVpp vpp) hh, State.runRead, hp]
    exact ⟨_, congrArg ok ran, badLayout_refuses hh _ rfl _⟩
  · have ran : s.receive h 0x12 p = (s.sawPacket h).badLayout h 0x12 p := by rw [State.receive_describe hh, State.runDescribe, hp]
    exact ⟨_, congrArg ok ran, badLayout_refuses hh s.fuses rfl _⟩
  · have ran : s.receive h 0x30 p = (s.sawPacket h).badLayout h 0x30 p := by rw [State.receive_subscribe hh, State.runSubscribe, hp]
    exact ⟨_, congrArg ok ran, badLayout_refuses hh s.fuses rfl _⟩

end

/-! ### Telemetry (05 R119) -/

section
variable {s : State} {id : Nat} {x : Session} {u : Subscription}

theorem execTelemetrySend_due (hrun : s.igrelRuns = true) (hs : s.session id = some x) (hsub : x.sub = some u) (canSend : Bool) :
    execTelemetrySend id canSend s = ok (s.telemetry x u canSend) := by
  unfold execTelemetrySend
  rw [hs]
  dsimp only
  rw [hsub]
  exact if_pos hrun

theorem telemetry_missed (hrun : s.igrelRuns = true) (hs : s.session id = some x) (hsub : x.sub = some u) :
    Completes (.telemetrySend id false) s (fun t => t = { s with igrel := t.igrel } ∧
      (t.session id).map Session.sub = some (some { u with missed := u.missed + 1 })) := by
  obtain rfl := State.session_id hs
  have missed : s.telemetry x u false = s.subscribed x.id (some { u with missed := u.missed + 1 }) := rfl
  refine ⟨_, execTelemetrySend_due hrun hs hsub false, rfl, ?_⟩
  rw [missed, State.subscribed_session hs]
  rfl

theorem telemetry_sent (hrun : s.igrelRuns = true) (hs : s.session id = some x) (hsub : x.sub = some u) :
    Completes (.telemetrySend id true) s (fun t => t = { s with igrel := t.igrel, out := t.out, freeCtr := t.freeCtr } ∧
      (t.session id).map Session.sub = some (some { u with missed := 0 }) ∧
      ∃ body, t.out = .igrel x.src 0x31 id 0 x.txNext body (some x.key) :: s.out ∧
        ((∀ k ∈ u.keys, boundReading k = false) → u.missed < 2 ^ 16 → body = le 10 s.now ++ le 2 u.missed ++ s.valuesOf u.keys)) := by
  obtain rfl := State.session_id hs
  let v := (s.readReply false u.keys).2
  let w := v.subscribed x.id (some { u with missed := 0 })
  let body := le 10 s.now ++ le 2 (missedField u.missed) ++ (s.readReply false u.keys).1
  have sent : s.telemetry x u true = w.sendIn x.src x.id 0x31 0 body := rfl
  have read : Only [.freeCtr] s v := s.readReply_uncounted u.keys
  have put : Only [.igrel, .out, .freeCtr] s w := (v.subscribed_only _ _).step (by decide) (read.mono (by decide))
  have opened := State.subscribed_session ((State.session_congr (read.agree .igrel (by decide)) _).trans hs) (some { u with missed := 0 })
  obtain ⟨out, session⟩ := w.sendIn_open x.src 0x31 0 body opened
  refine ⟨_, execTelemetrySend_due hrun hs hsub true, ?_⟩
  rw [sent]
  refine ⟨((State.sendIn_only ..).step (by decide) put).eq_taking, by rw [session]; rfl, body, ?_, fun hb hm => ?_⟩
  · rw [out, show w.out = s.out from read.agree .out (by decide)]
  · simp only [body, State.readReply_quiet hb (fun h => absurd h Bool.false_ne_true), missedField, if_pos hm]

end

/-- Settles O32: a lemma for each form of request and message. -/
theorem readsAnswerWithoutChange : Obligations.ReadsAnswerWithoutChange := by
  intro s
  refine ⟨fun h p x keys vpp hh hp => read_replied hh vpp hp, fun h p x key vpp hh hp => read_conflicting hh vpp hp,
    fun h p x key hh hp => ⟨fun r => describe_replied hh hp, fun c => describe_aborted hh hp, fun r => describe_conflicting hh hp⟩,
    fun h p x period keys hh => subscribe_answered hh, fun h p x vpp hh => badLayouts_refused hh vpp,
    fun id x u hrun hs hsub => ⟨telemetry_missed hrun hs hsub, telemetry_sent hrun hs hsub⟩,
    fun mac ip hnet => ⟨_, if_pos (by simp [hnet]), rfl⟩, fun src data hrun => ⟨_, if_pos hrun, rfl⟩⟩

end Sys2Proof.Machine
end

section
/-! SUPPORT. O13 (03 R60 to R67): what a reset leaves, and each of its sources. -/

namespace Sys2Proof.Machine

/-! ### Objects carried over and cleared -/

theorem State.carry_reg (s old : State) (l : List Nat) (k : Nat) : (s.carry old l).reg k = if k ∈ l then old.reg k else s.reg k := by
  induction l generalizing s with
  | nil => rfl
  | cons j l ih =>
    rw [State.carry, ih, State.reg_setReg]
    by_cases hk : k = j
    · subst hk; simp
    · simp [hk]

theorem State.setRegs_zero (s : State) (l : List Nat) (k : Nat) : (s.setRegs (l.map (fun j => (j, 0)))).reg k = if k ∈ l then 0 else s.reg k := by
  induction l generalizing s with
  | nil => rfl
  | cons j l ih =>
    rw [List.map_cons, State.setRegs, ih, State.reg_setReg]
    by_cases hk : k = j
    · subst hk; simp
    · simp [hk]

/-! ### The device in reset (03 R61, R66) -/

/-- The retained objects stand, and every other object is at its default. -/
theorem State.afterReset_reg (s : State) (k : Nat) : s.afterReset.reg k = if k ∈ retainedKeys then s.reg k else Dict.default k := by
  unfold State.afterReset
  extract_lets u
  have cut : Only [.fuses, .freeCtr, .led, .out] s u := (State.closeWindow_only _).step (by decide) (s.cutFuse_only.mono (by decide))
  rw [State.carry_reg, cut.reg (by decide)]
  rfl

/-- The units of a device in reset are empty. -/
theorem State.afterReset_units (s : State) : ∃ u, Only [.fuses, .freeCtr, .led, .out] s u ∧ Only [.regs] u.resetBase s.afterReset :=
  ⟨_, (State.closeWindow_only _).step (by decide) (s.cutFuse_only.mono (by decide)), State.carry_only ..⟩

theorem State.markSource_reg (s : State) (b sub k : Nat) : (s.markSource b sub).reg k =
    if k = Obj.resetDetail then b + 256 * sub else if k = Obj.resetCause then s.reg Obj.resetCause ||| 2 ^ b else s.reg k := by
  unfold State.markSource
  extract_lets r s1
  rw [State.reg_setReg]
  refine if_congr .rfl rfl ?_
  by_cases hk : k = Obj.resetCause
  · rw [if_pos hk, hk]
    exact s1.reg_setBits_same _ _
  · rw [if_neg hk]
    exact s1.reg_setBits_other _ hk

/-- A freeze at a reset writes the Yilloger's state and its freeze entry, and makes no entry (22 R472). -/
theorem State.freezeAtReset_leaves (s : State) :
    s.regsBut s.freezeAtReset [Obj.ylogState, Obj.freezeEntry] ∧ s.freezeAtReset.ylog.entries = s.ylog.entries := by
  unfold State.freezeAtReset
  extract_lets s1
  have frozen : s.regsBut s1 [Obj.freezeEntry] := by
    simp only [s1]
    split
    · exact s.setReg_regsBut _ _
    · exact .refl
  have log : s1.ylog = s.ylog := by
    simp only [s1]
    split <;> rfl
  exact ⟨(s1.setReg_regsBut Obj.ylogState 2).step frozen, by
    show ({ s1.ylog with post := 0, batch := [], base := none } : Ylog).entries = s.ylog.entries
    rw [log]⟩

/-- A source that asserts reset on a running device. -/
theorem State.takeReset_wasReset {s : State} (h : s.rst.asserted = false) (b sub : Nat) : s.wasReset (s.takeReset b sub) b sub := by
  unfold State.takeReset
  rw [if_neg (by simp [h])]
  extract_lets s1
  have froze : Only [.regs, .ylog] s s1 := .ite (fun _ => s.freezeAtReset_only) (fun _ => .refl)
  have leaves : s.regsBut s1 [Obj.ylogState, Obj.freezeEntry] ∧ s1.ylog.entries = s.ylog.entries := by
    simp only [s1]
    split
    · exact s.freezeAtReset_leaves
    · exact ⟨.refl, rfl⟩
  clear_value s1
  obtain ⟨regs, entries⟩ := leaves
  obtain ⟨u, cut, carried⟩ := s1.afterReset_units
  have marked : Only [.regs, .rst, .flagged] u.resetBase ((s1.afterReset.bump Obj.resetCount).markSource b sub) :=
    (State.markSource_only ..).step (by decide) ((State.bump_only ..).step (by decide) (carried.mono (by decide)))
  have asserted : ((s1.afterReset.bump Obj.resetCount).markSource b sub).rst.asserted = true :=
    congrArg ResetSt.asserted (carried.agree .rst (by decide))
  have reg (k : Nat) := (s1.afterReset.bump Obj.resetCount).markSource_reg b sub k
  generalize (s1.afterReset.bump Obj.resetCount).markSource b sub = t at marked asserted reg
  unfold State.wasReset
  have counted (k : Nat) (hk : k ≠ Obj.resetCount) : (s1.afterReset.bump Obj.resetCount).reg k = s1.afterReset.reg k :=
    State.reg_bump_other _ hk
  refine ⟨marked.agree .mode (by decide), asserted, ?_, ?_, ?_, fun k hk => ?_, marked.agree .doms (by decide), ?_, ?_,
    marked.agree .slots (by decide), ?_, ?_, ?_, ?_, ?_, ?_, ?_, ?_, ?_⟩
  · rw [reg, if_neg (by decide), if_pos rfl, counted _ (by decide), State.afterReset_reg, if_pos (by decide), regs _ (by decide)]
  · rw [reg, if_pos rfl]
  · rw [reg, if_neg (by decide), if_neg (by decide), State.reg_bump_same, State.afterReset_reg, if_pos (by decide), regs _ (by decide)]
  · obtain ⟨hcause, hcount, hdetail⟩ : k ≠ Obj.resetCause ∧ k ≠ Obj.resetCount ∧ k ≠ Obj.resetDetail := by
      simp only [retainedKeys, List.mem_cons, not_or] at hk
      exact ⟨hk.1, hk.2.1, hk.2.2.1⟩
    rw [reg, if_neg hdetail, if_neg hcause, counted _ hcount, State.afterReset_reg, if_neg hk]
  · rw [marked.agree .igrel (by decide)]; rfl
  · rw [marked.agree .raster (by decide)]; rfl
  · rw [marked.agree .taper (by decide)]; rfl
  · rw [marked.agree .taper (by decide)]; rfl
  · rw [marked.agree .pins (by decide)]; exact Level.noConfusion
  · rw [marked.agree .pins (by decide)]; rfl
  · rw [marked.agree .dram (by decide)]; rfl
  · rw [marked.agree .dram (by decide)]; rfl
  · exact (marked.agree .flash (by decide)).trans ((cut.agree .flash (by decide)).trans (froze.agree .flash (by decide)))
  · rw [marked.agree .ylog (by decide), ← entries, ← cut.agree .ylog (by decide)]; rfl
  · exact (marked.agree .pending (by decide)).trans ((cut.agree .pending (by decide)).trans (froze.agree .pending (by decide)))

/-- A reset leaves the reference clock as it finds it. -/
theorem State.takeReset_refOn {s : State} (h : s.rst.asserted = false) (b sub : Nat) : (s.takeReset b sub).clock.refOn = s.clock.refOn := by
  unfold State.takeReset
  rw [if_neg (by simp [h])]
  extract_lets s1
  have froze : Only [.regs, .ylog] s s1 := .ite (fun _ => s.freezeAtReset_only) (fun _ => .refl)
  clear_value s1
  obtain ⟨u, cut, carried⟩ := s1.afterReset_units
  have marked : Only [.regs, .rst, .flagged] u.resetBase ((s1.afterReset.bump Obj.resetCount).markSource b sub) :=
    (State.markSource_only ..).step (by decide) ((State.bump_only ..).step (by decide) (carried.mono (by decide)))
  rw [marked.agree .clock (by decide), ← froze.agree .clock (by decide), ← cut.agree .clock (by decide)]
  rfl

/-- A die at 125 C resets the chip, where it does not hold it in reset already. -/
theorem dieTempSample_wasReset {s : State} (h : s.rst.asserted = false) {i : Fin 4} {v : Int} (hot : 8000 ≤ v)
    (cool : s.rst.active.contains Src_.therm = false) : Completes (.dieTempSample i v) s (fun t => s.wasReset t Src_.therm (i + 1)) := by
  unfold Completes
  show ∃ t, execDieTempSample i v s = _ ∧ _
  unfold execDieTempSample
  extract_lets temps isHot die s1
  rw [if_pos ⟨hot, cool⟩]
  exact ⟨_, rfl, State.takeReset_wasReset (s := s1) h _ _⟩

/-- A power-on reset clears the retained set too (03 R61). -/
theorem powerOnReset_clears {s : State} (h : s.rst.asserted = false) : Completes .powerOnReset s (fun t => t.mode = .dark ∧
    t.rst.asserted = true ∧ t.reg Obj.resetCause = 1 ∧ t.ylog.entries = [] ∧
    ∀ k, k ≠ Obj.resetCause → t.reg k = if k ∈ retainedKeys then 0 else Dict.default k) := by
  have cleared (k : Nat) : s.afterReset.powerOn.reg k = if k ∈ retainedKeys then 0 else Dict.default k := by
    refine (s.afterReset.setRegs_zero retainedKeys k).trans ?_
    rw [State.afterReset_reg]
    split <;> rfl
  obtain ⟨u, -, carried⟩ := s.afterReset_units
  have marked : Only [.regs, .rst, .flagged] s.afterReset.powerOn (s.afterReset.powerOn.markSource Src_.por 0) := State.markSource_only ..
  have asserted : s.afterReset.powerOn.rst.asserted = true :=
    congrArg ResetSt.asserted (((State.powerOn_only s.afterReset).agree .rst (by decide)).trans (carried.agree .rst (by decide)))
  refine ⟨s.afterReset.powerOn.markSource Src_.por 0, ?_, ?_, asserted, ?_, ?_, fun k hk => ?_⟩
  · show execPowerOnReset s = _
    unfold execPowerOnReset
    rw [if_neg (by simp [h])]
    rfl
  · exact (marked.agree .mode (by decide)).trans (carried.agree .mode (by decide))
  · rw [State.markSource_reg, if_neg (by decide), if_pos rfl, cleared, if_pos (by decide)]
    rfl
  · rw [marked.agree .ylog (by decide)]
    rfl
  · rw [State.markSource_reg, if_neg hk, cleared]
    split
    · subst k
      rfl
    · rfl

/-- Settles O13: every source takes the reset of 03 R61 from a running device; the sources differ in their condition and cause alone. -/
theorem everyResetEntersDark : Obligations.EveryResetEntersDark := by
  intro s h
  refine ⟨⟨_, rfl, s.takeReset_wasReset h _ _⟩, fun runs => ⟨_, if_pos runs, s.takeReset_wasReset h _ _⟩,
    fun pad snuff due => ⟨_, if_pos ⟨snuff, due⟩, s.takeReset_wasReset h _ _⟩, fun x => ⟨_, rfl, s.takeReset_wasReset h _ _⟩,
    fun on => ?_, fun due => ⟨_, if_pos due, s.takeReset_wasReset h _ _⟩, fun up accepts alone => ?_, fun i v hot cool => ?_,
    powerOnReset_clears h⟩
  · have off : ({ s with clock := { s.clock with refOn := false } } : State).rst.asserted = false := h
    exact ⟨_, if_pos on, State.takeReset_wasReset off _ _, State.takeReset_refOn off _ _⟩
  · refine ⟨_, (if_neg (by simp [up])).trans (if_pos ?_), s.takeReset_wasReset h _ _⟩
    simp [accepts, alone]
  · exact dieTempSample_wasReset h hot cool

end Sys2Proof.Machine
end

section
/-! SUPPORT. O20 and O23 (02 R40 to R54): the pins, the causes and what an accepted MODE_REQUEST does. -/

namespace Sys2Proof.Machine

/-! ### Pins and causes -/

/-- A cause sets its own bit, and nothing else changes. -/
theorem State.setCause_leaves (s : State) (b : Nat) : s.setCause b = { s with regs := (s.setCause b).regs, flagged := (s.setCause b).flagged } :=
  (s.setCause_only b).eq_taking

/-- The input going low is noted with its time, and is a cause from the first configured state on. -/
theorem safeStopAssert_completes {s : State} (high : s.pins.safeStopLow = false) : Completes .safeStopAssert s (fun t =>
    t = { s with regs := t.regs, pins := { s.pins with safeStopLow := true }, flagged := t.flagged } ∧ t.reg Obj.safeStopTime = s.now ∧
    s.regsBut t [Obj.safeStopTime, Obj.snuffCause] ∧
    t.reg Obj.snuffCause = if s.configured then s.reg Obj.snuffCause ||| 1 else s.reg Obj.snuffCause) := by
  let low : State := { s with pins := { s.pins with safeStopLow := true } }
  have noted : Only [.regs, .flagged] low (low.setReg Obj.safeStopTime s.now) := (low.setReg_only _ _).mono (by decide)
  refine ⟨(low.setReg Obj.safeStopTime s.now).setCause Cause.safeStop, if_neg (by simp [high]),
    ((State.setCause_only ..).step (by decide) noted).eq_taking, ?_, ?_, ?_⟩
  · rw [State.setCause_reg _ _ (by decide)]
    exact low.reg_setReg_same _ _
  · exact ((low.setReg Obj.safeStopTime s.now).setCause_regsBut Cause.safeStop).step (low.setReg_regsBut Obj.safeStopTime s.now)
  · rw [State.setCause_snuffCause, State.reg_setReg_other _ _ (by decide)]
    rfl

/-- Settles O20. -/
theorem pinsAndCauses : Obligations.PinsAndCauses := fun s =>
  ⟨safeStopAssert_completes, ⟨_, rfl, rfl⟩,
    ⟨_, rfl, s.setCause_leaves _, s.setCause_regsBut _, s.setCause_snuffCause _⟩,
    fun snuff => ⟨_, if_pos snuff, rfl⟩, fun high => ⟨_, if_pos high, rfl⟩⟩

/-! ### The modes that a request enters -/

/-- With a ring map that is well formed, KINDLE's items run (02 R46). -/
theorem State.enterKindle_runs {s : State} (rings : ringMapOk s.storeLimit (s.dom Obj.ringMap) = true) :
    s.enterKindle.mode = .kindle ∧ s.enterKindle.cal.running = true := by
  unfold State.enterKindle
  extract_lets s1 decided _ _ s2 s3 s4
  have item : Only [.regs] s2 s3 := (State.setReg_only ..).step (by decide) ((State.setReg_only ..).step (by decide) (State.setReg_only ..))
  have pended : Only [.regs] s2 s4 := (State.pendBlocks_only ..).step (by decide) item
  have size : s4.reg Obj.dramSize = s.reg Obj.dramSize := calc
    s4.reg Obj.dramSize = s3.reg Obj.dramSize := by
      simp only [s4, State.pendBlocks]
      rw [State.reg_setReg_other _ _ (by decide), State.reg_setReg_other _ _ (by decide)]
    _ = s2.reg Obj.dramSize := by
      simp only [s3]
      rw [State.reg_setReg_other _ _ (by decide), State.reg_setReg_other _ _ (by decide), State.reg_setReg_other _ _ (by decide)]
    _ = s.reg Obj.dramSize := s.toMode_reg .kindle (by decide) (by decide)
  have doms : s4.doms = s.doms := (pended.agree .doms (by decide)).trans ((s.toMode_only .kindle).agree .doms (by decide))
  have limit : s4.storeLimit = s.storeLimit := congrArg (fun n => 1879048192 * 2 ^ (n - 1) - 512 * 2 ^ 20) size
  have map : s4.dom Obj.ringMap = s.dom Obj.ringMap := congrArg (fun d => Table.get (domDefault Obj.ringMap) d Obj.ringMap) doms
  have kindle : s2.mode = .kindle := s.toMode_mode .kindle
  have runs : s2.cal.running = true := rfl
  rw [if_pos (by rw [limit, map, rings])]
  exact ⟨(pended.agree .mode (by decide)).trans kindle, (congrArg Cal.running (pended.agree .cal (by decide))).trans runs⟩

/-- PILOT releases FAULT_OUT_N and powers the heads (02 R54, R55). -/
theorem State.enterPilot_pins (s : State) : s.enterPilot.pins.faultN = .high ∧ s.enterPilot.pins.headPwr = .high := by
  have power (u : State) : u.raiseHeadPwr.pins.headPwr = .high := by
    unfold State.raiseHeadPwr
    split
    · next high => exact high
    · rfl
  unfold State.enterPilot
  extract_lets s1 _ _ s2
  have powered : s1.pins.headPwr = .high := power _
  have after : Only [.regs, .heads, .igrel, .ylog, .out, .flagged] s2.drivenAlive (s2.drivenAlive.tellState).raiseConflict :=
    (State.raiseConflict_only _).step (by decide) ((State.tellState_only _).mono (by decide))
  rw [after.agree .pins (by decide)]
  exact ⟨rfl, powered⟩

/-- LIT is entered with no page loaded (08 R226). -/
theorem State.enterLit_newest (s : State) : s.enterLit.taper.newest = none := by
  unfold State.enterLit
  extract_lets s1 _ _ _ s2 s3
  have entered : Only [.regs, .mode, .pins, .heads, .igrel, .ylog, .out, .flagged] s2 s3.fireReset.driveFireEn :=
    (State.driveFireEn_only _).step (by decide) ((State.fireReset_only _).step (by decide) ((State.tellState_only _).step (by decide)
      ((State.drivenAlive_only _).step (by decide) ((State.toMode_only ..).mono (by decide)))))
  have fresh : s2.taper.newest = none := rfl
  exact (congrArg Taper.newest (entered.agree .taper (by decide))).trans fresh

/-! ### A request that is accepted -/

theorem State.takeModeRequest_now {s : State} {v : Nat} (h : s.answered = true ∨ s.beginsOnly v = true) :
    s.takeModeRequest v = s.changeMode v := if_pos (by simpa using h)

theorem State.takeModeRequest_waits {s : State} {v : Nat} (h : s.answered = false) (hv : v ≠ 5) (hm : s.mode ≠ .lit) :
    s.takeModeRequest v = { s with rst := { s.rst with modeDue := some v } } := if_neg (by simp [h, State.beginsOnly, hv, hm])

/-- A request that changes nothing at once leaves mode and pins, whether it waits or not. -/
theorem State.takeModeRequest_idle {s : State} {v : Nat} (h : s.changeMode v = s) :
    (s.takeModeRequest v).mode = s.mode ∧ (s.takeModeRequest v).pins = s.pins := by
  unfold State.takeModeRequest
  split
  · rw [h]
    exact ⟨rfl, rfl⟩
  · exact ⟨rfl, rfl⟩

/-- An accepted MODE_REQUEST is taken, and its reply queued (05 R50). -/
theorem State.send_modeRequest {s : State} {h : Hdr} {v : Nat} (ha : s.admits h Obj.modeRequest v) :
    Only [.igrel, .out] ((s.sawPacket h).takeModeRequest v) (s.send h Obj.modeRequest v) :=
  State.send_effect_raw ha (by decide) (findObj_ty_ne (by decide +kernel))

/-- A packet is executed by a configured device alone. -/
theorem State.admits.configured {s : State} {h : Hdr} {key v : Nat} (ha : s.admits h key v) : s.configured = true := by
  obtain ⟨x, r, ⟨hsess, hrec, runs, hheard⟩, hadmit⟩ := ha
  exact ((Bool.and_eq_true ..).mp runs).1

section
variable {s t : State}

theorem takes_kindle (sent : Only [.igrel, .out] (s.takeModeRequest 1) t) (dark : s.mode = .dark) (done : s.answered = true)
    (rings : ringMapOk s.storeLimit (s.dom Obj.ringMap) = true) : t.mode = .kindle ∧ t.cal.running = true := by
  have turn : s.takeModeRequest 1 = s.enterKindle := by
    rw [State.takeModeRequest_now (.inl done)]
    unfold State.changeMode
    rw [dark]
    rfl
  rw [turn] at sent
  rw [sent.agree .mode (by decide), sent.agree .cal (by decide)]
  exact State.enterKindle_runs rings

theorem takes_pilot (sent : Only [.igrel, .out] (s.takeModeRequest 2) t) (hm : s.mode = .snuff ∨ s.mode = .trim) (done : s.answered = true) :
    t.mode = .pilot ∧ t.pins.fireEn = .low ∧ t.pins.faultN = .high ∧ t.pins.headPwr = .high := by
  have turn : s.takeModeRequest 2 = s.enterPilot.sendMode .pilot (s.floorSeq.getD 0) := by
    rw [State.takeModeRequest_now (.inl done)]
    unfold State.changeMode
    obtain hm | hm := hm
    all_goals
      rw [hm]
      rfl
  rw [turn] at sent
  have pilot : Only [.igrel, .out] s.enterPilot t := sent.step (by decide) ((State.sendMode_only ..).mono (by decide))
  rw [pilot.agree .mode (by decide), pilot.agree .pins (by decide)]
  exact ⟨(State.enterPilot_pilot _).1, (State.enterPilot_pilot _).2, State.enterPilot_pins _⟩

theorem takes_stop (sent : Only [.igrel, .out] (s.takeModeRequest 2) t) (lit : s.mode = .lit) :
    t.mode = .lit ∧ t.taper.stopping = true := by
  have begins : s.beginsOnly 2 = true := by simp [State.beginsOnly, lit]
  have turn : s.takeModeRequest 2 = s.stopLit.sendMode .pilot s.firstUnarmed := by
    rw [State.takeModeRequest_now (.inr begins)]
    unfold State.changeMode
    rw [lit]
    rfl
  rw [turn] at sent
  have stopped : Only [.igrel, .out] s.stopLit t := sent.step (by decide) ((State.sendMode_only ..).mono (by decide))
  rw [stopped.agree .mode (by decide), stopped.agree .taper (by decide)]
  exact ⟨((State.stopLit_only _).agree .mode (by decide)).trans lit, State.stopLit_stopping _⟩

theorem takes_trim (sent : Only [.igrel, .out] (s.takeModeRequest 3) t) (pilot : s.mode = .pilot) (done : s.answered = true) :
    t.mode = .trim ∧ t.pins.fireEn = s.pins.fireEn := by
  have turn : s.takeModeRequest 3 = s.enterTrim.sendMode .trim (s.floorSeq.getD 0) := by
    rw [State.takeModeRequest_now (.inl done)]
    unfold State.changeMode
    rw [pilot]
    rfl
  rw [turn] at sent
  have trim : Only [.igrel, .out] s.enterTrim t := sent.step (by decide) ((State.sendMode_only ..).mono (by decide))
  rw [trim.agree .mode (by decide), trim.agree .pins (by decide)]
  exact State.enterTrim_trim _

theorem takes_lit (sent : Only [.igrel, .out] (s.takeModeRequest 4) t) (pilot : s.mode = .pilot) (done : s.answered = true)
    (set : s.dram.setNow = 0) (still : s.dram.change = none) : t.mode = .lit ∧
      t.pins.fireEn = (if s.blockUp Block.taper then .high else .low) ∧ t.taper.priming = true ∧ t.taper.newest = none := by
  have turn : s.takeModeRequest 4 = s.enterLit.sendMode .lit (s.floorSeq.getD 0) := by
    rw [State.takeModeRequest_now (.inl done), ← s.acceptLit_enters set still]
    unfold State.changeMode
    rw [pilot]
    rfl
  rw [turn] at sent
  have lit : Only [.igrel, .out] s.enterLit t := sent.step (by decide) ((State.sendMode_only ..).mono (by decide))
  obtain ⟨mode, fires, primes⟩ := s.enterLit_lit
  rw [lit.agree .mode (by decide), lit.agree .pins (by decide), lit.agree .taper (by decide)]
  exact ⟨mode, fires, primes, State.enterLit_newest _⟩

/-- A change waits while a request before it waits for its answer. -/
theorem takes_waits {v : Nat} (waiting : s.answered = false) (hm : s.mode ≠ .lit) (hv : v ≠ 5)
    (sent : Only [.igrel, .out] (s.takeModeRequest v) t) : t.mode = s.mode ∧ t.pins = s.pins ∧ t.rst.modeDue = some v := by
  rw [State.takeModeRequest_waits waiting hv hm] at sent
  exact ⟨sent.agree .mode (by decide), sent.agree .pins (by decide), congrArg ResetSt.modeDue (sent.agree .rst (by decide))⟩

/-- SNUFF is asked for by its cause; the mode follows with SNUFF_ENTRY (02 R51). -/
theorem takes_snuff (on : s.configured = true) (sent : Only [.igrel, .out] (s.takeModeRequest 5) t) (working : s.mode.working = true) :
    t.mode = s.mode ∧ (t.reg Obj.snuffCause).testBit Cause.request = true := by
  have turn : s.takeModeRequest 5 = s.setCause Cause.request := by
    rw [State.takeModeRequest_now (.inr rfl)]
    unfold State.changeMode
    cases hm : s.mode
    case dark | kindle | snuff => simp [hm, Mode.working] at working
    all_goals rfl
  rw [turn] at sent
  refine ⟨(sent.agree .mode (by decide)).trans ((State.setCause_only ..).agree .mode (by decide)), ?_⟩
  rw [sent.reg (by decide), State.setCause_testBit, on]
  simp

/-- A request for the present mode leaves mode and pins as they are. -/
theorem takes_idle {v : Nat} (sent : Only [.igrel, .out] (s.takeModeRequest v) t) (idle : s.changeMode v = s) :
    t.mode = s.mode ∧ t.pins = s.pins := by
  obtain ⟨mode, pins⟩ := State.takeModeRequest_idle idle
  exact ⟨(sent.agree .mode (by decide)).trans mode, (sent.agree .pins (by decide)).trans pins⟩

theorem State.changeMode_present {s : State} {v : Nat} {m : Mode} (hm : s.mode = m)
    (hv : m = .pilot ∧ v = 2 ∨ m = .trim ∧ v = 3 ∨ m = .lit ∧ v = 4 ∨ m = .snuff ∧ v = 5) : s.changeMode v = s := by
  obtain ⟨rfl, rfl⟩ | ⟨rfl, rfl⟩ | ⟨rfl, rfl⟩ | ⟨rfl, rfl⟩ := hv
  all_goals
    unfold State.changeMode
    rw [hm]
    rfl

end

/-- Settles O23: the request is taken at once or waits (`State.takeModeRequest_now`, `State.takeModeRequest_waits`), and what it enters is
the mode's own entry; the reply touches neither. -/
theorem modeRequestsTurnTheMode : Obligations.ModeRequestsTurnTheMode := by
  intro s h
  have saw : (s.sawPacket h).mode = s.mode := rfl
  have sawPins : (s.sawPacket h).pins = s.pins := rfl
  have waits {v : Nat} (waiting : s.answered = false) (hm : s.mode ≠ .lit) (hv : v ≠ 5) (ha : s.admits h Obj.modeRequest v) :
      (s.send h Obj.modeRequest v).mode = s.mode ∧ (s.send h Obj.modeRequest v).pins = s.pins ∧
        (s.send h Obj.modeRequest v).rst.modeDue = some v := by
    obtain ⟨mode, pins, due⟩ := takes_waits (s := s.sawPacket h) waiting hm hv (State.send_modeRequest ha)
    exact ⟨mode.trans saw, pins.trans sawPins, due⟩
  have present {v : Nat} {m : Mode} (hv : m = .pilot ∧ v = 2 ∨ m = .trim ∧ v = 3 ∨ m = .lit ∧ v = 4 ∨ m = .snuff ∧ v = 5)
      (ha : s.admits h Obj.modeRequest v) (hm : s.mode = m) :
      (s.send h Obj.modeRequest v).mode = m ∧ (s.send h Obj.modeRequest v).pins = s.pins := by
    obtain ⟨mode, pins⟩ := takes_idle (State.send_modeRequest ha) (State.changeMode_present hm hv)
    exact ⟨mode.trans (saw.trans hm), pins.trans sawPins⟩
  refine ⟨fun ha dark done rings => ⟨_, rfl, ?_⟩, fun ha hm done => ⟨_, rfl, ?_⟩, fun ha lit => ⟨_, rfl, ?_⟩,
    fun ha pilot done => ⟨_, rfl, ?_⟩, fun ha pilot done set still => ⟨_, rfl, ?_⟩, fun waiting hm => ?_,
    fun ha working => ⟨_, rfl, ?_⟩, fun ha hm => ⟨_, rfl, ?_⟩, fun ha hm => ⟨_, rfl, ?_⟩, fun ha hm => ⟨_, rfl, ?_⟩,
    fun ha hm => ⟨_, rfl, ?_⟩⟩
  · exact takes_kindle (State.send_modeRequest ha) dark done rings
  · exact takes_pilot (State.send_modeRequest ha) hm done
  · exact takes_stop (State.send_modeRequest ha) lit
  · obtain ⟨trim, fires⟩ := takes_trim (State.send_modeRequest ha) pilot done
    exact ⟨trim, by rw [fires, sawPins]⟩
  · have lit := takes_lit (State.send_modeRequest ha) pilot done set still
    have up : (s.sawPacket h).blockUp Block.taper = s.blockUp Block.taper := rfl
    rwa [up] at lit
  · exact ⟨fun ha => ⟨_, rfl, waits waiting hm (by decide) ha⟩, fun ha => ⟨_, rfl, waits waiting hm (by decide) ha⟩,
      fun ha => ⟨_, rfl, waits waiting hm (by decide) ha⟩, fun ha => ⟨_, rfl, waits waiting hm (by decide) ha⟩⟩
  · obtain ⟨mode, cause⟩ := takes_snuff (s := s.sawPacket h) ha.configured (State.send_modeRequest ha) working
    exact ⟨mode.trans saw, cause⟩
  · exact present (by decide) ha hm
  · exact present (by decide) ha hm
  · exact present (by decide) ha hm
  · exact present (by decide) ha hm

end Sys2Proof.Machine
end

section
/-! SUPPORT. O18 and O19 (02 R44, R53; 10 R243 to R247): what the ending of lines, requests and moves keeps. -/

namespace Sys2Proof.Machine

/-- What ending a line, a request or a move keeps: HEAD_PWR_HOLD as it stands, and no maintenance pattern and no confirmed line where there
was none. -/
structure Ends (s t : State) : Prop where
  hold : t.reg Obj.headPwrHold = s.reg Obj.headPwrHold
  maint : s.taper.maint = none → t.taper.maint = none
  conf : ∀ g, (s.group g).conf = none → (t.group g).conf = none

theorem Ends.refl {s : State} : Ends s s := ⟨rfl, id, fun _ => id⟩

/-- One operation more. -/
theorem Ends.step {s t u : State} (h : Ends t u) (k : Ends s t) : Ends s u :=
  ⟨h.hold.trans k.hold, h.maint ∘ k.maint, fun g => h.conf g ∘ k.conf g⟩

theorem Ends.ite {c : Prop} [Decidable c] {s t u : State} (h : c → Ends s t) (k : ¬c → Ends s u) : Ends s (if c then t else u) := by
  by_cases x : c
  · rw [if_pos x]
    exact h x
  · rw [if_neg x]
    exact k x

theorem Ends.foldl {α : Type} {s u : State} {g : State → α → State} {l : List α} (hg : ∀ t x, Ends t (g t x)) (k : Ends s u) :
    Ends s (l.foldl g u) := by
  induction l generalizing u with
  | nil => exact k
  | cons x t ih => exact ih ((hg u x).step k)

/-- An operation that does not touch the Taper, and leaves the object. -/
theorem Only.ends_of_hold {d : List Fld} {s t : State} (h : Only d s t) (hold : t.reg Obj.headPwrHold = s.reg Obj.headPwrHold)
    (ht : Fld.taper ∉ d := by decide) : Ends s t := by
  have same : t.taper = s.taper := h.agree .taper ht
  exact ⟨hold, fun k => (congrArg Taper.maint same).trans k,
    fun g k => (congrArg (fun x : Taper => (Table.get ({} : Group) x.groups g).conf) same).trans k⟩

/-- An operation that touches neither the Taper nor the objects. -/
theorem Only.ends {d : List Fld} {s t : State} (h : Only d s t) (ht : Fld.taper ∉ d := by decide) (hr : Fld.regs ∉ d := by decide) :
    Ends s t := h.ends_of_hold (h.reg hr _) ht

/-! ### Objects -/

/-- An object of an array that lies above another object. -/
theorem ne_add_of_lt {k n j : Nat} (h : k < n) : k ≠ n + j := (Nat.lt_add_right j h).ne

theorem State.setReg_ends (s : State) {k : Nat} (v : Nat) (hk : Obj.headPwrHold ≠ k) : Ends s (s.setReg k v) :=
  (s.setReg_only k v).ends_of_hold (s.reg_setReg_other v hk)

theorem State.count_ends (s : State) {k : Nat} (n : Nat) (hk : Obj.headPwrHold ≠ k) : Ends s (s.count k n) := s.setReg_ends _ hk

theorem State.bump_ends (s : State) {k : Nat} (hk : Obj.headPwrHold ≠ k) : Ends s (s.bump k) :=
  (s.bump_only k).ends_of_hold (s.reg_bump_other hk)

theorem State.setBits_ends (s : State) {k : Nat} (m : Nat) (hk : Obj.headPwrHold ≠ k) : Ends s (s.setBits k m) :=
  (s.setBits_only k m).ends_of_hold (s.reg_setBits_other m hk)

theorem State.setCause_ends (s : State) (b : Nat) : Ends s (s.setCause b) :=
  (s.setCause_only b).ends_of_hold (s.setCause_reg b (by decide))

theorem State.logEvent_ends (s : State) (code : Nat) (detail : List Byte) : Ends s (s.logEvent code detail) :=
  (s.logEvent_only code detail).ends_of_hold (s.logEvent_reg code detail (by decide))

/-- A group is written with a confirmed line only where it has one. -/
theorem State.setGroup_ends (s : State) (g : Nat) {x : Group} (hx : (s.group g).conf = none → x.conf = none) : Ends s (s.setGroup g x) := by
  refine ⟨rfl, id, fun j hj => ?_⟩
  by_cases h : j = g
  · subst h
    rw [s.group_setGroup_same]
    exact hx hj
  · rw [s.group_setGroup_other x h]
    exact hj

/-! ### Charges and slots -/

theorem State.setLevel_ends (s : State) (p : Nat) (v : Int) : Ends s (s.setLevel p v) := by
  unfold State.setLevel
  extract_lets c v' s1
  have flagged : Ends s s1 := .ite (fun _ => s.setBits_ends _ (by decide)) (fun _ => .refl)
  exact Ends.step (t := s1) ⟨rfl, id, fun _ => id⟩ flagged

theorem State.refundPool_ends (s : State) (p e : Nat) : Ends s (s.refundPool p e) := .ite (fun _ => .refl) (fun _ => State.setLevel_ends ..)

theorem State.refundLine_ends (s : State) (g n : Nat) : Ends s (s.refundLine g n) := by
  unfold State.refundLine
  split
  · exact .refl
  · exact (State.refundPool_ends ..).step ⟨rfl, id, fun _ => id⟩

theorem State.noteHeld_ends (s : State) (k : Nat) : Ends s (s.noteHeld k) :=
  .ite (fun _ => s.setReg_ends _ (ne_add_of_lt (by decide))) (fun _ => .refl)

theorem State.slotState_ends (s : State) (n : Nat) (x : SlotSt) (l : List Nat) : Ends s (s.slotState n x l) := by
  induction l generalizing s with
  | nil => exact .refl
  | cons k l ih => exact (ih _).step ((State.noteHeld_ends ..).step ((State.setSlots_only ..).ends.step (State.modSlot_only ..).ends))

theorem State.dropTentatives_ends (s : State) (f : Nat) (l : List Nat) : Ends s (s.dropTentatives f l) := by
  induction l generalizing s with
  | nil => exact .refl
  | cons k l ih => exact (ih _).step ((State.noteHeld_ends ..).step (State.setSlots_only ..).ends)

theorem State.freeRing_ends (s : State) (k : Nat) : Ends s (s.freeRing k) := by
  unfold State.freeRing
  extract_lets gone bytes creds s1 s2
  refine .ite (fun _ => .refl) (fun _ => ?_)
  have h1 : Ends s s1 := (State.setRing_only ..).ends
  have h2 : Ends s s2 := Ends.step (s1.setReg_ends _ (ne_add_of_lt (by decide))) h1
  exact Ends.step (t := s2) ⟨rfl, id, fun _ => id⟩ h2

theorem State.freeRings_ends (s : State) (l : List Nat) : Ends s (s.freeRings l) := by
  induction l generalizing s with
  | nil => exact .refl
  | cons k l ih => exact (ih _).step (s.freeRing_ends k)

/-! ### The books of a line -/

theorem State.bumpEach_ends (s : State) {f : Nat → Nat} (hf : ∀ k, Obj.headPwrHold ≠ f k) (l : List Nat) : Ends s (s.bumpEach f l) := by
  induction l generalizing s with
  | nil => exact .refl
  | cons k l ih => exact (ih _).step (s.bump_ends (hf k))

theorem State.stripsFired_ends (s : State) (n gen : Nat) (o : WickOut) (l : List Nat) : Ends s (s.stripsFired n gen o l) := by
  have strip (s : State) (k : Nat) : Ends s (s.stripFired n gen o k) := by
    have counted (s : State) (j m : Nat) (hj : Obj.headPwrHold ≠ j) : Ends s (s.count j m) := s.count_ends m hj
    unfold State.stripFired
    extract_lets s1
    have fired : Ends s s1 := s.bump_ends (ne_add_of_lt (by decide))
    split
    · exact fired
    · exact (counted _ _ _ (ne_add_of_lt (by decide))).step ((counted _ _ _ (ne_add_of_lt (by decide))).step
        ((counted _ _ _ (ne_add_of_lt (by decide))).step ((counted _ _ _ (ne_add_of_lt (by decide))).step
        ((counted _ _ _ (ne_add_of_lt (by decide))).step ((counted _ _ _ (ne_add_of_lt (by decide))).step fired)))))
  induction l generalizing s with
  | nil => exact .refl
  | cons k l ih => exact (ih _).step (strip s k)

theorem State.confirmBooks_ends (s : State) (flags : Nat) (lateArm : Bool) : Ends s (s.confirmBooks flags lateArm) := by
  unfold State.confirmBooks
  refine .ite (fun _ => ?_) (fun _ => .refl)
  extract_lets s1 s2 s3
  have h1 : Ends s s1 := s.bump_ends (by decide)
  have h2 : Ends s s2 := .ite (fun _ => (s1.bump_ends (by decide)).step h1) (fun _ => h1)
  have h3 : Ends s s3 := .ite (fun _ => (s2.bump_ends (by decide)).step h2) (fun _ => h2)
  exact .ite (fun _ => (s3.bump_ends (by decide)).step h3) (fun _ => h3)

theorem State.burst_ends (s : State) (g cause seq : Nat) : Ends s (s.burst g cause seq) := by
  unfold State.burst
  refine .ite (fun _ => .refl) (fun _ => ?_)
  extract_lets grp n reached s1 s2
  have h1 : Ends s s1 := s.setGroup_ends g id
  have h2 : Ends s s2 := .ite (fun _ => (s1.setCause_ends _).step h1) (fun _ => h1)
  exact .ite (fun _ => (s2.logEvent_ends ..).step h2) (fun _ => h1)

theorem State.ledgerEntry_ends (s : State) (e : Entry) (total : Option Nat) : Ends s (s.ledgerEntry e total) := by
  unfold State.ledgerEntry
  extract_lets t s1 s2 s3
  have h1 : Ends s s1 := .ite (fun _ => s.bump_ends (by decide)) (fun _ => .refl)
  have h2 : Ends s s2 := (s1.setReg_ends _ (by decide)).step h1
  exact (State.report_only ..).ends.step (Ends.step (t := s2) ⟨rfl, id, fun _ => id⟩ h2)

theorem State.skipBooks_ends (s : State) (x : LineSt) (total : Option Nat) : Ends s (s.skipBooks x total) := by
  unfold State.skipBooks
  extract_lets strips s1 s2 s3 s4 s5 s6
  have h1 : Ends s s1 := State.ledgerEntry_ends ..
  have h2 : Ends s s2 := (s1.bumpEach_ends (fun _ => ne_add_of_lt (by decide)) _).step h1
  have h3 : Ends s s3 := .ite (fun _ => (s2.bump_ends (by decide)).step h2) (fun _ => h2)
  have h4 : Ends s s4 := .ite (fun _ => ((State.setBits_ends _ _ (by decide)).step (s3.bump_ends (by decide))).step h3) (fun _ => h3)
  exact (State.burst_ends ..).step ((State.slotState_ends ..).step ((State.refundLine_ends ..).step h4))

theorem State.fireBooks_ends (s : State) (x : LineSt) : Ends s (s.fireBooks x) := by
  unfold State.fireBooks
  extract_lets strips s1 s2 _ s3
  have h2 : Ends s s2 := (State.slotState_ends ..).step (State.stripsFired_ends ..)
  have h3 : Ends s s3 := Ends.step (s2.setGroup_ends x.group id) h2
  exact Ends.step (t := s3) ⟨rfl, id, fun _ => id⟩ h3

theorem State.logPrinted_ends (s : State) (g : Option Nat) (detail : List Byte) : Ends s (s.logPrinted g detail) := by
  unfold State.logPrinted
  split
  · exact .ite (fun _ => ⟨rfl, id, fun _ => id⟩) (fun _ => s.logEvent_ends ..)
  · exact s.logEvent_ends ..

theorem State.closeEach_ends (s : State) (g : Option Nat) (time : Nat) (l : List Page) : Ends s (s.closeEach g time l) := by
  induction l generalizing s with
  | nil => exact .refl
  | cons p l ih =>
    unfold State.closeEach
    extract_lets _ s1 s2 s3 s4
    have h2 : Ends s s2 := (s1.logPrinted_ends ..).step ⟨rfl, id, fun _ => id⟩
    have h3 : Ends s s3 := (State.report_only ..).ends.step h2
    have h4 : Ends s s4 := .ite (fun _ => (s3.setCause_ends _).step h3) (fun _ => h3)
    exact (ih s4).step h4

theorem State.settle_ends (s : State) (x : LineSt) (lateArm : Bool) (total : Option Nat) : Ends s (s.settle x lateArm total) := by
  unfold State.settle
  extract_lets s1 s2 s3
  have h1 : Ends s s1 := State.confirmBooks_ends ..
  have h2 : Ends s s2 := .ite (fun _ => (s1.fireBooks_ends x).step h1) (fun _ => (s1.skipBooks_ends x total).step h1)
  have h3 : Ends s s3 := (State.pageCount_only ..).ends.step h2
  exact (State.closeEach_ends ..).step ((State.freeRings_ends ..).step h3)

theorem State.passLine_ends (s : State) (x : LineSt) (lateArm : Bool) (own : Own) : Ends s (s.passLine x lateArm own) := by
  unfold State.passLine
  refine .ite (fun _ => (State.holdOwn_only ..).ends) (fun _ => ?_)
  split
  · exact (State.holdOwn_only ..).ends
  · extract_lets s1
    have h1 : Ends s s1 := State.settle_ends ..
    exact .ite (fun _ => Ends.step (t := s1) ⟨rfl, id, fun _ => id⟩ h1) (fun _ => h1)

/-! ### CANCEL and publishes -/

theorem State.noteLead_ends (s : State) (raise : Bool) (g : Nat) : Ends s (s.noteLead raise g) := by
  unfold State.noteLead
  extract_lets old new mark n s1
  have h1 : Ends s s1 := s.setReg_ends _ (ne_add_of_lt (by decide))
  exact .ite (fun _ => (State.logEvent_ends ..).step (Ends.step (s1.setGroup_ends g id) h1)) (fun _ => h1)

theorem State.noteLeads_ends (s : State) (raise : Bool) (l : List Nat) : Ends s (s.noteLeads raise l) := by
  induction l generalizing s with
  | nil => exact .refl
  | cons g l ih => exact (ih _).step (s.noteLead_ends raise g)

theorem State.cancelGroup_ends (s : State) (swap : Option Nat) (g f : Nat) : Ends s (s.cancelGroup swap g f) := by
  unfold State.cancelGroup
  extract_lets strips asked s1 kept _ s2 s3 _ s4
  have h1 : Ends s s1 := .foldl (fun t d => t.refundLine_ends g d.seq) .refl
  have h3 : Ends s s3 := (s2.dropTentatives_ends ..).step (Ends.step (t := s1) ⟨rfl, id, fun _ => id⟩ h1)
  have h4 : Ends s s4 := Ends.step (s3.setGroup_ends g id) h3
  cases swap <;> exact (State.orderRewinds_only ..).ends.step h4

theorem State.cancelGroups_ends (s : State) (swap : Option Nat) (l : List (Nat × Nat)) : Ends s (s.cancelGroups swap l) := by
  induction l generalizing s with
  | nil => exact .refl
  | cons x l ih => exact (ih _).step (s.cancelGroup_ends swap x.1 x.2)

theorem State.cancel_ends (s : State) (swap : Option Nat) (raise : Bool) (l : List (Nat × Nat)) : Ends s (s.cancel swap raise l) := by
  unfold State.cancel
  extract_lets fs s1 s2
  refine .ite (fun _ => .refl) (fun _ => (State.noteLeads_ends ..).step ((s2.bump_ends (by decide)).step ?_))
  exact (State.cancelModules_only ..).ends.step (s.cancelGroups_ends swap fs)

theorem State.swapNow_ends (s : State) : Ends s s.swapNow :=
  (State.logEvent_ends ..).step ((State.setReg_ends _ _ (by decide)).step ⟨rfl, id, fun _ => id⟩)

theorem State.applyPublish_ends (s : State) (recs : List (Nat × Nat)) (line : Nat) (now : Bool) : Ends s (s.applyPublish recs line now) := by
  unfold State.applyPublish
  extract_lets _ s1 s2 s3
  have h2 : Ends s s2 := (State.setReg_ends _ _ (by decide)).step ((s1.bump_ends (by decide)).step ⟨rfl, id, fun _ => id⟩)
  have h3 : Ends s s3 := .ite (fun _ => (State.cancel_ends ..).step h2) (fun _ => h2)
  exact .ite (fun _ => s3.swapNow_ends.step h3) (fun _ => h3)

theorem State.publish_ends (s : State) (recs : List (Nat × Nat)) (reply : Option Deferred) : Ends s (s.publish recs reply) := by
  unfold State.publish
  extract_lets s1 changed _ _ new
  have h1 : Ends s s1 := .ite (fun _ => s.swapNow_ends) (fun _ => .refl)
  refine .ite (fun _ => Ends.step (t := s1) ⟨rfl, id, fun _ => id⟩ h1) (fun _ => .ite (fun _ => (State.finished_only ..).ends.step h1) (fun _ =>
    .ite (fun _ => Ends.step (t := s1) ⟨rfl, id, fun _ => id⟩ h1) (fun _ => ?_)))
  split
  extract_lets s2
  have h2 : Ends s s2 := .ite (fun _ => (State.sendPublish_only ..).ends.step h1) (fun _ => h1)
  exact (State.finished_only ..).ends.step ((State.applyPublish_ends ..).step h2)

/-- The publishes that a role swap has held are made. -/
theorem State.abandonSwap_ends (s : State) : Ends s s.abandonSwap := by
  unfold State.abandonSwap
  split
  · exact .refl
  · exact .foldl (fun t p => t.publish_ends p.1 p.2) ⟨rfl, id, fun _ => id⟩

theorem State.makeAwaited_ends (s : State) : Ends s s.makeAwaited := .foldl (fun t p => t.publish_ends p.1 p.2) ⟨rfl, id, fun _ => id⟩

/-! ### Lines in doubt, and SNUFF at the Taper -/

theorem State.settleDoubt_ends (s : State) (us : List Unsettled) (u : Unsettled) : Ends s (s.settleDoubt us u) := by
  unfold State.settleDoubt
  extract_lets x rest _ s1 grp s2 lateArm s3
  have h1 : Ends s s1 := ⟨rfl, id, fun _ => id⟩
  have h2 : Ends s s2 := by
    simp only [s2]
    split
    · exact .ite (fun _ => (s1.setGroup_ends _ fun _ => rfl).step h1) (fun _ => h1)
    · exact h1
  have h3 : Ends s s3 := .ite (fun _ => (s2.bump_ends (by decide)).step h2) (fun _ => h2)
  exact .ite (fun _ => (State.settle_ends ..).step h3) (fun _ => (State.passLine_ends ..).step h3)

theorem State.settleLines_ends (s : State) (blocked : Bool) (l : List (Nat × Nat)) : Ends s (s.settleLines blocked l) := by
  induction l generalizing s blocked with
  | nil => exact .refl
  | cons y l ih =>
    simp only [State.settleLines]
    split
    · exact ih s blocked
    · exact .ite (fun _ => (ih ..).step (State.settleDoubt_ends ..)) (fun _ => ih ..)

theorem State.recordGroups_ends (s : State) (l : List Nat) : Ends s (s.recordGroups l) := by
  induction l generalizing s with
  | nil => exact .refl
  | cons g l ih =>
    unfold State.recordGroups
    refine .ite (fun _ => (ih _).step (s.setReg_ends _ (ne_add_of_lt (by decide)))) (fun _ => ?_)
    exact (ih _).step ((State.setReg_ends _ _ (ne_add_of_lt (by decide))).step
      ((State.setReg_ends _ _ (ne_add_of_lt (by decide))).step (s.setGroup_ends g id)))

theorem State.recordStop_ends (s : State) : Ends s s.recordStop := (State.setReg_ends _ _ (by decide)).step (State.recordGroups_ends ..)

theorem State.settleAll_ends (s : State) : Ends s s.settleAll := by
  have due (t : State) : Ends t t.recordDue := .ite (fun _ => (State.recordStop_ends _).step ⟨rfl, id, fun _ => id⟩) (fun _ => .refl)
  exact (due _).step (State.settleLines_ends ..)

theorem State.addDoubts_ends (s : State) (l : List Unsettled) : Ends s (s.addDoubts l) := by
  induction l generalizing s with
  | nil => exact .refl
  | cons u l ih => exact (ih _).step (.ite (fun _ => .refl) (fun _ => ⟨rfl, id, fun _ => id⟩))

theorem State.resolveDown_ends (s : State) (l : List Nat) : Ends s (s.resolveDown l) := by
  induction l generalizing s with
  | nil => exact .refl
  | cons m l ih =>
    exact .ite (fun _ => ih s) (fun _ => (ih _).step ⟨rfl, id, fun _ => id⟩)

theorem State.suppressConfs_ends (s : State) (hold : Bool) (l : List Nat) : Ends s (s.suppressConfs hold l) := by
  induction l generalizing s with
  | nil => exact .refl
  | cons g l ih =>
    unfold State.suppressConfs
    split
    · exact ih s
    · have freed (c : Group) (hc : c.conf = none) : Ends s (s.setGroup g c) := s.setGroup_ends g fun _ => hc
      exact .ite (fun _ => (ih _).step ((State.addDoubts_ends ..).step (freed _ rfl)))
        (fun _ => (ih _).step ((State.passLine_ends ..).step (freed _ rfl)))

theorem State.taperSnuff_ends (s : State) (barWide : Bool) : Ends s (s.taperSnuff barWide) := by
  unfold State.taperSnuff
  extract_lets s1 s2 _ s3 s4 s5
  have h2 : Ends s s2 := (s1.resolveDown_ends _).step (State.cancel_ends ..)
  have h3 : Ends s s3 := Ends.step (t := s2) ⟨rfl, id, fun _ => id⟩ h2
  have h5 : Ends s s5 := (s4.suppressConfs_ends ..).step ((s3.settleLines_ends ..).step h3)
  clear_value s5
  exact (State.settleAll_ends _).step (Ends.step (t := s5) ⟨rfl, id, fun _ => id⟩ h5)

/-! ### Requests and moves -/

theorem State.noteQueued_ends (s : State) : Ends s s.noteQueued :=
  (State.setReg_ends _ _ (by decide)).step ((State.setReg_ends _ _ (by decide)).step (s.setReg_ends _ (by decide)))

theorem State.countPools_ends (s : State) {f : Nat → Nat} (hf : ∀ p, Obj.headPwrHold ≠ f p) (l : List (Nat × Nat)) :
    Ends s (s.countPools f l) := by
  induction l generalizing s with
  | nil => exact .refl
  | cons x l ih => exact (ih _).step (s.bump_ends (hf x.1))

theorem State.unqueue_ends (s : State) (n : Nat) : Ends s (s.unqueue n) := (State.noteQueued_ends _).step ⟨rfl, id, fun _ => id⟩

theorem State.refuseEach_ends (s : State) (l : List WickWait) : Ends s (s.refuseEach l) := by
  induction l generalizing s with
  | nil => exact .refl
  | cons w l ih =>
    exact (ih _).step ((State.setBits_ends _ _ (by decide)).step
      ((State.countPools_ends _ (fun _ => ne_add_of_lt (by decide)) _).step (s.unqueue_ends w.id)))

theorem State.withdrawEach_ends (s : State) (l : List WickReq) : Ends s (s.withdrawEach l) := by
  induction l generalizing s with
  | nil => exact .refl
  | cons r l ih => exact (ih _).step ((State.useLeave_only ..).ends.step (.foldl (fun u _ => u.refundPool_ends ..) .refl))

theorem State.endPurge_ends (s : State) : Ends s s.endPurge := (State.noteQueued_ends _).step ⟨rfl, id, fun _ => id⟩

theorem State.wickSnuff_ends (s : State) : Ends s s.wickSnuff :=
  (State.endPurge_ends _).step ((State.withdrawEach_ends ..).step (State.refuseEach_ends ..))

theorem State.onRefusal_ends (s : State) (who : Requester) : Ends s (s.onRefusal who) := by
  unfold State.onRefusal
  split
  · split
    · exact .ite (fun _ => .refl) (fun _ => ⟨rfl, fun _ => rfl, fun _ => id⟩)
    · exact .refl
  · exact .ite (fun _ => (State.bump_ends _ (by decide)).step (State.setAxis_only ..).ends) (fun _ => .refl)
  · exact .ite (fun _ => ⟨rfl, id, fun _ => id⟩) (fun _ => .refl)
  · exact .refl

theorem State.snuffWick_ends (s : State) : Ends s s.snuffWick := .foldl (fun t r => t.onRefusal_ends r.who) s.wickSnuff_ends

theorem State.withdrawMove_ends (s : State) (a : Nat) : Ends s (s.withdrawMove a) := by
  unfold State.withdrawMove
  extract_lets who s1
  have h1 : Ends s s1 := .ite (fun _ => (State.refundPool_ends ..).step (State.useLeave_only ..).ends) (fun _ => .refl)
  exact (State.noteQueued_ends _).step (Ends.step (t := s1) ⟨rfl, id, fun _ => id⟩ h1)

theorem State.stopAxis_ends (s : State) (lost : Bool) (a : Nat) : Ends s (s.stopAxis lost a) := by
  unfold State.stopAxis
  extract_lets x s1
  have h1 : Ends s s1 := .ite (fun _ => s.withdrawMove_ends a) (fun _ => .refl)
  exact (State.setAxis_only ..).ends.step h1

theorem State.stopAxes_ends (s : State) : Ends s s.stopAxes := by
  have each (lost : Bool) (l : List Nat) (s : State) : Ends s (s.stopEach lost l) := by
    induction l generalizing s with
    | nil => exact .refl
    | cons a l ih => exact (ih _).step (s.stopAxis_ends lost a)
  exact .foldl (fun _ _ => each ..) .refl

/-! ### The camera and the strobes -/

theorem State.endFrame_ends (s : State) (p extra : Nat) (pad : Bool) : Ends s (s.endFrame p extra pad) := by
  unfold State.endFrame
  split
  · exact .refl
  · next f _ =>
    extract_lets missing len flags f1 line s1 faults
    have padded : Ends s s1 := .foldl (fun t _ => (t.tapLine_only ..).ends) .refl
    have recorded : Ends s (s1.frameRecord f1).2 := (State.frameRecord_only ..).ends.step padded
    split
    next rec s2 hrec =>
    rw [hrec] at recorded
    extract_lets s3 s4 _ s5
    have h4 : Ends s s4 := (State.count_ends _ _ (ne_add_of_lt (by decide))).step ((State.bump_ends _ (ne_add_of_lt (by decide))).step
      ((State.setDom_only ..).ends.step recorded))
    exact (State.endTap_only ..).ends.step (Ends.step (t := s4) ⟨rfl, id, fun _ => id⟩ h4)

theorem State.lanternSnuff_ends (s : State) : Ends s s.lanternSnuff := by
  unfold State.lanternSnuff
  extract_lets s1
  have h1 : Ends s s1 := (State.endFrame_ends ..).step ((State.endFrame_ends ..).step s.stopTap_only.ends)
  exact (State.ledsLow_only _).ends.step (Ends.step (t := s1) ⟨rfl, id, fun _ => id⟩ h1)

theorem State.logHeld_ends (s : State) (g : Nat) : Ends s (s.logHeld g) := .foldl (fun t x => t.logEvent_ends _ x.2) ⟨rfl, id, fun _ => id⟩

theorem State.dropStrobe_ends (s : State) (g : Nat) : Ends s (s.dropStrobe g) := by
  unfold State.dropStrobe
  extract_lets _ s1
  have h1 : Ends s s1 := Ends.step (s.setGroup_ends g id) .refl
  exact (State.logHeld_ends ..).step (Ends.step (t := s1) ⟨rfl, id, fun _ => id⟩ h1)

theorem State.dropStrobes_ends (s : State) (l : List Nat) : Ends s (s.dropStrobes l) := by
  induction l generalizing s with
  | nil => exact .refl
  | cons g l ih => exact (ih _).step (.ite (fun _ => (State.emit_only ..).ends.step (s.dropStrobe_ends g)) (fun _ => s.dropStrobe_ends g))

theorem State.toMode_ends (s : State) (m : Mode) : Ends s (s.toMode m) :=
  (s.toMode_only m).ends_of_hold (s.toMode_reg m (by decide) (by decide))

end Sys2Proof.Machine
end

section
/-! SUPPORT. O18 (02 R51 to R53; 12 R297): the outputs, the maintenance pattern and the axes at SNUFF entry. -/

namespace Sys2Proof.Machine

/-! ### The axes (20 R440) -/

/-- An axis at rest. -/
def State.atRest (s : State) (a : Nat) : Prop := (s.axis a).act = .rest ∧ (s.axis a).vel = 0

theorem State.atRest_congr {s t : State} (h : t.axes = s.axes) {a : Nat} (k : s.atRest a) : t.atRest a := by
  have same : t.axis a = s.axis a := congrArg (fun x => Table.get ({} : Axis) x a) h
  unfold State.atRest
  rw [same]
  exact k

/-- Stopping an axis brings it to rest, and starts no other. -/
theorem State.stopAxis_atRest (s : State) (lost : Bool) {a b : Nat} (h : s.atRest b ∨ b = a) : (s.stopAxis lost a).atRest b := by
  unfold State.stopAxis
  extract_lets x s1
  have same : s1.axes = s.axes := by
    simp only [s1]
    split
    · exact (s.withdrawMove_only a).agree .axes (by decide)
    · rfl
  clear_value s1
  unfold State.atRest
  by_cases hb : b = a
  · subst hb
    rw [State.axis_setAxis_same]
    exact ⟨rfl, rfl⟩
  · simp only [State.axis, State.setAxis, Table.get_put_other _ _ _ hb]
    exact State.atRest_congr same (h.resolve_right hb)

theorem State.stopEach_atRest (s : State) (lost : Bool) {b : Nat} (l : List Nat) (h : s.atRest b ∨ b ∈ l) : (s.stopEach lost l).atRest b := by
  induction l generalizing s with
  | nil => exact h.resolve_right (List.not_mem_nil)
  | cons a l ih =>
    refine ih _ ?_
    obtain rest | hb := h
    · exact .inl (s.stopAxis_atRest lost (.inl rest))
    · obtain rfl | hb := List.mem_cons.mp hb
      · exact .inl (s.stopAxis_atRest lost (.inr rfl))
      · exact .inr hb

/-- An axis belongs to the pair that stops with it. -/
theorem State.mem_pair (s : State) {a : Nat} : a ∈ s.pair a := by
  unfold State.pair
  split
  · next linked =>
    have low : a < 2 := by simpa using ((Bool.and_eq_true ..).mp linked).2
    interval_cases a <;> decide
  · exact List.mem_singleton_self a

theorem State.stopPairs_atRest (s : State) {b : Nat} (l : List Nat) (h : s.atRest b ∨ b ∈ l) : (l.foldl State.stopPair s).atRest b := by
  induction l generalizing s with
  | nil => exact h.resolve_right (List.not_mem_nil)
  | cons a l ih =>
    refine ih _ ?_
    obtain rest | hb := h
    · exact .inl (s.stopEach_atRest _ _ (.inl rest))
    · obtain rfl | hb := List.mem_cons.mp hb
      · exact .inl (s.stopEach_atRest _ _ (.inr s.mem_pair))
      · exact .inr hb

/-! ### The pins (02 R53, R55) -/

/-- A strobe output that is dropped is low, and none is raised. -/
theorem State.dropStrobes_low (s : State) (l : List Nat) {g : Nat} (h : g ∉ s.pins.strobesHigh ∨ g ∈ l) :
    g ∉ (s.dropStrobes l).pins.strobesHigh := by
  induction l generalizing s with
  | nil => exact h.resolve_right (List.not_mem_nil)
  | cons k l ih =>
    unfold State.dropStrobes
    extract_lets high s1
    have dropped : s1.pins.strobesHigh = s.pins.strobesHigh.filter (· ≠ k) :=
      congrArg Pins.strobesHigh ((State.logHeld_only _ k).agree .pins (by decide))
    have emitted : (if high then s1.emit (.strobeEnd k) else s1).pins = s1.pins := by
      split <;> rfl
    refine ih _ ?_
    rw [emitted, dropped, List.mem_filter]
    obtain low | hg := h
    · exact .inl fun up => low up.1
    · obtain rfl | hg := List.mem_cons.mp hg
      · exact .inl fun up => by simpa using up.2
      · exact .inr hg

/-- What the pins of a device in SNUFF are: nothing fires, and the heads' supply falls with no hold. -/
structure State.SafePins (s t : State) : Prop where
  fireEn : t.pins.fireEn = .low
  faultN : t.pins.faultN = .low
  aliveOut : t.pins.aliveOut = .low
  strobes : ∀ g, g < 8 → g ∉ t.pins.strobesHigh
  headPwr : s.reg Obj.headPwrHold = 0 → t.pins.headPwr = .low

/-- Only the pins and HEAD_PWR_HOLD say whether the pins are those of SNUFF. -/
theorem State.SafePins.congr {s s' t u : State} (h : s'.SafePins t) (pins : u.pins = t.pins)
    (hold : s'.reg Obj.headPwrHold = s.reg Obj.headPwrHold) : s.SafePins u := by
  obtain ⟨fireEn, faultN, aliveOut, strobes, headPwr⟩ := h
  rw [← pins] at fireEn faultN aliveOut strobes headPwr
  exact ⟨fireEn, faultN, aliveOut, strobes, fun unheld => headPwr (hold.trans unheld)⟩

theorem State.snuffPins_safe (s : State) : s.SafePins s.snuffPins := by
  unfold State.snuffPins
  have hold := (s.dropStrobes_ends (List.range 8)).hold
  have strobes (g : Nat) (hg : g < 8) : g ∉ (s.dropStrobes (List.range 8)).pins.strobesHigh :=
    s.dropStrobes_low _ (.inr (List.mem_range.mpr hg))
  generalize s.dropStrobes (List.range 8) = u at hold strobes
  unfold State.lowPins
  extract_lets _ low
  by_cases held : u.reg Obj.headPwrHold = 0
  · rw [if_pos held]
    exact ⟨rfl, rfl, rfl, strobes, fun _ => rfl⟩
  · rw [if_neg held]
    exact ⟨rfl, rfl, rfl, strobes, fun h => absurd (hold.trans h) held⟩

theorem State.snuffPins_ends (s : State) : Ends s s.snuffPins := (State.lowPins_only _).ends.step (s.dropStrobes_ends _)

/-! ### SNUFF entry (02 R53) -/

theorem State.snuffUnits_maint (s : State) : s.snuffUnits.taper.maint = none := by
  unfold State.snuffUnits
  extract_lets _ _ _ s1
  have cleared : s1.taper.maint = none := rfl
  exact ((State.lanternSnuff_ends _).step ((State.stopAxes_ends _).step s1.snuffWick_ends)).maint cleared

theorem State.snuffUnits_hold (s : State) : s.snuffUnits.reg Obj.headPwrHold = s.reg Obj.headPwrHold := by
  unfold State.snuffUnits
  extract_lets _ _ _ s1
  exact ((State.lanternSnuff_ends _).step ((State.stopAxes_ends _).step s1.snuffWick_ends)).hold

theorem State.snuffUnits_atRest (s : State) {a : Nat} (ha : a < 4) : s.snuffUnits.atRest a := by
  unfold State.snuffUnits
  extract_lets _ _ _ s1
  have listed : a ∈ [0, 1, 2, 3] := by interval_cases a <;> decide
  exact State.atRest_congr ((State.lanternSnuff_only _).agree .axes (by decide)) (s1.snuffWick.stopPairs_atRest _ (.inr listed))

theorem State.loopSnuff_ends (s : State) : Ends s s.loopSnuff := by
  have safe (t : State) (i : Nat) : Ends t (t.goSafe i) :=
    (State.actuate_only ..).ends.step ((State.setLoop_only ..).ends.step (t.setReg_ends _ (ne_add_of_lt (by decide))))
  exact .ite (fun _ => .refl) (fun _ => .foldl (fun t i => .ite (fun _ => safe t i) (fun _ => .refl)) .refl)

/-- What follows the pins at SNUFF entry: the mode, the modules' state, and the publishes that waited. -/
theorem State.enterSnuff_splits (s : State) (bar : Bool) : ∃ u v : State, Ends s u ∧ v = u.snuffUnits.snuffPins ∧
    Only [.regs, .igrel, .decomp, .slots, .health, .taper, .twin, .wick, .ylog, .out, .flagged, .heads, .loops, .spi]
      (v.toMode .snuff) (s.enterSnuff bar) ∧ Ends v (s.enterSnuff bar) := by
  unfold State.enterSnuff
  extract_lets s1 s2 s3 s4
  have h1 : Ends s s1 := .ite (fun _ => (State.twinSend_only ..).ends) (fun _ => .refl)
  have h2 : Ends s s2 := .ite (fun _ => (s1.taperSnuff_ends bar).step h1) (fun _ => h1)
  have looped : Ends (s3.toMode .snuff) s4 := State.loopSnuff_ends _
  refine ⟨s2, s3, h2, rfl, ?_, ?_⟩
  · exact (State.abandonJoin_only _).step (by decide) ((State.makeAwaited_only _).step (by decide) ((State.abandonSwap_only _).step (by decide)
      ((State.tellState_only _).step (by decide) ((State.loopSnuff_only _).mono (by decide)))))
  · have joined (t : State) : Ends t t.abandonJoin := by
      unfold State.abandonJoin
      split
      · exact ⟨rfl, id, fun _ => id⟩
      · exact (State.setReg_ends _ _ (by decide)).step ⟨rfl, id, fun _ => id⟩
    exact (joined _).step ((State.makeAwaited_ends _).step ((State.abandonSwap_ends _).step ((State.tellState_only _).ends.step
      (looped.step (State.toMode_ends ..)))))

/-- What a device that has entered SNUFF from `s` is: its outputs safe, its moves ended, and its fuses and settings as they were. -/
structure State.Snuffed (s t : State) : Prop extends s.SafePins t where
  mode : t.mode = .snuff
  maint : t.taper.maint = none
  axes : ∀ a, a < 4 → t.atRest a
  fuses : t.fuses = s.fuses
  flash : t.flash = s.flash

theorem State.enterSnuff_snuffed (s : State) (bar : Bool) : s.Snuffed (s.enterSnuff bar) := by
  have fuses := (s.enterSnuff_only bar).agree .fuses (by decide)
  have flash := (s.enterSnuff_only bar).agree .flash (by decide)
  obtain ⟨u, v, before, hv, after, ends⟩ := s.enterSnuff_splits bar
  generalize s.enterSnuff bar = t at fuses flash after ends
  have entered : Only [.regs, .mode, .igrel, .decomp, .slots, .health, .taper, .twin, .wick, .ylog, .out, .flagged, .heads, .loops, .spi]
      v t := after.step (by decide) ((State.toMode_only ..).mono (by decide))
  have safe : u.snuffUnits.SafePins v := hv ▸ u.snuffUnits.snuffPins_safe
  have maint : v.taper.maint = none := hv ▸ u.snuffUnits.snuffPins_ends.maint u.snuffUnits_maint
  have rest (a : Nat) (ha : a < 4) : v.atRest a := by
    rw [hv]
    exact State.atRest_congr ((State.snuffPins_only _).agree .axes (by decide)) (u.snuffUnits_atRest ha)
  refine ⟨safe.congr (entered.agree .pins (by decide)) (u.snuffUnits_hold.trans before.hold), ?_, ends.maint maint,
    fun a ha => State.atRest_congr (entered.agree .axes (by decide)) (rest a ha), fuses, flash⟩
  rw [after.agree .mode (by decide), State.toMode_mode]

/-- Settles O18: SNUFF_ENTRY and SNUFF_ALL enter SNUFF by `State.enterSnuff`, where the causes let them. -/
theorem snuffEntryMakesTheDeviceSafe : Obligations.SnuffEntryMakesTheDeviceSafe := by
  intro s working
  have safe {u t : State} (hold : u.reg Obj.headPwrHold = s.reg Obj.headPwrHold) (fuses : u.fuses = s.fuses) (flash : u.flash = s.flash)
      (h : u.Snuffed t) : t.mode = .snuff ∧ t.pins.fireEn = .low ∧ t.pins.faultN = .low ∧ t.pins.aliveOut = .low ∧
      (∀ g, g < 8 → g ∉ t.pins.strobesHigh) ∧ (s.reg Obj.headPwrHold = 0 → t.pins.headPwr = .low) ∧ t.taper.maint = none ∧
      (∀ a, a < 4 → (t.axis a).act = .rest ∧ (t.axis a).vel = 0) ∧ t.fuses = s.fuses ∧ t.flash = s.flash :=
    ⟨h.mode, h.fireEn, h.faultN, h.aliveOut, h.strobes, fun unheld => h.headPwr (hold.trans unheld), h.maint, h.axes, h.fuses.trans fuses,
      h.flash.trans flash⟩
  refine ⟨fun cause free => ⟨s.enterSnuff s.barWide, ?_, safe rfl rfl rfl (s.enterSnuff_snuffed _)⟩, fun causes up mate =>
    ⟨(s.setBits Obj.snuffCause (causes % 2 ^ 13)).enterSnuff true, ?_, safe (s.reg_setBits_other _ (by decide)) rfl rfl
      (State.enterSnuff_snuffed _ _)⟩⟩
  · exact if_pos (by simpa [working, cause] using free)
  · exact if_pos (by simp [up, mate, working])

end Sys2Proof.Machine
end

section
/-! SUPPORT. O19 (02 R44, R48, R51; 10 R240): the end of a stop, a suppressed line, and the end of KINDLE. -/

namespace Sys2Proof.Machine

/-! ### The values of R44 -/

/-- What is recorded of one group: its first line that has neither fired nor been entered. -/
def State.recordGroup (s : State) (g : Nat) : State :=
  if (s.liveModules g).isEmpty then s.setReg (Obj.stopSeqGroup g) 0
  else ((s.setGroup g { s.group g with first := s.passedTo g, nextReq := s.passedTo g }).setReg (Obj.nextArmSeq g) (s.passedTo g)).setReg
    (Obj.stopSeqGroup g) (s.passedTo g)

theorem State.recordGroups_cons (s : State) (g : Nat) (l : List Nat) : s.recordGroups (g :: l) = (s.recordGroup g).recordGroups l := by
  unfold State.recordGroup
  simp only [State.recordGroups]
  split <;> rfl

/-- Of the objects, a group's record writes the group's own two. -/
theorem State.recordGroup_regsBut (s : State) (g : Nat) : s.regsBut (s.recordGroup g) [Obj.nextArmSeq g, Obj.stopSeqGroup g] := by
  unfold State.recordGroup
  split
  · exact (s.setReg_regsBut _ _).mono
  · exact (State.setReg_regsBut _ (Obj.stopSeqGroup g) _).step (State.setReg_regsBut _ (Obj.nextArmSeq g) _)

/-- With no line of the group confirmed or in doubt, that is its next line to arm. -/
theorem State.passedTo_settled {s : State} {g : Nat} (settled : s.taper.unsettled = []) (conf : (s.group g).conf = none) :
    s.passedTo g = s.reg (Obj.nextArmSeq g) := by
  simp [State.passedTo, settled, conf]

theorem State.recordGroup_value {s : State} {g : Nat} (settled : s.taper.unsettled = []) (conf : (s.group g).conf = none) :
    (s.recordGroup g).reg (Obj.stopSeqGroup g) = if s.liveModules g = [] then 0 else s.reg (Obj.nextArmSeq g) := by
  unfold State.recordGroup
  by_cases live : s.liveModules g = []
  · rw [if_pos (by simp [live]), if_pos live, State.reg_setReg_same]
  · rw [if_neg (by simp [live]), if_neg live, State.reg_setReg_same, State.passedTo_settled settled conf]

/-- A group's record leaves the other groups. -/
theorem State.recordGroup_other {s : State} {g k : Nat} (h : k ≠ g) :
    (s.recordGroup g).group k = s.group k ∧ (s.recordGroup g).taper.unsettled = s.taper.unsettled := by
  unfold State.recordGroup
  split
  · exact ⟨rfl, rfl⟩
  · exact ⟨s.group_setGroup_other _ h, rfl⟩

/-- The groups' record writes no object but the two of each group. -/
theorem State.recordGroups_reg (s : State) {k : Nat} (l : List Nat) (h : ∀ g ∈ l, k ≠ Obj.nextArmSeq g ∧ k ≠ Obj.stopSeqGroup g) :
    (s.recordGroups l).reg k = s.reg k := by
  induction l generalizing s with
  | nil => rfl
  | cons g l ih =>
    obtain ⟨arm, stop⟩ := h g List.mem_cons_self
    rw [State.recordGroups_cons, ih _ (fun j hj => h j (List.mem_cons_of_mem _ hj)), s.recordGroup_regsBut g k (by simp [arm, stop])]

/-- The modules fitted are those that POPULATED names, which no record touches. -/
theorem State.recordGroup_liveModules (s : State) {g : Nat} (hg : g < 8) (j : Nat) : (s.recordGroup g).liveModules j = s.liveModules j := by
  have populated (m : Nat) : (s.recordGroup g).populated m = s.populated m := by
    have away : Obj.populated m ∉ [Obj.nextArmSeq g, Obj.stopSeqGroup g] := by
      simp only [List.mem_cons, List.not_mem_nil, or_false, Obj.populated, Obj.nextArmSeq, Obj.stopSeqGroup]
      omega
    exact congrArg (fun v => decide (v = 1)) (s.recordGroup_regsBut g _ away)
  exact List.filter_congr fun m _ => populated m

/-- With every line settled, each group's value is its next line to arm, or 0 where it has no module (02 R44). -/
theorem State.recordGroups_values {s : State} {l : List Nat} (once : l.Nodup) (low : ∀ g ∈ l, g < 8) (settled : s.taper.unsettled = [])
    (conf : ∀ g ∈ l, (s.group g).conf = none) {g : Nat} (hg : g ∈ l) :
    (s.recordGroups l).reg (Obj.stopSeqGroup g) = if s.liveModules g = [] then 0 else s.reg (Obj.nextArmSeq g) := by
  induction l generalizing s with
  | nil => cases hg
  | cons k l ih =>
    obtain ⟨fresh, once⟩ := List.nodup_cons.mp once
    have hk := low k List.mem_cons_self
    have below (j : Nat) (hj : j ∈ l) : j < 8 := low j (List.mem_cons_of_mem _ hj)
    rw [State.recordGroups_cons]
    obtain rfl | hg := List.mem_cons.mp hg
    · rw [State.recordGroups_reg _ l, State.recordGroup_value settled (conf g List.mem_cons_self)]
      intro j hj
      have apart : j ≠ g := fun h => fresh (h ▸ hj)
      have := below j hj
      simp only [Obj.nextArmSeq, Obj.stopSeqGroup]
      omega
    · have other (j : Nat) (hj : j ∈ l) : j ≠ k := fun h => fresh (h ▸ hj)
      have later := ih (s := s.recordGroup k) once below ((State.recordGroup_other (other g hg)).2.trans settled)
        (fun j hj => by rw [(State.recordGroup_other (other j hj)).1]; exact conf j (List.mem_cons_of_mem _ hj)) hg
      have away : Obj.nextArmSeq g ∉ [Obj.nextArmSeq k, Obj.stopSeqGroup k] := by
        have := other g hg
        simp only [List.mem_cons, List.not_mem_nil, or_false, Obj.nextArmSeq, Obj.stopSeqGroup]
        omega
      rw [later, s.recordGroup_liveModules hk, s.recordGroup_regsBut k _ away]

/-- The record leaves the stop. -/
theorem State.recordStop_stopping (s : State) : s.recordStop.taper.stopping = s.taper.stopping := by
  have groups (l : List Nat) (s : State) : (s.recordGroups l).taper.stopping = s.taper.stopping := by
    induction l generalizing s with
    | nil => rfl
    | cons g l ih =>
      rw [State.recordGroups_cons, ih]
      unfold State.recordGroup
      split <;> rfl
  exact groups _ s

/-! ### PILOT -/

/-- The objects that entering PILOT may write. -/
def pilotObjects : List Nat := Obj.joinState :: Obj.modeEntryTime :: Obj.twinEvents :: yilloggerObjects

theorem State.enterPilot_reg (s : State) {k : Nat} (h : k ∉ pilotObjects) : s.enterPilot.reg k = s.reg k := by
  simp only [pilotObjects, List.mem_cons, not_or] at h
  obtain ⟨join, entry, events, log⟩ := h
  have fresh : s.freshJoin.reg k = s.reg k := by
    unfold State.freshJoin
    split
    · exact s.reg_setReg_other _ join
    · rfl
  unfold State.enterPilot
  extract_lets s1 _ _ s2
  have told : s2.drivenAlive.tellState.reg k = s.reg k := calc
    s2.drivenAlive.tellState.reg k = s2.reg k := (State.tellState_only _).reg (by decide) k
    _ = (s.freshJoin.toMode .pilot).reg k := (State.raiseHeadPwr_only _).reg (by decide) k
    _ = s.freshJoin.reg k := State.toMode_reg _ _ log entry
    _ = s.reg k := fresh
  rw [← told]
  unfold State.raiseConflict
  split
  · exact State.twinEvent_reg _ _ _ _ log events
  · rfl

/-- Entering PILOT leaves a stop's progress. -/
theorem State.enterPilot_stopping (s : State) : s.enterPilot.taper.stopping = s.taper.stopping := by
  unfold State.enterPilot
  extract_lets s1 _ _ s2
  have after : Only [.regs, .heads, .igrel, .ylog, .out, .flagged, .pins] s2 (s2.drivenAlive.tellState).raiseConflict :=
    (State.raiseConflict_only _).step (by decide) ((State.tellState_only _).step (by decide) ((State.drivenAlive_only _).mono (by decide)))
  have before : s1.taper = s.taper := ((State.raiseHeadPwr_only _).agree .taper (by decide)).trans
    (((State.toMode_only ..).agree .taper (by decide)).trans (s.freshJoin_only.agree .taper (by decide)))
  rw [after.agree .taper (by decide)]
  have cleared : s2.taper.stopping = s1.taper.stopping := rfl
  exact cleared.trans (congrArg Taper.stopping before)

/-! ### The end of a stop (02 R44) -/

theorem State.endStop_ends {s : State} (settled : s.taper.unsettled = []) (conf : ∀ g, g < 8 → (s.group g).conf = none)
    (swap : s.twin.swap = none) : s.endStop.mode = .pilot ∧ s.endStop.pins.fireEn = .low ∧ s.endStop.taper.stopping = false ∧
      s.endStop.reg Obj.stopSeq = s.floorSeq.getD 0 ∧
      ∀ g, g < 8 → s.endStop.reg (Obj.stopSeqGroup g) = if s.liveModules g = [] then 0 else s.reg (Obj.nextArmSeq g) := by
  unfold State.endStop
  extract_lets _ s1
  have recorded : s1.recordStop.abandonSwap = s1.recordStop := by
    have unswapped : s1.recordStop.twin.swap = none := (congrArg Twin.swap (s1.recordStop_only.agree .twin (by decide))).trans swap
    unfold State.abandonSwap
    rw [unswapped]
  have join (k : Nat) (hk : k ∉ pilotObjects) : s1.recordStop.abandonJoin.enterPilot.reg k = s1.recordStop.reg k := by
    rw [State.enterPilot_reg _ hk]
    unfold State.abandonJoin
    split
    · rfl
    · exact State.reg_setReg_other _ _ (fun h => hk (h ▸ List.mem_cons_self))
  have stopping : s1.recordStop.abandonJoin.taper.stopping = false := by
    rw [(State.abandonJoin_only _).agree .taper (by decide), State.recordStop_stopping]
  rw [recorded]
  refine ⟨(State.enterPilot_pilot _).1, (State.enterPilot_pilot _).2, ?_, ?_, fun g hg => ?_⟩
  · exact (State.enterPilot_stopping _).trans stopping
  · rw [join _ (by decide)]
    exact State.reg_setReg_same ..
  · have away : Obj.stopSeqGroup g ∉ pilotObjects := by
      interval_cases g <;> decide
    have stop : Obj.stopSeqGroup g ≠ Obj.stopSeq := by
      simp only [Obj.stopSeqGroup, Obj.stopSeq]
      omega
    rw [join _ away]
    exact (State.reg_setReg_other _ _ stop).trans (State.recordGroups_values (s := s1) List.nodup_range
      (fun j hj => List.mem_range.mp hj) settled (fun j hj => conf j (List.mem_range.mp hj)) (List.mem_range.mpr hg))

theorem litStopComplete_completes {s : State} (lit : s.mode = .lit) (stopping : s.taper.stopping = true) (settled : s.taper.unsettled = [])
    (conf : ∀ g, g < 8 → (s.group g).conf = none) (swap : s.twin.swap = none) (done : s.answered = true) :
    Completes .litStopComplete s (fun t => t.mode = .pilot ∧ t.pins.fireEn = .low ∧ t.taper.stopping = false ∧
      t.reg Obj.stopSeq = s.floorSeq.getD 0 ∧
      ∀ g, g < 8 → t.reg (Obj.stopSeqGroup g) = if s.liveModules g = [] then 0 else s.reg (Obj.nextArmSeq g)) := by
  have unconfirmed : (List.range 8).all (fun g => (s.group g).conf.isNone) = true := by
    simp only [List.all_eq_true, List.mem_range]
    exact fun g hg => by rw [conf g hg]; rfl
  exact ⟨s.endStop, if_pos ⟨lit, stopping, done, settled, unconfirmed⟩, State.endStop_ends settled conf swap⟩

/-! ### A suppressed line (10 R240) -/

/-- On a SOLO that has nothing over from a promotion, a line that has passed enters the books at once. -/
theorem State.passLine_solo {s : State} (role : s.role = .solo) (swap : s.twin.swap = none) (early : s.twin.early = []) (x : LineSt)
    (lateArm : Bool) (own : Own) : s.passLine x lateArm own = s.settle x lateArm none := by
  have solo : s.roleFor x.seq = .solo := by
    unfold State.roleFor
    rw [swap]
    exact role
  unfold State.passLine
  rw [if_neg (by simp [early]), solo]
  exact if_neg (by decide)

/-- A confirmed line that has not fired is entered as confirmed, at the present time. -/
theorem State.confLine_entry (s : State) (g : Nat) (c : Conf) (cause strip : Nat) : (s.confLine g c 1 cause strip).entry =
    { seq := c.seq, page := c.page, group := g, cause := cause, strip := strip, confirmed := true, time := s.now } := by
  have odd : (1 + 2 * flag c.late + 4 * flag c.locked).testBit 0 = true := by
    rw [Nat.testBit_zero, decide_eq_true_eq]
    omega
  unfold LineSt.entry State.confLine
  rw [odd]
  cases c.edge <;> rfl

theorem stopSuppressTimeout_completes {s : State} {g : Fin 8} {c : Conf} (stopping : s.taper.stopping = true)
    (confirmed : (s.group g).conf = some c) (settled : s.taper.unsettled = []) (role : s.role = .solo) (swap : s.twin.swap = none)
    (early : s.twin.early = []) : Completes (.stopSuppressTimeout g) s (fun t => (t.group g).conf = none ∧ t.taper.ledger.head? = some
      { seq := c.seq, page := c.page, group := g, cause := 6, strip := 255, confirmed := true, time := s.now }) := by
  let u := s.setGroup g { s.group g with conf := none }
  have cleared : (u.group g).conf = none := congrArg Group.conf (s.group_setGroup_same g _)
  have clear : u.doubts g c.seq = [] := by
    show s.taper.unsettled.filter _ = []
    rw [settled]
    rfl
  have runs : exec (.stopSuppressTimeout g) s = .next (u.skipConf g c 6 255) := by
    show execStopSuppressTimeout g s = _
    unfold execStopSuppressTimeout
    rw [if_pos stopping, confirmed]
    exact if_pos clear
  refine ⟨_, runs, (State.passLine_ends ..).conf g cleared, ?_⟩
  unfold State.skipConf
  rw [State.passLine_solo (s := u) role swap early, u.settle_ledger rfl, u.confLine_entry]
  rfl

/-! ### The end of KINDLE (02 R48, R51) -/

theorem kindleEnd_completes {s : State} (done : s.kindleDone = true) : Completes .kindleEnd s (fun t =>
    t.mode = (if s.hasCause then .snuff else .pilot) ∧ t.pins.fireEn = .low ∧
      t.flash.kindleLast = s.now ∧ (s.hasCause = false → t.reg Obj.fsiMin = s.reg Obj.fsiKindle)) := by
  let u := (s.setItem 3 1).countKindle
  have last : u.flash.kindleLast = s.now := rfl
  have reg {k : Nat} (hk : k ≠ Obj.fsiMin) (item : k ≠ Obj.calResult) : u.reg k = s.reg k :=
    (State.reg_setReg_other (s.setItem 3 1) _ hk).trans (s.reg_setReg_other _ item)
  have least : u.reg Obj.fsiMin = s.reg Obj.fsiKindle :=
    ((s.setItem 3 1).reg_setReg_same _ _).trans (s.reg_setReg_other _ (by decide))
  have cause : u.hasCause = s.hasCause := congrArg (fun v => decide (v ≠ 0)) (reg (by decide) (by decide))
  have failed : u.countKindleFail.flash.kindleLast = s.now := last
  have runs : exec .kindleEnd s = .next (if u.hasCause then u.countKindleFail.enterSnuff false else u.enterPilot) := if_pos done
  clear_value u
  rw [cause] at runs
  by_cases snuffs : s.hasCause = true
  · rw [if_pos snuffs] at runs
    have snuffed := u.countKindleFail.enterSnuff_snuffed false
    exact ⟨_, runs, snuffed.mode.trans (if_pos snuffs).symm, snuffed.fireEn, (congrArg Flash.kindleLast snuffed.flash).trans failed,
      fun clear => absurd snuffs (by simp [clear])⟩
  · rw [if_neg snuffs] at runs
    obtain ⟨mode, fireEn⟩ := u.enterPilot_pilot
    have kept := congrArg Flash.kindleLast (u.enterPilot_only.agree .flash (by decide))
    exact ⟨_, runs, mode.trans (if_neg snuffs).symm, fireEn, kept.trans last, fun _ => (u.enterPilot_reg (by decide)).trans least⟩

/-- Settles O19. -/
theorem stopsEndInPilot : Obligations.StopsEndInPilot := fun _ =>
  ⟨litStopComplete_completes, fun _ _ => stopSuppressTimeout_completes, kindleEnd_completes⟩

end Sys2Proof.Machine
end

section
/-! SUPPORT. O14 (03 R63, R64): a source that joins an asserted reset, and a TWIN request that is ignored. -/

namespace Sys2Proof.Machine

/-- A source that joins an asserted reset is marked, and that is all it does (03 R63). -/
theorem State.takeReset_joins {s : State} (asserted : s.rst.asserted = true) (b sub : Nat) : s.takeReset b sub = s.markSource b sub :=
  if_pos asserted

theorem State.markSource_eq (s : State) (b sub : Nat) :
    s.markSource b sub = { s with regs := (s.markSource b sub).regs, rst := (s.markSource b sub).rst, flagged := (s.markSource b sub).flagged } :=
  (s.markSource_only b sub).eq_taking

theorem State.markSource_regsBut (s : State) (b sub : Nat) : s.regsBut (s.markSource b sub) [Obj.resetCause, Obj.resetDetail] := by
  intro k hk
  simp only [List.mem_cons, List.not_mem_nil, or_false, not_or] at hk
  rw [State.markSource_reg, if_neg hk.2, if_neg hk.1]

theorem pinReset_joins {s : State} (asserted : s.rst.asserted = true) : Completes .pinReset s (fun t =>
    t = { s with regs := t.regs, rst := t.rst, flagged := t.flagged } ∧ t.rst.asserted = true ∧
      t.reg Obj.resetCause = s.reg Obj.resetCause ||| 2 ∧ t.reg Obj.resetDetail = 1 ∧ s.regsBut t [Obj.resetCause, Obj.resetDetail]) :=
  ⟨s.markSource Src_.pin 0, congrArg ok (s.takeReset_joins asserted _ _), s.markSource_eq _ _, asserted,
    s.markSource_reg Src_.pin 0 Obj.resetCause, s.markSource_reg Src_.pin 0 Obj.resetDetail, s.markSource_regsBut _ _⟩

theorem twinResetRequest_ignored {s : State} (up : s.twinUp = true) (refuses : s.isSet Obj.twinResetAccept = false ∨ s.soleSource = true) :
    Completes .twinResetRequest s (fun t =>
      t.mode = s.mode ∧ t.rst = s.rst ∧ s.logs t Ev.twinResetIgnored [] ∧ s.regsBut t yilloggerObjects) := by
  have declines : ¬ (s.isSet Obj.twinResetAccept && !s.soleSource) = true := by
    obtain accept | sole := refuses
    · simp [accept]
    · simp [sole]
  have frame := s.logEvent_only Ev.twinResetIgnored []
  exact ⟨_, (if_neg (by simp [up])).trans (if_neg declines), frame.agree .mode (by decide), frame.agree .rst (by decide),
    State.logEvent_logs .refl rfl .., s.logEvent_regsBut _ _⟩

/-- Settles O14. -/
theorem resetSourcesJoinWhileAsserted : Obligations.ResetSourcesJoinWhileAsserted := fun _ =>
  ⟨pinReset_joins, twinResetRequest_ignored⟩

end Sys2Proof.Machine
end

section
/-! SUPPORT. O15 (03, release order; R63, R75 to R78; 04 R86, R94, R95): the release of a reset, and the boot up to the firmware. -/

namespace Sys2Proof.Machine

/-! ### The end of a reset (03 R63) -/

theorem resetRelease_completes {s : State} (roles : List Nat) (testEn : Bool) (asserted : s.rst.asserted = true)
    (cool : s.rst.active.contains Src_.therm = false) : Completes (.resetRelease roles testEn) s (fun t => t.rst.asserted = false ∧
      t.rst.stage = .released ∧ t.clock.refOn = true ∧ t.fuses.latched = s.fuses.blown ∧ t.role = strapRole roles ∧
      t.strapped = strapRole roles ∧ t.rst.held = (testEn || decide (strapRole roles = .invalid)) ∧ t.mode = s.mode ∧ t.regs = s.regs) :=
  ⟨_, if_neg (by rw [asserted, cool]; simp), rfl, rfl, rfl, rfl, rfl, rfl, rfl, rfl, rfl⟩

/-! ### The firmware (03 R75 to R77) -/

theorem State.startFirmware_starts (s : State) (slot status : Nat) (img : List Byte) :
    s.regsBut (s.startFirmware slot status img) [Obj.bootStatus, Obj.fwVersion] ∧ (s.startFirmware slot status img).rst.stage = .firmware ∧
      (s.startFirmware slot status img).reg Obj.bootStatus = slot + status ∧
      (s.startFirmware slot status img).reg Obj.fwVersion = field img 12 4 := by
  let u := s.setReg Obj.bootStatus (slot + status)
  have started : u.reg Obj.bootStatus = slot + status := s.reg_setReg_same _ _
  have version : (u.setReg Obj.fwVersion (field img 12 4)).reg Obj.fwVersion = field img 12 4 := u.reg_setReg_same _ _
  exact ⟨(u.setReg_regsBut Obj.fwVersion _).step (s.setReg_regsBut Obj.bootStatus _), rfl,
    (u.reg_setReg_other _ (by decide)).trans started, version⟩

theorem State.noFirmware_waits (s : State) (status : Nat) : s.regsBut (s.noFirmware status) [Obj.bootStatus] ∧
    (s.noFirmware status).rst.stage = (if s.rst.retried then .recovery else .retryWait) ∧
    (s.noFirmware status).reg Obj.bootStatus = 3 + status := by
  have flags : (s.setReg Obj.bootStatus (3 + status)).reg Obj.bootStatus = 3 + status := s.reg_setReg_same _ _
  have other := s.setReg_regsBut Obj.bootStatus (3 + status)
  unfold State.noFirmware
  cases retried : s.rst.retried
  · rw [if_neg (by simp [retried])]
    exact ⟨other, rfl, flags⟩
  · rw [if_pos (by exact retried)]
    exact ⟨other, rfl, flags⟩

/-- What BOOT_STATUS says of the two slots, beside the slot that was started (03, BOOT_STATUS). -/
def State.slotFlags (s : State) : Nat :=
  4 * flag (decide (slotFault s.flash.slot0 ≠ 0)) + 8 * flag (decide (slotFault s.flash.slot1 ≠ 0)) + 32 * slotFault s.flash.slot1

theorem State.slotFlags_mod (s : State) {slot : Nat} (h : slot < 4) : (slot + s.slotFlags) % 4 = slot := by
  unfold State.slotFlags
  omega

theorem bootRomVerify_runs {s : State} (up : s.rst.asserted = false) (rom : s.rst.stage = .rom) :
    exec (.bootRomVerify true) s = if slotFault s.flash.slot0 ≠ 0 ∧ slotFault s.flash.slot1 ≠ 0 then .next (s.noFirmware s.slotFlags)
      else if slotFault s.flash.slot0 = 0 ∧ (slotFault s.flash.slot1 ≠ 0 ∨ field s.flash.slot1 8 4 ≤ field s.flash.slot0 8 4) then
        .next (s.startFirmware 0 s.slotFlags s.flash.slot0)
      else .next (s.startFirmware 1 s.slotFlags s.flash.slot1) := if_neg (by simp [up, rom])

theorem bootRomVerify_completes {s : State} (up : s.rst.asserted = false) (rom : s.rst.stage = .rom) :
    Completes (.bootRomVerify true) s (fun t => s.regsBut t [Obj.bootStatus, Obj.fwVersion] ∧
      (slotFault s.flash.slot0 = 0 → slotFault s.flash.slot1 ≠ 0 ∨ field s.flash.slot1 8 4 ≤ field s.flash.slot0 8 4 →
        t.rst.stage = .firmware ∧ t.reg Obj.bootStatus % 4 = 0 ∧ t.reg Obj.fwVersion = field s.flash.slot0 12 4) ∧
      (slotFault s.flash.slot1 = 0 → slotFault s.flash.slot0 ≠ 0 ∨ field s.flash.slot0 8 4 < field s.flash.slot1 8 4 →
        t.rst.stage = .firmware ∧ t.reg Obj.bootStatus % 4 = 1 ∧ t.reg Obj.fwVersion = field s.flash.slot1 12 4) ∧
      (slotFault s.flash.slot0 ≠ 0 → slotFault s.flash.slot1 ≠ 0 → t.rst.stage = (if s.rst.retried then .recovery else .retryWait) ∧
        t.reg Obj.bootStatus % 4 = 3 ∧ t.reg Obj.fwVersion = s.reg Obj.fwVersion)) := by
  have runs := bootRomVerify_runs up rom
  split_ifs at runs with neither first
  · obtain ⟨regs, stage, status⟩ := s.noFirmware_waits s.slotFlags
    exact ⟨_, runs, regs.mono, fun good => absurd good neither.1, fun good => absurd good neither.2,
      fun _ _ => ⟨stage, status ▸ s.slotFlags_mod (by decide), regs _ (by decide)⟩⟩
  · obtain ⟨regs, stage, status, version⟩ := s.startFirmware_starts 0 s.slotFlags s.flash.slot0
    exact ⟨_, runs, regs, fun _ _ => ⟨stage, status ▸ s.slotFlags_mod (by decide), version⟩, fun _ _ => by omega,
      fun bad => absurd first.1 bad⟩
  · obtain ⟨regs, stage, status, version⟩ := s.startFirmware_starts 1 s.slotFlags s.flash.slot1
    exact ⟨_, runs, regs, fun good newer => absurd ⟨good, newer⟩ first,
      fun _ _ => ⟨stage, status ▸ s.slotFlags_mod (by decide), version⟩, fun bad bad' => absurd ⟨bad, bad'⟩ neither⟩

end Sys2Proof.Machine
end

section
/-! SUPPORT. O15 (03, release order steps 8 and 9; 05 R494): the configuration, the first configured state, and KINDLE's entry. -/

namespace Sys2Proof.Machine

/-! ### The address in use -/

/-- What is sent leaves the address that the device answers at. -/
theorem State.sendEach_ip (s : State) (ty tag : Nat) (p : List Byte) (l : List Session) : (s.sendEach ty tag p l).igrel.ip = s.igrel.ip := by
  induction l generalizing s with
  | nil => rfl
  | cons x l ih =>
    rw [State.sendEach, ih]
    unfold State.sendIn
    split <;> rfl

theorem State.logEvent_ip (s : State) (code : Nat) (detail : List Byte) : (s.logEvent code detail).igrel.ip = s.igrel.ip := by
  unfold State.logEvent
  rw [State.sendEach_ip]
  exact congrArg Igrel.ip ((s.ylogWrite_only code detail).agree .igrel (by decide))

theorem State.toMode_ip (s : State) (m : Mode) : (s.toMode m).igrel.ip = s.igrel.ip := State.logEvent_ip ..

/-! ### The configuration (05 R494) -/

theorem State.ringCredits_reg (s : State) {k : Nat} (l : List Nat) (hk : ∀ j, k ≠ Obj.creditsGranted j) : (s.ringCredits l).reg k = s.reg k := by
  induction l generalizing s with
  | nil => rfl
  | cons j l ih => rw [State.ringCredits, ih, s.reg_setReg_other _ (hk j)]

/-- The stored settings in force or, without a configuration, the defaults, and the device held in DARK (03 R78). -/
def State.configLoaded (s : State) : State :=
  match s.flash.regs with
  | some r => s.takeSettings r s.flash.doms
  | none => { s.setBits Obj.bootStatus 16 with rst := { s.rst with held := true } }

/-- With the settings, the credits of every stream and the shadow objects are in force from the start. -/
def State.configReady (s : State) : State := (s.configLoaded.ringCredits (List.range 160)).takeShadows (List.range 8)

/-- The device after CONFIG_LOAD, before it goes on to KINDLE. -/
def State.configApplied (s : State) : State := s.configReady.firstConfigured

theorem configLoad_runs {s : State} (up : s.rst.asserted = false) (firmware : s.rst.stage = .firmware) (dark : s.mode = .dark) :
    exec .configLoad s = if s.configApplied.rst.held = true ∨ s.configApplied.isSet Obj.bootHold = true then ok s.configApplied
      else ok s.configApplied.enterKindle := by
  show execConfigLoad s = _
  unfold execConfigLoad
  rw [if_neg (by simp [up, firmware, dark])]
  extract_lets _ _ _ s2
  have applied : s2 = s.configApplied := rfl
  rw [applied]

theorem State.configReady_only (s : State) : Only [.regs, .lantern] s.configLoaded s.configReady :=
  (State.takeShadows_only ..).step (by decide) ((State.ringCredits_only ..).mono (by decide))

/-- The first configured state: the device answers at IP_ADDR, and BEACON, ETH_MAC and LOOP are out of reset. -/
structure State.Booted (s : State) : Prop where
  stage : s.rst.stage = .configured
  ip : s.igrel.ip = s.reg Obj.ipAddr
  blocks : ∀ b ∈ [Block.beacon, Block.ethMac, Block.loop], (s.reg Obj.blockReset).testBit b = false

theorem State.firstConfigured_reg (s : State) {k : Nat} (hk : k ∉ yilloggerObjects) :
    s.firstConfigured.reg k = (s.clearBits Obj.blockReset (2 ^ Block.beacon + 2 ^ Block.ethMac + 2 ^ Block.loop)).reg k := by
  unfold State.firstConfigured
  extract_lets s1 _ _ s2 s3
  have pads := (State.drivePads_only s2).reg (by decide) k
  exact (s3.logEvent_reg _ _ hk).trans ((s2.drivePads.logEvent_reg _ _ hk).trans pads)

theorem State.firstConfigured_rst (s : State) : s.firstConfigured.rst = { s.rst with stage := .configured } := by
  unfold State.firstConfigured
  extract_lets s1 _ _ s2 s3
  have after : Only [.regs, .pins, .igrel, .ylog, .out, .flagged] s2 s3 :=
    (State.logEvent_only ..).step (by decide) ((State.drivePads_only _).mono (by decide))
  exact ((State.logEvent_only ..).agree .rst (by decide)).trans (after.agree .rst (by decide))

theorem State.firstConfigured_booted (s : State) : s.firstConfigured.Booted := by
  refine ⟨by rw [State.firstConfigured_rst], ?_, fun b hb => ?_⟩
  · rw [State.firstConfigured_reg _ (by decide)]
    unfold State.firstConfigured
    extract_lets s1 _ _ s2 s3
    rw [State.logEvent_ip, State.logEvent_ip, (State.drivePads_only s2).agree .igrel (by decide)]
  · rw [State.firstConfigured_reg _ (by decide), State.reg_clearBits_same, clearMask_testBit]
    have cleared : (2 ^ Block.beacon + 2 ^ Block.ethMac + 2 ^ Block.loop).testBit b = true := by
      revert b
      decide
    rw [cleared, Bool.not_true, Bool.and_false]

theorem State.configLoaded_mode (s : State) : s.configLoaded.mode = s.mode := by
  unfold State.configLoaded
  split <;> rfl

theorem State.configApplied_mode (s : State) : s.configApplied.mode = s.mode :=
  ((State.firstConfigured_only _).agree .mode (by decide)).trans ((s.configReady_only.agree .mode (by decide)).trans s.configLoaded_mode)

theorem State.configApplied_held (s : State) : s.configApplied.rst.held = s.configLoaded.rst.held := by
  unfold State.configApplied
  rw [State.firstConfigured_rst, s.configReady_only.agree .rst (by decide)]

theorem State.configLoaded_none {s : State} (blank : s.flash.regs = none) :
    s.configLoaded = { s.setBits Obj.bootStatus 16 with rst := { s.rst with held := true } } := by
  unfold State.configLoaded
  rw [blank]

theorem State.configLoaded_some {s : State} (stored : s.flash.regs ≠ none) : s.configLoaded.rst = s.rst := by
  unfold State.configLoaded
  split
  · rfl
  · next blank => exact absurd blank stored

/-- Without a configuration BOOT_STATUS says so (03, BOOT_STATUS). -/
theorem State.configApplied_bootStatus {s : State} (blank : s.flash.regs = none) : (s.configApplied.reg Obj.bootStatus).testBit 4 = true := by
  have status : s.configLoaded.reg Obj.bootStatus = s.reg Obj.bootStatus ||| 2 ^ 4 := by
    rw [State.configLoaded_none blank]
    exact s.reg_setBits_same _ _
  have kept : s.configApplied.reg Obj.bootStatus = s.configLoaded.reg Obj.bootStatus := calc
    s.configApplied.reg Obj.bootStatus = s.configReady.reg Obj.bootStatus :=
      (State.firstConfigured_reg _ (by decide)).trans (State.reg_clearBits_other _ _ (by decide))
    _ = (s.configLoaded.ringCredits (List.range 160)).reg Obj.bootStatus := (State.takeShadows_only ..).reg (by decide) _
    _ = s.configLoaded.reg Obj.bootStatus := State.ringCredits_reg _ _ fun j => by simp only [Obj.creditsGranted, Obj.bootStatus]; omega
  rw [kept, status, Nat.testBit_or, Nat.testBit_two_pow_self, Bool.or_true]

/-! ### KINDLE's entry (22 R461; 03, release order step 9) -/

/-- The objects that KINDLE's entry writes, beside those of the Yilloger. -/
def kindleObjects : List Nat := [Obj.modeEntryTime, Obj.calResult, Obj.calFailDetail, Obj.ledTest]

/-- KINDLE begun, before its blocks are pended. -/
def State.kindleSet (s : State) : State :=
  let s := s.toMode .kindle
  let s : State := { s with cal := { running := true }, led := { s.led with faulty := false },
                            twin := { s.twin with roleDecided := decide (s.strapped ≠ Role.primary) } }
  ((s.setReg Obj.calResult (4 ^ 7)).setReg Obj.calFailDetail 0).setReg Obj.ledTest 0

/-- KINDLE begun, before the ring map is looked at. -/
def State.kindleBegun (s : State) : State := s.kindleSet.pendBlocks (clearMask 0x1FFFF s.kindleSet.mateHolds)

theorem State.enterKindle_eq (s : State) : s.enterKindle =
    if ringMapOk s.kindleBegun.storeLimit (s.kindleBegun.dom Obj.ringMap) then s.kindleBegun else s.kindleBegun.calFail 7 0 0 0 := rfl

theorem State.kindleSet_reg (s : State) {k : Nat} (log : k ∉ yilloggerObjects) (own : k ∉ kindleObjects) : s.kindleSet.reg k = s.reg k := by
  simp only [kindleObjects, List.mem_cons, List.not_mem_nil, or_false, not_or] at own
  obtain ⟨entry, result, detail, led⟩ := own
  unfold State.kindleSet
  extract_lets s1 s2
  rw [State.reg_setReg_other _ _ led, State.reg_setReg_other _ _ detail, State.reg_setReg_other _ _ result]
  exact s.toMode_reg .kindle log entry

/-- The device as KINDLE begins: KINDLE's items run, and of the reset's state nothing has changed. -/
theorem State.kindleBegun_runs (s : State) : s.kindleBegun.mode = .kindle ∧ s.kindleBegun.cal.running = true ∧ s.kindleBegun.rst = s.rst ∧
    s.kindleBegun.igrel.ip = s.igrel.ip := by
  have pended := s.kindleSet.pendBlocks_only (clearMask 0x1FFFF s.kindleSet.mateHolds)
  have moved := s.toMode_only .kindle
  have igrel : s.kindleBegun.igrel = (s.toMode .kindle).igrel := pended.agree .igrel (by decide)
  have mode : s.kindleBegun.mode = (s.toMode .kindle).mode := pended.agree .mode (by decide)
  have rst : s.kindleBegun.rst = (s.toMode .kindle).rst := pended.agree .rst (by decide)
  have cal : s.kindleBegun.cal = { running := true } := pended.agree .cal (by decide)
  rw [igrel, mode, rst, cal]
  exact ⟨s.toMode_mode _, rfl, moved.agree .rst (by decide), s.toMode_ip _⟩

/-- KINDLE pends blocks, and holds none (03 R71). -/
theorem State.kindleBegun_booted {s : State} (booted : s.Booted) : s.kindleBegun.Booted := by
  obtain ⟨mode, runs, rst, ip⟩ := s.kindleBegun_runs
  refine ⟨by rw [rst, booted.stage], ?_, fun b hb => ?_⟩
  · rw [ip, booted.ip]
    exact ((State.pendBlocks_reg_other _ _ (by decide) (by decide)).trans (s.kindleSet_reg (by decide) (by decide))).symm
  · have held : (s.kindleSet.reg Obj.blockReset).testBit b = false := by
      rw [s.kindleSet_reg (by decide) (by decide), booted.blocks b hb]
    unfold State.kindleBegun
    rw [State.pendBlocks_blockReset, clearMask_testBit, held, Bool.false_and]

/-- Of the reset's state SNUFF entry drops what the firmware has reported and the mode change that waited (02 R51, 03 R60). -/
theorem State.enterSnuff_rst (s : State) (bar : Bool) : (s.enterSnuff bar).rst = { s.rst with snuffDone := false, modeDue := none } := by
  have units (u : State) : u.snuffUnits.rst = { u.rst with snuffDone := false, modeDue := none } := by
    unfold State.snuffUnits
    extract_lets _ _ _ u1
    have stopped : Only [.regs, .doms, .taper, .dram, .wick, .axes, .lantern, .led, .chans, .out, .flagged, .freeCtr] u1
        (u1.snuffWick.stopAxes).lanternSnuff :=
      (State.lanternSnuff_only _).step (by decide) ((State.stopAxes_only _).step (by decide) (u1.snuffWick_only.mono (by decide)))
    exact stopped.agree .rst (by decide)
  unfold State.enterSnuff
  extract_lets s1 s2 s3 s4
  have told : Only [.out] s s1 := .ite (fun _ => State.twinSend_only ..) (fun _ => .refl)
  have before : s2.rst = s.rst := by
    have taper : s2.rst = s1.rst := by
      simp only [s2]
      split
      · exact (s1.taperSnuff_only bar).agree .rst (by decide)
      · rfl
    exact taper.trans (told.agree .rst (by decide))
  have pins : s3.rst = s2.snuffUnits.rst := (State.snuffPins_only _).agree .rst (by decide)
  have after : Only [.regs, .mode, .igrel, .decomp, .slots, .health, .taper, .twin, .wick, .ylog, .out, .flagged, .heads, .loops, .spi] s3
      s4.tellState.abandonSwap.makeAwaited.abandonJoin :=
    (State.abandonJoin_only _).step (by decide) ((State.makeAwaited_only _).step (by decide) ((State.abandonSwap_only _).step (by decide)
      ((State.tellState_only _).step (by decide) ((State.loopSnuff_only _).step (by decide) ((State.toMode_only ..).mono (by decide))))))
  rw [after.agree .rst (by decide), pins, units, before]

/-- An item that fails ends KINDLE in SNUFF (22 R464). -/
theorem State.calFail_snuffs {s : State} (running : s.cal.running = true) (item unit r1 r2 : Nat) :
    (s.calFail item unit r1 r2).mode = .snuff ∧ (s.calFail item unit r1 r2).rst.stage = s.rst.stage := by
  unfold State.calFail
  rw [if_pos running]
  extract_lets detail s1 _ s2 s3 s4
  have recorded : Only [.regs, .cal] s s2 :=
    .with_cal (by decide) ((State.setReg_only ..).step (by decide) ((State.setItem_only ..).mono (by decide)))
  have failed : Only [.regs, .igrel, .ylog, .out, .flagged, .flash, .cal] s (s4.setCause Cause.cal) :=
    (State.setCause_only ..).step (by decide) ((State.logEvent_only ..).step (by decide) ((State.countKindleFail_only _).step (by decide)
      ((State.countKindle_only _).step (by decide) (recorded.mono (by decide)))))
  exact ⟨(State.enterSnuff_snuffed _ _).mode, by rw [State.enterSnuff_rst, failed.agree .rst (by decide)]⟩

/-- KINDLE's entry ends in KINDLE, on a device that is as its boot left it, or in SNUFF where the ring map is rejected (06 R142, 22 R464). -/
theorem State.enterKindle_booted {s : State} (booted : s.Booted) : s.enterKindle.rst.stage = .configured ∧
    (s.enterKindle.mode = .kindle ∧ s.enterKindle.Booted ∨ s.enterKindle.mode = .snuff) := by
  have begun := State.kindleBegun_booted booted
  obtain ⟨mode, runs, -, -⟩ := s.kindleBegun_runs
  rw [State.enterKindle_eq]
  split
  · exact ⟨begun.stage, .inl ⟨mode, begun⟩⟩
  · obtain ⟨snuff, stage⟩ := State.calFail_snuffs runs 7 0 0 0
    exact ⟨stage.trans begun.stage, .inr snuff⟩

/-! ### CONFIG_LOAD (05 R494, 02 R41) -/

theorem configLoad_completes {s : State} (up : s.rst.asserted = false) (firmware : s.rst.stage = .firmware) (dark : s.mode = .dark) :
    Completes .configLoad s (fun t => t.rst.stage = .configured ∧ (t.mode ≠ .snuff → t.igrel.ip = t.reg Obj.ipAddr ∧
      ∀ b ∈ [Block.beacon, Block.ethMac, Block.loop], (t.reg Obj.blockReset).testBit b = false) ∧
      (s.flash.regs = none → t.mode = .dark ∧ (t.reg Obj.bootStatus).testBit 4 = true) ∧ (s.rst.held = true → t.mode = .dark) ∧
      (s.flash.regs ≠ none → s.rst.held = false → t.isSet Obj.bootHold = false → t.mode = .kindle ∨ t.mode = .snuff)) := by
  have runs := configLoad_runs up firmware dark
  have booted : s.configApplied.Booted := State.firstConfigured_booted _
  have mode : s.configApplied.mode = .dark := s.configApplied_mode.trans dark
  have holdsBlank (blank : s.flash.regs = none) : s.configApplied.rst.held = true := by
    rw [State.configApplied_held, State.configLoaded_none blank]
  have held (stored : s.flash.regs ≠ none) : s.configApplied.rst.held = s.rst.held := by
    rw [State.configApplied_held, State.configLoaded_some stored]
  split at runs
  next holds =>
    refine ⟨_, runs, booted.stage, fun _ => ⟨booted.ip, booted.blocks⟩, fun blank => ⟨mode, State.configApplied_bootStatus blank⟩,
      fun _ => mode, fun stored free going => ?_⟩
    obtain waits | waits := holds
    · rw [held stored, free] at waits
      exact absurd waits (by decide)
    · rw [waits] at going
      exact absurd going (by decide)
  next goes =>
    obtain ⟨free, -⟩ := not_or.mp goes
    obtain ⟨stage, entered⟩ := State.enterKindle_booted booted
    have stored : s.flash.regs ≠ none := fun blank => free (holdsBlank blank)
    refine ⟨_, runs, stage, fun safe => ?_, fun blank => absurd blank stored, fun holds => absurd ((held stored).trans holds) free,
      fun _ _ _ => entered.imp And.left id⟩
    obtain ⟨-, kindled⟩ | snuff := entered
    · exact ⟨kindled.ip, kindled.blocks⟩
    · exact absurd snuff safe

/-- Settles O15, stage by stage. -/
theorem bootSequence : Obligations.BootSequence := fun _ =>
  ⟨resetRelease_completes, fun up released => ⟨_, if_pos ⟨up, released⟩, rfl⟩, fun up plls => ⟨_, if_pos ⟨up, plls⟩, rfl⟩,
    fun up waits => ⟨_, if_pos ⟨up, waits⟩, rfl⟩, bootRomVerify_completes, configLoad_completes⟩

end Sys2Proof.Machine
end

section
/-! SUPPORT. O16 (03 R71 to R73, 10 R242): what the release of a block leaves, and SPEED_LIMIT. -/

namespace Sys2Proof.Machine

/-! ### The release of a block (03 R71) -/

theorem Table.find_filter {α : Type} (t : Table α) (p : Nat → Bool) {k : Nat} (hk : p k = true) :
    Table.find (t.filter (fun x => p x.1)) k = Table.find t k := by
  induction t with
  | nil => rfl
  | cons x t ih =>
    obtain ⟨j, v⟩ := x
    by_cases hj : p j = true
    · rw [List.filter_cons_of_pos (by exact hj), Table.find, Table.find, ih]
    · have apart : k ≠ j := fun h => hj (h ▸ hk)
      rw [List.filter_cons_of_neg (by exact hj), Table.find, if_neg apart, ih]

/-- A release of LOOP gives its slots' objects alone their defaults (19 R425). -/
theorem State.loopRelease_reg (s : State) {k : Nat} (hk : k < 0x2B0000) : s.loopRelease.reg k = s.reg k := by
  have away : k ∉ (List.range 48).flatMap loopKeys := by
    simp only [loopKeys, List.mem_flatMap, List.mem_map, List.mem_range, not_exists, not_and]
    omega
  unfold State.loopRelease State.reg Table.get
  exact congrArg (Option.getD · _) (s.regs.find_filter (fun j => !((List.range 48).flatMap loopKeys).contains j) (by simpa using away))

theorem State.startChannel_sameReset (s : State) {ch : Nat} (hch : ch < 2) : SameReset s (s.startChannel ch) := by
  have count : Obj.encCount ch / 256 ≠ 0x1200 := by interval_cases ch <;> decide
  have mark : Obj.travelMark ch / 256 ≠ 0x1200 := by interval_cases ch <;> decide
  have dir : Obj.travelDir ch / 256 ≠ 0x1200 := by interval_cases ch <;> decide
  have speed : Obj.speedState ch / 256 ≠ 0x1200 := by interval_cases ch <;> decide
  have cleared := (State.setReg_sameReset _ 0 dir).step ((State.setReg_sameReset _ 0 mark).step (s.setReg_sameReset 0 count))
  have channel (t : State) (c : EncCh) : SameReset t (t.setEncCh ch c) := (State.setEncCh_only ..).sameReset (by decide)
  exact ((State.monRestart_only _).sameReset (by decide)).step ((State.setReg_sameReset _ 0 speed).step
    ((channel _ _).step ((channel _ _).step cleared)))

/-- The release of a block changes no object of chapter 03. -/
theorem State.releaseBlock_sameReset (s : State) (b : Nat) : SameReset s (s.releaseBlock b) := by
  unfold State.releaseBlock
  split
  · exact .ite (fun _ => .of_regs rfl) (fun _ => .refl)
  · exact (State.startChannel_sameReset _ (by decide)).step (s.startChannel_sameReset (by decide))
  · exact .foldl (fun t ch => t.setReg_sameReset 0 (by unfold Obj.nextChunkSeq; omega)) .refl
  · exact .of_regs rfl
  · exact ⟨fun k hk => s.loopRelease_reg (by omega)⟩
  · exact .foldl (fun t a => .of_regs rfl) .refl
  · exact SameReset.step (State.setReg_sameReset _ 0 (by decide)) (.of_regs rfl)
  · exact .refl

theorem blockRelease_completes {s : State} {b : Fin 17} {v : ClockView} (pended : (s.reg Obj.blockPended).testBit b = true)
    (stable : s.mayRelease b v = true) : Completes (.blockRelease b v) s (fun t => t.mode = s.mode ∧
      ∀ j : Nat, (t.reg Obj.blockPended).testBit j = ((s.reg Obj.blockPended).testBit j && decide (j ≠ b))) := by
  have runs : exec (.blockRelease b v) s = _ := if_pos (by rw [pended, stable]; rfl)
  refine ⟨_, runs, (State.releaseBlock_only ..).agree .mode (by decide), fun j => ?_⟩
  rw [(State.releaseBlock_sameReset ..).reg _ (by decide), State.reg_clearBits_same, clearMask_testBit, Nat.testBit_two_pow]
  simp only [eq_comm, decide_not]
  rfl

theorem releasePended_logged {s : State} {b : Fin 17} (pended : (s.reg Obj.blockPended).testBit b = true)
    (first : s.rst.pendLogged.contains (b : Nat) = false) : Completes (.releasePended b) s (fun t =>
      t.rst.pendLogged = (b : Nat) :: s.rst.pendLogged ∧ s.logs t Ev.releasePended (le 1 b) ∧ s.regsBut t yilloggerObjects) := by
  let u : State := { s with rst := { s.rst with pendLogged := (b : Nat) :: s.rst.pendLogged } }
  have frame := u.logEvent_only Ev.releasePended (le 1 b)
  exact ⟨u.logEvent Ev.releasePended (le 1 b), if_pos (by rw [pended, first]; rfl), congrArg ResetSt.pendLogged (frame.agree .rst (by decide)),
    State.logEvent_logs (s := s) (u := u) (.of_eq rfl rfl) rfl _ _, u.logEvent_regsBut _ _⟩

/-! ### SPEED_LIMIT (10 R242) -/

/-- SPEED_LIMIT driven to a level, which SPEED_LIMIT_STATE reads. -/
def State.limitTo (s : State) (hi : Bool) : State :=
  { s.setReg Obj.speedLimitState (flag hi) with pins := { s.pins with speedLimit := if hi then .high else .low } }

/-- |SPEED| × HEAD_MIN_PERIOD as a firmware tick compares it with LINE_PITCH (10 R242): its hundredfold. -/
def State.periodRate (s : State) : Nat := 6553600 * ((s.speed s.fireCh).natAbs * s.reg Obj.headMinPeriod)

/-- LINE_PITCH as a firmware tick compares it: 95 of these are 0.95 of the pitch. -/
def State.periodUnit (s : State) : Nat := 1000000000000 * (s.reg Obj.linePitch % 2 ^ 48)

theorem State.speedLimit_eq (s : State) : s.speedLimit = if s.reg (Obj.speedState s.fireCh) ≠ 1 then s
    else if 95 * s.periodUnit ≤ s.periodRate then s.limitTo true else if s.periodRate < 92 * s.periodUnit then s.limitTo false else s := rfl

/-- A state but for the level of SPEED_LIMIT and the object that reads it. -/
structure State.LimitOnly (s t : State) : Prop where
  eq : t = { s with regs := t.regs, pins := { s.pins with speedLimit := t.pins.speedLimit } }
  regs : s.regsBut t [Obj.speedLimitState]

theorem State.LimitOnly.refl {s : State} : s.LimitOnly s := ⟨rfl, .refl⟩

theorem State.limitTo_limitOnly (s : State) (hi : Bool) : s.LimitOnly (s.limitTo hi) := ⟨rfl, s.setReg_regsBut _ _⟩

theorem State.limitTo_state (s : State) (hi : Bool) : (s.limitTo hi).reg Obj.speedLimitState = flag hi :=
  s.reg_setReg_same Obj.speedLimitState (flag hi)

theorem State.speedLimit_limitOnly (s : State) : s.LimitOnly s.speedLimit := by
  rw [State.speedLimit_eq]
  split_ifs
  · exact .refl
  · exact s.limitTo_limitOnly _
  · exact s.limitTo_limitOnly _
  · exact .refl

theorem State.speedLimit_high {s : State} (known : s.reg (Obj.speedState s.fireCh) = 1) (fast : 95 * s.periodUnit ≤ s.periodRate) :
    s.speedLimit = s.limitTo true := by
  rw [State.speedLimit_eq, if_neg (by simp [known]), if_pos fast]

theorem State.speedLimit_low {s : State} (known : s.reg (Obj.speedState s.fireCh) = 1) (slow : s.periodRate < 92 * s.periodUnit) :
    s.speedLimit = s.limitTo false := by
  rw [State.speedLimit_eq, if_neg (by simp [known]), if_neg (by omega), if_pos slow]

/-- The SNUFF sequence is reported complete (03 R60). -/
def State.reported (s : State) : State := { s with rst := { s.rst with snuffDone := true } }

/-- A firmware tick with no mode change waiting reports, and in PILOT, TRIM, LIT and SNUFF SPEED_LIMIT follows. -/
theorem firmwareTick_reports {s : State} (on : s.configured = true) (idle : s.rst.modeDue = none) :
    Completes .firmwareTick s (fun t => s.reported.LimitOnly t ∧ (s.mode.working = true → t = s.reported.speedLimit)) := by
  have due : s.reported.makeDue = s.reported := by
    unfold State.makeDue
    rw [show s.reported.rst.modeDue = none from idle]
  have runs : exec .firmwareTick s = .next (if s.reported.makeDue.mode.working || decide (s.reported.makeDue.mode = .snuff) then
      s.reported.makeDue.speedLimit else s.reported.makeDue) := if_pos on
  rw [due] at runs
  refine ⟨_, runs, ?_, fun working => if_pos (by rw [show s.reported.mode = s.mode from rfl, working]; rfl)⟩
  split
  · exact s.reported.speedLimit_limitOnly
  · exact .refl

theorem firmwareTick_completes {s : State} (on : s.configured = true) (idle : s.rst.modeDue = none) : Completes .firmwareTick s (fun t =>
      t = { s with rst := { s.rst with snuffDone := true }, regs := t.regs, pins := { s.pins with speedLimit := t.pins.speedLimit } } ∧
      s.regsBut t [Obj.speedLimitState] ∧
      (s.mode.working = true → s.reg (Obj.speedState s.fireCh) = 1 →
        let v := 6553600 * ((s.speed s.fireCh).natAbs * s.reg Obj.headMinPeriod)
        let unit := 1000000000000 * (s.reg Obj.linePitch % 2 ^ 48)
        (95 * unit ≤ v → t.pins.speedLimit = .high ∧ t.reg Obj.speedLimitState = 1) ∧
          (v < 92 * unit → 0 < unit → t.pins.speedLimit = .low ∧ t.reg Obj.speedLimitState = 0))) := by
  obtain ⟨t, runs, ⟨eq, regs⟩, follows⟩ := firmwareTick_reports on idle
  refine ⟨t, runs, eq, regs, fun working known => ?_⟩
  rw [follows working]
  refine ⟨fun fast => ?_, fun slow _ => ?_⟩
  · rw [State.speedLimit_high (s := s.reported) known fast]
    exact ⟨rfl, State.limitTo_state ..⟩
  · rw [State.speedLimit_low (s := s.reported) known slow]
    exact ⟨rfl, State.limitTo_state ..⟩

/-- Settles O16. -/
theorem blocksAreReleasedAndWatched : Obligations.BlocksAreReleasedAndWatched := fun _ =>
  ⟨fun _ _ => blockRelease_completes, fun _ => releasePended_logged, firmwareTick_completes⟩

end Sys2Proof.Machine
end

section
/-! SUPPORT. O30 (04 R86, R92, R96; 03 R65): the end of a fuse write, and the instructions of the TAP. -/

namespace Sys2Proof.Machine

/-! ### The end of a fuse write (04 R92) -/

/-- The fuses once the bits of a fuse write have blown: the pad is sensed and compared, and no write is under way. -/
def Fuses.programmed (f : Fuses) (blown : Nat) (j : FuseJob) : Fuses :=
  let now := Table.get 0 f.blown j.pad ||| blown % 4
  { f with blown := Table.put 0 f.blown j.pad now, verifyFail := decide (now ≠ j.code), job := none }

theorem Fuses.programmed_same (f : Fuses) (blown : Nat) (j : FuseJob) :
    Table.get 0 (f.programmed blown j).blown j.pad = (Table.get 0 f.blown j.pad ||| blown % 4) := Table.get_put_same ..

theorem Fuses.programmed_other (f : Fuses) (blown : Nat) (j : FuseJob) {p : Nat} (hp : p ≠ j.pad) :
    Table.get 0 (f.programmed blown j).blown p = Table.get 0 f.blown p := Table.get_put_other _ _ _ hp

theorem Fuses.programmed_verifyFail (f : Fuses) (blown : Nat) (j : FuseJob) :
    (f.programmed blown j).verifyFail = decide (Table.get 0 (f.programmed blown j).blown j.pad ≠ j.code) := by
  rw [f.programmed_same]
  rfl

/-- The write that waited is answered, which leaves the fuses and the objects. -/
theorem fuseProgramComplete_programs {s : State} (blown : Nat) {j : FuseJob} (job : s.fuses.job = some j) :
    Completes (.fuseProgramComplete blown) s (fun t => t.fuses = s.fuses.programmed blown j ∧ t.regs = s.regs) := by
  unfold Completes
  show ∃ t, execFuseProgramComplete blown s = _ ∧ _
  unfold execFuseProgramComplete
  rw [job]
  have reply := State.answerFuse_only { s with fuses := s.fuses.programmed blown j } j.h
  exact ⟨_, rfl, (reply _).agree .fuses (by decide), (reply _).agree .regs (by decide)⟩

theorem fuseProgramComplete_completes {s : State} (blown : Nat) {j : FuseJob} (job : s.fuses.job = some j) :
    Completes (.fuseProgramComplete blown) s (fun t => t.fuses.job = none ∧
      Table.get 0 t.fuses.blown j.pad = (Table.get 0 s.fuses.blown j.pad ||| blown % 4) ∧
      (∀ p, p ≠ j.pad → Table.get 0 t.fuses.blown p = Table.get 0 s.fuses.blown p) ∧ t.regs = s.regs ∧ t.fuses.latched = s.fuses.latched ∧
      t.fuses.verifyFail = decide (Table.get 0 t.fuses.blown j.pad ≠ j.code)) := by
  obtain ⟨t, runs, fuses, regs⟩ := fuseProgramComplete_programs blown job
  refine ⟨t, runs, ?_⟩
  beta_reduce
  rw [fuses]
  exact ⟨rfl, s.fuses.programmed_same .., fun _ => s.fuses.programmed_other _ _, regs, rfl, s.fuses.programmed_verifyFail ..⟩

/-! ### The TAP (04 R96) -/

/-- BYPASS is 0x3F and every code that the table does not list. -/
theorem jtagBypass_selects (s : State) {code : Nat} (six : code < 64) (unlisted : code ∉ [0, 1, 2, 4, 5]) :
    exec (.jtagBypass code) s = .next (s.tap code .bypass false false) := by
  show execJtagBypass code s = _
  unfold execJtagBypass
  rw [Nat.mod_eq_of_lt six, if_neg (by simpa using unlisted)]
  rfl

/-- Under an instruction that neither drives nor floats the pads, a pad is as its fuse or its block drives it. -/
theorem State.tap_padDrive (s : State) (ir : Nat) (sel : JtagSel) (pad : Nat) :
    (s.tap ir sel false false).padDrive pad = if padIsInput pad then fuseDrive (s.heldCode pad) else s.outDrive pad := rfl

theorem jtagSamplePreload_captures (s : State) (cells : List Bool) : Completes (.jtagSamplePreload cells) s (fun t =>
    t = { s with jtag := { ir := 2, sel := .boundary, control := false, float := false, captured :=
      (List.zip chainPads cells).map (fun x =>
        (if padIsInput x.1 then fuseDrive (s.heldCode x.1) else s.outDrive x.1).level x.2) } }) := by
  refine ⟨_, rfl, ?_⟩
  simp only [State.tap_padDrive]
  rfl

/-- Settles O30: each instruction of the TAP is `State.tap`, with the pads controlled or floated where TEST_EN is high. -/
theorem fusesAndTheTap : Obligations.FusesAndTheTap := by
  intro s
  refine ⟨fun blown j => fuseProgramComplete_completes blown, ?_, jtagSamplePreload_captures s⟩
  intro tapped
  have tap {c : Instr} {ir : Nat} {sel : JtagSel} {control float : Bool} (runs : exec c s = .next (s.tap ir sel control float)) :
      tapped c ir sel control float := ⟨_, runs, rfl⟩
  refine ⟨fun high => ⟨tap ?_, tap ?_, tap ?_⟩, fun low => ⟨tap ?_, tap ?_, tap ?_⟩, tap rfl, tap rfl, tap rfl, fun code six unlisted =>
    tap (jtagBypass_selects s six unlisted)⟩
  · exact congrArg ok (if_pos high)
  · exact congrArg ok (if_pos high)
  · exact congrArg (fun v => ok (s.tap 5 .bypass false v)) high
  · exact congrArg ok (if_neg (by simp [low]))
  · exact congrArg ok (if_neg (by simp [low]))
  · exact congrArg (fun v => ok (s.tap 5 .bypass false v)) low

end Sys2Proof.Machine
end

section
/-! SUPPORT. O9 (04 R86, R87, R92): what every command, and so every step, keeps (see Keeps), the bits of a blown fuse among it. -/

namespace Sys2Proof.Machine

/-- Every command keeps what Keeps lists. A fuse bit is written by the end of a programming write, and by a reset that cuts one off: both put the
pad's old code, with bits or-ed to it. -/
theorem exec_keeps (s : State) : ∀ c : Instr, KeepsNext s (exec c s)
  | .powerOnReset => execPowerOnReset_keeps ..
  | .pinReset => execPinReset_keeps ..
  | .watchdogExpiry => execWatchdogExpiry_keeps ..
  | .snuffEscReset .. => execSnuffEscReset_keeps ..
  | .supplyBrownout .. => execSupplyBrownout_keeps ..
  | .refClkLoss => execRefClkLoss_keeps ..
  | .igrelReset => execIgrelReset_keeps ..
  | .resetRelease .. => execResetRelease_keeps ..
  | .pllLock => execPllLock_keeps ..
  | .serviceCoreRelease => execServiceCoreRelease_keeps ..
  | .bootRomVerify .. => execBootRomVerify_keeps ..
  | .bootRetry => execBootRetry_keeps ..
  | .configLoad => execConfigLoad_keeps ..
  | .blockResetWrite .. => execBlockResetWrite_keeps ..
  | .blockRelease .. => execBlockRelease_keeps ..
  | .releasePended .. => execReleasePended_keeps ..
  | .firmwareTick => execFirmwareTick_keeps ..
  | .fsiSample .. => execFsiSample_keeps ..
  | .dieTempSample .. => execDieTempSample_keeps ..
  | .cdcStall .. => execCdcStall_keeps ..
  | .modeRequestKindle .. => execModeRequestKindle_keeps ..
  | .modeRequestPilot .. => execModeRequestPilot_keeps ..
  | .modeRequestTrim .. => execModeRequestTrim_keeps ..
  | .modeRequestLit .. => execModeRequestLit_keeps ..
  | .modeRequestSnuff .. => execModeRequestSnuff_keeps ..
  | .litStopComplete => execLitStopComplete_keeps ..
  | .stopSuppressTimeout .. => execStopSuppressTimeout_keeps ..
  | .snuffEntry => execSnuffEntry_keeps ..
  | .safeStopAssert => execSafeStopAssert_keeps ..
  | .safeStopRelease => execSafeStopRelease_keeps ..
  | .snuffCauseClear .. => execSnuffCauseClear_keeps ..
  | .headPwrDrop => execHeadPwrDrop_keeps ..
  | .headSettleExpiry => execHeadSettleExpiry_keeps ..
  | .resetCauseClear .. => execResetCauseClear_keeps ..
  | .resetRequest .. => execResetRequest_keeps ..
  | .fusePadProgram .. => execFusePadProgram_keeps ..
  | .fuseProgramComplete .. => execFuseProgramComplete_keeps ..
  | .fusePadCodeRead .. => execFusePadCodeRead_keeps ..
  | .fuseLock .. => execFuseLock_keeps ..
  | .jtagExtest => execJtagExtest_keeps ..
  | .jtagClamp => execJtagClamp_keeps ..
  | .jtagIdcode => execJtagIdcode_keeps ..
  | .jtagSamplePreload .. => execJtagSamplePreload_keeps ..
  | .jtagHighz => execJtagHighz_keeps ..
  | .jtagBypass .. => execJtagBypass_keeps ..
  | .igrelDrop .. => execIgrelDrop_keeps ..
  | .hello .. => execHello_keeps ..
  | .proof .. => execProof_keeps ..
  | .reservationLapse .. => execReservationLapse_keeps ..
  | .authLockoutExpiry .. => execAuthLockoutExpiry_keeps ..
  | .close .. => execClose_keeps ..
  | .sessionIdleTimeout .. => execSessionIdleTimeout_keeps ..
  | .read .. => execRead_keeps ..
  | .write .. => execWrite_keeps ..
  | .describe .. => execDescribe_keeps ..
  | .blockStart .. => execBlockStart_keeps ..
  | .blockSegment .. => execBlockSegment_keeps ..
  | .blockAck .. => execBlockAck_keeps ..
  | .blockEnd .. => execBlockEnd_keeps ..
  | .blockTimeout .. => execBlockTimeout_keeps ..
  | .subscribe .. => execSubscribe_keeps ..
  | .telemetrySend .. => execTelemetrySend_keeps ..
  | .configSave .. => execConfigSave_keeps ..
  | .fwSlotWrite .. => execFwSlotWrite_keeps ..
  | .fsiMinClear .. => execFsiMinClear_keeps ..
  | .w1cClear .. => execW1cClear_keeps ..
  | .rasterLinkUp .. => execRasterLinkUp_keeps ..
  | .rasterLaneLoss .. => execRasterLaneLoss_keeps ..
  | .rasterPacketDrop .. => execRasterPacketDrop_keeps ..
  | .block .. => execBlock_keeps ..
  | .commit .. => execCommit_keeps ..
  | .creditPeriodExpiry => execCreditPeriodExpiry_keeps ..
  | .storeFlush .. => execStoreFlush_keeps ..
  | .ringMapWrite .. => execRingMapWrite_keeps ..
  | .taperLineRequest .. => execTaperLineRequest_keeps ..
  | .decodeLine .. => execDecodeLine_keeps ..
  | .contextRewind .. => execContextRewind_keeps ..
  | .contextImageWrite .. => execContextImageWrite_keeps ..
  | .stripCorrect .. => execStripCorrect_keeps ..
  | .wickLineDecision => execWickLineDecision_keeps ..
  | .lineFrameSend .. => execLineFrameSend_keeps ..
  | .healthEdit .. => execHealthEdit_keeps ..
  | .healthSwap => execHealthSwap_keeps ..
  | .healthOverwriteDone => execHealthOverwriteDone_keeps ..
  | .placementTrimWrite .. => execPlacementTrimWrite_keeps ..
  | .encoderEdge .. => execEncoderEdge_keeps ..
  | .indexEdge .. => execIndexEdge_keeps ..
  | .standstillTimeout .. => execStandstillTimeout_keeps ..
  | .encoderBlockExpiry => execEncoderBlockExpiry_keeps ..
  | .encoderEnable .. => execEncoderEnable_keeps ..
  | .armingStart => execArmingStart_keeps ..
  | .lineArm .. => execLineArm_keeps ..
  | .strobeEdge .. => execStrobeEdge_keeps ..
  | .strobeEnd .. => execStrobeEnd_keeps ..
  | .strobeCut .. => execStrobeCut_keeps ..
  | .snufferEscalate .. => execSnufferEscalate_keeps ..
  | .maintStart .. => execMaintStart_keeps ..
  | .maintLine => execMaintLine_keeps ..
  | .headTrainReply .. => execHeadTrainReply_keeps ..
  | .headLaneTimeout .. => execHeadLaneTimeout_keeps ..
  | .status .. => execStatus_keeps ..
  | .statusTimeout .. => execStatusTimeout_keeps ..
  | .headLaneLoss .. => execHeadLaneLoss_keeps ..
  | .ctrlResendTimeout .. => execCtrlResendTimeout_keeps ..
  | .headLaneRetrain .. => execHeadLaneRetrain_keeps ..
  | .recoverTimeExpiry .. => execRecoverTimeExpiry_keeps ..
  | .timeFrameSend => execTimeFrameSend_keeps ..
  | .twinLaneLoss .. => execTwinLaneLoss_keeps ..
  | .heartbeatSend => execHeartbeatSend_keeps ..
  | .heartbeat .. => execHeartbeat_keeps ..
  | .heartbeatTimeout => execHeartbeatTimeout_keeps ..
  | .roleDecisionTimeout => execRoleDecisionTimeout_keeps ..
  | .decision .. => execDecision_keeps ..
  | .lineStateSend => execLineStateSend_keeps ..
  | .lineState .. => execLineState_keeps ..
  | .lineStateTimeout .. => execLineStateTimeout_keeps ..
  | .twinAliveLow => execTwinAliveLow_keeps ..
  | .publish gen line recs => execPublish_keeps gen line recs s
  | .findingMessage .. => execFindingMessage_keeps ..
  | .modeMessage .. => execModeMessage_keeps ..
  | .snuffAll .. => execSnuffAll_keeps ..
  | .swapRequest .. => execSwapRequest_keeps ..
  | .swapMessage .. => execSwapMessage_keeps ..
  | .roleSwapComplete => execRoleSwapComplete_keeps ..
  | .promoted .. => execPromoted_keeps ..
  | .twinResetRequest => execTwinResetRequest_keeps ..
  | .joinReq .. => execJoinReq_keeps ..
  | .joinPlan .. => execJoinPlan_keeps ..
  | .joinSnapshot => execJoinSnapshot_keeps ..
  | .joinImage .. => execJoinImage_keeps ..
  | .joinReady => execJoinReady_keeps ..
  | .joinCounters .. => execJoinCounters_keeps ..
  | .joinRetry => execJoinRetry_keeps ..
  | .joinEnterLit => execJoinEnterLit_keeps ..
  | .cameraFrameStart .. => execCameraFrameStart_keeps ..
  | .cameraTrigger .. => execCameraTrigger_keeps ..
  | .cameraLine .. => execCameraLine_keeps ..
  | .cameraFrameEnd .. => execCameraFrameEnd_keeps ..
  | .cameraFrameTimeout .. => execCameraFrameTimeout_keeps ..
  | .cameraCommit .. => execCameraCommit_keeps ..
  | .uartTx .. => execUartTx_keeps ..
  | .uartTransfer .. => execUartTransfer_keeps ..
  | .uartRxDone .. => execUartRxDone_keeps ..
  | .tapSelect .. => execTapSelect_keeps ..
  | .ledShortTest .. => execLedShortTest_keeps ..
  | .flushTimeExpiry .. => execFlushTimeExpiry_keeps ..
  | .chunkCompress .. => execChunkCompress_keeps ..
  | .uploadPacketSend => execUploadPacketSend_keeps ..
  | .uploadCreditGrant .. => execUploadCreditGrant_keeps ..
  | .uploadResend .. => execUploadResend_keeps ..
  | .uploadAck .. => execUploadAck_keeps ..
  | .uploadEntryDropped ch v => execUploadEntryDropped_keeps ch v s
  | .ackTimeoutExpiry .. => execAckTimeoutExpiry_keeps ..
  | .uploadRequest .. => execUploadRequest_keeps ..
  | .scanRequest .. => execScanRequest_keeps ..
  | .scanComplete => execScanComplete_keeps ..
  | .runningWrite .. => execRunningWrite_keeps ..
  | .scrubBlock .. => execScrubBlock_keeps ..
  | .dramCe .. => execDramCe_keeps ..
  | .dramUe .. => execDramUe_keeps ..
  | .rtPanicRaise .. => execRtPanicRaise_keeps ..
  | .rtPanicClear .. => execRtPanicClear_keeps ..
  | .mr4Poll .. => execMr4Poll_keeps ..
  | .dramRefresh .. => execDramRefresh_keeps ..
  | .freqSelect .. => execFreqSelect_keeps ..
  | .dramFreqChange => execDramFreqChange_keeps ..
  | .dramFreqChangeDone => execDramFreqChangeDone_keeps ..
  | .wickRequest .. => execWickRequest_keeps ..
  | .wickDeferredGrant => execWickDeferredGrant_keeps ..
  | .wickDeferTimeout .. => execWickDeferTimeout_keeps ..
  | .headroomPublish => execHeadroomPublish_keeps ..
  | .loopSample .. => execLoopSample_keeps ..
  | .spiSenseDone .. => execSpiSenseDone_keeps ..
  | .spiActuatorWrite .. => execSpiActuatorWrite_keeps ..
  | .loopFollowTimeout .. => execLoopFollowTimeout_keeps ..
  | .bankSwap .. => execBankSwap_keeps ..
  | .loopSetpoint .. => execLoopSetpoint_keeps ..
  | .loopEnable .. => execLoopEnable_keeps ..
  | .target .. => execTarget_keeps ..
  | .moveStart .. => execMoveStart_keeps ..
  | .motionTick => execMotionTick_keeps ..
  | .home .. => execHome_keeps ..
  | .axisStop .. => execAxisStop_keeps ..
  | .stopAll .. => execStopAll_keeps ..
  | .chopperTrip .. => execChopperTrip_keeps ..
  | .chopperToffExpiry .. => execChopperToffExpiry_keeps ..
  | .chopperBlankExpiry .. => execChopperBlankExpiry_keeps ..
  | .phaseOpenTimeout .. => execPhaseOpenTimeout_keeps ..
  | .timeSet .. => execTimeSet_keeps ..
  | .timeStep .. => execTimeStep_keeps ..
  | .rateTrim .. => execRateTrim_keeps ..
  | .ptpSyncSend => execPtpSyncSend_keeps ..
  | .ptpFollowUp => execPtpFollowUp_keeps ..
  | .ptpAnnounceSend => execPtpAnnounceSend_keeps ..
  | .ptpDelayReq .. => execPtpDelayReq_keeps ..
  | .ptpForeignAnnounce .. => execPtpForeignAnnounce_keeps ..
  | .ptpTimestampVector .. => execPtpTimestampVector_keeps ..
  | .calTemperature .. => execCalTemperature_keeps ..
  | .calFsi .. => execCalFsi_keeps ..
  | .calTermination .. => execCalTermination_keeps ..
  | .calEqualiser .. => execCalEqualiser_keeps ..
  | .calChopper .. => execCalChopper_keeps ..
  | .dramTraining .. => execDramTraining_keeps ..
  | .eccFill => execEccFill_keeps ..
  | .kindleEnd => execKindleEnd_keeps ..
  | .freezeNow .. => execFreezeNow_keeps ..
  | .unfreeze .. => execUnfreeze_keeps ..
  | .twinLinkUp .. => execTwinLinkUp_keeps ..
  | .twinFrameDrop .. => execTwinFrameDrop_keeps ..
  | .twinAliveHigh => execTwinAliveHigh_keeps ..
  | .supplyMonitorTrip => execSupplyMonitorTrip_keeps ..
  | .jtagTapReset => execJtagTapReset_keeps ..
  | .arpRequest .. => execArpRequest_keeps ..
  | .icmpEchoRequest .. => execIcmpEchoRequest_keeps ..

theorem step_keeps (s : State) : KeepsNext s (step s) := by
  unfold step
  split
  · exact .next (State.cycle_keeps s)
  · next c rest _ =>
    have taken : Keeps s { s with pending := rest } := (Only.with_pending (d := [.pending]) (by decide) .refl).keeps (by decide)
    exact ⟨fun t ht => ((exec_keeps _ c).keeps t ht).step taken⟩

/-- A bit of a pad that has been blown is blown in every state that keeps the fuses. -/
theorem Keeps.blown_bit {s t : State} (h : Keeps s t) {pad bit : Nat} (blown : (Table.get 0 s.fuses.blown pad).testBit bit = true) :
    (Table.get 0 t.fuses.blown pad).testBit bit = true := by
  rw [← h.fuses pad, Nat.testBit_or, blown, Bool.true_or]

/-- Settles O9: every step keeps the fuses. -/
theorem blownFusesStayBlown : Obligations.BlownFusesStayBlown :=
  fun s t _ _ ht => ((step_keeps s).keeps t ht).blown_bit

end Sys2Proof.Machine
end

section
/-! SUPPORT. O25 (04 R86 to R92): the writes of the fuse objects, and the read of FUSE_PAD_CODE. -/

namespace Sys2Proof.Machine

/-! ### FUSE_PAD_PROGRAM (04 R87, R92) -/

/-- A write of FUSE_PAD_PROGRAM that passes every check starts the blowing, and is not answered yet. -/
theorem State.send_fusePadProgram {s : State} {h : Hdr} {v : Nat} (ha : s.admits h Obj.fusePadProgram v) :
    s.send h Obj.fusePadProgram v = (s.sawPacket h).startFuse h (writePayload Obj.fusePadProgram v) v := by
  obtain ⟨x, r, hh, hr, hv, hf⟩ := ha
  have raw : storedBits r.ty v = v := storedBits_of_ne (findObj_ty_ne (by decide +kernel) r hr) v
  rw [State.send, State.receive_write hh, State.runWriteOf, parseWrite_writePayload hr]
  simp only [State.runWrite, hr, hf, State.acceptWrite, if_true, fromLe_le, Nat.mod_eq_of_lt hv, raw]

theorem fusePadProgram_starts {s : State} {h : Hdr} {v : Nat} {vpp : Bool} (ha : (s.seeVpp vpp).admits h Obj.fusePadProgram v) :
    Completes (.fusePadProgram h v vpp) s (fun t =>
      t.fuses = { s.fuses with vppOk := vpp, job := some { h := h, pad := s.reg Obj.fusePadIndex, code := v } } ∧
        t.regs = s.regs ∧ t.pins = s.pins) :=
  ⟨_, congrArg ok (State.send_fusePadProgram ha), rfl, rfl, rfl⟩

/-! ### FUSE_LOCK (04 R90) -/

theorem State.writeEffect_fuseLock (s : State) : s.writeEffect Obj.fuseLock 1 = { s with fuses := { s.fuses with locked := true } } := rfl

theorem fuseLock_locks {s : State} {h : Hdr} {vpp : Bool} (ha : (s.seeVpp vpp).admits h Obj.fuseLock 1) :
    Completes (.fuseLock h 1 vpp) s (fun t => t.fuses = { s.fuses with vppOk := vpp, locked := true } ∧ t.regs = s.regs) := by
  have effect := State.send_effect_raw ha (by decide) (findObj_ty_ne (by decide +kernel))
  rw [State.writeEffect_fuseLock] at effect
  exact ⟨_, rfl, effect.agree .fuses (by decide), effect.agree .regs (by decide)⟩

/-! ### A read of FUSE_PAD_CODE (04 R86) -/

theorem findObj_fusePadCode : ∃ r, findObj Obj.fusePadCode = .ok r ∧ r.acc ≠ .wo ∧ r.ty = .u8 :=
  ⟨_, rfl, by decide, rfl⟩

/-- The objects of 0x1200 are answered in DARK too (02 R46). -/
theorem State.heldBackObj_fusePadCode (s : State) (r : Dict.ObjRow) : s.heldBackObj Obj.fusePadCode r = false := by
  unfold State.heldBackObj
  rw [show darkObject Obj.fusePadCode r = true from rfl, Bool.not_true, Bool.and_false]

theorem State.conflicting_fusePadCode (s : State) : s.conflicting Obj.fusePadCode = false := by
  obtain ⟨r, hr, -⟩ := findObj_fusePadCode
  simp only [State.conflicting, hr, State.heldBackObj_fusePadCode, Bool.and_false]

theorem State.entryOf_fusePadCode (s : State) : s.entryOf Obj.fusePadCode = goodEntry .u8 (s.readReg Obj.fusePadCode) := by
  obtain ⟨r, hr, readable, ty⟩ := findObj_fusePadCode
  simp [State.entryOf, hr, readable, ty, State.heldBackObj_fusePadCode]

theorem State.valuesOf_fusePadCode (s : State) :
    s.valuesOf [Obj.fusePadCode] = le 1 1 ++ zeros 3 ++ goodEntry .u8 (s.readReg Obj.fusePadCode) := by
  simp only [State.valuesOf, List.flatMap_singleton, State.entryOf_fusePadCode, List.length_singleton]

/-- It is the READ of this one object, with VPP_FUSE as it was seen last. -/
theorem exec_fusePadCodeRead (h : Hdr) (s : State) :
    exec (.fusePadCodeRead h) s = exec (.read h (readPayload Obj.fusePadCode) s.fuses.vppOk) s := by
  unfold readPayload objectPayload
  simp only [← List.append_assoc]
  rfl

theorem parseRead_fusePadCode : parseRead (readPayload Obj.fusePadCode) = some [Obj.fusePadCode] := by decide +kernel

theorem fusePadCodeRead_replies {s : State} {h : Hdr} {x : Session} (hh : s.hears h (readPayload Obj.fusePadCode) x) :
    Completes (.fusePadCodeRead h) s (fun t => t.fuses = s.fuses ∧ t.regs = s.regs ∧ t.out.head? =
      some (.igrel h.src 0x20 h.sess h.tag x.txNext (le 1 1 ++ zeros 3 ++ goodEntry .u8 ((s.sawPacket h).readReg Obj.fusePadCode)) (some x.key))) := by
  obtain ⟨t, runs, frame, out, -⟩ := read_replied hh s.fuses.vppOk parseRead_fusePadCode (by decide)
    (by simpa using s.conflicting_fusePadCode)
  refine ⟨t, (exec_fusePadCodeRead h s).trans runs, by rw [frame]; rfl, by rw [frame]; rfl, ?_⟩
  rw [out, State.valuesOf_fusePadCode]
  rfl

/-- Settles O25: a lemma for each of the three commands. -/
theorem fuseWrites : Obligations.FuseWrites :=
  fun _ _ _ _ => ⟨fusePadProgram_starts, fuseLock_locks, fun _ => fusePadCodeRead_replies⟩

end Sys2Proof.Machine
end

section
/-! SUPPORT. O33 (05 R102, R111, R112, R114): packets of an open session that take no slot, and the block transfers that they move. -/

namespace Sys2Proof.Machine

/-! ### Packets of an open session (05 R102) -/

section
variable {s : State} {h : Hdr} {x : Session} (hs : s.session h.sess = some x) (hseq : x.newSeq h.seq = true)
include hs hseq

theorem State.inSession_open (run : Session → State → State) : s.inSession h run = run x (s.sawPacket h) := by
  unfold State.inSession State.sawPacket
  rw [hs]
  dsimp only
  rw [if_pos hseq, State.session_id hs]

variable (hrec : s.recovering = false) (hrun : s.igrelRuns = true) (p : List Byte)
include hrec hrun

theorem State.receive_close : s.receive h 0x05 p =
    if p = [] then (s.sawPacket h).closeSession h.sess else (s.sawPacket h).badLayout h 0x05 p := by
  unfold State.receive
  rw [if_neg (by simp [hrec]), if_neg (by simp [hrun])]
  refine (State.inSession_open hs hseq _).trans ?_
  rw [State.session_id hs]

theorem State.receive_segment : s.receive h 0x19 p = (s.sawPacket h).runSegment h p := by
  unfold State.receive
  rw [if_neg (by simp [hrec]), if_neg (by simp [hrun])]
  exact State.inSession_open hs hseq _

theorem State.receive_ack : s.receive h 0x1A p = (s.sawPacket h).runAck h p := by
  unfold State.receive
  rw [if_neg (by simp [hrec]), if_neg (by simp [hrun])]
  exact State.inSession_open hs hseq _

/-- A BLOCK_END that resends none runs, whether or not a slot is free: the transfer holds one (05 R117). -/
theorem State.receive_blockEnd (hkept : x.keptReply h.tag p = none) : s.receive h 0x1B p = (s.sawPacket h).runBlockEnd h p := by
  unfold State.receive
  rw [if_neg (by simp [hrec]), if_neg (by simp [hrun])]
  refine (State.inSession_open hs hseq _).trans ?_
  simp only [hkept, Bool.not_true, Bool.and_false, Bool.false_eq_true, if_false]

end

theorem State.receive_blockStart {s : State} {h : Hdr} {p : List Byte} {x : Session} (hh : s.hears h p x) :
    s.receive h 0x18 p = (s.sawPacket h).runBlockStart h x.level p :=
  (State.receive_hears hh).trans (State.inSlot_hears hh _ _)

/-! ### Open transfers -/

/-- The transfer of a session and a tag, where an operation changes what it carries and not whose it is. -/
theorem State.transfer_modTransfer {s : State} {sess tag : Nat} {f : Transfer → Transfer}
    (hf : ∀ t, (f t).sess = t.sess ∧ (f t).tag = t.tag) :
    (s.modTransfer sess tag f).transfer sess tag = (s.transfer sess tag).map f := by
  have same : ((fun t : Transfer => decide (t.sess = sess) && decide (t.tag = tag)) ∘ fun t => if t.sess = sess ∧ t.tag = tag then f t else t) =
      fun t => decide (t.sess = sess) && decide (t.tag = tag) := by
    funext t
    dsimp only [Function.comp_apply]
    split
    · rw [(hf t).1, (hf t).2]
    · rfl
  unfold State.modTransfer State.transfer
  rw [List.find?_map, same]
  refine Option.map_congr fun t ht => if_pos ?_
  simpa using List.find?_some ht

theorem State.sendBlock_transfers (s : State) (h : Hdr) (ty : Nat) (p : List Byte) : SameTransfers s (s.sendBlock h ty p) :=
  .ite (fun _ => ⟨rfl⟩) (fun _ => State.sendIn_transfers ..)

/-- A transfer opened under a tag that no other holds is the transfer of that tag. -/
theorem State.transfer_opened {s : State} {sess tag : Nat} {t : Transfer} (hnone : s.transfer sess tag = none) (hsess : t.sess = sess)
    (htag : t.tag = tag) :
    ({ s with igrel := { s.igrel with transfers := s.igrel.transfers ++ [t] } } : State).transfer sess tag = some t := by
  unfold State.transfer at hnone ⊢
  rw [List.find?_append, hnone]
  simp [hsess, htag]

/-! ### BLOCK_START -/

/-- A transfer of a write, as it is opened (05 R111). -/
def BlockReq.opened (b : BlockReq) (h : Hdr) : Transfer :=
  { src := h.src, sess := h.sess, tag := h.tag, key := b.key, reading := false, total := b.total, crc := b.crc, data := [], next := 0,
    base := 0, oow := false }

theorem State.openTransfer_write {s : State} {h : Hdr} {p : List Byte} {b : BlockReq} (hread : b.reading = false) :
    (s.openTransfer h p b).transfer h.sess h.tag = some (b.opened h) := by
  unfold State.openTransfer
  simp only [hread, Bool.false_and, Bool.false_eq_true, if_false]
  refine State.transfer_opened ?_ rfl rfl
  exact ((State.answer_transfers ..).transfer ..).trans (State.transfer_dropTransfer ..)

theorem blockStart_opens {s : State} {h : Hdr} {p : List Byte} {b : BlockReq} {x : Session} {r : Dict.ObjRow} (hh : s.hears h p x)
    (hp : parseBlock p = some b) (hread : b.reading = false) (hr : findObj b.key = .ok r)
    (hf : (s.sawPacket h).startFault x.level r b = none) :
    Completes (.blockStart h p) s (fun t => t = { s with igrel := t.igrel, out := t.out } ∧
      t.transfer h.sess h.tag = some (b.opened h)) := by
  have ran : s.receive h 0x18 p = (s.sawPacket h).openTransfer h p b := by
    rw [State.receive_blockStart hh, State.runBlockStart, hp]
    dsimp only
    rw [hr]
    dsimp only
    rw [hf]
  have frame : Only [.igrel, .out] s ((s.sawPacket h).openTransfer h p b) :=
    (State.openTransfer_only ..).trans (.with_igrel (by decide) .refl)
  exact ⟨_, congrArg ok ran, frame.eq_taking, State.openTransfer_write hread⟩

/-! ### BLOCK_SEGMENT -/

theorem parseSegment_le {n : Nat} {data : List Byte} (hn : n < 2 ^ 32) (h1 : 1 ≤ data.length) (h2 : data.length ≤ 1024) :
    parseSegment (le 4 n ++ data) = some (n, data) := by
  have number : field (le 4 n ++ data) 0 4 = n := (field_le [] data 4 n).trans (Nat.mod_eq_of_lt hn)
  unfold parseSegment
  rw [if_pos (by simp; omega), number, List.drop_left' (le_length 4 n)]

/-- A segment of the window: the next one is appended, any other is dropped (05 R111). -/
theorem State.runSegment_window {s : State} {h : Hdr} {p data : List Byte} {n : Nat} {tr : Transfer} (hp : parseSegment p = some (n, data))
    (htr : s.transfer h.sess h.tag = some tr) (hread : tr.reading = false) (hlo : tr.base ≤ n) (hhi : n < tr.base + 16) :
    ∃ u, (s.runSegment h p).transfer h.sess h.tag = some u ∧ u.data = (if n = tr.next then tr.data ++ data else tr.data) ∧
      u.next = if n = tr.next then n + 1 else tr.next := by
  unfold State.runSegment
  rw [hp]
  dsimp only
  rw [htr]
  dsimp only
  rw [if_neg (by simp [hread]), if_neg (by omega)]
  by_cases hnext : n = tr.next
  · simp only [if_pos hnext, if_neg (not_not.mpr hnext)]
    generalize hf : (fun x : Transfer => ({ x with src := h.src, data := _, next := _, base := _, oow := _ } : Transfer)) = f
    have taken : (s.modTransfer h.sess h.tag f).transfer h.sess h.tag = some (f tr) := by
      rw [State.transfer_modTransfer (by subst hf; exact fun _ => ⟨rfl, rfl⟩), htr, Option.map_some]
    refine ⟨f tr, ?_, by subst hf; rfl, by subst hf; rfl⟩
    split
    · rw [(State.sendBlock_transfers ..).transfer, taken]
    · exact taken
  · simp only [if_neg hnext, if_pos (show n ≠ tr.next from hnext)]
    exact ⟨tr, htr, rfl, rfl⟩

theorem blockSegment_gathers {s : State} {h : Hdr} {n : Nat} {data : List Byte} {x : Session} {tr : Transfer} (hn : n < 2 ^ 32)
    (h1 : 1 ≤ data.length) (h2 : data.length ≤ 1024) (hrec : s.recovering = false) (hrun : s.igrelRuns = true)
    (hs : s.session h.sess = some x) (hseq : x.newSeq h.seq = true) (htr : s.transfer h.sess h.tag = some tr) (hread : tr.reading = false)
    (hlo : tr.base ≤ n) (hhi : n < tr.base + 16) :
    Completes (.blockSegment h (le 4 n ++ data)) s (fun t => t = { s with igrel := t.igrel, out := t.out } ∧
      (t.transfer h.sess h.tag).map Transfer.data = some (if n = tr.next then tr.data ++ data else tr.data) ∧
      (t.transfer h.sess h.tag).map Transfer.next = some (if n = tr.next then n + 1 else tr.next)) := by
  obtain ⟨u, hu, hdata, hnext⟩ := State.runSegment_window (s := s.sawPacket h) (parseSegment_le hn h1 h2) htr hread hlo hhi
  have frame : Only [.igrel, .out] s ((s.sawPacket h).runSegment h (le 4 n ++ data)) :=
    (State.runSegment_only ..).trans (.with_igrel (by decide) .refl)
  refine ⟨_, congrArg ok (State.receive_segment hs hseq hrec hrun _), frame.eq_taking, ?_, ?_⟩
  · rw [hu, Option.map_some, hdata]
  · rw [hu, Option.map_some, hnext]

/-! ### BLOCK_ACK and the end of an idle transfer -/

theorem parseAck_le {n : Nat} (hn : n < 2 ^ 32) : parseAck (le 4 n) = some n := by
  have number := field_le [] [] 4 n
  rw [List.append_nil] at number
  unfold parseAck
  rw [if_pos (le_length 4 n)]
  exact congrArg some (number.trans (Nat.mod_eq_of_lt hn))

/-- The acknowledgement past the last segment closes a read (05 R111). -/
theorem State.runAck_last {s : State} {h : Hdr} {p : List Byte} {n : Nat} {tr : Transfer} (hp : parseAck p = some n)
    (htr : s.transfer h.sess h.tag = some tr) (hread : tr.reading = true) (hlo : tr.base ≤ n) (hhi : n ≤ tr.next)
    (hlast : segments tr.total ≤ n) : s.runAck h p = s.dropTransfer h.sess h.tag := by
  unfold State.runAck
  rw [hp]
  dsimp only
  rw [htr]
  dsimp only
  rw [if_neg (by simp [hread]; omega), if_pos hlast]

theorem blockAck_closes {s : State} {h : Hdr} {x : Session} {tr : Transfer} (hrec : s.recovering = false) (hrun : s.igrelRuns = true)
    (hs : s.session h.sess = some x) (hseq : x.newSeq h.seq = true) (htr : s.transfer h.sess h.tag = some tr) (hread : tr.reading = true)
    (hlo : tr.base ≤ segments tr.total) (hnext : tr.next = segments tr.total) (hn : segments tr.total < 2 ^ 32) :
    Completes (.blockAck h (le 4 (segments tr.total))) s (fun t => t = { s with igrel := t.igrel } ∧ t.transfer h.sess h.tag = none) := by
  have ran : s.receive h 0x1A (le 4 (segments tr.total)) = (s.sawPacket h).dropTransfer h.sess h.tag :=
    (State.receive_ack hs hseq hrec hrun _).trans (State.runAck_last (parseAck_le hn) htr hread hlo hnext.ge le_rfl)
  exact ⟨_, congrArg ok ran, rfl, State.transfer_dropTransfer ..⟩

theorem blockTimeout_drops {s : State} {sess tag : Nat} {tr : Transfer} (htr : s.transfer sess tag = some tr) :
    Completes (.blockTimeout sess tag) s (fun t => t = { s with igrel := t.igrel, out := t.out } ∧ t.transfer sess tag = none) := by
  let h : Hdr := { src := tr.src, sess := sess, seq := 0, tag := tag }
  let r : Reply := .abort Abort.blockTimeout 0 (tr.key / 256) (tr.key % 256)
  have ran : execBlockTimeout sess tag s = ok ((s.dropTransfer sess tag).respond h r) := by
    unfold execBlockTimeout
    rw [htr]
  have frame : Only [.igrel, .out] s ((s.dropTransfer sess tag).respond h r) :=
    (State.respond_only ..).trans ((State.dropTransfer_only ..).mono (by decide))
  exact ⟨_, ran, frame.eq_taking, ((State.respond_transfers ..).transfer ..).trans (State.transfer_dropTransfer ..)⟩

/-- Settles O33: the four packets and events of a transfer, each by its own lemma. -/
theorem blockTransfersMoveContent : Obligations.BlockTransfersMoveContent := by
  unfold Obligations.BlockTransfersMoveContent
  intro s
  exact ⟨fun h p b x r => blockStart_opens,
    fun h n data x tr hn h1 h2 _ hrec hrun => blockSegment_gathers hn h1 h2 hrec hrun,
    fun h x tr _ => blockAck_closes, fun sess tag tr => blockTimeout_drops⟩

end Sys2Proof.Machine
end

section
/-! SUPPORT. O34 (05 R106, R112, R122): what a BLOCK_END runs, and what each kind of content does where it is taken. -/

namespace Sys2Proof.Machine

/-! ### Contents -/

/-- A content reads as before after another is given. -/
theorem State.dom_setDom_other (s : State) {j k : Nat} (c : List Byte) (h : j ≠ k) : (s.setDom k c).dom j = s.dom j := by
  unfold State.dom State.setDom Table.get Table.put
  dsimp only
  generalize (if c = zeros (zeroDefaultSize k) then [] else c) = c'
  split
  · rw [Table.find_erase, if_neg h]
  · rw [Table.find_insert, if_neg h]

/-- A content reads as it was written; nothing stands for the zeros of a table of a fixed size alone. -/
theorem State.domBytes_setDom (s : State) {k : Nat} {c : List Byte} (hc : c = [] → zeroDefaultSize k = 0) :
    (s.setDom k c).domBytes k = c := by
  unfold State.domBytes
  rw [State.dom_setDom_same]
  by_cases hz : c = zeros (zeroDefaultSize k)
  · rw [if_pos hz, if_pos rfl, hz]
  · rw [if_neg hz, if_neg fun e => hz (by rw [hc e, e]; rfl)]

/-- An object that no table of zeros stands for holds what it is given. -/
theorem State.dom_setDom_plain (s : State) {k : Nat} (c : List Byte) (hk : zeroDefaultSize k = 0) : (s.setDom k c).dom k = c := by
  rw [State.dom_setDom_same, hk]
  split
  next hz => exact hz.symm
  · rfl

theorem zeroDefaultSize_eq_zero {k : Nat} (hd : k ≠ Obj.densityTrim) (hp : k ≠ Obj.placementTrim) : zeroDefaultSize k = 0 :=
  if_neg (by simp [hd, hp])

/-- A table of zeros has its size, so that its content is not empty. -/
theorem State.contentOk_nonempty {s : State} {k : Nat} {b : List Byte} (h : s.contentOk k b = true) (hb : b = []) : zeroDefaultSize k = 0 := by
  refine zeroDefaultSize_eq_zero (fun e => ?_) (fun e => ?_)
  · have size : s.contentOk Obj.densityTrim b = decide (b.length = 262144) := rfl
    rw [e, size, hb] at h
    exact absurd h (by decide)
  · have size : s.contentOk Obj.placementTrim b = (decide (b.length = 262144) && b.all (fun x => decide (x.toNat < 64))) := rfl
    rw [e, size, hb] at h
    exact absurd h (by decide)

/-! ### What a BLOCK_END runs -/

/-- The state in which a BLOCK_END's checks are made: its packet has been seen, and its transfer is closed. -/
def State.endOf (s : State) (h : Hdr) : State := (s.sawPacket h).dropTransfer h.sess h.tag

/-- Only the protocol's own state is another there. -/
theorem State.endOf_only (s : State) (h : Hdr) : Only [.igrel] s (s.endOf h) :=
  (State.dropTransfer_only ..).trans (.with_igrel (by decide) .refl)

theorem State.endOf_transfer (s : State) (h : Hdr) : (s.endOf h).transfer h.sess h.tag = none := State.transfer_dropTransfer ..

/-- What an executed BLOCK_END leaves: its transfer is closed, the mode stands, and its source has been sent an empty REPLY last. -/
def State.blockDone (s t : State) (h : Hdr) (x : Session) : Prop :=
  t.transfer h.sess h.tag = none ∧ t.mode = s.mode ∧ t.out.head? = some (.igrel h.src 0x20 h.sess h.tag x.txNext [] (some x.key))

/-- The state after a BLOCK_END that passes every check: its content taken, forwarded (12 R285), and answered. -/
def State.takenEnd (s : State) (h : Hdr) (tr : Transfer) : State :=
  (((s.endOf h).takeContent tr.key tr.data).forwardWrite tr.key tr.data).answer h 0x1B [] (.ok [])

/-- A state with more sent: all of it stands but the protocol's own state, and all that was sent still is. -/
structure Answered (s t : State) : Prop where
  only : Only [.igrel, .out] s t
  out : ∀ o ∈ s.out, o ∈ t.out

theorem State.forwardWrite_mem {s : State} {key : Nat} {b : List Byte} {o : Out} (h : o ∈ s.out) : o ∈ (s.forwardWrite key b).out := by
  unfold State.forwardWrite
  split
  · split
    · exact .tail _ h
    · exact h
  · exact h

/-- Where no check fails, each of them passes. -/
theorem firstFail_none {l : List (Bool × Bad)} (h : firstFail l = none) : ∀ c ∈ l, c.1 = false := by
  induction l with
  | nil => exact fun _ hc => nomatch hc
  | cons c l ih =>
    obtain ⟨fails, e⟩ := c
    cases fails with
    | true => cases h
    | false => exact List.forall_mem_cons.mpr ⟨rfl, ih h⟩

theorem State.endFault_contentOk {s : State} {tr : Transfer} (hf : s.endFault tr = none) : s.contentOk tr.key tr.data = true := by
  unfold State.endFault at hf
  split at hf
  · cases hf
  · simpa using firstFail_none hf (_, ⟨Abort.range, false⟩) (.tail _ (.tail _ (.head _)))

theorem State.refuse_transfers (s : State) (h : Hdr) (ty : Nat) (p : List Byte) (key : Nat) (b : Bad) :
    SameTransfers s (s.refuse h ty p key b) := by
  unfold State.refuse
  extract_lets s1
  have h1 : SameTransfers s s1 := .ite (fun _ => (State.logEvent_transfers ..).step ⟨rfl⟩) (fun _ => .refl)
  dsimp only
  split
  · exact (State.answer_transfers ..).step (.step (t := s1) ⟨rfl⟩ h1)
  · exact (State.answer_transfers ..).step h1

section
variable {s : State} {h : Hdr} {x : Session} {tr : Transfer} (he : s.ends h x tr)
include he

theorem State.ends.opened : (s.endOf h).session h.sess = some (x.seen h.seq) := by
  obtain ⟨-, -, -, hs, -⟩ := he
  exact State.sawPacket_session hs

theorem State.ends.refused {e : Bad} (hf : (s.endOf h).endFault tr = some e) :
    s.receive h 0x1B [] = (s.endOf h).refuse h 0x1B [] tr.key e := by
  obtain ⟨-, hrec, hrun, hs, hseq, hkept, htr, hread⟩ := he
  rw [State.receive_blockEnd hs hseq hrec hrun [] hkept]
  unfold State.endOf at hf ⊢
  unfold State.runBlockEnd
  rw [if_neg (by simp), show (s.sawPacket h).transfer h.sess h.tag = some tr from htr]
  dsimp only
  rw [if_neg (by simp [hread]), hf]

/-- A BLOCK_END that fails a check closes the transfer and takes nothing (05 R112). -/
theorem blockEnd_refused {e : Bad} (hf : (s.endOf h).endFault tr = some e) : Completes (.blockEnd h []) s (fun t =>
    t = { s with regs := t.regs, igrel := t.igrel, ylog := t.ylog, out := t.out, freeCtr := t.freeCtr, flagged := t.flagged } ∧
    t.transfer h.sess h.tag = none ∧ s.regsBut t (Obj.conflictCount :: yilloggerObjects)) := by
  have frame : Only [.regs, .igrel, .ylog, .out, .freeCtr, .flagged] s ((s.endOf h).refuse h 0x1B [] tr.key e) :=
    (State.refuse_only ..).step (by decide) ((s.endOf_only h).mono (by decide))
  exact ⟨_, congrArg ok (he.refused hf), frame.eq_taking, ((State.refuse_transfers ..).transfer ..).trans (s.endOf_transfer h),
    ((s.endOf h).refuse_leaves h 0x1B [] tr.key e).1⟩

/-- The content taken, forwarded and answered. -/
theorem State.ends.done : s.blockDone (s.takenEnd h tr) h x := by
  unfold State.takenEnd
  generalize hu : ((s.endOf h).takeContent tr.key tr.data).forwardWrite tr.key tr.data = u
  have taken : Only [.regs, .doms, .flash, .decomp, .trimGen, .heads, .lantern, .chans, .check, .dram, .out] (s.endOf h) u :=
    hu ▸ (State.forwardWrite_only ..).step (by decide) (State.takeContent_only ..)
  have opened : u.session h.sess = some (x.seen h.seq) := (State.session_congr (taken.agree .igrel (by decide)) _).trans he.opened
  refine ⟨?_, ?_, ?_⟩
  · rw [(State.answer_transfers ..).transfer, (taken.sameTransfers (by decide)).transfer, s.endOf_transfer h]
  · rw [(State.answer_only ..).agree .mode (by decide), taken.agree .mode (by decide), (s.endOf_only h).agree .mode (by decide)]
  · rw [(State.answer_open he.1 opened 0x1B [] (r := .ok []) rfl).1]
    rfl

theorem State.ends.answered : Answered ((s.endOf h).takeContent tr.key tr.data) (s.takenEnd h tr) := by
  unfold State.takenEnd
  generalize hv : (s.endOf h).takeContent tr.key tr.data = v
  generalize hu : v.forwardWrite tr.key tr.data = u
  have sent : Only [.out] v u := hu ▸ State.forwardWrite_only ..
  have opened : u.session h.sess = some (x.seen h.seq) := by
    rw [State.session_congr (sent.agree .igrel (by decide)), ← hv,
      State.session_congr ((State.takeContent_only ..).agree .igrel (by decide)), he.opened]
  refine ⟨(State.answer_only ..).trans (sent.mono (by decide)), fun o ho => ?_⟩
  rw [(State.answer_open he.1 opened 0x1B [] (r := .ok []) rfl).1]
  exact .tail _ (hu ▸ State.forwardWrite_mem ho)

variable (hf : (s.endOf h).endFault tr = none) (hkey : tr.key ≠ Obj.healthEdit)
include hf hkey

/-- A command of a content's own ends its transfer as BLOCK_END does. -/
theorem State.ends.accepted {mine : Nat → Bool} (hmine : mine tr.key = true) : s.sendEnd h mine = s.takenEnd h tr :=
  (State.sendEnd_ends he hf hmine).trans (if_neg hkey)

theorem State.ends.receive_accepted : s.receive h 0x1B [] = s.takenEnd h tr := by
  obtain ⟨-, -, -, -, -, -, htr, hread⟩ := id he
  have sent : s.sendEnd h (fun _ => true) = s.receive h 0x1B [] := by
    unfold State.sendEnd
    rw [htr]
    exact if_pos (by simp [hread])
  exact sent.symm.trans (he.accepted hf hkey rfl)

/-- A BLOCK_END that passes every check ends so, whatever the content's own statement. -/
theorem State.ends.blockEnd {P : State → Prop} (hP : ∀ t, Answered ((s.endOf h).takeContent tr.key tr.data) t → P t) :
    Completes (.blockEnd h []) s (fun t => s.blockDone t h x ∧ P t) :=
  ⟨_, congrArg ok (he.receive_accepted hf hkey), he.done, hP _ he.answered⟩

theorem State.ends.both {c : Instr} {mine : Nat → Bool} (hc : exec c s = ok (s.sendEnd h mine)) (hmine : mine tr.key = true)
    {P : State → Prop} (hP : ∀ t, Answered ((s.endOf h).takeContent tr.key tr.data) t → P t) :
    Completes c s (fun t => s.blockDone t h x ∧ P t) ∧ Completes (.blockEnd h []) s (fun t => s.blockDone t h x ∧ P t) :=
  ⟨⟨_, hc.trans (congrArg ok (he.accepted hf hkey hmine)), he.done, hP _ he.answered⟩, he.blockEnd hf hkey hP⟩

end

end Sys2Proof.Machine
end

section
/-! SUPPORT. O34, a lemma for each kind of content (05 R122; 06 R142; 07 R167; 08 R195; 13 R319; 15 R354; 16 R361; 19 R412), and O34 itself. -/

namespace Sys2Proof.Machine

/-! ### Firmware slots (05 R122) -/

theorem State.emitAll_mem {s : State} {l : List Out} {o : Out} (h : o ∈ l ∨ o ∈ s.out) : o ∈ (s.emitAll l).out := by
  induction l generalizing s with
  | nil => exact h.resolve_left (List.not_mem_nil)
  | cons p l ih => exact ih (by simpa [State.emit, or_assoc, or_left_comm] using h)

theorem State.programSlot_out (s : State) (base : Nat) (b : List Byte) : .norProgram base (b.take 256) ∈ (s.programSlot base b).out ∧
    ∀ i, 4096 * i < b.length → .norErase (base + 4096 * i) ∈ (s.programSlot base b).out := by
  refine ⟨.head _, fun i hi => .tail _ (.tail _ (State.emitAll_mem (.inl ?_)))⟩
  exact List.mem_map.mpr ⟨i, List.mem_range.mpr (by omega), rfl⟩

/-- A slot written is programmed at its base, and nothing but the NOR has changed. -/
theorem State.takeContent_slot {s : State} {key base : Nat} (b : List Byte)
    (hkey : (key = Obj.fwSlot0 ∧ base = 0) ∨ (key = Obj.fwSlot1 ∧ base = 0x400000)) :
    Only [.flash, .out] s (s.takeContent key b) ∧
      (s.takeContent key b).flash = (if key = Obj.fwSlot0 then { s.flash with slot0 := b } else { s.flash with slot1 := b }) ∧
      (s.takeContent key b).out = (s.programSlot base b).out := by
  rcases hkey with ⟨rfl, rfl⟩ | ⟨rfl, rfl⟩
  · exact ⟨.with_flash (by decide) ((State.programSlot_only ..).mono (by decide)), rfl, rfl⟩
  · exact ⟨.with_flash (by decide) ((State.programSlot_only ..).mono (by decide)), rfl, rfl⟩

/-! ### RING_MAP (06 R142) -/

theorem State.ringCredits_granted (s : State) {l : List Nat} {k : Nat} (hk : k ∈ l) :
    (s.ringCredits l).reg (Obj.creditsGranted k) = s.ringSize k / 64 := by
  induction l generalizing s with
  | nil => cases hk
  | cons j l ih =>
    rw [State.ringCredits]
    by_cases hl : k ∈ l
    · exact ih _ hl
    · obtain rfl : k = j := (List.mem_cons.mp hk).resolve_right hl
      have others (t : State) (m : List Nat) (hm : k ∉ m) : (t.ringCredits m).reg (Obj.creditsGranted k) = t.reg (Obj.creditsGranted k) := by
        induction m generalizing t with
        | nil => rfl
        | cons i m ihm =>
          obtain ⟨hi, hm⟩ := not_or.mp (List.mem_cons.not.mp hm)
          rw [State.ringCredits, ihm _ hm, t.reg_setReg_other _ (by simp only [Obj.creditsGranted]; omega)]
      rw [others _ l hl, State.reg_setReg_same]

theorem State.takeRingMap_takes (s : State) (b : List Byte) : (s.takeRingMap b).dom Obj.ringMap = b ∧
    ∀ k, k < 160 → (s.takeRingMap b).reg (Obj.creditsGranted k) = (s.takeRingMap b).ringSize k / 64 := by
  have doms : (s.takeRingMap b).doms = (s.setDom Obj.ringMap b).doms := (State.ringCredits_only ..).agree .doms (by decide)
  have dom : (s.takeRingMap b).dom Obj.ringMap = (s.setDom Obj.ringMap b).dom Obj.ringMap := by
    unfold State.dom
    rw [doms]
  refine ⟨dom.trans (s.dom_setDom_plain b (zeroDefaultSize_eq_zero (by decide) (by decide))), fun k hk => ?_⟩
  refine (State.ringCredits_granted _ (List.mem_range.mpr hk)).trans ?_
  unfold State.ringSize
  rw [dom]

/-! ### A stream's context (07 R167) -/

theorem State.takeContent_image (s : State) {k : Nat} (hk : k < 160) (b : List Byte) :
    s.takeContent (256 * (0x2100 + k) + 0x17) b = s.takeImage k b := by
  have hidx : (256 * (0x2100 + k) + 0x17) / 256 = 0x2100 + k := by omega
  unfold State.takeContent
  dsimp only
  rw [hidx, if_neg (by simp only [Obj.ringMap]; omega), if_neg (by simp only [Obj.fwSlot0]; omega),
    if_neg (by simp only [Obj.fwSlot1]; omega), if_pos (by omega), Nat.add_sub_cancel_left]

theorem State.takeImage_ctx (s : State) (k : Nat) (b : List Byte) : (s.takeImage k b).ctx k =
    { s.ctx k with work := CtxState.ofImage b, ckpt := CtxState.ofImage b, trail := [] } := State.ctx_setCtx_same ..

/-! ### PLACEMENT_TRIM (08 R195, 11 R281) -/

/-- A new table is acknowledged by none of the modules listed. -/
theorem State.trimOk_cleared (l : List Nat) (s : State) {m : Nat} (hm : m ∈ l ∨ (s.head m).trimOk = false) :
    ((l.foldl (fun s m => s.setHead m { s.head m with trimOk := false }) s).head m).trimOk = false := by
  induction l generalizing s with
  | nil => exact hm.resolve_left (List.not_mem_nil)
  | cons j l ih =>
    refine ih _ ?_
    by_cases hj : m = j
    · exact .inr (by rw [hj, State.head_setHead_same])
    · refine hm.imp (fun h => (List.mem_cons.mp h).resolve_left hj) fun h => ?_
      exact (congrArg HeadLane.trimOk (Table.get_put_other _ _ _ hj)).trans h

theorem State.takeTrim_takes {s : State} {b : List Byte} (hb : b ≠ []) : (s.takeTrim b).domBytes Obj.placementTrim = b ∧
    (s.takeTrim b).trimGen = (s.trimGen + 1) % 2 ^ 32 ∧ ∀ m, m < 32 → s.populated m = true → ((s.takeTrim b).head m).trimOk = false := by
  unfold State.takeTrim
  extract_lets s1 s2 s3
  have modules : Only [.heads] s2 s3 := .foldl (fun _ _ => .with_heads (by decide) .refl) .refl
  have sent : Only [.out] s3 (s3.sendTrims s3.upLanes) := State.sendTrims_only ..
  generalize s3.sendTrims s3.upLanes = t at sent
  refine ⟨?_, ?_, fun m hm hpop => ?_⟩
  · have doms : t.doms = s1.doms := (sent.agree .doms (by decide)).trans (modules.agree .doms (by decide))
    have same : t.domBytes Obj.placementTrim = s1.domBytes Obj.placementTrim := by
      unfold State.domBytes State.dom
      rw [doms]
    exact same.trans (s.domBytes_setDom fun e => absurd e hb)
  · exact (sent.agree .trimGen (by decide)).trans (modules.agree .trimGen (by decide))
  · have head : t.head m = s3.head m := by
      unfold State.head
      rw [sent.agree .heads (by decide)]
    rw [head]
    exact State.trimOk_cleared _ _ (.inl (List.mem_filter.mpr ⟨List.mem_range.mpr hm, hpop⟩))

/-! ### UPLOAD_REQUEST and SCAN_REQUEST (15 R354, 16 R361) -/

theorem State.startUpload_req (s : State) (r : UAsk) : ((s.startUpload r).chan r.ch).req =
    some { tag := r.tag, src := r.src, len := r.len, base := r.base, size := r.size } := by
  unfold State.startUpload
  extract_lets c q
  have read : Only [.dram] (s.setChan r.ch { c with sync := true, req := some q })
      ((s.setChan r.ch { c with sync := true, req := some q }).readChunk r.ch q) := State.readChunk_only ..
  rw [State.chan, read.agree .chans (by decide)]
  exact congrArg Chan.req (State.chan_setChan_same ..)

theorem State.parseScan_unit {s : State} {b : List Byte} {y : Scan} (h : s.parseScan b = some y) : y.unit ≤ 15 := by
  unfold State.parseScan at h
  dsimp only at h
  split at h
  next hok =>
    obtain ⟨-, -, hunit, -⟩ := hok
    cases h
    exact hunit
  · cases h

/-- Starting the scan at the head of the queue leaves the queue and its count. -/
theorem State.startScan_leaves (s : State) (hu : ∀ y ∈ s.check.queue, y.unit ≤ 15) :
    s.startScan.check = s.check ∧ s.startScan.reg Obj.scanQueued = s.reg Obj.scanQueued := by
  unfold State.startScan
  split
  next y rest hq =>
    have hy : y.unit ≤ 15 := hu y (by rw [hq]; exact .head _)
    have asked := State.askMem_only (s.setReg (Obj.unitState y.unit) 1) .scan false (creditsOf y.len)
    refine ⟨asked.agree .check (by decide), (asked.reg (by decide) _).trans (s.reg_setReg_other _ ?_)⟩
    simp only [Obj.scanQueued, Obj.unitState]
    omega
  · exact ⟨rfl, rfl⟩

theorem State.queueScan_queues {s : State} {y : Scan} (hy : y.unit ≤ 15) : (s.queueScan y).check.queue = s.check.queue ++ [y] ∧
    (s.queueScan y).reg Obj.scanQueued = s.check.queue.length + 1 := by
  unfold State.queueScan
  extract_lets first c s1 s2 s3
  have check : s2.check = s1.check := by
    show (if _ then _ else s1 : State).check = s1.check
    split <;> rfl
  have queue : s3.check.queue = s.check.queue ++ [y] := congrArg Check.queue check
  have count : s3.reg Obj.scanQueued = s.check.queue.length + 1 := by
    have noted : s3.reg Obj.scanQueued = s2.check.queue.length := State.reg_setReg_same ..
    rw [noted, congrArg Check.queue check]
    exact List.length_append
  split
  next hfirst =>
    have alone : s3.check.queue = [y] := by rw [queue, List.isEmpty_iff.mp hfirst, List.nil_append]
    obtain ⟨same, stays⟩ := s3.startScan_leaves (fun z hz => by
      rw [alone] at hz
      rwa [List.mem_singleton.mp hz])
    exact ⟨(congrArg Check.queue same).trans queue, stays.trans count⟩
  · exact ⟨queue, count⟩

/-! ### Loop tables, and every other content (19 R412; 05 R112) -/

/-- The objects whose contents are taken each in its own way. -/
def ownContents : List Nat :=
  [Obj.ringMap, Obj.fwSlot0, Obj.fwSlot1, Obj.placementTrim, Obj.uartTx, Obj.uploadRequest, Obj.scanRequest]

/-- Any other content is given to its object, a loop table normalised. -/
theorem State.takeContent_table (s : State) {key : Nat} (b : List Byte) (hnot : key ∉ ownContents)
    (hidx : key / 256 < 0x2100 ∨ 0x21A0 ≤ key / 256) :
    s.takeContent key b = s.setDom key (((loopOf key).bind fun i => loopTable (i.2 % 8) b).getD b) := by
  simp only [ownContents, List.mem_cons, List.not_mem_nil, or_false, not_or] at hnot
  obtain ⟨hring, hslot0, hslot1, htrim, huart, hupload, hscan⟩ := hnot
  unfold State.takeContent
  simp only [if_neg hring, if_neg hslot0, if_neg hslot1, if_neg htrim, if_neg huart, if_neg hupload, if_neg hscan]
  rw [if_neg (by omega)]
  cases loopOf key <;> rfl

theorem loopOf_range {key : Nat} {i : Nat × Nat} (h : loopOf key = some i) : 0x2B00 ≤ key / 256 ∧ key / 256 < 0x2B30 := by
  unfold loopOf at h
  split at h
  next hr => exact hr
  · cases h

theorem State.takeContent_loop (s : State) {key : Nat} {i : Nat × Nat} {b c : List Byte} (hi : loopOf key = some i)
    (hc : loopTable (i.2 % 8) b = some c) : s.takeContent key b = s.setDom key c := by
  have hrange := loopOf_range hi
  have apart : ∀ k ∈ ownContents, ¬(0x2B00 ≤ k / 256 ∧ k / 256 < 0x2B30) := by decide
  rw [s.takeContent_table b (fun h => apart _ h hrange) (by omega), hi, Option.bind_some, hc, Option.getD_some]

/-! ### The statement's clauses -/

section
variable {s : State} {h : Hdr} {x : Session} {tr : Transfer} (he : s.ends h x tr) (hf : (s.endOf h).endFault tr = none)
include he hf

theorem fwSlot_ends (base : Nat) (hkey : (tr.key = Obj.fwSlot0 ∧ base = 0) ∨ (tr.key = Obj.fwSlot1 ∧ base = 0x400000)) :
    let P (t : State) : Prop := s.blockDone t h x ∧ t.regs = s.regs ∧
      t.flash = (if tr.key = Obj.fwSlot0 then { s.flash with slot0 := tr.data } else { s.flash with slot1 := tr.data }) ∧
      .norProgram base (tr.data.take 256) ∈ t.out ∧ ∀ i, 4096 * i < tr.data.length → .norErase (base + 4096 * i) ∈ t.out
    Completes (.fwSlotWrite h) s P ∧ Completes (.blockEnd h []) s P := by
  have slot : tr.key = Obj.fwSlot0 ∨ tr.key = Obj.fwSlot1 := hkey.imp And.left And.left
  have other : tr.key ≠ Obj.healthEdit := by
    rcases slot with e | e <;> rw [e] <;> decide
  refine he.both hf other (mine := fun k => decide (k = Obj.fwSlot0) || decide (k = Obj.fwSlot1)) rfl (by simpa using slot) fun t ht => ?_
  obtain ⟨only, flash, out⟩ := (s.endOf h).takeContent_slot tr.data hkey
  obtain ⟨programmed, erased⟩ := (s.endOf h).programSlot_out base tr.data
  rw [← out] at programmed erased
  refine ⟨?_, (ht.only.agree .flash (by decide)).trans flash, ht.out _ programmed, fun i hi => ht.out _ (erased i hi)⟩
  exact (ht.only.agree .regs (by decide)).trans ((only.agree .regs (by decide)).trans ((s.endOf_only h).agree .regs (by decide)))

theorem ringMap_ends (hkey : tr.key = Obj.ringMap) :
    let P (t : State) : Prop := s.blockDone t h x ∧ t.dom Obj.ringMap = tr.data ∧
      ∀ k, k < 160 → t.reg (Obj.creditsGranted k) = t.ringSize k / 64
    Completes (.ringMapWrite h) s P ∧ Completes (.blockEnd h []) s P := by
  refine he.both hf (by rw [hkey]; decide) (mine := fun k => decide (k = Obj.ringMap)) rfl (decide_eq_true hkey) fun t ht => ?_
  have content : (s.endOf h).takeContent tr.key tr.data = (s.endOf h).takeRingMap tr.data := if_pos hkey
  rw [content] at ht
  obtain ⟨dom, credits⟩ := (s.endOf h).takeRingMap_takes tr.data
  have same : t.dom Obj.ringMap = ((s.endOf h).takeRingMap tr.data).dom Obj.ringMap := by
    unfold State.dom
    rw [ht.only.agree .doms (by decide)]
  refine ⟨same.trans dom, fun k hk => ?_⟩
  rw [ht.only.reg (by decide), credits k hk]
  unfold State.ringSize
  rw [same]

theorem contextImage_ends (k : Nat) (hk : k < 160) (hkey : tr.key = 256 * (0x2100 + k) + 0x17) :
    let P (t : State) : Prop := s.blockDone t h x ∧ (t.ctx k).work = CtxState.ofImage tr.data ∧ (t.ctx k).ckpt = CtxState.ofImage tr.data ∧
      (t.ctx k).trail = []
    Completes (.contextImageWrite h) s P ∧ Completes (.blockEnd h []) s P := by
  refine he.both hf (by rw [hkey]; simp only [Obj.healthEdit]; omega)
    (mine := fun k => decide (0x2100 ≤ k / 256) && decide (k / 256 < 0x21A0)) rfl (by simp; omega) fun t ht => ?_
  rw [hkey, (s.endOf h).takeContent_image hk] at ht
  have ctx : t.ctx k = ((s.endOf h).takeImage k tr.data).ctx k := by
    unfold State.ctx
    rw [ht.only.agree .decomp (by decide)]
  rw [ctx, State.takeImage_ctx]
  exact ⟨rfl, rfl, rfl⟩

theorem placementTrim_ends (hkey : tr.key = Obj.placementTrim) :
    let P (t : State) : Prop := s.blockDone t h x ∧ t.domBytes Obj.placementTrim = tr.data ∧ t.trimGen = (s.trimGen + 1) % 2 ^ 32 ∧
      t.regs = s.regs ∧ ∀ m, m < 32 → s.populated m = true → (t.head m).trimOk = false
    Completes (.placementTrimWrite h) s P ∧ Completes (.blockEnd h []) s P := by
  refine he.both hf (by rw [hkey]; decide) (mine := fun k => decide (k = Obj.placementTrim)) rfl (decide_eq_true hkey) fun t ht => ?_
  have content : (s.endOf h).takeContent tr.key tr.data = (s.endOf h).takeTrim tr.data := by rw [hkey]; rfl
  rw [content] at ht
  have full : tr.data ≠ [] := fun e =>
    absurd (State.contentOk_nonempty (State.endFault_contentOk hf) e) (by rw [hkey]; decide)
  obtain ⟨bytes, gen, heads⟩ := State.takeTrim_takes (s := s.endOf h) full
  refine ⟨?_, (ht.only.agree .trimGen (by decide)).trans gen, ?_, fun m hm hpop => ?_⟩
  · rw [← bytes]
    unfold State.domBytes State.dom
    rw [ht.only.agree .doms (by decide)]
  · have taken := (State.takeTrim_only (s.endOf h) tr.data).agree .regs (by decide)
    exact (ht.only.agree .regs (by decide)).trans (taken.trans ((s.endOf_only h).agree .regs (by decide)))
  · rw [State.head, ht.only.agree .heads (by decide)]
    exact heads m hm hpop

theorem uartTx_ends (hkey : tr.key = Obj.uartTx) :
    let P (t : State) : Prop := s.blockDone t h x ∧ t.regs = s.regs ∧
      Table.get Uart.idle t.lantern.uarts (s.reg Obj.uartContext / 4) = .queued tr.data
    Completes (.uartTx h) s P ∧ Completes (.blockEnd h []) s P := by
  refine he.both hf (by rw [hkey]; decide) (mine := fun k => decide (k = Obj.uartTx)) rfl (decide_eq_true hkey) fun t ht => ?_
  have content : (s.endOf h).takeContent tr.key tr.data = (s.endOf h).queueUart tr.data := by rw [hkey]; rfl
  rw [content] at ht
  refine ⟨ht.only.agree .regs (by decide), ?_⟩
  rw [ht.only.agree .lantern (by decide)]
  exact Table.get_put_same Uart.idle s.lantern.uarts (s.reg Obj.uartContext / 4) (.queued tr.data)

theorem uploadRequest_ends (r : UAsk) (hkey : tr.key = Obj.uploadRequest) (hr : parseUpload tr.data s.usable = some r) :
    let P (t : State) : Prop := s.blockDone t h x ∧ t.regs = s.regs ∧
      (t.chan r.ch).req = some { tag := r.tag, src := r.src, len := r.len, base := r.base, size := r.size }
    Completes (.uploadRequest h) s P ∧ Completes (.blockEnd h []) s P := by
  refine he.both hf (by rw [hkey]; decide) (mine := fun k => decide (k = Obj.uploadRequest)) rfl (decide_eq_true hkey) fun t ht => ?_
  have content : (s.endOf h).takeContent tr.key tr.data = (s.endOf h).startUpload r := by
    have taken : (s.endOf h).takeContent Obj.uploadRequest tr.data = (s.endOf h).takeUpload tr.data := rfl
    rw [hkey, taken, State.takeUpload, show (s.endOf h).usable = s.usable from rfl, hr]
  rw [content] at ht
  refine ⟨?_, ?_⟩
  · exact (ht.only.agree .regs (by decide)).trans ((State.startUpload_only ..).agree .regs (by decide))
  · rw [State.chan, ht.only.agree .chans (by decide)]
    exact (s.endOf h).startUpload_req r

theorem scanRequest_ends (y : Scan) (hkey : tr.key = Obj.scanRequest) (hy : s.parseScan tr.data = some y) :
    let P (t : State) : Prop := s.blockDone t h x ∧ t.check.queue = s.check.queue ++ [y] ∧
      t.reg Obj.scanQueued = s.check.queue.length + 1
    Completes (.scanRequest h) s P ∧ Completes (.blockEnd h []) s P := by
  refine he.both hf (by rw [hkey]; decide) (mine := fun k => decide (k = Obj.scanRequest)) rfl (decide_eq_true hkey) fun t ht => ?_
  have content : (s.endOf h).takeContent tr.key tr.data = (s.endOf h).queueScan y := by
    have taken : (s.endOf h).takeContent Obj.scanRequest tr.data = (s.endOf h).takeScan tr.data := rfl
    rw [hkey, taken, State.takeScan, show (s.endOf h).parseScan tr.data = some y from hy]
  rw [content] at ht
  obtain ⟨queue, count⟩ := State.queueScan_queues (s := s.endOf h) (State.parseScan_unit hy)
  rw [ht.only.agree .check (by decide), ht.only.reg (by decide)]
  exact ⟨queue, count⟩

/-- A content that its object holds as it is: the object, and no other, has changed. -/
theorem table_ends {c : List Byte} (hkey : tr.key ≠ Obj.healthEdit) (hc : (s.endOf h).takeContent tr.key tr.data = (s.endOf h).setDom tr.key c) :
    Completes (.blockEnd h []) s (fun t => s.blockDone t h x ∧ t.doms = ((s.endOf h).setDom tr.key c).doms ∧ t.regs = s.regs ∧
      ∀ k, k ≠ tr.key → t.dom k = s.dom k) := by
  refine he.blockEnd hf hkey fun t ht => ?_
  rw [hc] at ht
  have doms := ht.only.agree .doms (by decide)
  refine ⟨doms, ht.only.agree .regs (by decide), fun k hk => ?_⟩
  have same : t.dom k = ((s.endOf h).setDom tr.key c).dom k := by
    unfold State.dom
    rw [doms]
  exact same.trans (State.dom_setDom_other _ c hk)

theorem loopTable_ends (i : Nat × Nat) (b : List Byte) (hi : loopOf tr.key = some i) (hb : loopTable (i.2 % 8) tr.data = some b) :
    Completes (.blockEnd h []) s (fun t => s.blockDone t h x ∧ t.dom tr.key = b ∧ t.regs = s.regs ∧
      ∀ k, k ≠ tr.key → t.dom k = s.dom k) := by
  have hrange := loopOf_range hi
  have other {k : Nat} (hk : ¬(0x2B00 ≤ k / 256 ∧ k / 256 < 0x2B30)) : tr.key ≠ k := fun e => hk (e ▸ hrange)
  obtain ⟨t, ht, done, doms, rest⟩ := table_ends he hf (other (by decide)) ((s.endOf h).takeContent_loop hi hb)
  refine ⟨t, ht, done, ?_, rest⟩
  rw [State.dom, doms]
  exact (s.endOf h).dom_setDom_plain b (zeroDefaultSize_eq_zero (other (by decide)) (other (by decide)))

theorem plainContent_ends (hnot : tr.key ∉ [Obj.ringMap, Obj.fwSlot0, Obj.fwSlot1, Obj.placementTrim, Obj.uartTx, Obj.uploadRequest,
      Obj.scanRequest, Obj.healthEdit]) (hidx : tr.key / 256 < 0x2100 ∨ 0x21A0 ≤ tr.key / 256) (hi : loopOf tr.key = none) :
    Completes (.blockEnd h []) s (fun t => s.blockDone t h x ∧ t.domBytes tr.key = tr.data ∧ t.regs = s.regs ∧
      ∀ k, k ≠ tr.key → t.dom k = s.dom k) := by
  have own : ownContents ⊆ [Obj.ringMap, Obj.fwSlot0, Obj.fwSlot1, Obj.placementTrim, Obj.uartTx, Obj.uploadRequest, Obj.scanRequest,
    Obj.healthEdit] := List.subset_append_left ownContents [Obj.healthEdit]
  have content : (s.endOf h).takeContent tr.key tr.data = (s.endOf h).setDom tr.key tr.data := by
    rw [State.takeContent_table _ _ (fun e => hnot (own e)) hidx, hi]
    rfl
  obtain ⟨t, ht, done, doms, rest⟩ := table_ends he hf (fun e => hnot (by rw [e]; decide)) content
  refine ⟨t, ht, done, ?_, rest⟩
  have bytes := (s.endOf h).domBytes_setDom (State.contentOk_nonempty (State.endFault_contentOk hf))
  unfold State.domBytes State.dom at bytes ⊢
  rwa [doms]

end

/-- Settles O34: a refused BLOCK_END, and a lemma for each kind of content that an accepted one takes. -/
theorem blockEndsTakeTheirContent : Obligations.BlockEndsTakeTheirContent := by
  unfold Obligations.BlockEndsTakeTheirContent
  intro s h x tr he
  exact ⟨fun e => blockEnd_refused he, fun hf => ⟨fwSlot_ends he hf, ringMap_ends he hf, contextImage_ends he hf, placementTrim_ends he hf,
    uartTx_ends he hf, uploadRequest_ends he hf, scanRequest_ends he hf, loopTable_ends he hf, plainContent_ends he hf⟩⟩

end Sys2Proof.Machine
end

section
/-! SUPPORT. O31 (05 R97 to R103, R495): the lengths of the check values, and what a session's opening and end leave. -/

namespace Sys2Proof.Machine

/-! ### The length of a proof (05 R99, R100) -/

/-- The working variables keep their two chains of four. -/
def ShaVars.full (v : ShaVars) : Prop := v.upper.length = 4 ∧ v.lower.length = 4

theorem shaRound_full {v : ShaVars} (hv : v.full) (kw : Nat) : (shaRound v kw).full := by
  obtain ⟨hu, hl⟩ := hv
  simp [ShaVars.full, shaRound, hu, hl]

theorem shaRounds_full (l : List Nat) {v : ShaVars} (hv : v.full) : (l.foldl shaRound v).full := by
  induction l generalizing v with
  | nil => exact hv
  | cons kw l ih => exact ih (shaRound_full hv kw)

theorem shaBlock_length {h : List Nat} (hh : h.length = 8) (blk : List Byte) : (shaBlock h blk).length = 8 := by
  unfold shaBlock
  extract_lets own sums v
  obtain ⟨hu, hl⟩ : v.full := shaRounds_full sums (by simp [ShaVars.full, hh])
  simp [hh, hu, hl]

theorem shaBlocks_length (l : List (List Byte)) {h : List Nat} (hh : h.length = 8) : (l.foldl shaBlock h).length = 8 := by
  induction l generalizing h with
  | nil => exact hh
  | cons blk l ih => exact ih (shaBlock_length hh blk)

theorem sha256_length (m : List Byte) : (sha256 m).length = 32 := by
  have words (l : List Nat) : (l.flatMap (be 4)).length = 4 * l.length := by
    induction l with
    | nil => rfl
    | cons w l ih => simp only [List.flatMap_cons, List.length_append, ih, be, List.length_reverse, le_length, List.length_cons]; omega
  have init : shaInit.length = 8 := by decide +kernel
  unfold sha256
  extract_lets pad full h
  rw [words, shaBlocks_length _ init]

theorem State.proofOf_length (s : State) (x : Session) : (s.proofOf x).length = 32 := sha256_length _

/-! ### The numbers of the sessions -/

theorem Igrel.modify_ids (g : Igrel) (id : Nat) {f : Session → Session} (hf : ∀ x, (f x).id = x.id) :
    (g.modify id f).sessions.map Session.id = g.sessions.map Session.id := by
  unfold Igrel.modify
  rw [List.map_map]
  refine List.map_congr_left fun x _ => ?_
  dsimp only [Function.comp_apply]
  split
  · exact hf x
  · rfl

theorem State.sendEach_ids (s : State) (ty tag : Nat) (p : List Byte) (l : List Session) :
    (s.sendEach ty tag p l).igrel.sessions.map Session.id = s.igrel.sessions.map Session.id := by
  induction l generalizing s with
  | nil => rfl
  | cons x l ih =>
    refine (ih _).trans ?_
    unfold State.sendIn
    split
    · rfl
    · exact Igrel.modify_ids _ _ fun _ => rfl

theorem State.logEvent_ids (s : State) (code : Nat) (detail : List Byte) :
    (s.logEvent code detail).igrel.sessions.map Session.id = s.igrel.sessions.map Session.id :=
  (State.sendEach_ids ..).trans (congrArg (fun g : Igrel => g.sessions.map Session.id) ((s.ylogWrite_only code detail).agree .igrel (by decide)))

/-- A session that is closed is gone, open or reserved (05 R103). -/
theorem State.closeSession_gone (s : State) (id : Nat) : ∀ y ∈ (s.closeSession id).igrel.sessions, y.id ≠ id :=
  fun _ hy => of_decide_eq_true (List.mem_filter.mp hy).2

/-! ### What a HELLO and a PROOF run -/

section
variable {s : State} (hrec : s.recovering = false) (hrun : s.igrelRuns = true)
include hrec hrun

theorem exec_hello (src : Src) (tag level : Nat) (nonce : List Byte) :
    exec (.hello src tag level nonce) s = ok (s.reserve src tag level nonce) := by
  refine congrArg ok ?_
  unfold State.takeHello
  rw [if_neg (by simp [hrec]), if_pos hrun]

theorem exec_proof (src : Src) (tag id : Nat) (bytes : List Byte) :
    exec (.proof src tag id bytes) s = ok (s.prove src tag id bytes) := by
  refine congrArg ok ?_
  unfold State.takeProof
  rw [if_neg (by simp [hrec]), if_pos hrun]

/-! ### HELLO (05 R100, R101) -/

section
variable {src : Src} {tag level : Nat} {nonce : List Byte} (hlock : s.igrel.lockouts.contains src.ip = false) (hlevel : level ≤ 2)
  (hnonce : nonce.length = 16)
include hlock hlevel hnonce

theorem hello_reserves {id : Nat} (hid : s.freeId = some id) : Completes (.hello src tag level nonce) s (fun t => t.regs = s.regs ∧ ∃ nd x,
    t.igrel.sessions = s.igrel.sessions ++ [x] ∧ x.id = id ∧ x.src = src ∧ x.level = level ∧ x.reserved = true ∧ x.nc = nonce ∧
    x.nd = nd ∧ nd.length = 16 ∧ t.out = .igrel src 0x02 0 tag 0 (le 1 id ++ le 1 level ++ zeros 2 ++ nd) none :: s.out) := by
  refine ⟨_, exec_hello hrec hrun .., ?_⟩
  unfold State.reserve
  rw [if_neg (by rw [hlock]; exact Bool.false_ne_true), if_neg (by omega), hid]
  exact ⟨rfl, le 16 (s.fresh 128).1, _, rfl, rfl, rfl, rfl, rfl, rfl, rfl, le_length .., rfl⟩

theorem hello_refused (hid : s.freeId = none) : Completes (.hello src tag level nonce) s (fun t =>
    t = { s with out := .igrel src 0x21 0 tag 0 (abortBytes 0x08000023 0 0 0) none :: s.out }) := by
  refine ⟨_, exec_hello hrec hrun .., ?_⟩
  unfold State.reserve
  rw [if_neg (by rw [hlock]; exact Bool.false_ne_true), if_neg (by omega), hid]
  rfl

end

/-! ### PROOF (05 R100, R101) -/

section
variable {src : Src} {tag : Nat} {x : Session}
  (hx : s.igrel.sessions.find? (fun y => decide (y.id = x.id) && y.reserved && decide (y.src = src)) = some x)
include hx

theorem proof_opens : Completes (.proof src tag x.id (s.proofOf x)) s (fun t => t.regs = s.regs ∧
    ∃ y, y ∈ t.igrel.sessions ∧ y.id = x.id ∧ y.reserved = false ∧
      y.key = hmac (s.levelKey x.level) ([0x53, 0x45, 0x53, 0x53] ++ x.nc ++ x.nd ++ le 1 x.id)) := by
  have proved : s.prove src tag x.id (s.proofOf x) = s.openSession x tag := by
    unfold State.prove
    rw [if_neg (not_not.mpr (s.proofOf_length x)), hx]
    exact if_pos rfl
  exact ⟨_, (exec_proof hrec hrun ..).trans (congrArg ok proved), (State.openSession_only ..).agree .regs (by decide), _,
    List.mem_map.mpr ⟨x, List.mem_of_find?_eq_some hx, if_pos rfl⟩, rfl, rfl, rfl⟩

theorem proof_fails {bytes : List Byte} (hlen : bytes.length = 32) (hne : bytes ≠ s.proofOf x) :
    Completes (.proof src tag x.id bytes) s (fun t => (∀ y ∈ t.igrel.sessions, y.id ≠ x.id) ∧
      t.reg Obj.authFailCount = countValue Obj.authFailCount (s.reg Obj.authFailCount) 1 ∧ s.logs t Ev.authFail []) := by
  have proved : s.prove src tag x.id bytes = s.failProof src tag x.id := by
    unfold State.prove
    rw [if_neg (not_not.mpr hlen), hx]
    exact if_neg hne
  refine ⟨_, (exec_proof hrec hrun ..).trans (congrArg ok proved), ?_⟩
  unfold State.failProof
  extract_lets s1 fails bad locks g s2
  have counted : LogsAlike s (s2.bump Obj.authFailCount) := ⟨rfl, fun k hk => State.reg_bump_other s2 fun e => by
    rw [e] at hk
    exact absurd hk (by decide)⟩
  refine ⟨fun y hy e => ?_, ?_, State.logEvent_logs counted rfl Ev.authFail []⟩
  · have old : x.id ∈ (s2.bump Obj.authFailCount).igrel.sessions.map Session.id := by
      rw [← State.logEvent_ids, ← e]
      exact List.mem_map_of_mem hy
    obtain ⟨z, hz, hzid⟩ := List.mem_map.mp old
    exact State.closeSession_gone s x.id z hz hzid
  · exact (State.logEvent_reg _ _ _ (by decide)).trans (State.reg_bump_same ..)

end

/-! ### The end of a session (05 R103, R495) -/

theorem close_closes {h : Hdr} {x : Session} (hs : s.session h.sess = some x) (hseq : x.newSeq h.seq = true) :
    Completes (.close h []) s (fun t => t.regs = s.regs ∧ ∀ y ∈ t.igrel.sessions, y.id ≠ h.sess) :=
  ⟨_, congrArg ok ((State.receive_close hs hseq hrec hrun []).trans (if_pos rfl)), rfl, State.closeSession_gone _ _⟩

/-- A CLOSE with a payload is answered as a request of no layout, and its session stays (05 R495). -/
theorem close_badLayout {h : Hdr} {x : Session} (h0 : h.sess ≠ 0) (hs : s.session h.sess = some x) (hseq : x.newSeq h.seq = true)
    {p : List Byte} (hp : p ≠ []) : Completes (.close h p) s (fun t => t = { s with igrel := t.igrel, out := t.out } ∧
      (t.session h.sess).isSome = true ∧ s.replied t h x p (.abort Abort.badType 0 0 0)) := by
  have frame : Only [.igrel, .out] s ((s.sawPacket h).badLayout h 0x05 p) := (State.badLayout_only ..).trans (.with_igrel (by decide) .refl)
  obtain ⟨out, z, hz, hkept, -⟩ := State.answer_open h0 (State.sawPacket_session hs) 0x05 p (r := .abort Abort.badType 0 0 0) rfl
  have opened : ((s.sawPacket h).badLayout h 0x05 p).session h.sess = some z := hz
  refine ⟨_, congrArg ok ((State.receive_close hs hseq hrec hrun p).trans (if_neg hp)), frame.eq_taking, by rw [opened]; rfl, out, ?_⟩
  rw [opened]
  exact hkept

end

theorem reservationLapse_closes {s : State} {x : Session} (hx : x ∈ s.igrel.sessions) (hres : x.reserved = true) :
    Completes (.reservationLapse x.id) s (fun t => t.regs = s.regs ∧ ∀ y ∈ t.igrel.sessions, y.id ≠ x.id) := by
  have found : s.igrel.sessions.any (fun y => decide (y.id = x.id) && y.reserved) = true :=
    List.any_eq_true.mpr ⟨x, hx, by simp [hres]⟩
  exact ⟨s.closeSession x.id, if_pos found, rfl, State.closeSession_gone _ _⟩

theorem sessionIdleTimeout_closes {s : State} {id : Nat} {x : Session} (hs : s.session id = some x) :
    Completes (.sessionIdleTimeout id) s (fun t => t.regs = s.regs ∧ ∀ y ∈ t.igrel.sessions, y.id ≠ id) :=
  ⟨s.closeSession id, if_pos (by rw [hs]; rfl), rfl, State.closeSession_gone _ _⟩

theorem authLockoutExpiry_ends (s : State) (ip : Nat) :
    Completes (.authLockoutExpiry ip) s (fun t => t.regs = s.regs ∧ ip ∉ t.igrel.lockouts) :=
  ⟨_, rfl, rfl, fun h => of_decide_eq_true (List.mem_filter.mp h).2 rfl⟩

/-! ### Datagrams as they arrive (05 R97 to R99) -/

theorem State.dropPacket_counts {s : State} (hrun : s.igrelRuns = true) : s.dropPacket = { s with regs := s.dropPacket.regs } ∧
    s.dropPacket.reg Obj.dropCount = countValue Obj.dropCount (s.reg Obj.dropCount) 1 ∧ s.regsBut s.dropPacket [Obj.dropCount] := by
  have dropped : s.dropPacket = s.bump Obj.dropCount := if_pos hrun
  rw [dropped]
  exact ⟨rfl, State.reg_bump_same .., fun k hk => State.reg_bump_other s (List.mem_singleton.not.mp hk)⟩

section
variable {s : State} {d : Datagram}

theorem igrelDrop_unreached (hd : s.reaches d = false) : Completes (.igrelDrop d) s (fun t => t = s) :=
  ⟨_, rfl, if_pos hd⟩

variable (hd : s.reaches d = true)
include hd

theorem State.takeDatagram_badHeader (hh : headerOk d.bytes = false) : s.takeDatagram d = s.dropPacket := by
  unfold State.takeDatagram
  extract_lets p ty body
  rw [if_neg (by simp [hd]), if_pos hh]

/-- A packet of a type that carries a MAC is received where its MAC verifies, and dropped where it does not (05 R98, R99). -/
theorem State.takeDatagram_signed (hh : headerOk d.bytes = true) (hty : field d.bytes 3 1 ∉ [1, 3]) : s.takeDatagram d =
    if s.macOk d.bytes = false then s.dropPacket else s.receive (packetHdr d) (field d.bytes 3 1) (packetPayload d.bytes) := by
  simp only [List.mem_cons, List.not_mem_nil, or_false, not_or] at hty
  unfold State.takeDatagram
  extract_lets p ty body
  rw [if_neg (by simp [hd]), if_neg (by simp [p, hh]), if_neg hty.1, if_neg hty.2]

theorem igrelDrop_drops (hrun : s.igrelRuns = true)
    (hbad : headerOk d.bytes = false ∨ (field d.bytes 3 1 ∉ [1, 3] ∧ s.macOk d.bytes = false)) :
    Completes (.igrelDrop d) s (fun t => t = { s with regs := t.regs } ∧
      t.reg Obj.dropCount = countValue Obj.dropCount (s.reg Obj.dropCount) 1 ∧ s.regsBut t [Obj.dropCount]) := by
  have dropped : s.takeDatagram d = s.dropPacket := by
    cases hh : headerOk d.bytes with
    | false => exact State.takeDatagram_badHeader hd hh
    | true =>
      obtain ⟨hty, hmac⟩ := hbad.resolve_left (by simp [hh])
      exact (State.takeDatagram_signed hd hh hty).trans (if_pos hmac)
  exact ⟨_, congrArg ok dropped, State.dropPacket_counts hrun⟩

theorem igrelDrop_receives (hh : headerOk d.bytes = true) (hty : field d.bytes 3 1 ∉ [1, 3]) (hmac : s.macOk d.bytes = true) :
    Completes (.igrelDrop d) s (fun t => t = s.receive (packetHdr d) (field d.bytes 3 1) (packetPayload d.bytes)) :=
  ⟨_, rfl, (State.takeDatagram_signed hd hh hty).trans (if_neg (by simp [hmac]))⟩

end

/-- Settles O31: a lemma for each clause. -/
theorem sessionsOpenAndClose : Obligations.SessionsOpenAndClose := by
  unfold Obligations.SessionsOpenAndClose
  intro s hrec hrun
  exact ⟨fun src tag level id nonce hlock hlevel hnonce => hello_reserves hrec hrun hlock hlevel hnonce,
    fun src tag level nonce => hello_refused hrec hrun, fun src tag x => proof_opens hrec hrun,
    fun src tag x bytes hx => proof_fails hrec hrun hx, fun x => reservationLapse_closes,
    fun h x h0 hs hseq => ⟨close_closes hrec hrun hs hseq, fun p => close_badLayout hrec hrun h0 hs hseq⟩,
    fun id x => sessionIdleTimeout_closes, authLockoutExpiry_ends s, fun d => igrelDrop_unreached,
    fun d hd => igrelDrop_drops hd hrun, fun d => igrelDrop_receives⟩

end Sys2Proof.Machine
end

section
/-! SUPPORT. O35 (06 R127, R131 to R134): the raster link's lanes, and what grants, drops and resends leave of the stream store. -/

namespace Sys2Proof.Machine

/-! ### Credits (06 R131, R134) -/

/-- Of the stream store only the books of the credits have changed: the credits freed, and the streams asked for again. -/
structure CreditsOnly (s t : State) : Prop where
  raster : t.raster = { s.raster with freed := t.raster.freed, resent := t.raster.resent, resendDue := t.raster.resendDue }

namespace CreditsOnly

theorem refl {s : State} : CreditsOnly s s := ⟨rfl⟩

/-- One operation more. -/
theorem step {s t u : State} (h : CreditsOnly t u) (k : CreditsOnly s t) : CreditsOnly s u := ⟨by rw [h.raster, k.raster]⟩

theorem rings {s t : State} (h : CreditsOnly s t) : t.raster.rings = s.raster.rings := by rw [h.raster]

theorem pages {s t : State} (h : CreditsOnly s t) : t.raster.pages = s.raster.pages := by rw [h.raster]

theorem flushFirst {s t : State} (h : CreditsOnly s t) : t.raster.flushFirst = s.raster.flushFirst := by rw [h.raster]

end CreditsOnly

/-- An operation that does not touch the stream store. -/
theorem Only.creditsOnly {d : List Fld} {s t : State} (h : Only d s t) (hd : Fld.raster ∉ d := by decide) : CreditsOnly s t := by
  have same : t.raster = s.raster := h.agree .raster hd
  exact ⟨by rw [same]⟩

theorem State.freeCredits_congr {s t : State} (doms : t.doms = s.doms) (rings : t.raster.rings = s.raster.rings) (k : Nat) :
    t.freeCredits k = s.freeCredits k := by
  unfold State.freeCredits State.ringSize State.dom State.ring
  rw [doms, rings]

theorem State.grantEach_creditsOnly (s : State) (l : List Nat) : CreditsOnly s (s.grantEach l) := by
  induction l generalizing s with
  | nil => exact .refl
  | cons k l ih => exact (ih _).step (t := s.grantFull k) ⟨rfl⟩

theorem State.grantAll_creditsOnly (s : State) (l : List Nat) : CreditsOnly s (s.grantAll l) :=
  (State.sendCredits_only ..).creditsOnly.step (s.grantEach_creditsOnly l)

/-- Granting changes no object but the streams' credits and counts of resends. -/
theorem State.grantEach_reg (s : State) (l : List Nat) {k : Nat} (h3 : k % 256 ≠ 3) (h6 : k % 256 ≠ 6) : (s.grantEach l).reg k = s.reg k := by
  induction l generalizing s with
  | nil => rfl
  | cons n l ih => exact (ih _).trans (s.grantFull_reg n h3 h6)

theorem State.grantAll_reg (s : State) (l : List Nat) {k : Nat} (h3 : k % 256 ≠ 3) (h6 : k % 256 ≠ 6) : (s.grantAll l).reg k = s.reg k :=
  ((State.sendCredits_only ..).reg (by decide) k).trans (s.grantEach_reg l h3 h6)

theorem State.grantFull_granted (s : State) (j k : Nat) :
    (s.grantFull j).reg (Obj.creditsGranted k) = if k = j then s.freeCredits k else s.reg (Obj.creditsGranted k) := by
  have granted : (s.grantFull j).reg (Obj.creditsGranted k) = (s.setReg (Obj.creditsGranted j) (s.freeCredits j)).reg (Obj.creditsGranted k) :=
    State.reg_bump_other _ (by simp only [Obj.creditsGranted, Obj.stResends]; omega)
  rw [granted]
  split
  · next h => rw [h, State.reg_setReg_same]
  · next h => exact State.reg_setReg_other _ _ (by simp only [Obj.creditsGranted]; omega)

/-- A stream holds its free ring space once it has been granted, and what is granted after it leaves it so. -/
theorem State.grantEach_granted (s : State) {l : List Nat} {k : Nat}
    (h : k ∈ l ∨ s.reg (Obj.creditsGranted k) = s.freeCredits k) : (s.grantEach l).reg (Obj.creditsGranted k) = s.freeCredits k := by
  induction l generalizing s with
  | nil => exact h.resolve_left List.not_mem_nil
  | cons j l ih =>
    refine (ih (s.grantFull j) ?_).trans rfl
    rw [s.grantFull_granted]
    by_cases hj : k = j
    · exact .inr (if_pos hj)
    · rw [if_neg hj]
      exact h.imp_left (fun m => (List.mem_cons.mp m).resolve_left hj)

theorem State.grantAll_granted (s : State) {l : List Nat} {k : Nat} (h : k ∈ l) :
    (s.grantAll l).reg (Obj.creditsGranted k) = s.freeCredits k :=
  ((State.sendCredits_only ..).reg (by decide) _).trans (s.grantEach_granted (.inl h))

/-- A stream whose block has been dropped has been asked for again in this credit period, before or now (06 R134). -/
theorem State.resend_resent (s : State) (k : Nat) : k ∈ (s.resend k).raster.resent := by
  unfold State.resend
  split
  · next sent => split <;> simpa using sent
  · simp

theorem State.resend_creditsOnly (s : State) (k : Nat) : CreditsOnly s (s.resend k) := by
  have sent : CreditsOnly s ((s.sendCredits [(k, 1, s.reg (Obj.nextBlockSeq k))]).bump (Obj.stResends k)) :=
    Only.creditsOnly (d := [.regs, .out]) ((State.bump_only ..).step (by decide) ((State.sendCredits_only ..).mono (by decide)))
  unfold State.resend
  split
  · split
    · exact .refl
    · exact ⟨rfl⟩
  · exact CreditsOnly.step ⟨rfl⟩ sent

theorem State.resend_regsBut (s : State) (k : Nat) : s.regsBut (s.resend k) [Obj.stResends k] := by
  unfold State.resend
  split
  · split <;> exact .refl
  · exact fun j hj => (State.bump_regsBut (s.sendCredits _) _ j hj).trans ((State.sendCredits_only ..).reg (by decide) j)

theorem State.resend_reg (s : State) (k : Nat) {j : Nat} (h : j < 0x210000) : (s.resend k).reg j = s.reg j :=
  s.resend_regsBut k j (by simp only [List.mem_singleton, Obj.stResends]; omega)

/-! ### Lanes (06 R125 to R127) -/

theorem rasterLane_mod (u sub : Nat) : rasterLane u sub % 16 = sub % 16 := by
  unfold rasterLane
  split <;> omega

theorem ne_rasterLane {u sub k : Nat} (h : k % 16 ≠ sub % 16) : k ≠ rasterLane u sub := by
  rintro rfl
  exact h (rasterLane_mod u sub)

theorem rasterLane_ne {u v a b : Nat} (h : a % 16 ≠ b % 16) : rasterLane u a ≠ rasterLane v b := ne_rasterLane (by rwa [rasterLane_mod])

theorem State.rasterLanes_reg (s : State) (v : Nat) (l : List Nat) {k : Nat} (h : k % 16 ≠ 1) : (s.rasterLanes v l).reg k = s.reg k := by
  induction l generalizing s with
  | nil => rfl
  | cons u l ih => exact (ih _).trans (s.reg_setReg_other _ (ne_rasterLane h))

theorem State.dropRaster_reg (s : State) (l : List Nat) {k : Nat} (h : k % 16 ≠ 8) : (s.dropRaster l).reg k = s.reg k := by
  induction l generalizing s with
  | nil => rfl
  | cons u l ih =>
    refine (ih _).trans ?_
    split
    · exact s.reg_bump_other (ne_rasterLane h)
    · rfl

/-- TRAIN goes out after the objects have been given their values. -/
theorem State.trainRaster_regs (s : State) : s.trainRaster.regs = ((s.rasterLanes 1 (List.range 10)).setReg Obj.linkState 1).regs :=
  (State.emitAll_only ..).agree .regs (by decide)

theorem State.trainRaster_state (s : State) : s.trainRaster.reg Obj.linkState = 1 :=
  (State.reg_congr s.trainRaster_regs _).trans (State.reg_setReg_same ..)

theorem State.trainRaster_reg (s : State) {k : Nat} (h : k % 16 ≠ 1) : s.trainRaster.reg k = s.reg k := by
  have other : k ≠ Obj.linkState := by
    rintro rfl
    exact h rfl
  rw [State.reg_congr s.trainRaster_regs, State.reg_setReg_other _ _ other, s.rasterLanes_reg 1 _ h]

theorem State.trainRaster_out (s : State) :
    s.trainRaster.out = .train .raster 1 (linkTrain 1) :: .train .raster 0 (linkTrain 0) :: s.out := by
  have same : (s.rasterLanes 1 (List.range 10)).out = s.out := (State.rasterLanes_only ..).agree .out (by decide)
  simp only [State.trainRaster, State.emitAll, State.emit, State.setReg_out, same]

/-! ### The link comes up, and goes down (06, link bring-up) -/

/-- The device has found its lanes: those that trained have locked, the others have failed, and the order is set (06 R125, R126). -/
def State.lanesFound (s : State) (trained : List Bool) (reversed : Bool) : State :=
  let lanes := ((List.range 8).filter (fun l => trained.getD l false)).map (physicalLane reversed)
  let s := (s.rasterLanes 3 ((List.range 8).filter (fun u => !lanes.contains u))).lockRaster lanes
  { s with raster := { s.raster with reversed := reversed } }

theorem State.lanesFound_only (s : State) (trained : List Bool) (reversed : Bool) :
    Only [.regs, .freeCtr, .raster] s (s.lanesFound trained reversed) :=
  .with_raster (by decide) ((State.lockRaster_only ..).step (by decide) ((State.rasterLanes_only ..).mono (by decide)))

theorem State.lanesFound_rings (s : State) (trained : List Bool) (reversed : Bool) :
    (s.lanesFound trained reversed).raster.rings = s.raster.rings := by
  unfold State.lanesFound
  extract_lets lanes s1
  have same : Only [.regs, .freeCtr] s s1 := (State.lockRaster_only ..).step (by decide) ((State.rasterLanes_only ..).mono (by decide))
  have rings : s1.raster.rings = s.raster.rings := congrArg Raster.rings (same.agree .raster (by decide))
  exact rings

section
variable {s : State} {trained : List Bool} {reversed : Bool} (up : s.blockUp Block.raster = true) (down : s.reg Obj.linkState < 2)
include up down

/-- Too few lanes have trained (06 R127). -/
theorem execRasterLinkUp_down (narrow : rasterWidth trained (s.reg Obj.linkWidthMin) = 0) :
    execRasterLinkUp trained reversed s = ok ((s.lanesFound trained reversed).setReg Obj.linkState 0) :=
  (if_neg (by simp [up, down])).trans (if_pos narrow)

theorem execRasterLinkUp_up (wide : rasterWidth trained (s.reg Obj.linkWidthMin) ≠ 0) :
    execRasterLinkUp trained reversed s = ok ((((s.lanesFound trained reversed).rasterLanes 2 [8, 9]).setReg Obj.linkState
      (if rasterWidth trained (s.reg Obj.linkWidthMin) = 8 then 3 else 2)).grantAll (List.range 160)) :=
  (if_neg (by simp [up, down])).trans (if_neg wide)

theorem rasterLinkUp_completes : Completes (.rasterLinkUp trained reversed) s (fun t => t.mode = s.mode ∧ t.raster.rings = s.raster.rings ∧
    let w := rasterWidth trained (s.reg Obj.linkWidthMin)
    (w = 0 → t.reg Obj.linkState = 0) ∧ (w ≠ 0 → t.reg Obj.linkState = (if w = 8 then 3 else 2) ∧ ∀ k, k < 160 →
      t.reg (Obj.creditsGranted k) = s.ringSize k / 64 - sumList ((s.ring k).map (fun b => creditsOf b.bytes.length)))) := by
  have found := s.lanesFound_only trained reversed
  have rings := s.lanesFound_rings trained reversed
  by_cases width : rasterWidth trained (s.reg Obj.linkWidthMin) = 0
  · exact ⟨_, execRasterLinkUp_down up down width, found.agree .mode (by decide), rings, fun _ => State.reg_setReg_same ..,
      fun wide => absurd width wide⟩
  · generalize hu : ((s.lanesFound trained reversed).rasterLanes 2 [8, 9]).setReg Obj.linkState
      (if rasterWidth trained (s.reg Obj.linkWidthMin) = 8 then 3 else 2) = u
    have lanes : Only [.regs] (s.lanesFound trained reversed) u :=
      hu ▸ (State.setReg_only ..).step (by decide) (State.rasterLanes_only ..)
    have state : u.reg Obj.linkState = if rasterWidth trained (s.reg Obj.linkWidthMin) = 8 then 3 else 2 := hu ▸ State.reg_setReg_same ..
    have after : Only [.regs, .freeCtr, .raster] s u := lanes.step (by decide) found
    have blocks : u.raster.rings = s.raster.rings := (congrArg Raster.rings (lanes.agree .raster (by decide))).trans rings
    refine ⟨_, hu ▸ execRasterLinkUp_up up down width, ?_, ?_, fun narrow => absurd narrow width, fun _ => ⟨?_, fun k hk => ?_⟩⟩
    · exact ((State.grantAll_only ..).agree .mode (by decide)).trans (after.agree .mode (by decide))
    · exact (u.grantAll_creditsOnly _).rings.trans blocks
    · exact (u.grantAll_reg _ (by decide) (by decide)).trans state
    · exact (u.grantAll_granted (List.mem_range.mpr hk)).trans (State.freeCredits_congr (after.agree .doms (by decide)) blocks k)

end

/-- A lane of a link that is up is lost: it is counted, and the lanes of the link are counted as retrained and train again. -/
theorem rasterLaneLoss_completes {s : State} (lane : Fin 8) (n : Nat) (up : s.blockUp Block.raster = true) (link : s.rasterUp = true) :
    Completes (.rasterLaneLoss lane false n) s (fun t => t = { s with regs := t.regs, flagged := t.flagged, out := t.out } ∧
      t.reg Obj.linkState = 1 ∧ t.out = .train .raster 1 (linkTrain 1) :: .train .raster 0 (linkTrain 0) :: s.out ∧
      t.reg (rasterLane lane 3) = countValue (rasterLane lane 3) (s.reg (rasterLane lane 3)) 1 ∧
      t.reg (rasterLane lane 5) = countValue (rasterLane lane 5) (s.reg (rasterLane lane 5)) n) := by
  generalize hu : ((s.bump (rasterLane lane 3)).count (rasterLane lane 5) n).setBits (rasterLane lane 0x0B) 1 = u
  have noted : Only [.regs, .flagged] s u :=
    hu ▸ (State.setBits_only ..).step (by decide) ((State.count_only ..).step (by decide) ((State.bump_only ..).mono (by decide)))
  have unflagged (k : Nat) (hk : k % 16 ≠ 11) : u.reg k = ((s.bump (rasterLane lane 3)).count (rasterLane lane 5) n).reg k :=
    hu ▸ State.reg_setBits_other _ _ (ne_rasterLane hk)
  have still : u.reg Obj.linkState = s.reg Obj.linkState :=
    ((unflagged _ (by decide)).trans (State.reg_count_other _ _ (ne_rasterLane (by decide)))).trans
      (s.reg_bump_other (ne_rasterLane (by decide)))
  have runs : execRasterLaneLoss lane false n s = ok (u.dropRaster (List.range 10)).trainRaster := by
    have linked : u.rasterUp = true := by
      unfold State.rasterUp
      rw [still]
      exact link
    rw [← hu] at linked ⊢
    exact (if_neg (by simp [up])).trans (if_pos linked)
  have trains : Only [.regs, .flagged, .out] s (u.dropRaster (List.range 10)).trainRaster :=
    (State.trainRaster_only _).step (by decide) ((State.dropRaster_only ..).step (by decide) (noted.mono (by decide)))
  have kept (place : Nat) (hp : place = 3 ∨ place = 5) : (u.dropRaster (List.range 10)).trainRaster.reg (rasterLane lane place) =
      ((s.bump (rasterLane lane 3)).count (rasterLane lane 5) n).reg (rasterLane lane place) := by
    have apart := rasterLane_mod lane place
    rw [State.trainRaster_reg _ (by omega), State.dropRaster_reg _ _ (by omega), unflagged _ (by omega)]
  refine ⟨_, runs, trains.eq_taking, State.trainRaster_state _, ?_, ?_, ?_⟩
  · rw [State.trainRaster_out, (State.dropRaster_only ..).agree .out (by decide), noted.agree .out (by decide)]
  · rw [kept 3 (.inl rfl), State.reg_count_other _ _ (rasterLane_ne (by decide)), State.reg_bump_same]
  · rw [kept 5 (.inr rfl), State.reg_count_same, State.reg_bump_other _ (rasterLane_ne (by decide))]

/-! ### Packets that come wrong (06 R129, R134) -/

section
variable {s : State} (link : s.rasterUp = true)
include link

theorem rasterPacketDrop_right {lanes : List (List Sym)} (right : wrongPacket (received s.raster.reversed lanes) = none) :
    Completes (.rasterPacketDrop [] lanes) s (fun t => t = s) := by
  have runs : execRasterPacketDrop [] lanes s = _ := if_pos link
  simp only [List.zip_nil_right, State.rasterErrors, right] at runs
  exact ⟨s, runs, rfl⟩

theorem execRasterPacketDrop_wrong {lanes : List (List Sym)} {ty stream : Nat}
    (wrong : wrongPacket (received s.raster.reversed lanes) = some (ty, stream)) : execRasterPacketDrop [] lanes s =
      ok (if ty = 1 ∧ stream < 160 then (s.bump Obj.pktCrcErrors).resend stream else s.bump Obj.pktCrcErrors) := by
  have runs : execRasterPacketDrop [] lanes s = _ := if_pos link
  simpa only [List.zip_nil_right, State.rasterErrors, wrong] using runs

theorem rasterPacketDrop_wrong {lanes : List (List Sym)} {ty stream : Nat}
    (wrong : wrongPacket (received s.raster.reversed lanes) = some (ty, stream)) :
    Completes (.rasterPacketDrop [] lanes) s (fun t => t.raster.rings = s.raster.rings ∧ t.dram = s.dram ∧
      t.reg Obj.pktCrcErrors = countValue Obj.pktCrcErrors (s.reg Obj.pktCrcErrors) 1 ∧
      (ty = 1 → stream < 160 → stream ∈ t.raster.resent ∨ stream ∈ t.raster.resendDue) ∧
      (ty ≠ 1 ∨ 160 ≤ stream → t = { s with regs := t.regs } ∧ s.regsBut t [Obj.pktCrcErrors])) := by
  have runs := execRasterPacketDrop_wrong link wrong
  by_cases block : ty = 1 ∧ stream < 160
  · rw [if_pos block] at runs
    refine ⟨_, runs, (State.resend_creditsOnly ..).rings, (State.resend_only ..).agree .dram (by decide), ?_,
      fun _ _ => .inl (State.resend_resent ..), fun other => absurd other (by omega)⟩
    exact (State.resend_reg _ _ (by decide)).trans (s.reg_bump_same _)
  · rw [if_neg block] at runs
    exact ⟨_, runs, rfl, rfl, s.reg_bump_same _, fun ty1 valid => absurd ⟨ty1, valid⟩ block, fun _ => ⟨rfl, s.bump_regsBut _⟩⟩

/-! ### Blocks (06 R131, R132) -/

/-- A chip that does not join takes a block in, and no more. -/
theorem execBlock_takes {k : Nat} {wax : List Byte} (hk : k < 160) (long : 17 ≤ wax.length) (short : wax.length ≤ 16384)
    (alone : (s.intake k wax).twin.join = none) : execBlock k wax s = ok (s.intake k wax) := by
  have plain : (s.intake k wax).takeJoinImage k = s.intake k wax := by
    unfold State.takeJoinImage
    rw [alone]
  unfold execBlock
  rw [if_neg (by simp [link]), if_neg (by omega), if_neg (by omega), plain]

theorem block_completes {k : Nat} {wax : List Byte} {P : State → Prop} (hk : k < 160) (long : 17 ≤ wax.length) (short : wax.length ≤ 16384)
    (alone : s.twin.join = none) (taken : P (s.intake k wax)) : Completes (.block k wax) s P := by
  have same : (s.intake k wax).twin = s.twin := (State.intake_only ..).agree .twin (by decide)
  exact ⟨_, execBlock_takes link hk long short (by rw [same, alone]), taken⟩

end

theorem State.ring_setRing_other (s : State) {k j : Nat} (l : List Blk) (h : j ≠ k) : (s.setRing k l).ring j = s.ring j := by
  simp only [State.ring, State.setRing, Table.get_put_other _ _ _ h]

/-- A block is stored behind the others of its stream (06 R132). -/
theorem State.storeBlock_ring (s : State) (k : Nat) (wax : List Byte) :
    (∃ b, (s.storeBlock k wax).ring k = s.ring k ++ [b] ∧ b.seq = s.reg (Obj.nextBlockSeq k) ∧ b.bytes = wax ∧ b.bad = false) ∧
      ∀ j, j ≠ k → (s.storeBlock k wax).ring j = s.ring j := by
  unfold State.storeBlock
  extract_lets seq lines before blk s1 s2 _ s3 s4 s5 s6
  have asked : Only [.dram] s s1 := State.writeMem_only ..
  have written (j : Nat) : s1.ring j = s.ring j := by
    unfold State.ring
    rw [asked.agree .raster (by decide)]
  clear_value s1
  have stored : s2.ring k = s.ring k ++ [blk] := (State.ring_setRing_same ..).trans (congrArg (· ++ [blk]) (written k))
  exact ⟨⟨blk, stored, rfl, rfl, rfl⟩, fun j hj => (s1.ring_setRing_other _ hj).trans (written j)⟩

/-- It moves NEXT_BLOCK_SEQ on, and uses up its credits. -/
theorem State.storeBlock_reg (s : State) (k : Nat) (wax : List Byte) :
    (s.storeBlock k wax).reg (Obj.nextBlockSeq k) = (s.reg (Obj.nextBlockSeq k) + 1) % 2 ^ 32 ∧
      (s.storeBlock k wax).reg (Obj.creditsGranted k) = s.reg (Obj.creditsGranted k) - creditsOf wax.length := by
  unfold State.storeBlock
  extract_lets seq lines before blk s1 s2 _ s3 s4 s5 s6
  have asked : Only [.dram] s s1 := State.writeMem_only ..
  have written (j : Nat) : s1.reg j = s.reg j := asked.reg (by decide) j
  clear_value s1
  have counted (j : Nat) (hj : j = Obj.nextBlockSeq k ∨ j = Obj.creditsGranted k) :
      ((s6.bump (Obj.blocksStored k)).count Obj.rasBytesIn wax.length).reg j = s6.reg j := by
    refine (State.reg_count_other _ _ ?_).trans (State.reg_bump_other _ ?_)
    all_goals
      simp only [Obj.nextBlockSeq, Obj.creditsGranted, Obj.blocksStored, Obj.rasBytesIn] at *
      omega
  have unused (j : Nat) (hj : j ≠ Obj.ringUsed k) : s5.reg j = s4.reg j := State.reg_setReg_other _ _ hj
  constructor
  · rw [counted _ (.inl rfl), State.reg_setReg_other _ _ (by simp only [Obj.nextBlockSeq, Obj.creditsGranted]; omega),
      unused _ (by simp only [Obj.nextBlockSeq, Obj.ringUsed]; omega), State.reg_setReg_same]
  · rw [counted _ (.inr rfl), State.reg_setReg_same, unused _ (by simp only [Obj.creditsGranted, Obj.ringUsed]; omega),
      State.reg_setReg_other _ _ (by simp only [Obj.creditsGranted, Obj.nextBlockSeq]; omega)]
    exact congrArg (· - creditsOf wax.length) (written _)

/-- A block that exceeds its credits, or that fails one of the four checks, is rejected whole (06 R131, R132). -/
theorem State.intake_rejects {s : State} {k : Nat} {wax : List Byte}
    (bad : ¬(creditsOf wax.length ≤ s.reg (Obj.creditsGranted k) ∧ s.blockHeaderOk k wax = true) ∨
      blockTrailerOk k (s.reg (Obj.nextBlockSeq k)) wax = false) :
    (s.intake k wax).raster.rings = s.raster.rings ∧ (s.intake k wax).dram = s.dram ∧
      (s.intake k wax).reg Obj.blockRejects = countValue Obj.blockRejects (s.reg Obj.blockRejects) 1 ∧
      (k ∈ (s.intake k wax).raster.resent ∨ k ∈ (s.intake k wax).raster.resendDue) := by
  have rejected (u : State) (same : Only [.regs] s u) (counted : u.reg Obj.blockRejects = countValue Obj.blockRejects (s.reg Obj.blockRejects) 1) :
      (u.resend k).raster.rings = s.raster.rings ∧ (u.resend k).dram = s.dram ∧
        (u.resend k).reg Obj.blockRejects = countValue Obj.blockRejects (s.reg Obj.blockRejects) 1 ∧
        (k ∈ (u.resend k).raster.resent ∨ k ∈ (u.resend k).raster.resendDue) :=
    ⟨((u.resend_creditsOnly k).step same.creditsOnly).rings,
      ((State.resend_only ..).agree .dram (by decide)).trans (same.agree .dram (by decide)),
      (u.resend_reg k (by decide)).trans counted, .inl (u.resend_resent k)⟩
  unfold State.intake
  by_cases header : creditsOf wax.length > s.reg (Obj.creditsGranted k) ∨ s.blockHeaderOk k wax = false
  · rw [if_pos header]
    exact rejected _ (State.bump_only ..) (s.reg_bump_same _)
  · have trailer : blockTrailerOk k (s.reg (Obj.nextBlockSeq k)) wax = false :=
      bad.resolve_left (not_not.mpr (by simpa [not_or] using header))
    rw [if_neg header, if_pos trailer]
    refine rejected _ ((State.bump_only ..).trans (State.bump_only ..)) ?_
    exact (State.reg_bump_other _ (by simp only [Obj.blockRejects, Obj.crcFails]; omega)).trans (s.reg_bump_same _)

theorem State.intake_stores {s : State} {k : Nat} {wax : List Byte}
    (good : creditsOf wax.length ≤ s.reg (Obj.creditsGranted k) ∧ s.blockHeaderOk k wax = true)
    (trailer : blockTrailerOk k (s.reg (Obj.nextBlockSeq k)) wax = true) : s.intake k wax = s.storeBlock k wax := by
  obtain ⟨credits, header⟩ := good
  unfold State.intake
  rw [if_neg (by simp [header, credits]), if_neg (by simp [trailer])]

/-! ### The end of a credit period (06 R131, R134) -/

theorem creditPeriodExpiry_completes {s : State} (link : s.rasterUp = true) : Completes .creditPeriodExpiry s (fun t =>
    t.raster.freed = [] ∧ t.raster.resendDue = [] ∧ t.raster.resent = s.raster.resendDue ∧ t.raster.rings = s.raster.rings ∧
      t.mode = s.mode) := by
  have runs : execCreditPeriodExpiry s = _ := if_pos link
  dsimp only at runs
  generalize hu : (s.sendCredits (s.raster.freed.map (fun x => (x.1, 0, x.2)) ++
    s.raster.resendDue.map (fun k => (k, 1, s.reg (Obj.nextBlockSeq k))))).grantFreed _ = u at runs
  have sent : Only [.regs, .out] s u := hu ▸ (State.grantFreed_only ..).step (by decide) ((State.sendCredits_only ..).mono (by decide))
  have counted := State.resendEach_only
    { u with raster := { u.raster with freed := [], resent := s.raster.resendDue, resendDue := [] } } s.raster.resendDue
  have raster := counted.agree .raster (by decide)
  have rings : u.raster.rings = s.raster.rings := congrArg Raster.rings (sent.agree .raster (by decide))
  have mode : u.mode = s.mode := sent.agree .mode (by decide)
  exact ⟨_, runs, congrArg Raster.freed raster, congrArg Raster.resendDue raster, congrArg Raster.resent raster,
    (congrArg Raster.rings raster).trans rings, (counted.agree .mode (by decide)).trans mode⟩

/-- Settles O35: a lemma for each of the commands, and two for BLOCK, which stores or rejects. -/
theorem rasterLinkAndCredits : Obligations.RasterLinkAndCredits := fun s =>
  ⟨fun _ _ => rasterLinkUp_completes, rasterLaneLoss_completes, fun link =>
    ⟨fun _ _ _ => rasterPacketDrop_wrong link, fun _ => rasterPacketDrop_right link,
      fun k wax hk long short => ⟨fun good trailer alone => block_completes link hk long short alone (by
          obtain ⟨⟨b, behind, seq, bytes, sound⟩, others⟩ := s.storeBlock_ring k wax
          rw [State.intake_stores good trailer]
          exact ⟨b, behind, seq, bytes, sound, others, s.storeBlock_reg k wax⟩),
        fun bad alone => block_completes link hk long short alone (State.intake_rejects bad)⟩,
      creditPeriodExpiry_completes link⟩⟩

end Sys2Proof.Machine
end

section
/-! SUPPORT. O26 (05 R494; 01, FSI_MIN_CLEAR; 06 R131, R143): the writes that store the settings, restart FSI_MIN and flush the stream store. -/

namespace Sys2Proof.Machine

/-! ### CONFIG_SAVE (05 R494) -/

theorem State.writeEffect_configSave (s : State) (v : Nat) : s.writeEffect Obj.configSave v = s.saveConfig := rfl

/-- What is stored reads as the objects stand. -/
theorem State.saveConfig_stores (s : State) : ∃ r, s.saveConfig.flash.regs = some r ∧
    (∀ k, isStored k = true → Table.get (Dict.default k) r k = s.reg k) ∧
      ∀ k, isStored k = true → Table.get (domDefault k) s.saveConfig.flash.doms k = s.dom k :=
  ⟨_, rfl, fun k hk => congrArg (Option.getD · (Dict.default k)) (s.regs.find_filter isStored hk),
    fun k hk => congrArg (Option.getD · (domDefault k)) (s.doms.find_filter isStored hk)⟩

theorem configSave_stores {s : State} {h : Hdr} {v : Nat} (ha : s.admits h Obj.configSave v) :
    Completes (.configSave h v) s (fun t => t.regs = s.regs ∧ t.doms = s.doms ∧
      ∃ r, t.flash.regs = some r ∧ (∀ k, isStored k = true → Table.get (Dict.default k) r k = s.reg k) ∧
        ∀ k, isStored k = true → Table.get (domDefault k) t.flash.doms k = s.dom k) := by
  have effect := State.send_effect_raw ha (by decide) (findObj_ty_ne (by decide +kernel))
  rw [State.writeEffect_configSave] at effect
  refine ⟨_, rfl, effect.agree .regs (by decide), effect.agree .doms (by decide), ?_⟩
  rw [effect.agree .flash (by decide)]
  exact (s.sawPacket h).saveConfig_stores

/-! ### FSI_MIN_CLEAR (01) -/

theorem State.writeEffect_fsiMinClear (s : State) : s.writeEffect Obj.fsiMinClear 1 = s.setReg Obj.fsiMin (s.reg Obj.fsiNow) := rfl

theorem fsiMinClear_restarts {s : State} {h : Hdr} (ha : s.admits h Obj.fsiMinClear 1) :
    Completes (.fsiMinClear h 1) s (fun t => t.reg Obj.fsiMin = s.reg Obj.fsiNow ∧ s.regsBut t [Obj.fsiMin]) := by
  have effect := State.send_effect_raw ha (by decide) (findObj_ty_ne (by decide +kernel))
  rw [State.writeEffect_fsiMinClear] at effect
  refine ⟨_, rfl, (effect.reg (by decide) _).trans (State.reg_setReg_same ..), fun k hk => ?_⟩
  exact (effect.reg (by decide) k).trans ((s.sawPacket h).setReg_regsBut _ _ k hk)

/-! ### STORE_FLUSH (06 R131, R143) -/

theorem State.writeEffect_storeFlush (s : State) (v : Nat) : s.writeEffect Obj.storeFlush v = s.takeFlush := rfl

/-- The block numbers and the fill of every stream are 0 once it has been flushed, and stay so. -/
theorem State.flushStreams_zero (s : State) {l : List Nat} {j : Nat} (hj : j % 256 ≠ 3)
    (h : s.reg j = 0 ∨ ∃ k ∈ l, j = Obj.nextBlockSeq k ∨ j = Obj.ringUsed k) : (s.flushStreams l).reg j = 0 := by
  induction l generalizing s with
  | nil => exact h.resolve_right (by simp)
  | cons k l ih =>
    have credits : j ≠ Obj.creditsGranted k := by
      simp only [Obj.creditsGranted]
      omega
    refine ih _ ?_
    rw [State.reg_setReg_other _ _ credits, State.reg_setReg, State.reg_setReg, State.reg_setReg]
    split_ifs with stored used next
    · exact .inl rfl
    · exact .inl rfl
    · exact .inl rfl
    · simpa [next, used] using h

/-- Nothing is stored after a flush, and no line has been committed. -/
theorem State.flushStore_raster (s : State) : s.flushStore.raster.rings = [] ∧ s.flushStore.raster.flushFirst = none := by
  unfold State.flushStore
  rw [(State.flushStreams_only ..).agree .raster (by decide)]
  exact ⟨rfl, rfl⟩

theorem State.regrant_creditsOnly (s : State) : CreditsOnly s s.regrant := by
  unfold State.regrant
  split
  · exact s.grantAll_creditsOnly _
  · exact .refl

/-- The scrub pass starts again, and every stream is granted its ring, where the link is up: what this leaves (16 R366, 06 R131). -/
theorem State.restarted_leaves (s : State) {t : State} (ht : t = State.regrant { s with check := { s.check with scrub := none } }) :
    CreditsOnly s t ∧ t.slots = s.slots ∧ t.check.scrub = none ∧ ∀ j, j % 256 ≠ 3 → j % 256 ≠ 6 → t.reg j = s.reg j := by
  have granted := State.regrant_only { s with check := { s.check with scrub := none } }
  subst ht
  exact ⟨(State.regrant_creditsOnly _).step ⟨rfl⟩, granted.agree .slots (by decide),
    congrArg Check.scrub (granted.agree .check (by decide)), (State.regrant_leaves _).2⟩

theorem State.takeFlush_empties (s : State) : s.takeFlush.raster.rings = [] ∧ s.takeFlush.raster.pages = [] ∧ s.takeFlush.slots = [] ∧
    s.takeFlush.raster.flushFirst = none ∧ s.takeFlush.check.scrub = none := by
  obtain ⟨rings, first⟩ := s.flushStore_raster
  obtain ⟨pages, slots⟩ := s.flushStore_empty
  obtain ⟨granted, kept, scrub, -⟩ := s.flushStore.restarted_leaves (t := s.takeFlush) rfl
  exact ⟨granted.rings.trans rings, granted.pages.trans pages, kept.trans slots, granted.flushFirst.trans first, scrub⟩

/-- The block numbers and the fill of every stream are 0 after a flush. -/
theorem State.takeFlush_zero (s : State) {k : Nat} (hk : k < 160) :
    s.takeFlush.reg (Obj.nextBlockSeq k) = 0 ∧ s.takeFlush.reg (Obj.ringUsed k) = 0 := by
  obtain ⟨-, -, -, regs⟩ := s.flushStore.restarted_leaves (t := s.takeFlush) rfl
  have zero (j : Nat) (hj : j = Obj.nextBlockSeq k ∨ j = Obj.ringUsed k) : s.takeFlush.reg j = 0 := by
    have place : j % 256 = 1 ∨ j % 256 = 2 := by
      simp only [Obj.nextBlockSeq, Obj.ringUsed] at hj
      omega
    rw [regs j (by omega) (by omega), State.flushStore]
    exact State.flushStreams_zero _ (by omega) (.inr ⟨k, List.mem_range.mpr hk, hj⟩)
  exact ⟨zero _ (.inl rfl), zero _ (.inr rfl)⟩

theorem storeFlush_empties {s : State} {h : Hdr} {v : Nat} (ha : s.admits h Obj.storeFlush v) :
    Completes (.storeFlush h v) s (fun t => t.raster.rings = [] ∧ t.raster.pages = [] ∧ t.slots = [] ∧ t.raster.flushFirst = none ∧
      t.check.scrub = none ∧ ∀ k, k < 160 → t.reg (Obj.nextBlockSeq k) = 0 ∧ t.reg (Obj.ringUsed k) = 0) := by
  have effect := State.send_effect_raw ha (by decide) (findObj_ty_ne (by decide +kernel))
  rw [State.writeEffect_storeFlush] at effect
  obtain ⟨rings, pages, slots, first, scrub⟩ := (s.sawPacket h).takeFlush_empties
  have raster : (s.send h Obj.storeFlush v).raster = (s.sawPacket h).takeFlush.raster := effect.agree .raster (by decide)
  refine ⟨_, rfl, by rw [raster, rings], by rw [raster, pages], (effect.agree .slots (by decide)).trans slots, by rw [raster, first],
    (congrArg Check.scrub (effect.agree .check (by decide))).trans scrub, fun k hk => ?_⟩
  rw [effect.reg (by decide), effect.reg (by decide)]
  exact (s.sawPacket h).takeFlush_zero hk

/-- Settles O26: an accepted write is its effect (05 R106), and a lemma says what each of the three effects is. -/
theorem storedSettingsWrites : Obligations.StoredSettingsWrites :=
  fun _ _ _ => ⟨configSave_stores, fsiMinClear_restarts, storeFlush_empties⟩

end Sys2Proof.Machine
end

section
/-! SUPPORT. O36 (06 R135 to R137): a COMMIT and its reply, and what the work after an accepted one leaves of the span of the committed lines. -/

namespace Sys2Proof.Machine

/-! ### The span of the committed lines -/

/-- The committed lines begin and end where they did: with the first line after a flush, and before the line that the next page is due to
begin at. -/
structure SameSpan (s t : State) : Prop where
  first : t.raster.flushFirst = s.raster.flushFirst
  next : t.raster.nextFirst = s.raster.nextFirst

namespace SameSpan

theorem refl {s : State} : SameSpan s s := ⟨rfl, rfl⟩

/-- One operation more. -/
theorem step {s t u : State} (h : SameSpan t u) (k : SameSpan s t) : SameSpan s u := ⟨h.first.trans k.first, h.next.trans k.next⟩

theorem foldl {α : Type} {s u : State} {g : State → α → State} {l : List α} (hg : ∀ t x, SameSpan t (g t x)) (k : SameSpan s u) :
    SameSpan s (l.foldl g u) := by
  induction l generalizing u with
  | nil => exact k
  | cons x l ih => exact ih ((hg u x).step k)

end SameSpan

/-- An operation that does not touch the stream store. -/
theorem Only.sameSpan {d : List Fld} {s t : State} (h : Only d s t) (hd : Fld.raster ∉ d := by decide) : SameSpan s t :=
  have same : t.raster = s.raster := h.agree .raster hd
  ⟨congrArg Raster.flushFirst same, congrArg Raster.nextFirst same⟩

theorem State.freeRing_sameSpan (s : State) (k : Nat) : SameSpan s (s.freeRing k) := by
  unfold State.freeRing
  dsimp only
  split
  · exact .refl
  · exact ⟨rfl, rfl⟩

theorem State.freeRings_sameSpan (s : State) (l : List Nat) : SameSpan s (s.freeRings l) := by
  induction l generalizing s with
  | nil => exact .refl
  | cons k l ih => exact (ih _).step (s.freeRing_sameSpan k)

theorem State.ckptAll_sameSpan (s : State) (n : Nat) (l : List Nat) : SameSpan s (s.ckptAll n l) := by
  induction l generalizing s with
  | nil => exact .refl
  | cons k l ih => exact (ih _).step ((State.freeRing_sameSpan ..).step (State.ckptTo_only ..).sameSpan)

theorem State.catchUp_sameSpan (s : State) : SameSpan s s.catchUp :=
  .foldl (fun t _ => (State.addJobs_only ..).sameSpan.step (t.ckptAll_sameSpan ..)) .refl

theorem State.closeEach_sameSpan (s : State) (g : Option Nat) (time : Nat) (l : List Page) : SameSpan s (s.closeEach g time l) := by
  induction l generalizing s with
  | nil => exact .refl
  | cons p l ih =>
    unfold State.closeEach
    extract_lets _ s1 s2 s3 s4
    have h1 : SameSpan s s1 := ⟨rfl, rfl⟩
    have h3 : SameSpan s s3 := (State.report_only ..).sameSpan.step ((State.logPrinted_only ..).sameSpan.step h1)
    have cut : Only [.regs, .flagged] s3 s4 := .ite (fun _ => State.setCause_only ..) (fun _ => .refl)
    exact (ih s4).step (cut.sameSpan.step h3)

/-! ### COMMIT (06 R135 to R137) -/

/-- After an accepted COMMIT lines have been committed, up to the page's last. -/
theorem State.acceptCommit_span (s : State) (c : CommitReq) :
    (s.acceptCommit c).raster.nextFirst = (c.first + c.count) % 2 ^ 32 ∧ (s.acceptCommit c).raster.flushFirst.isSome = true := by
  refine ⟨rfl, ?_⟩
  unfold State.acceptCommit
  extract_lets fresh s1 s2 skipped p s3
  cases hf : s.raster.flushFirst with
  | none => simp [fresh, hf]
  | some line =>
    have later : s2 = s1 := if_neg (by simp [fresh, hf])
    have same : s3.raster = s.raster := (congrArg State.raster later).trans ((State.setCommitted_only ..).agree .raster (by decide))
    simp [fresh, hf, same]

/-- What follows in the same step: checkpoints, engines, ring space, pages that are done, and JOIN_READY. -/
theorem State.afterCommit_sameSpan (s : State) (time : Nat) :
    SameSpan s (((s.catchUp.takeJobs).freeAll).closePages none time).tellReady :=
  (State.tellReady_only _).sameSpan.step ((State.closeEach_sameSpan ..).step ((State.freeRings_sameSpan ..).step
    ((State.takeJobs_only _).sameSpan.step s.catchUp_sameSpan)))

section
variable {s : State} (link : s.rasterUp = true) {p : List Byte}
include link

theorem commit_misformed (unread : parseCommit p = none) :
    Completes (.commit p) s (fun t => t = { s with out := commitReply (field p 0 4) 6 0 :: s.out }) := by
  have runs : execCommit p s = _ := if_neg (by simp [link])
  rw [unread] at runs
  exact ⟨_, runs, rfl⟩

/-- A COMMIT that can be read is answered its status, and accepted where that is 0 (06 R137). -/
theorem execCommit_read {c : CommitReq} (read : parseCommit p = some c) : execCommit p s =
    let u := s.emit (commitReply c.page (s.commitStatus c).1 (s.commitStatus c).2)
    if (s.commitStatus c).1 = 0 then ok (((((u.acceptCommit c).catchUp.takeJobs).freeAll).closePages none u.now).tellReady) else ok u := by
  unfold execCommit
  rw [if_neg (by simp [link]), read]

end

section
variable {s : State} (link : s.rasterUp = true) {p : List Byte} {c : CommitReq} (read : parseCommit p = some c)
include link read

theorem commit_refused (status : (s.commitStatus c).1 ≠ 0) : Completes (.commit p) s (fun t =>
    t = { s with out := commitReply c.page (s.commitStatus c).1 (s.commitStatus c).2 :: s.out }) :=
  ⟨_, (execCommit_read link read).trans (if_neg status), rfl⟩

theorem commit_accepted (status : (s.commitStatus c).1 = 0) : Completes (.commit p) s (fun t =>
    t.raster.nextFirst = (c.first + c.count) % 2 ^ 32 ∧ t.raster.flushFirst.isSome = true) := by
  have runs := (execCommit_read link read).trans (if_pos status)
  generalize s.emit (commitReply c.page (s.commitStatus c).1 (s.commitStatus c).2) = u at runs
  obtain ⟨next, first⟩ := u.acceptCommit_span c
  have after := (u.acceptCommit c).afterCommit_sameSpan u.now
  exact ⟨_, runs, after.next.trans next, by rw [after.first, first]⟩

end

/-- Settles O36. -/
theorem commitsArePagesInOrder : Obligations.CommitsArePagesInOrder :=
  fun _ link _ => ⟨commit_misformed link, fun _ read => ⟨commit_refused link read, commit_accepted link read⟩⟩

end Sys2Proof.Machine
end

section
/-! SUPPORT. O40 (09 R197 to R224): what the operations of a decoded edge and of an index leave of a channel, and of the objects where no
confirmed line follows the channel. -/

namespace Sys2Proof.Machine

/-! ### A channel -/

@[simp] theorem State.encCh_setEncCh (s : State) (ch : Nat) (x : EncCh) : (s.setEncCh ch x).encCh ch = x := by
  unfold State.encCh State.setEncCh
  split_ifs <;> rfl

/-- An operation that does not touch the encoder. -/
theorem Only.encCh {d : List Fld} {s t : State} (h : Only d s t) (ch : Nat) (hd : Fld.enc ∉ d := by decide) : t.encCh ch = s.encCh ch :=
  congrArg (fun e : Encoder => if ch = 0 then e.ch0 else e.ch1) (h.agree .enc hd)

theorem State.logEvent_encCh (s : State) (code : Nat) (detail : List Byte) (ch : Nat) : (s.logEvent code detail).encCh ch = s.encCh ch :=
  (s.logEvent_only code detail).encCh ch

theorem State.restartSpeed_reg (s : State) (ch v k : Nat) : (s.restartSpeed ch v).reg k = (s.setReg (Obj.speedState ch) v).reg k := rfl

theorem State.restartSpeed_encCh (s : State) (ch v : Nat) :
    (s.restartSpeed ch v).encCh ch = { s.encCh ch with stamps := [], lastDir := none } := s.encCh_setEncCh ch _

/-- A filtered edge is timed, and a rate error noted (R200). -/
theorem State.rateCheck_encCh (s : State) (ch : Nat) : ∃ last fault rate,
    (s.rateCheck ch).encCh ch = { s.encCh ch with lastCycle := last, faultAt := fault, rateAt := rate } := by
  unfold State.rateCheck
  extract_lets c now short s1 s2 raise _ s3
  have timed : s1.encCh ch = { c with lastCycle := some now } := s.encCh_setEncCh ch _
  have noted : s3.encCh ch = { s1.encCh ch with faultAt := some now, rateAt := if raise then some now else c.rateAt } :=
    s2.encCh_setEncCh ch _
  clear_value s3
  rw [timed] at noted
  split_ifs
  · exact ⟨_, _, _, (s3.logEvent_encCh _ _ ch).trans noted⟩
  · exact ⟨_, _, _, noted⟩
  · exact ⟨_, _, _, timed⟩

/-- An edge takes its stamp and its sense (R205). -/
theorem State.estimate_encCh (s : State) (ch : Nat) (fwd : Bool) (stamp : Nat) : ∃ stamps,
    (s.estimate ch fwd stamp).encCh ch = { s.encCh ch with stamps := stamps, lastDir := some fwd } := by
  unfold State.estimate
  dsimp only
  split_ifs
  · exact ⟨_, s.encCh_setEncCh ch _⟩
  · exact ⟨_, s.encCh_setEncCh ch _⟩
  · exact ⟨_, s.encCh_setEncCh ch _⟩

theorem State.unstillGroups_only (s : State) (l : List (Nat × Conf)) : Only [.taper] s (l.foldl State.unstillGroup s) :=
  .foldl State.unstillGroup_only .refl

/-- A standstill of the same REF cycle gives its stamps and its direction back (R207). -/
theorem State.unstill_encCh (s : State) (ch : Nat) : ∃ stamps dir,
    (s.unstill ch).encCh ch = { s.encCh ch with still := none, stamps := stamps, lastDir := dir } := by
  unfold State.unstill
  split
  · next still => exact ⟨_, _, by rw [← still]⟩
  · next x _ =>
    extract_lets _ s1 _ s2 _ s3
    have left : s1.encCh ch = { s.encCh ch with still := none } := s.encCh_setEncCh ch _
    have back : s3.encCh ch = { s1.encCh ch with stamps := x.stamps, lastDir := x.lastDir } := s1.encCh_setEncCh ch _
    clear_value s3
    split_ifs
    · exact ⟨_, _, left⟩
    · rw [left] at back
      exact ⟨_, _, ((State.unstillGroups_only ..).encCh ch).trans back⟩

/-! ### A channel that no confirmed line follows -/

/-- No line follows the channel: it is not the firing channel, or the mode is not LIT and no line
is confirmed. -/
def State.calm (s : State) (ch : Nat) : Prop := ch ≠ s.fireCh ∨ (s.mode ≠ .lit ∧ ∀ g, g < 8 → (s.group g).conf = none)

/-- The objects that an edge or an index of a channel may write, beside its counts. -/
def edgeObjects (ch : Nat) : List Nat :=
  [Obj.travelMark ch, Obj.travelDir ch, Obj.speedState ch, Obj.edgeDir ch, Obj.lastIndexCount ch, Obj.lastIndexTime ch,
    Obj.indexErrors ch, Obj.illegalCount ch, Obj.rateErrors ch, Obj.reversals ch, Obj.encStatus ch, Obj.crossErrors] ++ yilloggerObjects

/-- None of them is a count of the channel, or says which channel fires. -/
theorem edgeObjects_apart (ch : Fin 2) :
    Obj.encCount ch ∉ edgeObjects ch ∧ Obj.lastEdgeCount ch ∉ edgeObjects ch ∧ Obj.firingChannel ∉ edgeObjects ch := by
  revert ch
  decide

/-- Of a channel that no line follows, an operation writes those objects alone, and no line follows it after. -/
structure State.Tame (s t : State) (ch : Fin 2) : Prop where
  regs : s.calm ch → s.regsBut t (edgeObjects ch)
  calm : s.calm ch → t.calm ch

theorem State.calm.congr {s t : State} {ch : Nat} (h : s.calm ch) (fire : t.reg Obj.firingChannel = s.reg Obj.firingChannel)
    (mode : t.mode = s.mode) (conf : ∀ g, (s.group g).conf = none → (t.group g).conf = none) : t.calm ch := by
  obtain other | ⟨notLit, idle⟩ := h
  · exact .inl fun same => other (same.trans fire)
  · exact .inr ⟨fun lit => notLit (mode.symm.trans lit), fun g hg => conf g (idle g hg)⟩

namespace State.Tame

theorem of_regs {s t : State} {ch : Fin 2} (regs : s.regsBut t (edgeObjects ch)) (mode : t.mode = s.mode)
    (conf : ∀ g, (s.group g).conf = none → (t.group g).conf = none) : s.Tame t ch := by
  obtain ⟨-, -, fires⟩ := edgeObjects_apart ch
  exact ⟨fun _ => regs, fun calm => calm.congr (regs _ fires) mode conf⟩

theorem refl {s : State} {ch : Fin 2} : s.Tame s ch := ⟨fun _ => .refl, id⟩

/-- One operation more. -/
theorem step {s t u : State} {ch : Fin 2} (h : t.Tame u ch) (k : s.Tame t ch) : s.Tame u ch :=
  ⟨fun calm => (h.regs (k.calm calm)).step (k.regs calm), fun calm => h.calm (k.calm calm)⟩

theorem ite {c : Prop} [Decidable c] {s t u : State} {ch : Fin 2} (h : c → s.Tame t ch) (k : ¬c → s.Tame u ch) :
    s.Tame (if c then t else u) ch := by
  by_cases x : c
  · rw [if_pos x]
    exact h x
  · rw [if_neg x]
    exact k x

/-- What happens where a line follows the channel is not asked. -/
theorem of_calm {s t : State} {ch : Fin 2} (h : s.calm ch → s.Tame t ch) : s.Tame t ch :=
  ⟨fun calm => (h calm).regs calm, fun calm => (h calm).calm calm⟩

end State.Tame

/-- An operation that touches neither the mode nor the Taper. -/
theorem Only.tame {d : List Fld} {s t : State} (h : Only d s t) {ch : Fin 2} (regs : s.regsBut t (edgeObjects ch)) (hm : Fld.mode ∉ d := by decide)
    (ht : Fld.taper ∉ d := by decide) : s.Tame t ch :=
  have taper : t.taper = s.taper := h.agree .taper ht
  .of_regs regs (h.agree .mode hm) fun g idle => (congrArg (fun x : Taper => (Table.get ({} : Group) x.groups g).conf) taper).trans idle

theorem State.setReg_tame (s : State) {ch : Fin 2} {k : Nat} (v : Nat) (hk : k ∈ edgeObjects ch := by simp [edgeObjects]) :
    s.Tame (s.setReg k v) ch :=
  (s.setReg_only k v).tame ((s.setReg_regsBut k v).mono (by simpa using hk))

theorem State.bump_tame (s : State) {ch : Fin 2} {k : Nat} (hk : k ∈ edgeObjects ch := by simp [edgeObjects]) : s.Tame (s.bump k) ch :=
  s.setReg_tame _ hk

theorem State.setBits_tame (s : State) {ch : Fin 2} {k : Nat} (m : Nat) (hk : k ∈ edgeObjects ch := by simp [edgeObjects]) :
    s.Tame (s.setBits k m) ch :=
  (s.setBits_only k m).tame fun j hj => s.reg_setBits_other m fun same => hj (same ▸ hk)

theorem State.logEvent_tame (s : State) (ch : Fin 2) (code : Nat) (detail : List Byte) : s.Tame (s.logEvent code detail) ch :=
  (s.logEvent_only code detail).tame ((s.logEvent_regsBut code detail).mono (List.subset_append_right _ _))

theorem State.setEncCh_tame (s : State) (ch : Fin 2) (x : EncCh) : s.Tame (s.setEncCh ch x) ch := (s.setEncCh_only ch x).tame .refl

theorem State.monRestart_tame (s : State) (ch : Fin 2) : s.Tame s.monRestart ch := s.monRestart_only.tame .refl

theorem State.restartSpeed_tame (s : State) (ch : Fin 2) (v : Nat) : s.Tame (s.restartSpeed ch v) ch :=
  (State.monRestart_tame ..).step ((State.setReg_tame _ _).step (State.setEncCh_tame ..))

theorem State.rateCheck_tame (s : State) (ch : Fin 2) : s.Tame (s.rateCheck ch) ch := by
  unfold State.rateCheck
  extract_lets c now short s1 s2 raise _ s3
  have h1 : s.Tame s1 ch := s.setEncCh_tame ch _
  have h3 : s.Tame s3 ch := (State.setEncCh_tame ..).step ((State.setBits_tame _ _).step (s1.bump_tame.step h1))
  exact .ite (fun _ => .ite (fun _ => (s3.logEvent_tame ..).step h3) (fun _ => h3)) (fun _ => h1)

theorem State.estimate_tame (s : State) (ch : Fin 2) (fwd : Bool) (stamp : Nat) : s.Tame (s.estimate ch fwd stamp) ch := by
  unfold State.estimate
  extract_lets c s1 stamps s2
  have h2 : s.Tame s2 ch := s.setEncCh_tame ch _
  exact .ite (fun _ => (State.monRestart_tame ..).step ((s1.setReg_tame _).step (s.setEncCh_tame ch _)))
    (fun _ => .ite (fun _ => (State.setReg_tame _ _).step ((s2.setReg_tame _).step h2)) (fun _ => (s2.setReg_tame _).step h2))

/-- A group is given a confirmed line back only where it has one. -/
theorem State.unstillGroup_tame (s : State) (ch : Fin 2) (x : Nat × Conf) : s.Tame (s.unstillGroup x) ch := by
  unfold State.unstillGroup
  split
  · next c has =>
    refine .ite (fun _ => .of_regs .refl rfl fun g idle => ?_) (fun _ => .refl)
    have other : g ≠ x.1 := by
      rintro rfl
      simp [idle] at has
    rw [s.group_setGroup_other _ other, idle]
  · exact .refl

theorem State.unstill_tame (s : State) (ch : Fin 2) : s.Tame (s.unstill ch) ch := by
  have back (l : List (Nat × Conf)) (t : State) : t.Tame (l.foldl State.unstillGroup t) ch := by
    induction l generalizing t with
    | nil => exact .refl
    | cons x l ih => exact (ih _).step (t.unstillGroup_tame ch x)
  unfold State.unstill
  split
  · exact .refl
  · extract_lets _ s1 _ s2 _ s3
    have h1 : s.Tame s1 ch := s.setEncCh_tame ch _
    have h3 : s.Tame s3 ch := State.Tame.step (t := s2) (.of_regs .refl rfl fun _ => id) ((s1.setEncCh_tame ch _).step h1)
    exact .ite (fun _ => h1) (fun _ => (back _ _).step ((s3.setReg_tame _).step h3))

/-! ### The mark and the indexes -/

/-- What the mark and the indexes change: of the channel what it keeps of its indexes alone (R216), and no count. -/
structure State.Marks (s t : State) (ch : Fin 2) : Prop extends s.Tame t ch where
  eq : t.encCh ch = { s.encCh ch with idxRef := (t.encCh ch).idxRef, idxTaken := (t.encCh ch).idxTaken }

theorem State.Tame.marks {s t : State} {ch : Fin 2} (h : s.Tame t ch) (k : t.encCh ch = s.encCh ch) : s.Marks t ch := ⟨h, by rw [k]⟩

namespace State.Marks

theorem refl {s : State} {ch : Fin 2} : s.Marks s ch := State.Tame.refl.marks rfl

/-- One operation more. -/
theorem step {s t u : State} {ch : Fin 2} (h : t.Marks u ch) (k : s.Marks t ch) : s.Marks u ch :=
  ⟨h.toTame.step k.toTame, h.eq.trans (by rw [k.eq])⟩

theorem ite {c : Prop} [Decidable c] {s t u : State} {ch : Fin 2} (h : c → s.Marks t ch) (k : ¬c → s.Marks u ch) :
    s.Marks (if c then t else u) ch := by
  by_cases x : c
  · rw [if_pos x]
    exact h x
  · rw [if_neg x]
    exact k x

end State.Marks

theorem State.setReg_marks (s : State) {ch : Fin 2} {k : Nat} (v : Nat) (hk : k ∈ edgeObjects ch := by simp [edgeObjects]) :
    s.Marks (s.setReg k v) ch :=
  (s.setReg_tame v hk).marks rfl

theorem State.bump_marks (s : State) {ch : Fin 2} {k : Nat} (hk : k ∈ edgeObjects ch := by simp [edgeObjects]) : s.Marks (s.bump k) ch :=
  (s.bump_tame hk).marks rfl

theorem State.setBits_marks (s : State) {ch : Fin 2} {k : Nat} (m : Nat) (hk : k ∈ edgeObjects ch := by simp [edgeObjects]) :
    s.Marks (s.setBits k m) ch := (s.setBits_tame m hk).marks rfl

theorem State.logEvent_marks (s : State) (ch : Fin 2) (code : Nat) (detail : List Byte) : s.Marks (s.logEvent code detail) ch :=
  (s.logEvent_tame ..).marks (s.logEvent_encCh ..)

theorem State.setEncCh_marks (s : State) (ch : Fin 2) (x : EncCh)
    (hx : x = { s.encCh ch with idxRef := x.idxRef, idxTaken := x.idxTaken } := by rfl) : s.Marks (s.setEncCh ch x) ch :=
  ⟨s.setEncCh_tame .., by rwa [State.encCh_setEncCh]⟩

/-- No index error of a calm channel has an effect on the lines (R218). -/
theorem State.calm.indexPolicy {s : State} {ch : Fin 2} (h : s.calm ch) : s.indexPolicy ch = s :=
  if_neg fun ⟨lit, fires⟩ => h.elim (· fires) (·.1 lit)

theorem State.indexError_marks (s : State) (ch : Fin 2) (detail : Nat) (distance : Int) : s.Marks (s.indexError ch detail distance) ch := by
  refine State.Tame.marks ?_ ((s.indexError_only ..).encCh ch)
  unfold State.indexError
  extract_lets s1 s2
  have h1 : s.Tame s1 ch := (State.setBits_tame _ _).step s.bump_tame
  have h2 : s1.Tame s2 ch := .of_calm fun calm => calm.indexPolicy ▸ .refl
  exact (s2.logEvent_tame ..).step (h2.step h1)

/-- Nothing is placed or predicted again where no line is confirmed. -/
theorem State.tryLocked_idle {s : State} {g : Nat} (h : (s.group g).conf = none) : s.tryLocked g = s := by
  unfold State.tryLocked
  rw [h]

theorem State.rePredict_idle {s : State} {g : Nat} (h : (s.group g).conf = none) : s.rePredict g = s := by
  unfold State.rePredict
  rw [h]

/-- Going over the groups where each leaves the state as it is. -/
theorem State.overGroups_idle {s : State} {f : State → Nat → State} (h : ∀ g, g < 8 → f s g = s) : (List.range 8).foldl f s = s :=
  List.foldlRecOn (motive := (· = s)) _ _ rfl fun _ same g hg => by rw [same, h g (List.mem_range.mp hg)]

theorem State.calm.markMoved {s : State} {ch : Fin 2} (h : s.calm ch) : (if (ch : Nat) = s.fireCh then s.markMoved else s) = s :=
  ite_eq_right_iff.mpr fun fires => State.overGroups_idle fun g hg => State.tryLocked_idle ((h.resolve_left (· fires)).2 g hg)

theorem State.calm.rePredictAll {s : State} {ch : Fin 2} (h : s.calm ch) : (if (ch : Nat) = s.fireCh then s.rePredictAll else s) = s :=
  ite_eq_right_iff.mpr fun fires => State.overGroups_idle fun g hg => State.rePredict_idle ((h.resolve_left (· fires)).2 g hg)

/-- What follows the firing channel, and is idle where no line does, leaves every channel as it is. -/
theorem State.follow_marks (s : State) (ch : Fin 2) {f : State → State} (same : (f s).encCh ch = s.encCh ch)
    (idle : s.calm ch → (if (ch : Nat) = s.fireCh then f s else s) = s) : s.Marks (if (ch : Nat) = s.fireCh then f s else s) ch :=
  ⟨.of_calm fun calm => (idle calm).symm ▸ .refl, by split_ifs <;> simp [same]⟩

theorem State.markMoved_marks (s : State) (ch : Fin 2) : s.Marks (if (ch : Nat) = s.fireCh then s.markMoved else s) ch :=
  s.follow_marks ch (s.markMoved_only.encCh ch) fun calm => calm.markMoved

theorem State.rePredictAll_marks (s : State) (ch : Fin 2) : s.Marks (if (ch : Nat) = s.fireCh then s.rePredictAll else s) ch :=
  s.follow_marks ch (s.rePredictAll_only.encCh ch) fun calm => calm.rePredictAll

/-- A reversal that no line follows cancels none (R39). -/
theorem State.reverse_marks (s : State) {ch : Fin 2} (fires : (ch : Nat) = s.fireCh) : s.Marks s.reverse ch := by
  refine State.Tame.marks (.of_calm fun calm => ?_) (s.reverse_only.encCh ch)
  have idle : s.reverse = { s with lantern := { s.lantern with rungs := [] } } := if_neg (calm.resolve_left (· fires)).1
  rw [idle]
  exact .of_regs .refl rfl fun _ => id

/-- The reversal of the firing channel starts the monitor again (R213, R221). -/
theorem State.turn_marks (s : State) {ch : Fin 2} (fires : (ch : Nat) = s.fireCh) : s.Marks s.monRestart.reverse ch := by
  have same : s.monRestart.fireCh = s.fireCh := rfl
  exact (State.reverse_marks _ (fires.trans same.symm)).step ((s.monRestart_tame ch).marks rfl)

theorem State.missingIndex_marks (s : State) (ch : Fin 2) : s.Marks (s.missingIndex ch) ch := by
  unfold State.missingIndex
  dsimp only
  split
  · exact .refl
  · exact .ite (fun _ => (State.indexError_marks ..).step (s.setEncCh_marks ch _)) (fun _ => .refl)

theorem State.monitor_marks (s : State) (ch : Fin 2) : s.Marks (s.monitor ch) ch := by
  have restart (t : State) : t.Marks t.monRestart ch := (t.monRestart_tame ch).marks rfl
  unfold State.monitor
  refine .ite (fun _ => .refl) (fun _ => .ite (fun _ => ?_) (fun _ => .ite (fun _ => ?_) (fun _ => restart s)))
  · exact State.Tame.marks (.of_regs .refl rfl fun _ => id) rfl
  · exact (State.logEvent_marks ..).step ((State.bump_marks _).step (restart s))

theorem State.testIndex_marks (s : State) (ch : Fin 2) : s.Marks (s.testIndex ch) ch := by
  unfold State.testIndex
  extract_lets count c near fwd stamp s1 s2 cpr
  have h2 : s.Marks s2 ch := (s1.setEncCh_marks ch _).step ((State.setReg_marks _ _).step (s.setReg_marks _))
  refine .ite (fun _ => .refl) (fun _ => ?_)
  split
  · exact h2
  · exact .ite (fun _ => (State.indexError_marks ..).step h2) (fun _ => h2)

theorem State.retestIndex_marks (s : State) (ch : Fin 2) : s.Marks (s.retestIndex ch) ch :=
  .ite (fun _ => s.testIndex_marks ch) (fun _ => .refl)

theorem State.moveMark_marks (s : State) (ch : Fin 2) (stamp : Nat) : s.Marks (s.moveMark ch stamp) ch := by
  unfold State.moveMark
  extract_lets count mark d s1 s2 s3 _ s4 s5 s6 s7
  have h2 : s.Marks s2 ch := (State.missingIndex_marks ..).step ((s1.monitor_marks ch).step (s.setReg_marks _))
  have h4 : s.Marks s4 ch := (State.setEncCh_marks _ ch _).step ((s3.setReg_marks _).step (s.setReg_marks _))
  have h5 : s.Marks s5 ch := (State.setBits_marks _ _).step (s4.bump_marks.step h4)
  have h6 : s.Marks s6 ch := .ite (fun fires => (s5.turn_marks fires).step h5) (fun _ => h5)
  have h7 : s.Marks s7 ch := (State.retestIndex_marks ..).step ((s6.logEvent_marks ..).step h6)
  exact .ite (fun _ => (s2.markMoved_marks ch).step h2) (fun _ => .ite (fun _ => (s7.markMoved_marks ch).step h7) (fun _ => .refl))

end Sys2Proof.Machine
end

section
/-! SUPPORT. O40 (09 R197 to R224): a counted edge, an illegal one, an index, a standstill, and O40 itself. -/

namespace Sys2Proof.Machine

/-! ### A counted edge (R198, R211) -/

/-- A counted edge keeps the levels and takes its sense. -/
theorem State.countEdge_levels (s : State) (ch : Fin 2) (fwd : Bool) :
    ((s.countEdge ch fwd).encCh ch).a = (s.encCh ch).a ∧ ((s.countEdge ch fwd).encCh ch).b = (s.encCh ch).b ∧
      ((s.countEdge ch fwd).encCh ch).lastDir = some fwd := by
  unfold State.countEdge
  extract_lets stamp s1 count new s2 c s3 s4 s5 s6
  obtain ⟨_, _, h1⟩ := s.unstill_encCh ch
  have h3 : s3.encCh ch = { s1.encCh ch with trace := ((stamp, new) :: c.trace).take traceLen, edgeAt := some s2.clock.cycles } :=
    s2.encCh_setEncCh ch _
  obtain ⟨_, _, _, h4⟩ := s3.rateCheck_encCh ch
  obtain ⟨_, h5⟩ := s4.estimate_encCh ch fwd stamp
  have h6 := ((s6.rePredictAll_marks ch).step (s5.moveMark_marks ch stamp)).eq
  rw [h5, h4, h3, h1] at h6
  rw [h6]
  exact ⟨rfl, rfl, rfl⟩

/-- The objects that a counted edge writes are apart, and are not FIRING_CHANNEL. -/
theorem countObjects_apart (ch : Fin 2) : Obj.encCount ch ≠ Obj.lastEdgeCount ch ∧ Obj.encCount ch ≠ Obj.lastEdgeTime ch ∧
    Obj.lastEdgeCount ch ≠ Obj.lastEdgeTime ch ∧ Obj.firingChannel ≠ Obj.encCount ch ∧ Obj.firingChannel ≠ Obj.lastEdgeCount ch ∧
    Obj.firingChannel ≠ Obj.lastEdgeTime ch := by
  revert ch
  decide

/-- Where no line follows the channel, COUNT moves by one in the sense of the edge, and LAST_EDGE_COUNT takes it. -/
theorem State.countEdge_counts (s : State) (ch : Fin 2) (fwd : Bool) (calm : s.calm ch) :
    (s.countEdge ch fwd).reg (Obj.lastEdgeCount ch) = (s.countEdge ch fwd).reg (Obj.encCount ch) ∧
      (s.countEdge ch fwd).reg (Obj.encCount ch) =
        if fwd then (s.reg (Obj.encCount ch) + 1) % 2 ^ 32 else (s.reg (Obj.encCount ch) + 2 ^ 32 - 1) % 2 ^ 32 := by
  obtain ⟨count, last, fires⟩ := edgeObjects_apart ch
  unfold State.countEdge
  extract_lets stamp s1 old new s2 c s3 s4 s5 s6
  have unstilled := s.unstill_tame ch
  have counted : s2.reg (Obj.encCount ch) = new ∧ s2.reg (Obj.lastEdgeCount ch) = new ∧
      s2.reg Obj.firingChannel = s1.reg Obj.firingChannel := by
    obtain ⟨_, _, _, _, _, _⟩ := countObjects_apart ch
    simp_all [s2, State.reg_setReg]
  have calm2 : s2.calm ch := (unstilled.calm calm).congr counted.2.2 rfl fun _ => id
  have h3 : s2.Tame s3 ch := s2.setEncCh_tame ch _
  have regs := (((s6.rePredictAll_marks ch).step (s5.moveMark_marks ch stamp)).toTame.step ((s4.estimate_tame ch fwd stamp).step
    ((s3.rateCheck_tame ch).step h3))).regs calm2
  have was : old = s.reg (Obj.encCount ch) := unstilled.regs calm _ count
  rw [regs _ count, regs _ last, counted.1, counted.2.1]
  refine ⟨rfl, ?_⟩
  rw [show s.reg (Obj.encCount ch) + 2 ^ 32 - 1 = 2 ^ 32 - 1 + old by omega, ← was]

/-! ### An illegal transition (R199) -/

/-- An illegal transition keeps the levels, starts the speed again and is a fault. -/
theorem State.illegal_levels (s : State) (ch : Fin 2) :
    ((s.illegal ch).encCh ch).a = (s.encCh ch).a ∧ ((s.illegal ch).encCh ch).b = (s.encCh ch).b ∧
      ((s.illegal ch).encCh ch).stamps = [] ∧ ((s.illegal ch).encCh ch).faultAt = some s.clock.cycles := by
  unfold State.illegal
  extract_lets s1 s2 _ s3 stilled s4 s5
  have clock : s2.clock = s.clock := (s1.rateCheck_only ch).agree .clock (by decide)
  obtain ⟨_, _, _, h2⟩ := s1.rateCheck_encCh ch
  have h3 : s3.encCh ch = { s2.encCh ch with faultAt := some s2.clock.cycles } := s2.encCh_setEncCh ch _
  have h4 : s4.encCh ch = { s3.encCh ch with stamps := [], lastDir := none } := s3.restartSpeed_encCh ..
  have h5 := ((s5.rePredictAll_marks ch).step (s4.logEvent_marks ..)).eq
  rw [h4, h3, h2, clock] at h5
  rw [h5]
  exact ⟨rfl, rfl, rfl, rfl⟩

/-- An error counted, and its bit set. -/
theorem State.countFlag_regsBut (s : State) (count flags m : Nat) : s.regsBut ((s.bump count).setBits flags m) [count, flags] := fun k hk => by
  obtain ⟨notCount, notFlags⟩ : k ≠ count ∧ k ≠ flags := by simpa using hk
  rw [State.reg_setBits_other _ _ notFlags, s.reg_bump_other notCount]

/-- A rate error writes RATE_ERRORS and STATUS, and clears no bit of STATUS. -/
theorem State.rateCheck_regs (s : State) (ch : Fin 2) :
    s.regsBut (s.rateCheck ch) (Obj.rateErrors ch :: Obj.encStatus ch :: yilloggerObjects) ∧
      ((s.reg (Obj.encStatus ch)).testBit 0 = true → ((s.rateCheck ch).reg (Obj.encStatus ch)).testBit 0 = true) := by
  have apart : Obj.encStatus ch ≠ Obj.rateErrors ch ∧ Obj.encStatus ch ∉ yilloggerObjects := by
    revert ch
    decide
  unfold State.rateCheck
  extract_lets c now short s1 s2 raise _ s3
  have noted : s1.regsBut s2 (Obj.rateErrors ch :: Obj.encStatus ch :: yilloggerObjects) :=
    State.regsBut.mono (s1.countFlag_regsBut _ _ _)
  have kept : s2.reg (Obj.encStatus ch) = s1.reg (Obj.encStatus ch) ||| 2 :=
    (State.reg_setBits_same ..).trans (congrArg (· ||| 2) (s1.reg_bump_other apart.1))
  have bit : (s1.reg (Obj.encStatus ch)).testBit 0 = true → (s2.reg (Obj.encStatus ch)).testBit 0 = true := fun h => by
    rw [kept, Nat.testBit_or, h, Bool.true_or]
  split_ifs
  · exact ⟨State.regsBut.step (s3.logEvent_regsBut _ _) noted, fun h => by rw [s3.logEvent_reg _ _ apart.2]; exact bit h⟩
  · exact ⟨noted, bit⟩
  · exact ⟨.refl, id⟩

/-- Where no line follows the channel, an illegal transition is counted, and SPEED_STATE stays at STANDSTILL in the REF cycle of one
(R223). -/
theorem State.illegal_regs (s : State) (ch : Fin 2) (calm : s.calm ch) {k : Nat} (hk : k ∉ yilloggerObjects) : (s.illegal ch).reg k =
    ((((s.bump (Obj.illegalCount ch)).setBits (Obj.encStatus ch) 1).rateCheck ch).setReg (Obj.speedState ch)
      (if (s.encCh ch).still.any (fun x => decide (x.cycle = s.clock.cycles)) then 2 else 0)).reg k := by
  unfold State.illegal
  extract_lets s1 s2 _ s3 stilled s4 s5
  have clock : s2.clock = s.clock := (s1.rateCheck_only ch).agree .clock (by decide)
  have h3 : s3.encCh ch = { s2.encCh ch with faultAt := some s2.clock.cycles } := s2.encCh_setEncCh ch _
  obtain ⟨_, _, _, h2⟩ := s1.rateCheck_encCh ch
  have kept : (s3.encCh ch).still = (s.encCh ch).still := calc
    (s3.encCh ch).still = (s2.encCh ch).still := by rw [h3]
    _ = (s.encCh ch).still := by rw [show s2.encCh ch = _ from h2]; rfl
  have still : stilled = (s.encCh ch).still.any (fun x => decide (x.cycle = s.clock.cycles)) := by
    rw [← kept, ← clock]
    rfl
  have tame : s.Tame s5 ch := (s4.logEvent_tame ..).step ((s3.restartSpeed_tame ..).step ((s2.setEncCh_tame ch _).step
    ((s1.rateCheck_tame ch).step ((State.setBits_tame _ _).step s.bump_tame))))
  rw [(tame.calm calm).rePredictAll, s4.logEvent_reg _ _ hk, ← still, s3.restartSpeed_reg, State.reg_setReg, State.reg_setReg]
  rfl

/-- COUNT and ILLEGAL_COUNT are apart from each other and from what else an illegal transition writes; STATUS and SPEED_STATE are too. -/
theorem illegalObjects_apart (ch : Fin 2) :
    Obj.encCount ch ∉ Obj.speedState ch :: Obj.encStatus ch :: Obj.rateErrors ch :: yilloggerObjects ∧
      (Obj.encCount ch ≠ Obj.illegalCount ch ∧
        Obj.illegalCount ch ∉ Obj.speedState ch :: Obj.encStatus ch :: Obj.rateErrors ch :: yilloggerObjects) ∧
      Obj.encStatus ch ∉ yilloggerObjects ∧ Obj.speedState ch ∉ yilloggerObjects ∧ Obj.encStatus ch ≠ Obj.speedState ch := by
  revert ch
  decide

/-- Where no line follows the channel, an illegal transition moves no count and is counted; SPEED_STATE stays at STANDSTILL in the REF cycle
of one (R223). -/
theorem State.illegal_counts (s : State) (ch : Fin 2) (calm : s.calm ch) :
    (s.illegal ch).reg (Obj.encCount ch) = s.reg (Obj.encCount ch) ∧
      (s.illegal ch).reg (Obj.speedState ch) = (if (s.encCh ch).still.any (fun x => decide (x.cycle = s.clock.cycles)) then 2 else 0) ∧
      (s.illegal ch).reg (Obj.illegalCount ch) = countValue (Obj.illegalCount ch) (s.reg (Obj.illegalCount ch)) 1 ∧
      ((s.illegal ch).reg (Obj.encStatus ch)).testBit 0 = true := by
  obtain ⟨count, ⟨own, illegal⟩, status, speed, flags⟩ := illegalObjects_apart ch
  obtain ⟨rated, bit⟩ := ((s.bump (Obj.illegalCount ch)).setBits (Obj.encStatus ch) 1).rateCheck_regs ch
  have before {k : Nat} (hk : k ∉ Obj.speedState ch :: Obj.encStatus ch :: Obj.rateErrors ch :: yilloggerObjects) :
      (s.illegal ch).reg k = (s.bump (Obj.illegalCount ch)).reg k := by
    simp only [List.mem_cons, not_or] at hk
    obtain ⟨notSpeed, notStatus, notRate, notLog⟩ := hk
    rw [s.illegal_regs ch calm notLog, State.reg_setReg_other _ _ notSpeed, rated _ (by simp [notRate, notStatus, notLog]),
      State.reg_setBits_other _ _ notStatus]
  refine ⟨?_, ?_, ?_, ?_⟩
  · rw [before count, s.reg_bump_other own]
  · rw [s.illegal_regs ch calm speed, State.reg_setReg_same]
  · rw [before illegal, State.reg_bump_same]
  · rw [s.illegal_regs ch calm status, State.reg_setReg_other _ _ flags]
    exact bit (by rw [State.reg_setBits_same, Nat.testBit_or]; simp)

/-! ### The commands (R197) -/

/-- The filtered levels of A and B after a sample. -/
def State.seenA (s : State) (ch : Nat) (pins : List (Bool × Bool)) : Bool :=
  filterLevel (s.reg (Obj.filterN ch)) (s.encCh ch).a (pins.map Prod.fst)

def State.seenB (s : State) (ch : Nat) (pins : List (Bool × Bool)) : Bool :=
  filterLevel (s.reg (Obj.filterN ch)) (s.encCh ch).b (pins.map Prod.snd)

/-- The state that has seen them. -/
def State.seen (s : State) (ch : Nat) (pins : List (Bool × Bool)) : State :=
  s.setEncCh ch { s.encCh ch with a := s.seenA ch pins, b := s.seenB ch pins }

/-- The sense of a legal edge: the place of the new levels is the next one forward, and DIR_SENSE says which sense counts up. -/
def State.edgeSense (s : State) (ch : Nat) (a b : Bool) : Bool :=
  decide (decide (quadrature a b = (quadrature (s.encCh ch).a (s.encCh ch).b + 1) % 4) = decide (s.reg (Obj.dirSense ch) = 0))

/-- A step forward in the sequence of R198, written two ways. -/
theorem quadrature_step (a b c d : Bool) :
    (quadrature a b + 4 - quadrature c d) % 4 = 1 ↔ quadrature a b = (quadrature c d + 1) % 4 := by
  revert a b c d
  decide

theorem exec_encoderEdge (s : State) (ch : Fin 2) (pins : List (Bool × Bool)) : exec (.encoderEdge ch pins) s =
    if s.counting ch = false ∨ (s.seenA ch pins = (s.encCh ch).a ∧ s.seenB ch pins = (s.encCh ch).b) then ok (s.seen ch pins)
    else if s.seenA ch pins ≠ (s.encCh ch).a ∧ s.seenB ch pins ≠ (s.encCh ch).b then ok ((s.seen ch pins).illegal ch)
    else ok ((s.seen ch pins).countEdge ch (s.edgeSense ch (s.seenA ch pins) (s.seenB ch pins))) := by
  have sense : s.edgeSense ch (s.seenA ch pins) (s.seenB ch pins) = if s.reg (Obj.dirSense ch) = 0 then
      decide ((quadrature (s.seenA ch pins) (s.seenB ch pins) + 4 - quadrature (s.encCh ch).a (s.encCh ch).b) % 4 = 1) else
      !decide ((quadrature (s.seenA ch pins) (s.seenB ch pins) + 4 - quadrature (s.encCh ch).a (s.encCh ch).b) % 4 = 1) := by
    unfold State.edgeSense
    simp only [quadrature_step]
    split_ifs with up <;> simp [up]
  have idle : (s.counting ch = false ∨ (s.seenA ch pins = (s.encCh ch).a ∧ s.seenB ch pins = (s.encCh ch).b)) ↔
      (!s.counting ch || (s.seenA ch pins == (s.encCh ch).a && s.seenB ch pins == (s.encCh ch).b)) = true := by simp
  simp only [sense, idle]
  rfl

end Sys2Proof.Machine
end

section
/-! SUPPORT. O40 (09 R207, R215, R224): the commands of the encoder, and O40 itself. -/

namespace Sys2Proof.Machine

section
variable {s : State} {ch : Fin 2} {pins : List (Bool × Bool)}

/-! ### ENCODER_EDGE (R197 to R199) -/

theorem encoderEdge_counts (on : s.counting ch = true) (legal : (s.seenA ch pins ≠ (s.encCh ch).a ∧ s.seenB ch pins = (s.encCh ch).b) ∨
      (s.seenA ch pins = (s.encCh ch).a ∧ s.seenB ch pins ≠ (s.encCh ch).b)) :
    let fwd := s.edgeSense ch (s.seenA ch pins) (s.seenB ch pins)
    Completes (.encoderEdge ch pins) s (fun t => t.mode = s.mode ∧ (t.encCh ch).a = s.seenA ch pins ∧ (t.encCh ch).b = s.seenB ch pins ∧
      (t.encCh ch).lastDir = some fwd ∧ (s.calm ch → t.reg (Obj.lastEdgeCount ch) = t.reg (Obj.encCount ch) ∧ t.reg (Obj.encCount ch) =
        if fwd then (s.reg (Obj.encCount ch) + 1) % 2 ^ 32 else (s.reg (Obj.encCount ch) + 2 ^ 32 - 1) % 2 ^ 32)) := by
  have runs := exec_encoderEdge s ch pins
  rw [if_neg (by grind), if_neg (by grind)] at runs
  obtain ⟨a, b, dir⟩ := (s.seen ch pins).countEdge_levels ch (s.edgeSense ch (s.seenA ch pins) (s.seenB ch pins))
  have seen : (s.seen ch pins).encCh ch = _ := s.encCh_setEncCh ch _
  rw [seen] at a b
  exact ⟨_, runs, (State.countEdge_only ..).agree .mode (by decide), a, b, dir, fun calm => State.countEdge_counts _ ch _ calm⟩

theorem encoderEdge_illegal (on : s.counting ch = true) (a : s.seenA ch pins ≠ (s.encCh ch).a) (b : s.seenB ch pins ≠ (s.encCh ch).b) :
    Completes (.encoderEdge ch pins) s (fun t => t.mode = s.mode ∧ (t.encCh ch).a = s.seenA ch pins ∧ (t.encCh ch).b = s.seenB ch pins ∧
      (t.encCh ch).stamps = [] ∧ (t.encCh ch).faultAt = some s.clock.cycles ∧
      (s.calm ch → t.reg (Obj.encCount ch) = s.reg (Obj.encCount ch) ∧
        t.reg (Obj.speedState ch) = (if (s.encCh ch).still.any (fun x => decide (x.cycle = s.clock.cycles)) then 2 else 0) ∧
        t.reg (Obj.illegalCount ch) = countValue (Obj.illegalCount ch) (s.reg (Obj.illegalCount ch)) 1 ∧
        (t.reg (Obj.encStatus ch)).testBit 0 = true)) := by
  have runs := exec_encoderEdge s ch pins
  rw [if_neg (by simp [on, a]), if_pos ⟨a, b⟩] at runs
  obtain ⟨la, lb, stamps, fault⟩ := (s.seen ch pins).illegal_levels ch
  have seen : (s.seen ch pins).encCh ch = _ := s.encCh_setEncCh ch _
  rw [seen] at la lb
  refine ⟨_, runs, (State.illegal_only ..).agree .mode (by decide), la, lb, stamps, fault, fun calm => ?_⟩
  have counted := (s.seen ch pins).illegal_counts ch calm
  rwa [seen] at counted

theorem encoderEdge_idle (idle : s.counting ch = false ∨ (s.seenA ch pins = (s.encCh ch).a ∧ s.seenB ch pins = (s.encCh ch).b)) :
    Completes (.encoderEdge ch pins) s (fun t => t = { s with enc := t.enc } ∧
      t.encCh ch = { s.encCh ch with a := s.seenA ch pins, b := s.seenB ch pins }) :=
  ⟨_, (exec_encoderEdge s ch pins).trans (if_pos idle), rfl, s.encCh_setEncCh ch _⟩

/-! ### INDEX_EDGE (R215) -/

/-- An index error that no line follows is counted and logged, and no more (R218). -/
theorem State.indexError_regs (s : State) (ch : Fin 2) (detail : Nat) (distance : Int) (calm : s.calm ch) :
    s.regsBut (s.indexError ch detail distance) (Obj.indexErrors ch :: Obj.encStatus ch :: yilloggerObjects) := by
  unfold State.indexError
  extract_lets s1 s2
  have noted : s.regsBut s1 (Obj.indexErrors ch :: Obj.encStatus ch :: yilloggerObjects) :=
    State.regsBut.mono (s.countFlag_regsBut _ _ _)
  have tame : s.Tame s1 ch := (State.setBits_tame _ _).step s.bump_tame
  have policy : s2 = s1 := (tame.calm calm).indexPolicy
  rw [policy]
  exact State.regsBut.step (s1.logEvent_regsBut _ _) noted

/-- The first index at the mark is taken, with the count there. -/
theorem State.testIndex_takes (s : State) (ch : Fin 2) (mark : s.reg (Obj.encCount ch) = s.reg (Obj.travelMark ch))
    (first : (s.encCh ch).idxTaken = none) : ((s.testIndex ch).encCh ch).idxTaken = some (s.reg (Obj.encCount ch)) ∧
      (s.calm ch → (s.testIndex ch).reg (Obj.lastIndexCount ch) = s.reg (Obj.encCount ch)) := by
  have apart : Obj.lastIndexCount ch ≠ Obj.lastIndexTime ch ∧
      Obj.lastIndexCount ch ∉ Obj.indexErrors ch :: Obj.encStatus ch :: yilloggerObjects := by
    clear mark first
    revert ch
    decide
  unfold State.testIndex
  extract_lets count c near fwd stamp s1 s2 cpr
  have far : near = false := by
    simp only [near, c, first]
  have taken : (s2.encCh ch).idxTaken = some count := congrArg EncCh.idxTaken (s1.encCh_setEncCh ch _)
  have counted : s2.reg (Obj.lastIndexCount ch) = count :=
    (State.reg_setReg_other _ _ apart.1).trans (State.reg_setReg_same ..)
  have tame : s.Tame s2 ch := (s1.setEncCh_tame ch _).step ((State.setReg_tame _ _).step (s.setReg_tame _))
  have failed (detail : Nat) (d : Int) : ((s2.indexError ch detail d).encCh ch).idxTaken = some count ∧
      (s.calm ch → (s2.indexError ch detail d).reg (Obj.lastIndexCount ch) = count) :=
    ⟨(congrArg EncCh.idxTaken ((s2.indexError_only ..).encCh ch)).trans taken,
      fun calm => (s2.indexError_regs ch detail d (tame.calm calm) _ apart.2).trans counted⟩
  rw [if_neg (by simp [far, count, mark])]
  split
  · exact ⟨taken, fun _ => counted⟩
  · dsimp only
    split_ifs
    · exact failed _ _
    · exact ⟨taken, fun _ => counted⟩

/-- The filtered level of Z after a sample. -/
def State.seenZ (s : State) (ch : Nat) (pins : List Bool) : Bool := filterLevel (s.reg (Obj.filterN ch)) (s.encCh ch).z pins

theorem exec_indexEdge (s : State) (ch : Fin 2) (pins : List Bool) : exec (.indexEdge ch pins) s =
    if s.seenZ ch pins && !(s.encCh ch).z && s.counting ch then
      ok ((s.setEncCh ch { s.encCh ch with z := s.seenZ ch pins, zAt := some s.clock.cycles }).testIndex ch)
    else ok (s.setEncCh ch { s.encCh ch with z := s.seenZ ch pins }) := by
  show execIndexEdge ch pins s = _
  unfold execIndexEdge
  extract_lets c z rises s1
  by_cases h : rises = true
  · rw [if_pos h]
    simp only [s1, if_pos h]
    exact (if_pos h).symm
  · rw [if_neg h]
    simp only [s1, if_neg h]
    exact (if_neg h).symm

theorem indexEdge_takes {pins : List Bool} (on : s.counting ch = true) (rises : s.seenZ ch pins = true)
    (low : (s.encCh ch).z = false) (mark : s.reg (Obj.encCount ch) = s.reg (Obj.travelMark ch)) (first : (s.encCh ch).idxTaken = none) :
    Completes (.indexEdge ch pins) s (fun t => t.mode = s.mode ∧ (t.encCh ch).idxTaken = some (s.reg (Obj.encCount ch)) ∧
      (s.calm ch → t.reg (Obj.lastIndexCount ch) = s.reg (Obj.encCount ch) ∧ t.reg (Obj.encCount ch) = s.reg (Obj.encCount ch))) := by
  have runs := (exec_indexEdge s ch pins).trans (if_pos (by simp [on, rises, low]))
  obtain ⟨count, -, -⟩ := edgeObjects_apart ch
  generalize hu : s.setEncCh ch { s.encCh ch with z := s.seenZ ch pins, zAt := some s.clock.cycles } = u at runs
  have seen : u.encCh ch = { s.encCh ch with z := s.seenZ ch pins, zAt := some s.clock.cycles } := hu ▸ s.encCh_setEncCh ch _
  have same (k : Nat) : u.reg k = s.reg k := hu ▸ rfl
  have mode : u.mode = s.mode := hu ▸ rfl
  have calms : s.calm ch → u.calm ch := (hu ▸ s.setEncCh_tame ch _ : s.Tame u ch).calm
  obtain ⟨taken, last⟩ := u.testIndex_takes ch (by rw [same, same, mark]) (by rw [seen]; exact first)
  refine ⟨_, runs, ((u.testIndex_only ch).agree .mode (by decide)).trans mode, by rw [taken, same], fun calm => ⟨?_, ?_⟩⟩
  · rw [last (calms calm), same]
  · rw [(u.testIndex_marks ch).regs (calms calm) _ count, same]

theorem indexEdge_idle {pins : List Bool} (idle : s.counting ch = false ∨ s.seenZ ch pins = false ∨ (s.encCh ch).z = true) :
    Completes (.indexEdge ch pins) s (fun t => t = { s with enc := t.enc } ∧ t.encCh ch = { s.encCh ch with z := s.seenZ ch pins }) :=
  ⟨_, (exec_indexEdge s ch pins).trans (if_neg (by grind)), rfl, s.encCh_setEncCh ch _⟩

/-! ### STANDSTILL_TIMEOUT and ENCODER_BLOCK_EXPIRY (R207, R224) -/

/-- A standstill keeps no stamp, and SPEED_STATE is STANDSTILL. -/
theorem State.enterStill_stills (s : State) (ch : Fin 2) : ((s.enterStill ch).encCh ch).stamps = [] ∧
    (s.enterStill ch).reg (Obj.speedState ch) = 2 ∧ s.Tame (s.enterStill ch) ch := by
  unfold State.enterStill
  extract_lets c x
  exact ⟨congrArg EncCh.stamps (State.restartSpeed_encCh ..), State.reg_setReg_same .., (State.restartSpeed_tame ..).step (s.setEncCh_tame ch _)⟩

theorem standstillTimeout_declares (on : s.counting ch = true) (free : (s.encCh ch).edgeAt ≠ some s.clock.cycles) :
    Completes (.standstillTimeout ch) s (fun t => t.mode = s.mode ∧ (t.encCh ch).stamps = [] ∧
      (s.calm ch → t.reg (Obj.speedState ch) = 2 ∧ t.reg (Obj.encCount ch) = s.reg (Obj.encCount ch))) := by
  obtain ⟨stamps, state, tame⟩ := s.enterStill_stills ch
  have mode : (s.enterStill ch).mode = s.mode := (s.enterStill_only ch).agree .mode (by decide)
  have runs : exec (.standstillTimeout ch) s =
      ok (if (ch : Nat) = (s.enterStill ch).fireCh then (s.enterStill ch).rePredictAll else s.enterStill ch) := if_neg (by simp [on, free])
  generalize s.enterStill ch = u at stamps state tame mode runs
  obtain ⟨count, -, -⟩ := edgeObjects_apart ch
  have frame : Only _ u (if (ch : Nat) = u.fireCh then u.rePredictAll else u) := .ite (fun _ => u.rePredictAll_only) (fun _ => .refl)
  refine ⟨_, runs, (frame.agree .mode (by decide)).trans mode, (congrArg EncCh.stamps (frame.encCh ch)).trans stamps, fun calm => ?_⟩
  rw [(tame.calm calm).rePredictAll]
  exact ⟨state, tame.regs calm _ count⟩

theorem standstillTimeout_waits (edge : (s.encCh ch).edgeAt = some s.clock.cycles) : Completes (.standstillTimeout ch) s (fun t => t = s) :=
  ⟨s, if_pos (by simp [edge]), rfl⟩

theorem encoderBlockExpiry_ends (s : State) :
    Completes .encoderBlockExpiry s (fun t => t = { s with enc := t.enc } ∧ (t.encCh s.fireCh).faultAt = none) :=
  ⟨_, rfl, rfl, congrArg EncCh.faultAt (s.encCh_setEncCh s.fireCh _)⟩

end

/-- Settles O40: a lemma for each case of each command. -/
theorem encoderCountsEdges : Obligations.EncoderCountsEdges := fun s _ =>
  ⟨fun _ => ⟨encoderEdge_counts, encoderEdge_illegal, encoderEdge_idle⟩, fun _ => ⟨indexEdge_takes, indexEdge_idle⟩,
    standstillTimeout_declares, standstillTimeout_waits, encoderBlockExpiry_ends s⟩

end Sys2Proof.Machine
end

section
/-! SUPPORT. O27 (09 R201; 10 R250; 12 R301; 13 R314, R321): the writes of the encoder, the Taper, the twin link and the cameras. -/

namespace Sys2Proof.Machine

/-! ### ENABLE of an encoder channel (09 R201) -/

theorem State.writeEffect_encEnable (s : State) (ch : Fin 2) (v : Nat) : s.writeEffect (Obj.encEnable ch) v = s.enableChannel ch v :=
  match ch with
  | 0 => rfl
  | 1 => rfl

/-- The objects that a channel starts with at 0. -/
def startObjects (ch : Nat) : List Nat := [Obj.encCount ch, Obj.travelMark ch, Obj.travelDir ch, Obj.speedState ch]

theorem State.startChannel_reg (s : State) (ch k : Nat) : (s.startChannel ch).reg k = if k ∈ startObjects ch then 0 else s.reg k := by
  have writes : (s.startChannel ch).reg k = ((((s.setReg (Obj.encCount ch) 0).setReg (Obj.travelMark ch) 0).setReg (Obj.travelDir ch) 0).setReg
    (Obj.speedState ch) 0).reg k := rfl
  rw [writes]
  simp only [State.reg_setReg, startObjects, List.mem_cons, List.not_mem_nil, or_false]
  split_ifs <;> simp_all

theorem encoderEnable_takes {s : State} {h : Hdr} {v : Nat} {ch : Fin 2} (ha : s.admits h (Obj.encEnable ch) v) :
    Completes (.encoderEnable h ch v) s (fun t => t.reg (Obj.encEnable ch) = v ∧
      (v = 1 → s.isSet (Obj.encEnable ch) = false → t.reg (Obj.encCount ch) = 0 ∧ t.reg (Obj.travelMark ch) = 0 ∧
        t.reg (Obj.travelDir ch) = 0 ∧ t.reg (Obj.speedState ch) = 0) ∧ (v = 0 → s.regsBut t [Obj.encEnable ch])) := by
  obtain ⟨free, plain, apart⟩ : Obj.encEnable ch ≠ Obj.fusePadProgram ∧
      (findObj (Obj.encEnable ch)).toOption.all (fun r => decide (r.ty ≠ .bf24)) = true ∧ Obj.encEnable ch ∉ startObjects ch := by
    clear ha
    revert ch
    decide +kernel
  have effect := State.send_effect_raw ha free (findObj_ty_ne plain)
  rw [State.writeEffect_encEnable] at effect
  have regs (k : Nat) : (s.send h (Obj.encEnable ch) v).reg k = ((s.sawPacket h).enableChannel ch v).reg k := effect.reg (by decide) k
  have taken : ((s.sawPacket h).setReg (Obj.encEnable ch) v).reg (Obj.encEnable ch) = v := State.reg_setReg_same ..
  refine ⟨_, rfl, ?_, fun one off => ?_, fun zero k hk => ?_⟩
  · rw [regs, State.enableChannel]
    split_ifs
    · rw [State.startChannel_reg, if_neg apart, taken]
    · exact taken
  · have starts : (s.sawPacket h).enableChannel ch v = _ := if_pos ⟨one, off⟩
    simp only [regs, starts, State.startChannel_reg]
    simp [startObjects]
  · have stays : (s.sawPacket h).enableChannel ch v = _ := if_neg (by simp [zero])
    rw [regs, stays]
    exact (s.sawPacket h).setReg_regsBut _ _ k hk

/-! ### SWAP_REQUEST (12 R301) -/

theorem State.writeEffect_swapRequest (s : State) (v : Nat) : s.writeEffect Obj.swapRequest v = s.requestSwap v := rfl

/-- All that was sent before a reply still is. -/
theorem State.answer_mem {s : State} {o : Out} (h : o ∈ s.out) (hd : Hdr) (ty : Nat) (p : List Byte) (r : Reply) :
    o ∈ (s.answer hd ty p r).out := by
  have sent : o ∈ (s.respond hd r).out := by
    unfold State.respond
    dsimp only
    split_ifs
    · exact .tail _ h
    · unfold State.sendIn
      split
      · exact h
      · exact .tail _ h
  have kept : (s.answer hd ty p r).out = (s.respond hd r).out := by
    unfold State.answer State.keep
    dsimp only
    split_ifs <;> rfl
  rwa [kept]

/-- An accepted write leaves sent what its effect sends. -/
theorem State.send_mem {s : State} {h : Hdr} {key v : Nat} (ha : s.admits h key v) (hk : key ≠ Obj.fusePadProgram)
    (hty : ∀ r, findObj key = .ok r → r.ty ≠ .bf24) {o : Out} (ho : o ∈ ((s.sawPacket h).writeEffect key v).out) :
    o ∈ (s.send h key v).out := by
  obtain ⟨x, r, -, hr, -⟩ := id ha
  rw [State.send_admits ha hr hk, storedBits_of_ne (hty r hr)]
  exact State.answer_mem (State.forwardWrite_mem ho) ..

/-- A swap's line is set, and its message sent where there is a link. -/
theorem State.startSwap_starts (s : State) (p : Page) : (s.startSwap p).twin.swap = some (p.first, p.id) ∧
    (s.startSwap p).reg Obj.twSwapLine = p.first ∧ s.regsBut (s.startSwap p) [Obj.twSwapLine] ∧ (s.startSwap p).role = s.role ∧
    (s.strapped ≠ .solo → s.twinUp = true → s.twin.frame 0x08 (le 4 p.first ++ le 4 p.id) ∈ (s.startSwap p).out) := by
  unfold State.startSwap
  extract_lets _ s1
  have noted : s1.reg Obj.twSwapLine = p.first ∧ s.regsBut s1 [Obj.twSwapLine] :=
    ⟨State.reg_setReg_same .., State.setReg_regsBut { s with twin := { s.twin with swap := some (p.first, p.id) } } _ _⟩
  have frame := s1.twinSend_only 0x08 (le 4 p.first ++ le 4 p.id)
  refine ⟨congrArg Twin.swap (frame.agree .twin (by decide)), (frame.reg (by decide) _).trans noted.1,
    fun k hk => (frame.reg (by decide) k).trans (noted.2 k hk),
    frame.agree .role (by decide), fun twins up => ?_⟩
  rw [State.twinSend, if_pos ⟨twins, up⟩]
  exact .head _

theorem swapRequest_starts {s : State} {h : Hdr} {p : Page} (ha : s.admits h Obj.swapRequest 1) (page : s.swapPage = some p) :
    Completes (.swapRequest h 1) s (fun t => t.twin.swap = some (p.first, p.id) ∧ t.reg Obj.twSwapLine = p.first ∧ t.role = s.role ∧
      s.regsBut t [Obj.twSwapLine] ∧
      (s.strapped ≠ .solo → s.twinUp = true → s.twin.frame 0x08 (le 4 p.first ++ le 4 p.id) ∈ t.out)) := by
  have plain := findObj_ty_ne (key := Obj.swapRequest) (by decide +kernel)
  have starts : (s.sawPacket h).writeEffect Obj.swapRequest 1 = (s.sawPacket h).startSwap p := by
    rw [State.writeEffect_swapRequest, State.requestSwap, if_pos rfl, show (s.sawPacket h).swapPage = some p from page]
  have effect := State.send_effect_raw ha (by decide) plain
  have sent := @State.send_mem s h _ _ ha (by decide) plain
  rw [starts] at effect
  simp only [starts] at sent
  obtain ⟨swap, line, regs, role, told⟩ := (s.sawPacket h).startSwap_starts p
  refine ⟨_, rfl, (congrArg Twin.swap (effect.agree .twin (by decide))).trans swap, (effect.reg (by decide) _).trans line,
    (effect.agree .role (by decide)).trans role, fun k hk => (effect.reg (by decide) k).trans (regs k hk),
    fun twins up => sent (told twins up)⟩

theorem swapRequest_zero {s : State} {h : Hdr} (ha : s.admits h Obj.swapRequest 0) :
    Completes (.swapRequest h 0) s (fun t => t.twin = s.twin ∧ t.regs = s.regs) := by
  have effect := State.send_effect_raw ha (by decide) (findObj_ty_ne (by decide +kernel))
  exact ⟨_, rfl, effect.agree .twin (by decide), effect.agree .regs (by decide)⟩

/-! ### COMMIT of a camera context (13 R314) -/

theorem State.writeEffect_camCommit (s : State) (c : Fin 8) (v : Nat) :
    s.writeEffect (Obj.camCommit c) v = if v = 1 then s.commitCam c else s :=
  match c with
  | 0 | 1 | 2 | 3 | 4 | 5 | 6 | 7 => rfl

theorem camCommit_plain (c : Fin 8) : Obj.camCommit c ≠ Obj.fusePadProgram ∧
    (findObj (Obj.camCommit c)).toOption.all (fun r => decide (r.ty ≠ .bf24)) = true := by
  revert c
  decide +kernel

theorem cameraCommit_takes {s : State} {h : Hdr} {c : Fin 8} (ha : s.admits h (Obj.camCommit c) 1) :
    Completes (.cameraCommit h c 1) s (fun t => (Table.get {} t.lantern.committed c).set = s.shadow c ∧
      (Table.get {} t.lantern.committed c).gen = (s.reg (Obj.generation c) + 1) % 2 ^ 32 ∧
      t.reg (Obj.generation c) = (s.reg (Obj.generation c) + 1) % 2 ^ 32 ∧ s.regsBut t [Obj.generation c]) := by
  obtain ⟨free, plain⟩ := camCommit_plain c
  have effect := State.send_effect_raw ha free (findObj_ty_ne plain)
  rw [State.writeEffect_camCommit, if_pos rfl] at effect
  have committed : Table.get {} (s.send h (Obj.camCommit c) 1).lantern.committed c = _ :=
    (congrArg (fun l : Lantern => Table.get ({} : Commit) l.committed c) (effect.agree .lantern (by decide))).trans (Table.get_put_same ..)
  refine ⟨_, rfl, by rw [committed]; rfl, by rw [committed]; rfl, (effect.reg (by decide) _).trans (State.reg_setReg_same ..),
    fun k hk => (effect.reg (by decide) k).trans ?_⟩
  exact State.reg_setReg_other _ _ (by simpa using hk)

theorem cameraCommit_zero {s : State} {h : Hdr} {c : Fin 8} (ha : s.admits h (Obj.camCommit c) 0) :
    Completes (.cameraCommit h c 0) s (fun t => t.lantern = s.lantern ∧ t.regs = s.regs) := by
  obtain ⟨free, plain⟩ := camCommit_plain c
  have effect := State.send_effect_raw ha free (findObj_ty_ne plain)
  rw [State.writeEffect_camCommit, if_neg (by decide)] at effect
  exact ⟨_, rfl, effect.agree .lantern (by decide), effect.agree .regs (by decide)⟩

/-! ### TAP_SELECT (13 R321) -/

theorem State.writeEffect_tapSelect (s : State) (v : Nat) : s.writeEffect Obj.tapSelect v = s.selectTap v := rfl

theorem tapSelect_takes {s : State} {h : Hdr} {v : Nat} (ha : s.admits h Obj.tapSelect v) :
    Completes (.tapSelect h v) s (fun t => t.reg Obj.tapSelect = v ∧ t.lantern.nextTap =
      if v.testBit 8 then some { tap := bits v 1 0, ctx := bits v 4 2, left := s.reg Obj.tapFrames, active := false } else none) := by
  have effect := State.send_effect_raw ha (by decide) (findObj_ty_ne (by decide +kernel))
  rw [State.writeEffect_tapSelect] at effect
  have stopped (k : Nat) : (((s.sawPacket h).setReg Obj.tapSelect v).stopTap).reg k = ((s.sawPacket h).setReg Obj.tapSelect v).reg k :=
    (State.stopTap_only _).reg (by decide) k
  have frames : (((s.sawPacket h).setReg Obj.tapSelect v).stopTap).reg Obj.tapFrames = s.reg Obj.tapFrames :=
    (stopped _).trans ((s.sawPacket h).reg_setReg_other v (by decide))
  refine ⟨_, rfl, (effect.reg (by decide) _).trans ((stopped _).trans (State.reg_setReg_same ..)), ?_⟩
  rw [effect.agree .lantern (by decide), ← frames]
  rfl

/-! ### MAINT_START (10 R250) -/

theorem State.writeEffect_maintStart (s : State) (v : Nat) : s.writeEffect Obj.maintStart v = s.startMaint v := rfl

/-- A value that passes every check meets no conflict (02 R50). -/
theorem State.admits.unopposed {s : State} {h : Hdr} {key v : Nat} {r : Dict.ObjRow} (ha : s.admits h key v) (hr : findObj key = .ok r) :
    (s.sawPacket h).writeConflict r key (storedBits r.ty v) = false := by
  obtain ⟨x, r', -, hr', hv, hf⟩ := ha
  obtain rfl : r = r' := Except.ok.inj (hr.symm.trans hr')
  simpa [fromLe_le, Nat.mod_eq_of_lt hv] using
    firstFail_none hf (_, ⟨Abort.conflict, true⟩) (.tail _ (.tail _ (.tail _ (.head _))))

theorem findObj_maintStart : ∃ r, findObj Obj.maintStart = .ok r ∧ r.modes = 8 := ⟨_, rfl, rfl⟩

/-- It is accepted in TRIM alone, with no pattern asked for (02 R43). -/
theorem State.admits.maintStart {s : State} {h : Hdr} {v : Nat} (ha : s.admits h Obj.maintStart v) : s.mode = .trim ∧ s.taper.maint = none := by
  obtain ⟨r, hr, modes⟩ := findObj_maintStart
  have free := ha.unopposed hr
  simp only [State.writeConflict, Bool.or_eq_false_iff, modes] at free
  obtain ⟨⟨mode, -⟩, idle⟩ := free
  have trimOnly (m : Mode) (writable : (!Nat.testBit 8 m.code) = false) : m = .trim := by
    revert writable
    cases m <;> decide
  change s.taper.maint.isSome = false at idle
  exact ⟨trimOnly _ mode, by simpa using idle⟩

/-- The state that asks for a pattern of `v / 256` lines of stream `v % 256`. -/
def State.asking (s : State) (v : Nat) : State :=
  { s with taper := { s.taper with maint := some { stream := v % 256, left := v / 256, running := false } } }

theorem State.asking_notLit (s : State) {v : Nat} (trim : s.mode = .trim) : (s.asking v).mode ≠ .lit := by
  simp [State.asking, trim]

/-- A deferred request waits in the queue (18 R394). -/
def State.enqueue (s : State) (r : WickReq) : State :=
  let w : WickWait := { id := s.wick.nextId, req := r }
  ({ s with wick := { s.wick with queue := s.wick.queue ++ [w], nextId := s.wick.nextId + 1 } }).noteQueued

/-- What it asks of the Wick (log entry 17). -/
def maintReq (v : Nat) : WickReq :=
  { who := .maintPattern, core := none, head := some (maintEnergy * (v / 256)), mach := some (maintEnergy * (v / 256)), peak := maintEnergy }

/-- The Wick can never give it: it is held in reset, or a pool cannot hold the whole, or give one line (18 R388, R395). -/
def State.neverGives (s : State) (v : Nat) : Prop :=
  s.blockUp Block.wick = false ∨ ∃ p, (p = 1 ∨ p = 2) ∧
    (s.poolCap p < (maintEnergy * (v / 256) : Nat) ∨ 1000000 * s.reg (Obj.peak p) < maintEnergy)

theorem State.startMaint_asks {s : State} {v : Nat} (idle : s.taper.maint = none) (role : s.role ≠ .mate) :
    s.startMaint v = (s.asking v).request (maintReq v) := by
  have still : s.patternRuns = false := by
    unfold State.patternRuns
    rw [idle]
    rfl
  exact if_neg (by simp [role, still])

section
variable {s t : State} {r : WickReq} (calm : s.mode ≠ .lit)
include calm

/-- Outside LIT no line is decided first (06 R34). -/
theorem State.linesFirst_idle : s.linesFirst = s := if_neg fun lit => calm lit.1

theorem State.request_granted (h : s.ask r = (.granted, t)) : s.request r = t.onGrant r.who := by
  rw [State.request, State.linesFirst_idle calm, h]

theorem State.request_deferred (h : s.ask r = (.deferred, t)) : s.request r = t := by
  rw [State.request, State.linesFirst_idle calm, h]

theorem State.request_refused (h : s.ask r = (.refused, t)) : s.request r = t.onRefusal r.who := by
  rw [State.request, State.linesFirst_idle calm, h]

end

/-- The pools of the request, as `State.ask` tests them. -/
theorem State.exceeds_iff (s : State) (v : Nat) : ((maintReq v).pools.any (fun x => decide (s.poolCap x.1 < x.2) ||
      decide (1000000 * s.reg (Obj.peak x.1) < reqPeak (maintReq v) x.2)) = true) ↔
    ∃ p, (p = 1 ∨ p = 2) ∧ (s.poolCap p < (maintEnergy * (v / 256) : Nat) ∨ 1000000 * s.reg (Obj.peak p) < maintEnergy) := by
  simp [maintReq, WickReq.pools, reqPeak]

/-- In TRIM the Wick answers for both pools (18 R396): what it answers. -/
theorem State.ask_trim {s : State} (v : Nat) (trim : s.mode = .trim) : s.ask (maintReq v) =
    if s.blockUp Block.wick = false then (.refused, s)
    else if (maintReq v).pools.any (fun x => decide (s.poolCap x.1 < x.2) || decide (1000000 * s.reg (Obj.peak x.1) < reqPeak (maintReq v) x.2))
      then (.refused, s.refuseLeave (maintReq v))
    else if s.coverable (maintReq v) s.wick.nextId then (.granted, s.giveLeave (maintReq v))
    else (.deferred, (s.countPools Obj.defers (maintReq v).pools).enqueue (maintReq v)) := by
  have shut : (maintReq v).pools.any (fun x => !s.poolOpen x.1) = false := by simp [maintReq, WickReq.pools, State.poolOpen, trim]
  have who : (maintReq v).who ≠ .dramSet0 := by simp [maintReq]
  unfold State.ask
  rw [if_neg who]
  have waits : (maintReq v).who.waits = true := rfl
  simp only [trim, shut, waits, Bool.false_eq_true, false_or, reduceCtorEq, if_true]
  rfl

theorem State.ask_refused {s : State} {v : Nat} (trim : s.mode = .trim) (never : s.neverGives v) :
    ∃ t, s.ask (maintReq v) = (.refused, t) ∧ Only [.regs, .flagged] s t := by
  rw [s.ask_trim v trim]
  by_cases held : s.blockUp Block.wick = false
  · exact ⟨_, if_pos held, .refl⟩
  · rw [if_neg held, if_pos ((s.exceeds_iff v).mpr (never.resolve_left held))]
    exact ⟨_, rfl, s.refuseLeave_only _⟩

section
variable {s : State} {v : Nat} (trim : s.mode = .trim) (can : ¬ s.neverGives v)
include trim can

theorem State.ask_can : s.ask (maintReq v) = if s.coverable (maintReq v) s.wick.nextId then (.granted, s.giveLeave (maintReq v))
    else (.deferred, (s.countPools Obj.defers (maintReq v).pools).enqueue (maintReq v)) := by
  obtain ⟨up, fits⟩ := not_or.mp can
  rw [s.ask_trim v trim, if_neg up, if_neg (fits ∘ (s.exceeds_iff v).mp)]

theorem State.ask_granted (covers : s.coverable (maintReq v) s.wick.nextId = true) :
    s.ask (maintReq v) = (.granted, s.giveLeave (maintReq v)) := (State.ask_can trim can).trans (if_pos covers)

theorem State.ask_deferred (covers : s.coverable (maintReq v) s.wick.nextId = false) :
    ∃ t, s.ask (maintReq v) = (.deferred, t) ∧ Only [.regs, .wick] s t := by
  refine ⟨_, (State.ask_can trim can).trans (if_neg (by simp [covers])), ?_⟩
  exact (State.noteQueued_only _).step (by decide) (.with_wick (d := [.regs, .wick]) (by decide) ((State.countPools_only ..).mono (by decide)))

end

theorem State.giveLeave_sameReset (s : State) (r : WickReq) : SameReset s (s.giveLeave r) := by
  have charged (l : List (Nat × Nat)) (t : State) : SameReset t (t.chargeAll l) := by
    induction l generalizing t with
    | nil => exact .refl
    | cons x l ih => exact (ih _).step (t.setLevel_sameReset ..)
  have counted (l : List (Nat × Nat)) (t : State) : SameReset t (t.countPools Obj.grants l) := by
    induction l generalizing t with
    | nil => exact .refl
    | cons x l ih => exact (ih _).step (t.bump_sameReset (by unfold Obj.grants; omega))
  exact SameReset.step (t := (s.chargeAll r.pools).countPools Obj.grants r.pools) (.of_regs rfl) ((counted _ _).step (charged _ _))

/-- A pattern with a line left is not over once FIRE_RESET has gone out. -/
theorem State.fireReset_goesOn {s : State} {m : Maint} (has : s.taper.maint = some m) (lines : m.left ≠ 0) :
    Only [.heads, .out] s s.fireReset.maintOver := by
  have frame := s.fireReset_only
  have goesOn : s.fireReset.maintOver = s.fireReset := by
    unfold State.maintOver
    rw [(congrArg Taper.maint (frame.agree .taper (by decide))).trans has]
    exact if_neg (by simp [lines])
  rwa [goesOn]

/-- A pattern that has leave begins where TAPER is out of reset, with BAR_FIRE_EN high. -/
theorem State.beginMaint_runs {s : State} {m : Maint} (waits : s.taper.maint = some m) (still : m.running = false) (trim : s.mode = .trim)
    (up : s.blockUp Block.taper = true) (lines : m.left ≠ 0) :
    s.beginMaint.taper.maint = some { m with running := true } ∧ s.beginMaint.pins.fireEn = .high := by
  let u : State := { s with taper := { s.taper with maint := some { m with running := true } }, pins := { s.pins with fireEn := .high } }
  have begins : s.beginMaint = u.fireReset.maintOver := by
    unfold State.beginMaint
    rw [waits]
    exact (if_neg (by simp [still, trim])).trans (if_neg (by simp [up]))
  have frame : Only [.heads, .out] u s.beginMaint := begins ▸ State.fireReset_goesOn rfl lines
  exact ⟨congrArg Taper.maint (frame.agree .taper (by decide)), congrArg Pins.fireEn (frame.agree .pins (by decide))⟩

section
variable {s : State} {v : Nat} (trim : s.mode = .trim) (idle : s.taper.maint = none) (role : s.role ≠ .mate)
include trim idle role

/-- Refused, there is no pattern. -/
theorem State.startMaint_refused (never : s.neverGives v) : (s.startMaint v).taper.maint = none ∧ (s.startMaint v).pins = s.pins := by
  obtain ⟨t, refused, frame⟩ := State.ask_refused (s := s.asking v) trim never
  have pending : t.taper.maint = some { stream := v % 256, left := v / 256, running := false } :=
    congrArg Taper.maint (frame.agree .taper (by decide))
  have dropped : t.onRefusal (maintReq v).who = { t with taper := { t.taper with maint := none } } := by
    simp [State.onRefusal, maintReq, pending]
  rw [State.startMaint_asks idle role, State.request_refused (s.asking_notLit trim) refused, dropped]
  exact ⟨rfl, frame.agree .pins (by decide)⟩

/-- Granted with TAPER out of reset, it runs. -/
theorem State.startMaint_runs (can : ¬ s.neverGives v) (covers : s.coverable (maintReq v) s.wick.nextId = true) (lines : 1 ≤ v / 256)
    (up : s.blockUp Block.taper = true) : (s.startMaint v).taper.maint = some { stream := v % 256, left := v / 256, running := true } ∧
      (s.startMaint v).pins.fireEn = .high := by
  have granted := State.ask_granted (s := s.asking v) trim can covers
  have frame := (s.asking v).giveLeave_only (maintReq v)
  have released := ((s.asking v).giveLeave_sameReset (maintReq v)).blockUp Block.taper
  generalize (s.asking v).giveLeave (maintReq v) = t at granted frame released
  have pending : t.taper.maint = some { stream := v % 256, left := v / 256, running := false } :=
    congrArg Taper.maint (frame.agree .taper (by decide))
  have begins : t.onGrant (maintReq v).who = (t.useLeave .maintPattern).beginMaint := by
    simp [State.onGrant, maintReq, pending]
  rw [State.startMaint_asks idle role, State.request_granted (s.asking_notLit trim) granted, begins]
  exact State.beginMaint_runs (s := t.useLeave .maintPattern) pending rfl ((frame.agree .mode (by decide)).trans trim)
    (released.trans up) (Nat.one_le_iff_ne_zero.mp lines)

/-- Deferred, it waits. -/
theorem State.startMaint_waits (can : ¬ s.neverGives v) (covers : s.coverable (maintReq v) s.wick.nextId = false) :
    (s.startMaint v).taper.maint = some { stream := v % 256, left := v / 256, running := false } ∧ (s.startMaint v).pins = s.pins := by
  obtain ⟨t, deferred, frame⟩ := State.ask_deferred (s := s.asking v) trim can covers
  rw [State.startMaint_asks idle role, State.request_deferred (s.asking_notLit trim) deferred]
  exact ⟨congrArg Taper.maint (frame.agree .taper (by decide)), frame.agree .pins (by decide)⟩

end

theorem maintStart_mate {s : State} {h : Hdr} {v : Nat} (ha : s.admits h Obj.maintStart v) (mate : s.role = .mate) :
    Completes (.maintStart h v) s (fun t => t.taper = s.taper ∧ t.regs = s.regs) := by
  have effect := State.send_effect_raw ha (by decide) (findObj_ty_ne (by decide +kernel))
  have stays : (s.sawPacket h).startMaint v = s.sawPacket h := if_pos (.inl mate)
  rw [State.writeEffect_maintStart, stays] at effect
  exact ⟨_, rfl, effect.agree .taper (by decide), effect.agree .regs (by decide)⟩

theorem maintStart_asks {s : State} {h : Hdr} {v : Nat} (ha : s.admits h Obj.maintStart v) (role : s.role ≠ .mate) :
    Completes (.maintStart h v) s (fun t => t.mode = s.mode ∧
      (s.neverGives v → t.taper.maint = none ∧ t.pins = s.pins) ∧
      (¬ s.neverGives v → s.coverable (maintReq v) s.wick.nextId = true → 1 ≤ v / 256 → s.blockUp Block.taper = true →
        t.taper.maint = some { stream := v % 256, left := v / 256, running := true } ∧ t.pins.fireEn = .high) ∧
      (¬ s.neverGives v → s.coverable (maintReq v) s.wick.nextId = false →
        t.taper.maint = some { stream := v % 256, left := v / 256, running := false } ∧ t.pins = s.pins)) := by
  obtain ⟨trim, idle⟩ := ha.maintStart
  have effect := State.send_effect_raw ha (by decide) (findObj_ty_ne (by decide +kernel))
  rw [State.writeEffect_maintStart] at effect
  have mode := (effect.agree .mode (by decide)).trans (((s.sawPacket h).startMaint_only v).agree .mode (by decide))
  have taper := effect.agree .taper (by decide)
  have pins := effect.agree .pins (by decide)
  simp only [State.agree] at taper pins
  refine ⟨_, rfl, mode, ?_⟩
  rw [taper, pins]
  exact ⟨State.startMaint_refused (s := s.sawPacket h) trim idle role, State.startMaint_runs (s := s.sawPacket h) trim idle role,
    State.startMaint_waits (s := s.sawPacket h) trim idle role⟩

/-- Settles O27: an accepted write is its effect (05 R106), and a lemma says what each effect is. -/
theorem firingPathWrites : Obligations.FiringPathWrites := fun _ _ _ =>
  ⟨fun _ => encoderEnable_takes, maintStart_asks, maintStart_mate, fun _ => swapRequest_starts, swapRequest_zero, fun _ => cameraCommit_takes,
    fun _ => cameraCommit_zero, tapSelect_takes⟩

end Sys2Proof.Machine
end

section
/-! SUPPORT. O11 (10 R245, 22 R469): the lengths of the skip ledger and the Yilloger. -/

namespace Sys2Proof.Machine

/-- Whatever keeps the lengths of the two logs apart keeps them bounded. -/
theorem Keeps.logsBounded {s t : State} (h : Keeps s t) (bounded : s.logsBounded = true) : t.logsBounded = true := by
  simp only [State.logsBounded, Bool.and_eq_true, decide_eq_true_eq] at bounded ⊢
  obtain ⟨ledger, log⟩ := bounded
  exact ⟨h.ledger ledger, h.log log⟩

/-- Settles O11: what every step keeps (`step_keeps`), command by command (`exec_keeps`), has the length of each log among it. -/
theorem logsStayBounded : Obligations.LogsStayBounded :=
  fun s t bounded ht => ((step_keeps s).keeps t ht).logsBounded bounded

end Sys2Proof.Machine
end

section
/-! SUPPORT. O41 (10 R228 to R236, R245): what the books of a line leave of the firing. -/

namespace Sys2Proof.Machine

/-! ### What the books of a line leave -/

/-- A strobe group without what the books of lines write in it: its count of skipped lines and the events raised for them. -/
def Group.firing (x : Group) : Group := { x with skips := 0, burst := false, leadLow := none }

/-- A strobe group is part of the Taper. -/
theorem State.group_congr {s t : State} (h : t.taper = s.taper) (g : Nat) : t.group g = s.group g := by
  unfold State.group
  rw [h]

/-- Beacon time is read from the clock. -/
theorem State.now_congr {s t : State} (h : t.clock = s.clock) : t.now = s.now := by
  unfold State.now
  rw [h]

/-- What entering a line in the books leaves of the firing: whether the Taper primes, the newest confirmed line, the mode change that waits
for its line, and the edges and the confirmed line of each group. -/
structure SameFiring (s t : State) : Prop where
  priming : t.taper.priming = s.taper.priming
  newest : t.taper.newest = s.taper.newest
  modeAt : t.twin.modeAt = s.twin.modeAt
  groups : ∀ g, (t.group g).firing = (s.group g).firing

namespace SameFiring

theorem refl {s : State} : SameFiring s s := ⟨rfl, rfl, rfl, fun _ => rfl⟩

/-- One operation more. -/
theorem step {s t u : State} (h : SameFiring t u) (k : SameFiring s t) : SameFiring s u :=
  ⟨h.priming.trans k.priming, h.newest.trans k.newest, h.modeAt.trans k.modeAt, fun g => (h.groups g).trans (k.groups g)⟩

theorem ite {c : Prop} [Decidable c] {s t u : State} (h : c → SameFiring s t) (k : ¬c → SameFiring s u) :
    SameFiring s (if c then t else u) := by
  by_cases x : c
  · rw [if_pos x]
    exact h x
  · rw [if_neg x]
    exact k x

theorem foldl {α : Type} {s u : State} {f : State → α → State} {l : List α} (hf : ∀ t x, SameFiring t (f t x)) (k : SameFiring s u) :
    SameFiring s (l.foldl f u) := by
  induction l generalizing u with
  | nil => exact k
  | cons x l ih => exact ih ((hf u x).step k)

variable {s t : State}

theorem conf (h : SameFiring s t) (g : Nat) : (t.group g).conf = (s.group g).conf :=
  show (t.group g).firing.conf = (s.group g).firing.conf from congrArg Group.conf (h.groups g)

theorem lastEdge (h : SameFiring s t) (g : Nat) : (t.group g).lastEdge = (s.group g).lastEdge :=
  show (t.group g).firing.lastEdge = (s.group g).firing.lastEdge from congrArg Group.lastEdge (h.groups g)

theorem pulse (h : SameFiring s t) (g : Nat) : (t.group g).pulse = (s.group g).pulse :=
  show (t.group g).firing.pulse = (s.group g).firing.pulse from congrArg Group.pulse (h.groups g)

end SameFiring

/-- An operation on decoding leaves the Taper, and of the twin link's part all but a join's images. -/
theorem ImagesOnly.sameFiring {s t : State} (h : ImagesOnly s t) (same : t.taper = s.taper) : SameFiring s t := by
  obtain ⟨l, twin⟩ := h.images
  have modeAt : t.twin.modeAt = s.twin.modeAt := congrArg Twin.modeAt (a₂ := s.twin.withImages l) twin
  exact ⟨congrArg Taper.priming same, congrArg Taper.newest same, modeAt,
    fun g => congrArg Group.firing (State.group_congr same g)⟩

/-- An operation that touches neither the Taper nor the twin link. -/
theorem Only.sameFiring {d : List Fld} {s t : State} (h : Only d s t) (ht : Fld.taper ∉ d := by decide)
    (hw : Fld.twin ∉ d := by decide) : SameFiring s t := (h.imagesOnly hw).sameFiring (h.agree .taper ht)

/-- A group is written by the books alone. -/
theorem State.setGroup_sameFiring (s : State) (g : Nat) (x : Group) (hx : x.firing = (s.group g).firing := by rfl) :
    SameFiring s (s.setGroup g x) := by
  refine ⟨rfl, rfl, rfl, fun j => ?_⟩
  by_cases h : j = g
  · subst h
    rw [s.group_setGroup_same]
    exact hx
  · rw [s.group_setGroup_other x h]

theorem State.report_sameFiring (s : State) (kind index : Nat) (body : List Byte) : SameFiring s (s.report kind index body) :=
  .ite (fun _ => .ite (fun _ => ⟨rfl, rfl, rfl, fun _ => rfl⟩) (fun _ => .refl)) (fun _ => ⟨rfl, rfl, rfl, fun _ => rfl⟩)

theorem State.refundLine_sameFiring (s : State) (g n : Nat) : SameFiring s (s.refundLine g n) := by
  unfold State.refundLine
  split
  · exact .refl
  · exact (State.refundPool_only ..).sameFiring.step ⟨rfl, rfl, rfl, fun _ => rfl⟩

theorem State.burst_sameFiring (s : State) (g cause seq : Nat) : SameFiring s (s.burst g cause seq) := by
  unfold State.burst
  extract_lets grp n reached s1 s2
  have h1 : SameFiring s s1 := s.setGroup_sameFiring g _
  have h2 : SameFiring s s2 := .ite (fun _ => (State.setCause_only ..).sameFiring.step h1) (fun _ => h1)
  exact .ite (fun _ => .refl) (fun _ => .ite (fun _ => (State.logEvent_only ..).sameFiring.step h2) (fun _ => h1))

theorem State.ledgerEntry_sameFiring (s : State) (e : Entry) (total : Option Nat) : SameFiring s (s.ledgerEntry e total) := by
  unfold State.ledgerEntry
  extract_lets t s1 s2 s3
  have h1 : SameFiring s s1 := .ite (fun _ => (State.bump_only ..).sameFiring) (fun _ => .refl)
  exact (State.report_sameFiring ..).step (SameFiring.step (t := s1) ⟨rfl, rfl, rfl, fun _ => rfl⟩ h1)

theorem State.skipBooks_sameFiring (s : State) (x : LineSt) (total : Option Nat) : SameFiring s (s.skipBooks x total) := by
  unfold State.skipBooks
  extract_lets strips s1 s2 s3 s4 s5 s6
  have h2 : SameFiring s s2 := (State.bumpEach_only ..).sameFiring.step (State.ledgerEntry_sameFiring ..)
  have h3 : SameFiring s s3 := .ite (fun _ => (State.bump_only ..).sameFiring.step h2) (fun _ => h2)
  have h4 : SameFiring s s4 :=
    .ite (fun _ => (State.setBits_only ..).sameFiring.step ((State.bump_only ..).sameFiring.step h3)) (fun _ => h3)
  exact (State.burst_sameFiring ..).step ((State.slotState_only ..).sameFiring.step ((State.refundLine_sameFiring ..).step h4))

theorem State.fireBooks_sameFiring (s : State) (x : LineSt) : SameFiring s (s.fireBooks x) := by
  unfold State.fireBooks
  extract_lets strips s1 s2 _ s3
  have h2 : SameFiring s s2 := (State.slotState_only ..).sameFiring.step (State.stripsFired_only ..).sameFiring
  have h3 : SameFiring s s3 := (s2.setGroup_sameFiring x.group _).step h2
  exact SameFiring.step (t := s3) ⟨rfl, rfl, rfl, fun _ => rfl⟩ h3

theorem State.logPrinted_sameFiring (s : State) (g : Option Nat) (detail : List Byte) : SameFiring s (s.logPrinted g detail) := by
  unfold State.logPrinted
  split
  · exact .ite (fun _ => ⟨rfl, rfl, rfl, fun _ => rfl⟩) (fun _ => (State.logEvent_only ..).sameFiring)
  · exact (State.logEvent_only ..).sameFiring

theorem State.closeEach_sameFiring (s : State) (g : Option Nat) (time : Nat) (l : List Page) : SameFiring s (s.closeEach g time l) := by
  induction l generalizing s with
  | nil => exact .refl
  | cons p l ih =>
    unfold State.closeEach
    extract_lets _ s1 s2 s3 s4
    have h3 : SameFiring s s3 := (State.report_sameFiring ..).step ((s1.logPrinted_sameFiring ..).step ⟨rfl, rfl, rfl, fun _ => rfl⟩)
    have h4 : SameFiring s s4 := .ite (fun _ => (State.setCause_only ..).sameFiring.step h3) (fun _ => h3)
    exact (ih s4).step h4

theorem State.settle_sameFiring (s : State) (x : LineSt) (lateArm : Bool) (total : Option Nat) :
    SameFiring s (s.settle x lateArm total) := by
  unfold State.settle
  extract_lets s1 s2 s3
  have h1 : SameFiring s s1 := (State.confirmBooks_only ..).sameFiring
  have h2 : SameFiring s s2 := .ite (fun _ => (s1.fireBooks_sameFiring x).step h1) (fun _ => (s1.skipBooks_sameFiring x total).step h1)
  have h3 : SameFiring s s3 := (State.pageCount_only ..).sameFiring.step h2
  exact (State.closeEach_sameFiring ..).step ((State.freeAll_only _).sameFiring.step h3)

theorem State.passLine_sameFiring (s : State) (x : LineSt) (lateArm : Bool) (own : Own) : SameFiring s (s.passLine x lateArm own) := by
  have held : SameFiring s (s.holdOwn own) := .ite (fun _ => ⟨rfl, rfl, rfl, fun _ => rfl⟩) (fun _ => ⟨rfl, rfl, rfl, fun _ => rfl⟩)
  unfold State.passLine
  refine .ite (fun _ => held) (fun _ => ?_)
  split
  · exact held
  · extract_lets s1
    have h1 : SameFiring s s1 := State.settle_sameFiring ..
    exact .ite (fun _ => SameFiring.step (t := s1) ⟨rfl, rfl, rfl, fun _ => rfl⟩ h1) (fun _ => h1)

theorem State.noteLead_sameFiring (s : State) (raise : Bool) (g : Nat) : SameFiring s (s.noteLead raise g) := by
  unfold State.noteLead
  extract_lets old new mark n s1
  have h1 : SameFiring s s1 := (s.setReg_only ..).sameFiring
  exact .ite (fun _ => (State.logEvent_only ..).sameFiring.step ((s1.setGroup_sameFiring g _).step h1)) (fun _ => h1)

/-! ### A line that arms and is not confirmed -/

theorem State.ckptAll_sameFiring (s : State) (n : Nat) (l : List Nat) : SameFiring s (s.ckptAll n l) :=
  (s.ckptAll_images n l).sameFiring ((s.ckptAll_only n l).agree .taper (by decide))

theorem State.passStrips_sameFiring (s : State) (g n : Nat) : SameFiring s (s.passStrips g n) :=
  (State.addJobs_only ..).sameFiring.step (s.ckptAll_sameFiring ..)

/-- A line that arms and is not confirmed gives up its slots, and passes as a skipped one. -/
theorem State.skipLine_passes (s : State) (g n cause strip : Nat) : ∃ u page x own, Only [.regs, .slots, .freeCtr] s u ∧ x.outcome = 1 ∧
    x.entry = { seq := n, page := page, group := g, cause := cause, strip := strip, confirmed := false, time := s.now } ∧
    s.skipLine g n cause strip = u.passLine x false own := by
  have paged := s.pageIdOf_only n
  unfold State.skipLine
  generalize s.pageIdOf n = p at paged
  obtain ⟨page, u⟩ := p
  have now : u.now = s.now := State.now_congr (paged.agree .clock (by decide))
  refine ⟨u.slotState n .skipped (u.liveStrips g), page, _, _, ?_, rfl, ?_, rfl⟩
  · exact (State.slotState_only ..).step (by decide) (paged.mono (by decide))
  · simp only [LineSt.entry, Nat.zero_testBit, now]

theorem State.skipLine_sameFiring (s : State) (g n cause strip : Nat) : SameFiring s (s.skipLine g n cause strip) := by
  obtain ⟨u, page, x, own, frame, -, -, passes⟩ := s.skipLine_passes g n cause strip
  rw [passes]
  exact (State.passLine_sameFiring ..).step frame.sameFiring

theorem State.refuseLine_sameFiring (s : State) (g n cause strip : Nat) : SameFiring s (s.refuseLine g n cause strip) :=
  (State.passStrips_sameFiring ..).step ((State.skipLine_sameFiring ..).step (State.setReg_only ..).sameFiring)

theorem State.lagGroups_sameFiring (s : State) (l : List Nat) : SameFiring s (s.lagGroups l) := by
  induction l generalizing s with
  | nil => exact .refl
  | cons g l ih =>
    exact (ih _).step ((State.noteLead_sameFiring ..).step (.foldl (fun t _ => t.refuseLine_sameFiring ..) .refl))

/-- On a SOLO that has nothing over from a promotion it is entered in the skip ledger (10 R232, R245). -/
theorem State.refuseLine_ledger {s : State} (role : s.role = .solo) (swap : s.twin.swap = none) (early : s.twin.early = [])
    (g n cause strip : Nat) : ∃ page, (s.refuseLine g n cause strip).taper.ledger.head? = some
      { seq := n, page := page, group := g, cause := cause, strip := strip, confirmed := false, time := s.now } := by
  obtain ⟨u, page, x, own, frame, skipped, entry, passes⟩ :=
    State.skipLine_passes (s.setReg (Obj.nextArmSeq g) ((n + 1) % 2 ^ 32)) g n cause strip
  have twin : u.twin = s.twin := frame.agree .twin (by decide)
  refine ⟨page, ?_⟩
  unfold State.refuseLine
  rw [(State.passStrips_only ..).agree .taper (by decide), passes, State.passLine_solo ((frame.agree .role (by decide)).trans role)
    ((congrArg Twin.swap twin).trans swap) ((congrArg Twin.early twin).trans early), State.settle_ledger _ skipped, entry]
  rfl

end Sys2Proof.Machine
end

section
/-! SUPPORT. O41 (10 R228 to R236, R245): priming that ends, a line that arms, its edge and the end of its pulse, and O41 itself. -/

namespace Sys2Proof.Machine

/-! ### Priming ends (10 R228) -/

theorem armingStart_ends {s : State} (lit : s.mode = .lit) (primes : s.taper.priming = true) (runsOn : s.taper.stopping = false)
    (calm : s.hasCause = false) : Completes .armingStart s (fun t => t.mode = .lit ∧ t.taper.priming = false ∧
      t.pins.fireEn = s.pins.fireEn) := by
  let u : State := { s with taper := { s.taper with priming := false } }
  have runs : exec .armingStart s = .next (u.lagGroups u.liveGroups) := if_pos ⟨lit, primes, runsOn, calm⟩
  have frame := u.lagGroups_only u.liveGroups
  exact ⟨_, runs, (frame.agree .mode (by decide)).trans lit, (u.lagGroups_sameFiring _).priming,
    congrArg Pins.fireEn (frame.agree .pins (by decide))⟩

/-! ### A line arms (10 R230 to R237) -/

/-- The second state is the first with line `n` of a group confirmed: nothing is entered in the ledger, and no stop begins. -/
structure State.Confirms (s t : State) (g n : Nat) : Prop where
  line : (t.group g).conf.map Conf.seq = some n
  newest : t.taper.newest.isSome = true
  ledger : t.taper.ledger = s.taper.ledger
  modeAt : t.twin.modeAt = s.twin.modeAt

theorem State.Confirms.noteLead {s t : State} {g n : Nat} (h : s.Confirms t g n) (raise : Bool) : s.Confirms (t.noteLead raise g) g n := by
  have same := t.noteLead_sameFiring raise g
  exact ⟨(congrArg (Option.map Conf.seq) (same.conf g)).trans h.line, (congrArg Option.isSome same.newest).trans h.newest,
    (t.noteLead_sameBooks raise g).ledger.trans h.ledger, same.modeAt.trans h.modeAt⟩

/-- No edge of the group comes before a line's, so none holds its own back (10 R236). -/
theorem State.notBefore_first {s : State} {g : Nat} (first : (s.group g).lastEdge = none) (t : Nat) : s.notBefore g t = t := by
  unfold State.notBefore
  rw [first]

theorem moreThanQuarter_undelayed (t : Nat) (period : Nat × Nat) : moreThanQuarter (t - t) period = false := by
  simp [moreThanQuarter]

/-- A line that is confirmed is its group's confirmed line, and one has been confirmed since LIT was entered (10 R233). -/
theorem State.confirmLine_confirms (s : State) (g n : Nat) (edge : Option Nat) (late lateArm : Bool) :
    s.Confirms (s.confirmLine g n edge late lateArm) g n ∧
      ((s.confirmLine g n edge late lateArm).group g).lastEdge = (s.group g).lastEdge := by
  unfold State.confirmLine
  extract_lets strips c s1 s2 _ s3 newest _ s4 s5
  have start : Only [.regs, .out] s s2 := (State.setReg_only ..).step (by decide) ((State.sendConfirms_only ..).mono (by decide))
  have group : s4.group g = { s2.group g with conf := some c } := s2.group_setGroup_same g _
  have same : SameFiring s4 (s5.slotState n .confirmed strips) := (State.slotState_only ..).sameFiring.step
    ((State.setNewest_only ..).sameFiring.step (s4.ckptAll_sameFiring ..))
  have frame : Only [.regs, .raster, .decomp, .slots, .twin] s4 (s5.slotState n .confirmed strips) := (State.slotState_only ..).step (by decide)
    ((State.setNewest_only ..).step (by decide) ((State.ckptAll_only ..).mono (by decide)))
  have ledger : s2.taper.ledger = s.taper.ledger := congrArg Taper.ledger (start.agree .taper (by decide))
  have modeAt : s4.twin.modeAt = s.twin.modeAt := congrArg Twin.modeAt (start.agree .twin (by decide))
  refine ⟨⟨?_, ?_, ?_, same.modeAt.trans modeAt⟩, ?_⟩
  · rw [same.conf, group]
    rfl
  · rw [same.newest]
    rfl
  · rw [frame.agree .taper (by decide)]
    exact ledger
  · rw [same.lastEdge, group]
    exact start.sameFiring.lastEdge g

/-- A count-locked line stays confirmed, whether its edge is placed or not: no edge before it can delay it (10 R237, R238). -/
theorem State.Confirms.tryLocked {s t : State} {g n : Nat} (h : s.Confirms t g n) (first : (t.group g).lastEdge = none) :
    s.Confirms (t.tryLocked g) g n := by
  obtain ⟨line, newest, ledger, modeAt⟩ := h
  unfold State.tryLocked
  cases conf : (t.group g).conf with
  | none => rw [conf] at line; cases line
  | some c =>
    rw [conf] at line
    dsimp only
    rw [State.notBefore_first first, moreThanQuarter_undelayed]
    split
    · exact ⟨by rw [conf]; exact line, newest, ledger, modeAt⟩
    · exact ⟨by rw [if_neg Bool.false_ne_true, State.group_setGroup_same]; exact line, newest, ledger, modeAt⟩

theorem State.roleFor_solo {s : State} (role : s.role = .solo) (swap : s.twin.swap = none) (n : Nat) : s.roleFor n = .solo := by
  unfold State.roleFor
  rw [swap]
  exact role

/-- The state in which the next line of a group arms: the checkpoints have followed up to the line before it (07 R163). -/
def State.armPoint (s : State) (g : Nat) : State := s.ckptAll ((2 ^ 32 - 1 + s.reg (Obj.nextArmSeq g)) % 2 ^ 32) (s.liveStrips g)

theorem State.armPoint_sameFiring (s : State) (g : Nat) : SameFiring s (s.armPoint g) := s.ckptAll_sameFiring ..

theorem State.armPoint_only (s : State) (g : Nat) : Only [.regs, .raster, .decomp, .twin] s (s.armPoint g) := s.ckptAll_only ..

section
variable {s : State} (role : s.role = .solo) (swap : s.twin.swap = none) (early : s.twin.early = []) {g : Nat}
include role swap early

/-- There the chip is a SOLO as before, with nothing over from a promotion. -/
theorem State.armPoint_solo :
    (s.armPoint g).role = .solo ∧ (s.armPoint g).twin.swap = none ∧ (s.armPoint g).twin.early = [] := by
  obtain ⟨images, twin⟩ := (s.ckptAll_images ((2 ^ 32 - 1 + s.reg (Obj.nextArmSeq g)) % 2 ^ 32) (s.liveStrips g)).images
  unfold State.armPoint
  rw [twin]
  exact ⟨((s.armPoint_only g).agree .role (by decide)).trans role, swap, early⟩

theorem State.armLine_refuses {cause strip : Nat}
    (fault : (s.armPoint g).armFault g (s.reg (Obj.nextArmSeq g)) = some (cause, strip)) :
    SameFiring s (s.armLine g) ∧ ∃ page, (s.armLine g).taper.ledger.head? = some
      { seq := s.reg (Obj.nextArmSeq g), page := page, group := g, cause := cause, strip := strip, confirmed := false, time := s.now } := by
  unfold State.armLine
  extract_lets n s1 t0 t e s2
  obtain ⟨role1, swap1, early1⟩ : s1.role = .solo ∧ s1.twin.swap = none ∧ s1.twin.early = [] := State.armPoint_solo role swap early
  have fault1 : s1.armFault g n = some (cause, strip) := fault
  have same : SameFiring s s1 := s.armPoint_sameFiring g
  have now : s1.now = s.now := State.now_congr ((s.armPoint_only g).agree .clock (by decide))
  clear_value s1
  have solo := State.roleFor_solo role1 swap1 n
  have refused : s2 = s1.refuseLine g n cause strip := by
    simp only [s2]
    rw [if_neg (by simp [early1]), if_neg (by simp [solo]), fault1]
  obtain ⟨page, entered⟩ := State.refuseLine_ledger role1 swap1 early1 g n cause strip
  clear_value s2
  rw [refused]
  refine ⟨(State.noteLead_sameFiring ..).step ((s1.refuseLine_sameFiring ..).step same), page, ?_⟩
  rw [(State.noteLead_sameBooks ..).ledger, entered, now]

theorem State.armLine_confirms
    (free : (s.armPoint g).armFault g (s.reg (Obj.nextArmSeq g)) = none)
    (first : (s.group g).lastEdge = none) : s.Confirms (s.armLine g) g (s.reg (Obj.nextArmSeq g)) := by
  unfold State.armLine
  extract_lets n s1 t0 t e s2
  obtain ⟨role1, swap1, early1⟩ : s1.role = .solo ∧ s1.twin.swap = none ∧ s1.twin.early = [] := State.armPoint_solo role swap early
  have free1 : s1.armFault g n = none := free
  have same : SameFiring s s1 := s.armPoint_sameFiring g
  have ledger : s1.taper.ledger = s.taper.ledger := congrArg Taper.ledger ((s.armPoint_only g).agree .taper (by decide))
  clear_value s1
  have solo := State.roleFor_solo role1 swap1 n
  have first1 : (s1.group g).lastEdge = none := (same.lastEdge g).trans first
  have undelayed : e = t := State.notBefore_first first1 t
  have since {u : State} (h : s1.Confirms u g n) : s.Confirms u g n :=
    ⟨h.line, h.newest, h.ledger.trans ledger, h.modeAt.trans same.modeAt⟩
  have confirmed : s1.Confirms s2 g n := by
    simp only [s2]
    rw [if_neg (by simp [early1]), if_neg (by simp [solo]), free1, undelayed]
    dsimp only
    rw [moreThanQuarter_undelayed, if_neg Bool.false_ne_true]
    obtain ⟨locked, edge⟩ := s1.confirmLine_confirms g n none false false
    split
    · exact (s1.confirmLine_confirms ..).1
    · exact locked.tryLocked (edge.trans first1)
  exact (since confirmed).noteLead _

end

/-- With no stop to wait for, a line's arming ends none (12 R293). -/
theorem State.stopAtLine_idle {s : State} (modeAt : s.twin.modeAt = none) : s.stopAtLine = s := by
  unfold State.stopAtLine
  rw [modeAt]

section
variable {s : State} {g : Fin 8} (arms : s.arms g = true) (up : s.blockUp Block.taper = true) (role : s.role = .solo)
  (swap : s.twin.swap = none) (early : s.twin.early = []) (modeAt : s.twin.modeAt = none)
include arms up role swap early modeAt

theorem lineArm_confirms
    (free : (s.armPoint g).armFault g (s.reg (Obj.nextArmSeq g)) = none)
    (first : (s.group g).lastEdge = none) : Completes (.lineArm g) s (fun t => t.mode = s.mode ∧ t.taper.ledger = s.taper.ledger ∧
      t.taper.newest.isSome = true ∧ (t.group g).conf.map Conf.seq = some (s.reg (Obj.nextArmSeq g))) := by
  have runs : exec (.lineArm g) s = .next (s.armLine g).stopAtLine := if_pos (by simp [arms, up])
  have confirms := State.armLine_confirms role swap early free first
  rw [State.stopAtLine_idle (confirms.modeAt.trans modeAt)] at runs
  exact ⟨_, runs, (s.armLine_only g).agree .mode (by decide), confirms.ledger, confirms.newest, confirms.line⟩

theorem lineArm_refuses {cause strip : Nat}
    (fault : (s.armPoint g).armFault g (s.reg (Obj.nextArmSeq g)) = some (cause, strip)) :
    Completes (.lineArm g) s (fun t => t.mode = s.mode ∧ (t.group g).conf = none ∧ ∃ page, t.taper.ledger.head? = some
      { seq := s.reg (Obj.nextArmSeq g), page := page, group := g, cause := cause, strip := strip, confirmed := false, time := s.now }) := by
  have runs : exec (.lineArm g) s = .next (s.armLine g).stopAtLine := if_pos (by simp [arms, up])
  have unconfirmed : (s.group g).conf = none := by
    unfold State.arms at arms
    simp only [Bool.and_eq_true, Option.isNone_iff_eq_none] at arms
    obtain ⟨⟨⟨⟨-, conf⟩, -⟩, -⟩, -⟩ := arms
    exact conf
  obtain ⟨firing, page, entered⟩ := State.armLine_refuses role swap early fault
  rw [State.stopAtLine_idle (firing.modeAt.trans modeAt)] at runs
  exact ⟨_, runs, (s.armLine_only g).agree .mode (by decide), (firing.conf g).trans unconfirmed, page, entered⟩

end

/-! ### The edge of a confirmed line (10 R236) -/

/-- The books of a fired line leave the ledger. -/
theorem State.settle_fired_sameBooks {s : State} {x : LineSt} (fired : x.outcome = 0) (lateArm : Bool) (total : Option Nat) :
    SameBooks s (s.settle x lateArm total) := by
  unfold State.settle
  extract_lets s1 s2 s3
  have h1 : SameBooks s s1 := (State.confirmBooks_only ..).sameBooks (by decide) (by decide)
  have h2 : SameBooks s s2 := by
    simp only [s2]
    rw [if_pos fired]
    unfold State.fireBooks
    extract_lets strips u1 u2 _ u3
    have booked : SameBooks s1 u2 := ((State.slotState_only ..).sameBooks (by decide) (by decide)).step
      ((State.stripsFired_only ..).sameBooks (by decide) (by decide))
    clear_value u2
    have dropped : SameBooks u2 (u3.dropDecision x.group x.seq) := ⟨rfl, rfl, rfl⟩
    exact dropped.step (booked.step h1)
  exact (s2.closeLine_sameBooks x _).step h2

/-- The edge of an output at `rise` is driven: its group is `x` from now, its pad goes high, but where the Snuffer forces it low, and the
time of the edge reads in STROBE_TIME. -/
def State.driveEdge (s : State) (g : Nat) (x : Group) (rise : Nat) : State :=
  ((s.setGroup g x).raiseStrobe g rise).setReg (Obj.strobeTime g) (time80OfNs (rise / 1000))

section
variable (s : State) (g : Nat) (x : Group) (rise : Nat)

theorem State.driveEdge_only : Only [.regs, .pins, .taper, .out] s (s.driveEdge g x rise) :=
  (State.setReg_only ..).step (by decide) ((State.raiseStrobe_only ..).step (by decide) ((State.setGroup_only ..).mono (by decide)))

theorem State.driveEdge_taper : (s.driveEdge g x rise).taper = (s.setGroup g x).taper := (State.raiseStrobe_only ..).agree .taper (by decide)

theorem State.driveEdge_group_same : (s.driveEdge g x rise).group g = x :=
  (State.group_congr (s.driveEdge_taper g x rise) g).trans (s.group_setGroup_same g x)

theorem State.driveEdge_group_other {j : Nat} (h : j ≠ g) : (s.driveEdge g x rise).group j = s.group j :=
  (State.group_congr (s.driveEdge_taper g x rise) j).trans (s.group_setGroup_other x h)

theorem State.driveEdge_reg {k : Nat} (h : k ≠ Obj.strobeTime g) : (s.driveEdge g x rise).reg k = s.reg k :=
  (State.reg_setReg_other _ _ h).trans ((State.raiseStrobe_only ..).reg (by decide) k)

/-- A pad that the Snuffer does not force low goes high. -/
theorem State.driveEdge_high (free : x.forced = false) : g ∈ (s.driveEdge g x rise).pins.strobesHigh := by
  show g ∈ ((s.setGroup g x).raiseStrobe g rise).pins.strobesHigh
  unfold State.raiseStrobe
  rw [s.group_setGroup_same, if_neg (by simp [free])]
  exact List.mem_cons_self

theorem State.driveEdge_high_other {j : Nat} (h : j ≠ g) : j ∈ (s.driveEdge g x rise).pins.strobesHigh ↔ j ∈ s.pins.strobesHigh := by
  show j ∈ ((s.setGroup g x).raiseStrobe g rise).pins.strobesHigh ↔ _
  unfold State.raiseStrobe
  split
  · exact .rfl
  · simp [State.emit, State.setGroup, h]

variable {g} (hg : g < 8)
include hg

theorem State.driveEdge_liveModules (j : Nat) : (s.driveEdge g x rise).liveModules j = s.liveModules j := by
  refine List.filter_congr fun m _ => congrArg (fun v => decide (v = 1)) (s.driveEdge_reg g x rise ?_)
  simp only [Obj.populated, Obj.strobeTime]
  omega

theorem State.driveEdge_laneUp (m : Nat) : (s.driveEdge g x rise).laneUp m = s.laneUp m := by
  refine congrArg (fun v => decide (v = 2)) (s.driveEdge_reg g x rise ?_)
  simp only [Obj.laneState, Obj.strobeTime]
  omega

end

section
variable {s : State} {g : Nat} {c : Conf} {rise : Nat} (hg : g < 8) (role : s.role = .solo) (swap : s.twin.swap = none)
  (sure : s.doubts g c.seq = []) (lanes : ∀ m ∈ s.liveModules g, s.laneUp m = true)

/-- The group of a line whose edge rises: it has no confirmed line any more, and the Taper drives its output high. -/
def Group.fired (x : Group) (rise : Nat) : Group := { x with conf := none, lastEdge := some rise, pulse := true }

include hg role swap sure lanes

/-- A line of which no module is in doubt fires at its edge, and enters the books. -/
theorem State.strobe_fires : s.strobe g c rise = (s.driveEdge g ((s.group g).fired rise) rise).fireConf g c := by
  unfold State.strobe
  extract_lets last _ s1 s2 down s3 us _
  have placed : last = rise := if_neg (by simp [State.roleFor_solo role swap])
  have driven : s2 = s.driveEdge g ((s.group g).fired rise) rise := by
    simp only [s2, s1, placed]
    rfl
  have up : down = [] := by
    simp only [down, driven, State.driveEdge_laneUp _ _ _ hg, State.driveEdge_liveModules _ _ _ hg]
    exact List.filter_eq_nil_iff.mpr fun m hm => by simp [lanes m hm]
  have same : s3 = s2 := by
    simp only [s3, up]
    rfl
  rw [same, driven]
  refine if_pos ?_
  unfold State.doubts
  rw [State.driveEdge_taper]
  exact sure

end

theorem strobeEdge_fires {s : State} {g : Fin 8} {c : Conf} {rise : Nat} (conf : (s.group g).conf = some c) (rises : c.rises = some rise)
    (role : s.role = .solo) (swap : s.twin.swap = none) (early : s.twin.early = [])
    (sure : s.doubts g c.seq = []) (lanes : ∀ m ∈ s.liveModules g, s.laneUp m = true) :
    Completes (.strobeEdge g) s (fun t => t.mode = s.mode ∧ (t.group g).conf = none ∧ (t.group g).pulse = true ∧
        ((s.group g).forced = false → (g : Nat) ∈ t.pins.strobesHigh) ∧
        (t.group g).lastEdge = some rise ∧ t.taper.ledger = s.taper.ledger) := by
  have runs : exec (.strobeEdge g) s = .next (s.strobe g c rise) := by
    show execStrobeEdge g s = _
    unfold execStrobeEdge
    rw [conf]
    dsimp only
    rw [rises]
    rfl
  have frame := s.driveEdge_only g ((s.group g).fired rise) rise
  have group := s.driveEdge_group_same g ((s.group g).fired rise) rise
  have high := s.driveEdge_high g ((s.group g).fired rise) rise
  have ledger : (s.driveEdge g ((s.group g).fired rise) rise).taper.ledger = s.taper.ledger := by
    rw [State.driveEdge_taper]
    rfl
  rw [State.strobe_fires g.isLt role swap sure lanes] at runs
  generalize s.driveEdge g ((s.group g).fired rise) rise = u at runs frame group high ledger
  have twin : u.twin = s.twin := frame.agree .twin (by decide)
  unfold State.fireConf at runs
  rw [State.passLine_solo ((frame.agree .role (by decide)).trans role) ((congrArg Twin.swap twin).trans swap)
    ((congrArg Twin.early twin).trans early)] at runs
  have settled := u.settle_only (u.confLine g c 0 0 255) c.lateArm none
  have same := u.settle_sameFiring (u.confLine g c 0 0 255) c.lateArm none
  refine ⟨_, runs, (settled.agree .mode (by decide)).trans (frame.agree .mode (by decide)), ?_, ?_, fun free => ?_, ?_, ?_⟩
  · rw [same.conf, group]
    rfl
  · rw [same.pulse, group]
    rfl
  · rw [settled.agree .pins (by decide)]
    exact high free
  · rw [same.lastEdge, group]
    rfl
  · rw [(State.settle_fired_sameBooks rfl ..).ledger, ledger]

/-! ### The end of a pulse (10 R236, R247) -/

/-- The records that waited for the end of a pulse are the only thing that it logs (03 R81). -/
theorem State.logHeld_logs (s : State) (g : Nat) :
    Only [.regs, .igrel, .ylog, .out, .flagged] { s with taper := { s.taper with printed := s.taper.printed.filter (fun x => x.1 ≠ g) } }
      (s.logHeld g) ∧ s.regsBut (s.logHeld g) yilloggerObjects := by
  have logged (l : List (Nat × List Byte)) (t : State) :
      t.regsBut (l.foldl (fun s x => s.logEvent Ev.linesPrinted x.2) t) yilloggerObjects := by
    induction l generalizing t with
    | nil => exact .refl
    | cons x l ih => exact (ih _).step (t.logEvent_regsBut _ _)
  exact ⟨.foldl (fun t x => t.logEvent_only ..) .refl, logged _ _⟩

/-- An output whose pulse ends is low, and neither driven nor forced. -/
theorem State.dropStrobe_drops (s : State) (g : Nat) : (s.dropStrobe g).group g = { s.group g with pulse := false, forced := false } ∧
    g ∉ (s.dropStrobe g).pins.strobesHigh := by
  unfold State.dropStrobe
  extract_lets _ s1
  obtain ⟨logs, -⟩ := State.logHeld_logs { s1 with pins := { s1.pins with strobesHigh := s1.pins.strobesHigh.filter (· ≠ g) } } g
  constructor
  · exact (State.group_congr (logs.agree .taper (by decide)) g).trans (s.group_setGroup_same g _)
  · rw [logs.agree .pins (by decide)]
    simp

/-- With no record that waits for it, the end of a pulse logs nothing. -/
theorem State.dropStrobe_quiet {s : State} {g : Nat} (quiet : ∀ x ∈ s.taper.printed, x.1 ≠ g) :
    (s.dropStrobe g).out = s.out ∧ (s.dropStrobe g).regs = s.regs := by
  have due : s.taper.printed.filter (fun x => decide (x.1 = g)) = [] := List.filter_eq_nil_iff.mpr fun x hx => by simp [quiet x hx]
  unfold State.dropStrobe State.logHeld
  extract_lets _ s1 _ waiting _ s2
  have none : waiting = [] := due
  rw [none]
  exact ⟨rfl, rfl⟩

/-- The end of a pattern is no edge: the groups and their outputs stand as they stood. -/
theorem State.maintOver_outputs (s : State) :
    s.maintOver.taper.groups = s.taper.groups ∧ s.maintOver.pins.strobesHigh = s.pins.strobesHigh := by
  unfold State.maintOver
  split
  · exact ⟨rfl, rfl⟩
  · split <;> exact ⟨rfl, rfl⟩

theorem State.maintOver_group (s : State) (g : Nat) : s.maintOver.group g = s.group g :=
  congrArg (fun t : Table Group => Table.get ({} : Group) t g) s.maintOver_outputs.1

theorem strobeEnd_drops {s : State} {g : Fin 8} (pulse : (s.group g).pulse = true) : Completes (.strobeEnd g) s (fun t => t.mode = s.mode ∧
    (t.group g).pulse = false ∧ (t.group g).forced = false ∧ (g : Nat) ∉ t.pins.strobesHigh ∧ s.regsBut t yilloggerObjects ∧
      ((∀ x ∈ s.taper.printed, x.1 ≠ (g : Nat)) → t.out = .strobeEnd g :: s.out ∧ t.regs = s.regs)) := by
  have runs : exec (.strobeEnd g) s = .next ((s.dropStrobe g).emit (.strobeEnd g)).maintOver := if_pos pulse
  have frame := ((s.dropStrobe g).emit (.strobeEnd g)).maintOver_only
  obtain ⟨dropped, low⟩ := s.dropStrobe_drops g
  have group := (((s.dropStrobe g).emit (.strobeEnd g)).maintOver_group g).trans dropped
  have mode := (frame.agree .mode (by decide)).trans ((s.dropStrobe_only g).agree .mode (by decide))
  refine ⟨_, runs, mode, ?_, ?_, ?_, fun k hk => ?_, fun quiet => ?_⟩
  · rw [group]
  · rw [group]
  · rw [(State.maintOver_outputs _).2]
    exact low
  · exact (frame.reg (by decide) k).trans ((State.logHeld_logs ..).2 k hk)
  · obtain ⟨out, regs⟩ := State.dropStrobe_quiet quiet
    exact ⟨(frame.agree .out (by decide)).trans (congrArg (List.cons _) out), (frame.agree .regs (by decide)).trans regs⟩

/-- Settles O41, command by command. -/
theorem linesArmAndFire : Obligations.LinesArmAndFire := fun _ =>
  ⟨armingStart_ends, fun _ arms up role swap early modeAt => ⟨lineArm_confirms arms up role swap early modeAt,
    fun _ _ => lineArm_refuses arms up role swap early modeAt⟩,
    fun _ _ _ conf rises role swap early sure lanes => strobeEdge_fires conf rises role swap early sure lanes, fun _ => strobeEnd_drops⟩

end Sys2Proof.Machine
end

section
/-! SUPPORT. O42 (10 R247, R248, R250; 01 R498): the cut of an output, the check after it, and the lines of a maintenance pattern. -/

namespace Sys2Proof.Machine

/-! ### The Snuffer (10 R247, R248) -/

/-- An output is cut: its pad is low, and forced low while the Taper's pulse lasts, and the cut is counted. -/
def State.cutOutput (s : State) (g : Nat) : State :=
  let s := s.setGroup g { s.group g with forced := (s.group g).pulse, cut := true }
  let s := { s with pins := { s.pins with strobesHigh := s.pins.strobesHigh.filter (· ≠ g) } }
  let s := { s with taper := { s.taper with cuts := s.clock.cycles :: s.recentCuts } }
  (s.bump Obj.snuffCuts).emit (.strobeEnd g)

section
variable (s : State) (g : Nat)

theorem State.cutOutput_only : Only [.regs, .pins, .taper, .out] s (s.cutOutput g) :=
  (State.emit_only ..).step (by decide) ((State.bump_only ..).step (by decide) (.with_taper (by decide) (.with_pins (by decide)
    ((s.setGroup_only ..).mono (by decide)))))

theorem State.cutOutput_group : (s.cutOutput g).group g = { s.group g with forced := (s.group g).pulse, cut := true } :=
  s.group_setGroup_same g _

theorem State.cutOutput_low : g ∉ (s.cutOutput g).pins.strobesHigh := by
  show g ∉ s.pins.strobesHigh.filter (· ≠ g)
  simp

theorem State.cutOutput_counted : (s.cutOutput g).reg Obj.snuffCuts = countValue Obj.snuffCuts (s.reg Obj.snuffCuts) 1 :=
  State.reg_bump_same ..

theorem State.cutOutput_regsBut : s.regsBut (s.cutOutput g) [Obj.snuffCuts] :=
  fun _ hk => State.reg_bump_other _ (by simpa using hk)

theorem State.escalate_regsBut : s.regsBut s.escalate [Obj.snuffCause] := by
  unfold State.escalate
  split
  · exact s.setCause_regsBut _
  · exact .refl

/-- The cut, and the cause that cuts set where they come too often (10 R248). -/
theorem State.cutEscalated_regsBut : s.regsBut (s.cutOutput g).escalate [Obj.snuffCuts, Obj.snuffCause] :=
  (State.escalate_regsBut _).step (s.cutOutput_regsBut g)

end

theorem strobeCut_cuts {s : State} {g : Fin 8} : Completes (.strobeCut g) s (fun t => t.mode = s.mode ∧
    (t.group g).forced = (s.group g).pulse ∧ (t.group g).cut = true ∧ (g : Nat) ∉ t.pins.strobesHigh ∧
    t.reg Obj.snuffCuts = countValue Obj.snuffCuts (s.reg Obj.snuffCuts) 1 ∧ s.logs t Ev.strobeCut (le 1 g) ∧
    s.regsBut t (Obj.snuffCuts :: Obj.snuffCause :: yilloggerObjects)) := by
  have runs : exec (.strobeCut g) s = .next ((s.cutOutput g).escalate.logEvent Ev.strobeCut (le 1 g)).maintOver := rfl
  have cut : Only [.regs, .pins, .taper, .out, .flagged] s (s.cutOutput g).escalate :=
    (State.escalate_only _).step (by decide) ((s.cutOutput_only g).mono (by decide))
  have regs := s.cutEscalated_regsBut g
  have counted := ((s.cutOutput g).escalate_regsBut Obj.snuffCuts (by decide)).trans (s.cutOutput_counted g)
  have group : (s.cutOutput g).escalate.group g = { s.group g with forced := (s.group g).pulse, cut := true } :=
    (State.group_congr ((State.escalate_only _).agree .taper (by decide)) g).trans (s.cutOutput_group g)
  have low : (g : Nat) ∉ (s.cutOutput g).escalate.pins.strobesHigh := by
    rw [(State.escalate_only _).agree .pins (by decide)]
    exact s.cutOutput_low g
  generalize (s.cutOutput g).escalate = u at runs cut regs counted group low
  have alike : LogsAlike s u := .of_other cut (by decide) fun k hk => regs k (by revert k; decide)
  have logged := u.logEvent_only Ev.strobeCut (le 1 g)
  have frame := (u.logEvent Ev.strobeCut (le 1 g)).maintOver_only
  have ended : ((u.logEvent Ev.strobeCut (le 1 g)).maintOver).group g = { s.group g with forced := (s.group g).pulse, cut := true } :=
    (State.maintOver_group ..).trans ((State.group_congr (logged.agree .taper (by decide)) g).trans group)
  refine ⟨_, runs, ?_, ?_, ?_, ?_, ?_, ?_, ?_⟩
  · rw [frame.agree .mode (by decide), logged.agree .mode (by decide), cut.agree .mode (by decide)]
  · rw [ended]
  · rw [ended]
  · rw [(State.maintOver_outputs _).2, logged.agree .pins (by decide)]
    exact low
  · rw [frame.reg (by decide), u.logEvent_reg _ _ (by decide), counted]
  · exact State.logs_sameLog (State.logEvent_logs alike (cut.agree .clock (by decide)) ..)
      (frame.sameLog (by decide) fun k _ => frame.reg (by decide) k)
  · have written : s.regsBut (u.logEvent Ev.strobeCut (le 1 g)) (Obj.snuffCuts :: Obj.snuffCause :: yilloggerObjects) :=
      (u.logEvent_regsBut _ _).step regs
    exact fun k hk => (frame.reg (by decide) k).trans (written k hk)

/-- Where a condition of a cause holds, its bit is set from the first configured state on, and nothing else (02 R497). -/
theorem State.setCause_where (s : State) (due : Bool) (b : Nat) :
    let t := if due then s.setCause b else s
    t = { s with regs := t.regs, flagged := t.flagged } ∧ s.regsBut t [Obj.snuffCause] ∧
      t.reg Obj.snuffCause = if due && s.configured then s.reg Obj.snuffCause ||| 2 ^ b else s.reg Obj.snuffCause := by
  cases due with
  | false => exact ⟨rfl, .refl, rfl⟩
  | true =>
    refine ⟨?_, s.setCause_regsBut b, s.setCause_snuffCause b⟩
    rw [if_pos rfl]
    unfold State.setCause
    split <;> rfl

theorem snufferEscalate_checks {s : State} {g : Fin 8} {pad : Bool} : Completes (.snufferEscalate g pad) s (fun t =>
    t = { s with regs := t.regs, flagged := t.flagged, taper := t.taper } ∧ (t.group g).cut = false ∧ t.taper.cuts = s.taper.cuts ∧
    s.regsBut t [Obj.snuffCause] ∧ t.reg Obj.snuffCause =
      if ((pad && (s.group g).cut) || decide (s.reg Obj.snuffEscCount ≤ s.recentCuts.length)) && s.configured then s.reg Obj.snuffCause ||| 4
      else s.reg Obj.snuffCause) := by
  let u := s.setGroup g { s.group g with cut := false }
  have checked : (u.group g).cut = false := congrArg Group.cut (s.group_setGroup_same g _)
  have runs : exec (.snufferEscalate g pad) s = .next (if (pad && (s.group g).cut) || decide (s.reg Obj.snuffEscCount ≤ s.recentCuts.length)
      then u.setCause Cause.snuffer else u) := by
    show (if (pad && (s.group g).cut) = true then ok (u.setCause Cause.snuffer) else
      ok (if s.reg Obj.snuffEscCount ≤ s.recentCuts.length then u.setCause Cause.snuffer else u)) = _
    by_cases high : (pad && (s.group g).cut) = true
    · rw [if_pos high, high]
      rfl
    · rw [if_neg high, Bool.eq_false_iff.mpr high]
      simp [ok]
  generalize ((pad && (s.group g).cut) || decide (s.reg Obj.snuffEscCount ≤ s.recentCuts.length)) = due at runs ⊢
  obtain ⟨same, regs, cause⟩ := u.setCause_where due Cause.snuffer
  generalize (if due then u.setCause Cause.snuffer else u) = t at runs same regs cause
  have taper : t.taper = u.taper := by rw [same]
  refine ⟨t, runs, ?_, (congrArg Group.cut (State.group_congr taper g)).trans checked, ?_, regs, cause⟩
  · rw [same]
    rfl
  · rw [taper]
    rfl

/-! ### Maintenance lines (10 R250, 01 R498) -/

/-- A line that is taken from an auxiliary context moves its checkpoint, and its slot and ring space are freed. -/
theorem State.takeAux_takes (s : State) (k : Nat) : (s.takeAux k).2 = s ∨
    ∃ u l, s.ckptStep k = some u ∧ (s.takeAux k).2 = ((u.setSlots k l).freeRing k).takeJobs := by
  unfold State.takeAux
  extract_lets n line bad
  cases step : s.ckptStep k with
  | none => exact .inl rfl
  | some u =>
    refine .inr ⟨u, (u.slotsOf k).filter (fun y => y.seq ≠ n), rfl, ?_⟩
    clear_value line bad
    dsimp only
    split
    · dsimp only
    · split <;> dsimp only

theorem State.passAhead_regs (s : State) (k : Nat) : s.regsBut (s.passAhead k) [Obj.workLine k] := by
  unfold State.passAhead
  split
  · exact s.advance_regs k _
  · exact .refl

theorem State.ckptStep_regs {s u : State} {k : Nat} (h : s.ckptStep k = some u) : s.regsBut u [Obj.workLine k, Obj.checkpointLine k] := by
  unfold State.ckptStep at h
  dsimp only at h
  split at h
  · cases h
  · cases h
    intro j hj
    obtain ⟨work, point⟩ : j ≠ Obj.workLine k ∧ j ≠ Obj.checkpointLine k := by simpa using hj
    rw [(State.noteImage_only ..).reg (by decide), State.reg_setReg_other _ _ point]
    exact s.passAhead_regs k j (by simpa using work)

theorem State.takeAux_regs (s : State) (k : Nat) :
    s.regsBut (s.takeAux k).2 [Obj.workLine k, Obj.checkpointLine k, Obj.ringUsed k] := by
  obtain same | ⟨u, l, step, takes⟩ := s.takeAux_takes k
  · rw [same]
    exact .refl
  · rw [takes]
    have moved : s.regsBut (u.setSlots k l) [Obj.workLine k, Obj.checkpointLine k] :=
      fun j hj => State.ckptStep_regs step j hj
    exact fun j hj => ((State.takeJobs_only _).reg (by decide) j).trans (((State.freeRing_regs _ k).step moved) j hj)

/-- Which groups have modules is not for a consumer of lines to change. -/
theorem State.takeAux_liveGroups (s : State) (k : Nat) : (s.takeAux k).2.liveGroups = s.liveGroups := by
  have populated (m : Nat) : (s.takeAux k).2.populated m = s.populated m := by
    have away : Obj.populated m ∉ [Obj.workLine k, Obj.checkpointLine k, Obj.ringUsed k] := by
      simp only [List.mem_cons, List.not_mem_nil, or_false, Obj.populated, Obj.workLine, Obj.checkpointLine, Obj.ringUsed]
      omega
    exact congrArg (fun v => decide (v = 1)) (s.takeAux_regs k _ away)
  have modules (g : Nat) : (s.takeAux k).2.liveModules g = s.liveModules g := List.filter_congr fun m _ => populated m
  exact List.filter_congr fun g _ => congrArg (fun l : List Nat => !l.isEmpty) (modules g)

/-- The group of a maintenance edge: the Taper drives its output high. -/
def Group.pulsed (x : Group) (rise : Nat) : Group := { x with lastEdge := some rise, pulse := true }

theorem State.maintEdges_cons (s : State) (rise g : Nat) (l : List Nat) :
    s.maintEdges rise (g :: l) = (s.driveEdge g ((s.group g).pulsed rise) rise).maintEdges rise l := rfl

/-- A maintenance edge rises on every output of a list, but where the Snuffer forces it low, and on no other. -/
theorem State.maintEdges_edges (s : State) (rise : Nat) (l : List Nat) :
    (s.maintEdges rise l).taper.maint = s.taper.maint ∧
    (∀ g ∈ l, ((s.maintEdges rise l).group g).pulse = true ∧
      ((s.group g).forced = false → g ∈ (s.maintEdges rise l).pins.strobesHigh)) ∧
    ∀ g, g ∉ l → (s.maintEdges rise l).group g = s.group g ∧
      (g ∈ (s.maintEdges rise l).pins.strobesHigh ↔ g ∈ s.pins.strobesHigh) := by
  induction l generalizing s with
  | nil => exact ⟨rfl, fun _ hg => absurd hg List.not_mem_nil, fun _ _ => ⟨rfl, .rfl⟩⟩
  | cons k l ih =>
    rw [State.maintEdges_cons]
    have maint := congrArg Taper.maint (s.driveEdge_taper k ((s.group k).pulsed rise) rise)
    have same := s.driveEdge_group_same k ((s.group k).pulsed rise) rise
    have other (g : Nat) := s.driveEdge_group_other k ((s.group k).pulsed rise) rise (j := g)
    have high := s.driveEdge_high k ((s.group k).pulsed rise) rise
    have still (g : Nat) := s.driveEdge_high_other k ((s.group k).pulsed rise) rise (j := g)
    generalize s.driveEdge k ((s.group k).pulsed rise) rise = u at maint same other high still
    obtain ⟨maint', edges, rest⟩ := ih u
    refine ⟨maint'.trans maint, fun g hg => ?_, fun g hg => ?_⟩
    · by_cases later : g ∈ l
      · obtain ⟨pulse, raised⟩ := edges g later
        refine ⟨pulse, fun free => raised ?_⟩
        by_cases now : g = k
        · subst now
          rw [same]
          exact free
        · rw [other g now]
          exact free
      · obtain rfl : g = k := (List.mem_cons.mp hg).resolve_right later
        obtain ⟨group, pad⟩ := rest g later
        rw [group, pad, same]
        exact ⟨rfl, high⟩
    · obtain ⟨now, later⟩ := not_or.mp (mt List.mem_cons.mpr hg)
      obtain ⟨group, pad⟩ := rest g later
      exact ⟨group.trans (other g now), pad.trans (still g now)⟩

/-- A maintenance line has been sent and confirmed on every populated lane, and the pattern has one line less to come. -/
def State.maintSent (s : State) (m : Maint) (n : Nat) (line : List Byte) : State :=
  let s := { s with taper := { s.taper with maint := some { m with left := m.left - 1 } } }
  let s := s.maintFrames n line s.allStrips
  s.maintConfirms n (min (1000 * s.reg Obj.maintPeriod) 0xFFFFFFFF) s.allStrips

section
variable (s : State) (m : Maint) (n : Nat) (line : List Byte)

/-- But for the pattern, the frames are all that it leaves. -/
theorem State.maintSent_sends :
    Only [.out] { s with taper := { s.taper with maint := some { m with left := m.left - 1 } } } (s.maintSent m n line) :=
  (State.maintConfirms_only ..).trans (State.maintFrames_only ..)

theorem State.maintSent_only : Only [.taper, .out] s (s.maintSent m n line) :=
  (s.maintSent_sends m n line).step (by decide) (.with_taper (by decide) .refl)

theorem State.maintSent_maint : (s.maintSent m n line).taper.maint = some { m with left := m.left - 1 } := by
  rw [(s.maintSent_sends m n line).agree .taper (by decide)]

theorem State.maintSent_group (g : Nat) : (s.maintSent m n line).group g = s.group g :=
  State.group_congr ((s.maintSent_sends m n line).agree .taper (by decide)) g

theorem State.maintSent_liveGroups : (s.maintSent m n line).liveGroups = s.liveGroups :=
  congrArg (fun r : Table Nat => ({ s with regs := r } : State).liveGroups) ((s.maintSent_only m n line).agree .regs (by decide))

end

section
variable {s : State} {m : Maint} {n : Nat} {line : List Byte} (pattern : s.taper.maint = some m) (runsOn : m.running = true)
  (lines : m.left ≠ 0) (trim : s.mode = .trim) (up : ∀ b ∈ [Block.decomp, Block.strip, Block.taper, Block.headLink], s.blockUp b = true)
  (lanes : ∀ i, i < 32 → s.populated i = true → s.laneUp i = true) (next : (s.takeAux m.stream).1 = .line n line)
include pattern runsOn lines trim up lanes next

/-- The line of a running pattern that can fire is taken, sent, confirmed and fired. -/
theorem execMaintLine_line : let u := (s.takeAux m.stream).2.maintSent m n line
    exec .maintLine s = .next (u.maintEdges u.maintRise u.liveGroups) := by
  have blocks : [Block.decomp, Block.strip, Block.taper, Block.headLink].any (fun b => !s.blockUp b) = false := by
    simpa using up
  have links : (List.range 32).any (fun i => s.populated i && !s.laneUp i) = false := by
    simpa using lanes
  have answer : s.takeAux m.stream = (.line n line, (s.takeAux m.stream).2) := Prod.ext next rfl
  generalize (s.takeAux m.stream).2 = u at answer
  show execMaintLine s = _
  unfold execMaintLine
  rw [pattern]
  dsimp only
  rw [if_neg (by simp [runsOn, lines, trim]), blocks, links, if_neg (by decide), answer]
  rfl

theorem maintLine_fires :
    Completes .maintLine s (fun t => t.mode = .trim ∧ t.taper.maint = some { m with left := m.left - 1 } ∧
      (∀ g ∈ s.liveGroups, (t.group g).pulse = true ∧ ((s.group g).forced = false → g ∈ t.pins.strobesHigh)) ∧
      ∀ g, g < 8 → g ∉ s.liveGroups → t.group g = s.group g ∧ (g ∈ t.pins.strobesHigh ↔ g ∈ s.pins.strobesHigh)) := by
  have runs := execMaintLine_line pattern runsOn lines trim up lanes next
  have taken := s.takeAux_only m.stream
  have live := s.takeAux_liveGroups m.stream
  generalize (s.takeAux m.stream).2 = u at runs taken live
  have sent := u.maintSent_only m n line
  have left := u.maintSent_maint m n line
  have group (g : Nat) : (u.maintSent m n line).group g = s.group g :=
    (u.maintSent_group m n line g).trans (State.group_congr (taken.agree .taper (by decide)) g)
  have pins : (u.maintSent m n line).pins = s.pins := (sent.agree .pins (by decide)).trans (taken.agree .pins (by decide))
  have mode : (u.maintSent m n line).mode = .trim := (sent.agree .mode (by decide)).trans ((taken.agree .mode (by decide)).trans trim)
  replace live := (u.maintSent_liveGroups m n line).trans live
  generalize u.maintSent m n line = w at runs left group pins mode live
  obtain ⟨maint, edges, rest⟩ := w.maintEdges_edges w.maintRise w.liveGroups
  refine ⟨_, runs, ((State.maintEdges_only ..).agree .mode (by decide)).trans mode, maint.trans left, fun g hg => ?_, fun g _ hg => ?_⟩
  · obtain ⟨pulse, raised⟩ := edges g (live ▸ hg)
    exact ⟨pulse, fun free => raised ((congrArg Group.forced (group g)).trans free)⟩
  · obtain ⟨same, pad⟩ := rest g (live ▸ hg)
    exact ⟨same.trans (group g), pins ▸ pad⟩

end

/-- Settles O42: the cut, the check after it, and a maintenance line. -/
theorem snufferAndMaintenanceLines : Obligations.SnufferAndMaintenanceLines := fun _ =>
  ⟨fun _ => strobeCut_cuts, fun _ _ => snufferEscalate_checks, fun _ _ _ => maintLine_fires⟩

end Sys2Proof.Machine
end

section
/-! SUPPORT. O43 (11 R254, R265, R275 to R280; 18 R393, R394): the objects of the lanes, what the Wick's answer to a lane leaves of them, and
a lane that is taken down. -/

namespace Sys2Proof.Machine

/-! ### The objects of the lanes (index 0x24xx) -/

/-- The objects of the lanes read in the second state as in the first. -/
structure SameLanes (s t : State) : Prop where
  reg : ∀ k, k / 65536 = 0x24 → t.reg k = s.reg k

namespace SameLanes

theorem refl {s : State} : SameLanes s s := ⟨fun _ _ => rfl⟩

/-- One operation more. -/
theorem step {s t u : State} (h : SameLanes t u) (k : SameLanes s t) : SameLanes s u :=
  ⟨fun j hj => (h.reg j hj).trans (k.reg j hj)⟩

theorem ite {c : Prop} [Decidable c] {s t u : State} (h : c → SameLanes s t) (k : ¬c → SameLanes s u) :
    SameLanes s (if c then t else u) := by
  by_cases x : c
  · rw [if_pos x]
    exact h x
  · rw [if_neg x]
    exact k x

end SameLanes

/-- An object of a lane. -/
theorem lane_index (m : Fin 32) (j : Nat) (low : j < 256 := by decide) : (0x240000 + j + 256 * m) / 65536 = 0x24 := by omega

/-- The Wick's own state is none of them. -/
theorem SameLanes.with_wick {s t : State} {w : Wick} (h : SameLanes s t) : SameLanes s { t with wick := w } := ⟨h.reg⟩

/-- An operation that does not touch the objects. -/
theorem Only.sameLanes {d : List Fld} {s t : State} (h : Only d s t) (hd : Fld.regs ∉ d := by decide) : SameLanes s t :=
  ⟨fun k _ => h.reg hd k⟩

/-- An operation that writes none but objects of other chapters. -/
theorem State.regsBut.sameLanes {s t : State} {l : List Nat} (h : s.regsBut t l) (hl : ∀ k ∈ l, k / 65536 ≠ 0x24) : SameLanes s t :=
  ⟨fun k hk => h k fun hm => hl k hm hk⟩

theorem State.setReg_sameLanes (s : State) {j : Nat} (v : Nat) (hj : j / 65536 ≠ 0x24) : SameLanes s (s.setReg j v) :=
  (s.setReg_regsBut j v).sameLanes (by simpa using hj)

theorem State.bump_sameLanes (s : State) {j : Nat} (hj : j / 65536 ≠ 0x24) : SameLanes s (s.bump j) := s.setReg_sameLanes _ hj

theorem State.setBits_sameLanes (s : State) {j : Nat} (m : Nat) (hj : j / 65536 ≠ 0x24) : SameLanes s (s.setBits j m) :=
  ((State.noteFlags_only ..).sameLanes).step (s.setReg_sameLanes _ hj)

theorem State.logEvent_sameLanes (s : State) (code : Nat) (detail : List Byte) : SameLanes s (s.logEvent code detail) :=
  (s.logEvent_regsBut code detail).sameLanes (by decide)

theorem State.setCause_sameLanes (s : State) (b : Nat) : SameLanes s (s.setCause b) := (s.setCause_regsBut b).sameLanes (by decide)

/-! ### The Wick's answer to a lane (18 R393, R394) -/

theorem State.setLevel_sameLanes (s : State) (p : Nat) (v : Int) : SameLanes s (s.setLevel p v) := by
  unfold State.setLevel
  extract_lets c v' s1
  have h1 : SameLanes s s1 := .ite (fun _ => s.setBits_sameLanes _ (by decide)) (fun _ => .refl)
  exact h1.with_wick

theorem State.noteOutcome_sameLanes (s : State) (g n : Nat) (o : WickOut) : SameLanes s (s.noteOutcome g n o) := by
  unfold State.noteOutcome
  extract_lets grp s1
  have h1 : SameLanes s s1 := (State.setBits_sameLanes _ _ (by decide)).step (s.bump_sameLanes (by decide))
  cases o with
  | grant => exact .refl
  | demote => exact .ite (fun _ => (State.logEvent_sameLanes ..).step ((State.setGroup_only ..).sameLanes.step h1)) (fun _ => h1)
  | skip => exact .ite (fun _ => (State.logEvent_sameLanes ..).step (State.setGroup_only ..).sameLanes) (fun _ => .refl)

theorem State.decideLine_sameLanes (s : State) (g n : Nat) : SameLanes s (s.decideLine g n) := by
  unfold State.decideLine
  split
  next o e _ =>
  extract_lets s1 s2
  have h1 : SameLanes s s1 := .ite (fun _ => .refl) (fun _ => s.setLevel_sameLanes ..)
  have h2 : SameLanes s s2 := (State.noteOutcome_sameLanes ..).step ((State.holdDecision_only ..).sameLanes.step h1)
  exact .ite (fun _ => (State.emit_only ..).sameLanes.step h2) (fun _ => h2)

theorem State.linesFirst_sameLanes (s : State) : SameLanes s s.linesFirst := by
  have ready (k : Nat) (s : State) : SameLanes s (s.decideReady k) := by
    induction k generalizing s with
    | zero => exact .refl
    | succ k ih =>
      unfold State.decideReady
      split
      · exact .refl
      · exact (ih _).step (s.decideLine_sameLanes ..)
  exact .ite (fun _ => ready ..) (fun _ => .refl)

/-- The Wick has three pools (18 R387). -/
theorem WickReq.pool_lt {r : WickReq} : ∀ x ∈ r.pools, x.1 < 3 := by
  simp only [WickReq.pools, List.mem_append, List.mem_map]
  rintro x ((⟨e, -, rfl⟩ | ⟨e, -, rfl⟩) | ⟨e, -, rfl⟩) <;> simp

theorem State.countPools_sameLanes (s : State) {f : Nat → Nat} (hf : ∀ p < 3, f p / 65536 ≠ 0x24) {l : List (Nat × Nat)}
    (hl : ∀ x ∈ l, x.1 < 3) : SameLanes s (s.countPools f l) := by
  induction l generalizing s with
  | nil => exact .refl
  | cons x l ih =>
    obtain ⟨low, later⟩ := List.forall_mem_cons.mp hl
    exact (ih _ later).step (s.bump_sameLanes (hf _ low))

theorem State.chargeAll_sameLanes (s : State) (l : List (Nat × Nat)) : SameLanes s (s.chargeAll l) := by
  induction l generalizing s with
  | nil => exact .refl
  | cons x l ih => exact (ih _).step (s.setLevel_sameLanes ..)

theorem State.giveLeave_sameLanes (s : State) (r : WickReq) : SameLanes s (s.giveLeave r) := by
  have charged := s.chargeAll_sameLanes r.pools
  have counted := (s.chargeAll r.pools).countPools_sameLanes (f := Obj.grants) (by decide) (WickReq.pool_lt (r := r))
  exact (counted.step charged).with_wick

theorem State.noteQueued_sameLanes (s : State) : SameLanes s s.noteQueued :=
  (State.setReg_sameLanes _ _ (by decide)).step ((State.setReg_sameLanes _ _ (by decide)).step (s.setReg_sameLanes _ (by decide)))

theorem State.ask_sameLanes (s : State) (r : WickReq) : SameLanes s (s.ask r).2 := by
  have counted : SameLanes s (s.countPools Obj.defers r.pools) := s.countPools_sameLanes (by decide) WickReq.pool_lt
  have refused : SameLanes s (s.refuseLeave r) :=
    (State.setBits_sameLanes _ _ (by decide)).step (s.countPools_sameLanes (by decide) WickReq.pool_lt)
  unfold State.ask
  split
  · split
    · exact SameLanes.refl.with_wick
    · exact s.giveLeave_sameLanes r
  · split
    · exact .refl
    · split
      · exact refused
      · split
        · exact s.giveLeave_sameLanes r
        · split
          · exact (State.noteQueued_sameLanes _).step counted.with_wick
          · exact counted

/-- A lane acts on its leave with its own next step: the answer is all that its request leaves. -/
theorem State.request_laneRetrain (s : State) {r : WickReq} {m : Nat} (who : r.who = .laneRetrain m) :
    s.request r = (s.linesFirst.ask r).2 := by
  unfold State.request
  rw [who]
  split
  next h => rw [h]; rfl
  next h => rw [h]
  next h => rw [h]; rfl

theorem State.askRetrain_only_wick (s : State) (m : Nat) :
    Only [.regs, .igrel, .slots, .taper, .wick, .ylog, .out, .flagged] s (s.askRetrain m) := by
  unfold State.askRetrain
  rw [State.request_laneRetrain _ rfl]
  exact (State.ask_only ..).step (by decide) (s.linesFirst_only.mono (by decide))

theorem State.askRetrain_sameLanes (s : State) (m : Nat) : SameLanes s (s.askRetrain m) := by
  unfold State.askRetrain
  rw [State.request_laneRetrain _ rfl]
  exact (State.ask_sameLanes ..).step s.linesFirst_sameLanes

/-! ### A lane that is taken down (11 R278) -/

/-- A module's part of the state is kept with the others. -/
theorem State.head_congr {s t : State} (h : t.heads = s.heads) (m : Nat) : t.head m = s.head m := by
  unfold State.head
  rw [h]

theorem State.laneUp_iff (s : State) (m : Nat) : s.laneUp m = true ↔ s.reg (Obj.laneState m) = 2 := decide_eq_true_iff

section
variable (s : State) (m mask : Nat)

/-- The lane's state, its flags and its count of retrains, as taking it down writes them. -/
def State.downed : State := ((s.setReg (Obj.laneState m) 3).laneFlag m (8 ||| mask)).bump (Obj.retrains m)

theorem State.takeDown_sameLanes : SameLanes (s.downed m mask) (s.takeDown m mask) :=
  (State.askRetrain_sameLanes ..).step ((State.logEvent_sameLanes ..).step ((State.suspend_only ..).sameLanes.step
    (State.setHead_only ..).sameLanes))

theorem State.takeDown_head : ((s.takeDown m mask).head m) =
    { s.head m with slotOk := false, ready := false, trimOk := false, recovering := true } := by
  unfold State.takeDown
  rw [State.head_congr ((State.askRetrain_only_wick ..).agree .heads (by decide)),
    State.head_congr ((State.logEvent_only ..).agree .heads (by decide)),
    State.head_congr ((State.suspend_only ..).agree .heads (by decide)), State.head_setHead_same]
  rfl

theorem State.takeDown_mode : (s.takeDown m mask).mode = s.mode := (State.takeDown_only ..).agree .mode (by decide)

end

section
variable (s : State) (m : Fin 32) (mask : Nat)

theorem State.takeDown_laneState : (s.takeDown m mask).reg (Obj.laneState m) = 3 := by
  rw [(State.takeDown_sameLanes ..).reg _ (lane_index m 0x01)]
  unfold State.downed State.laneFlag
  rw [State.reg_bump_other _ (by simp), State.reg_setBits_other _ _ (by simp), State.reg_setReg_same]

theorem State.takeDown_retrains : (s.takeDown m mask).reg (Obj.retrains m) = countValue (Obj.retrains m) (s.reg (Obj.retrains m)) 1 := by
  rw [(State.takeDown_sameLanes ..).reg _ (lane_index m 0x08)]
  unfold State.downed State.laneFlag
  rw [State.reg_bump_same, State.reg_setBits_other _ _ (by simp), State.reg_setReg_other _ _ (by simp)]

/-- The lane's other objects stand. -/
theorem State.takeDown_other {k : Nat} (lane : k / 65536 = 0x24) (hk : k ∉ [Obj.laneState m, Obj.laneStatus m, Obj.retrains m]) :
    (s.takeDown m mask).reg k = s.reg k := by
  simp only [List.mem_cons, List.not_mem_nil, or_false, not_or] at hk
  obtain ⟨state, status, retrains⟩ := hk
  rw [(State.takeDown_sameLanes ..).reg _ lane]
  unfold State.downed State.laneFlag
  rw [State.reg_bump_other _ retrains, State.reg_setBits_other _ _ status, State.reg_setReg_other _ _ state]

end

end Sys2Proof.Machine
end

section
/-! SUPPORT. O43 (11 R254, R265, R277, R278, R280): a lane's bring-up, its loss and its recovery. -/

namespace Sys2Proof.Machine

/-! ### Bring-up (11 R277) -/

theorem State.adapt_regsBut (s : State) (m : Nat) : s.regsBut (s.adapt m) [Obj.ctleCode m, Obj.dfeTaps m] := fun k hk => by
  simp only [List.mem_cons, List.not_mem_nil, or_false, not_or] at hk
  obtain ⟨ctle, dfe⟩ := hk
  exact (State.reg_setReg_other _ _ dfe).trans (State.reg_setReg_other _ _ ctle)

/-- A training lane has locked: what it reads of its module's answer, and its equaliser settings. -/
def State.locked (s : State) (m slot : Nat) (inv : Bool) : State :=
  ((s.setReg (Obj.rxInverted m) (flag inv)).setReg (Obj.slotIdSeen m) (slot % 256)).adapt m

theorem State.locked_only (s : State) (m slot : Nat) (inv : Bool) : Only [.regs, .freeCtr] s (s.locked m slot inv) :=
  (State.adapt_only ..).step (by decide) ((State.setReg_only ..).step (by decide) ((State.setReg_only ..).mono (by decide)))

theorem State.locked_reads (s : State) (m slot : Nat) (inv : Bool) : (s.locked m slot inv).reg (Obj.slotIdSeen m) = slot % 256 ∧
    (s.locked m slot inv).reg (Obj.rxInverted m) = flag inv := by
  have left := ((s.setReg (Obj.rxInverted m) (flag inv)).setReg (Obj.slotIdSeen m) (slot % 256)).adapt_regsBut m
  exact ⟨(left _ (by simp)).trans (State.reg_setReg_same ..),
    (left _ (by simp)).trans ((State.reg_setReg_other _ _ (by simp)).trans (State.reg_setReg_same ..))⟩

theorem headTrainReply_reads {s : State} {m : Fin 32} {slot : Nat} {inv : Bool} (training : s.reg (Obj.laneState m) = 1)
    (up : s.headLinkUp = true) (byte : slot < 256) : Completes (.headTrainReply m slot inv) s (fun t => t.mode = s.mode ∧
      t.reg (Obj.slotIdSeen m) = slot ∧ t.reg (Obj.rxInverted m) = flag inv ∧ (t.head m).slotOk = decide (slot = m) ∧
      (slot ≠ m → (t.reg (Obj.laneStatus m)).testBit 2 = true)) := by
  let u := s.locked m slot inv
  have runs : execHeadTrainReply m slot inv s = if slot = m then ok (u.setHead m { u.head m with slotOk := true })
      else ok (if (u.head m).idRaised then (u.setHead m { u.head m with slotOk := false, idRaised := true }).laneFlag m 4
        else ((u.setHead m { u.head m with slotOk := false, idRaised := true }).laneFlag m 4).logEvent Ev.laneId []) :=
    if_pos ⟨training, up⟩
  have mode : u.mode = s.mode := (s.locked_only m slot inv).agree .mode (by decide)
  obtain ⟨seen, inverted⟩ := s.locked_reads m slot inv
  rw [Nat.mod_eq_of_lt byte] at seen
  change u.reg _ = _ at seen inverted
  clear_value u
  by_cases own : slot = m
  · rw [if_pos own] at runs
    refine ⟨_, runs, mode, seen, inverted, ?_, fun other => absurd own other⟩
    rw [State.head_setHead_same]
    exact (decide_eq_true own).symm
  · rw [if_neg own] at runs
    generalize hw : (u.setHead m { u.head m with slotOk := false, idRaised := true }).laneFlag m 4 = w at runs
    have frame : Only [.regs, .igrel, .ylog, .out, .flagged] w (if (u.head m).idRaised then w else w.logEvent Ev.laneId []) :=
      .ite (fun _ => .refl) (fun _ => w.logEvent_only ..)
    have lanes : SameLanes w (if (u.head m).idRaised then w else w.logEvent Ev.laneId []) :=
      .ite (fun _ => .refl) (fun _ => w.logEvent_sameLanes ..)
    refine ⟨_, runs, ?_, ?_, ?_, ?_, fun _ => ?_⟩
    · rw [frame.agree .mode (by decide), ← hw]
      exact mode
    · rw [lanes.reg _ (lane_index m 0x11), ← hw]
      exact (State.reg_setBits_other _ _ (by simp)).trans seen
    · rw [lanes.reg _ (lane_index m 0x02), ← hw]
      exact (State.reg_setBits_other _ _ (by simp)).trans inverted
    · rw [State.head_congr (frame.agree .heads (by decide)), ← hw, decide_eq_false own]
      exact congrArg HeadLane.slotOk (u.head_setHead_same m { u.head m with slotOk := false, idRaised := true })
    · rw [lanes.reg _ (lane_index m 0x0B), ← hw]
      unfold State.laneFlag
      rw [State.reg_setBits_same, Nat.testBit_or, (by decide : Nat.testBit 4 2 = true), Bool.or_true]

theorem headLaneTimeout_down {s : State} {m : Fin 32} (training : s.reg (Obj.laneState m) = 1) (fitted : s.populated m = true)
    (decided : s.twin.roleDecided = true) (mode : s.mode ≠ .kindle) :
    Completes (.headLaneTimeout m) s (fun t => t.mode = s.mode ∧ t.reg (Obj.laneState m) = 3) := by
  have runs : exec (.headLaneTimeout m) s = .next ((s.setReg (Obj.laneState m) 3).askRetrain m) :=
    (if_pos ⟨training, fitted, decided⟩ : execHeadLaneTimeout m s = _).trans (if_neg mode)
  refine ⟨_, runs, (State.askRetrain_only_wick ..).agree .mode (by decide), ?_⟩
  rw [(State.askRetrain_sameLanes ..).reg _ (lane_index m 0x01), State.reg_setReg_same]

/-! ### Loss (11 R254, R265, R278) -/

theorem statusTimeout_down {s : State} {m : Fin 32} (up : s.laneUp m = true) : Completes (.statusTimeout m) s (fun t =>
    t.mode = s.mode ∧ t.reg (Obj.laneState m) = 3 ∧ (t.head m).recovering = true ∧
    t.reg (Obj.retrains m) = countValue (Obj.retrains m) (s.reg (Obj.retrains m)) 1) := by
  refine ⟨_, (if_pos up : execStatusTimeout m s = _), s.takeDown_mode m 16, s.takeDown_laneState m 16, ?_, s.takeDown_retrains m 16⟩
  rw [State.takeDown_head]

theorem headLaneLoss_counts {s : State} {m : Fin 32} (lol : Bool) (n : Nat) (fitted : s.populated m = true) (link : s.headLinkUp = true) :
    Completes (.headLaneLoss m lol n) s (fun t => t.mode = s.mode ∧
      t.reg (Obj.codeErrors m) = countValue (Obj.codeErrors m) (s.reg (Obj.codeErrors m)) n ∧
      (s.laneUp m = true → t.reg (Obj.laneState m) = 3) ∧
      let k := if lol then Obj.lolCount m else Obj.losCount m
      t.reg k = countValue k (s.reg k) 1) := by
  generalize hk : (if lol then Obj.lolCount m else Obj.losCount m) = k
  have apart : k ∉ [Obj.laneState m, Obj.laneStatus m, Obj.retrains m] ∧ k ≠ Obj.codeErrors m := by
    subst hk
    cases lol <;> simp
  have index : k / 65536 = 0x24 := by
    subst hk
    cases lol
    · exact lane_index m 0x03
    · exact lane_index m 0x04
  obtain ⟨own, errs⟩ := apart
  have lone : Obj.laneState m ≠ k := by
    rintro rfl
    simp at own
  let u := (s.bump k).count (Obj.codeErrors m) n
  have runs : execHeadLaneLoss m lol n s =
      ok (if u.laneUp m then u.takeDown m (if lol then 2 else 1) else u.laneFlag m (if lol then 2 else 1)) := by
    subst hk
    exact if_neg (by simp [fitted, link])
  generalize (if lol then 2 else 1) = mask at runs
  have errors : u.reg (Obj.codeErrors m) = countValue (Obj.codeErrors m) (s.reg (Obj.codeErrors m)) n := by
    rw [State.reg_count_same, State.reg_bump_other _ errs.symm]
  have losses : u.reg k = countValue k (s.reg k) 1 := by
    rw [State.reg_count_other _ _ errs, State.reg_bump_same]
  have lane : u.reg (Obj.laneState m) = s.reg (Obj.laneState m) := by
    rw [State.reg_count_other _ _ (by simp), State.reg_bump_other _ lone]
  have mode : u.mode = s.mode := rfl
  have same : u.laneUp m = s.laneUp m := congrArg (fun v => decide (v = 2)) lane
  rw [same] at runs
  clear_value u
  refine ⟨_, runs, ?_⟩
  by_cases up : s.laneUp m = true
  · rw [if_pos up]
    refine ⟨(u.takeDown_mode m mask).trans mode, ?_, fun _ => u.takeDown_laneState m mask, ?_⟩
    · exact (u.takeDown_other m mask (lane_index m 0x05) (by simp)).trans errors
    · exact (u.takeDown_other m mask index own).trans losses
  · rw [if_neg up]
    refine ⟨mode, ?_, fun h => absurd h up, ?_⟩
    · exact (u.reg_setBits_other _ (by simp)).trans errors
    · exact (u.reg_setBits_other _ (fun h => own (by simp [h]))).trans losses

theorem State.resendCtrl_regsBut (s : State) (m : Nat) (l : List Ctrl) : s.regsBut (s.resendCtrl m l) [Obj.ctrlResends m] := by
  induction l generalizing s with
  | nil => exact .refl
  | cons c l ih => exact (ih _).step (State.bump_regsBut _ (Obj.ctrlResends m))

theorem ctrlResendTimeout_resends {s : State} {m : Fin 32} (up : s.laneUp m = true) (waits : (s.head m).unacked ≠ [])
    (few : ∀ c ∈ (s.head m).unacked, c.resends < 8) : Completes (.ctrlResendTimeout m) s (fun t => t.laneUp m = true ∧
      (t.head m).unacked = (s.head m).unacked.map (fun c => { c with resends := c.resends + 1 }) ∧ s.regsBut t [Obj.ctrlResends m]) := by
  let u := s.setHead m { s.head m with unacked := (s.head m).unacked.map (fun c => { c with resends := c.resends + 1 }) }
  have none8 : ¬ (s.head m).unacked.any (fun c => decide (8 ≤ c.resends)) = true := by
    simpa using few
  have runs : exec (.ctrlResendTimeout m) s = .next (u.resendCtrl m (s.head m).unacked) :=
    (if_neg (by simp [up, waits]) : execCtrlResendTimeout m s = _).trans (if_neg none8)
  have regs : s.regsBut (u.resendCtrl m (s.head m).unacked) [Obj.ctrlResends m] := u.resendCtrl_regsBut m _
  refine ⟨_, runs, ?_, ?_, regs⟩
  · rw [State.laneUp_iff, regs _ (by simp)]
    exact (s.laneUp_iff m).mp up
  · rw [State.head_congr ((State.resendCtrl_only ..).agree .heads (by decide)), State.head_setHead_same]

theorem ctrlResendTimeout_down {s : State} {m : Fin 32} (up : s.laneUp m = true) (waits : (s.head m).unacked ≠ [])
    (many : ∃ c ∈ (s.head m).unacked, 8 ≤ c.resends) : Completes (.ctrlResendTimeout m) s (fun t => t.reg (Obj.laneState m) = 3) := by
  have some8 : (s.head m).unacked.any (fun c => decide (8 ≤ c.resends)) = true := by
    simpa using many
  have runs : exec (.ctrlResendTimeout m) s = .next (s.takeDown m 0) :=
    (if_neg (by simp [up, waits]) : execCtrlResendTimeout m s = _).trans (if_pos some8)
  exact ⟨_, runs, s.takeDown_laneState m 0⟩

/-! ### Recovery (11 R280), and TIME frames (11 R263) -/

theorem headLaneRetrain_trains {s : State} {m : Fin 32} (down : s.reg (Obj.laneState m) = 3) (leave : s.hasLeave (.laneRetrain m) = true)
    (link : s.headLinkUp = true) : Completes (.headLaneRetrain m) s (fun t => t.reg (Obj.laneState m) = 1 ∧
      t.out = .train .head m (headTrain m) :: s.out ∧ s.regsBut t [Obj.laneState m] ∧ (t.head m).unacked = [] ∧
      (t.head m).slotOk = false) := by
  have runs : exec (.headLaneRetrain m) s = .next ((s.useLeave (.laneRetrain m)).startTraining m) :=
    (if_pos ⟨down, leave, link⟩ : execHeadLaneRetrain m s = _)
  have head := (s.useLeave (.laneRetrain m)).head_setHead_same m { s.head m with
    slotOk := false, idRaised := false, ctrlNext := 1, unacked := [], ready := false, trimOk := false }
  exact ⟨_, runs, State.reg_setReg_same .., rfl, fun k hk => State.reg_setReg_other _ _ (by simpa using hk),
    congrArg HeadLane.unacked head, congrArg HeadLane.slotOk head⟩

theorem recoverTimeExpiry_causes {s : State} {m : Fin 32} (recovering : (s.head m).recovering = true) (down : s.laneUp m = false) :
    Completes (.recoverTimeExpiry m) s (fun t => t = { s with regs := t.regs, heads := t.heads, flagged := t.flagged } ∧
      (t.head m).recovering = false ∧ s.regsBut t [Obj.snuffCause] ∧
      t.reg Obj.snuffCause = if s.configured then s.reg Obj.snuffCause ||| 64 else s.reg Obj.snuffCause) := by
  let u := s.setHead m { s.head m with recovering := false }
  have runs : exec (.recoverTimeExpiry m) s = .next (u.setCause Cause.lane) :=
    (if_pos (by simp [recovering, down]) : execRecoverTimeExpiry m s = _)
  have frame : Only [.regs, .heads, .flagged] s (u.setCause Cause.lane) :=
    (State.setCause_only ..).step (by decide) ((State.setHead_only ..).mono (by decide))
  refine ⟨_, runs, frame.eq_taking, ?_, u.setCause_regsBut Cause.lane, u.setCause_snuffCause Cause.lane⟩
  rw [State.head_congr ((State.setCause_only ..).agree .heads (by decide)), State.head_setHead_same]

theorem State.sendTimes_length (s : State) (l : List Nat) : (s.sendTimes l).out.length = s.out.length + l.length := by
  induction l generalizing s with
  | nil => rfl
  | cons m l ih =>
    have sent : (s.sendTime m).out.length = s.out.length + 1 := rfl
    rw [State.sendTimes, ih, sent, List.length_cons]
    omega

theorem timeFrameSend_sends {s : State} (working : s.mode.working = true) : Completes .timeFrameSend s (fun t =>
    t = { s with heads := t.heads, out := t.out } ∧ t.out.length = s.out.length + s.upLanes.length) :=
  ⟨_, (if_pos working : execTimeFrameSend s = _), (s.sendTimes_only s.upLanes).eq_taking, s.sendTimes_length _⟩

end Sys2Proof.Machine
end

section
/-! SUPPORT. O43 (11 R254 to R259, R275 to R281): what a STATUS frame leaves of its lane and its module, and O43 itself. -/

namespace Sys2Proof.Machine

/-! ### Lines in doubt and the lanes -/

theorem State.recordDue_sameLanes (s : State) : SameLanes s s.recordDue := by
  have groups (u : State) : SameLanes u (u.recordGroups (List.range 8)) := ⟨fun k hk => u.recordGroups_reg _ fun g hg => by
    have := List.mem_range.mp hg
    simp only [Obj.nextArmSeq, Obj.stopSeqGroup]
    omega⟩
  exact .ite (fun _ => (State.setReg_sameLanes _ _ (by decide)).step ((groups _).step ⟨fun _ _ => rfl⟩)) (fun _ => .refl)

/-- With no line in doubt, a module's report of what it has fired settles none. -/
theorem State.hearStatus_sameLanes {s : State} (settled : s.taper.unsettled = []) (m : Nat) (valid : Bool) (fired : Nat → Nat) :
    SameLanes s (s.hearStatus m valid fired) := by
  let u : State := { s with taper := { s.taper with unsettled := [] } }
  have hears : s.hearStatus m valid fired = u.recordDue := by
    have order : u.doubtOrder = [] := by simp [State.doubtOrder, u]
    unfold State.hearStatus
    rw [settled]
    show u.settleAll = _
    unfold State.settleAll
    rw [order]
    rfl
  rw [hears]
  exact u.recordDue_sameLanes.step ⟨fun _ _ => rfl⟩

/-! ### STATUS (11 R275 to R281) -/

/-- An object's content is kept with the others. -/
theorem State.dom_congr {s t : State} (h : t.doms = s.doms) (k : Nat) : t.dom k = s.dom k := by
  unfold State.dom
  rw [h]

theorem State.headCounters_regsBut (s : State) (m : Nat) (p : List Byte) : s.regsBut (s.headCounters m p)
    [Obj.headMissing m, Obj.headDuplicates m, Obj.headCrcErrors m, Obj.mateFires m] := fun k hk => by
  simp only [List.mem_cons, List.not_mem_nil, or_false, not_or] at hk
  obtain ⟨missing, duplicates, crc, fires⟩ := hk
  unfold State.headCounters
  extract_lets old new d s1 s2
  have h1 : s1.reg k = s.reg k := (State.reg_count_other _ _ duplicates).trans (State.reg_count_other _ _ missing)
  have h2 : s2.reg k = s1.reg k := (State.reg_count_other _ _ fires).trans (State.reg_count_other _ _ crc)
  exact ((State.setHead_only ..).reg (by decide) k).trans (h2.trans h1)

theorem State.headCounters_head (s : State) (m : Nat) (p : List Byte) :
    (s.headCounters m p).head m = { s.head m with seen := statusCounts p } := State.head_setHead_same ..

theorem State.takeAck_head (s : State) (m ack : Nat) : (s.takeAck m ack).head m =
    { s.head m with unacked := (s.head m).unacked.filter (fun c => decide (0 < dist32 c.seq ack)) } := State.head_setHead_same ..

/-- The counters, the acknowledgement and the alarm of a STATUS are taken. -/
def State.statusCounted (s : State) (m : Nat) (p : List Byte) (alarm : Bool) : State :=
  let s := (s.headCounters m p).takeAck m (field p 20 4)
  if alarm then s.setCause Cause.therm else s

theorem State.statusCounted_leaves (s : State) (m : Nat) (p : List Byte) (alarm : Bool) :
    Only [.regs, .heads, .flagged] s (s.statusCounted m p alarm) ∧
    (∃ l, (s.statusCounted m p alarm).head m = { s.head m with seen := statusCounts p, unacked := l }) ∧
    s.regsBut (s.statusCounted m p alarm)
      [Obj.headMissing m, Obj.headDuplicates m, Obj.headCrcErrors m, Obj.mateFires m, Obj.snuffCause] := by
  unfold State.statusCounted
  extract_lets u
  have frame : Only [.regs, .heads, .flagged] s u := (State.takeAck_only ..).step (by decide) ((s.headCounters_only m p).mono (by decide))
  have head : ∃ l, u.head m = { s.head m with seen := statusCounts p, unacked := l } :=
    ⟨_, by rw [State.takeAck_head, State.headCounters_head]⟩
  have regs : s.regsBut u [Obj.headMissing m, Obj.headDuplicates m, Obj.headCrcErrors m, Obj.mateFires m] :=
    fun k hk => ((State.takeAck_only ..).reg (by decide) k).trans (s.headCounters_regsBut m p k hk)
  clear_value u
  cases alarm with
  | false => exact ⟨frame, head, regs.mono⟩
  | true =>
    rw [if_pos rfl, State.head_congr ((u.setCause_only _).agree .heads (by decide))]
    exact ⟨(u.setCause_only _).step (by decide) frame, head, (u.setCause_regsBut Cause.therm).step regs⟩

/-- What a STATUS says of its module is noted, and then its reports and the lines that it has fired are taken. -/
theorem State.takeStatus_notes (s : State) (m : Nat) (p : List Byte) : ∃ u,
    s.takeStatus m p = (u.takeReports m p).hearStatus m (statusValid p) (statusFired p) ∧
    Only [.regs, .doms, .heads, .flagged] s u ∧ u.dom (Obj.lastStatus m) = p ∧
    (u.head m).ready = decide (field p 0 1 = 2) ∧ (u.head m).trimOk = decide (field p 24 4 = s.trimGen) ∧
    (u.head m).alarm = (field p 1 1).testBit 4 ∧
    u.reg (Obj.headState m) = field p 0 1 ∧ u.reg (Obj.trimAcked m) = field p 24 4 ∧ u.reg (Obj.laneState m) = s.reg (Obj.laneState m) := by
  unfold State.takeStatus
  extract_lets _ s1 s2 s3 alarm _ s4 s5 s6
  have h4 : Only [.regs, .doms, .heads, .flagged] s s4 := (State.setHead_only ..).step (by decide) ((State.setReg_only ..).step (by decide)
    ((State.setReg_only ..).step (by decide) ((State.setDom_only ..).step (by decide) ((State.setHead_only ..).mono (by decide)))))
  have head : s4.head m = { s3.head m with
      ready := decide (field p 0 1 = 2), trimOk := decide (field p 24 4 = s.trimGen), alarm := alarm } := State.head_setHead_same ..
  have dom : s4.dom (Obj.lastStatus m) = p := by
    have size : zeroDefaultSize (Obj.lastStatus m) = 0 := if_neg (by simp [Obj.lastStatus, Obj.densityTrim, Obj.placementTrim]; omega)
    have kept := s1.dom_setDom_same (Obj.lastStatus m) p
    rw [size] at kept
    refine kept.trans ?_
    split
    next empty => exact empty.symm
    next => rfl
  have lane : s4.reg (Obj.laneState m) = s.reg (Obj.laneState m) :=
    (State.reg_setReg_other _ _ (by simp)).trans (State.reg_setReg_other _ _ (by simp))
  have state : s4.reg (Obj.headState m) = field p 0 1 := (State.reg_setReg_other _ _ (by simp)).trans (State.reg_setReg_same ..)
  have trim : s4.reg (Obj.trimAcked m) = field p 24 4 := State.reg_setReg_same ..
  have counted : s6 = s4.statusCounted m p alarm := rfl
  obtain ⟨frame, ⟨l, same⟩, regs⟩ := s4.statusCounted_leaves m p alarm
  rw [counted]
  generalize s4.statusCounted m p alarm = u at frame same regs
  clear_value s4
  have away : ∀ j ∈ [0x01, 0x12, 0x1A], 0x240000 + j + 256 * m ∉
      [Obj.headMissing m, Obj.headDuplicates m, Obj.headCrcErrors m, Obj.mateFires m, Obj.snuffCause] := by
    simp [Obj.headMissing, Obj.headDuplicates, Obj.headCrcErrors, Obj.mateFires, Obj.snuffCause]
    omega
  refine ⟨u, rfl, frame.step (by decide) h4, (State.dom_congr (frame.agree .doms (by decide)) _).trans dom, ?_, ?_, ?_,
    (regs _ (away 0x12 (by decide))).trans state, (regs _ (away 0x1A (by decide))).trans trim, (regs _ (away 0x01 (by decide))).trans lane⟩
  · rw [same, head]
  · rw [same, head]
  · rw [same, head]

theorem State.takeReports_none {p : List Byte} (none : field p 3 1 = 0) (s : State) (m : Nat) : s.takeReports m p = s := by
  unfold State.takeReports statusReports
  rw [none]
  rfl

/-- A STATUS that is heard: what its module is told to be, and with no line in doubt and no nozzle reported the frame itself. -/
theorem State.takeStatus_hears (s : State) (m : Fin 32) (p : List Byte) : (s.takeStatus m p).mode = s.mode ∧
    ((s.takeStatus m p).head m).ready = decide (field p 0 1 = 2) ∧ ((s.takeStatus m p).head m).trimOk = decide (field p 24 4 = s.trimGen) ∧
    ((s.takeStatus m p).head m).alarm = (field p 1 1).testBit 4 ∧
    (s.taper.unsettled = [] → field p 3 1 = 0 → (s.takeStatus m p).dom (Obj.lastStatus m) = p ∧
      (s.takeStatus m p).reg (Obj.headState m) = field p 0 1 ∧ (s.takeStatus m p).reg (Obj.trimAcked m) = field p 24 4 ∧
      (s.takeStatus m p).reg (Obj.laneState m) = s.reg (Obj.laneState m)) := by
  obtain ⟨u, takes, frame, dom, ready, trimOk, alarm, state, trim, lane⟩ := s.takeStatus_notes m p
  have taken := (u.takeReports m p).hearStatus_only m (statusValid p) (statusFired p)
  have heads : (s.takeStatus m p).heads = u.heads := by
    rw [takes, taken.agree .heads (by decide), (u.takeReports_only m p).agree .heads (by decide)]
  refine ⟨(s.takeStatus_only m p).agree .mode (by decide), ?_, ?_, ?_, fun settled none => ?_⟩
  · rw [State.head_congr heads, ready]
  · rw [State.head_congr heads, trimOk]
  · rw [State.head_congr heads, alarm]
  · rw [State.takeReports_none none] at takes
    have lanes := State.hearStatus_sameLanes ((congrArg Taper.unsettled (frame.agree .taper (by decide))).trans settled) m (statusValid p)
      (statusFired p)
    rw [takes]
    refine ⟨?_, (lanes.reg _ (lane_index m 0x12)).trans state, (lanes.reg _ (lane_index m 0x1A)).trans trim,
      (lanes.reg _ (lane_index m 0x01)).trans lane⟩
    exact (State.dom_congr ((State.hearStatus_only ..).agree .doms (by decide)) _).trans dom

theorem State.laneComesUp_up (s : State) (m : Nat) (p : List Byte) : (s.laneComesUp m p).laneUp m = true := by
  have frame : Only [.heads, .out] (s.setReg (Obj.laneState m) 2) (s.laneComesUp m p) := by
    unfold State.laneComesUp
    extract_lets s1 _ s2 s3 s4 s5
    have h3 : Only [.heads, .out] s1 s3 := (State.sendCtrl_only ..).step (by decide) ((State.setHead_only ..).mono (by decide))
    have h4 : Only [.heads, .out] s1 s4 := .ite (fun _ => h3) (fun _ => (State.sendTrim_only ..).step (by decide) h3)
    exact .foldl (fun t r => (t.resendStrip_only _).mono (by decide)) ((State.sendCtrl_only ..).step (by decide) h4)
  rw [State.laneUp_iff, frame.reg (by decide), State.reg_setReg_same]

section
variable {s : State} {m : Fin 32} {n : Nat} {chars : List Sym} (link : s.headLinkUp = true) (fitted : s.populated m = true)
include link fitted

/-- A frame whose delimiters, type, length or check value are wrong. -/
theorem status_wrong (wrong : statusPayload m chars = none) : Completes (.status m n chars) s (fun t => t = { s with regs := t.regs } ∧
    s.regsBut t [Obj.frameErrors m, Obj.codeErrors m] ∧
    t.reg (Obj.codeErrors m) = countValue (Obj.codeErrors m) (s.reg (Obj.codeErrors m)) (n + strayControls chars) ∧
    t.reg (Obj.frameErrors m) = countValue (Obj.frameErrors m) (s.reg (Obj.frameErrors m)) 1) := by
  let u := s.count (Obj.codeErrors m) (n + strayControls chars)
  have runs : execStatus m n chars s = ok (u.bump (Obj.frameErrors m)) := by
    unfold execStatus
    rw [if_neg (by simp [link, fitted]), wrong]
  refine ⟨_, runs, rfl, ?_, ?_, ?_⟩
  · exact (u.bump_regsBut (Obj.frameErrors m)).step (s.setReg_regsBut (Obj.codeErrors m) _)
  · rw [State.reg_bump_other _ (by simp), State.reg_count_same]
  · rw [State.reg_bump_same, State.reg_count_other _ _ (by simp)]

/-- Its code errors counted, a frame on an up lane is heard. -/
theorem status_heard {p : List Byte} (whole : statusPayload m chars = some p) (up : s.laneUp m = true) (good : statusBad p = false) :
    Completes (.status m n chars) s (fun t => t.mode = s.mode ∧
      (t.head m).ready = decide (field p 0 1 = 2) ∧ (t.head m).trimOk = decide (field p 24 4 = s.trimGen) ∧
      (t.head m).alarm = (field p 1 1).testBit 4 ∧ (s.taper.unsettled = [] → field p 3 1 = 0 → t.dom (Obj.lastStatus m) = p ∧
        t.reg (Obj.headState m) = field p 0 1 ∧ t.reg (Obj.trimAcked m) = field p 24 4 ∧ t.laneUp m = true)) := by
  let u := s.count (Obj.codeErrors m) (n + strayControls chars)
  have lane : u.reg (Obj.laneState m) = 2 := (State.reg_count_other _ _ (by simp)).trans ((s.laneUp_iff m).mp up)
  have runs : execStatus m n chars s = ok (u.takeStatus m p) := by
    unfold execStatus
    rw [if_neg (by simp [link, fitted]), whole]
    dsimp only
    rw [if_pos ((u.laneUp_iff m).mpr lane), good]
    rfl
  obtain ⟨mode, ready, trimOk, alarm, kept⟩ := u.takeStatus_hears m p
  refine ⟨_, runs, mode, ready, trimOk, alarm, fun settled none => ?_⟩
  obtain ⟨dom, state, trim, same⟩ := kept settled none
  exact ⟨dom, state, trim, (State.laneUp_iff ..).mpr (same.trans lane)⟩

/-- A frame brings up a training lane whose module has answered with the lane's number, and FWD_FAULT or BUF_OVF in it does not take the lane
down again (log entry 67). -/
theorem status_bringsUp {p : List Byte} (whole : statusPayload m chars = some p) (training : s.reg (Obj.laneState m) = 1)
    (slot : (s.head m).slotOk = true) (decided : s.twin.roleDecided = true) :
    Completes (.status m n chars) s (fun t => t.mode = s.mode ∧ t.laneUp m = true) := by
  let u := s.count (Obj.codeErrors m) (n + strayControls chars)
  have lane : u.reg (Obj.laneState m) = 1 := (State.reg_count_other _ _ (by simp)).trans training
  have down : ¬ u.laneUp m = true := by
    rw [State.laneUp_iff, lane]
    decide
  have runs : execStatus m n chars s = ok ((u.takeStatus m p).laneComesUp m p) := by
    unfold execStatus
    rw [if_neg (by simp [link, fitted]), whole]
    dsimp only
    rw [if_neg down, if_pos ⟨lane, slot, decided⟩]
  refine ⟨_, runs, ?_, State.laneComesUp_up ..⟩
  rw [(State.laneComesUp_only ..).agree .mode (by decide), (State.takeStatus_only ..).agree .mode (by decide)]
  rfl

end

/-- Settles O43, a lemma for each command, and three for STATUS. -/
theorem headLanesComeUpAndGoDown : Obligations.HeadLanesComeUpAndGoDown := fun _ _ =>
  ⟨fun _ _ => headTrainReply_reads, headLaneTimeout_down,
    fun _ _ link fitted => ⟨status_wrong link fitted, fun _ => status_heard link fitted, fun _ => status_bringsUp link fitted⟩,
    statusTimeout_down, headLaneLoss_counts,
    fun up waits => ⟨ctrlResendTimeout_resends up waits, ctrlResendTimeout_down up waits⟩,
    headLaneRetrain_trains, recoverTimeExpiry_causes, timeFrameSend_sends⟩

end Sys2Proof.Machine
end

section
/-! SUPPORT. O44 (12 R287, R290, R291, R300): the twin lanes, what a change of the link leaves, and frames that are dropped. -/

namespace Sys2Proof.Machine

/-! ### What has been sent stays sent -/

theorem State.sendEach_mem {s : State} {o : Out} (h : o ∈ s.out) (ty tag : Nat) (p : List Byte) (l : List Session) :
    o ∈ (s.sendEach ty tag p l).out := by
  induction l generalizing s with
  | nil => exact h
  | cons x l ih =>
    refine ih ?_
    unfold State.sendIn
    split
    · exact h
    · exact .tail _ h

theorem State.logEvent_mem {s : State} {o : Out} (h : o ∈ s.out) (code : Nat) (detail : List Byte) : o ∈ (s.logEvent code detail).out :=
  State.sendEach_mem (by rwa [(State.ylogWrite_only ..).agree .out (by decide)]) ..

theorem State.twinEvent_mem {s : State} {o : Out} (h : o ∈ s.out) (bit : Nat) (code : Option Nat) (detail : List Byte) :
    o ∈ (s.twinEvent bit code detail).out := by
  unfold State.twinEvent
  cases code with
  | none => exact h
  | some c => exact State.logEvent_mem (s := s.setBits Obj.twinEvents (2 ^ bit)) h c detail

theorem State.afterLink_mem {s : State} {o : Out} (h : o ∈ s.out) (was : Bool) : o ∈ (s.afterLink was).out := by
  unfold State.afterLink
  split
  · exact h
  · split
    · rwa [(State.setCause_only ..).agree .out (by decide)]
    · split
      · exact State.twinEvent_mem h ..
      · exact h

/-! ### Events of the link (12 R300) -/

theorem State.twinEvent_sameLanes (s : State) (bit : Nat) (code : Option Nat) (detail : List Byte) :
    SameLanes s (s.twinEvent bit code detail) := by
  have marked : SameLanes s (s.setBits Obj.twinEvents (2 ^ bit)) := s.setBits_sameLanes _ (by decide)
  cases code with
  | none => exact marked
  | some c => exact (State.logEvent_sameLanes ..).step marked

theorem State.afterLink_sameLanes (was : Bool) (s : State) : SameLanes s (s.afterLink was) :=
  .ite (fun _ => .refl) (fun _ => .ite (fun _ => s.setCause_sameLanes _) (fun _ => .ite (fun _ => s.twinEvent_sameLanes ..) (fun _ => .refl)))

/-- A link that was not healthy has not failed. -/
theorem State.afterLink_sick (s : State) : s.afterLink false = s := if_pos (.inl rfl)

/-- A healthy link has failed in a working mode. -/
theorem State.afterLink_fails {s : State} (sick : s.twinHealthy = false) (working : s.mode.working = true) : s.afterLink true =
    if s.role = .mate ∧ s.pins.aliveIn = true then s.setCause Cause.twin else if s.role = .primary then s.mateLost else s :=
  if_neg (by simp [sick, working])

/-- An event of the link has its bit set. -/
theorem State.twinEvent_testBit (s : State) (bit : Nat) (code : Option Nat) (detail : List Byte) :
    ((s.twinEvent bit code detail).reg Obj.twinEvents).testBit bit = true := by
  have marked : (s.setBits Obj.twinEvents (2 ^ bit)).reg Obj.twinEvents = s.reg Obj.twinEvents ||| 2 ^ bit := State.reg_setBits_same ..
  have kept : (s.twinEvent bit code detail).reg Obj.twinEvents = s.reg Obj.twinEvents ||| 2 ^ bit := by
    cases code with
    | none => exact marked
    | some c => exact (State.logEvent_reg _ _ _ (by decide)).trans marked
  rw [kept, Nat.testBit_or, Nat.testBit_two_pow_self, Bool.or_true]

/-! ### Lanes (12 R290, 11 R254) -/

/-- An object of a twin lane. -/
theorem twinLane_index (l : Fin 2) (j : Nat) (low : j < 256 := by decide) : (0x240000 + j + 256 * (32 + l)) / 65536 = 0x24 := by omega

theorem State.lockAt_regsBut (s : State) (inv ctle dfe : Nat) : s.regsBut (s.lockAt inv ctle dfe) [inv, ctle, dfe] := fun k hk => by
  simp only [List.mem_cons, List.not_mem_nil, or_false, not_or] at hk
  obtain ⟨hinv, hctle, hdfe⟩ := hk
  exact (State.reg_setReg_other _ _ hdfe).trans ((State.reg_setReg_other _ _ hctle).trans (State.reg_setReg_other _ _ hinv))

theorem State.twinLane_laneState (s : State) (l : Nat) (up : Bool) :
    (s.twinLane l up).reg (Obj.laneState (32 + l)) = if up then 2 else 3 := by
  unfold State.twinLane
  cases up with
  | false => exact State.reg_setReg_same ..
  | true => exact (State.lockAt_regsBut _ _ _ _ _ (by simp)).trans (State.reg_setReg_same ..)

theorem State.twinLane_regsBut (s : State) (l : Nat) (up : Bool) : s.regsBut (s.twinLane l up)
    [Obj.laneState (32 + l), Obj.rxInverted (32 + l), Obj.ctleCode (32 + l), Obj.dfeTaps (32 + l)] := by
  unfold State.twinLane
  cases up with
  | false => exact (s.setReg_regsBut _ _).mono
  | true => exact (State.lockAt_regsBut _ _ _ _).step (s.setReg_regsBut (Obj.laneState (32 + l)) 2)

theorem twinLinkUp_sets {s : State} (a b r : Bool) (runs : s.twinRuns = true) (sick : s.twinHealthy = false) :
    Completes (.twinLinkUp a b r) s (fun t => t.mode = s.mode ∧ t.twin = { s.twin with lane0 := a, lane1 := b, reversed := r } ∧
      t.reg (Obj.laneState 32) = (if a then 2 else 3) ∧ t.reg (Obj.laneState 33) = (if b then 2 else 3) ∧
      (a ≠ b → (t.reg Obj.twinEvents).testBit 2 = true)) := by
  let v := (s.twinLane 0 a).twinLane 1 b
  have frame : Only [.regs, .freeCtr] s v := (State.twinLane_only ..).trans (s.twinLane_only 0 a)
  have lane0 : v.reg (Obj.laneState 32) = if a then 2 else 3 :=
    ((s.twinLane 0 a).twinLane_regsBut 1 b _ (by decide)).trans (s.twinLane_laneState 0 a)
  have lane1 : v.reg (Obj.laneState 33) = if b then 2 else 3 := State.twinLane_laneState _ 1 b
  let u : State := { v with twin := { v.twin with lane0 := a, lane1 := b, reversed := r } }
  have answers : execTwinLinkUp a b r s = ok (if a ≠ b then u.twinEvent 2 none [] else u) := by
    unfold execTwinLinkUp
    rw [if_pos runs, sick]
    exact congrArg ok (State.afterLink_sick _)
  have twin : u.twin = { s.twin with lane0 := a, lane1 := b, reversed := r } := by
    rw [← frame.agree .twin (by decide)]
  have mode : u.mode = s.mode := frame.agree .mode (by decide)
  change u.reg _ = _ at lane0 lane1
  clear_value u
  have event : Only [.regs, .igrel, .ylog, .out, .flagged] u (if a ≠ b then u.twinEvent 2 none [] else u) :=
    .ite (fun _ => State.twinEvent_only ..) (fun _ => .refl)
  have lanes : SameLanes u (if a ≠ b then u.twinEvent 2 none [] else u) := .ite (fun _ => u.twinEvent_sameLanes ..) (fun _ => .refl)
  refine ⟨_, answers, ?_, ?_, ?_, ?_, fun differ => ?_⟩
  · rw [event.agree .mode (by decide), mode]
  · rw [event.agree .twin (by decide), twin]
  · rw [lanes.reg _ (by decide), lane0]
  · rw [lanes.reg _ (by decide), lane1]
  · rw [if_pos differ]
    exact u.twinEvent_testBit 2 none []

/-- A lane that is lost has its losses, its retrains and its code errors counted, and sends its training pattern. -/
def State.lostLane (s : State) (l n : Nat) : State :=
  let s := ((s.setReg (Obj.laneState (32 + l)) 1).bump (Obj.losCount (32 + l))).bump (Obj.retrains (32 + l))
  let s := (s.setBits (Obj.laneStatus (32 + l)) 1).count (Obj.codeErrors (32 + l)) n
  s.emit (.train .twin l (linkTrain l))

theorem State.lostLane_only (s : State) (l n : Nat) : Only [.regs, .out, .flagged] s (s.lostLane l n) :=
  (State.emit_only ..).step (by decide) ((State.count_only ..).step (by decide) ((State.setBits_only ..).step (by decide)
    ((State.bump_only ..).step (by decide) ((State.bump_only ..).step (by decide) ((State.setReg_only ..).mono (by decide))))))

theorem State.lostLane_counts (s : State) (l n : Nat) : (s.lostLane l n).reg (Obj.laneState (32 + l)) = 1 ∧
    (s.lostLane l n).reg (Obj.codeErrors (32 + l)) = countValue (Obj.codeErrors (32 + l)) (s.reg (Obj.codeErrors (32 + l))) n ∧
    (s.lostLane l n).reg (Obj.retrains (32 + l)) = countValue (Obj.retrains (32 + l)) (s.reg (Obj.retrains (32 + l))) 1 := by
  unfold State.lostLane
  simp only [(State.emit_only ..).reg (by decide : Fld.regs ∉ [Fld.out])]
  refine ⟨?_, ?_, ?_⟩
  · rw [State.reg_count_other _ _ (by simp), State.reg_setBits_other _ _ (by simp), State.reg_bump_other _ (by simp),
      State.reg_bump_other _ (by simp), State.reg_setReg_same]
  · rw [State.reg_count_same, State.reg_setBits_other _ _ (by simp), State.reg_bump_other _ (by simp),
      State.reg_bump_other _ (by simp), State.reg_setReg_other _ _ (by simp)]
  · rw [State.reg_count_other _ _ (by simp), State.reg_setBits_other _ _ (by simp), State.reg_bump_same,
      State.reg_bump_other _ (by simp), State.reg_setReg_other _ _ (by simp)]

/-- The twin link without one of its lanes. -/
def Twin.without (x : Twin) (l : Fin 2) : Twin := if l = 0 then { x with lane0 := false } else { x with lane1 := false }

theorem twinLaneLoss_trains {s : State} (l : Fin 2) (n : Nat) (up : (if l = 0 then s.twin.lane0 else s.twin.lane1) = true) :
    Completes (.twinLaneLoss l n) s (fun t => t.twin = s.twin.without l ∧ t.mode = s.mode ∧
      t.reg (Obj.laneState (32 + l)) = 1 ∧ .train .twin l (linkTrain l) ∈ t.out ∧
      t.reg (Obj.codeErrors (32 + l)) = countValue (Obj.codeErrors (32 + l)) (s.reg (Obj.codeErrors (32 + l))) n ∧
      t.reg (Obj.retrains (32 + l)) = countValue (Obj.retrains (32 + l)) (s.reg (Obj.retrains (32 + l))) 1) := by
  let u := ({ s with twin := s.twin.without l } : State).lostLane l n
  have runs : execTwinLaneLoss l n s = ok ((if u.twinUp then u.twinEvent 2 none [] else u).afterLink s.twinHealthy) := if_pos up
  have frame := ({ s with twin := s.twin.without l } : State).lostLane_only l n
  obtain ⟨state, errors, retrains⟩ := ({ s with twin := s.twin.without l } : State).lostLane_counts l n
  have twin : u.twin = s.twin.without l := frame.agree .twin (by decide)
  have mode : u.mode = s.mode := frame.agree .mode (by decide)
  have sent : .train .twin l (linkTrain l) ∈ u.out := .head _
  change u.reg _ = _ at state errors retrains
  clear_value u
  have event : Only [.regs, .igrel, .ylog, .out, .flagged] u (if u.twinUp then u.twinEvent 2 none [] else u) :=
    .ite (fun _ => State.twinEvent_only ..) (fun _ => .refl)
  have lanes : SameLanes u (if u.twinUp then u.twinEvent 2 none [] else u) := .ite (fun _ => u.twinEvent_sameLanes ..) (fun _ => .refl)
  have still : .train .twin l (linkTrain l) ∈ (if u.twinUp then u.twinEvent 2 none [] else u).out := by
    split
    · exact State.twinEvent_mem sent ..
    · exact sent
  generalize (if u.twinUp then u.twinEvent 2 none [] else u) = w at runs event lanes still
  have after := w.afterLink_only s.twinHealthy
  replace lanes := (w.afterLink_sameLanes s.twinHealthy).step lanes
  refine ⟨_, runs, ?_, ?_, ?_, State.afterLink_mem still _, ?_, ?_⟩
  · rw [after.agree .twin (by decide), event.agree .twin (by decide), twin]
  · rw [after.agree .mode (by decide), event.agree .mode (by decide), mode]
  · rw [lanes.reg _ (twinLane_index l 0x01), state]
  · rw [lanes.reg _ (twinLane_index l 0x05), errors]
    rfl
  · rw [lanes.reg _ (twinLane_index l 0x08), retrains]
    rfl

/-! ### Frames that are dropped (12 R291) -/

theorem State.dropTwinFrame_drops {s : State} (up : s.twinUp = true) :
    s.dropTwinFrame.twin = { s.twin with dropAt := some s.clock.cycles } ∧ s.dropTwinFrame.mode = s.mode ∧
    SameLanes (s.bump (Obj.frameErrors 32)) s.dropTwinFrame := by
  let u : State := { s with twin := { s.twin with dropAt := some s.clock.cycles } }
  have drops : s.dropTwinFrame = (u.bump (Obj.frameErrors 32)).afterLink s.twinHealthy := if_pos up
  have after := (u.bump (Obj.frameErrors 32)).afterLink_only s.twinHealthy
  have lanes := (u.bump (Obj.frameErrors 32)).afterLink_sameLanes s.twinHealthy
  rw [drops]
  exact ⟨after.agree .twin (by decide), after.agree .mode (by decide), lanes.step ⟨fun _ _ => rfl⟩⟩

theorem twinFrameDrop_drops {s : State} (errors : List Nat) (up : s.twinUp = true) :
    Completes (.twinFrameDrop errors) s (fun t => t.twin = { s.twin with dropAt := some s.clock.cycles } ∧ t.mode = s.mode ∧
      t.reg (Obj.frameErrors 32) = countValue (Obj.frameErrors 32) (s.reg (Obj.frameErrors 32)) 1) ∧
    Completes (.twinFrameDrop errors) s (fun t =>
      t.reg (Obj.codeErrors 32) = countValue (Obj.codeErrors 32) (s.reg (Obj.codeErrors 32)) (errors.getD 0 0) ∧
      t.reg (Obj.codeErrors 33) = countValue (Obj.codeErrors 33) (s.reg (Obj.codeErrors 33)) (errors.getD 1 0)) := by
  let u := (s.count (Obj.codeErrors 32) (errors.getD 0 0)).count (Obj.codeErrors 33) (errors.getD 1 0)
  have runs : execTwinFrameDrop errors s = ok u.dropTwinFrame := if_pos up
  obtain ⟨twin, mode, lanes⟩ := State.dropTwinFrame_drops (s := u) up
  refine ⟨⟨_, runs, twin, mode, ?_⟩, ⟨_, runs, ?_, ?_⟩⟩
  · rw [lanes.reg _ (by decide), State.reg_bump_same, State.reg_count_other _ _ (by decide), State.reg_count_other _ _ (by decide)]
  · rw [lanes.reg _ (by decide), State.reg_bump_other _ (by decide), State.reg_count_other _ _ (by decide), State.reg_count_same]
  · rw [lanes.reg _ (by decide), State.reg_bump_other _ (by decide), State.reg_count_same, State.reg_count_other _ _ (by decide)]

end Sys2Proof.Machine
end

section
/-! SUPPORT. O44 (12 R287, R291, R300): HEARTBEAT, the role decision of KINDLE, the end of a healthy link, and O44 itself. -/

namespace Sys2Proof.Machine

theorem heartbeatSend_sends {s : State} (runs : s.twinRuns = true) (up : s.twinUp = true) (configured : s.configured = true) :
    Completes .heartbeatSend s (fun t => t = { s with out := s.twin.frame 0x01 s.heartbeatBytes :: s.out }) := by
  have twin : s.strapped ≠ .solo := by
    unfold State.twinRuns at runs
    simpa using (Bool.and_eq_true_iff.mp runs).1
  have sends : exec .heartbeatSend s = .next (s.twinSend 0x01 s.heartbeatBytes) :=
    (if_pos (by simp [runs, up, configured]) : execHeartbeatSend s = _)
  exact ⟨_, sends, if_pos ⟨twin, up⟩⟩

/-! ### A HEARTBEAT that is received (12 R287, R291) -/

theorem heartbeat_wrongLength {s : State} {p : List Byte} (runs : s.twinRuns = true) (up : s.twinUp = true) (short : p.length ≠ 56)
    (long : p.length ≠ 440) : Completes (.heartbeat p) s (fun t => t.twin = { s.twin with dropAt := some s.clock.cycles } ∧
      t.mode = s.mode ∧ t.reg (Obj.frameErrors 32) = countValue (Obj.frameErrors 32) (s.reg (Obj.frameErrors 32)) 1) := by
  have drops : exec (.heartbeat p) s = .next s.dropTwinFrame :=
    (if_neg (by simp [runs, up]) : execHeartbeat p s = _).trans (if_pos ⟨short, long⟩)
  obtain ⟨twin, mode, lanes⟩ := State.dropTwinFrame_drops up
  refine ⟨_, drops, twin, mode, ?_⟩
  rw [lanes.reg _ (by decide), State.reg_bump_same]

/-- A HEARTBEAT is kept with its time, and with what the link and the digests were at it. -/
def State.keepsHeartbeat (s : State) (p : List Byte) (healthy same : Bool) : State :=
  { s with twin := { s.twin with hbAt := some s.clock.cycles, partner := p, healthyAtHb := healthy, digestOk := same } }

/-- After the role decision nothing of the role or the link is for a HEARTBEAT to change. -/
theorem State.hearPartner_decides (s : State) (p : List Byte) : ∃ healthy same,
    Only [.regs, .igrel, .ylog, .out, .flagged] (s.keepsHeartbeat p healthy same).decideRole (s.hearPartner p) := by
  refine ⟨State.twinHealthy { s with twin := { s.twin with hbAt := some s.clock.cycles, partner := p } },
    State.digestMatch { s with twin := { s.twin with hbAt := some s.clock.cycles, partner := p } }, ?_⟩
  unfold State.hearPartner
  extract_lets wasSnuff wasConflict _ s1 healthy same _ s2 s3 s4
  have h3 : Only [.regs, .igrel, .ylog, .out, .flagged] s2.decideRole s3 := (State.checkDigest_only _).mono (by decide)
  have h4 : Only [.regs, .igrel, .ylog, .out, .flagged] s2.decideRole s4 := .ite (fun _ => s3.mateLost_only.trans h3) (fun _ => h3)
  exact .ite (fun _ => (State.twinEvent_only ..).trans h4) (fun _ => h4)

/-- The decision writes no more of the link than that it has been made. -/
theorem State.decideRole_link (s : State) : s.decideRole.twin.hbAt = s.twin.hbAt ∧ s.decideRole.twin.partner = s.twin.partner := by
  unfold State.decideRole
  split
  · exact ⟨rfl, rfl⟩
  · exact ⟨rfl, rfl⟩

theorem State.decideRole_decided {s : State} (decided : s.mode ≠ .kindle ∨ s.twin.roleDecided = true) : s.decideRole = s :=
  if_neg fun ⟨kindle, not⟩ => decided.elim (absurd kindle) (fun yes => by simp [not] at yes)

/-- A chip that decides by a partner's HEARTBEAT is the mate where the partner is PRIMARY in PILOT, TRIM or LIT, of its own revision and
firmware (R287, R1). -/
theorem State.decideRole_first {s : State} (kindle : s.mode = .kindle) (first : s.twin.roleDecided = false) (heard : s.twin.partner ≠ []) :
    s.decideRole.twin.roleDecided = true ∧ s.decideRole.role =
      if field s.twin.partner 0 1 = 1 ∧ field s.twin.partner 1 1 ∈ [2, 3, 4] ∧ field s.twin.partner 8 2 = s.reg Obj.siliconRev ∧
        field s.twin.partner 12 4 = s.reg Obj.fwVersion then Role.mate else s.role := by
  unfold State.decideRole
  rw [if_pos ⟨kindle, first⟩]
  refine ⟨rfl, if_congr ?_ rfl rfl⟩
  unfold State.partnerRole State.partnerMode State.versionMatch State.heard
  simp [heard, and_assoc]

section
variable (s : State) (p : List Byte)

theorem State.hearPartner_link : (s.hearPartner p).twin.hbAt = some s.clock.cycles ∧ (s.hearPartner p).twin.partner = p := by
  obtain ⟨healthy, same, decides⟩ := s.hearPartner_decides p
  rw [decides.agree .twin (by decide)]
  exact (s.keepsHeartbeat p healthy same).decideRole_link

theorem State.hearPartner_decided (decided : s.mode ≠ .kindle ∨ s.twin.roleDecided = true) : (s.hearPartner p).role = s.role := by
  obtain ⟨healthy, same, decides⟩ := s.hearPartner_decides p
  rw [decides.agree .role (by decide), State.decideRole_decided (s := s.keepsHeartbeat p healthy same) decided]
  rfl

theorem State.hearPartner_first (kindle : s.mode = .kindle) (first : s.twin.roleDecided = false) (heard : p ≠ []) :
    (s.hearPartner p).twin.roleDecided = true ∧ (s.hearPartner p).role =
      if field p 0 1 = 1 ∧ field p 1 1 ∈ [2, 3, 4] ∧ field p 8 2 = s.reg Obj.siliconRev ∧ field p 12 4 = s.reg Obj.fwVersion then Role.mate
      else s.role := by
  obtain ⟨healthy, same, decides⟩ := s.hearPartner_decides p
  rw [decides.agree .twin (by decide), decides.agree .role (by decide)]
  exact State.decideRole_first (s := s.keepsHeartbeat p healthy same) kindle first heard

/-- Asking to join is no more of the link than what was asked with. -/
theorem State.askJoin_asks : ∃ a, s.askJoin.twin = { s.twin with asked := a } := by
  unfold State.askJoin
  extract_lets key
  split
  · exact ⟨_, rfl⟩
  · split
    · exact ⟨_, (State.twinSend_only ..).agree .twin (by decide)⟩
    · exact ⟨s.twin.asked, rfl⟩

end

theorem heartbeat_heard {s : State} {p : List Byte} (runs : s.twinRuns = true) (up : s.twinUp = true)
    (length : p.length = 56 ∨ p.length = 440) (free : (field p 2 2).testBit 2 = false) :
    Completes (.heartbeat p) s (fun t => t.mode = s.mode ∧ t.pins = s.pins ∧ t.twin.hbAt = some s.clock.cycles ∧ t.twin.partner = p ∧
      (s.mode ≠ .kindle ∨ s.twin.roleDecided = true → t.role = s.role) ∧
      (s.mode = .kindle → s.twin.roleDecided = false → t.twin.roleDecided = true ∧ t.role =
        if field p 0 1 = 1 ∧ field p 1 1 ∈ [2, 3, 4] ∧ field p 8 2 = s.reg Obj.siliconRev ∧ field p 12 4 = s.reg Obj.fwVersion then Role.mate
        else s.role)) := by
  have heard : p ≠ [] := by
    rintro rfl
    simp at length
  have kept := s.hearPartner_only p
  obtain ⟨time, partner⟩ := s.hearPartner_link p
  have decided := s.hearPartner_decided p
  have first := fun kindle first => s.hearPartner_first p kindle first heard
  have flags : ¬ (s.hearPartner p).partnerFlags.testBit 2 = true := by
    unfold State.partnerFlags
    simp [partner, free]
  have answers : exec (.heartbeat p) s = .next (s.hearPartner p).askJoin :=
    ((if_neg (by simp [runs, up]) : execHeartbeat p s = _).trans (if_neg fun ⟨short, long⟩ => length.elim short long)).trans
      (congrArg ok (if_neg flags))
  generalize s.hearPartner p = v at answers kept time partner decided first
  have asks := v.askJoin_only
  obtain ⟨a, asked⟩ := v.askJoin_asks
  have role : v.askJoin.role = v.role := asks.agree .role (by decide)
  refine ⟨_, answers, ?_, ?_, ?_⟩
  · rw [asks.agree .mode (by decide), kept.agree .mode (by decide)]
  · rw [asks.agree .pins (by decide), kept.agree .pins (by decide)]
  · rw [asked, role]
    exact ⟨time, partner, decided, first⟩

/-! ### Silence (12 R287, R291, R300) -/

theorem State.mateLost_logs {s u : State} (alike : LogsAlike s u) (clock : u.clock = s.clock) : s.logs u.mateLost Ev.mateLost [] := by
  have marked : LogsAlike u (u.setBits Obj.twinEvents (2 ^ 1)) := .of_other (State.setBits_only ..) (by decide) fun k hk =>
    State.reg_setBits_other _ _ (by rintro rfl; exact absurd hk (by decide))
  exact State.logEvent_logs (marked.step alike) clock _ _

theorem heartbeatTimeout_fails {s : State} : Completes .heartbeatTimeout s (fun t => t.twin = { s.twin with hbAt := none } ∧
    t.mode = s.mode ∧ t.role = s.role ∧
    (s.twinHealthy = true → s.mode.working = true → s.role = .mate → s.pins.aliveIn = true → s.configured = true →
      t.reg Obj.snuffCause = s.reg Obj.snuffCause ||| 2 ^ Cause.twin) ∧
    (s.twinHealthy = true → s.mode.working = true → s.role = .primary →
      (t.reg Obj.twinEvents).testBit 1 = true ∧ s.logs t Ev.mateLost [])) := by
  let u : State := { s with twin := { s.twin with hbAt := none } }
  have sick : u.twinHealthy = false := by simp [State.twinHealthy, u]
  have frame := u.afterLink_only s.twinHealthy
  refine ⟨u.afterLink s.twinHealthy, rfl, frame.agree .twin (by decide), frame.agree .mode (by decide), frame.agree .role (by decide),
    fun healthy working mate alive configured => ?_, fun healthy working primary => ?_⟩
  · rw [healthy, State.afterLink_fails sick working, if_pos ⟨mate, alive⟩]
    exact u.setCause_sets _ configured
  · have other : ¬ (u.role = .mate ∧ u.pins.aliveIn = true) := fun ⟨mate, _⟩ => by simp [u, primary] at mate
    rw [healthy, State.afterLink_fails sick working, if_neg other, if_pos primary]
    exact ⟨u.twinEvent_testBit 1 _ _, State.mateLost_logs (.of_eq rfl rfl) rfl⟩

theorem roleDecisionTimeout_decides {s : State} (kindle : s.mode = .kindle) (first : s.twin.roleDecided = false) (down : s.twinUp = false) :
    Completes .roleDecisionTimeout s (fun t =>
      t = { s with twin := { s.twin with roleDecided := true }, role := if s.pins.aliveIn then .mate else s.role }) :=
  ⟨_, (if_pos ⟨kindle, first, down⟩ : execRoleDecisionTimeout s = _), rfl⟩

/-- Settles O44, a lemma for each command, and two for HEARTBEAT. -/
theorem twinLinkAndHeartbeats : Obligations.TwinLinkAndHeartbeats := fun _ =>
  ⟨twinLinkUp_sets, twinLaneLoss_trains 0, twinLaneLoss_trains 1, twinFrameDrop_drops, heartbeatSend_sends,
    fun _ => heartbeat_wrongLength, fun _ => heartbeat_heard, heartbeatTimeout_fails, roleDecisionTimeout_decides⟩

end Sys2Proof.Machine
end

section
/-! SUPPORT. O45 (12 R296, R298, R300, R303, R307): what a mate does when it declares its primary lost, and O45 itself. -/

namespace Sys2Proof.Machine

/-! ### TWIN_ALIVE_IN (12 R296) -/

/-- The state with TWIN_ALIVE_IN at a level. -/
def State.hearsAlive (s : State) (high : Bool) : State := { s with pins := { s.pins with aliveIn := high } }

theorem twinAliveHigh_raises {s : State} (twin : s.strapped ≠ .solo) : Completes .twinAliveHigh s (fun t => t = s.hearsAlive true) :=
  ⟨_, (if_neg twin : execTwinAliveHigh s = _), rfl⟩

theorem twinAliveLow_declares {s : State} (twin : s.strapped ≠ .solo) :
    exec .twinAliveLow s = .next (s.hearsAlive false).primaryLost := (if_neg twin : execTwinAliveLow s = _)

theorem lineStateTimeout_declares {s : State} {g : Fin 8} (lit : s.mode = .lit) (alive : s.pins.aliveIn = true)
    (passed : ∃ o ∈ s.twin.own, o.g = g ∧ o.edge.isSome = true) : exec (.lineStateTimeout g) s = .next s.primaryLost := by
  have own : s.twin.own.any (fun o => decide (o.g = g) && o.edge.isSome) = true := by simpa using passed
  exact (if_pos ⟨lit, alive, own⟩ : execLineStateTimeout g s = _)

theorem twinAliveLow_lowers {s : State} (twin : s.strapped ≠ .solo) (other : s.role ≠ .mate) :
    Completes .twinAliveLow s (fun t => t = s.hearsAlive false) :=
  ⟨_, twinAliveLow_declares twin, if_pos (.inl other)⟩

/-! ### Promotion, and a join that is abandoned (12 R298, R303, R307) -/

section
variable (s : State)

/-- The role is taken first, and no later step of a promotion gives it up. -/
theorem State.promote_role : s.promote.role = .primary := by
  unfold State.promote
  extract_lets time lines s1 s2 s3 own _ s4 s5 s6 s7
  have lagging : Only [.taper] s2 s3 := .foldl State.dropLag_only .refl
  have duties : Only [.regs, .taper, .twin, .wick, .loops, .flagged] s3 s5 :=
    (State.addDoubts_only ..).step (by decide) ((State.takeDuties_only _).step (by decide) (.with_twin (by decide) .refl))
  have rest : Only [.regs, .clock, .igrel, .decomp, .slots, .health, .enc, .taper, .heads, .twin, .lantern, .led, .chans, .wick, .ptp,
      .ylog, .out, .flagged] s6 (((s7.reportPromotion time lines).abandonSwap).makeAwaited).alignBeacon :=
    (State.alignBeacon_only _).step (by decide) ((State.makeAwaited_only _).step (by decide) ((State.abandonSwap_only _).step (by decide)
      ((State.reportPromotion_only ..).step (by decide) ((State.twinEvent_only ..).mono (by decide)))))
  have told : Only [.out] s1 s2 := s1.twinSend_only ..
  clear_value s7 s5 s3 s2
  calc _ = s5.role := rest.agree .role (by decide)
    _ = s3.role := duties.agree .role (by decide)
    _ = s2.role := lagging.agree .role (by decide)
    _ = .primary := told.agree .role (by decide)

theorem State.abandonJoin_regsBut : s.regsBut s.abandonJoin [Obj.joinState] := by
  unfold State.abandonJoin
  split
  · exact .refl
  · exact fun _ other => State.reg_setReg_other _ _ (by simpa using other)

theorem State.abandonJoin_join : s.abandonJoin.twin.join = none := by
  unfold State.abandonJoin
  split
  next idle => exact idle
  · rfl

end

theorem State.abandonJoin_failed {s : State} (joining : s.twin.join.isSome = true) : s.abandonJoin.reg Obj.joinState = 4 := by
  obtain ⟨j, join⟩ := Option.isSome_iff_exists.mp joining
  unfold State.abandonJoin
  rw [join]
  exact State.reg_setReg_same ..

/-! ### The primary is declared lost (12 R296, R298, R300, R307) -/

/-- The conditions of a promotion (R298). -/
def State.MayPromote (s : State) : Prop :=
  s.mode = .lit ∧ s.hasCause = false ∧ s.twin.healthyAtHb = true ∧ s.twin.digestOk = true

section
variable {s : State} (mate : s.role = .mate) (working : s.mode.working = true)
include mate working

theorem State.primaryLost_promotes (may : s.MayPromote) : s.primaryLost = s.promote :=
  (if_neg (by simp [mate, working])).trans (if_pos may)

theorem State.primaryLost_abandons (pilot : s.mode = .pilot) (joining : s.twin.join.isSome = true) : s.primaryLost = s.abandonJoin :=
  (if_neg (by simp [mate, working])).trans ((if_neg (by simp [pilot])).trans (if_pos ⟨pilot, joining⟩))

theorem State.primaryLost_causes (barred : ¬ s.MayPromote) (alone : s.mode ≠ .pilot ∨ s.twin.join = none) :
    s.primaryLost = s.setCause Cause.twin :=
  (if_neg (by simp [mate, working])).trans ((if_neg barred).trans (if_neg fun ⟨pilot, joining⟩ =>
    alone.elim (absurd pilot) (fun idle => by simp [idle] at joining)))

end

/-- What a working mate is after it has declared its primary lost: PRIMARY, out of its join, or with the TWIN cause. -/
def State.FailsOver (s t : State) : Prop :=
  t.mode = s.mode ∧ t.pins.fireEn = s.pins.fireEn ∧
  (s.mode = .lit → s.hasCause = false → s.twin.healthyAtHb = true → s.twin.digestOk = true → t.role = .primary) ∧
  (s.mode = .pilot → s.twin.join.isSome = true →
    t.role = .mate ∧ t.twin.join = none ∧ t.reg Obj.joinState = 4 ∧ s.regsBut t [Obj.joinState]) ∧
  ((s.mode ≠ .lit ∨ s.hasCause = true ∨ s.twin.healthyAtHb = false ∨ s.twin.digestOk = false) →
    (s.mode ≠ .pilot ∨ s.twin.join = none) → s.configured = true →
      t.role = .mate ∧ t.reg Obj.snuffCause = s.reg Obj.snuffCause ||| 2 ^ Cause.twin ∧ s.regsBut t [Obj.snuffCause])

theorem State.primaryLost_failsOver {s : State} (mate : s.role = .mate) (working : s.mode.working = true) :
    s.FailsOver s.primaryLost := by
  have pins : s.primaryLost.pins = s.pins := (State.primaryLost_only ..).agree .pins (by decide)
  refine ⟨(State.primaryLost_only ..).agree .mode (by decide), congrArg Pins.fireEn pins, fun lit clean healthy digests => ?_,
    fun pilot joining => ?_, fun unfit alone configured => ?_⟩
  · rw [State.primaryLost_promotes mate working ⟨lit, clean, healthy, digests⟩]
    exact s.promote_role
  · rw [State.primaryLost_abandons mate working pilot joining]
    exact ⟨(s.abandonJoin_only.agree .role (by decide)).trans mate, s.abandonJoin_join, State.abandonJoin_failed joining,
      s.abandonJoin_regsBut⟩
  · have barred : ¬ s.MayPromote := fun ⟨lit, clean, healthy, digests⟩ => by simp [lit, clean, healthy, digests] at unfit
    rw [State.primaryLost_causes mate working barred alone]
    exact ⟨((s.setCause_only _).agree .role (by decide)).trans mate, s.setCause_sets _ configured, s.setCause_regsBut _⟩

/-- Either way in which a mate learns of the loss (R296), it fails over: the level of TWIN_ALIVE_IN decides nothing of what it becomes. -/
theorem lostPrimary_failsOver {s : State} (c : Instr) (lost : (c = .twinAliveLow ∧ s.strapped ≠ .solo) ∨
      ∃ g : Fin 8, c = .lineStateTimeout g ∧ s.mode = .lit ∧ s.pins.aliveIn = true ∧ ∃ o ∈ s.twin.own, o.g = g ∧ o.edge.isSome = true)
    (mate : s.role = .mate) (working : s.mode.working = true) : Completes c s s.FailsOver := by
  obtain ⟨rfl, twin⟩ | ⟨g, rfl, lit, alive, passed⟩ := lost
  · exact ⟨_, twinAliveLow_declares twin, State.primaryLost_failsOver (s := s.hearsAlive false) mate working⟩
  · exact ⟨_, lineStateTimeout_declares lit alive passed, State.primaryLost_failsOver mate working⟩

/-! ### PROMOTED (12 R300) -/

theorem promoted_causes {s : State} (l : List Nat) (up : s.twinUp = true) (primary : s.role = .primary) (groups : l.length = 8)
    (configured : s.configured = true) : Completes (.promoted l) s (fun t => t = { s with regs := t.regs, flagged := t.flagged } ∧
      t.reg Obj.snuffCause = s.reg Obj.snuffCause ||| 2 ^ Cause.twin ∧ s.regsBut t [Obj.snuffCause]) :=
  ⟨_, (if_pos (by simp [up, primary, groups]) : execPromoted l s = _), s.setCause_leaves _, s.setCause_sets _ configured,
    s.setCause_regsBut _⟩

/-- Settles O45, a lemma for each command, and one for the two that tell a mate of the loss. -/
theorem failOverPromotesTheMate : Obligations.FailOverPromotesTheMate := fun _ =>
  ⟨twinAliveHigh_raises, twinAliveLow_lowers, lostPrimary_failsOver, promoted_causes⟩

end Sys2Proof.Machine
end

section
/-! SUPPORT. O1, O6 and O10: what a step is, and what every step keeps (see `step_keeps`). -/

namespace Sys2Proof.Machine

/-- Settles O1: with a command at the front of the queue, the definition of a step is that command's meaning on the queue's rest. -/
theorem stepRunsFrontCommand : Obligations.StepRunsFrontCommand := fun _ _ _ => rfl

/-- Whatever keeps the tables apart keeps all of them in canonical form. -/
theorem Keeps.canonical {s t : State} (h : Keeps s t) (canonical : s.canonical = true) : t.canonical = true := by
  simp only [State.canonical, Bool.and_eq_true] at canonical ⊢
  obtain ⟨⟨regs, doms⟩, mem⟩ := canonical
  exact ⟨⟨h.regs regs, h.doms doms⟩, h.mem mem⟩

/-- Settles O6: what every step keeps (`step_keeps`), command by command (`exec_keeps`), has the form of each table among it. -/
theorem stepKeepsTablesCanonical : Obligations.StepKeepsTablesCanonical :=
  fun s t canonical ht => ((step_keeps s).keeps t ht).canonical canonical

/-- Settles O10: a step ticks Beacon, moves it by a written step, or leaves it, and each keeps its fields in range (`step_keeps`). -/
theorem beaconStaysInRange : Obligations.BeaconStaysInRange :=
  fun s t normal ht => ((step_keeps s).keeps t ht).beacon normal

end Sys2Proof.Machine
end

section
/-! SUPPORT. O3: no command changes what waits behind it. -/

namespace Sys2Proof.Machine

/-- What a command leaves of the queue, where it answers a next state. -/
def QueueNext (s : State) (o : Host.Outcome State Fault Refusal) : Prop := ∀ t, o = .next t → t.pending = s.pending

theorem OnlyNext.queue {d : List Fld} {s : State} {o : Host.Outcome State Fault Refusal} (h : OnlyNext d s o)
    (hd : Fld.pending ∉ d := by decide) : QueueNext s o :=
  fun t ht => (h.only t ht).agree .pending hd

/-- The queue is in the frame of no command. -/
theorem exec_queue (s : State) : ∀ c : Instr, QueueNext s (exec c s)
  | .powerOnReset => (execPowerOnReset_only ..).queue
  | .pinReset => (execPinReset_only ..).queue
  | .watchdogExpiry => (execWatchdogExpiry_only ..).queue
  | .snuffEscReset .. => (execSnuffEscReset_only ..).queue
  | .supplyBrownout .. => (execSupplyBrownout_only ..).queue
  | .refClkLoss => (execRefClkLoss_only ..).queue
  | .igrelReset => (execIgrelReset_only ..).queue
  | .resetRelease .. => (execResetRelease_only ..).queue
  | .pllLock => (execPllLock_only ..).queue
  | .serviceCoreRelease => (execServiceCoreRelease_only ..).queue
  | .bootRomVerify .. => (execBootRomVerify_only ..).queue
  | .bootRetry => (execBootRetry_only ..).queue
  | .configLoad => (execConfigLoad_only ..).queue
  | .blockResetWrite .. => (execBlockResetWrite_only ..).queue
  | .blockRelease .. => (execBlockRelease_only ..).queue
  | .releasePended .. => (execReleasePended_only ..).queue
  | .firmwareTick => (execFirmwareTick_only ..).queue
  | .fsiSample .. => (execFsiSample_only ..).queue
  | .dieTempSample .. => (execDieTempSample_only ..).queue
  | .cdcStall .. => (execCdcStall_only ..).queue
  | .modeRequestKindle .. => (execModeRequestKindle_only ..).queue
  | .modeRequestPilot .. => (execModeRequestPilot_only ..).queue
  | .modeRequestTrim .. => (execModeRequestTrim_only ..).queue
  | .modeRequestLit .. => (execModeRequestLit_only ..).queue
  | .modeRequestSnuff .. => (execModeRequestSnuff_only ..).queue
  | .litStopComplete => (execLitStopComplete_only ..).queue
  | .stopSuppressTimeout .. => (execStopSuppressTimeout_only ..).queue
  | .snuffEntry => (execSnuffEntry_only ..).queue
  | .safeStopAssert => (execSafeStopAssert_only ..).queue
  | .safeStopRelease => (execSafeStopRelease_only ..).queue
  | .snuffCauseClear .. => (execSnuffCauseClear_only ..).queue
  | .headPwrDrop => (execHeadPwrDrop_only ..).queue
  | .headSettleExpiry => (execHeadSettleExpiry_only ..).queue
  | .resetCauseClear .. => (execResetCauseClear_only ..).queue
  | .resetRequest .. => (execResetRequest_only ..).queue
  | .fusePadProgram .. => (execFusePadProgram_only ..).queue
  | .fuseProgramComplete .. => (execFuseProgramComplete_only ..).queue
  | .fusePadCodeRead .. => (execFusePadCodeRead_only ..).queue
  | .fuseLock .. => (execFuseLock_only ..).queue
  | .jtagExtest => (execJtagExtest_only ..).queue
  | .jtagClamp => (execJtagClamp_only ..).queue
  | .jtagIdcode => (execJtagIdcode_only ..).queue
  | .jtagSamplePreload .. => (execJtagSamplePreload_only ..).queue
  | .jtagHighz => (execJtagHighz_only ..).queue
  | .jtagBypass .. => (execJtagBypass_only ..).queue
  | .igrelDrop .. => (execIgrelDrop_only ..).queue
  | .hello .. => (execHello_only ..).queue
  | .proof .. => (execProof_only ..).queue
  | .reservationLapse .. => (execReservationLapse_only ..).queue
  | .authLockoutExpiry .. => (execAuthLockoutExpiry_only ..).queue
  | .close .. => (execClose_only ..).queue
  | .sessionIdleTimeout .. => (execSessionIdleTimeout_only ..).queue
  | .read .. => (execRead_only ..).queue
  | .write .. => (execWrite_only ..).queue
  | .describe .. => (execDescribe_only ..).queue
  | .blockStart .. => (execBlockStart_only ..).queue
  | .blockSegment .. => (execBlockSegment_only ..).queue
  | .blockAck .. => (execBlockAck_only ..).queue
  | .blockEnd .. => (execBlockEnd_only ..).queue
  | .blockTimeout .. => (execBlockTimeout_only ..).queue
  | .subscribe .. => (execSubscribe_only ..).queue
  | .telemetrySend .. => (execTelemetrySend_only ..).queue
  | .configSave .. => (execConfigSave_only ..).queue
  | .fwSlotWrite .. => (execFwSlotWrite_only ..).queue
  | .fsiMinClear .. => (execFsiMinClear_only ..).queue
  | .w1cClear .. => (execW1cClear_only ..).queue
  | .rasterLinkUp .. => (execRasterLinkUp_only ..).queue
  | .rasterLaneLoss .. => (execRasterLaneLoss_only ..).queue
  | .rasterPacketDrop .. => (execRasterPacketDrop_only ..).queue
  | .block .. => (execBlock_only ..).queue
  | .commit .. => (execCommit_only ..).queue
  | .creditPeriodExpiry => (execCreditPeriodExpiry_only ..).queue
  | .storeFlush .. => (execStoreFlush_only ..).queue
  | .ringMapWrite .. => (execRingMapWrite_only ..).queue
  | .taperLineRequest .. => (execTaperLineRequest_only ..).queue
  | .decodeLine .. => (execDecodeLine_only ..).queue
  | .contextRewind .. => (execContextRewind_only ..).queue
  | .contextImageWrite .. => (execContextImageWrite_only ..).queue
  | .stripCorrect .. => (execStripCorrect_only ..).queue
  | .wickLineDecision => (execWickLineDecision_only ..).queue
  | .lineFrameSend .. => (execLineFrameSend_only ..).queue
  | .healthEdit .. => (execHealthEdit_only ..).queue
  | .healthSwap => (execHealthSwap_only ..).queue
  | .healthOverwriteDone => (execHealthOverwriteDone_only ..).queue
  | .placementTrimWrite .. => (execPlacementTrimWrite_only ..).queue
  | .encoderEdge .. => (execEncoderEdge_only ..).queue
  | .indexEdge .. => (execIndexEdge_only ..).queue
  | .standstillTimeout .. => (execStandstillTimeout_only ..).queue
  | .encoderBlockExpiry => (execEncoderBlockExpiry_only ..).queue
  | .encoderEnable .. => (execEncoderEnable_only ..).queue
  | .armingStart => (execArmingStart_only ..).queue
  | .lineArm .. => (execLineArm_only ..).queue
  | .strobeEdge .. => (execStrobeEdge_only ..).queue
  | .strobeEnd .. => (execStrobeEnd_only ..).queue
  | .strobeCut .. => (execStrobeCut_only ..).queue
  | .snufferEscalate .. => (execSnufferEscalate_only ..).queue
  | .maintStart .. => (execMaintStart_only ..).queue
  | .maintLine => (execMaintLine_only ..).queue
  | .headTrainReply .. => (execHeadTrainReply_only ..).queue
  | .headLaneTimeout .. => (execHeadLaneTimeout_only ..).queue
  | .status .. => (execStatus_only ..).queue
  | .statusTimeout .. => (execStatusTimeout_only ..).queue
  | .headLaneLoss .. => (execHeadLaneLoss_only ..).queue
  | .ctrlResendTimeout .. => (execCtrlResendTimeout_only ..).queue
  | .headLaneRetrain .. => (execHeadLaneRetrain_only ..).queue
  | .recoverTimeExpiry .. => (execRecoverTimeExpiry_only ..).queue
  | .timeFrameSend => (execTimeFrameSend_only ..).queue
  | .twinLaneLoss .. => (execTwinLaneLoss_only ..).queue
  | .heartbeatSend => (execHeartbeatSend_only ..).queue
  | .heartbeat .. => (execHeartbeat_only ..).queue
  | .heartbeatTimeout => (execHeartbeatTimeout_only ..).queue
  | .roleDecisionTimeout => (execRoleDecisionTimeout_only ..).queue
  | .decision .. => (execDecision_only ..).queue
  | .lineStateSend => (execLineStateSend_only ..).queue
  | .lineState .. => (execLineState_only ..).queue
  | .lineStateTimeout .. => (execLineStateTimeout_only ..).queue
  | .twinAliveLow => (execTwinAliveLow_only ..).queue
  | .publish gen line recs => (execPublish_only gen line recs s).queue
  | .findingMessage .. => (execFindingMessage_only ..).queue
  | .modeMessage .. => (execModeMessage_only ..).queue
  | .snuffAll .. => (execSnuffAll_only ..).queue
  | .swapRequest .. => (execSwapRequest_only ..).queue
  | .swapMessage .. => (execSwapMessage_only ..).queue
  | .roleSwapComplete => (execRoleSwapComplete_only ..).queue
  | .promoted .. => (execPromoted_only ..).queue
  | .twinResetRequest => (execTwinResetRequest_only ..).queue
  | .joinReq .. => (execJoinReq_only ..).queue
  | .joinPlan .. => (execJoinPlan_only ..).queue
  | .joinSnapshot => (execJoinSnapshot_only ..).queue
  | .joinImage .. => (execJoinImage_only ..).queue
  | .joinReady => (execJoinReady_only ..).queue
  | .joinCounters .. => (execJoinCounters_only ..).queue
  | .joinRetry => (execJoinRetry_only ..).queue
  | .joinEnterLit => (execJoinEnterLit_only ..).queue
  | .cameraFrameStart .. => (execCameraFrameStart_only ..).queue
  | .cameraTrigger .. => (execCameraTrigger_only ..).queue
  | .cameraLine .. => (execCameraLine_only ..).queue
  | .cameraFrameEnd .. => (execCameraFrameEnd_only ..).queue
  | .cameraFrameTimeout .. => (execCameraFrameTimeout_only ..).queue
  | .cameraCommit .. => (execCameraCommit_only ..).queue
  | .uartTx .. => (execUartTx_only ..).queue
  | .uartTransfer .. => (execUartTransfer_only ..).queue
  | .uartRxDone .. => (execUartRxDone_only ..).queue
  | .tapSelect .. => (execTapSelect_only ..).queue
  | .ledShortTest .. => (execLedShortTest_only ..).queue
  | .flushTimeExpiry .. => (execFlushTimeExpiry_only ..).queue
  | .chunkCompress .. => (execChunkCompress_only ..).queue
  | .uploadPacketSend => (execUploadPacketSend_only ..).queue
  | .uploadCreditGrant .. => (execUploadCreditGrant_only ..).queue
  | .uploadResend .. => (execUploadResend_only ..).queue
  | .uploadAck .. => (execUploadAck_only ..).queue
  | .uploadEntryDropped ch v => (execUploadEntryDropped_only ch v s).queue
  | .ackTimeoutExpiry .. => (execAckTimeoutExpiry_only ..).queue
  | .uploadRequest .. => (execUploadRequest_only ..).queue
  | .scanRequest .. => (execScanRequest_only ..).queue
  | .scanComplete => (execScanComplete_only ..).queue
  | .runningWrite .. => (execRunningWrite_only ..).queue
  | .scrubBlock .. => (execScrubBlock_only ..).queue
  | .dramCe .. => (execDramCe_only ..).queue
  | .dramUe .. => (execDramUe_only ..).queue
  | .rtPanicRaise .. => (execRtPanicRaise_only ..).queue
  | .rtPanicClear .. => (execRtPanicClear_only ..).queue
  | .mr4Poll .. => (execMr4Poll_only ..).queue
  | .dramRefresh .. => (execDramRefresh_only ..).queue
  | .freqSelect .. => (execFreqSelect_only ..).queue
  | .dramFreqChange => (execDramFreqChange_only ..).queue
  | .dramFreqChangeDone => (execDramFreqChangeDone_only ..).queue
  | .wickRequest .. => (execWickRequest_only ..).queue
  | .wickDeferredGrant => (execWickDeferredGrant_only ..).queue
  | .wickDeferTimeout .. => (execWickDeferTimeout_only ..).queue
  | .headroomPublish => (execHeadroomPublish_only ..).queue
  | .loopSample .. => (execLoopSample_only ..).queue
  | .spiSenseDone .. => (execSpiSenseDone_only ..).queue
  | .spiActuatorWrite .. => (execSpiActuatorWrite_only ..).queue
  | .loopFollowTimeout .. => (execLoopFollowTimeout_only ..).queue
  | .bankSwap .. => (execBankSwap_only ..).queue
  | .loopSetpoint .. => (execLoopSetpoint_only ..).queue
  | .loopEnable .. => (execLoopEnable_only ..).queue
  | .target .. => (execTarget_only ..).queue
  | .moveStart .. => (execMoveStart_only ..).queue
  | .motionTick => (execMotionTick_only ..).queue
  | .home .. => (execHome_only ..).queue
  | .axisStop .. => (execAxisStop_only ..).queue
  | .stopAll .. => (execStopAll_only ..).queue
  | .chopperTrip .. => (execChopperTrip_only ..).queue
  | .chopperToffExpiry .. => (execChopperToffExpiry_only ..).queue
  | .chopperBlankExpiry .. => (execChopperBlankExpiry_only ..).queue
  | .phaseOpenTimeout .. => (execPhaseOpenTimeout_only ..).queue
  | .timeSet .. => (execTimeSet_only ..).queue
  | .timeStep .. => (execTimeStep_only ..).queue
  | .rateTrim .. => (execRateTrim_only ..).queue
  | .ptpSyncSend => (execPtpSyncSend_only ..).queue
  | .ptpFollowUp => (execPtpFollowUp_only ..).queue
  | .ptpAnnounceSend => (execPtpAnnounceSend_only ..).queue
  | .ptpDelayReq .. => (execPtpDelayReq_only ..).queue
  | .ptpForeignAnnounce .. => (execPtpForeignAnnounce_only ..).queue
  | .ptpTimestampVector .. => (execPtpTimestampVector_only ..).queue
  | .calTemperature .. => (execCalTemperature_only ..).queue
  | .calFsi .. => (execCalFsi_only ..).queue
  | .calTermination .. => (execCalTermination_only ..).queue
  | .calEqualiser .. => (execCalEqualiser_only ..).queue
  | .calChopper .. => (execCalChopper_only ..).queue
  | .dramTraining .. => (execDramTraining_only ..).queue
  | .eccFill => (execEccFill_only ..).queue
  | .kindleEnd => (execKindleEnd_only ..).queue
  | .freezeNow .. => (execFreezeNow_only ..).queue
  | .unfreeze .. => (execUnfreeze_only ..).queue
  | .twinLinkUp .. => (execTwinLinkUp_only ..).queue
  | .twinFrameDrop .. => (execTwinFrameDrop_only ..).queue
  | .twinAliveHigh => (execTwinAliveHigh_only ..).queue
  | .supplyMonitorTrip => (execSupplyMonitorTrip_only ..).queue
  | .jtagTapReset => (execJtagTapReset_only ..).queue
  | .arpRequest .. => (execArpRequest_only ..).queue
  | .icmpEchoRequest .. => (execIcmpEchoRequest_only ..).queue

/-- Settles O3, by the frame of each command (`exec_queue`). -/
theorem commandsLeaveTheQueue : Obligations.CommandsLeaveTheQueue := fun c s => exec_queue s c

end Sys2Proof.Machine
end

section
/-! SUPPORT. O60 (95): the commands of each unit, and the fields that they may change. -/

namespace Sys2Proof.Machine

/-- Each command of a list changes only the fields listed. -/
structure EachOnly (d : List Fld) (s : State) (l : List Instr) : Prop where
  only : ∀ c ∈ l, OnlyNext d s (exec c s)

namespace EachOnly

theorem nil {d : List Fld} {s : State} : EachOnly d s [] := ⟨by simp⟩

theorem cons {d d' : List Fld} {s : State} {c : Instr} {l : List Instr} (h : OnlyNext d' s (exec c s)) (k : EachOnly d s l)
    (sub : mask d' ||| mask d = mask d := by decide) : EachOnly d s (c :: l) :=
  ⟨List.forall_mem_cons.2 ⟨h.mono sub, k.only⟩⟩

theorem eq_taking {d : List Fld} {s : State} {l : List Instr} (h : EachOnly d s l) : ∀ c ∈ l, ∀ t, exec c s = .next t → t = s.taking t d :=
  fun c hc t ht => ((h.only c hc).only t ht).eq_taking

end EachOnly

theorem rasterCommands_only (s : State) (n : Nat) (lb : List Byte) (q : Bool) (lq : List Bool) (e : List Nat) (ch : List (List Sym)) :
    EachOnly [.regs, .raster, .decomp, .twin, .dram, .out, .freeCtr] s [.block n lb, .creditPeriodExpiry, .rasterPacketDrop e ch,
      .rasterLinkUp lq q] :=
  .cons (execBlock_only ..) <|
    .cons (execCreditPeriodExpiry_only ..) <|
    .cons (execRasterPacketDrop_only ..) <|
    .cons (execRasterLinkUp_only ..) .nil

theorem decoderCommands_only (s : State) (f8 : Fin 8) (f160 : Fin 160) :
    EachOnly [.regs, .igrel, .raster, .decomp, .slots, .twin, .dram, .ylog, .out, .flagged] s [.decodeLine f8, .contextRewind f160] :=
  .cons (execDecodeLine_only ..) <|
    .cons (execContextRewind_only ..) .nil

theorem lineCommands_only (s : State) (f128 : Fin 128) :
    EachOnly [.regs, .igrel, .slots, .health, .taper, .wick, .ylog, .out, .flagged] s [.stripCorrect f128, .wickLineDecision,
      .lineFrameSend f128, .healthSwap] :=
  .cons (execStripCorrect_only ..) <|
    .cons (execWickLineDecision_only ..) <|
    .cons (execLineFrameSend_only ..) <|
    .cons (execHealthSwap_only ..) .nil

theorem firingCommands_only (s : State) (f8 : Fin 8) :
    EachOnly [.regs, .pins, .igrel, .raster, .decomp, .slots, .health, .taper, .twin, .chans, .dram, .wick, .ylog, .out, .flagged,
      .freeCtr] s [.armingStart, .lineArm f8, .strobeEdge f8] :=
  .cons (execArmingStart_only ..) <|
    .cons (execLineArm_only ..) <|
    .cons (execStrobeEdge_only ..) .nil

theorem strobeCommands_only (s : State) (f8 : Fin 8) (q : Bool) :
    EachOnly [.regs, .pins, .igrel, .taper, .ylog, .out, .flagged] s [.strobeEnd f8, .strobeCut f8, .snufferEscalate f8 q] :=
  .cons (execStrobeEnd_only ..) <|
    .cons (execStrobeCut_only ..) <|
    .cons (execSnufferEscalate_only ..) .nil

theorem headLinkCommands_only (s : State) (f32 : Fin 32) (n : Nat) (q : Bool) :
    EachOnly [.regs, .igrel, .heads, .wick, .ylog, .out, .flagged, .freeCtr] s [.headTrainReply f32 n q, .headLaneRetrain f32,
      .recoverTimeExpiry f32, .timeFrameSend] :=
  .cons (execHeadTrainReply_only ..) <|
    .cons (execHeadLaneRetrain_only ..) <|
    .cons (execRecoverTimeExpiry_only ..) <|
    .cons (execTimeFrameSend_only ..) .nil

theorem twinLinkCommands_only (s : State) (q q1 q2 : Bool) (f2 : Fin 2) (n n1 n2 : Nat) (f8 : Fin 8) (o : WickOut) (ln : List Nat)
    (lnxn : List (Nat × Nat)) :
    EachOnly [.regs, .igrel, .taper, .twin, .ylog, .out, .flagged, .freeCtr] s [.twinLinkUp q q1 q2, .twinLaneLoss f2 n,
      .twinFrameDrop ln, .heartbeatSend, .heartbeatTimeout, .decision n f8 o, .lineStateSend, .swapMessage n n1, .promoted ln,
      .joinReq n n1 n2, .joinSnapshot, .joinReady, .joinCounters lnxn, .joinRetry] :=
  .cons (execTwinLinkUp_only ..) <|
    .cons (execTwinLaneLoss_only ..) <|
    .cons (execTwinFrameDrop_only ..) <|
    .cons (execHeartbeatSend_only ..) <|
    .cons (execHeartbeatTimeout_only ..) <|
    .cons (execDecision_only ..) <|
    .cons (execLineStateSend_only ..) <|
    .cons (execSwapMessage_only ..) <|
    .cons (execPromoted_only ..) <|
    .cons (execJoinReq_only ..) <|
    .cons (execJoinSnapshot_only ..) <|
    .cons (execJoinReady_only ..) <|
    .cons (execJoinCounters_only ..) <|
    .cons (execJoinRetry_only ..) .nil

theorem cameraFrameCommands_only (s : State) (f2 : Fin 2) :
    EachOnly [.regs, .igrel, .decomp, .slots, .taper, .lantern, .led, .chans, .dram, .wick, .ylog, .out,
      .flagged] s [.cameraFrameStart f2, .cameraTrigger f2] :=
  .cons (execCameraFrameStart_only ..) <|
    .cons (execCameraTrigger_only ..) .nil

theorem cameraCommands_only (s : State) (f2 : Fin 2) (q : Bool) (lb : List Byte) :
    EachOnly [.regs, .doms, .lantern, .chans, .out, .freeCtr] s [.cameraFrameEnd f2, .cameraFrameTimeout f2 q, .uartTransfer f2,
      .uartRxDone f2 lb] :=
  .cons (execCameraFrameEnd_only ..) <|
    .cons (execCameraFrameTimeout_only ..) <|
    .cons (execUartTransfer_only ..) <|
    .cons (execUartRxDone_only ..) .nil

theorem uploadCommands_only (s : State) (f4 : Fin 4) (n n1 : Nat) :
    EachOnly [.regs, .doms, .igrel, .chans, .dram, .ylog, .out, .flagged, .freeCtr] s [.flushTimeExpiry f4, .chunkCompress f4,
      .uploadPacketSend, .uploadCreditGrant n n1, .uploadResend n n1, .uploadAck n n1, .ackTimeoutExpiry f4] :=
  .cons (execFlushTimeExpiry_only ..) <|
    .cons (execChunkCompress_only ..) <|
    .cons (execUploadPacketSend_only ..) <|
    .cons (execUploadCreditGrant_only ..) <|
    .cons (execUploadResend_only ..) <|
    .cons (execUploadAck_only ..) <|
    .cons (execAckTimeoutExpiry_only ..) .nil

theorem checkCommands_only (s : State) (lb : List Byte) :
    EachOnly [.regs, .igrel, .raster, .check, .dram, .ylog, .out, .flagged, .freeCtr] s [.scanComplete, .scrubBlock lb] :=
  .cons (execScanComplete_only ..) <|
    .cons (execScrubBlock_only ..) .nil

theorem dramCommands_only (s : State) (n n1 n2 n3 : Nat) (b : Byte) (q : Bool) (d : DramSource) (f128 : Fin 128) (ln : List Nat)
    (f4 : Fin 4) :
    EachOnly [.regs, .doms, .igrel, .raster, .chans, .check, .dram, .wick, .ylog, .out, .flagged] s [.dramCe n n1 b q,
      .dramUe n d n1 n2 n3 b, .rtPanicRaise f128 n, .rtPanicClear ln, .mr4Poll n q, .dramRefresh f4 n, .dramFreqChange] :=
  .cons (execDramCe_only ..) <|
    .cons (execDramUe_only ..) <|
    .cons (execRtPanicRaise_only ..) <|
    .cons (execRtPanicClear_only ..) <|
    .cons (execMr4Poll_only ..) <|
    .cons (execDramRefresh_only ..) <|
    .cons (execDramFreqChange_only ..) .nil

theorem wickCommands_only (s : State) (r : WickReq) (n : Nat) :
    EachOnly [.regs, .pins, .igrel, .slots, .taper, .heads, .dram, .wick, .axes, .ylog, .out, .flagged] s [.wickRequest r,
      .wickDeferredGrant, .wickDeferTimeout n, .headroomPublish] :=
  .cons (execWickRequest_only ..) <|
    .cons (execWickDeferredGrant_only ..) <|
    .cons (execWickDeferTimeout_only ..) <|
    .cons (execHeadroomPublish_only ..) .nil

theorem loopCommands_only (s : State) (f48 : Fin 48) (f4 : Fin 4) (n : Nat) :
    EachOnly [.regs, .igrel, .heads, .lantern, .led, .wick, .loops, .spi, .ylog, .out, .flagged, .freeCtr] s [.loopSample f48,
      .spiSenseDone f4 n, .spiActuatorWrite f4, .loopFollowTimeout f48] :=
  .cons (execLoopSample_only ..) <|
    .cons (execSpiSenseDone_only ..) <|
    .cons (execSpiActuatorWrite_only ..) <|
    .cons (execLoopFollowTimeout_only ..) .nil

theorem motionCommands_only (s : State) (f4 : Fin 4) (ph : Phase) (n : Nat) (q : Bool) :
    EachOnly [.regs, .igrel, .wick, .axes, .ylog, .out, .flagged, .freeCtr] s [.moveStart f4, .motionTick, .chopperTrip f4 ph n,
      .chopperToffExpiry f4 ph, .chopperBlankExpiry f4 ph q, .phaseOpenTimeout f4 ph] :=
  .cons (execMoveStart_only ..) <|
    .cons (execMotionTick_only ..) <|
    .cons (execChopperTrip_only ..) <|
    .cons (execChopperToffExpiry_only ..) <|
    .cons (execChopperBlankExpiry_only ..) <|
    .cons (execPhaseOpenTimeout_only ..) .nil

theorem ptpCommands_only (s : State) (n n1 n2 : Nat) (q : Bool) :
    EachOnly [.regs, .igrel, .ptp, .ylog, .out, .flagged, .freeCtr] s [.ptpSyncSend, .ptpFollowUp, .ptpAnnounceSend,
      .ptpDelayReq n n1 n2, .ptpForeignAnnounce n, .ptpTimestampVector q n] :=
  .cons (execPtpSyncSend_only ..) <|
    .cons (execPtpFollowUp_only ..) <|
    .cons (execPtpAnnounceSend_only ..) <|
    .cons (execPtpDelayReq_only ..) <|
    .cons (execPtpForeignAnnounce_only ..) <|
    .cons (execPtpTimestampVector_only ..) .nil

theorem jtagCommands_only (s : State) (n : Nat) (lq : List Bool) :
    EachOnly [.jtag] s [.jtagExtest, .jtagClamp, .jtagIdcode, .jtagHighz, .jtagBypass n, .jtagSamplePreload lq, .jtagTapReset] :=
  .cons (execJtagExtest_only ..) <|
    .cons (execJtagClamp_only ..) <|
    .cons (execJtagIdcode_only ..) <|
    .cons (execJtagHighz_only ..) <|
    .cons (execJtagBypass_only ..) <|
    .cons (execJtagSamplePreload_only ..) <|
    .cons (execJtagTapReset_only ..) .nil

/-- Settles O60, a frame for each unit. -/
theorem unitCommandsKeepToTheirUnits : Obligations.UnitCommandsKeepToTheirUnits := fun s =>
  ⟨fun _ _ _ _ _ _ => (rasterCommands_only s ..).eq_taking,
    fun _ _ => (decoderCommands_only s ..).eq_taking,
    fun _ => (lineCommands_only s ..).eq_taking,
    fun _ => (firingCommands_only s ..).eq_taking,
    fun _ _ => (strobeCommands_only s ..).eq_taking,
    fun _ _ _ => (headLinkCommands_only s ..).eq_taking,
    fun _ _ _ _ _ _ _ _ _ _ _ => (twinLinkCommands_only s ..).eq_taking,
    fun _ => (cameraFrameCommands_only s ..).eq_taking,
    fun _ _ _ => (cameraCommands_only s ..).eq_taking,
    fun _ _ _ => (uploadCommands_only s ..).eq_taking,
    fun _ => (checkCommands_only s ..).eq_taking,
    fun _ _ _ _ _ _ _ _ _ _ => (dramCommands_only s ..).eq_taking,
    fun _ _ => (wickCommands_only s ..).eq_taking,
    fun _ _ _ => (loopCommands_only s ..).eq_taking,
    fun _ _ _ _ => (motionCommands_only s ..).eq_taking,
    fun _ _ _ _ => (ptpCommands_only s ..).eq_taking,
    fun _ _ => (jtagCommands_only s ..).eq_taking⟩

end Sys2Proof.Machine
end

section
/-! SUPPORT. O4: every command answers a next state, but for the two DRAM errors at an address that does not exist (17 R369). -/

namespace Sys2Proof.Machine

/-- A next state is answered. -/
def Answers (o : Host.Outcome State Fault Refusal) : Prop := ∃ t, o = .next t

theorem Answers.ok {s : State} : Answers (ok s) := ⟨s, rfl⟩

theorem Answers.ite {c : Prop} [Decidable c] {a b : Host.Outcome State Fault Refusal} (h : Answers a) (k : Answers b) :
    Answers (if c then a else b) := by
  split
  · exact h
  · exact k

/-! ### The commands whose meaning takes cases of what it finds -/

theorem execBootRomVerify_answers (readsValid : Bool) (s : State) : Answers (execBootRomVerify readsValid s) := by
  unfold execBootRomVerify
  split
  · exact .ok
  · split
    · dsimp only
      split
      · exact .ok
      · split <;> exact .ok
    · exact .ok

theorem execStopSuppressTimeout_answers (g : Fin 8) (s : State) : Answers (execStopSuppressTimeout g s) := by
  unfold execStopSuppressTimeout
  split
  · split
    · exact .ok
    · dsimp only
      split <;> exact .ok
  · exact .ok

theorem execFuseProgramComplete_answers (blown : Nat) (s : State) : Answers (execFuseProgramComplete blown s) := by
  unfold execFuseProgramComplete
  split <;> exact .ok

theorem execBlockTimeout_answers (sess tag : Nat) (s : State) : Answers (execBlockTimeout sess tag s) := by
  unfold execBlockTimeout
  split <;> exact .ok

theorem execTelemetrySend_answers (sess : Nat) (canSend : Bool) (s : State) : Answers (execTelemetrySend sess canSend s) := by
  unfold execTelemetrySend
  split
  · split
    · split <;> exact .ok
    · exact .ok
  · exact .ok

theorem execRasterLaneLoss_answers (lane : Fin 8) (lol : Bool) (errors : Nat) (s : State) : Answers (execRasterLaneLoss lane lol errors s) := by
  unfold execRasterLaneLoss
  split
  · exact .ok
  · split
    · dsimp only
      split <;> exact .ok
    · dsimp only
      split <;> exact .ok

theorem execRasterPacketDrop_answers (errors : List Nat) (lanes : List (List Sym)) (s : State) : Answers (execRasterPacketDrop errors lanes s) := by
  unfold execRasterPacketDrop
  split
  · dsimp only
    split <;> exact .ok
  · exact .ok

theorem execCommit_answers (payload : List Byte) (s : State) : Answers (execCommit payload s) := by
  unfold execCommit
  split
  · exact .ok
  · split
    · exact .ok
    · split
      · split <;> exact .ok

theorem execDecodeLine_answers (e : Fin 8) (s : State) : Answers (execDecodeLine e s) := by
  unfold execDecodeLine
  split
  · exact .ok
  · split <;> exact .ok

theorem execContextRewind_answers (k : Fin 160) (s : State) : Answers (execContextRewind k s) := by
  unfold execContextRewind
  split
  · dsimp only
    split <;> exact .ok
  · dsimp only
    split <;> exact .ok

theorem execStripCorrect_answers (st : Fin 128) (s : State) : Answers (execStripCorrect st s) := by
  unfold execStripCorrect
  split
  · exact .ok
  · split <;> exact .ok

theorem execWickLineDecision_answers (s : State) : Answers (execWickLineDecision s) := by
  unfold execWickLineDecision
  split
  · exact .ok
  · split <;> exact .ok

theorem execLineFrameSend_answers (st : Fin 128) (s : State) : Answers (execLineFrameSend st s) := by
  unfold execLineFrameSend
  split
  · exact .ok
  · split <;> exact .ok

theorem execStrobeEdge_answers (g : Fin 8) (s : State) : Answers (execStrobeEdge g s) := by
  unfold execStrobeEdge
  split
  · exact .ok
  · split <;> exact .ok

theorem execMaintLine_answers (s : State) : Answers (execMaintLine s) := by
  unfold execMaintLine
  split
  · exact .ok
  · split
    · exact .ok
    · split
      · exact .ok
      · split <;> exact .ok

theorem execStatus_answers (m : Fin 32) (errors : Nat) (chars : List Sym) (s : State) : Answers (execStatus m errors chars s) := by
  unfold execStatus
  split
  · exact .ok
  · split
    · exact .ok
    · split
      · dsimp only
        split
        · exact .ok
        · split <;> exact .ok
      · dsimp only
        split
        · exact .ok
        · split <;> exact .ok

theorem execTwinLaneLoss_answers (l : Fin 2) (errors : Nat) (s : State) : Answers (execTwinLaneLoss l errors s) := by
  unfold execTwinLaneLoss
  split
  · dsimp only
    split <;> exact .ok
  · dsimp only
    split <;> exact .ok

theorem execLineStateSend_answers (s : State) : Answers (execLineStateSend s) := by
  unfold execLineStateSend
  split <;> exact .ok

theorem execLineState_answers (payload : List Byte) (s : State) : Answers (execLineState payload s) := by
  unfold execLineState
  split
  · exact .ok
  · split
    · exact .ok
    · split <;> exact .ok

theorem execPublish_answers (_gen line : Nat) (recs : List Nat) (s : State) : Answers (execPublish _gen line recs s) := by
  unfold execPublish
  split
  · exact .ok
  · split
    · split
      · dsimp only
        split <;> exact .ok
      · dsimp only
        split <;> exact .ok
    · split
      · dsimp only
        split <;> exact .ok
      · dsimp only
        split <;> exact .ok

theorem execModeMessage_answers (mode line : Nat) (s : State) : Answers (execModeMessage mode line s) := by
  unfold execModeMessage
  split
  · exact .ok
  · split
    · exact .ok
    · split <;> exact .ok
    · exact .ok
    · exact .ok
    · exact .ok

theorem execRoleSwapComplete_answers (s : State) : Answers (execRoleSwapComplete s) := by
  unfold execRoleSwapComplete
  split
  · exact .ok
  · split <;> exact .ok

theorem execJoinReq_answers (rev fw digest : Nat) (s : State) : Answers (execJoinReq rev fw digest s) := by
  unfold execJoinReq
  dsimp only
  split
  · split <;> exact .ok
  · exact .ok

theorem execJoinPlan_answers (snapshot line : Nat) (s : State) : Answers (execJoinPlan snapshot line s) := by
  unfold execJoinPlan
  split
  · exact .ok
  · split <;> exact .ok

theorem execJoinSnapshot_answers (s : State) : Answers (execJoinSnapshot s) := by
  unfold execJoinSnapshot
  split
  · exact .ok
  · dsimp only
    split <;> exact .ok

theorem execJoinImage_answers (images : List (Nat × List Byte)) (gen : Nat) (map : List (Nat × Nat)) (s : State) : Answers (execJoinImage images gen map s) := by
  unfold execJoinImage
  split
  · exact .ok
  · split <;> exact .ok

theorem execJoinReady_answers (s : State) : Answers (execJoinReady s) := by
  unfold execJoinReady
  split
  · exact .ok
  · split <;> exact .ok

theorem execJoinCounters_answers (counters : List (Nat × Nat)) (s : State) : Answers (execJoinCounters counters s) := by
  unfold execJoinCounters
  split
  · exact .ok
  · split <;> exact .ok

theorem execJoinRetry_answers (s : State) : Answers (execJoinRetry s) := by
  unfold execJoinRetry
  split
  · exact .ok
  · split
    · exact .ok
    · split
      · exact .ok
      · split <;> exact .ok

theorem execJoinEnterLit_answers (s : State) : Answers (execJoinEnterLit s) := by
  unfold execJoinEnterLit
  split
  · split <;> exact .ok
  · exact .ok

theorem execCameraFrameStart_answers (p : Fin 2) (s : State) : Answers (execCameraFrameStart p s) := by
  unfold execCameraFrameStart
  split
  · exact .ok
  · split <;> exact .ok

theorem execCameraTrigger_answers (p : Fin 2) (s : State) : Answers (execCameraTrigger p s) := by
  unfold execCameraTrigger
  split
  · exact .ok
  · split <;> exact .ok

theorem execCameraLine_answers (p : Fin 2) (line : Sys2Proof.CamLine) (s : State) : Answers (execCameraLine p line s) := by
  unfold execCameraLine
  split
  · exact .ok
  · split
    · exact .ok
    · split
      · exact .ok
      · split <;> exact .ok

theorem execCameraFrameTimeout_answers (p : Fin 2) (fvalRose : Bool) (s : State) : Answers (execCameraFrameTimeout p fvalRose s) := by
  unfold execCameraFrameTimeout
  split
  · exact .ok
  · split
    · exact .ok
    · split <;> exact .ok

theorem execUartTransfer_answers (p : Fin 2) (s : State) : Answers (execUartTransfer p s) := by
  unfold execUartTransfer
  split
  · split <;> exact .ok
  · exact .ok

theorem execUartRxDone_answers (p : Fin 2) (bytes : List Byte) (s : State) : Answers (execUartRxDone p bytes s) := by
  unfold execUartRxDone
  split <;> exact .ok

theorem execChunkCompress_answers (ch : Fin 4) (s : State) : Answers (execChunkCompress ch s) := by
  unfold execChunkCompress
  split
  · exact .ok
  · split
    · split <;> exact .ok
    · split <;> exact .ok

theorem execUploadPacketSend_answers (s : State) : Answers (execUploadPacketSend s) := by
  unfold execUploadPacketSend
  split
  · split <;> exact .ok
  · exact .ok

theorem execAckTimeoutExpiry_answers (ch : Fin 4) (s : State) : Answers (execAckTimeoutExpiry ch s) := by
  unfold execAckTimeoutExpiry
  split
  · split <;> exact .ok
  · exact .ok

theorem execScanComplete_answers (s : State) : Answers (execScanComplete s) := by
  unfold execScanComplete
  split
  · exact .ok
  · split <;> exact .ok

theorem execScrubBlock_answers (asRead : List Byte) (s : State) : Answers (execScrubBlock asRead s) := by
  unfold execScrubBlock
  split
  · dsimp only
    split
    · exact .ok
    · split <;> exact .ok
  · dsimp only
    split
    · exact .ok
    · split <;> exact .ok

theorem execDramFreqChange_answers (s : State) : Answers (execDramFreqChange s) := by
  unfold execDramFreqChange
  split
  · split <;> exact .ok
  · exact .ok

theorem execDramFreqChangeDone_answers (s : State) : Answers (execDramFreqChangeDone s) := by
  unfold execDramFreqChangeDone
  split <;> exact .ok

theorem execWickDeferredGrant_answers (s : State) : Answers (execWickDeferredGrant s) := by
  unfold execWickDeferredGrant
  split
  · exact .ok
  · dsimp only
    split <;> exact .ok

theorem execWickDeferTimeout_answers (id : Nat) (s : State) : Answers (execWickDeferTimeout id s) := by
  unfold execWickDeferTimeout
  split <;> exact .ok

theorem execSpiSenseDone_answers (p : Fin 4) (bits : Nat) (s : State) : Answers (execSpiSenseDone p bits s) := by
  unfold execSpiSenseDone
  split
  · split <;> exact .ok
  · exact .ok

theorem execSpiActuatorWrite_answers (p : Fin 4) (s : State) : Answers (execSpiActuatorWrite p s) := by
  unfold execSpiActuatorWrite
  split <;> exact .ok

theorem execChopperBlankExpiry_answers (axis : Fin 4) (ph : Phase) (high : Bool) (s : State) : Answers (execChopperBlankExpiry axis ph high s) := by
  unfold execChopperBlankExpiry
  split
  · dsimp only
    split <;> exact .ok
  · dsimp only
    split <;> exact .ok

theorem execPtpFollowUp_answers (s : State) : Answers (execPtpFollowUp s) := by
  unfold execPtpFollowUp
  split
  · exact .ok
  · split <;> exact .ok

theorem execPtpDelayReq_answers (domain identity seq : Nat) (s : State) : Answers (execPtpDelayReq domain identity seq s) := by
  unfold execPtpDelayReq
  split
  · exact .ok
  · dsimp only
    split
    · exact .ok
    · split <;> exact .ok

theorem execPtpForeignAnnounce_answers (identity : Nat) (s : State) : Answers (execPtpForeignAnnounce identity s) := by
  unfold execPtpForeignAnnounce
  split
  · exact .ok
  · dsimp only
    split
    · exact .ok
    · split <;> exact .ok

theorem execCalEqualiser_answers (unit s1 s2 : Nat) (s : State) : Answers (execCalEqualiser unit s1 s2 s) := by
  unfold execCalEqualiser
  split
  · exact .ok
  · split
    · dsimp only
      split <;> exact .ok
    · exact .ok

theorem execDramTraining_answers (sweeps : List Sweep) (s : State) : Answers (execDramTraining sweeps s) := by
  unfold execDramTraining
  split
  · dsimp only
    split <;> exact .ok
  · exact .ok

/-! ### Every command -/

/-- The command is a DRAM error at an address at or above the usable memory (17 R369). -/
def State.strays (s : State) (c : Instr) (addr : Nat) : Prop :=
  s.usable ≤ addr ∧ ((∃ w check ow, c = .dramCe addr w check ow) ∨ ∃ src stream block w check, c = .dramUe addr src stream block w check)

theorem execDramCe_answers {addr word : Nat} {check : Byte} {overwritten : Bool} {s : State} (h : ¬ s.usable ≤ addr) :
    Answers (execDramCe addr word check overwritten s) := by
  unfold execDramCe
  rw [if_neg h]
  exact .ite .ok .ok

theorem execDramUe_answers {addr : Nat} {source : DramSource} {stream block word : Nat} {check : Byte} {s : State} (h : ¬ s.usable ≤ addr) :
    Answers (execDramUe addr source stream block word check s) := by
  unfold execDramUe
  rw [if_neg h]
  split
  · exact .ok
  · split <;> exact .ok

/-- A command that does not stray answers: every branch of its meaning ends in a next state. -/
theorem exec_answers (s : State) : ∀ c : Instr, (∀ addr, ¬ s.strays c addr) → Answers (exec c s)
  | .powerOnReset, _ => .ok
  | .pinReset, _ => .ok
  | .watchdogExpiry, _ => .ite .ok .ok
  | .snuffEscReset .., _ => .ite .ok .ok
  | .supplyBrownout .., _ => .ok
  | .refClkLoss, _ => .ite .ok .ok
  | .igrelReset, _ => .ite .ok .ok
  | .resetRelease .., _ => .ite .ok .ok
  | .pllLock, _ => .ite .ok .ok
  | .serviceCoreRelease, _ => .ite .ok .ok
  | .bootRomVerify .., _ => execBootRomVerify_answers ..
  | .bootRetry, _ => .ite .ok .ok
  | .configLoad, _ => .ite .ok (.ite .ok .ok)
  | .blockResetWrite .., _ => .ok
  | .blockRelease .., _ => .ite .ok .ok
  | .releasePended .., _ => .ite .ok .ok
  | .firmwareTick, _ => .ite .ok .ok
  | .fsiSample .., _ => .ite .ok .ok
  | .dieTempSample .., _ => .ite .ok .ok
  | .cdcStall .., _ => .ite .ok .ok
  | .modeRequestKindle .., _ => .ok
  | .modeRequestPilot .., _ => .ok
  | .modeRequestTrim .., _ => .ok
  | .modeRequestLit .., _ => .ok
  | .modeRequestSnuff .., _ => .ok
  | .litStopComplete, _ => .ite .ok .ok
  | .stopSuppressTimeout .., _ => execStopSuppressTimeout_answers ..
  | .snuffEntry, _ => .ite .ok .ok
  | .safeStopAssert, _ => .ite .ok .ok
  | .safeStopRelease, _ => .ok
  | .snuffCauseClear .., _ => .ok
  | .headPwrDrop, _ => .ite .ok .ok
  | .headSettleExpiry, _ => .ite .ok .ok
  | .resetCauseClear .., _ => .ok
  | .resetRequest .., _ => .ok
  | .fusePadProgram .., _ => .ok
  | .fuseProgramComplete .., _ => execFuseProgramComplete_answers ..
  | .fusePadCodeRead .., _ => .ok
  | .fuseLock .., _ => .ok
  | .jtagExtest, _ => .ok
  | .jtagClamp, _ => .ok
  | .jtagIdcode, _ => .ok
  | .jtagSamplePreload .., _ => .ok
  | .jtagHighz, _ => .ok
  | .jtagBypass .., _ => .ite .ok .ok
  | .igrelDrop .., _ => .ok
  | .hello .., _ => .ok
  | .proof .., _ => .ok
  | .reservationLapse .., _ => .ite .ok .ok
  | .authLockoutExpiry .., _ => .ok
  | .close .., _ => .ok
  | .sessionIdleTimeout .., _ => .ite .ok .ok
  | .read .., _ => .ok
  | .write .., _ => .ok
  | .describe .., _ => .ok
  | .blockStart .., _ => .ok
  | .blockSegment .., _ => .ok
  | .blockAck .., _ => .ok
  | .blockEnd .., _ => .ok
  | .blockTimeout .., _ => execBlockTimeout_answers ..
  | .subscribe .., _ => .ok
  | .telemetrySend .., _ => execTelemetrySend_answers ..
  | .configSave .., _ => .ok
  | .fwSlotWrite .., _ => .ok
  | .fsiMinClear .., _ => .ok
  | .w1cClear .., _ => .ite .ok .ok
  | .rasterLinkUp .., _ => .ite .ok (.ite .ok .ok)
  | .rasterLaneLoss .., _ => execRasterLaneLoss_answers ..
  | .rasterPacketDrop .., _ => execRasterPacketDrop_answers ..
  | .block .., _ => .ite .ok (.ite .ok (.ite .ok .ok))
  | .commit .., _ => execCommit_answers ..
  | .creditPeriodExpiry, _ => .ite .ok .ok
  | .storeFlush .., _ => .ok
  | .ringMapWrite .., _ => .ok
  | .taperLineRequest .., _ => .ok
  | .decodeLine .., _ => execDecodeLine_answers ..
  | .contextRewind .., _ => execContextRewind_answers ..
  | .contextImageWrite .., _ => .ok
  | .stripCorrect .., _ => execStripCorrect_answers ..
  | .wickLineDecision, _ => execWickLineDecision_answers ..
  | .lineFrameSend .., _ => execLineFrameSend_answers ..
  | .healthEdit .., _ => .ok
  | .healthSwap, _ => .ok
  | .healthOverwriteDone, _ => .ite .ok .ok
  | .placementTrimWrite .., _ => .ok
  | .encoderEdge .., _ => .ite .ok (.ite .ok .ok)
  | .indexEdge .., _ => .ok
  | .standstillTimeout .., _ => .ite .ok .ok
  | .encoderBlockExpiry, _ => .ok
  | .encoderEnable .., _ => .ok
  | .armingStart, _ => .ite .ok .ok
  | .lineArm .., _ => .ite .ok .ok
  | .strobeEdge .., _ => execStrobeEdge_answers ..
  | .strobeEnd .., _ => .ite .ok .ok
  | .strobeCut .., _ => .ok
  | .snufferEscalate .., _ => .ite .ok .ok
  | .maintStart .., _ => .ok
  | .maintLine, _ => execMaintLine_answers ..
  | .headTrainReply .., _ => .ite (.ite .ok .ok) .ok
  | .headLaneTimeout .., _ => .ite (.ite .ok .ok) .ok
  | .status .., _ => execStatus_answers ..
  | .statusTimeout .., _ => .ite .ok .ok
  | .headLaneLoss .., _ => .ite .ok .ok
  | .ctrlResendTimeout .., _ => .ite .ok (.ite .ok .ok)
  | .headLaneRetrain .., _ => .ite .ok .ok
  | .recoverTimeExpiry .., _ => .ite .ok .ok
  | .timeFrameSend, _ => .ite .ok .ok
  | .twinLaneLoss .., _ => execTwinLaneLoss_answers ..
  | .heartbeatSend, _ => .ite .ok .ok
  | .heartbeat .., _ => .ite .ok (.ite .ok .ok)
  | .heartbeatTimeout, _ => .ok
  | .roleDecisionTimeout, _ => .ite .ok .ok
  | .decision .., _ => .ite .ok .ok
  | .lineStateSend, _ => execLineStateSend_answers ..
  | .lineState .., _ => execLineState_answers ..
  | .lineStateTimeout .., _ => .ite .ok .ok
  | .twinAliveLow, _ => .ite .ok .ok
  | .publish gen line recs, _ => execPublish_answers gen line recs s
  | .findingMessage .., _ => .ite .ok .ok
  | .modeMessage .., _ => execModeMessage_answers ..
  | .snuffAll .., _ => .ite .ok .ok
  | .swapRequest .., _ => .ok
  | .swapMessage .., _ => .ite .ok .ok
  | .roleSwapComplete, _ => execRoleSwapComplete_answers ..
  | .promoted .., _ => .ite .ok .ok
  | .twinResetRequest, _ => .ite .ok (.ite .ok .ok)
  | .joinReq .., _ => execJoinReq_answers ..
  | .joinPlan .., _ => execJoinPlan_answers ..
  | .joinSnapshot, _ => execJoinSnapshot_answers ..
  | .joinImage .., _ => execJoinImage_answers ..
  | .joinReady, _ => execJoinReady_answers ..
  | .joinCounters .., _ => execJoinCounters_answers ..
  | .joinRetry, _ => execJoinRetry_answers ..
  | .joinEnterLit, _ => execJoinEnterLit_answers ..
  | .cameraFrameStart .., _ => execCameraFrameStart_answers ..
  | .cameraTrigger .., _ => execCameraTrigger_answers ..
  | .cameraLine .., _ => execCameraLine_answers ..
  | .cameraFrameEnd .., _ => .ok
  | .cameraFrameTimeout .., _ => execCameraFrameTimeout_answers ..
  | .cameraCommit .., _ => .ok
  | .uartTx .., _ => .ok
  | .uartTransfer .., _ => execUartTransfer_answers ..
  | .uartRxDone .., _ => execUartRxDone_answers ..
  | .tapSelect .., _ => .ok
  | .ledShortTest .., _ => .ite (.ite .ok .ok) .ok
  | .flushTimeExpiry .., _ => .ite .ok .ok
  | .chunkCompress .., _ => execChunkCompress_answers ..
  | .uploadPacketSend, _ => execUploadPacketSend_answers ..
  | .uploadCreditGrant .., _ => .ite .ok .ok
  | .uploadResend .., _ => .ite .ok .ok
  | .uploadAck .., _ => .ite .ok .ok
  | .uploadEntryDropped .., _ => .ok
  | .ackTimeoutExpiry .., _ => execAckTimeoutExpiry_answers ..
  | .uploadRequest .., _ => .ok
  | .scanRequest .., _ => .ok
  | .scanComplete, _ => execScanComplete_answers ..
  | .runningWrite .., _ => .ok
  | .scrubBlock .., _ => execScrubBlock_answers ..
  | .rtPanicRaise .., _ => .ite .ok .ok
  | .rtPanicClear .., _ => .ite .ok .ok
  | .mr4Poll .., _ => .ite .ok .ok
  | .dramRefresh .., _ => .ite .ok .ok
  | .freqSelect .., _ => .ok
  | .dramFreqChange, _ => execDramFreqChange_answers ..
  | .dramFreqChangeDone, _ => execDramFreqChangeDone_answers ..
  | .wickRequest .., _ => .ok
  | .wickDeferredGrant, _ => execWickDeferredGrant_answers ..
  | .wickDeferTimeout .., _ => execWickDeferTimeout_answers ..
  | .headroomPublish, _ => .ite .ok .ok
  | .loopSample .., _ => .ite .ok (.ite .ok .ok)
  | .spiSenseDone .., _ => execSpiSenseDone_answers ..
  | .spiActuatorWrite .., _ => execSpiActuatorWrite_answers ..
  | .loopFollowTimeout .., _ => .ite .ok .ok
  | .bankSwap .., _ => .ok
  | .loopSetpoint .., _ => .ok
  | .loopEnable .., _ => .ok
  | .target .., _ => .ok
  | .moveStart .., _ => .ite .ok .ok
  | .motionTick, _ => .ite .ok .ok
  | .home .., _ => .ok
  | .axisStop .., _ => .ok
  | .stopAll .., _ => .ok
  | .chopperTrip .., _ => .ite .ok .ok
  | .chopperToffExpiry .., _ => .ite .ok .ok
  | .chopperBlankExpiry .., _ => execChopperBlankExpiry_answers ..
  | .phaseOpenTimeout .., _ => .ite .ok .ok
  | .timeSet .., _ => .ok
  | .timeStep .., _ => .ok
  | .rateTrim .., _ => .ok
  | .ptpSyncSend, _ => .ite .ok .ok
  | .ptpFollowUp, _ => execPtpFollowUp_answers ..
  | .ptpAnnounceSend, _ => .ite .ok .ok
  | .ptpDelayReq .., _ => execPtpDelayReq_answers ..
  | .ptpForeignAnnounce .., _ => execPtpForeignAnnounce_answers ..
  | .ptpTimestampVector .., _ => .ite (.ite .ok .ok) .ok
  | .calTemperature .., _ => .ite .ok .ok
  | .calFsi .., _ => .ite .ok .ok
  | .calTermination .., _ => .ite .ok .ok
  | .calEqualiser .., _ => execCalEqualiser_answers ..
  | .calChopper .., _ => .ite .ok .ok
  | .dramTraining .., _ => execDramTraining_answers ..
  | .eccFill, _ => .ite .ok .ok
  | .kindleEnd, _ => .ite .ok .ok
  | .freezeNow .., _ => .ok
  | .unfreeze .., _ => .ok
  | .twinLinkUp .., _ => .ite .ok .ok
  | .twinFrameDrop .., _ => .ite .ok .ok
  | .twinAliveHigh, _ => .ite .ok .ok
  | .supplyMonitorTrip, _ => .ok
  | .jtagTapReset, _ => .ok
  | .arpRequest .., _ => .ite .ok .ok
  | .icmpEchoRequest .., _ => .ite .ok .ok
  | .dramCe .., h => execDramCe_answers fun beyond => h _ ⟨beyond, .inl ⟨_, _, _, rfl⟩⟩
  | .dramUe .., h => execDramUe_answers fun beyond => h _ ⟨beyond, .inr ⟨_, _, _, _, _, rfl⟩⟩

theorem State.strays.stops {s : State} {c : Instr} {addr : Nat} : s.strays c addr → exec c s = .fault (.noSuchAddress addr)
  | ⟨beyond, .inl ⟨_, _, _, h⟩⟩ => h ▸ dramCe_beyond beyond
  | ⟨beyond, .inr ⟨_, _, _, _, _, h⟩⟩ => h ▸ dramUe_beyond beyond

/-- Settles O4: a command either strays beyond the memory, and stops, or answers. -/
theorem onlyDramErrorsStop : Obligations.OnlyDramErrorsStop := fun c s =>
  (em (∃ addr, s.strays c addr)).elim (fun ⟨addr, h⟩ => .inr ⟨addr, h.1, h.stops, h.2⟩)
    (fun h => .inl (exec_answers s c fun addr stray => h ⟨addr, stray⟩))

end Sys2Proof.Machine
end

section
/-! SUPPORT. O2 and O59 (17 R378; 18 R387; 21 R443): what passes in one REF cycle. -/

namespace Sys2Proof.Machine

/-! ### A REF cycle in two parts -/

/-- Beacon after one REF cycle (21 R443). -/
def State.beaconNext (s : State) : Beacon :=
  if s.blockUp Block.beacon then s.clock.beacon.tick (s.sreg Obj.rateTrim) else s.clock.beacon

/-- The clock after one REF cycle. -/
def State.clockNext (s : State) : Clock := { s.clock with cycles := s.clock.cycles + 1, beacon := s.beaconNext }

/-- The clock has counted, and what is kept for one REF cycle is gone. -/
def State.ticked (s : State) : State :=
  ({ s with clock := s.clockNext, flagged := [], wick := { s.wick with fresh := [] } }).ylogClose

/-- The Wick's levels have refilled, and time in panic has added up. -/
def State.refilled (s : State) : State :=
  let t := if s.blockUp Block.wick then s.refill else s
  if t.panics then t.count Obj.panicTime 5 else t

theorem State.cycle_parts {s : State} (on : s.clock.refOn = true) : s.cycle = s.ticked.refilled.memSlot.standing := if_pos on

theorem State.ticked_only (s : State) : Only [.clock, .wick, .flagged, .ylog] s s.ticked :=
  (State.ylogClose_only _).step (by decide) (Only.refl.with_clock_wick_flagged (by decide))

theorem State.refilled_only (s : State) : Only [.regs, .wick, .flagged] s s.refilled := by
  unfold State.refilled
  extract_lets t
  have filled : Only [.regs, .wick, .flagged] s t := .ite (fun _ => s.refill_only) (fun _ => .refl)
  exact .ite (fun _ => (t.count_only ..).step (by decide) filled) (fun _ => filled)

theorem State.refill_sameReset (s : State) : SameReset s s.refill :=
  ((State.setLevel_sameReset ..).step (State.setLevel_sameReset ..)).step (State.setLevel_sameReset ..)

theorem State.refilled_sameReset (s : State) : SameReset s s.refilled := by
  unfold State.refilled
  extract_lets t
  have filled : SameReset s t := .ite (fun _ => s.refill_sameReset) (fun _ => .refl)
  exact .ite (fun _ => (t.setReg_sameReset _ (by decide)).step filled) (fun _ => filled)

theorem State.cycle_clock {s : State} (on : s.clock.refOn = true) : s.cycle.clock = s.clockNext := by
  rw [State.cycle_parts on, (State.standing_only _).agree .clock (by decide), (State.memSlot_only _).agree .clock (by decide),
    (State.refilled_only _).agree .clock (by decide)]
  rfl

/-! ### Beacon (21 R443) -/

/-- The time that a tick adds to, in 2^-24 ns. -/
def Beacon.sum (b : Beacon) (trim : Int) : Int := (b.ns : Int) * 2 ^ 24 + b.frac + 5 * 2 ^ 24 + trim

/-- Beacon's time in 2^-24 ns. -/
def Beacon.fine (b : Beacon) : Nat := (b.sec * 10 ^ 9 + b.ns) * 2 ^ 24 + b.frac

theorem Beacon.tick_counts {b : Beacon} {trim : Int} (normal : b.normal = true) (low : -(2 ^ 15) ≤ trim) (high : trim < 2 ^ 15) :
    ((b.tick trim).fine : Int) = ((b.fine : Int) + 5 * 2 ^ 24 + trim) % (2 ^ 48 * 10 ^ 9 * 2 ^ 24) ∧
      (b.sum trim < 10 ^ 9 * 2 ^ 24 → (b.tick trim).sec = b.sec ∧ (((b.tick trim).ns * 2 ^ 24 + (b.tick trim).frac : Nat) : Int) = b.sum trim) ∧
      (10 ^ 9 * 2 ^ 24 ≤ b.sum trim → (b.tick trim).sec = (b.sec + 1) % 2 ^ 48 ∧
        (((b.tick trim).ns * 2 ^ 24 + (b.tick trim).frac : Nat) : Int) = b.sum trim - 10 ^ 9 * 2 ^ 24) := by
  simp only [Beacon.normal, Bool.and_eq_true, decide_eq_true_eq] at normal
  obtain ⟨⟨sec, ns⟩, frac⟩ := normal
  unfold Beacon.tick Beacon.fine Beacon.sum
  dsimp only
  split
  · refine ⟨?_, fun _ => ⟨?_, ?_⟩, fun _ => ⟨rfl, ?_⟩⟩ <;> dsimp only <;> omega
  · refine ⟨?_, fun _ => ⟨rfl, ?_⟩, fun _ => ⟨?_, ?_⟩⟩ <;> dsimp only <;> omega

/-- Settles O59: a cycle ticks Beacon (`State.cycle_clock`), and a tick is the sum, carried into the seconds (`Beacon.tick_counts`). -/
theorem beaconCountsEveryRefCycle : Obligations.BeaconCountsEveryRefCycle := by
  intro s on up normal low high
  have ticked : s.cycle.clock.beacon = s.clock.beacon.tick (s.sreg Obj.rateTrim) :=
    (congrArg Clock.beacon (State.cycle_clock on)).trans (if_pos up)
  dsimp only
  rw [ticked]
  exact ⟨Beacon.tick_normal _ _ normal low high, Beacon.tick_counts normal low high⟩

/-! ### The command slot (17 R378) -/

theorem State.promoteAged_mem (s : State) : s.promoteAged.dram.mem = s.dram.mem ∧ s.promoteAged.dram.ecc = s.dram.ecc := by
  unfold State.promoteAged
  split <;> exact ⟨rfl, rfl⟩

theorem State.memSlot_mem (s : State) : s.memSlot.dram.mem = s.dram.mem ∧ s.memSlot.dram.ecc = s.dram.ecc := by
  unfold State.memSlot
  split
  · exact ⟨rfl, rfl⟩
  · dsimp only
    split <;> exact s.promoteAged_mem

/-- With no request waiting, none is promoted and none issues. -/
theorem State.memSlot_idle {s : State} (urgent : s.dram.urgent = []) (waiting : s.dram.waiting = []) : s.memSlot = s := by
  have queues : { s.dram with urgent := s.dram.urgent, waiting := s.dram.waiting } = { s.dram with urgent := [], waiting := [] } := by
    rw [urgent, waiting]
  have same : s.promoteAged = s := by
    unfold State.promoteAged
    rw [urgent, waiting]
    split
    · rfl
    · exact congrArg (fun d => { s with dram := d }) queues.symm
  have idle : s.dram.next s.panics = none := by
    unfold Dram.next
    rw [urgent, waiting]
    split <;> rfl
  unfold State.memSlot
  split
  · rfl
  · dsimp only
    rw [same, idle]

/-- Without panic, the first request of group 1 is the next. -/
theorem State.next_urgent {s : State} {r : MemReq} {rest : List MemReq} (urgent : s.dram.urgent = r :: rest) (calm : s.panics = false) :
    s.promoteAged.dram.next s.panics = some r := by
  have first : s.promoteAged.dram.urgent = r :: (rest ++ s.dram.waiting.filter s.overdue) := by
    unfold State.promoteAged
    rw [if_neg (by simp [calm])]
    simp [urgent]
  rw [Dram.next, if_neg (by simp [calm]), first]

/-- Settles O2: the clock counts, the Wick refills, and the command slot issues where a request waits. -/
theorem idleStepIsOneRefCycle : Obligations.IdleStepIsOneRefCycle := by
  intro s idle on
  have frame := s.cycle_only
  have clock := State.cycle_clock on
  have before : Only [.clock, .wick, .flagged, .ylog, .regs] s s.ticked.refilled :=
    (State.refilled_only _).step (by decide) (s.ticked_only.mono (by decide))
  have slot : s.cycle.dram = s.ticked.refilled.memSlot.dram ∧ s.cycle.out = s.ticked.refilled.memSlot.out := by
    rw [State.cycle_parts on]
    exact ⟨(State.standing_only _).agree .dram (by decide), (State.standing_only _).agree .out (by decide)⟩
  have dram : s.ticked.refilled.dram = s.dram := before.agree .dram (by decide)
  have out : s.ticked.refilled.out = s.out := before.agree .out (by decide)
  obtain ⟨mem, ecc⟩ := s.ticked.refilled.memSlot_mem
  refine ⟨s.cycle, by rw [step, idle], by rw [clock]; rfl, (frame.agree .pending (by decide)).trans idle,
    fun up => by rw [clock]; exact if_pos up, fun held => by rw [clock]; exact if_neg (by simp [held]),
    frame.agree .mode (by decide), frame.agree .role (by decide), by rw [slot.1, mem, dram], by rw [slot.1, ecc, dram],
    frame.agree .taper (by decide), frame.agree .pins (by decide), frame.agree .doms (by decide), fun urgent waiting => ?_,
    fun r rest urgent calm up awake => ?_⟩
  · rw [slot.1, slot.2, State.memSlot_idle (by rw [dram, urgent]) (by rw [dram, waiting])]
    exact ⟨dram, out⟩
  · have panics : s.ticked.refilled.panics = s.panics := by
      unfold State.panics
      rw [dram, before.agree .mode (by decide)]
    have upNow : s.ticked.refilled.blockUp Block.dram = true :=
      ((s.ticked.refilled_sameReset.blockUp _).trans rfl : _ = s.blockUp Block.dram).trans up
    have awakeNow : s.ticked.refilled.selfRefresh = false := by rw [State.selfRefresh, dram]; exact awake
    rw [slot.2, memSlot_issues upNow awakeNow (State.next_urgent (by rw [dram, urgent]) (panics.trans calm)), out]

end Sys2Proof.Machine
end

section
/-! SUPPORT. O58 (05 R120; 22 R473): what an event does that comes while the Yilloger is frozen. -/

namespace Sys2Proof.Machine

/-! ### The log -/

/-- A frozen Yilloger notes a trigger, where the event is one, and counts the event. -/
theorem State.ylogPut_counts {s : State} (v : YEvent) (h : s.reg Obj.ylogState = 2) :
    ∃ u, LogsAlike s u ∧ u.regs = s.regs ∧ s.ylogPut v = u.bump Obj.missed := by
  unfold State.ylogPut
  extract_lets trig u
  have alike : LogsAlike s u := .noted s _
  rw [if_pos ((alike.reg _ (by decide)).trans h)]
  refine ⟨u, alike, ?_, rfl⟩
  simp only [u]
  split <;> rfl

/-- So it does with an event that comes after those of lower codes in its REF cycle. -/
theorem State.ylogWrite_counts {s : State} {code : Nat} (detail : List Byte) (h : s.reg Obj.ylogState = 2)
    (hb : ∀ x ∈ s.ylog.batch, x.code ≤ code) : (s.ylogWrite code detail).ylog.entries = s.ylog.entries ∧
      (s.ylogWrite code detail).ylog.post = s.ylog.post ∧ (s.ylogWrite code detail).regs = (s.bump Obj.missed).regs := by
  unfold State.ylogWrite
  extract_lets v base batch s1 log
  have h1 : s1 = s.ylogPut v := if_pos (List.all_eq_true.mpr fun x hx => decide_eq_true (hb x hx))
  obtain ⟨u, alike, regs, put⟩ := State.ylogPut_counts v h
  have same : log = s.ylog := (congrArg State.ylog (h1.trans put)).trans alike.ylog
  refine ⟨(congrArg Ylog.entries same :), (congrArg Ylog.post same :), (congrArg State.regs (h1.trans put)).trans ?_⟩
  simp only [State.bump, State.count, State.setReg, State.reg_congr regs, regs]

/-! ### The EVENT messages -/

/-- What is sent leaves each session with its key. -/
theorem State.sendIn_key (s : State) (dst : Src) (sess ty tag : Nat) (p : List Byte) (id : Nat) :
    ((s.sendIn dst sess ty tag p).session id).map Session.key = (s.session id).map Session.key := by
  unfold State.sendIn
  split
  · rfl
  · rw [State.session_modify (s := s) (f := fun y => { y with txNext := (y.txNext + 1) % 2 ^ 32 }) rfl (fun _ => ⟨rfl, rfl⟩), Option.map_map]
    congr 1
    funext x
    dsimp only [Function.comp_apply]
    split <;> rfl

/-- A packet that is sent to each of a list of sessions leaves for each that is open, under its key. -/
theorem State.sendEach_open (ty tag : Nat) (p : List Byte) (l : List Session) (s : State) {x : Session} (hx : x ∈ l) {key : List Byte}
    (open_ : (s.session x.id).map Session.key = some key) :
    ∃ n, .igrel x.src ty x.id tag n p (some key) ∈ (s.sendEach ty tag p l).out := by
  induction l generalizing s with
  | nil => cases hx
  | cons y l ih =>
    unfold State.sendEach
    obtain rfl | hl := List.mem_cons.mp hx
    · obtain ⟨z, hz, rfl⟩ := Option.map_eq_some_iff.mp open_
      refine ⟨z.txNext, State.sendEach_mem ?_ ..⟩
      rw [(s.sendIn_open x.src ty tag p hz).1]
      exact List.mem_cons_self
    · exact ih _ hl ((s.sendIn_key ..).trans open_)

/-- An event goes out to every open session (R120). -/
theorem State.logEvent_sent (s : State) (code : Nat) (detail : List Byte) {x : Session} (hx : x ∈ s.igrel.sessions)
    (hr : x.reserved = false) (open_ : s.session x.id = some x) :
    ∃ n, .igrel x.src 0x32 x.id 0 n (le 2 code ++ le 10 s.now ++ (padTo 12 detail).take 8) (some x.key) ∈ (s.logEvent code detail).out := by
  have written := s.ylogWrite_only code detail
  have igrel := written.agree .igrel (by decide)
  have now : (s.ylogWrite code detail).now = s.now := congrArg (fun c : Clock => time80 c.beacon.sec c.beacon.ns) (written.agree .clock (by decide))
  unfold State.logEvent
  extract_lets u
  rw [now]
  exact State.sendEach_open _ _ _ _ _ (List.mem_filter.mpr ⟨by rwa [igrel], by rw [hr]; rfl⟩)
    ((congrArg _ (State.session_congr igrel x.id)).trans (congrArg (Option.map Session.key) open_))

/-- Settles O58: the log's part lies in `ylogPut`, the messages' in `sendEach`. -/
theorem frozenYilloggerStoresNothing : Obligations.FrozenYilloggerStoresNothing := by
  intro s code detail frozen order t
  obtain ⟨entries, post, regs⟩ := State.ylogWrite_counts detail frozen order
  have sent : Only [.igrel, .out] (s.ylogWrite code detail) t := State.sendEach_only ..
  have log := sent.agree .ylog (by decide)
  have hreg (k : Nat) : t.reg k = (s.bump Obj.missed).reg k := State.reg_congr ((sent.agree .regs (by decide)).trans regs) k
  have kept : s.regsBut t [Obj.missed] := fun k hk => (hreg k).trans (s.bump_regsBut _ k hk)
  exact ⟨(congrArg Ylog.entries log).trans entries, (congrArg Ylog.post log).trans post, (kept _ (by decide)).trans frozen,
    kept _ (by decide), (hreg _).trans (s.reg_bump_same _), kept, fun x hx hr open_ => s.logEvent_sent code detail hx hr open_⟩

end Sys2Proof.Machine
end

section
/-! SUPPORT. O29 (21 R444 to R447; 22 R472 to R475): the writes of Beacon and the Yilloger. -/

namespace Sys2Proof.Machine

/-! ### Beacon -/

theorem State.writeEffect_timeSet (s : State) (v : Nat) : s.writeEffect Obj.timeSet v = s.setTime v := rfl

theorem State.writeEffect_timeStep (s : State) (v : Nat) : s.writeEffect Obj.timeStep v = s.takeStep (toSigned 64 v) := rfl

theorem State.writeEffect_rateTrim (s : State) (v : Nat) : s.writeEffect Obj.rateTrim v = s.setReg Obj.rateTrim v := rfl

/-- A moved Beacon reads the time before and the step, modulo 2^48 seconds (R447). -/
theorem Beacon.moved_time (d : Int) (b : Beacon) : (((1000000000 * (b.moved d).sec + (b.moved d).ns : Nat)) : Int) =
    (((1000000000 * b.sec + b.ns : Nat) : Int) + d) % (2 ^ 48 * 10 ^ 9) := by
  unfold Beacon.moved
  dsimp only
  omega

/-- Two readings within the range of the seconds are moved to one another by their difference. -/
theorem Beacon.moved_to (b : Beacon) {v : Nat} (hv : v / 2 ^ 48 < 10 ^ 9) :
    b.moved ((ns80 v : Int) - (1000000000 * b.sec + b.ns : Nat)) = { sec := v % 2 ^ 48, ns := v / 2 ^ 48, frac := b.frac } := by
  have whole : ((1000000000 * b.sec + b.ns : Nat) : Int) + ((ns80 v : Int) - (1000000000 * b.sec + b.ns : Nat)) = ns80 v := by omega
  have low : ns80 v < 2 ^ 48 * 1000000000 := by
    unfold ns80
    omega
  have first : (((ns80 v : Nat) : Int) % ((2 ^ 48 * 1000000000 : Nat) : Int)).toNat = ns80 v := by omega
  unfold Beacon.moved
  dsimp only
  rw [whole, first]
  unfold ns80
  congr 1 <;> omega

theorem State.takeStep_beacon (s : State) (d : Int) : (s.takeStep d).clock.beacon = s.clock.beacon.moved d := by
  have before := ((s.moveKindleLast d).moveTimes_only d).agree .clock (by decide)
  have first := (s.moveKindleLast_only d).agree .clock (by decide)
  unfold State.takeStep State.stepBeacon
  extract_lets u1 c u2 p u3 u4 u5
  have sent : Only [.heads, .out] u4 u5 := .ite (fun _ => State.sendTimes_only ..) (fun _ => .refl)
  rw [(State.logEvent_only ..).agree .clock (by decide), sent.agree .clock (by decide)]
  exact congrArg (fun c : Clock => c.beacon.moved d) (before.trans first)

/-- STEPS counts a step, and no event of the Yilloger, no moved time and no frame counts there. -/
theorem State.takeStep_steps (s : State) (d : Int) : (s.takeStep d).reg Obj.steps = countValue Obj.steps (s.reg Obj.steps) 1 := by
  have first : (s.moveKindleLast d).reg Obj.steps = s.reg Obj.steps := by
    unfold State.moveKindleLast
    split
    · rfl
    · exact State.reg_setReg_other _ _ (by decide)
  have apart (ch : Fin 2) : Obj.steps ≠ Obj.lastEdgeTime ch := by
    revert ch
    decide
  have edge (u : State) (ch : Fin 2) : (u.moveLastEdge d ch).reg Obj.steps = u.reg Obj.steps := by
    unfold State.moveLastEdge
    split
    · rfl
    · exact State.reg_setReg_other _ _ (apart ch)
  have times : ((s.moveKindleLast d).moveTimes d).reg Obj.steps = s.reg Obj.steps := (edge _ 1).trans ((edge _ 0).trans first)
  unfold State.takeStep State.stepBeacon
  extract_lets u1 c u2 p u3 u4 u5
  have sent : Only [.heads, .out] u4 u5 := .ite (fun _ => State.sendTimes_only ..) (fun _ => .refl)
  rw [State.logEvent_reg _ _ _ (by decide), sent.reg (by decide), State.reg_setBits_other _ _ (by decide), State.reg_bump_same]
  exact congrArg (countValue Obj.steps · 1) times

section
variable {s : State} {h : Hdr} {v : Nat}

theorem timeSet_moves (ha : s.admits h Obj.timeSet v) (range : v / 2 ^ 48 < 10 ^ 9) : Completes (.timeSet h v) s (fun t =>
    t.clock.beacon.sec = v % 2 ^ 48 ∧ t.clock.beacon.ns = v / 2 ^ 48 ∧ t.clock.beacon.frac = s.clock.beacon.frac ∧
      t.reg Obj.timeValid = 1) := by
  have effect := State.send_effect_raw ha (by decide) (findObj_ty_ne (by decide +kernel))
  rw [State.writeEffect_timeSet] at effect
  have moved : ((s.sawPacket h).setTime v).clock.beacon = { sec := v % 2 ^ 48, ns := v / 2 ^ 48, frac := s.clock.beacon.frac } :=
    (State.takeStep_beacon ..).trans (Beacon.moved_to s.clock.beacon range)
  have beacon := (congrArg Clock.beacon (effect.agree .clock (by decide))).trans moved
  exact ⟨_, rfl, congrArg Beacon.sec beacon, congrArg Beacon.ns beacon, (congrArg Beacon.frac beacon :),
    (effect.reg (by decide) _).trans (State.reg_setReg_same ..)⟩

theorem timeStep_moves (ha : s.admits h Obj.timeStep v) : Completes (.timeStep h v) s (fun t =>
    t.clock.beacon.frac = s.clock.beacon.frac ∧ (t.nowNs : Int) = ((s.nowNs : Int) + toSigned 64 v) % (2 ^ 48 * 10 ^ 9) ∧
      t.reg Obj.steps = countValue Obj.steps (s.reg Obj.steps) 1) := by
  have effect := State.send_effect_raw ha (by decide) (findObj_ty_ne (by decide +kernel))
  rw [State.writeEffect_timeStep] at effect
  have beacon : (s.send h Obj.timeStep v).clock.beacon = s.clock.beacon.moved (toSigned 64 v) :=
    (congrArg Clock.beacon (effect.agree .clock (by decide))).trans (State.takeStep_beacon ..)
  refine ⟨_, rfl, (congrArg Beacon.frac beacon :), ?_, (effect.reg (by decide) _).trans (State.takeStep_steps ..)⟩
  unfold State.nowNs
  rw [beacon]
  exact Beacon.moved_time ..

theorem rateTrim_takes (ha : s.admits h Obj.rateTrim v) :
    Completes (.rateTrim h v) s (fun t => t.reg Obj.rateTrim = v ∧ t.clock = s.clock ∧ s.regsBut t [Obj.rateTrim]) := by
  have effect := State.send_effect_raw ha (by decide) (findObj_ty_ne (by decide +kernel))
  rw [State.writeEffect_rateTrim] at effect
  exact ⟨_, rfl, (effect.reg (by decide) _).trans (State.reg_setReg_same ..), effect.agree .clock (by decide),
    fun k hk => (effect.reg (by decide) k).trans ((s.sawPacket h).setReg_regsBut _ _ k hk)⟩

end

/-! ### The Yilloger -/

theorem State.writeEffect_freezeNow (s : State) (v : Nat) : s.writeEffect Obj.freezeNow v = if v = 1 then s.freezeTrigger else s := rfl

theorem State.writeEffect_unfreeze (s : State) (v : Nat) : s.writeEffect Obj.unfreeze v = s.unfreezeLog := rfl

/-- A trigger that finds the log running (R472). -/
theorem State.freezeTrigger_freezes {s : State} (running : s.reg Obj.ylogState = 0) :
    s.freezeTrigger.reg Obj.freezeEntry = s.reg Obj.ylogNext ∧
    s.freezeTrigger.reg Obj.ylogState = (if s.reg Obj.postTrigger = 0 then 2 else 1) ∧ s.freezeTrigger.ylog.entries = s.ylog.entries := by
  have noted (k : Nat) : s.noteTrigger.reg k = s.reg k := s.noteTrigger_only.reg (by decide) k
  have starts : s.freezeTrigger = s.noteTrigger.startFreeze := if_neg (by simp [noted, running])
  rw [starts]
  exact ⟨(State.reg_setReg_other _ _ (by decide)).trans (State.reg_setReg_same ..), State.reg_setReg_same .., rfl⟩

theorem freezeNow_freezes {s : State} {h : Hdr} (ha : s.admits h Obj.freezeNow 1) (running : s.reg Obj.ylogState = 0) :
    Completes (.freezeNow h 1) s (fun t => t.reg Obj.freezeEntry = s.reg Obj.ylogNext ∧
      t.reg Obj.ylogState = (if s.reg Obj.postTrigger = 0 then 2 else 1) ∧ t.ylog.entries = s.ylog.entries) := by
  have effect := State.send_effect_raw ha (by decide) (findObj_ty_ne (by decide +kernel))
  rw [State.writeEffect_freezeNow, if_pos rfl] at effect
  obtain ⟨entry, state, entries⟩ := State.freezeTrigger_freezes (s := s.sawPacket h) running
  exact ⟨_, rfl, (effect.reg (by decide) _).trans entry, (effect.reg (by decide) _).trans state,
    (congrArg Ylog.entries (effect.agree .ylog (by decide))).trans entries⟩

/-- With no trigger noted in the REF cycle the log runs again (R475). -/
theorem State.unfreezeLog_runs {s : State} (quiet : Table.get 0 s.flagged Obj.ylogState = 0) :
    s.unfreezeLog = (s.ylogClose.setReg Obj.missed 0).setReg Obj.ylogState 0 := by
  unfold State.unfreezeLog
  extract_lets u noted
  have none : noted = 0 := quiet
  rw [none]
  rfl

theorem unfreeze_runs {s : State} {h : Hdr} {v : Nat} (ha : s.admits h Obj.unfreeze v) (quiet : Table.get 0 s.flagged Obj.ylogState = 0) :
    Completes (.unfreeze h v) s (fun t => t.reg Obj.ylogState = 0 ∧ t.reg Obj.missed = 0 ∧ t.ylog.entries = s.ylog.entries) := by
  have effect := State.send_effect_raw ha (by decide) (findObj_ty_ne (by decide +kernel))
  rw [State.writeEffect_unfreeze, State.unfreezeLog_runs (s := s.sawPacket h) quiet] at effect
  exact ⟨_, rfl, (effect.reg (by decide) _).trans (State.reg_setReg_same ..),
    (effect.reg (by decide) _).trans ((State.reg_setReg_other _ _ (by decide)).trans (State.reg_setReg_same ..)),
    (congrArg Ylog.entries (effect.agree .ylog (by decide)) :)⟩

/-- Settles O29, a lemma for each write. -/
theorem timeAndLogWrites : Obligations.TimeAndLogWrites := fun _ _ _ =>
  ⟨timeSet_moves, timeStep_moves, rateTrim_takes, freezeNow_freezes, unfreeze_runs⟩

end Sys2Proof.Machine
end

section
/-! SUPPORT. The Wick's pools and answers (18 R387, R393 to R396): what each of its operations leaves of the levels, the queue, the leave and
the registers. -/

namespace Sys2Proof.Machine

/-! ### The objects that it writes -/

theorem State.regsBut.trans {s t u : State} {l : List Nat} (h : t.regsBut u l) (k : s.regsBut t l) : s.regsBut u l :=
  fun j hj => (h j hj).trans (k j hj)

theorem State.regsBut.ite {s t u : State} {l : List Nat} {c : Prop} [Decidable c] (h : c → s.regsBut t l) (k : ¬ c → s.regsBut u l) :
    s.regsBut (if c then t else u) l := by
  by_cases x : c
  · rw [if_pos x]
    exact h x
  · rw [if_neg x]
    exact k x

theorem State.setBits_regsBut (s : State) (k m : Nat) : s.regsBut (s.setBits k m) [k] := fun _ hj => s.reg_setBits_other m (by simpa using hj)

theorem State.setLevel_regsBut (s : State) (p : Nat) (v : Int) : s.regsBut (s.setLevel p v) [Obj.wickStatus] := by
  unfold State.setLevel
  extract_lets c v' s1
  exact (.ite (fun _ => s.setBits_regsBut _ _) (fun _ => .refl) : s.regsBut s1 _)

theorem State.chargePool_regsBut (s : State) (p e : Nat) : s.regsBut (s.chargePool p e) [Obj.wickStatus] := s.setLevel_regsBut _ _

theorem State.chargeAll_regsBut (s : State) (l : List (Nat × Nat)) : s.regsBut (s.chargeAll l) [Obj.wickStatus] := by
  induction l generalizing s with
  | nil => exact .refl
  | cons x l ih => exact (ih _).trans (s.chargePool_regsBut _ _)

theorem State.countPools_regsBut (s : State) (f : Nat → Nat) (l : List (Nat × Nat)) :
    s.regsBut (s.countPools f l) (l.map (fun x => f x.1)) := by
  induction l generalizing s with
  | nil => exact .refl
  | cons x l ih => exact .step (ih _) (s.bump_regsBut _) (by simp) (by simp)

theorem State.noteQueued_regsBut (s : State) : s.regsBut s.noteQueued [Obj.queued 0, Obj.queued 1, Obj.queued 2] :=
  .step (State.setReg_regsBut _ _ _) (.step (State.setReg_regsBut _ _ _) (s.setReg_regsBut _ _) (n := [Obj.queued 0, Obj.queued 1]))

/-- The objects that a decision of a line writes, with the events that it raises (R390). -/
def decisionObjects : List Nat := Obj.wickStatus :: Obj.linesDemoted :: yilloggerObjects

theorem State.noteOutcome_regsBut (s : State) (g n : Nat) (o : WickOut) : s.regsBut (s.noteOutcome g n o) decisionObjects := by
  unfold State.noteOutcome
  extract_lets grp s1
  have h1 : s.regsBut s1 decisionObjects :=
    .step (State.setBits_regsBut _ _ _) (s.bump_regsBut _) (by simp [decisionObjects]) (by simp [decisionObjects])
  have logged (u : State) (x : Group) (code : Nat) : u.regsBut ((u.setGroup g x).logEvent code []) decisionObjects :=
    (State.regsBut.mono (State.logEvent_regsBut _ _ _) (by simp [decisionObjects])).trans ((u.setGroup_only g x).regsBut (by decide) _)
  cases o with
  | grant => exact .refl
  | demote => exact .ite (fun _ => (logged _ _ _).trans h1) (fun _ => h1)
  | skip => exact .ite (fun _ => logged _ _ _) (fun _ => .refl)

theorem State.decideLine_regsBut (s : State) (g n : Nat) : s.regsBut (s.decideLine g n) decisionObjects := by
  unfold State.decideLine
  split
  next o e _ =>
  extract_lets s1 s2
  have h1 : s.regsBut s1 decisionObjects := .ite (fun _ => .refl) (fun _ => (s.chargePool_regsBut _ _).mono (by simp [decisionObjects]))
  have h2 : s.regsBut s2 decisionObjects :=
    (State.noteOutcome_regsBut _ _ _ _).trans (((s1.holdDecision_only g n o e).regsBut (by decide) _).trans h1)
  exact .ite (fun _ => ((State.emit_only s2 _).regsBut (by decide) _).trans h2) (fun _ => h2)

/-- The lines that go before a request write nothing else. -/
theorem State.linesFirst_regsBut (s : State) : s.regsBut s.linesFirst decisionObjects := by
  have ready (k : Nat) (s : State) : s.regsBut (s.decideReady k) decisionObjects := by
    induction k generalizing s with
    | zero => exact .refl
    | succ k ih =>
      unfold State.decideReady
      split
      · exact .refl
      · exact (ih _).trans (s.decideLine_regsBut _ _)
  exact .ite (fun _ => ready _ _) (fun _ => .refl)

/-! ### The pools -/

theorem WickReq.pools_nodup (r : WickReq) : (r.pools.map Prod.fst).Nodup := by
  unfold WickReq.pools
  cases r.core <;> cases r.head <;> cases r.mach <;> simp

theorem State.poolCap_congr {s t : State} {l : List Nat} (h : s.regsBut t l) (p : Nat) (hl : Obj.limit p ∉ l := by simp)
    (hw : Obj.window p ∉ l := by simp) : t.poolCap p = s.poolCap p := by
  unfold State.poolCap
  rw [h _ hl, h _ hw]

theorem State.setLevel_cap (s : State) (p : Nat) (v : Int) (q : Nat) : (s.setLevel p v).poolCap q = s.poolCap q :=
  State.poolCap_congr (s.setLevel_regsBut p v) q (by simp [Obj.limit, Obj.wickStatus]; omega) (by simp [Obj.window, Obj.wickStatus]; omega)

theorem State.poolLevel_congr {s t : State} (h : t.wick = s.wick) (p : Nat) : t.poolLevel p = s.poolLevel p := by
  unfold State.poolLevel
  rw [h]

/-- A level is held between the pool's capacity and its negative (R387). -/
theorem State.setLevel_same (s : State) (p : Nat) (v : Int) :
    (s.setLevel p v).poolLevel p = if v < -s.poolCap p then -s.poolCap p else min (s.poolCap p) v := by
  unfold State.setLevel
  extract_lets c v' s1
  have held : v' = if v < -c then -c else min c v := by
    simp only [v']
    split_ifs <;> omega
  unfold State.poolLevel
  dsimp only
  split_ifs at held ⊢ <;> exact held

/-- The other pools keep theirs. -/
theorem State.setLevel_other (s : State) {p q : Nat} (v : Int) (h : q ≠ p) (hp : p < 3) (hq : q < 3) :
    (s.setLevel p v).poolLevel q = s.poolLevel q := by
  unfold State.setLevel
  extract_lets c v' s1 w
  have same : w = s.wick := by
    simp only [w, s1]
    split <;> rfl
  unfold State.poolLevel
  rw [same]
  interval_cases p <;> interval_cases q <;> trivial

theorem State.chargePool_same (s : State) (p e : Nat) (h : (e : Int) ≤ s.poolLevel p) :
    (s.chargePool p e).poolLevel p = min (s.poolCap p) (s.poolLevel p - e) := by
  have cap : 0 ≤ s.poolCap p := Int.natCast_nonneg _
  exact (s.setLevel_same p _).trans (if_neg (by omega))

theorem State.chargePool_other (s : State) {p q : Nat} (e : Nat) (h : q ≠ p) (hp : p < 3) (hq : q < 3) :
    (s.chargePool p e).poolLevel q = s.poolLevel q := s.setLevel_other _ h hp hq

section
variable {l : List (Nat × Nat)} (low : ∀ x ∈ l, x.1 < 3)
include low

theorem State.chargeAll_other (s : State) {q : Nat} (hq : q < 3) (h : q ∉ l.map Prod.fst) : (s.chargeAll l).poolLevel q = s.poolLevel q := by
  induction l generalizing s with
  | nil => rfl
  | cons x l ih =>
    obtain ⟨lx, ll⟩ := List.forall_mem_cons.mp low
    obtain ⟨hx, hl⟩ := not_or.mp (List.mem_cons.not.mp h)
    exact (ih ll _ hl).trans (s.chargePool_other _ hx lx hq)

/-- Each pool that is named once is charged once, where its level covers the charge. -/
theorem State.chargeAll_same (s : State) (once : (l.map Prod.fst).Nodup) (covered : ∀ x ∈ l, (x.2 : Int) ≤ s.poolLevel x.1) :
    ∀ x ∈ l, (s.chargeAll l).poolLevel x.1 = min (s.poolCap x.1) (s.poolLevel x.1 - x.2) := by
  induction l generalizing s with
  | nil => exact fun _ h => absurd h List.not_mem_nil
  | cons y l ih =>
    obtain ⟨ly, ll⟩ := List.forall_mem_cons.mp low
    obtain ⟨apart, later⟩ := List.nodup_cons.mp once
    obtain ⟨cy, cl⟩ := List.forall_mem_cons.mp covered
    have kept (x : Nat × Nat) (hx : x ∈ l) : (s.chargePool y.1 y.2).poolLevel x.1 = s.poolLevel x.1 :=
      s.chargePool_other _ (fun same => apart (same ▸ List.mem_map_of_mem hx)) ly (ll x hx)
    refine List.forall_mem_cons.mpr ⟨?_, fun x hx => ?_⟩
    · exact (State.chargeAll_other ll _ ly apart).trans (s.chargePool_same _ _ cy)
    · exact (ih ll _ later (fun x hx => (kept x hx) ▸ cl x hx) x hx).trans (by rw [kept x hx]; exact congrArg (min · _) (s.setLevel_cap ..))

end

/-! ### The counts -/

section
variable (s : State) {f : Nat → Nat} (apart : ∀ p q, f p = f q → p = q)
include apart

theorem State.countPools_same {l : List (Nat × Nat)} (once : (l.map Prod.fst).Nodup) :
    ∀ x ∈ l, (s.countPools f l).reg (f x.1) = countValue (f x.1) (s.reg (f x.1)) 1 := by
  induction l generalizing s with
  | nil => exact fun _ h => absurd h List.not_mem_nil
  | cons y l ih =>
    obtain ⟨other, later⟩ := List.nodup_cons.mp once
    have aside (p : Nat) (hp : p ∉ l.map Prod.fst) : f p ∉ l.map (fun x => f x.1) := fun h => by
      obtain ⟨x, hx, same⟩ := List.mem_map.mp h
      exact hp (apart _ _ same ▸ List.mem_map_of_mem hx)
    refine List.forall_mem_cons.mpr ⟨?_, fun x hx => ?_⟩
    · exact (State.countPools_regsBut _ f l _ (aside _ other)).trans (s.reg_bump_same _)
    · refine (ih _ later x hx).trans ?_
      rw [State.reg_bump_other _ (fun same => other ((apart _ _ same : x.1 = y.1) ▸ List.mem_map_of_mem hx))]

theorem State.countPools_other {l : List (Nat × Nat)} {p : Nat} (h : ∀ x ∈ l, x.1 ≠ p) : (s.countPools f l).reg (f p) = s.reg (f p) := by
  refine s.countPools_regsBut f l _ fun hm => ?_
  obtain ⟨x, hx, same⟩ := List.mem_map.mp hm
  exact h x hx (apart _ _ same)

end

/-! ### The answers -/

/-- A request that is not covered now is counted in each pool, and waits where its requester does (R394). -/
def State.deferLeave (s : State) (r : WickReq) : State :=
  if r.who.waits then (s.countPools Obj.defers r.pools).enqueue r else s.countPools Obj.defers r.pools

/-- A request's pools are open, and its energies fit them and their peaks (R388, R395, R396). -/
def State.fits (s : State) (r : WickReq) : Prop :=
  ∀ x ∈ r.pools, s.poolOpen x.1 = true ∧ (x.2 : Int) ≤ s.poolCap x.1 ∧ reqPeak r x.2 ≤ 1000000 * s.reg (Obj.peak x.1)

section
variable {s : State} (awake : s.mode ≠ .dark) (up : s.blockUp Block.wick = true) {r : WickReq}
include awake up

theorem State.ask_set0 (who : r.who = .dramSet0) : s.ask r = (.granted, s.giveLeave r) := by
  unfold State.ask
  rw [if_pos who, if_neg (by simp [awake, up])]

theorem State.ask_unfit (who : r.who ≠ .dramSet0) (unfit : ¬ s.fits r) : s.ask r = (.refused, s.refuseLeave r) := by
  unfold State.ask
  rw [if_neg who, if_neg (by simp [awake, up]), if_pos]
  obtain ⟨x, hx, h⟩ := not_forall₂.mp unfit
  simp only [List.any_eq_true, Bool.not_eq_true', Bool.or_eq_true, decide_eq_true_eq]
  by_cases shut : s.poolOpen x.1 = true
  · exact .inr ⟨x, hx, by by_contra small; exact h ⟨shut, by omega, by omega⟩⟩
  · exact .inl ⟨x, hx, Bool.eq_false_iff.mpr shut⟩

theorem State.ask_fit (who : r.who ≠ .dramSet0) (fit : s.fits r) : s.ask r =
    if s.coverable r s.wick.nextId then (.granted, s.giveLeave r)
    else (.deferred, s.deferLeave r) := by
  have open_ : r.pools.any (fun x => !s.poolOpen x.1) = false := by
    simp only [List.any_eq_false, Bool.not_eq_true', Bool.not_eq_false]
    exact fun x hx => (fit x hx).1
  have small : r.pools.any (fun x => decide (s.poolCap x.1 < x.2) || decide (1000000 * s.reg (Obj.peak x.1) < reqPeak r x.2)) = false := by
    simp only [List.any_eq_false, Bool.or_eq_true, decide_eq_true_eq]
    intro x hx
    have := fit x hx
    omega
  unfold State.ask
  rw [if_neg who, if_neg (by simp [awake, up]), if_neg (by simp [open_, small])]
  split
  · rfl
  · unfold State.deferLeave
    dsimp only
    split <;> rfl

end

/-! ### The queue and the leave -/

/-- The requests that wait, and the leave that has been given and not used, stand as they stood. -/
structure SameLeave (s t : State) : Prop where
  queue : t.wick.queue = s.wick.queue
  leave : t.wick.leave = s.wick.leave
  fresh : t.wick.fresh = s.wick.fresh

theorem SameLeave.step {s t u : State} (h : SameLeave t u) (k : SameLeave s t) : SameLeave s u :=
  ⟨h.queue.trans k.queue, h.leave.trans k.leave, h.fresh.trans k.fresh⟩

theorem Only.sameLeave {d : List Fld} {s t : State} (h : Only d s t) (hd : Fld.wick ∉ d := by decide) : SameLeave s t := by
  have same : t.wick = s.wick := h.agree .wick hd
  exact ⟨by rw [same], by rw [same], by rw [same]⟩

theorem State.setLevel_sameLeave (s : State) (p : Nat) (v : Int) : SameLeave s (s.setLevel p v) := by
  unfold State.setLevel
  extract_lets c v' s1 w
  have same : s1.wick = s.wick := by
    simp only [s1]
    split <;> rfl
  constructor <;> dsimp only <;> split_ifs <;> simp only [w, same]

theorem State.chargeAll_sameLeave (s : State) (l : List (Nat × Nat)) : SameLeave s (s.chargeAll l) := by
  induction l generalizing s with
  | nil => exact ⟨rfl, rfl, rfl⟩
  | cons x l ih => exact (ih _).step (s.setLevel_sameLeave ..)

section
variable (s : State) (r : WickReq)

/-- Leave is given after all that was given before, and no waiting request is touched. -/
theorem State.giveLeave_gives : (s.giveLeave r).wick.leave = s.wick.leave ++ [r.who] ∧ (s.giveLeave r).wick.queue = s.wick.queue := by
  have same := ((s.chargeAll r.pools).countPools_only Obj.grants r.pools).sameLeave.step (s.chargeAll_sameLeave r.pools)
  exact ⟨congrArg (· ++ [r.who]) same.leave, same.queue⟩

theorem State.giveLeave_regsBut : s.regsBut (s.giveLeave r) (Obj.wickStatus :: r.pools.map (fun x => Obj.grants x.1)) :=
  State.regsBut.step (t := s.chargeAll r.pools) (State.countPools_regsBut _ _ _) (s.chargeAll_regsBut _)

theorem grants_apart (p q : Nat) (h : Obj.grants p = Obj.grants q) : p = q := by
  unfold Obj.grants at h
  omega

/-- Each pool that is named is charged, and counts a grant (R394). -/
theorem State.giveLeave_charges (covered : ∀ x ∈ r.pools, (x.2 : Int) ≤ s.poolLevel x.1) : ∀ x ∈ r.pools,
    (s.giveLeave r).poolLevel x.1 = min (s.poolCap x.1) (s.poolLevel x.1 - x.2) ∧
      (s.giveLeave r).reg (Obj.grants x.1) = countValue (Obj.grants x.1) (s.reg (Obj.grants x.1)) 1 := by
  have counted := (s.chargeAll r.pools).countPools_only Obj.grants r.pools
  intro x hx
  constructor
  · refine Eq.trans ?_ (State.chargeAll_same WickReq.pool_lt s (WickReq.pools_nodup r) covered x hx)
    exact State.poolLevel_congr (counted.agree .wick (by decide)) _
  · refine ((s.chargeAll r.pools).countPools_same grants_apart (WickReq.pools_nodup r) x hx).trans ?_
    rw [s.chargeAll_regsBut _ _ (by simp [Obj.grants, Obj.wickStatus]; omega)]

/-- The other pools keep their level and their count. -/
theorem State.giveLeave_spares {p : Nat} (hp : p < 3) (h : ∀ x ∈ r.pools, x.1 ≠ p) :
    (s.giveLeave r).poolLevel p = s.poolLevel p ∧ (s.giveLeave r).reg (Obj.grants p) = s.reg (Obj.grants p) := by
  have counted := (s.chargeAll r.pools).countPools_only Obj.grants r.pools
  constructor
  · refine Eq.trans ?_ (State.chargeAll_other WickReq.pool_lt s hp (by simpa using fun e he => h (p, e) he rfl))
    exact State.poolLevel_congr (counted.agree .wick (by decide)) _
  · refine ((s.chargeAll r.pools).countPools_other grants_apart h).trans ?_
    exact s.chargeAll_regsBut _ _ (by simp [Obj.grants, Obj.wickStatus]; omega)

/-- A refusal is counted in each pool, and sets REFUSED (R395). -/
theorem State.refuseLeave_counts : ((s.refuseLeave r).reg Obj.wickStatus).testBit 2 = true ∧
    ∀ x ∈ r.pools, (s.refuseLeave r).reg (Obj.refusals x.1) = countValue (Obj.refusals x.1) (s.reg (Obj.refusals x.1)) 1 := by
  constructor
  · rw [State.refuseLeave, State.reg_setBits_same, Nat.testBit_or]
    exact Bool.or_true _
  · intro x hx
    refine (State.reg_setBits_other _ _ (by simp [Obj.refusals, Obj.wickStatus]; omega)).trans ?_
    exact s.countPools_same (fun p q h => by unfold Obj.refusals at h; omega) (WickReq.pools_nodup r) x hx

end

section
variable (s : State) (r : WickReq)

theorem State.deferLeave_only : Only [.regs, .wick] s (s.deferLeave r) := by
  have counted : Only [.regs, .wick] s (s.countPools Obj.defers r.pools) := (State.countPools_only ..).mono (by decide)
  exact .ite (fun _ => (State.noteQueued_only _).step (by decide) (.with_wick (by decide) counted)) (fun _ => counted)

theorem State.deferLeave_wick : (s.deferLeave r).wick = if r.who.waits then { s.wick with
    queue := s.wick.queue ++ [{ id := s.wick.nextId, req := r }], nextId := s.wick.nextId + 1 } else s.wick := by
  have same : (s.countPools Obj.defers r.pools).wick = s.wick := (State.countPools_only ..).agree .wick (by decide)
  unfold State.deferLeave
  split
  · rw [← same]
    rfl
  · exact same

theorem State.deferLeave_counts : ∀ x ∈ r.pools,
    (s.deferLeave r).reg (Obj.defers x.1) = countValue (Obj.defers x.1) (s.reg (Obj.defers x.1)) 1 := by
  intro x hx
  have counted := s.countPools_same (f := Obj.defers) (fun p q h => by unfold Obj.defers at h; omega) (WickReq.pools_nodup r) x hx
  unfold State.deferLeave
  split
  · refine (State.noteQueued_regsBut _ _ ?_).trans counted
    simp [Obj.defers, Obj.queued]
    omega
  · exact counted

end

/-! ### What a requester does at once (R394) -/

/-- Leave is acted on with the requester's own next step, but for a maintenance pattern. -/
theorem State.onGrant_other (s : State) {who : Requester} (h : who ≠ .maintPattern) : s.onGrant who = s := by
  unfold State.onGrant
  split
  · exact absurd rfl h
  · rfl

theorem State.onRefusal_regsBut (s : State) (who : Requester) : s.regsBut (s.onRefusal who) [Obj.moveRefused] := by
  unfold State.onRefusal
  split
  · split
    · exact .ite (fun _ => .refl) (fun _ => .refl)
    · exact .refl
  · unfold State.moveRefused
    exact .ite (fun _ => State.bump_regsBut _ _) (fun _ => .refl)
  · exact .ite (fun _ => .refl) (fun _ => .refl)
  · exact .refl

end Sys2Proof.Machine
end

section
/-! SUPPORT. O52 (18 R387, R393 to R398): what the Wick's commands do. -/

namespace Sys2Proof.Machine

/-! ### A request (R394) -/

section
variable {s t : State} {r : WickReq}

theorem State.request_of_granted (h : s.linesFirst.ask r = (.granted, t)) : s.request r = t.onGrant r.who := by
  unfold State.request
  rw [h]

theorem State.request_of_deferred (h : s.linesFirst.ask r = (.deferred, t)) : s.request r = t := by
  unfold State.request
  rw [h]

theorem State.request_of_refused (h : s.linesFirst.ask r = (.refused, t)) : s.request r = t.onRefusal r.who := by
  unfold State.request
  rw [h]

end

section
variable {s : State} (awake : s.mode ≠ .dark) (up : s.blockUp Block.wick = true)

theorem State.linesFirst_quiet (quiet : s.mode ≠ .lit ∨ s.nextDecision = none) : s.linesFirst = s := by
  unfold State.linesFirst
  split
  next lit =>
    unfold State.decideReady
    rw [quiet.resolve_left (not_not.mpr lit.1)]
  next => rfl

include awake in
theorem State.linesFirst_awake : s.linesFirst.mode ≠ .dark := by rwa [s.linesFirst_only.agree .mode (by decide)]

include up in
theorem State.linesFirst_up : s.linesFirst.blockUp Block.wick = true := by
  unfold State.blockUp at up ⊢
  rwa [s.linesFirst_regsBut _ (by decide), s.linesFirst_regsBut _ (by decide)]

include awake up

theorem wickRequest_grants {r : WickReq} (who : r.who ≠ .dramSet0) (acts : r.who ≠ .maintPattern) (fit : s.linesFirst.fits r)
    (covers : s.linesFirst.coverable r s.linesFirst.wick.nextId = true) : Completes (.wickRequest r) s (fun t =>
      t = { s.linesFirst with regs := t.regs, wick := t.wick, flagged := t.flagged } ∧
      t.wick.leave = s.linesFirst.wick.leave ++ [r.who] ∧ t.wick.queue = s.linesFirst.wick.queue ∧
      (∀ p e, (p, e) ∈ r.pools → t.poolLevel p = min (s.linesFirst.poolCap p) (s.linesFirst.poolLevel p - e) ∧
        t.reg (Obj.grants p) = countValue (Obj.grants p) (s.linesFirst.reg (Obj.grants p)) 1) ∧
      ∀ p, p < 3 → (∀ x ∈ r.pools, x.1 ≠ p) →
        t.poolLevel p = s.linesFirst.poolLevel p ∧ t.reg (Obj.grants p) = s.linesFirst.reg (Obj.grants p)) := by
  have granted := (State.ask_fit (State.linesFirst_awake awake) (State.linesFirst_up up) who fit).trans (if_pos covers)
  have runs := (State.request_of_granted granted).trans (State.onGrant_other _ acts)
  generalize s.linesFirst = u at *
  have covered : ∀ x ∈ r.pools, (x.2 : Int) ≤ u.poolLevel x.1 := by
    unfold State.coverable at covers
    simpa using (((Bool.and_eq_true ..).mp covers).1)
  obtain ⟨leave, queue⟩ := u.giveLeave_gives r
  refine ⟨_, congrArg ok runs, (u.giveLeave_only r).eq_taking, leave, queue, fun p e h => u.giveLeave_charges r covered (p, e) h,
    fun p hp h => u.giveLeave_spares r hp h⟩

theorem wickRequest_defers {r : WickReq} (who : r.who ≠ .dramSet0) (fit : s.linesFirst.fits r)
    (waits : s.linesFirst.coverable r s.linesFirst.wick.nextId = false) : Completes (.wickRequest r) s (fun t =>
      t = { s.linesFirst with regs := t.regs, wick := t.wick } ∧ t.wick.leave = s.linesFirst.wick.leave ∧
      (∀ p, t.poolLevel p = s.linesFirst.poolLevel p) ∧
      t.wick.queue = (if r.who.waits then s.linesFirst.wick.queue ++ [{ id := s.linesFirst.wick.nextId, req := r }]
        else s.linesFirst.wick.queue) ∧
      ∀ x ∈ r.pools, t.reg (Obj.defers x.1) = countValue (Obj.defers x.1) (s.linesFirst.reg (Obj.defers x.1)) 1) := by
  have deferred := (State.ask_fit (State.linesFirst_awake awake) (State.linesFirst_up up) who fit).trans (if_neg (by simp [waits]))
  have runs := State.request_of_deferred deferred
  generalize s.linesFirst = u at *
  have wick := u.deferLeave_wick r
  refine ⟨_, congrArg ok runs, (u.deferLeave_only r).eq_taking, ?_, fun p => ?_, ?_, u.deferLeave_counts r⟩
  · rw [wick]
    split <;> rfl
  · unfold State.poolLevel
    rw [wick]
    split_ifs <;> rfl
  · rw [wick]
    split <;> rfl

theorem wickRequest_refuses {r : WickReq} (who : r.who ≠ .dramSet0) (unfit : ¬ s.linesFirst.fits r) : Completes (.wickRequest r) s (fun t =>
      t.mode = s.mode ∧ t.wick = s.linesFirst.wick ∧ (t.reg Obj.wickStatus).testBit 2 = true ∧
      ∀ x ∈ r.pools, t.reg (Obj.refusals x.1) = countValue (Obj.refusals x.1) (s.linesFirst.reg (Obj.refusals x.1)) 1) := by
  have refused := State.ask_unfit (State.linesFirst_awake awake) (State.linesFirst_up up) who unfit
  have runs := State.request_of_refused refused
  have mode := s.linesFirst_only.agree .mode (by decide)
  generalize s.linesFirst = u at *
  obtain ⟨status, counts⟩ := u.refuseLeave_counts r
  have regs := (u.refuseLeave r).onRefusal_regsBut r.who
  have frame := ((u.refuseLeave r).onRefusal_only r.who)
  refine ⟨_, congrArg ok runs, ?_, ?_, by rwa [regs _ (by decide)], fun x hx => ?_⟩
  · exact (frame.agree .mode (by decide)).trans (((u.refuseLeave_only r).agree .mode (by decide)).trans mode)
  · exact (frame.agree .wick (by decide)).trans ((u.refuseLeave_only r).agree .wick (by decide))
  · exact (regs _ (by simp [Obj.refusals, Obj.moveRefused]; omega)).trans (counts x hx)

theorem wickRequest_set0 {r : WickReq} (who : r.who = .dramSet0) : Completes (.wickRequest r) s (fun t =>
      t = { s.linesFirst with regs := t.regs, wick := t.wick, flagged := t.flagged } ∧
      t.wick.leave = s.linesFirst.wick.leave ++ [.dramSet0] ∧ t.wick.queue = s.linesFirst.wick.queue) := by
  have granted := State.ask_set0 (State.linesFirst_awake awake) (State.linesFirst_up up) who
  have runs := (State.request_of_granted granted).trans (State.onGrant_other _ (by simp [who]))
  generalize s.linesFirst = u at *
  obtain ⟨leave, queue⟩ := u.giveLeave_gives r
  exact ⟨_, congrArg ok runs, (u.giveLeave_only r).eq_taking, who ▸ leave, queue⟩

end

/-! ### The waiting requests (R394, R401) -/

section
variable (s : State) (w : WickWait)

/-- A waiting request that is granted leaves the queue. -/
theorem State.grantWait_gives (acts : w.req.who ≠ .maintPattern) :
    Only [.regs, .wick, .flagged] s (s.grantWait w) ∧ (s.grantWait w).wick.leave = s.wick.leave ++ [w.req.who] ∧
      (s.grantWait w).wick.queue = s.wick.queue.filter (fun x => decide (x.id ≠ w.id)) := by
  unfold State.grantWait
  rw [State.onGrant_other _ acts]
  obtain ⟨leave, queue⟩ := s.giveLeave_gives w.req
  exact ⟨(State.unqueue_only ..).step (by decide) (s.giveLeave_only w.req), leave, congrArg (List.filter _) queue⟩

/-- One that is refused leaves the queue, and gets no leave. -/
theorem State.refuseWait_refuses : (s.refuseWait w).mode = s.mode ∧ (s.refuseWait w).wick.leave = s.wick.leave ∧
    (s.refuseWait w).wick.queue = s.wick.queue.filter (fun x => decide (x.id ≠ w.id)) ∧
    ((s.refuseWait w).reg Obj.wickStatus).testBit 2 = true ∧
    ∀ x ∈ w.req.pools, (s.refuseWait w).reg (Obj.refusals x.1) = countValue (Obj.refusals x.1) (s.reg (Obj.refusals x.1)) 1 := by
  obtain ⟨status, counts⟩ := s.refuseLeave_counts w.req
  have refused := s.refuseLeave_only w.req
  have wick : (s.refuseLeave w.req).wick = s.wick := refused.agree .wick (by decide)
  have queued (k : Nat) (hk : k ∉ [Obj.queued 0, Obj.queued 1, Obj.queued 2]) :
      ((s.refuseLeave w.req).unqueue w.id).reg k = (s.refuseLeave w.req).reg k := State.noteQueued_regsBut _ k hk
  have frame := ((s.refuseLeave w.req).unqueue w.id).onRefusal_only w.req.who
  have regs := ((s.refuseLeave w.req).unqueue w.id).onRefusal_regsBut w.req.who
  have books : (s.refuseWait w).wick = ((s.refuseLeave w.req).unqueue w.id).wick := frame.agree .wick (by decide)
  refine ⟨?_, ?_, ?_, ?_, fun x hx => ?_⟩
  · exact (frame.agree .mode (by decide)).trans (((State.unqueue_only ..).agree .mode (by decide)).trans (refused.agree .mode (by decide)))
  · rw [books]
    exact (congrArg Wick.leave wick :)
  · rw [books]
    exact (congrArg (fun l : Wick => l.queue.filter (fun x => decide (x.id ≠ w.id))) wick :)
  · rw [State.refuseWait, regs _ (by decide), queued _ (by decide), status]
  · rw [State.refuseWait, regs _ (by simp [Obj.refusals, Obj.moveRefused]; omega), queued _ (by simp [Obj.refusals, Obj.queued]; omega),
      counts x hx]

end

section
variable {s : State} {w : WickWait}

theorem wickDeferredGrant_grants (awake : s.mode ≠ .dark) (up : s.blockUp Block.wick = true) (next : s.linesFirst.nextGrant = some w)
    (acts : w.req.who ≠ .maintPattern) : Completes .wickDeferredGrant s (fun t =>
      t = { s.linesFirst with regs := t.regs, wick := t.wick, flagged := t.flagged } ∧
      t.wick.leave = s.linesFirst.wick.leave ++ [w.req.who] ∧
      t.wick.queue = s.linesFirst.wick.queue.filter (fun x => decide (x.id ≠ w.id))) := by
  obtain ⟨frame, leave, queue⟩ := s.linesFirst.grantWait_gives w acts
  refine ⟨s.linesFirst.grantWait w, (if_neg (by simp [awake, up]) : execWickDeferredGrant s = _).trans ?_, frame.eq_taking, leave, queue⟩
  dsimp only
  split
  next none_ => simp [none_] at next
  next x some_ =>
    obtain rfl : x = w := Option.some.inj (some_.symm.trans next)
    rfl

variable (found : s.wick.queue.find? (fun x => decide (x.id = w.id)) = some w)
include found

/-- The waiting request is covered in the cycle of its timeout, or it is refused. -/
theorem exec_wickDeferTimeout : exec (.wickDeferTimeout w.id) s =
    ok (if s.linesFirst.coverable w.req w.id then s.linesFirst.grantWait w else s.linesFirst.refuseWait w) := by
  show execWickDeferTimeout w.id s = _
  unfold execWickDeferTimeout
  rw [found]

theorem wickDeferTimeout_grants (covers : s.linesFirst.coverable w.req w.id = true) (acts : w.req.who ≠ .maintPattern) :
    Completes (.wickDeferTimeout w.id) s (fun t => t = { s.linesFirst with regs := t.regs, wick := t.wick, flagged := t.flagged } ∧
      t.wick.leave = s.linesFirst.wick.leave ++ [w.req.who] ∧
      t.wick.queue = s.linesFirst.wick.queue.filter (fun x => decide (x.id ≠ w.id))) := by
  obtain ⟨frame, leave, queue⟩ := s.linesFirst.grantWait_gives w acts
  exact ⟨_, (exec_wickDeferTimeout found).trans (congrArg ok (if_pos covers)), frame.eq_taking, leave, queue⟩

theorem wickDeferTimeout_refuses (waits : s.linesFirst.coverable w.req w.id = false) :
    Completes (.wickDeferTimeout w.id) s (fun t => t.mode = s.mode ∧ t.wick.leave = s.linesFirst.wick.leave ∧
      t.wick.queue = s.linesFirst.wick.queue.filter (fun x => decide (x.id ≠ w.id)) ∧ (t.reg Obj.wickStatus).testBit 2 = true ∧
      ∀ x ∈ w.req.pools, t.reg (Obj.refusals x.1) = countValue (Obj.refusals x.1) (s.linesFirst.reg (Obj.refusals x.1)) 1) := by
  obtain ⟨mode, refused⟩ := s.linesFirst.refuseWait_refuses w
  exact ⟨_, (exec_wickDeferTimeout found).trans (congrArg ok (if_neg (by simp [waits]))),
    mode.trans (s.linesFirst_only.agree .mode (by decide)), refused⟩

end

/-! ### HEADROOM (R398) -/

/-- What is published moves no level, and no window. -/
theorem State.headroomNow_published (s : State) (q v : Nat) (o : Out) (p : Nat) :
    ((s.setReg (Obj.headroom q) v).emit o).headroomNow p = s.headroomNow p := by
  have window : ((s.setReg (Obj.headroom q) v).emit o).reg (Obj.window p) = s.reg (Obj.window p) :=
    s.reg_setReg_other v (by unfold Obj.window Obj.headroom; omega)
  unfold State.headroomNow
  rw [window]
  rfl

theorem State.publishHeadroom_all (s : State) : s.publishHeadroom [0, 1, 2] =
    (((((s.setReg (Obj.headroom 0) (s.headroomNow 0)).emit (.headroom 0 (s.headroomNow 0))).setReg (Obj.headroom 1) (s.headroomNow 1)).emit
      (.headroom 1 (s.headroomNow 1))).setReg (Obj.headroom 2) (s.headroomNow 2)).emit (.headroom 2 (s.headroomNow 2)) := by
  simp only [State.publishHeadroom, State.headroomNow_published]

theorem headroomPublish_publishes {s : State} (awake : s.mode ≠ .dark) (up : s.blockUp Block.wick = true) :
    Completes .headroomPublish s (fun t => t = { s with
      regs := t.regs, out := .headroom 2 (s.headroomNow 2) :: .headroom 1 (s.headroomNow 1) :: .headroom 0 (s.headroomNow 0) :: s.out } ∧
      t.reg (Obj.headroom 0) = s.headroomNow 0 ∧ t.reg (Obj.headroom 1) = s.headroomNow 1 ∧ t.reg (Obj.headroom 2) = s.headroomNow 2) := by
  have runs : exec .headroomPublish s = ok (s.publishHeadroom [0, 1, 2]) := if_neg (by simp [awake, up])
  rw [State.publishHeadroom_all] at runs
  refine ⟨_, runs, ?_, ?_, ?_, ?_⟩
  · rfl
  · exact (State.reg_setReg_other _ _ (by decide)).trans ((State.reg_setReg_other _ _ (by decide)).trans (State.reg_setReg_same ..))
  · exact (State.reg_setReg_other _ _ (by decide)).trans (State.reg_setReg_same ..)
  · exact State.reg_setReg_same ..

/-- Settles O52: the answers to a request, the waiting requests, and what is published. -/
theorem theWickGivesLeave : Obligations.TheWickGivesLeave := fun _ awake up =>
  ⟨State.linesFirst_quiet, fun _ => ⟨wickRequest_grants awake up, wickRequest_defers awake up, wickRequest_refuses awake up,
    wickRequest_set0 awake up⟩, fun _ => wickDeferredGrant_grants awake up,
    fun _ found => ⟨wickDeferTimeout_grants found, wickDeferTimeout_refuses found⟩, headroomPublish_publishes awake up⟩

end Sys2Proof.Machine
end

section
/-! SUPPORT. O39 (08 R183, R191; 11 R260; 18 R389 to R392): the decision of a line, and the frame that it leaves in. -/

namespace Sys2Proof.Machine

/-! ### The earliest line (R392) -/

/-- What is chosen among a list of lines is one of them. -/
theorem State.nextDecision_mem {s : State} {x : Nat × Nat} (h : s.nextDecision = some x) : x.2 ∈ s.undecided x.1 := by
  have chosen (l : List (Nat × Nat)) (best : Option (Nat × Nat)) (f : Option (Nat × Nat) → Nat × Nat → Option (Nat × Nat))
      (hf : ∀ b y, f b y = some y ∨ f b y = b) (hx : l.foldl f best = some x) : best = some x ∨ x ∈ l := by
    induction l generalizing best with
    | nil => exact .inl hx
    | cons y l ih =>
      obtain found | later := ih _ hx
      · obtain same | same := hf best y
        · exact .inr (List.mem_cons.mpr (.inl (Option.some.inj (found.symm.trans same))))
        · exact .inl (same.symm.trans found)
      · exact .inr (.tail _ later)
  unfold State.nextDecision at h
  obtain none_ | hm := chosen _ _ _ (fun b y => by
    cases b with
    | none => exact .inl rfl
    | some b => dsimp only; split <;> simp) h
  · cases none_
  · obtain ⟨g, -, hg⟩ := List.mem_flatMap.mp hm
    obtain ⟨n, hn, rfl⟩ := List.mem_map.mp hg
    exact hn

theorem State.undecided_none {s : State} {g n : Nat} (h : n ∈ s.undecided g) : s.decidedFor g n = none := by
  unfold State.undecided at h
  split at h
  · cases h
  · simpa using (((Bool.and_eq_true ..).mp ((Bool.and_eq_true ..).mp (List.mem_filter.mp h).2).1)).2

/-! ### Its decision (R389 to R391) -/

theorem State.holdDecision_decided (s : State) (g n : Nat) (o : WickOut) (charge : Nat) :
    (s.holdDecision g n o charge).taper.decided = s.taper.decided ++ [{ g := g, seq := n, out := o, charge := charge }] := by
  unfold State.holdDecision
  extract_lets d s'
  rw [(State.tagOutcome_only ..).agree .taper (by decide)]

/-- A demotion or a skip that is raised is noted in its group, and the decision stands. -/
theorem State.noteOutcome_decided (s : State) (g n : Nat) (o : WickOut) : (s.noteOutcome g n o).taper.decided = s.taper.decided := by
  have logged (u : State) (x : Group) (code : Nat) : ((u.setGroup g x).logEvent code []).taper.decided = u.taper.decided := by
    rw [(State.logEvent_only ..).agree .taper (by decide)]
    rfl
  unfold State.noteOutcome
  extract_lets grp s1
  cases o with
  | grant => rfl
  | demote =>
    dsimp only
    split
    · exact logged s1 _ _
    · rfl
  | skip =>
    dsimp only
    split
    · exact logged s _ _
    · rfl

theorem State.chargePool_head (s : State) (e : Nat) : (s.chargePool 1 e).wick.core = s.wick.core ∧ (s.chargePool 1 e).wick.mach = s.wick.mach ∧
    (-(s.poolCap 1) ≤ s.wick.head - e → s.wick.head - e ≤ s.poolCap 1 → (s.chargePool 1 e).wick.head = s.wick.head - e) := by
  have head := s.setLevel_same 1 (s.poolLevel 1 - e)
  refine ⟨s.setLevel_other (p := 1) (q := 0) _ (by decide) (by decide) (by decide),
    s.setLevel_other (p := 1) (q := 2) _ (by decide) (by decide) (by decide), fun low high => ?_⟩
  change (s.chargePool 1 e).wick.head = if s.wick.head - e < -s.poolCap 1 then _ else min _ (s.wick.head - e) at head
  rw [if_neg (by omega)] at head
  omega

/-- The charge of a line, where it has one. -/
def State.paid (s : State) (e : Nat) : State := if e = 0 then s else s.chargePool 1 e

theorem State.paid_only (s : State) (e : Nat) : Only [.regs, .wick, .flagged] s (s.paid e) :=
  .ite (fun _ => .refl) (fun _ => s.chargePool_only 1 e)

theorem State.paid_head (s : State) (e : Nat) : (s.paid e).wick.core = s.wick.core ∧ (s.paid e).wick.mach = s.wick.mach ∧
    (-(s.poolCap 1) ≤ s.wick.head - e → s.wick.head - e ≤ s.poolCap 1 → (s.paid e).wick.head = s.wick.head - e) := by
  unfold State.paid
  split
  next free => exact ⟨rfl, rfl, fun _ _ => by omega⟩
  next => exact s.chargePool_head e

/-- The decision of a line as it is held. -/
def State.decisionOf (s : State) (g n : Nat) : GLine :=
  let o := s.lineOutcome (s.groupCounts g n)
  { g := g, seq := n, out := o.1, charge := o.2 }

/-- It is held, and charged to P_HEAD. -/
theorem State.decideLine_decides (s : State) (g n : Nat) (free : s.decidedFor g n = none) :
    (s.decideLine g n).decidedFor g n = some (s.decisionOf g n) ∧
    (s.decideLine g n).wick = (s.paid (s.lineOutcome (s.groupCounts g n)).2).wick := by
  unfold State.decideLine
  split
  next o e ho =>
  rw [State.decisionOf, ho]
  extract_lets s1 s2
  have sent : Only [.out] s2 (if s2.roleFor n = .primary then s2.emit (s2.twin.frame 0x02 (le 4 n ++ le 1 g ++ le 1 (WickOut.code o) ++ zeros 2))
      else s2) := .ite (fun _ => State.emit_only ..) (fun _ => .refl)
  have paid : Only [.regs, .wick, .flagged] s s1 := s.paid_only e
  have noted := (s1.holdDecision g n o e).noteOutcome_only g n o
  have held := s1.holdDecision_only g n o e
  constructor
  · have decided : s2.taper.decided = s.taper.decided ++ [{ g := g, seq := n, out := o, charge := e }] := by
      rw [State.noteOutcome_decided, State.holdDecision_decided, paid.agree .taper (by decide)]
    unfold State.decidedFor at free ⊢
    rw [sent.agree .taper (by decide), decided, List.find?_append, free]
    simp
  · exact (sent.agree .wick (by decide)).trans ((noted.agree .wick (by decide)).trans (held.agree .wick (by decide)))

theorem wickLineDecision_decides {s : State} {g n : Nat} (lit : s.mode = .lit) (next : s.nextDecision = some (g, n)) :
    Completes .wickLineDecision s (fun t =>
      t.decidedFor g n = some (s.decisionOf g n) ∧ t.mode = .lit ∧ t.wick.core = s.wick.core ∧ t.wick.mach = s.wick.mach ∧
      (-(s.poolCap 1) ≤ s.wick.head - (s.lineOutcome (s.groupCounts g n)).2 →
        s.wick.head - (s.lineOutcome (s.groupCounts g n)).2 ≤ s.poolCap 1 →
        t.wick.head = s.wick.head - (s.lineOutcome (s.groupCounts g n)).2)) := by
  have runs : exec .wickLineDecision s = ok (s.decideLine g n) := by
    show execWickLineDecision s = _
    rw [execWickLineDecision, if_neg (by simp [lit]), next]
  obtain ⟨held, wick⟩ := s.decideLine_decides g n (State.undecided_none (State.nextDecision_mem next))
  obtain ⟨core, mach, head⟩ := s.paid_head (s.lineOutcome (s.groupCounts g n)).2
  exact ⟨_, runs, held, ((s.decideLine_only g n).agree .mode (by decide)).trans lit, (congrArg Wick.core wick).trans core,
    (congrArg Wick.mach wick).trans mach, fun low high => (congrArg Wick.head wick).trans (head low high)⟩

/-! ### Its frame (08 R191; 11 R260) -/

/-- A line that is ready to go has a slot. -/
theorem State.toSend_slotAt {s : State} {st : Nat} {x : Slot} (h : s.toSend st = some x) : ∃ y, s.slotAt st x.seq = some y :=
  Option.isSome_iff_exists.mp (List.find?_isSome.mpr ⟨x, List.mem_of_find?_eq_some h, by simp⟩)

/-- With no event to raise, LEAD_NOW alone is written. -/
theorem State.noteLead_quiet (s : State) (g : Nat) : s.noteLead false g = s.setReg (Obj.leadNow g) (s.leadOf g) := rfl

/-- The slot of a line that has gone with an outcome. -/
def Slot.gone (o : Option WickOut) (y : Slot) : Slot := { y with outcome := o, st := .sent }

theorem lineFrameSend_sends {s : State} {st : Fin 128} {x : Slot} (next : s.toSend st = some x) (up : s.laneUp ((st : Nat) / 4) = true)
    (released : s.blockUp Block.headLink = true) : Completes (.lineFrameSend st) s (fun t =>
      (t.slotAt st x.seq).map Slot.st = some .sent ∧ s.regsBut t [Obj.leadNow (groupOf st)] ∧
      t.out = .head ((st : Nat) / 4) (headChars (headFrame frLine (s.roleFor x.seq) ((st : Nat) / 4) ((st : Nat) % 4) x.seq
        (s.linePayload st { x with outcome := s.outcomeFor (groupOf st) x.seq }))) :: s.out) := by
  have runs : exec (.lineFrameSend st) s = ok (((s.modSlot st x.seq (.gone (s.outcomeFor (groupOf st) x.seq))).sendLine st
      { x with outcome := s.outcomeFor (groupOf st) x.seq }).noteLead false (groupOf st)) := by
    show execLineFrameSend st s = _
    unfold execLineFrameSend
    rw [next]
    exact if_pos (by simp [up, released])
  rw [State.noteLead_quiet] at runs
  obtain ⟨y, hy⟩ := State.toSend_slotAt next
  have slot : (s.modSlot st x.seq (.gone (s.outcomeFor (groupOf st) x.seq))).slotAt st x.seq =
      some (Slot.gone (s.outcomeFor (groupOf st) x.seq) y) :=
    (State.slotAt_modSlot (f := Slot.gone (s.outcomeFor (groupOf st) x.seq)) fun _ => rfl).trans (congrArg _ hy)
  exact ⟨_, runs, congrArg (Option.map Slot.st) slot, State.setReg_regsBut _ _ _, rfl⟩

/-- Settles O39: the decision, and the frame. -/
theorem linesAreDecidedAndSent : Obligations.LinesAreDecidedAndSent := fun _ =>
  ⟨fun _ _ => wickLineDecision_decides, fun _ _ => lineFrameSend_sends⟩

end Sys2Proof.Machine
end

section
/-! SUPPORT. O28 (16 R360; 17 R383; 19 R417, R419; 20 R434 to R442): the writes of the check units, the DRAM, the loops and the axes. -/

namespace Sys2Proof.Machine

/-! ### RUNNING (16 R360) -/

/-- An object with no effect of its own takes its value. -/
theorem running_plain (u : Fin 16) : Obj.running u ≠ Obj.fusePadProgram ∧
    (findObj (Obj.running u)).toOption.all (fun r => decide (r.ty ≠ .bf24)) = true := by
  revert u
  decide +kernel

theorem State.writeEffect_running (s : State) (u : Fin 16) (v : Nat) : s.writeEffect (Obj.running u) v = s.setReg (Obj.running u) v := by
  fin_cases u <;> rfl

section
variable {s : State} {h : Hdr} {v : Nat}

theorem runningWrite_takes (u : Fin 16) (ha : s.admits h (Obj.running u) v) : Completes (.runningWrite h u v) s (fun t =>
    t.reg (Obj.running u) = v ∧ s.regsBut t [Obj.running u]) := by
  obtain ⟨free, plain⟩ := running_plain u
  have effect := State.send_effect_raw ha free (findObj_ty_ne plain)
  rw [State.writeEffect_running] at effect
  exact ⟨_, rfl, (effect.reg (by decide) _).trans (State.reg_setReg_same ..),
    fun k hk => (effect.reg (by decide) k).trans ((s.sawPacket h).setReg_regsBut _ _ k hk)⟩

end

/-! ### FREQ_SELECT (17 R383) -/

/-- The objects that a request to the Wick writes, with what the lines before it write. -/
def requestObjects : List Nat := Obj.moveRefused :: decisionObjects ++
  (List.range 3).flatMap (fun p => [Obj.grants p, Obj.defers p, Obj.refusals p, Obj.queued p])

/-- The counts of the pools that a request names are among them. -/
theorem pools_requestObjects (r : WickReq) (f : Nat → Nat) (hf : ∀ p < 3, f p ∈ requestObjects) :
    r.pools.map (fun x => f x.1) ⊆ requestObjects := by
  intro k hk
  obtain ⟨x, hx, rfl⟩ := List.mem_map.mp hk
  exact hf _ (WickReq.pool_lt x hx)

theorem State.ask_regsBut (s : State) (r : WickReq) : s.regsBut (s.ask r).2 requestObjects := by
  have given : s.regsBut (s.giveLeave r) requestObjects := (s.giveLeave_regsBut r).mono
    (List.cons_subset.mpr ⟨by decide, pools_requestObjects r Obj.grants (by decide)⟩)
  have refused : s.regsBut (s.refuseLeave r) requestObjects :=
    ((State.setBits_regsBut _ _ _).mono (by decide)).trans
      ((s.countPools_regsBut _ _).mono (pools_requestObjects r Obj.refusals (by decide)))
  have counted : s.regsBut (s.countPools Obj.defers r.pools) requestObjects :=
    (s.countPools_regsBut _ _).mono (pools_requestObjects r Obj.defers (by decide))
  unfold State.ask
  split
  · split
    · exact .refl
    · exact given
  · split
    · exact .refl
    · split
      · exact refused
      · split
        · exact given
        · dsimp only
          split
          · exact ((State.noteQueued_regsBut _).mono (by decide)).trans counted
          · exact counted

/-- A request of any but a maintenance pattern writes no other object. -/
theorem State.request_regsBut (s : State) {r : WickReq} (acts : r.who ≠ .maintPattern) : s.regsBut (s.request r) requestObjects := by
  have asked := (s.linesFirst.ask_regsBut r).trans (s.linesFirst_regsBut.mono (by decide))
  unfold State.request
  split
  next h =>
    rw [State.onGrant_other _ acts]
    rwa [h] at asked
  next h => rwa [h] at asked
  next h =>
    rw [h] at asked
    exact ((State.onRefusal_regsBut _ _).mono (by decide)).trans asked

theorem State.askSet_regsBut (s : State) (set : Nat) : s.regsBut (s.askSet set) requestObjects :=
  State.request_regsBut { s with dram := { s.dram with change := some (set, false) } } (by unfold setRequester; split_ifs <;> simp)

theorem State.refundPool_regsBut (s : State) (p e : Nat) : s.regsBut (s.refundPool p e) [Obj.wickStatus] :=
  .ite (fun _ => .refl) (fun _ => s.setLevel_regsBut _ _)

theorem State.dropSet_regsBut (s : State) (set : Nat) : s.regsBut (s.dropSet set) requestObjects := by
  unfold State.dropSet
  extract_lets who s1 s2
  have refunded : s.regsBut s1 requestObjects :=
    .ite (fun _ => (State.refundPool_regsBut (s.useLeave who) _ _).mono (by decide)) (fun _ => .refl)
  exact State.regsBut.trans (t := s1) ((State.noteQueued_regsBut _).mono (by decide)) refunded

/-- Selecting a timing set writes no object but those of its request. -/
theorem State.selectSet_regsBut (s : State) (set : Nat) : s.regsBut (s.selectSet set) requestObjects := by
  unfold State.selectSet
  split
  · exact .refl
  · exact .ite (fun _ => .refl) (fun _ => .ite (fun _ => s.dropSet_regsBut _) (fun _ => (State.askSet_regsBut _ _).trans (s.dropSet_regsBut _)))
  · exact .ite (fun _ => .refl) (fun _ => s.askSet_regsBut _)

theorem State.writeEffect_freqSelect (s : State) (v : Nat) : s.writeEffect Obj.freqSelect v = s.selectFreq v := rfl

theorem freqSelect_takes {s : State} {h : Hdr} {v : Nat} (ha : s.admits h Obj.freqSelect v) :
    Completes (.freqSelect h v) s (fun t => t.reg Obj.freqSelect = v) := by
  have effect := State.send_effect_raw ha (by decide) (findObj_ty_ne (by decide +kernel))
  rw [State.writeEffect_freqSelect] at effect
  exact ⟨_, rfl, (effect.reg (by decide) _).trans ((State.selectSet_regsBut _ _ _ (by decide)).trans (State.reg_setReg_same ..))⟩

/-! ### The loops (19 R417, R419) -/

/-- An object of a loop slot. -/
theorem State.writeEffect_loop (s : State) {key i f : Nat} (v : Nat) (slot : loopOf key = some (i, f)) (plain : isW1c key = false) :
    s.writeEffect key v = s.writeLoop i key v := by
  have index : 0x2B00 ≤ key / 256 ∧ key / 256 < 0x2B30 := by
    unfold loopOf at slot
    split at slot
    · assumption
    · cases slot
  have others (k : Nat) (hk : k / 256 < 0x2B00 ∨ 0x2B30 ≤ k / 256) : key ≠ k := by omega
  unfold State.writeEffect
  extract_lets idx
  rw [if_neg (by simp [plain]), if_neg (by omega), if_neg (by omega), if_neg (others _ (by decide)), if_neg (others _ (by decide)),
    if_neg (others _ (by decide)), if_neg (by omega), if_neg (by omega), if_neg (others _ (by decide)), if_neg (by omega),
    if_neg (others _ (by decide)), if_neg (others _ (by decide)), if_neg (by omega), if_neg (by omega), if_neg (by omega), slot]

theorem loop_objects (i : Fin 48) :
    (loopOf (Obj.bankSwap i) = some (i.val, 0x21) ∧ isW1c (Obj.bankSwap i) = false ∧
      (findObj (Obj.bankSwap i)).toOption.all (fun r => decide (r.ty ≠ .bf24)) = true) ∧
    (loopOf (Obj.lpEnable i) = some (i.val, 0x01) ∧ isW1c (Obj.lpEnable i) = false ∧
      (findObj (Obj.lpEnable i)).toOption.all (fun r => decide (r.ty ≠ .bf24)) = true) ∧
    loopOf (Obj.setpoint i) = some (i.val, Obj.setpoint 0 % 256) ∧ isW1c (Obj.setpoint i) = false ∧
      (findObj (Obj.setpoint i)).toOption.any (fun r => decide (r.ty = .bf24)) = true := by
  revert i
  decide +kernel

section
variable {s : State} {h : Hdr} {v : Nat} (i : Fin 48)

theorem bankSwap_notes (ha : s.admits h (Obj.bankSwap i) 1) : Completes (.bankSwap h i 1) s (fun t =>
    (t.loop i).swaps = s.clock.cycles :: (s.loop i).swaps) := by
  obtain ⟨⟨slot, flagless, plain⟩, -⟩ := loop_objects i
  have effect := State.send_effect_raw ha (by unfold Obj.bankSwap Obj.fusePadProgram; omega) (findObj_ty_ne plain)
  rw [State.writeEffect_loop _ _ slot flagless, State.writeLoop, if_neg (by unfold Obj.bankSwap Obj.lpEnable; omega),
    if_neg (by unfold Obj.bankSwap Obj.setpoint; omega), if_pos rfl, State.swapBank, if_pos rfl] at effect
  have loops : (s.send h (Obj.bankSwap i) 1).loop i = _ :=
    (congrArg (fun l => Table.get ({} : LoopDyn) l i) (effect.agree .loops (by decide))).trans (State.loop_setLoop_same ..)
  exact ⟨_, rfl, (congrArg LoopDyn.swaps loops :)⟩

theorem loopEnable_takes (ha : s.admits h (Obj.lpEnable i) v) : Completes (.loopEnable h i v) s (fun t =>
    t.reg (Obj.lpEnable i) = v ∧ s.regsBut t [Obj.lpEnable i]) := by
  obtain ⟨-, ⟨slot, flagless, plain⟩, -⟩ := loop_objects i
  have effect := State.send_effect_raw ha (by unfold Obj.lpEnable Obj.fusePadProgram; omega) (findObj_ty_ne plain)
  rw [State.writeEffect_loop _ _ slot flagless, State.writeLoop, if_pos rfl] at effect
  have regs (k : Nat) : (s.send h (Obj.lpEnable i) v).reg k = ((s.sawPacket h).setReg (Obj.lpEnable i) v).reg k := by
    refine (effect.reg (by decide) k).trans ?_
    unfold State.enableLoop
    dsimp only
    split <;> rfl
  exact ⟨_, rfl, (regs _).trans (State.reg_setReg_same ..), fun k hk => (regs k).trans ((s.sawPacket h).setReg_regsBut _ _ k hk)⟩

theorem loopSetpoint_takes (w : Nat) (ha : s.admits h (Obj.setpoint i) v) (hw : Bf24.normalise v = some w) :
    Completes (.loopSetpoint h i v) s (fun t =>
      t.reg (Obj.setpoint i) = w ∧ (t.loop i).armed = false ∧ s.regsBut t [Obj.setpoint i]) := by
  obtain ⟨-, -, slot, flagless, number⟩ := loop_objects i
  obtain ⟨r, hr, ty⟩ : ∃ r, findObj (Obj.setpoint i) = .ok r ∧ r.ty = .bf24 := by
    cases hr : findObj (Obj.setpoint i) with
    | error e => simp [hr, Except.toOption] at number
    | ok r => exact ⟨r, rfl, by simpa [hr, Except.toOption] using number⟩
  obtain ⟨e, rfl, effect⟩ := State.send_effect ha hr (by unfold Obj.setpoint Obj.fusePadProgram; omega)
  have stored : storedBits r.ty v = w := by
    rw [ty]
    exact congrArg (Option.getD · 0) hw
  rw [stored, State.writeEffect_loop _ _ slot flagless, State.writeLoop, if_neg (by unfold Obj.setpoint Obj.lpEnable; omega),
    if_pos rfl] at effect
  have loops : (s.send h (Obj.setpoint i) v).loop i = _ :=
    (congrArg (fun l => Table.get ({} : LoopDyn) l i) (effect.agree .loops (by decide))).trans (State.loop_setLoop_same ..)
  exact ⟨_, rfl, (effect.reg (by decide) _).trans (State.reg_setReg_same ..), by rw [loops],
    fun k hk => (effect.reg (by decide) k).trans ((s.sawPacket h).setReg_regsBut _ _ k hk)⟩

end

/-! ### The axes (20 R434 to R442) -/

theorem axis_objects (a : Fin 4) : Obj.axTarget a ∉ requestObjects ∧ Dict.width (Obj.axTarget a) = 32 ∧
    (findObj (Obj.axTarget a)).toOption.all (fun r => decide (r.ty ≠ .bf24)) = true ∧
    (findObj (Obj.axHome a)).toOption.all (fun r => decide (r.ty ≠ .bf24)) = true ∧
    (findObj (Obj.axStop a)).toOption.all (fun r => decide (r.ty ≠ .bf24)) = true := by
  revert a
  decide +kernel

theorem State.writeEffect_axTarget (s : State) (a : Fin 4) (v : Nat) : s.writeEffect (Obj.axTarget a) v = s.moveTo a (toSigned 32 v) :=
  match a with
  | 0 | 1 | 2 | 3 => rfl

theorem State.writeEffect_axHome (s : State) (a : Fin 4) (v : Nat) : s.writeEffect (Obj.axHome a) v = s.takeHome a v :=
  match a with
  | 0 | 1 | 2 | 3 => rfl

theorem State.writeEffect_axStop (s : State) (a : Fin 4) (v : Nat) : s.writeEffect (Obj.axStop a) v = s.takeStop a v :=
  match a with
  | 0 | 1 | 2 | 3 => rfl

theorem State.writeEffect_stopAll (s : State) (v : Nat) : s.writeEffect Obj.stopAll v = s.takeStopAll v := rfl

theorem toSigned_congr {w a b : Nat} (h : trunc w a = trunc w b) : toSigned w a = toSigned w b := by
  unfold toSigned
  rw [h]

theorem toSigned_ofSigned_toSigned (w v : Nat) : toSigned w (ofSigned w (toSigned w v)) = toSigned w v := by
  refine toSigned_congr ?_
  unfold ofSigned toSigned trunc
  have pos : 0 < 2 ^ w := by positivity
  have low := Nat.mod_lt v pos
  generalize 2 ^ w = m at *
  split
  · rw [Int.emod_eq_of_lt (by omega) (by omega), Int.toNat_natCast, Nat.mod_mod]
  · rw [Int.sub_emod_right, Int.emod_eq_of_lt (by omega) (by omega), Int.toNat_natCast, Nat.mod_mod]

theorem State.replan_regsBut (s : State) (a : Nat) (goal : Int) : s.regsBut (s.replan a goal) [Obj.wickStatus] := by
  unfold State.replan
  extract_lets x brake n s1
  exact (.ite (fun _ => s.chargePool_regsBut _ _) (fun _ => .refl) : s.regsBut s1 _)

theorem State.withdrawMove_regsBut (s : State) (a : Nat) : s.regsBut (s.withdrawMove a) requestObjects := by
  unfold State.withdrawMove
  extract_lets who s1
  have refunded : s.regsBut s1 requestObjects :=
    .ite (fun _ => (State.refundPool_regsBut (s.useLeave who) _ _).mono (by decide)) (fun _ => .refl)
  exact State.regsBut.trans (t := s1) ((State.noteQueued_regsBut _).mono (by decide)) refunded

/-- A target that is taken stands in TARGET, whatever becomes of the move. -/
theorem State.moveTo_regsBut (s : State) (a : Nat) (goal : Int) (moves : (s.axis a).halted = false) :
    (s.setSreg (Obj.axTarget a) goal).regsBut (s.moveTo a goal) requestObjects := by
  unfold State.moveTo
  rw [if_neg (by simp [moves])]
  extract_lets s1 x s2 n e s3
  split
  · exact (s1.replan_regsBut a goal).mono (by decide)
  · have withdrawn : s1.regsBut s3 requestObjects := s1.withdrawMove_regsBut a
    have asked (r : WickReq) : s1.regsBut (s3.linesFirst.ask r).2 requestObjects :=
      ((s3.linesFirst.ask_regsBut r).trans (s3.linesFirst_regsBut.mono (by decide))).trans withdrawn
    split
    next t h =>
      obtain rfl : _ = t := congrArg Prod.snd h
      exact ((State.bump_regsBut _ _).mono (by decide)).trans (asked _)
    next t _ h =>
      obtain rfl : _ = t := congrArg Prod.snd h
      exact asked _

section
variable {s : State} {h : Hdr}

theorem target_takes {v : Nat} {a : Fin 4} (ha : s.admits h (Obj.axTarget a) v) (moves : (s.axis a).halted = false) :
    Completes (.target h a v) s (fun t => t.sreg (Obj.axTarget a) = toSigned 32 v) := by
  obtain ⟨apart, width, plain, -⟩ := axis_objects a
  have effect := State.send_effect_raw ha (by unfold Obj.axTarget Obj.fusePadProgram; omega) (findObj_ty_ne plain)
  rw [State.writeEffect_axTarget] at effect
  have stored : (s.send h (Obj.axTarget a) v).reg (Obj.axTarget a) = ofSigned 32 (toSigned 32 v) := by
    rw [effect.reg (by decide), (s.sawPacket h).moveTo_regsBut a _ moves _ apart]
    exact (State.reg_setReg_same ..).trans (by rw [width])
  refine ⟨_, rfl, ?_⟩
  show toSigned _ _ = _
  rw [stored, width, toSigned_ofSigned_toSigned]

theorem target_discarded {v : Nat} {a : Fin 4} (ha : s.admits h (Obj.axTarget a) v) (halted : (s.axis a).halted = true) :
    Completes (.target h a v) s (fun t => t.axes = s.axes ∧ t.wick = s.wick ∧ t.regs = s.regs) := by
  obtain ⟨-, -, plain, -⟩ := axis_objects a
  have effect := State.send_effect_raw ha (by unfold Obj.axTarget Obj.fusePadProgram; omega) (findObj_ty_ne plain)
  have stays : (s.sawPacket h).moveTo a (toSigned 32 v) = s.sawPacket h := if_pos halted
  rw [State.writeEffect_axTarget, stays] at effect
  exact ⟨_, rfl, effect.agree .axes (by decide), effect.agree .wick (by decide), effect.agree .regs (by decide)⟩

/-- Every axis of a list seeks its stop once homing has begun on it. -/
theorem State.startHomes_seeking (s : State) {b : Nat} (l : List Nat) (hb : (s.axis b).act = .seeking ∨ b ∈ l) :
    ((s.startHomes l).axis b).act = .seeking := by
  induction l generalizing s with
  | nil => exact hb.resolve_right List.not_mem_nil
  | cons a l ih =>
    refine ih _ ?_
    by_cases same : b = a
    · subst same
      exact .inl (congrArg Axis.act (State.axis_setAxis_same ..))
    · have kept : (s.startHome a).axis b = s.axis b := by
        simp only [State.startHome, State.axis, State.setAxis, Table.get_put_other _ _ _ same]
      rw [kept]
      exact hb.imp_right fun hm => (List.mem_cons.mp hm).resolve_left same

theorem home_seeks {a : Fin 4} (ha : s.admits h (Obj.axHome a) 1) :
    Completes (.home h a 1) s (fun t => ∀ b ∈ s.pair a, (t.axis b).act = .seeking) := by
  obtain ⟨-, -, -, plain, -⟩ := axis_objects a
  have effect := State.send_effect_raw ha (by unfold Obj.axHome Obj.fusePadProgram; omega) (findObj_ty_ne plain)
  rw [State.writeEffect_axHome, State.takeHome, if_pos rfl] at effect
  refine ⟨_, rfl, fun b hb => ?_⟩
  have axes : (s.send h (Obj.axHome a) 1).axis b = _ := congrArg (fun l => Table.get ({} : Axis) l b) (effect.agree .axes (by decide))
  rw [axes]
  exact (s.sawPacket h).startHomes_seeking _ (.inr hb)

/-- A halted axis stays at rest. -/
theorem State.halt_atRest (s : State) {b : Nat} (l : List Nat) (rest : s.atRest b) : (s.halt l).atRest b := by
  induction l generalizing s with
  | nil => exact rest
  | cons a l ih =>
    refine ih _ ?_
    unfold State.atRest
    by_cases same : b = a
    · subst same
      rw [State.axis_setAxis_same]
      exact rest
    · rw [show (s.setAxis a { s.axis a with halted := true }).axis b = s.axis b from Table.get_put_other _ _ _ same]
      exact rest

theorem axisStop_stops {a : Fin 4} (ha : s.admits h (Obj.axStop a) 1) :
    Completes (.axisStop h a 1) s (fun t => ∀ b ∈ s.pair a, (t.axis b).act = .rest ∧ (t.axis b).vel = 0) := by
  obtain ⟨-, -, -, -, plain⟩ := axis_objects a
  have effect := State.send_effect_raw ha (by unfold Obj.axStop Obj.fusePadProgram; omega) (findObj_ty_ne plain)
  rw [State.writeEffect_axStop, State.takeStop, if_pos rfl] at effect
  exact ⟨_, rfl, fun b hb => State.atRest_congr (effect.agree .axes (by decide))
    (State.halt_atRest _ _ (State.stopEach_atRest (s.sawPacket h) _ _ (.inr hb)))⟩

theorem stopAll_stops (ha : s.admits h Obj.stopAll 1) :
    Completes (.stopAll h 1) s (fun t => ∀ b, b < 4 → (t.axis b).act = .rest ∧ (t.axis b).vel = 0) := by
  have effect := State.send_effect_raw ha (by decide) (findObj_ty_ne (by decide +kernel))
  rw [State.writeEffect_stopAll, State.takeStopAll, if_pos rfl] at effect
  have purged := (((s.sawPacket h).stopAxes.halt [0, 1, 2, 3]).endPurge_only).agree .axes (by decide)
  exact ⟨_, rfl, fun b hb => State.atRest_congr ((effect.agree .axes (by decide)).trans purged)
    (State.halt_atRest _ _ (State.stopPairs_atRest (s.sawPacket h) [0, 1, 2, 3] (.inr (by simp; omega))))⟩

end

/-- Settles O28, a lemma for each write. -/
theorem unitWrites : Obligations.UnitWrites := fun _ _ _ =>
  ⟨runningWrite_takes, freqSelect_takes, bankSwap_notes, loopSetpoint_takes, loopEnable_takes,
    fun _ ha => ⟨target_takes ha, target_discarded ha⟩, fun _ => home_seeks, fun _ => axisStop_stops, stopAll_stops⟩

end Sys2Proof.Machine
end

section
/-! SUPPORT. O57 and O53 (19 R403 to R422): the samples of one instant, what a sample computes and writes, and its supervisor. -/

namespace Sys2Proof.Machine

/-! ### The samples of one instant (R406, R410) -/

/-- The state once the samples of this instant that come before that of slot `i` have been taken. -/
def State.inOrder (s : State) (i : Nat) : State := (s.earlierSlots i).foldl (fun s j => s.sampleSlot true j) s

theorem State.inOrder_alone {s : State} {i : Nat} (h : s.earlierSlots i = []) : s.inOrder i = s := by
  unfold State.inOrder
  rw [h]
  rfl

/-- The slot whose sample is due notes the instant. -/
def State.atInstant (s : State) (i : Nat) : State := s.setLoop i { s.loop i with sampledAt := some s.clock.cycles, ahead := false }

section
variable {s : State} {i : Fin 48} (runs : s.loopRuns i = true) (due : (s.loop i).ahead = false)
include runs due

theorem exec_loopSample : exec (.loopSample i) s = ok ((s.inOrder i).sampleSlot false i) := by
  show execLoopSample i s = _
  rw [execLoopSample, if_neg (by simp [runs]), if_neg (by simp [due])]
  rfl

theorem loopSample_takes (free : ((s.inOrder i).loop i).busy = false) :
    exec (.loopSample i) s = ok (((s.inOrder i).atInstant i).takeSample i) := by
  rw [exec_loopSample runs due, State.sampleSlot]
  exact congrArg ok (if_neg (by simp [free]))

theorem loopSample_overruns (busy : ((s.inOrder i).loop i).busy = true) : Completes (.loopSample i) s (fun t =>
    t = { s.inOrder i with regs := t.regs, loops := t.loops } ∧
      t.reg (Obj.overruns i) = countValue (Obj.overruns i) ((s.inOrder i).reg (Obj.overruns i)) 1 ∧
      (s.inOrder i).regsBut t [Obj.overruns i] ∧
      t.loop i = { (s.inOrder i).loop i with sampledAt := some (s.inOrder i).clock.cycles, ahead := false } ∧
      ∀ j, j ≠ i → t.loop j = (s.inOrder i).loop j) := by
  have taken := exec_loopSample runs due
  generalize s.inOrder i = u at *
  have overrun : u.sampleSlot false i = (u.atInstant i).bump (Obj.overruns i) := by
    rw [State.sampleSlot]
    exact if_pos (by simp [busy])
  rw [overrun] at taken
  refine ⟨_, taken, rfl, State.reg_bump_same .., (u.atInstant i).bump_regsBut _, u.loop_setLoop_same i _, fun j hj => ?_⟩
  exact Table.get_put_other _ _ _ (fun same => hj (Fin.ext_iff.mpr same))

end

/-- Settles O57: a sample that is under way is not taken again. -/
theorem overrunTakesNoSample : Obligations.OverrunTakesNoSample := fun _ _ runs due =>
  ⟨State.inOrder_alone, loopSample_overruns runs due⟩

end Sys2Proof.Machine
end

section
/-! SUPPORT. O53 (19 R403 to R422): what a sample computes and writes, its supervisor, and the SPI ports. -/

namespace Sys2Proof.Machine

/-! ### The objects of a slot -/

/-- The objects of the slots lie above those of the chapters before. -/
theorem slot_notMem {l : List Nat} {c : Nat} (i : Nat) (low : ∀ j ∈ l, j < c := by decide) : c + 256 * i ∉ l :=
  fun h => absurd (low _ h) (by omega)

/-! ### The supervisor (R419, R420) -/

/-- The slot's flags say that the supervisor `test` has tripped. -/
def State.flagTrip (s : State) (i test : Nat) : State :=
  let s := (s.setReg (Obj.slotStatus i) (clearMask (s.reg (Obj.slotStatus i)) 15)).setBits (Obj.slotStatus i) (1 + 2 * test)
  s.setLoop i { s.loop i with invalid := 0 }

/-- And the cause of a SNUFF, where the slot's action asks for one. -/
def State.causeTrip (s : State) (i test : Nat) : State :=
  let s := s.flagTrip i test
  if s.reg (Obj.supAction i) = 1 then s.setCause Cause.loop else s

section
variable (s : State) (i test : Nat)

theorem State.trip_eq (calm : s.tripped i = false) : s.trip i test = (s.causeTrip i test).logEvent Ev.loopTrip (le 1 i ++ le 1 test) :=
  if_neg (by simp [calm])

theorem State.flagTrip_regsBut : s.regsBut (s.flagTrip i test) [Obj.slotStatus i] := fun k hk =>
  (State.reg_setBits_other _ _ (by simpa using hk)).trans (State.reg_setReg_other _ _ (by simpa using hk))

theorem State.causeTrip_regsBut : s.regsBut (s.causeTrip i test) [Obj.slotStatus i, Obj.snuffCause] :=
  .ite (fun _ => .step (State.setCause_regsBut _ _) (s.flagTrip_regsBut i test)) (fun _ => (s.flagTrip_regsBut i test).mono)

theorem State.trip_regsBut (calm : s.tripped i = false) :
    s.regsBut (s.trip i test) (Obj.slotStatus i :: Obj.snuffCause :: yilloggerObjects) := by
  rw [s.trip_eq i test calm]
  exact State.regsBut.step (State.logEvent_regsBut _ _ _) (s.causeTrip_regsBut i test)

theorem State.flagTrip_only : Only [.regs, .loops, .flagged] s (s.flagTrip i test) :=
  .with_loops (by decide) ((State.setBits_only ..).step (by decide) ((State.setReg_only ..).mono (by decide)))

theorem State.causeTrip_only : Only [.regs, .loops, .flagged] s (s.causeTrip i test) :=
  .ite (fun _ => (State.setCause_only ..).step (by decide) (s.flagTrip_only i test)) (fun _ => s.flagTrip_only i test)

/-- A trip is logged as at its start. -/
theorem State.causeTrip_logsAlike : LogsAlike s (s.causeTrip i test) :=
  .of_other (s.causeTrip_only i test) (by decide) fun k hk => s.causeTrip_regsBut i test k (by
    have slot : k ≠ Obj.slotStatus i := fun h => slot_notMem i (by decide) (h ▸ hk)
    have cause : k ≠ Obj.snuffCause := fun h => absurd (h ▸ hk) (by decide)
    simp [slot, cause])

theorem State.flagTrip_tripped : (s.flagTrip i test).tripped i = true := by
  have flags : (s.flagTrip i test).reg (Obj.slotStatus i) = _ := State.reg_setBits_same _ _ _
  unfold State.tripped
  rw [flags, Nat.testBit_or, show (1 + 2 * test).testBit 0 = true by simp, Bool.or_true]

theorem State.trip_tripped (calm : s.tripped i = false) : (s.trip i test).tripped i = true := by
  have cause : s.flagTrip i test |>.regsBut (s.causeTrip i test) [Obj.snuffCause] :=
    .ite (fun _ => State.setCause_regsBut _ _) (fun _ => .refl)
  unfold State.tripped
  rw [s.trip_eq i test calm, State.logEvent_regsBut _ _ _ _ (slot_notMem i),
    cause _ (slot_notMem i)]
  exact s.flagTrip_tripped i test

end

/-! ### The safe output (R422) -/

theorem State.goSafe_regsBut (s : State) (i : Nat) : s.regsBut (s.goSafe i) [Obj.lpOutput i] ∧
    (s.goSafe i).reg (Obj.lpOutput i) = s.reg (Obj.safeOut i) := by
  have acts := ((s.setReg (Obj.lpOutput i) (s.reg (Obj.safeOut i))).setLoop i
    { (s.setReg (Obj.lpOutput i) (s.reg (Obj.safeOut i))).loop i with oPrev := s.reg (Obj.safeOut i) }).actuate_only i
  exact ⟨fun k hk => (acts.reg (by decide) k).trans (s.setReg_regsBut _ _ k hk), (acts.reg (by decide) _).trans (s.reg_setReg_same ..)⟩

/-- A supervisor that trips sends the output to SAFE_OUT, and is logged. -/
theorem State.trip_goSafe (s : State) (i test : Nat) (calm : s.tripped i = false) : ((s.trip i test).goSafe i).tripped i = true ∧
    ((s.trip i test).goSafe i).reg (Obj.lpOutput i) = s.reg (Obj.safeOut i) ∧
    (∀ v, LogsAlike v s → s.clock = v.clock → v.logs ((s.trip i test).goSafe i) Ev.loopTrip (le 1 i ++ le 1 test)) := by
  obtain ⟨kept, safe⟩ := (s.trip i test).goSafe_regsBut i
  refine ⟨?_, safe.trans (s.trip_regsBut i test calm _ ?_), fun v alike clock => ?_⟩
  · unfold State.tripped
    rw [kept _ (by simp [Obj.slotStatus, Obj.lpOutput])]
    exact s.trip_tripped i test calm
  · refine List.mem_cons.not.mpr (not_or.mpr ⟨by simp [Obj.slotStatus, Obj.safeOut], slot_notMem i⟩)
  · refine State.logs_sameLog (t := s.trip i test) ?_ (((s.trip i test).goSafe_only i).sameLog (by decide) fun k hk => kept k ?_)
    · rw [s.trip_eq i test calm]
      exact State.logEvent_logs ((s.causeTrip_logsAlike i test).step alike)
        (((s.causeTrip_only i test).agree .clock (by decide)).trans clock) _ _
    · exact List.mem_singleton.not.mpr fun h => slot_notMem i (by decide) (h ▸ hk)

/-! ### A sample (R404, R411) -/

/-- The objects that an outgoing value's charge and the LED driver write. -/
def sampleObjects : List Nat := Obj.wickStatus :: Obj.ledStatus :: yilloggerObjects

theorem State.chargeSample_regsBut (s : State) (i : Nat) : s.regsBut (s.chargeSample i) sampleObjects := by
  unfold State.chargeSample
  extract_lets fs top out
  refine .ite (fun _ => .refl) (fun _ => .ite (fun _ => ?_) (fun _ => (s.chargePool_regsBut _ _).mono (by decide)))
  exact ((State.chargePool_regsBut _ _ _).mono (by decide)).trans ((s.fresh_only 32).regsBut (by decide) _)

theorem State.ledSample_regsBut (s : State) (slot y : Nat) : s.regsBut (s.ledSample slot y) sampleObjects := by
  have dark : s.regsBut ((s.darken.ledsLow).setBits Obj.ledStatus 1) sampleObjects := (State.setBits_regsBut s.darken.ledsLow _ _).mono (by decide)
  unfold State.ledSample
  refine .ite (fun _ => .refl) (fun _ => .ite (fun _ => .ite (fun _ => dark) (fun _ => ?_)) (fun _ => .ite (fun _ => .refl) (fun _ => .refl)))
  exact ((State.logEvent_regsBut _ _ _).mono (by decide)).trans dark

/-- What the supervisor writes: its memory, and what a trip writes. -/
theorem State.supervise_regsBut (s : State) (i y : Nat) (r : LoopOut) :
    s.regsBut (s.supervise i y r) (Obj.slotStatus i :: Obj.snuffCause :: yilloggerObjects) := by
  unfold State.supervise
  extract_lets x ym test big inBand above s1
  have h1 : s.regsBut s1 (Obj.slotStatus i :: Obj.snuffCause :: yilloggerObjects) := .refl
  clear_value s1 test
  cases test with
  | none => exact h1
  | some t =>
    by_cases calm : s1.tripped i = false
    · exact (s1.trip_regsBut i t calm).trans h1
    · dsimp only
      rw [State.trip, if_pos (by simpa using calm)]
      exact h1

theorem State.trip_swaps (s : State) (i test : Nat) : ((s.trip i test).loop i).swaps = (s.loop i).swaps := by
  by_cases calm : s.tripped i = false
  · have caused : Only [.regs, .flagged] (s.flagTrip i test) (s.causeTrip i test) := .ite (fun _ => State.setCause_only ..) (fun _ => .refl)
    have loops : (s.trip i test).loops = (s.flagTrip i test).loops := by
      rw [s.trip_eq i test calm]
      exact ((State.logEvent_only ..).agree .loops (by decide)).trans (caused.agree .loops (by decide))
    have flagged : (s.flagTrip i test).loop i = _ := State.loop_setLoop_same ..
    unfold State.loop at flagged ⊢
    rw [loops, flagged]
    rfl
  · rw [State.trip, if_pos (by simpa using calm)]

theorem State.supervise_swaps (s : State) (i y : Nat) (r : LoopOut) : ((s.supervise i y r).loop i).swaps = (s.loop i).swaps := by
  unfold State.supervise
  extract_lets x ym test big inBand above s1
  have kept : (s1.loop i).swaps = (s.loop i).swaps := by
    simp only [s1, State.loop_setLoop_same]
    rfl
  clear_value s1 test
  cases test with
  | none => exact kept
  | some t => exact (s1.trip_swaps i t).trans kept

/-- The output of a sample: SAFE_OUT while the slot is tripped, or held in SNUFF (R422). -/
def State.outOf (s : State) (i : Nat) (r : LoopOut) : Nat :=
  if s.tripped i || (decide (s.mode = .snuff) && decide (s.reg (Obj.snuffMode i) = 1)) then s.reg (Obj.safeOut i) else r.o

theorem State.outOf_eq (s : State) (i : Nat) (r : LoopOut) : s.outOf i r =
    if s.tripped i ∨ s.mode = .snuff ∧ s.reg (Obj.snuffMode i) = 1 then s.reg (Obj.safeOut i) else r.o := by
  simp only [State.outOf, Bool.or_eq_true, Bool.and_eq_true, decide_eq_true_eq]

/-- The slot's objects and its memory after a sample. -/
def State.writeSample (s : State) (i y o : Nat) (r : LoopOut) : State :=
  let x := s.loop i
  let s := s.setLoop i { x with u1 := r.u, u2 := x.u1, v1 := r.v, v2 := x.v1, oPrev := o, busy := false }
  let s := ((s.setReg (Obj.measured i) y).setReg (Obj.lpError i) r.e).setReg (Obj.lpOutput i) o
  ((s.setReg (Obj.integrator i) r.integ).setReg (Obj.won i) (flag r.won)).bump (Obj.samples i)

/-- A sample is judged, written, and sent on. -/
theorem State.sampleLoop_eq (s : State) (i raw : Nat) :
    let y := s.scaled i raw
    let r := s.computeLoop i y
    let u := s.supervise i y r
    s.sampleLoop i raw = (((u.writeSample i y (u.outOf i r) r).actuate i).chargeSample i).ledSample i y := rfl

/-- What is sent on writes none of the slot's objects, and no slot's memory. -/
theorem State.sent_keeps (s : State) (i y : Nat) : s.regsBut (((s.actuate i).chargeSample i).ledSample i y) sampleObjects ∧
    (((s.actuate i).chargeSample i).ledSample i y).loops = s.loops := by
  have acted := s.actuate_only i
  have charged := (s.actuate i).chargeSample_only i
  have lit := ((s.actuate i).chargeSample i).ledSample_only i y
  exact ⟨(State.ledSample_regsBut _ _ _).trans ((State.chargeSample_regsBut _ _).trans (acted.regsBut (by decide) _)),
    (lit.agree .loops (by decide)).trans ((charged.agree .loops (by decide)).trans (acted.agree .loops (by decide)))⟩

section
variable (s : State) (i y o : Nat) (r : LoopOut)

theorem State.writeSample_regs : (s.writeSample i y o r).reg (Obj.measured i) = y ∧ (s.writeSample i y o r).reg (Obj.lpError i) = r.e ∧
    (s.writeSample i y o r).reg (Obj.integrator i) = r.integ ∧ (s.writeSample i y o r).reg (Obj.lpOutput i) = o ∧
    (s.writeSample i y o r).reg (Obj.slotStatus i) = s.reg (Obj.slotStatus i) ∧
    (s.writeSample i y o r).reg (Obj.samples i) = countValue (Obj.samples i) (s.reg (Obj.samples i)) 1 := by
  have memory (x : LoopDyn) (k : Nat) : (s.setLoop i x).reg k = s.reg k := rfl
  simp [State.writeSample, State.bump, State.count, State.reg_setReg, memory]

theorem State.writeSample_loop : ((s.writeSample i y o r).loop i).busy = false ∧
    ((s.writeSample i y o r).loop i).swaps = (s.loop i).swaps := by
  have memory : (s.writeSample i y o r).loop i = _ := State.loop_setLoop_same s i _
  rw [memory]
  exact ⟨rfl, rfl⟩

end

/-- A sample's values: what it measures, computes and counts (R411). -/
theorem State.sampleLoop_samples (s : State) (i raw : Nat) {y : Nat} {r : LoopOut} (hy : y = s.scaled i raw) (hr : r = s.computeLoop i y) :
    (s.sampleLoop i raw).reg (Obj.measured i) = y ∧ (s.sampleLoop i raw).reg (Obj.lpError i) = r.e ∧
    (s.sampleLoop i raw).reg (Obj.integrator i) = r.integ ∧
    (s.sampleLoop i raw).reg (Obj.lpOutput i) = (if (s.sampleLoop i raw).tripped i ∨ s.mode = .snuff ∧ s.reg (Obj.snuffMode i) = 1
      then s.reg (Obj.safeOut i) else r.o) ∧
    ((s.sampleLoop i raw).loop i).busy = false ∧ ((s.sampleLoop i raw).loop i).swaps = (s.loop i).swaps ∧
    (s.sampleLoop i raw).reg (Obj.samples i) = countValue (Obj.samples i) (s.reg (Obj.samples i)) 1 := by
  have shape := s.sampleLoop_eq i raw
  dsimp only at shape
  rw [← hy, ← hr] at shape
  rw [shape]
  have judged := s.supervise_regsBut i y r
  have swaps := s.supervise_swaps i y r
  have mode : (s.supervise i y r).mode = s.mode := (s.supervise_only i y r).agree .mode (by decide)
  have same (c : Nat) (apart : c ≠ 0x2b002b) (high : 0x2b0000 ≤ c) : (s.supervise i y r).reg (c + 256 * i) = s.reg (c + 256 * i) :=
    judged _ (List.mem_cons.not.mpr (not_or.mpr ⟨by simp [Obj.slotStatus, apart], slot_notMem i fun j hj => by
      have low : ∀ j ∈ Obj.snuffCause :: yilloggerObjects, j < 0x2b0000 := by decide
      exact (low j hj).trans_le high⟩))
  have out := (s.supervise i y r).outOf_eq i r
  rw [mode, same 0x2b000f (by decide) (by decide), same 0x2b0010 (by decide) (by decide)] at out
  have count := same 0x2b0028 (by decide) (by decide)
  generalize s.supervise i y r = u at *
  obtain ⟨m, e, n, o, flags, k⟩ := u.writeSample_regs i y (u.outOf i r) r
  obtain ⟨busy, memory⟩ := u.writeSample_loop i y (u.outOf i r) r
  obtain ⟨regs, loops⟩ := (u.writeSample i y (u.outOf i r) r).sent_keeps i y
  have reg (c : Nat) (high : 0x2b0000 ≤ c) : _ = (u.writeSample i y (u.outOf i r) r).reg (c + 256 * i) := regs _ (slot_notMem i fun j hj => by
    have low : ∀ j ∈ sampleObjects, j < 0x2b0000 := by decide
    exact (low j hj).trans_le high)
  have loop := congrArg (fun l => Table.get ({} : LoopDyn) l i) loops
  refine ⟨(reg 0x2b0023 (by decide)).trans m, (reg 0x2b0024 (by decide)).trans e, (reg 0x2b0026 (by decide)).trans n, ?_,
    (congrArg LoopDyn.busy loop).trans busy, (congrArg LoopDyn.swaps loop).trans (memory.trans swaps),
    (reg 0x2b0028 (by decide)).trans (k.trans (by rw [count]))⟩
  have tripped : ((((u.writeSample i y (u.outOf i r) r).actuate i).chargeSample i).ledSample i y).tripped i = u.tripped i := by
    unfold State.tripped
    rw [reg 0x2b002b (by decide), flags]
  rw [reg 0x2b0025 (by decide), tripped]
  exact o.trans out

end Sys2Proof.Machine
end

section
/-! SUPPORT. O53 (19 R403 to R409, R419, R420): the sample commands of a loop slot, its SPI port and its following test. -/

namespace Sys2Proof.Machine

/-! ### A sample that is missing (R405) -/

/-- The slot counts a missing sample. -/
def State.noteStale (s : State) (i : Nat) : State :=
  (s.setLoop i { s.loop i with invalid := (s.loop i).invalid + 1, busy := false }).bump (Obj.stale i)

section
variable (s : State) (i : Nat)

theorem State.noteStale_only : Only [.regs, .loops] s (s.noteStale i) :=
  (State.bump_only ..).step (by decide) ((State.setLoop_only ..).mono (by decide))

theorem State.noteStale_regsBut : s.regsBut (s.noteStale i) [Obj.stale i] :=
  (s.setLoop i { s.loop i with invalid := (s.loop i).invalid + 1, busy := false }).bump_regsBut (Obj.stale i)

theorem State.noteStale_counts : (s.noteStale i).reg (Obj.stale i) = countValue (Obj.stale i) (s.reg (Obj.stale i)) 1 ∧
    ((s.noteStale i).loop i).invalid = (s.loop i).invalid + 1 :=
  ⟨State.reg_bump_same .., congrArg LoopDyn.invalid (s.loop_setLoop_same i _)⟩

theorem State.noteStale_tripped : (s.noteStale i).tripped i = s.tripped i := by
  unfold State.tripped
  rw [s.noteStale_regsBut i _ (by simp [Obj.slotStatus, Obj.stale])]

theorem State.staleLoop_few (h : (s.loop i).invalid < 2) : s.staleLoop i = s.noteStale i := if_neg fun x => by omega

theorem State.staleLoop_many (h : 2 ≤ (s.loop i).invalid) (calm : s.tripped i = false) :
    s.staleLoop i = ((s.noteStale i).trip i 3).goSafe i := if_pos ⟨by omega, (s.noteStale_tripped i).trans calm⟩

theorem State.noteStale_logsAlike : LogsAlike s (s.noteStale i) :=
  .of_other (s.noteStale_only i) (by decide) fun k hk => s.noteStale_regsBut i k
    (List.mem_singleton.not.mpr fun h => slot_notMem i (by decide) (h ▸ hk))

/-- The third missing sample in a row trips the slot, and sends its output to SAFE_OUT (R405, R422). -/
theorem State.staleLoop_trips (many : 2 ≤ (s.loop i).invalid) (calm : s.tripped i = false) : (s.staleLoop i).tripped i = true ∧
    (s.staleLoop i).reg (Obj.lpOutput i) = s.reg (Obj.safeOut i) ∧ s.logs (s.staleLoop i) Ev.loopTrip (le 1 i ++ le 1 3) := by
  have clock : (s.noteStale i).clock = s.clock := rfl
  rw [s.staleLoop_many i many calm]
  obtain ⟨tripped, safe, logged⟩ := (s.noteStale i).trip_goSafe i 3 ((s.noteStale_tripped i).trans calm)
  exact ⟨tripped, safe.trans (s.noteStale_regsBut i _ (by simp [Obj.safeOut, Obj.stale])), logged s (s.noteStale_logsAlike i) clock⟩

end

/-! ### The instant and the start of a sample (R406, R411, R418) -/

section
variable (s : State) (i : Nat)

theorem State.startSample_loop : ((s.startSample i).loop i).swaps = (s.loop i).swaps.filter (fun t => decide (t = s.clock.cycles)) ∧
    ((s.startSample i).loop i).invalid = (s.loop i).invalid ∧ ((s.startSample i).loop i).busy = (s.loop i).busy := by
  unfold State.startSample
  extract_lets x due s1
  have clock : s1.clock = s.clock := by
    simp only [s1]
    split <;> rfl
  rw [State.loop_setLoop_same]
  exact ⟨by rw [clock], rfl, rfl⟩

theorem State.atInstant_loop : (s.atInstant i).loop i = { s.loop i with sampledAt := some s.clock.cycles, ahead := false } :=
  s.loop_setLoop_same i _

end

/-- The state in which a sample that is due is computed. -/
def State.sampling (s : State) (i : Nat) : State := ((s.inOrder i).atInstant i).startSample i

theorem State.inOrder_only (s : State) (i : Nat) :
    Only [.regs, .igrel, .heads, .lantern, .led, .wick, .loops, .spi, .ylog, .out, .flagged, .freeCtr] s (s.inOrder i) :=
  .foldl (fun t j => t.sampleSlot_only true j) .refl

theorem State.sampling_mode (s : State) (i : Nat) : (s.sampling i).mode = s.mode :=
  ((State.startSample_only ..).agree .mode (by decide)).trans ((s.inOrder_only i).agree .mode (by decide))

theorem State.sampling_loop (s : State) (i : Nat) :
    ((s.sampling i).loop i).swaps = ((s.inOrder i).loop i).swaps.filter (fun t => decide (t = (s.inOrder i).clock.cycles)) ∧
      ((s.sampling i).loop i).invalid = ((s.inOrder i).loop i).invalid := by
  obtain ⟨swaps, invalid, -⟩ := ((s.inOrder i).atInstant i).startSample_loop i
  rw [State.atInstant_loop] at swaps invalid
  exact ⟨swaps, invalid⟩

/-! ### What a sample does, by its source (R403) -/

section
variable {s : State} {i : Nat}

theorem State.takeSample_value {raw : Nat} (h : let u := s.startSample i; let arg := u.reg (Obj.sourceArg i)
    (u.reg (Obj.lpSource i) = 1 ∧ u.statusRaw arg = some raw) ∨ (u.reg (Obj.lpSource i) = 3 ∧ raw = bf24OfF32 (u.reg (Obj.headroom arg))) ∨
      (u.reg (Obj.lpSource i) = 4 ∧ raw = u.reg (Obj.lpOutput arg))) :
    s.takeSample i = (s.startSample i).sampleLoop i raw := by
  unfold State.takeSample
  obtain ⟨source, value⟩ | ⟨source, rfl⟩ | ⟨source, rfl⟩ := h
  · simp only [source, value]
  · simp only [source]
  · simp only [source]

theorem State.takeSample_missing (source : (s.startSample i).reg (Obj.lpSource i) = 1)
    (value : (s.startSample i).statusRaw ((s.startSample i).reg (Obj.sourceArg i)) = none) :
    s.takeSample i = (s.startSample i).staleLoop i := by
  simp only [State.takeSample, source, value]

/-- An SPI sense is asked for. -/
def State.askSense (s : State) (i : Nat) : State :=
  (s.setLoop i { s.loop i with busy := true }).spiAdd (s.reg (Obj.sourceArg i) % 4) i none

theorem State.takeSample_sense (source : (s.startSample i).reg (Obj.lpSource i) = 2) : s.takeSample i = (s.startSample i).askSense i := by
  simp only [State.takeSample, source]
  rfl

end

section
variable {s : State} {i : Fin 48} (runs : s.loopRuns i = true) (due : (s.loop i).ahead = false)
  (free : ((s.inOrder i).loop i).busy = false)
include runs due free

theorem loopSample_computes {raw : Nat} (h : let arg := (s.sampling i).reg (Obj.sourceArg i)
    ((s.sampling i).reg (Obj.lpSource i) = 1 ∧ (s.sampling i).statusRaw arg = some raw) ∨
      ((s.sampling i).reg (Obj.lpSource i) = 3 ∧ raw = bf24OfF32 ((s.sampling i).reg (Obj.headroom arg))) ∨
      ((s.sampling i).reg (Obj.lpSource i) = 4 ∧ raw = (s.sampling i).reg (Obj.lpOutput arg))) :
    let y := (s.sampling i).scaled i raw
    let r := (s.sampling i).computeLoop i y
    Completes (.loopSample i) s (fun t => t.mode = s.mode ∧ t.reg (Obj.measured i) = y ∧ t.reg (Obj.lpError i) = r.e ∧
      t.reg (Obj.integrator i) = r.integ ∧
      t.reg (Obj.lpOutput i) = (if t.tripped i ∨ s.mode = .snuff ∧ (s.sampling i).reg (Obj.snuffMode i) = 1
        then (s.sampling i).reg (Obj.safeOut i) else r.o) ∧
      (t.loop i).busy = false ∧
      (t.loop i).swaps = ((s.inOrder i).loop i).swaps.filter (fun c => decide (c = (s.inOrder i).clock.cycles)) ∧
      t.reg (Obj.samples i) = countValue (Obj.samples i) ((s.sampling i).reg (Obj.samples i)) 1) := by
  intro y r
  have taken := (loopSample_takes runs due free).trans (congrArg ok (State.takeSample_value h))
  obtain ⟨measured, error, integ, output, busy, swaps, samples⟩ := (s.sampling i).sampleLoop_samples i raw rfl rfl
  rw [s.sampling_mode i] at output
  exact ⟨_, taken, (((s.sampling i).sampleLoop_only i raw).agree .mode (by decide)).trans (s.sampling_mode i), measured, error, integ, output,
    busy, swaps.trans (s.sampling_loop i).1, samples⟩

theorem loopSample_stale (source : (s.sampling i).reg (Obj.lpSource i) = 1)
    (value : (s.sampling i).statusRaw ((s.sampling i).reg (Obj.sourceArg i)) = none) (few : ((s.inOrder i).loop i).invalid < 2) :
    Completes (.loopSample i) s (fun t => t.mode = s.mode ∧ (t.loop i).invalid = ((s.inOrder i).loop i).invalid + 1 ∧
      t.reg (Obj.stale i) = countValue (Obj.stale i) ((s.sampling i).reg (Obj.stale i)) 1 ∧
      t.reg (Obj.lpOutput i) = (s.sampling i).reg (Obj.lpOutput i)) := by
  have taken := (loopSample_takes runs due free).trans (congrArg ok (State.takeSample_missing source value))
  obtain ⟨-, invalid⟩ := s.sampling_loop i
  have counted : (s.sampling i).staleLoop i = (s.sampling i).noteStale i :=
    (s.sampling i).staleLoop_few i (invalid.trans_lt few)
  obtain ⟨stale, missing⟩ := (s.sampling i).noteStale_counts i
  have mode := ((s.sampling i).noteStale_only i).agree .mode (by decide)
  exact ⟨_, taken.trans (congrArg ok counted), mode.trans (s.sampling_mode i), missing.trans (congrArg (· + 1) invalid), stale,
    (s.sampling i).noteStale_regsBut i _ (by simp [Obj.lpOutput, Obj.stale])⟩

theorem loopSample_trips (source : (s.sampling i).reg (Obj.lpSource i) = 1)
    (value : (s.sampling i).statusRaw ((s.sampling i).reg (Obj.sourceArg i)) = none) (many : 2 ≤ ((s.inOrder i).loop i).invalid)
    (calm : (s.sampling i).tripped i = false) : Completes (.loopSample i) s (fun t => t.mode = s.mode ∧ t.tripped i = true ∧
      t.reg (Obj.lpOutput i) = (s.sampling i).reg (Obj.safeOut i) ∧ (s.sampling i).logs t Ev.loopTrip (le 1 i ++ le 1 3)) := by
  have taken := (loopSample_takes runs due free).trans (congrArg ok (State.takeSample_missing source value))
  obtain ⟨-, invalid⟩ := s.sampling_loop i
  have mode := ((s.sampling i).staleLoop_only i).agree .mode (by decide)
  exact ⟨_, taken, mode.trans (s.sampling_mode i), (s.sampling i).staleLoop_trips i (many.trans_eq invalid.symm) calm⟩

end

/-! ### The SPI ports (R407 to R409) -/

section
variable (s : State) (p slot : Nat) (code : Option Nat)

/-- The transactions of a port, the one in progress first. -/
def State.jobsOf (s : State) (p : Nat) : List SpiJob := Table.get [] s.spi p

theorem State.jobsOf_congr {s t : State} (h : t.spi = s.spi) (p : Nat) : t.jobsOf p = s.jobsOf p := by
  unfold State.jobsOf
  rw [h]

theorem State.jobsOf_emit (s : State) (o : Out) (p : Nat) : (s.emit o).jobsOf p = s.jobsOf p := rfl

/-- Give a port other transactions. -/
def State.setJobs (s : State) (p : Nat) (l : List SpiJob) : State := { s with spi := Table.put [] s.spi p l }

theorem State.jobsOf_setJobs_same (l : List SpiJob) : (s.setJobs p l).jobsOf p = l := Table.get_put_same ..

theorem State.jobsOf_setJobs_other {q : Nat} (l : List SpiJob) (h : q ≠ p) : (s.setJobs p l).jobsOf q = s.jobsOf q :=
  Table.get_put_other _ _ _ h

/-- On a free port a transaction starts. -/
theorem State.spiAdd_free (free : s.jobsOf p = []) : s.spiAdd p slot code =
    if code.isNone then (s.setJobs p [{ slot := slot, code := code, at_ := s.clock.cycles }]).emit (.spiSense p slot (s.senseFrame slot))
    else s.setJobs p [{ slot := slot, code := code, at_ := s.clock.cycles }] := by
  change Table.get [] s.spi p = [] at free
  unfold State.spiAdd
  simp only [free]
  rfl

/-- Behind one in progress it takes its place. -/
theorem State.spiAdd_busy {h : SpiJob} {rest : List SpiJob} (busy : s.jobsOf p = h :: rest) : s.spiAdd p slot code =
    s.setJobs p (h :: queueJob { slot := slot, code := code, at_ := s.clock.cycles } rest) := by
  change Table.get [] s.spi p = h :: rest at busy
  unfold State.spiAdd
  simp only [busy]
  rfl

theorem State.spiAdd_other {q : Nat} (h : q ≠ p) : (s.spiAdd p slot code).jobsOf q = s.jobsOf q := by
  cases jobs : s.jobsOf p with
  | nil =>
    rw [s.spiAdd_free p slot code jobs]
    have kept := s.jobsOf_setJobs_other p [{ slot := slot, code := code, at_ := s.clock.cycles }] h
    split <;> exact kept
  | cons x l =>
    rw [s.spiAdd_busy p slot code jobs]
    exact s.jobsOf_setJobs_other p _ h

/-- A transaction that joins a queue leaves those before it there. -/
theorem mem_queueJob {x : SpiJob} (j : SpiJob) {l : List SpiJob} (hx : x ∈ l) : x ∈ queueJob j l := by
  induction l with
  | nil => cases hx
  | cons y l ih =>
    unfold queueJob
    split
    · exact .tail _ hx
    · obtain rfl | later := List.mem_cons.mp hx
      · exact .head _
      · exact .tail _ (ih later)

/-- What waits behind the transaction in progress stays behind it. -/
theorem State.actuate_waits (i : Nat) {h : SpiJob} {rest : List SpiJob} (busy : s.jobsOf p = h :: rest) :
    ∃ l, (s.actuate i).jobsOf p = h :: l ∧ ∀ j ∈ rest, j ∈ l := by
  have same {t : State} (ht : t.spi = s.spi) : ∃ l, t.jobsOf p = h :: l ∧ ∀ j ∈ rest, j ∈ l :=
    ⟨rest, (congrArg (fun x => Table.get [] x p) ht).trans busy, fun _ hj => hj⟩
  unfold State.actuate
  extract_lets o arg
  split
  · split
    · exact same ((State.sendCtrl_only ..).agree .spi (by decide))
    · exact same rfl
  · by_cases port : p = arg
    · rw [port] at busy ⊢
      rw [s.spiAdd_busy arg i _ busy, State.jobsOf_setJobs_same]
      exact ⟨_, rfl, fun _ hj => mem_queueJob _ hj⟩
    · exact ⟨rest, (s.spiAdd_other _ _ _ port).trans busy, fun _ hj => hj⟩
  · exact same rfl

/-- Once the transaction in progress ends, its port holds the rest. -/
theorem State.spiPop_rest : (s.spiPop p).jobsOf p = (s.jobsOf p).drop 1 := by
  have popped : (s.spiPop p).spi = (s.setJobs p ((s.jobsOf p).drop 1)).spi := by
    unfold State.spiPop State.setJobs State.jobsOf
    dsimp only
    cases (Table.get [] s.spi p).drop 1 with
    | nil => rfl
    | cons j l =>
      dsimp only
      split <;> rfl
  exact (congrArg (fun x => Table.get [] x p) popped).trans (s.jobsOf_setJobs_same p _)

theorem State.spiPop_mem {o : Out} (h : o ∈ s.out) : o ∈ (s.spiPop p).out := by
  unfold State.spiPop
  dsimp only
  cases (Table.get [] s.spi p).drop 1 with
  | nil => exact h
  | cons j l =>
    dsimp only
    split
    · exact .tail _ h
    · exact h

end

section
variable {s : State} {i : Fin 48} (runs : s.loopRuns i = true) (due : (s.loop i).ahead = false)
  (free : ((s.inOrder i).loop i).busy = false)

/-- A slot that senses waits for its port. -/
theorem State.askSense_asks (s : State) (i : Nat) :
    let arg := s.reg (Obj.sourceArg i)
    let job : SpiJob := { slot := i, code := none, at_ := s.clock.cycles }
    ((s.askSense i).loop i).busy = true ∧ (s.askSense i).reg (Obj.lpOutput i) = s.reg (Obj.lpOutput i) ∧
    (s.jobsOf (arg % 4) = [] →
      (s.askSense i).jobsOf (arg % 4) = [job] ∧ .spiSense (arg % 4) i (s.senseFrame i) ∈ (s.askSense i).out) ∧
    ∀ h rest, s.jobsOf (arg % 4) = h :: rest → (s.askSense i).jobsOf (arg % 4) = h :: queueJob job rest := by
  intro arg job
  have waits : Only [.spi, .out] (s.setLoop i { s.loop i with busy := true }) (s.askSense i) := State.spiAdd_only ..
  have memory : (s.askSense i).loop i = _ :=
    (congrArg (fun l => Table.get ({} : LoopDyn) l i) (waits.agree .loops (by decide))).trans (s.loop_setLoop_same i _)
  refine ⟨congrArg LoopDyn.busy memory, waits.reg (by decide) _, fun empty => ?_, fun h rest busy => ?_⟩
  · have starts := (s.setLoop i { s.loop i with busy := true }).spiAdd_free (arg % 4) i none empty |>.trans (if_pos rfl)
    rw [State.askSense, starts]
    exact ⟨(State.jobsOf_emit ..).trans (State.jobsOf_setJobs_same ..), .head _⟩
  · have joins := (s.setLoop i { s.loop i with busy := true }).spiAdd_busy (arg % 4) i none busy
    rw [State.askSense, joins]
    exact State.jobsOf_setJobs_same ..

theorem State.askSense_only (s : State) (i : Nat) : Only [.loops, .spi, .out] s (s.askSense i) :=
  (State.spiAdd_only ..).step (by decide) ((State.setLoop_only ..).mono (by decide))

include runs due free in
theorem loopSample_senses (source : (s.sampling i).reg (Obj.lpSource i) = 2) :
    let arg := (s.sampling i).reg (Obj.sourceArg i)
    let job : SpiJob := { slot := i, code := none, at_ := (s.sampling i).clock.cycles }
    Completes (.loopSample i) s (fun t => t.mode = s.mode ∧ (t.loop i).busy = true ∧
      t.reg (Obj.lpOutput i) = (s.sampling i).reg (Obj.lpOutput i) ∧
      (Table.get [] (s.sampling i).spi (arg % 4) = [] →
        Table.get [] t.spi (arg % 4) = [job] ∧ .spiSense (arg % 4) i ((s.sampling i).senseFrame i) ∈ t.out) ∧
      ∀ h rest, Table.get [] (s.sampling i).spi (arg % 4) = h :: rest → Table.get [] t.spi (arg % 4) = h :: queueJob job rest) := by
  have taken := (loopSample_takes runs due free).trans (congrArg ok (State.takeSample_sense source))
  have mode := ((s.sampling i).askSense_only i).agree .mode (by decide)
  exact ⟨_, taken, mode.trans (s.sampling_mode i), (s.sampling i).askSense_asks i⟩

end

/-! ### The commands of a port -/

section
variable {s : State} {p : Fin 4}

theorem State.sent_waits (s : State) (i y p : Nat) {h : SpiJob} {rest : List SpiJob} (busy : s.jobsOf p = h :: rest) :
    ∃ l, (((s.actuate i).chargeSample i).ledSample i y).jobsOf p = h :: l ∧ ∀ j ∈ rest, j ∈ l := by
  obtain ⟨l, jobs, waits⟩ := s.actuate_waits p i busy
  have charged := ((s.actuate i).chargeSample_only i).agree .spi (by decide)
  have lit := (((s.actuate i).chargeSample i).ledSample_only i y).agree .spi (by decide)
  exact ⟨l, (State.jobsOf_congr (lit.trans charged) p).trans jobs, waits⟩

/-- A sample that arrives is taken as any other; what waited for the port still does. -/
theorem State.sampleLoop_waits (s : State) (i raw p : Nat) {h : SpiJob} {rest : List SpiJob} (busy : s.jobsOf p = h :: rest) :
    ∃ l, (s.sampleLoop i raw).jobsOf p = h :: l ∧ ∀ j ∈ rest, j ∈ l := by
  have shape := s.sampleLoop_eq i raw
  generalize s.scaled i raw = y at shape
  dsimp only at shape
  generalize s.computeLoop i y = r at shape
  have judged : (s.supervise i y r).spi = s.spi := (s.supervise_only i y r).agree .spi (by decide)
  generalize s.supervise i y r = u at shape judged
  rw [shape]
  exact State.sent_waits (u.writeSample i y (u.outOf i r) r) i y p ((State.jobsOf_congr judged p).trans busy)

theorem spiSenseDone_samples {b at_ : Nat} {i : Fin 48} {rest : List SpiJob} (jobs : s.jobsOf p = { slot := i, code := none, at_ := at_ } :: rest)
    (busy : (s.loop i).busy = true) : Completes (.spiSenseDone p b) s (fun t => t.mode = s.mode ∧
      t.reg (Obj.measured i) = s.scaled i (s.adcRaw i b).1 ∧ (t.loop i).busy = false ∧
      t.reg (Obj.samples i) = countValue (Obj.samples i) (s.reg (Obj.samples i)) 1 ∧ ∀ j ∈ rest, j ∈ t.jobsOf p) := by
  have read := s.adcRaw_only i b
  have runs : exec (.spiSenseDone p b) s = ok (((s.adcRaw i b).2.sampleLoop i (s.adcRaw i b).1).spiPop p) := by
    change Table.get [] s.spi p = _ at jobs
    show execSpiSenseDone p b s = _
    unfold execSpiSenseDone
    rw [jobs]
    exact if_pos busy
  have regs (k : Nat) : (s.adcRaw i b).2.reg k = s.reg k := read.reg (by decide) k
  have scaled : (s.adcRaw i b).2.scaled i (s.adcRaw i b).1 = s.scaled i (s.adcRaw i b).1 := by
    unfold State.scaled
    rw [regs, regs]
  have before := (State.jobsOf_congr (read.agree .spi (by decide)) p).trans jobs
  have mode := read.agree .mode (by decide)
  generalize (s.adcRaw i b).1 = raw at *
  generalize (s.adcRaw i b).2 = u at *
  obtain ⟨measured, -, -, -, idle, -, samples⟩ := u.sampleLoop_samples i raw rfl rfl
  obtain ⟨l, after, waits⟩ := u.sampleLoop_waits i raw p before
  have sampled := (u.sampleLoop_only i raw).agree .mode (by decide)
  have popped := (u.sampleLoop i raw).spiPop_only p
  have rest_ := (u.sampleLoop i raw).spiPop_rest p
  refine ⟨_, runs, (popped.agree .mode (by decide)).trans (sampled.trans mode), (popped.reg (by decide) _).trans (measured.trans scaled),
    (congrArg (fun x => (Table.get ({} : LoopDyn) x i).busy) (popped.agree .loops (by decide))).trans idle,
    (popped.reg (by decide) _).trans (samples.trans (by rw [regs])), fun j hj => ?_⟩
  rw [rest_, after]
  exact waits j hj

theorem spiActuatorWrite_writes {i c at_ : Nat} {rest : List SpiJob} (jobs : s.jobsOf p = { slot := i, code := some c, at_ := at_ } :: rest) :
    Completes (.spiActuatorWrite p) s (fun t => t = { s with spi := t.spi, out := t.out } ∧ t.jobsOf p = rest ∧ .spiWrite p {
      mode := 3 * bits (s.reg (Obj.spiCfg i)) 0 0, sckDiv := bits (s.reg (Obj.spiCfg i)) 7 1, cycles := 32, cnv := none,
      mosi := 2 ^ 16 * bits (s.reg (Obj.actWord i)) 31 16 + c } ∈ t.out) := by
  have runs : exec (.spiActuatorWrite p) s = ok ((s.emit (.spiWrite p (s.writeFrame i c))).spiPop p) := by
    change Table.get [] s.spi p = _ at jobs
    show execSpiActuatorWrite p s = _
    unfold execSpiActuatorWrite
    rw [jobs]
  have rest_ := (s.emit (.spiWrite p (s.writeFrame i c))).spiPop_rest p
  have frame : Only [.spi, .out] s _ :=
    ((s.emit (.spiWrite p (s.writeFrame i c))).spiPop_only p).step (by decide) ((s.emit_only _).mono (by decide))
  refine ⟨_, runs, frame.eq_taking, rest_.trans (congrArg (List.drop 1) jobs), ?_⟩
  rw [mul_comm 3]
  exact State.spiPop_mem _ _ (.head _)

end

/-! ### The following test (R419) -/

/-- A slot whose action asks for it is a cause of SNUFF. -/
theorem State.trip_causes (s : State) (i test : Nat) (calm : s.tripped i = false) (action : s.reg (Obj.supAction i) = 1)
    (configured : s.configured = true) : (((s.trip i test).goSafe i).reg Obj.snuffCause).testBit Cause.loop = true := by
  have asks : s.causeTrip i test = (s.flagTrip i test).setCause Cause.loop :=
    if_pos ((s.flagTrip_regsBut i test _ (by simp [Obj.supAction, Obj.slotStatus])).trans action)
  have output : Obj.snuffCause ∉ [Obj.lpOutput i] := by simp [Obj.snuffCause, Obj.lpOutput]; omega
  rw [((s.trip i test).goSafe_regsBut i).1 _ output, s.trip_eq i test calm, State.logEvent_regsBut _ _ _ _ (by decide), asks,
    (s.flagTrip i test).setCause_sets Cause.loop configured, Nat.testBit_or, Nat.testBit_two_pow_self, Bool.or_true]

theorem loopFollowTimeout_trips {s : State} {i : Fin 48} (runs : s.loopRuns i = true) (armed : (s.loop i).armed = true)
    (over_ : (s.loop i).overFollow = true) (calm : s.tripped i = false) : Completes (.loopFollowTimeout i) s (fun t => t.mode = s.mode ∧
      t.tripped i = true ∧ t.reg (Obj.lpOutput i) = s.reg (Obj.safeOut i) ∧ s.logs t Ev.loopTrip (le 1 i ++ le 1 4) ∧
      (s.reg (Obj.supAction i) = 1 → s.configured = true → (t.reg Obj.snuffCause).testBit Cause.loop = true)) := by
  have trips : exec (.loopFollowTimeout i) s = ok ((s.trip i 4).goSafe i) := if_pos (by simp [runs, armed, over_, calm])
  have mode := (((s.trip i 4).goSafe_only i).agree .mode (by decide)).trans ((s.trip_only i 4).agree .mode (by decide))
  obtain ⟨tripped, safe, logged⟩ := s.trip_goSafe i 4 calm
  exact ⟨_, trips, mode, tripped, safe, logged s .refl rfl, s.trip_causes i 4 calm⟩

/-- Settles O53: a lemma for each source of a sample, and for each other command. -/
theorem loopsSampleAndAreSupervised : Obligations.LoopsSampleAndAreSupervised := by
  intro s
  refine ⟨fun i runs due => ⟨State.inOrder_alone, fun raw free => ?_, fun free source value => ⟨?_, ?_⟩, fun free => ?_⟩,
    fun _ _ _ _ _ => spiSenseDone_samples, fun _ _ _ _ _ => spiActuatorWrite_writes, fun _ => loopFollowTimeout_trips⟩
  · exact loopSample_computes runs due free
  · exact loopSample_stale runs due free source value
  · exact loopSample_trips runs due free source value
  · have senses := loopSample_senses runs due free
    unfold State.sampling State.atInstant State.inOrder at senses
    exact senses

end Sys2Proof.Machine
end

section
/-! SUPPORT. O50 (16 R359 to R366): the end of a scan, and the scrubber's block. -/

namespace Sys2Proof.Machine

/-! ### The next scan (R361, R363) -/

/-- The scan at the head is done: the queue goes on with the rest, and the next starts. -/
def State.nextScan (s : State) (rest : List Scan) : State :=
  ({ s with check := { s.check with queue := rest, ecc := false } }).noteScans.startScan

theorem scanComplete_ends {s : State} {x : Scan} {rest : List Scan} (queue : s.check.queue = x :: rest) (free : s.memWaits .scan = false) :
    exec .scanComplete s = ok ((if s.check.ecc then s.eccScan x else s.endScan x).nextScan rest) := by
  show execScanComplete s = _
  unfold execScanComplete
  rw [queue]
  exact if_neg (by simp [free])

theorem scanComplete_waits {s : State} {x : Scan} {rest : List Scan} (queue : s.check.queue = x :: rest) (waits : s.memWaits .scan = true) :
    Completes .scanComplete s (fun t => t = s) := by
  refine ⟨s, ?_, rfl⟩
  show execScanComplete s = _
  unfold execScanComplete
  rw [queue]
  exact if_pos waits

section
variable (s : State) (rest : List Scan)

/-- The queue without the scan that is done. -/
def State.unqueueScan : State := ({ s with check := { s.check with queue := rest, ecc := false } }).noteScans

theorem State.unqueueScan_only : Only [.regs, .check] s (s.unqueueScan rest) :=
  (State.noteScans_only _).step (by decide) (.with_check (by decide) .refl)

theorem State.nextScan_cons (y : Scan) (l : List Scan) : s.nextScan (y :: l) =
    ((s.unqueueScan (y :: l)).setReg (Obj.unitState y.unit) 1).askMem .scan false (creditsOf y.len) := rfl

theorem State.nextScan_only : Only [.regs, .check, .dram] s (s.nextScan rest) :=
  (State.startScan_only _).step (by decide) ((s.unqueueScan_only rest).mono (by decide))

/-- The objects that the start of the next scan writes. -/
def nextObjects (rest : List Scan) : List Nat := Obj.scanQueued :: rest.head?.toList.map (fun y => Obj.unitState y.unit)

theorem State.nextScan_regsBut : s.regsBut (s.nextScan rest) (nextObjects rest) := by
  cases rest with
  | nil => exact State.regsBut.mono (s.setReg_regsBut _ _) (by simp [nextObjects])
  | cons y l =>
    have asked := State.askMem_only ((s.unqueueScan (y :: l)).setReg (Obj.unitState y.unit) 1) .scan false (creditsOf y.len)
    have written : s.regsBut ((s.unqueueScan (y :: l)).setReg (Obj.unitState y.unit) 1) (nextObjects (y :: l)) :=
      .step (State.setReg_regsBut _ _ _) (s.setReg_regsBut _ _) (by simp [nextObjects]) (by simp [nextObjects])
    exact (asked.regsBut (by decide) _).trans written

theorem State.nextScan_check : (s.nextScan rest).check = { s.check with queue := rest, ecc := false } := by
  cases rest with
  | nil => rfl
  | cons y l => exact (State.askMem_only ..).agree .check (by decide)

theorem State.nextScan_idle (h : rest = []) : (s.nextScan rest).dram = s.dram := by
  subst h
  rfl

/-- The next scan reads as running, and asks for its reads. -/
theorem State.nextScan_starts {y : Scan} (hy : y ∈ rest.head?) : (s.nextScan rest).reg (Obj.unitState y.unit) = 1 ∧
    (s.nextScan rest).dram = (s.askMem .scan false (creditsOf y.len)).dram := by
  cases rest with
  | nil => cases hy
  | cons z l =>
    obtain rfl : z = y := Option.some.inj hy
    rw [State.nextScan_cons]
    exact ⟨((State.askMem_only ..).reg (by decide) _).trans (State.reg_setReg_same ..), 
      State.askMem_dram (s := s) (u := (s.unqueueScan (z :: l)).setReg (Obj.unitState z.unit) 1) rfl rfl _ _ _⟩

theorem State.nextScan_queued (unit : ∀ y ∈ rest.head?, y.unit < 16) : (s.nextScan rest).reg Obj.scanQueued = rest.length := by
  cases rest with
  | nil => exact State.reg_setReg_same ..
  | cons y l =>
    rw [State.nextScan_cons]
    refine ((State.askMem_only ..).reg (by decide) _).trans ((State.reg_setReg_other _ _ ?_).trans (State.reg_setReg_same ..))
    simp [Obj.scanQueued, Obj.unitState]
    omega

end

/-! ### The scan that ends (R359, R360, R362, R363) -/

/-- The unit's objects after a scan. -/
def State.scanned (s : State) (x : Scan) : State :=
  let c := s.scanRegister x
  ((s.setReg (Obj.running x.unit) c).setReg (Obj.result x.unit) (crcFinal c)).setReg (Obj.unitState x.unit) (scanStatus x (crcFinal c))

section
variable (s : State) (x : Scan)

theorem State.endScan_eq : s.endScan x = if scanStatus x (crcFinal (s.scanRegister x)) = 4 then
    ((s.scanned x).setBits Obj.checkStatus 1).logEvent Ev.checkMismatch
      (le 1 x.unit ++ zeros 3 ++ le 4 (crcFinal (s.scanRegister x)) ++ le 4 x.expected) else s.scanned x := rfl

theorem State.scanned_regs : (s.scanned x).reg (Obj.running x.unit) = s.scanRegister x ∧
    (s.scanned x).reg (Obj.result x.unit) = crcFinal (s.scanRegister x) ∧
    (s.scanned x).reg (Obj.unitState x.unit) = scanStatus x (crcFinal (s.scanRegister x)) := by
  refine ⟨?_, ?_, State.reg_setReg_same ..⟩
  · exact (State.reg_setReg_other _ _ (by simp [Obj.running, Obj.unitState])).trans
      ((State.reg_setReg_other _ _ (by simp [Obj.running, Obj.result])).trans (State.reg_setReg_same ..))
  · exact (State.reg_setReg_other _ _ (by simp [Obj.result, Obj.unitState])).trans (State.reg_setReg_same ..)

/-- The unit's own objects are none of the events'. -/
theorem State.endScan_unit (unit : x.unit < 16) {k : Nat} (hk : k = Obj.running x.unit ∨ k = Obj.result x.unit ∨ k = Obj.unitState x.unit) :
    (s.endScan x).reg k = (s.scanned x).reg k := by
  have high : k ∉ Obj.checkStatus :: yilloggerObjects := fun h => by
    have low : ∀ j ∈ Obj.checkStatus :: yilloggerObjects, j < 0x290013 := by decide
    have := low k h
    unfold Obj.running Obj.result Obj.unitState at hk
    omega
  obtain ⟨status, log⟩ := not_or.mp (List.mem_cons.not.mp high)
  rw [s.endScan_eq x]
  split
  · exact (State.logEvent_regsBut _ _ _ k log).trans (State.reg_setBits_other _ _ status)
  · rfl

theorem State.scanned_logsAlike : LogsAlike s (s.scanned x) :=
  .of_other (d := [.regs]) ((State.setReg_only ..).step (by decide) ((State.setReg_only ..).step (by decide) (State.setReg_only ..)))
    (by decide) fun k hk => by
      have low : ∀ j ∈ logInputs, j < 0x290013 := by decide
      have := low k hk
      unfold State.scanned
      dsimp only
      rw [State.reg_setReg_other _ _ (by unfold Obj.unitState; omega), State.reg_setReg_other _ _ (by unfold Obj.result; omega),
        State.reg_setReg_other _ _ (by unfold Obj.running; omega)]

/-- A value other than the expected one is raised and logged. -/
theorem State.endScan_mismatch (asked : x.flags.testBit 1 = true) (differs : crcFinal (s.scanRegister x) ≠ x.expected) :
    ((s.endScan x).reg Obj.checkStatus).testBit 0 = true ∧ s.logs (s.endScan x) Ev.checkMismatch
      (le 1 x.unit ++ zeros 3 ++ le 4 (crcFinal (s.scanRegister x)) ++ le 4 x.expected) := by
  have status : scanStatus x (crcFinal (s.scanRegister x)) = 4 := by simp [scanStatus, asked, differs]
  rw [s.endScan_eq x, if_pos status]
  constructor
  · rw [State.logEvent_regsBut _ _ _ _ (by decide), State.reg_setBits_same, Nat.testBit_or]
    exact Bool.or_true _
  · have flagged : LogsAlike (s.scanned x) ((s.scanned x).setBits Obj.checkStatus 1) :=
      .of_other (State.setBits_only ..) (by decide) fun k hk => State.reg_setBits_other _ _ fun h => absurd (h ▸ hk) (by decide)
    exact State.logEvent_logs (flagged.step (s.scanned_logsAlike x)) rfl _ _

end

section
variable {s : State} {x : Scan} {rest : List Scan} (queue : s.check.queue = x :: rest) (free : s.memWaits .scan = false)
  (unit : x.unit < 16) (apart : ∀ y ∈ rest.head?, y.unit ≠ x.unit ∧ y.unit < 16)

include apart in
/-- The objects of the unit that is done are none that the next scan writes. -/
theorem unit_notMem {k : Nat} (hk : k = Obj.running x.unit ∨ k = Obj.result x.unit ∨ k = Obj.unitState x.unit ∨ k = Obj.checkStatus) :
    k ∉ nextObjects rest := by
  cases rest with
  | nil =>
    unfold Obj.running Obj.result Obj.unitState Obj.checkStatus at hk
    simp [nextObjects, Obj.scanQueued]
    omega
  | cons y l =>
    obtain ⟨other, low⟩ := apart y rfl
    unfold Obj.running Obj.result Obj.unitState Obj.checkStatus at hk
    simp [nextObjects, Obj.scanQueued, Obj.unitState]
    omega

include queue free unit apart

theorem scanComplete_done (clean : s.check.ecc = false) : Completes .scanComplete s (fun t => t.mode = s.mode ∧
    t.check = { s.check with queue := rest } ∧ t.reg Obj.scanQueued = rest.length ∧ t.reg (Obj.running x.unit) = s.scanRegister x ∧
    t.reg (Obj.result x.unit) = crcFinal (s.scanRegister x) ∧
    t.reg (Obj.unitState x.unit) =
      (if x.flags.testBit 1 then (if crcFinal (s.scanRegister x) = x.expected then 3 else 4) else 2) ∧
    (∀ y ∈ rest.head?, t.reg (Obj.unitState y.unit) = 1 ∧ t.dram = (s.askMem .scan false (creditsOf y.len)).dram) ∧
    (rest = [] → t.dram = s.dram) ∧
    (x.flags.testBit 1 = true → crcFinal (s.scanRegister x) ≠ x.expected → (t.reg Obj.checkStatus).testBit 0 = true ∧
      s.logs t Ev.checkMismatch (le 1 x.unit ++ zeros 3 ++ le 4 (crcFinal (s.scanRegister x)) ++ le 4 x.expected))) := by
  have runs := (scanComplete_ends queue free).trans (congrArg (fun u : State => ok (u.nextScan rest)) (if_neg (by simp [clean])))
  have ended := s.endScan_only x
  have check : (s.endScan x).check = s.check := ended.agree .check (by decide)
  have dram : (s.endScan x).dram = s.dram := ended.agree .dram (by decide)
  have clock : (s.endScan x).clock = s.clock := ended.agree .clock (by decide)
  have mode : (s.endScan x).mode = s.mode := ended.agree .mode (by decide)
  have own {k : Nat} (hk : k = Obj.running x.unit ∨ k = Obj.result x.unit ∨ k = Obj.unitState x.unit) :=
    s.endScan_unit x unit hk
  have mismatch := s.endScan_mismatch x
  obtain ⟨running, result, status⟩ := s.scanned_regs x
  generalize s.endScan x = u at *
  have next := u.nextScan_only rest
  have regs := u.nextScan_regsBut rest
  have kept {k : Nat} (hk : k = Obj.running x.unit ∨ k = Obj.result x.unit ∨ k = Obj.unitState x.unit ∨ k = Obj.checkStatus) :
      (u.nextScan rest).reg k = u.reg k := regs k (unit_notMem apart hk)
  refine ⟨_, runs, (next.agree .mode (by decide)).trans mode, ?_, u.nextScan_queued rest fun y hy => (apart y hy).2,
    (kept (.inl rfl)).trans ((own (.inl rfl)).trans running), (kept (.inr (.inl rfl))).trans ((own (.inr (.inl rfl))).trans result),
    (kept (.inr (.inr (.inl rfl)))).trans ((own (.inr (.inr rfl))).trans status), fun y hy => ?_,
    fun h => (u.nextScan_idle rest h).trans dram, fun asked differs => ?_⟩
  · rw [u.nextScan_check rest, check, ← clean]
  · obtain ⟨state, asks⟩ := u.nextScan_starts rest hy
    exact ⟨state, asks.trans (State.askMem_dram dram clock _ _ _)⟩
  · obtain ⟨raised, logged⟩ := mismatch asked differs
    refine ⟨by rwa [kept (.inr (.inr (.inr rfl)))], State.logs_sameLog logged (next.sameLog (by decide) fun k hk => regs k fun hm => ?_)⟩
    have low : ∀ j ∈ yilloggerObjects, j < 0x290000 := by decide
    have high : ∀ j ∈ nextObjects rest, 0x290000 ≤ j := by
      intro j hj
      obtain rfl | hj := List.mem_cons.mp hj
      · decide
      · obtain ⟨y, -, rfl⟩ := List.mem_map.mp hj
        unfold Obj.unitState
        omega
    exact absurd (low k hk) (Nat.not_lt.mpr (high k hm))

omit unit in
theorem scanComplete_ecc (broken : s.check.ecc = true) : Completes .scanComplete s (fun t =>
    t = { s with regs := t.regs, check := { s.check with queue := rest, ecc := false }, freeCtr := t.freeCtr, dram := t.dram } ∧
    t.reg (Obj.unitState x.unit) = 5 ∧ t.reg Obj.scanQueued = rest.length ∧
    ∀ y ∈ rest.head?, t.reg (Obj.unitState y.unit) = 1 ∧ t.dram = (s.askMem .scan false (creditsOf y.len)).dram) := by
  have runs := (scanComplete_ends queue free).trans (congrArg (fun u : State => ok (u.nextScan rest)) (if_pos broken))
  have ended := s.eccScan_only x
  have check : (s.eccScan x).check = s.check := ended.agree .check (by decide)
  have state : (s.eccScan x).reg (Obj.unitState x.unit) = 5 := State.reg_setReg_same ..
  have dram : (s.eccScan x).dram = s.dram := ended.agree .dram (by decide)
  have clock : (s.eccScan x).clock = s.clock := ended.agree .clock (by decide)
  generalize s.eccScan x = u at *
  have frame : Only [.regs, .check, .freeCtr, .dram] s (u.nextScan rest) := (u.nextScan_only rest).step (by decide) (ended.mono (by decide))
  have whole := frame.eq_taking
  have books := u.nextScan_check rest
  rw [check] at books
  refine ⟨_, runs, ?_, (u.nextScan_regsBut rest _ (unit_notMem apart (.inr (.inr (.inl rfl))))).trans state,
    u.nextScan_queued rest fun y hy => (apart y hy).2, fun y hy => ?_⟩
  · rw [← books]
    exact whole
  · obtain ⟨starts, asks⟩ := u.nextScan_starts rest hy
    exact ⟨starts, asks.trans (State.askMem_dram dram clock _ _ _)⟩

end

/-! ### The scrubber's walk (R364, R366) -/

/-- The walk is that of the stored blocks, and the place in it. -/
theorem State.scrubWalk_congr {s t : State} (h : t.raster = s.raster) : t.scrubWalk = s.scrubWalk := by
  unfold State.scrubWalk State.underPage State.blkEnd
  rw [h]

theorem State.scrubLeft_congr {s t : State} (h : t.raster = s.raster) (hc : t.check.scrub = s.check.scrub) : t.scrubLeft = s.scrubLeft := by
  unfold State.scrubLeft
  rw [hc, State.scrubWalk_congr h]

theorem State.scrubLeft_walk {s : State} {x : Nat × Blk} (h : x ∈ s.scrubLeft) : x ∈ s.scrubWalk := by
  unfold State.scrubLeft at h
  split at h
  · exact h
  · exact (List.mem_filter.mp h).1

/-- The objects by which the scrubber's work goes on. -/
theorem State.scrubs_congr {s t : State} {l : List Nat} (h : s.regsBut t l) (mode : t.mode = s.mode)
    (apart : ∀ k ∈ [Obj.scrubEnable, Obj.blockReset, Obj.blockPended], k ∉ l := by decide) : t.scrubs = s.scrubs := by
  unfold State.scrubs State.checkUp State.blockUp State.isSet
  rw [mode, h _ (apart _ (by simp)), h _ (apart _ (by simp)), h _ (apart _ (by simp))]

theorem State.endWalk_on {s : State} {x : Nat × Blk} {l : List (Nat × Blk)} (h : s.scrubLeft = x :: l) : s.endWalk = s :=
  if_neg (by simp [h])

theorem State.endWalk_ends {s : State} {x : Nat × Nat} (place : s.check.scrub = some x) (h : s.scrubLeft = []) :
    s.endWalk = { s.bump Obj.scrubPasses with check := { s.check with scrub := none } } := if_pos (by simp [place, h])

theorem State.endWalk_regsBut (s : State) : s.regsBut s.endWalk [Obj.scrubPasses] := .ite (fun _ => s.bump_regsBut _) (fun _ => .refl)

/-- The block in hand is done. -/
def State.emptyHand (s : State) (snuff : Bool) : State := { s with check := { s.check with hand := none, rests := snuff } }

/-- The next block of the walk is taken in hand, and asked for. -/
def State.takeNext (s : State) : State :=
  if s.scrubs && s.check.scrub.isSome then
    match s.scrubLeft with
    | [] => s
    | (k, b) :: _ => ({ s with check := { s.check with hand := some (k, b.seq) } }).askMem .scrub false (creditsOf b.bytes.length)
  else s

theorem State.nextScrub_eq (s : State) : s.nextScrub = (s.endWalk.emptyHand (decide (s.mode = .snuff))).takeNext := rfl

theorem State.takeNext_regsBut (s : State) : s.regsBut s.takeNext [] := by
  unfold State.takeNext
  refine .ite (fun _ => ?_) (fun _ => .refl)
  split
  · exact .refl
  · exact (State.askMem_only ..).regsBut (by decide) _

theorem State.nextScrub_regsBut (s : State) : s.regsBut s.nextScrub [Obj.scrubPasses] :=
  .step (State.takeNext_regsBut _) s.endWalk_regsBut

/-- What is taken in hand is a block of the walk that is left. -/
theorem State.takeNext_hand {s : State} (empty : s.check.hand = none) {x : Nat × Nat} (h : s.takeNext.check.hand = some x) :
    ∃ y ∈ s.scrubLeft, x = (y.1, y.2.seq) := by
  unfold State.takeNext at h
  split at h
  · split at h
    · rw [empty] at h
      cases h
    next k b l left =>
      rw [(State.askMem_only ..).agree .check (by decide)] at h
      exact ⟨(k, b), left ▸ .head _, (Option.some.inj h).symm⟩
  · rw [empty] at h
    cases h

theorem State.scrubs_awake {s : State} (on : s.scrubs = true) : decide (s.mode = .snuff) = false := by
  unfold State.scrubs at on
  cases h : s.mode <;> simp [h, Mode.working] at on ⊢

section
variable {s : State} (on : s.scrubs = true) {x : Nat × Nat} (place : s.check.scrub = some x)
include on place

/-- At the end of the walk the pass counts, and no block is in hand. -/
theorem State.nextScrub_ends (left : s.scrubLeft = []) :
    s.nextScrub = { s.bump Obj.scrubPasses with check := { s.check with scrub := none, hand := none, rests := false } } := by
  rw [s.nextScrub_eq, State.scrubs_awake on, State.endWalk_ends place left]
  exact if_neg (by simp [State.emptyHand])

omit on place in
/-- Asking moves only the controller's queues, by the state alone. -/
theorem State.askMem_hand (s : State) (check : Check) (who : MemUser) (bursts : Nat) :
    ({ s with check := check } : State).askMem who false bursts = { s with check := check, dram := (s.askMem who false bursts).dram } := by
  have same := State.askMem_dram (s := s) (u := { s with check := check }) rfl rfl who false bursts
  rw [State.askMem_with, same]

/-- Before its end the next block is taken, and asked for. -/
theorem State.nextScrub_goes {y : Nat × Blk} {l : List (Nat × Blk)} (left : s.scrubLeft = y :: l) :
    s.nextScrub = { s with
      check := { s.check with hand := some (y.1, y.2.seq), rests := false },
      dram := (s.askMem .scrub false (creditsOf y.2.bytes.length)).dram } := by
  have same : (s.emptyHand false).scrubs = s.scrubs := State.scrubs_congr (l := []) .refl rfl
  have rest_ : (s.emptyHand false).scrubLeft = y :: l := (State.scrubLeft_congr rfl rfl).trans left
  have placed : (s.emptyHand false).check.scrub = some x := place
  have taken : (s.emptyHand false).takeNext = ({ s with check := { s.check with hand := some (y.1, y.2.seq), rests := false } }).askMem
      .scrub false (creditsOf y.2.bytes.length) := by
    refine (if_pos (by rw [same, on, placed]; rfl)).trans ?_
    rw [rest_]
    rfl
  rw [s.nextScrub_eq, State.scrubs_awake on, State.endWalk_on left, taken]
  exact s.askMem_hand _ _ _

end

/-! ### The block in hand (R364, R365) -/

/-- The check value of a block as it was read. -/
def blockValue (k seq : Nat) (asRead : List Byte) : Nat := crcFold false crcInit (crcPrefix k seq ++ asRead.take (asRead.length - 4))

/-- Unit 6 after a block. -/
def State.valued (s : State) (c : Nat) : State := (s.setReg (Obj.running 6) c).setReg (Obj.result 6) (crcFinal c)

/-- The place in the walk. -/
def State.placed (s : State) (x : Nat × Nat) : State := { s with check := { s.check with scrub := some x } }

section
variable (s : State) (k seq : Nat) (asRead : List Byte)

theorem State.checkBlock_good (h : field asRead (asRead.length - 4) 4 = crcFinal (blockValue k seq asRead)) :
    s.checkBlock k seq asRead = (s.valued (blockValue k seq asRead)).placed (k, seq) := by
  unfold State.checkBlock
  dsimp only
  exact congrArg (fun u : State => u.placed (k, seq)) (if_pos h)

theorem State.checkBlock_bad (h : field asRead (asRead.length - 4) 4 ≠ crcFinal (blockValue k seq asRead)) :
    s.checkBlock k seq asRead = ((s.valued (blockValue k seq asRead)).scrubBad k seq false).placed (k, seq) := by
  unfold State.checkBlock
  dsimp only
  exact congrArg (fun u : State => u.placed (k, seq)) (if_neg h)

theorem State.valued_regsBut (c : Nat) : s.regsBut (s.valued c) [Obj.running 6, Obj.result 6] :=
  .step (State.setReg_regsBut _ _ _) (s.setReg_regsBut _ _)

theorem State.valued_logsAlike (c : Nat) : LogsAlike s (s.valued c) :=
  .of_other (d := [.regs]) ((State.setReg_only ..).step (by decide) (State.setReg_only ..)) (by decide) fun j hj =>
    s.valued_regsBut c j fun h => absurd hj (by
      have none_ : ∀ i ∈ [Obj.running 6, Obj.result 6], i ∉ logInputs := by decide
      exact none_ j h)

/-- A bad block is marked, counted, raised and logged; the log is told of any state alike. -/
theorem State.scrubBad_marks {v : State} (alike : LogsAlike v s) (clock : s.clock = v.clock) :
    (s.scrubBad k seq false).ring k = (s.ring k).map (fun x => if x.seq = seq then { x with bad := true } else x) ∧
    ((s.scrubBad k seq false).reg Obj.checkStatus).testBit 1 = true ∧
    (s.scrubBad k seq false).reg Obj.scrubMismatches = countValue Obj.scrubMismatches (s.reg Obj.scrubMismatches) 1 ∧
    v.logs (s.scrubBad k seq false) Ev.scrubBad (le 2 k ++ le 4 seq) := by
  unfold State.scrubBad
  extract_lets u
  have counted : LogsAlike s ((u.bump Obj.scrubMismatches).setBits Obj.checkStatus 2) := by
    refine .of_other (d := [.raster, .regs, .flagged]) ?_ (by decide) fun j hj => ?_
    · exact (State.setBits_only ..).step (by decide) ((State.bump_only ..).step (by decide) ((s.markBlock_only ..).mono (by decide)))
    · rw [State.reg_setBits_other _ _ fun h => absurd (h ▸ hj) (by decide), State.reg_bump_other _ fun h => absurd (h ▸ hj) (by decide)]
      rfl
  refine ⟨?_, ?_, ?_, State.logEvent_logs (counted.step alike) clock _ _⟩
  · have ring : (((u.bump Obj.scrubMismatches).setBits Obj.checkStatus 2).logEvent Ev.scrubBad (le 2 k ++ le 4 seq)).ring k = u.ring k :=
      congrArg (fun r : Raster => Table.get [] r.rings k) ((State.logEvent_only ..).agree .raster (by decide))
    rw [ring]
    refine (s.ring_setRing_same k _).trans (List.map_congr_left fun x _ => ?_)
    simp
  · rw [State.logEvent_regsBut _ _ _ _ (by decide), State.reg_setBits_same, Nat.testBit_or]
    exact Bool.or_true _
  · rw [State.logEvent_regsBut _ _ _ _ (by decide), State.reg_setBits_other _ _ (by decide), State.reg_bump_same]
    rfl

theorem State.checkBlock_marks {s : State} {k seq : Nat} {asRead : List Byte}
    (differs : field asRead (asRead.length - 4) 4 ≠ crcFinal (blockValue k seq asRead)) :
    (s.checkBlock k seq asRead).ring k = (s.ring k).map (fun x => if x.seq = seq then { x with bad := true } else x) ∧
    ((s.checkBlock k seq asRead).reg Obj.checkStatus).testBit 1 = true ∧
    (s.checkBlock k seq asRead).reg Obj.scrubMismatches = countValue Obj.scrubMismatches (s.reg Obj.scrubMismatches) 1 ∧
    s.logs (s.checkBlock k seq asRead) Ev.scrubBad (le 2 k ++ le 4 seq) := by
  rw [s.checkBlock_bad k seq asRead differs]
  obtain ⟨ring, flagged, counted, logged⟩ := (s.valued (blockValue k seq asRead)).scrubBad_marks k seq (s.valued_logsAlike _) rfl
  rw [s.valued_regsBut _ _ (by decide)] at counted
  exact ⟨ring, flagged, counted, logged⟩

end

/-- Beyond the registers and the books of the block, its end leaves what was there. -/
theorem Only.taking_check {s u : State} (h : Only [.regs, .check] s u) (check : Check) :
    ({ u with check := check } : State) = { s with regs := u.regs, check := check } := by
  conv_lhs => rw [h.eq_taking]
  rfl

/-- Beyond the registers and the scrubber's books, the scrubber's next block leaves what was there. -/
theorem Only.taking_next {s u : State} (h : Only [.regs, .check] s u) (check : Check) (dram : Dram) :
    ({ u with check := check, dram := dram } : State) = { s with regs := u.regs, check := check, dram := dram } := by
  conv_lhs => rw [h.eq_taking]
  rfl

/-! ### SCRUB_BLOCK -/

section
variable {s : State} {k : Nat} {b : Blk} {left : List (Nat × Blk)} {asRead : List Byte} (on : s.scrubs = true)
  (next : s.scrubLeft = (k, b) :: left) (hand : s.check.hand = none ∨ s.check.hand = some (k, b.seq))
include on next hand

theorem State.handBlock_next : s.handBlock = some (k, b.seq) := by
  have up : s.checkUp = true := by
    unfold State.scrubs at on
    simp at on
    exact on.2
  unfold State.handBlock
  rw [if_neg (by simp [up])]
  obtain none_ | some_ := hand
  · rw [none_]
    exact (if_pos (by simp [on])).trans (by rw [next]; rfl)
  · rw [some_]

theorem exec_scrubBlock : exec (.scrubBlock asRead) s =
    if s.panics ∨ s.memWaits .scrub = true then ok s else ok (s.checkBlock k b.seq asRead).nextScrub := by
  have walk : s.scrubWalk.any (fun x => decide (x.1 = k) && decide (x.2.seq = b.seq)) = true :=
    List.any_eq_true.mpr ⟨(k, b), State.scrubLeft_walk (next ▸ .head _), by simp⟩
  show execScrubBlock asRead s = _
  unfold execScrubBlock
  rw [if_pos on, State.endWalk_on next]
  dsimp only
  rw [State.handBlock_next on next hand]
  dsimp only
  rw [if_pos walk]

theorem scrubBlock_panics (panics : s.panics = true) : Completes (.scrubBlock asRead) s (fun t => t = s) :=
  ⟨s, (exec_scrubBlock on next hand).trans (if_pos (.inl panics)), rfl⟩

variable (calm : s.panics = false) (free : s.memWaits .scrub = false)
include calm free

theorem scrubBlock_checks : exec (.scrubBlock asRead) s = ok (s.checkBlock k b.seq asRead).nextScrub :=
  (exec_scrubBlock on next hand).trans (if_neg (by simp [calm, free]))

theorem scrubBlock_good (same : field asRead (asRead.length - 4) 4 = crcFinal (blockValue k b.seq asRead)) :
    Completes (.scrubBlock asRead) s (fun t =>
      ((s.placed (k, b.seq)).scrubLeft = [] →
        t = { s with regs := t.regs, check := { s.check with scrub := none, hand := none, rests := false } } ∧
          t.reg Obj.scrubPasses = countValue Obj.scrubPasses (s.reg Obj.scrubPasses) 1) ∧
      (∀ y ∈ (s.placed (k, b.seq)).scrubLeft.head?, t = { s with
          regs := t.regs, check := { s.check with scrub := some (k, b.seq), hand := some (y.1, y.2.seq), rests := false },
          dram := (s.askMem .scrub false (creditsOf y.2.bytes.length)).dram } ∧ t.reg Obj.scrubPasses = s.reg Obj.scrubPasses) ∧
      t.reg (Obj.result 6) = crcFinal (blockValue k b.seq asRead) ∧ s.regsBut t [Obj.running 6, Obj.result 6, Obj.scrubPasses]) := by
  have runs := scrubBlock_checks (asRead := asRead) on next hand calm free
  rw [s.checkBlock_good k b.seq asRead same] at runs
  have regs : s.regsBut ((s.valued (blockValue k b.seq asRead)).placed (k, b.seq)) [Obj.running 6, Obj.result 6] := s.valued_regsBut _
  have frame : Only [.regs, .check] s ((s.valued (blockValue k b.seq asRead)).placed (k, b.seq)) :=
    .with_check (by decide) ((State.setReg_only ..).step (by decide) ((State.setReg_only ..).mono (by decide)))
  have place : ((s.valued (blockValue k b.seq asRead)).placed (k, b.seq)).check = { s.check with scrub := some (k, b.seq) } := rfl
  have result : ((s.valued (blockValue k b.seq asRead)).placed (k, b.seq)).reg (Obj.result 6) = crcFinal (blockValue k b.seq asRead) :=
    State.reg_setReg_same ..
  generalize (s.valued (blockValue k b.seq asRead)).placed (k, b.seq) = u at *
  have mode : u.mode = s.mode := frame.agree .mode (by decide)
  have goes : u.scrubs = true := (State.scrubs_congr regs mode).trans on
  have scrub : u.check.scrub = some (k, b.seq) := congrArg Check.scrub place
  have walk : u.scrubLeft = (s.placed (k, b.seq)).scrubLeft := State.scrubLeft_congr (frame.agree .raster (by decide)) scrub
  have passes := u.nextScrub_regsBut
  refine ⟨_, runs, fun done => ?_, fun y hy => ?_, (passes _ (by decide)).trans result, .step passes regs (by simp) (by simp)⟩
  · have bumped : Only [.regs, .check] s (u.bump Obj.scrubPasses) := (State.bump_only ..).step (by decide) frame
    have counted : (u.bump Obj.scrubPasses).reg Obj.scrubPasses = countValue Obj.scrubPasses (s.reg Obj.scrubPasses) 1 :=
      (State.reg_bump_same ..).trans (by rw [regs _ (by decide)])
    rw [State.nextScrub_ends goes scrub (walk.trans done), place]
    exact ⟨bumped.taking_check _, counted⟩
  · obtain ⟨l, left⟩ : ∃ l, (s.placed (k, b.seq)).scrubLeft = y :: l := List.head?_eq_some_iff.mp hy
    have asks := State.askMem_dram (frame.agree .dram (by decide)) (frame.agree .clock (by decide)) .scrub false (creditsOf y.2.bytes.length)
    rw [State.nextScrub_goes goes scrub (walk.trans left), asks, place]
    exact ⟨frame.taking_next _ _, regs _ (by decide)⟩

theorem scrubBlock_bad (differs : field asRead (asRead.length - 4) 4 ≠ crcFinal (blockValue k b.seq asRead)) :
    Completes (.scrubBlock asRead) s (fun t => t.mode = s.mode ∧
      t.ring k = (s.ring k).map (fun x => if x.seq = b.seq then { x with bad := true } else x) ∧ (t.reg Obj.checkStatus).testBit 1 = true ∧
      t.reg Obj.scrubMismatches = countValue Obj.scrubMismatches (s.reg Obj.scrubMismatches) 1 ∧
      s.logs t Ev.scrubBad (le 2 k ++ le 4 b.seq)) := by
  have runs := scrubBlock_checks (asRead := asRead) on next hand calm free
  have mode := (s.checkBlock_only k b.seq asRead).agree .mode (by decide)
  have ring : ((s.checkBlock k b.seq asRead).ring k) = _ := (s.checkBlock_marks differs).1
  obtain ⟨-, flagged, counted, logged⟩ := s.checkBlock_marks differs
  generalize s.checkBlock k b.seq asRead = u at *
  have frame := u.nextScrub_only
  have regs := u.nextScrub_regsBut
  exact ⟨_, runs, (frame.agree .mode (by decide)).trans mode,
    (congrArg (fun r : Raster => Table.get [] r.rings k) (frame.agree .raster (by decide))).trans ring,
    (congrArg (fun n : Nat => n.testBit 1) (regs _ (by decide))).trans flagged, (regs _ (by decide)).trans counted,
    State.logs_sameLog logged (frame.sameLog (by decide) fun j hj => regs j fun hm => absurd hj (by
      rw [List.mem_singleton.mp hm]
      decide))⟩

end

/-- The result of a block that has been freed or flushed is discarded (R366). -/
theorem scrubBlock_discards {s : State} {k q : Nat} {asRead : List Byte} (hand : s.check.hand = some (k, q)) (up : s.checkUp = true)
    (calm : s.panics = false) (free : s.memWaits .scrub = false) (gone : ∀ x ∈ s.scrubWalk, x.1 = k → x.2.seq ≠ q) :
    Completes (.scrubBlock asRead) s (fun t => t = { s with regs := t.regs, check := t.check, dram := t.dram } ∧
      s.regsBut t [Obj.scrubPasses] ∧ t.check.hand ≠ some (k, q)) := by
  have frame : Only [.regs, .check] s (if s.scrubs then s.endWalk else s) := .ite (fun _ => s.endWalk_only.mono (by decide)) (fun _ => .refl)
  have regs : s.regsBut (if s.scrubs then s.endWalk else s) [Obj.scrubPasses] := .ite (fun _ => s.endWalk_regsBut) (fun _ => .refl)
  have held : (if s.scrubs then s.endWalk else s).check.hand = s.check.hand := by
    unfold State.endWalk
    split_ifs <;> rfl
  have runs : exec (.scrubBlock asRead) s = execScrubBlock asRead s := rfl
  unfold execScrubBlock at runs
  dsimp only at runs
  generalize (if s.scrubs then s.endWalk else s) = u at *
  have raster : u.raster = s.raster := frame.agree .raster (by decide)
  have dram : u.dram = s.dram := frame.agree .dram (by decide)
  have mode : u.mode = s.mode := frame.agree .mode (by decide)
  have working : u.checkUp = true := by
    rw [← up]
    unfold State.checkUp State.blockUp
    rw [regs _ (by decide), regs _ (by decide)]
  have inHand : u.handBlock = some (k, q) := by
    unfold State.handBlock
    rw [if_neg (by simp [working]), held, hand]
  have quiet : ¬(u.panics = true ∨ u.memWaits .scrub = true) := by
    unfold State.panics State.memWaits at *
    rw [dram, mode]
    simp [calm, free]
  have unwalked : u.scrubWalk.any (fun x => decide (x.1 = k) && decide (x.2.seq = q)) = false := by
    rw [State.scrubWalk_congr raster, List.any_eq_false]
    intro x hx
    simpa using gone x hx
  rw [inHand] at runs
  dsimp only at runs
  rw [if_neg quiet, unwalked] at runs
  have moved : Only [.regs, .check, .dram] s u.nextScrub := u.nextScrub_only.step (by decide) (frame.mono (by decide))
  refine ⟨_, runs, moved.eq_taking, .step u.nextScrub_regsBut regs (by simp) (by simp), fun again => ?_⟩
  obtain ⟨y, hy, hxy⟩ := State.takeNext_hand (s := u.endWalk.emptyHand (decide (u.mode = .snuff))) rfl again
  have emptied : (u.endWalk.emptyHand (decide (u.mode = .snuff))).raster = s.raster := (u.endWalk_only.agree .raster (by decide)).trans raster
  have walked := State.scrubLeft_walk hy
  rw [State.scrubWalk_congr emptied] at walked
  obtain ⟨rfl, rfl⟩ := Prod.mk.inj hxy
  exact gone y walked rfl rfl

/-- Settles O50: each clause of the scans by the end of the scan at the head, and each of the scrubber by its block in hand. -/
theorem scansAndTheScrubber : Obligations.ScansAndTheScrubber := by
  intro s
  refine ⟨fun x rest queue waits => scanComplete_waits queue waits, fun x rest queue free unit apart => ⟨?_, ?_⟩,
    fun k b left asRead on next hand => ⟨scrubBlock_panics on next hand, fun calm free => ⟨?_, ?_⟩⟩,
    fun k q asRead hand up calm free gone => scrubBlock_discards hand up calm free gone⟩
  · exact fun clean => scanComplete_done queue free unit apart clean
  · exact fun broken => scanComplete_ecc queue free apart broken
  · exact fun same => scrubBlock_good on next hand calm free same
  · exact fun differs => scrubBlock_bad on next hand calm free differs

end Sys2Proof.Machine
end

section
/-! SUPPORT. O54 (20 R428 to R440): what an axis's tick leaves of the others, its own tick, its start, and its choppers. -/

namespace Sys2Proof.Machine

/-! ### What leaves an axis alone -/

/-- The objects of an axis, and the link of the lift axes. -/
def ofAxis (a k : Nat) : Prop := k / 32 = 0x16001 + a ∨ k = Obj.gantryLink

theorem axis_apart {a b c : Nat} (apart : b ≠ a) (hc : c < 32 := by decide) : ¬ ofAxis a (c + 0x2c0020 + 32 * b) := by
  unfold ofAxis Obj.gantryLink
  omega

/-- An axis and its objects are as they were. -/
structure SparesAxis (a : Nat) (s t : State) : Prop where
  axis : t.axis a = s.axis a
  reg : ∀ k, ofAxis a k → t.reg k = s.reg k

namespace SparesAxis

variable {a : Nat} {s t u : State}

theorem refl : SparesAxis a s s := ⟨rfl, fun _ _ => rfl⟩

theorem step (h : SparesAxis a t u) (k : SparesAxis a s t) : SparesAxis a s u :=
  ⟨h.axis.trans k.axis, fun j hj => (h.reg j hj).trans (k.reg j hj)⟩

theorem ite {c : Prop} [Decidable c] (h : c → SparesAxis a s t) (k : ¬ c → SparesAxis a s u) : SparesAxis a s (if c then t else u) := by
  by_cases x : c
  · rw [if_pos x]
    exact h x
  · rw [if_neg x]
    exact k x

theorem of_objects {d : List Fld} {l : List Nat} (h : Only d s t) (hd : Fld.axes ∉ d) (regs : s.regsBut t l) (hl : ∀ k ∈ l, ¬ ofAxis a k) :
    SparesAxis a s t :=
  ⟨congrArg (fun x => Table.get ({} : Axis) x a) (h.agree .axes hd), fun k hk => regs k fun hm => hl k hm hk⟩

theorem setAxis {b : Nat} (x : Axis) (apart : b ≠ a) : SparesAxis a s (s.setAxis b x) :=
  ⟨Table.get_put_other _ _ _ apart.symm, fun _ _ => rfl⟩

theorem setReg {k : Nat} (v : Nat) (hk : ¬ ofAxis a k) : SparesAxis a s (s.setReg k v) :=
  .of_objects (s.setReg_only k v) (by decide) (s.setReg_regsBut k v) (by simpa using hk)

theorem setBits {k : Nat} (m : Nat) (hk : ¬ ofAxis a k) : SparesAxis a s (s.setBits k m) :=
  .of_objects (s.setBits_only k m) (by decide) (s.setBits_regsBut k m) (by simpa using hk)

theorem bump {k : Nat} (hk : ¬ ofAxis a k) : SparesAxis a s (s.bump k) :=
  .of_objects (s.bump_only k) (by decide) (s.bump_regsBut k) (by simpa using hk)

theorem linked (h : SparesAxis a s t) : t.isSet Obj.gantryLink = s.isSet Obj.gantryLink := by
  unfold State.isSet
  rw [h.reg _ (.inr rfl)]

end SparesAxis

/-! ### The ticks of the other axes (R435, R437, R438) -/

/-- No gantry link to an axis. -/
def State.unlinked (s : State) (a : Nat) : Prop := 2 ≤ a ∨ s.isSet Obj.gantryLink = false

theorem SparesAxis.unlinked {a : Nat} {s t : State} (h : SparesAxis a s t) (k : s.unlinked a) : t.unlinked a :=
  k.imp_right h.linked.trans

theorem State.notMem_pair {s : State} {a b : Nat} (alone : s.unlinked a) (apart : b ≠ a) : a ∉ s.pair b := by
  unfold State.pair
  split
  next h =>
    obtain ⟨link, low⟩ : s.isSet Obj.gantryLink = true ∧ b < 2 := by simpa using h
    have high : 2 ≤ a := alone.resolve_right (by simp [link])
    simp
    omega
  · simpa using apart.symm

theorem State.withdrawMove_writes (s : State) (a : Nat) :
    s.regsBut (s.withdrawMove a) [Obj.wickStatus, Obj.queued 0, Obj.queued 1, Obj.queued 2] := by
  unfold State.withdrawMove
  extract_lets who s1
  have refunded : s.regsBut s1 [Obj.wickStatus] := .ite (fun _ => State.refundPool_regsBut (s.useLeave who) _ _) (fun _ => .refl)
  exact State.regsBut.step (t := s1) (State.noteQueued_regsBut _) refunded

section
variable (s : State) {a b : Nat} (alone : s.unlinked a) (apart : b ≠ a)

include apart in
theorem State.placeSteps_spares : SparesAxis a s (s.placeSteps b) := by
  unfold State.placeSteps
  dsimp only
  refine .ite (fun _ => .refl) (fun _ => ?_)
  exact .step (.of_objects (State.emit_only ..) (by decide) ((State.emit_only ..).regsBut (by decide) []) (by simp)) (.setReg _ (axis_apart apart))

include apart in
theorem State.stopAxis_spares (lost : Bool) : SparesAxis a s (s.stopAxis lost b) := by
  unfold State.stopAxis
  dsimp only
  refine .step (.setAxis _ apart) (.ite (fun _ => ?_) (fun _ => .refl))
  refine .of_objects (s.withdrawMove_only b) (by decide) (s.withdrawMove_writes b) fun k hk => ?_
  have low : ∀ j ∈ [Obj.wickStatus, Obj.queued 0, Obj.queued 1, Obj.queued 2], j < 0x2c0000 := by decide
  have := low k hk
  unfold ofAxis Obj.gantryLink
  omega

omit alone apart in
theorem State.stopEach_spares (lost : Bool) {l : List Nat} (hl : a ∉ l) : SparesAxis a s (s.stopEach lost l) := by
  induction l generalizing s with
  | nil => exact .refl
  | cons b l ih =>
    obtain ⟨hb, hl⟩ := not_or.mp (List.mem_cons.not.mp hl)
    exact (ih _ hl).step (s.stopAxis_spares (Ne.symm hb) lost)

omit alone apart in
theorem State.backOffs_spares {l : List Nat} (hl : a ∉ l) : SparesAxis a s (l.foldl State.backOff s) := by
  induction l generalizing s with
  | nil => exact .refl
  | cons b l ih =>
    obtain ⟨hb, hl⟩ := not_or.mp (List.mem_cons.not.mp hl)
    exact (ih _ hl).step (.setAxis _ (Ne.symm hb))

include alone apart

theorem State.homeFail_spares : SparesAxis a s (s.homeFail b) :=
  .step (.setBits _ (axis_apart apart)) (s.stopEach_spares _ (State.notMem_pair alone apart))

theorem State.stalled_spares : SparesAxis a s (s.stalled b) := by
  unfold State.stalled
  extract_lets off s1 x s2 l
  have moved : SparesAxis a s s2 := .step (.setAxis _ apart) (.setReg _ (axis_apart apart))
  have notMem : a ∉ l := State.notMem_pair (moved.unlinked alone) apart
  exact .ite (fun _ => (s2.backOffs_spares notMem).step moved) (fun _ => moved)

theorem State.fullStep_spares : SparesAxis a s (s.fullStep b) := by
  unfold State.fullStep
  extract_lets x y
  refine .ite (fun _ => .ite (fun _ => .setAxis _ apart) fun _ => ?_) fun _ => ?_
  · have fresh : SparesAxis a s (if x.driveNum = 0 then s.fresh 16 else ((quot 5 x.driveSum x.driveNum).toNat % 2 ^ 16, s)).2 := by
      split
      · exact ⟨rfl, fun _ _ => rfl⟩
      · exact .refl
    exact .step (.setAxis _ apart) (.step (.setReg _ (axis_apart apart)) fresh)
  · have moved (z : Axis) : SparesAxis a s (s.setAxis b z) := .setAxis z apart
    exact .ite (fun _ => .step (State.stalled_spares _ ((moved _).unlinked alone) apart) (moved _)) (fun _ => moved _)

theorem State.tickHome_spares : SparesAxis a s (s.tickHome b) := by
  unfold State.tickHome
  extract_lets x src y moved z s1 s2
  have placed : SparesAxis a s s1 := (State.placeSteps_spares _ apart).step (.setAxis _ apart)
  have stepped : SparesAxis a s s2 := .ite (fun _ => (s1.fullStep_spares (placed.unlinked alone) apart).step placed) (fun _ => placed)
  exact .ite (fun _ => (s2.homeFail_spares (stepped.unlinked alone) apart).step stepped) (fun _ => stepped)

omit alone in
theorem State.tickMove_spares : SparesAxis a s (s.tickMove b) := by
  unfold State.tickMove
  dsimp only
  have placed (x : Axis) : SparesAxis a s ((s.setAxis b x).placeSteps b) := (State.placeSteps_spares _ apart).step (.setAxis _ apart)
  refine .ite (fun _ => .ite (fun _ => ?_) (fun _ => ?_)) (fun _ => placed _)
  · exact .step (.setBits _ (axis_apart apart)) (.step (.setAxis _ apart) (placed _))
  · exact .step (.bump (axis_apart apart)) (placed _)

theorem State.tickAxis_spares : SparesAxis a s (s.tickAxis b) := by
  unfold State.tickAxis
  dsimp only
  split
  · exact .ite (fun _ => .refl) (fun _ => s.tickMove_spares apart)
  · exact s.tickMove_spares apart
  · exact s.tickHome_spares alone apart
  · exact s.tickHome_spares alone apart
  · exact .refl

end

theorem State.tickFollow_spares (s : State) (old : Axis) {a : Nat} (apart : 1 ≠ a) : SparesAxis a s (s.tickFollow old) := by
  unfold State.tickFollow
  dsimp only
  have placed (x : Axis) : SparesAxis a s ((s.setAxis 1 x).placeSteps 1) := (State.placeSteps_spares _ apart).step (.setAxis _ apart)
  exact .ite (fun _ => placed _) (fun _ => .step (.bump (axis_apart apart)) (placed _))

end Sys2Proof.Machine
end

section
/-! SUPPORT. O54 (20 R434 to R440): the tick of an axis with no gantry link to it. -/

namespace Sys2Proof.Machine

/-! ### MOTION_TICK (R435) -/

theorem Table.get_map {α : Type} (d : α) (f : α → α) (default : f d = d) (t : Table α) (a : Nat) :
    Table.get d (t.map (fun x => (x.1, f x.2))) a = f (Table.get d t a) := by
  have found : Table.find (t.map (fun x => (x.1, f x.2))) a = (Table.find t a).map f := by
    induction t with
    | nil => rfl
    | cons x t ih =>
      simp only [List.map_cons, Table.find]
      split
      · rfl
      · exact ih
  unfold Table.get
  rw [found]
  cases Table.find t a with
  | none => exact default.symm
  | some x => rfl

/-- A stop is forgotten at the tick. -/
theorem State.unhalt_axis (s : State) (a : Nat) : s.unhalt.axis a = { s.axis a with halted := false } :=
  Table.get_map ({} : Axis) (fun x : Axis => { x with halted := false }) rfl _ _

/-- What the tick of the axes up to LIFT_B leaves of another. -/
def State.tickLift (s : State) (old : Axis) : State :=
  if (s.axis 1).act = .moving ∧ (s.axis 1).follows = true then s.tickFollow old else s.tickAxis 1

theorem exec_motionTick {s : State} (up : s.blockUp Block.motion = true) :
    exec .motionTick s = ok ((((s.unhalt.tickAxis 0).tickLift (s.unhalt.axis 0)).tickAxis 2).tickAxis 3) := if_pos up

section
variable {s : State} {a : Nat}

/-- No tick writes the link of the lift axes. -/
theorem State.unlinked.tickAxis (h : s.unlinked a) (b : Nat) : (s.tickAxis b).unlinked a :=
  h.imp_right (s.tickAxis_spares (a := b + 2) (.inl (Nat.le_add_left ..)) (Nat.ne_of_lt (by omega))).linked.trans

theorem State.tickLift_spares (h : s.unlinked a) (apart : 1 ≠ a) (old : Axis) : SparesAxis a s (s.tickLift old) :=
  .ite (fun _ => s.tickFollow_spares old apart) (fun _ => s.tickAxis_spares h apart)

theorem State.unlinked.tickLift (h : s.unlinked a) (old : Axis) : (s.tickLift old).unlinked a :=
  h.imp_right (State.tickLift_spares (s := s) (a := 2) (.inl (Nat.le_refl 2)) (by decide) old).linked.trans

end

/-- Among the ticks of the axes is one of each, which the others leave alone. -/
theorem motionTick_ticks {s : State} (a : Fin 4) (up : s.blockUp Block.motion = true) (alone : s.unlinked a) (leads : (s.axis a).follows = false) :
    ∃ u t, SparesAxis a s.unhalt u ∧ SparesAxis a (u.tickAxis a) t ∧ exec .motionTick s = ok t := by
  have runs := exec_motionTick up
  have quiet : (s.unhalt.axis a).follows = false := (congrArg Axis.follows (s.unhalt_axis a) :).trans leads
  replace alone : s.unhalt.unlinked a := alone
  generalize s.unhalt = v at *
  have spares (u : State) (h : u.unlinked a) (b : Nat) (apart : b ≠ a) : SparesAxis a u (u.tickAxis b) := u.tickAxis_spares h apart
  have lift := (alone.tickAxis 0).tickLift (v.axis 0)
  match a with
  | 0 =>
    have last := (spares _ (lift.tickAxis 2) 3 (by decide)).step (spares _ lift 2 (by decide))
    exact ⟨v, _, .refl, last.step (State.tickLift_spares (alone.tickAxis 0) (by decide) _), runs⟩
  | 1 =>
    have first := spares v alone 0 (by decide)
    have alone_ : (v.tickAxis 0).tickLift (v.axis 0) = (v.tickAxis 0).tickAxis 1 :=
      if_neg fun h => Bool.false_ne_true (quiet.symm.trans ((congrArg Axis.follows first.axis :).symm.trans h.2))
    rw [alone_] at lift runs
    exact ⟨_, _, first, (spares _ (lift.tickAxis 2) 3 (by decide)).step (spares _ lift 2 (by decide)), runs⟩
  | 2 =>
    have before := (State.tickLift_spares (alone.tickAxis 0) (by decide) (v.axis 0)).step (spares v alone 0 (by decide))
    exact ⟨_, _, before, spares _ (lift.tickAxis 2) 3 (by decide), runs⟩
  | 3 =>
    have before := (State.tickLift_spares (alone.tickAxis 0) (by decide) (v.axis 0)).step (spares v alone 0 (by decide))
    exact ⟨_, _, (spares _ lift 2 (by decide)).step before, .refl, runs⟩

/-! ### The tick of an axis (R434 to R438) -/

section
variable {s u : State} {a : Nat} (same : SparesAxis a s u)

include same in
theorem SparesAxis.advanced : u.advanced a = s.advanced a := by
  have reg (c : Nat) (hc : c < 32) : u.reg (c + 0x2c0020 + 32 * a) = s.reg (c + 0x2c0020 + 32 * a) := same.reg _ (.inl (by omega))
  have v : u.reg (Obj.vMax a) = s.reg (Obj.vMax a) := reg 4 (by decide)
  have acc : u.reg (Obj.aMax a) = s.reg (Obj.aMax a) := reg 5 (by decide)
  have j : u.reg (Obj.jMax a) = s.reg (Obj.jMax a) := reg 6 (by decide)
  unfold State.advanced State.jerkNow
  rw [v, acc, j, same.axis]

theorem State.unhalt_advanced (s : State) (a : Nat) : s.unhalt.advanced a = { s.advanced a with halted := false } := by
  unfold State.advanced State.jerkNow
  rw [State.unhalt_axis]
  rfl

end

theorem toSigned_ofSigned_32 {i : Int} (low : -(2 ^ 31) ≤ i) (high : i < 2 ^ 31) : toSigned 32 (ofSigned 32 i) = i := by
  unfold toSigned ofSigned trunc
  omega

section
variable {s : State} {a : Nat}

theorem State.placeSteps_axis (b : Nat) : (s.placeSteps a).axis b = s.axis b :=
  congrArg (fun x => Table.get ({} : Axis) x b) ((s.placeSteps_only a).agree .axes (by decide))

theorem State.placeSteps_regsBut : s.regsBut (s.placeSteps a) [Obj.axPosition a] := by
  unfold State.placeSteps
  dsimp only
  exact .ite (fun _ => .refl) (fun _ => State.setReg_regsBut _ _ _)

/-- A position of whole microsteps is POSITION as it reads. -/
theorem State.placeSteps_whole {goal : Int} (pos : (s.axis a).pos = goal * microstep) (low : -(2 ^ 31) ≤ goal)
    (high : goal < 2 ^ 31) (width : Dict.width (Obj.axPosition a) = 32) : (s.placeSteps a).sreg (Obj.axPosition a) = goal := by
  have whole (old : Int) : (if (old + 1) * microstep ≤ goal * microstep then goal * microstep / microstep
      else if goal * microstep ≤ (old - 1) * microstep then -((-(goal * microstep)) / microstep) else old) = goal := by
    unfold microstep
    omega
  unfold State.placeSteps
  dsimp only
  rw [pos, whole]
  split
  next same => exact same.symm
  next => 
    show toSigned _ ((s.setSreg (Obj.axPosition a) goal).reg (Obj.axPosition a)) = goal
    rw [State.setSreg, State.reg_setReg_same, width, toSigned_ofSigned_32 low high]

end

/-- The axis at rest on its target, and its position as it reads. -/
def State.arrive (s : State) (a : Nat) : State := (s.setAxis a { (s.axis a).arrived with act := .rest, follows := false }).placeSteps a

theorem State.arrive_axis (s : State) (a : Nat) : (s.arrive a).axis a = { (s.axis a).arrived with act := .rest, follows := false } :=
  (State.placeSteps_axis a).trans (State.axis_setAxis_same ..)

theorem State.arrive_regsBut (s : State) (a : Nat) : s.regsBut (s.arrive a) [Obj.axPosition a] :=
  State.placeSteps_regsBut (s := s.setAxis a { (s.axis a).arrived with act := .rest, follows := false })

/-- The last tick of a move, or of a back-off. -/
theorem tickMove_done {s : State} {a : Nat} (last : (s.axis a).left ≤ 1) : s.tickMove a =
    if (s.axis a).act = .backing then
      ((s.arrive a).setAxis a { (s.arrive a).axis a with lost := false }).setBits (Obj.axisStatus a) 1
    else (s.arrive a).bump (Obj.moves a) := if_pos last

theorem State.tickAxis_backing {s : State} {a : Nat} (backing : (s.axis a).act = .backing) : s.tickAxis a = s.tickMove a := by
  unfold State.tickAxis
  dsimp only
  rw [backing]

theorem State.tickAxis_seeking {s : State} {a : Nat} (seeking : (s.axis a).act = .seeking) : s.tickAxis a = s.tickHome a := by
  unfold State.tickAxis
  dsimp only
  rw [seeking]

/-- A tick towards the stop at speed, within a full step and the travel. -/
theorem State.tickHome_even (s : State) (a : Nat) (even : (s.axis a).left = 0)
    (within_ : (((s.axis a).travel + (s.axis a).vel.natAbs : Nat) : Int) - (s.axis a).stepAt < 256 * microstep)
    (short : (((s.axis a).travel + (s.axis a).vel.natAbs : Nat) : Int) < (s.reg (Obj.homeMaxTravel a) : Int) * microstep) :
    s.tickHome a = (s.setAxis a { s.axis a with
      pos := (s.axis a).pos + (s.axis a).vel, travel := (s.axis a).travel + (s.axis a).vel.natAbs }).placeSteps a := by
  unfold State.tickHome
  simp only [even, if_true, add_sub_cancel_left]
  have reg (x : Axis) : ((s.setAxis a x).placeSteps a).reg (Obj.homeMaxTravel a) = s.reg (Obj.homeMaxTravel a) :=
    State.placeSteps_regsBut _ (by simp [Obj.homeMaxTravel, Obj.axPosition])
  rw [if_neg (not_le.mpr within_), State.placeSteps_axis, State.axis_setAxis_same, reg, if_neg]
  exact fun h => absurd h.2 (not_le.mpr short)

theorem axPosition_width (a : Fin 4) : Dict.width (Obj.axPosition a) = 32 := by
  revert a
  decide +kernel

theorem State.arrive_position (s : State) (a : Fin 4) (low : -(2 ^ 31) ≤ (s.axis a).goal) (high : (s.axis a).goal < 2 ^ 31) :
    (s.arrive a).sreg (Obj.axPosition a) = (s.axis a).goal :=
  State.placeSteps_whole (congrArg Axis.pos (State.axis_setAxis_same ..) :) low high (axPosition_width a)

/-- What a tick of an axis makes of it. -/
theorem motionTick_axis {s : State} (a : Fin 4) (up : s.blockUp Block.motion = true) (alone : s.unlinked a) (leads : (s.axis a).follows = false)
    {post : State → Prop} (ticks : ∀ u t : State, u.axis a = { s.axis a with halted := false } →
      u.advanced a = { s.advanced a with halted := false } →
      (∀ k, ofAxis a k → u.reg k = s.reg k) → SparesAxis a (u.tickAxis a) t → post t) :
    Completes .motionTick s (fun t => t.mode = s.mode ∧ t.pins = s.pins ∧ post t) := by
  obtain ⟨u, t, before, after, runs⟩ := motionTick_ticks a up alone leads
  have frame := (execMotionTick_only s).only t runs
  exact ⟨t, runs, frame.agree .mode (by decide), frame.agree .pins (by decide),
    ticks u t (before.axis.trans (s.unhalt_axis a)) (before.advanced.trans (s.unhalt_advanced a)) before.reg after⟩

section
variable {s : State} (a : Fin 4) (up : s.blockUp Block.motion = true) (alone : s.unlinked a) (leads : (s.axis a).follows = false)
include up alone leads

theorem motionTick_rest (rest : (s.axis a).act = .rest) : Completes .motionTick s (fun t => t.mode = s.mode ∧ t.pins = s.pins ∧
    t.axis a = { s.axis a with halted := false }) := by
  refine motionTick_axis a up alone leads fun u t x _ _ after => ?_
  have stays : u.tickAxis a = u := by
    unfold State.tickAxis
    rw [x]
    simp [rest]
  rw [stays] at after
  exact after.axis.trans x

omit up alone in
theorem tickAxis_moving {u : State} (moving : (s.axis a).act = .moving) (x : u.axis a = { s.axis a with halted := false }) :
    u.tickAxis a = u.tickMove a := by
  unfold State.tickAxis
  rw [x]
  simp [moving, leads]

theorem motionTick_moves (moving : (s.axis a).act = .moving) (going : 1 < (s.axis a).left) :
    Completes .motionTick s (fun t => t.mode = s.mode ∧ t.pins = s.pins ∧
      t.axis a = { (s.advanced a).braked with left := (s.axis a).left - 1, halted := false }) := by
  refine motionTick_axis a up alone leads fun u t x advanced _ after => ?_
  have moved : u.tickAxis a = (u.setAxis a { (u.advanced a).braked with left := (u.axis a).left - 1 }).placeSteps a :=
    (tickAxis_moving a leads moving x).trans (if_neg (by rw [x]; exact Nat.not_le.mpr going))
  rw [after.axis, moved, State.placeSteps_axis, State.axis_setAxis_same, x, advanced]
  unfold Axis.braked
  split <;> rfl

theorem motionTick_arrives (moving : (s.axis a).act = .moving) (last : (s.axis a).left ≤ 1) (low : -(2 ^ 31) ≤ (s.axis a).goal)
    (high : (s.axis a).goal < 2 ^ 31) : Completes .motionTick s (fun t => t.mode = s.mode ∧ t.pins = s.pins ∧
      t.axis a = { s.axis a with
        pos := (s.axis a).goal * microstep, vel := 0, acc := 0, left := 0, brake := 0, act := .rest, halted := false } ∧
      t.sreg (Obj.axPosition a) = (s.axis a).goal ∧ t.reg (Obj.moves a) = countValue (Obj.moves a) (s.reg (Obj.moves a)) 1) := by
  refine motionTick_axis a up alone leads fun u t x _ regs after => ?_
  have act : (u.axis a).act = .moving := by rw [x]; exact moving
  have moved : u.tickAxis a = (u.arrive a).bump (Obj.moves a) :=
    (tickAxis_moving a leads moving x).trans ((tickMove_done (by rw [x]; exact last)).trans (if_neg (by rw [act]; decide)))
  have goal : (u.axis a).goal = (s.axis a).goal := by rw [x]
  have place := (u.arrive_position a) (by rw [goal]; exact low) (by rw [goal]; exact high)
  rw [moved] at after
  refine ⟨?_, ?_, ?_⟩
  · rw [after.axis]
    show (u.arrive a).axis a = _
    rw [u.arrive_axis, x]
    simp [Axis.arrived, leads]
  · have kept : ((u.arrive a).bump (Obj.moves a)).reg (Obj.axPosition a) = (u.arrive a).reg (Obj.axPosition a) :=
      State.reg_bump_other _ (by unfold Obj.axPosition Obj.moves; omega)
    show toSigned _ (t.reg _) = _
    rw [after.reg _ (.inl (by unfold Obj.axPosition; omega)), kept, ← goal]
    exact place
  · rw [after.reg _ (.inl (by unfold Obj.moves; omega)), State.reg_bump_same,
      u.arrive_regsBut a _ (by simp [Obj.moves, Obj.axPosition]), regs _ (.inl (by unfold Obj.moves; omega))]

theorem motionTick_homed (backing : (s.axis a).act = .backing) (last : (s.axis a).left ≤ 1) :
    Completes .motionTick s (fun t => t.mode = s.mode ∧ t.pins = s.pins ∧ (t.axis a).act = .rest ∧ (t.axis a).lost = false ∧
      (t.axis a).pos = (s.axis a).goal * microstep ∧ (t.reg (Obj.axisStatus a)).testBit 0 = true) := by
  refine motionTick_axis a up alone leads fun u t x _ regs after => ?_
  have act : (u.axis a).act = .backing := by rw [x]; exact backing
  rw [State.tickAxis_backing act, tickMove_done (by rw [x]; exact last), if_pos act] at after
  have axis : t.axis a = { (u.arrive a).axis a with lost := false } := after.axis.trans (State.axis_setAxis_same ..)
  rw [u.arrive_axis, x] at axis
  rw [axis]
  refine ⟨rfl, rfl, rfl, ?_⟩
  rw [after.reg _ (.inl (by unfold Obj.axisStatus; omega)), State.reg_setBits_same, Nat.testBit_or]
  exact Bool.or_true _

theorem motionTick_seeks (seeking : (s.axis a).act = .seeking) (even : (s.axis a).left = 0)
    (within_ : (((s.axis a).travel + (s.axis a).vel.natAbs : Nat) : Int) - (s.axis a).stepAt < 256 * microstep)
    (short : (((s.axis a).travel + (s.axis a).vel.natAbs : Nat) : Int) < (s.reg (Obj.homeMaxTravel a) : Int) * microstep) :
    Completes .motionTick s (fun t => t.mode = s.mode ∧ t.pins = s.pins ∧ t.axis a = { s.axis a with
      pos := (s.axis a).pos + (s.axis a).vel, travel := (s.axis a).travel + (s.axis a).vel.natAbs, halted := false }) := by
  refine motionTick_axis a up alone leads fun u t x _ regs after => ?_
  have act : (u.axis a).act = .seeking := by rw [x]; exact seeking
  have reg : u.reg (Obj.homeMaxTravel a) = s.reg (Obj.homeMaxTravel a) := regs _ (.inl (by unfold Obj.homeMaxTravel; omega))
  have moved := u.tickHome_even a (by rw [x]; exact even) (by rw [x]; exact within_) (by rw [x, reg]; exact short)
  rw [after.axis, State.tickAxis_seeking act, moved, State.placeSteps_axis, State.axis_setAxis_same, x]

end

end Sys2Proof.Machine
end

section
/-! SUPPORT. O54 (20 R428 to R434): the start of a move, and the choppers. -/

namespace Sys2Proof.Machine

/-! ### MOVE_START (R434, R436) -/

section
variable (s : State)

/-- A charge moves no axis, and follows none. -/
theorem State.setLevel_axes (l : Table Axis) (p : Nat) (v : Int) :
    ({ s with axes := l } : State).setLevel p v = { s.setLevel p v with axes := l } := by
  have cap : ({ s with axes := l } : State).poolCap p = s.poolCap p := rfl
  have level : ({ s with axes := l } : State).poolLevel p = s.poolLevel p := rfl
  unfold State.setLevel
  rw [cap, level]
  dsimp only
  generalize (if v < -s.poolCap p then -s.poolCap p else if s.poolCap p < v then s.poolCap p else v) = w
  by_cases empties : w = -s.poolCap p ∧ w < s.poolLevel p
  · rw [if_pos empties, if_pos empties]
    rfl
  · rw [if_neg empties, if_neg empties]

theorem State.chargePool_axes (l : Table Axis) (p e : Nat) :
    ({ s with axes := l } : State).chargePool p e = { s.chargePool p e with axes := l } := s.setLevel_axes l _ _

theorem State.charge_between (a p e : Nat) (x y : Axis) : ((s.setAxis a x).chargePool p e).setAxis a y =
    { s.chargePool p e with axes := (((s.setAxis a x).chargePool p e).setAxis a y).axes } := by
  rw [show (s.setAxis a x).chargePool p e = _ from s.chargePool_axes _ p e]
  rfl

theorem State.replan_eq (a : Nat) (goal : Int) : s.replan a goal =
    (if (s.axis a).left < s.brakeOf a goal + s.planOf a goal then
      s.chargePool 2 (s.moveEnergy (s.movers a) (s.brakeOf a goal + s.planOf a goal - (s.axis a).left)) else s).setAxis a
    { s.axis a with goal := goal, left := s.brakeOf a goal + s.planOf a goal, brake := s.brakeOf a goal } := rfl

end

/-- A plan is made of the axis's place and speed, and of its limits. -/
theorem State.plan_setAxis (s : State) (a : Nat) (x : Axis) (goal : Int) (pos : x.pos = (s.axis a).pos) (vel : x.vel = (s.axis a).vel)
    (acc : x.acc = (s.axis a).acc) :
    (s.setAxis a x).brakeOf a goal = s.brakeOf a goal ∧ (s.setAxis a x).planOf a goal = s.planOf a goal := by
  have short : (s.setAxis a x).stopsShort a goal = s.stopsShort a goal := by
    unfold State.stopsShort
    dsimp only
    rw [State.axis_setAxis_same, pos, vel, acc]
    rfl
  unfold State.brakeOf State.planOf
  rw [short, State.axis_setAxis_same]
  dsimp only
  rw [pos, vel, acc]
  exact ⟨rfl, rfl⟩

section
variable (s : State) (a : Nat)

/-- The move of an axis, begun. -/
def State.startMove : State :=
  ((s.useLeave (.stepper a)).setAxis a { s.axis a with act := .moving, charge := 0 }).replan a (s.axis a).goal

/-- The leave used, and the energy of any ticks beyond those asked for charged. -/
def State.payMove : State :=
  if (s.axis a).left < s.brakeOf a (s.axis a).goal + s.planOf a (s.axis a).goal then
    (s.useLeave (.stepper a)).chargePool 2
      (s.moveEnergy (s.movers a) (s.brakeOf a (s.axis a).goal + s.planOf a (s.axis a).goal - (s.axis a).left))
  else s.useLeave (.stepper a)

theorem State.startMove_pays : s.startMove a = { s.payMove a with axes := (s.startMove a).axes } ∧ (s.startMove a).axis a =
    { s.axis a with
      act := .moving, charge := 0, left := s.brakeOf a (s.axis a).goal + s.planOf a (s.axis a).goal,
      brake := s.brakeOf a (s.axis a).goal } := by
  obtain ⟨brake, plan⟩ := s.plan_setAxis a { s.axis a with act := .moving, charge := 0 } (s.axis a).goal rfl rfl rfl
  replace brake : ((s.useLeave (.stepper a)).setAxis a { s.axis a with act := .moving, charge := 0 }).brakeOf a (s.axis a).goal =
    s.brakeOf a (s.axis a).goal := brake
  replace plan : ((s.useLeave (.stepper a)).setAxis a { s.axis a with act := .moving, charge := 0 }).planOf a (s.axis a).goal =
    s.planOf a (s.axis a).goal := plan
  unfold State.startMove State.payMove
  rw [State.replan_eq, brake, plan, State.axis_setAxis_same]
  refine ⟨?_, State.axis_setAxis_same ..⟩
  dsimp only
  by_cases longer : (s.axis a).left < s.brakeOf a (s.axis a).goal + s.planOf a (s.axis a).goal
  · rw [if_pos longer, if_pos longer]
    exact (s.useLeave (.stepper a)).charge_between _ _ _ _ _
  · rw [if_neg longer, if_neg longer]
    rfl

end

theorem moveStart_moves {s : State} (a : Fin 4) (asking : (s.axis a).act = .asking) (leave : s.hasLeave (.stepper a) = true) :
    Completes (.moveStart a) s (fun t => t = { s.payMove a with axes := t.axes } ∧ t.axis a = { s.axis a with
      act := .moving, charge := 0, left := s.brakeOf a (s.axis a).goal + s.planOf a (s.axis a).goal,
      brake := s.brakeOf a (s.axis a).goal }) := by
  obtain ⟨paid, axis⟩ := s.startMove_pays a
  obtain ⟨y, start⟩ : ∃ y, exec (.moveStart a) s =
      ok (if s.isSet Obj.gantryLink && decide ((a : Nat) = 0) then (s.startMove a).setAxis 1 y else s.startMove a) :=
    ⟨_, if_pos ⟨asking, leave⟩⟩
  generalize s.startMove a = u at *
  refine ⟨_, start, ?_⟩
  split
  next linked =>
    have zero : (a : Nat) = 0 := by simpa using ((Bool.and_eq_true ..).mp linked).2
    exact ⟨congrArg (fun v : State => v.setAxis 1 y) paid, (Table.get_put_other _ _ _ (by omega)).trans axis⟩
  · exact ⟨paid, axis⟩

/-! ### The choppers (R428 to R432) -/

section
variable {s : State} (a : Fin 4) (ph : Phase)

theorem Axis.chop_setChop (x : Axis) (c : Chop) : (x.setChop ph c).chop ph = c := by cases ph <;> rfl

/-- The current of a phase follows what the axis does, and none of its choppers. -/
theorem State.targetCode_setAxis (x : Axis) (act : x.act = (s.axis a).act) : (s.setAxis a x).targetCode a ph = s.targetCode a ph := by
  unfold State.targetCode State.phaseTarget State.coilCurrent
  rw [State.axis_setAxis_same, act]
  rfl

theorem Axis.setChop_act (x : Axis) (c : Chop) : (x.setChop ph c).act = x.act := by cases ph <;> rfl

theorem Axis.setChop_pos (x : Axis) (c : Chop) : (x.setChop ph c).pos = x.pos := by cases ph <;> rfl

variable (runs : s.chopping a = true)
include runs

section
variable (drives : ((s.axis a).chop ph).driving = true)
include drives

theorem chopperTrip_decays {ns : Nat} (past : s.reg (Obj.axBlank a) ≤ ns) : Completes (.chopperTrip a ph ns) s (fun t =>
    t = { s with axes := t.axes, out := .gates a ph false (s.deadNs a) :: s.out } ∧
    ((t.axis a).chop ph) = { (s.axis a).chop ph with driving := false } ∧ (t.axis a).act = (s.axis a).act ∧ (t.axis a).pos = (s.axis a).pos) := by
  refine ⟨_, if_pos (by simp [runs, drives, past]), rfl, ?_⟩
  have axis (x : Axis) : ((s.setAxis a x).emit (.gates a ph false (s.deadNs a))).axis a = x := State.axis_setAxis_same ..
  rw [axis]
  split
  · exact ⟨Axis.chop_setChop .., Axis.setChop_act .., Axis.setChop_pos ..⟩
  · exact ⟨Axis.chop_setChop .., Axis.setChop_act .., Axis.setChop_pos ..⟩

omit runs drives in
theorem chopperTrip_blanked {ns : Nat} (inside : ns < s.reg (Obj.axBlank a)) : Completes (.chopperTrip a ph ns) s (fun t => t = s) :=
  ⟨s, if_neg (by simp [inside]), rfl⟩

/-- A sample at the end of blanking that makes no third short. -/
theorem chopperBlankExpiry_samples {high : Bool} {d : Nat}
    (shorts : (if high && decide (2 * s.phaseTarget a ph < 2 ^ 64 * s.reg (Obj.runCurrent a)) then ((s.axis a).chop ph).shorts + 1 else 0) = 0)
    (delta : (if high then ((s.axis a).chop ph).delta - 1 else min 63 (((s.axis a).chop ph).delta + 1)) = d) :
    Completes (.chopperBlankExpiry a ph high) s (fun t =>
      t = { s with axes := t.axes, out := .comparator a ph (s.targetCode a ph + d) :: s.out } ∧
      ((t.axis a).chop ph) = { (s.axis a).chop ph with delta := d, shorts := 0 }) := by
  have ran : exec (.chopperBlankExpiry a ph high) s = execChopperBlankExpiry a ph high s := rfl
  unfold execChopperBlankExpiry at ran
  dsimp only at ran
  rw [if_pos (by simp [runs, drives]), shorts, delta, if_neg (by decide), State.targetCode_setAxis _ _ _ (Axis.setChop_act ..)] at ran
  exact ⟨_, ran, rfl, (congrArg (Axis.chop · ph) (State.axis_setAxis_same ..)).trans (Axis.chop_setChop ..)⟩

end

theorem chopperToffExpiry_drives (decays : ((s.axis a).chop ph).driving = false) : Completes (.chopperToffExpiry a ph) s (fun t =>
    t = { s with
      axes := t.axes,
      out := .comparator a ph (s.targetCode a ph - ((s.axis a).chop ph).delta) :: .gates a ph true (s.deadNs a) :: s.out } ∧
    ((t.axis a).chop ph) = { (s.axis a).chop ph with driving := true }) := by
  have ran : exec (.chopperToffExpiry a ph) s = execChopperToffExpiry a ph s := rfl
  unfold execChopperToffExpiry at ran
  dsimp only at ran
  rw [if_pos (by simp [runs, decays])] at ran
  exact ⟨_, ran, rfl, (congrArg (Axis.chop · ph) (State.axis_setAxis_same ..)).trans (Axis.chop_setChop ..)⟩

end

/-! ### Phase faults (R433) -/

/-- An axis at rest, its position lost. -/
def State.adrift (s : State) (a : Nat) : Prop := (s.axis a).act = .rest ∧ (s.axis a).lost = true

theorem State.stopAxis_adrift (s : State) {a b : Nat} (h : s.adrift b ∨ b = a) : (s.stopAxis true a).adrift b := by
  unfold State.adrift State.stopAxis
  dsimp only
  by_cases hb : b = a
  · subst hb
    rw [State.axis_setAxis_same]
    exact ⟨rfl, Bool.or_true _⟩
  · rw [show State.axis (State.setAxis _ a _) b = _ from Table.get_put_other _ _ _ hb]
    have withdrawn : (if (s.axis a).act = .asking then s.withdrawMove a else s).axes = s.axes := by
      split
      · exact (s.withdrawMove_only a).agree .axes (by decide)
      · rfl
    rw [withdrawn]
    exact h.resolve_right hb

theorem State.stopEach_adrift (s : State) {b : Nat} (l : List Nat) (h : s.adrift b ∨ b ∈ l) : (s.stopEach true l).adrift b := by
  induction l generalizing s with
  | nil => exact h.resolve_right List.not_mem_nil
  | cons a l ih =>
    refine ih _ ?_
    obtain rest | hb := h
    · exact .inl (s.stopAxis_adrift (.inl rest))
    · exact (List.mem_cons.mp hb).imp (fun same => s.stopAxis_adrift (.inr same)) id

/-- Stops write only what the Wick reads of the requests they withdraw. -/
theorem State.stopEach_writes (s : State) (lost : Bool) (l : List Nat) :
    s.regsBut (s.stopEach lost l) [Obj.wickStatus, Obj.queued 0, Obj.queued 1, Obj.queued 2] := by
  induction l generalizing s with
  | nil => exact .refl
  | cons a l ih =>
    have stopped : s.regsBut (s.stopAxis lost a) [Obj.wickStatus, Obj.queued 0, Obj.queued 1, Obj.queued 2] := by
      unfold State.stopAxis
      dsimp only
      exact State.regsBut.ite (fun _ => s.withdrawMove_writes a) (fun _ => .refl)
    exact (ih _).trans stopped

/-- A phase fault leaves the axis at rest with its position lost, and is logged. -/
theorem State.faultAxis_faults {v s : State} (a : Fin 4) (code : Nat) (ph : Phase) (alike : LogsAlike v s) (clock : s.clock = v.clock) :
    (s.faultAxis a code ph).axFault a = true ∧ (s.faultAxis a code ph).adrift a ∧
    v.logs (s.faultAxis a code ph) Ev.axisFault (le 1 a ++ le 1 code) := by
  unfold State.faultAxis
  extract_lets s1 phase s2 s3 x _ _ s4
  have stopped : s1.adrift a := s.stopEach_adrift _ (.inr s.mem_pair)
  have frame : Only [.regs, .wick, .axes, .flagged] s s1 := s.stopEach_only _ _
  have writes : s.regsBut s1 [Obj.wickStatus, Obj.queued 0, Obj.queued 1, Obj.queued 2] := s.stopEach_writes _ _
  have low : ∀ k ∈ logInputs, k < 0x2c0000 ∧ k ∉ [Obj.wickStatus, Obj.queued 0, Obj.queued 1, Obj.queued 2] := by decide
  have faulted : LogsAlike s (s4.emit (.gatesLow a)) := by
    have quiet : LogsAlike s s1 := .of_other frame (by decide) fun k hk => writes k (low k hk).2
    refine LogsAlike.step (t := s1) ⟨rfl, fun k hk => ?_⟩ quiet
    have other : k ≠ Obj.axisStatus a := fun h => absurd (low k hk).1 (by rw [h]; unfold Obj.axisStatus; omega)
    exact (State.reg_setBits_other _ _ other).trans (State.reg_setReg_other _ _ other)
  refine ⟨?_, ?_, State.logEvent_logs (faulted.step alike) ((frame.agree .clock (by decide)).trans clock) _ _⟩
  · have quiet : Obj.axisStatus a ∉ yilloggerObjects := fun h => by
      have : ∀ k ∈ yilloggerObjects, k < 0x2c0000 := by decide
      have := this _ h
      unfold Obj.axisStatus at this
      omega
    unfold State.axFault
    rw [State.logEvent_regsBut _ _ _ _ quiet, show (s4.emit (.gatesLow a)).reg (Obj.axisStatus a) = s3.reg (Obj.axisStatus a) from rfl,
      State.reg_setBits_same, Nat.testBit_or]
    have bit : (4 + 8 * code + phase).testBit 2 = true := by
      rw [Nat.testBit_eq_decide_div_mod_eq]
      cases ph <;> simp [phase] <;> omega
    rw [bit, Bool.or_true]
  · have axis : ((s4.emit (.gatesLow a)).logEvent Ev.axisFault (le 1 a ++ le 1 code)).axis a = s4.axis a :=
      congrArg (fun l => Table.get ({} : Axis) l a) ((State.logEvent_only ..).agree .axes (by decide))
    unfold State.adrift
    rw [axis, State.axis_setAxis_same]
    exact stopped

section
variable {s : State} (a : Fin 4) (ph : Phase) (runs : s.chopping a = true) (drives : ((s.axis a).chop ph).driving = true)
include runs drives

theorem chopperBlankExpiry_shorts (low : 2 * s.phaseTarget a ph < 2 ^ 64 * s.reg (Obj.runCurrent a))
    (third : 2 ≤ ((s.axis a).chop ph).shorts) : Completes (.chopperBlankExpiry a ph true) s (fun t =>
      t.mode = s.mode ∧ t.axFault a = true ∧ (t.axis a).act = .rest ∧ (t.axis a).lost = true ∧ s.logs t Ev.axisFault (le 1 a ++ le 1 1)) := by
  obtain ⟨x, ran⟩ : ∃ x, exec (.chopperBlankExpiry a ph true) s = ok ((s.setAxis a x).faultAxis a 1 ph) := by
    have ran : exec (.chopperBlankExpiry a ph true) s = execChopperBlankExpiry a ph true s := rfl
    unfold execChopperBlankExpiry at ran
    dsimp only at ran
    rw [if_pos (by simp [runs, drives]), decide_eq_true low, Bool.and_self, if_pos rfl, if_pos (Nat.succ_le_succ third)] at ran
    exact ⟨_, ran⟩
  obtain ⟨fault, ⟨rest, lost⟩, logged⟩ := (s.setAxis a x).faultAxis_faults (v := s) a 1 ph (.of_eq rfl rfl) rfl
  exact ⟨_, ran, ((s.setAxis a x).faultAxis_only a 1 ph).agree .mode (by decide), fault, rest, lost, logged⟩

theorem phaseOpenTimeout_faults (full : 2 ^ 64 * s.reg (Obj.runCurrent a) ≤ 4 * s.phaseTarget a ph) :
    Completes (.phaseOpenTimeout a ph) s (fun t =>
      t.mode = s.mode ∧ t.axFault a = true ∧ (t.axis a).act = .rest ∧ (t.axis a).lost = true ∧ s.logs t Ev.axisFault (le 1 a ++ le 1 2)) := by
  obtain ⟨fault, ⟨rest, lost⟩, logged⟩ := s.faultAxis_faults (v := s) a 2 ph .refl rfl
  exact ⟨_, if_pos (by rw [runs, drives, decide_eq_true full]; rfl), (s.faultAxis_only a 2 ph).agree .mode (by decide), fault, rest, lost, logged⟩

end

/-- Settles O54: the start of a move, the tick of an axis that no other moves, and the choppers' events. -/
theorem axesMoveAndTheirChoppersRun : Obligations.AxesMoveAndTheirChoppersRun := by
  intro s a
  refine ⟨moveStart_moves a, fun up alone leads => ⟨motionTick_rest a up alone leads, motionTick_moves a up alone leads,
    motionTick_arrives a up alone leads, fun backing last => ?_, fun seeking even inside short => ?_⟩, fun ph runs drives =>
    ⟨fun _ => chopperTrip_decays a ph runs drives, fun _ => chopperTrip_blanked a ph, fun d hd => ?_, fun d hd high => ?_,
      chopperBlankExpiry_shorts a ph runs drives, phaseOpenTimeout_faults a ph runs drives⟩, fun ph => chopperToffExpiry_drives a ph⟩
  · obtain ⟨t, ran, mode, -, homed⟩ := motionTick_homed a up alone leads backing last
    exact ⟨t, ran, mode, homed⟩
  · obtain ⟨t, ran, mode, -, moved⟩ := motionTick_seeks a up alone leads seeking even inside short
    exact ⟨t, ran, mode, moved⟩
  · exact chopperBlankExpiry_samples a ph runs drives rfl hd.symm
  · exact chopperBlankExpiry_samples a ph runs drives (by rw [decide_eq_false (Nat.not_lt.mpr high)]; rfl) hd.symm

end Sys2Proof.Machine
end

section
/-! SUPPORT. O55 (21 R453 to R460): the PTP grandmaster's messages and stamps. -/

namespace Sys2Proof.Machine

section
variable {s : State}

theorem ptpSyncSend_sends (master : s.ptpMaster = true) : Completes .ptpSyncSend s (fun t => t = { s with
      regs := t.regs, ptp := { s.ptp with syncSeq := (s.ptp.syncSeq + 1) % 2 ^ 16, syncOut := some s.ptp.syncSeq },
      out := .ptp {
        msg := 0, domain := s.reg Obj.ptpDomain, seq := s.ptp.syncSeq, dst := 0xE0000181, port := 319, twoStep := true, correction := 0,
        interval := s.reg Obj.logSyncInterval, body := [] } :: s.out } ∧
    t.reg Obj.syncSent = countValue Obj.syncSent (s.reg Obj.syncSent) 1 ∧ s.regsBut t [Obj.syncSent]) :=
  ⟨_, if_pos master, rfl, State.reg_bump_same .., (s.sendPtp ptpSync s.ptp.syncSeq []).bump_regsBut Obj.syncSent⟩

theorem ptpAnnounceSend_sends (master : s.ptpMaster = true) : Completes .ptpAnnounceSend s (fun t => t = { s with
    ptp := { s.ptp with announceSeq := (s.ptp.announceSeq + 1) % 2 ^ 16 },
    out := .ptp {
      msg := 11, domain := s.reg Obj.ptpDomain, seq := s.ptp.announceSeq, dst := 0xE0000181, port := 320, twoStep := false, correction := 0,
      interval := s.reg Obj.logAnnounceInterval, body := s.announceBody } :: s.out }) :=
  ⟨_, if_pos master, rfl⟩

/-! ### Stamps (R457, R460) -/

section
variable {tx : Bool} {msg : Nat} (mac : s.blockUp Block.ethMac = true) (beacon : s.blockUp Block.beacon = true) (configured : s.configured = true)
include mac beacon configured

theorem ptpTimestampVector_queues (calm : s.ptp.stepAt ≠ some s.clock.cycles) : Completes (.ptpTimestampVector tx msg) s (fun t =>
    t = { s with ptp := { s.ptp with stamps := s.ptp.stamps ++ [{ tx := tx, msg := msg, time := s.nowNs }] } }) :=
  ⟨_, (if_pos (by simp [mac, beacon, configured])).trans (if_neg calm), rfl⟩

theorem ptpTimestampVector_discards (stepped : s.ptp.stepAt = some s.clock.cycles) : Completes (.ptpTimestampVector tx msg) s (fun t =>
    t = { s with ptp := { s.ptp with syncOut := t.ptp.syncOut } } ∧
    t.ptp.syncOut = if tx = true ∧ s.ptp.syncOut = some msg then none else s.ptp.syncOut) := by
  refine ⟨_, (if_pos (by simp [mac, beacon, configured])).trans (if_pos stepped), ?_⟩
  split
  · exact ⟨rfl, rfl⟩
  · exact ⟨rfl, rfl⟩

end

/-- The stamp at the network side is the reading and the latency, to within 150 ns. -/
theorem State.netStamp_near (s : State) (reading latency : Nat) : ∃ v : Nat,
    s.netStamp reading latency = (v, { s with freeCtr := s.freeCtr + 1 }) ∧ ((v : Int) - (reading + latency)).natAbs ≤ 150 := by
  refine ⟨_, rfl, ?_⟩
  omega

/-- The queued stamp, taken. -/
def State.unstamped (s : State) (x : Stamp) : State := { s with ptp := { s.ptp with stamps := s.ptp.stamps.erase x } }

theorem State.takeStamp_found {tx : Bool} {msg : Nat} {x : Stamp}
    (found : s.ptp.stamps.find? (fun x => x.tx = tx && x.msg = msg) = some x) :
    s.takeStamp tx msg = some (x.time, s.unstamped x) := by
  unfold State.takeStamp
  rw [found]
  rfl

/-! ### Follow_Up and Delay_Resp (R456, R458) -/

/-- The Follow_Up, with LAST_SYNC_TX written before it. -/
theorem State.sendFollow_eq (s : State) (n w : Nat) (body : List Byte) : (s.setReg Obj.lastSyncTx w).sendPtp ptpFollow n body = { s with
    regs := (s.setReg Obj.lastSyncTx w).regs,
    out := .ptp {
      msg := 8, domain := s.reg Obj.ptpDomain, seq := n, dst := 0xE0000181, port := 320, twoStep := false, correction := 0,
      interval := s.reg Obj.logSyncInterval, body := body } :: s.out } := by
  have domain : (s.setReg Obj.lastSyncTx w).reg Obj.ptpDomain = s.reg Obj.ptpDomain := State.reg_setReg_other _ _ (by decide)
  have interval : (s.setReg Obj.lastSyncTx w).reg Obj.logSyncInterval = s.reg Obj.logSyncInterval := State.reg_setReg_other _ _ (by decide)
  rw [← domain, ← interval]
  rfl

theorem ptpFollowUp_sends {n : Nat} {x : Stamp} (sync : s.ptp.syncOut = some n)
    (found : s.ptp.stamps.find? (fun x => x.tx = true && x.msg = n) = some x) :
    Completes .ptpFollowUp s (fun t => t.ptp = { s.ptp with stamps := s.ptp.stamps.erase x, syncOut := none } ∧ ∃ v : Nat,
      ((v : Int) - (x.time + s.reg Obj.phyTxLatency)).natAbs ≤ 150 ∧ t.reg Obj.lastSyncTx = time80OfNs v ∧
      t = { s with
        regs := t.regs, ptp := t.ptp, freeCtr := t.freeCtr,
        out := .ptp {
          msg := 8, domain := s.reg Obj.ptpDomain, seq := n, dst := 0xE0000181, port := 320, twoStep := false, correction := 0,
          interval := s.reg Obj.logSyncInterval, body := ptpTime v } :: s.out }) := by
  have runs : exec .ptpFollowUp s = execPtpFollowUp s := rfl
  unfold execPtpFollowUp at runs
  rw [sync] at runs
  dsimp only at runs
  rw [State.takeStamp_found found] at runs
  obtain ⟨v, stamp, near⟩ := (s.unstamped x).netStamp_near x.time ((s.unstamped x).reg Obj.phyTxLatency)
  dsimp only at runs
  rw [stamp] at runs
  dsimp only at runs
  rw [State.sendFollow_eq] at runs
  exact ⟨_, runs, rfl, v, near, State.reg_setReg_same .., rfl⟩

theorem ptpDelayReq_drops {identity seq : Nat} (master : s.ptpMaster = true)
    (full : 512 ≤ (s.ptp.reqTimes.filter (fun t => decide (s.clock.cycles - t < cyclesPerSec))).length) :
    Completes (.ptpDelayReq (s.reg Obj.ptpDomain) identity seq) s (fun t => t = { s with regs := t.regs, flagged := t.flagged } ∧
      t.reg Obj.delayReqDropped = countValue Obj.delayReqDropped (s.reg Obj.delayReqDropped) 1 ∧ (t.reg Obj.ptpStatus).testBit 1 = true) := by
  have frame : Only [.regs, .flagged] s ((s.bump Obj.delayReqDropped).setBits Obj.ptpStatus 2) :=
    (State.setBits_only ..).step (by decide) ((s.bump_only _).mono (by decide))
  refine ⟨_, (if_neg (by simp [master])).trans (if_pos full), frame.eq_taking, ?_, ?_⟩
  · exact (State.reg_setBits_other _ _ (by decide)).trans (State.reg_bump_same ..)
  · rw [State.reg_setBits_same, Nat.testBit_or]
    exact Bool.or_true _

/-- The Delay_Resp, counted. -/
theorem State.sendResp_eq (s : State) (seq : Nat) (body : List Byte) : (s.sendPtp ptpResp seq body).bump Obj.delayRespSent = { s with
    regs := ((s.sendPtp ptpResp seq body).bump Obj.delayRespSent).regs,
    out := .ptp {
      msg := 9, domain := s.reg Obj.ptpDomain, seq := seq, dst := 0xE0000181, port := 320, twoStep := false, correction := 0,
      interval := s.reg Obj.logMinDelayReq, body := body } :: s.out } ∧
    ((s.sendPtp ptpResp seq body).bump Obj.delayRespSent).reg Obj.delayRespSent = countValue Obj.delayRespSent (s.reg Obj.delayRespSent) 1 :=
  ⟨rfl, State.reg_bump_same ..⟩

/-- A request of the last second, noted. -/
def State.noteRequest (s : State) : State :=
  { s with ptp := { s.ptp with reqTimes := s.clock.cycles :: s.ptp.reqTimes.filter (fun t => decide (s.clock.cycles - t < cyclesPerSec)) } }

theorem ptpDelayReq_answers {identity seq : Nat} {x : Stamp} (master : s.ptpMaster = true)
    (room : (s.ptp.reqTimes.filter (fun t => decide (s.clock.cycles - t < cyclesPerSec))).length < 512)
    (found : s.ptp.stamps.find? (fun x => x.tx = false && x.msg = seq) = some x) :
    Completes (.ptpDelayReq (s.reg Obj.ptpDomain) identity seq) s (fun t => ∃ v : Nat,
      ((v : Int) - (x.time + s.reg Obj.phyRxLatency)).natAbs ≤ 150 ∧
      t.reg Obj.delayRespSent = countValue Obj.delayRespSent (s.reg Obj.delayRespSent) 1 ∧ t = { s with
        regs := t.regs,
        ptp := { s.ptp with
          reqTimes := s.clock.cycles :: s.ptp.reqTimes.filter (fun t => decide (s.clock.cycles - t < cyclesPerSec)),
          stamps := s.ptp.stamps.erase x },
        freeCtr := t.freeCtr,
        out := .ptp {
          msg := 9, domain := s.reg Obj.ptpDomain, seq := seq, dst := 0xE0000181, port := 320, twoStep := false, correction := 0,
          interval := s.reg Obj.logMinDelayReq, body := ptpTime v ++ be 10 identity } :: s.out }) := by
  have runs : exec (.ptpDelayReq (s.reg Obj.ptpDomain) identity seq) s = execPtpDelayReq (s.reg Obj.ptpDomain) identity seq s := rfl
  unfold execPtpDelayReq at runs
  extract_lets recent src u at runs
  rw [if_neg (by simp [master]), if_neg (Nat.not_le.mpr room), show u = s.noteRequest from rfl,
    State.takeStamp_found (s := s.noteRequest) found] at runs
  obtain ⟨v, stamp, near⟩ := (s.noteRequest.unstamped x).netStamp_near x.time
    ((s.noteRequest.unstamped x).reg Obj.phyRxLatency)
  dsimp only at runs
  rw [stamp] at runs
  obtain ⟨sent, count⟩ := State.sendResp_eq { s.noteRequest.unstamped x with freeCtr := (s.noteRequest.unstamped x).freeCtr + 1 } seq
    (ptpTime v ++ be 10 identity)
  exact ⟨_, runs, v, near, count, sent⟩

/-! ### Other masters (R454) -/

section
variable {identity : Nat} (mac : s.blockUp Block.ethMac = true) (configured : s.configured = true) (foreign : identity ≠ ptpIdentity)

/-- A foreign Announce, counted. -/
def State.countForeign (s : State) : State := (s.bump Obj.foreignAnnounce).setBits Obj.ptpStatus 1

theorem State.countForeign_only (s : State) : Only [.regs, .flagged] s s.countForeign :=
  (State.setBits_only ..).step (by decide) ((s.bump_only _).mono (by decide))

theorem State.countForeign_counts (s : State) :
    s.countForeign.reg Obj.foreignAnnounce = countValue Obj.foreignAnnounce (s.reg Obj.foreignAnnounce) 1 ∧
    (s.countForeign.reg Obj.ptpStatus).testBit 0 = true ∧ LogsAlike s s.countForeign := by
  refine ⟨?_, ?_, .of_other s.countForeign_only (by decide) fun k hk => ?_⟩
  · exact (State.reg_setBits_other _ _ (by decide)).trans (State.reg_bump_same ..)
  · unfold State.countForeign
    rw [State.reg_setBits_same, Nat.testBit_or]
    exact Bool.or_true _
  · exact (State.reg_setBits_other _ _ fun h => absurd (h ▸ hk) (by decide)).trans
      (State.reg_bump_other _ fun h => absurd (h ▸ hk) (by decide))

/-- The time of a foreign master's Announce, and the event of it. -/
def State.noteForeign (s : State) : State := { s with ptp := { s.ptp with foreignAt := some s.clock.cycles } }

def State.logForeign (s : State) : State := s.noteForeign.logEvent Ev.ptpForeign []

theorem State.logForeign_eq {s v : State} (alike : LogsAlike v s) (clock : s.clock = v.clock) : s.logForeign.mode = s.mode ∧
    s.logForeign.ptp = { s.ptp with foreignAt := some s.clock.cycles } ∧ s.regsBut s.logForeign yilloggerObjects ∧
    v.logs s.logForeign Ev.ptpForeign [] := by
  have frame := s.noteForeign.logEvent_only Ev.ptpForeign []
  have regs := s.noteForeign.logEvent_regsBut Ev.ptpForeign []
  have same : s.regsBut s.noteForeign yilloggerObjects := fun _ _ => rfl
  have noted : LogsAlike s s.noteForeign := .of_eq rfl rfl
  have logged := State.logEvent_logs (noted.step alike) clock Ev.ptpForeign []
  unfold State.logForeign
  exact ⟨frame.agree .mode (by decide), frame.agree .ptp (by decide), regs.trans same, logged⟩

include mac configured foreign

theorem exec_ptpForeignAnnounce : exec (.ptpForeignAnnounce identity) s =
    if (match s.ptp.foreignAt with | none => true | some t => decide (10 * cyclesPerSec ≤ s.clock.cycles - t)) then ok s.countForeign.logForeign
    else ok s.countForeign :=
  if_neg (by simp [mac, configured, foreign])

theorem ptpForeignAnnounce_counts : Completes (.ptpForeignAnnounce identity) s (fun t =>
    t.mode = s.mode ∧ t.reg Obj.foreignAnnounce = countValue Obj.foreignAnnounce (s.reg Obj.foreignAnnounce) 1 ∧
    (t.reg Obj.ptpStatus).testBit 0 = true ∧
    (s.ptp.foreignAt = none → t.ptp = { s.ptp with foreignAt := some s.clock.cycles } ∧ s.logs t Ev.ptpForeign []) ∧
    (∀ at_, s.ptp.foreignAt = some at_ → s.clock.cycles - at_ < 10 * cyclesPerSec → t.ptp = s.ptp ∧ t.ylog = s.ylog)) := by
  have runs := exec_ptpForeignAnnounce mac configured foreign
  have frame := s.countForeign_only
  obtain ⟨count, status, alike⟩ := s.countForeign_counts
  generalize s.countForeign = u at *
  have ptp : u.ptp = s.ptp := frame.agree .ptp (by decide)
  have clock : u.clock = s.clock := frame.agree .clock (by decide)
  have mode : u.mode = s.mode := frame.agree .mode (by decide)
  obtain ⟨sameMode, sameStamps, regs, logged⟩ := State.logForeign_eq alike clock
  have kept : u.logForeign.reg Obj.foreignAnnounce = _ ∧ (u.logForeign.reg Obj.ptpStatus).testBit 0 = true :=
    ⟨(regs _ (by decide)).trans count, by rwa [regs _ (by decide)]⟩
  rw [ptp, clock] at sameStamps
  cases last : s.ptp.foreignAt with
  | none =>
    rw [last] at runs
    exact ⟨_, runs.trans (if_pos rfl), sameMode.trans mode, kept.1, kept.2, fun _ => ⟨sameStamps, logged⟩, fun _ h => by cases h⟩
  | some t =>
    rw [last] at runs
    by_cases late : 10 * cyclesPerSec ≤ s.clock.cycles - t
    · refine ⟨_, runs.trans (if_pos (decide_eq_true late)), sameMode.trans mode, kept.1, kept.2, fun h => (by cases h), fun t' h soon => ?_⟩
      obtain rfl : t = t' := Option.some.inj h
      exact absurd soon (Nat.not_lt.mpr late)
    · exact ⟨u, runs.trans (if_neg (by simp [late])), mode, count, status, fun h => (by cases h),
        fun _ _ _ => ⟨ptp, frame.agree .ylog (by decide)⟩⟩

end

end

/-- Settles O55, a lemma for each of the grandmaster's messages and events. -/
theorem theGrandmasterServesTime : Obligations.TheGrandmasterServesTime := fun _ =>
  ⟨ptpSyncSend_sends, fun _ _ mac beacon configured =>
      ⟨ptpTimestampVector_queues mac beacon configured, ptpTimestampVector_discards mac beacon configured⟩,
    fun _ _ => ptpFollowUp_sends, ptpAnnounceSend_sends,
    fun _ _ master => ⟨ptpDelayReq_drops master, fun _ => ptpDelayReq_answers master⟩,
    fun _ mac configured foreign => ptpForeignAnnounce_counts mac configured foreign⟩

end Sys2Proof.Machine
end

section
/-! SUPPORT. O56 (22 R461 to R464; 17 R372, R376): KINDLE's items, as they pass and as they fail. -/

namespace Sys2Proof.Machine

/-! ### CAL_RESULT (R464) -/

/-- The field of an item, and the number with the field given a value. -/
theorem bits_item (n k : Nat) : bits n (2 * k + 1) (2 * k) = n / 4 ^ k % 4 := by
  unfold bits
  rw [show 2 * k + 1 + 1 - 2 * k = 2 by omega, Nat.pow_mul]
  rfl

theorem and_item (n k : Nat) : n &&& (3 * 4 ^ k) = n / 4 ^ k % 4 * 4 ^ k := by
  have shifted : 3 * 4 ^ k = 3 <<< (2 * k) := by rw [Nat.shiftLeft_eq, Nat.pow_mul]
  have kept : n / 4 ^ k % 4 * 4 ^ k = ((n >>> (2 * k)) &&& 3) <<< (2 * k) := by
    rw [Nat.shiftLeft_eq, Nat.shiftRight_eq_div_pow, Nat.pow_mul, show (3 : Nat) = 2 ^ 2 - 1 from rfl, Nat.and_two_pow_sub_one_eq_mod]
  rw [shifted, kept]
  refine Nat.eq_of_testBit_eq fun i => ?_
  simp only [Nat.testBit_and, Nat.testBit_shiftLeft, Nat.testBit_shiftRight]
  by_cases h : 2 * k ≤ i
  · simp [h]
  · simp [h]

/-- A number with an item's field given a value, as what stands above, in and below the field. -/
theorem setItem_value (n k v : Nat) : clearMask n (3 * 4 ^ k) + v * 4 ^ k = (n / 4 ^ k / 4 * 4 + v) * 4 ^ k + n % 4 ^ k := by
  unfold clearMask
  rw [and_item]
  have whole := Nat.div_add_mod n (4 ^ k)
  have field := Nat.div_add_mod (n / 4 ^ k) 4
  generalize n / 4 ^ k = q at *
  generalize 4 ^ k = p at *
  have split : p * q = q / 4 * 4 * p + q % 4 * p := by
    rw [← Nat.add_mul, Nat.mul_comm (q / 4), field, Nat.mul_comm]
  rw [Nat.add_mul]
  omega

theorem setItem_above (n k v : Nat) : (clearMask n (3 * 4 ^ k) + v * 4 ^ k) / 4 ^ k = n / 4 ^ k / 4 * 4 + v := by
  have pos : 0 < 4 ^ k := by positivity
  rw [setItem_value, Nat.mul_comm, Nat.mul_add_div pos, Nat.div_eq_of_lt (Nat.mod_lt n pos), Nat.add_zero]

theorem setItem_below (n k v : Nat) : (clearMask n (3 * 4 ^ k) + v * 4 ^ k) % 4 ^ k = n % 4 ^ k := by
  rw [setItem_value, Nat.mul_comm, Nat.mul_add_mod, Nat.mod_mod]

section
variable (s : State)

theorem State.calItem_congr {t : State} (h : t.reg Obj.calResult = s.reg Obj.calResult) (k : Nat) : t.calItem k = s.calItem k := by
  unfold State.calItem
  rw [h]

theorem State.setItem_same (k : Nat) {v : Nat} (hv : v < 4) : (s.setItem k v).calItem k = v := by
  unfold State.calItem State.setItem
  rw [State.reg_setReg_same, bits_item, setItem_above]
  omega

/-- The field of an item is told by what stands below the next, and by what stands above the one before. -/
theorem State.setItem_other {k j : Nat} (h : j ≠ k) {v : Nat} (hv : v < 4) : (s.setItem k v).calItem j = s.calItem j := by
  unfold State.calItem State.setItem
  rw [State.reg_setReg_same, bits_item, bits_item]
  obtain below | above := Nat.lt_or_gt_of_ne h
  · have low (n : Nat) : n / 4 ^ j % 4 = n % 4 ^ k % 4 ^ (j + 1) / 4 ^ j := by
      rw [Nat.mod_mod_of_dvd _ (Nat.pow_dvd_pow 4 below), Nat.pow_succ, Nat.mod_mul_right_div_self]
    rw [low, setItem_below, ← low]
  · have high (n : Nat) : n / 4 ^ j = n / 4 ^ k / 4 / 4 ^ (j - k - 1) := by
      rw [Nat.div_div_eq_div_mul, Nat.div_div_eq_div_mul, ← Nat.mul_assoc, ← Nat.pow_succ, ← Nat.pow_add, show k + 1 + (j - k - 1) = j by omega]
    rw [high, setItem_above, show (s.reg Obj.calResult / 4 ^ k / 4 * 4 + v) / 4 = s.reg Obj.calResult / 4 ^ k / 4 by omega, ← high]

theorem State.setItem_regsBut (k v : Nat) : s.regsBut (s.setItem k v) [Obj.calResult] := s.setReg_regsBut _ _

end

/-! ### Items that compare two runs (R462, R463) -/

/-- A failure ends KINDLE in SNUFF, the outputs safe and the fuses as they were. -/
theorem State.calFail_safe {s : State} (running : s.cal.running = true) (item unit r1 r2 : Nat) :
    (s.calFail item unit r1 r2).mode = .snuff ∧ (s.calFail item unit r1 r2).pins.fireEn ≠ .high ∧
    (s.calFail item unit r1 r2).fuses = s.fuses := by
  unfold State.calFail
  rw [if_pos running]
  extract_lets detail s1 _ s2 s3 s4
  have recorded : Only [.regs, .cal] s s2 :=
    .with_cal (by decide) ((State.setReg_only ..).step (by decide) ((State.setItem_only ..).mono (by decide)))
  have failed : Only [.regs, .igrel, .ylog, .out, .flagged, .flash, .cal] s (s4.setCause Cause.cal) :=
    (State.setCause_only ..).step (by decide) ((State.logEvent_only ..).step (by decide) ((State.countKindleFail_only _).step (by decide)
      ((State.countKindle_only _).step (by decide) (recorded.mono (by decide)))))
  have snuffed := State.enterSnuff_snuffed (s4.setCause Cause.cal) false
  exact ⟨snuffed.mode, by rw [snuffed.fireEn]; decide, snuffed.fuses.trans (failed.agree .fuses (by decide))⟩

/-- No run breaks the limit, and no two lie further apart than the tolerance. -/
def runsAgree (bad : Int → Bool) (tol : Nat) (l : List (Int × Int)) : Prop :=
  ∀ x ∈ l, bad x.1 = false ∧ bad x.2 = false ∧ (x.1 - x.2).natAbs ≤ tol

section
variable {s : State} {item tol : Nat} {bad : Int → Bool} {l : List (Nat × Int × Int)} {passed : State → State}

theorem State.twoRuns_passes (agree : runsAgree bad tol (l.map Prod.snd)) : s.twoRuns item tol bad l passed = passed (s.setItem item 1) := by
  have each (x : Nat × Int × Int) (hx : x ∈ l) := agree x.2 (List.mem_map_of_mem hx)
  have first : firstBad bad l = none := List.find?_eq_none.mpr fun x hx => by simp [(each x hx).1]
  have second : firstApart bad tol l = none := List.find?_eq_none.mpr fun x hx => by
    obtain ⟨-, good, near⟩ := each x hx
    simp [good, near]
  unfold State.twoRuns
  rw [first]
  dsimp only
  rw [second]

theorem State.twoRuns_fails (running : s.cal.running = true) (disagree : ¬ runsAgree bad tol (l.map Prod.snd)) :
    (s.twoRuns item tol bad l passed).mode = .snuff ∧ (s.twoRuns item tol bad l passed).pins.fireEn ≠ .high ∧
    (s.twoRuns item tol bad l passed).fuses = s.fuses := by
  unfold State.twoRuns
  split
  next => exact State.calFail_safe (s := (s.fresh 24).2) running _ _ _ _
  next first =>
    split
    next => exact State.calFail_safe running _ _ _ _
    next second =>
      refine absurd (fun y hy => ?_) disagree
      obtain ⟨x, hx, rfl⟩ := List.mem_map.mp hy
      have one := List.find?_eq_none.mp first x hx
      have two := List.find?_eq_none.mp second x hx
      simp at one two
      exact ⟨one, two⟩

end

/-- The runs by unit are the two lists side by side. -/
theorem pairRuns_snd {a b : List Int} (len : a.length = b.length) : (pairRuns a b).map Prod.snd = List.zip a b := by
  unfold pairRuns
  exact List.map_snd_zip (by simp [len])

/-- Each run keeps its limit, and each pair the tolerance. -/
theorem runsAgree_iff {a b : List Int} (len : a.length = b.length) (bad : Int → Bool) (tol : Nat) :
    runsAgree bad tol ((pairRuns a b).map Prod.snd) ↔ (∀ v ∈ a ++ b, bad v = false) ∧ ∀ x ∈ List.zip a b, (x.1 - x.2).natAbs ≤ tol := by
  rw [pairRuns_snd len]
  have left : (List.zip a b).map Prod.fst = a := List.map_fst_zip (by simp [len])
  have right : (List.zip a b).map Prod.snd = b := List.map_snd_zip (by simp [len])
  constructor
  · intro agree
    refine ⟨fun v hv => ?_, fun x hx => (agree x hx).2.2⟩
    obtain hv | hv := List.mem_append.mp hv
    · obtain ⟨x, hx, rfl⟩ := List.mem_map.mp (left.symm ▸ hv)
      exact (agree x hx).1
    · obtain ⟨x, hx, rfl⟩ := List.mem_map.mp (right.symm ▸ hv)
      exact (agree x hx).2.1
  · rintro ⟨good, near⟩ x hx
    exact ⟨good _ (List.mem_append_left _ (left ▸ List.mem_map_of_mem hx)), good _ (List.mem_append_right _ (right ▸ List.mem_map_of_mem hx)),
      near x hx⟩

/-- Runs of natural numbers. -/
theorem runsAgree_nat {a b : List Nat} (len : a.length = b.length) {bad : Int → Bool} {tol : Nat} (good : ∀ v ∈ a ++ b, bad v = false)
    (near : ∀ x ∈ List.zip a b, ((x.1 : Int) - x.2).natAbs ≤ tol) :
    runsAgree bad tol ((pairRuns (a.map Int.ofNat) (b.map Int.ofNat)).map Prod.snd) := by
  refine (runsAgree_iff (by simp [len]) bad tol).mpr ⟨fun v hv => ?_, fun x hx => ?_⟩
  · rw [← List.map_append] at hv
    obtain ⟨n, hn, rfl⟩ := List.mem_map.mp hv
    exact good n hn
  · rw [List.zip_map] at hx
    obtain ⟨y, hy, rfl⟩ := List.mem_map.mp hx
    exact near y hy

theorem State.itemDue_runs {s : State} {item : Nat} {before : List Nat} (due : s.itemDue item before = true) : s.cal.running = true := by
  unfold State.itemDue at due
  simp at due
  exact due.1.1

theorem State.setRegs_regsBut (s : State) (l : List (Nat × Nat)) : s.regsBut (s.setRegs l) (l.map Prod.fst) := by
  induction l generalizing s with
  | nil => exact .refl
  | cons x l ih => exact .step (ih _) (s.setReg_regsBut _ _)

/-- Each of several objects has its value. -/
theorem State.setRegs_mem (s : State) {l : List (Nat × Nat)} (apart : (l.map Prod.fst).Nodup) {x : Nat × Nat} (hx : x ∈ l) :
    (s.setRegs l).reg x.1 = x.2 := by
  induction l generalizing s with
  | nil => cases hx
  | cons y l ih =>
    obtain ⟨first, rest⟩ := List.nodup_cons.mp apart
    obtain rfl | hx := List.mem_cons.mp hx
    · exact (State.setRegs_regsBut _ l _ first).trans (State.reg_setReg_same ..)
    · exact ih _ rest hx

/-! ### The temperature, FSI and chopper items (R462, R463) -/

section
variable {s : State}

theorem calTemperature_runs {a b : List Int} (due : s.itemDue 0 [] = true) (ha : a.length = 4) (hb : b.length = 4) :
    exec (.calTemperature a b) s = ok (s.twoRuns 0 (4 * s.reg Obj.tempTol) (fun v => decide (v < -2560) || decide (8000 < v)) (pairRuns a b)
      (fun s => s.setDom Obj.tempKindle (b.flatMap (fun v => le 2 (ofSigned 16 v))))) := if_pos (by simp [due, ha, hb])

/-- The limits of the temperature item. -/
theorem tempAgree_iff {a b : List Int} (len : a.length = b.length) (tol : Nat) :
    runsAgree (fun v => decide (v < -2560) || decide (8000 < v)) tol ((pairRuns a b).map Prod.snd) ↔
      (∀ v ∈ a ++ b, -2560 ≤ v ∧ v ≤ 8000) ∧ ∀ x ∈ List.zip a b, (x.1 - x.2).natAbs ≤ tol := by
  rw [runsAgree_iff len]
  simp

theorem calTemperature_passes {a b : List Int} (due : s.itemDue 0 [] = true) (ha : a.length = 4) (hb : b.length = 4)
    (good : (∀ v ∈ a ++ b, -2560 ≤ v ∧ v ≤ 8000) ∧ ∀ x ∈ List.zip a b, (x.1 - x.2).natAbs ≤ 4 * s.reg Obj.tempTol) :
    Completes (.calTemperature a b) s (fun t => t = { s with regs := t.regs, doms := t.doms } ∧ t.calItem 0 = 1 ∧
      t.dom Obj.tempKindle = b.flatMap (fun v => le 2 (ofSigned 16 v)) ∧ s.regsBut t [Obj.calResult]) := by
  have runs := calTemperature_runs due ha hb
  rw [State.twoRuns_passes ((tempAgree_iff (ha.trans hb.symm) _).mpr good)] at runs
  have item : (s.setItem 0 1).calItem 0 = 1 := s.setItem_same 0 (by decide)
  have regs : s.regsBut (s.setItem 0 1) [Obj.calResult] := s.setItem_regsBut 0 1
  exact ⟨_, runs, rfl, item, State.dom_setDom_plain _ _ (zeroDefaultSize_eq_zero (by decide) (by decide)), regs⟩

theorem calTemperature_fails {a b : List Int} (due : s.itemDue 0 [] = true) (ha : a.length = 4) (hb : b.length = 4)
    (broken : ¬((∀ v ∈ a ++ b, -2560 ≤ v ∧ v ≤ 8000) ∧ ∀ x ∈ List.zip a b, (x.1 - x.2).natAbs ≤ 4 * s.reg Obj.tempTol)) :
    Completes (.calTemperature a b) s (fun t => t.mode = .snuff ∧ t.pins.fireEn ≠ .high ∧ t.fuses = s.fuses) :=
  ⟨_, calTemperature_runs due ha hb,
    State.twoRuns_fails (State.itemDue_runs due) fun agree => broken ((tempAgree_iff (ha.trans hb.symm) _).mp agree)⟩

/-- A chip strapped MATE skips the choppers and the LEDs. -/
theorem State.skipItems_skips (s : State) : Only [.regs] s s.skipItems ∧ s.regsBut s.skipItems [Obj.calResult, Obj.ledTest] ∧
    s.skipItems.calItem 1 = s.calItem 1 ∧ (s.strapped = .mate → s.skipItems.calItem 5 = 3 ∧ s.skipItems.calItem 6 = 3) := by
  have skipped (k : Nat) : (((s.setItem 5 3).setItem 6 3).setReg Obj.ledTest 3).calItem k = ((s.setItem 5 3).setItem 6 3).calItem k :=
    State.calItem_congr _ (State.reg_setReg_other _ _ (by decide)) k
  unfold State.skipItems
  by_cases mate : s.strapped = .mate
  · rw [if_pos mate]
    refine ⟨(State.setReg_only ..).step (by decide) ((State.setItem_only ..).step (by decide) (State.setItem_only ..)),
      .step (State.setReg_regsBut _ _ _) (((s.setItem 5 3).setItem_regsBut 6 3).trans (s.setItem_regsBut 5 3)),
      ?_, fun _ => ⟨?_, ?_⟩⟩
    · rw [skipped, State.setItem_other _ (by decide) (by decide), State.setItem_other _ (by decide) (by decide)]
    · rw [skipped, State.setItem_other _ (by decide) (by decide), State.setItem_same _ _ (by decide)]
    · rw [skipped, State.setItem_same _ _ (by decide)]
  · rw [if_neg mate]
    exact ⟨.refl, .refl, rfl, fun h => absurd h mate⟩

theorem calFsi_passes {a b : List Nat} (due : s.itemDue 1 [0] = true) (ha : a.length = 4) (hb : b.length = 4) (high : ∀ v ∈ a ++ b, 256 ≤ v)
    (near : ∀ x ∈ List.zip a b, ((x.1 : Int) - x.2).natAbs ≤ s.reg Obj.fsiTol) : Completes (.calFsi a b) s (fun t =>
      t = { s with regs := t.regs } ∧ t.calItem 1 = 1 ∧ t.reg Obj.fsiKindle = min (lowest a) (lowest b) % 2 ^ 16 ∧
      (s.strapped = .mate → t.calItem 5 = 3 ∧ t.calItem 6 = 3)) := by
  have runs : exec (.calFsi a b) s = _ := if_pos (by simp [due, ha, hb])
  rw [State.twoRuns_passes (runsAgree_nat (ha.trans hb.symm) (fun v hv => decide_eq_false (by have := high v hv; omega)) near)] at runs
  obtain ⟨frame, regs, one, skips⟩ := ((s.setItem 1 1).setReg Obj.fsiKindle (min (lowest a) (lowest b) % 2 ^ 16)).skipItems_skips
  have whole : Only [.regs] s _ := frame.step (by decide) ((State.setReg_only ..).step (by decide) (State.setItem_only ..))
  refine ⟨_, runs, whole.eq_taking, ?_, (regs _ (by decide)).trans (State.reg_setReg_same ..), skips⟩
  rw [one, State.calItem_congr (s.setItem 1 1) (State.reg_setReg_other _ _ (by decide)), State.setItem_same _ _ (by decide)]

theorem calChopper_passes {a b : List Nat} (due : s.itemDue 5 [1] = true) (ha : a.length = 8) (hb : b.length = 8) (low : ∀ v ∈ a ++ b, v ≤ 64)
    (near : ∀ x ∈ List.zip a b, ((x.1 : Int) - x.2).natAbs ≤ s.reg Obj.cmpTol) : Completes (.calChopper a b) s (fun t =>
      t = { s with regs := t.regs } ∧ t.calItem 5 = 1 ∧
      ∀ k, k < 4 → t.reg (Obj.cmpCal k) = b.getD (2 * k) 0 + 2 ^ 16 * b.getD (2 * k + 1) 0) := by
  have runs : exec (.calChopper a b) s = _ := if_pos (by simp [due, ha, hb])
  rw [State.twoRuns_passes (runsAgree_nat (ha.trans hb.symm) (fun v hv => decide_eq_false (by have := low v hv; omega)) near)] at runs
  have whole : Only [.regs] s _ := (State.setRegs_only (s.setItem 5 1) ((List.range 4).map (fun k =>
    (Obj.cmpCal k, b.getD (2 * k) 0 + 2 ^ 16 * b.getD (2 * k + 1) 0)))).step (by decide) (s.setItem_only 5 1)
  have apart : (((List.range 4).map (fun k => (Obj.cmpCal k, b.getD (2 * k) 0 + 2 ^ 16 * b.getD (2 * k + 1) 0))).map Prod.fst).Nodup ∧
      Obj.calResult ∉ ((List.range 4).map (fun k => (Obj.cmpCal k, b.getD (2 * k) 0 + 2 ^ 16 * b.getD (2 * k + 1) 0))).map Prod.fst := by
    rw [List.map_map]
    show ((List.range 4).map Obj.cmpCal).Nodup ∧ Obj.calResult ∉ (List.range 4).map Obj.cmpCal
    decide
  refine ⟨_, runs, whole.eq_taking, ?_, fun k hk => ?_⟩
  · exact (State.calItem_congr _ (State.setRegs_regsBut _ _ _ apart.2) 5).trans (State.setItem_same _ _ (by decide))
  · exact State.setRegs_mem _ apart.1 (List.mem_map_of_mem (List.mem_range.mpr hk))

end

/-! ### The termination, and the links that train after it (R461) -/

section
variable (s : State)

/-- An object that is none of a lane's. -/
def offLanes (k : Nat) : Prop := k / 65536 ≠ 0x24 ∧ k ≠ Obj.linkState

theorem State.rasterLanes_off {k : Nat} (hk : offLanes k) (v : Nat) (l : List Nat) (low : ∀ u ∈ l, u < 10) :
    (s.rasterLanes v l).reg k = s.reg k := by
  induction l generalizing s with
  | nil => rfl
  | cons u l ih =>
    have other : k ≠ rasterLane u 1 := by
      have := low u List.mem_cons_self
      unfold offLanes at hk
      unfold rasterLane
      split <;> omega
    exact (ih _ fun u hu => low u (List.mem_cons_of_mem _ hu)).trans (State.reg_setReg_other _ _ other)

theorem State.trainRaster_off {k : Nat} (hk : offLanes k) : s.trainRaster.reg k = s.reg k :=
  ((State.emitAll_only ..).reg (by decide) k).trans ((State.reg_setReg_other _ _ hk.2).trans
    (s.rasterLanes_off hk 1 _ fun _ => List.mem_range.mp))

theorem State.trainTwin_off {k : Nat} (hk : offLanes k) : s.trainTwin.reg k = s.reg k := by
  have other (i : Nat) (hi : i < 64) : k ≠ Obj.laneState i := by
    unfold offLanes at hk
    unfold Obj.laneState
    omega
  exact ((State.emitAll_only ..).reg (by decide) k).trans ((State.reg_setReg_other _ _ (other 33 (by decide))).trans
    (State.reg_setReg_other _ _ (other 32 (by decide))))

theorem State.headRelease_off {k : Nat} (hk : offLanes k) : s.headRelease.reg k = s.reg k := by
  have other (m : Nat) (hm : m < 32) : k ≠ Obj.laneState m := by
    unfold offLanes at hk
    unfold Obj.laneState
    omega
  have train (l : List Nat) (low : ∀ m ∈ l, m < 32) (t : State) : (t.trainAll l).reg k = t.reg k := by
    induction l generalizing t with
    | nil => rfl
    | cons m l ih =>
      exact (ih (fun m hm => low m (List.mem_cons_of_mem _ hm)) _).trans (State.reg_setReg_other _ _ (other m (low m List.mem_cons_self)))
  have empty (l : List Nat) (low : ∀ m ∈ l, m < 32) (t : State) : (l.foldl (fun s m => s.setReg (Obj.laneState m) 4) t).reg k = t.reg k := by
    induction l generalizing t with
    | nil => rfl
    | cons m l ih =>
      exact (ih (fun m hm => low m (List.mem_cons_of_mem _ hm)) _).trans (State.reg_setReg_other _ _ (other m (low m List.mem_cons_self)))
  have lanes (p : Nat → Bool) (m : Nat) (hm : m ∈ (List.range 32).filter p) : m < 32 := List.mem_range.mp (List.mem_filter.mp hm).1
  exact (train _ (lanes _) _).trans (empty _ (lanes _) s)

/-- The links that begin bring-up write only their lanes' objects. -/
theorem State.beginLinks_off {k : Nat} (hk : offLanes k) (freed : Nat) : (s.beginLinks freed).reg k = s.reg k := by
  unfold State.beginLinks
  extract_lets s1 s2
  have h1 : s1.reg k = s.reg k := by
    simp only [s1]
    split
    · exact s.headRelease_off hk
    · rfl
  have h2 : s2.reg k = s1.reg k := by
    simp only [s2]
    split
    · exact s1.trainTwin_off hk
    · rfl
  rw [← h1, ← h2]
  split
  · exact s2.trainRaster_off hk
  · rfl

theorem State.beginLinks_none : s.beginLinks 0 = s := by
  simp [State.beginLinks]

/-- The raster link trains once it is no longer held. -/
theorem State.beginLinks_raster {freed : Nat} (h : freed.testBit Block.raster = true) : (s.beginLinks freed).reg Obj.linkState = 1 ∧
    .train .raster 0 (linkTrain 0) ∈ (s.beginLinks freed).out ∧ .train .raster 1 (linkTrain 1) ∈ (s.beginLinks freed).out := by
  obtain ⟨u, hu⟩ : ∃ u : State, s.beginLinks freed = u.trainRaster := ⟨_, if_pos h⟩
  rw [hu]
  refine ⟨((State.emitAll_only ..).reg (by decide) _).trans (State.reg_setReg_same ..), ?_, ?_⟩
  · exact .tail _ (.head _)
  · exact .head _

end

section
variable {s : State}

theorem calTermination_passes {l : List (Nat × Nat × Nat)} (due : s.itemDue 2 [] = true)
    (good : ∀ x ∈ l, s.unitFitted x.1 = true → 0 < x.2.1 ∧ x.2.1 < 63 ∧ 0 < x.2.2 ∧ x.2.2 < 63 ∧
      ((x.2.1 : Int) - x.2.2).natAbs ≤ s.reg Obj.termTol) :
    Completes (.calTermination l) s (fun t => t = { s with regs := t.regs, heads := t.heads, out := t.out } ∧ t.calItem 2 = 1 ∧
      (clearMask 0x1FFFF (s.reg Obj.blockReset) = 0 → s.regsBut t [Obj.calResult] ∧ t.heads = s.heads ∧ t.out = s.out) ∧
      ((s.reg Obj.blockReset).testBit Block.raster = false → t.reg Obj.linkState = 1 ∧ .train .raster 0 (linkTrain 0) ∈ t.out ∧
        .train .raster 1 (linkTrain 1) ∈ t.out)) := by
  have runs : exec (.calTermination l) s = _ := if_pos due
  rw [State.twoRuns_passes] at runs
  · have blocks : (s.setItem 2 1).reg Obj.blockReset = s.reg Obj.blockReset := s.setItem_regsBut 2 1 _ (by decide)
    rw [blocks] at runs
    have item : (s.setItem 2 1).calItem 2 = 1 := s.setItem_same 2 (by decide)
    have regs := s.setItem_regsBut 2 1
    have frame := s.setItem_only 2 1
    generalize s.setItem 2 1 = u at *
    have whole : Only [.regs, .heads, .out] s _ := (u.beginLinks_only (clearMask 0x1FFFF (s.reg Obj.blockReset))).step (by decide)
      (frame.mono (by decide))
    refine ⟨_, runs, whole.eq_taking, (State.calItem_congr _ (u.beginLinks_off ⟨by decide, by decide⟩ _) 2).trans item,
      fun none_ => ?_, fun free => ?_⟩
    · rw [none_, State.beginLinks_none]
      exact ⟨regs, frame.agree .heads (by decide), frame.agree .out (by decide)⟩
    · exact u.beginLinks_raster (by rw [clearMask_testBit, free]; decide)
  · intro y hy
    simp only [List.map_map, List.mem_map, List.mem_filter] at hy
    obtain ⟨x, ⟨hx, fitted⟩, rfl⟩ := hy
    obtain ⟨l1, h1, l2, h2, near⟩ := good x hx fitted
    simp
    omega

/-! ### The equaliser (R461, R462) -/

theorem calEqualiser_agrees {unit key s1 s2 : Nat} (obj : ctleObj unit = some key) (running : s.cal.running = true)
    (fitted : s.unitFitted unit = true) (due : s.calItem 3 = 0) (near : ((s1 : Int) - s2).natAbs ≤ s.reg Obj.ctleTol) :
    Completes (.calEqualiser unit s1 s2) s (fun t => t = { s with regs := t.regs, cal := t.cal } ∧
      t.reg key = s2 % 256 ∧ s.regsBut t [key] ∧ unit ∈ t.cal.equalised) := by
  have runs : exec (.calEqualiser unit s1 s2) s = execCalEqualiser unit s1 s2 s := rfl
  have other : Obj.ctleTol ≠ key := by
    unfold ctleObj at obj
    unfold Obj.ctleTol
    split_ifs at obj <;> simp only [Option.some.injEq, Obj.ctleCode] at obj <;> omega
  have within_ : ¬ (s.setReg key (s2 % 256)).reg Obj.ctleTol < ((s1 : Int) - s2).natAbs := by
    rw [State.reg_setReg_other _ _ other]
    exact Nat.not_lt.mpr near
  unfold execCalEqualiser at runs
  rw [obj] at runs
  dsimp only at runs
  rw [if_pos (by simp [running, fitted, due]), if_neg within_] at runs
  have same : (s.setReg key (s2 % 256)).reg key = s2 % 256 := State.reg_setReg_same ..
  have regs := s.setReg_regsBut key (s2 % 256)
  exact ⟨_, runs, rfl, same, regs, List.mem_cons_self⟩

/-! ### The LED test (14 R338, R339) -/

theorem State.emitAll_out (s : State) (l : List Out) : s.emitAll l = { s with out := l.reverse ++ s.out } := by
  induction l generalizing s with
  | nil => rfl
  | cons o l ih =>
    rw [State.emitAll, ih]
    simp [State.emit]

/-- Both runs have driven each pin in turn. -/
def State.drivePins (s : State) : State := s.emitAll ((ledPins ++ ledPins).map Out.ledPin)

theorem State.drivePins_only (s : State) : Only [.out] s s.drivePins := s.emitAll_only _

theorem State.drivePins_out (s : State) : s.drivePins.out = ((ledPins ++ ledPins).map Out.ledPin).reverse ++ s.out :=
  congrArg State.out (s.emitAll_out _)

/-- The item has passed, with the map of its second run. -/
def State.ledMapped (s : State) (m : Nat) : State := (s.setItem 6 1).setReg Obj.shortMap m

theorem State.ledMapped_reads (s : State) (m : Nat) : Only [.regs] s (s.ledMapped m) ∧ (s.ledMapped m).calItem 6 = 1 ∧
    (s.ledMapped m).reg Obj.shortMap = m := by
  refine ⟨(State.setReg_only ..).step (by decide) (State.setItem_only ..), ?_, State.reg_setReg_same ..⟩
  exact (State.calItem_congr (s.setItem 6 1) (State.reg_setReg_other _ _ (by decide)) 6).trans (State.setItem_same _ _ (by decide))

/-- A fault of the LEDs, and the block held by it. -/
theorem State.ledFault_holds (s : State) : s.ledFault.mode = s.mode ∧ s.ledFault.reg Obj.ledTest = 2 ∧ s.ledFault.led.faulty = true ∧
    (s.ledFault.reg Obj.blockReset).testBit Block.led = true ∧
    s.regsBut s.ledFault [Obj.ledStatus, Obj.ledTest, Obj.blockReset, Obj.blockPended] := by
  unfold State.ledFault
  extract_lets led_ src u bit
  have led : u.led.faulty = true := rfl
  have mode : u.mode = s.mode := rfl
  have test : u.reg Obj.ledTest = 2 := (s.setBits Obj.ledStatus 2).reg_setReg_same Obj.ledTest 2
  have regs : s.regsBut u [Obj.ledStatus, Obj.ledTest] :=
    .step ((s.setBits Obj.ledStatus 2).setReg_regsBut Obj.ledTest 2) (s.setBits_regsBut _ _)
  clear_value u
  have held : u.regsBut ((u.setBits Obj.blockReset bit).clearBits Obj.blockPended bit) [Obj.blockReset, Obj.blockPended] :=
    .step (State.setReg_regsBut _ _ _) (u.setBits_regsBut _ _)
  refine ⟨mode, (held _ (by decide)).trans test, led, ?_, .step held regs⟩
  have raised : ((u.setBits Obj.blockReset bit).clearBits Obj.blockPended bit).reg Obj.blockReset = u.reg Obj.blockReset ||| bit :=
    (State.reg_setReg_other _ _ (by decide)).trans (State.reg_setBits_same ..)
  rw [raised, Nat.testBit_or, show bit.testBit Block.led = true from Nat.testBit_two_pow_self, Bool.or_true]

section
variable {a b : LedReads} (due : s.itemDue 6 [5] = true)
include due

theorem ledShortTest_agrees (same : shortMap a = shortMap b) : exec (.ledShortTest a b) s =
    ok (if shortMap b = 0 then (s.drivePins.ledMapped (shortMap b)).setReg Obj.ledTest 1
      else (s.drivePins.ledMapped (shortMap b)).ledFault) :=
  (if_pos due).trans (if_neg (by simp [same]))

theorem ledShortTest_passes (same : shortMap a = shortMap b) (none_ : shortMap b = 0) : Completes (.ledShortTest a b) s (fun t =>
    t = { s with regs := t.regs, out := ((ledPins ++ ledPins).map Out.ledPin).reverse ++ s.out } ∧ t.calItem 6 = 1 ∧
    t.reg Obj.shortMap = 0 ∧ t.reg Obj.ledTest = 1) := by
  have runs := (ledShortTest_agrees due same).trans (congrArg ok (if_pos none_))
  rw [none_] at runs
  obtain ⟨mapped, item, map⟩ := s.drivePins.ledMapped_reads 0
  have frame : Only [.regs, .out] s (s.drivePins.ledMapped 0) := mapped.step (by decide) (s.drivePins_only.mono (by decide))
  have out := (mapped.agree .out (by decide)).trans s.drivePins_out
  generalize s.drivePins.ledMapped 0 = u at *
  have whole : Only [.regs, .out] s (u.setReg Obj.ledTest 1) := (State.setReg_only ..).step (by decide) frame
  refine ⟨_, runs, ?_, (State.calItem_congr u (State.reg_setReg_other _ _ (by decide)) 6).trans item,
    (State.reg_setReg_other _ _ (by decide)).trans map, State.reg_setReg_same ..⟩
  rw [← out]
  exact whole.eq_taking

theorem ledShortTest_faults (same : shortMap a = shortMap b) (some_ : shortMap b ≠ 0) : Completes (.ledShortTest a b) s (fun t =>
    t.mode = s.mode ∧ t.calItem 6 = 1 ∧ t.reg Obj.shortMap = shortMap b ∧ t.reg Obj.ledTest = 2 ∧ t.led.faulty = true ∧
    (t.reg Obj.blockReset).testBit Block.led = true) := by
  have runs := (ledShortTest_agrees due same).trans (congrArg ok (if_neg some_))
  obtain ⟨mapped, item, map⟩ := s.drivePins.ledMapped_reads (shortMap b)
  have frame : Only [.regs, .out] s (s.drivePins.ledMapped (shortMap b)) := mapped.step (by decide) (s.drivePins_only.mono (by decide))
  generalize s.drivePins.ledMapped (shortMap b) = u at *
  obtain ⟨mode, test, faulty, held, regs⟩ := u.ledFault_holds
  exact ⟨_, runs, mode.trans (frame.agree .mode (by decide)), (State.calItem_congr u (regs _ (by decide)) 6).trans item,
    (regs _ (by decide)).trans map, test, faulty, held⟩

theorem ledShortTest_differs (differs : shortMap a ≠ shortMap b) : Completes (.ledShortTest a b) s (fun t =>
    t.mode = .snuff ∧ t.pins.fireEn ≠ .high) := by
  have running : s.drivePins.cal.running = true := by
    rw [s.drivePins_only.agree .cal (by decide)]
    exact State.itemDue_runs due
  obtain ⟨mode, fireEn, -⟩ := State.calFail_safe running 6 0 (shortMap a) (shortMap b)
  exact ⟨_, (if_pos due).trans (if_pos differs), mode, fireEn⟩

end

/-! ### DRAM (17 R372, R376) -/

theorem dramTraining_passes {l : List Sweep} (due : s.itemDue 4 [6] = true) (leave : s.hasLeave .dramTraining = true)
    (complete : sweepsComplete l = true) (good : trainFault (s.reg Obj.dramTol) l = none) : Completes (.dramTraining l) s (fun t =>
      t.mode = s.mode ∧ t.calItem 4 = 1 ∧ t.dram = { s.dram with setNow := 0, trained := true } ∧ t.reg Obj.freqNow = s.rateOf 0 ∧
      t.dom Obj.trainResult = trainBytes l ∧ t.wick = { s.wick with leave := s.wick.leave.erase .dramTraining }) := by
  have runs : exec (.dramTraining l) s = execDramTraining l s := rfl
  unfold execDramTraining at runs
  dsimp only at runs
  have tol : (s.useLeave .dramTraining).reg Obj.dramTol = s.reg Obj.dramTol := rfl
  rw [if_pos (by simp [due, leave, complete]), tol, good] at runs
  dsimp only at runs
  have item : ((s.useLeave .dramTraining).setItem 4 1).calItem 4 = 1 := State.setItem_same _ 4 (by decide)
  have regs := (s.useLeave .dramTraining).setItem_regsBut 4 1
  have frame := (s.useLeave .dramTraining).setItem_only 4 1
  generalize (s.useLeave .dramTraining).setItem 4 1 = u at *
  have rate : (u.setDom Obj.trainResult (trainBytes l)).rateOf 0 = s.rateOf 0 := regs _ (by decide)
  have dom := u.dom_setDom_plain (trainBytes l) (zeroDefaultSize_eq_zero (k := Obj.trainResult) (by decide) (by decide))
  have dram : (u.setDom Obj.trainResult (trainBytes l)).dram = s.dram := frame.agree .dram (by decide)
  rw [rate, dram] at runs
  exact ⟨_, runs, frame.agree .mode (by decide), (State.calItem_congr u (State.reg_setReg_other _ _ (by decide)) 4).trans item, rfl,
    State.reg_setReg_same .., dom, frame.agree .wick (by decide)⟩

end

/-- Settles O56, a lemma for each item as it passes or fails. -/
theorem kindleItemsPassOrFail : Obligations.KindleItemsPassOrFail := fun _ =>
  ⟨fun _ _ due ha hb => ⟨calTemperature_passes due ha hb, calTemperature_fails due ha hb⟩, fun _ _ => calFsi_passes,
    fun _ => calTermination_passes, fun _ _ _ _ => calEqualiser_agrees, fun _ _ => calChopper_passes,
    fun _ _ due => ⟨ledShortTest_passes due, ledShortTest_faults due, ledShortTest_differs due⟩, fun _ => dramTraining_passes,
    fun running trained => ⟨_, if_pos (by simp [running, trained]), rfl⟩⟩

end Sys2Proof.Machine
end

section
/-! SUPPORT. O49 (15 R341 to R355): the upload channels' chunks, their packets, credit and acknowledgement. -/

namespace Sys2Proof.Machine

/-! ### Channels and counts -/

theorem State.chan_congr {s t : State} (h : t.chans = s.chans) (ch : Nat) : t.chan ch = s.chan ch :=
  congrArg (fun x => Table.get ({} : Chan) x ch) h

theorem State.count_regsBut (s : State) (k n : Nat) : s.regsBut (s.count k n) [k] := s.setReg_regsBut _ _

/-- What the check of a chunk finds is counted (R344, R345). -/
def State.notes (s t : State) (ch : Nat) (k : Coded) : Prop :=
  (k = .raw345 → t.reg (Obj.noShrink ch) = countValue (Obj.noShrink ch) (s.reg (Obj.noShrink ch)) 1) ∧
  (k = .raw344 → t.reg (Obj.verifyFails ch) = countValue (Obj.verifyFails ch) (s.reg (Obj.verifyFails ch)) 1)

theorem yillogger_apart {ch c : Nat} (hch : ch < 4) (hc : c < 16 := by decide) : c + 0x280010 + 16 * ch ∉ yilloggerObjects := fun h => by
  have high : ∀ j ∈ yilloggerObjects, j / 65536 ≠ 0x28 := by decide
  exact high _ h (by omega)

section
variable (s : State) {ch : Nat} (hch : ch < 4) (k : Coded)
include hch

theorem State.noteCoded_notes : s.notes (s.noteCoded ch k) ch k := by
  refine ⟨fun h => ?_, fun h => ?_⟩
  · subst h
    exact State.reg_bump_same ..
  · subst h
    exact (State.logEvent_regsBut _ _ _ _ (yillogger_apart (c := 8) hch)).trans (State.reg_bump_same ..)

/-- Beyond what it finds, a chunk's coding writes no object of a channel. -/
theorem State.noteCoded_other {c : Nat} (hc : c < 16) (h7 : c ≠ 7) (h8 : c ≠ 8) :
    (s.noteCoded ch k).reg (c + 0x280010 + 16 * ch) = s.reg (c + 0x280010 + 16 * ch) := by
  cases k with
  | wax b => rfl
  | raw345 => exact State.reg_bump_other _ (by unfold Obj.noShrink; omega)
  | raw344 =>
    exact (State.logEvent_regsBut _ _ _ _ (yillogger_apart hch hc)).trans (State.reg_bump_other _ (by unfold Obj.verifyFails; omega))

end

/-- What is counted stays so where the counts stay. -/
theorem State.notes.congr {s t u : State} {ch : Nat} {k : Coded} (h : s.notes t ch k) (shrink : u.reg (Obj.noShrink ch) = t.reg (Obj.noShrink ch))
    (verify : u.reg (Obj.verifyFails ch) = t.reg (Obj.verifyFails ch)) : s.notes u ch k :=
  ⟨fun e => shrink.trans (h.1 e), fun e => verify.trans (h.2 e)⟩

/-! ### A stored packet -/

/-- The channel with a chunk coded and its packet stored. -/
def Chan.stored (c : Chan) (p : Pkt) (k : Coded) (chunk : List Byte) : Chan :=
  let d := match k with
    | .wax _ => c.remember chunk
    | _ => { c with sync := true }
  { d with pkts := d.pkts ++ [p] }

/-- The packet's bytes in memory, and the counts of the channel. -/
def State.storeBytes (s : State) (ch addr : Nat) (p : Pkt) (chunk : List Byte) : State :=
  ((s.writeMem (.upload ch) ((List.range p.payload.length).map (fun i => (addr + i, p.payload.getD i 0)))).setReg
    (Obj.nextChunkSeq ch) ((p.q + 1) % 2 ^ 32)).count (Obj.upBytesIn ch) chunk.length

section
variable (s : State) (ch addr : Nat) (p : Pkt) (k : Coded) (chunk : List Byte)

theorem State.storePacket_eq : s.storePacket ch addr p k chunk =
    (s.storeBytes ch addr p chunk).setChan ch (((s.storeBytes ch addr p chunk).chan ch).stored p k chunk) := by
  unfold State.storePacket State.storeBytes Chan.stored
  cases k <;> rfl

theorem State.storeBytes_only : Only [.regs, .dram] s (s.storeBytes ch addr p chunk) :=
  (State.count_only ..).step (by decide) ((State.setReg_only ..).step (by decide) ((State.writeMem_only ..).mono (by decide)))

theorem State.storeBytes_regsBut : s.regsBut (s.storeBytes ch addr p chunk) [Obj.nextChunkSeq ch, Obj.upBytesIn ch] := by
  unfold State.storeBytes
  have written (cells : List (Nat × Byte)) : s.regsBut (s.writeMem (.upload ch) cells) [] := (State.writeMem_only ..).regsBut (by decide) _
  exact .step (State.count_regsBut _ _ _) (.step (n := [Obj.nextChunkSeq ch]) (State.setReg_regsBut _ _ _) (written _))

theorem State.storeBytes_next : (s.storeBytes ch addr p chunk).reg (Obj.nextChunkSeq ch) = (p.q + 1) % 2 ^ 32 := by
  unfold State.storeBytes
  rw [State.reg_count_other _ _ (by unfold Obj.nextChunkSeq Obj.upBytesIn; omega), State.reg_setReg_same]

/-- What a stored packet leaves: the channel with it, the next chunk sequence, and every object that is not counted. -/
theorem State.storePacket_stores : (s.storePacket ch addr p k chunk).chan ch = (s.chan ch).stored p k chunk ∧
    (s.storePacket ch addr p k chunk).reg (Obj.nextChunkSeq ch) = (p.q + 1) % 2 ^ 32 ∧
    s.regsBut (s.storePacket ch addr p k chunk) [Obj.nextChunkSeq ch, Obj.upBytesIn ch] := by
  have next := s.storeBytes_next ch addr p chunk
  have regs := s.storeBytes_regsBut ch addr p chunk
  have chan := State.chan_congr ((s.storeBytes_only ch addr p chunk).agree .chans (by decide)) ch
  rw [State.storePacket_eq, State.chan_setChan_same, chan]
  exact ⟨rfl, next, regs⟩

end

theorem Chan.stored_keeps (c : Chan) (p : Pkt) (k : Coded) (chunk : List Byte) : (c.stored p k chunk).pkts = c.pkts ++ [p] ∧
    (c.stored p k chunk).input = c.input ∧ (c.stored p k chunk).req = c.req := by
  unfold Chan.stored Chan.remember
  cases k <;> exact ⟨rfl, rfl, rfl⟩

/-! ### The normal channels (R342 to R345, R352) -/

section
variable {s : State} {ch : Fin 4} (up : s.uploadUp = true)
include up

theorem flushTimeExpiry_flushes (input : (s.chan ch).input ≠ []) (normal : (ch : Nat) < 2) : Completes (.flushTimeExpiry ch) s (fun t =>
    t = { s with chans := t.chans } ∧ t.chan ch = { s.chan ch with flush := true }) :=
  ⟨_, if_pos (by simp [up, input, normal]), rfl, State.chan_setChan_same ..⟩

section
variable {n : Nat} {ends : Bool} (normal : (ch : Nat) < 2) (hand : s.chunkInHand ch = some (n, ends))
include normal hand

theorem exec_chunkCompress_normal : exec (.chunkCompress ch) s = ok (s.compressNormal ch n ends) := by
  show execChunkCompress ch s = _
  unfold execChunkCompress
  rw [if_neg (by simp [up]), if_pos normal, hand]

end

end

/-- The payload of the chunk in hand. -/
def State.handPayload (s : State) (ch n : Nat) (ends : Bool) : List Byte :=
  uploadPayload ch (s.reg (Obj.nextChunkSeq ch)) 0 (decide (ch = 1) && (s.chan ch).first) (decide (ch = 1) && ends)
    (s.code ch ((s.chan ch).input.take n)) ((s.chan ch).input.take n)

/-- A chunk in hand that has room is coded, checked, and its packet stored. -/
theorem State.compressNormal_room (s : State) (ch n : Nat) (ends : Bool) {place : Nat}
    (room : s.ringSpot ch (alignedLen (s.handPayload ch n ends).length) = some place) : ∃ (addr : Nat) (p : Pkt) (x : Chan),
    s.compressNormal ch n ends = ((s.noteCoded ch (s.code ch ((s.chan ch).input.take n))).storePacket ch addr p
      (s.code ch ((s.chan ch).input.take n)) ((s.chan ch).input.take n)).setChan ch x ∧
    (p.q = s.reg (Obj.nextChunkSeq ch) ∧ p.payload = s.handPayload ch n ends ∧ p.place = place ∧ p.sent = false) ∧
    x.input = (((s.noteCoded ch (s.code ch ((s.chan ch).input.take n))).storePacket ch addr p
      (s.code ch ((s.chan ch).input.take n)) ((s.chan ch).input.take n)).chan ch).input.drop n ∧
    x.pkts = (((s.noteCoded ch (s.code ch ((s.chan ch).input.take n))).storePacket ch addr p
      (s.code ch ((s.chan ch).input.take n)) ((s.chan ch).input.take n)).chan ch).pkts := by
  unfold State.compressNormal
  extract_lets c chunk k q tap payload len
  rw [show s.ringSpot ch len = some place from room]
  exact ⟨_, _, _, rfl, ⟨rfl, rfl, rfl, rfl⟩, rfl, rfl⟩

/-- A chunk with no room: TAP's is checked all the same. -/
theorem State.compressNormal_full (s : State) (ch n : Nat) (ends : Bool)
    (full : s.ringSpot ch (alignedLen (s.handPayload ch n ends).length) = none) : s.compressNormal ch n ends =
    (if decide (ch = 1) then s.noteCoded ch (s.code ch ((s.chan ch).input.take n)) else s).holdChunk ch := by
  unfold State.compressNormal
  extract_lets c chunk k q tap payload len
  rw [show s.ringSpot ch len = none from full]

/-! ### A tap run that is over (R342, R352) -/

/-- What the end of a tap run leaves of the channel's input. -/
theorem State.closeRun_chan (s : State) : (s.closeRun.chan 1).input = (s.chan 1).input ∧ (s.closeRun.chan 1).ends = (s.chan 1).ends ∧
    (s.closeRun.chan 1).dropping = false ∧ (s.closeRun.chan 1).first = true ∧ (s.closeRun.chan 1).sync = true := by
  unfold State.closeRun
  extract_lets c u
  have kept : (u.chan 1).input = (s.chan 1).input ∧ (u.chan 1).ends = (s.chan 1).ends := by
    simp only [u]
    split
    · rw [State.chan_setChan_same]
      exact ⟨rfl, rfl⟩
    · rw [State.chan_congr (s.runResult_only.agree .chans (by decide))]
      exact ⟨rfl, rfl⟩
  rw [State.chan_setChan_same]
  exact ⟨kept.1, kept.2, rfl, rfl, rfl⟩

/-- With no room in its ring TAP drops the rest of the frame, and counts it. -/
theorem State.holdChunk_tap (s : State) : (s.holdChunk 1).dram = s.dram ∧ s.regsBut (s.holdChunk 1) [Obj.drops 1] ∧
    (s.holdChunk 1).reg (Obj.drops 1) = countValue (Obj.drops 1) (s.reg (Obj.drops 1)) 1 ∧
    ((s.chan 1).ends = [] → (s.holdChunk 1).chan 1 = { s.chan 1 with input := [], flush := false, dropping := true }) ∧
    (∀ (e : Nat) (rest : List Nat), (s.chan 1).ends = e :: rest → ((s.holdChunk 1).chan 1).input = (s.chan 1).input.drop e ∧
      ((s.holdChunk 1).chan 1).ends = rest.map (fun x => x - e) ∧ ((s.holdChunk 1).chan 1).dropping = false ∧
      ((s.holdChunk 1).chan 1).first = true ∧ ((s.holdChunk 1).chan 1).sync = true) := by
  have dram := (s.holdChunk_only 1).agree .dram (by decide)
  have bumped := s.bump_regsBut (Obj.drops 1)
  have count := s.reg_bump_same (Obj.drops 1)
  unfold State.holdChunk at dram ⊢
  rw [if_neg (by decide)] at dram ⊢
  dsimp only at dram ⊢
  generalize s.bump (Obj.drops 1) = u at *
  cases split_ : (s.chan 1).ends with
  | nil =>
    exact ⟨by rwa [split_] at dram, bumped, count, fun _ => State.chan_setChan_same .., fun _ _ h => by cases h⟩
  | cons e t =>
    rw [split_] at dram
    have kept (k : Nat) := (State.closeRun_only (u.setChan 1 { s.chan 1 with
      input := (s.chan 1).input.drop e, ends := t.map (fun x => x - e), flush := false })).reg (by decide) k
    have closed := State.closeRun_chan (u.setChan 1 { s.chan 1 with
      input := (s.chan 1).input.drop e, ends := t.map (fun x => x - e), flush := false })
    rw [State.chan_setChan_same] at closed
    refine ⟨dram, fun k hk => (kept k).trans (bumped k hk), (kept _).trans count, fun h => (by cases h), fun e' rest h => ?_⟩
    obtain ⟨rfl, rfl⟩ := List.cons.inj h
    exact closed

section
variable {s : State} {ch : Fin 4} (up : s.uploadUp = true) {n : Nat} {ends : Bool} (normal : (ch : Nat) < 2)
  (hand : s.chunkInHand ch = some (n, ends))
include up normal hand

theorem chunkCompress_stores {place : Nat} (room : s.ringSpot ch (alignedLen (s.handPayload ch n ends).length) = some place) :
    Completes (.chunkCompress ch) s (fun t => t.mode = s.mode ∧ (t.chan ch).input = (s.chan ch).input.drop n ∧
      t.reg (Obj.nextChunkSeq ch) = (s.reg (Obj.nextChunkSeq ch) + 1) % 2 ^ 32 ∧ s.notes t ch (s.code ch ((s.chan ch).input.take n)) ∧
      ∃ p, (t.chan ch).pkts = (s.chan ch).pkts ++ [p] ∧ p.q = s.reg (Obj.nextChunkSeq ch) ∧ p.payload = s.handPayload ch n ends ∧
        p.place = place ∧ p.sent = false) := by
  have runs := exec_chunkCompress_normal up normal hand
  have mode := (s.compressNormal_only ch n ends).agree .mode (by decide)
  obtain ⟨addr, p, x, eq, hp, input, pkts⟩ := s.compressNormal_room ch n ends room
  rw [eq] at runs mode
  generalize s.code ch ((s.chan ch).input.take n) = k at *
  have notes := s.noteCoded_notes ch.isLt k
  have chan := State.chan_congr ((s.noteCoded_only ch k).agree .chans (by decide)) ch
  generalize s.noteCoded ch k = u at *
  obtain ⟨stored, next, regs⟩ := u.storePacket_stores ch addr p k ((s.chan ch).input.take n)
  obtain ⟨keptPkts, keptInput, -⟩ := (u.chan ch).stored_keeps p k ((s.chan ch).input.take n)
  rw [stored, keptInput, chan] at input
  rw [stored, keptPkts, chan] at pkts
  generalize u.storePacket ch addr p k ((s.chan ch).input.take n) = v at *
  have read : (v.setChan ch x).chan ch = x := State.chan_setChan_same ..
  refine ⟨_, runs, mode, by rw [read, input], next.trans (by rw [hp.1]), ?_, p, by rw [read, pkts], hp⟩
  exact notes.congr (regs _ (by simp [Obj.noShrink, Obj.nextChunkSeq, Obj.upBytesIn]))
    (regs _ (by simp [Obj.verifyFails, Obj.nextChunkSeq, Obj.upBytesIn]))

variable (full : s.ringSpot ch (alignedLen (s.handPayload ch n ends).length) = none)
include full

/-- With no room in the ring LEDGER keeps its records. -/
theorem chunkCompress_keeps (ledger : (ch : Nat) = 0) :
    Completes (.chunkCompress ch) s (fun t => t.dram = s.dram ∧ t = { s with regs := t.regs, chans := t.chans } ∧ s.regsBut t [Obj.drops ch] ∧
      t.chan ch = { s.chan ch with held := max ((s.chan ch).input.length / 32) (s.chan ch).held } ∧
      t.reg (Obj.drops ch) = countValue (Obj.drops ch) (s.reg (Obj.drops ch)) ((s.chan ch).input.length / 32 - (s.chan ch).held)) := by
  have runs := exec_chunkCompress_normal up normal hand
  rw [s.compressNormal_full ch n ends full, ledger] at runs
  rw [ledger]
  exact ⟨_, runs, rfl, rfl, s.count_regsBut _ _, State.chan_setChan_same .., State.reg_count_same ..⟩

/-- TAP's frame is dropped and counted. -/
theorem chunkCompress_drops (tap : (ch : Nat) = 1) :
    Completes (.chunkCompress ch) s (fun t => t.mode = s.mode ∧ t.dram = s.dram ∧ t.reg (Obj.nextChunkSeq ch) = s.reg (Obj.nextChunkSeq ch) ∧
      s.notes t ch (s.code ch ((s.chan ch).input.take n)) ∧ t.reg (Obj.drops ch) = countValue (Obj.drops ch) (s.reg (Obj.drops ch)) 1 ∧
      ((s.chan ch).ends = [] → t.chan ch = { s.chan ch with input := [], flush := false, dropping := true }) ∧
      (∀ (e : Nat) (rest : List Nat), (s.chan ch).ends = e :: rest → (t.chan ch).input = (s.chan ch).input.drop e ∧
        (t.chan ch).ends = rest.map (fun x => x - e) ∧ (t.chan ch).dropping = false ∧ (t.chan ch).first = true ∧ (t.chan ch).sync = true)) := by
  have runs := exec_chunkCompress_normal up normal hand
  have mode := (s.compressNormal_only ch n ends).agree .mode (by decide)
  have notes := s.noteCoded_notes ch.isLt (s.code ch ((s.chan ch).input.take n))
  have next := s.noteCoded_other ch.isLt (s.code ch ((s.chan ch).input.take n)) (c := 4) (by decide) (by decide) (by decide)
  have drops := s.noteCoded_other ch.isLt (s.code ch ((s.chan ch).input.take n)) (c := 10) (by decide) (by decide) (by decide)
  have frame := s.noteCoded_only ch (s.code ch ((s.chan ch).input.take n))
  rw [s.compressNormal_full ch n ends full, if_pos (by simp [tap])] at runs mode
  generalize s.code ch ((s.chan ch).input.take n) = k at *
  have chan := State.chan_congr (frame.agree .chans (by decide)) ch
  have dram := frame.agree .dram (by decide)
  generalize s.noteCoded ch k = u at *
  rw [tap] at *
  obtain ⟨drams, regs, count, empties, closes⟩ := u.holdChunk_tap
  rw [chan] at empties closes
  exact ⟨_, runs, mode, drams.trans dram, (regs _ (by decide)).trans next, notes.congr (regs _ (by decide)) (regs _ (by decide)),
    count.trans (congrArg (countValue (Obj.drops 1) · 1) drops), empties, closes⟩

end

/-! ### The privileged channels (R353 to R355) -/

/-- The chunk of a request in turn, and its payload. -/
def State.requestChunk (s : State) (ch : Nat) (r : UReq) : List Byte := s.sourceBytes ch (r.src + r.taken) (s.nextChunk r) s.ylogBytes

def State.requestPayload (s : State) (ch : Nat) (r : UReq) : List Byte :=
  uploadPayload ch (s.reg (Obj.nextChunkSeq ch)) r.tag (decide (r.taken = 0)) (decide (r.taken + s.nextChunk r = r.len))
    (s.code ch (s.requestChunk ch r)) (s.requestChunk ch r)

/-- A request ends as STOPPED_FULL or DONE: what its end leaves. -/
theorem State.endRequest_waits (s : State) {ch status : Nat} {r : UReq} (req : (s.chan ch).req = some r) (runs : r.ended = none)
    (waits : (s.chan ch).pkts ≠ []) : s.endRequest ch status = s.setChan ch { s.chan ch with req := some { r with ended := some status } } := by
  unfold State.endRequest
  dsimp only
  rw [req]
  dsimp only
  rw [if_neg (by simp [runs])]
  unfold State.writeBack
  dsimp only
  rw [State.chan_setChan_same]
  exact if_neg waits

theorem State.endRequest_writes (s : State) {ch status : Nat} {r : UReq} (req : (s.chan ch).req = some r) (runs : r.ended = none)
    (acked : (s.chan ch).pkts = []) : ((s.endRequest ch status).chan ch).req = none ∧
    (s.endRequest ch status).dom Obj.uploadResult = r.bytes ch status := by
  unfold State.endRequest
  dsimp only
  rw [req]
  dsimp only
  rw [if_neg (by simp [runs])]
  unfold State.writeBack
  dsimp only
  rw [State.chan_setChan_same]
  dsimp only
  rw [if_pos acked]
  exact ⟨congrArg Chan.req (State.chan_setChan_same ..), State.dom_setDom_plain _ _ (zeroDefaultSize_eq_zero (by decide) (by decide))⟩

/-- The channel's packet is stored, and its request goes on as `q`. -/
def State.requestStored (s : State) (ch addr : Nat) (p : Pkt) (k : Coded) (chunk : List Byte) (q : UReq) : State :=
  (s.storePacket ch addr p k chunk).setChan ch { (s.storePacket ch addr p k chunk).chan ch with req := some q }

section
variable (s : State) (ch : Nat) (r : UReq) (runs : r.ended = none) (next : s.nextChunk r ≠ 0) (served : ch = 3 → s.memWaits (.upload 3) = false)
include runs next served

theorem State.compressRequest_full (full : r.size < r.produced + alignedLen (s.requestPayload ch r).length) :
    s.compressRequest ch r s.ylogBytes = (s.noteCoded ch (s.code ch (s.requestChunk ch r))).endRequest ch 1 := by
  have free : ¬ (r.ended.isSome = true ∨ s.nextChunk r = 0 ∨ ch = 3 ∧ s.memWaits (.upload 3) = true) := by
    rintro (h | h | ⟨h3, h⟩)
    · simp [runs] at h
    · exact next h
    · simp [served h3] at h
  unfold State.compressRequest
  dsimp only
  rw [if_neg free]
  exact if_pos full

theorem State.compressRequest_room (room : r.produced + alignedLen (s.requestPayload ch r).length ≤ r.size) : ∃ (addr : Nat) (p : Pkt) (q : UReq),
    s.compressRequest ch r s.ylogBytes = (if decide (r.taken + s.nextChunk r = r.len) then
      ((s.noteCoded ch (s.code ch (s.requestChunk ch r))).requestStored ch addr p (s.code ch (s.requestChunk ch r)) (s.requestChunk ch r)
        q).endRequest ch 0
      else ((s.noteCoded ch (s.code ch (s.requestChunk ch r))).requestStored ch addr p (s.code ch (s.requestChunk ch r)) (s.requestChunk ch r)
        q).readChunk ch q) ∧
    (p.q = s.reg (Obj.nextChunkSeq ch) ∧ p.payload = s.requestPayload ch r ∧ p.place = r.produced ∧ p.sent = false) ∧
    q.taken = r.taken + s.nextChunk r ∧ q.tag = r.tag ∧ q.ended = r.ended := by
  have free : ¬ (r.ended.isSome = true ∨ s.nextChunk r = 0 ∨ ch = 3 ∧ s.memWaits (.upload 3) = true) := by
    rintro (h | h | ⟨h3, h⟩)
    · simp [runs] at h
    · exact next h
    · simp [served h3] at h
  unfold State.compressRequest
  dsimp only
  rw [if_neg free]
  exact ⟨_, _, _, if_neg (Nat.not_lt.mpr room), ⟨rfl, rfl, rfl, rfl⟩, rfl, rfl, rfl⟩

end

/-- A stored chunk of a request: the channel with its packet and its request. -/
theorem State.requestStored_stores (s : State) (ch addr : Nat) (p : Pkt) (k : Coded) (chunk : List Byte) (q : UReq) :
    ((s.requestStored ch addr p k chunk q).chan ch).pkts = (s.chan ch).pkts ++ [p] ∧
    ((s.requestStored ch addr p k chunk q).chan ch).req = some q ∧
    (s.requestStored ch addr p k chunk q).reg (Obj.nextChunkSeq ch) = (p.q + 1) % 2 ^ 32 ∧
    s.regsBut (s.requestStored ch addr p k chunk q) [Obj.nextChunkSeq ch, Obj.upBytesIn ch] := by
  obtain ⟨stored, next, regs⟩ := s.storePacket_stores ch addr p k chunk
  obtain ⟨pkts, -, -⟩ := (s.chan ch).stored_keeps p k chunk
  unfold State.requestStored
  rw [State.chan_setChan_same, stored]
  exact ⟨pkts, rfl, next, regs⟩

section
variable {s : State} {ch : Fin 4} (up : s.uploadUp = true) {r : UReq} (privileged : 2 ≤ (ch : Nat)) (req : (s.chan ch).req = some r)
  (runs : r.ended = none) (more : r.taken < r.len) (size : 1 ≤ s.reg Obj.chunkSize) (served : (ch : Nat) = 3 → s.memWaits (.upload 3) = false)
include up privileged req runs more size served

omit runs more size served in
theorem exec_chunkCompress_request : exec (.chunkCompress ch) s = ok (s.compressRequest ch r s.ylogBytes) := by
  show execChunkCompress ch s = _
  unfold execChunkCompress
  rw [if_neg (by simp [up]), if_neg (Nat.not_lt.mpr privileged), req]

omit up privileged req runs served in
theorem nextChunk_pos : s.nextChunk r ≠ 0 := by
  unfold State.nextChunk
  omega

theorem chunkCompress_stored (room : r.produced + alignedLen (s.requestPayload ch r).length ≤ r.size) :
    Completes (.chunkCompress ch) s (fun t => t.mode = s.mode ∧
      t.reg (Obj.nextChunkSeq ch) = (s.reg (Obj.nextChunkSeq ch) + 1) % 2 ^ 32 ∧ s.notes t ch (s.code ch (s.requestChunk ch r)) ∧
      (∃ p, (t.chan ch).pkts = (s.chan ch).pkts ++ [p] ∧ p.q = s.reg (Obj.nextChunkSeq ch) ∧ p.payload = s.requestPayload ch r ∧
        p.place = r.produced ∧ p.sent = false) ∧
      ∃ q, (t.chan ch).req = some q ∧ q.taken = r.taken + s.nextChunk r ∧ q.tag = r.tag ∧
        q.ended = (if r.taken + s.nextChunk r = r.len then some 0 else none)) := by
  have ran := exec_chunkCompress_request up privileged req
  have mode := (s.compressRequest_only ch r s.ylogBytes).agree .mode (by decide)
  obtain ⟨addr, p, q, eq, hp, taken, tag, ended⟩ := s.compressRequest_room ch r runs (nextChunk_pos more size) served room
  rw [eq] at ran mode
  generalize s.code ch (s.requestChunk ch r) = k at *
  have notes := s.noteCoded_notes ch.isLt k
  have chan := State.chan_congr ((s.noteCoded_only ch k).agree .chans (by decide)) ch
  generalize s.noteCoded ch k = u at *
  obtain ⟨pkts, request, next, regs⟩ := u.requestStored_stores ch addr p k (s.requestChunk ch r) q
  rw [chan] at pkts
  rw [hp.1] at next
  generalize u.requestStored ch addr p k (s.requestChunk ch r) q = v at *
  replace notes : s.notes v ch k := notes.congr (regs _ (by simp [Obj.noShrink, Obj.nextChunkSeq, Obj.upBytesIn]))
    (regs _ (by simp [Obj.verifyFails, Obj.nextChunkSeq, Obj.upBytesIn]))
  by_cases last : r.taken + s.nextChunk r = r.len
  · rw [if_pos (decide_eq_true last), v.endRequest_waits request (ended.trans runs) (by simp [pkts])] at ran mode
    refine ⟨_, ran, mode, next, notes, ⟨p, ?_, hp⟩, { q with ended := some 0 }, ?_, taken, tag, (if_pos last).symm⟩
    · rw [State.chan_setChan_same]
      exact pkts
    · rw [State.chan_setChan_same]
  · rw [if_neg (by simp [last])] at ran mode
    have asked := v.readChunk_only ch q
    have same := State.chan_congr (asked.agree .chans (by decide)) ch
    have kept := asked.reg (by decide)
    exact ⟨_, ran, mode, (kept _).trans next, notes.congr (kept _) (kept _), ⟨p, by rw [same, pkts], hp⟩, q, by rw [same, request], taken, tag,
      ended.trans (runs.trans (if_neg last).symm)⟩

theorem chunkCompress_stopsFull (full : r.size < r.produced + alignedLen (s.requestPayload ch r).length) (acked : (s.chan ch).pkts = []) :
    Completes (.chunkCompress ch) s (fun t =>
      t = { s with chans := t.chans, doms := t.doms, regs := t.regs, ylog := t.ylog, out := t.out, igrel := t.igrel, flagged := t.flagged } ∧
      s.notes t ch (s.code ch (s.requestChunk ch r)) ∧ (t.chan ch).req = none ∧ t.dom Obj.uploadResult = r.bytes ch 1) := by
  have ran := exec_chunkCompress_request up privileged req
  rw [s.compressRequest_full ch r runs (nextChunk_pos more size) served full] at ran
  generalize s.code ch (s.requestChunk ch r) = k at *
  have notes := s.noteCoded_notes ch.isLt k
  have frame := s.noteCoded_only ch k
  have chan := State.chan_congr (frame.agree .chans (by decide)) ch
  generalize s.noteCoded ch k = u at *
  have ends := u.endRequest_only ch 1
  obtain ⟨gone, result⟩ := u.endRequest_writes (status := 1) (chan ▸ req) runs (chan ▸ acked)
  have whole : Only [.chans, .doms, .regs, .ylog, .out, .igrel, .flagged] s (u.endRequest ch 1) :=
    ends.step (by decide) (frame.mono (by decide))
  exact ⟨_, ran, whole.eq_taking, notes.congr (ends.reg (by decide) _) (ends.reg (by decide) _), gone, result⟩

end

/-! ### Packets, credit and acknowledgement (R341, R349, R350) -/

section
variable {s : State}

/-- A result written back leaves the packets and the credits. -/
theorem State.writeBack_chan (s : State) (ch : Nat) : ((s.writeBack ch).chan ch).pkts = (s.chan ch).pkts ∧
    ((s.writeBack ch).chan ch).credits = (s.chan ch).credits := by
  unfold State.writeBack
  dsimp only
  split
  · exact ⟨rfl, rfl⟩
  · split
    · exact ⟨rfl, rfl⟩
    · split
      · rw [State.chan_congr (s := State.setChan _ ch _) (State.setDom_chans ..), State.chan_setChan_same]
        exact ⟨rfl, rfl⟩
      · exact ⟨rfl, rfl⟩

/-- What the first sending of a packet leaves. -/
theorem State.firstSend_chan (s : State) (ch : Nat) (p : Pkt) : ((s.firstSend ch p).chan ch).pkts = (s.chan ch).pkts ∧
    ((s.firstSend ch p).chan ch).credits = (s.chan ch).credits := by
  unfold State.firstSend State.txTime
  dsimp only
  cases p.closes
  case none =>
    rw [State.chan_setChan_same]
    split <;> exact ⟨rfl, rfl⟩
  case some r =>
    rw [State.chan_congr (s := State.setChan _ ch _) (State.setDom_chans ..), State.chan_setChan_same]
    split <;> exact ⟨rfl, rfl⟩

theorem State.sendPacket_sends (s : State) (ch : Nat) (p : Pkt) : (s.sendPacket ch p).out = rasterOut 4 0xFFFF p.payload :: s.out ∧
    ((s.sendPacket ch p).chan ch).credits = (s.chan ch).credits - p.cost ∧
    ((s.sendPacket ch p).chan ch).pkts = (s.chan ch).pkts.map (fun x => if x.q = p.q then { x with sent := true, resend := false } else x) := by
  unfold State.sendPacket
  extract_lets u v c pkts
  have sent : v.out = u.out ∧ (v.chan ch).pkts = (s.chan ch).pkts ∧ (v.chan ch).credits = (s.chan ch).credits := by
    simp only [v]
    split
    · exact ⟨rfl, rfl, rfl⟩
    · exact ⟨(u.firstSend_only ch p).agree .out (by decide), u.firstSend_chan ch p⟩
  obtain ⟨out, samePkts, credits⟩ := sent
  rw [State.chan_setChan_same]
  exact ⟨out, congrArg (· - p.cost) credits, congrArg (List.map _) samePkts⟩

variable (up : s.uploadUp = true) (raster : s.rasterUp = true)
include up raster

theorem uploadPacketSend_sends {ch : Nat} {p : Pkt} (next : s.nextSender = some (ch, p)) : Completes .uploadPacketSend s (fun t =>
    t.mode = s.mode ∧ t.out = rasterOut 4 0xFFFF p.payload :: s.out ∧ (t.chan ch).credits = (s.chan ch).credits - p.cost ∧
    (t.chan ch).pkts = (s.chan ch).pkts.map (fun x => if x.q = p.q then { x with sent := true, resend := false } else x)) := by
  have ran : exec .uploadPacketSend s = execUploadPacketSend s := rfl
  unfold execUploadPacketSend at ran
  rw [if_pos (by simp [up, raster]), next] at ran
  exact ⟨_, ran, (s.sendPacket_only ch p).agree .mode (by decide), s.sendPacket_sends ch p⟩

theorem uploadCreditGrant_grants {ch v : Nat} (hch : ch < 4) : Completes (.uploadCreditGrant ch v) s (fun t =>
    t = { s with chans := t.chans } ∧ t.chan ch = { s.chan ch with credits := (s.chan ch).credits + v % 2 ^ 32 }) :=
  ⟨_, if_pos (by simp [up, raster, hch]), rfl, State.chan_setChan_same ..⟩

omit up raster in
/-- Sending again from a chunk sequence. -/
theorem State.resendFrom_marks (s : State) (ch q : Nat) : s.resendFrom ch q = { s with
      regs := (s.resendFrom ch q).regs, chans := (s.resendFrom ch q).chans } ∧
    (s.resendFrom ch q).reg (Obj.upResends ch) = countValue (Obj.upResends ch) (s.reg (Obj.upResends ch)) 1 ∧
    s.regsBut (s.resendFrom ch q) [Obj.upResends ch] ∧ ((s.resendFrom ch q).chan ch).pkts =
      (s.chan ch).pkts.map (fun x => if x.sent && decide (0 ≤ dist32 x.q q) then { x with resend := true } else x) :=
  ⟨(s.resendFrom_only ch q).eq_taking, State.reg_bump_same .., State.bump_regsBut _ _, congrArg Chan.pkts (State.chan_setChan_same ..)⟩

theorem uploadResend_marks {ch v : Nat} (hch : ch < 4) (waits : ∃ p ∈ (s.chan ch).pkts, p.sent = true ∧ p.q = v) :
    Completes (.uploadResend ch v) s (fun t =>
      t = { s with regs := t.regs, chans := t.chans } ∧ t.reg (Obj.upResends ch) = countValue (Obj.upResends ch) (s.reg (Obj.upResends ch)) 1 ∧
      s.regsBut t [Obj.upResends ch] ∧
      (t.chan ch).pkts = (s.chan ch).pkts.map (fun x => if x.sent && decide (0 ≤ dist32 x.q v) then { x with resend := true } else x)) := by
  obtain ⟨p, hp, sent, hq⟩ := waits
  have found : (s.chan ch).pkts.any (fun p => p.sent && decide (p.q = v)) = true := List.any_eq_true.mpr ⟨p, hp, by simp [sent, hq]⟩
  exact ⟨_, if_pos (by simp only [up, raster, hch, found]; rfl), s.resendFrom_marks ch v⟩

theorem uploadAck_frees {ch v : Nat} (hch : ch < 4) : Completes (.uploadAck ch v) s (fun t =>
    t = { s with chans := t.chans, doms := t.doms } ∧
    (t.chan ch).pkts = (s.chan ch).pkts.filter (fun x => !(x.sent && decide (dist32 x.q v < 0))) ∧
    (t.chan ch).credits = (s.chan ch).credits) := by
  refine ⟨_, if_pos (by simp [up, raster, hch]), ((s.ackTo_only ch v).mono (by decide) : Only [.chans, .doms] s _).eq_taking, ?_⟩
  unfold State.ackTo
  dsimp only
  obtain ⟨pkts, credits⟩ := (s.setChan ch { s.chan ch with
    pkts := (s.chan ch).pkts.filter (fun x => !(x.sent && decide (dist32 x.q v < 0))) }).writeBack_chan ch
  rw [State.chan_setChan_same] at pkts credits
  exact ⟨pkts, credits⟩

theorem ackTimeoutExpiry_marks {ch : Fin 4} {p : Pkt} {rest : List Pkt} (oldest : (s.chan ch).pkts = p :: rest) (sent : p.sent = true) :
    Completes (.ackTimeoutExpiry ch) s (fun t =>
      t = { s with regs := t.regs, chans := t.chans } ∧ t.reg (Obj.upResends ch) = countValue (Obj.upResends ch) (s.reg (Obj.upResends ch)) 1 ∧
      (t.chan ch).pkts = (p :: rest).map (fun x => if x.sent && decide (0 ≤ dist32 x.q p.q) then { x with resend := true } else x)) := by
  have ran : exec (.ackTimeoutExpiry ch) s = execAckTimeoutExpiry ch s := rfl
  unfold execAckTimeoutExpiry at ran
  rw [oldest] at ran
  dsimp only at ran
  rw [if_pos (by simp [up, raster, sent])] at ran
  obtain ⟨frame, count, -, pkts⟩ := s.resendFrom_marks ch p.q
  exact ⟨_, ran, frame, count, oldest ▸ pkts⟩

end

/-- Settles O49: the chunk in hand of a normal channel by its room, that of a request by its buffer, and a lemma for each packet command. -/
theorem uploadChannelsCodeAndSend : Obligations.UploadChannelsCodeAndSend := by
  refine ⟨fun s ch up => ⟨flushTimeExpiry_flushes up, fun n ends place normal hand => chunkCompress_stores up normal hand,
      fun n ends normal hand full => ?_, fun r privileged req runs more size served =>
        ⟨chunkCompress_stored up privileged req runs more size served, chunkCompress_stopsFull up privileged req runs more size served⟩⟩,
    fun s => ⟨fun _ _ => ⟨s, rfl, rfl⟩, fun up raster => ⟨fun _ _ => uploadPacketSend_sends up raster,
      fun _ _ => uploadCreditGrant_grants up raster, fun _ _ => uploadResend_marks up raster, fun _ _ => uploadAck_frees up raster, fun _ _ _ => ackTimeoutExpiry_marks up raster⟩⟩⟩
  obtain ledger | tap : (ch : Nat) = 0 ∨ (ch : Nat) = 1 := by omega
  · obtain ⟨t, ran, dram, whole, regs, chan, drops⟩ := chunkCompress_keeps up normal hand full ledger
    exact ⟨t, ran, by rw [whole], dram, regs _ (by simp [Obj.nextChunkSeq, Obj.drops]), fun _ => ⟨whole, regs, chan, drops⟩,
      fun tap => absurd (ledger.symm.trans tap) (by decide)⟩
  · obtain ⟨t, ran, mode, dram, next, drops⟩ := chunkCompress_drops up normal hand full tap
    exact ⟨t, ran, mode, dram, next, fun ledger => absurd (ledger.symm.trans tap) (by decide), fun _ => drops⟩

end Sys2Proof.Machine
end

section
/-! SUPPORT. O48 (13 R309 to R321; 14 R331): camera frames, their triggers, their lines and their end, and the camera UARTs. -/

namespace Sys2Proof.Machine

/-! ### The frame of a port -/

/-- The frame of a port is the one it was given. -/
@[simp] theorem State.frame_setFrame_same (s : State) (p : Nat) (f : Frame) : (s.setFrame p f).frame p = some f :=
  (Table.find_insert ..).trans (if_pos rfl)

theorem State.frame_congr {s t : State} (h : t.lantern.frames = s.lantern.frames) (p : Nat) : t.frame p = s.frame p :=
  congrArg (Table.find · p) h

theorem Only.frame {d : List Fld} {s t : State} (h : Only d s t) (p : Nat) (hd : Fld.lantern ∉ d := by decide) : t.frame p = s.frame p :=
  State.frame_congr (congrArg Lantern.frames (h.agree .lantern hd)) p

/-! ### The start of a frame (R311, R315; 14 R336) -/

/-- The next camera of a port is one of its own. -/
theorem State.nextCam_lt {s : State} {p : Fin 2} {c : Nat} (next : s.nextCam p = some c) : c < 8 := by
  obtain ⟨i, -, rfl⟩ := List.mem_map.mp (List.mem_of_find?_eq_some next)
  omega

/-- The generation of a context's frame is no object of a request to the Wick. -/
theorem genInUse_apart {c : Nat} (hc : c < 8) : Obj.genInUse c ∉ requestObjects ∧ Obj.genInUse c ≠ Obj.derateNow ∧
    Obj.genInUse c ≠ Obj.darkFrames ∧ Obj.genInUse c ≠ Obj.drops 1 := by
  have each : ∀ c : Fin 8, Obj.genInUse c ∉ requestObjects ∧ Obj.genInUse c ≠ Obj.derateNow ∧ Obj.genInUse c ≠ Obj.darkFrames ∧
    Obj.genInUse c ≠ Obj.drops 1 := by decide
  exact each ⟨c, hc⟩

/-- Asking for a frame's light writes the objects of the request, or counts a dark frame. -/
theorem State.askLight_regsBut (s : State) (c : Nat) (set : CamSet) (derate : Nat) :
    s.regsBut (s.askLight c set derate).2 (Obj.darkFrames :: requestObjects) := by
  have asked {r : WickReq} {a : WickAnswer} {t : State} (h : s.linesFirst.ask r = (a, t)) :
      s.regsBut t (Obj.darkFrames :: requestObjects) := by
    have answer := (s.linesFirst.ask_regsBut r).trans (s.linesFirst_regsBut.mono (by decide))
    rw [h] at answer
    exact answer.mono (List.subset_cons_self ..)
  unfold State.askLight
  split
  · exact .refl
  · dsimp only
    split
    next h => exact ((State.useLeave_only ..).regsBut (by decide) _).trans (asked h)
    next h => exact ((State.bump_regsBut _ _).mono (by simp)).trans (asked h)

/-- With the driver hot or its block held no light is asked for. -/
theorem State.askLight_dark {s : State} (dark : s.led.hot = true ∨ s.blockUp Block.led = false) (c : Nat) (set : CamSet) (derate : Nat) :
    (s.askLight c set derate).1 = false := by
  unfold State.askLight
  rw [if_pos dark]

/-- A frame takes its generation and its derate factor. -/
def State.takeGen (s : State) (c gen derate : Nat) : State := (s.takeJobs.setReg (Obj.genInUse c) gen).setReg Obj.derateNow derate

section
variable (s : State) (c gen derate : Nat)

theorem State.takeGen_only : Only [.regs, .decomp, .dram] s (s.takeGen c gen derate) :=
  Only.step (State.setReg_only ..) (by decide) (Only.step (State.setReg_only ..) (by decide) (s.takeJobs_only.mono (by decide)))

theorem State.takeGen_regsBut : s.regsBut (s.takeGen c gen derate) [Obj.genInUse c, Obj.derateNow] :=
  State.regsBut.trans ((State.setReg_regsBut _ _ _).mono (by simp))
    (State.regsBut.trans ((State.setReg_regsBut _ _ _).mono (by simp)) (s.takeJobs_only.regsBut (by decide) _))

theorem State.takeGen_gen (apart : Obj.genInUse c ≠ Obj.derateNow) : (s.takeGen c gen derate).reg (Obj.genInUse c) = gen :=
  (State.reg_setReg_other _ _ apart).trans (State.reg_setReg_same ..)

theorem State.takeGen_blockUp (hc : c < 8) (b : Nat) : (s.takeGen c gen derate).blockUp b = s.blockUp b := by
  have regs := s.takeGen_regsBut c gen derate
  unfold State.blockUp
  rw [regs Obj.blockReset (by simp [Obj.genInUse, Obj.blockReset, Obj.derateNow]; omega),
    regs Obj.blockPended (by simp [Obj.genInUse, Obj.blockPended, Obj.derateNow]; omega)]

end

theorem State.startTap_keepsFrames (s : State) (c : Nat) : (s.startTap c).lantern.frames = s.lantern.frames ∧
    s.regsBut (s.startTap c) [Obj.drops 1] := by
  unfold State.startTap
  split
  · split <;> exact ⟨rfl, .refl⟩
  · dsimp only
    split
    · split
      · exact ⟨rfl, s.bump_regsBut _⟩
      · exact ⟨rfl, .refl⟩
    · exact ⟨rfl, .refl⟩
  · exact ⟨rfl, .refl⟩

/-- What a frame that starts leaves of the state in which its light has been asked for. -/
theorem State.startFrame_starts (s : State) (p c : Nat) (f : Frame) (next : Table Nat) :
    let t := ({ s.setFrame p f with lantern := { (s.setFrame p f).lantern with nextCtx := next } }.select p c).startTap c
    t.mode = s.mode ∧ t.out.head? = some (.camSel p (c % 4)) ∧ t.frame p = some f ∧ s.regsBut t [Obj.drops 1] := by
  intro t
  obtain ⟨frames, regs⟩ := State.startTap_keepsFrames
    ({ s.setFrame p f with lantern := { (s.setFrame p f).lantern with nextCtx := next } }.select p c) c
  have kept := State.startTap_only ({ s.setFrame p f with lantern := { (s.setFrame p f).lantern with nextCtx := next } }.select p c) c
  exact ⟨kept.agree .mode (by decide), congrArg List.head? (kept.agree .out (by decide)),
    (State.frame_congr frames p).trans (s.frame_setFrame_same p f), regs⟩

section
variable {s : State} {p : Fin 2}

theorem cameraFrameStart_starts {c : Nat} (up : s.blockUp Block.lantern = true) (works : s.mode.working = true)
    (enabled : (s.reg Obj.portEnable).testBit p = true) (free : s.frame p = none) (idle : s.uartIdle p = true) (next : s.nextCam p = some c) :
    Completes (.cameraFrameStart p) s (fun t => t.mode = s.mode ∧ t.out.head? = some (.camSel p (c % 4)) ∧
      ∃ f, t.frame p = some f ∧ f.ctx = c ∧ f.set = (s.commitNow c).set ∧ f.gen = (s.commitNow c).gen ∧ f.sof = s.nowNs ∧
        f.derate = s.derate ∧ f.trigs = [] ∧ f.lines = 0 ∧ t.reg (Obj.genInUse c) = (s.commitNow c).gen ∧
        (s.led.hot = true ∨ s.blockUp Block.led = false → f.lit = false)) := by
  have ran : exec (.cameraFrameStart p) s = execCameraFrameStart p s := rfl
  unfold execCameraFrameStart at ran
  rw [if_neg (by simp [up, works, enabled, free, idle]), next] at ran
  dsimp only at ran
  obtain ⟨request, derate, darkFrames, drops⟩ := genInUse_apart (s.nextCam_lt next)
  have led (h : s.led.hot = true ∨ s.blockUp Block.led = false) : (s.takeGen c (s.commitNow c).gen s.derate).led.hot = true ∨
      (s.takeGen c (s.commitNow c).gen s.derate).blockUp Block.led = false := by
    rwa [(s.takeGen_only ..).agree .led (by decide), s.takeGen_blockUp c _ _ (s.nextCam_lt next)]
  have taken := s.takeGen_only c (s.commitNow c).gen s.derate
  have gen := s.takeGen_gen c (s.commitNow c).gen s.derate derate
  rw [← State.takeGen] at ran
  generalize s.takeGen c (s.commitNow c).gen s.derate = u at ran taken gen led
  have asked := u.askLight_only c (s.commitNow c).set s.derate
  have askedRegs := u.askLight_regsBut c (s.commitNow c).set s.derate
  have dark := fun h => u.askLight_dark (led h) c (s.commitNow c).set s.derate
  generalize u.askLight c (s.commitNow c).set s.derate = x at ran asked askedRegs dark
  obtain ⟨lit, v⟩ := x
  have clock : v.clock = s.clock := (asked.agree .clock (by decide)).trans (taken.agree .clock (by decide))
  obtain ⟨mode, sel, frame, regs⟩ := v.startFrame_starts p c _ _
  exact ⟨_, ran, mode.trans ((asked.agree .mode (by decide)).trans (taken.agree .mode (by decide))), sel, _, frame, rfl, rfl, rfl,
    by rw [State.nowNs, clock, State.nowNs], rfl, rfl, rfl,
    (regs _ (by simpa using drops)).trans ((askedRegs _ (by simp [request, darkFrames])).trans gen), dark⟩

/-! ### The triggers (R311, R312; 14 R331) -/

/-- A window opens for the row slots where none is open. -/
theorem State.openWindow_closed {u : State} (closed : u.windowOpen = false) (c exposure : Nat) (ons : List Nat) :
    u.openWindow c exposure ons = { u with
      led := { u.led with window := some { ctx := c, start := u.nowPs, slot := slotPs exposure, blank := 1000 * u.reg Obj.ledBlank, ons := ons } }
      out := .led c (slotPs exposure) (1000 * u.reg Obj.ledBlank) ons :: u.out } := by
  unfold State.openWindow
  rw [if_neg (by simp [closed])]
  rfl

theorem State.openWindow_open {u : State} (opened : u.windowOpen = true) (c exposure : Nat) (ons : List Nat) :
    u.openWindow c exposure ons = u := if_pos opened

/-- The port's TRIG pulse, noted in its frame. -/
def State.trigger (s : State) (p : Nat) (f : Frame) : State :=
  (s.setFrame p { f with trigs := f.trigs ++ [s.nowNs] }).emit (.camTrig p f.set.exposure)

theorem exec_cameraTrigger {f : Frame} (frame : s.frame p = some f) (left : f.trigs.length < f.set.lines) : exec (.cameraTrigger p) s =
    ok (if f.lit && s.blockUp Block.led then (s.trigger p f).openWindow f.ctx f.set.exposure (s.onTimes f.set f.derate)
      else s.trigger p f) := by
  have ran : exec (.cameraTrigger p) s = execCameraTrigger p s := rfl
  unfold execCameraTrigger at ran
  rw [frame] at ran
  exact ran.trans (if_pos left)

theorem cameraTrigger_triggers {f : Frame} (frame : s.frame p = some f) (left : f.trigs.length < f.set.lines) :
    Completes (.cameraTrigger p) s (fun t => t = { s with lantern := t.lantern, out := t.out, led := t.led } ∧
      t.frame p = some { f with trigs := f.trigs ++ [s.nowNs] } ∧
      if f.lit = true ∧ s.blockUp Block.led = true ∧ s.windowOpen = false then
        t.out = .led f.ctx (slotPs f.set.exposure) (1000 * s.reg Obj.ledBlank) (s.onTimes f.set f.derate) :: .camTrig p f.set.exposure :: s.out ∧
        ∃ w, t.led = { s.led with window := some w } ∧ w.ctx = f.ctx ∧ w.start = s.nowPs ∧ w.slot = slotPs f.set.exposure ∧
          w.blank = 1000 * s.reg Obj.ledBlank ∧ w.ons = s.onTimes f.set f.derate
      else t.out = .camTrig p f.set.exposure :: s.out ∧ t.led = s.led) := by
  have ran := exec_cameraTrigger frame left
  have triggered := s.frame_setFrame_same p { f with trigs := f.trigs ++ [s.nowNs] }
  by_cases opens : f.lit = true ∧ s.blockUp Block.led = true ∧ s.windowOpen = false
  · obtain ⟨lit, up, closed⟩ := opens
    have window := State.openWindow_closed (u := s.trigger p f) closed f.ctx f.set.exposure (s.onTimes f.set f.derate)
    rw [if_pos (by simp [lit, up]), window] at ran
    refine ⟨_, ran, rfl, triggered, ?_⟩
    rw [if_pos ⟨lit, up, closed⟩]
    exact ⟨rfl, _, rfl, rfl, rfl, rfl, rfl, rfl⟩
  · have none_ : exec (.cameraTrigger p) s = ok (s.trigger p f) := by
      rw [ran]
      split
      next lit =>
        have opened : s.windowOpen = true := by simpa [Bool.and_eq_true_iff.mp lit] using opens
        rw [State.openWindow_open (u := s.trigger p f) opened]
      next => rfl
    refine ⟨_, none_, rfl, triggered, ?_⟩
    rw [if_neg opens]
    exact ⟨rfl, rfl⟩

/-! ### A line that breaks a limit, and one beyond the frame (R310, R317) -/

theorem State.breach_marks (s : State) (p : Nat) : s.breach p = { s with
      regs := (s.breach p).regs, lantern := (s.breach p).lantern, flagged := (s.breach p).flagged } ∧
    p ∈ (s.breach p).lantern.deaf ∧ (s.breach p).frame p = (s.frame p).map (fun f => { f with breached := true }) ∧
    (s.breach p).reg Obj.lanternStatus = s.reg Obj.lanternStatus ||| 2 ^ p ∧ s.regsBut (s.breach p) [Obj.lanternStatus] := by
  refine ⟨(s.breach_only p).eq_taking, ?_⟩
  have regs := s.setBits_regsBut Obj.lanternStatus (2 ^ p)
  have status := s.reg_setBits_same Obj.lanternStatus (2 ^ p)
  have same := (s.setBits_only Obj.lanternStatus (2 ^ p)).frame p
  unfold State.breach
  generalize s.setBits Obj.lanternStatus (2 ^ p) = u at regs status same ⊢
  dsimp only
  split
  next f frame =>
    have framed : s.frame p = some f := same.symm.trans frame
    exact ⟨List.mem_cons_self .., by rw [State.frame_setFrame_same, framed]; rfl, status, regs⟩
  next frame =>
    have framed : s.frame p = none := same.symm.trans frame
    exact ⟨List.mem_cons_self .., by rw [framed]; exact frame, status, regs⟩

section
variable {line : CamLine} (up : s.blockUp Block.lantern = true) (enabled : (s.reg Obj.portEnable).testBit p = true)
  (hears : (p : Nat) ∉ s.lantern.deaf)
include up enabled hears

theorem cameraLine_breaches (broken : s.breaches p line = true) : Completes (.cameraLine p line) s (fun t =>
    t = { s with regs := t.regs, lantern := t.lantern, flagged := t.flagged } ∧ (p : Nat) ∈ t.lantern.deaf ∧
    t.frame p = (s.frame p).map (fun f => { f with breached := true }) ∧
    t.reg Obj.lanternStatus = s.reg Obj.lanternStatus ||| 2 ^ (p : Nat) ∧ s.regsBut t [Obj.lanternStatus]) :=
  ⟨_, (if_neg (by simp [up, enabled, hears])).trans (if_pos broken), s.breach_marks p⟩

theorem exec_cameraLine {f : Frame} (kept : s.breaches p line = false) (frame : s.frame p = some f) : exec (.cameraLine p line) s =
    if f.set.lines ≤ f.lines then ok (s.setFrame p { f with flags := f.flags ||| 8 })
    else ok (s.frameLine p f (s.pixelsOf p line.words)) := by
  have ran : exec (.cameraLine p line) s = execCameraLine p line s := rfl
  unfold execCameraLine at ran
  rwa [if_neg (by simp [up, enabled, hears]), if_neg (by simp [kept]), frame] at ran

theorem cameraLine_over {f : Frame} (kept : s.breaches p line = false) (frame : s.frame p = some f) (beyond : f.set.lines ≤ f.lines) :
    Completes (.cameraLine p line) s (fun t => t = { s with lantern := t.lantern } ∧ t.frame p = some { f with flags := f.flags ||| 8 }) :=
  ⟨_, (exec_cameraLine up enabled hears kept frame).trans (if_pos beyond), rfl, s.frame_setFrame_same p _⟩

end

end
end Sys2Proof.Machine
end

section
/-! SUPPORT. O48 (13 R317 to R327): a line is taken by its frame, whatever detection makes of it. -/

namespace Sys2Proof.Machine

/-! ### What a frame has taken -/

/-- The lines and pixels that a frame has taken, with its flags. -/
def Frame.taken (f : Frame) : Nat × Nat × Nat × Nat := (f.lines, f.numV, f.padded, f.flags)

/-- The frame of a port has taken the same. -/
def SameTaken (p : Nat) (s t : State) : Prop := (t.frame p).map Frame.taken = (s.frame p).map Frame.taken

section
variable {p : Nat} {s t u : State}

theorem SameTaken.refl : SameTaken p s s := rfl

theorem SameTaken.step (h : SameTaken p t u) (k : SameTaken p s t) : SameTaken p s u := Eq.trans h k

theorem SameTaken.ite {c : Prop} [Decidable c] (h : c → SameTaken p s t) (k : ¬ c → SameTaken p s u) : SameTaken p s (if c then t else u) := by
  split <;> solve_by_elim

/-- With the frames as they are they have taken the same. -/
theorem SameTaken.of_frames (h : t.lantern.frames = s.lantern.frames) : SameTaken p s t := congrArg (Option.map _) (State.frame_congr h p)

theorem Only.sameTaken {d : List Fld} (h : Only d s t) (hd : Fld.lantern ∉ d := by decide) : SameTaken p s t :=
  .of_frames (congrArg Lantern.frames (h.agree .lantern hd))

/-- A frame whose statistics of rungs and verdicts alone change has taken the same. -/
theorem SameTaken.setFrame {f g : Frame} (frame : s.frame p = some f) (same : g.taken = f.taken) : SameTaken p s (s.setFrame p g) := by
  unfold SameTaken
  rw [State.frame_setFrame_same, frame, Option.map_some, Option.map_some, same]

end

/-! ### Detection (R322 to R327) -/

section
variable (s : State) (p : Nat)

theorem State.verdicts_sameTaken (r : Rung) (med : Nat × Nat) (l : List (Nat × Nat × Nat)) : SameTaken p s (s.verdicts p r med l).2 := by
  induction l generalizing s with
  | nil => exact .refl
  | cons x l ih =>
    unfold State.verdicts
    split
    · exact ih s
    next g _ =>
      have judged : SameTaken p s (s.verdict g (s.candidate x.2 med)).2 := (s.verdict_only ..).sameTaken
      refine (ih _).step ?_
      split
      next f frame => exact SameTaken.step (.setFrame frame rfl) judged
      next => exact judged

theorem State.evaluateRung_sameTaken (c : Nat) (r : Rung) : SameTaken p s (s.evaluateRung p c r) := by
  unfold State.evaluateRung
  dsimp only
  refine .ite (fun _ => .of_frames rfl) fun _ => ((State.writeFindings_only ..).sameTaken).step ((State.verdicts_sameTaken ..).step ?_)
  split
  next f frame => exact SameTaken.step (.setFrame frame rfl) (.of_frames rfl)
  next => exact .of_frames rfl

theorem State.takeRef_sameTaken (c n : Nat) (line : List Byte) : SameTaken p s (s.takeRef p c n line) := by
  unfold State.takeRef
  dsimp only
  split
  next r _ =>
    have evaluated := s.evaluateRung_sameTaken p c r
    exact .ite (fun _ => .of_frames rfl) fun _ => .ite (fun _ => SameTaken.step (.of_frames rfl) evaluated) fun _ => evaluated
  next => exact .ite (fun _ => .of_frames rfl) fun _ => .refl

theorem State.spoilRung_sameTaken (c n : Nat) : SameTaken p s (s.spoilRung c n) := by
  unfold State.spoilRung
  split <;> exact .of_frames rfl

theorem State.refLate_sameTaken (c next n : Nat) : SameTaken p s (s.refLate c next n) := by
  unfold State.refLate
  exact .ite (fun _ => .refl) fun _ => ((State.setBits_only ..).sameTaken).step (((State.count_only ..).sameTaken).step (.of_frames rfl))

theorem State.takeRefs_sameTaken (c k n fuel : Nat) : SameTaken p s (s.takeRefs p c k n fuel) := by
  induction fuel generalizing s with
  | zero => exact .refl
  | succ fuel ih =>
    have supplied {x : AuxRes} {t : State} (h : s.takeAux k = (x, t)) : SameTaken p s t := by
      have only := s.takeAux_only k
      rw [h] at only
      exact only.sameTaken
    unfold State.takeRefs
    refine .ite (fun _ => .refl) fun _ => ?_
    split
    next h => exact (State.refLate_sameTaken ..).step ((State.spoilRung_sameTaken ..).step (supplied h))
    next h => exact (ih _).step ((State.spoilRung_sameTaken ..).step ((State.refLate_sameTaken ..).step (supplied h)))
    next h =>
      exact (ih _).step (.ite (fun _ => (State.spoilRung_sameTaken ..).step (supplied h))
        fun _ => (State.takeRef_sameTaken ..).step (supplied h))

theorem State.noteRung_sameTaken (c gen lo hi : Nat) (cols : Table Nat) : SameTaken p s (s.noteRung c gen lo hi cols) := by
  unfold State.noteRung
  split
  · exact .refl
  · exact .ite (fun _ => .of_frames rfl) fun _ => .refl

theorem State.detect_sameTaken (f : Frame) (cols : Table Nat) (cRise cMid cFall : Nat) :
    SameTaken p s (s.detect p f cols cRise cMid cFall) := by
  unfold State.detect
  refine .ite (fun _ => ?_) fun _ => .refl
  exact .ite (fun _ => (State.noteRung_sameTaken ..).step (State.takeRefs_sameTaken ..)) fun _ => State.takeRefs_sameTaken ..

end

/-! ### A line that its frame takes (R309, R317, R320) -/

/-- The defect stage gives a value for each pixel. -/
@[simp] theorem defectStage_length (bad v : List Nat) : (defectStage bad v).length = v.length := by
  simp [defectStage]

/-- What a frame has taken with a line of pixels more, made to a length. -/
def Frame.takenWith (f : Frame) (n len : Nat) : Nat × Nat × Nat × Nat :=
  (f.lines + 1, f.numV + min n len, f.padded + (len - n), f.flags ||| (if n < len then 1 else if len < n then 2 else 0))

theorem State.frameLine_takes (s : State) (p : Nat) (f : Frame) (pixels : List Nat) :
    ((s.frameLine p f pixels).frame p).map Frame.taken = some (f.takenWith pixels.length (s.reg (Obj.pixelsPerLine f.ctx))) := by
  unfold State.frameLine
  extract_lets c len raw real pad flags a v d u
  have noted (count : Nat) : (f.note d pad.length count flags).taken = f.takenWith pixels.length len := by
    simp [Frame.taken, Frame.note, Frame.takenWith, d, v, a, real, raw, pad, flags, min_comm]
    omega
  split
  · rw [← noted]
    exact congrArg (Option.map Frame.taken) (State.frame_setFrame_same ..)
  · rw [← noted]
    exact (State.detect_sameTaken ..).trans (congrArg (Option.map Frame.taken) (State.frame_setFrame_same ..))

theorem cameraLine_takes {s : State} {p : Fin 2} {line : CamLine} {f : Frame} (up : s.blockUp Block.lantern = true)
    (enabled : (s.reg Obj.portEnable).testBit p = true) (hears : (p : Nat) ∉ s.lantern.deaf) (kept : s.breaches p line = false)
    (frame : s.frame p = some f) (room : f.lines < f.set.lines) :
    let len := s.reg (Obj.pixelsPerLine f.ctx)
    let px := s.pixelsOf p line.words
    Completes (.cameraLine p line) s (fun t => t.mode = s.mode ∧ t.pins = s.pins ∧ ∃ x, t.frame p = some x ∧ x.lines = f.lines + 1 ∧
      x.numV = f.numV + min px.length len ∧ x.padded = f.padded + (len - px.length) ∧
      x.flags = f.flags ||| (if px.length < len then 1 else if len < px.length then 2 else 0)) := by
  intro len px
  have only := s.frameLine_only p f px
  obtain ⟨x, framed, taken⟩ := Option.map_eq_some_iff.mp (s.frameLine_takes p f px)
  obtain ⟨lines, rest⟩ := Prod.mk.inj taken
  obtain ⟨numV, rest⟩ := Prod.mk.inj rest
  obtain ⟨padded, flags⟩ := Prod.mk.inj rest
  exact ⟨_, (exec_cameraLine up enabled hears kept frame).trans (if_neg (by omega)), only.agree .mode (by decide), only.agree .pins (by decide),
    x, framed, lines, numV, padded, flags⟩

end Sys2Proof.Machine
end

section
/-! SUPPORT. O48 (13 R311, R317, R319, R321): the end of a frame, and the camera UARTs. -/

namespace Sys2Proof.Machine

/-! ### The end of a frame (R311, R317, R321) -/

theorem State.endTap_frames (s : State) (c : Nat) : (s.endTap c).lantern.frames = s.lantern.frames := by
  have flushed (t : State) : t.endRun.lantern.frames = t.lantern.frames :=
    congrArg Lantern.frames ((State.endRun_only t).agree .lantern (by decide))
  unfold State.endTap
  split
  · rfl
  · split
    · rfl
    · split
      · exact flushed _
      · rfl

/-- A frame is counted, with its faults, and taken from its port. -/
def State.closeFrame (s : State) (p c faults : Nat) : State :=
  let t := (s.bump (Obj.frames c)).count (Obj.frameFaults c) faults
  { t with lantern := { t.lantern with frames := Table.erase t.lantern.frames p } }.endTap c

/-- The flags that a frame has at its end. -/
def Frame.endFlags (f : Frame) (extra : Nat) (pad : Bool) : Nat :=
  f.flags ||| extra ||| (if pad && (decide (f.lines < f.set.lines) || f.breached) then 4 else 0)

/-- The faults of a frame: those of its flags that are fault flags. -/
def frameFaultCount (flags : Nat) : Nat := ((List.range 5).filter (fun b => flags.testBit b)).length

/-- The end of a frame pads and records it, and then closes it. -/
theorem State.endFrame_eq {s : State} {p : Nat} {f : Frame} (frame : s.frame p = some f) (extra : Nat) (pad : Bool) :
    ∃ u, Only [.doms, .chans, .freeCtr] s u ∧ s.endFrame p extra pad = u.closeFrame p f.ctx (frameFaultCount (f.endFlags extra pad)) := by
  unfold State.endFrame
  split
  next none_ => rw [frame] at none_; cases none_
  next g framed =>
  obtain rfl : f = g := Option.some.inj (frame.symm.trans framed)
  extract_lets missing len flags f1 line s1 faults
  have same : flags = f.endFlags extra pad := by cases pad <;> simp [flags, missing, Frame.endFlags]
  have padded : Only [.chans] s s1 := .foldl (fun t _ => t.tapLine_only ..) .refl
  have recorded : Only [.chans, .freeCtr] s (s1.frameRecord f1).2 := (State.frameRecord_only ..).step (by decide) (padded.mono (by decide))
  split
  next rec u hrec =>
  rw [hrec] at recorded
  refine ⟨u.setDom (Obj.lastRecord f.ctx) rec, (State.setDom_only ..).step (by decide) (recorded.mono (by decide)), ?_⟩
  rw [← same]
  rfl

section
variable {s : State} {p : Fin 2} {f : Frame}

/-- A frame has ended with its flags: it is counted, with its faults, and its port has none. -/
def State.ended (s t : State) (p : Nat) (f : Frame) (flags : Nat) : Prop := t.mode = s.mode ∧ t.frame p = none ∧
  t.reg (Obj.frames f.ctx) = countValue (Obj.frames f.ctx) (s.reg (Obj.frames f.ctx)) 1 ∧
  t.reg (Obj.frameFaults f.ctx) = countValue (Obj.frameFaults f.ctx) (s.reg (Obj.frameFaults f.ctx)) (frameFaultCount flags)

theorem State.closeFrame_counts (s : State) (p c faults : Nat) : (s.closeFrame p c faults).mode = s.mode ∧
    (s.closeFrame p c faults).frame p = none ∧
    (s.closeFrame p c faults).reg (Obj.frames c) = countValue (Obj.frames c) (s.reg (Obj.frames c)) 1 ∧
    (s.closeFrame p c faults).reg (Obj.frameFaults c) = countValue (Obj.frameFaults c) (s.reg (Obj.frameFaults c)) faults := by
  unfold State.closeFrame
  have apart : Obj.frames c ≠ Obj.frameFaults c := by unfold Obj.frames Obj.frameFaults; omega
  have counted : (((s.bump (Obj.frames c)).count (Obj.frameFaults c) faults).reg (Obj.frames c)) =
      countValue (Obj.frames c) (s.reg (Obj.frames c)) 1 := (State.reg_count_other _ _ apart).trans (State.reg_bump_same ..)
  have faulted : (((s.bump (Obj.frames c)).count (Obj.frameFaults c) faults).reg (Obj.frameFaults c)) =
      countValue (Obj.frameFaults c) (s.reg (Obj.frameFaults c)) faults :=
    (State.reg_count_same ..).trans (by rw [State.reg_bump_other _ apart.symm])
  have mode : ((s.bump (Obj.frames c)).count (Obj.frameFaults c) faults).mode = s.mode := rfl
  generalize (s.bump (Obj.frames c)).count (Obj.frameFaults c) faults = t at counted faulted mode
  have closed := State.endTap_only { t with lantern := { t.lantern with frames := Table.erase t.lantern.frames p } } c
  exact ⟨(closed.agree .mode (by decide)).trans mode,
    (State.frame_congr (State.endTap_frames ..) p).trans ((Table.find_erase ..).trans (if_pos rfl)),
    (closed.reg (by decide) _).trans counted, (closed.reg (by decide) _).trans faulted⟩

theorem State.endFrame_ended (frame : s.frame p = some f) (extra : Nat) (pad : Bool) :
    s.ended (s.endFrame p extra pad) p f (f.endFlags extra pad) := by
  obtain ⟨u, only, eq⟩ := State.endFrame_eq frame extra pad
  obtain ⟨mode, none_, counted, faulted⟩ := u.closeFrame_counts p f.ctx (frameFaultCount (f.endFlags extra pad))
  rw [eq]
  rw [only.reg (by decide)] at counted faulted
  exact ⟨mode.trans (only.agree .mode (by decide)), none_, counted, faulted⟩

/-- Missing lines or a breach make a frame that is padded short. -/
theorem Frame.endFlags_padded (f : Frame) : f.endFlags 0 true = f.flags ||| (if f.lines < f.set.lines ∨ f.breached = true then 4 else 0) := by
  simp [Frame.endFlags]

theorem Frame.endFlags_missing (f : Frame) : f.endFlags 16 false = f.flags ||| 16 := by
  simp [Frame.endFlags]

theorem cameraFrameEnd_ends (frame : s.frame p = some f) : Completes (.cameraFrameEnd p) s (fun t =>
    s.ended t p f (f.flags ||| (if f.lines < f.set.lines ∨ f.breached = true then 4 else 0)) ∧ (p : Nat) ∉ t.lantern.deaf) := by
  have ended := State.endFrame_ended frame 0 true
  rw [f.endFlags_padded] at ended
  exact ⟨_, rfl, ended, by simp⟩

theorem exec_cameraFrameTimeout (frame : s.frame p = some f) (all : f.set.lines ≤ f.trigs.length) (rose : Bool) :
    exec (.cameraFrameTimeout p rose) s = if rose then ok (s.endFrame p 0 true) else ok (s.endFrame p 16 false) := by
  have ran : exec (.cameraFrameTimeout p rose) s = execCameraFrameTimeout p rose s := rfl
  unfold execCameraFrameTimeout at ran
  rw [frame] at ran
  exact ran.trans (if_neg (by omega))

theorem cameraFrameTimeout_ends (frame : s.frame p = some f) (all : f.set.lines ≤ f.trigs.length) :
    Completes (.cameraFrameTimeout p false) s (fun t => s.ended t p f (f.flags ||| 16)) ∧
    Completes (.cameraFrameTimeout p true) s (fun t =>
      s.ended t p f (f.flags ||| (if f.lines < f.set.lines ∨ f.breached = true then 4 else 0))) := by
  have missing := State.endFrame_ended frame 16 false
  have short := State.endFrame_ended frame 0 true
  rw [f.endFlags_missing] at missing
  rw [f.endFlags_padded] at short
  exact ⟨⟨_, exec_cameraFrameTimeout frame all false, missing⟩, _, exec_cameraFrameTimeout frame all true, short⟩

/-! ### The camera UARTs (R319) -/

theorem uartTransfer_sends {b : List Byte} (queued : Table.get Uart.idle s.lantern.uarts p = .queued b) (free : s.frame p = none)
    (up : s.blockUp Block.lantern = true) : Completes (.uartTransfer p) s (fun t =>
      t = { s with lantern := t.lantern, out := .uart p (s.reg Obj.uartBaud) b :: .camSel p (s.reg Obj.uartContext % 4) :: s.out } ∧
      Table.get Uart.idle t.lantern.uarts p = .waiting ∧ Table.get 0 t.lantern.sel p = s.reg Obj.uartContext % 4) := by
  have ran : exec (.uartTransfer p) s = execUartTransfer p s := rfl
  unfold execUartTransfer at ran
  rw [queued] at ran
  exact ⟨_, ran.trans (if_neg (by simp [free, up])), rfl, Table.get_put_same Uart.idle s.lantern.uarts p .waiting,
    Table.get_put_same 0 s.lantern.sel p _⟩

theorem uartRxDone_takes {b : List Byte} (waits : Table.get Uart.idle s.lantern.uarts p = .waiting) :
    Completes (.uartRxDone p b) s (fun t =>
      t = { s with lantern := t.lantern, doms := t.doms } ∧ t.dom Obj.uartRx = b.take 256 ∧ t.uartIdle p = true) := by
  have ran : exec (.uartRxDone p b) s = execUartRxDone p b s := rfl
  unfold execUartRxDone at ran
  rw [waits] at ran
  exact ⟨_, ran, rfl, s.dom_setDom_plain _ (zeroDefaultSize_eq_zero (by decide) (by decide)),
    decide_eq_true (Table.get_put_same Uart.idle s.lantern.uarts p .idle)⟩

end

/-- Settles O48, command by command: a frame taken through its start, its triggers, its lines and its end, and the UARTs. -/
theorem cameraFramesAndLines : Obligations.CameraFramesAndLines := fun _ _ =>
  ⟨fun _ up works enabled free idle next => cameraFrameStart_starts up works enabled free idle next,
    fun _ frame left => cameraTrigger_triggers frame left,
    fun _ up enabled hears => ⟨fun broken => cameraLine_breaches up enabled hears broken,
      fun _ kept frame beyond => cameraLine_over up enabled hears kept frame beyond,
      fun _ kept frame room => cameraLine_takes up enabled hears kept frame room⟩,
    fun _ frame => ⟨cameraFrameEnd_ends frame, fun all => cameraFrameTimeout_ends frame all⟩,
    fun _ queued free up => uartTransfer_sends queued free up,
    fun _ waits => uartRxDone_takes waits⟩

end Sys2Proof.Machine
end
